-- ==== Sys2Proof/Word.lean ====
section
/-!
DEFINITION. The word types of the Mynozal: bit vectors for what the manual treats as bits (00_scope, R6, R7, R37).
-/

namespace Sys2Proof

/-- One byte. -/
abbrev Byte := BitVec 8
/-- One limb word of 36 bits (R37). -/
abbrev W36 := BitVec 36
/-- A 32-bit register or counter. -/
abbrev W32 := BitVec 32
/-- A 64-bit register, time base or Ledger value. -/
abbrev W64 := BitVec 64
/-- An instruction of 128 bits (R100); also a metadata record (R47). -/
abbrev W128 := BitVec 128
/-- An accumulator of the Matrix Array (R137). -/
abbrev W80 := BitVec 80
/-- A line is 16 words, word 0 first (R37). -/
abbrev Line := List W36

/-- Sparse data by key: rising keys, no entry equal to what an unlisted key reads as. -/
abbrev NMap (α : Type) := List (Nat × α)

end Sys2Proof
end

