-- ==== Sys2Proof/Syntax.lean ====
section
/-!
DEFINITION. The commands of the block, one constructor for each row of spec/opcode_table.json.

An operand names the unit a row acts on (a stall position, a Team, a context slot, a port, a message in flight) and
carries what comes from outside the block: the bytes of a packet, the value of a register write, the result of a
physical measurement, or the presence of a physical error that a check then detects.
-/

namespace Sys2Proof

/-- Physical positions are numbered 0 to 831 (R16). -/
abbrev Position := Nat
/-- One of the four Teams of a stall (R71). -/
abbrev TeamIx := Fin 4
/-- One of the 64 context slots (R366). -/
abbrev CtxIx := Fin 64
/-- One of the 48 Rhoa Link ports (R329). -/
abbrev PortIx := Fin 48
/-- One of the eight HBM3E stacks (R14). -/
abbrev StackIx := Fin 8

/-- What a controller meets when it transfers and decodes one granule (R313, R314). Every field at its default: nothing. -/
structure MemErr where
  /-- Transfers that failed before the one that passed. -/
  retries : Fin 5 := 0
  /-- The fourth retry failed too. -/
  exhausted : Bool := false
  /-- The slot write that follows an exhausted write exhausted its retries as well. -/
  slotToo : Bool := false
  /-- The inner code corrected something. -/
  inner : Bool := false
  /-- The inner code reports an uncorrectable error. -/
  innerBad : Bool := false
  /-- Symbols that the outer code corrected in each codeword where it corrected any (corrected class only). -/
  outer : List (Fin 5) := []
  /-- The outer decode fails (corrected class only). -/
  beyond : Bool := false
  /-- A MAC does not verify: that of the slot, or that of the granule. -/
  mac : Option Bool := none
  deriving DecidableEq, Repr

/-- Nothing goes wrong. -/
def MemErr.clean : MemErr := {}

/-- What is met at each of several granules that one command reads; nothing at a granule that is not listed. -/
abbrev MemErrs : Type := List (Nat × MemErr)

/-- What is met at granule g. -/
def MemErrs.at_ (es : MemErrs) (g : Nat) : MemErr :=
  match es.find? fun e => e.1 = g with
  | some e => e.2
  | none => .clean

/-- What a Drover meets as it reads the blocks of its entries: `bad` says that a block fails its stored tally (R395), and `errs` what
the transfers of the granules meet (R257). -/
structure DrvReads where
  bad  : Bool := false
  errs : MemErrs := []
  deriving DecidableEq, Repr

/-- An open gang of a Drover, by number, and what the Drover meets as it serves it (R253). -/
structure GangServe where
  gang  : Nat
  reads : DrvReads := {}
  deriving DecidableEq, Repr

/-- What the read and the write of a merged granule meet (R315). -/
structure MergeErrs where
  read  : MemErr := .clean
  write : MemErr := .clean
  deriving DecidableEq, Repr

/-- A half of the Granary that writes back dirty lines, and what the transfers meet (R323). -/
structure HalfWriteback where
  half : Fin 2
  errs : MemErrs := []
  deriving DecidableEq, Repr

/-- What the ECC of a Granary line meets (R322). -/
inductive EccErr where
  | clean
  | corrected
  | double
  deriving DecidableEq, Repr

/-- Who asks for a window, register or message (R364, R469). -/
inductive Requester where
  | pf
  | vf (n : Fin 64)
  | debugPort
  | ostler
  deriving DecidableEq, Repr

/-- The transport on which a management or SPDM message arrives (R427, R469). -/
inductive Transport where
  | doe
  | net (addr : BitVec 32)
  | i3c
  | rhoa (device : BitVec 15)
  deriving DecidableEq, Repr

/-- What the checks of an engine find when an instruction finishes: nothing, a residue mismatch (R390), or an access to
a line that a Loft bank suppressed (R482). -/
inductive EngineCheck where
  | clean
  | residue
  | slotViolation (line : Nat)
  deriving DecidableEq, Repr

/-- What the checks find when a line arrives at a stall: nothing, that the lines of its tally group were damaged on the
way (R396), or an access that the Loft bank suppressed (R482). -/
inductive LineCheck where
  | clean
  | damaged
  | slotViolation
  deriving DecidableEq, Repr

/-- A read, or a write of some bytes. -/
inductive Access where
  | read (len : Nat)
  | write (data : List Byte)
  deriving DecidableEq, Repr

/-- A management message inside an SPDM secured session, or in the clear (R472). -/
structure MgmtHdr where
  via     : Transport
  secured : Bool
  tag     : BitVec 16
  deriving DecidableEq, Repr

/-- A curve's parameters for CURVE_LOAD (R433): `weierstrass` is y² = x³ + ax + b with G = (x, y), otherwise
Bv² = u³ + Au² + u with G = u (then `a` is A, `b` is B and `gy` is not used). -/
structure CurveParams where
  weierstrass : Bool
  p : Nat
  n : Nat
  h : Nat
  a : Nat
  b : Nat
  gx : Nat
  gy : Nat
  deriving DecidableEq, Repr

/-- What a temperature or rail sensor reads, in 0.01 °C or mV. -/
abbrev Reading := Nat

inductive Instr where
  -- Matrix Array (R119)
  | maForm (p : Position) (t : TeamIx)
  | maMac (p : Position) (t : TeamIx)
  | maMacz (p : Position) (t : TeamIx)
  | maDrain (p : Position) (t : TeamIx)
  -- Transform Engine (R120)
  | teNtt (p : Position) (t : TeamIx)
  | teIntt (p : Position) (t : TeamIx)
  | teAuto (p : Position) (t : TeamIx)
  | teNtt4 (p : Position) (t : TeamIx)
  | teIntt4 (p : Position) (t : TeamIx)
  -- Element Engine (R121)
  | eeAdd (p : Position) (t : TeamIx)
  | eeSub (p : Position) (t : TeamIx)
  | eeNeg (p : Position) (t : TeamIx)
  | eeMul (p : Position) (t : TeamIx)
  | eeMac (p : Position) (t : TeamIx)
  | eeMulc (p : Position) (t : TeamIx)
  | eeAddc (p : Position) (t : TeamIx)
  | eeMov (p : Position) (t : TeamIx)
  | eeBcast (p : Position) (t : TeamIx)
  | eeRescale (p : Position) (t : TeamIx)
  | eeModraise (p : Position) (t : TeamIx)
  | eeCmpeq (p : Position) (t : TeamIx)
  | eeCmplt (p : Position) (t : TeamIx)
  | eeSel (p : Position) (t : TeamIx)
  | eeMin (p : Position) (t : TeamIx)
  | eeMax (p : Position) (t : TeamIx)
  | eeCast (p : Position) (t : TeamIx)
  | eeReduce (p : Position) (t : TeamIx)
  -- Carter (R122)
  | ctLoad (p : Position) (t : TeamIx)
  | ctStore (p : Position) (t : TeamIx)
  | ctCopy (p : Position) (t : TeamIx)
  | ctGather (p : Position) (t : TeamIx)
  | ctScatter (p : Position) (t : TeamIx)
  | ctScatteracc (p : Position) (t : TeamIx)
  | ctFill (p : Position) (t : TeamIx)
  | ctAtom (p : Position) (t : TeamIx)
  -- Yard sends (R123)
  | ydPut (p : Position) (t : TeamIx)
  | ydMcast (p : Position) (t : TeamIx)
  | ydFlag (p : Position) (t : TeamIx)
  | ydCadd (p : Position) (t : TeamIx)
  | ydBflag (p : Position) (t : TeamIx)
  | ydBcadd (p : Position) (t : TeamIx)
  -- Drover requests (R124)
  | drvKey (p : Position) (t : TeamIx)
  | drvWt (p : Position) (t : TeamIx)
  -- Scalar instructions (R125)
  | flSet (p : Position) (t : TeamIx)
  | flClr (p : Position) (t : TeamIx)
  | flMset (p : Position) (t : TeamIx)
  | flMclr (p : Position) (t : TeamIx)
  | barArrive (p : Position) (t : TeamIx)
  | barWait (p : Position) (t : TeamIx)
  | hdlSet (p : Position) (t : TeamIx)
  | hdlFetch (p : Position) (t : TeamIx)
  | cntSet (p : Position) (t : TeamIx)
  | cntAdd (p : Position) (t : TeamIx)
  | cntQdepth (p : Position) (t : TeamIx)
  | cmpArm (p : Position) (t : TeamIx)
  | cmpDisarm (p : Position) (t : TeamIx)
  | timeFence (p : Position) (t : TeamIx)
  | timeBase (p : Position) (t : TeamIx)
  | timeRead (p : Position) (t : TeamIx)
  | br (p : Position) (t : TeamIx)
  | brCnt (p : Position) (t : TeamIx)
  | brFlag (p : Position) (t : TeamIx)
  | loopSet (p : Position) (t : TeamIx)
  | loopInc (p : Position) (t : TeamIx)
  | loopDo (p : Position) (t : TeamIx)
  | teamYield (p : Position) (t : TeamIx)
  | teamCfg (p : Position) (t : TeamIx)
  | halt (p : Position) (t : TeamIx)
  -- Stall events
  /-- In-flight entry `n` finishes, with what its checks find. -/
  | engineInstructionComplete (p : Position) (n : Nat) (check : EngineCheck)
  /-- The unit of re-execution of entry `n` that mismatched is line `line` of the Loft, with the original result,
  the re-executed one, and the checker's prediction (R391). -/
  | arbitration (p : Position) (n : Nat) (line : Nat) (orig redo : Line) (predicted : Nat)
  | fenceRelease (p : Position) (t : TeamIx)
  | comparatorFire (p : Position) (k : Fin 8)
  | flagTimeout (p : Position) (t : TeamIx)
  | handleFetchComplete (m : Nat)
  | remoteLineWrite (m : Nat) (check : LineCheck)
  | levelHoldExpiry (m : Nat)
  | remoteCompletionArrival (m : Nat)
  | remoteFlagWrite (m : Nat)
  | copyRequest (m : Nat)
  | copyReturn (m : Nat) (bad : Bool)
  | writeAck (m : Nat)
  /-- `k` is SCOPE × 64 + ID of the barrier. -/
  | arrivalPosted (p : Position) (k : Nat)
  | barrierArrivalAtRoot (m : Nat)
  | barrierRelease (m : Nat)
  | deviceBarrierComplete (id : Fin 4)
  | writeBackRecord (m : Nat)
  -- Epochs, aborts and contexts
  | epochCommit (c : CtxIx)
  | stepAbort (c : CtxIx)
  | contextDrained (c : CtxIx)
  | rollback (c : CtxIx)
  | contextSwitch
  | quantumExpiry
  -- Stall power and wear
  | stallGate (p : Position)
  | stallNap (p : Position)
  | stallWake (p : Position)
  /-- `mv` is the voltage at which the slowest monitored path closes at 800 MHz, before the guard band (R465). -/
  | ageingMeasurement (p : Position) (mv : Nat)
  | paritySweep (p : Position)
  | loftWindowAccess (who : Requester) (p : Position) (off : Nat) (a : Access)
  | granaryWindowAccess (who : Requester) (off : Nat) (a : Access)
  -- Drover
  | drvRequest (m : Nat) (r : DrvReads)
  | gangWaitExpiry (d : Fin 2) (g : GangServe)
  /-- `faulty` says that the expansion was disturbed and did not give the words of R244. -/
  | seedCheck (d : Fin 2) (e : Nat) (faulty : Bool)
  | poisonNotice (m : Nat)
  | drvComplete (p : Position) (n : Nat)
  -- HBM controllers
  | hbmReadRequest (m : Nat) (err : MemErr)
  | hbmWriteRequest (m : Nat) (bad : Bool) (errs : MemErrs)
  | hbmReadReturn (m : Nat) (bad : Bool)
  /-- `err` is met by the read of the granule, `wr` by its write. -/
  | writeCombineTimeout (st : StackIx) (g : Nat) (err : MergeErrs)
  /-- Row `row` of pseudo-channel `pc` failed; `ppr` says that its bank has a repair resource left (R319); `errs` are
  met as the granules of its pages are copied. -/
  | rowRepair (st : StackIx) (pc : Fin 32) (row : Nat) (ppr : Bool) (errs : MemErrs)
  | refresh (st : StackIx) (pc : Fin 32) (bank : Nat)
  | patrol (st : StackIx) (g : Nat) (err : MemErr)
  | regionInitDone (r : Fin 64)
  | regionScrubDone (r : Fin 64)
  | hbmLoopStart (st : StackIx) (value : W64)
  | hbmLoopDone (st : StackIx) (errors : Nat)
  -- Granary
  | granaryRequest (m : Nat) (bad : Bool) (ecc : EccErr)
  | granaryFill (c : CtxIx) (slot : Nat) (errs : MemErrs)
  | granaryWriteback (w : HalfWriteback)
  | atomicResult (m : Nat)
  -- Rhoa Link
  | idle (n : PortIx) (flit : BitVec 2048)
  | nak (n : PortIx) (flit : BitVec 2048)
  | flitReceive (n : PortIx) (flit : BitVec 2048)
  | replayTimeout (n : PortIx)
  | linkTrained (n : PortIx) (lanes : BitVec 2)
  | trainingTimeout (n : PortIx)
  | flitForward (n : PortIx)
  | flitLifetimeExpiry (n : PortIx) (i : Nat)
  | write (i : Nat) (bad : Bool)
  | atomic (i : Nat) (bad : Bool)
  | commit (i : Nat)
  | wack (i : Nat)
  | wackSend (c : CtxIx) (src : BitVec 15)
  | wackWaitExpiry (c : CtxIx) (dst : BitVec 15)
  | revoke (i : Nat)
  | gap (i : Nat)
  | commitWaitExpiry (c : CtxIx) (src : BitVec 15)
  | commandFlit (i : Nat)
  | resetFlit (i : Nat)
  | beacon (i : Nat)
  | beaconSend (n : PortIx)
  | barrierToken (i : Nat)
  | portRetrain (n : PortIx)
  -- Command packets
  /-- An access of BAR2 by function 0, the PF, or by VF `fn`, within that function's BAR2. -/
  | intakePacket (fn : Fin 64) (off : Nat) (a : Access)
  | load (c : CtxIx)
  | install (c : CtxIx)
  | start (c : CtxIx)
  | startComplete (c : CtxIx)
  | supply (c : CtxIx)
  | retire (c : CtxIx)
  | xferIn (c : CtxIx)
  | abort (c : CtxIx)
  | unload (c : CtxIx)
  | nop (c : CtxIx)
  | completion (i : Nat)
  | outboundWrite (i : Nat)
  | apertureAccess (off : Nat) (a : Access) (errs : MemErrs)
  -- Registers
  | registerWrite (who : Requester) (off : Nat) (width : Nat) (value : W64)
  | stallPwrRead (p : Position)
  | preemptMaxRead
  | railStatusRead
  | clkStatusRead
  | mgPowerRead
  | alertClear (value : W32)
  | ledgerSet (value : W64)
  | replayStart (value : W64)
  | replayDiverge
  | daybookExtend
  -- Release Gate
  | releaseRequest (value : W64)
  /-- `fault` is the code of a fault that arises in the gate step, or 0 (R442). -/
  | gateStep (fault : BitVec 16)
  | shareInstall (value : W64)
  | shareClear (value : W64)
  -- SPDM (R427)
  | getVersion (via : Transport)
  | getCapabilities (via : Transport)
  | negotiateAlgorithms (via : Transport) (agreed : Bool)
  | getDigests (via : Transport)
  | getCertificate (via : Transport) (slot off len : Nat)
  | challenge (via : Transport) (slot : Nat) (nonce : List Byte)
  | getMeasurements (via : Transport) (ix : Nat) (nonce : List Byte)
  | keyExchange (via : Transport) (px py : Nat)
  | finish (via : Transport) (session : Nat) (verified : Bool)
  | keyUpdate (via : Transport) (session : Nat)
  | heartbeat (via : Transport) (session : Nat)
  | endSession (via : Transport) (session : Nat)
  | ideKm (via : Transport) (session : Nat) (key : List Byte)
  | quote (via : Transport) (nonce : List Byte) (ctx : Nat)
  | kemKey (via : Transport)
  -- Smithy (R431)
  | modmul (w : Nat) (x y m d : Fin 32)
  | modexp (w : Nat) (x e m d : Fin 32)
  | ecmulW (slot : Fin 8) (k x y dx dy : Fin 32)
  | ecmulM (slot : Fin 8) (k u d : Fin 32)
  | clear
  | curveLoad (slot : Fin 8) (c : CurveParams)
  | smithyComplete
  -- Debug and test access port
  | debugAccess (addr : W64) (op : Option Access)
  | extest
  | idcode
  | samplePreload
  | clamp
  | highz
  | dapAccess
  | bypass
  -- Reset and boot
  | powerOnReset
  | sysRstN (ns : Nat)
  | perstN (ns : Nat)
  | watchdogExpiry
  | wdogService (value : W32)
  | yardmasterFatalError
  | resetRelease
  /-- `fuseCrc` says that the fuse array's CRC matched within three tries; `images` gives, for each of Ostler,
  Tack Room and Yardmaster, whether the active and the other slot's image verify; `mv` is the voltage that the
  first ageing measurement of every stall finds. -/
  | boot (fuseCrc : Bool) (images : List (Bool × Bool)) (mv : Nat)
  /-- Domain 0 Ledger, 1 Ostler, 2 gate die, 3 Yard, 4 + p the stall at position p. -/
  | clockUnstable (domain : Nat)
  | blockReset (value : W64)
  | blockResetTimeout
  | blockResetDone
  | firmwareActivate
  | firmwareRevert (component : Fin 3)
  | scanStart (value : W64)
  | scanDone (pass : Bool)
  | marginTableWrite
  -- Supply and temperature
  | droopEpisodeStart (mv : Reading)
  | droopEpisodeEnd (low : Reading)
  /-- Rail 0 is VIN, 1 to 6 the others of R493 in its order; the rail stayed at `mv` for `ns`. -/
  | brownout (rail : Fin 7) (mv : Reading) (ns : Nat)
  | thermalLimit (p : Position) (temp : Reading)
  | thermalEpisodeEnd (p : Position) (temp : Reading)
  | thermalTrip (sensor : Nat) (temp : Reading)
  | tripRecovery
  -- Ledger sources
  | ptpSync (twoStep : Bool) (originNs : W64) (master : W64)
  | ptpFollowUp (originNs : W64)
  | ptpDelayResp (receiptNs : W64)
  | ptpAnnounce (master : W64) (priority : W64)
  | timePps
  | ledgerSourceTimeout
  -- Ostler and management
  | faultReportIntake (i : Nat)
  /-- The values that the monitors and meters give for the interval (R480). -/
  | telemetry (avgMw peakMw : W32) (stallTemp gateTemp hbmTemp railMv : BitVec 16)
  | setEndpointId (via : Transport) (eid : Byte)
  | getEndpointId (via : Transport)
  | getMctpVersionSupport (via : Transport) (msgType : Byte)
  | getMessageTypeSupport (via : Transport)
  | csrRead (h : MgmtHdr) (addr : W64) (width : Nat)
  | csrWrite (h : MgmtHdr) (addr : W64) (width : Nat) (value : W64)
  | subscribe (h : MgmtHdr) (slot : Nat) (classes : BitVec 16) (telem : Nat)
  | reportGet (h : MgmtHdr) (fromSeq : W32)
  | mgmtReset (h : MgmtHdr) (level : Byte)
  | flashWrite (h : MgmtHdr) (off : Nat) (data : List Byte)
  | directory (h : MgmtHdr) (slots : Byte)
  | fabricKey (h : MgmtHdr) (op : Byte) (key : BitVec 256)
  | svnRaise (h : MgmtHdr) (floor : Byte)
  | telemetryGet (h : MgmtHdr)
  | portEnable (n : PortIx) (value : W32)
  | pciExpressLinkUp (width : Byte) (speed : BitVec 4) (numVfs : Nat) (bar4 : Fin 10)
  | pciExpressLinkDown
  | doeDiscovery (ix : Byte)
  | trstN
  | dynamicAddressAssignment (addr : BitVec 7)
  | arpRequest (target : BitVec 32) (mac : BitVec 48) (ip : BitVec 32)
  | dhcpv4Reply (ack : Bool) (addr : BitVec 32) (leaseS : Nat)
  | dhcpv4LeaseTimer
  | managementPortLinkChange (up : Bool)
  | ptpDelayReq
  | unsupportedMctpMessage (via : Transport) (msgType : Byte)
  | undefinedManagementOp (h : MgmtHdr) (op : Byte)
  deriving DecidableEq, Repr

end Sys2Proof
end

