-- ==== Sys2Proof/Config.lean ====
section
/-!
DEFINITION. What the manual leaves open (free values: constants without a body) and the algorithms of other standards
that it names without stating them (uninterpreted functions).
-/

namespace Sys2Proof.Config

/-- A fresh free value: the k-th value that the machine draws where the manual leaves a value open (DESIGN CHOICE, log 2). -/
opaque free : Nat → Nat

/-- AES-256-GCM opening of a package or share (R429, R437): key, nonce, associated data, ciphertext and tag; none when
the tag fails. The cipher itself is FIPS 197 / SP 800-38D, which the manual names and does not restate (DESIGN CHOICE, log 3). -/
opaque gcmOpen : List Byte → List Byte → List Byte → List Byte → Option (List Byte)

/-- ML-KEM-1024 decapsulation (R429): decapsulation key, ciphertext; the shared secret (DESIGN CHOICE, log 3). -/
opaque kemDecaps : List Byte → List Byte → List Byte

/-- ML-KEM-1024 encapsulation key of a decapsulation key (R420, R427; DESIGN CHOICE, log 3). -/
opaque kemPublic : List Byte → List Byte

/-- ML-KEM-1024 key generation from a 64-byte seed (R421; DESIGN CHOICE, log 3). -/
opaque kemKeygen : List Byte → List Byte

/-- SLH-DSA public key of a private key (R425, R426; DESIGN CHOICE, log 3). -/
opaque slhPublic : List Byte → List Byte

/-- SLH-DSA key generation from a 48-byte seed (R421; DESIGN CHOICE, log 3). -/
opaque slhKeygen : List Byte → List Byte


/-- The X.509 attestation certificate (R425): DIK, AK public key, FWMR, SVNs (DESIGN CHOICE, log 3). -/
opaque certificate : List Byte → List Byte → List Byte → List Nat → List Byte

/-- The Thiash root and device identity certificates, kept outside what the model writes (R425; DESIGN CHOICE, log 3). -/
opaque chainHead : List Byte

/-- The UDS fuses, 256 bits (R420; DESIGN CHOICE, log 24). -/
opaque uds : List Byte

/-- The device serial in the fuses (R426; DESIGN CHOICE, log 24). -/
opaque serial : BitVec 64

/-- The SHA-256 of the boot ROM (R422; DESIGN CHOICE, log 24). -/
opaque bootRomDigest : List Byte

/-- The 64-byte fuse option summary of R422: grade, stepping, SVN floor (DESIGN CHOICE, log 24). -/
opaque fuseSummary : Nat → Nat → Nat → List Byte

/-- The 16-byte security configuration of R422: GATE_EN, DEVICE_ID, BEACON_PORT, fabric reset key present (DESIGN CHOICE, log 24). -/
opaque securityConfig : Bool → Nat → Nat → Bool → List Byte

/-- The fused firmware public key (R420, R424; DESIGN CHOICE, log 24). -/
opaque firmwareKey : List Byte

/-- The vendor ID that the PF reports (R427, R470; DESIGN CHOICE, log 24). -/
opaque vendorId : BitVec 16

/-- The unicast MAC address of the management port, derived from the fused serial (R469; DESIGN CHOICE, log 24). -/
opaque macAddress : BitVec 48

/-- Signing with AK or DIK (R425 to R427): key, message (DESIGN CHOICE, log 3). -/
opaque sign : List Byte → List Byte → List Byte

/-- Verifying a signature (R424, R437): public key, message, signature (DESIGN CHOICE, log 3). -/
opaque verify : List Byte → List Byte → List Byte → Bool

/-- AES-256-XTS encryption of one data unit (R312): key pair, tweak, plaintext (DESIGN CHOICE, log 3). -/
opaque xts : BitVec 512 → Nat → List Byte → List Byte

/-- AES-256-CMAC (R312): key, message (DESIGN CHOICE, log 3). -/
opaque cmac : BitVec 256 → List Byte → List Byte

/-- The 8 check bytes that RS(72,64) gives 64 bytes; the spec gives no generator (R306, R308; DESIGN CHOICE, log 114). -/
opaque rsCheck : List Byte → List Byte

/-- Whether an instruction reads tile words as FP32, where no operand gives them a type (R187; DESIGN CHOICE, log 7). -/
opaque tileFloat : Nat → Bool

/-- Sign and payload of a NaN result that R184 does not fix, as a function of the format and the operands (DESIGN CHOICE, log 6). -/
opaque nanPayload : Nat → Nat → Nat → Nat → Nat

end Sys2Proof.Config
end

