-- ==== Sys2Proof/Machine/Bits.lean ====
section
/-!
DEFINITION. Bit fields, byte orders, sparse maps and the plain codes (CRC-32C) that every unit uses.
-/

namespace Sys2Proof.Machine

/-- Bits hi:lo of a number. -/
def bitsOf (x hi lo : Nat) : Nat := x / 2 ^ lo % 2 ^ (hi + 1 - lo)

/-- Bit i of a number. -/
def bitOf (x i : Nat) : Bool := x / 2 ^ i % 2 == 1

/-- Two's complement value of the low w bits of x. -/
def signedOf (w x : Nat) : Int :=
  let y := x % 2 ^ w
  if y < 2 ^ (w - 1) then (y : Int) else (y : Int) - (2 ^ w : Nat)

/-- x with bits hi:lo replaced by v. -/
def putBits (x hi lo v : Nat) : Nat :=
  let m := 2 ^ (hi + 1 - lo)
  x - bitsOf x hi lo * 2 ^ lo + (v % m) * 2 ^ lo

/-- The value of a list of bytes, the first byte lowest (R6). -/
def leNat : List Byte → Nat
  | [] => 0
  | b :: bs => b.toNat + 256 * leNat bs

/-- n bytes of x, the lowest first (R6). -/
def leBytes : Nat → Nat → List Byte
  | 0, _ => []
  | n + 1, x => BitVec.ofNat 8 x :: leBytes n (x / 256)

/-- n bytes of x, the highest first. -/
def beBytes (n x : Nat) : List Byte := (leBytes n x).reverse

/-- The value of a list of bytes, the first byte highest. -/
def beNat (bs : List Byte) : Nat := leNat bs.reverse

/-- The little-endian field of size n at offset o of a byte string; bytes beyond its end read 0. -/
def fieldAt (bs : List Byte) (o n : Nat) : Nat := leNat ((bs.drop o).take n)

/-- Quotient rounded up. -/
def ceilDiv (a b : Nat) : Nat := (a + b - 1) / b

/-- a rounded up to a multiple of b. -/
def roundUp (a b : Nat) : Nat := ceilDiv a b * b

/-- log2 rounded down, 0 for 0. -/
def log2 (x : Nat) : Nat := Nat.log2 x

/-- Reverse the w low bits of x. -/
def brv : Nat → Nat → Nat
  | 0, _ => 0
  | w + 1, x => x % 2 * 2 ^ w + brv w (x / 2)

/-- The entry of a sparse map, or the value that an unlisted key reads as. -/
def nget {α : Type} (d : α) : NMap α → Nat → α
  | [], _ => d
  | (j, v) :: m, k => if j = k then v else nget d m k

/-- Insert at its place, replacing an entry of the same key. -/
def ninsert {α : Type} : NMap α → Nat → α → NMap α
  | [], k, v => [(k, v)]
  | (j, w) :: m, k, v =>
    if k < j then (k, v) :: (j, w) :: m
    else if k = j then (k, v) :: m
    else (j, w) :: ninsert m k v

/-- Remove the entry of a key. -/
def nerase {α : Type} (m : NMap α) (k : Nat) : NMap α := m.filter (fun e => e.1 != k)

/-- Write an entry; writing what an unlisted key reads as removes it. -/
def nset {α : Type} [DecidableEq α] (d : α) (m : NMap α) (k : Nat) (v : α) : NMap α :=
  if v = d then nerase m k else ninsert m k v

/-- Change the entry of a key. -/
def nmod {α : Type} [DecidableEq α] (d : α) (m : NMap α) (k : Nat) (f : α → α) : NMap α :=
  nset d m k (f (nget d m k))

/-- Remove every entry whose key lies in lo .. hi - 1. -/
def nclear {α : Type} (m : NMap α) (lo hi : Nat) : NMap α := m.filter (fun e => e.1 < lo || hi ≤ e.1)

/-- The canonical form: keys strictly rising, and no entry equal to what an unlisted key reads as. -/
def nwf {α : Type} [DecidableEq α] (d : α) (m : NMap α) : Bool :=
  decide (m.Pairwise (fun a b => a.1 < b.1)) && m.all (fun e => decide (e.2 ≠ d))

/-- Write consecutive bytes from address a. -/
def memWrite (m : NMap Byte) (a : Nat) : List Byte → NMap Byte
  | [] => m
  | b :: bs => memWrite (nset 0 m a b) (a + 1) bs

/-- Read n consecutive bytes from address a. -/
def memRead (m : NMap Byte) (a n : Nat) : List Byte := (List.range n).map fun i => nget 0 m (a + i)

/-- One bit of the reflected CRC-32C with polynomial 0x1EDC6F41 (reflected 0x82F63B78). -/
def crc32cBits : Nat → Nat → Nat
  | 0, c => c
  | n + 1, c => crc32cBits n (if c % 2 = 1 then (c / 2) ^^^ 0x82F63B78 else c / 2)

/-- CRC-32C over a byte string (R10's check, R244, R394). -/
def crc32c (bs : List Byte) : Nat :=
  (bs.foldl (fun c b => crc32cBits 8 (c ^^^ b.toNat)) 0xFFFFFFFF) ^^^ 0xFFFFFFFF

/-- The words of a line of a zeroed store. -/
def zeroLine : Line := List.replicate 16 0

/-- A word as 5 bytes little-endian, bits 39:36 equal to 0 (R394). -/
def wordBytes5 (w : W36) : List Byte := leBytes 5 w.toNat

/-- The tally of a group of lines (R394). -/
def tallyOf (ls : List Line) : Nat := crc32c (ls.flatMap fun l => l.flatMap wordBytes5)

/-- A line as 72 bytes: word i at bits 36i + 35 : 36i (R7, R303). -/
def lineBytes (l : Line) : List Byte :=
  leBytes 72 (l.foldr (fun w acc => w.toNat + 2 ^ 36 * acc) 0)

/-- The 16 words of 72 bytes (R7, R303). -/
def lineOfBytes (bs : List Byte) : Line :=
  let x := leNat bs
  (List.range 16).map fun i => BitVec.ofNat 36 (x / 2 ^ (36 * i))

/-- Word i of a line; positions beyond the line read 0. -/
def wordAt (l : Line) (i : Nat) : W36 := l.getD i 0

/-- The two parity bits of each word, word i in bits 2i + 1 : 2i: p0 of the even-numbered bits, p1 of the odd-numbered
(R232). -/
def parityOf (l : Line) : BitVec 32 :=
  let p (w : W36) (o : Nat) : Nat := ((List.range 18).foldl (fun a i => a + w.toNat / 2 ^ (2 * i + o) % 2) 0) % 2
  BitVec.ofNat 32 (l.foldr (fun w acc => p w 0 + 2 * p w 1 + 4 * acc) 0)

/-- The words of a line whose stored parity fails, one bit a word (R232). -/
def parityFailures (l : Line) (par : BitVec 32) : Nat :=
  let x := (parityOf l ^^^ par).toNat
  (List.range 16).foldl (fun a i => if x / 4 ^ i % 4 = 0 then a else a + 2 ^ i) 0

/-- Replace entry i of a list. -/
def lset {α : Type} (l : List α) (i : Nat) (v : α) : List α := l.set i v

/-- Change entry i of a list. -/
def lmod {α : Type} (l : List α) (i : Nat) (f : α → α) : List α := l.modify i f

/-- All indices below n of a nest, the first (innermost) varying fastest. -/
def nestIdx : List Nat → List (List Nat)
  | [] => [[]]
  | c :: cs => (nestIdx cs).flatMap fun js => (List.range c).map fun j => j :: js

end Sys2Proof.Machine
end

