-- ==== Sys2Proof/Machine/RegTable.lean ====
section
/-!
DEFINITION. The registers of the CSR space (R484): offset, instances, width and fields with their access types and
reset values, each transcribed from its register's own table in the chapters. A field whose reset is fused, strapped
or derived from the position has 0 here; its reader computes it.
-/

namespace Sys2Proof.Machine

/-- Access types (R8). -/
inductive Acc where
  | ro | rw | wo | w1c | w1s | rc
  deriving DecidableEq, Repr

/-- A field: bits hi:lo, access type, reset value. -/
structure FieldDef where
  hi : Nat
  lo : Nat
  acc : Acc
  reset : Nat
  deriving DecidableEq, Repr

/-- A register or an array of registers: instance a, entry b at base + a x strideA + b x strideB. -/
structure RegDef where
  name : String
  base : Nat
  strideA : Nat
  countA : Nat
  strideB : Nat
  countB : Nat
  wide : Bool
  fields : List FieldDef
  deriving DecidableEq, Repr

/-- Registers, part Yardmaster. -/
def regsYardmaster : List RegDef := [
  ⟨"STALL_SUMMARY", 0x100, 0x0, 1, 0, 1, false,
    [⟨31, 31, .ro, 0x0⟩, ⟨29, 20, .ro, 0x0⟩, ⟨15, 10, .ro, 0x0⟩, ⟨9, 0, .ro, 0x0⟩]⟩,
  ⟨"STALL_POS", 0x1000, 0x0, 1, 4, 832, false,
    [⟨31, 29, .ro, 0x0⟩, ⟨25, 16, .ro, 0x3FF⟩, ⟨12, 12, .ro, 0x0⟩, ⟨9, 5, .ro, 0x0⟩, ⟨4, 0, .ro, 0x0⟩]⟩,
  ⟨"STALL_LOC", 0x2000, 0x0, 1, 4, 800, false,
    [⟨31, 31, .ro, 0x0⟩, ⟨9, 0, .ro, 0x3FF⟩]⟩,
  ⟨"OOB_DROP_COUNT", 0x4000, 0x0, 1, 8, 64, true,
    [⟨63, 0, .ro, 0x0⟩]⟩,
  ⟨"OOB_WRAP", 0x4200, 0x0, 1, 0, 1, true,
    [⟨63, 0, .w1c, 0x0⟩]⟩,
  ⟨"LOFT_PERR", 0x4300, 0x0, 1, 0, 1, true,
    [⟨63, 63, .w1c, 0x0⟩, ⟨62, 62, .ro, 0x0⟩, ⟨61, 61, .ro, 0x0⟩, ⟨57, 52, .ro, 0x0⟩, ⟨47, 32, .ro, 0x0⟩, ⟨25, 16, .ro, 0x0⟩, ⟨13, 0, .ro, 0x0⟩]⟩,
  ⟨"LOFT_PERR_COUNT", 0x4308, 0x0, 1, 0, 1, true,
    [⟨63, 0, .ro, 0x0⟩]⟩,
  ⟨"LOFT_PERR_WRAP", 0x4310, 0x0, 1, 0, 1, true,
    [⟨0, 0, .w1c, 0x0⟩]⟩,
  ⟨"DEVBAR_STATUS", 0x5000, 0x0, 1, 0, 1, false,
    [⟨13, 8, .ro, 0x0⟩, ⟨7, 4, .ro, 0x0⟩, ⟨3, 0, .ro, 0x0⟩]⟩,
  ⟨"YARD_CNT", 0x5100, 0x0, 1, 8, 8, true,
    [⟨63, 0, .ro, 0x0⟩]⟩,
  ⟨"YARD_WRAP", 0x5180, 0x0, 1, 0, 1, false,
    [⟨7, 0, .w1c, 0x0⟩]⟩,
  ⟨"INTAKE", 0x6000, 0x0, 1, 8, 64, true,
    [⟨63, 32, .ro, 0x0⟩, ⟨31, 0, .ro, 0x0⟩]⟩,
  ⟨"CTX_STATE", 0x6200, 0x0, 1, 8, 64, true,
    [⟨63, 32, .ro, 0x0⟩, ⟨31, 29, .ro, 0x0⟩, ⟨28, 28, .ro, 0x0⟩, ⟨27, 27, .ro, 0x0⟩, ⟨26, 25, .ro, 0x0⟩, ⟨24, 19, .ro, 0x0⟩]⟩,
  ⟨"CTX_QUANTUM", 0x6400, 0x0, 1, 0, 1, false,
    [⟨19, 0, .rw, 0x3E8⟩]⟩,
  ⟨"PREEMPT_MAX", 0x6408, 0x0, 1, 0, 1, true,
    [⟨63, 32, .rc, 0x0⟩, ⟨31, 0, .rc, 0x0⟩]⟩,
  ⟨"LOADER_ERR", 0x6410, 0x0, 1, 0, 1, true,
    [⟨63, 63, .w1c, 0x0⟩, ⟨62, 62, .ro, 0x0⟩, ⟨61, 56, .ro, 0x0⟩, ⟨55, 48, .ro, 0x0⟩, ⟨47, 32, .ro, 0x0⟩, ⟨31, 0, .ro, 0x0⟩]⟩,
  ⟨"BARN_GATE", 0x6418, 0x0, 1, 0, 1, false,
    [⟨14, 0, .rw, 0x7FFF⟩]⟩,
  ⟨"INTAKE_CNT", 0x6480, 0x0, 1, 8, 3, true,
    [⟨63, 0, .ro, 0x0⟩]⟩,
  ⟨"INTAKE_WRAP", 0x64A0, 0x0, 1, 0, 1, false,
    [⟨2, 0, .w1c, 0x0⟩]⟩,
  ⟨"EPOCH_OPEN", 0x7000, 0x0, 1, 8, 64, true,
    [⟨63, 0, .ro, 0x0⟩]⟩,
  ⟨"EPOCH_COMMIT", 0x7200, 0x0, 1, 8, 64, true,
    [⟨63, 0, .ro, 0x0⟩]⟩,
  ⟨"EPOCH_STAT", 0x7400, 0x0, 1, 8, 64, true,
    [⟨63, 63, .ro, 0x0⟩, ⟨62, 62, .ro, 0x0⟩, ⟨61, 60, .ro, 0x0⟩, ⟨52, 32, .ro, 0x0⟩, ⟨18, 0, .ro, 0x0⟩]⟩,
  ⟨"REC_CFG", 0x7600, 0x0, 1, 0, 1, false,
    [⟨1, 0, .rw, 0x2⟩]⟩,
  ⟨"QUAR_LOG", 0x7608, 0x0, 1, 0, 1, true,
    [⟨63, 63, .w1c, 0x0⟩, ⟨62, 62, .ro, 0x0⟩, ⟨61, 60, .ro, 0x0⟩, ⟨59, 50, .ro, 0x0⟩, ⟨49, 40, .ro, 0x3FF⟩, ⟨39, 0, .ro, 0x0⟩]⟩,
  ⟨"REC_CNT", 0x7700, 0x0, 1, 8, 8, true,
    [⟨63, 0, .ro, 0x0⟩]⟩,
  ⟨"REC_WRAP", 0x7780, 0x0, 1, 0, 1, false,
    [⟨7, 0, .w1c, 0x0⟩]⟩
]

/-- Registers, part System. -/
def regsSystem : List RegDef := [
  ⟨"DRV_STATUS", 0x300000, 0x10000, 2, 0, 1, false,
    [⟨27, 16, .ro, 0x0⟩, ⟨15, 9, .ro, 0x0⟩, ⟨0, 0, .ro, 0x0⟩]⟩,
  ⟨"DRV_CFG", 0x300008, 0x10000, 2, 0, 1, false,
    [⟨19, 0, .rw, 0x4E20⟩]⟩,
  ⟨"DRV_ERR", 0x300010, 0x10000, 2, 0, 1, true,
    [⟨63, 63, .w1c, 0x0⟩, ⟨62, 62, .ro, 0x0⟩, ⟨61, 56, .ro, 0x0⟩, ⟨55, 46, .ro, 0x0⟩, ⟨45, 34, .ro, 0x0⟩, ⟨33, 26, .ro, 0x0⟩, ⟨15, 0, .ro, 0x0⟩]⟩,
  ⟨"DRV_CNT", 0x300100, 0x10000, 2, 8, 8, true,
    [⟨63, 0, .ro, 0x0⟩]⟩,
  ⟨"DRV_WRAP", 0x300180, 0x10000, 2, 0, 1, false,
    [⟨7, 0, .w1c, 0x0⟩]⟩,
  ⟨"HBM_STATUS", 0x600000, 0x10000, 8, 0, 1, true,
    [⟨63, 63, .ro, 0x0⟩, ⟨47, 32, .ro, 0x0⟩, ⟨28, 16, .ro, 0x0⟩, ⟨12, 0, .ro, 0x0⟩]⟩,
  ⟨"HBM_FAULT", 0x600010, 0x10000, 8, 0, 1, true,
    [⟨63, 63, .w1c, 0x0⟩, ⟨62, 62, .ro, 0x0⟩, ⟨61, 55, .ro, 0x0⟩, ⟨50, 48, .ro, 0x0⟩, ⟨47, 16, .ro, 0x0⟩, ⟨15, 0, .ro, 0x0⟩]⟩,
  ⟨"HBM_CNT", 0x600100, 0x10000, 8, 8, 8, true,
    [⟨63, 0, .ro, 0x0⟩]⟩,
  ⟨"HBM_WRAP", 0x600180, 0x10000, 8, 0, 1, false,
    [⟨7, 0, .w1c, 0x0⟩]⟩,
  ⟨"HBM_LOOP", 0x600200, 0x10000, 8, 0, 1, true,
    [⟨63, 63, .ro, 0x0⟩, ⟨62, 62, .w1c, 0x0⟩, ⟨55, 24, .ro, 0x0⟩, ⟨23, 8, .rw, 0x3E8⟩, ⟨0, 0, .wo, 0x0⟩]⟩,
  ⟨"REGION_LO", 0x608000, 0x0, 1, 16, 64, true,
    [⟨63, 62, .ro, 0x0⟩, ⟨61, 61, .ro, 0x0⟩, ⟨60, 60, .ro, 0x0⟩, ⟨59, 53, .ro, 0x0⟩, ⟨39, 12, .ro, 0x0⟩]⟩,
  ⟨"REGION_HI", 0x608008, 0x0, 1, 16, 64, true,
    [⟨39, 12, .ro, 0x0⟩]⟩,
  ⟨"GRN_STATUS", 0x500000, 0x0, 1, 0, 1, true,
    [⟨41, 21, .ro, 0x0⟩, ⟨20, 0, .ro, 0x0⟩]⟩,
  ⟨"GRN_CFG", 0x500008, 0x0, 1, 0, 1, false,
    [⟨17, 0, .rw, 0x20000⟩]⟩,
  ⟨"GRN_CNT", 0x500100, 0x0, 1, 8, 8, true,
    [⟨63, 0, .ro, 0x0⟩]⟩,
  ⟨"GRN_WRAP", 0x500180, 0x0, 1, 0, 1, false,
    [⟨7, 0, .w1c, 0x0⟩]⟩,
  ⟨"RST_CAUSE", 0x100000, 0x0, 1, 0, 1, false,
    [⟨31, 30, .ro, 0x3⟩, ⟨9, 0, .w1c, 0x1⟩]⟩,
  ⟨"RST_CFG", 0x100008, 0x0, 1, 0, 1, false,
    [⟨31, 31, .rw, 0x0⟩, ⟨30, 16, .rw, 0x7D0⟩, ⟨15, 0, .rw, 0x64⟩]⟩,
  ⟨"RST_WDOG", 0x100010, 0x0, 1, 0, 1, false,
    [⟨31, 0, .wo, 0x0⟩]⟩,
  ⟨"RST_BLK", 0x100018, 0x0, 1, 0, 1, true,
    [⟨63, 63, .wo, 0x0⟩, ⟨62, 62, .ro, 0x0⟩, ⟨61, 60, .ro, 0x0⟩, ⟨59, 56, .rw, 0x0⟩, ⟨9, 0, .rw, 0x0⟩]⟩,
  ⟨"CLK_STATUS", 0x100020, 0x0, 1, 0, 1, false,
    [⟨31, 16, .rc, 0x0⟩, ⟨6, 6, .ro, 0x0⟩, ⟨5, 5, .ro, 0x0⟩, ⟨4, 4, .ro, 0x0⟩, ⟨3, 3, .ro, 0x0⟩, ⟨2, 2, .ro, 0x0⟩, ⟨1, 1, .ro, 0x0⟩, ⟨0, 0, .ro, 0x0⟩]⟩,
  ⟨"FW_SLOT", 0x100100, 0x0, 1, 0, 1, false,
    [⟨31, 31, .wo, 0x0⟩, ⟨30, 30, .ro, 0x0⟩, ⟨29, 28, .ro, 0x0⟩, ⟨6, 4, .ro, 0x0⟩, ⟨2, 0, .ro, 0x0⟩]⟩,
  ⟨"LEDGER_NOW", 0x200000, 0x0, 1, 0, 1, true,
    [⟨63, 0, .ro, 0x0⟩]⟩,
  ⟨"LEDGER_SET", 0x200018, 0x0, 1, 0, 1, true,
    [⟨63, 0, .wo, 0x0⟩]⟩,
  ⟨"LEDGER_STATUS", 0x200008, 0x0, 1, 0, 1, true,
    [⟨63, 63, .ro, 0x0⟩, ⟨62, 62, .ro, 0x0⟩, ⟨61, 60, .ro, 0x0⟩, ⟨31, 0, .ro, 0x0⟩]⟩,
  ⟨"LEDGER_CFG", 0x200010, 0x0, 1, 0, 1, false,
    [⟨31, 31, .rw, 0x1⟩, ⟨30, 30, .rw, 0x0⟩, ⟨29, 29, .rw, 0x0⟩, ⟨15, 8, .rw, 0x0⟩]⟩
]

/-- Registers, part Links. -/
def regsLinks : List RegDef := [
  ⟨"RL_STATUS", 0x700000, 0x1000, 48, 0, 1, true,
    [⟨47, 33, .ro, 0x7FFF⟩, ⟨32, 24, .ro, 0x0⟩, ⟨5, 4, .ro, 0x0⟩, ⟨3, 0, .ro, 0x0⟩]⟩,
  ⟨"RL_CFG", 0x700008, 0x1000, 48, 0, 1, false,
    [⟨2, 2, .wo, 0x0⟩, ⟨1, 1, .rw, 0x0⟩, ⟨0, 0, .rw, 0x0⟩]⟩,
  ⟨"RL_CNT", 0x700100, 0x1000, 48, 8, 8, true,
    [⟨63, 0, .ro, 0x0⟩]⟩,
  ⟨"RL_WRAP", 0x700180, 0x1000, 48, 0, 1, false,
    [⟨7, 0, .w1c, 0x0⟩]⟩,
  ⟨"ROUTE_MIN", 0x740000, 0x0, 1, 8, 32768, true,
    [⟨47, 0, .rw, 0x0⟩]⟩,
  ⟨"ROUTE_ALT", 0x780000, 0x0, 1, 8, 32768, true,
    [⟨47, 0, .rw, 0x0⟩]⟩,
  ⟨"RL_DEVICE", 0x7C0000, 0x0, 1, 0, 1, false,
    [⟨22, 22, .ro, 0x0⟩, ⟨21, 16, .rw, 0x3F⟩, ⟨14, 0, .rw, 0x7FFF⟩]⟩,
  ⟨"RL_TIMERS", 0x7C0008, 0x0, 1, 0, 1, true,
    [⟨47, 24, .rw, 0x7D0⟩, ⟨23, 0, .rw, 0x64⟩]⟩,
  ⟨"RL_EVENT", 0x7C0010, 0x0, 1, 0, 1, true,
    [⟨63, 63, .w1c, 0x0⟩, ⟨62, 62, .ro, 0x0⟩, ⟨61, 60, .ro, 0x0⟩, ⟨59, 54, .ro, 0x0⟩, ⟨53, 39, .ro, 0x0⟩, ⟨38, 23, .ro, 0x0⟩, ⟨15, 0, .ro, 0x0⟩]⟩,
  ⟨"RL_DEP_STATUS", 0x7C0018, 0x0, 1, 0, 1, false,
    [⟨29, 16, .ro, 0x0⟩, ⟨13, 0, .ro, 0x0⟩]⟩,
  ⟨"RL_LAST_RESET", 0x7C0020, 0x0, 1, 0, 1, true,
    [⟨63, 0, .ro, 0x0⟩]⟩,
  ⟨"RL_DCNT", 0x7C0100, 0x0, 1, 8, 8, true,
    [⟨63, 0, .ro, 0x0⟩]⟩,
  ⟨"RL_DWRAP", 0x7C0180, 0x0, 1, 0, 1, false,
    [⟨7, 0, .w1c, 0x0⟩]⟩,
  ⟨"GH_STATUS", 0x800000, 0x0, 1, 0, 1, false,
    [⟨31, 31, .ro, 0x0⟩, ⟨30, 30, .ro, 0x0⟩, ⟨29, 29, .ro, 0x0⟩, ⟨23, 16, .ro, 0x0⟩, ⟨15, 12, .ro, 0x0⟩, ⟨11, 11, .ro, 0x0⟩]⟩,
  ⟨"GH_GATE_ID", 0x800008, 0x0, 1, 0, 1, false,
    [⟨14, 0, .rw, 0x7FFF⟩]⟩,
  ⟨"GH_APERTURE", 0x800010, 0x0, 1, 0, 1, true,
    [⟨39, 30, .rw, 0x0⟩, ⟨6, 0, .rw, 0x40⟩]⟩,
  ⟨"GH_CNT", 0x800100, 0x0, 1, 8, 4, true,
    [⟨63, 0, .ro, 0x0⟩]⟩,
  ⟨"GH_WRAP", 0x800180, 0x0, 1, 0, 1, false,
    [⟨3, 0, .w1c, 0x0⟩]⟩,
  ⟨"GH_BARN", 0x800200, 0x0, 1, 4, 16, false,
    [⟨31, 31, .rw, 0x0⟩, ⟨14, 0, .rw, 0x7FFF⟩]⟩,
  ⟨"RING_CQ", 0x810000, 0x0, 1, 16, 1040, true,
    [⟨63, 12, .rw, 0x0⟩, ⟨11, 8, .rw, 0x0⟩, ⟨0, 0, .rw, 0x0⟩]⟩,
  ⟨"RING_OUT", 0x810008, 0x0, 1, 16, 1024, true,
    [⟨63, 12, .rw, 0x0⟩, ⟨4, 0, .rw, 0x0⟩]⟩
]

/-- Registers, part Secure. -/
def regsSecure : List RegDef := [
  ⟨"DB_HEAD", 0xD00000, 0x0, 1, 0, 1, true,
    [⟨63, 0, .ro, 0x0⟩]⟩,
  ⟨"DB_LOST", 0xD00008, 0x0, 1, 0, 1, true,
    [⟨63, 0, .ro, 0x0⟩]⟩,
  ⟨"DB_REPLAY", 0xD00010, 0x0, 1, 0, 1, true,
    [⟨63, 63, .rw, 0x0⟩, ⟨62, 62, .w1c, 0x0⟩, ⟨61, 61, .w1c, 0x0⟩, ⟨60, 55, .rw, 0x0⟩, ⟨24, 0, .rw, 0x0⟩]⟩,
  ⟨"DB_STATUS", 0xD00018, 0x0, 1, 0, 1, false,
    [⟨31, 31, .w1c, 0x0⟩, ⟨29, 0, .ro, 0x0⟩]⟩,
  ⟨"TR_STATUS", 0x900000, 0x0, 1, 0, 1, true,
    [⟨63, 63, .ro, 0x0⟩, ⟨62, 62, .ro, 0x0⟩, ⟨61, 61, .ro, 0x0⟩, ⟨60, 60, .ro, 0x0⟩, ⟨47, 40, .ro, 0x0⟩, ⟨39, 32, .ro, 0x0⟩]⟩,
  ⟨"RG_REQ", 0x901000, 0x0, 1, 0, 1, true,
    [⟨63, 63, .wo, 0x0⟩, ⟨62, 62, .ro, 0x0⟩, ⟨61, 56, .rw, 0x0⟩, ⟨55, 54, .rw, 0x0⟩, ⟨53, 42, .rw, 0x0⟩, ⟨41, 30, .rw, 0x0⟩, ⟨29, 18, .rw, 0x0⟩, ⟨15, 0, .rw, 0x0⟩]⟩,
  ⟨"RG_RESULT", 0x901008, 0x0, 1, 0, 1, true,
    [⟨63, 63, .w1c, 0x0⟩, ⟨62, 60, .ro, 0x0⟩, ⟨55, 48, .ro, 0x0⟩, ⟨47, 32, .ro, 0x0⟩, ⟨31, 0, .ro, 0x0⟩]⟩,
  ⟨"RG_INSTALL", 0x901010, 0x0, 1, 0, 1, true,
    [⟨63, 63, .wo, 0x0⟩, ⟨62, 62, .ro, 0x0⟩, ⟨61, 60, .rw, 0x0⟩, ⟨59, 58, .rw, 0x0⟩, ⟨57, 52, .rw, 0x0⟩, ⟨51, 40, .rw, 0x0⟩, ⟨39, 36, .ro, 0x0⟩]⟩,
  ⟨"RG_SLOT", 0x901100, 0x0, 1, 8, 4, true,
    [⟨63, 62, .ro, 0x0⟩, ⟨61, 58, .ro, 0x0⟩, ⟨57, 54, .ro, 0x0⟩, ⟨53, 50, .ro, 0x0⟩, ⟨49, 46, .ro, 0x0⟩, ⟨45, 40, .ro, 0x0⟩, ⟨31, 0, .ro, 0x0⟩]⟩,
  ⟨"TR_CNT", 0x901200, 0x0, 1, 8, 8, true,
    [⟨63, 0, .ro, 0x0⟩]⟩,
  ⟨"TR_WRAP", 0x901280, 0x0, 1, 0, 1, false,
    [⟨7, 0, .w1c, 0x0⟩]⟩,
  ⟨"SM_STATUS", 0xA00000, 0x0, 1, 0, 1, false,
    [⟨31, 31, .ro, 0x0⟩, ⟨30, 30, .ro, 0x0⟩, ⟨29, 29, .w1c, 0x0⟩, ⟨7, 0, .ro, 0x0⟩]⟩,
  ⟨"SM_CNT", 0xA00100, 0x0, 1, 8, 4, true,
    [⟨63, 0, .ro, 0x0⟩]⟩,
  ⟨"SM_WRAP", 0xA00180, 0x0, 1, 0, 1, false,
    [⟨3, 0, .w1c, 0x0⟩]⟩,
  ⟨"RAIL_STATUS", 0xC00000, 0x0, 1, 0, 1, false,
    [⟨31, 31, .ro, 0x0⟩, ⟨30, 30, .ro, 0x0⟩, ⟨23, 12, .rc, 0xFFF⟩, ⟨11, 0, .ro, 0x0⟩]⟩,
  ⟨"SCAN_CTL", 0xC00100, 0x0, 1, 0, 1, true,
    [⟨63, 63, .wo, 0x0⟩, ⟨62, 62, .ro, 0x0⟩, ⟨61, 60, .ro, 0x0⟩, ⟨9, 0, .rw, 0x0⟩]⟩,
  ⟨"PWR_CNT", 0xC00200, 0x0, 1, 8, 4, true,
    [⟨63, 0, .ro, 0x0⟩]⟩,
  ⟨"PWR_WRAP", 0xC00280, 0x0, 1, 0, 1, false,
    [⟨3, 0, .w1c, 0x0⟩]⟩,
  ⟨"MG_IDENT", 0xB00000, 0x0, 1, 0, 1, false,
    [⟨31, 16, .ro, 0x0⟩, ⟨8, 8, .ro, 0x0⟩, ⟨3, 0, .ro, 0x0⟩]⟩,
  ⟨"MG_STATUS", 0xB00008, 0x0, 1, 0, 1, false,
    [⟨31, 31, .ro, 0x0⟩, ⟨30, 30, .ro, 0x0⟩, ⟨29, 29, .ro, 0x0⟩, ⟨27, 24, .ro, 0x0⟩, ⟨12, 0, .ro, 0x0⟩]⟩,
  ⟨"MG_ALERT", 0xB00010, 0x0, 1, 0, 1, false,
    [⟨10, 1, .w1c, 0x0⟩]⟩,
  ⟨"MG_CFG", 0xB00018, 0x0, 1, 0, 1, true,
    [⟨63, 32, .rw, 0x0⟩, ⟨31, 16, .rw, 0x64⟩, ⟨10, 1, .rw, 0x3E0⟩]⟩,
  ⟨"MG_POWER", 0xB00020, 0x0, 1, 0, 1, true,
    [⟨63, 32, .ro, 0x0⟩, ⟨31, 0, .rc, 0x0⟩]⟩,
  ⟨"MG_CNT", 0xB00100, 0x0, 1, 8, 4, true,
    [⟨63, 0, .ro, 0x0⟩]⟩,
  ⟨"TR_MR", 0x900100, 0x20, 16, 8, 4, true,
    [⟨63, 0, .ro, 0x0⟩]⟩,
  ⟨"TR_CMR", 0x900400, 0x20, 64, 8, 4, true,
    [⟨63, 0, .ro, 0x0⟩]⟩
]

/-- Registers, part Stall. -/
def regsStall : List RegDef := [
  ⟨"STALL_QDEPTH", 0x10000040, 0x10000, 832, 0, 1, false,
    [⟨30, 27, .ro, 0x0⟩, ⟨26, 24, .ro, 0x0⟩, ⟨23, 20, .ro, 0x0⟩, ⟨19, 15, .ro, 0x0⟩, ⟨14, 11, .ro, 0x0⟩, ⟨10, 8, .ro, 0x0⟩, ⟨7, 5, .ro, 0x0⟩, ⟨4, 0, .ro, 0x10⟩]⟩,
  ⟨"STALL_IDENT", 0x10000000, 0x10000, 832, 0, 1, false,
    [⟨31, 29, .ro, 0x0⟩, ⟨25, 16, .ro, 0x3FF⟩, ⟨9, 0, .ro, 0x0⟩]⟩,
  ⟨"STALL_STATUS", 0x10000008, 0x10000, 832, 0, 1, false,
    [⟨7, 6, .ro, 0x0⟩, ⟨3, 3, .w1c, 0x0⟩, ⟨2, 2, .w1c, 0x0⟩, ⟨1, 1, .ro, 0x1⟩, ⟨0, 0, .ro, 0x0⟩]⟩,
  ⟨"TEAM_STATE", 0x10000080, 0x10000, 832, 8, 4, false,
    [⟨31, 29, .ro, 0x0⟩, ⟨28, 24, .ro, 0x0⟩, ⟨23, 0, .ro, 0x0⟩]⟩,
  ⟨"STALL_FAULT", 0x100000C0, 0x10000, 832, 0, 1, true,
    [⟨63, 63, .w1c, 0x0⟩, ⟨62, 62, .ro, 0x0⟩, ⟨61, 60, .ro, 0x0⟩, ⟨59, 36, .ro, 0x0⟩, ⟨35, 24, .ro, 0x0⟩, ⟨22, 20, .ro, 0x0⟩, ⟨15, 0, .ro, 0x0⟩]⟩,
  ⟨"CMP_CFG", 0x10000180, 0x10000, 832, 8, 8, true,
    [⟨63, 32, .ro, 0x0⟩, ⟨31, 31, .ro, 0x0⟩, ⟨18, 16, .ro, 0x0⟩, ⟨15, 12, .ro, 0x0⟩, ⟨7, 0, .ro, 0x0⟩]⟩,
  ⟨"LATE_FENCE_COUNT", 0x10000200, 0x10000, 832, 0, 1, true,
    [⟨63, 0, .ro, 0x0⟩]⟩,
  ⟨"STALL_PWR", 0x10000300, 0x10000, 832, 0, 1, false,
    [⟨31, 20, .rc, 0x0⟩, ⟨19, 10, .ro, 0x0⟩, ⟨9, 0, .ro, 0x0⟩]⟩,
  ⟨"STALL_ENERGY", 0x10000308, 0x10000, 832, 0, 1, true,
    [⟨63, 0, .ro, 0x0⟩]⟩,
  ⟨"AGE_STATUS", 0x10000400, 0x10000, 832, 0, 1, true,
    [⟨63, 16, .ro, 0x0⟩, ⟨15, 15, .ro, 0x0⟩, ⟨9, 0, .ro, 0x0⟩]⟩,
  ⟨"STALL_FLAGS", 0x10000100, 0x10000, 832, 4, 8, false,
    [⟨31, 0, .ro, 0x0⟩]⟩,
  ⟨"STALL_CNT", 0x10000140, 0x10000, 832, 4, 16, false,
    [⟨31, 0, .ro, 0x0⟩]⟩
]

/-- All registers. -/
def regTable : List RegDef := regsYardmaster ++ regsSystem ++ regsLinks ++ regsSecure ++ regsStall

end Sys2Proof.Machine
end

