-- ==== Sys2Proof/Machine/State.lean ====
section
/-!
DEFINITION. The state of the block as plain data: every register, store, queue, mode and pin that the spec gives the
device, and the queue of waiting commands. Sparse stores are sorted lists (NMap); the value of an unlisted key is
the default of its type. State.reset is the device with its power just good and every reset asserted.
-/

namespace Sys2Proof.Machine

/-- Why the machine stops with a fault: nobody raises one; every fault of the device is an effect on State (R86). -/
inductive Fault where
  /-- Raised by nobody; it stands so that the type has a value. Safe: no command answers it. -/
  | none
  deriving DecidableEq, Repr

/-- Why a command has no meaning. -/
inductive Refusal where
  /-- Raised by the arms of exec that have no meaning yet. Safe: nothing is claimed of them. -/
  | notModelled (mnemonic : String)
  deriving DecidableEq, Repr

/-! ### The stall (03, 04, 05, 07, 09) -/

/-- States of a Team (R71). -/
inductive TeamSt where
  | idle | ready | blocked | fenced | finished | halted
  deriving DecidableEq, Repr

/-- A loop level of a Team (R111). -/
structure Loop where
  count  : BitVec 24 := 0
  incA   : W32 := 0
  incB   : W32 := 0
  incD   : W32 := 0
  active : Bool := false
  iter   : BitVec 24 := 0
  rem    : BitVec 24 := 0
  last   : BitVec 24 := 0
  back   : BitVec 24 := 0
  deriving DecidableEq, Repr

/-- A Team (R71): its state, program counter, time base (R127), fence target, wait timeout (R129) and wait timer
(R290), the Teams that TEAM.YIELD still waits for (R75), the cycles for which a taken branch still makes it ineligible and
the Ledger time at which they end at the latest (R75), and its four loop levels. -/
structure Team where
  st       : TeamSt := .idle
  cause    : BitVec 5 := 0
  pc       : BitVec 24 := 0
  tb       : W64 := 0
  start    : W64 := 0
  fence    : W64 := 0
  timeout  : BitVec 16 := 0
  waitFrom : W64 := 0
  yield    : BitVec 4 := 0
  hold     : BitVec 2 := 0
  holdTill : W64 := 0
  l0       : Loop := {}
  l1       : Loop := {}
  l2       : Loop := {}
  l3       : Loop := {}
  deriving DecidableEq, Repr

/-- A comparator (R84); `due` says that its relation held at the end of a cycle since it was armed. -/
structure Cmp where
  value : W32 := 0
  armed : Bool := false
  rel   : BitVec 3 := 0
  ctr   : BitVec 4 := 0
  flag  : BitVec 8 := 0
  due   : Bool := false
  deriving DecidableEq, Repr

/-- A barrier at a stall (R284): LSENSE, OPEN with the Team that arrived, the arrival that waits for the remote writes
numbered below `bound`, the value driven on a device wire, and at a root RPHASE and the arrival count. -/
structure Bar where
  lsense : Bool := false
  opener : Option (Fin 4) := none
  bound  : Option Nat := none
  drive  : Bool := false
  rphase : Bool := false
  count  : Nat := 0
  deriving DecidableEq, Repr

/-- What a context switch saves of a stall (R91, R288). Counters by index; barriers by SCOPE x 64 + ID. -/
structure StallCtx where
  t0    : Team := {}
  t1    : Team := {}
  t2    : Team := {}
  t3    : Team := {}
  flags : BitVec 256 := 0
  cnts  : NMap W32 := []
  cmps  : NMap Cmp := []
  bars  : NMap Bar := []
  deriving DecidableEq, Repr

/-- The engines of a stall (R80). -/
inductive Engine where
  | ma | te | ee | ct | yd | drv
  deriving DecidableEq, Repr

/-- An in-flight entry (R80): the instruction, its captured loops (R113), what it still waits for (messages by number)
and what it does when it completes. -/
structure Entry where
  engine  : Engine := .ma
  seq     : Nat := 0
  ctx     : Nat := 0
  team    : Fin 4 := 0
  pc      : BitVec 24 := 0
  word    : W128 := 0
  loops   : List Loop := []
  /-- Its effect on the stall's own Loft, banks and tiles has been made, or its messages have left (R74, R194). -/
  started : Bool := false
  /-- The record that its completion gives its destination, for M = 1 (R55). -/
  outRec  : Option W128 := none
  /-- A poisoned source line reached its destination (R397). -/
  poison  : Bool := false
  /-- Messages whose return, acknowledgement or report it waits for. -/
  waits   : List Nat := []
  /-- Where the line that a swap returns goes, by the number of its message. -/
  dests   : List (Nat × Int) := []
  /-- Its completion sets PROVISIONAL in the record of its destination (R356). -/
  prov    : Bool := false
  /-- Bytes of HBM granules, and lines of Granary slots, that have returned, by address. -/
  grans   : List (Nat × List Byte) := []
  lines   : List (Nat × Line) := []
  /-- Its completion action is lost (R275). -/
  mute    : Bool := false
  /-- A residue mismatch awaits arbitration (R391). -/
  arb     : Bool := false
  /-- Loft line numbers of the destination that the instruction has written. -/
  wrote   : List Nat := []
  /-- Writes that it has sent to other stalls, HBM or the Granary, by message and position (1,024 for the last two), in order. -/
  sends   : List (Nat × Nat) := []
  /-- What arbitrations have decided of Loft lines that it will write: the result written, or none for nothing (R391). -/
  fixes   : List (Nat × Option Line) := []
  /-- Drover requests that no place was free for yet, in order: the Drover and the descriptor entry (R251). -/
  asks    : List (Nat × Line) := []
  deriving DecidableEq, Repr

/-- An entry of the handle cache (R93, R220): local record, VALID, local POISON, pinned, order of use. -/
structure HEntry where
  record : W128 := 0
  valid  : Bool := false
  poison : Bool := false
  pinned : Bool := false
  use    : Nat := 0
  deriving DecidableEq, Repr

/-- Form of the Matrix Array (R138). -/
inductive Form where
  | tall | square | wide
  deriving DecidableEq, Repr

/-- Mode of a bank (R140). -/
inductive BankMode where
  | none | mod | int | fp
  deriving DecidableEq, Repr

/-- A bank (R137): mode, column primes (0 for no prime), products since the last fold, accumulators by cell
(row x columns + column), poison mark (R503). -/
structure Bank where
  mode   : BankMode := .none
  primes : List Nat := []
  folds  : Nat := 0
  acc    : NMap W80 := []
  poison : Bool := false
  deriving DecidableEq, Repr

/-- The Matrix Array (R137): form, active bank, banks and the snapshot registers (R164). After a reset, a context switch or an
abort bank 0 is active and the snapshot registers are empty, of which the manual says nothing (DESIGN CHOICE, log 96). -/
structure MArray where
  form   : Form := .tall
  active : Bool := false
  b0     : Bank := {}
  b1     : Bank := {}
  snap   : Bank := {}
  deriving DecidableEq, Repr

/-- A tile of the tile queue: 16 lines and its poison mark (R151, R503). -/
structure Tile where
  lines  : List Line := []
  poison : Bool := false
  deriving DecidableEq, Repr

/-- States of the stall power controller (R95). -/
inductive Pwr where
  | run | gated | nap | off
  deriving DecidableEq, Repr

/-- A stall: what is saved at a switch (`live`), and what belongs to the stall. -/
structure Stall where
  live     : StallCtx := {}
  lastTeam : Fin 4 := 3
  entries  : NMap (Option Entry) := []
  hcache   : NMap (Option HEntry) := []
  useNext  : Nat := 0
  code     : NMap W128 := []
  ranges   : NMap (Nat × Nat) := []
  ma       : MArray := {}
  tiles    : List Tile := []
  unacked  : List Nat := []
  /-- Drops counted since the last write-back, by context (R237). -/
  drops    : NMap Nat := []
  aborting : Bool := false
  pwr      : Pwr := .run
  sweep    : Nat := 0
  suspect  : List W64 := []
  droop    : Bool := false
  thermal  : Bool := false
  /-- The IVR target that the last measurement set, mV; it takes effect at a GATED entry or a step boundary (R465). -/
  target   : Nat := 0
  /-- The entries of the prime table (R167), chain after chain. -/
  primeTab : List Nat := []
  /-- The router's set table (R281): the member bit, and the row extent of the set in the router's column. -/
  setTab   : NMap (Bool × Option (Nat × Nat)) := []
  deriving DecidableEq, Repr

/-- A line of a Loft (R197): 16 words, 2 parity bits a word, valid bit and context tag. -/
structure LoftLine where
  words : Line := List.replicate 16 0
  par   : BitVec 32 := 0
  valid : Bool := false
  tag   : BitVec 6 := 0
  deriving DecidableEq, Repr

/-- States of a position (R17). -/
inductive PosSt where
  | notLoaded | enabled | spare | disabled | retired | outOfService
  deriving DecidableEq, Repr

/-- A position (R17 to R21): its state, logical ID (0x3FF for none), the cause of a retirement that waits for the next
context boundary (R98, R392, R393), and whether it passes a scan (R467). -/
structure Pos where
  st    : PosSt := .notLoaded
  lid   : Nat := 0x3FF
  await : Option (BitVec 2) := none
  scan  : Bool := false
  /-- The cause with which it retired (R466). -/
  cause : BitVec 2 := 0
  deriving DecidableEq, Repr

/-! ### Messages in flight (09) -/

/-- The virtual networks (R263). -/
inductive Net where
  | req | rsp | bridleway
  deriving DecidableEq, Repr

/-- The ends of a path (R264). -/
inductive Node where
  | stall (p : Nat)
  | hbm (st : Nat)
  | granary (h : Nat)
  | drover (d : Nat)
  | yardmaster
  | gate
  deriving DecidableEq, Repr

/-- Where a line goes at its destination: a line of a handle's local piece, or a Loft line (R270). -/
inductive LineTo where
  | piece (h : Nat) (off : Int)
  | loft (h : Nat) (line : Nat)
  deriving DecidableEq, Repr

/-- What a Granary line operation does (R324). -/
inductive GrnOp where
  | read
  | write
  | modAdd (q : Nat)
  | intAdd (int32 : Bool)
  | min (kind : Fin 3)
  | max (kind : Fin 3)
  | swap
  | cas
  deriving DecidableEq, Repr

/-- The instruction that made an access elsewhere: its stall, Team and program counter (R87, R396, R482). -/
structure Origin where
  pos  : Nat := 0
  team : Fin 4 := 0
  pc   : BitVec 24 := 0
  deriving DecidableEq, Repr

/-- A Drover entry as its request carries it (R251). -/
structure DrvEntry where
  ctx   : Nat := 0
  lid   : Nat := 0
  pos   : Nat := 0
  entry : Nat := 0
  key   : Bool := true
  a     : Nat := 0
  tag   : W64 := 0
  words : Line := []
  /-- A's local POISON at the requesting stall (R397). -/
  poison : Bool := false
  /-- The message that asked; the Drover's report of the entry carries its number. -/
  id    : Nat := 0
  origin : Origin := {}
  deriving DecidableEq, Repr

/-- What a message carries. `ack` is the position of a stall that counts it as an unacknowledged write (R283); `stamp` is in
LEVEL mode the Ledger time of the sender's read (R269). -/
inductive Body where
  | line (where_ : LineTo) (words : Line) (poison : Bool) (stamp : Option W64) (ack : Option Nat) (by_ : Origin)
  /-- Completion action `act` (bits 1:0 FOP, 9:2 CFLAG, 10 CEN, 14:11 CCTR), record and poison mark that follow the
  data of handle h (R107, R271, R503). -/
  | done (h : Nat) (act : BitVec 15) (record : Option W128) (poison : Bool)
  | flag (f : BitVec 8) (v : Bool) (ack : Option Nat)
  | cadd (c : BitVec 4) (v : W32) (ack : Option Nat)
  /-- CT.COPY of in-flight entry n: source handle and lines, and the line of the destination piece it will form. -/
  | copyReq (n : Nat) (h : Nat) (offs : List Int) (d : Int)
  | copyRet (id : Nat) (n : Nat) (d : Int) (lines : List (Int × Line)) (poison : Bool)
  | ack (id : Nat) (poison : Bool) (tally : Bool)
  | arrive (k : Nat) (lid : Nat)
  | release (k : Nat) (phase : Bool)
  | handle (h : Nat)
  /-- Read of granule g (device address bits 39:8, as in place 0) of handle h for in-flight entry n. -/
  | hbmRead (n : Nat) (h : Nat) (g : Nat)
  | hbmRet (id : Nat) (n : Nat) (g : Nat) (data : List Byte) (poison : Bool)
  /-- A tally group of entry n for one block of handle h: lines of the piece by number, and the record of the block. -/
  | hbmWrite (n : Nat) (h : Nat) (lines : List (Nat × Line)) (poison : Bool) (record : W128)
  | grn (n : Nat) (slot : Nat) (op : GrnOp) (words : Line) (poison : Bool)
  | grnRet (id : Nat) (n : Nat) (slot : Nat) (words : Line) (poison : Bool)
  /-- Lines for consecutive slots of a peer window, which one flit will carry; the tally ends its block (R347). -/
  | peer (n : Nat) (slot : Nat) (op : GrnOp) (lines : List Line) (poison : Bool) (tally : Option Nat) (epoch : Nat)
  | drv (e : DrvEntry)
  | drvDone (id : Nat)
  /-- KEYSET_MISMATCH returned to the requesting stall's entry n (R252). -/
  | drvBad (n : Nat) (target : Nat)
  | poison (h : Nat)
  | writeBack (lid : Nat) (h : Nat) (record : W128) (poison : Bool)
  deriving DecidableEq, Repr

/-- A message in flight, with the context whose line or request it carries (64 for none). -/
structure Msg where
  id   : Nat
  src  : Node
  dst  : Node
  net  : Net
  ctx  : Nat
  body : Body
  deriving DecidableEq, Repr

/-! ### Images (02, 04, 07, 08, 09, 13) -/

/-- A prime chain (R41, R136), with the roots of R44. -/
structure Chain where
  id       : Nat := 0
  bgv      : Bool := false
  logN     : Nat := 12
  qcount   : Nat := 0
  pcount   : Nat := 0
  dnum     : Nat := 0
  headroom : Nat := 0
  plainMod : Nat := 0
  primes   : List Nat := []
  roots    : List Nat := []
  deriving DecidableEq, Repr

/-- An owner entry (R214). -/
structure Owner where
  device    : Nat := 0x7FFF
  stall     : Nat := 0
  lineBase  : Nat := 0
  log2Parts : Nat := 0
  part      : Nat := 0
  slotCount : Nat := 0
  slotFirst : Nat := 0
  deriving DecidableEq, Repr

/-- A handle declaration (R213). -/
structure HDecl where
  handle   : Nat := 0
  kind     : Nat := 0
  layout   : Nat := 0
  etype    : Nat := 0
  place    : Nat := 0
  chain    : Nat := 0xFF
  capacity : Nat := 0
  polys    : Nat := 1
  ilDim    : Nat := 0
  flags    : Nat := 0
  role     : Nat := 0
  slots    : Nat := 0
  pitch    : Nat := 0
  lines    : Nat := 0
  base     : Nat := 0
  fill     : W36 := 0
  rows     : Nat := 0
  cols     : Nat := 0
  record   : W128 := 0
  owners   : List Owner := []
  slotMap  : List Nat := []
  deriving DecidableEq, Repr

/-- A role (R135, R202). -/
structure Role where
  code : List W128 := []
  plan : W64 := 0
  deriving DecidableEq, Repr

/-- A window of the Granary (R321, R346, R378). Kind 0 local, 1 export, 2 peer, 3 staging (R376). -/
structure Window where
  kind      : Nat := 0
  offset    : Nat := 0
  size      : Nat := 0
  backing   : Nat := 0
  senders   : Nat := 0
  ntfStall  : Nat := 0
  ntfCtr    : Nat := 0
  peer      : Nat := 0
  job       : Nat := 0
  peerSlot0 : Nat := 0
  deriving DecidableEq, Repr

/-- A multicast set (R279). -/
structure McSet where
  index   : Nat := 0
  barrier : Bool := false
  sense   : Nat := 0
  members : List Nat := []
  deriving DecidableEq, Repr

/-- Key-set references (R241). -/
structure KeyRec where
  digit  : Nat := 0
  handle : Nat := 0
  gal    : Nat := 0
  base1  : Nat := 0
  tag    : W64 := 0
  deriving DecidableEq, Repr

/-- A key set (R241). -/
structure KeySet where
  chain : Nat := 0
  count : Nat := 0
  tag   : W64 := 0
  deriving DecidableEq, Repr

/-- A region claim (R378). -/
structure RegClaim where
  cls   : Nat := 0
  base  : Nat := 0
  limit : Nat := 0
  deriving DecidableEq, Repr

/-- A system barrier (R378). -/
structure SysBar where
  id       : Nat := 0
  children : Nat := 0
  parent   : Nat := 0
  deriving DecidableEq, Repr

/-- A CONST record (R235). -/
structure ConstRec where
  handle : Nat := 0
  line   : Nat := 0
  words  : List W36 := []
  deriving DecidableEq, Repr

/-- The resource claims of GENERAL (R378). -/
structure Claims where
  near        : Bool := false
  flags       : Nat := 0
  counters    : Nat := 0
  cmps        : Nat := 0
  devbar      : Nat := 0
  epochUs     : Nat := 0
  sysbar      : Nat := 0
  persistBase : Nat := 0
  persistLen  : Nat := 0
  sharedBase  : Nat := 0
  sharedLen   : Nat := 0
  deriving DecidableEq, Repr

/-- An image as the loader reads it (R133 to R136). roleMap holds a role number or 0xFFFF for each logical ID. -/
structure Image where
  digest  : List Byte := []
  roles   : NMap Role := []
  roleMap : List Nat := []
  entries : List (Nat × Nat × List Nat) := []
  steps   : List (Nat × Nat) := []
  chains  : List Chain := []
  handles : List HDecl := []
  keysets : List KeySet := []
  keys    : List KeyRec := []
  mirrors : List (Nat × Nat) := []
  claims  : Claims := {}
  regions : List RegClaim := []
  windows : List Window := []
  sysbars : List SysBar := []
  mcast   : List McSet := []
  consts  : List ConstRec := []
  deriving DecidableEq, Repr

/-! ### Contexts (13, 14) -/

/-- States of a context slot (R375). -/
inductive CtxSt where
  | free | staged | resident | stopped | unloading
  deriving DecidableEq, Repr

/-- A handle of the handle table (R220): record, VALID and POISON. -/
structure HState where
  record : W128 := 0
  valid  : Bool := false
  poison : Bool := false
  deriving DecidableEq, Repr

/-- A checkpoint (R403), with the rollbacks of its epoch so far (R410). -/
structure Chk where
  epoch   : Nat := 0
  reruns  : Nat := 0
  save    : NMap StallCtx := []
  handles : NMap HState := []
  wires   : BitVec 4 := 0
  deriving DecidableEq, Repr

/-- A dependency entry (R351): the source's device and job, the pending epochs and the receiving epoch. -/
structure Dep where
  src     : Nat := 0
  job     : Nat := 0
  pendLo  : Nat := 0
  pendHi  : Nat := 0
  rxEpoch : Nat := 0
  /-- Ledger time of its last progress. -/
  from_   : W64 := 0
  gapSent : Bool := false
  /-- Byte offset of the window whose SENDERS place it holds; none for the Gatehouse's reserved place (R352, R376). -/
  win     : Option Nat := none
  deriving DecidableEq, Repr

/-- An undo record (R412): the line, the source and epoch, and the saved value or the sum of contributions. -/
structure Undo where
  slot  : Nat := 0
  src   : Nat := 0
  epoch : Nat := 0
  value : Option Line := none
  modq  : Option Nat := none
  sum   : Line := []
  int32 : Bool := false
  deriving DecidableEq, Repr

/-- A write that a source flow sent and that no WACK entry has acknowledged (R349). -/
structure Sent where
  dseq  : Nat := 0
  lines : Nat := 0
  epoch : Nat := 0
  at_   : W64 := 0
  pos   : Nat := 0
  ids   : List Nat := []
  deriving DecidableEq, Repr

/-- A source flow (R350): to a device and job, the next DSEQ, what is unacknowledged, and the epochs that wrote on it and
have not been committed or revoked on it. -/
structure Flow where
  dst    : Nat := 0
  job    : Nat := 0
  dseq   : Nat := 0
  sent   : List Sent := []
  epochs : List Nat := []
  deriving DecidableEq, Repr

/-- A home flow (R350): from a device and job, the next DSEQ expected, whether its GAP stands, WACK entries waiting
and the time of the first of them, and the run of arrivals that the Daybook will record. -/
structure Home where
  src    : Nat := 0
  job    : Nat := 0
  expect : Nat := 0
  gap    : Bool := false
  wacks  : List (Nat × Nat) := []
  since  : W64 := 0
  /-- Flits of the block that its BLK_LAST has not ended yet: DSEQ, RESULT, and the lines they brought. -/
  group  : List (Nat × Nat × List (Nat × Line)) := []
  first  : Nat := 0
  run    : Nat := 0
  deriving DecidableEq, Repr

/-- A packet that an intake ring holds or has taken (R367). -/
structure Packet where
  seq  : W32 := 0
  data : List Byte := []
  deriving DecidableEq, Repr

/-- The command that a ring executes (R369), with the time of its acceptance and how far it has come. -/
structure Exec where
  packet : Packet := {}
  at_    : W64 := 0
  /-- The Teams of a START have been started; the time from acceptance to first issue. -/
  teams  : Bool := false
  first  : Option Nat := none
  /-- The fault that ends a START: code, logical ID and Team. -/
  fault  : Option (Nat × Nat × Nat) := none
  /-- An ABORT ends it; the packet of that ABORT. -/
  abort  : Bool := false
  abortBy : Option Packet := none
  deriving DecidableEq, Repr

/-- A context slot (R366 to R412). -/
structure Ctx where
  st       : CtxSt := .free
  job      : W32 := 0
  prio     : BitVec 2 := 0
  vf       : BitVec 6 := 0
  nextTake : W32 := 0
  nextDone : W32 := 0
  held     : List Packet := []
  taken    : List Packet := []
  done     : List (W32 × List Byte) := []
  cur      : Option Exec := none
  imgBytes : Nat := 0
  staging  : Option Nat := none
  image    : Option Image := none
  handles  : NMap HState := []
  save     : NMap StallCtx := []
  wires    : BitVec 4 := 0
  wbacks   : List (Nat × Nat × W128 × Bool) := []
  /-- An abort under R88 waits for the drain of R289; `rolling` says that it is the abort of a rollback (R409). -/
  aborting : Bool := false
  rolling  : Bool := false
  drained  : Bool := false
  deriving DecidableEq, Repr

/-- The recovery state of a context slot (R351, R400 to R412). -/
structure Rec where
  count    : Nat := 0
  opened   : Option Nat := none
  openAt   : W64 := 0
  closed   : Option Nat := none
  lastStep : Bool := false
  commitNo : Nat := 0
  reruns   : Nat := 0
  /-- Lines (position, line) of the context whose parity has failed and that a re-run will find rewritten (R233). -/
  failing  : List (Nat × Nat) := []
  chks     : List Chk := []
  durable  : List (Nat × Nat × Nat) := []
  deps     : List Dep := []
  /-- The dependency table of the context has emptied since the last write-back (R356). -/
  emptied  : Bool := false
  undo     : List Undo := []
  triggers : List Nat := []
  flows    : List Flow := []
  homes    : List Home := []
  gone     : List Nat := []
  deriving DecidableEq, Repr

/-! ### Memory (11) -/

/-- States of a region (R310). -/
inductive RegSt where
  | free | init | live | scrub
  deriving DecidableEq, Repr

/-- An entry of the region table (R306). OWNER 64 is the device. -/
structure Region where
  st      : RegSt := .free
  rpoison : Bool := false
  cls     : Nat := 0
  owner   : Nat := 0
  base    : Nat := 0
  limit   : Nat := 0
  /-- Its scrub has ended; the entry is FREE once the key slot of its owner is erased (R311). -/
  erased  : Bool := false
  deriving DecidableEq, Repr

/-- A metadata slot (R304); an unlisted one is what the initial fill writes (R310). -/
structure Slot where
  record : W128 := 0
  tally  : Nat := 0
  gpois  : BitVec 16 := 0
  layout : Nat := 0
  deriving DecidableEq, Repr

/-- A partly written granule of the write-combining buffer (R315), with the time of the last write to it. -/
structure Combine where
  bytes  : List (Nat × Byte) := []
  poison : Bool := false
  at_    : W64 := 0
  deriving DecidableEq, Repr

/-- Repair of a stack (R318, R319): rows pending, rows ever remapped, pages moved, each with the number of its spare page, pages
retired, spare pages that lie in a failed row, PPR resources left. -/
structure Repair where
  pending  : List Nat := []
  remapped : List Nat := []
  spared   : List (Nat × Nat) := []
  retired  : List Nat := []
  lost     : List Nat := []
  pprLeft  : Nat := 0
  deriving DecidableEq, Repr

/-- The eight HBM stacks and their controllers. `mem` holds the plaintext bytes by device address, `slots` the metadata
table by page, `combine` the write-combining buffer by granule, `inner` the times of the reads of a row that the inner
code corrected, `failed` the rows that have failed and await ROW_REPAIR (R318), `selfRef` the stacks in self-refresh,
`loop` the start of a loopback run, `recent` the granules last read in each pseudo-channel (stack x 32 + channel), newest first
(R317). -/
structure Hbm where
  mem     : NMap Byte := []
  slots   : NMap Slot := []
  regions : NMap Region := []
  keys    : NMap (Option (BitVec 512 × BitVec 256)) := []
  combine : NMap (Option Combine) := []
  repair  : NMap Repair := []
  inner   : NMap (List W64) := []
  failed  : List Nat := []
  selfRef : Bool := true
  loop    : NMap (Option W64) := []
  recent  : NMap (List Nat) := []
  deriving DecidableEq, Repr

/-- A cached line of the Granary (R322, R323). -/
structure GLine where
  words  : Line := []
  dirty  : Bool := false
  poison : Bool := false
  use    : Nat := 0
  deriving DecidableEq, Repr

/-- The Granary: cached lines by context x 2^21 + slot, and fills asked of the backing. -/
structure Granary where
  lines : NMap (Option GLine) := []
  fills : List Nat := []
  use   : Nat := 0
  deriving DecidableEq, Repr

/-! ### Drovers (08) -/

/-- An open gang (R253). -/
structure Gang where
  key     : List Nat := []
  size    : Nat := 0
  members : List DrvEntry := []
  at_     : W64 := 0
  deriving DecidableEq, Repr

/-- A served entry or gang whose expansions await their checks (R258): the keys of the hoist group whose check has not
closed, in order, and whether the first of them is in its second expansion. -/
structure Expand where
  members : List DrvEntry := []
  todo    : List Nat := []
  again   : Bool := false
  deriving DecidableEq, Repr

/-- A Drover. -/
structure Drover where
  gangs   : NMap (Option Gang) := []
  expands : NMap (Option Expand) := []
  next    : Nat := 0
  recs    : List (Nat × Nat) := []
  deriving DecidableEq, Repr

/-! ### Faults on their way, records and the Daybook (13, 14, 17) -/

/-- A fault report on its way to the Ostler (R476): source order of R476, code, DETAIL and CONTEXT of R477, Ledger. -/
structure Report where
  source : Nat
  code   : Nat
  detail : Nat
  ctx    : Nat
  ledger : W64
  /-- The handles of the instruction with its stall's local records (R54), and why records differed: 1 "block records" (R57),
  2 "write-back" (R59). -/
  involved : List (Nat × W128) := []
  cause  : Nat := 0
  deriving DecidableEq, Repr

/-- The Yardmaster's own state: the running context and its switch time, the wire values and phases of the device
barriers (R282), system barriers, and whether it has met a fatal error. -/
structure Yardm where
  running  : Option (Fin 64) := none
  since    : W64 := 0
  devPhase : BitVec 4 := 0
  sysArr   : NMap Nat := []
  /-- Children whose ARRIVE tokens have come, by context x 16 + ID of the system barrier (R358). -/
  sysKids  : NMap (List Nat) := []
  preOver  : W32 := 0
  preMax   : W32 := 0
  /-- QUANTUM_US has passed since the running context was switched in (R381). -/
  expired  : Bool := false
  deriving DecidableEq, Repr

/-! ### Rhoa Link (12) -/

/-- States of a port (R338). -/
inductive PortSt where
  | disabled | training | up | up1 | down
  deriving DecidableEq, Repr

/-- A flit that a port or the device holds: its bytes and the Ledger time from which it is held (R343). -/
structure Held where
  bytes : List Byte := []
  at_   : W64 := 0
  port  : Nat := 0
  /-- The receive place that it holds at its port, as VC x 16 + class, class 8 for a shared one; 64 for none (R340). -/
  place : Nat := 64
  deriving DecidableEq, Repr

/-- A port (R335 to R340, R357). Credits and credits owed by VC x 16 + class, class 8 for the shared places. -/
structure Port where
  st       : PortSt := .disabled
  lanes    : BitVec 2 := 0
  seq      : BitVec 16 := 0
  acked    : BitVec 16 := 0xFFFF
  expect   : BitVec 16 := 0
  nakSent  : Bool := false
  replay   : List Held := []
  queue    : List Held := []
  /-- Flits at the head of the queue that a retrain left to be resent before any new one (R336). -/
  resend   : Nat := 0
  /-- It runs on one lane until the Ostler retrains it (R337). -/
  spared   : Bool := false
  /-- It has gone DOWN, and neither RETRAIN nor a reset has come since (R338). -/
  failed   : Bool := false
  /-- Flit times in a row through which a BULK flit was ready and another was sent (R339). -/
  bulkWait : Nat := 0
  /-- It has been UP or UP_1L since it was enabled or left DOWN (R338). -/
  wasUp    : Bool := false
  forward  : List Held := []
  credits  : NMap Nat := []
  owed     : List Nat := []
  progress : W64 := 0
  replays  : Nat := 0
  retrains : List W64 := []
  trainAt  : W64 := 0
  neighbor : BitVec 15 := 0x7FFF
  rxPlaces : NMap Nat := []
  beaconTx : W64 := 0
  beaconRx : W64 := 0
  beaconAt : W64 := 0
  deriving DecidableEq, Repr

/-- The link unit: ports, flits taken for the device itself, flits on the wire (port, flit), oldest first. -/
structure Rhoa where
  ports : NMap Port := []
  rx    : List Held := []
  wire  : List (Nat × BitVec 2048) := []
  lastStamp : W64 := 0
  deriving DecidableEq, Repr

/-! ### The package (16, 18) -/

/-- What the fuses of a device hold (R455): the grade, the stepping, positions that are DISABLED or SPARE (the others are
ENABLED), the fused maximum IVR output of each position where it is not the device's, and the HBM repair resources. -/
structure Fuses where
  grade    : Nat := 0
  stepping : Nat := 4
  disabled : List Nat := []
  spares   : List Nat := (List.range 32).map (800 + ·)
  vmaxAll  : Nat := 850
  vmax     : NMap Nat := []
  svnFloor : Nat := 0
  deriving DecidableEq, Repr

/-! ### The Gatehouse and the Daybook (13, 14) -/

/-- An XFER_IN that the Gatehouse has taken for ring member x 64 + context (R386): its packet, whether it has begun,
whether a line failed, and whether lines lay beyond the window. -/
structure Xfer where
  ring   : Nat := 0
  packet : Packet := {}
  begun  : Bool := false
  bad    : Bool := false
  range  : Bool := false
  deriving DecidableEq, Repr

/-- A LOAD or UNLOAD that the Gatehouse has passed on, whose completion binds the ring to its VF and JOB or frees it
(R363, R376, R385). -/
structure GWatch where
  ring   : Nat := 0
  seq    : Nat := 0
  unload : Bool := false
  vf     : Nat := 0
  job    : Nat := 0
  deriving DecidableEq, Repr

/-- An error that the Gatehouse reports in a function's AER capability (R362, R364). -/
inductive AerError where
  | unsupportedRequest | uncorrectableInternal
  deriving DecidableEq, Repr

/-- The Gatehouse: records written to each queue (R374), VF bindings and JOBs of the barn's rings (member x 64 + context),
flows as a source by ring (XFER_IN, R386), flows as a home (outbound, R388) by member and JOB, the transfers it has taken,
its epochs, and the SEQ after the last completed command of each ring. -/
structure Gateh where
  recNo   : NMap Nat := []
  vfBind  : NMap Nat := []
  numVfs  : Nat := 0
  /-- BAR4 is 1 GiB x 2^bar4 (R362). -/
  bar4    : Nat := 0
  linkUp  : Bool := false
  width   : Byte := 0
  speed   : BitVec 4 := 0
  ide     : Bool := false
  flows   : NMap Flow := []
  homes   : List Home := []
  xfers   : List Xfer := []
  epoch   : Nat := 0
  jobs    : NMap Nat := []
  doneSeq : NMap Nat := []
  watch   : List GWatch := []
  /-- The 256 bytes of slot k of ring r, by 64 r + k; 0 until written (R366; DESIGN CHOICE, log 113). -/
  slots   : NMap (List Byte) := []
  /-- Errors that each function has reported and the host has not cleared (R362). -/
  aer     : List (Nat × AerError) := []
  /-- GATE_EN selects bridge mode (R361, R491). -/
  bridge  : Bool := false
  deriving DecidableEq, Repr

/-- The Daybook engine: times of the records of the last millisecond, and records dropped and not yet followed by LOST.
In a replay (R418), the next COMMAND, LINK_RUN and CT_ORDER record of the context with the time from which each has its
turn, the arrivals of the LINK_RUN record that have been performed, the offset of fence times, whether events are
still held, and the count of records at its start. `extend` is the Ledger time of the last EXTEND record. `unwritten` holds, newest
first, the numbers of the records that may still lie in dirty Granary lines, with what stood in their ring places before (R416, R450). -/
structure Daybk where
  times    : List W64 := []
  unwritten : List (Nat × List Byte) := []
  lost     : Nat := 0
  cmdAt    : Nat := 0
  linkAt   : Nat := 0
  linkGot  : Nat := 0
  ctAt     : Nat := 0
  cmdTurn  : W64 := 0
  linkTurn : W64 := 0
  ctTurn   : W64 := 0
  base     : W64 := 0
  holds    : Bool := false
  stop     : Nat := 0
  extend   : W64 := 0
  deriving DecidableEq, Repr

/-! ### The Tack Room and the Smithy (15) -/

/-- A release policy (R436). -/
structure Policy where
  t        : Nat := 1
  n        : Nat := 1
  j        : Nat := 1
  logN     : Nat := 12
  tag      : Nat := 0
  qcount   : Nat := 1
  sigmaMin : Nat := 0
  kMin     : Nat := 0
  budget   : Nat := 0
  primes   : List Byte := []
  digests  : List (List Byte) := []
  deriving DecidableEq, Repr

/-- A gate slot (R435): its policy (none when EMPTY), releases left, the last SERIAL served for each context (R439). Its
share stands in the gate region. -/
structure GateSlot where
  policy : Option Policy := none
  left   : Nat := 0
  served : NMap Nat := []
  deriving DecidableEq, Repr

/-- A release that has passed its checks and waits for its gate step (R440). -/
structure Release where
  c       : Nat := 0
  slot    : Nat := 0
  ct      : Nat := 0
  as_     : Nat := 0
  out     : Nat := 0
  parties : Nat := 0
  serial  : Nat := 0
  sigma   : Nat := 0
  cohort  : Nat := 0
  level   : Nat := 0
  deriving DecidableEq, Repr

/-- An SPDM session (R427): its number, transport, shared secret, the number of key updates, and whether FINISH has
established it. -/
structure Session where
  id      : Nat := 0
  via     : Transport := .doe
  secret  : Nat := 0
  updates : Nat := 0
  live    : Bool := false
  deriving DecidableEq, Repr

/-- The Tack Room (R420 to R446). Measurement registers: an unlisted one is 32 zero bytes. `svns` holds the SVN of the
running image of each component. Keys are empty when erased. `conns` holds the stage of the SPDM connection of each
transport: 1 version, 2 capabilities, 3 algorithms. -/
structure Tack where
  observed : Bool := false
  booted   : Bool := false
  mrs      : NMap (List Byte) := []
  cmrs     : NMap (List Byte) := []
  svns     : NMap Nat := []
  dik      : List Byte := []
  ak       : List Byte := []
  kem      : List Byte := []
  cert     : List Byte := []
  memKey   : List Byte := []
  fabric   : Option (BitVec 256) := none
  ideKey   : List Byte := []
  slots    : NMap GateSlot := []
  release  : Option Release := none
  conns    : List (Transport × Nat) := []
  sessions : List Session := []
  nextSes  : Nat := 1
  deriving DecidableEq, Repr

/-- An operation of the Smithy in progress (R431, R432): whether its input is rejected, what it will write, when it
started and how many gate-die cycles it takes. -/
structure SmithyOp where
  rejected : Bool := false
  outs     : List (Nat × Nat) := []
  clear    : Bool := false
  at_      : W64 := 0
  cycles   : Nat := 0
  deriving DecidableEq, Repr

/-- The Smithy: operand registers X0 to X31, curve slots, the operation in progress. -/
structure Smithy where
  x      : NMap Nat := []
  curves : NMap (Option CurveParams) := []
  op     : Option SmithyOp := none
  deriving DecidableEq, Repr

/-! ### Reset, boot and pins (16, 18) -/

/-- How far a reset sequence has come: asserted, its domains released, or booted. -/
inductive Phase where
  | asserted | released | running
  deriving DecidableEq, Repr

/-- A component whose hitless activation is within its 10 s (R461): when, and the slot that it left. -/
structure Activated where
  at_  : W64 := 0
  oldB : Bool := false
  deriving DecidableEq, Repr

/-- The reset and boot control: phase and level of the sequence (1 core, 2 system, 3 power-on), recovery state, a thermal
trip that holds the device in reset, power to the compute dies, the watchdog's last service, the RST_BLK request's
start, components within 10 s of a hitless activation, TEST_EN as sampled; and the output pins FAULT_N, THERM_TRIP_N
and XSPI_RESET_N. -/
structure Rst where
  phase    : Phase := .asserted
  level    : Nat := 3
  recovery : Bool := false
  /-- The shadow registers come from the trim backup in flash (R455). -/
  backup   : Bool := false
  tripped  : Bool := false
  dies     : Bool := false
  wdogAt   : W64 := 0
  blkAt    : W64 := 0
  /-- KIND and TARGET of the RST_BLK request in progress, and whether the block has been reset. -/
  blk      : Option (Nat × Nat × Bool) := none
  /-- Bit c - 1: component c runs from slot B. -/
  runB     : BitVec 3 := 0
  acts     : NMap (Option Activated) := []
  testEn   : Bool := false
  faultN   : Bool := false
  tripN    : Bool := true
  xspiRstN : Bool := false
  deriving DecidableEq, Repr

/-- The supply monitor: the lowest sample of the droop episode, positions in a thermal episode, rail readings. -/
structure Supply where
  low : Nat := 0
  hot : List Nat := []
  /-- What the monitor of a rail reads, in mV, by its place in R493's table; an unlisted rail is in range (R495). -/
  rails : NMap (Option Nat) := []
  deriving DecidableEq, Repr

/-! ### The Ostler and the Ledger (17) -/

/-- A subscription (R478). -/
structure Sub where
  via     : Transport := .i3c
  classes : BitVec 16 := 0
  telem   : Bool := false
  deriving DecidableEq, Repr

/-- What the margin table holds of a position (R466): REQ_MV, state (1 RETIRED, 2 OUT_OF_SERVICE), Ledger of the last
measurement in microseconds, cause. -/
structure Margin where
  mv    : Nat := 0
  state : Nat := 0
  at_   : Nat := 0
  cause : Nat := 0
  deriving DecidableEq, Repr

/-- The Ostler (R468 to R480): hardware FIFO of reports, report ring (at most 4,096 records, the newest last), next report
sequence number, subscriptions, MCTP endpoint ID, I3C dynamic address, management link, leased IPv4 address with the
lease and when it was given, latest telemetry record, flash bytes that differ from erased ones, active slots, flash
sectors that the writes have reached, sequence number, time and contents of the margin table as last written, SRAM bytes
that a debug access has written, and whether its firmware runs. -/
structure Ostler where
  fifo    : List Report := []
  ring    : List (List Byte) := []
  seq     : W32 := 0
  subs    : NMap (Option Sub) := []
  eid     : Byte := 0
  da      : Option (BitVec 7) := none
  link    : Bool := false
  ip      : BitVec 32 := 0
  lease   : Nat := 0
  leaseAt : W64 := 0
  renews  : Bool := false
  telem   : List Byte := []
  flash   : NMap Byte := []
  dir     : BitVec 3 := 0
  erased  : List Nat := []
  marSeq  : W32 := 0
  marAt   : W64 := 0
  margin  : NMap Margin := []
  marRep  : NMap Repair := []
  /-- The copy of the fabric reset key in flash (R420). -/
  fabric  : Option (BitVec 256) := none
  sram    : NMap Byte := []
  /-- MCTP packets of MGMT flits whose message is not complete or not yet acted on: source device, packet (R344, R469). -/
  inbox   : List (Nat × List Byte) := []
  up      : Bool := false
  deriving DecidableEq, Repr

/-- The discipline of the Ledger (R473 to R475): runs of good and bad samples, when a source last qualified, the offset
that is still to be slewed out in ns (negative to slow), ticks since the last slewed one, the last TIME_PPS edge, and of
PTP the chosen master with its priority, the arrival of its last Sync, the origin and arrival of the Sync that is being
completed, the time of the Delay_Req, and the path delay once it is known. -/
structure Disc where
  good    : Nat := 0
  bad     : Nat := 0
  qualAt  : W64 := 0
  slew    : Int := 0
  phase   : Nat := 0
  ppsAt   : Option W64 := none
  master  : Option W64 := none
  prio    : W64 := 0
  syncAt  : Option W64 := none
  t1      : Option W64 := none
  t2      : W64 := 0
  t3      : Option W64 := none
  delay   : Option Int := none
  deriving DecidableEq, Repr

/-- The debug logic (R443 to R445, R492): the instruction that the TAP has selected. -/
structure Tap where
  ir : Byte := 0x01
  deriving DecidableEq, Repr

/-- The state of the block. -/
structure State where
  /-- Commands that wait, first in, first out (the model's queue). -/
  pending   : List Instr := []
  /-- Free values drawn so far (the model's own). -/
  fresh     : Nat := 0
  /-- The number of the next message (the model's own). -/
  msgSeq    : Nat := 0
  /-- What the last read returned to its requester (the model's own). -/
  bus       : List Byte := []
  /-- That read completed with the poisoned (EP) attribute (R365). -/
  busEp     : Bool := false
  /-- Host memory behind the Gatehouse, by bus address. -/
  hostMem   : NMap Byte := []
  /-- MSI-X vectors raised: function (0 the PF) and vector, oldest first (R374). -/
  irqs      : List (Nat × Nat) := []
  /-- Registers by CSR offset; an unlisted register holds its reset value (R8). -/
  csr       : NMap W64 := []
  ledger    : W64 := 0
  positions : NMap Pos := []
  stalls    : NMap Stall := []
  /-- Loft lines by position x 16384 + line. -/
  loft      : NMap LoftLine := []
  yard      : List Msg := []
  ctxs      : NMap Ctx := []
  recs      : NMap Rec := []
  ym        : Yardm := {}
  hbm       : Hbm := {}
  grn       : Granary := {}
  drovers   : NMap Drover := []
  reports   : List Report := []
  rhoa      : Rhoa := {}
  gate      : Gateh := {}
  db        : Daybk := {}
  fuses     : Fuses := {}
  tack      : Tack := {}
  smithy    : Smithy := {}
  rst       : Rst := {}
  supply    : Supply := {}
  ostler    : Ostler := {}
  disc      : Disc := {}
  tap       : Tap := {}
  /-- Messages that the Ostler and the Tack Room have sent, by transport, oldest first (R427, R471). -/
  sent      : List (Transport × List Byte) := []
  /-- Frames that the management port has sent outside MCTP (ARP, DHCPv4, PTP), oldest first (R469, R475). -/
  frames    : List (List Byte) := []
  deriving DecidableEq, Repr

/-- The machine right after power-on reset. -/
def State.reset : State := {}

end Sys2Proof.Machine
end

