-- ==== Sys2Proof/Machine/Ops.lean ====
section
/-!
DEFINITION. The named operations over the state: free values, registers and counters, positions, stalls, contexts,
Loft lines, messages. Every meaning goes through these.
-/

namespace Sys2Proof.Machine

/-! ### Free values -/

/-- Draw a free value: the value, and the state that has drawn it (DESIGN CHOICE, log 2). -/
def draw (s : State) : Nat × State := (Config.free s.fresh, { s with fresh := s.fresh + 1 })

/-- Draw n free values. -/
def drawMany (s : State) (n : Nat) : List Nat × State :=
  ((List.range n).map fun k => Config.free (s.fresh + k), { s with fresh := s.fresh + n })

/-! ### Registers (R8 to R12) -/

/-- The register that an offset names: its definition, instance and entry. -/
def regAt (off : Nat) : Option (RegDef × Nat × Nat) :=
  regTable.findSome? fun r =>
    if off < r.base then none else
    let d := off - r.base
    let a := if r.strideA = 0 then 0 else d / r.strideA
    let e := if r.strideA = 0 then d else d % r.strideA
    let b := if r.strideB = 0 then 0 else e / r.strideB
    let z := if r.strideB = 0 then e else e % r.strideB
    if a < r.countA && b < r.countB && z = 0 then some (r, a, b) else none

/-- The value that the Reset column gives a register; 0 where no register lies (R9). -/
def resetVal (off : Nat) : W64 :=
  match regAt off with
  | some (r, _, _) => BitVec.ofNat 64 (r.fields.foldl (fun a f => a + f.reset * 2 ^ f.lo) 0)
  | none => 0

/-- A register's stored value. -/
def csrGet (s : State) (off : Nat) : W64 := nget (resetVal off) s.csr off

/-- Store a register. -/
def csrPut (s : State) (off : Nat) (v : W64) : State := { s with csr := nset (resetVal off) s.csr off v }

/-- A field of a register. -/
def csrField (s : State) (off hi lo : Nat) : Nat := bitsOf (csrGet s off).toNat hi lo

/-- Write a field of a register. -/
def csrSetField (s : State) (off hi lo v : Nat) : State :=
  csrPut s off (BitVec.ofNat 64 (putBits (csrGet s off).toNat hi lo v))

/-- A bit of a register. -/
def csrBit (s : State) (off i : Nat) : Bool := csrField s off i i = 1

/-- Add n to a 64-bit counter that wraps modulo 2^64 and sets its wrap bit. -/
def bumpBy (s : State) (off wrapOff wrapBit n : Nat) : State :=
  if n = 0 then s else
  let v := (csrGet s off).toNat + n
  let s1 := csrPut s off (BitVec.ofNat 64 v)
  if v < 2 ^ 64 then s1 else csrSetField s1 wrapOff wrapBit wrapBit 1

/-- Add 1 to a counter. -/
def bump (s : State) (off wrapOff wrapBit : Nat) : State := bumpBy s off wrapOff wrapBit 1

/-- Record in a first-event register (VALID bit 63, MORE bit 62): the first event is kept, a later one sets MORE. -/
def recordFirst (s : State) (off v : Nat) : State :=
  if csrBit s off 63 then csrSetField s off 62 62 1
  else csrPut s off (BitVec.ofNat 64 (putBits (putBits v 63 63 1) 62 62 0))

/-- Set the registers of a range back to their reset values. -/
def csrClear (s : State) (lo hi : Nat) : State := { s with csr := nclear s.csr lo hi }

/-- Offset of a stall's CSR window (R16). -/
def stallCsr (p off : Nat) : Nat := 0x10000000 + p * 0x10000 + off
/-- YARD_CNT[i] counted up. -/
def yardCount (s : State) (i n : Nat) : State := bumpBy s (0x5100 + 8 * i) 0x5180 i n
/-- DRV_CNT[i] of Drover d counted up. -/
def drvCount (s : State) (d i n : Nat) : State := bumpBy s (0x0300100 + d * 0x10000 + 8 * i) (0x0300180 + d * 0x10000) i n
/-- HBM_CNT[i] of stack st counted up. -/
def hbmCount (s : State) (st i n : Nat) : State := bumpBy s (0x0600100 + st * 0x10000 + 8 * i) (0x0600180 + st * 0x10000) i n
/-- GRN_CNT[i] counted up. -/
def grnCount (s : State) (i n : Nat) : State := bumpBy s (0x0500100 + 8 * i) 0x0500180 i n
/-- REC_CNT[i] counted up. -/
def recCount (s : State) (i : Nat) : State := bump s (0x7700 + 8 * i) 0x7780 i
/-- INTAKE_CNT[i] counted up. -/
def intakeCount (s : State) (i : Nat) : State := bump s (0x6480 + 8 * i) 0x64A0 i
/-- GH_CNT[i] counted up. -/
def ghCount (s : State) (i : Nat) : State := bump s (0x0800100 + 8 * i) 0x0800180 i
/-- RL_CNT[n][i] counted up. -/
def rlCount (s : State) (n i k : Nat) : State := bumpBy s (0x0700100 + n * 0x1000 + 8 * i) (0x0700180 + n * 0x1000) i k
/-- RL_DCNT[i] counted up. -/
def rlDevCount (s : State) (i : Nat) : State := bump s (0x07C0100 + 8 * i) 0x07C0180 i
/-- TR_CNT[i] counted up. -/
def trCount (s : State) (i : Nat) : State := bump s (0x0901200 + 8 * i) 0x0901280 i
/-- PWR_CNT[i] counted up. -/
def pwrCount (s : State) (i : Nat) : State := bump s (0x0C00200 + 8 * i) 0x0C00280 i

/-- RL_DEVICE.DEVICE_ID (R341). -/
def deviceId (s : State) : Nat := csrField s 0x07C0000 14 0

/-- VMAX_MV of a position (R98, R455). -/
def vmaxOf (s : State) (p : Nat) : Nat := nget s.fuses.vmaxAll s.fuses.vmax p

/-! ### Units by number -/

/-- A stall. -/
def stall (s : State) (p : Nat) : Stall := nget {} s.stalls p
/-- Replace a stall. -/
def setStall (s : State) (p : Nat) (x : Stall) : State := { s with stalls := nset {} s.stalls p x }
/-- Change a stall. -/
def modStall (s : State) (p : Nat) (f : Stall → Stall) : State := setStall s p (f (stall s p))
/-- A context slot. -/
def ctx (s : State) (c : Nat) : Ctx := nget {} s.ctxs c
/-- Replace a context slot. -/
def setCtx (s : State) (c : Nat) (x : Ctx) : State := { s with ctxs := nset {} s.ctxs c x }
/-- Change a context slot. -/
def modCtx (s : State) (c : Nat) (f : Ctx → Ctx) : State := setCtx s c (f (ctx s c))
/-- The recovery state of a context slot. -/
def recOf (s : State) (c : Nat) : Rec := nget {} s.recs c
/-- Change the recovery state of a context slot. -/
def modRec (s : State) (c : Nat) (f : Rec → Rec) : State := { s with recs := nmod {} s.recs c f }
/-- A position. -/
def position (s : State) (p : Nat) : Pos := nget {} s.positions p
/-- Change a position. -/
def modPos (s : State) (p : Nat) (f : Pos → Pos) : State := { s with positions := nmod {} s.positions p f }
/-- A Drover. -/
def drover (s : State) (d : Nat) : Drover := nget {} s.drovers d
/-- Change a Drover. -/
def modDrover (s : State) (d : Nat) (f : Drover → Drover) : State := { s with drovers := nmod {} s.drovers d f }

/-- The number of the running context, 64 for none (R381). -/
def runningNo (s : State) : Nat := match s.ym.running with
  | some c => c.val
  | none => 64

/-- The position that holds a logical ID (R18 to R20). -/
def posOfLid (s : State) (l : Nat) : Option Nat :=
  (s.positions.find? fun e => e.2.st = .enabled && e.2.lid = l).map (·.1)

/-- The logical ID of a position, 0x3FF for none. -/
def lidOf (s : State) (p : Nat) : Nat := (position s p).lid

/-- Teams of a saved or live stall context. -/
def getTeam (x : StallCtx) (t : Fin 4) : Team :=
  match t with
  | 0 => x.t0
  | 1 => x.t1
  | 2 => x.t2
  | 3 => x.t3

/-- Replace a Team. -/
def setTeam (x : StallCtx) (t : Fin 4) (v : Team) : StallCtx :=
  match t with
  | 0 => { x with t0 := v }
  | 1 => { x with t1 := v }
  | 2 => { x with t2 := v }
  | 3 => { x with t3 := v }

/-- Change every Team. -/
def mapTeams (x : StallCtx) (f : Team → Team) : StallCtx :=
  { x with t0 := f x.t0, t1 := f x.t1, t2 := f x.t2, t3 := f x.t3 }

/-- Change a Team of a stall. -/
def modTeam (s : State) (p : Nat) (t : Fin 4) (f : Team → Team) : State :=
  modStall s p fun x => { x with live := setTeam x.live t (f (getTeam x.live t)) }

/-- A loop level of a Team. -/
def getLoop (t : Team) (l : Nat) : Loop :=
  match l with
  | 0 => t.l0
  | 1 => t.l1
  | 2 => t.l2
  | _ => t.l3

/-- Replace a loop level. -/
def setLoop (t : Team) (l : Nat) (v : Loop) : Team :=
  match l with
  | 0 => { t with l0 := v }
  | 1 => { t with l1 := v }
  | 2 => { t with l2 := v }
  | _ => { t with l3 := v }

/-- Change all loop levels. -/
def mapLoops (t : Team) (f : Loop → Loop) : Team := { t with l0 := f t.l0, l1 := f t.l1, l2 := f t.l2, l3 := f t.l3 }

/-! ### Loft lines (R197 to R210, R232) -/

/-- The key of a Loft line. -/
def loftKey (p line : Nat) : Nat := p * 16384 + line
/-- A Loft line as stored. -/
def loftLine (s : State) (p line : Nat) : LoftLine := nget {} s.loft (loftKey p line)
/-- Store a Loft line. -/
def setLoft (s : State) (p line : Nat) (v : LoftLine) : State := { s with loft := nset {} s.loft (loftKey p line) v }

/-- Parity bits of a line of which the words of a mask are written: the other words keep theirs (R232). -/
def mixParity (old new : BitVec 32) (mask : Nat) : BitVec 32 :=
  BitVec.ofNat 32 ((List.range 16).foldl (fun a i =>
    a + (if bitOf mask i then new else old).toNat / 4 ^ i % 4 * 4 ^ i) 0)

/-- Write the words of a mask (bit i for word i) of a line through a frame position, for a context: a line that was
invalid or carried another tag is first zeroed, its valid bit is set and its tag becomes the context (R209). -/
def loftWrite (s : State) (p line c : Nat) (words : Line) (mask : Nat) : State :=
  let old := loftLine s p line
  let mine := old.valid && old.tag.toNat = c
  let base := if mine then old.words else zeroLine
  let new := (List.range 16).map fun i => if bitOf mask i then wordAt words i else wordAt base i
  setLoft s p line { words := new, par := mixParity old.par (parityOf new) (if mine then mask else 0xFFFF), valid := true,
                     tag := BitVec.ofNat 6 c }

/-- The words that a frame position reads for a context; none where the line is invalid or carries another tag, which
reads as the handle's fill (R209). -/
def loftRead (s : State) (p line c : Nat) : Option Line :=
  let l := loftLine s p line
  if l.valid && l.tag.toNat = c then some l.words else none

/-- Clear the valid bits of the lines that a test names (R210). -/
def loftInvalidate (s : State) (f : Nat → Nat → LoftLine → Bool) : State :=
  let m : NMap LoftLine := s.loft.map fun e =>
    if f (e.1 / 16384) (e.1 % 16384) e.2 then (e.1, { e.2 with valid := false }) else e
  { s with loft := m.filter fun e => decide (e.2 ≠ ({} : LoftLine)) }

/-! ### Messages (R25, R263) -/

/-- Put a message on its path; its number is the state's msgSeq. -/
def send (s : State) (src dst : Node) (net : Net) (c : Nat) (b : Body) : State :=
  { s with yard := s.yard ++ [⟨s.msgSeq, src, dst, net, c, b⟩], msgSeq := s.msgSeq + 1 }

/-- A message that is first on its path: no earlier message of the same source, destination and network is still in
flight (R25). -/
def arriving (s : State) (m : Nat) : Option Msg :=
  match s.yard.find? (fun x => x.id = m) with
  | none => none
  | some x =>
    match s.yard.find? (fun y => y.src = x.src && y.dst = x.dst && y.net = x.net) with
    | some y => if y.id = m then some x else none
    | none => none

/-- Take a message off its path. -/
def dropMsg (s : State) (m : Nat) : State := { s with yard := s.yard.filter fun x => x.id != m }

/-- Send a Bridleway message, which is counted in YARD_CNT[5]. -/
def sendBridle (s : State) (src dst : Node) (c : Nat) (b : Body) : State := yardCount (send s src dst .bridleway c b) 5 1

/-- The gate die half that a Granary slot lies in: 0 for G0, 1 for G1 (R321). -/
def grnHalf (slot : Nat) : Nat := slot / 32 % 2

/-- The node of a device address in HBM: its stack (R14). -/
def stackOf (addr : Nat) : Nat := addr / 2 ^ 36

/-! ### Time -/

/-- What an empty queue does: the Ledger counts 1 ns while its clock domain runs (R453, R473; DESIGN CHOICE, log 4). While an offset is being
slewed out, one tick in 5,000 counts 2 ns or none, which is 200 ns in a millisecond (R474). -/
def tick (s : State) : State :=
  if !csrBit s 0x0100020 0 then s
  else if s.disc.slew = 0 then { s with ledger := s.ledger + 1 }
  else if s.disc.phase < 4999 then { s with ledger := s.ledger + 1, disc := { s.disc with phase := s.disc.phase + 1 } }
  else if 0 < s.disc.slew then
    { s with ledger := s.ledger + 2, disc := { s.disc with phase := 0, slew := s.disc.slew - 1 } }
  else { s with disc := { s.disc with phase := 0, slew := s.disc.slew + 1 } }

/-- Ledger in ns. -/
def now (s : State) : Nat := s.ledger.toNat

end Sys2Proof.Machine
end

