-- ==== Sys2Proof/Machine/LinkSend.lean ====
section
/-!
DEFINITION. Flits and the sending half of a Rhoa Link port: layout, CRC-64, routing, credits, the replay buffer
(R332 to R342).
-/

namespace Sys2Proof.Machine

/-- One bit of the CRC-64 of R333 over a 64-bit register. -/
def crc64Bits : Nat → Nat → Nat
  | 0, c => c
  | n + 1, c => crc64Bits n (if c / 2 ^ 63 % 2 = 1 then (c * 2 % 2 ^ 64) ^^^ 0x42F0E1EBA9EA3693 else c * 2 % 2 ^ 64)

/-- CRC-64 of R333. -/
def crc64 (bs : List Byte) : Nat :=
  (bs.foldl (fun c b => crc64Bits 8 (c ^^^ (b.toNat * 2 ^ 56))) (2 ^ 64 - 1)) ^^^ (2 ^ 64 - 1)

/-- The port states in which lanes carry flits (R338). -/
def carries (st : PortSt) : Bool := st == .up || st == .up1

/-- A port. -/
def port (s : State) (n : Nat) : Port := nget {} s.rhoa.ports n
/-- Change a port. -/
def modPort (s : State) (n : Nat) (f : Port → Port) : State :=
  { s with rhoa := { s.rhoa with ports := nmod {} s.rhoa.ports n f } }

/-- Fields of a flit (R332). -/
def flitField (b : List Byte) (o n hi lo : Nat) : Nat := bitsOf (fieldAt b o n) hi lo
/-- TYPE. -/
def flitType (b : List Byte) : Nat := flitField b 4 1 3 0
/-- VC. -/
def flitVc (b : List Byte) : Nat := flitField b 4 1 5 4
/-- TTL. -/
def flitTtl (b : List Byte) : Nat := flitField b 14 1 3 0
/-- DST. -/
def flitDst (b : List Byte) : Nat := flitField b 8 2 14 0
/-- SRC. -/
def flitSrc (b : List Byte) : Nat := flitField b 10 2 14 0

/-- Replace the bytes from o. -/
def putBytes (b : List Byte) (o : Nat) (v : List Byte) : List Byte := b.take o ++ v ++ b.drop (o + v.length)

/-- Lay a body out to n bytes, padded with zeros. -/
def padTo (n : Nat) (b : List Byte) : List Byte := (b ++ List.replicate (n - b.length) 0).take n

/-- A flit of this device with TTL 7 (R332, R343): type, VC, destination, DSEQ, byte 15, body of 232 bytes. SEQ, ACK,
credits and CRC are filled in when a port sends it. -/
def mkFlit (s : State) (type vc dst dseq b15 : Nat) (body : List Byte) : List Byte :=
  leBytes 4 0 ++ leBytes 1 (type + 16 * vc) ++ leBytes 3 0 ++ leBytes 2 dst ++ leBytes 2 (deviceId s) ++ leBytes 2 dseq ++
    leBytes 1 7 ++ leBytes 1 b15 ++ padTo 232 body ++ leBytes 8 0

/-- The bits of a flit on the wire. -/
def flitBits (b : List Byte) : BitVec 2048 := BitVec.ofNat 2048 (leNat b)

/-- A flit as it leaves a port: a BEACON of this device carries the Ledger at its first bit and the echo of the last beacon
received (R357). -/
def stampBeacon (s : State) (p : Port) (b : List Byte) : List Byte :=
  if flitType b = 0xB && flitSrc b = deviceId s then
    putBytes b 16 (leBytes 8 (now s) ++ leBytes 8 p.beaconRx.toNat ++ leBytes 8 p.beaconAt.toNat)
  else b

/-- Put a flit on the wire of a port with its SEQ, ACK and at most one group of owed credits (R335, R340). A group is
coded as VC x 16 + class, class 8 for the shared places. -/
def wireFlit (s : State) (n : Nat) (b : List Byte) (seq : BitVec 16) : State :=
  let p := port s n
  let cr := match p.owed with
    | [] => 0
    | g :: _ =>
      let k := (p.owed.filter (· = g)).length
      k + 256 * (if g % 16 = 8 then 0 else g % 16) + 2048 * (if g % 16 = 8 then 0 else 1) + 4096 * (g / 16)
  let b1 := putBytes (stampBeacon s p b) 0 (leBytes 2 seq.toNat ++ leBytes 2 ((p.expect - 1).toNat))
  let b2 := putBytes b1 5 (leBytes 3 cr)
  let b3 := b2.take 248
  let s1 := modPort s n fun q => { q with owed := match q.owed with
    | [] => []
    | g :: _ => q.owed.filter (· != g) }
  { s1 with rhoa := { s1.rhoa with wire := s1.rhoa.wire ++ [(n, flitBits (b3 ++ leBytes 8 (crc64 b3)))] } }

/-- Whether a port holds a credit for a flit: 8 for a shared one, the class for a reserve one (R340). -/
def creditFor (p : Port) (vc cls : Nat) : Option Nat :=
  if 0 < nget 0 p.credits (vc * 16 + 8) then some 8
  else if 0 < nget 0 p.credits (vc * 16 + cls) then some cls
  else none

/-- The first flit of a VC in the queue that has a credit: its place in the queue, the flit and the credit (R340). -/
def readyOn (p : Port) (vc : Nat) : Option (Nat × Held × Nat) :=
  (p.queue.zipIdx.filter fun e => flitVc e.1.bytes = vc).findSome? fun e =>
    (creditFor p vc (7 - flitTtl e.1.bytes)).map fun k => (e.2, e.1, vc * 16 + k)

/-- The flit that a port sends next, its place in the queue and the credit it spends: flits left by a retrain first
(R336), then a BULK flit that has been ready through 3 flit times, then the VC of highest priority (R339). -/
def nextFlit (p : Port) : Option (Nat × Held × Nat) :=
  if 0 < p.resend then
    match p.queue with
    | [] => none
    | h :: _ => (creditFor p (flitVc h.bytes) (7 - flitTtl h.bytes)).map fun k => (0, h, flitVc h.bytes * 16 + k)
  else (if 3 ≤ p.bulkWait then [0, 3, 2, 1] else [3, 2, 1, 0]).findSome? (readyOn p)

/-- Send one numbered flit of a port, where there is room in the replay buffer (R335, R339). -/
def sendOne (s : State) (n : Nat) : Option State :=
  let p := port s n
  if !carries p.st || 256 ≤ p.replay.length then none else
  match nextFlit p with
  | none => none
  | some (i, h, k) =>
    let s1 := modPort s n fun q => { q with
      queue := q.queue.eraseIdx i, resend := q.resend - 1,
      replay := q.replay ++ [{ h with bytes := putBytes h.bytes 0 (leBytes 2 q.seq.toNat) }],
      credits := nset 0 q.credits k (nget 0 q.credits k - 1), seq := q.seq + 1,
      bulkWait := if flitVc h.bytes ≠ 0 && (readyOn p 0).isSome then p.bulkWait + 1 else 0,
      progress := if q.replay = [] then s.ledger else q.progress }
    some (rlCount (wireFlit s1 n h.bytes p.seq) n 0 1)

/-- Send what a port can send now. -/
def pump : Nat → State → Nat → State
  | 0, s, _ => s
  | k + 1, s, n => match sendOne s n with
    | some s1 => pump k s1 n
    | none => s

/-- Send what a port can send now, up to its whole queue. -/
def pumpPort (s : State) (n : Nat) : State := pump (port s n).queue.length s n

/-- An IDLE (type 0) or NAK (type 1) flit: not numbered, SEQ of the next numbered flit (R335); at link-up DST is
0x7FFF and SRC the device's ID (R338). -/
def sendPlain (s : State) (n type : Nat) : State :=
  wireFlit s n (mkFlit s type 0 0x7FFF 0 0 []) (port s n).seq

/-- The ports of a route mask that carry flits. -/
def upPorts (s : State) (mask : Nat) : List Nat := (List.range 48).filter fun n => bitOf mask n && carries (port s n).st

/-- The port for a flit (R342). -/
def routePort (s : State) (dst src : Nat) : Option Nat :=
  let a := upPorts s (csrGet s (0x0740000 + 8 * dst)).toNat
  let l := if a = [] then upPorts s (csrGet s (0x0780000 + 8 * dst)).toNat else a
  if l = [] then none else l[(src + dst) % l.length]?

/-- GH_GATE_ID, or BARN_GATE on a device that is no bridge (R370, R389). -/
def gateId (s : State) : Nat := if s.gate.bridge then csrField s 0x0800008 14 0 else csrField s 0x6418 14 0

/-- Whether a device ID is this device's own, GATE_ID included on a bridge (R341, R389). -/
def mine (s : State) (d : Nat) : Bool := d ≠ 0x7FFF && (d = deviceId s || (s.gate.bridge && d = gateId s))

/-- Queue a flit for the port that its route gives, and send what that port can; a flit for the device itself reaches it
without a link; a flit with no route is discarded and counted in RL_CNT[6] of port `via`, the port it came by (0 for
the device's own; DEDUCED, log 20). -/
def sendFlit (s : State) (via : Nat) (b : List Byte) : State :=
  if mine s (flitDst b) then { s with rhoa := { s.rhoa with rx := s.rhoa.rx ++ [⟨b, s.ledger, via, 64⟩] } } else
  match routePort s (flitDst b) (flitSrc b) with
  | none => rlCount s via 6 1
  | some n => pumpPort (modPort s n fun p => { p with queue := p.queue ++ [⟨b, s.ledger, via, 64⟩] }) n

end Sys2Proof.Machine
end

