-- ==== Sys2Proof/Machine/Report.lean ====
section
/-!
DEFINITION. What the device tells the outside: Daybook records (R416, R417), records in the host's queues (R373, R374)
and fault reports (R86, R476).
-/

namespace Sys2Proof.Machine

/-! ### The Daybook -/

/-- The place of record n in the ring (R411, R416). -/
def ringAt (n : Nat) : Nat := 0x6000000000 + 32 * (n % 33554432)

/-- Store a record at the ring's next place (R411, R416); until it is written back, its place's earlier contents are the backing's. -/
def dbStore (s : State) (type c : Nat) (payload : List Byte) : State :=
  let n := (csrGet s 0x0D00000).toNat
  let rec_ := leBytes 6 (now s) ++ leBytes 1 type ++ leBytes 1 c ++ padTo 24 payload
  let a := ringAt n
  let old := memRead s.hbm.mem a 32
  let s1 := { s with hbm := { s.hbm with mem := memWrite s.hbm.mem a rec_ } }
  let s2 := csrPut s1 0x0D00000 (BitVec.ofNat 64 (n + 1))
  let times := s.ledger :: s.db.times.filter fun t => decide (now s < t.toNat + 1000000)
  { s2 with db := { s2.db with times := times, unwritten := ((n, old) :: s.db.unwritten).take times.length } }

/-- Write a Daybook record: at most 256 a microsecond; one that finds no room is counted in DB_LOST, and a LOST record
goes before the next one that is accepted (R416). -/
def dbAppend (s : State) (type c : Nat) (payload : List Byte) : State :=
  if 256 ≤ (s.db.times.filter fun t => t.toNat / 1000 = now s / 1000).length then
    let s1 := bump s 0x0D00008 0x0D00018 31
    { s1 with db := { s1.db with lost := s1.db.lost + 1 } }
  else
    let s1 := if s.db.lost = 0 then s else
      let s0 := dbStore s 0x0C 0x40 (leBytes 8 s.db.lost)
      { s0 with db := { s0.db with lost := 0 } }
    dbStore s1 type c payload

/-- An EPOCH record: event 0 open, 1 close, 2 commit, 3 rollback, 4 abandonment (codes: DESIGN CHOICE, log 21). -/
def dbEpoch (s : State) (c epoch event target : Nat) : State :=
  dbAppend s 0x09 c (leBytes 8 epoch ++ leBytes 1 event ++ leBytes 3 0 ++ leBytes 8 target)

/-- A FAULT record. -/
def dbFault (s : State) (c code lid team handle : Nat) : State :=
  dbAppend s 0x08 c (leBytes 2 code ++ leBytes 2 lid ++ leBytes 2 team ++ leBytes 2 handle)

/-! ### Records for the host -/

/-- A 32-byte record (R373) with PHASE 0. -/
def record (s : State) (seq kind status code tag detail c : Nat) : List Byte :=
  leBytes 4 seq ++ leBytes 1 kind ++ leBytes 1 status ++ leBytes 2 code ++ leBytes 8 tag ++ leBytes 8 (now s) ++
    leBytes 4 detail ++ leBytes 2 (deviceId s) ++ leBytes 1 c ++ leBytes 1 0

/-- The index of a device in GH_BARN (R389). -/
def barnIndex (s : State) (dev : Nat) : Option Nat :=
  (List.range 16).find? fun m => csrBit s (0x0800200 + 4 * m) 31 && csrField s (0x0800200 + 4 * m) 14 0 = dev

/-- Raise an MSI-X vector of a function (0 the PF). -/
def raiseIrq (s : State) (fn vec : Nat) : State := { s with irqs := s.irqs ++ [(fn, vec)] }

/-- A function of the Gatehouse reports an error (R362). -/
def aerError (s : State) (fn : Nat) (e : AerError) : State :=
  if s.gate.bridge && !s.gate.aer.contains (fn, e) then { s with gate := { s.gate with aer := s.gate.aer ++ [(fn, e)] } } else s

/-- Write a record into queue r of the Gatehouse with its PHASE, while RING_CQ.EN is 1; then raise the vectors asked
for (R374). -/
def ghRecord (s : State) (r : Nat) (rec_ : List Byte) (irq : Bool) (vf vfVec : Nat) : State :=
  let q := (csrGet s (0x0810000 + 16 * r)).toNat
  if q % 2 = 0 then s else
  let entries := 64 * 2 ^ min (bitsOf q 11 8) 9
  let n := nget 0 s.gate.recNo r
  let a := bitsOf q 63 12 * 4096 + 32 * (n % entries)
  let phase := if n / entries % 2 = 0 then 1 else 0
  let s1 := { s with hostMem := memWrite s.hostMem a (putBytes rec_ 31 (leBytes 1 phase)),
                     gate := { s.gate with recNo := nset 0 s.gate.recNo r (n + 1) } }
  if irq then
    let s2 := raiseIrq s1 0 r
    if vf = 0 then s2 else raiseIrq s2 vf vfVec
  else s1

/-- What the Gatehouse learns from a completion of ring m x 64 + c: how far the ring has come, and that a LOAD has bound or
an UNLOAD freed it (R363, R376, R385, R386). -/
def ghNote (s : State) (ring : Nat) (rec_ : List Byte) : State :=
  let seq := fieldAt rec_ 0 4
  let g := s.gate
  let old := nget 0 g.doneSeq ring
  let new := (seq + 1) % 2 ^ 32
  let g1 := { g with doneSeq := if (new + 2 ^ 32 - old) % 2 ^ 32 < 2 ^ 31 then nset 0 g.doneSeq ring new else g.doneSeq,
                     watch := g.watch.filter fun w => !(w.ring = ring && w.seq = seq) }
  match g.watch.find? fun w => w.ring = ring && w.seq = seq with
  | none => { s with gate := g1 }
  | some w =>
    if fieldAt rec_ 5 1 ≠ 0 then { s with gate := g1 }
    else if w.unload then { s with gate := { g1 with vfBind := nset 0 g.vfBind ring 0, jobs := nset 0 g.jobs ring 0 } }
    else { s with gate := { g1 with vfBind := nset 0 g.vfBind ring w.vf, jobs := nset 0 g.jobs ring w.job,
                                    flows := nset {} g.flows ring { job := w.job },
                                    homes := g.homes.filter fun h => !(h.job = w.job && h.src = csrField s (0x0800200 + 4 * (ring / 64)) 14 0) } }

/-- Deliver a record of member m: queue m x 64 + c for completions and OUT_ records, 1,024 + m for events (R374). The
records of an UNLOAD still go to the VF that the ring had. -/
def ghDeliver (s : State) (m : Nat) (rec_ : List Byte) (irq : Bool) : State :=
  let c := fieldAt rec_ 0x1E 1
  let old := if c < 64 then nget 0 s.gate.vfBind (m * 64 + c) else 0
  let s1 := if fieldAt rec_ 4 1 = 1 then ghNote s (m * 64 + c) rec_ else s
  let new := if c < 64 then nget 0 s1.gate.vfBind (m * 64 + c) else 0
  let vf := if old = 0 then new else old
  if fieldAt rec_ 4 1 = 2 then ghRecord s1 (1024 + m) rec_ true vf 1
  else ghRecord s1 (m * 64 + c) rec_ irq vf 0

/-- A COMPLETION packet (OP 0x80, LEN 3) that carries a record to the bridge (R370, R372). -/
def completionPacket (rec_ : List Byte) (irq : Bool) : List Byte :=
  leBytes 4 (fieldAt rec_ 0 4) ++ leBytes 1 0x80 ++ leBytes 1 3 ++ leBytes 1 (if irq then 1 else 0) ++ leBytes 1 0 ++
    leBytes 8 (fieldAt rec_ 8 8) ++ rec_

/-- A record of this device reaches its queue: through its own Gatehouse on a bridge, as a COMMAND flit to GATE_ID on
another member (R370, R374). -/
def emitRecord (s : State) (rec_ : List Byte) (irq : Bool) : State :=
  if s.gate.bridge then
    match barnIndex s (deviceId s) with
    | some m => ghDeliver s m rec_ irq
    | none => s
  else
    let pk := completionPacket rec_ irq
    sendFlit s 0 (mkFlit s 0x8 2 (csrField s 0x6418 14 0) 0 0 (leBytes 2 pk.length ++ leBytes 6 0 ++ pk))

/-! ### Faults -/

/-- Report a fault to the Ostler (R476): source order (position for stalls, 1000 + d for Drovers, 1010 + stack,
1020 Granary, 1021 Rhoa Link, 1022 Gatehouse, 1023 Tack Room, 1024 Smithy, 1025 reset, clock and power), code,
DETAIL of R477, context (0xFF for none). -/
def reportOstler (s : State) (source code detail c : Nat) : State :=
  { s with reports := s.reports ++ [{ source := source, code := code, detail := detail, ctx := c, ledger := s.ledger }] }

/-- Report a fault to the Yardmaster, which reports it to the host (an EVENT record) and the Daybook (R86, R374, R417),
and to the Ostler. lid is 0x3FF and handle 0xFFF where none applies. -/
def reportFault (s : State) (source code detail c lid team handle : Nat) : State :=
  let s1 := reportOstler s source code detail c
  let s2 := dbFault s1 (if c < 64 then c else 0x40) code lid team handle
  emitRecord s2 (record s2 0 2 0 code 0 (lid + 1024 * team) c) true

/-- What the report of a metadata fault carries beside its record: handles, records and cause (R54, R57, R59). -/
def explain (s : State) (cause : Nat) (involved : List (Nat × W128)) : State :=
  match s.reports.getLast? with
  | none => s
  | some r => { s with reports := s.reports.dropLast ++ [{ r with involved := involved, cause := cause }] }

/-- A stall's fault (R86): STALL_FAULT keeps the first, and the report goes out, a message on the Bridleway (R263). -/
def stallFault (s : State) (p c : Nat) (team : Fin 4) (pc handle action code : Nat) : State :=
  let v := team.val * 2 ^ 60 + pc % 2 ^ 24 * 2 ^ 36 + handle % 4096 * 2 ^ 24 + action % 8 * 2 ^ 20 + code
  let s1 := yardCount (recordFirst s (stallCsr p 0xC0) v) 5 1
  reportFault s1 p code (lidOf s p + 1024 * team.val + 4096 * p) c (lidOf s p) team.val handle

/-- A send of a Drover or a gate die to a logical ID that no ENABLED stall holds returns ENGINE_ABSENT to its source over the Bridleway
(R21, R275); it is counted as a discard and reported (DESIGN CHOICE, log 102). -/
def absentReturn (s : State) (source detail c lid : Nat) : State :=
  reportFault (yardCount (yardCount s 0 1) 5 1) source 0x0102 detail c lid 0 0xFFF

/-- A recovery trigger becomes pending for a context (R407, R408): 0 stands for the open epoch, E + 1 for RX_EPOCH E. -/
def trigger (s : State) (c target : Nat) : State :=
  if c < 64 then modRec s c fun r => { r with triggers := r.triggers ++ [target] } else s

end Sys2Proof.Machine
end

