-- ==== Sys2Proof/Machine/Operands.lean ====
section
/-!
DEFINITION. Instruction words, handles and addresses: the fields and legality of the 128-bit encodings (R100 to R130),
records (R47), pieces, slots and primes (R212 to R216), and the line addresses of a loop nest (R112).
-/

namespace Sys2Proof.Machine

/-! ### Fields of an instruction (R102 to R105) -/

/-- Bits hi:lo of an instruction. -/
def wf_ (w : W128) (hi lo : Nat) : Nat := bitsOf w.toNat hi lo
/-- OPCODE. -/
def opcodeOf (w : W128) : Nat := wf_ w 7 0
/-- NEST. -/
def nestOf (w : W128) : Nat := wf_ w 10 8
/-- MACT, or CSEL in a clear-mode instruction. -/
def mactOf (w : W128) : Nat := wf_ w 13 11
/-- M. -/
def mOf (w : W128) : Bool := wf_ w 14 14 = 1
/-- The handle and offset of slot 0 (A, or F of format C with its 26-bit offset). -/
def hA (w : W128) : Nat := wf_ w 61 50
/-- OFFA. -/
def offA (w : W128) : Nat := wf_ w 75 62
/-- OFFF of format C. -/
def offF (w : W128) : Nat := wf_ w 87 62
/-- HB. -/
def hB (w : W128) : Nat := wf_ w 87 76
/-- OFFB. -/
def offB (w : W128) : Nat := wf_ w 101 88
/-- HD, or HN of format C. -/
def hD (w : W128) : Nat := wf_ w 113 102
/-- OFFD, or OFFN. -/
def offD (w : W128) : Nat := wf_ w 127 114
/-- MOD of format E2. -/
def modE2 (w : W128) : Nat := wf_ w 101 76
/-- MOD of format C. -/
def modC (w : W128) : Nat := wf_ w 101 88
/-- LVL: bits 101:96 in formats E2 and C (R104, R105). -/
def lvlOf (w : W128) : Nat := wf_ w 101 96
/-- The completion action: bits 1:0 FOP, 9:2 CFLAG, 10 CEN, 14:11 CCTR. -/
def actOf (w : W128) : BitVec 15 := BitVec.ofNat 15 (wf_ w 36 35 + 4 * wf_ w 44 37 + 1024 * wf_ w 45 45 + 2048 * wf_ w 49 46)

/-- TILEQ (R109). -/
def hTileq : Nat := 0xFFE
/-- NONE (R109). -/
def hNone : Nat := 0xFFF

/-- The formats of R101. -/
inductive Fmt where
  | e3 | e2 | c | s
  deriving DecidableEq, Repr

/-- A row of the opcode tables R119 to R125: format, engine, NEST 0, actions accepted (bit k for code k), the MOD bits
that the row names, and for format S the bits that the row names. -/
structure OpInfo where
  fmt   : Fmt
  eng   : Engine := .ma
  nest0 : Bool := false
  acts  : Nat := 1
  bits  : Nat := 0
  deriving DecidableEq, Repr

/-- Bits hi:lo as a mask. -/
def mask (hi lo : Nat) : Nat := 2 ^ (hi + 1) - 2 ^ lo

/-- The opcode tables (R119 to R125). Actions: NONE 1, COPY 2, ADD 4, MUL 8, RESCALE 16, DROP 32, RAISE 64. -/
def opInfo (op : Nat) : Option OpInfo :=
  match op with
  | 0x10 => some { fmt := .e2, nest0 := true, bits := mask 1 0 }
  | 0x11 => some { fmt := .e3 }
  | 0x12 => some { fmt := .e3 }
  | 0x13 => some { fmt := .e2, nest0 := true, bits := mask 2 0 }
  | 0x30 => some { fmt := .e2, eng := .te, acts := 3 }
  | 0x31 => some { fmt := .e2, eng := .te, acts := 3 }
  | 0x32 => some { fmt := .e2, eng := .te, acts := 3, bits := mask 17 0 }
  | 0x33 => some { fmt := .e2, eng := .te, acts := 3, bits := 1 }
  | 0x34 => some { fmt := .e2, eng := .te, acts := 3, bits := 1 }
  | 0x40 => some { fmt := .e3, eng := .ee, acts := 5 }
  | 0x41 => some { fmt := .e3, eng := .ee, acts := 5 }
  | 0x42 => some { fmt := .e2, eng := .ee, acts := 5 }
  | 0x43 => some { fmt := .e3, eng := .ee, acts := 9 }
  | 0x44 => some { fmt := .e3, eng := .ee, acts := 9 }
  | 0x45 => some { fmt := .e3, eng := .ee, acts := 9 }
  | 0x46 => some { fmt := .e3, eng := .ee, acts := 5 }
  | 0x47 => some { fmt := .e2, eng := .ee, acts := 35, bits := mask 25 20 }
  | 0x48 => some { fmt := .e2, eng := .ee, bits := mask 3 0 }
  | 0x49 => some { fmt := .e3, eng := .ee, acts := 17 }
  | 0x4A => some { fmt := .e2, eng := .ee, acts := 65, bits := mask 25 20 }
  | 0x50 => some { fmt := .e3, eng := .ee }
  | 0x51 => some { fmt := .e3, eng := .ee }
  | 0x52 => some { fmt := .e3, eng := .ee }
  | 0x53 => some { fmt := .e3, eng := .ee }
  | 0x54 => some { fmt := .e3, eng := .ee }
  | 0x58 => some { fmt := .e2, eng := .ee }
  | 0x59 => some { fmt := .e2, eng := .ee, bits := mask 1 0 }
  | 0x70 => some { fmt := .c, eng := .ct, acts := 35, bits := mask 13 8 }
  | 0x71 => some { fmt := .c, eng := .ct, acts := 35, bits := mask 13 8 }
  | 0x72 => some { fmt := .e2, eng := .ct, acts := 35, bits := mask 9 0 + mask 25 20 }
  | 0x73 => some { fmt := .e3, eng := .ct }
  | 0x74 => some { fmt := .e3, eng := .ct }
  | 0x75 => some { fmt := .e3, eng := .ct }
  | 0x76 => some { fmt := .e2, eng := .ct }
  | 0x77 => some { fmt := .c, eng := .ct, bits := mask 2 0 }
  | 0x90 => some { fmt := .e2, eng := .yd, acts := 35, bits := mask 10 0 + mask 25 20 }
  | 0x91 => some { fmt := .e2, eng := .yd, acts := 35, bits := mask 7 0 + mask 10 10 + mask 25 20 }
  | 0x92 => some { fmt := .e2, eng := .yd, nest0 := true, bits := mask 18 0 }
  | 0x93 => some { fmt := .e2, eng := .yd, nest0 := true, bits := mask 25 0 }
  | 0x94 => some { fmt := .e2, eng := .yd, nest0 := true, bits := mask 18 0 }
  | 0x95 => some { fmt := .e2, eng := .yd, nest0 := true, bits := mask 25 0 }
  | 0xA0 => some { fmt := .e3, eng := .drv }
  | 0xA1 => some { fmt := .e3, eng := .drv }
  | 0xB0 => some { fmt := .s, bits := mask 15 8 }
  | 0xB1 => some { fmt := .s, bits := mask 15 8 }
  | 0xB2 => some { fmt := .s, bits := mask 10 8 + mask 63 32 }
  | 0xB3 => some { fmt := .s, bits := mask 10 8 + mask 63 32 }
  | 0xC0 => some { fmt := .s, bits := mask 15 8 }
  | 0xC1 => some { fmt := .s, bits := mask 15 8 }
  | 0xC8 => some { fmt := .s, bits := mask 29 8 + mask 51 32 }
  | 0xC9 => some { fmt := .s, bits := mask 19 8 }
  | 0xD0 => some { fmt := .s, bits := mask 11 8 + mask 47 16 }
  | 0xD1 => some { fmt := .s, bits := mask 11 8 + mask 47 16 }
  | 0xD2 => some { fmt := .s, bits := mask 11 8 + mask 18 16 }
  | 0xD4 => some { fmt := .s, bits := mask 14 8 + mask 18 16 + mask 31 24 + mask 63 32 }
  | 0xD5 => some { fmt := .s, bits := mask 10 8 }
  | 0xE0 => some { fmt := .s, bits := mask 8 8 + mask 79 16 }
  | 0xE1 => some { fmt := .s, bits := mask 9 8 + mask 79 16 }
  | 0xE2 => some { fmt := .s, bits := mask 11 8 + mask 21 16 }
  | 0xE8 => some { fmt := .s, bits := mask 39 16 }
  | 0xE9 => some { fmt := .s, bits := mask 14 8 + mask 39 16 + mask 71 40 }
  | 0xEA => some { fmt := .s, bits := mask 15 8 + mask 40 16 }
  | 0xF0 => some { fmt := .s, bits := mask 9 8 + mask 103 16 }
  | 0xF1 => some { fmt := .s, bits := mask 11 8 + mask 47 16 }
  | 0xF2 => some { fmt := .s, bits := mask 14 8 + mask 39 16 }
  | 0xF8 => some { fmt := .s }
  | 0xF9 => some { fmt := .s, bits := mask 47 32 }
  | 0xFE => some { fmt := .s }
  | _ => none

/-! ### Images, handles and records -/

/-- The image of a context (the empty image where none is installed). -/
def imageOf (s : State) (c : Nat) : Image := (ctx s c).image.getD {}
/-- A handle's declaration. -/
def declOf (img : Image) (h : Nat) : Option HDecl := img.handles.find? fun d => d.handle = h
/-- The declaration of a handle, with defaults where there is none. -/
def decl (img : Image) (h : Nat) : HDecl := (declOf img h).getD { pitch := 1 }
/-- A chain. -/
def chainOf (img : Image) (id : Nat) : Option Chain := img.chains.find? fun ch => ch.id = id
/-- A chain's prime by index. -/
def chainPrime (ch : Chain) (i : Nat) : Nat := ch.primes.getD i 0

/-- LEVEL of a record (R47). -/
def recLevel (r : W128) : Nat := bitsOf r.toNat 101 96
/-- CHAIN of a record. -/
def recChain (r : W128) : Nat := bitsOf r.toNat 105 102
/-- LOG2_SCALE of a record. -/
def recScale (r : W128) : Nat := bitsOf r.toNat 127 108
/-- KEYSET_TAG of a record. -/
def recTag (r : W128) : Nat := bitsOf r.toNat 63 0
/-- EPOCH_TAG of a record. -/
def recEpoch (r : W128) : Nat := bitsOf r.toNat 95 64
/-- PROVISIONAL of a record. -/
def recProv (r : W128) : Bool := bitsOf r.toNat 107 107 = 1
/-- A record from its fields. -/
def mkRecord (scale : Nat) (prov : Bool) (chain level epoch tag : Nat) : W128 :=
  BitVec.ofNat 128 (tag % 2 ^ 64 + epoch % 2 ^ 32 * 2 ^ 64 + level % 64 * 2 ^ 96 + chain % 16 * 2 ^ 102 +
    (if prov then 2 ^ 107 else 0) + scale % 2 ^ 20 * 2 ^ 108)

/-- Kinds with a record: ciphertext, plaintext, key (R211). -/
def hasRecord (d : HDecl) : Bool := decide (d.kind ≤ 2)
/-- A clear handle. -/
def isClear (d : HDecl) : Bool := d.kind = 3
/-- FLAGS bits of a declaration (R213). -/
def isInput (d : HDecl) : Bool := bitOf d.flags 0
/-- DURABLE. -/
def isDurable (d : HDecl) : Bool := bitOf d.flags 1
/-- CONVTABLE. -/
def isConv (d : HDecl) : Bool := bitOf d.flags 2
/-- GLOBAL. -/
def isGlobal (d : HDecl) : Bool := bitOf d.flags 3

/-- The role of a logical ID, 0xFFFF for none (R135). -/
def roleOf (img : Image) (lid : Nat) : Nat := img.roleMap.getD lid 0xFFFF

/-- Owner entries of a stall on this device, in increasing SLOT_FIRST (R214, R215). -/
def ownersOf (dev : Nat) (d : HDecl) (lid : Nat) : List Owner :=
  (d.owners.filter fun o => (o.device = 0x7FFF || o.device = dev) && o.stall = lid).mergeSort
    fun a b => decide (a.slotFirst ≤ b.slotFirst)

/-- A local piece: first Loft line (or far address), lines, and its owner entries (empty outside OWNER). -/
structure Piece where
  base   : Nat := 0
  lines  : Nat := 0
  owners : List Owner := []
  deriving DecidableEq, Repr

/-- The local piece of a handle for a logical ID (R212, R215). -/
def pieceOf (img : Image) (dev : Nat) (d : HDecl) (lid : Nat) : Piece :=
  match d.place with
  | 0 =>
    let r := roleOf img lid
    if r ≠ 0xFFFF && (d.role = 0xFFFF || d.role = r) then ⟨d.base, d.lines, []⟩ else {}
  | 1 =>
    match ownersOf dev d lid with
    | [] => {}
    | o :: os => ⟨o.lineBase, (o :: os).foldl (fun a e => a + e.slotCount * d.pitch) 0, o :: os⟩
  | _ => ⟨d.base, d.lines, []⟩

/-- The slot in which a line of a piece lies (R215). -/
def slotOfLine (d : HDecl) (pc : Piece) (l : Nat) : Nat :=
  match pc.owners with
  | [] => l / d.pitch
  | os =>
    let rec go : List Owner → Nat → Nat
      | [], _ => 0
      | e :: es, k => if k < e.slotCount * d.pitch then e.slotFirst + k / d.pitch else go es (k - e.slotCount * d.pitch)
    go os l

/-- The chain prime index of a slot (R216). -/
def slotIndex (img : Image) (d : HDecl) (x : Nat) : Option Nat :=
  if d.chain = 0xFF || isConv d then none else
  match d.kind with
  | 0 => if x < d.polys * (d.capacity + 1) then some (x % (d.capacity + 1)) else none
  | 1 => if x ≤ d.capacity then some x else none
  | 2 => match chainOf img d.chain with
    | some ch => if x < ch.qcount + ch.pcount then some x else none
    | none => none
  | 4 => if x < d.slots then d.slotMap[x]? else none
  | _ => none

/-- Whether an address lies inside a piece (R226). -/
def inPiece (pc : Piece) (a : Int) : Bool := decide (0 ≤ a ∧ a < pc.lines)

/-- The prime index of a line of a piece; none outside the piece or in a slot without a prime. -/
def lineIndex (img : Image) (d : HDecl) (pc : Piece) (a : Int) : Option Nat :=
  if inPiece pc a then slotIndex img d (slotOfLine d pc a.toNat) else none

/-- The prime of a line of a piece (R169), 0 for none. -/
def linePrime (img : Image) (d : HDecl) (pc : Piece) (a : Int) : Nat :=
  match lineIndex img d pc a, chainOf img d.chain with
  | some i, some ch => chainPrime ch i
  | _, _ => 0

/-- The modular domain of R169: a destination with slot primes of kind ciphertext, plaintext, key, or chained raw WORD36. -/
def isModular (d : HDecl) : Bool := decide (d.kind ≤ 2) || (d.kind = 4 && d.etype = 0 && d.chain ≠ 0xFF && d.slots ≠ 0)

/-! ### The loop nest (R111 to R114) -/

/-- The loops that an instruction captures at issue (R113). -/
def capture (t : Team) : List Loop := [t.l0, t.l1, t.l2, t.l3]

/-- Increment of a loop for an operand slot. -/
def incOf (l : Loop) (slot : Nat) : Int :=
  match slot with
  | 0 => l.incA.toInt
  | 1 => l.incB.toInt
  | _ => l.incD.toInt

/-- The address of an operand slot in an iteration (R112). -/
def addrGo (slot nest : Nat) : List Loop → Nat → List Nat → Int → Int
  | [], _, _, a => a
  | l :: ls, k, js, a =>
    if k < nest then addrGo slot nest ls (k + 1) js.tail (a + (js.headD 0 : Int) * incOf l slot)
    else addrGo slot nest ls (k + 1) js (if l.active then a + (l.iter.toNat : Int) * incOf l slot else a)

/-- The address of an operand slot from its offset (R112). -/
def addrOf (loops : List Loop) (nest slot off : Nat) (js : List Nat) : Int := addrGo slot nest loops 0 js (off : Int)

/-- The iterations of a nest, in increasing linear index (R114, R115). -/
def iterations (loops : List Loop) (nest : Nat) : List (List Nat) := nestIdx ((loops.take nest).map fun l => l.count.toNat)

/-! ### Reading operands from a Loft -/

/-- The line that an operand reads: the stored words, or the fill value in every word out of range or where the line
is invalid or of another context (R209, R226). -/
def readPiece (s : State) (p c : Nat) (d : HDecl) (pc : Piece) (a : Int) : Line :=
  if inPiece pc a then (loftRead s p (pc.base + a.toNat) c).getD (List.replicate 16 d.fill)
  else List.replicate 16 d.fill

/-- Count n drops of a stall for context c (R237). -/
def countDrop (s : State) (p c n : Nat) : State := modStall s p fun x => { x with drops := nmod 0 x.drops c (· + n) }

/-- Write words of a line of a piece; out of range the write is dropped and counted (R226). -/
def writePiece (s : State) (p c : Nat) (pc : Piece) (a : Int) (words : Line) (msk : Nat) : State :=
  if inPiece pc a then loftWrite s p (pc.base + a.toNat) c words msk else countDrop s p c 1

/-! ### Legality of encodings (R106, R107, R109, R130) -/

/-- The operands of a word by format: (handle, offset) of slots 0, 1, 2 that the format has. -/
def operandsOf (fmt : Fmt) (w : W128) : List (Nat × Nat) :=
  match fmt with
  | .e3 => [(hA w, offA w), (hB w, offB w), (hD w, offD w)]
  | .e2 => [(hA w, offA w), (hD w, offD w)]
  | .c => [(hA w, offF w), (hD w, offD w)]
  | .s => []

/-- Clear-mode (R108): every operand is a clear handle, the tile queue or none, and one is a clear handle. -/
def clearMode (img : Image) (fmt : Fmt) (w : W128) : Bool :=
  let k := (operandsOf fmt w).map fun o => if o.1 = hNone || o.1 = hTileq then 0 else
    match declOf img o.1 with
    | some d => if isClear d then 1 else 2
    | none => 2
  k.all (· ≠ 2) && k.any (· = 1)

/-- The illegal field values of the opcode tables (R119 to R125). -/
def fieldsLegal (w : W128) : Bool :=
  match opcodeOf w with
  | 0x10 => bitsOf (modE2 w) 1 0 ≠ 3
  | 0x13 => decide (bitsOf (modE2 w) 2 0 ≤ 5)
  | 0x59 => bitsOf (modE2 w) 1 0 ≠ 3
  | 0x77 => decide (bitsOf (modC w) 2 0 ≤ 5)
  | 0xC0 => wf_ w 9 8 ≠ 3
  | 0xC1 => wf_ w 9 8 ≠ 3
  | 0xD4 => decide (wf_ w 18 16 ≤ 5)
  | 0xE1 => wf_ w 9 8 ≠ 3 && (wf_ w 9 8 ≠ 2 || wf_ w 79 16 = 0)
  | 0xE9 => decide (wf_ w 14 12 ≤ 5)
  | 0xF1 => wf_ w 11 10 ≠ 3
  | _ => true

/-- TILEQ stands only as D of a Matrix Array instruction and as A or B of an Element Engine instruction (R109). -/
def tileqPlaced (o : OpInfo) (w : W128) : Bool :=
  (hA w ≠ hTileq || o.eng = .ee) && (o.fmt ≠ .e3 || hB w ≠ hTileq || o.eng = .ee) && (hD w ≠ hTileq || o.eng = .ma)

/-- Whether an encoding is legal (R130); in clear mode bits 13:11 are CSEL and bit 14 is RSVD (R108). -/
def legalWord (img : Image) (w : W128) : Bool :=
  match opInfo (opcodeOf w) with
  | none => false
  | some o =>
    if o.fmt = .s then (w.toNat / 256 * 256) &&& (2 ^ 128 - 1 - o.bits) = 0 && fieldsLegal w else
    let clear := clearMode img o.fmt w
    let md := match o.fmt with
      | .e2 => modE2 w
      | .c => modC w
      | _ => 0
    let w0 := wf_ w 15 15 = 1
    let w1 := wf_ w 25 25 = 1
    decide (nestOf w ≤ 4) && (!o.nest0 || nestOf w = 0) &&
    (if clear then !mOf w else bitOf o.acts (mactOf w)) &&
    md &&& (2 ^ 26 - 1 - o.bits) = 0 && fieldsLegal w &&
    (o.acts &&& 96 = 0 || clear || mactOf w = 5 || mactOf w = 6 || lvlOf w = 0) &&
    (o.acts &&& 96 = 0 || !clear || lvlOf w = 0) &&
    wf_ w 36 35 ≠ 3 && (wf_ w 36 35 ≠ 0 || wf_ w 44 37 = 0) && (wf_ w 45 45 ≠ 0 || wf_ w 49 46 = 0) &&
    (w0 || wf_ w 24 16 = 0) && (w1 || (wf_ w 26 26 = 0 && wf_ w 34 27 = 0)) && (!w1 || w0) &&
    (!w1 || wf_ w 24 17 ≠ wf_ w 34 27) &&
    (operandsOf o.fmt w).all (fun x => x.1 ≠ hNone || x.2 = 0) &&
    (!(operandsOf o.fmt w).any (fun x => x.1 = hTileq) || clear || (mactOf w = 0 && !mOf w)) && tileqPlaced o w

end Sys2Proof.Machine
end

