-- ==== Sys2Proof/Machine/Flags.lean ====
section
/-!
DEFINITION. Flags, counters and comparators of a stall (R82 to R85), and the completion action (R78, R107).
-/

namespace Sys2Proof.Machine

/-- Flag f of a stall context. -/
def flagOf (x : StallCtx) (f : BitVec 8) : Bool := x.flags.getLsbD f.toNat

/-- Flags with flag f written. -/
def putFlag (fl : BitVec 256) (f : BitVec 8) (v : Bool) : BitVec 256 :=
  if v then fl ||| (1#256 <<< f.toNat) else fl &&& ~~~(1#256 <<< f.toNat)

/-- A stall context with flag f written (R82). -/
def setFlag (x : StallCtx) (f : BitVec 8) (v : Bool) : StallCtx := { x with flags := putFlag x.flags f v }

/-- Counter c of a stall context. -/
def cntOf (x : StallCtx) (c : BitVec 4) : W32 := nget 0 x.cnts c.toNat

/-- The relations of R85; the reserved codes hold never. -/
def relHolds (rel : BitVec 3) (c v : W32) : Bool :=
  match rel.toNat with
  | 0 => c == v
  | 1 => c != v
  | 2 => v.ule c
  | 3 => c.ult v
  | 4 => !(c - v).msb
  | 5 => (c - v).msb
  | _ => false

/-- Comparator k. -/
def cmpOf (x : StallCtx) (k : Nat) : Cmp := nget {} x.cmps k

/-- At the end of a cycle each armed comparator whose relation holds becomes due (R84). -/
def cmpCheck (x : StallCtx) : StallCtx :=
  { x with cmps := x.cmps.map fun e =>
      if e.2.armed && relHolds e.2.rel (cntOf x e.2.ctr) e.2.value then (e.1, { e.2 with due := true }) else e }

/-- Write a counter; the comparators see its value at the end of the cycle (R83, R84). -/
def setCnt (x : StallCtx) (c : BitVec 4) (v : W32) : StallCtx := cmpCheck { x with cnts := nset 0 x.cnts c.toNat v }

/-- Add to a counter, modulo 2^32 (R83). -/
def addCnt (x : StallCtx) (c : BitVec 4) (v : W32) : StallCtx := setCnt x c (cntOf x c + v)

/-- A completion action on a stall context: bits 1:0 FOP, 9:2 CFLAG, 10 CEN, 14:11 CCTR (R78, R102, R107). -/
def applyAct (x : StallCtx) (a : BitVec 15) : StallCtx :=
  let f := a.extractLsb' 2 8
  let x1 := match (a.extractLsb' 0 2).toNat with
    | 1 => setFlag x f true
    | 2 => setFlag x f false
    | _ => x
  if a.getLsbD 10 then addCnt x1 (a.extractLsb' 11 4) 1 else x1

/-- A change of a stall's live context. -/
def modLive (s : State) (p : Nat) (f : StallCtx → StallCtx) : State :=
  modStall s p fun x => { x with live := f x.live }

/-- A change of what logical ID l of context c holds: in the stall while the context runs, else in the save area. -/
def modStallCtx (s : State) (c l : Nat) (f : StallCtx → StallCtx) : State :=
  if runningNo s = c then
    match posOfLid s l with
    | some p => modLive s p f
    | none => s
  else modCtx s c fun x => { x with save := nmod {} x.save l f }

end Sys2Proof.Machine
end

