-- ==== Sys2Proof/Machine/Floats.lean ====
section
/-!
DEFINITION. Floating point for clear mode (R67, R69, R157, R184, R187): exact values and one rounding to nearest with
ties to even, and the conversions among the element types.
-/

namespace Sys2Proof.Machine

/-- A floating-point value: NaN, an infinity, or a signed m x 2^e. -/
inductive FV where
  | nan
  | inf (neg : Bool)
  | fin (neg : Bool) (m : Nat) (e : Int)
  deriving DecidableEq, Repr

/-- A format: exponent bits, fraction bits, and whether it is E4M3 (no infinity). -/
structure FFmt where
  ebits : Nat
  mbits : Nat
  e4m3  : Bool
  deriving DecidableEq, Repr

/-- IEEE 754 binary32. -/
def fp32 : FFmt := ⟨8, 23, false⟩
/-- BF16 (R67). -/
def bf16 : FFmt := ⟨8, 7, false⟩
/-- FP8 E4M3. -/
def e4m3 : FFmt := ⟨4, 3, true⟩
/-- FP8 E5M2. -/
def e5m2 : FFmt := ⟨5, 2, false⟩

/-- Exponent bias. -/
def biasOf (f : FFmt) : Nat := 2 ^ (f.ebits - 1) - 1

/-- The value that a code stands for. -/
def fdecode (f : FFmt) (x : Nat) : FV :=
  let s := bitOf x (f.ebits + f.mbits)
  let e := x / 2 ^ f.mbits % 2 ^ f.ebits
  let m := x % 2 ^ f.mbits
  if f.e4m3 && e = 15 && m = 7 then .nan
  else if !f.e4m3 && e = 2 ^ f.ebits - 1 then (if m = 0 then .inf s else .nan)
  else if e = 0 then .fin s m (1 - (biasOf f : Int) - f.mbits)
  else .fin s (m + 2 ^ f.mbits) ((e : Int) - biasOf f - f.mbits)

/-- m / 2^k rounded to nearest, ties to even. -/
def rne (m k : Nat) : Nat :=
  if k = 0 then m else
  let d := m / 2 ^ k
  let r := m % 2 ^ k
  if 2 ^ (k - 1) < r || (r = 2 ^ (k - 1) && d % 2 = 1) then d + 1 else d

/-- The sign bit of a format. -/
def signBit (f : FFmt) (neg : Bool) : Nat := if neg then 2 ^ (f.ebits + f.mbits) else 0

/-- The code beyond the largest finite magnitude (R69, R184). -/
def overflowCode (f : FFmt) (neg sat : Bool) : Nat :=
  if f.e4m3 then signBit f neg + (if sat then 0x7E else 0x7F)
  else signBit f neg + (2 ^ f.ebits - 1) * 2 ^ f.mbits

/-- A NaN code of a format whose sign and payload the manual does not fix (DESIGN CHOICE, log 6). -/
def nanCode (f : FFmt) (a b d : Nat) : Nat :=
  let v := Config.nanPayload (f.ebits * 256 + f.mbits) a b d
  let s := if v % 2 = 1 then 2 ^ (f.ebits + f.mbits) else 0
  if f.e4m3 then s + 0x7F
  else s + (2 ^ f.ebits - 1) * 2 ^ f.mbits + (v / 2 % (2 ^ f.mbits - 1) + 1)

/-- Round a value to a format once, to nearest with ties to even; NaN takes the code given. -/
def fencode (f : FFmt) (sat : Bool) (nan : Nat) (v : FV) : Nat :=
  match v with
  | .nan => nan
  | .inf s => overflowCode f s sat
  | .fin s m e =>
    if m = 0 then signBit f s else
    let top : Int := (Nat.log2 m : Int) + e
    let q : Int := max (top - f.mbits) (1 - (biasOf f : Int) - f.mbits)
    let d := if q ≤ e then m * 2 ^ (e - q).toNat else rne m (q - e).toNat
    let (d, q) := if 2 ^ (f.mbits + 1) ≤ d then (d / 2, q + 1) else (d, q)
    if d < 2 ^ f.mbits then signBit f s + d else
    let be := (q + f.mbits + biasOf f).toNat
    let code := be * 2 ^ f.mbits + (d - 2 ^ f.mbits)
    let big := if f.e4m3 then 0x7E else (2 ^ f.ebits - 1) * 2 ^ f.mbits - 1
    if big < code then overflowCode f s sat else signBit f s + code

/-- A finite value as a signed multiple of 2^e. -/
def scaled (neg : Bool) (m : Nat) (e lo : Int) : Int :=
  let v := (m : Int) * 2 ^ (e - lo).toNat
  if neg then -v else v

/-- Exact sum (IEEE 754: opposite infinities give NaN; a zero sum is +0 unless both are -0). -/
def fadd (x y : FV) : FV :=
  match x, y with
  | .nan, _ => .nan
  | _, .nan => .nan
  | .inf a, .inf b => if a = b then .inf a else .nan
  | .inf a, _ => .inf a
  | _, .inf b => .inf b
  | .fin a m e, .fin b n k =>
    let lo := min e k
    let v := scaled a m e lo + scaled b n k lo
    if v = 0 then .fin (if m = 0 && n = 0 then a && b else false) 0 lo
    else .fin (decide (v < 0)) v.natAbs lo

/-- Negation. -/
def fneg (x : FV) : FV :=
  match x with
  | .nan => .nan
  | .inf a => .inf !a
  | .fin a m e => .fin (!a) m e

/-- Exact product (zero times infinity gives NaN). -/
def fmul (x y : FV) : FV :=
  match x, y with
  | .nan, _ => .nan
  | _, .nan => .nan
  | .inf a, .inf b => .inf (a != b)
  | .inf a, .fin b m _ => if m = 0 then .nan else .inf (a != b)
  | .fin a m _, .inf b => if m = 0 then .nan else .inf (a != b)
  | .fin a m e, .fin b n k => .fin (a != b) (m * n) (e + k)

/-- a < b; NaN compares false and -0 equals +0 (R184). -/
def flt (x y : FV) : Bool :=
  match x, y with
  | .nan, _ => false
  | _, .nan => false
  | .inf a, .inf b => a && !b
  | .inf a, _ => a
  | _, .inf b => !b
  | .fin a m e, .fin b n k => let lo := min e k; decide (scaled a m e lo < scaled b n k lo)

/-- a = b under the same rules. -/
def feq (x y : FV) : Bool :=
  match x, y with
  | .nan, _ => false
  | _, .nan => false
  | .inf a, .inf b => a == b
  | .inf _, _ => false
  | _, .inf _ => false
  | .fin a m e, .fin b n k => let lo := min e k; decide (scaled a m e lo = scaled b n k lo)

/-- The sign of a value. -/
def fnegative (x : FV) : Bool :=
  match x with
  | .nan => false
  | .inf a => a
  | .fin a _ _ => a

/-- Rounded to the nearest integer, ties to even; NaN gives 0, infinities the given bounds. -/
def ftoInt (lo hi : Int) (x : FV) : Int :=
  match x with
  | .nan => 0
  | .inf a => if a then lo else hi
  | .fin a m e =>
    let v : Nat := if 0 ≤ e then m * 2 ^ e.toNat else rne m (-e).toNat
    max lo (min hi (if a then -(v : Int) else (v : Int)))

/-- An integer as a value. -/
def fofInt (x : Int) : FV := .fin (decide (x < 0)) x.natAbs 0

/-- The positive quiet NaN of a type (R184). -/
def quietNan (f : FFmt) : Nat := if f.mbits = 23 then 0x7FC00000 else if f.mbits = 7 then 0x7FC0 else 0x7F

/-! ### Element types (R67, R211): 0 WORD36, 1 INT32, 2 FP32, 3 INT8, 4 FP8, 5 BF16, 6 INT4 -/

/-- Elements in a word. -/
def elemsPerWord (et : Nat) : Nat :=
  match et with
  | 3 => 4
  | 4 => 4
  | 5 => 2
  | _ => 1

/-- Bits of an element. -/
def elemBits (et : Nat) : Nat :=
  match et with
  | 0 => 36
  | 3 => 8
  | 4 => 8
  | 5 => 16
  | _ => 32

/-- The format of a floating-point element type under CSEL (bit 1 selects E5M2, R108). -/
def elemFmt (et csel : Nat) : FFmt :=
  match et with
  | 2 => fp32
  | 5 => bf16
  | _ => if bitOf csel 1 then e5m2 else e4m3

/-- A floating-point element type. -/
def isFloat (et : Nat) : Bool := et = 2 || et = 4 || et = 5

/-- Range of an integer element type under CSEL (bit 0 selects unsigned INT8). -/
def intRange (et csel : Nat) : Int × Int :=
  if et = 3 then (if bitOf csel 0 then (0, 255) else (-128, 127)) else (-2147483648, 2147483647)

/-- An integer element's value. -/
def intVal (et csel x : Nat) : Int :=
  if et = 3 then (if bitOf csel 0 then ((x % 256 : Nat) : Int) else signedOf 8 x) else signedOf 32 x

/-- An integer saturated into its type's code. -/
def intCode (et csel : Nat) (v : Int) : Nat :=
  let (lo, hi) := intRange et csel
  let y := max lo (min hi v)
  (y % (2 ^ elemBits et : Nat)).toNat

/-- Element e of a line whose elements have type et. -/
def elemOf (et : Nat) (l : Line) (e : Nat) : Nat :=
  let k := elemsPerWord et
  (wordAt l (e / k)).toNat / 2 ^ (elemBits et * (e % k)) % 2 ^ elemBits et

/-- Elements in a line. -/
def elemsPerLine (et : Nat) : Nat := 16 * elemsPerWord et

/-- A line from its elements. -/
def lineOfElems (et : Nat) (xs : List Nat) : Line :=
  let k := elemsPerWord et
  (List.range 16).map fun i =>
    BitVec.ofNat 36 ((List.range k).foldl (fun a j => a + xs.getD (i * k + j) 0 % 2 ^ elemBits et * 2 ^ (elemBits et * j)) 0)

/-- Convert an element from one type to another (R187). -/
def convert (src dst cselS cselD x : Nat) : Nat :=
  if src = dst && cselS = cselD then x
  else if isFloat src then
    let v := fdecode (elemFmt src cselS) x
    if isFloat dst then fencode (elemFmt dst cselD) (bitOf cselD 2) (nanCode (elemFmt dst cselD) x 0 0) v
    else let (lo, hi) := intRange dst cselD; intCode dst cselD (ftoInt lo hi v)
  else
    let v := intVal src cselS x
    if isFloat dst then fencode (elemFmt dst cselD) (bitOf cselD 2) 0 (fofInt v) else intCode dst cselD v

end Sys2Proof.Machine
end

