-- ==== Sys2Proof/Machine/Layout.lean ====
section
/-!
DEFINITION. Layouts and their change by the Carter (R221 to R225), and the line addresses of an in-flight entry (R112, R113).
-/

namespace Sys2Proof.Machine

/-! ### Layout change (R221 to R225) -/

/-- The logical index that a position of a unit of 2^k words holds (R172, R221). -/
def posIndex (lay k pos : Nat) : Nat := if lay = 1 then brv k pos else pos

/-- A handle that is laid out as a matrix. -/
def isMatrix (d : HDecl) : Bool := d.layout = 2 || d.layout = 3 || decide (8 ≤ d.layout) || (d.layout = 0 && d.rows ≠ 0)

/-- Words of a vector of an interleaved layout (R224). -/
def ilStride (d : HDecl) : Nat := roundUp d.ilDim 16

/-- The matrix element (row, column) at element e of word w of a piece; none where that place is padding (R223, R224). -/
def matrixIndex (d : HDecl) (w e : Nat) : Option (Nat × Nat) :=
  let k := elemsPerWord d.etype
  let r := w % ilStride d
  let v := w / ilStride d
  match d.layout with
  | 2 =>
    let g := ceilDiv d.cols k
    let i := v / g * d.ilDim + r
    let j := v % g * k + e
    if r < d.ilDim && i < d.rows && j < d.cols then some (i, j) else none
  | 3 =>
    let g := ceilDiv d.rows k
    let c := v / g * d.ilDim + r
    let i := v % g * k + e
    if r < d.ilDim && c < d.cols && i < d.rows then some (i, c) else none
  | _ =>
    let i := w / (16 * d.pitch)
    let j := w % (16 * d.pitch) * k + e
    if i < d.rows && j < d.cols then some (i, j) else none

/-- The word and element at which a matrix element lies (R223, R224). -/
def matrixPlace (d : HDecl) (i j : Nat) : Nat × Nat :=
  let k := elemsPerWord d.etype
  match d.layout with
  | 2 => ((i / d.ilDim * ceilDiv d.cols k + j / k) * ilStride d + i % d.ilDim, j % k)
  | 3 => ((j / d.ilDim * ceilDiv d.rows k + i / k) * ilStride d + j % d.ilDim, i % k)
  | _ => (16 * d.pitch * i + j / k, j % k)

/-- Where element e of word i of a destination line comes from: source line, word and element; none for padding.
`s` and `d` are the line addresses of R112, `u` the unit of the destination (R225). -/
def layElem (ds dd : HDecl) (u : Nat) (s d : Int) (i e : Nat) : Option (Int × Nat × Nat) :=
  if ds.layout = dd.layout then some (s, i, e) else
  let dm := (d % (u : Int)).toNat
  let bs := s - (dm : Int)
  let π := 16 * dm + i
  if isMatrix ds && isMatrix dd then
    match matrixIndex dd π e with
    | none => none
    | some (r, c) => let (w, f) := matrixPlace ds r c; some (bs + Int.ofNat (w / 16), w % 16, f)
  else
    let k := Nat.log2 (16 * u)
    let w := posIndex ds.layout k (posIndex dd.layout k π)
    some (bs + Int.ofNat (w / 16), w % 16, 0)

/-- Elements that a layout change moves within a word: the matrix layouts move elements, the limb layouts words. -/
def layParts (ds dd : HDecl) : Nat := if ds.layout ≠ dd.layout && isMatrix ds && isMatrix dd then elemsPerWord dd.etype else 1

/-- The distinct source lines that an iteration reads (R225). -/
def laySources (ds dd : HDecl) (u : Nat) (s d : Int) : List Int :=
  ((List.range 16).flatMap fun i => (List.range (layParts ds dd)).filterMap fun e =>
    (layElem ds dd u s d i e).map (·.1)).dedup

/-- A line as a handle holds it: bits 35:32 of a clear word are written 0 (R67). -/
def clearWords (d : HDecl) (l : Line) : Line := if isClear d then l.map fun w => w &&& 0xFFFFFFFF else l

/-- The destination line of an iteration, from the lines that its source gives (R225). -/
def layLine (ds dd : HDecl) (u : Nat) (s d : Int) (src : Int → Line) : Line :=
  let k := layParts ds dd
  let b := if k = 1 then 36 else elemBits dd.etype
  clearWords dd <| (List.range 16).map fun i => BitVec.ofNat 36 ((List.range k).foldl (fun a e =>
    let v := match layElem ds dd u s d i e with
      | some (l, w, f) => (wordAt (src l) w).toNat / 2 ^ (b * f)
      | none => dd.fill.toNat / 2 ^ (b * e)
    a + v % 2 ^ b * 2 ^ (b * e)) 0)

/-- The unit of a destination: its pitch in a change between limb-family layouts, its piece between matrix-family ones, to
either of which a raw LIMB_LINEAR matrix may belong (R221, R225). -/
def layUnit (ds dd : HDecl) (lines : Nat) : Nat := if isMatrix ds && isMatrix dd then lines else dd.pitch

/-! ### Addresses of an entry -/

/-- The operand of slot 0 or slot 2 of a format C or format E instruction in an iteration. -/
def addrA (e : Entry) (js : List Nat) : Int :=
  let fmtC := (opInfo (opcodeOf e.word)).map (·.fmt) = some .c
  addrOf e.loops (nestOf e.word) 0 (if fmtC then offF e.word else offA e.word) js
/-- Slot 1. -/
def addrB (e : Entry) (js : List Nat) : Int := addrOf e.loops (nestOf e.word) 1 (offB e.word) js
/-- Slot 2. -/
def addrD (e : Entry) (js : List Nat) : Int := addrOf e.loops (nestOf e.word) 2 (offD e.word) js
/-- The iterations of an entry. -/
def entryIts (e : Entry) : List (List Nat) := iterations e.loops (nestOf e.word)

end Sys2Proof.Machine
end

