-- ==== Sys2Proof/Machine/Issue.lean ====
section
/-!
DEFINITION. The issue rule (R72 to R81, R93): which Team may issue, the decode checks, the wait conditions and
reservations, and the poison and metadata checks of R50 to R53 and R397; the outcome of a failed check (R54, R503).
-/

namespace Sys2Proof.Machine

/-- The number of an in-flight entry's engine (queue places of R80). -/
def queuePlaces (e : Engine) : Nat :=
  match e with
  | .ma => 4
  | .te => 4
  | .ee => 8
  | .ct => 16
  | .yd => 8
  | .drv => 4

/-- In-flight entry n of a stall. -/
def entryOf (x : Stall) (n : Nat) : Option Entry := nget none x.entries n
/-- The entries in use, by number. -/
def liveEntries (x : Stall) : List (Nat × Entry) := x.entries.filterMap fun e => e.2.map fun v => (e.1, v)
/-- Entries of an engine, queued or in flight. -/
def engineCount (x : Stall) (e : Engine) : Nat := ((liveEntries x).filter fun v => v.2.engine = e).length
/-- The lowest free entry (R80). -/
def freeEntry (x : Stall) : Option Nat := (List.range 16).find? fun n => (entryOf x n).isNone
/-- An older entry of the same engine than sequence number q. -/
def olderSame (x : Stall) (e : Engine) (q : Nat) : Bool := (liveEntries x).any fun v => v.2.engine = e && v.2.seq < q
/-- Change entry n. -/
def modEntry (s : State) (p n : Nat) (f : Entry → Entry) : State :=
  modStall s p fun x => { x with entries := nmod none x.entries n (Option.map f) }
/-- Free entry n (R78). -/
def dropEntry (s : State) (p n : Nat) : State := modStall s p fun x => { x with entries := nset none x.entries n none }

/-! ### Handle cache (R93, R220) -/

/-- The cache entry of a handle. -/
def cached (s : State) (p h : Nat) : Option HEntry := nget none (stall s p).hcache h
/-- The local record of a handle in a stall (0 where it is not cached). -/
def localRec (s : State) (p h : Nat) : W128 := match cached s p h with
  | some e => e.record
  | none => 0
/-- Change a cache entry. -/
def modCached (s : State) (p h : Nat) (f : HEntry → HEntry) : State :=
  modStall s p fun x => { x with hcache := nmod none x.hcache h (Option.map f) }
/-- Put a handle of context c into the cache of a stall from the Yardmaster's table, replacing the least recently used
entry that is not pinned when 64 are held (R93). While 64 are pinned nothing enters it. -/
def cacheHandle (s : State) (p c h : Nat) : State :=
  let t := nget {} (ctx s c).handles h
  modStall s p fun x =>
    let full := 64 ≤ (x.hcache.filter fun e => e.2.isSome).length && (nget none x.hcache h).isNone
    let victim := x.hcache.foldl (fun (b : Option (Nat × Nat)) e => match e.2 with
      | some v => if v.pinned then b else match b with
        | none => some (e.1, v.use)
        | some (k, u) => if v.use < u then some (e.1, v.use) else some (k, u)
      | none => b) none
    let put (hc : NMap (Option HEntry)) : Stall :=
      { x with hcache := nset none hc h (some ⟨t.record, t.valid, t.poison, false, x.useNext⟩), useNext := x.useNext + 1 }
    match full, victim with
    | true, some (k, _) => put (nset none x.hcache k none)
    | true, none => x
    | false, _ => put x.hcache
/-- Set a handle's local POISON in a stall; where the stall does not cache the handle, the entry is fetched with it
(R54, R61, R252), and where no entry can be fetched the handle table takes the mark, as the write-back would bring it (R59). -/
def poisonLocal (s : State) (p c h : Nat) : State :=
  let s1 := if (cached s p h).isSome then s else cacheHandle s p c h
  if (cached s1 p h).isSome then modCached s1 p h fun e => { e with poison := true, pinned := true }
  else modCtx s1 c fun x => { x with handles := nmod {} x.handles h fun v => { v with poison := true } }
/-- Start a fetch of a handle over the Bridleway unless one is under way (R93). -/
def startFetch (s : State) (p c h : Nat) : State :=
  if s.yard.any fun m => m.dst = .stall p && m.body = .handle h then s
  else sendBridle s .yardmaster (.stall p) c (.handle h)

/-! ### The head instruction -/

/-- The code range of a context in a stall's code store: first index and length (R132). -/
def codeRange (x : Stall) (c : Nat) : Nat × Nat := nget (0, 0) x.ranges c
/-- A Team's head instruction; an index at or beyond the role's length reads as zero (R131). -/
def headWord (x : Stall) (c : Nat) (t : Team) : W128 :=
  let r := codeRange x c
  if t.pc.toNat < r.2 then nget 0 x.code (r.1 + t.pc.toNat) else 0

/-! ### What an instruction names and touches -/

/-- The handles that an instruction names, NONE and TILEQ left out. -/
def handlesOf (w : W128) : List Nat :=
  let l : List Nat := match opInfo (opcodeOf w) with
    | none => []
    | some o => match o.fmt with
      | .s => if opcodeOf w = 0xC8 then [wf_ w 19 8] else []
      | f => (operandsOf f w).map Prod.fst
  l.filter fun h => h ≠ hNone && h ≠ hTileq

/-- Operand A and B of the action and its destination (R51, R57, R121): format C has F and N. -/
def actionOps (w : W128) : Nat × Nat × Nat :=
  match opInfo (opcodeOf w) with
  | some { fmt := .e3, .. } => (hA w, hB w, hD w)
  | some { fmt := .c, .. } => if opcodeOf w = 0x70 then (hA w, hA w, hD w) else (hD w, hD w, hA w)
  | _ => (hA w, hA w, hD w)

/-- The prime indices of the limb slots of a ciphertext or plaintext handle that an instruction touches. -/
structure Touch where
  h    : Nat
  idx  : List Nat
  dest : Bool
  deriving DecidableEq, Repr

/-- The prime indices of the slots in which the lines of a list lie, each once; lines outside the piece and slots without a
prime are left out (R113, R216). -/
def slotsAt (img : Image) (d : HDecl) (pc : Piece) (as : List Int) : List Nat :=
  as.foldl (fun acc a => match lineIndex img d pc a with
    | none => acc
    | some i => if acc.contains i then acc else i :: acc) []

/-- The destination of YD.PUT, YD.FLAG and their like: MOD 9:0. -/
def destLid (w : W128) : Nat := bitsOf (modE2 w) 9 0

/-- The rows and columns of a form (R138). -/
def formDims (f : Form) : Nat × Nat :=
  match f with
  | .tall => (32, 8)
  | .square => (16, 16)
  | .wide => (4, 64)

/-- Consecutive addresses. -/
def runFrom (a : Int) (n : Nat) : List Int := (List.range n).map fun k => a + (k : Int)

/-- Elements of a line of a drain's output type (R149). -/
def drainElems (otype : Nat) : Nat :=
  match otype with
  | 3 => 32
  | 4 => 64
  | 5 => 64
  | _ => 16

/-- The lines of D that a drain writes: vector v, line k of it, and its address (R148). -/
def drainLines (f : Form) (otype pitch : Nat) (off : Int) : List (Nat × Nat × Int) :=
  let (r, c) := formDims f
  let vecs := if f = .wide then r else c
  let len := if f = .wide then c else r
  (List.range vecs).flatMap fun v => (List.range (ceilDiv len (drainElems otype))).map fun k =>
    (v, k, off + ((v * pitch + k : Nat) : Int))

/-- Lines of one limb that a Transform Engine iteration covers: D's PITCH (R501). -/
def limbLines (d : HDecl) : Nat := d.pitch

/-- The lines of the table that a gather or scatter reaches: word index 16 a + x for each index word x that is not negative
(R229, R230). -/
def indexLines (a : Int) (idx : Line) : List Int :=
  (idx.filter fun w => decide (0 ≤ signedOf 32 w.toNat)).map fun w => (16 * a + signedOf 32 w.toNat) / 16

/-- The lines of the far or source operand that an iteration of a load, store or copy reads (R225): of F, N or A. -/
def sourceLines (img : Image) (dev lid : Nat) (e : Entry) (js : List Nat) : List Int :=
  let d2 := decl img (hD e.word)
  let d0 := decl img (hA e.word)
  if opcodeOf e.word = 0x71 then laySources d2 d0 (layUnit d2 d0 d0.lines) (addrD e js) (addrA e js)
  else laySources d0 d2 (layUnit d0 d2 (pieceOf img dev d2 lid).lines) (addrA e js) (addrD e js)

/-- What an engine instruction touches in ciphertext and plaintext handles, by prime index (R50, R113, R185). -/
def touches (s : State) (p c : Nat) (w : W128) (loops : List Loop) : List Touch :=
  let img := imageOf s c
  let dev := deviceId s
  let lid := lidOf s p
  let n := nestOf w
  let its := iterations loops n
  let e : Entry := { word := w, loops := loops }
  let op := opcodeOf w
  let lines (h l : Nat) (dest : Bool) (as : List Int) : List Touch :=
    match declOf img h with
    | none => []
    | some d => if 1 < d.kind then [] else [⟨h, slotsAt img d (pieceOf img dev d l) as, dest⟩]
  let at_ (h slot off : Nat) (l : Nat) (dest : Bool) (wid : Nat) : List Touch :=
    lines h l dest (its.flatMap fun js => runFrom (addrOf loops n slot off js) wid)
  if its = [] then [] else
  match op with
  | 0x11 | 0x12 =>
    let f := (stall s p).ma.form
    let (_, cols) := formDims f
    at_ (hA w) 0 (offA w) lid false (if f = .tall then 2 else 1) ++
    at_ (hB w) 1 (offB w) lid false (if f = .wide then 4 else 1) ++
    lines (hD w) lid false (its.flatMap fun js =>
      (List.range cols).map fun k => addrD e js + (k * (decl img (hD w)).pitch : Nat))
  | 0x13 => lines (hD w) lid true
      ((drainLines (stall s p).ma.form (bitsOf (modE2 w) 2 0) (decl img (hD w)).pitch (addrD e [])).map (·.2.2))
  | 0x30 | 0x31 | 0x32 | 0x33 | 0x34 =>
    let u := match declOf img (hD w) with
      | some d => limbLines d
      | none => 1
    at_ (hA w) 0 (offA w) lid false u ++ at_ (hD w) 2 (offD w) lid true u
  | 0x45 | 0x46 =>
    at_ (hA w) 0 (offA w) lid false 1 ++ at_ (hD w) 2 (offD w) lid true 1 ++
    (match declOf img (hB w) with
    | none => []
    | some d =>
      -- the word index is the index that R50 checks, where its word lies inside the piece
      let pb := pieceOf img dev d lid
      [⟨hB w, ((its.map fun js => addrB e js).filter fun a => inPiece pb (a / 16)).foldl
        (fun acc a => if acc.contains a.toNat then acc else a.toNat :: acc) [], false⟩])
  | 0x70 => lines (hA w) lid false (its.flatMap (sourceLines img dev lid e)) ++ at_ (hD w) 2 (offD w) lid true 1
  | 0x71 => lines (hD w) lid false (its.flatMap (sourceLines img dev lid e)) ++ at_ (hA w) 0 (offF w) lid true 1
  | 0x72 => lines (hA w) (destLid w) false (its.flatMap (sourceLines img dev lid e)) ++ at_ (hD w) 2 (offD w) lid true 1
  | 0x77 => at_ (hA w) 0 (offF w) lid true 1 ++ at_ (hD w) 2 (offD w) lid false 1
  | 0x73 | 0x74 | 0x75 =>
    let gather := op = 0x73
    let (th, tslot, toff) := if gather then (hA w, 0, offA w) else (hD w, 2, offD w)
    (match declOf img (hB w) with
    | some db => lines th lid (!gather) (its.flatMap fun js => indexLines (addrOf loops n tslot toff js)
        (readPiece s p c db (pieceOf img dev db lid) (addrB e js)))
    | _ => []) ++
    (if gather then at_ (hD w) 2 (offD w) lid true 1 else at_ (hA w) 0 (offA w) lid false 1)
  | 0x90 =>
    at_ (hA w) 0 (offA w) lid false 1 ++
    (if destLid w = 0x3FF then
      match declOf img (hD w) with
      | none => []
      | some d => if 1 < d.kind then [] else
        let u := d.pitch * 2 ^ (match d.owners with
          | o :: _ => o.log2Parts
          | [] => 0)
        [⟨hD w, (its.map fun js => addrD e js).foldl (fun (acc : List Nat) (g : Int) =>
          if g < 0 || u = 0 then acc else
          match slotIndex img d (g.toNat / u) with
          | none => acc
          | some i => if acc.contains i then acc else i :: acc) [], true⟩]
    else at_ (hD w) 2 (offD w) (destLid w) true 1)
  | 0x91 =>
    let ms := match img.mcast.find? fun m => m.index = bitsOf (modE2 w) 7 0 with
      | some m => m.members
      | none => []
    at_ (hA w) 0 (offA w) lid false 1 ++ ms.flatMap fun l => at_ (hD w) 2 (offD w) l true 1
  | 0x92 | 0x93 | 0x94 | 0x95 | 0xA0 | 0xA1 | 0x10 => []
  | 0x42 | 0x47 | 0x48 | 0x4A | 0x58 | 0x59 =>
    at_ (hA w) 0 (offA w) lid false 1 ++ at_ (hD w) 2 (offD w) lid true 1
  | 0x76 => at_ (hD w) 2 (offD w) lid true 1
  | _ => at_ (hA w) 0 (offA w) lid false 1 ++ at_ (hB w) 1 (offB w) lid false 1 ++ at_ (hD w) 2 (offD w) lid true 1

/-! ### Records under the actions (R50 to R57) -/

/-- LQ[q] (R51): floor(256 log2 q + 1/2). -/
def lqOf (q : Nat) : Nat := Nat.log2 (2 * q ^ 512) / 2
/-- LOGQ[l] (R52): floor(256 log2 (q0 ... ql)). -/
def logqOf (ch : Chain) (l : Nat) : Nat := Nat.log2 (((ch.primes.take (l + 1)).foldl (· * ·) 1) ^ 256)

/-- The HBM page whose metadata slot serves the block of a piece's line (R303, R304). -/
def blockPage (d : HDecl) (base l : Nat) : Nat :=
  let b := l / 64
  if d.layout = 4 then (base + 64 * 64 * b) / 4096 else (base + 72 * 64 * b) / 4096

/-- The slot of a metadata page. -/
def slotAt (s : State) (page : Nat) : Slot := nget { tally := tallyOf (List.replicate 64 zeroLine) } s.hbm.slots page

/-- The current place of a block of a durable handle (R404, R406). -/
def placeBytes (d : HDecl) : Nat :=
  if d.layout = 4 then roundUp (4096 * ceilDiv (64 * d.lines) 4096 + 8 * d.lines) 4096 else roundUp (72 * d.lines) 4096

/-- The current-map bit of a block of a durable handle, in HBM behind its two places (R404). -/
def mapBit (s : State) (d : HDecl) (b : Nat) : Bool :=
  bitOf (nget 0 s.hbm.mem (d.base + 2 * placeBytes d + b / 8)).toNat (b % 8)

/-- The base of the place that holds the current version of a block. -/
def currentBase (s : State) (d : HDecl) (b : Nat) : Nat :=
  if isDurable d && mapBit s d b then d.base + placeBytes d else d.base

/-- Operand A's record: for a load from HBM under COPY or DROP the record of the blocks it loads, none when they differ
(R57); else the stall's local record. A load all of whose lines lie outside F's piece loads no block: the local record of F
stands for it (DESIGN CHOICE, log 93). -/
def recordA (s : State) (p c : Nat) (w : W128) (loops : List Loop) : Option W128 :=
  let img := imageOf s c
  if opcodeOf w = 0x70 && (mactOf w = 1 || mactOf w = 5) then
    match declOf img (hA w) with
    | some d =>
      if d.place = 2 then
        let e : Entry := { word := w, loops := loops }
        let adr : List Int := (entryIts e).flatMap (sourceLines img (deviceId s) (lidOf s p) e)
        let ok := adr.filter fun a => decide (0 ≤ a) && decide (a < (d.lines : Int))
        let bs := ok.foldl (fun acc a => let b := a.toNat / 64; if acc.contains b then acc else acc ++ [b]) []
        match bs.map fun b => (slotAt s (blockPage d (currentBase s d b) (64 * b))).record with
        | [] => some (localRec s p (hA w))
        | r :: rs => if rs.all (· = r) then some r else none
      else some (localRec s p (hA w))
    | none => some 0
  else if opcodeOf w = 0x72 && mactOf w = 1 then
    match posOfLid s (destLid w) with
    | some q => some (match cached s q (hA w) with
      | some e => e.record
      | none => (nget {} (ctx s c).handles (hA w)).record)
    | none => some (localRec s p (hA w))
  else some (localRec s p (actionOps w).1)

/-- Whether a handle of an image carries a record, or is the far operand of a load whose record R57 supplies. -/
def carriesRecord (img : Image) (w : W128) (h : Nat) : Bool :=
  match declOf img h with
  | some d => hasRecord d || (opcodeOf w = 0x70 && h = hA w && d.place = 2)
  | none => false

/-- The record that the action gives the destination (R51); `cur` is the context's current epoch. -/
def produce (img : Image) (w : W128) (ra rb rd : W128) (cur : Nat) : W128 :=
  let (a, b, _) := actionOps w
  let ha := carriesRecord img w a
  let hb := carriesRecord img w b
  let x := if ha then ra else if hb then rb else rd
  let y := if hb then rb else x
  let tag := match declOf img a with
    | some d => if d.kind = 0 || !hb then recTag x else recTag y
    | none => recTag y
  let ch := (chainOf img (recChain x)).getD {}
  let prov2 := recProv x || recProv y
  match mactOf w with
  | 1 => mkRecord (recScale ra) (recProv ra) (recChain rd) (recLevel ra) (recEpoch ra) (recTag ra)
  | 2 => mkRecord (recScale x) prov2 (recChain rd) (recLevel x) cur tag
  | 3 =>
    let sc := (if ha then recScale ra else 0) + (if hb then recScale rb else 0)
    mkRecord (if ch.bgv then 0 else sc) prov2 (recChain rd) (recLevel x) cur tag
  | 4 =>
    let cha := (chainOf img (recChain ra)).getD {}
    mkRecord (if cha.bgv then 0 else recScale ra - lqOf (chainPrime cha (recLevel ra))) (recProv ra) (recChain rd)
      (recLevel ra - 1) cur (recTag ra)
  | 5 => mkRecord (recScale ra) (recProv ra) (recChain rd) (recLevel ra - lvlOf w) cur (recTag ra)
  | 6 => mkRecord (recScale ra) (recProv ra) (recChain rd) (lvlOf w) cur (recTag ra)
  | _ => rd

/-- The context's current epoch (R400); the last one opened where none is open (DEDUCED, log 8). -/
def currentEpoch (s : State) (c : Nat) : Nat := (recOf s c).opened.getD (recOf s c).count

/-- Whether a touched slot lies above the level that it is checked against: the level that the action produces for a slot of the
destination (`out`, none where it is unknown), else the stall's local LEVEL (R50). -/
def slotsHigh (s : State) (p : Nat) (act : Nat) (out : Option Nat) (ts : List Touch) : Bool :=
  ts.any fun t => match (if t.dest && act ≠ 0 then out else some (recLevel (localRec s p t.h))) with
    | none => false
    | some lim => t.idx.any fun i => decide (lim < i)

/-- The metadata checks of R50 to R53 in order; 0 for none failed, else the fault code. Where the blocks of a load differ, the
level that its action produces is unknown, and R50 stands for its source slots only (DEDUCED, log 94). -/
def metaCheck (s : State) (p c : Nat) (w : W128) (loops : List Loop) : Nat :=
  let img := imageOf s c
  let fmt := (opInfo (opcodeOf w)).map (·.fmt) |>.getD .s
  let act := if clearMode img fmt w then 0 else mactOf w
  let (a, b, d) := actionOps w
  match recordA s p c w loops with
  | none => if slotsHigh s p act none (touches s p c w loops) then 0x0201 else 0x0204
  | some ra =>
    let rb := localRec s p b
    let rd := localRec s p d
    let out := produce img w ra rb rd (currentEpoch s c)
    let high : Bool := slotsHigh s p act (some (recLevel out)) (touches s p c w loops)
    let ha := carriesRecord img w a
    let hb := carriesRecord img w b && fmt = .e3
    let lvl := if ha then recLevel ra else if hb then recLevel rb else recLevel rd
    let under : Bool := match act with
      | 4 => decide (recLevel ra < 1)
      | 5 => decide (recLevel ra < lvlOf w)
      | 3 => decide (lvl < 1)
      | _ => false
    let scale : Bool := match act with
      | 3 =>
        let ch := (chainOf img (recChain (if ha then ra else if hb then rb else rd))).getD {}
        let sc := (if ha then recScale ra else 0) + (if hb then recScale rb else if fmt = .e3 then 0 else recScale ra)
        !ch.bgv && decide ((logqOf ch lvl : Int) - 256 * ch.headroom < sc)
      | _ => false
    -- a RESCALE or DROP whose level condition fails has no produced level: R53 gives its fault the fifth place
    if high && !(act = 4 && under) && !(act = 5 && under) then 0x0201
    else if (act = 2 || act = 3) && ha && hb && recChain ra ≠ recChain rb then 0x0203
    else if (act = 2 || act = 3) && ha && hb && recLevel ra ≠ recLevel rb then 0x0204
    else if act = 6 && recLevel ra ≠ 0 then 0x0204
    else if under then 0x0201
    else if scale then 0x0202
    else 0

/-! ### Poison (R397) -/

/-- Whether an instruction consumes a poisoned source: every engine instruction but the moving ones (R397). -/
def consumes (op : Nat) : Bool :=
  !(op = 0x70 || op = 0x71 || op = 0x72 || op = 0x77 || op = 0x90 || op = 0x91 || op = 0xA0 || op = 0xA1)

/-- The source handles of an engine instruction, D among them where it is read. -/
def sourcesOf (w : W128) : List Nat :=
  let op := opcodeOf w
  let l := match opInfo op with
    | some { fmt := .e3, .. } =>
      if op = 0x44 || op = 0x52 || op = 0x75 then [hA w, hB w, hD w]
      else if op = 0xA0 || op = 0xA1 then [hA w] else [hA w, hB w]
    | some { fmt := .c, .. } => if op = 0x70 then [hA w] else [hD w]
    | some { fmt := .e2, .. } => [hA w]
    | _ => []
  l.filter fun h => h ≠ hNone && h ≠ hTileq

/-- A poisoned source in the issuing stall. -/
def poisonedSource (s : State) (p : Nat) (w : W128) : Bool :=
  (sourcesOf w).any fun h => match cached s p h with
    | some e => e.poison
    | none => false

/-! ### The verdict on a head instruction -/

/-- What the Scalar Sequencer finds of a Team: it has nothing to issue, its head faults (code, handle of
STALL_FAULT), it is blocked for a cause, or it can issue its head. -/
inductive Verdict where
  | none
  | fault (code : Nat) (handle : Nat)
  | block (cause : Nat)
  | fetch (h : Nat)
  | go
  deriving DecidableEq, Repr

/-- STALL_FAULT.HANDLE and the poisoned destination of a kind of instruction (R503): 0xFFF for nothing. -/
def destHandle (w : W128) : Nat :=
  let op := opcodeOf w
  if op = 0x11 || op = 0x12 || op = 0x10 then hNone
  else if op = 0x71 || op = 0x77 then hA w
  else if op = 0xA0 || op = 0xA1 then hNone
  else if 0x92 ≤ op && op ≤ 0x95 then hNone
  else match opInfo op with
    | some { fmt := .s, .. } => hNone
    | none => hNone
    | _ => hD w

/-- A wait flag holds its required value (R76). -/
def waitsHold (x : StallCtx) (w : W128) : Bool :=
  (wf_ w 15 15 = 0 || flagOf x (BitVec.ofNat 8 (wf_ w 24 17)) == (wf_ w 16 16 = 1)) &&
  (wf_ w 25 25 = 0 || flagOf x (BitVec.ofNat 8 (wf_ w 34 27)) == (wf_ w 26 26 = 1))

/-- Lines that an Element Engine instruction reads from TILEQ, in tiles of 16 (R152, R189). -/
def tileDemand (img : Image) (w : W128) (loops : List Loop) : Nat :=
  if hA w ≠ hTileq && (hB w ≠ hTileq || (opInfo (opcodeOf w)).map (·.fmt) ≠ some .e3) then 0 else
  let k := (iterations loops (nestOf w)).length
  let per := if opcodeOf w = 0x58 then
    match declOf img (hD w) with
    | some d => (if d.etype = 3 || d.etype = 4 then 64 else if d.etype = 5 then 32 else 16) / 16
    | none => 1
    else 1
  k * per / 16

/-- The demands of the Element Engine instructions that have issued and not started, in tiles; started ones have taken theirs. -/
def openDemand (img : Image) (x : Stall) : Nat :=
  ((liveEntries x).filter fun e => e.2.engine = .ee && !e.2.started).foldl
    (fun a e => a + tileDemand img e.2.word e.2.loops) 0

/-- The drains into the tile queue that have issued and whose tile is not in the queue yet. -/
def openDrains (x : Stall) : Nat :=
  ((liveEntries x).filter fun e => opcodeOf e.2.word = 0x13 && hD e.2.word = hTileq && !e.2.started).length

/-- The output reservation of a drain to the tile queue: the tiles held and being drained (R153). -/
def tileRoom (img : Image) (x : Stall) : Bool :=
  decide (x.tiles.length + openDrains x < 8) && decide (x.tiles.length + openDrains x < openDemand img x)

/-- The members of a multicast set (R279). -/
def setMembers (img : Image) (i : Nat) : List Nat := match img.mcast.find? fun m => m.index = i with
  | some m => m.members
  | none => []

/-- Bits of a word of an entry. -/
def drvField (l : Line) (w hi lo : Nat) : Nat := bitsOf (wordAt l w).toNat hi lo

/-- The logical IDs to which an entry delivers (R248). -/
def drvDests (img : Image) (l : Line) : List Nat :=
  if drvField l 4 35 35 = 1 then setMembers img (drvField l 4 9 0) else [drvField l 4 9 0]

/-- The compute die of a position (R16). -/
def dieOf (p : Nat) : Nat := p % 32 / 16

/-- Entries of the stall at p that Drover d has accepted and buffers or serves. -/
def drvHeld (s : State) (d p : Nat) : Nat :=
  let mine (ms : List DrvEntry) : Nat := (ms.filter fun e => e.pos = p).length
  ((drover s d).gangs.foldl (fun a g => a + (g.2.map fun x => mine x.members).getD 0) 0) +
    ((drover s d).expands.foldl (fun a x => a + (x.2.map fun y => mine y.members).getD 0) 0)

/-- Entries of the stall at p on their way to Drover d. -/
def drvSent (s : State) (d p : Nat) : Nat := (s.yard.filter fun m => m.src = .stall p && m.dst = .drover d).length

/-- The Drovers that an instruction's first entry goes to: the dies of the destinations of the first that is not NULL. -/
def drvFirst (s : State) (p c : Nat) (w : W128) (loops : List Loop) : List Nat :=
  let img := imageOf s c
  let db := decl img (hB w)
  let pb := pieceOf img (deviceId s) db (lidOf s p)
  let entries : List Line := (iterations loops (nestOf w)).map fun js => readPiece s p c db pb (addrOf loops (nestOf w) 1 (offB w) js)
  match entries.find? fun l => !(l.all (· = 0)) with
  | none => []
  | some l => ((drvDests img l).filterMap (posOfLid s)).map dieOf

/-- The output reservation of a DRV instruction: a place at every Drover that its first entry goes to; each Drover has 4 for
a stall (R77, R251, R266). The buffers of R266 are free at once, since a send starts when it issues (DESIGN CHOICE, log 5). -/
def drvPlaces (s : State) (p c : Nat) (w : W128) (loops : List Loop) : Bool :=
  (drvFirst s p c w loops).all fun d => decide (drvSent s d p + drvHeld s d p < 4)

/-- The verdict on a Team's head instruction (R76 to R81). -/
def verdict (s : State) (p : Nat) (t : Fin 4) : Verdict :=
  let x := stall s p
  let c := runningNo s
  let tm := getTeam x.live t
  if c = 64 || (position s p).st ≠ .enabled || x.pwr ≠ .run || x.aborting ||
     x.live.t0.st = .halted || x.live.t1.st = .halted || x.live.t2.st = .halted || x.live.t3.st = .halted ||
     (tm.st ≠ .ready && tm.st ≠ .blocked) || tm.yield ≠ 0 then .none else
  let w := headWord x c tm
  let img := imageOf s c
  if !legalWord img w then .fault 0x0103 (destHandle w) else
  let hs := handlesOf w
  match hs.find? fun h => (cached s p h).isNone with
  | some h => .fetch h
  | none =>
  if hs.any (fun h => match cached s p h with
    | some e => !e.valid
    | none => true) || opcodeOf w = 0xC9 && (match cached s p (wf_ w 19 8) with
    | some e => !e.valid
    | none => false) then .fault 0x0104 (destHandle w) else
  match opInfo (opcodeOf w) with
  | none => .fault 0x0103 hNone
  | some o =>
    if o.fmt = .s then
      match opcodeOf w with
      | 0xC1 =>
        let k := wf_ w 9 8 * 64 + wf_ w 15 10
        let b := nget {} x.live.bars k
        let sense := match wf_ w 9 8 with
          | 0 => match img.mcast.find? fun m => m.index = wf_ w 15 10 with
            | some m => flagOf x.live (BitVec.ofNat 8 m.sense)
            | none => b.lsense
          | 1 => s.ym.devPhase.getLsbD (wf_ w 15 10)
          | _ => b.rphase
        if sense = b.lsense then .go else .block 6
      | 0xC8 =>
        if (liveEntries x).any fun e => mOf e.2.word && (actionOps e.2.word).2.2 = wf_ w 19 8 then .block 7 else .go
      | _ => .go
    else
    let loops := capture tm
    if !waitsHold x.live w then .block 1
    else if (freeEntry x).isNone then .block 2
    else if queuePlaces o.eng ≤ engineCount x o.eng then .block 3
    else if opcodeOf w = 0x13 && hD w = hTileq && !tileRoom img x then .block 4
    else if o.eng = .drv && !drvPlaces s p c w loops then .block 4
    else if consumes (opcodeOf w) && poisonedSource s p w then .fault 0x0803 (destHandle w)
    else match metaCheck s p c w loops with
      | 0 => .go
      | code => .fault code (destHandle w)

/-- The verdict of a stall that would leave GATED for it: GATED stops the clocks of a stall that has nothing to issue, and its
Teams go on waiting (R95). -/
def verdictOn (s : State) (p : Nat) (t : Fin 4) : Verdict :=
  verdict (if (stall s p).pwr = .gated then modStall s p fun x => { x with pwr := .run } else s) p t

/-- A verdict under which the Team's head issues or faults now: the Team is READY (R71). -/
def canAct (v : Verdict) : Bool := match v with
  | .go => true
  | .fault _ _ => true
  | _ => false

/-- A Team that a taken branch or loop-back may still keep from its turn: other Teams may go first, for at most 2 of their
issues and 3 ns (R75; DESIGN CHOICE, log 95). -/
def onHold (s : State) (m : Team) : Bool := m.hold ≠ 0 && decide (now s < m.holdTill.toNat)

/-- The Team order of a cycle, beginning after the Team that issued most recently (R73). -/
def teamOrder (last : Fin 4) : List (Fin 4) := [last + 1, last + 2, last + 3, last]

/-- Whether a Team of the order before t issues or faults instead (R73). -/
def anotherFirst (s : State) (p : Nat) (t : Fin 4) : Bool :=
  ((teamOrder (stall s p).lastTeam).takeWhile (· ≠ t)).any fun u => !onHold s (getTeam (stall s p).live u) && canAct (verdict s p u)

/-! ### Outcomes -/

/-- The active bank of the Matrix Array. -/
def activeBank (m : MArray) : Bank := if m.active then m.b1 else m.b0
/-- Replace the active bank. -/
def setActive (m : MArray) (b : Bank) : MArray := if m.active then { m with b1 := b } else { m with b0 := b }

/-- Poison the destination of an instruction in the issuing stall (R54, R61, R503). -/
def poisonDest (s : State) (p c : Nat) (w : W128) : State :=
  let op := opcodeOf w
  if op = 0x11 || op = 0x12 then
    modStall s p fun x => { x with ma := setActive x.ma { activeBank x.ma with poison := true } }
  else
    let h := destHandle w
    if h = hNone || h = hTileq then s else poisonLocal s p c h

/-- STALL_FAULT.ACTION: the metadata action of an instruction (R51); none for a scalar or a clear-mode one (R108). -/
def faultAction (img : Image) (w : W128) : Nat :=
  match opInfo (opcodeOf w) with
  | none => 0
  | some o => if o.fmt = .s || clearMode img o.fmt w then 0 else mactOf w

/-- The first halting fault of a START is the one that it completes with (R380). -/
def noteHalt (s : State) (p c : Nat) (t : Fin 4) (code : Nat) : State :=
  modCtx s c fun x => { x with cur := x.cur.map fun e =>
    if e.fault.isSome then e else { e with fault := some (code, lidOf s p, t.val) } }

/-- A Team faults (R54, R86, R87): its destination is poisoned, it halts, the fault is recorded and reported; consumed
poison is a recovery trigger (R407). -/
def teamFault (s : State) (p c : Nat) (t : Fin 4) (w : W128) (code handle : Nat) : State :=
  let tm := getTeam (stall s p).live t
  let s1 := if opInfo (opcodeOf w) = none then s else poisonDest s p c w
  let s2 := modTeam s1 p t fun m => { m with st := .halted, cause := 0 }
  let s3 := stallFault (noteHalt s2 p c t code) p c t tm.pc.toNat handle (faultAction (imageOf s c) w) code
  let s3 := explain s3 (if code = 0x0204 && (recordA s p c w (capture tm)).isNone then 1 else 0)
    ((handlesOf w).map fun h => (h, localRec s p h))
  let s3 := if code = 0x0803 then trigger s3 c 0 else s3
  modStall s3 p fun x => { x with lastTeam := t }

/-- A Team is blocked for a cause; its wait timer starts when it enters causes 1 and 6 from another (R290). -/
def teamBlock (s : State) (p : Nat) (t : Fin 4) (cause : Nat) : State :=
  modTeam s p t fun m =>
    if m.st = .blocked && m.cause.toNat = cause then m
    else { m with st := .blocked, cause := BitVec.ofNat 5 cause, waitFrom := s.ledger }

/-- Another Team's TEAM.YIELD no longer waits for Team t (R75). -/
def yieldDone (x : StallCtx) (t : Fin 4) : StallCtx :=
  mapTeams x fun m => { m with yield := m.yield &&& ~~~(1#4 <<< t.val) }

/-- What the issue of Team t is to every Team: no TEAM.YIELD waits for it any more, and a cycle has passed for the Teams that a
branch keeps from their turn (R75). -/
def turnPassed (x : StallCtx) (t : Fin 4) : StallCtx :=
  mapTeams (yieldDone x t) fun m => { m with hold := if m.hold = 0 then 0 else m.hold - 1 }

/-- A Team after a taken branch or loop-back: ineligible for the next 2 stall cy of 1.25 ns (R75). -/
def heldBack (at_ : W64) (m : Team) : Team := { m with hold := 2, holdTill := at_ + 3 }

/-- After an instruction of a Team has issued (R116): past the end of a control loop's body the Team loops back or
leaves the loop; otherwise it goes on. -/
def advance (at_ : W64) (tm : Team) : Team :=
  let hit := [0, 1, 2, 3].find? fun l => (getLoop tm l).active && (getLoop tm l).last = tm.pc
  match hit with
  | none => { tm with pc := tm.pc + 1 }
  | some l =>
    let lp := getLoop tm l
    if lp.rem = 0 then { setLoop tm l { lp with active := false, iter := 0 } with pc := tm.pc + 1 }
    else heldBack at_ { setLoop tm l { lp with iter := lp.iter + 1, rem := lp.rem - 1 } with pc := lp.back }

/-- The first issue of an accepted START: the time since its acceptance, and for PRIORITY 3 the largest such time and the
count above 200 us (R383). -/
def noteFirst (s : State) (c : Nat) : State :=
  match (ctx s c).cur with
  | none => s
  | some x =>
    if x.first.isSome || !x.teams then s else
    let d := now s - x.at_.toNat
    let s1 := modCtx s c fun y => { y with cur := some { x with first := some d } }
    if (ctx s c).prio = 3 then
      { s1 with ym := { s1.ym with preMax := BitVec.ofNat 32 (max s1.ym.preMax.toNat (min d (2 ^ 32 - 1))),
                                   preOver := if 200000 < d && s1.ym.preOver ≠ 0xFFFFFFFF then s1.ym.preOver + 1 else s1.ym.preOver } }
    else s1

/-- A Team has issued its head: it goes on, is READY, and is the last to have issued (R73). -/
def issued (s : State) (p : Nat) (t : Fin 4) : State :=
  modStall s p fun x =>
    let x1 := turnPassed x.live t
    { x with lastTeam := t,
             live := setTeam x1 t (advance s.ledger { getTeam x1 t with st := .ready, cause := 0, hold := 0 }) }

/-- A Team whose head is an instruction of opcode `op` is considered (R72 to R81): where its turn has come and every
condition holds, `go` gives the effect (with the word and the context); a failed check faults the Team; an unmet
condition blocks it; where it is not its turn nothing happens. -/
def issueCore (s : State) (p : Nat) (t : Fin 4) (op : Nat) (go : State → W128 → Nat → State) : State :=
  let x := stall s p
  let c := runningNo s
  let tm := getTeam x.live t
  let w := headWord x c tm
  if opcodeOf w ≠ op && !(op = 0xFE && (opInfo (opcodeOf w)).isNone) then s else
  if anotherFirst s p t then s else
  match verdict s p t with
  | .none => s
  | .fault code h => teamFault s p c t w code h
  | .block cause => modLive (teamBlock s p t cause) p fun y => yieldDone y t
  | .fetch h => startFetch (modLive (teamBlock s p t 5) p fun y => yieldDone y t) p c h
  | .go => go (noteFirst s c) w c

/-- As `issueCore`, with the Team going on to its next instruction after the effect. -/
def issueOp (s : State) (p : Nat) (t : Fin 4) (op : Nat) (run : State → W128 → Nat → State) : State :=
  issueCore s p t op fun s w c => issued (run s w c) p t

end Sys2Proof.Machine
end

