-- ==== Sys2Proof/Machine/Epoch.lean ====
section
/-!
DEFINITION. Opening an epoch and its checkpoint (R400, R401, R403), and when a fence is due (R30, R418).
-/

namespace Sys2Proof.Machine

/-- What every logical ID holds of a context: in the stalls while it runs, else in the save area (R91). -/
def contextSave (s : State) (c : Nat) : NMap StallCtx :=
  if runningNo s = c then
    s.positions.foldl (fun m e =>
      if e.2.st = .enabled then nset {} m e.2.lid (stall s e.1).live else m) []
  else (ctx s c).save

/-- The wire senses of the device barriers of a context: of the wires while it runs, else saved (R288). -/
def contextWires (s : State) (c : Nat) : BitVec 4 := if runningNo s = c then s.ym.devPhase else (ctx s c).wires

/-- The checkpoint of R403. -/
def checkpoint (s : State) (c epoch reruns : Nat) : Chk :=
  { epoch := epoch, reruns := reruns, save := contextSave s c, handles := (ctx s c).handles, wires := contextWires s c }

/-- Open the next epoch of a context unless one is open, taking its checkpoint; `reruns` is the count of R410. -/
def openEpoch (s : State) (c reruns : Nat) : State :=
  let r := recOf s c
  if r.opened.isSome then s else
  let n := r.count + 1
  let k := checkpoint s c n reruns
  let s1 := modRec s c fun r => { r with
    count := n, opened := some n, openAt := s.ledger, lastStep := false, reruns := reruns, chks := r.chks ++ [k] }
  dbEpoch s1 c n 0 0

/-- The first engine instruction or passed fence of a step opens the epoch that its step belongs to (R401; DEDUCED, log 8). -/
def ensureEpoch (s : State) (c : Nat) : State := if c < 64 then openEpoch s c 0 else s

/-- Replay of a context is on (R418). -/
def replaying (s : State) (c : Nat) : Bool := csrBit s 0x0D00010 63 && csrField s 0x0D00010 60 55 = c

/-- The Ledger time at which a fence of a context is due: its target, moved in a replay by the offset between the
replay's start and the recorded start (R30, R418). -/
def fenceDue (s : State) (c target : Nat) : Nat := if replaying s c then (target + s.db.base.toNat) % 2 ^ 64 else target

/-- Count a late fence (R30). -/
def lateFence (s : State) (p : Nat) : State := bump s (stallCsr p 0x200) (stallCsr p 0x008) 2

end Sys2Proof.Machine
end

