-- ==== Sys2Proof/Machine/EngineOps.lean ====
section
/-!
DEFINITION. What every engine instruction shares once it issues: its in-flight entry (R80, R113), pinning (R59), the
parity check of the lines it reads (R232, R233), the local record at completion (R55), and modular arithmetic (R43).
-/

namespace Sys2Proof.Machine

/-- Take an in-flight entry for an instruction that issues: its loops are captured, the record that M = 1 will give
its destination is computed from the records at issue (R56), and the destination is pinned (R59, R93). A send or a far access
starts at once; the effect of the other instructions is made when they complete (DESIGN CHOICE, log 5). -/
def takeEntry (s : State) (p : Nat) (t : Fin 4) (w : W128) (c : Nat) (eng : Engine) (start : Bool) : State × Nat :=
  let s := ensureEpoch s c
  let x := stall s p
  let n := (freeEntry x).getD 0
  let tm := getTeam x.live t
  let loops := capture tm
  let img := imageOf s c
  let clear := clearMode img ((opInfo (opcodeOf w)).map (·.fmt) |>.getD .s) w
  let (_, b, d) := actionOps w
  let rec_ := if mOf w && !clear && iterations loops (nestOf w) ≠ [] then
      some (produce img w ((recordA s p c w loops).getD 0) (localRec s p b) (localRec s p d) (currentEpoch s c))
    else none
  let e : Entry := { engine := eng, seq := s.msgSeq, ctx := c, team := t, pc := tm.pc, word := w, loops := loops,
                     started := start, outRec := rec_ }
  let s1 := modStall { s with msgSeq := s.msgSeq + 1 } p fun y =>
    { y with entries := nset none y.entries n (some e), useNext := y.useNext + 1,
             hcache := (handlesOf w).foldl (fun hc h => nmod none hc h (Option.map fun v => { v with use := y.useNext })) y.hcache }
  let pin := rec_.isSome && opcodeOf w ≠ 0x90 && opcodeOf w ≠ 0x91
  (if pin then modCached s1 p d fun v => { v with pinned := true } else s1, n)

/-! ### Parity (R233) -/

/-- A parity failure of a line is recorded, counted and reported; a line of the running context, or one that an engine
read, makes recovery run the step again, and a line of another context is that context's trigger. -/
def parityFailed (s : State) (p line words : Nat) (background : Bool) : State :=
  let l := loftLine s p line
  let v := (if background then 2 ^ 61 else 0) + l.tag.toNat * 2 ^ 52 + words * 2 ^ 32 + p * 2 ^ 16 + line
  let s1 := bump (recordFirst s 0x4300 v) 0x4308 0x4310 0
  let s2 := reportFault s1 p 0x0301 (lidOf s p + 4096 * p) l.tag.toNat (lidOf s p) 0 0xFFF
  trigger (modRec s2 l.tag.toNat fun r => { r with failing := (p, line) :: r.failing.filter (· ≠ (p, line)) }) l.tag.toNat 0

/-- The check of every read of a valid line of the running context (R232). -/
def parityRead (s : State) (p c line : Nat) : State :=
  let l := loftLine s p line
  if l.valid && l.tag.toNat = c then
    match parityFailures l.words l.par with
    | 0 => s
    | k => parityFailed s p line k false
  else s

/-- The checks of the reads of an instruction, through a piece. -/
def parityPiece (s : State) (p c : Nat) (pc : Piece) (as_ : List Int) : State :=
  as_.foldl (fun s a => if inPiece pc a then parityRead s p c (pc.base + a.toNat) else s) s

/-! ### Completion -/

/-- EPOCH_TAG is the epoch at completion under every action but NONE and COPY (R51). -/
def stampEpoch (s : State) (c : Nat) (w : W128) (r : W128) : W128 :=
  if mactOf w = 0 || mactOf w = 1 then r
  else mkRecord (recScale r) (recProv r) (recChain r) (recLevel r) (currentEpoch s c) (recTag r)

/-- The destination's local record at completion (R55, R356), and its poison (R397, R503). -/
def settleDest (s : State) (p c : Nat) (e : Entry) : State :=
  let h := (actionOps e.word).2.2
  let s1 := match e.outRec with
    | some r => modCached s p h fun v => { v with record := stampEpoch s c e.word r, pinned := true }
    | none => s
  let s2 := if e.prov then modCached s1 p h fun v =>
      { v with record := v.record ||| BitVec.ofNat 128 (2 ^ 107), pinned := true } else s1
  if e.poison then poisonDest s2 p c e.word else s2

/-- An entry issues whose effect stays in its stall: the effect waits for its completion. -/
def localIssue (eng : Engine) (p : Nat) (t : Fin 4) (s : State) (w : W128) (c : Nat) : State := (takeEntry s p t w c eng false).1

/-- Write a line of an entry's destination: what an arbitration of that line has decided stands in its place (R391). -/
def putEntryLine (s : State) (p : Nat) (e : Entry) (pc : Piece) (a : Int) (l : Line) : State :=
  match (if inPiece pc a then e.fixes.find? fun x => x.1 = pc.base + a.toNat else none) with
  | none => writePiece s p e.ctx pc a l 0xFFFF
  | some (_, some r) => writePiece s p e.ctx pc a r 0xFFFF
  | some (_, none) => s

/-- Replace the words of Loft lines that an instruction wrote by free values (DESIGN CHOICE, log 2). -/
def freeLines (s : State) (p c : Nat) (ls : List Nat) : State :=
  ls.foldl (fun s l => let (v, s1) := draw s; loftWrite s1 p l c (lineOfBytes (leBytes 72 v)) 0xFFFF) s

/-- Loft lines of the addresses that lie in a piece. -/
def loftLines (pc : Piece) (as_ : List Int) : List Nat := (as_.filter (inPiece pc)).map fun a => pc.base + a.toNat

/-- The first items of a list, as many as an abort leaves time for; all without one (R88, R166, R196). -/
def upTo {α : Type} (lim : Option Nat) (l : List α) : List α := match lim with
  | none => l
  | some k => l.take k

/-- Record the lines that an entry wrote. -/
def noteWrites (s : State) (p n : Nat) (pc : Piece) (as_ : List Int) : State :=
  modEntry s p n fun e => { e with wrote := e.wrote ++ loftLines pc as_ }

/-! ### Modular arithmetic -/

/-- x^e mod q. -/
def powMod (x e q : Nat) : Nat :=
  (Nat.toDigits 2 e).foldl (fun a d => if d = '1' then a * a % q * x % q else a * a % q) (1 % q)

/-- Inverse modulo a prime (R43). -/
def invMod (x q : Nat) : Nat := powMod x (q - 2) q

/-- (a - b) mod q for a, b below q. -/
def subMod (a b q : Nat) : Nat := (a + (q - b % q)) % q

/-- The centred value of a residue (R62, R63). -/
def centred (r q : Nat) : Int := if (q - 1) / 2 < r then (r : Int) - q else (r : Int)

/-- An integer modulo q, in 0 .. q - 1. -/
def imod (x : Int) (q : Nat) : Nat := (x % (q : Int)).toNat

end Sys2Proof.Machine
end

