-- ==== Sys2Proof/Machine/MatrixArray.lean ====
section
/-!
DEFINITION. The Matrix Array (05): MA.FORM, MA.MAC, MA.MACZ and MA.DRAIN, and what each does when it runs.
-/

namespace Sys2Proof.Machine

/-- An INT8 view line of an operand: for CLEAR_I4_PLANES the sign-extended INT4 elements of the group's four plane
lines (R145), for the rest the stored line. The view counts eight of its lines to every four plane lines from the start of
the piece, whatever PITCH is: the manual numbers no view lines of a PITCH that is not a multiple of 4 (DESIGN CHOICE, log 97). -/
def maLine (s : State) (p c : Nat) (d : HDecl) (pc : Piece) (a : Int) : Line :=
  if d.layout = 0xB then
    let g := a / 8
    let plane (b : Nat) : Line := readPiece s p c d pc (4 * g + b)
    let off := (a % 8).toNat * 64
    lineOfElems 3 ((List.range 64).map fun k =>
      let e := off + k
      let bit (b : Nat) : Nat := (wordAt (plane b) (e / 32)).toNat / 2 ^ (e % 32) % 2
      let v := bit 0 + 2 * bit 1 + 4 * bit 2 + 8 * bit 3
      if 8 ≤ v then v + 240 else v)
  else readPiece s p c d pc a

/-- The stored lines that a read of a line of an operand fetches: of a CLEAR_I4_PLANES operand the four planes (R68, R145). -/
def maFetch (d : HDecl) (a : Int) : List Int := if d.layout = 0xB then runFrom (4 * (a / 8)) 4 else [a]

/-- The lines of a vector of V words (R144). -/
def vecLines (v : Nat) : Nat := ceilDiv v 16

/-- A vector of V words from consecutive lines (R144). -/
def maVector (s : State) (p c : Nat) (d : HDecl) (pc : Piece) (a : Int) (v : Nat) : List W36 :=
  ((runFrom a (vecLines v)).flatMap fun k => maLine s p c d pc k).take v

/-- The mode of an MA.MAC (R140). -/
def maMode (da db : HDecl) : BankMode :=
  if !isClear da && !isClear db then .mod
  else if da.etype = 4 || da.etype = 5 then .fp
  else .int

/-- The column primes of an instruction (R141), 0 for a column without a prime. -/
def columnPrimes (img : Image) (d : HDecl) (pc : Piece) (a0 : Int) (cols : Nat) : List Nat :=
  (List.range cols).map fun k => linePrime img d pc (a0 + (k * d.pitch : Nat))

/-- One modular product accumulated, with the fold after every 128 products (R146). -/
def modStep (q folds acc a b : Nat) : Nat :=
  if q = 0 then acc else
  let x := acc + a * b
  if folds + 1 = 128 then x % 2 ^ 72 + x / 2 ^ 72 * (2 ^ 72 % q) else x

/-- One row of FP products of a cell: the products of each of the row's two cycles are added exactly, then to the FP32
accumulator with one rounding (R157). -/
def fpStep (et csel acc : Nat) (a b : W36) : Nat :=
  let f := elemFmt et csel
  let prod (e : Nat) : FV :=
    let k := elemBits et
    fmul (fdecode f (a.toNat / 2 ^ (k * e) % 2 ^ k)) (fdecode f (b.toNat / 2 ^ (k * e) % 2 ^ k))
  let cycle (acc : Nat) (v : FV) : Nat := fencode fp32 false (nanCode fp32 acc a.toNat b.toNat) (fadd (fdecode fp32 acc) v)
  if et = 4 then cycle (cycle acc (fadd (prod 0) (prod 1))) (fadd (prod 2) (prod 3))
  else cycle (cycle acc (prod 0)) (prod 1)

/-- One row of INT products of a cell: four exact products (R145, R156). -/
def intStep (csel acc : Nat) (a b : W36) : Nat :=
  let v := (List.range 4).foldl (fun (t : Int) e =>
    t + intVal 3 csel (a.toNat / 256 ^ e % 256) * intVal 3 csel (b.toNat / 256 ^ e % 256)) (signedOf 80 acc)
  (v % (2 ^ 80 : Nat)).toNat

/-- One streamed row accumulated into a bank (R143, R145, R146, R156, R157). -/
def maRow (rows cols et csel : Nat) (bk : Bank) (av bv : List W36) : Bank :=
  let acc := (List.range (rows * cols)).filterMap fun k =>
    let a := av.getD (k / cols) 0
    let b := bv.getD (k % cols) 0
    let old := (nget 0 bk.acc k).toNat
    let v := match bk.mode with
      | .mod => modStep (bk.primes.getD (k % cols) 0) bk.folds old a.toNat b.toNat
      | .int => intStep csel old a b
      | .fp => fpStep et csel old a b
      | .none => old
    if v % 2 ^ 80 = 0 then none else some (k, BitVec.ofNat 80 v)
  { bk with acc := acc, folds := (bk.folds + 1) % 128 }

/-- MA.MAC and MA.MACZ: the rows of the nest streamed into the active bank, whose value at the start the snapshot registers
keep (R142 to R146, R164). -/
def maMacRun (zero : Bool) (p : Nat) (e : Entry) (s : State) : State :=
  let w := e.word
  let c := e.ctx
  let its := entryIts e
  if its = [] then s else
  let img := imageOf s c
  let dev := deviceId s
  let lid := lidOf s p
  let (rows, cols) := formDims (stall s p).ma.form
  let da := decl img (hA w)
  let db := decl img (hB w)
  let pa := pieceOf img dev da lid
  let pb := pieceOf img dev db lid
  let mode := maMode da db
  let primes := if mode = .mod then
      let dd := decl img (hD w)
      columnPrimes img dd (pieceOf img dev dd lid) (addrD e (List.replicate (nestOf w) 0)) cols
    else []
  let old := activeBank (stall s p).ma
  let b0 : Bank := if zero || old.mode ≠ mode || old.primes ≠ primes then { mode := mode, primes := primes } else old
  let b1 := its.foldl (fun b js => maRow rows cols da.etype (mactOf w) b
    (maVector s p c da pa (addrA e js) rows) (maVector s p c db pb (addrB e js) cols)) b0
  let s1 := parityPiece s p c pa (its.flatMap fun js => (runFrom (addrA e js) (vecLines rows)).flatMap (maFetch da))
  let s2 := parityPiece s1 p c pb (its.flatMap fun js => (runFrom (addrB e js) (vecLines cols)).flatMap (maFetch db))
  modStall s2 p fun x => { x with ma := { setActive x.ma b1 with snap := old } }

/-- The active bank takes back what the snapshot registers hold (R164). -/
def maRestore (p : Nat) (s : State) : State := modStall s p fun x => { x with ma := setActive x.ma x.ma.snap }

/-- The value that a cell drains in an output type (R146, R150). -/
def drainCell (bk : Bank) (otype csel k cols : Nat) : Nat :=
  let acc := (nget 0 bk.acc k).toNat
  let asInt (v : Int) : Nat :=
    if otype = 5 then intCode 3 csel v else (max (-2147483648) (min 2147483647 v) % (2 ^ 32 : Nat)).toNat
  let asFp (v : FV) : Nat :=
    match otype with
    | 2 => fencode fp32 false (nanCode fp32 acc 0 0) v
    | 3 => fencode bf16 false (nanCode bf16 acc 0 0) v
    | _ => fencode (elemFmt 4 csel) (bitOf csel 2) (nanCode (elemFmt 4 csel) acc 0 0) v
  match bk.mode with
  | .none => 0
  | .mod =>
    let q := bk.primes.getD (k % cols) 0
    if otype = 0 && q ≠ 0 then acc % q else 0
  | .int =>
    if otype = 0 then 0
    else if otype = 1 || otype = 5 then asInt (signedOf 80 acc)
    else asFp (fofInt (signedOf 80 acc))
  | .fp =>
    if otype = 0 then 0
    else if otype = 1 then asInt (ftoInt (-2147483648) 2147483647 (fdecode fp32 acc))
    else if otype = 5 then
      let (lo, hi) := intRange 3 csel
      asInt (ftoInt lo hi (fdecode fp32 acc))
    else if otype = 2 then acc
    else asFp (fdecode fp32 acc)

/-- The element type that a drain's output type writes. -/
def drainType (otype : Nat) : Nat :=
  match otype with
  | 0 => 0
  | 1 => 1
  | 2 => 2
  | 3 => 5
  | 4 => 4
  | _ => 3

/-- The lines of a drained tile in vector order, each with its address (R148). -/
def drainTile (f : Form) (bk : Bank) (otype csel pitch : Nat) (off : Int) : List (Int × Line) :=
  let (r, c) := formDims f
  let len := if f = .wide then c else r
  let e := drainElems otype
  (drainLines f otype pitch off).map fun (v, k, a) =>
    (a, lineOfElems (drainType otype) ((List.range e).map fun i =>
      let x := k * e + i
      if x < len then drainCell bk otype csel (if f = .wide then v * c + x else x * c + v) c else 0))

/-- Tile queue lines in a vector for TILEQ's PITCH (R148). -/
def tileqPitch (f : Form) (otype : Nat) : Nat :=
  let (r, c) := formDims f
  ceilDiv (if f = .wide then c else r) (drainElems otype)

/-- MA.DRAIN: the banks swap and the bank that was active drains to D or to the tile queue (R147 to R150). Where an
arbitration of it ended with no result, nothing is written, and a tile is marked with words that nothing fixes (R391, R503). -/
def maDrainRun (lim : Option Nat) (p n : Nat) (e : Entry) (s : State) : State :=
  let w := e.word
  let img := imageOf s e.ctx
  let m := (stall s p).ma
  let bk := activeBank m
  let otype := bitsOf (modE2 w) 2 0
  let csel := mactOf w
  let void := e.fixes.any fun x => x.2.isNone
  let s1 := modStall s p fun x => { x with ma := { x.ma with active := !x.ma.active } }
  if hD w = hTileq then
    let ls := (drainTile m.form bk otype csel (tileqPitch m.form otype) 0).map (·.2)
    let (vs, s2) := if void then drawMany s1 ls.length else ([], s1)
    let tile : Tile := ⟨if void then vs.map (fun v => lineOfBytes (leBytes 72 v)) else ls, bk.poison || void⟩
    modStall s2 p fun x => { x with tiles := x.tiles ++ [tile] }
  else
    let d := decl img (hD w)
    let pc := pieceOf img (deviceId s) d (lidOf s p)
    let ls := if void then [] else upTo lim (drainTile m.form bk otype csel d.pitch (addrD e []))
    let s2 := ls.foldl (fun s (a, l) => putEntryLine s p e pc a l) s1
    let s3 := noteWrites s2 p n pc (ls.map (·.1))
    if bk.poison then modEntry s3 p n fun e => { e with poison := true } else s3

/-- MA.FORM zeroes both banks under the new form (R139). -/
def maFormRun (p : Nat) (e : Entry) (s : State) : State :=
  let f : Form := match bitsOf (modE2 e.word) 1 0 with
    | 0 => .tall
    | 1 => .square
    | _ => .wide
  modStall s p fun x => { x with ma := { x.ma with form := f, b0 := {}, b1 := {} } }

/-- MA.FORM (R139). -/
def execMaForm (p : Position) (t : TeamIx) (s : State) : Host.Outcome State Fault Refusal :=
  .next (issueOp s p t 0x10 (localIssue .ma p t))

/-- MA.MAC (R142 to R146). -/
def execMaMac (p : Position) (t : TeamIx) (s : State) : Host.Outcome State Fault Refusal :=
  .next (issueOp s p t 0x11 (localIssue .ma p t))

/-- MA.MACZ: the bank is zeroed first (R142). -/
def execMaMacz (p : Position) (t : TeamIx) (s : State) : Host.Outcome State Fault Refusal :=
  .next (issueOp s p t 0x12 (localIssue .ma p t))

/-- MA.DRAIN (R147 to R150). -/
def execMaDrain (p : Position) (t : TeamIx) (s : State) : Host.Outcome State Fault Refusal :=
  .next (issueOp s p t 0x13 (localIssue .ma p t))

end Sys2Proof.Machine
end

