-- ==== Sys2Proof/Machine/ElementEngine.lean ====
section
/-!
DEFINITION. The Element Engine (06): the modular, word and typed domains (R183, R184), constants of a limb (R185),
rescale and mod-raise (R186), casts (R187), reductions (R188) and the tile queue (R151 to R153, R189).
-/

namespace Sys2Proof.Machine

/-- The domains of R183; a typed instruction has an element type. -/
inductive EeDom where
  | modular
  | word
  | typed (et : Nat)
  deriving DecidableEq, Repr

/-- Whether a handle is computed in the typed domain: a clear handle, or a raw INT32 or FP32 handle. -/
def typedHandle (d : HDecl) : Bool := isClear d || (d.kind = 4 && (d.etype = 1 || d.etype = 2))

/-- The operand handles of an Element Engine instruction: A, B (for format E3) and D. -/
def eeHandles (w : W128) : List Nat :=
  if (opInfo (opcodeOf w)).map (·.fmt) = some .e3 then [hA w, hB w, hD w] else [hA w, hD w]

/-- The arithmetic opcodes that R169 puts in the modular domain. -/
def eeArith (op : Nat) : Bool := decide (op ≤ 0x46) || op = 0x49 || op = 0x4A

/-- The domain of an instruction (R183): the arithmetic opcodes compute in the modular domain whenever their D qualifies,
whatever their sources are (R169). -/
def eeDomain (img : Image) (w : W128) : EeDom :=
  if eeArith (opcodeOf w) && isModular (decl img (hD w)) then .modular else
  match ((eeHandles w).filterMap (declOf img)).find? typedHandle with
  | some d => .typed d.etype
  | none => if eeArith (opcodeOf w) then .modular else .word

/-- One element by the typed column of R184, under CSEL. -/
def eeTyped (op et csel a b d : Nat) : Nat :=
  if isFloat et then
    let f := elemFmt et csel
    let v (x : Nat) : FV := fdecode f x
    let enc (r : FV) : Nat := fencode f (bitOf csel 2) (nanCode f a b d) r
    let one : Nat := fencode f false 0 (fofInt 1)
    let ext (less : Bool) : Nat :=
      if v a = .nan || v b = .nan then quietNan f else
      let lt := flt (v a) (v b) || (feq (v a) (v b) && fnegative (v a))
      if lt == less then a else b
    match op with
    | 0x40 => enc (fadd (v a) (v b))
    | 0x41 => enc (fadd (v a) (fneg (v b)))
    | 0x42 => enc (fneg (v a))
    | 0x43 => enc (fmul (v a) (v b))
    | 0x44 => enc (fadd (v d) (fmul (v a) (v b)))
    | 0x50 => if feq (v a) (v b) then one else 0
    | 0x51 => if flt (v a) (v b) then one else 0
    | 0x52 => if a ≠ 0 then b else d
    | 0x53 => ext true
    | 0x54 => ext false
    | _ => a
  else
    let v (x : Nat) : Int := intVal et csel x
    match op with
    | 0x40 => intCode et csel (v a + v b)
    | 0x41 => intCode et csel (v a - v b)
    | 0x42 => intCode et csel (-v a)
    | 0x43 => intCode et csel (v a * v b)
    | 0x44 => intCode et csel (v d + v a * v b)
    | 0x50 => if v a = v b then 1 else 0
    | 0x51 => if v a < v b then 1 else 0
    | 0x52 => if a ≠ 0 then b else d
    | 0x53 => intCode et csel (min (v a) (v b))
    | 0x54 => intCode et csel (max (v a) (v b))
    | _ => a

/-- One word by the word-domain column of R184. -/
def eeWord (op a b d : Nat) : Nat :=
  match op with
  | 0x50 => if a = b then 1 else 0
  | 0x51 => if a < b then 1 else 0
  | 0x52 => if a ≠ 0 then b else d
  | 0x53 => min a b
  | 0x54 => max a b
  | _ => a

/-- One word by the modular column of R184, from words reduced modulo q; `k` is the constant of R185. -/
def eeMod (op q a b d k : Nat) : Nat :=
  match op with
  | 0x40 => (a + b) % q
  | 0x41 => subMod a b q
  | 0x42 => (q - a) % q
  | 0x43 => a * b % q
  | 0x44 => (d + a * b % q) % q
  | 0x45 => a * k % q
  | 0x46 => (a + k) % q
  | _ => a % q

/-- The rescale step of R62 for one word: a under q_i, b under q_l. -/
def eeRescaleWord (ch : Chain) (qi ql a b : Nat) : Nat :=
  let r := b % ql
  let s : Int := if ch.bgv then (ch.plainMod : Int) * centred (r * invMod ch.plainMod ql % ql) ql else centred r ql
  subMod (a % qi) (imod s qi) qi * invMod (ql % qi) qi % qi

/-- The mod-raise step of R63 for one word. -/
def eeRaiseWord (q0 qi a : Nat) : Nat := imod (centred (a % q0) q0) qi

/-- A line from the words that a function gives. -/
def mapLine (f : Nat → Nat) : Line := (List.range 16).map fun i => BitVec.ofNat 36 (f i)

/-- What an iteration has for the elementwise opcodes: the lines of A, B and D, and the constant of R185. -/
structure EeIn where
  a : Line
  b : Line
  d : Line
  k : Nat
  deriving DecidableEq, Repr

/-- The line that an elementwise iteration gives at D's address, none where D's line has no prime in the modular domain
(R169, R184 to R186). `di` is the chain index of D's line, and `bi` the chain index and the prime of B's. Where that prime is one
for which the prime table holds no qinv (a special prime, or one of a chain that is not D's), its inverse modulo q_i stands for
it (DESIGN CHOICE, log 98). -/
def eeLine (img : Image) (w : W128) (csel : Nat) (dd : HDecl) (di : Option Nat) (bi : Option (Nat × Nat)) (x : EeIn) : Option Line :=
  let op := opcodeOf w
  let wd (l : Line) (i : Nat) : Nat := (wordAt l i).toNat
  match op with
  | 0x47 => some (if isClear dd then mapLine fun i => wd x.a i % 2 ^ 32 else x.a)
  | 0x48 =>
    let v := wd x.a (bitsOf (modE2 w) 3 0)
    some (mapLine fun _ => if isClear dd then v % 2 ^ 32 else v)
  | _ =>
    match eeDomain img w with
    | .typed et => some (lineOfElems et ((List.range (elemsPerLine et)).map fun e =>
        eeTyped op et csel (elemOf et x.a e) (elemOf et x.b e) (elemOf et x.d e)))
    | .word => some (mapLine fun i => eeWord op (wd x.a i) (wd x.b i) (wd x.d i))
    | .modular =>
      let ch := (chainOf img dd.chain).getD {}
      match di with
      | none => none
      | some i =>
        let q := chainPrime ch i
        match op with
        | 0x49 => match bi with
          | none => some zeroLine
          | some (l, ql) => if l ≤ i then some zeroLine
            else some (mapLine fun k => eeRescaleWord ch q ql (wd x.a k) (wd x.b k))
        | 0x4A => some (mapLine fun k => eeRaiseWord (chainPrime ch 0) q (wd x.a k))
        | _ => some (mapLine fun k => eeMod op q (wd x.a k % q) (wd x.b k % q) (wd x.d k % q) (x.k % q))

/-- Smaller or larger of two elements (R184). -/
def eeExt (less : Bool) (et csel a b : Nat) : Nat := eeTyped (if less then 0x53 else 0x54) et csel a b 0

/-- The reduction of the lines of a group (R188) into an element of D's type. -/
def eeReduceGroup (op et csel : Nat) (etD : Nat) (ls : List Line) : Nat :=
  let es (l : Line) : List Nat := (List.range (elemsPerLine et)).map (elemOf et l)
  match op with
  | 0 =>
    if isFloat et then
      let f := elemFmt et csel
      let acc := ls.foldl (fun (acc : Nat) l =>
        let v := (es l).foldl (fun (v : FV) e => fadd v (fdecode f e)) (.fin true 0 0)
        fencode fp32 false (nanCode fp32 acc 0 0) (fadd (fdecode fp32 acc) v)) 0
      convert 2 etD 0 csel acc
    else
      let v := ls.foldl (fun (v : Int) l => (es l).foldl (fun v e => v + intVal et csel e) v) 0
      if isFloat etD then fencode (elemFmt etD csel) (bitOf csel 2) 0 (fofInt v) else intCode etD csel v
  | o =>
    match ls.flatMap es with
    | [] => 0
    | x :: xs => convert et etD csel csel (xs.foldl (fun m e => eeExt (o = 2) et csel m e) x)

/-- Consecutive iterations whose D line address is equal (R188). -/
def eeGroups {α : Type} : List (Int × α) → List (Int × List α)
  | [] => []
  | (d, l) :: r => match eeGroups r with
    | [] => [(d, [l])]
    | (e, ls) :: gs => if d = e then (e, l :: ls) :: gs else (d, [l]) :: (e, ls) :: gs

/-- The element type of A for a cast or a reduction; the words of a tile are INT32 or FP32, which of the two the
manual leaves to "the instruction's A type" for an operand that has none (R187, R189): one of them for each instruction, the same
in every run (R66), and no statement knows which (DESIGN CHOICE, log 7). -/
def eeTypeA (img : Image) (w : W128) : Nat :=
  if hA w = hTileq then (if Config.tileFloat w.toNat then 2 else 1) else (decl img (hA w)).etype

/-- The chain index and the prime of a line of a handle's piece; none where it has no prime. -/
def linePlace (img : Image) (d : HDecl) (pc : Piece) (a : Int) : Option (Nat × Nat) :=
  (lineIndex img d pc a).map fun i => (i, linePrime img d pc a)

/-- The data effect of entry n of the Element Engine, from its captured loops, with the tile lines that it has taken. Each
iteration, and each group of EE.REDUCE, reads what the ones before it have written (R191). -/
def eeData (lim : Option Nat) (p n : Nat) (e : Entry) (tiles : List Line) (s : State) : State :=
  let w := e.word
  let c := e.ctx
  let img := imageOf s c
  let dev := deviceId s
  let lid := lidOf s p
  let op := opcodeOf w
  let fmt := (opInfo op).map (·.fmt) |>.getD .e2
  let csel := if clearMode img fmt w then mactOf w else 0
  let da := decl img (hA w)
  let db := decl img (hB w)
  let dd := decl img (hD w)
  let pa := pieceOf img dev da lid
  let pb := pieceOf img dev db lid
  let pd := pieceOf img dev dd lid
  let tq (h : Nat) : Bool := h = hTileq
  match op with
  | 0x59 =>
    let et := eeTypeA img w
    let groups := upTo lim (eeGroups ((entryIts e).zipIdx.map fun (js, i) => (addrD e js, js, i)))
    noteWrites (groups.foldl (fun s (d, g) =>
      let s1 := if tq (hA w) then s else parityPiece s p c pa (g.map fun x => addrA e x.1)
      let ls := g.map fun x => if tq (hA w) then tiles.getD x.2 zeroLine else readPiece s1 p c da pa (addrA e x.1)
      putEntryLine s1 p e pd d (lineOfElems dd.etype [eeReduceGroup (bitsOf (modE2 w) 1 0) et csel dd.etype ls])) s)
      p n pd (groups.map (·.1))
  | 0x58 =>
    let et := eeTypeA img w
    let eD := elemsPerLine dd.etype
    let eA := elemsPerLine et
    let its := upTo lim (entryIts e)
    noteWrites ((its.zipIdx).foldl (fun s (js, i) =>
      let base := addrA e js * (eD : Int)
      let read (k : Nat) : Nat :=
        if tq (hA w) then elemOf et (tiles.getD (i * (eD / 16) + k / eA) zeroLine) (k % eA)
        else
          let x := base + (k : Int)
          elemOf et (readPiece s p c da pa (x / eA)) (x % eA).toNat
      let s1 := if tq (hA w) then s else parityPiece s p c pa ((List.range (ceilDiv eD eA)).map fun k => base / eA + Int.ofNat k)
      putEntryLine s1 p e pd (addrD e js)
        (lineOfElems dd.etype ((List.range eD).map fun k => convert et dd.etype csel csel (read k)))) s)
      p n pd (its.map (addrD e))
  | _ =>
    let its := upTo lim (entryIts e)
    noteWrites ((its.zipIdx).foldl (fun s (js, i) =>
      let isE3 := fmt = .e3
      let con := op = 0x45 || op = 0x46
      let readsD := op = 0x44 || op = 0x52
      let s2 := if tq (hA w) then s else parityPiece s p c pa [addrA e js]
      let s3 := if !isE3 || tq (hB w) then s2 else parityPiece s2 p c pb [if con then addrB e js / 16 else addrB e js]
      let s4 := if readsD then parityPiece s3 p c pd [addrD e js] else s3
      let x : EeIn :=
        { a := if tq (hA w) then tiles.getD i zeroLine else readPiece s4 p c da pa (addrA e js),
          b := if !isE3 || con then zeroLine else if tq (hB w) then tiles.getD i zeroLine else readPiece s4 p c db pb (addrB e js),
          d := if readsD then readPiece s4 p c dd pd (addrD e js) else zeroLine,
          k := if con then (wordAt (readPiece s4 p c db pb (addrB e js / 16)) (addrB e js % 16).toNat).toNat else 0 }
      match eeLine img w csel dd (lineIndex img dd pd (addrD e js)) (linePlace img db pb (addrB e js)) x with
      | none => countDrop s4 p c 1
      | some l => putEntryLine s4 p e pd (addrD e js) l) s)
      p n pd (its.map (addrD e))

/-- An Element Engine instruction starts once the queue holds every tile of its demand (R153). -/
def tilesReady (s : State) (p : Nat) (e : Entry) : Bool :=
  decide (tileDemand (imageOf s e.ctx) e.word e.loops ≤ (stall s p).tiles.length)

/-- The effect of an Element Engine instruction: it takes its tiles; a marked tile poisons the destination (R151, R503). -/
def eeRun (lim : Option Nat) (p n : Nat) (e : Entry) (s : State) : State :=
  let k := tileDemand (imageOf s e.ctx) e.word e.loops
  let mine := (stall s p).tiles.take k
  let s1 := modStall s p fun y => { y with tiles := y.tiles.drop k }
  let s2 := if mine.any (·.poison) then modEntry s1 p n fun v => { v with poison := true } else s1
  eeData lim p n e (mine.flatMap (·.lines)) s2

/-- EE.ADD (R184). -/
def execEeAdd (p : Position) (t : TeamIx) (s : State) : Host.Outcome State Fault Refusal :=
  .next (issueOp s p t 0x40 (localIssue .ee p t))

/-- EE.SUB (R184). -/
def execEeSub (p : Position) (t : TeamIx) (s : State) : Host.Outcome State Fault Refusal :=
  .next (issueOp s p t 0x41 (localIssue .ee p t))

/-- EE.NEG (R184). -/
def execEeNeg (p : Position) (t : TeamIx) (s : State) : Host.Outcome State Fault Refusal :=
  .next (issueOp s p t 0x42 (localIssue .ee p t))

/-- EE.MUL (R184). -/
def execEeMul (p : Position) (t : TeamIx) (s : State) : Host.Outcome State Fault Refusal :=
  .next (issueOp s p t 0x43 (localIssue .ee p t))

/-- EE.MAC (R184). -/
def execEeMac (p : Position) (t : TeamIx) (s : State) : Host.Outcome State Fault Refusal :=
  .next (issueOp s p t 0x44 (localIssue .ee p t))

/-- EE.MULC (R185). -/
def execEeMulc (p : Position) (t : TeamIx) (s : State) : Host.Outcome State Fault Refusal :=
  .next (issueOp s p t 0x45 (localIssue .ee p t))

/-- EE.ADDC (R185). -/
def execEeAddc (p : Position) (t : TeamIx) (s : State) : Host.Outcome State Fault Refusal :=
  .next (issueOp s p t 0x46 (localIssue .ee p t))

/-- EE.MOV (R184). -/
def execEeMov (p : Position) (t : TeamIx) (s : State) : Host.Outcome State Fault Refusal :=
  .next (issueOp s p t 0x47 (localIssue .ee p t))

/-- EE.BCAST (R184). -/
def execEeBcast (p : Position) (t : TeamIx) (s : State) : Host.Outcome State Fault Refusal :=
  .next (issueOp s p t 0x48 (localIssue .ee p t))

/-- EE.RESCALE (R62, R186). -/
def execEeRescale (p : Position) (t : TeamIx) (s : State) : Host.Outcome State Fault Refusal :=
  .next (issueOp s p t 0x49 (localIssue .ee p t))

/-- EE.MODRAISE (R63, R186). -/
def execEeModraise (p : Position) (t : TeamIx) (s : State) : Host.Outcome State Fault Refusal :=
  .next (issueOp s p t 0x4a (localIssue .ee p t))

/-- EE.CMPEQ (R184). -/
def execEeCmpeq (p : Position) (t : TeamIx) (s : State) : Host.Outcome State Fault Refusal :=
  .next (issueOp s p t 0x50 (localIssue .ee p t))

/-- EE.CMPLT (R184). -/
def execEeCmplt (p : Position) (t : TeamIx) (s : State) : Host.Outcome State Fault Refusal :=
  .next (issueOp s p t 0x51 (localIssue .ee p t))

/-- EE.SEL (R184). -/
def execEeSel (p : Position) (t : TeamIx) (s : State) : Host.Outcome State Fault Refusal :=
  .next (issueOp s p t 0x52 (localIssue .ee p t))

/-- EE.MIN (R184). -/
def execEeMin (p : Position) (t : TeamIx) (s : State) : Host.Outcome State Fault Refusal :=
  .next (issueOp s p t 0x53 (localIssue .ee p t))

/-- EE.MAX (R184). -/
def execEeMax (p : Position) (t : TeamIx) (s : State) : Host.Outcome State Fault Refusal :=
  .next (issueOp s p t 0x54 (localIssue .ee p t))

/-- EE.CAST (R187). -/
def execEeCast (p : Position) (t : TeamIx) (s : State) : Host.Outcome State Fault Refusal :=
  .next (issueOp s p t 0x58 (localIssue .ee p t))

/-- EE.REDUCE (R188). -/
def execEeReduce (p : Position) (t : TeamIx) (s : State) : Host.Outcome State Fault Refusal :=
  .next (issueOp s p t 0x59 (localIssue .ee p t))

end Sys2Proof.Machine
end

