-- ==== Sys2Proof/Machine/TransformEngine.lean ====
section
/-!
DEFINITION. The Transform Engine (06): TE.NTT, TE.INTT, TE.AUTO, TE.NTT4 and TE.INTT4 as exact residues, by the sums
that define them (R171, R178, R180, R181).
-/

namespace Sys2Proof.Machine

/-- What an iteration transforms under: the slot's prime, the root of R44, the chain's N, the half index of a split
limb (R179) and the layouts of source and destination. -/
structure TeArg where
  q    : Nat
  psi  : Nat
  n    : Nat
  half : Option Nat
  layA : Nat
  layD : Nat
  deriving DecidableEq, Repr

/-- Value at x of the polynomial whose coefficients are given, modulo q. -/
def evalPoly (q x : Nat) (cs : List Nat) : Nat := cs.foldr (fun a acc => (a + x * acc) % q) 0

/-- Reorder between positions and logical indices; both layouts are their own inverses (R172). -/
def relayout (lay : Nat) (ws : List Nat) : List Nat :=
  let k := Nat.log2 ws.length
  (List.range ws.length).map fun i => ws.getD (posIndex lay k i) 0

/-- Forward transform of indices to indices (R171). -/
def nttOf (q psi : Nat) (cs : List Nat) : List Nat :=
  (List.range cs.length).map fun j => evalPoly q (powMod psi (2 * j + 1) q) cs

/-- Inverse transform (R171). -/
def inttOf (q psi : Nat) (vs : List Nat) : List Nat :=
  let ip := invMod psi q
  let ni := invMod vs.length q
  (List.range vs.length).map fun k => ni * powMod ip k q % q * evalPoly q (powMod ip (2 * k) q) vs % q

/-- TE.NTT on a whole limb. -/
def teNttF (x : TeArg) (_ : Nat) (ws : List Nat) : List Nat := relayout x.layD (nttOf x.q x.psi (relayout x.layA ws))

/-- TE.INTT on a whole limb. -/
def teInttF (x : TeArg) (_ : Nat) (ws : List Nat) : List Nat := relayout x.layD (inttOf x.q x.psi (relayout x.layA ws))

/-- TE.AUTO (R178, R182): MOD 16:0 GAL, MOD 17 DOMAIN. -/
def teAutoF (x : TeArg) (md : Nat) (ws : List Nat) : List Nat :=
  let k := 2 * bitsOf md 16 0 + 1
  match x.half with
  | some h =>
    let m := ws.length
    let lg := Nat.log2 m
    (List.range m).map fun u =>
      let j := 2 * brv lg u + h
      let σ := (k * (2 * j + 1) % (2 * x.n) - 1) / 2
      ws.getD (brv lg (σ / 2)) 0
  | none =>
    let a := relayout x.layA ws
    let r := if bitOf md 17 then
        -- the coefficient that reaches position m came from position m / k mod 2N
        let ki := powMod k (x.n - 1) (2 * x.n)
        (List.range x.n).map fun m =>
          let t := m * ki % (2 * x.n)
          if t < x.n then a.getD t 0 else (x.q - a.getD (t - x.n) 0) % x.q
      else (List.range x.n).map fun j => a.getD ((k * (2 * j + 1) % (2 * x.n) - 1) / 2) 0
    relayout x.layD r

/-- TE.NTT4 (R180): MOD 0 PASS. -/
def teNtt4F (x : TeArg) (md : Nat) (ws : List Nat) : List Nat :=
  let m := ws.length
  let lg := Nat.log2 m
  let h := x.half.getD 0
  if bitOf md 0 then
    let ps := if h = 0 then invMod x.psi x.q else x.psi
    let y := (List.range m).map fun k => ws.getD k 0 * powMod ps k x.q % x.q
    (List.range m).map fun u => evalPoly x.q (powMod x.psi (2 * (2 * brv lg u + 1)) x.q) y
  else
    let w := powMod x.psi m x.q
    (List.range (m / 2)).map (fun v => (ws.getD v 0 + w * ws.getD (m / 2 + v) 0) % x.q) ++
    (List.range (m / 2)).map (fun v => subMod (ws.getD v 0) (w * ws.getD (m / 2 + v) 0 % x.q) x.q)

/-- TE.INTT4 (R181): MOD 0 PASS. -/
def teIntt4F (x : TeArg) (md : Nat) (ws : List Nat) : List Nat :=
  let m := ws.length
  let lg := Nat.log2 m
  let h := x.half.getD 0
  let ip := invMod x.psi x.q
  if bitOf md 0 then
    let mi := invMod m x.q
    let ps := if h = 0 then x.psi else ip
    (List.range m).map fun k =>
      mi * ((List.range m).foldl (fun a u =>
        (a + ws.getD u 0 * powMod ip (2 * k * (2 * brv lg u + 1)) x.q) % x.q) 0) % x.q * powMod ps k x.q % x.q
  else
    let w := powMod ip m x.q
    let i2 := invMod 2 x.q
    (List.range (m / 2)).map (fun v => i2 * (ws.getD v 0 + ws.getD (m / 2 + v) 0) % x.q) ++
    (List.range (m / 2)).map (fun v => i2 * w % x.q * subMod (ws.getD v 0) (ws.getD (m / 2 + v) 0) x.q % x.q)

/-- The owner entry in which a line of a piece lies (R215). -/
def ownerAt (d : HDecl) : List Owner → Nat → Option Owner
  | [], _ => none
  | e :: es, k => if k < e.slotCount * d.pitch then some e else ownerAt d es (k - e.slotCount * d.pitch)

/-- One iteration: its source limb is read and reduced under the destination slot's prime (R169), transformed and
written; a destination outside the piece or without a prime computes nothing and drops each of its lines (R501). Where an
arbitration left words of the limb unwritten, the later passes leave in it words that nothing fixes (R391). -/
def teIter (f : TeArg → Nat → List Nat → List Nat) (p : Nat) (e : Entry) (img : Image) (da dd : HDecl) (pa pd : Piece)
    (a d : Int) (s : State) : State :=
  let c := e.ctx
  let u := dd.pitch
  let q := linePrime img dd pd d
  if q = 0 then countDrop s p c u else
  let ch := (chainOf img dd.chain).getD {}
  let half := match ownerAt dd pd.owners d.toNat with
    | some o => if o.log2Parts = 1 then some o.part else none
    | none => none
  let x : TeArg := ⟨q, ch.roots.getD ((lineIndex img dd pd d).getD 0) 0, 2 ^ ch.logN, half, da.layout, dd.layout⟩
  let s1 := parityPiece s p c pa (runFrom a u)
  let mine := loftLines pd (runFrom d u)
  if e.fixes.any fun x => x.2.isNone && mine.contains x.1 then freeLines s1 p c mine else
  let ws := (runFrom a u).flatMap fun k => (readPiece s1 p c da pa k).map fun v => v.toNat % q
  let out := f x (modE2 e.word) ws
  (List.range u).foldl (fun s (i : Nat) =>
    putEntryLine s p e pd (d + Int.ofNat i) ((List.range 16).map fun (j : Nat) => BitVec.ofNat 36 (out.getD (16 * i + j) 0))) s1

/-- A Transform Engine instruction: one limb, or half-limb, per iteration in increasing linear index (R173, R501). An abort
leaves the limb after the last whole one partly transformed: words that nothing fixes (R196). -/
def teRun (f : TeArg → Nat → List Nat → List Nat) (lim : Option Nat) (p n : Nat) (e : Entry) (s : State) : State :=
  let w := e.word
  let img := imageOf s e.ctx
  let dev := deviceId s
  let da := decl img (hA w)
  let dd := decl img (hD w)
  let pa := pieceOf img dev da (lidOf s p)
  let pd := pieceOf img dev dd (lidOf s p)
  let its := upTo lim (entryIts e)
  let s1 := its.foldl (fun s js => teIter f p e img da dd pa pd (addrA e js) (addrD e js) s) s
  let part : List Nat := match (lim.bind fun k => (entryIts e)[k]?) with
    | none => []
    | some js => loftLines pd (runFrom (addrD e js) dd.pitch)
  noteWrites (freeLines s1 p e.ctx part) p n pd (its.flatMap fun js => runFrom (addrD e js) dd.pitch)

/-- TE.NTT (R171). -/
def execTeNtt (p : Position) (t : TeamIx) (s : State) : Host.Outcome State Fault Refusal :=
  .next (issueOp s p t 0x30 (localIssue .te p t))

/-- TE.INTT (R171). -/
def execTeIntt (p : Position) (t : TeamIx) (s : State) : Host.Outcome State Fault Refusal :=
  .next (issueOp s p t 0x31 (localIssue .te p t))

/-- TE.AUTO (R178, R182). -/
def execTeAuto (p : Position) (t : TeamIx) (s : State) : Host.Outcome State Fault Refusal :=
  .next (issueOp s p t 0x32 (localIssue .te p t))

/-- TE.NTT4 (R180). -/
def execTeNtt4 (p : Position) (t : TeamIx) (s : State) : Host.Outcome State Fault Refusal :=
  .next (issueOp s p t 0x33 (localIssue .te p t))

/-- TE.INTT4 (R181). -/
def execTeIntt4 (p : Position) (t : TeamIx) (s : State) : Host.Outcome State Fault Refusal :=
  .next (issueOp s p t 0x34 (localIssue .te p t))

end Sys2Proof.Machine
end

