-- ==== Sys2Proof/Machine/Carter.lean ====
section
/-!
DEFINITION. The Carter (04, 07, 11): loads, stores, copies, gathers, scatters, fills and atomics, with the change of
layout of R225. Data of HBM, the Granary and other stalls travels in messages; the instruction's entry waits for them.
-/

namespace Sys2Proof.Machine

/-! ### HBM pieces (R303) -/

/-- Offset from BASE of the high plane of a PLANE_32_4 piece. -/
def planeOff (d : HDecl) : Nat := 4096 * ceilDiv (64 * d.lines) 4096

/-- The byte runs (offset from the piece's base, length) of a line. -/
def lineSpans (d : HDecl) (l : Nat) : List (Nat × Nat) :=
  if d.layout = 4 then [(64 * l, 64), (planeOff d + 8 * l, 8)] else [(72 * l, 72)]

/-- The bytes of a line, span by span. -/
def lineToSpans (d : HDecl) (l : Line) : List (List Byte) :=
  if d.layout = 4 then
    [l.flatMap (fun w => leBytes 4 w.toNat),
     leBytes 8 ((List.range 16).foldl (fun a i => a + (wordAt l i).toNat / 2 ^ 32 * 16 ^ i) 0)]
  else [lineBytes l]

/-- A line from the bytes of its spans. -/
def spansToLine (d : HDecl) (bs : List (List Byte)) : Line :=
  if d.layout = 4 then
    let main := leNat (bs.getD 0 [])
    let high := leNat (bs.getD 1 [])
    (List.range 16).map fun i => BitVec.ofNat 36 (main / 2 ^ (32 * i) % 2 ^ 32 + high / 16 ^ i % 16 * 2 ^ 32)
  else lineOfBytes (bs.getD 0 [])

/-- The granules (device address bits 39:8, in place 0) that hold a line. -/
def lineGranules (d : HDecl) (l : Nat) : List Nat :=
  ((lineSpans d l).flatMap fun (o, n) =>
    (List.range ((d.base + o + n - 1) / 256 + 1 - (d.base + o) / 256)).map fun k => (d.base + o) / 256 + k).dedup

/-- A byte of returned granules. -/
def granByte (gs : List (Nat × List Byte)) (a : Nat) : Byte :=
  match gs.find? fun g => g.1 = a / 256 with
  | some g => g.2.getD (a % 256) 0
  | none => 0

/-- A line of a piece from returned granules. -/
def lineFromGrans (d : HDecl) (gs : List (Nat × List Byte)) (l : Nat) : Line :=
  spansToLine d ((lineSpans d l).map fun (o, n) => (List.range n).map fun i => granByte gs (d.base + o + i))

/-- The block of a granule of a piece. -/
def granBlock (d : HDecl) (g : Nat) : Nat :=
  let o := g * 256 - d.base
  if d.layout = 4 then (if o < planeOff d then o / 4096 else (o - planeOff d) / 512) else o / 4608

/-! ### Granary pieces and windows (R212, R321, R346) -/

/-- The Granary slot of a line of a piece. -/
def pieceSlot (d : HDecl) (l : Nat) : Nat := (d.base + 128 * l) / 128

/-- The window of a context in which a slot lies. -/
def windowOf (img : Image) (slot : Nat) : Option Window :=
  img.windows.find? fun w => w.offset ≤ 128 * slot && 128 * slot < w.offset + w.size

/-- Whether a slot lies in a peer window. -/
def isPeerSlot (img : Image) (slot : Nat) : Bool := match windowOf img slot with
  | some w => w.kind = 2
  | none => false

/-! ### Sending -/

/-- Send a message on a bulk network and count its lines in YARD_CNT[6]. -/
def sendBulk (s : State) (src dst : Node) (net : Net) (c : Nat) (b : Body) (lines : Nat) : State :=
  yardCount (send s src dst net c b) 6 lines

/-- Entry n of stall p, with defaults. -/
def entryAt (s : State) (p n : Nat) : Entry := (entryOf (stall s p) n).getD {}

/-- Send a request of entry n and let the entry wait for what answers it; a remote write is also unacknowledged for
the stall (R283). -/
def sendWaiting (s : State) (p n : Nat) (dst : Node) (c : Nat) (b : Body) (lines : Nat) (isWrite : Bool) : State :=
  let id := s.msgSeq
  let s1 := sendBulk s (.stall p) dst .req c b lines
  let s2 := modEntry s1 p n fun e => { e with waits := e.waits ++ [id], sends := e.sends ++ (if isWrite then [(id, 1024)] else []) }
  if isWrite then modStall s2 p fun x => { x with unacked := x.unacked ++ [id] } else s2

/-- Mark the entry poisoned when its moving source is poisoned (R397). -/
def carryPoison (s : State) (p n : Nat) (w : W128) : State :=
  if poisonedSource s p w then modEntry s p n fun e => { e with poison := true } else s

/-! ### CT.LOAD -/

/-- The far lines that an iteration of a load reads, inside F's piece. -/
def loadLines (df dn : HDecl) (e : Entry) (un : Nat) (js : List Nat) : List Nat :=
  (laySources df dn un (addrA e js) (addrD e js)).filterMap fun a =>
    if 0 ≤ a && a < (df.lines : Int) then some a.toNat else none

/-- What a load has received is written to its destination, with the tally check of every whole block (R395, R396). -/
def landLoad (s : State) (p n : Nat) : State :=
  let e := entryAt s p n
  let img := imageOf s e.ctx
  let df := decl img (hA e.word)
  let dn := decl img (hD e.word)
  let pn := pieceOf img (deviceId s) dn (lidOf s p)
  let un := layUnit df dn pn.lines
  let src (a : Int) : Line :=
    if 0 ≤ a && a < (df.lines : Int) then
      if df.place = 2 then lineFromGrans df e.grans a.toNat
      else match e.lines.find? fun x => x.1 = pieceSlot df a.toNat with
        | some x => x.2
        | none => zeroLine
    else List.replicate 16 df.fill
  let its := entryIts e
  let s1 := its.foldl (fun s js =>
    writePiece s p e.ctx pn (addrD e js) (layLine df dn un (addrA e js) (addrD e js) src) 0xFFFF) s
  let s2 := noteWrites s1 p n pn (its.map (addrD e))
  if df.place ≠ 2 then s2 else
  let ls := (its.flatMap (loadLines df dn e un)).dedup
  let blocks := (ls.map (· / 64)).dedup.filter fun b => (List.range 64).all fun k => ls.contains (64 * b + k)
  let s2 := yardCount s2 6 ls.length
  let bad := blocks.any fun b =>
    tallyOf ((List.range 64).map fun k => lineFromGrans df e.grans (64 * b + k)) ≠
      (slotAt s (blockPage df (currentBase s df b) (64 * b))).tally
  if bad then
    let s3 := modEntry s2 p n fun v => { v with poison := true }
    let s4 := stallFault s3 p e.ctx e.team e.pc.toNat (hD e.word) (faultAction (imageOf s e.ctx) e.word) 0x0802
    trigger (recCount s4 4) e.ctx 0
  else s2

/-- CT.LOAD: for each iteration a request for each distinct granule that it reads, of which the controller's read buffer serves those
that it holds (R225, R317), or a request for each distinct Granary line that the iterations read (R324). A load from an export window is provisional while the context depends on any source (R356). -/
def ctLoadRun (p : Nat) (t : Fin 4) (s : State) (w : W128) (c : Nat) : State :=
  let (s1, n) := takeEntry s p t w c .ct true
  let s2 := carryPoison s1 p n w
  let e := entryAt s2 p n
  let img := imageOf s c
  let df := decl img (hA w)
  let dn := decl img (hD w)
  let un := layUnit df dn (pieceOf img (deviceId s) dn (lidOf s p)).lines
  let ls := ((entryIts e).flatMap (loadLines df dn e un)).dedup
  if df.place = 2 then
    let gs := (entryIts e).flatMap fun js => ((loadLines df dn e un js).flatMap (lineGranules df)).dedup
    let s3 := gs.foldl (fun s g => sendWaiting s p n (.hbm (stackOf (g * 256))) c (.hbmRead n (hA w) g) 0 false) s2
    if gs = [] then landLoad s3 p n else s3
  else
    let slots := ls.map (pieceSlot df)
    let ex := slots.any fun x => match windowOf img x with
      | some v => v.kind = 1
      | none => false
    let s3 := if ex && (recOf s c).deps ≠ [] && hasRecord dn then modEntry s2 p n fun v => { v with prov := true } else s2
    let s4 := slots.foldl (fun s x => sendWaiting s p n (.granary (grnHalf x)) c (.grn n x .read [] false) 0 false) s3
    if slots = [] then landLoad s4 p n else s4

/-! ### CT.STORE and CT.ATOM -/

/-- The runs of consecutive home slots of some lines. -/
def peerRuns (home : Nat → Nat) : List (Nat × Line) → List (List (Nat × Line))
  | [] => []
  | (x, l) :: r => match peerRuns home r with
    | ((y, m) :: q) :: t => if home y = home x + 1 then ((x, l) :: (y, m) :: q) :: t else [(x, l)] :: ((y, m) :: q) :: t
    | t => [(x, l)] :: t

/-- A run packed three lines to a flit, no flit across a block of 64 home slots, so that line LINES - 1 of a flit with BLK_LAST
ends the block (R332, R347; DEDUCED, log 63). -/
def peerFlits (home : Nat → Nat) : Nat → List (Nat × Line) → List (List (Nat × Line))
  | 0, _ => []
  | n + 1, l => match l with
    | [] => []
    | (x, _) :: _ =>
      let k := (l.take 3).countP fun y => home y.1 / 64 = home x / 64
      l.take k :: peerFlits home n (l.drop k)

/-- The flit loads of some lines with the tally that each carries: the flit with the last line of a block carries the
tally of the block's group (R347, R394). -/
def peerLoads (home : Nat → Nat) (ls : List (Nat × Line)) : List (List (Nat × Line) × Option Nat) :=
  let fs := (peerRuns home ls).flatMap fun r => peerFlits home r.length r
  (fs.zipIdx).map fun (q, i) =>
    let b := home ((q.map (·.1)).headD 0) / 64
    let last := !((fs.drop (i + 1)).any fun r => r.any fun y => home y.1 / 64 = b)
    let grp := ((ls.filter fun y => home y.1 / 64 = b).mergeSort fun a b => decide (home a.1 ≤ home b.1)).map (·.2)
    (q, if last then some (tallyOf grp) else none)

/-- Send the lines of an entry that go to Granary slots, each in its message; those of a peer window as flit loads. -/
def sendSlots (s : State) (p n : Nat) (c : Nat) (op : GrnOp) (poison : Bool) (ls : List (Nat × Line)) : State :=
  let img := imageOf s c
  if ls.any fun x => isPeerSlot img x.1 then
    let home (x : Nat) : Nat := match windowOf img x with
      | some v => v.peerSlot0 + (x - v.offset / 128)
      | none => x
    (peerLoads home ls).foldl (fun s (q, tally) =>
      let x := (q.map (·.1)).headD 0
      sendWaiting s p n (.granary (grnHalf x)) c
        (.peer n x op (q.map (·.2)) poison tally (currentEpoch s c)) q.length true) s
  else ls.foldl (fun s (x, l) => sendWaiting s p n (.granary (grnHalf x)) c (.grn n x op l poison) 1 true) s

/-- CT.STORE: one message for the group of each HBM block, with the record of R57, or one for each Granary line. -/
def ctStoreRun (p : Nat) (t : Fin 4) (s : State) (w : W128) (c : Nat) : State :=
  let (s1, n) := takeEntry s p t w c .ct true
  let s2 := carryPoison s1 p n w
  let e := entryAt s2 p n
  let img := imageOf s c
  let df := decl img (hA w)
  let dn := decl img (hD w)
  let pn := pieceOf img (deviceId s) dn (lidOf s p)
  let uf := layUnit dn df df.lines
  let its := entryIts e
  let srcs (js : List Nat) : List Int := laySources dn df uf (addrD e js) (addrA e js)
  let s3 := its.foldl (fun s js => parityPiece s p c pn (srcs js)) s2
  let line (js : List Nat) : Line := layLine dn df uf (addrD e js) (addrA e js) (readPiece s3 p c dn pn)
  let ins := its.filter fun js => 0 ≤ addrA e js && addrA e js < (df.lines : Int)
  let s4 := countDrop s3 p c (its.length - ins.length)
  let ls := ins.map fun js => ((addrA e js).toNat, line js)
  if df.place = 2 then
    let rec_ := produce img w (localRec s p (hD w)) (localRec s p (hD w)) (localRec s p (hA w)) (currentEpoch s c)
    (ls.map (·.1 / 64)).dedup.foldl (fun s b =>
      let g := ls.filter fun x => x.1 / 64 = b
      sendWaiting s p n (.hbm (stackOf (df.base + 64 * 64 * b))) c (.hbmWrite n (hA w) g e.poison rec_) g.length true) s4
  else sendSlots s4 p n c .write e.poison (ls.map fun x => (pieceSlot df x.1, x.2))

/-- The Granary operation of a CT.ATOM (R324). -/
def atomOp (df : HDecl) (op q : Nat) : GrnOp :=
  let kind : Fin 3 := match df.etype with
    | 1 => 1
    | 2 => 2
    | _ => 0
  match op with
  | 0 => .modAdd q
  | 1 => .intAdd (df.etype = 1)
  | 2 => .min kind
  | 3 => .max kind
  | 4 => .swap
  | _ => .cas

/-- CT.ATOM: each iteration's line goes to the Granary; one outside F's piece is not sent (R324, R325). -/
def ctAtomRun (p : Nat) (t : Fin 4) (s : State) (w : W128) (c : Nat) : State :=
  let (s1, n) := takeEntry s p t w c .ct true
  let s2 := carryPoison s1 p n w
  let e := entryAt s2 p n
  let img := imageOf s c
  let df := decl img (hA w)
  let dn := decl img (hD w)
  let pn := pieceOf img (deviceId s) dn (lidOf s p)
  let pf := pieceOf img (deviceId s) df (lidOf s p)
  let op := bitsOf (modC w) 2 0
  let send1 (s : State) (js : List Nat) : State :=
    let f := addrA e js
    let s3 := parityPiece s p c pn [addrD e js]
    if 0 ≤ f && f < (df.lines : Int) then
      let q := linePrime img df pf f
      if op = 0 && q = 0 then countDrop s3 p c 1 else
      let id := s3.msgSeq
      let s4 := sendSlots s3 p n c (atomOp df op q) e.poison [(pieceSlot df f.toNat, readPiece s3 p c dn pn (addrD e js))]
      if op = 4 || op = 5 then modEntry s4 p n fun v => { v with dests := v.dests ++ [(id, addrD e js)] } else s4
    else
      let s4 := stallFault (countDrop s3 p c 1) p c t e.pc.toNat (hA w) (faultAction (imageOf s c) w) 0x0604
      grnCount s4 6 1
  if op ≤ 3 && (entryIts e).any (fun js => isPeerSlot img (pieceSlot df (addrA e js).toNat)) then
    -- a peer window packs the lines of the whole instruction (R347)
    let ok := (entryIts e).filter fun js => 0 ≤ addrA e js && addrA e js < (df.lines : Int)
    let s3 := (entryIts e).foldl (fun s js =>
      let s0 := parityPiece s p c pn [addrD e js]
      if 0 ≤ addrA e js && addrA e js < (df.lines : Int) then s0
      else grnCount (stallFault (countDrop s0 p c 1) p c t e.pc.toNat (hA w) (faultAction (imageOf s c) w) 0x0604) 6 1) s2
    -- a line whose slot has no prime is dropped under R169; the home reduces under its own prime
    let kept := ok.filter fun js => op ≠ 0 || linePrime img df pf (addrA e js) ≠ 0
    let s4 := countDrop s3 p c (ok.length - kept.length)
    sendSlots s4 p n c (atomOp df op 0) e.poison (kept.map fun js =>
      (pieceSlot df (addrA e js).toNat, readPiece s4 p c dn pn (addrD e js)))
  else (entryIts e).foldl send1 s2

/-! ### CT.COPY -/

/-- An ABSENT stall of a send: ENGINE_ABSENT is recorded and counted in YARD_CNT[0] (R275). -/
def recordAbsent (s : State) (p : Nat) (e : Entry) : State :=
  yardCount (stallFault s p e.ctx e.team e.pc.toNat (destHandle e.word) (faultAction (imageOf s e.ctx) e.word) 0x0102) 0 1

/-- A send to a logical ID that no ENABLED stall holds is discarded: ENGINE_ABSENT is recorded, counted in YARD_CNT[0],
and the instruction's completion action is lost (R275). -/
def engineAbsent (s : State) (p n : Nat) (e : Entry) : State :=
  modEntry (recordAbsent s p e) p n fun v => { v with mute := true, outRec := none }

/-- CT.COPY: a request for each iteration to the stall that holds the source (R122, R225). -/
def ctCopyRun (p : Nat) (t : Fin 4) (s : State) (w : W128) (c : Nat) : State :=
  let (s0, n) := takeEntry s p t w c .ct true
  let s1 := carryPoison s0 p n w
  let e := entryAt s1 p n
  let img := imageOf s c
  if entryIts e = [] then s1 else
  match posOfLid s (destLid w) with
  | none => engineAbsent s1 p n e
  | some q =>
    let ds := decl img (hA w)
    let dd := decl img (hD w)
    let pd := pieceOf img (deviceId s) dd (lidOf s p)
    let u := layUnit ds dd pd.lines
    (entryIts e).foldl (fun s js =>
      sendWaiting s p n (.stall q) c (.copyReq n (hA w) (laySources ds dd u (addrA e js) (addrD e js)) (addrD e js)) 0 false) s1

/-! ### CT.GATHER, CT.SCATTER, CT.SCATTERACC and CT.FILL -/

/-- The index in word k of an index line (R229). -/
def indexOf (l : Line) (k : Nat) : Int := signedOf 32 (wordAt l k).toNat

/-- CT.GATHER (R229). -/
def ctGatherRun (lim : Option Nat) (p n : Nat) (e : Entry) (s : State) : State :=
  let c := e.ctx
  let img := imageOf s c
  let da := decl img (hA e.word)
  let db := decl img (hB e.word)
  let dd := decl img (hD e.word)
  let pa := pieceOf img (deviceId s) da (lidOf s p)
  let pb := pieceOf img (deviceId s) db (lidOf s p)
  let pd := pieceOf img (deviceId s) dd (lidOf s p)
  let its := upTo lim (entryIts e)
  let s1 := its.foldl (fun s js =>
    let s2 := parityPiece s p c pb [addrB e js]
    let idx := readPiece s2 p c db pb (addrB e js)
    let at_ (k : Nat) : Option Int :=
      let x := indexOf idx k
      let t := 16 * addrA e js + x
      if 0 ≤ x && inPiece pa (t / 16) then some t else none
    let s3 := parityPiece s2 p c pa ((List.range 16).filterMap fun k => (at_ k).map (· / 16)).dedup
    let l : Line := (List.range 16).map fun k => match at_ k with
      | some t => wordAt (readPiece s3 p c da pa (t / 16)) (t % 16).toNat
      | none => da.fill
    putEntryLine s3 p e pd (addrD e js) (clearWords dd l)) s
  noteWrites s1 p n pd (its.map (addrD e))

/-- A line that holds a word at one place, over another line. -/
def putWord (l : Line) (j y : Nat) : Line := (List.range 16).map fun i => if i = j then BitVec.ofNat 36 y else wordAt l i

/-- CT.SCATTER and CT.SCATTERACC (R230): `acc` adds under the prime of the target's slot (R169) and writes back the line that
it has read. -/
def ctScatterRun (acc : Bool) (lim : Option Nat) (p n : Nat) (e : Entry) (s : State) : State :=
  let c := e.ctx
  let img := imageOf s c
  let da := decl img (hA e.word)
  let db := decl img (hB e.word)
  let dd := decl img (hD e.word)
  let pa := pieceOf img (deviceId s) da (lidOf s p)
  let pb := pieceOf img (deviceId s) db (lidOf s p)
  let pd := pieceOf img (deviceId s) dd (lidOf s p)
  (upTo lim (entryIts e)).foldl (fun s js =>
    let s1 := parityPiece (parityPiece s p c pa [addrA e js]) p c pb [addrB e js]
    let idx := readPiece s1 p c db pb (addrB e js)
    let src := clearWords dd (readPiece s1 p c da pa (addrA e js))
    (List.range 16).foldl (fun s k =>
      let x := indexOf idx k
      let t := 16 * addrD e js + x
      let l := t / 16
      let j := (t % 16).toNat
      let v := (wordAt src k).toNat
      if x < 0 || !inPiece pd l then countDrop s p c 1
      else if acc then
        let q := linePrime img dd pd l
        if q = 0 then countDrop s p c 1 else
        let s2 := parityPiece s p c pd [l]
        let old := readPiece s2 p c dd pd l
        noteWrites (writePiece s2 p c pd l (putWord old j (((wordAt old j).toNat % q + v % q) % q)) 0xFFFF) p n pd [l]
      else noteWrites (writePiece s p c pd l (putWord zeroLine j v) (2 ^ j)) p n pd [l]) s1) s

/-- CT.FILL (R122). -/
def ctFillRun (lim : Option Nat) (p n : Nat) (e : Entry) (s : State) : State :=
  let img := imageOf s e.ctx
  let dd := decl img (hD e.word)
  let pd := pieceOf img (deviceId s) dd (lidOf s p)
  let its := upTo lim (entryIts e)
  noteWrites (its.foldl (fun s js => putEntryLine s p e pd (addrD e js) (clearWords dd (List.replicate 16 dd.fill))) s)
    p n pd (its.map (addrD e))

/-- CT.LOAD (R57, R225, R226, R317). -/
def execCtLoad (p : Position) (t : TeamIx) (s : State) : Host.Outcome State Fault Refusal :=
  .next (issueOp s p t 0x70 (ctLoadRun p t))

/-- CT.STORE (R57, R225, R303). -/
def execCtStore (p : Position) (t : TeamIx) (s : State) : Host.Outcome State Fault Refusal :=
  .next (issueOp s p t 0x71 (ctStoreRun p t))

/-- CT.COPY (R122, R225). -/
def execCtCopy (p : Position) (t : TeamIx) (s : State) : Host.Outcome State Fault Refusal :=
  .next (issueOp s p t 0x72 (ctCopyRun p t))

/-- CT.GATHER (R229). -/
def execCtGather (p : Position) (t : TeamIx) (s : State) : Host.Outcome State Fault Refusal :=
  .next (issueOp s p t 0x73 (localIssue .ct p t))

/-- CT.SCATTER (R230). -/
def execCtScatter (p : Position) (t : TeamIx) (s : State) : Host.Outcome State Fault Refusal :=
  .next (issueOp s p t 0x74 (localIssue .ct p t))

/-- CT.SCATTERACC (R230). -/
def execCtScatteracc (p : Position) (t : TeamIx) (s : State) : Host.Outcome State Fault Refusal :=
  .next (issueOp s p t 0x75 (localIssue .ct p t))

/-- CT.FILL (R122). -/
def execCtFill (p : Position) (t : TeamIx) (s : State) : Host.Outcome State Fault Refusal :=
  .next (issueOp s p t 0x76 (localIssue .ct p t))

/-- CT.ATOM (R324, R325). -/
def execCtAtom (p : Position) (t : TeamIx) (s : State) : Host.Outcome State Fault Refusal :=
  .next (issueOp s p t 0x77 (ctAtomRun p t))

end Sys2Proof.Machine
end

