-- ==== Sys2Proof/Machine/Hbm.lean ====
section
/-!
DEFINITION. The HBM3E controllers (11): regions (R302, R306 to R311), decoding of reads (R313, R314), writes and the
write-combining buffer (R315, R316), repair (R318, R319), patrol and refresh (R320) and the loopback (R328).
-/

namespace Sys2Proof.Machine

/-! ### Regions -/

/-- A region of the table. -/
def regionAt (s : State) (i : Nat) : Region := nget {} s.hbm.regions i
/-- Change a region. -/
def modRegion (s : State) (i : Nat) (f : Region → Region) : State :=
  { s with hbm := { s.hbm with regions := nmod {} s.hbm.regions i f } }

/-- The bytes of a region that hold software data: all, or the first 8/9 of a corrected region (R308). -/
def dataBytes (r : Region) : Nat := let z := r.limit + 1 - r.base; if r.cls = 1 then 8 * z / 9 else z

/-- The LIVE region of an owner whose data part holds an address (R302). -/
def regionFor (s : State) (owner addr : Nat) : Option Nat :=
  (s.hbm.regions.find? fun e => e.2.st = .live && e.2.owner = owner && e.2.base ≤ addr && addr < e.2.base + dataBytes e.2).map (·.1)

/-- Whether a stack is in self-refresh: from reset to its training, while a core reset lasts, and around a loopback run (R328, R451). -/
def inSelfRefresh (s : State) (st : Nat) : Bool := s.hbm.selfRef || (nget none s.hbm.loop st).isSome

/-- Whether a controller performs requests: its stack is out of self-refresh and in no loopback run (R328). -/
def stackRuns (s : State) (st : Nat) : Bool := !inSelfRefresh s st

/-! ### Metadata slots -/

/-- Change the metadata slot of a page. -/
def modSlot (s : State) (page : Nat) (f : Slot → Slot) : State :=
  { s with hbm := { s.hbm with slots := nset { tally := tallyOf (List.replicate 64 zeroLine) } s.hbm.slots page (f (slotAt s page)) } }

/-- GPOISON of granule g. -/
def gpoison (s : State) (g : Nat) : Bool := (slotAt s (g / 16)).gpois.getLsbD (g % 16)

/-- Set or clear GPOISON of granule g. -/
def setGpoison (s : State) (g : Nat) (v : Bool) : State :=
  modSlot s (g / 16) fun x => { x with gpois :=
    if v then x.gpois ||| (1#16 <<< (g % 16)) else x.gpois &&& ~~~(1#16 <<< (g % 16)) }

/-! ### Faults and rows -/

/-- Repair state of a stack. -/
def repairOf (s : State) (st : Nat) : Repair := nget {} s.hbm.repair st

/-- The pseudo-channel of a granule, numbered stack x 32 + pseudo-channel (R301). -/
def channelOf (g : Nat) : Nat :=
  let q := g % 2 ^ 28 / 32
  g / 2 ^ 28 * 32 + ((g % 32) ^^^ (q % 32) ^^^ (q / 32 % 32))

/-- The row of a granule: its pseudo-channel, and row (R301). -/
def rowOf (g : Nat) : Nat := channelOf g * 2 ^ 24 + g % 2 ^ 28 / 32 / 4

/-- Spare page k of a stack (R300). -/
def spareAt (st k : Nat) : Nat := st * 2 ^ 24 + 0x8C4600 + k

/-- Where a granule stands: in its own page, or in the spare page that its page has moved to (R318). -/
def granulePlace (s : State) (g : Nat) : Nat :=
  let st := g / 2 ^ 28
  match (repairOf s st).spared.find? fun e => e.1 = g / 16 with
  | some e => 16 * spareAt st e.2 + g % 16
  | none => g

/-- The row in which a granule stands fails (R318). -/
def rowFails (s : State) (g : Nat) : State :=
  let r := rowOf (granulePlace s g)
  if s.hbm.failed.contains r then s else { s with hbm := { s.hbm with failed := s.hbm.failed ++ [r] } }

/-- A read that the inner code corrected: the 16th within 3,600,000,000,000 ns fails the row (R318). -/
def innerFix (s : State) (g : Nat) : State :=
  let r := rowOf (granulePlace s g)
  let ts := (s.ledger :: nget [] s.hbm.inner r).filter fun t => decide (now s < t.toNat + 3600000000000)
  let s1 := { s with hbm := { s.hbm with inner := nset [] s.hbm.inner r ts } }
  if 16 ≤ ts.length then rowFails s1 g else s1

/-- What a read shows of its row (R318): the inner code reports an uncorrectable error, the outer code corrected 3 symbols or more
of a codeword, or the inner code corrected. -/
def rowErrors (s : State) (r : Region) (g : Nat) (e : MemErr) : State :=
  let s1 := if e.inner then innerFix s g else s
  if e.innerBad || (r.cls = 1 && e.outer.any fun k => decide (3 ≤ k.val)) then rowFails s1 g else s1

/-- Interface retries made for an access (R313). -/
def retriesOf (e : MemErr) : Nat := if e.exhausted then 4 else e.retries.val

/-- A memory fault (R313, R314): HBM_FAULT, the report, and the recovery trigger where the request is the context's own
(R407). The address recorded is that of the granule, or of the slot. -/
def memFault (s : State) (g : Nat) (owner code retries : Nat) (slot : Bool) (own : Bool) : State :=
  let st := g / 2 ^ 28
  let a := if slot then (st * 2 ^ 36 + 0x8B3800000 + 32 * (g % 2 ^ 28 / 16)) / 256 else g
  let v := owner * 2 ^ 55 + retries * 2 ^ 48 + a % 2 ^ 32 * 2 ^ 16 + code
  let s1 := recordFirst s (0x0600010 + st * 0x10000) v
  let s2 := reportFault s1 (1010 + st) code (a % 2 ^ 32) (if owner < 64 then owner else 0xFF) 0x3FF 0 0xFFF
  if own then trigger s2 owner 0 else s2

/-! ### Reading a granule -/

/-- The bytes of a granule as a read returns them: the write buffer first, then the stack (R316). -/
def granuleBytes (s : State) (g : Nat) : List Byte :=
  let c := (nget none s.hbm.combine g).getD {}
  (List.range 256).map fun i => match c.bytes.find? fun b => b.1 = i with
    | some b => b.2
    | none => nget 0 s.hbm.mem (g * 256 + i)

/-- Whether the write buffer marks a granule poisoned. -/
def combinePoison (s : State) (g : Nat) : Bool := ((nget none s.hbm.combine g).getD {}).poison

/-- 256 bytes that the manual leaves open (DESIGN CHOICE, log 2). -/
def freeGranule (s : State) : List Byte × State := let (v, s1) := draw s; (leBytes 256 v, s1)

/-- A decode fault of a read: counted in HBM_CNT[i], recorded and reported; the granule comes back poisoned with no stated content
(R314). -/
def decodeFault (s : State) (g owner i code : Nat) (e : MemErr) (slot own : Bool) : List Byte × Bool × State :=
  let r := freeGranule (memFault (hbmCount s (g / 2 ^ 28) i 1) g owner code (retriesOf e) slot own)
  (r.1, true, r.2)

/-- A read of granule g in region r, decoded in the order of R313 and R314: bytes, poison mark, and the state with its
counts, faults and failed rows. A granule that comes back poisoned because of an error has no stated content. -/
def readGranule (s : State) (r : Region) (g : Nat) (e : MemErr) (own : Bool) : List Byte × Bool × State :=
  let st := g / 2 ^ 28
  let s0 := hbmCount s st 0 (retriesOf e)
  if e.exhausted then
    let x := freeGranule (memFault s0 g r.owner 0x0602 4 false own)
    (x.1, true, x.2)
  else
    let s1 := rowErrors s0 r g e
    if r.rpoison || gpoison s g || combinePoison s g then (granuleBytes s g, true, s1)
    else if (r.cls ≠ 1 && e.innerBad) || (r.cls = 1 && e.beyond) then decodeFault s1 g r.owner 3 0x0601 e false own
    else match e.mac with
      | some slot => decodeFault s1 g r.owner 4 0x0603 e slot own
      | none =>
        let s2 := hbmCount s1 st 1 (if e.inner then 1 else 0)
        (granuleBytes s g, false, hbmCount s2 st 2 (if r.cls = 1 then e.outer.length else 0))

/-- A granule enters the read buffer of its pseudo-channel, which holds the 8 most recently read (R317). -/
def noteRead (s : State) (g : Nat) : State :=
  let k := channelOf (granulePlace s g)
  { s with hbm := { s.hbm with recent := nset [] s.hbm.recent k ((g :: (nget [] s.hbm.recent k).filter (· ≠ g)).take 8) } }

/-- The read buffer holds a granule (R317). -/
def buffered (s : State) (g : Nat) : Bool := (nget [] s.hbm.recent (channelOf (granulePlace s g))).contains g

/-- A request's read: one that the read buffer serves makes no transfer and meets no error (R317). A granule that comes back
poisoned does not enter the buffer (DESIGN CHOICE, log 103). -/
def readRequest (s : State) (r : Region) (g : Nat) (e : MemErr) (own : Bool) : List Byte × Bool × State :=
  let x := readGranule s r g (if buffered s g then .clean else e) own
  (x.1, x.2.1, if x.2.1 then x.2.2 else noteRead x.2.2 g)

/-- A read by an owner: outside its LIVE regions zero words marked poisoned, counted in HBM_CNT[7] (R302). -/
def readFor (s : State) (owner g : Nat) (e : MemErr) (own : Bool) : List Byte × Bool × State :=
  match regionFor s owner (g * 256) with
  | none => (List.replicate 256 0, true, hbmCount s (g / 2 ^ 28) 7 1)
  | some i => readRequest s (regionAt s i) g e own

/-! ### Writing -/

/-- Write a whole granule into the stack; GPOISON becomes the poison mark (R305, R315). -/
def putGranule (s : State) (g : Nat) (d : List Byte) (poison : Bool) : State :=
  setGpoison { s with hbm := { s.hbm with mem := memWrite s.hbm.mem (g * 256) d, combine := nset none s.hbm.combine g none } } g poison

/-- The LIVE region in which a granule lies. -/
def liveRegion (s : State) (g : Nat) : Option (Nat × Region) :=
  s.hbm.regions.find? fun e => e.2.st = .live && e.2.base ≤ g * 256 && g * 256 ≤ e.2.limit

/-- The transfer of a whole granule into the stack, with what it meets (R313). When its retries are exhausted the content is
undefined and GPOISON is set; when those of the slot write are too, the region's RPOISON is set. -/
def sendGranule (s : State) (g : Nat) (d : List Byte) (poison : Bool) (e : MemErr) (own : Bool) : State :=
  let st := g / 2 ^ 28
  let s0 := hbmCount s st 0 (retriesOf e)
  if !e.exhausted then putGranule s0 g d poison else
  let owner := match liveRegion s g with
    | some x => x.2.owner
    | none => 64
  let x := freeGranule (memFault s0 g owner 0x0602 4 false own)
  let s1 := { x.2 with hbm := { x.2.hbm with mem := memWrite x.2.hbm.mem (g * 256) x.1, combine := nset none x.2.hbm.combine g none } }
  if !e.slotToo then setGpoison s1 g true else
  let s2 := memFault (hbmCount s1 st 0 4) g owner 0x0602 4 false own
  match liveRegion s g with
  | some y => modRegion s2 y.1 fun r => { r with rpoison := true }
  | none => s2

/-- What the write buffer holds of a granule once some bytes are written to it. A write of the whole granule leaves nothing of an
earlier one, nor of its mark (R305). -/
def mergeBytes (s : State) (g : Nat) (bs : List (Nat × Byte)) (poison : Bool) : Combine :=
  let c := (nget none s.hbm.combine g).getD {}
  let rest := c.bytes.filter fun b => !(bs.any fun x => x.1 = b.1)
  { bytes := bs ++ rest, poison := poison || (c.poison && bs.length ≠ 256), at_ := s.ledger }

/-- Bytes written to one granule: into the write buffer, and on to the stack once all 256 are there (R315). -/
def writeGranule (s : State) (g : Nat) (bs : List (Nat × Byte)) (poison : Bool) (e : MemErr) (own : Bool) : State :=
  let k := mergeBytes s g bs poison
  let s1 := { s with hbm := { s.hbm with combine := nset none s.hbm.combine g (some k) } }
  if k.bytes.length = 256 then sendGranule s1 g (granuleBytes s1 g) k.poison e own else s1

/-- The cells of a list that lie in a granule. -/
def cellsIn (bs : List Host.Cell) (g : Nat) : List (Nat × Byte) :=
  (bs.filter fun b => b.1 / 256 = g).map fun b => (b.1 % 256, b.2)

/-- The granules in which cells of a list lie. -/
def cellGranules (bs : List Host.Cell) : List Nat := (bs.map (·.1 / 256)).dedup

/-- Bytes at device addresses, granule by granule, with what the transfers meet. -/
def storeBytes (s : State) (bs : List Host.Cell) (poison : Bool) (errs : MemErrs) (own : Bool) : State :=
  (cellGranules bs).foldl (fun s g => writeGranule s g (cellsIn bs g) poison (errs.at_ g) own) s

/-- Bytes at device addresses, where no transfer fails (log 55). -/
def writeBytes (s : State) (bs : List Host.Cell) (poison : Bool) : State := storeBytes s bs poison [] false

/-- A transfer into the stack that some cells complete exhausts its retries. -/
def writeFails (s : State) (bs : List Host.Cell) (errs : MemErrs) : Bool :=
  (cellGranules bs).any fun g => (mergeBytes s g (cellsIn bs g) false).bytes.length = 256 && (errs.at_ g).exhausted

/-- The bytes of a line of a piece at a base. -/
def lineCells (d : HDecl) (base l : Nat) (x : Line) : List Host.Cell :=
  ((lineSpans d l).zip (lineToSpans d x)).flatMap fun (sp, bs) => (bs.zipIdx).map fun (b, i) => (base + sp.1 + i, b)

/-- A line of a piece as it stands at a base. -/
def lineAt (s : State) (d : HDecl) (base l : Nat) : Line :=
  spansToLine d ((lineSpans d l).map fun (o, n) => (List.range n).map fun i =>
    let a := base + o + i
    match (((nget none s.hbm.combine (a / 256)).getD {}).bytes.find? fun b => b.1 = a % 256) with
    | some b => b.2
    | none => nget 0 s.hbm.mem a)

/-- The 64 lines of a block as they stand. -/
def blockLines (s : State) (d : HDecl) (base b : Nat) : List Line :=
  (List.range 64).map fun k => lineAt s d base (64 * b + k)

/-- Store lines of a block and fill its metadata slot: RECORD, LAYOUT and the tally of all 64 lines as they then stand (R57, R304,
R395). -/
def storeLines (s : State) (d : HDecl) (base : Nat) (lines : List (Nat × Line)) (poison : Bool) (rec_ : W128) (errs : MemErrs)
    (own : Bool) : State :=
  let b := match lines with
    | [] => 0
    | x :: _ => x.1 / 64
  let s1 := storeBytes s (lines.flatMap fun x => lineCells d base x.1 x.2) poison errs own
  modSlot s1 (blockPage d base (64 * b)) fun x => { x with
    record := rec_, tally := tallyOf (blockLines s1 d base b), layout := d.layout }

/-- Store lines of a block, where no transfer fails (log 55). -/
def storeBlock (s : State) (d : HDecl) (base : Nat) (lines : List (Nat × Line)) (poison : Bool) (rec_ : W128) : State :=
  storeLines s d base lines poison rec_ [] false

/-- A granule of a block's other lines is read for the tally: one that reads poisoned takes GPOISON, and one whose read failed leaves
the tally open (R395; DESIGN CHOICE, log 2). -/
def tallyRead (page : Nat) (errs : MemErrs) (s : State) (g : Nat) : State :=
  match liveRegion s g with
  | none => s
  | some (_, r) =>
    let x := readGranule s r g (errs.at_ g) true
    if !x.2.1 then x.2.2
    else if r.rpoison || gpoison s g || combinePoison s g then setGpoison x.2.2 g true
    else
      let v := draw (setGpoison x.2.2 g true)
      modSlot v.2 page fun y => { y with tally := v.1 % 2 ^ 32 }

/-! ### The rows -/

/-- A durable block whose pending entry belongs to an earlier epoch that has not committed waits (R406). -/
def durableWaits (s : State) (c h b : Nat) : Bool :=
  (recOf s c).durable.any fun e => e.1 = h && e.2.1 = b && e.2.2 ≠ currentEpoch s c

/-- HBM_READ_REQUEST: a read request of a stall arrives, is decoded and answered (R302, R314, R316, R406). -/
def execHbmReadRequest (m : Nat) (err : MemErr) (s : State) : Host.Outcome State Fault Refusal :=
  .next (match arriving s m with
    | some ⟨id, src, .hbm st, _, c, .hbmRead n h g⟩ =>
      let d := decl (imageOf s c) h
      let b := granBlock d g
      if !stackRuns s st || (isDurable d && durableWaits s c h b) then s else
      let g1 := if isDurable d then (currentBase s d b - d.base) / 256 + g else g
      let (data, poison, s1) := readFor s c g1 err true
      send (dropMsg s1 m) (.hbm st) src .rsp c (.hbmRet id n g data poison)
    | _ => s)

/-- HBM_WRITE_REQUEST: the group of lines that a CT.STORE writes into one block. A write whose transfer fails after its
retries leaves the granule undefined and poisoned, and RPOISON where the slot write fails too (R313); a tally mismatch
poisons every granule of the group (R396); the block's other lines are read for the tally (R395); the write is acknowledged once it
sits in the write buffer (R316), as poisoned where its transfer failed. -/
def execHbmWriteRequest (m : Nat) (bad : Bool) (errs : MemErrs) (s : State) : Host.Outcome State Fault Refusal :=
  .next (match arriving s m with
    | some ⟨id, src, .hbm st, _, c, .hbmWrite _ h lines poison rec_⟩ =>
      let d := decl (imageOf s c) h
      let b := match lines with
        | [] => 0
        | x :: _ => x.1 / 64
      if !stackRuns s st || (isDurable d && durableWaits s c h b) then s else
      let base := if isDurable d then (if mapBit s d b then d.base else d.base + placeBytes d) else d.base
      if (regionFor s c (base + ((lineSpans d (64 * b)).map (·.1)).headD 0)).isNone then
        send (hbmCount (dropMsg s m) st 7 1) (.hbm st) src .rsp c (.ack id false false)
      else
        let s0 := dropMsg s m
        let s1 := if isDurable d then modRec s0 c fun r =>
            let e := (h, b, currentEpoch s c)
            if r.durable.contains e then r else { r with durable := r.durable ++ [e] }
          else s0
        let at_ (ls : List Nat) : List Nat := (ls.flatMap fun l => lineGranules { d with base := base } l).dedup
        let s2 := storeLines s1 d base lines (poison || bad) rec_ errs true
        let s3 := if bad then (at_ (lines.map (·.1))).foldl (fun s g => setGpoison s g true) s2 else s2
        let rest := ((List.range 64).map fun k => 64 * b + k).filter fun l => !(lines.any fun x => x.1 = l)
        let s4 := (at_ rest).foldl (tallyRead (blockPage d base (64 * b)) errs) s3
        send s4 (.hbm st) src .rsp c
          (.ack id (bad || writeFails s1 (lines.flatMap fun x => lineCells d base x.1 x.2) errs) bad)
    | _ => s)

/-- WRITE_COMBINE_TIMEOUT: 64 Yard cy of 0.625 ns after the last write to a partly written granule, it is read under R314, merged
and written back (R24, R315). -/
def execWriteCombineTimeout (st : StackIx) (g : Nat) (err : MergeErrs) (s : State) : Host.Outcome State Fault Refusal :=
  .next (match nget none s.hbm.combine g with
    | none => s
    | some k =>
      if g / 2 ^ 28 ≠ st.val || now s < k.at_.toNat + 40 then s else
      let s0 := { s with hbm := { s.hbm with combine := nset none s.hbm.combine g none } }
      match liveRegion s g with
      | none => s0
      | some (_, r) =>
        let (d, poison, s1) := readGranule s0 r g err.read true
        let merged := (List.range 256).map fun i => match k.bytes.find? fun b => b.1 = i with
          | some b => b.2
          | none => d.getD i 0
        sendGranule s1 g merged (poison || k.poison) err.write true)

/-- The pages of a row: the granules at offsets 4 row to 4 row + 3 of its pseudo-channel (R301). -/
def rowPages (st pc row : Nat) : List Nat :=
  (List.range 4).map fun k =>
    let q := 4 * row + k
    st * 2 ^ 24 + (q * 32 + (pc ^^^ (q % 32) ^^^ (q / 32 % 32))) / 16

/-- A page is one of the 4,096 spare pages of its stack (R300). -/
def isSpare (x : Nat) : Bool := decide (0x8C4600 ≤ x % 2 ^ 24 ∧ x % 2 ^ 24 < 0x8C4600 + 4096)

/-- Spare pages of a stack that are not unused. -/
def sparesUsed (r : Repair) : Nat := r.spared.length + r.lost.length

/-- The pages whose data stand in a physical page: those moved to a spare page, or the page itself where it has not moved. -/
def dataPages (r : Repair) (x : Nat) : List Nat :=
  if isSpare x then (r.spared.filter fun e => e.2 = x % 2 ^ 24 - 0x8C4600).map (·.1)
  else if r.spared.any fun e => e.1 = x then [] else [x]

/-- The first n unused spare pages of a stack, by number. -/
def freeSpares (r : Repair) (n : Nat) : List Nat :=
  ((List.range (min 4096 (sparesUsed r + n))).filter fun k => !(r.spared.any fun e => e.2 = k) && !r.lost.contains k).take n

/-- A page is copied granule by granule as R314 delivers it; a granule delivered poisoned takes GPOISON, and what the read delivered
where it failed (R318). A page outside every LIVE region holds nothing to copy. -/
def copyPage (errs : MemErrs) (s : State) (x : Nat) : State :=
  (List.range 16).foldl (fun s k =>
    let g := 16 * x + k
    match liveRegion s g with
    | none => s
    | some (_, r) =>
      let y := readGranule s r g (errs.at_ g) false
      if !y.2.1 then y.2.2 else
      let s1 := setGpoison y.2.2 g true
      if gpoison s g || r.rpoison || combinePoison s g then s1
      else { s1 with hbm := { s1.hbm with mem := memWrite s1.hbm.mem (g * 256) y.1 } }) s

/-- The repair state of a stack once the pages `held` of a failed row have moved (R318, R319). -/
def movedPages (rp : Repair) (key : Nat) (row held : List Nat) (pend : Bool) : Repair :=
  let lost := (row.filter isSpare).map fun x => x % 2 ^ 24 - 0x8C4600
  let kept := rp.spared.filter fun e => !held.contains e.1
  { rp with
    spared := kept ++ held.zip (freeSpares { rp with lost := rp.lost ++ lost } held.length)
    lost := rp.lost ++ lost.filter fun k => !rp.lost.contains k
    pending := if pend then rp.pending ++ [key] else rp.pending
    retired := if pend then rp.retired
      else rp.retired ++ ((row.filter fun x => !isSpare x) ++ held).dedup.filter fun x => !rp.retired.contains x }

/-- ROW_REPAIR: the pages of a failed row move to spare pages; the row then awaits repair, or its pages are retired
(R318, R319). With too few spare pages left the row stays in use, SPARES_EXHAUSTED is set and the Ostler gets a report, whose code
the spec does not give (DESIGN CHOICE, log 104). -/
def execRowRepair (st : StackIx) (pc : Fin 32) (row : Nat) (ppr : Bool) (errs : MemErrs) (s : State) :
    Host.Outcome State Fault Refusal :=
  .next (
    let key := (st.val * 32 + pc.val) * 2 ^ 24 + row
    if !s.hbm.failed.contains key then s else
    let s0 := { s with hbm := { s.hbm with failed := s.hbm.failed.filter (· ≠ key) } }
    let rp := repairOf s st
    let pages := rowPages st pc row
    let held := pages.flatMap (dataPages rp)
    let pend := !(rp.remapped.contains key || rp.pending.contains key) && ppr
    let rp1 := movedPages rp key pages held pend
    if rp1.spared.length < (rp.spared.filter fun e => !held.contains e.1).length + held.length then
      reportOstler (csrSetField s0 (0x0600000 + st * 0x10000) 63 63 1) (1010 + st) 0x0600 0 0xFF
    else
      let s1 := held.foldl (copyPage errs) s0
      let s2 := { s1 with hbm := { s1.hbm with repair := nset {} s1.hbm.repair st rp1 } }
      let s3 := hbmCount s2 st 5 1
      if pend then s3 else hbmCount s3 st 6 (rp1.retired.length - rp.retired.length))

/-- REFRESH delays accesses to its bank and changes nothing else (R320). -/
def execRefresh (_st : StackIx) (_pc : Fin 32) (_bank : Nat) (s : State) : Host.Outcome State Fault Refusal := .next s

/-- PATROL: a granule of a corrected region or of the protection store is read and decoded; what the outer code
corrected is written back, faults are recorded and reported and trigger nothing (R314, R320, R407). -/
def execPatrol (st : StackIx) (g : Nat) (err : MemErr) (s : State) : Host.Outcome State Fault Refusal :=
  .next (
    if g / 2 ^ 28 ≠ st.val || !stackRuns s st then s else
    let off := g % 2 ^ 28 * 256
    if 0x870000000 ≤ off && off ≤ 0x8FFFFFFFF then (readGranule s { cls := 1, owner := 64 } g err false).2.2 else
    match liveRegion s g with
    | none => s
    | some (_, r) => if r.cls = 1 then (readGranule s r g err false).2.2 else s)

/-- Nothing is left of the bytes, slots, write buffer and read buffer of a region. -/
def wipeRegion (s : State) (x : Region) : State :=
  { s with hbm := { s.hbm with
    mem := nclear s.hbm.mem x.base (x.limit + 1), slots := nclear s.hbm.slots (x.base / 4096) (x.limit / 4096 + 1),
    combine := nclear s.hbm.combine (x.base / 256) (x.limit / 256 + 1),
    recent := (s.hbm.recent.map fun e => (e.1, e.2.filter fun g => !(decide (x.base ≤ g * 256 ∧ g * 256 ≤ x.limit)))).filter fun e => e.2 ≠ [] } }

/-- REGION_INIT_DONE: every granule zero, every slot as the initial fill writes it, and the region LIVE (R310); the controller
fills nothing while its stack is in a loopback run (R328). -/
def execRegionInitDone (r : Fin 64) (s : State) : Host.Outcome State Fault Refusal :=
  .next (
    let x := regionAt s r
    if x.st ≠ .init || !stackRuns s (stackOf x.base) then s else modRegion (wipeRegion s x) r fun y => { y with st := .live })

/-- The regions of an owner that are not FREE have all been scrubbed: its key slot is erased, and only then the entries become FREE
(R311). -/
def freeRegions (s : State) (owner : Nat) : State :=
  if s.hbm.regions.any fun e => e.2.st ≠ .free && e.2.owner = owner && !e.2.erased then s else
  { s with hbm := { s.hbm with
    keys := nset none s.hbm.keys owner none,
    regions := s.hbm.regions.filter fun e => !(e.2.st ≠ .free && e.2.owner = owner) } }

/-- REGION_SCRUB_DONE: every granule, check symbol, MAC and slot of the region is zero bytes; after the owner's last region
the key slot is erased and the entries are FREE (R311). -/
def execRegionScrubDone (r : Fin 64) (s : State) : Host.Outcome State Fault Refusal :=
  .next (
    let x := regionAt s r
    if x.st ≠ .scrub || x.erased then s else
    freeRegions (modRegion (wipeRegion s x) r fun y => { y with erased := true }) x.owner)

/-- A write of HBM_LOOP: START begins a run only while no region of the stack is in use (R328). -/
def writeLoop (s : State) (st : Nat) (value : W64) : State :=
  let o := 0x0600200 + st * 0x10000
  let s1 := csrSetField s o 23 8 (bitsOf value.toNat 23 8)
  let s2 := if value.getLsbD 62 then csrSetField s1 o 62 62 0 else s1
  let used := s.hbm.regions.any fun e => e.2.st ≠ .free && e.2.base / 2 ^ 36 = st
  if value.getLsbD 0 && !used && (nget none s.hbm.loop st).isNone then
    csrSetField { s2 with hbm := { s2.hbm with loop := nset none s2.hbm.loop st (some s.ledger) } } o 63 63 1
  else s2

/-- HBM_LOOP_START. -/
def execHbmLoopStart (st : StackIx) (value : W64) (s : State) : Host.Outcome State Fault Refusal :=
  .next (writeLoop s st.val value)

/-- HBM_LOOP_DONE: the run has lasted DURATION_US; ERRORS takes its bit errors and DONE is set (R328). -/
def execHbmLoopDone (st : StackIx) (errors : Nat) (s : State) : Host.Outcome State Fault Refusal :=
  .next (
    let o := 0x0600200 + st.val * 0x10000
    match nget none s.hbm.loop st with
    | none => s
    | some t0 =>
      if now s < t0.toNat + 1000 * csrField s o 23 8 then s else
      let s1 := { s with hbm := { s.hbm with loop := nset none s.hbm.loop st none } }
      csrSetField (csrSetField (csrSetField s1 o 55 24 (min errors 0xFFFFFFFF)) o 63 63 0) o 62 62 1)

end Sys2Proof.Machine
end

