-- ==== Sys2Proof/Machine/Peer.lean ====
section
/-!
DEFINITION. Source flows of peer windows: the WRITE, ATOMIC, COMMIT and REVOKE flits that a context sends, and the
acknowledgement of what it sent (R347, R349, R350, R353, R354).
-/

namespace Sys2Proof.Machine

/-- The flow of a context to a device and job in a list. -/
def findFlow (fs : List Flow) (dst job : Nat) : Option Flow := fs.find? fun f => f.dst = dst && f.job = job

/-- The DSEQ that a flow to a device and job sends next: one count for the device, whichever of its contexts sends (R350); it
starts at 0 (DESIGN CHOICE, log 22). -/
def nextDseq (s : State) (dst job : Nat) : Nat :=
  ((s.recs.flatMap fun e => (findFlow e.2.flows dst job).toList).map (·.dseq)).headD 0

/-- What a context sends on the flow to a device and job. -/
def flowOf (s : State) (c dst job : Nat) : Flow :=
  (findFlow (recOf s c).flows dst job).getD { dst := dst, job := job, dseq := nextDseq s dst job }

/-- Replace a flow in a list. -/
def setFlow (fs : List Flow) (f : Flow) : List Flow :=
  if fs.any fun x => x.dst = f.dst && x.job = f.job then
    fs.map fun x => if x.dst = f.dst && x.job = f.job then f else x
  else fs ++ [f]

/-- Change the flow of a context to a device and job. -/
def modFlow (s : State) (c dst job : Nat) (g : Flow → Flow) : State :=
  modRec s c fun r => { r with flows := setFlow r.flows (g (flowOf s c dst job)) }

/-- A flit has taken the next DSEQ of the flow to a device and job (R350). -/
def countDseq (s : State) (dst job : Nat) : State :=
  { s with recs := s.recs.map fun e => (e.1, { e.2 with flows := e.2.flows.map fun f =>
      if f.dst = dst && f.job = job then { f with dseq := (f.dseq + 1) % 2 ^ 16 } else f }) }

/-- The OP field of an ATOMIC flit (R324). -/
def opCode (op : GrnOp) : Nat :=
  match op with
  | .intAdd _ => 1
  | .min _ => 2
  | .max _ => 3
  | _ => 0

/-- The body of a WRITE or ATOMIC flit (R334). -/
def writeBody (job epoch slot op tally : Nat) (lines : List Line) : List Byte :=
  leBytes 4 job ++ leBytes 4 epoch ++ leBytes 4 (slot % 2 ^ 21 + op * 2 ^ 29) ++ leBytes 4 tally ++ lines.flatMap lineBytes

/-- Byte 15 of a WRITE or ATOMIC flit: LINES, LPOISON, BLK_LAST (R332). -/
def writeFlags (lines : Nat) (poison : Bool) (last : Bool) : Nat :=
  lines + (if poison then (2 ^ lines - 1) * 4 else 0) + (if last then 32 else 0)

/-- Send the lines of a peer message as one flit on its flow (R347, R350); the message stays unacknowledged until its
WACK entry (R349). -/
def sendPeer (s : State) (c id pos : Nat) (slot : Nat) (op : GrnOp) (lines : List Line) (poison : Bool) (tally : Option Nat)
    (epoch : Nat) : State :=
  match windowOf (imageOf s c) slot with
  | none => s
  | some w =>
    let k := (flowOf s c w.peer w.job).dseq
    let home := w.peerSlot0 + (slot - w.offset / 128)
    let flit := mkFlit s (if op = .write then 2 else 3) 0 w.peer k (writeFlags lines.length poison tally.isSome)
      (writeBody w.job (epoch % 2 ^ 32) home (opCode op) (tally.getD 0) lines)
    let s1 := modFlow s c w.peer w.job fun f => { f with
      sent := f.sent ++ [{ dseq := k, lines := lines.length, epoch := epoch, at_ := s.ledger, pos := pos, ids := [id] }],
      epochs := if f.epochs.contains epoch then f.epochs else f.epochs ++ [epoch] }
    sendFlit (countDseq s1 w.peer w.job) 0 flit

/-- Send COMMIT(E) on a flow that carries data of an epoch at or before E that is still pending (R353). -/
def sendCommit (s : State) (c dst job epoch : Nat) : State :=
  let f := flowOf s c dst job
  if f.epochs.any (· ≤ epoch) then
    let s1 := sendFlit s 0 (mkFlit s 4 0 dst f.dseq 0 (leBytes 4 job ++ leBytes 4 epoch))
    modFlow (countDseq s1 dst job) c dst job fun f => { f with epochs := f.epochs.filter fun e => !(e ≤ epoch) }
  else s

/-- Send COMMIT(E) on each flow of a context (R353). -/
def sendCommits (s : State) (c epoch : Nat) : State :=
  (recOf s c).flows.foldl (fun s f => sendCommit s c f.dst f.job epoch) s

/-- Send REVOKE(E, END) on each flow that carries data of epoch E or later, and COMMIT(last committed epoch) as packet
END (R354). -/
def sendRevokes (s : State) (c epoch : Nat) : State :=
  (recOf s c).flows.foldl (fun s f =>
    if f.epochs.any (epoch ≤ ·) then
      let k := (flowOf s c f.dst f.job).dseq
      let s1 := sendFlit s 0 (mkFlit s 6 1 f.dst 0 0 (leBytes 4 f.job ++ leBytes 4 epoch ++ leBytes 2 k))
      let s2 := sendFlit s1 0 (mkFlit s1 4 0 f.dst k 0 (leBytes 4 f.job ++ leBytes 4 (recOf s c).commitNo))
      modFlow (rlDevCount (countDseq s2 f.dst f.job) 3) c f.dst f.job fun g => { g with
        epochs := g.epochs.filter fun e => e < epoch && !(e ≤ (recOf s c).commitNo) }
    else s) s

/-- Acknowledge what was sent under a DSEQ: each message of the stall that sent it is acknowledged, poisoned or not; a
poisoned one is a recovery trigger (R349, R407). -/
def ackSent (s : State) (c dst job dseq : Nat) (poison : Bool) : State :=
  match (flowOf s c dst job).sent.find? fun x => x.dseq = dseq with
  | none => s
  | some x =>
    let s1 := modFlow s c dst job fun f => { f with sent := f.sent.filter fun y => y.dseq ≠ dseq }
    let s2 := x.ids.foldl (fun s id => send s .yardmaster (.stall x.pos) .rsp c (.ack id poison false)) s1
    if poison then trigger s2 c 0 else s2

end Sys2Proof.Machine
end

