-- ==== Sys2Proof/Machine/Hash.lean ====
section
/-!
DEFINITION. SHAKE-256 (R244), SHA-256, HMAC and HKDF (R420, R422), as the published algorithms that the rules name.
-/

namespace Sys2Proof.Machine

/-- A 64-bit word rotated left. -/
def rol64 (x n : Nat) : Nat := (x * 2 ^ n + x / 2 ^ (64 - n)) % 2 ^ 64

/-- Round constants of Keccak-f[1600]. -/
def keccakRC : List Nat :=
  [0x1, 0x8082, 0x800000000000808A, 0x8000000080008000, 0x808B, 0x80000001, 0x8000000080008081, 0x8000000000008009,
   0x8A, 0x88, 0x80008009, 0x8000000A, 0x8000808B, 0x800000000000008B, 0x8000000000008089, 0x8000000000008003,
   0x8000000000008002, 0x8000000000000080, 0x800A, 0x800000008000000A, 0x8000000080008081, 0x8000000000008080,
   0x80000001, 0x8000000080008008]

/-- Rotation offsets by lane x + 5y. -/
def keccakRot : List Nat := [0, 1, 62, 28, 27, 36, 44, 6, 55, 20, 3, 10, 43, 25, 39, 41, 45, 15, 21, 8, 18, 2, 61, 56, 14]

/-- One round of Keccak-f[1600] over 25 lanes. -/
def keccakRound (a : List Nat) (rc : Nat) : List Nat :=
  let g (l : List Nat) (i : Nat) : Nat := l.getD i 0
  let c := (List.range 5).map fun x => g a x ^^^ g a (x + 5) ^^^ g a (x + 10) ^^^ g a (x + 15) ^^^ g a (x + 20)
  let d := (List.range 5).map fun x => g c ((x + 4) % 5) ^^^ rol64 (g c ((x + 1) % 5)) 1
  let t := (List.range 25).map fun i => g a i ^^^ g d (i % 5)
  -- B[y, 2x + 3y] = rot(A[x, y]): lane (X, Y) of B comes from x = (X + 3Y) mod 5, y = X
  let b := (List.range 25).map fun i =>
    let x := (i % 5 + 3 * (i / 5)) % 5
    let y := i % 5
    rol64 (g t (x + 5 * y)) (g keccakRot (x + 5 * y))
  let e := (List.range 25).map fun i =>
    let y := i / 5
    g b i ^^^ ((2 ^ 64 - 1 - g b ((i % 5 + 1) % 5 + 5 * y)) &&& g b ((i % 5 + 2) % 5 + 5 * y))
  e.set 0 (g e 0 ^^^ rc)

/-- Keccak-f[1600]. -/
def keccakF (a : List Nat) : List Nat := keccakRC.foldl keccakRound a

/-- The state of SHAKE-256 after absorbing a message shorter than one rate of 136 bytes. -/
def shakeStart (m : List Byte) : List Nat :=
  let b := m ++ [0x1F] ++ List.replicate (136 - 1 - m.length) 0
  let b1 := b.set 135 (b.getD 135 0 ||| 0x80)
  keccakF ((List.range 25).map fun i => if i < 17 then fieldAt b1 (8 * i) 8 else 0)

/-- Accept candidates of one rate block into a block of k1 (R244). -/
def acceptRate (q b : Nat) (lanes : List Nat) (acc : List Nat) : List Nat :=
  (lanes.take 17).foldl (fun acc v =>
    let x := v % 2 ^ b
    if acc.length < 1024 && x < q then acc ++ [x] else acc) acc

/-- The words of one block of k1, by rejection (R244); the first argument bounds the permutations. -/
def expandGo (q b : Nat) : Nat → List Nat → List Nat → List Nat
  | 0, _, acc => acc
  | k + 1, st, acc =>
    let acc1 := acceptRate q b st acc
    if 1024 ≤ acc1.length then acc1 else expandGo q b k (keccakF st) acc1

/-- k1 of slot x: N words in the key handle's layout order (R244). -/
def expandSlot (seed : List Byte) (q x n : Nat) : List Nat :=
  (List.range (n / 1024)).flatMap fun c =>
    expandGo q (Nat.log2 q + 1) 100000
      (shakeStart (seed ++ [1, BitVec.ofNat 8 x] ++ leBytes 2 c ++ leBytes 4 0)) []

/-! ### SHA-256 -/

/-- A 32-bit word rotated right. -/
def ror32 (x n : Nat) : Nat := (x / 2 ^ n + x * 2 ^ (32 - n)) % 2 ^ 32

/-- Round constants of SHA-256. -/
def sha256K : List Nat :=
  [0x428A2F98, 0x71374491, 0xB5C0FBCF, 0xE9B5DBA5, 0x3956C25B, 0x59F111F1, 0x923F82A4, 0xAB1C5ED5,
   0xD807AA98, 0x12835B01, 0x243185BE, 0x550C7DC3, 0x72BE5D74, 0x80DEB1FE, 0x9BDC06A7, 0xC19BF174,
   0xE49B69C1, 0xEFBE4786, 0x0FC19DC6, 0x240CA1CC, 0x2DE92C6F, 0x4A7484AA, 0x5CB0A9DC, 0x76F988DA,
   0x983E5152, 0xA831C66D, 0xB00327C8, 0xBF597FC7, 0xC6E00BF3, 0xD5A79147, 0x06CA6351, 0x14292967] ++
  [0x27B70A85, 0x2E1B2138, 0x4D2C6DFC, 0x53380D13, 0x650A7354, 0x766A0ABB, 0x81C2C92E, 0x92722C85,
   0xA2BFE8A1, 0xA81A664B, 0xC24B8B70, 0xC76C51A3, 0xD192E819, 0xD6990624, 0xF40E3585, 0x106AA070,
   0x19A4C116, 0x1E376C08, 0x2748774C, 0x34B0BCB5, 0x391C0CB3, 0x4ED8AA4A, 0x5B9CCA4F, 0x682E6FF3,
   0x748F82EE, 0x78A5636F, 0x84C87814, 0x8CC70208, 0x90BEFFFA, 0xA4506CEB, 0xBEF9A3F7, 0xC67178F2]

/-- One round over the eight working words. -/
def sha256Round (v : List Nat) (kw : Nat) : List Nat :=
  let g (i : Nat) : Nat := v.getD i 0
  let s1 := ror32 (g 4) 6 ^^^ ror32 (g 4) 11 ^^^ ror32 (g 4) 25
  let ch := (g 4 &&& g 5) ^^^ ((2 ^ 32 - 1 - g 4) &&& g 6)
  let t1 := g 7 + s1 + ch + kw
  let s0 := ror32 (g 0) 2 ^^^ ror32 (g 0) 13 ^^^ ror32 (g 0) 22
  let maj := (g 0 &&& g 1) ^^^ (g 0 &&& g 2) ^^^ (g 1 &&& g 2)
  [(t1 + s0 + maj) % 2 ^ 32, g 0, g 1, g 2, (g 3 + t1) % 2 ^ 32, g 4, g 5, g 6]

/-- Extend the message schedule, newest word first. -/
def sha256Ext : Nat → List Nat → List Nat
  | 0, w => w
  | k + 1, w =>
    let g (i : Nat) : Nat := w.getD i 0
    let s0 := ror32 (g 14) 7 ^^^ ror32 (g 14) 18 ^^^ (g 14 / 8)
    let s1 := ror32 (g 1) 17 ^^^ ror32 (g 1) 19 ^^^ (g 1 / 1024)
    sha256Ext k ((g 15 + s0 + g 6 + s1) % 2 ^ 32 :: w)

/-- Compress one block of 16 words. -/
def sha256Block (h : List Nat) (blk : List Nat) : List Nat :=
  let w := (sha256Ext 48 blk.reverse).reverse
  let v := (sha256K.zip w).foldl (fun v kw => sha256Round v (kw.1 + kw.2)) h
  (List.range 8).map fun i => (h.getD i 0 + v.getD i 0) % 2 ^ 32

/-- SHA-256 of a byte string. -/
def sha256 (m : List Byte) : List Byte :=
  let z := (119 - m.length % 64) % 64
  let b := m ++ [0x80] ++ List.replicate z 0 ++ beBytes 8 (8 * m.length)
  let h0 := [0x6A09E667, 0xBB67AE85, 0x3C6EF372, 0xA54FF53A, 0x510E527F, 0x9B05688C, 0x1F83D9AB, 0x5BE0CD19]
  let h := (List.range (b.length / 64)).foldl (fun h i =>
    sha256Block h ((List.range 16).map fun j => beNat ((b.drop (64 * i + 4 * j)).take 4))) h0
  h.flatMap (beBytes 4)

/-- HMAC-SHA-256. -/
def hmac256 (key m : List Byte) : List Byte :=
  let k0 := if 64 < key.length then sha256 key else key
  let k := k0 ++ List.replicate (64 - k0.length) 0
  sha256 (k.map (· ^^^ 0x5C) ++ sha256 (k.map (· ^^^ 0x36) ++ m))

/-- HKDF-SHA-256 of at most 8,160 bytes. -/
def hkdf256 (salt ikm info : List Byte) (n : Nat) : List Byte :=
  let prk := hmac256 salt ikm
  ((List.range (ceilDiv n 32)).foldl (fun (acc : List Byte × List Byte) i =>
    let t := hmac256 prk (acc.1 ++ info ++ [BitVec.ofNat 8 (i + 1)])
    (t, acc.2 ++ t)) ([], [])).2.take n

end Sys2Proof.Machine
end

