-- ==== Sys2Proof/Machine/Tack.lean ====
section
/-!
DEFINITION. The Tack Room (15): measurement registers (R422), key derivation (R421), packages (R428, R429), gate slots
(R435 to R437), denial of a release (R439) and debug accesses (R443 to R446).
-/

namespace Sys2Proof.Machine

/-! ### Measurements (R422, R423) -/

/-- The bytes of an ASCII string. -/
def ascii (x : String) : List Byte := x.toList.map fun c => BitVec.ofNat 8 c.toNat

/-- 32 zero bytes. -/
def zero32 : List Byte := List.replicate 32 0

/-- MR i; an unlisted one is 32 zero bytes. -/
def mrOf (s : State) (i : Nat) : List Byte := let v := nget [] s.tack.mrs i; if v = [] then zero32 else v

/-- CMR[c]. -/
def cmrOf (s : State) (c : Nat) : List Byte := let v := nget [] s.tack.cmrs c; if v = [] then zero32 else v

/-- Change the Tack Room. -/
def modTack (s : State) (f : Tack → Tack) : State := { s with tack := f s.tack }

/-- MR i := SHA-256(MR i, d). -/
def extendMr (s : State) (i : Nat) (d : List Byte) : State :=
  modTack s fun t => { t with mrs := nset [] t.mrs i (sha256 (mrOf s i ++ d)) }

/-- Set CMR[c]; empty for zero. -/
def setCmr (s : State) (c : Nat) (d : List Byte) : State := modTack s fun t => { t with cmrs := nset [] t.cmrs c d }

/-! ### Keys (R421) -/

/-- A key derived from the UDS. -/
def deriveKey (info : List Byte) (n : Nat) : List Byte := hkdf256 [] Config.uds info n

/-- FWMR. -/
def fwmr (s : State) : List Byte := sha256 (mrOf s 1 ++ mrOf s 2 ++ mrOf s 3)

/-- AK and the KEM key follow FWMR. -/
def deriveFwKeys (s : State) : State :=
  modTack s fun t => { t with
    ak := Config.slhKeygen (deriveKey (ascii "Yocon AK" ++ fwmr s) 48),
    kem := Config.kemKeygen (deriveKey (ascii "Yocon KEM" ++ fwmr s) 64) }

/-- The attestation certificate is issued again (R425). -/
def issueCert (s : State) : State :=
  modTack s fun t => { t with cert := Config.certificate t.dik (Config.slhPublic t.ak) (fwmr s) ([1, 2, 3].map fun c => nget 0 t.svns c) }

/-! ### Packages (R428, R429) -/

/-- The header and sizes of a package of a KIND are as R429 asks: `room` is what the staged bytes or the handle hold, which a
model package fills and a share package need not. -/
def packageFits (s : State) (kind : Nat) (b : List Byte) (room : Nat) : Bool :=
  let n := fieldAt b 8 8 + 1680
  fieldAt b 0 4 = 0x014B5049 && fieldAt b 4 2 = 0 && fieldAt b 6 2 = kind &&
  (if kind = 1 then n = room else decide (n ≤ room)) &&
  s.tack.kem ≠ [] && (b.drop 0x10).take 16 = (sha256 (Config.kemPublic s.tack.kem)).take 16

/-- The plaintext of a package, or none where it is refused. -/
def openPackage (s : State) (kind : Nat) (b : List Byte) (room : Nat) : Option (List Byte) :=
  if s.tack.observed || !packageFits s kind b room then none else
  let ct := (b.drop 0x30).take 1568
  let kek := hkdf256 (sha256 ct) (Config.kemDecaps s.tack.kem ct) (ascii "Yocon package") 32
  match Config.gcmOpen kek (List.replicate 12 0) [] ((b.drop 0x650).take 48) with
  | none => none
  | some cek => Config.gcmOpen cek ((b.drop 0x20).take 12) (b.take 0x680)
      ((b.drop 0x690).take (fieldAt b 8 8) ++ (b.drop 0x680).take 16)

/-! ### Gate slots (R435 to R437) -/

/-- Gate slot g. -/
def gateSlot (s : State) (g : Nat) : GateSlot := nget {} s.tack.slots g
/-- Replace gate slot g. -/
def setGateSlot (s : State) (g : Nat) (x : GateSlot) : State := modTack s fun t => { t with slots := nset {} t.slots g x }
/-- Address of the share of gate slot g. -/
def shareAt (g : Nat) : Nat := 0x5000000000 + g * 2 ^ 25

/-- Bytes written straight to whole granules from an aligned address, unpoisoned. -/
def writeWhole (s : State) (a : Nat) (bs : List Byte) : State :=
  let gs := (List.range (ceilDiv bs.length 256)).map fun i => a / 256 + i
  gs.foldl (fun s g => setGpoison s g false)
    { s with hbm := { s.hbm with mem := memWrite s.hbm.mem a bs, combine := nclear s.hbm.combine (a / 256) ((a + bs.length) / 256 + 1) } }

/-- Zero-fill the share of a gate slot and erase its policy: the slot is EMPTY. -/
def wipeSlot (s : State) (g : Nat) : State :=
  let a := shareAt g
  let s1 := { s with hbm := { s.hbm with
    mem := nclear s.hbm.mem a (a + 2 ^ 25), combine := nclear s.hbm.combine (a / 256) ((a + 2 ^ 25) / 256),
    slots := s.hbm.slots.map fun e => if a / 4096 ≤ e.1 && e.1 < (a + 2 ^ 25) / 4096 then (e.1, { e.2 with gpois := 0 }) else e } }
  setGateSlot s1 g {}

/-! ### The outcome of a release (R439) -/

/-- RG_REQ, RG_RESULT and RG_INSTALL. -/
def rgReq : Nat := 0x0901000
/-- RG_RESULT. -/
def rgResult : Nat := 0x0901008
/-- RG_INSTALL. -/
def rgInstall : Nat := 0x0901010

/-- A result is written, and BUSY clears. -/
def writeResult (s : State) (status reason code serial : Nat) : State :=
  csrSetField (csrPut s rgResult (BitVec.ofNat 64 (2 ^ 63 + status * 2 ^ 60 + reason * 2 ^ 48 + code * 2 ^ 32 + serial % 2 ^ 32))) rgReq 62 62 0

/-- A release is denied for a reason: KEY_RELEASE_DENIED (R439). -/
def denyRelease (s : State) (c reason serial : Nat) : State :=
  let s1 := writeResult s 2 reason 0 serial
  let s2 := reportOstler (dbFault s1 c 0x0902 0x3FF 0 0xFFF) 1023 0x0902 reason c
  modTack (trCount s2 4) fun t => { t with release := none }

/-! ### Debug accesses (R443 to R446) -/

/-- The Smithy's CLEAR as part of the wipe. -/
def smithyClear (s : State) : State :=
  bump (bump { s with smithy := { s.smithy with x := [], op := none } } 0x0A00100 0x0A00180 0) 0x0A00118 0x0A00180 3

/-- The sequence of the first debug access (R445): OBSERVED, ATTESTATION_OBSERVED, a pending release denied, secrets erased,
gate slots wiped, MR6 extended with the access's DEBUG record. -/
def setObserved (s : State) (rec_ : List Byte) : State :=
  let s1 := reportOstler (modTack s fun t => { t with observed := true }) 1023 0x0901 0 0xFF
  let s2 := match s1.tack.release with
    | some r => denyRelease s1 r.c 1 r.serial
    | none => s1
  let s3 := modTack s2 fun t => { t with sessions := [], ideKey := [], fabric := none }
  let s4 := { s3 with ostler := { s3.ostler with fabric := none }, gate := { s3.gate with ide := false } }
  extendMr (smithyClear ([0, 1, 2, 3].foldl wipeSlot s4)) 6 (sha256 rec_)

/-- A debug access is recorded and counted; the first one waits for the sequence of R445 and then takes effect. KIND is 1
for a JTAG instruction, 2 for a DAP read, 3 for a DAP write (R444). -/
def debugRecord (s : State) (kind addr : Nat) : State :=
  let payload := leBytes 1 kind ++ List.replicate 7 0 ++ leBytes 8 addr
  let rec_ := leBytes 6 (now s) ++ leBytes 1 7 ++ leBytes 1 0x40 ++ padTo 24 payload
  let s1 := trCount (dbAppend s 7 0x40 payload) 6
  if s1.tack.observed then s1 else setObserved s1 rec_

/-- KIND of an access through the debug access port. -/
def accessKind : Access → Nat
  | .read _ => 2
  | .write _ => 3

end Sys2Proof.Machine
end

