-- ==== Sys2Proof/Machine/Granary.lean ====
section
/-!
DEFINITION. The Granary (11): cached lines of windows, fills and write-backs (R321 to R323, R326, R327), line
operations (R324) and window accesses (R321, R364).
-/

namespace Sys2Proof.Machine

/-- The key of a cached line. -/
def grnKey (c slot : Nat) : Nat := c * 2 ^ 21 + slot

/-- A cached line. -/
def grnLine (s : State) (c slot : Nat) : Option GLine := nget none s.grn.lines (grnKey c slot)

/-- Put a cached line, as the most recently used. -/
def putLine (s : State) (c slot : Nat) (l : GLine) : State :=
  { s with grn := { s.grn with lines := nset none s.grn.lines (grnKey c slot) (some { l with use := s.grn.use }),
                               use := s.grn.use + 1 } }

/-- The cached lines of a half, with their keys. -/
def halfLines (s : State) (half : Nat) : List (Nat × GLine) :=
  s.grn.lines.filterMap fun e => match e.2 with
    | some l => if grnHalf (e.1 % 2 ^ 21) = half then some (e.1, l) else none
    | none => none

/-- Dirty lines of a half (GRN_STATUS). -/
def dirtyCount (s : State) (half : Nat) : Nat := ((halfLines s half).filter fun e => e.2.dirty).length

/-- The window of a context for a slot, and the backing address of its line (R321); staging windows have theirs. -/
def backingOf (s : State) (c slot : Nat) : Option Nat :=
  match windowOf (imageOf s c) slot with
  | some w => if w.kind = 2 then none else some (w.backing + 72 * (slot - w.offset / 128))
  | none => match (ctx s c).staging with
    | some base => if slot < roundUp (ceilDiv (ctx s c).imgBytes 72) 32 then some (base + 72 * slot) else none
    | none => none

/-- The owner under whose regions a backing lies: the device's for a staging window (R376). -/
def backingOwner (s : State) (c slot : Nat) : Nat := if (windowOf (imageOf s c) slot).isSome then c else 64

/-- Write a dirty line back to its backing, with what the transfers meet; the line stays cached and clean, and a poisoned one marks
its granules (R313, R323). -/
def writeBackLine (s : State) (key : Nat) (l : GLine) (errs : MemErrs) : State :=
  let c := key / 2 ^ 21
  let slot := key % 2 ^ 21
  let s1 := match backingOf s c slot with
    | none => s
    | some a =>
      if (regionFor s (backingOwner s c slot) a).isSome then
        storeBytes s (((lineBytes l.words).zipIdx).map fun (b, i) => (a + i, b)) l.poison errs (backingOwner s c slot < 64)
      else hbmCount s (stackOf a) 7 1
  grnCount { s1 with grn := { s1.grn with lines := nset none s1.grn.lines key (some { l with dirty := false }) } } 2 1

/-- Write back every dirty line of a context, at a switch or before a completion (R326); no transfer fails (log 55). -/
def writeBackContext (s : State) (c : Nat) : State :=
  s.grn.lines.foldl (fun s e => match e.2 with
    | some l => if e.1 / 2 ^ 21 = c && l.dirty then grnCount (writeBackLine s e.1 l []) 3 1 else s
    | none => s) s

/-- Discard the cached lines that a test names, without write-back (R311, R327). -/
def discardLines (s : State) (f : Nat → Nat → Bool) : State :=
  { s with grn := { s.grn with lines := s.grn.lines.filter (fun e => !(f (e.1 / 2 ^ 21) (e.1 % 2 ^ 21))),
                               fills := s.grn.fills.filter fun k => !(f (k / 2 ^ 21) (k % 2 ^ 21)) } }

/-- The least recently used of some lines. -/
def lruOf (ls : List (Nat × GLine)) : Option (Nat × GLine) :=
  ls.foldl (fun b e => match b with
    | none => some e
    | some x => if e.2.use < x.2.use then some e else b) none

/-- DIRTY_MAX (R323): values above 0x2_0000 act as 0x2_0000. -/
def dirtyMax (s : State) : Nat := min (csrField s 0x0500008 17 0) 0x20000

/-- Ask for the fill of a line (R323). -/
def askFill (s : State) (c slot : Nat) : State :=
  if s.grn.fills.contains (grnKey c slot) then s
  else { s with grn := { s.grn with fills := s.grn.fills ++ [grnKey c slot] } }

/-- One word by a line operation: the new word of F from its old word and the word of N (R324). -/
def grnWord (op : GrnOp) (old n : Nat) : Nat :=
  match op with
  | .read => old
  | .write => n
  | .modAdd q => if q = 0 then old else (old + n % q) % q
  | .intAdd i32 => if i32 then (old + n) % 2 ^ 32 else (old + n) % 2 ^ 36
  | .min k => match k with
    | 0 => min old n
    | 1 => eeTyped 0x53 1 0 (old % 2 ^ 32) (n % 2 ^ 32) 0
    | _ => eeTyped 0x53 2 0 (old % 2 ^ 32) (n % 2 ^ 32) 0
  | .max k => match k with
    | 0 => max old n
    | 1 => eeTyped 0x54 1 0 (old % 2 ^ 32) (n % 2 ^ 32) 0
    | _ => eeTyped 0x54 2 0 (old % 2 ^ 32) (n % 2 ^ 32) 0
  | .swap => n
  | .cas => old

/-- The F line after an operation (R324). -/
def grnApply (op : GrnOp) (old n : Line) : Line :=
  match op with
  | .cas => (List.range 16).map fun w =>
      if w < 8 && wordAt old w = wordAt n w then wordAt n (w + 8) else wordAt old w
  | _ => mapLine fun w => grnWord op (wordAt old w).toNat (wordAt n w).toNat

/-- Whether an operation is an atomic one, and whether it returns the old line. -/
def isAtomic (op : GrnOp) : Bool := op ≠ .read && op ≠ .write
/-- Swap and compare-and-swap return the old line; so does a read. -/
def returnsLine (op : GrnOp) : Bool := op = .read || op = .swap || op = .cas

/-- Perform an operation on a cached line: the line as it was, and the state after. A poisoned line stays poisoned
under an atomic; a whole-line write takes its own mark (R324); a tally mismatch poisons it (R396). -/
def grnPerform (s : State) (c slot : Nat) (op : GrnOp) (words : Line) (poison : Bool) : GLine × State :=
  let l := (grnLine s c slot).getD {}
  match op with
  | .read => (l, putLine s c slot l)
  | .write => (l, putLine s c slot { l with words := words, dirty := true, poison := poison })
  | _ => (l, grnCount (putLine s c slot { l with words := grnApply op l.words words, dirty := true,
                                                 poison := l.poison || poison }) 0 1)

/-- What the ECC of a line meets (R322). -/
def grnEcc (s : State) (c slot : Nat) (ecc : EccErr) : State :=
  match ecc with
  | .clean => s
  | .corrected => grnCount s 4 1
  | .double => match grnLine s c slot with
    | some l => grnCount (putLine s c slot { l with poison := true }) 5 1
    | none => s

/-- GRANARY_REQUEST: a line operation at its bank, once the line is cached (R322 to R324), or the lines of a peer
window, which leave as a flit (R347). An offset in no window reads zero words, and writes there are dropped (R321). -/
def execGranaryRequest (m : Nat) (bad : Bool) (ecc : EccErr) (s : State) : Host.Outcome State Fault Refusal :=
  .next (match arriving s m with
    | some ⟨id, src, .granary h, _, c, .grn n slot op words poison⟩ =>
      match backingOf s c slot with
      | none =>
        if returnsLine op then sendBulk (dropMsg s m) (.granary h) src .rsp c (.grnRet id n slot zeroLine false) 1
        else send (dropMsg s m) (.granary h) src .rsp c (.ack id false false)
      | some _ =>
        if (grnLine s c slot).isNone then askFill s c slot else
        let s1 := grnEcc (dropMsg s m) c slot ecc
        let (old, s2) := grnPerform s1 c slot op words (poison || bad)
        -- a tally mismatch of a swap travels before the old line
        let s3 := if bad && returnsLine op && op ≠ .read then send s2 (.granary h) src .rsp c (.ack id false true) else s2
        if returnsLine op then sendBulk s3 (.granary h) src .rsp c (.grnRet id n slot old.words old.poison) 1
        else send s3 (.granary h) src .rsp c (.ack id false bad)
    | some ⟨id, .stall p, .granary _, _, c, .peer _ slot op lines poison tally epoch⟩ =>
      sendPeer (dropMsg s m) c id p slot op lines (poison || bad) tally epoch
    | _ => s)

/-- A line comes from its backing at address a, decoded under R314; the least recently used clean line of a full half
makes room (R323). -/
def fillLine (s : State) (c slot a : Nat) (errs : MemErrs) : State :=
  let own := backingOwner s c slot
  let (d0, p0, s1) := readFor s own (a / 256) (errs.at_ (a / 256)) (own < 64)
  let (d1, p1, s2) := if a / 256 = (a + 71) / 256 then (([] : List Byte), false, s1)
    else readFor s1 own ((a + 71) / 256) (errs.at_ ((a + 71) / 256)) (own < 64)
  let words := lineOfBytes (((d0 ++ d1).drop (a % 256)).take 72)
  let half := halfLines s2 (grnHalf slot)
  let s3 := if half.length < 1572864 then s2 else
    match lruOf (half.filter fun e => !e.2.dirty) with
    | some (k, _) => { s2 with grn := { s2.grn with lines := nset none s2.grn.lines k none } }
    | none => s2
  let s4 := putLine { s3 with grn := { s3.grn with fills := s3.grn.fills.filter (· ≠ grnKey c slot) } } c slot
    { words := words, dirty := false, poison := p0 || p1 }
  let s5 := grnCount s4 1 1
  if p0 || p1 then grnCount s5 7 1 else s5

/-- GRANARY_FILL (R323). -/
def execGranaryFill (c : CtxIx) (slot : Nat) (errs : MemErrs) (s : State) : Host.Outcome State Fault Refusal :=
  .next (
    if !s.grn.fills.contains (grnKey c slot) then s else
    match backingOf s c slot with
    | none => { s with grn := { s.grn with fills := s.grn.fills.filter (· ≠ grnKey c slot) } }
    | some a => if stackRuns s (stackOf a) then fillLine s c slot a errs else s)

/-- The lines of a window that a command reads are allocated and filled where they are not cached (R323); no read fails (log 55). -/
def cacheSlots (s : State) (c : Nat) (slots : List Nat) : State :=
  slots.foldl (fun s slot => match backingOf s c slot with
    | some a => if (grnLine s c slot).isNone then fillLine s c slot a [] else s
    | none => s) s

/-- Write back least recently used dirty lines of a half until it is within the limit; the first argument bounds them. -/
def trimDirty (half : Nat) (errs : MemErrs) : Nat → State → State
  | 0, s => s
  | k + 1, s =>
    if dirtyCount s half ≤ dirtyMax s then s else
    match lruOf ((halfLines s half).filter fun e => e.2.dirty) with
    | some (key, l) => trimDirty half errs k (writeBackLine s key l errs)
    | none => s

/-- GRANARY_WRITEBACK (R323). -/
def execGranaryWriteback (w : HalfWriteback) (s : State) : Host.Outcome State Fault Refusal :=
  .next (trimDirty w.half w.errs (dirtyCount s w.half) s)

/-- Bytes of a window slot: the 72 bytes of its line, then zeros (R321). -/
def slotBytes (l : Line) : List Byte := padTo 128 (lineBytes l)

/-- The context that tagged a cached line: the lowest that holds the slot (R364; DESIGN CHOICE, log 23). -/
def taggedBy (s : State) (slot : Nat) : Option Nat :=
  (List.range 64).find? fun c => (grnLine s c slot).isSome

/-- The debug port's accesses are made for the context that tagged the line; the Ostler's for no
context, so they read zero and their writes are dropped; no BAR reaches the window (R321, R364). -/
def granaryWindow (who : Requester) (off : Nat) (a : Access) (s : State) : State :=
  let s := if who = .debugPort then debugRecord s (accessKind a) (0x9000000000 + off) else s
  let lineFor (slot : Nat) : Option (Nat × GLine) :=
    if who = .debugPort then
      match taggedBy s slot with
      | some c => if (backingOf s c slot).isSome then (grnLine s c slot).map fun l => (c, l) else none
      | none => none
    else none
  match who with
  | .pf => s
  | .vf n => if s.gate.linkUp then aerError s n.val .unsupportedRequest else s
  | _ =>
    match a with
    | .read len =>
      { s with bus := (List.range len).map fun i =>
          match lineFor ((off + i) / 128) with
          | some (_, l) => (slotBytes l.words).getD ((off + i) % 128) 0
          | none => 0 }
    | .write data =>
      (data.zipIdx).foldl (fun s (b, i) =>
        let slot := (off + i) / 128
        let k := (off + i) % 128
        match lineFor slot with
        | some (c, _) =>
          if 72 ≤ k then s else
          match grnLine s c slot with
          | some l => putLine s c slot { l with words := lineOfBytes ((lineBytes l.words).set k b), dirty := true }
          | none => s
        | none => s) s

/-- GRANARY_WINDOW_ACCESS. -/
def execGranaryWindowAccess (who : Requester) (off : Nat) (a : Access) (s : State) : Host.Outcome State Fault Refusal :=
  .next (granaryWindow who off a s)

end Sys2Proof.Machine
end

