-- ==== Sys2Proof/Machine/Replay.lean ====
section
/-!
DEFINITION. What a replay holds and supplies (R418): the next recorded command, link arrival and Carter completion of the
context replayed.
-/

namespace Sys2Proof.Machine

/-- Record n of the Daybook ring (R416). -/
def dbRecord (s : State) (n : Nat) : List Byte := memRead s.hbm.mem (ringAt n) 32

/-- The first record of a type of a context at or after an index, of those written before the replay began. -/
def dbFind (s : State) (type c from_ : Nat) : Option Nat :=
  ((List.range (s.db.stop - from_)).map (from_ + ·)).find? fun n =>
    fieldAt (dbRecord s n) 6 1 = type && fieldAt (dbRecord s n) 7 1 = c

/-- Whether events of a context are held to their recorded order. -/
def holding (s : State) (c : Nat) : Bool := replaying s c && s.db.holds

/-- DONE is set when the ring holds no later record of an event of the context (R418). -/
def replayDone (s : State) : State :=
  let c := csrField s 0x0D00010 60 55
  if holding s c && (dbFind s 2 c s.db.cmdAt).isNone && (dbFind s 3 c s.db.linkAt).isNone && (dbFind s 5 c s.db.ctAt).isNone
  then csrSetField s 0x0D00010 62 62 1 else s

/-! ### Carter completions -/

/-- A Carter entry with a far operand that was issued before sequence number q and is still in flight. -/
def earlierFar (x : Stall) (q : Nat) : Option Entry :=
  (((liveEntries x).map (·.2)).filter fun e => e.engine = .ct && e.seq < q &&
    (opInfo (opcodeOf e.word)).map (·.fmt) = some .c).mergeSort (fun a b => decide (a.seq ≤ b.seq)) |>.head?

/-- Whether a replay holds the completion of a Carter entry: out of issue order it waits for its CT_ORDER record, and in
order it waits for the instruction that the next record lets complete before it. -/
def ctHeld (s : State) (p : Nat) (e : Entry) : Bool :=
  if !holding s e.ctx || e.engine ≠ .ct then false else
  match dbFind s 5 e.ctx s.db.ctAt with
  | none => (earlierFar (stall s p) e.seq).isSome
  | some n =>
    let r := dbRecord s n
    let mine := fieldAt r 8 2 = lidOf s p
    if (earlierFar (stall s p) e.seq).isSome then !(mine && fieldAt r 0xC 4 = e.pc.toNat)
    else mine && fieldAt r 0x10 4 = e.pc.toNat

/-- A Carter instruction with a far operand completes before one issued earlier on its stall: a CT_ORDER record (R417);
in a replay the next record has its turn. -/
def ctOrder (s : State) (p : Nat) (e : Entry) : State :=
  if e.engine ≠ .ct || (opInfo (opcodeOf e.word)).map (·.fmt) ≠ some .c then s else
  match earlierFar (stall s p) e.seq with
  | none => s
  | some f =>
    let s1 := if holding s e.ctx then
        replayDone { s with db := { s.db with ctAt := (dbFind s 5 e.ctx s.db.ctAt).getD s.db.ctAt + 1, ctTurn := s.ledger } }
      else s
    dbAppend s1 5 e.ctx (leBytes 2 (lidOf s p) ++ leBytes 2 0 ++ leBytes 4 e.pc.toNat ++ leBytes 4 f.pc.toNat)

/-! ### Commands -/

/-- The packet that COMMAND record n begins: its fragments follow as records of the same SEQ (R417). -/
def recordedPacket (s : State) (c n : Nat) : Packet × Nat :=
  let seq := fieldAt (dbRecord s n) 8 4
  let go := (List.range 14).foldl (fun (acc : List Byte × Nat × Bool) k =>
    let (bs, at_, on) := acc
    if !on then acc else
    match dbFind s 2 c at_ with
    | some m =>
      let r := dbRecord s m
      if fieldAt r 8 4 = seq && fieldAt r 0xD 1 = k then (bs ++ (r.drop 16).take 16, m + 1, true) else (bs, at_, false)
    | none => (bs, at_, false)) ([], n, true)
  (⟨BitVec.ofNat 32 seq, go.1⟩, go.2.1)

/-- In a replay the Yardmaster takes slot c's next packet from the COMMAND records once the earlier one is done. -/
def replayTake (s : State) (c : Nat) : State :=
  if !holding s c || (ctx s c).taken ≠ [] then s else
  match dbFind s 2 c s.db.cmdAt with
  | none => s
  | some n =>
    let (pk, next) := recordedPacket s c n
    modCtx (replayDone { s with db := { s.db with cmdAt := next, cmdTurn := s.ledger } }) c fun x =>
      { x with taken := x.taken ++ [pk], nextTake := pk.seq + 1 }

/-! ### Link arrivals -/

/-- Whether a replay holds an arrival of a flow: it is performed when the next LINK_RUN record names it. -/
def linkHeld (s : State) (c src dseq : Nat) : Bool :=
  if !holding s c then false else
  match dbFind s 3 c s.db.linkAt with
  | none => false
  | some n =>
    let r := dbRecord s n
    !(fieldAt r 8 2 = src && (fieldAt r 0xA 2 + s.db.linkGot) % 2 ^ 16 = dseq)

/-- An arrival of the replayed context has been performed: the LINK_RUN record moves on when its run is complete. -/
def linkDone (s : State) (c : Nat) : State :=
  if !holding s c then s else
  match dbFind s 3 c s.db.linkAt with
  | none => s
  | some n =>
    if s.db.linkGot + 1 < fieldAt (dbRecord s n) 0xC 2 then { s with db := { s.db with linkGot := s.db.linkGot + 1 } }
    else replayDone { s with db := { s.db with linkAt := n + 1, linkGot := 0, linkTurn := s.ledger } }

end Sys2Proof.Machine
end

