-- ==== Sys2Proof/Machine/Completion.lean ====
section
/-!
DEFINITION. The end of a command: its completion record and the ring's counters (R326, R368, R369, R373).
-/

namespace Sys2Proof.Machine

/-- Byte fields of a packet (R367). -/
def pkOp (k : Packet) : Nat := fieldAt k.data 4 1
/-- LEN in 16-byte units. -/
def pkLen (k : Packet) : Nat := fieldAt k.data 5 1
/-- FLAGS bit 0 IRQ. -/
def pkIrq (k : Packet) : Bool := fieldAt k.data 6 1 % 2 = 1
/-- TAG. -/
def pkTag (k : Packet) : Nat := fieldAt k.data 8 8

/-- The completion record of a packet goes to the host, and is kept among the last 64 of its ring (R368, R373). -/
def sendCompletion (s : State) (c : Nat) (k : Packet) (status code detail : Nat) : State :=
  let r := record s k.seq.toNat 1 status code (pkTag k) detail c
  let s1 := modCtx s c fun x => { x with done := ((k.seq, r) :: x.done).take 64 }
  emitRecord s1 r (pkIrq k)

/-- A command completes: the context's dirty Granary lines are written back first (R326), its record is sent, and its
ring slot is free. -/
def completeCmd (s : State) (c : Nat) (k : Packet) (status code detail : Nat) : State :=
  let s1 := sendCompletion (writeBackContext s c) c k status code detail
  modCtx s1 c fun x => { x with
    taken := x.taken.filter (·.seq ≠ k.seq), nextDone := k.seq + 1,
    cur := match x.cur with
      | some e => if e.packet.seq = k.seq then none else some e
      | none => none }

end Sys2Proof.Machine
end

