-- ==== Sys2Proof/Machine/LinkRx.lean ====
section
/-!
DEFINITION. The ports of Rhoa Link (12): taking flits, acknowledgement and replay, training, credits, forwarding and
beacons (R332 to R343, R357).
-/

namespace Sys2Proof.Machine

/-! ### Serial numbers and the form of a flit -/

/-- a is after b modulo 2^16; a difference of 32,768 counts as before (R350). -/
def after16 (a b : Nat) : Bool := 32769 ≤ (b + 2 ^ 16 - a % 2 ^ 16) % 2 ^ 16

/-- a is after b modulo 2^32, as R350 compares modulo 2^16 (R368). -/
def after32 (a b : Nat) : Bool := 2 ^ 31 < (b + 2 ^ 32 - a % 2 ^ 32) % 2 ^ 32

/-- The VC on which a type travels; none for a type that R334 reserves or does not define. -/
def vcOfType (t : Nat) : Option Nat :=
  if t ≤ 1 then some 0 else if t ≤ 4 then some 0 else if t ≤ 7 then some 1 else if t ≤ 0xA then some 2
  else if t ≤ 0xC then some 3 else none

/-- Bytes lo to 247 of a flit are 0. -/
def zeroFrom (b : List Byte) (lo : Nat) : Bool := ((b.take 248).drop lo).all (· = 0)

/-- The reserved bits and bytes of a flit's header and body are 0 (R332, R334). -/
def rsvdZero (b : List Byte) : Bool :=
  let f (o n hi lo : Nat) : Bool := flitField b o n hi lo = 0
  f 4 1 7 6 && f 5 3 23 14 && f 8 2 15 15 && f 10 2 15 15 && f 14 1 7 4 && f 15 1 7 6 &&
  match flitType b with
  | 2 => f 24 4 31 21
  | 3 => f 24 4 28 21 && f 24 4 31 31
  | 4 => zeroFrom b 24
  | 5 =>
    let n := fieldAt b 20 2
    f 22 2 15 0 && (List.range n).all (fun i => f (24 + 4 * i) 4 31 18) && zeroFrom b (24 + 4 * n)
  | 6 => zeroFrom b 26
  | 7 => zeroFrom b 22
  | 8 => f 18 6 47 0 && zeroFrom b (24 + fieldAt b 16 2)
  | 9 => f 17 7 55 0 && zeroFrom b 48
  | 0xA => f 18 6 47 0 && zeroFrom b (24 + fieldAt b 16 2)
  | 0xB => zeroFrom b 40
  | 0xC => f 20 1 7 6 && zeroFrom b 21
  | _ => zeroFrom b 16

/-- A flit that R334 lets stand. -/
def formOk (b : List Byte) : Bool := vcOfType (flitType b) = some (flitVc b) && rsvdZero b

/-- The bytes of a flit on the wire. -/
def flitOf (x : BitVec 2048) : List Byte := leBytes 256 x.toNat

/-- Its CRC verifies (R333). -/
def crcOk (b : List Byte) : Bool := crc64 (b.take 248) = fieldAt b 248 8

/-! ### Places (R339, R340) -/

/-- Shared places of a VC. -/
def sharedPlaces (vc : Nat) : Nat := match vc with
  | 0 => 224
  | 1 => 16
  | 2 => 16
  | _ => 8

/-- Reserve places of one class of a VC. -/
def reservePlaces (vc : Nat) : Nat := match vc with
  | 0 => 4
  | 1 => 2
  | 2 => 2
  | _ => 1

/-- The places of a port that has just come up, which its receiver returns as credits (R340). -/
def fullPlaces : List Nat :=
  [0, 1, 2, 3].flatMap fun vc =>
    List.replicate (sharedPlaces vc) (vc * 16 + 8) ++ (List.range 8).flatMap fun h => List.replicate (reservePlaces vc) (vc * 16 + h)

/-- The place that an arriving flit takes: a shared one while any is free, else one of its class (R340). -/
def placeFor (p : Port) (vc cls : Nat) : Option Nat :=
  if nget 0 p.rxPlaces (vc * 16 + 8) < sharedPlaces vc then some (vc * 16 + 8)
  else if cls < 8 && nget 0 p.rxPlaces (vc * 16 + cls) < reservePlaces vc then some (vc * 16 + cls)
  else none

/-- IDLE flits return the credits that a port owes, one group in each (R340). -/
def returnCredits : Nat → State → Nat → State
  | 0, s, _ => s
  | k + 1, s, n => if (port s n).owed = [] then s else returnCredits k (sendPlain s n 0) n

/-- Send what a port can; when it sends nothing an IDLE flit carries its ACK, and IDLE flits carry what credits are left to
return (R335, R340). -/
def settle (s : State) (n : Nat) : State :=
  let s1 := pumpPort s n
  if !carries (port s1 n).st then s1
  else returnCredits 36 (if s1.rhoa.wire.length = s.rhoa.wire.length then sendPlain s1 n 0 else s1) n

/-- A place is free again and its credit returns to the other end (R340). -/
def freePlace (s : State) (n place : Nat) : State :=
  if place = 64 then s else
  settle (modPort s n fun p => { p with
    rxPlaces := nset 0 p.rxPlaces place (nget 0 p.rxPlaces place - 1), owed := p.owed ++ [place] }) n

/-! ### States of a port (R336 to R338) -/

/-- Whether a port exists for Rhoa Link: the Gatehouse takes ports 40 to 47 in bridge mode (R331). -/
def portThere (s : State) (n : Nat) : Bool := !(s.gate.bridge && 40 ≤ n)

/-- A port goes DOWN; one that carried flits raises LINK_DOWN and loses what it held (R338). -/
def goDown (s : State) (n : Nat) : State :=
  let p := port s n
  let s1 := modPort s n fun p => { p with st := .down, lanes := 0, wasUp := false, failed := true }
  if !p.wasUp then s1 else
  let v := 2 * 2 ^ 60 + n * 2 ^ 54 + 0x7FFF * 2 ^ 39 + 0x0702
  let s2 := reportFault (recordFirst s1 0x07C0010 v) 1021 0x0702 n 0xFF 0x3FF 0 0xFFF
  rlCount (modPort s2 n fun p => { p with replay := [], queue := [], resend := 0 }) n 6 (p.replay.length + p.queue.length)

/-- A port leaves DOWN; the retrains that took it there are counted no more (R338; DEDUCED, log 111). -/
def leaveDown (s : State) (n : Nat) : State :=
  if (port s n).failed then modPort s n fun p => { p with failed := false, retrains := [] } else s

/-- A port begins to retrain; the fifth time within 1,000,000,000 ns it goes DOWN (R336). -/
def beginRetrain (s : State) (n : Nat) : State :=
  let recent := (port s n).retrains.filter fun t => decide (now s < t.toNat + 1000000000)
  let s1 := rlCount (modPort s n fun p => { p with retrains := s.ledger :: recent }) n 4 1
  if 4 ≤ recent.length then goDown s1 n
  else modPort s1 n fun p => { p with st := .training, lanes := 0, trainAt := s.ledger }

/-- Resend the replay buffer in order; after 8 replays without progress the port retrains instead (R335, R336). -/
def replayPort (s : State) (n : Nat) : State :=
  let p := port s n
  if p.replay = [] then s
  else if 8 ≤ p.replays then beginRetrain s n
  else
    let s1 := modPort (rlCount s n 3 1) n fun p => { p with replays := p.replays + 1, progress := s.ledger }
    p.replay.foldl (fun s h => wireFlit s n h.bytes (BitVec.ofNat 16 (fieldAt h.bytes 0 2))) s1

/-- ACK and returned credits of a flit with a good CRC (R335, R340). -/
def takeHeader (s : State) (n : Nat) (b : List Byte) : State :=
  let ack := fieldAt b 2 2
  let keep := (port s n).replay.filter fun h => after16 (fieldAt h.bytes 0 2) ack
  let s1 := if keep.length = (port s n).replay.length then s else
    modPort s n fun p => { p with replay := keep, acked := BitVec.ofNat 16 ack, replays := 0, progress := s.ledger }
  let k := flitField b 5 3 7 0
  let key := flitField b 5 3 13 12 * 16 + (if flitField b 5 3 11 11 = 0 then 8 else flitField b 5 3 10 8)
  let s2 := if k = 0 then s1 else modPort s1 n fun p => { p with credits := nset 0 p.credits key (nget 0 p.credits key + k) }
  pumpPort s2 n

/-- The first discard before the expected SEQ asks for a replay (R335). -/
def askReplay (s : State) (n : Nat) : State :=
  if (port s n).nakSent then s else sendPlain (modPort s n fun p => { p with nakSent := true }) n 1

/-- A flit whose CRC fails (R335). -/
def badCrc (s : State) (n : Nat) : State := askReplay (rlCount s n 2 1) n

/-! ### The rows -/

/-- IDLE: ACK, credits and, at link-up, the neighbour's ID (R335, R338, R340). -/
def execIdle (n : PortIx) (flit : BitVec 2048) (s : State) : Host.Outcome State Fault Refusal :=
  .next (
    let b := flitOf flit
    if !carries (port s n).st then s
    else if !crcOk b then badCrc s n
    else if flitType b ≠ 0 then s
    else if !formOk b then rlCount (takeHeader s n b) n 6 1
    else
      let s1 := takeHeader s n b
      if flitDst b = 0x7FFF then modPort s1 n fun p => { p with neighbor := BitVec.ofNat 15 (flitSrc b) } else s1)

/-- NAK: what ACK confirms is dropped and the rest of the replay buffer is sent again (R335). -/
def execNak (n : PortIx) (flit : BitVec 2048) (s : State) : Host.Outcome State Fault Refusal :=
  .next (
    let b := flitOf flit
    if !carries (port s n).st then s
    else if !crcOk b then badCrc s n
    else if flitType b ≠ 1 then s
    else if !formOk b then rlCount (takeHeader s n b) n 6 1
    else replayPort (takeHeader s n b) n)

/-- A flit taken in order goes to its block or waits to be forwarded; one that R334 refuses is discarded (R334, R344). The
Ostler, while it runs, takes the packet of a MGMT flit into its memory, so that its place is free. -/
def placeFlit (s : State) (n : Nat) (b : List Byte) (place : Nat) : State :=
  let h : Held := ⟨b, s.ledger, n, place⟩
  if !formOk b then freePlace (rlCount s n 6 1) n place
  else if mine s (flitDst b) then
    if flitType b = 0xA then
      let k := (b.drop 24).take (min (fieldAt b 16 2) 224)
      freePlace (if s.ostler.up then { s with ostler := { s.ostler with inbox := s.ostler.inbox ++ [(flitSrc b, k)] } } else s) n place
    else { s with rhoa := { s.rhoa with rx := s.rhoa.rx ++ [h] } }
  else modPort s n fun p => { p with forward := p.forward ++ [h] }

/-- FLIT_RECEIVE: CRC, header, SEQ, place, form (R334, R335, R340). -/
def execFlitReceive (n : PortIx) (flit : BitVec 2048) (s : State) : Host.Outcome State Fault Refusal :=
  .next (
    let b := flitOf flit
    if !carries (port s n).st then s
    else if !crcOk b then badCrc s n
    else if flitType b ≤ 1 then s
    else
      let s1 := takeHeader s n b
      if fieldAt b 0 2 ≠ (port s1 n).expect.toNat then askReplay s1 n
      else match placeFor (port s1 n) (flitVc b) (7 - flitTtl b) with
        | none => beginRetrain s1 n
        | some k =>
          let s2 := modPort (rlCount s1 n 1 1) n fun p => { p with
            expect := p.expect + 1, nakSent := false, rxPlaces := nset 0 p.rxPlaces k (nget 0 p.rxPlaces k + 1) }
          settle (placeFlit s2 n b k) n)

/-- REPLAY_TIMEOUT: 2,000 ns without progress of ACK (R335). -/
def execReplayTimeout (n : PortIx) (s : State) : Host.Outcome State Fault Refusal :=
  .next (
    let p := port s n
    if carries p.st && p.replay ≠ [] && p.progress.toNat + 2000 ≤ now s then replayPort s n else s)

/-- LINK_TRAINED: the lanes that trained carry flits; SEQ, ACK and credits begin anew, what the replay buffer held is sent
again first, and IDLE flits tell the other end who this is and return every place (R336 to R338, R340). A spared port stays on
one lane. -/
def execLinkTrained (n : PortIx) (lanes : BitVec 2) (s : State) : Host.Outcome State Fault Refusal :=
  .next (
    let p := port s n
    if p.st ≠ .training || lanes = 0 || !portThere s n then s else
    let one := lanes ≠ 3 || p.spared
    let s1 := modPort s n fun p => { p with
      st := if one then .up1 else .up, lanes := if lanes = 3 && p.spared then 1 else lanes, spared := one, wasUp := true,
      seq := 0, acked := 0xFFFF, expect := 0, nakSent := false, replay := [], queue := p.replay ++ p.queue,
      resend := p.resend + p.replay.length, credits := [], owed := fullPlaces, rxPlaces := [], progress := s.ledger, replays := 0,
      bulkWait := 0,
      forward := p.forward.map fun h => { h with place := 64 } }
    let s2 := { s1 with rhoa := { s1.rhoa with rx := s1.rhoa.rx.map fun h => if h.port = n.val then { h with place := 64 } else h } }
    -- training on one lane only is reported, under a code that the manual does not give
    let s3 := if lanes ≠ 3 then
        let (v, s0) := draw (rlCount s2 n 5 1)
        reportOstler s0 1021 (v % 2 ^ 16) n 0xFF
      else s2
    settle s3 n)

/-- TRAINING_TIMEOUT: 10 ms without success (R336). A fifth retrain goes DOWN when it begins. -/
def execTrainingTimeout (n : PortIx) (s : State) : Host.Outcome State Fault Refusal :=
  .next (if (port s n).st = .training && (port s n).trainAt.toNat + 10000000 ≤ now s then goDown s n else s)

/-- FLIT_FORWARD: the oldest flit that port n took for another device goes to the port of its route with TTL less one, or
is discarded at TTL 0 or without a route (R342, R343). -/
def execFlitForward (n : PortIx) (s : State) : Host.Outcome State Fault Refusal :=
  .next (match (port s n).forward with
    | [] => s
    | h :: hs =>
      let s1 := modPort s n fun p => { p with forward := hs }
      let s2 := if flitTtl h.bytes = 0 then rlCount s1 n 6 1 else
        let b := putBytes h.bytes 14 (leBytes 1 (flitTtl h.bytes - 1))
        match routePort s1 (flitDst b) (flitSrc b) with
        | none => rlCount s1 n 6 1
        | some m => pumpPort (modPort s1 m fun p => { p with queue := p.queue ++ [⟨b, h.at_, n, 64⟩] }) m
      freePlace s2 n h.place)

/-- FLIT_LIFETIME_EXPIRY: flit i of those that port n holds has been held for more than 100,000 ns (R343): its queue, then
those to be forwarded, the replay buffer, and those that came by it for the device itself. -/
def execFlitLifetimeExpiry (n : PortIx) (i : Nat) (s : State) : Host.Outcome State Fault Refusal :=
  .next (
    let p := port s n
    let mine_ := (s.rhoa.rx.filter fun h => h.port = n.val)
    match (p.queue ++ p.forward ++ p.replay ++ mine_)[i]? with
    | none => s
    | some h =>
      if now s ≤ h.at_.toNat + 100000 then s else
      let a := p.queue.length
      let b := a + p.forward.length
      let d := b + p.replay.length
      let s1 := rlCount s n 6 1
      if i < a then modPort s1 n fun p => { p with
        queue := p.queue.eraseIdx i, resend := if i < p.resend then p.resend - 1 else p.resend }
      else if i < b then freePlace (modPort s1 n fun p => { p with forward := p.forward.eraseIdx (i - a) }) n h.place
      else if i < d then modPort s1 n fun p => { p with replay := p.replay.eraseIdx (i - b) }
      else freePlace { s1 with rhoa := { s1.rhoa with rx := s1.rhoa.rx.erase h } } n h.place)

/-! ### The Ostler's writes of RL_CFG -/

/-- Write RL_CFG: REACH and ENABLE are stored; ENABLE 0 disables the port and 1 begins training; RETRAIN retrains it on
both lanes and takes it out of DOWN, which a port that is disabled meanwhile comes back to (R337, R338; DEDUCED, log 111). -/
def writePortCfg (s : State) (n : Nat) (v : Nat) : State :=
  if !portThere s n || 48 ≤ n then s else
  let was := (port s n).st
  let s0 := csrPut s (0x0700008 + n * 0x1000) (BitVec.ofNat 64 (v % 4))
  let s1 := if v / 4 % 2 = 1 then leaveDown (modPort s0 n fun p => { p with spared := false }) n else s0
  if v % 2 = 0 then modPort s1 n fun p => { p with st := .disabled, lanes := 0, wasUp := false }
  else if (port s1 n).failed then modPort s1 n fun p => { p with st := .down, lanes := 0 }
  else if was = .disabled then
    modPort s1 n fun p => { p with st := .training, lanes := 0, trainAt := s.ledger, neighbor := 0x7FFF }
  else if v / 4 % 2 = 1 then beginRetrain s1 n
  else s1

/-- PORT_RETRAIN: RETRAIN is written with the port's ENABLE and REACH as they stand. -/
def execPortRetrain (n : PortIx) (s : State) : Host.Outcome State Fault Refusal :=
  .next (writePortCfg s n ((csrGet s (0x0700008 + n * 0x1000)).toNat % 4 + 4))

/-- PORT_ENABLE: a write of RL_CFG (R338). -/
def execPortEnable (n : PortIx) (value : W32) (s : State) : Host.Outcome State Fault Refusal :=
  .next (writePortCfg s n value.toNat)

/-! ### Beacons (R357) -/

/-- BEACON_SEND: every 1,000 ns a port that is up sends a BEACON to its neighbour; its times are set as it leaves
(`stampBeacon`). -/
def execBeaconSend (n : PortIx) (s : State) : Host.Outcome State Fault Refusal :=
  .next (
    let p := port s n
    if !carries p.st || now s < p.beaconTx.toNat + 1000 then s else
    let f := mkFlit s 0xB 3 p.neighbor.toNat 0 0 []
    pumpPort (modPort s n fun q => { q with beaconTx := s.ledger, queue := q.queue ++ [⟨f, s.ledger, n, 64⟩] }) n)

/-- Entry i of the flits for the device, when none before it has its source and VC. -/
def rxEntry (s : State) (i : Nat) : Option Held :=
  match s.rhoa.rx[i]? with
  | none => none
  | some h =>
    if (s.rhoa.rx.take i).any fun x => flitSrc x.bytes = flitSrc h.bytes && flitVc x.bytes = flitVc h.bytes then none else some h

/-- A flit for the device has been dealt with: its receive place is free. -/
def consume (s : State) (i : Nat) (h : Held) : State :=
  freePlace { s with rhoa := { s.rhoa with rx := s.rhoa.rx.eraseIdx i } } h.port h.place

end Sys2Proof.Machine
end

