-- ==== Sys2Proof/Machine/LinkHome.lean ====
section
/-!
DEFINITION. The home of peer writes, and the source's side of their acknowledgement (12, 14): WRITE, ATOMIC, COMMIT, WACK,
REVOKE and GAP flits, dependencies and undo records (R346 to R356, R412).
-/

namespace Sys2Proof.Machine

/-- A flit that the Gatehouse of a bridge takes under its GATE_ID (R389). -/
def toGate (s : State) (b : List Byte) : Bool := s.gate.bridge && flitDst b = gateId s

/-- JOB of a flit's body. -/
def flitJob (b : List Byte) : Nat := fieldAt b 16 4
/-- DSEQ of a flit. -/
def flitDseq (b : List Byte) : Nat := fieldAt b 12 2

/-- The context that a JOB names: a resident one, else one that stages its image (R348, R376). -/
def ctxOfJob (s : State) (job : Nat) : Option Nat :=
  match s.ctxs.find? fun e => e.2.st = .resident && e.2.job.toNat = job with
  | some e => some e.1
  | none => (s.ctxs.find? fun e => e.2.st = .staged && e.2.job.toNat = job).map (·.1)

/-- The home flow of a context from a source; it starts at EXPECT 0 (DESIGN CHOICE, log 22). -/
def homeOf (hs : List Home) (src job : Nat) : Home :=
  (hs.find? fun h => h.src = src && h.job = job).getD { src := src, job := job }

/-- Replace a home flow in a list. -/
def setHome (hs : List Home) (h : Home) : List Home :=
  if hs.any fun x => x.src = h.src && x.job = h.job then hs.map fun x => if x.src = h.src && x.job = h.job then h else x
  else hs ++ [h]

/-- Change the home flow of a context from a source. -/
def modHome (s : State) (c src job : Nat) (g : Home → Home) : State :=
  modRec s c fun r => { r with homes := setHome r.homes (g (homeOf r.homes src job)) }

/-- The home flow of a context from a source. -/
def homeAt (s : State) (c src job : Nat) : Home := homeOf (recOf s c).homes src job

/-! ### LINK_RUN records (R417) -/

/-- Write the LINK_RUN record of a flow whose run ends. -/
def endRun (s : State) (c : Nat) (h : Home) : State :=
  if h.run = 0 then s else
  modHome (dbAppend s 3 c (leBytes 2 h.src ++ leBytes 2 h.first ++ leBytes 2 h.run)) c h.src h.job fun x => { x with run := 0 }

/-- An arrival at an export window continues the run of its flow, or ends every run and begins one. -/
def noteArrival (s : State) (c src job dseq : Nat) : State :=
  let h := homeAt s c src job
  if 0 < h.run && (h.first + h.run) % 2 ^ 16 = dseq && h.run < 65535 then modHome s c src job fun x => { x with run := x.run + 1 }
  else
    let s1 := (recOf s c).homes.foldl (fun s x => endRun s c x) s
    modHome s1 c src job fun x => { x with first := dseq, run := 1 }

/-- A TOKEN record (R417); KIND is the type of the flit. -/
def dbToken (s : State) (c src kind epoch end_ : Nat) : State :=
  dbAppend s 4 c (leBytes 2 src ++ leBytes 1 kind ++ leBytes 1 0 ++ leBytes 4 epoch ++ leBytes 2 end_)

/-! ### Messages of the home -/

/-- Send GAP(EXPECT) for a flow (R350, R355). -/
def sendGap (s : State) (src job expect : Nat) : State :=
  sendFlit (rlDevCount s 1) 0 (mkFlit s 7 1 src 0 0 (leBytes 4 job ++ leBytes 2 expect))

/-- The body of a WACK. -/
def wackBody (job : Nat) (es : List (Nat × Nat)) : List Byte :=
  leBytes 4 job ++ leBytes 2 es.length ++ leBytes 2 0 ++ es.flatMap fun e => leBytes 4 (e.1 + e.2 * 2 ^ 16)

/-- WACK entries wait to be sent (R349). -/
def addWacks (s : State) (c src job : Nat) (es : List (Nat × Nat)) : State :=
  if es = [] then s else
  modHome s c src job fun h => { h with wacks := h.wacks ++ es, since := if h.wacks = [] then s.ledger else h.since }

/-! ### Acceptance (R348, R352, R376) -/

/-- The export window of a resident context in which a slot lies. -/
def exportWindow (s : State) (c slot : Nat) : Option Window :=
  match windowOf (imageOf s c) slot with
  | some w => if w.kind = 1 then some w else none
  | none => none

/-- Whether every slot lies in an export window, or in the staging window of a context that stages. -/
def slotsExported (s : State) (c : Nat) (slots : List Nat) : Bool :=
  if (ctx s c).st = .staged then slots.all fun k => (backingOf s c k).isSome else slots.all fun k => (exportWindow s c k).isSome

/-- Whether a source may write: it holds a dependency entry, is the barn's Gatehouse, for which a place is reserved, or finds a
SENDERS place of the first slot's window free. The window whose place it takes, none for the reserved one. -/
def placeOf (s : State) (c src : Nat) (slots : List Nat) : Option (Option Nat) :=
  let deps := (recOf s c).deps
  match deps.find? fun d => d.src = src with
  | some d => some d.win
  | none =>
    if src = gateId s then some none
    else match (slots.head?).bind (exportWindow s c) with
      | none => none
      | some w => if (deps.filter fun d => d.win = some w.offset).length < w.senders then some (some w.offset) else none

/-! ### Undo records (R412) -/

/-- The undo record of a line for a source epoch: of its sum (add) or of its saved value. -/
def undoOf (r : Rec) (slot src epoch : Nat) (add : Bool) : Option Undo :=
  r.undo.find? fun u => u.slot = slot && u.src = src && u.epoch = epoch && u.value.isNone = add

/-- Adds keep the sum of their contributions, all others the value before the first write. -/
def isAdd (op : GrnOp) : Bool := match op with
  | .modAdd _ => true
  | .intAdd _ => true
  | _ => false

/-- The sum of two contributions. -/
def addWords (op : GrnOp) (a b : Line) : Line := match op with
  | .modAdd q => mapLine fun w => if q = 0 then 0 else ((wordAt a w).toNat + (wordAt b w).toNat) % q
  | .intAdd i32 => mapLine fun w => ((wordAt a w).toNat + (wordAt b w).toNat) % (if i32 then 2 ^ 32 else 2 ^ 36)
  | _ => a

/-- Note in the undo records what a line is about to meet. -/
def noteUndo (s : State) (c src epoch slot : Nat) (op : GrnOp) (words : Line) : State :=
  let add := isAdd op
  match undoOf (recOf s c) slot src epoch add with
  | some u =>
    if !add then s else
    modRec s c fun r => { r with undo := r.undo.map fun x => if x = u then { x with sum := addWords op x.sum words } else x }
  | none =>
    let u : Undo := if add then
        { slot := slot, src := src, epoch := epoch, sum := addWords op zeroLine words,
          modq := match op with
            | .modAdd q => some q
            | _ => none,
          int32 := op = .intAdd true }
      else { slot := slot, src := src, epoch := epoch, value := some ((grnLine s c slot).getD {}).words }
    modRec s c fun r => { r with undo := r.undo ++ [u] }

/-- The records of a home that are free for one more flit. -/
def undoRoom (s : State) (c src epoch : Nat) (op : GrnOp) (slots : List Nat) : Bool :=
  let r := recOf s c
  r.undo.length + (slots.filter fun k => (undoOf r k src epoch (isAdd op)).isNone).length ≤ 327680

/-- Write a line of an export window back to what it was. -/
def putWords (s : State) (c slot : Nat) (f : Line → Line) : State :=
  match grnLine s c slot with
  | some l => putLine s c slot { l with words := f l.words, dirty := true }
  | none =>
    match backingOf s c slot with
    | none => s
    | some a => writeBytes s (((lineBytes (f (lineOfBytes (memRead s.hbm.mem a 72)))).zipIdx).map fun (b, i) => (a + i, b)) false

/-- Undo what a source wrote in epochs from E on: each add record is subtracted, then each value record is restored, and the
records are deleted. -/
def undoFrom (s : State) (c src epoch : Nat) : State :=
  let mine_ := (recOf s c).undo.filter fun u => u.src = src && !after32 epoch u.epoch
  let s1 := (mine_.filter fun u => u.value.isNone).foldl (fun s u => putWords s c u.slot fun l => mapLine fun w =>
    let x := (wordAt l w).toNat
    let y := (wordAt u.sum w).toNat
    match u.modq with
    | some q => if q = 0 then x else (x + q - y % q) % q
    | none => if u.int32 then (x + 2 ^ 32 - y % 2 ^ 32) % 2 ^ 32 else (x + 2 ^ 36 - y) % 2 ^ 36) s
  let s2 := (mine_.reverse.filter fun u => u.value.isSome).foldl (fun s u => putWords s c u.slot fun l => u.value.getD l) s1
  modRec s2 c fun r => { r with undo := r.undo.filter fun u => !(u.src = src && !after32 epoch u.epoch) }

/-! ### Performing a write -/

/-- The Granary handle of a context's image that covers a slot. -/
def coverOf (img : Image) (slot : Nat) : Option HDecl :=
  img.handles.find? fun d => d.place = 3 && pieceSlot d 0 ≤ slot && slot < pieceSlot d 0 + d.lines

/-- The operation of an ATOMIC flit at its home, with the prime and element type of the handle that covers the slot; a
prime that no handle gives is open (R324, R347; DESIGN CHOICE, log 2). -/
def homeOp (s : State) (c slot op : Nat) : GrnOp × State :=
  let img := imageOf s c
  match coverOf img slot with
  | some d =>
    let q := linePrime img d (pieceOf img (deviceId s) d 0) ((slot : Int) - pieceSlot d 0)
    if op = 0 && q = 0 then let (v, s1) := draw s; (.modAdd (v % 2 ^ 36), s1) else (atomOp d op q, s)
  | none => if op = 0 then let (v, s1) := draw s; (.modAdd (v % 2 ^ 36), s1) else (atomOp {} op 0, s)

/-- After a line is performed NOTIFY_CTR of NOTIFY_STALL grows by 1: over the Bridleway, or in the saved state (R348). -/
def notifyLine (s : State) (c slot : Nat) : State :=
  match exportWindow s c slot with
  | none => s
  | some w =>
    let k := BitVec.ofNat 4 w.ntfCtr
    if runningNo s = c then
      match posOfLid s w.ntfStall with
      | some q => sendBridle s (.granary (grnHalf slot)) (.stall q) c (.cadd k 1 none)
      | none => absentReturn s 1020 w.ntfStall c w.ntfStall
    else modStallCtx s c w.ntfStall fun x => addCnt x k 1

/-- The dependency of a context on a source epoch (R351). RX_EPOCH is the open epoch, or the next where none is open. -/
def noteDep (s : State) (c src job epoch : Nat) (win : Option Nat) : State :=
  modRec s c fun r =>
    if r.deps.any fun d => d.src = src then
      { r with deps := r.deps.map fun d => if d.src = src && after32 epoch d.pendHi then { d with pendHi := epoch } else d }
    else { r with deps := r.deps ++ [{ src := src, job := job, pendLo := epoch, pendHi := epoch,
                                       rxEpoch := r.opened.getD (r.count + 1), from_ := s.ledger, win := win }] }

/-- Lines of a WRITE or ATOMIC flit with their slots and poison marks (R332, R334). -/
def flitLines (b : List Byte) : List (Nat × Line × Bool) :=
  let slot := flitField b 24 4 20 0
  (List.range (flitField b 15 1 1 0)).map fun i => (slot + i, lineOfBytes ((b.drop (32 + 72 * i)).take 72), flitField b 15 1 (2 + i) (2 + i) = 1)

/-- A block of a flow ends: its tally is checked over the lines of the group, a mismatch poisons them all and is reported,
and the WACK entries of the flits that lie in no later block are made (R349, R394 to R396). -/
def endGroup (s : State) (c src job blk tally : Nat) (bad : Bool) : State :=
  let g := (homeAt s c src job).group
  let ls := ((g.flatMap fun e => e.2.2).filter fun x => x.1 / 64 = blk).mergeSort fun a b => decide (a.1 ≤ b.1)
  let wrong := bad || tally ≠ tallyOf (ls.map (·.2))
  let g1 := g.map fun e =>
    if e.2.2.any fun x => x.1 / 64 = blk then (e.1, if wrong then 1 else e.2.1, e.2.2.filter fun x => x.1 / 64 ≠ blk) else e
  let s1 := modHome s c src job fun h => { h with group := g1.filter fun e => e.2.2 ≠ [] }
  let s2 := addWacks s1 c src job ((g1.filter fun e => e.2.2 = []).map fun e => (e.1, e.2.1))
  if !wrong then s2 else
  let s3 := ls.foldl (fun s x => match grnLine s c x.1 with
    | some l => putLine s c x.1 { l with poison := true }
    | none => s) s2
  trigger (reportFault (recCount s3 4) 1021 0x0802 src c 0x3FF 0 0xFFF) c 0

/-- The block that a flit with BLK_LAST ends: that of its first line. -/
def endBlock (b : List Byte) : Nat := flitField b 24 4 20 0 / 64

/-- Perform the lines of an accepted flit (R348, R351, R412). -/
def performFlit (s : State) (c src job : Nat) (b : List Byte) (win : Option Nat) (bad : Bool) : State :=
  let epoch := fieldAt b 20 4
  let ls := flitLines b
  let s0 := if (ctx s c).st = .staged then noteDep s c src job epoch win else noteArrival (noteDep s c src job epoch win) c src job (flitDseq b)
  let s1 := ls.foldl (fun s (k, w, p) =>
    let (op, s) := if flitType b = 2 then (GrnOp.write, s) else homeOp s c k (flitField b 24 4 31 29)
    notifyLine (grnPerform (noteUndo s c src epoch k op w) c k op w p).2 c k) s0
  let e := (flitDseq b, if ls.any (·.2.2) then 1 else 0, ls.map fun x => (x.1, x.2.1))
  let s2 := modHome s1 c src job fun h => { h with group := h.group ++ [e] }
  let s3 := linkDone s2 c
  if flitField b 15 1 5 5 = 1 then endGroup s3 c src job (endBlock b) (fieldAt b 28 4) bad else s3

/-- A flit of a flow is taken, is stale, or comes after a lost one, which asks for a GAP once (R350): `take` gives the state of a
flit that is taken, or none where it must wait. -/
def takeDseq (s : State) (i : Nat) (h : Held) (c : Nat) (take : State → Option State) : State :=
  let b := h.bytes
  let src := flitSrc b
  let job := flitJob b
  let f := homeAt s c src job
  if flitDseq b = f.expect then
    match take s with
    | none => s
    | some s1 => consume (modHome s1 c src job fun x => { x with expect := (x.expect + 1) % 2 ^ 16, gap := false }) i h
  else
    let s1 := rlDevCount s 0
    if after16 (flitDseq b) f.expect && !f.gap then
      consume (sendGap (modHome s1 c src job fun x => { x with gap := true }) src job f.expect) i h
    else consume s1 i h

/-- A WRITE or ATOMIC at its home (R348 to R352). A line that is not cached is fetched first (R323); a replay holds the arrival
until its turn (R418), and a full undo table until records are free (R412). -/
def homeWrite (s : State) (i type : Nat) (bad : Bool) : State :=
  match rxEntry s i with
  | none => s
  | some h =>
    let b := h.bytes
    if flitType b ≠ type || toGate s b then s else
    let src := flitSrc b
    let job := flitJob b
    let ls := flitLines b
    let slots := ls.map (·.1)
    match ctxOfJob s job with
    | none =>
      -- no context, so no flow: every line is rejected
      let s1 := slots.foldl (fun s _ => rlDevCount s 5) s
      consume (sendFlit s1 0 (mkFlit s 5 1 src 0 0 (wackBody job [(flitDseq b, 2)]))) i h
    | some c => takeDseq s i h c fun s =>
      match (if slotsExported s c slots then placeOf s c src slots else none) with
      | none =>
        let s1 := addWacks (slots.foldl (fun s _ => rlDevCount s 5) s) c src job [(flitDseq b, 2)]
        some (if flitField b 15 1 5 5 = 1 then endGroup s1 c src job (endBlock b) (fieldAt b 28 4) bad else s1)
      | some win =>
        if linkHeld s c src (flitDseq b) then none else
        let missing := slots.filter fun k => (grnLine s c k).isNone
        if missing ≠ [] then none
        else if !undoRoom s c src (fieldAt b 20 4) (if type = 2 then .write else (homeOp s c (slots.headD 0) (flitField b 24 4 31 29)).1) slots then none
        else some (performFlit s c src job b win bad)

/-- The fills that an accepted flit at the front waits for (R323). -/
def askFills (s : State) (i type : Nat) : State :=
  match rxEntry s i with
  | none => s
  | some h =>
    let b := h.bytes
    if flitType b ≠ type || toGate s b then s else
    match ctxOfJob s (flitJob b) with
    | none => s
    | some c =>
      let slots := (flitLines b).map (·.1)
      if flitDseq b = (homeAt s c (flitSrc b) (flitJob b)).expect && slotsExported s c slots && (placeOf s c (flitSrc b) slots).isSome then
        (slots.filter fun k => (grnLine s c k).isNone).foldl (fun s k => askFill s c k) s
      else s

/-- WRITE (R348). -/
def execWrite (i : Nat) (bad : Bool) (s : State) : Host.Outcome State Fault Refusal := .next (homeWrite (askFills s i 2) i 2 bad)

/-- ATOMIC (R348). -/
def execAtomic (i : Nat) (bad : Bool) (s : State) : Host.Outcome State Fault Refusal := .next (homeWrite (askFills s i 3) i 3 bad)

/-! ### COMMIT, REVOKE and their timeout -/

/-- The dependency entries of a context change; an empty table is noted for R356. -/
def setDeps (s : State) (c : Nat) (ds : List Dep) : State :=
  modRec s c fun r => { r with deps := ds, emptied := r.emptied || (ds = [] && r.deps ≠ []) }

/-- Epochs up to E of a source are committed: pending ones are cleared and their undo records deleted (R353, R412). -/
def clearDep (s : State) (c src epoch : Nat) : State :=
  let ds := (recOf s c).deps.filterMap fun d =>
    if d.src ≠ src then some d
    else if after32 d.pendHi epoch then
      some { d with pendLo := if after32 d.pendLo epoch then d.pendLo else (epoch + 1) % 2 ^ 32, from_ := s.ledger, gapSent := false }
    else none
  modRec (setDeps s c ds) c fun r => { r with undo := r.undo.filter fun u => !(u.src = src && !after32 u.epoch epoch) }

/-- COMMIT (R353). -/
def execCommit (i : Nat) (s : State) : Host.Outcome State Fault Refusal :=
  .next (match rxEntry s i with
    | none => s
    | some h =>
      let b := h.bytes
      if flitType b ≠ 4 || toGate s b then s else
      match ctxOfJob s (flitJob b) with
      | none => consume s i h
      | some c => takeDseq s i h c fun s =>
        some (dbToken (clearDep (rlDevCount s 4) c (flitSrc b) (fieldAt b 20 4)) c (flitSrc b) 4 (fieldAt b 20 4) 0))

/-- The home revokes a source's epochs from E on (R354, R355): LINK_REVOKE with its cause, EXPECT, the entry, the undo, and the
rollback to the start of RX_EPOCH of the source's entry; with no entry no context has data of the source to roll back (DEDUCED,
log 112). -/
def homeRevoke (s : State) (c src job epoch end_ cause : Nat) : State :=
  let v := cause * 2 ^ 60 + 0x3F * 2 ^ 54 + src % 2 ^ 15 * 2 ^ 39 + epoch % 2 ^ 16 * 2 ^ 23 + 0x0701
  let s1 := reportFault (recordFirst s 0x07C0010 v) 1021 0x0701 src c 0x3FF 0 0xFFF
  let s2 := modHome s1 c src job fun h => { h with expect := end_, gap := false, group := [] }
  let hit := (recOf s c).deps.find? fun d => d.src = src
  let ds := (recOf s2 c).deps.filterMap fun d =>
    if d.src ≠ src || after32 epoch d.pendHi then some d
    else if after32 epoch d.pendLo then some { d with pendHi := (epoch + 2 ^ 32 - 1) % 2 ^ 32, from_ := s.ledger, gapSent := false }
    else none
  let s3 := undoFrom (setDeps s2 c ds) c src epoch
  match hit with
  | some d => trigger s3 c (d.rxEpoch + 1)
  | none => s3

/-- REVOKE (R354). -/
def execRevoke (i : Nat) (s : State) : Host.Outcome State Fault Refusal :=
  .next (match rxEntry s i with
    | none => s
    | some h =>
      let b := h.bytes
      if flitType b ≠ 6 || toGate s b then s else
      match ctxOfJob s (flitJob b) with
      | none => consume s i h
      | some c =>
        let s1 := dbToken (rlDevCount s 2) c (flitSrc b) 6 (fieldAt b 20 4) (fieldAt b 24 2)
        consume (homeRevoke s1 c (flitSrc b) (flitJob b) (fieldAt b 20 4) (fieldAt b 24 2) 0) i h)

/-- COMMIT_WAIT_EXPIRY: first a GAP to the source, and after a further wait the forced revoke (R355). -/
def execCommitWaitExpiry (c : CtxIx) (src : BitVec 15) (s : State) : Host.Outcome State Fault Refusal :=
  .next (match (recOf s c).deps.find? fun d => d.src = src.toNat with
    | none => s
    | some d =>
      if now s < d.from_.toNat + 1000 * csrField s 0x07C0008 47 24 then s else
      let job := (ctx s c).job.toNat
      let e := (homeAt s c d.src job).expect
      if !d.gapSent then
        modRec (sendGap s d.src job e) c fun r => { r with deps := r.deps.map fun x =>
          if x.src = d.src then { x with gapSent := true, from_ := s.ledger } else x }
      else homeRevoke (rlDevCount s 7) c d.src job d.pendLo e 1)

/-! ### Acknowledgement (R349) -/

/-- WACK_SEND: up to 48 waiting entries of a home flow leave as one WACK. -/
def execWackSend (c : CtxIx) (src : BitVec 15) (s : State) : Host.Outcome State Fault Refusal :=
  .next (match (recOf s c).homes.find? fun h => h.src = src.toNat && h.wacks ≠ [] with
    | none => s
    | some h =>
      let s1 := modHome s c h.src h.job fun x => { x with wacks := x.wacks.drop 48, since := s.ledger }
      sendFlit s1 0 (mkFlit s 5 1 h.src 0 0 (wackBody h.job (h.wacks.take 48))))

/-- The contexts that have a source flow to a device and job. -/
def senderCtxs (s : State) (dst job : Nat) : List Nat :=
  (s.recs.filter fun e => e.2.flows.any fun f => f.dst = dst && f.job = job).map (·.1)

/-- A write of the Gatehouse is acknowledged (R386). -/
def ackGate (s : State) (dst job dseq : Nat) (bad : Bool) : State :=
  s.gate.flows.foldl (fun s e =>
    let f := nget {} s.gate.flows e.1
    if f.dst = dst && f.job = job && f.sent.any (fun x => x.dseq = dseq) then
      { s with gate := { s.gate with
          flows := nset {} s.gate.flows e.1 { f with sent := f.sent.filter fun x => x.dseq ≠ dseq },
          xfers := s.gate.xfers.map fun x => if x.ring = e.1 && x.begun then { x with bad := x.bad || bad } else x } }
    else s) s

/-- Entries of a WACK flit. -/
def wackEntries (b : List Byte) : List (Nat × Nat) :=
  (List.range (min (fieldAt b 20 2) 48)).map fun i => (fieldAt b (24 + 4 * i) 2, flitField b (24 + 4 * i) 4 17 16)

/-- WACK: its entries acknowledge the writes of the flow, poisoned unless they were performed clean (R349). -/
def execWack (i : Nat) (s : State) : Host.Outcome State Fault Refusal :=
  .next (match rxEntry s i with
    | none => s
    | some h =>
      let b := h.bytes
      if flitType b ≠ 5 then s else
      let src := flitSrc b
      let job := flitJob b
      consume ((wackEntries b).foldl (fun s e =>
        if toGate s b then ackGate s src job e.1 (e.2 ≠ 0)
        else (senderCtxs s src job).foldl (fun s c => ackSent s c src job e.1 (e.2 ≠ 0)) s) s) i h)

/-- Acknowledge as poisoned the unacknowledged writes of a flow that a test names. -/
def ackPoisoned (s : State) (c dst job : Nat) (f : Sent → Bool) : State :=
  ((flowOf s c dst job).sent.filter f).foldl (fun s x => ackSent s c dst job x.dseq true) s

/-- GAP: every unacknowledged write of the flow is acknowledged poisoned, and recovery is triggered (R354, R407). -/
def execGap (i : Nat) (s : State) : Host.Outcome State Fault Refusal :=
  .next (match rxEntry s i with
    | none => s
    | some h =>
      let b := h.bytes
      if flitType b ≠ 7 then s else
      let src := flitSrc b
      let job := flitJob b
      if toGate s b then
        consume (s.gate.flows.foldl (fun s e => if e.2.dst = src && e.2.job = job then
          e.2.sent.foldl (fun s x => ackGate s src job x.dseq true) s else s) s) i h
      else
        consume ((senderCtxs s src job).foldl (fun s c =>
          trigger (ackPoisoned (dbToken s c src 7 0 (fieldAt b 20 2)) c src job fun _ => true) c 0) s) i h)

/-- WACK_WAIT_EXPIRY: writes of a context, or of the Gatehouse for it, to a device that have waited longer than WACK_WAIT_US are
acknowledged poisoned and counted (R349). -/
def execWackWaitExpiry (c : CtxIx) (dst : BitVec 15) (s : State) : Host.Outcome State Fault Refusal :=
  .next (
    let late (x : Sent) : Bool := decide (x.at_.toNat + 1000 * csrField s 0x07C0008 23 0 ≤ now s)
    let s1 := ((recOf s c).flows.filter fun f => f.dst = dst.toNat).foldl (fun s f =>
      let k := (f.sent.filter late).length
      ackPoisoned ((List.range k).foldl (fun s _ => rlDevCount s 6) s) c f.dst f.job late) s
    (s1.gate.flows.filter fun e => e.1 % 64 = c.val && e.2.dst = dst.toNat).foldl (fun s e =>
      (e.2.sent.filter late).foldl (fun s x => ackGate (rlDevCount s 6) e.2.dst e.2.job x.dseq true) s) s1)

end Sys2Proof.Machine
end

