-- ==== Sys2Proof/Machine/Intake.lean ====
section
/-!
DEFINITION. The arrival of command packets: at the Gatehouse (R366, R367, R389), over the link (R370) and in the rings
(R368, R417, R418).
-/

namespace Sys2Proof.Machine

/-! ### Packets (R367, R372) -/

/-- LEN of a command, none for an undefined OP or one that a host may not write (R372). -/
def lenOf (op : Nat) : Option Nat :=
  match op with
  | 1 => some 2
  | 2 => some 2
  | 3 => some 2
  | 4 => some 3
  | 5 => some 2
  | 6 => some 3
  | 7 => some 1
  | 8 => some 1
  | 9 => some 1
  | _ => none

/-- The RSVD bytes of a body are 0, and its fields lie in their ranges (R372). -/
def bodyOk (op : Nat) (b : List Byte) : Bool :=
  let z (lo hi : Nat) : Bool := fieldAt b lo (hi - lo) = 0
  match op with
  | 1 => decide (fieldAt b 0x14 1 ≤ 3) && z 0x16 0x18
  | 2 => decide (fieldAt b 0x10 1 ≤ 1) && z 0x11 0x20
  | 3 => z 0x12 0x18
  | 4 => z 0x12 0x14 && z 0x18 0x20
  | 5 => z 0x12 0x20
  | 6 => decide (fieldAt b 0x1C 1 ≤ 1) && z 0x1D 0x20 && z 0x28 0x30
  | _ => true

/-- What the Gatehouse found, in the RSVD byte of a packet that it passes on: 0 nothing, a result of XFER_IN or a refused VF
binding, 0xFF where the host wrote that byte (DESIGN CHOICE, log 25). -/
def pkMark (k : Packet) : Nat := fieldAt k.data 7 1

/-- The marks that a command can carry. -/
def markOk (k : Packet) : Bool :=
  match pkOp k with
  | 1 => pkMark k = 0 || pkMark k = 9
  | 6 => pkMark k = 0 || pkMark k = 2 || pkMark k = 3 || pkMark k = 5
  | _ => pkMark k = 0

/-- A packet has the format that R371 asks for. -/
def packetOk (k : Packet) : Bool :=
  match lenOf (pkOp k) with
  | none => false
  | some n => pkLen k = n && decide (fieldAt k.data 6 1 ≤ 1) && bodyOk (pkOp k) k.data && markOk k

/-- The packet of a slot: its first LEN x 16 bytes, of which bytes from 0xE0 are never read (R367). -/
def packetOf (data : List Byte) : Packet :=
  ⟨BitVec.ofNat 32 (fieldAt data 0 4), padTo (16 * max 1 (min (fieldAt data 5 1) 14)) data⟩

/-! ### Rings (R368) -/

/-- COMMAND records of a packet, one for each 16 bytes (R417). -/
def dbCommand (s : State) (c : Nat) (k : Packet) : State :=
  (List.range (ceilDiv k.data.length 16)).foldl (fun s i =>
    dbAppend s 2 c (leBytes 4 k.seq.toNat ++ leBytes 1 (pkOp k) ++ leBytes 1 i ++ leBytes 2 0 ++ padTo 16 (k.data.drop (16 * i)))) s

/-- The Yardmaster takes a packet. -/
def takePacket (s : State) (c : Nat) (k : Packet) : State :=
  modCtx (dbCommand s c k) c fun x => { x with taken := x.taken ++ [k], nextTake := k.seq + 1 }

/-- Packets held for the following SEQs are taken too. -/
def takeHeld : Nat → State → Nat → State
  | 0, s, _ => s
  | n + 1, s, c =>
    let x := ctx s c
    match x.held.find? fun k => k.seq = x.nextTake with
    | none => s
    | some k => takeHeld n (takePacket (modCtx s c fun y => { y with held := y.held.filter fun h => h.seq ≠ k.seq }) c k) c

/-- An arriving packet is taken, held, stale or an overrun (R368). Until boot has ended it is held (R458); in a replay it is
rejected with STATE (R418). -/
def arrivePacket (s : State) (c : Nat) (k : Packet) : State :=
  let x := ctx s c
  if replaying s c then emitRecord s (record s k.seq.toNat 1 2 2 (pkTag k) 0 c) (pkIrq k)
  else if after32 x.nextTake.toNat k.seq.toNat then
    let s1 := intakeCount s 0
    match x.done.find? fun d => d.1 = k.seq with
    | some d => emitRecord s1 d.2 (pkIrq k)
    | none => s1
  else if k.seq ≠ x.nextTake && decide (64 ≤ (k.seq - x.nextDone).toNat) then intakeCount s 1
  else if k.seq = x.nextTake && s.rst.phase = .running then takeHeld 64 (takePacket s c k) c
  else modCtx s c fun y => { y with held := (y.held.filter fun h => h.seq ≠ k.seq) ++ [k] }

/-! ### The Gatehouse -/

/-- Pass a packet on to member m: into the ring of the bridge itself, or as a COMMAND flit (R370). The flit does not carry
the ring's number (DESIGN CHOICE, log 25). -/
def passOn (s : State) (m c : Nat) (k : Packet) : State :=
  let dev := csrField s (0x0800200 + 4 * m) 14 0
  if dev = deviceId s then arrivePacket s c k
  else
    let f := mkFlit s 0x8 2 dev 0 0 (leBytes 2 k.data.length ++ leBytes 6 0 ++ k.data)
    sendFlit (ghCount s 1) 0 (putBytes f 10 (leBytes 2 (gateId s)))

/-- A packet with a mark of the Gatehouse. -/
def marked (k : Packet) (v : Nat) : Packet := { k with data := putBytes k.data 7 (leBytes 1 v) }

/-- A VF can be bound by LOAD: none, or one of the PF's VFs that no ring has or is about to have (R371). -/
def vfFree (s : State) (ring vf : Nat) : Bool :=
  vf = 0 || (decide (vf ≤ s.gate.numVfs) && !(s.gate.vfBind.any fun e => e.1 ≠ ring && e.2 = vf) &&
    !(s.gate.watch.any fun w => !w.unload && w.ring ≠ ring && w.vf = vf))

/-- Watch for the completion of a LOAD or UNLOAD. -/
def watchRing (s : State) (w : GWatch) : State :=
  { s with gate := { s.gate with watch := (s.gate.watch.filter fun x => !(x.ring = w.ring && x.seq = w.seq)) ++ [w] } }

/-- An ABORT passes the Gatehouse: a transfer that has begun stops, and one that has not goes to the member unperformed
(R384). -/
def abortXfers (s : State) (m c : Nat) (seq : W32) : State :=
  let mine_ (x : Xfer) : Bool := x.ring = m * 64 + c && after32 seq.toNat x.packet.seq.toNat
  let s1 := { s with gate := { s.gate with
    xfers := (s.gate.xfers.filter fun x => !(mine_ x && !x.begun)).map fun x => if mine_ x then { x with bad := true } else x } }
  (s.gate.xfers.filter fun x => mine_ x && !x.begun).foldl (fun s x => passOn s m c (marked x.packet 3)) s1

/-- A packet has arrived in member m's ring c, with the bytes of its slot as they stand. XFER_IN waits at the Gatehouse for its
turn (R386). -/
def arriveSlot (s : State) (m c : Nat) (data : List Byte) : State :=
  let k0 := packetOf data
  let k := if pkMark k0 = 0 then k0 else marked k0 0xFF
  let ring := m * 64 + c
  match pkOp k with
  | 1 =>
    let vf := fieldAt k.data 0x15 1
    if vfFree s ring vf then
      passOn (watchRing s { ring := ring, seq := k.seq.toNat, vf := vf, job := fieldAt k.data 0x10 4 }) m c k
    else passOn s m c (if pkMark k = 0 then marked k 9 else k)
  | 6 =>
    if !packetOk k || after32 (nget 0 s.gate.doneSeq ring) k.seq.toNat then passOn s m c k
    else if s.gate.xfers.any fun x => x.ring = ring && x.packet.seq = k.seq then s
    else { s with gate := { s.gate with xfers := s.gate.xfers ++ [{ ring := ring, packet := k }] } }
  | 7 => passOn (abortXfers s m c k.seq) m c k
  | 8 => passOn (watchRing s { ring := ring, seq := k.seq.toNat, unload := true }) m c k
  | _ => passOn s m c k

/-- The bytes of ring slot k, by 64 ring + slot (R366). -/
def ringSlot (s : State) (k : Nat) : List Byte := padTo 256 (nget [] s.gate.slots k)

/-- Where a function's BAR2 lies among the rings of the barn: the PF's maps them all, ring r at r x 0x4000, and a VF's maps the ring
bound to it (R363, R366). -/
def bar2Base (s : State) (fn : Nat) : Option Nat :=
  if fn = 0 then some 0 else (s.gate.vfBind.find? fun e => e.2 = fn).map (·.1 * 0x4000)

/-- The part of a write at ring address x that lies in slot k is stored, and where it covers bytes 0x00 to 0x07 of the slot the
packet arrives (R367). -/
def writeSlot (s : State) (x : Nat) (data : List Byte) (k : Nat) : State :=
  let lo := max x (256 * k)
  let part := (data.drop (lo - x)).take (256 * (k + 1) - lo)
  let s1 := { s with gate := { s.gate with slots := nset [] s.gate.slots k (putBytes (ringSlot s k) (lo - 256 * k) part) } }
  if lo = 256 * k && 8 ≤ part.length then arriveSlot s1 (k / 4096) (k / 64 % 64) (ringSlot s1 k) else s1

/-- INTAKE_PACKET: an access of BAR2. Only a bridge has it. A write for an entry of GH_BARN that is not VALID is discarded and
counted (R389); BAR2 of an unbound VF reads 0 and drops writes (R363). -/
def execIntakePacket (fn : Fin 64) (off : Nat) (a : Access) (s : State) : Host.Outcome State Fault Refusal :=
  .next (
    if !s.gate.bridge || !s.gate.linkUp then s else
    match bar2Base s fn, a with
    | none, .read len => { s with bus := List.replicate len 0, busEp := false }
    | none, .write _ => s
    | some b, .read len =>
      { s with bus := (List.range len).map fun i => (ringSlot s ((b + off + i) / 256)).getD ((b + off + i) % 256) 0, busEp := false }
    | some b, .write data =>
      let x := b + off
      if !csrBit s (0x0800200 + 4 * (x / 0x100000)) 31 then ghCount s 0
      else ((List.range data.length).map fun i => (x + i) / 256).dedup.foldl (fun s k => writeSlot s x data k) s)

/-- A COMMAND flit's packet. -/
def flitPacket (b : List Byte) : List Byte := (b.drop 24).take (min (fieldAt b 16 2) 224)

/-- COMMAND_FLIT at a member: from the bridge of its barn it goes into the ring, from another device it is discarded and
counted (R370). The ring is not in the flit: it is a free value (DESIGN CHOICE, log 25). -/
def execCommandFlit (i : Nat) (s : State) : Host.Outcome State Fault Refusal :=
  .next (match rxEntry s i with
    | none => s
    | some h =>
      let b := h.bytes
      if flitType b ≠ 8 || toGate s b then s else
      if flitSrc b ≠ csrField s 0x6418 14 0 then consume (intakeCount s 2) i h
      else
        let (v, s1) := draw (consume s i h)
        arrivePacket s1 (v % 64) (packetOf (flitPacket b)))

/-- COMPLETION: a COMMAND flit with OP 0x80 to GATE_ID; its record goes into the queue of the ring (R370, R374). A flit from a
device that is no member has no queue. -/
def execCompletion (i : Nat) (s : State) : Host.Outcome State Fault Refusal :=
  .next (match rxEntry s i with
    | none => s
    | some h =>
      let b := h.bytes
      if flitType b ≠ 8 || !toGate s b then s else
      let pk := flitPacket b
      let s1 := consume s i h
      if fieldAt pk 4 1 ≠ 0x80 then s1 else
      match barnIndex s1 (flitSrc b) with
      | none => s1
      | some m => ghDeliver (ghCount s1 2) m ((pk.drop 16).take 32) (fieldAt pk 6 1 % 2 = 1))

/-! ### OUTBOUND_WRITE (R388) -/

/-- The ring that a member and a JOB name. -/
def ringOfJob (s : State) (src job : Nat) : Option Nat :=
  match barnIndex s src with
  | none => none
  | some m => (s.gate.jobs.find? fun e => e.1 / 64 = m && e.2 = job).map (·.1)

/-- A flit of the Gatehouse, which answers under GATE_ID. -/
def gateFlit (s : State) (type vc dst dseq b15 : Nat) (body : List Byte) : List Byte :=
  putBytes (mkFlit s type vc dst dseq b15 body) 10 (leBytes 2 (gateId s))

/-- The Gatehouse's WACK for one flit. -/
def gateWack (s : State) (src job dseq result : Nat) : State :=
  sendFlit s 0 (gateFlit s 5 1 src 0 0 (wackBody job [(dseq, result)]))

/-- Change a home flow of the Gatehouse. -/
def modGateHome (s : State) (src job : Nat) (f : Home → Home) : State :=
  { s with gate := { s.gate with homes := setHome s.gate.homes (f (homeOf s.gate.homes src job)) } }

/-- The DSEQ order of R350 at the Gatehouse. -/
def gateDseq (s : State) (i : Nat) (h : Held) (take : State → State) : State :=
  let b := h.bytes
  let src := flitSrc b
  let job := flitJob b
  let f := homeOf s.gate.homes src job
  if flitDseq b = f.expect then
    consume (take (modGateHome s src job fun x => { x with expect := (x.expect + 1) % 2 ^ 16, gap := false })) i h
  else
    let s1 := rlDevCount s 0
    if after16 (flitDseq b) f.expect && !f.gap then
      let s2 := modGateHome (rlDevCount s1 1) src job fun x => { x with gap := true }
      consume (sendFlit s2 0 (gateFlit s2 7 1 src 0 0 (leBytes 4 job ++ leBytes 2 f.expect))) i h
    else consume s1 i h

/-- An OUT_ record of a ring for an epoch (R373, R388). -/
def outRecord (s : State) (ring kind epoch : Nat) : State :=
  let m := ring / 64
  let r := leBytes 4 0 ++ leBytes 1 kind ++ leBytes 1 0 ++ leBytes 2 0 ++ leBytes 8 0 ++ leBytes 8 (now s) ++
    leBytes 4 (epoch % 2 ^ 32) ++ leBytes 2 (csrField s (0x0800200 + 4 * m) 14 0) ++ leBytes 1 (ring % 64) ++ leBytes 1 0
  ghDeliver s m r false

/-- The lines of a flit go to the ring's buffer in host memory. -/
def outLines (s : State) (ring : Nat) (b : List Byte) : State :=
  let base := csrField s (0x0810008 + 16 * ring) 63 12 * 4096
  (flitLines b).foldl (fun s x => { s with hostMem := memWrite s.hostMem (base + 72 * x.1) (lineBytes x.2.1) }) s

/-- OUTBOUND_WRITE: a WRITE, ATOMIC, COMMIT or REVOKE to GATE_ID (R388). -/
def execOutboundWrite (i : Nat) (s : State) : Host.Outcome State Fault Refusal :=
  .next (match rxEntry s i with
    | none => s
    | some h =>
      let b := h.bytes
      let src := flitSrc b
      let job := flitJob b
      if !toGate s b then s else
      match flitType b with
      | 2 =>
        match ringOfJob s src job with
        | none => consume (gateWack (rlDevCount s 5) src job (flitDseq b) 2) i h
        | some ring => gateDseq s i h fun s =>
          let lg := min (csrField s (0x0810008 + 16 * ring) 4 0) 21
          if lg ≠ 0 && (flitLines b).all fun x => x.1 < 2 ^ lg then
            gateWack (outLines s ring b) src job (flitDseq b) (if (flitLines b).any (·.2.2) then 1 else 0)
          else gateWack (rlDevCount s 5) src job (flitDseq b) 2
      | 3 =>
        match ringOfJob s src job with
        | none => consume (gateWack (rlDevCount s 5) src job (flitDseq b) 2) i h
        | some _ => gateDseq s i h fun s => gateWack (rlDevCount s 5) src job (flitDseq b) 2
      | 4 =>
        match ringOfJob s src job with
        | none => consume s i h
        | some ring => gateDseq s i h fun s => outRecord s ring 3 (fieldAt b 20 4)
      | 6 =>
        match ringOfJob s src job with
        | none => consume s i h
        | some ring =>
          let s1 := modGateHome s src job fun x => { x with expect := fieldAt b 24 2, gap := false }
          consume (outRecord s1 ring 4 (fieldAt b 20 4)) i h
      | _ => s)

end Sys2Proof.Machine
end

