-- ==== Sys2Proof/Machine/YardSend.lean ====
section
/-!
DEFINITION. Yard sends (04, 09): YD.PUT, YD.MCAST, YD.FLAG, YD.CADD, YD.BFLAG and YD.BCADD (R270 to R276).
-/

namespace Sys2Proof.Machine

/-- CLOC (R107): the completion action takes effect at the issuing stall. -/
def clocOf (w : W128) : Bool := bitOf (modE2 w) 10

/-- Where a line of a whole handle lies on this device: logical ID and Loft line (R270). -/
def placeOfLine (dev : Nat) (d : HDecl) (g : Int) : Option (Nat × Nat) :=
  if g < 0 then none else
  match d.owners with
  | [] => none
  | o :: _ =>
    let u := d.pitch * 2 ^ o.log2Parts
    if u = 0 then none else
    let x := g.toNat / u
    let k := g.toNat % u / d.pitch
    (d.owners.find? fun e => (e.device = 0x7FFF || e.device = dev) && e.part = k &&
      e.slotFirst ≤ x && x < e.slotFirst + e.slotCount).map fun e =>
      (e.stall, e.lineBase + (x - e.slotFirst) * d.pitch + g.toNat % d.pitch)

/-- The stamp that a line carries in LEVEL mode: the time of the sender's read (R207, R269). -/
def stampOf (s : State) (c : Nat) : Option W64 := if (imageOf s c).claims.near then none else some s.ledger

/-- Send one line of entry n to a stall, an unacknowledged write of the sender (R283), counted k times as injected (R272). A line
to the sender's own stall enters no link (R276); the model counts it all the same (DESIGN CHOICE, log 99). -/
def sendLine (s : State) (p n q c k : Nat) (to_ : LineTo) (l : Line) : State :=
  let id := s.msgSeq
  let e := entryAt s p n
  let s1 := sendBulk s (.stall p) (.stall q) .req c (.line to_ l e.poison (stampOf s c) (some p) ⟨p, e.team, e.pc⟩) k
  let s2 := modEntry s1 p n fun e => { e with sends := e.sends ++ [(id, q)] }
  modStall s2 p fun x => { x with unacked := x.unacked ++ [id] }

/-- What follows the last line of entry n to a destination: the completion action where CLOC = 0, the record of M = 1 and the
poison mark (R107, R271, R503). -/
def sendTail (s : State) (p n q c : Nat) : State :=
  let e := entryAt s p n
  let act := if clocOf e.word then 0 else actOf e.word
  if act = 0 && e.outRec = none && !e.poison then s
  else modEntry (send s (.stall p) (.stall q) .req c (.done (hD e.word) act e.outRec e.poison)) p n fun v =>
    { v with sends := v.sends ++ [(s.msgSeq, q)] }

/-- After its sends an entry no longer gives a local record, and with CLOC = 0 its action takes effect elsewhere. -/
def sentEntry (s : State) (p n : Nat) (elsewhere : Bool) : State :=
  modEntry s p n fun e => { e with outRec := none, mute := e.mute || elsewhere }

/-- YD.PUT: to one stall, or as D's owner table assigns each line (R270). With DEST = 0x3FF an absent stall is recorded once,
whatever the lines for it, and the action still takes effect at the other destinations (DESIGN CHOICE, log 100); without an
iteration there is no destination, and the action takes effect at the issuing stall (R115; DESIGN CHOICE, log 100). -/
def ydPutRun (p : Nat) (t : Fin 4) (s : State) (w : W128) (c : Nat) : State :=
  let (s1, n) := takeEntry s p t w c .yd true
  let s2 := carryPoison s1 p n w
  let e := entryAt s2 p n
  let img := imageOf s c
  let dev := deviceId s
  let da := decl img (hA w)
  let dd := decl img (hD w)
  let pa := pieceOf img dev da (lidOf s p)
  let its := entryIts e
  let line (s : State) (js : List Nat) : Line := readPiece s p c da pa (addrA e js)
  if destLid w = 0x3FF then
    let tgt (js : List Nat) : Option (Nat × Nat) := placeOfLine dev dd (addrD e js)
    let lids := (its.filterMap fun js => (tgt js).map (·.1)).dedup
    let s3 := its.foldl (fun s js =>
      let s0 := parityPiece s p c pa [addrA e js]
      match tgt js with
      | none => countDrop s0 p c 1
      | some (l, x) => match posOfLid s l with
        | none => s0
        | some q => sendLine s0 p n q c 1 (.loft (hD w) x) (line s0 js)) s2
    let s4 := lids.foldl (fun s l => match posOfLid s l with
      | none => recordAbsent s p e
      | some q => sendTail s p n q c) s3
    sentEntry s4 p n (!clocOf w && its ≠ [])
  else
    match posOfLid s (destLid w) with
    | none => engineAbsent s2 p n e
    | some q =>
      let s3 := its.foldl (fun s js =>
        let s0 := parityPiece s p c pa [addrA e js]
        sendLine s0 p n q c 1 (.piece (hD w) (addrD e js)) (line s0 js)) s2
      sentEntry (sendTail s3 p n q c) p n (!clocOf w)

/-- The positions whose router's set table marks them as members of a set (R277, R281). -/
def setPositions (s : State) (i : Nat) : List Nat :=
  (s.positions.filter fun e => (nget (false, none) (stall s e.1).setTab i).1).map (·.1)

/-- YD.MCAST: each line is injected once, and the routers of the mapped members of the set write a copy; an absent member is
recorded once (R272, R275, R277). -/
def ydMcastRun (p : Nat) (t : Fin 4) (s : State) (w : W128) (c : Nat) : State :=
  let (s1, n) := takeEntry s p t w c .yd true
  let s2 := carryPoison s1 p n w
  let e := entryAt s2 p n
  let img := imageOf s c
  let da := decl img (hA w)
  let pa := pieceOf img (deviceId s) da (lidOf s p)
  let i := bitsOf (modE2 w) 7 0
  let qs := setPositions s i
  let s3 := if (setMembers img i).all fun l => (posOfLid s l).isSome then s2 else recordAbsent s2 p e
  let s4 := (entryIts e).foldl (fun s js =>
    let s0 := yardCount (parityPiece s p c pa [addrA e js]) 6 1
    qs.foldl (fun s q => sendLine s p n q c 0 (.piece (hD w) (addrD e js)) (readPiece s0 p c da pa (addrA e js))) s0) s3
  sentEntry (qs.foldl (fun s q => sendTail s p n q c) s4) p n (!clocOf w)

/-- A flag write or counter add to a logical ID: on the bulk path, or on the Bridleway (R273, R275). -/
def sendWord (bridle : Bool) (p : Nat) (t : Fin 4) (s : State) (w : W128) (c : Nat) (b : Body) : State :=
  let (s1, n) := takeEntry s p t w c .yd true
  match posOfLid s (destLid w) with
  | none => engineAbsent s1 p n (entryAt s1 p n)
  | some q =>
    let id := s1.msgSeq
    let s2 := if bridle then sendBridle s1 (.stall p) (.stall q) c b else send s1 (.stall p) (.stall q) .req c b
    modStall (modEntry s2 p n fun e => { e with sends := e.sends ++ [(id, q)] }) p fun x =>
      { x with unacked := x.unacked ++ [id] }

/-- The flag write of YD.FLAG and YD.BFLAG: MOD 17:10 FLAG, 18 VALUE. -/
def flagBody (p : Nat) (w : W128) : Body :=
  .flag (BitVec.ofNat 8 (bitsOf (modE2 w) 17 10)) (bitOf (modE2 w) 18) (some p)

/-- The counter add of YD.CADD and YD.BCADD: MOD 13:10 CTR, 25:14 ADD in two's complement. -/
def caddBody (p : Nat) (w : W128) : Body :=
  .cadd (BitVec.ofNat 4 (bitsOf (modE2 w) 13 10)) (BitVec.ofInt 32 (signedOf 12 (bitsOf (modE2 w) 25 14))) (some p)

/-- YD.PUT (R270, R271). -/
def execYdPut (p : Position) (t : TeamIx) (s : State) : Host.Outcome State Fault Refusal :=
  .next (issueOp s p t 0x90 (ydPutRun p t))

/-- YD.MCAST (R272). -/
def execYdMcast (p : Position) (t : TeamIx) (s : State) : Host.Outcome State Fault Refusal :=
  .next (issueOp s p t 0x91 (ydMcastRun p t))

/-- YD.FLAG (R273). -/
def execYdFlag (p : Position) (t : TeamIx) (s : State) : Host.Outcome State Fault Refusal :=
  .next (issueOp s p t 0x92 fun s w c => sendWord false p t s w c (flagBody p w))

/-- YD.CADD (R273). -/
def execYdCadd (p : Position) (t : TeamIx) (s : State) : Host.Outcome State Fault Refusal :=
  .next (issueOp s p t 0x93 fun s w c => sendWord false p t s w c (caddBody p w))

/-- YD.BFLAG (R273). -/
def execYdBflag (p : Position) (t : TeamIx) (s : State) : Host.Outcome State Fault Refusal :=
  .next (issueOp s p t 0x94 fun s w c => sendWord true p t s w c (flagBody p w))

/-- YD.BCADD (R273). -/
def execYdBcadd (p : Position) (t : TeamIx) (s : State) : Host.Outcome State Fault Refusal :=
  .next (issueOp s p t 0x95 fun s w c => sendWord true p t s w c (caddBody p w))

end Sys2Proof.Machine
end

