-- ==== Sys2Proof/Machine/Drover.lean ====
section
/-!
DEFINITION. The Drovers (08): DRV.KEY and DRV.WT (R246 to R251), service of requests and gangs (R251 to R257), the seed
expander and its check (R244, R258).
-/

namespace Sys2Proof.Machine

/-! ### Descriptor entries (R248) -/

/-- The positions of an entry's destinations on a die. -/
def drvPositions (s : State) (c d : Nat) (l : Line) : List Nat :=
  ((drvDests (imageOf s c) l).filterMap (posOfLid s)).filter fun q => dieOf q = d

/-- The logical IDs of an entry's destinations that no ENABLED stall holds. -/
def drvMissing (s : State) (c : Nat) (l : Line) : List Nat :=
  (drvDests (imageOf s c) l).filter fun x => (posOfLid s x).isNone

/-- The Drovers to which a stall sends an entry (R251). -/
def drvDies (s : State) (c : Nat) (l : Line) : List Nat :=
  (((drvDests (imageOf s c) l).filterMap (posOfLid s)).map dieOf).dedup

/-! ### Issue -/

/-- Send one entry's request to Drover d, with the tag of D's local record as it stands now (R251). -/
def drvAsk (s : State) (p n d : Nat) (l : Line) : State :=
  let e := entryAt s p n
  let id := s.msgSeq
  let r : DrvEntry := { ctx := e.ctx, lid := lidOf s p, pos := p, entry := n, key := opcodeOf e.word = 0xA0, a := hA e.word,
                        tag := BitVec.ofNat 64 (recTag (localRec s p (hD e.word))), words := l, poison := e.poison, id := id,
                        origin := ⟨p, e.team, e.pc⟩ }
  modEntry (sendBridle s (.stall p) (.drover d) e.ctx (.drv r)) p n fun v => { v with waits := v.waits ++ [id] }

/-- Send the requests of entry n in order, each into a free place of its Drover; the others stay with the entry (R251). -/
def drvAsks (p n : Nat) : List (Nat × Line) → State → State
  | [], s => modEntry s p n fun v => { v with asks := [] }
  | (d, l) :: rest, s =>
    if drvSent s d p + drvHeld s d p < 4 then drvAsks p n rest (drvAsk s p n d l)
    else modEntry s p n fun v => { v with asks := (d, l) :: rest }

/-- The stalls send the requests for which Drover places have become free, in the order of issue (R251). -/
def drvPump (s : State) : State :=
  s.stalls.foldl (fun s x =>
    (((liveEntries x.2).filter fun e => e.2.asks ≠ []).mergeSort fun a b => decide (a.2.seq ≤ b.2.seq)).foldl (fun s e =>
      drvAsks x.1 e.1 e.2.asks s) s) s

/-- DRV.KEY and DRV.WT: for each entry of the descriptor that is not NULL, a request to the Drover of each die on which
a destination lies (R249, R251). An entry none of whose destinations is mapped goes to no Drover, and its stall records the absent
destination (R21; DESIGN CHOICE, log 102). -/
def drvRun (p : Nat) (t : Fin 4) (s : State) (w : W128) (c : Nat) : State :=
  let (s1, n) := takeEntry s p t w c .drv true
  let s2 := carryPoison s1 p n w
  let e := entryAt s2 p n
  let img := imageOf s c
  let db := decl img (hB w)
  let pb := pieceOf img (deviceId s) db (lidOf s p)
  let s3 := parityPiece s2 p c pb ((entryIts e).map (addrB e))
  let ls := ((entryIts e).map fun js => readPiece s3 p c db pb (addrB e js)).filter fun l => !(l.all (· = 0))
  let s4 := (ls.filter fun l => drvDies s3 c l = []).foldl (fun s _ => recordAbsent s p e) s3
  drvAsks p n (ls.flatMap fun l => (drvDies s3 c l).map fun d => (d, l)) s4

/-- DRV.KEY (R246, R251). -/
def execDrvKey (p : Position) (t : TeamIx) (s : State) : Host.Outcome State Fault Refusal :=
  .next (issueOp s p t 0xA0 (drvRun p t))

/-- DRV.WT (R246, R251). -/
def execDrvWt (p : Position) (t : TeamIx) (s : State) : Host.Outcome State Fault Refusal :=
  .next (issueOp s p t 0xA1 (drvRun p t))

/-! ### What a Drover reads -/

/-- Key i of an entry's hoist group, or the weight handle (R248, R254). -/
def drvHandle (e : DrvEntry) (i : Nat) : Nat := if e.key then e.a + drvField e.words 1 11 0 + i else e.a

/-- Keys of the hoist group. -/
def drvKeys (e : DrvEntry) : List Nat := if e.key then List.range (drvField e.words 0 11 8 + 1) else [0]

/-- The copy of a handle that Drover d reads: at BASE, or at the BASE1 of its KEY or MIRROR record (R240, R241). -/
def drvCopy (img : Image) (d h : Nat) : HDecl :=
  let x := decl img h
  if d = 0 then x else
  match img.keys.find? fun k => k.handle = h with
  | some k => { x with base := k.base1 }
  | none => match img.mirrors.find? fun m => m.1 = h with
    | some m => { x with base := m.2 }
    | none => x

/-- Read lines of a copy, with what is met at each granule: the lines as delivered, whether any granule came back poisoned (R257,
R313, R314), and the state. -/
def drvRead (s : State) (d c : Nat) (x : HDecl) (ls : List Nat) (errs : MemErrs) : List Line × Bool × State :=
  let r := (ls.flatMap (lineGranules x)).dedup.foldl (fun (acc : List (Nat × List Byte) × Bool × State) g =>
    let y := readFor acc.2.2 c g (errs.at_ g) true
    (acc.1 ++ [(g, y.1)], acc.2.1 || y.2.1, y.2.2)) ([], false, s)
  (ls.map (lineFromGrans x r.1), r.2.1, drvCount r.2.2 d 0 ls.length)

/-- The first line and the number of lines of an entry's part of a slot (R254), or of a weight's range. -/
def drvRange (img : Image) (e : DrvEntry) : Nat × Nat :=
  if e.key then
    let x := decl img (drvHandle e 0)
    let n := x.pitch / 2 ^ drvField e.words 1 22 20
    (drvField e.words 1 19 12 * x.pitch + drvField e.words 1 28 23 * n, n)
  else (drvField e.words 2 31 0, drvField e.words 3 23 0)

/-- Seed of a key handle and EXP_CHECK of a slot, from its trailer (R239). -/
def drvTrailer (s : State) (img : Image) (x : HDecl) (slot : Nat) : List Byte × Nat :=
  let ch := (chainOf img x.chain).getD {}
  let t := (ch.qcount + ch.pcount) * x.pitch
  let l0 := lineAt s x x.base t
  ((List.range 8).flatMap (fun i => leBytes 4 (wordAt l0 i).toNat),
   (wordAt (lineAt s x x.base (t + 1 + slot / 16)) (slot % 16)).toNat % 2 ^ 32)

/-- The words of k1 of a slot (R244). -/
def drvExpand (s : State) (img : Image) (x : HDecl) (slot : Nat) : List Nat :=
  expandSlot (drvTrailer s img x slot).1 (chainPrime ((chainOf img x.chain).getD {}) slot) slot (16 * x.pitch)

/-- CRC-32C over words, 5 bytes each (R244). -/
def crcWords (ws : List Nat) : Nat := crc32c (ws.flatMap (leBytes 5))

/-! ### Delivery -/

/-- Column of a position. -/
def columnOf (p : Nat) : Nat := p % 32

/-- Deliver lines to every destination of every member, from target line `off` of each (R254, R255); one port slot
carries a line to all the destinations of a column that share handle and target line. -/
def drvDeliver (s : State) (d : Nat) (ms : List DrvEntry) (off : DrvEntry → Nat) (ls : List Line) : State :=
  let tgts := ms.flatMap fun e => (drvPositions s e.ctx d e.words).map fun q => (e, q)
  let slots := (tgts.map fun (e, q) => (columnOf q, drvField e.words 5 11 0, off e)).dedup.length
  let s1 := drvCount s d 2 (slots * ls.length)
  tgts.foldl (fun s (e, q) => (ls.zipIdx).foldl (fun s (l, i) =>
    sendBulk s (.drover d) (.stall q) .req e.ctx
      (.line (.piece (drvField e.words 5 11 0) ((off e + i : Nat) : Int)) l false (stampOf s e.ctx) none e.origin) 1) s) s1

/-- Poison notices for the target of an entry to every destination on the die (R252, R257, R258). -/
def drvNotices (s : State) (d : Nat) (ms : List DrvEntry) : State :=
  ms.foldl (fun s e => (drvPositions s e.ctx d e.words).foldl (fun s q =>
    send s (.drover d) (.stall q) .req e.ctx (.poison (drvField e.words 5 11 0))) s) s

/-- The destination actions of the members, and the report of each to its issuing stall (R255, R256). -/
def drvFinish (s : State) (d : Nat) (ms : List DrvEntry) : State :=
  ms.foldl (fun s e =>
    let act := BitVec.ofNat 15 (drvField e.words 9 14 0)
    let s1 := if act = 0 then s else (drvPositions s e.ctx d e.words).foldl (fun s q =>
      send s (.drover d) (.stall q) .req e.ctx (.done (drvField e.words 5 11 0) act none false)) s
    sendBridle s1 (.drover d) (.stall e.pos) e.ctx (.drvDone e.id)) s

/-- A Drover event: DRV_ERR keeps the first (R258), with its code, the requesting stall, handle and slot. -/
def drvError (s : State) (d : Nat) (e : DrvEntry) (h code : Nat) : State :=
  recordFirst s (0x0300010 + d * 0x10000)
    (e.ctx % 64 * 2 ^ 56 + e.lid % 1024 * 2 ^ 46 + h % 4096 * 2 ^ 34 + drvField e.words 1 19 12 * 2 ^ 26 + code)

/-- Report a fault of Drover d for a member (R86, R477). -/
def drvReport (s : State) (d : Nat) (e : DrvEntry) (h code : Nat) : State :=
  reportFault s (1000 + d) code (d + 1024 * e.lid) e.ctx e.lid 0 h

/-- An entry's destinations that are no longer mapped return ENGINE_ABSENT to the Drover that serves it, to the first one where two
do (R21, R275; DESIGN CHOICE, log 102). -/
def drvAbsent (s : State) (d : Nat) (e : DrvEntry) : State :=
  if (drvDies s e.ctx e.words).headD d ≠ d then s else
  (drvMissing s e.ctx e.words).foldl (fun s l => absentReturn s (1000 + d) (d + 1024 * e.lid) e.ctx l) s

/-- The Drover has fetched the record of a handle; it holds at most 256 (R261). A further one takes the place of the oldest (DESIGN
CHOICE, log 106). -/
def drvCacheRec (s : State) (d c h : Nat) : State :=
  modDrover s d fun x => if x.recs.contains (c, h) then x else { x with recs := (x.recs ++ [(c, h)]).drop (x.recs.length - 255) }

/-- The key-set tag of every key of a member's hoist group equals the request's (R252). -/
def drvTagOk (s : State) (e : DrvEntry) : Bool :=
  !e.key || (drvKeys e).all fun i => recTag (nget {} (ctx s e.ctx).handles (drvHandle e i)).record = e.tag.toNat

/-- Read the c0 lines of key i of an entry where its request asks for that half, and deliver them (R248, R254); with whether
anything came back poisoned (R257). -/
def drvReadHalf (d : Nat) (ms : List DrvEntry) (e : DrvEntry) (img : Image) (rows : List Nat) (errs : MemErrs) (s : State) (i : Nat) :
    Bool × State :=
  if e.key && drvField e.words 0 13 12 % 2 = 0 then (false, s) else
  let r := drvRead s d e.ctx (drvCopy img d (drvHandle e i)) rows errs
  (r.2.1, drvDeliver r.2.2 d ms (fun y => drvField y.words 6 23 0 + i * drvField y.words 8 23 0) r.1)

/-- Read the trailer of key i of an entry where the half to be expanded is asked for (R239, R248). -/
def drvReadTrailer (d : Nat) (e : DrvEntry) (img : Image) (errs : MemErrs) (s : State) (i : Nat) : Bool × State :=
  if !(e.key && 2 ≤ drvField e.words 0 13 12) then (false, s) else
  let x := drvCopy img d (drvHandle e i)
  let ch := (chainOf img x.chain).getD {}
  let t := (ch.qcount + ch.pcount) * x.pitch
  let r := drvRead s d e.ctx x [t, t + 1 + drvField e.words 1 19 12 / 16] errs
  (r.2.1, r.2.2)

/-- Read what key i of an entry needs of its copy; the flag says whether anything came back poisoned so far. -/
def drvReadKey (d : Nat) (ms : List DrvEntry) (e : DrvEntry) (img : Image) (rows : List Nat) (errs : MemErrs) (acc : Bool × State)
    (i : Nat) : Bool × State :=
  let a := drvReadHalf d ms e img rows errs acc.2 i
  let b := drvReadTrailer d e img errs a.2 i
  (acc.1 || a.1 || b.1, b.2)

/-- Serve the members of a gang, or one entry (R252 to R258). KHANDLE and the report of a failed tag check name key 0 of the group,
whichever key differed (DESIGN CHOICE, log 107). -/
def drvServe (s : State) (d : Nat) (ms : List DrvEntry) (bad : Bool) (errs : MemErrs) : State :=
  match ms with
  | [] => s
  | e :: _ =>
    let img := imageOf s e.ctx
    let s := ms.foldl (fun s x => drvAbsent s d x) s
    let s := ms.foldl (fun s x => (drvKeys x).foldl (fun s i => drvCacheRec s d x.ctx (drvHandle x i)) s) s
    match ms.filter fun x => !drvTagOk s x with
    | m :: ms' =>
      -- nothing is read; every member's targets are poisoned, and each request that mismatched is a fault
      let s1 := (m :: ms').foldl (fun s x => drvError s d x (drvHandle x 0) 0x0401) s
      let s2 := drvNotices s1 d ms
      let s3 := (m :: ms').foldl (fun s x => sendBridle s (.drover d) (.stall x.pos) x.ctx (.drvBad x.entry (drvField x.words 5 11 0))) s2
      ms.foldl (fun s x => sendBridle s (.drover d) (.stall x.pos) x.ctx (.drvDone x.id)) s3
    | [] =>
      let s1 := drvCount s d 3 ms.length
      let s2 := if 2 ≤ ms.length then drvCount s1 d 4 1 else s1
      let halves := drvField e.words 0 13 12
      let (first, n) := drvRange img e
      let (pois, s3) := (drvKeys e).foldl (drvReadKey d ms e img ((List.range n).map (first + ·)) errs) (false, s2)
      -- a stored block whose tally does not verify is recorded, and its lines count as poisoned (R257, R396)
      let s4 := if bad then
          let h := drvHandle e 0
          trigger (recCount (drvReport (drvError s3 d e h 0x0802) d e h 0x0802) 4) e.ctx 0
        else s3
      let s5 := if bad || pois then drvNotices s4 d ms else drvNotices s4 d (ms.filter (·.poison))
      if e.key && 2 ≤ halves then
        modDrover s5 d fun x => { x with expands := nset none x.expands x.next (some { members := ms, todo := drvKeys e }),
                                         next := x.next + 1 }
      else drvFinish s5 d ms

/-! ### Requests and gangs -/

/-- The gang key of R253, with the context. -/
def gangKey (e : DrvEntry) : List Nat :=
  [e.ctx, drvField e.words 10 15 0, if e.key then 1 else 0, drvHandle e 0, drvField e.words 1 19 12, drvField e.words 0 13 12,
   drvField e.words 0 11 8, drvField e.words 1 22 20, drvField e.words 1 28 23, drvField e.words 2 31 0, drvField e.words 3 23 0]

/-- Open gangs of a Drover. -/
def openGangs (s : State) (d : Nat) : List (Nat × Gang) :=
  (drover s d).gangs.filterMap fun e => e.2.map fun g => (e.1, g)

/-- Remove a gang. -/
def closeGang (s : State) (d g : Nat) : State := modDrover s d fun x => { x with gangs := nset none x.gangs g none }

/-- A Drover accepts an entry: it is served alone, or joins or opens a gang, which is served when it is full (R253). -/
def drvAccept (s : State) (d : Nat) (e : DrvEntry) (bad : Bool) (errs : MemErrs) : State :=
  let count := drvField e.words 10 24 16
  if count < 2 || csrField s (0x0300008 + d * 0x10000) 19 0 = 0 then drvServe s d [e] bad errs else
  match (openGangs s d).find? fun g => g.2.key = gangKey e && g.2.members.length < g.2.size with
  | some (k, g) =>
    let ms := g.members ++ [e]
    if g.size ≤ ms.length then drvServe (closeGang s d k) d ms bad errs
    else modDrover s d fun x => { x with gangs := nset none x.gangs k (some { g with members := ms }) }
  | none =>
    if 64 ≤ (openGangs s d).length then drvServe s d [e] bad errs else
    modDrover s d fun x => { x with
      gangs := nset none x.gangs x.next (some { key := gangKey e, size := count, members := [e], at_ := s.ledger }),
      next := x.next + 1 }

/-- Whether the stacks that Drover d reads can serve it (R240, R328). -/
def drvStacksRun (s : State) (d : Nat) (e : DrvEntry) : Bool :=
  (drvKeys e).all fun i => stackRuns s (stackOf (drvCopy (imageOf s e.ctx) d (drvHandle e i)).base)

/-- Drover d can accept an entry: its stacks run and it has a place for the stall (R251, R328). -/
def drvTakes (s : State) (d : Nat) (e : DrvEntry) : Bool := drvStacksRun s d e && decide (drvHeld s d e.pos < 4)

/-- DRV_REQUEST: a request reaches its Drover. -/
def execDrvRequest (m : Nat) (r : DrvReads) (s : State) : Host.Outcome State Fault Refusal :=
  .next (match arriving s m with
    | some ⟨_, _, .drover d, _, _, .drv e⟩ => if drvTakes s d e then drvPump (drvAccept (dropMsg s m) d e r.bad r.errs) else s
    | _ => s)

/-- GANG_WAIT_EXPIRY: an open gang has waited GANG_WAIT_NS; the members held are served and the split is counted
(R253). -/
def execGangWaitExpiry (d : Fin 2) (g : GangServe) (s : State) : Host.Outcome State Fault Refusal :=
  .next (match nget none (drover s d).gangs g.gang with
    | none => s
    | some x =>
      if now s < x.at_.toNat + csrField s (0x0300008 + d.val * 0x10000) 19 0 then s
      else drvPump (drvServe (drvCount (closeGang s d g.gang) d 5 1) d x.members g.reads.bad g.reads.errs))

/-! ### The seed check (R258) -/

/-- SEED_CHECK: the expansion of a slot ends and its check is compared. `faulty` says that the expansion was disturbed:
its words are not those of R244, and the manual gives none. -/
def execSeedCheck (d : Fin 2) (e : Nat) (faulty : Bool) (s : State) : Host.Outcome State Fault Refusal :=
  .next (match nget none (drover s d).expands e with
    | none => s
    | some x => match x.members, x.todo with
      | m :: _, i :: rest =>
        let img := imageOf s m.ctx
        let h := drvHandle m i
        let k := drvCopy img d h
        let slot := drvField m.words 1 19 12
        let (first, n) := drvRange img m
        let skip := first - slot * k.pitch
        let good := drvExpand s img k slot
        let ok := !faulty && crcWords good = (drvTrailer s img k slot).2
        let s0 := drvCount s d 1 k.pitch
        let (ls, s1) : List Line × State :=
          if faulty then
            (List.range n).foldl (fun (acc : List Line × State) _ =>
              let (v, s2) := draw acc.2
              (acc.1 ++ [lineOfBytes (leBytes 72 v)], s2)) ([], s0)
          else ((List.range n).map (fun r => (List.range 16).map fun j => BitVec.ofNat 36 (good.getD (16 * (skip + r) + j) 0)), s0)
        let off (y : DrvEntry) : Nat := drvField y.words 6 23 0 + i * drvField y.words 8 23 0 + drvField y.words 7 23 0
        let s2 := if x.again && !ok then s1 else drvDeliver s1 d x.members off ls
        let put (s : State) (v : Option Expand) : State := modDrover s d fun y => { y with expands := nset none y.expands e v }
        let close (s : State) : State :=
          if rest = [] then drvPump (drvFinish (put s none) d x.members) else put s (some { x with todo := rest, again := false })
        if ok then close s2
        else if x.again then
          let s3 := drvCount (drvNotices s2 d x.members) d 7 1
          close (trigger s3 m.ctx 0)
        else
          let s3 := drvReport (drvError (drvCount s2 d 6 1) d m h 0x0402) d m h 0x0402
          put s3 (some { x with again := true })
      | _, _ => s)

end Sys2Proof.Machine
end

