-- ==== Sys2Proof/Machine/Contents.lean ====
section
/-!
DEFINITION. What the loader puts into stalls: role code (R132), conversion tables (R162) and constants (R235, R236);
used at INSTALL, at a substitution and before a re-run.
-/

namespace Sys2Proof.Machine

/-! ### Role code -/

/-- The lowest contiguous free range of n instructions of a stall's code store (R132). -/
def codeRoom (x : Stall) (n : Nat) : Option Nat :=
  let used := x.ranges.map (·.2)
  let starts := (0 :: used.map fun r => r.1 + r.2).mergeSort (· ≤ ·)
  starts.find? fun a => a + n ≤ 8192 && used.all fun r => r.1 + r.2 ≤ a || a + n ≤ r.1

/-- The role code of a logical ID. -/
def codeOf (img : Image) (lid : Nat) : List W128 := (nget {} img.roles (roleOf img lid)).code

/-- Place a context's role code in a stall. -/
def placeCode (s : State) (p c : Nat) (code : List W128) : State :=
  match codeRoom (stall s p) code.length with
  | none => s
  | some a => modStall s p fun x => { x with
      ranges := nset (0, 0) x.ranges c (a, code.length),
      code := (code.zipIdx).foldl (fun m (w, i) => nset 0 m (a + i) w) x.code }

/-- Free a context's code range (R132). -/
def freeCode (s : State) (p c : Nat) : State :=
  modStall s p fun x =>
    let r := codeRange x c
    { x with ranges := nset (0, 0) x.ranges c (0, 0), code := nclear x.code r.1 (r.1 + r.2) }

/-! ### Conversion tables (R45, R162) -/

/-- Words of a chain index for all indices below 64, as 4 lines. -/
def fourLines (f : Nat → Nat) : List Line :=
  (List.range 4).map fun l => (List.range 16).map fun w => BitVec.ofNat 36 (f (16 * l + w))

/-- Constants for a set of source primes: the inverses, and for each source 4 lines by chain index. -/
def convPart (ch : Chain) (src : List Nat) (target : Nat → Bool) : List Line :=
  let qs := src.foldl (· * ·) 1
  let inv (i : Nat) : Nat := match src[i]? with
    | some q => invMod (qs / q % q) q
    | none => 0
  ((List.range (ceilDiv src.length 16)).map fun l => (List.range 16).map fun w => BitVec.ofNat 36 (inv (16 * l + w))) ++
  src.flatMap fun q => fourLines fun k => if target k && decide (k < ch.primes.length) then qs / q % chainPrime ch k else 0

/-- Mod-up record r. -/
def convUp (ch : Chain) (r : Nat) : List Line :=
  let a := ceilDiv ch.qcount ch.dnum
  let f := r / a * a
  convPart ch ((ch.primes.drop f).take (r - f + 1)) fun k => decide (k < f) || decide (r < k)

/-- Mod-down record 64. -/
def convDown (ch : Chain) : List Line :=
  let ps := (ch.primes.drop ch.qcount).take ch.pcount
  let p := ps.foldl (· * ·) 1
  convPart ch ps (fun k => decide (k < ch.qcount)) ++
  fourLines fun k => if k < ch.qcount then invMod (p % chainPrime ch k) (chainPrime ch k) else 0

/-- The conversion table of a chain: the index in lines 0 to 4, then the records. -/
def convTable (ch : Chain) : List Line :=
  let recs := (List.range ch.qcount).map (convUp ch) ++ [convDown ch]
  let offs := (recs.foldl (fun (acc : List Nat × Nat) r => (acc.1 ++ [acc.2], acc.2 + r.length)) ([], 5)).1
  let word (w : Nat) : Nat := if w < ch.qcount then offs.getD w 0 else if w = 64 then offs.getD ch.qcount 0 else 0
  ((List.range 5).map fun l => (List.range 16).map fun w => BitVec.ofNat 36 (word (16 * l + w))) ++ recs.flatten

/-! ### Loader-written Loft contents -/

/-- The lines of a CONST record from its first line: words and mask. -/
def constLines (r : ConstRec) : List (Nat × Line × Nat) :=
  (List.range (ceilDiv r.words.length 16)).map fun l =>
    let ws := (r.words.drop (16 * l)).take 16
    (r.line + l, (List.range 16).map fun i => ws.getD i 0, 2 ^ ws.length - 1)

/-- A line with the words of a mask taken from another. -/
def overlay (old new : Line) (mask : Nat) : Line :=
  (List.range 16).map fun i => if bitOf mask i then new.getD i 0 else old.getD i 0

/-- Loft line, words and mask of everything that the loader writes into the Loft of a logical ID (R235, R236). -/
def loaderLines (img : Image) (dev lid : Nat) : List (Nat × Line × Nat) :=
  (img.consts.flatMap fun r =>
    let d := decl img r.handle
    let pc := pieceOf img dev d lid
    if 1 < d.place then [] else
    (constLines r).filterMap fun x => if x.1 < pc.lines then some (pc.base + x.1, x.2) else none) ++
  (img.handles.flatMap fun d =>
    if !isConv d then [] else
    let pc := pieceOf img dev d lid
    let t := convTable ((chainOf img d.chain).getD {})
    ((t.zipIdx).take pc.lines).map fun (l, i) => (pc.base + i, l, 0xFFFF))

/-- Write the loader's contents into a stall. -/
def writeContents (s : State) (p c : Nat) : State :=
  (loaderLines (imageOf s c) (deviceId s) (lidOf s p)).foldl (fun s x => loftWrite s p x.1 c x.2.1 x.2.2) s

/-- Before a re-run the Yardmaster rewrites the failing lines that hold contents of the loader (R233). -/
def rewriteFailing (s : State) (c : Nat) : State :=
  let s1 := (recOf s c).failing.foldl (fun s (p, line) =>
    ((loaderLines (imageOf s c) (deviceId s) (lidOf s p)).filter fun x => x.1 = line).foldl (fun s x =>
      loftWrite s p x.1 c x.2.1 x.2.2) s) s
  modRec s1 c fun r => { r with failing := [] }

end Sys2Proof.Machine
end

