-- ==== Sys2Proof/Machine/Tables.lean ====
section
/-!
DEFINITION. The tables that the Yardmaster writes for a running context: the prime table of every stall (R167, R168) and the set
table of every router (R281).
-/

namespace Sys2Proof.Machine

/-- The bit length of a number. -/
def bitLen (q : Nat) : Nat := if q = 0 then 0 else Nat.log2 q + 1

/-- The prime table's entries of one prime (R43, R44, R51, R146, R167): q, b, mu, f, mud, ψ, ψ^(−1), N^(−1), t^(−1), LQ. They are
held as numbers: mu and mud of R43 and R146 need more than the 36 bits that R167 names (DEDUCED, log 101). -/
def primeWords (ch : Chain) (i : Nat) : List Nat :=
  let q := chainPrime ch i
  let psi := ch.roots.getD i 0
  [q, bitLen q, 2 ^ (2 * bitLen q) / q, 2 ^ 72 % q, 2 ^ 80 / q, psi, invMod psi q, invMod (2 ^ ch.logN) q,
   if ch.bgv then invMod (ch.plainMod % q) q else 0, lqOf q]

/-- The prime table's entries of a chain (R167, R168): those of each prime, LOGQ of each ciphertext level, and qinv of each pair of
ciphertext primes. -/
def chainTable (ch : Chain) : List Nat :=
  (List.range (ch.qcount + ch.pcount)).flatMap (primeWords ch) ++
  (List.range ch.qcount).map (fun l => if ch.bgv then 0 else logqOf ch l) ++
  (List.range ch.qcount).flatMap fun l => (List.range l).map fun i =>
    invMod (chainPrime ch l % chainPrime ch i) (chainPrime ch i)

/-- The prime table of a context (R167). -/
def primeTable (img : Image) : List Nat := img.chains.flatMap chainTable

/-- The set table of the router at p (R281): for each set, whether the position is a member, and the least and the greatest row of
the members in its column. -/
def setTable (s : State) (img : Image) (p : Nat) : NMap (Bool × Option (Nat × Nat)) :=
  img.mcast.foldl (fun t m =>
    let qs := m.members.filterMap (posOfLid s)
    let rows := (qs.filter fun q => q % 32 = p % 32).map (· / 32)
    let ext := match rows with
      | [] => none
      | r :: rs => some (rs.foldl min r, rs.foldl max r)
    nset (false, none) t m.index (qs.contains p, ext)) []

/-- The Yardmaster writes every router's set table for a context (R281). -/
def writeSetTables (s : State) (c : Nat) : State :=
  s.positions.foldl (fun t e => modStall t e.1 fun x => { x with setTab := setTable s (imageOf s c) e.1 }) s

/-- The Yardmaster writes the prime table of a context to a stall (R168). -/
def writePrimeTable (s : State) (p c : Nat) : State := modStall s p fun x => { x with primeTab := primeTable (imageOf s c) }

end Sys2Proof.Machine
end

