-- ==== Sys2Proof/Machine/Retire.lean ====
section
/-!
DEFINITION. Retirement and substitution of stalls (R17 to R21, R98, R392, R393), the IVR target (R465), and the stop of
contexts that an unmapped logical ID leaves without a stall (R21).
-/

namespace Sys2Proof.Machine

/-- A stall enters OFF: its state is lost and its Loft valid bits are cleared (R95, R168, R210). Its router keeps its set table (R277),
and the drops that it has counted reach their contexts first (R237). -/
def stallOff (s : State) (p : Nat) : State :=
  let s1 := (stall s p).drops.foldl (fun s d => bumpBy s (0x4000 + 8 * d.1) 0x4200 d.1 d.2) s
  loftInvalidate (csrSetField (setStall s1 p { pwr := .off, setTab := (stall s p).setTab }) (stallCsr p 0x300) 9 0 0) fun q _ _ => q = p

/-- The positions in a state. -/
def positionsIn (s : State) (st : PosSt) : List Nat := (s.positions.filter fun e => e.2.st = st).map (·.1)

/-- Yard hops between two positions, a seam crossing counting as one hop. -/
def hops (p q : Nat) : Nat :=
  let d (a b : Nat) : Nat := if a ≤ b then b - a else a - b
  d (p % 32) (q % 32) + d (p / 32) (q / 32)

/-- Preference of a spare for a retired position: fewest hops, then the same die, then the lowest index (R19). -/
def spareRank (p q : Nat) : Nat := hops p q * 2 ^ 12 + (if p % 32 / 16 = q % 32 / 16 then 0 else 2 ^ 11) + q

/-- The spare that the Yardmaster chooses (R19). -/
def chooseSpare (s : State) (p : Nat) : Option Nat :=
  (positionsIn s .spare).foldl (fun b q => match b with
    | none => some q
    | some x => if spareRank p q < spareRank p x then some q else b) none

/-- SCAN_CTL. -/
def scanCtl : Nat := 0x0C00100

/-- The position under test, if any (R467). -/
def scanning (s : State) : Option Nat :=
  if csrBit s scanCtl 62 then (s.positions.find? fun e => e.2.scan).map (·.1) else none

/-- A test is abandoned when a retirement needs the only remaining spare (R467). -/
def abandonScan (s : State) : State :=
  match scanning s with
  | none => s
  | some q =>
    if (position s q).st ≠ .outOfService || positionsIn s .spare ≠ [] then s else
    csrSetField (csrSetField (modPos s q fun x => { x with st := .spare, scan := false }) scanCtl 62 62 0) scanCtl 61 60 3

/-- The spare at q takes a logical ID: role code of every resident context, the running context's tables, and the live
context of the retired stall (R19, R462). -/
def substitute (s : State) (q lid : Nat) (live : StallCtx) : State :=
  let s1 := modPos s q fun x => { x with st := .enabled, lid := lid }
  let s2 := modStall s1 q fun x => { x with live := live, pwr := .run }
  let s2 := if runningNo s = 64 then s2 else writeSetTables (writePrimeTable s2 q (runningNo s)) (runningNo s)
  s2.ctxs.foldl (fun s e => match e.2.image with
    | some img => if roleOf img lid = 0xFFFF then s else placeCode s q e.1 (codeOf img lid)
    | none => s) s2

/-- A context that uses an unmapped logical ID is stopped; its START completes with STOPPED, and the host and the Ostler
are told, under a code that the manual does not give (R21; DESIGN CHOICE, log 2). -/
def stopContext (s : State) (p lid c : Nat) : State :=
  let (v, s0) := draw s
  let s1 := modCtx s0 c fun x => { x with st := .stopped }
  let s2 := reportOstler s1 p (v % 2 ^ 16) (lid + 4096 * p) c
  let s3 := emitRecord s2 (record s2 0 2 4 (v % 2 ^ 16) 0 lid c) true
  let s4 := if runningNo s3 = c then
      { s3 with ym := { s3.ym with running := none },
                stalls := (s3.stalls.map fun e => (e.1, { e.2 with live := {}, entries := [], hcache := [], tiles := [], ma := {}, unacked := [] })).filter
                  fun e => decide (e.2 ≠ ({} : Stall)) }
    else s3
  match (ctx s4 c).cur with
  | some e => completeCmd s4 c e.packet 4 0 0
  | none => s4

/-- Retire the stall at p for a cause, and substitute a spare, or leave its logical ID unmapped (R17, R19, R21). -/
def retire (s : State) (p : Nat) (cause : BitVec 2) : State :=
  let lid := lidOf s p
  let live := (stall s p).live
  let v := cause.toNat * 2 ^ 60 + p % 1024 * 2 ^ 50 + lid % 1024 * 2 ^ 40 + now s / 1024 % 2 ^ 40
  let s1 := recordFirst s 0x7608 v
  let s2 := stallOff (modPos s1 p fun x => { x with st := .retired, lid := 0x3FF, await := none, cause := cause }) p
  if lid = 0x3FF then s2 else
  let s3 := abandonScan s2
  match chooseSpare s3 p with
  | some q => substitute s3 q lid live
  | none =>
    let s3 := if runningNo s = 64 then s3 else writeSetTables s3 (runningNo s)
    s3.ctxs.foldl (fun s e => match e.2.image with
      | some img => if e.2.st = .resident && roleOf img lid ≠ 0xFFFF then stopContext s p lid e.1 else s
      | none => s) s3

/-- The stalls that await retirement and run no instruction retire at a context boundary. -/
def retireAwaiting (s : State) : State :=
  s.positions.foldl (fun s e => match e.2.await with
    | some cause => if (stall s e.1).entries.all (fun v => v.2.isNone) then retire s e.1 cause else s
    | none => s) s

/-- A scan asked for takes its position out of service at a context boundary (R467). -/
def scanBoundary (s : State) : State :=
  match scanning s with
  | some q => if (position s q).st = .spare && (position s q).scan then modPos (stallOff s q) q fun x => { x with st := .outOfService } else s
  | none => s

/-- The IVR target of a stall takes effect (R465). -/
def applyTarget (s : State) (p : Nat) : State :=
  if (stall s p).target = 0 || (stall s p).pwr = .off then s else csrSetField s (stallCsr p 0x300) 9 0 (stall s p).target

end Sys2Proof.Machine
end

