-- ==== Sys2Proof/Machine/EngineEvents.lean ====
section
/-!
DEFINITION. Events of a stall's engines and Teams: completion of an engine instruction (R78, R390, R482), arbitration
(R391 to R393), release of a fence (R30), comparators (R84) and wait timeouts (R290, R291).
-/

namespace Sys2Proof.Machine

/-- A Team halts on a fault that names no instruction's destination (R87): its fault is recorded and reported. -/
def haltFault (s : State) (p c : Nat) (t : Fin 4) (pc handle action code : Nat) : State :=
  stallFault (noteHalt (modTeam s p t fun m => { m with st := .halted, cause := 0 }) p c t code) p c t pc handle action code

/-! ### What a local instruction does when it runs -/

/-- The Transform Engine's instruction of an opcode. -/
def teFun (op : Nat) : TeArg → Nat → List Nat → List Nat :=
  match op with
  | 0x30 => teNttF
  | 0x31 => teInttF
  | 0x32 => teAutoF
  | 0x33 => teNtt4F
  | _ => teIntt4F

/-- The effect of entry n on its stall's Loft, banks and tiles; with `lim` the part of it that an abort leaves (R88). -/
def runEntry (lim : Option Nat) (p n : Nat) (s : State) : State :=
  let e := entryAt s p n
  match e.engine with
  | .ma => match opcodeOf e.word with
    | 0x10 => if lim = some 0 then s else maFormRun p e s
    | 0x13 => maDrainRun lim p n e s
    | op => maMacRun (op = 0x12) p e s
  | .te => teRun (teFun (opcodeOf e.word)) lim p n e s
  | .ee => eeRun lim p n e s
  | .ct => match opcodeOf e.word with
    | 0x73 => ctGatherRun lim p n e s
    | 0x76 => ctFillRun lim p n e s
    | op => ctScatterRun (op = 0x75) lim p n e s
  | _ => s

/-- An entry whose effect has not been made makes it now. -/
def ranEntry (p n : Nat) (s : State) : State :=
  if (entryAt s p n).started then s
  else modEntry (runEntry none p n s) p n fun v => { v with started := true }

/-! ### Completion -/

/-- An instruction completes at its stall: the destination's record and poison, the completion action unless it takes
effect elsewhere or is lost, and the entry is free (R55, R78, R107). -/
def finishEntry (s : State) (p n : Nat) (e : Entry) : State :=
  let s1 := settleDest (ctOrder s p e) p e.ctx e
  let s2 := if e.mute then s1 else modLive s1 p fun x => applyAct x (actOf e.word)
  dropEntry s2 p n

/-- Engines whose instructions finish in the order of issue; the Carter's and the Drover's need not (R74, R228, R256, R417). -/
def inOrder (g : Engine) : Bool := g = .ma || g = .te || g = .ee || g = .yd

/-- Whether an entry can finish: nothing that it sent or asked for is outstanding, no arbitration, its tiles are there (R153) and
its turn has come (R74, R139). One without an iteration completes whatever stands before it (R115). -/
def canFinish (s : State) (p : Nat) (e : Entry) : Bool :=
  e.engine ≠ .drv && e.waits = [] && !e.arb && !ctHeld s p e &&
  (entryIts e = [] || (!(inOrder e.engine && olderSame (stall s p) e.engine e.seq) && (e.started || e.engine ≠ .ee || tilesReady s p e)))

/-- Whether an instruction passes a unit that the residue check covers (R163, R193): the sums and products of a streamed row, the
reduction of a drain, every Transform Engine instruction, modular arithmetic, integer sums and products, significand products. -/
def isChecked (s : State) (p : Nat) (e : Entry) : Bool :=
  let op := opcodeOf e.word
  let img := imageOf s e.ctx
  entryIts e ≠ [] && match e.engine with
    | .ma => op = 0x11 || op = 0x12 ||
        (op = 0x13 && ((activeBank (stall s p).ma).mode = .mod || (activeBank (stall s p).ma).mode = .int))
    | .te => true
    | .ee =>
      if op = 0x59 then bitsOf (modE2 e.word) 1 0 = 0 && !isFloat (eeTypeA img e.word)
      else eeArith op && match eeDomain img e.word with
        | .modular => true
        | .word => false
        | .typed et => !isFloat et || op = 0x43 || op = 0x44
    | _ => false

/-- The destination of an instruction that stops is poisoned, and that of a send also where it has reached, by a mark that travels
behind its lines (R503). -/
def poisonReached (s : State) (p c : Nat) (e : Entry) : State :=
  let op := opcodeOf e.word
  let lids := (e.sends.map (·.2)).dedup
  (if op = 0x90 || op = 0x91 then lids else []).foldl
    (fun s q => send s (.stall p) (.stall q) .req c (.done (hD e.word) 0 none true)) (poisonDest s p c e.word)

/-- A mismatch is raised: the unit awaits its arbitration, its result held (R194). A streamed instruction has filled the bank, which
the snapshot registers can restore (R164). -/
def residueFound (s : State) (p n : Nat) (e : Entry) : State :=
  let s1 := stallFault s p e.ctx e.team e.pc.toNat (destHandle e.word) (faultAction (imageOf s e.ctx) e.word) 0x0801
  let s2 := if e.engine = .ma && opcodeOf e.word ≠ 0x13 then ranEntry p n s1 else s1
  modEntry (recCount s2 0) p n fun v => { v with arb := true }

/-- The Loft banks suppress an access of an instruction (R482): a write of the line does not happen (what stands in the line of an
access that landed earlier is not fixed), or a read gives words that nothing fixes. Its destination is poisoned, its Team halts and its entry is free. -/
def suppressed (s : State) (p n line : Nat) : State :=
  let s1 := ranEntry p n s
  let e := entryAt s1 p n
  let s2 := if !e.wrote.contains line then freeLines s1 p e.ctx e.wrote.dedup
    else if (entryAt s p n).started then freeLines s1 p e.ctx [line]
    else setLoft s1 p line (loftLine s p line)
  dropEntry (haltFault (poisonReached s2 p e.ctx e) p e.ctx e.team e.pc.toNat (destHandle e.word)
    (faultAction (imageOf s e.ctx) e.word) 0x0302) p n

/-- ENGINE_INSTRUCTION_COMPLETE: the effect that the instruction has on its own stall is made, unless a check holds it. -/
def execEngineInstructionComplete (p : Position) (n : Nat) (check : EngineCheck) (s : State) : Host.Outcome State Fault Refusal :=
  .next (match entryOf (stall s p) n with
    | none => s
    | some e =>
      if !canFinish s p e then s else
      match check with
      | .clean => let s1 := ranEntry p n s; finishEntry s1 p n (entryAt s1 p n)
      | .residue => if isChecked s p e && !(e.started && opcodeOf e.word = 0x13) then residueFound s p n e else s
      | .slotViolation line => suppressed s p n line)

/-- A line taken as one number, word 0 lowest. -/
def lineNat (l : Line) : Nat := l.foldr (fun w a => w.toNat + 2 ^ 36 * a) 0

/-- A stall awaits retirement for a cause at the next context boundary; the first cause stands (R392, R393). -/
def awaitRetire (s : State) (p : Nat) (cause : BitVec 2) : State :=
  modPos s p fun x => { x with await := some (x.await.getD cause) }

/-- CHECKER_SUSPECT: the sixteenth within 86,400,000,000,000 ns retires the stall (R393). -/
def checkerSuspect (s : State) (p : Nat) (e : Entry) : State :=
  let s1 := stallFault s p e.ctx e.team e.pc.toNat (destHandle e.word) (faultAction (imageOf s e.ctx) e.word) 0x0804
  let ts := (s.ledger :: (stall s p).suspect).filter fun t => decide (now s < t.toNat + 86400000000000)
  let s2 := modStall (recCount s1 1) p fun x => { x with suspect := ts.take 16 }
  if 16 ≤ ts.length then awaitRetire s2 p 2 else s2

/-- An arbitration has decided what an entry writes at a line. -/
def decided (s : State) (p n line : Nat) (r : Option Line) : State :=
  modEntry s p n fun v => { v with arb := false, fixes := (line, r) :: v.fixes }

/-- Case 3 of R391: neither result is taken, and the unit's destination is poisoned. The bank of a streamed instruction is what it
was at the start, with its mark. -/
def undecided (s : State) (p n line : Nat) (e : Entry) : State :=
  let s1 := decided s p n line none
  let s2 := if e.engine = .ma && opcodeOf e.word ≠ 0x13 then maRestore p s1 else s1
  let s3 := poisonDest s2 p e.ctx e.word
  modEntry s3 p n fun v => { v with poison := true }

/-- ARBITRATION of the unit of re-execution of an entry: the line it writes, the original and the re-executed result and
the checker's prediction (R391). The unit of a streamed instruction is the instruction: its results are banks, and in case 2 the
rows are streamed again from the snapshot (R164). -/
def execArbitration (p : Position) (n : Nat) (line : Nat) (orig redo : Line) (predicted : Nat) (s : State) :
    Host.Outcome State Fault Refusal :=
  .next (match entryOf (stall s p) n with
    | none => s
    | some e =>
      if !e.arb then s
      else if redo = orig then checkerSuspect (decided s p n line (some orig)) p e
      else if lineNat redo % 8191 = predicted then
        let s1 := if e.engine = .ma && opcodeOf e.word ≠ 0x13 then runEntry none p n (maRestore p s) else s
        recCount (decided s1 p n line (some redo)) 2
      else trigger (recCount (awaitRetire (undecided s p n line e) p 1) 3) e.ctx 0)

/-- A Team of the running context that may act: its stall runs and none of the stall's Teams has halted (R87). -/
def teamRuns (s : State) (p : Nat) : Bool :=
  let x := stall s p
  runningNo s < 64 && (position s p).st = .enabled && x.pwr = .run && !x.aborting &&
  x.live.t0.st ≠ .halted && x.live.t1.st ≠ .halted && x.live.t2.st ≠ .halted && x.live.t3.st ≠ .halted

/-- FENCE_RELEASE: the Ledger has reached the target of a fenced Team, which goes on past its TIME.FENCE (R30). -/
def execFenceRelease (p : Position) (t : TeamIx) (s : State) : Host.Outcome State Fault Refusal :=
  .next (
    let c := runningNo s
    let tm := getTeam (stall s p).live t
    if !teamRuns s p || !csrBit s 0x0100020 0 || tm.st ≠ .fenced || now s < fenceDue s c tm.fence.toNat then s
    else issued (ensureEpoch s c) p t)

/-- COMPARATOR_FIRE: an armed comparator whose relation has held sets its flag and disarms (R84). -/
def execComparatorFire (p : Position) (k : Fin 8) (s : State) : Host.Outcome State Fault Refusal :=
  .next (modLive s p fun x =>
    let m := cmpOf x k
    if m.armed && m.due then setFlag { x with cmps := nset {} x.cmps k { m with armed := false, due := false } } m.flag true
    else x)

/-- FLAG_TIMEOUT: a Team's wait timer has reached WAIT_TIMEOUT and its condition does not hold (R290, R291). -/
def execFlagTimeout (p : Position) (t : TeamIx) (s : State) : Host.Outcome State Fault Refusal :=
  .next (
    let x := stall s p
    let tm := getTeam x.live t
    let w := headWord x (runningNo s) tm
    let blocked := verdictOn s p t = .block 1 || verdictOn s p t = .block 6
    if tm.st ≠ .blocked || (tm.cause ≠ 1 && tm.cause ≠ 6) || tm.timeout = 0 || !blocked ||
       now s < tm.waitFrom.toNat + 1000 * tm.timeout.toNat then s
    else yardCount (haltFault s p (runningNo s) t tm.pc.toNat 0xFFF (faultAction (imageOf s (runningNo s)) w) 0x0502) 1 1)

end Sys2Proof.Machine
end

