-- ==== Sys2Proof/Machine/Scalar.lean ====
section
/-!
DEFINITION. The scalar instructions (R125 to R129): flags, barriers, handles, counters, comparators, time, branches,
loops and Teams.
-/

namespace Sys2Proof.Machine

/-- A scalar instruction whose effect is on the stall's live context, before the Team goes on. -/
def scalarOp (s : State) (p : Nat) (t : Fin 4) (op : Nat) (f : State → W128 → StallCtx → StallCtx) : State :=
  issueOp s p t op fun s w _ => modLive s p (f s w)

/-! ### Flags (R126) -/

/-- The flags that a GROUP and MASK name. -/
def maskFlags (w : W128) : BitVec 256 := BitVec.ofNat 256 (wf_ w 63 32 * 2 ^ (32 * wf_ w 10 8))

/-- FL.SET. -/
def execFlSet (p : Position) (t : TeamIx) (s : State) : Host.Outcome State Fault Refusal :=
  .next (scalarOp s p t 0xB0 fun _ w x => setFlag x (BitVec.ofNat 8 (wf_ w 15 8)) true)

/-- FL.CLR. -/
def execFlClr (p : Position) (t : TeamIx) (s : State) : Host.Outcome State Fault Refusal :=
  .next (scalarOp s p t 0xB1 fun _ w x => setFlag x (BitVec.ofNat 8 (wf_ w 15 8)) false)

/-- FL.MSET. -/
def execFlMset (p : Position) (t : TeamIx) (s : State) : Host.Outcome State Fault Refusal :=
  .next (scalarOp s p t 0xB2 fun _ w x => { x with flags := x.flags ||| maskFlags w })

/-- FL.MCLR. -/
def execFlMclr (p : Position) (t : TeamIx) (s : State) : Host.Outcome State Fault Refusal :=
  .next (scalarOp s p t 0xB3 fun _ w x => { x with flags := x.flags &&& ~~~(maskFlags w) })

/-! ### Barriers (R284, R287) -/

/-- The key of a barrier: SCOPE x 64 + ID. -/
def barKey (w : W128) : Nat := wf_ w 9 8 * 64 + wf_ w 15 10

/-- A barrier of a stall context. -/
def barOf (x : StallCtx) (k : Nat) : Bar := nget {} x.bars k

/-- Change a barrier of a stall context. -/
def modBar (x : StallCtx) (k : Nat) (f : Bar → Bar) : StallCtx := { x with bars := nmod {} x.bars k f }

/-- An arrival: LSENSE inverts, OPEN is set, and the arrival is posted once the remote writes sent so far are
acknowledged (R283, R284). -/
def arriveBar (s : State) (p : Nat) (t : Fin 4) (k : Nat) : State :=
  modLive s p fun x => modBar x k fun b => { b with lsense := !b.lsense, opener := some t, bound := some s.msgSeq }

/-- BAR.ARRIVE. A second arrival on an OPEN barrier is ignored and recorded; by another Team it halts that Team (R287). -/
def execBarArrive (p : Position) (t : TeamIx) (s : State) : Host.Outcome State Fault Refusal :=
  .next (issueCore s p t 0xC0 fun s w c =>
    match (barOf (stall s p).live (barKey w)).opener with
    | none => issued (arriveBar s p t (barKey w)) p t
    | some u =>
      let s1 := yardCount s 2 1
      if u = t then
        issued (stallFault s1 p c t (getTeam (stall s p).live t).pc.toNat hNone (faultAction (imageOf s c) w) 0x0501) p t
      else teamFault s1 p c t w 0x0501 hNone)

/-- BAR.WAIT completes once the sense equals LSENSE, and clears OPEN (R284). -/
def execBarWait (p : Position) (t : TeamIx) (s : State) : Host.Outcome State Fault Refusal :=
  .next (scalarOp s p t 0xC1 fun _ w x => modBar x (barKey w) fun b => { b with opener := none })

/-! ### Handles (R58, R93) -/

/-- A record with LEVEL, CHAIN and LOG2_SCALE from HDL.SET and EPOCH_TAG the current epoch (R58). -/
def hdlRecord (r : W128) (w : W128) (epoch : Nat) : W128 :=
  mkRecord (wf_ w 51 32) (recProv r) (wf_ w 29 26) (wf_ w 25 20) epoch (recTag r)

/-- HDL.SET. -/
def execHdlSet (p : Position) (t : TeamIx) (s : State) : Host.Outcome State Fault Refusal :=
  .next (issueOp s p t 0xC8 fun s w c =>
    let s1 := ensureEpoch s c
    modCached (modStall s1 p fun x => { x with useNext := x.useNext + 1 }) p (wf_ w 19 8) fun e =>
      { e with record := hdlRecord e.record w (currentEpoch s1 c), pinned := true, use := (stall s1 p).useNext })

/-- HDL.FETCH starts a fetch of a handle that is not cached and completes at once (R126). -/
def execHdlFetch (p : Position) (t : TeamIx) (s : State) : Host.Outcome State Fault Refusal :=
  .next (issueOp s p t 0xC9 fun s w c =>
    if (cached s p (wf_ w 19 8)).isSome then s else startFetch s p c (wf_ w 19 8))

/-! ### Counters and comparators (R83 to R85, R126) -/

/-- The counter of bits 11:8. -/
def ctrOf (w : W128) : BitVec 4 := BitVec.ofNat 4 (wf_ w 11 8)

/-- CNT.SET. -/
def execCntSet (p : Position) (t : TeamIx) (s : State) : Host.Outcome State Fault Refusal :=
  .next (scalarOp s p t 0xD0 fun _ w x => setCnt x (ctrOf w) (BitVec.ofNat 32 (wf_ w 47 16)))

/-- CNT.ADD. -/
def execCntAdd (p : Position) (t : TeamIx) (s : State) : Host.Outcome State Fault Refusal :=
  .next (scalarOp s p t 0xD1 fun _ w x => addCnt x (ctrOf w) (BitVec.ofNat 32 (wf_ w 47 16)))

/-- A field of STALL_QDEPTH (R80). -/
def qdepthField (x : Stall) (f : Nat) : Nat :=
  match f with
  | 0 => 16 - (liveEntries x).length
  | 1 => engineCount x .ma
  | 2 => engineCount x .te
  | 3 => engineCount x .ee
  | 4 => engineCount x .ct
  | 5 => engineCount x .yd
  | 6 => engineCount x .drv
  | _ => x.tiles.length

/-- CNT.QDEPTH. -/
def execCntQdepth (p : Position) (t : TeamIx) (s : State) : Host.Outcome State Fault Refusal :=
  .next (scalarOp s p t 0xD2 fun s w x => setCnt x (ctrOf w) (BitVec.ofNat 32 (qdepthField (stall s p) (wf_ w 18 16))))

/-- CMP.ARM. -/
def execCmpArm (p : Position) (t : TeamIx) (s : State) : Host.Outcome State Fault Refusal :=
  .next (scalarOp s p t 0xD4 fun _ w x =>
    let k : Cmp := { value := BitVec.ofNat 32 (wf_ w 63 32), armed := true, rel := BitVec.ofNat 3 (wf_ w 18 16),
                     ctr := BitVec.ofNat 4 (wf_ w 14 11), flag := BitVec.ofNat 8 (wf_ w 31 24), due := false }
    cmpCheck { x with cmps := nset {} x.cmps (wf_ w 10 8) k })

/-- CMP.DISARM. -/
def execCmpDisarm (p : Position) (t : TeamIx) (s : State) : Host.Outcome State Fault Refusal :=
  .next (scalarOp s p t 0xD5 fun _ w x => { x with cmps := nmod {} x.cmps (wf_ w 10 8) fun k =>
    { k with armed := false, due := false } })

/-! ### Time (R30, R127, R128) -/

/-- The target of a TIME.FENCE (R127). -/
def fenceTarget (tm : Team) (w : W128) : W64 :=
  let v := BitVec.ofNat 64 (wf_ w 79 16)
  if wf_ w 8 8 = 1 then tm.tb + v else v

/-- TIME.FENCE: a target that lies in the future fences the Team, whose head it stays; otherwise the Team goes on, and a
target that has passed counts as a late fence (R30). -/
def execTimeFence (p : Position) (t : TeamIx) (s : State) : Host.Outcome State Fault Refusal :=
  .next (issueCore s p t 0xE0 fun s w c =>
    let x := fenceTarget (getTeam (stall s p).live t) w
    let due := fenceDue s c x.toNat
    if now s < due then
      modStall s p fun y => { y with live := yieldDone (setTeam y.live t
        { getTeam y.live t with st := .fenced, cause := 0, fence := x }) t }
    else
      let s1 := ensureEpoch s c
      issued (if due < now s then lateFence s1 p else s1) p t)

/-- TIME.BASE. -/
def execTimeBase (p : Position) (t : TeamIx) (s : State) : Host.Outcome State Fault Refusal :=
  .next (scalarOp s p t 0xE1 fun _ w x =>
    let v := BitVec.ofNat 64 (wf_ w 79 16)
    let tm := getTeam x t
    setTeam x t (match wf_ w 9 8 with
      | 0 => { tm with tb := v }
      | 1 => { tm with tb := tm.tb + v }
      | _ => { tm with tb := tm.start }))

/-- TIME.READ. -/
def execTimeRead (p : Position) (t : TeamIx) (s : State) : Host.Outcome State Fault Refusal :=
  .next (scalarOp s p t 0xE2 fun s w x => setCnt x (ctrOf w) (BitVec.ofNat 32 (now s / 2 ^ wf_ w 21 16)))

/-! ### Branches and loops (R116, R117, R126) -/

/-- A taken branch: the control loops whose body does not contain the target end (R117). -/
def branchTo (tm : Team) (target : BitVec 24) : Team :=
  { mapLoops tm (fun l => if l.active && !(l.back.ule target && target.ule l.last)
      then { l with active := false, iter := 0 } else l) with pc := target }

/-- After a branch instruction: to the target where taken, else on (R75). -/
def branch (s : State) (p : Nat) (t : Fin 4) (taken : Bool) (target : BitVec 24) : State :=
  if taken then
    modStall s p fun x =>
      let x1 := turnPassed x.live t
      { x with lastTeam := t, live := setTeam x1 t (heldBack s.ledger (branchTo { getTeam x1 t with st := .ready, cause := 0, hold := 0 } target)) }
  else issued s p t

/-- The TARGET or END of bits 39:16. -/
def targetOf (w : W128) : BitVec 24 := BitVec.ofNat 24 (wf_ w 39 16)

/-- BR. -/
def execBr (p : Position) (t : TeamIx) (s : State) : Host.Outcome State Fault Refusal :=
  .next (issueCore s p t 0xE8 fun s w _ => branch s p t true (targetOf w))

/-- BR.CNT. -/
def execBrCnt (p : Position) (t : TeamIx) (s : State) : Host.Outcome State Fault Refusal :=
  .next (issueCore s p t 0xE9 fun s w _ =>
    branch s p t (relHolds (BitVec.ofNat 3 (wf_ w 14 12)) (cntOf (stall s p).live (ctrOf w))
      (BitVec.ofNat 32 (wf_ w 71 40))) (targetOf w))

/-- BR.FLAG. -/
def execBrFlag (p : Position) (t : TeamIx) (s : State) : Host.Outcome State Fault Refusal :=
  .next (issueCore s p t 0xEA fun s w _ =>
    branch s p t (flagOf (stall s p).live (BitVec.ofNat 8 (wf_ w 15 8)) == (wf_ w 40 40 = 1)) (targetOf w))

/-- A change of a loop level of a Team of a stall context. -/
def modLoop (x : StallCtx) (t : Fin 4) (l : Nat) (f : Loop → Loop) : StallCtx :=
  setTeam x t (setLoop (getTeam x t) l (f (getLoop (getTeam x t) l)))

/-- LOOP.SET. -/
def execLoopSet (p : Position) (t : TeamIx) (s : State) : Host.Outcome State Fault Refusal :=
  .next (scalarOp s p t 0xF0 fun _ w x => modLoop x t (wf_ w 9 8) fun l =>
    { l with count := BitVec.ofNat 24 (wf_ w 39 16), incA := BitVec.ofNat 32 (wf_ w 71 40), incB := 0,
             incD := BitVec.ofNat 32 (wf_ w 103 72) })

/-- LOOP.INC. -/
def execLoopInc (p : Position) (t : TeamIx) (s : State) : Host.Outcome State Fault Refusal :=
  .next (scalarOp s p t 0xF1 fun _ w x => modLoop x t (wf_ w 9 8) fun l =>
    let v := BitVec.ofNat 32 (wf_ w 47 16)
    match wf_ w 11 10 with
    | 0 => { l with incA := v }
    | 1 => { l with incB := v }
    | _ => { l with incD := v })

/-- The trip count of a LOOP.DO: LCOUNT, or a counter, which saturates at 2^24 - 1 (R116). -/
def tripCount (x : StallCtx) (t : Fin 4) (w : W128) : Nat :=
  if wf_ w 10 10 = 0 then (getLoop (getTeam x t) (wf_ w 9 8)).count.toNat
  else min (cntOf x (BitVec.ofNat 4 (wf_ w 14 11))).toNat (2 ^ 24 - 1)

/-- LOOP.DO: with a trip count of 0 a branch past END, else a control loop whose body begins at the next instruction
(R116). -/
def execLoopDo (p : Position) (t : TeamIx) (s : State) : Host.Outcome State Fault Refusal :=
  .next (issueCore s p t 0xF2 fun s w _ =>
    let x := (stall s p).live
    let k := tripCount x t w
    if k = 0 then branch s p t true (targetOf w + 1) else
    issued (modLive s p fun x => modLoop x t (wf_ w 9 8) fun l =>
      { l with active := true, iter := 0, rem := BitVec.ofNat 24 (k - 1), last := targetOf w,
               back := (getTeam x t).pc + 1 }) p t)

/-! ### Teams (R72, R75, R129) -/

/-- The Teams other than t that are READY, as a mask (R71, R75). -/
def readyOthers (s : State) (p : Nat) (t : Fin 4) : BitVec 4 :=
  ([0, 1, 2, 3] : List (Fin 4)).foldl (fun m u =>
    if u ≠ t && !onHold s (getTeam (stall s p).live u) && canAct (verdict s p u) then m ||| (1#4 <<< u.val) else m) 0

/-- TEAM.YIELD. -/
def execTeamYield (p : Position) (t : TeamIx) (s : State) : Host.Outcome State Fault Refusal :=
  .next (issueCore s p t 0xF8 fun s _ _ =>
    modTeam (issued s p t) p t fun m => { m with yield := readyOthers s p t })

/-- TEAM.CFG. -/
def execTeamCfg (p : Position) (t : TeamIx) (s : State) : Host.Outcome State Fault Refusal :=
  .next (scalarOp s p t 0xF9 fun _ w x => setTeam x t { getTeam x t with timeout := BitVec.ofNat 16 (wf_ w 47 32) })

/-- A Team that has executed HALT (R72): FINISHED, its control loops ended (R117). -/
def haltTeam (s : State) (p : Nat) (t : Fin 4) : State :=
  modStall s p fun x =>
    let x1 := turnPassed x.live t
    let tm := mapLoops { getTeam x1 t with st := .finished, cause := 0, hold := 0 } fun l => { l with active := false, iter := 0 }
    { x with lastTeam := t, live := setTeam x1 t tm }

/-- HALT; a head that decodes as no instruction faults with ILLEGAL_ENCODING (R81, R131). -/
def execHalt (p : Position) (t : TeamIx) (s : State) : Host.Outcome State Fault Refusal :=
  .next (issueCore s p t 0xFE fun s _ _ => haltTeam s p t)

end Sys2Proof.Machine
end

