-- ==== Sys2Proof/Machine/YardEvents.lean ====
section
/-!
DEFINITION. What arrives at a stall over the Yard and the Bridleway (02, 08, 09, 11): lines, completions, flags, copies,
acknowledgements, returned data, handle fetches, poison notices, barrier arrivals and releases.
-/

namespace Sys2Proof.Machine

/-- Arrivals at a stall in NAP are held until it runs (R96); a stall in OFF takes none. -/
def awake (s : State) (p : Nat) : Bool := (stall s p).pwr = .run || (stall s p).pwr = .gated

/-- A tally mismatch found at a stall: the destination is poisoned, the fault recorded, counted and a trigger (R396). -/
def tallyFault (s : State) (p c : Nat) (t : Fin 4) (pc h action : Nat) : State :=
  trigger (recCount (stallFault (poisonLocal s p c h) p c t pc h action 0x0802) 4) c 0

/-! ### Lines, completions and flags -/

/-- The handle through which a line arrives. -/
def lineHandle : LineTo → Nat
  | .piece h _ => h
  | .loft h _ => h

/-- Write an arrived line at its place (R209, R237, R270). -/
def landLine (s : State) (q c : Nat) (to_ : LineTo) (l : Line) : State :=
  let d := decl (imageOf s c) (lineHandle to_)
  match to_ with
  | .piece _ off => writePiece s q c (pieceOf (imageOf s c) (deviceId s) d (lidOf s q)) off (clearWords d l) 0xFFFF
  | .loft _ x => loftWrite s q x c (clearWords d l) 0xFFFF

/-- The acknowledgement that a destination returns for a remote write (R283). -/
def ackTo (s : State) (q c id : Nat) (ack : Option Nat) : State :=
  match ack with
  | some p => send s (.stall q) (.stall p) .rsp c (.ack id false false)
  | none => s

/-- A line is written at its destination, poisoned where it arrived poisoned (R397), and acknowledged. -/
def landWrite (s : State) (m q c : Nat) (to_ : LineTo) (l : Line) (poison bad : Bool) (ack : Option Nat) : State :=
  let s1 := landLine (dropMsg s m) q c to_ l
  let s2 := if poison then poisonLocal s1 q c (lineHandle to_) else s1
  let s3 := if bad then tallyFault s2 q c 0 0 (lineHandle to_) 0 else s2
  ackTo s3 q c m ack

/-- The Loft bank of a destination suppresses an arriving line (R482): the handle is poisoned there and, for a send, at its
stall (R503); the fault is recorded at the destination, with the instruction where it is that stall's own; and the Team
whose instruction sent the line halts (R87). The write is still acknowledged (DEDUCED, log 91). -/
def suppressLine (s : State) (m q c : Nat) (h : Nat) (ack : Option Nat) (by_ : Origin) : State :=
  let s1 := poisonLocal (dropMsg s m) q c h
  let s2 := if ack.isSome && by_.pos ≠ q then poisonLocal s1 by_.pos c h else s1
  let s3 := if runningNo s2 = c then
      noteHalt (modTeam s2 by_.pos by_.team fun x => { x with st := .halted, cause := 0 }) by_.pos c by_.team 0x0302
    else s2
  let own := by_.pos = q
  let act := if own then faultAction (imageOf s c) (headWord (stall s q) c { pc := by_.pc }) else 0
  ackTo (stallFault s3 q c (if own then by_.team else 0) (if own then by_.pc.toNat else 0) h act 0x0302) q c m ack

/-- The hold time of a line of LEVEL mode, 128 Yard cy of 0.625 ns after the sender's read, has passed (R24, R269). -/
def holdOver (s : State) : Option W64 → Bool
  | none => true
  | some t => decide (t.toNat + 80 ≤ now s)

/-- REMOTE_LINE_WRITE: a line arrives and is written; in LEVEL mode the destination router holds one that arrives early, and one
that arrives after its hold time is counted (R269, R270); or the Loft bank suppresses it (R482). -/
def execRemoteLineWrite (m : Nat) (check : LineCheck) (s : State) : Host.Outcome State Fault Refusal :=
  .next (match arriving s m with
    | some ⟨_, _, .stall q, _, c, .line to_ l poison stamp ack by_⟩ =>
      if !awake s q || !holdOver s stamp then s else
      let s1 := if stamp.isSome then yardCount s 7 1 else s
      match check with
      | .clean => landWrite s1 m q c to_ l poison false ack
      | .damaged => landWrite s1 m q c to_ l poison true ack
      | .slotViolation => suppressLine s1 m q c (lineHandle to_) ack by_
    | _ => s)

/-- LEVEL_HOLD_EXPIRY: a line that the destination router held is written when its hold time has passed (R269). -/
def execLevelHoldExpiry (m : Nat) (s : State) : Host.Outcome State Fault Refusal :=
  .next (match arriving s m with
    | some ⟨_, _, .stall q, _, c, .line to_ l poison (some t) ack _⟩ =>
      if !awake s q || !holdOver s (some t) then s else landWrite s m q c to_ l poison false ack
    | _ => s)

/-- REMOTE_COMPLETION_ARRIVAL: completion action, record and poison mark behind the data of a handle (R271, R503). -/
def execRemoteCompletionArrival (m : Nat) (s : State) : Host.Outcome State Fault Refusal :=
  .next (match arriving s m with
    | some ⟨_, _, .stall q, _, c, .done h act rec_ poison⟩ =>
      if !awake s q then s else
      let s1 := modStallCtx (dropMsg s m) c (lidOf s q) fun x => applyAct x act
      let s2 := match rec_ with
        | none => s1
        | some r =>
          let s0 := if (cached s1 q h).isSome then s1 else cacheHandle s1 q c h
          modCached s0 q h fun e => { e with record := r, pinned := true }
      if poison then poisonLocal s2 q c h else s2
    | _ => s)

/-- REMOTE_FLAG_WRITE: a flag write or counter add from another unit (R273, R348). -/
def execRemoteFlagWrite (m : Nat) (s : State) : Host.Outcome State Fault Refusal :=
  .next (match arriving s m with
    | some ⟨_, _, .stall q, _, c, .flag f v ack⟩ =>
      if !awake s q then s else
      ackTo (modStallCtx (dropMsg s m) c (lidOf s q) fun x => setFlag x f v) q c m ack
    | some ⟨_, _, .stall q, _, c, .cadd k v ack⟩ =>
      if !awake s q then s else
      ackTo (modStallCtx (dropMsg s m) c (lidOf s q) fun x => addCnt x k v) q c m ack
    | _ => s)

/-! ### Copies -/

/-- COPY_REQUEST: the source stall reads the lines and returns them (R267). -/
def execCopyRequest (m : Nat) (s : State) : Host.Outcome State Fault Refusal :=
  .next (match arriving s m with
    | some ⟨id, src, .stall q, _, c, .copyReq n h offs d⟩ =>
      if !awake s q then s else
      let img := imageOf s c
      let dh := decl img h
      let pc := pieceOf img (deviceId s) dh (lidOf s q)
      let s1 := parityPiece (dropMsg s m) q c pc offs
      sendBulk s1 (.stall q) src .rsp c (.copyRet id n d (offs.map fun a => (a, readPiece s1 q c dh pc a)) false) 1
    | _ => s)

/-- The entry of a stall that waits for the answer to message id. -/
def waitingFor (s : State) (p id : Nat) : Option (Nat × Entry) := (liveEntries (stall s p)).find? fun e => e.2.waits.contains id

/-- A remote write of a stall is acknowledged (R283). -/
def acked (s : State) (p id : Nat) : State := modStall s p fun x => { x with unacked := x.unacked.filter (· ≠ id) }

/-- An answer to an instruction that no longer exists is dropped; a line that a swap returns is still its acknowledgement (R283,
R289). -/
def unclaimed (s : State) (m p id : Nat) : State := acked (dropMsg s m) p id

/-- An entry no longer waits for a message. -/
def noWait (s : State) (p n id : Nat) : State := modEntry s p n fun e => { e with waits := e.waits.filter (· ≠ id) }

/-- COPY_RETURN: the lines for one iteration of a CT.COPY arrive; the destination line is formed and written (R207,
R225, R395). An answer to an instruction that no longer exists is dropped. -/
def execCopyReturn (m : Nat) (bad : Bool) (s : State) : Host.Outcome State Fault Refusal :=
  .next (match arriving s m with
    | some ⟨_, _, .stall p, _, c, .copyRet id _ d lines poison⟩ =>
      if !awake s p then s else
      match waitingFor s p id with
      | none => dropMsg s m
      | some (n, e) =>
        let img := imageOf s c
        let ds := decl img (hA e.word)
        let dd := decl img (hD e.word)
        let pd := pieceOf img (deviceId s) dd (lidOf s p)
        let js := ((entryIts e).find? fun js => addrD e js = d).getD []
        let src (a : Int) : Line := match lines.find? fun x => x.1 = a with
          | some x => x.2
          | none => List.replicate 16 ds.fill
        let s1 := writePiece (noWait (dropMsg s m) p n id) p c pd d (layLine ds dd (layUnit ds dd pd.lines) (addrA e js) d src) 0xFFFF
        let s2 := noteWrites s1 p n pd [d]
        let s3 := if poison then modEntry s2 p n fun v => { v with poison := true } else s2
        if bad then tallyFault s3 p c e.team e.pc.toNat (hD e.word) (faultAction img e.word) else s3
    | _ => s)

/-! ### Acknowledgements and returned data -/

/-- WRITE_ACK: a remote write is acknowledged; poisoned, it poisons F in the issuing stall (R313, R349), and a tally
mismatch that it carries is recorded there (R396). -/
def execWriteAck (m : Nat) (s : State) : Host.Outcome State Fault Refusal :=
  .next (match arriving s m with
    | some ⟨_, _, .stall p, _, c, .ack id poison tally⟩ =>
      if !awake s p then s else
      match waitingFor s p id with
      | none => unclaimed s m p id
      | some (n, e) =>
        -- a swap is acknowledged by the line that it returns
        let s2 := if e.dests.any (fun d => d.1 = id) then dropMsg s m else noWait (acked (dropMsg s m) p id) p n id
        let s3 := if poison then poisonLocal s2 p c (destHandle e.word) else s2
        if tally then
          let s4 := stallFault s3 p c e.team e.pc.toNat (destHandle e.word) (faultAction (imageOf s e.ctx) e.word) 0x0802
          trigger (recCount s4 4) c 0
        else s3
    | _ => s)

/-- HBM_READ_RETURN: a granule, or a line of a Granary slot, comes back to the loading stall; when the last has come the
load writes its destination (R305, R395, R397). `bad` says that the block was damaged on the way, which its tally
catches when the load covers the block. -/
def execHbmReadReturn (m : Nat) (bad : Bool) (s : State) : Host.Outcome State Fault Refusal :=
  .next (match arriving s m with
    | some ⟨_, _, .stall p, _, c, .hbmRet id _ g data poison⟩ =>
      if !awake s p then s else
      match waitingFor s p id with
      | none => dropMsg s m
      | some (n, e) =>
        let s1 := modEntry (noWait (dropMsg s m) p n id) p n fun v =>
          { v with grans := v.grans ++ [(g, data)], poison := v.poison || poison }
        let img := imageOf s c
        let df := decl img (hA e.word)
        let dn := decl img (hD e.word)
        let un := layUnit df dn (pieceOf img (deviceId s) dn (lidOf s p)).lines
        let ls := ((entryIts e).flatMap (loadLines df dn e un)).dedup
        let whole := (List.range 64).all fun k => ls.contains (64 * granBlock df g + k)
        let s2 := if bad && whole then
            tallyFault (modEntry s1 p n fun v => { v with poison := true }) p c e.team e.pc.toNat (hD e.word) (faultAction img e.word)
          else s1
        if (entryAt s2 p n).waits = [] then landLoad s2 p n else s2
    | some ⟨_, _, .stall p, _, _, .grnRet id _ slot words poison⟩ =>
      if !awake s p then s else
      match waitingFor s p id with
      | none => unclaimed s m p id
      | some (n, e) =>
        if opcodeOf e.word ≠ 0x70 then s else
        let s1 := modEntry (noWait (dropMsg s m) p n id) p n fun v =>
          { v with lines := v.lines ++ [(slot, words)], poison := v.poison || poison }
        if (entryAt s1 p n).waits = [] then landLoad s1 p n else s1
    | _ => s)

/-- ATOMIC_RESULT: the old line of a swap or compare-and-swap is written to N: all of it, or words 0 to 7 (R324). -/
def execAtomicResult (m : Nat) (s : State) : Host.Outcome State Fault Refusal :=
  .next (match arriving s m with
    | some ⟨_, _, .stall p, _, c, .grnRet id _ _ words poison⟩ =>
      if !awake s p then s else
      match waitingFor s p id with
      | none => unclaimed s m p id
      | some (n, e) =>
        if opcodeOf e.word ≠ 0x77 then s else
        let img := imageOf s c
        let dn := decl img (hD e.word)
        let pn := pieceOf img (deviceId s) dn (lidOf s p)
        let msk := if bitsOf (modC e.word) 2 0 = 5 then 0x00FF else 0xFFFF
        let s1 := acked (noWait (dropMsg s m) p n id) p id
        match e.dests.find? fun d => d.1 = id with
        | none => s1
        | some d =>
          let s2 := noteWrites (writePiece s1 p c pn d.2 words msk) p n pn [d.2]
          if poison then poisonLocal s2 p c (hD e.word) else s2
    | _ => s)

/-! ### Handles, poison notices, Drover reports -/

/-- HANDLE_FETCH_COMPLETE: the Yardmaster's entry of a handle enters the cache (R93). -/
def execHandleFetchComplete (m : Nat) (s : State) : Host.Outcome State Fault Refusal :=
  .next (match arriving s m with
    | some ⟨_, _, .stall p, _, c, .handle h⟩ =>
      if !awake s p then s else
      let s1 := dropMsg s m
      if (cached s1 p h).isSome then s1 else cacheHandle s1 p c h
    | _ => s)

/-- POISON_NOTICE: a Drover's notice poisons its target, or its KEYSET_MISMATCH halts the requesting Team (R252). -/
def execPoisonNotice (m : Nat) (s : State) : Host.Outcome State Fault Refusal :=
  .next (match arriving s m with
    | some ⟨_, _, .stall q, _, c, .poison h⟩ =>
      if !awake s q then s else poisonLocal (dropMsg s m) q c h
    | some ⟨_, _, .stall p, _, c, .drvBad n target⟩ =>
      if !awake s p then s else
      match entryOf (stall s p) n with
      | none => dropMsg s m
      | some e => haltFault (dropMsg s m) p c e.team e.pc.toNat target (faultAction (imageOf s e.ctx) e.word) 0x0401
    | _ => s)

/-- A Drover's report reaches the entry that waits for it, in the order of its path (R25, R256). -/
def drvReport1 (p : Nat) (s : State) (m : Msg) : State :=
  match arriving s m.id with
  | some ⟨id, .drover _, .stall q, _, _, .drvDone k⟩ =>
    if q ≠ p then s else
    match waitingFor s p k with
    | none => dropMsg s id
    | some (n, _) => noWait (dropMsg s id) p n k
  | _ => s

/-- DRV_COMPLETE: the reports of the Drovers arrive in order; once every Drover has reported every entry of a DRV instruction, it
completes (R256). -/
def execDrvComplete (p : Position) (n : Nat) (s : State) : Host.Outcome State Fault Refusal :=
  .next (match entryOf (stall s p) n with
    | none => s
    | some e =>
      if e.engine ≠ .drv || !awake s p then s else
      let s1 := s.yard.foldl (drvReport1 p) s
      let e1 := entryAt s1 p n
      if e1.waits = [] && e1.asks = [] then finishEntry s1 p n e1 else s)

/-! ### Barriers at the stalls (R282 to R284, R358) -/

/-- The local arrivals and the children's ARRIVE tokens of the open phase of a system barrier of a context. -/
def sysKey (c id which : Nat) : Nat := c * 64 + id * 4 + which

/-- A stall adds its drops of a context to the context's count (R237). -/
def countedDrops (s : State) (p c : Nat) : State :=
  modStall (bumpBy s (0x4000 + 8 * c) 0x4200 c (nget 0 (stall s p).drops c)) p fun y => { y with drops := nset 0 y.drops c 0 }

/-- A stall sends the local records that it has pinned, and its drop count, to the Yardmaster with its arrival at the
closing barrier (R59, R237). -/
def sendWriteBacks (s : State) (p c : Nat) : State :=
  let x := stall s p
  let s2 := countedDrops s p c
  x.hcache.foldl (fun s e => match e.2 with
    | some v => if v.pinned then sendBridle s (.stall p) .yardmaster c (.writeBack (lidOf s p) e.1 v.record v.poison) else s
    | none => s) s2

/-- BARRIER_ARRIVAL_AT_ROOT: the root counts a member; the last one ends the phase and releases every member (R284). -/
def execBarrierArrivalAtRoot (m : Nat) (s : State) : Host.Outcome State Fault Refusal :=
  .next (match arriving s m with
    | some ⟨_, _, .stall q, _, c, .arrive k _⟩ =>
      if !awake s q then s else
      let ms := setMembers (imageOf s c) k
      let b := barOf (stall s q).live k
      let s1 := dropMsg s m
      if b.count + 1 < ms.length then modLive s1 q fun x => modBar x k fun v => { v with count := v.count + 1 }
      else
        let phase := !b.rphase
        let s2 := modLive s1 q fun x => modBar x k fun v => { v with count := 0, rphase := phase }
        (setPositions s k).foldl (fun s r => send s (.stall q) (.stall r) .bridleway c (.release k phase))
          (yardCount (yardCount s2 3 1) 5 1)
    | _ => s)

/-- BARRIER_RELEASE: SENSE_FLAG takes the phase at a member (R284). -/
def execBarrierRelease (m : Nat) (s : State) : Host.Outcome State Fault Refusal :=
  .next (match arriving s m with
    | some ⟨_, _, .stall q, _, c, .release k phase⟩ =>
      if !awake s q then s else
      match (imageOf s c).mcast.find? fun x => x.index = k with
      | none => dropMsg s m
      | some g => modStallCtx (dropMsg s m) c (lidOf s q) fun x => setFlag x (BitVec.ofNat 8 g.sense) phase
    | _ => s)

end Sys2Proof.Machine
end

