-- ==== Sys2Proof/Machine/Steps.lean ====
section
/-!
DEFINITION. The end of a step and of an epoch (02, 09, 13, 14): write-back (R59), device barriers (R284), epochs (R400 to
R402), aborts (R88), drain (R289), rollback (R407 to R410) and context switches (R381, R382).
-/

namespace Sys2Proof.Machine

/-! ### Write-back (R59) -/

/-- Whether a logical ID holds the q0 limb of polynomial 0 of a handle, the first half of it where it is split (R59, R215). -/
def holdsQ0 (s : State) (c : Nat) (d : HDecl) (lid : Nat) : Bool :=
  match d.place with
  | 0 => decide (0 < (pieceOf (imageOf s c) (deviceId s) d lid).lines)
  | 1 => d.owners.any fun o => (o.device = 0x7FFF || o.device = deviceId s) && o.stall = lid && o.slotFirst = 0 &&
      0 < o.slotCount && o.part = 0
  | _ => false

/-- Whether copies of a record agree in LEVEL, CHAIN, LOG2_SCALE and KEYSET_TAG. -/
def copiesAgree (cs : List W128) : Bool :=
  match cs with
  | [] => true
  | r :: rs => rs.all fun x => recLevel x = recLevel r && recChain x = recChain r && recScale x = recScale r && recTag x = recTag r

/-- The record that copies give: EPOCH_TAG the greatest, PROVISIONAL the OR. -/
def joinCopies (cs : List W128) : W128 :=
  match cs with
  | [] => 0
  | r :: _ => mkRecord (recScale r) (cs.any recProv) (recChain r) (recLevel r) (cs.foldl (fun a x => max a (recEpoch x)) 0) (recTag r)

/-- The copies of a handle that have come: logical ID, record and poison, in the order of arrival. -/
def copiesOf (s : State) (c h : Nat) : List (Nat × W128 × Bool) := ((ctx s c).wbacks.filter fun w => w.2.1 = h).map fun w => (w.1, w.2.2)

/-- The record that is stored of a handle's copies (R59): where they differ the first that comes from a holder of the q0 limb of
polynomial 0, and the first of all where none comes from one (DESIGN CHOICE, log 50). -/
def storedRecord (s : State) (c h : Nat) : W128 :=
  let cs := copiesOf s c h
  let recs := cs.map (·.2.1)
  if copiesAgree recs then joinCopies recs else
  match cs.find? fun w => holdsQ0 s c (decl (imageOf s c) h) w.1 with
  | some w => w.2.1
  | none => recs.headD 0

/-- A copy of a handle's record reaches the Yardmaster and is compared with the others. The first that differs is reported, with the
position and logical ID of its stall and Team 0, of which the manual says nothing (DESIGN CHOICE, log 50). -/
def storeCopy (s : State) (c lid h : Nat) (r : W128) (poison : Bool) : State :=
  let before := (copiesOf s c h).map (·.2.1)
  let s1 := modCtx s c fun x => { x with wbacks := x.wbacks ++ [(lid, h, r, poison)] }
  if !copiesAgree (before ++ [r]) && copiesAgree before then
    match posOfLid s lid with
    | some p => explain (reportFault s1 p 0x0204 (lid + 4096 * p) c lid 0 h) 2 ((before ++ [r]).map fun x => (h, x))
    | none => s1
  else s1

/-- The handle table takes the stored record of a handle, and its poison: the handle's, that of any copy, and that of copies that
differ (R59). -/
def storeRecord (s : State) (c : Nat) (m : NMap HState) (h : Nat) : NMap HState :=
  nmod {} m h fun v => { v with
    record := storedRecord s c h,
    poison := v.poison || (copiesOf s c h).any (·.2.2) || !copiesAgree ((copiesOf s c h).map (·.2.1)) }

/-- A record with PROVISIONAL cleared. -/
def unprov (r : W128) : W128 := if recProv r then r - BitVec.ofNat 128 (2 ^ 107) else r

/-- The records of the write-back are stored, so that no stall sees them before the step's end (R60); they reach every stall that
caches them, and the pins are gone (R59, R93); at the first write-back
after the dependency table has emptied PROVISIONAL is cleared in every record (R356). -/
def deliverRecords (s : State) (c : Nat) : State :=
  let clear := (recOf s c).emptied
  let hs := ((ctx s c).wbacks.map fun w => w.2.1).dedup
  let s0 := modCtx s c fun x => { x with handles := hs.foldl (storeRecord s c) x.handles }
  let s1 := if clear then modCtx (modRec s0 c fun r => { r with emptied := false }) c fun x =>
      { x with handles := x.handles.map fun e => (e.1, { e.2 with record := unprov e.2.record }) }
    else s0
  let tab := (ctx s1 c).handles
  let s2 := (positionsIn s1 .enabled).foldl (fun s p => modStall s p fun x => { x with
    hcache := x.hcache.map fun e => (e.1, e.2.map fun v =>
      if hs.contains e.1 then
        let t := nget {} tab e.1
        { v with record := t.record, poison := t.poison, pinned := false }
      else if clear then { v with record := unprov v.record } else v) }) s1
  modCtx s2 c fun x => { x with wbacks := [] }

/-! ### Epochs (R400 to R402) -/

/-- Close the open epoch if the previous one has committed (R401). -/
def closeEpoch (s : State) (c : Nat) : State :=
  let r := recOf s c
  match r.opened, r.closed with
  | some e, none => dbEpoch (modRec s c fun r => { r with opened := none, closed := some e, lastStep := false }) c e 1 0
  | _, _ => s

/-- The last step of a START, or an aborted step, has ended: the open epoch closes now or when the previous one commits. -/
def closeLast (s : State) (c : Nat) : State :=
  let r := recOf s c
  if r.opened.isSome && r.closed.isSome then modRec s c fun r => { r with lastStep := true } else closeEpoch s c

/-- Length of an epoch in ns (R378). -/
def epochNs (s : State) (c : Nat) : Nat :=
  let u := (imageOf s c).claims.epochUs
  1000 * (if u = 0 then 250 else u)

/-- The closing barrier of a step has completed (R29): the records are delivered, the open epoch closes if it is due,
stalls that await retirement retire, and IVR targets take effect (R392, R401, R465). -/
def closingBarrier (s : State) (c : Nat) : State :=
  let s1 := deliverRecords s c
  let s2 := if (recOf s1 c).opened.isSome && (recOf s1 c).openAt.toNat + epochNs s1 c ≤ now s1 then closeEpoch s1 c else s1
  let s3 := (positionsIn s2 .enabled).foldl applyTarget s2
  if (recOf s3 c).triggers = [] then retireAwaiting s3 else s3

/-- The participants of a device barrier: every stall with a role (R282). -/
def participants (s : State) (c : Nat) : List Nat :=
  (positionsIn s .enabled).filter fun p => roleOf (imageOf s c) (lidOf s p) ≠ 0xFFFF

/-- Write-backs of a context that have not been stored. -/
def writeBacksOpen (s : State) (c : Nat) : Bool := s.yard.any fun m => m.ctx = c && match m.body with
  | .writeBack _ _ _ _ => true
  | _ => false

/-- DEVICE_BARRIER_COMPLETE: every participant drives the value that the wire does not hold yet, and for barrier 0 every
write-back is stored (R284, R285). -/
def execDeviceBarrierComplete (id : Fin 4) (s : State) : Host.Outcome State Fault Refusal :=
  .next (
    let c := runningNo s
    let ps := participants s c
    let old := s.ym.devPhase.getLsbD id
    if c = 64 || ps = [] || !(ps.all fun p => (barOf (stall s p).live (64 + id)).drive != old) || (id = 0 && writeBacksOpen s c) then s
    else
      let s1 := yardCount { s with ym := { s.ym with devPhase := s.ym.devPhase ^^^ (1#4 <<< id.val) } } 4 1
      if id = 0 then closingBarrier s1 c else s1)

/-- Flip the current-map bit of a block of a durable handle (R404, R406). -/
def flipMap (s : State) (c h b : Nat) : State :=
  let d := decl (imageOf s c) h
  let a := d.base + 2 * placeBytes d + b / 8
  { s with hbm := { s.hbm with mem := nset 0 s.hbm.mem a (nget 0 s.hbm.mem a ^^^ (1#8 <<< (b % 8))) } }

/-- The conditions of R402 on a closed epoch. -/
def canCommit (s : State) (c e : Nat) : Bool :=
  let r := recOf s c
  r.triggers = [] && r.flows.all (fun f => f.sent.all fun x => decide (e < x.epoch)) &&
  !(s.yard.any fun m => m.ctx = c && match m.body with
    | .peer _ _ _ _ _ _ ep => decide (ep ≤ e)
    | _ => false) &&
  r.deps.all fun d => decide (e < d.rxEpoch)

/-- EPOCH_COMMIT, in the order of R402. -/
def execEpochCommit (c : CtxIx) (s : State) : Host.Outcome State Fault Refusal :=
  .next (match (recOf s c).closed with
    | none => s
    | some e =>
      if !canCommit s c e then s else
      let s1 := ((recOf s c).durable.filter fun d => d.2.2 = e).foldl (fun s d => flipMap s c d.1 d.2.1) s
      let s2 := modRec s1 c fun r => { r with
        durable := r.durable.filter (fun d => d.2.2 ≠ e), chks := r.chks.filter (fun k => k.epoch ≠ e),
        commitNo := e, closed := none }
      let s3 := dbEpoch (sendCommits (recCount s2 6) c e) c e 2 0
      if (recOf s3 c).lastStep then closeEpoch s3 c else s3)

/-! ### Aborts (R88, R166, R260, R503) -/

/-- The units in which an entry of a stall's own writes its destination: the lines of a drain, the groups of a reduction, else the
iterations. -/
def entryUnits (s : State) (p : Nat) (e : Entry) : Nat :=
  match opcodeOf e.word with
  | 0x10 => 1
  | 0x11 => 0
  | 0x12 => 0
  | 0x13 => (drainLines (stall s p).ma.form (bitsOf (modE2 e.word) 2 0) (decl (imageOf s e.ctx) (hD e.word)).pitch 0).length
  | 0x59 => (eeGroups ((entryIts e).map fun js => (addrD e js, ()))).length
  | _ => (entryIts e).length

/-- The instructions of one engine that had not completed, oldest first: each has run up to some unit, of which the manual does not
say how far, and one that has not run whole is the last that had started (R74, R88, R166, R196). -/
def abortQueue (p : Nat) : List (Nat × Entry) → State → State
  | [], s => s
  | (n, e) :: r, s =>
    if e.started then abortQueue p r s
    else if e.engine = .ee && !tilesReady s p e then s
    else
      let (v, s1) := draw s
      let k := v % (entryUnits s1 p e + 1)
      let s2 := runEntry (some k) p n s1
      if k < entryUnits s1 p e then s2 else abortQueue p r s2

/-- The entries of a context in a stall, in issue order. -/
def entriesOf (x : Stall) (c : Nat) : List (Nat × Entry) :=
  ((liveEntries x).filter fun e => e.2.ctx = c).mergeSort fun a b => decide (a.2.seq ≤ b.2.seq)

/-- A send stops at a line boundary: some of its last writes, of those that have not arrived, are not sent (R88). -/
def cutSends (s : State) (p n : Nat) : State :=
  let e := entryAt s p n
  let open_ := e.sends.filter fun x => s.yard.any fun m => m.id = x.1
  let (v, s1) := draw s
  let gone := (open_.drop (v % (open_.length + 1))).map (·.1)
  let s2 := modStall { s1 with yard := s1.yard.filter fun m => !gone.contains m.id } p fun x =>
    { x with unacked := x.unacked.filter fun i => !gone.contains i }
  modEntry s2 p n fun v => { v with sends := v.sends.filter fun x => !gone.contains x.1 }

/-- What the instructions in flight on a stall leave when they are aborted (R61, R88, R503): each started one stops at a line boundary,
and the destinations of all of them are poisoned, a send's also where it has reached. A DRV instruction leaves that to the
Drovers (R260). -/
def abortEntries (s : State) (p c : Nat) : State :=
  let es := entriesOf (stall s p) c
  let s1 := ([.ma, .te, .ee, .ct] : List Engine).foldl (fun s g => abortQueue p (es.filter fun e => e.2.engine = g) s) s
  let s2 := es.foldl (fun s e => if e.2.sends = [] then s else cutSends s p e.1) s1
  es.foldl (fun s e => if e.2.engine = .drv then s else poisonReached s p c (entryAt s p e.1)) s2

/-- A comparator disarmed. -/
def disarm (x : StallCtx) : StallCtx := { x with cmps := (x.cmps.map fun e => (e.1, { e.2 with armed := false, due := false })).filter fun e => decide (e.2 ≠ ({} : Cmp)) }

/-- The effects of R88 on what Teams hold: those not HALTED are IDLE, and comparators are disarmed. -/
def abortTeams (x : StallCtx) : StallCtx :=
  disarm (mapTeams x fun m => if m.st = .halted then m else { m with st := .idle, cause := 0, yield := 0, hold := 0 })

/-- The abort on one stall. The form and the snapshot registers stay (R166). -/
def abortStall (s : State) (p c : Nat) : State :=
  modStall (abortEntries s p c) p fun x => { x with
    live := abortTeams x.live, entries := [], tiles := [], aborting := true,
    ma := { form := x.ma.form, snap := x.ma.snap } }

/-- The abort at the Drovers: buffered requests and open gangs are discarded, and an entry whose delivery has begun
leaves poison notices (R260). -/
def abortDrovers (s : State) (c : Nat) : State :=
  let s1 := { s with yard := s.yard.filter fun m => !(m.ctx = c && match m.body with
    | .drv _ => true
    | .drvDone _ => true
    | .drvBad _ _ => true
    | _ => false) }
  [0, 1].foldl (fun s d =>
    let s2 := (drover s d).expands.foldl (fun s e => match e.2 with
      | some x => drvNotices s d (x.members.filter fun m => m.ctx = c)
      | none => s) s
    modDrover s2 d fun x => { x with
      gangs := x.gangs.filter (fun g => match g.2 with
        | some v => !(v.members.any fun m => m.ctx = c)
        | none => true),
      expands := x.expands.filter (fun g => match g.2 with
        | some v => !(v.members.any fun m => m.ctx = c)
        | none => true) }) s1

/-- Reads that an aborted context has asked for are not answered; a line that a swap returns acknowledges it and still comes (R283,
R289). -/
def dropReads (s : State) (c : Nat) : State :=
  { s with yard := s.yard.filter fun m => !(m.ctx = c && match m.body with
    | .hbmRead _ _ _ => true
    | .hbmRet _ _ _ _ _ => true
    | .copyReq _ _ _ _ => true
    | .copyRet _ _ _ _ _ => true
    | .grn _ _ .read _ _ => true
    | .grnRet id _ _ _ _ => !(s.stalls.any fun x => x.2.unacked.contains id)
    | .handle _ => true
    | _ => false) }

/-- The abort of R88 of a context: on its stalls while it runs, else on its saved Team state (R384). -/
def abortStep (s : State) (c : Nat) : State :=
  if runningNo s = c then
    let s1 := (positionsIn s .enabled).foldl (fun s p => abortStall s p c) s
    modCtx (dropReads (abortDrovers s1 c) c) c fun x => { x with aborting := true, drained := false }
  else modCtx s c fun x => { x with aborting := true, drained := false,
                                    save := x.save.map fun e => (e.1, abortTeams e.2) }

/-- Rollbacks of the epoch that a trigger of the context's own would roll back (R408, R410). -/
def rerunCount (s : State) (c : Nat) : Nat := (recOf s c).reruns

/-- The rollback of a pending trigger is obeyed: by its REVOKE or timeout, or while re-runs are left (R410); an aborted
START is not run again. -/
def rollbackAllowed (s : State) (c : Nat) : Bool :=
  let r := recOf s c
  r.triggers.any (· ≠ 0) ||
  (r.triggers ≠ [] && (r.opened.isSome || r.closed.isSome) && decide (rerunCount s c < csrField s 0x7600 1 0) &&
    !(match (ctx s c).cur with
      | some e => e.abort
      | none => false))

/-- A Team of the running context has halted. -/
def anyHalted (s : State) : Bool :=
  (positionsIn s .enabled).any fun p =>
    let x := (stall s p).live
    x.t0.st = .halted || x.t1.st = .halted || x.t2.st = .halted || x.t3.st = .halted

/-- STEP_ABORT: a fault has halted a Team of the running context and no rollback serves it (R87, R88, R399). -/
def execStepAbort (c : CtxIx) (s : State) : Host.Outcome State Fault Refusal :=
  .next (
    if runningNo s ≠ c.val || !anyHalted s || (ctx s c).aborting || rollbackAllowed s c then s
    else abortStep s c)

/-! ### Drain (R288, R289) -/

/-- The context is drained (R289). -/
def drainedNow (s : State) (c : Nat) : Bool :=
  (runningNo s ≠ c || (positionsIn s .enabled).all fun p => (stall s p).unacked = []) &&
  ([0, 1].all fun d =>
    (drover s d).gangs.all (fun g => match g.2 with
      | some v => !(v.members.any fun m => m.ctx = c)
      | none => true) &&
    (drover s d).expands.all (fun g => match g.2 with
      | some v => !(v.members.any fun m => m.ctx = c)
      | none => true)) &&
  !(s.yard.any fun m => m.ctx = c && match m.body with
    | .drv _ => true
    | .poison _ => true
    | .arrive _ _ => true
    | .release _ _ => true
    | .line _ _ _ _ _ _ => true
    | .done _ _ _ _ => true
    | _ => false)

/-- What logical ID l holds of context c: in its stall while the context runs, else in the save area (R91). -/
def heldBy (s : State) (c l : Nat) : StallCtx :=
  if runningNo s = c then
    match posOfLid s l with
    | some q => (stall s q).live
    | none => {}
  else nget {} (ctx s c).save l

/-- The phase to which an aborted barrier goes back: RPHASE of its root, the wire, or the system sense (R288). -/
def barrierPhase (s : State) (c k : Nat) (b : Bar) : Bool :=
  if k < 64 then
    match (setMembers (imageOf s c) k).mergeSort (· ≤ ·) with
    | [] => false
    | r :: _ => (barOf (heldBy s c r) k).rphase
  else if k < 128 then (contextWires s c).getLsbD (k - 64)
  else b.rphase

/-- The barriers that a stall keeps for a context, set back (R288). -/
def barsBack (s : State) (c : Nat) (x : StallCtx) : StallCtx :=
  let back (k : Nat) (b : Bar) : Bar :=
    { lsense := barrierPhase s c k b, drive := barrierPhase s c k b, rphase := b.rphase }
  { x with bars := (x.bars.map fun e => (e.1, back e.1 e.2)).filter fun e => decide (e.2 ≠ ({} : Bar)) }

/-- Every barrier of a context is set back, in its stalls or in what is saved of it (R288). -/
def resetBarriers (s : State) (c : Nat) : State :=
  let s1 := if runningNo s = c then (positionsIn s .enabled).foldl (fun t p => modLive t p (barsBack s c)) s
    else modCtx s c fun x => { x with save := x.save.map fun e => (e.1, barsBack s c e.2) }
  { s1 with ym := { s1.ym with sysArr := s1.ym.sysArr.filter fun e => !(e.1 / 64 = c && e.1 % 4 = 0) } }

/-- The write-back at the end of an aborted step (R59, R89): every pinned record is stored, and drops are counted. -/
def abortWriteBack (s : State) (c : Nat) : State :=
  let s1 := (positionsIn s .enabled).foldl (fun s p =>
    let x := stall s p
    let s2 := countedDrops s p c
    x.hcache.foldl (fun s e => match e.2 with
      | some v => if v.pinned then storeCopy s c (lidOf s p) e.1 v.record v.poison else s
      | none => s) s2) s
  deliverRecords { s1 with yard := s1.yard.filter fun m => !(m.ctx = c && match m.body with
    | .writeBack _ _ _ _ => true
    | _ => false) } c

/-- The stalls' handle caches are cleared (R409). -/
def clearCaches (s : State) : State := (positionsIn s .enabled).foldl (fun s p => modStall s p fun x => { x with hcache := [] }) s

/-- CONTEXT_DRAINED: nothing of the context is in flight. After an abort its barriers are set back, and unless a rollback
follows the aborted step's write-back is made and its epoch closes (R88, R288, R289, R401). -/
def execContextDrained (c : CtxIx) (s : State) : Host.Outcome State Fault Refusal :=
  .next (
    if !drainedNow s c then s else
    let x := ctx s c
    if !x.aborting then modCtx s c fun x => { x with drained := true } else
    let run := runningNo s = c.val
    let s1 := resetBarriers s c
    let s2 := (positionsIn s1 .enabled).foldl (fun s p => if run then modStall s p fun y => { y with aborting := false } else s) s1
    if x.rolling then modCtx s2 c fun y => { y with drained := true }
    else
      let s3 := if run then abortWriteBack s2 c else s2
      closeLast (modCtx s3 c fun y => { y with drained := true, aborting := false }) c)

/-! ### Rollback (R407 to R410) -/

/-- The epoch to whose start the pending triggers roll back; none when every epoch has committed (R408). -/
def rollbackTarget (r : Rec) : Option Nat :=
  let own := match r.opened with
    | some e => some e
    | none => r.closed
  let ts := r.triggers.filterMap fun t => if t = 0 then own else some (t - 1)
  ts.foldl (fun b t => match b with
    | none => some t
    | some x => some (min x t)) none

/-- Fenced Teams whose target has passed meet their TIME.FENCE again, which releases them at once and counts (R30). -/
def refence (s : State) (c : Nat) (x : StallCtx) : StallCtx :=
  mapTeams x fun m => if m.st = .fenced && fenceDue s c m.fence.toNat < now s then { m with st := .ready, cause := 0 } else m

/-- A Team of what a stall holds is READY. -/
def anyReady (x : StallCtx) : Bool := x.t0.st = .ready || x.t1.st = .ready || x.t2.st = .ready || x.t3.st = .ready

/-- Put a saved context into the stalls; one in GATED or NAP runs when a Team is READY there (R95). -/
def loadStalls (s : State) (c : Nat) (save : NMap StallCtx) : State :=
  (positionsIn s .enabled).foldl (fun s p =>
    let x := nget {} save (lidOf s p)
    let x := refence s c x
    modStall s p fun y => { y with live := x, pwr := if y.pwr ≠ .off && anyReady x then .run else y.pwr }) s

/-- The restart of R409 from a checkpoint: REVOKE for the epochs at or after the target, the saved state and handle table
back, pending durable entries and later checkpoints deleted, substitutions made, and the next epoch opened. -/
def restart (s : State) (c target : Nat) : State :=
  let r := recOf s c
  match (r.chks.find? fun k => k.epoch = target) with
  | none => modRec s c fun r => { r with triggers := [] }
  | some k =>
    let s1 := rewriteFailing (sendRevokes s c target) c
    let s2 := modRec s1 c fun r => { r with
      opened := none, closed := if r.closed.any (fun e => decide (e < target)) then r.closed else none, lastStep := false,
      chks := r.chks.filter (fun x => x.epoch < target), durable := r.durable.filter (fun d => d.2.2 < target), triggers := [] }
    let s3 := modCtx s2 c fun x => { x with
      handles := k.handles, save := k.save, wires := k.wires, wbacks := [], aborting := false, rolling := false, drained := false,
      cur := x.cur.map fun e => { e with fault := none } }
    let run := runningNo s = c
    let s4 := if run then retireAwaiting s3 else s3
    -- a retirement that finds no spare stops the context, which is not re-run (R21, R392)
    if (ctx s4 c).st = .stopped then s4 else
    let s5 := if run && (ctx s4 c).st = .resident then
        let t := loadStalls (clearCaches s4) c k.save
        { t with ym := { t.ym with devPhase := k.wires } }
      else s4
    openEpoch (dbEpoch (recCount s5 5) c target 3 target) c (k.reruns + 1)

/-- ROLLBACK: the step of a running context is aborted first; once the context is drained, and the writes of the flows
that are to be revoked are acknowledged (R354), it restarts. A refused trigger is discharged (R410), as is one that
finds every epoch committed (R408). -/
def execRollback (c : CtxIx) (s : State) : Host.Outcome State Fault Refusal :=
  .next (
    let r := recOf s c
    if r.triggers = [] then s else
    match rollbackTarget r with
    | none => modRec (rewriteFailing s c) c fun r => { r with triggers := [] }
    | some target =>
      if !rollbackAllowed s c then
        modRec (dbEpoch s c target 4 0) c fun r => { r with triggers := [], failing := [] }
      else if runningNo s = c.val && !((ctx s c).rolling && (ctx s c).drained) then
        if (ctx s c).rolling then s
        else modCtx (abortStep s c) c fun x => { x with rolling := true }
      else if r.flows.any fun f => f.epochs.any (target ≤ ·) && f.sent ≠ [] then s
      else restart s c target)

/-! ### Context switches (R381, R382) -/

/-- A stall is at a step boundary for the running context (R90). -/
def atBoundary (s : State) (p : Nat) : Bool :=
  let x := (stall s p).live
  let ok (m : Team) : Bool := m.st = .idle || m.st = .finished || m.st = .fenced
  (liveEntries (stall s p)).isEmpty && ok x.t0 && ok x.t1 && ok x.t2 && ok x.t3

/-- A context is ready when its ring executes a START (R381). -/
def isReady (s : State) (c : Nat) : Bool :=
  (ctx s c).st = .resident && match (ctx s c).cur with
    | some e => e.teams
    | none => false

/-- The ready contexts in slot order after the running one; from slot 0 when none runs. -/
def readyAfter (s : State) : List Nat :=
  ((List.range 64).map fun i => if runningNo s = 64 then i else (runningNo s + 1 + i) % 64).filter fun c => isReady s c && c ≠ runningNo s

/-- The ready context of highest priority, the first in slot order after the running one among equals. -/
def topReady (s : State) : Option Nat :=
  (readyAfter s).foldl (fun b c => match b with
    | none => some c
    | some x => if (ctx s x).prio < (ctx s c).prio then some c else b) none

/-- The context that a step boundary switches to, if any (R381). A running context that executes no START yields. -/
def nextContext (s : State) : Option Nat :=
  match topReady s with
  | none => none
  | some d =>
    let c := runningNo s
    if c = 64 || !isReady s c then some d
    else if (ctx s c).prio < (ctx s d).prio then some d
    else if s.ym.expired && (ctx s c).prio = (ctx s d).prio then some d
    else none

/-- Save the outgoing context (R91, R166, R261, R326). -/
def switchOut (s : State) (c : Nat) : State :=
  let s1 := modCtx s c fun x => { x with save := contextSave s c, wires := s.ym.devPhase, drained := false }
  let s2 := writeBackContext s1 c
  let s3 := (positionsIn s2 .enabled).foldl (fun s p => modStall s p fun x => { x with
    live := {}, hcache := [], ma := {}, tiles := [] }) s2
  { [0, 1].foldl (fun s d => modDrover s d fun x => { x with recs := [] }) s3 with ym := { s3.ym with running := none } }

/-- Restore the incoming context: shared-range valid bits, saved state, tables, wires (R91, R168, R210, R281). -/
def switchIn (s : State) (c : Nat) : State :=
  let cl := (imageOf s c).claims
  let s1 := loftInvalidate s fun _ l _ => cl.sharedBase ≤ l && l < cl.sharedBase + cl.sharedLen
  let s2 := { s1 with ym := { s1.ym with running := if h : c < 64 then some ⟨c, h⟩ else none, since := s.ledger, expired := false,
                                         devPhase := (ctx s c).wires } }
  let s3 := (positionsIn s2 .enabled).foldl (fun s p => writePrimeTable s p c) (loadStalls s2 c (ctx s c).save)
  ensureEpoch (writeSetTables s3 c) c

/-- The point at which the Yardmaster chooses what runs: a step boundary of a drained context, or no context runs (R381,
R382). -/
def choicePoint (s : State) : Bool :=
  let c := runningNo s
  c = 64 || ((positionsIn s .enabled).all (atBoundary s) && !writeBacksOpen s c && drainedNow s c &&
    !(ctx s c).aborting && (recOf s c).triggers = [])

/-- CONTEXT_SWITCH: at a step boundary of a drained context, or when none runs, stalls that await retirement retire, a
requested scan begins, and the context that R381 chooses runs. -/
def execContextSwitch (s : State) : Host.Outcome State Fault Refusal :=
  .next (
    if !choicePoint s then s else
    let s1 := scanBoundary (retireAwaiting s)
    match nextContext s1 with
    | none => s1
    | some d => switchIn (if runningNo s1 = 64 then s1 else switchOut s1 (runningNo s1)) d)

/-- QUANTUM_EXPIRY: the running context has run for longer than QUANTUM_US (R381). -/
def execQuantumExpiry (s : State) : Host.Outcome State Fault Refusal :=
  .next (
    if s.ym.running.isNone || now s ≤ s.ym.since.toNat + 1000 * csrField s 0x6400 19 0 then s
    else { s with ym := { s.ym with expired := true } })

end Sys2Proof.Machine
end

