-- ==== Sys2Proof/Machine/StallPower.lean ====
section
/-!
DEFINITION. A stall's power states (R95, R96), wear (R98, R465), parity sweep (R232, R233) and Loft window (R198, R199).
-/

namespace Sys2Proof.Machine

/-- Fence targets of a stall's fenced Teams, in Ledger time. -/
def fenceTargets (s : State) (p : Nat) : List Nat :=
  let x := (stall s p).live
  ([x.t0, x.t1, x.t2, x.t3].filter fun m => m.st = .fenced).map fun m => fenceDue s (runningNo s) m.fence.toNat

/-- A Team of the stall is READY (R71): its state says so, or what its head waited for holds, or its fence target has come. -/
def teamReady (s : State) (p : Nat) : Bool :=
  let x := (stall s p).live
  ([0, 1, 2, 3] : List (Fin 4)).any (fun t => (getTeam x t).st = .ready || ((getTeam x t).st = .blocked && match verdictOn s p t with
    | .go => true
    | .fault _ _ => true
    | _ => false)) || (fenceTargets s p).any (· ≤ now s)

/-- Whether a position is powered. -/
def powered (s : State) (p : Nat) : Bool := (position s p).st = .enabled || (position s p).st = .spare

/-- STALL_GATE: no engine instruction has been in flight and no Team READY for 256 stall cy; the IVR target takes effect
(R95, R465). -/
def execStallGate (p : Position) (s : State) : Host.Outcome State Fault Refusal :=
  .next (
    if !powered s p || (stall s p).pwr ≠ .run || !(liveEntries (stall s p)).isEmpty || teamReady s p then s
    else applyTarget (modStall s p fun x => { x with pwr := .gated }) p)

/-- STALL_NAP: all Teams are idle, finished or fenced, and the earliest fence target is more than 20 us ahead (R95). -/
def execStallNap (p : Position) (s : State) : Host.Outcome State Fault Refusal :=
  .next (
    let w := (stall s p).pwr
    if !powered s p || (w ≠ .run && w ≠ .gated) || !atBoundary s p || (fenceTargets s p).any (· ≤ now s + 20000) then s
    else modStall s p fun x => { x with pwr := .nap })

/-- STALL_WAKE: out of GATED for a READY Team; out of NAP also 5 us before a fence target, or for an arrival (R95, R96). -/
def execStallWake (p : Position) (s : State) : Host.Outcome State Fault Refusal :=
  .next (
    let arrival := s.yard.any fun m => m.dst = .stall p
    let soon := (fenceTargets s p).any (· ≤ now s + 5000)
    match (stall s p).pwr with
    | .gated => if teamReady s p then modStall s p fun x => { x with pwr := .run } else s
    | .nap => if teamReady s p || soon || arrival then modStall s p fun x => { x with pwr := .run } else s
    | _ => s)

/-- The result of an ageing measurement: AGE_STATUS and the next IVR target (R98, R465). -/
def setAge (s : State) (p mv : Nat) : State :=
  let req := min (mv + 15) 1023
  let vmax := vmaxOf s p
  let limit := decide (vmax < req)
  let v := now s % 2 ^ 48 * 2 ^ 16 + (if limit then 2 ^ 15 else 0) + req
  let s1 := csrPut s (stallCsr p 0x400) (BitVec.ofNat 64 v)
  modStall s1 p fun x => { x with target := min vmax (max req (x.target - 5)) }

/-- A measurement of a stall: one above its limit awaits retirement, a spare retires at once (R98, R465). -/
def ageMeasure (s : State) (p mv : Nat) : State :=
  let s1 := setAge s p mv
  if !csrBit s1 (stallCsr p 0x400) 15 then s1 else
  let s2 := if csrBit s (stallCsr p 0x400) 15 then s1 else reportFault s1 1025 0x0A03 p 0xFF (lidOf s p) 0 0xFFF
  if (position s p).st = .spare then retire s2 p 0 else awaitRetire s2 p 0

/-- AGEING_MEASUREMENT, every 10 minutes of Ledger time. -/
def execAgeingMeasurement (p : Position) (mv : Nat) (s : State) : Host.Outcome State Fault Refusal :=
  .next (
    let age := csrGet s (stallCsr p 0x400)
    let since := (now s + 2 ^ 48 - bitsOf age.toNat 63 16) % 2 ^ 48
    if !powered s p || (age ≠ 0 && since < 600000000000) then s else ageMeasure s p mv)

/-- PARITY_SWEEP: the background position checks the line at its pointer where that line is valid (R205, R232). -/
def execParitySweep (p : Position) (s : State) : Host.Outcome State Fault Refusal :=
  .next (
    if !powered s p || !awake s p then s else
    let n := (stall s p).sweep
    let l := loftLine s p n
    let s1 := modStall s p fun x => { x with sweep := if n + 1 < 10912 then n + 1 else 0 }
    if !l.valid then s1 else
    match parityFailures l.words l.par with
    | 0 => s1
    | k => parityFailed s1 p n k true)

/-! ### The Loft window -/

/-- Byte o of a line's containers (R198). -/
def windowByte (l : Line) (o : Nat) : Byte := BitVec.ofNat 8 ((wordAt l (o / 6)).toNat / 256 ^ (o % 6))

/-- Lines of descriptor pieces, to which the window drops writes (R247). -/
def descriptorLine (s : State) (p c line : Nat) : Bool :=
  let img := imageOf s c
  img.handles.any fun d =>
    let pc := pieceOf img (deviceId s) d (lidOf s p)
    decide (d.place ≤ 1) && decide (pc.base ≤ line) && decide (line < pc.base + pc.lines) &&
    img.roles.any fun r => r.2.code.any fun w => (opcodeOf w = 0xA0 || opcodeOf w = 0xA1) && hB w = d.handle

/-- A window write to one line: the words whose containers it covers in full. -/
def windowWriteLine (s : State) (p c line first : Nat) (bs : List Byte) : State :=
  let cl := (imageOf s c).claims
  let ok := (cl.persistBase ≤ line && line < cl.persistBase + cl.persistLen) || (cl.sharedBase ≤ line && line < cl.sharedBase + cl.sharedLen)
  let full := (List.range 16).filter fun i => first ≤ 6 * i && 6 * i + 6 ≤ first + bs.length
  if !ok || full = [] || descriptorLine s p c line then s else
  let words : Line := (List.range 16).map fun i => BitVec.ofNat 36 (leNat ((bs.drop (6 * i - first)).take 6))
  loftWrite s p line c words (full.foldl (fun a i => a + 2 ^ i) 0)

/-- A stall in NAP reaches RUN (R95, R96). -/
def wakeNap (s : State) (p : Nat) : State :=
  if (stall s p).pwr = .nap then modStall s p fun x => { x with pwr := .run } else s

/-- The debug port's access is made for the context running on the stall, the Ostler's for none, so it
reads zeros and its writes are dropped; no BAR reaches the window (R199, R364). An access to a stall in NAP is held until it has woken
(R96). -/
def loftWindow (who : Requester) (p : Position) (off : Nat) (a : Access) (s : State) : State :=
  let s := if who = .debugPort then debugRecord s (accessKind a) (0x8000000000 + p * 2 ^ 20 + off) else s
  let c := if who = .debugPort then runningNo s else 64
  match who with
  | .pf => s
  | .vf n => if s.gate.linkUp then aerError s n.val .unsupportedRequest else s
  | _ =>
    let s := wakeNap s p
    match a with
    | .read len =>
      let lines := ((List.range len).map fun i => (off + i) / 96).dedup
      let s1 := lines.foldl (fun s n =>
        let l := loftLine s p n
        if n < 10912 && l.valid && l.tag.toNat = c then
          match parityFailures l.words l.par with
          | 0 => s
          | k => parityFailed s p n k true
        else s) s
      { s1 with bus := (List.range len).map fun i =>
          let n := (off + i) / 96
          if n < 10912 then
            match loftRead s p n c with
            | some l => windowByte l ((off + i) % 96)
            | none => 0
          else 0 }
    | .write data =>
      if c = 64 || !powered s p then s else
      ((List.range data.length).map fun i => (off + i) / 96).dedup.foldl (fun s n =>
        if 10912 ≤ n then s else
        let lo := max off (96 * n)
        let hi := min (off + data.length) (96 * n + 96)
        windowWriteLine s p c n (lo - 96 * n) ((data.drop (lo - off)).take (hi - lo))) s

/-- LOFT_WINDOW_ACCESS. -/
def execLoftWindowAccess (who : Requester) (p : Position) (off : Nat) (a : Access) (s : State) : Host.Outcome State Fault Refusal :=
  .next (loftWindow who p off a s)

end Sys2Proof.Machine
end

