-- ==== Sys2Proof/Machine/Margin.lean ====
section
/-!
DEFINITION. The margin table that the Ostler keeps in flash (R466), and changes to flash and to the Ostler.
-/

namespace Sys2Proof.Machine

/-- Write a byte of flash. -/
def flashPut (m : NMap Byte) (o : Nat) (b : Byte) : NMap Byte := nset 0xFF m o b

/-- Consecutive bytes of flash replaced. -/
def flashPuts (m : NMap Byte) (o : Nat) : List Byte → NMap Byte
  | [] => m
  | b :: bs => flashPuts (flashPut m o b) (o + 1) bs

/-- Change the Ostler. -/
def modOstler (s : State) (f : Ostler → Ostler) : State := { s with ostler := f s.ostler }

/-- What the margin table holds of a position now. -/
def marginNow (s : State) (p : Nat) : Margin :=
  let age := (csrGet s (stallCsr p 0x400)).toNat
  let old := nget {} s.ostler.margin p
  let x := position s p
  { mv := if age = 0 then old.mv else age % 1024
    state := match x.st with
      | .retired => 1
      | .outOfService => if x.scan then 0 else 2
      | _ => 0
    at_ := if age = 0 then old.at_ else age / 2 ^ 16 / 1000 % 2 ^ 32
    cause := if x.st = .retired then x.cause.toNat else 0 }

/-- The margin table as it would be written now. -/
def marginTable (s : State) : NMap Margin := (List.range 832).foldl (fun m p => nset {} m p (marginNow s p)) []

/-- Records of a stack's repairs: kind 1 pending row, 2 remapped row, 3 retired page (layout: DESIGN CHOICE, log 30). -/
def repairRecords (st : Nat) (r : Repair) : List (List Byte) :=
  let rec_ (k x : Nat) : List Byte := leBytes 1 st ++ leBytes 1 k ++ leBytes 6 0 ++ leBytes 8 x
  r.pending.map (rec_ 1) ++ r.remapped.map (rec_ 2) ++ r.retired.map (rec_ 3)

/-- The bytes of one copy. -/
def marginBytes (s : State) (seq : Nat) : List Byte :=
  let recs := (List.range 8).flatMap fun st => repairRecords st (repairOf s st)
  let body := (List.range 832).flatMap (fun p =>
    let m := marginNow s p
    leBytes 4 m.mv ++ leBytes 4 m.state ++ leBytes 4 m.at_ ++ leBytes 4 m.cause) ++ recs.flatten
  let head := leBytes 4 0x014D4749 ++ leBytes 4 seq ++ leBytes 4 recs.length
  head ++ leBytes 4 (crc32c (head ++ leBytes 4 0 ++ body)) ++ body

/-- What the Ostler writes at once: a position's state or a repair that the table does not hold (R466). -/
def marginAtOnce (s : State) : Bool :=
  ((List.range 832).any fun p => decide ((marginNow s p).state ≠ (nget {} s.ostler.margin p).state)) ||
  ((List.range 8).any fun st => decide ({ repairOf s st with pprLeft := 0 } ≠ { nget {} s.ostler.marRep st with pprLeft := 0 }))

/-- Write the table; the two copies alternate. -/
def writeMargin (s : State) : State :=
  let seq := s.ostler.marSeq + 1
  let at_ := if seq.toNat % 2 = 0 then 0x20000 else 0x120000
  modOstler s fun o => { o with
    flash := flashPuts (nclear o.flash at_ (at_ + 0x100000)) at_ (marginBytes s seq.toNat),
    marSeq := seq, marAt := s.ledger, margin := marginTable s, marRep := s.hbm.repair }

/-- A write that is due at once has been made before a reset takes effect (R17, R466). -/
def settleMargin (s : State) : State :=
  if s.ostler.up && !s.rst.recovery && s.rst.phase = .running && marginAtOnce s then writeMargin s else s

end Sys2Proof.Machine
end

