-- ==== Sys2Proof/Machine/Reset.lean ====
section
/-!
DEFINITION. Reset levels, sources and what survives them (R447 to R452, R462), supply and temperature (R463, R464, R494),
the release of reset and the watchdog (R449, R453).
-/

namespace Sys2Proof.Machine

/-- Change the reset control. -/
def modRst (s : State) (f : Rst → Rst) : State := { s with rst := f s.rst }

/-- RST_CAUSE. -/
def rstCause : Nat := 0x0100000

/-- The device has booted and no reset sequence runs. -/
def booted (s : State) : Bool := s.rst.phase = .running

/-! ### What survives (R462) -/

/-- The registers that a level leaves as they are: of a core reset those of the blocks that it does not reach, and at every level
below power-on RST_CAUSE, DB_HEAD, DB_LOST and PWR_CNT[2] (R447, R448, R462; DEDUCED, log 27). -/
def csrKept (level off : Nat) : Bool :=
  if level = 3 then false
  else if off = rstCause || off = 0x0D00000 || off = 0x0D00008 || off = 0x0C00210 then true
  else level = 1 && (let b := off / 2 ^ 20
    b = 0x01 || b = 0x02 || b = 0x06 || b = 0x07 || b = 0x08 || b = 0x0B || b = 0x0C)

/-- Every Loft line keeps its words; its valid bit and tag are cleared. -/
def loftAfter (m : NMap LoftLine) : NMap LoftLine :=
  (m.map fun e => (e.1, { e.2 with valid := false, tag := 0 })).filter fun e => decide (e.2 ≠ ({} : LoftLine))

/-- The device's own regions (R376, R411, R435). -/
def deviceRegions : List Region :=
  [{ st := .live, cls := 1, owner := 64, base := 0x6000000000, limit := 0x6000000000 + 4831838208 - 1 },
   { st := .live, cls := 1, owner := 64, base := 0x5000000000, limit := 0x5000000000 + 150994944 - 1 },
   { st := .live, cls := 0, owner := 64, base := 0x7000000000, limit := 0x7000000000 + 2147483648 - 1 }]

/-- An address lies in a region of the device. -/
def inDevice (a : Nat) : Bool := deviceRegions.any fun r => decide (r.base ≤ a) && decide (a ≤ r.limit)

/-- HBM after a reset: at power-on everything is lost; at system reset the device's regions keep their contents; at core reset
the controllers keep all, and every context's region entry is FREE without a scrub. Context keys are erased (R420, R460). -/
def hbmAfter (level : Nat) (h : Hbm) : Hbm :=
  if level = 3 then {}
  else if level = 2 then
    { mem := h.mem.filter fun e => inDevice e.1, slots := h.slots.filter fun e => inDevice (e.1 * 4096) }
  else { h with regions := h.regions.filter (fun e => e.2.owner = 64), keys := [], selfRef := true }

/-- The Tack Room after a reset: OBSERVED, MR6 and gate slots outlive a system or core reset, the link IDE stream's keys a core reset;
nothing outlives power-on. -/
def tackAfter (level : Nat) (t : Tack) : Tack :=
  if level = 3 then {} else
    { observed := t.observed, mrs := t.mrs.filter (fun e => e.1 = 6), slots := t.slots, ideKey := if level = 1 then t.ideKey else [] }

/-- The Ostler after a reset that reaches it: what stands in flash. -/
def ostlerAfter (o : Ostler) : Ostler :=
  { flash := o.flash, dir := o.dir, marSeq := o.marSeq, marAt := o.marAt, margin := o.margin, marRep := o.marRep, fabric := o.fabric }

/-- The Gatehouse after a core reset of its own device: rings of its own index have no context any more. -/
def gateAfterCore (s : State) : Gateh :=
  match barnIndex s (deviceId s) with
  | none => s.gate
  | some m =>
    let own (k : Nat) : Bool := k / 64 = m
    { s.gate with
      vfBind := s.gate.vfBind.filter (fun e => !own e.1), jobs := s.gate.jobs.filter (fun e => !own e.1),
      doneSeq := s.gate.doneSeq.filter (fun e => !own e.1), watch := s.gate.watch.filter (fun w => !own w.ring),
      xfers := s.gate.xfers.filter (fun x => !own x.ring) }

/-- The state when a reset of a level is asserted (R447, R448, R462). -/
def resetState (level : Nat) (s : State) : State :=
  let s0 : State := {
    pending := s.pending, fresh := s.fresh, msgSeq := s.msgSeq, bus := s.bus, busEp := s.busEp, hostMem := s.hostMem, irqs := s.irqs,
    csr := s.csr.filter fun e => csrKept level e.1
    loft := loftAfter s.loft
    hbm := hbmAfter level s.hbm
    tack := tackAfter level s.tack
    fuses := s.fuses, sent := s.sent, frames := s.frames, supply := { rails := s.supply.rails }
    gate := { bridge := s.gate.bridge }
    ostler := ostlerAfter s.ostler
    rst := { phase := .asserted, level := level, testEn := s.rst.testEn } }
  if level = 3 then s0
  else
    let s1 := { s0 with smithy := { x := s.smithy.x }, tap := s.tap,
                        rst := { s0.rst with tripped := s.rst.tripped, faultN := s.rst.faultN, tripN := s.rst.tripN, xspiRstN := s.rst.xspiRstN } }
    if level = 2 then s1
    else { s1 with ledger := s.ledger, disc := s.disc, positions := s.positions, rhoa := s.rhoa, gate := gateAfterCore s,
                   ostler := s.ostler, reports := s.reports, supply := s.supply,
                   rst := { s1.rst with backup := s.rst.backup, wdogAt := s.rst.wdogAt, blk := s.rst.blk, blkAt := s.rst.blkAt, runB := s.rst.runB, acts := s.rst.acts } }

/-- The Smithy's operand registers are undefined after power-on (R462): free values. -/
def undefineSmithy (s : State) : State :=
  (List.range 32).foldl (fun s i => let (v, s1) := draw s
    { s1 with smithy := { s1.smithy with x := nset 0 s1.smithy.x i (v % 2 ^ 4096) } }) s

/-- Sources whose reset is orderly: the Daybook's records are written back first (R449, R450). -/
def orderly (bit : Nat) : Bool := bit ≠ 0 && bit ≠ 6 && bit ≠ 7 && bit ≠ 9

/-- A reset that is not orderly loses the dirty lines of owner 64: the ring places of the newest records keep their earlier contents; how
many records had not been written back is a free value (R450, R463; DESIGN CHOICE, log 2 and log 74). -/
def loseRecords (s : State) : State :=
  let (v, s1) := draw s
  let lost := s.db.unwritten.take (v % (s.db.unwritten.length + 1))
  { s1 with hbm := { s1.hbm with mem := lost.foldl (fun m e => memWrite m (ringAt e.1) e.2) s1.hbm.mem } }

/-- Set the bit of a source in RST_CAUSE. -/
def markCause (s : State) (bit : Nat) : State := csrSetField s rstCause bit bit 1

/-- Assert a reset of a level for a source: LEVEL and the source's bit. -/
def assertReset (s : State) (level bit : Nat) : State :=
  let s0 := if orderly bit then s else loseRecords s
  let s1 := csrSetField (resetState level (if level = 1 then s0 else settleMargin s0)) rstCause 31 30 level
  if level = 3 then undefineSmithy s1 else markCause s1 bit

/-- A reset sequence runs: until boot has ended, in the recovery state too. -/
def sequenceRuns (s : State) : Bool := s.rst.phase ≠ .running && !s.rst.recovery

/-- A source asks for a reset (R451): during a sequence of at least its level it only joins it; otherwise the sequence starts, or
starts again deeper. -/
def requestReset (s : State) (level bit : Nat) : State :=
  if sequenceRuns s && level ≤ s.rst.level then markCause s bit else assertReset s level bit

/-! ### Sources (R449) -/

/-- PWR_GOOD deasserts. -/
def execPowerOnReset (s : State) : Host.Outcome State Fault Refusal := .next (requestReset s 3 0)

/-- Whether a pulse of a reset pin acts: 1 us or longer does, below 100 ns does not, and between the two it may (R490). -/
def pulseActs (s : State) (ns : Nat) : Bool × State :=
  if 1000 ≤ ns then (true, s)
  else if ns < 100 then (false, s)
  else let (v, s1) := draw s
    (v % 2 = 1, s1)

/-- SYS_RST_N. -/
def execSysRstN (ns : Nat) (s : State) : Host.Outcome State Fault Refusal :=
  .next (
    let (acts, s1) := pulseActs s ns
    if acts then requestReset s1 2 1 else s1)

/-- Reset of the Gatehouse block (R454, R462): its link, configuration space and registers are lost, IDE keys are erased, a
transfer that has begun ends with DATA_FAILED. The record queues begin again (log 116). -/
def resetGatehouse (s : State) : State :=
  let s1 := csrClear s 0x0800000 0x0900000
  { s1 with
    tack := { s1.tack with ideKey := [] }
    gate := { s.gate with linkUp := false, width := 0, speed := 0, ide := false, numVfs := 0, bar4 := 0, vfBind := [],
                          slots := [], aer := [], recNo := [],
                          xfers := s.gate.xfers.map fun x => if x.begun then { x with bad := true } else x } }

/-- PERST_N on a bridge: a system reset when RST_CFG.PERST_SYS is 1, else a reset of the Gatehouse. -/
def execPerstN (ns : Nat) (s : State) : Host.Outcome State Fault Refusal :=
  .next (
    if !s.gate.bridge then s else
    let (acts, s1) := pulseActs s ns
    if !acts then s1
    else if csrBit s1 0x0100008 31 then requestReset s1 2 2
    else markCause (resetGatehouse s1) 2)

/-- WATCHDOG_EXPIRY: the Ostler has not written RST_WDOG for WDOG_MS. -/
def execWatchdogExpiry (s : State) : Host.Outcome State Fault Refusal :=
  .next (
    let ms := csrField s 0x0100008 30 16
    if ms = 0 || !booted s || now s < s.rst.wdogAt.toNat + 1000000 * ms then s else requestReset s 2 3)

/-- A write of RST_WDOG: the key restarts the period. -/
def writeWdog (s : State) (v : Nat) : State := if v % 2 ^ 32 = 0x5A5A0001 then modRst s fun r => { r with wdogAt := s.ledger } else s

/-- WDOG_SERVICE. -/
def execWdogService (value : W32) (s : State) : Host.Outcome State Fault Refusal := .next (writeWdog s value.toNat)

/-- YARDMASTER_FATAL_ERROR: a core reset. -/
def execYardmasterFatalError (s : State) : Host.Outcome State Fault Refusal := .next (requestReset (aerError s 0 .uncorrectableInternal) 1 8)

/-- Brownout limit of a monitored rail, in the order of R493: VIN, VDD_HBM, VDDQ_HBM, VPP_HBM, VDD_SERDES, VDDA_SERDES,
VDD_IO_1V8. -/
def railLimit (rail : Nat) : Nat := [1400, 1000, 360, 1620, 700, 1120, 1620].getD rail 0

/-- A rail monitor reads a value. -/
def readRail (s : State) (rail mv : Nat) : State := { s with supply := { s.supply with rails := nset none s.supply.rails rail (some mv) } }

/-- No rail monitor reads a rail below its brownout limit; while one does, PWR_GOOD counts as deasserted and release waits (R495). Once
the device is released, a rail below its limit has the outcome of R463 instead (DEDUCED, log 110). -/
def railsGood (s : State) : Bool := s.supply.rails.all fun e => match e.2 with
  | some v => decide (railLimit e.1 ≤ v)
  | none => true

/-- RESET_RELEASE: the domains are released in order as each clock-good sets; a device that is held after a thermal trip, or for
TEST_EN, is not released (R453, R464, R491). After that it releases the Ledger or a stall that has lost its clock-good again. RL_LAST_RESET takes the Ledger where the reset reached it. -/
def execResetRelease (s : State) : Host.Outcome State Fault Refusal :=
  .next (
    let s1 := csrSetField s 0x0100020 6 0 (if s.gate.bridge then 0x7F else 0x5F)
    if s.rst.phase ≠ .asserted then s1
    else if s.rst.tripped || s.rst.testEn || !railsGood s then s else
    let s2 := if 2 ≤ s.rst.level then csrPut s1 0x07C0020 s.ledger else s1
    modRst s2 fun r => { r with phase := .released, xspiRstN := true })

/-- CLOCK_UNSTABLE of domain 0 Ledger, 1 Ostler, 2 gate die, 3 Yard, or 4 + p the stall at p (R453): it is logged, and its
consequence follows. -/
def clockLost (s : State) (pos : Nat) : State :=
  let n := csrField s 0x0100020 31 16
  let s1 := pwrCount (csrSetField s 0x0100020 31 16 (min (n + 1) 0xFFFF)) 3
  if booted s then reportFault s1 1025 0x0A01 pos 0xFF 0x3FF 0 0xFFF else reportOstler s1 1025 0x0A01 pos 0xFF

/-! ### Supply (R463, R494) -/

/-- RAIL_STATUS. -/
def railStatus : Nat := 0x0C00000

/-- A sample of the input rail. -/
def sampleRail (s : State) (mv : Nat) : State :=
  let v := min mv 0xFFE
  csrSetField (csrSetField (readRail s 0 mv) railStatus 11 0 v) railStatus 23 12 (min v (csrField s railStatus 23 12))

/-- A RAIL record (R417, R483). -/
def dbRail (s : State) (code pos value : Nat) : State :=
  dbAppend s 6 0x40 (leBytes 2 code ++ leBytes 2 pos ++ leBytes 4 value)

/-- Change every powered stall. -/
def eachPowered (s : State) (f : Stall → Stall) : State :=
  (positionsIn s .enabled ++ positionsIn s .spare).foldl (fun s p => modStall s p f) s

/-- DROOP_EPISODE_START: below 1.55 V the stalls stretch their cycles, RAIL_DROOP is recorded, and the first RAIL record is
written. -/
def execDroopEpisodeStart (mv : Reading) (s : State) : Host.Outcome State Fault Refusal :=
  .next (
    let s1 := sampleRail s mv
    if 1550 ≤ mv || csrBit s railStatus 31 || !booted s then s1 else
    let s2 := eachPowered (csrSetField s1 railStatus 31 31 1) fun x => { x with droop := true }
    let s3 := reportFault s2 1025 0x0A02 0x3FF 0xFF 0x3FF 0 0xFFF
    { dbRail s3 0x0A02 0x3FF mv with supply := { s3.supply with low := mv } })

/-- Stretched cycles are counted: how many there have been is not stated, and STRETCH_CY goes up by a free value to 0xFFF at most (R97;
DESIGN CHOICE, log 2). -/
def countStretch (s : State) (p : Nat) : State :=
  let (v, s1) := draw s
  csrSetField s1 (stallCsr p 0x300) 31 20 (min 0xFFF (csrField s (stallCsr p 0x300) 31 20 + v))

/-- The energy that a stall has consumed since its meter last counted is not stated: STALL_ENERGY goes up by a free value, and a wrap
sets ENERGY_WRAP (R97, R99; DESIGN CHOICE, log 2). -/
def countEnergy (s : State) (p : Nat) : State :=
  let (v, s1) := draw s
  bumpBy s1 (stallCsr p 0x308) (stallCsr p 8) 3 (v % 2 ^ 64)

/-- DROOP_EPISODE_END: the rail has been at 1.60 V or above for 100 us; `low` is the lowest sample of the episode. -/
def execDroopEpisodeEnd (low : Reading) (s : State) : Host.Outcome State Fault Refusal :=
  .next (
    if !csrBit s railStatus 31 then s else
    let v := min low s.supply.low
    let s1 := pwrCount (csrSetField (readRail (sampleRail s v) 0 1600) railStatus 31 31 0) 0
    let s2 := dbRail (eachPowered s1 fun x => { x with droop := false }) 0x0A02 0x3FF v
    (positionsIn s2 .enabled ++ positionsIn s2 .spare).foldl countStretch s2)

/-- A rail that has stayed at or below mv for ns browns out. -/
def brownsOut (rail : Fin 7) (mv ns : Nat) : Bool :=
  (decide (mv < railLimit rail) && decide (50000 < ns)) || (rail = 0 && decide (mv < 1250) && decide (2000 < ns))

/-- BROWNOUT: a rail monitor reads a rail; below its limit for its time it causes a system reset without a flush; PWR_CNT[2] outlives
it. -/
def execBrownout (rail : Fin 7) (mv : Reading) (ns : Nat) (s : State) : Host.Outcome State Fault Refusal :=
  .next (
    let s0 := if rail = 0 then sampleRail s mv else readRail s rail mv
    if !brownsOut rail mv ns then s0 else
    let s1 := pwrCount s0 2
    let s2 := if booted s1 then dbRail (reportFault s1 1025 0x0A04 0x3FF 0xFF 0x3FF 0 0xFFF) 0x0A04 0x3FF mv else s1
    requestReset s2 2 7)

/-! ### Temperature (R464) -/

/-- THERMAL_LIMIT: above 105 C a stall stretches its cycles; one RAIL record per episode. Readings are in 0.01 C. -/
def execThermalLimit (p : Position) (temp : Reading) (s : State) : Host.Outcome State Fault Refusal :=
  .next (
    if temp ≤ 10500 || s.supply.hot.contains p || !powered s p then s else
    let s1 := modStall (csrSetField s railStatus 30 30 1) p fun x => { x with thermal := true }
    dbRail { s1 with supply := { s1.supply with hot := s1.supply.hot ++ [p] } } 0x0A80 p temp)

/-- THERMAL_EPISODE_END: the stall has read 100 C or below for 1 ms. -/
def execThermalEpisodeEnd (p : Position) (temp : Reading) (s : State) : Host.Outcome State Fault Refusal :=
  .next (
    if 10000 < temp || !s.supply.hot.contains p then s else
    let hot := s.supply.hot.filter (· ≠ p)
    let s1 := modStall (pwrCount { s with supply := { s.supply with hot := hot } } 1) p fun x => { x with thermal := false }
    countStretch (csrSetField s1 railStatus 30 30 (if hot = [] then 0 else 1)) p)

/-- THERMAL_TRIP: above 120 C anywhere THERM_TRIP_N goes low and the device takes a system reset, in which it stays. -/
def execThermalTrip (sensor : Nat) (temp : Reading) (s : State) : Host.Outcome State Fault Refusal :=
  .next (
    if temp ≤ 12000 then s else
    let s1 := if booted s then dbRail s 0x0A81 (if sensor < 832 then sensor else 0x3FF) temp else s
    modRst (requestReset s1 2 6) fun r => { r with tripped := true, tripN := false, dies := false,
                                                   phase := .asserted })

/-- TRIP_RECOVERY: every sensor has read below 95 C for 1 s: THERM_TRIP_N is released, and the device can boot. -/
def execTripRecovery (s : State) : Host.Outcome State Fault Refusal :=
  .next (if s.rst.tripped then modRst s fun r => { r with tripped := false, tripN := true } else s)

end Sys2Proof.Machine
end

