-- ==== Sys2Proof/Machine/Mctp.lean ====
section
/-!
DEFINITION. How the Ostler and the Tack Room are reached, and how they answer (R362, R427, R469 to R471).
-/

namespace Sys2Proof.Machine

/-- The IPv4 address of the management port: the static one, else the leased one; 0 for none (R469). -/
def ipOf (s : State) : BitVec 32 :=
  let st := BitVec.ofNat 32 (csrField s 0x0B00018 63 32)
  if st = 0 then s.ostler.ip else st

/-- A transport carries messages to the device now. -/
def reaches (s : State) (via : Transport) : Bool :=
  match via with
  | .doe => s.gate.bridge && s.gate.linkUp
  | .net _ => s.ostler.up && s.ostler.link && ipOf s ≠ 0
  | .i3c => s.ostler.up
  | .rhoa _ => s.ostler.up

/-- The PCI Express data object that carries a message in the DOE mailbox: vendor ID 0x0001, type 1 SPDM or 2 secured, and its
length in words of 4 bytes (PRESUMED, log 29). -/
def doeObject (type : Nat) (m : List Byte) : List Byte :=
  let n := ceilDiv m.length 4
  leBytes 2 1 ++ leBytes 1 (if type = 6 then 2 else 1) ++ leBytes 1 0 ++ leBytes 4 (n + 2) ++ padTo (4 * n) m

/-- MCTP packets of a message for Rhoa Link: a 4-byte header with null endpoint IDs, then up to 220 bytes (R469, R470; PRESUMED, log 29). -/
def rhoaPackets (m : List Byte) : List (List Byte) :=
  let n := max 1 (ceilDiv m.length 220)
  (List.range n).map fun i =>
    leBytes 1 1 ++ leBytes 2 0 ++ leBytes 1 ((if i = 0 then 128 else 0) + (if i + 1 = n then 64 else 0) + i % 4 * 16) ++
      (m.drop (220 * i)).take 220

/-- A message leaves on a transport: its MCTP type and body. On Rhoa Link it leaves as MGMT flits. -/
def answer (s : State) (via : Transport) (type : Nat) (m : List Byte) : State :=
  match via with
  | .doe => { s with sent := s.sent ++ [(via, doeObject type m)] }
  | .rhoa dev =>
    (rhoaPackets (leBytes 1 type ++ m)).foldl (fun s k =>
      sendFlit s 0 (mkFlit s 0xA 2 dev.toNat 0 0 (leBytes 2 k.length ++ leBytes 6 0 ++ k)))
      { s with sent := s.sent ++ [(via, leBytes 1 type ++ m)] }
  | _ => { s with sent := s.sent ++ [(via, leBytes 1 type ++ m)] }

/-- What is left of the packets in the inbox after a whole message of a device: its first packets, up to the one that ends the
message (EOM, bit 6 of byte 3; PRESUMED, log 29). -/
def afterMessage (d : Nat) : List (Nat × List Byte) → List (Nat × List Byte)
  | [] => []
  | e :: r =>
    if e.1 ≠ d then e :: afterMessage d r
    else if fieldAt e.2 3 1 / 64 % 2 = 1 then r
    else afterMessage d r

/-- The Ostler has acted on a message that came by a transport: its packets leave the inbox (R344, R469). -/
def tookMessage (s : State) (via : Transport) : State :=
  match via with
  | .rhoa dev => { s with ostler := { s.ostler with inbox := afterMessage dev.toNat s.ostler.inbox } }
  | _ => s

end Sys2Proof.Machine
end

