-- ==== Sys2Proof/Machine/ImageParse.lean ====
section
/-!
DEFINITION. The image (04, 07, 08, 09, 13): header, section table and records, read from the staged bytes (R133 to R136, R213,
R214, R235, R241, R279, R378).
-/

namespace Sys2Proof.Machine

/-- A section-table entry with its index. -/
structure Sect where
  ix    : Nat := 0
  typ   : Nat := 0
  flags : Nat := 0
  off   : Nat := 0
  size  : Nat := 0
  count : Nat := 0
  rsvd  : Nat := 0
  deriving DecidableEq, Repr

/-- A record: index of its section, its index within the section, its bytes. -/
structure Rcd where
  sec   : Nat
  ix    : Nat
  bytes : List Byte
  deriving DecidableEq, Repr

/-- The section table (R133). -/
def sectionsOf (b : List Byte) : List Sect :=
  (List.range (min (fieldAt b 6 2) 1024)).map fun i =>
    let e := (b.drop (0x40 + 32 * i)).take 32
    ⟨i, fieldAt e 0 4, fieldAt e 4 4, fieldAt e 8 8, fieldAt e 16 8, fieldAt e 24 4, fieldAt e 28 4⟩

/-- The bytes of a section. -/
def sectBytes (b : List Byte) (s : Sect) : List Byte := (b.drop s.off).take s.size

/-- Split bytes into a number of records whose lengths a function gives from their first bytes. -/
def splitRecs (len : List Byte → Nat) : Nat → List Byte → List (List Byte)
  | 0, _ => []
  | n + 1, b => b.take (len b) :: splitRecs len n (b.drop (len b))

/-- The length of a record of a section type (R135, R136, R213, R235, R241, R279, R378). -/
def rcdLen (typ : Nat) (b : List Byte) : Nat :=
  match typ with
  | 1 => 16
  | 2 => 4
  | 3 => 20
  | 4 => 8
  | 5 => 16 + 8 * (fieldAt b 3 1 + fieldAt b 4 1)
  | 6 => 0x48 + 8 * ceilDiv (fieldAt b 0x0E 2) 8 + 8 * fieldAt b 0x40 2
  | 7 => 32
  | 8 => 32
  | 9 => 136
  | _ => 16 + 8 * fieldAt b 8 4

/-- The records of a section. -/
def sectRcds (b : List Byte) (s : Sect) : List Rcd :=
  ((splitRecs (rcdLen s.typ) s.count (sectBytes b s)).zipIdx).map fun (r, i) => ⟨s.ix, i, r⟩

/-- The records of all sections of a type, in section-table order (R135). -/
def rcdsOf (b : List Byte) (typ : Nat) : List Rcd := ((sectionsOf b).filter fun s => s.typ = typ).flatMap (sectRcds b)

/-- The role-code sections: role, section, instructions (R135). -/
def codeSects (b : List Byte) : List (Nat × Nat × List W128) :=
  ((sectionsOf b).filter fun s => s.typ = 1).map fun s =>
    (s.flags % 2 ^ 16, s.ix, (sectRcds b s).map fun r => BitVec.ofNat 128 (leNat r.bytes))

/-! ### Chains (R41, R44, R136) -/

/-- The smallest root from a candidate on, within a number of candidates (R44). -/
def rootFrom (n q : Nat) : Nat → Nat → Nat
  | 0, _ => 0
  | k + 1, x => if powMod x n q = q - 1 then x else rootFrom n q k (x + 1)

/-- The root of a prime (R44). -/
def rootOf (n q : Nat) : Nat := rootFrom n q q 2

/-- A CHAINS record. -/
def chainOfRcd (b : List Byte) : Chain :=
  let q := fieldAt b 3 1
  let p := fieldAt b 4 1
  let ps := (List.range (q + p)).map fun i => fieldAt b (16 + 8 * i) 8
  { id := fieldAt b 0 1, bgv := fieldAt b 1 1 = 1, logN := fieldAt b 2 1, qcount := q, pcount := p, dnum := fieldAt b 5 1,
    headroom := fieldAt b 6 1, plainMod := fieldAt b 8 8, primes := ps, roots := ps.map (rootOf (2 ^ fieldAt b 2 1)) }

/-! ### Handles (R213, R214) -/

/-- An owner entry. -/
def ownerOfWord (x : Nat) : Owner :=
  { device := bitsOf x 63 49, stall := bitsOf x 48 39, lineBase := bitsOf x 38 25, log2Parts := bitsOf x 24 22,
    part := bitsOf x 21 16, slotCount := bitsOf x 15 8, slotFirst := bitsOf x 7 0 }

/-- A HANDLES record. -/
def handleOfRcd (b : List Byte) : HDecl :=
  let slots := fieldAt b 0x0E 2
  { handle := fieldAt b 0 2, kind := fieldAt b 2 1, layout := fieldAt b 3 1, etype := fieldAt b 4 1, place := fieldAt b 5 1,
    chain := fieldAt b 6 1, capacity := fieldAt b 7 1, polys := fieldAt b 8 1, ilDim := fieldAt b 9 1, flags := fieldAt b 0xA 2,
    role := fieldAt b 0xC 2, slots := slots, pitch := fieldAt b 0x10 4, lines := fieldAt b 0x14 4, base := fieldAt b 0x18 8,
    fill := BitVec.ofNat 36 (fieldAt b 0x20 8), rows := fieldAt b 0x28 4, cols := fieldAt b 0x2C 4,
    record := BitVec.ofNat 128 (fieldAt b 0x30 16),
    owners := (List.range (fieldAt b 0x40 2)).map fun i => ownerOfWord (fieldAt b (0x48 + 8 * ceilDiv slots 8 + 8 * i) 8),
    slotMap := (List.range slots).map fun i => fieldAt b (0x48 + i) 1 }

/-! ### Claims (R378) -/

/-- GENERAL. -/
def claimsOfRcd (b : List Byte) : Claims :=
  { near := fieldAt b 1 1 = 1, flags := fieldAt b 2 2, counters := fieldAt b 4 1, cmps := fieldAt b 5 1, devbar := fieldAt b 6 1,
    epochUs := fieldAt b 8 4, sysbar := fieldAt b 0xC 2, persistBase := fieldAt b 0x10 2, persistLen := fieldAt b 0x12 2,
    sharedBase := fieldAt b 0x14 2, sharedLen := fieldAt b 0x16 2 }

/-- WINDOW. -/
def windowOfRcd (b : List Byte) : Window :=
  let k := fieldAt b 1 1
  { kind := k, offset := fieldAt b 4 4, size := fieldAt b 8 4, backing := if k = 2 then 0 else fieldAt b 0x10 8,
    senders := fieldAt b 0xC 2, ntfStall := fieldAt b 0xE 2, ntfCtr := fieldAt b 2 1,
    peer := if k = 2 then fieldAt b 0x10 2 else 0, job := if k = 2 then fieldAt b 0x14 4 else 0,
    peerSlot0 := if k = 2 then fieldAt b 0x18 4 else 0 }

/-- Records of CLAIMS of a TYPE. -/
def claimRcds (b : List Byte) (t : Nat) : List Rcd := (rcdsOf b 8).filter fun r => fieldAt r.bytes 0 1 = t

/-- Records of KEYSETS of a TYPE. -/
def keyRcds (b : List Byte) (t : Nat) : List Rcd := (rcdsOf b 7).filter fun r => fieldAt r.bytes 0 1 = t

/-- The members of a MCAST record. -/
def mcastMap (b : List Byte) : List Nat := (List.range 1024).filter fun l => bitOf (fieldAt b (8 + l / 8) 1) (l % 8)

/-- A MCAST record. -/
def mcastOfRcd (b : List Byte) : McSet :=
  { index := fieldAt b 0 1, barrier := fieldAt b 1 1 % 2 = 1, sense := fieldAt b 2 1, members := mcastMap b }

/-- A CONST record. -/
def constOfRcd (b : List Byte) : ConstRec :=
  { handle := fieldAt b 0 2, line := fieldAt b 4 4,
    words := (List.range (fieldAt b 8 4)).map fun i => BitVec.ofNat 36 (fieldAt b (16 + 8 * i) 8) }

/-- The roles of an image: code and plan (R135, R378). -/
def rolesOf (b : List Byte) : NMap Role :=
  let m := (codeSects b).foldl (fun m c => ninsert m c.1 ({ code := c.2.2 } : Role)) []
  (claimRcds b 2).foldl (fun m r => nmod {} m (fieldAt r.bytes 2 2) fun x => { x with plan := BitVec.ofNat 64 (fieldAt r.bytes 8 8) }) m

/-- The image that the staged bytes hold. -/
def parseImage (b : List Byte) : Image :=
  { digest := (b.drop 0x20).take 32
    roles := rolesOf b
    roleMap := (rcdsOf b 2).map fun r => fieldAt r.bytes 0 2
    entries := (rcdsOf b 3).map fun r => (fieldAt r.bytes 0 2, fieldAt r.bytes 2 2, (List.range 4).map fun t => fieldAt r.bytes (4 + 4 * t) 4)
    steps := (rcdsOf b 4).map fun r => (fieldAt r.bytes 0 4, fieldAt r.bytes 4 4)
    chains := (rcdsOf b 5).map fun r => chainOfRcd r.bytes
    handles := (rcdsOf b 6).map fun r => handleOfRcd r.bytes
    keysets := (keyRcds b 1).map fun r =>
      { chain := fieldAt r.bytes 1 1, count := fieldAt r.bytes 2 2, tag := BitVec.ofNat 64 (fieldAt r.bytes 8 8) }
    keys := (keyRcds b 2).map fun r =>
      { digit := fieldAt r.bytes 1 1, handle := fieldAt r.bytes 2 2, gal := fieldAt r.bytes 4 4, base1 := fieldAt r.bytes 8 8,
        tag := BitVec.ofNat 64 (fieldAt r.bytes 16 8) }
    mirrors := (keyRcds b 3).map fun r => (fieldAt r.bytes 2 2, fieldAt r.bytes 8 8)
    claims := match claimRcds b 1 with
      | r :: _ => claimsOfRcd r.bytes
      | [] => {}
    regions := (claimRcds b 3).map fun r =>
      { cls := fieldAt r.bytes 1 1, base := fieldAt r.bytes 8 8, limit := fieldAt r.bytes 16 8 }
    windows := (claimRcds b 4).map fun r => windowOfRcd r.bytes
    sysbars := (claimRcds b 5).map fun r =>
      { id := fieldAt r.bytes 1 1, children := fieldAt r.bytes 2 2, parent := fieldAt r.bytes 4 2 }
    mcast := (rcdsOf b 9).map fun r => mcastOfRcd r.bytes
    consts := (rcdsOf b 10).map fun r => constOfRcd r.bytes }

end Sys2Proof.Machine
end

