-- ==== Sys2Proof/Machine/LoadFlow.lean ====
section
/-!
DEFINITION. Role code as the loader sees it: control paths (R116, R118), the loop values that an instruction can capture (R113,
R152, R246, R501), and the instructions of a step (R94).
-/

namespace Sys2Proof.Machine

/-- What the loader looks at: the staged bytes, the image they hold, the context slot and the device's state. -/
structure Load where
  bytes : List Byte
  img   : Image
  c     : Nat
  s     : State

/-- An instruction with its role, section and index. -/
structure Ins where
  role : Nat
  sec  : Nat
  ix   : Nat
  w    : W128
  deriving DecidableEq, Repr

/-- Every instruction of every role. -/
def insOf (b : List Byte) : List Ins :=
  (codeSects b).flatMap fun (r, sec, ws) => (ws.zipIdx).map fun (w, i) => ⟨r, sec, i, w⟩

/-- The enabled count of the grade (R3, R131). -/
def gradeCount (s : State) : Nat := if s.fuses.grade = 0 then 800 else 640

/-- A logical ID is present (R131). -/
def present (s : State) (l : Nat) : Bool := decide (l < gradeCount s) && (posOfLid s l).isSome

/-- The logical IDs that run a role. -/
def lidsOf (img : Image) (role : Nat) : List Nat := (List.range img.roleMap.length).filter fun l => roleOf img l = role

/-! ### Control flow -/

/-- LOOP.DO bodies of a code: level, first and last instruction (R116). -/
def bodies (ws : List W128) : List (Nat × Nat × Nat) :=
  ((ws.zipIdx).filter fun x => opcodeOf x.1 = 0xF2).map fun x => (wf_ x.1 9 8, x.2 + 1, wf_ x.1 39 16)

/-- TARGET of a branch. -/
def branchGoal (w : W128) : Option Nat :=
  if opcodeOf w = 0xE8 || opcodeOf w = 0xE9 || opcodeOf w = 0xEA then some (wf_ w 39 16) else none

/-- The instructions that can follow instruction i (R116). -/
def succs (ws : List W128) (i : Nat) : List Nat :=
  match ws[i]? with
  | none => []
  | some w =>
    let op := opcodeOf w
    let backs := (bodies ws).filterMap fun b => if b.2.2 = i then some b.2.1 else none
    if op = 0xFE then []
    else if op = 0xE8 then [wf_ w 39 16]
    else if op = 0xE9 || op = 0xEA then [i + 1, wf_ w 39 16]
    else if op = 0xF2 then [i + 1, wf_ w 39 16 + 1]
    else (i + 1) :: backs

/-- Instructions reached from a list; none is passed that `stop` names. -/
def reachFrom (ws : List W128) (stop : Nat → Bool) : Nat → List Nat → List Nat → List Nat
  | 0, seen, _ => seen
  | k + 1, seen, todo =>
    match todo with
    | [] => seen
    | i :: rest =>
      if seen.contains i || ws.length ≤ i then reachFrom ws stop k seen rest
      else reachFrom ws stop k (i :: seen) ((if stop i then [] else succs ws i) ++ rest)

/-- A bound on the work of reachFrom: every instruction is expanded once, with at most its bodies and two more successors. -/
def reachFuel (ws : List W128) (todo : List Nat) : Nat := todo.length + (ws.length + 1) * ((bodies ws).length + 3)

/-- Instructions reached from a list. -/
def reach (ws : List W128) (stop : Nat → Bool) (todo : List Nat) : List Nat := reachFrom ws stop (reachFuel ws todo) [] todo

/-- The start indexes of a Team of a role (R133, R380); all Teams for 4. -/
def startsOf (img : Image) (role t : Nat) : List Nat :=
  (img.entries.filter fun e => e.2.1 = role).flatMap fun e =>
    if t < 4 then [e.2.2.getD t 0xFFFFFFFF].filter (· ≠ 0xFFFFFFFF) else e.2.2.filter (· ≠ 0xFFFFFFFF)

/-- What an instruction writes into field f of a level: f 0 LCOUNT, 1 INC_A, 2 INC_B, 3 INC_D (R111, R116). LOOP.SET leaves
INC_B 0. -/
def loopWrite (w : W128) (lvl f : Nat) : Option Int :=
  if opcodeOf w = 0xF0 && wf_ w 9 8 = lvl then
    some (match f with
      | 0 => (wf_ w 39 16 : Int)
      | 1 => signedOf 32 (wf_ w 71 40)
      | 2 => 0
      | _ => signedOf 32 (wf_ w 103 72))
  else if opcodeOf w = 0xF1 && wf_ w 9 8 = lvl && 0 < f && wf_ w 11 10 + 1 = f then some (signedOf 32 (wf_ w 47 16))
  else none

/-- Every value of a field of a level that instruction i can capture: the initial 0 of a Team that no write precedes, and what
each write leaves on a path without another (R113). -/
def captured (img : Image) (role : Nat) (ws : List W128) (i lvl f : Nat) : List Int :=
  let writes (j : Nat) : Bool := match ws[j]? with
    | some w => (loopWrite w lvl f).isSome
    | none => false
  let start : List Int := if (reach ws writes (startsOf img role 4)).contains i then [0] else []
  start ++ ((ws.zipIdx).filterMap fun x => match loopWrite x.1 lvl f with
    | some v => if (reach ws writes (succs ws x.2)).contains i then some v else none
    | none => none)

/-- Levels whose loop bodies contain an instruction. -/
def inBodies (ws : List W128) (i : Nat) : List Nat := ((bodies ws).filter fun b => b.2.1 ≤ i && i ≤ b.2.2).map (·.1)

/-- The field of an operand slot. -/
def slotField (slot : Nat) : Nat := slot + 1

/-- Every increment that an instruction captures and adds for a slot: of the levels below NEST and of the control levels whose
bodies contain it (R112, R246). -/
def addedIncs (img : Image) (role : Nat) (ws : List W128) (i slot : Nat) (w : W128) : List Int :=
  ((List.range 4).filter fun l => l < nestOf w || (inBodies ws i).contains l).flatMap fun l => captured img role ws i l (slotField slot)

/-- Every combination of one value from each list. -/
def combos : List (List Int) → List (List Int)
  | [] => [[]]
  | xs :: rest => xs.flatMap fun x => (combos rest).map fun r => x :: r

/-- Every combination of counts that an instruction can run with, one for each level below NEST. -/
def countsOf (img : Image) (role : Nat) (ws : List W128) (i : Nat) (w : W128) : List (List Int) :=
  combos ((List.range (nestOf w)).map fun l => captured img role ws i l 0)

end Sys2Proof.Machine
end

