-- ==== Sys2Proof/Machine/LoadTables.lean ====
section
/-!
DEFINITION. The loader's checks of an image's tables: subcodes IMAGE to ABSENT_STALL of R377. A check answers the failures it finds,
each as a section (0 for the header, i + 1 for section-table entry i) and a record or instruction index.
-/

namespace Sys2Proof.Machine

/-- Failures of a subcode. -/
abbrev Fails := List (Nat × Nat)

/-- The sum of a list. -/
def sumOf (l : List Nat) : Nat := l.foldl (· + ·) 0

/-- A failure at a record, when a test fails. -/
def need (r : Rcd) (ok : Bool) : Fails := if ok then [] else [(r.sec + 1, r.ix)]
/-- A failure at an instruction. -/
def needIns (x : Ins) (ok : Bool) : Fails := if ok then [] else [(x.sec + 1, x.ix)]
/-- A failure of the header. -/
def needHdr (ok : Bool) : Fails := if ok then [] else [(0, 0)]

/-- Bytes lo to hi - 1 of a record are 0. -/
def zeroAt (b : List Byte) (lo hi : Nat) : Bool := ((b.take hi).drop lo).all (· = 0)

/-- Two ranges of lengths m and n overlap; an empty one overlaps nothing. -/
def overlaps (a m b n : Nat) : Bool := m ≠ 0 && n ≠ 0 && decide (a < b + n) && decide (b < a + m)

/-- Elements that equal an earlier one, by a key. -/
def repeats {α : Type} (l : List α) (key : α → Nat) : List α :=
  (l.zipIdx).filterMap fun (x, i) => if (l.take i).any fun y => key y = key x then some x else none

/-- The section key of the first section of a type. -/
def keyOf (b : List Byte) (typ : Nat) : Nat := match (sectionsOf b).find? fun s => s.typ = typ with
  | some s => s.ix + 1
  | none => 0

/-! ### IMAGE and GRADE (R134, R135, R500) -/

/-- Header and section table (R134, R135). -/
def checkImage (L : Load) : Fails :=
  let b := L.bytes
  let ss := sectionsOf b
  let n := fieldAt b 8 8
  let one (t : Nat) : Fails := match (ss.filter fun s => s.typ = t) with
    | [_] => []
    | [] => [(0, 0)]
    | _ :: s :: _ => [(s.ix + 1, 0)]
  needHdr (fieldAt b 0 4 = 0x014F5649 && fieldAt b 4 2 = 0 && n = (ctx L.s L.c).imgBytes) ++
  needHdr (decide (1 ≤ fieldAt b 6 2) && decide (fieldAt b 6 2 ≤ 1024) && decide (0x40 + 32 * fieldAt b 6 2 ≤ n)) ++
  needHdr (sha256 (putBytes b 0x20 (List.replicate 32 0)) = (b.drop 0x20).take 32) ++
  ss.flatMap (fun s =>
    let bad := s.off % 16 ≠ 0 || s.rsvd ≠ 0 || decide (n < s.off + s.size) ||
      ((ss.take s.ix).any fun t => overlaps s.off s.size t.off t.size) ||
      ((s.typ = 0 || decide (10 < s.typ)) && !bitOf s.flags 31) || (s.typ = 1 && decide (8192 < s.count)) ||
      (1 ≤ s.typ && s.typ ≤ 10 && decide (s.size < sumOf ((sectRcds b s).map fun r => rcdLen s.typ r.bytes)))
    if bad then [(s.ix + 1, 0)] else []) ++
  [2, 3, 4, 5, 6, 8].flatMap one ++
  (repeats (codeSects b) (·.1)).map (fun c => (c.2.1 + 1, 0)) ++
  (rcdsOf b 2).flatMap (fun r => need r (fieldAt r.bytes 2 2 = 0)) ++
  (rcdsOf b 2).flatMap (fun r => need r (fieldAt r.bytes 0 2 = 0xFFFF || (codeSects b).any fun c => c.1 = fieldAt r.bytes 0 2))

/-- GRADES and MIN_STEPPING (R134). -/
def checkGrade (L : Load) : Fails :=
  needHdr (decide (fieldAt L.bytes 0x10 4 < 4) && bitOf (fieldAt L.bytes 0x10 4) L.s.fuses.grade &&
    decide (fieldAt L.bytes 0x14 4 ≤ L.s.fuses.stepping))

/-! ### CLAIMS (R378, R379) -/

/-- Reserved bytes and ranges of a CLAIMS record. -/
def claimOk (b : List Byte) : Bool :=
  match fieldAt b 0 1 with
  | 1 => decide (fieldAt b 1 1 ≤ 1) && decide (fieldAt b 2 2 ≤ 256) && decide (fieldAt b 4 1 ≤ 16) && decide (fieldAt b 5 1 ≤ 8) &&
      decide (fieldAt b 6 1 < 16) && zeroAt b 7 8 && (fieldAt b 8 4 = 0 || (decide (50 ≤ fieldAt b 8 4) && decide (fieldAt b 8 4 ≤ 10000))) &&
      zeroAt b 0xE 0x10 && zeroAt b 0x18 32
  | 2 => zeroAt b 1 2 && zeroAt b 4 8 && decide (fieldAt b 8 8 < 2 ^ 45) && zeroAt b 16 32
  | 3 => decide (fieldAt b 1 1 ≤ 1) && zeroAt b 2 8 && zeroAt b 0x18 32
  | 4 => decide (fieldAt b 1 1 ≤ 2) && zeroAt b 3 4 &&
      (if fieldAt b 1 1 = 2 then zeroAt b 0x12 0x14 && zeroAt b 0x1C 32 else zeroAt b 0x18 32)
  | 5 => decide (fieldAt b 1 1 ≤ 15) && zeroAt b 6 32
  | _ => false

/-- The CLAIMS section. -/
def checkClaims (L : Load) : Fails :=
  let b := L.bytes
  let k := keyOf b 8
  let gen := claimRcds b 1
  let plans := claimRcds b 2
  let bars := claimRcds b 5
  (rcdsOf b 8).flatMap (fun r => need r (claimOk r.bytes)) ++
  (if gen = [] then [(k, 0)] else (gen.drop 1).flatMap fun r => need r false) ++
  (repeats plans fun r => fieldAt r.bytes 2 2).flatMap (fun r => need r false) ++
  (if (L.img.roleMap.filter (· ≠ 0xFFFF)).all fun x => plans.any fun r => fieldAt r.bytes 2 2 = x then [] else [(k, 0)]) ++
  bars.flatMap (fun r => need r (bitOf L.img.claims.sysbar (fieldAt r.bytes 1 1))) ++
  (repeats bars fun r => fieldAt r.bytes 1 1).flatMap (fun r => need r false) ++
  (if (List.range 16).all fun i => !bitOf L.img.claims.sysbar i || bars.any fun r => fieldAt r.bytes 1 1 = i then [] else [(k, 0)]) ++
  (claimRcds b 4).flatMap fun r =>
    let w := windowOfRcd r.bytes
    need r (if w.kind = 1 then
        decide (w.ntfStall < L.img.roleMap.length) && decide (w.ntfCtr < L.img.claims.counters) &&
        decide (1 ≤ w.senders) && decide (w.senders ≤ 4096)
      else w.senders = 0 && w.ntfStall = 0 && w.ntfCtr = 0)

/-! ### LOFT_RANGE, SLOT_PLAN, REGION, WINDOW -/

/-- The other contexts that hold an image. -/
def residents (L : Load) : List Nat := (L.s.ctxs.filter fun e => e.1 ≠ L.c && e.2.image.isSome).map (·.1)

/-- Loft ranges (R208). -/
def checkLoft (L : Load) : Fails :=
  let q := L.img.claims
  (claimRcds L.bytes 1).flatMap fun r => need r (
    decide (q.persistBase + q.persistLen ≤ 10912) && decide (q.sharedBase + q.sharedLen ≤ 10912) &&
    (residents L).all fun d =>
      let o := (imageOf L.s d).claims
      !overlaps q.persistBase q.persistLen o.persistBase o.persistLen && !overlaps q.persistBase q.persistLen o.sharedBase o.sharedLen &&
      !overlaps q.sharedBase q.sharedLen o.persistBase o.persistLen)

/-- Positions that a plan assigns to an owner code (R202). -/
def planCount (plan code : Nat) : Nat := ((List.range 15).filter fun p => bitsOf plan (3 * p + 2) (3 * p) = code).length

/-- Slot plans (R170, R203). -/
def checkPlans (L : Load) : Fails :=
  (claimRcds L.bytes 2).flatMap fun r =>
    let p := fieldAt r.bytes 8 8
    let ws := (nget {} L.img.roles (fieldAt r.bytes 2 2)).code
    let ops := ws.map opcodeOf
    let forms := ((ws.filter fun w => opcodeOf w = 0x10).map fun w => bitsOf (modE2 w) 1 0)
    let need1 (f : Nat) : Nat := if f = 0 then 5 else if f = 1 then 4 else 7
    need r ((List.range 15).all (fun i => decide (bitsOf p (3 * i + 2) (3 * i) < 6)) &&
      decide (1 ≤ planCount p 4) && decide (1 ≤ planCount p 5) &&
      (!(ops.any fun o => 0x30 ≤ o && o ≤ 0x34) || decide (1 ≤ planCount p 2)) &&
      (!(ops.any fun o => 0x40 ≤ o && o ≤ 0x59) || decide (1 ≤ planCount p 3)) &&
      (!(ops.any fun o => 0x10 ≤ o && o ≤ 0x13) ||
        (if forms = [] then [0] else forms).all fun f => decide (need1 f ≤ planCount p 1)))

/-- A byte range lies in the software part of one stack (R300, R306). -/
def inSoftware (base limit : Nat) : Bool :=
  decide (base ≤ limit) && stackOf base = stackOf limit && decide (stackOf base < 8) && decide (limit % 2 ^ 36 < 0x870000000)

/-- The claimed region whose data part holds a range, if any. -/
def claimOf (img : Image) (base len : Nat) : Option RegClaim :=
  img.regions.find? fun r => decide (r.base ≤ base) && decide (base + len ≤ r.base + dataBytes { cls := r.cls, base := r.base, limit := r.limit })

/-- Bytes of one place of an HBM piece (R303). -/
def pieceBytes (d : HDecl) : Nat := if d.layout = 4 then planeOff d + 8 * d.lines else 72 * d.lines

/-- Bytes that the storage of an HBM piece takes: two places and a map for a durable handle (R404). -/
def storageBytes (d : HDecl) : Nat :=
  if isDurable d then 2 * placeBytes d + ceilDiv (ceilDiv d.lines 64) 8 else pieceBytes d

/-- The weight handles that DRV.WT names. -/
def weights (L : Load) : List Nat := ((insOf L.bytes).filter fun x => opcodeOf x.w = 0xA1).map fun x => hA x.w

/-- BASE1 of a handle, from its KEY or MIRROR record (R240, R241). -/
def base1Of (img : Image) (h : Nat) : Option Nat :=
  match img.keys.find? fun k => k.handle = h with
  | some k => some k.base1
  | none => (img.mirrors.find? fun m => m.1 = h).map (·.2)

/-- Regions and the HBM pieces in them (R307, R309). -/
def checkRegions (L : Load) : Fails :=
  let rs := claimRcds L.bytes 3
  let rng (r : Rcd) : Nat × Nat := (fieldAt r.bytes 8 8, fieldAt r.bytes 16 8 + 1 - fieldAt r.bytes 8 8)
  let free := 64 - (L.s.hbm.regions.filter fun e => e.2.st ≠ .free).length
  rs.flatMap (fun r =>
    let lim := fieldAt r.bytes 16 8
    let x := rng r
    need r (x.1 % 4096 = 0 && (lim + 1) % 4096 = 0 && inSoftware x.1 lim && (fieldAt r.bytes 1 1 ≠ 1 || x.2 % 36864 = 0) &&
      !(L.s.hbm.regions.any fun e => e.2.st ≠ .free && overlaps x.1 x.2 e.2.base (e.2.limit + 1 - e.2.base)) &&
      !(rs.any fun q => decide (q.sec * 65536 + q.ix < r.sec * 65536 + r.ix) && overlaps x.1 x.2 (rng q).1 (rng q).2))) ++
  (rs.drop free).flatMap (fun r => need r false) ++
  (rcdsOf L.bytes 6).flatMap fun r =>
    let d := handleOfRcd r.bytes
    if d.place ≠ 2 then [] else
    let copies := d.base :: (base1Of L.img d.handle).toList
    let corrected := d.kind = 2 || (weights L).contains d.handle || L.img.mirrors.any fun m => m.1 = d.handle
    need r (copies.all fun a => a % 4096 = 0 && (match claimOf L.img a (storageBytes d) with
        | some q => !corrected || q.cls = 1
        | none => false) &&
      !(L.img.windows.any fun w => w.kind ≠ 2 && overlaps a (storageBytes d) w.backing (9 * w.size / 16)))

/-- Windows (R321, R346). -/
def checkWindows (L : Load) : Fails :=
  let rs := claimRcds L.bytes 4
  let total := ((residents L).map fun d => sumOf ((imageOf L.s d).windows.map (·.senders))).foldl (· + ·)
    (sumOf (L.img.windows.map (·.senders)))
  rs.flatMap (fun r =>
    let w := windowOfRcd r.bytes
    let before := (rs.filter fun q => decide (q.sec * 65536 + q.ix < r.sec * 65536 + r.ix)).map fun q => windowOfRcd q.bytes
    need r (w.offset % 4096 = 0 && w.size % 4096 = 0 && decide (w.offset + w.size ≤ 2 ^ 28) &&
      !(before.any fun v => overlaps w.offset w.size v.offset v.size) &&
      (if w.kind = 2 then decide (w.peer ≠ deviceId L.s)
       else w.backing % 4096 = 0 && (claimOf L.img w.backing (9 * w.size / 16)).isSome &&
        !(before.any fun v => v.kind ≠ 2 && overlaps w.backing (9 * w.size / 16) v.backing (9 * v.size / 16))))) ++
  (rs.drop 16).flatMap (fun r => need r false) ++
  (if total ≤ 8192 then [] else (rs.filter fun r => fieldAt r.bytes 1 1 = 1).take 1 |>.flatMap fun r => need r false)

/-! ### CHAIN (R41, R42, R136, R168) -/

/-- The odd part of a number and how often 2 divides it; the first argument bounds the halvings. -/
def oddPart : Nat → Nat → Nat × Nat
  | 0, x => (x, 0)
  | k + 1, x => if x % 2 = 0 then let (d, r) := oddPart k (x / 2); (d, r + 1) else (x, 0)

/-- The squarings of a Miller-Rabin round. -/
def mrGo (q : Nat) : Nat → Nat → Bool
  | 0, _ => false
  | k + 1, x => x = q - 1 || mrGo q k (x * x % q)

/-- A Miller-Rabin round to a base. -/
def mrRound (q a : Nat) : Bool :=
  let (d, r) := oddPart 40 (q - 1)
  let x := powMod (a % q) d q
  x = 1 || mrGo q r x

/-- The primality test of R42. -/
def passesPrime (q : Nat) : Bool := decide (2 < q) && [2, 3, 5, 7, 11, 13, 17].all (mrRound q)

/-- A chain (R41, R42). -/
def chainOk (b : List Byte) : Bool :=
  let ch := chainOfRcd b
  let a := ceilDiv ch.qcount ch.dnum
  let digit (j : Nat) : Nat := (((ch.primes.take ch.qcount).drop (j * a)).take a).foldl (· * ·) 1
  let special := (ch.primes.drop ch.qcount).foldl (· * ·) 1
  decide (ch.id < 16) && decide (fieldAt b 1 1 < 2) && decide (12 ≤ ch.logN) && decide (ch.logN ≤ 17) && decide (1 ≤ ch.qcount) &&
  decide (1 ≤ ch.pcount) && decide (ch.pcount ≤ 12) && decide (ch.qcount + ch.pcount ≤ 64) && decide (1 ≤ ch.dnum) &&
  decide (ch.dnum ≤ 8) && decide (ch.dnum ≤ ch.qcount) && (ch.bgv || (decide (1 ≤ ch.headroom) && decide (ch.headroom ≤ 63))) &&
  fieldAt b 7 1 = 0 && ch.primes.all (fun q => decide (2 ^ 24 < q) && decide (q < 2 ^ 36) && q % (2 * 2 ^ ch.logN) = 1 && passesPrime q) &&
  (repeats ch.primes id) = [] && (List.range ch.dnum).all (fun j => decide (digit j ≤ special)) &&
  (if ch.bgv then decide (2 ≤ ch.plainMod) && decide (ch.plainMod < 2 ^ 36) && ch.primes.all (fun q => Nat.gcd ch.plainMod q = 1)
   else ch.plainMod = 0)

/-- Words of a chain in the prime table (R168). -/
def chainWords (ch : Chain) : Nat := 10 * (ch.qcount + ch.pcount) + ch.qcount + ch.qcount * (ch.qcount - 1) / 2

/-- The CHAINS section. -/
def checkChains (L : Load) : Fails :=
  let rs := rcdsOf L.bytes 5
  rs.flatMap (fun r => need r (chainOk r.bytes)) ++ (repeats rs fun r => fieldAt r.bytes 0 1).flatMap (fun r => need r false) ++
  (rs.drop 16).flatMap (fun r => need r false) ++
  (if rs = [] then [(keyOf L.bytes 5, 0)] else []) ++
  (rs.flatMap fun r => need r (decide (sumOf ((rs.take (r.ix + 1)).map fun q => chainWords (chainOfRcd q.bytes)) ≤ 14336)))

/-! ### HANDLE (R217, R223, R224, R235, R236, R404, R405) -/

/-- Slots of a handle; none where it has no slot count. -/
def slotCountOf (img : Image) (d : HDecl) : Option Nat :=
  match d.kind with
  | 0 => some (d.polys * (d.capacity + 1))
  | 1 => some (d.capacity + 1)
  | 2 => (chainOf img d.chain).map fun ch => ch.qcount + ch.pcount
  | 4 => if d.chain = 0xFF || isConv d then none else some d.slots
  | _ => none

/-- KIND, ETYPE, PLACE and LAYOUT form a combination of R211. -/
def comboOk (d : HDecl) : Bool :=
  let limb := d.layout ≤ 1 || (d.layout = 4 && d.place = 2)
  let il := d.layout = 2 || d.layout = 3
  match d.kind with
  | 0 => d.etype = 0 && decide (d.place ≤ 3) && limb
  | 1 => d.etype = 0 && decide (d.place ≤ 2) && (limb || il)
  | 2 => d.etype = 0 && d.place = 2 && limb
  | 3 => decide (3 ≤ d.etype) && decide (d.etype ≤ 6) && decide (d.place ≤ 2) && (d.layout = d.etype + 5 || (il && d.etype ≠ 6))
  | 4 => decide (d.etype ≤ 2) && decide (d.place ≤ 3) && (limb || il)
  | _ => false

/-- Matrix dimensions (R223, R224). -/
def matrixOk (d : HDecl) : Bool :=
  let e := if d.etype = 5 then 32 else 64
  (if d.layout = 2 then [4, 16, 32].contains d.ilDim else if d.layout = 3 then [8, 16, 64].contains d.ilDim else d.ilDim = 0) &&
  (if d.layout = 2 || d.layout = 3 then decide (1 ≤ d.rows) && decide (1 ≤ d.cols)
   else if 8 ≤ d.layout then decide (1 ≤ d.rows) && decide (1 ≤ d.cols) &&
      decide ((if d.layout = 0xB then 4 * ceilDiv d.cols 512 else ceilDiv d.cols e) ≤ d.pitch)
   else if d.kind = 4 && d.layout = 0 && d.rows ≠ 0 then decide (1 ≤ d.cols) && decide (ceilDiv d.cols 16 ≤ d.pitch)
   else d.rows = 0 && d.cols = 0) && decide (1 ≤ d.pitch)

/-- Owner entries (R215, R217). -/
def ownersOk (L : Load) (d : HDecl) : Bool :=
  let dev := deviceId L.s
  let here (o : Owner) : Bool := o.device = 0x7FFF || o.device = dev
  d.owners.all (fun o =>
    decide (o.log2Parts ≤ 6) && decide (o.part < 2 ^ o.log2Parts) && decide (1 ≤ o.slotCount) && decide (o.slotCount ≤ 192) &&
    (match slotCountOf L.img d with
      | some n => decide (o.slotFirst + o.slotCount ≤ n)
      | none => true) &&
    (if here o then present L.s o.stall else isGlobal d)) &&
  ((d.owners.map (·.stall)).dedup.all fun l =>
    let es := ownersOf dev d l
    match es with
    | [] => true
    | e :: _ => es.all (fun o => o.log2Parts = e.log2Parts && o.part = e.part) &&
      (es.zip (es.drop 1)).all fun (x, y) => y.lineBase = x.lineBase + x.slotCount * d.pitch) &&
  ((d.owners.filter here).zipIdx).all fun (o, i) => !(((d.owners.filter here).take i).any fun p =>
    p.part = o.part && overlaps p.slotFirst p.slotCount o.slotFirst o.slotCount)

/-- A line range lies in one of the context's Loft ranges (R208, R217). -/
def inRanges (img : Image) (base len : Nat) : Bool :=
  let q := img.claims
  decide (base + len ≤ 10912) &&
  ((decide (q.persistBase ≤ base) && decide (base + len ≤ q.persistBase + q.persistLen)) ||
   (decide (q.sharedBase ≤ base) && decide (base + len ≤ q.sharedBase + q.sharedLen)) || len = 0)

/-- A line range lies in the persistent range (R235, R236, R247). -/
def inPersist (img : Image) (base len : Nat) : Bool :=
  decide (img.claims.persistBase ≤ base) && decide (base + len ≤ img.claims.persistBase + img.claims.persistLen)

/-- The local pieces of a handle on this device: first Loft line and lines. -/
def loftPieces (L : Load) (d : HDecl) : List (Nat × Nat) :=
  if d.place = 0 then [(d.base, d.lines)]
  else if d.place = 1 then
    ((d.owners.filter fun o => o.device = 0x7FFF || o.device = deviceId L.s).map (·.stall)).dedup.map fun l => let p := pieceOf L.img (deviceId L.s) d l; (p.base, p.lines)
  else []

/-- The record of a declaration (R39, R47, R49). -/
def recordOk (img : Image) (d : HDecl) : Bool :=
  if 3 ≤ d.kind then d.record = 0 && d.capacity = 0 && d.polys = 1
  else match chainOf img d.chain with
    | none => false
    | some ch =>
      (if d.kind = 0 then d.polys = 2 || d.polys = 3 else d.polys = 1) && decide (d.capacity < ch.qcount) &&
      recChain d.record = d.chain && decide (recLevel d.record ≤ d.capacity) && bitsOf d.record.toNat 106 106 = 0 &&
      (d.kind ≠ 1 || recTag d.record = 0) && ((d.kind ≠ 2 && !ch.bgv) || recScale d.record = 0)

/-- Every slot of a limb in halves is listed under two stalls, one for each half (R40). -/
def halvesListed (d : HDecl) : Bool :=
  d.owners.all fun o => (List.range o.slotCount).all fun k => d.owners.any fun p =>
    p.part = 1 - o.part && p.stall ≠ o.stall && decide (p.slotFirst ≤ o.slotFirst + k) && decide (o.slotFirst + k < p.slotFirst + p.slotCount)

/-- Limb geometry and piece sizes of chained handles (R38, R40, R217, R238). At N = 2^17 a limb in the Loft lies in two halves, and no
slot of a chained raw handle holds a whole one. -/
def limbOk (img : Image) (d : HDecl) : Bool :=
  match chainOf img d.chain with
  | none => d.chain = 0xFF
  | some ch =>
    let parts := (d.owners.headD {}).log2Parts
    let limb := d.layout ≤ 1 || d.layout = 4
    (decide (3 ≤ d.kind) || !limb || (d.pitch * 16 * 2 ^ parts = 2 ^ ch.logN && d.owners.all (fun o => o.log2Parts = parts) &&
      (ch.logN ≠ 17 || decide (1 < d.place) || (parts = 1 && halvesListed d)))) &&
    (d.kind ≠ 4 || isConv d || !limb || ch.logN ≠ 17 || decide (1 < d.place) || decide (d.pitch * 16 < 2 ^ 17)) &&
    (d.place = 1 || match slotCountOf img d with
      | some n => decide (n * d.pitch ≤ d.lines)
      | none => true)

/-- One HANDLES record. -/
def handleOk (L : Load) (b : List Byte) : Bool :=
  let d := handleOfRcd b
  let raw := d.kind = 4 && d.chain ≠ 0xFF && !isConv d
  decide (d.handle ≤ 0xFFD) && comboOk d && matrixOk d && recordOk L.img d && limbOk L.img d && ownersOk L d &&
  decide (d.flags < 16) && (d.place = 0 || d.role = 0) && (raw || d.slots = 0) &&
  (d.slotMap.all fun i => match chainOf L.img d.chain with
    | some ch => decide (i < ch.qcount + ch.pcount)
    | none => false) &&
  (d.place = 1 || d.owners = []) && (d.place ≠ 1 || (d.lines = 0 && d.base = 0)) &&
  (d.layout ≠ 1 || 2 ^ Nat.log2 (16 * d.pitch) = 16 * d.pitch) && fieldAt b 0x20 8 < 2 ^ 36 && zeroAt b 0x42 0x48 &&
  zeroAt b (0x48 + d.slots) (0x48 + 8 * ceilDiv d.slots 8) &&
  ((loftPieces L d).all fun p => inRanges L.img p.1 p.2) &&
  (d.place ≠ 2 || (claimOf L.img d.base (storageBytes d)).isSome) &&
  (d.place ≠ 3 || L.img.windows.any fun w => decide (w.offset ≤ d.base) && decide (d.base + 128 * d.lines ≤ w.offset + w.size)) &&
  (!isInput d || d.place = 2) &&
  (!isConv d || (d.kind = 4 && d.etype = 0 && d.place = 0 && inPersist L.img d.base d.lines && (chainOf L.img d.chain).isSome &&
    decide ((convTable ((chainOf L.img d.chain).getD {})).length ≤ d.lines))) &&
  (!isDurable d || (d.place = 2 && (d.kind ≤ 1 || d.kind = 3 || d.kind = 4) && !isInput d))

/-- The handles that an instruction writes (R217, R247): a swap or compare-and-swap returns lines into N as well (R324). -/
def writesHandles (w : W128) : List Nat :=
  let op := opcodeOf w
  let l := if op = 0x70 then [hD w] else if op = 0x77 then (if 4 ≤ bitsOf (modC w) 2 0 then [hA w, hD w] else [hA w]) else [destHandle w]
  l.filter fun h => h ≠ hNone && h ≠ hTileq

/-- The block extents of a CT.STORE to a durable handle for every combination of counts and increments it can capture: first line,
lines, or none where a rule of R405 is broken. -/
def durableExtents (L : Load) (x : Ins) : List (Option (Nat × Nat)) :=
  let ws := (nget {} L.img.roles x.role).code
  let n := nestOf x.w
  let vals := combos ((List.range n).flatMap fun l => [captured L.img x.role ws x.ix l 0, captured L.img x.role ws x.ix l (slotField 0)])
  let ctl := ((inBodies ws x.ix).filter fun l => n ≤ l).flatMap fun l => captured L.img x.role ws x.ix l (slotField 0)
  vals.map fun v =>
    let lv := (List.range n).map fun l => ((v.getD (2 * l) 0).toNat, v.getD (2 * l + 1) 0)
    let go := lv.foldl (fun (acc : Bool × Nat) (k : Nat × Int) =>
      (acc.1 && (if acc.2 = 1 then k.2 = 1 && k.1 % 64 = 0 else k.2.toNat % 64 = 0 && decide ((acc.2 : Int) ≤ k.2)),
       acc.2 + (k.1 - 1) * k.2.toNat)) (true, 1)
    if decide (1 ≤ n) && go.1 && ctl.all (· = 0) && offF x.w % 64 = 0 then some (offF x.w, go.2) else none

/-- The instructions that name durable handles (R405). -/
def checkDurable (L : Load) : Fails :=
  let xs := insOf L.bytes
  let durable (h : Nat) : Bool := match declOf L.img h with
    | some d => isDurable d
    | none => false
  let stores := xs.filter fun x => opcodeOf x.w = 0x71 && durable (hA x.w)
  xs.flatMap (fun x =>
    let op := opcodeOf x.w
    let other := (handlesOf x.w).any fun h => durable h && !((op = 0x70 || op = 0x71) && h = hA x.w)
    needIns x (!other && !(op = 0x70 && durable (hD x.w)))) ++
  stores.flatMap (fun x => needIns x ((durableExtents L x).all (·.isSome))) ++
  stores.flatMap fun x => needIns x (!(stores.any fun y => decide (y.sec * 65536 + y.ix < x.sec * 65536 + x.ix) && hA y.w = hA x.w &&
    (durableExtents L x).any fun a => (durableExtents L y).any fun b => match a, b with
      | some p, some q => overlaps p.1 p.2 q.1 q.2
      | _, _ => false))

/-- The HANDLES and CONST sections, and what code does with them. -/
def checkHandles (L : Load) : Fails :=
  let rs := rcdsOf L.bytes 6
  let conv := L.img.handles.filter isConv
  let blocks (r : Rcd) : Nat := let d := handleOfRcd r.bytes; if isDurable d then ceilDiv d.lines 64 else 0
  rs.flatMap (fun r => need r (handleOk L r.bytes)) ++ (repeats rs fun r => fieldAt r.bytes 0 2).flatMap (fun r => need r false) ++
  (repeats (rs.filter fun r => isConv (handleOfRcd r.bytes)) fun r => fieldAt r.bytes 6 1).flatMap (fun r => need r false) ++
  -- durable storage overlaps no other piece, and durable blocks are few enough (R404)
  rs.flatMap (fun r =>
    let d := handleOfRcd r.bytes
    if !isDurable d then [] else
    need r (!(rs.any fun q => decide (q.ix ≠ r.ix) &&
      let e := handleOfRcd q.bytes
      e.place = 2 && overlaps d.base (storageBytes d) e.base (storageBytes e)) &&
      decide (sumOf ((rs.take (r.ix + 1)).map blocks) ≤ 524288))) ++
  -- no instruction writes an INPUT handle (R217)
  (insOf L.bytes).flatMap (fun x => needIns x ((writesHandles x.w).all fun h => match declOf L.img h with
    | some d => !isInput d
    | none => true)) ++
  -- chains that a modular Matrix Array instruction uses have their conversion tables (R236)
  (insOf L.bytes).flatMap (fun x => needIns x (
    !(opcodeOf x.w = 0x11 || opcodeOf x.w = 0x12) || match declOf L.img (hD x.w) with
      | none => true
      | some d => d.chain = 0xFF || conv.any fun v => v.chain = d.chain)) ++
  (rcdsOf L.bytes 10).flatMap (fun r =>
    let k := constOfRcd r.bytes
    need r (zeroAt r.bytes 2 4 && zeroAt r.bytes 12 16 &&
      ((List.range (fieldAt r.bytes 8 4)).all fun i => decide (fieldAt r.bytes (16 + 8 * i) 8 < 2 ^ 36)) &&
      match declOf L.img k.handle with
      | none => false
      | some d => (d.kind = 1 || d.kind = 4) && (d.place = 2 || (decide (d.place ≤ 1) && (loftPieces L d).all fun p => inPersist L.img p.1 p.2)) &&
          (if d.place = 2 then decide (k.line + ceilDiv k.words.length 16 ≤ d.lines)
           else (loftPieces L d).all fun p => decide (k.line + ceilDiv k.words.length 16 ≤ p.2)))) ++
  checkDurable L

/-! ### KEYSET (R238, R240, R242, R247, R250) -/

/-- A die holds a copy: stacks 0 to 3 for BASE, 4 to 7 for BASE1 (R240). -/
def copyOk (img : Image) (h base1 : Nat) : Bool :=
  match declOf img h with
  | none => false
  | some d => d.place = 2 && decide (stackOf d.base < 4) && decide (4 ≤ stackOf base1) && base1 % 4096 = 0 &&
      (match claimOf img d.base (pieceBytes d), claimOf img base1 (pieceBytes d) with
        | some a, some b => a.cls = 1 && b.cls = 1
        | _, _ => false)

/-- The line of a descriptor piece as the loader writes it on a stall. -/
def descLine (L : Load) (lid : Nat) (line : Nat) : Line :=
  (loaderLines L.img (deviceId L.s) lid).foldl (fun (l : Line) x =>
    if x.1 ≠ line then l else (List.range 16).map fun i => if bitOf x.2.2 i then wordAt x.2.1 i else wordAt l i) zeroLine

/-- Limb-family layouts compare with PLANE_32_4 counted as LIMB_LINEAR (R250). -/
def flatLayout (x : Nat) : Nat := if x = 4 then 0 else x

/-- All bits that an entry's table does not list are 0 (R248). -/
def entryRsvd (key : Bool) (l : Line) : Bool :=
  let lim : List Nat := if key then [2 ^ 14, 2 ^ 29, 1, 1, 0, 2 ^ 12, 2 ^ 24, 2 ^ 24, 2 ^ 24, 2 ^ 15, 2 ^ 25]
    else [2 ^ 8, 1, 2 ^ 32, 2 ^ 24, 0, 2 ^ 12, 2 ^ 24, 1, 1, 2 ^ 15, 2 ^ 25]
  ((List.range 16).all fun i => if i = 4 then bitsOf (wordAt l 4).toNat 34 10 = 0
    else decide ((wordAt l i).toNat < lim.getD i 1))

/-- The target of a descriptor entry lies where R250 wants it on a stall: first line, lines, and the slot's prime index for keys. -/
def targetOk (L : Load) (t : HDecl) (lid first n : Nat) (slot : Option Nat) : Bool :=
  let pc := pieceOf L.img (deviceId L.s) t lid
  decide (first + n ≤ pc.lines) && match slot with
    | none => true
    | some x => slotIndex L.img t (slotOfLine t pc first) = some x && slotOfLine t pc first = slotOfLine t pc (first + n - 1)

/-- One entry that is not NULL, of an instruction that names its handle (R250). -/
def entryOk (L : Load) (w : W128) (l : Line) : Bool :=
  let img := L.img
  let key := opcodeOf w = 0xA0
  let e : DrvEntry := { key := key, a := hA w, words := l }
  let ka := decl img (drvHandle e 0)
  let dests := drvDests img l
  let act := drvField l 9 14 0
  let t := decl img (drvField l 5 11 0)
  let n := (drvRange img e).2
  drvField l 0 7 0 = (if key then 1 else 2) && entryRsvd key l &&
  (if drvField l 4 35 35 = 1 then (img.mcast.any fun m => m.index = drvField l 4 9 0) else present L.s (drvField l 4 9 0)) &&
  bitsOf act 1 0 ≠ 3 && (bitsOf act 1 0 ≠ 0 || bitsOf act 9 2 = 0) && (bitOf act 10 || bitsOf act 14 11 = 0) &&
  decide (drvField l 10 24 16 ≤ 416) && (declOf img (drvField l 5 11 0)).isSome &&
  ((drvKeys e).all fun i => flatLayout t.layout = flatLayout (decl img (drvHandle e i)).layout) &&
  (if key then
    let ch := (chainOf img ka.chain).getD {}
    let recs := (drvKeys e).map fun i => img.keys.find? fun k => k.handle = drvHandle e i
    let halves := drvField l 0 13 12
    let offs := (drvKeys e).flatMap fun i =>
      let o := drvField l 6 23 0 + i * drvField l 8 23 0
      (if bitOf halves 0 then [(i, o)] else []) ++ (if bitOf halves 1 then [(i, o + drvField l 7 23 0)] else [])
    recs.all (fun r => match r, recs.headD none with
      | some a, some b => a.tag = b.tag && a.digit = b.digit
      | _, _ => false) &&
    decide (drvField l 1 19 12 < ch.qcount + ch.pcount) && halves ≠ 0 && decide (drvField l 1 22 20 ≤ 6) &&
    decide (drvField l 1 28 23 < 2 ^ drvField l 1 22 20) && decide (1024 * 2 ^ drvField l 1 22 20 ≤ 2 ^ ch.logN) &&
    t.kind = 4 && t.etype = 0 && t.chain = ka.chain && !isConv t &&
    -- the keys of a group have distinct target lines (R295)
    (offs.all fun x => offs.all fun y => x.1 = y.1 || !overlaps x.2 n y.2 n) &&
    dests.all fun lid => offs.all fun o => targetOk L t lid o.2 n (some (drvField l 1 19 12))
  else
    decide (1 ≤ n) && decide (drvField l 2 31 0 + n ≤ ka.lines) && (img.mirrors.any fun m => m.1 = hA w) &&
    (t.kind = 1 || t.kind = 3 || t.kind = 4) && t.etype = ka.etype &&
    dests.all fun lid => targetOk L t lid (drvField l 6 23 0) n none)

/-- The handles that DRV instructions name as descriptors (R247). -/
def descriptors (L : Load) : List Nat :=
  (((insOf L.bytes).filter fun x => opcodeOf x.w = 0xA0 || opcodeOf x.w = 0xA1).map fun x => hB x.w).dedup

/-- A descriptor handle: its declaration, and every line of every piece of it (R247, R250). -/
def descriptorOk (L : Load) (d : HDecl) : Bool :=
  let users := (insOf L.bytes).filter fun x => (opcodeOf x.w = 0xA0 || opcodeOf x.w = 0xA1) && hB x.w = d.handle
  d.kind = 4 && d.etype = 0 && decide (d.place ≤ 1) && d.fill = 0 && (loftPieces L d).all (fun p => inPersist L.img p.1 p.2) &&
  !((insOf L.bytes).any fun x => (writesHandles x.w).contains d.handle) &&
  users.all fun x => (List.range L.img.roleMap.length).all fun lid =>
    let pc := pieceOf L.img (deviceId L.s) d lid
    (List.range pc.lines).all fun i =>
      let l := descLine L lid (pc.base + i)
      l.all (· = 0) || (entryOk L x.w l && !(descriptors L).contains (drvField l 5 11 0))

/-- Reserved bytes of a KEYSETS record. -/
def keyRsvd (b : List Byte) : Bool :=
  match fieldAt b 0 1 with
  | 1 => zeroAt b 4 8 && zeroAt b 16 32
  | 2 => zeroAt b 24 32
  | 3 => zeroAt b 1 2 && zeroAt b 4 8 && zeroAt b 16 32
  | _ => false

/-- The KEYSETS sections and the descriptors. -/
def checkKeys (L : Load) : Fails :=
  let img := L.img
  let tagOf (r : Rcd) : Nat := if fieldAt r.bytes 0 1 = 1 then fieldAt r.bytes 8 8 else fieldAt r.bytes 16 8
  let sets := keyRcds L.bytes 1
  let keys := keyRcds L.bytes 2
  let mirrors := keyRcds L.bytes 3
  (rcdsOf L.bytes 7).flatMap (fun r => need r (keyRsvd r.bytes)) ++
  sets.flatMap (fun r => need r (tagOf r ≠ 0 && (keys.filter fun k => tagOf k = tagOf r).length = fieldAt r.bytes 2 2)) ++
  (repeats sets tagOf).flatMap (fun r => need r false) ++
  keys.flatMap (fun r =>
    let h := fieldAt r.bytes 2 2
    need r (match sets.find? fun k => tagOf k = tagOf r, declOf img h with
      | some k, some d => d.kind = 2 && isInput d && d.chain = fieldAt k.bytes 1 1 && recTag d.record = tagOf r &&
          decide (fieldAt r.bytes 1 1 < ((chainOf img d.chain).getD {}).dnum) && copyOk img h (fieldAt r.bytes 8 8)
      | _, _ => false)) ++
  keys.flatMap (fun r => need r (!(keys.any fun k => decide (k.sec * 65536 + k.ix < r.sec * 65536 + r.ix) && tagOf k = tagOf r &&
    fieldAt k.bytes 1 1 = fieldAt r.bytes 1 1 && fieldAt k.bytes 4 4 = fieldAt r.bytes 4 4))) ++
  (repeats (keys ++ mirrors) fun r => fieldAt r.bytes 2 2).flatMap (fun r => need r false) ++
  mirrors.flatMap (fun r => need r (match declOf img (fieldAt r.bytes 2 2) with
    | some d => (d.kind = 1 || d.kind = 3 || d.kind = 4) && d.place = 2 && copyOk img d.handle (fieldAt r.bytes 8 8)
    | none => false)) ++
  (rcdsOf L.bytes 6).flatMap fun r =>
    let d := handleOfRcd r.bytes
    let n := (slotCountOf img d).getD 0
    need r (((d.kind ≠ 2 && !(weights L).contains d.handle) || (d.place = 2 && decide (stackOf d.base < 4))) &&
      (d.kind ≠ 2 || (d.lines = n * d.pitch + 1 + ceilDiv n 16 && (d.layout ≤ 1 || d.layout = 4))) &&
      (!(descriptors L).contains d.handle || descriptorOk L d))

/-! ### MCAST (R279, R280) and ABSENT_STALL (R21, R131, R135) -/

/-- The logical IDs that a YD.PUT reaches: with DEST = 0x3FF those that D's owner entries name on this device (R270). -/
def putDests (img : Image) (dev : Nat) (w : W128) : List Nat :=
  if destLid w = 0x3FF then ((decl img (hD w)).owners.filter fun o => o.device = 0x7FFF || o.device = dev).map (·.stall) else [destLid w]

/-- Flags that an instruction can write, with the logical IDs on which it writes them; none stands for the issuing stall. -/
def flagWrites (img : Image) (dev : Nat) (w : W128) : List (Nat × Option (List Nat)) :=
  let op := opcodeOf w
  if op = 0xB0 || op = 0xB1 then [(wf_ w 15 8, none)]
  else if op = 0xB2 || op = 0xB3 then ((List.range 32).filter fun j => bitOf (wf_ w 63 32) j).map fun j => (32 * wf_ w 10 8 + j, none)
  else if op = 0xD4 then [(wf_ w 31 24, none)]
  else (if op = 0x92 || op = 0x94 then [(bitsOf (modE2 w) 17 10, some [destLid w])] else []) ++ match opInfo op with
    | some { fmt := .s, .. } => []
    | none => []
    | _ =>
      if wf_ w 36 35 = 0 then []
      else if op = 0x91 && !clocOf w then [(wf_ w 44 37, some (setMembers img (bitsOf (modE2 w) 7 0)))]
      else if op = 0x90 && !clocOf w then
        [(wf_ w 44 37, some (putDests img dev w))]
      else [(wf_ w 44 37, none)]

/-- The MCAST sections and the instructions that name sets. -/
def checkMcast (L : Load) : Fails :=
  let img := L.img
  let rs := rcdsOf L.bytes 9
  let declared (i : Nat) : Bool := img.mcast.any fun m => m.index = i
  let guards (flag : Nat) (lids : List Nat) : Bool :=
    img.mcast.any fun m => m.barrier && m.sense = flag && lids.any fun l => m.members.contains l
  rs.flatMap (fun r =>
    let m := mcastOfRcd r.bytes
    need r (zeroAt r.bytes 3 4 && zeroAt r.bytes 6 8 && decide (fieldAt r.bytes 1 1 < 2) && (m.barrier || m.sense = 0) &&
      fieldAt r.bytes 4 2 = m.members.length && m.members ≠ [] && m.members.all (fun l => decide (l < gradeCount L.s)) &&
      (!m.barrier || (decide (m.index ≤ 63) && decide (m.members.length ≤ 64) && decide (m.sense < img.claims.flags))))) ++
  (repeats rs fun r => fieldAt r.bytes 0 1).flatMap (fun r => need r false) ++
  (insOf L.bytes).flatMap (fun x =>
    let op := opcodeOf x.w
    needIns x ((op ≠ 0x91 || declared (bitsOf (modE2 x.w) 7 0)) &&
      (!((op = 0xC0 || op = 0xC1) && wf_ x.w 9 8 = 0) ||
        (lidsOf img x.role).all fun l => (setMembers img (wf_ x.w 15 10)).contains l) &&
      !((flagWrites img (deviceId L.s) x.w).any fun f => guards f.1 (f.2.getD (lidsOf img x.role))))) ++
  (rcdsOf L.bytes 6).flatMap fun r =>
    let d := handleOfRcd r.bytes
    if !(descriptors L).contains d.handle then [] else
    need r ((List.range img.roleMap.length).all fun lid =>
      let pc := pieceOf img (deviceId L.s) d lid
      (List.range pc.lines).all fun i =>
        let l := descLine L lid (pc.base + i)
        l.all (· = 0) || bitsOf (drvField l 9 14 0) 1 0 = 0 || !guards (drvField l 9 9 2) (drvDests img l))

/-- Logical IDs that are not present (R21, R131, R135). -/
def checkAbsent (L : Load) : Fails :=
  (rcdsOf L.bytes 2).flatMap (fun r => need r (fieldAt r.bytes 0 2 = 0xFFFF || present L.s r.ix)) ++
  (insOf L.bytes).flatMap fun x =>
    let op := opcodeOf x.w
    needIns x (!(op = 0x72 || op = 0x90 || (0x92 ≤ op && op ≤ 0x95)) || (op = 0x90 && destLid x.w = 0x3FF) || present L.s (destLid x.w))

end Sys2Proof.Machine
end

