-- ==== Sys2Proof/Machine/Smithy.lean ====
section
/-!
DEFINITION. The Smithy (R431 to R434): modular arithmetic, scalar multiplication, curve checks, and the completion of an
operation at its fixed time.
-/

namespace Sys2Proof.Machine

/-! ### Curves -/

/-- A number modulo p (an integer's residue). -/
def subm (a b p : Nat) : Nat := (a + p * b - b) % p

/-- Bits of a number, the highest first; none for 0. -/
def bitsDown (k : Nat) : List Bool := if k = 0 then [] else ((List.range (log2 k + 1)).map (bitOf k)).reverse

/-- The sum of two points of a short Weierstrass curve; none is the point at infinity. -/
def wAdd (c : CurveParams) (u v : Option (Nat × Nat)) : Option (Nat × Nat) :=
  match u, v with
  | none, v => v
  | u, none => u
  | some (x1, y1), some (x2, y2) =>
    if x1 = x2 && (y1 + y2) % c.p = 0 then none else
    let l := if x1 = x2 then (3 * x1 * x1 + c.a) * invMod (2 * y1 % c.p) c.p % c.p
      else subm y2 y1 c.p * invMod (subm x2 x1 c.p) c.p % c.p
    let x3 := subm (subm (l * l % c.p) x1 c.p) x2 c.p
    some (x3, subm (l * subm x1 x3 c.p % c.p) y1 c.p)

/-- k times a point of a short Weierstrass curve. -/
def wMul (c : CurveParams) (k : Nat) (g : Option (Nat × Nat)) : Option (Nat × Nat) :=
  (bitsDown k).foldl (fun r b => let d := wAdd c r r
    if b then wAdd c d g else d) none

/-- A doubling on a Montgomery curve, x-only projective. -/
def mDbl (c : CurveParams) (u : Nat × Nat) : Nat × Nat :=
  let (x, z) := u
  let d := subm (x * x % c.p) (z * z % c.p) c.p
  (d * d % c.p, 4 * x * z * (x * x + c.a * x * z + z * z) % c.p)

/-- A differential addition: the difference has u-coordinate g. -/
def mAdd (c : CurveParams) (g : Nat) (u v : Nat × Nat) : Nat × Nat :=
  let a := subm u.1 u.2 c.p * ((v.1 + v.2) % c.p) % c.p
  let b := (u.1 + u.2) % c.p * subm v.1 v.2 c.p % c.p
  let m := (a + b) % c.p
  let n := subm a b c.p
  (m * m % c.p, g * (n * n % c.p) % c.p)

/-- The x-only ladder: k times the points of u-coordinate g, projective; Z is 0 at the point at infinity. -/
def mLadder (c : CurveParams) (k g : Nat) : Nat × Nat :=
  ((bitsDown k).foldl (fun (r : (Nat × Nat) × (Nat × Nat)) b =>
    if b then (mAdd c g r.1 r.2, mDbl c r.2) else (mDbl c r.1, mAdd c g r.1 r.2)) ((1 % c.p, 0), (g % c.p, 1 % c.p))).1

/-- A square modulo a prime. -/
def isSquare (x p : Nat) : Bool := x % p = 0 || powMod x ((p - 1) / 2) p = 1

/-- The point (x, y) is on a short Weierstrass curve. -/
def onCurveW (c : CurveParams) (x y : Nat) : Bool := y * y % c.p = (x * x * x + c.a * x + c.b) % c.p

/-- The value whose square root an x-only ladder asks for (R431). -/
def montRhs (c : CurveParams) (u : Nat) : Nat := (u * u * u + c.a * u * u + u) % c.p

/-- One Miller-Rabin round of a number of any size. -/
def millerRabin (q a : Nat) : Bool :=
  let (d, r) := oddPart (log2 q + 1) (q - 1)
  let x := powMod (a % q) d q
  a % q = 0 || x = 1 || mrGo q r x

/-- An odd number that passes Miller-Rabin with base 2 and the drawn bases (R433). -/
def probablePrime (bases : List Nat) (q : Nat) : Bool :=
  q % 2 = 1 && decide (2 < q) && (2 :: bases.map fun v => v % q).all (millerRabin q)

/-- The checks of R433. -/
def curveOk (bases : List Nat) (c : CurveParams) : Bool :=
  probablePrime bases c.p && probablePrime bases c.n && decide (c.p < 2 ^ 4096) &&
  decide (c.a < c.p) && decide (c.b < c.p) && decide (c.gx < c.p) &&
  (if c.weierstrass then
    decide (c.gy < c.p) && decide ((4 * c.a * c.a * c.a + 27 * c.b * c.b) % c.p ≠ 0) && onCurveW c c.gx c.gy &&
      wMul c c.n (some (c.gx, c.gy)) = none
  else
    decide (c.b * subm (c.a * c.a % c.p) (4 % c.p) c.p % c.p ≠ 0) && isSquare (c.b * montRhs c c.gx) c.p &&
      decide (c.gx ≠ 0) && (mLadder c c.n c.gx).2 = 0) &&
  decide (1 ≤ c.h) && decide (((c.h * c.n : Nat) - ((c.p + 1 : Nat) : Int)) ^ 2 ≤ (4 * c.p : Nat))

/-- Length class of a curve. -/
def curveClass (c : CurveParams) : Nat := ceilDiv (log2 c.p + 1) 256

/-! ### Operations -/

/-- M(w) of R431, gate-die cycles. -/
def smithyM (w : Nat) : Nat := 4 * w * w + 32

/-- Operand register i as an operand of class w. -/
def smithyX (s : State) (w : Nat) (i : Fin 32) : Nat := nget 0 s.smithy.x i % 2 ^ (256 * w)

/-- Change the Smithy. -/
def modSmithy (s : State) (f : Smithy → Smithy) : State := { s with smithy := f s.smithy }

/-- The Tack Room's firmware or the boot ROM runs, and no operation is in progress. -/
def smithyFree (s : State) : Bool := s.smithy.op.isNone && !(s.rst.phase = .asserted)

/-- An operation starts. -/
def smithyStart (s : State) (rejected : Bool) (outs : List (Nat × Nat)) (cycles : Nat) : State :=
  if smithyFree s then modSmithy s fun x => { x with
    op := some { rejected := rejected, outs := if rejected then outs.map fun o => (o.1, 0) else outs, at_ := s.ledger, cycles := cycles } }
  else s

/-- m is even or at most 1. -/
def badModulus (m : Nat) : Bool := m % 2 = 0 || decide (m ≤ 1)

/-- MODMUL: x y mod m. -/
def execModmul (w : Nat) (x y m d : Fin 32) (s : State) : Host.Outcome State Fault Refusal :=
  .next (
    let a := smithyX s w x
    let b := smithyX s w y
    let n := smithyX s w m
    smithyStart s (badModulus n || a = 0 || b = 0 || decide (n ≤ a) || decide (n ≤ b)) [(d.val, a * b % n)] (smithyM w + 64))

/-- MODEXP: x^e mod m. -/
def execModexp (w : Nat) (x e m d : Fin 32) (s : State) : Host.Outcome State Fault Refusal :=
  .next (
    let a := smithyX s w x
    let k := smithyX s w e
    let n := smithyX s w m
    smithyStart s (badModulus n || a = 0 || decide (n ≤ a) || k = 0) [(d.val, powMod a k n)] ((512 * w + 4) * smithyM w))

/-- ECMUL_W: k (x, y) on the short Weierstrass curve of a slot. -/
def execEcmulW (slot : Fin 8) (k x y dx dy : Fin 32) (s : State) : Host.Outcome State Fault Refusal :=
  .next (match nget none s.smithy.curves slot.val with
    | some c =>
      if !c.weierstrass then s else
      let w := curveClass c
      let n := smithyX s w k
      let a := smithyX s w x
      let b := smithyX s w y
      let r := wMul c n (some (a, b))
      let bad := decide (c.p ≤ a) || decide (c.p ≤ b) || !onCurveW c a b || n = 0 || decide (c.n ≤ n) || r.isNone
      smithyStart s bad [(dx.val, (r.getD (0, 0)).1), (dy.val, (r.getD (0, 0)).2)] ((7168 * w + 8) * smithyM w)
    | none => s)

/-- ECMUL_M: the u-coordinate of k P on the Montgomery curve of a slot. The point at infinity has none: a free value
(DESIGN CHOICE, log 2). -/
def execEcmulM (slot : Fin 8) (k u d : Fin 32) (s : State) : Host.Outcome State Fault Refusal :=
  .next (match nget none s.smithy.curves slot.val with
    | some c =>
      if c.weierstrass || !smithyFree s then s else
      let w := curveClass c
      let n := smithyX s w k
      let a := smithyX s w u
      let bad := a = 0 || decide (c.p ≤ a) || !isSquare (montRhs c a) c.p || n = 0
      let (px, pz) := mLadder c n a
      if pz = 0 && !bad then
        let (v, s1) := draw s
        smithyStart s1 bad [(d.val, v % 2 ^ (256 * w))] ((3072 * w + 8) * smithyM w)
      else smithyStart s bad [(d.val, px * invMod pz c.p % c.p)] ((3072 * w + 8) * smithyM w)
    | none => s)

/-- CLEAR: every X register becomes zero. -/
def execClear (s : State) : Host.Outcome State Fault Refusal :=
  .next (if smithyFree s then modSmithy s fun x => { x with op := some { clear := true, at_ := s.ledger, cycles := 512 } } else s)

/-- CURVE_LOAD: the checks, with 63 bases from the TRNG (free values; DESIGN CHOICE, log 2), then the slot; a failed load leaves the slot, sets CURVE_BAD and is counted (R433). -/
def execCurveLoad (slot : Fin 8) (c : CurveParams) (s : State) : Host.Outcome State Fault Refusal :=
  .next (
    if !smithyFree s then s else
    let (bs, s1) := drawMany s 63
    if curveOk bs c then modSmithy s1 fun x => { x with curves := nset none x.curves slot.val (some c) }
    else bump (csrSetField s1 0x0A00000 29 29 1) 0x0A00110 0x0A00180 2)

/-- An operation's output, its counts, and of a rejected one INPUT_REJECTED (R432). -/
def finishSmithy (s : State) (o : SmithyOp) : State :=
  let s1 := modSmithy s fun x => { x with
    op := none, x := if o.clear then [] else o.outs.foldl (fun m e => nset 0 m e.1 e.2) x.x }
  let s2 := csrSetField (bump s1 0x0A00100 0x0A00180 0) 0x0A00000 30 30 (if o.rejected then 1 else 0)
  let s3 := if o.clear then bump s2 0x0A00118 0x0A00180 3 else s2
  if o.rejected then bump (dbFault (reportOstler s3 1024 0x0903 0 0xFF) 0x40 0x0903 0x3FF 0 0xFFF) 0x0A00108 0x0A00180 1
  else s3

/-- SMITHY_COMPLETE: at the time that the op and w fix, at 1.2 cycles a ns. -/
def execSmithyComplete (s : State) : Host.Outcome State Fault Refusal :=
  .next (match s.smithy.op with
    | none => s
    | some o => if o.cycles * 10 ≤ (now s - o.at_.toNat) * 12 then finishSmithy s o else s)

end Sys2Proof.Machine
end

