-- ==== Sys2Proof/Machine/ReleaseGate.lean ====
section
/-!
DEFINITION. The Release Gate (R435 to R442): share installs, release requests and the gate step.
-/

namespace Sys2Proof.Machine

/-! ### Share install and clear (R436, R437) -/

/-- The policy at the head of a payload. -/
def policyOf (b : List Byte) : Policy where
  t := fieldAt b 4 1
  n := fieldAt b 5 1
  j := fieldAt b 6 1
  logN := fieldAt b 7 1
  tag := fieldAt b 8 8
  qcount := fieldAt b 0x10 1
  sigmaMin := fieldAt b 0x14 4
  kMin := fieldAt b 0x18 4
  budget := fieldAt b 0x1C 4
  primes := (b.drop 0x20).take 32
  digests := (List.range (fieldAt b 0x40 2)).map fun i => (b.drop (0x60 + 32 * i)).take 32

/-- Every policy field lies in its range (R436). -/
def policyOk (b : List Byte) : Bool :=
  let p := policyOf b
  fieldAt b 0 4 = 0x01504752 && decide (1 ≤ p.t) && decide (p.t ≤ 16) && decide (p.t ≤ p.n) && decide (p.n ≤ 16) &&
  decide (1 ≤ p.j) && decide (p.j ≤ p.n) && decide (12 ≤ p.logN) && decide (p.logN ≤ 16) && decide (1 ≤ p.qcount) &&
  decide (p.qcount ≤ 64) && fieldAt b 0x11 3 = 0 && decide (p.sigmaMin ≤ 0x3B00) && decide (1 ≤ fieldAt b 0x40 2) &&
  decide (fieldAt b 0x40 2 ≤ 64) && (b.drop 0x42).take 30 = List.replicate 30 0

/-- Length of the policy in a payload. -/
def policyBytes (b : List Byte) : Nat := 0x60 + 32 * fieldAt b 0x40 2

/-- SHA-256 of the first n level primes of a chain, each as 8 bytes. -/
def primesDigest (ch : Chain) (n : Nat) : List Byte := sha256 (((ch.primes.take ch.qcount).take n).flatMap (leBytes 8))

/-- The chain of a context's image that a policy names (DEDUCED, log 28). -/
def policyChain (img : Image) (p : Policy) : Option Chain :=
  img.chains.find? fun ch => ch.logN = p.logN && decide (p.qcount ≤ ch.qcount) && primesDigest ch p.qcount = p.primes

/-- Every share word is below its prime. -/
def shareInRange (ch : Chain) (p : Policy) (share : List Byte) : Bool :=
  (List.range p.qcount).all fun i => (List.range (2 ^ p.logN)).all fun k =>
    decide (fieldAt share (8 * (i * 2 ^ p.logN + k)) 8 < chainPrime ch i)

/-- The handle that holds a share package: a VALID raw WORD36 INPUT handle in HBM and LIMB_LINEAR. -/
def shareHandle (s : State) (c h : Nat) : Option HDecl :=
  match declOf (imageOf s c) h with
  | some d =>
    if isInput d && d.kind = 4 && d.etype = 0 && d.place = 2 && d.layout = 0 && (nget {} (ctx s c).handles h).valid then some d else none
  | none => none

/-- The gate slot that a pending release uses. -/
def slotBusy (s : State) (g : Nat) : Bool :=
  match s.tack.release with
  | some r => r.slot = g
  | none => false

/-- What an install of a share finds: a RESULT code, and the payload where it is 1. The order of the checks is the model's
(DEDUCED, log 28). -/
def shareVerdict (s : State) (g c h : Nat) : Nat × List Byte :=
  if slotBusy s g then (2, []) else
  if s.tack.observed then (5, []) else
  if (gateSlot s g).policy.isSome then (3, []) else
  match shareHandle s c h with
  | none => (6, [])
  | some d =>
    let bytes := (List.range d.lines).flatMap fun l => lineBytes (lineAt s d d.base l)
    match openPackage s 2 bytes (72 * d.lines) with
    | none => (4, [])
    | some pl =>
      let p := policyOf pl
      if !policyOk pl then (7, pl)
      else if pl.length ≠ policyBytes pl + 8 * p.qcount * 2 ^ p.logN then (8, pl)
      else match policyChain (imageOf s c) p with
        | none => (9, pl)
        | some ch => if shareInRange ch p (pl.drop (policyBytes pl)) then (1, pl) else (9, pl)

/-- Whether a RESULT means that the package was refused, or accepted, under R429. -/
def countPackage (s : State) (res : Nat) : State :=
  if res = 4 || res = 5 then trCount s 2 else if res = 1 || 7 ≤ res then trCount s 1 else s

/-- Install a share: RESULT, and of an accepted one the slot, MR5 and TR_CNT[7]. -/
def installShare (s : State) (g c h : Nat) : State :=
  let (res, pl) := shareVerdict s g c h
  let s1 := countPackage (csrSetField s rgInstall 39 36 res) res
  if res ≠ 1 then s1 else
  let p := policyOf pl
  let s2 := writeWhole s1 (shareAt g) (pl.drop (policyBytes pl))
  trCount (extendMr (setGateSlot s2 g { policy := some p, left := p.budget }) 5 (sha256 (pl.take (policyBytes pl)))) 7

/-- Clear a gate slot. -/
def clearShare (s : State) (g : Nat) : State :=
  if slotBusy s g then csrSetField s rgInstall 39 36 2
  else csrSetField (extendMr (wipeSlot s g) 5 (sha256 zero32)) rgInstall 39 36 1

/-- The Tack Room's firmware runs. -/
def tackRuns (s : State) : Bool := s.rst.phase = .running && !s.rst.recovery

/-- A write of RG_INSTALL: its fields are stored, and GO starts OP 0 or 1. -/
def writeInstall (s : State) (v : W64) : State :=
  let x := v.toNat
  let s1 := csrPut s rgInstall (BitVec.ofNat 64 (bitsOf x 61 40 * 2 ^ 40 + csrField s rgInstall 39 36 * 2 ^ 36))
  if !bitOf x 63 || !tackRuns s then s1 else
  match bitsOf x 61 60 with
  | 0 => installShare s1 (bitsOf x 59 58) (bitsOf x 57 52) (bitsOf x 51 40)
  | 1 => clearShare s1 (bitsOf x 59 58)
  | _ => s1

/-- SHARE_INSTALL: RG_INSTALL.GO with OP install. -/
def execShareInstall (value : W64) (s : State) : Host.Outcome State Fault Refusal :=
  .next (if bitOf value.toNat 63 && bitsOf value.toNat 61 60 = 0 then writeInstall s value else s)

/-- SHARE_CLEAR: RG_INSTALL.GO with OP clear. -/
def execShareClear (value : W64) (s : State) : Host.Outcome State Fault Refusal :=
  .next (if bitOf value.toNat 63 && bitsOf value.toNat 61 60 = 1 then writeInstall s value else s)

/-! ### Release requests (R438, R439) -/

/-- The blocks of a handle. -/
def blockCount (d : HDecl) : Nat := ceilDiv d.lines 64

/-- The record of a block's current place. -/
def currentRecord (s : State) (d : HDecl) (b : Nat) : W128 := (slotAt s (blockPage d (currentBase s d b) (64 * b))).record

/-- A granule of a block's current place is poisoned. -/
def blockPoisoned (s : State) (d : HDecl) (b : Nat) : Bool :=
  let base := currentBase s d b
  ((List.range (min 64 (d.lines - 64 * b))).flatMap fun k => lineGranules { d with base := base } (64 * b + k)).dedup.any fun g =>
    gpoison s g || combinePoison s g

/-- CT, AS and OUT as reason 0x03 asks for them, with CT's level. -/
def releaseHandles (s : State) (r : Release) : Option (HDecl × HDecl × HDecl × Chain × Nat) :=
  let img := imageOf s r.c
  match declOf img r.ct, declOf img r.as_, declOf img r.out with
  | some dc, some da, some dout =>
    match chainOf img dc.chain with
    | none => none
    | some ch =>
      let lvl := recLevel (currentRecord s dc 0)
      let n := 2 ^ ch.logN
      if isDurable dc && dc.place = 2 && dc.kind = 0 && dc.layout = 1 &&
         isDurable da && da.place = 2 && da.kind = 4 && da.etype = 0 &&
         dout.kind = 4 && dout.etype = 0 && dout.place = 2 && !isDurable dout && !isInput dout && dout.layout = 0 &&
         decide ((lvl + 1) * n / 16 ≤ dout.lines) && decide (2 * n / 16 ≤ img.claims.sharedLen)
      then some (dc, da, dout, ch, lvl) else none
  | _, _, _ => none

/-- PARTIES has exactly t bits, all below bit n, including bit j - 1. -/
def partiesOk (p : Policy) (m : Nat) : Bool :=
  decide (m < 2 ^ p.n) && ((List.range 16).filter (bitOf m)).length = p.t && bitOf m (p.j - 1)

/-- The first failing check of R439 from 0x05 on, of what reads the assertion; 0 where all pass. -/
def releaseReason (s : State) (r : Release) (p : Policy) (x : Line) (dc da : HDecl) (ch : Chain) : Nat :=
  let w (i hi : Nat) : Nat := bitsOf (wordAt x i).toNat hi 0
  if w 0 31 ≠ 0x00524C41 || w 1 11 ≠ r.ct then 5
  else if w 4 31 ≤ nget 0 (gateSlot s r.slot).served r.c then 6
  else if w 2 19 < p.sigmaMin || 0x3B00 < w 2 19 then 7
  else if w 3 31 < p.kMin then 8
  else if !partiesOk p r.parties then 9
  else if p.budget ≠ 0 && (gateSlot s r.slot).left = 0 then 0x0A
  else if (List.range (blockCount dc)).any fun b => recTag (currentRecord s dc b) ≠ p.tag then 0x0B
  else if ch.logN ≠ p.logN || primesDigest ch p.qcount ≠ p.primes || ch.qcount > p.qcount then 0x0C
  else if (nget {} (ctx s r.c).handles r.ct).poison || (List.range (blockCount dc)).any (blockPoisoned s dc) || blockPoisoned s da 0 then 0x0D
  else 0

/-- A denial before the assertion is read: its SERIAL is not known, a free value (DESIGN CHOICE, log 2). -/
def denyUnread (s : State) (c reason : Nat) : State := let (v, s1) := draw s; denyRelease s1 c reason (v % 2 ^ 32)

/-- The checks of a release in their order; it is denied, or waits for its gate step. -/
def checkRelease (s : State) (r : Release) : State :=
  if s.tack.observed then denyUnread s r.c 1 else
  match (gateSlot s r.slot).policy with
  | none => denyUnread s r.c 2
  | some p =>
    if (ctx s r.c).st ≠ .resident && (ctx s r.c).st ≠ .stopped then denyUnread s r.c 3 else
    match releaseHandles s r with
    | none => denyUnread s r.c 3
    | some (dc, da, _, ch, lvl) =>
      if !p.digests.contains (cmrOf s r.c) then denyUnread s r.c 4 else
      let x := lineAt s da (currentBase s da 0) 0
      let serial := bitsOf (wordAt x 4).toNat 31 0
      match releaseReason s r p x dc da ch with
      | 0 => modTack s fun t => { t with release := some { r with
          serial := serial, sigma := bitsOf (wordAt x 2).toNat 19 0, cohort := bitsOf (wordAt x 3).toNat 31 0, level := lvl } }
      | k => denyRelease s r.c k serial

/-- A write of RG_REQ: its fields are stored, and GO submits the request, or is ignored and counted while one is served. -/
def writeRequest (s : State) (v : W64) : State :=
  let x := v.toNat
  let busy := csrBit s rgReq 62
  let s1 := csrPut s rgReq (BitVec.ofNat 64 (bitsOf x 61 18 * 2 ^ 18 + bitsOf x 15 0 + (if busy then 2 ^ 62 else 0)))
  if !bitOf x 63 || !tackRuns s then s1
  else if busy then trCount s1 4
  else checkRelease (csrSetField s1 rgReq 62 62 1)
    { c := bitsOf x 61 56, slot := bitsOf x 55 54, ct := bitsOf x 53 42, as_ := bitsOf x 41 30, out := bitsOf x 29 18,
      parties := bitsOf x 15 0 }

/-- RELEASE_REQUEST. -/
def execReleaseRequest (value : W64) (s : State) : Host.Outcome State Fault Refusal :=
  .next (if bitOf value.toNat 63 then writeRequest s value else s)

/-! ### The gate step (R440 to R442) -/

/-- The Lagrange coefficient of share j for the participating set, modulo q. -/
def lagrange (parties j q : Nat) : Nat :=
  (((List.range 16).map (· + 1)).filter fun m => bitOf parties (m - 1) && m ≠ j).foldl
    (fun a m => a * (m * invMod ((m + q - j % q) % q) q % q) % q) (1 % q)

/-- The largest integer at most 12 sigma, sigma = 2^(l / 256): the greatest b with b^256 at most 12^256 2^l. -/
def noiseBound (l : Nat) : Nat :=
  ((List.range 64).reverse).foldl (fun b i => if (b + 2 ^ i) ^ 256 ≤ 12 ^ 256 * 2 ^ l then b + 2 ^ i else b) 0

/-- A flooding sample from a free value: an integer within 12 sigma (R65, R440). -/
def noiseOf (b v : Nat) : Int := ((v % (2 * b + 1) : Nat) : Int) - b

/-- Words of limb i of c1 of CT, in its layout. -/
def c1Words (s : State) (dc : HDecl) (n i : Nat) : List Nat :=
  (List.range (n / 16)).flatMap fun k =>
    let l := (dc.capacity + 1 + i) * dc.pitch + k
    (lineAt s dc (currentBase s dc (l / 64)) l).map (·.toNat)

/-- The partial decryption of limb i: INTT of share times lambda times c1, plus the noise, in LIMB_LINEAR. -/
def partialWords (s : State) (r : Release) (p : Policy) (dc : HDecl) (ch : Chain) (noise : List Int) (i : Nat) : List Nat :=
  let n := 2 ^ ch.logN
  let q := chainPrime ch i
  let share := memRead s.hbm.mem (shareAt r.slot + 8 * n * i) (8 * n)
  let lam := lagrange r.parties p.j q
  let b := ((c1Words s dc n i).zipIdx).map fun (x, k) => fieldAt share (8 * k) 8 * lam % q * x % q
  ((inttOf q (ch.roots.getD i 1) (relayout 1 b)).zip noise).map fun (x, e) => (x + imod e q) % q

/-- Lines of a list of words. -/
def wordLines (ws : List Nat) : List Line :=
  (List.range (ws.length / 16)).map fun k => ((ws.drop (16 * k)).take 16).map (BitVec.ofNat 36)

/-- Store the lines of limb i of the result, block by block of OUT. -/
def storeOut (s : State) (dout : HDecl) (ls : List (Nat × Line)) : State :=
  ((ls.map fun x => x.1 / 64).dedup).foldl (fun s b => storeBlock s dout dout.base (ls.filter fun x => x.1 / 64 = b) false 0) s

/-- The pen writes buffers A and B with zeros. -/
def zeroPen (s : State) (r : Release) (n : Nat) : State :=
  let base := (imageOf s r.c).claims.sharedBase
  (List.range (r.level + 1)).foldl (fun s i => match posOfLid s i with
    | none => s
    | some q => (List.range (2 * n / 16)).foldl (fun s k => loftWrite s q (base + k) r.c zeroLine 0xFFFF) s) s

/-- A release succeeds: RG_RESULT, budget, SERIAL, RELEASE record. -/
def released (s : State) (r : Release) (p : Policy) : State :=
  let g := gateSlot s r.slot
  let s1 := setGateSlot s r.slot { g with left := if p.budget = 0 then g.left else g.left - 1, served := nset 0 g.served r.c r.serial }
  let s2 := dbAppend s1 0x0E r.c (leBytes 4 r.serial ++ leBytes 1 r.slot ++ leBytes 1 0 ++ leBytes 2 r.ct ++ leBytes 2 r.parties ++
    leBytes 2 0 ++ leBytes 4 r.sigma ++ leBytes 4 r.cohort)
  modTack (trCount (writeResult s2 1 0 0 r.serial) 3) fun t => { t with release := none }

/-- Where a fault of the gate step is found: a controller, or a stall of the pen. Its DETAIL is a free value (DESIGN CHOICE, log 2). -/
def gateFaultSource (s : State) (code : Nat) : Nat := if code / 256 = 6 then 1010 + 5 else (posOfLid s 0).getD 0

/-- A fault ends the gate step (R442). -/
def releaseFailed (s : State) (r : Release) (code : Nat) : State :=
  let (v, s0) := draw s
  let s1 := reportFault s0 (gateFaultSource s code) code (v % 2 ^ 32) r.c 0x3FF 0 0xFFF
  let s2 := modCtx s1 r.c fun x => { x with handles := nmod {} x.handles r.out fun h => { h with poison := true } }
  modTack (trCount (writeResult s2 3 0 code r.serial) 5) fun t => { t with release := none }

/-- The pen's work and the Gate's results. A context that has left since the checks is denied (DEDUCED, log 28). -/
def gateRun (s : State) (r : Release) (fault : Nat) : State :=
  match (gateSlot s r.slot).policy, releaseHandles s r with
  | some p, some (dc, _, dout, ch, _) =>
    let n := 2 ^ ch.logN
    if fault ≠ 0 then releaseFailed (zeroPen s r n) r fault else
    let (vs, s1) := drawMany s n
    let noise := vs.map (noiseOf (noiseBound r.sigma))
    let s2 := (List.range (r.level + 1)).foldl (fun s i =>
      storeOut s dout ((wordLines (partialWords s1 r p dc ch noise i)).zipIdx.map fun (l, k) => (i * (n / 16) + k, l))) s1
    released (zeroPen s2 r n) r p
  | _, _ => denyRelease s r.c 3 r.serial

/-- Faults that end a gate step (R442), and 0 for none. -/
def gateFaults : List Nat := [0, 0x0301, 0x0601, 0x0602, 0x0603, 0x0801, 0x0802]

/-- GATE_STEP: at the next point of choice, ahead of every context; the running context is switched out, and then what R381
chooses runs. -/
def execGateStep (fault : BitVec 16) (s : State) : Host.Outcome State Fault Refusal :=
  .next (match s.tack.release with
    | none => s
    | some r =>
      if !choicePoint s || !gateFaults.contains fault.toNat then s else
      let s1 := scanBoundary (retireAwaiting s)
      let c := runningNo s1
      let next := match nextContext s1 with
        | some d => some d
        | none => if c = 64 then none else some c
      let s2 := gateRun (if c = 64 then s1 else switchOut s1 c) r fault.toNat
      match next with
      | some d => if (ctx s2 d).st = .resident then switchIn s2 d else s2
      | none => s2)

end Sys2Proof.Machine
end

