-- ==== Sys2Proof/Machine/Spdm.lean ====
section
/-!
DEFINITION. The Tack Room as an SPDM 1.3 responder (R425 to R427): requests by transport, sessions, IDE keys, quotes. A response
is written here as the 4-byte SPDM header and the contents that R425 to R427 give; message encryption and the rest of the
standard's layout are not represented (PRESUMED, log 29).
-/

namespace Sys2Proof.Machine

/-- An SPDM response: version 1.3, code, parameters, body. -/
def spdmBytes (code p1 p2 : Nat) (body : List Byte) : List Byte := leBytes 1 0x13 ++ leBytes 1 code ++ leBytes 1 p1 ++ leBytes 1 p2 ++ body

/-- Answer in the clear. -/
def spdmSend (s : State) (via : Transport) (code p1 p2 : Nat) (body : List Byte) : State := answer s via 5 (spdmBytes code p1 p2 body)

/-- Answer inside a session. -/
def spdmSecure (s : State) (via : Transport) (ses code p1 p2 : Nat) (body : List Byte) : State :=
  answer s via 6 (leBytes 4 ses ++ spdmBytes code p1 p2 body)

/-- ERROR with its code. -/
def spdmError (s : State) (via : Transport) (e : Nat) : State := spdmSend s via 0x7F e 0 []

/-- The stage of a transport's connection (0 before GET_VERSION). -/
def stageOf (s : State) (via : Transport) : Nat := match s.tack.conns.find? fun x => x.1 = via with
  | some x => x.2
  | none => 0

/-- Set the stage of a transport's connection. -/
def setStage (s : State) (via : Transport) (k : Nat) : State :=
  modTack s fun t => { t with conns := (t.conns.filter fun x => x.1 ≠ via) ++ [(via, k)] }

/-- A request reaches the responder: answered by `go` where the connection has come to the stage that it needs, else with ERROR
UnexpectedRequest (0x04). -/
def spdm (s : State) (via : Transport) (need : Nat) (go : State) : State :=
  tookMessage (
    if !tackRuns s || !reaches s via then s
    else if stageOf s via < need then spdmError s via 4 else go) via

/-- GET_VERSION: version 1.3 only; the connection begins anew. -/
def execGetVersion (via : Transport) (s : State) : Host.Outcome State Fault Refusal :=
  .next (spdm s via 0 (setStage (spdmSend s via 0x04 0 0 (leBytes 2 1 ++ leBytes 2 0x1300)) via 1))

/-- GET_CAPABILITIES: of R427's requests those that SPDM names as capabilities: certificates, challenge, measurements with
signature, encryption, MAC, key exchange, heartbeat and key update. -/
def execGetCapabilities (via : Transport) (s : State) : Host.Outcome State Fault Refusal :=
  .next (spdm s via 1 (setStage (spdmSend s via 0x61 0 0 (leBytes 4 0 ++ leBytes 4 0x62F6)) via (max 2 (stageOf s via))))

/-- NEGOTIATE_ALGORITHMS: `agreed` says that the request offers SHA-256, SLH-DSA-SHA2-128f, secp384r1 and AES-256-GCM. -/
def execNegotiateAlgorithms (via : Transport) (agreed : Bool) (s : State) : Host.Outcome State Fault Refusal :=
  .next (spdm s via 2 (
    if agreed then setStage (spdmSend s via 0x63 0 0 (leBytes 2 Config.vendorId.toNat)) via 3 else spdmError s via 1))

/-- The certificate chain of R425. -/
def certChain (s : State) : List Byte := Config.chainHead ++ s.tack.cert

/-- GET_DIGESTS: slot 0 alone. -/
def execGetDigests (via : Transport) (s : State) : Host.Outcome State Fault Refusal :=
  .next (spdm s via 3 (spdmSend s via 0x01 0 1 (sha256 (certChain s))))

/-- GET_CERTIFICATE: a portion of slot 0's chain, with what remains. -/
def execGetCertificate (via : Transport) (slot off len : Nat) (s : State) : Host.Outcome State Fault Refusal :=
  .next (spdm s via 3 (
    let ch := certChain s
    if slot ≠ 0 || ch.length < off then spdmError s via 1 else
    let n := min len (ch.length - off)
    spdmSend s via 0x02 0 0 (leBytes 2 n ++ leBytes 2 (ch.length - off - n) ++ (ch.drop off).take n)))

/-- A nonce of 32 bytes from the TRNG. -/
def drawNonce (s : State) : List Byte × State := let (v, s1) := draw s
  (leBytes 32 v, s1)

/-- CHALLENGE: the chain's digest, a nonce, and AK's signature. -/
def execChallenge (via : Transport) (slot : Nat) (nonce : List Byte) (s : State) : Host.Outcome State Fault Refusal :=
  .next (spdm s via 3 (
    if slot ≠ 0 then spdmError s via 1 else
    let (n, s1) := drawNonce s
    let body := sha256 (certChain s) ++ n
    spdmSend s1 via 0x03 0 1 (body ++ Config.sign s.tack.ak (nonce ++ body))))

/-- Measurement block i: 1 to 16 the MRs, 0x41 + c the CMRs (R427). -/
def measurement (s : State) (i : Nat) : Option (List Byte) :=
  if 1 ≤ i && i ≤ 16 then some (mrOf s (i - 1))
  else if 0x41 ≤ i && i ≤ 0x80 then some (cmrOf s (i - 0x41))
  else none

/-- The blocks that an index asks for: one, or all for 0xFF; index 0 asks for their number. -/
def measurementIxs (ix : Nat) : List Nat :=
  if ix = 0xFF then (List.range 256).filter fun i => (1 ≤ i && i ≤ 16) || (0x41 ≤ i && i ≤ 0x80) else [ix]

/-- GET_MEASUREMENTS. -/
def execGetMeasurements (via : Transport) (ix : Nat) (nonce : List Byte) (s : State) : Host.Outcome State Fault Refusal :=
  .next (spdm s via 3 (
    let (n, s1) := drawNonce s
    let reply (p1 : Nat) (blocks : List Byte) : State :=
      spdmSend s1 via 0x60 p1 0 (blocks ++ n ++ Config.sign s.tack.ak (nonce ++ blocks ++ n))
    if ix = 0 then reply 80 (leBytes 1 0)
    else
      let is := measurementIxs ix
      if is.any fun i => (measurement s i).isNone then spdmError s via 1
      else reply 0 (leBytes 1 is.length ++ is.flatMap fun i => leBytes 1 i ++ (measurement s i).getD [])))

/-! ### Sessions -/

/-- secp384r1 (R433). -/
def secp384r1 : CurveParams where
  weierstrass := true
  p := 0xFFFFFFFFFFFFFFFFFFFFFFFFFFFFFFFFFFFFFFFFFFFFFFFFFFFFFFFFFFFFFFFEFFFFFFFF0000000000000000FFFFFFFF
  n := 0xFFFFFFFFFFFFFFFFFFFFFFFFFFFFFFFFFFFFFFFFFFFFFFFFC7634D81F4372DDF581A0DB248B0A77AECEC196ACCC52973
  h := 1
  a := 0xFFFFFFFFFFFFFFFFFFFFFFFFFFFFFFFFFFFFFFFFFFFFFFFFFFFFFFFFFFFFFFFEFFFFFFFF0000000000000000FFFFFFFC
  b := 0xB3312FA7E23EE7E4988E056BE3F82D19181D9C6EFE8141120314088F5013875AC656398D8A2ED19D2A85C8EDD3EC2AEF
  gx := 0xAA87CA22BE8B05378EB1C71EF320AD746E1D3B628BA79B9859F741E082542A385502F25DBF55296C3A545E3872760AB7
  gy := 0x3617DE4A96262C6F5D9E98BF9292DC29F8F41DBD289A147CE9DA3113B5F0B8C00A60B1CE1D7E819D7A431D7C90EA0E5F

/-- A point with which ECMUL_W completes: below p, on the curve. -/
def pointOk (c : CurveParams) (x y : Nat) : Bool := decide (x < c.p) && decide (y < c.p) && onCurveW c x y

/-- The Smithy's part of ECDHE: two ECMUL_W and the CLEAR after a secret (R427, R434); a peer's bad point is INPUT_REJECTED. -/
def smithyEcdhe (s : State) (ok : Bool) : State :=
  let s1 := modSmithy (bumpBy s 0x0A00100 0x0A00180 0 3) fun x => { x with x := [] }
  let s2 := csrSetField (bump s1 0x0A00118 0x0A00180 3) 0x0A00000 30 30 0
  if ok then s2 else bump (dbFault (reportOstler s2 1024 0x0903 0 0xFF) 0x40 0x0903 0x3FF 0 0xFFF) 0x0A00108 0x0A00180 1

/-- A session by its number on its transport. -/
def sessionOf (s : State) (via : Transport) (n : Nat) : Option Session := s.tack.sessions.find? fun x => x.id = n && x.via = via

/-- KEY_EXCHANGE: up to 4 sessions; the private scalar is a TRNG draw. It waits while the Smithy is busy. -/
def execKeyExchange (via : Transport) (px py : Nat) (s : State) : Host.Outcome State Fault Refusal :=
  .next (spdm s via 3 (
    if 4 ≤ s.tack.sessions.length then spdmError s via 0x0A
    else if s.smithy.op.isSome then s
    else
      let (v, s1) := draw s
      let d := 1 + v % (secp384r1.n - 1)
      let ok := pointOk secp384r1 px py
      let s2 := smithyEcdhe s1 ok
      if !ok then spdmError s2 via 1 else
      let pub := (wMul secp384r1 d (some (secp384r1.gx, secp384r1.gy))).getD (0, 0)
      let sec := (wMul secp384r1 d (some (px, py))).getD (0, 0)
      let id := s.tack.nextSes
      let body := leBytes 2 (id % 65536) ++ beBytes 48 pub.1 ++ beBytes 48 pub.2
      let s3 := modTack s2 fun t => { t with nextSes := id + 1, sessions := t.sessions ++ [{ id := id, via := via, secret := sec.1 }] }
      spdmSend s3 via 0x64 0 0 (body ++ Config.sign s.tack.ak body)))

/-- FINISH establishes its session; a requester whose HMAC does not verify loses it (ERROR DecryptError, 0x06). -/
def execFinish (via : Transport) (session : Nat) (verified : Bool) (s : State) : Host.Outcome State Fault Refusal :=
  .next (spdm s via 3 (match sessionOf s via session with
    | none => spdmError s via 2
    | some x =>
      if x.live then spdmError s via 4
      else if verified then
        modTack (spdmSecure s via session 0x65 0 0 []) fun t => { t with sessions := t.sessions.map fun y => if y.id = session then { y with live := true } else y }
      else modTack (spdmError s via 6) fun t => { t with sessions := t.sessions.filter fun y => y.id ≠ session }))

/-- A request inside an established session. -/
def inSes (s : State) (via : Transport) (session : Nat) (go : State) : State :=
  spdm s via 3 (match sessionOf s via session with
    | some x => if x.live then go else spdmError s via 4
    | none => spdmError s via 2)

/-- KEY_UPDATE: the session's keys follow the next generation. -/
def execKeyUpdate (via : Transport) (session : Nat) (s : State) : Host.Outcome State Fault Refusal :=
  .next (inSes s via session (
    modTack (spdmSecure s via session 0x69 1 0 []) fun t =>
      { t with sessions := t.sessions.map fun y => if y.id = session then { y with updates := y.updates + 1 } else y }))

/-- HEARTBEAT. -/
def execHeartbeat (via : Transport) (session : Nat) (s : State) : Host.Outcome State Fault Refusal :=
  .next (inSes s via session (spdmSecure s via session 0x68 0 0 []))

/-- END_SESSION: its keys are erased; IDE keys that it delivered stay (R420). -/
def execEndSession (via : Transport) (session : Nat) (s : State) : Host.Outcome State Fault Refusal :=
  .next (inSes s via session (
    modTack (spdmSecure s via session 0x6C 0 0 []) fun t => { t with sessions := t.sessions.filter fun y => y.id ≠ session }))

/-- IDE_KM: keys for the Gatehouse's link IDE stream, inside a session. -/
def execIdeKm (via : Transport) (session : Nat) (key : List Byte) (s : State) : Host.Outcome State Fault Refusal :=
  .next (inSes s via session (
    if !s.gate.bridge || !s.gate.linkUp then spdmError s via 7 else
    let s1 := modTack (spdmSecure s via session 0x7E 0 0 []) fun t => { t with ideKey := key }
    { s1 with gate := { s1.gate with ide := true } }))

/-! ### Quotes -/

/-- Bytes 0x000 to 0x2A7 of a quote (R426). -/
def quoteBody (s : State) (nonce : List Byte) (c : Nat) : List Byte :=
  leBytes 4 0x01515449 ++ leBytes 2 0 ++ leBytes 2 (if s.tack.observed then 1 else 0) ++ leBytes 8 (now s) ++ padTo 32 nonce ++
  leBytes 8 Config.serial.toNat ++ leBytes 4 (s.fuses.stepping % 16 + s.fuses.grade % 2 * 256) ++ leBytes 4 c ++
  (List.range 16).flatMap (mrOf s) ++ (if c < 64 then cmrOf s c else zero32) ++
  leBytes 4 (if c < 64 then (ctx s c).job.toNat else 0) ++ leBytes 4 0 ++
  sha256 (Config.kemPublic s.tack.kem) ++ padTo 32 (Config.slhPublic s.tack.ak)

/-- QUOTE: signed with AK, and counted. -/
def execQuote (via : Transport) (nonce : List Byte) (ctx : Nat) (s : State) : Host.Outcome State Fault Refusal :=
  .next (spdm s via 3 (
    if 64 ≤ ctx && ctx ≠ 0xFF then spdmError s via 1 else
    let b := quoteBody s nonce ctx
    spdmSend (trCount s 0) via 0x7E 0 0 (b ++ padTo 17088 (Config.sign s.tack.ak b))))

/-- KEM_KEY: the 1,568-byte encapsulation key. -/
def execKemKey (via : Transport) (s : State) : Host.Outcome State Fault Refusal :=
  .next (spdm s via 3 (spdmSend s via 0x7E 0 0 (padTo 1568 (Config.kemPublic s.tack.kem))))

end Sys2Proof.Machine
end

