-- ==== Sys2Proof/Machine/Boot.lean ====
section
/-!
DEFINITION. Flash images (R424, R456) and boot (R455, R458 to R460, R466).
-/

namespace Sys2Proof.Machine

/-! ### Flash (R424, R456) -/

/-- Bytes of flash. -/
def flashSize : Nat := 0x10000000
/-- n bytes of flash from an offset; an erased byte is 0xFF. -/
def flashRead (s : State) (o n : Nat) : List Byte := (List.range n).map fun i => nget 0xFF s.ostler.flash (o + i)

/-- The area of a component's image in a slot: 16 MiB each, in the order of COMPONENT (DESIGN CHOICE, log 30). -/
def imageArea (c : Nat) (b : Bool) : Nat := (if b then 0x3400000 else 0x400000) + (c - 1) * 0x1000000

/-- An image in flash: header, body and signature, at most its area (R424). -/
def flashImage (s : State) (c : Nat) (b : Bool) : List Byte :=
  let o := imageArea c b
  flashRead s o (min (64 + leNat (flashRead s (o + 0x10) 8) + 7856) 0x1000000)

/-- SVN of an image. -/
def imageSvn (img : List Byte) : Nat := fieldAt img 5 1

/-- The Tack Room accepts an image (R424). -/
def imageAccepted (s : State) (c : Nat) (img : List Byte) : Bool :=
  let n := fieldAt img 0x10 8
  fieldAt img 0 4 = 0x01574649 && fieldAt img 4 1 = c && img.length = 64 + n + 7856 &&
  Config.verify Config.firmwareKey (img.take 64) ((img.drop (64 + n)).take 7856) &&
  (img.drop 0x20).take 32 = sha256 ((img.drop 64).take n) && decide (s.fuses.svnFloor ≤ imageSvn img)

/-- Bit c - 1 of the active-slot byte of the directory. -/
def activeB (d : BitVec 3) (c : Nat) : Bool := d.getLsbD (c - 1)

/-- Measure an image of component c as it begins to run (R422). -/
def measureImage (s : State) (c : Nat) (img : List Byte) : State :=
  modTack (extendMr s c (sha256 img)) fun t => { t with svns := nset 0 t.svns c (imageSvn img) }

/-! ### Positions and wear (R17 to R19, R462, R466) -/

/-- The option load's position states and logical IDs: the ENABLED positions in increasing position index (R17, R18). -/
def fusedPositions (f : Fuses) : NMap Pos :=
  let st (p : Nat) : PosSt := if f.disabled.contains p then .disabled else if f.spares.contains p then .spare else .enabled
  ((List.range 832).foldl (fun (acc : NMap Pos × Nat) p =>
    if st p = .enabled then (acc.1 ++ [(p, { st := .enabled, lid := acc.2 })], acc.2 + 1)
    else (acc.1 ++ [(p, { st := st p })], acc.2)) ([], 0)).1

/-- A retirement that the margin table records: a spare takes the logical ID (R19, R462). -/
def retiredInFlash (s : State) (p : Nat) (cause : Nat) : State :=
  let lid := lidOf s p
  let s1 := modPos s p fun x => { x with st := .retired, lid := 0x3FF, cause := BitVec.ofNat 2 cause }
  if lid = 0x3FF then s1 else
  match chooseSpare s1 p with
  | some q => modPos s1 q fun x => { x with st := .enabled, lid := lid }
  | none => s1

/-- The margin table's states, failed scans first. -/
def applyMargins (s : State) : State :=
  let s1 := s.ostler.margin.foldl (fun s e => if e.2.state = 2 && (position s e.1).st = .spare then modPos s e.1 fun x => { x with st := .outOfService } else s) s
  s1.ostler.margin.foldl (fun s e => if e.2.state = 1 then retiredInFlash s e.1 e.2.cause else s) s1

/-- Positions after a reset of a level: a core reset keeps them. -/
def bootPositions (s : State) : State :=
  if s.rst.level = 1 then s else applyMargins { s with positions := fusedPositions s.fuses }

/-- Each stall's IVR is set from the margin table, VMAX_MV where it has no entry; an unused position is OFF (R462, R466). -/
def setIvr (s : State) (p : Nat) : State :=
  let mv := (nget {} s.ostler.margin p).mv
  let v := if mv = 0 then vmaxOf s p else mv
  if powered s p then csrSetField (modStall s p fun x => { x with target := v }) (stallCsr p 0x300) 9 0 v
  else modStall s p fun x => { x with pwr := .off }

/-- Compute dies powered: IVR targets, then the first ageing measurement of every stall. -/
def powerStalls (s : State) (mv : Nat) : State :=
  let s1 := (s.positions.map (·.1)).foldl setIvr s
  (positionsIn s1 .enabled ++ positionsIn s1 .spare).foldl (fun s p => ageMeasure s p mv) s1

/-! ### HBM and gate slots (R310, R319, R460) -/

/-- Hard repair of a stack's pending rows, which releases their spare pages (R319). -/
def hardRepair (st : Nat) (r : Repair) : Repair :=
  let pages := r.pending.flatMap fun k => rowPages st (k / 2 ^ 24 % 32) (k % 2 ^ 24)
  { r with pending := [], remapped := r.remapped ++ r.pending,
           spared := r.spared.filter (fun e => !pages.contains e.1 || r.retired.contains e.1),
           lost := r.lost.filter fun k => !pages.contains (spareAt st k) }

/-- The stacks after training: the repairs that flash holds, pending rows repaired; PPR resources as the stack reports them, a
free value (DESIGN CHOICE, log 2). -/
def trainHbm (s : State) : State :=
  if s.rst.level = 1 then { s with hbm := { s.hbm with selfRef := false } } else
  (List.range 8).foldl (fun s st =>
    let (v, s1) := draw s
    let r := { hardRepair st (nget {} s1.ostler.marRep st) with pprLeft := v % 65536 }
    { s1 with hbm := { s1.hbm with repair := nset {} s1.hbm.repair st r } })
    { s with hbm := { s.hbm with selfRef := false, inner := [], failed := [], recent := [] } }

/-- The device's own regions are LIVE, under the device memory key. -/
def installRegions (s : State) : State :=
  let keep := s.hbm.regions.filter fun e => e.2.owner = 64
  let s1 := if keep = [] then
      deviceRegions.zipIdx.foldl (fun s (r, i) => modRegion s i fun _ => r) { s with hbm := { s.hbm with regions := [] } }
    else { s with hbm := { s.hbm with regions := keep } }
  let k := s1.tack.memKey
  let v := some (BitVec.ofNat 512 (leNat (k.take 64)), BitVec.ofNat 256 (leNat (k.drop 64)))
  { s1 with hbm := { s1.hbm with keys := nset none s1.hbm.keys 64 v } }

/-- A policy as its package lays it out (R436). -/
def policySer (p : Policy) : List Byte :=
  leBytes 4 0x01504752 ++ leBytes 1 p.t ++ leBytes 1 p.n ++ leBytes 1 p.j ++ leBytes 1 p.logN ++ leBytes 8 p.tag ++ leBytes 1 p.qcount ++
  leBytes 3 0 ++ leBytes 4 p.sigmaMin ++ leBytes 4 p.kMin ++ leBytes 4 p.budget ++ padTo 32 p.primes ++ leBytes 2 p.digests.length ++
  leBytes 30 0 ++ p.digests.flatMap (padTo 32)

/-- A granule of a gate slot's share is poisoned. -/
def sharePoisoned (s : State) (g : Nat) (p : Policy) : Bool :=
  let lo := shareAt g / 4096
  s.hbm.slots.any fun e => lo ≤ e.1 && e.1 < lo + ceilDiv (8 * p.qcount * 2 ^ p.logN) 4096 && decide (e.2.gpois ≠ 0)

/-- Gate slot g after a system or core reset: a poisoned share is cleared; a kept slot is extended into MR5 again and its
last served SERIALs are 0 (R422, R460). -/
def checkSlot (s : State) (g : Nat) : State :=
  match (gateSlot s g).policy with
  | none => s
  | some p =>
    if sharePoisoned s g p then extendMr (wipeSlot s g) 5 (sha256 zero32)
    else extendMr (setGateSlot s g { gateSlot s g with served := [] }) 5 (sha256 (policySer p))

/-! ### Firmware -/

/-- The slot from which component c runs: the active one, else the other, else none (R424). -/
def bootSlot (s : State) (images : List (Bool × Bool)) (c : Nat) : Option Bool :=
  let a := activeB s.ostler.dir c
  match images.getD (c - 1) (false, false) with
  | (true, _) => some a
  | (false, true) => some !a
  | (false, false) => none

/-- MR0 (R422). -/
def measureRom (s : State) : State :=
  extendMr (extendMr s 0 Config.bootRomDigest) 0 (sha256 (Config.fuseSummary s.fuses.grade s.fuses.stepping s.fuses.svnFloor))

/-- The three components run; the keys are derived (R421). -/
def startFirmware (s : State) (a b c : Bool) : State :=
  let s1 := measureImage s 2 (flashImage s 2 b)
  let s2 := measureImage s1 1 (flashImage s 1 a)
  let s3 := measureImage s2 3 (flashImage s 3 c)
  let run : BitVec 3 := BitVec.ofNat 3 ((if a then 1 else 0) + (if b then 2 else 0) + (if c then 4 else 0))
  let s4 := modRst s3 fun r => { r with runB := run, acts := [] }
  deriveFwKeys (modTack s4 fun t => { t with
    dik := Config.slhKeygen (deriveKey (ascii "Yocon DIK") 48), memKey := deriveKey (ascii "Yocon MEM64") 96,
    fabric := s.ostler.fabric })

/-- The recovery state (R459): compute dies unpowered, the Tack Room without keys. -/
def enterRecovery (s : State) : State :=
  modRst { s with ostler := { s.ostler with up := true } } fun r => { r with recovery := true, dies := false }

/-- The Tack Room's firmware loads secp384r1 into slot 0 and issues CLEAR (R433, R434). -/
def startSmithy (s : State) : State :=
  smithyClear (modSmithy s fun x => { x with curves := nset none x.curves 0 (some secp384r1) })

/-- FAULT_N at step 9: high, unless RST_CAUSE holds bit 6, 7 or 9 (R479). -/
def bootFaultN (s : State) : State :=
  if csrBit s rstCause 6 || csrBit s rstCause 7 || csrBit s rstCause 9 then
    modRst (csrSetField s 0x0B00010 10 10 1) fun r => { r with faultN := false }
  else modRst s fun r => { r with faultN := csrField s 0x0B00010 10 1 = 0 }

/-- Step 9: EXTEND and RESET records; the rings accept packets, those held are taken. -/
def openRings (s : State) : State :=
  let s1 := dbAppend s 1 0x40 (leBytes 8 (now s))
  let s2 := dbAppend s1 0x0D 0x40 (leBytes 4 (csrGet s1 rstCause).toNat)
  let s3 := modRst { s2 with db := { s2.db with extend := s.ledger } } fun r => { r with
    phase := .running, wdogAt := if r.level = 1 then r.wdogAt else s.ledger }
  s3.ctxs.foldl (fun s e => takeHeld 64 s e.1) s3

/-- Steps 4 to 9 of boot. -/
def bootRest (s : State) (mv : Nat) : State :=
  let s1 := powerStalls (modRst s fun r => { r with dies := true }) mv
  let s2 := installRegions (trainHbm s1)
  let s3 := if s.rst.level = 3 then s2 else [0, 1, 2, 3].foldl checkSlot s2
  let d := csrGet s3 0x07C0000
  let s4 := extendMr s3 4 (sha256 (Config.securityConfig s3.gate.bridge (bitsOf d.toNat 14 0) (bitsOf d.toNat 21 16) s3.tack.fabric.isSome))
  let s5 := startSmithy (modTack (issueCert s4) fun t => { t with booted := true })
  openRings (bootFaultN { s5 with ostler := { s5.ostler with up := true } })

/-- BOOT, from the release of the reset: the option and trim load, verification, and the steps of R458; or the recovery
state. Fuses that fail their CRC three times are replaced by the trim backup, which has no UDS (R455). -/
def execBoot (fuseCrc : Bool) (images : List (Bool × Bool)) (mv : Nat) (s : State) : Host.Outcome State Fault Refusal :=
  .next (
    if s.rst.phase ≠ .released || s.rst.recovery then s else
    if !fuseCrc && s.rst.level ≠ 1 then enterRecovery (measureRom (modRst (bootPositions s) fun r => { r with backup := true })) else
    let s1 := measureRom (bootPositions s)
    match bootSlot s images 1, bootSlot s images 2, bootSlot s images 3 with
    | some a, some b, some c => bootRest (startFirmware s1 a b c) mv
    | _, _, _ => enterRecovery s1)

end Sys2Proof.Machine
end

