-- ==== Sys2Proof/Machine/Ledger.lean ====
section
/-!
DEFINITION. The discipline of the Ledger (12, 17): beacons (R357), PTP (R475), TIME_PPS (R473, R497), stepping, slewing and
locking (R474).
-/

namespace Sys2Proof.Machine

/-- LEDGER_STATUS. -/
def ledgerStatus : Nat := 0x0200008
/-- EVER_LOCKED. -/
def everLocked (s : State) : Bool := csrBit s ledgerStatus 62

/-- Change the discipline's state. -/
def modDisc (s : State) (f : Disc → Disc) : State := { s with disc := f s.disc }

/-- An instant lies within the last 2,000,000,000 ns. -/
def recent (s : State) (t : Option W64) : Bool :=
  match t with
  | some x => decide (now s ≤ x.toNat + 2000000000)
  | none => false

/-- The source that disciplines the Ledger: 1 beacons, 2 PTP, 3 TIME_PPS, 0 none (R473). -/
def sourceNow (s : State) : Nat :=
  let bp := csrField s 0x07C0000 21 16
  if bp < 48 && carries (port s bp).st then 1
  else if csrBit s 0x0200010 31 && recent s s.disc.syncAt then 2
  else if csrBit s 0x0200010 30 && recent s s.disc.ppsAt then 3
  else 0

/-- A difference saturated to 32 bits, two's complement. -/
def sat32 (x : Int) : Nat :=
  let y := if x < -2147483648 then -2147483648 else if 2147483647 < x then 2147483647 else x
  (y % 4294967296).toNat

/-- A counter that saturates at 2^64 - 1: MG_CNT[i]. -/
def mgCount (s : State) (i : Nat) : State :=
  let v := csrGet s (0x0B00100 + 8 * i)
  if v = BitVec.allOnes 64 then s else csrPut s (0x0B00100 + 8 * i) (v + 1)

/-- The Ledger stepped by an offset. -/
def stepLedger (s : State) (th : Int) : State := { s with ledger := s.ledger + BitVec.ofInt 64 th }

/-- A sample of an offset from the source in use (R473, R474). Before the first lock an offset above 1,000 ns steps the Ledger,
and any other offset is slewed out. -/
def takeSample (s : State) (src : Nat) (th : Int) : State :=
  let a := th.natAbs
  let s1 := if !everLocked s && 1000 < a then modDisc (stepLedger s th) fun d => { d with slew := 0, phase := 0 }
    else modDisc s fun d => { d with slew := th }
  let s2 := modDisc s1 fun d => { d with
    good := if a ≤ 10 then d.good + 1 else 0, bad := if 40 < a then d.bad + 1 else 0, qualAt := s1.ledger }
  let s3 := csrSetField (csrSetField s2 ledgerStatus 31 0 (sat32 th)) ledgerStatus 61 60 src
  if 16 ≤ s3.disc.good then csrSetField s3 ledgerStatus 63 62 3
  else if 4 ≤ s3.disc.bad then csrSetField s3 ledgerStatus 63 63 0
  else s3

/-- A sample of a source counts while that source is the one in use. -/
def sampleFrom (s : State) (src : Nat) (th : Int) : State := if sourceNow s = src then takeSample s src th else s

/-- The offset that a beacon gives (R357): TX, ECHO_TX, ECHO_RX and the arrival. -/
def beaconOffset (tx echoTx echoRx rx : Nat) : Int :=
  let d : Int := (((rx : Int) - echoTx) - ((tx : Int) - echoRx)) / 2
  (tx : Int) + d - rx

/-- BEACON: its port keeps TX and the arrival for the echo, and the beacon port's offset is a sample. -/
def execBeacon (i : Nat) (s : State) : Host.Outcome State Fault Refusal :=
  .next (match rxEntry s i with
    | none => s
    | some h =>
      let b := h.bytes
      if flitType b ≠ 0xB then s else
      let tx := fieldAt b 16 8
      let s1 := modPort (consume s i h) h.port fun p => { p with beaconRx := BitVec.ofNat 64 tx, beaconAt := h.at_ }
      if h.port = csrField s 0x07C0000 21 16 then
        sampleFrom s1 1 (beaconOffset tx (fieldAt b 24 8) (fieldAt b 32 8) h.at_.toNat)
      else s1)

/-- LEDGER_SET: a write steps the Ledger to the value until it has first locked (R474). -/
def writeLedgerSet (s : State) (v : W64) : State := if everLocked s then s else { s with ledger := v }

/-- LEDGER_SET. -/
def execLedgerSet (value : W64) (s : State) : Host.Outcome State Fault Refusal := .next (writeLedgerSet s value)

/-- TIME_PPS: an edge less than 0.5 s after the previous one is ignored (R497); another yields the nearest whole second less the
Ledger. -/
def execTimePps (s : State) : Host.Outcome State Fault Refusal :=
  .next (
    let early := match s.disc.ppsAt with
      | some t => decide (now s < t.toNat + 500000000)
      | none => false
    if early then s else
    let s1 := modDisc s fun d => { d with ppsAt := some s.ledger }
    let sec := (now s + 500000000) / 1000000000 * 1000000000
    sampleFrom s1 3 ((sec : Int) - now s))

/-- LEDGER_SOURCE_TIMEOUT: no source has qualified for 2,000,000,000 ns: LOCKED clears and the Ledger free-runs. -/
def execLedgerSourceTimeout (s : State) : Host.Outcome State Fault Refusal :=
  .next (
    if sourceNow s ≠ 0 || now s < s.disc.qualAt.toNat + 2000000000 then s else
    modDisc (csrSetField (csrSetField s ledgerStatus 63 63 0) ledgerStatus 61 60 0) fun d => { d with good := 0, bad := 0, slew := 0 })

/-! ### PTP (R475) -/

/-- PTP may discipline the Ledger. -/
def ptpOn (s : State) : Bool := csrBit s 0x0200010 31

/-- A completed Sync is a sample once the path delay is known: the origin plus the delay less the arrival. -/
def ptpSample (s : State) : State :=
  match s.disc.t1, s.disc.delay with
  | some t1, some d => sampleFrom (if sourceNow s = 2 then mgCount s 3 else s) 2 ((t1.toNat : Int) + d - s.disc.t2.toNat)
  | _, _ => s

/-- PTP_SYNC from the chosen master: time-stamped; of a two-step master its Follow_Up brings the origin. -/
def execPtpSync (twoStep : Bool) (originNs master : W64) (s : State) : Host.Outcome State Fault Refusal :=
  .next (
    if !ptpOn s || s.disc.master ≠ some master then s else
    let s1 := modDisc s fun d => { d with syncAt := some s.ledger, t2 := s.ledger, t1 := if twoStep then none else some originNs }
    if twoStep then s1 else ptpSample s1)

/-- PTP_FOLLOW_UP completes the Sync of a two-step master. -/
def execPtpFollowUp (originNs : W64) (s : State) : Host.Outcome State Fault Refusal :=
  .next (
    if !ptpOn s || s.disc.syncAt.isNone || s.disc.t1.isSome then s
    else ptpSample (modDisc s fun d => { d with t1 := some originNs }))

/-- PTP_DELAY_REQ: a Delay_Req leaves for the chosen master, and its time is kept. -/
def execPtpDelayReq (s : State) : Host.Outcome State Fault Refusal :=
  .next (
    if !ptpOn s || s.disc.master.isNone || s.disc.t1.isNone then s else
    let frame := leBytes 1 1 ++ leBytes 1 (csrField s 0x0200010 15 8) ++ leBytes 1 (csrField s 0x0200010 29 29)
    { modDisc s fun d => { d with t3 := some s.ledger } with frames := s.frames ++ [frame] })

/-- PTP_DELAY_RESP completes the end-to-end delay measurement: half of the two one-way differences. -/
def execPtpDelayResp (receiptNs : W64) (s : State) : Host.Outcome State Fault Refusal :=
  .next (match s.disc.t1, s.disc.t3 with
    | some t1, some t3 =>
      let d : Int := (((s.disc.t2.toNat : Int) - t1.toNat) + ((receiptNs.toNat : Int) - t3.toNat)) / 2
      modDisc s fun x => { x with delay := some d, t3 := none }
    | _, _ => s)

/-- PTP_ANNOUNCE: the best master is the one of lowest priority value, then lowest identity; a chosen master that has sent no Sync
for 2,000,000,000 ns gives way (DEDUCED, log 26). -/
def execPtpAnnounce (master priority : W64) (s : State) : Host.Outcome State Fault Refusal :=
  .next (
    if !ptpOn s then s else
    let take : State := modDisc s fun d => { d with master := some master, prio := priority, syncAt := none, t1 := none, t3 := none, delay := none }
    match s.disc.master with
    | none => take
    | some m =>
      if m = master then modDisc s fun d => { d with prio := priority }
      else if priority < s.disc.prio || (priority = s.disc.prio && master < m) || (s.disc.syncAt.isSome && !recent s s.disc.syncAt) then take
      else s)

end Sys2Proof.Machine
end

