-- ==== Sys2Proof/Machine/BlockReset.lean ====
section
/-!
DEFINITION. Block resets (R454), loss of a clock (R453) and in-field scan (R467).
-/

namespace Sys2Proof.Machine

/-- RST_BLK. -/
def rstBlk : Nat := 0x0100018

/-- The engine that a KIND of RST_BLK names. -/
def kindEngine (k : Nat) : Option Engine :=
  match k with
  | 1 => some .ma
  | 2 => some .te
  | 3 => some .ee
  | 4 => some .ct
  | _ => none

/-- In-flight entries of an engine of a stall. -/
def engineEntries (s : State) (p : Nat) (g : Engine) : List (Nat × Entry) :=
  (liveEntries (stall s p)).filter fun e => e.2.engine = g

/-- KIND and TARGET name a block that may be reset: a whole stall must be SPARE or OUT_OF_SERVICE (R454; targets beyond a unit's
number are refused; DESIGN CHOICE, log 31). -/
def blockAllowed (s : State) (kind target : Nat) : Bool :=
  match kind with
  | 0 => decide (target < 832) && ((position s target).st = .spare || (position s target).st = .outOfService)
  | 1 => decide (target < 832)
  | 2 => decide (target < 832)
  | 3 => decide (target < 832)
  | 4 => decide (target < 832)
  | 5 => decide (target < 48) && portThere s target
  | 6 => decide (target < 2)
  | 7 => target = 0 && s.gate.bridge
  | _ => false

/-- The block is idle (R454). -/
def blockIdle (s : State) (kind target : Nat) : Bool :=
  match kindEngine kind with
  | some g => (engineEntries s target g).isEmpty
  | none =>
    match kind with
    | 0 => (liveEntries (stall s target)).isEmpty
    | 5 => (port s target).replay = []
    | 6 => (drover s target).gangs.all (fun g => g.2.isNone) && (drover s target).expands.all fun g => g.2.isNone
    | 7 => !(s.gate.xfers.any (·.begun))
    | _ => true

/-- What a forced reset does with the instructions of an engine: completion action, entry freed, destinations poisoned (R61). -/
def forceEngine (s : State) (p : Nat) (g : Engine) : State :=
  (engineEntries s p g).foldl (fun s e =>
    let s1 := modLive s p fun x => applyAct x (actOf e.2.word)
    dropEntry (poisonDest s1 p e.2.ctx e.2.word) p e.1) s

/-- A Matrix Array or stall after its reset: TALL, zero (R139, R462). -/
def resetEngine (s : State) (p : Nat) (g : Engine) : State :=
  match g with
  | .ma => modStall s p fun x => { x with ma := {}, tiles := [] }
  | _ => s

/-- A whole stall after its reset: what is lost with it; its IVR target is kept (R462). -/
def resetStall (s : State) (p : Nat) : State :=
  let v := csrField s (stallCsr p 0x300) 9 0
  let x := stall s p
  let s1 := setStall (csrClear s (stallCsr p 0) (stallCsr p 0x10000)) p { target := x.target, pwr := x.pwr }
  loftInvalidate (csrSetField s1 (stallCsr p 0x300) 9 0 v) fun q _ _ => q = p

/-- A forced reset of a whole stall. -/
def forceStall (s : State) (p : Nat) : State :=
  resetStall ([Engine.ma, .te, .ee, .ct, .yd, .drv].foldl (fun s g => forceEngine s p g) s) p

/-- A Drover's reset: as an abort for every context that holds entries in it (R260), registers at their reset values. -/
def resetDrover (s : State) (d : Nat) : State :=
  let s1 := (drover s d).expands.foldl (fun s e => match e.2 with
    | some x => drvNotices s d x.members
    | none => s) s
  csrClear (drvPump (modDrover s1 d fun _ => {})) (0x0300000 + d * 0x10000) (0x0310000 + d * 0x10000)

/-- A port's reset: it leaves DOWN, retrains and keeps its replay buffer (R338, R454). -/
def resetPort (s : State) (n : Nat) : State :=
  let s1 := leaveDown s n
  if (port s1 n).st = .disabled then s1 else beginRetrain s1 n

/-- Reset a block, by force where it is not idle. -/
def doBlockReset (s : State) (kind target : Nat) : State :=
  match kindEngine kind with
  | some g => resetEngine (forceEngine s target g) target g
  | none =>
    match kind with
    | 0 => forceStall s target
    | 5 => resetPort s target
    | 6 => resetDrover s target
    | _ => resetGatehouse s

/-- The block is reset with a RESULT; BUSY stays until its clock-good is set again. -/
def blockNow (s : State) (kind target result : Nat) : State :=
  modRst (csrSetField (doBlockReset s kind target) rstBlk 61 60 result) fun r => { r with blk := some (kind, target, true) }

/-- A write of RST_BLK: KIND and TARGET are stored; GO starts a request or is refused, and is ignored while BUSY. -/
def writeBlk (s : State) (v : W64) : State :=
  let x := v.toNat
  let old := csrGet s rstBlk
  let s1 := csrPut s rstBlk (BitVec.ofNat 64 (bitsOf old.toNat 62 60 * 2 ^ 60 + bitsOf x 59 56 * 2 ^ 56 + bitsOf x 9 0))
  let kind := bitsOf x 59 56
  let target := bitsOf x 9 0
  if !bitOf x 63 || s.rst.blk.isSome then s1
  else if !blockAllowed s kind target then csrSetField s1 rstBlk 61 60 3
  else
    let s2 := modRst (csrSetField s1 rstBlk 62 60 4) fun r => { r with blk := some (kind, target, false), blkAt := s.ledger }
    if blockIdle s2 kind target then blockNow s2 kind target 1 else s2

/-- BLOCK_RESET. -/
def execBlockReset (value : W64) (s : State) : Host.Outcome State Fault Refusal :=
  .next (if bitOf value.toNat 63 then writeBlk s value else s)

/-- BLOCK_RESET_TIMEOUT: the idle wait has run out; the block is reset whether or not it has gone idle. -/
def execBlockResetTimeout (s : State) : Host.Outcome State Fault Refusal :=
  .next (match s.rst.blk with
    | some (kind, target, false) =>
      if now s < s.rst.blkAt.toNat + 1000 * csrField s 0x0100008 15 0 then s
      else blockNow s kind target (if blockIdle s kind target then 1 else 2)
    | _ => s)

/-- BLOCK_RESET_DONE: the clock-good of a block that has been reset is set again, and BUSY clears; a block that has gone idle
meanwhile is reset first. -/
def execBlockResetDone (s : State) : Host.Outcome State Fault Refusal :=
  .next (match s.rst.blk with
    | some (kind, target, done) =>
      if !done && !blockIdle s kind target then s else
      let s1 := if done then s else blockNow s kind target 1
      modRst (csrSetField s1 rstBlk 62 62 0) fun r => { r with blk := none }
    | none => s)

/-- CLOCK_UNSTABLE: a domain loses clock-good after its release (R453). -/
def execClockUnstable (domain : Nat) (s : State) : Host.Outcome State Fault Refusal :=
  .next (
    if s.rst.phase = .asserted then s else
    match domain with
    | 0 => csrSetField (csrSetField (clockLost s 0x3FF) ledgerStatus 63 63 0) 0x0100020 0 0 0
    | 1 => requestReset (clockLost s 0x3FF) 2 9
    | 2 => requestReset (clockLost s 0x3FF) 2 9
    | 3 => requestReset (clockLost s 0x3FF) 2 9
    | n + 4 => if n < 832 then csrSetField (forceStall (clockLost s n) n) 0x0100020 4 4 0 else s)

/-! ### In-field scan (R467) -/

/-- A write of SCAN_CTL: POSITION is stored; GO names a SPARE position, and is ignored while a test runs. -/
def writeScan (s : State) (v : W64) : State :=
  let x := v.toNat
  let s1 := csrSetField s scanCtl 9 0 (bitsOf x 9 0)
  let p := bitsOf x 9 0
  if !bitOf x 63 || csrBit s scanCtl 62 || (position s p).st ≠ .spare then s1
  else modPos (csrSetField s1 scanCtl 62 60 4) p fun y => { y with scan := true }

/-- SCAN_START. -/
def execScanStart (value : W64) (s : State) : Host.Outcome State Fault Refusal :=
  .next (if bitOf value.toNat 63 then writeScan s value else s)

/-- SCAN_DONE: a stall that passes returns to SPARE, one that fails stays OUT_OF_SERVICE. -/
def execScanDone (pass : Bool) (s : State) : Host.Outcome State Fault Refusal :=
  .next (match scanning s with
    | none => s
    | some q =>
      if (position s q).st ≠ .outOfService then s else
      let s1 := csrSetField s scanCtl 62 60 (if pass then 1 else 2)
      if pass then setIvr (modStall (modPos s1 q fun x => { x with st := .spare, scan := false }) q fun x => { x with pwr := .run }) q
      else modPos s1 q fun x => { x with scan := false })

end Sys2Proof.Machine
end

