-- ==== Sys2Proof/Machine/LoadCode.lean ====
section
/-!
DEFINITION. The loader's checks of role code: subcodes ENCODING to CODE_STORE of R377, and the order of all subcodes.
-/

namespace Sys2Proof.Machine

/-! ### ENCODING (R130, R131) -/

/-- Illegal encodings. -/
def checkEncoding (L : Load) : Fails := (insOf L.bytes).flatMap fun x => needIns x (legalWord L.img x.w)

/-! ### OPERAND -/

/-- A handle with a Loft placement. -/
def inLoft (d : HDecl) : Bool := decide (d.place ≤ 1)
/-- A handle of 36-bit words (R140). -/
def isWords (d : HDecl) : Bool := decide (d.kind ≤ 2) || d.kind = 4
/-- A handle in the typed domain: a clear handle, or a raw one of INT32 or FP32 (R183). -/
def isTyped (d : HDecl) : Bool := d.kind = 3 || (d.kind = 4 && d.etype ≠ 0)
/-- An unchained raw handle of WORD36. -/
def isPlainRaw (d : HDecl) : Bool := d.kind = 4 && d.etype = 0 && (d.chain = 0xFF || isConv d)
/-- A limb held in parts under OWNER placement (R40, R179). -/
def isSplit (d : HDecl) : Bool := d.place = 1 && decide (1 ≤ (d.owners.headD {}).log2Parts)
/-- Ring degree of a handle's chain. -/
def degreeOf (img : Image) (d : HDecl) : Nat := 2 ^ ((chainOf img d.chain).getD {}).logN

/-- Matrix Array operands (R140, R149, R151). -/
def operandMa (img : Image) (w : W128) : Bool :=
  match opcodeOf w with
  | 0x10 => hA w = hNone && hD w = hNone
  | 0x13 =>
    let o := bitsOf (modE2 w) 2 0
    hA w = hNone && (if hD w = hTileq then decide (o ≤ 2) && offD w = 0 else match declOf img (hD w) with
      | none => false
      | some d => inLoft d && (match o with
        | 0 => d.kind ≤ 1 || d.kind = 4
        | 1 => d.kind = 4
        | 2 => d.kind = 4
        | 3 => d.layout = 0xA
        | 4 => d.layout = 9
        | _ => d.layout = 8))
  | _ => match declOf img (hA w), declOf img (hB w) with
    | some a, some b => inLoft a && inLoft b &&
        (if isWords a && isWords b then (match declOf img (hD w) with
            | some d => inLoft d && d.chain ≠ 0xFF
            | none => false)
         else hD w = hNone && ((a.kind = 3 && b.kind = 3) &&
          (((a.layout = 8 || a.layout = 0xB) && (b.layout = 8 || b.layout = 0xB)) || (a.etype = 4 && b.etype = 4) ||
           (a.etype = 5 && b.etype = 5) || ((a.etype = 3 || a.etype = 6) && (b.etype = 3 || b.etype = 6)))))
    | _, _ => false

/-- Transform Engine operands (R120, R172, R179, R180, R501). -/
def operandTe (L : Load) (x : Ins) : Bool :=
  let w := x.w
  let ws := (nget {} L.img.roles x.role).code
  match declOf L.img (hA w), declOf L.img (hD w) with
  | some a, some d =>
    let n := degreeOf L.img d
    let op := opcodeOf w
    let four := op = 0x33 || op = 0x34
    let half := four || (op = 0x32 && isSplit d)
    let limb (e : HDecl) : Bool := e.layout ≤ 1
    let pass := bitOf (modE2 w) 0
    inLoft a && inLoft d && isWords a && limb a && limb d && isModular d && d.chain ≠ 0xFF &&
    d.pitch * 16 = (if half then n / 2 else n) && offD w % d.pitch = 0 &&
    ((List.range 4).all fun l => (captured L.img x.role ws x.ix l (slotField 2)).all fun v => v % (d.pitch : Int) = 0) &&
    (if four then isSplit d && ((lidsOf L.img x.role).all fun l => ownersOf (deviceId L.s) d l ≠ []) &&
        (if pass then (if op = 0x33 then a.layout = 0 && d.layout = 1 else a.layout = 1 && d.layout = 0) else a.layout = 0 && d.layout = 0)
     else if op = 0x32 then
      decide (bitsOf (modE2 w) 16 0 < n) && (!isSplit d || (!bitOf (modE2 w) 17 && a.layout = 1 && d.layout = 1))
     else !isSplit d && !isSplit a)
  | _, _ => false

/-- Element Engine operands (R151, R152, R183, R185, R186). EE.CAST and EE.REDUCE accept a raw WORD36 handle, for which R183 and R187
give no domain or conversion (DESIGN CHOICE, log 108). -/
def operandEe (L : Load) (x : Ins) : Bool :=
  let w := x.w
  let img := L.img
  let ws := (nget {} img.roles x.role).code
  let op := opcodeOf w
  let e3 := (opInfo op).map (·.fmt) = some .e3
  let srcs := hA w :: (if e3 then [hB w] else [])
  let arith := (0x40 ≤ op && op ≤ 0x46) || op = 0x49 || op = 0x4A
  let needChain := op = 0x45 || op = 0x46 || op = 0x49 || op = 0x4A
  match declOf img (hD w) with
  | none => false
  | some d =>
    let ds := (srcs.filter (· ≠ hTileq)).map fun h => declOf img h
    let all := d :: ds.filterMap id
    let typed := all.any isTyped
    inLoft d && ds.all (fun y => match y with
      | some e => inLoft e
      | none => false) &&
    all.all (fun e => e.layout ≠ 0xB) &&
    -- the tile queue
    !(e3 && hA w = hTileq && hB w = hTileq) && (hA w ≠ hTileq || offA w = 0) && (!e3 || hB w ≠ hTileq || offB w = 0) &&
    ((hA w ≠ hTileq && !(e3 && hB w = hTileq)) || (countsOf img x.role ws x.ix w).all fun cs =>
      let loops : List Loop := cs.map fun v => { count := BitVec.ofNat 24 v.toNat }
      let lines := sumOf ((iterations loops (nestOf w)).map fun _ =>
        if op = 0x58 then (if d.etype = 3 || d.etype = 4 then 4 else if d.etype = 5 then 2 else 1) else 1)
      decide (lines ≤ 128) && lines % 16 = 0) &&
    -- domains
    (if arith && isModular d then
        (!(op = 0x45 || op = 0x46) || (hB w ≠ hTileq && (match declOf img (hB w) with
          | some b => b.kind = 1
          | none => false))) &&
        (op ≠ 0x49 || (match declOf img (hB w) with
          | some b => b.chain ≠ 0xFF && b.kind ≠ 3 && !isConv b
          | none => false))
     else if arith then
        !isPlainRaw d && !needChain && all.all isTyped && all.all fun e => e.etype = d.etype
     else if op = 0x58 || op = 0x59 then all.all fun e => decide (3 ≤ e.kind)
     else !typed || (all.all isTyped && all.all fun e => e.etype = d.etype))

/-- The layouts between which CT.LOAD, CT.STORE and CT.COPY change (R225). -/
def layoutsOk (a d : HDecl) : Bool :=
  let limb (e : HDecl) : Bool := e.layout ≤ 1 || e.layout = 4
  a.layout = d.layout || (limb a && limb d && a.pitch = d.pitch) ||
  (!limb a && !limb d && a.rows = d.rows && a.cols = d.cols && a.etype = d.etype)

/-- A CT.ATOM's far operand (R324). -/
def atomOk (f : HDecl) (op : Nat) : Bool :=
  f.place = 3 && (match op with
    | 0 => isModular f
    | 1 => f.kind = 4 && f.etype ≤ 1
    | 2 => f.kind = 4
    | 3 => f.kind = 4
    | _ => true)

/-- Whether a Granary piece lies in a peer window (R346). -/
def isPeerPiece (img : Image) (d : HDecl) : Bool := d.place = 3 && isPeerSlot img (pieceSlot d 0)

/-- Carter operands (R225, R231, R324, R346, R502). -/
def operandCt (img : Image) (w : W128) : Bool :=
  let op := opcodeOf w
  match op with
  | 0x76 => hA w = hNone && (match declOf img (hD w) with
    | some d => inLoft d
    | none => false)
  | 0x72 => match declOf img (hA w), declOf img (hD w) with
    | some a, some d => inLoft a && inLoft d && layoutsOk a d
    | _, _ => false
  | 0x70 => match declOf img (hA w), declOf img (hD w) with
    | some f, some n => decide (2 ≤ f.place) && inLoft n && layoutsOk f n && !isPeerPiece img f
    | _, _ => false
  | 0x71 => match declOf img (hA w), declOf img (hD w) with
    | some f, some n => decide (2 ≤ f.place) && inLoft n && layoutsOk n f
    | _, _ => false
  | 0x77 => match declOf img (hA w), declOf img (hD w) with
    | some f, some n =>
      let o := bitsOf (modC w) 2 0
      atomOk f o && inLoft n && f.layout = n.layout && (decide (o < 4) || !isPeerPiece img f)
    | _, _ => false
  | _ => match declOf img (hA w), declOf img (hB w), declOf img (hD w) with
    | some a, some b, some d => inLoft a && inLoft b && inLoft d && b.kind = 4 && b.etype = 1 && a.etype = d.etype &&
        a.layout = d.layout && (op ≠ 0x75 || isModular d)
    | _, _, _ => false

/-- Yard operands (R123, R225, R270). -/
def operandYd (img : Image) (w : W128) : Bool :=
  let op := opcodeOf w
  if 0x92 ≤ op then hA w = hNone && hD w = hNone else
  match declOf img (hA w), declOf img (hD w) with
  | some a, some d => inLoft a && inLoft d && a.layout = d.layout && (op ≠ 0x90 || destLid w ≠ 0x3FF || d.place = 1)
  | _, _ => false

/-- Drover operands (R246, R247, R502). The slot-2 increments of a DRV.WT, whose D is NONE, are not checked (DESIGN CHOICE, log 109). -/
def operandDrv (L : Load) (x : Ins) : Bool :=
  let w := x.w
  let ws := (nget {} L.img.roles x.role).code
  let zero (slot : Nat) : Bool := (addedIncs L.img x.role ws x.ix slot w).all (· = 0)
  match declOf L.img (hA w), declOf L.img (hB w) with
  | some a, some b =>
    a.place = 2 && inLoft b && b.kind = 4 && b.etype = 0 && offA w = 0 && zero 0 &&
    (if opcodeOf w = 0xA0 then a.kind = 2 && offD w = 0 && zero 2 && (match declOf L.img (hD w) with
        | some d => d.kind = 0 && d.chain = a.chain
        | none => false)
     else hD w = hNone && (a.kind = 1 || a.kind = 3 || a.kind = 4))
  | _, _ => false

/-- Actions and the handles they need (R57, R108, R131). -/
def actionsOk (img : Image) (fmt : Fmt) (w : W128) : Bool :=
  let ds := (handlesOf w).filterMap (declOf img)
  let clear := clearMode img fmt w
  let act := mactOf w
  let (a, _, d) := actionOps w
  let dest := declOf img d
  let rec_ (h : Nat) : Bool := carriesRecord img w h
  !(ds.any isClear && ds.any hasRecord) &&
  (clear || (act = 0 && !mOf w) || (match dest with
    | some e => decide (e.kind ≤ 1)
    | none => false)) &&
  (clear || !(act = 1 || decide (4 ≤ act)) || rec_ a) &&
  (clear || act = 0 || fmt ≠ .c || (match declOf img (hA w) with
    | some f => f.place ≠ 3 || hasRecord f
    | none => false))

/-- Operands of an instruction. -/
def operandOk (L : Load) (x : Ins) : Bool :=
  let w := x.w
  let op := opcodeOf w
  match opInfo op with
  | none => true
  | some o =>
    if o.fmt = .s then
      (op ≠ 0xC8 || (match declOf L.img (wf_ w 19 8) with
        | some d => hasRecord d
        | none => false)) && (op ≠ 0xC9 || (declOf L.img (wf_ w 19 8)).isSome)
    else
      (handlesOf w).all (fun h => (declOf L.img h).isSome) && actionsOk L.img o.fmt w &&
      (match o.eng with
        | .ma => operandMa L.img w
        | .te => operandTe L x
        | .ee => operandEe L x
        | .ct => operandCt L.img w
        | .yd => operandYd L.img w
        | .drv => operandDrv L x)

/-- The OPERAND checks. -/
def checkOperands (L : Load) : Fails := (insOf L.bytes).flatMap fun x => needIns x (operandOk L x)

/-! ### RESOURCE (R58, R131) -/

/-- Flags, counters and comparators that an instruction names. -/
def namesOf (w : W128) : List Nat × List Nat × List Nat :=
  let op := opcodeOf w
  match op with
  | 0xB0 => ([wf_ w 15 8], [], [])
  | 0xB1 => ([wf_ w 15 8], [], [])
  | 0xD0 => ([], [wf_ w 11 8], [])
  | 0xD1 => ([], [wf_ w 11 8], [])
  | 0xD2 => ([], [wf_ w 11 8], [])
  | 0xD4 => ([wf_ w 31 24], [wf_ w 14 11], [wf_ w 10 8])
  | 0xD5 => ([], [], [wf_ w 10 8])
  | 0xE2 => ([], [wf_ w 11 8], [])
  | 0xE9 => ([], [wf_ w 11 8], [])
  | 0xEA => ([wf_ w 15 8], [], [])
  | 0xF2 => ([], if wf_ w 10 10 = 1 then [wf_ w 14 11] else [], [])
  | _ =>
    if op = 0xB2 || op = 0xB3 then (((List.range 32).filter fun j => bitOf (wf_ w 63 32) j).map fun j => 32 * wf_ w 10 8 + j, [], []) else
    match opInfo op with
    | none => ([], [], [])
    | some { fmt := .s, .. } => ([], [], [])
    | some _ =>
      ((if wf_ w 15 15 = 1 then [wf_ w 24 17] else []) ++ (if wf_ w 25 25 = 1 then [wf_ w 34 27] else []) ++
        (if wf_ w 36 35 ≠ 0 then [wf_ w 44 37] else []) ++ (if op = 0x92 || op = 0x94 then [bitsOf (modE2 w) 17 10] else []),
       (if wf_ w 45 45 = 1 then [wf_ w 49 46] else []) ++ (if op = 0x93 || op = 0x95 then [bitsOf (modE2 w) 13 10] else []), [])

/-- Whether the claims cover what an instruction names, and its levels stay in range. -/
def resourceOk (img : Image) (w : W128) : Bool :=
  let q := img.claims
  let op := opcodeOf w
  let (fs, cs, ks) := namesOf w
  fs.all (fun f => decide (f < q.flags)) && cs.all (fun c => decide (c < q.counters)) && ks.all (fun k => decide (k < q.cmps)) &&
  (!(op = 0xC0 || op = 0xC1) || (match wf_ w 9 8 with
    | 0 => img.mcast.any fun m => m.barrier && m.index = wf_ w 15 10
    | 1 => decide (wf_ w 15 10 ≤ 3) && bitOf q.devbar (wf_ w 15 10)
    | _ => decide (wf_ w 15 10 ≤ 15) && bitOf q.sysbar (wf_ w 15 10))) &&
  (op ≠ 0x91 || img.mcast.any fun m => m.index = bitsOf (modE2 w) 7 0) &&
  (op ≠ 0xC8 || ((chainOf img (wf_ w 29 26)).isSome && decide (wf_ w 25 20 ≤ (decl img (wf_ w 19 8)).capacity))) &&
  (match opInfo op with
    | some o => !bitOf o.acts 5 || clearMode img o.fmt w || mactOf w ≠ 5 || decide (1 ≤ lvlOf w)
    | none => true) &&
  (op ≠ 0x4A || mactOf w ≠ 6 || decide (lvlOf w ≤ (decl img (hD w)).capacity))

/-- The RESOURCE checks. -/
def checkResources (L : Load) : Fails := (insOf L.bytes).flatMap fun x => needIns x (resourceOk L.img x.w)

/-! ### CONTROL (R118) -/

/-- Two bodies where neither contains the other and they meet, or which share their last instruction. -/
def bodiesClash (a b : Nat × Nat × Nat) : Bool :=
  let inside (p q : Nat × Nat × Nat) : Bool := decide (q.2.1 ≤ p.2.1) && decide (p.2.2 ≤ q.2.2)
  (decide (a.2.1 ≤ b.2.2) && decide (b.2.1 ≤ a.2.2) && !inside a b && !inside b a) || a.2.2 = b.2.2

/-- One instruction under R118. -/
def controlOk (ws : List W128) (i : Nat) (w : W128) : Bool :=
  let op := opcodeOf w
  let ends := wf_ w 39 16
  let body (l : Nat) (j : Nat) : Bool := (bodies ws).any fun b => b.1 = l && b.2.1 ≤ j && j ≤ b.2.2
  let engine := match opInfo op with
    | some { fmt := .s, .. } => false
    | none => false
    | _ => true
  (op ≠ 0xF2 || (decide (i < ends) && decide (ends < ws.length) && !body (wf_ w 9 8) i &&
    !(((bodies ws).filter fun b => b.2.1 ≠ i + 1).any fun b => bodiesClash (wf_ w 9 8, i + 1, ends) b) &&
    (match ws[ends]? with
      | some v => !((branchGoal v).isSome || opcodeOf v = 0xF2 || opcodeOf v = 0xFE)
      | none => false))) &&
  (!(op = 0xF0 || op = 0xF1) || !body (wf_ w 9 8) i) &&
  (!engine || (List.range (nestOf w)).all fun l => !body l i) &&
  (match branchGoal w with
    | none => true
    | some t => decide (t < ws.length) && (bodies ws).all fun b => !(b.2.1 ≤ t && t ≤ b.2.2) || (b.2.1 ≤ i && i ≤ b.2.2))

/-- The CONTROL checks. -/
def checkControl (L : Load) : Fails :=
  (insOf L.bytes).flatMap fun x => needIns x (controlOk (nget {} L.img.roles x.role).code x.ix x.w)

/-! ### STEP (R31, R94) -/

/-- Handles whose local records a step's instruction can update, with the stalls: none stands for the issuing stall. -/
def recordUpdates (img : Image) (dev : Nat) (w : W128) : Option (Nat × Option (List Nat)) :=
  let fmt := ((opInfo (opcodeOf w)).map (·.fmt)).getD .s
  if fmt = .s || clearMode img fmt w || !mOf w then none else
  let op := opcodeOf w
  if op = 0x91 then some (hD w, some (setMembers img (bitsOf (modE2 w) 7 0)))
  else if op = 0x90 then some (hD w, some (putDests img dev w))
  else some ((actionOps w).2.2, none)

/-- The steps of a Team: the instructions reached from each start or TIME.FENCE without passing another. -/
def stepsOf (img : Image) (role t : Nat) : List (List W128) :=
  let ws := (nget {} img.roles role).code
  let fence (i : Nat) : Bool := match ws[i]? with
    | some w => opcodeOf w = 0xE0
    | none => false
  let starts := startsOf img role t
  let fences := (reach ws (fun _ => false) starts).filter fence
  (starts.map fun i => reach ws fence [i]).map (fun is => is.filterMap fun i => ws[i]?) ++
  (fences.map fun i => reach ws fence (succs ws i)).map fun is => is.filterMap fun i => ws[i]?

/-- The largest count of handles that any one step of a Team updates on a stall. -/
def teamCount (img : Image) (dev role t lid : Nat) : Nat :=
  ((stepsOf img role t).map fun st =>
    ((st.filterMap (recordUpdates img dev)).filter fun u => match u.2 with
      | none => roleOf img lid = role
      | some ls => ls.contains lid).map (·.1) |>.dedup.length).foldl max 0

/-- The stalls whose local records a role's code can update: those that run it, and those that its sends reach (R94). -/
def updatedLids (img : Image) (dev role : Nat) : List Nat :=
  (lidsOf img role ++ (nget {} img.roles role).code.flatMap fun w => match recordUpdates img dev w with
    | some (_, some ls) => ls
    | _ => []).dedup

/-- The STEP checks. -/
def checkSteps (L : Load) : Fails :=
  let img := L.img
  let dev := deviceId L.s
  (rcdsOf L.bytes 4).flatMap (fun r => need r (decide (fieldAt r.bytes 4 4 ≤ 128000))) ++
  (codeSects L.bytes).flatMap fun c =>
    if (updatedLids img dev c.1).all fun lid =>
      decide (sumOf ((codeSects L.bytes).flatMap fun k => [0, 1, 2, 3].map fun t => teamCount img dev k.1 t lid) ≤ 48)
    then [] else [(c.2.1 + 1, 0)]

/-! ### CODE_STORE (R132) -/

/-- Every stall has room for its role's code. -/
def checkStore (L : Load) : Fails :=
  (rcdsOf L.bytes 2).flatMap fun r =>
    let role := fieldAt r.bytes 0 2
    need r (role = 0xFFFF || match posOfLid L.s r.ix with
      | none => true
      | some p => (codeRoom (stall L.s p) (nget {} L.img.roles role).code.length).isSome)

/-! ### The order of the subcodes (R377) -/

/-- The first failure of a subcode: lowest section, the header before all, then lowest index. -/
def firstFail (fs : Fails) : Option (Nat × Nat) :=
  fs.foldl (fun b f => match b with
    | none => some f
    | some x => if f.1 * 2 ^ 32 + f.2 < x.1 * 2 ^ 32 + x.2 then some f else b) none

/-- The loader's verdict: subcode, SECTION and INDEX of the first failure; PACKAGE (0x03) is the Tack Room's. -/
def loaderVerdict (L : Load) : Option (Nat × Nat × Nat) :=
  let checks : List (Nat × (Load → Fails)) :=
    [(1, checkImage), (2, checkGrade), (4, checkClaims), (5, checkLoft), (6, checkPlans), (7, checkRegions), (8, checkWindows),
     (9, checkChains), (0xA, checkHandles), (0xB, checkKeys), (0xC, checkMcast), (0xD, checkAbsent), (0xE, checkEncoding),
     (0xF, checkOperands), (0x10, checkResources), (0x11, checkControl), (0x12, checkSteps), (0x13, checkStore)]
  checks.findSome? fun k => (firstFail (k.2 L)).map fun f => (k.1, if f.1 = 0 then 0xFFFF else f.1 - 1, f.2)

end Sys2Proof.Machine
end

