-- ==== Sys2Proof/WellFormed.lean ====
section
/-!
DEFINITION. Well-formed commands: every operand within the range that the spec gives it. A command that is not
well formed names something that the device does not have; no meaning relies on well-formedness.
-/

namespace Sys2Proof

/-- An access of some bytes that lies inside a window of the given size. -/
def accessFits (off : Nat) (a : Access) (size : Nat) : Bool :=
  match a with
  | .read len => decide (off + len ≤ size)
  | .write data => decide (off + data.length ≤ size)

/-- A width and speed of the PCI Express link and a number of VFs that the Gatehouse supports: x1 to x16, 2.5 to 64 GT/s, 0 to 63
(R362; the codes of the width and speed are PCI Express's own, PRESUMED, log 29). -/
def linkFits (width speed numVfs : Nat) : Bool :=
  [1, 2, 4, 8, 16].contains width && decide (1 ≤ speed) && decide (speed ≤ 6) && decide (numVfs ≤ 63)

/-- Every operand is in range (R16, R71, R80, R198, R367, R431). -/
def Instr.wf (i : Instr) : Bool :=
  match i with
  | .maForm p _ => decide (p < 832)
  | .maMac p _ => decide (p < 832)
  | .maMacz p _ => decide (p < 832)
  | .maDrain p _ => decide (p < 832)
  | .teNtt p _ => decide (p < 832)
  | .teIntt p _ => decide (p < 832)
  | .teAuto p _ => decide (p < 832)
  | .teNtt4 p _ => decide (p < 832)
  | .teIntt4 p _ => decide (p < 832)
  | .eeAdd p _ => decide (p < 832)
  | .eeSub p _ => decide (p < 832)
  | .eeNeg p _ => decide (p < 832)
  | .eeMul p _ => decide (p < 832)
  | .eeMac p _ => decide (p < 832)
  | .eeMulc p _ => decide (p < 832)
  | .eeAddc p _ => decide (p < 832)
  | .eeMov p _ => decide (p < 832)
  | .eeBcast p _ => decide (p < 832)
  | .eeRescale p _ => decide (p < 832)
  | .eeModraise p _ => decide (p < 832)
  | .eeCmpeq p _ => decide (p < 832)
  | .eeCmplt p _ => decide (p < 832)
  | .eeSel p _ => decide (p < 832)
  | .eeMin p _ => decide (p < 832)
  | .eeMax p _ => decide (p < 832)
  | .eeCast p _ => decide (p < 832)
  | .eeReduce p _ => decide (p < 832)
  | .ctLoad p _ => decide (p < 832)
  | .ctStore p _ => decide (p < 832)
  | .ctCopy p _ => decide (p < 832)
  | .ctGather p _ => decide (p < 832)
  | .ctScatter p _ => decide (p < 832)
  | .ctScatteracc p _ => decide (p < 832)
  | .ctFill p _ => decide (p < 832)
  | .ctAtom p _ => decide (p < 832)
  | .ydPut p _ => decide (p < 832)
  | .ydMcast p _ => decide (p < 832)
  | .ydFlag p _ => decide (p < 832)
  | .ydCadd p _ => decide (p < 832)
  | .ydBflag p _ => decide (p < 832)
  | .ydBcadd p _ => decide (p < 832)
  | .drvKey p _ => decide (p < 832)
  | .drvWt p _ => decide (p < 832)
  | .flSet p _ => decide (p < 832)
  | .flClr p _ => decide (p < 832)
  | .flMset p _ => decide (p < 832)
  | .flMclr p _ => decide (p < 832)
  | .barArrive p _ => decide (p < 832)
  | .barWait p _ => decide (p < 832)
  | .hdlSet p _ => decide (p < 832)
  | .hdlFetch p _ => decide (p < 832)
  | .cntSet p _ => decide (p < 832)
  | .cntAdd p _ => decide (p < 832)
  | .cntQdepth p _ => decide (p < 832)
  | .cmpArm p _ => decide (p < 832)
  | .cmpDisarm p _ => decide (p < 832)
  | .timeFence p _ => decide (p < 832)
  | .timeBase p _ => decide (p < 832)
  | .timeRead p _ => decide (p < 832)
  | .br p _ => decide (p < 832)
  | .brCnt p _ => decide (p < 832)
  | .brFlag p _ => decide (p < 832)
  | .loopSet p _ => decide (p < 832)
  | .loopInc p _ => decide (p < 832)
  | .loopDo p _ => decide (p < 832)
  | .teamYield p _ => decide (p < 832)
  | .teamCfg p _ => decide (p < 832)
  | .halt p _ => decide (p < 832)
  | .engineInstructionComplete p n _ => decide (p < 832) && decide (n < 16)
  | .arbitration p n line orig redo predicted => decide (p < 832) && decide (n < 16) && decide (line < 10912) && decide (orig.length = 16) && decide (redo.length = 16) && decide (predicted < 8191)
  | .fenceRelease p _ => decide (p < 832)
  | .comparatorFire p _ => decide (p < 832)
  | .flagTimeout p _ => decide (p < 832)
  | .handleFetchComplete _ => true
  | .remoteLineWrite _ _ => true
  | .levelHoldExpiry _ => true
  | .remoteCompletionArrival _ => true
  | .remoteFlagWrite _ => true
  | .copyRequest _ => true
  | .copyReturn _ _ => true
  | .writeAck _ => true
  | .arrivalPosted p k => decide (p < 832) && decide (k < 192)
  | .barrierArrivalAtRoot _ => true
  | .barrierRelease _ => true
  | .deviceBarrierComplete _ => true
  | .writeBackRecord _ => true
  | .epochCommit _ => true
  | .stepAbort _ => true
  | .contextDrained _ => true
  | .rollback _ => true
  | .contextSwitch => true
  | .quantumExpiry => true
  | .stallGate p => decide (p < 832)
  | .stallNap p => decide (p < 832)
  | .stallWake p => decide (p < 832)
  | .ageingMeasurement p _ => decide (p < 832)
  | .paritySweep p => decide (p < 832)
  | .loftWindowAccess _ p off a => decide (p < 832) && accessFits off a 0x100000
  | .granaryWindowAccess _ off a => accessFits off a 0x10000000
  | .drvRequest _ _ => true
  | .gangWaitExpiry _ _ => true
  | .seedCheck _ _ _ => true
  | .poisonNotice _ => true
  | .drvComplete p n => decide (p < 832) && decide (n < 16)
  | .hbmReadRequest _ _ => true
  | .hbmWriteRequest _ _ _ => true
  | .hbmReadReturn _ _ => true
  | .writeCombineTimeout _ _ _ => true
  | .rowRepair st _ _ _ errs => errs.all (fun e => decide (e.1 / 2 ^ 28 = st.val))
  | .refresh _ _ _ => true
  | .patrol _ _ _ => true
  | .regionInitDone _ => true
  | .regionScrubDone _ => true
  | .hbmLoopStart _ _ => true
  | .hbmLoopDone _ errors => decide (errors < 2 ^ 32)
  | .granaryRequest _ _ _ => true
  | .granaryFill _ _ _ => true
  | .granaryWriteback _ => true
  | .atomicResult _ => true
  | .idle _ _ => true
  | .nak _ _ => true
  | .flitReceive _ _ => true
  | .replayTimeout _ => true
  | .linkTrained _ _ => true
  | .trainingTimeout _ => true
  | .flitForward _ => true
  | .flitLifetimeExpiry _ _ => true
  | .write _ _ => true
  | .atomic _ _ => true
  | .commit _ => true
  | .wack _ => true
  | .wackSend _ _ => true
  | .wackWaitExpiry _ _ => true
  | .revoke _ => true
  | .gap _ => true
  | .commitWaitExpiry _ _ => true
  | .commandFlit _ => true
  | .resetFlit _ => true
  | .beacon _ => true
  | .beaconSend _ => true
  | .barrierToken _ => true
  | .portRetrain _ => true
  | .intakePacket fn off a => accessFits off a (if fn = 0 then 0x1000000 else 0x4000) && accessFits (off % 4096) a 4096
  | .load _ => true
  | .install _ => true
  | .start _ => true
  | .startComplete _ => true
  | .supply _ => true
  | .retire _ => true
  | .xferIn _ => true
  | .abort _ => true
  | .unload _ => true
  | .nop _ => true
  | .completion _ => true
  | .outboundWrite _ => true
  | .apertureAccess off a _ => accessFits off a 0x8000000000
  | .registerWrite _ _ width _ => decide (width = 4 ∨ width = 8)
  | .stallPwrRead p => decide (p < 832)
  | .preemptMaxRead => true
  | .railStatusRead => true
  | .clkStatusRead => true
  | .mgPowerRead => true
  | .alertClear _ => true
  | .ledgerSet _ => true
  | .replayStart _ => true
  | .replayDiverge => true
  | .daybookExtend => true
  | .releaseRequest _ => true
  | .gateStep _ => true
  | .shareInstall _ => true
  | .shareClear _ => true
  | .getVersion _ => true
  | .getCapabilities _ => true
  | .negotiateAlgorithms _ _ => true
  | .getDigests _ => true
  | .getCertificate _ slot _ _ => decide (slot < 8)
  | .challenge _ slot nonce => decide (slot < 8) && decide (nonce.length = 32)
  | .getMeasurements _ ix nonce => decide (ix < 256) && decide (nonce.length = 32)
  | .keyExchange _ _ _ => true
  | .finish _ _ _ => true
  | .keyUpdate _ _ => true
  | .heartbeat _ _ => true
  | .endSession _ _ => true
  | .ideKm _ _ _ => true
  | .quote _ nonce _ => decide (nonce.length = 32)
  | .kemKey _ => true
  | .modmul w _ _ _ _ => decide (1 ≤ w) && decide (w ≤ 16)
  | .modexp w _ _ _ _ => decide (1 ≤ w) && decide (w ≤ 16)
  | .ecmulW _ _ _ _ _ _ => true
  | .ecmulM _ _ _ _ => true
  | .clear => true
  | .curveLoad _ _ => true
  | .smithyComplete => true
  | .debugAccess _ _ => true
  | .extest => true
  | .idcode => true
  | .samplePreload => true
  | .clamp => true
  | .highz => true
  | .dapAccess => true
  | .bypass => true
  | .powerOnReset => true
  | .sysRstN _ => true
  | .perstN _ => true
  | .watchdogExpiry => true
  | .wdogService _ => true
  | .yardmasterFatalError => true
  | .resetRelease => true
  | .boot _ images _ => decide (images.length = 3)
  | .clockUnstable domain => decide (domain < 836)
  | .blockReset _ => true
  | .blockResetTimeout => true
  | .blockResetDone => true
  | .firmwareActivate => true
  | .firmwareRevert _ => true
  | .scanStart _ => true
  | .scanDone _ => true
  | .marginTableWrite => true
  | .droopEpisodeStart _ => true
  | .droopEpisodeEnd _ => true
  | .brownout _ _ _ => true
  | .thermalLimit p _ => decide (p < 832)
  | .thermalEpisodeEnd p _ => decide (p < 832)
  | .thermalTrip _ _ => true
  | .tripRecovery => true
  | .ptpSync _ _ _ => true
  | .ptpFollowUp _ => true
  | .ptpDelayResp _ => true
  | .ptpAnnounce _ _ => true
  | .timePps => true
  | .ledgerSourceTimeout => true
  | .faultReportIntake _ => true
  | .telemetry _ _ _ _ _ _ => true
  | .setEndpointId _ _ => true
  | .getEndpointId _ => true
  | .getMctpVersionSupport _ _ => true
  | .getMessageTypeSupport _ => true
  | .csrRead _ _ width => decide (width < 256)
  | .csrWrite _ _ width _ => decide (width < 256)
  | .subscribe _ slot _ telem => decide (slot < 256) && decide (telem < 256)
  | .reportGet _ _ => true
  | .mgmtReset _ _ => true
  | .flashWrite _ off data => decide (off < 2 ^ 32) && decide (data.length ≤ 4096)
  | .directory _ _ => true
  | .fabricKey _ _ _ => true
  | .svnRaise _ _ => true
  | .telemetryGet _ => true
  | .portEnable _ _ => true
  | .pciExpressLinkUp width speed numVfs _ => linkFits width.toNat speed.toNat numVfs
  | .pciExpressLinkDown => true
  | .doeDiscovery _ => true
  | .trstN => true
  | .dynamicAddressAssignment _ => true
  | .arpRequest _ _ _ => true
  | .dhcpv4Reply _ _ _ => true
  | .dhcpv4LeaseTimer => true
  | .managementPortLinkChange _ => true
  | .ptpDelayReq => true
  | .unsupportedMctpMessage _ _ => true
  | .undefinedManagementOp _ _ => true

end Sys2Proof
end

