-- ==== Sys2Proof/Machine/Transfer.lean ====
section
/-!
DEFINITION. What the Gatehouse does for XFER_IN (R386) and the aperture (R365), and its PCI Express link (R361 to R364).
-/

namespace Sys2Proof.Machine

/-! ### XFER_IN at the Gatehouse (R386) -/

/-- Its turn: every earlier command of the ring has completed. -/
def xferTurn (s : State) (x : Xfer) : Bool := nget 0 s.gate.doneSeq x.ring = x.packet.seq.toNat

/-- Line k that a transfer reads from host memory. -/
def hostLine (s : State) (addr k : Nat) : Line := lineOfBytes (memRead s.hostMem (addr + 72 * k) 72)

/-- Change a flow of the Gatehouse as a source. -/
def modGateFlow (s : State) (ring : Nat) (f : Flow → Flow) : State :=
  { s with gate := { s.gate with flows := nmod {} s.gate.flows ring f } }

/-- Send a WRITE flit of the Gatehouse on a ring's flow (R347, R350, R386). -/
def gateWrite (s : State) (ring dst epoch : Nat) (q : List (Nat × Line)) (tally : Option Nat) : State :=
  let f := nget {} s.gate.flows ring
  let flit := gateFlit s 2 0 dst f.dseq (writeFlags q.length false tally.isSome)
    (writeBody f.job (epoch % 2 ^ 32) ((q.map (·.1)).headD 0) 0 (tally.getD 0) (q.map (·.2)))
  let w : Sent := { dseq := f.dseq, lines := q.length, epoch := epoch, at_ := s.ledger }
  sendFlit (modGateFlow s ring fun g => { g with dst := dst, dseq := (g.dseq + 1) % 2 ^ 16, sent := g.sent ++ [w] }) 0 flit

/-- The context's window that holds a slot on the bridge itself ends at this slot; elsewhere the Gatehouse does not know the
windows, and every line is sent (DESIGN CHOICE, log 25). -/
def windowEnd (s : State) (c slot : Nat) : Nat :=
  let x := ctx s c
  if x.st = .staged then roundUp (ceilDiv x.imgBytes 72) 32
  else match exportWindow s c slot with
    | some w => (w.offset + w.size) / 128
    | none => slot

/-- MODE 0 begins: the lines leave as WRITE flits of one epoch. -/
def beginWindow (s : State) (x : Xfer) : State :=
  let c := x.ring % 64
  let b := x.packet.data
  let dst := csrField s (0x0800200 + 4 * (x.ring / 64)) 14 0
  let slot := fieldAt b 0x20 8
  let n := fieldAt b 0x18 4
  let keep := if dst = deviceId s then min n (windowEnd s c slot - slot) else n
  let ls := (List.range keep).map fun k => (slot + k, hostLine s (fieldAt b 0x10 8) k)
  let e := s.gate.epoch + 1
  let s1 := { s with gate := { s.gate with epoch := e, xfers := s.gate.xfers.map fun y =>
    if y.ring = x.ring && y.packet.seq = x.packet.seq then { y with begun := true, range := decide (keep < n) } else y } }
  (peerLoads id ls).foldl (fun s q => gateWrite s x.ring dst e q.1 q.2) (modGateFlow s1 x.ring fun g => { g with dst := dst })

/-- Take a transfer off the Gatehouse and pass its packet to the member with a mark. -/
def endXfer (s : State) (x : Xfer) (mark : Nat) : State :=
  passOn { s with gate := { s.gate with xfers := s.gate.xfers.filter fun y => !(y.ring = x.ring && y.packet.seq = x.packet.seq) } }
    (x.ring / 64) (x.ring % 64) (if mark = 0 then x.packet else marked x.packet mark)

/-- After every WACK: COMMIT of the epoch, or REVOKE of it where a write failed (R354), and the packet goes on. -/
def finishWindow (s : State) (x : Xfer) : State :=
  let f := nget {} s.gate.flows x.ring
  let e := s.gate.epoch
  let s1 := if x.bad then sendFlit (rlDevCount s 3) 0 (gateFlit s 6 1 f.dst 0 0 (leBytes 4 f.job ++ leBytes 4 e ++ leBytes 2 f.dseq)) else s
  let s2 := sendFlit s1 0 (gateFlit s1 4 0 f.dst f.dseq 0 (leBytes 4 f.job ++ leBytes 4 (if x.bad then e - 1 else e)))
  endXfer (modGateFlow s2 x.ring fun g => { g with dseq := (g.dseq + 1) % 2 ^ 16 }) x (if x.bad then 5 else if x.range then 2 else 0)

/-- MODE 1 on the bridge: the lines go to the device address as a packed piece holds them, if a LIVE retry region of the context
holds them all; the Granary first drops the lines whose backing they overlap (R327). -/
def xferDevice (s : State) (x : Xfer) : State :=
  let c := x.ring % 64
  let b := x.packet.data
  let a := fieldAt b 0x20 8
  let n := 72 * fieldAt b 0x18 4
  if csrField s (0x0800200 + 4 * (x.ring / 64)) 14 0 ≠ deviceId s || (ctx s c).st ≠ .resident then endXfer s x 0
  else if !(s.hbm.regions.any fun r => r.2.st = .live && r.2.cls = 0 && r.2.owner = c && r.2.base ≤ a && a + n ≤ r.2.limit + 1) then endXfer s x 2
  else
    let s1 := discardLines s fun k slot => k = c && match backingOf s c slot with
      | some y => decide (a < y + 72) && decide (y < a + n)
      | none => false
    let data := (List.range (n / 72)).flatMap fun k => lineBytes (hostLine s (fieldAt b 0x10 8) k)
    endXfer (writeBytes s1 ((data.zipIdx).map fun (v, i) => (a + i, v)) false) x 0

/-- The Gatehouse's part of XFER_IN for the rings of context c: a transfer begins in its turn and ends when its writes are
acknowledged. One transfer uses the Gatehouse's epoch at a time. -/
def gateXfers (s : State) (c : Nat) : State :=
  if !s.gate.bridge then s else
  match s.gate.xfers.find? fun x => x.ring % 64 = c && xferTurn s x with
  | none => s
  | some x =>
    if x.begun then if (nget {} s.gate.flows x.ring).sent = [] then finishWindow s x else s
    else if fieldAt x.packet.data 0x1C 1 = 1 then xferDevice s x
    else if nget 0 s.gate.jobs x.ring = 0 then endXfer s x 0
    else if s.gate.xfers.any (·.begun) then s
    else beginWindow s x

/-! ### The aperture (R365) -/

/-- The LIVE retry region of the aperture's context that holds an address. -/
def apertureRegion (s : State) (a : Nat) : Option Nat :=
  let c := csrField s 0x0800010 6 0
  if c = 64 then none else
  match regionFor s c a with
  | some i => if (regionAt s i).cls = 0 then some i else none
  | none => none

/-- A refused aperture access is counted, and by the controller where its last byte lies in a stack's window. -/
def apertureRefused (s : State) (last : Nat) : State :=
  let s1 := ghCount s 3
  if last < 2 ^ 39 then hbmCount s1 (stackOf last) 7 1 else s1

/-- The bytes of an aperture read, granule by granule: granules and their bytes, whether one came back poisoned. -/
def apertureRead (s : State) (gs : List Nat) (errs : MemErrs) : List (Nat × List Byte) × Bool × State :=
  gs.foldl (fun (acc : List (Nat × List Byte) × Bool × State) g =>
    match apertureRegion acc.2.2 (g * 256) with
    | none => acc
    | some i =>
      let (d, p, s1) := readRequest acc.2.2 (regionAt acc.2.2 i) g (errs.at_ g) false
      (acc.1 ++ [(g, d)], acc.2.1 || p, s1)) ([], false, s)

/-- APERTURE_ACCESS: an access through BAR4, with what is met at each granule. -/
def execApertureAccess (off : Nat) (a : Access) (errs : MemErrs) (s : State) : Host.Outcome State Fault Refusal :=
  .next (
    let n := match a with
      | .read len => len
      | .write data => data.length
    if !s.gate.bridge || !s.gate.linkUp || 2 ^ (30 + s.gate.bar4) < off + n then s else
    let base := csrField s 0x0800010 39 30 / 2 ^ s.gate.bar4 * 2 ^ (30 + s.gate.bar4)
    let addr := base + off
    let ok := decide (addr + n ≤ 2 ^ 39) && (List.range n).all fun i => (apertureRegion s (addr + i)).isSome
    match a with
    | .read len =>
      if !ok then { apertureRefused s (addr + len - 1) with bus := List.replicate len 0, busEp := true } else
      let r := apertureRead s ((List.range len).map fun i => (addr + i) / 256).dedup errs
      let byte (i : Nat) : Byte := match r.1.find? fun x => x.1 = (addr + i) / 256 with
        | some x => x.2.getD ((addr + i) % 256) 0
        | none => 0
      { r.2.2 with bus := if r.2.1 then List.replicate len 0 else (List.range len).map byte, busEp := r.2.1 }
    | .write data =>
      if !ok then apertureRefused s (addr + data.length - 1)
      else storeBytes s ((data.zipIdx).map fun (v, i) => (addr + i, v)) false errs false)

/-! ### The PCI Express link (R362) -/

/-- PCI_EXPRESS_LINK_UP: the link trains to a width and speed; NumVFs and the size of BAR4 (1 GiB x 2^bar4) are as the host
sets them. -/
def execPciExpressLinkUp (width : Byte) (speed : BitVec 4) (numVfs : Nat) (bar4 : Fin 10) (s : State) : Host.Outcome State Fault Refusal :=
  .next (
    if !s.gate.bridge || s.rst.phase = .asserted || !linkFits width.toNat speed.toNat numVfs then s else
    { s with gate := { s.gate with linkUp := true, width := width, speed := speed, numVfs := numVfs, bar4 := bar4 } })

/-- PCI_EXPRESS_LINK_DOWN: the link and its IDE stream are lost. -/
def execPciExpressLinkDown (s : State) : Host.Outcome State Fault Refusal :=
  .next { s with gate := { s.gate with linkUp := false, width := 0, speed := 0, ide := false } }

end Sys2Proof.Machine
end

