-- ==== Sys2Proof/Machine/Commands.lean ====
section
/-!
DEFINITION. The commands of a ring (13): which one is executed, and LOAD, INSTALL, START, SUPPLY, RETIRE, XFER_IN, ABORT,
UNLOAD and NOP (R369 to R387).
-/

namespace Sys2Proof.Machine

/-! ### The head of a ring (R369, R371) -/

/-- A command is rejected for a reason of R371. -/
def reject (s : State) (c : Nat) (k : Packet) (reason : Nat) : State := completeCmd s c k 2 reason 0

/-- Packets at the head of an idle ring whose format is wrong are rejected. -/
def rejectMalformed : Nat → State → Nat → State
  | 0, s, _ => s
  | n + 1, s, c =>
    let x := ctx s c
    match x.taken with
    | [] => s
    | k :: _ => if x.cur.isNone && !packetOk k then rejectMalformed n (reject s c k 1) c else s

/-- The ring takes what a replay holds for it, and malformed packets leave. -/
def settleRing (s : State) (c : Nat) : State :=
  let s1 := replayTake s c
  rejectMalformed (ctx s1 c).taken.length s1 c

/-- The packet at the head of an idle ring, if it is of an OP. -/
def headOf (s : State) (c op : Nat) : Option Packet :=
  let x := ctx s c
  match x.taken with
  | [] => none
  | k :: _ => if x.cur.isNone && pkOp k = op then some k else none

/-- A row of a command of ring c: the packet at its head is executed by `go`, if it is of the row's OP. -/
def command (s : State) (c op : Nat) (go : State → Packet → State) : State :=
  let s1 := settleRing s c
  match headOf s1 c op with
  | none => s1
  | some k => go s1 k

/-- The packet whose execution continues, if it is of an OP. -/
def current (s : State) (c op : Nat) : Option Exec :=
  match (ctx s c).cur with
  | some e => if pkOp e.packet = op then some e else none
  | none => none

/-- A command begins an execution that ends later. -/
def begin (s : State) (c : Nat) (k : Packet) : State :=
  modCtx s c fun x => { x with cur := some { packet := k, at_ := s.ledger } }

/-! ### LOAD (R376) -/

/-- Bytes that back a staging window. -/
def stagingBytes (imgBytes : Nat) : Nat := roundUp (roundUp (ceilDiv imgBytes 72) 32 * 72) 4096

/-- The lowest free place of n bytes in the staging region. -/
def stagingRoom (s : State) (n : Nat) : Option Nat :=
  let used := s.ctxs.filterMap fun e => e.2.staging.map fun a => (a, stagingBytes e.2.imgBytes)
  let starts := (0x7000000000 :: used.map fun u => u.1 + u.2).mergeSort (· ≤ ·)
  starts.find? fun a => decide (a + n ≤ 0x7000000000 + 2 ^ 31) && used.all fun u => decide (u.1 + u.2 ≤ a) || decide (a + n ≤ u.1)

/-- Dependency places in use: SENDERS of every window, and one reserved by each LOAD. -/
def placesUsed (s : State) : Nat :=
  sumOf (s.ctxs.map fun e => (if e.2.st = .free then 0 else 1) + sumOf ((e.2.image.getD {}).windows.map (·.senders)))

/-- LOAD gives the slot its JOB, PRIORITY, VF binding and a staging window; OOB_DROP_COUNT starts from 0 (R237). -/
def execLoad (c : CtxIx) (s : State) : Host.Outcome State Fault Refusal :=
  .next (command s c 1 fun s k =>
    let b := k.data
    let job := fieldAt b 0x10 4
    let n := fieldAt b 0x18 8
    if (ctx s c).st ≠ .free then reject s c k 2
    else if n < 64 || 150994944 < n then reject s c k 1
    else if job = 0 || s.ctxs.any fun e => e.1 ≠ c.val && e.2.st = .resident && e.2.job.toNat = job then reject s c k 3
    else if pkMark k = 9 then reject s c k 9
    else
      match stagingRoom s (stagingBytes n) with
      | none => reject s c k 4
      | some a =>
        if 8192 ≤ placesUsed s then reject s c k 4 else
        completeCmd (modCtx (csrPut s (0x4000 + 8 * c.val) 0) c fun x => { x with
          st := .staged, job := BitVec.ofNat 32 job, prio := BitVec.ofNat 2 (fieldAt b 0x14 1), vf := BitVec.ofNat 6 (fieldAt b 0x15 1),
          imgBytes := n, staging := some a }) c k 0 0 0)

/-! ### INSTALL (R377, R429) -/

/-- A line of a context's window as the Granary holds it, cached or in its backing. -/
def windowLine (s : State) (c slot : Nat) : Line :=
  match grnLine s c slot with
  | some l => l.words
  | none => match backingOf s c slot with
    | some a => lineOfBytes ((List.range 72).map fun i => (granuleBytes s ((a + i) / 256)).getD ((a + i) % 256) 0)
    | none => zeroLine

/-- Whether that line is marked poisoned. -/
def windowPoison (s : State) (c slot : Nat) : Bool :=
  match grnLine s c slot with
  | some l => l.poison
  | none => match backingOf s c slot with
    | some a => gpoison s (a / 256) || gpoison s ((a + 71) / 256) || combinePoison s (a / 256) || combinePoison s ((a + 71) / 256)
    | none => false

/-- The staged bytes of a context. -/
def stagedBytes (s : State) (c : Nat) : List Byte :=
  let n := (ctx s c).imgBytes
  ((List.range (ceilDiv n 72)).flatMap fun k => lineBytes (windowLine s c k)).take n

/-- The plaintext of a package takes the place of the staged bytes from byte 0 (R429). -/
def putStaged (s : State) (c : Nat) (bs : List Byte) : State :=
  match (ctx s c).staging with
  | none => s
  | some a => writeBytes (discardLines s fun k slot => k = c && decide (slot < ceilDiv bs.length 72))
      ((bs.zipIdx).map fun (b, i) => (a + i, b)) false

/-- LOADER_REJECT: the completion, and LOADER_ERR. -/
def loaderReject (s : State) (c : Nat) (k : Packet) (sub sec ix : Nat) : State :=
  completeCmd (recordFirst s 0x6410 (c * 2 ^ 56 + sub * 2 ^ 48 + sec % 2 ^ 16 * 2 ^ 32 + ix % 2 ^ 32)) c k 1 0x0101
    (sub + ix % 2 ^ 24 * 256)

/-- The record of a handle as the image declares it: VALID unless it is an INPUT handle (R218), or a key handle, which only a command
makes VALID (R243; DEDUCED, log 105). -/
def handleTable (img : Image) : NMap HState :=
  img.handles.foldl (fun m d => nset {} m d.handle { record := d.record, valid := !isInput d && d.kind ≠ 2 }) []

/-- A region claim takes the lowest free entry of the region table (R307, R310). -/
def claimRegion (s : State) (c : Nat) (r : RegClaim) : State :=
  match (List.range 64).find? fun i => (regionAt s i).st = .free with
  | none => s
  | some i => modRegion s i fun _ => { st := .init, cls := r.cls, owner := c, base := r.base, limit := r.limit }

/-- A key slot from the TRNG (R312, R420): the keys are free values. -/
def drawKeys (s : State) (owner : Nat) : State :=
  let (a, s1) := draw s
  let (b, s2) := draw s1
  { s2 with hbm := { s2.hbm with keys := nset none s2.hbm.keys owner (some (BitVec.ofNat 512 a, BitVec.ofNat 256 b)) } }

/-- What a successful INSTALL installs. -/
def installImage (s : State) (c : Nat) (img : Image) : State :=
  let s1 := discardLines s fun k _ => k = c
  let s2 := modCtx s1 c fun x => { x with image := some img, staging := none, handles := handleTable img, save := [], wires := 0 }
  let s3 := drawKeys (img.regions.foldl (fun s r => claimRegion s c r) s2) c
  let s4 := (positionsIn s3 .enabled).foldl (fun s p =>
    writeContents (if roleOf img (lidOf s p) = 0xFFFF then s else placeCode s p c (codeOf img (lidOf s p))) p c) s3
  let s5 := dbAppend s4 0x0A c (img.digest.take 24)
  dbAppend s5 0x0B c ((img.digest.drop 24).take 8 ++ leBytes 4 (ctx s c).job.toNat)

/-- Every region of a context is LIVE. -/
def regionsLive (s : State) (c : Nat) : Bool := s.hbm.regions.all fun e => e.2.owner ≠ c || e.2.st = .free || e.2.st = .live

/-- The words of CONST records for HBM handles are stored in their pieces, in both copies where there are two (R235, R240); no
transfer fails (log 55). -/
def writeHbmContents (s : State) (c : Nat) : State :=
  let img := imageOf s c
  (img.consts.filter fun r => (decl img r.handle).place = 2).foldl (fun s r =>
    let d := decl img r.handle
    let ls := (constLines r).filter fun x => x.1 < d.lines
    (d.base :: (base1Of img d.handle).toList).foldl (fun s a =>
      (ls.map fun x => x.1 / 64).dedup.foldl (fun s b =>
        storeBlock s d a ((ls.filter fun x => x.1 / 64 = b).map fun x => (x.1, overlay (lineAt s d a x.1) x.2.1 x.2.2)) false d.record) s) s) s

/-- INSTALL completes once every region is LIVE: the contents of HBM handles are written, the context is RESIDENT and CMR[c] holds
the image's digest. -/
def finishInstall (s : State) (c : Nat) (k : Packet) : State :=
  if regionsLive s c then
    completeCmd (setCmr (modCtx (writeHbmContents s c) c fun x => { x with st := .resident }) c (imageOf s c).digest) c k 0 0 0
  else s

/-- INSTALL: a package is opened first; the loader checks the image and installs it, or rejects it with its first failure. -/
def execInstall (c : CtxIx) (s : State) : Host.Outcome State Fault Refusal :=
  .next (match current s c 2 with
    | some e => finishInstall s c e.packet
    | none => command s c 2 fun s k =>
      if (ctx s c).st ≠ .staged then reject s c k 2 else
      let s := cacheSlots s c (List.range (ceilDiv (ctx s c).imgBytes 72))
      let b := stagedBytes s c
      let pkg := fieldAt k.data 0x10 1 = 1
      match (if pkg then openPackage s 1 b b.length else some b) with
      | none => loaderReject (trCount s 2) c k 3 0xFFFF 0
      | some img =>
        let s1 := if pkg then trCount (putStaged s c img) 1 else s
        match loaderVerdict ⟨img, parseImage img, c, s1⟩ with
        | some (sub, sec, ix) => loaderReject s1 c k sub sec ix
        | none => finishInstall (begin (installImage s1 c (parseImage img)) c k) c k)

/-! ### START (R72, R127, R380) -/

/-- A Team is started at an index with a time base, if it is IDLE or FINISHED; its wait timeout and the registers of its loop
levels are 0 (R72, R111, R127, R129). -/
def startTeam (tb : W64) (ix : Nat) (t : Team) : Team :=
  if ix = 0xFFFFFFFF || (t.st ≠ .idle && t.st ≠ .finished) then t
  else { st := .ready, pc := BitVec.ofNat 24 ix, tb := tb, start := tb }

/-- The Teams of a stall context that an ENTRIES record starts. -/
def startStall (tb : W64) (ixs : List Nat) (x : StallCtx) : StallCtx :=
  { x with t0 := startTeam tb (ixs.getD 0 0xFFFFFFFF) x.t0, t1 := startTeam tb (ixs.getD 1 0xFFFFFFFF) x.t1,
           t2 := startTeam tb (ixs.getD 2 0xFFFFFFFF) x.t2, t3 := startTeam tb (ixs.getD 3 0xFFFFFFFF) x.t3 }

/-- START: the Teams of the entry start on every stall of their roles. -/
def execStart (c : CtxIx) (s : State) : Host.Outcome State Fault Refusal :=
  .next (command s c 3 fun s k =>
    let entry := fieldAt k.data 0x10 2
    let img := imageOf s c
    if (ctx s c).st ≠ .resident then reject s c k 2
    else if !(img.entries.any fun e => e.1 = entry) then reject s c k 5
    else
      let t0 := fieldAt k.data 0x18 8
      let tb := if t0 = 0 then s.ledger else BitVec.ofNat 64 t0
      let s1 := modCtx (begin s c k) c fun x => { x with cur := x.cur.map fun e => { e with teams := true } }
      let s2 := (img.entries.filter fun e => e.1 = entry).foldl (fun s e =>
        (lidsOf img e.2.1).foldl (fun s l => modStallCtx s c l (startStall tb e.2.2)) s) s1
      if runningNo s2 = c then ensureEpoch s2 c else s2)

/-- Every Team of a saved context is IDLE or FINISHED. -/
def teamsOver (s : State) (c : Nat) : Bool :=
  (contextSave s c).all fun e =>
    let ok (m : Team) : Bool := m.st = .idle || m.st = .finished
    ok e.2.t0 && ok e.2.t1 && ok e.2.t2 && ok e.2.t3

/-- No engine instruction of a context is in flight. -/
def enginesIdle (s : State) (c : Nat) : Bool :=
  runningNo s ≠ c || (positionsIn s .enabled).all fun p => (liveEntries (stall s p)).all fun e => e.2.ctx ≠ c

/-- HALTED Teams of a context become IDLE (R88). -/
def clearHalted (s : State) (c : Nat) : State :=
  let f (x : StallCtx) : StallCtx := mapTeams x fun m => if m.st = .halted then { m with st := .idle } else m
  if runningNo s = c then (positionsIn s .enabled).foldl (fun s p => modLive s p f) s
  else modCtx s c fun x => { x with save := x.save.map fun e => (e.1, f e.2) }

/-- An ABORT that has waited for its START completes, after the commands taken before it (R384). -/
def finishAbort (s : State) (c : Nat) (by_ : Packet) : State :=
  let before := (ctx s c).taken.filter fun k => after32 by_.seq.toNat k.seq.toNat
  let s1 := before.foldl (fun s k => completeCmd s c k 3 0 0) s
  completeCmd s1 c by_ 0 0 0

/-- START_COMPLETE (R380, R384): ABORTED or FAULT once the context is drained after its abort; OK once the started Teams have
finished, the last step is written back and its epochs have committed. -/
def execStartComplete (c : CtxIx) (s : State) : Host.Outcome State Fault Refusal :=
  .next (match (ctx s c).cur with
    | none => s
    | some e =>
      if !e.teams then s else
      let x := ctx s c
      let ended := x.drained && !x.aborting
      if e.abort then
        if !ended then s else
        let s1 := completeCmd (clearHalted s c) c e.packet 3 0 0
        match e.abortBy with
        | some k => finishAbort s1 c k
        | none => s1
      else match e.fault with
        | some (code, lid, team) =>
          if !ended || rollbackAllowed s c then s else
          let s1 := if code = 0x0803 then recCount s 7 else s
          completeCmd (clearHalted s1 c) c e.packet 1 code (lid + 1024 * team)
        | none =>
          let r := recOf s c
          if !teamsOver s c || !enginesIdle s c || writeBacksOpen s c || r.triggers ≠ [] then s
          else if r.opened.isNone && r.closed.isNone then completeCmd s c e.packet 0 0 (min (e.first.getD 0) (2 ^ 32 - 1))
          else if r.opened.isSome && !r.lastStep then closeLast s c
          else s)

/-! ### SUPPLY and RETIRE (R387) -/

/-- An INPUT handle of a context's image. -/
def inputHandle (img : Image) (h : Nat) : Option HDecl :=
  match declOf img h with
  | some d => if isInput d then some d else none
  | none => none

/-- Copy the first n lines of a window into a piece at a base, block by block. -/
def supplyCopy (s : State) (c slot : Nat) (d : HDecl) (n base : Nat) (rec_ : W128) : State :=
  (List.range (ceilDiv n 64)).foldl (fun s b =>
    let ls := (List.range (min 64 (n - 64 * b))).map fun k => 64 * b + k
    storeBlock s d base (ls.map fun l => (l, windowLine s c (slot + l))) (ls.any fun l => windowPoison s c (slot + l)) rec_) s

/-- The slots of the window lines that a SUPPLY of piece d reads. -/
def supplySlots (k : Packet) (d : HDecl) : List Nat := (List.range d.lines).map (fieldAt k.data 0x14 4 + ·)

/-- The first n lines of a SUPPLY's handle, with both copies of a key or mirrored handle (R240, R387). -/
def supplyLines (s : State) (c : Nat) (k : Packet) (d : HDecl) (n : Nat) : State :=
  (d.base :: (base1Of (imageOf s c) (fieldAt k.data 0x10 2)).toList).foldl
    (fun s a => supplyCopy s c (fieldAt k.data 0x14 4) d n a (BitVec.ofNat 128 (fieldAt k.data 0x20 16))) s

/-- A SUPPLY in execution writes its last line: the handle takes RECORD and is VALID, unless a line was poisoned or a key handle
lacks a copy (R243, R387). POISON stays unless the handle becomes VALID (R218, R398). -/
def finishSupply (s : State) (c : Nat) (k : Packet) : State :=
  let h := fieldAt k.data 0x10 2
  match inputHandle (imageOf s c) h with
  | none => reject s c k 6
  | some d =>
    let s := cacheSlots s c (supplySlots k d)
    let bad := (supplySlots k d).any (windowPoison s c)
    let ok := !bad && (d.kind ≠ 2 || (base1Of (imageOf s c) h).isSome)
    let s1 := modCtx (supplyLines s c k d d.lines) c fun x => { x with handles := nmod {} x.handles h fun v =>
      { record := BitVec.ofNat 128 (fieldAt k.data 0x20 16), valid := ok, poison := v.poison && !ok } }
    completeCmd s1 c k (if bad then 5 else 0) 0 0

/-- SUPPLY. A key handle's RECORD must carry the tag of its set. The first row accepts it and sets VALID := 0; the next one finds
its lines copied, unless an ABORT has stopped it between the two (R384, log 115). -/
def execSupply (c : CtxIx) (s : State) : Host.Outcome State Fault Refusal :=
  .next (match current s c 4 with
  | some e => finishSupply s c e.packet
  | none => command s c 4 fun s k =>
    let h := fieldAt k.data 0x10 2
    let img := imageOf s c
    if (ctx s c).st ≠ .resident then reject s c k 2 else
    match inputHandle img h with
    | none => reject s c k 6
    | some d =>
      if !((supplySlots k d).all fun l => (exportWindow s c l).isSome) then reject s c k 7
      else if img.keys.any fun x => x.handle = h && x.tag.toNat ≠ recTag (BitVec.ofNat 128 (fieldAt k.data 0x20 16)) then reject s c k 8
      else modCtx (begin s c k) c fun x => { x with handles := nmod {} x.handles h fun v => { v with valid := false } })

/-- An ABORT meets a SUPPLY in execution: it stops at a line boundary, one of its own that the manual leaves open (a free value, log 115),
and completes with DATA_FAILED; its handle keeps VALID = 0 (R384). -/
def stopSupply (s : State) (c : Nat) (k : Packet) : State :=
  let s1 := match inputHandle (imageOf s c) (fieldAt k.data 0x10 2) with
    | some d =>
      let r := draw (cacheSlots s c (supplySlots k d))
      supplyLines r.2 c k d (r.1 % (d.lines + 1))
    | none => s
  completeCmd s1 c k 5 0 0

/-- RETIRE: VALID := 0 on an INPUT handle. -/
def execRetire (c : CtxIx) (s : State) : Host.Outcome State Fault Refusal :=
  .next (command s c 5 fun s k =>
    let h := fieldAt k.data 0x10 2
    if (ctx s c).st ≠ .resident then reject s c k 2 else
    match inputHandle (imageOf s c) h with
    | none => reject s c k 6
    | some _ => completeCmd (modCtx s c fun x => { x with handles := nmod {} x.handles h fun v => { v with valid := false } }) c k 0 0 0)

/-! ### XFER_IN, ABORT, NOP (R372, R384, R386) -/

/-- XFER_IN: the Gatehouse's part for the rings of context c, and the member's completion of a packet that the Gatehouse has
passed on, with the outcome that it found. -/
def execXferIn (c : CtxIx) (s : State) : Host.Outcome State Fault Refusal :=
  .next (command (gateXfers s c) c 6 fun s k =>
    let mode := fieldAt k.data 0x1C 1
    let x := ctx s c
    if pkMark k = 3 then completeCmd s c k 3 0 0
    else if !(x.st = .resident || (x.st = .staged && mode = 0)) then reject s c k 2
    else if mode = 1 && !s.gate.bridge then reject s c k 0x0A
    else if pkMark k = 2 then reject s c k 7
    else if pkMark k = 5 then completeCmd s c k 5 0 0
    else completeCmd s c k 0 0 0)

/-- ABORT executes as soon as it is taken: a START in execution is aborted, and ABORT completes after it; otherwise the commands
taken before it complete with ABORTED and then ABORT does. A SUPPLY in execution stops at a line boundary; an INSTALL or UNLOAD in
execution ends first. -/
def execAbort (c : CtxIx) (s : State) : Host.Outcome State Fault Refusal :=
  .next (
    let s1 := replayTake s c
    match (ctx s1 c).taken.find? fun k => pkOp k = 7 with
    | none => s1
    | some k =>
      if !packetOk k then settleRing s1 c else
      match (ctx s1 c).cur with
      | none => finishAbort s1 c k
      | some e =>
        if pkOp e.packet = 4 then finishAbort (stopSupply s1 c e.packet) c k else
        if !e.teams || e.abort then s1 else
        let s2 := modCtx s1 c fun x => { x with cur := some { e with abort := true, abortBy := some k } }
        if (ctx s2 c).aborting then s2 else abortStep s2 c)

/-- NOP completes when reached. -/
def execNop (c : CtxIx) (s : State) : Host.Outcome State Fault Refusal :=
  .next (command s c 9 fun s k => completeCmd s c k 0 0 0)

/-! ### UNLOAD (R385) -/

/-- What UNLOAD clears at once. Its regions are scrubbed. -/
def clearContext (s : State) (c : Nat) : State :=
  let s0 := if runningNo s = c then
      { (positionsIn s .enabled).foldl (fun s p => modStall s p fun x => { x with live := {}, hcache := [], ma := {}, tiles := [] }) s
        with ym := { s.ym with running := none, devPhase := 0 } }
    else s
  let s1 := loftInvalidate s0 fun _ _ l => l.tag.toNat = c
  let s2 := s1.stalls.foldl (fun s e =>
    let s := freeCode s e.1 c
    modStall s e.1 fun x => { x with drops := nset 0 x.drops c 0 }) s1
  let s3 := discardLines s2 fun k _ => k = c
  let s4 : State := { s3 with hbm := { s3.hbm with regions := s3.hbm.regions.map fun (e : Nat × Region) =>
    if e.2.owner = c && (e.2.st = .live || e.2.st = .init) then (e.1, { e.2 with st := .scrub }) else e } }
  let s5 := { s4 with recs := nerase s4.recs c, ym := { s4.ym with
    sysArr := s4.ym.sysArr.filter (fun e => e.1 / 64 ≠ c), sysKids := s4.ym.sysKids.filter fun e => e.1 / 16 ≠ c } }
  modCtx s5 c fun x => { x with st := .unloading, image := none, staging := none, handles := [], save := [], wires := 0,
                                 wbacks := [], aborting := false, rolling := false, drained := false }

/-- UNLOAD completes when every region is FREE, and the slot is FREE. -/
def finishUnload (s : State) (c : Nat) (k : Packet) : State :=
  if s.hbm.regions.any fun e => e.2.owner = c && e.2.st ≠ .free then s else
  let s1 := setCmr { s with hbm := { s.hbm with keys := nset none s.hbm.keys c none } } c []
  let s2 := completeCmd (modCtx s1 c fun x => { x with st := .free }) c k 0 0 0
  modCtx s2 c fun x => { x with job := 0, prio := 0, vf := 0, imgBytes := 0 }

/-- UNLOAD. -/
def execUnload (c : CtxIx) (s : State) : Host.Outcome State Fault Refusal :=
  .next (match current s c 8 with
    | some e => finishUnload s c e.packet
    | none => command s c 8 fun s k =>
      let x := ctx s c
      if x.st ≠ .staged && x.st ≠ .resident && x.st ≠ .stopped then reject s c k 2
      else finishUnload (begin (clearContext s c) c k) c k)

end Sys2Proof.Machine
end

