-- ==== Sys2Proof/Machine/Firmware.lean ====
section
/-!
DEFINITION. What the Ostler writes to flash and hitless activation (R424, R456, R461, R466, R471).
-/

namespace Sys2Proof.Machine

/-- FW_SLOT. -/
def fwSlot : Nat := 0x0100100

/-! ### Staged images (R461) -/

/-- STAGED of a component: the image of its inactive slot verifies. -/
def restage (s : State) (c : Nat) : State :=
  let ok := tackRuns s && imageAccepted s c (flashImage s c (!activeB s.ostler.dir c))
  csrSetField s fwSlot (3 + c) (3 + c) (if ok then 1 else 0)

/-- The component whose image area holds an offset, and its slot. -/
def areaOf (o : Nat) : Option (Nat × Bool) :=
  if 0x400000 ≤ o && o < 0x3400000 then some ((o - 0x400000) / 0x1000000 + 1, false)
  else if 0x3400000 ≤ o && o < 0x6400000 then some ((o - 0x3400000) / 0x1000000 + 1, true)
  else none

/-- An offset lies in the directory or in an active slot (R471). -/
def flashClosed (s : State) (o : Nat) : Bool :=
  decide (o < 0x10000) || match areaOf o with
    | some (c, b) => activeB s.ostler.dir c = b
    | none => false

/-- Bytes of a sector (DESIGN CHOICE, log 30). -/
def sectorSize : Nat := 4096

/-- A sector is erased as the write first reaches it. -/
def eraseSector (s : State) (k : Nat) : State :=
  modOstler s fun o => { o with flash := nclear o.flash (k * sectorSize) ((k + 1) * sectorSize), erased := k :: o.erased.filter (· ≠ k) }

/-- Program a byte: bits can only be cleared until the next erase (DESIGN CHOICE, log 30). -/
def programByte (s : State) (o : Nat) (b : Byte) : State :=
  modOstler s fun x => { x with flash := flashPut x.flash o (nget 0xFF x.flash o &&& b) }

/-- FLASH_WRITE's data: each sector that it first reaches, or whose first byte it writes, is erased; images are staged again. -/
def flashWriteData (s : State) (off : Nat) (data : List Byte) : State :=
  let s1 := (data.zipIdx).foldl (fun s (b, i) =>
    let o := off + i
    let k := o / sectorSize
    let s0 := if o % sectorSize = 0 || !(s.ostler.erased.contains k) then eraseSector s k else s
    programByte s0 o b) s
  (((List.range data.length).filterMap fun i => (areaOf (off + i)).map (·.1)).dedup).foldl restage s1

/-! ### Activation (R461) -/

/-- Component c restarts into its image in slot b. -/
def activate (s : State) (c : Nat) (b : Bool) : State :=
  let s1 := measureImage s c (flashImage s c b)
  let run := s1.rst.runB
  modRst (modOstler s1 fun o => { o with dir := if b then o.dir ||| (1#3 <<< (c - 1)) else o.dir &&& ~~~(1#3 <<< (c - 1)) })
    fun r => { r with runB := if b then run ||| (1#3 <<< (c - 1)) else run &&& ~~~(1#3 <<< (c - 1)) }

/-- Activate a staged component, and remember the slot that it leaves. -/
def activateStaged (s : State) (c : Nat) : State :=
  if !csrBit s fwSlot (3 + c) then s else
  let old := activeB s.ostler.dir c
  csrSetField (modRst (activate s c !old) fun r => { r with acts := nset none r.acts c (some { at_ := s.ledger, oldB := old }) }) fwSlot (3 + c) (3 + c) 0

/-- New keys and certificate for the new FWMR. -/
def renewKeys (s : State) : State := issueCert (deriveFwKeys s)

/-- A write of FW_SLOT.ACTIVATE: every staged component in the order Ostler, Yardmaster, Tack Room; nothing staged is RESULT
0b11. -/
def writeActivate (s : State) : State :=
  if !tackRuns s then s
  else if csrField s fwSlot 6 4 = 0 then csrSetField s fwSlot 29 28 3
  else csrSetField (renewKeys ([1, 3, 2].foldl activateStaged s)) fwSlot 29 28 1

/-- FIRMWARE_ACTIVATE. -/
def execFirmwareActivate (s : State) : Host.Outcome State Fault Refusal := .next (writeActivate s)

/-- FIRMWARE_REVERT: a component that fails its self-check within 10 s of its activation runs its old image again, and the
directory keeps the old slot. -/
def execFirmwareRevert (component : Fin 3) (s : State) : Host.Outcome State Fault Refusal :=
  .next (match nget none s.rst.acts (component.val + 1) with
    | none => s
    | some a =>
      if a.at_.toNat + 10000000000 < now s then s else
      let s1 := modRst (activate s (component.val + 1) a.oldB) fun r => { r with acts := nset none r.acts (component.val + 1) none }
      csrSetField (restage (renewKeys s1) (component.val + 1)) fwSlot 29 28 2)

/-! ### The margin table (R466) -/

/-- A reason to write the table: a REQ_MV that moved by 5 mV or more, what is written at once, or 24 hours. -/
def marginDue (s : State) : Bool :=
  ((List.range 832).any fun p =>
    decide ((nget {} s.ostler.margin p).mv + 5 ≤ (marginNow s p).mv) || decide ((marginNow s p).mv + 5 ≤ (nget {} s.ostler.margin p).mv)) ||
  marginAtOnce s || decide (s.ostler.marAt.toNat + 86400000000000 ≤ now s)

/-- MARGIN_TABLE_WRITE. -/
def execMarginTableWrite (s : State) : Host.Outcome State Fault Refusal :=
  .next (if !s.ostler.up || s.rst.recovery || !marginDue s then s else writeMargin s)

end Sys2Proof.Machine
end

