-- ==== Sys2Proof/Machine/Ostler.lean ====
section
/-!
DEFINITION. The Ostler (17): report FIFO, alerts, report ring and subscriptions (R476 to R479), telemetry (R480), MCTP control
(R470), and the management port's addresses (R469).
-/

namespace Sys2Proof.Machine

/-! ### Messages (R470, R471) -/

/-- A Thiash management message: OP, STATUS, TAG, body. -/
def mgBytes (op status tag : Nat) (body : List Byte) : List Byte := leBytes 1 op ++ leBytes 1 status ++ leBytes 2 tag ++ body

/-- Send it as a vendor-defined message, or inside the session that carried its request. -/
def mgSend (s : State) (via : Transport) (secured : Bool) (m : List Byte) : State :=
  answer s via (if secured then 6 else 0x7E) (beBytes 2 Config.vendorId.toNat ++ m)

/-! ### Reports (R476 to R479) -/

/-- The record of a report in the ring (R477). -/
def ringRecord (s : State) (seq : Nat) (r : Report) : List Byte :=
  leBytes 4 seq ++ leBytes 1 2 ++ leBytes 1 1 ++ leBytes 2 r.code ++ leBytes 8 0 ++ leBytes 8 r.ledger.toNat ++ leBytes 4 r.detail ++
    leBytes 2 (deviceId s) ++ leBytes 1 r.ctx ++ leBytes 1 0

/-- A ring record to every subscriber of its class, with an in-band interrupt on I3C (an empty message; DESIGN CHOICE, log 32). -/
def sendReport (s : State) (cls : Nat) (rec_ : List Byte) : State :=
  s.ostler.subs.foldl (fun s e => match e.2 with
    | some u =>
      if !bitOf u.classes.toNat cls || !reaches s u.via then s else
      let s1 := if u.via = .i3c then { s with sent := s.sent ++ [(u.via, [])] } else s
      mgCount (mgSend s1 u.via false (mgBytes 0x81 0 0 rec_)) 1
    | none => s) s

/-- The Ostler moves a report into its ring and sends it. -/
def ringReport (s : State) (r : Report) : State :=
  let rec_ := ringRecord s s.ostler.seq.toNat r
  let s1 := modOstler s fun o => { o with seq := o.seq + 1, ring := (o.ring ++ [rec_]).drop (o.ring.length + 1 - 4096) }
  sendReport s1 (r.code / 256) rec_

/-- The Ostler empties the FIFO in order, while its firmware runs. -/
def drainFifo (s : State) : State :=
  if !s.ostler.up then s
  else s.ostler.fifo.foldl ringReport (modOstler s fun o => { o with fifo := [] })

/-- FAULT_N is low while any MG_ALERT bit is 1 (R479). -/
def driveFaultN (s : State) : State := modRst s fun r => { r with faultN := csrField s 0x0B00010 10 1 = 0 }

/-- A class's alert, where its mask bit is set. -/
def raiseAlert (s : State) (cls : Nat) : State :=
  if 1 ≤ cls && cls ≤ 10 && csrBit s 0x0B00018 cls then driveFaultN (csrSetField s 0x0B00010 cls cls 1) else s

/-- a comes before b on the way to the FIFO: earlier, or of an earlier source in the order of R476. -/
def reportBefore (a b : Report) : Bool := a.ledger < b.ledger || (a.ledger = b.ledger && decide (a.source < b.source))

/-- Report i is the next one to enter the FIFO. -/
def reportNext (rs : List Report) (i : Nat) (r : Report) : Bool :=
  !(rs.any fun x => reportBefore x r) && !((rs.take i).any fun x => !reportBefore r x)

/-- FAULT_REPORT_INTAKE. -/
def execFaultReportIntake (i : Nat) (s : State) : Host.Outcome State Fault Refusal :=
  .next (match s.reports[i]? with
    | none => s
    | some r =>
      if !reportNext s.reports i r then s else
      let s1 := raiseAlert { s with reports := s.reports.eraseIdx i } (r.code / 256)
      if 256 ≤ s1.ostler.fifo.length then mgCount s1 0
      else drainFifo (modOstler s1 fun o => { o with fifo := o.fifo ++ [r] }))

/-! ### Telemetry (R480) -/

/-- The telemetry interval, ms. -/
def telemMs (s : State) : Nat := max 10 (min 60000 (csrField s 0x0B00018 31 16))

/-- Least number of spare pages left over the stacks. -/
def leastSpare (s : State) : Nat := (List.range 8).foldl (fun a st => min a (4096 - sparesUsed (repairOf s st))) 4096

/-- The telemetry record. -/
def telemRecord (s : State) (avg peak : W32) (ts tg th mv : BitVec 16) : List Byte :=
  let st := (csrGet s ledgerStatus).toNat
  leBytes 8 (now s) ++ leBytes 4 avg.toNat ++ leBytes 4 peak.toNat ++ leBytes 2 ts.toNat ++ leBytes 2 tg.toNat ++ leBytes 2 th.toNat ++
  leBytes 2 mv.toNat ++ leBytes 4 (csrGet s 0x0C00200).toNat ++ leBytes 4 (csrGet s 0x0C00208).toNat ++
  leBytes 2 (positionsIn s .spare).length ++ leBytes 2 (positionsIn s .enabled).length ++ leBytes 2 (leastSpare s) ++
  leBytes 1 (bitsOf st 63 63 + 2 * sourceNow s) ++ leBytes 1 0 ++ leBytes 4 st ++ leBytes 4 0

/-- TELEMETRY: at the end of each interval; MG_POWER follows. -/
def execTelemetry (avgMw peakMw : W32) (stallTemp gateTemp hbmTemp railMv : BitVec 16) (s : State) : Host.Outcome State Fault Refusal :=
  .next (
    let due := s.ostler.telem = [] || decide (fieldAt s.ostler.telem 0 8 + 1000000 * telemMs s ≤ now s)
    if !s.ostler.up || !due then s else
    let r := telemRecord s avgMw peakMw stallTemp gateTemp hbmTemp railMv
    let s1 := csrSetField (csrSetField s 0x0B00020 63 32 avgMw.toNat) 0x0B00020 31 0 (max peakMw.toNat (csrField s 0x0B00020 31 0))
    (modOstler s1 fun o => { o with telem := r }).ostler.subs.foldl (fun s e => match e.2 with
      | some u => if u.telem && reaches s u.via then mgSend s u.via false (mgBytes 0x82 0 0 r) else s
      | none => s) (modOstler s1 fun o => { o with telem := r }))

/-! ### MCTP control (R470) -/

/-- A transport of MCTP that reaches the Ostler. -/
def mctpReaches (s : State) (via : Transport) : Bool := reaches s via && via ≠ .doe

/-- An MCTP control response: command, completion code, body (layout of DSP0236; PRESUMED, log 29). -/
def controlReply (s : State) (via : Transport) (cmd cc : Nat) (body : List Byte) : State :=
  tookMessage (if mctpReaches s via then answer s via 0 (leBytes 1 0 ++ leBytes 1 cmd ++ leBytes 1 cc ++ body) else s) via

/-- The message types that the Ostler accepts. -/
def mctpTypes : List Nat := [0x00, 0x05, 0x06, 0x7E]

/-- SET_ENDPOINT_ID; the null and broadcast IDs are refused with ERROR_INVALID_DATA. -/
def execSetEndpointId (via : Transport) (eid : Byte) (s : State) : Host.Outcome State Fault Refusal :=
  .next (
    if !mctpReaches s via then s
    else if eid = 0 || eid = 0xFF then controlReply s via 1 2 []
    else modOstler (controlReply s via 1 0 (leBytes 1 0 ++ leBytes 1 eid.toNat ++ leBytes 1 0)) fun o => { o with eid := eid })

/-- GET_ENDPOINT_ID. -/
def execGetEndpointId (via : Transport) (s : State) : Host.Outcome State Fault Refusal :=
  .next (controlReply s via 2 0 (leBytes 1 s.ostler.eid.toNat ++ leBytes 2 0))

/-- GET_MCTP_VERSION_SUPPORT, of the base specification (0xFF) or an accepted type. -/
def execGetMctpVersionSupport (via : Transport) (msgType : Byte) (s : State) : Host.Outcome State Fault Refusal :=
  .next (
    if msgType = 0xFF || mctpTypes.contains msgType.toNat then controlReply s via 4 0 (leBytes 1 1 ++ leBytes 4 0xF1F3F100)
    else controlReply s via 4 0x80 [])

/-- GET_MESSAGE_TYPE_SUPPORT. -/
def execGetMessageTypeSupport (via : Transport) (s : State) : Host.Outcome State Fault Refusal :=
  .next (controlReply s via 5 0 (leBytes 1 mctpTypes.length ++ mctpTypes.flatMap (leBytes 1)))

/-- UNSUPPORTED_MCTP_MESSAGE: discarded and answered with ERROR_UNSUPPORTED_CMD (0x05). -/
def execUnsupportedMctpMessage (via : Transport) (msgType : Byte) (s : State) : Host.Outcome State Fault Refusal :=
  .next (if mctpTypes.contains msgType.toNat then s else controlReply s via 0 5 [])

/-! ### DOE, I3C and the management port (R362, R469) -/

/-- DOE_DISCOVERY: protocols 0 DOE Discovery, 1 SPDM, 2 secured SPDM, each with the next index (layout of the PCI Express base
specification; PRESUMED, log 29). -/
def execDoeDiscovery (ix : Byte) (s : State) : Host.Outcome State Fault Refusal :=
  .next (
    if !reaches s .doe then s else
    let k := ix.toNat
    let data := if k ≤ 2 then leBytes 2 1 ++ leBytes 1 k ++ leBytes 1 (if k = 2 then 0 else k + 1) else leBytes 2 0xFFFF ++ leBytes 2 0
    { s with sent := s.sent ++ [(.doe, leBytes 2 1 ++ leBytes 2 0 ++ leBytes 4 3 ++ data)] })

/-- DYNAMIC_ADDRESS_ASSIGNMENT. -/
def execDynamicAddressAssignment (addr : BitVec 7) (s : State) : Host.Outcome State Fault Refusal :=
  .next (if s.ostler.up then modOstler s fun o => { o with da := some addr } else s)

/-- The management port is up and has an IPv4 address. -/
def netUp (s : State) : Bool := s.ostler.link && ipOf s ≠ 0

/-- ARP_REQUEST for the port's address: an ARP reply. -/
def execArpRequest (target : BitVec 32) (mac : BitVec 48) (ip : BitVec 32) (s : State) : Host.Outcome State Fault Refusal :=
  .next (
    if !s.ostler.up || !netUp s || target ≠ ipOf s then s else
    let me := beBytes 6 Config.macAddress.toNat
    let f := beBytes 6 mac.toNat ++ me ++ beBytes 2 0x0806 ++ beBytes 2 1 ++ beBytes 2 0x0800 ++ beBytes 1 6 ++ beBytes 1 4 ++
      beBytes 2 2 ++ me ++ beBytes 4 target.toNat ++ beBytes 6 mac.toNat ++ beBytes 4 ip.toNat
    { s with frames := s.frames ++ [f] })

/-- A DHCPv4 message to a server: its type (1 DISCOVER, 3 REQUEST) and the address asked for (PRESUMED, log 29). -/
def dhcpSend (s : State) (type : Nat) : State :=
  { s with frames := s.frames ++ [leBytes 1 1 ++ leBytes 1 type ++ beBytes 6 Config.macAddress.toNat ++ beBytes 4 s.ostler.ip.toNat] }

/-- DHCPv4 gives the port its address: no static address is set. -/
def dhcpOn (s : State) : Bool := s.ostler.up && s.ostler.link && csrField s 0x0B00018 63 32 = 0

/-- DHCPV4_REPLY: an acknowledgement gives the address and its lease, a refusal takes the address away. -/
def execDhcpv4Reply (ack : Bool) (addr : BitVec 32) (leaseS : Nat) (s : State) : Host.Outcome State Fault Refusal :=
  .next (
    if !dhcpOn s then s
    else if ack then modOstler s fun o => { o with ip := addr, lease := leaseS, leaseAt := s.ledger, renews := false }
    else dhcpSend (modOstler s fun o => { o with ip := 0, lease := 0, renews := false }) 1)

/-- DHCPV4_LEASE_TIMER: half-way through its lease the port asks for it again; at its end it loses the address (RFC 2131). -/
def execDhcpv4LeaseTimer (s : State) : Host.Outcome State Fault Refusal :=
  .next (
    let t := now s - s.ostler.leaseAt.toNat
    let n := 1000000000 * s.ostler.lease
    if !dhcpOn s || s.ostler.ip = 0 then s
    else if n ≤ t then dhcpSend (modOstler s fun o => { o with ip := 0, lease := 0, renews := false }) 1
    else if n ≤ 2 * t && !s.ostler.renews then dhcpSend (modOstler s fun o => { o with renews := true }) 3
    else s)

/-- MANAGEMENT_PORT_LINK_CHANGE: a port that comes up with no static address asks for one. -/
def execManagementPortLinkChange (up : Bool) (s : State) : Host.Outcome State Fault Refusal :=
  .next (
    if !s.ostler.up then s else
    let s1 := modOstler s fun o => { o with link := up }
    if up && csrField s1 0x0B00018 63 32 = 0 then dhcpSend s1 (if s1.ostler.ip = 0 then 1 else 3) else s1)

/-! ### The RESET flit (R359, R446) -/

/-- The flit's MAC under a fabric reset key. -/
def resetMac (key : BitVec 256) (b : List Byte) : List Byte := (hmac256 (leBytes 32 key.toNat) ((b.drop 8).take 24)).take 16

/-- The flit passes every condition of R359; OBSERVED leaves no key (R446). -/
def resetFlitOk (s : State) (b : List Byte) : Bool :=
  let stamp := fieldAt b 24 8
  !s.tack.observed && decide (stamp ≤ now s + 1000000) && decide (now s ≤ stamp + 1000000) &&
  decide (s.rhoa.lastStamp.toNat < stamp) && decide ((csrGet s 0x07C0020).toNat < stamp) && csrBit s ledgerStatus 63 &&
  (fieldAt b 16 1 = 1 || fieldAt b 16 1 = 2) && flitDst b = deviceId s &&
  match s.tack.fabric with
  | some k => (b.drop 32).take 16 = resetMac k b
  | none => false

/-- RESET_FLIT: the reset that LEVEL names starts, or the flit is discarded and counted. -/
def execResetFlit (i : Nat) (s : State) : Host.Outcome State Fault Refusal :=
  .next (match rxEntry s i with
    | none => s
    | some h =>
      if flitType h.bytes ≠ 9 then s else
      let s1 := consume s i h
      if resetFlitOk s h.bytes then
        requestReset { s1 with rhoa := { s1.rhoa with lastStamp := BitVec.ofNat 64 (fieldAt h.bytes 24 8) } } (fieldAt h.bytes 16 1) 5
      else rlCount s1 h.port 7 1)

end Sys2Proof.Machine
end

