-- ==== Sys2Proof/Machine/RegView.lean ====
section
/-!
DEFINITION. What the registers read (R8, R484): the views that the state gives of itself. A register with no view here reads its
stored fields.
-/

namespace Sys2Proof.Machine

/-- A flag as a number. -/
def bit (b : Bool) : Nat := if b then 1 else 0

/-! ### YARDMASTER -/

/-- STATE codes of STALL_POS. -/
def posCode : PosSt → Nat
  | .notLoaded => 0
  | .enabled => 1
  | .spare => 2
  | .disabled => 3
  | .retired => 4
  | .outOfService => 5

/-- STALL_SUMMARY. A load from the trim backup does not set LOADED (R455). -/
def viewSummary (s : State) : Nat :=
  bit (s.positions ≠ [] && !s.rst.backup) * 2 ^ 31 + (positionsIn s .retired).length * 2 ^ 20 + (positionsIn s .spare).length * 2 ^ 10 +
    (positionsIn s .enabled).length

/-- STALL_POS[p]. -/
def viewPos (s : State) (p : Nat) : Nat :=
  posCode (position s p).st * 2 ^ 29 + lidOf s p % 1024 * 2 ^ 16 + p % 32 / 16 * 2 ^ 12 + p / 32 * 2 ^ 5 + p % 32

/-- STALL_LOC[l]. -/
def viewLoc (s : State) (l : Nat) : Nat := match posOfLid s l with
  | some p => 2 ^ 31 + p
  | none => 0x3FF

/-- A participant of the running context has posted an arrival on device barrier b that has not completed. -/
def barOpen (s : State) (b : Nat) : Bool :=
  (participants s (runningNo s)).any fun p => (barOf (stall s p).live (64 + b)).drive != s.ym.devPhase.getLsbD b

/-- DEVBAR_STATUS. -/
def viewDevbar (s : State) : Nat :=
  if s.ym.running.isNone then 0 else
  runningNo s * 2 ^ 8 + (bit (barOpen s 0) + 2 * bit (barOpen s 1) + 4 * bit (barOpen s 2) + 8 * bit (barOpen s 3)) * 2 ^ 4 +
    s.ym.devPhase.toNat

/-- STATE codes of CTX_STATE (R375). -/
def ctxCode : CtxSt → Nat
  | .free => 0
  | .staged => 1
  | .resident => 2
  | .stopped => 3
  | .unloading => 4

/-- CTX_STATE[c]. -/
def viewCtx (s : State) (c : Nat) : Nat :=
  let x := ctx s c
  x.job.toNat * 2 ^ 32 + ctxCode x.st * 2 ^ 29 + bit (runningNo s = c) * 2 ^ 28 + bit (isReady s c) * 2 ^ 27 + x.prio.toNat * 2 ^ 25 +
    x.vf.toNat * 2 ^ 19

/-- INTAKE[c]. -/
def viewIntake (s : State) (c : Nat) : Nat := (ctx s c).nextTake.toNat * 2 ^ 32 + (ctx s c).nextDone.toNat

/-- EPOCH_STAT[c]. -/
def viewEpoch (s : State) (c : Nat) : Nat :=
  let r := recOf s c
  bit r.closed.isSome * 2 ^ 63 + bit (r.triggers ≠ [] || (ctx s c).rolling) * 2 ^ 62 + min r.reruns 3 * 2 ^ 60 +
    min r.durable.length 1048576 * 2 ^ 32 + min r.undo.length 327680

/-! ### Memory and links -/

/-- Entries that a Drover buffers or serves. -/
def drvEntries (d : Drover) : Nat :=
  sumOf (d.gangs.map fun g => (g.2.map fun x => x.members.length).getD 0) + sumOf (d.expands.map fun x => (x.2.map fun y => y.members.length).getD 0)

/-- DRV_STATUS. -/
def viewDrover (s : State) (d : Nat) : Nat :=
  let x := drover s d
  drvEntries x * 2 ^ 16 + (x.gangs.filter fun g => g.2.isSome).length * 2 ^ 9 + bit (x.expands.any fun e => e.2.isSome)

/-- HBM_STATUS; before training a stack reports nothing. -/
def viewHbm (s : State) (st : Nat) : Nat :=
  if s.hbm.repair = [] then 0 else
  let r := repairOf s st
  (if 4096 ≤ sparesUsed r then 1 else csrField s (0x0600000 + st * 0x10000) 63 63) * 2 ^ 63 + r.pprLeft % 65536 * 2 ^ 32 + (4096 - sparesUsed r) * 2 ^ 16 + r.pending.length % 8192

/-- STATE codes of REGION_LO. -/
def regCode : RegSt → Nat
  | .free => 0
  | .init => 1
  | .live => 2
  | .scrub => 3

/-- REGION_LO[i]. -/
def viewRegionLo (s : State) (i : Nat) : Nat :=
  let r := regionAt s i
  regCode r.st * 2 ^ 62 + bit r.rpoison * 2 ^ 61 + r.cls % 2 * 2 ^ 60 + r.owner % 128 * 2 ^ 53 + r.base / 4096 % 2 ^ 28 * 2 ^ 12

/-- REGION_HI[i]. -/
def viewRegionHi (s : State) (i : Nat) : Nat := (regionAt s i).limit / 4096 % 2 ^ 28 * 2 ^ 12

/-- STATE codes of RL_STATUS (R338). -/
def portCode : PortSt → Nat
  | .disabled => 0
  | .training => 1
  | .up => 2
  | .up1 => 3
  | .down => 4

/-- RL_STATUS[n]; in bridge mode ports 40 to 47 read DISABLED and 0 (R331). -/
def viewPort (s : State) (n : Nat) : Nat :=
  if !portThere s n then 0 else
  let p := port s n
  p.neighbor.toNat * 2 ^ 33 + p.replay.length % 512 * 2 ^ 24 + p.lanes.toNat * 2 ^ 4 + portCode p.st

/-- LEDGER_STATUS: SOURCE names the source that qualifies now (R473). -/
def viewLedger (s : State) : Nat :=
  let v := (csrGet s ledgerStatus).toNat
  bitsOf v 63 62 * 2 ^ 62 + sourceNow s * 2 ^ 60 + v % 2 ^ 32

/-- RL_DEVICE: LEDGER_LOCKED follows the discipline. -/
def viewDevice (s : State) : Nat := (csrGet s 0x07C0000).toNat % 2 ^ 22 + csrField s ledgerStatus 63 63 * 2 ^ 22

/-- RL_DEP_STATUS. -/
def viewDeps (s : State) : Nat := placesUsed s * 2 ^ 16 + sumOf (s.recs.map fun e => e.2.deps.length)

/-- GH_STATUS. -/
def viewGate (s : State) : Nat :=
  let g := s.gate
  bit g.bridge * 2 ^ 31 + bit g.linkUp * 2 ^ 30 + bit g.ide * 2 ^ 29 + g.width.toNat * 2 ^ 16 + g.speed.toNat * 2 ^ 12 + bit g.linkUp * 2 ^ 11

/-! ### Daybook, Tack Room, Smithy, Ostler -/

/-- DB_STATUS: RATE counts the records of the last millisecond. -/
def viewDbStatus (s : State) : Nat :=
  csrField s 0x0D00018 31 31 * 2 ^ 31 + (s.db.times.filter fun t => decide (now s < t.toNat + 1000000)).length

/-- TR_STATUS. -/
def viewTack (s : State) : Nat :=
  let t := s.tack
  bit t.observed * 2 ^ 63 + bit t.booted * 2 ^ 62 + bit (t.kem ≠ []) * 2 ^ 61 + bit (t.cert ≠ []) * 2 ^ 60 +
    s.fuses.svnFloor % 256 * 2 ^ 40 + nget 0 t.svns 2 % 256 * 2 ^ 32

/-- RG_SLOT[g]. -/
def viewSlot (s : State) (g : Nat) : Nat :=
  match (gateSlot s g).policy with
  | none => 0
  | some p =>
    (if slotBusy s g then 2 else 1) * 2 ^ 62 + (p.t - 1) * 2 ^ 58 + (p.n - 1) * 2 ^ 54 + (p.j - 1) * 2 ^ 50 + (p.logN - 1) * 2 ^ 46 +
      (p.qcount - 1) * 2 ^ 40 + (if p.budget = 0 then 0xFFFFFFFF else (gateSlot s g).left)

/-- SM_STATUS. -/
def viewSmithy (s : State) : Nat :=
  bit s.smithy.op.isSome * 2 ^ 31 + csrField s 0x0A00000 30 29 * 2 ^ 29 +
    sumOf ((List.range 8).map fun i => bit (nget none s.smithy.curves i).isSome * 2 ^ i)

/-- The part number of a grade. -/
def partNumber (s : State) : Nat := if s.fuses.grade = 0 then 0x6800 else 0x6640

/-- MG_IDENT. -/
def viewIdent (s : State) : Nat := partNumber s * 2 ^ 16 + s.fuses.grade % 2 * 2 ^ 8 + s.fuses.stepping % 16

/-- MG_STATUS. -/
def viewMgStatus (s : State) : Nat :=
  let o := s.ostler
  bit s.rst.recovery * 2 ^ 31 + bit (netUp s) * 2 ^ 30 + bit o.da.isSome * 2 ^ 29 +
    sumOf ((List.range 4).map fun i => bit (nget none o.subs i).isSome * 2 ^ i) * 2 ^ 24 + o.ring.length

/-! ### Stall window -/

/-- PWR_STATE codes of STALL_STATUS (R95). -/
def pwrCode : Pwr → Nat
  | .run => 0
  | .gated => 1
  | .nap => 2
  | .off => 3

/-- STALL_QDEPTH. -/
def viewDepth (s : State) (p : Nat) : Nat :=
  let x := stall s p
  x.tiles.length % 16 * 2 ^ 27 + engineCount x .drv * 2 ^ 24 + engineCount x .yd * 2 ^ 20 + engineCount x .ct * 2 ^ 15 +
    engineCount x .ee * 2 ^ 11 + engineCount x .te * 2 ^ 8 + engineCount x .ma * 2 ^ 5 + (16 - (liveEntries x).length)

/-- STALL_STATUS. -/
def viewStatus (s : State) (p : Nat) : Nat :=
  let x := stall s p
  pwrCode x.pwr * 2 ^ 6 + csrField s (stallCsr p 8) 3 2 * 2 ^ 2 + bit (atBoundary s p) * 2 + bit x.aborting

/-- STATE codes of TEAM_STATE (R71). -/
def teamCode : TeamSt → Nat
  | .idle => 0
  | .ready => 1
  | .blocked => 2
  | .fenced => 3
  | .finished => 4
  | .halted => 5

/-- STATE and BLOCK_CAUSE of a Team as they are now (R71, R99): one with a head is READY when the head can issue, and BLOCKED for the
cause that keeps it, 0x08 for a branch or yield. -/
def teamNow (s : State) (p : Nat) (t : Fin 4) : Nat × Nat :=
  let m := getTeam (stall s p).live t
  if m.st ≠ .ready && m.st ≠ .blocked then (teamCode m.st, 0)
  else if m.yield ≠ 0 || onHold s m then (2, 8)
  else match verdictOn s p t with
    | .go => (1, 0)
    | .fault _ _ => (1, 0)
    | .block k => (2, k)
    | .fetch _ => (2, 5)
    | .none => (teamCode m.st, m.cause.toNat)

/-- TEAM_STATE[t]. -/
def viewTeam (s : State) (p : Nat) (t : Nat) : Nat :=
  let x := teamNow s p (Fin.ofNat 4 t)
  x.1 * 2 ^ 29 + x.2 * 2 ^ 24 + (getTeam (stall s p).live (Fin.ofNat 4 t)).pc.toNat

/-- CMP_CFG[k]. -/
def viewCmp (s : State) (p k : Nat) : Nat :=
  let m := nget {} (stall s p).live.cmps k
  m.value.toNat * 2 ^ 32 + bit m.armed * 2 ^ 31 + m.rel.toNat * 2 ^ 16 + m.ctr.toNat * 2 ^ 12 + m.flag.toNat

/-- STALL_PWR: VMAX_MV is fused, the rest is stored. -/
def viewPwr (s : State) (p : Nat) : Nat :=
  let v := (csrGet s (stallCsr p 0x300)).toNat
  bitsOf v 31 20 * 2 ^ 20 + vmaxOf s p % 1024 * 2 ^ 10 + bitsOf v 9 0

/-! ### All registers -/

/-- Views of the YARDMASTER block, by the register's offset. -/
def viewYardmaster (s : State) (base i : Nat) : Option Nat :=
  match base with
  | 0x100 => some (viewSummary s)
  | 0x1000 => some (viewPos s i)
  | 0x2000 => some (viewLoc s i)
  | 0x5000 => some (viewDevbar s)
  | 0x6000 => some (viewIntake s i)
  | 0x6200 => some (viewCtx s i)
  | 0x6408 => some (s.ym.preOver.toNat * 2 ^ 32 + s.ym.preMax.toNat)
  | 0x7000 => some ((recOf s i).opened.getD (recOf s i).count)
  | 0x7200 => some (recOf s i).commitNo
  | 0x7400 => some (viewEpoch s i)
  | _ => none

/-- Views of a stall window, by the register's offset within it. -/
def viewStall (s : State) (p off i : Nat) : Option Nat :=
  match off with
  | 0x000 => some (posCode (position s p).st * 2 ^ 29 + lidOf s p % 1024 * 2 ^ 16 + p)
  | 0x008 => some (viewStatus s p)
  | 0x040 => some (viewDepth s p)
  | 0x080 => some (viewTeam s p i)
  | 0x100 => some ((stall s p).live.flags.toNat / 2 ^ (32 * i) % 2 ^ 32)
  | 0x140 => some (nget 0 (stall s p).live.cnts i).toNat
  | 0x180 => some (viewCmp s p i)
  | 0x300 => some (viewPwr s p)
  | _ => none

/-- Views of the other blocks: register at `base`, instance a, entry b. -/
def viewBlocks (s : State) (base a b : Nat) : Option Nat :=
  match base with
  | 0x0100100 => some ((csrGet s 0x0100100).toNat / 16 * 16 + s.rst.runB.toNat)
  | 0x0200000 => some (now s)
  | 0x0200008 => some (viewLedger s)
  | 0x0300000 => some (viewDrover s a)
  | 0x0500000 => some (dirtyCount s 1 * 2 ^ 21 + dirtyCount s 0)
  | 0x0600000 => some (viewHbm s a)
  | 0x0608000 => some (viewRegionLo s b)
  | 0x0608008 => some (viewRegionHi s b)
  | 0x0700000 => some (viewPort s a)
  | 0x07C0000 => some (viewDevice s)
  | 0x07C0018 => some (viewDeps s)
  | 0x0800000 => some (viewGate s)
  | 0x0900000 => some (viewTack s)
  | 0x0900100 => some (fieldAt (mrOf s a) (8 * b) 8)
  | 0x0900400 => some (fieldAt (cmrOf s a) (8 * b) 8)
  | 0x0901100 => some (viewSlot s b)
  | 0x0A00000 => some (viewSmithy s)
  | 0x0B00000 => some (viewIdent s)
  | 0x0B00008 => some (viewMgStatus s)
  | 0x0D00018 => some (viewDbStatus s)
  | _ => none

/-- A register is there: the Gatehouse's only in bridge mode, ports 40 to 47 only outside it (R331, R361). -/
def regThere (s : State) (base a : Nat) : Bool :=
  if 0x0800000 ≤ base && base < 0x0900000 then s.gate.bridge
  else if 0x0700000 ≤ base && base < 0x0740000 then portThere s a
  else true

/-- The value of a register: instance a, entry b. -/
def regValue (s : State) (r : RegDef) (a b : Nat) : Nat :=
  if !regThere s r.base a then 0 else
  let v := if r.base < 0x100000 then viewYardmaster s r.base b
    else if 0x10000000 ≤ r.base then viewStall s a (r.base - 0x10000000) b
    else viewBlocks s r.base a b
  v.getD (csrGet s (r.base + a * r.strideA + b * r.strideB)).toNat

/-- The 32 bits that stand at an offset: a register of 32 bits, or a half of one of 64; 0 where none lies (R9, R10). -/
def csrWord (s : State) (off : Nat) : Nat :=
  match regAt off with
  | some (r, a, b) => regValue s r a b % 2 ^ 32
  | none =>
    match (if off < 4 then none else regAt (off - 4)) with
    | some (r, a, b) => if r.wide then regValue s r a b / 2 ^ 32 % 2 ^ 32 else 0
    | none => 0

end Sys2Proof.Machine
end

