-- ==== Sys2Proof/Machine/Registers.lean ====
section
/-!
DEFINITION. Reads and writes of the CSR space (R8 to R12, R364, R484): fields that a read clears, writes under each access type,
registers whose writes act; REGISTER_WRITE and the rows of reads that clear, ALERT_CLEAR (R479) and the Daybook's replay (R416 to
R418).
-/

namespace Sys2Proof.Machine

/-! ### Reads -/

/-- What a read of the 32 bits at an offset clears (R8). -/
def csrReadClear (s : State) (off : Nat) : State :=
  if off = 0x6408 then { s with ym := { s.ym with preMax := 0 } }
  else if off = 0x640C then { s with ym := { s.ym with preOver := 0 } }
  else if off = 0x0C00000 then csrSetField s off 23 12 0xFFF
  else if off = 0x0100020 then csrSetField s off 31 16 0
  else if off = 0x0B00020 then csrSetField s off 31 0 0
  else match regAt off with
    | some (r, _, _) => if r.base = 0x10000300 then csrSetField s off 31 20 0 else s
    | none => s

/-- What an access that starts at an offset finds counted: a stall's energy meter up to now, and the cycles that a droop or heat
stretches (R97, R463, R464). -/
def metered (s : State) (off : Nat) : State :=
  let p := (off - 0x10000000) / 0x10000
  if off < 0x10000000 || 832 ≤ p then s
  else if decide (0x308 ≤ off % 0x10000) && decide (off % 0x10000 < 0x310) then countEnergy s p
  else if off % 0x10000 = 0x300 && ((stall s p).droop || (stall s p).thermal) then countStretch s p
  else s

/-- Read the 32 bits at an offset. -/
def csrReadWord (s : State) (off : Nat) : Nat × State := (csrWord s off, csrReadClear s off)

/-- An access of a width at an offset is one that the device accepts (R10). -/
def csrAligned (off width : Nat) : Bool := (width = 4 && off % 4 = 0) || (width = 8 && off % 8 = 0)

/-- A read: any that is not naturally aligned and of 4 or 8 bytes returns 0 (R10). -/
def csrRead (s : State) (off width : Nat) : Nat × State :=
  if !csrAligned off width then (0, s)
  else
  let s := metered s off
  if width = 4 then csrReadWord s off
  else
    let (lo, s1) := csrReadWord s off
    let (hi, s2) := csrReadWord s1 (off + 4)
    (lo + 2 ^ 32 * hi, s2)

/-- A read whose value stands on the bus. -/
def csrBus (s : State) (off width : Nat) : State :=
  let (v, s1) := csrRead s off width
  { s1 with bus := leBytes width v, busEp := false }

/-- STALL_PWR_READ. -/
def execStallPwrRead (p : Position) (s : State) : Host.Outcome State Fault Refusal := .next (csrBus s (stallCsr p 0x300) 4)

/-- PREEMPT_MAX_READ. -/
def execPreemptMaxRead (s : State) : Host.Outcome State Fault Refusal := .next (csrBus s 0x6408 8)

/-- RAIL_STATUS_READ. -/
def execRailStatusRead (s : State) : Host.Outcome State Fault Refusal := .next (csrBus s 0x0C00000 4)

/-- CLK_STATUS_READ. -/
def execClkStatusRead (s : State) : Host.Outcome State Fault Refusal := .next (csrBus s 0x0100020 4)

/-- MG_POWER_READ. -/
def execMgPowerRead (s : State) : Host.Outcome State Fault Refusal := .next (csrBus s 0x0B00020 8)

/-! ### The Daybook (R416 to R418) -/

/-- DB_REPLAY. -/
def dbReplay : Nat := 0x0D00010

/-- The greatest record number below a bound that has a property. -/
def lastRecord (bound : Nat) (f : Nat → Bool) : Option Nat := (List.range bound).reverse.find? f

/-- The full Ledger time of a record: bits 47:0 from the record, the rest from the last EXTEND record at or before it; where the
ring holds none, the last such time that is not after the present (R417). -/
def recordTime (s : State) (n : Nat) : Nat :=
  let t := fieldAt (dbRecord s n) 0 6
  match lastRecord (n + 1) fun k => fieldAt (dbRecord s k) 6 1 = 1 with
  | some k =>
    let e := fieldAt (dbRecord s k) 8 8
    e + (t + 2 ^ 48 - e % 2 ^ 48) % 2 ^ 48
  | none => now s - (now s + 2 ^ 48 - t) % 2 ^ 48

/-- Replay starts at the record that FROM indexes: the commands, arrivals and completions recorded after it have their turn, and
fences move by the offset between now and its time (R418). -/
def startReplay (s : State) (from_ : Nat) : State :=
  let head := (csrGet s 0x0D00000).toNat
  let n := (lastRecord head fun k => k % 33554432 = from_).getD from_
  { s with db := { s.db with
      cmdAt := n + 1, linkAt := n + 1, linkGot := 0, ctAt := n + 1, cmdTurn := s.ledger, linkTurn := s.ledger, ctTurn := s.ledger,
      base := s.ledger - BitVec.ofNat 64 (recordTime s n), holds := true, stop := head } }

/-- A write of DB_REPLAY, with the bits that a write of 1 clears in 62 and 61. -/
def writeReplay (s : State) (v : W64) : State :=
  let x := v.toNat
  let old := (csrGet s dbReplay).toNat
  let keep := bitsOf old 62 61 - bitsOf (old &&& x) 62 61
  let s1 := csrPut s dbReplay (BitVec.ofNat 64 (bitsOf x 63 63 * 2 ^ 63 + keep * 2 ^ 61 + bitsOf x 60 55 * 2 ^ 55 + bitsOf x 24 0))
  if bitOf x 63 && !bitOf old 63 then replayDone (startReplay s1 (bitsOf x 24 0))
  else if !bitOf x 63 && bitOf old 63 then { s1 with db := { s1.db with holds := false, base := 0 } }
  else s1

/-- REPLAY_START: a write that sets EN. -/
def execReplayStart (value : W64) (s : State) : Host.Outcome State Fault Refusal :=
  .next (if bitOf value.toNat 63 && !csrBit s dbReplay 63 then writeReplay s value else s)

/-- An event that the replay waits for has had its turn for 10 ms. -/
def overdue (s : State) (type at_ : Nat) (turn : W64) : Bool :=
  (dbFind s type (csrField s dbReplay 60 55) at_).isSome && decide (turn.toNat + 10000000 ≤ now s)

/-- REPLAY_DIVERGE: DIVERGED is set, and the replay holds no further event. -/
def execReplayDiverge (s : State) : Host.Outcome State Fault Refusal :=
  .next (
    if csrBit s dbReplay 63 && s.db.holds &&
       (overdue s 2 s.db.cmdAt s.db.cmdTurn || overdue s 3 s.db.linkAt s.db.linkTurn || overdue s 5 s.db.ctAt s.db.ctTurn)
    then csrSetField { s with db := { s.db with holds := false } } dbReplay 61 61 1 else s)

/-- DAYBOOK_EXTEND: 2^47 ns of Ledger since the last EXTEND record. -/
def execDaybookExtend (s : State) : Host.Outcome State Fault Refusal :=
  .next (
    if booted s && s.db.extend.toNat + 2 ^ 47 ≤ now s
    then dbAppend { s with db := { s.db with extend := s.ledger } } 1 0x40 (leBytes 8 (now s)) else s)

/-! ### Writes -/

/-- A write of MG_ALERT clears classes; FAULT_N follows once boot has ended (R479). -/
def writeAlert (s : State) (v : Nat) : State :=
  let old := csrField s 0x0B00010 10 1
  let s1 := csrSetField s 0x0B00010 10 1 (old - (old &&& bitsOf v 10 1))
  if booted s then driveFaultN s1 else s1

/-- ALERT_CLEAR. -/
def execAlertClear (value : W32) (s : State) : Host.Outcome State Fault Refusal := .next (writeAlert s value.toNat)

/-- A write of MG_CFG that takes the static address away starts DHCPv4 (R469). -/
def writeMgCfg (s : State) (v : Nat) : State :=
  let s1 := csrPut s 0x0B00018 (BitVec.ofNat 64 (bitsOf v 63 16 * 2 ^ 16 + bitsOf v 10 1 * 2))
  if csrField s 0x0B00018 63 32 ≠ 0 && dhcpOn s1 then dhcpSend s1 (if s1.ostler.ip = 0 then 1 else 3) else s1

/-- The bits of a field. -/
def fieldBits (f : FieldDef) : Nat := 2 ^ (f.hi + 1) - 2 ^ f.lo

/-- The bits of a register that have one of the access types. -/
def accBits (r : RegDef) (as_ : List Acc) : Nat := sumOf ((r.fields.filter fun f => as_.contains f.acc).map fieldBits)

/-- A write under the access types alone: of the bits that the access reaches, RW bits take the value, W1C bits written with 1
clear and W1S bits set; a first-event register whose VALID is cleared clears MORE too. -/
def plainWrite (r : RegDef) (old v mask : Nat) : Nat :=
  let rw := accBits r [.rw] &&& mask
  let w1c := accBits r [.w1c] &&& mask &&& v
  let more := if bitOf w1c 63 && r.fields.contains ⟨62, 62, .ro, 0⟩ && r.base ≠ 0x0901008 then 2 ^ 62 else 0
  let x := old - (old &&& rw) + (v &&& rw)
  (x - (x &&& (w1c ||| more))) ||| (accBits r [.w1s] &&& mask &&& v)

/-- What a register whose writes act is given: RW bits as they will stand, and the other bits as written. -/
def actValue (r : RegDef) (old v mask : Nat) : Nat :=
  let rw := accBits r [.rw]
  (old &&& rw) - (old &&& rw &&& mask) + (v &&& rw &&& mask) + (v &&& accBits r [.wo, .w1c, .w1s] &&& mask)

/-- A write of register r, instance a, entry b, by an access that reaches the bits of `mask`. -/
def regWrite (s : State) (r : RegDef) (a b v mask : Nat) : State :=
  if !regThere s r.base a then s else
  let o := r.base + a * r.strideA + b * r.strideB
  let old := (csrGet s o).toNat
  let x := actValue r old v mask
  match r.base with
  | 0x0100010 => writeWdog s x
  | 0x0100018 => writeBlk s (BitVec.ofNat 64 x)
  | 0x0100100 => if bitOf x 31 then writeActivate s else s
  | 0x0200018 => writeLedgerSet s (BitVec.ofNat 64 (now s - (now s &&& mask) + (v &&& mask)))
  | 0x0600200 => writeLoop s a (BitVec.ofNat 64 x)
  | 0x0700008 => writePortCfg s a x
  | 0x0901000 => writeRequest s (BitVec.ofNat 64 x)
  | 0x0901010 => writeInstall s (BitVec.ofNat 64 x)
  | 0x0B00010 => writeAlert s x
  | 0x0B00018 => writeMgCfg s x
  | 0x0C00100 => writeScan s (BitVec.ofNat 64 x)
  | 0x0D00010 => writeReplay s (BitVec.ofNat 64 x)
  | _ => csrPut s o (BitVec.ofNat 64 (plainWrite r old v mask))

/-- A write of 32 bits at an offset. -/
def csrWriteWord (s : State) (off v : Nat) : State :=
  match regAt off with
  | some (r, a, b) => regWrite s r a b v (2 ^ 32 - 1)
  | none =>
    match (if off < 4 then none else regAt (off - 4)) with
    | some (r, a, b) => if r.wide then regWrite s r a b (v * 2 ^ 32) (2 ^ 64 - 2 ^ 32) else s
    | none => s

/-- A write: any that is not naturally aligned and of 4 or 8 bytes has no effect (R10). -/
def csrWrite (s : State) (off width v : Nat) : State :=
  if !csrAligned off width then s
  else if width = 4 then csrWriteWord s off (v % 2 ^ 32)
  else match regAt off with
    | some (r, a, b) =>
      if r.wide then regWrite s r a b v (2 ^ 64 - 1) else csrWriteWord (csrWriteWord s off (v % 2 ^ 32)) (off + 4) (v / 2 ^ 32)
    | none => csrWriteWord (csrWriteWord s off (v % 2 ^ 32)) (off + 4) (v / 2 ^ 32)

/-- The blocks of the Tack Room and the Smithy, which the debug access port does not reach (R430; DEDUCED, log 33). -/
def inSecure (off : Nat) : Bool := decide (0x0900000 ≤ off) && decide (off < 0x0B00000)

/-- The CSR offset of a BAR0 offset: the first 16 MiB of the CSR space, then the first 32 KiB of each stall's window (R363). -/
def bar0Csr (off : Nat) : Option Nat :=
  if off < 0x1000000 then some off
  else if off < 0x1000000 + 832 * 0x8000 then some (stallCsr ((off - 0x1000000) / 0x8000) (off % 0x8000))
  else none

/-- A requester's write of a register: the PF at a BAR0 offset on a bridge whose link is up, the Ostler and the debug access port
at a CSR offset; a VF reaches no register, and its access completes as Unsupported Request (R363, R364, R430). -/
def writeCsr (s : State) (who : Requester) (off width v : Nat) : State :=
  match who with
  | .pf => if s.gate.bridge && s.gate.linkUp then (match bar0Csr off with
      | some o => csrWrite s o width v
      | none => s) else s
  | .vf n => if s.gate.linkUp then aerError s n.val .unsupportedRequest else s
  | .ostler => if s.ostler.up then csrWrite s off width v else s
  | .debugPort => if inSecure off then s else csrWrite s off width v

/-- REGISTER_WRITE. A write through the debug access port is a debug access (R443). -/
def execRegisterWrite (who : Requester) (off width : Nat) (value : W64) (s : State) : Host.Outcome State Fault Refusal :=
  .next (
    let s1 := if who = .debugPort then debugRecord s 3 (0xA000000000 + off) else s
    writeCsr s1 who off width value.toNat)

end Sys2Proof.Machine
end

