-- ==== Sys2Proof/Machine/Management.lean ====
section
/-!
DEFINITION. The Thiash management messages (R471, R472, R478): CSR_READ, CSR_WRITE, SUBSCRIBE, REPORT_GET, RESET, FLASH_WRITE,
DIRECTORY, FABRIC_KEY, SVN_RAISE, TELEMETRY_GET, and any other OP.
-/

namespace Sys2Proof.Machine

/-- The message arrives inside an established session of its transport. -/
def inSession (s : State) (h : MgmtHdr) : Bool := h.secured && s.tack.sessions.any fun x => x.live && x.via = h.via

/-- The response to a request: its OP, STATUS and TAG, and a body (R471). -/
def mgReply (s : State) (h : MgmtHdr) (op status : Nat) (body : List Byte) : State :=
  mgSend s h.via h.secured (mgBytes op status h.tag.toNat body)

/-- A READ message: `ok` says that its fields are in range; else BAD_REQUEST. -/
def mgRead (s : State) (h : MgmtHdr) (op : Nat) (ok : Bool) (go : State) : State :=
  tookMessage (if !mctpReaches s h.via then s else if ok then go else mgReply s h op 2 []) h.via

/-- A CONTROL message: performed inside a secured session, or in the recovery state where it is one of the three exceptions; else
DENIED and counted (R472). -/
def mgControl (s : State) (h : MgmtHdr) (op : Nat) (exempt ok : Bool) (go : State) : State :=
  tookMessage (
    if !mctpReaches s h.via then s
    else if !(if s.rst.recovery then exempt else inSession s h) then mgCount (mgReply s h op 1 []) 2
    else if ok then mgReply go h op 0 [] else mgReply s h op 2 []) h.via

/-- The CSR offset of a device address, of an access of 4 or 8 bytes; other addresses are out of range. -/
def csrOffset (addr : W64) (width : Nat) : Option Nat :=
  if (width = 4 || width = 8) && decide (0xA000000000 ≤ addr.toNat) && decide (addr.toNat < 0xB000000000) then some (addr.toNat - 0xA000000000)
  else none

/-- CSR_READ. -/
def execCsrRead (h : MgmtHdr) (addr : W64) (width : Nat) (s : State) : Host.Outcome State Fault Refusal :=
  .next (
    let o := csrOffset addr width
    let (v, s1) := csrRead s (o.getD 0) width
    mgRead s h 1 o.isSome (mgReply s1 h 1 0 (leBytes width v)))

/-- CSR_WRITE. -/
def execCsrWrite (h : MgmtHdr) (addr : W64) (width : Nat) (value : W64) (s : State) : Host.Outcome State Fault Refusal :=
  .next (
    let o := csrOffset addr width
    mgControl s h 2 false o.isSome (writeCsr s .ostler (o.getD 0) width value.toNat))

/-- SUBSCRIBE: the slot holds the requester's transport and mask; CLASSES = 0 and TELEM = 0 cancel it. -/
def execSubscribe (h : MgmtHdr) (slot : Nat) (classes : BitVec 16) (telem : Nat) (s : State) : Host.Outcome State Fault Refusal :=
  .next (
    let sub : Option Sub := if classes = 0 && telem = 0 then none else some { via := h.via, classes := classes, telem := telem = 1 }
    mgRead s h 3 (decide (slot ≤ 3) && decide (telem ≤ 1))
      (mgReply (modOstler s fun o => { o with subs := nset none o.subs slot sub }) h 3 0 []))

/-- The records of the ring from a sequence number onward. -/
def recordsFrom (s : State) (from_ : W32) : List (List Byte) :=
  (s.ostler.ring.filter fun r => (BitVec.ofNat 32 (fieldAt r 0 4) - from_).toNat < 2 ^ 31).take 32

/-- REPORT_GET. -/
def execReportGet (h : MgmtHdr) (fromSeq : W32) (s : State) : Host.Outcome State Fault Refusal :=
  .next (mgRead s h 4 true (mgReply s h 4 0 (recordsFrom s fromSeq).flatten))

/-- MGMT_RESET: a management reset source (R449). The response leaves first. -/
def execMgmtReset (h : MgmtHdr) (level : Byte) (s : State) : Host.Outcome State Fault Refusal :=
  .next (
    let ok := level = 1 || level = 2
    let s1 := mgControl s h 5 (level = 2) ok s
    if ok && mctpReaches s h.via && (if s.rst.recovery then level = 2 else inSession s h) then requestReset s1 level.toNat 4 else s1)

/-- A byte of flash lies in the inactive slot of some component. -/
def inInactive (s : State) (o : Nat) : Bool :=
  match areaOf o with
  | some (c, b) => activeB s.ostler.dir c != b
  | none => false

/-- FLASH_WRITE: up to 4,096 bytes; the directory and active slots are closed to it. -/
def execFlashWrite (h : MgmtHdr) (off : Nat) (data : List Byte) (s : State) : Host.Outcome State Fault Refusal :=
  .next (
    let os := (List.range data.length).map (off + ·)
    let ok := decide (data.length ≤ 4096) && decide (off + data.length ≤ flashSize) && !(os.any (flashClosed s))
    mgControl s h 6 (os.all (inInactive s)) ok (flashWriteData s off data))

/-- DIRECTORY: the active slot of each component. -/
def execDirectory (h : MgmtHdr) (slots : Byte) (s : State) : Host.Outcome State Fault Refusal :=
  .next (mgControl s h 7 true (decide (slots.toNat < 8))
    ([1, 2, 3].foldl restage (modOstler s fun o => { o with dir := slots.setWidth 3 })))

/-- FABRIC_KEY: erased or installed, in the Tack Room and in flash (R420). -/
def execFabricKey (h : MgmtHdr) (op : Byte) (key : BitVec 256) (s : State) : Host.Outcome State Fault Refusal :=
  .next (
    let k := if op = 1 then some key else none
    mgControl s h 8 false (op = 0 || op = 1) (modOstler (modTack s fun t => { t with fabric := k }) fun o => { o with fabric := k }))

/-- SVN_RAISE: the fused floor rises; staged images are judged again. -/
def execSvnRaise (h : MgmtHdr) (floor : Byte) (s : State) : Host.Outcome State Fault Refusal :=
  .next (mgControl s h 9 false (decide (s.fuses.svnFloor < floor.toNat))
    ([1, 2, 3].foldl restage { s with fuses := { s.fuses with svnFloor := floor.toNat } }))

/-- TELEMETRY_GET: the latest record; before the first one the response's record is a free value (DESIGN CHOICE, log 2). -/
def execTelemetryGet (h : MgmtHdr) (s : State) : Host.Outcome State Fault Refusal :=
  .next (mgRead s h 0x0A true (
    if s.ostler.telem = [] then
      let (v, s1) := draw s
      mgReply s1 h 0x0A 0 (leBytes 48 v)
    else mgReply s h 0x0A 0 s.ostler.telem))

/-- UNDEFINED_MANAGEMENT_OP: an OP outside 0x01 to 0x0A is answered with BAD_REQUEST. -/
def execUndefinedManagementOp (h : MgmtHdr) (op : Byte) (s : State) : Host.Outcome State Fault Refusal :=
  .next (mgRead s h op.toNat (decide (1 ≤ op.toNat) && decide (op.toNat ≤ 10)) s)

end Sys2Proof.Machine
end

