-- ==== Sys2Proof/Machine/Debug.lean ====
section
/-!
DEFINITION. The TAP (R492) and the debug access port (R430, R443 to R445, R468).
-/

namespace Sys2Proof.Machine

/-! ### The TAP -/

/-- The instruction register takes a code. -/
def tapSelect (s : State) (ir : Byte) : State := { s with tap := { ir := ir } }

/-- A JTAG instruction reaches Update-IR. All but IDCODE and BYPASS are debug accesses (R443), and a device held for TEST_EN
answers only those two (R491). -/
def jtag (s : State) (ir : Byte) : State :=
  if ir = 0x01 || ir = 0xFF then tapSelect s ir
  else if s.rst.testEn then s
  else tapSelect (debugRecord s 1 ir.toNat) ir

/-- The 32-bit identity (R492). -/
def identity (s : State) : Nat := s.fuses.stepping % 16 * 2 ^ 28 + partNumber s * 2 ^ 12 + 0x2B5 * 2 + 1

/-- EXTEST. -/
def execExtest (s : State) : Host.Outcome State Fault Refusal := .next (jtag s 0x00)

/-- IDCODE: the identity register is selected, and shifts out the identity. -/
def execIdcode (s : State) : Host.Outcome State Fault Refusal :=
  .next { jtag s 0x01 with bus := leBytes 4 (identity s), busEp := false }

/-- SAMPLE/PRELOAD. -/
def execSamplePreload (s : State) : Host.Outcome State Fault Refusal := .next (jtag s 0x02)

/-- CLAMP. -/
def execClamp (s : State) : Host.Outcome State Fault Refusal := .next (jtag s 0x03)

/-- HIGHZ. -/
def execHighz (s : State) : Host.Outcome State Fault Refusal := .next (jtag s 0x04)

/-- DAP_ACCESS. -/
def execDapAccess (s : State) : Host.Outcome State Fault Refusal := .next (jtag s 0x08)

/-- BYPASS. -/
def execBypass (s : State) : Host.Outcome State Fault Refusal := .next (jtag s 0xFF)

/-- TRST_N: Test-Logic-Reset selects IDCODE. -/
def execTrstN (s : State) : Host.Outcome State Fault Refusal := .next (tapSelect s 0x01)

/-! ### The debug access port -/

/-- Codes of R492's table; any other selects the bypass register. -/
def tapDefined (ir : Nat) : Bool := [0x00, 0x01, 0x02, 0x03, 0x04, 0x08, 0xFF].contains ir

/-- A byte of Ostler memory: of the SRAM what a debug access has written, else a free value, as of the boot ROM; beyond them 0
(R468; DESIGN CHOICE, log 2). -/
def ostlerByte (s : State) (o v : Nat) : Byte :=
  if o < 0x100000 then (match s.ostler.sram.find? fun e => e.1 = o with
    | some e => e.2
    | none => BitVec.ofNat 8 v)
  else if o < 0x120000 then BitVec.ofNat 8 v
  else 0

/-- A DAP access of Ostler memory; writes beyond the SRAM are ignored. -/
def ostlerMemory (s : State) (o : Nat) (a : Access) : State :=
  match a with
  | .read len =>
    let (vs, s1) := drawMany s len
    { s1 with bus := (vs.zipIdx).map fun (v, i) => ostlerByte s (o + i) v, busEp := false }
  | .write data =>
    modOstler s fun x => { x with sram := (data.zipIdx).foldl (fun m (b, i) =>
      if o + i < 0x100000 then ninsert m (o + i) b else m) x.sram }

/-- A DAP access of the CSR space; the Tack Room's and the Smithy's blocks are not reached (DEDUCED, log 33). -/
def dapCsr (s : State) (o : Nat) (a : Access) : State :=
  match a with
  | .read len => if inSecure o then { s with bus := List.replicate len 0, busEp := false } else csrBus s o len
  | .write data => writeCsr s .debugPort o data.length (leNat data)

/-- A DAP access: recorded, and performed where the port reaches (R430). A read elsewhere returns nothing. -/
def dap (s : State) (addr : Nat) (a : Access) : State :=
  if 0x8000000000 ≤ addr && addr < 0x8000000000 + 832 * 2 ^ 20 then
    loftWindow .debugPort ((addr - 0x8000000000) / 2 ^ 20) (addr % 2 ^ 20) a s
  else if 0x9000000000 ≤ addr && addr < 0x9000000000 + 2 ^ 28 then granaryWindow .debugPort (addr - 0x9000000000) a s
  else
    let s1 := debugRecord s (accessKind a) addr
    if 0xA000000000 ≤ addr && addr < 0xB000000000 then dapCsr s1 (addr - 0xA000000000) a
    else if 0xB000000000 ≤ addr && addr < 0xC000000000 then ostlerMemory s1 (addr - 0xB000000000) a
    else match a with
      | .read _ => { s1 with bus := [], busEp := false }
      | .write _ => s1

/-- DEBUG_ACCESS: an undefined JTAG code, which selects the bypass register, or an access through the port. -/
def execDebugAccess (addr : W64) (op : Option Access) (s : State) : Host.Outcome State Fault Refusal :=
  .next (match op with
    | none => if tapDefined (addr.toNat % 256) then s else jtag s (addr.setWidth 8)
    | some a => if s.rst.testEn then s else dap s addr.toNat a)

end Sys2Proof.Machine
end

