-- ==== Sys2Proof/Machine/SystemBarrier.lean ====
section
/-!
DEFINITION. System barriers (R358): the device's part, its ARRIVE and RELEASE tokens, and the rows that can complete the part.
For a context c and ID i the Yardmaster keeps the local arrivals (0), the present phase (2) and whether ARRIVE has been sent (3).
-/

namespace Sys2Proof.Machine

/-- A number that the Yardmaster keeps of a system barrier. -/
def getSys (s : State) (c id which : Nat) : Nat := nget 0 s.ym.sysArr (sysKey c id which)
/-- Set it. -/
def setSys (s : State) (c id which v : Nat) : State :=
  { s with ym := { s.ym with sysArr := nset 0 s.ym.sysArr (sysKey c id which) v } }

/-- Children whose ARRIVE has come in the present phase. -/
def sysKidsOf (s : State) (c id : Nat) : List Nat := nget [] s.ym.sysKids (c * 16 + id)
/-- Replace them. -/
def setKids (s : State) (c id : Nat) (ks : List Nat) : State :=
  { s with ym := { s.ym with sysKids := nset [] s.ym.sysKids (c * 16 + id) ks } }

/-- A BARRIER token: KIND 0 ARRIVE, 1 RELEASE (R334). -/
def sendToken (s : State) (c id dst phase kind : Nat) : State :=
  sendFlit s 0 (mkFlit s 0xC 3 dst 0 0 (leBytes 4 (ctx s c).job.toNat ++ leBytes 1 (id + phase * 16 + kind * 32)))

/-- The claims of a system barrier; none where CLAIMS has no record of it. -/
def sysBar (s : State) (c id : Nat) : Option SysBar := (imageOf s c).sysbars.find? fun b => b.id = id

/-- The closing barrier of a context that does not run: its records stand in the handle table already. -/
def closingAway (s : State) (c : Nat) : State :=
  let s1 := modCtx s c fun x => { x with wbacks := [] }
  if (recOf s1 c).opened.isSome && (recOf s1 c).openAt.toNat + epochNs s1 c ≤ now s1 then closeEpoch s1 c else s1

/-- The phase ends: RELEASE goes on to the children, the system sense is written at each local participant, in its saved state
where the context does not run, and system barrier 0 closes a step (R285, R358). -/
def sysRelease (s : State) (c id phase : Nat) : State :=
  let s1 := (sysKidsOf s c id).foldl (fun s k => sendToken s c id k phase 1) s
  let s2 := (participants s1 c).foldl (fun s p => modStallCtx s c (lidOf s p) fun x =>
    modBar x (128 + id) fun b => { b with rphase := phase = 1 }) s1
  let s3 := setKids (setSys (setSys (setSys s2 c id 0 0) c id 3 0) c id 2 phase) c id []
  if id = 0 then (if runningNo s3 = c then closingBarrier s3 c else closingAway s3 c) else s3

/-- The device's part of a phase completes once: every local participant has arrived, every child has sent ARRIVE, and for
barrier 0 every write-back is stored. Then ARRIVE goes to the parent, and at the root the phase ends (R285, R358). -/
def sysPart (s : State) (c id : Nat) : State :=
  match sysBar s c id with
  | none => s
  | some b =>
    let phase := 1 - getSys s c id 2
    if getSys s c id 3 = 1 || (participants s c) = [] || getSys s c id 0 < (participants s c).length ||
      (sysKidsOf s c id).length < b.children || (id = 0 && writeBacksOpen s c) then s
    else if b.parent = 0x7FFF then sysRelease s c id phase
    else sendToken (setSys s c id 3 1) c id b.parent phase 0

/-- BARRIER_TOKEN: an ARRIVE of a child in the present phase is counted, and a RELEASE ends the phase (R358). The token's JOB
names the context here as at its sender. -/
def execBarrierToken (i : Nat) (s : State) : Host.Outcome State Fault Refusal :=
  .next (match rxEntry s i with
    | none => s
    | some h =>
      let b := h.bytes
      if flitType b ≠ 0xC then s else
      let id := flitField b 20 1 3 0
      let phase := flitField b 20 1 4 4
      match ctxOfJob s (flitJob b) with
      | none => consume s i h
      | some c =>
        let s1 := consume s i h
        if phase = getSys s1 c id 2 then s1
        else if flitField b 20 1 5 5 = 1 then sysRelease s1 c id phase
        else if (sysKidsOf s1 c id).contains (flitSrc b) then s1
        else sysPart (setKids s1 c id (sysKidsOf s1 c id ++ [flitSrc b])) c id)

/-- ARRIVAL_POSTED: every remote write that the stall sent before its BAR.ARRIVE is acknowledged, and the arrival is
posted: to the root of a partition, on the device wire, or to the Yardmaster for a system barrier (R283, R284, R358). -/
def execArrivalPosted (p : Position) (k : Nat) (s : State) : Host.Outcome State Fault Refusal :=
  .next (
    let x := stall s p
    let c := runningNo s
    match (barOf x.live k).bound with
    | none => s
    | some b =>
      if x.unacked.any (· < b) then s else
      let s1 := modLive s p fun y => modBar y k fun v => { v with bound := none }
      let s2 := if k = 64 || k = 128 then sendWriteBacks s1 p c else s1
      if k < 64 then
        match (setMembers (imageOf s c) k).mergeSort (· ≤ ·) with
        | [] => s2
        | r :: _ => match posOfLid s r with
          | none => yardCount (stallFault s2 p c 0 0 hNone 0 0x0102) 0 1
          | some q => sendBridle s2 (.stall p) (.stall q) c (.arrive k (lidOf s p))
      else if k < 128 then modLive s2 p fun y => modBar y k fun v => { v with drive := v.lsense }
      else
        sysPart (yardCount (setSys s2 c (k - 128) 0 (getSys s2 c (k - 128) 0 + 1)) 5 1) c (k - 128))

/-- WRITE_BACK_RECORD (R59). -/
def execWriteBackRecord (m : Nat) (s : State) : Host.Outcome State Fault Refusal :=
  .next (match arriving s m with
    | some ⟨_, _, .yardmaster, _, c, .writeBack lid h r poison⟩ => sysPart (storeCopy (dropMsg s m) c lid h r poison) c 0
    | _ => s)

end Sys2Proof.Machine
end

