-- ==== Sys2Proof/Machine/Dispatch.lean ====
section
/-!
DEFINITION. One arm for each command: a direct call of its meaning.
-/

namespace Sys2Proof.Machine

def exec (i : Instr) (s : State) : Host.Outcome State Fault Refusal :=
  match i with
  | .maForm p t => Sys2Proof.Machine.execMaForm p t s
  | .maMac p t => Sys2Proof.Machine.execMaMac p t s
  | .maMacz p t => Sys2Proof.Machine.execMaMacz p t s
  | .maDrain p t => Sys2Proof.Machine.execMaDrain p t s
  | .teNtt p t => Sys2Proof.Machine.execTeNtt p t s
  | .teIntt p t => Sys2Proof.Machine.execTeIntt p t s
  | .teAuto p t => Sys2Proof.Machine.execTeAuto p t s
  | .teNtt4 p t => Sys2Proof.Machine.execTeNtt4 p t s
  | .teIntt4 p t => Sys2Proof.Machine.execTeIntt4 p t s
  | .eeAdd p t => Sys2Proof.Machine.execEeAdd p t s
  | .eeSub p t => Sys2Proof.Machine.execEeSub p t s
  | .eeNeg p t => Sys2Proof.Machine.execEeNeg p t s
  | .eeMul p t => Sys2Proof.Machine.execEeMul p t s
  | .eeMac p t => Sys2Proof.Machine.execEeMac p t s
  | .eeMulc p t => Sys2Proof.Machine.execEeMulc p t s
  | .eeAddc p t => Sys2Proof.Machine.execEeAddc p t s
  | .eeMov p t => Sys2Proof.Machine.execEeMov p t s
  | .eeBcast p t => Sys2Proof.Machine.execEeBcast p t s
  | .eeRescale p t => Sys2Proof.Machine.execEeRescale p t s
  | .eeModraise p t => Sys2Proof.Machine.execEeModraise p t s
  | .eeCmpeq p t => Sys2Proof.Machine.execEeCmpeq p t s
  | .eeCmplt p t => Sys2Proof.Machine.execEeCmplt p t s
  | .eeSel p t => Sys2Proof.Machine.execEeSel p t s
  | .eeMin p t => Sys2Proof.Machine.execEeMin p t s
  | .eeMax p t => Sys2Proof.Machine.execEeMax p t s
  | .eeCast p t => Sys2Proof.Machine.execEeCast p t s
  | .eeReduce p t => Sys2Proof.Machine.execEeReduce p t s
  | .ctLoad p t => Sys2Proof.Machine.execCtLoad p t s
  | .ctStore p t => Sys2Proof.Machine.execCtStore p t s
  | .ctCopy p t => Sys2Proof.Machine.execCtCopy p t s
  | .ctGather p t => Sys2Proof.Machine.execCtGather p t s
  | .ctScatter p t => Sys2Proof.Machine.execCtScatter p t s
  | .ctScatteracc p t => Sys2Proof.Machine.execCtScatteracc p t s
  | .ctFill p t => Sys2Proof.Machine.execCtFill p t s
  | .ctAtom p t => Sys2Proof.Machine.execCtAtom p t s
  | .ydPut p t => Sys2Proof.Machine.execYdPut p t s
  | .ydMcast p t => Sys2Proof.Machine.execYdMcast p t s
  | .ydFlag p t => Sys2Proof.Machine.execYdFlag p t s
  | .ydCadd p t => Sys2Proof.Machine.execYdCadd p t s
  | .ydBflag p t => Sys2Proof.Machine.execYdBflag p t s
  | .ydBcadd p t => Sys2Proof.Machine.execYdBcadd p t s
  | .drvKey p t => Sys2Proof.Machine.execDrvKey p t s
  | .drvWt p t => Sys2Proof.Machine.execDrvWt p t s
  | .flSet p t => Sys2Proof.Machine.execFlSet p t s
  | .flClr p t => Sys2Proof.Machine.execFlClr p t s
  | .flMset p t => Sys2Proof.Machine.execFlMset p t s
  | .flMclr p t => Sys2Proof.Machine.execFlMclr p t s
  | .barArrive p t => Sys2Proof.Machine.execBarArrive p t s
  | .barWait p t => Sys2Proof.Machine.execBarWait p t s
  | .hdlSet p t => Sys2Proof.Machine.execHdlSet p t s
  | .hdlFetch p t => Sys2Proof.Machine.execHdlFetch p t s
  | .cntSet p t => Sys2Proof.Machine.execCntSet p t s
  | .cntAdd p t => Sys2Proof.Machine.execCntAdd p t s
  | .cntQdepth p t => Sys2Proof.Machine.execCntQdepth p t s
  | .cmpArm p t => Sys2Proof.Machine.execCmpArm p t s
  | .cmpDisarm p t => Sys2Proof.Machine.execCmpDisarm p t s
  | .timeFence p t => Sys2Proof.Machine.execTimeFence p t s
  | .timeBase p t => Sys2Proof.Machine.execTimeBase p t s
  | .timeRead p t => Sys2Proof.Machine.execTimeRead p t s
  | .br p t => Sys2Proof.Machine.execBr p t s
  | .brCnt p t => Sys2Proof.Machine.execBrCnt p t s
  | .brFlag p t => Sys2Proof.Machine.execBrFlag p t s
  | .loopSet p t => Sys2Proof.Machine.execLoopSet p t s
  | .loopInc p t => Sys2Proof.Machine.execLoopInc p t s
  | .loopDo p t => Sys2Proof.Machine.execLoopDo p t s
  | .teamYield p t => Sys2Proof.Machine.execTeamYield p t s
  | .teamCfg p t => Sys2Proof.Machine.execTeamCfg p t s
  | .halt p t => Sys2Proof.Machine.execHalt p t s
  | .engineInstructionComplete p n check => Sys2Proof.Machine.execEngineInstructionComplete p n check s
  | .arbitration p n line orig redo predicted => Sys2Proof.Machine.execArbitration p n line orig redo predicted s
  | .fenceRelease p t => Sys2Proof.Machine.execFenceRelease p t s
  | .comparatorFire p k => Sys2Proof.Machine.execComparatorFire p k s
  | .flagTimeout p t => Sys2Proof.Machine.execFlagTimeout p t s
  | .handleFetchComplete m => Sys2Proof.Machine.execHandleFetchComplete m s
  | .remoteLineWrite m check => Sys2Proof.Machine.execRemoteLineWrite m check s
  | .levelHoldExpiry m => Sys2Proof.Machine.execLevelHoldExpiry m s
  | .remoteCompletionArrival m => Sys2Proof.Machine.execRemoteCompletionArrival m s
  | .remoteFlagWrite m => Sys2Proof.Machine.execRemoteFlagWrite m s
  | .copyRequest m => Sys2Proof.Machine.execCopyRequest m s
  | .copyReturn m bad => Sys2Proof.Machine.execCopyReturn m bad s
  | .writeAck m => Sys2Proof.Machine.execWriteAck m s
  | .arrivalPosted p k => Sys2Proof.Machine.execArrivalPosted p k s
  | .barrierArrivalAtRoot m => Sys2Proof.Machine.execBarrierArrivalAtRoot m s
  | .barrierRelease m => Sys2Proof.Machine.execBarrierRelease m s
  | .deviceBarrierComplete id => Sys2Proof.Machine.execDeviceBarrierComplete id s
  | .writeBackRecord m => Sys2Proof.Machine.execWriteBackRecord m s
  | .epochCommit c => Sys2Proof.Machine.execEpochCommit c s
  | .stepAbort c => Sys2Proof.Machine.execStepAbort c s
  | .contextDrained c => Sys2Proof.Machine.execContextDrained c s
  | .rollback c => Sys2Proof.Machine.execRollback c s
  | .contextSwitch => Sys2Proof.Machine.execContextSwitch s
  | .quantumExpiry => Sys2Proof.Machine.execQuantumExpiry s
  | .stallGate p => Sys2Proof.Machine.execStallGate p s
  | .stallNap p => Sys2Proof.Machine.execStallNap p s
  | .stallWake p => Sys2Proof.Machine.execStallWake p s
  | .ageingMeasurement p mv => Sys2Proof.Machine.execAgeingMeasurement p mv s
  | .paritySweep p => Sys2Proof.Machine.execParitySweep p s
  | .loftWindowAccess who p off a => Sys2Proof.Machine.execLoftWindowAccess who p off a s
  | .granaryWindowAccess who off a => Sys2Proof.Machine.execGranaryWindowAccess who off a s
  | .drvRequest m r => Sys2Proof.Machine.execDrvRequest m r s
  | .gangWaitExpiry d g => Sys2Proof.Machine.execGangWaitExpiry d g s
  | .seedCheck d e faulty => Sys2Proof.Machine.execSeedCheck d e faulty s
  | .poisonNotice m => Sys2Proof.Machine.execPoisonNotice m s
  | .drvComplete p n => Sys2Proof.Machine.execDrvComplete p n s
  | .hbmReadRequest m err => Sys2Proof.Machine.execHbmReadRequest m err s
  | .hbmWriteRequest m bad errs => Sys2Proof.Machine.execHbmWriteRequest m bad errs s
  | .hbmReadReturn m bad => Sys2Proof.Machine.execHbmReadReturn m bad s
  | .writeCombineTimeout st g err => Sys2Proof.Machine.execWriteCombineTimeout st g err s
  | .rowRepair st pc row ppr errs => Sys2Proof.Machine.execRowRepair st pc row ppr errs s
  | .refresh st pc bank => Sys2Proof.Machine.execRefresh st pc bank s
  | .patrol st g err => Sys2Proof.Machine.execPatrol st g err s
  | .regionInitDone r => Sys2Proof.Machine.execRegionInitDone r s
  | .regionScrubDone r => Sys2Proof.Machine.execRegionScrubDone r s
  | .hbmLoopStart st value => Sys2Proof.Machine.execHbmLoopStart st value s
  | .hbmLoopDone st errors => Sys2Proof.Machine.execHbmLoopDone st errors s
  | .granaryRequest m bad ecc => Sys2Proof.Machine.execGranaryRequest m bad ecc s
  | .granaryFill c slot errs => Sys2Proof.Machine.execGranaryFill c slot errs s
  | .granaryWriteback w => Sys2Proof.Machine.execGranaryWriteback w s
  | .atomicResult m => Sys2Proof.Machine.execAtomicResult m s
  | .idle n flit => Sys2Proof.Machine.execIdle n flit s
  | .nak n flit => Sys2Proof.Machine.execNak n flit s
  | .flitReceive n flit => Sys2Proof.Machine.execFlitReceive n flit s
  | .replayTimeout n => Sys2Proof.Machine.execReplayTimeout n s
  | .linkTrained n lanes => Sys2Proof.Machine.execLinkTrained n lanes s
  | .trainingTimeout n => Sys2Proof.Machine.execTrainingTimeout n s
  | .flitForward n => Sys2Proof.Machine.execFlitForward n s
  | .flitLifetimeExpiry n k => Sys2Proof.Machine.execFlitLifetimeExpiry n k s
  | .write k bad => Sys2Proof.Machine.execWrite k bad s
  | .atomic k bad => Sys2Proof.Machine.execAtomic k bad s
  | .commit k => Sys2Proof.Machine.execCommit k s
  | .wack k => Sys2Proof.Machine.execWack k s
  | .wackSend c src => Sys2Proof.Machine.execWackSend c src s
  | .wackWaitExpiry c dst => Sys2Proof.Machine.execWackWaitExpiry c dst s
  | .revoke k => Sys2Proof.Machine.execRevoke k s
  | .gap k => Sys2Proof.Machine.execGap k s
  | .commitWaitExpiry c src => Sys2Proof.Machine.execCommitWaitExpiry c src s
  | .commandFlit k => Sys2Proof.Machine.execCommandFlit k s
  | .resetFlit k => Sys2Proof.Machine.execResetFlit k s
  | .beacon k => Sys2Proof.Machine.execBeacon k s
  | .beaconSend n => Sys2Proof.Machine.execBeaconSend n s
  | .barrierToken k => Sys2Proof.Machine.execBarrierToken k s
  | .portRetrain n => Sys2Proof.Machine.execPortRetrain n s
  | .intakePacket fn off a => Sys2Proof.Machine.execIntakePacket fn off a s
  | .load c => Sys2Proof.Machine.execLoad c s
  | .install c => Sys2Proof.Machine.execInstall c s
  | .start c => Sys2Proof.Machine.execStart c s
  | .startComplete c => Sys2Proof.Machine.execStartComplete c s
  | .supply c => Sys2Proof.Machine.execSupply c s
  | .retire c => Sys2Proof.Machine.execRetire c s
  | .xferIn c => Sys2Proof.Machine.execXferIn c s
  | .abort c => Sys2Proof.Machine.execAbort c s
  | .unload c => Sys2Proof.Machine.execUnload c s
  | .nop c => Sys2Proof.Machine.execNop c s
  | .completion k => Sys2Proof.Machine.execCompletion k s
  | .outboundWrite k => Sys2Proof.Machine.execOutboundWrite k s
  | .apertureAccess off a errs => Sys2Proof.Machine.execApertureAccess off a errs s
  | .registerWrite who off width value => Sys2Proof.Machine.execRegisterWrite who off width value s
  | .stallPwrRead p => Sys2Proof.Machine.execStallPwrRead p s
  | .preemptMaxRead => Sys2Proof.Machine.execPreemptMaxRead s
  | .railStatusRead => Sys2Proof.Machine.execRailStatusRead s
  | .clkStatusRead => Sys2Proof.Machine.execClkStatusRead s
  | .mgPowerRead => Sys2Proof.Machine.execMgPowerRead s
  | .alertClear value => Sys2Proof.Machine.execAlertClear value s
  | .ledgerSet value => Sys2Proof.Machine.execLedgerSet value s
  | .replayStart value => Sys2Proof.Machine.execReplayStart value s
  | .replayDiverge => Sys2Proof.Machine.execReplayDiverge s
  | .daybookExtend => Sys2Proof.Machine.execDaybookExtend s
  | .releaseRequest value => Sys2Proof.Machine.execReleaseRequest value s
  | .gateStep fault => Sys2Proof.Machine.execGateStep fault s
  | .shareInstall value => Sys2Proof.Machine.execShareInstall value s
  | .shareClear value => Sys2Proof.Machine.execShareClear value s
  | .getVersion via => Sys2Proof.Machine.execGetVersion via s
  | .getCapabilities via => Sys2Proof.Machine.execGetCapabilities via s
  | .negotiateAlgorithms via agreed => Sys2Proof.Machine.execNegotiateAlgorithms via agreed s
  | .getDigests via => Sys2Proof.Machine.execGetDigests via s
  | .getCertificate via slot off len => Sys2Proof.Machine.execGetCertificate via slot off len s
  | .challenge via slot nonce => Sys2Proof.Machine.execChallenge via slot nonce s
  | .getMeasurements via ix nonce => Sys2Proof.Machine.execGetMeasurements via ix nonce s
  | .keyExchange via px py => Sys2Proof.Machine.execKeyExchange via px py s
  | .finish via session verified => Sys2Proof.Machine.execFinish via session verified s
  | .keyUpdate via session => Sys2Proof.Machine.execKeyUpdate via session s
  | .heartbeat via session => Sys2Proof.Machine.execHeartbeat via session s
  | .endSession via session => Sys2Proof.Machine.execEndSession via session s
  | .ideKm via session key => Sys2Proof.Machine.execIdeKm via session key s
  | .quote via nonce ctx => Sys2Proof.Machine.execQuote via nonce ctx s
  | .kemKey via => Sys2Proof.Machine.execKemKey via s
  | .modmul w x y m d => Sys2Proof.Machine.execModmul w x y m d s
  | .modexp w x e m d => Sys2Proof.Machine.execModexp w x e m d s
  | .ecmulW slot k x y dx dy => Sys2Proof.Machine.execEcmulW slot k x y dx dy s
  | .ecmulM slot k u d => Sys2Proof.Machine.execEcmulM slot k u d s
  | .clear => Sys2Proof.Machine.execClear s
  | .curveLoad slot c => Sys2Proof.Machine.execCurveLoad slot c s
  | .smithyComplete => Sys2Proof.Machine.execSmithyComplete s
  | .debugAccess addr op => Sys2Proof.Machine.execDebugAccess addr op s
  | .extest => Sys2Proof.Machine.execExtest s
  | .idcode => Sys2Proof.Machine.execIdcode s
  | .samplePreload => Sys2Proof.Machine.execSamplePreload s
  | .clamp => Sys2Proof.Machine.execClamp s
  | .highz => Sys2Proof.Machine.execHighz s
  | .dapAccess => Sys2Proof.Machine.execDapAccess s
  | .bypass => Sys2Proof.Machine.execBypass s
  | .powerOnReset => Sys2Proof.Machine.execPowerOnReset s
  | .sysRstN ns => Sys2Proof.Machine.execSysRstN ns s
  | .perstN ns => Sys2Proof.Machine.execPerstN ns s
  | .watchdogExpiry => Sys2Proof.Machine.execWatchdogExpiry s
  | .wdogService value => Sys2Proof.Machine.execWdogService value s
  | .yardmasterFatalError => Sys2Proof.Machine.execYardmasterFatalError s
  | .resetRelease => Sys2Proof.Machine.execResetRelease s
  | .boot fuseCrc images mv => Sys2Proof.Machine.execBoot fuseCrc images mv s
  | .clockUnstable domain => Sys2Proof.Machine.execClockUnstable domain s
  | .blockReset value => Sys2Proof.Machine.execBlockReset value s
  | .blockResetTimeout => Sys2Proof.Machine.execBlockResetTimeout s
  | .blockResetDone => Sys2Proof.Machine.execBlockResetDone s
  | .firmwareActivate => Sys2Proof.Machine.execFirmwareActivate s
  | .firmwareRevert component => Sys2Proof.Machine.execFirmwareRevert component s
  | .scanStart value => Sys2Proof.Machine.execScanStart value s
  | .scanDone pass => Sys2Proof.Machine.execScanDone pass s
  | .marginTableWrite => Sys2Proof.Machine.execMarginTableWrite s
  | .droopEpisodeStart mv => Sys2Proof.Machine.execDroopEpisodeStart mv s
  | .droopEpisodeEnd low => Sys2Proof.Machine.execDroopEpisodeEnd low s
  | .brownout rail mv ns => Sys2Proof.Machine.execBrownout rail mv ns s
  | .thermalLimit p temp => Sys2Proof.Machine.execThermalLimit p temp s
  | .thermalEpisodeEnd p temp => Sys2Proof.Machine.execThermalEpisodeEnd p temp s
  | .thermalTrip sensor temp => Sys2Proof.Machine.execThermalTrip sensor temp s
  | .tripRecovery => Sys2Proof.Machine.execTripRecovery s
  | .ptpSync twoStep originNs master => Sys2Proof.Machine.execPtpSync twoStep originNs master s
  | .ptpFollowUp originNs => Sys2Proof.Machine.execPtpFollowUp originNs s
  | .ptpDelayResp receiptNs => Sys2Proof.Machine.execPtpDelayResp receiptNs s
  | .ptpAnnounce master priority => Sys2Proof.Machine.execPtpAnnounce master priority s
  | .timePps => Sys2Proof.Machine.execTimePps s
  | .ledgerSourceTimeout => Sys2Proof.Machine.execLedgerSourceTimeout s
  | .faultReportIntake k => Sys2Proof.Machine.execFaultReportIntake k s
  | .telemetry avgMw peakMw stallTemp gateTemp hbmTemp railMv => Sys2Proof.Machine.execTelemetry avgMw peakMw stallTemp gateTemp hbmTemp railMv s
  | .setEndpointId via eid => Sys2Proof.Machine.execSetEndpointId via eid s
  | .getEndpointId via => Sys2Proof.Machine.execGetEndpointId via s
  | .getMctpVersionSupport via msgType => Sys2Proof.Machine.execGetMctpVersionSupport via msgType s
  | .getMessageTypeSupport via => Sys2Proof.Machine.execGetMessageTypeSupport via s
  | .csrRead h addr width => Sys2Proof.Machine.execCsrRead h addr width s
  | .csrWrite h addr width value => Sys2Proof.Machine.execCsrWrite h addr width value s
  | .subscribe h slot classes telem => Sys2Proof.Machine.execSubscribe h slot classes telem s
  | .reportGet h fromSeq => Sys2Proof.Machine.execReportGet h fromSeq s
  | .mgmtReset h level => Sys2Proof.Machine.execMgmtReset h level s
  | .flashWrite h off data => Sys2Proof.Machine.execFlashWrite h off data s
  | .directory h slots => Sys2Proof.Machine.execDirectory h slots s
  | .fabricKey h op key => Sys2Proof.Machine.execFabricKey h op key s
  | .svnRaise h floor => Sys2Proof.Machine.execSvnRaise h floor s
  | .telemetryGet h => Sys2Proof.Machine.execTelemetryGet h s
  | .portEnable n value => Sys2Proof.Machine.execPortEnable n value s
  | .pciExpressLinkUp width speed numVfs bar4 => Sys2Proof.Machine.execPciExpressLinkUp width speed numVfs bar4 s
  | .pciExpressLinkDown => Sys2Proof.Machine.execPciExpressLinkDown s
  | .doeDiscovery ix => Sys2Proof.Machine.execDoeDiscovery ix s
  | .trstN => Sys2Proof.Machine.execTrstN s
  | .dynamicAddressAssignment addr => Sys2Proof.Machine.execDynamicAddressAssignment addr s
  | .arpRequest target mac ip => Sys2Proof.Machine.execArpRequest target mac ip s
  | .dhcpv4Reply ack addr leaseS => Sys2Proof.Machine.execDhcpv4Reply ack addr leaseS s
  | .dhcpv4LeaseTimer => Sys2Proof.Machine.execDhcpv4LeaseTimer s
  | .managementPortLinkChange up => Sys2Proof.Machine.execManagementPortLinkChange up s
  | .ptpDelayReq => Sys2Proof.Machine.execPtpDelayReq s
  | .unsupportedMctpMessage via msgType => Sys2Proof.Machine.execUnsupportedMctpMessage via msgType s
  | .undefinedManagementOp h op => Sys2Proof.Machine.execUndefinedManagementOp h op s

end Sys2Proof.Machine
end

