-- ==== Sys2Proof/Safety.lean ====
section
/-!
DEFINITION. What claims speak of: completion, the issue of a Team's head, what a sequenced instruction leaves alone, and
the invariant of the logical IDs.
-/

namespace Sys2Proof.Machine

/-- A command answers with a next state that has a property. -/
def Completes (i : Instr) (s : State) (P : State → Prop) : Prop := ∃ u, exec i s = .next u ∧ P u

/-! ### Issue -/

/-- The head instruction of a Team of the running context. -/
def headOfTeam (s : State) (p : Nat) (t : Fin 4) : W128 :=
  headWord (stall s p) (runningNo s) (getTeam (stall s p).live t)

/-- The head of a Team has an opcode and issues: no Team before it in the order of the cycle issues or faults, and every
condition of R72 to R81 holds. -/
def Issues (s : State) (p : Nat) (t : Fin 4) (op : Nat) : Prop :=
  opcodeOf (headOfTeam s p t) = op ∧ anotherFirst s p t = false ∧ verdict s p t = .go

/-- A Team that has issued: READY, waiting for nothing. -/
def readyTeam (x : StallCtx) (t : Fin 4) : Team := { getTeam (turnPassed x t) t with st := .ready, cause := 0, hold := 0 }

/-- A stall context after Team t has issued at a Ledger time and goes on (R75, R116). -/
def goOn (at_ : W64) (x : StallCtx) (t : Fin 4) : StallCtx := setTeam (turnPassed x t) t (advance at_ (readyTeam x t))

/-- A stall context after Team t has issued and branched (R75, R117). -/
def goTo (at_ : W64) (x : StallCtx) (t : Fin 4) (target : BitVec 24) : StallCtx :=
  setTeam (turnPassed x t) t (heldBack at_ (branchTo (readyTeam x t) target))

/-- All that an instruction sequenced at stall p for Team t changes is the stall's live context and the Team that issued
last, and what the first issue of a START records (R383). -/
def Sequenced (s u : State) (p : Nat) (t : Fin 4) (live : StallCtx) : Prop :=
  stall u p = { stall s p with lastTeam := t, live := live } ∧ (∀ q, q ≠ p → stall u q = stall s q) ∧
  u = { noteFirst s (runningNo s) with stalls := u.stalls }

/-- Each armed comparator whose relation holds under the counters `cs` becomes due, and no other changes (R84). -/
def ComparatorsSee (x : StallCtx) (cs : NMap W32) (ms : NMap Cmp) : Prop :=
  ∀ k, nget {} ms k = { cmpOf x k with
    due := (cmpOf x k).due || (cmpOf x k).armed && relHolds (cmpOf x k).rel (nget 0 cs (cmpOf x k).ctr.toNat) (cmpOf x k).value }

/-- A counter instruction: one counter takes a value, and the comparators see the counters (R83, R84). -/
def CounterWritten (s u : State) (p : Nat) (t : Fin 4) (k : BitVec 4) (v : W32) : Prop :=
  ∃ cs ms, Sequenced s u p t (goOn s.ledger { (stall s p).live with cnts := cs, cmps := ms } t) ∧
    (∀ j : BitVec 4, nget 0 cs j.toNat = if j = k then v else cntOf (stall s p).live j) ∧
    ComparatorsSee (stall s p).live cs ms

/-- The in-flight entry that an engine instruction takes, and its Team going on; no other stall changes (R78, R80, R113). -/
def EntryTaken (s u : State) (p : Nat) (t : Fin 4) (eng : Engine) : Prop :=
  (∃ n e, freeEntry (stall s p) = some n ∧ entryOf (stall u p) n = some e ∧ e.engine = eng ∧ e.word = headOfTeam s p t ∧
    e.team = t ∧ e.ctx = runningNo s ∧ e.pc = (getTeam (stall s p).live t).pc ∧ e.loops = capture (getTeam (stall s p).live t)) ∧
  (stall u p).live = goOn s.ledger (stall s p).live t ∧ (stall u p).lastTeam = t ∧ ∀ q, q ≠ p → stall u q = stall s q

/-- The iterations and addresses of a Team's head, as its entry will have them. -/
def headEntry (s : State) (p : Nat) (t : Fin 4) : Entry :=
  { word := headOfTeam s p t, loops := capture (getTeam (stall s p).live t) }

/-- The image of the running context. -/
def runningImage (s : State) : Image := imageOf s (runningNo s)

/-- A handle of the running context's image. -/
def hdl (s : State) (h : Nat) : HDecl := decl (runningImage s) h

/-- The local piece of a handle at a stall, for the running context. -/
def pieceAt (s : State) (p h : Nat) : Piece := pieceOf (runningImage s) (deviceId s) (hdl s h) (lidOf s p)

/-- The line of a handle's piece at an address, for the running context. -/
def lineOf (s : State) (p h : Nat) (a : Int) : Line := readPiece s p (runningNo s) (hdl s h) (pieceAt s p h) a

/-- What the Loft holds at a line of a handle's piece, read for the context that ran in s. -/
def heldAt (s u : State) (p h : Nat) (a : Int) : Option Line := loftRead u p ((pieceAt s p h).base + a.toNat) (runningNo s)

/-- A message with a body is on its way from a node to another. -/
def OnTheWay (u : State) (src dst : Node) (b : Body) : Prop := ∃ m ∈ u.yard, m.src = src ∧ m.dst = dst ∧ m.body = b

/-- The iterations of a Team's head. -/
def headIts (s : State) (p : Nat) (t : Fin 4) : List (List Nat) := entryIts (headEntry s p t)

/-- Two lines have the same 16 words. -/
def SameWords (a b : Line) : Prop := ∀ i, i < 16 → wordAt a i = wordAt b i

/-- No instruction of an engine is in flight at a stall, and no replay holds the context's events. -/
def engineIdle (s : State) (p : Nat) (g : Engine) : Prop :=
  (∀ e ∈ liveEntries (stall s p), e.2.engine ≠ g) ∧ holding s (runningNo s) = false

/-- A command issues an engine instruction at stall p, and the instruction then completes with nothing found wrong, in a state that has
a property (R78, R80). -/
def RunsThrough (i : Instr) (s : State) (p : Position) (P : State → Prop) : Prop :=
  ∃ n, freeEntry (stall s p) = some n ∧ Completes i s fun u => Completes (.engineInstructionComplete p n .clean) u P

/-- The rows of R119 to R124: opcode, engine and command. -/
def engineRows : List (Nat × Engine × (Position → TeamIx → Instr)) :=
  [(0x10, .ma, .maForm), (0x11, .ma, .maMac), (0x12, .ma, .maMacz), (0x13, .ma, .maDrain),
   (0x30, .te, .teNtt), (0x31, .te, .teIntt), (0x32, .te, .teAuto), (0x33, .te, .teNtt4), (0x34, .te, .teIntt4),
   (0x40, .ee, .eeAdd), (0x41, .ee, .eeSub), (0x42, .ee, .eeNeg), (0x43, .ee, .eeMul), (0x44, .ee, .eeMac),
   (0x45, .ee, .eeMulc), (0x46, .ee, .eeAddc), (0x47, .ee, .eeMov), (0x48, .ee, .eeBcast), (0x49, .ee, .eeRescale),
   (0x4A, .ee, .eeModraise), (0x50, .ee, .eeCmpeq), (0x51, .ee, .eeCmplt), (0x52, .ee, .eeSel), (0x53, .ee, .eeMin),
   (0x54, .ee, .eeMax), (0x58, .ee, .eeCast), (0x59, .ee, .eeReduce)] ++
  [(0x70, .ct, .ctLoad), (0x71, .ct, .ctStore), (0x72, .ct, .ctCopy), (0x73, .ct, .ctGather), (0x74, .ct, .ctScatter),
   (0x75, .ct, .ctScatteracc), (0x76, .ct, .ctFill), (0x77, .ct, .ctAtom),
   (0x90, .yd, .ydPut), (0x91, .yd, .ydMcast), (0x92, .yd, .ydFlag), (0x93, .yd, .ydCadd), (0x94, .yd, .ydBflag),
   (0x95, .yd, .ydBcadd), (0xA0, .drv, .drvKey), (0xA1, .drv, .drvWt)]

/-- The elementwise rows of R184 to R186. -/
def lineRows : List (Nat × (Position → TeamIx → Instr)) :=
  [(0x40, .eeAdd), (0x41, .eeSub), (0x42, .eeNeg), (0x43, .eeMul), (0x44, .eeMac), (0x45, .eeMulc), (0x46, .eeAddc),
   (0x47, .eeMov), (0x48, .eeBcast), (0x49, .eeRescale), (0x4A, .eeModraise), (0x50, .eeCmpeq), (0x51, .eeCmplt),
   (0x52, .eeSel), (0x53, .eeMin), (0x54, .eeMax)]

/-- What an elementwise instruction reads in an iteration: the lines of A and B, D's where the opcode reads it, and the constant
of R185. -/
def lineInputs (s : State) (p : Nat) (t : Fin 4) (js : List Nat) : EeIn :=
  let w := headOfTeam s p t
  let e := headEntry s p t
  let con := opcodeOf w = 0x45 || opcodeOf w = 0x46
  let isE3 := (opInfo (opcodeOf w)).map (·.fmt) = some .e3
  { a := lineOf s p (hA w) (addrA e js),
    b := if !isE3 || con then zeroLine else lineOf s p (hB w) (addrB e js),
    d := if opcodeOf w = 0x44 || opcodeOf w = 0x52 then lineOf s p (hD w) (addrD e js) else zeroLine,
    k := if con then (wordAt (lineOf s p (hB w) (addrB e js / 16)) (addrB e js % 16).toNat).toNat else 0 }

/-- CSEL of a clear-mode instruction, 0 for another (R108). -/
def cselOf (s : State) (w : W128) : Nat :=
  if clearMode (runningImage s) ((opInfo (opcodeOf w)).map (·.fmt) |>.getD .e2) w then mactOf w else 0

/-- What the Transform Engine transforms under at a line of D (R169, R173, R179). -/
def limbArg (s : State) (p : Nat) (w : W128) (d : Int) : TeArg :=
  let img := runningImage s
  let dd := hdl s (hD w)
  let pd := pieceAt s p (hD w)
  let ch := (chainOf img dd.chain).getD {}
  { q := linePrime img dd pd d, psi := ch.roots.getD ((lineIndex img dd pd d).getD 0) 0, n := 2 ^ ch.logN,
    half := match ownerAt dd pd.owners d.toNat with
      | some o => if o.log2Parts = 1 then some o.part else none
      | none => none,
    layA := (hdl s (hA w)).layout, layD := dd.layout }

/-- The sources of a line of a copy, load or store, and the line formed from them (R225). -/
def farLine (s : State) (p : Nat) (w : W128) (far near : Int) : Line :=
  layLine (hdl s (hD w)) (hdl s (hA w)) (layUnit (hdl s (hD w)) (hdl s (hA w)) (hdl s (hA w)).lines) near far (lineOf s p (hD w))

/-! ### Arrivals -/

/-- A message is first on its path to a stall that takes arrivals (R25, R96). -/
def ArrivesAt (s : State) (x : Msg) (q : Nat) : Prop := arriving s x.id = some x ∧ x.dst = .stall q ∧ awake s q = true

/-- The Loft line of a stall at which a line of a context lands, none outside the piece (R226, R270). -/
def landing (s : State) (q c : Nat) : LineTo → Option Nat
  | .loft _ y => some y
  | .piece h off =>
    let pc := pieceOf (imageOf s c) (deviceId s) (decl (imageOf s c) h) (lidOf s q)
    if inPiece pc off then some (pc.base + off.toNat) else none

/-- What is in flight after a message is taken and others are sent. -/
def yardAfter (s : State) (m : Nat) (sent : List Msg) : List Msg := s.yard.filter (fun y => y.id != m) ++ sent

/-- The acknowledgement of a remote write (R283). -/
def ackOf (s : State) (x : Msg) (q : Nat) : Option Nat → List Msg
  | some p => [⟨s.msgSeq, .stall q, .stall p, .rsp, x.ctx, .ack x.id false false⟩]
  | none => []

/-- The local poison of a handle of a context at a stall is set; where the stall can cache the handle in no entry, the handle table
has the mark (R54, R59). -/
def LocallyPoisoned (u : State) (q c h : Nat) : Prop :=
  (∃ v, cached u q h = some v ∧ v.poison = true) ∨ (cached u q h = none ∧ (nget {} (ctx u c).handles h).poison = true)

/-- A handle cache has an entry for one more handle: it holds fewer than 64, or one that is not pinned (R93). -/
def cacheRoom (s : State) (q : Nat) : Prop :=
  ((stall s q).hcache.filter fun e => e.2.isSome).length < 64 ∨ ∃ k v, (k, some v) ∈ (stall s q).hcache ∧ v.pinned = false

/-- A stall holds the live context of a logical ID: the context runs and the ID names the stall. -/
def runsAt (s : State) (q c : Nat) : Prop := runningNo s = c ∧ posOfLid s (lidOf s q) = some q

/-- A line of a handle of a context at a stall has the given words. -/
def LandedAt (s u : State) (q c : Nat) (to_ : LineTo) (l : Line) : Prop :=
  ∀ y, landing s q c to_ = some y → ∃ v, loftRead u q y c = some v ∧ SameWords v l

/-! ### Commands -/

/-- A well-formed packet is at the head of an idle ring of which no replay holds the commands (R369, R418). -/
def AtHead (s : State) (c : Nat) (k : Packet) : Prop :=
  (∃ ks, (ctx s c).taken = k :: ks) ∧ (ctx s c).cur = none ∧ packetOk k = true ∧ holding s c = false

/-- A command has completed with a status, code and detail: its record is the last of its ring, its slot is free, and nothing is in
execution (R368, R373). -/
def Finished (u : State) (c : Nat) (k : Packet) (status code detail : Nat) : Prop :=
  (ctx u c).cur = none ∧ (ctx u c).nextDone = k.seq + 1 ∧ (∀ x ∈ (ctx u c).taken, x.seq ≠ k.seq) ∧
  ∃ r, (ctx u c).done.head? = some (k.seq, r) ∧ fieldAt r 5 1 = status ∧ fieldAt r 6 2 = code ∧ fieldAt r 0x18 4 = detail

/-- A Team that a START starts at an index with a time base, if it is IDLE or FINISHED: its wait timeout is 0, and so is every
register of its loop levels (R111, R129, R380). -/
def started (tb : W64) (ix : Nat) (m : Team) : Team :=
  if ix ≠ 0xFFFFFFFF ∧ (m.st = .idle ∨ m.st = .finished)
  then { st := .ready, pc := BitVec.ofNat 24 ix, tb := tb, start := tb } else m

/-! ### The Tack Room -/

/-- A release request is denied for a reason: RG_RESULT is VALID with STATUS 2 and the REASON, BUSY is 0, no release waits (R439). -/
def Denied (u : State) (reason : Nat) : Prop :=
  csrBit u rgResult 63 = true ∧ csrField u rgResult 61 60 = 2 ∧ csrField u rgResult 55 48 = reason ∧ csrBit u rgReq 62 = false ∧
  u.tack.release = none

/-- A message as it leaves on a transport: the MCTP type and the body, or the DOE object of both. -/
def onWire (via : Transport) (type : Nat) (m : List Byte) : List Byte :=
  match via with
  | .doe => doeObject type m
  | _ => leBytes 1 type ++ m

/-- One message has left, on a transport. -/
def Answered (s u : State) (via : Transport) (type : Nat) (m : List Byte) : Prop := u.sent = s.sent ++ [(via, onWire via type m)]

/-- An SPDM message in the clear has left. -/
def SpdmSaid (s u : State) (via : Transport) (code p1 p2 : Nat) (body : List Byte) : Prop :=
  Answered s u via 5 (spdmBytes code p1 p2 body)

/-- The Smithy has started an operation, and nothing else has changed in it (R431, R432). -/
def SmithyStarted (s u : State) (rejected : Bool) (outs : List (Nat × Nat)) (cycles : Nat) : Prop :=
  u.smithy = { s.smithy with op := some (⟨rejected, if rejected = true then outs.map (fun o => (o.1, 0)) else outs, false, s.ledger, cycles⟩) }

/-- A management response has left on the transport of its request, inside its session where the request was (R471). -/
def MgReplied (s u : State) (h : MgmtHdr) (op status : Nat) (body : List Byte) : Prop :=
  Answered s u h.via (if h.secured = true then 6 else 0x7E) (beBytes 2 Config.vendorId.toNat ++ mgBytes op status h.tag.toNat body)

/-! ### Resets -/

/-- A command is a source of R449 whose condition holds: it asks for a reset of a level, with its bit of RST_CAUSE. -/
def Asks (s : State) (i : Instr) (level bit : Nat) : Prop :=
  (i = .powerOnReset ∧ level = 3 ∧ bit = 0) ∨
  (∃ ns, i = .sysRstN ns ∧ 1000 ≤ ns ∧ level = 2 ∧ bit = 1) ∨
  (∃ ns, i = .perstN ns ∧ 1000 ≤ ns ∧ s.gate.bridge = true ∧ csrBit s 0x0100008 31 = true ∧ level = 2 ∧ bit = 2) ∨
  (i = .watchdogExpiry ∧ csrField s 0x0100008 30 16 ≠ 0 ∧ booted s = true ∧
    s.rst.wdogAt.toNat + 1000000 * csrField s 0x0100008 30 16 ≤ now s ∧ level = 2 ∧ bit = 3) ∨
  (∃ h l, i = .mgmtReset h l ∧ (l = 1 ∨ l = 2) ∧ mctpReaches s h.via = true ∧
    (if s.rst.recovery = true then l = 2 else inSession s h = true) ∧ level = l.toNat ∧ bit = 4) ∨
  (∃ k h, i = .resetFlit k ∧ rxEntry s k = some h ∧ flitType h.bytes = 9 ∧ resetFlitOk s h.bytes = true ∧
    level = fieldAt h.bytes 16 1 ∧ bit = 5) ∨
  (∃ n temp, i = .thermalTrip n temp ∧ 12000 < temp ∧ level = 2 ∧ bit = 6) ∨
  (∃ rail mv ns, i = .brownout rail mv ns ∧ brownsOut rail mv ns = true ∧ level = 2 ∧ bit = 7) ∨
  (i = .yardmasterFatalError ∧ level = 1 ∧ bit = 8) ∨
  (∃ d, i = .clockUnstable d ∧ 1 ≤ d ∧ d ≤ 3 ∧ s.rst.phase ≠ .asserted ∧ level = 2 ∧ bit = 9)

/-- What a core or system reset has done when it is asserted, and what it leaves alone (R447, R448, R462). -/
def UnderReset (s u : State) (level bit : Nat) : Prop :=
  u.rst.phase = .asserted ∧ u.rst.level = level ∧ u.rst.recovery = false ∧ csrField u rstCause 31 30 = level ∧
  csrBit u rstCause bit = true ∧ (∀ k, k < 10 → k ≠ bit → csrBit u rstCause k = csrBit s rstCause k) ∧
  u.yard = [] ∧ u.stalls = [] ∧ u.ctxs = [] ∧ u.recs = [] ∧ u.ym = {} ∧ u.grn = {} ∧ u.drovers = [] ∧
  (∀ k, (nget {} u.loft k).valid = false) ∧
  u.tack.observed = s.tack.observed ∧ u.tack.slots = s.tack.slots ∧ u.tack.sessions = [] ∧ mrOf u 6 = mrOf s 6 ∧
  (∀ k, k ≠ 6 → mrOf u k = zero32) ∧ u.smithy = { x := s.smithy.x } ∧ u.fuses = s.fuses

/-! ### The roster -/

/-- A position that is not ENABLED holds no logical ID, and no two ENABLED positions hold the same (R18, R19). -/
def LogicalIdsUnique (s : State) : Prop :=
  (∀ p, (position s p).st ≠ .enabled → (position s p).lid = 0x3FF) ∧
  ∀ p q, (position s p).st = .enabled → (position s q).st = .enabled → (position s p).lid = (position s q).lid → p = q

/-- The list of the positions has its canonical form, and the logical IDs are as R18 and R19 ask. -/
def RosterInv (s : State) : Prop := nwf ({} : Pos) s.positions = true ∧ LogicalIdsUnique s

end Sys2Proof.Machine
end

