-- ==== Sys2Proof/Certificates/Slice0/Obligations.lean ====
section
/-!
DEFINITION. The statements for the provers.
-/

open Sys2Proof Sys2Proof.Machine

/-- A step runs the command at the front of the queue on the state with the queue's rest. -/
def Obligations.StepRunsFrontCommand : Prop :=
  ∀ (s : State) (c : Instr) (rest : List Instr), s.pending = c :: rest → step s = exec c { s with pending := rest }

/-- On an empty queue a step counts the Ledger on by one nanosecond while its clock domain runs and no offset is slewed out, and
changes nothing else; without the clock it changes nothing. The step is the model's choice (log 4). -/
def Obligations.EmptyQueueTicks : Prop :=
  ∀ s : State, s.pending = [] →
    (csrBit s 0x0100020 0 = true → s.disc.slew = 0 → step s = .next { s with ledger := s.ledger + 1 }) ∧
    (csrBit s 0x0100020 0 = false → step s = .next s)

/-- Every command answers a next state and leaves the queue as it was given to it. -/
def Obligations.CommandsKeepQueue : Prop :=
∀ (c : Instr) (s : State), Completes c s fun u => u.pending = s.pending

/-- At reset every register reads what its Reset column says (R9), the queue is empty, no position is loaded, no context is
resident and the Ledger is 0. -/
def Obligations.ResetState : Prop :=
  (∀ off, csrGet State.reset off = resetVal off) ∧ State.reset.pending = [] ∧ State.reset.ledger = 0 ∧
  (∀ p, (position State.reset p).st = .notLoaded) ∧ (∀ c, (ctx State.reset c).st = .free) ∧
  State.reset.ym.running = none ∧ ∀ n, (port State.reset n).st = .disabled

/-- The invariant of the roster holds at reset. -/
def Obligations.ResetLogicalIds : Prop :=
RosterInv State.reset

/-- Every step keeps the invariant of the roster: its list keeps the canonical form, a position that is not ENABLED holds no
logical ID, and no two ENABLED positions hold the same (R18, R19). -/
def Obligations.StepKeepsLogicalIds : Prop :=
  ∀ s u : State, RosterInv s → step s = .next u → RosterInv u

/-- No command but BOOT returns a DISABLED, RETIRED or unloaded position to service, in a state with the invariant of the roster
(R17). -/
def Obligations.NothingReturnsToService : Prop :=
  ∀ (c : Instr) (s u : State) (p : Nat), RosterInv s → (∀ f g m, c ≠ .boot f g m) → exec c s = .next u →
    (position s p).st = .disabled ∨ (position s p).st = .retired ∨ (position s p).st = .notLoaded →
    (position u p).st ≠ .enabled ∧ (position u p).st ≠ .spare ∧ (position u p).st ≠ .outOfService

/-- FL.SET and FL.CLR write one flag; FL.MSET and FL.MCLR write the flags of a group whose mask bit is 1 (R126). CNT.SET,
CNT.ADD, CNT.QDEPTH and TIME.READ write one counter modulo 2^32, and the comparators see it (R83, R84, R126). -/
def Obligations.ScalarInstructionsWriteRegisters : Prop :=
  (∀ (s : State) (p : Position) (t : TeamIx),
    let w := headOfTeam s p t
    let x := (stall s p).live
    let flags (fl : BitVec 256) (s u : State) := Sequenced s u p t (goOn s.ledger { x with flags := fl } t)
    (Issues s p t 0xB0 → Completes (.flSet p t) s fun u => ∃ fl, flags fl s u ∧
      ∀ f, f < 256 → fl.getLsbD f = (decide (f = wf_ w 15 8) || x.flags.getLsbD f)) ∧
    (Issues s p t 0xB1 → Completes (.flClr p t) s fun u => ∃ fl, flags fl s u ∧
      ∀ f, f < 256 → fl.getLsbD f = (!decide (f = wf_ w 15 8) && x.flags.getLsbD f)) ∧
    (Issues s p t 0xB2 → Completes (.flMset p t) s fun u => ∃ fl, flags fl s u ∧
      ∀ f, f < 256 → fl.getLsbD f = (decide (f / 32 = wf_ w 10 8) && bitOf (wf_ w 63 32) (f % 32) || x.flags.getLsbD f)) ∧
    (Issues s p t 0xB3 → Completes (.flMclr p t) s fun u => ∃ fl, flags fl s u ∧
      ∀ f, f < 256 → fl.getLsbD f = (!(decide (f / 32 = wf_ w 10 8) && bitOf (wf_ w 63 32) (f % 32)) && x.flags.getLsbD f))) ∧
  (∀ (s : State) (p : Position) (t : TeamIx),
    let w := headOfTeam s p t
    let x := (stall s p).live
    let k := BitVec.ofNat 4 (wf_ w 11 8)
    (Issues s p t 0xD0 → Completes (.cntSet p t) s fun u => CounterWritten s u p t k (BitVec.ofNat 32 (wf_ w 47 16))) ∧
    (Issues s p t 0xD1 → Completes (.cntAdd p t) s fun u =>
      CounterWritten s u p t k (cntOf x k + BitVec.ofNat 32 (wf_ w 47 16))) ∧
    (Issues s p t 0xD2 → Completes (.cntQdepth p t) s fun u =>
      CounterWritten s u p t k (BitVec.ofNat 32 (qdepthField (stall s p) (wf_ w 18 16)))) ∧
    (Issues s p t 0xE2 → Completes (.timeRead p t) s fun u =>
      CounterWritten s u p t k (BitVec.ofNat 32 (s.ledger.toNat / 2 ^ wf_ w 21 16))))

/-- CMP.ARM writes all of a comparator, which becomes due at once where its relation holds already; CMP.DISARM clears ARMED and
what was due; COMPARATOR_FIRE sets the target flag of a comparator that is due and disarms it, and changes nothing else (R84).
-/
def Obligations.ComparatorsArmDisarmAndFire : Prop :=
  ∀ (s : State) (p : Position) (t : TeamIx),
    let w := headOfTeam s p t
    let x := (stall s p).live
    (Issues s p t 0xD4 → Completes (.cmpArm p t) s fun u => ∃ ms,
      Sequenced s u p t (goOn s.ledger { x with cmps := ms } t) ∧ ∀ j, nget {} ms j =
        if j = wf_ w 10 8 then
          { value := BitVec.ofNat 32 (wf_ w 63 32), armed := true, rel := BitVec.ofNat 3 (wf_ w 18 16),
            ctr := BitVec.ofNat 4 (wf_ w 14 11), flag := BitVec.ofNat 8 (wf_ w 31 24),
            due := relHolds (BitVec.ofNat 3 (wf_ w 18 16)) (cntOf x (BitVec.ofNat 4 (wf_ w 14 11))) (BitVec.ofNat 32 (wf_ w 63 32)) }
        else { cmpOf x j with due := (cmpOf x j).due ||
          (cmpOf x j).armed && relHolds (cmpOf x j).rel (cntOf x (cmpOf x j).ctr) (cmpOf x j).value }) ∧
    (Issues s p t 0xD5 → Completes (.cmpDisarm p t) s fun u => ∃ ms,
      Sequenced s u p t (goOn s.ledger { x with cmps := ms } t) ∧ ∀ j, nget {} ms j =
        if j = wf_ w 10 8 then { cmpOf x j with armed := false, due := false } else cmpOf x j) ∧
    (∀ k : Fin 8, (cmpOf x k).armed = true → (cmpOf x k).due = true → Completes (.comparatorFire p k) s fun u => ∃ ms fl,
      u = { s with stalls := u.stalls } ∧ (∀ q, q ≠ p → stall u q = stall s q) ∧
      stall u p = { stall s p with live := { x with cmps := ms, flags := fl } } ∧
      (∀ j, nget {} ms j = if j = k.val then { cmpOf x j with armed := false, due := false } else cmpOf x j) ∧
      ∀ f, f < 256 → fl.getLsbD f = (decide (f = (cmpOf x k).flag.toNat) || x.flags.getLsbD f))

/-- The relations of R85 between a counter and a value; a CMP.ARM or BR.CNT with a reserved code is an illegal encoding. -/
def Obligations.RelationsHoldAsStated : Prop :=
  (∀ c v : W32, relHolds 0 c v = decide (c = v) ∧ relHolds 1 c v = decide (c ≠ v) ∧
    relHolds 2 c v = decide (v.toNat ≤ c.toNat) ∧ relHolds 3 c v = decide (c.toNat < v.toNat) ∧
    relHolds 4 c v = decide ((c - v).toNat < 2 ^ 31) ∧ relHolds 5 c v = decide (2 ^ 31 ≤ (c - v).toNat)) ∧
  ∀ (img : Image) (w : W128), opcodeOf w = 0xD4 ∧ (wf_ w 18 16 = 6 ∨ wf_ w 18 16 = 7) ∨
    opcodeOf w = 0xE9 ∧ (wf_ w 14 12 = 6 ∨ wf_ w 14 12 = 7) → legalWord img w = false

/-- TIME.BASE, LOOP.SET, LOOP.INC and TEAM.CFG write registers of their own Team (R111, R126 to R129). TEAM.YIELD goes on and
makes its Team wait for every other Team that is READY and that no branch keeps from its turn; HALT makes its Team FINISHED and ends its control loops (R72, R75, R117). What
follows an instruction of a Team (R116): where no active control loop ends at it the Team goes to the next instruction; where
the lowest active level that ends at it has iterations left the Team goes back, and else it leaves that loop. A taken branch
ends the control loops whose body does not hold its target (R117). -/
def Obligations.TeamControlChangesOwnTeam : Prop :=
  (∀ (s : State) (p : Position) (t : TeamIx),
    let w := headOfTeam s p t
    let x := (stall s p).live
    let m := getTeam x t
    let l := wf_ w 9 8
    (Issues s p t 0xE1 → wf_ w 9 8 < 3 → Completes (.timeBase p t) s fun u =>
      Sequenced s u p t (goOn s.ledger (setTeam x t { m with
        tb := if wf_ w 9 8 = 0 then BitVec.ofNat 64 (wf_ w 79 16)
              else if wf_ w 9 8 = 1 then m.tb + BitVec.ofNat 64 (wf_ w 79 16) else m.start }) t)) ∧
    (Issues s p t 0xF0 → Completes (.loopSet p t) s fun u =>
      Sequenced s u p t (goOn s.ledger (setTeam x t (setLoop m l { getLoop m l with
        count := BitVec.ofNat 24 (wf_ w 39 16), incA := BitVec.ofNat 32 (wf_ w 71 40), incB := 0,
        incD := BitVec.ofNat 32 (wf_ w 103 72) })) t)) ∧
    (Issues s p t 0xF1 → wf_ w 11 10 < 3 → Completes (.loopInc p t) s fun u =>
      Sequenced s u p t (goOn s.ledger (setTeam x t (setLoop m l { getLoop m l with
        incA := if wf_ w 11 10 = 0 then BitVec.ofNat 32 (wf_ w 47 16) else (getLoop m l).incA,
        incB := if wf_ w 11 10 = 1 then BitVec.ofNat 32 (wf_ w 47 16) else (getLoop m l).incB,
        incD := if wf_ w 11 10 = 2 then BitVec.ofNat 32 (wf_ w 47 16) else (getLoop m l).incD })) t)) ∧
    (Issues s p t 0xF9 → Completes (.teamCfg p t) s fun u =>
      Sequenced s u p t (goOn s.ledger (setTeam x t { m with timeout := BitVec.ofNat 16 (wf_ w 47 32) }) t))) ∧
  (∀ (s : State) (p : Position) (t : TeamIx),
    let x := (stall s p).live
    (Issues s p t 0xF8 → Completes (.teamYield p t) s fun u => ∃ y : BitVec 4,
      Sequenced s u p t (setTeam (goOn s.ledger x t) t { getTeam (goOn s.ledger x t) t with yield := y }) ∧
      let s1 := noteFirst s (runningNo s)
      ∀ v : Fin 4, y.getLsbD v.val = (decide (v ≠ t) && !onHold s1 (getTeam x v) && canAct (verdict s1 p v))) ∧
    (Issues s p t 0xFE → Completes (.halt p t) s fun u =>
      Sequenced s u p t (setTeam (turnPassed x t) t
        (mapLoops { readyTeam x t with st := .finished } fun l => { l with active := false, iter := 0 })))) ∧
  ((∀ (at_ : W64) (m : Team), (∀ l, l < 4 → ¬((getLoop m l).active = true ∧ (getLoop m l).last = m.pc)) → advance at_ m = { m with pc := m.pc + 1 }) ∧
  (∀ (at_ : W64) (m : Team) (l : Nat), l < 4 → (getLoop m l).active = true → (getLoop m l).last = m.pc →
    (∀ j, j < l → ¬((getLoop m j).active = true ∧ (getLoop m j).last = m.pc)) →
    ((getLoop m l).rem ≠ 0 → (advance at_ m).pc = (getLoop m l).back ∧ (advance at_ m).hold = 2 ∧
      getLoop (advance at_ m) l = { getLoop m l with iter := (getLoop m l).iter + 1, rem := (getLoop m l).rem - 1 }) ∧
    ((getLoop m l).rem = 0 → (advance at_ m).pc = m.pc + 1 ∧ getLoop (advance at_ m) l = { getLoop m l with active := false, iter := 0 }) ∧
    ∀ j, j < 4 → j ≠ l → getLoop (advance at_ m) j = getLoop m j) ∧
  ∀ (m : Team) (a : BitVec 24) (l : Nat), l < 4 → (branchTo m a).pc = a ∧
    getLoop (branchTo m a) l =
      if (getLoop m l).active = true ∧ ¬((getLoop m l).back.toNat ≤ a.toNat ∧ a.toNat ≤ (getLoop m l).last.toNat)
      then { getLoop m l with active := false, iter := 0 } else getLoop m l)

/-- BR goes to its target; BR.CNT and BR.FLAG go there where their condition holds, and on where it does not (R126). LOOP.DO
with a trip count of 0 branches past END; else it makes its level a control loop whose body begins at the next instruction
(R116). -/
def Obligations.BranchesAndLoopsGoOn : Prop :=
  (∀ (s : State) (p : Position) (t : TeamIx),
    let w := headOfTeam s p t
    let x := (stall s p).live
    let to_ := BitVec.ofNat 24 (wf_ w 39 16)
    (Issues s p t 0xE8 → Completes (.br p t) s fun u => Sequenced s u p t (goTo s.ledger x t to_)) ∧
    (Issues s p t 0xE9 → Completes (.brCnt p t) s fun u => Sequenced s u p t
      (if relHolds (BitVec.ofNat 3 (wf_ w 14 12)) (cntOf x (BitVec.ofNat 4 (wf_ w 11 8))) (BitVec.ofNat 32 (wf_ w 71 40)) = true
        then goTo s.ledger x t to_ else goOn s.ledger x t)) ∧
    (Issues s p t 0xEA → Completes (.brFlag p t) s fun u => Sequenced s u p t
      (if x.flags.getLsbD (wf_ w 15 8) = decide (wf_ w 40 40 = 1) then goTo s.ledger x t to_ else goOn s.ledger x t))) ∧
  (∀ (s : State) (p : Position) (t : TeamIx),
    let w := headOfTeam s p t
    let x := (stall s p).live
    let m := getTeam x t
    let l := wf_ w 9 8
    let k := if wf_ w 10 10 = 0 then (getLoop m l).count.toNat else min (cntOf x (BitVec.ofNat 4 (wf_ w 14 11))).toNat (2 ^ 24 - 1)
    (Issues s p t 0xF2 → k = 0 → Completes (.loopDo p t) s fun u =>
      Sequenced s u p t (goTo s.ledger x t (BitVec.ofNat 24 (wf_ w 39 16) + 1))) ∧
    (Issues s p t 0xF2 → k ≠ 0 → Completes (.loopDo p t) s fun u =>
      Sequenced s u p t (goOn s.ledger (setTeam x t (setLoop m l { getLoop m l with
        active := true, iter := 0, rem := BitVec.ofNat 24 (k - 1), last := BitVec.ofNat 24 (wf_ w 39 16), back := m.pc + 1 })) t)))

/-- A taken branch of BR, BR.CNT, BR.FLAG or of LOOP.DO with a trip count of 0 ends the control loops whose body does not hold its
target, with ACTIVE and LITER 0, and leaves the others; HALT ends every control loop of its Team (R117). -/
def Obligations.BranchesEndLoops : Prop :=
  ∀ (s : State) (p : Position) (t : TeamIx),
    let w := headOfTeam s p t
    let x := (stall s p).live
    let m := getTeam x t
    let a := BitVec.ofNat 24 (wf_ w 39 16)
    let trips := if wf_ w 10 10 = 0 then (getLoop m (wf_ w 9 8)).count.toNat
      else min (cntOf x (BitVec.ofNat 4 (wf_ w 14 11))).toNat (2 ^ 24 - 1)
    let taken (a : BitVec 24) (u : State) := (getTeam (stall u p).live t).pc = a ∧ ∀ l, l < 4 →
      let n := getLoop (getTeam (stall u p).live t) l
      if (getLoop m l).active = true ∧ (a.toNat < (getLoop m l).back.toNat ∨ (getLoop m l).last.toNat < a.toNat)
        then n = { getLoop m l with active := false, iter := 0 } else n = getLoop m l
    (Issues s p t 0xE8 → Completes (.br p t) s (taken a)) ∧
    (Issues s p t 0xE9 → relHolds (BitVec.ofNat 3 (wf_ w 14 12)) (cntOf x (BitVec.ofNat 4 (wf_ w 11 8)))
      (BitVec.ofNat 32 (wf_ w 71 40)) = true → Completes (.brCnt p t) s (taken a)) ∧
    (Issues s p t 0xEA → x.flags.getLsbD (wf_ w 15 8) = decide (wf_ w 40 40 = 1) → Completes (.brFlag p t) s (taken a)) ∧
    (Issues s p t 0xF2 → trips = 0 → Completes (.loopDo p t) s (taken (a + 1))) ∧
    (Issues s p t 0xFE → Completes (.halt p t) s fun u => ∀ l, l < 4 →
      (getLoop (getTeam (stall u p).live t) l).active = false ∧
      ((getLoop m l).active = true → (getLoop (getTeam (stall u p).live t) l).iter = 0))

/-- BAR.ARRIVE inverts LSENSE and sets OPEN with the bound of the remote writes sent so far; BAR.WAIT clears OPEN (R283, R284).
A second arrival of the same Team on an OPEN barrier is only recorded, and one of another Team halts that Team (R287).
TIME.FENCE whose target lies ahead fences its Team, whose head it stays; one whose target has come lets the Team go on (R30,
R127). FENCE_RELEASE lets a fenced Team go on once the Ledger has reached its target (R30). -/
def Obligations.BarriersAndFencesHoldTeams : Prop :=
  (∀ (s : State) (p : Position) (t : TeamIx),
    let w := headOfTeam s p t
    let x := (stall s p).live
    let k := wf_ w 9 8 * 64 + wf_ w 15 10
    (Issues s p t 0xC0 → (barOf x k).opener = none → Completes (.barArrive p t) s fun u => ∃ bs,
      Sequenced s u p t (goOn s.ledger { x with bars := bs } t) ∧
      ∀ j, nget {} bs j = if j = k then { barOf x j with lsense := !(barOf x j).lsense, opener := some t, bound := some s.msgSeq }
        else barOf x j) ∧
    (Issues s p t 0xC1 → Completes (.barWait p t) s fun u => ∃ bs,
      Sequenced s u p t (goOn s.ledger { x with bars := bs } t) ∧
      ∀ j, nget {} bs j = if j = k then { barOf x j with opener := none } else barOf x j) ∧
    (Issues s p t 0xC0 → (barOf x k).opener = some t → Completes (.barArrive p t) s fun u => (stall u p).live = goOn s.ledger x t) ∧
    (∀ v, Issues s p t 0xC0 → (barOf x k).opener = some v → v ≠ t → Completes (.barArrive p t) s fun u =>
      (getTeam (stall u p).live t).st = .halted ∧ (getTeam (stall u p).live t).pc = (getTeam x t).pc)) ∧
  (∀ (s : State) (p : Position) (t : TeamIx),
    let w := headOfTeam s p t
    let x := (stall s p).live
    let c := runningNo s
    let to_ : W64 := (if wf_ w 8 8 = 1 then (getTeam x t).tb else 0) + BitVec.ofNat 64 (wf_ w 79 16)
    (Issues s p t 0xE0 → replaying s c = false → s.ledger.toNat < to_.toNat → Completes (.timeFence p t) s fun u =>
      u = { noteFirst s c with stalls := u.stalls } ∧ (∀ q, q ≠ p → stall u q = stall s q) ∧
      stall u p = { stall s p with live := yieldDone (setTeam x t { getTeam x t with st := .fenced, cause := 0, fence := to_ }) t }) ∧
    (Issues s p t 0xE0 → replaying s c = false → to_.toNat ≤ s.ledger.toNat → Completes (.timeFence p t) s fun u =>
      stall u p = { stall s p with lastTeam := t, live := goOn s.ledger x t } ∧ (∀ q, q ≠ p → stall u q = stall s q) ∧
      (recOf u c).opened.isSome = true) ∧
    (teamRuns s p = true → csrBit s 0x0100020 0 = true → (getTeam x t).st = .fenced → replaying s c = false →
      (getTeam x t).fence.toNat ≤ s.ledger.toNat → Completes (.fenceRelease p t) s fun u =>
      stall u p = { stall s p with lastTeam := t, live := goOn s.ledger x t } ∧ (∀ q, q ≠ p → stall u q = stall s q) ∧
      (recOf u c).opened.isSome = true))

/-- HDL.SET gives the local record LEVEL, CHAIN and LOG2_SCALE of the instruction and the current epoch, keeps KEYSET_TAG and
PROVISIONAL, and pins it (R58, R59). HDL.FETCH of a handle that is not cached starts its fetch unless one is under way; of a
cached one it does nothing (R93, R126). -/
def Obligations.HandleInstructionsSetAndFetch : Prop :=
  ∀ (s : State) (p : Position) (t : TeamIx),
    let w := headOfTeam s p t
    let h := wf_ w 19 8
    (∀ e n, Issues s p t 0xC8 → cached s p h = some e → (recOf s (runningNo s)).opened = some n →
      Completes (.hdlSet p t) s fun u => ∃ v, cached u p h = some v ∧ v.pinned = true ∧ v.valid = e.valid ∧ v.poison = e.poison ∧
        recLevel v.record = wf_ w 25 20 ∧ recChain v.record = wf_ w 29 26 ∧ recScale v.record = wf_ w 51 32 ∧
        recEpoch v.record = n % 2 ^ 32 ∧ recTag v.record = recTag e.record ∧ recProv v.record = recProv e.record ∧
        (stall u p).live = goOn s.ledger (stall s p).live t ∧ (∀ j, j ≠ h → cached u p j = cached s p j) ∧ ∀ q, q ≠ p → stall u q = stall s q) ∧
    (Issues s p t 0xC9 → (cached s p h).isSome = true → Completes (.hdlFetch p t) s fun u =>
      Sequenced s u p t (goOn s.ledger (stall s p).live t)) ∧
    (Issues s p t 0xC9 → cached s p h = none → Completes (.hdlFetch p t) s fun u =>
      (∃ m ∈ u.yard, m.dst = .stall p ∧ m.body = .handle h) ∧ stall u p = { stall s p with lastTeam := t, live := goOn s.ledger (stall s p).live t } ∧
      ∀ q, q ≠ p → stall u q = stall s q)

/-- A Team whose head decodes as no instruction halts with ILLEGAL_ENCODING, which STALL_FAULT keeps when it is the first (R81,
R86, R87); a Team whose wait flag does not hold its value is BLOCKED and does not go on (R76). A Team that waits on a flag or
barrier longer than its WAIT_TIMEOUT halts with FLAG_TIMEOUT (R290, R291). -/
def Obligations.TeamsBlockAndHalt : Prop :=
  (∀ (s : State) (p : Position) (t : TeamIx) (code h : Nat),
    let w := headOfTeam s p t
    let m := getTeam (stall s p).live t
    (opInfo (opcodeOf w) = none → anotherFirst s p t = false → verdict s p t = .fault code h → csrBit s (stallCsr p 0xC0) 63 = false →
      Completes (.halt p t) s fun u => code = 0x0103 ∧
        getTeam (stall u p).live t = { m with st := .halted, cause := 0 } ∧ csrField u (stallCsr p 0xC0) 15 0 = 0x0103 ∧
        csrBit u (stallCsr p 0xC0) 63 = true ∧ ∃ r ∈ u.reports, r.source = p ∧ r.code = 0x0103) ∧
    (opcodeOf w = 0x43 → anotherFirst s p t = false → verdict s p t = .block 1 → Completes (.eeMul p t) s fun u =>
      (getTeam (stall u p).live t).st = .blocked ∧ (getTeam (stall u p).live t).cause = 1 ∧
      (getTeam (stall u p).live t).pc = m.pc ∧ u = { s with stalls := u.stalls })) ∧
  (∀ (s : State) (p : Position) (t : TeamIx),
    let m := getTeam (stall s p).live t
    m.st = .blocked → (m.cause = 1 ∧ verdictOn s p t = .block 1) ∨ (m.cause = 6 ∧ verdictOn s p t = .block 6) → m.timeout ≠ 0 →
    m.waitFrom.toNat + 1000 * m.timeout.toNat ≤ s.ledger.toNat →
    Completes (.flagTimeout p t) s fun u => getTeam (stall u p).live t = { m with st := .halted, cause := 0 } ∧
      (∀ q, q ≠ p → stall u q = stall s q) ∧ ∃ r ∈ u.reports, r.source = p ∧ r.code = 0x0502)

/-- Every engine instruction that issues takes the lowest free in-flight entry with its word, Team and captured loops, and its
Team goes on; no other stall changes (R78, R80, R113). -/
def Obligations.EngineInstructionsTakeEntries : Prop :=
  ∀ r ∈ engineRows, ∀ (s : State) (p : Position) (t : TeamIx), Issues s p t r.1 →
    Completes (r.2.2 p t) s fun u => EntryTaken s u p t r.2.1

/-- What the Matrix Array's instructions do once they have issued and complete. MA.FORM takes the form and empties the banks (R139).
MA.MAC and MA.MACZ copy the active bank to the snapshot registers and stream their rows into it, from zero for MA.MACZ or where mode
or primes change (R142 to R146, R164). MA.DRAIN swaps the banks and writes the lines of the one that was active, at D's address or as
a tile (R112, R147, R148, R151). -/
def Obligations.MatrixArrayAccumulatesAndDrains : Prop :=
  ∀ (s : State) (p : Position) (t : TeamIx),
    let w := headOfTeam s p t
    let e := headEntry s p t
    let m := (stall s p).ma
    let rows := (formDims m.form).1
    let cols := (formDims m.form).2
    let mode := maMode (hdl s (hA w)) (hdl s (hB w))
    let primes := if mode = .mod then columnPrimes (runningImage s) (hdl s (hD w)) (pieceAt s p (hD w))
      (addrD e (List.replicate (nestOf w) 0)) cols else []
    let streamed (b0 : Bank) : Bank := (headIts s p t).foldl (fun b js =>
      maRow rows cols (hdl s (hA w)).etype (mactOf w) b
        (maVector s p (runningNo s) (hdl s (hA w)) (pieceAt s p (hA w)) (addrA e js) rows)
        (maVector s p (runningNo s) (hdl s (hB w)) (pieceAt s p (hB w)) (addrB e js) cols)) b0
    let fresh : Bank := { mode := mode, primes := primes }
    engineIdle s p .ma →
    (Issues s p t 0x10 → RunsThrough (.maForm p t) s p fun u => (stall u p).ma =
      { m with form := if bitsOf (modE2 w) 1 0 = 0 then .tall else if bitsOf (modE2 w) 1 0 = 1 then .square else .wide,
               b0 := {}, b1 := {} }) ∧
    (Issues s p t 0x11 → headIts s p t ≠ [] → RunsThrough (.maMac p t) s p fun u => (stall u p).ma =
      { setActive m (streamed (if (activeBank m).mode = mode ∧ (activeBank m).primes = primes then activeBank m else fresh)) with
        snap := activeBank m }) ∧
    (Issues s p t 0x12 → headIts s p t ≠ [] → RunsThrough (.maMacz p t) s p fun u => (stall u p).ma =
      { setActive m (streamed fresh) with snap := activeBank m }) ∧
    (Issues s p t 0x11 → headIts s p t = [] → RunsThrough (.maMac p t) s p fun u => (stall u p).ma = m) ∧
    (Issues s p t 0x12 → headIts s p t = [] → RunsThrough (.maMacz p t) s p fun u => (stall u p).ma = m) ∧
    (Issues s p t 0x13 → hD w ≠ hTileq → RunsThrough (.maDrain p t) s p fun u =>
      (stall u p).ma = { m with active := !m.active } ∧
      let ls := drainTile m.form (activeBank m) (bitsOf (modE2 w) 2 0) (mactOf w) (hdl s (hD w)).pitch (addrD e [])
      ((ls.map (·.1)).Nodup → ∀ x ∈ ls, inPiece (pieceAt s p (hD w)) x.1 = true →
        ∃ v, heldAt s u p (hD w) x.1 = some v ∧ SameWords v x.2)) ∧
    (Issues s p t 0x13 → hD w = hTileq → RunsThrough (.maDrain p t) s p fun u => (stall u p).ma = { m with active := !m.active } ∧
        (stall u p).tiles = (stall s p).tiles ++
          [⟨(drainTile m.form (activeBank m) (bitsOf (modE2 w) 2 0) (mactOf w) (tileqPitch m.form (bitsOf (modE2 w) 2 0)) 0).map (·.2),
            (activeBank m).poison⟩])

/-- A Transform Engine instruction of one iteration, once it has issued and completes, writes the limb of D that its transform gives of the limb of A, word by
word, reduced under the prime of D's slot (R169, R171, R173, R178, R180, R181). -/
def Obligations.TransformEngineWritesTransform : Prop :=
  ∀ (s : State) (p : Position) (t : TeamIx) (js : List Nat),
    let w := headOfTeam s p t
    let e := headEntry s p t
    let a := addrA e js
    let d := addrD e js
    let dd := hdl s (hD w)
    let x := limbArg s p w d
    let ws := (runFrom a dd.pitch).flatMap fun k => (lineOf s p (hA w) k).map fun v => v.toNat % x.q
    ∀ r ∈ ([(0x30, .teNtt, teNttF), (0x31, .teIntt, teInttF), (0x32, .teAuto, teAutoF), (0x33, .teNtt4, teNtt4F),
        (0x34, .teIntt4, teIntt4F)] : List (Nat × (Position → TeamIx → Instr) × (TeArg → Nat → List Nat → List Nat))),
      Issues s p t r.1 → engineIdle s p .te → headIts s p t = [js] → x.q ≠ 0 →
      (∀ i, i < dd.pitch → inPiece (pieceAt s p (hD w)) (d + Int.ofNat i) = true) →
      RunsThrough (r.2.1 p t) s p fun u => ∀ i, i < dd.pitch → ∃ v, heldAt s u p (hD w) (d + Int.ofNat i) = some v ∧
        SameWords v ((List.range 16).map fun j => BitVec.ofNat 36 ((r.2.2 x (modE2 w) ws).getD (16 * i + j) 0))

/-- An elementwise instruction of one iteration, none of whose operands is the tile queue, once it has issued and completes writes the line that R184 to R186
give of its inputs at D's address. The words of R184 in the modular domain, and the word domain's comparisons and selection.
EE.CAST converts each element of one line of D from A's elements on the same positions (R187); EE.REDUCE of one line writes the
reduction of A's line into element 0 of D's line (R188). -/
def Obligations.ElementEngineWritesResults : Prop :=
  (∀ (s : State) (p : Position) (t : TeamIx) (js : List Nat) (l : Line),
    let w := headOfTeam s p t
    let e := headEntry s p t
    let dd := hdl s (hD w)
    let al := lineIndex (runningImage s) dd (pieceAt s p (hD w)) (addrD e js)
    let bl := linePlace (runningImage s) (hdl s (hB w)) (pieceAt s p (hB w)) (addrB e js)
    ∀ r ∈ lineRows, Issues s p t r.1 → headIts s p t = [js] → engineIdle s p .ee → hA w ≠ hTileq → hB w ≠ hTileq →
      inPiece (pieceAt s p (hD w)) (addrD e js) = true →
      eeLine (runningImage s) w (cselOf s w) dd al bl (lineInputs s p t js) = some l →
      RunsThrough (r.2 p t) s p fun u => ∃ v, heldAt s u p (hD w) (addrD e js) = some v ∧ SameWords v l) ∧
  (∀ q a b d k : Nat, 0 < q → a < q → b < q → d < q → k < q →
    eeMod 0x40 q a b d k = (a + b) % q ∧ (b + eeMod 0x41 q a b d k) % q = a ∧ (a + eeMod 0x42 q a b d k) % q = 0 ∧
    eeMod 0x43 q a b d k = a * b % q ∧ eeMod 0x44 q a b d k = (d + a * b) % q ∧ eeMod 0x45 q a b d k = a * k % q ∧
    eeMod 0x46 q a b d k = (a + k) % q ∧
    eeWord 0x50 a b d = (if a = b then 1 else 0) ∧ eeWord 0x51 a b d = (if a < b then 1 else 0) ∧
    eeWord 0x52 a b d = (if a ≠ 0 then b else d) ∧ eeWord 0x53 a b d = min a b ∧ eeWord 0x54 a b d = max a b) ∧
  (∀ (s : State) (p : Position) (t : TeamIx) (js : List Nat),
    let w := headOfTeam s p t
    let e := headEntry s p t
    let da := hdl s (hA w)
    let dd := hdl s (hD w)
    let a := addrA e js
    let eD := elemsPerLine dd.etype
    let eA := elemsPerLine da.etype
    let elem (k : Nat) : Nat := elemOf da.etype (lineOf s p (hA w) ((a * (eD : Int) + (k : Int)) / eA)) ((a * (eD : Int) + (k : Int)) % eA).toNat
    headIts s p t = [js] → engineIdle s p .ee → hA w ≠ hTileq → inPiece (pieceAt s p (hD w)) (addrD e js) = true →
    (Issues s p t 0x58 → RunsThrough (.eeCast p t) s p fun u => ∃ v, heldAt s u p (hD w) (addrD e js) = some v ∧
      SameWords v (lineOfElems dd.etype ((List.range eD).map fun k => convert da.etype dd.etype (cselOf s w) (cselOf s w) (elem k)))) ∧
    (Issues s p t 0x59 → RunsThrough (.eeReduce p t) s p fun u => ∃ v, heldAt s u p (hD w) (addrD e js) = some v ∧
      SameWords v (lineOfElems dd.etype
        [eeReduceGroup (bitsOf (modE2 w) 1 0) da.etype (cselOf s w) dd.etype [lineOf s p (hA w) a]])))

/-- What the Carter asks and sends: CT.LOAD a read of every HBM granule, or of every Granary line, of the lines it loads (R225,
R317, R324); CT.STORE its lines to their blocks or Granary slots; CT.ATOM its operation on each Granary slot of a local window
(R324), and CT.COPY a request for each iteration to the stall that holds its source (R122). What the local
instructions do once they have issued and complete: CT.FILL writes FILL to every line that its iterations name (R122). CT.GATHER of one iteration collects the words that its indices name, FILL where an index names none
(R229). CT.SCATTER and CT.SCATTERACC of one iteration with one index that lies in range write, or add under the prime of the
target's slot, that word (R230). -/
def Obligations.CarterMovesLines : Prop :=
  (∀ (s : State) (p : Position) (t : TeamIx) (n : Nat),
    let w := headOfTeam s p t
    let e := headEntry s p t
    let img := runningImage s
    let df := hdl s (hA w)
    let dn := hdl s (hD w)
    let inF (a : Int) : Prop := 0 ≤ a ∧ a < (df.lines : Int)
    let slot (a : Int) : Nat := pieceSlot df a.toNat
    freeEntry (stall s p) = some n →
    (Issues s p t 0x70 → Completes (.ctLoad p t) s fun u =>
      ∀ js ∈ headIts s p t, ∀ l ∈ loadLines df dn e (layUnit df dn (pieceAt s p (hD w)).lines) js,
        (df.place = 2 → ∀ g ∈ lineGranules df l, OnTheWay u (.stall p) (.hbm (stackOf (g * 256))) (.hbmRead n (hA w) g)) ∧
        (df.place ≠ 2 → OnTheWay u (.stall p) (.granary (grnHalf (pieceSlot df l))) (.grn n (pieceSlot df l) .read [] false))) ∧
    (Issues s p t 0x71 → Completes (.ctStore p t) s fun u =>
      ∀ js ∈ headIts s p t, inF (addrA e js) →
        (df.place = 2 → ∃ ls q r, OnTheWay u (.stall p) (.hbm (stackOf (df.base + 64 * 64 * ((addrA e js).toNat / 64)))) (.hbmWrite n (hA w) ls q r) ∧
          ((addrA e js).toNat, farLine s p w (addrA e js) (addrD e js)) ∈ ls) ∧
        (df.place ≠ 2 → (∀ is ∈ headIts s p t, isPeerSlot img (slot (addrA e is)) = false) →
          ∃ q, OnTheWay u (.stall p) (.granary (grnHalf (slot (addrA e js))))
            (.grn n (slot (addrA e js)) .write (farLine s p w (addrA e js) (addrD e js)) q))) ∧
    (Issues s p t 0x77 → (∀ is ∈ headIts s p t, isPeerSlot img (slot (addrA e is)) = false) → Completes (.ctAtom p t) s fun u =>
      ∀ js ∈ headIts s p t, inF (addrA e js) →
        let op := bitsOf (modC w) 2 0
        let q := linePrime img df (pieceAt s p (hA w)) (addrA e js)
        (op ≠ 0 ∨ q ≠ 0) → ∃ b, OnTheWay u (.stall p) (.granary (grnHalf (slot (addrA e js))))
          (.grn n (slot (addrA e js)) (atomOp df op q) (lineOf s p (hD w) (addrD e js)) b)) ∧
    (∀ q, Issues s p t 0x72 → posOfLid s (destLid w) = some q → Completes (.ctCopy p t) s fun u =>
      ∀ js ∈ headIts s p t, OnTheWay u (.stall p) (.stall q) (.copyReq n (hA w)
        (laySources df dn (layUnit df dn (pieceAt s p (hD w)).lines) (addrA e js) (addrD e js)) (addrD e js)))) ∧
  (∀ (s : State) (p : Position) (t : TeamIx) (js : List Nat) (k : Nat),
    let w := headOfTeam s p t
    let e := headEntry s p t
    let a := addrA e js
    let narrow (x : W36) : W36 := wordAt (clearWords (hdl s (hD w)) (List.replicate 16 x)) k
    let idx := lineOf s p (hB w) (addrB e js)
    let q := linePrime (runningImage s) (hdl s (hD w)) (pieceAt s p (hD w)) ((16 * addrD e js + indexOf idx k) / 16)
    let at_ : Int := 16 * addrD e js + indexOf idx k
    let one : Prop := k < 16 ∧ 0 ≤ indexOf idx k ∧ inPiece (pieceAt s p (hD w)) (at_ / 16) = true ∧
      ∀ j, j < 16 → j ≠ k → indexOf idx j < 0
    engineIdle s p .ct →
    (Issues s p t 0x76 → RunsThrough (.ctFill p t) s p fun u => ∀ is ∈ headIts s p t, inPiece (pieceAt s p (hD w)) (addrD e is) = true →
      ∃ v, heldAt s u p (hD w) (addrD e is) = some v ∧ SameWords v (clearWords (hdl s (hD w)) (List.replicate 16 (hdl s (hD w)).fill))) ∧
    (Issues s p t 0x73 → headIts s p t = [js] → inPiece (pieceAt s p (hD w)) (addrD e js) = true → k < 16 →
      RunsThrough (.ctGather p t) s p fun u => ∃ v, heldAt s u p (hD w) (addrD e js) = some v ∧ wordAt v k =
        narrow (if 0 ≤ indexOf idx k ∧ inPiece (pieceAt s p (hA w)) ((16 * a + indexOf idx k) / 16) = true then
          wordAt (lineOf s p (hA w) ((16 * a + indexOf idx k) / 16)) ((16 * a + indexOf idx k) % 16).toNat
        else (hdl s (hA w)).fill)) ∧
    (Issues s p t 0x74 → headIts s p t = [js] → one → RunsThrough (.ctScatter p t) s p fun u =>
      ∃ v, heldAt s u p (hD w) (at_ / 16) = some v ∧ wordAt v (at_ % 16).toNat = narrow (wordAt (lineOf s p (hA w) (addrA e js)) k)) ∧
    (Issues s p t 0x75 → headIts s p t = [js] → one → q ≠ 0 → q < 2 ^ 36 → RunsThrough (.ctScatteracc p t) s p fun u =>
      ∃ v, heldAt s u p (hD w) (at_ / 16) = some v ∧ (wordAt v (at_ % 16).toNat).toNat =
        ((wordAt (lineOf s p (hD w) (at_ / 16)) (at_ % 16).toNat).toNat + (narrow (wordAt (lineOf s p (hA w) (addrA e js)) k)).toNat) % q))

/-- What the Yard carries: YD.PUT to one stall and YD.MCAST a line for each iteration and destination (R270, R272); YD.FLAG and
YD.CADD on the bulk path, YD.BFLAG and YD.BCADD on the Bridleway, one write (R273). A write to a logical ID that no stall holds
sends nothing (R275). DRV.KEY and DRV.WT of one iteration, whose descriptor is not all zero, send it to the Drover of every
die that holds a destination of it (R246, R251). -/
def Obligations.SendsAndRequestsEnterYard : Prop :=
  (∀ (s : State) (p : Position) (t : TeamIx) (q : Nat),
    let w := headOfTeam s p t
    let e := headEntry s p t
    let md := modE2 w
    let stamp : Option W64 := if (runningImage s).claims.near = true then none else some s.ledger
    let flag : Body := .flag (BitVec.ofNat 8 (bitsOf md 17 10)) (bitOf md 18) (some p)
    let cadd : Body := .cadd (BitVec.ofNat 4 (bitsOf md 13 10)) (BitVec.ofInt 32 (signedOf 12 (bitsOf md 25 14))) (some p)
    let carried (u : State) (b : Body) (net : Net) : Prop := (∃ m ∈ u.yard, m.src = .stall p ∧ m.dst = .stall q ∧ m.body = b ∧ m.net = net ∧
      m.id ∈ (stall u p).unacked)
    let lines (u : State) : Prop := ∀ js ∈ headIts s p t, ∃ b, OnTheWay u (.stall p) (.stall q)
      (.line (.piece (hD w) (addrD e js)) (lineOf s p (hA w) (addrA e js)) b stamp (some p) ⟨p, t, (getTeam (stall s p).live t).pc⟩)
    (Issues s p t 0x90 → destLid w ≠ 0x3FF → posOfLid s (destLid w) = some q → Completes (.ydPut p t) s lines) ∧
    (Issues s p t 0x91 → q ∈ setPositions s (bitsOf md 7 0) → Completes (.ydMcast p t) s lines) ∧
    (Issues s p t 0x92 → posOfLid s (destLid w) = some q → Completes (.ydFlag p t) s fun u => carried u flag .req) ∧
    (Issues s p t 0x93 → posOfLid s (destLid w) = some q → Completes (.ydCadd p t) s fun u => carried u cadd .req) ∧
    (Issues s p t 0x94 → posOfLid s (destLid w) = some q → Completes (.ydBflag p t) s fun u => carried u flag .bridleway) ∧
    (Issues s p t 0x95 → posOfLid s (destLid w) = some q → Completes (.ydBcadd p t) s fun u => carried u cadd .bridleway) ∧
    (Issues s p t 0x92 → posOfLid s (destLid w) = none → Completes (.ydFlag p t) s fun u => u.yard = s.yard)) ∧
  (∀ (s : State) (p : Position) (t : TeamIx) (n : Nat) (js : List Nat),
    let w := headOfTeam s p t
    let e := headEntry s p t
    let l := lineOf s p (hB w) (addrB e js)
    let asked (u : State) (key : Bool) : Prop :=
      ∀ d ∈ ((drvDests (runningImage s) l).filterMap (posOfLid s)).map dieOf,
        ∃ r, OnTheWay u (.stall p) (.drover d) (.drv r) ∧ r.ctx = runningNo s ∧ r.pos = p ∧ r.entry = n ∧ r.key = key ∧ r.a = hA w ∧ r.words = l
    freeEntry (stall s p) = some n → headIts s p t = [js] → (∃ x ∈ l, x ≠ 0) →
    (Issues s p t 0xA0 → Completes (.drvKey p t) s fun u => asked u true) ∧
    (Issues s p t 0xA1 → Completes (.drvWt p t) s fun u => asked u false))

/-- An engine instruction that can finish frees its entry, applies its completion action unless that takes effect elsewhere, and
gives its destination the record of M = 1 (R55, R78, R107). A residue mismatch of a checked unit keeps the entry for arbitration
(R163, R193, R390), and none is raised of an unchecked one; a suppressed access halts the Team and frees the entry (R482).
Arbitration of a mismatch (R391): where the re-execution agrees, or disagrees and has the predicted residue, its result stands for
the line when the instruction completes; else no result does, the stall awaits retirement and the instruction's destination is
poisoned (R392). The entry leaves arbitration. -/
def Obligations.CompletionFreesEntries : Prop :=
  (∀ (s : State) (p : Position) (n line : Nat) (e : Entry), entryOf (stall s p) n = some e → canFinish s p e = true →
    (Completes (.engineInstructionComplete p n .clean) s fun u =>
      entryOf (stall u p) n = none ∧ (∀ k, k ≠ n → entryOf (stall u p) k = entryOf (stall s p) k) ∧
      (∀ q, q ≠ p → stall u q = stall s q) ∧
      (stall u p).live = (if e.mute = true then (stall s p).live else applyAct (stall s p).live (actOf e.word)) ∧
      (∀ r v, e.outRec = some r → e.prov = false → cached s p (actionOps e.word).2.2 = some v →
        ∃ v', cached u p (actionOps e.word).2.2 = some v' ∧ v'.record = stampEpoch s e.ctx e.word r ∧ v'.pinned = true) ∧
      (e.poison = true → opcodeOf e.word ≠ 0x11 → opcodeOf e.word ≠ 0x12 → destHandle e.word ≠ hNone → destHandle e.word ≠ hTileq →
        LocallyPoisoned u p e.ctx (destHandle e.word))) ∧
    (isChecked s p e = true → opcodeOf e.word = 0x13 → e.started = true → Completes (.engineInstructionComplete p n .residue) s fun u => u = s) ∧
    (isChecked s p e = true → opcodeOf e.word ≠ 0x13 ∨ e.started = false → Completes (.engineInstructionComplete p n .residue) s fun u =>
      (∃ v, entryOf (stall u p) n = some v ∧ v.arb = true ∧ v.word = e.word) ∧ (stall u p).live = (stall s p).live ∧ u.loft = s.loft ∧
      ∃ r ∈ u.reports, r.source = p ∧ r.code = 0x0801) ∧
    (isChecked s p e = false → Completes (.engineInstructionComplete p n .residue) s fun u => u = s) ∧
    Completes (.engineInstructionComplete p n (.slotViolation line)) s fun u =>
      entryOf (stall u p) n = none ∧ (getTeam (stall u p).live e.team).st = .halted ∧ ∃ r ∈ u.reports, r.source = p ∧ r.code = 0x0302) ∧
  (∀ (s : State) (p : Position) (n line predicted : Nat) (orig redo : Line) (e : Entry),
    entryOf (stall s p) n = some e → e.arb = true → e.ctx < 64 →
    Completes (.arbitration p n line orig redo predicted) s fun u =>
      (∃ v, entryOf (stall u p) n = some v ∧ v.arb = false ∧ v.word = e.word ∧ v.waits = e.waits ∧
        (redo = orig → v.fixes = (line, some orig) :: e.fixes) ∧
        (redo ≠ orig → lineNat redo % 8191 = predicted → v.fixes = (line, some redo) :: e.fixes) ∧
        (redo ≠ orig → lineNat redo % 8191 ≠ predicted → v.fixes = (line, none) :: e.fixes ∧ v.poison = true)) ∧
      (redo ≠ orig → lineNat redo % 8191 ≠ predicted → (position u p).await = some ((position s p).await.getD 1) ∧
        (recOf u e.ctx).triggers = (recOf s e.ctx).triggers ++ [0]))

/-- A line that arrives is written at its place, poisoned where it arrived poisoned, and acknowledged to its sender (R270, R283,
R397); in LEVEL mode the router holds it until its hold time has passed (R269). One that was damaged on its way is written and
recorded as TALLY_MISMATCH, and its handle is poisoned (R395, R396). One that the Loft bank suppresses is not written: its handle is
poisoned, the fault is reported, and the Team whose instruction sent it halts (R482). A flag write or counter add that arrives
for the running context takes effect at its stall and is acknowledged (R82, R83, R273); a completion that arrives applies its
action, record and poison mark (R271, R503). -/
def Obligations.ArrivalsTakeEffect : Prop :=
  (∀ (s : State) (x : Msg) (q : Nat) (to_ : LineTo) (l : Line) (poison : Bool) (stamp : Option W64) (ack : Option Nat) (by_ : Origin),
    ArrivesAt s x q → x.body = .line to_ l poison stamp ack by_ → x.ctx < 64 →
    let written (u : State) : Prop := LandedAt s u q x.ctx to_ (clearWords (decl (imageOf s x.ctx) (lineHandle to_)) l) ∧
      u.yard = yardAfter s x.id (ackOf s x q ack) ∧ (∀ r, r ≠ q → stall u r = stall s r) ∧ (stall u q).live = (stall s q).live
    let landed (u : State) : Prop := written u ∧ (poison = true → LocallyPoisoned u q x.ctx (lineHandle to_))
    (holdOver s stamp = false → ∀ check, Completes (.remoteLineWrite x.id check) s fun u => u = s) ∧
    (holdOver s stamp = true → Completes (.remoteLineWrite x.id .clean) s landed) ∧
    (stamp.isSome = true → holdOver s stamp = true → Completes (.levelHoldExpiry x.id) s landed) ∧
    (holdOver s stamp = true → Completes (.remoteLineWrite x.id .damaged) s fun u =>
      written u ∧ LocallyPoisoned u q x.ctx (lineHandle to_) ∧ (recOf u x.ctx).triggers = (recOf s x.ctx).triggers ++ [0] ∧
      ∃ r ∈ u.reports, r.source = q ∧ r.code = 0x0802) ∧
    (holdOver s stamp = true → Completes (.remoteLineWrite x.id .slotViolation) s fun u =>
      u.loft = s.loft ∧ LocallyPoisoned u q x.ctx (lineHandle to_) ∧ u.yard = yardAfter s x.id (ackOf s x q ack) ∧
      (runningNo s = x.ctx → (getTeam (stall u by_.pos).live by_.team).st = .halted) ∧ ∃ r ∈ u.reports, r.source = q ∧ r.code = 0x0302)) ∧
  (∀ (s : State) (x : Msg) (q : Nat), ArrivesAt s x q → runsAt s q x.ctx →
    let live (u : State) (v : StallCtx) : Prop := (stall u q).live = v ∧ ∀ r, r ≠ q → stall u r = stall s r
    (∀ f v ack, x.body = .flag f v ack → Completes (.remoteFlagWrite x.id) s fun u =>
      live u (setFlag (stall s q).live f v) ∧ u.yard = yardAfter s x.id (ackOf s x q ack)) ∧
    (∀ k v ack, x.body = .cadd k v ack → Completes (.remoteFlagWrite x.id) s fun u =>
      live u (addCnt (stall s q).live k v) ∧ u.yard = yardAfter s x.id (ackOf s x q ack)) ∧
    (∀ h act r poison, x.body = .done h act r poison → Completes (.remoteCompletionArrival x.id) s fun u =>
      live u (applyAct (stall s q).live act) ∧ u.yard = yardAfter s x.id [] ∧
      (poison = true → LocallyPoisoned u q x.ctx h) ∧
      (∀ v, r = some v → (cached s q h).isSome = true ∨ cacheRoom s q → ∃ e, cached u q h = some e ∧ e.record = v ∧ e.pinned = true)))

/-- CT.COPY at its source: the lines that are asked for are read and returned (R267). At its destination: the line is formed
from what has come and written, and the entry no longer waits for it (R225). What comes back to an engine instruction. An
acknowledgement that is not a swap's ends a wait and a remote write (R283), and poisons F where it is poisoned (R313). A granule
that is not the last is kept (R317); the last of a load of one iteration writes the destination line from what has come (R225,
R303). The old line of a swap, or words 0 to 7 of a compare-and-swap, is written to N (R324). -/
def Obligations.CopiesAndReturnsLand : Prop :=
  (∀ (s : State) (x : Msg) (q : Nat), ArrivesAt s x q → x.ctx < 64 →
    (∀ n h offs d, x.body = .copyReq n h offs d → Completes (.copyRequest x.id) s fun u =>
      u.yard = yardAfter s x.id [⟨s.msgSeq, .stall q, x.src, .rsp, x.ctx, .copyRet x.id n d (offs.map fun a => (a,
        readPiece s q x.ctx (decl (imageOf s x.ctx) h) (pieceOf (imageOf s x.ctx) (deviceId s) (decl (imageOf s x.ctx) h) (lidOf s q)) a)) false⟩] ∧
      u.loft = s.loft ∧ u.stalls = s.stalls) ∧
    (∀ id k d lines n e js, x.body = .copyRet id k d lines false → waitingFor s q id = some (n, e) →
      entryOf (stall s q) n = some e → (entryIts e).find? (fun js => addrD e js = d) = some js → Completes (.copyReturn x.id false) s fun u =>
      let ds := decl (imageOf s x.ctx) (hA e.word)
      let dd := decl (imageOf s x.ctx) (hD e.word)
      let pd := pieceOf (imageOf s x.ctx) (deviceId s) dd (lidOf s q)
      LandedAt s u q x.ctx (.piece (hD e.word) d) (layLine ds dd (layUnit ds dd pd.lines) (addrA e js) d fun a =>
        match lines.find? fun y => y.1 = a with
        | some y => y.2
        | none => List.replicate 16 ds.fill) ∧
      (∃ v, entryOf (stall u q) n = some v ∧ v.word = e.word ∧ v.waits = e.waits.filter (· ≠ id)) ∧ u.yard = yardAfter s x.id [])) ∧
  (∀ (s : State) (x : Msg) (q n id : Nat) (e : Entry), ArrivesAt s x q → x.ctx < 64 → waitingFor s q id = some (n, e) →
    entryOf (stall s q) n = some e →
    let waits (u : State) : Prop := ∃ v, entryOf (stall u q) n = some v ∧ v.word = e.word ∧ v.waits = e.waits.filter (· ≠ id)
    (∀ poison, x.body = .ack id poison false → (∀ d ∈ e.dests, d.1 ≠ id) → Completes (.writeAck x.id) s fun u =>
      waits u ∧ (stall u q).unacked = (stall s q).unacked.filter (· ≠ id) ∧ u.yard = yardAfter s x.id [] ∧
      (poison = true → LocallyPoisoned u q x.ctx (destHandle e.word))) ∧
    (∀ k g data poison, x.body = .hbmRet id k g data poison → e.waits.filter (· ≠ id) ≠ [] →
      Completes (.hbmReadReturn x.id false) s fun u => ∃ v, entryOf (stall u q) n = some v ∧ v.waits = e.waits.filter (· ≠ id) ∧
        v.grans = e.grans ++ [(g, data)] ∧ v.poison = (e.poison || poison) ∧ u.yard = yardAfter s x.id []) ∧
    (∀ k g data js, x.body = .hbmRet id k g data false → e.waits.filter (· ≠ id) = [] → entryIts e = [js] → x.ctx = e.ctx →
      (decl (imageOf s e.ctx) (hA e.word)).place = 2 → Completes (.hbmReadReturn x.id false) s fun u =>
      let df := decl (imageOf s e.ctx) (hA e.word)
      let dn := decl (imageOf s e.ctx) (hD e.word)
      waits u ∧ LandedAt s u q e.ctx (.piece (hD e.word) (addrD e js))
        (layLine df dn (layUnit df dn (pieceOf (imageOf s e.ctx) (deviceId s) dn (lidOf s q)).lines) (addrA e js) (addrD e js) fun a =>
          if 0 ≤ a ∧ a < (df.lines : Int) then lineFromGrans df (e.grans ++ [(g, data)]) a.toNat else List.replicate 16 df.fill)) ∧
    (∀ k slot words poison d, x.body = .grnRet id k slot words poison → opcodeOf e.word = 0x77 →
      e.dests.find? (fun d => d.1 = id) = some d → Completes (.atomicResult x.id) s fun u =>
      waits u ∧ (stall u q).unacked = (stall s q).unacked.filter (· ≠ id) ∧ u.yard = yardAfter s x.id [] ∧
      (poison = true → LocallyPoisoned u q x.ctx (hD e.word)) ∧
      ∀ y, landing s q x.ctx (.piece (hD e.word) d.2) = some y → ∃ v, loftRead u q y x.ctx = some v ∧
        ∀ i, i < (if bitsOf (modC e.word) 2 0 = 5 then 8 else 16) → wordAt v i = wordAt words i))

/-- A handle that has been fetched enters the cache as the Yardmaster's table has it, where an entry that is not pinned can give way
(R93); a Drover's notice poisons its target, and its KEYSET_MISMATCH halts the requesting Team (R252); a DRV instruction of which
every entry is sent and reported completes (R256). A copy of a pinned record reaches the Yardmaster and is kept for the end of the
step: no stall sees it before (R59, R60); the first that differs is reported as LEVEL_MISMATCH (R59). An ARRIVE of a child in the
phase that is open is counted once, and a RELEASE ends the phase and writes it at every participant (R358). -/
def Obligations.HandleMessagesUpdateCaches : Prop :=
  (∀ (s : State) (x : Msg) (q h : Nat), ArrivesAt s x q →
    (x.body = .handle h → cached s q h = none → Completes (.handleFetchComplete x.id) s fun u =>
      let v := nget {} (ctx s x.ctx).handles h
      (cacheRoom s q → ∃ k, cached u q h = some ⟨v.record, v.valid, v.poison, false, k⟩) ∧ (¬cacheRoom s q → stall u q = stall s q) ∧
      u.yard = yardAfter s x.id [] ∧ (stall u q).live = (stall s q).live ∧ ∀ r, r ≠ q → stall u r = stall s r) ∧
    (x.body = .handle h → (cached s q h).isSome = true → Completes (.handleFetchComplete x.id) s fun u =>
      u = { s with yard := yardAfter s x.id [] }) ∧
    (x.body = .poison h → Completes (.poisonNotice x.id) s fun u =>
      LocallyPoisoned u q x.ctx h ∧ u.yard = yardAfter s x.id [] ∧ (stall u q).live = (stall s q).live) ∧
    (∀ n e, x.body = .drvBad n h → entryOf (stall s q) n = some e → Completes (.poisonNotice x.id) s fun u =>
      (getTeam (stall u q).live e.team).st = .halted ∧ u.yard = yardAfter s x.id [] ∧ ∃ r ∈ u.reports, r.source = q ∧ r.code = 0x0401)) ∧
  (∀ (s : State) (q : Position) (n : Nat) (e : Entry), entryOf (stall s q) n = some e → e.engine = .drv → awake s q = true → e.asks = [] →
    let freed (u : State) : Prop := entryOf (stall u q) n = none ∧
      (stall u q).live = if e.mute = true then (stall s q).live else applyAct (stall s q).live (actOf e.word)
    (e.waits = [] → Completes (.drvComplete q n) s freed) ∧
    (∀ x d id, e.waits = [id] → waitingFor s q id = some (n, e) → ArrivesAt s x q → x ∈ s.yard → x.src = .drover d → x.body = .drvDone id →
      (∀ m ∈ s.yard, m.dst = .stall q → ∀ k, m.body = .drvDone k → m = x) → Completes (.drvComplete q n) s freed)) ∧
  ((∀ (s : State) (x : Msg) (l h : Nat) (r : W128) (poison : Bool), arriving s x.id = some x → x.dst = .yardmaster →
    x.body = .writeBack l h r poison → sysBar s x.ctx 0 = none →
    let before := (copiesOf s x.ctx h).map (·.2.1)
    Completes (.writeBackRecord x.id) s fun u =>
      copiesOf u x.ctx h = copiesOf s x.ctx h ++ [(l, r, poison)] ∧ (ctx u x.ctx).handles = (ctx s x.ctx).handles ∧
      u.yard = yardAfter s x.id [] ∧ u.stalls = s.stalls ∧ (∀ c, c ≠ x.ctx → ctx u c = ctx s c) ∧
      (copiesAgree (before ++ [r]) = true → u.reports = s.reports) ∧
      ∀ p, copiesAgree before = true → copiesAgree (before ++ [r]) = false → posOfLid s l = some p →
        ∃ y ∈ u.reports, y.source = p ∧ y.code = 0x0204) ∧
  ∀ (s : State) (i c : Nat) (f : Held), rxEntry s i = some f → flitType f.bytes = 0xC → ctxOfJob s (flitJob f.bytes) = some c →
    let id := flitField f.bytes 20 1 3 0
    let phase := flitField f.bytes 20 1 4 4
    phase ≠ getSys s c id 2 →
    (flitField f.bytes 20 1 5 5 = 0 → (∀ b, sysBar s c id = some b → (sysKidsOf s c id).length + 1 < b.children) → flitSrc f.bytes ∉ sysKidsOf s c id → Completes (.barrierToken i) s fun u =>
      sysKidsOf u c id = sysKidsOf s c id ++ [flitSrc f.bytes] ∧ getSys u c id 2 = getSys s c id 2) ∧
    (flitField f.bytes 20 1 5 5 = 1 → id ≠ 0 → runningNo s = c → Completes (.barrierToken i) s fun u =>
      getSys u c id 2 = phase ∧ getSys u c id 0 = 0 ∧ sysKidsOf u c id = [] ∧
      ∀ p ∈ participants s c, posOfLid s (lidOf s p) = some p → (barOf (stall u p).live (128 + id)).rphase = decide (phase = 1)))

/-- Partition barriers. An arrival whose remote writes are acknowledged is sent to the root: the lowest member's stall (R283,
R284). The root counts it, and with the last inverts its phase and releases every member; a release writes SENSE_FLAG (R284). A
device barrier completes once every stall with a role drives the value that the wire does not hold: its wire inverts and no
other does (R284, R285). Device barrier 0 completes only when every write-back of the context is stored, and the handle table then
has the records that came (R59, R285). -/
def Obligations.BarriersCountAndRelease : Prop :=
  ((∀ (s : State) (p : Position) (k b l q : Nat) (ls : List Nat),
    (barOf (stall s p).live k).bound = some b → (∀ m ∈ (stall s p).unacked, b ≤ m) → k < 64 →
    (setMembers (runningImage s) k).mergeSort (· ≤ ·) = l :: ls → posOfLid s l = some q → Completes (.arrivalPosted p k) s fun u =>
      OnTheWay u (.stall p) (.stall q) (.arrive k (lidOf s p)) ∧
      barOf (stall u p).live k = { barOf (stall s p).live k with bound := none } ∧ ∀ r, r ≠ p → stall u r = stall s r) ∧
  (∀ (s : State) (x : Msg) (q k l : Nat), ArrivesAt s x q → x.body = .arrive k l →
    let ms := setMembers (imageOf s x.ctx) k
    let b := barOf (stall s q).live k
    (b.count + 1 < ms.length → Completes (.barrierArrivalAtRoot x.id) s fun u =>
      barOf (stall u q).live k = { b with count := b.count + 1 } ∧ u.yard = yardAfter s x.id []) ∧
    (ms.length ≤ b.count + 1 → Completes (.barrierArrivalAtRoot x.id) s fun u =>
      barOf (stall u q).live k = { b with count := 0, rphase := !b.rphase } ∧
      ∀ r ∈ setPositions s k, OnTheWay u (.stall q) (.stall r) (.release k (!b.rphase)))) ∧
  ∀ (s : State) (x : Msg) (q k : Nat) (v : Bool) (g : McSet), ArrivesAt s x q → runsAt s q x.ctx → x.body = .release k v →
    (imageOf s x.ctx).mcast.find? (fun y => y.index = k) = some g → Completes (.barrierRelease x.id) s fun u =>
      (stall u q).live = setFlag (stall s q).live (BitVec.ofNat 8 g.sense) v ∧ u.yard = yardAfter s x.id [] ∧
      ∀ r, r ≠ q → stall u r = stall s r) ∧
  (∀ (s : State) (id : Fin 4), runningNo s ≠ 64 → participants s (runningNo s) ≠ [] →
    (∀ p ∈ participants s (runningNo s), (barOf (stall s p).live (64 + id)).drive ≠ s.ym.devPhase.getLsbD id) →
    (id ≠ 0 → Completes (.deviceBarrierComplete id) s fun u =>
      (∀ j : Fin 4, u.ym.devPhase.getLsbD j = if j = id then !s.ym.devPhase.getLsbD j else s.ym.devPhase.getLsbD j) ∧
      u = { s with ym := { s.ym with devPhase := u.ym.devPhase }, csr := u.csr }) ∧
    (id = 0 → writeBacksOpen s (runningNo s) = true → Completes (.deviceBarrierComplete id) s fun u => u = s) ∧
    (id = 0 → writeBacksOpen s (runningNo s) = false → (∀ e ∈ s.positions, e.2.await = none) →
      Completes (.deviceBarrierComplete id) s fun u =>
        (∀ j : Fin 4, u.ym.devPhase.getLsbD j = if j = id then !s.ym.devPhase.getLsbD j else s.ym.devPhase.getLsbD j) ∧
        (ctx u (runningNo s)).wbacks = [] ∧ u.positions = s.positions ∧
        ∀ h l r b, copiesOf s (runningNo s) h = [(l, r, b)] → (recOf s (runningNo s)).emptied = false →
          let v := nget {} (ctx u (runningNo s)).handles h
          recLevel v.record = recLevel r ∧ recChain v.record = recChain r ∧ recScale v.record = recScale r ∧ recTag v.record = recTag r ∧
          recEpoch v.record = recEpoch r ∧ recProv v.record = recProv r ∧ v.poison = ((nget {} (ctx s (runningNo s)).handles h).poison || b)))

/-- An epoch that has closed, and for which every condition of R402 holds, commits: its number is the last committed one, its
checkpoint and its pending blocks of durable handles are gone, and it is closed no more. While a trigger is pending it does not.
That a command whose event cannot happen changes nothing is the model's choice (log 9). -/
def Obligations.EpochCommitsWhenClosed : Prop :=
  ∀ (s : State) (c : CtxIx) (e : Nat), (recOf s c).closed = some e →
    (canCommit s c e = true → (recOf s c).lastStep = false → Completes (.epochCommit c) s fun u =>
      (recOf u c).commitNo = e ∧ (recOf u c).closed = none ∧ (recOf u c).opened = (recOf s c).opened ∧
      (recOf u c).chks = (recOf s c).chks.filter (fun k => k.epoch ≠ e) ∧
      (recOf u c).durable = (recOf s c).durable.filter (fun d => d.2.2 ≠ e) ∧ u.stalls = s.stalls ∧ u.ctxs = s.ctxs) ∧
    ((recOf s c).triggers ≠ [] → Completes (.epochCommit c) s fun u => u = s)

/-- STEP_ABORT: where a Team of the running context has halted and no rollback serves it, every enabled stall loses its in-
flight instructions and tiles, its Teams that have not halted are IDLE, and the context waits for its drain (R87, R88). A
drained context whose abort is no rollback's is done with it, and its stalls may issue again; one that is not aborting is only
marked (R289). ROLLBACK. With every epoch committed, or with no re-run allowed, the triggers are discharged (R408, R410). A
context that does not run and whose flows are quiet restarts from the checkpoint of the earliest epoch: its saved state and
handle table are those of the checkpoint, the next epoch opens with one re-run more, and no trigger is pending (R409, R410). -/
def Obligations.AbortAndRollbackRestart : Prop :=
  ((∀ (s : State) (c : CtxIx), runningNo s = c.val → anyHalted s = true → (ctx s c).aborting = false → rollbackAllowed s c = false →
    Completes (.stepAbort c) s fun u => (ctx u c).aborting = true ∧ (ctx u c).drained = false ∧
      ∀ p ∈ positionsIn s .enabled, (stall u p).entries = [] ∧ (stall u p).tiles = [] ∧ (stall u p).aborting = true ∧
        ∀ t, (getTeam (stall u p).live t).st = if (getTeam (stall s p).live t).st = .halted then .halted else .idle) ∧
  ∀ (s : State) (c : CtxIx), drainedNow s c = true →
    ((ctx s c).aborting = false → Completes (.contextDrained c) s fun u =>
      u = { s with ctxs := u.ctxs } ∧ ctx u c = { ctx s c with drained := true } ∧ ∀ d, d ≠ c.val → ctx u d = ctx s d) ∧
    ((ctx s c).aborting = true → (ctx s c).rolling = false → Completes (.contextDrained c) s fun u =>
      (ctx u c).aborting = false ∧ (ctx u c).drained = true ∧
      (runningNo s = c.val → ∀ p ∈ positionsIn s .enabled, (stall u p).aborting = false))) ∧
  (∀ (s : State) (c : CtxIx), (recOf s c).triggers ≠ [] →
    (rollbackTarget (recOf s c) = none → Completes (.rollback c) s fun u => (recOf u c).triggers = [] ∧ u.stalls = s.stalls) ∧
    (∀ e, rollbackTarget (recOf s c) = some e → rollbackAllowed s c = false → Completes (.rollback c) s fun u =>
      (recOf u c).triggers = [] ∧ (recOf u c).opened = (recOf s c).opened ∧ u.stalls = s.stalls ∧ u.ctxs = s.ctxs) ∧
    (∀ e k, rollbackTarget (recOf s c) = some e → rollbackAllowed s c = true → runningNo s ≠ c.val →
      (∀ f ∈ (recOf s c).flows, f.sent = []) → (recOf s c).chks.find? (fun k => k.epoch = e) = some k → Completes (.rollback c) s fun u =>
      (recOf u c).triggers = [] ∧ (recOf u c).opened = some ((recOf s c).count + 1) ∧ (recOf u c).reruns = k.reruns + 1 ∧
      (ctx u c).handles = k.handles ∧ (ctx u c).save = k.save ∧ (ctx u c).wires = k.wires ∧ (ctx u c).aborting = false))

/-- CONTEXT_SWITCH. Off a choice point it changes nothing. At one the stalls that await retirement and run nothing retire, and a scan
that is asked for begins (R382, R392, R467); then, where a context is chosen, it runs from now with its saved state, prime table and
set tables in every enabled stall, and the context that ran is saved as it stood, with the caches, tiles and banks of its stalls empty
(R91, R168, R281, R381, R382); a stall that does not run but is powered wakes for a READY Team (R95). Which context is
chosen (R381): a ready context of greater priority than the running one, or one of equal priority once the quantum has passed,
or any ready one where the running context is not ready; no ready context has a greater priority than the chosen one.
QUANTUM_EXPIRY notes that the quantum has passed, and changes nothing before. That a command whose event cannot happen changes nothing
is the model's choice (log 9). -/
def Obligations.ContextSwitchRunsChosen : Prop :=
  (∀ s : State, choicePoint s = false → Completes .contextSwitch s fun u => u = s) ∧
  (∀ s : State, choicePoint s = true →
    let s1 := scanBoundary (retireAwaiting s)
    let c := runningNo s1
    (nextContext s1 = none → Completes .contextSwitch s fun u => u = s1) ∧
    (∀ d, nextContext s1 = some d → Completes .contextSwitch s fun u =>
      d < 64 ∧ d ≠ c ∧ runningNo u = d ∧ u.ym.since = s1.ledger ∧ u.ym.expired = false ∧ (recOf u d).opened.isSome = true ∧
      u.ym.devPhase = (ctx s1 d).wires ∧ u.positions = s1.positions ∧
      (∀ p ∈ positionsIn s1 .enabled,
        (stall u p).live = refence s1 d (nget {} (ctx s1 d).save (lidOf s1 p)) ∧
        (stall u p).pwr = (if (stall s1 p).pwr ≠ .off ∧ anyReady (stall u p).live = true then .run else (stall s1 p).pwr) ∧
        (stall u p).primeTab = primeTable (imageOf s1 d) ∧ (stall u p).setTab = setTable s1 (imageOf s1 d) p ∧
        (c < 64 → (stall u p).hcache = [] ∧ (stall u p).tiles = [] ∧ (stall u p).ma = {})) ∧
      (c < 64 → (ctx u c).save = contextSave s1 c ∧ (ctx u c).wires = s1.ym.devPhase))) ∧
  (∀ s : State, (∀ e ∈ s.positions, e.2.await = none) → scanning s = none → scanBoundary (retireAwaiting s) = s) ∧
  (∀ (s : State) (p : Nat) (cause : BitVec 2), choicePoint s = true → nwf ({} : Pos) s.positions = true → (position s p).await = some cause →
    (∀ e ∈ (stall s p).entries, e.2 = none) → Completes .contextSwitch s fun u => (position u p).st = .retired ∧ (position u p).lid = 0x3FF) ∧
  ((∀ (s : State) (d : Nat), nextContext s = some d → isReady s d = true ∧ d ≠ runningNo s ∧
    (∀ c, c < 64 → isReady s c = true → c ≠ runningNo s → (ctx s c).prio.toNat ≤ (ctx s d).prio.toNat) ∧
    (isReady s (runningNo s) = true → runningNo s < 64 → (ctx s (runningNo s)).prio.toNat < (ctx s d).prio.toNat ∨
      (s.ym.expired = true ∧ (ctx s (runningNo s)).prio = (ctx s d).prio))) ∧
  ∀ s : State,
    (s.ym.running.isSome = true → s.ym.since.toNat + 1000 * csrField s 0x6400 19 0 < s.ledger.toNat →
      Completes .quantumExpiry s fun u => u = { s with ym := { s.ym with expired := true } }) ∧
    (s.ym.running = none ∨ s.ledger.toNat ≤ s.ym.since.toNat + 1000 * csrField s 0x6400 19 0 →
      Completes .quantumExpiry s fun u => u = s))

/-- A stall whose engines and Teams are quiet is gated, one at a step boundary with no near fence naps, and each wakes for a
READY Team; napping stalls wake for an arrival too (R95, R96). Nothing else of the stall changes. A measurement of a powered
stall sets the time and what the stall needs, 15 mV above what was measured; a stall that needs more than its fused maximum
awaits retirement, and a spare retires at once (R98, R465). The background check reads one line a visit and goes on, after line
10,911 to line 0 (R205, R232). A valid line whose parity fails is recorded and is a trigger of the context that tagged it; else
nothing but the pointer changes (R233, R407). -/
def Obligations.StallsGateNapAndAge : Prop :=
  (∀ (s : State) (p : Position),
    let x := stall s p
    let only (u : State) (w : Pwr) : Prop := stall u p = { x with pwr := w } ∧ ∀ q, q ≠ p → stall u q = stall s q
    (powered s p = true → x.pwr = .run → liveEntries x = [] → teamReady s p = false → Completes (.stallGate p) s fun u =>
      only u .gated ∧ u = { s with stalls := u.stalls, csr := u.csr } ∧
      (0 < x.target → x.target < 1024 → csrField u (stallCsr p 0x300) 9 0 = x.target)) ∧
    (powered s p = true → x.pwr = .run ∨ x.pwr = .gated → atBoundary s p = true → (∀ f ∈ fenceTargets s p, s.ledger.toNat + 20000 < f) →
      Completes (.stallNap p) s fun u => only u .nap ∧ u = { s with stalls := u.stalls }) ∧
    (x.pwr = .gated → teamReady s p = true → Completes (.stallWake p) s fun u => only u .run ∧ u = { s with stalls := u.stalls }) ∧
    (x.pwr = .nap → (∃ m ∈ s.yard, m.dst = .stall p) → Completes (.stallWake p) s fun u => only u .run ∧ u = { s with stalls := u.stalls })) ∧
  (∀ (s : State) (p : Position) (mv : Nat), powered s p = true → csrGet s (stallCsr p 0x400) = 0 →
    let req := min (mv + 15) 1023
    (req ≤ vmaxOf s p → Completes (.ageingMeasurement p mv) s fun u =>
      csrField u (stallCsr p 0x400) 9 0 = req ∧ csrBit u (stallCsr p 0x400) 15 = false ∧
      csrField u (stallCsr p 0x400) 63 16 = s.ledger.toNat % 2 ^ 48 ∧
      (stall u p).target = min (vmaxOf s p) (max req ((stall s p).target - 5)) ∧ u = { s with csr := u.csr, stalls := u.stalls }) ∧
    (vmaxOf s p < req → (position s p).st = .enabled → Completes (.ageingMeasurement p mv) s fun u =>
      (position u p).st = .enabled ∧ (position u p).await = some ((position s p).await.getD 0) ∧
      ∀ q, q ≠ p → position u q = position s q) ∧
    (vmaxOf s p < req → (position s p).st = .spare → (position s p).lid = 0x3FF → Completes (.ageingMeasurement p mv) s fun u =>
      (position u p).st = .retired ∧ (position u p).lid = 0x3FF)) ∧
  (∀ (s : State) (p : Position), powered s p = true → awake s p = true →
    let n := (stall s p).sweep
    let l := loftLine s p n
    let next := if n + 1 < 10912 then n + 1 else 0
    (l.valid = false ∨ parityFailures l.words l.par = 0 → Completes (.paritySweep p) s fun u =>
      stall u p = { stall s p with sweep := next } ∧ (∀ q, q ≠ p → stall u q = stall s q) ∧ u = { s with stalls := u.stalls }) ∧
    (l.valid = true → parityFailures l.words l.par ≠ 0 → Completes (.paritySweep p) s fun u =>
      (stall u p).sweep = next ∧ u.loft = s.loft ∧
      (recOf u l.tag.toNat).triggers = (recOf s l.tag.toNat).triggers ++ [0] ∧ (p, n) ∈ (recOf u l.tag.toNat).failing ∧
      ∃ r ∈ u.reports, r.source = p ∧ r.code = 0x0301))

/-- The Loft and Granary windows. The Ostler reads zeros and its writes are dropped (R199, R321, R364); the functions of the host do
not reach them, and an access of a virtual function while the link is up is an Unsupported Request (R362, R364). The debug port reads
the lines of the running context, and its writes take effect word by word in the PERSIST and SHARED ranges, where a word's container is
covered in full and the line is no descriptor's (R198, R199, R247); of the Granary it reads and writes the 72 bytes of each cached
line that stands in a window of the context that tagged it (R321, R364). An access to a stall in NAP wakes it (R96). -/
def Obligations.MemoryWindowsAnswerRequesters : Prop :=
  ∀ (s : State) (p : Position) (off len : Nat) (data : List Byte),
    let c := runningNo s
    let cl := (imageOf s c).claims
    let writable (n : Nat) : Prop := n < 10912 ∧ powered s p = true ∧ c < 64 ∧ descriptorLine s p c n = false ∧
      ((cl.persistBase ≤ n ∧ n < cl.persistBase + cl.persistLen) ∨ (cl.sharedBase ≤ n ∧ n < cl.sharedBase + cl.sharedLen))
    let covered (n i : Nat) : Prop := off ≤ 96 * n + 6 * i ∧ 96 * n + 6 * i + 6 ≤ off + data.length
    let given (n i : Nat) : W36 := BitVec.ofNat 36 (leNat ((data.drop (96 * n + 6 * i - off)).take 6))
    Completes (.loftWindowAccess .ostler p off (.read len)) s (fun u => u = { wakeNap s p with bus := List.replicate len 0 }) ∧
    Completes (.loftWindowAccess .ostler p off (.write data)) s (fun u => u = wakeNap s p) ∧
    Completes (.granaryWindowAccess .ostler off (.read len)) s (fun u => u = { s with bus := List.replicate len 0 }) ∧
    Completes (.granaryWindowAccess .ostler off (.write data)) s (fun u => u = s) ∧
    (∀ a : Access, Completes (.loftWindowAccess .pf p off a) s (fun u => u = s) ∧ Completes (.granaryWindowAccess .pf off a) s (fun u => u = s)) ∧
    (∀ (i : Instr) (a : Access) (n : Fin 64), i = .loftWindowAccess (.vf n) p off a ∨ i = .granaryWindowAccess (.vf n) off a →
      Completes i s fun u => u = { s with gate := u.gate } ∧ (s.gate.linkUp = true → s.gate.bridge = true → (n.val, .unsupportedRequest) ∈ u.gate.aer) ∧
        (s.gate.linkUp = false → u = s)) ∧
    (Completes (.loftWindowAccess .debugPort p off (.read len)) s fun u => (u.bus = (List.range len).map fun i =>
      if (off + i) / 96 < 10912 then
        match loftRead s p ((off + i) / 96) c with
        | some l => windowByte l ((off + i) % 96)
        | none => 0
      else 0) ∧ u.loft = s.loft ∧ ((stall s p).pwr = .nap → (stall u p).pwr = .run)) ∧
    (Completes (.loftWindowAccess .debugPort p off (.write data)) s fun u =>
      (∀ n i, writable n → i < 16 → covered n i → ∃ l, loftRead u p n c = some l ∧ wordAt l i = given n i) ∧
      (∀ n i l, i < 16 → ¬(writable n ∧ covered n i) → loftRead s p n c = some l →
        ∃ v, loftRead u p n c = some v ∧ wordAt v i = wordAt l i) ∧
      (∀ n, ¬writable n → loftLine u p n = loftLine s p n) ∧ ∀ q n, q ≠ p → q < 832 → n < 16384 → loftLine u q n = loftLine s q n) ∧
    (Completes (.granaryWindowAccess .debugPort off (.read len)) s fun u => u.bus.length = len ∧ u.grn = s.grn ∧
      ∀ i, i < len →
        (∀ t l, taggedBy s ((off + i) / 128) = some t → (backingOf s t ((off + i) / 128)).isSome = true →
          grnLine s t ((off + i) / 128) = some l → u.bus.getD i 0 = (lineBytes l.words).getD ((off + i) % 128) 0) ∧
        (taggedBy s ((off + i) / 128) = none → u.bus.getD i 0 = 0)) ∧
    (off + data.length ≤ 2 ^ 28 → Completes (.granaryWindowAccess .debugPort off (.write data)) s fun u =>
      (∀ slot t l, slot < 2 ^ 21 → taggedBy s slot = some t → (backingOf s t slot).isSome = true → grnLine s t slot = some l →
        l.words.length = 16 → ∃ v, grnLine u t slot = some v ∧ v.poison = l.poison ∧ ∀ k, k < 72 → (lineBytes v.words).getD k 0 =
          if off ≤ 128 * slot + k ∧ 128 * slot + k < off + data.length then data.getD (128 * slot + k - off) 0
          else (lineBytes l.words).getD k 0) ∧
      ∀ slot, slot < 2 ^ 21 → taggedBy s slot = none → taggedBy u slot = none)

/-- A Drover serves a request that waits for no gang. With a key-set tag that differs nothing is read: the targets are poisoned,
the Drover records KEYSET_MISMATCH and the issuing stall is told (R252). Else the lines of a weight, and of the half that each key
stores, go to every destination on the die (R248, R254), then, where nothing is to be expanded, the action and the report to the issuing
stall (R255, R256); a damaged block, or a read outside the context's regions, poisons the targets (R257, R302); a slot to be
expanded waits for its check (R258). Gangs (R253). A request for a gang joins the open gang of its key, or opens one, and is served
alone where 64 are open. A full gang is served, and once a gang has waited GANG_WAIT_NS it is closed: every member it holds is reported
served or waits for the check of its expansion. The check of an expansion (R258). One that passes delivers the expanded lines to every
destination and closes; the last of a hoist group is reported to the members. The first that fails is recorded as SEED_CHECK and expanded again; one that
fails again poisons the targets and triggers recovery. That a command whose event cannot happen changes nothing is the model's choice
(log 9). -/
def Obligations.DroverServesAndChecks : Prop :=
  (∀ (s : State) (x : Msg) (d : Fin 2) (e : DrvEntry) (bad : Bool) (errs : MemErrs), arriving s x.id = some x → x.dst = .drover d →
    x.body = .drv e → drvTakes s d e = true → drvField e.words 10 24 16 < 2 ∨ csrField s (0x0300008 + d.val * 0x10000) 19 0 = 0 →
    let img := imageOf s e.ctx
    let tgt := drvField e.words 5 11 0
    let err := 0x0300010 + d.val * 0x10000
    let first := (drvRange img e).1
    let n := (drvRange img e).2
    let reads (r : Nat → Nat → Nat → Prop) : Prop :=
      ∀ i ∈ drvKeys e, ∀ k, k < n → ∀ g ∈ lineGranules (drvCopy img d (drvHandle e i)) (first + k), r i k g
    (drvTagOk s e = false → Completes (.drvRequest x.id ⟨bad, errs⟩) s fun u =>
      csrGet u (0x0300100 + d.val * 0x10000) = csrGet s (0x0300100 + d.val * 0x10000) ∧
      (∀ q ∈ drvPositions s e.ctx d e.words, OnTheWay u (.drover d) (.stall q) (.poison tgt)) ∧
      OnTheWay u (.drover d) (.stall e.pos) (.drvBad e.entry tgt) ∧ OnTheWay u (.drover d) (.stall e.pos) (.drvDone e.id) ∧
      (csrBit s err 63 = false → csrBit u err 63 = true ∧ csrField u err 15 0 = 0x0401)) ∧
    (drvTagOk s e = true → e.key = false ∨ drvField e.words 0 13 12 % 2 = 1 →
      (reads fun _ _ g => (regionFor s e.ctx (g * 256)).isSome = true) → Completes (.drvRequest x.id ⟨bad, []⟩) s fun u =>
      ∀ q ∈ drvPositions s e.ctx d e.words, ∀ i ∈ drvKeys e, ∀ k, k < n →
        let c := drvCopy img d (drvHandle e i)
        OnTheWay u (.drover d) (.stall q) (.line (.piece tgt ((drvField e.words 6 23 0 + i * drvField e.words 8 23 0 + k : Nat) : Int))
          (lineAt s c c.base (first + k)) false (stampOf s e.ctx) none e.origin)) ∧
    (drvTagOk s e = true → e.key = false ∨ drvField e.words 0 13 12 < 2 → Completes (.drvRequest x.id ⟨bad, errs⟩) s fun u =>
      OnTheWay u (.drover d) (.stall e.pos) (.drvDone e.id) ∧ ∀ q ∈ drvPositions s e.ctx d e.words, drvField e.words 9 14 0 ≠ 0 →
        OnTheWay u (.drover d) (.stall q) (.done tgt (BitVec.ofNat 15 (drvField e.words 9 14 0)) none false)) ∧
    (drvTagOk s e = true → bad = true ∨ ((e.key = false ∨ drvField e.words 0 13 12 % 2 = 1) ∧
        ¬reads fun _ _ g => (regionFor s e.ctx (g * 256)).isSome = true) → Completes (.drvRequest x.id ⟨bad, errs⟩) s fun u =>
      ∀ q ∈ drvPositions s e.ctx d e.words, OnTheWay u (.drover d) (.stall q) (.poison tgt)) ∧
    (e.key = true → drvTagOk s e = true → 2 ≤ drvField e.words 0 13 12 → Completes (.drvRequest x.id ⟨bad, errs⟩) s fun u =>
      ∃ k, nget none (drover u d).expands k = some { members := [e], todo := drvKeys e, again := false })) ∧
  ((∀ (s : State) (x : Msg) (d : Fin 2) (e : DrvEntry) (bad : Bool) (errs : MemErrs), arriving s x.id = some x → x.dst = .drover d →
    x.body = .drv e → drvTakes s d e = true → 2 ≤ drvField e.words 10 24 16 → csrField s (0x0300008 + d.val * 0x10000) 19 0 ≠ 0 →
    let open_ := (openGangs s d).find? fun g => g.2.key = gangKey e && g.2.members.length < g.2.size
    let served (u : State) (m : DrvEntry) : Prop := (∃ j v, nget none (drover u d).expands j = some v ∧ m ∈ v.members) ∨
      OnTheWay u (.drover d) (.stall m.pos) (.drvDone m.id)
    let waits (u : State) : Prop := u.hbm = s.hbm ∧ ∀ y ∈ u.yard, y ∈ yardAfter s x.id [] ∨ ∃ r, y.body = .drv r
    (open_ = none → (openGangs s d).length < 64 → Completes (.drvRequest x.id ⟨bad, errs⟩) s fun u =>
      nget none (drover u d).gangs (drover s d).next =
        some { key := gangKey e, size := drvField e.words 10 24 16, members := [e], at_ := s.ledger } ∧ waits u) ∧
    (open_ = none → 64 ≤ (openGangs s d).length → Completes (.drvRequest x.id ⟨bad, errs⟩) s fun u => served u e) ∧
    (∀ k g, open_ = some (k, g) → g.members.length + 1 < g.size → Completes (.drvRequest x.id ⟨bad, errs⟩) s fun u =>
      nget none (drover u d).gangs k = some { g with members := g.members ++ [e] } ∧ waits u) ∧
    (∀ k g, open_ = some (k, g) → g.size ≤ g.members.length + 1 → Completes (.drvRequest x.id ⟨bad, errs⟩) s fun u =>
      nget none (drover u d).gangs k = none ∧ ∀ m ∈ g.members ++ [e], served u m)) ∧
  ∀ (s : State) (d : Fin 2) (k : Nat) (g : Gang) (bad : Bool) (errs : MemErrs), nget none (drover s d).gangs k = some g →
    let end_ := g.at_.toNat + csrField s (0x0300008 + d.val * 0x10000) 19 0
    (s.ledger.toNat < end_ → Completes (.gangWaitExpiry d ⟨k, bad, errs⟩) s fun u => u = s) ∧
    (end_ ≤ s.ledger.toNat → Completes (.gangWaitExpiry d ⟨k, bad, errs⟩) s fun u => nget none (drover u d).gangs k = none ∧
      ∀ m ∈ g.members, (∃ j v, nget none (drover u d).expands j = some v ∧ m ∈ v.members) ∨
        OnTheWay u (.drover d) (.stall m.pos) (.drvDone m.id))) ∧
  (∀ (s : State) (d : Fin 2) (k i : Nat) (v : Expand) (m : DrvEntry) (ms : List DrvEntry) (rest : List Nat) (faulty : Bool),
    nget none (drover s d).expands k = some v → v.members = m :: ms → v.todo = i :: rest →
    let img := imageOf s m.ctx
    let c := drvCopy img d (drvHandle m i)
    let slot := drvField m.words 1 19 12
    let good := drvExpand s img c slot
    let skip := (drvRange img m).1 - slot * c.pitch
    let err := 0x0300010 + d.val * 0x10000
    let passes := faulty = false ∧ crcWords good = (drvTrailer s img c slot).2
    let closes (u : State) : Prop :=
      (rest = [] → nget none (drover u d).expands k = none ∧
        ∀ y ∈ v.members, OnTheWay u (.drover d) (.stall y.pos) (.drvDone y.id)) ∧
      (rest ≠ [] → nget none (drover u d).expands k = some { v with todo := rest, again := false })
    (passes → Completes (.seedCheck d k faulty) s fun u => closes u ∧
      ∀ y ∈ v.members, ∀ q ∈ drvPositions s y.ctx d y.words, ∀ r, r < (drvRange img m).2 →
        OnTheWay u (.drover d) (.stall q) (.line (.piece (drvField y.words 5 11 0)
          ((drvField y.words 6 23 0 + i * drvField y.words 8 23 0 + drvField y.words 7 23 0 + r : Nat) : Int))
          ((List.range 16).map fun j => BitVec.ofNat 36 (good.getD (16 * (skip + r) + j) 0)) false (stampOf s y.ctx) none y.origin)) ∧
    (¬passes → v.again = false → Completes (.seedCheck d k faulty) s fun u =>
      nget none (drover u d).expands k = some { v with again := true } ∧
      (csrBit s err 63 = false → csrBit u err 63 = true ∧ csrField u err 15 0 = 0x0402) ∧
      ∃ r ∈ u.reports, r.source = 1000 + d ∧ r.code = 0x0402) ∧
    (¬passes → v.again = true → Completes (.seedCheck d k faulty) s fun u => closes u ∧
      (m.ctx < 64 → (recOf u m.ctx).triggers = (recOf s m.ctx).triggers ++ [0]) ∧
      ∀ y ∈ v.members, ∀ q ∈ drvPositions s y.ctx d y.words,
        OnTheWay u (.drover d) (.stall q) (.poison (drvField y.words 5 11 0))))

/-- A read request, of a durable handle at its current place and held while an earlier epoch's write of the block is pending (R406).
Within a LIVE region of its context it returns the granule, which the inner or outer code may have corrected, or which the read buffer
holds; one marked poisoned returns poisoned; errors beyond the code return it poisoned, reported, and trigger recovery (R313, R314,
R316, R317, R407). Outside the context's regions it returns zero words poisoned and is counted (R302). A tally group written: each byte of
its lines reads back and no other byte changes, the block's slot takes the record, a durable handle's in its other place, and the write is
acknowledged (R315, R316, R395, R406), as poisoned where a transfer failed (R313). With a tally mismatch every granule of the group is
poisoned and the acknowledgement says so (R396). Outside the context's regions it is dropped, counted and acknowledged (R302). While the
stack is in self-refresh or in a loopback run a request waits (R328). -/
def Obligations.HbmReadsAndWrites : Prop :=
  (∀ (s : State) (x : Msg) (st n h k : Nat), arriving s x.id = some x → x.dst = .hbm st → x.body = .hbmRead n h k →
    let d := decl (imageOf s x.ctx) h
    let waits : Prop := isDurable d = true ∧ durableWaits s x.ctx h (granBlock d k) = true
    let g := if isDurable d = true then (currentBase s d (granBlock d k) - d.base) / 256 + k else k
    let back (data : List Byte) (poison : Bool) : List Msg := yardAfter s x.id [⟨s.msgSeq, .hbm st, x.src, .rsp, x.ctx, .hbmRet x.id n k data poison⟩]
    let o := 0x0600138 + g / 2 ^ 28 * 0x10000
    (stackRuns s st = false ∨ waits → ∀ err, Completes (.hbmReadRequest x.id err) s fun u => u = s) ∧
    (stackRuns s st = true → ¬waits →
      (∀ err, regionFor s x.ctx (g * 256) = none → Completes (.hbmReadRequest x.id err) s fun u =>
        u.yard = back (List.replicate 256 0) true ∧ csrGet u o = csrGet s o + 1 ∧ u.hbm = s.hbm ∧ u.reports = s.reports) ∧
      ∀ i err, regionFor s x.ctx (g * 256) = some i →
        let r := regionAt s i
        let marked := r.rpoison || gpoison s g || combinePoison s g
        let beyond : Prop := (r.cls ≠ 1 ∧ err.innerBad = true) ∨ (r.cls = 1 ∧ err.beyond = true)
        let failed (u : State) (code : Nat) : Prop := (∃ v, u.yard = back v true) ∧ (∃ y ∈ u.reports, y.source = 1010 + g / 2 ^ 28 ∧ y.code = code) ∧
          (r.owner < 64 → (recOf u r.owner).triggers = (recOf s r.owner).triggers ++ [0])
        (buffered s g = true ∨ (err.exhausted = false ∧ (marked = true ∨ (¬beyond ∧ err.mac = none))) →
          Completes (.hbmReadRequest x.id err) s fun u =>
          u.yard = back (granuleBytes s g) marked ∧ u.hbm.mem = s.hbm.mem ∧ u.reports = s.reports ∧ u.recs = s.recs) ∧
        (buffered s g = false → err.exhausted = false → marked = false → beyond → Completes (.hbmReadRequest x.id err) s fun u =>
          failed u 0x0601 ∧ (err.innerBad = true → rowOf (granulePlace s g) ∈ u.hbm.failed)) ∧
        (buffered s g = false → err.exhausted = false → marked = false → ¬beyond → err.mac.isSome = true →
          Completes (.hbmReadRequest x.id err) s fun u => failed u 0x0603) ∧
        (buffered s g = false → err.exhausted = true → Completes (.hbmReadRequest x.id err) s fun u => failed u 0x0602))) ∧
  (∀ (s : State) (x : Msg) (st n h : Nat) (y : Nat × Line) (ys : List (Nat × Line)) (poison : Bool) (r : W128),
    arriving s x.id = some x → x.dst = .hbm st → x.body = .hbmWrite n h (y :: ys) poison r →
    let d := decl (imageOf s x.ctx) h
    let b := y.1 / 64
    let waits : Prop := isDurable d = true ∧ durableWaits s x.ctx h b = true
    let base := if isDurable d = true then (if mapBit s d b = true then d.base else d.base + placeBytes d) else d.base
    let first := base + ((lineSpans d (64 * b)).map (·.1)).headD 0
    let cells := (y :: ys).flatMap fun z => lineCells d base z.1 z.2
    let acked (p t : Bool) : List Msg := yardAfter s x.id [⟨s.msgSeq, .hbm st, x.src, .rsp, x.ctx, .ack x.id p t⟩]
    let byteOf (v : State) (a : Nat) : Byte := (granuleBytes v (a / 256)).getD (a % 256) 0
    (stackRuns s st = false ∨ waits → ∀ bad errs, Completes (.hbmWriteRequest x.id bad errs) s fun u => u = s) ∧
    (stackRuns s st = true → ¬waits →
      (∀ bad errs, regionFor s x.ctx first = none → Completes (.hbmWriteRequest x.id bad errs) s fun u =>
        u.yard = acked false false ∧ u.hbm = s.hbm ∧
        csrGet u (0x0600138 + st * 0x10000) = csrGet s (0x0600138 + st * 0x10000) + 1) ∧
      ((regionFor s x.ctx first).isSome = true → Completes (.hbmWriteRequest x.id false []) s fun u =>
        u.yard = acked false false ∧ (slotAt u (blockPage d base (64 * b))).record = r ∧
        (isDurable d = true → (h, b, currentEpoch s x.ctx) ∈ (recOf u x.ctx).durable) ∧
        ∀ a, byteOf u a = match cells.find? fun c => c.1 = a with
          | some c => c.2
          | none => byteOf s a) ∧
      (∀ errs, (regionFor s x.ctx first).isSome = true → writeFails s cells errs = true → Completes (.hbmWriteRequest x.id false errs) s fun u =>
        u.yard = acked true false) ∧
      ∀ errs, (regionFor s x.ctx first).isSome = true → Completes (.hbmWriteRequest x.id true errs) s fun u =>
        u.yard = acked true true ∧ ∀ z ∈ y :: ys, ∀ g ∈ lineGranules { d with base := base } z.1, gpoison u g = true))

/-- What a controller does of itself. A granule that waits in the write buffer for 64 Yard cy is merged with the stack's and written
(R315), poisoned where the transfer fails (R313); the patrol records and triggers nothing (R320, R407); a refresh changes nothing
(R320); the spare pages take the pages that a failed row holds, with a granule that cannot be read poisoned, and with too few left
SPARES_EXHAUSTED is set and reported (R318, R319). A region in initial fill becomes LIVE with every byte zero
(R310); a region in scrub is left with every byte zero, and once the owner's last region is, the owner's key slot is erased and its
regions are FREE (R311).
HBM_LOOP.START begins a run only while no region of the stack is in use; the run ends after DURATION_US with ERRORS and DONE
(R328). That a command whose event cannot happen changes nothing is the model's choice (log 9). -/
def Obligations.HbmUpkeepAndRegionLife : Prop :=
  ((∀ (s : State) (st : StackIx) (g : Nat) (k : Combine), nget none s.hbm.combine g = some k → g / 2 ^ 28 = st.val →
    (∀ err wr, s.ledger.toNat < k.at_.toNat + 40 → Completes (.writeCombineTimeout st g ⟨err, wr⟩) s fun u => u = s) ∧
    (k.at_.toNat + 40 ≤ s.ledger.toNat →
      (∀ err wr, liveRegion s g = none → Completes (.writeCombineTimeout st g ⟨err, wr⟩) s fun u =>
        nget none u.hbm.combine g = none ∧ u.hbm.mem = s.hbm.mem) ∧
      ∀ i r, liveRegion s g = some (i, r) →
        (Completes (.writeCombineTimeout st g {}) s fun u =>
          nget none u.hbm.combine g = none ∧ granuleBytes u g = granuleBytes s g ∧
          gpoison u g = (r.rpoison || gpoison s g || k.poison) ∧ ∀ j, j ≠ g → granuleBytes u j = granuleBytes s j) ∧
        ∀ err wr, wr.exhausted = true → wr.slotToo = false → Completes (.writeCombineTimeout st g ⟨err, wr⟩) s fun u =>
          nget none u.hbm.combine g = none ∧ gpoison u g = true ∧ ∃ y ∈ u.reports, y.source = 1010 + g / 2 ^ 28 ∧ y.code = 0x0602)) ∧
  (∀ (s : State) (st : StackIx) (g : Nat) (err : MemErr), Completes (.patrol st g err) s fun u =>
    u.recs = s.recs ∧ u.yard = s.yard ∧ u.hbm.mem = s.hbm.mem ∧ (err = .clean → u = s)) ∧
  (∀ (s : State) (st : StackIx) (pc : Fin 32) (bank : Nat), Completes (.refresh st pc bank) s fun u => u = s) ∧
  ∀ (s : State) (st : StackIx) (pc : Fin 32) (row : Nat) (ppr : Bool) (errs : MemErrs),
    let key := (st.val * 32 + pc.val) * 2 ^ 24 + row
    let rp := repairOf s st
    let pages := rowPages st pc row
    let held := pages.flatMap (dataPages rp)
    let lost := (pages.filter isSpare).map fun x => x % 2 ^ 24 - 0x8C4600
    let free := freeSpares { rp with lost := rp.lost ++ lost } held.length
    (key ∉ s.hbm.failed → Completes (.rowRepair st pc row ppr errs) s fun u => u = s) ∧
    (key ∈ s.hbm.failed → free.length < held.length → Completes (.rowRepair st pc row ppr errs) s fun u =>
      csrBit u (0x0600000 + st.val * 0x10000) 63 = true ∧ key ∉ u.hbm.failed ∧ u.hbm.repair = s.hbm.repair ∧
      ∃ y ∈ u.reports, y.source = 1010 + st.val) ∧
    (key ∈ s.hbm.failed → held.length ≤ free.length → Completes (.rowRepair st pc row ppr errs) s fun u =>
      (∀ x ∈ held, ∃ k, (x, k) ∈ (repairOf u st).spared ∧ k < 4096 ∧ (∀ e ∈ rp.spared, e.2 ≠ k) ∧ k ∉ rp.lost) ∧
      (∀ e ∈ rp.spared, e.1 ∉ held → e ∈ (repairOf u st).spared) ∧
      (ppr = true → key ∉ rp.remapped → key ∉ rp.pending → key ∈ (repairOf u st).pending ∧ (repairOf u st).retired = rp.retired) ∧
      (ppr = false → ∀ x ∈ held, x ∈ (repairOf u st).retired) ∧
      ∀ x ∈ held, ∀ j, j < 16 → (liveRegion s (16 * x + j)).isSome = true → (errs.at_ (16 * x + j)).exhausted = true →
        gpoison u (16 * x + j) = true)) ∧
  ((∀ (s : State) (r : Fin 64),
    let x := regionAt s r
    let zeroed (u : State) : Prop := ∀ a, nget 0 u.hbm.mem a = if x.base ≤ a ∧ a ≤ x.limit then 0 else nget 0 s.hbm.mem a
    let last : Prop := ∀ e ∈ s.hbm.regions, e.1 ≠ r.val → e.2.st ≠ .free → e.2.owner = x.owner → e.2.erased = true
    (x.st = .init → stackRuns s (stackOf x.base) = true → Completes (.regionInitDone r) s fun u =>
      regionAt u r = { x with st := .live } ∧ (∀ j, j ≠ r.val → regionAt u j = regionAt s j) ∧ zeroed u) ∧
    (x.st ≠ .init ∨ stackRuns s (stackOf x.base) = false → Completes (.regionInitDone r) s fun u => u = s) ∧
    (nwf ({} : Region) s.hbm.regions = true → x.st = .scrub → x.erased = false → Completes (.regionScrubDone r) s fun u =>
      zeroed u ∧ (∀ o, o ≠ x.owner → nget none u.hbm.keys o = nget none s.hbm.keys o) ∧
      (¬last → regionAt u r = { x with erased := true } ∧ (∀ j, j ≠ r.val → regionAt u j = regionAt s j) ∧
        nget none u.hbm.keys x.owner = nget none s.hbm.keys x.owner) ∧
      (last → nget none u.hbm.keys x.owner = none ∧
        ∀ j, regionAt u j = if (regionAt s j).owner = x.owner ∧ (regionAt s j).st ≠ .free then {} else regionAt s j)) ∧
    (x.st ≠ .scrub ∨ x.erased = true → Completes (.regionScrubDone r) s fun u => u = s)) ∧
  ∀ (s : State) (st : StackIx) (v : W64) (errors : Nat),
    let o := 0x0600200 + st.val * 0x10000
    (v.getLsbD 0 = true → (∀ e ∈ s.hbm.regions, e.2.st = .free ∨ e.2.base / 2 ^ 36 ≠ st.val) → nget none s.hbm.loop st = none →
      Completes (.hbmLoopStart st v) s fun u => nget none u.hbm.loop st = some s.ledger ∧ csrBit u o 63 = true ∧
        csrField u o 23 8 = bitsOf v.toNat 23 8) ∧
    (v.getLsbD 0 = false → Completes (.hbmLoopStart st v) s fun u => u.hbm = s.hbm ∧ csrField u o 23 8 = bitsOf v.toNat 23 8 ∧
      (v.getLsbD 62 = true → csrBit u o 62 = false)) ∧
    (∀ e ∈ s.hbm.regions, e.2.st ≠ .free → e.2.base / 2 ^ 36 = st.val → Completes (.hbmLoopStart st v) s fun u => u.hbm = s.hbm) ∧
    ∀ t, nget none s.hbm.loop st = some t →
      (s.ledger.toNat < t.toNat + 1000 * csrField s o 23 8 → Completes (.hbmLoopDone st errors) s fun u => u = s) ∧
      (t.toNat + 1000 * csrField s o 23 8 ≤ s.ledger.toNat → Completes (.hbmLoopDone st errors) s fun u =>
        nget none u.hbm.loop st = none ∧ csrBit u o 63 = false ∧ csrBit u o 62 = true ∧ csrField u o 55 24 = min errors 0xFFFFFFFF))

/-- A line operation on a cached line (R322 to R324): a read returns the line; a write replaces it and its mark; an atomic
operation applies to each word, swap and compare-and-swap returning the old line; no other line changes. A line that is not
cached is asked for, and an offset in no window reads zero words and drops writes (R321). A fill brings the 72 bytes of a line
from its backing, clean, where both granules are readable and the half has room; outside the owner's regions it comes zero and
poisoned (R323, R302). A half writes back its least recently used dirty lines until no more than DIRTY_MAX are dirty, and every
line stays cached with its words (R323). That a command whose event cannot happen changes nothing is the model's choice (log 9).
-/
def Obligations.GranaryServesLines : Prop :=
  (∀ (s : State) (x : Msg) (hf n slot : Nat) (op : GrnOp) (words : Line) (poison : Bool), arriving s x.id = some x →
    x.dst = .granary hf → x.body = .grn n slot op words poison →
    let req : Instr := .granaryRequest x.id false .clean
    let answers (u : State) (l : Line) (p : Bool) : Prop :=
      if returnsLine op = true then OnTheWay u (.granary hf) x.src (.grnRet x.id n slot l p)
      else OnTheWay u (.granary hf) x.src (.ack x.id false false)
    (backingOf s x.ctx slot = none → Completes req s fun u => answers u zeroLine false ∧ u.grn = s.grn) ∧
    ((backingOf s x.ctx slot).isSome = true → grnLine s x.ctx slot = none → Completes req s fun u =>
      grnKey x.ctx slot ∈ u.grn.fills ∧ u.grn.lines = s.grn.lines ∧ u.yard = s.yard) ∧
    (∀ l, (backingOf s x.ctx slot).isSome = true → grnLine s x.ctx slot = some l → Completes req s fun u => answers u l.words l.poison ∧
      (∀ k, k ≠ grnKey x.ctx slot → nget none u.grn.lines k = nget none s.grn.lines k) ∧
      ∃ v, grnLine u x.ctx slot = some v ∧
        (op = .read → v.words = l.words ∧ v.dirty = l.dirty ∧ v.poison = l.poison) ∧
        (op = .write → v.words = words ∧ v.dirty = true ∧ v.poison = poison) ∧
        (isAtomic op = true → v.dirty = true ∧ v.poison = (l.poison || poison)) ∧
        (∀ i, i < 16 →
          (op = .swap → wordAt v.words i = wordAt words i) ∧
          (op = .cas → wordAt v.words i = if i < 8 ∧ wordAt l.words i = wordAt words i then wordAt words (i + 8) else wordAt l.words i) ∧
          (∀ q, op = .modAdd q → 0 < q → q ≤ 2 ^ 36 →
            (wordAt v.words i).toNat = ((wordAt l.words i).toNat + (wordAt words i).toNat % q) % q) ∧
          (op = .intAdd false → wordAt v.words i = wordAt l.words i + wordAt words i) ∧
          (op = .min 0 → (wordAt v.words i).toNat = min (wordAt l.words i).toNat (wordAt words i).toNat) ∧
          (op = .max 0 → (wordAt v.words i).toNat = max (wordAt l.words i).toNat (wordAt words i).toNat)))) ∧
  ((∀ (s : State) (c : CtxIx) (slot a : Nat), grnKey c slot ∈ s.grn.fills → backingOf s c slot = some a → stackRuns s (stackOf a) = true →
    (halfLines s (grnHalf slot)).length < 1572864 →
    let own := backingOwner s c slot
    let sound (g : Nat) : Prop := ∃ i, regionFor s own (g * 256) = some i ∧ (regionAt s i).rpoison = false ∧ gpoison s g = false ∧
      combinePoison s g = false
    (sound (a / 256) → sound ((a + 71) / 256) → Completes (.granaryFill c slot []) s fun u =>
      (∃ v, grnLine u c slot = some v ∧ v.dirty = false ∧ v.poison = false ∧
        v.words = lineOfBytes ((List.range 72).map fun i => (granuleBytes s ((a + i) / 256)).getD ((a + i) % 256) 0)) ∧
      grnKey c slot ∉ u.grn.fills ∧ ∀ k, k ≠ grnKey c slot → nget none u.grn.lines k = nget none s.grn.lines k) ∧
    (∀ errs, regionFor s own (a / 256 * 256) = none → Completes (.granaryFill c slot errs) s fun u =>
      (∃ v, grnLine u c slot = some v ∧ v.dirty = false ∧ v.poison = true) ∧ grnKey c slot ∉ u.grn.fills)) ∧
  ∀ (s : State) (half : Fin 2) (errs : MemErrs), (s.grn.lines.map (·.1)).Nodup → Completes (.granaryWriteback ⟨half, errs⟩) s fun u =>
    dirtyCount u half ≤ dirtyMax s ∧ (dirtyCount s half ≤ dirtyMax s → u = s) ∧
    ∀ k, (nget none u.grn.lines k).map (fun l => (l.words, l.poison)) = (nget none s.grn.lines k).map fun l => (l.words, l.poison))

/-- A flit at a port that carries flits. One whose CRC fails is counted and asks for a replay once (R333, R335); an IDLE flit at
link-up gives the neighbour's ID (R338); a numbered flit out of order is discarded, and one in order with a place is taken, to
the device's own blocks, to the Ostler (MGMT), or to be forwarded (R335, R340, R342, R344); one that R334 refuses is discarded and
counted, and one without a place retrains the port. A port that carries none takes none. The replay buffer (R335,
R336). A NAK, or 2,000 ns without progress, sends every flit that is not confirmed again; after 8 replays without progress the
port retrains, or goes DOWN. That a command whose event cannot happen changes nothing is the model's choice (log 9). -/
def Obligations.LinkTakesFlitsInOrder : Prop :=
  (∀ (s : State) (n : PortIx) (flit : BitVec 2048),
    let b := flitOf flit
    let x := port s n
    let rows : List Instr := [.idle n flit, .nak n flit, .flitReceive n flit]
    (carries x.st = false → ∀ i ∈ rows, Completes i s fun u => u = s) ∧
    (carries x.st = true → crcOk b = false → ∀ i ∈ rows, Completes i s fun u =>
      (port u n).nakSent = true ∧ (port u n).expect = x.expect ∧ u.rhoa.rx = s.rhoa.rx ∧
      csrGet u (0x0700110 + n.val * 0x1000) = csrGet s (0x0700110 + n.val * 0x1000) + 1 ∧
      u.rhoa.wire.length = s.rhoa.wire.length + (if x.nakSent = true then 0 else 1)) ∧
    (carries x.st = true → crcOk b = true → formOk b = true → flitType b = 0 → Completes (.idle n flit) s fun u =>
      (port u n).expect = x.expect ∧ u.rhoa.rx = s.rhoa.rx ∧
      (port u n).neighbor = if flitDst b = 0x7FFF then BitVec.ofNat 15 (flitSrc b) else x.neighbor) ∧
    (carries x.st = true → crcOk b = true → 1 < flitType b → fieldAt b 0 2 ≠ x.expect.toNat → Completes (.flitReceive n flit) s fun u =>
      (port u n).expect = x.expect ∧ u.rhoa.rx = s.rhoa.rx ∧ (port u n).forward = x.forward ∧ (port u n).nakSent = true) ∧
    (carries x.st = true → crcOk b = true → 1 < flitType b → fieldAt b 0 2 = x.expect.toNat →
      ((placeFor x (flitVc b) (7 - flitTtl b)).isSome = true → Completes (.flitReceive n flit) s fun u =>
        (port u n).expect = x.expect + 1 ∧ (port u n).nakSent = false ∧
        (formOk b = false → u.rhoa.rx = s.rhoa.rx ∧ (port u n).forward = x.forward ∧ u.ostler = s.ostler ∧
          csrGet u (0x0700130 + n.val * 0x1000) = csrGet s (0x0700130 + n.val * 0x1000) + 1) ∧
        (formOk b = true → mine s (flitDst b) = true → flitType b ≠ 0xA →
          ∃ h, u.rhoa.rx = s.rhoa.rx ++ [h] ∧ h.bytes = b ∧ h.port = n.val) ∧
        (formOk b = true → mine s (flitDst b) = true → flitType b = 0xA → u.rhoa.rx = s.rhoa.rx ∧
          u.ostler.inbox = if s.ostler.up = true then s.ostler.inbox ++ [(flitSrc b, (b.drop 24).take (min (fieldAt b 16 2) 224))]
            else s.ostler.inbox) ∧
        (formOk b = true → mine s (flitDst b) = false → u.rhoa.rx = s.rhoa.rx ∧ ∃ h, (port u n).forward = x.forward ++ [h] ∧ h.bytes = b)) ∧
      (placeFor x (flitVc b) (7 - flitTtl b) = none → Completes (.flitReceive n flit) s fun u =>
        u.rhoa.rx = s.rhoa.rx ∧ ((port u n).st = .training ∨ (port u n).st = .down)))) ∧
  (∀ (s : State) (n : PortIx),
    let x := port s n
    let again (u : State) : Prop := (port u n).replay = x.replay ∧ (port u n).replays = x.replays + 1 ∧
      u.rhoa.wire.length = s.rhoa.wire.length + x.replay.length ∧
      csrGet u (0x0700118 + n.val * 0x1000) = csrGet s (0x0700118 + n.val * 0x1000) + 1
    let stopped (u : State) : Prop := (port u n).st = .training ∨ (port u n).st = .down
    (carries x.st = true → x.replay ≠ [] → x.progress.toNat + 2000 ≤ s.ledger.toNat →
      (x.replays < 8 → Completes (.replayTimeout n) s again) ∧ (8 ≤ x.replays → Completes (.replayTimeout n) s stopped)) ∧
    (carries x.st = false ∨ x.replay = [] ∨ s.ledger.toNat < x.progress.toNat + 2000 → Completes (.replayTimeout n) s fun u => u = s) ∧
    ∀ flit : BitVec 2048, carries x.st = true → crcOk (flitOf flit) = true → formOk (flitOf flit) = true → flitType (flitOf flit) = 1 →
      x.queue = [] → x.replay ≠ [] →
      ((∀ f ∈ x.replay, after16 (fieldAt f.bytes 0 2) (fieldAt (flitOf flit) 2 2) = true) →
        (x.replays < 8 → Completes (.nak n flit) s again) ∧ (8 ≤ x.replays → Completes (.nak n flit) s stopped)) ∧
      ((∀ f ∈ x.replay, after16 (fieldAt f.bytes 0 2) (fieldAt (flitOf flit) 2 2) = false) → Completes (.nak n flit) s fun u =>
        (port u n).replay = [] ∧ (port u n).acked = BitVec.ofNat 16 (fieldAt (flitOf flit) 2 2) ∧ u.rhoa.wire = s.rhoa.wire))

/-- Training and forwarding (R336 to R338, R342, R343, R357). A port that trains comes up, on one lane unless both trained and
none was spared, and loses no flit it held; after 10 ms without success it goes DOWN. A flit for another device goes on with TTL
less one, or is discarded and counted at TTL 0 or without a route; a flit that a port has held for more than 100,000 ns is
discarded and counted, wherever it waits. The Ostler's writes of RL_CFG disable, enable and retrain a port; the fifth retrain
within 1,000,000,000 ns takes it DOWN, and RETRAIN leads out of DOWN, where the count begins anew (log 111). A port that carries
flits sends a BEACON every 1,000 ns. That a command whose event cannot happen changes nothing is the model's choice (log 9). -/
def Obligations.LinkPortsTrainAndForward : Prop :=
  ∀ (s : State) (n : PortIx),
    let x := port s n
    let lost (u : State) : Prop := csrGet u (0x0700130 + n.val * 0x1000) = csrGet s (0x0700130 + n.val * 0x1000) + 1
    let recent := (x.retrains.filter fun t => decide (s.ledger.toNat < t.toNat + 1000000000)).length
    let mine_ := s.rhoa.rx.filter fun h => h.port = n.val
    (∀ lanes : BitVec 2,
      (x.st = .training → lanes ≠ 0 → portThere s n = true → Completes (.linkTrained n lanes) s fun u =>
        (port u n).st = (if lanes = 3 ∧ x.spared = false then .up else .up1) ∧
        (port u n).lanes = (if lanes = 3 ∧ x.spared = true then 1 else lanes) ∧ (port u n).expect = 0 ∧ (port u n).rxPlaces = [] ∧
        (port u n).owed = [] ∧ (port u n).queue.length + (port u n).replay.length = x.queue.length + x.replay.length ∧
        s.rhoa.wire.length < u.rhoa.wire.length) ∧
      (x.st ≠ .training ∨ lanes = 0 ∨ portThere s n = false → Completes (.linkTrained n lanes) s fun u => u = s)) ∧
    (x.st = .training → x.trainAt.toNat + 10000000 ≤ s.ledger.toNat → Completes (.trainingTimeout n) s fun u => (port u n).st = .down) ∧
    (x.st ≠ .training ∨ s.ledger.toNat < x.trainAt.toNat + 10000000 → Completes (.trainingTimeout n) s fun u => u = s) ∧
    (x.forward = [] → Completes (.flitForward n) s fun u => u = s) ∧
    (∀ h hs, x.forward = h :: hs →
      let b := putBytes h.bytes 14 (leBytes 1 (flitTtl h.bytes - 1))
      (flitTtl h.bytes = 0 ∨ routePort s (flitDst b) (flitSrc b) = none → Completes (.flitForward n) s fun u =>
        (port u n).forward = hs ∧ lost u) ∧
      (∀ m, flitTtl h.bytes ≠ 0 → routePort s (flitDst b) (flitSrc b) = some m → Completes (.flitForward n) s fun u =>
        (port u n).forward = hs ∧ ((∃ y ∈ (port u m).queue, y.bytes = b) ∨ ∃ y ∈ (port u m).replay, y.bytes.drop 2 = b.drop 2))) ∧
    (∀ i h, (x.queue ++ x.forward ++ x.replay ++ mine_)[i]? = some h →
      (s.ledger.toNat ≤ h.at_.toNat + 100000 → Completes (.flitLifetimeExpiry n i) s fun u => u = s) ∧
      (h.at_.toNat + 100000 < s.ledger.toNat →
        (i < x.queue.length → Completes (.flitLifetimeExpiry n i) s fun u =>
          (port u n).queue = x.queue.eraseIdx i ∧ (port u n).forward = x.forward ∧ lost u) ∧
        (∀ k, k < x.forward.length → i = x.queue.length + k → Completes (.flitLifetimeExpiry n i) s fun u =>
          (port u n).forward = x.forward.eraseIdx k ∧ u.rhoa.rx = s.rhoa.rx ∧ lost u) ∧
        (∀ k, k < x.replay.length → i = x.queue.length + x.forward.length + k → Completes (.flitLifetimeExpiry n i) s fun u =>
          (port u n).replay = x.replay.eraseIdx k ∧ (port u n).queue = x.queue ∧ u.rhoa.rx = s.rhoa.rx ∧ lost u) ∧
        (x.queue.length + x.forward.length + x.replay.length ≤ i → Completes (.flitLifetimeExpiry n i) s fun u =>
          u.rhoa.rx = s.rhoa.rx.erase h ∧ (port u n).forward = x.forward ∧ lost u))) ∧
    (∀ i, (x.queue ++ x.forward ++ x.replay ++ mine_)[i]? = none → Completes (.flitLifetimeExpiry n i) s fun u => u = s) ∧
    (∀ v : W32, portThere s n = true →
      let retrain : Bool := bitOf v.toNat 2
      (bitOf v.toNat 0 = false → Completes (.portEnable n v) s fun u => (port u n).st = .disabled ∧ (port u n).lanes = 0) ∧
      (bitOf v.toNat 0 = true → retrain = false → x.failed = true → Completes (.portEnable n v) s fun u => (port u n).st = .down) ∧
      (bitOf v.toNat 0 = true → (x.failed = false ∨ retrain = true) → x.st = .disabled → Completes (.portEnable n v) s fun u =>
        (port u n).st = .training ∧ (port u n).trainAt = s.ledger) ∧
      (bitOf v.toNat 0 = true → retrain = false → x.failed = false → x.st ≠ .disabled → Completes (.portEnable n v) s fun u =>
        port u n = x ∧ u.rhoa.wire = s.rhoa.wire) ∧
      (bitOf v.toNat 0 = true → retrain = true → x.st ≠ .disabled → Completes (.portEnable n v) s fun u =>
        (port u n).st = (if x.failed = false ∧ 4 ≤ recent then .down else .training))) ∧
    (portThere s n = true →
      let on := csrField s (0x0700008 + n.val * 0x1000) 0 0
      (on = 0 → Completes (.portRetrain n) s fun u => (port u n).st = .disabled) ∧
      (on = 1 → x.st = .disabled ∨ x.failed = true ∨ recent < 4 → Completes (.portRetrain n) s fun u =>
        (port u n).st = .training ∧ (port u n).spared = false) ∧
      (on = 1 → x.st ≠ .disabled → x.failed = false → 4 ≤ recent → Completes (.portRetrain n) s fun u => (port u n).st = .down)) ∧
    (portThere s n = false → Completes (.portRetrain n) s (fun u => u = s) ∧ ∀ v : W32, Completes (.portEnable n v) s fun u => u = s) ∧
    (carries x.st = true → x.beaconTx.toNat + 1000 ≤ s.ledger.toNat → Completes (.beaconSend n) s fun u =>
      (port u n).beaconTx = s.ledger ∧
      ((∃ y ∈ (port u n).queue, flitType y.bytes = 0xB) ∨ ∃ y ∈ (port u n).replay, flitType y.bytes = 0xB)) ∧
    (carries x.st = false ∨ s.ledger.toNat < x.beaconTx.toNat + 1000 → Completes (.beaconSend n) s fun u => u = s)

/-- The home of peer writes (R348 to R352, R412). A WRITE in its turn whose lines are exported, for which there is room and
whose lines are cached, is performed: the lines hold its words, and the source has a dependency. Lines that are not cached are
asked for. A flit out of turn changes no line, and the first after a gap asks for a GAP; one that may not write is rejected and
acknowledged so. An ATOMIC in its turn, taken, is performed under the operation of the handle that covers each line (R324, R347,
R348). A flit that ends its block may poison the lines by its tally (R395), which is no part of this statement. -/
def Obligations.HomePerformsPeerWrites : Prop :=
  ∀ (s : State) (i c : Nat) (h : Held) (bad : Bool), rxEntry s i = some h → toGate s h.bytes = false → ctxOfJob s (flitJob h.bytes) = some c →
    let b := h.bytes
    let src := flitSrc b
    let f := homeAt s c src (flitJob b)
    let ls := flitLines b
    let slots := ls.map (·.1)
    let code := flitField b 24 4 31 29
    let next (u : State) : Prop := (homeAt u c src (flitJob b)).expect = (f.expect + 1) % 2 ^ 16
    let taken (u : State) : Prop := next u ∧ (∃ more, u.rhoa.rx = s.rhoa.rx.eraseIdx i ++ more) ∧ ∃ d ∈ (recOf u c).deps, d.src = src
    let asks (u : State) : Prop := (∀ k ∈ slots, grnLine s c k = none → grnKey c k ∈ u.grn.fills) ∧ u.grn.lines = s.grn.lines ∧
      u.rhoa = s.rhoa ∧ u.recs = s.recs
    ∀ g : Bool, flitType b = (if g = true then 3 else 2) →
      let row : Instr := if g = true then .atomic i bad else .write i bad
      let op0 := if g = true then (homeOp s c (slots.headD 0) code).1 else .write
      (flitDseq b = f.expect → slotsExported s c slots = true → (placeOf s c src slots).isSome = true →
        linkHeld s c src (flitDseq b) = false → undoRoom s c src (fieldAt b 20 4) op0 slots = true →
        ((∀ k ∈ slots, (grnLine s c k).isSome = true) → Completes row s fun u => taken u ∧
          (g = false → ∀ y ∈ ls, ∃ v, grnLine u c y.1 = some v ∧ v.words = y.2.1 ∧ v.dirty = true ∧
            (flitField b 15 1 5 5 = 0 → v.poison = y.2.2)) ∧
          (g = true → ∀ y ∈ ls, ∀ d l, coverOf (imageOf s c) y.1 = some d → grnLine s c y.1 = some l →
            let q := linePrime (imageOf s c) d (pieceOf (imageOf s c) (deviceId s) d 0) ((y.1 : Int) - pieceSlot d 0)
            code ≠ 0 ∨ q ≠ 0 → ∃ v, grnLine u c y.1 = some v ∧ v.words = grnApply (atomOp d code q) l.words y.2.1 ∧ v.dirty = true ∧
              (flitField b 15 1 5 5 = 0 → v.poison = (l.poison || y.2.2)))) ∧
        ((∃ k ∈ slots, grnLine s c k = none) → Completes row s asks)) ∧
      (flitDseq b ≠ f.expect → Completes row s fun u => u.grn = s.grn ∧ (homeAt u c src (flitJob b)).expect = f.expect ∧
        (after16 (flitDseq b) f.expect = true → (homeAt u c src (flitJob b)).gap = true)) ∧
      (flitDseq b = f.expect → slotsExported s c slots = false ∨ placeOf s c src slots = none → flitField b 15 1 5 5 = 0 →
        Completes row s fun u => u.grn = s.grn ∧ next u ∧ (homeAt u c src (flitJob b)).wacks = f.wacks ++ [(flitDseq b, 2)])

/-- COMMIT and REVOKE at the home (R353 to R355, R412). COMMIT(E) in its turn ends the dependency on epochs up to E and deletes
their undo records. REVOKE(E, END) undoes the epochs from E on, sets EXPECT to END, and rolls the dependent epoch back (log 112:
with no dependency on the source there is none). A commit
awaited for too long first asks the source, and then is revoked. The acknowledgement of peer writes (R349, R350, R354). Waiting
entries leave up to 48 at a time; each entry of a WACK acknowledges what its DSEQ carried to the stall that sent it, poisoned
unless it was performed clean; GAP and a wait of WACK_WAIT_US acknowledge poisoned, and trigger recovery. That a command whose
event cannot happen changes nothing is the model's choice (log 9). -/
def Obligations.PeerEpochsCommitAndRevoke : Prop :=
  ((∀ (s : State) (i c : Nat) (h : Held), rxEntry s i = some h → toGate s h.bytes = false → ctxOfJob s (flitJob h.bytes) = some c →
    let b := h.bytes
    let src := flitSrc b
    let e := fieldAt b 20 4
    let f := homeAt s c src (flitJob b)
    (flitType b = 4 → flitDseq b = f.expect → Completes (.commit i) s fun u =>
      (homeAt u c src (flitJob b)).expect = (f.expect + 1) % 2 ^ 16 ∧ csrGet u 0x07C0120 = csrGet s 0x07C0120 + 1 ∧
      (∀ d ∈ (recOf s c).deps, d.src = src → after32 d.pendHi e = false → d ∉ (recOf u c).deps) ∧
      (∀ d ∈ (recOf s c).deps, d.src ≠ src → d ∈ (recOf u c).deps) ∧
      ∀ x ∈ (recOf s c).undo, x ∈ (recOf u c).undo ↔ ¬(x.src = src ∧ after32 x.epoch e = false)) ∧
    (flitType b = 6 → Completes (.revoke i) s fun u =>
      (homeAt u c src (flitJob b)).expect = fieldAt b 24 2 ∧ (homeAt u c src (flitJob b)).gap = false ∧
      (∀ x ∈ (recOf u c).undo, ¬(x.src = src ∧ after32 e x.epoch = false)) ∧ (∃ r ∈ u.reports, r.source = 1021 ∧ r.code = 0x0701) ∧
      (∀ d, c < 64 → (recOf s c).deps.find? (fun d => d.src = src) = some d →
        (recOf u c).triggers = (recOf s c).triggers ++ [d.rxEpoch + 1]) ∧
      ((recOf s c).deps.find? (fun d => d.src = src) = none → (recOf u c).triggers = (recOf s c).triggers))) ∧
  ∀ (s : State) (c : CtxIx) (src : BitVec 15) (d : Dep), (recOf s c).deps.find? (fun d => d.src = src.toNat) = some d →
    let end_ := d.from_.toNat + 1000 * csrField s 0x07C0008 47 24
    (s.ledger.toNat < end_ → Completes (.commitWaitExpiry c src) s fun u => u = s) ∧
    (end_ ≤ s.ledger.toNat → d.gapSent = false → Completes (.commitWaitExpiry c src) s fun u =>
      { d with gapSent := true, from_ := s.ledger } ∈ (recOf u c).deps ∧ (recOf u c).undo = (recOf s c).undo ∧
      (recOf u c).triggers = (recOf s c).triggers) ∧
    (end_ ≤ s.ledger.toNat → d.gapSent = true → after32 d.pendLo d.pendHi = false → Completes (.commitWaitExpiry c src) s fun u =>
      d ∉ (recOf u c).deps ∧ (recOf u c).triggers = (recOf s c).triggers ++ [d.rxEpoch + 1] ∧
      ∀ x ∈ (recOf u c).undo, ¬(x.src = src.toNat ∧ after32 d.pendLo x.epoch = false))) ∧
  ((∀ (s : State) (c : CtxIx) (src : BitVec 15) (h : Home), (recOf s c).homes.find? (fun h => h.src = src.toNat && h.wacks ≠ []) = some h →
    homeAt s c h.src h.job = h → Completes (.wackSend c src) s fun u =>
      (homeAt u c h.src h.job).wacks = h.wacks.drop 48 ∧ (homeAt u c h.src h.job).since = s.ledger) ∧
  (∀ (s : State) (i c : Nat) (h : Held), rxEntry s i = some h → toGate s h.bytes = false →
    let src := flitSrc h.bytes
    let job := flitJob h.bytes
    let sent (v : State) : List Sent := (flowOf v c src job).sent
    c ∈ senderCtxs s src job →
    (flitType h.bytes = 5 → Completes (.wack i) s fun u =>
      (∀ x ∈ sent u, ∀ e ∈ wackEntries h.bytes, x.dseq ≠ e.1) ∧
      ∀ x e, (sent s).find? (fun y => y.dseq = x.dseq) = some x → (wackEntries h.bytes).find? (fun y => y.1 = x.dseq) = some e →
        (∀ id ∈ x.ids, OnTheWay u .yardmaster (.stall x.pos) (.ack id (decide (e.2 ≠ 0)) false)) ∧
        (e.2 ≠ 0 → c < 64 → 0 ∈ (recOf u c).triggers)) ∧
    (flitType h.bytes = 7 → Completes (.gap i) s fun u => sent u = [] ∧ (c < 64 → 0 ∈ (recOf u c).triggers) ∧
      ∀ x, (sent s).find? (fun y => y.dseq = x.dseq) = some x → ∀ id ∈ x.ids, OnTheWay u .yardmaster (.stall x.pos) (.ack id true false))) ∧
  ∀ (s : State) (c : CtxIx) (dst : BitVec 15) (f : Flow), f ∈ (recOf s c).flows → f.dst = dst.toNat → flowOf s c f.dst f.job = f →
    let late (x : Sent) : Prop := x.at_.toNat + 1000 * csrField s 0x07C0008 23 0 ≤ s.ledger.toNat
    Completes (.wackWaitExpiry c dst) s fun u =>
      (∀ x ∈ (flowOf u c f.dst f.job).sent, ¬late x) ∧
      ∀ x, f.sent.find? (fun y => y.dseq = x.dseq) = some x → late x →
        (∀ id ∈ x.ids, OnTheWay u .yardmaster (.stall x.pos) (.ack id true false)) ∧ 0 ∈ (recOf u c).triggers)

/-- The packets of a ring in order (R369, R371, R376, R387). NOP completes; a malformed packet is rejected by any row; LOAD
gives a free slot its JOB, PRIORITY, VF and staging window, and is rejected for a reason of R371 where it may not; SUPPLY is accepted
with VALID := 0 for its INPUT handle, and its next row, which ends it (log 115), gives the handle its record, VALID unless a line was
poisoned or one of a key handle's two copies was not written (R243), POISON only as before (R218); RETIRE makes it not VALID; both
are rejected where the context is not RESIDENT or the handle is no INPUT handle. -/
def Obligations.RingCommandsComplete : Prop :=
  (∀ (s : State) (c : CtxIx) (k : Packet), AtHead s c k →
    (pkOp k = 9 → Completes (.nop c) s fun u => Finished u c k 0 0 0) ∧
    (pkOp k = 1 →
      let job := fieldAt k.data 0x10 4
      let n := fieldAt k.data 0x18 8
      let inUse := job = 0 ∨ ∃ e ∈ s.ctxs, e.1 ≠ c.val ∧ e.2.st = .resident ∧ e.2.job.toNat = job
      ((ctx s c).st ≠ .free → Completes (.load c) s fun u => Finished u c k 2 2 0) ∧
      ((ctx s c).st = .free → n < 64 ∨ 150994944 < n → Completes (.load c) s fun u => Finished u c k 2 1 0) ∧
      ((ctx s c).st = .free → 64 ≤ n → n ≤ 150994944 →
        (inUse → Completes (.load c) s fun u => Finished u c k 2 3 0) ∧
        (¬inUse → pkMark k = 9 → Completes (.load c) s fun u => Finished u c k 2 9 0) ∧
        (¬inUse → pkMark k ≠ 9 → stagingRoom s (stagingBytes n) = none ∨ 8192 ≤ placesUsed s → Completes (.load c) s fun u =>
          Finished u c k 2 4 0) ∧
        (∀ a, ¬inUse → pkMark k ≠ 9 → stagingRoom s (stagingBytes n) = some a → placesUsed s < 8192 → Completes (.load c) s fun u =>
          Finished u c k 0 0 0 ∧ (ctx u c).st = .staged ∧ (ctx u c).job.toNat = job ∧
          (ctx u c).prio.toNat = fieldAt k.data 0x14 1 ∧ (ctx u c).vf = BitVec.ofNat 6 (fieldAt k.data 0x15 1) ∧
          (ctx u c).imgBytes = n ∧ (ctx u c).staging = some a))) ∧
    (pkOp k = 4 →
      let h := fieldAt k.data 0x10 2
      let slot := fieldAt k.data 0x14 4
      let r : W128 := BitVec.ofNat 128 (fieldAt k.data 0x20 16)
      ((ctx s c).st ≠ .resident → Completes (.supply c) s fun u => Finished u c k 2 2 0) ∧
      ((ctx s c).st = .resident → inputHandle (imageOf s c) h = none → Completes (.supply c) s fun u => Finished u c k 2 6 0) ∧
      (∀ d, (ctx s c).st = .resident → inputHandle (imageOf s c) h = some d →
        ((∃ l, l < d.lines ∧ exportWindow s c (slot + l) = none) → Completes (.supply c) s fun u => Finished u c k 2 7 0) ∧
        ((∀ l, l < d.lines → (exportWindow s c (slot + l)).isSome = true) →
          ((∃ x ∈ (imageOf s c).keys, x.handle = h ∧ x.tag.toNat ≠ recTag r) → Completes (.supply c) s fun u => Finished u c k 2 8 0) ∧
          ((∀ x ∈ (imageOf s c).keys, x.handle = h → x.tag.toNat = recTag r) → Completes (.supply c) s fun u =>
            (∃ e, (ctx u c).cur = some e ∧ e.packet = k ∧ e.teams = false) ∧ (ctx u c).taken = (ctx s c).taken ∧
            nget {} (ctx u c).handles h = { nget {} (ctx s c).handles h with valid := false } ∧
            ∀ j, j ≠ h → nget {} (ctx u c).handles j = nget {} (ctx s c).handles j)))) ∧
    (pkOp k = 5 →
      ((ctx s c).st ≠ .resident → Completes (.retire c) s fun u => Finished u c k 2 2 0) ∧
      ((ctx s c).st = .resident → (inputHandle (imageOf s c) (fieldAt k.data 0x10 2)).isSome = true → Completes (.retire c) s fun u =>
        Finished u c k 0 0 0 ∧ (nget {} (ctx u c).handles (fieldAt k.data 0x10 2)).valid = false ∧
        ∀ j, j ≠ fieldAt k.data 0x10 2 → nget {} (ctx u c).handles j = nget {} (ctx s c).handles j) ∧
      ((ctx s c).st = .resident → inputHandle (imageOf s c) (fieldAt k.data 0x10 2) = none → Completes (.retire c) s fun u =>
        Finished u c k 2 6 0))) ∧
  (∀ (s : State) (c : CtxIx) (k : Packet), (ctx s c).taken = [k] → (ctx s c).cur = none → packetOk k = false → holding s c = false →
    ∀ i ∈ [Instr.load c, .install c, .start c, .supply c, .retire c, .unload c, .nop c], Completes i s fun u => Finished u c k 2 1 0) ∧
  ∀ (s : State) (c : CtxIx) (e : Exec) (d : HDecl), (ctx s c).cur = some e → pkOp e.packet = 4 →
    let h := fieldAt e.packet.data 0x10 2
    let slots := (List.range d.lines).map (fieldAt e.packet.data 0x14 4 + ·)
    inputHandle (imageOf s c) h = some d →
    let old := nget {} (ctx s c).handles h
    let bad := slots.any (windowPoison (cacheSlots s c slots) c)
    let whole := !bad && (d.kind ≠ 2 || (base1Of (imageOf s c) h).isSome)
    Completes (.supply c) s fun u => Finished u c e.packet (if bad = true then 5 else 0) 0 0 ∧
      (nget {} (ctx u c).handles h).record = BitVec.ofNat 128 (fieldAt e.packet.data 0x20 16) ∧
      (nget {} (ctx u c).handles h).valid = whole ∧ (nget {} (ctx u c).handles h).poison = (old.poison && !whole) ∧
      ∀ j, j ≠ h → nget {} (ctx u c).handles j = nget {} (ctx s c).handles j

/-- INSTALL and UNLOAD (R377, R385, R429). An image that the loader rejects, or a package that cannot be opened, leaves the context
STAGED, with LOADER_ERR; one that passes is installed, and the context is RESIDENT once its regions are LIVE. UNLOAD clears the
context's image and Loft lines and scrubs its regions; with none left the slot is FREE and the key slot erased. START and ABORT
(R380, R384). START of an entry starts the Teams that it names on every stall of its role, IDLE or FINISHED ones only, with its
time base; it completes when they have finished and the last epoch has committed, or once drained after a fault or an abort. ABORT
marks a START in execution and begins its abort; with none it completes at once, and else it completes after that START; a SUPPLY in
execution completes with DATA_FAILED, and its handle's entry stands as its acceptance left it. A command
that the context's state does not allow is rejected. That a command whose event cannot happen changes nothing is the model's
choice (log 9). -/
def Obligations.ImagesInstallStartAndUnload : Prop :=
  ((∀ (s : State) (c : CtxIx) (k : Packet), AtHead s c k → pkOp k = 2 →
    let s1 := cacheSlots s c (List.range (ceilDiv (ctx s c).imgBytes 72))
    let b := stagedBytes s1 c
    let opened := if fieldAt k.data 0x10 1 = 1
      then (openPackage s1 1 b b.length).map fun img => (img, trCount (putStaged s1 c img) 1) else some (b, s1)
    let refused (u : State) (sub ix : Nat) : Prop := Finished u c k 1 0x0101 ((sub + ix % 2 ^ 24 * 256) % 2 ^ 32) ∧ (ctx u c).st = .staged ∧
      csrBit u 0x6410 63 = true ∧ (csrBit s 0x6410 63 = false → csrField u 0x6410 55 48 = sub % 256)
    ((ctx s c).st ≠ .staged → Completes (.install c) s fun u => Finished u c k 2 2 0) ∧
    ((ctx s c).st = .staged →
      (opened = none → Completes (.install c) s fun u => refused u 3 0) ∧
      ∀ img sv, opened = some (img, sv) →
        (∀ sub sec ix, loaderVerdict ⟨img, parseImage img, c, sv⟩ = some (sub, sec, ix) → Completes (.install c) s fun u => refused u sub ix) ∧
        (loaderVerdict ⟨img, parseImage img, c, sv⟩ = none → Completes (.install c) s fun u =>
          (ctx u c).image = some (parseImage img) ∧ (ctx u c).handles = handleTable (parseImage img) ∧ (ctx u c).staging = none ∧
          ((∀ e ∈ u.hbm.regions, e.2.owner = c.val → e.2.st = .free ∨ e.2.st = .live) → (ctx u c).st = .resident ∧ Finished u c k 0 0 0) ∧
          ((∃ e ∈ u.hbm.regions, e.2.owner = c.val ∧ e.2.st = .init) → (ctx u c).st = .staged ∧ ∃ e, (ctx u c).cur = some e ∧ e.packet = k)))) ∧
  (∀ (s : State) (c : CtxIx) (e : Exec), (ctx s c).cur = some e →
    (pkOp e.packet = 2 →
      (regionsLive s c = true → Completes (.install c) s fun u => (ctx u c).st = .resident ∧ Finished u c e.packet 0 0 0) ∧
      (regionsLive s c = false → Completes (.install c) s fun u => u = s)) ∧
    (pkOp e.packet = 8 →
      ((∀ r ∈ s.hbm.regions, r.2.owner = c.val → r.2.st = .free) → Completes (.unload c) s fun u => (ctx u c).st = .free ∧
        nget none u.hbm.keys c = none ∧ Finished u c e.packet 0 0 0) ∧
      ((∃ r ∈ s.hbm.regions, r.2.owner = c.val ∧ r.2.st ≠ .free) → Completes (.unload c) s fun u => u = s))) ∧
  ∀ (s : State) (c : CtxIx) (k : Packet), AtHead s c k → pkOp k = 8 →
    let may := (ctx s c).st = .staged ∨ (ctx s c).st = .resident ∨ (ctx s c).st = .stopped
    (¬may → Completes (.unload c) s fun u => Finished u c k 2 2 0) ∧
    (may → Completes (.unload c) s fun u => (ctx u c).image = none ∧ (∀ p l, loftRead u p l c = none) ∧
      (∀ e ∈ u.hbm.regions, e.2.owner = c.val → e.2.st ≠ .live ∧ e.2.st ≠ .init) ∧
      ((∀ e ∈ u.hbm.regions, e.2.owner = c.val → e.2.st = .free) → (ctx u c).st = .free ∧ nget none u.hbm.keys c = none ∧ Finished u c k 0 0 0) ∧
      ((∃ e ∈ u.hbm.regions, e.2.owner = c.val ∧ e.2.st = .scrub) → (ctx u c).st = .unloading))) ∧
  ((∀ (s : State) (c : CtxIx) (k : Packet), AtHead s c k → pkOp k = 3 →
    let n := fieldAt k.data 0x10 2
    let img := imageOf s c
    let tb : W64 := if fieldAt k.data 0x18 8 = 0 then s.ledger else BitVec.ofNat 64 (fieldAt k.data 0x18 8)
    ((ctx s c).st ≠ .resident → Completes (.start c) s fun u => Finished u c k 2 2 0) ∧
    ((ctx s c).st = .resident → (∀ e ∈ img.entries, e.1 ≠ n) → Completes (.start c) s fun u => Finished u c k 2 5 0) ∧
    (∀ e ∈ img.entries, (ctx s c).st = .resident → e.1 = n → Completes (.start c) s fun u =>
      (∃ x, (ctx u c).cur = some x ∧ x.packet = k ∧ x.teams = true) ∧
      ∀ l ∈ lidsOf img e.2.1, (∀ f ∈ img.entries, f.1 = n → l ∈ lidsOf img f.2.1 → f = e) → ∀ t : Fin 4,
        (runningNo s ≠ c.val → getTeam (nget {} (ctx u c).save l) t =
          started tb (e.2.2.getD t 0xFFFFFFFF) (getTeam (nget {} (ctx s c).save l) t)) ∧
        (∀ q, runningNo s = c.val → posOfLid s l = some q → getTeam (stall u q).live t =
          started tb (e.2.2.getD t 0xFFFFFFFF) (getTeam (stall s q).live t)))) ∧
  (∀ (s : State) (c : CtxIx),
    ((ctx s c).cur = none → Completes (.startComplete c) s fun u => u = s) ∧
    ∀ e : Exec, (ctx s c).cur = some e →
    let ended := (ctx s c).drained = true ∧ (ctx s c).aborting = false
    (e.teams = false → Completes (.startComplete c) s fun u => u = s) ∧
    (e.teams = true →
      (e.abort = false → e.fault = none → teamsOver s c = true → enginesIdle s c = true → writeBacksOpen s c = false →
        (recOf s c).triggers = [] → (recOf s c).opened = none → (recOf s c).closed = none → Completes (.startComplete c) s fun u =>
        Finished u c e.packet 0 0 (min (e.first.getD 0) (2 ^ 32 - 1))) ∧
      (e.abort = false → e.fault = none → teamsOver s c = false → Completes (.startComplete c) s fun u => u = s) ∧
      (e.abort = true → ¬ended → Completes (.startComplete c) s fun u => u = s) ∧
      (e.abort = true → e.abortBy = none → ended → Completes (.startComplete c) s fun u => Finished u c e.packet 3 0 0) ∧
      (∀ k, e.abort = true → e.abortBy = some k → ended → Completes (.startComplete c) s fun u => Finished u c k 0 0 0 ∧
        ((ctx s c).taken.length ≤ 62 → ∃ r, (e.packet.seq, r) ∈ (ctx u c).done ∧ fieldAt r 5 1 = 3)) ∧
      (∀ code lid team, e.abort = false → e.fault = some (code, lid, team) →
        (ended → rollbackAllowed s c = false → Completes (.startComplete c) s fun u =>
          Finished u c e.packet 1 (code % 2 ^ 16) ((lid + 1024 * team) % 2 ^ 32)) ∧
        (¬ended ∨ rollbackAllowed s c = true → Completes (.startComplete c) s fun u => u = s)))) ∧
  (∀ (s : State) (c : CtxIx), holding s c = false → (∀ k ∈ (ctx s c).taken, pkOp k ≠ 7) → Completes (.abort c) s fun u => u = s) ∧
  ∀ (s : State) (c : CtxIx) (k : Packet), holding s c = false → (ctx s c).taken.find? (fun k => pkOp k = 7) = some k → packetOk k = true →
    ((ctx s c).cur = none → Completes (.abort c) s fun u => Finished u c k 0 0 0) ∧
    (∀ e, (ctx s c).cur = some e →
      (pkOp e.packet ≠ 4 → e.teams = true → e.abort = false → Completes (.abort c) s fun u =>
        (ctx u c).cur = some { e with abort := true, abortBy := some k } ∧ (ctx u c).aborting = true) ∧
      (pkOp e.packet = 4 → Completes (.abort c) s fun u => Finished u c k 0 0 0 ∧ (ctx u c).handles = (ctx s c).handles ∧
        ((ctx s c).taken.length ≤ 62 → ∃ r, (e.packet.seq, r) ∈ (ctx u c).done ∧ fieldAt r 5 1 = 5)) ∧
      (pkOp e.packet ≠ 4 → e.teams = false ∨ e.abort = true → Completes (.abort c) s fun u => u = s)))

/-- XFER_IN (R386): a member completes the packet with what the Gatehouse found; device memory is no target off the bridge. A
bridge begins a transfer to a window in its turn, as an epoch of its own. The way of a packet (R363, R366 to R370, R373,
R374). BAR2 takes accesses in bridge mode while the link is up, writes for entries of the barn that are VALID; that of a VF is the
ring bound to it, and reads 0 where none is. A write that lies in one slot is stored there, and where it covers bytes 0 to 7 the
slot's packet arrives: one in its turn is taken, one ahead is held, one too early or too far ahead is counted and changes no ring;
one for another member leaves as a flit, and an XFER_IN waits for its turn. A flit that is not from the bridge is discarded; one
that is reaches one ring, which the flit does not name (log 25). A completion's record goes to its queue. Writes to the Gatehouse
(R388): lines of a WRITE inside the buffer go there, an ATOMIC is rejected, COMMIT and REVOKE leave a record each. That a command whose event cannot happen changes
nothing is the model's choice (log 9). -/
def Obligations.HostPacketsReachRings : Prop :=
  ((∀ (s : State) (c : CtxIx) (k : Packet), AtHead s c k → pkOp k = 6 → s.gate.bridge = false →
    let mode := fieldAt k.data 0x1C 1
    (pkMark k = 3 → Completes (.xferIn c) s fun u => Finished u c k 3 0 0) ∧
    (pkMark k ≠ 3 → (ctx s c).st ≠ .resident → (ctx s c).st ≠ .staged → Completes (.xferIn c) s fun u => Finished u c k 2 2 0) ∧
    ((ctx s c).st = .resident → mode = 1 → pkMark k ≠ 3 → Completes (.xferIn c) s fun u => Finished u c k 2 0x0A 0) ∧
    ((ctx s c).st = .resident ∨ (ctx s c).st = .staged → mode = 0 →
      (pkMark k = 2 → Completes (.xferIn c) s fun u => Finished u c k 2 7 0) ∧
      (pkMark k = 5 → Completes (.xferIn c) s fun u => Finished u c k 5 0 0) ∧
      (pkMark k = 0 → Completes (.xferIn c) s fun u => Finished u c k 0 0 0))) ∧
  ∀ (s : State) (c : CtxIx) (x : Xfer), s.gate.bridge = true → s.gate.xfers.find? (fun x => x.ring % 64 = c.val && xferTurn s x) = some x →
    x.begun = false → fieldAt x.packet.data 0x1C 1 = 0 → nget 0 s.gate.jobs x.ring ≠ 0 → (∀ y ∈ s.gate.xfers, y.begun = false) →
    Completes (.xferIn c) s fun u => u.gate.epoch = s.gate.epoch + 1 ∧
      ∃ y ∈ u.gate.xfers, y.ring = x.ring ∧ y.packet = x.packet ∧ y.begun = true) ∧
  (∀ (s : State) (fn : Fin 64) (off : Nat),
    (s.gate.bridge = false ∨ s.gate.linkUp = false → ∀ a, Completes (.intakePacket fn off a) s fun u => u = s) ∧
    (s.gate.bridge = true → s.gate.linkUp = true →
      (bar2Base s fn = none → (∀ len, Completes (.intakePacket fn off (.read len)) s fun u =>
          u = { s with bus := List.replicate len 0, busEp := false }) ∧
        ∀ data, Completes (.intakePacket fn off (.write data)) s fun u => u = s) ∧
      ∀ b, bar2Base s fn = some b →
        (∀ len, Completes (.intakePacket fn off (.read len)) s fun u => u = { s with bus := u.bus, busEp := false } ∧
          u.bus = (List.range len).map fun i => (ringSlot s ((b + off + i) / 256)).getD ((b + off + i) % 256) 0) ∧
        ∀ (m : Fin 16) (c : CtxIx) (slot : Fin 64) (o : Fin 256) (data : List Byte),
          b + off = m.val * 0x100000 + c.val * 0x4000 + slot.val * 0x100 + o.val → data ≠ [] → o.val + data.length ≤ 256 →
          let row := 0x0800200 + 4 * m.val
          let n := m.val * 4096 + c.val * 64 + slot.val
          let ring := m.val * 64 + c.val
          let bytes := putBytes (ringSlot s n) o data
          let k0 := packetOf bytes
          let k1 := if pkMark k0 = 0 then k0 else marked k0 0xFF
          let k := if pkOp k1 = 1 ∧ vfFree s ring (fieldAt k1.data 0x15 1) = false ∧ pkMark k1 = 0 then marked k1 9 else k1
          let waits := pkOp k = 6 ∧ packetOk k = true ∧ after32 (nget 0 s.gate.doneSeq ring) k.seq.toNat = false
          let plain := ¬waits ∧ (pkOp k = 7 → ∀ x ∈ s.gate.xfers, x.ring ≠ ring)
          let wr : Instr := .intakePacket fn off (.write data)
          (csrBit s row 31 = false → Completes wr s fun u => u = { s with csr := u.csr } ∧ csrGet u 0x0800100 = csrGet s 0x0800100 + 1) ∧
          (csrBit s row 31 = true → 0 < o.val ∨ data.length < 8 → Completes wr s fun u =>
            u = { s with gate := { s.gate with slots := nset [] s.gate.slots n bytes } }) ∧
          (csrBit s row 31 = true → o.val = 0 → 8 ≤ data.length →
            (waits → Completes wr s fun u => u.ctxs = s.ctxs ∧ ringSlot u n = bytes ∧
              u.gate.xfers = if s.gate.xfers.any (fun x => x.ring = ring && x.packet.seq = k.seq) = true then s.gate.xfers
                else s.gate.xfers ++ [{ ring := ring, packet := k }]) ∧
            (plain → csrField s row 14 0 = deviceId s → replaying s c = false →
              (k.seq = (ctx s c).nextTake → s.rst.phase = .running → (ctx s c).held = [] →
                Completes wr s fun u => ringSlot u n = bytes ∧
                (ctx u c).taken = (ctx s c).taken ++ [k] ∧ (ctx u c).nextTake = k.seq + 1 ∧ ∀ d, d ≠ c.val → ctx u d = ctx s d) ∧
              (after32 (ctx s c).nextTake.toNat k.seq.toNat = false → (k.seq - (ctx s c).nextDone).toNat < 64 →
                k.seq ≠ (ctx s c).nextTake ∨ s.rst.phase ≠ .running → Completes wr s fun u => (ctx u c).taken = (ctx s c).taken ∧
                (ctx u c).held = ((ctx s c).held.filter fun h => h.seq ≠ k.seq) ++ [k]) ∧
              (after32 (ctx s c).nextTake.toNat k.seq.toNat = true → Completes wr s fun u =>
                u.ctxs = s.ctxs ∧ csrGet u 0x6480 = csrGet s 0x6480 + 1) ∧
              (after32 (ctx s c).nextTake.toNat k.seq.toNat = false → k.seq ≠ (ctx s c).nextTake → 64 ≤ (k.seq - (ctx s c).nextDone).toNat → Completes wr s fun u =>
                u.ctxs = s.ctxs ∧ csrGet u 0x6488 = csrGet s 0x6488 + 1)) ∧
            (plain → csrField s row 14 0 ≠ deviceId s → Completes wr s fun u =>
              u.ctxs = s.ctxs ∧ csrGet u 0x0800108 = csrGet s 0x0800108 + 1)))) ∧
  (∀ (s : State) (i : Nat) (h : Held), rxEntry s i = some h → flitType h.bytes = 8 → h.port < 48 →
    let r := ((flitPacket h.bytes).drop 16).take 32
    let c := fieldAt r 0x1E 1
    let k := packetOf (flitPacket h.bytes)
    (toGate s h.bytes = false → flitSrc h.bytes ≠ csrField s 0x6418 14 0 → Completes (.commandFlit i) s fun u =>
      u.ctxs = s.ctxs ∧ u.rhoa.rx = s.rhoa.rx.eraseIdx i ∧ csrGet u 0x6490 = csrGet s 0x6490 + 1) ∧
    (toGate s h.bytes = false → flitSrc h.bytes = csrField s 0x6418 14 0 → Completes (.commandFlit i) s fun u =>
      ∃ c, c < 64 ∧ (∀ d, d ≠ c → ctx u d = ctx s d) ∧
        (replaying s c = false → k.seq = (ctx s c).nextTake → s.rst.phase = .running →
          (ctx s c).held = [] → (ctx u c).taken = (ctx s c).taken ++ [k] ∧ (ctx u c).nextTake = k.seq + 1)) ∧
    (∀ m, toGate s h.bytes = true → fieldAt (flitPacket h.bytes) 4 1 = 0x80 → barnIndex s (flitSrc h.bytes) = some m → r.length = 32 →
      c < 64 → Completes (.completion i) s fun u =>
      let y := if fieldAt r 4 1 = 2 then 1024 + m else m * 64 + c
      let q := csrGet s (0x0810000 + 16 * y)
      let n := nget 0 s.gate.recNo y
      let entries := 64 * 2 ^ min (bitsOf q.toNat 11 8) 9
      csrGet u 0x0800110 = csrGet s 0x0800110 + 1 ∧
      (q.getLsbD 0 = false → u.hostMem = s.hostMem) ∧
      (q.getLsbD 0 = true → nget 0 u.gate.recNo y = n + 1 ∧
        memRead u.hostMem (bitsOf q.toNat 63 12 * 4096 + 32 * (n % entries)) 31 = r.take 31 ∧
        nget 0 u.hostMem (bitsOf q.toNat 63 12 * 4096 + 32 * (n % entries) + 31) = if n / entries % 2 = 0 then 1 else 0))) ∧
  ∀ (s : State) (i : Nat) (h : Held), rxEntry s i = some h → toGate s h.bytes = true →
    let b := h.bytes
    let src := flitSrc b
    let job := flitJob b
    let f := homeOf s.gate.homes src job
    let next (u : State) : Prop := (homeOf u.gate.homes src job).expect = (f.expect + 1) % 2 ^ 16
    -- the record of an OUT_ event, as the queue of its ring receives it
    let recorded (u : State) (ring kind : Nat) : Prop := ∀ m c, ring = m * 64 + c → c < 64 → m < 16 →
      let q := csrGet s (0x0810000 + 16 * ring)
      let n := nget 0 s.gate.recNo ring
      let entries := 64 * 2 ^ min (bitsOf q.toNat 11 8) 9
      let at_ := bitsOf q.toNat 63 12 * 4096 + 32 * (n % entries)
      q.getLsbD 0 = true → nget 0 u.gate.recNo ring = n + 1 ∧ nget 0 u.hostMem (at_ + 4) = BitVec.ofNat 8 kind ∧
        memRead u.hostMem (at_ + 24) 4 = leBytes 4 (fieldAt b 20 4)
    (flitType b ∈ [2, 3, 4, 6] → ringOfJob s src job = none → Completes (.outboundWrite i) s fun u =>
      u.hostMem = s.hostMem ∧ u.gate.homes = s.gate.homes) ∧
    (flitType b ∈ [2, 3, 4] → (ringOfJob s src job).isSome = true → flitDseq b ≠ f.expect → Completes (.outboundWrite i) s fun u =>
      u.hostMem = s.hostMem ∧ (homeOf u.gate.homes src job).expect = f.expect) ∧
    (∀ ring, ringOfJob s src job = some ring → flitDseq b = f.expect →
      let lg := min (csrField s (0x0810008 + 16 * ring) 4 0) 21
      (flitType b = 2 → lg ≠ 0 → (∀ y ∈ flitLines b, y.1 < 2 ^ lg) → Completes (.outboundWrite i) s fun u => next u ∧ ∀ y ∈ flitLines b,
          memRead u.hostMem (csrField s (0x0810008 + 16 * ring) 63 12 * 4096 + 72 * y.1) 72 = lineBytes y.2.1) ∧
      (flitType b = 2 → lg = 0 ∨ (∃ y ∈ flitLines b, 2 ^ lg ≤ y.1) → Completes (.outboundWrite i) s fun u =>
        next u ∧ u.hostMem = s.hostMem) ∧
      (flitType b = 3 → Completes (.outboundWrite i) s fun u => next u ∧ u.hostMem = s.hostMem) ∧
      (flitType b = 4 → Completes (.outboundWrite i) s fun u => next u ∧ recorded u ring 3)) ∧
    (∀ ring, ringOfJob s src job = some ring → flitType b = 6 → Completes (.outboundWrite i) s fun u =>
      (homeOf u.gate.homes src job).expect = fieldAt b 24 2 ∧ recorded u ring 4)

/-- Writes of registers (R8, R10, R363, R364, R430, R443). A VF reaches none, and its access is an Unsupported Request; the PF needs
bridge mode and the link, and reaches stall p at 0x1000000 + p x 0x8000 of BAR0; the Ostler needs its firmware; an access that is not naturally aligned and of 4 or 8 bytes has no effect. An RW field takes the value written and an
RO field does not; a first-event register whose VALID is cleared clears MORE and keeps the rest. A write through the debug port
sets OBSERVED. Reads that clear (R8): STALL_PWR, PREEMPT_MAX, RAIL_STATUS, CLK_STATUS and MG_POWER return what they hold, and
their RC fields start anew; a write of MG_ALERT clears the classes written with 1 (R479). That a command whose event cannot
happen changes nothing is the model's choice (log 9). -/
def Obligations.RegistersReadAndWrite : Prop :=
  (∀ (s : State) (off width : Nat) (v : W64),
    (∀ n, s.gate.linkUp = false ∨ s.gate.bridge = false → Completes (.registerWrite (.vf n) off width v) s fun u => u = s) ∧
    (∀ n, s.gate.linkUp = true → s.gate.bridge = true → Completes (.registerWrite (.vf n) off width v) s fun u =>
      u = { s with gate := { s.gate with aer := u.gate.aer } } ∧ (n.val, .unsupportedRequest) ∈ u.gate.aer ∧ ∀ e ∈ s.gate.aer, e ∈ u.gate.aer) ∧
    (s.gate.bridge = true → s.gate.linkUp = true →
      (∀ p o, p < 832 → o < 0x8000 → ∃ t, exec (.registerWrite .pf (0x1000000 + p * 0x8000 + o) width v) s = .next t ∧
        t = csrWrite s (0x10000000 + p * 0x10000 + o) width v.toNat) ∧
      (0x1000000 + 832 * 0x8000 ≤ off → Completes (.registerWrite .pf off width v) s fun u => u = s)) ∧
    (s.gate.bridge = false ∨ s.gate.linkUp = false → Completes (.registerWrite .pf off width v) s fun u => u = s) ∧
    (s.ostler.up = false → Completes (.registerWrite .ostler off width v) s fun u => u = s) ∧
    (csrAligned off width = false → Completes (.registerWrite .ostler off width v) s fun u => u = s) ∧
    (∀ who, (who = .ostler ∧ s.ostler.up = true) ∨ (who = .pf ∧ s.gate.bridge = true ∧ s.gate.linkUp = true) →
      (Completes (.registerWrite who 0x6400 4 v) s fun u => csrField u 0x6400 19 0 = bitsOf v.toNat 19 0 ∧
        csrField u 0x6400 63 20 = csrField s 0x6400 63 20 ∧ u = { s with csr := u.csr } ∧ ∀ o, o ≠ 0x6400 → csrGet u o = csrGet s o) ∧
      (Completes (.registerWrite who 0x5100 8 v) s fun u => u = { s with csr := u.csr } ∧ ∀ o, csrGet u o = csrGet s o) ∧
      (Completes (.registerWrite who 0x4300 8 v) s fun u => u = { s with csr := u.csr } ∧
        (v.getLsbD 63 = true → csrBit u 0x4300 63 = false ∧ csrBit u 0x4300 62 = false) ∧
        (v.getLsbD 63 = false → csrGet u 0x4300 = csrGet s 0x4300) ∧ csrField u 0x4300 61 0 = csrField s 0x4300 61 0)) ∧
    (Completes (.registerWrite .debugPort 0x6400 4 v) s fun u => csrField u 0x6400 19 0 = bitsOf v.toNat 19 0 ∧ u.tack.observed = true)) ∧
  (∀ s : State,
    (∀ p, p < 832 → Completes (.stallPwrRead p) s fun u =>
      leNat u.bus = csrField s (stallCsr p 0x300) 31 20 * 2 ^ 20 + vmaxOf s p % 1024 * 2 ^ 10 + csrField s (stallCsr p 0x300) 9 0 ∧
      csrField u (stallCsr p 0x300) 31 20 = 0 ∧ csrField u (stallCsr p 0x300) 9 0 = csrField s (stallCsr p 0x300) 9 0) ∧
    (Completes .preemptMaxRead s fun u => leNat u.bus = s.ym.preOver.toNat * 2 ^ 32 + s.ym.preMax.toNat ∧
      u.ym = { s.ym with preMax := 0, preOver := 0 } ∧ u.csr = s.csr) ∧
    (Completes .railStatusRead s fun u => leNat u.bus = csrField s 0x0C00000 31 0 ∧ csrField u 0x0C00000 23 12 = 0xFFF ∧
      csrField u 0x0C00000 11 0 = csrField s 0x0C00000 11 0 ∧ csrField u 0x0C00000 31 24 = csrField s 0x0C00000 31 24) ∧
    (Completes .clkStatusRead s fun u => leNat u.bus = csrField s 0x0100020 31 0 ∧ csrField u 0x0100020 31 16 = 0 ∧
      csrField u 0x0100020 15 0 = csrField s 0x0100020 15 0) ∧
    (Completes .mgPowerRead s fun u => leNat u.bus = (csrGet s 0x0B00020).toNat ∧ csrField u 0x0B00020 31 0 = 0 ∧
      csrField u 0x0B00020 63 32 = csrField s 0x0B00020 63 32) ∧
    ∀ v : W32, Completes (.alertClear v) s fun u =>
      (∀ i, 1 ≤ i → i ≤ 10 → csrBit u 0x0B00010 i = (csrBit s 0x0B00010 i && !v.getLsbD i)) ∧
      (booted s = true → (u.rst.faultN = true ↔ csrField u 0x0B00010 10 1 = 0)) ∧ ∀ o, o ≠ 0x0B00010 → csrGet u o = csrGet s o)

/-- The aperture and the PCI Express link (R362, R365). An access that does not lie in a LIVE retry region of the aperture's
context is counted and reads zeros marked poisoned; a write elsewhere changes exactly its bytes where no transfer
fails, and a read returns them, zeros
marked poisoned where a granule is. The link comes up on a bridge whose reset is released, and its loss ends the IDE stream.
That a command whose event cannot happen changes nothing is the model's choice (log 9). -/
def Obligations.HostAccessThroughAperture : Prop :=
  ∀ (s : State) (off len : Nat) (data : List Byte),
    let addr := csrField s 0x0800010 39 30 / 2 ^ s.gate.bar4 * 2 ^ (30 + s.gate.bar4) + off
    let byteOf (v : State) (a : Nat) : Byte := (granuleBytes v (a / 256)).getD (a % 256) 0
    let open_ (n : Nat) : Prop := s.gate.bridge = true ∧ s.gate.linkUp = true ∧ off + n ≤ 2 ^ (30 + s.gate.bar4)
    let lies (n : Nat) : Prop := addr + n ≤ 2 ^ 39 ∧ ∀ i, i < n → (apertureRegion s (addr + i)).isSome = true
    let sound (g : Nat) : Prop := ∃ r, apertureRegion s (g * 256) = some r ∧ (regionAt s r).rpoison = false ∧ gpoison s g = false ∧
      combinePoison s g = false
    (s.gate.bridge = false ∨ s.gate.linkUp = false → ∀ a err, Completes (.apertureAccess off a err) s fun u => u = s) ∧
    (open_ len → ¬lies len → ∀ err, Completes (.apertureAccess off (.read len) err) s fun u =>
      u.bus = List.replicate len 0 ∧ u.busEp = true ∧ u.hbm = s.hbm ∧ csrGet u 0x0800118 = csrGet s 0x0800118 + 1) ∧
    (open_ data.length → ¬lies data.length → ∀ err, Completes (.apertureAccess off (.write data) err) s fun u =>
      u.hbm = s.hbm ∧ csrGet u 0x0800118 = csrGet s 0x0800118 + 1) ∧
    (open_ data.length → lies data.length → ∀ errs, Completes (.apertureAccess off (.write data) errs) s fun u => ∀ a,
      (errs.at_ (a / 256)).exhausted = false ∨ (∀ i, i < data.length → (addr + i) / 256 ≠ a / 256) →
      byteOf u a = if addr ≤ a ∧ a < addr + data.length then data.getD (a - addr) 0 else byteOf s a) ∧
    (open_ len → lies len → (∀ i, i < len → sound ((addr + i) / 256)) → Completes (.apertureAccess off (.read len) []) s fun u =>
      u.bus = (List.range len).map (fun i => byteOf s (addr + i)) ∧ u.busEp = false ∧ u.hbm.mem = s.hbm.mem) ∧
    (open_ len → lies len → (∀ i, i < len → (apertureRegion s ((addr + i) / 256 * 256)).isSome = true) →
      (∃ i, i < len ∧ gpoison s ((addr + i) / 256) = true) → ∀ errs, Completes (.apertureAccess off (.read len) errs) s fun u =>
      u.bus = List.replicate len 0 ∧ u.busEp = true) ∧
    (∀ w sp n b, Completes (.pciExpressLinkUp w sp n b) s fun u => u = { s with gate := u.gate } ∧
      (s.gate.bridge = true → s.rst.phase ≠ .asserted → linkFits w.toNat sp.toNat n = true →
        u.gate = { s.gate with linkUp := true, width := w, speed := sp, numVfs := n, bar4 := b.val }) ∧
      (s.gate.bridge = false ∨ s.rst.phase = .asserted ∨ linkFits w.toNat sp.toNat n = false → u = s)) ∧
    Completes .pciExpressLinkDown s fun u => u = { s with gate := { s.gate with linkUp := false, width := 0, speed := 0, ide := false } }

/-- The Ledger and its sources (R357, R473, R474). Until the first lock a write of LEDGER_SET steps the Ledger, and so does an
offset above 1,000 ns; after it every offset is slewed out. TIME_PPS gives the nearest whole second less the Ledger, a beacon
the offset that its echo yields. 16 offsets in a row within 10 ns lock the Ledger, 4 above 40 ns or a source lost for 2 s clear
LOCKED. PTP (R475). A Sync of the chosen master is time-stamped; its origin, at once or by the Follow_Up, is a sample once the
path delay is known; Delay_Req and Delay_Resp measure that delay; an Announce of a better master changes the choice. That a
command whose event cannot happen changes nothing is the model's choice (log 9). -/
def Obligations.LedgerFollowsSources : Prop :=
  ((∀ (s : State) (v : W64), Completes (.ledgerSet v) s fun u =>
    u = { s with ledger := if csrBit s 0x0200008 62 = true then s.ledger else v }) ∧
  (∀ (s : State),
    let s1 := { s with disc := { s.disc with ppsAt := some s.ledger } }
    let th : Int := (((s.ledger.toNat + 500000000) / 1000000000 * 1000000000 : Nat) : Int) - (s.ledger.toNat : Int)
    (∀ t, s.disc.ppsAt = some t → s.ledger.toNat < t.toNat + 500000000 → Completes .timePps s fun u => u = s) ∧
    ((∀ t, s.disc.ppsAt = some t → t.toNat + 500000000 ≤ s.ledger.toNat) →
      (sourceNow s1 ≠ 3 → Completes .timePps s fun u => u = s1) ∧
      (sourceNow s1 = 3 → Completes .timePps s fun u =>
        csrField u 0x0200008 31 0 = sat32 th ∧ csrField u 0x0200008 61 60 = 3 ∧ u.disc.ppsAt = some s.ledger ∧
        (csrBit s 0x0200008 62 = true ∨ th.natAbs ≤ 1000 → u.ledger = s.ledger ∧ u.disc.slew = th) ∧
        (csrBit s 0x0200008 62 = false → 1000 < th.natAbs → u.ledger = s.ledger + BitVec.ofInt 64 th ∧ u.disc.slew = 0) ∧
        (th.natAbs ≤ 10 → 15 ≤ s.disc.good → csrField u 0x0200008 63 62 = 3) ∧
        (40 < th.natAbs → 3 ≤ s.disc.bad → csrBit u 0x0200008 63 = false)))) ∧
  (∀ (s : State) (i : Nat) (h : Held), rxEntry s i = some h → flitType h.bytes = 0xB →
    let tx := fieldAt h.bytes 16 8
    let bp := csrField s 0x07C0000 21 16
    Completes (.beacon i) s fun u => u.rhoa.rx = s.rhoa.rx.eraseIdx i ∧
      (port u h.port).beaconRx.toNat = tx ∧ (port u h.port).beaconAt = h.at_ ∧
      (h.port ≠ bp → u.ledger = s.ledger ∧ u.disc = s.disc) ∧
      (h.port = bp → bp < 48 → carries (port s bp).st = true → csrField u 0x0200008 31 0 =
        sat32 ((tx : Int) + (((h.at_.toNat : Int) - (fieldAt h.bytes 24 8 : Nat)) - ((tx : Int) - (fieldAt h.bytes 32 8 : Nat))) / 2 - (h.at_.toNat : Int)))) ∧
  ∀ s : State,
    (sourceNow s ≠ 0 ∨ s.ledger.toNat < s.disc.qualAt.toNat + 2000000000 → Completes .ledgerSourceTimeout s fun u => u = s) ∧
    (sourceNow s = 0 → s.disc.qualAt.toNat + 2000000000 ≤ s.ledger.toNat → Completes .ledgerSourceTimeout s fun u =>
      csrBit u 0x0200008 63 = false ∧ csrField u 0x0200008 61 60 = 0 ∧ csrBit u 0x0200008 62 = csrBit s 0x0200008 62 ∧
      u.disc.slew = 0 ∧ u.ledger = s.ledger)) ∧
  (∀ (s : State) (v m p : W64) (two : Bool),
    let on := csrBit s 0x0200010 31
    (on = false → ∀ i ∈ [Instr.ptpSync two v m, .ptpFollowUp v, .ptpDelayReq, .ptpAnnounce m p], Completes i s fun u => u = s) ∧
    (s.disc.master ≠ some m → Completes (.ptpSync two v m) s fun u => u = s) ∧
    (on = true → s.disc.master = some m → Completes (.ptpSync true v m) s fun u =>
      u = { s with disc := { s.disc with syncAt := some s.ledger, t2 := s.ledger, t1 := none } }) ∧
    (on = true → s.disc.master = some m → s.disc.delay = none → Completes (.ptpSync false v m) s fun u =>
      u = { s with disc := { s.disc with syncAt := some s.ledger, t2 := s.ledger, t1 := some v } }) ∧
    (∀ d, on = true → s.disc.master = some m → s.disc.delay = some d →
      sourceNow { s with disc := { s.disc with syncAt := some s.ledger, t2 := s.ledger, t1 := some v } } = 2 →
      Completes (.ptpSync false v m) s fun u => u.disc.syncAt = some s.ledger ∧ u.disc.t1 = some v ∧
      csrField u 0x0200008 31 0 = sat32 ((v.toNat : Int) + d - (s.ledger.toNat : Int)) ∧ csrField u 0x0200008 61 60 = 2) ∧
    (s.disc.syncAt = none ∨ s.disc.t1.isSome = true → Completes (.ptpFollowUp v) s fun u => u = s) ∧
    (on = true → s.disc.syncAt.isSome = true → s.disc.t1 = none → s.disc.delay = none → Completes (.ptpFollowUp v) s fun u =>
      u = { s with disc := { s.disc with t1 := some v } }) ∧
    (s.disc.master = none ∨ s.disc.t1 = none → Completes .ptpDelayReq s fun u => u = s) ∧
    (s.disc.t1 = none ∨ s.disc.t3 = none → Completes (.ptpDelayResp v) s fun u => u = s) ∧
    (on = true → s.disc.master = some m → Completes (.ptpAnnounce m p) s fun u => u = { s with disc := { s.disc with prio := p } }) ∧
    (∀ t d, on = true → s.disc.syncAt = some t → s.disc.t1 = none → s.disc.delay = some d → sourceNow s = 2 →
      Completes (.ptpFollowUp v) s fun u => u.disc.t1 = some v ∧
      csrField u 0x0200008 31 0 = sat32 ((v.toNat : Int) + d - (s.disc.t2.toNat : Int)) ∧ csrField u 0x0200008 61 60 = 2) ∧
    (on = true → s.disc.master.isSome = true → s.disc.t1.isSome = true → Completes .ptpDelayReq s fun u =>
      u.disc = { s.disc with t3 := some s.ledger } ∧ u.frames.length = s.frames.length + 1) ∧
    (∀ t1 t3, s.disc.t1 = some t1 → s.disc.t3 = some t3 → Completes (.ptpDelayResp v) s fun u =>
      u.disc.delay = some ((((s.disc.t2.toNat : Int) - (t1.toNat : Int)) + ((v.toNat : Int) - (t3.toNat : Int))) / 2) ∧
      u.disc.t3 = none ∧ u = { s with disc := u.disc }) ∧
    (on = true → s.disc.master = none → Completes (.ptpAnnounce m p) s fun u => u.disc.master = some m ∧ u.disc.prio = p) ∧
    (∀ k, on = true → s.disc.master = some k → k ≠ m → p.toNat < s.disc.prio.toNat → Completes (.ptpAnnounce m p) s fun u =>
      u.disc.master = some m ∧ u.disc.prio = p ∧ u.disc.delay = none) ∧
    (∀ k, on = true → s.disc.master = some k → k ≠ m → s.disc.prio.toNat < p.toNat → s.disc.syncAt = none → Completes (.ptpAnnounce m p) s fun u => u = s))

/-- The Daybook and its replay (R416 to R418): every 2^47 ns an EXTEND record with the whole Ledger takes the ring's next place;
setting EN starts a replay of the ring as it stands; a replay whose next event does not come within 10 ms sets DIVERGED. That a
command whose event cannot happen changes nothing is the model's choice (log 9). -/
def Obligations.DaybookRecordsAndReplays : Prop :=
  ∀ s : State,
    (booted s = false ∨ s.ledger.toNat < s.db.extend.toNat + 2 ^ 47 → Completes .daybookExtend s fun u => u = s) ∧
    (booted s = true → s.db.extend.toNat + 2 ^ 47 ≤ s.ledger.toNat → s.db.lost = 0 →
      (s.db.times.filter fun t => t.toNat / 1000 = s.ledger.toNat / 1000).length < 256 → Completes .daybookExtend s fun u =>
      let n := (csrGet s 0x0D00000).toNat
      csrGet u 0x0D00000 = csrGet s 0x0D00000 + 1 ∧ u.db.extend = s.ledger ∧
      fieldAt (dbRecord u n) 6 1 = 1 ∧ fieldAt (dbRecord u n) 7 1 = 0x40 ∧ fieldAt (dbRecord u n) 8 8 = s.ledger.toNat ∧
      ∀ a, (a < 0x6000000000 + 32 * (n % 33554432) ∨ 0x6000000000 + 32 * (n % 33554432) + 32 ≤ a) →
        nget 0 u.hbm.mem a = nget 0 s.hbm.mem a) ∧
    (∀ v : W64, csrBit s 0x0D00010 63 = true ∨ v.getLsbD 63 = false → Completes (.replayStart v) s fun u => u = s) ∧
    (∀ v : W64, csrBit s 0x0D00010 63 = false → v.getLsbD 63 = true → Completes (.replayStart v) s fun u =>
      csrBit u 0x0D00010 63 = true ∧ csrField u 0x0D00010 60 55 = bitsOf v.toNat 60 55 ∧ csrField u 0x0D00010 24 0 = bitsOf v.toNat 24 0 ∧
      u.db.holds = true ∧ u.db.stop = (csrGet s 0x0D00000).toNat) ∧
    (csrBit s 0x0D00010 63 = false ∨ s.db.holds = false → Completes .replayDiverge s fun u => u = s) ∧
    (csrBit s 0x0D00010 63 = true → s.db.holds = true →
      overdue s 2 s.db.cmdAt s.db.cmdTurn = true ∨ overdue s 3 s.db.linkAt s.db.linkTurn = true ∨ overdue s 5 s.db.ctAt s.db.ctTurn = true →
      Completes .replayDiverge s fun u => csrBit u 0x0D00010 61 = true ∧ u.db.holds = false)

/-- Release requests and the gate step (R438 to R442). The checks stand in the order of R439, each denial with its reason; a
request that passes all waits. GO while one is served is counted and ignored. The gate step records the release, uses up one of
the slot's budget and remembers its SERIAL; a fault of it fails the release and poisons OUT. It waits for a point of choice, and
is denied where the context has left since the checks (log 28).
Shares (R435 to R437). An install writes its RESULT; only an accepted one changes a slot: the policy, the budget, the share in
device memory, MR5 and TR_CNT[7]. A clear of a slot that no release uses makes it EMPTY, its share zeros, and extends MR5. That
a command whose event cannot happen changes nothing is the model's choice (log 9). -/
def Obligations.ReleaseGateChecksAndReleases : Prop :=
  ((∀ (s : State) (v : W64),
    let x := v.toNat
    let r : Release := { c := bitsOf x 61 56, slot := bitsOf x 55 54, ct := bitsOf x 53 42, as_ := bitsOf x 41 30, out := bitsOf x 29 18,
                         parties := bitsOf x 15 0 }
    let go := v.getLsbD 63 = true ∧ tackRuns s = true ∧ csrBit s rgReq 62 = false
    let ask := fun (P : State → Prop) => Completes (.releaseRequest v) s P
    (v.getLsbD 63 = false → ask fun u => u = s) ∧
    (v.getLsbD 63 = true → tackRuns s = true → csrBit s rgReq 62 = true → ask fun u => u.tack = s.tack ∧
      csrGet u 0x0901220 = csrGet s 0x0901220 + 1) ∧
    (go → s.tack.observed = true → ask fun u => Denied u 1) ∧
    (go → s.tack.observed = false → (gateSlot s r.slot).policy = none → ask fun u => Denied u 2) ∧
    ∀ p, go → s.tack.observed = false → (gateSlot s r.slot).policy = some p →
      (((ctx s r.c).st ≠ .resident ∧ (ctx s r.c).st ≠ .stopped) ∨ releaseHandles s r = none → ask fun u => Denied u 3) ∧
      ∀ dc da dout ch lvl, (ctx s r.c).st = .resident ∨ (ctx s r.c).st = .stopped → releaseHandles s r = some (dc, da, dout, ch, lvl) →
        let y := lineAt s da (currentBase s da 0) 0
        (p.digests.contains (cmrOf s r.c) = false → ask fun u => Denied u 4) ∧
        (∀ k, p.digests.contains (cmrOf s r.c) = true → releaseReason s r p y dc da ch = k → k ≠ 0 → ask fun u => Denied u k) ∧
        (p.digests.contains (cmrOf s r.c) = true → releaseReason s r p y dc da ch = 0 → ask fun u => csrBit u rgReq 62 = true ∧
          u.tack.release = some { r with serial := bitsOf (wordAt y 4).toNat 31 0, sigma := bitsOf (wordAt y 2).toNat 19 0,
                                         cohort := bitsOf (wordAt y 3).toNat 31 0, level := lvl })) ∧
  ∀ (s : State) (fault : BitVec 16),
    (s.tack.release = none ∨ choicePoint s = false ∨ gateFaults.contains fault.toNat = false → Completes (.gateStep fault) s fun u => u = s) ∧
    ∀ r, s.tack.release = some r → choicePoint s = true → gateFaults.contains fault.toNat = true →
      let s1 := scanBoundary (retireAwaiting s)
      let s0 := if runningNo s1 = 64 then s1 else switchOut s1 (runningNo s1)
      ((gateSlot s r.slot).policy = none ∨ releaseHandles s0 r = none → Completes (.gateStep fault) s fun u => Denied u 3) ∧
      ∀ p hs, (gateSlot s r.slot).policy = some p → releaseHandles s0 r = some hs →
      (fault = 0 → Completes (.gateStep fault) s fun u => u.tack.release = none ∧ csrBit u rgReq 62 = false ∧
        csrField u rgResult 61 60 = 1 ∧ csrField u rgResult 31 0 = r.serial % 2 ^ 32 ∧ csrGet u 0x0901218 = csrGet s 0x0901218 + 1 ∧
        (gateSlot u r.slot).left = (if p.budget = 0 then (gateSlot s r.slot).left else (gateSlot s r.slot).left - 1) ∧
        nget 0 (gateSlot u r.slot).served r.c = r.serial ∧ (∀ g, g ≠ r.slot → gateSlot u g = gateSlot s g) ∧ u.tack.mrs = s.tack.mrs) ∧
      (fault ≠ 0 → Completes (.gateStep fault) s fun u => u.tack.release = none ∧
        csrBit u rgReq 62 = false ∧ csrField u rgResult 61 60 = 3 ∧ csrField u rgResult 47 32 = fault.toNat ∧
        (nget {} (ctx u r.c).handles r.out).poison = true ∧ csrGet u 0x0901228 = csrGet s 0x0901228 + 1 ∧ u.tack.slots = s.tack.slots)) ∧
  (∀ (s : State) (v : W64), v.getLsbD 63 = true → tackRuns s = true →
    let x := v.toNat
    let g := bitsOf x 59 58
    let vd := shareVerdict s g (bitsOf x 57 52) (bitsOf x 51 40)
    let refused := fun (k : Nat) (u : State) => csrField u rgInstall 39 36 = k ∧ u.tack = s.tack ∧ u.hbm = s.hbm
    (bitsOf x 61 60 = 0 →
      (slotBusy s g = true → Completes (.shareInstall v) s (refused 2)) ∧
      (slotBusy s g = false → s.tack.observed = true → Completes (.shareInstall v) s (refused 5)) ∧
      (slotBusy s g = false → s.tack.observed = false → (gateSlot s g).policy.isSome = true → Completes (.shareInstall v) s (refused 3)) ∧
      (vd.1 ≠ 1 → Completes (.shareInstall v) s (refused vd.1)) ∧
      (∀ pl, vd = (1, pl) → Completes (.shareInstall v) s fun u => csrField u rgInstall 39 36 = 1 ∧
        gateSlot u g = { policy := some (policyOf pl), left := (policyOf pl).budget } ∧ (∀ k, k ≠ g → gateSlot u k = gateSlot s k) ∧
        mrOf u 5 = sha256 (mrOf s 5 ++ sha256 (pl.take (policyBytes pl))) ∧ (∀ i, i ≠ 5 → mrOf u i = mrOf s i) ∧
        memRead u.hbm.mem (shareAt g) (pl.length - policyBytes pl) = pl.drop (policyBytes pl) ∧
        csrGet u 0x0901238 = csrGet s 0x0901238 + 1)) ∧
    (bitsOf x 61 60 = 1 →
      (slotBusy s g = true → Completes (.shareClear v) s (refused 2)) ∧
      (slotBusy s g = false → Completes (.shareClear v) s fun u => csrField u rgInstall 39 36 = 1 ∧ gateSlot u g = {} ∧
        (∀ k, k ≠ g → gateSlot u k = gateSlot s k) ∧ (∀ a, shareAt g ≤ a → a < shareAt g + 2 ^ 25 → nget 0 u.hbm.mem a = 0) ∧
        mrOf u 5 = sha256 (mrOf s 5 ++ sha256 zero32) ∧ ∀ i, i ≠ 5 → mrOf u i = mrOf s i)))

/-- The Smithy starts an operation with a time that its kind and class fix; bad operands are rejected with results of zero;
while an operation runs, or in reset, nothing starts (R431, R432). The Smithy ends an operation at its time, not before: its
results, SM_CNT[0] and INPUT_REJECTED, which a rejected one sets with a count and a report; CLEAR leaves every X zero (R432,
R434). CURVE_LOAD gives its slot the curve whose checks pass; another leaves the slots and sets CURVE_BAD (R433). That a command
whose event cannot happen changes nothing is the model's choice (log 9). -/
def Obligations.SmithyComputesInFixedTime : Prop :=
  (∀ (s : State) (w : Nat) (slot : Fin 8) (x y m d e : Fin 32) (cv : CurveParams),
    (smithyFree s = false → ∀ i ∈ [Instr.modmul w x y m d, .modexp w x e m d, .ecmulW slot x y m d e, .ecmulM slot x y d, .clear,
      .curveLoad slot cv], Completes i s fun u => u = s) ∧
    (smithyFree s = true →
      (let a := smithyX s w x
       let b := smithyX s w y
       let n := smithyX s w m
       Completes (.modmul w x y m d) s (SmithyStarted s · (badModulus n || a = 0 || b = 0 || decide (n ≤ a) || decide (n ≤ b))
         [(d.val, a * b % n)] (smithyM w + 64)) ∧
       Completes (.modexp w x y m d) s (SmithyStarted s · (badModulus n || a = 0 || decide (n ≤ a) || b = 0)
         [(d.val, powMod a b n)] ((512 * w + 4) * smithyM w))) ∧
      (∀ c, nget none s.smithy.curves slot.val = some c → c.weierstrass = true →
        let k := smithyX s (curveClass c) x
        let a := smithyX s (curveClass c) y
        let b := smithyX s (curveClass c) m
        let r := wMul c k (some (a, b))
        Completes (.ecmulW slot x y m d e) s (SmithyStarted s ·
          (decide (c.p ≤ a) || decide (c.p ≤ b) || !onCurveW c a b || k = 0 || decide (c.n ≤ k) || r.isNone)
          [(d.val, (r.getD (0, 0)).1), (e.val, (r.getD (0, 0)).2)] ((7168 * curveClass c + 8) * smithyM (curveClass c)))) ∧
      (∀ c, nget none s.smithy.curves slot.val = some c → c.weierstrass = false →
        let k := smithyX s (curveClass c) x
        let a := smithyX s (curveClass c) y
        let r := mLadder c k a
        let bad : Bool := a = 0 || decide (c.p ≤ a) || !isSquare (montRhs c a) c.p || k = 0
        (bad = true ∨ r.2 ≠ 0 → Completes (.ecmulM slot x y d) s (SmithyStarted s · bad
          [(d.val, r.1 * invMod r.2 c.p % c.p)] ((3072 * curveClass c + 8) * smithyM (curveClass c)))) ∧
        (bad = false → r.2 = 0 → Completes (.ecmulM slot x y d) s fun u => ∃ v, SmithyStarted s u false [(d.val, v)]
          ((3072 * curveClass c + 8) * smithyM (curveClass c)))) ∧
      ((∀ c, nget none s.smithy.curves slot.val = some c → c.weierstrass = false) → Completes (.ecmulW slot x y m d e) s fun u => u = s) ∧
      ((∀ c, nget none s.smithy.curves slot.val = some c → c.weierstrass = true) → Completes (.ecmulM slot x y d) s fun u => u = s) ∧
      Completes .clear s (fun u => u.smithy = { s.smithy with op := some { clear := true, at_ := s.ledger, cycles := 512 } }))) ∧
  ((∀ (s : State) (o : SmithyOp), s.smithy.op = some o →
    let due := o.cycles * 10 ≤ (now s - o.at_.toNat) * 12
    (¬due → Completes .smithyComplete s fun u => u = s) ∧
    (due → Completes .smithyComplete s fun u => u.smithy.op = none ∧ u.smithy.curves = s.smithy.curves ∧
      csrGet u 0x0A00100 = csrGet s 0x0A00100 + 1 ∧ csrBit u 0x0A00000 30 = o.rejected ∧
      (o.clear = true → (∀ i, nget 0 u.smithy.x i = 0) ∧ csrGet u 0x0A00118 = csrGet s 0x0A00118 + 1) ∧
      (o.clear = false → (∀ e v, o.outs = [(e, v)] → ∀ i, nget 0 u.smithy.x i = if i = e then v else nget 0 s.smithy.x i) ∧
        ∀ e v f w, o.outs = [(e, v), (f, w)] → ∀ i, nget 0 u.smithy.x i =
          if i = f then w else if i = e then v else nget 0 s.smithy.x i) ∧
      (o.rejected = true → csrGet u 0x0A00108 = csrGet s 0x0A00108 + 1 ∧ ∃ r, u.reports = s.reports ++ [r] ∧ r.code = 0x0903 ∧ r.source = 1024) ∧
      (o.rejected = false → u.reports = s.reports))) ∧
  (∀ s : State, s.smithy.op = none → Completes .smithyComplete s fun u => u = s) ∧
  ∀ (s : State) (slot : Fin 8) (c : CurveParams), smithyFree s = true →
    let bases := (List.range 63).map fun k => Config.free (s.fresh + k)
    (curveOk bases c = true → Completes (.curveLoad slot c) s fun u => nget none u.smithy.curves slot.val = some c ∧
      (∀ k, k ≠ slot.val → nget none u.smithy.curves k = nget none s.smithy.curves k) ∧ u.smithy.x = s.smithy.x ∧ u.csr = s.csr) ∧
    (curveOk bases c = false → Completes (.curveLoad slot c) s fun u => u.smithy = s.smithy ∧ csrBit u 0x0A00000 29 = true ∧
      csrGet u 0x0A00110 = csrGet s 0x0A00110 + 1))

/-- SPDM before a session (R425 to R427). A request that does not reach the responder changes nothing, and one ahead of its
stage is answered with an error. GET_VERSION, GET_CAPABILITIES and NEGOTIATE_ALGORITHMS bring the connection from stage to
stage; the rest answer with the chain, the measurements, a quote or the KEM key. SPDM sessions (R427). KEY_EXCHANGE adds a
session while fewer than four stand and the peer's point is good; FINISH establishes it or ends it; the requests inside one act
on an established session of their transport only; IDE_KM gives the Gatehouse its key. That a command whose event cannot happen
changes nothing is the model's choice (log 9). -/
def Obligations.SpdmAnswersByStage : Prop :=
  (∀ (s : State) (via : Transport) (agreed verified : Bool) (slot off len ix ses px py c : Nat) (nonce key : List Byte),
    (∀ x ∈ [(0, Instr.getVersion via), (1, .getCapabilities via), (2, .negotiateAlgorithms via agreed), (3, .getDigests via),
        (3, .getCertificate via slot off len), (3, .challenge via slot nonce), (3, .getMeasurements via ix nonce),
        (3, .keyExchange via px py), (3, .finish via ses verified), (3, .keyUpdate via ses), (3, .heartbeat via ses),
        (3, .endSession via ses), (3, .ideKm via ses key), (3, .quote via nonce c), (3, .kemKey via)],
      (tackRuns s = false ∨ reaches s via = false → Completes x.2 s fun u => u = tookMessage s via) ∧
      (tackRuns s = true → reaches s via = true → stageOf s via < x.1 → Completes x.2 s fun u =>
        SpdmSaid s u via 0x7F 4 0 [] ∧ u.tack = s.tack)) ∧
    (tackRuns s = true → reaches s via = true →
      Completes (.getVersion via) s (fun u => SpdmSaid s u via 0x04 0 0 (leBytes 2 1 ++ leBytes 2 0x1300) ∧ stageOf u via = 1 ∧
        ∀ v, v ≠ via → stageOf u v = stageOf s v) ∧
      (1 ≤ stageOf s via → Completes (.getCapabilities via) s fun u => stageOf u via = max 2 (stageOf s via) ∧
        ∀ v, v ≠ via → stageOf u v = stageOf s v) ∧
      (2 ≤ stageOf s via → Completes (.negotiateAlgorithms via true) s (fun u => stageOf u via = 3) ∧
        Completes (.negotiateAlgorithms via false) s (fun u => SpdmSaid s u via 0x7F 1 0 [] ∧ u.tack = s.tack)) ∧
      (3 ≤ stageOf s via →
        let chain := Config.chainHead ++ s.tack.cert
        Completes (.getDigests via) s (fun u => SpdmSaid s u via 0x01 0 1 (sha256 chain) ∧ u.tack = s.tack) ∧
        (off ≤ chain.length → Completes (.getCertificate via 0 off len) s fun u =>
          let n := min len (chain.length - off)
          SpdmSaid s u via 0x02 0 0 (leBytes 2 n ++ leBytes 2 (chain.length - off - n) ++ (chain.drop off).take n) ∧ u.tack = s.tack) ∧
        (chain.length < off → Completes (.getCertificate via slot off len) s fun u => SpdmSaid s u via 0x7F 1 0 []) ∧
        (slot ≠ 0 → Completes (.getCertificate via slot off len) s (fun u => SpdmSaid s u via 0x7F 1 0 []) ∧
          Completes (.challenge via slot nonce) s (fun u => SpdmSaid s u via 0x7F 1 0 [])) ∧
        (Completes (.challenge via 0 nonce) s fun u => ∃ n : List Byte, n.length = 32 ∧ SpdmSaid s u via 0x03 0 1
          (sha256 chain ++ n ++ Config.sign s.tack.ak (nonce ++ (sha256 chain ++ n))) ∧ u.tack = s.tack) ∧
        (∀ d, measurement s ix = some d → Completes (.getMeasurements via ix nonce) s fun u => ∃ n : List Byte, n.length = 32 ∧
          SpdmSaid s u via 0x60 0 0 (leBytes 1 1 ++ (leBytes 1 ix ++ d) ++ n ++
            Config.sign s.tack.ak (nonce ++ (leBytes 1 1 ++ (leBytes 1 ix ++ d)) ++ n))) ∧
        (ix ≠ 0 → ix ≠ 0xFF → measurement s ix = none → Completes (.getMeasurements via ix nonce) s fun u => SpdmSaid s u via 0x7F 1 0 []) ∧
        (Completes (.getMeasurements via 0 nonce) s fun u => ∃ n : List Byte, n.length = 32 ∧
          SpdmSaid s u via 0x60 80 0 (leBytes 1 0 ++ n ++ Config.sign s.tack.ak (nonce ++ leBytes 1 0 ++ n))) ∧
        (Completes (.getMeasurements via 0xFF nonce) s fun u => ∃ n : List Byte, n.length = 32 ∧
          let all := leBytes 1 80 ++ (measurementIxs 0xFF).flatMap fun i => leBytes 1 i ++ (measurement s i).getD []
          SpdmSaid s u via 0x60 0 0 (all ++ n ++ Config.sign s.tack.ak (nonce ++ all ++ n))) ∧
        (c < 64 ∨ c = 0xFF → Completes (.quote via nonce c) s fun u => csrGet u 0x0901200 = csrGet s 0x0901200 + 1 ∧
          SpdmSaid s u via 0x7E 0 0 (quoteBody s nonce c ++ padTo 17088 (Config.sign s.tack.ak (quoteBody s nonce c)))) ∧
        (64 ≤ c → c ≠ 0xFF → Completes (.quote via nonce c) s fun u => SpdmSaid s u via 0x7F 1 0 [] ∧
          csrGet u 0x0901200 = csrGet s 0x0901200) ∧
        Completes (.kemKey via) s (fun u => SpdmSaid s u via 0x7E 0 0 (padTo 1568 (Config.kemPublic s.tack.kem)) ∧ u.tack = s.tack)))) ∧
  (∀ (s : State) (via : Transport), tackRuns s = true → reaches s via = true → 3 ≤ stageOf s via →
    (∀ px py,
      (4 ≤ s.tack.sessions.length → Completes (.keyExchange via px py) s fun u => SpdmSaid s u via 0x7F 0x0A 0 [] ∧ u.tack = s.tack) ∧
      (s.tack.sessions.length < 4 → s.smithy.op.isSome = true → Completes (.keyExchange via px py) s fun u => u = tookMessage s via) ∧
      (s.tack.sessions.length < 4 → s.smithy.op = none → pointOk secp384r1 px py = false → Completes (.keyExchange via px py) s fun u =>
        SpdmSaid s u via 0x7F 1 0 [] ∧ u.tack = s.tack ∧ csrGet u 0x0A00108 = csrGet s 0x0A00108 + 1) ∧
      (s.tack.sessions.length < 4 → s.smithy.op = none → pointOk secp384r1 px py = true → Completes (.keyExchange via px py) s fun u =>
        ∃ d, 1 ≤ d ∧ d < secp384r1.n ∧ u.smithy.x = [] ∧ u.tack.nextSes = s.tack.nextSes + 1 ∧
          u.tack.sessions = s.tack.sessions ++ [{ id := s.tack.nextSes, via := via, secret := ((wMul secp384r1 d (some (px, py))).getD (0, 0)).1 }])) ∧
    (∀ n key, sessionOf s via n = none → ∀ i ∈ [Instr.finish via n true, .finish via n false, .keyUpdate via n, .heartbeat via n,
      .endSession via n, .ideKm via n key], Completes i s fun u => SpdmSaid s u via 0x7F 2 0 [] ∧ u.tack = s.tack) ∧
    ∀ n x key, sessionOf s via n = some x →
      (x.live = false →
        (∀ i ∈ [Instr.keyUpdate via n, .heartbeat via n, .endSession via n, .ideKm via n key], Completes i s fun u =>
          SpdmSaid s u via 0x7F 4 0 [] ∧ u.tack = s.tack) ∧
        Completes (.finish via n true) s (fun u => sessionOf u via n = some { x with live := true }) ∧
        Completes (.finish via n false) s (fun u => SpdmSaid s u via 0x7F 6 0 [] ∧ sessionOf u via n = none)) ∧
      (x.live = true →
        (∀ ok, Completes (.finish via n ok) s fun u => SpdmSaid s u via 0x7F 4 0 [] ∧ u.tack = s.tack) ∧
        Completes (.keyUpdate via n) s (fun u => sessionOf u via n = some { x with updates := x.updates + 1 }) ∧
        Completes (.heartbeat via n) s (fun u => Answered s u via 6 (leBytes 4 n ++ spdmBytes 0x68 0 0 []) ∧ u.tack = s.tack) ∧
        Completes (.endSession via n) s (fun u => sessionOf u via n = none ∧ u.tack.ideKey = s.tack.ideKey) ∧
        (s.gate.bridge = true → s.gate.linkUp = true → Completes (.ideKm via n key) s fun u => u.tack.ideKey = key ∧ u.gate.ide = true) ∧
        (s.gate.bridge = false ∨ s.gate.linkUp = false → Completes (.ideKm via n key) s fun u => SpdmSaid s u via 0x7F 7 0 [] ∧ u.tack = s.tack)))

/-- JTAG and the debug access port (R443 to R446, R468, R491, R492). Every instruction but IDCODE and BYPASS, and every access,
sets OBSERVED and is counted; the first one ends sessions, erases keys and shares, denies the pending release and extends MR6. A
device held for TEST_EN answers IDCODE and BYPASS alone. That a command whose event cannot happen changes nothing is the model's
choice (log 9). -/
def Obligations.DebugPortSetsObserved : Prop :=
  ∀ s : State,
    let seen := fun (kind addr : Nat) (u : State) => u.tack.observed = true ∧ csrGet u 0x0901230 = csrGet s 0x0901230 + 1 ∧
      (s.tack.observed = true → u.tack = s.tack) ∧
      (s.tack.observed = false → u.tack.sessions = [] ∧ u.tack.ideKey = [] ∧ u.tack.fabric = none ∧ u.tack.release = none ∧ u.smithy.x = [] ∧
        u.gate.ide = false ∧ (∀ g, g < 4 → gateSlot u g = {}) ∧ (∀ k, k ≠ 6 → mrOf u k = mrOf s k) ∧
        mrOf u 6 = sha256 (mrOf s 6 ++ sha256 (leBytes 6 (now s) ++ leBytes 1 7 ++ leBytes 1 0x40 ++
          padTo 24 (leBytes 1 kind ++ List.replicate 7 0 ++ leBytes 8 addr))))
    (∀ x ∈ [(Instr.extest, 0x00#8), (.samplePreload, 0x02#8), (.clamp, 0x03#8), (.highz, 0x04#8), (.dapAccess, 0x08#8)],
      (s.rst.testEn = false → Completes x.1 s fun u => u.tap.ir = x.2 ∧ seen 1 x.2.toNat u) ∧
      (s.rst.testEn = true → Completes x.1 s fun u => u = s)) ∧
    (Completes .idcode s fun u => u.tap.ir = 0x01 ∧ u.bus = leBytes 4 (identity s) ∧ u.tack = s.tack ∧ u.csr = s.csr) ∧
    (Completes .bypass s fun u => u.tap.ir = 0xFF ∧ u = { s with tap := u.tap }) ∧
    (Completes .trstN s fun u => u.tap.ir = 0x01 ∧ u = { s with tap := u.tap }) ∧
    ∀ (addr : W64),
      (tapDefined (addr.toNat % 256) = false → s.rst.testEn = false → Completes (.debugAccess addr none) s fun u =>
        u.tap.ir = addr.setWidth 8 ∧ seen 1 (addr.toNat % 256) u) ∧
      (∀ a, s.rst.testEn = true → Completes (.debugAccess addr (some a)) s fun u => u = s) ∧
      (s.rst.testEn = false → 0xB000000000 ≤ addr.toNat → addr.toNat < 0xB000100000 →
        (∀ b, Completes (.debugAccess addr (some (.write [b]))) s fun u => seen 3 addr.toNat u ∧
          u.ostler.sram.find? (fun e => e.1 = addr.toNat - 0xB000000000) = some (addr.toNat - 0xB000000000, b)) ∧
        (∀ e, s.ostler.sram.find? (fun e => e.1 = addr.toNat - 0xB000000000) = some e →
          Completes (.debugAccess addr (some (.read 1))) s fun u => seen 2 addr.toNat u ∧ u.bus = [e.2])) ∧
      (s.rst.testEn = false → 0xA000000000 ≤ addr.toNat → addr.toNat < 0xB000000000 → inSecure (addr.toNat - 0xA000000000) = true →
        Completes (.debugAccess addr (some (.read 8))) s fun u => seen 2 addr.toNat u ∧ u.bus = List.replicate 8 0)

/-- The sources of R449 and what a reset leaves (R447, R448, R451, R462). In a sequence of at least its level a source only
joins it; otherwise the sequence starts. A system reset clears the Ledger, the positions and the program's memory, a core reset
none of them; the Release Gate's shares outlive both, and the Daybook's ring an orderly one (R450); power-on leaves only the
fuses and flash. Reset pins, the watchdog and the release of reset (R449, R450, R453, R454, R464, R490, R491). A pulse below 100
ns has no effect; PERST_N without PERST_SYS resets the Gatehouse alone; only the key restarts the watchdog; a RESET flit that
fails a check is discarded; the release waits for the end of a thermal trip, and for every rail to read at its brownout limit or
above (R495). A fatal error of the Yardmaster is reported over AER (R362). The loss of the Ledger's clock loses its lock, of a
stall's its instructions. That a command whose event cannot happen changes nothing is the model's choice (log 9). -/
def Obligations.ResetsReachTheirDomains : Prop :=
  (∀ (s : State) (i : Instr) (level bit : Nat), Asks s i level bit →
    (sequenceRuns s = true → level ≤ s.rst.level → Completes i s fun u => csrBit u rstCause bit = true ∧ u.rst.level = s.rst.level ∧
      u.ledger = s.ledger ∧ u.positions = s.positions ∧ u.tack = s.tack ∧ u.hbm = s.hbm ∧ u.loft = s.loft ∧ u.ctxs = s.ctxs) ∧
    (sequenceRuns s = false ∨ s.rst.level < level →
      (level = 1 ∨ level = 2 → Completes i s fun u => UnderReset s u level bit ∧
        (level = 2 → u.ledger = 0 ∧ u.positions = [] ∧ u.disc = {} ∧ (∀ a, inDevice a = false → nget 0 u.hbm.mem a = 0) ∧
          (∀ a, 0x5000000000 ≤ a → a < 0x5008000000 → nget 0 u.hbm.mem a = nget 0 s.hbm.mem a) ∧
          (orderly bit = true → ∀ a, 0x6000000000 ≤ a → a < 0x6040000000 → nget 0 u.hbm.mem a = nget 0 s.hbm.mem a)) ∧
        (level = 1 → u.ledger = s.ledger ∧ u.positions = s.positions ∧ u.disc = s.disc ∧ u.hbm.mem = s.hbm.mem ∧
          ∀ e ∈ u.hbm.regions, e.2.owner = 64)) ∧
      (level = 3 → Completes i s fun u => u.rst.phase = .asserted ∧ u.rst.level = 3 ∧ csrField u rstCause 31 30 = 3 ∧
        csrField u rstCause 9 0 = 1 ∧ u.ledger = 0 ∧ u.positions = [] ∧ u.hbm = {} ∧ u.tack = {} ∧ u.ctxs = [] ∧ u.fuses = s.fuses))) ∧
  (∀ s : State,
    (∀ ns, ns < 100 → Completes (.sysRstN ns) s (· = s) ∧ Completes (.perstN ns) s (· = s)) ∧
    (∀ ns, s.gate.bridge = false → Completes (.perstN ns) s (· = s)) ∧
    (∀ ns, 1000 ≤ ns → s.gate.bridge = true → csrBit s 0x0100008 31 = false → Completes (.perstN ns) s fun u =>
      u.gate.linkUp = false ∧ u.gate.ide = false ∧ u.tack.ideKey = [] ∧ csrBit u rstCause 2 = true ∧ u.rst = s.rst ∧ u.stalls = s.stalls ∧
      u.ctxs = s.ctxs ∧ u.ledger = s.ledger) ∧
    (csrField s 0x0100008 30 16 = 0 ∨ booted s = false ∨ now s < s.rst.wdogAt.toNat + 1000000 * csrField s 0x0100008 30 16 →
      Completes .watchdogExpiry s (· = s)) ∧
    (∀ v : W32, (v = 0x5A5A0001 → Completes (.wdogService v) s fun u => u = { s with rst := { s.rst with wdogAt := s.ledger } }) ∧
      (v ≠ 0x5A5A0001 → Completes (.wdogService v) s (· = s))) ∧
    (∀ k h, rxEntry s k = some h → flitType h.bytes = 9 → resetFlitOk s h.bytes = false → Completes (.resetFlit k) s fun u =>
      u.rst = s.rst ∧ u.tack = s.tack ∧ u.rhoa.rx = s.rhoa.rx.eraseIdx k ∧ u.rhoa.lastStamp = s.rhoa.lastStamp) ∧
    (∀ n temp, temp ≤ 12000 → Completes (.thermalTrip n temp) s (· = s)) ∧
    (∀ n temp, 12000 < temp → Completes (.thermalTrip n temp) s fun u => u.rst.tripped = true ∧ u.rst.tripN = false ∧ u.rst.phase = .asserted) ∧
    (s.rst.tripped = true → Completes .tripRecovery s fun u => u = { s with rst := { s.rst with tripped := false, tripN := true } }) ∧
    (s.rst.phase = .asserted → s.rst.tripped = true ∨ s.rst.testEn = true ∨ railsGood s = false → Completes .resetRelease s (· = s)) ∧
    (s.rst.phase ≠ .asserted → Completes .resetRelease s fun u => u = { s with csr := u.csr } ∧ csrField u 0x0100020 4 0 = 0x1F) ∧
    (s.rst.phase = .asserted → s.rst.tripped = false → s.rst.testEn = false → railsGood s = true → Completes .resetRelease s fun u =>
      u.rst = { s.rst with phase := .released, xspiRstN := true } ∧ csrField u 0x0100020 4 0 = 0x1F ∧
      (2 ≤ s.rst.level → csrGet u 0x07C0020 = s.ledger)) ∧
    (∀ d, s.rst.phase = .asserted → Completes (.clockUnstable d) s (· = s)) ∧
    (s.rst.phase ≠ .asserted → Completes (.clockUnstable 0) s fun u => csrBit u ledgerStatus 63 = false ∧ csrBit u 0x0100020 0 = false ∧
      csrGet u 0x0C00218 = csrGet s 0x0C00218 + 1 ∧ u.rst = s.rst ∧ u.ledger = s.ledger) ∧
    (∀ d, 836 ≤ d → Completes (.clockUnstable d) s (· = s)) ∧
    (s.gate.bridge = true → Completes .yardmasterFatalError s fun u => (0, .uncorrectableInternal) ∈ u.gate.aer) ∧
    ∀ p : Position, p < 832 → s.rst.phase ≠ .asserted → Completes (.clockUnstable (p + 4)) s fun u =>
      liveEntries (stall u p) = [] ∧ u.rst = s.rst ∧ csrBit u 0x0100020 4 = false)

/-- Boot (R422, R424, R453, R458, R459). From a released reset, with a verified image of each component, the device comes to
run, and the images are in MR1 to MR3; with a component that has none, or fuses that fail their CRC, it comes to the recovery
state, with fuses that fail from the trim backup (R455). That a command whose event cannot happen changes nothing is the model's choice (log 9). -/
def Obligations.BootRunsVerifiedImages : Prop :=
  ∀ (s : State) (crc : Bool) (images : List (Bool × Bool)) (mv : Nat),
    let slot := fun c => bootSlot s images c
    (s.rst.phase ≠ .released ∨ s.rst.recovery = true → Completes (.boot crc images mv) s (· = s)) ∧
    (s.rst.phase = .released → s.rst.recovery = false →
      (∀ a b c, crc = true ∨ s.rst.level = 1 → slot 1 = some a → slot 2 = some b → slot 3 = some c →
        Completes (.boot crc images mv) s fun u => u.rst.phase = .running ∧ u.rst.recovery = false ∧ u.tack.booted = true ∧ u.ostler.up = true ∧
          u.rst.dies = true ∧ u.rst.runB = BitVec.ofBool c ++ BitVec.ofBool b ++ BitVec.ofBool a ∧
          mrOf u 1 = sha256 (mrOf s 1 ++ sha256 (flashImage s 1 a)) ∧ mrOf u 2 = sha256 (mrOf s 2 ++ sha256 (flashImage s 2 b)) ∧
          mrOf u 3 = sha256 (mrOf s 3 ++ sha256 (flashImage s 3 c)) ∧ nget none u.smithy.curves 0 = some secp384r1 ∧
          u.tack.observed = s.tack.observed) ∧
      ((crc = false ∧ s.rst.level ≠ 1) ∨ slot 1 = none ∨ slot 2 = none ∨ slot 3 = none → Completes (.boot crc images mv) s fun u =>
        u.rst.recovery = true ∧ u.rst.phase = .released ∧ u.ostler.up = true ∧ u.rst.dies = false ∧ u.tack.booted = s.tack.booted ∧
        u.tack.ak = s.tack.ak ∧ (crc = false → s.rst.level ≠ 1 → u.rst.backup = true ∧ u.positions = (bootPositions s).positions)))

/-- Block resets and scans (R454, R467). A request for no such block is refused; an idle block is reset at once and another when
it goes idle or at the end of the wait; BUSY lasts until its clock is good. A scan names a SPARE position, which a pass returns
to SPARE. That a command whose event cannot happen changes nothing is the model's choice (log 9). -/
def Obligations.BlockResetsAndScans : Prop :=
  (∀ (s : State) (v : W64), v.getLsbD 63 = true →
    let kind := bitsOf v.toNat 59 56
    let target := bitsOf v.toNat 9 0
    (s.rst.blk ≠ none → Completes (.blockReset v) s fun u => u = { s with csr := u.csr } ∧ csrField u rstBlk 62 60 = csrField s rstBlk 62 60) ∧
    (s.rst.blk = none → blockAllowed s kind target = false → Completes (.blockReset v) s fun u => u = { s with csr := u.csr } ∧
      csrField u rstBlk 61 60 = 3) ∧
    (s.rst.blk = none → blockAllowed s kind target = true → blockIdle s kind target = false → Completes (.blockReset v) s fun u =>
      u = { s with csr := u.csr, rst := { s.rst with blk := some (kind, target, false), blkAt := s.ledger } } ∧ csrField u rstBlk 62 60 = 4) ∧
    (s.rst.blk = none → blockAllowed s kind target = true → blockIdle s kind target = true → Completes (.blockReset v) s fun u =>
      u.rst.blk = some (kind, target, true) ∧ csrField u rstBlk 62 60 = 5 ∧
      (kind = 1 → (stall u target).ma = {} ∧ (stall u target).tiles = []))) ∧
  (∀ (s : State) (kind target : Nat) (done : Bool), s.rst.blk = some (kind, target, done) →
    let due := s.rst.blkAt.toNat + 1000 * csrField s 0x0100008 15 0 ≤ now s
    (done = true ∨ ¬due → Completes .blockResetTimeout s (· = s)) ∧
    (done = false → due → Completes .blockResetTimeout s fun u => u.rst.blk = some (kind, target, true) ∧
      csrField u rstBlk 61 60 = if blockIdle s kind target = true then 1 else 2) ∧
    (done = true → Completes .blockResetDone s fun u => u = { s with csr := u.csr, rst := { s.rst with blk := none } } ∧ csrBit u rstBlk 62 = false) ∧
    (done = false → blockIdle s kind target = false → Completes .blockResetDone s (· = s)) ∧
    (done = false → blockIdle s kind target = true → Completes .blockResetDone s fun u => u.rst.blk = none ∧ csrField u rstBlk 62 60 = 1)) ∧
  (∀ s : State, s.rst.blk = none → ∀ i ∈ [Instr.blockResetTimeout, .blockResetDone], Completes i s (· = s)) ∧
  ∀ (s : State) (v : W64), v.getLsbD 63 = true →
    let p := bitsOf v.toNat 9 0
    (csrBit s scanCtl 62 = true → Completes (.scanStart v) s fun u => u = { s with csr := u.csr } ∧ csrField u scanCtl 9 0 = p ∧
      csrField u scanCtl 63 10 = csrField s scanCtl 63 10 ∧ ∀ o, o ≠ scanCtl → csrGet u o = csrGet s o) ∧
    (csrBit s scanCtl 62 = false → (position s p).st = .spare → Completes (.scanStart v) s fun u => csrBit u scanCtl 62 = true ∧
      position u p = { position s p with scan := true } ∧ ∀ q, q ≠ p → position u q = position s q) ∧
    (csrBit s scanCtl 62 = false → (position s p).st ≠ .spare → Completes (.scanStart v) s fun u => u = { s with csr := u.csr } ∧
      csrBit u scanCtl 62 = false) ∧
    (∀ pass, (∀ q, scanning s = some q → (position s q).st ≠ .outOfService) → Completes (.scanDone pass) s (· = s)) ∧
    ∀ q pass, scanning s = some q → (position s q).st = .outOfService → Completes (.scanDone pass) s fun u => csrField u scanCtl 62 60 =
      (if pass = true then 1 else 2) ∧ position u q = { position s q with st := if pass = true then .spare else .outOfService, scan := false } ∧
      ∀ r, r ≠ q → position u r = position s r

/-- Activation and the margin table (R461, R466). ACTIVATE switches every staged component to its other slot and measures its
image; with nothing staged it fails. A component that fails its self-check within 10 s runs its old image again. The table is
written when it is due. That a command whose event cannot happen changes nothing is the model's choice (log 9). -/
def Obligations.FirmwareActivatesAndReverts : Prop :=
  ∀ s : State,
    (tackRuns s = false → Completes .firmwareActivate s (· = s)) ∧
    (tackRuns s = true → csrField s fwSlot 6 4 = 0 → Completes .firmwareActivate s fun u => u = { s with csr := u.csr } ∧
      csrField u fwSlot 29 28 = 3) ∧
    (tackRuns s = true → csrField s fwSlot 6 4 ≠ 0 → Completes .firmwareActivate s fun u => csrField u fwSlot 29 28 = 1 ∧
      ∀ c ∈ [1, 2, 3], csrBit u fwSlot (3 + c) = false ∧
        (csrBit s fwSlot (3 + c) = true → activeB u.ostler.dir c = (!activeB s.ostler.dir c) ∧ activeB u.rst.runB c = (!activeB s.ostler.dir c) ∧
          mrOf u c = sha256 (mrOf s c ++ sha256 (flashImage s c (!activeB s.ostler.dir c)))) ∧
        (csrBit s fwSlot (3 + c) = false → activeB u.ostler.dir c = activeB s.ostler.dir c ∧ activeB u.rst.runB c = activeB s.rst.runB c ∧
          mrOf u c = mrOf s c)) ∧
    (∀ k : Fin 3, nget none s.rst.acts (k.val + 1) = none → Completes (.firmwareRevert k) s (· = s)) ∧
    (∀ (k : Fin 3) a, nget none s.rst.acts (k.val + 1) = some a →
      (a.at_.toNat + 10000000000 < now s → Completes (.firmwareRevert k) s (· = s)) ∧
      (now s ≤ a.at_.toNat + 10000000000 → Completes (.firmwareRevert k) s fun u => csrField u fwSlot 29 28 = 2 ∧
        activeB u.ostler.dir (k.val + 1) = a.oldB ∧ activeB u.rst.runB (k.val + 1) = a.oldB ∧
        mrOf u (k.val + 1) = sha256 (mrOf s (k.val + 1) ++ sha256 (flashImage s (k.val + 1) a.oldB)))) ∧
    (s.ostler.up = true → s.rst.recovery = false → marginDue s = true → Completes .marginTableWrite s fun u =>
      u = { s with ostler := u.ostler } ∧ u.ostler.margin = marginTable s ∧ u.ostler.marRep = s.hbm.repair ∧
      u.ostler.marSeq = s.ostler.marSeq + 1 ∧ u.ostler.marAt = s.ledger) ∧
    (s.ostler.up = false ∨ s.rst.recovery = true ∨ marginDue s = false → Completes .marginTableWrite s (· = s))

/-- Supply and temperature episodes (R463, R464, R494). A sample is recorded; below 1.55 V every powered stall is marked until
the rail is good again, above 105 C a stall until it has cooled; a brownout is counted. That a command whose event cannot happen
changes nothing is the model's choice (log 9). -/
def Obligations.SupplyEpisodesMarkStalls : Prop :=
  ∀ s : State,
    (∀ mv, 1550 ≤ mv ∨ csrBit s railStatus 31 = true ∨ booted s = false → Completes (.droopEpisodeStart mv) s fun u =>
      u = { s with csr := u.csr, supply := { s.supply with rails := u.supply.rails } } ∧ csrField u railStatus 11 0 = min mv 0xFFE ∧
      csrField u railStatus 23 12 = min (min mv 0xFFE) (csrField s railStatus 23 12)) ∧
    (∀ mv, mv < 1550 → csrBit s railStatus 31 = false → booted s = true → Completes (.droopEpisodeStart mv) s fun u =>
      csrBit u railStatus 31 = true ∧ csrField u railStatus 11 0 = mv ∧ u.supply.low = mv ∧
      ∀ p, (stall u p).droop = ((stall s p).droop || decide (p ∈ positionsIn s .enabled ++ positionsIn s .spare))) ∧
    (∀ low, csrBit s railStatus 31 = false → Completes (.droopEpisodeEnd low) s (· = s)) ∧
    (∀ low, csrBit s railStatus 31 = true → Completes (.droopEpisodeEnd low) s fun u => csrBit u railStatus 31 = false ∧
      csrGet u 0x0C00200 = csrGet s 0x0C00200 + 1 ∧
      ∀ p, (stall u p).droop = ((stall s p).droop && !decide (p ∈ positionsIn s .enabled ++ positionsIn s .spare))) ∧
    (∀ rail mv ns, brownsOut rail mv ns = false → Completes (.brownout rail mv ns) s fun u =>
      u = { s with csr := u.csr, supply := { s.supply with rails := u.supply.rails } } ∧ nget none u.supply.rails rail.val = some mv ∧
      (rail ≠ 0 → u.csr = s.csr)) ∧
    (∀ rail mv ns, brownsOut rail mv ns = true → Completes (.brownout rail mv ns) s fun u =>
      csrGet u 0x0C00210 = csrGet s 0x0C00210 + 1) ∧
    (∀ (p : Position) temp, temp ≤ 10500 ∨ s.supply.hot.contains p = true ∨ powered s p = false →
      Completes (.thermalLimit p temp) s (· = s)) ∧
    (∀ (p : Position) temp, 10500 < temp → s.supply.hot.contains p = false → powered s p = true → Completes (.thermalLimit p temp) s fun u =>
      csrBit u railStatus 30 = true ∧ u.supply.hot = s.supply.hot ++ [p] ∧ stall u p = { stall s p with thermal := true } ∧
      ∀ q, q ≠ p → stall u q = stall s q) ∧
    (∀ (p : Position) temp, 10000 < temp ∨ s.supply.hot.contains p = false → Completes (.thermalEpisodeEnd p temp) s (· = s)) ∧
    ∀ (p : Position) temp, temp ≤ 10000 → s.supply.hot.contains p = true → Completes (.thermalEpisodeEnd p temp) s fun u =>
      u.supply.hot = s.supply.hot.filter (fun q => q ≠ p) ∧ stall u p = { stall s p with thermal := false } ∧
      (csrBit u railStatus 30 = true ↔ u.supply.hot ≠ []) ∧ csrGet u 0x0C00208 = csrGet s 0x0C00208 + 1

/-- Fault reports (R476 to R479). They enter the FIFO in the order of R476; one that finds it full is counted and lost. A class
whose mask bit is set raises its alert and takes FAULT_N low. While its firmware runs the Ostler moves them to its ring, which
keeps the last 4,096 records, each with its own sequence number. That a command whose event cannot happen changes nothing is the
model's choice (log 9). -/
def Obligations.FaultReportsReachOstler : Prop :=
  ∀ (s : State) (i : Nat),
    (s.reports[i]? = none → Completes (.faultReportIntake i) s (· = s)) ∧
    ∀ r, s.reports[i]? = some r →
      (reportNext s.reports i r = false → Completes (.faultReportIntake i) s (· = s)) ∧
      (reportNext s.reports i r = true →
        (Completes (.faultReportIntake i) s fun u => u.reports = s.reports.eraseIdx i) ∧
        (1 ≤ r.code / 256 → r.code / 256 ≤ 10 → csrBit s 0x0B00018 (r.code / 256) = true → Completes (.faultReportIntake i) s fun u =>
          csrBit u 0x0B00010 (r.code / 256) = true ∧ u.rst.faultN = false) ∧
        (csrBit s 0x0B00018 (r.code / 256) = false ∨ r.code / 256 = 0 ∨ 10 < r.code / 256 → Completes (.faultReportIntake i) s fun u =>
          csrGet u 0x0B00010 = csrGet s 0x0B00010 ∧ u.rst = s.rst) ∧
        (256 ≤ s.ostler.fifo.length → Completes (.faultReportIntake i) s fun u => u.ostler = s.ostler ∧ u.sent = s.sent ∧
          csrGet u 0x0B00100 = if csrGet s 0x0B00100 = BitVec.allOnes 64 then BitVec.allOnes 64 else csrGet s 0x0B00100 + 1) ∧
        (s.ostler.fifo.length < 256 → s.ostler.up = false → Completes (.faultReportIntake i) s fun u =>
          u.ostler = { s.ostler with fifo := s.ostler.fifo ++ [r] }) ∧
        (s.ostler.fifo = [] → s.ostler.up = true → Completes (.faultReportIntake i) s fun u =>
          u.ostler.fifo = [] ∧ u.ostler.seq = s.ostler.seq + 1 ∧
          u.ostler.ring = (s.ostler.ring ++ [ringRecord s s.ostler.seq.toNat r]).drop (s.ostler.ring.length + 1 - 4096)))

/-- Telemetry, MCTP control, DOE and the management port (R362, R469, R470, R480). A record is made at the end of an interval; a
control message that reaches the Ostler is answered, and an endpoint ID other than the null and broadcast ones is taken; a
DHCPv4 acknowledgement gives the address that the lease's end takes away; an ARP request for the address is answered. That a
command whose event cannot happen changes nothing is the model's choice (log 9). -/
def Obligations.OstlerAnswersItsPorts : Prop :=
  (∀ (s : State) (a pk : W32) (t g h mv : BitVec 16),
    let due := s.ostler.up = true ∧ (s.ostler.telem = [] ∨ fieldAt s.ostler.telem 0 8 + 1000000 * telemMs s ≤ now s)
    (¬due → Completes (.telemetry a pk t g h mv) s (· = s)) ∧
    (due → Completes (.telemetry a pk t g h mv) s fun u => u.ostler = { s.ostler with telem := telemRecord s a pk t g h mv } ∧
      csrField u 0x0B00020 63 32 = a.toNat ∧ csrField u 0x0B00020 31 0 = max pk.toNat (csrField s 0x0B00020 31 0))) ∧
  (∀ (s : State) (via : Transport) (e ty : Byte),
    let said := fun (u : State) (cmd cc : Nat) (b : List Byte) => Answered s u via 0 (leBytes 1 0 ++ leBytes 1 cmd ++ leBytes 1 cc ++ b)
    (mctpReaches s via = false → ∀ i ∈ [Instr.setEndpointId via e, .getEndpointId via, .getMctpVersionSupport via ty,
      .getMessageTypeSupport via, .unsupportedMctpMessage via ty], Completes i s (· = tookMessage s via)) ∧
    (mctpReaches s via = true →
      (e ≠ 0 → e ≠ 0xFF → Completes (.setEndpointId via e) s fun u => u.ostler = { (tookMessage s via).ostler with eid := e } ∧
        said u 1 0 (leBytes 1 0 ++ leBytes 1 e.toNat ++ leBytes 1 0)) ∧
      (e = 0 ∨ e = 0xFF → Completes (.setEndpointId via e) s fun u => u.ostler = (tookMessage s via).ostler ∧ said u 1 2 []) ∧
      Completes (.getEndpointId via) s (said · 2 0 (leBytes 1 s.ostler.eid.toNat ++ leBytes 2 0)) ∧
      (ty = 0xFF ∨ mctpTypes.contains ty.toNat = true →
        Completes (.getMctpVersionSupport via ty) s (said · 4 0 (leBytes 1 1 ++ leBytes 4 0xF1F3F100))) ∧
      (ty ≠ 0xFF → mctpTypes.contains ty.toNat = false → Completes (.getMctpVersionSupport via ty) s (said · 4 0x80 [])) ∧
      Completes (.getMessageTypeSupport via) s (said · 5 0 [4, 0x00, 0x05, 0x06, 0x7E]) ∧
      (mctpTypes.contains ty.toNat = false → Completes (.unsupportedMctpMessage via ty) s (said · 0 5 [])))) ∧
  (∀ (s : State) (ix : Byte), (reaches s .doe = false → Completes (.doeDiscovery ix) s (· = s)) ∧
    (reaches s .doe = true → Completes (.doeDiscovery ix) s fun u => u.sent = s.sent ++ [(.doe, [1, 0, 0, 0, 3, 0, 0, 0] ++
      if ix.toNat ≤ 2 then [1, 0, ix, if ix = 2 then 0 else ix + 1] else [0xFF, 0xFF, 0, 0])])) ∧
  ∀ (s : State),
    (∀ a, (s.ostler.up = true → Completes (.dynamicAddressAssignment a) s fun u => u = { s with ostler := { s.ostler with da := some a } }) ∧
      (s.ostler.up = false → Completes (.dynamicAddressAssignment a) s (· = s))) ∧
    (∀ t mac ip,
      (s.ostler.up = false ∨ s.ostler.link = false ∨ ipOf s = 0 ∨ t ≠ ipOf s → Completes (.arpRequest t mac ip) s (· = s)) ∧
      (s.ostler.up = true → s.ostler.link = true → ipOf s ≠ 0 → t = ipOf s → Completes (.arpRequest t mac ip) s fun u =>
        ∃ f, u = { s with frames := s.frames ++ [f] } ∧ f.length = 42 ∧ f.take 6 = beBytes 6 mac.toNat ∧ f.drop 38 = beBytes 4 ip.toNat)) ∧
    (∀ a leaseS ack, dhcpOn s = false → Completes (.dhcpv4Reply ack a leaseS) s (· = s)) ∧
    (∀ a leaseS, dhcpOn s = true → (Completes (.dhcpv4Reply true a leaseS) s fun u => ipOf u = a ∧ u.ostler.lease = leaseS ∧
        u.ostler.leaseAt = s.ledger ∧ u.frames = s.frames) ∧
      (Completes (.dhcpv4Reply false a leaseS) s fun u => ipOf u = 0 ∧ ∃ f, u.frames = s.frames ++ [f])) ∧
    (let t := now s - s.ostler.leaseAt.toNat
     let n := 1000000000 * s.ostler.lease
     (dhcpOn s = false ∨ s.ostler.ip = 0 ∨ 2 * t < n → Completes .dhcpv4LeaseTimer s (· = s)) ∧
     (dhcpOn s = true → s.ostler.ip ≠ 0 → n ≤ t → Completes .dhcpv4LeaseTimer s fun u => ipOf u = 0 ∧ ∃ f, u.frames = s.frames ++ [f]) ∧
     (dhcpOn s = true → s.ostler.ip ≠ 0 → n ≤ 2 * t → t < n → Completes .dhcpv4LeaseTimer s fun u => ipOf u = ipOf s ∧
       u.ostler.renews = true ∧ (s.ostler.renews = true → u = s))) ∧
    ∀ up, (s.ostler.up = false → Completes (.managementPortLinkChange up) s (· = s)) ∧
      (s.ostler.up = true → Completes (.managementPortLinkChange up) s fun u => u.ostler = { s.ostler with link := up } ∧
        (up = false ∨ csrField s 0x0B00018 63 32 ≠ 0 → u.frames = s.frames) ∧
        (up = true → csrField s 0x0B00018 63 32 = 0 → ∃ f, u.frames = s.frames ++ [f]))

/-- The Thiash messages (R471, R472, R477, R478, R480). One that does not reach the Ostler changes nothing. A CONTROL message
outside a session is denied and counted; in the recovery state CSR_WRITE, FABRIC_KEY and SVN_RAISE are denied, and RESET but at
system level and FLASH_WRITE outside the inactive slots, while DIRECTORY needs no session; a field out of its
range is a bad request; anything else has its effect and is answered. That a command whose event cannot happen changes nothing
is the model's choice (log 9). -/
def Obligations.ManagementMessagesAnswered : Prop :=
  ∀ (s : State) (h : MgmtHdr) (a v : W64) (width off slot telem : Nat) (data : List Byte) (cls : BitVec 16) (from_ : W32) (b : Byte) (key : BitVec 256),
    let allowed := s.rst.recovery = false ∧ inSession s h = true
    let mayWrite := allowed ∨ (s.rst.recovery = true ∧ ∀ k, k < data.length → inInactive s (off + k) = true)
    (mctpReaches s h.via = false → ∀ i ∈ [Instr.csrRead h a width, .csrWrite h a width v, .subscribe h slot cls telem, .reportGet h from_,
      .mgmtReset h b, .flashWrite h off data, .directory h b, .fabricKey h b key, .svnRaise h b, .telemetryGet h,
      .undefinedManagementOp h b], Completes i s (· = tookMessage s h.via)) ∧
    (mctpReaches s h.via = true →
      (s.rst.recovery = false → inSession s h = false → ∀ x ∈ [(2, Instr.csrWrite h a width v), (5, .mgmtReset h b), (6, .flashWrite h off data),
        (7, .directory h b), (8, .fabricKey h b key), (9, .svnRaise h b)], Completes x.2 s fun u => MgReplied s u h x.1 1 [] ∧
        csrGet u 0x0B00110 = (if csrGet s 0x0B00110 = BitVec.allOnes 64 then BitVec.allOnes 64 else csrGet s 0x0B00110 + 1) ∧ u.rst = s.rst ∧ u.ostler = (tookMessage s h.via).ostler ∧ u.tack = s.tack ∧ u.fuses = s.fuses) ∧
      (s.rst.recovery = true → (∀ x ∈ [(2, Instr.csrWrite h a width v), (8, .fabricKey h b key), (9, .svnRaise h b)],
          Completes x.2 s fun u => MgReplied s u h x.1 1 []) ∧
        (b ≠ 2 → Completes (.mgmtReset h b) s fun u => MgReplied s u h 5 1 [] ∧ u.rst = s.rst) ∧
        ((∃ k, k < data.length ∧ inInactive s (off + k) = false) → Completes (.flashWrite h off data) s fun u =>
          MgReplied s u h 6 1 [] ∧ u.ostler.flash = s.ostler.flash)) ∧
      (csrOffset a width = none → Completes (.csrRead h a width) s (MgReplied s · h 1 2 [])) ∧
      (∀ o, csrOffset a width = some o → Completes (.csrRead h a width) s (MgReplied s · h 1 0 (leBytes width (csrRead s o width).1))) ∧
      (allowed → csrOffset a width = none → Completes (.csrWrite h a width v) s (MgReplied s · h 2 2 [])) ∧
      (allowed → Completes (.csrWrite h 0xA000006400 4 v) s fun u => MgReplied s u h 2 0 [] ∧ (s.ostler.up = true →
        csrField u 0x6400 19 0 = bitsOf v.toNat 19 0)) ∧
      (slot ≤ 3 → telem ≤ 1 → Completes (.subscribe h slot cls telem) s fun u => MgReplied s u h 3 0 [] ∧ ∀ k, nget none u.ostler.subs k =
        if k = slot then (if cls = 0 ∧ telem = 0 then none else some { via := h.via, classes := cls, telem := telem = 1 })
        else nget none s.ostler.subs k) ∧
      (3 < slot ∨ 1 < telem → Completes (.subscribe h slot cls telem) s fun u => MgReplied s u h 3 2 [] ∧ u.ostler = (tookMessage s h.via).ostler) ∧
      Completes (.reportGet h from_) s (MgReplied s · h 4 0 (recordsFrom s from_).flatten) ∧
      (s.ostler.telem ≠ [] → Completes (.telemetryGet h) s (MgReplied s · h 0x0A 0 s.ostler.telem)) ∧
      (s.ostler.telem = [] → Completes (.telemetryGet h) s fun u => ∃ r : List Byte, r.length = 48 ∧ MgReplied s u h 0x0A 0 r) ∧
      (allowed → b ≠ 1 → b ≠ 2 → Completes (.mgmtReset h b) s fun u => MgReplied s u h 5 2 [] ∧ u.rst = s.rst) ∧
      (mayWrite → 4096 < data.length ∨ flashSize < off + data.length ∨ (∃ k, k < data.length ∧ flashClosed s (off + k) = true) →
        Completes (.flashWrite h off data) s fun u => MgReplied s u h 6 2 [] ∧ u.ostler = (tookMessage s h.via).ostler) ∧
      (mayWrite → data.length ≤ 4096 → off + data.length ≤ flashSize →
        (∀ k, k < data.length → flashClosed s (off + k) = false) → Completes (.flashWrite h off data) s fun u => MgReplied s u h 6 0 [] ∧
        (off % 4096 = 0 → (∀ k, k < data.length → nget 0xFF u.ostler.flash (off + k) = data.getD k 0) ∧
          ∀ k, k < off ∨ off + 4096 ≤ k → nget 0xFF u.ostler.flash k = nget 0xFF s.ostler.flash k)) ∧
      (allowed ∨ s.rst.recovery = true → b.toNat < 8 → Completes (.directory h b) s fun u => MgReplied s u h 7 0 [] ∧ u.ostler = { (tookMessage s h.via).ostler with dir := b.setWidth 3 }) ∧
      (allowed ∨ s.rst.recovery = true → 8 ≤ b.toNat → Completes (.directory h b) s fun u => MgReplied s u h 7 2 [] ∧ u.ostler = (tookMessage s h.via).ostler) ∧
      (allowed → b = 0 ∨ b = 1 → Completes (.fabricKey h b key) s fun u => MgReplied s u h 8 0 [] ∧
        u.tack.fabric = (if b = 1 then some key else none) ∧ u.ostler.fabric = u.tack.fabric) ∧
      (allowed → b ≠ 0 → b ≠ 1 → Completes (.fabricKey h b key) s fun u => MgReplied s u h 8 2 [] ∧ u.tack = s.tack) ∧
      (allowed → s.fuses.svnFloor < b.toNat → Completes (.svnRaise h b) s fun u => MgReplied s u h 9 0 [] ∧
        u.fuses = { s.fuses with svnFloor := b.toNat }) ∧
      (allowed → b.toNat ≤ s.fuses.svnFloor → Completes (.svnRaise h b) s fun u => MgReplied s u h 9 2 [] ∧ u.fuses = s.fuses) ∧
      (1 ≤ b.toNat ∧ b.toNat ≤ 10 → Completes (.undefinedManagementOp h b) s (· = tookMessage s h.via)) ∧
      (b = 0 ∨ 10 < b.toNat → Completes (.undefinedManagementOp h b) s (MgReplied s · h b.toNat 2 [])))

/-- No command but a power-on reset clears OBSERVED, and none but SVN_RAISE changes the fuses, of which it changes the floor
(R424, R446, R456). -/
def Obligations.ObservedAndFusesLast : Prop :=
  ∀ (i : Instr) (s u : State), exec i s = .next u →
    (s.tack.observed = true → u.tack.observed = true ∨ i = .powerOnReset) ∧
    (u.fuses = s.fuses ∨ ∃ h b, i = .svnRaise h b ∧ s.fuses.svnFloor < b.toNat ∧ u.fuses = { s.fuses with svnFloor := b.toNat })
end

