-- ==== Sys2Proof/Laws/Keep.lean ====
section
/-!
SUPPORT. What almost no command changes: the queue, and which logical ID each position holds. One lemma for each operation says
that it keeps both; the lemmas for the units stand in the files Keep1 to Keep6.
-/

namespace Sys2Proof.Machine

/-- State and logical ID of each position in a table of positions. -/
def rosterOf (m : NMap Pos) : Nat → PosSt × Nat := fun p => ((nget {} m p).st, (nget {} m p).lid)

/-- The queue, and state and logical ID of each position. -/
def State.keep (s : State) : List Instr × (Nat → PosSt × Nat) := (s.pending, rosterOf s.positions)

@[simp] theorem keep_mk (x0 : List Instr) (x1 : Nat) (x2 : Nat) (x3 : List Byte) (x4 : Bool) (x5 : NMap Byte) (x6 : List (Nat
    × Nat)) (x7 : NMap W64) (x8 : W64) (x9 : NMap Pos) (x10 : NMap Stall) (x11 : NMap LoftLine) (x12 : List Msg) (x13 : NMap
    Ctx) (x14 : NMap Rec) (x15 : Yardm) (x16 : Hbm) (x17 : Granary) (x18 : NMap Drover) (x19 : List Report) (x20 : Rhoa) (x21
    : Gateh) (x22 : Daybk) (x23 : Fuses) (x24 : Tack) (x25 : Smithy) (x26 : Rst) (x27 : Supply) (x28 : Ostler) (x29 : Disc)
    (x30 : Tap) (x31 : List (Transport × List Byte)) (x32 : List (List Byte)) :     (State.mk x0 x1 x2 x3 x4 x5 x6 x7 x8 x9
    x10 x11 x12 x13 x14 x15 x16 x17 x18 x19 x20 x21 x22 x23 x24 x25 x26 x27 x28 x29 x30 x31 x32).keep = (x0, rosterOf x9) :=
    (rfl)

theorem keep_eta (s : State) : (s.pending, rosterOf s.positions) = s.keep := (rfl)
theorem keep_eta2 (s t : State) (h : t.keep = s.keep) : (t.pending, rosterOf t.positions) = s.keep := h
theorem keep_pending {s t : State} (h : t.keep = s.keep) : t.pending = s.pending := congrArg Prod.fst h
theorem keep_roster {s t : State} (h : t.keep = s.keep) : rosterOf t.positions = rosterOf s.positions := congrArg Prod.snd h

@[simp] theorem keep_ite (c : Prop) [Decidable c] (a b : State) : (if c then a else b).keep = if c then a.keep else b.keep := by
  split <;> rfl

theorem keep_foldl {β : Type} (g : State → β → State) (h : ∀ s b, (g s b).keep = s.keep) (l : List β) (s : State) :
    (l.foldl g s).keep = s.keep := by
  induction l generalizing s with
  | nil => rfl
  | cons b l ih => exact (ih (g s b)).trans (h s b)

theorem keep_foldl2 {α β : Type} (g : α × State → β → α × State) (h : ∀ a b, (g a b).2.keep = a.2.keep) (l : List β)
    (a : α × State) : (l.foldl g a).2.keep = a.2.keep := by
  induction l generalizing a with
  | nil => rfl
  | cons b l ih => exact (ih (g a b)).trans (h a b)

end Sys2Proof.Machine
end

