-- ==== Sys2Proof/Laws/Keep1.lean ====
section
/-!
SUPPORT. The queue, and state and logical ID of every position, are kept by the operations of: Ops, LinkSend,
Report, Operands, Flags, Issue, Epoch, EngineOps, TransformEngine, Carter.
-/

namespace Sys2Proof.Machine

set_option linter.unusedSimpArgs false
set_option linter.unusedTactic false
set_option linter.unreachableTactic false

@[simp] theorem keep_draw (s : State) :
    (draw s).2.keep = s.keep := by
  unfold draw
  simp only [keep_mk, keep_eta, keep_ite, ite_self]

@[simp] theorem keep_drawMany (s : State) (n : Nat) :
    (drawMany s n).2.keep = s.keep := by
  unfold drawMany
  simp only [keep_mk, keep_eta, keep_ite, ite_self]

@[simp] theorem keep_csrPut (s : State) (off : Nat) (v : W64) :
    (csrPut s off v).keep = s.keep := by
  unfold csrPut
  simp only [keep_mk, keep_eta, keep_ite, ite_self]

@[simp] theorem keep_csrSetField (s : State) (off hi lo v : Nat) :
    (csrSetField s off hi lo v).keep = s.keep := by
  unfold csrSetField
  simp only [keep_mk, keep_eta, keep_ite, ite_self, keep_csrPut]

@[simp] theorem keep_bumpBy (s : State) (off wrapOff wrapBit n : Nat) :
    (bumpBy s off wrapOff wrapBit n).keep = s.keep := by
  unfold bumpBy
  simp only [keep_mk, keep_eta, keep_ite, ite_self, keep_csrPut, keep_csrSetField]

@[simp] theorem keep_bump (s : State) (off wrapOff wrapBit : Nat) :
    (bump s off wrapOff wrapBit).keep = s.keep := by
  unfold bump
  simp only [keep_mk, keep_eta, keep_ite, ite_self, keep_bumpBy]

@[simp] theorem keep_recordFirst (s : State) (off v : Nat) :
    (recordFirst s off v).keep = s.keep := by
  unfold recordFirst
  simp only [keep_mk, keep_eta, keep_ite, ite_self, keep_csrPut, keep_csrSetField]

@[simp] theorem keep_csrClear (s : State) (lo hi : Nat) :
    (csrClear s lo hi).keep = s.keep := by
  unfold csrClear
  simp only [keep_mk, keep_eta, keep_ite, ite_self]

@[simp] theorem keep_yardCount (s : State) (i n : Nat) :
    (yardCount s i n).keep = s.keep := by
  unfold yardCount
  simp only [keep_mk, keep_eta, keep_ite, ite_self, keep_bumpBy]

@[simp] theorem keep_drvCount (s : State) (d i n : Nat) :
    (drvCount s d i n).keep = s.keep := by
  unfold drvCount
  simp only [keep_mk, keep_eta, keep_ite, ite_self, keep_bumpBy]

@[simp] theorem keep_hbmCount (s : State) (st i n : Nat) :
    (hbmCount s st i n).keep = s.keep := by
  unfold hbmCount
  simp only [keep_mk, keep_eta, keep_ite, ite_self, keep_bumpBy]

@[simp] theorem keep_grnCount (s : State) (i n : Nat) :
    (grnCount s i n).keep = s.keep := by
  unfold grnCount
  simp only [keep_mk, keep_eta, keep_ite, ite_self, keep_bumpBy]

@[simp] theorem keep_recCount (s : State) (i : Nat) :
    (recCount s i).keep = s.keep := by
  unfold recCount
  simp only [keep_mk, keep_eta, keep_ite, ite_self, keep_bump]

@[simp] theorem keep_intakeCount (s : State) (i : Nat) :
    (intakeCount s i).keep = s.keep := by
  unfold intakeCount
  simp only [keep_mk, keep_eta, keep_ite, ite_self, keep_bump]

@[simp] theorem keep_ghCount (s : State) (i : Nat) :
    (ghCount s i).keep = s.keep := by
  unfold ghCount
  simp only [keep_mk, keep_eta, keep_ite, ite_self, keep_bump]

@[simp] theorem keep_rlCount (s : State) (n i k : Nat) :
    (rlCount s n i k).keep = s.keep := by
  unfold rlCount
  simp only [keep_mk, keep_eta, keep_ite, ite_self, keep_bumpBy]

@[simp] theorem keep_rlDevCount (s : State) (i : Nat) :
    (rlDevCount s i).keep = s.keep := by
  unfold rlDevCount
  simp only [keep_mk, keep_eta, keep_ite, ite_self, keep_bump]

@[simp] theorem keep_trCount (s : State) (i : Nat) :
    (trCount s i).keep = s.keep := by
  unfold trCount
  simp only [keep_mk, keep_eta, keep_ite, ite_self, keep_bump]

@[simp] theorem keep_pwrCount (s : State) (i : Nat) :
    (pwrCount s i).keep = s.keep := by
  unfold pwrCount
  simp only [keep_mk, keep_eta, keep_ite, ite_self, keep_bump]

@[simp] theorem keep_setStall (s : State) (p : Nat) (x : Stall) :
    (setStall s p x).keep = s.keep := by
  unfold setStall
  simp only [keep_mk, keep_eta, keep_ite, ite_self]

@[simp] theorem keep_modStall (s : State) (p : Nat) (f : Stall → Stall) :
    (modStall s p f).keep = s.keep := by
  unfold modStall
  simp only [keep_mk, keep_eta, keep_ite, ite_self, keep_setStall]

@[simp] theorem keep_setCtx (s : State) (c : Nat) (x : Ctx) :
    (setCtx s c x).keep = s.keep := by
  unfold setCtx
  simp only [keep_mk, keep_eta, keep_ite, ite_self]

@[simp] theorem keep_modCtx (s : State) (c : Nat) (f : Ctx → Ctx) :
    (modCtx s c f).keep = s.keep := by
  unfold modCtx
  simp only [keep_mk, keep_eta, keep_ite, ite_self, keep_setCtx]

@[simp] theorem keep_modRec (s : State) (c : Nat) (f : Rec → Rec) :
    (modRec s c f).keep = s.keep := by
  unfold modRec
  simp only [keep_mk, keep_eta, keep_ite, ite_self]

@[simp] theorem keep_modDrover (s : State) (d : Nat) (f : Drover → Drover) :
    (modDrover s d f).keep = s.keep := by
  unfold modDrover
  simp only [keep_mk, keep_eta, keep_ite, ite_self]

@[simp] theorem keep_modTeam (s : State) (p : Nat) (t : Fin 4) (f : Team → Team) :
    (modTeam s p t f).keep = s.keep := by
  unfold modTeam
  simp only [keep_mk, keep_eta, keep_ite, ite_self, keep_modStall]

@[simp] theorem keep_setLoft (s : State) (p line : Nat) (v : LoftLine) :
    (setLoft s p line v).keep = s.keep := by
  unfold setLoft
  simp only [keep_mk, keep_eta, keep_ite, ite_self]

@[simp] theorem keep_loftWrite (s : State) (p line c : Nat) (words : Line) (mask : Nat) :
    (loftWrite s p line c words mask).keep = s.keep := by
  unfold loftWrite
  simp only [keep_mk, keep_eta, keep_ite, ite_self, keep_setLoft]

@[simp] theorem keep_loftInvalidate (s : State) (f : Nat → Nat → LoftLine → Bool) :
    (loftInvalidate s f).keep = s.keep := by
  unfold loftInvalidate
  simp only [keep_mk, keep_eta, keep_ite, ite_self]

@[simp] theorem keep_send (s : State) (src dst : Node) (net : Net) (c : Nat) (b : Body) :
    (send s src dst net c b).keep = s.keep := by
  unfold send
  simp only [keep_mk, keep_eta, keep_ite, ite_self]

@[simp] theorem keep_dropMsg (s : State) (m : Nat) :
    (dropMsg s m).keep = s.keep := by
  unfold dropMsg
  simp only [keep_mk, keep_eta, keep_ite, ite_self]

@[simp] theorem keep_sendBridle (s : State) (src dst : Node) (c : Nat) (b : Body) :
    (sendBridle s src dst c b).keep = s.keep := by
  unfold sendBridle
  simp only [keep_mk, keep_eta, keep_ite, ite_self, keep_send, keep_yardCount]

@[simp] theorem keep_tick (s : State) :
    (tick s).keep = s.keep := by
  unfold tick
  simp only [keep_mk, keep_eta, keep_ite, ite_self]

@[simp] theorem keep_modPort (s : State) (n : Nat) (f : Port → Port) :
    (modPort s n f).keep = s.keep := by
  unfold modPort
  simp only [keep_mk, keep_eta, keep_ite, ite_self]

@[simp] theorem keep_wireFlit (s : State) (n : Nat) (b : List Byte) (seq : BitVec 16) :
    (wireFlit s n b seq).keep = s.keep := by
  unfold wireFlit
  simp only [keep_mk, keep_eta, keep_ite, ite_self, keep_modPort]

theorem keep_sendOne (s t : State) (n : Nat) (h : sendOne s n = some t) : t.keep = s.keep := by
  unfold sendOne at h
  dsimp only at h
  split at h
  · cases h
  · split at h
    · cases h
    · cases h
      simp

@[simp] theorem keep_pump (k : Nat) (s : State) (n : Nat) : (pump k s n).keep = s.keep := by
  induction k generalizing s with
  | zero => rfl
  | succ k ih =>
    unfold pump
    split
    · rw [ih]
      exact keep_sendOne _ _ _ ‹_›
    · rfl

@[simp] theorem keep_pumpPort (s : State) (n : Nat) : (pumpPort s n).keep = s.keep := keep_pump _ _ _

@[simp] theorem keep_sendPlain (s : State) (n type : Nat) :
    (sendPlain s n type).keep = s.keep := by
  unfold sendPlain
  simp only [keep_mk, keep_eta, keep_ite, ite_self, keep_wireFlit]

@[simp] theorem keep_sendFlit (s : State) (via : Nat) (b : List Byte) :
    (sendFlit s via b).keep = s.keep := by
  unfold sendFlit
  repeat' first
    | (simp only [keep_mk, keep_eta, keep_ite, ite_self, keep_modPort, keep_pumpPort, keep_rlCount]; done)
    | split

@[simp] theorem keep_dbStore (s : State) (type c : Nat) (payload : List Byte) :
    (dbStore s type c payload).keep = s.keep := by
  unfold dbStore
  simp only [keep_mk, keep_eta, keep_ite, ite_self, keep_csrPut]

@[simp] theorem keep_dbAppend (s : State) (type c : Nat) (payload : List Byte) :
    (dbAppend s type c payload).keep = s.keep := by
  unfold dbAppend
  simp only [keep_mk, keep_eta, keep_ite, ite_self, keep_bump, keep_dbStore]

@[simp] theorem keep_dbEpoch (s : State) (c epoch event target : Nat) :
    (dbEpoch s c epoch event target).keep = s.keep := by
  unfold dbEpoch
  simp only [keep_mk, keep_eta, keep_ite, ite_self, keep_dbAppend]

@[simp] theorem keep_dbFault (s : State) (c code lid team handle : Nat) :
    (dbFault s c code lid team handle).keep = s.keep := by
  unfold dbFault
  simp only [keep_mk, keep_eta, keep_ite, ite_self, keep_dbAppend]

@[simp] theorem keep_raiseIrq (s : State) (fn vec : Nat) :
    (raiseIrq s fn vec).keep = s.keep := by
  unfold raiseIrq
  simp only [keep_mk, keep_eta, keep_ite, ite_self]

@[simp] theorem keep_aerError (s : State) (fn : Nat) (e : AerError) :
    (aerError s fn e).keep = s.keep := by
  unfold aerError
  simp only [keep_mk, keep_eta, keep_ite, ite_self]

@[simp] theorem keep_ghRecord (s : State) (r : Nat) (rec_ : List Byte) (irq : Bool) (vf vfVec : Nat) :
    (ghRecord s r rec_ irq vf vfVec).keep = s.keep := by
  unfold ghRecord
  simp only [keep_mk, keep_eta, keep_ite, ite_self, keep_raiseIrq]

@[simp] theorem keep_ghNote (s : State) (ring : Nat) (rec_ : List Byte) :
    (ghNote s ring rec_).keep = s.keep := by
  unfold ghNote
  repeat' first
    | (simp only [keep_mk, keep_eta, keep_ite, ite_self]; done)
    | (with_reducible refine (keep_foldl _ ?_ _ _).trans ?_)
    | intro _
    | split
    | simp only [keep_mk, keep_eta, keep_ite, ite_self]

@[simp] theorem keep_ghDeliver (s : State) (m : Nat) (rec_ : List Byte) (irq : Bool) :
    (ghDeliver s m rec_ irq).keep = s.keep := by
  unfold ghDeliver
  simp only [keep_mk, keep_eta, keep_ite, ite_self, keep_ghNote, keep_ghRecord]

@[simp] theorem keep_emitRecord (s : State) (rec_ : List Byte) (irq : Bool) :
    (emitRecord s rec_ irq).keep = s.keep := by
  unfold emitRecord
  repeat' first
    | (simp only [keep_mk, keep_eta, keep_ite, ite_self, keep_ghDeliver, keep_sendFlit]; done)
    | split

@[simp] theorem keep_reportOstler (s : State) (source code detail c : Nat) :
    (reportOstler s source code detail c).keep = s.keep := by
  unfold reportOstler
  simp only [keep_mk, keep_eta, keep_ite, ite_self]

@[simp] theorem keep_reportFault (s : State) (source code detail c lid team handle : Nat) :
    (reportFault s source code detail c lid team handle).keep = s.keep := by
  unfold reportFault
  simp only [keep_mk, keep_eta, keep_ite, ite_self, keep_dbFault, keep_emitRecord, keep_reportOstler]

@[simp] theorem keep_explain (s : State) (cause : Nat) (involved : List (Nat × W128)) :
    (explain s cause involved).keep = s.keep := by
  unfold explain
  repeat' first
    | (simp only [keep_mk, keep_eta, keep_ite, ite_self]; done)
    | split

@[simp] theorem keep_stallFault (s : State) (p c : Nat) (team : Fin 4) (pc handle action code : Nat) :
    (stallFault s p c team pc handle action code).keep = s.keep := by
  unfold stallFault
  simp only [keep_mk, keep_eta, keep_ite, ite_self, keep_recordFirst, keep_reportFault, keep_yardCount]

@[simp] theorem keep_absentReturn (s : State) (source detail c lid : Nat) :
    (absentReturn s source detail c lid).keep = s.keep := by
  unfold absentReturn
  simp only [keep_mk, keep_eta, keep_ite, ite_self, keep_reportFault, keep_yardCount]

@[simp] theorem keep_trigger (s : State) (c target : Nat) :
    (trigger s c target).keep = s.keep := by
  unfold trigger
  simp only [keep_mk, keep_eta, keep_ite, ite_self, keep_modRec]

@[simp] theorem keep_countDrop (s : State) (p c n : Nat) :
    (countDrop s p c n).keep = s.keep := by
  unfold countDrop
  simp only [keep_mk, keep_eta, keep_ite, ite_self, keep_modStall]

@[simp] theorem keep_writePiece (s : State) (p c : Nat) (pc : Piece) (a : Int) (words : Line) (msk : Nat) :
    (writePiece s p c pc a words msk).keep = s.keep := by
  unfold writePiece
  simp only [keep_mk, keep_eta, keep_ite, ite_self, keep_countDrop, keep_loftWrite]

@[simp] theorem keep_modLive (s : State) (p : Nat) (f : StallCtx → StallCtx) :
    (modLive s p f).keep = s.keep := by
  unfold modLive
  simp only [keep_mk, keep_eta, keep_ite, ite_self, keep_modStall]

@[simp] theorem keep_modStallCtx (s : State) (c l : Nat) (f : StallCtx → StallCtx) :
    (modStallCtx s c l f).keep = s.keep := by
  unfold modStallCtx
  repeat' first
    | (simp only [keep_mk, keep_eta, keep_ite, ite_self, keep_modCtx, keep_modLive]; done)
    | split

@[simp] theorem keep_modEntry (s : State) (p n : Nat) (f : Entry → Entry) :
    (modEntry s p n f).keep = s.keep := by
  unfold modEntry
  simp only [keep_mk, keep_eta, keep_ite, ite_self, keep_modStall]

@[simp] theorem keep_dropEntry (s : State) (p n : Nat) :
    (dropEntry s p n).keep = s.keep := by
  unfold dropEntry
  simp only [keep_mk, keep_eta, keep_ite, ite_self, keep_modStall]

@[simp] theorem keep_modCached (s : State) (p h : Nat) (f : HEntry → HEntry) :
    (modCached s p h f).keep = s.keep := by
  unfold modCached
  simp only [keep_mk, keep_eta, keep_ite, ite_self, keep_modStall]

@[simp] theorem keep_cacheHandle (s : State) (p c h : Nat) :
    (cacheHandle s p c h).keep = s.keep := by
  unfold cacheHandle
  simp only [keep_mk, keep_eta, keep_ite, ite_self, keep_modStall]

@[simp] theorem keep_poisonLocal (s : State) (p c h : Nat) :
    (poisonLocal s p c h).keep = s.keep := by
  unfold poisonLocal
  simp only [keep_mk, keep_eta, keep_ite, ite_self, keep_cacheHandle, keep_modCached, keep_modCtx]

@[simp] theorem keep_startFetch (s : State) (p c h : Nat) :
    (startFetch s p c h).keep = s.keep := by
  unfold startFetch
  simp only [keep_mk, keep_eta, keep_ite, ite_self, keep_sendBridle]

@[simp] theorem keep_poisonDest (s : State) (p c : Nat) (w : W128) :
    (poisonDest s p c w).keep = s.keep := by
  unfold poisonDest
  simp only [keep_mk, keep_eta, keep_ite, ite_self, keep_modStall, keep_poisonLocal]

@[simp] theorem keep_noteHalt (s : State) (p c : Nat) (t : Fin 4) (code : Nat) :
    (noteHalt s p c t code).keep = s.keep := by
  unfold noteHalt
  simp only [keep_mk, keep_eta, keep_ite, ite_self, keep_modCtx]

@[simp] theorem keep_teamFault (s : State) (p c : Nat) (t : Fin 4) (w : W128) (code handle : Nat) :
    (teamFault s p c t w code handle).keep = s.keep := by
  unfold teamFault
  simp only [keep_mk, keep_eta, keep_ite, ite_self, keep_explain, keep_modStall, keep_modTeam, keep_noteHalt,
                keep_poisonDest, keep_stallFault, keep_trigger]

@[simp] theorem keep_teamBlock (s : State) (p : Nat) (t : Fin 4) (cause : Nat) :
    (teamBlock s p t cause).keep = s.keep := by
  unfold teamBlock
  simp only [keep_mk, keep_eta, keep_ite, ite_self, keep_modTeam]

@[simp] theorem keep_noteFirst (s : State) (c : Nat) :
    (noteFirst s c).keep = s.keep := by
  unfold noteFirst
  repeat' first
    | (simp only [keep_mk, keep_eta, keep_ite, ite_self, keep_modCtx]; done)
    | split

@[simp] theorem keep_issued (s : State) (p : Nat) (t : Fin 4) :
    (issued s p t).keep = s.keep := by
  unfold issued
  simp only [keep_mk, keep_eta, keep_ite, ite_self, keep_modStall]

@[simp] theorem keep_issueCore (s : State) (p : Nat) (t : Fin 4) (op : Nat) (go : State → W128 → Nat → State) (hgo : ∀ v0 v1 v2, (go v0 v1 v2).keep = v0.keep) :
    (issueCore s p t op go).keep = s.keep := by
  unfold issueCore
  repeat' first
    | (simp only [keep_mk, keep_eta, keep_ite, ite_self, keep_modLive, keep_noteFirst, keep_startFetch,
                    keep_teamBlock, keep_teamFault, hgo]; done)
    | split

@[simp] theorem keep_issueOp (s : State) (p : Nat) (t : Fin 4) (op : Nat) (run : State → W128 → Nat → State) (hrun : ∀ v0 v1 v2, (run v0 v1 v2).keep = v0.keep) :
    (issueOp s p t op run).keep = s.keep := by
  unfold issueOp
  repeat' first
    | (simp only [keep_mk, keep_eta, keep_ite, ite_self, keep_issueCore, keep_issued, hrun]; done)
    | (with_reducible refine (keep_foldl _ ?_ _ _).trans ?_)
    | intro _
    | (simp [keep_eta, hrun]; done)
    | split
    | simp only [keep_mk, keep_eta, keep_ite, ite_self, keep_issueCore, keep_issued, hrun]

@[simp] theorem keep_openEpoch (s : State) (c reruns : Nat) :
    (openEpoch s c reruns).keep = s.keep := by
  unfold openEpoch
  simp only [keep_mk, keep_eta, keep_ite, ite_self, keep_dbEpoch, keep_modRec]

@[simp] theorem keep_ensureEpoch (s : State) (c : Nat) :
    (ensureEpoch s c).keep = s.keep := by
  unfold ensureEpoch
  simp only [keep_mk, keep_eta, keep_ite, ite_self, keep_openEpoch]

@[simp] theorem keep_lateFence (s : State) (p : Nat) :
    (lateFence s p).keep = s.keep := by
  unfold lateFence
  simp only [keep_mk, keep_eta, keep_ite, ite_self, keep_bump]

@[simp] theorem keep_takeEntry (s : State) (p : Nat) (t : Fin 4) (w : W128) (c : Nat) (eng : Engine) (start : Bool) :
    (takeEntry s p t w c eng start).1.keep = s.keep := by
  unfold takeEntry
  simp only [keep_mk, keep_eta, keep_ite, ite_self, keep_ensureEpoch, keep_modCached, keep_modStall]

@[simp] theorem keep_parityFailed (s : State) (p line words : Nat) (background : Bool) :
    (parityFailed s p line words background).keep = s.keep := by
  unfold parityFailed
  simp only [keep_mk, keep_eta, keep_ite, ite_self, keep_bump, keep_modRec, keep_recordFirst, keep_reportFault,
                keep_trigger]

@[simp] theorem keep_parityRead (s : State) (p c line : Nat) :
    (parityRead s p c line).keep = s.keep := by
  unfold parityRead
  repeat' first
    | (simp only [keep_mk, keep_eta, keep_ite, ite_self, keep_parityFailed]; done)
    | (with_reducible refine (keep_foldl _ ?_ _ _).trans ?_)
    | intro _
    | split
    | simp only [keep_mk, keep_eta, keep_ite, ite_self, keep_parityFailed]

@[simp] theorem keep_parityPiece (s : State) (p c : Nat) (pc : Piece) (as_ : List Int) :
    (parityPiece s p c pc as_).keep = s.keep := by
  unfold parityPiece
  repeat' first
    | (simp only [keep_mk, keep_eta, keep_ite, ite_self, keep_parityRead]; done)
    | (with_reducible refine (keep_foldl _ ?_ _ _).trans ?_)
    | intro _
    | split

@[simp] theorem keep_settleDest (s : State) (p c : Nat) (e : Entry) :
    (settleDest s p c e).keep = s.keep := by
  unfold settleDest
  repeat' first
    | (simp only [keep_mk, keep_eta, keep_ite, ite_self, keep_modCached, keep_poisonDest]; done)
    | split

@[simp] theorem keep_localIssue (eng : Engine) (p : Nat) (t : Fin 4) (s : State) (w : W128) (c : Nat) :
    (localIssue eng p t s w c).keep = s.keep := by
  unfold localIssue
  simp only [keep_mk, keep_eta, keep_ite, ite_self, keep_takeEntry]

@[simp] theorem keep_putEntryLine (s : State) (p : Nat) (e : Entry) (pc : Piece) (a : Int) (l : Line) :
    (putEntryLine s p e pc a l).keep = s.keep := by
  unfold putEntryLine
  repeat' first
    | (simp only [keep_mk, keep_eta, keep_ite, ite_self, keep_writePiece]; done)
    | split

@[simp] theorem keep_freeLines (s : State) (p c : Nat) (ls : List Nat) :
    (freeLines s p c ls).keep = s.keep := by
  unfold freeLines
  repeat' first
    | (simp only [keep_mk, keep_eta, keep_ite, ite_self, keep_draw, keep_loftWrite]; done)
    | (with_reducible refine (keep_foldl _ ?_ _ _).trans ?_)
    | intro _
    | split

@[simp] theorem keep_noteWrites (s : State) (p n : Nat) (pc : Piece) (as_ : List Int) :
    (noteWrites s p n pc as_).keep = s.keep := by
  unfold noteWrites
  simp only [keep_mk, keep_eta, keep_ite, ite_self, keep_modEntry]

@[simp] theorem keep_teIter (f : TeArg → Nat → List Nat → List Nat) (p : Nat) (e : Entry) (img : Image) (da dd : HDecl) (pa pd : Piece) (a d : Int) (s : State) :
    (teIter f p e img da dd pa pd a d s).keep = s.keep := by
  unfold teIter
  repeat' first
    | (simp only [keep_mk, keep_eta, keep_ite, ite_self, keep_countDrop, keep_freeLines, keep_parityPiece,
                    keep_putEntryLine]; done)
    | (with_reducible refine (keep_foldl _ ?_ _ _).trans ?_)
    | intro _
    | split
    | simp only [keep_mk, keep_eta, keep_ite, ite_self, keep_countDrop, keep_freeLines, keep_parityPiece,
                    keep_putEntryLine]

@[simp] theorem keep_teRun (f : TeArg → Nat → List Nat → List Nat) (lim : Option Nat) (p n : Nat) (e : Entry) (s : State) :
    (teRun f lim p n e s).keep = s.keep := by
  unfold teRun
  repeat' first
    | (simp only [keep_mk, keep_eta, keep_ite, ite_self, keep_freeLines, keep_noteWrites, keep_teIter]; done)
    | (with_reducible refine (keep_foldl _ ?_ _ _).trans ?_)
    | intro _
    | split
    | simp only [keep_mk, keep_eta, keep_ite, ite_self, keep_freeLines, keep_noteWrites, keep_teIter]

@[simp] theorem keep_sendBulk (s : State) (src dst : Node) (net : Net) (c : Nat) (b : Body) (lines : Nat) :
    (sendBulk s src dst net c b lines).keep = s.keep := by
  unfold sendBulk
  simp only [keep_mk, keep_eta, keep_ite, ite_self, keep_send, keep_yardCount]

@[simp] theorem keep_sendWaiting (s : State) (p n : Nat) (dst : Node) (c : Nat) (b : Body) (lines : Nat) (isWrite : Bool) :
    (sendWaiting s p n dst c b lines isWrite).keep = s.keep := by
  unfold sendWaiting
  simp only [keep_mk, keep_eta, keep_ite, ite_self, keep_modEntry, keep_modStall, keep_sendBulk]

@[simp] theorem keep_carryPoison (s : State) (p n : Nat) (w : W128) :
    (carryPoison s p n w).keep = s.keep := by
  unfold carryPoison
  simp only [keep_mk, keep_eta, keep_ite, ite_self, keep_modEntry]

@[simp] theorem keep_landLoad (s : State) (p n : Nat) :
    (landLoad s p n).keep = s.keep := by
  unfold landLoad
  repeat' first
    | (simp only [keep_mk, keep_eta, keep_ite, ite_self, keep_modEntry, keep_noteWrites, keep_recCount,
                    keep_stallFault, keep_trigger, keep_writePiece, keep_yardCount]; done)
    | (with_reducible refine (keep_foldl _ ?_ _ _).trans ?_)
    | intro _
    | split
    | simp only [keep_mk, keep_eta, keep_ite, ite_self, keep_modEntry, keep_noteWrites, keep_recCount,
                    keep_stallFault, keep_trigger, keep_writePiece, keep_yardCount]

@[simp] theorem keep_ctLoadRun (p : Nat) (t : Fin 4) (s : State) (w : W128) (c : Nat) :
    (ctLoadRun p t s w c).keep = s.keep := by
  unfold ctLoadRun
  repeat' first
    | (simp only [keep_mk, keep_eta, keep_ite, ite_self, keep_carryPoison, keep_landLoad, keep_modEntry,
                    keep_sendWaiting, keep_takeEntry]; done)
    | (have hk := congrArg (fun x => State.keep (Prod.fst x)) ‹_ = (_, _)›
       simp only [keep_mk, keep_eta, keep_ite, ite_self, keep_carryPoison, keep_landLoad, keep_modEntry,
                    keep_sendWaiting, keep_takeEntry] at hk
       simp only [keep_mk, keep_eta, keep_ite, ite_self, keep_carryPoison, keep_landLoad, keep_modEntry,
                    keep_sendWaiting, keep_takeEntry, ← hk]; done)
    | (have hk := congrArg (fun x => State.keep (Prod.snd x)) ‹_ = (_, _)›
       simp only [keep_mk, keep_eta, keep_ite, ite_self, keep_carryPoison, keep_landLoad, keep_modEntry,
                    keep_sendWaiting, keep_takeEntry] at hk
       simp only [keep_mk, keep_eta, keep_ite, ite_self, keep_carryPoison, keep_landLoad, keep_modEntry,
                    keep_sendWaiting, keep_takeEntry, ← hk]; done)
    | (with_reducible refine (keep_foldl _ ?_ _ _).trans ?_)
    | intro _
    | split
    | simp only [keep_mk, keep_eta, keep_ite, ite_self, keep_carryPoison, keep_landLoad, keep_modEntry,
                    keep_sendWaiting, keep_takeEntry]

@[simp] theorem keep_sendSlots (s : State) (p n : Nat) (c : Nat) (op : GrnOp) (poison : Bool) (ls : List (Nat × Line)) :
    (sendSlots s p n c op poison ls).keep = s.keep := by
  unfold sendSlots
  repeat' first
    | (simp only [keep_mk, keep_eta, keep_ite, ite_self, keep_sendWaiting]; done)
    | (with_reducible refine (keep_foldl _ ?_ _ _).trans ?_)
    | intro _
    | split
    | simp only [keep_mk, keep_eta, keep_ite, ite_self, keep_sendWaiting]

@[simp] theorem keep_ctStoreRun (p : Nat) (t : Fin 4) (s : State) (w : W128) (c : Nat) :
    (ctStoreRun p t s w c).keep = s.keep := by
  unfold ctStoreRun
  repeat' first
    | (simp only [keep_mk, keep_eta, keep_ite, ite_self, keep_carryPoison, keep_countDrop, keep_parityPiece,
                    keep_sendSlots, keep_sendWaiting, keep_takeEntry]; done)
    | (have hk := congrArg (fun x => State.keep (Prod.fst x)) ‹_ = (_, _)›
       simp only [keep_mk, keep_eta, keep_ite, ite_self, keep_carryPoison, keep_countDrop, keep_parityPiece,
                    keep_sendSlots, keep_sendWaiting, keep_takeEntry] at hk
       simp only [keep_mk, keep_eta, keep_ite, ite_self, keep_carryPoison, keep_countDrop, keep_parityPiece,
                    keep_sendSlots, keep_sendWaiting, keep_takeEntry, ← hk]; done)
    | (have hk := congrArg (fun x => State.keep (Prod.snd x)) ‹_ = (_, _)›
       simp only [keep_mk, keep_eta, keep_ite, ite_self, keep_carryPoison, keep_countDrop, keep_parityPiece,
                    keep_sendSlots, keep_sendWaiting, keep_takeEntry] at hk
       simp only [keep_mk, keep_eta, keep_ite, ite_self, keep_carryPoison, keep_countDrop, keep_parityPiece,
                    keep_sendSlots, keep_sendWaiting, keep_takeEntry, ← hk]; done)
    | (with_reducible refine (keep_foldl _ ?_ _ _).trans ?_)
    | intro _
    | split
    | simp only [keep_mk, keep_eta, keep_ite, ite_self, keep_carryPoison, keep_countDrop, keep_parityPiece,
                    keep_sendSlots, keep_sendWaiting, keep_takeEntry]

@[simp] theorem keep_ctAtomRun (p : Nat) (t : Fin 4) (s : State) (w : W128) (c : Nat) :
    (ctAtomRun p t s w c).keep = s.keep := by
  unfold ctAtomRun
  repeat' first
    | (simp only [keep_mk, keep_eta, keep_ite, ite_self, keep_carryPoison, keep_countDrop, keep_grnCount,
                    keep_modEntry, keep_parityPiece, keep_sendSlots, keep_stallFault, keep_takeEntry]; done)
    | (have hk := congrArg (fun x => State.keep (Prod.fst x)) ‹_ = (_, _)›
       simp only [keep_mk, keep_eta, keep_ite, ite_self, keep_carryPoison, keep_countDrop, keep_grnCount,
                    keep_modEntry, keep_parityPiece, keep_sendSlots, keep_stallFault, keep_takeEntry] at hk
       simp only [keep_mk, keep_eta, keep_ite, ite_self, keep_carryPoison, keep_countDrop, keep_grnCount,
                    keep_modEntry, keep_parityPiece, keep_sendSlots, keep_stallFault, keep_takeEntry, ← hk]; done)
    | (have hk := congrArg (fun x => State.keep (Prod.snd x)) ‹_ = (_, _)›
       simp only [keep_mk, keep_eta, keep_ite, ite_self, keep_carryPoison, keep_countDrop, keep_grnCount,
                    keep_modEntry, keep_parityPiece, keep_sendSlots, keep_stallFault, keep_takeEntry] at hk
       simp only [keep_mk, keep_eta, keep_ite, ite_self, keep_carryPoison, keep_countDrop, keep_grnCount,
                    keep_modEntry, keep_parityPiece, keep_sendSlots, keep_stallFault, keep_takeEntry, ← hk]; done)
    | (with_reducible refine (keep_foldl _ ?_ _ _).trans ?_)
    | intro _
    | split
    | simp only [keep_mk, keep_eta, keep_ite, ite_self, keep_carryPoison, keep_countDrop, keep_grnCount,
                    keep_modEntry, keep_parityPiece, keep_sendSlots, keep_stallFault, keep_takeEntry]

@[simp] theorem keep_recordAbsent (s : State) (p : Nat) (e : Entry) :
    (recordAbsent s p e).keep = s.keep := by
  unfold recordAbsent
  simp only [keep_mk, keep_eta, keep_ite, ite_self, keep_stallFault, keep_yardCount]

@[simp] theorem keep_engineAbsent (s : State) (p n : Nat) (e : Entry) :
    (engineAbsent s p n e).keep = s.keep := by
  unfold engineAbsent
  simp only [keep_mk, keep_eta, keep_ite, ite_self, keep_modEntry, keep_recordAbsent]

@[simp] theorem keep_ctCopyRun (p : Nat) (t : Fin 4) (s : State) (w : W128) (c : Nat) :
    (ctCopyRun p t s w c).keep = s.keep := by
  unfold ctCopyRun
  repeat' first
    | (simp only [keep_mk, keep_eta, keep_ite, ite_self, keep_carryPoison, keep_engineAbsent, keep_sendWaiting,
                    keep_takeEntry]; done)
    | (have hk := congrArg (fun x => State.keep (Prod.fst x)) ‹_ = (_, _)›
       simp only [keep_mk, keep_eta, keep_ite, ite_self, keep_carryPoison, keep_engineAbsent, keep_sendWaiting,
                    keep_takeEntry] at hk
       simp only [keep_mk, keep_eta, keep_ite, ite_self, keep_carryPoison, keep_engineAbsent, keep_sendWaiting,
                    keep_takeEntry, ← hk]; done)
    | (have hk := congrArg (fun x => State.keep (Prod.snd x)) ‹_ = (_, _)›
       simp only [keep_mk, keep_eta, keep_ite, ite_self, keep_carryPoison, keep_engineAbsent, keep_sendWaiting,
                    keep_takeEntry] at hk
       simp only [keep_mk, keep_eta, keep_ite, ite_self, keep_carryPoison, keep_engineAbsent, keep_sendWaiting,
                    keep_takeEntry, ← hk]; done)
    | (with_reducible refine (keep_foldl _ ?_ _ _).trans ?_)
    | intro _
    | split
    | simp only [keep_mk, keep_eta, keep_ite, ite_self, keep_carryPoison, keep_engineAbsent, keep_sendWaiting,
                    keep_takeEntry]

@[simp] theorem keep_ctGatherRun (lim : Option Nat) (p n : Nat) (e : Entry) (s : State) :
    (ctGatherRun lim p n e s).keep = s.keep := by
  unfold ctGatherRun
  repeat' first
    | (simp only [keep_mk, keep_eta, keep_ite, ite_self, keep_noteWrites, keep_parityPiece, keep_putEntryLine]; done)
    | (with_reducible refine (keep_foldl _ ?_ _ _).trans ?_)
    | intro _
    | split
    | simp only [keep_mk, keep_eta, keep_ite, ite_self, keep_noteWrites, keep_parityPiece, keep_putEntryLine]

@[simp] theorem keep_ctScatterRun (acc : Bool) (lim : Option Nat) (p n : Nat) (e : Entry) (s : State) :
    (ctScatterRun acc lim p n e s).keep = s.keep := by
  unfold ctScatterRun
  repeat' first
    | (simp only [keep_mk, keep_eta, keep_ite, ite_self, keep_countDrop, keep_noteWrites, keep_parityPiece,
                    keep_writePiece]; done)
    | (with_reducible refine (keep_foldl _ ?_ _ _).trans ?_)
    | intro _
    | split

@[simp] theorem keep_ctFillRun (lim : Option Nat) (p n : Nat) (e : Entry) (s : State) :
    (ctFillRun lim p n e s).keep = s.keep := by
  unfold ctFillRun
  repeat' first
    | (simp only [keep_mk, keep_eta, keep_ite, ite_self, keep_noteWrites, keep_putEntryLine]; done)
    | (with_reducible refine (keep_foldl _ ?_ _ _).trans ?_)
    | intro _
    | split
    | simp only [keep_mk, keep_eta, keep_ite, ite_self, keep_noteWrites, keep_putEntryLine]

end Sys2Proof.Machine
end

