-- ==== Sys2Proof/Laws/Keep2.lean ====
section
/-!
SUPPORT. The queue, and state and logical ID of every position, are kept by the operations of: Hbm, Peer,
MatrixArray, ElementEngine, Tack.
-/

namespace Sys2Proof.Machine

set_option linter.unusedSimpArgs false
set_option linter.unusedTactic false
set_option linter.unreachableTactic false

@[simp] theorem keep_modRegion (s : State) (i : Nat) (f : Region → Region) :
    (modRegion s i f).keep = s.keep := by
  unfold modRegion
  simp only [keep_mk, keep_eta, keep_ite, ite_self]

@[simp] theorem keep_modSlot (s : State) (page : Nat) (f : Slot → Slot) :
    (modSlot s page f).keep = s.keep := by
  unfold modSlot
  simp only [keep_mk, keep_eta, keep_ite, ite_self]

@[simp] theorem keep_setGpoison (s : State) (g : Nat) (v : Bool) :
    (setGpoison s g v).keep = s.keep := by
  unfold setGpoison
  simp only [keep_mk, keep_eta, keep_ite, ite_self, keep_modSlot]

@[simp] theorem keep_rowFails (s : State) (g : Nat) :
    (rowFails s g).keep = s.keep := by
  unfold rowFails
  simp only [keep_mk, keep_eta, keep_ite, ite_self]

@[simp] theorem keep_innerFix (s : State) (g : Nat) :
    (innerFix s g).keep = s.keep := by
  unfold innerFix
  simp only [keep_mk, keep_eta, keep_ite, ite_self, keep_hbmCount, keep_rowFails]

@[simp] theorem keep_rowErrors (s : State) (r : Region) (g : Nat) (e : MemErr) :
    (rowErrors s r g e).keep = s.keep := by
  unfold rowErrors
  simp only [keep_mk, keep_eta, keep_ite, ite_self, keep_innerFix, keep_rowFails]

@[simp] theorem keep_memFault (s : State) (g : Nat) (owner code retries : Nat) (slot : Bool) (own : Bool) :
    (memFault s g owner code retries slot own).keep = s.keep := by
  unfold memFault
  simp only [keep_mk, keep_eta, keep_ite, ite_self, keep_recordFirst, keep_reportFault, keep_trigger]

@[simp] theorem keep_freeGranule (s : State) :
    (freeGranule s).2.keep = s.keep := by
  unfold freeGranule
  simp only [keep_mk, keep_eta, keep_ite, ite_self, keep_draw]

@[simp] theorem keep_decodeFault (s : State) (g owner i code : Nat) (e : MemErr) (slot own : Bool) :
    (decodeFault s g owner i code e slot own).2.2.keep = s.keep := by
  unfold decodeFault
  simp only [keep_mk, keep_eta, keep_ite, ite_self, keep_freeGranule, keep_hbmCount, keep_memFault]

@[simp] theorem keep_readGranule (s : State) (r : Region) (g : Nat) (e : MemErr) (own : Bool) :
    (readGranule s r g e own).2.2.keep = s.keep := by
  unfold readGranule
  repeat' first
    | (simp only [keep_mk, keep_eta, keep_ite, ite_self, keep_decodeFault, keep_freeGranule, keep_hbmCount,
                    keep_memFault, keep_rowErrors]; done)
    | split

@[simp] theorem keep_noteRead (s : State) (g : Nat) :
    (noteRead s g).keep = s.keep := by
  unfold noteRead
  simp only [keep_mk, keep_eta, keep_ite, ite_self]

@[simp] theorem keep_readRequest (s : State) (r : Region) (g : Nat) (e : MemErr) (own : Bool) :
    (readRequest s r g e own).2.2.keep = s.keep := by
  unfold readRequest
  simp only [keep_mk, keep_eta, keep_ite, ite_self, keep_noteRead, keep_readGranule]

@[simp] theorem keep_readFor (s : State) (owner g : Nat) (e : MemErr) (own : Bool) :
    (readFor s owner g e own).2.2.keep = s.keep := by
  unfold readFor
  repeat' first
    | (simp only [keep_mk, keep_eta, keep_ite, ite_self, keep_hbmCount, keep_readRequest]; done)
    | split

@[simp] theorem keep_putGranule (s : State) (g : Nat) (d : List Byte) (poison : Bool) :
    (putGranule s g d poison).keep = s.keep := by
  unfold putGranule
  simp only [keep_mk, keep_eta, keep_ite, ite_self, keep_setGpoison]

@[simp] theorem keep_sendGranule (s : State) (g : Nat) (d : List Byte) (poison : Bool) (e : MemErr) (own : Bool) :
    (sendGranule s g d poison e own).keep = s.keep := by
  unfold sendGranule
  repeat' first
    | (simp only [keep_mk, keep_eta, keep_ite, ite_self, keep_freeGranule, keep_hbmCount, keep_memFault,
                    keep_modRegion, keep_putGranule, keep_setGpoison]; done)
    | split

@[simp] theorem keep_writeGranule (s : State) (g : Nat) (bs : List (Nat × Byte)) (poison : Bool) (e : MemErr) (own : Bool) :
    (writeGranule s g bs poison e own).keep = s.keep := by
  unfold writeGranule
  simp only [keep_mk, keep_eta, keep_ite, ite_self, keep_sendGranule]

@[simp] theorem keep_storeBytes (s : State) (bs : List Host.Cell) (poison : Bool) (errs : MemErrs) (own : Bool) :
    (storeBytes s bs poison errs own).keep = s.keep := by
  unfold storeBytes
  repeat' first
    | (simp only [keep_mk, keep_eta, keep_ite, ite_self, keep_writeGranule]; done)
    | (with_reducible refine (keep_foldl _ ?_ _ _).trans ?_)
    | intro _
    | split

@[simp] theorem keep_writeBytes (s : State) (bs : List Host.Cell) (poison : Bool) :
    (writeBytes s bs poison).keep = s.keep := by
  unfold writeBytes
  simp only [keep_mk, keep_eta, keep_ite, ite_self, keep_storeBytes]

@[simp] theorem keep_storeLines (s : State) (d : HDecl) (base : Nat) (lines : List (Nat × Line)) (poison : Bool) (rec_ : W128) (errs : MemErrs) (own : Bool) :
    (storeLines s d base lines poison rec_ errs own).keep = s.keep := by
  unfold storeLines
  simp only [keep_mk, keep_eta, keep_ite, ite_self, keep_modSlot, keep_storeBytes]

@[simp] theorem keep_storeBlock (s : State) (d : HDecl) (base : Nat) (lines : List (Nat × Line)) (poison : Bool) (rec_ : W128) :
    (storeBlock s d base lines poison rec_).keep = s.keep := by
  unfold storeBlock
  simp only [keep_mk, keep_eta, keep_ite, ite_self, keep_storeLines]

@[simp] theorem keep_tallyRead (page : Nat) (errs : MemErrs) (s : State) (g : Nat) :
    (tallyRead page errs s g).keep = s.keep := by
  unfold tallyRead
  repeat' first
    | (simp only [keep_mk, keep_eta, keep_ite, ite_self, keep_draw, keep_modSlot, keep_readGranule, keep_setGpoison]; done)
    | split

@[simp] theorem keep_copyPage (errs : MemErrs) (s : State) (x : Nat) :
    (copyPage errs s x).keep = s.keep := by
  unfold copyPage
  repeat' first
    | (simp only [keep_mk, keep_eta, keep_ite, ite_self, keep_readGranule, keep_setGpoison]; done)
    | (with_reducible refine (keep_foldl _ ?_ _ _).trans ?_)
    | intro _
    | split
    | simp only [keep_mk, keep_eta, keep_ite, ite_self, keep_readGranule, keep_setGpoison]

@[simp] theorem keep_wipeRegion (s : State) (x : Region) :
    (wipeRegion s x).keep = s.keep := by
  unfold wipeRegion
  simp only [keep_mk, keep_eta, keep_ite, ite_self]

@[simp] theorem keep_freeRegions (s : State) (owner : Nat) :
    (freeRegions s owner).keep = s.keep := by
  unfold freeRegions
  simp only [keep_mk, keep_eta, keep_ite, ite_self]

@[simp] theorem keep_writeLoop (s : State) (st : Nat) (value : W64) :
    (writeLoop s st value).keep = s.keep := by
  unfold writeLoop
  simp only [keep_mk, keep_eta, keep_ite, ite_self, keep_csrSetField]

@[simp] theorem keep_modFlow (s : State) (c dst job : Nat) (g : Flow → Flow) :
    (modFlow s c dst job g).keep = s.keep := by
  unfold modFlow
  simp only [keep_mk, keep_eta, keep_ite, ite_self, keep_modRec]

@[simp] theorem keep_countDseq (s : State) (dst job : Nat) :
    (countDseq s dst job).keep = s.keep := by
  unfold countDseq
  simp only [keep_mk, keep_eta, keep_ite, ite_self]

@[simp] theorem keep_sendPeer (s : State) (c id pos : Nat) (slot : Nat) (op : GrnOp) (lines : List Line) (poison : Bool) (tally : Option Nat) (epoch : Nat) :
    (sendPeer s c id pos slot op lines poison tally epoch).keep = s.keep := by
  unfold sendPeer
  repeat' first
    | (simp only [keep_mk, keep_eta, keep_ite, ite_self, keep_countDseq, keep_modFlow, keep_sendFlit]; done)
    | split

@[simp] theorem keep_sendCommit (s : State) (c dst job epoch : Nat) :
    (sendCommit s c dst job epoch).keep = s.keep := by
  unfold sendCommit
  simp only [keep_mk, keep_eta, keep_ite, ite_self, keep_countDseq, keep_modFlow, keep_sendFlit]

@[simp] theorem keep_sendCommits (s : State) (c epoch : Nat) :
    (sendCommits s c epoch).keep = s.keep := by
  unfold sendCommits
  repeat' first
    | (simp only [keep_mk, keep_eta, keep_ite, ite_self, keep_sendCommit]; done)
    | (with_reducible refine (keep_foldl _ ?_ _ _).trans ?_)
    | intro _
    | split

@[simp] theorem keep_sendRevokes (s : State) (c epoch : Nat) :
    (sendRevokes s c epoch).keep = s.keep := by
  unfold sendRevokes
  repeat' first
    | (simp only [keep_mk, keep_eta, keep_ite, ite_self, keep_countDseq, keep_modFlow, keep_rlDevCount, keep_sendFlit]; done)
    | (with_reducible refine (keep_foldl _ ?_ _ _).trans ?_)
    | intro _
    | split

@[simp] theorem keep_ackSent (s : State) (c dst job dseq : Nat) (poison : Bool) :
    (ackSent s c dst job dseq poison).keep = s.keep := by
  unfold ackSent
  repeat' first
    | (simp only [keep_mk, keep_eta, keep_ite, ite_self, keep_modFlow, keep_send, keep_trigger]; done)
    | (with_reducible refine (keep_foldl _ ?_ _ _).trans ?_)
    | intro _
    | split
    | simp only [keep_mk, keep_eta, keep_ite, ite_self, keep_modFlow, keep_send, keep_trigger]

@[simp] theorem keep_maMacRun (zero : Bool) (p : Nat) (e : Entry) (s : State) :
    (maMacRun zero p e s).keep = s.keep := by
  unfold maMacRun
  simp only [keep_mk, keep_eta, keep_ite, ite_self, keep_modStall, keep_parityPiece]

@[simp] theorem keep_maRestore (p : Nat) (s : State) :
    (maRestore p s).keep = s.keep := by
  unfold maRestore
  simp only [keep_mk, keep_eta, keep_ite, ite_self, keep_modStall]

@[simp] theorem keep_maDrainRun (lim : Option Nat) (p n : Nat) (e : Entry) (s : State) :
    (maDrainRun lim p n e s).keep = s.keep := by
  unfold maDrainRun
  repeat' first
    | (simp only [keep_mk, keep_eta, keep_ite, ite_self, keep_drawMany, keep_modEntry, keep_modStall, keep_noteWrites,
                    keep_putEntryLine]; done)
    | (with_reducible refine (keep_foldl _ ?_ _ _).trans ?_)
    | intro _
    | split
    | simp only [keep_mk, keep_eta, keep_ite, ite_self, keep_drawMany, keep_modEntry, keep_modStall, keep_noteWrites,
                    keep_putEntryLine]

@[simp] theorem keep_maFormRun (p : Nat) (e : Entry) (s : State) :
    (maFormRun p e s).keep = s.keep := by
  unfold maFormRun
  simp only [keep_mk, keep_eta, keep_ite, ite_self, keep_modStall]

@[simp] theorem keep_eeData (lim : Option Nat) (p n : Nat) (e : Entry) (tiles : List Line) (s : State) :
    (eeData lim p n e tiles s).keep = s.keep := by
  unfold eeData
  repeat' first
    | (simp only [keep_mk, keep_eta, keep_ite, ite_self, keep_countDrop, keep_noteWrites, keep_parityPiece,
                    keep_putEntryLine]; done)
    | (with_reducible refine (keep_foldl _ ?_ _ _).trans ?_)
    | intro _
    | split
    | simp only [keep_mk, keep_eta, keep_ite, ite_self, keep_countDrop, keep_noteWrites, keep_parityPiece,
                    keep_putEntryLine]

@[simp] theorem keep_eeRun (lim : Option Nat) (p n : Nat) (e : Entry) (s : State) :
    (eeRun lim p n e s).keep = s.keep := by
  unfold eeRun
  simp only [keep_mk, keep_eta, keep_ite, ite_self, keep_eeData, keep_modEntry, keep_modStall]

@[simp] theorem keep_modTack (s : State) (f : Tack → Tack) :
    (modTack s f).keep = s.keep := by
  unfold modTack
  simp only [keep_mk, keep_eta, keep_ite, ite_self]

@[simp] theorem keep_extendMr (s : State) (i : Nat) (d : List Byte) :
    (extendMr s i d).keep = s.keep := by
  unfold extendMr
  simp only [keep_mk, keep_eta, keep_ite, ite_self, keep_modTack]

@[simp] theorem keep_setCmr (s : State) (c : Nat) (d : List Byte) :
    (setCmr s c d).keep = s.keep := by
  unfold setCmr
  simp only [keep_mk, keep_eta, keep_ite, ite_self, keep_modTack]

@[simp] theorem keep_deriveFwKeys (s : State) :
    (deriveFwKeys s).keep = s.keep := by
  unfold deriveFwKeys
  simp only [keep_mk, keep_eta, keep_ite, ite_self, keep_modTack]

@[simp] theorem keep_issueCert (s : State) :
    (issueCert s).keep = s.keep := by
  unfold issueCert
  simp only [keep_mk, keep_eta, keep_ite, ite_self, keep_modTack]

@[simp] theorem keep_setGateSlot (s : State) (g : Nat) (x : GateSlot) :
    (setGateSlot s g x).keep = s.keep := by
  unfold setGateSlot
  simp only [keep_mk, keep_eta, keep_ite, ite_self, keep_modTack]

@[simp] theorem keep_writeWhole (s : State) (a : Nat) (bs : List Byte) :
    (writeWhole s a bs).keep = s.keep := by
  unfold writeWhole
  repeat' first
    | (simp only [keep_mk, keep_eta, keep_ite, ite_self, keep_setGpoison]; done)
    | (with_reducible refine (keep_foldl _ ?_ _ _).trans ?_)
    | intro _
    | split

@[simp] theorem keep_wipeSlot (s : State) (g : Nat) :
    (wipeSlot s g).keep = s.keep := by
  unfold wipeSlot
  simp only [keep_mk, keep_eta, keep_ite, ite_self, keep_setGateSlot]

@[simp] theorem keep_writeResult (s : State) (status reason code serial : Nat) :
    (writeResult s status reason code serial).keep = s.keep := by
  unfold writeResult
  simp only [keep_mk, keep_eta, keep_ite, ite_self, keep_csrPut, keep_csrSetField]

@[simp] theorem keep_denyRelease (s : State) (c reason serial : Nat) :
    (denyRelease s c reason serial).keep = s.keep := by
  unfold denyRelease
  simp only [keep_mk, keep_eta, keep_ite, ite_self, keep_dbFault, keep_modTack, keep_reportOstler, keep_trCount,
                keep_writeResult]

@[simp] theorem keep_smithyClear (s : State) :
    (smithyClear s).keep = s.keep := by
  unfold smithyClear
  simp only [keep_mk, keep_eta, keep_ite, ite_self, keep_bump]

@[simp] theorem keep_setObserved (s : State) (rec_ : List Byte) :
    (setObserved s rec_).keep = s.keep := by
  unfold setObserved
  repeat' first
    | (simp only [keep_mk, keep_eta, keep_ite, ite_self, keep_denyRelease, keep_extendMr, keep_modTack,
                    keep_reportOstler, keep_smithyClear, keep_wipeSlot]; done)
    | (with_reducible refine (keep_foldl _ ?_ _ _).trans ?_)
    | intro _
    | split
    | simp only [keep_mk, keep_eta, keep_ite, ite_self, keep_denyRelease, keep_extendMr, keep_modTack,
                    keep_reportOstler, keep_smithyClear, keep_wipeSlot]

@[simp] theorem keep_debugRecord (s : State) (kind addr : Nat) :
    (debugRecord s kind addr).keep = s.keep := by
  unfold debugRecord
  simp only [keep_mk, keep_eta, keep_ite, ite_self, keep_dbAppend, keep_setObserved, keep_trCount]

end Sys2Proof.Machine
end

