-- ==== Sys2Proof/Laws/Keep3.lean ====
section
/-!
SUPPORT. The queue, and state and logical ID of every position, are kept by the operations of: Granary, Replay,
Completion, LinkRx, LinkHome, Intake, Contents.
-/

namespace Sys2Proof.Machine

set_option linter.unusedSimpArgs false
set_option linter.unusedTactic false
set_option linter.unreachableTactic false

@[simp] theorem keep_putLine (s : State) (c slot : Nat) (l : GLine) :
    (putLine s c slot l).keep = s.keep := by
  unfold putLine
  simp only [keep_mk, keep_eta, keep_ite, ite_self]

@[simp] theorem keep_writeBackLine (s : State) (key : Nat) (l : GLine) (errs : MemErrs) :
    (writeBackLine s key l errs).keep = s.keep := by
  unfold writeBackLine
  repeat' first
    | (simp only [keep_mk, keep_eta, keep_ite, ite_self, keep_grnCount, keep_hbmCount, keep_storeBytes]; done)
    | (with_reducible refine (keep_foldl _ ?_ _ _).trans ?_)
    | intro _
    | split
    | simp only [keep_mk, keep_eta, keep_ite, ite_self, keep_grnCount, keep_hbmCount, keep_storeBytes]

@[simp] theorem keep_writeBackContext (s : State) (c : Nat) :
    (writeBackContext s c).keep = s.keep := by
  unfold writeBackContext
  repeat' first
    | (simp only [keep_mk, keep_eta, keep_ite, ite_self, keep_grnCount, keep_writeBackLine]; done)
    | (with_reducible refine (keep_foldl _ ?_ _ _).trans ?_)
    | intro _
    | split

@[simp] theorem keep_discardLines (s : State) (f : Nat → Nat → Bool) :
    (discardLines s f).keep = s.keep := by
  unfold discardLines
  simp only [keep_mk, keep_eta, keep_ite, ite_self]

@[simp] theorem keep_askFill (s : State) (c slot : Nat) :
    (askFill s c slot).keep = s.keep := by
  unfold askFill
  simp only [keep_mk, keep_eta, keep_ite, ite_self]

@[simp] theorem keep_grnPerform (s : State) (c slot : Nat) (op : GrnOp) (words : Line) (poison : Bool) :
    (grnPerform s c slot op words poison).2.keep = s.keep := by
  unfold grnPerform
  repeat' first
    | (simp only [keep_mk, keep_eta, keep_ite, ite_self, keep_grnCount, keep_putLine]; done)
    | split

@[simp] theorem keep_grnEcc (s : State) (c slot : Nat) (ecc : EccErr) :
    (grnEcc s c slot ecc).keep = s.keep := by
  unfold grnEcc
  repeat' first
    | (simp only [keep_mk, keep_eta, keep_ite, ite_self, keep_grnCount, keep_putLine]; done)
    | split

@[simp] theorem keep_fillLine (s : State) (c slot a : Nat) (errs : MemErrs) :
    (fillLine s c slot a errs).keep = s.keep := by
  unfold fillLine
  repeat' first
    | (simp only [keep_mk, keep_eta, keep_ite, ite_self, keep_grnCount, keep_putLine, keep_readFor]; done)
    | (with_reducible refine (keep_foldl _ ?_ _ _).trans ?_)
    | intro _
    | split
    | simp only [keep_mk, keep_eta, keep_ite, ite_self, keep_grnCount, keep_putLine, keep_readFor]

@[simp] theorem keep_cacheSlots (s : State) (c : Nat) (slots : List Nat) :
    (cacheSlots s c slots).keep = s.keep := by
  unfold cacheSlots
  repeat' first
    | (simp only [keep_mk, keep_eta, keep_ite, ite_self, keep_fillLine]; done)
    | (with_reducible refine (keep_foldl _ ?_ _ _).trans ?_)
    | intro _
    | split

@[simp] theorem keep_trimDirty (half : Nat) (errs : MemErrs) (k : Nat) (s : State) :
    (trimDirty half errs k s).keep = s.keep := by
  induction k generalizing s with
  | zero => rfl
  | succ k ih =>
    unfold trimDirty
    split
    · rfl
    · split
      · rw [ih]
        simp
      · rfl

@[simp] theorem keep_granaryWindow (who : Requester) (off : Nat) (a : Access) (s : State) :
    (granaryWindow who off a s).keep = s.keep := by
  unfold granaryWindow
  repeat' first
    | (simp only [keep_mk, keep_eta, keep_ite, ite_self, keep_aerError, keep_debugRecord, keep_putLine]; done)
    | (with_reducible refine (keep_foldl _ ?_ _ _).trans ?_)
    | intro _
    | split
    | simp only [keep_mk, keep_eta, keep_ite, ite_self, keep_aerError, keep_debugRecord, keep_putLine]

@[simp] theorem keep_replayDone (s : State) :
    (replayDone s).keep = s.keep := by
  unfold replayDone
  simp only [keep_mk, keep_eta, keep_ite, ite_self, keep_csrSetField]

@[simp] theorem keep_ctOrder (s : State) (p : Nat) (e : Entry) :
    (ctOrder s p e).keep = s.keep := by
  unfold ctOrder
  repeat' first
    | (simp only [keep_mk, keep_eta, keep_ite, ite_self, keep_dbAppend, keep_replayDone]; done)
    | split

@[simp] theorem keep_replayTake (s : State) (c : Nat) :
    (replayTake s c).keep = s.keep := by
  unfold replayTake
  repeat' first
    | (simp only [keep_mk, keep_eta, keep_ite, ite_self, keep_modCtx, keep_replayDone]; done)
    | split

@[simp] theorem keep_linkDone (s : State) (c : Nat) :
    (linkDone s c).keep = s.keep := by
  unfold linkDone
  repeat' first
    | (simp only [keep_mk, keep_eta, keep_ite, ite_self, keep_replayDone]; done)
    | split

@[simp] theorem keep_sendCompletion (s : State) (c : Nat) (k : Packet) (status code detail : Nat) :
    (sendCompletion s c k status code detail).keep = s.keep := by
  unfold sendCompletion
  simp only [keep_mk, keep_eta, keep_ite, ite_self, keep_emitRecord, keep_modCtx]

@[simp] theorem keep_completeCmd (s : State) (c : Nat) (k : Packet) (status code detail : Nat) :
    (completeCmd s c k status code detail).keep = s.keep := by
  unfold completeCmd
  simp only [keep_mk, keep_eta, keep_ite, ite_self, keep_modCtx, keep_sendCompletion, keep_writeBackContext]

@[simp] theorem keep_returnCredits (k : Nat) (s : State) (n : Nat) : (returnCredits k s n).keep = s.keep := by
  induction k generalizing s with
  | zero => rfl
  | succ k ih =>
    unfold returnCredits
    split
    · rfl
    · rw [ih]
      simp

@[simp] theorem keep_settle (s : State) (n : Nat) :
    (settle s n).keep = s.keep := by
  unfold settle
  simp only [keep_mk, keep_eta, keep_ite, ite_self, keep_pumpPort, keep_returnCredits, keep_sendPlain]

@[simp] theorem keep_freePlace (s : State) (n place : Nat) :
    (freePlace s n place).keep = s.keep := by
  unfold freePlace
  simp only [keep_mk, keep_eta, keep_ite, ite_self, keep_modPort, keep_settle]

@[simp] theorem keep_goDown (s : State) (n : Nat) :
    (goDown s n).keep = s.keep := by
  unfold goDown
  simp only [keep_mk, keep_eta, keep_ite, ite_self, keep_modPort, keep_recordFirst, keep_reportFault, keep_rlCount]

@[simp] theorem keep_leaveDown (s : State) (n : Nat) :
    (leaveDown s n).keep = s.keep := by
  unfold leaveDown
  simp only [keep_mk, keep_eta, keep_ite, ite_self, keep_modPort]

@[simp] theorem keep_beginRetrain (s : State) (n : Nat) :
    (beginRetrain s n).keep = s.keep := by
  unfold beginRetrain
  simp only [keep_mk, keep_eta, keep_ite, ite_self, keep_goDown, keep_modPort, keep_rlCount]

@[simp] theorem keep_replayPort (s : State) (n : Nat) :
    (replayPort s n).keep = s.keep := by
  unfold replayPort
  repeat' first
    | (simp only [keep_mk, keep_eta, keep_ite, ite_self, keep_beginRetrain, keep_modPort, keep_rlCount, keep_wireFlit]; done)
    | (with_reducible refine (keep_foldl _ ?_ _ _).trans ?_)
    | intro _
    | split
    | simp only [keep_mk, keep_eta, keep_ite, ite_self, keep_beginRetrain, keep_modPort, keep_rlCount, keep_wireFlit]

@[simp] theorem keep_takeHeader (s : State) (n : Nat) (b : List Byte) :
    (takeHeader s n b).keep = s.keep := by
  unfold takeHeader
  simp only [keep_mk, keep_eta, keep_ite, ite_self, keep_modPort, keep_pumpPort]

@[simp] theorem keep_askReplay (s : State) (n : Nat) :
    (askReplay s n).keep = s.keep := by
  unfold askReplay
  simp only [keep_mk, keep_eta, keep_ite, ite_self, keep_modPort, keep_sendPlain]

@[simp] theorem keep_badCrc (s : State) (n : Nat) :
    (badCrc s n).keep = s.keep := by
  unfold badCrc
  simp only [keep_mk, keep_eta, keep_ite, ite_self, keep_askReplay, keep_rlCount]

@[simp] theorem keep_placeFlit (s : State) (n : Nat) (b : List Byte) (place : Nat) :
    (placeFlit s n b place).keep = s.keep := by
  unfold placeFlit
  simp only [keep_mk, keep_eta, keep_ite, ite_self, keep_freePlace, keep_modPort, keep_rlCount]

@[simp] theorem keep_writePortCfg (s : State) (n : Nat) (v : Nat) :
    (writePortCfg s n v).keep = s.keep := by
  unfold writePortCfg
  simp only [keep_mk, keep_eta, keep_ite, ite_self, keep_beginRetrain, keep_csrPut, keep_leaveDown, keep_modPort]

@[simp] theorem keep_consume (s : State) (i : Nat) (h : Held) :
    (consume s i h).keep = s.keep := by
  unfold consume
  simp only [keep_mk, keep_eta, keep_ite, ite_self, keep_freePlace]

@[simp] theorem keep_modHome (s : State) (c src job : Nat) (g : Home → Home) :
    (modHome s c src job g).keep = s.keep := by
  unfold modHome
  simp only [keep_mk, keep_eta, keep_ite, ite_self, keep_modRec]

@[simp] theorem keep_endRun (s : State) (c : Nat) (h : Home) :
    (endRun s c h).keep = s.keep := by
  unfold endRun
  simp only [keep_mk, keep_eta, keep_ite, ite_self, keep_dbAppend, keep_modHome]

@[simp] theorem keep_noteArrival (s : State) (c src job dseq : Nat) :
    (noteArrival s c src job dseq).keep = s.keep := by
  unfold noteArrival
  repeat' first
    | (simp only [keep_mk, keep_eta, keep_ite, ite_self, keep_endRun, keep_modHome]; done)
    | (with_reducible refine (keep_foldl _ ?_ _ _).trans ?_)
    | intro _
    | split
    | simp only [keep_mk, keep_eta, keep_ite, ite_self, keep_endRun, keep_modHome]

@[simp] theorem keep_dbToken (s : State) (c src kind epoch end_ : Nat) :
    (dbToken s c src kind epoch end_).keep = s.keep := by
  unfold dbToken
  simp only [keep_mk, keep_eta, keep_ite, ite_self, keep_dbAppend]

@[simp] theorem keep_sendGap (s : State) (src job expect : Nat) :
    (sendGap s src job expect).keep = s.keep := by
  unfold sendGap
  simp only [keep_mk, keep_eta, keep_ite, ite_self, keep_rlDevCount, keep_sendFlit]

@[simp] theorem keep_addWacks (s : State) (c src job : Nat) (es : List (Nat × Nat)) :
    (addWacks s c src job es).keep = s.keep := by
  unfold addWacks
  simp only [keep_mk, keep_eta, keep_ite, ite_self, keep_modHome]

@[simp] theorem keep_noteUndo (s : State) (c src epoch slot : Nat) (op : GrnOp) (words : Line) :
    (noteUndo s c src epoch slot op words).keep = s.keep := by
  unfold noteUndo
  repeat' first
    | (simp only [keep_mk, keep_eta, keep_ite, ite_self, keep_modRec]; done)
    | (with_reducible refine (keep_foldl _ ?_ _ _).trans ?_)
    | intro _
    | split
    | simp only [keep_mk, keep_eta, keep_ite, ite_self, keep_modRec]

@[simp] theorem keep_putWords (s : State) (c slot : Nat) (f : Line → Line) :
    (putWords s c slot f).keep = s.keep := by
  unfold putWords
  repeat' first
    | (simp only [keep_mk, keep_eta, keep_ite, ite_self, keep_putLine, keep_writeBytes]; done)
    | split

@[simp] theorem keep_undoFrom (s : State) (c src epoch : Nat) :
    (undoFrom s c src epoch).keep = s.keep := by
  unfold undoFrom
  repeat' first
    | (simp only [keep_mk, keep_eta, keep_ite, ite_self, keep_modRec, keep_putWords]; done)
    | (with_reducible refine (keep_foldl _ ?_ _ _).trans ?_)
    | intro _
    | split
    | simp only [keep_mk, keep_eta, keep_ite, ite_self, keep_modRec, keep_putWords]

@[simp] theorem keep_homeOp (s : State) (c slot op : Nat) :
    (homeOp s c slot op).2.keep = s.keep := by
  unfold homeOp
  repeat' first
    | (simp only [keep_mk, keep_eta, keep_ite, ite_self, keep_draw]; done)
    | (have hk := congrArg (fun x => State.keep (Prod.fst x)) ‹_ = (_, _)›
       simp only [keep_mk, keep_eta, keep_ite, ite_self, keep_draw] at hk
       simp only [keep_mk, keep_eta, keep_ite, ite_self, keep_draw, ← hk]; done)
    | (have hk := congrArg (fun x => State.keep (Prod.snd x)) ‹_ = (_, _)›
       simp only [keep_mk, keep_eta, keep_ite, ite_self, keep_draw] at hk
       simp only [keep_mk, keep_eta, keep_ite, ite_self, keep_draw, ← hk]; done)
    | (with_reducible refine (keep_foldl _ ?_ _ _).trans ?_)
    | intro _
    | split
    | simp only [keep_mk, keep_eta, keep_ite, ite_self, keep_draw]

@[simp] theorem keep_notifyLine (s : State) (c slot : Nat) :
    (notifyLine s c slot).keep = s.keep := by
  unfold notifyLine
  repeat' first
    | (simp only [keep_mk, keep_eta, keep_ite, ite_self, keep_absentReturn, keep_modStallCtx, keep_sendBridle]; done)
    | split

@[simp] theorem keep_noteDep (s : State) (c src job epoch : Nat) (win : Option Nat) :
    (noteDep s c src job epoch win).keep = s.keep := by
  unfold noteDep
  simp only [keep_mk, keep_eta, keep_ite, ite_self, keep_modRec]

@[simp] theorem keep_endGroup (s : State) (c src job blk tally : Nat) (bad : Bool) :
    (endGroup s c src job blk tally bad).keep = s.keep := by
  unfold endGroup
  repeat' first
    | (simp only [keep_mk, keep_eta, keep_ite, ite_self, keep_addWacks, keep_modHome, keep_putLine, keep_recCount,
                    keep_reportFault, keep_trigger]; done)
    | (with_reducible refine (keep_foldl _ ?_ _ _).trans ?_)
    | intro _
    | split
    | simp only [keep_mk, keep_eta, keep_ite, ite_self, keep_addWacks, keep_modHome, keep_putLine, keep_recCount,
                    keep_reportFault, keep_trigger]

@[simp] theorem keep_performFlit (s : State) (c src job : Nat) (b : List Byte) (win : Option Nat) (bad : Bool) :
    (performFlit s c src job b win bad).keep = s.keep := by
  unfold performFlit
  repeat' first
    | (simp only [keep_mk, keep_eta, keep_ite, ite_self, keep_endGroup, keep_grnPerform, keep_homeOp, keep_linkDone,
                    keep_modHome, keep_noteArrival, keep_noteDep, keep_noteUndo, keep_notifyLine]; done)
    | (with_reducible refine (keep_foldl _ ?_ _ _).trans ?_)
    | intro _
    | split
    | simp only [keep_mk, keep_eta, keep_ite, ite_self, keep_endGroup, keep_grnPerform, keep_homeOp, keep_linkDone,
                    keep_modHome, keep_noteArrival, keep_noteDep, keep_noteUndo, keep_notifyLine]

theorem keep_takeDseq (s : State) (i : Nat) (h : Held) (c : Nat) (take : State → Option State)
    (htake : ∀ s s1, take s = some s1 → s1.keep = s.keep) : (takeDseq s i h c take).keep = s.keep := by
  unfold takeDseq
  dsimp only
  split
  · split
    · rfl
    · simpa using htake _ _ ‹_›
  · split <;> simp

@[simp] theorem keep_homeWrite (s : State) (i type : Nat) (bad : Bool) : (homeWrite s i type bad).keep = s.keep := by
  unfold homeWrite
  split
  · rfl
  · dsimp only
    split
    · rfl
    · split
      · simp only [keep_consume, keep_sendFlit]
        refine keep_foldl _ (fun s b => ?_) _ _
        simp
      · refine keep_takeDseq _ _ _ _ _ fun s s1 h => ?_
        split at h
        · cases h
          split <;> simp only [keep_endGroup, keep_addWacks] <;> exact keep_foldl _ (fun s b => by simp) _ _
        · simp only [Option.ite_none_left_eq_some, Option.some.injEq] at h
          obtain ⟨_, _, _, rfl⟩ := h
          simp

@[simp] theorem keep_askFills (s : State) (i type : Nat) :
    (askFills s i type).keep = s.keep := by
  unfold askFills
  repeat' first
    | (simp only [keep_mk, keep_eta, keep_ite, ite_self, keep_askFill]; done)
    | (with_reducible refine (keep_foldl _ ?_ _ _).trans ?_)
    | intro _
    | split
    | simp only [keep_mk, keep_eta, keep_ite, ite_self, keep_askFill]

@[simp] theorem keep_setDeps (s : State) (c : Nat) (ds : List Dep) :
    (setDeps s c ds).keep = s.keep := by
  unfold setDeps
  simp only [keep_mk, keep_eta, keep_ite, ite_self, keep_modRec]

@[simp] theorem keep_clearDep (s : State) (c src epoch : Nat) :
    (clearDep s c src epoch).keep = s.keep := by
  unfold clearDep
  simp only [keep_mk, keep_eta, keep_ite, ite_self, keep_modRec, keep_setDeps]

@[simp] theorem keep_homeRevoke (s : State) (c src job epoch end_ cause : Nat) :
    (homeRevoke s c src job epoch end_ cause).keep = s.keep := by
  unfold homeRevoke
  repeat' first
    | (simp only [keep_mk, keep_eta, keep_ite, ite_self, keep_modHome, keep_recordFirst, keep_reportFault,
                    keep_setDeps, keep_trigger, keep_undoFrom]; done)
    | (with_reducible refine (keep_foldl _ ?_ _ _).trans ?_)
    | intro _
    | split
    | simp only [keep_mk, keep_eta, keep_ite, ite_self, keep_modHome, keep_recordFirst, keep_reportFault,
                    keep_setDeps, keep_trigger, keep_undoFrom]

@[simp] theorem keep_ackGate (s : State) (dst job dseq : Nat) (bad : Bool) :
    (ackGate s dst job dseq bad).keep = s.keep := by
  unfold ackGate
  repeat' first
    | (simp only [keep_mk, keep_eta, keep_ite, ite_self]; done)
    | (with_reducible refine (keep_foldl _ ?_ _ _).trans ?_)
    | intro _
    | split

@[simp] theorem keep_ackPoisoned (s : State) (c dst job : Nat) (f : Sent → Bool) :
    (ackPoisoned s c dst job f).keep = s.keep := by
  unfold ackPoisoned
  repeat' first
    | (simp only [keep_mk, keep_eta, keep_ite, ite_self, keep_ackSent]; done)
    | (with_reducible refine (keep_foldl _ ?_ _ _).trans ?_)
    | intro _
    | split

@[simp] theorem keep_dbCommand (s : State) (c : Nat) (k : Packet) :
    (dbCommand s c k).keep = s.keep := by
  unfold dbCommand
  repeat' first
    | (simp only [keep_mk, keep_eta, keep_ite, ite_self, keep_dbAppend]; done)
    | (with_reducible refine (keep_foldl _ ?_ _ _).trans ?_)
    | intro _
    | split

@[simp] theorem keep_takePacket (s : State) (c : Nat) (k : Packet) :
    (takePacket s c k).keep = s.keep := by
  unfold takePacket
  simp only [keep_mk, keep_eta, keep_ite, ite_self, keep_dbCommand, keep_modCtx]

@[simp] theorem keep_takeHeld (n : Nat) (s : State) (c : Nat) : (takeHeld n s c).keep = s.keep := by
  induction n generalizing s with
  | zero => rfl
  | succ n ih =>
    unfold takeHeld
    dsimp only
    split
    · rfl
    · rw [ih]
      simp

@[simp] theorem keep_arrivePacket (s : State) (c : Nat) (k : Packet) : (arrivePacket s c k).keep = s.keep := by
  unfold arrivePacket
  dsimp only
  repeat' first
    | (simp only [keep_emitRecord, keep_intakeCount, keep_takeHeld, keep_takePacket, keep_modCtx]; done)
    | split

@[simp] theorem keep_passOn (s : State) (m c : Nat) (k : Packet) :
    (passOn s m c k).keep = s.keep := by
  unfold passOn
  simp only [keep_mk, keep_eta, keep_ite, ite_self, keep_arrivePacket, keep_ghCount, keep_sendFlit]

@[simp] theorem keep_watchRing (s : State) (w : GWatch) :
    (watchRing s w).keep = s.keep := by
  unfold watchRing
  simp only [keep_mk, keep_eta, keep_ite, ite_self]

@[simp] theorem keep_abortXfers (s : State) (m c : Nat) (seq : W32) :
    (abortXfers s m c seq).keep = s.keep := by
  unfold abortXfers
  repeat' first
    | (simp only [keep_mk, keep_eta, keep_ite, ite_self, keep_passOn]; done)
    | (with_reducible refine (keep_foldl _ ?_ _ _).trans ?_)
    | intro _
    | split

@[simp] theorem keep_arriveSlot (s : State) (m c : Nat) (data : List Byte) :
    (arriveSlot s m c data).keep = s.keep := by
  unfold arriveSlot
  repeat' first
    | (simp only [keep_mk, keep_eta, keep_ite, ite_self, keep_abortXfers, keep_passOn, keep_watchRing]; done)
    | (with_reducible refine (keep_foldl _ ?_ _ _).trans ?_)
    | intro _
    | split
    | simp only [keep_mk, keep_eta, keep_ite, ite_self, keep_abortXfers, keep_passOn, keep_watchRing]

@[simp] theorem keep_writeSlot (s : State) (x : Nat) (data : List Byte) (k : Nat) :
    (writeSlot s x data k).keep = s.keep := by
  unfold writeSlot
  simp only [keep_mk, keep_eta, keep_ite, ite_self, keep_arriveSlot]

@[simp] theorem keep_gateWack (s : State) (src job dseq result : Nat) :
    (gateWack s src job dseq result).keep = s.keep := by
  unfold gateWack
  simp only [keep_mk, keep_eta, keep_ite, ite_self, keep_sendFlit]

@[simp] theorem keep_modGateHome (s : State) (src job : Nat) (f : Home → Home) :
    (modGateHome s src job f).keep = s.keep := by
  unfold modGateHome
  simp only [keep_mk, keep_eta, keep_ite, ite_self]

@[simp] theorem keep_gateDseq (s : State) (i : Nat) (h : Held) (take : State → State) (htake : ∀ v0, (take v0).keep = v0.keep) :
    (gateDseq s i h take).keep = s.keep := by
  unfold gateDseq
  simp only [keep_mk, keep_eta, keep_ite, ite_self, keep_consume, keep_modGateHome, keep_rlDevCount, keep_sendFlit,
                htake]

@[simp] theorem keep_outRecord (s : State) (ring kind epoch : Nat) :
    (outRecord s ring kind epoch).keep = s.keep := by
  unfold outRecord
  simp only [keep_mk, keep_eta, keep_ite, ite_self, keep_ghDeliver]

@[simp] theorem keep_outLines (s : State) (ring : Nat) (b : List Byte) :
    (outLines s ring b).keep = s.keep := by
  unfold outLines
  repeat' first
    | (simp only [keep_mk, keep_eta, keep_ite, ite_self]; done)
    | (with_reducible refine (keep_foldl _ ?_ _ _).trans ?_)
    | intro _
    | split

@[simp] theorem keep_placeCode (s : State) (p c : Nat) (code : List W128) :
    (placeCode s p c code).keep = s.keep := by
  unfold placeCode
  repeat' first
    | (simp only [keep_mk, keep_eta, keep_ite, ite_self, keep_modStall]; done)
    | split

@[simp] theorem keep_freeCode (s : State) (p c : Nat) :
    (freeCode s p c).keep = s.keep := by
  unfold freeCode
  simp only [keep_mk, keep_eta, keep_ite, ite_self, keep_modStall]

@[simp] theorem keep_writeContents (s : State) (p c : Nat) :
    (writeContents s p c).keep = s.keep := by
  unfold writeContents
  repeat' first
    | (simp only [keep_mk, keep_eta, keep_ite, ite_self, keep_loftWrite]; done)
    | (with_reducible refine (keep_foldl _ ?_ _ _).trans ?_)
    | intro _
    | split

@[simp] theorem keep_rewriteFailing (s : State) (c : Nat) :
    (rewriteFailing s c).keep = s.keep := by
  unfold rewriteFailing
  repeat' first
    | (simp only [keep_mk, keep_eta, keep_ite, ite_self, keep_loftWrite, keep_modRec]; done)
    | (with_reducible refine (keep_foldl _ ?_ _ _).trans ?_)
    | intro _
    | split
    | simp only [keep_mk, keep_eta, keep_ite, ite_self, keep_loftWrite, keep_modRec]

end Sys2Proof.Machine
end

