-- ==== Sys2Proof/Laws/Keep4.lean ====
section
/-!
SUPPORT. The queue, and state and logical ID of every position, are kept by the operations of: Tables, Retire,
YardSend, EngineEvents, Scalar, YardEvents, Drover.
-/

namespace Sys2Proof.Machine

set_option linter.unusedSimpArgs false
set_option linter.unusedTactic false
set_option linter.unreachableTactic false

@[simp] theorem keep_writeSetTables (s : State) (c : Nat) :
    (writeSetTables s c).keep = s.keep := by
  unfold writeSetTables
  repeat' first
    | (simp only [keep_mk, keep_eta, keep_ite, ite_self, keep_modStall]; done)
    | (with_reducible refine (keep_foldl _ ?_ _ _).trans ?_)
    | intro _
    | split

@[simp] theorem keep_writePrimeTable (s : State) (p c : Nat) :
    (writePrimeTable s p c).keep = s.keep := by
  unfold writePrimeTable
  simp only [keep_mk, keep_eta, keep_ite, ite_self, keep_modStall]

@[simp] theorem keep_stallOff (s : State) (p : Nat) :
    (stallOff s p).keep = s.keep := by
  unfold stallOff
  repeat' first
    | (simp only [keep_mk, keep_eta, keep_ite, ite_self, keep_bumpBy, keep_csrSetField, keep_loftInvalidate,
                    keep_setStall]; done)
    | (with_reducible refine (keep_foldl _ ?_ _ _).trans ?_)
    | intro _
    | split
    | simp only [keep_mk, keep_eta, keep_ite, ite_self, keep_bumpBy, keep_csrSetField, keep_loftInvalidate,
                    keep_setStall]

@[simp] theorem keep_stopContext (s : State) (p lid c : Nat) :
    (stopContext s p lid c).keep = s.keep := by
  unfold stopContext
  repeat' first
    | (simp only [keep_mk, keep_eta, keep_ite, ite_self, keep_completeCmd, keep_draw, keep_emitRecord, keep_modCtx,
                    keep_reportOstler]; done)
    | (have hk := congrArg (fun x => State.keep (Prod.fst x)) ‹_ = (_, _)›
       simp only [keep_mk, keep_eta, keep_ite, ite_self, keep_completeCmd, keep_draw, keep_emitRecord, keep_modCtx,
                    keep_reportOstler] at hk
       simp only [keep_mk, keep_eta, keep_ite, ite_self, keep_completeCmd, keep_draw, keep_emitRecord, keep_modCtx,
                    keep_reportOstler, ← hk]; done)
    | (have hk := congrArg (fun x => State.keep (Prod.snd x)) ‹_ = (_, _)›
       simp only [keep_mk, keep_eta, keep_ite, ite_self, keep_completeCmd, keep_draw, keep_emitRecord, keep_modCtx,
                    keep_reportOstler] at hk
       simp only [keep_mk, keep_eta, keep_ite, ite_self, keep_completeCmd, keep_draw, keep_emitRecord, keep_modCtx,
                    keep_reportOstler, ← hk]; done)
    | (with_reducible refine (keep_foldl _ ?_ _ _).trans ?_)
    | intro _
    | split
    | simp only [keep_mk, keep_eta, keep_ite, ite_self, keep_completeCmd, keep_draw, keep_emitRecord, keep_modCtx,
                    keep_reportOstler]

@[simp] theorem keep_applyTarget (s : State) (p : Nat) :
    (applyTarget s p).keep = s.keep := by
  unfold applyTarget
  simp only [keep_mk, keep_eta, keep_ite, ite_self, keep_csrSetField]

@[simp] theorem keep_sendLine (s : State) (p n q c k : Nat) (to_ : LineTo) (l : Line) :
    (sendLine s p n q c k to_ l).keep = s.keep := by
  unfold sendLine
  simp only [keep_mk, keep_eta, keep_ite, ite_self, keep_modEntry, keep_modStall, keep_sendBulk]

@[simp] theorem keep_sendTail (s : State) (p n q c : Nat) :
    (sendTail s p n q c).keep = s.keep := by
  unfold sendTail
  simp only [keep_mk, keep_eta, keep_ite, ite_self, keep_modEntry, keep_send]

@[simp] theorem keep_sentEntry (s : State) (p n : Nat) (elsewhere : Bool) :
    (sentEntry s p n elsewhere).keep = s.keep := by
  unfold sentEntry
  simp only [keep_mk, keep_eta, keep_ite, ite_self, keep_modEntry]

@[simp] theorem keep_ydPutRun (p : Nat) (t : Fin 4) (s : State) (w : W128) (c : Nat) :
    (ydPutRun p t s w c).keep = s.keep := by
  unfold ydPutRun
  repeat' first
    | (simp only [keep_mk, keep_eta, keep_ite, ite_self, keep_carryPoison, keep_countDrop, keep_engineAbsent,
                    keep_parityPiece, keep_recordAbsent, keep_sendLine, keep_sendTail,
                    keep_sentEntry, keep_takeEntry]; done)
    | (have hk := congrArg (fun x => State.keep (Prod.fst x)) ‹_ = (_, _)›
       simp only [keep_mk, keep_eta, keep_ite, ite_self, keep_carryPoison, keep_countDrop, keep_engineAbsent,
                    keep_parityPiece, keep_recordAbsent, keep_sendLine, keep_sendTail,
                    keep_sentEntry, keep_takeEntry] at hk
       simp only [keep_mk, keep_eta, keep_ite, ite_self, keep_carryPoison, keep_countDrop, keep_engineAbsent,
                    keep_parityPiece, keep_recordAbsent, keep_sendLine, keep_sendTail,
                    keep_sentEntry, keep_takeEntry, ← hk]; done)
    | (have hk := congrArg (fun x => State.keep (Prod.snd x)) ‹_ = (_, _)›
       simp only [keep_mk, keep_eta, keep_ite, ite_self, keep_carryPoison, keep_countDrop, keep_engineAbsent,
                    keep_parityPiece, keep_recordAbsent, keep_sendLine, keep_sendTail,
                    keep_sentEntry, keep_takeEntry] at hk
       simp only [keep_mk, keep_eta, keep_ite, ite_self, keep_carryPoison, keep_countDrop, keep_engineAbsent,
                    keep_parityPiece, keep_recordAbsent, keep_sendLine, keep_sendTail,
                    keep_sentEntry, keep_takeEntry, ← hk]; done)
    | (with_reducible refine (keep_foldl _ ?_ _ _).trans ?_)
    | intro _
    | split
    | simp only [keep_mk, keep_eta, keep_ite, ite_self, keep_carryPoison, keep_countDrop, keep_engineAbsent,
                    keep_parityPiece, keep_recordAbsent, keep_sendLine, keep_sendTail,
                    keep_sentEntry, keep_takeEntry]

@[simp] theorem keep_ydMcastRun (p : Nat) (t : Fin 4) (s : State) (w : W128) (c : Nat) :
    (ydMcastRun p t s w c).keep = s.keep := by
  unfold ydMcastRun
  repeat' first
    | (simp only [keep_mk, keep_eta, keep_ite, ite_self, keep_carryPoison, keep_parityPiece, keep_recordAbsent,
                    keep_sendLine, keep_sendTail, keep_sentEntry, keep_takeEntry, keep_yardCount]; done)
    | (have hk := congrArg (fun x => State.keep (Prod.fst x)) ‹_ = (_, _)›
       simp only [keep_mk, keep_eta, keep_ite, ite_self, keep_carryPoison, keep_parityPiece, keep_recordAbsent,
                    keep_sendLine, keep_sendTail, keep_sentEntry, keep_takeEntry, keep_yardCount] at hk
       simp only [keep_mk, keep_eta, keep_ite, ite_self, keep_carryPoison, keep_parityPiece, keep_recordAbsent,
                    keep_sendLine, keep_sendTail, keep_sentEntry, keep_takeEntry, keep_yardCount, ← hk]; done)
    | (have hk := congrArg (fun x => State.keep (Prod.snd x)) ‹_ = (_, _)›
       simp only [keep_mk, keep_eta, keep_ite, ite_self, keep_carryPoison, keep_parityPiece, keep_recordAbsent,
                    keep_sendLine, keep_sendTail, keep_sentEntry, keep_takeEntry, keep_yardCount] at hk
       simp only [keep_mk, keep_eta, keep_ite, ite_self, keep_carryPoison, keep_parityPiece, keep_recordAbsent,
                    keep_sendLine, keep_sendTail, keep_sentEntry, keep_takeEntry, keep_yardCount, ← hk]; done)
    | (with_reducible refine (keep_foldl _ ?_ _ _).trans ?_)
    | intro _
    | split
    | simp only [keep_mk, keep_eta, keep_ite, ite_self, keep_carryPoison, keep_parityPiece, keep_recordAbsent,
                    keep_sendLine, keep_sendTail, keep_sentEntry, keep_takeEntry, keep_yardCount]

@[simp] theorem keep_sendWord (bridle : Bool) (p : Nat) (t : Fin 4) (s : State) (w : W128) (c : Nat) (b : Body) :
    (sendWord bridle p t s w c b).keep = s.keep := by
  unfold sendWord
  repeat' first
    | (simp only [keep_mk, keep_eta, keep_ite, ite_self, keep_engineAbsent, keep_modEntry, keep_modStall, keep_send,
                    keep_sendBridle, keep_takeEntry]; done)
    | (have hk := congrArg (fun x => State.keep (Prod.fst x)) ‹_ = (_, _)›
       simp only [keep_mk, keep_eta, keep_ite, ite_self, keep_engineAbsent, keep_modEntry, keep_modStall, keep_send,
                    keep_sendBridle, keep_takeEntry] at hk
       simp only [keep_mk, keep_eta, keep_ite, ite_self, keep_engineAbsent, keep_modEntry, keep_modStall, keep_send,
                    keep_sendBridle, keep_takeEntry, ← hk]; done)
    | split

@[simp] theorem keep_haltFault (s : State) (p c : Nat) (t : Fin 4) (pc handle action code : Nat) :
    (haltFault s p c t pc handle action code).keep = s.keep := by
  unfold haltFault
  simp only [keep_mk, keep_eta, keep_ite, ite_self, keep_modTeam, keep_noteHalt, keep_stallFault]

@[simp] theorem keep_runEntry (lim : Option Nat) (p n : Nat) (s : State) :
    (runEntry lim p n s).keep = s.keep := by
  unfold runEntry
  repeat' first
    | (simp only [keep_mk, keep_eta, keep_ite, ite_self, keep_ctFillRun, keep_ctGatherRun, keep_ctScatterRun,
                    keep_eeRun, keep_maDrainRun, keep_maFormRun, keep_maMacRun, keep_teRun]; done)
    | (with_reducible refine (keep_foldl _ ?_ _ _).trans ?_)
    | intro _
    | split
    | simp only [keep_mk, keep_eta, keep_ite, ite_self, keep_ctFillRun, keep_ctGatherRun, keep_ctScatterRun,
                    keep_eeRun, keep_maDrainRun, keep_maFormRun, keep_maMacRun, keep_teRun]

@[simp] theorem keep_ranEntry (p n : Nat) (s : State) :
    (ranEntry p n s).keep = s.keep := by
  unfold ranEntry
  simp only [keep_mk, keep_eta, keep_ite, ite_self, keep_modEntry, keep_runEntry]

@[simp] theorem keep_finishEntry (s : State) (p n : Nat) (e : Entry) :
    (finishEntry s p n e).keep = s.keep := by
  unfold finishEntry
  simp only [keep_mk, keep_eta, keep_ite, ite_self, keep_ctOrder, keep_dropEntry, keep_modLive, keep_settleDest]

@[simp] theorem keep_poisonReached (s : State) (p c : Nat) (e : Entry) :
    (poisonReached s p c e).keep = s.keep := by
  unfold poisonReached
  repeat' first
    | (simp only [keep_mk, keep_eta, keep_ite, ite_self, keep_poisonDest, keep_send]; done)
    | (with_reducible refine (keep_foldl _ ?_ _ _).trans ?_)
    | intro _
    | split
    | simp only [keep_mk, keep_eta, keep_ite, ite_self, keep_poisonDest, keep_send]

@[simp] theorem keep_residueFound (s : State) (p n : Nat) (e : Entry) :
    (residueFound s p n e).keep = s.keep := by
  unfold residueFound
  simp only [keep_mk, keep_eta, keep_ite, ite_self, keep_modEntry, keep_ranEntry, keep_recCount, keep_stallFault]

@[simp] theorem keep_suppressed (s : State) (p n line : Nat) :
    (suppressed s p n line).keep = s.keep := by
  unfold suppressed
  simp only [keep_mk, keep_eta, keep_ite, ite_self, keep_dropEntry, keep_freeLines, keep_haltFault,
                keep_poisonReached, keep_ranEntry, keep_setLoft]

@[simp] theorem keep_decided (s : State) (p n line : Nat) (r : Option Line) :
    (decided s p n line r).keep = s.keep := by
  unfold decided
  simp only [keep_mk, keep_eta, keep_ite, ite_self, keep_modEntry]

@[simp] theorem keep_undecided (s : State) (p n line : Nat) (e : Entry) :
    (undecided s p n line e).keep = s.keep := by
  unfold undecided
  simp only [keep_mk, keep_eta, keep_ite, ite_self, keep_decided, keep_maRestore, keep_modEntry, keep_poisonDest]

@[simp] theorem keep_scalarOp (s : State) (p : Nat) (t : Fin 4) (op : Nat) (f : State → W128 → StallCtx → StallCtx) :
    (scalarOp s p t op f).keep = s.keep := by
  unfold scalarOp
  repeat' first
    | (simp only [keep_mk, keep_eta, keep_ite, ite_self, keep_issueOp, keep_modLive]; done)
    | (with_reducible refine (keep_foldl _ ?_ _ _).trans ?_)
    | intro _
    | (simp [keep_eta]; done)
    | split
    | simp only [keep_mk, keep_eta, keep_ite, ite_self, keep_issueOp, keep_modLive]

@[simp] theorem keep_arriveBar (s : State) (p : Nat) (t : Fin 4) (k : Nat) :
    (arriveBar s p t k).keep = s.keep := by
  unfold arriveBar
  simp only [keep_mk, keep_eta, keep_ite, ite_self, keep_modLive]

@[simp] theorem keep_branch (s : State) (p : Nat) (t : Fin 4) (taken : Bool) (target : BitVec 24) :
    (branch s p t taken target).keep = s.keep := by
  unfold branch
  simp only [keep_mk, keep_eta, keep_ite, ite_self, keep_issued, keep_modStall]

@[simp] theorem keep_haltTeam (s : State) (p : Nat) (t : Fin 4) :
    (haltTeam s p t).keep = s.keep := by
  unfold haltTeam
  simp only [keep_mk, keep_eta, keep_ite, ite_self, keep_modStall]

@[simp] theorem keep_tallyFault (s : State) (p c : Nat) (t : Fin 4) (pc h action : Nat) :
    (tallyFault s p c t pc h action).keep = s.keep := by
  unfold tallyFault
  simp only [keep_mk, keep_eta, keep_ite, ite_self, keep_poisonLocal, keep_recCount, keep_stallFault, keep_trigger]

@[simp] theorem keep_landLine (s : State) (q c : Nat) (to_ : LineTo) (l : Line) :
    (landLine s q c to_ l).keep = s.keep := by
  unfold landLine
  repeat' first
    | (simp only [keep_mk, keep_eta, keep_ite, ite_self, keep_loftWrite, keep_writePiece]; done)
    | split

@[simp] theorem keep_ackTo (s : State) (q c id : Nat) (ack : Option Nat) :
    (ackTo s q c id ack).keep = s.keep := by
  unfold ackTo
  repeat' first
    | (simp only [keep_mk, keep_eta, keep_ite, ite_self, keep_send]; done)
    | split

@[simp] theorem keep_landWrite (s : State) (m q c : Nat) (to_ : LineTo) (l : Line) (poison bad : Bool) (ack : Option Nat) :
    (landWrite s m q c to_ l poison bad ack).keep = s.keep := by
  unfold landWrite
  simp only [keep_mk, keep_eta, keep_ite, ite_self, keep_ackTo, keep_dropMsg, keep_landLine, keep_poisonLocal,
                keep_tallyFault]

@[simp] theorem keep_suppressLine (s : State) (m q c : Nat) (h : Nat) (ack : Option Nat) (by_ : Origin) :
    (suppressLine s m q c h ack by_).keep = s.keep := by
  unfold suppressLine
  simp only [keep_mk, keep_eta, keep_ite, ite_self, keep_ackTo, keep_dropMsg, keep_modTeam, keep_noteHalt,
                keep_poisonLocal, keep_stallFault]

@[simp] theorem keep_acked (s : State) (p id : Nat) :
    (acked s p id).keep = s.keep := by
  unfold acked
  simp only [keep_mk, keep_eta, keep_ite, ite_self, keep_modStall]

@[simp] theorem keep_unclaimed (s : State) (m p id : Nat) :
    (unclaimed s m p id).keep = s.keep := by
  unfold unclaimed
  simp only [keep_mk, keep_eta, keep_ite, ite_self, keep_acked, keep_dropMsg]

@[simp] theorem keep_noWait (s : State) (p n id : Nat) :
    (noWait s p n id).keep = s.keep := by
  unfold noWait
  simp only [keep_mk, keep_eta, keep_ite, ite_self, keep_modEntry]

@[simp] theorem keep_drvReport1 (p : Nat) (s : State) (m : Msg) :
    (drvReport1 p s m).keep = s.keep := by
  unfold drvReport1
  repeat' first
    | (simp only [keep_mk, keep_eta, keep_ite, ite_self, keep_dropMsg, keep_noWait]; done)
    | split

@[simp] theorem keep_countedDrops (s : State) (p c : Nat) :
    (countedDrops s p c).keep = s.keep := by
  unfold countedDrops
  simp only [keep_mk, keep_eta, keep_ite, ite_self, keep_bumpBy, keep_modStall]

@[simp] theorem keep_sendWriteBacks (s : State) (p c : Nat) :
    (sendWriteBacks s p c).keep = s.keep := by
  unfold sendWriteBacks
  repeat' first
    | (simp only [keep_mk, keep_eta, keep_ite, ite_self, keep_countedDrops, keep_sendBridle]; done)
    | (with_reducible refine (keep_foldl _ ?_ _ _).trans ?_)
    | intro _
    | split

@[simp] theorem keep_drvAsk (s : State) (p n d : Nat) (l : Line) :
    (drvAsk s p n d l).keep = s.keep := by
  unfold drvAsk
  simp only [keep_mk, keep_eta, keep_ite, ite_self, keep_modEntry, keep_sendBridle]

@[simp] theorem keep_drvAsks (p n : Nat) (l : List (Nat × Line)) (s : State) : (drvAsks p n l s).keep = s.keep := by
  induction l generalizing s with
  | nil => simp [drvAsks]
  | cons x l ih =>
    unfold drvAsks
    split
    · rw [ih]
      simp
    · simp

@[simp] theorem keep_drvPump (s : State) :
    (drvPump s).keep = s.keep := by
  unfold drvPump
  repeat' first
    | (simp only [keep_mk, keep_eta, keep_ite, ite_self, keep_drvAsks]; done)
    | (with_reducible refine (keep_foldl _ ?_ _ _).trans ?_)
    | intro _
    | split

@[simp] theorem keep_drvRun (p : Nat) (t : Fin 4) (s : State) (w : W128) (c : Nat) :
    (drvRun p t s w c).keep = s.keep := by
  have h0 := keep_takeEntry s p t w c .drv true
  unfold drvRun
  split
  rename_i s1 n heq
  rw [heq] at h0
  rw [keep_drvAsks]
  refine (keep_foldl _ (fun s b => keep_recordAbsent ..) _ _).trans ?_
  rw [keep_parityPiece, keep_carryPoison]
  exact h0

@[simp] theorem keep_drvRead (s : State) (d c : Nat) (x : HDecl) (ls : List Nat) (errs : MemErrs) :
    (drvRead s d c x ls errs).2.2.keep = s.keep := by
  have h : ∀ (l : List Nat) (acc : List (Nat × List Byte) × Bool × State), (l.foldl (fun acc g =>
      (acc.1 ++ [(g, (readFor acc.2.2 c g (errs.at_ g) true).1)], acc.2.1 || (readFor acc.2.2 c g (errs.at_ g) true).2.1,
        (readFor acc.2.2 c g (errs.at_ g) true).2.2)) acc).2.2.keep = acc.2.2.keep := by
    intro l
    induction l with
    | nil => intro acc; rfl
    | cons g l ih =>
      intro acc
      rw [List.foldl_cons, ih]
      exact keep_readFor ..
  exact (keep_drvCount ..).trans (h _ ([], false, s))

@[simp] theorem keep_drvDeliver (s : State) (d : Nat) (ms : List DrvEntry) (off : DrvEntry → Nat) (ls : List Line) :
    (drvDeliver s d ms off ls).keep = s.keep := by
  unfold drvDeliver
  repeat' first
    | (simp only [keep_mk, keep_eta, keep_ite, ite_self, keep_drvCount, keep_sendBulk]; done)
    | (with_reducible refine (keep_foldl _ ?_ _ _).trans ?_)
    | intro _
    | split

@[simp] theorem keep_drvNotices (s : State) (d : Nat) (ms : List DrvEntry) :
    (drvNotices s d ms).keep = s.keep := by
  unfold drvNotices
  repeat' first
    | (simp only [keep_mk, keep_eta, keep_ite, ite_self, keep_send]; done)
    | (with_reducible refine (keep_foldl _ ?_ _ _).trans ?_)
    | intro _
    | split

@[simp] theorem keep_drvFinish (s : State) (d : Nat) (ms : List DrvEntry) :
    (drvFinish s d ms).keep = s.keep := by
  unfold drvFinish
  repeat' first
    | (simp only [keep_mk, keep_eta, keep_ite, ite_self, keep_send, keep_sendBridle]; done)
    | (with_reducible refine (keep_foldl _ ?_ _ _).trans ?_)
    | intro _
    | split
    | simp only [keep_mk, keep_eta, keep_ite, ite_self, keep_send, keep_sendBridle]

@[simp] theorem keep_drvError (s : State) (d : Nat) (e : DrvEntry) (h code : Nat) :
    (drvError s d e h code).keep = s.keep := by
  unfold drvError
  simp only [keep_mk, keep_eta, keep_ite, ite_self, keep_recordFirst]

@[simp] theorem keep_drvReport (s : State) (d : Nat) (e : DrvEntry) (h code : Nat) :
    (drvReport s d e h code).keep = s.keep := by
  unfold drvReport
  simp only [keep_mk, keep_eta, keep_ite, ite_self, keep_reportFault]

@[simp] theorem keep_drvAbsent (s : State) (d : Nat) (e : DrvEntry) :
    (drvAbsent s d e).keep = s.keep := by
  unfold drvAbsent
  repeat' first
    | (simp only [keep_mk, keep_eta, keep_ite, ite_self, keep_absentReturn]; done)
    | (with_reducible refine (keep_foldl _ ?_ _ _).trans ?_)
    | intro _
    | split

@[simp] theorem keep_drvCacheRec (s : State) (d c h : Nat) :
    (drvCacheRec s d c h).keep = s.keep := by
  unfold drvCacheRec
  simp only [keep_mk, keep_eta, keep_ite, ite_self, keep_modDrover]

@[simp] theorem keep_drvReadHalf (d : Nat) (ms : List DrvEntry) (e : DrvEntry) (img : Image) (rows : List Nat) (errs : MemErrs)
    (s : State) (i : Nat) : (drvReadHalf d ms e img rows errs s i).2.keep = s.keep := by
  unfold drvReadHalf
  rw [apply_ite Prod.snd, keep_ite]
  simp only [keep_drvDeliver, keep_drvRead, ite_self]

@[simp] theorem keep_drvReadTrailer (d : Nat) (e : DrvEntry) (img : Image) (errs : MemErrs) (s : State) (i : Nat) :
    (drvReadTrailer d e img errs s i).2.keep = s.keep := by
  unfold drvReadTrailer
  rw [apply_ite Prod.snd, keep_ite]
  simp only [keep_drvRead, ite_self]

@[simp] theorem keep_drvReadKey (d : Nat) (ms : List DrvEntry) (e : DrvEntry) (img : Image) (rows : List Nat) (errs : MemErrs)
    (acc : Bool × State) (i : Nat) : (drvReadKey d ms e img rows errs acc i).2.keep = acc.2.keep :=
  (keep_drvReadTrailer ..).trans (keep_drvReadHalf ..)

@[simp] theorem keep_drvServe (s : State) (d : Nat) (ms : List DrvEntry) (bad : Bool) (errs : MemErrs) :
    (drvServe s d ms bad errs).keep = s.keep := by
  have hc : ∀ (l : List DrvEntry) (s : State), (l.foldl (fun s x =>
      (drvKeys x).foldl (fun s i => drvCacheRec s d x.ctx (drvHandle x i)) s) s).keep = s.keep :=
    fun l s => keep_foldl _ (fun s b => keep_foldl _ (fun s b => keep_drvCacheRec ..) _ _) _ _
  unfold drvServe
  split
  · rfl
  · rename_i e l
    dsimp only
    have h1 := (hc (e :: l) _).trans (keep_foldl (fun s x => drvAbsent s d x) (fun s b => keep_drvAbsent ..) (e :: l) s)
    generalize List.foldl _ (List.foldl _ s (e :: l)) (e :: l) = s0 at h1 ⊢
    split
    · refine (keep_foldl _ (fun s b => by simp) _ _).trans ?_
      refine (keep_foldl _ (fun s b => by simp) _ _).trans ?_
      simp only [keep_drvNotices]
      exact (keep_foldl _ (fun s b => by simp) _ _).trans h1
    · have h2 := keep_foldl2 (drvReadKey d (e :: l) e (imageOf s e.ctx)
        ((List.range (drvRange (imageOf s e.ctx) e).2).map ((drvRange (imageOf s e.ctx) e).1 + ·)) errs)
        (fun a b => keep_drvReadKey ..)
        (drvKeys e) (false, if 2 ≤ (e :: l).length then drvCount (drvCount s0 d 3 (e :: l).length) d 4 1 else drvCount s0 d 3 (e :: l).length)
      simp only [keep_ite, keep_drvCount, ite_self] at h2
      rw [← h1, ← h2]
      simp only [apply_ite State.keep, keep_drvNotices, keep_modDrover, keep_drvFinish, keep_trigger, keep_recCount, keep_drvReport,
        keep_drvError, ite_self]

@[simp] theorem keep_closeGang (s : State) (d g : Nat) :
    (closeGang s d g).keep = s.keep := by
  unfold closeGang
  simp only [keep_mk, keep_eta, keep_ite, ite_self, keep_modDrover]

@[simp] theorem keep_drvAccept (s : State) (d : Nat) (e : DrvEntry) (bad : Bool) (errs : MemErrs) :
    (drvAccept s d e bad errs).keep = s.keep := by
  unfold drvAccept
  repeat' first
    | (simp only [keep_mk, keep_eta, keep_ite, ite_self, keep_closeGang, keep_drvServe, keep_modDrover]; done)
    | split

end Sys2Proof.Machine
end

