-- ==== Sys2Proof/Laws/Keep5.lean ====
section
/-!
SUPPORT. The queue, and state and logical ID of every position, are kept by the operations of: Steps, StallPower,
Margin, Reset, Mctp, Smithy, ReleaseGate, Spdm, Boot.
-/

namespace Sys2Proof.Machine

set_option linter.unusedSimpArgs false
set_option linter.unusedTactic false
set_option linter.unreachableTactic false

@[simp] theorem keep_storeCopy (s : State) (c lid h : Nat) (r : W128) (poison : Bool) :
    (storeCopy s c lid h r poison).keep = s.keep := by
  unfold storeCopy
  repeat' first
    | (simp only [keep_mk, keep_eta, keep_ite, ite_self, keep_explain, keep_modCtx, keep_reportFault]; done)
    | split

@[simp] theorem keep_deliverRecords (s : State) (c : Nat) :
    (deliverRecords s c).keep = s.keep := by
  unfold deliverRecords
  repeat' first
    | (simp only [keep_mk, keep_eta, keep_ite, ite_self, keep_modCtx, keep_modRec, keep_modStall]; done)
    | (with_reducible refine (keep_foldl _ ?_ _ _).trans ?_)
    | intro _
    | split
    | simp only [keep_mk, keep_eta, keep_ite, ite_self, keep_modCtx, keep_modRec, keep_modStall]

@[simp] theorem keep_closeEpoch (s : State) (c : Nat) :
    (closeEpoch s c).keep = s.keep := by
  unfold closeEpoch
  repeat' first
    | (simp only [keep_mk, keep_eta, keep_ite, ite_self, keep_dbEpoch, keep_modRec]; done)
    | (with_reducible refine (keep_foldl _ ?_ _ _).trans ?_)
    | intro _
    | split
    | simp only [keep_mk, keep_eta, keep_ite, ite_self, keep_dbEpoch, keep_modRec]

@[simp] theorem keep_closeLast (s : State) (c : Nat) :
    (closeLast s c).keep = s.keep := by
  unfold closeLast
  simp only [keep_mk, keep_eta, keep_ite, ite_self, keep_closeEpoch, keep_modRec]

@[simp] theorem keep_flipMap (s : State) (c h b : Nat) :
    (flipMap s c h b).keep = s.keep := by
  unfold flipMap
  simp only [keep_mk, keep_eta, keep_ite, ite_self]

@[simp] theorem keep_abortQueue (p : Nat) (l : List (Nat × Entry)) (s : State) : (abortQueue p l s).keep = s.keep := by
  induction l generalizing s with
  | nil => rfl
  | cons x l ih =>
    obtain ⟨n, e⟩ := x
    unfold abortQueue
    split
    · exact ih s
    · split
      · rfl
      · dsimp only
        split
        · rw [keep_runEntry, keep_draw]
        · rw [ih, keep_runEntry, keep_draw]

@[simp] theorem keep_cutSends (s : State) (p n : Nat) :
    (cutSends s p n).keep = s.keep := by
  unfold cutSends
  simp only [keep_mk, keep_eta, keep_ite, ite_self, keep_draw, keep_modEntry, keep_modStall]

@[simp] theorem keep_abortEntries (s : State) (p c : Nat) :
    (abortEntries s p c).keep = s.keep := by
  unfold abortEntries
  repeat' first
    | (simp only [keep_mk, keep_eta, keep_ite, ite_self, keep_abortQueue, keep_cutSends, keep_poisonReached]; done)
    | (with_reducible refine (keep_foldl _ ?_ _ _).trans ?_)
    | intro _
    | split

@[simp] theorem keep_abortStall (s : State) (p c : Nat) :
    (abortStall s p c).keep = s.keep := by
  unfold abortStall
  simp only [keep_mk, keep_eta, keep_ite, ite_self, keep_abortEntries, keep_modStall]

@[simp] theorem keep_abortDrovers (s : State) (c : Nat) :
    (abortDrovers s c).keep = s.keep := by
  unfold abortDrovers
  repeat' first
    | (simp only [keep_mk, keep_eta, keep_ite, ite_self, keep_drvNotices, keep_modDrover]; done)
    | (with_reducible refine (keep_foldl _ ?_ _ _).trans ?_)
    | intro _
    | split
    | simp only [keep_mk, keep_eta, keep_ite, ite_self, keep_drvNotices, keep_modDrover]

@[simp] theorem keep_dropReads (s : State) (c : Nat) :
    (dropReads s c).keep = s.keep := by
  unfold dropReads
  simp only [keep_mk, keep_eta, keep_ite, ite_self]

@[simp] theorem keep_abortStep (s : State) (c : Nat) :
    (abortStep s c).keep = s.keep := by
  unfold abortStep
  repeat' first
    | (simp only [keep_mk, keep_eta, keep_ite, ite_self, keep_abortDrovers, keep_abortStall, keep_dropReads,
                    keep_modCtx]; done)
    | (with_reducible refine (keep_foldl _ ?_ _ _).trans ?_)
    | intro _
    | split
    | simp only [keep_mk, keep_eta, keep_ite, ite_self, keep_abortDrovers, keep_abortStall, keep_dropReads,
                    keep_modCtx]

@[simp] theorem keep_resetBarriers (s : State) (c : Nat) :
    (resetBarriers s c).keep = s.keep := by
  unfold resetBarriers
  repeat' first
    | (simp only [keep_mk, keep_eta, keep_ite, ite_self, keep_modLive, keep_modCtx]; done)
    | (with_reducible refine (keep_foldl _ ?_ _ _).trans ?_)
    | intro _
    | split
    | simp only [keep_mk, keep_eta, keep_ite, ite_self, keep_modLive, keep_modCtx]

@[simp] theorem keep_abortWriteBack (s : State) (c : Nat) :
    (abortWriteBack s c).keep = s.keep := by
  unfold abortWriteBack
  repeat' first
    | (simp only [keep_mk, keep_eta, keep_ite, ite_self, keep_countedDrops, keep_deliverRecords, keep_storeCopy]; done)
    | (with_reducible refine (keep_foldl _ ?_ _ _).trans ?_)
    | intro _
    | split
    | simp only [keep_mk, keep_eta, keep_ite, ite_self, keep_countedDrops, keep_deliverRecords, keep_storeCopy]

@[simp] theorem keep_clearCaches (s : State) :
    (clearCaches s).keep = s.keep := by
  unfold clearCaches
  repeat' first
    | (simp only [keep_mk, keep_eta, keep_ite, ite_self, keep_modStall]; done)
    | (with_reducible refine (keep_foldl _ ?_ _ _).trans ?_)
    | intro _
    | split

@[simp] theorem keep_loadStalls (s : State) (c : Nat) (save : NMap StallCtx) :
    (loadStalls s c save).keep = s.keep := by
  unfold loadStalls
  repeat' first
    | (simp only [keep_mk, keep_eta, keep_ite, ite_self, keep_modStall]; done)
    | (with_reducible refine (keep_foldl _ ?_ _ _).trans ?_)
    | intro _
    | split

@[simp] theorem keep_switchOut (s : State) (c : Nat) :
    (switchOut s c).keep = s.keep := by
  unfold switchOut
  repeat' first
    | (simp only [keep_mk, keep_eta, keep_ite, ite_self, keep_modCtx, keep_modDrover, keep_modStall,
                    keep_writeBackContext]; done)
    | (with_reducible refine (keep_foldl _ ?_ _ _).trans ?_)
    | intro _
    | split
    | simp only [keep_mk, keep_eta, keep_ite, ite_self, keep_modCtx, keep_modDrover, keep_modStall,
                    keep_writeBackContext]

@[simp] theorem keep_switchIn (s : State) (c : Nat) :
    (switchIn s c).keep = s.keep := by
  unfold switchIn
  repeat' first
    | (simp only [keep_mk, keep_eta, keep_ite, ite_self, keep_ensureEpoch, keep_loadStalls, keep_loftInvalidate,
                    keep_writePrimeTable, keep_writeSetTables]; done)
    | (with_reducible refine (keep_foldl _ ?_ _ _).trans ?_)
    | intro _
    | split
    | simp only [keep_mk, keep_eta, keep_ite, ite_self, keep_ensureEpoch, keep_loadStalls, keep_loftInvalidate,
                    keep_writePrimeTable, keep_writeSetTables]

@[simp] theorem keep_setAge (s : State) (p mv : Nat) :
    (setAge s p mv).keep = s.keep := by
  unfold setAge
  simp only [keep_mk, keep_eta, keep_ite, ite_self, keep_csrPut, keep_modStall]

@[simp] theorem keep_windowWriteLine (s : State) (p c line first : Nat) (bs : List Byte) :
    (windowWriteLine s p c line first bs).keep = s.keep := by
  unfold windowWriteLine
  simp only [keep_mk, keep_eta, keep_ite, ite_self, keep_loftWrite]

@[simp] theorem keep_wakeNap (s : State) (p : Nat) :
    (wakeNap s p).keep = s.keep := by
  unfold wakeNap
  simp only [keep_mk, keep_eta, keep_ite, ite_self, keep_modStall]

@[simp] theorem keep_loftWindow (who : Requester) (p : Position) (off : Nat) (a : Access) (s : State) :
    (loftWindow who p off a s).keep = s.keep := by
  unfold loftWindow
  repeat' first
    | (simp only [keep_mk, keep_eta, keep_ite, ite_self, keep_aerError, keep_debugRecord, keep_parityFailed,
                    keep_wakeNap, keep_windowWriteLine]; done)
    | (with_reducible refine (keep_foldl _ ?_ _ _).trans ?_)
    | intro _
    | split
    | simp only [keep_mk, keep_eta, keep_ite, ite_self, keep_aerError, keep_debugRecord, keep_parityFailed,
                    keep_wakeNap, keep_windowWriteLine]

@[simp] theorem keep_modOstler (s : State) (f : Ostler → Ostler) :
    (modOstler s f).keep = s.keep := by
  unfold modOstler
  simp only [keep_mk, keep_eta, keep_ite, ite_self]

@[simp] theorem keep_writeMargin (s : State) :
    (writeMargin s).keep = s.keep := by
  unfold writeMargin
  simp only [keep_mk, keep_eta, keep_ite, ite_self, keep_modOstler]

@[simp] theorem keep_settleMargin (s : State) :
    (settleMargin s).keep = s.keep := by
  unfold settleMargin
  simp only [keep_mk, keep_eta, keep_ite, ite_self, keep_writeMargin]

@[simp] theorem keep_modRst (s : State) (f : Rst → Rst) :
    (modRst s f).keep = s.keep := by
  unfold modRst
  simp only [keep_mk, keep_eta, keep_ite, ite_self]

@[simp] theorem keep_undefineSmithy (s : State) :
    (undefineSmithy s).keep = s.keep := by
  unfold undefineSmithy
  repeat' first
    | (simp only [keep_mk, keep_eta, keep_ite, ite_self, keep_draw]; done)
    | (with_reducible refine (keep_foldl _ ?_ _ _).trans ?_)
    | intro _
    | split

@[simp] theorem keep_loseRecords (s : State) :
    (loseRecords s).keep = s.keep := by
  unfold loseRecords
  simp only [keep_mk, keep_eta, keep_ite, ite_self, keep_draw]

@[simp] theorem keep_markCause (s : State) (bit : Nat) :
    (markCause s bit).keep = s.keep := by
  unfold markCause
  simp only [keep_mk, keep_eta, keep_ite, ite_self, keep_csrSetField]

@[simp] theorem keep_pulseActs (s : State) (ns : Nat) :
    (pulseActs s ns).2.keep = s.keep := by
  unfold pulseActs
  repeat' first
    | (simp only [keep_mk, keep_eta, keep_ite, ite_self, keep_draw]; done)
    | split

@[simp] theorem keep_resetGatehouse (s : State) :
    (resetGatehouse s).keep = s.keep := by
  unfold resetGatehouse
  simp only [keep_mk, keep_eta, keep_ite, ite_self, keep_csrClear]

@[simp] theorem keep_writeWdog (s : State) (v : Nat) :
    (writeWdog s v).keep = s.keep := by
  unfold writeWdog
  simp only [keep_mk, keep_eta, keep_ite, ite_self, keep_modRst]

@[simp] theorem keep_readRail (s : State) (rail mv : Nat) :
    (readRail s rail mv).keep = s.keep := by
  unfold readRail
  simp only [keep_mk, keep_eta, keep_ite, ite_self]

@[simp] theorem keep_clockLost (s : State) (pos : Nat) :
    (clockLost s pos).keep = s.keep := by
  unfold clockLost
  simp only [keep_mk, keep_eta, keep_ite, ite_self, keep_csrSetField, keep_pwrCount, keep_reportFault,
                keep_reportOstler]

@[simp] theorem keep_sampleRail (s : State) (mv : Nat) :
    (sampleRail s mv).keep = s.keep := by
  unfold sampleRail
  simp only [keep_mk, keep_eta, keep_ite, ite_self, keep_csrSetField, keep_readRail]

@[simp] theorem keep_dbRail (s : State) (code pos value : Nat) :
    (dbRail s code pos value).keep = s.keep := by
  unfold dbRail
  simp only [keep_mk, keep_eta, keep_ite, ite_self, keep_dbAppend]

@[simp] theorem keep_eachPowered (s : State) (f : Stall → Stall) :
    (eachPowered s f).keep = s.keep := by
  unfold eachPowered
  repeat' first
    | (simp only [keep_mk, keep_eta, keep_ite, ite_self, keep_modStall]; done)
    | (with_reducible refine (keep_foldl _ ?_ _ _).trans ?_)
    | intro _
    | split

@[simp] theorem keep_countStretch (s : State) (p : Nat) :
    (countStretch s p).keep = s.keep := by
  unfold countStretch
  simp only [keep_mk, keep_eta, keep_ite, ite_self, keep_csrSetField, keep_draw]

@[simp] theorem keep_countEnergy (s : State) (p : Nat) :
    (countEnergy s p).keep = s.keep := by
  unfold countEnergy
  simp only [keep_mk, keep_eta, keep_ite, ite_self, keep_bumpBy, keep_draw]

@[simp] theorem keep_answer (s : State) (via : Transport) (type : Nat) (m : List Byte) :
    (answer s via type m).keep = s.keep := by
  unfold answer
  repeat' first
    | (simp only [keep_mk, keep_eta, keep_ite, ite_self, keep_sendFlit]; done)
    | (with_reducible refine (keep_foldl _ ?_ _ _).trans ?_)
    | intro _
    | split

@[simp] theorem keep_tookMessage (s : State) (via : Transport) :
    (tookMessage s via).keep = s.keep := by
  unfold tookMessage
  repeat' first
    | (simp only [keep_mk, keep_eta, keep_ite, ite_self]; done)
    | split

@[simp] theorem keep_modSmithy (s : State) (f : Smithy → Smithy) :
    (modSmithy s f).keep = s.keep := by
  unfold modSmithy
  simp only [keep_mk, keep_eta, keep_ite, ite_self]

@[simp] theorem keep_smithyStart (s : State) (rejected : Bool) (outs : List (Nat × Nat)) (cycles : Nat) :
    (smithyStart s rejected outs cycles).keep = s.keep := by
  unfold smithyStart
  simp only [keep_mk, keep_eta, keep_ite, ite_self, keep_modSmithy]

@[simp] theorem keep_finishSmithy (s : State) (o : SmithyOp) :
    (finishSmithy s o).keep = s.keep := by
  unfold finishSmithy
  simp only [keep_mk, keep_eta, keep_ite, ite_self, keep_bump, keep_csrSetField, keep_dbFault, keep_modSmithy,
                keep_reportOstler]

@[simp] theorem keep_countPackage (s : State) (res : Nat) :
    (countPackage s res).keep = s.keep := by
  unfold countPackage
  simp only [keep_mk, keep_eta, keep_ite, ite_self, keep_trCount]

@[simp] theorem keep_installShare (s : State) (g c h : Nat) :
    (installShare s g c h).keep = s.keep := by
  unfold installShare
  simp only [keep_mk, keep_eta, keep_ite, ite_self, keep_countPackage, keep_csrSetField, keep_extendMr,
                keep_setGateSlot, keep_trCount, keep_writeWhole]

@[simp] theorem keep_clearShare (s : State) (g : Nat) :
    (clearShare s g).keep = s.keep := by
  unfold clearShare
  simp only [keep_mk, keep_eta, keep_ite, ite_self, keep_csrSetField, keep_extendMr, keep_wipeSlot]

@[simp] theorem keep_writeInstall (s : State) (v : W64) :
    (writeInstall s v).keep = s.keep := by
  unfold writeInstall
  repeat' first
    | (simp only [keep_mk, keep_eta, keep_ite, ite_self, keep_clearShare, keep_csrPut, keep_installShare]; done)
    | (with_reducible refine (keep_foldl _ ?_ _ _).trans ?_)
    | intro _
    | split
    | simp only [keep_mk, keep_eta, keep_ite, ite_self, keep_clearShare, keep_csrPut, keep_installShare]

@[simp] theorem keep_denyUnread (s : State) (c reason : Nat) :
    (denyUnread s c reason).keep = s.keep := by
  unfold denyUnread
  simp only [keep_mk, keep_eta, keep_ite, ite_self, keep_denyRelease, keep_draw]

@[simp] theorem keep_checkRelease (s : State) (r : Release) :
    (checkRelease s r).keep = s.keep := by
  unfold checkRelease
  repeat' first
    | (simp only [keep_mk, keep_eta, keep_ite, ite_self, keep_denyRelease, keep_denyUnread, keep_modTack]; done)
    | (with_reducible refine (keep_foldl _ ?_ _ _).trans ?_)
    | intro _
    | split
    | simp only [keep_mk, keep_eta, keep_ite, ite_self, keep_denyRelease, keep_denyUnread, keep_modTack]

@[simp] theorem keep_writeRequest (s : State) (v : W64) :
    (writeRequest s v).keep = s.keep := by
  unfold writeRequest
  simp only [keep_mk, keep_eta, keep_ite, ite_self, keep_checkRelease, keep_csrPut, keep_csrSetField, keep_trCount]

@[simp] theorem keep_storeOut (s : State) (dout : HDecl) (ls : List (Nat × Line)) :
    (storeOut s dout ls).keep = s.keep := by
  unfold storeOut
  repeat' first
    | (simp only [keep_mk, keep_eta, keep_ite, ite_self, keep_storeBlock]; done)
    | (with_reducible refine (keep_foldl _ ?_ _ _).trans ?_)
    | intro _
    | split

@[simp] theorem keep_zeroPen (s : State) (r : Release) (n : Nat) :
    (zeroPen s r n).keep = s.keep := by
  unfold zeroPen
  repeat' first
    | (simp only [keep_mk, keep_eta, keep_ite, ite_self, keep_loftWrite]; done)
    | (with_reducible refine (keep_foldl _ ?_ _ _).trans ?_)
    | intro _
    | split

@[simp] theorem keep_released (s : State) (r : Release) (p : Policy) :
    (released s r p).keep = s.keep := by
  unfold released
  simp only [keep_mk, keep_eta, keep_ite, ite_self, keep_dbAppend, keep_modTack, keep_setGateSlot, keep_trCount,
                keep_writeResult]

@[simp] theorem keep_releaseFailed (s : State) (r : Release) (code : Nat) :
    (releaseFailed s r code).keep = s.keep := by
  unfold releaseFailed
  simp only [keep_mk, keep_eta, keep_ite, ite_self, keep_draw, keep_modCtx, keep_modTack, keep_reportFault,
                keep_trCount, keep_writeResult]

@[simp] theorem keep_gateRun (s : State) (r : Release) (fault : Nat) :
    (gateRun s r fault).keep = s.keep := by
  unfold gateRun
  repeat' first
    | (simp only [keep_mk, keep_eta, keep_ite, ite_self, keep_denyRelease, keep_drawMany, keep_releaseFailed,
                    keep_released, keep_storeOut, keep_zeroPen]; done)
    | (with_reducible refine (keep_foldl _ ?_ _ _).trans ?_)
    | intro _
    | split
    | simp only [keep_mk, keep_eta, keep_ite, ite_self, keep_denyRelease, keep_drawMany, keep_releaseFailed,
                    keep_released, keep_storeOut, keep_zeroPen]

@[simp] theorem keep_spdmSend (s : State) (via : Transport) (code p1 p2 : Nat) (body : List Byte) :
    (spdmSend s via code p1 p2 body).keep = s.keep := by
  unfold spdmSend
  simp only [keep_mk, keep_eta, keep_ite, ite_self, keep_answer]

@[simp] theorem keep_spdmSecure (s : State) (via : Transport) (ses code p1 p2 : Nat) (body : List Byte) :
    (spdmSecure s via ses code p1 p2 body).keep = s.keep := by
  unfold spdmSecure
  simp only [keep_mk, keep_eta, keep_ite, ite_self, keep_answer]

@[simp] theorem keep_spdmError (s : State) (via : Transport) (e : Nat) :
    (spdmError s via e).keep = s.keep := by
  unfold spdmError
  simp only [keep_mk, keep_eta, keep_ite, ite_self, keep_spdmSend]

@[simp] theorem keep_setStage (s : State) (via : Transport) (k : Nat) :
    (setStage s via k).keep = s.keep := by
  unfold setStage
  simp only [keep_mk, keep_eta, keep_ite, ite_self, keep_modTack]

@[simp] theorem keep_spdm (s : State) (via : Transport) (need : Nat) (go : State) (hgo : go.keep = s.keep) :
    (spdm s via need go).keep = s.keep := by
  unfold spdm
  simp only [keep_mk, keep_eta, keep_ite, ite_self, keep_spdmError, keep_tookMessage, hgo]

@[simp] theorem keep_drawNonce (s : State) :
    (drawNonce s).2.keep = s.keep := by
  unfold drawNonce
  simp only [keep_mk, keep_eta, keep_ite, ite_self, keep_draw]

@[simp] theorem keep_smithyEcdhe (s : State) (ok : Bool) :
    (smithyEcdhe s ok).keep = s.keep := by
  unfold smithyEcdhe
  simp only [keep_mk, keep_eta, keep_ite, ite_self, keep_bump, keep_bumpBy, keep_csrSetField, keep_dbFault,
                keep_modSmithy, keep_reportOstler]

@[simp] theorem keep_inSes (s : State) (via : Transport) (session : Nat) (go : State) (hgo : go.keep = s.keep) :
    (inSes s via session go).keep = s.keep := by
  unfold inSes
  repeat' first
    | (simp only [keep_mk, keep_eta, keep_ite, ite_self, keep_spdm, keep_spdmError, hgo]; done)
    | split

@[simp] theorem keep_measureImage (s : State) (c : Nat) (img : List Byte) :
    (measureImage s c img).keep = s.keep := by
  unfold measureImage
  simp only [keep_mk, keep_eta, keep_ite, ite_self, keep_extendMr, keep_modTack]

@[simp] theorem keep_setIvr (s : State) (p : Nat) :
    (setIvr s p).keep = s.keep := by
  unfold setIvr
  simp only [keep_mk, keep_eta, keep_ite, ite_self, keep_csrSetField, keep_modStall]

@[simp] theorem keep_trainHbm (s : State) :
    (trainHbm s).keep = s.keep := by
  unfold trainHbm
  repeat' first
    | (simp only [keep_mk, keep_eta, keep_ite, ite_self, keep_draw]; done)
    | (with_reducible refine (keep_foldl _ ?_ _ _).trans ?_)
    | intro _
    | split

@[simp] theorem keep_installRegions (s : State) :
    (installRegions s).keep = s.keep := by
  unfold installRegions
  repeat' first
    | (simp only [keep_mk, keep_eta, keep_ite, ite_self, keep_modRegion]; done)
    | (with_reducible refine (keep_foldl _ ?_ _ _).trans ?_)
    | intro _
    | split
    | simp only [keep_mk, keep_eta, keep_ite, ite_self, keep_modRegion]

@[simp] theorem keep_checkSlot (s : State) (g : Nat) :
    (checkSlot s g).keep = s.keep := by
  unfold checkSlot
  repeat' first
    | (simp only [keep_mk, keep_eta, keep_ite, ite_self, keep_extendMr, keep_setGateSlot, keep_wipeSlot]; done)
    | split

@[simp] theorem keep_measureRom (s : State) :
    (measureRom s).keep = s.keep := by
  unfold measureRom
  simp only [keep_mk, keep_eta, keep_ite, ite_self, keep_extendMr]

@[simp] theorem keep_startFirmware (s : State) (a b c : Bool) :
    (startFirmware s a b c).keep = s.keep := by
  unfold startFirmware
  simp only [keep_mk, keep_eta, keep_ite, ite_self, keep_deriveFwKeys, keep_measureImage, keep_modRst, keep_modTack]

@[simp] theorem keep_enterRecovery (s : State) :
    (enterRecovery s).keep = s.keep := by
  unfold enterRecovery
  simp only [keep_mk, keep_eta, keep_ite, ite_self, keep_modRst]

@[simp] theorem keep_startSmithy (s : State) :
    (startSmithy s).keep = s.keep := by
  unfold startSmithy
  simp only [keep_mk, keep_eta, keep_ite, ite_self, keep_modSmithy, keep_smithyClear]

@[simp] theorem keep_bootFaultN (s : State) :
    (bootFaultN s).keep = s.keep := by
  unfold bootFaultN
  simp only [keep_mk, keep_eta, keep_ite, ite_self, keep_csrSetField, keep_modRst]

@[simp] theorem keep_openRings (s : State) :
    (openRings s).keep = s.keep := by
  unfold openRings
  repeat' first
    | (simp only [keep_mk, keep_eta, keep_ite, ite_self, keep_dbAppend, keep_modRst, keep_takeHeld]; done)
    | (with_reducible refine (keep_foldl _ ?_ _ _).trans ?_)
    | intro _
    | split

end Sys2Proof.Machine
end

