-- ==== Sys2Proof/Laws/Keep6.lean ====
section
/-!
SUPPORT. The queue, and state and logical ID of every position, are kept by the operations of: Ledger, BlockReset,
Transfer, Commands, Firmware, Ostler, Registers, Management, Debug, SystemBarrier.
-/

namespace Sys2Proof.Machine

set_option linter.unusedSimpArgs false
set_option linter.unusedTactic false
set_option linter.unreachableTactic false

@[simp] theorem keep_modDisc (s : State) (f : Disc → Disc) :
    (modDisc s f).keep = s.keep := by
  unfold modDisc
  simp only [keep_mk, keep_eta, keep_ite, ite_self]

@[simp] theorem keep_mgCount (s : State) (i : Nat) :
    (mgCount s i).keep = s.keep := by
  unfold mgCount
  simp only [keep_mk, keep_eta, keep_ite, ite_self, keep_csrPut]

@[simp] theorem keep_stepLedger (s : State) (th : Int) :
    (stepLedger s th).keep = s.keep := by
  unfold stepLedger
  simp only [keep_mk, keep_eta, keep_ite, ite_self]

@[simp] theorem keep_takeSample (s : State) (src : Nat) (th : Int) :
    (takeSample s src th).keep = s.keep := by
  unfold takeSample
  simp only [keep_mk, keep_eta, keep_ite, ite_self, keep_csrSetField, keep_modDisc, keep_stepLedger]

@[simp] theorem keep_sampleFrom (s : State) (src : Nat) (th : Int) :
    (sampleFrom s src th).keep = s.keep := by
  unfold sampleFrom
  simp only [keep_mk, keep_eta, keep_ite, ite_self, keep_takeSample]

@[simp] theorem keep_writeLedgerSet (s : State) (v : W64) :
    (writeLedgerSet s v).keep = s.keep := by
  unfold writeLedgerSet
  simp only [keep_mk, keep_eta, keep_ite, ite_self]

@[simp] theorem keep_ptpSample (s : State) :
    (ptpSample s).keep = s.keep := by
  unfold ptpSample
  repeat' first
    | (simp only [keep_mk, keep_eta, keep_ite, ite_self, keep_mgCount, keep_sampleFrom]; done)
    | split

@[simp] theorem keep_forceEngine (s : State) (p : Nat) (g : Engine) :
    (forceEngine s p g).keep = s.keep := by
  unfold forceEngine
  repeat' first
    | (simp only [keep_mk, keep_eta, keep_ite, ite_self, keep_dropEntry, keep_modLive, keep_poisonDest]; done)
    | (with_reducible refine (keep_foldl _ ?_ _ _).trans ?_)
    | intro _
    | split

@[simp] theorem keep_resetEngine (s : State) (p : Nat) (g : Engine) :
    (resetEngine s p g).keep = s.keep := by
  unfold resetEngine
  repeat' first
    | (simp only [keep_mk, keep_eta, keep_ite, ite_self, keep_modStall]; done)
    | split

@[simp] theorem keep_resetStall (s : State) (p : Nat) :
    (resetStall s p).keep = s.keep := by
  unfold resetStall
  simp only [keep_mk, keep_eta, keep_ite, ite_self, keep_csrClear, keep_csrSetField, keep_loftInvalidate,
                keep_setStall]

@[simp] theorem keep_forceStall (s : State) (p : Nat) :
    (forceStall s p).keep = s.keep := by
  unfold forceStall
  repeat' first
    | (simp only [keep_mk, keep_eta, keep_ite, ite_self, keep_forceEngine, keep_resetStall]; done)
    | (with_reducible refine (keep_foldl _ ?_ _ _).trans ?_)
    | intro _
    | split
    | simp only [keep_mk, keep_eta, keep_ite, ite_self, keep_forceEngine, keep_resetStall]

@[simp] theorem keep_resetDrover (s : State) (d : Nat) :
    (resetDrover s d).keep = s.keep := by
  unfold resetDrover
  repeat' first
    | (simp only [keep_mk, keep_eta, keep_ite, ite_self, keep_csrClear, keep_drvNotices, keep_drvPump, keep_modDrover]; done)
    | (with_reducible refine (keep_foldl _ ?_ _ _).trans ?_)
    | intro _
    | split
    | simp only [keep_mk, keep_eta, keep_ite, ite_self, keep_csrClear, keep_drvNotices, keep_drvPump, keep_modDrover]

@[simp] theorem keep_resetPort (s : State) (n : Nat) :
    (resetPort s n).keep = s.keep := by
  unfold resetPort
  simp only [keep_mk, keep_eta, keep_ite, ite_self, keep_beginRetrain, keep_leaveDown]

@[simp] theorem keep_doBlockReset (s : State) (kind target : Nat) :
    (doBlockReset s kind target).keep = s.keep := by
  unfold doBlockReset
  repeat' first
    | (simp only [keep_mk, keep_eta, keep_ite, ite_self, keep_forceEngine, keep_forceStall, keep_resetDrover,
                    keep_resetEngine, keep_resetGatehouse, keep_resetPort]; done)
    | split

@[simp] theorem keep_blockNow (s : State) (kind target result : Nat) :
    (blockNow s kind target result).keep = s.keep := by
  unfold blockNow
  simp only [keep_mk, keep_eta, keep_ite, ite_self, keep_csrSetField, keep_doBlockReset, keep_modRst]

@[simp] theorem keep_writeBlk (s : State) (v : W64) :
    (writeBlk s v).keep = s.keep := by
  unfold writeBlk
  simp only [keep_mk, keep_eta, keep_ite, ite_self, keep_blockNow, keep_csrPut, keep_csrSetField, keep_modRst]

@[simp] theorem keep_modGateFlow (s : State) (ring : Nat) (f : Flow → Flow) :
    (modGateFlow s ring f).keep = s.keep := by
  unfold modGateFlow
  simp only [keep_mk, keep_eta, keep_ite, ite_self]

@[simp] theorem keep_gateWrite (s : State) (ring dst epoch : Nat) (q : List (Nat × Line)) (tally : Option Nat) :
    (gateWrite s ring dst epoch q tally).keep = s.keep := by
  unfold gateWrite
  simp only [keep_mk, keep_eta, keep_ite, ite_self, keep_modGateFlow, keep_sendFlit]

@[simp] theorem keep_beginWindow (s : State) (x : Xfer) :
    (beginWindow s x).keep = s.keep := by
  unfold beginWindow
  repeat' first
    | (simp only [keep_mk, keep_eta, keep_ite, ite_self, keep_gateWrite, keep_modGateFlow]; done)
    | (with_reducible refine (keep_foldl _ ?_ _ _).trans ?_)
    | intro _
    | split

@[simp] theorem keep_endXfer (s : State) (x : Xfer) (mark : Nat) :
    (endXfer s x mark).keep = s.keep := by
  unfold endXfer
  simp only [keep_mk, keep_eta, keep_ite, ite_self, keep_passOn]

@[simp] theorem keep_finishWindow (s : State) (x : Xfer) :
    (finishWindow s x).keep = s.keep := by
  unfold finishWindow
  simp only [keep_mk, keep_eta, keep_ite, ite_self, keep_endXfer, keep_modGateFlow, keep_rlDevCount, keep_sendFlit]

@[simp] theorem keep_xferDevice (s : State) (x : Xfer) :
    (xferDevice s x).keep = s.keep := by
  unfold xferDevice
  simp only [keep_mk, keep_eta, keep_ite, ite_self, keep_discardLines, keep_endXfer, keep_writeBytes]

@[simp] theorem keep_gateXfers (s : State) (c : Nat) :
    (gateXfers s c).keep = s.keep := by
  unfold gateXfers
  repeat' first
    | (simp only [keep_mk, keep_eta, keep_ite, ite_self, keep_beginWindow, keep_endXfer, keep_finishWindow,
                    keep_xferDevice]; done)
    | split

@[simp] theorem keep_apertureRefused (s : State) (last : Nat) :
    (apertureRefused s last).keep = s.keep := by
  unfold apertureRefused
  simp only [keep_mk, keep_eta, keep_ite, ite_self, keep_ghCount, keep_hbmCount]

@[simp] theorem keep_apertureRead (s : State) (gs : List Nat) (errs : MemErrs) :
    (apertureRead s gs errs).2.2.keep = s.keep := by
  have h : ∀ (l : List Nat) (acc : List (Nat × List Byte) × Bool × State), (l.foldl (fun acc g =>
      match apertureRegion acc.2.2 (g * 256) with
      | none => acc
      | some i => (acc.1 ++ [(g, (readRequest acc.2.2 (regionAt acc.2.2 i) g (errs.at_ g) false).1)],
          acc.2.1 || (readRequest acc.2.2 (regionAt acc.2.2 i) g (errs.at_ g) false).2.1,
          (readRequest acc.2.2 (regionAt acc.2.2 i) g (errs.at_ g) false).2.2)) acc).2.2.keep = acc.2.2.keep := by
    intro l
    induction l with
    | nil => intro acc; rfl
    | cons g l ih =>
      intro acc
      rw [List.foldl_cons, ih]
      split
      · rfl
      · exact keep_readRequest ..
  exact h gs ([], false, s)

@[simp] theorem keep_reject (s : State) (c : Nat) (k : Packet) (reason : Nat) :
    (reject s c k reason).keep = s.keep := by
  unfold reject
  simp only [keep_mk, keep_eta, keep_ite, ite_self, keep_completeCmd]

@[simp] theorem keep_rejectMalformed (n : Nat) (s : State) (c : Nat) : (rejectMalformed n s c).keep = s.keep := by
  induction n generalizing s with
  | zero => rfl
  | succ n ih =>
    unfold rejectMalformed
    dsimp only
    split
    · rfl
    · split
      · rw [ih]
        simp
      · rfl

@[simp] theorem keep_settleRing (s : State) (c : Nat) :
    (settleRing s c).keep = s.keep := by
  unfold settleRing
  simp only [keep_mk, keep_eta, keep_ite, ite_self, keep_rejectMalformed, keep_replayTake]

@[simp] theorem keep_command (s : State) (c op : Nat) (go : State → Packet → State) (hgo : ∀ v0 v1, (go v0 v1).keep = v0.keep) :
    (command s c op go).keep = s.keep := by
  unfold command
  repeat' first
    | (simp only [keep_mk, keep_eta, keep_ite, ite_self, keep_settleRing, hgo]; done)
    | (with_reducible refine (keep_foldl _ ?_ _ _).trans ?_)
    | intro _
    | split
    | simp only [keep_mk, keep_eta, keep_ite, ite_self, keep_settleRing, hgo]

@[simp] theorem keep_begin (s : State) (c : Nat) (k : Packet) :
    (begin s c k).keep = s.keep := by
  unfold begin
  simp only [keep_mk, keep_eta, keep_ite, ite_self, keep_modCtx]

@[simp] theorem keep_putStaged (s : State) (c : Nat) (bs : List Byte) :
    (putStaged s c bs).keep = s.keep := by
  unfold putStaged
  repeat' first
    | (simp only [keep_mk, keep_eta, keep_ite, ite_self, keep_discardLines, keep_writeBytes]; done)
    | split

@[simp] theorem keep_loaderReject (s : State) (c : Nat) (k : Packet) (sub sec ix : Nat) :
    (loaderReject s c k sub sec ix).keep = s.keep := by
  unfold loaderReject
  simp only [keep_mk, keep_eta, keep_ite, ite_self, keep_completeCmd, keep_recordFirst]

@[simp] theorem keep_claimRegion (s : State) (c : Nat) (r : RegClaim) :
    (claimRegion s c r).keep = s.keep := by
  unfold claimRegion
  repeat' first
    | (simp only [keep_mk, keep_eta, keep_ite, ite_self, keep_modRegion]; done)
    | split

@[simp] theorem keep_drawKeys (s : State) (owner : Nat) :
    (drawKeys s owner).keep = s.keep := by
  unfold drawKeys
  simp only [keep_mk, keep_eta, keep_ite, ite_self, keep_draw]

@[simp] theorem keep_installImage (s : State) (c : Nat) (img : Image) :
    (installImage s c img).keep = s.keep := by
  unfold installImage
  repeat' first
    | (simp only [keep_mk, keep_eta, keep_ite, ite_self, keep_claimRegion, keep_dbAppend, keep_discardLines,
                    keep_drawKeys, keep_modCtx, keep_placeCode, keep_writeContents]; done)
    | (with_reducible refine (keep_foldl _ ?_ _ _).trans ?_)
    | intro _
    | split
    | simp only [keep_mk, keep_eta, keep_ite, ite_self, keep_claimRegion, keep_dbAppend, keep_discardLines,
                    keep_drawKeys, keep_modCtx, keep_placeCode, keep_writeContents]

@[simp] theorem keep_writeHbmContents (s : State) (c : Nat) :
    (writeHbmContents s c).keep = s.keep := by
  unfold writeHbmContents
  repeat' first
    | (simp only [keep_mk, keep_eta, keep_ite, ite_self, keep_storeBlock]; done)
    | (with_reducible refine (keep_foldl _ ?_ _ _).trans ?_)
    | intro _
    | split

@[simp] theorem keep_finishInstall (s : State) (c : Nat) (k : Packet) :
    (finishInstall s c k).keep = s.keep := by
  unfold finishInstall
  simp only [keep_mk, keep_eta, keep_ite, ite_self, keep_completeCmd, keep_modCtx, keep_setCmr, keep_writeHbmContents]

@[simp] theorem keep_clearHalted (s : State) (c : Nat) :
    (clearHalted s c).keep = s.keep := by
  unfold clearHalted
  repeat' first
    | (simp only [keep_mk, keep_eta, keep_ite, ite_self, keep_modCtx, keep_modLive]; done)
    | (with_reducible refine (keep_foldl _ ?_ _ _).trans ?_)
    | intro _
    | split

@[simp] theorem keep_finishAbort (s : State) (c : Nat) (by_ : Packet) :
    (finishAbort s c by_).keep = s.keep := by
  unfold finishAbort
  repeat' first
    | (simp only [keep_mk, keep_eta, keep_ite, ite_self, keep_completeCmd]; done)
    | (with_reducible refine (keep_foldl _ ?_ _ _).trans ?_)
    | intro _
    | split
    | simp only [keep_mk, keep_eta, keep_ite, ite_self, keep_completeCmd]

@[simp] theorem keep_supplyCopy (s : State) (c slot : Nat) (d : HDecl) (n base : Nat) (rec_ : W128) :
    (supplyCopy s c slot d n base rec_).keep = s.keep := by
  unfold supplyCopy
  repeat' first
    | (simp only [keep_mk, keep_eta, keep_ite, ite_self, keep_storeBlock]; done)
    | (with_reducible refine (keep_foldl _ ?_ _ _).trans ?_)
    | intro _
    | split

@[simp] theorem keep_supplyLines (s : State) (c : Nat) (k : Packet) (d : HDecl) (n : Nat) :
    (supplyLines s c k d n).keep = s.keep := by
  unfold supplyLines
  repeat' first
    | (simp only [keep_mk, keep_eta, keep_ite, ite_self, keep_supplyCopy]; done)
    | (with_reducible refine (keep_foldl _ ?_ _ _).trans ?_)
    | intro _
    | split

@[simp] theorem keep_finishSupply (s : State) (c : Nat) (k : Packet) :
    (finishSupply s c k).keep = s.keep := by
  unfold finishSupply
  repeat' first
    | (simp only [keep_mk, keep_eta, keep_ite, ite_self, keep_cacheSlots, keep_completeCmd, keep_modCtx, keep_reject,
                    keep_supplyLines]; done)
    | (with_reducible refine (keep_foldl _ ?_ _ _).trans ?_)
    | intro _
    | split
    | simp only [keep_mk, keep_eta, keep_ite, ite_self, keep_cacheSlots, keep_completeCmd, keep_modCtx, keep_reject,
                    keep_supplyLines]

@[simp] theorem keep_stopSupply (s : State) (c : Nat) (k : Packet) :
    (stopSupply s c k).keep = s.keep := by
  unfold stopSupply
  repeat' first
    | (simp only [keep_mk, keep_eta, keep_ite, ite_self, keep_cacheSlots, keep_completeCmd, keep_draw,
                    keep_supplyLines]; done)
    | split

@[simp] theorem keep_clearContext (s : State) (c : Nat) :
    (clearContext s c).keep = s.keep := by
  unfold clearContext
  repeat' first
    | (simp only [keep_mk, keep_eta, keep_ite, ite_self, keep_discardLines, keep_freeCode, keep_loftInvalidate,
                    keep_modCtx, keep_modStall]; done)
    | (with_reducible refine (keep_foldl _ ?_ _ _).trans ?_)
    | intro _
    | split
    | simp only [keep_mk, keep_eta, keep_ite, ite_self, keep_discardLines, keep_freeCode, keep_loftInvalidate,
                    keep_modCtx, keep_modStall]

@[simp] theorem keep_finishUnload (s : State) (c : Nat) (k : Packet) :
    (finishUnload s c k).keep = s.keep := by
  unfold finishUnload
  simp only [keep_mk, keep_eta, keep_ite, ite_self, keep_completeCmd, keep_modCtx, keep_setCmr]

@[simp] theorem keep_restage (s : State) (c : Nat) :
    (restage s c).keep = s.keep := by
  unfold restage
  simp only [keep_mk, keep_eta, keep_ite, ite_self, keep_csrSetField]

@[simp] theorem keep_eraseSector (s : State) (k : Nat) :
    (eraseSector s k).keep = s.keep := by
  unfold eraseSector
  simp only [keep_mk, keep_eta, keep_ite, ite_self, keep_modOstler]

@[simp] theorem keep_programByte (s : State) (o : Nat) (b : Byte) :
    (programByte s o b).keep = s.keep := by
  unfold programByte
  simp only [keep_mk, keep_eta, keep_ite, ite_self, keep_modOstler]

@[simp] theorem keep_flashWriteData (s : State) (off : Nat) (data : List Byte) :
    (flashWriteData s off data).keep = s.keep := by
  unfold flashWriteData
  repeat' first
    | (simp only [keep_mk, keep_eta, keep_ite, ite_self, keep_eraseSector, keep_programByte, keep_restage]; done)
    | (with_reducible refine (keep_foldl _ ?_ _ _).trans ?_)
    | intro _
    | split

@[simp] theorem keep_activate (s : State) (c : Nat) (b : Bool) :
    (activate s c b).keep = s.keep := by
  unfold activate
  simp only [keep_mk, keep_eta, keep_ite, ite_self, keep_measureImage, keep_modOstler, keep_modRst]

@[simp] theorem keep_activateStaged (s : State) (c : Nat) :
    (activateStaged s c).keep = s.keep := by
  unfold activateStaged
  simp only [keep_mk, keep_eta, keep_ite, ite_self, keep_activate, keep_csrSetField, keep_modRst]

@[simp] theorem keep_renewKeys (s : State) :
    (renewKeys s).keep = s.keep := by
  unfold renewKeys
  simp only [keep_mk, keep_eta, keep_ite, ite_self, keep_deriveFwKeys, keep_issueCert]

@[simp] theorem keep_writeActivate (s : State) :
    (writeActivate s).keep = s.keep := by
  unfold writeActivate
  repeat' first
    | (simp only [keep_mk, keep_eta, keep_ite, ite_self, keep_activateStaged, keep_csrSetField, keep_renewKeys]; done)
    | (with_reducible refine (keep_foldl _ ?_ _ _).trans ?_)
    | intro _
    | split
    | simp only [keep_mk, keep_eta, keep_ite, ite_self, keep_activateStaged, keep_csrSetField, keep_renewKeys]

@[simp] theorem keep_mgSend (s : State) (via : Transport) (secured : Bool) (m : List Byte) :
    (mgSend s via secured m).keep = s.keep := by
  unfold mgSend
  simp only [keep_mk, keep_eta, keep_ite, ite_self, keep_answer]

@[simp] theorem keep_sendReport (s : State) (cls : Nat) (rec_ : List Byte) :
    (sendReport s cls rec_).keep = s.keep := by
  unfold sendReport
  repeat' first
    | (simp only [keep_mk, keep_eta, keep_ite, ite_self, keep_mgCount, keep_mgSend]; done)
    | (with_reducible refine (keep_foldl _ ?_ _ _).trans ?_)
    | intro _
    | split

@[simp] theorem keep_ringReport (s : State) (r : Report) :
    (ringReport s r).keep = s.keep := by
  unfold ringReport
  simp only [keep_mk, keep_eta, keep_ite, ite_self, keep_modOstler, keep_sendReport]

@[simp] theorem keep_drainFifo (s : State) :
    (drainFifo s).keep = s.keep := by
  unfold drainFifo
  repeat' first
    | (simp only [keep_mk, keep_eta, keep_ite, ite_self, keep_modOstler, keep_ringReport]; done)
    | (with_reducible refine (keep_foldl _ ?_ _ _).trans ?_)
    | intro _
    | split

@[simp] theorem keep_driveFaultN (s : State) :
    (driveFaultN s).keep = s.keep := by
  unfold driveFaultN
  simp only [keep_mk, keep_eta, keep_ite, ite_self, keep_modRst]

@[simp] theorem keep_raiseAlert (s : State) (cls : Nat) :
    (raiseAlert s cls).keep = s.keep := by
  unfold raiseAlert
  simp only [keep_mk, keep_eta, keep_ite, ite_self, keep_csrSetField, keep_driveFaultN]

@[simp] theorem keep_controlReply (s : State) (via : Transport) (cmd cc : Nat) (body : List Byte) :
    (controlReply s via cmd cc body).keep = s.keep := by
  unfold controlReply
  simp only [keep_mk, keep_eta, keep_ite, ite_self, keep_answer, keep_tookMessage]

@[simp] theorem keep_dhcpSend (s : State) (type : Nat) :
    (dhcpSend s type).keep = s.keep := by
  unfold dhcpSend
  simp only [keep_mk, keep_eta, keep_ite, ite_self]

@[simp] theorem keep_csrReadClear (s : State) (off : Nat) :
    (csrReadClear s off).keep = s.keep := by
  unfold csrReadClear
  repeat' first
    | (simp only [keep_mk, keep_eta, keep_ite, ite_self, keep_csrSetField]; done)
    | split

@[simp] theorem keep_metered (s : State) (off : Nat) :
    (metered s off).keep = s.keep := by
  unfold metered
  simp only [keep_mk, keep_eta, keep_ite, ite_self, keep_countEnergy, keep_countStretch]

@[simp] theorem keep_csrReadWord (s : State) (off : Nat) :
    (csrReadWord s off).2.keep = s.keep := by
  unfold csrReadWord
  repeat' first
    | (simp only [keep_mk, keep_eta, keep_ite, ite_self, keep_csrReadClear, keep_draw]; done)
    | split

@[simp] theorem keep_csrRead (s : State) (off width : Nat) :
    (csrRead s off width).2.keep = s.keep := by
  unfold csrRead
  repeat' first
    | (simp only [keep_mk, keep_eta, keep_ite, ite_self, keep_csrReadWord, keep_metered]; done)
    | split

@[simp] theorem keep_csrBus (s : State) (off width : Nat) :
    (csrBus s off width).keep = s.keep := by
  unfold csrBus
  simp only [keep_mk, keep_eta, keep_ite, ite_self, keep_csrRead]

@[simp] theorem keep_startReplay (s : State) (from_ : Nat) :
    (startReplay s from_).keep = s.keep := by
  unfold startReplay
  simp only [keep_mk, keep_eta, keep_ite, ite_self]

@[simp] theorem keep_writeReplay (s : State) (v : W64) :
    (writeReplay s v).keep = s.keep := by
  unfold writeReplay
  simp only [keep_mk, keep_eta, keep_ite, ite_self, keep_csrPut, keep_replayDone, keep_startReplay]

@[simp] theorem keep_writeAlert (s : State) (v : Nat) :
    (writeAlert s v).keep = s.keep := by
  unfold writeAlert
  simp only [keep_mk, keep_eta, keep_ite, ite_self, keep_csrSetField, keep_driveFaultN]

@[simp] theorem keep_writeMgCfg (s : State) (v : Nat) :
    (writeMgCfg s v).keep = s.keep := by
  unfold writeMgCfg
  simp only [keep_mk, keep_eta, keep_ite, ite_self, keep_csrPut, keep_dhcpSend]

@[simp] theorem keep_mgReply (s : State) (h : MgmtHdr) (op status : Nat) (body : List Byte) :
    (mgReply s h op status body).keep = s.keep := by
  unfold mgReply
  simp only [keep_mk, keep_eta, keep_ite, ite_self, keep_mgSend]

@[simp] theorem keep_mgRead (s : State) (h : MgmtHdr) (op : Nat) (ok : Bool) (go : State) (hgo : go.keep = s.keep) :
    (mgRead s h op ok go).keep = s.keep := by
  unfold mgRead
  simp only [keep_mk, keep_eta, keep_ite, ite_self, keep_mgReply, keep_tookMessage, hgo]

@[simp] theorem keep_mgControl (s : State) (h : MgmtHdr) (op : Nat) (exempt ok : Bool) (go : State) (hgo : go.keep = s.keep) :
    (mgControl s h op exempt ok go).keep = s.keep := by
  unfold mgControl
  simp only [keep_mk, keep_eta, keep_ite, ite_self, keep_mgCount, keep_mgReply, keep_tookMessage, hgo]

@[simp] theorem keep_tapSelect (s : State) (ir : Byte) :
    (tapSelect s ir).keep = s.keep := by
  unfold tapSelect
  simp only [keep_mk, keep_eta, keep_ite, ite_self]

@[simp] theorem keep_jtag (s : State) (ir : Byte) :
    (jtag s ir).keep = s.keep := by
  unfold jtag
  simp only [keep_mk, keep_eta, keep_ite, ite_self, keep_debugRecord, keep_tapSelect]

@[simp] theorem keep_ostlerMemory (s : State) (o : Nat) (a : Access) :
    (ostlerMemory s o a).keep = s.keep := by
  unfold ostlerMemory
  repeat' first
    | (simp only [keep_mk, keep_eta, keep_ite, ite_self, keep_drawMany, keep_modOstler]; done)
    | split

@[simp] theorem keep_setSys (s : State) (c id which v : Nat) :
    (setSys s c id which v).keep = s.keep := by
  unfold setSys
  simp only [keep_mk, keep_eta, keep_ite, ite_self]

@[simp] theorem keep_setKids (s : State) (c id : Nat) (ks : List Nat) :
    (setKids s c id ks).keep = s.keep := by
  unfold setKids
  simp only [keep_mk, keep_eta, keep_ite, ite_self]

@[simp] theorem keep_sendToken (s : State) (c id dst phase kind : Nat) :
    (sendToken s c id dst phase kind).keep = s.keep := by
  unfold sendToken
  simp only [keep_mk, keep_eta, keep_ite, ite_self, keep_sendFlit]

@[simp] theorem keep_closingAway (s : State) (c : Nat) :
    (closingAway s c).keep = s.keep := by
  unfold closingAway
  simp only [keep_mk, keep_eta, keep_ite, ite_self, keep_closeEpoch, keep_modCtx]

end Sys2Proof.Machine
end

