-- ==== Sys2Proof/Laws/Maps.lean ====
section
/-!
SUPPORT. Sparse maps and the byte memory: what a read after a write gives, and that every operation keeps the canonical form.
-/

namespace Sys2Proof.Machine

variable {α : Type}

theorem nget_ninsert_same (d : α) (m : NMap α) (k : Nat) (v : α) : nget d (ninsert m k v) k = v := by
  induction m with
  | nil => simp [ninsert, nget]
  | cons e m ih =>
    obtain ⟨j, w⟩ := e
    simp only [ninsert]
    split
    · simp [nget]
    · split
      · simp [nget]
      · next h => simp [nget, ih, Ne.symm h]

theorem nget_ninsert_other (d : α) (m : NMap α) {k j : Nat} (h : j ≠ k) (v : α) : nget d (ninsert m k v) j = nget d m j := by
  induction m with
  | nil => simp [ninsert, nget, h.symm]
  | cons e m ih =>
    obtain ⟨i, w⟩ := e
    simp only [ninsert]
    split
    · simp [nget, h.symm]
    · split
      · next h1 => subst h1; simp [nget, h.symm]
      · simp only [nget, ih]

theorem nget_nerase_same (d : α) (m : NMap α) (k : Nat) : nget d (nerase m k) k = d := by
  induction m with
  | nil => rfl
  | cons e m ih =>
    obtain ⟨i, w⟩ := e
    by_cases h : i = k
    · subst h; simpa [nerase, nget] using ih
    · simpa [nerase, nget, h] using ih

theorem nget_nerase_other (d : α) (m : NMap α) {k j : Nat} (h : j ≠ k) : nget d (nerase m k) j = nget d m j := by
  induction m with
  | nil => rfl
  | cons e m ih =>
    obtain ⟨i, w⟩ := e
    by_cases hi : i = k
    · subst hi; simpa [nerase, nget, h.symm] using ih
    · have e : nerase ((i, w) :: m) k = (i, w) :: nerase m k := by simp [nerase, hi]
      rw [e]
      simp only [nget, ih]

/-- A read after a write to the same key gives the value written. -/
@[simp] theorem nget_nset_same [DecidableEq α] (d : α) (m : NMap α) (k : Nat) (v : α) : nget d (nset d m k v) k = v := by
  unfold nset
  split
  · next h => rw [nget_nerase_same, h]
  · exact nget_ninsert_same d m k v

/-- A write leaves every other key alone. -/
theorem nget_nset_other [DecidableEq α] (d : α) (m : NMap α) {k j : Nat} (h : j ≠ k) (v : α) : nget d (nset d m k v) j = nget d m j := by
  unfold nset
  split
  · exact nget_nerase_other d m h
  · exact nget_ninsert_other d m h v

@[simp] theorem nget_nmod_same [DecidableEq α] (d : α) (m : NMap α) (k : Nat) (f : α → α) : nget d (nmod d m k f) k = f (nget d m k) := by
  simp [nmod]

theorem nget_nmod_other [DecidableEq α] (d : α) (m : NMap α) {k j : Nat} (h : j ≠ k) (f : α → α) :
    nget d (nmod d m k f) j = nget d m j := nget_nset_other d m h _

/-! ### The canonical form -/

theorem mem_ninsert {m : NMap α} {k : Nat} {v : α} {e : Nat × α} (h : e ∈ ninsert m k v) : e = (k, v) ∨ e ∈ m := by
  induction m with
  | nil => simp [ninsert] at h; exact .inl h
  | cons x m ih =>
    obtain ⟨j, w⟩ := x
    simp only [ninsert] at h
    split at h
    · simpa using h
    · split at h
      · rcases List.mem_cons.1 h with h | h
        · exact .inl h
        · exact .inr (List.mem_cons_of_mem _ h)
      · rcases List.mem_cons.1 h with h | h
        · exact .inr (h ▸ List.mem_cons_self)
        · rcases ih h with h | h
          · exact .inl h
          · exact .inr (List.mem_cons_of_mem _ h)

theorem rising_ninsert {m : NMap α} (h : m.Pairwise fun a b => a.1 < b.1) (k : Nat) (v : α) :
    (ninsert m k v).Pairwise fun a b => a.1 < b.1 := by
  induction m with
  | nil => simp [ninsert]
  | cons x m ih =>
    obtain ⟨j, w⟩ := x
    obtain ⟨h1, h2⟩ := List.pairwise_cons.1 h
    simp only [ninsert]
    split
    · next hk =>
      refine List.pairwise_cons.2 ⟨fun e he => ?_, h⟩
      rcases List.mem_cons.1 he with he | he
      · exact he ▸ hk
      · exact Nat.lt_trans hk (h1 e he)
    · split
      · next hk => subst hk; exact List.pairwise_cons.2 ⟨h1, h2⟩
      · next hk hj =>
        refine List.pairwise_cons.2 ⟨fun e he => ?_, ih h2⟩
        rcases mem_ninsert he with he | he
        · subst he; exact Nat.lt_of_le_of_ne (Nat.le_of_not_lt hk) (Ne.symm hj)
        · exact h1 e he

/-- Writing a key keeps the canonical form. -/
theorem nwf_nset [DecidableEq α] {d : α} {m : NMap α} (h : nwf d m = true) (k : Nat) (v : α) : nwf d (nset d m k v) = true := by
  simp only [nwf, Bool.and_eq_true, decide_eq_true_eq, List.all_eq_true] at h ⊢
  unfold nset
  split
  · exact ⟨h.1.sublist List.filter_sublist, fun e he => h.2 e (List.mem_of_mem_filter he)⟩
  · next hv =>
    refine ⟨rising_ninsert h.1 k v, fun e he => ?_⟩
    rcases mem_ninsert he with he | he
    · subst he; exact hv
    · exact h.2 e he

/-- Dropping entries keeps the canonical form. -/
theorem nwf_filter [DecidableEq α] {d : α} {m : NMap α} (h : nwf d m = true) (f : Nat × α → Bool) : nwf d (m.filter f) = true := by
  simp only [nwf, Bool.and_eq_true, decide_eq_true_eq, List.all_eq_true] at h ⊢
  exact ⟨h.1.sublist List.filter_sublist, fun e he => h.2 e (List.mem_of_mem_filter he)⟩

theorem nwf_nclear [DecidableEq α] {d : α} {m : NMap α} (h : nwf d m = true) (lo hi : Nat) : nwf d (nclear m lo hi) = true :=
  nwf_filter h _

theorem nwf_nmod [DecidableEq α] {d : α} {m : NMap α} (h : nwf d m = true) (k : Nat) (f : α → α) : nwf d (nmod d m k f) = true :=
  nwf_nset h _ _

/-! ### Bytes -/

/-- Writing bytes keeps the memory's canonical form. -/
theorem nwf_memWrite {m : NMap Byte} (h : nwf 0 m = true) (a : Nat) (bs : List Byte) : nwf 0 (memWrite m a bs) = true := by
  induction bs generalizing m a with
  | nil => exact h
  | cons b bs ih => exact ih (nwf_nset h a b) _

/-- A byte outside the bytes written reads as before. -/
theorem nget_memWrite_outside (m : NMap Byte) (a : Nat) (bs : List Byte) {x : Nat} (h : x < a ∨ a + bs.length ≤ x) :
    nget 0 (memWrite m a bs) x = nget 0 m x := by
  induction bs generalizing m a with
  | nil => rfl
  | cons b bs ih =>
    simp only [List.length_cons] at h
    simp only [memWrite]
    rw [ih _ _ (by omega), nget_nset_other 0 m (by omega)]

/-- A byte of the bytes written. -/
theorem nget_memWrite_inside (m : NMap Byte) (a : Nat) (bs : List Byte) {i : Nat} (h : i < bs.length) :
    nget 0 (memWrite m a bs) (a + i) = bs[i] := by
  induction bs generalizing m a i with
  | nil => simp at h
  | cons b bs ih =>
    simp only [memWrite]
    cases i with
    | zero =>
      rw [nget_memWrite_outside _ _ _ (by omega)]
      exact nget_nset_same 0 m a b
    | succ i =>
      have := ih (nset 0 m a b) (a + 1) (i := i) (by simpa using h)
      simpa [Nat.add_assoc, Nat.add_comm 1 i] using this

/-- A read of what was written gives it. -/
theorem memRead_memWrite (m : NMap Byte) (a : Nat) (bs : List Byte) : memRead (memWrite m a bs) a bs.length = bs := by
  apply List.ext_getElem
  · simp [memRead]
  · intro i h1 h2
    simp only [memRead, List.getElem_map, List.getElem_range]
    exact nget_memWrite_inside m a bs h2

end Sys2Proof.Machine
end

