-- ==== Sys2Proof/Laws/State.lean ====
section
/-!
SUPPORT. What each update of the state leaves in each field: one lemma per field and update; and what each read by number finds after
each write by number.
-/

namespace Sys2Proof.Machine

variable (s : State)

/-! ### csrPut -/

@[simp] theorem csrPut_pending (o : Nat) (v : W64) : (csrPut s o v).pending = s.pending := rfl
@[simp] theorem csrPut_fresh (o : Nat) (v : W64) : (csrPut s o v).fresh = s.fresh := rfl
@[simp] theorem csrPut_msgSeq (o : Nat) (v : W64) : (csrPut s o v).msgSeq = s.msgSeq := rfl
@[simp] theorem csrPut_bus (o : Nat) (v : W64) : (csrPut s o v).bus = s.bus := rfl
@[simp] theorem csrPut_busEp (o : Nat) (v : W64) : (csrPut s o v).busEp = s.busEp := rfl
@[simp] theorem csrPut_hostMem (o : Nat) (v : W64) : (csrPut s o v).hostMem = s.hostMem := rfl
@[simp] theorem csrPut_irqs (o : Nat) (v : W64) : (csrPut s o v).irqs = s.irqs := rfl
@[simp] theorem csrPut_csr (o : Nat) (v : W64) : (csrPut s o v).csr = nset (resetVal o) s.csr o v := rfl
@[simp] theorem csrPut_ledger (o : Nat) (v : W64) : (csrPut s o v).ledger = s.ledger := rfl
@[simp] theorem csrPut_positions (o : Nat) (v : W64) : (csrPut s o v).positions = s.positions := rfl
@[simp] theorem csrPut_stalls (o : Nat) (v : W64) : (csrPut s o v).stalls = s.stalls := rfl
@[simp] theorem csrPut_loft (o : Nat) (v : W64) : (csrPut s o v).loft = s.loft := rfl
@[simp] theorem csrPut_yard (o : Nat) (v : W64) : (csrPut s o v).yard = s.yard := rfl
@[simp] theorem csrPut_ctxs (o : Nat) (v : W64) : (csrPut s o v).ctxs = s.ctxs := rfl
@[simp] theorem csrPut_recs (o : Nat) (v : W64) : (csrPut s o v).recs = s.recs := rfl
@[simp] theorem csrPut_ym (o : Nat) (v : W64) : (csrPut s o v).ym = s.ym := rfl
@[simp] theorem csrPut_hbm (o : Nat) (v : W64) : (csrPut s o v).hbm = s.hbm := rfl
@[simp] theorem csrPut_grn (o : Nat) (v : W64) : (csrPut s o v).grn = s.grn := rfl
@[simp] theorem csrPut_drovers (o : Nat) (v : W64) : (csrPut s o v).drovers = s.drovers := rfl
@[simp] theorem csrPut_reports (o : Nat) (v : W64) : (csrPut s o v).reports = s.reports := rfl
@[simp] theorem csrPut_rhoa (o : Nat) (v : W64) : (csrPut s o v).rhoa = s.rhoa := rfl
@[simp] theorem csrPut_gate (o : Nat) (v : W64) : (csrPut s o v).gate = s.gate := rfl
@[simp] theorem csrPut_db (o : Nat) (v : W64) : (csrPut s o v).db = s.db := rfl
@[simp] theorem csrPut_fuses (o : Nat) (v : W64) : (csrPut s o v).fuses = s.fuses := rfl
@[simp] theorem csrPut_tack (o : Nat) (v : W64) : (csrPut s o v).tack = s.tack := rfl
@[simp] theorem csrPut_smithy (o : Nat) (v : W64) : (csrPut s o v).smithy = s.smithy := rfl
@[simp] theorem csrPut_rst (o : Nat) (v : W64) : (csrPut s o v).rst = s.rst := rfl
@[simp] theorem csrPut_supply (o : Nat) (v : W64) : (csrPut s o v).supply = s.supply := rfl
@[simp] theorem csrPut_ostler (o : Nat) (v : W64) : (csrPut s o v).ostler = s.ostler := rfl
@[simp] theorem csrPut_disc (o : Nat) (v : W64) : (csrPut s o v).disc = s.disc := rfl
@[simp] theorem csrPut_tap (o : Nat) (v : W64) : (csrPut s o v).tap = s.tap := rfl
@[simp] theorem csrPut_sent (o : Nat) (v : W64) : (csrPut s o v).sent = s.sent := rfl
@[simp] theorem csrPut_frames (o : Nat) (v : W64) : (csrPut s o v).frames = s.frames := rfl

/-! ### csrClear -/

@[simp] theorem csrClear_pending (a b : Nat) : (csrClear s a b).pending = s.pending := rfl
@[simp] theorem csrClear_fresh (a b : Nat) : (csrClear s a b).fresh = s.fresh := rfl
@[simp] theorem csrClear_msgSeq (a b : Nat) : (csrClear s a b).msgSeq = s.msgSeq := rfl
@[simp] theorem csrClear_bus (a b : Nat) : (csrClear s a b).bus = s.bus := rfl
@[simp] theorem csrClear_busEp (a b : Nat) : (csrClear s a b).busEp = s.busEp := rfl
@[simp] theorem csrClear_hostMem (a b : Nat) : (csrClear s a b).hostMem = s.hostMem := rfl
@[simp] theorem csrClear_irqs (a b : Nat) : (csrClear s a b).irqs = s.irqs := rfl
@[simp] theorem csrClear_csr (a b : Nat) : (csrClear s a b).csr = nclear s.csr a b := rfl
@[simp] theorem csrClear_ledger (a b : Nat) : (csrClear s a b).ledger = s.ledger := rfl
@[simp] theorem csrClear_positions (a b : Nat) : (csrClear s a b).positions = s.positions := rfl
@[simp] theorem csrClear_stalls (a b : Nat) : (csrClear s a b).stalls = s.stalls := rfl
@[simp] theorem csrClear_loft (a b : Nat) : (csrClear s a b).loft = s.loft := rfl
@[simp] theorem csrClear_yard (a b : Nat) : (csrClear s a b).yard = s.yard := rfl
@[simp] theorem csrClear_ctxs (a b : Nat) : (csrClear s a b).ctxs = s.ctxs := rfl
@[simp] theorem csrClear_recs (a b : Nat) : (csrClear s a b).recs = s.recs := rfl
@[simp] theorem csrClear_ym (a b : Nat) : (csrClear s a b).ym = s.ym := rfl
@[simp] theorem csrClear_hbm (a b : Nat) : (csrClear s a b).hbm = s.hbm := rfl
@[simp] theorem csrClear_grn (a b : Nat) : (csrClear s a b).grn = s.grn := rfl
@[simp] theorem csrClear_drovers (a b : Nat) : (csrClear s a b).drovers = s.drovers := rfl
@[simp] theorem csrClear_reports (a b : Nat) : (csrClear s a b).reports = s.reports := rfl
@[simp] theorem csrClear_rhoa (a b : Nat) : (csrClear s a b).rhoa = s.rhoa := rfl
@[simp] theorem csrClear_gate (a b : Nat) : (csrClear s a b).gate = s.gate := rfl
@[simp] theorem csrClear_db (a b : Nat) : (csrClear s a b).db = s.db := rfl
@[simp] theorem csrClear_fuses (a b : Nat) : (csrClear s a b).fuses = s.fuses := rfl
@[simp] theorem csrClear_tack (a b : Nat) : (csrClear s a b).tack = s.tack := rfl
@[simp] theorem csrClear_smithy (a b : Nat) : (csrClear s a b).smithy = s.smithy := rfl
@[simp] theorem csrClear_rst (a b : Nat) : (csrClear s a b).rst = s.rst := rfl
@[simp] theorem csrClear_supply (a b : Nat) : (csrClear s a b).supply = s.supply := rfl
@[simp] theorem csrClear_ostler (a b : Nat) : (csrClear s a b).ostler = s.ostler := rfl
@[simp] theorem csrClear_disc (a b : Nat) : (csrClear s a b).disc = s.disc := rfl
@[simp] theorem csrClear_tap (a b : Nat) : (csrClear s a b).tap = s.tap := rfl
@[simp] theorem csrClear_sent (a b : Nat) : (csrClear s a b).sent = s.sent := rfl
@[simp] theorem csrClear_frames (a b : Nat) : (csrClear s a b).frames = s.frames := rfl

/-! ### csrSetField -/

@[simp] theorem csrSetField_pending (o a b v : Nat) : (csrSetField s o a b v).pending = s.pending := rfl
@[simp] theorem csrSetField_fresh (o a b v : Nat) : (csrSetField s o a b v).fresh = s.fresh := rfl
@[simp] theorem csrSetField_msgSeq (o a b v : Nat) : (csrSetField s o a b v).msgSeq = s.msgSeq := rfl
@[simp] theorem csrSetField_bus (o a b v : Nat) : (csrSetField s o a b v).bus = s.bus := rfl
@[simp] theorem csrSetField_busEp (o a b v : Nat) : (csrSetField s o a b v).busEp = s.busEp := rfl
@[simp] theorem csrSetField_hostMem (o a b v : Nat) : (csrSetField s o a b v).hostMem = s.hostMem := rfl
@[simp] theorem csrSetField_irqs (o a b v : Nat) : (csrSetField s o a b v).irqs = s.irqs := rfl
@[simp] theorem csrSetField_csr (o a b v : Nat) : (csrSetField s o a b v).csr = nset (resetVal o) s.csr o (BitVec.ofNat 64 (putBits (csrGet s o).toNat a b v)) := rfl
@[simp] theorem csrSetField_ledger (o a b v : Nat) : (csrSetField s o a b v).ledger = s.ledger := rfl
@[simp] theorem csrSetField_positions (o a b v : Nat) : (csrSetField s o a b v).positions = s.positions := rfl
@[simp] theorem csrSetField_stalls (o a b v : Nat) : (csrSetField s o a b v).stalls = s.stalls := rfl
@[simp] theorem csrSetField_loft (o a b v : Nat) : (csrSetField s o a b v).loft = s.loft := rfl
@[simp] theorem csrSetField_yard (o a b v : Nat) : (csrSetField s o a b v).yard = s.yard := rfl
@[simp] theorem csrSetField_ctxs (o a b v : Nat) : (csrSetField s o a b v).ctxs = s.ctxs := rfl
@[simp] theorem csrSetField_recs (o a b v : Nat) : (csrSetField s o a b v).recs = s.recs := rfl
@[simp] theorem csrSetField_ym (o a b v : Nat) : (csrSetField s o a b v).ym = s.ym := rfl
@[simp] theorem csrSetField_hbm (o a b v : Nat) : (csrSetField s o a b v).hbm = s.hbm := rfl
@[simp] theorem csrSetField_grn (o a b v : Nat) : (csrSetField s o a b v).grn = s.grn := rfl
@[simp] theorem csrSetField_drovers (o a b v : Nat) : (csrSetField s o a b v).drovers = s.drovers := rfl
@[simp] theorem csrSetField_reports (o a b v : Nat) : (csrSetField s o a b v).reports = s.reports := rfl
@[simp] theorem csrSetField_rhoa (o a b v : Nat) : (csrSetField s o a b v).rhoa = s.rhoa := rfl
@[simp] theorem csrSetField_gate (o a b v : Nat) : (csrSetField s o a b v).gate = s.gate := rfl
@[simp] theorem csrSetField_db (o a b v : Nat) : (csrSetField s o a b v).db = s.db := rfl
@[simp] theorem csrSetField_fuses (o a b v : Nat) : (csrSetField s o a b v).fuses = s.fuses := rfl
@[simp] theorem csrSetField_tack (o a b v : Nat) : (csrSetField s o a b v).tack = s.tack := rfl
@[simp] theorem csrSetField_smithy (o a b v : Nat) : (csrSetField s o a b v).smithy = s.smithy := rfl
@[simp] theorem csrSetField_rst (o a b v : Nat) : (csrSetField s o a b v).rst = s.rst := rfl
@[simp] theorem csrSetField_supply (o a b v : Nat) : (csrSetField s o a b v).supply = s.supply := rfl
@[simp] theorem csrSetField_ostler (o a b v : Nat) : (csrSetField s o a b v).ostler = s.ostler := rfl
@[simp] theorem csrSetField_disc (o a b v : Nat) : (csrSetField s o a b v).disc = s.disc := rfl
@[simp] theorem csrSetField_tap (o a b v : Nat) : (csrSetField s o a b v).tap = s.tap := rfl
@[simp] theorem csrSetField_sent (o a b v : Nat) : (csrSetField s o a b v).sent = s.sent := rfl
@[simp] theorem csrSetField_frames (o a b v : Nat) : (csrSetField s o a b v).frames = s.frames := rfl

/-! ### setStall -/

@[simp] theorem setStall_pending (p : Nat) (x : Stall) : (setStall s p x).pending = s.pending := rfl
@[simp] theorem setStall_fresh (p : Nat) (x : Stall) : (setStall s p x).fresh = s.fresh := rfl
@[simp] theorem setStall_msgSeq (p : Nat) (x : Stall) : (setStall s p x).msgSeq = s.msgSeq := rfl
@[simp] theorem setStall_bus (p : Nat) (x : Stall) : (setStall s p x).bus = s.bus := rfl
@[simp] theorem setStall_busEp (p : Nat) (x : Stall) : (setStall s p x).busEp = s.busEp := rfl
@[simp] theorem setStall_hostMem (p : Nat) (x : Stall) : (setStall s p x).hostMem = s.hostMem := rfl
@[simp] theorem setStall_irqs (p : Nat) (x : Stall) : (setStall s p x).irqs = s.irqs := rfl
@[simp] theorem setStall_csr (p : Nat) (x : Stall) : (setStall s p x).csr = s.csr := rfl
@[simp] theorem setStall_ledger (p : Nat) (x : Stall) : (setStall s p x).ledger = s.ledger := rfl
@[simp] theorem setStall_positions (p : Nat) (x : Stall) : (setStall s p x).positions = s.positions := rfl
@[simp] theorem setStall_stalls (p : Nat) (x : Stall) : (setStall s p x).stalls = nset {} s.stalls p x := rfl
@[simp] theorem setStall_loft (p : Nat) (x : Stall) : (setStall s p x).loft = s.loft := rfl
@[simp] theorem setStall_yard (p : Nat) (x : Stall) : (setStall s p x).yard = s.yard := rfl
@[simp] theorem setStall_ctxs (p : Nat) (x : Stall) : (setStall s p x).ctxs = s.ctxs := rfl
@[simp] theorem setStall_recs (p : Nat) (x : Stall) : (setStall s p x).recs = s.recs := rfl
@[simp] theorem setStall_ym (p : Nat) (x : Stall) : (setStall s p x).ym = s.ym := rfl
@[simp] theorem setStall_hbm (p : Nat) (x : Stall) : (setStall s p x).hbm = s.hbm := rfl
@[simp] theorem setStall_grn (p : Nat) (x : Stall) : (setStall s p x).grn = s.grn := rfl
@[simp] theorem setStall_drovers (p : Nat) (x : Stall) : (setStall s p x).drovers = s.drovers := rfl
@[simp] theorem setStall_reports (p : Nat) (x : Stall) : (setStall s p x).reports = s.reports := rfl
@[simp] theorem setStall_rhoa (p : Nat) (x : Stall) : (setStall s p x).rhoa = s.rhoa := rfl
@[simp] theorem setStall_gate (p : Nat) (x : Stall) : (setStall s p x).gate = s.gate := rfl
@[simp] theorem setStall_db (p : Nat) (x : Stall) : (setStall s p x).db = s.db := rfl
@[simp] theorem setStall_fuses (p : Nat) (x : Stall) : (setStall s p x).fuses = s.fuses := rfl
@[simp] theorem setStall_tack (p : Nat) (x : Stall) : (setStall s p x).tack = s.tack := rfl
@[simp] theorem setStall_smithy (p : Nat) (x : Stall) : (setStall s p x).smithy = s.smithy := rfl
@[simp] theorem setStall_rst (p : Nat) (x : Stall) : (setStall s p x).rst = s.rst := rfl
@[simp] theorem setStall_supply (p : Nat) (x : Stall) : (setStall s p x).supply = s.supply := rfl
@[simp] theorem setStall_ostler (p : Nat) (x : Stall) : (setStall s p x).ostler = s.ostler := rfl
@[simp] theorem setStall_disc (p : Nat) (x : Stall) : (setStall s p x).disc = s.disc := rfl
@[simp] theorem setStall_tap (p : Nat) (x : Stall) : (setStall s p x).tap = s.tap := rfl
@[simp] theorem setStall_sent (p : Nat) (x : Stall) : (setStall s p x).sent = s.sent := rfl
@[simp] theorem setStall_frames (p : Nat) (x : Stall) : (setStall s p x).frames = s.frames := rfl

/-! ### modStall -/

@[simp] theorem modStall_pending (p : Nat) (f : Stall → Stall) : (modStall s p f).pending = s.pending := rfl
@[simp] theorem modStall_fresh (p : Nat) (f : Stall → Stall) : (modStall s p f).fresh = s.fresh := rfl
@[simp] theorem modStall_msgSeq (p : Nat) (f : Stall → Stall) : (modStall s p f).msgSeq = s.msgSeq := rfl
@[simp] theorem modStall_bus (p : Nat) (f : Stall → Stall) : (modStall s p f).bus = s.bus := rfl
@[simp] theorem modStall_busEp (p : Nat) (f : Stall → Stall) : (modStall s p f).busEp = s.busEp := rfl
@[simp] theorem modStall_hostMem (p : Nat) (f : Stall → Stall) : (modStall s p f).hostMem = s.hostMem := rfl
@[simp] theorem modStall_irqs (p : Nat) (f : Stall → Stall) : (modStall s p f).irqs = s.irqs := rfl
@[simp] theorem modStall_csr (p : Nat) (f : Stall → Stall) : (modStall s p f).csr = s.csr := rfl
@[simp] theorem modStall_ledger (p : Nat) (f : Stall → Stall) : (modStall s p f).ledger = s.ledger := rfl
@[simp] theorem modStall_positions (p : Nat) (f : Stall → Stall) : (modStall s p f).positions = s.positions := rfl
@[simp] theorem modStall_stalls (p : Nat) (f : Stall → Stall) : (modStall s p f).stalls = nset {} s.stalls p (f (stall s p)) := rfl
@[simp] theorem modStall_loft (p : Nat) (f : Stall → Stall) : (modStall s p f).loft = s.loft := rfl
@[simp] theorem modStall_yard (p : Nat) (f : Stall → Stall) : (modStall s p f).yard = s.yard := rfl
@[simp] theorem modStall_ctxs (p : Nat) (f : Stall → Stall) : (modStall s p f).ctxs = s.ctxs := rfl
@[simp] theorem modStall_recs (p : Nat) (f : Stall → Stall) : (modStall s p f).recs = s.recs := rfl
@[simp] theorem modStall_ym (p : Nat) (f : Stall → Stall) : (modStall s p f).ym = s.ym := rfl
@[simp] theorem modStall_hbm (p : Nat) (f : Stall → Stall) : (modStall s p f).hbm = s.hbm := rfl
@[simp] theorem modStall_grn (p : Nat) (f : Stall → Stall) : (modStall s p f).grn = s.grn := rfl
@[simp] theorem modStall_drovers (p : Nat) (f : Stall → Stall) : (modStall s p f).drovers = s.drovers := rfl
@[simp] theorem modStall_reports (p : Nat) (f : Stall → Stall) : (modStall s p f).reports = s.reports := rfl
@[simp] theorem modStall_rhoa (p : Nat) (f : Stall → Stall) : (modStall s p f).rhoa = s.rhoa := rfl
@[simp] theorem modStall_gate (p : Nat) (f : Stall → Stall) : (modStall s p f).gate = s.gate := rfl
@[simp] theorem modStall_db (p : Nat) (f : Stall → Stall) : (modStall s p f).db = s.db := rfl
@[simp] theorem modStall_fuses (p : Nat) (f : Stall → Stall) : (modStall s p f).fuses = s.fuses := rfl
@[simp] theorem modStall_tack (p : Nat) (f : Stall → Stall) : (modStall s p f).tack = s.tack := rfl
@[simp] theorem modStall_smithy (p : Nat) (f : Stall → Stall) : (modStall s p f).smithy = s.smithy := rfl
@[simp] theorem modStall_rst (p : Nat) (f : Stall → Stall) : (modStall s p f).rst = s.rst := rfl
@[simp] theorem modStall_supply (p : Nat) (f : Stall → Stall) : (modStall s p f).supply = s.supply := rfl
@[simp] theorem modStall_ostler (p : Nat) (f : Stall → Stall) : (modStall s p f).ostler = s.ostler := rfl
@[simp] theorem modStall_disc (p : Nat) (f : Stall → Stall) : (modStall s p f).disc = s.disc := rfl
@[simp] theorem modStall_tap (p : Nat) (f : Stall → Stall) : (modStall s p f).tap = s.tap := rfl
@[simp] theorem modStall_sent (p : Nat) (f : Stall → Stall) : (modStall s p f).sent = s.sent := rfl
@[simp] theorem modStall_frames (p : Nat) (f : Stall → Stall) : (modStall s p f).frames = s.frames := rfl

/-! ### setCtx -/

@[simp] theorem setCtx_pending (c : Nat) (x : Ctx) : (setCtx s c x).pending = s.pending := rfl
@[simp] theorem setCtx_fresh (c : Nat) (x : Ctx) : (setCtx s c x).fresh = s.fresh := rfl
@[simp] theorem setCtx_msgSeq (c : Nat) (x : Ctx) : (setCtx s c x).msgSeq = s.msgSeq := rfl
@[simp] theorem setCtx_bus (c : Nat) (x : Ctx) : (setCtx s c x).bus = s.bus := rfl
@[simp] theorem setCtx_busEp (c : Nat) (x : Ctx) : (setCtx s c x).busEp = s.busEp := rfl
@[simp] theorem setCtx_hostMem (c : Nat) (x : Ctx) : (setCtx s c x).hostMem = s.hostMem := rfl
@[simp] theorem setCtx_irqs (c : Nat) (x : Ctx) : (setCtx s c x).irqs = s.irqs := rfl
@[simp] theorem setCtx_csr (c : Nat) (x : Ctx) : (setCtx s c x).csr = s.csr := rfl
@[simp] theorem setCtx_ledger (c : Nat) (x : Ctx) : (setCtx s c x).ledger = s.ledger := rfl
@[simp] theorem setCtx_positions (c : Nat) (x : Ctx) : (setCtx s c x).positions = s.positions := rfl
@[simp] theorem setCtx_stalls (c : Nat) (x : Ctx) : (setCtx s c x).stalls = s.stalls := rfl
@[simp] theorem setCtx_loft (c : Nat) (x : Ctx) : (setCtx s c x).loft = s.loft := rfl
@[simp] theorem setCtx_yard (c : Nat) (x : Ctx) : (setCtx s c x).yard = s.yard := rfl
@[simp] theorem setCtx_ctxs (c : Nat) (x : Ctx) : (setCtx s c x).ctxs = nset {} s.ctxs c x := rfl
@[simp] theorem setCtx_recs (c : Nat) (x : Ctx) : (setCtx s c x).recs = s.recs := rfl
@[simp] theorem setCtx_ym (c : Nat) (x : Ctx) : (setCtx s c x).ym = s.ym := rfl
@[simp] theorem setCtx_hbm (c : Nat) (x : Ctx) : (setCtx s c x).hbm = s.hbm := rfl
@[simp] theorem setCtx_grn (c : Nat) (x : Ctx) : (setCtx s c x).grn = s.grn := rfl
@[simp] theorem setCtx_drovers (c : Nat) (x : Ctx) : (setCtx s c x).drovers = s.drovers := rfl
@[simp] theorem setCtx_reports (c : Nat) (x : Ctx) : (setCtx s c x).reports = s.reports := rfl
@[simp] theorem setCtx_rhoa (c : Nat) (x : Ctx) : (setCtx s c x).rhoa = s.rhoa := rfl
@[simp] theorem setCtx_gate (c : Nat) (x : Ctx) : (setCtx s c x).gate = s.gate := rfl
@[simp] theorem setCtx_db (c : Nat) (x : Ctx) : (setCtx s c x).db = s.db := rfl
@[simp] theorem setCtx_fuses (c : Nat) (x : Ctx) : (setCtx s c x).fuses = s.fuses := rfl
@[simp] theorem setCtx_tack (c : Nat) (x : Ctx) : (setCtx s c x).tack = s.tack := rfl
@[simp] theorem setCtx_smithy (c : Nat) (x : Ctx) : (setCtx s c x).smithy = s.smithy := rfl
@[simp] theorem setCtx_rst (c : Nat) (x : Ctx) : (setCtx s c x).rst = s.rst := rfl
@[simp] theorem setCtx_supply (c : Nat) (x : Ctx) : (setCtx s c x).supply = s.supply := rfl
@[simp] theorem setCtx_ostler (c : Nat) (x : Ctx) : (setCtx s c x).ostler = s.ostler := rfl
@[simp] theorem setCtx_disc (c : Nat) (x : Ctx) : (setCtx s c x).disc = s.disc := rfl
@[simp] theorem setCtx_tap (c : Nat) (x : Ctx) : (setCtx s c x).tap = s.tap := rfl
@[simp] theorem setCtx_sent (c : Nat) (x : Ctx) : (setCtx s c x).sent = s.sent := rfl
@[simp] theorem setCtx_frames (c : Nat) (x : Ctx) : (setCtx s c x).frames = s.frames := rfl

/-! ### modCtx -/

@[simp] theorem modCtx_pending (c : Nat) (f : Ctx → Ctx) : (modCtx s c f).pending = s.pending := rfl
@[simp] theorem modCtx_fresh (c : Nat) (f : Ctx → Ctx) : (modCtx s c f).fresh = s.fresh := rfl
@[simp] theorem modCtx_msgSeq (c : Nat) (f : Ctx → Ctx) : (modCtx s c f).msgSeq = s.msgSeq := rfl
@[simp] theorem modCtx_bus (c : Nat) (f : Ctx → Ctx) : (modCtx s c f).bus = s.bus := rfl
@[simp] theorem modCtx_busEp (c : Nat) (f : Ctx → Ctx) : (modCtx s c f).busEp = s.busEp := rfl
@[simp] theorem modCtx_hostMem (c : Nat) (f : Ctx → Ctx) : (modCtx s c f).hostMem = s.hostMem := rfl
@[simp] theorem modCtx_irqs (c : Nat) (f : Ctx → Ctx) : (modCtx s c f).irqs = s.irqs := rfl
@[simp] theorem modCtx_csr (c : Nat) (f : Ctx → Ctx) : (modCtx s c f).csr = s.csr := rfl
@[simp] theorem modCtx_ledger (c : Nat) (f : Ctx → Ctx) : (modCtx s c f).ledger = s.ledger := rfl
@[simp] theorem modCtx_positions (c : Nat) (f : Ctx → Ctx) : (modCtx s c f).positions = s.positions := rfl
@[simp] theorem modCtx_stalls (c : Nat) (f : Ctx → Ctx) : (modCtx s c f).stalls = s.stalls := rfl
@[simp] theorem modCtx_loft (c : Nat) (f : Ctx → Ctx) : (modCtx s c f).loft = s.loft := rfl
@[simp] theorem modCtx_yard (c : Nat) (f : Ctx → Ctx) : (modCtx s c f).yard = s.yard := rfl
@[simp] theorem modCtx_ctxs (c : Nat) (f : Ctx → Ctx) : (modCtx s c f).ctxs = nset {} s.ctxs c (f (ctx s c)) := rfl
@[simp] theorem modCtx_recs (c : Nat) (f : Ctx → Ctx) : (modCtx s c f).recs = s.recs := rfl
@[simp] theorem modCtx_ym (c : Nat) (f : Ctx → Ctx) : (modCtx s c f).ym = s.ym := rfl
@[simp] theorem modCtx_hbm (c : Nat) (f : Ctx → Ctx) : (modCtx s c f).hbm = s.hbm := rfl
@[simp] theorem modCtx_grn (c : Nat) (f : Ctx → Ctx) : (modCtx s c f).grn = s.grn := rfl
@[simp] theorem modCtx_drovers (c : Nat) (f : Ctx → Ctx) : (modCtx s c f).drovers = s.drovers := rfl
@[simp] theorem modCtx_reports (c : Nat) (f : Ctx → Ctx) : (modCtx s c f).reports = s.reports := rfl
@[simp] theorem modCtx_rhoa (c : Nat) (f : Ctx → Ctx) : (modCtx s c f).rhoa = s.rhoa := rfl
@[simp] theorem modCtx_gate (c : Nat) (f : Ctx → Ctx) : (modCtx s c f).gate = s.gate := rfl
@[simp] theorem modCtx_db (c : Nat) (f : Ctx → Ctx) : (modCtx s c f).db = s.db := rfl
@[simp] theorem modCtx_fuses (c : Nat) (f : Ctx → Ctx) : (modCtx s c f).fuses = s.fuses := rfl
@[simp] theorem modCtx_tack (c : Nat) (f : Ctx → Ctx) : (modCtx s c f).tack = s.tack := rfl
@[simp] theorem modCtx_smithy (c : Nat) (f : Ctx → Ctx) : (modCtx s c f).smithy = s.smithy := rfl
@[simp] theorem modCtx_rst (c : Nat) (f : Ctx → Ctx) : (modCtx s c f).rst = s.rst := rfl
@[simp] theorem modCtx_supply (c : Nat) (f : Ctx → Ctx) : (modCtx s c f).supply = s.supply := rfl
@[simp] theorem modCtx_ostler (c : Nat) (f : Ctx → Ctx) : (modCtx s c f).ostler = s.ostler := rfl
@[simp] theorem modCtx_disc (c : Nat) (f : Ctx → Ctx) : (modCtx s c f).disc = s.disc := rfl
@[simp] theorem modCtx_tap (c : Nat) (f : Ctx → Ctx) : (modCtx s c f).tap = s.tap := rfl
@[simp] theorem modCtx_sent (c : Nat) (f : Ctx → Ctx) : (modCtx s c f).sent = s.sent := rfl
@[simp] theorem modCtx_frames (c : Nat) (f : Ctx → Ctx) : (modCtx s c f).frames = s.frames := rfl

/-! ### modRec -/

@[simp] theorem modRec_pending (c : Nat) (f : Rec → Rec) : (modRec s c f).pending = s.pending := rfl
@[simp] theorem modRec_fresh (c : Nat) (f : Rec → Rec) : (modRec s c f).fresh = s.fresh := rfl
@[simp] theorem modRec_msgSeq (c : Nat) (f : Rec → Rec) : (modRec s c f).msgSeq = s.msgSeq := rfl
@[simp] theorem modRec_bus (c : Nat) (f : Rec → Rec) : (modRec s c f).bus = s.bus := rfl
@[simp] theorem modRec_busEp (c : Nat) (f : Rec → Rec) : (modRec s c f).busEp = s.busEp := rfl
@[simp] theorem modRec_hostMem (c : Nat) (f : Rec → Rec) : (modRec s c f).hostMem = s.hostMem := rfl
@[simp] theorem modRec_irqs (c : Nat) (f : Rec → Rec) : (modRec s c f).irqs = s.irqs := rfl
@[simp] theorem modRec_csr (c : Nat) (f : Rec → Rec) : (modRec s c f).csr = s.csr := rfl
@[simp] theorem modRec_ledger (c : Nat) (f : Rec → Rec) : (modRec s c f).ledger = s.ledger := rfl
@[simp] theorem modRec_positions (c : Nat) (f : Rec → Rec) : (modRec s c f).positions = s.positions := rfl
@[simp] theorem modRec_stalls (c : Nat) (f : Rec → Rec) : (modRec s c f).stalls = s.stalls := rfl
@[simp] theorem modRec_loft (c : Nat) (f : Rec → Rec) : (modRec s c f).loft = s.loft := rfl
@[simp] theorem modRec_yard (c : Nat) (f : Rec → Rec) : (modRec s c f).yard = s.yard := rfl
@[simp] theorem modRec_ctxs (c : Nat) (f : Rec → Rec) : (modRec s c f).ctxs = s.ctxs := rfl
@[simp] theorem modRec_recs (c : Nat) (f : Rec → Rec) : (modRec s c f).recs = nmod {} s.recs c f := rfl
@[simp] theorem modRec_ym (c : Nat) (f : Rec → Rec) : (modRec s c f).ym = s.ym := rfl
@[simp] theorem modRec_hbm (c : Nat) (f : Rec → Rec) : (modRec s c f).hbm = s.hbm := rfl
@[simp] theorem modRec_grn (c : Nat) (f : Rec → Rec) : (modRec s c f).grn = s.grn := rfl
@[simp] theorem modRec_drovers (c : Nat) (f : Rec → Rec) : (modRec s c f).drovers = s.drovers := rfl
@[simp] theorem modRec_reports (c : Nat) (f : Rec → Rec) : (modRec s c f).reports = s.reports := rfl
@[simp] theorem modRec_rhoa (c : Nat) (f : Rec → Rec) : (modRec s c f).rhoa = s.rhoa := rfl
@[simp] theorem modRec_gate (c : Nat) (f : Rec → Rec) : (modRec s c f).gate = s.gate := rfl
@[simp] theorem modRec_db (c : Nat) (f : Rec → Rec) : (modRec s c f).db = s.db := rfl
@[simp] theorem modRec_fuses (c : Nat) (f : Rec → Rec) : (modRec s c f).fuses = s.fuses := rfl
@[simp] theorem modRec_tack (c : Nat) (f : Rec → Rec) : (modRec s c f).tack = s.tack := rfl
@[simp] theorem modRec_smithy (c : Nat) (f : Rec → Rec) : (modRec s c f).smithy = s.smithy := rfl
@[simp] theorem modRec_rst (c : Nat) (f : Rec → Rec) : (modRec s c f).rst = s.rst := rfl
@[simp] theorem modRec_supply (c : Nat) (f : Rec → Rec) : (modRec s c f).supply = s.supply := rfl
@[simp] theorem modRec_ostler (c : Nat) (f : Rec → Rec) : (modRec s c f).ostler = s.ostler := rfl
@[simp] theorem modRec_disc (c : Nat) (f : Rec → Rec) : (modRec s c f).disc = s.disc := rfl
@[simp] theorem modRec_tap (c : Nat) (f : Rec → Rec) : (modRec s c f).tap = s.tap := rfl
@[simp] theorem modRec_sent (c : Nat) (f : Rec → Rec) : (modRec s c f).sent = s.sent := rfl
@[simp] theorem modRec_frames (c : Nat) (f : Rec → Rec) : (modRec s c f).frames = s.frames := rfl

/-! ### modPos -/

@[simp] theorem modPos_pending (p : Nat) (f : Pos → Pos) : (modPos s p f).pending = s.pending := rfl
@[simp] theorem modPos_fresh (p : Nat) (f : Pos → Pos) : (modPos s p f).fresh = s.fresh := rfl
@[simp] theorem modPos_msgSeq (p : Nat) (f : Pos → Pos) : (modPos s p f).msgSeq = s.msgSeq := rfl
@[simp] theorem modPos_bus (p : Nat) (f : Pos → Pos) : (modPos s p f).bus = s.bus := rfl
@[simp] theorem modPos_busEp (p : Nat) (f : Pos → Pos) : (modPos s p f).busEp = s.busEp := rfl
@[simp] theorem modPos_hostMem (p : Nat) (f : Pos → Pos) : (modPos s p f).hostMem = s.hostMem := rfl
@[simp] theorem modPos_irqs (p : Nat) (f : Pos → Pos) : (modPos s p f).irqs = s.irqs := rfl
@[simp] theorem modPos_csr (p : Nat) (f : Pos → Pos) : (modPos s p f).csr = s.csr := rfl
@[simp] theorem modPos_ledger (p : Nat) (f : Pos → Pos) : (modPos s p f).ledger = s.ledger := rfl
@[simp] theorem modPos_positions (p : Nat) (f : Pos → Pos) : (modPos s p f).positions = nmod {} s.positions p f := rfl
@[simp] theorem modPos_stalls (p : Nat) (f : Pos → Pos) : (modPos s p f).stalls = s.stalls := rfl
@[simp] theorem modPos_loft (p : Nat) (f : Pos → Pos) : (modPos s p f).loft = s.loft := rfl
@[simp] theorem modPos_yard (p : Nat) (f : Pos → Pos) : (modPos s p f).yard = s.yard := rfl
@[simp] theorem modPos_ctxs (p : Nat) (f : Pos → Pos) : (modPos s p f).ctxs = s.ctxs := rfl
@[simp] theorem modPos_recs (p : Nat) (f : Pos → Pos) : (modPos s p f).recs = s.recs := rfl
@[simp] theorem modPos_ym (p : Nat) (f : Pos → Pos) : (modPos s p f).ym = s.ym := rfl
@[simp] theorem modPos_hbm (p : Nat) (f : Pos → Pos) : (modPos s p f).hbm = s.hbm := rfl
@[simp] theorem modPos_grn (p : Nat) (f : Pos → Pos) : (modPos s p f).grn = s.grn := rfl
@[simp] theorem modPos_drovers (p : Nat) (f : Pos → Pos) : (modPos s p f).drovers = s.drovers := rfl
@[simp] theorem modPos_reports (p : Nat) (f : Pos → Pos) : (modPos s p f).reports = s.reports := rfl
@[simp] theorem modPos_rhoa (p : Nat) (f : Pos → Pos) : (modPos s p f).rhoa = s.rhoa := rfl
@[simp] theorem modPos_gate (p : Nat) (f : Pos → Pos) : (modPos s p f).gate = s.gate := rfl
@[simp] theorem modPos_db (p : Nat) (f : Pos → Pos) : (modPos s p f).db = s.db := rfl
@[simp] theorem modPos_fuses (p : Nat) (f : Pos → Pos) : (modPos s p f).fuses = s.fuses := rfl
@[simp] theorem modPos_tack (p : Nat) (f : Pos → Pos) : (modPos s p f).tack = s.tack := rfl
@[simp] theorem modPos_smithy (p : Nat) (f : Pos → Pos) : (modPos s p f).smithy = s.smithy := rfl
@[simp] theorem modPos_rst (p : Nat) (f : Pos → Pos) : (modPos s p f).rst = s.rst := rfl
@[simp] theorem modPos_supply (p : Nat) (f : Pos → Pos) : (modPos s p f).supply = s.supply := rfl
@[simp] theorem modPos_ostler (p : Nat) (f : Pos → Pos) : (modPos s p f).ostler = s.ostler := rfl
@[simp] theorem modPos_disc (p : Nat) (f : Pos → Pos) : (modPos s p f).disc = s.disc := rfl
@[simp] theorem modPos_tap (p : Nat) (f : Pos → Pos) : (modPos s p f).tap = s.tap := rfl
@[simp] theorem modPos_sent (p : Nat) (f : Pos → Pos) : (modPos s p f).sent = s.sent := rfl
@[simp] theorem modPos_frames (p : Nat) (f : Pos → Pos) : (modPos s p f).frames = s.frames := rfl

/-! ### modDrover -/

@[simp] theorem modDrover_pending (d : Nat) (f : Drover → Drover) : (modDrover s d f).pending = s.pending := rfl
@[simp] theorem modDrover_fresh (d : Nat) (f : Drover → Drover) : (modDrover s d f).fresh = s.fresh := rfl
@[simp] theorem modDrover_msgSeq (d : Nat) (f : Drover → Drover) : (modDrover s d f).msgSeq = s.msgSeq := rfl
@[simp] theorem modDrover_bus (d : Nat) (f : Drover → Drover) : (modDrover s d f).bus = s.bus := rfl
@[simp] theorem modDrover_busEp (d : Nat) (f : Drover → Drover) : (modDrover s d f).busEp = s.busEp := rfl
@[simp] theorem modDrover_hostMem (d : Nat) (f : Drover → Drover) : (modDrover s d f).hostMem = s.hostMem := rfl
@[simp] theorem modDrover_irqs (d : Nat) (f : Drover → Drover) : (modDrover s d f).irqs = s.irqs := rfl
@[simp] theorem modDrover_csr (d : Nat) (f : Drover → Drover) : (modDrover s d f).csr = s.csr := rfl
@[simp] theorem modDrover_ledger (d : Nat) (f : Drover → Drover) : (modDrover s d f).ledger = s.ledger := rfl
@[simp] theorem modDrover_positions (d : Nat) (f : Drover → Drover) : (modDrover s d f).positions = s.positions := rfl
@[simp] theorem modDrover_stalls (d : Nat) (f : Drover → Drover) : (modDrover s d f).stalls = s.stalls := rfl
@[simp] theorem modDrover_loft (d : Nat) (f : Drover → Drover) : (modDrover s d f).loft = s.loft := rfl
@[simp] theorem modDrover_yard (d : Nat) (f : Drover → Drover) : (modDrover s d f).yard = s.yard := rfl
@[simp] theorem modDrover_ctxs (d : Nat) (f : Drover → Drover) : (modDrover s d f).ctxs = s.ctxs := rfl
@[simp] theorem modDrover_recs (d : Nat) (f : Drover → Drover) : (modDrover s d f).recs = s.recs := rfl
@[simp] theorem modDrover_ym (d : Nat) (f : Drover → Drover) : (modDrover s d f).ym = s.ym := rfl
@[simp] theorem modDrover_hbm (d : Nat) (f : Drover → Drover) : (modDrover s d f).hbm = s.hbm := rfl
@[simp] theorem modDrover_grn (d : Nat) (f : Drover → Drover) : (modDrover s d f).grn = s.grn := rfl
@[simp] theorem modDrover_drovers (d : Nat) (f : Drover → Drover) : (modDrover s d f).drovers = nmod {} s.drovers d f := rfl
@[simp] theorem modDrover_reports (d : Nat) (f : Drover → Drover) : (modDrover s d f).reports = s.reports := rfl
@[simp] theorem modDrover_rhoa (d : Nat) (f : Drover → Drover) : (modDrover s d f).rhoa = s.rhoa := rfl
@[simp] theorem modDrover_gate (d : Nat) (f : Drover → Drover) : (modDrover s d f).gate = s.gate := rfl
@[simp] theorem modDrover_db (d : Nat) (f : Drover → Drover) : (modDrover s d f).db = s.db := rfl
@[simp] theorem modDrover_fuses (d : Nat) (f : Drover → Drover) : (modDrover s d f).fuses = s.fuses := rfl
@[simp] theorem modDrover_tack (d : Nat) (f : Drover → Drover) : (modDrover s d f).tack = s.tack := rfl
@[simp] theorem modDrover_smithy (d : Nat) (f : Drover → Drover) : (modDrover s d f).smithy = s.smithy := rfl
@[simp] theorem modDrover_rst (d : Nat) (f : Drover → Drover) : (modDrover s d f).rst = s.rst := rfl
@[simp] theorem modDrover_supply (d : Nat) (f : Drover → Drover) : (modDrover s d f).supply = s.supply := rfl
@[simp] theorem modDrover_ostler (d : Nat) (f : Drover → Drover) : (modDrover s d f).ostler = s.ostler := rfl
@[simp] theorem modDrover_disc (d : Nat) (f : Drover → Drover) : (modDrover s d f).disc = s.disc := rfl
@[simp] theorem modDrover_tap (d : Nat) (f : Drover → Drover) : (modDrover s d f).tap = s.tap := rfl
@[simp] theorem modDrover_sent (d : Nat) (f : Drover → Drover) : (modDrover s d f).sent = s.sent := rfl
@[simp] theorem modDrover_frames (d : Nat) (f : Drover → Drover) : (modDrover s d f).frames = s.frames := rfl

/-! ### setLoft -/

@[simp] theorem setLoft_pending (p l : Nat) (v : LoftLine) : (setLoft s p l v).pending = s.pending := rfl
@[simp] theorem setLoft_fresh (p l : Nat) (v : LoftLine) : (setLoft s p l v).fresh = s.fresh := rfl
@[simp] theorem setLoft_msgSeq (p l : Nat) (v : LoftLine) : (setLoft s p l v).msgSeq = s.msgSeq := rfl
@[simp] theorem setLoft_bus (p l : Nat) (v : LoftLine) : (setLoft s p l v).bus = s.bus := rfl
@[simp] theorem setLoft_busEp (p l : Nat) (v : LoftLine) : (setLoft s p l v).busEp = s.busEp := rfl
@[simp] theorem setLoft_hostMem (p l : Nat) (v : LoftLine) : (setLoft s p l v).hostMem = s.hostMem := rfl
@[simp] theorem setLoft_irqs (p l : Nat) (v : LoftLine) : (setLoft s p l v).irqs = s.irqs := rfl
@[simp] theorem setLoft_csr (p l : Nat) (v : LoftLine) : (setLoft s p l v).csr = s.csr := rfl
@[simp] theorem setLoft_ledger (p l : Nat) (v : LoftLine) : (setLoft s p l v).ledger = s.ledger := rfl
@[simp] theorem setLoft_positions (p l : Nat) (v : LoftLine) : (setLoft s p l v).positions = s.positions := rfl
@[simp] theorem setLoft_stalls (p l : Nat) (v : LoftLine) : (setLoft s p l v).stalls = s.stalls := rfl
@[simp] theorem setLoft_loft (p l : Nat) (v : LoftLine) : (setLoft s p l v).loft = nset {} s.loft (loftKey p l) v := rfl
@[simp] theorem setLoft_yard (p l : Nat) (v : LoftLine) : (setLoft s p l v).yard = s.yard := rfl
@[simp] theorem setLoft_ctxs (p l : Nat) (v : LoftLine) : (setLoft s p l v).ctxs = s.ctxs := rfl
@[simp] theorem setLoft_recs (p l : Nat) (v : LoftLine) : (setLoft s p l v).recs = s.recs := rfl
@[simp] theorem setLoft_ym (p l : Nat) (v : LoftLine) : (setLoft s p l v).ym = s.ym := rfl
@[simp] theorem setLoft_hbm (p l : Nat) (v : LoftLine) : (setLoft s p l v).hbm = s.hbm := rfl
@[simp] theorem setLoft_grn (p l : Nat) (v : LoftLine) : (setLoft s p l v).grn = s.grn := rfl
@[simp] theorem setLoft_drovers (p l : Nat) (v : LoftLine) : (setLoft s p l v).drovers = s.drovers := rfl
@[simp] theorem setLoft_reports (p l : Nat) (v : LoftLine) : (setLoft s p l v).reports = s.reports := rfl
@[simp] theorem setLoft_rhoa (p l : Nat) (v : LoftLine) : (setLoft s p l v).rhoa = s.rhoa := rfl
@[simp] theorem setLoft_gate (p l : Nat) (v : LoftLine) : (setLoft s p l v).gate = s.gate := rfl
@[simp] theorem setLoft_db (p l : Nat) (v : LoftLine) : (setLoft s p l v).db = s.db := rfl
@[simp] theorem setLoft_fuses (p l : Nat) (v : LoftLine) : (setLoft s p l v).fuses = s.fuses := rfl
@[simp] theorem setLoft_tack (p l : Nat) (v : LoftLine) : (setLoft s p l v).tack = s.tack := rfl
@[simp] theorem setLoft_smithy (p l : Nat) (v : LoftLine) : (setLoft s p l v).smithy = s.smithy := rfl
@[simp] theorem setLoft_rst (p l : Nat) (v : LoftLine) : (setLoft s p l v).rst = s.rst := rfl
@[simp] theorem setLoft_supply (p l : Nat) (v : LoftLine) : (setLoft s p l v).supply = s.supply := rfl
@[simp] theorem setLoft_ostler (p l : Nat) (v : LoftLine) : (setLoft s p l v).ostler = s.ostler := rfl
@[simp] theorem setLoft_disc (p l : Nat) (v : LoftLine) : (setLoft s p l v).disc = s.disc := rfl
@[simp] theorem setLoft_tap (p l : Nat) (v : LoftLine) : (setLoft s p l v).tap = s.tap := rfl
@[simp] theorem setLoft_sent (p l : Nat) (v : LoftLine) : (setLoft s p l v).sent = s.sent := rfl
@[simp] theorem setLoft_frames (p l : Nat) (v : LoftLine) : (setLoft s p l v).frames = s.frames := rfl

/-! ### send -/

@[simp] theorem send_pending (a b : Node) (n : Net) (c : Nat) (x : Body) : (send s a b n c x).pending = s.pending := rfl
@[simp] theorem send_fresh (a b : Node) (n : Net) (c : Nat) (x : Body) : (send s a b n c x).fresh = s.fresh := rfl
@[simp] theorem send_msgSeq (a b : Node) (n : Net) (c : Nat) (x : Body) : (send s a b n c x).msgSeq = s.msgSeq + 1 := rfl
@[simp] theorem send_bus (a b : Node) (n : Net) (c : Nat) (x : Body) : (send s a b n c x).bus = s.bus := rfl
@[simp] theorem send_busEp (a b : Node) (n : Net) (c : Nat) (x : Body) : (send s a b n c x).busEp = s.busEp := rfl
@[simp] theorem send_hostMem (a b : Node) (n : Net) (c : Nat) (x : Body) : (send s a b n c x).hostMem = s.hostMem := rfl
@[simp] theorem send_irqs (a b : Node) (n : Net) (c : Nat) (x : Body) : (send s a b n c x).irqs = s.irqs := rfl
@[simp] theorem send_csr (a b : Node) (n : Net) (c : Nat) (x : Body) : (send s a b n c x).csr = s.csr := rfl
@[simp] theorem send_ledger (a b : Node) (n : Net) (c : Nat) (x : Body) : (send s a b n c x).ledger = s.ledger := rfl
@[simp] theorem send_positions (a b : Node) (n : Net) (c : Nat) (x : Body) : (send s a b n c x).positions = s.positions := rfl
@[simp] theorem send_stalls (a b : Node) (n : Net) (c : Nat) (x : Body) : (send s a b n c x).stalls = s.stalls := rfl
@[simp] theorem send_loft (a b : Node) (n : Net) (c : Nat) (x : Body) : (send s a b n c x).loft = s.loft := rfl
@[simp] theorem send_yard (a b : Node) (n : Net) (c : Nat) (x : Body) : (send s a b n c x).yard = s.yard ++ [⟨s.msgSeq, a, b, n, c, x⟩] := rfl
@[simp] theorem send_ctxs (a b : Node) (n : Net) (c : Nat) (x : Body) : (send s a b n c x).ctxs = s.ctxs := rfl
@[simp] theorem send_recs (a b : Node) (n : Net) (c : Nat) (x : Body) : (send s a b n c x).recs = s.recs := rfl
@[simp] theorem send_ym (a b : Node) (n : Net) (c : Nat) (x : Body) : (send s a b n c x).ym = s.ym := rfl
@[simp] theorem send_hbm (a b : Node) (n : Net) (c : Nat) (x : Body) : (send s a b n c x).hbm = s.hbm := rfl
@[simp] theorem send_grn (a b : Node) (n : Net) (c : Nat) (x : Body) : (send s a b n c x).grn = s.grn := rfl
@[simp] theorem send_drovers (a b : Node) (n : Net) (c : Nat) (x : Body) : (send s a b n c x).drovers = s.drovers := rfl
@[simp] theorem send_reports (a b : Node) (n : Net) (c : Nat) (x : Body) : (send s a b n c x).reports = s.reports := rfl
@[simp] theorem send_rhoa (a b : Node) (n : Net) (c : Nat) (x : Body) : (send s a b n c x).rhoa = s.rhoa := rfl
@[simp] theorem send_gate (a b : Node) (n : Net) (c : Nat) (x : Body) : (send s a b n c x).gate = s.gate := rfl
@[simp] theorem send_db (a b : Node) (n : Net) (c : Nat) (x : Body) : (send s a b n c x).db = s.db := rfl
@[simp] theorem send_fuses (a b : Node) (n : Net) (c : Nat) (x : Body) : (send s a b n c x).fuses = s.fuses := rfl
@[simp] theorem send_tack (a b : Node) (n : Net) (c : Nat) (x : Body) : (send s a b n c x).tack = s.tack := rfl
@[simp] theorem send_smithy (a b : Node) (n : Net) (c : Nat) (x : Body) : (send s a b n c x).smithy = s.smithy := rfl
@[simp] theorem send_rst (a b : Node) (n : Net) (c : Nat) (x : Body) : (send s a b n c x).rst = s.rst := rfl
@[simp] theorem send_supply (a b : Node) (n : Net) (c : Nat) (x : Body) : (send s a b n c x).supply = s.supply := rfl
@[simp] theorem send_ostler (a b : Node) (n : Net) (c : Nat) (x : Body) : (send s a b n c x).ostler = s.ostler := rfl
@[simp] theorem send_disc (a b : Node) (n : Net) (c : Nat) (x : Body) : (send s a b n c x).disc = s.disc := rfl
@[simp] theorem send_tap (a b : Node) (n : Net) (c : Nat) (x : Body) : (send s a b n c x).tap = s.tap := rfl
@[simp] theorem send_sent (a b : Node) (n : Net) (c : Nat) (x : Body) : (send s a b n c x).sent = s.sent := rfl
@[simp] theorem send_frames (a b : Node) (n : Net) (c : Nat) (x : Body) : (send s a b n c x).frames = s.frames := rfl

/-! ### dropMsg -/

@[simp] theorem dropMsg_pending (m : Nat) : (dropMsg s m).pending = s.pending := rfl
@[simp] theorem dropMsg_fresh (m : Nat) : (dropMsg s m).fresh = s.fresh := rfl
@[simp] theorem dropMsg_msgSeq (m : Nat) : (dropMsg s m).msgSeq = s.msgSeq := rfl
@[simp] theorem dropMsg_bus (m : Nat) : (dropMsg s m).bus = s.bus := rfl
@[simp] theorem dropMsg_busEp (m : Nat) : (dropMsg s m).busEp = s.busEp := rfl
@[simp] theorem dropMsg_hostMem (m : Nat) : (dropMsg s m).hostMem = s.hostMem := rfl
@[simp] theorem dropMsg_irqs (m : Nat) : (dropMsg s m).irqs = s.irqs := rfl
@[simp] theorem dropMsg_csr (m : Nat) : (dropMsg s m).csr = s.csr := rfl
@[simp] theorem dropMsg_ledger (m : Nat) : (dropMsg s m).ledger = s.ledger := rfl
@[simp] theorem dropMsg_positions (m : Nat) : (dropMsg s m).positions = s.positions := rfl
@[simp] theorem dropMsg_stalls (m : Nat) : (dropMsg s m).stalls = s.stalls := rfl
@[simp] theorem dropMsg_loft (m : Nat) : (dropMsg s m).loft = s.loft := rfl
@[simp] theorem dropMsg_yard (m : Nat) : (dropMsg s m).yard = s.yard.filter fun x => x.id != m := rfl
@[simp] theorem dropMsg_ctxs (m : Nat) : (dropMsg s m).ctxs = s.ctxs := rfl
@[simp] theorem dropMsg_recs (m : Nat) : (dropMsg s m).recs = s.recs := rfl
@[simp] theorem dropMsg_ym (m : Nat) : (dropMsg s m).ym = s.ym := rfl
@[simp] theorem dropMsg_hbm (m : Nat) : (dropMsg s m).hbm = s.hbm := rfl
@[simp] theorem dropMsg_grn (m : Nat) : (dropMsg s m).grn = s.grn := rfl
@[simp] theorem dropMsg_drovers (m : Nat) : (dropMsg s m).drovers = s.drovers := rfl
@[simp] theorem dropMsg_reports (m : Nat) : (dropMsg s m).reports = s.reports := rfl
@[simp] theorem dropMsg_rhoa (m : Nat) : (dropMsg s m).rhoa = s.rhoa := rfl
@[simp] theorem dropMsg_gate (m : Nat) : (dropMsg s m).gate = s.gate := rfl
@[simp] theorem dropMsg_db (m : Nat) : (dropMsg s m).db = s.db := rfl
@[simp] theorem dropMsg_fuses (m : Nat) : (dropMsg s m).fuses = s.fuses := rfl
@[simp] theorem dropMsg_tack (m : Nat) : (dropMsg s m).tack = s.tack := rfl
@[simp] theorem dropMsg_smithy (m : Nat) : (dropMsg s m).smithy = s.smithy := rfl
@[simp] theorem dropMsg_rst (m : Nat) : (dropMsg s m).rst = s.rst := rfl
@[simp] theorem dropMsg_supply (m : Nat) : (dropMsg s m).supply = s.supply := rfl
@[simp] theorem dropMsg_ostler (m : Nat) : (dropMsg s m).ostler = s.ostler := rfl
@[simp] theorem dropMsg_disc (m : Nat) : (dropMsg s m).disc = s.disc := rfl
@[simp] theorem dropMsg_tap (m : Nat) : (dropMsg s m).tap = s.tap := rfl
@[simp] theorem dropMsg_sent (m : Nat) : (dropMsg s m).sent = s.sent := rfl
@[simp] theorem dropMsg_frames (m : Nat) : (dropMsg s m).frames = s.frames := rfl

/-! ### raiseIrq -/

@[simp] theorem raiseIrq_pending (f v : Nat) : (raiseIrq s f v).pending = s.pending := rfl
@[simp] theorem raiseIrq_fresh (f v : Nat) : (raiseIrq s f v).fresh = s.fresh := rfl
@[simp] theorem raiseIrq_msgSeq (f v : Nat) : (raiseIrq s f v).msgSeq = s.msgSeq := rfl
@[simp] theorem raiseIrq_bus (f v : Nat) : (raiseIrq s f v).bus = s.bus := rfl
@[simp] theorem raiseIrq_busEp (f v : Nat) : (raiseIrq s f v).busEp = s.busEp := rfl
@[simp] theorem raiseIrq_hostMem (f v : Nat) : (raiseIrq s f v).hostMem = s.hostMem := rfl
@[simp] theorem raiseIrq_irqs (f v : Nat) : (raiseIrq s f v).irqs = s.irqs ++ [(f, v)] := rfl
@[simp] theorem raiseIrq_csr (f v : Nat) : (raiseIrq s f v).csr = s.csr := rfl
@[simp] theorem raiseIrq_ledger (f v : Nat) : (raiseIrq s f v).ledger = s.ledger := rfl
@[simp] theorem raiseIrq_positions (f v : Nat) : (raiseIrq s f v).positions = s.positions := rfl
@[simp] theorem raiseIrq_stalls (f v : Nat) : (raiseIrq s f v).stalls = s.stalls := rfl
@[simp] theorem raiseIrq_loft (f v : Nat) : (raiseIrq s f v).loft = s.loft := rfl
@[simp] theorem raiseIrq_yard (f v : Nat) : (raiseIrq s f v).yard = s.yard := rfl
@[simp] theorem raiseIrq_ctxs (f v : Nat) : (raiseIrq s f v).ctxs = s.ctxs := rfl
@[simp] theorem raiseIrq_recs (f v : Nat) : (raiseIrq s f v).recs = s.recs := rfl
@[simp] theorem raiseIrq_ym (f v : Nat) : (raiseIrq s f v).ym = s.ym := rfl
@[simp] theorem raiseIrq_hbm (f v : Nat) : (raiseIrq s f v).hbm = s.hbm := rfl
@[simp] theorem raiseIrq_grn (f v : Nat) : (raiseIrq s f v).grn = s.grn := rfl
@[simp] theorem raiseIrq_drovers (f v : Nat) : (raiseIrq s f v).drovers = s.drovers := rfl
@[simp] theorem raiseIrq_reports (f v : Nat) : (raiseIrq s f v).reports = s.reports := rfl
@[simp] theorem raiseIrq_rhoa (f v : Nat) : (raiseIrq s f v).rhoa = s.rhoa := rfl
@[simp] theorem raiseIrq_gate (f v : Nat) : (raiseIrq s f v).gate = s.gate := rfl
@[simp] theorem raiseIrq_db (f v : Nat) : (raiseIrq s f v).db = s.db := rfl
@[simp] theorem raiseIrq_fuses (f v : Nat) : (raiseIrq s f v).fuses = s.fuses := rfl
@[simp] theorem raiseIrq_tack (f v : Nat) : (raiseIrq s f v).tack = s.tack := rfl
@[simp] theorem raiseIrq_smithy (f v : Nat) : (raiseIrq s f v).smithy = s.smithy := rfl
@[simp] theorem raiseIrq_rst (f v : Nat) : (raiseIrq s f v).rst = s.rst := rfl
@[simp] theorem raiseIrq_supply (f v : Nat) : (raiseIrq s f v).supply = s.supply := rfl
@[simp] theorem raiseIrq_ostler (f v : Nat) : (raiseIrq s f v).ostler = s.ostler := rfl
@[simp] theorem raiseIrq_disc (f v : Nat) : (raiseIrq s f v).disc = s.disc := rfl
@[simp] theorem raiseIrq_tap (f v : Nat) : (raiseIrq s f v).tap = s.tap := rfl
@[simp] theorem raiseIrq_sent (f v : Nat) : (raiseIrq s f v).sent = s.sent := rfl
@[simp] theorem raiseIrq_frames (f v : Nat) : (raiseIrq s f v).frames = s.frames := rfl

/-! ### reportOstler -/

@[simp] theorem reportOstler_pending (a b c d : Nat) : (reportOstler s a b c d).pending = s.pending := rfl
@[simp] theorem reportOstler_fresh (a b c d : Nat) : (reportOstler s a b c d).fresh = s.fresh := rfl
@[simp] theorem reportOstler_msgSeq (a b c d : Nat) : (reportOstler s a b c d).msgSeq = s.msgSeq := rfl
@[simp] theorem reportOstler_bus (a b c d : Nat) : (reportOstler s a b c d).bus = s.bus := rfl
@[simp] theorem reportOstler_busEp (a b c d : Nat) : (reportOstler s a b c d).busEp = s.busEp := rfl
@[simp] theorem reportOstler_hostMem (a b c d : Nat) : (reportOstler s a b c d).hostMem = s.hostMem := rfl
@[simp] theorem reportOstler_irqs (a b c d : Nat) : (reportOstler s a b c d).irqs = s.irqs := rfl
@[simp] theorem reportOstler_csr (a b c d : Nat) : (reportOstler s a b c d).csr = s.csr := rfl
@[simp] theorem reportOstler_ledger (a b c d : Nat) : (reportOstler s a b c d).ledger = s.ledger := rfl
@[simp] theorem reportOstler_positions (a b c d : Nat) : (reportOstler s a b c d).positions = s.positions := rfl
@[simp] theorem reportOstler_stalls (a b c d : Nat) : (reportOstler s a b c d).stalls = s.stalls := rfl
@[simp] theorem reportOstler_loft (a b c d : Nat) : (reportOstler s a b c d).loft = s.loft := rfl
@[simp] theorem reportOstler_yard (a b c d : Nat) : (reportOstler s a b c d).yard = s.yard := rfl
@[simp] theorem reportOstler_ctxs (a b c d : Nat) : (reportOstler s a b c d).ctxs = s.ctxs := rfl
@[simp] theorem reportOstler_recs (a b c d : Nat) : (reportOstler s a b c d).recs = s.recs := rfl
@[simp] theorem reportOstler_ym (a b c d : Nat) : (reportOstler s a b c d).ym = s.ym := rfl
@[simp] theorem reportOstler_hbm (a b c d : Nat) : (reportOstler s a b c d).hbm = s.hbm := rfl
@[simp] theorem reportOstler_grn (a b c d : Nat) : (reportOstler s a b c d).grn = s.grn := rfl
@[simp] theorem reportOstler_drovers (a b c d : Nat) : (reportOstler s a b c d).drovers = s.drovers := rfl
@[simp] theorem reportOstler_reports (a b c d : Nat) : (reportOstler s a b c d).reports = s.reports ++ [⟨a, b, c, d, s.ledger, [], 0⟩] := rfl
@[simp] theorem reportOstler_rhoa (a b c d : Nat) : (reportOstler s a b c d).rhoa = s.rhoa := rfl
@[simp] theorem reportOstler_gate (a b c d : Nat) : (reportOstler s a b c d).gate = s.gate := rfl
@[simp] theorem reportOstler_db (a b c d : Nat) : (reportOstler s a b c d).db = s.db := rfl
@[simp] theorem reportOstler_fuses (a b c d : Nat) : (reportOstler s a b c d).fuses = s.fuses := rfl
@[simp] theorem reportOstler_tack (a b c d : Nat) : (reportOstler s a b c d).tack = s.tack := rfl
@[simp] theorem reportOstler_smithy (a b c d : Nat) : (reportOstler s a b c d).smithy = s.smithy := rfl
@[simp] theorem reportOstler_rst (a b c d : Nat) : (reportOstler s a b c d).rst = s.rst := rfl
@[simp] theorem reportOstler_supply (a b c d : Nat) : (reportOstler s a b c d).supply = s.supply := rfl
@[simp] theorem reportOstler_ostler (a b c d : Nat) : (reportOstler s a b c d).ostler = s.ostler := rfl
@[simp] theorem reportOstler_disc (a b c d : Nat) : (reportOstler s a b c d).disc = s.disc := rfl
@[simp] theorem reportOstler_tap (a b c d : Nat) : (reportOstler s a b c d).tap = s.tap := rfl
@[simp] theorem reportOstler_sent (a b c d : Nat) : (reportOstler s a b c d).sent = s.sent := rfl
@[simp] theorem reportOstler_frames (a b c d : Nat) : (reportOstler s a b c d).frames = s.frames := rfl

/-! ### modRegion -/

@[simp] theorem modRegion_pending (i : Nat) (f : Region → Region) : (modRegion s i f).pending = s.pending := rfl
@[simp] theorem modRegion_fresh (i : Nat) (f : Region → Region) : (modRegion s i f).fresh = s.fresh := rfl
@[simp] theorem modRegion_msgSeq (i : Nat) (f : Region → Region) : (modRegion s i f).msgSeq = s.msgSeq := rfl
@[simp] theorem modRegion_bus (i : Nat) (f : Region → Region) : (modRegion s i f).bus = s.bus := rfl
@[simp] theorem modRegion_busEp (i : Nat) (f : Region → Region) : (modRegion s i f).busEp = s.busEp := rfl
@[simp] theorem modRegion_hostMem (i : Nat) (f : Region → Region) : (modRegion s i f).hostMem = s.hostMem := rfl
@[simp] theorem modRegion_irqs (i : Nat) (f : Region → Region) : (modRegion s i f).irqs = s.irqs := rfl
@[simp] theorem modRegion_csr (i : Nat) (f : Region → Region) : (modRegion s i f).csr = s.csr := rfl
@[simp] theorem modRegion_ledger (i : Nat) (f : Region → Region) : (modRegion s i f).ledger = s.ledger := rfl
@[simp] theorem modRegion_positions (i : Nat) (f : Region → Region) : (modRegion s i f).positions = s.positions := rfl
@[simp] theorem modRegion_stalls (i : Nat) (f : Region → Region) : (modRegion s i f).stalls = s.stalls := rfl
@[simp] theorem modRegion_loft (i : Nat) (f : Region → Region) : (modRegion s i f).loft = s.loft := rfl
@[simp] theorem modRegion_yard (i : Nat) (f : Region → Region) : (modRegion s i f).yard = s.yard := rfl
@[simp] theorem modRegion_ctxs (i : Nat) (f : Region → Region) : (modRegion s i f).ctxs = s.ctxs := rfl
@[simp] theorem modRegion_recs (i : Nat) (f : Region → Region) : (modRegion s i f).recs = s.recs := rfl
@[simp] theorem modRegion_ym (i : Nat) (f : Region → Region) : (modRegion s i f).ym = s.ym := rfl
@[simp] theorem modRegion_hbm (i : Nat) (f : Region → Region) : (modRegion s i f).hbm = { s.hbm with regions := nmod {} s.hbm.regions i f } := rfl
@[simp] theorem modRegion_grn (i : Nat) (f : Region → Region) : (modRegion s i f).grn = s.grn := rfl
@[simp] theorem modRegion_drovers (i : Nat) (f : Region → Region) : (modRegion s i f).drovers = s.drovers := rfl
@[simp] theorem modRegion_reports (i : Nat) (f : Region → Region) : (modRegion s i f).reports = s.reports := rfl
@[simp] theorem modRegion_rhoa (i : Nat) (f : Region → Region) : (modRegion s i f).rhoa = s.rhoa := rfl
@[simp] theorem modRegion_gate (i : Nat) (f : Region → Region) : (modRegion s i f).gate = s.gate := rfl
@[simp] theorem modRegion_db (i : Nat) (f : Region → Region) : (modRegion s i f).db = s.db := rfl
@[simp] theorem modRegion_fuses (i : Nat) (f : Region → Region) : (modRegion s i f).fuses = s.fuses := rfl
@[simp] theorem modRegion_tack (i : Nat) (f : Region → Region) : (modRegion s i f).tack = s.tack := rfl
@[simp] theorem modRegion_smithy (i : Nat) (f : Region → Region) : (modRegion s i f).smithy = s.smithy := rfl
@[simp] theorem modRegion_rst (i : Nat) (f : Region → Region) : (modRegion s i f).rst = s.rst := rfl
@[simp] theorem modRegion_supply (i : Nat) (f : Region → Region) : (modRegion s i f).supply = s.supply := rfl
@[simp] theorem modRegion_ostler (i : Nat) (f : Region → Region) : (modRegion s i f).ostler = s.ostler := rfl
@[simp] theorem modRegion_disc (i : Nat) (f : Region → Region) : (modRegion s i f).disc = s.disc := rfl
@[simp] theorem modRegion_tap (i : Nat) (f : Region → Region) : (modRegion s i f).tap = s.tap := rfl
@[simp] theorem modRegion_sent (i : Nat) (f : Region → Region) : (modRegion s i f).sent = s.sent := rfl
@[simp] theorem modRegion_frames (i : Nat) (f : Region → Region) : (modRegion s i f).frames = s.frames := rfl

/-! ### modPort -/

@[simp] theorem modPort_pending (n : Nat) (f : Port → Port) : (modPort s n f).pending = s.pending := rfl
@[simp] theorem modPort_fresh (n : Nat) (f : Port → Port) : (modPort s n f).fresh = s.fresh := rfl
@[simp] theorem modPort_msgSeq (n : Nat) (f : Port → Port) : (modPort s n f).msgSeq = s.msgSeq := rfl
@[simp] theorem modPort_bus (n : Nat) (f : Port → Port) : (modPort s n f).bus = s.bus := rfl
@[simp] theorem modPort_busEp (n : Nat) (f : Port → Port) : (modPort s n f).busEp = s.busEp := rfl
@[simp] theorem modPort_hostMem (n : Nat) (f : Port → Port) : (modPort s n f).hostMem = s.hostMem := rfl
@[simp] theorem modPort_irqs (n : Nat) (f : Port → Port) : (modPort s n f).irqs = s.irqs := rfl
@[simp] theorem modPort_csr (n : Nat) (f : Port → Port) : (modPort s n f).csr = s.csr := rfl
@[simp] theorem modPort_ledger (n : Nat) (f : Port → Port) : (modPort s n f).ledger = s.ledger := rfl
@[simp] theorem modPort_positions (n : Nat) (f : Port → Port) : (modPort s n f).positions = s.positions := rfl
@[simp] theorem modPort_stalls (n : Nat) (f : Port → Port) : (modPort s n f).stalls = s.stalls := rfl
@[simp] theorem modPort_loft (n : Nat) (f : Port → Port) : (modPort s n f).loft = s.loft := rfl
@[simp] theorem modPort_yard (n : Nat) (f : Port → Port) : (modPort s n f).yard = s.yard := rfl
@[simp] theorem modPort_ctxs (n : Nat) (f : Port → Port) : (modPort s n f).ctxs = s.ctxs := rfl
@[simp] theorem modPort_recs (n : Nat) (f : Port → Port) : (modPort s n f).recs = s.recs := rfl
@[simp] theorem modPort_ym (n : Nat) (f : Port → Port) : (modPort s n f).ym = s.ym := rfl
@[simp] theorem modPort_hbm (n : Nat) (f : Port → Port) : (modPort s n f).hbm = s.hbm := rfl
@[simp] theorem modPort_grn (n : Nat) (f : Port → Port) : (modPort s n f).grn = s.grn := rfl
@[simp] theorem modPort_drovers (n : Nat) (f : Port → Port) : (modPort s n f).drovers = s.drovers := rfl
@[simp] theorem modPort_reports (n : Nat) (f : Port → Port) : (modPort s n f).reports = s.reports := rfl
@[simp] theorem modPort_rhoa (n : Nat) (f : Port → Port) : (modPort s n f).rhoa = { s.rhoa with ports := nmod {} s.rhoa.ports n f } := rfl
@[simp] theorem modPort_gate (n : Nat) (f : Port → Port) : (modPort s n f).gate = s.gate := rfl
@[simp] theorem modPort_db (n : Nat) (f : Port → Port) : (modPort s n f).db = s.db := rfl
@[simp] theorem modPort_fuses (n : Nat) (f : Port → Port) : (modPort s n f).fuses = s.fuses := rfl
@[simp] theorem modPort_tack (n : Nat) (f : Port → Port) : (modPort s n f).tack = s.tack := rfl
@[simp] theorem modPort_smithy (n : Nat) (f : Port → Port) : (modPort s n f).smithy = s.smithy := rfl
@[simp] theorem modPort_rst (n : Nat) (f : Port → Port) : (modPort s n f).rst = s.rst := rfl
@[simp] theorem modPort_supply (n : Nat) (f : Port → Port) : (modPort s n f).supply = s.supply := rfl
@[simp] theorem modPort_ostler (n : Nat) (f : Port → Port) : (modPort s n f).ostler = s.ostler := rfl
@[simp] theorem modPort_disc (n : Nat) (f : Port → Port) : (modPort s n f).disc = s.disc := rfl
@[simp] theorem modPort_tap (n : Nat) (f : Port → Port) : (modPort s n f).tap = s.tap := rfl
@[simp] theorem modPort_sent (n : Nat) (f : Port → Port) : (modPort s n f).sent = s.sent := rfl
@[simp] theorem modPort_frames (n : Nat) (f : Port → Port) : (modPort s n f).frames = s.frames := rfl

/-! ### modTack -/

@[simp] theorem modTack_pending (f : Tack → Tack) : (modTack s f).pending = s.pending := rfl
@[simp] theorem modTack_fresh (f : Tack → Tack) : (modTack s f).fresh = s.fresh := rfl
@[simp] theorem modTack_msgSeq (f : Tack → Tack) : (modTack s f).msgSeq = s.msgSeq := rfl
@[simp] theorem modTack_bus (f : Tack → Tack) : (modTack s f).bus = s.bus := rfl
@[simp] theorem modTack_busEp (f : Tack → Tack) : (modTack s f).busEp = s.busEp := rfl
@[simp] theorem modTack_hostMem (f : Tack → Tack) : (modTack s f).hostMem = s.hostMem := rfl
@[simp] theorem modTack_irqs (f : Tack → Tack) : (modTack s f).irqs = s.irqs := rfl
@[simp] theorem modTack_csr (f : Tack → Tack) : (modTack s f).csr = s.csr := rfl
@[simp] theorem modTack_ledger (f : Tack → Tack) : (modTack s f).ledger = s.ledger := rfl
@[simp] theorem modTack_positions (f : Tack → Tack) : (modTack s f).positions = s.positions := rfl
@[simp] theorem modTack_stalls (f : Tack → Tack) : (modTack s f).stalls = s.stalls := rfl
@[simp] theorem modTack_loft (f : Tack → Tack) : (modTack s f).loft = s.loft := rfl
@[simp] theorem modTack_yard (f : Tack → Tack) : (modTack s f).yard = s.yard := rfl
@[simp] theorem modTack_ctxs (f : Tack → Tack) : (modTack s f).ctxs = s.ctxs := rfl
@[simp] theorem modTack_recs (f : Tack → Tack) : (modTack s f).recs = s.recs := rfl
@[simp] theorem modTack_ym (f : Tack → Tack) : (modTack s f).ym = s.ym := rfl
@[simp] theorem modTack_hbm (f : Tack → Tack) : (modTack s f).hbm = s.hbm := rfl
@[simp] theorem modTack_grn (f : Tack → Tack) : (modTack s f).grn = s.grn := rfl
@[simp] theorem modTack_drovers (f : Tack → Tack) : (modTack s f).drovers = s.drovers := rfl
@[simp] theorem modTack_reports (f : Tack → Tack) : (modTack s f).reports = s.reports := rfl
@[simp] theorem modTack_rhoa (f : Tack → Tack) : (modTack s f).rhoa = s.rhoa := rfl
@[simp] theorem modTack_gate (f : Tack → Tack) : (modTack s f).gate = s.gate := rfl
@[simp] theorem modTack_db (f : Tack → Tack) : (modTack s f).db = s.db := rfl
@[simp] theorem modTack_fuses (f : Tack → Tack) : (modTack s f).fuses = s.fuses := rfl
@[simp] theorem modTack_tack (f : Tack → Tack) : (modTack s f).tack = f s.tack := rfl
@[simp] theorem modTack_smithy (f : Tack → Tack) : (modTack s f).smithy = s.smithy := rfl
@[simp] theorem modTack_rst (f : Tack → Tack) : (modTack s f).rst = s.rst := rfl
@[simp] theorem modTack_supply (f : Tack → Tack) : (modTack s f).supply = s.supply := rfl
@[simp] theorem modTack_ostler (f : Tack → Tack) : (modTack s f).ostler = s.ostler := rfl
@[simp] theorem modTack_disc (f : Tack → Tack) : (modTack s f).disc = s.disc := rfl
@[simp] theorem modTack_tap (f : Tack → Tack) : (modTack s f).tap = s.tap := rfl
@[simp] theorem modTack_sent (f : Tack → Tack) : (modTack s f).sent = s.sent := rfl
@[simp] theorem modTack_frames (f : Tack → Tack) : (modTack s f).frames = s.frames := rfl

/-! ### modSmithy -/

@[simp] theorem modSmithy_pending (f : Smithy → Smithy) : (modSmithy s f).pending = s.pending := rfl
@[simp] theorem modSmithy_fresh (f : Smithy → Smithy) : (modSmithy s f).fresh = s.fresh := rfl
@[simp] theorem modSmithy_msgSeq (f : Smithy → Smithy) : (modSmithy s f).msgSeq = s.msgSeq := rfl
@[simp] theorem modSmithy_bus (f : Smithy → Smithy) : (modSmithy s f).bus = s.bus := rfl
@[simp] theorem modSmithy_busEp (f : Smithy → Smithy) : (modSmithy s f).busEp = s.busEp := rfl
@[simp] theorem modSmithy_hostMem (f : Smithy → Smithy) : (modSmithy s f).hostMem = s.hostMem := rfl
@[simp] theorem modSmithy_irqs (f : Smithy → Smithy) : (modSmithy s f).irqs = s.irqs := rfl
@[simp] theorem modSmithy_csr (f : Smithy → Smithy) : (modSmithy s f).csr = s.csr := rfl
@[simp] theorem modSmithy_ledger (f : Smithy → Smithy) : (modSmithy s f).ledger = s.ledger := rfl
@[simp] theorem modSmithy_positions (f : Smithy → Smithy) : (modSmithy s f).positions = s.positions := rfl
@[simp] theorem modSmithy_stalls (f : Smithy → Smithy) : (modSmithy s f).stalls = s.stalls := rfl
@[simp] theorem modSmithy_loft (f : Smithy → Smithy) : (modSmithy s f).loft = s.loft := rfl
@[simp] theorem modSmithy_yard (f : Smithy → Smithy) : (modSmithy s f).yard = s.yard := rfl
@[simp] theorem modSmithy_ctxs (f : Smithy → Smithy) : (modSmithy s f).ctxs = s.ctxs := rfl
@[simp] theorem modSmithy_recs (f : Smithy → Smithy) : (modSmithy s f).recs = s.recs := rfl
@[simp] theorem modSmithy_ym (f : Smithy → Smithy) : (modSmithy s f).ym = s.ym := rfl
@[simp] theorem modSmithy_hbm (f : Smithy → Smithy) : (modSmithy s f).hbm = s.hbm := rfl
@[simp] theorem modSmithy_grn (f : Smithy → Smithy) : (modSmithy s f).grn = s.grn := rfl
@[simp] theorem modSmithy_drovers (f : Smithy → Smithy) : (modSmithy s f).drovers = s.drovers := rfl
@[simp] theorem modSmithy_reports (f : Smithy → Smithy) : (modSmithy s f).reports = s.reports := rfl
@[simp] theorem modSmithy_rhoa (f : Smithy → Smithy) : (modSmithy s f).rhoa = s.rhoa := rfl
@[simp] theorem modSmithy_gate (f : Smithy → Smithy) : (modSmithy s f).gate = s.gate := rfl
@[simp] theorem modSmithy_db (f : Smithy → Smithy) : (modSmithy s f).db = s.db := rfl
@[simp] theorem modSmithy_fuses (f : Smithy → Smithy) : (modSmithy s f).fuses = s.fuses := rfl
@[simp] theorem modSmithy_tack (f : Smithy → Smithy) : (modSmithy s f).tack = s.tack := rfl
@[simp] theorem modSmithy_smithy (f : Smithy → Smithy) : (modSmithy s f).smithy = f s.smithy := rfl
@[simp] theorem modSmithy_rst (f : Smithy → Smithy) : (modSmithy s f).rst = s.rst := rfl
@[simp] theorem modSmithy_supply (f : Smithy → Smithy) : (modSmithy s f).supply = s.supply := rfl
@[simp] theorem modSmithy_ostler (f : Smithy → Smithy) : (modSmithy s f).ostler = s.ostler := rfl
@[simp] theorem modSmithy_disc (f : Smithy → Smithy) : (modSmithy s f).disc = s.disc := rfl
@[simp] theorem modSmithy_tap (f : Smithy → Smithy) : (modSmithy s f).tap = s.tap := rfl
@[simp] theorem modSmithy_sent (f : Smithy → Smithy) : (modSmithy s f).sent = s.sent := rfl
@[simp] theorem modSmithy_frames (f : Smithy → Smithy) : (modSmithy s f).frames = s.frames := rfl

/-! ### modRst -/

@[simp] theorem modRst_pending (f : Rst → Rst) : (modRst s f).pending = s.pending := rfl
@[simp] theorem modRst_fresh (f : Rst → Rst) : (modRst s f).fresh = s.fresh := rfl
@[simp] theorem modRst_msgSeq (f : Rst → Rst) : (modRst s f).msgSeq = s.msgSeq := rfl
@[simp] theorem modRst_bus (f : Rst → Rst) : (modRst s f).bus = s.bus := rfl
@[simp] theorem modRst_busEp (f : Rst → Rst) : (modRst s f).busEp = s.busEp := rfl
@[simp] theorem modRst_hostMem (f : Rst → Rst) : (modRst s f).hostMem = s.hostMem := rfl
@[simp] theorem modRst_irqs (f : Rst → Rst) : (modRst s f).irqs = s.irqs := rfl
@[simp] theorem modRst_csr (f : Rst → Rst) : (modRst s f).csr = s.csr := rfl
@[simp] theorem modRst_ledger (f : Rst → Rst) : (modRst s f).ledger = s.ledger := rfl
@[simp] theorem modRst_positions (f : Rst → Rst) : (modRst s f).positions = s.positions := rfl
@[simp] theorem modRst_stalls (f : Rst → Rst) : (modRst s f).stalls = s.stalls := rfl
@[simp] theorem modRst_loft (f : Rst → Rst) : (modRst s f).loft = s.loft := rfl
@[simp] theorem modRst_yard (f : Rst → Rst) : (modRst s f).yard = s.yard := rfl
@[simp] theorem modRst_ctxs (f : Rst → Rst) : (modRst s f).ctxs = s.ctxs := rfl
@[simp] theorem modRst_recs (f : Rst → Rst) : (modRst s f).recs = s.recs := rfl
@[simp] theorem modRst_ym (f : Rst → Rst) : (modRst s f).ym = s.ym := rfl
@[simp] theorem modRst_hbm (f : Rst → Rst) : (modRst s f).hbm = s.hbm := rfl
@[simp] theorem modRst_grn (f : Rst → Rst) : (modRst s f).grn = s.grn := rfl
@[simp] theorem modRst_drovers (f : Rst → Rst) : (modRst s f).drovers = s.drovers := rfl
@[simp] theorem modRst_reports (f : Rst → Rst) : (modRst s f).reports = s.reports := rfl
@[simp] theorem modRst_rhoa (f : Rst → Rst) : (modRst s f).rhoa = s.rhoa := rfl
@[simp] theorem modRst_gate (f : Rst → Rst) : (modRst s f).gate = s.gate := rfl
@[simp] theorem modRst_db (f : Rst → Rst) : (modRst s f).db = s.db := rfl
@[simp] theorem modRst_fuses (f : Rst → Rst) : (modRst s f).fuses = s.fuses := rfl
@[simp] theorem modRst_tack (f : Rst → Rst) : (modRst s f).tack = s.tack := rfl
@[simp] theorem modRst_smithy (f : Rst → Rst) : (modRst s f).smithy = s.smithy := rfl
@[simp] theorem modRst_rst (f : Rst → Rst) : (modRst s f).rst = f s.rst := rfl
@[simp] theorem modRst_supply (f : Rst → Rst) : (modRst s f).supply = s.supply := rfl
@[simp] theorem modRst_ostler (f : Rst → Rst) : (modRst s f).ostler = s.ostler := rfl
@[simp] theorem modRst_disc (f : Rst → Rst) : (modRst s f).disc = s.disc := rfl
@[simp] theorem modRst_tap (f : Rst → Rst) : (modRst s f).tap = s.tap := rfl
@[simp] theorem modRst_sent (f : Rst → Rst) : (modRst s f).sent = s.sent := rfl
@[simp] theorem modRst_frames (f : Rst → Rst) : (modRst s f).frames = s.frames := rfl

/-! ### modOstler -/

@[simp] theorem modOstler_pending (f : Ostler → Ostler) : (modOstler s f).pending = s.pending := rfl
@[simp] theorem modOstler_fresh (f : Ostler → Ostler) : (modOstler s f).fresh = s.fresh := rfl
@[simp] theorem modOstler_msgSeq (f : Ostler → Ostler) : (modOstler s f).msgSeq = s.msgSeq := rfl
@[simp] theorem modOstler_bus (f : Ostler → Ostler) : (modOstler s f).bus = s.bus := rfl
@[simp] theorem modOstler_busEp (f : Ostler → Ostler) : (modOstler s f).busEp = s.busEp := rfl
@[simp] theorem modOstler_hostMem (f : Ostler → Ostler) : (modOstler s f).hostMem = s.hostMem := rfl
@[simp] theorem modOstler_irqs (f : Ostler → Ostler) : (modOstler s f).irqs = s.irqs := rfl
@[simp] theorem modOstler_csr (f : Ostler → Ostler) : (modOstler s f).csr = s.csr := rfl
@[simp] theorem modOstler_ledger (f : Ostler → Ostler) : (modOstler s f).ledger = s.ledger := rfl
@[simp] theorem modOstler_positions (f : Ostler → Ostler) : (modOstler s f).positions = s.positions := rfl
@[simp] theorem modOstler_stalls (f : Ostler → Ostler) : (modOstler s f).stalls = s.stalls := rfl
@[simp] theorem modOstler_loft (f : Ostler → Ostler) : (modOstler s f).loft = s.loft := rfl
@[simp] theorem modOstler_yard (f : Ostler → Ostler) : (modOstler s f).yard = s.yard := rfl
@[simp] theorem modOstler_ctxs (f : Ostler → Ostler) : (modOstler s f).ctxs = s.ctxs := rfl
@[simp] theorem modOstler_recs (f : Ostler → Ostler) : (modOstler s f).recs = s.recs := rfl
@[simp] theorem modOstler_ym (f : Ostler → Ostler) : (modOstler s f).ym = s.ym := rfl
@[simp] theorem modOstler_hbm (f : Ostler → Ostler) : (modOstler s f).hbm = s.hbm := rfl
@[simp] theorem modOstler_grn (f : Ostler → Ostler) : (modOstler s f).grn = s.grn := rfl
@[simp] theorem modOstler_drovers (f : Ostler → Ostler) : (modOstler s f).drovers = s.drovers := rfl
@[simp] theorem modOstler_reports (f : Ostler → Ostler) : (modOstler s f).reports = s.reports := rfl
@[simp] theorem modOstler_rhoa (f : Ostler → Ostler) : (modOstler s f).rhoa = s.rhoa := rfl
@[simp] theorem modOstler_gate (f : Ostler → Ostler) : (modOstler s f).gate = s.gate := rfl
@[simp] theorem modOstler_db (f : Ostler → Ostler) : (modOstler s f).db = s.db := rfl
@[simp] theorem modOstler_fuses (f : Ostler → Ostler) : (modOstler s f).fuses = s.fuses := rfl
@[simp] theorem modOstler_tack (f : Ostler → Ostler) : (modOstler s f).tack = s.tack := rfl
@[simp] theorem modOstler_smithy (f : Ostler → Ostler) : (modOstler s f).smithy = s.smithy := rfl
@[simp] theorem modOstler_rst (f : Ostler → Ostler) : (modOstler s f).rst = s.rst := rfl
@[simp] theorem modOstler_supply (f : Ostler → Ostler) : (modOstler s f).supply = s.supply := rfl
@[simp] theorem modOstler_ostler (f : Ostler → Ostler) : (modOstler s f).ostler = f s.ostler := rfl
@[simp] theorem modOstler_disc (f : Ostler → Ostler) : (modOstler s f).disc = s.disc := rfl
@[simp] theorem modOstler_tap (f : Ostler → Ostler) : (modOstler s f).tap = s.tap := rfl
@[simp] theorem modOstler_sent (f : Ostler → Ostler) : (modOstler s f).sent = s.sent := rfl
@[simp] theorem modOstler_frames (f : Ostler → Ostler) : (modOstler s f).frames = s.frames := rfl

/-! ### modDisc -/

@[simp] theorem modDisc_pending (f : Disc → Disc) : (modDisc s f).pending = s.pending := rfl
@[simp] theorem modDisc_fresh (f : Disc → Disc) : (modDisc s f).fresh = s.fresh := rfl
@[simp] theorem modDisc_msgSeq (f : Disc → Disc) : (modDisc s f).msgSeq = s.msgSeq := rfl
@[simp] theorem modDisc_bus (f : Disc → Disc) : (modDisc s f).bus = s.bus := rfl
@[simp] theorem modDisc_busEp (f : Disc → Disc) : (modDisc s f).busEp = s.busEp := rfl
@[simp] theorem modDisc_hostMem (f : Disc → Disc) : (modDisc s f).hostMem = s.hostMem := rfl
@[simp] theorem modDisc_irqs (f : Disc → Disc) : (modDisc s f).irqs = s.irqs := rfl
@[simp] theorem modDisc_csr (f : Disc → Disc) : (modDisc s f).csr = s.csr := rfl
@[simp] theorem modDisc_ledger (f : Disc → Disc) : (modDisc s f).ledger = s.ledger := rfl
@[simp] theorem modDisc_positions (f : Disc → Disc) : (modDisc s f).positions = s.positions := rfl
@[simp] theorem modDisc_stalls (f : Disc → Disc) : (modDisc s f).stalls = s.stalls := rfl
@[simp] theorem modDisc_loft (f : Disc → Disc) : (modDisc s f).loft = s.loft := rfl
@[simp] theorem modDisc_yard (f : Disc → Disc) : (modDisc s f).yard = s.yard := rfl
@[simp] theorem modDisc_ctxs (f : Disc → Disc) : (modDisc s f).ctxs = s.ctxs := rfl
@[simp] theorem modDisc_recs (f : Disc → Disc) : (modDisc s f).recs = s.recs := rfl
@[simp] theorem modDisc_ym (f : Disc → Disc) : (modDisc s f).ym = s.ym := rfl
@[simp] theorem modDisc_hbm (f : Disc → Disc) : (modDisc s f).hbm = s.hbm := rfl
@[simp] theorem modDisc_grn (f : Disc → Disc) : (modDisc s f).grn = s.grn := rfl
@[simp] theorem modDisc_drovers (f : Disc → Disc) : (modDisc s f).drovers = s.drovers := rfl
@[simp] theorem modDisc_reports (f : Disc → Disc) : (modDisc s f).reports = s.reports := rfl
@[simp] theorem modDisc_rhoa (f : Disc → Disc) : (modDisc s f).rhoa = s.rhoa := rfl
@[simp] theorem modDisc_gate (f : Disc → Disc) : (modDisc s f).gate = s.gate := rfl
@[simp] theorem modDisc_db (f : Disc → Disc) : (modDisc s f).db = s.db := rfl
@[simp] theorem modDisc_fuses (f : Disc → Disc) : (modDisc s f).fuses = s.fuses := rfl
@[simp] theorem modDisc_tack (f : Disc → Disc) : (modDisc s f).tack = s.tack := rfl
@[simp] theorem modDisc_smithy (f : Disc → Disc) : (modDisc s f).smithy = s.smithy := rfl
@[simp] theorem modDisc_rst (f : Disc → Disc) : (modDisc s f).rst = s.rst := rfl
@[simp] theorem modDisc_supply (f : Disc → Disc) : (modDisc s f).supply = s.supply := rfl
@[simp] theorem modDisc_ostler (f : Disc → Disc) : (modDisc s f).ostler = s.ostler := rfl
@[simp] theorem modDisc_disc (f : Disc → Disc) : (modDisc s f).disc = f s.disc := rfl
@[simp] theorem modDisc_tap (f : Disc → Disc) : (modDisc s f).tap = s.tap := rfl
@[simp] theorem modDisc_sent (f : Disc → Disc) : (modDisc s f).sent = s.sent := rfl
@[simp] theorem modDisc_frames (f : Disc → Disc) : (modDisc s f).frames = s.frames := rfl

/-! ### Reads by number -/

@[simp] theorem csrGet_csrPut_same (o : Nat) (v : W64) : csrGet (csrPut s o v) o = v := nget_nset_same _ _ _ _
theorem csrGet_csrPut_other {o i : Nat} (h : i ≠ o) (v : W64) : csrGet (csrPut s o v) i = csrGet s i := by
  unfold csrGet csrPut nset
  split
  · exact nget_nerase_other _ _ h
  · exact nget_ninsert_other _ _ h _
@[simp] theorem csrGet_csrSetField_same (o a b v : Nat) :
    csrGet (csrSetField s o a b v) o = BitVec.ofNat 64 (putBits (csrGet s o).toNat a b v) := csrGet_csrPut_same _ _ _
theorem csrGet_csrSetField_other {o i : Nat} (h : i ≠ o) (a b v : Nat) : csrGet (csrSetField s o a b v) i = csrGet s i :=
  csrGet_csrPut_other s h _
/-- Registers depend on their store alone. -/
theorem csrGet_congr {s u : State} (h : u.csr = s.csr) (o : Nat) : csrGet u o = csrGet s o := by unfold csrGet; rw [h]

@[simp] theorem stall_setStall_same (p : Nat) (x : Stall) : stall (setStall s p x) p = x := nget_nset_same _ _ _ _
theorem stall_setStall_other {p q : Nat} (h : q ≠ p) (x : Stall) : stall (setStall s p x) q = stall s q := nget_nset_other _ _ h _
@[simp] theorem stall_modStall_same (p : Nat) (f : Stall → Stall) : stall (modStall s p f) p = f (stall s p) := nget_nset_same _ _ _ _
theorem stall_modStall_other {p q : Nat} (h : q ≠ p) (f : Stall → Stall) : stall (modStall s p f) q = stall s q := nget_nset_other _ _ h _
theorem stall_congr {s u : State} (h : u.stalls = s.stalls) (p : Nat) : stall u p = stall s p := by unfold stall; rw [h]

@[simp] theorem ctx_setCtx_same (c : Nat) (x : Ctx) : ctx (setCtx s c x) c = x := nget_nset_same _ _ _ _
theorem ctx_setCtx_other {c d : Nat} (h : d ≠ c) (x : Ctx) : ctx (setCtx s c x) d = ctx s d := nget_nset_other _ _ h _
@[simp] theorem ctx_modCtx_same (c : Nat) (f : Ctx → Ctx) : ctx (modCtx s c f) c = f (ctx s c) := nget_nset_same _ _ _ _
theorem ctx_modCtx_other {c d : Nat} (h : d ≠ c) (f : Ctx → Ctx) : ctx (modCtx s c f) d = ctx s d := nget_nset_other _ _ h _
theorem ctx_congr {s u : State} (h : u.ctxs = s.ctxs) (c : Nat) : ctx u c = ctx s c := by unfold ctx; rw [h]

@[simp] theorem recOf_modRec_same (c : Nat) (f : Rec → Rec) : recOf (modRec s c f) c = f (recOf s c) := nget_nmod_same _ _ _ _
theorem recOf_modRec_other {c d : Nat} (h : d ≠ c) (f : Rec → Rec) : recOf (modRec s c f) d = recOf s d := nget_nmod_other _ _ h _
@[simp] theorem position_modPos_same (p : Nat) (f : Pos → Pos) : position (modPos s p f) p = f (position s p) := nget_nmod_same _ _ _ _
theorem position_modPos_other {p q : Nat} (h : q ≠ p) (f : Pos → Pos) : position (modPos s p f) q = position s q := nget_nmod_other _ _ h _
@[simp] theorem drover_modDrover_same (d : Nat) (f : Drover → Drover) : drover (modDrover s d f) d = f (drover s d) := nget_nmod_same _ _ _ _
theorem drover_modDrover_other {d e : Nat} (h : e ≠ d) (f : Drover → Drover) : drover (modDrover s d f) e = drover s e :=
  nget_nmod_other _ _ h _
@[simp] theorem regionAt_modRegion_same (i : Nat) (f : Region → Region) : regionAt (modRegion s i f) i = f (regionAt s i) := nget_nmod_same _ _ _ _
theorem regionAt_modRegion_other {i j : Nat} (h : j ≠ i) (f : Region → Region) : regionAt (modRegion s i f) j = regionAt s j :=
  nget_nmod_other _ _ h _
@[simp] theorem port_modPort_same (n : Nat) (f : Port → Port) : port (modPort s n f) n = f (port s n) := nget_nmod_same _ _ _ _
theorem port_modPort_other {n m : Nat} (h : m ≠ n) (f : Port → Port) : port (modPort s n f) m = port s m := nget_nmod_other _ _ h _

/-! ### Teams and loop levels -/

@[simp] theorem getTeam_setTeam_same (x : StallCtx) (t : Fin 4) (v : Team) : getTeam (setTeam x t v) t = v := by
  match t with
  | 0 => rfl
  | 1 => rfl
  | 2 => rfl
  | 3 => rfl
theorem getTeam_setTeam_other (x : StallCtx) {t k : Fin 4} (h : k ≠ t) (v : Team) : getTeam (setTeam x t v) k = getTeam x k := by
  revert h
  match t, k with
  | 0, 0 | 1, 1 | 2, 2 | 3, 3 => simp
  | 0, 1 | 0, 2 | 0, 3 | 1, 0 | 1, 2 | 1, 3 | 2, 0 | 2, 1 | 2, 3 | 3, 0 | 3, 1 | 3, 2 => exact fun _ => rfl

/-! ### Loft lines -/

theorem loftKey_ne {p q l m : Nat} (hl : l < 16384) (hm : m < 16384) (h : q ≠ p ∨ m ≠ l) : loftKey q m ≠ loftKey p l := by
  unfold loftKey; omega
@[simp] theorem loftLine_setLoft_same (p l : Nat) (v : LoftLine) : loftLine (setLoft s p l v) p l = v := nget_nset_same _ _ _ _
theorem loftLine_setLoft_other {p q l m : Nat} (hl : l < 16384) (hm : m < 16384) (h : q ≠ p ∨ m ≠ l) (v : LoftLine) :
    loftLine (setLoft s p l v) q m = loftLine s q m := nget_nset_other _ _ (loftKey_ne hl hm h) _
/-- A written line reads for its context as the new words where the mask names them, else as it read before. -/
theorem loftRead_loftWrite (p l : Nat) (c : Nat) (hc : c < 64) (ws : Line) (mask : Nat) :
    loftRead (loftWrite s p l c ws mask) p l c = some ((List.range 16).map fun i =>
      if bitOf mask i then wordAt ws i else wordAt ((loftRead s p l c).getD zeroLine) i) := by
  unfold loftRead loftWrite
  simp only [loftLine_setLoft_same, BitVec.toNat_ofNat, show c % 2 ^ 6 = c by omega, decide_true, Bool.and_true, if_true]
  congr 2
  funext i
  by_cases h : ((loftLine s p l).valid && decide ((loftLine s p l).tag.toNat = c)) = true <;> simp [h]
theorem loftRead_loftWrite_other {p q l m c d : Nat} (hl : l < 16384) (hm : m < 16384) (h : q ≠ p ∨ m ≠ l) (ws : Line) (mask : Nat) :
    loftRead (loftWrite s p l c ws mask) q m d = loftRead s q m d := by
  unfold loftRead loftWrite
  rw [loftLine_setLoft_other s hl hm h]

/-! ### Free values -/

@[simp] theorem draw_fst : (draw s).1 = Config.free s.fresh := rfl
@[simp] theorem draw_snd : (draw s).2 = { s with fresh := s.fresh + 1 } := rfl

end Sys2Proof.Machine
end

