-- ==== Sys2Proof/Laws/Ops.lean ====
section
/-!
SUPPORT. What each shared operation does, once for all the commands that go through it: the issue of an instruction, a
command of a ring, an SPDM request, a management message, the Smithy's start.
-/

namespace Sys2Proof.Machine

variable {s : State}

/-! ### Issue (R72 to R81) -/

/-- An instruction that issues has its effect, after the first issue of a START is noted. -/
theorem issueCore_of_issues {p : Nat} {t : Fin 4} {op : Nat} (go : State → W128 → Nat → State) (h : Issues s p t op) :
    issueCore s p t op go = go (noteFirst s (runningNo s)) (headOfTeam s p t) (runningNo s) := by
  obtain ⟨h1, h2, h3⟩ := h
  unfold headOfTeam at *
  unfold issueCore
  simp only [h1, h2, h3, ne_eq, not_true, decide_false, Bool.false_and, Bool.false_eq_true, if_false]

/-- The Team goes on to its next instruction after the effect. -/
theorem issueOp_of_issues {p : Nat} {t : Fin 4} {op : Nat} (run : State → W128 → Nat → State) (h : Issues s p t op) :
    issueOp s p t op run = issued (run (noteFirst s (runningNo s)) (headOfTeam s p t) (runningNo s)) p t :=
  issueCore_of_issues _ h

/-- Another opcode than the head's: nothing happens. -/
theorem issueCore_other {p : Nat} {t : Fin 4} {op : Nat} (go : State → W128 → Nat → State) (h : opcodeOf (headOfTeam s p t) ≠ op)
    (ho : op ≠ 0xFE) : issueCore s p t op go = s := by
  unfold headOfTeam at h
  unfold issueCore
  simp only [h, ho, ne_eq, not_false_eq_true, decide_true, decide_false, Bool.false_and, Bool.not_false, Bool.and_true, if_true]

/-- Not the Team's turn: nothing happens. -/
theorem issueCore_waits {p : Nat} {t : Fin 4} {op : Nat} (go : State → W128 → Nat → State) (h : anotherFirst s p t = true) :
    issueCore s p t op go = s := by
  unfold issueCore
  simp only [h, if_true, ite_self]

/-- All that considering an instruction can do. -/
theorem issueCore_cases (p : Nat) (t : Fin 4) (op : Nat) (go : State → W128 → Nat → State) :
    issueCore s p t op go = s ∨
    (∃ code h, verdict s p t = .fault code h ∧ issueCore s p t op go = teamFault s p (runningNo s) t (headOfTeam s p t) code h) ∨
    (∃ cause, verdict s p t = .block cause ∧
      issueCore s p t op go = modLive (teamBlock s p t cause) p fun y => yieldDone y t) ∨
    (∃ h, verdict s p t = .fetch h ∧
      issueCore s p t op go = startFetch (modLive (teamBlock s p t 5) p fun y => yieldDone y t) p (runningNo s) h) ∨
    (verdict s p t = .go ∧ anotherFirst s p t = false ∧
      issueCore s p t op go = go (noteFirst s (runningNo s)) (headOfTeam s p t) (runningNo s)) := by
  unfold issueCore
  by_cases h1 : (opcodeOf (headWord (stall s p) (runningNo s) (getTeam (stall s p).live t)) ≠ op &&
      !(op = 0xFE && (opInfo (opcodeOf (headWord (stall s p) (runningNo s) (getTeam (stall s p).live t)))).isNone)) = true
  · exact .inl (by rw [if_pos h1])
  · simp only [if_neg h1]
    by_cases h2 : anotherFirst s p t = true
    · exact .inl (by rw [if_pos h2])
    · simp only [if_neg h2]
      cases verdict s p t with
      | none => exact .inl rfl
      | fault code h => exact .inr (.inl ⟨code, h, rfl, by unfold headOfTeam; with_reducible rfl⟩)
      | block cause => exact .inr (.inr (.inl ⟨cause, rfl, by with_reducible rfl⟩))
      | fetch h => exact .inr (.inr (.inr (.inl ⟨h, rfl, by with_reducible rfl⟩)))
      | go => exact .inr (.inr (.inr (.inr ⟨rfl, by simpa using h2, by unfold headOfTeam; with_reducible rfl⟩)))

/-! ### Rings (R368, R369) -/

/-- A well-formed packet at the head of an idle ring is the one that its command executes. -/
theorem command_of_atHead {c op : Nat} {k : Packet} (go : State → Packet → State) (h : AtHead s c k) (hop : pkOp k = op) :
    command s c op go = go s k := by
  obtain ⟨⟨ks, hk⟩, hc, hp, hh⟩ := h
  have h1 : replayTake s c = s := by
    unfold replayTake
    simp [hh]
  have h2 : settleRing s c = s := by
    unfold settleRing
    simp only [h1, hk, List.length_cons, rejectMalformed, hp, Bool.not_true, Bool.and_false, Bool.false_eq_true, if_false]
  unfold command
  simp only [h2]
  unfold headOf
  simp [hk, hc, hop]

/-! ### SPDM and management messages (R427, R471, R472) -/

theorem spdm_unreached {via : Transport} {n : Nat} {go : State} (h : tackRuns s = false ∨ reaches s via = false) :
    spdm s via n go = tookMessage s via := by
  unfold spdm
  rcases h with h | h <;> simp [h]
theorem spdm_early {via : Transport} {n : Nat} {go : State} (h1 : tackRuns s = true) (h2 : reaches s via = true) (h3 : stageOf s via < n) :
    spdm s via n go = tookMessage (spdmError s via 4) via := by
  unfold spdm; simp [h1, h2, h3]
theorem spdm_answered {via : Transport} {n : Nat} {go : State} (h1 : tackRuns s = true) (h2 : reaches s via = true) (h3 : n ≤ stageOf s via) :
    spdm s via n go = tookMessage go via := by
  unfold spdm; simp [h1, h2, Nat.not_lt.mpr h3]

theorem mgControl_unreached {h : MgmtHdr} {op : Nat} {exempt ok : Bool} {go : State} (hr : mctpReaches s h.via = false) :
    mgControl s h op exempt ok go = tookMessage s h.via := by
  unfold mgControl; simp [hr]
theorem mgRead_unreached {h : MgmtHdr} {op : Nat} {ok : Bool} {go : State} (hr : mctpReaches s h.via = false) :
    mgRead s h op ok go = tookMessage s h.via := by
  unfold mgRead; simp [hr]
theorem mgControl_denied {h : MgmtHdr} {op : Nat} {exempt ok : Bool} {go : State} (hr : mctpReaches s h.via = true)
    (hs : (if s.rst.recovery = true then exempt else inSession s h) = false) :
    mgControl s h op exempt ok go = tookMessage (mgCount (mgReply s h op 1 []) 2) h.via := by
  unfold mgControl; simp [hr, hs]
theorem mgControl_done {h : MgmtHdr} {op : Nat} {exempt ok : Bool} {go : State} (hr : mctpReaches s h.via = true)
    (hs : (if s.rst.recovery = true then exempt else inSession s h) = true) :
    mgControl s h op exempt ok go = tookMessage (if ok then mgReply go h op 0 [] else mgReply s h op 2 []) h.via := by
  unfold mgControl; simp [hr, hs]

/-! ### The Smithy (R431, R432) -/

theorem smithyStart_busy {rejected : Bool} {outs : List (Nat × Nat)} {n : Nat} (h : smithyFree s = false) : smithyStart s rejected outs n = s := by
  unfold smithyStart; simp [h]
theorem smithyStart_free {rejected : Bool} {outs : List (Nat × Nat)} {n : Nat} (h : smithyFree s = true) :
    SmithyStarted s (smithyStart s rejected outs n) rejected outs n := by
  unfold smithyStart SmithyStarted; simp [h]

end Sys2Proof.Machine
end

