-- ==== Sys2Proof/Machine/Stored.lean ====
section
/-!
DEFINITION. What stands in the window of a stack (R300): the ciphertext of the granules, the MAC table, the metadata slots with
their SMAC, the spare pages and the check symbols (R303, R304, R308, R311, R312), as the state's plaintext and keys give them.
Nothing but a controller reads these bytes: a check that fails on them is `MemErr` of the access that meets it (log 55).
-/

namespace Sys2Proof.Machine

/-- The key slot that protects a granule: that of the OWNER of its LIVE region (R312). -/
def protKey (s : State) (g : Nat) : Option (BitVec 512 × BitVec 256) :=
  (liveRegion s g).bind fun x => nget none s.hbm.keys x.2.owner

/-- The first 8 bytes of the CMAC under a MAC key of an address and the ciphertext that stands there (R312). -/
def macBytes (k : BitVec 256) (addr : Nat) (c : List Byte) : List Byte := (Config.cmac k (leBytes 8 addr ++ c)).take 8

/-- The 256 bytes of granule g in the stack: one XTS data unit, with the device address shifted right by 8 as its tweak (R312); zero
bytes outside LIVE regions, as a scrub leaves them (R311). -/
def storedGranule (s : State) (g : Nat) : List Byte :=
  match protKey s g with
  | some k => Config.xts k.1 g (memRead s.hbm.mem (256 * g) 256)
  | none => List.replicate 256 0

/-- The MAC of granule g, at offset 8 g of the MAC table (R312); zero bytes outside LIVE regions (R311). -/
def granuleMac (s : State) (g : Nat) : List Byte :=
  match protKey s g with
  | some k => macBytes k.2 (256 * g) (storedGranule s g)
  | none => List.replicate 8 0

/-- Bytes 0 to 23 of a page's metadata slot before encryption (R304). -/
def slotPlain (s : State) (page : Nat) : List Byte :=
  let x := slotAt s page
  leBytes 16 x.record.toNat ++ leBytes 4 x.tally ++ leBytes 2 x.gpois.toNat ++ leBytes 1 (x.layout % 16) ++ leBytes 1 0

/-- The device address of a page's slot (R300). -/
def slotAddr (page : Nat) : Nat := page / 2 ^ 24 * 2 ^ 36 + 0x8B3800000 + 32 * (page % 2 ^ 24)

/-- The 32 bytes of a page's slot in the stack: 24 encrypted under the slot's address shifted right by 3, then SMAC (R304, R312);
zero bytes outside LIVE regions (R311). -/
def storedSlot (s : State) (page : Nat) : List Byte :=
  match protKey s (16 * page) with
  | some k =>
    let c := Config.xts k.1 (slotAddr page / 8) (slotPlain s page)
    c ++ macBytes k.2 (slotAddr page) c
  | none => List.replicate 32 0

/-- The check bytes that the check part of a LIVE corrected region holds at granule g: those of the 64-byte codewords of its data
part (R308). -/
def checkGranule (s : State) (r : Region) (g : Nat) : List Byte :=
  let o := (256 * g - r.base - dataBytes r) * 8
  (List.range 32).flatMap fun k =>
    let a := r.base + o + 64 * k
    Config.rsCheck (((storedGranule s (a / 256)).drop (a % 256)).take 64)

/-- A granule of the software part as it stands: of a corrected region's check part, its check symbols (R308). -/
def softwareGranule (s : State) (g : Nat) : List Byte :=
  match liveRegion s g with
  | some (_, r) => if r.cls = 1 && decide (r.base + dataBytes r ≤ 256 * g) then checkGranule s r g else storedGranule s g
  | none => storedGranule s g

/-- Byte `o` of the protection store of a stack, below its own check symbols: the MAC table, the metadata table and the spare pages,
each with what stands in the page that it replaces; none where nothing is said (R300, R318). -/
def protectionByte (s : State) (st o : Nat) : Option Byte :=
  if o < 0x870000000 then none
  else if o < 0x8B3800000 then some ((granuleMac s (st * 2 ^ 28 + (o - 0x870000000) / 8)).getD (o % 8) 0)
  else if o < 0x8C4600000 then some ((storedSlot s (st * 2 ^ 24 + (o - 0x8B3800000) / 32)).getD (o % 32) 0)
  else if o < 0x8C5600000 then
    ((repairOf s st).spared.find? fun e => e.2 = (o - 0x8C4600000) / 4096).map fun e =>
      (softwareGranule s (16 * e.1 + o % 4096 / 256)).getD (o % 256) 0
  else none

/-- Byte `o` of the window of a stack: the software part, the protection store and its check symbols; none in a page that has moved to
a spare one, in what R300 reserves and where nothing is populated. -/
def windowByteAt (s : State) (st o : Nat) : Option Byte :=
  let g := st * 2 ^ 28 + o / 256
  if o < 0x870000000 then
    if granulePlace s g = g then some ((softwareGranule s g).getD (o % 256) 0) else none
  else if o < 0x8F0000000 then protectionByte s st o
  else if o < 0x900000000 then
    let a := 0x870000000 + (o - 0x8F0000000) / 8 * 64
    let d := (List.range 64).map fun i => protectionByte s st (a + i)
    if d.all (·.isSome) then some ((Config.rsCheck (d.map fun x => x.getD 0)).getD (o % 8) 0) else none
  else none

end Sys2Proof.Machine
end

