-- ==== Sys2Proof/Tests/Slice0.lean ====
section
/-!
SUPPORT. Tests: the well-formedness check, small steps with results worked out from the spec, and for every statement that has
hypotheses a state and operands that meet them.
-/

namespace Sys2Proof.Tests

set_option maxRecDepth 10000
set_option Elab.async false

open Sys2Proof Sys2Proof.Machine

/-! ### States for the witnesses -/

/-- An instruction word from its opcode and fields, each with its lowest bit. -/
def word (op : Nat) (fs : List (Nat × Nat)) : W128 := BitVec.ofNat 128 (op + (fs.map fun f => f.2 * 2 ^ f.1).sum)

/-- A word of format E3: handles of A, B and D, all offsets 0. -/
def e3 (op a b d : Nat) (fs : List (Nat × Nat)) : W128 := word op ([(50, a), (76, b), (102, d)] ++ fs)

/-- A word of format E2 or C: handles of slots 0 and 2. -/
def e2 (op a d : Nat) (fs : List (Nat × Nat)) : W128 := word op ([(50, a), (102, d)] ++ fs)

/-- Handles: 0 and 1 raw words in the Loft, 2 in HBM, 3 in the Granary; 4 and 5 raw words under a prime, 6 one limb, 7 clear INT32. -/
def testImage : Image where
  roleMap := [0, 0]
  roles := [(0, {})]
  entries := [(0, 0, [0, 0xFFFFFFFF, 0xFFFFFFFF, 0xFFFFFFFF])]
  chains := [{ id := 0, logN := 12, qcount := 1, primes := [40961], roots := [243] }]
  handles := [{ handle := 0, kind := 4, role := 0, pitch := 1, lines := 4 }, { handle := 1, kind := 4, role := 0, pitch := 1, lines := 4, base := 4 },
    { handle := 2, kind := 4, place := 2, pitch := 1, lines := 64, base := 0x1000000 },
    { handle := 3, kind := 4, place := 3, pitch := 1, lines := 4 },
    { handle := 4, kind := 4, role := 0, chain := 0, slots := 4, slotMap := [0, 0, 0, 0], pitch := 1, lines := 4, base := 8 },
    { handle := 5, kind := 4, role := 0, chain := 0, slots := 4, slotMap := [0, 0, 0, 0], pitch := 1, lines := 4, base := 12 },
    { handle := 6, kind := 4, role := 0, chain := 0, slots := 1, slotMap := [0], pitch := 256, lines := 256, base := 256, layout := 1 },
    { handle := 7, kind := 3, etype := 1, role := 0, pitch := 1, lines := 4, base := 16 },
    { handle := 8, kind := 4, flags := 1, place := 2, pitch := 1, lines := 1, base := 0x1010000 },
    { handle := 9, kind := 4, place := 3, pitch := 1, lines := 4, base := 2048 },
    { handle := 10, kind := 4, place := 2, chain := 0, slots := 1, slotMap := [0], pitch := 1, lines := 4, base := 0x1008000 }]
  mcast := [{ index := 3, members := [0, 1] }]
  windows := [{ kind := 0, size := 2048, backing := 0x1000000 }, { kind := 1, offset := 2048, size := 2048, backing := 0x1001000, senders := 1 }]

/-- The live context of a stall whose Team 0 is READY. -/
def oneTeam : StallCtx := { t0 := { st := .ready } }

/-- A stall with one word of code for context 0 and every handle cached. -/
def testStall (w : W128) (x : StallCtx) : Stall where
  live := x
  code := if w = 0 then [] else [(0, w)]
  ranges := [(0, (0, 1))]
  hcache := (List.range 9).map fun h => (h, some { valid := true })
  setTab := [(3, (true, some (0, 1)))]

/-- Context 0 runs on positions 0 and 1; Team 0 of position 0 is at an instruction. -/
def progWith (w : W128) (x : StallCtx) : State where
  csr := [(0x0100020, 0x5F)]
  positions := [(0, { st := .enabled, lid := 0 }), (1, { st := .enabled, lid := 1 })]
  stalls := [(0, testStall w x), (1, testStall 0 {})]
  ctxs := [(0, { st := .resident, job := 7, image := some testImage, cur := some { teams := true, first := some 0 } })]
  recs := [(0, { opened := some 5 })]
  ym := { running := some 0 }
  rst := { phase := .running, level := 2 }
  ledger := 1000
  hbm := { regions := [(0, { st := .live, owner := 0, base := 0x1000000, limit := 0x101FFFF })] }

/-- `progWith` for a Team that is READY. -/
def prog (w : W128) : State := progWith w oneTeam

/-- As `Issues`, decided. -/
def issuesB (s : State) (p : Nat) (t : Fin 4) (op : Nat) : Bool :=
  decide (opcodeOf (headOfTeam s p t) = op) && !anotherFirst s p t && decide (verdict s p t = .go)

theorem issues_of_issuesB {s : State} {p : Nat} {t : Fin 4} {op : Nat} (h : issuesB s p t op = true) : Issues s p t op := by
  simp only [issuesB, Bool.and_eq_true, decide_eq_true_eq, Bool.not_eq_true'] at h
  exact ⟨h.1.1, h.1.2, h.2⟩

/-- Stall 0 of `prog` has no instruction in flight, and nothing is replayed. -/
theorem idle_prog (w : W128) (g : Engine) : engineIdle (prog w) 0 g := ⟨fun e h => absurd h List.not_mem_nil, by simp [holding, prog, progWith]⟩

/-- Every word of a list issues in `prog`. -/
theorem issues_all {l : List (Nat × W128)} (h : (l.all fun x => issuesB (prog x.2) 0 0 x.1) = true) : ∀ x ∈ l, Issues (prog x.2) 0 0 x.1 :=
  fun x hx => issues_of_issuesB (List.all_eq_true.mp h x hx)

/-! ### Witnesses: the hypotheses of each statement are met -/

theorem wit_StepRunsFrontCommand : ({ pending := [.clear, .nop 0] } : State).pending = .clear :: [.nop 0] := rfl

theorem wit_EmptyQueueTicks : State.reset.pending = [] ∧ csrBit State.reset 0x0100020 0 = false ∧ (prog 0).pending = [] ∧
    csrBit (prog 0) 0x0100020 0 = true ∧ (prog 0).disc.slew = 0 := by decide +kernel

/-- Position 2 is RETIRED, position 3 DISABLED. -/
def roster : State := { positions := [(0, { st := .enabled, lid := 0 }), (2, { st := .retired }), (3, { st := .disabled })] }

theorem roster_enabled {p : Nat} (h : (position roster p).st = .enabled) : p = 0 := by
  by_contra hp
  simp only [position, roster, nget, Ne.symm hp, if_false] at h
  split at h
  · cases h
  · split at h <;> cases h

theorem rosterInv_roster : RosterInv roster := by
  refine ⟨by decide, ?_, fun p q hp hq _ => by rw [roster_enabled hp, roster_enabled hq]⟩
  intro p h
  simp only [position, roster, nget] at h ⊢
  split
  · next e => simp [e] at h
  · split
    · rfl
    · split <;> rfl

theorem wit_StepKeepsLogicalIds : RosterInv roster ∧ step roster = .next (tick roster) := ⟨rosterInv_roster, rfl⟩

theorem wit_NothingReturnsToService : RosterInv roster ∧ (∀ f g m, Instr.clear ≠ .boot f g m) ∧ exec .clear roster = .next roster ∧
    (position roster 2).st = .retired ∧ (position roster 3).st = .disabled ∧ (position roster 1).st = .notLoaded :=
  ⟨rosterInv_roster, fun _ _ _ => nofun, rfl, rfl, rfl, rfl⟩

/-- Words of the flag, counter, comparator and time instructions, at the ends of their operand ranges. -/
def scalarWords : List (Nat × W128) :=
  [(0xB0, word 0xB0 [(8, 255)]), (0xB1, word 0xB1 []), (0xB2, word 0xB2 [(8, 7), (32, 0xFFFFFFFF)]), (0xB3, word 0xB3 [(32, 1)]),
   (0xD0, word 0xD0 [(8, 15), (16, 0xFFFFFFFF)]), (0xD1, word 0xD1 [(16, 0xFFFFFFFF)]), (0xD2, word 0xD2 [(8, 15), (16, 7)]),
   (0xE2, word 0xE2 [(8, 15), (16, 63)]), (0xD4, word 0xD4 [(8, 7), (11, 15), (16, 5), (24, 255), (32, 0xFFFFFFFF)]), (0xD5, word 0xD5 [(8, 7)])]

theorem wit_ScalarInstructionsWriteRegisters : ∀ x ∈ scalarWords, Issues (prog x.2) 0 0 x.1 := issues_all (by decide +kernel)

/-- Comparator 7 is armed and due. -/
def dueState : State := progWith 0 { oneTeam with cmps := [(7, { armed := true, due := true, flag := 255 })] }

theorem wit_ComparatorsArmDisarmAndFire : Issues (prog (word 0xD4 [(8, 7), (16, 5)])) 0 0 0xD4 ∧ Issues (prog (word 0xD5 [(8, 7)])) 0 0 0xD5 ∧
    (cmpOf (stall dueState 0).live 7).armed = true ∧ (cmpOf (stall dueState 0).live 7).due = true :=
  ⟨issues_of_issuesB (by decide +kernel), issues_of_issuesB (by decide +kernel), by decide, by decide⟩

/-- Words of the Team registers, TEAM.YIELD and HALT, with MODE at each end of its range. -/
def teamWords : List (Nat × W128) :=
  [(0xE1, word 0xE1 [(16, 2 ^ 64 - 1)]), (0xE1, word 0xE1 [(8, 1), (16, 1)]), (0xE1, word 0xE1 [(8, 2)]),
   (0xF0, word 0xF0 [(8, 3), (16, 2 ^ 24 - 1), (40, 2 ^ 32 - 1), (72, 1)]),
   (0xF1, word 0xF1 [(8, 3), (16, 1)]), (0xF1, word 0xF1 [(10, 1)]), (0xF1, word 0xF1 [(10, 2), (16, 2 ^ 32 - 1)]),
   (0xF9, word 0xF9 [(32, 65535)]), (0xF8, word 0xF8 []), (0xFE, word 0xFE [])]

/-- A Team at the end of control loops 0 and 1. -/
def loopTeam (rem : BitVec 24) : Team :=
  { pc := 9, l0 := { active := true, last := 9, back := 2, rem := rem }, l1 := { active := true, last := 9, back := 1 } }

theorem wit_TeamControlChangesOwnTeam : (∀ x ∈ teamWords, Issues (prog x.2) 0 0 x.1) ∧
    (∀ l, l < 4 → ¬((getLoop {} l).active = true ∧ (getLoop {} l).last = ({} : Team).pc)) ∧
    ((getLoop (loopTeam 1) 0).active = true ∧ (getLoop (loopTeam 1) 0).last = (loopTeam 1).pc ∧ (getLoop (loopTeam 1) 0).rem ≠ 0 ∧
      (getLoop (loopTeam 0) 0).rem = 0) :=
  ⟨issues_all (by decide +kernel), by decide, by decide⟩

/-- Words of the branches and of LOOP.DO: to the first and last instruction, with a trip count of 0 and of 1. -/
def branchWords : List (Nat × W128) :=
  [(0xE8, word 0xE8 [(16, 2 ^ 24 - 1)]), (0xE9, word 0xE9 [(12, 5), (40, 1)]), (0xEA, word 0xEA [(40, 1)]), (0xEA, word 0xEA []),
   (0xF2, word 0xF2 []), (0xF2, word 0xF2 [(10, 1), (11, 15)])]

theorem wit_BranchesAndLoopsGoOn : (∀ x ∈ branchWords, Issues (prog x.2) 0 0 x.1) ∧
    Issues (progWith (word 0xF2 []) { t0 := { st := .ready, l0 := { count := 1 } } }) 0 0 0xF2 :=
  ⟨issues_all (by decide +kernel), issues_of_issuesB (by decide +kernel)⟩

/-- A Team in control loop 0, whose body of instructions 5 to 9 does not hold the target 0. -/
def outerTeam : StallCtx := { t0 := { st := .ready, l0 := { active := true, last := 9, back := 5, iter := 3 } } }

theorem wit_BranchesEndLoops : (∀ op ∈ [0xE8, 0xE9, 0xEA, 0xF2, 0xFE], Issues (progWith (word op []) outerTeam) 0 0 op) ∧
    relHolds 0 (cntOf outerTeam 0) 0 = true ∧ outerTeam.flags.getLsbD 0 = false ∧ (getLoop outerTeam.t0 0).count = 0 :=
  ⟨fun op h => by
    simp only [List.mem_cons, List.not_mem_nil, or_false] at h
    rcases h with rfl | rfl | rfl | rfl | rfl <;> exact issues_of_issuesB (by decide +kernel), by decide, by decide, rfl⟩

theorem wit_RelationsHoldAsStated : opcodeOf (word 0xD4 [(16, 6)]) = 0xD4 ∧ wf_ (word 0xD4 [(16, 6)]) 18 16 = 6 ∧
    opcodeOf (word 0xE9 [(12, 7)]) = 0xE9 ∧ wf_ (word 0xE9 [(12, 7)]) 14 12 = 7 := by decide +kernel

/-- Stall barrier 63 of scope 2, as a Team left it. -/
def openBar (opener : Option (Fin 4)) : StallCtx := { oneTeam with bars := [(191, { opener := opener, rphase := true, lsense := true })] }

/-- Team 0 is fenced at a Ledger time that has come. -/
def fenced : State := progWith 0 { t0 := { st := .fenced, fence := 1000 } }

theorem wit_BarriersAndFencesHoldTeams :
    Issues (prog (word 0xC0 [(8, 2), (10, 63)])) 0 0 0xC0 ∧ Issues (prog (word 0xC1 [(8, 2)])) 0 0 0xC1 ∧
    Issues (progWith (word 0xC0 [(8, 2), (10, 63)]) (openBar (some 0))) 0 0 0xC0 ∧
    Issues (progWith (word 0xC0 [(8, 2), (10, 63)]) (openBar (some 1))) 0 0 0xC0 ∧
    (barOf (openBar (some 1)) 191).opener = some 1 ∧
    Issues (prog (word 0xE0 [(16, 1001)])) 0 0 0xE0 ∧ Issues (prog (word 0xE0 [(16, 1000)])) 0 0 0xE0 ∧
    replaying (prog (word 0xE0 [(16, 1001)])) 0 = false ∧ teamRuns fenced 0 = true ∧ csrBit fenced 0x0100020 0 = true ∧
    (getTeam (stall fenced 0).live 0).st = .fenced ∧ replaying fenced (runningNo fenced) = false ∧
    (getTeam (stall fenced 0).live 0).fence.toNat ≤ fenced.ledger.toNat :=
  ⟨issues_of_issuesB (by decide +kernel), issues_of_issuesB (by decide +kernel), issues_of_issuesB (by decide +kernel),
   issues_of_issuesB (by decide +kernel), by decide +kernel, issues_of_issuesB (by decide +kernel), issues_of_issuesB (by decide +kernel), by decide +kernel, by decide +kernel,
   by decide +kernel, by decide +kernel, by decide +kernel, by decide +kernel⟩

/-- `prog` with handle 0xFFD not cached. -/
def uncached : State := prog (word 0xC9 [(8, 9)])

theorem wit_HandleInstructionsSetAndFetch :
    Issues (prog (word 0xC8 [(8, 4), (20, 63), (26, 15), (32, 2 ^ 20 - 1)])) 0 0 0xC8 ∧
    (cached (prog (word 0xC8 [(8, 4), (20, 63), (26, 15), (32, 2 ^ 20 - 1)])) 0 4).isSome = true ∧
    (recOf (prog 0) (runningNo (prog 0))).opened = some 5 ∧ Issues (prog (word 0xC9 [(8, 4)])) 0 0 0xC9 ∧
    Issues uncached 0 0 0xC9 ∧ cached uncached 0 9 = none :=
  ⟨issues_of_issuesB (by decide +kernel), by decide, by decide, issues_of_issuesB (by decide +kernel), issues_of_issuesB (by decide +kernel), by decide⟩

/-- Team 0 waits on flag 0 for 1 since 0 ns, longer than its timeout of 1 us. -/
def waiting : State := progWith (e3 0x43 4 4 5 [(15, 1), (16, 1)]) { t0 := { st := .blocked, cause := 1, timeout := 1 } }

/-- Team 0 waits on stall barrier 63 since 0 ns. -/
def waitingBar : State :=
  progWith (word 0xC1 [(8, 2), (10, 63)]) { t0 := { st := .blocked, cause := 6, timeout := 1 }, bars := [(191, { opener := some 0, lsense := true })] }

theorem wit_TeamsBlockAndHalt :
    (opInfo (opcodeOf (headOfTeam (prog 0) 0 0)) = none ∧ anotherFirst (prog 0) 0 0 = false ∧ verdict (prog 0) 0 0 = .fault 0x0103 0xFFF ∧
      csrBit (prog 0) (stallCsr 0 0xC0) 63 = false) ∧
    (opcodeOf (headOfTeam waiting 0 0) = 0x43 ∧ anotherFirst waiting 0 0 = false ∧ verdict waiting 0 0 = .block 1) ∧
    ∀ x ∈ [(waiting, 1), (waitingBar, 6)], (getTeam (stall x.1 0).live 0).st = .blocked ∧ (getTeam (stall x.1 0).live 0).cause.toNat = x.2 ∧
      verdictOn x.1 0 0 = .block x.2 ∧ (getTeam (stall x.1 0).live 0).timeout ≠ 0 ∧
      (getTeam (stall x.1 0).live 0).waitFrom.toNat + 1000 * (getTeam (stall x.1 0).live 0).timeout.toNat ≤ x.1.ledger.toNat := by
  decide +kernel

/-- A word of each engine instruction. -/
def engineWords : List (Nat × W128) :=
  [(0x10, e2 0x10 0xFFF 0xFFF [(76, 2)]), (0x11, e3 0x11 4 4 5 []), (0x12, e3 0x12 4 4 5 []), (0x13, e2 0x13 0xFFF 5 []),
   (0x30, e2 0x30 6 6 []), (0x31, e2 0x31 6 6 []), (0x32, e2 0x32 6 6 [(76, 5)]), (0x33, e2 0x33 6 6 [(76, 1)]), (0x34, e2 0x34 6 6 [(76, 1)]),
   (0x70, e2 0x70 2 0 []), (0x70, e2 0x70 3 0 []), (0x71, e2 0x71 2 0 []), (0x71, e2 0x71 3 0 []), (0x72, e2 0x72 0 1 [(76, 1)]),
   (0x73, e3 0x73 0 1 0 []), (0x74, e3 0x74 0 1 0 []), (0x75, e3 0x75 4 1 5 []), (0x76, e2 0x76 0xFFF 0 []), (0x77, e2 0x77 3 0 [(88, 5)]),
   (0x90, e2 0x90 0 1 [(76, 1)]), (0x91, e2 0x91 0 1 [(76, 3)]), (0x92, e2 0x92 0xFFF 0xFFF [(76, 1), (86, 255), (94, 1)]),
   (0x93, e2 0x93 0xFFF 0xFFF [(76, 1), (86, 15), (90, 0xFFF)]), (0x94, e2 0x94 0xFFF 0xFFF [(76, 1)]), (0x95, e2 0x95 0xFFF 0xFFF [(76, 1)]),
   (0xA0, e3 0xA0 0 1 0xFFF []), (0xA1, e3 0xA1 0 1 0xFFF [])]

/-- A word of each elementwise instruction. -/
def lineWords : List (Nat × W128) :=
  [(0x40, e3 0x40 4 4 5 []), (0x41, e3 0x41 4 4 5 []), (0x42, e2 0x42 4 5 []), (0x43, e3 0x43 4 4 5 []), (0x44, e3 0x44 4 4 5 []),
   (0x45, e3 0x45 4 5 5 []), (0x46, e3 0x46 4 5 5 []), (0x47, e2 0x47 4 5 []), (0x48, e2 0x48 0 1 [(76, 15)]), (0x49, e3 0x49 4 5 5 []),
   (0x4A, e2 0x4A 4 5 []), (0x50, e3 0x50 0 1 0 []), (0x51, e3 0x51 0 1 0 []), (0x52, e3 0x52 0 1 0 []), (0x53, e3 0x53 0 1 0 []),
   (0x54, e3 0x54 0 1 0 [])]

theorem wit_EngineInstructionsTakeEntries : ∀ x ∈ engineWords ++ lineWords ++ [(0x58, e2 0x58 7 7 []), (0x59, e2 0x59 7 7 [])], Issues (prog x.2) 0 0 x.1 :=
  issues_all (by decide +kernel)

/-- An Element Engine instruction waits for two tiles. -/
def tileWaiter : State :=
  let s := prog (e2 0x13 0xFFF 0xFFE [])
  { s with stalls := [(0, { testStall (e2 0x13 0xFFF 0xFFE []) oneTeam with
      entries := [(0, some { engine := .ee, word := e2 0x47 0xFFE 0 [(8, 1)], loops := [{ count := 32 }] })] })] }

theorem wit_MatrixArrayAccumulatesAndDrains :
    (∀ x ∈ engineWords.take 4, Issues (prog x.2) 0 0 x.1 ∧ headIts (prog x.2) 0 0 ≠ [] ∧ engineIdle (prog x.2) 0 .ma) ∧
    (∀ x ∈ [(0x11, e3 0x11 4 4 5 [(8, 1)]), (0x12, e3 0x12 4 4 5 [(8, 1)])], Issues (prog x.2) 0 0 x.1 ∧ headIts (prog x.2) 0 0 = []) ∧
    (Issues tileWaiter 0 0 0x13 ∧ hD (headOfTeam tileWaiter 0 0) = hTileq ∧ engineIdle tileWaiter 0 .ma) ∧
    hD (e2 0x13 0xFFF 5 []) ≠ hTileq ∧ Issues (prog (e2 0x13 0xFFF 6 [])) 0 0 0x13 ∧
    ((drainTile .tall {} (bitsOf (modE2 (e2 0x13 0xFFF 6 [])) 2 0) 0 (hdl (prog 0) 6).pitch 0).map (·.1)).Nodup := by
  refine ⟨fun x hx => ⟨wit_EngineInstructionsTakeEntries x ?_, ?_, idle_prog _ _⟩, fun x hx => ?_,
    ⟨issues_of_issuesB (by decide +kernel), by decide, by decide, by simp [holding, tileWaiter, prog, progWith]⟩, by decide,
    issues_of_issuesB (by decide +kernel), by decide +kernel⟩
  · exact List.mem_append_left _ (List.mem_append_left _ (List.mem_of_mem_take hx))
  · revert x
    decide +kernel
  · refine ⟨issues_all (l := [(0x11, e3 0x11 4 4 5 [(8, 1)]), (0x12, e3 0x12 4 4 5 [(8, 1)])]) (by decide +kernel) x hx, ?_⟩
    revert x
    decide +kernel

theorem wit_TransformEngineWritesTransform : ∀ x ∈ (engineWords.drop 4).take 5, Issues (prog x.2) 0 0 x.1 ∧ headIts (prog x.2) 0 0 = [[]] ∧
    engineIdle (prog x.2) 0 .te ∧ (limbArg (prog x.2) 0 x.2 0).q ≠ 0 ∧ (hdl (prog x.2) 6).pitch = 256 ∧
    ∀ i, i < 256 → inPiece (pieceAt (prog x.2) 0 6) (0 + Int.ofNat i) = true := by
  intro x hx
  refine ⟨wit_EngineInstructionsTakeEntries x ?_, ?_, idle_prog _ _, ?_⟩
  · exact List.mem_append_left _ (List.mem_append_left _ (List.mem_of_mem_drop (List.mem_of_mem_take hx)))
  · revert x
    decide +kernel
  · revert x
    decide +kernel

theorem wit_ElementEngineWritesResults :
    (∀ x ∈ lineWords, Issues (prog x.2) 0 0 x.1 ∧ engineIdle (prog x.2) 0 .ee ∧ headIts (prog x.2) 0 0 = [[]] ∧ hA x.2 ≠ hTileq ∧ hB x.2 ≠ hTileq ∧
      inPiece (pieceAt (prog x.2) 0 (hD x.2)) (addrD (headEntry (prog x.2) 0 0) []) = true ∧
      (eeLine testImage x.2 (cselOf (prog x.2) x.2) (hdl (prog x.2) (hD x.2))
        (lineIndex testImage (hdl (prog x.2) (hD x.2)) (pieceAt (prog x.2) 0 (hD x.2)) 0)
        (linePlace testImage (hdl (prog x.2) (hB x.2)) (pieceAt (prog x.2) 0 (hB x.2)) 0) (lineInputs (prog x.2) 0 0 [])).isSome = true) ∧
    ∀ x ∈ [(0x58, e2 0x58 7 7 []), (0x59, e2 0x59 7 7 [])], Issues (prog x.2) 0 0 x.1 ∧ engineIdle (prog x.2) 0 .ee ∧ headIts (prog x.2) 0 0 = [[]] ∧
      hA x.2 ≠ hTileq ∧ inPiece (pieceAt (prog x.2) 0 (hD x.2)) (addrD (headEntry (prog x.2) 0 0) []) = true := by
  constructor <;> intro x hx
  · refine ⟨wit_EngineInstructionsTakeEntries x (List.mem_append_left _ (List.mem_append_right _ hx)), idle_prog _ _, ?_⟩
    revert x
    decide +kernel
  · refine ⟨wit_EngineInstructionsTakeEntries x (List.mem_append_right _ hx), idle_prog _ _, ?_⟩
    revert x
    decide +kernel
/-- The index line of handle 1: word 0 names element 3, every other word none. -/
def indexed (w : W128) : State :=
  { prog w with loft := [(4, { words := 3 :: List.replicate 15 0xFFFFFFFF, valid := true, par := parityOf (3 :: List.replicate 15 0xFFFFFFFF) })] }

theorem wit_CarterMovesLines : (∀ x ∈ (engineWords.drop 9).take 10, Issues (prog x.2) 0 0 x.1 ∧ freeEntry (stall (prog x.2) 0) = some 0 ∧
      headIts (prog x.2) 0 0 = [[]] ∧ engineIdle (prog x.2) 0 .ct) ∧
    (isPeerSlot testImage 0 = false ∧ posOfLid (prog 0) 1 = some 1 ∧ (hdl (prog 0) 2).place = 2 ∧ (hdl (prog 0) 3).place ≠ 2) ∧
    (Issues (indexed (e3 0x74 0 1 0 [])) 0 0 0x74 ∧ Issues (indexed (e3 0x75 4 1 5 [])) 0 0 0x75) ∧
    (let idx := lineOf (indexed (e3 0x75 4 1 5 [])) 0 1 0
     indexOf idx 0 = 3 ∧ inPiece (pieceAt (indexed (e3 0x75 4 1 5 [])) 0 5) (3 / 16) = true ∧ (∀ j, j < 16 → j ≠ 0 → indexOf idx j < 0)) ∧
    linePrime testImage (hdl (prog 0) 5) (pieceAt (prog 0) 0 5) 0 = 40961 := by
  refine ⟨fun x hx => ⟨wit_EngineInstructionsTakeEntries x ?_, ?_, ?_, idle_prog _ _⟩, by decide +kernel,
    ⟨issues_of_issuesB (by decide +kernel), issues_of_issuesB (by decide +kernel)⟩, by decide +kernel, by decide +kernel⟩
  · exact List.mem_append_left _ (List.mem_append_left _ (List.mem_of_mem_drop (List.mem_of_mem_take hx)))
  · revert x
    decide +kernel
  · revert x
    decide +kernel

/-- Handle 1's first line, a descriptor for stall 1's logical ID. -/
def described (w : W128) : State :=
  { prog w with loft := [(4, { words := List.replicate 16 1, valid := true, par := parityOf (List.replicate 16 1) })] }

theorem wit_SendsAndRequestsEnterYard : (∀ x ∈ engineWords.drop 19, Issues (prog x.2) 0 0 x.1 ∧ freeEntry (stall (prog x.2) 0) = some 0) ∧
    (destLid (e2 0x90 0 1 [(76, 1)]) = 1 ∧ posOfLid (prog 0) 1 = some 1 ∧ setPositions (prog 0) 3 = [0, 1]) ∧
    (Issues (prog (e2 0x92 0xFFF 0xFFF [(76, 2)])) 0 0 0x92 ∧ posOfLid (prog 0) (destLid (e2 0x92 0xFFF 0xFFF [(76, 2)])) = none) ∧
    ∀ x ∈ [(0xA0, e3 0xA0 0 1 0xFFF []), (0xA1, e3 0xA1 0 1 0xFFF [])], Issues (described x.2) 0 0 x.1 ∧ freeEntry (stall (described x.2) 0) = some 0 ∧
      headIts (described x.2) 0 0 = [[]] ∧ lineOf (described x.2) 0 (hB x.2) (addrB (headEntry (described x.2) 0 0) []) = List.replicate 16 1 := by
  refine ⟨fun x hx => ⟨wit_EngineInstructionsTakeEntries x ?_, ?_⟩, by decide +kernel, ⟨issues_of_issuesB (by decide +kernel), by decide +kernel⟩,
    fun x hx => ⟨issues_of_issuesB ?_, ?_⟩⟩
  · exact List.mem_append_left _ (List.mem_append_left _ (List.mem_of_mem_drop hx))
  all_goals revert x; decide +kernel

/-- Stall 0 with one in-flight entry, number 15, and messages on their way. -/
def flight (e : Entry) (ms : List Msg) : State :=
  let s := prog 0
  { s with stalls := [(0, { testStall 0 oneTeam with entries := [(15, some e)] }), (1, testStall 0 {})], yard := ms, msgSeq := 100 }

theorem wit_CompletionFreesEntries :
    (let e : Entry := { engine := .ee, word := e3 0x43 4 4 5 [(14, 1), (35, 1)], started := true, outRec := some 1 }
     entryOf (stall (flight e []) 0) 15 = some e ∧ canFinish (flight e []) 0 e = true ∧ e.outRec = some 1 ∧ e.prov = false ∧
     (cached (flight e []) 0 (actionOps e.word).2.2).isSome = true ∧ isChecked (flight e []) 0 e = true ∧ opcodeOf e.word ≠ 0x13) ∧
    (let e : Entry := { engine := .ct, word := e2 0x76 0xFFF 0 [], started := true, poison := true }
     canFinish (flight e []) 0 e = true ∧ destHandle e.word ≠ hNone ∧ destHandle e.word ≠ hTileq ∧ opcodeOf e.word ≠ 0x11 ∧ opcodeOf e.word ≠ 0x12 ∧
     isChecked (flight e []) 0 e = false) ∧
    (∀ b : Bool, let e : Entry := { engine := .ma, word := e2 0x13 0xFFF 5 [], started := b }
     let s := flight e []
     let t : State := { s with stalls := s.stalls.map fun x => (x.1, { x.2 with ma := { b0 := { mode := .mod }, b1 := { mode := .mod } } }) }
     entryOf (stall t 0) 15 = some e ∧ canFinish t 0 e = true ∧ isChecked t 0 e = true) ∧
    (let e : Entry := { engine := .te, word := e2 0x30 6 6 [], started := true, arb := true }
     entryOf (stall (flight e []) 0) 15 = some e ∧ e.arb = true ∧ e.ctx < 64 ∧
     (List.replicate 16 1 : Line) ≠ zeroLine ∧ lineNat zeroLine % 8191 = 0 ∧ lineNat (List.replicate 16 1) % 8191 ≠ 8190) := by decide +kernel

/-- A message for stall 0 from stall 1. -/
def toStall (b : Body) : Msg := ⟨7, .stall 1, .stall 0, .req, 0, b⟩
/-- It is on its way. -/
def msgState (b : Body) : State := flight {} [toStall b]

/-- As `ArrivesAt`, decided. -/
def arrivesB (s : State) (x : Msg) (q : Nat) : Bool := decide (arriving s x.id = some x) && decide (x.dst = .stall q) && awake s q

theorem arrives_of_arrivesB {s : State} {x : Msg} {q : Nat} (h : arrivesB s x q = true) : ArrivesAt s x q := by
  simp only [arrivesB, Bool.and_eq_true, decide_eq_true_eq] at h
  exact ⟨h.1.1, h.1.2, h.2⟩

/-- Bodies of the messages that a stall takes: lines to the ends of a piece and outside it, flags, counters, completions. -/
def bodies : List Body :=
  [.line (.piece 0 3) zeroLine true none (some 1) { pos := 1 }, .line (.piece 0 4) zeroLine false (some 920) none {},
   .line (.loft 0 0) zeroLine false (some 921) none { team := 3 },
   .flag 255 true (some 1), .cadd 15 0xFFFFFFFF none, .done 0 0 (some 5) true, .copyReq 3 0 [-1, 0] 0, .handle 9, .poison 0, .drvBad 15 0,
   .arrive 3 0, .release 3 true]

theorem wit_ArrivalsTakeEffect : (∀ b ∈ bodies, ArrivesAt (msgState b) (toStall b) 0 ∧ (toStall b).ctx < 64) ∧
    (∀ b ∈ bodies, runsAt (msgState b) 0 (toStall b).ctx) ∧
    (holdOver (msgState (.poison 0)) none = true ∧ holdOver (msgState (.poison 0)) (some 920) = true ∧ holdOver (msgState (.poison 0)) (some 921) = false) ∧
    ((cached (msgState (.poison 0)) 0 0).isSome = true ∧ cached (msgState (.poison 0)) 0 9 = none ∧
      ((stall (msgState (.poison 0)) 0).hcache.filter fun e => e.2.isSome).length < 64) :=
  ⟨fun b hb => ⟨arrives_of_arrivesB (by revert b; decide +kernel), Nat.zero_lt_succ 63⟩, fun _ _ => ⟨rfl, rfl⟩, by decide +kernel, by decide +kernel⟩

/-- Entry 15 waits for message 3, and for 4 where `two`. -/
def waiter (w : W128) (two : Bool) (e : Entry) (b : Body) : State :=
  flight { e with word := w, started := true, waits := if two then [3, 4] else [3] } [toStall b]

theorem wit_CopiesAndReturnsLand :
    (let s := waiter (e2 0x72 0 1 [(76, 1)]) false { engine := .ct } (.copyRet 3 15 0 [(0, zeroLine)] false)
     arrivesB s (toStall (.copyRet 3 15 0 [(0, zeroLine)] false)) 0 = true ∧ ((waitingFor s 0 3).map fun x => x.1) = some 15 ∧
     (entryIts (entryAt s 0 15)).find? (fun js => addrD (entryAt s 0 15) js = 0) = some []) ∧
    (let s := waiter (e2 0x71 3 0 []) true { engine := .ct } (.ack 3 true false)
     arrivesB s (toStall (.ack 3 true false)) 0 = true ∧ ((waitingFor s 0 3).map fun x => x.1) = some 15 ∧ (entryAt s 0 15).dests = []) ∧
    (let s := waiter (e2 0x70 2 0 []) true { engine := .ct } (.hbmRet 3 15 0 [] true)
     arrivesB s (toStall (.hbmRet 3 15 0 [] true)) 0 = true ∧ (entryAt s 0 15).waits.filter (· ≠ 3) ≠ []) ∧
    (let s := waiter (e2 0x70 2 0 []) false { engine := .ct } (.hbmRet 3 15 65536 [] false)
     arrivesB s (toStall (.hbmRet 3 15 65536 [] false)) 0 = true ∧ (entryAt s 0 15).waits.filter (· ≠ 3) = [] ∧ entryIts (entryAt s 0 15) = [[]] ∧
     (decl (imageOf s 0) 2).place = 2) ∧
    (let s := waiter (e2 0x77 3 0 [(88, 5)]) false { engine := .ct, dests := [(3, 0)] } (.grnRet 3 15 0 zeroLine true)
     arrivesB s (toStall (.grnRet 3 15 0 zeroLine true)) 0 = true ∧ opcodeOf (entryAt s 0 15).word = 0x77 ∧
     (entryAt s 0 15).dests.find? (fun d => d.1 = 3) = some (3, 0)) := by decide +kernel

/-- A flit of JOB 7 with its header fields and two bytes of its payload. -/
def tokenFlit (b20 b21 : Nat) : List Byte := (List.range 256).map fun i => if i = 4 then 7 else if i = 20 then BitVec.ofNat 8 b20 else if i = 21 then BitVec.ofNat 8 b21 else 0

/-- The handle cache of stall 0 holds 64 pinned entries. -/
def pinnedState : State :=
  let s := msgState (.handle 99)
  { s with stalls := [(0, { testStall 0 oneTeam with hcache := (List.range 64).map fun h => (h, some { valid := true, pinned := true }) })] }

theorem wit_HandleMessagesUpdateCaches :
    (cached (msgState (.handle 9)) 0 9 = none ∧ cacheRoom (msgState (.handle 9)) 0 ∧ cached pinnedState 0 99 = none ∧ ¬cacheRoom pinnedState 0 ∧
      (cached (msgState (.handle 8)) 0 8).isSome = true ∧ entryOf (stall (msgState (.drvBad 15 0)) 0) 15 = some {}) ∧
    (let e : Entry := { engine := .drv, started := true, waits := [3] }
     let x : Msg := ⟨7, .drover 0, .stall 0, .bridleway, 0, .drvDone 3⟩
     let s := flight e [x]
     entryOf (stall s 0) 15 = some e ∧ e.engine = .drv ∧ e.asks = [] ∧ awake s 0 = true ∧ waitingFor s 0 3 = some (15, e) ∧ ArrivesAt s x 0 ∧
     (∀ m ∈ s.yard, m = x) ∧ ({ engine := .drv } : Entry).waits = []) ∧
    (let x : Msg := ⟨7, .stall 0, .yardmaster, .bridleway, 0, .writeBack 0 1 5 true⟩
     let s := flight {} [x]
     let t : State := { s with ctxs := s.ctxs.map fun e => (e.1, { e.2 with wbacks := [(1, 1, 6, false)] }) }
     arriving s 7 = some x ∧ arriving t 7 = some x ∧ sysBar s 0 0 = none ∧ copiesOf s 0 1 = [] ∧ (copiesOf t 0 1).map (·.2.1) = [6] ∧
     copiesAgree [6] = true ∧ copiesAgree [6, 5] = false ∧ copiesAgree [5] = true ∧ posOfLid s 0 = some 0) := by
  refine ⟨⟨by decide +kernel, .inl (by decide +kernel), by decide +kernel, ?_, by decide +kernel, by decide +kernel⟩, ?_, by decide +kernel⟩
  · simp only [cacheRoom, not_or, not_exists]
    refine ⟨by decide +kernel, fun k v h => ?_⟩
    obtain ⟨h1, h2⟩ := h
    simp only [pinnedState, stall, nget, if_true, List.mem_map, List.mem_range, Prod.mk.injEq, Option.some.injEq] at h1
    obtain ⟨a, _, _, rfl⟩ := h1
    cases h2
  · exact ⟨by decide +kernel, rfl, rfl, by decide +kernel, by decide +kernel, arrives_of_arrivesB (by decide +kernel), by decide +kernel, rfl⟩

/-- A flit: 256 bytes, some of them set. -/
def flit (fs : List (Nat × List Byte)) : List Byte := fs.foldl (fun b f => putBytes b f.1 f.2) (List.replicate 256 0)

/-- The device has taken a flit, on port 0. -/
def gotFlit (b : List Byte) : State := { prog 0 with rhoa := { rx := [{ bytes := b }] } }

theorem wit_HandleMessagesUpdateCaches_tokens :
    (let b := flit [(4, [0xC]), (10, [9]), (16, [7]), (20, [0x10])]
     (rxEntry (gotFlit b) 0).isSome = true ∧ flitType b = 0xC ∧ ctxOfJob (gotFlit b) (flitJob b) = some 0 ∧
     flitField b 20 1 4 4 ≠ getSys (gotFlit b) 0 0 2 ∧ flitField b 20 1 5 5 = 0 ∧ sysBar (gotFlit b) 0 0 = none ∧ flitSrc b ∉ sysKidsOf (gotFlit b) 0 0) ∧
    (let b := flit [(4, [0xC]), (16, [7]), (20, [0x3F])]
     flitType b = 0xC ∧ ctxOfJob (gotFlit b) (flitJob b) = some 0 ∧ flitField b 20 1 5 5 = 1 ∧ flitField b 20 1 3 0 = 15 ∧
     flitField b 20 1 4 4 ≠ getSys (gotFlit b) 0 15 2 ∧ runningNo (gotFlit b) = 0) := by decide +kernel

/-- Barrier k of stall 0 waits to be posted, with an older and a newer remote write. -/
def posting (k : Nat) (un : List Nat) : State :=
  let s := prog 0
  { s with stalls := [(0, { testStall 0 { oneTeam with bars := [(k, { opener := some 0, bound := some 4, drive := true })] } with unacked := un }),
                      (1, testStall 0 { bars := [(k, { drive := true })] })] }

theorem wit_BarriersCountAndRelease :
    ((barOf (stall (posting 3 [4]) 0).live 3).bound = some 4 ∧ (∀ m ∈ (stall (posting 3 [4]) 0).unacked, 4 ≤ m) ∧
      (setMembers testImage 3).mergeSort (· ≤ ·) = [0, 1] ∧ posOfLid (posting 3 [4]) 0 = some 0) ∧
    (arrivesB (msgState (.arrive 3 1)) (toStall (.arrive 3 1)) 0 = true ∧ (setMembers testImage 3).length = 2 ∧
      (barOf (stall (msgState (.arrive 3 1)) 0).live 3).count = 0) ∧
    ((barOf (stall { msgState (.arrive 3 1) with stalls := [(0, testStall 0 { bars := [(3, { count := 1 })] })] } 0).live 3).count + 1 = 2) ∧
    (arrivesB (msgState (.release 3 true)) (toStall (.release 3 true)) 0 = true ∧ (testImage.mcast.find? fun y => y.index = 3).isSome = true) ∧
    (runningNo (posting 64 []) = 0 ∧ participants (posting 64 []) 0 = [0, 1] ∧
      (∀ p ∈ participants (posting 64 []) 0, (barOf (stall (posting 64 []) p).live 64).drive = true) ∧ (posting 64 []).ym.devPhase.getLsbD 0 = false ∧
      writeBacksOpen (posting 64 []) 0 = false ∧ (∀ e ∈ (posting 64 []).positions, e.2.await = none) ∧
      writeBacksOpen { posting 64 [] with yard := [⟨1, .stall 0, .yardmaster, .bridleway, 0, .writeBack 0 0 0 false⟩] } 0 = true ∧
      ∀ p ∈ participants (posting 67 []) 0, (barOf (stall (posting 67 []) p).live 67).drive = true) := by
  refine ⟨⟨by decide, by decide, ?_, by decide⟩, by decide +kernel, by decide, by decide +kernel, by decide +kernel⟩
  simp [setMembers, testImage, List.mergeSort, List.MergeSort.Internal.splitInTwo]

/-- Context 0 has closed epoch 4, with a trigger where `t`. -/
def closedRec (t : List Nat) : State := { prog 0 with recs := [(0, { count := 5, opened := some 5, closed := some 4, triggers := t, chks := [{ epoch := 4 }] })] }

theorem wit_EpochCommitsWhenClosed : (recOf (closedRec []) 0).closed = some 4 ∧ canCommit (closedRec []) 0 4 = true ∧ (recOf (closedRec []) 0).lastStep = false ∧
    (recOf (closedRec [0]) 0).triggers ≠ [] := by decide +kernel

/-- Team 3 of position 0 has halted. -/
def halted : State := progWith 0 { oneTeam with t3 := { st := .halted } }

theorem wit_AbortAndRollbackRestart :
    (runningNo halted = 0 ∧ anyHalted halted = true ∧ (ctx halted 0).aborting = false ∧ rollbackAllowed halted 0 = false) ∧
    (drainedNow (prog 0) 0 = true ∧ (ctx (prog 0) 0).aborting = false ∧
      drainedNow { prog 0 with ctxs := [(0, { aborting := true })] } 0 = true) ∧
    (rollbackTarget (recOf { prog 0 with recs := [(0, { triggers := [0] })] } 0) = none) ∧
    (rollbackTarget (recOf (closedRec [0]) 0) = some 5 ∧ rollbackTarget (recOf (closedRec [5]) 0) = some 4 ∧
      rollbackAllowed { closedRec [0] with csr := [(0x7600, 0)] } 0 = false ∧
      rollbackAllowed { closedRec [5] with ym := {} } 0 = true ∧ runningNo { closedRec [5] with ym := {} } ≠ 0 ∧
      (recOf (closedRec [5]) 0).flows = [] ∧ ((recOf (closedRec [5]) 0).chks.find? fun k => k.epoch = 4).isSome = true) := by decide +kernel

/-- No context runs; context 63 is ready. -/
def readyState : State := { prog 0 with ym := {}, ctxs := [(63, { st := .resident, prio := 3, cur := some { teams := true } })] }

/-- Both Teams are at a boundary; context 63 is of the same priority as context 0, and the quantum has passed. -/
def quantumOver : State :=
  { progWith 0 {} with ym := { running := some 0, expired := true }, ctxs := [(0, { st := .resident, image := some testImage, cur := some { teams := true } }), (63, { st := .resident, cur := some { teams := true } })] }

/-- Position 0 awaits retirement and runs nothing; a scan of position 2 is asked for. -/
def retiring : State :=
  { quantumOver with positions := [(0, { st := .enabled, lid := 0, await := some 0 }), (1, { st := .enabled, lid := 1 }), (2, { st := .outOfService })] }

theorem wit_ContextSwitchRunsChosen :
    (choicePoint readyState = true ∧ scanning readyState = none ∧ (∀ e ∈ readyState.positions, e.2.await = none) ∧
      nextContext (scanBoundary (retireAwaiting readyState)) = some 63 ∧ runningNo (scanBoundary (retireAwaiting readyState)) = 64) ∧
    (choicePoint quantumOver = true ∧ scanning quantumOver = none ∧ nextContext (scanBoundary (retireAwaiting quantumOver)) = some 63 ∧
      isReady quantumOver 63 = true ∧ isReady quantumOver 0 = true ∧ runningNo (scanBoundary (retireAwaiting quantumOver)) = 0) ∧
    (choicePoint (prog 0) = false ∧ choicePoint { prog 0 with ym := {}, ctxs := [] } = true ∧
      nextContext (scanBoundary (retireAwaiting { prog 0 with ym := {}, ctxs := [] })) = none) ∧
    (choicePoint retiring = true ∧ nwf ({} : Pos) retiring.positions = true ∧ (position retiring 0).await = some 0 ∧
      ∀ e ∈ (stall retiring 0).entries, e.2 = none) ∧
    (quantumOver.ym.running.isSome = true ∧ quantumOver.ym.since.toNat + 1000 * csrField { quantumOver with csr := [(0x6400, 0)] } 0x6400 19 0 <
      quantumOver.ledger.toNat ∧ readyState.ym.running = none) := by decide +kernel

/-- Position 0 with a state of its power controller and a Team. -/
def powerState (w : Pwr) (m : Team) (ms : List Msg) : State :=
  { prog 0 with stalls := [(0, { testStall 0 { t0 := m } with pwr := w, target := 1023 })], yard := ms }

/-- Line 10911 of position 0, valid, with a wrong parity bit where `bad`. -/
def sweeping (bad : Bool) : State :=
  { prog 0 with stalls := [(0, { testStall 0 {} with sweep := 10911 })], loft := [(10911, { valid := true, par := if bad then 1 else 0 })] }

theorem wit_StallsGateNapAndAge :
    (powered (powerState .run {} []) 0 = true ∧ (stall (powerState .run {} []) 0).pwr = .run ∧ liveEntries (stall (powerState .run {} []) 0) = [] ∧
      teamReady (powerState .run {} []) 0 = false ∧ (stall (powerState .run {} []) 0).target = 1023) ∧
    (let m : Team := { st := .fenced, fence := 21001 }
     atBoundary (powerState .gated m []) 0 = true ∧ ∀ f ∈ fenceTargets (powerState .gated m []) 0, 21000 < f) ∧
    teamReady (powerState .gated { st := .ready } []) 0 = true ∧
    ((stall (powerState .nap {} [toStall (.poison 0)]) 0).pwr = .nap ∧ (toStall (.poison 0)).dst = .stall 0) ∧
    (csrGet (prog 0) (stallCsr 0 0x400) = 0 ∧ vmaxOf (prog 0) 0 = 850 ∧ min (835 + 15) 1023 ≤ 850 ∧ 850 < min (836 + 15) 1023 ∧
      (position (prog 0) 0).st = .enabled ∧ powered { prog 0 with positions := [(5, { st := .spare })] } 5 = true ∧
      (position { prog 0 with positions := [(5, { st := .spare })] } 5).lid = 0x3FF) ∧
    (powered (sweeping false) 0 = true ∧ awake (sweeping false) 0 = true ∧ (loftLine (sweeping false) 0 10911).valid = true ∧
      parityFailures (loftLine (sweeping false) 0 10911).words (loftLine (sweeping false) 0 10911).par = 0 ∧
      parityFailures (loftLine (sweeping true) 0 10911).words (loftLine (sweeping true) 0 10911).par ≠ 0) := by decide +kernel

/-- Slot 15 of context 0 is cached. -/
def cachedSlot (l : GLine) : State := { prog 0 with grn := { lines := [(grnKey 0 15, some l)] } }

theorem wit_MemoryWindowsAnswerRequesters :
    (taggedBy (cachedSlot {}) (1991 / 128) = some 0 ∧ (backingOf (cachedSlot {}) 0 (1991 / 128)).isSome = true ∧
      (grnLine (cachedSlot {}) 0 (1991 / 128)).isSome = true ∧ 1991 % 128 < 72 ∧ taggedBy (prog 0) 0 = none ∧
      ((grnLine (cachedSlot { words := zeroLine }) 0 15).map fun l => l.words.length) = some 16) ∧
    (let s : State := { prog 0 with ctxs := [(0, { st := .resident, image := some { testImage with claims := { persistBase := 20, persistLen := 2 } } })] }
     runningNo s = 0 ∧ powered s 0 = true ∧ (imageOf s 0).claims.persistBase ≤ 21 ∧ 21 < (imageOf s 0).claims.persistBase + (imageOf s 0).claims.persistLen ∧
     descriptorLine s 0 0 21 = false ∧ 2010 ≤ 96 * 21 + 6 * 15 ∧ 96 * 21 + 6 * 15 + 6 ≤ 2010 + 102 ∧ (loftRead { s with loft := [(21, { valid := true })] } 0 21 0).isSome = true) ∧
    ((prog 0).gate.linkUp = false ∧ ({ prog 0 with gate := { linkUp := true, bridge := true } } : State).gate.linkUp = true) := by decide +kernel

/-- A request of stall 0 for a weight, and one for a key whose tag differs; for a gang where `g`. -/
def drvMsg (key : Bool) (words : Line) : Msg := ⟨7, .stall 0, .drover 0, .req, 0, .drv { key := key, words := words, tag := 1, a := 2, id := 7 }⟩

/-- The Drovers serve, with the wait for gangs as given. -/
def drvState (wait : W64) (m : Msg) : State :=
  let s := prog 0
  { s with yard := [m], csr := [(0x0100020, 0x5F), (0x0300008, wait)], hbm := { s.hbm with selfRef := false } }

theorem wit_DroverServesAndChecks :
    (let m := drvMsg false (0 :: 0 :: 0 :: 2 :: List.replicate 12 0)
     let e : DrvEntry := { key := false, words := 0 :: 0 :: 0 :: 2 :: List.replicate 12 0, tag := 1, a := 2, id := 7 }
     let s := drvState 0 m
     arriving s 7 = some m ∧ m.body = .drv e ∧ drvTakes s 0 e = true ∧ drvTagOk s e = true ∧ csrField s 0x0300008 19 0 = 0 ∧
     drvField e.words 10 24 16 < 2 ∧ drvKeys e = [0] ∧ drvRange testImage e = (0, 2) ∧
     (∀ k, k < 2 → ∀ g ∈ lineGranules (drvCopy testImage 0 2) (0 + k), (regionFor s 0 (g * 256)).isSome = true) ∧
     (∀ g ∈ lineGranules (drvCopy testImage 0 2) 0, regionFor { s with hbm := { selfRef := false } } 0 (g * 256) = none)) ∧
    (drvTagOk (prog 0) { key := true, words := zeroLine, tag := 1, a := 2 } = false ∧ drvTagOk (prog 0) { key := true, words := zeroLine, a := 2 } = true ∧
      drvField (0x1000 :: List.replicate 15 0) 0 13 12 = 1 ∧ drvField (0x2000 :: List.replicate 15 0) 0 13 12 = 2) ∧
    (let l : Line := List.replicate 10 0 ++ [0x20000, 0, 0, 0, 0, 0]
     let m := drvMsg false l
     let k := gangKey { key := false, words := l, tag := 1, a := 2, id := 7 }
     let s (n : Nat) : State := { drvState 100 m with drovers := [(0, { gangs := [(0, some { key := k, size := n, members := [{}] })] })] }
     let many : State := { drvState 100 m with drovers := [(0, { gangs := (List.range 64).map fun i => (i, some ({} : Gang)) })] }
     2 ≤ drvField l 10 24 16 ∧ csrField (drvState 100 m) 0x0300008 19 0 ≠ 0 ∧ (openGangs (drvState 100 m) 0).length < 64 ∧
     (openGangs many 0).length = 64 ∧ (openGangs many 0).find? (fun g => g.2.key = k && g.2.members.length < g.2.size) = none ∧
     (openGangs (s 2) 0).find? (fun g => g.2.key = k && g.2.members.length < g.2.size) = some (0, { key := k, size := 2, members := [{}] }) ∧
     (openGangs (s 3) 0).find? (fun g => g.2.key = k && g.2.members.length < g.2.size) = some (0, { key := k, size := 3, members := [{}] })) ∧
    (let s := { drvState 100 (drvMsg false zeroLine) with drovers := [(0, { gangs := [(0, some { at_ := 900 }), (1, some { at_ := 901 })] })] }
     (900 + csrField s 0x0300008 19 0 ≤ s.ledger.toNat) ∧ s.ledger.toNat < 901 + csrField s 0x0300008 19 0) := by decide +kernel

/-- Bytes of a line written at an address of HBM. -/
def memLines (s : State) (ls : List (Nat × Line)) : State :=
  { s with hbm := { s.hbm with mem := ls.foldl (fun m l => memWrite m l.1 (lineBytes l.2)) s.hbm.mem } }

/-- An expansion of slot 0 of handle 10 awaits its check; the trailer holds its CRC. -/
def seedState (again : Bool) : State :=
  let s := { prog 0 with drovers := [(0, { expands := [(5, some { members := [{ a := 10, words := zeroLine, id := 7 }], todo := [0], again := again })] })] }
  memLines s [(0x1008000 + 72 * 2, BitVec.ofNat 36 (crcWords (drvExpand s testImage (decl testImage 10) 0)) :: List.replicate 15 0)]

theorem wit_DroverServesAndChecks_seed : ((nget none (drover (seedState false) 0).expands 5).isSome = true ∧
    crcWords (drvExpand (seedState false) testImage (drvCopy testImage 0 10) 0) = (drvTrailer (seedState false) testImage (drvCopy testImage 0 10) 0).2 ∧
    (nget none (drover (seedState true) 0).expands 5).isSome = true) := by decide +kernel

/-- A message for stack 0, whose controller runs. -/
def hbmState (b : Body) : State :=
  let s := prog 0
  { s with yard := [⟨7, .stall 0, .hbm 0, .req, 0, b⟩], hbm := { s.hbm with selfRef := false } }

/-- Handle 2 is durable, with a write of another epoch pending to its block 0. -/
def durableState (b : Body) : State :=
  let i : Image := { testImage with handles := [{ handle := 2, kind := 4, flags := 2, place := 2, pitch := 1, lines := 64, base := 0x1000000 }] }
  { hbmState b with ctxs := [(0, { st := .resident, image := some i })], recs := [(0, { opened := some 5, durable := [(2, 0, 4)] })] }

theorem wit_HbmReadsAndWrites :
    (let s := hbmState (.hbmRead 15 2 0x10000)
     let bad : State := { s with hbm := { s.hbm with slots := [(0x1000, { gpois := 1 })] } }
     let served : State := { s with hbm := { s.hbm with recent := [(channelOf (granulePlace s 0x10000), [0x10000])] } }
     (arriving s 7).isSome = true ∧ stackRuns s 0 = true ∧ stackRuns (prog 0) 0 = false ∧ isDurable (decl (imageOf s 0) 2) = false ∧
     regionFor s 0 (0x10000 * 256) = some 0 ∧ regionFor s 0 (0xFFFF * 256) = none ∧ buffered s 0x10000 = false ∧ buffered served 0x10000 = true ∧
     ((regionAt s 0).rpoison || gpoison s 0x10000 || combinePoison s 0x10000) = false ∧ gpoison bad 0x10000 = true ∧ (regionAt s 0).cls = 0 ∧
     (regionAt s 0).owner < 64 ∧ MemErr.clean.exhausted = false ∧ MemErr.clean.mac = none) ∧
    (let s := durableState (.hbmRead 15 2 0)
     (arriving s 7).isSome = true ∧ isDurable (decl (imageOf s 0) 2) = true ∧ granBlock (decl (imageOf s 0) 2) 0 = 0 ∧ durableWaits s 0 2 0 = true ∧
     durableWaits { s with recs := [(0, { opened := some 4, durable := [(2, 0, 4)] })] } 0 2 0 = false ∧
     regionFor s 0 ((currentBase s (decl (imageOf s 0) 2) 0 - (decl (imageOf s 0) 2).base) / 256 * 256 + 0x1000000) = some 0) ∧
    (let s := hbmState (.hbmWrite 15 2 [(0, zeroLine), (63, zeroLine)] false 5)
     let d := decl testImage 2
     (arriving s 7).isSome = true ∧ regionFor s 0 (d.base + ((lineSpans d 0).map (·.1)).headD 0) = some 0 ∧ regionFor s 1 d.base = none ∧
     writeFails s ((List.range 4).flatMap fun k => lineCells d d.base k zeroLine) [(0x10000, { exhausted := true })] = true) := by decide +kernel

/-- A granule of the region waits in the write buffer since 0; row 5 of pseudo-channel 31 has failed; the spare pages of `lost` are used. -/
def upkeep (lost : List Nat) : State :=
  let s := prog 0
  { s with hbm := { s.hbm with combine := [(0x10000, some { bytes := [(0, 1)] })], failed := [31 * 2 ^ 24 + 5],
                               repair := [(0, { lost := lost })] } }

/-- Region 0 in a state. -/
def regionState (st : RegSt) : State := { prog 0 with hbm := { regions := [(0, { st := st, owner := 0, base := 0x1000000, limit := 0x1000FFF })] } }

theorem wit_HbmUpkeepAndRegionLife_exhausted : freeSpares (repairOf (upkeep (List.range 4096)) 0) 4 = [] := by
  simp [freeSpares, sparesUsed, upkeep, repairOf, nget, List.filter_eq_nil_iff]

theorem wit_HbmUpkeepAndRegionLife :
    ((nget none (upkeep []).hbm.combine 0x10000).isSome = true ∧ 0x10000 / 2 ^ 28 = 0 ∧ 0 + 40 ≤ (upkeep []).ledger.toNat ∧
      ({ upkeep [] with ledger := 39 } : State).ledger.toNat < 0 + 40 ∧ (liveRegion (upkeep []) 0x10000).isSome = true ∧
      liveRegion (regionState .init) 0x10000 = none) ∧
    ((0 * 32 + 31) * 2 ^ 24 + 5 ∈ (upkeep []).hbm.failed ∧ (0 * 32 + 31) * 2 ^ 24 + 6 ∉ (upkeep []).hbm.failed ∧
      ((rowPages 0 31 5).flatMap (dataPages (repairOf (upkeep []) 0))).length = 4 ∧ (freeSpares (repairOf (upkeep []) 0) 4).length = 4 ∧ (rowPages 0 31 5).filter isSpare = []) ∧
    ((regionAt (regionState .init) 0).st = .init ∧ stackRuns { regionState .init with hbm := { (regionState .init).hbm with selfRef := false } } 0 = true ∧
      (regionAt (regionState .scrub) 0).st = .scrub ∧ (regionAt (regionState .live) 0).st = .live ∧ nwf ({} : Region) (regionState .scrub).hbm.regions = true ∧
      (regionAt (regionState .scrub) 0).erased = false ∧ (∀ e ∈ (regionState .scrub).hbm.regions, e.1 = 0) ∧
      (let s : State := { prog 0 with hbm := { regions := [(0, { st := .scrub }), (1, { st := .scrub, base := 4096 })] } }
       ∃ e ∈ s.hbm.regions, e.1 ≠ 0 ∧ e.2.st ≠ .free ∧ e.2.owner = 0 ∧ e.2.erased = false) ∧
      (∀ e ∈ (regionState .free).hbm.regions, e.2.st = .free) ∧ (∀ e ∈ (regionState .live).hbm.regions, e.2.st ≠ .free ∧ e.2.base / 2 ^ 36 = 0)) ∧
    (let s := { prog 0 with csr := [(0x0600200, 0x100)], hbm := { loop := [(0, some 0)] } }
     nget none s.hbm.loop 0 = some 0 ∧ 0 + 1000 * csrField s 0x0600200 23 8 = s.ledger.toNat ∧ ({ s with ledger := 999 } : State).ledger.toNat < 1000) := by
  decide +kernel

/-- A request of stall 0 for a slot, with a line of the slot cached where `l` is. -/
def grnState (slot : Nat) (op : GrnOp) (l : Option GLine) : State :=
  let s := prog 0
  { s with yard := [⟨7, .stall 0, .granary 0, .req, 0, .grn 15 slot op zeroLine false⟩], hbm := { s.hbm with selfRef := false },
           grn := { lines := if l = none then [] else [(grnKey 0 slot, l)], fills := [grnKey 0 1] } }

theorem wit_GranaryServesLines :
    ((arriving (grnState 32 .read none) 7).isSome = true ∧ backingOf (grnState 32 .read none) 0 32 = none) ∧
    ((backingOf (grnState 31 .read none) 0 31).isSome = true ∧ grnLine (grnState 31 .read none) 0 31 = none) ∧
    (∀ op ∈ [GrnOp.read, .write, .swap, .cas, .modAdd 40961, .modAdd (2 ^ 36), .intAdd false, .min 0, .max 0],
      (arriving (grnState 0 op (some {})) 7).isSome = true ∧ (grnLine (grnState 0 op (some {})) 0 0).isSome = true) ∧
    (isAtomic .cas = true ∧ returnsLine .swap = true ∧ returnsLine .write = false) ∧
    (let s := grnState 0 .read none
     grnKey 0 1 ∈ s.grn.fills ∧ backingOf s 0 1 = some 0x1000048 ∧ stackRuns s (stackOf 0x1000048) = true ∧ (halfLines s (grnHalf 1)).length < 1572864 ∧
     backingOwner s 0 1 = 0 ∧ regionFor s 0 (0x1000048 / 256 * 256) = some 0 ∧ (regionAt s 0).rpoison = false ∧ gpoison s (0x1000048 / 256) = false ∧
     combinePoison s (0x1000048 / 256) = false ∧ (0x1000048 + 71) / 256 = 0x1000048 / 256 ∧
     regionFor { s with hbm := { selfRef := false } } 0 (0x1000048 / 256 * 256) = none) ∧
    ((grnState 0 .read (some {})).grn.lines.map (·.1)).Nodup := by decide +kernel

/-- A flit with its CRC. -/
def closeFlit (b : List Byte) : List Byte := b.take 248 ++ leBytes 8 (crc64 (b.take 248))
/-- As it stands on the wire. -/
def wireFlit (b : List Byte) : BitVec 2048 := BitVec.ofNat 2048 (leNat (closeFlit b))

/-- Port 0 in a state. -/
def portState (p : Port) : State := { prog 0 with rhoa := { ports := [(0, p)] } }

theorem wit_LinkTakesFlitsInOrder :
    (carries (port (portState { st := .up1 }) 0).st = true ∧ carries (port (portState { st := .down }) 0).st = false) ∧
    crcOk (flitOf 1) = false ∧
    (let b := flitOf (wireFlit (flit [(8, [0xFF, 0x7F]), (10, [9])]))
     crcOk b = true ∧ formOk b = true ∧ flitType b = 0 ∧ flitDst b = 0x7FFF) ∧
    (let b := flitOf (wireFlit (flit [(4, [2]), (8, [5]), (14, [7])]))
     crcOk b = true ∧ formOk b = true ∧ 1 < flitType b ∧ fieldAt b 0 2 = ({} : Port).expect.toNat ∧ fieldAt b 0 2 ≠ (1 : BitVec 16).toNat ∧
     (placeFor {} (flitVc b) (7 - flitTtl b)).isSome = true ∧ mine (portState {}) (flitDst b) = false ∧
     mine { portState {} with csr := [(0x07C0000, 5)] } (flitDst b) = true ∧ flitType b ≠ 0xA ∧
     placeFor { rxPlaces := (List.range 64).map fun k => (k, 255) } (flitVc b) (7 - flitTtl b) = none) ∧
    (let b := flitOf (wireFlit (flit [(4, [0x0F]), (8, [5])]))
     crcOk b = true ∧ formOk b = false ∧ 1 < flitType b) ∧
    (let b := flitOf (wireFlit (flit [(4, [0x2A]), (8, [5]), (14, [7])]))
     crcOk b = true ∧ formOk b = true ∧ flitType b = 0xA) ∧
    (let p : Port := { st := .up, replay := [{ bytes := flit [(0, [1])] }], replays := 7, progress := BitVec.ofNat 64 0 }
     let s := { portState p with ledger := 2000 }
     carries (port s 0).st = true ∧ (port s 0).replay ≠ [] ∧ (port s 0).progress.toNat + 2000 ≤ s.ledger.toNat ∧ (port s 0).replays < 8 ∧
     ({ s with ledger := 1999 } : State).ledger.toNat < (port s 0).progress.toNat + 2000) ∧
    (let b := flitOf (wireFlit (flit [(4, [1]), (2, [0])]))
     crcOk b = true ∧ formOk b = true ∧ flitType b = 1 ∧ after16 1 (fieldAt b 2 2) = true ∧ after16 0 (fieldAt b 2 2) = false) := by decide +kernel
/-- A bridge whose link is up, with device 9 (its own number) as member 15 of its barn. -/
def bridge : State :=
  let s := prog 0
  { s with gate := { bridge := true, linkUp := true, numVfs := 63 }, csr := [(0x0100020, 0x5F), (0x080023C, 0x80000009), (0x07C0000, 9)] }

theorem wit_LinkPortsTrainAndForward :
    (∀ l ∈ [(1 : BitVec 2), 2, 3], l ≠ 0) ∧ portThere (portState { st := .training }) 0 = true ∧
    (({ trainAt := 0 } : Port).trainAt.toNat + 10000000 ≤ ({ portState { st := .training } with ledger := 10000000 } : State).ledger.toNat) ∧
    (let f := flit [(4, [2]), (8, [5]), (14, [7])]
     let s := { portState { st := .up, forward := [{ bytes := f }], queue := [{ bytes := f, at_ := 0 }] } with csr := [(0x0740000 + 40, 1)], ledger := 100001 }
     (port s 0).forward ≠ [] ∧ flitTtl f ≠ 0 ∧ routePort s (flitDst f) (flitSrc f) = some 0 ∧ routePort (portState {}) (flitDst f) (flitSrc f) = none ∧
     flitTtl (flit [(14, [0])]) = 0 ∧ ((port s 0).queue[0]?).isSome = true ∧ (0 : W64).toNat + 100000 < s.ledger.toNat) ∧
    (let f : Held := { bytes := flit [(4, [2])] }
     let s := { portState { st := .up, queue := [f], forward := [f], replay := [f] } with ledger := 100001 }
     let t := { s with rhoa := { s.rhoa with rx := [f] } }
     let l := (port t 0).queue ++ (port t 0).forward ++ (port t 0).replay ++ t.rhoa.rx.filter fun h => h.port = 0
     l[0]? = some f ∧ l[1]? = some f ∧ l[2]? = some f ∧ l[3]? = some f ∧ l[4]? = none ∧ f.at_.toNat + 100000 < t.ledger.toNat ∧
     ({ t with ledger := 100000 } : State).ledger.toNat ≤ f.at_.toNat + 100000) ∧
    (bitOf (0 : W32).toNat 0 = false ∧ bitOf (1 : W32).toNat 0 = true ∧ bitOf (1 : W32).toNat 2 = false ∧ bitOf (5 : W32).toNat 2 = true ∧
      bitOf (5 : W32).toNat 0 = true ∧ (port (portState {}) 0).st = .disabled ∧ (port (portState {}) 0).failed = false ∧
      (port (portState { st := .down, failed := true }) 0).failed = true ∧ portThere bridge 40 = false ∧ portThere bridge 39 = true) ∧
    (let s (k : Nat) : State := { portState { st := .up1, retrains := List.replicate k 0 } with csr := [(0x0700008, 1)], ledger := 999999999 }
     csrField (s 4) 0x0700008 0 0 = 1 ∧ csrField (portState {}) 0x0700008 0 0 = 0 ∧ (port (s 4) 0).st ≠ .disabled ∧ (port (s 4) 0).failed = false ∧
     ((port (s 4) 0).retrains.filter fun t => decide ((s 4).ledger.toNat < t.toNat + 1000000000)).length = 4 ∧
     ((port (s 3) 0).retrains.filter fun t => decide ((s 3).ledger.toNat < t.toNat + 1000000000)).length = 3) ∧
    (({} : Port).beaconTx.toNat + 1000 ≤ (prog 0).ledger.toNat ∧ ({ prog 0 with ledger := 999 } : State).ledger.toNat < ({} : Port).beaconTx.toNat + 1000) := by
  decide +kernel

/-- A WRITE or ATOMIC of JOB 7 from device 9 for slot 16. -/
def peerFlit (type dseq op : Byte) : List Byte := flit [(4, [type]), (10, [9]), (12, [dseq]), (15, [1]), (16, [7]), (20, [3]), (24, [16, 0, 0, op])]

/-- It has been taken, with slot 16 of context 0 cached where `l` is. -/
def peerState (b : List Byte) (l : Option GLine) : State :=
  { gotFlit b with grn := { lines := if l = none then [] else [(grnKey 0 16, l)] } }

theorem wit_HomePerformsPeerWrites :
    (let b := peerFlit 2 0 0
     let s := peerState b (some {})
     (rxEntry s 0).isSome = true ∧ toGate s b = false ∧ ctxOfJob s (flitJob b) = some 0 ∧ flitType b = 2 ∧ flitField b 15 1 5 5 = 0 ∧
     flitDseq b = (homeAt s 0 (flitSrc b) (flitJob b)).expect ∧ (flitLines b).map (·.1) = [16] ∧ slotsExported s 0 [16] = true ∧
     (placeOf s 0 (flitSrc b) [16]).isSome = true ∧ linkHeld s 0 (flitSrc b) (flitDseq b) = false ∧
     undoRoom s 0 (flitSrc b) (fieldAt b 20 4) .write [16] = true ∧ (grnLine s 0 16).isSome = true ∧ grnLine (peerState b none) 0 16 = none ∧
     slotsExported s 0 [15] = false ∧ placeOf { s with recs := [(0, { deps := [{ src := 8, win := some 2048 }] })] } 0 (flitSrc b) [16] = none) ∧
    (let b := peerFlit 2 1 0
     flitDseq b ≠ (homeAt (peerState b none) 0 (flitSrc b) (flitJob b)).expect ∧ after16 (flitDseq b) 0 = true) ∧
    (let b := peerFlit 3 0 0x60
     let s := peerState b (some {})
     flitType b = 3 ∧ flitField b 24 4 31 29 = 3 ∧ (flitLines b).length = 1 ∧ (coverOf testImage 16).map (·.handle) = some 9 ∧
     undoRoom s 0 (flitSrc b) (fieldAt b 20 4) (homeOp s 0 16 3).1 [16] = true ∧ (grnLine s 0 16).isSome = true) := by decide +kernel

/-- Context 0 depends on epoch 3 of device 9, and has flows as a source and as a home. -/
def depState (b : List Byte) (sent : Bool) : State :=
  let d : Dep := { src := 9, job := 7, pendLo := 3, pendHi := 3, rxEpoch := 5, gapSent := sent }
  let r : Rec := { opened := some 5, deps := [d], undo := [{ slot := 16, src := 9, epoch := 3 }], homes := [{ src := 9, job := 7, wacks := [(0, 0)] }] }
  { gotFlit b with ledger := 0xFFFFFFFFFFFF, recs := [(0, { r with flows := [{ dst := 9, job := 7, sent := [{ dseq := 4, ids := [3] }] }] })] }

theorem wit_PeerEpochsCommitAndRevoke :
    (let b := flit [(4, [4]), (10, [9]), (16, [7]), (20, [3])]
     let s := depState b false
     flitType b = 4 ∧ ctxOfJob s (flitJob b) = some 0 ∧ toGate s b = false ∧ flitDseq b = (homeAt s 0 (flitSrc b) (flitJob b)).expect ∧
     after32 3 (fieldAt b 20 4) = false) ∧
    (let b := flit [(4, [6]), (10, [9]), (16, [7]), (20, [3])]
     let s := depState b false
     flitType b = 6 ∧ ctxOfJob s (flitJob b) = some 0 ∧ ((recOf s 0).deps.find? fun d => d.src = flitSrc b).isSome = true ∧
     (recOf (gotFlit b) 0).deps.find? (fun d => d.src = flitSrc b) = none) ∧
    (let s := depState [] false
     ((recOf s 0).deps.find? fun d => d.src = 9).isSome = true ∧ 0 + 1000 * csrField s 0x07C0008 47 24 ≤ s.ledger.toNat ∧
     (recOf s 0).deps.all (fun d => !d.gapSent) = true ∧ (recOf (depState [] true) 0).deps.all (fun d => d.gapSent && !after32 d.pendLo d.pendHi) = true ∧
     ({ s with ledger := 0 } : State).ledger.toNat < 0 + 1000 * csrField s 0x07C0008 47 24 ∧
     ((recOf s 0).homes.find? fun h => h.src = 9 && h.wacks ≠ []) = some (homeAt s 0 9 7)) ∧
    (let b := flit [(4, [5]), (10, [9]), (16, [7]), (20, [1]), (24, [4, 0, 1])]
     let s := depState b false
     flitType b = 5 ∧ 0 ∈ senderCtxs s (flitSrc b) (flitJob b) ∧ wackEntries b = [(4, 1)] ∧ (flowOf s 0 9 7).sent ≠ []) ∧
    (let b := flit [(4, [7]), (10, [9]), (16, [7]), (20, [4])]
     flitType b = 7 ∧ 0 ∈ senderCtxs (depState b false) (flitSrc b) (flitJob b)) ∧
    (let s := depState [] false
     (recOf s 0).flows = [flowOf s 0 9 7] ∧ ((flowOf s 0 9 7).sent.map fun x => x.at_.toNat) = [0] ∧ 0 + 1000 * csrField s 0x07C0008 23 0 ≤ s.ledger.toNat) := by decide +kernel

/-- A packet of an operation with some bytes of its body; all else 0. -/
def packet (op len : Byte) (fs : List (Nat × List Byte)) : Packet :=
  packetOf (fs.foldl (fun b f => putBytes b f.1 f.2) (padTo 16 [0, 0, 0, 0, op, len, 0, 0] ++ List.replicate 32 0))

/-- Context c in a state, with a packet at the head of its ring. -/
def ringState (k : Packet) (st : CtxSt) : State := { prog 0 with ctxs := [(0, { st := st, image := some testImage, taken := [k] })] }

/-- As `AtHead`, decided. -/
def atHeadB (s : State) (c : Nat) (k : Packet) : Bool :=
  decide ((ctx s c).taken.head? = some k) && decide ((ctx s c).cur = none) && packetOk k && !holding s c

theorem atHead_of_atHeadB {s : State} {c : Nat} {k : Packet} (h : atHeadB s c k = true) : AtHead s c k := by
  simp only [atHeadB, Bool.and_eq_true, decide_eq_true_eq, Bool.not_eq_true'] at h
  obtain ⟨⟨⟨h1, h2⟩, h3⟩, h4⟩ := h
  refine ⟨?_, h2, h3, h4⟩
  revert h1
  cases (ctx s c).taken with
  | nil => simp
  | cons a l => intro h1; exact ⟨l, by simpa using h1⟩

/-- A LOAD of the least and of the greatest image. -/
def loadPacket (n : List Byte) : Packet := packet 1 2 [(0x10, [8]), (0x14, [3, 5]), (0x18, n)]

/-- What a command leaves. -/
def after (i : Instr) (s : State) : State := match exec i s with
  | .next u => u
  | _ => s

theorem wit_RingCommandsComplete :
    AtHead (ringState (packet 9 1 []) .free) 0 (packet 9 1 []) ∧
    (AtHead (ringState (loadPacket [64]) .free) 0 (loadPacket [64]) ∧ AtHead (ringState (loadPacket [0, 0, 0, 9]) .free) 0 (loadPacket [0, 0, 0, 9]) ∧
      fieldAt (loadPacket [0, 0, 0, 9]).data 0x18 8 = 150994944 ∧ pkMark (loadPacket [64]) = 0 ∧
      (stagingRoom (ringState (loadPacket [64]) .free) (stagingBytes 150994944)).isSome = true ∧ placesUsed (ringState (loadPacket [64]) .free) < 8192) ∧
    (AtHead (ringState (loadPacket [0]) .staged) 0 (loadPacket [0]) ∧ fieldAt (loadPacket [63]).data 0x18 8 = 63 ∧
      fieldAt (loadPacket [1, 0, 0, 9]).data 0x18 8 = 150994945 ∧ fieldAt (packet 1 2 []).data 0x10 4 = 0 ∧
      (let s : State := { ringState (loadPacket [64]) .free with ctxs := [(0, { taken := [loadPacket [64]] }), (1, { st := .resident, job := 8 })] }
       ∃ e ∈ s.ctxs, e.1 ≠ 0 ∧ e.2.st = .resident ∧ e.2.job.toNat = fieldAt (loadPacket [64]).data 0x10 4) ∧
      pkMark (packet 1 2 [(7, [9])]) = 9 ∧ packetOk (packet 1 2 [(7, [9]), (0x18, [64])]) = true) ∧
    (AtHead (ringState (packet 4 3 [(0x10, [8]), (0x14, [16])]) .resident) 0 (packet 4 3 [(0x10, [8]), (0x14, [16])]) ∧
      (inputHandle testImage 8).map (·.lines) = some 1 ∧ (exportWindow (ringState (packet 4 3 []) .resident) 0 16).isSome = true ∧
      exportWindow (ringState (packet 4 3 []) .resident) 0 15 = none ∧ (∀ x ∈ testImage.keys, x.handle = 8 → x.tag.toNat = 0)) ∧
    (AtHead (ringState (packet 5 2 [(0x10, [8])]) .resident) 0 (packet 5 2 [(0x10, [8])]) ∧ inputHandle testImage 7 = none) ∧
    ((ctx (ringState (packet 9 2 []) .free) 0).taken = [packet 9 2 []] ∧ packetOk (packet 9 2 []) = false ∧ packetOk (packet 10 1 []) = false) ∧
    (let s := after (.supply 0) (ringState (packet 4 3 [(0x10, [8]), (0x14, [16])]) .resident)
     ((ctx s 0).cur.any fun e => pkOp e.packet = 4 && (inputHandle (imageOf s 0) (fieldAt e.packet.data 0x10 2)).isSome && !e.teams) = true ∧
     (ctx s 0).taken.length ≤ 62) :=
  ⟨atHead_of_atHeadB (by decide +kernel), ⟨atHead_of_atHeadB (by decide +kernel), atHead_of_atHeadB (by decide +kernel), by decide +kernel,
    by decide +kernel, by decide +kernel, by decide +kernel⟩, ⟨atHead_of_atHeadB (by decide +kernel), by decide +kernel⟩,
    ⟨atHead_of_atHeadB (by decide +kernel), by decide +kernel⟩,
    ⟨atHead_of_atHeadB (by decide +kernel), by decide +kernel⟩, by decide +kernel, by decide +kernel⟩

/-- An image with one chain of two primes and nothing else: header, six section-table entries, CHAINS and GENERAL. -/
def imageBytes : List Byte :=
  [(0, [73, 86, 79, 1, 0, 0, 6, 0, 64, 1]), (16, [1]),
   (32, [50, 165, 64, 21, 245, 76, 53, 168, 234, 23, 32, 80, 33, 190, 29, 21, 170, 237, 126, 126, 247, 241, 249, 104, 212, 33, 76, 97,
     16, 172, 234, 18, 2]),
   (96, [3]), (128, [4]), (160, [5]), (169, [1]), (176, [32]), (184, [1]), (192, [6]), (224, [8]), (232, [32, 1]), (240, [32]),
   (248, [1]), (258, [12, 1, 1, 1, 1]), (272, [1, 96, 0, 1, 0, 0, 0, 0, 1, 224, 1, 1, 0, 0, 0, 0, 1])].foldl
    (fun b f => putBytes b f.1 f.2) (List.replicate 320 (0 : Byte))

/-- Context 0 is STAGED with 320 bytes that the Granary holds; an INSTALL is at the head of its ring. -/
def stagedState (b : List Byte) (r : NMap Region) : State :=
  let lines := (List.range 5).map fun k => (grnKey 0 k, some ({ words := lineOfBytes ((b.drop (72 * k)).take 72) } : GLine))
  { prog 0 with ctxs := [(0, { st := .staged, imgBytes := 320, taken := [packet 2 2 []] })], grn := { lines := lines }, hbm := { regions := r } }

/-- The loader's verdict on what context 0 has staged. -/
def verdictOf (s : State) : Option (Nat × Nat × Nat) := loaderVerdict ⟨stagedBytes s 0, parseImage (stagedBytes s 0), 0, s⟩

theorem wit_ImagesInstallStartAndUnload_install :
    AtHead (stagedState imageBytes []) 0 (packet 2 2 []) ∧
    ((ctx (stagedState imageBytes []) 0).st = .staged ∧ verdictOf (stagedState [] []) = some (1, 0xFFFF, 0) ∧
      csrBit (stagedState [] []) 0x6410 63 = false) ∧
    (AtHead (stagedState [] []) 0 (packet 2 2 []) ∧ fieldAt (packet 2 2 [(16, [1])]).data 0x10 1 = 1 ∧
      openPackage (stagedState [] []) 1 (stagedBytes (stagedState [] []) 0) (stagedBytes (stagedState [] []) 0).length = none) ∧
    verdictOf (stagedState imageBytes []) = none ∧
    (after (.install 0) (stagedState imageBytes [])).hbm.regions = [] ∧
    ((after (.install 0) (stagedState imageBytes [(1, { st := .init, base := 4096, limit := 8191 })])).hbm.regions.any
      fun e => e.2.owner = 0 && e.2.st = .init) = true :=
  ⟨atHead_of_atHeadB (by decide +kernel), by decide +kernel, ⟨atHead_of_atHeadB (by decide +kernel), by decide +kernel, by decide +kernel⟩,
    by decide +kernel, by decide +kernel, by decide +kernel⟩
/-- Context 0 with a command in execution. -/
def inExec (s : State) (k : Packet) (f : Exec → Exec) (st : CtxSt) : State :=
  { s with ctxs := [(0, { st := st, image := some testImage, cur := some (f { packet := k }) })] }

/-- The execution of a START whose Teams are started. -/
def startExec (f : Exec → Exec) : State := { inExec (progWith 0 {}) (packet 3 2 []) (fun e => f { e with teams := true }) .resident with recs := [] }

theorem wit_ImagesInstallStartAndUnload :
    (let s := inExec (prog 0) (packet 2 2 []) id .staged
     (ctx s 0).cur = some { packet := packet 2 2 [] } ∧ pkOp (packet 2 2 []) = 2 ∧ regionsLive { s with hbm := {} } 0 = true ∧
     regionsLive { s with hbm := { regions := [(0, { st := .init })] } } 0 = false ∧
     (let u := inExec (prog 0) (packet 8 1 []) id .unloading
      pkOp (packet 8 1 []) = 8 ∧ (∀ r ∈ ({ u with hbm := {} } : State).hbm.regions, r.2.owner = 0 → r.2.st = .free) ∧
      ∃ r ∈ u.hbm.regions, r.2.owner = 0 ∧ r.2.st ≠ .free)) ∧
    (AtHead (ringState (packet 8 1 []) .staged) 0 (packet 8 1 []) ∧ AtHead (ringState (packet 8 1 []) .stopped) 0 (packet 8 1 []) ∧
      (after (.unload 0) { ringState (packet 8 1 []) .stopped with hbm := {} }).hbm.regions = [] ∧
      (after (.unload 0) (ringState (packet 8 1 []) .stopped)).hbm.regions.any (fun e => e.2.owner = 0 && e.2.st = .scrub) = true) ∧
    (AtHead (ringState (packet 3 2 []) .resident) 0 (packet 3 2 []) ∧ AtHead (ringState (packet 3 2 []) .staged) 0 (packet 3 2 []) ∧
      AtHead (ringState (packet 3 2 [(16, [1])]) .resident) 0 (packet 3 2 [(16, [1])]) ∧ (testImage.entries.all fun e => e.1 != 1) = true ∧
      testImage.entries.filter (fun e => e.1 = 0) = [(0, 0, [0, 0xFFFFFFFF, 0xFFFFFFFF, 0xFFFFFFFF])] ∧ lidsOf testImage 0 = [0, 1] ∧
      runningNo (ringState (packet 3 2 []) .resident) = 0 ∧ posOfLid (ringState (packet 3 2 []) .resident) 1 = some 1 ∧
      runningNo { ringState (packet 3 2 []) .resident with ym := {} } ≠ 0) ∧
    (let s := startExec id
     teamsOver s 0 = true ∧ enginesIdle s 0 = true ∧ writeBacksOpen s 0 = false ∧ (recOf s 0).triggers = [] ∧ (recOf s 0).opened = none ∧
     (recOf s 0).closed = none ∧ ((ctx s 0).cur.any fun e => e.teams && !e.abort && e.fault = none) = true ∧ teamsOver (prog 0) 0 = false) ∧
    (let t (f : Exec → Exec) : State := { startExec f with ctxs := [(0, { ctx (startExec f) 0 with drained := true })] }
     let s := t fun e => { e with abort := true }
     let u := t fun e => { e with fault := some (0x0101, 1023, 3) }
     let v := t fun e => { e with abort := true, abortBy := some (packet 7 1 []) }
     (ctx s 0).drained = true ∧ (ctx s 0).aborting = false ∧ ((ctx s 0).cur.any fun e => e.abort && e.abortBy = none && e.teams) = true ∧
     ((ctx v 0).cur.any fun e => e.abort && e.abortBy = some (packet 7 1 []) && e.teams) = true ∧ (ctx v 0).taken.length ≤ 62 ∧
     (ctx u 0).drained = true ∧ (ctx u 0).aborting = false ∧ rollbackAllowed u 0 = false ∧
     ((ctx u 0).cur.any fun e => !e.abort && e.teams && e.fault = some (0x0101, 1023, 3)) = true) ∧
    (let s := ringState (packet 7 1 []) .resident
     holding s 0 = false ∧ (ctx s 0).taken.find? (fun k => pkOp k = 7) = some (packet 7 1 []) ∧ packetOk (packet 7 1 []) = true ∧ (ctx s 0).cur = none ∧
     (let s := { startExec id with ctxs := [(0, { ctx (startExec id) 0 with taken := [packet 7 1 []] })] }
      holding s 0 = false ∧ (ctx s 0).taken.find? (fun k => pkOp k = 7) = some (packet 7 1 []) ∧ ((ctx s 0).cur.any fun e => e.teams && !e.abort) = true) ∧
     (let s := inExec (progWith 0 {}) (packet 4 3 [(0x10, [8]), (0x14, [16])]) id .resident
      let s := { s with ctxs := [(0, { ctx s 0 with taken := [packet 7 1 []] })] }
      holding s 0 = false ∧ (ctx s 0).taken.find? (fun k => pkOp k = 7) = some (packet 7 1 []) ∧ ((ctx s 0).cur.any fun e => pkOp e.packet = 4) = true)) :=
  ⟨by decide +kernel, ⟨atHead_of_atHeadB (by decide +kernel), atHead_of_atHeadB (by decide +kernel), by decide +kernel, by decide +kernel⟩,
    ⟨atHead_of_atHeadB (by decide +kernel), atHead_of_atHeadB (by decide +kernel), atHead_of_atHeadB (by decide +kernel), by decide +kernel⟩,
    by decide +kernel, by decide +kernel, by decide +kernel⟩
/-- Context 63 of a bridge. -/
def bridgeCtx (x : Ctx) : State := { bridge with ctxs := [(63, x)] }

/-- The same barn, whose member 15 is another device. -/
def otherMember : State := { bridge with csr := [(0x0100020, 0x5F), (0x080023C, 0x80000008), (0x07C0000, 9)] }

/-- A flit for the Gatehouse from member 15, in the way of `gotFlit`. -/
def toBridge (fs : List (Nat × List Byte)) : State :=
  { bridge with rhoa := { rx := [{ bytes := flit ([(8, [0xFF, 0x7F]), (10, [9])] ++ fs) }] } }

theorem wit_HostPacketsReachRings_xfer :
    (∀ st ∈ [CtxSt.free, .staged, .resident], ∀ m ∈ [(0 : Byte), 2, 3, 5],
      AtHead (ringState (packet 6 3 [(7, [m]), (0x1C, [1])]) st) 0 (packet 6 3 [(7, [m]), (0x1C, [1])]) ∧
      AtHead (ringState (packet 6 3 [(7, [m])]) st) 0 (packet 6 3 [(7, [m])])) ∧
    (prog 0).gate.bridge = false ∧
    (let x : Xfer := { ring := 1023, packet := packet 6 3 [] }
     let s := { bridge with gate := { bridge.gate with xfers := [x], jobs := [(1023, 7)] } }
     s.gate.xfers.find? (fun x => x.ring % 64 = 63 && xferTurn s x) = some x ∧ fieldAt x.packet.data 0x1C 1 = 0 ∧ nget 0 s.gate.jobs x.ring ≠ 0 ∧
     ∀ y ∈ s.gate.xfers, y.begun = false) := by
  refine ⟨fun st h m hm => ?_, by decide +kernel, by decide +kernel⟩
  revert st m
  intro st h m hm
  refine ⟨atHead_of_atHeadB ?_, atHead_of_atHeadB ?_⟩ <;> revert m <;> revert st <;> decide +kernel

theorem wit_HostPacketsReachRings :
    (let s := bridgeCtx {}
     let k := packetOf (packet 9 1 []).data
     let f := packetOf (packet 9 1 [(0, [64])]).data
     s.gate.bridge = true ∧ s.gate.linkUp = true ∧ (prog 0).gate.linkUp = false ∧ bar2Base s 0 = some 0 ∧ bar2Base s 63 = none ∧
     bar2Base { s with gate := { s.gate with vfBind := [(1023, 63)] } } 63 = some (0 + (15 * 0x100000 + 63 * 0x4000)) ∧
     (256 : Nat) ≤ 0 + 256 ∧ pkOp (packet 6 3 []) = 6 ∧ packetOk (packet 6 3 []) = true ∧
     after32 (nget 0 s.gate.doneSeq 1023) (packet 6 3 []).seq.toNat = false ∧
     csrBit s 0x080023C 31 = true ∧ csrBit s 0x0800238 31 = false ∧ csrField s 0x080023C 14 0 = deviceId s ∧ replaying s 63 = false ∧
     (pkMark k = 0 ∧ pkOp k = 9 ∧ pkMark f = 0 ∧ pkOp f = 9) ∧ k.seq = (ctx s 63).nextTake ∧ (k.seq - (ctx s 63).nextDone).toNat < 64 ∧
     s.rst.phase = .running ∧ (ctx s 63).held = [] ∧ after32 (ctx (bridgeCtx { nextTake := 1 }) 63).nextTake.toNat k.seq.toNat = true ∧
     after32 (ctx s 63).nextTake.toNat f.seq.toNat = false ∧ (f.seq - (ctx s 63).nextDone).toNat = 64 ∧
     csrField otherMember 0x080023C 14 0 ≠ deviceId otherMember) ∧
    (let b := flit [(4, [8]), (10, [9])]
     let s := { prog 0 with rhoa := { rx := [{ bytes := b, port := 47 }] } }
     (rxEntry s 0).isSome = true ∧ flitType b = 8 ∧ toGate s b = false ∧ flitSrc b ≠ csrField s 0x6418 14 0 ∧
     flitSrc b = csrField { s with csr := [(0x6418, 9)] } 0x6418 14 0) ∧
    (let s := toBridge [(4, [8]), (16, [48]), (28, [0x80]), (44, [1]), (70, [63])]
     let h := (rxEntry s 0).getD {}
     (rxEntry s 0).isSome = true ∧ toGate s h.bytes = true ∧ flitType h.bytes = 8 ∧ fieldAt (flitPacket h.bytes) 4 1 = 0x80 ∧
      barnIndex s (flitSrc h.bytes) = some 15 ∧ (((flitPacket h.bytes).drop 16).take 32).length = 32 ∧
      fieldAt (((flitPacket h.bytes).drop 16).take 32) 4 1 = 1 ∧ fieldAt (((flitPacket h.bytes).drop 16).take 32) 0x1E 1 = 63 ∧
      (csrGet s (0x0810000 + 16 * (15 * 64 + 63))).getLsbD 0 = false ∧
      (csrGet { s with csr := (0x0810000 + 16 * (15 * 64 + 63), 0x1F01) :: s.csr } (0x0810000 + 16 * (15 * 64 + 63))).getLsbD 0 = true) ∧
    (let s := toBridge [(4, [2]), (15, [1]), (16, [7]), (24, [1])]
     let t := { s with gate := { s.gate with jobs := [(1023, 7)] }, csr := (0x0810008 + 16 * 1023, 1) :: s.csr }
     let h := (rxEntry t 0).getD {}
     (rxEntry t 0).isSome = true ∧ toGate t h.bytes = true ∧ flitType h.bytes = 2 ∧ ringOfJob s (flitSrc h.bytes) (flitJob h.bytes) = none ∧
      ringOfJob t (flitSrc h.bytes) (flitJob h.bytes) = some 1023 ∧ flitDseq h.bytes = (homeOf t.gate.homes (flitSrc h.bytes) (flitJob h.bytes)).expect ∧
      min (csrField t (0x0810008 + 16 * 1023) 4 0) 21 = 1 ∧ (flitLines h.bytes).map (·.1) = [1] ∧
      min (csrField { t with csr := s.csr } (0x0810008 + 16 * 1023) 4 0) 21 = 0) := by decide +kernel
theorem wit_RegistersReadAndWrite :
    ((prog 0).gate.bridge = false ∧ (prog 0).ostler.up = false ∧ csrAligned 0x6402 4 = false ∧ csrAligned 0x6400 4 = true ∧
      ({ prog 0 with ostler := { up := true } } : State).ostler.up = true ∧ bridge.gate.bridge = true ∧ bridge.gate.linkUp = true) ∧
    ((2 ^ 63 : W64).getLsbD 63 = true ∧ (0 : W64).getLsbD 63 = false ∧ booted (prog 0) = true ∧ booted {} = false) := by decide +kernel

/-- A bridge whose aperture is context 0's, over its region's granules; `bad` is the granule marks of the first page. -/
def apertureState (bad : BitVec 16) : State :=
  { bridge with csr := (0x0800010, 0) :: bridge.csr, hbm := { bridge.hbm with slots := [(0x1000, { gpois := bad })] } }

theorem wit_HostAccessThroughAperture :
    (let s := apertureState 0
     csrField s 0x0800010 39 30 / 2 ^ s.gate.bar4 * 2 ^ (30 + s.gate.bar4) = 0 ∧ s.gate.bridge = true ∧ s.gate.linkUp = true ∧
     0x101FFFF + 1 ≤ 2 ^ (30 + s.gate.bar4) ∧ (∀ i, i < 2 → (apertureRegion s (0x1000000 + i)).isSome = true) ∧
     (apertureRegion s (0x101FFFF + 0)).isSome = true ∧ apertureRegion s (0x101FFFF + 1) = none ∧
     (∀ i, i < 2 → apertureRegion s ((0x1000000 + i) / 256 * 256) = some 0 ∧ gpoison s ((0x1000000 + i) / 256) = false ∧
       combinePoison s ((0x1000000 + i) / 256) = false) ∧ (regionAt s 0).rpoison = false) ∧
    (let s := apertureState 2
     gpoison s ((0x10000FF + 0) / 256) = false ∧ gpoison s ((0x10000FF + 1) / 256) = true ∧
     ∀ i, i < 2 → (apertureRegion s ((0x10000FF + i) / 256 * 256)).isSome = true ∧ (apertureRegion s (0x10000FF + i)).isSome = true) ∧
    (({ bridge with rst := { phase := .released } } : State).rst.phase ≠ .asserted ∧ linkFits (16 : Byte).toNat (6 : BitVec 4).toNat 63 = true ∧
      linkFits (16 : Byte).toNat (6 : BitVec 4).toNat 64 = false ∧ linkFits (3 : Byte).toNat (6 : BitVec 4).toNat 0 = false) := by decide +kernel

/-- The Ledger's sources: a TIME_PPS edge at `at_`, PTP without a sample, LEDGER_CFG and LEDGER_STATUS. -/
def clockState (cfg status : W64) (at_ : Option W64) (l : W64) : State :=
  { prog 0 with csr := [(0x0200008, status), (0x0200010, cfg)], disc := { ppsAt := at_, good := 15, bad := 3 }, ledger := l }

theorem wit_LedgerFollowsSources_pps :
    (let s := clockState 0x60000000 0 (some 0) 500000000
     (0 : W64).toNat + 500000000 ≤ s.ledger.toNat ∧ sourceNow { s with disc := { s.disc with ppsAt := some s.ledger } } = 3 ∧
     csrBit s 0x0200008 62 = false ∧ 15 ≤ s.disc.good ∧ 3 ≤ s.disc.bad ∧
     1000 < ((((s.ledger.toNat + 500000000) / 1000000000 * 1000000000 : Nat) : Int) - (s.ledger.toNat : Int)).natAbs) ∧
    (let s := clockState 0x60000000 0 none 999999990
     (((((s.ledger.toNat + 500000000) / 1000000000 * 1000000000 : Nat) : Int) - (s.ledger.toNat : Int)).natAbs = 10)) ∧
    (let s := clockState 0x60000000 (2 ^ 62) none 1000000041
     csrBit s 0x0200008 62 = true ∧
     ((((s.ledger.toNat + 500000000) / 1000000000 * 1000000000 : Nat) : Int) - (s.ledger.toNat : Int)).natAbs = 41) ∧
    (clockState 0 0 (some 0) 499999999).ledger.toNat < (0 : W64).toNat + 500000000 ∧
    sourceNow { clockState 0 0 none 500000000 with disc := { ppsAt := some 500000000 } } ≠ 3 := by decide +kernel
/-- PTP is on; what it knows. -/
def ptpState (d : Disc) : State := { prog 0 with csr := [(0x0200010, 0x80000000)], disc := d }

theorem wit_LedgerFollowsSources :
    (let b := flit [(4, [0xB]), (16, [100]), (24, [0, 1]), (32, [50])]
     let s := { gotFlit b with rhoa := { rx := [{ bytes := b, at_ := 300, port := 0 }], ports := [(0, { st := .up1 })] } }
     let t := { s with csr := [(0x07C0000, 0x7FFF)] }
     (rxEntry s 0).isSome = true ∧ flitType b = 0xB ∧ 0 ≠ csrField s 0x07C0000 21 16 ∧ 0 = csrField t 0x07C0000 21 16 ∧
     carries (port t 0).st = true) ∧
    (sourceNow (prog 0) = 0 ∧ sourceNow { prog 0 with ledger := 2000000000 } = 0 ∧
      (0 : W64).toNat + 2000000000 ≤ ({ prog 0 with ledger := 2000000000 } : State).ledger.toNat ∧
      ({ prog 0 with ledger := 1999999999 } : State).ledger.toNat < (0 : W64).toNat + 2000000000 ∧
      sourceNow (clockState 0x60000000 0 (some 0) 2000000000) ≠ 0) ∧
    (csrBit (prog 0) 0x0200010 31 = true ∧ csrBit (clockState 0 0 none 0) 0x0200010 31 = false ∧
      (ptpState {}).disc.master ≠ some 5 ∧ (ptpState { master := some 5 }).disc.master = some 5 ∧ (ptpState { master := some 5 }).disc.delay = none) ∧
    (let s := ptpState { master := some 5, syncAt := some 0, delay := some (-1) }
     csrBit s 0x0200010 31 = true ∧ s.disc.t1 = none ∧ s.disc.delay = some (-1) ∧ sourceNow s = 2 ∧
     sourceNow { s with disc := { s.disc with syncAt := some s.ledger, t2 := s.ledger, t1 := some 7 } } = 2 ∧
     (ptpState { master := some 5, syncAt := some 0 }).disc.delay = none) ∧
    ((ptpState { master := some 5, t1 := some 0 }).disc.t1.isSome = true ∧ (ptpState { t1 := some 0, t3 := some 0 }).disc.t3 = some 0 ∧
      (4 : W64).toNat < (ptpState { master := some 5, prio := 5 }).disc.prio.toNat ∧
      (ptpState { master := some 5, prio := 5 }).disc.prio.toNat < (6 : W64).toNat ∧ (ptpState { master := some 5, prio := 5 }).disc.syncAt = none) := by
  decide +kernel

/-- Context 0 is replayed: the ring's record 0 is a command of it. -/
def replayState (turn l : W64) : State :=
  { prog 0 with csr := [(0x0D00010, BitVec.ofNat 64 (2 ^ 63))], db := { holds := true, stop := 1, cmdTurn := turn }, ledger := l,
                hbm := { mem := memWrite [] 0x6000000000 [0, 0, 0, 0, 0, 0, 2, 0] } }

theorem wit_DaybookRecordsAndReplays :
    (booted {} = false ∧ (prog 0).ledger.toNat < (prog 0).db.extend.toNat + 2 ^ 47) ∧
    (let s := { prog 0 with ledger := 0x800000000000 }
     booted s = true ∧ s.db.extend.toNat + 2 ^ 47 = s.ledger.toNat ∧ s.db.lost = 0 ∧
     (s.db.times.filter fun t => t.toNat / 1000 = s.ledger.toNat / 1000).length < 256) ∧
    (csrBit (prog 0) 0x0D00010 63 = false ∧ (2 ^ 63 : W64).getLsbD 63 = true ∧ csrBit (replayState 0 0) 0x0D00010 63 = true) ∧
    (let s := replayState 5 10000005
     s.db.holds = true ∧ overdue s 2 s.db.cmdAt s.db.cmdTurn = true ∧ overdue (replayState 5 10000004) 2 0 5 = false ∧ (prog 0).db.holds = false) := by
  decide +kernel
/-- An image whose handle 20 is a durable ciphertext of one limb, 21 a durable assertion, 22 a result in HBM. -/
def releaseImage : Image where
  roleMap := [0]
  roles := [(0, {})]
  chains := [{ id := 0, logN := 12, qcount := 1, primes := [40961], roots := [243] }]
  claims := { sharedLen := 512 }
  handles := [{ handle := 20, layout := 1, place := 2, chain := 0, polys := 2, flags := 2, pitch := 256, lines := 512, base := 0x1000000 },
    { handle := 21, kind := 4, place := 2, flags := 2, pitch := 1, lines := 1, base := 0x1020000 },
    { handle := 22, kind := 4, place := 2, pitch := 256, lines := 256, base := 0x1030000 }]

/-- Gate slot 3 holds a policy of one party for context 63's program, whose assertion has a SERIAL; `left` releases are left. -/
def releaseState (digests : List (List Byte)) (serial left : Nat) : State :=
  let p : Policy := { digests := digests, primes := primesDigest { qcount := 1, primes := [40961] } 1, budget := 1 }
  let s : State := { prog 0 with tack := { slots := [(3, { policy := some p, left := left })] }, ym := {} }
  memLines { s with ctxs := [(63, { st := .stopped, image := some releaseImage })] }
    [(0x1020000, ([0x00524C41, 20, 0x3B00, 0xFFFFFFFF, serial].map (BitVec.ofNat 36)) ++ List.replicate 11 0)]

/-- A request of context 63 for slot 3 with handles 20, 21 and 22 and party 1. -/
def releaseWord : W64 := BitVec.ofNat 64 (2 ^ 63 + 63 * 2 ^ 56 + 3 * 2 ^ 54 + 20 * 2 ^ 42 + 21 * 2 ^ 30 + 22 * 2 ^ 18 + 1)
/-- The same request as a release. -/
def releaseAsked : Release := { c := 63, slot := 3, ct := 20, as_ := 21, out := 22, parties := 1 }

/-- The reason that the checks give in a state, its handles read. -/
def reasonOf (s : State) : Option Nat :=
  match releaseHandles s releaseAsked, (gateSlot s 3).policy with
  | some (dc, da, _, ch, _), some p => some (releaseReason s releaseAsked p (lineAt s da (currentBase s da 0) 0) dc da ch)
  | _, _ => none

theorem wit_ReleaseGateChecksAndReleases_request :
    (releaseWord.getLsbD 63 = true ∧ tackRuns (prog 0) = true ∧ csrBit (prog 0) rgReq 62 = false ∧
      csrBit { prog 0 with csr := [(rgReq, 2 ^ 62)] } rgReq 62 = true ∧ ({ prog 0 with tack := { observed := true } } : State).tack.observed = true ∧
      (gateSlot (prog 0) 3).policy = none) ∧
    (bitsOf releaseWord.toNat 61 56 = 63 ∧ bitsOf releaseWord.toNat 55 54 = 3 ∧ bitsOf releaseWord.toNat 53 42 = 20 ∧
      bitsOf releaseWord.toNat 41 30 = 21 ∧ bitsOf releaseWord.toNat 29 18 = 22 ∧ bitsOf releaseWord.toNat 15 0 = 1) ∧
    (let s := releaseState [zero32] 1 1
     tackRuns s = true ∧ s.tack.observed = false ∧ (gateSlot s 3).policy.isSome = true ∧ (ctx s 63).st = .stopped ∧
     ((gateSlot s 3).policy.any fun p => p.digests.contains (cmrOf s 63)) = true ∧ reasonOf s = some 0) ∧
    (releaseHandles { releaseState [] 1 1 with ctxs := [(63, { st := .stopped })] } releaseAsked = none ∧
      (ctx { releaseState [] 1 1 with ctxs := [(63, { st := .staged })] } 63).st = .staged) ∧
    ((gateSlot (releaseState [] 1 1) 3).policy.any fun p => !p.digests.contains (cmrOf (releaseState [] 1 1) 63)) = true ∧
    reasonOf (releaseState [zero32] 0 1) = some 6 ∧ reasonOf (releaseState [zero32] 1 0) = some 0x0A := by decide +kernel

/-- The release waits; context 63 is the one that runs where `runs`. -/
def gateState (runs : Bool) (policy : Bool) : State :=
  let s := releaseState [zero32] 1 1
  { s with tack := { s.tack with release := some { releaseAsked with serial := 1 }, slots := if policy then s.tack.slots else [] },
           stalls := [], ym := if runs then { running := some 63 } else {} }

theorem wit_ReleaseGateChecksAndReleases :
    ((prog 0).tack.release = none ∧ choicePoint { gateState true true with ctxs := [(63, { aborting := true })] } = false ∧
      gateFaults.contains (0x0101 : BitVec 16).toNat = false) ∧
    (∀ b : Bool, let s := gateState b true
     let s1 := scanBoundary (retireAwaiting s)
     let s0 := if runningNo s1 = 64 then s1 else switchOut s1 (runningNo s1)
     s.tack.release = some { releaseAsked with serial := 1 } ∧ choicePoint s = true ∧ (gateSlot s 3).policy.isSome = true ∧
     (gateSlot (gateState b false) 3).policy = none ∧ (runningNo s1 = 64 ↔ b = false) ∧
     (releaseHandles s0 { releaseAsked with serial := 1 }).isSome = true) ∧
    (gateFaults.contains (0x0802 : BitVec 16).toNat = true ∧ gateFaults.contains (0 : BitVec 16).toNat = true ∧ slotBusy (gateState false true) 3 = true ∧
      slotBusy (gateState false true) 0 = false) ∧
    (bitsOf (BitVec.ofNat 64 (2 ^ 63 + 2 ^ 60 + 3 * 2 ^ 58) : W64).toNat 61 60 = 1 ∧ bitsOf (2 ^ 63 : W64).toNat 61 60 = 0 ∧
      (2 ^ 63 : W64).getLsbD 63 = true ∧ tackRuns (prog 0) = true) ∧
    (shareVerdict (prog 0) 0 0 0).1 = 6 ∧ (gateSlot (releaseState [] 1 1) 3).policy.isSome = true := by decide +kernel

/-- A payload: a policy of one party over one prime of degree 4096, and a share of zeros. -/
def policyHead : List Byte :=
  [(0, [0x52#8, 0x47, 0x50, 0x01]), (0, [0x52, 0x47, 0x50, 0x01, 1, 1, 1, 12]), (0x10, [1]),
   (0x20, primesDigest { qcount := 1, primes := [40961] } 1), (0x40, [1])].foldl (fun b f => putBytes b f.1 f.2) (List.replicate 128 (0 : Byte))
/-- That payload whole. -/
def sharePayload : List Byte := policyHead ++ List.replicate 32768 0

/-- A share package's handle is 23, VALID, of context 63. -/
def shareState : State :=
  let i : Image := { releaseImage with handles := [{ handle := 23, kind := 4, place := 2, flags := 1, pitch := 1, lines := 1, base := 0x1000000 }] }
  { prog 0 with ctxs := [(63, { st := .staged, image := some i, handles := [(23, { valid := true })] })] }

theorem leNat_zeros (n : Nat) : leNat (List.replicate n (0 : Byte)) = 0 := by
  induction n with
  | zero => rfl
  | succ n ih => simp_all [leNat, List.replicate_succ]

theorem share_zeros (ch : Chain) (p : Policy) (n : Nat) (h : ∀ i < p.qcount, 0 < chainPrime ch i) :
    shareInRange ch p (List.replicate n 0) = true := by
  simp only [shareInRange, List.all_eq_true, List.mem_range, fieldAt, List.drop_replicate, List.take_replicate, leNat_zeros, decide_eq_true_eq]
  exact fun i hi k _ => h i hi

/-- An install succeeds where the cipher (uninterpreted) opens the package of handle 23 as that payload. -/
theorem wit_ReleaseGateChecksAndReleases_installed
    (h : openPackage shareState 2 ((List.range 1).flatMap fun l => lineBytes (lineAt shareState (decl (imageOf shareState 63) 23) 0x1000000 l)) 72 =
      some sharePayload) : shareVerdict shareState 0 63 23 = (1, sharePayload) := by
  have hb : slotBusy shareState 0 = false := by decide +kernel
  have ho : shareState.tack.observed = false := by decide +kernel
  have hp : (gateSlot shareState 0).policy.isSome = false := by decide +kernel
  have hh : shareHandle shareState 63 23 = some (decl (imageOf shareState 63) 23) := by decide +kernel
  have hl : (decl (imageOf shareState 63) 23).lines = 1 := by decide +kernel
  have hba : (decl (imageOf shareState 63) 23).base = 0x1000000 := by decide +kernel
  have hok : policyOk sharePayload = true := by decide +kernel
  have hpb : policyBytes sharePayload = 128 := by decide +kernel
  have hq : (policyOf sharePayload).qcount = 1 := by decide +kernel
  have hn : (policyOf sharePayload).logN = 12 := by decide +kernel
  have hlen : sharePayload.length = 32896 := by
    have : policyHead.length = 128 := by decide +kernel
    rw [sharePayload, List.length_append, List.length_replicate, this]
  have hdrop : sharePayload.drop 128 = List.replicate 32768 0 := by
    have : policyHead.length = 128 := by decide +kernel
    rw [sharePayload, List.drop_left' this]
  have hc : policyChain (imageOf shareState 63) (policyOf sharePayload) = some { id := 0, logN := 12, qcount := 1, primes := [40961], roots := [243] } := by
    decide +kernel
  have hr : shareInRange { id := 0, logN := 12, qcount := 1, primes := [40961], roots := [243] } (policyOf sharePayload) (List.replicate 32768 0) = true := by
    exact share_zeros _ _ _ (by rw [hq]; decide +kernel)
  simp only [shareVerdict, hb, ho, hp, hh, hl, hba, h, hok, hpb, hlen, hq, hn, hdrop, hc, hr]
  simp
/-- The curve y^2 = x^3 + 2x + 1 modulo 5, which has seven points, and one whose modulus is even. -/
def tinyCurve (p : Nat) : CurveParams := { weierstrass := true, p := p, n := 7, h := 1, a := 2, b := 1, gx := 0, gy := 1 }
/-- The curve y^2 = x^3 + x^2 + x modulo 5, on which 0 is the u-coordinate of a point of order 2. -/
def tinyMont : CurveParams := { weierstrass := false, p := 5, n := 3, h := 2, a := 1, b := 1, gx := 2, gy := 0 }

/-- The Smithy with an operation and some operands. -/
def smithyState (o : Option SmithyOp) (l : W64) : State :=
  { prog 0 with smithy := { x := [(1, 2), (2, 1), (3, 0), (4, 1)], curves := [(0, some (tinyCurve 5)), (1, some tinyMont)], op := o }, ledger := l }

/-- Every base passes for a small prime. -/
theorem small_prime (q : Nat) (hq : q % 2 = 1) (h2 : 2 < q) (h : ∀ v < q, millerRabin q v = true) (h0 : millerRabin q 2 = true) (bases : List Nat) :
    probablePrime bases q = true := by
  simp only [probablePrime, hq, h2, List.all_cons, h0, List.all_map, decide_true, Bool.true_and, List.all_eq_true, Function.comp]
  exact fun v _ => h _ (Nat.mod_lt _ (by omega))

theorem tinyCurve_ok (bases : List Nat) : curveOk bases (tinyCurve 5) = true := by
  have h5 : probablePrime bases 5 = true := small_prime 5 rfl (by decide) (by decide +kernel) (by decide +kernel) bases
  have h7 : probablePrime bases 7 = true := small_prime 7 rfl (by decide) (by decide +kernel) (by decide +kernel) bases
  simp only [curveOk, show (tinyCurve 5).p = 5 from rfl, show (tinyCurve 5).n = 7 from rfl, h5, h7]
  decide +kernel

theorem wit_SmithyComputesInFixedTime :
    (smithyFree {} = false ∧ smithyFree (smithyState (some {}) 0) = false ∧ smithyFree (smithyState none 0) = true) ∧
    (nget none (smithyState none 0).smithy.curves 0 = some (tinyCurve 5) ∧ (tinyCurve 5).weierstrass = true ∧
      nget none (smithyState none 0).smithy.curves 1 = some tinyMont ∧ tinyMont.weierstrass = false ∧
      (smithyX (smithyState none 0) (curveClass tinyMont) 3 = 0) ∧ (mLadder tinyMont 2 1).2 ≠ 0) ∧
    ((List.range 9).any (fun k => k ≠ 0 && decide ((mLadder tinyMont k 2).2 = 0) && isSquare (montRhs tinyMont 2) 5) = true ∧
      (∀ c, nget none (prog 0).smithy.curves 0 = some c → c.weierstrass = false) ∧ (∀ c, nget none (prog 0).smithy.curves 0 = some c → c.weierstrass = true)) ∧
    (let o : SmithyOp := { cycles := 12 }
     12 * 10 ≤ (now (smithyState (some o) 10) - 0) * 12 ∧ ¬12 * 10 ≤ (now (smithyState (some o) 9) - 0) * 12 ∧
     (smithyState (some o) 10).smithy.op = some o ∧ (smithyState none 0).smithy.op = none) ∧
    (∀ bases, curveOk bases (tinyCurve 5) = true) ∧ ∀ bases, curveOk bases (tinyCurve 4) = false :=
  ⟨by decide +kernel, by decide +kernel, ⟨by decide +kernel, nofun, nofun⟩, by decide +kernel, tinyCurve_ok, fun bases => by
    have h : probablePrime bases 4 = false := rfl
    simp only [curveOk, show (tinyCurve 4).p = 4 from rfl, h, Bool.false_and]⟩

/-- A responder that transports reach, at a stage, with sessions. -/
def spdmState (stage : Nat) (ses : List Session) : State :=
  { bridge with ostler := { up := true, eid := 8, da := some 8 }, tack := { conns := [(.doe, stage), (.i3c, stage)], sessions := ses } }

theorem wit_SpdmAnswersByStage :
    (tackRuns {} = false ∧ reaches (prog 0) .doe = false ∧ tackRuns (spdmState 0 []) = true ∧ reaches (spdmState 0 []) .doe = true ∧
      reaches (spdmState 0 []) .i3c = true ∧ stageOf (spdmState 0 []) .doe = 0 ∧ stageOf (spdmState 1 []) .doe = 1 ∧
      stageOf (spdmState 2 []) .doe = 2 ∧ stageOf (spdmState 3 []) .i3c = 3) ∧
    ((measurement (spdmState 3 []) 1).isSome = true ∧ (measurement (spdmState 3 []) 16).isSome = true ∧ (measurement (spdmState 3 []) 0x41).isSome = true ∧
      (measurement (spdmState 3 []) 0x80).isSome = true ∧ measurement (spdmState 3 []) 17 = none) ∧
    ((spdmState 3 (List.replicate 4 {})).tack.sessions.length = 4 ∧ (spdmState 3 (List.replicate 3 {})).tack.sessions.length = 3 ∧
      (spdmState 3 []).smithy.op = none ∧ ({ spdmState 3 [] with smithy := { op := some {} } } : State).smithy.op.isSome = true ∧
      pointOk secp384r1 0 0 = false ∧ pointOk secp384r1 secp384r1.gx secp384r1.gy = true) ∧
    (sessionOf (spdmState 3 []) .doe 1 = none ∧ sessionOf (spdmState 3 [{ id := 1, live := true }]) .i3c 1 = none ∧
      (sessionOf (spdmState 3 [{ id := 1 }]) .doe 1).map (·.live) = some false ∧
      (sessionOf (spdmState 3 [{ id := 1, live := true }]) .doe 1).map (·.live) = some true) ∧
    (spdmState 3 []).gate.linkUp = true ∧ (spdmState 3 []).gate.bridge = true ∧ (prog 0).gate.linkUp = false := by decide +kernel

theorem wit_DebugPortSetsObserved :
    (prog 0).rst.testEn = false ∧ ({ prog 0 with rst := { testEn := true } } : State).rst.testEn = true ∧
    ({ prog 0 with tack := { observed := true } } : State).tack.observed = true ∧ (prog 0).tack.observed = false ∧
    tapDefined (0x05 % 256) = false ∧ ({ prog 0 with ostler := { sram := [(0xFFFFF, 3)] } } : State).ostler.sram.find? (fun e => e.1 = 0xFFFFF) = some (0xFFFFF, 3) ∧
    inSecure (0xA000900000 - 0xA000000000) = true ∧ inSecure (0xA000AFFFFF - 0xA000000000) = true := by decide +kernel
/-- A RESET flit of a level, with its code under a key of ones. -/
def resetFlitBytes (level stamp : Byte) : List Byte :=
  let b := flit [(4, [9]), (8, [0xFF, 0x7F]), (16, [level]), (24, [stamp])]
  putBytes b 32 (resetMac 1 b)

/-- The device has taken it, and holds that key; the Ledger is locked. -/
def resetFlitState (level : Byte) (obs : Bool) : State :=
  { gotFlit (resetFlitBytes level 5) with tack := { fabric := some 1, observed := obs }, csr := [(0x0100020, 0x5F), (ledgerStatus, BitVec.ofNat 64 (3 * 2 ^ 62))], ledger := 5 }

/-- An established session, through which a management message asks. -/
def mgState : State := { prog 0 with ostler := { up := true }, tack := { sessions := [{ id := 1, via := .i3c, live := true }] } }
/-- The header of that message. -/
def mgHdr : MgmtHdr := { via := .i3c, secured := true, tag := 5 }

theorem wit_ResetsReachTheirDomains_asks :
    Asks (prog 0) .powerOnReset 3 0 ∧ Asks (prog 0) (.sysRstN 1000) 2 1 ∧
    Asks { bridge with csr := [(0x0100008, 0x80000000)] } (.perstN 1000) 2 2 ∧
    Asks { prog 0 with ledger := 2000000000 } .watchdogExpiry 2 3 ∧ Asks mgState (.mgmtReset mgHdr 1) 1 4 ∧
    Asks (resetFlitState 2 false) (.resetFlit 0) 2 5 ∧ Asks (prog 0) (.thermalTrip 0 12001) 2 6 ∧ Asks (prog 0) (.brownout 0 1249 2001) 2 7 ∧
    Asks (prog 0) .yardmasterFatalError 1 8 ∧ Asks (prog 0) (.clockUnstable 3) 2 9 ∧
    (sequenceRuns ({ rst := { level := 2 } } : State) = true ∧ sequenceRuns (prog 0) = false ∧ 2 < ({ rst := { level := 3 } } : State).rst.level) := by
  refine ⟨by simp [Asks], ?_, ?_, ?_, ?_, ?_, ?_, ?_, by simp [Asks], ?_, by decide +kernel⟩
  · exact .inr (.inl ⟨1000, by decide +kernel⟩)
  · exact .inr (.inr (.inl ⟨1000, by decide +kernel⟩))
  · exact .inr (.inr (.inr (.inl (by decide +kernel))))
  · exact .inr (.inr (.inr (.inr (.inl ⟨mgHdr, 1, by decide +kernel⟩))))
  · exact .inr (.inr (.inr (.inr (.inr (.inl ⟨0, { bytes := resetFlitBytes 2 5 }, by decide +kernel⟩)))))
  · exact .inr (.inr (.inr (.inr (.inr (.inr (.inl ⟨0, 12001, by decide +kernel⟩))))))
  · exact .inr (.inr (.inr (.inr (.inr (.inr (.inr (.inl ⟨0, 1249, 2001, by decide +kernel⟩)))))))
  · exact .inr (.inr (.inr (.inr (.inr (.inr (.inr (.inr (.inr ⟨3, by decide +kernel⟩))))))))

theorem wit_ResetsReachTheirDomains :
    ((prog 0).gate.bridge = false ∧ csrBit bridge 0x0100008 31 = false ∧ bridge.gate.bridge = true) ∧
    (csrField { prog 0 with csr := [(0x0100008, 0)] } 0x0100008 30 16 = 0 ∧ booted {} = false ∧
      now { prog 0 with ledger := 1999999999 } < (prog 0).rst.wdogAt.toNat + 1000000 * csrField (prog 0) 0x0100008 30 16) ∧
    (let s := resetFlitState 2 true
     (rxEntry s 0).isSome = true ∧ flitType (resetFlitBytes 2 5) = 9 ∧ resetFlitOk s (resetFlitBytes 2 5) = false) ∧
    (let t : State := { rst := { tripped := true } }
     t.rst.tripped = true ∧ t.rst.phase = .asserted ∧ ({ rst := { testEn := true } } : State).rst.testEn = true ∧
     (State.reset.rst.phase = .asserted ∧ State.reset.rst.tripped = false ∧ State.reset.rst.testEn = false ∧ 2 ≤ State.reset.rst.level ∧
       railsGood State.reset = true ∧ railsGood { State.reset with supply := { rails := [(0, some 1399)] } } = false ∧
       railsGood { State.reset with supply := { rails := [(0, some 1400)] } } = true)) ∧
    (prog 0).rst.phase ≠ .asserted := by decide +kernel

theorem wit_BootRunsVerifiedImages :
    (let s : State := { rst := { phase := .released } }
     s.rst.phase = .released ∧ s.rst.recovery = false ∧
     bootSlot s [(true, true), (false, true), (true, false)] 1 = some false ∧ bootSlot s [(true, true), (false, true), (true, false)] 2 = some true ∧
     bootSlot s [(true, true), (false, true), (true, false)] 3 = some false ∧ bootSlot s [(true, true), (false, false)] 2 = none ∧
     bootSlot s [] 1 = none ∧ bootSlot s [] 3 = none ∧ s.rst.level ≠ 1) ∧
    (({ rst := { phase := .released, level := 1 } } : State).rst.level = 1 ∧ (prog 0).rst.phase ≠ .released ∧
      ({ rst := { phase := .released, recovery := true } } : State).rst.recovery = true) := by decide +kernel
/-- A block reset in progress on stall 0's Matrix Array; an instruction is in it where `busy`. -/
def blkState (blk : Option (Nat × Nat × Bool)) (busy : Bool) (l : W64) : State :=
  let x : Stall := { testStall 0 {} with entries := if busy then [(3, some { engine := .ma })] else [] }
  { prog 0 with stalls := [(0, x)], rst := { (prog 0).rst with blk := blk, blkAt := 0 }, ledger := l }

/-- A position's state. -/
def posState (st : PosSt) (scan : W64) : State := { prog 0 with positions := [(831, { st := st, scan := bitOf scan.toNat 62 })], csr := [(0x0100020, 0x5F), (scanCtl, scan)] }

theorem wit_BlockResetsAndScans :
    (let s := blkState none false 0
     (2 ^ 63 : W64).getLsbD 63 = true ∧ (blkState (some (1, 0, false)) true 0).rst.blk ≠ none ∧ s.rst.blk = none ∧
     blockAllowed s 1 832 = false ∧ blockAllowed s 8 0 = false ∧ blockAllowed s 0 0 = false ∧ blockAllowed s 1 831 = true ∧
     blockIdle s 1 0 = true ∧ blockAllowed (blkState none true 0) 1 0 = true ∧ blockIdle (blkState none true 0) 1 0 = false) ∧
    (0 + 1000 * csrField (blkState none true 0) 0x0100008 15 0 = 100000 ∧ now (blkState (some (1, 0, false)) true 100000) = 100000 ∧
      now (blkState (some (1, 0, false)) true 99999) < 100000 ∧ (blkState (some (1, 0, true)) false 0).rst.blk = some (1, 0, true)) ∧
    (csrBit (posState .spare 0) scanCtl 62 = false ∧ csrBit (posState .spare (BitVec.ofNat 64 (2 ^ 62 + 831))) scanCtl 62 = true ∧
      (position (posState .spare 0) 831).st = .spare ∧ (position (posState .enabled 0) 831).st ≠ .spare ∧
      scanning (posState .outOfService (BitVec.ofNat 64 (2 ^ 62 + 831))) = some 831 ∧ scanning (posState .outOfService 0) = none ∧
      (position (posState .outOfService (BitVec.ofNat 64 (2 ^ 62 + 831))) 831).st = .outOfService) := by decide +kernel

/-- Component 3 was activated at 0, from slot B. -/
def actState (l : W64) : State := { prog 0 with rst := { (prog 0).rst with acts := [(3, some { oldB := true })] }, ledger := l }

theorem wit_FirmwareActivatesAndReverts :
    (tackRuns {} = false ∧ tackRuns (prog 0) = true ∧ csrField (prog 0) fwSlot 6 4 = 0 ∧
      (let s := { prog 0 with csr := [(fwSlot, 0x40)] }
       csrField s fwSlot 6 4 ≠ 0 ∧ csrBit s fwSlot 6 = true ∧ csrBit s fwSlot 4 = false)) ∧
    (nget none (actState 0).rst.acts 1 = none ∧ nget none (actState 0).rst.acts 3 = some { oldB := true } ∧
      0 + 10000000000 < now (actState 10000000001) ∧ now (actState 10000000000) ≤ 0 + 10000000000) ∧
    (marginDue { mgState with csr := [(stallCsr 0 0x400, 5)] } = true ∧ mgState.ostler.up = true ∧ mgState.rst.recovery = false ∧ (prog 0).ostler.up = false ∧
      ({ rst := { recovery := true } } : State).rst.recovery = true) := by
  decide +kernel

theorem wit_SupplyEpisodesMarkStalls :
    (csrBit (prog 0) railStatus 31 = false ∧ csrBit { prog 0 with csr := [(railStatus, 0xC0000000)] } railStatus 31 = true ∧ booted (prog 0) = true ∧
      booted {} = false) ∧
    (brownsOut 0 1399 50001 = true ∧ brownsOut 0 1399 50000 = false ∧ brownsOut 0 1249 2001 = true ∧ brownsOut 0 1250 2001 = false ∧ brownsOut 0 1249 2000 = false ∧ brownsOut 6 0 50000 = false ∧
      brownsOut 6 0 50001 = true) ∧
    (powered (prog 0) 0 = true ∧ powered (prog 0) 831 = false ∧ (prog 0).supply.hot.contains 0 = false ∧
      ({ prog 0 with supply := { hot := [0] } } : State).supply.hot.contains 0 = true) := by decide +kernel

/-- Two reports wait; the Ostler's FIFO holds n more. -/
def reportState (n : Nat) (up : Bool) : State :=
  { prog 0 with reports := [⟨1025, 0x0A04, 0, 0xFF, 5, [], 0⟩, ⟨0, 0x0101, 0, 0, 5, [], 0⟩], ostler := { up := up, fifo := List.replicate n ⟨0, 0, 0, 0, 0, [], 0⟩ },
                csr := [(0x0B00018, 0x402)] }

theorem wit_FaultReportsReachOstler :
    (let s := reportState 0 true
     s.reports[2]? = none ∧ s.reports[1]? = some ⟨0, 0x0101, 0, 0, 5, [], 0⟩ ∧ reportNext s.reports 1 ⟨0, 0x0101, 0, 0, 5, [], 0⟩ = true ∧
     reportNext s.reports 0 ⟨1025, 0x0A04, 0, 0xFF, 5, [], 0⟩ = false ∧ csrBit s 0x0B00018 1 = true ∧ csrBit s 0x0B00018 10 = true ∧
     csrBit { s with csr := [(0x0B00018, 0)] } 0x0B00018 1 = false ∧ s.ostler.fifo = [] ∧ s.ostler.up = true) ∧
    ((reportState 256 true).ostler.fifo.length = 256 ∧ (reportState 255 false).ostler.fifo.length < 256 ∧ (reportState 255 false).ostler.up = false) := by
  decide +kernel

/-- The management port is up, with a leased address or a static one. -/
def portNet (ip : BitVec 32) (static : W64) (l : W64) : State :=
  { prog 0 with ostler := { up := true, link := true, ip := ip, lease := 2 }, csr := [(0x0B00018, static)], ledger := l }

theorem wit_OstlerAnswersItsPorts :
    ((prog 0).ostler.up = false ∧ (portNet 0 0 0).ostler.telem = [] ∧
      (let s := { portNet 0 0 10000000 with ostler := { up := true, telem := leBytes 48 0 } }
       fieldAt s.ostler.telem 0 8 + 1000000 * telemMs s = now s ∧ s.ostler.telem ≠ []) ∧
      (let s := { portNet 0 0 9999999 with ostler := { up := true, telem := leBytes 48 0 } }
       now s < fieldAt s.ostler.telem 0 8 + 1000000 * telemMs s)) ∧
    (mctpReaches (prog 0) .i3c = false ∧ mctpReaches (portNet 7 0 0) .i3c = true ∧ mctpReaches (portNet 7 0 0) (.net 9) = true ∧
      mctpReaches bridge .doe = false ∧ mctpTypes.contains (0x7E : Byte).toNat = true ∧ mctpTypes.contains (0x7D : Byte).toNat = false) ∧
    (reaches (prog 0) .doe = false ∧ reaches bridge .doe = true) ∧
    (ipOf (portNet 7 0 0) = 7 ∧ (7 : BitVec 32) ≠ 8 ∧ ipOf (portNet 0 0 0) = 0 ∧ dhcpOn (portNet 7 0 0) = true ∧
      dhcpOn (portNet 7 (BitVec.ofNat 64 (2 ^ 32)) 0) = false) ∧
    (let t (l : W64) := now (portNet 7 0 l) - (portNet 7 0 l).ostler.leaseAt.toNat
     2 * t 999999999 < 1000000000 * (portNet 7 0 0).ostler.lease ∧ 1000000000 * (portNet 7 0 0).ostler.lease ≤ 2 * t 1000000000 ∧
     t 1999999999 < 1000000000 * (portNet 7 0 0).ostler.lease ∧ 1000000000 * (portNet 7 0 0).ostler.lease ≤ t 2000000000) ∧
    csrField (portNet 0 0 0) 0x0B00018 63 32 = 0 ∧ csrField (portNet 0 (BitVec.ofNat 64 (2 ^ 32)) 0) 0x0B00018 63 32 ≠ 0 := by decide +kernel

theorem wit_ManagementMessagesAnswered :
    (mctpReaches (prog 0) .i3c = false ∧ mctpReaches mgState mgHdr.via = true ∧ inSession mgState mgHdr = true ∧
      inSession mgState { mgHdr with secured := false } = false ∧ mgState.rst.recovery = false ∧
      (let r := { mgState with rst := { recovery := true } }
       r.rst.recovery = true ∧ mctpReaches r mgHdr.via = true ∧ inInactive r 0xFFFE = false ∧
       (List.range 256).any (fun k => inInactive r (0x100000 * k)) = true)) ∧
    (csrOffset 0xB000000000 4 = none ∧ csrOffset 0xA000000000 5 = none ∧ csrOffset 0xAFFFFFFFF8 8 = some 0xFFFFFFFF8 ∧ csrOffset 0xA000006400 4 = some 0x6400) ∧
    (mgState.ostler.telem = [] ∧ ({ mgState with ostler := { up := true, telem := [1] } } : State).ostler.telem ≠ []) ∧
    (4096 < (List.replicate 4097 (0 : Byte)).length ∧ flashSize < 0xFFFFFFF + [0#8, 0#8].length ∧ flashClosed mgState (0xFFFE + 1) = true ∧
      flashClosed mgState 0x400000 = true) ∧
    (0xFFFF000 % 4096 = 0 ∧ 0xFFFF000 + 4096 = flashSize ∧
      ∀ k, k < 2 → flashClosed mgState (0xFFFF000 + k) = false) ∧
    (mgState.fuses.svnFloor < (1 : Byte).toNat ∧ (0 : Byte).toNat ≤ mgState.fuses.svnFloor ∧ (7 : Byte).toNat < 8 ∧ 8 ≤ (8 : Byte).toNat) := by
  decide +kernel

theorem wit_ObservedAndFusesLast :
    (∃ u, exec (.svnRaise mgHdr 1) { mgState with tack := { mgState.tack with observed := true } } = .next u) := ⟨_, rfl⟩
/-! ### Well-formedness: an ill-formed command for each check -/

/-- The rows of R125. -/
def scalarRows : List (Position → TeamIx → Instr) :=
  [.flSet, .flClr, .flMset, .flMclr, .barArrive, .barWait, .hdlSet, .hdlFetch, .cntSet, .cntAdd, .cntQdepth, .cmpArm, .cmpDisarm, .timeFence, .timeBase,
   .timeRead, .br, .brCnt, .brFlag, .loopSet, .loopInc, .loopDo, .teamYield, .teamCfg, .halt]

theorem test_no_such_position : ((engineRows.map (·.2.2) ++ scalarRows).all fun i => !(i 832 0).wf && (i 831 3).wf) = true := by decide

theorem test_no_such_position_event :
    ([Instr.engineInstructionComplete 832 0 .clean, .arbitration 832 0 0 zeroLine zeroLine 0, .fenceRelease 832 0, .comparatorFire 832 0,
      .flagTimeout 832 0, .arrivalPosted 832 0, .stallGate 832, .stallNap 832, .stallWake 832, .ageingMeasurement 832 0, .paritySweep 832,
      .loftWindowAccess .pf 832 0 (.read 0), .drvComplete 832 0, .stallPwrRead 832, .thermalLimit 832 0, .thermalEpisodeEnd 832 0].all
      fun i => !i.wf) = true := by decide

theorem test_out_of_range :
    ([Instr.engineInstructionComplete 0 16 .clean, .arbitration 0 16 0 zeroLine zeroLine 0, .arbitration 0 0 10912 zeroLine zeroLine 0,
      .arbitration 0 0 0 [] zeroLine 0, .arbitration 0 0 0 zeroLine [] 0, .arbitration 0 0 0 zeroLine zeroLine 8191, .arrivalPosted 0 192,
      .loftWindowAccess .pf 0 0xFFFFF (.read 2), .granaryWindowAccess .pf 0xFFFFFFF (.write [0, 0]), .drvComplete 0 16, .rowRepair 0 0 0 true [(2 ^ 28, {})],
      .intakePacket 0 0xFFFFFF (.read 2), .intakePacket 1 0x3FFF (.read 2), .intakePacket 0 4095 (.write [0, 0]),
      .hbmLoopDone 0 (2 ^ 32), .apertureAccess 0x7FFFFFFFFF (.read 2) [], .registerWrite .pf 0 2 0,
      .getCertificate .doe 8 0 0, .challenge .doe 8 (List.replicate 32 0), .challenge .doe 0 [], .getMeasurements .doe 256 (List.replicate 32 0),
      .getMeasurements .doe 0 [], .quote .doe [] 0, .modmul 0 0 0 0 0, .modmul 17 0 0 0 0, .modexp 0 0 0 0 0, .modexp 17 0 0 0 0,
      .boot true [] 0, .clockUnstable 836, .csrRead mgHdr 0 256, .csrWrite mgHdr 0 256 0, .subscribe mgHdr 256 0 0, .subscribe mgHdr 0 0 256,
      .flashWrite mgHdr (2 ^ 32) [],
      .flashWrite mgHdr 0 (List.replicate 4097 0), .pciExpressLinkUp 16 6 64 0, .pciExpressLinkUp 3 6 0 0].all fun i => !i.wf) = true := by decide +kernel

/-! ### The worked examples of the spec -/

/-- The EE.ADD of the example in 04 under Encodings. -/
def eeAddExample : W128 := 0x00000480000110000040E2880019D240

theorem test_eeAdd_fields : opcodeOf eeAddExample = 0x40 ∧ nestOf eeAddExample = 2 ∧ mactOf eeAddExample = 2 ∧ mOf eeAddExample = true ∧
    hA eeAddExample = 0x010 ∧ hB eeAddExample = 0x011 ∧ hD eeAddExample = 0x012 ∧ offA eeAddExample = 0 ∧
    actOf eeAddExample = BitVec.ofNat 15 (1 + 4 * 20 + 1024 + 2048 * 3) := by decide +kernel

theorem test_loopSet_example :
    (let u := after (.loopSet 0 0) (prog 0x000000000000010000000100100000F0)
     let l := (getTeam (stall u 0).live 0).l0
     l.count = 4096 ∧ l.incA = 1 ∧ l.incB = 0 ∧ l.incD = 1 ∧ (getTeam (stall u 0).live 0).pc = 1) := by decide +kernel

theorem test_loopInc_example :
    (let l := (getTeam (stall (after (.loopInc 0 0) (prog 0x000000000000000000000000100005F1)) 0).live 0).l1
     l.incB = 0x1000 ∧ l.incA = 0 ∧ l.incD = 0) := by decide +kernel

theorem test_cmpArm_example :
    (let k := cmpOf (stall (after (.cmpArm 0 0) (prog 0x0000000000000000000000001F28002AD4)) 0).live 2
     k.armed = true ∧ k.ctr = 5 ∧ k.value = 31 ∧ k.flag = 0x28) := by decide +kernel

theorem test_brv_example : brv 16 62 = 31744 := by decide

theorem test_beacon_example : beaconOffset 1001350 1000000 1000350 1001250 = 225 := by decide

theorem test_dseq_example : after16 0x0101 0x0100 = true ∧ after16 0xFFF5 0x0100 = false := by decide

theorem test_scatteracc_example :
    (let ix0 : Line := (List.range 16).map fun i => if i = 3 ∨ i = 7 then 5 else BitVec.ofNat 36 (16 + i)
     let ix1 : Line := (List.range 16).map fun i => if i = 2 then 5 else if i = 10 then 64 else if i = 11 then 0xFFFFFFFF else BitVec.ofNat 36 (32 + i)
     let a0 : Line := (List.range 16).map fun i => if i = 3 then 7 else if i = 7 then 9 else 0
     let a1 : Line := (List.range 16).map fun i => if i = 2 then 11 else 0
     let d0 : Line := (List.range 16).map fun i => if i = 5 then 40 else 0
     let put (n : Nat) (l : Line) : Nat × LoftLine := (n, { words := l, valid := true, par := parityOf l })
     let team : Team := { st := .ready, l0 := { count := 2, incA := 1, incB := 1 } }
     let s (op : Nat) : State := { progWith (e3 op 4 1 5 [(8, 1)]) { t0 := team } with loft := [put 4 ix0, put 5 ix1, put 8 a0, put 9 a1, put 12 d0] }
     wordAt ((loftRead (after (.engineInstructionComplete 0 0 .clean) (after (.ctScatteracc 0 0) (s 0x75))) 0 12 0).getD []) 5 = 67 ∧
     wordAt ((loftRead (after (.engineInstructionComplete 0 0 .clean) (after (.ctScatter 0 0) (s 0x74))) 0 12 0).getD []) 5 = 11) := by decide +kernel

theorem test_plane_example :
    (let d : HDecl := { kind := 2, layout := 4, place := 2, pitch := 4096, lines := 229381, base := 0x1000400000 }
     (lineSpans d 12388).map (fun x => (d.base + x.1, x.2)) = [(0x10004C1900, 64), (0x1001219320, 8)] ∧
     rowOf (0x10004C1900 / 256) / 2 ^ 24 = 1 * 32 + 10) := by decide +kernel

theorem test_modexp_example :
    (let s := { prog 0 with smithy := { x := [(1, 2), (2, 10), (3, 1025)] } }
     (after (.modexp 16 1 2 3 4) s).smithy.op = some { outs := [(4, 1024)], at_ := 1000, cycles := 8654976 }) := by decide +kernel

theorem test_modexp_ends :
    (let s := { prog 0 with smithy := { x := [(4, 7)], op := some { outs := [(4, 1024)], cycles := 12 } }, ledger := 10 }
     nget 0 (after .smithyComplete s).smithy.x 4 = 1024) := by decide +kernel

/-! ### Vectors of the standards that the spec names: SHA-256 of "abc" (FIPS 180-4), CRC-32C of "123456789" (RFC 3720) -/

theorem test_sha256 : (sha256 [0x61, 0x62, 0x63]).take 4 = [0xBA, 0x78, 0x16, 0xBF] ∧ (sha256 [0x61, 0x62, 0x63]).drop 28 = [0xF2, 0x00, 0x15, 0xAD] := by
  decide +kernel

theorem test_crc32c : crc32c [0x31, 0x32, 0x33, 0x34, 0x35, 0x36, 0x37, 0x38, 0x39] = 0xE3069283 := by decide +kernel

/-! ### Small steps, with results worked out from the rules -/

theorem test_cntAdd_wraps :
    nget 0 (stall (after (.cntAdd 0 0) (progWith (word 0xD1 [(8, 5), (16, 1)]) { oneTeam with cnts := [(5, 0xFFFFFFFF)] })) 0).live.cnts 5 = 0 := by decide +kernel

theorem test_eeAdd_residue :
    (let put (n : Nat) (w : W36) : Nat × LoftLine := let l : Line := w :: List.replicate 15 0; (n, { words := l, valid := true, par := parityOf l })
     let s := { prog (e3 0x40 4 5 4 []) with loft := [put 8 40960, put 12 2] }
     wordAt ((loftRead (after (.engineInstructionComplete 0 0 .clean) (after (.eeAdd 0 0) s)) 0 8 0).getD []) 0 = 1) := by decide +kernel

theorem test_step_takes_front :
    (let s := { prog 0 with pending := [.ledgerSet 5, .idcode] }
     (match step s with
      | .next u => decide (u.ledger = 5) && decide (u.pending = [.idcode])
      | _ => false) = true) := by decide +kernel

theorem test_reset : State.reset.pending = [] ∧ State.reset.rst.phase = .asserted ∧ csrField State.reset rstCause 31 30 = 3 ∧
    csrField State.reset 0x0900000 0 0 = 0 := by decide +kernel
end Sys2Proof.Tests
end

section
/-!
PROOFS. The comparator relations (R85) and the instruction words whose relation code is reserved (R130).
-/

namespace Sys2Proof.Machine

/-! ### The relation codes of R85 -/

theorem relHolds_eq (c v : W32) : relHolds 0 c v = decide (c = v) := beq_eq_decide c v

theorem relHolds_ne (c v : W32) : relHolds 1 c v = decide (c ≠ v) := by
  have complement : relHolds 1 c v = !relHolds 0 c v := rfl
  rw [complement, relHolds_eq, ← decide_not]

/-- GEU compares the counter and the value as unsigned numbers. -/
theorem relHolds_geu (c v : W32) : relHolds 2 c v = decide (v.toNat ≤ c.toNat) := rfl

/-- LTU compares the counter and the value as unsigned numbers. -/
theorem relHolds_ltu (c v : W32) : relHolds 3 c v = decide (c.toNat < v.toNat) := rfl

/-- LTS reads the top bit of the difference modulo 2^32: it is set from 2^31 on. -/
theorem relHolds_lts (c v : W32) : relHolds 5 c v = decide (2 ^ 31 ≤ (c - v).toNat) := BitVec.msb_eq_decide (c - v)

/-- GES is the complement of LTS. -/
theorem relHolds_ges (c v : W32) : relHolds 4 c v = decide ((c - v).toNat < 2 ^ 31) := by
  have complement : relHolds 4 c v = !relHolds 5 c v := rfl
  rw [complement, relHolds_lts, ← decide_not, decide_eq_decide, Nat.not_le]

/-! ### Reserved relation codes are illegal field values -/

/-- In every format, a legal encoding holds no illegal field value (R130). -/
theorem fieldsLegal_of_legalWord {img : Image} {w : W128} (h : legalWord img w = true) : fieldsLegal w = true := by
  unfold legalWord at h
  split at h
  case h_1 => exact absurd h Bool.false_ne_true
  case h_2 o _ =>
    by_cases hs : o.fmt = .s
    · rw [if_pos hs, Bool.and_eq_true] at h
      exact h.2
    · rw [if_neg hs] at h
      simp only [Bool.and_eq_true, and_assoc] at h
      obtain ⟨_, _, _, _, hfields, _⟩ := h
      exact hfields

theorem legalWord_eq_false_of_fieldsLegal {img : Image} {w : W128} (h : fieldsLegal w = false) : legalWord img w = false :=
  Bool.eq_false_iff.2 fun hl => Bool.eq_false_iff.1 h (fieldsLegal_of_legalWord hl)

theorem fieldsLegal_cmpArm {w : W128} (h : opcodeOf w = 0xD4) : fieldsLegal w = decide (wf_ w 18 16 ≤ 5) := by
  simp only [fieldsLegal, h]

theorem fieldsLegal_brCnt {w : W128} (h : opcodeOf w = 0xE9) : fieldsLegal w = decide (wf_ w 14 12 ≤ 5) := by
  simp only [fieldsLegal, h]

/-- Settles O10: the six relations code by code; a reserved code, 6 or 7, is above the last code of R85, so it is an illegal
field value of CMP.ARM and of BR.CNT. -/
theorem relationsHoldAsStated : Obligations.RelationsHoldAsStated := by
  refine ⟨fun c v => ⟨relHolds_eq c v, relHolds_ne c v, relHolds_geu c v, relHolds_ltu c v, relHolds_ges c v,
    relHolds_lts c v⟩, ?_⟩
  rintro img w (⟨hop, hrel⟩ | ⟨hop, hrel⟩) <;> apply legalWord_eq_false_of_fieldsLegal
  · rw [fieldsLegal_cmpArm hop, decide_eq_false_iff_not]
    omega
  · rw [fieldsLegal_brCnt hop, decide_eq_false_iff_not]
    omega

end Sys2Proof.Machine
end

section
/-!
PROOFS. The issue of a scalar instruction; the flag, counter and time instructions (R82 to R84, R126, R128).
-/

namespace Sys2Proof.Machine

/-! ### Issue (R72 to R81) -/

/-- Noting the first issue of a START leaves all but the contexts and the Yardmaster's maxima alone (R383). -/
theorem noteFirst_eq (s : State) (c : Nat) :
    noteFirst s c = { s with ctxs := (noteFirst s c).ctxs, ym := (noteFirst s c).ym } := by
  unfold noteFirst
  split
  · rfl
  · dsimp only
    split
    · rfl
    · split <;> rfl

@[simp] theorem noteFirst_ledger (s : State) (c : Nat) : (noteFirst s c).ledger = s.ledger := by
  rw [noteFirst_eq]

@[simp] theorem stall_noteFirst (s : State) (c q : Nat) : stall (noteFirst s c) q = stall s q :=
  stall_congr (by rw [noteFirst_eq]) q

/-- A scalar instruction that issues changes its stall's live context by its effect, and its Team goes on. -/
theorem sequenced_scalarOp {s : State} {p : Nat} {t : Fin 4} {op : Nat} (f : State → W128 → StallCtx → StallCtx)
    (h : Issues s p t op) :
    Sequenced s (scalarOp s p t op f) p t
      (goOn s.ledger (f (noteFirst s (runningNo s)) (headOfTeam s p t) (stall s p).live) t) := by
  unfold scalarOp
  rw [issueOp_of_issues _ h]
  refine ⟨?_, fun q hq => ?_, rfl⟩
  · simp only [issued, modLive, stall_modStall_same, stall_noteFirst, modStall_ledger, noteFirst_ledger, goOn, readyTeam]
  · simp only [issued, modLive, stall_modStall_other _ hq, stall_noteFirst]

/-! ### Fields -/

theorem wf_lt (w : W128) (hi lo : Nat) : wf_ w hi lo < 2 ^ (hi + 1 - lo) := Nat.mod_lt _ (by positivity)

theorem bitOf_eq_testBit (x i : Nat) : bitOf x i = x.testBit i := by
  rw [Nat.testBit_eq_decide_div_mod_eq, bitOf, beq_eq_decide]

/-- The flag number of FL.SET, FL.CLR and BR.FLAG. -/
theorem toNat_flagField (w : W128) : (BitVec.ofNat 8 (wf_ w 15 8)).toNat = wf_ w 15 8 := by
  rw [BitVec.toNat_ofNat]
  exact Nat.mod_eq_of_lt (wf_lt w 15 8)

/-! ### Flags (R82, R126) -/

theorem getLsbD_flagBit (k : BitVec 8) (i : Nat) : (1#256 <<< k.toNat).getLsbD i = decide (i = k.toNat) := by
  rw [← BitVec.twoPow_eq, BitVec.getLsbD_twoPow, decide_eq_true k.isLt, Bool.true_and, decide_eq_decide, eq_comm]

theorem getLsbD_putFlag_true (fl : BitVec 256) (k : BitVec 8) (i : Nat) :
    (putFlag fl k true).getLsbD i = (decide (i = k.toNat) || fl.getLsbD i) := by
  simp only [putFlag, if_true, BitVec.getLsbD_or, getLsbD_flagBit, Bool.or_comm]

theorem getLsbD_putFlag_false (fl : BitVec 256) (k : BitVec 8) {i : Nat} (hi : i < 256) :
    (putFlag fl k false).getLsbD i = (!decide (i = k.toNat) && fl.getLsbD i) := by
  simp only [putFlag, Bool.false_eq_true, if_false, BitVec.getLsbD_and, BitVec.getLsbD_not, getLsbD_flagBit, hi,
    decide_true, Bool.true_and, Bool.and_comm]

/-- The mask of a group names flag 32 GROUP + b by its bit b. -/
theorem getLsbD_maskFlags (w : W128) {i : Nat} (hi : i < 256) :
    (maskFlags w).getLsbD i = (decide (i / 32 = wf_ w 10 8) && bitOf (wf_ w 63 32) (i % 32)) := by
  have hmask : wf_ w 63 32 < 2 ^ 32 := wf_lt w 63 32
  simp only [maskFlags, BitVec.getLsbD_ofNat, hi, decide_true, Bool.true_and, Nat.testBit_mul_two_pow, bitOf_eq_testBit]
  generalize wf_ w 10 8 = g
  by_cases hg : i / 32 = g
  · subst hg
    rw [show i - 32 * (i / 32) = i % 32 by omega]
    simp [Nat.mul_div_le]
  · rw [decide_eq_false hg, Bool.false_and]
    rcases Nat.lt_or_ge i (32 * g) with below | above
    · rw [decide_eq_false (Nat.not_le.2 below), Bool.false_and]
    · have past : 32 ≤ i - 32 * g := by omega
      rw [Nat.testBit_lt_two_pow (hmask.trans_le (Nat.pow_le_pow_right two_pos past)), Bool.and_false]

/-! ### Counters and comparators (R83, R84) -/

theorem nget_map_values {α : Type} {d : α} {g : α → α} (hd : g d = d) (m : NMap α) (k : Nat) :
    nget d (m.map (Prod.map id g)) k = g (nget d m k) := by
  induction m with
  | nil => exact hd.symm
  | cons e m ih =>
    obtain ⟨j, v⟩ := e
    by_cases hj : j = k
    · simp [nget, hj]
    · simpa [nget, hj] using ih

/-- A comparator after it has seen the counters at the end of a cycle. -/
def dueUnder (cs : NMap W32) (c : Cmp) : Cmp :=
  { c with due := c.due || c.armed && relHolds c.rel (nget 0 cs c.ctr.toNat) c.value }

theorem cmpCheck_cmps (x : StallCtx) : (cmpCheck x).cmps = x.cmps.map (Prod.map id (dueUnder x.cnts)) := by
  refine List.map_congr_left fun ⟨k, c⟩ _ => ?_
  by_cases holds : (c.armed && relHolds c.rel (cntOf x c.ctr) c.value) = true
  · rw [if_pos holds]
    unfold cntOf at holds
    simp only [Prod.map_apply, id, dueUnder, holds, Bool.or_true]
  · rw [if_neg holds]
    unfold cntOf at holds
    simp only [Prod.map_apply, id, dueUnder, holds, Bool.or_false]

theorem comparatorsSee_cmpCheck (x : StallCtx) (cs : NMap W32) :
    ComparatorsSee x cs (cmpCheck { x with cnts := cs }).cmps := by
  intro k
  rw [cmpCheck_cmps]
  exact nget_map_values rfl x.cmps k

theorem cntOf_setCnt (x : StallCtx) (k j : BitVec 4) (v : W32) : cntOf (setCnt x k v) j = if j = k then v else cntOf x j := by
  simp only [cntOf, setCnt, cmpCheck]
  by_cases hj : j = k
  · rw [if_pos hj, hj, nget_nset_same]
  · rw [if_neg hj, nget_nset_other _ _ fun e => hj (BitVec.eq_of_toNat_eq e)]

/-- A scalar instruction whose effect is to set counter k to v. -/
theorem counterWritten_scalarOp {s : State} {p : Nat} {t : Fin 4} {op : Nat} {f : State → W128 → StallCtx → StallCtx}
    {k : BitVec 4} {v : W32} (h : Issues s p t op)
    (hf : f (noteFirst s (runningNo s)) (headOfTeam s p t) (stall s p).live = setCnt (stall s p).live k v) :
    CounterWritten s (scalarOp s p t op f) p t k v := by
  have done := sequenced_scalarOp f h
  rw [hf] at done
  exact ⟨_, _, done, fun j => cntOf_setCnt _ k j v, comparatorsSee_cmpCheck _ _⟩

/-- Settles O8: each instruction is a `scalarOp`, whose effect is read flag by flag, or is `setCnt`. -/
theorem scalarInstructionsWriteRegisters : Obligations.ScalarInstructionsWriteRegisters := by
  refine ⟨fun s p t => ⟨fun h => ?_, fun h => ?_, fun h => ?_, fun h => ?_⟩,
    fun s p t => ⟨fun h => ?_, fun h => ?_, fun h => ?_, fun h => ?_⟩⟩
  · refine ⟨_, rfl, _, sequenced_scalarOp _ h, fun f _ => ?_⟩
    rw [getLsbD_putFlag_true, toNat_flagField]
  · refine ⟨_, rfl, _, sequenced_scalarOp _ h, fun f hf => ?_⟩
    rw [getLsbD_putFlag_false _ _ hf, toNat_flagField]
  · refine ⟨_, rfl, _, sequenced_scalarOp _ h, fun f hf => ?_⟩
    rw [BitVec.getLsbD_or, getLsbD_maskFlags _ hf, Bool.or_comm]
  · refine ⟨_, rfl, _, sequenced_scalarOp _ h, fun f hf => ?_⟩
    rw [BitVec.getLsbD_and, BitVec.getLsbD_not, getLsbD_maskFlags _ hf, decide_eq_true hf, Bool.true_and, Bool.and_comm]
  · exact ⟨_, rfl, counterWritten_scalarOp h rfl⟩
  · exact ⟨_, rfl, counterWritten_scalarOp h rfl⟩
  · exact ⟨_, rfl, counterWritten_scalarOp h (by rw [stall_noteFirst]; rfl)⟩
  · exact ⟨_, rfl, counterWritten_scalarOp h (by rw [now, noteFirst_ledger]; rfl)⟩

end Sys2Proof.Machine
end

section
/-!
PROOFS. The control loops that a taken branch or HALT ends (R117).
-/

namespace Sys2Proof.Machine

/-! ### Teams and loop levels -/

@[simp] theorem getLoop_mapLoops (m : Team) (f : Loop → Loop) (l : Nat) : getLoop (mapLoops m f) l = f (getLoop m l) := by
  match l with
  | 0 => rfl
  | 1 => rfl
  | 2 => rfl
  | _ + 3 => rfl

@[simp] theorem getTeam_mapTeams (x : StallCtx) (f : Team → Team) (t : Fin 4) : getTeam (mapTeams x f) t = f (getTeam x t) := by
  match t with
  | 0 => rfl
  | 1 => rfl
  | 2 => rfl
  | 3 => rfl

theorem getLoop_congr {m n : Team} (h0 : n.l0 = m.l0) (h1 : n.l1 = m.l1) (h2 : n.l2 = m.l2) (h3 : n.l3 = m.l3) (l : Nat) :
    getLoop n l = getLoop m l := by
  simp only [getLoop, h0, h1, h2, h3]

/-- The issue of a Team leaves its loop levels alone. -/
@[simp] theorem getLoop_readyTeam (x : StallCtx) (t : Fin 4) (l : Nat) : getLoop (readyTeam x t) l = getLoop (getTeam x t) l := by
  unfold readyTeam turnPassed yieldDone
  simp only [getTeam_mapTeams]
  exact getLoop_congr rfl rfl rfl rfl l

/-! ### Taken branches and HALT (R75, R117) -/

/-- What a taken branch from Team m to a target leaves, Team n: it is at the target, the control loops whose body does not hold
the target have ended, and the other levels are as they were (R117). -/
def BranchEnds (m n : Team) (a : BitVec 24) : Prop :=
  n.pc = a ∧ ∀ l, l < 4 →
    if (getLoop m l).active = true ∧ (a.toNat < (getLoop m l).back.toNat ∨ (getLoop m l).last.toNat < a.toNat)
    then getLoop n l = { getLoop m l with active := false, iter := 0 } else getLoop n l = getLoop m l

/-- A loop level after a taken branch to a target, as `branchTo` computes it. -/
def afterBranch (a : BitVec 24) (l : Loop) : Loop :=
  if l.active && !(l.back.ule a && a.ule l.last) then { l with active := false, iter := 0 } else l

theorem getLoop_branchTo (m : Team) (a : BitVec 24) (l : Nat) : getLoop (branchTo m a) l = afterBranch a (getLoop m l) :=
  (getLoop_congr rfl rfl rfl rfl l).trans (getLoop_mapLoops m (afterBranch a) l)

theorem afterBranch_eq (a : BitVec 24) (l : Loop) :
    afterBranch a l = if l.active = true ∧ (a.toNat < l.back.toNat ∨ l.last.toNat < a.toNat)
      then { l with active := false, iter := 0 } else l := by
  simp only [afterBranch, BitVec.ule, Bool.and_eq_true, Bool.not_eq_true', Bool.and_eq_false_iff, decide_eq_false_iff_not,
    Nat.not_le]

theorem branchEnds_goTo (at_ : W64) (x : StallCtx) (t : Fin 4) (a : BitVec 24) :
    BranchEnds (getTeam x t) (getTeam (goTo at_ x t a) t) a := by
  unfold goTo
  rw [getTeam_setTeam_same]
  refine ⟨rfl, fun l _ => ?_⟩
  have hl : getLoop (heldBack at_ (branchTo (readyTeam x t) a)) l = getLoop (branchTo (readyTeam x t) a) l :=
    getLoop_congr rfl rfl rfl rfl l
  rw [hl, getLoop_branchTo, getLoop_readyTeam, afterBranch_eq]
  split <;> rfl

/-- A taken branch changes its Team alone, which goes to the target. -/
theorem sequenced_branch_taken (s : State) (p : Nat) (t : Fin 4) (a : BitVec 24) :
    Sequenced s (branch (noteFirst s (runningNo s)) p t true a) p t (goTo s.ledger (stall s p).live t a) := by
  refine ⟨?_, fun q hq => ?_, rfl⟩
  · simp only [branch, if_true, stall_modStall_same, stall_noteFirst, noteFirst_ledger, goTo, readyTeam]
  · simp only [branch, if_true, stall_modStall_other _ hq, stall_noteFirst]

/-- After a taken branch the Team is at the target, and the control loops that do not hold it have ended. -/
theorem branchEnds_branch (s : State) (p : Nat) (t : Fin 4) (a : BitVec 24) :
    BranchEnds (getTeam (stall s p).live t)
      (getTeam (stall (branch (noteFirst s (runningNo s)) p t true a) p).live t) a := by
  obtain ⟨own, _, _⟩ := sequenced_branch_taken s p t a
  rw [own]
  exact branchEnds_goTo s.ledger (stall s p).live t a

/-- After HALT no loop level of the Team is active. -/
theorem getLoop_haltTeam (s : State) (p : Nat) (t : Fin 4) (l : Nat) :
    (getLoop (getTeam (stall (haltTeam s p t) p).live t) l).active = false ∧
      (getLoop (getTeam (stall (haltTeam s p t) p).live t) l).iter = 0 := by
  simp only [haltTeam, stall_modStall_same, getTeam_setTeam_same, getLoop_mapLoops, and_self]

/-- Settles O13: every taken branch goes through `branch`, and HALT through `haltTeam`. -/
theorem branchesEndLoops : Obligations.BranchesEndLoops := by
  refine fun s p t => ⟨fun h => ?_, fun h holds => ?_, fun h holds => ?_, fun h noTrips => ?_, fun h => ?_⟩
  · refine ⟨_, rfl, ?_⟩
    rw [issueCore_of_issues _ h]
    exact branchEnds_branch s p t _
  · refine ⟨_, rfl, ?_⟩
    rw [issueCore_of_issues _ h, stall_noteFirst, ctrOf, holds]
    exact branchEnds_branch s p t _
  · refine ⟨_, rfl, ?_⟩
    rw [issueCore_of_issues _ h, stall_noteFirst, flagOf, toNat_flagField, holds, beq_self_eq_true]
    exact branchEnds_branch s p t _
  · refine ⟨_, rfl, ?_⟩
    have trips : tripCount (stall s p).live t (headOfTeam s p t) = 0 := noTrips
    rw [issueCore_of_issues _ h, stall_noteFirst, if_pos trips]
    exact branchEnds_branch s p t _
  · refine ⟨_, rfl, fun l _ => ?_⟩
    rw [issueCore_of_issues _ h]
    obtain ⟨ended, iter⟩ := getLoop_haltTeam (noteFirst s (runningNo s)) p t l
    exact ⟨ended, fun _ => iter⟩

end Sys2Proof.Machine
end

section
/-!
SUPPORT. What few operations change: the positions, OBSERVED and the fuses. One lemma for each operation says that it leaves them;
what the operations leave of the queue stands in the lemmas of `State.keep`.
-/

namespace Sys2Proof.Machine
set_option linter.unusedSimpArgs false
set_option linter.unusedTactic false
set_option linter.unreachableTactic false

/-- The positions, OBSERVED and the fuses. -/
def State.fixed (s : State) : NMap Pos × Bool × Fuses := (s.positions, s.tack.observed, s.fuses)

@[simp] theorem fixed_mk (x0 : List Instr) (x1 : Nat) (x2 : Nat) (x3 : List Byte) (x4 : Bool) (x5 : NMap Byte) (x6 : List (Nat
    × Nat)) (x7 : NMap W64) (x8 : W64) (x9 : NMap Pos) (x10 : NMap Stall) (x11 : NMap LoftLine) (x12 : List Msg) (x13 : NMap
    Ctx) (x14 : NMap Rec) (x15 : Yardm) (x16 : Hbm) (x17 : Granary) (x18 : NMap Drover) (x19 : List Report) (x20 : Rhoa) (x21
    : Gateh) (x22 : Daybk) (x23 : Fuses) (x24 : Tack) (x25 : Smithy) (x26 : Rst) (x27 : Supply) (x28 : Ostler) (x29 : Disc)
    (x30 : Tap) (x31 : List (Transport × List Byte)) (x32 : List (List Byte)) : (State.mk x0 x1 x2 x3 x4 x5 x6 x7 x8 x9
    x10 x11 x12 x13 x14 x15 x16 x17 x18 x19 x20 x21 x22 x23 x24 x25 x26 x27 x28 x29 x30 x31 x32).fixed
      = (x9, x24.observed, x23) := (rfl)

@[simp] theorem fixed_eta (s : State) : (s.positions, s.tack.observed, s.fuses) = s.fixed := (rfl)

@[simp] theorem fixed_ite (c : Prop) [Decidable c] (a b : State) : (if c then a else b).fixed = if c then a.fixed else b.fixed := by
  split <;> rfl

@[simp] theorem fixed_foldl {β : Type} (g : State → β → State) (h : ∀ s b, (g s b).fixed = s.fixed) (l : List β) (s : State) :
    (l.foldl g s).fixed = s.fixed := by
  induction l generalizing s with
  | nil => rfl
  | cons b l ih => exact (ih (g s b)).trans (h s b)

@[simp] theorem fixed_foldl2 {α β : Type} (g : α × State → β → α × State) (h : ∀ a b, (g a b).2.fixed = a.2.fixed) (l : List β)
    (a : α × State) : (l.foldl g a).2.fixed = a.2.fixed := by
  induction l generalizing a with
  | nil => rfl
  | cons b l ih => exact (ih (g a b)).trans (h a b)

@[simp] theorem fixed_draw (s : State) :
    (draw s).2.fixed = s.fixed := by simp [draw]

@[simp] theorem fixed_drawMany (s : State) (n : Nat) :
    (drawMany s n).2.fixed = s.fixed := by simp [drawMany]

@[simp] theorem fixed_csrPut (s : State) (off : Nat) (v : W64) :
    (csrPut s off v).fixed = s.fixed := by simp [csrPut]

@[simp] theorem fixed_csrSetField (s : State) (off hi lo v : Nat) :
    (csrSetField s off hi lo v).fixed = s.fixed := by simp [csrSetField]

@[simp] theorem fixed_bumpBy (s : State) (off wrapOff wrapBit n : Nat) :
    (bumpBy s off wrapOff wrapBit n).fixed = s.fixed := by simp [bumpBy]

@[simp] theorem fixed_bump (s : State) (off wrapOff wrapBit : Nat) :
    (bump s off wrapOff wrapBit).fixed = s.fixed := by simp [bump]

@[simp] theorem fixed_recordFirst (s : State) (off v : Nat) :
    (recordFirst s off v).fixed = s.fixed := by simp [recordFirst]

@[simp] theorem fixed_csrClear (s : State) (lo hi : Nat) :
    (csrClear s lo hi).fixed = s.fixed := by simp [csrClear]

@[simp] theorem fixed_yardCount (s : State) (i n : Nat) :
    (yardCount s i n).fixed = s.fixed := by simp [yardCount]

@[simp] theorem fixed_drvCount (s : State) (d i n : Nat) :
    (drvCount s d i n).fixed = s.fixed := by simp [drvCount]

@[simp] theorem fixed_hbmCount (s : State) (st i n : Nat) :
    (hbmCount s st i n).fixed = s.fixed := by simp [hbmCount]

@[simp] theorem fixed_grnCount (s : State) (i n : Nat) :
    (grnCount s i n).fixed = s.fixed := by simp [grnCount]

@[simp] theorem fixed_recCount (s : State) (i : Nat) :
    (recCount s i).fixed = s.fixed := by simp [recCount]

@[simp] theorem fixed_intakeCount (s : State) (i : Nat) :
    (intakeCount s i).fixed = s.fixed := by simp [intakeCount]

@[simp] theorem fixed_ghCount (s : State) (i : Nat) :
    (ghCount s i).fixed = s.fixed := by simp [ghCount]

@[simp] theorem fixed_rlCount (s : State) (n i k : Nat) :
    (rlCount s n i k).fixed = s.fixed := by simp [rlCount]

@[simp] theorem fixed_rlDevCount (s : State) (i : Nat) :
    (rlDevCount s i).fixed = s.fixed := by simp [rlDevCount]

@[simp] theorem fixed_trCount (s : State) (i : Nat) :
    (trCount s i).fixed = s.fixed := by simp [trCount]

@[simp] theorem fixed_pwrCount (s : State) (i : Nat) :
    (pwrCount s i).fixed = s.fixed := by simp [pwrCount]

@[simp] theorem fixed_setStall (s : State) (p : Nat) (x : Stall) :
    (setStall s p x).fixed = s.fixed := by simp [setStall]

@[simp] theorem fixed_modStall (s : State) (p : Nat) (f : Stall → Stall) :
    (modStall s p f).fixed = s.fixed := by simp [modStall]

@[simp] theorem fixed_setCtx (s : State) (c : Nat) (x : Ctx) :
    (setCtx s c x).fixed = s.fixed := by simp [setCtx]

@[simp] theorem fixed_modCtx (s : State) (c : Nat) (f : Ctx → Ctx) :
    (modCtx s c f).fixed = s.fixed := by simp [modCtx]

@[simp] theorem fixed_modRec (s : State) (c : Nat) (f : Rec → Rec) :
    (modRec s c f).fixed = s.fixed := by simp [modRec]

@[simp] theorem fixed_modDrover (s : State) (d : Nat) (f : Drover → Drover) :
    (modDrover s d f).fixed = s.fixed := by simp [modDrover]

@[simp] theorem fixed_modTeam (s : State) (p : Nat) (t : Fin 4) (f : Team → Team) :
    (modTeam s p t f).fixed = s.fixed := by simp [modTeam]

@[simp] theorem fixed_setLoft (s : State) (p line : Nat) (v : LoftLine) :
    (setLoft s p line v).fixed = s.fixed := by simp [setLoft]

@[simp] theorem fixed_loftWrite (s : State) (p line c : Nat) (words : Line) (mask : Nat) :
    (loftWrite s p line c words mask).fixed = s.fixed := by simp [loftWrite]

@[simp] theorem fixed_loftInvalidate (s : State) (f : Nat → Nat → LoftLine → Bool) :
    (loftInvalidate s f).fixed = s.fixed := by simp [loftInvalidate]

@[simp] theorem fixed_send (s : State) (src dst : Node) (net : Net) (c : Nat) (b : Body) :
    (send s src dst net c b).fixed = s.fixed := by simp [send]

@[simp] theorem fixed_dropMsg (s : State) (m : Nat) :
    (dropMsg s m).fixed = s.fixed := by simp [dropMsg]

@[simp] theorem fixed_sendBridle (s : State) (src dst : Node) (c : Nat) (b : Body) :
    (sendBridle s src dst c b).fixed = s.fixed := by simp [sendBridle]

@[simp] theorem fixed_tick (s : State) :
    (tick s).fixed = s.fixed := by simp [tick]

@[simp] theorem fixed_modPort (s : State) (n : Nat) (f : Port → Port) :
    (modPort s n f).fixed = s.fixed := by simp [modPort]

@[simp] theorem fixed_wireFlit (s : State) (n : Nat) (b : List Byte) (seq : BitVec 16) :
    (wireFlit s n b seq).fixed = s.fixed := by simp [wireFlit]

theorem fixed_sendOne (s t : State) (n : Nat) (h : sendOne s n = some t) : t.fixed = s.fixed := by
  unfold sendOne at h
  dsimp only at h
  split at h
  · cases h
  · split at h
    · cases h
    · cases h
      simp

@[simp] theorem fixed_pump (k : Nat) (s : State) (n : Nat) : (pump k s n).fixed = s.fixed := by
  induction k generalizing s with
  | zero => rfl
  | succ k ih =>
    unfold pump
    split
    · rw [ih]
      exact fixed_sendOne _ _ _ ‹_›
    · rfl

@[simp] theorem fixed_pumpPort (s : State) (n : Nat) : (pumpPort s n).fixed = s.fixed := by simp [pumpPort]

@[simp] theorem fixed_sendPlain (s : State) (n type : Nat) :
    (sendPlain s n type).fixed = s.fixed := by simp [sendPlain]

@[simp] theorem fixed_sendFlit (s : State) (via : Nat) (b : List Byte) :
    (sendFlit s via b).fixed = s.fixed := by
  unfold sendFlit
  repeat' split
  all_goals simp

@[simp] theorem fixed_dbStore (s : State) (type c : Nat) (payload : List Byte) :
    (dbStore s type c payload).fixed = s.fixed := by simp [dbStore]

@[simp] theorem fixed_dbAppend (s : State) (type c : Nat) (payload : List Byte) :
    (dbAppend s type c payload).fixed = s.fixed := by simp [dbAppend]

@[simp] theorem fixed_dbEpoch (s : State) (c epoch event target : Nat) :
    (dbEpoch s c epoch event target).fixed = s.fixed := by simp [dbEpoch]

@[simp] theorem fixed_dbFault (s : State) (c code lid team handle : Nat) :
    (dbFault s c code lid team handle).fixed = s.fixed := by simp [dbFault]

@[simp] theorem fixed_raiseIrq (s : State) (fn vec : Nat) :
    (raiseIrq s fn vec).fixed = s.fixed := by simp [raiseIrq]

@[simp] theorem fixed_aerError (s : State) (fn : Nat) (e : AerError) :
    (aerError s fn e).fixed = s.fixed := by simp [aerError]

@[simp] theorem fixed_ghRecord (s : State) (r : Nat) (rec_ : List Byte) (irq : Bool) (vf vfVec : Nat) :
    (ghRecord s r rec_ irq vf vfVec).fixed = s.fixed := by simp [ghRecord]

@[simp] theorem fixed_ghNote (s : State) (ring : Nat) (rec_ : List Byte) :
    (ghNote s ring rec_).fixed = s.fixed := by
  unfold ghNote
  repeat' first
    | (simp only [fixed_mk, fixed_eta, fixed_ite, ite_self]; done)
    | (with_reducible refine (fixed_foldl _ ?_ _ _).trans ?_)
    | intro _
    | split
    | simp only [fixed_mk, fixed_eta, fixed_ite, ite_self]

@[simp] theorem fixed_ghDeliver (s : State) (m : Nat) (rec_ : List Byte) (irq : Bool) :
    (ghDeliver s m rec_ irq).fixed = s.fixed := by simp [ghDeliver]

@[simp] theorem fixed_emitRecord (s : State) (rec_ : List Byte) (irq : Bool) :
    (emitRecord s rec_ irq).fixed = s.fixed := by
  unfold emitRecord
  repeat' split
  all_goals simp

@[simp] theorem fixed_reportOstler (s : State) (source code detail c : Nat) :
    (reportOstler s source code detail c).fixed = s.fixed := by simp [reportOstler]

@[simp] theorem fixed_reportFault (s : State) (source code detail c lid team handle : Nat) :
    (reportFault s source code detail c lid team handle).fixed = s.fixed := by simp [reportFault]

@[simp] theorem fixed_explain (s : State) (cause : Nat) (involved : List (Nat × W128)) :
    (explain s cause involved).fixed = s.fixed := by
  unfold explain
  split <;> simp

@[simp] theorem fixed_stallFault (s : State) (p c : Nat) (team : Fin 4) (pc handle action code : Nat) :
    (stallFault s p c team pc handle action code).fixed = s.fixed := by simp [stallFault]

@[simp] theorem fixed_absentReturn (s : State) (source detail c lid : Nat) :
    (absentReturn s source detail c lid).fixed = s.fixed := by simp [absentReturn]

@[simp] theorem fixed_trigger (s : State) (c target : Nat) :
    (trigger s c target).fixed = s.fixed := by simp [trigger]

@[simp] theorem fixed_countDrop (s : State) (p c n : Nat) :
    (countDrop s p c n).fixed = s.fixed := by simp [countDrop]

@[simp] theorem fixed_writePiece (s : State) (p c : Nat) (pc : Piece) (a : Int) (words : Line) (msk : Nat) :
    (writePiece s p c pc a words msk).fixed = s.fixed := by simp [writePiece]

@[simp] theorem fixed_modLive (s : State) (p : Nat) (f : StallCtx → StallCtx) :
    (modLive s p f).fixed = s.fixed := by simp [modLive]

@[simp] theorem fixed_modStallCtx (s : State) (c l : Nat) (f : StallCtx → StallCtx) :
    (modStallCtx s c l f).fixed = s.fixed := by
  unfold modStallCtx
  repeat' split
  all_goals simp

@[simp] theorem fixed_modEntry (s : State) (p n : Nat) (f : Entry → Entry) :
    (modEntry s p n f).fixed = s.fixed := by simp [modEntry]

@[simp] theorem fixed_dropEntry (s : State) (p n : Nat) :
    (dropEntry s p n).fixed = s.fixed := by simp [dropEntry]

@[simp] theorem fixed_modCached (s : State) (p h : Nat) (f : HEntry → HEntry) :
    (modCached s p h f).fixed = s.fixed := by simp [modCached]

@[simp] theorem fixed_cacheHandle (s : State) (p c h : Nat) :
    (cacheHandle s p c h).fixed = s.fixed := by simp [cacheHandle]

@[simp] theorem fixed_poisonLocal (s : State) (p c h : Nat) :
    (poisonLocal s p c h).fixed = s.fixed := by simp [poisonLocal]

@[simp] theorem fixed_startFetch (s : State) (p c h : Nat) :
    (startFetch s p c h).fixed = s.fixed := by simp [startFetch]

@[simp] theorem fixed_poisonDest (s : State) (p c : Nat) (w : W128) :
    (poisonDest s p c w).fixed = s.fixed := by simp [poisonDest]

@[simp] theorem fixed_noteHalt (s : State) (p c : Nat) (t : Fin 4) (code : Nat) :
    (noteHalt s p c t code).fixed = s.fixed := by simp [noteHalt]

@[simp] theorem fixed_teamFault (s : State) (p c : Nat) (t : Fin 4) (w : W128) (code handle : Nat) :
    (teamFault s p c t w code handle).fixed = s.fixed := by simp [teamFault]

@[simp] theorem fixed_teamBlock (s : State) (p : Nat) (t : Fin 4) (cause : Nat) :
    (teamBlock s p t cause).fixed = s.fixed := by simp [teamBlock]

@[simp] theorem fixed_noteFirst (s : State) (c : Nat) :
    (noteFirst s c).fixed = s.fixed := by
  unfold noteFirst
  split <;> simp

@[simp] theorem fixed_issued (s : State) (p : Nat) (t : Fin 4) :
    (issued s p t).fixed = s.fixed := by simp [issued]

@[simp] theorem fixed_issueCore (s : State) (p : Nat) (t : Fin 4) (op : Nat) (go : State → W128 → Nat → State) (hgo : ∀ v0 v1 v2, (go v0 v1 v2).fixed = v0.fixed) :
    (issueCore s p t op go).fixed = s.fixed := by
  unfold issueCore
  repeat' first
    | (simp only [fixed_mk, fixed_eta, fixed_ite, ite_self, fixed_modLive, fixed_noteFirst, fixed_startFetch,
                    fixed_teamBlock, fixed_teamFault, hgo]; done)
    | split

@[simp] theorem fixed_issueOp (s : State) (p : Nat) (t : Fin 4) (op : Nat) (run : State → W128 → Nat → State) (hrun : ∀ v0 v1 v2, (run v0 v1 v2).fixed = v0.fixed) :
    (issueOp s p t op run).fixed = s.fixed := by
  unfold issueOp
  repeat' first
    | (simp only [fixed_mk, fixed_eta, fixed_ite, ite_self, fixed_issueCore, fixed_issued, hrun]; done)
    | (with_reducible refine (fixed_foldl _ ?_ _ _).trans ?_)
    | intro _
    | (simp [fixed_eta, hrun]; done)
    | split
    | simp only [fixed_mk, fixed_eta, fixed_ite, ite_self, fixed_issueCore, fixed_issued, hrun]

@[simp] theorem fixed_openEpoch (s : State) (c reruns : Nat) :
    (openEpoch s c reruns).fixed = s.fixed := by simp [openEpoch]

@[simp] theorem fixed_ensureEpoch (s : State) (c : Nat) :
    (ensureEpoch s c).fixed = s.fixed := by simp [ensureEpoch]

@[simp] theorem fixed_lateFence (s : State) (p : Nat) :
    (lateFence s p).fixed = s.fixed := by simp [lateFence]

@[simp] theorem fixed_takeEntry (s : State) (p : Nat) (t : Fin 4) (w : W128) (c : Nat) (eng : Engine) (start : Bool) :
    (takeEntry s p t w c eng start).1.fixed = s.fixed := by simp [takeEntry]

@[simp] theorem fixed_parityFailed (s : State) (p line words : Nat) (background : Bool) :
    (parityFailed s p line words background).fixed = s.fixed := by simp [parityFailed]

@[simp] theorem fixed_parityRead (s : State) (p c line : Nat) :
    (parityRead s p c line).fixed = s.fixed := by
  unfold parityRead
  repeat' first
    | (simp only [fixed_mk, fixed_eta, fixed_ite, ite_self, fixed_parityFailed]; done)
    | (with_reducible refine (fixed_foldl _ ?_ _ _).trans ?_)
    | intro _
    | split
    | simp only [fixed_mk, fixed_eta, fixed_ite, ite_self, fixed_parityFailed]

@[simp] theorem fixed_parityPiece (s : State) (p c : Nat) (pc : Piece) (as_ : List Int) :
    (parityPiece s p c pc as_).fixed = s.fixed := by simp [parityPiece]

@[simp] theorem fixed_settleDest (s : State) (p c : Nat) (e : Entry) :
    (settleDest s p c e).fixed = s.fixed := by
  unfold settleDest
  split <;> simp

@[simp] theorem fixed_localIssue (eng : Engine) (p : Nat) (t : Fin 4) (s : State) (w : W128) (c : Nat) :
    (localIssue eng p t s w c).fixed = s.fixed := by simp [localIssue]

@[simp] theorem fixed_putEntryLine (s : State) (p : Nat) (e : Entry) (pc : Piece) (a : Int) (l : Line) :
    (putEntryLine s p e pc a l).fixed = s.fixed := by
  unfold putEntryLine
  split <;> simp

@[simp] theorem fixed_freeLines (s : State) (p c : Nat) (ls : List Nat) :
    (freeLines s p c ls).fixed = s.fixed := by simp [freeLines]

@[simp] theorem fixed_noteWrites (s : State) (p n : Nat) (pc : Piece) (as_ : List Int) :
    (noteWrites s p n pc as_).fixed = s.fixed := by simp [noteWrites]

@[simp] theorem fixed_teIter (f : TeArg → Nat → List Nat → List Nat) (p : Nat) (e : Entry) (img : Image) (da dd : HDecl) (pa pd : Piece) (a d : Int) (s : State) :
    (teIter f p e img da dd pa pd a d s).fixed = s.fixed := by simp [teIter]

@[simp] theorem fixed_teRun (f : TeArg → Nat → List Nat → List Nat) (lim : Option Nat) (p n : Nat) (e : Entry) (s : State) :
    (teRun f lim p n e s).fixed = s.fixed := by simp [teRun]

@[simp] theorem fixed_sendBulk (s : State) (src dst : Node) (net : Net) (c : Nat) (b : Body) (lines : Nat) :
    (sendBulk s src dst net c b lines).fixed = s.fixed := by simp [sendBulk]

@[simp] theorem fixed_sendWaiting (s : State) (p n : Nat) (dst : Node) (c : Nat) (b : Body) (lines : Nat) (isWrite : Bool) :
    (sendWaiting s p n dst c b lines isWrite).fixed = s.fixed := by simp [sendWaiting]

@[simp] theorem fixed_carryPoison (s : State) (p n : Nat) (w : W128) :
    (carryPoison s p n w).fixed = s.fixed := by simp [carryPoison]

@[simp] theorem fixed_landLoad (s : State) (p n : Nat) :
    (landLoad s p n).fixed = s.fixed := by simp [landLoad]

@[simp] theorem fixed_ctLoadRun (p : Nat) (t : Fin 4) (s : State) (w : W128) (c : Nat) :
    (ctLoadRun p t s w c).fixed = s.fixed := by simp [ctLoadRun]

@[simp] theorem fixed_sendSlots (s : State) (p n : Nat) (c : Nat) (op : GrnOp) (poison : Bool) (ls : List (Nat × Line)) :
    (sendSlots s p n c op poison ls).fixed = s.fixed := by simp [sendSlots]

@[simp] theorem fixed_ctStoreRun (p : Nat) (t : Fin 4) (s : State) (w : W128) (c : Nat) :
    (ctStoreRun p t s w c).fixed = s.fixed := by simp [ctStoreRun]

@[simp] theorem fixed_ctAtomRun (p : Nat) (t : Fin 4) (s : State) (w : W128) (c : Nat) :
    (ctAtomRun p t s w c).fixed = s.fixed := by simp [ctAtomRun]

@[simp] theorem fixed_recordAbsent (s : State) (p : Nat) (e : Entry) :
    (recordAbsent s p e).fixed = s.fixed := by simp [recordAbsent]

@[simp] theorem fixed_engineAbsent (s : State) (p n : Nat) (e : Entry) :
    (engineAbsent s p n e).fixed = s.fixed := by simp [engineAbsent]

@[simp] theorem fixed_ctCopyRun (p : Nat) (t : Fin 4) (s : State) (w : W128) (c : Nat) :
    (ctCopyRun p t s w c).fixed = s.fixed := by
  unfold ctCopyRun
  repeat' first
    | (simp only [fixed_mk, fixed_eta, fixed_ite, ite_self, fixed_carryPoison, fixed_engineAbsent, fixed_sendWaiting,
                    fixed_takeEntry]; done)
    | (have hk := congrArg (fun x => State.fixed (Prod.fst x)) ‹_ = (_, _)›
       simp only [fixed_mk, fixed_eta, fixed_ite, ite_self, fixed_carryPoison, fixed_engineAbsent, fixed_sendWaiting,
                    fixed_takeEntry] at hk
       simp only [fixed_mk, fixed_eta, fixed_ite, ite_self, fixed_carryPoison, fixed_engineAbsent, fixed_sendWaiting,
                    fixed_takeEntry, ← hk]; done)
    | (have hk := congrArg (fun x => State.fixed (Prod.snd x)) ‹_ = (_, _)›
       simp only [fixed_mk, fixed_eta, fixed_ite, ite_self, fixed_carryPoison, fixed_engineAbsent, fixed_sendWaiting,
                    fixed_takeEntry] at hk
       simp only [fixed_mk, fixed_eta, fixed_ite, ite_self, fixed_carryPoison, fixed_engineAbsent, fixed_sendWaiting,
                    fixed_takeEntry, ← hk]; done)
    | (with_reducible refine (fixed_foldl _ ?_ _ _).trans ?_)
    | intro _
    | split
    | simp only [fixed_mk, fixed_eta, fixed_ite, ite_self, fixed_carryPoison, fixed_engineAbsent, fixed_sendWaiting,
                    fixed_takeEntry]

@[simp] theorem fixed_ctGatherRun (lim : Option Nat) (p n : Nat) (e : Entry) (s : State) :
    (ctGatherRun lim p n e s).fixed = s.fixed := by simp [ctGatherRun]

@[simp] theorem fixed_ctScatterRun (acc : Bool) (lim : Option Nat) (p n : Nat) (e : Entry) (s : State) :
    (ctScatterRun acc lim p n e s).fixed = s.fixed := by simp [ctScatterRun]

@[simp] theorem fixed_ctFillRun (lim : Option Nat) (p n : Nat) (e : Entry) (s : State) :
    (ctFillRun lim p n e s).fixed = s.fixed := by simp [ctFillRun]

@[simp] theorem fixed_modRegion (s : State) (i : Nat) (f : Region → Region) :
    (modRegion s i f).fixed = s.fixed := by simp [modRegion]

@[simp] theorem fixed_modSlot (s : State) (page : Nat) (f : Slot → Slot) :
    (modSlot s page f).fixed = s.fixed := by simp [modSlot]

@[simp] theorem fixed_setGpoison (s : State) (g : Nat) (v : Bool) :
    (setGpoison s g v).fixed = s.fixed := by simp [setGpoison]

@[simp] theorem fixed_rowFails (s : State) (g : Nat) :
    (rowFails s g).fixed = s.fixed := by simp [rowFails]

@[simp] theorem fixed_innerFix (s : State) (g : Nat) :
    (innerFix s g).fixed = s.fixed := by
  unfold innerFix
  repeat' split
  all_goals simp

@[simp] theorem fixed_rowErrors (s : State) (r : Region) (g : Nat) (e : MemErr) :
    (rowErrors s r g e).fixed = s.fixed := by simp [rowErrors]

@[simp] theorem fixed_memFault (s : State) (g : Nat) (owner code retries : Nat) (slot : Bool) (own : Bool) :
    (memFault s g owner code retries slot own).fixed = s.fixed := by simp [memFault]

@[simp] theorem fixed_freeGranule (s : State) :
    (freeGranule s).2.fixed = s.fixed := by simp [freeGranule]

@[simp] theorem fixed_decodeFault (s : State) (g owner i code : Nat) (e : MemErr) (slot own : Bool) :
    (decodeFault s g owner i code e slot own).2.2.fixed = s.fixed := by simp [decodeFault]

@[simp] theorem fixed_readGranule (s : State) (r : Region) (g : Nat) (e : MemErr) (own : Bool) :
    (readGranule s r g e own).2.2.fixed = s.fixed := by
  unfold readGranule
  repeat' split
  all_goals simp

@[simp] theorem fixed_noteRead (s : State) (g : Nat) :
    (noteRead s g).fixed = s.fixed := by simp [noteRead]

@[simp] theorem fixed_readRequest (s : State) (r : Region) (g : Nat) (e : MemErr) (own : Bool) :
    (readRequest s r g e own).2.2.fixed = s.fixed := by simp [readRequest]

@[simp] theorem fixed_readFor (s : State) (owner g : Nat) (e : MemErr) (own : Bool) :
    (readFor s owner g e own).2.2.fixed = s.fixed := by
  unfold readFor
  split <;> simp

@[simp] theorem fixed_putGranule (s : State) (g : Nat) (d : List Byte) (poison : Bool) :
    (putGranule s g d poison).fixed = s.fixed := by simp [putGranule]

@[simp] theorem fixed_sendGranule (s : State) (g : Nat) (d : List Byte) (poison : Bool) (e : MemErr) (own : Bool) :
    (sendGranule s g d poison e own).fixed = s.fixed := by
  unfold sendGranule
  repeat' split
  all_goals simp

@[simp] theorem fixed_writeGranule (s : State) (g : Nat) (bs : List (Nat × Byte)) (poison : Bool) (e : MemErr) (own : Bool) :
    (writeGranule s g bs poison e own).fixed = s.fixed := by simp [writeGranule]

@[simp] theorem fixed_storeBytes (s : State) (bs : List Host.Cell) (poison : Bool) (errs : MemErrs) (own : Bool) :
    (storeBytes s bs poison errs own).fixed = s.fixed := by simp [storeBytes]

@[simp] theorem fixed_writeBytes (s : State) (bs : List Host.Cell) (poison : Bool) :
    (writeBytes s bs poison).fixed = s.fixed := by simp [writeBytes]

@[simp] theorem fixed_storeLines (s : State) (d : HDecl) (base : Nat) (lines : List (Nat × Line)) (poison : Bool) (rec_ : W128) (errs : MemErrs) (own : Bool) :
    (storeLines s d base lines poison rec_ errs own).fixed = s.fixed := by simp [storeLines]

@[simp] theorem fixed_storeBlock (s : State) (d : HDecl) (base : Nat) (lines : List (Nat × Line)) (poison : Bool) (rec_ : W128) :
    (storeBlock s d base lines poison rec_).fixed = s.fixed := by simp [storeBlock]

@[simp] theorem fixed_tallyRead (page : Nat) (errs : MemErrs) (s : State) (g : Nat) :
    (tallyRead page errs s g).fixed = s.fixed := by
  unfold tallyRead
  split <;> simp

@[simp] theorem fixed_copyPage (errs : MemErrs) (s : State) (x : Nat) :
    (copyPage errs s x).fixed = s.fixed := by
  unfold copyPage
  repeat' first
    | (simp only [fixed_mk, fixed_eta, fixed_ite, ite_self, fixed_readGranule, fixed_setGpoison]; done)
    | (with_reducible refine (fixed_foldl _ ?_ _ _).trans ?_)
    | intro _
    | split
    | simp only [fixed_mk, fixed_eta, fixed_ite, ite_self, fixed_readGranule, fixed_setGpoison]

@[simp] theorem fixed_wipeRegion (s : State) (x : Region) :
    (wipeRegion s x).fixed = s.fixed := by simp [wipeRegion]

@[simp] theorem fixed_freeRegions (s : State) (owner : Nat) :
    (freeRegions s owner).fixed = s.fixed := by simp [freeRegions]

@[simp] theorem fixed_writeLoop (s : State) (st : Nat) (value : W64) :
    (writeLoop s st value).fixed = s.fixed := by simp [writeLoop]

@[simp] theorem fixed_modFlow (s : State) (c dst job : Nat) (g : Flow → Flow) :
    (modFlow s c dst job g).fixed = s.fixed := by simp [modFlow]

@[simp] theorem fixed_countDseq (s : State) (dst job : Nat) :
    (countDseq s dst job).fixed = s.fixed := by simp [countDseq]

@[simp] theorem fixed_sendPeer (s : State) (c id pos : Nat) (slot : Nat) (op : GrnOp) (lines : List Line) (poison : Bool) (tally : Option Nat) (epoch : Nat) :
    (sendPeer s c id pos slot op lines poison tally epoch).fixed = s.fixed := by
  unfold sendPeer
  split <;> simp

@[simp] theorem fixed_sendCommit (s : State) (c dst job epoch : Nat) :
    (sendCommit s c dst job epoch).fixed = s.fixed := by simp [sendCommit]

@[simp] theorem fixed_sendCommits (s : State) (c epoch : Nat) :
    (sendCommits s c epoch).fixed = s.fixed := by simp [sendCommits]

@[simp] theorem fixed_sendRevokes (s : State) (c epoch : Nat) :
    (sendRevokes s c epoch).fixed = s.fixed := by simp [sendRevokes]

@[simp] theorem fixed_ackSent (s : State) (c dst job dseq : Nat) (poison : Bool) :
    (ackSent s c dst job dseq poison).fixed = s.fixed := by
  unfold ackSent
  split <;> simp

@[simp] theorem fixed_maMacRun (zero : Bool) (p : Nat) (e : Entry) (s : State) :
    (maMacRun zero p e s).fixed = s.fixed := by simp [maMacRun]

@[simp] theorem fixed_maRestore (p : Nat) (s : State) :
    (maRestore p s).fixed = s.fixed := by simp [maRestore]

@[simp] theorem fixed_maDrainRun (lim : Option Nat) (p n : Nat) (e : Entry) (s : State) :
    (maDrainRun lim p n e s).fixed = s.fixed := by
  unfold maDrainRun
  repeat' first
    | (simp only [fixed_mk, fixed_eta, fixed_ite, ite_self, fixed_drawMany, fixed_modEntry, fixed_modStall, fixed_noteWrites,
                    fixed_putEntryLine]; done)
    | (with_reducible refine (fixed_foldl _ ?_ _ _).trans ?_)
    | intro _
    | split
    | simp only [fixed_mk, fixed_eta, fixed_ite, ite_self, fixed_drawMany, fixed_modEntry, fixed_modStall, fixed_noteWrites,
                    fixed_putEntryLine]

@[simp] theorem fixed_maFormRun (p : Nat) (e : Entry) (s : State) :
    (maFormRun p e s).fixed = s.fixed := by simp [maFormRun]

@[simp] theorem fixed_eeData (lim : Option Nat) (p n : Nat) (e : Entry) (tiles : List Line) (s : State) :
    (eeData lim p n e tiles s).fixed = s.fixed := by
  unfold eeData
  repeat' first
    | (simp only [fixed_mk, fixed_eta, fixed_ite, ite_self, fixed_countDrop, fixed_noteWrites, fixed_parityPiece,
                    fixed_putEntryLine]; done)
    | (with_reducible refine (fixed_foldl _ ?_ _ _).trans ?_)
    | intro _
    | split
    | simp only [fixed_mk, fixed_eta, fixed_ite, ite_self, fixed_countDrop, fixed_noteWrites, fixed_parityPiece,
                    fixed_putEntryLine]

@[simp] theorem fixed_eeRun (lim : Option Nat) (p n : Nat) (e : Entry) (s : State) :
    (eeRun lim p n e s).fixed = s.fixed := by simp [eeRun]

@[simp] theorem fixed_modTack (s : State) (f : Tack → Tack) (h : ∀ t : Tack, (f t).observed = t.observed) :
    (modTack s f).fixed = s.fixed := by
  change (s.positions, (f s.tack).observed, s.fuses) = s.fixed
  rw [h]
  rfl

@[simp] theorem fixed_extendMr (s : State) (i : Nat) (d : List Byte) :
    (extendMr s i d).fixed = s.fixed := by simp [extendMr]

@[simp] theorem fixed_setCmr (s : State) (c : Nat) (d : List Byte) :
    (setCmr s c d).fixed = s.fixed := by simp [setCmr]

@[simp] theorem fixed_deriveFwKeys (s : State) :
    (deriveFwKeys s).fixed = s.fixed := by simp [deriveFwKeys]

@[simp] theorem fixed_issueCert (s : State) :
    (issueCert s).fixed = s.fixed := by simp [issueCert]

@[simp] theorem fixed_setGateSlot (s : State) (g : Nat) (x : GateSlot) :
    (setGateSlot s g x).fixed = s.fixed := by simp [setGateSlot]

@[simp] theorem fixed_writeWhole (s : State) (a : Nat) (bs : List Byte) :
    (writeWhole s a bs).fixed = s.fixed := by simp [writeWhole]

@[simp] theorem fixed_wipeSlot (s : State) (g : Nat) :
    (wipeSlot s g).fixed = s.fixed := by simp [wipeSlot]

@[simp] theorem fixed_writeResult (s : State) (status reason code serial : Nat) :
    (writeResult s status reason code serial).fixed = s.fixed := by simp [writeResult]

@[simp] theorem fixed_denyRelease (s : State) (c reason serial : Nat) :
    (denyRelease s c reason serial).fixed = s.fixed := by simp [denyRelease]

@[simp] theorem fixed_smithyClear (s : State) :
    (smithyClear s).fixed = s.fixed := by simp [smithyClear]

@[simp] theorem fixed_putLine (s : State) (c slot : Nat) (l : GLine) :
    (putLine s c slot l).fixed = s.fixed := by simp [putLine]

@[simp] theorem fixed_writeBackLine (s : State) (key : Nat) (l : GLine) (errs : MemErrs) :
    (writeBackLine s key l errs).fixed = s.fixed := by
  unfold writeBackLine
  repeat' first
    | (simp only [fixed_mk, fixed_eta, fixed_ite, ite_self, fixed_grnCount, fixed_hbmCount, fixed_storeBytes]; done)
    | (with_reducible refine (fixed_foldl _ ?_ _ _).trans ?_)
    | intro _
    | split
    | simp only [fixed_mk, fixed_eta, fixed_ite, ite_self, fixed_grnCount, fixed_hbmCount, fixed_storeBytes]

@[simp] theorem fixed_writeBackContext (s : State) (c : Nat) :
    (writeBackContext s c).fixed = s.fixed := by
  unfold writeBackContext
  repeat' first
    | (simp; done)
    | (with_reducible refine (fixed_foldl _ ?_ _ _).trans ?_)
    | intro _
    | split

@[simp] theorem fixed_discardLines (s : State) (f : Nat → Nat → Bool) :
    (discardLines s f).fixed = s.fixed := by simp [discardLines]

@[simp] theorem fixed_askFill (s : State) (c slot : Nat) :
    (askFill s c slot).fixed = s.fixed := by simp [askFill]

@[simp] theorem fixed_grnPerform (s : State) (c slot : Nat) (op : GrnOp) (words : Line) (poison : Bool) :
    (grnPerform s c slot op words poison).2.fixed = s.fixed := by
  unfold grnPerform
  split <;> simp

@[simp] theorem fixed_grnEcc (s : State) (c slot : Nat) (ecc : EccErr) :
    (grnEcc s c slot ecc).fixed = s.fixed := by
  unfold grnEcc
  repeat' split
  all_goals simp

@[simp] theorem fixed_fillLine (s : State) (c slot a : Nat) (errs : MemErrs) :
    (fillLine s c slot a errs).fixed = s.fixed := by
  unfold fillLine
  repeat' first
    | (simp only [fixed_mk, fixed_eta, fixed_ite, ite_self, fixed_grnCount, fixed_putLine, fixed_readFor]; done)
    | (with_reducible refine (fixed_foldl _ ?_ _ _).trans ?_)
    | intro _
    | split
    | simp only [fixed_mk, fixed_eta, fixed_ite, ite_self, fixed_grnCount, fixed_putLine, fixed_readFor]

@[simp] theorem fixed_cacheSlots (s : State) (c : Nat) (slots : List Nat) :
    (cacheSlots s c slots).fixed = s.fixed := by
  unfold cacheSlots
  repeat' first
    | (simp; done)
    | (with_reducible refine (fixed_foldl _ ?_ _ _).trans ?_)
    | intro _
    | split

@[simp] theorem fixed_trimDirty (half : Nat) (errs : MemErrs) (k : Nat) (s : State) :
    (trimDirty half errs k s).fixed = s.fixed := by
  induction k generalizing s with
  | zero => rfl
  | succ k ih =>
    unfold trimDirty
    split
    · rfl
    · split
      · rw [ih]
        simp
      · rfl

@[simp] theorem fixed_replayDone (s : State) :
    (replayDone s).fixed = s.fixed := by simp [replayDone]

@[simp] theorem fixed_ctOrder (s : State) (p : Nat) (e : Entry) :
    (ctOrder s p e).fixed = s.fixed := by
  unfold ctOrder
  repeat' split
  all_goals simp

@[simp] theorem fixed_replayTake (s : State) (c : Nat) :
    (replayTake s c).fixed = s.fixed := by
  unfold replayTake
  repeat' split
  all_goals simp

@[simp] theorem fixed_linkDone (s : State) (c : Nat) :
    (linkDone s c).fixed = s.fixed := by
  unfold linkDone
  repeat' split
  all_goals simp

@[simp] theorem fixed_sendCompletion (s : State) (c : Nat) (k : Packet) (status code detail : Nat) :
    (sendCompletion s c k status code detail).fixed = s.fixed := by simp [sendCompletion]

@[simp] theorem fixed_completeCmd (s : State) (c : Nat) (k : Packet) (status code detail : Nat) :
    (completeCmd s c k status code detail).fixed = s.fixed := by simp [completeCmd]

@[simp] theorem fixed_returnCredits (k : Nat) (s : State) (n : Nat) : (returnCredits k s n).fixed = s.fixed := by
  induction k generalizing s with
  | zero => rfl
  | succ k ih =>
    unfold returnCredits
    split
    · rfl
    · rw [ih]
      simp

@[simp] theorem fixed_settle (s : State) (n : Nat) :
    (settle s n).fixed = s.fixed := by simp [settle]

@[simp] theorem fixed_freePlace (s : State) (n place : Nat) :
    (freePlace s n place).fixed = s.fixed := by simp [freePlace]

@[simp] theorem fixed_goDown (s : State) (n : Nat) :
    (goDown s n).fixed = s.fixed := by simp [goDown]

@[simp] theorem fixed_leaveDown (s : State) (n : Nat) :
    (leaveDown s n).fixed = s.fixed := by simp [leaveDown]

@[simp] theorem fixed_beginRetrain (s : State) (n : Nat) :
    (beginRetrain s n).fixed = s.fixed := by simp [beginRetrain]

@[simp] theorem fixed_replayPort (s : State) (n : Nat) :
    (replayPort s n).fixed = s.fixed := by simp [replayPort]

@[simp] theorem fixed_takeHeader (s : State) (n : Nat) (b : List Byte) :
    (takeHeader s n b).fixed = s.fixed := by simp [takeHeader]

@[simp] theorem fixed_askReplay (s : State) (n : Nat) :
    (askReplay s n).fixed = s.fixed := by simp [askReplay]

@[simp] theorem fixed_badCrc (s : State) (n : Nat) :
    (badCrc s n).fixed = s.fixed := by simp [badCrc]

@[simp] theorem fixed_placeFlit (s : State) (n : Nat) (b : List Byte) (place : Nat) :
    (placeFlit s n b place).fixed = s.fixed := by simp [placeFlit]

@[simp] theorem fixed_writePortCfg (s : State) (n : Nat) (v : Nat) :
    (writePortCfg s n v).fixed = s.fixed := by simp [writePortCfg]

@[simp] theorem fixed_consume (s : State) (i : Nat) (h : Held) :
    (consume s i h).fixed = s.fixed := by simp [consume]

@[simp] theorem fixed_modHome (s : State) (c src job : Nat) (g : Home → Home) :
    (modHome s c src job g).fixed = s.fixed := by simp [modHome]

@[simp] theorem fixed_endRun (s : State) (c : Nat) (h : Home) :
    (endRun s c h).fixed = s.fixed := by simp [endRun]

@[simp] theorem fixed_noteArrival (s : State) (c src job dseq : Nat) :
    (noteArrival s c src job dseq).fixed = s.fixed := by simp [noteArrival]

@[simp] theorem fixed_dbToken (s : State) (c src kind epoch end_ : Nat) :
    (dbToken s c src kind epoch end_).fixed = s.fixed := by simp [dbToken]

@[simp] theorem fixed_sendGap (s : State) (src job expect : Nat) :
    (sendGap s src job expect).fixed = s.fixed := by simp [sendGap]

@[simp] theorem fixed_addWacks (s : State) (c src job : Nat) (es : List (Nat × Nat)) :
    (addWacks s c src job es).fixed = s.fixed := by simp [addWacks]

@[simp] theorem fixed_noteUndo (s : State) (c src epoch slot : Nat) (op : GrnOp) (words : Line) :
    (noteUndo s c src epoch slot op words).fixed = s.fixed := by
  unfold noteUndo
  repeat' first
    | (simp only [fixed_mk, fixed_eta, fixed_ite, ite_self, fixed_modRec]; done)
    | (with_reducible refine (fixed_foldl _ ?_ _ _).trans ?_)
    | intro _
    | split
    | simp only [fixed_mk, fixed_eta, fixed_ite, ite_self, fixed_modRec]

@[simp] theorem fixed_putWords (s : State) (c slot : Nat) (f : Line → Line) :
    (putWords s c slot f).fixed = s.fixed := by
  unfold putWords
  repeat' split
  all_goals simp

@[simp] theorem fixed_undoFrom (s : State) (c src epoch : Nat) :
    (undoFrom s c src epoch).fixed = s.fixed := by
  unfold undoFrom
  repeat' first
    | (simp only [fixed_mk, fixed_eta, fixed_ite, ite_self, fixed_modRec, fixed_putWords]; done)
    | (with_reducible refine (fixed_foldl _ ?_ _ _).trans ?_)
    | intro _
    | split
    | simp only [fixed_mk, fixed_eta, fixed_ite, ite_self, fixed_modRec, fixed_putWords]

@[simp] theorem fixed_homeOp (s : State) (c slot op : Nat) :
    (homeOp s c slot op).2.fixed = s.fixed := by
  unfold homeOp
  repeat' first
    | (simp only [fixed_mk, fixed_eta, fixed_ite, ite_self, fixed_draw]; done)
    | (have hk := congrArg (fun x => State.fixed (Prod.fst x)) ‹_ = (_, _)›
       simp only [fixed_mk, fixed_eta, fixed_ite, ite_self, fixed_draw] at hk
       simp only [fixed_mk, fixed_eta, fixed_ite, ite_self, fixed_draw, ← hk]; done)
    | (have hk := congrArg (fun x => State.fixed (Prod.snd x)) ‹_ = (_, _)›
       simp only [fixed_mk, fixed_eta, fixed_ite, ite_self, fixed_draw] at hk
       simp only [fixed_mk, fixed_eta, fixed_ite, ite_self, fixed_draw, ← hk]; done)
    | (with_reducible refine (fixed_foldl _ ?_ _ _).trans ?_)
    | intro _
    | split
    | simp only [fixed_mk, fixed_eta, fixed_ite, ite_self, fixed_draw]

@[simp] theorem fixed_notifyLine (s : State) (c slot : Nat) :
    (notifyLine s c slot).fixed = s.fixed := by
  unfold notifyLine
  repeat' split
  all_goals simp

@[simp] theorem fixed_noteDep (s : State) (c src job epoch : Nat) (win : Option Nat) :
    (noteDep s c src job epoch win).fixed = s.fixed := by simp [noteDep]

@[simp] theorem fixed_endGroup (s : State) (c src job blk tally : Nat) (bad : Bool) :
    (endGroup s c src job blk tally bad).fixed = s.fixed := by
  unfold endGroup
  repeat' first
    | (simp only [fixed_mk, fixed_eta, fixed_ite, ite_self, fixed_addWacks, fixed_modHome, fixed_putLine, fixed_recCount,
                    fixed_reportFault, fixed_trigger]; done)
    | (with_reducible refine (fixed_foldl _ ?_ _ _).trans ?_)
    | intro _
    | split
    | simp only [fixed_mk, fixed_eta, fixed_ite, ite_self, fixed_addWacks, fixed_modHome, fixed_putLine, fixed_recCount,
                    fixed_reportFault, fixed_trigger]

@[simp] theorem fixed_performFlit (s : State) (c src job : Nat) (b : List Byte) (win : Option Nat) (bad : Bool) :
    (performFlit s c src job b win bad).fixed = s.fixed := by
  unfold performFlit
  repeat' split
  all_goals simp

theorem fixed_takeDseq (s : State) (i : Nat) (h : Held) (c : Nat) (take : State → Option State)
    (htake : ∀ s s1, take s = some s1 → s1.fixed = s.fixed) : (takeDseq s i h c take).fixed = s.fixed := by
  unfold takeDseq
  dsimp only
  split
  · split
    · rfl
    · simpa using htake _ _ ‹_›
  · split <;> simp

@[simp] theorem fixed_homeWrite (s : State) (i type : Nat) (bad : Bool) : (homeWrite s i type bad).fixed = s.fixed := by
  unfold homeWrite
  split
  · rfl
  · dsimp only
    split
    · rfl
    · split
      · simp only [fixed_consume, fixed_sendFlit]
        refine fixed_foldl _ (fun s b => ?_) _ _
        simp
      · refine fixed_takeDseq _ _ _ _ _ fun s s1 h => ?_
        split at h
        · cases h
          split <;> simp only [fixed_endGroup, fixed_addWacks] <;> exact fixed_foldl _ (fun s b => by simp) _ _
        · simp only [Option.ite_none_left_eq_some, Option.some.injEq] at h
          obtain ⟨_, _, _, rfl⟩ := h
          simp

@[simp] theorem fixed_askFills (s : State) (i type : Nat) :
    (askFills s i type).fixed = s.fixed := by
  unfold askFills
  repeat' first
    | (simp only [fixed_mk, fixed_eta, fixed_ite, ite_self, fixed_askFill]; done)
    | (with_reducible refine (fixed_foldl _ ?_ _ _).trans ?_)
    | intro _
    | split
    | simp only [fixed_mk, fixed_eta, fixed_ite, ite_self, fixed_askFill]

@[simp] theorem fixed_setDeps (s : State) (c : Nat) (ds : List Dep) :
    (setDeps s c ds).fixed = s.fixed := by simp [setDeps]

@[simp] theorem fixed_clearDep (s : State) (c src epoch : Nat) :
    (clearDep s c src epoch).fixed = s.fixed := by simp [clearDep]

@[simp] theorem fixed_homeRevoke (s : State) (c src job epoch end_ cause : Nat) :
    (homeRevoke s c src job epoch end_ cause).fixed = s.fixed := by
  unfold homeRevoke
  repeat' first
    | (simp only [fixed_mk, fixed_eta, fixed_ite, ite_self, fixed_modHome, fixed_recordFirst, fixed_reportFault,
                    fixed_setDeps, fixed_trigger, fixed_undoFrom]; done)
    | (with_reducible refine (fixed_foldl _ ?_ _ _).trans ?_)
    | intro _
    | split
    | simp only [fixed_mk, fixed_eta, fixed_ite, ite_self, fixed_modHome, fixed_recordFirst, fixed_reportFault,
                    fixed_setDeps, fixed_trigger, fixed_undoFrom]

@[simp] theorem fixed_ackGate (s : State) (dst job dseq : Nat) (bad : Bool) :
    (ackGate s dst job dseq bad).fixed = s.fixed := by simp [ackGate]

@[simp] theorem fixed_ackPoisoned (s : State) (c dst job : Nat) (f : Sent → Bool) :
    (ackPoisoned s c dst job f).fixed = s.fixed := by simp [ackPoisoned]

@[simp] theorem fixed_dbCommand (s : State) (c : Nat) (k : Packet) :
    (dbCommand s c k).fixed = s.fixed := by simp [dbCommand]

@[simp] theorem fixed_takePacket (s : State) (c : Nat) (k : Packet) :
    (takePacket s c k).fixed = s.fixed := by simp [takePacket]

@[simp] theorem fixed_takeHeld (n : Nat) (s : State) (c : Nat) : (takeHeld n s c).fixed = s.fixed := by
  induction n generalizing s with
  | zero => rfl
  | succ n ih =>
    unfold takeHeld
    dsimp only
    split
    · rfl
    · rw [ih]
      simp

@[simp] theorem fixed_arrivePacket (s : State) (c : Nat) (k : Packet) : (arrivePacket s c k).fixed = s.fixed := by
  unfold arrivePacket
  dsimp only
  repeat' first
    | (simp only [fixed_emitRecord, fixed_intakeCount, fixed_takeHeld, fixed_takePacket, fixed_modCtx]; done)
    | split

@[simp] theorem fixed_passOn (s : State) (m c : Nat) (k : Packet) :
    (passOn s m c k).fixed = s.fixed := by simp [passOn]

@[simp] theorem fixed_watchRing (s : State) (w : GWatch) :
    (watchRing s w).fixed = s.fixed := by simp [watchRing]

@[simp] theorem fixed_abortXfers (s : State) (m c : Nat) (seq : W32) :
    (abortXfers s m c seq).fixed = s.fixed := by simp [abortXfers]

@[simp] theorem fixed_arriveSlot (s : State) (m c : Nat) (data : List Byte) :
    (arriveSlot s m c data).fixed = s.fixed := by
  unfold arriveSlot
  repeat' first
    | (simp only [fixed_mk, fixed_eta, fixed_ite, ite_self, fixed_abortXfers, fixed_passOn, fixed_watchRing]; done)
    | (with_reducible refine (fixed_foldl _ ?_ _ _).trans ?_)
    | intro _
    | split
    | simp only [fixed_mk, fixed_eta, fixed_ite, ite_self, fixed_abortXfers, fixed_passOn, fixed_watchRing]

@[simp] theorem fixed_writeSlot (s : State) (x : Nat) (data : List Byte) (k : Nat) :
    (writeSlot s x data k).fixed = s.fixed := by simp [writeSlot]

@[simp] theorem fixed_gateWack (s : State) (src job dseq result : Nat) :
    (gateWack s src job dseq result).fixed = s.fixed := by simp [gateWack]

@[simp] theorem fixed_modGateHome (s : State) (src job : Nat) (f : Home → Home) :
    (modGateHome s src job f).fixed = s.fixed := by simp [modGateHome]

@[simp] theorem fixed_gateDseq (s : State) (i : Nat) (h : Held) (take : State → State) (htake : ∀ v0, (take v0).fixed = v0.fixed) :
    (gateDseq s i h take).fixed = s.fixed := by
  unfold gateDseq
  simp only [fixed_mk, fixed_eta, fixed_ite, ite_self, fixed_consume, fixed_modGateHome, fixed_rlDevCount, fixed_sendFlit,
                htake]

@[simp] theorem fixed_outRecord (s : State) (ring kind epoch : Nat) :
    (outRecord s ring kind epoch).fixed = s.fixed := by simp [outRecord]

@[simp] theorem fixed_outLines (s : State) (ring : Nat) (b : List Byte) :
    (outLines s ring b).fixed = s.fixed := by simp [outLines]

@[simp] theorem fixed_placeCode (s : State) (p c : Nat) (code : List W128) :
    (placeCode s p c code).fixed = s.fixed := by
  unfold placeCode
  split <;> simp

@[simp] theorem fixed_freeCode (s : State) (p c : Nat) :
    (freeCode s p c).fixed = s.fixed := by simp [freeCode]

@[simp] theorem fixed_writeContents (s : State) (p c : Nat) :
    (writeContents s p c).fixed = s.fixed := by simp [writeContents]

@[simp] theorem fixed_rewriteFailing (s : State) (c : Nat) :
    (rewriteFailing s c).fixed = s.fixed := by simp [rewriteFailing]

@[simp] theorem fixed_writeSetTables (s : State) (c : Nat) :
    (writeSetTables s c).fixed = s.fixed := by simp [writeSetTables]

@[simp] theorem fixed_writePrimeTable (s : State) (p c : Nat) :
    (writePrimeTable s p c).fixed = s.fixed := by simp [writePrimeTable]

@[simp] theorem fixed_stallOff (s : State) (p : Nat) :
    (stallOff s p).fixed = s.fixed := by simp [stallOff]

@[simp] theorem fixed_stopContext (s : State) (p lid c : Nat) :
    (stopContext s p lid c).fixed = s.fixed := by
  unfold stopContext
  repeat' first
    | (simp only [fixed_mk, fixed_eta, fixed_ite, ite_self, fixed_completeCmd, fixed_draw, fixed_emitRecord, fixed_modCtx,
                    fixed_reportOstler]; done)
    | (have hk := congrArg (fun x => State.fixed (Prod.fst x)) ‹_ = (_, _)›
       simp only [fixed_mk, fixed_eta, fixed_ite, ite_self, fixed_completeCmd, fixed_draw, fixed_emitRecord, fixed_modCtx,
                    fixed_reportOstler] at hk
       simp only [fixed_mk, fixed_eta, fixed_ite, ite_self, fixed_completeCmd, fixed_draw, fixed_emitRecord, fixed_modCtx,
                    fixed_reportOstler, ← hk]; done)
    | (have hk := congrArg (fun x => State.fixed (Prod.snd x)) ‹_ = (_, _)›
       simp only [fixed_mk, fixed_eta, fixed_ite, ite_self, fixed_completeCmd, fixed_draw, fixed_emitRecord, fixed_modCtx,
                    fixed_reportOstler] at hk
       simp only [fixed_mk, fixed_eta, fixed_ite, ite_self, fixed_completeCmd, fixed_draw, fixed_emitRecord, fixed_modCtx,
                    fixed_reportOstler, ← hk]; done)
    | (with_reducible refine (fixed_foldl _ ?_ _ _).trans ?_)
    | intro _
    | split
    | simp only [fixed_mk, fixed_eta, fixed_ite, ite_self, fixed_completeCmd, fixed_draw, fixed_emitRecord, fixed_modCtx,
                    fixed_reportOstler]

@[simp] theorem fixed_applyTarget (s : State) (p : Nat) :
    (applyTarget s p).fixed = s.fixed := by simp [applyTarget]

@[simp] theorem fixed_sendLine (s : State) (p n q c k : Nat) (to_ : LineTo) (l : Line) :
    (sendLine s p n q c k to_ l).fixed = s.fixed := by simp [sendLine]

@[simp] theorem fixed_sendTail (s : State) (p n q c : Nat) :
    (sendTail s p n q c).fixed = s.fixed := by simp [sendTail]

@[simp] theorem fixed_sentEntry (s : State) (p n : Nat) (elsewhere : Bool) :
    (sentEntry s p n elsewhere).fixed = s.fixed := by simp [sentEntry]

@[simp] theorem fixed_ydPutRun (p : Nat) (t : Fin 4) (s : State) (w : W128) (c : Nat) :
    (ydPutRun p t s w c).fixed = s.fixed := by
  unfold ydPutRun
  repeat' first
    | (simp only [fixed_mk, fixed_eta, fixed_ite, ite_self, fixed_carryPoison, fixed_countDrop, fixed_engineAbsent,
                    fixed_parityPiece, fixed_recordAbsent, fixed_sendLine, fixed_sendTail,
                    fixed_sentEntry, fixed_takeEntry]; done)
    | (have hk := congrArg (fun x => State.fixed (Prod.fst x)) ‹_ = (_, _)›
       simp only [fixed_mk, fixed_eta, fixed_ite, ite_self, fixed_carryPoison, fixed_countDrop, fixed_engineAbsent,
                    fixed_parityPiece, fixed_recordAbsent, fixed_sendLine, fixed_sendTail,
                    fixed_sentEntry, fixed_takeEntry] at hk
       simp only [fixed_mk, fixed_eta, fixed_ite, ite_self, fixed_carryPoison, fixed_countDrop, fixed_engineAbsent,
                    fixed_parityPiece, fixed_recordAbsent, fixed_sendLine, fixed_sendTail,
                    fixed_sentEntry, fixed_takeEntry, ← hk]; done)
    | (have hk := congrArg (fun x => State.fixed (Prod.snd x)) ‹_ = (_, _)›
       simp only [fixed_mk, fixed_eta, fixed_ite, ite_self, fixed_carryPoison, fixed_countDrop, fixed_engineAbsent,
                    fixed_parityPiece, fixed_recordAbsent, fixed_sendLine, fixed_sendTail,
                    fixed_sentEntry, fixed_takeEntry] at hk
       simp only [fixed_mk, fixed_eta, fixed_ite, ite_self, fixed_carryPoison, fixed_countDrop, fixed_engineAbsent,
                    fixed_parityPiece, fixed_recordAbsent, fixed_sendLine, fixed_sendTail,
                    fixed_sentEntry, fixed_takeEntry, ← hk]; done)
    | (with_reducible refine (fixed_foldl _ ?_ _ _).trans ?_)
    | intro _
    | split
    | simp only [fixed_mk, fixed_eta, fixed_ite, ite_self, fixed_carryPoison, fixed_countDrop, fixed_engineAbsent,
                    fixed_parityPiece, fixed_recordAbsent, fixed_sendLine, fixed_sendTail,
                    fixed_sentEntry, fixed_takeEntry]

@[simp] theorem fixed_ydMcastRun (p : Nat) (t : Fin 4) (s : State) (w : W128) (c : Nat) :
    (ydMcastRun p t s w c).fixed = s.fixed := by simp [ydMcastRun]

@[simp] theorem fixed_sendWord (bridle : Bool) (p : Nat) (t : Fin 4) (s : State) (w : W128) (c : Nat) (b : Body) :
    (sendWord bridle p t s w c b).fixed = s.fixed := by
  unfold sendWord
  repeat' first
    | (simp only [fixed_mk, fixed_eta, fixed_ite, ite_self, fixed_engineAbsent, fixed_modEntry, fixed_modStall, fixed_send,
                    fixed_sendBridle, fixed_takeEntry]; done)
    | (have hk := congrArg (fun x => State.fixed (Prod.fst x)) ‹_ = (_, _)›
       simp only [fixed_mk, fixed_eta, fixed_ite, ite_self, fixed_engineAbsent, fixed_modEntry, fixed_modStall, fixed_send,
                    fixed_sendBridle, fixed_takeEntry] at hk
       simp only [fixed_mk, fixed_eta, fixed_ite, ite_self, fixed_engineAbsent, fixed_modEntry, fixed_modStall, fixed_send,
                    fixed_sendBridle, fixed_takeEntry, ← hk]; done)
    | split

@[simp] theorem fixed_haltFault (s : State) (p c : Nat) (t : Fin 4) (pc handle action code : Nat) :
    (haltFault s p c t pc handle action code).fixed = s.fixed := by simp [haltFault]

@[simp] theorem fixed_runEntry (lim : Option Nat) (p n : Nat) (s : State) :
    (runEntry lim p n s).fixed = s.fixed := by
  unfold runEntry
  repeat' first
    | (simp only [fixed_mk, fixed_eta, fixed_ite, ite_self, fixed_ctFillRun, fixed_ctGatherRun, fixed_ctScatterRun,
                    fixed_eeRun, fixed_maDrainRun, fixed_maFormRun, fixed_maMacRun, fixed_teRun]; done)
    | (with_reducible refine (fixed_foldl _ ?_ _ _).trans ?_)
    | intro _
    | split
    | simp only [fixed_mk, fixed_eta, fixed_ite, ite_self, fixed_ctFillRun, fixed_ctGatherRun, fixed_ctScatterRun,
                    fixed_eeRun, fixed_maDrainRun, fixed_maFormRun, fixed_maMacRun, fixed_teRun]

@[simp] theorem fixed_ranEntry (p n : Nat) (s : State) :
    (ranEntry p n s).fixed = s.fixed := by simp [ranEntry]

@[simp] theorem fixed_finishEntry (s : State) (p n : Nat) (e : Entry) :
    (finishEntry s p n e).fixed = s.fixed := by simp [finishEntry]

@[simp] theorem fixed_poisonReached (s : State) (p c : Nat) (e : Entry) :
    (poisonReached s p c e).fixed = s.fixed := by simp [poisonReached]

@[simp] theorem fixed_residueFound (s : State) (p n : Nat) (e : Entry) :
    (residueFound s p n e).fixed = s.fixed := by simp [residueFound]

@[simp] theorem fixed_suppressed (s : State) (p n line : Nat) :
    (suppressed s p n line).fixed = s.fixed := by simp [suppressed]

@[simp] theorem fixed_decided (s : State) (p n line : Nat) (r : Option Line) :
    (decided s p n line r).fixed = s.fixed := by simp [decided]

@[simp] theorem fixed_undecided (s : State) (p n line : Nat) (e : Entry) :
    (undecided s p n line e).fixed = s.fixed := by simp [undecided]

@[simp] theorem fixed_scalarOp (s : State) (p : Nat) (t : Fin 4) (op : Nat) (f : State → W128 → StallCtx → StallCtx) :
    (scalarOp s p t op f).fixed = s.fixed := by simp [scalarOp]

@[simp] theorem fixed_arriveBar (s : State) (p : Nat) (t : Fin 4) (k : Nat) :
    (arriveBar s p t k).fixed = s.fixed := by simp [arriveBar]

@[simp] theorem fixed_branch (s : State) (p : Nat) (t : Fin 4) (taken : Bool) (target : BitVec 24) :
    (branch s p t taken target).fixed = s.fixed := by simp [branch]

@[simp] theorem fixed_haltTeam (s : State) (p : Nat) (t : Fin 4) :
    (haltTeam s p t).fixed = s.fixed := by simp [haltTeam]

@[simp] theorem fixed_tallyFault (s : State) (p c : Nat) (t : Fin 4) (pc h action : Nat) :
    (tallyFault s p c t pc h action).fixed = s.fixed := by simp [tallyFault]

@[simp] theorem fixed_landLine (s : State) (q c : Nat) (to_ : LineTo) (l : Line) :
    (landLine s q c to_ l).fixed = s.fixed := by
  unfold landLine
  split <;> simp

@[simp] theorem fixed_ackTo (s : State) (q c id : Nat) (ack : Option Nat) :
    (ackTo s q c id ack).fixed = s.fixed := by
  unfold ackTo
  split <;> simp

@[simp] theorem fixed_landWrite (s : State) (m q c : Nat) (to_ : LineTo) (l : Line) (poison bad : Bool) (ack : Option Nat) :
    (landWrite s m q c to_ l poison bad ack).fixed = s.fixed := by simp [landWrite]

@[simp] theorem fixed_suppressLine (s : State) (m q c : Nat) (h : Nat) (ack : Option Nat) (by_ : Origin) :
    (suppressLine s m q c h ack by_).fixed = s.fixed := by simp [suppressLine]

@[simp] theorem fixed_acked (s : State) (p id : Nat) :
    (acked s p id).fixed = s.fixed := by simp [acked]

@[simp] theorem fixed_unclaimed (s : State) (m p id : Nat) :
    (unclaimed s m p id).fixed = s.fixed := by simp [unclaimed]

@[simp] theorem fixed_noWait (s : State) (p n id : Nat) :
    (noWait s p n id).fixed = s.fixed := by simp [noWait]

@[simp] theorem fixed_drvReport1 (p : Nat) (s : State) (m : Msg) :
    (drvReport1 p s m).fixed = s.fixed := by
  unfold drvReport1
  repeat' split
  all_goals simp

@[simp] theorem fixed_countedDrops (s : State) (p c : Nat) :
    (countedDrops s p c).fixed = s.fixed := by simp [countedDrops]

@[simp] theorem fixed_sendWriteBacks (s : State) (p c : Nat) :
    (sendWriteBacks s p c).fixed = s.fixed := by
  unfold sendWriteBacks
  repeat' first
    | (simp; done)
    | (with_reducible refine (fixed_foldl _ ?_ _ _).trans ?_)
    | intro _
    | split

@[simp] theorem fixed_drvAsk (s : State) (p n d : Nat) (l : Line) :
    (drvAsk s p n d l).fixed = s.fixed := by simp [drvAsk]

@[simp] theorem fixed_drvAsks (p n : Nat) (l : List (Nat × Line)) (s : State) : (drvAsks p n l s).fixed = s.fixed := by
  induction l generalizing s with
  | nil => simp [drvAsks]
  | cons x l ih =>
    unfold drvAsks
    split
    · rw [ih]
      simp
    · simp

@[simp] theorem fixed_drvPump (s : State) :
    (drvPump s).fixed = s.fixed := by simp [drvPump]

@[simp] theorem fixed_drvRun (p : Nat) (t : Fin 4) (s : State) (w : W128) (c : Nat) :
    (drvRun p t s w c).fixed = s.fixed := by simp [drvRun]

@[simp] theorem fixed_drvRead (s : State) (d c : Nat) (x : HDecl) (ls : List Nat) (errs : MemErrs) :
    (drvRead s d c x ls errs).2.2.fixed = s.fixed := by
  have h : ∀ (l : List Nat) (acc : List (Nat × List Byte) × Bool × State), (l.foldl (fun acc g =>
      (acc.1 ++ [(g, (readFor acc.2.2 c g (errs.at_ g) true).1)], acc.2.1 || (readFor acc.2.2 c g (errs.at_ g) true).2.1,
        (readFor acc.2.2 c g (errs.at_ g) true).2.2)) acc).2.2.fixed = acc.2.2.fixed := by
    intro l
    induction l with
    | nil => intro acc; rfl
    | cons g l ih =>
      intro acc
      rw [List.foldl_cons, ih]
      exact fixed_readFor ..
  exact (fixed_drvCount ..).trans (h _ ([], false, s))

@[simp] theorem fixed_drvDeliver (s : State) (d : Nat) (ms : List DrvEntry) (off : DrvEntry → Nat) (ls : List Line) :
    (drvDeliver s d ms off ls).fixed = s.fixed := by simp [drvDeliver]

@[simp] theorem fixed_drvNotices (s : State) (d : Nat) (ms : List DrvEntry) :
    (drvNotices s d ms).fixed = s.fixed := by simp [drvNotices]

@[simp] theorem fixed_drvFinish (s : State) (d : Nat) (ms : List DrvEntry) :
    (drvFinish s d ms).fixed = s.fixed := by simp [drvFinish]

@[simp] theorem fixed_drvError (s : State) (d : Nat) (e : DrvEntry) (h code : Nat) :
    (drvError s d e h code).fixed = s.fixed := by simp [drvError]

@[simp] theorem fixed_drvReport (s : State) (d : Nat) (e : DrvEntry) (h code : Nat) :
    (drvReport s d e h code).fixed = s.fixed := by simp [drvReport]

@[simp] theorem fixed_drvAbsent (s : State) (d : Nat) (e : DrvEntry) :
    (drvAbsent s d e).fixed = s.fixed := by simp [drvAbsent]

@[simp] theorem fixed_drvCacheRec (s : State) (d c h : Nat) :
    (drvCacheRec s d c h).fixed = s.fixed := by simp [drvCacheRec]

@[simp] theorem fixed_drvReadHalf (d : Nat) (ms : List DrvEntry) (e : DrvEntry) (img : Image) (rows : List Nat) (errs : MemErrs)
    (s : State) (i : Nat) : (drvReadHalf d ms e img rows errs s i).2.fixed = s.fixed := by
  unfold drvReadHalf
  split <;> simp

@[simp] theorem fixed_drvReadTrailer (d : Nat) (e : DrvEntry) (img : Image) (errs : MemErrs) (s : State) (i : Nat) :
    (drvReadTrailer d e img errs s i).2.fixed = s.fixed := by
  unfold drvReadTrailer
  split <;> simp

@[simp] theorem fixed_drvReadKey (d : Nat) (ms : List DrvEntry) (e : DrvEntry) (img : Image) (rows : List Nat) (errs : MemErrs)
    (acc : Bool × State) (i : Nat) : (drvReadKey d ms e img rows errs acc i).2.fixed = acc.2.fixed := (fixed_drvReadTrailer ..).trans (fixed_drvReadHalf ..)

@[simp] theorem fixed_drvServe (s : State) (d : Nat) (ms : List DrvEntry) (bad : Bool) (errs : MemErrs) :
    (drvServe s d ms bad errs).fixed = s.fixed := by
  have hc : ∀ (l : List DrvEntry) (s : State), (l.foldl (fun s x =>
      (drvKeys x).foldl (fun s i => drvCacheRec s d x.ctx (drvHandle x i)) s) s).fixed = s.fixed :=
    fun l s => fixed_foldl _ (fun s b => fixed_foldl _ (fun s b => fixed_drvCacheRec ..) _ _) _ _
  unfold drvServe
  split
  · rfl
  · rename_i e l
    dsimp only
    have h1 := (hc (e :: l) _).trans (fixed_foldl (fun s x => drvAbsent s d x) (fun s b => fixed_drvAbsent ..) (e :: l) s)
    generalize List.foldl _ (List.foldl _ s (e :: l)) (e :: l) = s0 at h1 ⊢
    split
    · refine (fixed_foldl _ (fun s b => by simp) _ _).trans ?_
      refine (fixed_foldl _ (fun s b => by simp) _ _).trans ?_
      simp only [fixed_drvNotices]
      exact (fixed_foldl _ (fun s b => by simp) _ _).trans h1
    · have h2 := fixed_foldl2 (drvReadKey d (e :: l) e (imageOf s e.ctx)
        ((List.range (drvRange (imageOf s e.ctx) e).2).map ((drvRange (imageOf s e.ctx) e).1 + ·)) errs)
        (fun a b => fixed_drvReadKey ..)
        (drvKeys e) (false, if 2 ≤ (e :: l).length then drvCount (drvCount s0 d 3 (e :: l).length) d 4 1 else drvCount s0 d 3 (e :: l).length)
      simp only [fixed_ite, fixed_drvCount, ite_self] at h2
      rw [← h1, ← h2]
      simp only [apply_ite State.fixed, fixed_drvNotices, fixed_modDrover, fixed_drvFinish, fixed_trigger, fixed_recCount, fixed_drvReport,
        fixed_drvError, ite_self]

@[simp] theorem fixed_closeGang (s : State) (d g : Nat) :
    (closeGang s d g).fixed = s.fixed := by simp [closeGang]

@[simp] theorem fixed_drvAccept (s : State) (d : Nat) (e : DrvEntry) (bad : Bool) (errs : MemErrs) :
    (drvAccept s d e bad errs).fixed = s.fixed := by
  unfold drvAccept
  split <;> simp

@[simp] theorem fixed_storeCopy (s : State) (c lid h : Nat) (r : W128) (poison : Bool) :
    (storeCopy s c lid h r poison).fixed = s.fixed := by
  unfold storeCopy
  split <;> simp

@[simp] theorem fixed_deliverRecords (s : State) (c : Nat) :
    (deliverRecords s c).fixed = s.fixed := by simp [deliverRecords]

@[simp] theorem fixed_closeEpoch (s : State) (c : Nat) :
    (closeEpoch s c).fixed = s.fixed := by
  unfold closeEpoch
  repeat' first
    | (simp only [fixed_mk, fixed_eta, fixed_ite, ite_self, fixed_dbEpoch, fixed_modRec]; done)
    | (with_reducible refine (fixed_foldl _ ?_ _ _).trans ?_)
    | intro _
    | split
    | simp only [fixed_mk, fixed_eta, fixed_ite, ite_self, fixed_dbEpoch, fixed_modRec]

@[simp] theorem fixed_closeLast (s : State) (c : Nat) :
    (closeLast s c).fixed = s.fixed := by simp [closeLast]

@[simp] theorem fixed_flipMap (s : State) (c h b : Nat) :
    (flipMap s c h b).fixed = s.fixed := by simp [flipMap]

@[simp] theorem fixed_abortQueue (p : Nat) (l : List (Nat × Entry)) (s : State) : (abortQueue p l s).fixed = s.fixed := by
  induction l generalizing s with
  | nil => rfl
  | cons x l ih =>
    obtain ⟨n, e⟩ := x
    unfold abortQueue
    split
    · exact ih s
    · split
      · rfl
      · dsimp only
        split
        · rw [fixed_runEntry, fixed_draw]
        · rw [ih, fixed_runEntry, fixed_draw]

@[simp] theorem fixed_cutSends (s : State) (p n : Nat) :
    (cutSends s p n).fixed = s.fixed := by simp [cutSends]

@[simp] theorem fixed_abortEntries (s : State) (p c : Nat) :
    (abortEntries s p c).fixed = s.fixed := by simp [abortEntries]

@[simp] theorem fixed_abortStall (s : State) (p c : Nat) :
    (abortStall s p c).fixed = s.fixed := by simp [abortStall]

@[simp] theorem fixed_abortDrovers (s : State) (c : Nat) :
    (abortDrovers s c).fixed = s.fixed := by
  unfold abortDrovers
  repeat' first
    | (simp only [fixed_mk, fixed_eta, fixed_ite, ite_self, fixed_drvNotices, fixed_modDrover]; done)
    | (with_reducible refine (fixed_foldl _ ?_ _ _).trans ?_)
    | intro _
    | split
    | simp only [fixed_mk, fixed_eta, fixed_ite, ite_self, fixed_drvNotices, fixed_modDrover]

@[simp] theorem fixed_dropReads (s : State) (c : Nat) :
    (dropReads s c).fixed = s.fixed := by simp [dropReads]

@[simp] theorem fixed_abortStep (s : State) (c : Nat) :
    (abortStep s c).fixed = s.fixed := by simp [abortStep]

@[simp] theorem fixed_resetBarriers (s : State) (c : Nat) :
    (resetBarriers s c).fixed = s.fixed := by simp [resetBarriers]

@[simp] theorem fixed_abortWriteBack (s : State) (c : Nat) :
    (abortWriteBack s c).fixed = s.fixed := by
  unfold abortWriteBack
  repeat' first
    | (simp only [fixed_mk, fixed_eta, fixed_ite, ite_self, fixed_countedDrops, fixed_deliverRecords, fixed_storeCopy]; done)
    | (with_reducible refine (fixed_foldl _ ?_ _ _).trans ?_)
    | intro _
    | split
    | simp only [fixed_mk, fixed_eta, fixed_ite, ite_self, fixed_countedDrops, fixed_deliverRecords, fixed_storeCopy]

@[simp] theorem fixed_clearCaches (s : State) :
    (clearCaches s).fixed = s.fixed := by simp [clearCaches]

@[simp] theorem fixed_loadStalls (s : State) (c : Nat) (save : NMap StallCtx) :
    (loadStalls s c save).fixed = s.fixed := by simp [loadStalls]

@[simp] theorem fixed_switchOut (s : State) (c : Nat) :
    (switchOut s c).fixed = s.fixed := by simp [switchOut]

@[simp] theorem fixed_switchIn (s : State) (c : Nat) :
    (switchIn s c).fixed = s.fixed := by simp [switchIn]

@[simp] theorem fixed_setAge (s : State) (p mv : Nat) :
    (setAge s p mv).fixed = s.fixed := by simp [setAge]

@[simp] theorem fixed_windowWriteLine (s : State) (p c line first : Nat) (bs : List Byte) :
    (windowWriteLine s p c line first bs).fixed = s.fixed := by simp [windowWriteLine]

@[simp] theorem fixed_wakeNap (s : State) (p : Nat) :
    (wakeNap s p).fixed = s.fixed := by simp [wakeNap]

@[simp] theorem fixed_modOstler (s : State) (f : Ostler → Ostler) :
    (modOstler s f).fixed = s.fixed := by simp [modOstler]

@[simp] theorem fixed_writeMargin (s : State) :
    (writeMargin s).fixed = s.fixed := by simp [writeMargin]

@[simp] theorem fixed_settleMargin (s : State) :
    (settleMargin s).fixed = s.fixed := by simp [settleMargin]

@[simp] theorem fixed_modRst (s : State) (f : Rst → Rst) :
    (modRst s f).fixed = s.fixed := by simp [modRst]

@[simp] theorem fixed_undefineSmithy (s : State) :
    (undefineSmithy s).fixed = s.fixed := by simp [undefineSmithy]

@[simp] theorem fixed_loseRecords (s : State) :
    (loseRecords s).fixed = s.fixed := by simp [loseRecords]

@[simp] theorem fixed_markCause (s : State) (bit : Nat) :
    (markCause s bit).fixed = s.fixed := by simp [markCause]

@[simp] theorem fixed_pulseActs (s : State) (ns : Nat) :
    (pulseActs s ns).2.fixed = s.fixed := by
  unfold pulseActs
  repeat' first
    | (simp; done)
    | split

@[simp] theorem fixed_resetGatehouse (s : State) :
    (resetGatehouse s).fixed = s.fixed := by simp [resetGatehouse]

@[simp] theorem fixed_writeWdog (s : State) (v : Nat) :
    (writeWdog s v).fixed = s.fixed := by simp [writeWdog]

@[simp] theorem fixed_readRail (s : State) (rail mv : Nat) :
    (readRail s rail mv).fixed = s.fixed := by simp [readRail]

@[simp] theorem fixed_clockLost (s : State) (pos : Nat) :
    (clockLost s pos).fixed = s.fixed := by simp [clockLost]

@[simp] theorem fixed_sampleRail (s : State) (mv : Nat) :
    (sampleRail s mv).fixed = s.fixed := by simp [sampleRail]

@[simp] theorem fixed_dbRail (s : State) (code pos value : Nat) :
    (dbRail s code pos value).fixed = s.fixed := by simp [dbRail]

@[simp] theorem fixed_eachPowered (s : State) (f : Stall → Stall) :
    (eachPowered s f).fixed = s.fixed := by simp [eachPowered]

@[simp] theorem fixed_countStretch (s : State) (p : Nat) :
    (countStretch s p).fixed = s.fixed := by simp [countStretch]

@[simp] theorem fixed_countEnergy (s : State) (p : Nat) :
    (countEnergy s p).fixed = s.fixed := by simp [countEnergy]

@[simp] theorem fixed_answer (s : State) (via : Transport) (type : Nat) (m : List Byte) :
    (answer s via type m).fixed = s.fixed := by
  unfold answer
  split <;> simp

@[simp] theorem fixed_tookMessage (s : State) (via : Transport) :
    (tookMessage s via).fixed = s.fixed := by
  unfold tookMessage
  split <;> simp

@[simp] theorem fixed_modSmithy (s : State) (f : Smithy → Smithy) :
    (modSmithy s f).fixed = s.fixed := by simp [modSmithy]

@[simp] theorem fixed_smithyStart (s : State) (rejected : Bool) (outs : List (Nat × Nat)) (cycles : Nat) :
    (smithyStart s rejected outs cycles).fixed = s.fixed := by simp [smithyStart]

@[simp] theorem fixed_finishSmithy (s : State) (o : SmithyOp) :
    (finishSmithy s o).fixed = s.fixed := by simp [finishSmithy]

@[simp] theorem fixed_countPackage (s : State) (res : Nat) :
    (countPackage s res).fixed = s.fixed := by simp [countPackage]

@[simp] theorem fixed_installShare (s : State) (g c h : Nat) :
    (installShare s g c h).fixed = s.fixed := by simp [installShare]

@[simp] theorem fixed_clearShare (s : State) (g : Nat) :
    (clearShare s g).fixed = s.fixed := by simp [clearShare]

@[simp] theorem fixed_writeInstall (s : State) (v : W64) :
    (writeInstall s v).fixed = s.fixed := by
  unfold writeInstall
  repeat' first
    | (simp only [fixed_mk, fixed_eta, fixed_ite, ite_self, fixed_clearShare, fixed_csrPut, fixed_installShare]; done)
    | (with_reducible refine (fixed_foldl _ ?_ _ _).trans ?_)
    | intro _
    | split
    | simp only [fixed_mk, fixed_eta, fixed_ite, ite_self, fixed_clearShare, fixed_csrPut, fixed_installShare]

@[simp] theorem fixed_denyUnread (s : State) (c reason : Nat) :
    (denyUnread s c reason).fixed = s.fixed := by simp [denyUnread]

@[simp] theorem fixed_checkRelease (s : State) (r : Release) :
    (checkRelease s r).fixed = s.fixed := by
  unfold checkRelease
  repeat' first
    | with_reducible exact fixed_denyUnread ..
    | with_reducible exact fixed_denyRelease ..
    | exact fixed_modTack _ _ fun _ => rfl
    | dsimp only
    | split

@[simp] theorem fixed_writeRequest (s : State) (v : W64) :
    (writeRequest s v).fixed = s.fixed := by simp [writeRequest]

@[simp] theorem fixed_storeOut (s : State) (dout : HDecl) (ls : List (Nat × Line)) :
    (storeOut s dout ls).fixed = s.fixed := by simp [storeOut]

@[simp] theorem fixed_zeroPen (s : State) (r : Release) (n : Nat) :
    (zeroPen s r n).fixed = s.fixed := by
  unfold zeroPen
  repeat' first
    | (simp; done)
    | (with_reducible refine (fixed_foldl _ ?_ _ _).trans ?_)
    | intro _
    | split

@[simp] theorem fixed_released (s : State) (r : Release) (p : Policy) :
    (released s r p).fixed = s.fixed := by simp [released]

@[simp] theorem fixed_releaseFailed (s : State) (r : Release) (code : Nat) :
    (releaseFailed s r code).fixed = s.fixed := by simp [releaseFailed]

@[simp] theorem fixed_gateRun (s : State) (r : Release) (fault : Nat) :
    (gateRun s r fault).fixed = s.fixed := by
  unfold gateRun
  split <;> simp

@[simp] theorem fixed_spdmSend (s : State) (via : Transport) (code p1 p2 : Nat) (body : List Byte) :
    (spdmSend s via code p1 p2 body).fixed = s.fixed := by simp [spdmSend]

@[simp] theorem fixed_spdmSecure (s : State) (via : Transport) (ses code p1 p2 : Nat) (body : List Byte) :
    (spdmSecure s via ses code p1 p2 body).fixed = s.fixed := by simp [spdmSecure]

@[simp] theorem fixed_spdmError (s : State) (via : Transport) (e : Nat) :
    (spdmError s via e).fixed = s.fixed := by simp [spdmError]

@[simp] theorem fixed_setStage (s : State) (via : Transport) (k : Nat) :
    (setStage s via k).fixed = s.fixed := by simp [setStage]

@[simp] theorem fixed_spdm (s : State) (via : Transport) (need : Nat) (go : State) (hgo : go.fixed = s.fixed) :
    (spdm s via need go).fixed = s.fixed := by
  unfold spdm
  simp only [fixed_mk, fixed_eta, fixed_ite, ite_self, fixed_spdmError, fixed_tookMessage, hgo]

@[simp] theorem fixed_drawNonce (s : State) :
    (drawNonce s).2.fixed = s.fixed := by simp [drawNonce]

@[simp] theorem fixed_smithyEcdhe (s : State) (ok : Bool) :
    (smithyEcdhe s ok).fixed = s.fixed := by simp [smithyEcdhe]

@[simp] theorem fixed_inSes (s : State) (via : Transport) (session : Nat) (go : State) (hgo : go.fixed = s.fixed) :
    (inSes s via session go).fixed = s.fixed := by
  unfold inSes
  repeat' first
    | (simp only [fixed_mk, fixed_eta, fixed_ite, ite_self, fixed_spdm, fixed_spdmError, hgo]; done)
    | split

@[simp] theorem fixed_measureImage (s : State) (c : Nat) (img : List Byte) :
    (measureImage s c img).fixed = s.fixed := by simp [measureImage]

@[simp] theorem fixed_setIvr (s : State) (p : Nat) :
    (setIvr s p).fixed = s.fixed := by simp [setIvr]

@[simp] theorem fixed_trainHbm (s : State) :
    (trainHbm s).fixed = s.fixed := by simp [trainHbm]

@[simp] theorem fixed_installRegions (s : State) :
    (installRegions s).fixed = s.fixed := by simp [installRegions]

@[simp] theorem fixed_checkSlot (s : State) (g : Nat) :
    (checkSlot s g).fixed = s.fixed := by
  unfold checkSlot
  split <;> simp

@[simp] theorem fixed_measureRom (s : State) :
    (measureRom s).fixed = s.fixed := by simp [measureRom]

@[simp] theorem fixed_startFirmware (s : State) (a b c : Bool) :
    (startFirmware s a b c).fixed = s.fixed := by simp [startFirmware]

@[simp] theorem fixed_enterRecovery (s : State) :
    (enterRecovery s).fixed = s.fixed := by simp [enterRecovery]

@[simp] theorem fixed_startSmithy (s : State) :
    (startSmithy s).fixed = s.fixed := by simp [startSmithy]

@[simp] theorem fixed_bootFaultN (s : State) :
    (bootFaultN s).fixed = s.fixed := by simp [bootFaultN]

@[simp] theorem fixed_openRings (s : State) :
    (openRings s).fixed = s.fixed := by simp [openRings]

@[simp] theorem fixed_modDisc (s : State) (f : Disc → Disc) :
    (modDisc s f).fixed = s.fixed := by simp [modDisc]

@[simp] theorem fixed_mgCount (s : State) (i : Nat) :
    (mgCount s i).fixed = s.fixed := by simp [mgCount]

@[simp] theorem fixed_stepLedger (s : State) (th : Int) :
    (stepLedger s th).fixed = s.fixed := by simp [stepLedger]

@[simp] theorem fixed_takeSample (s : State) (src : Nat) (th : Int) :
    (takeSample s src th).fixed = s.fixed := by simp [takeSample]

@[simp] theorem fixed_sampleFrom (s : State) (src : Nat) (th : Int) :
    (sampleFrom s src th).fixed = s.fixed := by simp [sampleFrom]

@[simp] theorem fixed_writeLedgerSet (s : State) (v : W64) :
    (writeLedgerSet s v).fixed = s.fixed := by simp [writeLedgerSet]

@[simp] theorem fixed_ptpSample (s : State) :
    (ptpSample s).fixed = s.fixed := by
  unfold ptpSample
  split <;> simp

@[simp] theorem fixed_forceEngine (s : State) (p : Nat) (g : Engine) :
    (forceEngine s p g).fixed = s.fixed := by simp [forceEngine]

@[simp] theorem fixed_resetEngine (s : State) (p : Nat) (g : Engine) :
    (resetEngine s p g).fixed = s.fixed := by
  unfold resetEngine
  split <;> simp

@[simp] theorem fixed_resetStall (s : State) (p : Nat) :
    (resetStall s p).fixed = s.fixed := by simp [resetStall]

@[simp] theorem fixed_forceStall (s : State) (p : Nat) :
    (forceStall s p).fixed = s.fixed := by simp [forceStall]

@[simp] theorem fixed_resetDrover (s : State) (d : Nat) :
    (resetDrover s d).fixed = s.fixed := by
  unfold resetDrover
  repeat' first
    | (simp only [fixed_mk, fixed_eta, fixed_ite, ite_self, fixed_csrClear, fixed_drvNotices, fixed_drvPump, fixed_modDrover]; done)
    | (with_reducible refine (fixed_foldl _ ?_ _ _).trans ?_)
    | intro _
    | split
    | simp only [fixed_mk, fixed_eta, fixed_ite, ite_self, fixed_csrClear, fixed_drvNotices, fixed_drvPump, fixed_modDrover]

@[simp] theorem fixed_resetPort (s : State) (n : Nat) :
    (resetPort s n).fixed = s.fixed := by simp [resetPort]

@[simp] theorem fixed_doBlockReset (s : State) (kind target : Nat) :
    (doBlockReset s kind target).fixed = s.fixed := by
  unfold doBlockReset
  repeat' split
  all_goals simp

@[simp] theorem fixed_blockNow (s : State) (kind target result : Nat) :
    (blockNow s kind target result).fixed = s.fixed := by simp [blockNow]

@[simp] theorem fixed_writeBlk (s : State) (v : W64) :
    (writeBlk s v).fixed = s.fixed := by simp [writeBlk]

@[simp] theorem fixed_modGateFlow (s : State) (ring : Nat) (f : Flow → Flow) :
    (modGateFlow s ring f).fixed = s.fixed := by simp [modGateFlow]

@[simp] theorem fixed_gateWrite (s : State) (ring dst epoch : Nat) (q : List (Nat × Line)) (tally : Option Nat) :
    (gateWrite s ring dst epoch q tally).fixed = s.fixed := by simp [gateWrite]

@[simp] theorem fixed_beginWindow (s : State) (x : Xfer) :
    (beginWindow s x).fixed = s.fixed := by simp [beginWindow]

@[simp] theorem fixed_endXfer (s : State) (x : Xfer) (mark : Nat) :
    (endXfer s x mark).fixed = s.fixed := by simp [endXfer]

@[simp] theorem fixed_finishWindow (s : State) (x : Xfer) :
    (finishWindow s x).fixed = s.fixed := by simp [finishWindow]

@[simp] theorem fixed_xferDevice (s : State) (x : Xfer) :
    (xferDevice s x).fixed = s.fixed := by simp [xferDevice]

@[simp] theorem fixed_gateXfers (s : State) (c : Nat) :
    (gateXfers s c).fixed = s.fixed := by
  unfold gateXfers
  repeat' split
  all_goals simp

@[simp] theorem fixed_apertureRefused (s : State) (last : Nat) :
    (apertureRefused s last).fixed = s.fixed := by simp [apertureRefused]

@[simp] theorem fixed_apertureRead (s : State) (gs : List Nat) (errs : MemErrs) :
    (apertureRead s gs errs).2.2.fixed = s.fixed := by
  have h : ∀ (l : List Nat) (acc : List (Nat × List Byte) × Bool × State), (l.foldl (fun acc g =>
      match apertureRegion acc.2.2 (g * 256) with
      | none => acc
      | some i => (acc.1 ++ [(g, (readRequest acc.2.2 (regionAt acc.2.2 i) g (errs.at_ g) false).1)],
          acc.2.1 || (readRequest acc.2.2 (regionAt acc.2.2 i) g (errs.at_ g) false).2.1,
          (readRequest acc.2.2 (regionAt acc.2.2 i) g (errs.at_ g) false).2.2)) acc).2.2.fixed = acc.2.2.fixed := by
    intro l
    induction l with
    | nil => intro acc; rfl
    | cons g l ih =>
      intro acc
      rw [List.foldl_cons, ih]
      split
      · rfl
      · exact fixed_readRequest ..
  exact h gs ([], false, s)

@[simp] theorem fixed_reject (s : State) (c : Nat) (k : Packet) (reason : Nat) :
    (reject s c k reason).fixed = s.fixed := by simp [reject]

@[simp] theorem fixed_rejectMalformed (n : Nat) (s : State) (c : Nat) : (rejectMalformed n s c).fixed = s.fixed := by
  induction n generalizing s with
  | zero => rfl
  | succ n ih =>
    unfold rejectMalformed
    dsimp only
    split
    · rfl
    · split
      · rw [ih]
        simp
      · rfl

@[simp] theorem fixed_settleRing (s : State) (c : Nat) :
    (settleRing s c).fixed = s.fixed := by simp [settleRing]

@[simp] theorem fixed_command (s : State) (c op : Nat) (go : State → Packet → State) (hgo : ∀ v0 v1, (go v0 v1).fixed = v0.fixed) :
    (command s c op go).fixed = s.fixed := by
  unfold command
  repeat' first
    | (simp only [fixed_mk, fixed_eta, fixed_ite, ite_self, fixed_settleRing, hgo]; done)
    | (with_reducible refine (fixed_foldl _ ?_ _ _).trans ?_)
    | intro _
    | split
    | simp only [fixed_mk, fixed_eta, fixed_ite, ite_self, fixed_settleRing, hgo]

@[simp] theorem fixed_begin (s : State) (c : Nat) (k : Packet) :
    (begin s c k).fixed = s.fixed := by simp [begin]

@[simp] theorem fixed_putStaged (s : State) (c : Nat) (bs : List Byte) :
    (putStaged s c bs).fixed = s.fixed := by
  unfold putStaged
  split <;> simp

@[simp] theorem fixed_loaderReject (s : State) (c : Nat) (k : Packet) (sub sec ix : Nat) :
    (loaderReject s c k sub sec ix).fixed = s.fixed := by simp [loaderReject]

@[simp] theorem fixed_claimRegion (s : State) (c : Nat) (r : RegClaim) :
    (claimRegion s c r).fixed = s.fixed := by
  unfold claimRegion
  split <;> simp

@[simp] theorem fixed_drawKeys (s : State) (owner : Nat) :
    (drawKeys s owner).fixed = s.fixed := by simp [drawKeys]

@[simp] theorem fixed_installImage (s : State) (c : Nat) (img : Image) :
    (installImage s c img).fixed = s.fixed := by simp [installImage]

@[simp] theorem fixed_writeHbmContents (s : State) (c : Nat) :
    (writeHbmContents s c).fixed = s.fixed := by
  unfold writeHbmContents
  repeat' first
    | (simp; done)
    | (with_reducible refine (fixed_foldl _ ?_ _ _).trans ?_)
    | intro _
    | split

@[simp] theorem fixed_finishInstall (s : State) (c : Nat) (k : Packet) :
    (finishInstall s c k).fixed = s.fixed := by simp [finishInstall]

@[simp] theorem fixed_clearHalted (s : State) (c : Nat) :
    (clearHalted s c).fixed = s.fixed := by simp [clearHalted]

@[simp] theorem fixed_finishAbort (s : State) (c : Nat) (by_ : Packet) :
    (finishAbort s c by_).fixed = s.fixed := by simp [finishAbort]

@[simp] theorem fixed_supplyCopy (s : State) (c slot : Nat) (d : HDecl) (n base : Nat) (rec_ : W128) :
    (supplyCopy s c slot d n base rec_).fixed = s.fixed := by simp [supplyCopy]

@[simp] theorem fixed_supplyLines (s : State) (c : Nat) (k : Packet) (d : HDecl) (n : Nat) :
    (supplyLines s c k d n).fixed = s.fixed := by
  unfold supplyLines
  repeat' first
    | (simp; done)
    | (with_reducible refine (fixed_foldl _ ?_ _ _).trans ?_)
    | intro _
    | split

@[simp] theorem fixed_finishSupply (s : State) (c : Nat) (k : Packet) :
    (finishSupply s c k).fixed = s.fixed := by
  unfold finishSupply
  repeat' first
    | (simp only [fixed_mk, fixed_eta, fixed_ite, ite_self, fixed_cacheSlots, fixed_completeCmd, fixed_modCtx, fixed_reject,
                    fixed_supplyLines]; done)
    | (with_reducible refine (fixed_foldl _ ?_ _ _).trans ?_)
    | intro _
    | split
    | simp only [fixed_mk, fixed_eta, fixed_ite, ite_self, fixed_cacheSlots, fixed_completeCmd, fixed_modCtx, fixed_reject,
                    fixed_supplyLines]

@[simp] theorem fixed_stopSupply (s : State) (c : Nat) (k : Packet) :
    (stopSupply s c k).fixed = s.fixed := by
  unfold stopSupply
  split <;> simp

@[simp] theorem fixed_clearContext (s : State) (c : Nat) :
    (clearContext s c).fixed = s.fixed := by simp [clearContext]

@[simp] theorem fixed_finishUnload (s : State) (c : Nat) (k : Packet) :
    (finishUnload s c k).fixed = s.fixed := by simp [finishUnload]

@[simp] theorem fixed_restage (s : State) (c : Nat) :
    (restage s c).fixed = s.fixed := by simp [restage]

@[simp] theorem fixed_eraseSector (s : State) (k : Nat) :
    (eraseSector s k).fixed = s.fixed := by simp [eraseSector]

@[simp] theorem fixed_programByte (s : State) (o : Nat) (b : Byte) :
    (programByte s o b).fixed = s.fixed := by simp [programByte]

@[simp] theorem fixed_flashWriteData (s : State) (off : Nat) (data : List Byte) :
    (flashWriteData s off data).fixed = s.fixed := by simp [flashWriteData]

@[simp] theorem fixed_activate (s : State) (c : Nat) (b : Bool) :
    (activate s c b).fixed = s.fixed := by simp [activate]

@[simp] theorem fixed_activateStaged (s : State) (c : Nat) :
    (activateStaged s c).fixed = s.fixed := by simp [activateStaged]

@[simp] theorem fixed_renewKeys (s : State) :
    (renewKeys s).fixed = s.fixed := by simp [renewKeys]

@[simp] theorem fixed_writeActivate (s : State) :
    (writeActivate s).fixed = s.fixed := by simp [writeActivate]

@[simp] theorem fixed_mgSend (s : State) (via : Transport) (secured : Bool) (m : List Byte) :
    (mgSend s via secured m).fixed = s.fixed := by simp [mgSend]

@[simp] theorem fixed_sendReport (s : State) (cls : Nat) (rec_ : List Byte) :
    (sendReport s cls rec_).fixed = s.fixed := by
  unfold sendReport
  repeat' first
    | (simp; done)
    | (with_reducible refine (fixed_foldl _ ?_ _ _).trans ?_)
    | intro _
    | split

@[simp] theorem fixed_ringReport (s : State) (r : Report) :
    (ringReport s r).fixed = s.fixed := by simp [ringReport]

@[simp] theorem fixed_drainFifo (s : State) :
    (drainFifo s).fixed = s.fixed := by simp [drainFifo]

@[simp] theorem fixed_driveFaultN (s : State) :
    (driveFaultN s).fixed = s.fixed := by simp [driveFaultN]

@[simp] theorem fixed_raiseAlert (s : State) (cls : Nat) :
    (raiseAlert s cls).fixed = s.fixed := by simp [raiseAlert]

@[simp] theorem fixed_controlReply (s : State) (via : Transport) (cmd cc : Nat) (body : List Byte) :
    (controlReply s via cmd cc body).fixed = s.fixed := by simp [controlReply]

@[simp] theorem fixed_dhcpSend (s : State) (type : Nat) :
    (dhcpSend s type).fixed = s.fixed := by simp [dhcpSend]

@[simp] theorem fixed_csrReadClear (s : State) (off : Nat) :
    (csrReadClear s off).fixed = s.fixed := by
  unfold csrReadClear
  repeat' split
  all_goals simp

@[simp] theorem fixed_metered (s : State) (off : Nat) :
    (metered s off).fixed = s.fixed := by simp [metered]

@[simp] theorem fixed_csrReadWord (s : State) (off : Nat) :
    (csrReadWord s off).2.fixed = s.fixed := by simp [csrReadWord]

@[simp] theorem fixed_csrRead (s : State) (off width : Nat) :
    (csrRead s off width).2.fixed = s.fixed := by
  unfold csrRead
  repeat' split
  all_goals simp

@[simp] theorem fixed_csrBus (s : State) (off width : Nat) :
    (csrBus s off width).fixed = s.fixed := by simp [csrBus]

@[simp] theorem fixed_startReplay (s : State) (from_ : Nat) :
    (startReplay s from_).fixed = s.fixed := by simp [startReplay]

@[simp] theorem fixed_writeReplay (s : State) (v : W64) :
    (writeReplay s v).fixed = s.fixed := by
  unfold writeReplay
  simp only [fixed_mk, fixed_eta, fixed_ite, ite_self, fixed_csrPut, fixed_replayDone, fixed_startReplay]

@[simp] theorem fixed_writeAlert (s : State) (v : Nat) :
    (writeAlert s v).fixed = s.fixed := by simp [writeAlert]

@[simp] theorem fixed_writeMgCfg (s : State) (v : Nat) :
    (writeMgCfg s v).fixed = s.fixed := by simp [writeMgCfg]

@[simp] theorem fixed_mgReply (s : State) (h : MgmtHdr) (op status : Nat) (body : List Byte) :
    (mgReply s h op status body).fixed = s.fixed := by simp [mgReply]

@[simp] theorem fixed_mgRead (s : State) (h : MgmtHdr) (op : Nat) (ok : Bool) (go : State) (hgo : go.fixed = s.fixed) :
    (mgRead s h op ok go).fixed = s.fixed := by
  unfold mgRead
  simp only [fixed_mk, fixed_eta, fixed_ite, ite_self, fixed_mgReply, fixed_tookMessage, hgo]

@[simp] theorem fixed_mgControl (s : State) (h : MgmtHdr) (op : Nat) (exempt ok : Bool) (go : State) (hgo : go.fixed = s.fixed) :
    (mgControl s h op exempt ok go).fixed = s.fixed := by
  unfold mgControl
  simp only [fixed_mk, fixed_eta, fixed_ite, ite_self, fixed_mgCount, fixed_mgReply, fixed_tookMessage, hgo]

@[simp] theorem fixed_tapSelect (s : State) (ir : Byte) :
    (tapSelect s ir).fixed = s.fixed := by simp [tapSelect]

@[simp] theorem fixed_ostlerMemory (s : State) (o : Nat) (a : Access) :
    (ostlerMemory s o a).fixed = s.fixed := by
  unfold ostlerMemory
  split <;> simp

@[simp] theorem fixed_setSys (s : State) (c id which v : Nat) :
    (setSys s c id which v).fixed = s.fixed := by simp [setSys]

@[simp] theorem fixed_setKids (s : State) (c id : Nat) (ks : List Nat) :
    (setKids s c id ks).fixed = s.fixed := by simp [setKids]

@[simp] theorem fixed_sendToken (s : State) (c id dst phase kind : Nat) :
    (sendToken s c id dst phase kind).fixed = s.fixed := by simp [sendToken]

@[simp] theorem fixed_closingAway (s : State) (c : Nat) :
    (closingAway s c).fixed = s.fixed := by simp [closingAway]

end Sys2Proof.Machine
end

section
/-!
PROOFS. The roster under a change of one position (R17 to R19), and the operations that change a position: retirement, the spare that
takes a name, scans and resets.
-/

namespace Sys2Proof.Machine

/-! ### The roster under a change of one position -/

theorem position_modPos (s : State) (p : Nat) (f : Pos → Pos) (q : Nat) :
    position (modPos s p f) q = if q = p then f (position s p) else position s q := by
  by_cases h : q = p
  · subst h; simp
  · rw [if_neg h, position_modPos_other s h]

theorem rosterInv_congr {s u : State} (h : u.positions = s.positions) : RosterInv u ↔ RosterInv s := by
  simp only [RosterInv, LogicalIdsUnique, position, h]

theorem position_congr {s u : State} (h : u.positions = s.positions) (p : Nat) : position u p = position s p := by
  unfold position; rw [h]

/-- A change of one position keeps the invariant of the roster, where it leaves no logical ID to a position that is not ENABLED and gives
an ENABLED one an ID that no other has. -/
theorem rosterInv_modPos {s : State} {p : Nat} {f : Pos → Pos} (h : RosterInv s)
    (none_ : (f (position s p)).st ≠ .enabled → (f (position s p)).lid = 0x3FF)
    (own : (f (position s p)).st = .enabled → ∀ q, q ≠ p → (position s q).st = .enabled → (position s q).lid ≠ (f (position s p)).lid) :
    RosterInv (modPos s p f) := by
  obtain ⟨hw, hnone, huniq⟩ := h
  refine ⟨nwf_nmod hw p f, fun q => ?_, fun q r => ?_⟩
  · rw [position_modPos]
    split
    · exact none_
    · exact hnone q
  · simp only [position_modPos]
    split <;> split
    · next hq hr => exact fun _ _ _ => hq.trans hr.symm
    · next hq hr => exact fun e1 e2 el => absurd el.symm (own e1 r hr e2)
    · next hq hr => exact fun e1 e2 el => absurd el (own e2 q hq e1)
    · exact huniq q r

/-- DISABLED, RETIRED or unloaded. -/
def OutOfUse (s : State) (p : Nat) : Prop :=
  (position s p).st = .disabled ∨ (position s p).st = .retired ∨ (position s p).st = .notLoaded

/-- The invariant of the roster, and no position returned to service. -/
def RosterLasts (s u : State) : Prop := RosterInv s → RosterInv u ∧ ∀ p, OutOfUse s p → OutOfUse u p

/-- What every command leaves but BOOT, a power-on reset and SVN_RAISE: the queue, the roster as far as R17 to R19 ask, OBSERVED where it is set,
and the fuses. -/
structure Lasts (s u : State) : Prop where
  pending : u.pending = s.pending
  roster : RosterLasts s u
  observed : s.tack.observed = true → u.tack.observed = true
  fuses : u.fuses = s.fuses

namespace Lasts

theorem refl (s : State) : Lasts s s := ⟨rfl, fun h => ⟨h, fun _ => id⟩, id, rfl⟩

theorem trans {s t u : State} (h : Lasts s t) (k : Lasts t u) : Lasts s u where
  pending := k.pending.trans h.pending
  roster := fun inv => by
    obtain ⟨i, o⟩ := h.roster inv
    obtain ⟨j, q⟩ := k.roster i
    exact ⟨j, fun p hp => q p (o p hp)⟩
  observed := fun o => k.observed (h.observed o)
  fuses := k.fuses.trans h.fuses

theorem of_kept {s u : State} (hk : u.keep = s.keep) (hf : u.fixed = s.fixed) : Lasts s u := by
  simp only [State.fixed, Prod.mk.injEq] at hf
  obtain ⟨hpos, hobs, hfuse⟩ := hf
  exact ⟨keep_pending hk, fun inv => ⟨(rosterInv_congr hpos).2 inv, fun p hp => by
    simpa only [OutOfUse, position_congr hpos] using hp⟩, fun o => hobs.trans o, hfuse⟩

/-- Operations that follow one that lasts and keep all. -/
theorem then_kept {s t u : State} (h : Lasts s t) (hk : u.keep = t.keep) (hf : u.fixed = t.fixed) : Lasts s u :=
  h.trans (of_kept hk hf)

theorem foldl {β : Type} {g : State → β → State} (h : ∀ s b, Lasts s (g s b)) (l : List β) (s : State) :
    Lasts s (l.foldl g s) := by
  induction l generalizing s with
  | nil => exact refl s
  | cons b l ih => exact (h s b).trans (ih (g s b))

theorem ite {s a b : State} {c : Prop} [Decidable c] (ha : Lasts s a) (hb : Lasts s b) : Lasts s (if c then a else b) := by
  split
  · exact ha
  · exact hb

/-- A change of one position that keeps its state and its logical ID. -/
theorem modPos_same (s : State) (p : Nat) {f : Pos → Pos} (hst : ∀ x, (f x).st = x.st) (hlid : ∀ x, (f x).lid = x.lid) :
    Lasts s (modPos s p f) := by
  refine ⟨rfl, fun inv => ⟨rosterInv_modPos inv ?_ ?_, fun q => ?_⟩, id, rfl⟩
  · rw [hst, hlid]; exact inv.2.1 p
  · rw [hst, hlid]; exact fun e q hq e' el => hq (inv.2.2 q p e' e el)
  · simp only [OutOfUse, position_modPos]
    split
    · next h => subst h; rw [hst]; exact id
    · exact id

/-- A position that is not out of use comes to another state without a logical ID. -/
theorem modPos_unnamed (s : State) (p : Nat) {f : Pos → Pos} (hst : (f (position s p)).st ≠ .enabled)
    (hlid : RosterInv s → (f (position s p)).lid = 0x3FF)
    (huse : OutOfUse s p → (f (position s p)).st = .disabled ∨ (f (position s p)).st = .retired ∨ (f (position s p)).st = .notLoaded) :
    Lasts s (modPos s p f) := by
  refine ⟨rfl, fun inv => ⟨rosterInv_modPos inv (fun _ => hlid inv) fun e => absurd e hst, fun q => ?_⟩, id, rfl⟩
  intro hq
  simp only [OutOfUse, position_modPos]
  split
  · next h => subst h; exact huse hq
  · exact hq

end Lasts

/-! ### Retirement (R17 to R21) -/

theorem lasts_awaitRetire (s : State) (p : Nat) (cause : BitVec 2) : Lasts s (awaitRetire s p cause) :=
  .modPos_same s p (fun _ => rfl) fun _ => rfl

theorem lasts_abandonScan (s : State) : Lasts s (abandonScan s) := by
  unfold abandonScan
  split
  · exact .refl s
  · next q _ =>
    split
    · exact .refl s
    · next h =>
      have oos : (position s q).st = .outOfService := by
        by_contra hne
        simp [hne] at h
      refine (Lasts.modPos_unnamed s q (f := fun x => { x with st := .spare, scan := false }) (by simp) (fun inv => ?_)
        fun out => ?_).then_kept (by simp) (by simp)
      · exact inv.2.1 q (by simp [oos])
      · simp [OutOfUse, oos] at out

/-- A position is ENABLED after `abandonScan` where it was before, and its logical ID is the same. -/
theorem abandonScan_position (s : State) (p : Nat) : (position (abandonScan s) p).lid = (position s p).lid ∧
    ((position (abandonScan s) p).st = .enabled → (position s p).st = .enabled) := by
  have moved (q : Nat) : (position (modPos s q fun x => { x with st := .spare, scan := false }) p).lid = (position s p).lid ∧
      ((position (modPos s q fun x => { x with st := .spare, scan := false }) p).st = .enabled → (position s p).st = .enabled) := by
    rw [position_modPos]
    split
    · next h => subst h; exact ⟨rfl, nofun⟩
    · exact ⟨rfl, id⟩
  unfold abandonScan
  split
  · exact ⟨rfl, id⟩
  · split
    · exact ⟨rfl, id⟩
    · next q _ _ =>
      have kept := moved q
      unfold position at kept ⊢
      simpa only [csrSetField_positions] using kept

/-- Apart from the position that takes the logical ID, a substitution keeps what `keep` and `fixed` name. -/
theorem keep_substitute (s : State) (q lid : Nat) (live : StallCtx) :
    (substitute s q lid live).keep = (modPos s q fun x => { x with st := .enabled, lid := lid }).keep := by
  unfold substitute
  refine (keep_foldl _ (fun s e => ?_) _ _).trans ?_
  · repeat' split
    all_goals simp
  · split <;> simp

theorem fixed_substitute (s : State) (q lid : Nat) (live : StallCtx) :
    (substitute s q lid live).fixed = (modPos s q fun x => { x with st := .enabled, lid := lid }).fixed := by
  unfold substitute
  refine (fixed_foldl _ (fun s e => ?_) _ _).trans ?_
  · repeat' split
    all_goals simp
  · split <;> simp

theorem nget_of_mem {α : Type} [DecidableEq α] {d : α} {m : NMap α} (h : nwf d m = true) {e : Nat × α} (he : e ∈ m) :
    nget d m e.1 = e.2 := by
  simp only [nwf, Bool.and_eq_true, decide_eq_true_eq] at h
  replace h := h.1
  induction m with
  | nil => cases he
  | cons x m ih =>
    obtain ⟨below, rest⟩ := List.pairwise_cons.1 h
    rcases List.mem_cons.1 he with rfl | he
    · simp [nget]
    · have lt := below e he
      simp only [nget, if_neg (Nat.ne_of_lt lt)]
      exact ih he rest

theorem position_of_positionsIn {s : State} (h : nwf ({} : Pos) s.positions = true) {st : PosSt} {q : Nat} (hq : q ∈ positionsIn s st) :
    (position s q).st = st := by
  simp only [positionsIn, List.mem_map, List.mem_filter, decide_eq_true_eq] at hq
  obtain ⟨e, ⟨he, hst⟩, rfl⟩ := hq
  rw [position, nget_of_mem h he, hst]

theorem mem_of_chooseSpare {s : State} {p q : Nat} (h : chooseSpare s p = some q) : q ∈ positionsIn s .spare := by
  unfold chooseSpare at h
  have among : ∀ (l : List Nat) (b : Option Nat), l.foldl (fun b q => match b with
      | none => some q
      | some x => if spareRank p q < spareRank p x then some q else b) b = some q → b = some q ∨ q ∈ l := by
    intro l
    induction l with
    | nil => exact fun b hb => .inl hb
    | cons x l ih =>
      intro b hb
      rcases ih _ hb with hb | hb
      · dsimp only at hb
        split at hb
        · exact .inr (by simp [Option.some.inj hb])
        · split at hb
          · exact .inr (by simp [Option.some.inj hb])
          · exact .inl hb
      · exact .inr (List.mem_cons_of_mem _ hb)
  exact (among _ _ h).resolve_left nofun

/-- A spare that takes a logical ID that no ENABLED position holds. -/
theorem lasts_name {s t : State} {q lid : Nat} (h : Lasts s t) (hq : RosterInv t → (position t q).st = .spare)
    (free : RosterInv s → ∀ r, (position t r).st = .enabled → (position t r).lid ≠ lid) :
    Lasts s (modPos t q fun x => { x with st := .enabled, lid := lid }) := by
  refine ⟨h.pending, fun inv => ?_, h.observed, h.fuses⟩
  obtain ⟨inv', out'⟩ := h.roster inv
  refine ⟨rosterInv_modPos inv' (fun ne => absurd rfl ne) fun _ r _ hr => free inv r hr, fun r hr => ?_⟩
  have kept := out' r hr
  simp only [OutOfUse, position_modPos] at kept ⊢
  split
  · next e =>
    subst e
    simp [hq inv'] at kept
  · exact kept

theorem lasts_substitute {s t : State} {q lid : Nat} {live : StallCtx} (h : Lasts s t) (hq : RosterInv t → (position t q).st = .spare)
    (free : RosterInv s → ∀ r, (position t r).st = .enabled → (position t r).lid ≠ lid) : Lasts s (substitute t q lid live) :=
  (lasts_name h hq free).then_kept (keep_substitute ..) (fixed_substitute ..)

/-- What a position held that is no longer ENABLED no other holds, where the others are as they were. -/
theorem lid_free {s u : State} (inv : RosterInv s) {p : Nat} (held : lidOf s p ≠ 0x3FF) (gone : (position u p).st ≠ .enabled)
    (others : ∀ r, r ≠ p → position u r = position s r) {r : Nat} (hr : (position u r).st = .enabled) :
    (position u r).lid ≠ lidOf s p := by
  obtain ⟨_, unnamed, unique⟩ := inv
  have en : (position s p).st = .enabled := by
    by_contra ne
    exact held (unnamed p ne)
  have ne : r ≠ p := fun e => gone (e ▸ hr)
  rw [others r ne] at hr ⊢
  exact fun e => ne (unique r p hr en e)

/-- The state of a retirement once its position is out of use, with the record v of it (R17). -/
def withdraw (s : State) (p : Nat) (cause : BitVec 2) (v : Nat) : State :=
  stallOff (modPos (recordFirst s 0x7608 v) p fun x => { x with st := .retired, lid := 0x3FF, await := none, cause := cause }) p

/-- A retirement is a withdrawal, after which the logical ID that the position held goes to a spare or to none. -/
theorem retire_eq (s : State) (p : Nat) (cause : BitVec 2) : ∃ v, retire s p cause =
    if lidOf s p = 0x3FF then withdraw s p cause v else
    match chooseSpare (abandonScan (withdraw s p cause v)) p with
    | some q => substitute (abandonScan (withdraw s p cause v)) q (lidOf s p) (stall s p).live
    | none =>
      let s3 := if runningNo s = 64 then abandonScan (withdraw s p cause v) else writeSetTables (abandonScan (withdraw s p cause v)) (runningNo s)
      s3.ctxs.foldl (fun t e => match e.2.image with
        | some img => if e.2.st = .resident && roleOf img (lidOf s p) ≠ 0xFFFF then stopContext t p (lidOf s p) e.1 else t
        | none => t) s3 := ⟨_, rfl⟩

theorem positions_withdraw (s : State) (p : Nat) (cause : BitVec 2) (v : Nat) : (withdraw s p cause v).positions =
    nmod {} s.positions p fun x => { x with st := .retired, lid := 0x3FF, await := none, cause := cause } := by
  have h := congrArg Prod.fst (fixed_stallOff (modPos (recordFirst s 0x7608 v) p fun x =>
    { x with st := .retired, lid := 0x3FF, await := none, cause := cause }) p)
  have k := congrArg Prod.fst (fixed_recordFirst s 0x7608 v)
  dsimp only [State.fixed] at h k
  rw [withdraw, h, modPos_positions, k]

theorem lasts_withdraw (s : State) (p : Nat) (cause : BitVec 2) (v : Nat) : Lasts s (withdraw s p cause v) := by
  unfold withdraw
  refine Lasts.then_kept (.trans (.of_kept (keep_recordFirst s 0x7608 v) (fixed_recordFirst ..))
    (.modPos_unnamed _ p (f := fun x => { x with st := .retired, lid := 0x3FF, await := none, cause := cause }) (by simp) (fun _ => rfl)
      fun _ => .inr (.inl rfl))) (keep_stallOff ..) (fixed_stallOff ..)

/-- What a withdrawn position held no other holds. -/
theorem lid_free_of_withdraw {s : State} (inv : RosterInv s) {p : Nat} (held : lidOf s p ≠ 0x3FF) {cause : BitVec 2} {v r : Nat}
    (hr : (position (withdraw s p cause v) r).st = .enabled) : (position (withdraw s p cause v) r).lid ≠ lidOf s p := by
  have at_ (q : Nat) := position_congr (u := withdraw s p cause v)
    (s := modPos s p fun x => { x with st := .retired, lid := 0x3FF, await := none, cause := cause }) (positions_withdraw s p cause v) q
  simp only [position_modPos] at at_
  refine lid_free inv held ?_ (fun q ne => ?_) hr
  · rw [at_, if_pos rfl]
    exact nofun
  · rw [at_, if_neg ne]

/-- A retirement takes its position out of use, and gives its logical ID to a spare or to none (R17, R19, R21). -/
theorem lasts_retire (s : State) (p : Nat) (cause : BitVec 2) : Lasts s (retire s p cause) := by
  obtain ⟨v, e⟩ := retire_eq s p cause
  rw [e]
  split
  · exact lasts_withdraw ..
  · next held =>
    have scan := (lasts_withdraw s p cause v).trans (lasts_abandonScan _)
    split
    · next q hq =>
      refine lasts_substitute scan (fun inv => position_of_positionsIn inv.1 (mem_of_chooseSpare hq)) fun inv r hr => ?_
      obtain ⟨same, en⟩ := abandonScan_position (withdraw s p cause v) r
      rw [same]
      exact lid_free_of_withdraw inv held (en hr)
    · have tables : ∀ t : State, Lasts t (if runningNo s = 64 then t else writeSetTables t (runningNo s)) := fun t =>
        .ite (.refl t) (.of_kept (keep_writeSetTables ..) (fixed_writeSetTables ..))
      refine (scan.trans (tables _)).trans (Lasts.foldl (fun t e => ?_) _ _)
      split
      · exact Lasts.ite (.of_kept (by simp) (by simp)) (.refl _)
      · exact .refl _

theorem lasts_retireAwaiting (s : State) : Lasts s (retireAwaiting s) := by
  unfold retireAwaiting
  refine Lasts.foldl (fun t e => ?_) _ _
  split
  · exact .ite (lasts_retire ..) (.refl _)
  · exact .refl _

theorem lasts_scanBoundary (s : State) : Lasts s (scanBoundary s) := by
  unfold scanBoundary
  split
  · next q _ =>
    split
    · next h =>
      have spare : (position s q).st = .spare := by
        by_contra ne
        simp [ne] at h
      have same : position (stallOff s q) q = position s q := position_congr (congrArg Prod.fst (fixed_stallOff s q)) q
      refine (Lasts.of_kept (keep_stallOff s q) (fixed_stallOff s q)).trans (.modPos_unnamed _ q (by simp) (fun inv => ?_) fun out => ?_)
      · exact inv.2.1 q (by simp [same, spare])
      · simp [OutOfUse, same, spare] at out
    · exact .refl s
  · exact .refl s

theorem lasts_ageMeasure (s : State) (p mv : Nat) : Lasts s (ageMeasure s p mv) := by
  have aged : Lasts s (setAge s p mv) := .of_kept (keep_setAge ..) (fixed_setAge ..)
  have told : Lasts s (if csrBit s (stallCsr p 0x400) 15 then setAge s p mv
      else reportFault (setAge s p mv) 1025 0x0A03 p 0xFF (lidOf s p) 0 0xFFF) :=
    .ite aged (aged.then_kept (keep_reportFault ..) (fixed_reportFault ..))
  unfold ageMeasure
  exact .ite aged (.ite (told.trans (lasts_retire ..)) (told.trans (lasts_awaitRetire ..)))

theorem lasts_closingBarrier (s : State) (c : Nat) : Lasts s (closingBarrier s c) := by
  have closed : ∀ t : State, Lasts s t →
      Lasts s (if (recOf t c).opened.isSome && (recOf t c).openAt.toNat + epochNs t c ≤ now t then closeEpoch t c else t) :=
    fun t h => h.trans (.ite (.of_kept (keep_closeEpoch t c) (fixed_closeEpoch t c)) (.refl t))
  have ended : ∀ t : State, Lasts s t → Lasts s (if (recOf t c).triggers = [] then retireAwaiting t else t) :=
    fun t h => h.trans (.ite (lasts_retireAwaiting t) (.refl t))
  unfold closingBarrier
  refine ended _ (.trans (closed _ (.of_kept (keep_deliverRecords s c) (fixed_deliverRecords s c))) ?_)
  exact .foldl (fun t p => .of_kept (keep_applyTarget t p) (fixed_applyTarget t p)) _ _

theorem lasts_sysRelease (s : State) (c id phase : Nat) : Lasts s (sysRelease s c id phase) := by
  have kept : ∀ t : State, Lasts s t →
      Lasts s (if id = 0 then (if runningNo t = c then closingBarrier t c else closingAway t c) else t) := fun t h =>
    h.trans (.ite (.ite (lasts_closingBarrier t c) (.of_kept (keep_closingAway t c) (fixed_closingAway t c))) (.refl t))
  unfold sysRelease
  refine kept _ (Lasts.of_kept ?_ ?_)
  · simp [keep_foldl]
  · simp

theorem lasts_sysPart (s : State) (c id : Nat) : Lasts s (sysPart s c id) := by
  unfold sysPart
  split
  · exact .refl s
  · dsimp only
    refine .ite (.refl s) (.ite (lasts_sysRelease ..) (.of_kept ?_ ?_)) <;> simp

theorem lasts_restart (s : State) (c target : Nat) : Lasts s (restart s c target) := by
  unfold restart
  dsimp only
  split
  · exact .of_kept (by simp) (by simp)
  · next k _ =>
    have goes : ∀ t : State, Lasts s t → Lasts s (if (ctx t c).st = .stopped then t else
        openEpoch (dbEpoch (recCount (if runningNo s = c && (ctx t c).st = .resident then
          { loadStalls (clearCaches t) c k.save with ym := { (loadStalls (clearCaches t) c k.save).ym with devPhase := k.wires } }
          else t) 5) c target 3 target) c (k.reruns + 1)) := by
      refine fun t h => .ite h (h.then_kept ?_ ?_) <;>
        simp only [keep_openEpoch, keep_dbEpoch, keep_recCount, fixed_openEpoch, fixed_dbEpoch, fixed_recCount]
      · split
        · simp [keep_eta]
        · rfl
      · split <;> simp
    refine goes _ (Lasts.trans (Lasts.of_kept ?_ ?_) (.ite (lasts_retireAwaiting _) (.refl _))) <;> simp

/-! ### Registers (R8, R10, R467) -/

theorem lasts_writeScan (s : State) (v : W64) : Lasts s (writeScan s v) := by
  have stored : ∀ t : State, t.keep = s.keep → t.fixed = s.fixed → Lasts s t := fun _ => Lasts.of_kept
  unfold writeScan
  refine .ite (stored _ (by simp) (by simp)) ((stored _ (by simp) (by simp)).trans (.modPos_same _ _ (fun _ => rfl) fun _ => rfl))

theorem lasts_regWrite (s : State) (r : RegDef) (a b v mask : Nat) : Lasts s (regWrite s r a b v mask) := by
  unfold regWrite
  dsimp only
  refine .ite (.refl s) ?_
  split
  case h_11 => exact lasts_writeScan ..
  case h_3 => exact .ite (.of_kept (by simp) (by simp)) (.refl s)
  all_goals exact .of_kept (by simp) (by simp)

theorem lasts_csrWriteWord (s : State) (off v : Nat) : Lasts s (csrWriteWord s off v) := by
  unfold csrWriteWord
  split
  · exact lasts_regWrite ..
  · split
    · exact .ite (lasts_regWrite ..) (.refl s)
    · exact .refl s

theorem lasts_csrWrite (s : State) (off width v : Nat) : Lasts s (csrWrite s off width v) := by
  have halves : Lasts s (csrWriteWord (csrWriteWord s off (v % 2 ^ 32)) (off + 4) (v / 2 ^ 32)) :=
    (lasts_csrWriteWord ..).trans (lasts_csrWriteWord ..)
  unfold csrWrite
  refine .ite (.refl s) (.ite (lasts_csrWriteWord ..) ?_)
  split
  · exact .ite (lasts_regWrite ..) halves
  · exact halves

theorem lasts_writeCsr (s : State) (who : Requester) (off width v : Nat) : Lasts s (writeCsr s who off width v) := by
  unfold writeCsr
  split
  · refine .ite ?_ (.refl s)
    split
    · exact lasts_csrWrite ..
    · exact .refl s
  · exact .ite (.of_kept (keep_aerError ..) (fixed_aerError ..)) (.refl s)
  · exact .ite (lasts_csrWrite ..) (.refl s)
  · exact .ite (.refl s) (lasts_csrWrite ..)

/-! ### Debug accesses (R443 to R446) -/

/-- The first access sets OBSERVED; what follows keeps it. -/
theorem fixed_setObserved (s : State) (rec_ : List Byte) : (setObserved s rec_).fixed = (s.positions, true, s.fuses) := by
  have set_ : (reportOstler (modTack s fun t => { t with observed := true }) 1023 0x0901 0 0xFF).fixed = (s.positions, true, s.fuses) := rfl
  rw [← set_]
  unfold setObserved
  dsimp only
  generalize reportOstler (modTack s fun t => { t with observed := true }) 1023 0x0901 0 0xFF = t
  have denied : ∀ u : State, u.fixed = t.fixed → (extendMr (smithyClear ([0, 1, 2, 3].foldl wipeSlot
      { modTack u (fun t => { t with sessions := [], ideKey := [], fabric := none }) with
        ostler := { (modTack u fun t => { t with sessions := [], ideKey := [], fabric := none }).ostler with fabric := none },
        gate := { (modTack u fun t => { t with sessions := [], ideKey := [], fabric := none }).gate with ide := false } })) 6
      (sha256 rec_)).fixed = t.fixed := by
    intro u hu
    simp only [fixed_extendMr, fixed_smithyClear, List.foldl, fixed_wipeSlot, fixed_mk]
    exact hu
  refine denied _ ?_
  split
  · exact fixed_denyRelease ..
  · rfl

theorem lasts_debugRecord (s : State) (kind addr : Nat) : Lasts s (debugRecord s kind addr) := by
  have counted : Lasts s (trCount (dbAppend s 7 0x40 (leBytes 1 kind ++ List.replicate 7 0 ++ leBytes 8 addr)) 6) :=
    .of_kept (by simp) (by simp)
  unfold debugRecord
  refine .ite counted (counted.trans ?_)
  have h := fixed_setObserved (trCount (dbAppend s 7 0x40 (leBytes 1 kind ++ List.replicate 7 0 ++ leBytes 8 addr)) 6)
    (leBytes 6 (now s) ++ leBytes 1 7 ++ leBytes 1 0x40 ++ padTo 24 (leBytes 1 kind ++ List.replicate 7 0 ++ leBytes 8 addr))
  simp only [State.fixed, Prod.mk.injEq] at h
  obtain ⟨pos, obs, fuse⟩ := h
  exact ⟨keep_pending (keep_setObserved ..), fun inv => ⟨(rosterInv_congr pos).2 inv, fun p out => by
    simpa only [OutOfUse, position_congr pos] using out⟩, fun _ => obs, fuse⟩

theorem lasts_jtag (s : State) (ir : Byte) : Lasts s (jtag s ir) := by
  unfold jtag
  exact .ite (.of_kept (by simp) (by simp)) (.ite (.refl s) ((lasts_debugRecord s 1 ir.toNat).then_kept (by simp) (by simp)))

theorem lasts_loftWindow (who : Requester) (p : Position) (off : Nat) (a : Access) (s : State) :
    Lasts s (loftWindow who p off a s) := by
  have recorded : Lasts s (if who = .debugPort then debugRecord s (accessKind a) (0x8000000000 + p * 2 ^ 20 + off) else s) :=
    .ite (lasts_debugRecord ..) (.refl s)
  unfold loftWindow
  refine recorded.trans ?_
  dsimp only
  generalize (if who = .debugPort then debugRecord s (accessKind a) (0x8000000000 + p * 2 ^ 20 + off) else s) = t
  generalize (if who = .debugPort then runningNo t else 64) = c
  split
  · exact .refl t
  · exact .ite (.of_kept (keep_aerError ..) (fixed_aerError ..)) (.refl t)
  · refine .trans (t := wakeNap t p) (.of_kept (keep_wakeNap ..) (fixed_wakeNap ..)) ?_
    split
    · refine Lasts.trans (.foldl (fun u n => ?_) _ _) (.of_kept rfl rfl)
      split
      · split
        · exact .refl u
        · exact .of_kept (keep_parityFailed ..) (fixed_parityFailed ..)
      · exact .refl u
    · refine .ite (.refl _) (.foldl (fun u n => ?_) _ _)
      exact .ite (.refl u) (.of_kept (keep_windowWriteLine ..) (fixed_windowWriteLine ..))

theorem lasts_granaryWindow (who : Requester) (off : Nat) (a : Access) (s : State) :
    Lasts s (granaryWindow who off a s) := by
  have recorded : Lasts s (if who = .debugPort then debugRecord s (accessKind a) (0x9000000000 + off) else s) :=
    .ite (lasts_debugRecord ..) (.refl s)
  unfold granaryWindow
  refine recorded.trans ?_
  dsimp only
  generalize (if who = .debugPort then debugRecord s (accessKind a) (0x9000000000 + off) else s) = t
  split
  · exact .refl t
  · exact .ite (.of_kept (keep_aerError ..) (fixed_aerError ..)) (.refl t)
  · split
    · exact .of_kept rfl rfl
    · refine .foldl (fun u n => ?_) _ _
      obtain ⟨b, i⟩ := n
      dsimp only
      split
      · refine .ite (.refl u) ?_
        split
        · exact .of_kept (keep_putLine ..) (fixed_putLine ..)
        · exact .refl u
      · exact .refl u

theorem lasts_dapCsr (s : State) (o : Nat) (a : Access) : Lasts s (dapCsr s o a) := by
  unfold dapCsr
  split
  · exact .ite (.of_kept rfl rfl) (.of_kept (keep_csrBus ..) (fixed_csrBus ..))
  · exact lasts_writeCsr ..

theorem lasts_dap (s : State) (addr : Nat) (a : Access) : Lasts s (dap s addr a) := by
  unfold dap
  refine .ite (lasts_loftWindow ..) (.ite (lasts_granaryWindow ..) ((lasts_debugRecord s (accessKind a) addr).trans ?_))
  refine .ite (lasts_dapCsr ..) (.ite (.of_kept (keep_ostlerMemory ..) (fixed_ostlerMemory ..)) ?_)
  split
  · exact .of_kept rfl rfl
  · exact .refl _

/-! ### Resets (R447 to R451) -/

/-- The invariant of the roster holds of an empty roster. -/
theorem rosterInv_of_empty {s : State} (h : s.positions = []) : RosterInv s := by
  have none_ (p : Nat) : position s p = {} := by
    unfold position
    rw [h]
    rfl
  refine ⟨by rw [h]; rfl, fun p _ => by rw [none_], fun p q hp => ?_⟩
  rw [none_] at hp
  cases hp

/-- After a reset the roster is as it was, or empty. -/
theorem positions_resetState (level : Nat) (s : State) :
    (resetState level s).positions = s.positions ∨ (resetState level s).positions = [] := by
  unfold resetState
  dsimp only
  split
  · exact .inr rfl
  · split
    · exact .inr rfl
    · exact .inl rfl

theorem pending_resetState (level : Nat) (s : State) : (resetState level s).pending = s.pending := by
  unfold resetState
  repeat' split
  all_goals rfl

theorem fuses_resetState (level : Nat) (s : State) : (resetState level s).fuses = s.fuses := by
  unfold resetState
  repeat' split
  all_goals rfl

theorem tack_resetState (level : Nat) (s : State) : (resetState level s).tack = tackAfter level s.tack := by
  unfold resetState
  repeat' split
  all_goals rfl

theorem rosterLasts_resetState (level : Nat) (s : State) : RosterLasts s (resetState level s) := by
  intro inv
  rcases positions_resetState level s with same | empty
  · exact ⟨(rosterInv_congr same).2 inv, fun p out => by simpa only [OutOfUse, position_congr same] using out⟩
  · refine ⟨rosterInv_of_empty empty, fun p _ => .inr (.inr ?_)⟩
    rw [position, empty]
    rfl

theorem lasts_resetState {level : Nat} (h : level ≠ 3) (s : State) : Lasts s (resetState level s) := by
  refine ⟨pending_resetState level s, rosterLasts_resetState level s, fun o => ?_, fuses_resetState level s⟩
  rw [tack_resetState, tackAfter, if_neg h]
  exact o

/-- The state in which a reset is asserted, before `resetState`. -/
theorem lasts_beforeReset (s : State) (level bit : Nat) : Lasts s
    (if level = 1 then (if orderly bit then s else loseRecords s) else settleMargin (if orderly bit then s else loseRecords s)) := by
  have lost : Lasts s (if orderly bit then s else loseRecords s) := .ite (.refl s) (.of_kept (keep_loseRecords s) (fixed_loseRecords s))
  exact .ite lost (lost.then_kept (keep_settleMargin _) (fixed_settleMargin _))

theorem lasts_requestReset {level : Nat} (h : level ≠ 3) (s : State) (bit : Nat) : Lasts s (requestReset s level bit) := by
  unfold requestReset
  refine .ite (.of_kept (keep_markCause ..) (fixed_markCause ..)) ?_
  unfold assertReset
  dsimp only
  rw [if_neg h]
  refine .then_kept (.trans (lasts_beforeReset s level bit) (lasts_resetState h _)) ?_ ?_ <;> simp

/-- A power-on reset keeps all that the others keep but OBSERVED. -/
theorem lasts_powerOn (s : State) : (requestReset s 3 0).pending = s.pending ∧ RosterLasts s (requestReset s 3 0) ∧
    (requestReset s 3 0).fuses = s.fuses := by
  unfold requestReset
  split
  · have h : Lasts s (markCause s 0) := .of_kept (keep_markCause ..) (fixed_markCause ..)
    exact ⟨h.pending, h.roster, h.fuses⟩
  · have before := lasts_beforeReset s 3 0
    unfold assertReset
    dsimp only
    rw [if_pos rfl]
    generalize (if (3 : Nat) = 1 then (if orderly 0 then s else loseRecords s)
      else settleMargin (if orderly 0 then s else loseRecords s)) = t at before
    have after : Lasts (resetState 3 t) (undefineSmithy (csrSetField (resetState 3 t) rstCause 31 30 3)) := .of_kept (by simp) (by simp)
    refine ⟨after.pending.trans ((pending_resetState 3 t).trans before.pending), fun inv => ?_,
      after.fuses.trans ((fuses_resetState 3 t).trans before.fuses)⟩
    obtain ⟨i, o⟩ := before.roster inv
    obtain ⟨j, q⟩ := rosterLasts_resetState 3 t i
    obtain ⟨k, r⟩ := after.roster j
    exact ⟨k, fun p hp => r p (q p (o p hp))⟩

end Sys2Proof.Machine
end

section
/-!
PROOFS. The roster that BOOT loads (R17, R18, R466).
-/

namespace Sys2Proof.Machine

/-! ### The roster that BOOT loads (R17, R18, R466) -/

/-- What the option load has made of the positions below n: the list, and the next logical ID. -/
structure Loaded (n : Nat) (acc : NMap Pos × Nat) : Prop where
  below : ∀ e ∈ acc.1, e.1 < n
  rising : acc.1.Pairwise fun a b => a.1 < b.1
  loaded : ∀ e ∈ acc.1, e.2.st ≠ .notLoaded
  unnamed : ∀ e ∈ acc.1, e.2.st ≠ .enabled → e.2.lid = 0x3FF
  named : ∀ e ∈ acc.1, e.2.st = .enabled → e.2.lid < acc.2
  distinct : acc.1.Pairwise fun a b => a.2.st = .enabled → b.2.st = .enabled → a.2.lid ≠ b.2.lid

/-- One more position, behind the others. -/
theorem Loaded.append {n : Nat} {acc : NMap Pos × Nat} (h : Loaded n acc) (x : Pos) (next : Nat) (hl : x.st ≠ .notLoaded)
    (hu : x.st ≠ .enabled → x.lid = 0x3FF) (hn : x.st = .enabled → x.lid = acc.2 ∧ acc.2 < next) (hm : acc.2 ≤ next) :
    Loaded (n + 1) (acc.1 ++ [(n, x)], next) := by
  have either : ∀ P : Nat × Pos → Prop, (∀ e ∈ acc.1, P e) → P (n, x) → ∀ e ∈ acc.1 ++ [(n, x)], P e := by
    intro P old new e he
    rcases List.mem_append.1 he with he | he
    · exact old e he
    · exact List.mem_singleton.1 he ▸ new
  have behind : ∀ R : Nat × Pos → Nat × Pos → Prop, acc.1.Pairwise R → (∀ e ∈ acc.1, R e (n, x)) → (acc.1 ++ [(n, x)]).Pairwise R :=
    fun R old new => List.pairwise_append.2 ⟨old, List.pairwise_singleton .., fun e he f hf => List.mem_singleton.1 hf ▸ new e he⟩
  refine ⟨either _ (fun e he => Nat.lt_succ_of_lt (h.below e he)) (Nat.lt_succ_self n), behind _ h.rising h.below,
    either _ h.loaded hl, either _ h.unnamed hu, either _ (fun e he en => ?_) fun en => ?_, behind _ h.distinct fun e he en en' => ?_⟩
  · exact (h.named e he en).trans_le hm
  · obtain ⟨eq, lt⟩ := hn en
    exact eq ▸ lt
  · exact (hn en').1 ▸ (h.named e he en).ne

/-- The next position has a state of the fuses, and the next logical ID where that is ENABLED. -/
theorem Loaded.step {n : Nat} {acc : NMap Pos × Nat} (h : Loaded n acc) (st : PosSt) (real : st ≠ .notLoaded) :
    Loaded (n + 1) (if st = .enabled then (acc.1 ++ [(n, { st := .enabled, lid := acc.2 })], acc.2 + 1)
      else (acc.1 ++ [(n, { st := st })], acc.2)) := by
  split
  · exact h.append _ _ nofun (fun ne => absurd rfl ne) (fun _ => ⟨rfl, Nat.lt_succ_self _⟩) (Nat.le_succ _)
  · next ne => exact h.append _ _ real (fun _ => rfl) (fun en => absurd en ne) (le_refl _)

theorem rosterInv_of_loaded {n : Nat} {acc : NMap Pos × Nat} (h : Loaded n acc) {s : State} (hs : s.positions = acc.1) : RosterInv s := by
  have canon : nwf ({} : Pos) s.positions = true := by
    simp only [nwf, hs, Bool.and_eq_true, decide_eq_true_eq, List.all_eq_true]
    exact ⟨h.rising, fun e he eq => h.loaded e he (by rw [eq])⟩
  have listed (p : Nat) : position s p = {} ∨ (p, position s p) ∈ acc.1 := by
    by_cases mem : ∃ x, (p, x) ∈ s.positions
    · obtain ⟨x, hx⟩ := mem
      exact .inr (by rw [position, nget_of_mem canon hx, ← hs]; exact hx)
    · refine .inl ?_
      unfold position
      generalize s.positions = m at mem
      induction m with
      | nil => rfl
      | cons e m ih =>
        have ne : e.1 ≠ p := fun eq => mem ⟨e.2, by simp [← eq]⟩
        simp only [nget, if_neg ne]
        exact ih fun ⟨x, hx⟩ => mem ⟨x, List.mem_cons_of_mem _ hx⟩
  refine ⟨canon, fun p ne => ?_, fun p q hp hq hl => ?_⟩
  · rcases listed p with def_ | mem
    · rw [def_]
    · exact h.unnamed _ mem ne
  · have mem (r : Nat) (hr : (position s r).st = .enabled) : (r, position s r) ∈ acc.1 :=
      (listed r).resolve_left fun def_ => by rw [def_] at hr; cases hr
    by_contra ne
    have symm : Std.Symm fun a b : Nat × Pos => a.2.st = .enabled → b.2.st = .enabled → a.2.lid ≠ b.2.lid :=
      ⟨fun a b r hb ha e => r ha hb e.symm⟩
    exact h.distinct.forall (mem p hp) (mem q hq) (fun e => ne (congrArg Prod.fst e)) hp hq hl

theorem rosterInv_fusedPositions {s : State} {f : Fuses} (h : s.positions = fusedPositions f) : RosterInv s := by
  unfold fusedPositions at h
  dsimp only at h
  refine rosterInv_of_loaded (n := 832) ?_ h
  generalize 832 = n
  induction n with
  | zero => exact ⟨nofun, .nil, nofun, nofun, nofun, .nil⟩
  | succ n ih =>
    rw [List.range_succ, List.foldl_append]
    dsimp only [List.foldl]
    have real : (if f.disabled.contains n then PosSt.disabled else if f.spares.contains n then .spare else .enabled) ≠ .notLoaded := by
      repeat' split
      all_goals exact nofun
    exact ih.step _ real

theorem lasts_retiredInFlash (s : State) (p cause : Nat) : Lasts s (retiredInFlash s p cause) := by
  have off : Lasts s (modPos s p fun x => { x with st := .retired, lid := 0x3FF, cause := BitVec.ofNat 2 cause }) :=
    .modPos_unnamed s p (by simp) (fun _ => rfl) fun _ => .inr (.inl rfl)
  unfold retiredInFlash
  dsimp only
  split
  · exact off
  · next held =>
    split
    · next q hq =>
      refine lasts_name off (fun inv => position_of_positionsIn inv.1 (mem_of_chooseSpare hq)) fun inv r hr => ?_
      refine lid_free inv held ?_ (fun q ne => ?_) hr
      · rw [position_modPos_same]
        exact nofun
      · exact position_modPos_other s ne _
    · exact off

theorem lasts_applyMargins (s : State) : Lasts s (applyMargins s) := by
  unfold applyMargins
  refine .trans (.foldl (fun t e => ?_) _ s) (.foldl (fun t e => .ite (lasts_retiredInFlash ..) (.refl t)) _ _)
  split
  · next h =>
    have spare : (position t e.1).st = .spare := by
      by_contra ne
      simp [ne] at h
    refine .modPos_unnamed t e.1 (by simp) (fun inv => inv.2.1 e.1 (by simp [spare])) fun out => ?_
    simp [OutOfUse, spare] at out
  · exact .refl t

/-- What BOOT leaves besides the service of the positions. -/
structure BootLasts (s u : State) : Prop where
  pending : u.pending = s.pending
  roster : RosterInv s → RosterInv u
  observed : s.tack.observed = true → u.tack.observed = true
  fuses : u.fuses = s.fuses

theorem BootLasts.trans {s t u : State} (h : BootLasts s t) (k : Lasts t u) : BootLasts s u where
  pending := k.pending.trans h.pending
  roster := fun inv => (k.roster (h.roster inv)).1
  observed := fun o => k.observed (h.observed o)
  fuses := k.fuses.trans h.fuses

theorem BootLasts.of_lasts {s u : State} (h : Lasts s u) : BootLasts s u :=
  ⟨h.pending, fun inv => (h.roster inv).1, h.observed, h.fuses⟩

theorem bootLasts_bootPositions (s : State) : BootLasts s (bootPositions s) := by
  unfold bootPositions
  split
  · exact .of_lasts (.refl s)
  · have fused : BootLasts s { s with positions := fusedPositions s.fuses } :=
      ⟨rfl, fun _ => rosterInv_fusedPositions (f := s.fuses) (by with_reducible rfl), id, rfl⟩
    exact fused.trans (lasts_applyMargins _)

theorem lasts_powerStalls (s : State) (mv : Nat) : Lasts s (powerStalls s mv) := by
  unfold powerStalls
  exact .trans (.foldl (fun t p => .of_kept (keep_setIvr ..) (fixed_setIvr ..)) _ _) (.foldl (fun t p => lasts_ageMeasure ..) _ _)

theorem lasts_measureRom (s : State) : Lasts s (measureRom s) := .of_kept (keep_measureRom s) (fixed_measureRom s)
theorem lasts_enterRecovery (s : State) : Lasts s (enterRecovery s) := .of_kept (keep_enterRecovery s) (fixed_enterRecovery s)

theorem lasts_bootRest (s : State) (mv : Nat) : Lasts s (bootRest s mv) := by
  have on : Lasts s (powerStalls (modRst s fun r => { r with dies := true }) mv) :=
    (Lasts.of_kept (keep_modRst ..) (fixed_modRst ..)).trans (lasts_powerStalls _ mv)
  have rest : ∀ t u : State, u.keep = t.keep → u.fixed = t.fixed → Lasts t (openRings (bootFaultN { u with ostler := { u.ostler with up := true } })) :=
    fun t u hk hf => .of_kept (by simpa [keep_eta] using hk) (by simpa using hf)
  unfold bootRest
  refine on.trans (rest _ _ ?_ ?_)
  · simp only [keep_startSmithy, keep_modTack, keep_issueCert, keep_extendMr]
    split <;> simp
  · refine (fixed_startSmithy _).trans ((fixed_modTack _ _ fun _ => rfl).trans ((fixed_issueCert _).trans ((fixed_extendMr ..).trans ?_)))
    split <;> simp

theorem bootLasts_boot (s : State) (fuseCrc : Bool) (images : List (Bool × Bool)) (mv : Nat) {u : State}
    (h : execBoot fuseCrc images mv s = .next u) : BootLasts s u := by
  obtain rfl := Host.Outcome.next.inj h
  have same : BootLasts s s := .of_lasts (.refl s)
  have loaded := bootLasts_bootPositions s
  split
  · exact same
  · split
    · exact loaded.trans (((Lasts.of_kept (keep_modRst ..) (fixed_modRst ..)).trans (lasts_measureRom _)).trans (lasts_enterRecovery _))
    · have rom := loaded.trans (lasts_measureRom _)
      dsimp only
      split
      · exact rom.trans ((Lasts.of_kept (keep_startFirmware ..) (fixed_startFirmware ..)).trans (lasts_bootRest ..))
      · exact rom.trans (lasts_enterRecovery _)

end Sys2Proof.Machine
end

section
/-!
PROOFS. What each command leaves of the queue, the roster, OBSERVED and the fuses.
-/

namespace Sys2Proof.Machine

theorem lasts_checkerSuspect (s : State) (p : Nat) (e : Entry) : Lasts s (checkerSuspect s p e) := by
  unfold checkerSuspect
  exact .ite (.trans (.of_kept (by simp) (by simp)) (lasts_awaitRetire ..)) (.of_kept (by simp) (by simp))

theorem lasts_arbitration {p : Position} {n line : Nat} {orig redo : Line} {predicted : Nat} {s u : State}
    (h : execArbitration p n line orig redo predicted s = .next u) : Lasts s u := by
  obtain rfl := Host.Outcome.next.inj h
  split
  · exact .refl s
  · next e _ =>
    refine .ite (.refl s) (.ite ?_ (.ite (.of_kept ?_ ?_) ?_))
    · exact (Lasts.of_kept (keep_decided ..) (fixed_decided ..)).trans (lasts_checkerSuspect ..)
    · simp
    · simp
    · exact ((Lasts.of_kept (keep_undecided s p n line e) (fixed_undecided s p n line e)).trans (lasts_awaitRetire _ p 1)).then_kept
        (by simp) (by simp)

theorem lasts_arrivalPosted {p : Position} {k : Nat} {s u : State} (h : execArrivalPosted p k s = .next u) : Lasts s u := by
  obtain rfl := Host.Outcome.next.inj h
  have posted : ∀ f : StallCtx → StallCtx, Lasts s (if k = 64 || k = 128 then sendWriteBacks (modLive s p f) p (runningNo s) else modLive s p f) :=
    fun f => .ite (.of_kept (by simp) (by simp)) (.of_kept (by simp) (by simp))
  have goes : ∀ t : State, Lasts s t → Lasts s (if k < 64 then
        match (setMembers (imageOf s (runningNo s)) k).mergeSort (· ≤ ·) with
        | [] => t
        | r :: _ => match posOfLid s r with
          | none => yardCount (stallFault t p (runningNo s) 0 0 hNone 0 0x0102) 0 1
          | some q => sendBridle t (.stall p) (.stall q) (runningNo s) (.arrive k (lidOf s p))
      else if k < 128 then modLive t p fun y => modBar y k fun v => { v with drive := v.lsense }
      else sysPart (yardCount (setSys t (runningNo s) (k - 128) 0 (getSys t (runningNo s) (k - 128) 0 + 1)) 5 1) (runningNo s) (k - 128)) := by
    refine fun t ht => .ite ?_ (.ite (ht.then_kept (keep_modLive ..) (fixed_modLive ..)) (.trans (ht.then_kept ?_ ?_) (lasts_sysPart ..)))
    · split
      · exact ht
      · split
        · exact ht.then_kept (by simp) (by simp)
        · exact ht.then_kept (keep_sendBridle ..) (fixed_sendBridle ..)
    · simp
    · simp
  dsimp only
  split
  · exact .refl s
  · exact .ite (.refl s) (goes _ (posted _))

theorem lasts_deviceBarrierComplete {id : Fin 4} {s u : State} (h : execDeviceBarrierComplete id s = .next u) : Lasts s u := by
  obtain rfl := Host.Outcome.next.inj h
  have inverted (v : BitVec 4) : Lasts s (yardCount { s with ym := { s.ym with devPhase := v } } 4 1) :=
    .of_kept (by simp [keep_eta]) (by simp)
  exact .ite (.refl s) (.ite ((inverted _).trans (lasts_closingBarrier ..)) (inverted _))

theorem lasts_writeBackRecord {m : Nat} {s u : State} (h : execWriteBackRecord m s = .next u) : Lasts s u := by
  obtain rfl := Host.Outcome.next.inj h
  split
  · exact .trans (.of_kept (by simp) (by simp)) (lasts_sysPart ..)
  · exact .refl s

theorem lasts_barrierToken {i : Nat} {s u : State} (h : execBarrierToken i s = .next u) : Lasts s u := by
  obtain rfl := Host.Outcome.next.inj h
  split
  · exact .refl s
  · next k _ =>
    have taken : Lasts s (consume s i k) := .of_kept (keep_consume ..) (fixed_consume ..)
    refine .ite (.refl s) ?_
    dsimp only
    split
    · exact taken
    · refine .ite taken (.ite (taken.trans (lasts_sysRelease ..)) (.ite taken (.trans (taken.then_kept ?_ ?_) (lasts_sysPart ..))))
      · exact keep_setKids ..
      · exact fixed_setKids ..

theorem lasts_epochCommit {c : CtxIx} {s u : State} (h : execEpochCommit c s = .next u) : Lasts s u := by
  obtain rfl := Host.Outcome.next.inj h
  have last : ∀ t : State, Lasts s t → Lasts s (if (recOf t c).lastStep then closeEpoch t c else t) :=
    fun t ht => .ite (ht.then_kept (keep_closeEpoch t c) (fixed_closeEpoch t c)) ht
  split
  · exact .refl s
  · refine .ite (.refl s) (last _ (.of_kept ?_ ?_)) <;> simp [keep_foldl]

theorem lasts_rollback {c : CtxIx} {s u : State} (h : execRollback c s = .next u) : Lasts s u := by
  obtain rfl := Host.Outcome.next.inj h
  refine .ite (.refl s) ?_
  split
  · exact .of_kept (by simp) (by simp)
  · refine .ite ?_ (.ite (.ite (.refl s) ?_) (.ite (.refl s) (lasts_restart ..)))
    · exact .of_kept (by simp) (by simp)
    · exact .of_kept (by simp) (by simp)

theorem lasts_seedCheck {d : Fin 2} {e : Nat} {faulty : Bool} {s u : State} (h : execSeedCheck d e faulty s = .next u) : Lasts s u := by
  obtain rfl := Host.Outcome.next.inj h
  clear h
  have counted (k : Nat) : Lasts s (drvCount s d 1 k) := .of_kept (keep_drvCount ..) (fixed_drvCount ..)
  split
  · exact .refl s
  · next x _ =>
    have put (t : State) (v : Option Expand) : Lasts t (modDrover t d fun y => { y with expands := nset none y.expands e v }) :=
      .of_kept (keep_modDrover ..) (fixed_modDrover ..)
    split
    · next m _ i rest _ _ =>
      have close (t : State) : Lasts t (if rest = [] then
          drvPump (drvFinish (modDrover t d fun y => { y with expands := nset none y.expands e none }) d x.members)
          else modDrover t d fun y => { y with expands := nset none y.expands e (some { x with todo := rest, again := false }) }) :=
        .ite ((put t none).then_kept (by simp) (by simp)) (put t _)
      have delivered (t : State) (b : Bool) (off : DrvEntry → Nat) (ls : List Line) :
          Lasts t (if b then t else drvDeliver t d x.members off ls) :=
        .ite (.refl t) (.of_kept (keep_drvDeliver ..) (fixed_drvDeliver ..))
      have failed (t : State) (ht : Lasts s t) (k : Nat) : Lasts s (if x.again then
          (if rest = [] then drvPump (drvFinish (modDrover (trigger (drvCount (drvNotices t d x.members) d 7 1) m.ctx 0) d
              fun y => { y with expands := nset none y.expands e none }) d x.members)
            else modDrover (trigger (drvCount (drvNotices t d x.members) d 7 1) m.ctx 0) d
              fun y => { y with expands := nset none y.expands e (some { x with todo := rest, again := false }) })
          else modDrover (drvReport (drvError (drvCount t d 6 1) d m k 0x0402) d m k 0x0402) d
              fun y => { y with expands := nset none y.expands e (some { x with again := true }) }) := by
        refine .ite (.trans (ht.then_kept ?_ ?_) (close _)) (.trans (ht.then_kept ?_ ?_) (put _ _)) <;> simp
      dsimp only
      cases faulty with
      | true =>
        simp only [if_true, Bool.not_true, Bool.false_and, Bool.and_true, Bool.not_false, Bool.false_eq_true, if_false]
        have drawn (l : List Nat) (t : State) : Lasts t (l.foldl (fun (acc : List Line × State) _ =>
            (acc.1 ++ [lineOfBytes (leBytes 72 (draw acc.2).1)], (draw acc.2).2)) ([], t)).2 :=
          .of_kept (keep_foldl2 _ (fun a _ => by simp [keep_eta]) l ([], t)) (fixed_foldl2 _ (fun a _ => by simp) l ([], t))
        exact failed _ (((counted _).trans (drawn _ _)).trans (delivered _ _ _ _)) _
      | false =>
        simp only [Bool.false_eq_true, if_false]
        have there (b : Bool) (off : DrvEntry → Nat) (ls : List Line) := (counted (drvCopy (imageOf s m.ctx) d (drvHandle m i)).pitch).trans (delivered _ b off ls)
        exact .ite ((there _ _ _).trans (close _)) (failed _ (there _ _ _) _)
    · exact .refl s

theorem lasts_drvComplete {p : Position} {n : Nat} {s u : State} (h : execDrvComplete p n s = .next u) : Lasts s u := by
  obtain rfl := Host.Outcome.next.inj h
  split
  · exact .refl s
  · refine .ite (.refl s) (.ite (.of_kept ?_ ?_) (.refl s)) <;> simp [keep_foldl]

theorem lasts_hbmWriteRequest {m : Nat} {bad : Bool} {errs : MemErrs} {s u : State} (h : execHbmWriteRequest m bad errs s = .next u) :
    Lasts s u := by
  obtain rfl := Host.Outcome.next.inj h
  split
  · refine .ite (.refl s) (.ite (.of_kept ?_ ?_) ?_)
    · simp
    · simp
    · refine .of_kept ?_ ?_
      · simp only [keep_send, keep_foldl, keep_tallyRead, keep_ite, keep_setGpoison, keep_storeLines, keep_modRec, keep_dropMsg,
          ite_self, implies_true]
      · simp only [fixed_send, fixed_foldl, fixed_tallyRead, fixed_ite, fixed_setGpoison, fixed_storeLines, fixed_modRec,
          fixed_dropMsg, ite_self, implies_true]
  · exact .refl s

theorem lasts_commit {i : Nat} {s u : State} (h : execCommit i s = .next u) : Lasts s u := by
  obtain rfl := Host.Outcome.next.inj h
  split
  · exact .refl s
  · refine .ite (.refl s) ?_
    split
    · exact .of_kept (keep_consume ..) (fixed_consume ..)
    · refine .of_kept (keep_takeDseq _ _ _ _ _ fun t t' e => ?_) (fixed_takeDseq _ _ _ _ _ fun t t' e => ?_) <;>
      · rw [← Option.some.inj e]
        simp

theorem lasts_wack {i : Nat} {s u : State} (h : execWack i s = .next u) : Lasts s u := by
  obtain rfl := Host.Outcome.next.inj h
  split
  · exact .refl s
  · refine .ite (.refl s) (Lasts.then_kept (.foldl (fun t e => .ite ?_ (.foldl (fun v c => ?_) _ t)) _ s) (keep_consume ..) (fixed_consume ..))
    · exact .of_kept (keep_ackGate ..) (fixed_ackGate ..)
    · exact .of_kept (keep_ackSent ..) (fixed_ackSent ..)

theorem lasts_gap {i : Nat} {s u : State} (h : execGap i s = .next u) : Lasts s u := by
  obtain rfl := Host.Outcome.next.inj h
  split
  · exact .refl s
  · refine .ite (.refl s) (.ite (Lasts.then_kept (.foldl (fun t e => .ite (.foldl (fun v x => ?_) _ t) (.refl t)) _ s) (keep_consume ..) (fixed_consume ..))
      (Lasts.then_kept (.foldl (fun t c => ?_) _ s) (keep_consume ..) (fixed_consume ..)))
    · exact .of_kept (keep_ackGate ..) (fixed_ackGate ..)
    · exact .of_kept (by simp) (by simp)

theorem lasts_start {c : CtxIx} {s u : State} (h : execStart c s = .next u) : Lasts s u := by
  obtain rfl := Host.Outcome.next.inj h
  refine .of_kept (keep_command _ _ _ _ fun t k => ?_) (fixed_command _ _ _ _ fun t k => ?_)
  · dsimp only
    repeat' split
    all_goals simp [keep_foldl]
  · dsimp only
    repeat' split
    all_goals simp

theorem lasts_thermalLimit {p : Position} {temp : Reading} {s u : State} (h : execThermalLimit p temp s = .next u) : Lasts s u := by
  obtain rfl := Host.Outcome.next.inj h
  have hot : ∀ t : State, Lasts s t → Lasts s (dbRail { t with supply := { t.supply with hot := t.supply.hot ++ [p] } } 0x0A80 p temp) :=
    fun t ht => (ht.trans (.of_kept rfl rfl)).then_kept (keep_dbRail ..) (fixed_dbRail ..)
  split
  · exact .refl s
  · refine hot _ (.of_kept ?_ ?_) <;> simp

theorem lasts_boundary (s : State) : Lasts s (scanBoundary (retireAwaiting s)) := (lasts_retireAwaiting s).trans (lasts_scanBoundary _)

theorem lasts_contextSwitch {s u : State} (h : execContextSwitch s = .next u) : Lasts s u := by
  obtain rfl := Host.Outcome.next.inj h
  have out (t : State) : Lasts t (if runningNo t = 64 then t else switchOut t (runningNo t)) :=
    .ite (.refl t) (.of_kept (keep_switchOut ..) (fixed_switchOut ..))
  refine .ite (.refl s) ?_
  dsimp only
  split
  · exact lasts_boundary s
  · exact ((lasts_boundary s).trans (out _)).then_kept (keep_switchIn ..) (fixed_switchIn ..)

theorem lasts_gateStep {fault : BitVec 16} {s u : State} (h : execGateStep fault s = .next u) : Lasts s u := by
  obtain rfl := Host.Outcome.next.inj h
  have run (t : State) (r : Release) : Lasts t (gateRun (if runningNo t = 64 then t else switchOut t (runningNo t)) r fault.toNat) :=
    (Lasts.ite (.refl t) (.of_kept (keep_switchOut ..) (fixed_switchOut ..))).then_kept (keep_gateRun ..) (fixed_gateRun ..)
  have goes (t : State) (next : Option Nat) : Lasts t (match next with
      | some d => if (ctx t d).st = .resident then switchIn t d else t
      | none => t) := by
    split
    · exact .ite (.of_kept (keep_switchIn ..) (fixed_switchIn ..)) (.refl t)
    · exact .refl t
  split
  · exact .refl s
  · exact .ite (.refl s) (((lasts_boundary s).trans (run _ _)).trans (goes _ _))

theorem lasts_resetFlit {i : Nat} {s u : State} (h : execResetFlit i s = .next u) : Lasts s u := by
  obtain rfl := Host.Outcome.next.inj h
  split
  · exact .refl s
  · next k _ =>
    have taken : Lasts s (consume s i k) := .of_kept (keep_consume ..) (fixed_consume ..)
    refine .ite (.refl s) ?_
    dsimp only
    split
    · next ok =>
      have level : fieldAt k.bytes 16 1 ≠ 3 := by
        intro three
        simp [resetFlitOk, three] at ok
      have stamped : Lasts s { consume s i k with
          rhoa := { (consume s i k).rhoa with lastStamp := BitVec.ofNat 64 (fieldAt k.bytes 24 8) } } := taken.trans (.of_kept rfl rfl)
      exact stamped.trans (lasts_requestReset level _ 5)
    · exact taken.then_kept (keep_rlCount ..) (fixed_rlCount ..)

theorem lasts_pulseActs (s : State) (ns : Nat) : Lasts s (pulseActs s ns).2 := by
  unfold pulseActs
  split
  · exact .refl s
  · split
    · exact .refl s
    · exact .of_kept rfl rfl

theorem lasts_sysRstN {ns : Nat} {s u : State} (h : execSysRstN ns s = .next u) : Lasts s u := by
  obtain rfl := Host.Outcome.next.inj h
  exact (lasts_pulseActs s ns).trans (.ite (lasts_requestReset (by decide) _ 1) (.refl _))

theorem lasts_perstN {ns : Nat} {s u : State} (h : execPerstN ns s = .next u) : Lasts s u := by
  obtain rfl := Host.Outcome.next.inj h
  refine .ite (.refl s) ((lasts_pulseActs s ns).trans (.ite (.refl _) (.ite (lasts_requestReset (by decide) _ 2) ?_)))
  exact (Lasts.of_kept (keep_resetGatehouse _) (fixed_resetGatehouse _)).then_kept (keep_markCause ..) (fixed_markCause ..)

theorem lasts_clockUnstable {d : Nat} {s u : State} (h : execClockUnstable d s = .next u) : Lasts s u := by
  obtain rfl := Host.Outcome.next.inj h
  have lost (n : Nat) : Lasts s (clockLost s n) := .of_kept (keep_clockLost ..) (fixed_clockLost ..)
  have reset_ : Lasts s (requestReset (clockLost s 0x3FF) 2 9) := (lost _).trans (lasts_requestReset (by decide) _ 9)
  refine .ite (.refl s) ?_
  split
  · exact (lost 0x3FF).then_kept (by simp) (by simp)
  · exact reset_
  · exact reset_
  · exact reset_
  · next n => exact .ite ((lost n).then_kept (by simp) (by simp)) (.refl s)

theorem lasts_scanDone {pass : Bool} {s u : State} (h : execScanDone pass s = .next u) : Lasts s u := by
  obtain rfl := Host.Outcome.next.inj h
  split
  · exact .refl s
  · next q _ =>
    split
    · exact .refl s
    · next oos =>
      rw [not_not] at oos
      have stored (v : Nat) : Lasts s (csrSetField s scanCtl 62 60 v) := .of_kept (keep_csrSetField ..) (fixed_csrSetField ..)
      have same (v : Nat) : position (csrSetField s scanCtl 62 60 v) q = position s q := position_congr (csrSetField_positions ..) q
      have spared (v : Nat) : Lasts s (modPos (csrSetField s scanCtl 62 60 v) q fun x => { x with st := .spare, scan := false }) := by
        refine (stored v).trans (.modPos_unnamed _ q nofun (fun inv => inv.2.1 q ?_) fun out => ?_)
        · rw [same, oos]
          exact nofun
        · simp [OutOfUse, same, oos] at out
      exact .ite ((spared (if pass then 1 else 2)).then_kept (by simp) (by simp))
        ((stored _).trans (.modPos_same _ _ (fun _ => rfl) fun _ => rfl))

theorem lasts_brownout {rail : Fin 7} {mv : Reading} {ns : Nat} {s u : State} (h : execBrownout rail mv ns s = .next u) : Lasts s u := by
  obtain rfl := Host.Outcome.next.inj h
  have read : Lasts s (if rail = 0 then sampleRail s mv else readRail s rail mv) :=
    .ite (.of_kept (keep_sampleRail ..) (fixed_sampleRail ..)) (.of_kept (keep_readRail ..) (fixed_readRail ..))
  have goes (t : State) : Lasts t (requestReset (if booted (pwrCount t 2) then
      dbRail (reportFault (pwrCount t 2) 1025 0x0A04 0x3FF 0xFF 0x3FF 0 0xFFF) 0x0A04 0x3FF mv else pwrCount t 2) 2 7) :=
    .trans (.ite (.of_kept (by simp) (by simp)) (.of_kept (by simp) (by simp))) (lasts_requestReset (by decide) _ 7)
  exact .ite read (read.trans (goes _))

theorem lasts_thermalTrip {n : Nat} {temp : Reading} {s u : State} (h : execThermalTrip n temp s = .next u) : Lasts s u := by
  obtain rfl := Host.Outcome.next.inj h
  have told (pos : Nat) : Lasts s (if booted s then dbRail s 0x0A81 pos temp else s) :=
    .ite (.of_kept (keep_dbRail ..) (fixed_dbRail ..)) (.refl s)
  split
  · exact .refl s
  · exact ((told _).trans (lasts_requestReset (by decide) _ 6)).then_kept (keep_modRst ..) (fixed_modRst ..)

theorem lasts_mgControl {s go : State} (h : MgmtHdr) (op : Nat) (exempt ok : Bool) (hgo : Lasts s go) :
    Lasts s (mgControl s h op exempt ok go) := by
  unfold mgControl
  refine Lasts.then_kept (.ite (.refl s) (.ite (.of_kept ?_ ?_) (.ite (hgo.then_kept ?_ ?_) (.of_kept ?_ ?_))))
    (keep_tookMessage ..) (fixed_tookMessage ..) <;> simp

theorem lasts_mgmtReset {h : MgmtHdr} {level : Byte} {s u : State} (hx : execMgmtReset h level s = .next u) : Lasts s u := by
  obtain rfl := Host.Outcome.next.inj hx
  have answered := lasts_mgControl h 5 (level = 2) (level = 1 || level = 2) (.refl s)
  by_cases named : level = 1 ∨ level = 2
  · have below : level.toNat ≠ 3 := by
      rcases named with rfl | rfl <;> decide
    exact answered.trans (.ite (lasts_requestReset below _ 4) (.refl _))
  · rw [not_or] at named
    obtain ⟨one, two⟩ := named
    rw [decide_eq_false one, decide_eq_false two]
    rw [decide_eq_false one, decide_eq_false two] at answered
    exact answered

theorem lasts_debugAccess {addr : W64} {op : Option Access} {s u : State} (h : execDebugAccess addr op s = .next u) : Lasts s u := by
  obtain rfl := Host.Outcome.next.inj h
  split
  · exact .ite (.refl s) (lasts_jtag ..)
  · exact .ite (.refl s) (lasts_dap ..)

theorem lasts_registerWrite {who : Requester} {off width : Nat} {value : W64} {s u : State}
    (h : execRegisterWrite who off width value s = .next u) : Lasts s u := by
  obtain rfl := Host.Outcome.next.inj h
  exact (Lasts.ite (lasts_debugRecord ..) (.refl s)).trans (lasts_writeCsr ..)

theorem lasts_barArrive {p : Position} {t : TeamIx} {s u : State} (h : execBarArrive p t s = .next u) : Lasts s u := by
  obtain rfl := Host.Outcome.next.inj h
  refine .of_kept ?_ ?_
  · repeat' first
      | (simp; done)
      | (with_reducible refine (keep_foldl _ ?_ _ _).trans ?_)
      | with_reducible apply keep_issueCore
      | intro _
      | split
  · repeat' first
      | (simp; done)
      | (with_reducible refine (fixed_foldl _ ?_ _ _).trans ?_)
      | with_reducible apply fixed_issueCore
      | intro _
      | split

theorem lasts_engineInstructionComplete {p : Position} {n : Nat} {check : EngineCheck} {s u : State} (h : execEngineInstructionComplete p n check s = .next u) : Lasts s u := by
  obtain rfl := Host.Outcome.next.inj h
  repeat' split
  all_goals exact .of_kept (by simp) (by simp)

theorem lasts_handleFetchComplete {m : Nat} {s u : State} (h : execHandleFetchComplete m s = .next u) : Lasts s u := by
  obtain rfl := Host.Outcome.next.inj h
  split <;> exact .of_kept (by simp) (by simp)

theorem lasts_remoteLineWrite {m : Nat} {check : LineCheck} {s u : State} (h : execRemoteLineWrite m check s = .next u) : Lasts s u := by
  obtain rfl := Host.Outcome.next.inj h
  repeat' split
  all_goals exact .of_kept (by simp) (by simp)

theorem lasts_levelHoldExpiry {m : Nat} {s u : State} (h : execLevelHoldExpiry m s = .next u) : Lasts s u := by
  obtain rfl := Host.Outcome.next.inj h
  split <;> exact .of_kept (by simp) (by simp)

theorem lasts_remoteCompletionArrival {m : Nat} {s u : State} (h : execRemoteCompletionArrival m s = .next u) : Lasts s u := by
  obtain rfl := Host.Outcome.next.inj h
  repeat' split
  all_goals exact .of_kept (by simp) (by simp)

theorem lasts_remoteFlagWrite {m : Nat} {s u : State} (h : execRemoteFlagWrite m s = .next u) : Lasts s u := by
  obtain rfl := Host.Outcome.next.inj h
  split <;> exact .of_kept (by simp) (by simp)

theorem lasts_copyRequest {m : Nat} {s u : State} (h : execCopyRequest m s = .next u) : Lasts s u := by
  obtain rfl := Host.Outcome.next.inj h
  split <;> exact .of_kept (by simp) (by simp)

theorem lasts_copyReturn {m : Nat} {bad : Bool} {s u : State} (h : execCopyReturn m bad s = .next u) : Lasts s u := by
  obtain rfl := Host.Outcome.next.inj h
  repeat' split
  all_goals exact .of_kept (by simp) (by simp)

theorem lasts_writeAck {m : Nat} {s u : State} (h : execWriteAck m s = .next u) : Lasts s u := by
  obtain rfl := Host.Outcome.next.inj h
  repeat' split
  all_goals exact .of_kept (by simp) (by simp)

theorem lasts_barrierArrivalAtRoot {m : Nat} {s u : State} (h : execBarrierArrivalAtRoot m s = .next u) : Lasts s u := by
  obtain rfl := Host.Outcome.next.inj h
  split <;> exact .of_kept (by simp [keep_foldl]) (by simp)

theorem lasts_barrierRelease {m : Nat} {s u : State} (h : execBarrierRelease m s = .next u) : Lasts s u := by
  obtain rfl := Host.Outcome.next.inj h
  repeat' split
  all_goals exact .of_kept (by simp) (by simp)

theorem lasts_contextDrained {c : CtxIx} {s u : State} (h : execContextDrained c s = .next u) : Lasts s u := by
  obtain rfl := Host.Outcome.next.inj h
  split <;> exact .of_kept (by simp [keep_foldl]) (by simp)

theorem lasts_stallWake {p : Position} {s u : State} (h : execStallWake p s = .next u) : Lasts s u := by
  obtain rfl := Host.Outcome.next.inj h
  split <;> exact .of_kept (by simp) (by simp)

theorem lasts_paritySweep {p : Position} {s u : State} (h : execParitySweep p s = .next u) : Lasts s u := by
  obtain rfl := Host.Outcome.next.inj h
  dsimp only
  repeat' split
  all_goals exact .of_kept (by simp) (by simp)

theorem lasts_drvRequest {m : Nat} {r : DrvReads} {s u : State} (h : execDrvRequest m r s = .next u) : Lasts s u := by
  obtain rfl := Host.Outcome.next.inj h
  split <;> exact .of_kept (by simp) (by simp)

theorem lasts_gangWaitExpiry {d : Fin 2} {g : GangServe} {s u : State} (h : execGangWaitExpiry d g s = .next u) : Lasts s u := by
  obtain rfl := Host.Outcome.next.inj h
  split <;> exact .of_kept (by simp) (by simp)

theorem lasts_poisonNotice {m : Nat} {s u : State} (h : execPoisonNotice m s = .next u) : Lasts s u := by
  obtain rfl := Host.Outcome.next.inj h
  repeat' split
  all_goals exact .of_kept (by simp) (by simp)

theorem lasts_hbmReadRequest {m : Nat} {err : MemErr} {s u : State} (h : execHbmReadRequest m err s = .next u) : Lasts s u := by
  obtain rfl := Host.Outcome.next.inj h
  split <;> exact .of_kept (by simp) (by simp)

theorem lasts_hbmReadReturn {m : Nat} {bad : Bool} {s u : State} (h : execHbmReadReturn m bad s = .next u) : Lasts s u := by
  obtain rfl := Host.Outcome.next.inj h
  repeat' split
  all_goals exact .of_kept (by simp) (by simp)

theorem lasts_writeCombineTimeout {st : StackIx} {g : Nat} {err : MergeErrs} {s u : State} (h : execWriteCombineTimeout st g err s = .next u) : Lasts s u := by
  obtain rfl := Host.Outcome.next.inj h
  dsimp only
  repeat' split
  all_goals exact .of_kept (by simp [keep_eta]) (by simp)

theorem lasts_rowRepair {st : StackIx} {pc : Fin 32} {row : Nat} {ppr : Bool} {errs : MemErrs} {s u : State} (h : execRowRepair st pc row ppr errs s = .next u) : Lasts s u := by
  obtain rfl := Host.Outcome.next.inj h
  dsimp only
  repeat' split
  all_goals exact .of_kept (by simp [keep_eta, keep_foldl]) (by simp)

theorem lasts_patrol {st : StackIx} {g : Nat} {err : MemErr} {s u : State} (h : execPatrol st g err s = .next u) : Lasts s u := by
  obtain rfl := Host.Outcome.next.inj h
  repeat' split
  all_goals exact .of_kept (by simp) (by simp)

theorem lasts_hbmLoopDone {st : StackIx} {errors : Nat} {s u : State} (h : execHbmLoopDone st errors s = .next u) : Lasts s u := by
  obtain rfl := Host.Outcome.next.inj h
  split <;> exact .of_kept (by simp [keep_eta]) (by simp)

theorem lasts_granaryRequest {m : Nat} {bad : Bool} {ecc : EccErr} {s u : State} (h : execGranaryRequest m bad ecc s = .next u) : Lasts s u := by
  obtain rfl := Host.Outcome.next.inj h
  repeat' split
  all_goals exact .of_kept (by simp) (by simp)

theorem lasts_granaryFill {c : CtxIx} {slot : Nat} {errs : MemErrs} {s u : State} (h : execGranaryFill c slot errs s = .next u) : Lasts s u := by
  obtain rfl := Host.Outcome.next.inj h
  dsimp only
  repeat' split
  all_goals exact .of_kept (by simp [keep_eta]) (by simp)

theorem lasts_atomicResult {m : Nat} {s u : State} (h : execAtomicResult m s = .next u) : Lasts s u := by
  obtain rfl := Host.Outcome.next.inj h
  repeat' split
  all_goals exact .of_kept (by simp) (by simp)

theorem lasts_flitReceive {n : PortIx} {flit : BitVec 2048} {s u : State} (h : execFlitReceive n flit s = .next u) : Lasts s u := by
  obtain rfl := Host.Outcome.next.inj h
  dsimp only
  repeat' split
  all_goals exact .of_kept (by simp) (by simp)

theorem lasts_flitForward {n : PortIx} {s u : State} (h : execFlitForward n s = .next u) : Lasts s u := by
  obtain rfl := Host.Outcome.next.inj h
  dsimp only
  repeat' split
  all_goals exact .of_kept (by simp) (by simp)

theorem lasts_flitLifetimeExpiry {k : Nat} {n : PortIx} {s u : State} (h : execFlitLifetimeExpiry n k s = .next u) : Lasts s u := by
  obtain rfl := Host.Outcome.next.inj h
  dsimp only
  repeat' split
  all_goals exact .of_kept (by simp [keep_eta]) (by simp)

theorem lasts_wackSend {c : CtxIx} {src : BitVec 15} {s u : State} (h : execWackSend c src s = .next u) : Lasts s u := by
  obtain rfl := Host.Outcome.next.inj h
  split <;> exact .of_kept (by simp) (by simp)

theorem lasts_wackWaitExpiry {c : CtxIx} {dst : BitVec 15} {s u : State} (h : execWackWaitExpiry c dst s = .next u) : Lasts s u := by
  obtain rfl := Host.Outcome.next.inj h
  dsimp only
  all_goals exact .of_kept (by simp [keep_foldl]) (by simp)

theorem lasts_revoke {k : Nat} {s u : State} (h : execRevoke k s = .next u) : Lasts s u := by
  obtain rfl := Host.Outcome.next.inj h
  dsimp only
  repeat' split
  all_goals exact .of_kept (by simp) (by simp)

theorem lasts_commitWaitExpiry {c : CtxIx} {src : BitVec 15} {s u : State} (h : execCommitWaitExpiry c src s = .next u) : Lasts s u := by
  obtain rfl := Host.Outcome.next.inj h
  split <;> exact .of_kept (by simp) (by simp)

theorem lasts_commandFlit {k : Nat} {s u : State} (h : execCommandFlit k s = .next u) : Lasts s u := by
  obtain rfl := Host.Outcome.next.inj h
  split <;> exact .of_kept (by simp [keep_eta]) (by simp)

theorem lasts_beacon {k : Nat} {s u : State} (h : execBeacon k s = .next u) : Lasts s u := by
  obtain rfl := Host.Outcome.next.inj h
  split <;> exact .of_kept (by simp) (by simp)

theorem lasts_intakePacket {fn : Fin 64} {off : Nat} {a : Access} {s u : State} (h : execIntakePacket fn off a s = .next u) : Lasts s u := by
  obtain rfl := Host.Outcome.next.inj h
  dsimp only
  repeat' split
  all_goals exact .of_kept (by simp [keep_eta, keep_foldl]) (by simp)

theorem lasts_load {c : CtxIx} {s u : State} (h : execLoad c s = .next u) : Lasts s u := by
  obtain rfl := Host.Outcome.next.inj h
  refine .of_kept ?_ ?_
  · repeat' first
      | (simp; done)
      | (with_reducible refine (keep_foldl _ ?_ _ _).trans ?_)
      | with_reducible apply keep_command
      | intro _
      | split
      | dsimp only
  · repeat' first
      | (simp; done)
      | (with_reducible refine (fixed_foldl _ ?_ _ _).trans ?_)
      | with_reducible apply fixed_command
      | intro _
      | split
      | dsimp only

theorem lasts_install {c : CtxIx} {s u : State} (h : execInstall c s = .next u) : Lasts s u := by
  obtain rfl := Host.Outcome.next.inj h
  refine .of_kept ?_ ?_
  · repeat' first
      | (simp; done)
      | (with_reducible refine (keep_foldl _ ?_ _ _).trans ?_)
      | with_reducible apply keep_command
      | intro _
      | split
      | dsimp only
  · repeat' first
      | (simp; done)
      | (with_reducible refine (fixed_foldl _ ?_ _ _).trans ?_)
      | with_reducible apply fixed_command
      | intro _
      | split
      | dsimp only

theorem lasts_startComplete {c : CtxIx} {s u : State} (h : execStartComplete c s = .next u) : Lasts s u := by
  obtain rfl := Host.Outcome.next.inj h
  repeat' split
  all_goals exact .of_kept (by simp) (by simp)

theorem lasts_supply {c : CtxIx} {s u : State} (h : execSupply c s = .next u) : Lasts s u := by
  obtain rfl := Host.Outcome.next.inj h
  refine .of_kept ?_ ?_
  · repeat' first
      | (simp; done)
      | (with_reducible refine (keep_foldl _ ?_ _ _).trans ?_)
      | with_reducible apply keep_command
      | intro _
      | split
      | dsimp only
  · repeat' first
      | (simp; done)
      | (with_reducible refine (fixed_foldl _ ?_ _ _).trans ?_)
      | with_reducible apply fixed_command
      | intro _
      | split
      | dsimp only

theorem lasts_retireInput {c : CtxIx} {s u : State} (h : execRetire c s = .next u) : Lasts s u := by
  obtain rfl := Host.Outcome.next.inj h
  refine .of_kept ?_ ?_
  · repeat' first
      | (simp; done)
      | (with_reducible refine (keep_foldl _ ?_ _ _).trans ?_)
      | with_reducible apply keep_command
      | intro _
      | split
      | dsimp only
  · repeat' first
      | (simp; done)
      | (with_reducible refine (fixed_foldl _ ?_ _ _).trans ?_)
      | with_reducible apply fixed_command
      | intro _
      | split
      | dsimp only

theorem lasts_abort {c : CtxIx} {s u : State} (h : execAbort c s = .next u) : Lasts s u := by
  obtain rfl := Host.Outcome.next.inj h
  dsimp only
  repeat' split
  all_goals exact .of_kept (by simp) (by simp)

theorem lasts_unload {c : CtxIx} {s u : State} (h : execUnload c s = .next u) : Lasts s u := by
  obtain rfl := Host.Outcome.next.inj h
  split <;> exact .of_kept (by simp) (by simp)

theorem lasts_completion {k : Nat} {s u : State} (h : execCompletion k s = .next u) : Lasts s u := by
  obtain rfl := Host.Outcome.next.inj h
  dsimp only
  repeat' split
  all_goals exact .of_kept (by simp) (by simp)

theorem lasts_outboundWrite {k : Nat} {s u : State} (h : execOutboundWrite k s = .next u) : Lasts s u := by
  obtain rfl := Host.Outcome.next.inj h
  dsimp only
  repeat' split
  all_goals exact .of_kept (by simp) (by simp)

theorem lasts_apertureAccess {off : Nat} {a : Access} {errs : MemErrs} {s u : State} (h : execApertureAccess off a errs s = .next u) : Lasts s u := by
  obtain rfl := Host.Outcome.next.inj h
  split <;> exact .of_kept (by simp [keep_eta]) (by simp)

theorem lasts_finish {via : Transport} {session : Nat} {verified : Bool} {s u : State} (h : execFinish via session verified s = .next u) : Lasts s u := by
  obtain rfl := Host.Outcome.next.inj h
  split <;> exact .of_kept (by simp) (by simp)

theorem lasts_ecmulW {slot : Fin 8} {k x y dx dy : Fin 32} {s u : State} (h : execEcmulW slot k x y dx dy s = .next u) : Lasts s u := by
  obtain rfl := Host.Outcome.next.inj h
  split <;> exact .of_kept (by simp) (by simp)

theorem lasts_ecmulM {slot : Fin 8} {k u d : Fin 32} {s t : State} (h : execEcmulM slot k u d s = .next t) : Lasts s t := by
  obtain rfl := Host.Outcome.next.inj h
  dsimp only
  repeat' split
  all_goals exact .of_kept (by simp [keep_eta]) (by simp)

theorem lasts_smithyComplete  {s u : State} (h : execSmithyComplete s = .next u) : Lasts s u := by
  obtain rfl := Host.Outcome.next.inj h
  split <;> exact .of_kept (by simp) (by simp)

theorem lasts_blockResetTimeout  {s u : State} (h : execBlockResetTimeout s = .next u) : Lasts s u := by
  obtain rfl := Host.Outcome.next.inj h
  split <;> exact .of_kept (by simp) (by simp)

theorem lasts_blockResetDone  {s u : State} (h : execBlockResetDone s = .next u) : Lasts s u := by
  obtain rfl := Host.Outcome.next.inj h
  split <;> exact .of_kept (by simp) (by simp)

theorem lasts_firmwareRevert {component : Fin 3} {s u : State} (h : execFirmwareRevert component s = .next u) : Lasts s u := by
  obtain rfl := Host.Outcome.next.inj h
  split <;> exact .of_kept (by simp) (by simp)

theorem lasts_droopEpisodeEnd {low : Reading} {s u : State} (h : execDroopEpisodeEnd low s = .next u) : Lasts s u := by
  obtain rfl := Host.Outcome.next.inj h
  split <;> exact .of_kept (by simp [keep_foldl]) (by simp)

theorem lasts_ptpDelayResp {receiptNs : W64} {s u : State} (h : execPtpDelayResp receiptNs s = .next u) : Lasts s u := by
  obtain rfl := Host.Outcome.next.inj h
  split <;> exact .of_kept (by simp) (by simp)

theorem lasts_ptpAnnounce {master priority : W64} {s u : State} (h : execPtpAnnounce master priority s = .next u) : Lasts s u := by
  obtain rfl := Host.Outcome.next.inj h
  repeat' split
  all_goals exact .of_kept (by simp) (by simp)

theorem lasts_faultReportIntake {k : Nat} {s u : State} (h : execFaultReportIntake k s = .next u) : Lasts s u := by
  obtain rfl := Host.Outcome.next.inj h
  split <;> exact .of_kept (by simp [keep_eta]) (by simp)

theorem lasts_telemetry {avgMw peakMw : W32} {stallTemp gateTemp hbmTemp railMv : BitVec 16} {s u : State} (h : execTelemetry avgMw peakMw stallTemp gateTemp hbmTemp railMv s = .next u) : Lasts s u := by
  obtain rfl := Host.Outcome.next.inj h
  refine .of_kept ?_ ?_
  · repeat' first
      | (simp; done)
      | (with_reducible refine (keep_foldl _ ?_ _ _).trans ?_)
      | intro _
      | split
      | dsimp only
  · repeat' first
      | (simp; done)
      | (with_reducible refine (fixed_foldl _ ?_ _ _).trans ?_)
      | intro _
      | split
      | dsimp only

/-- Every command but BOOT, a power-on reset and SVN_RAISE. -/
theorem lasts_exec {c : Instr} {s u : State} (h : exec c s = .next u) (notBoot : ∀ f g m, c ≠ .boot f g m) (notPower : c ≠ .powerOnReset)
    (notSvn : ∀ m b, c ≠ .svnRaise m b) : Lasts s u := by
  cases c with
  | boot f g m => exact absurd rfl (notBoot f g m)
  | powerOnReset => exact absurd rfl notPower
  | svnRaise m b => exact absurd rfl (notSvn m b)
  | arbitration => exact lasts_arbitration h
  | arrivalPosted => exact lasts_arrivalPosted h
  | deviceBarrierComplete => exact lasts_deviceBarrierComplete h
  | writeBackRecord => exact lasts_writeBackRecord h
  | epochCommit => exact lasts_epochCommit h
  | rollback => exact lasts_rollback h
  | seedCheck => exact lasts_seedCheck h
  | drvComplete => exact lasts_drvComplete h
  | hbmWriteRequest => exact lasts_hbmWriteRequest h
  | commit => exact lasts_commit h
  | wack => exact lasts_wack h
  | gap => exact lasts_gap h
  | barrierToken => exact lasts_barrierToken h
  | start => exact lasts_start h
  | thermalLimit => exact lasts_thermalLimit h
  | contextSwitch => exact lasts_contextSwitch h
  | gateStep => exact lasts_gateStep h
  | resetFlit => exact lasts_resetFlit h
  | sysRstN => exact lasts_sysRstN h
  | perstN => exact lasts_perstN h
  | clockUnstable => exact lasts_clockUnstable h
  | scanDone => exact lasts_scanDone h
  | brownout => exact lasts_brownout h
  | thermalTrip => exact lasts_thermalTrip h
  | mgmtReset => exact lasts_mgmtReset h
  | debugAccess => exact lasts_debugAccess h
  | registerWrite => exact lasts_registerWrite h
  | extest | samplePreload | clamp | highz | dapAccess | bypass =>
    obtain rfl := Host.Outcome.next.inj h
    exact lasts_jtag ..
  | idcode =>
    obtain rfl := Host.Outcome.next.inj h
    exact (lasts_jtag s 0x01).trans (.of_kept rfl rfl)
  | scanStart v =>
    obtain rfl := Host.Outcome.next.inj h
    exact .ite (lasts_writeScan s v) (.refl s)
  | csrWrite m addr width v =>
    obtain rfl := Host.Outcome.next.inj h
    exact lasts_mgControl _ _ _ _ (lasts_writeCsr ..)
  | watchdogExpiry =>
    obtain rfl := Host.Outcome.next.inj h
    exact .ite (.refl s) (lasts_requestReset (by decide) s 3)
  | yardmasterFatalError =>
    obtain rfl := Host.Outcome.next.inj h
    exact (Lasts.of_kept (keep_aerError ..) (fixed_aerError ..)).trans (lasts_requestReset (by decide) _ 8)
  | ageingMeasurement p mv =>
    obtain rfl := Host.Outcome.next.inj h
    exact .ite (.refl s) (lasts_ageMeasure s p mv)
  | loftWindowAccess who p off a =>
    obtain rfl := Host.Outcome.next.inj h
    exact lasts_loftWindow who p off a s
  | granaryWindowAccess who off a =>
    obtain rfl := Host.Outcome.next.inj h
    exact lasts_granaryWindow who off a s
  | barArrive => exact lasts_barArrive h
  | engineInstructionComplete => exact lasts_engineInstructionComplete h
  | handleFetchComplete => exact lasts_handleFetchComplete h
  | remoteLineWrite => exact lasts_remoteLineWrite h
  | levelHoldExpiry => exact lasts_levelHoldExpiry h
  | remoteCompletionArrival => exact lasts_remoteCompletionArrival h
  | remoteFlagWrite => exact lasts_remoteFlagWrite h
  | copyRequest => exact lasts_copyRequest h
  | copyReturn => exact lasts_copyReturn h
  | writeAck => exact lasts_writeAck h
  | barrierArrivalAtRoot => exact lasts_barrierArrivalAtRoot h
  | barrierRelease => exact lasts_barrierRelease h
  | contextDrained => exact lasts_contextDrained h
  | stallWake => exact lasts_stallWake h
  | paritySweep => exact lasts_paritySweep h
  | drvRequest => exact lasts_drvRequest h
  | gangWaitExpiry => exact lasts_gangWaitExpiry h
  | poisonNotice => exact lasts_poisonNotice h
  | hbmReadRequest => exact lasts_hbmReadRequest h
  | hbmReadReturn => exact lasts_hbmReadReturn h
  | writeCombineTimeout => exact lasts_writeCombineTimeout h
  | rowRepair => exact lasts_rowRepair h
  | patrol => exact lasts_patrol h
  | hbmLoopDone => exact lasts_hbmLoopDone h
  | granaryRequest => exact lasts_granaryRequest h
  | granaryFill => exact lasts_granaryFill h
  | atomicResult => exact lasts_atomicResult h
  | flitReceive => exact lasts_flitReceive h
  | flitForward => exact lasts_flitForward h
  | flitLifetimeExpiry => exact lasts_flitLifetimeExpiry h
  | wackSend => exact lasts_wackSend h
  | wackWaitExpiry => exact lasts_wackWaitExpiry h
  | revoke => exact lasts_revoke h
  | commitWaitExpiry => exact lasts_commitWaitExpiry h
  | commandFlit => exact lasts_commandFlit h
  | beacon => exact lasts_beacon h
  | intakePacket => exact lasts_intakePacket h
  | load => exact lasts_load h
  | install => exact lasts_install h
  | startComplete => exact lasts_startComplete h
  | supply => exact lasts_supply h
  | retire => exact lasts_retireInput h
  | abort => exact lasts_abort h
  | unload => exact lasts_unload h
  | completion => exact lasts_completion h
  | outboundWrite => exact lasts_outboundWrite h
  | apertureAccess => exact lasts_apertureAccess h
  | finish => exact lasts_finish h
  | ecmulW => exact lasts_ecmulW h
  | ecmulM => exact lasts_ecmulM h
  | smithyComplete => exact lasts_smithyComplete h
  | blockResetTimeout => exact lasts_blockResetTimeout h
  | blockResetDone => exact lasts_blockResetDone h
  | firmwareRevert => exact lasts_firmwareRevert h
  | droopEpisodeEnd => exact lasts_droopEpisodeEnd h
  | ptpDelayResp => exact lasts_ptpDelayResp h
  | ptpAnnounce => exact lasts_ptpAnnounce h
  | faultReportIntake => exact lasts_faultReportIntake h
  | telemetry => exact lasts_telemetry h
  | _ =>
    obtain rfl := Host.Outcome.next.inj h
    exact .of_kept (by simp [keep_eta]) (by simp)

end Sys2Proof.Machine
end

section
/-!
PROOFS. The queue, the roster, OBSERVED and the fuses under every command (R17 to R19, R424, R446, R456), and the state at reset.
-/

namespace Sys2Proof.Machine

/-- The new floor of the fuses, and the firmware slots checked against it. -/
def refloor (s : State) (floor : Byte) : State :=
  [1, 2, 3].foldl restage { s with fuses := { s.fuses with svnFloor := floor.toNat } }

theorem keep_refloor (s : State) (floor : Byte) : (refloor s floor).keep = s.keep :=
  keep_foldl restage keep_restage ..

theorem fixed_refloor (s : State) (floor : Byte) :
    (refloor s floor).fixed = (s.positions, s.tack.observed, { s.fuses with svnFloor := floor.toNat }) :=
  fixed_foldl restage fixed_restage ..

/-- The fuses after SVN_RAISE (R424): as they were, or with a floor above the one that stood. -/
def FloorOnly (s u : State) (floor : Byte) : Prop :=
  u.fuses = s.fuses ∨ s.fuses.svnFloor < floor.toNat ∧ u.fuses = { s.fuses with svnFloor := floor.toNat }

/-- The fuses after a control message answered from the fuses `s` had, or from those of `go`. -/
theorem mgControl_fixed (s go : State) (h : MgmtHdr) (op : Nat) (exempt ok : Bool) :
    (mgControl s h op exempt ok go).fixed = s.fixed ∨ ok = true ∧ (mgControl s h op exempt ok go).fixed = go.fixed := by
  unfold mgControl
  rw [fixed_tookMessage]
  generalize (!if s.rst.recovery then exempt else inSession s h) = denied
  split
  · exact .inl rfl
  · cases denied <;> cases ok <;> simp

theorem mgControl_keep {s go : State} (h : MgmtHdr) (op : Nat) (exempt ok : Bool) (same : go.keep = s.keep) :
    (mgControl s h op exempt ok go).keep = s.keep := by
  unfold mgControl
  rw [keep_tookMessage]
  generalize (!if s.rst.recovery then exempt else inSession s h) = denied
  split
  · rfl
  · cases denied <;> cases ok <;> simp [same]

/-- What SVN_RAISE leaves: everything that `Lasts` names but the floor of the fuses. -/
structure SvnLasts (s u : State) (floor : Byte) : Prop where
  pending : u.pending = s.pending
  positions : u.positions = s.positions
  observed : u.tack.observed = s.tack.observed
  fuses : FloorOnly s u floor

theorem svnLasts_svnRaise {h : MgmtHdr} {floor : Byte} {s u : State} (hx : execSvnRaise h floor s = .next u) :
    SvnLasts s u floor := by
  obtain rfl := Host.Outcome.next.inj hx
  have kept := mgControl_keep h 9 false (decide (s.fuses.svnFloor < floor.toNat)) (keep_refloor s floor)
  have pending := congrArg Prod.fst kept
  obtain same | ⟨above, raised⟩ := mgControl_fixed s (refloor s floor) h 9 false (decide (s.fuses.svnFloor < floor.toNat))
  · have ⟨positions, rest⟩ := Prod.mk.inj same
    have ⟨observed, fuses⟩ := Prod.mk.inj rest
    exact ⟨pending, positions, observed, .inl fuses⟩
  · have ⟨positions, rest⟩ := Prod.mk.inj (raised.trans (fixed_refloor s floor))
    have ⟨observed, fuses⟩ := Prod.mk.inj rest
    exact ⟨pending, positions, observed, .inr ⟨of_decide_eq_true above, fuses⟩⟩

theorem SvnLasts.roster {s u : State} {floor : Byte} (h : SvnLasts s u floor) : RosterLasts s u := fun inv =>
  ⟨(rosterInv_congr h.positions).2 inv, fun p out => by rwa [OutOfUse, position_congr h.positions]⟩

theorem exec_next (c : Instr) (s : State) : ∃ u, exec c s = .next u := by
  cases c <;> exact ⟨_, rfl⟩

/-- Every command leaves the queue. -/
theorem exec_pending {c : Instr} {s u : State} (h : exec c s = .next u) : u.pending = s.pending := by
  by_cases boot : ∃ f g m, c = .boot f g m
  · obtain ⟨f, g, m, rfl⟩ := boot
    exact (bootLasts_boot s f g m h).pending
  by_cases power : c = .powerOnReset
  · subst power
    obtain rfl := Host.Outcome.next.inj h
    exact (lasts_powerOn s).1
  by_cases svn : ∃ m b, c = .svnRaise m b
  · obtain ⟨m, b, rfl⟩ := svn
    exact (svnLasts_svnRaise h).pending
  · push Not at boot svn
    exact (lasts_exec h boot power svn).pending

theorem rosterLasts_exec {c : Instr} {s u : State} (h : exec c s = .next u) (notBoot : ∀ f g m, c ≠ .boot f g m) :
    RosterLasts s u := by
  by_cases power : c = .powerOnReset
  · subst power
    obtain rfl := Host.Outcome.next.inj h
    exact (lasts_powerOn s).2.1
  by_cases svn : ∃ m b, c = .svnRaise m b
  · obtain ⟨m, b, rfl⟩ := svn
    exact (svnLasts_svnRaise h).roster
  · push Not at svn
    exact (lasts_exec h notBoot power svn).roster

theorem rosterInv_exec {c : Instr} {s u : State} (h : exec c s = .next u) (inv : RosterInv s) : RosterInv u := by
  by_cases boot : ∃ f g m, c = .boot f g m
  · obtain ⟨f, g, m, rfl⟩ := boot
    exact (bootLasts_boot s f g m h).roster inv
  · push Not at boot
    exact (rosterLasts_exec h boot inv).1

/-- Settles O3: what each command leaves of the queue, put together over the commands. -/
theorem commandsKeepQueue : Obligations.CommandsKeepQueue := by
  intro c s
  obtain ⟨u, h⟩ := exec_next c s
  exact ⟨u, h, exec_pending h⟩

/-- Settles O1: the second branch of `step`. -/
theorem stepRunsFrontCommand : Obligations.StepRunsFrontCommand := by
  intro s c rest h
  rw [step, h]

/-- Settles O2: the two branches of `tick` without an offset to slew out. -/
theorem emptyQueueTicks : Obligations.EmptyQueueTicks := by
  intro s h
  rw [step, h]
  refine ⟨fun clock slew => ?_, fun noClock => ?_⟩
  · simp [tick, clock, slew, h]
  · simp [tick, noClock]

/-- Settles O4: each part reads an empty list of the reset state. -/
theorem resetState_holds : Obligations.ResetState :=
  ⟨fun _ => rfl, rfl, rfl, fun _ => rfl, fun _ => rfl, rfl, fun _ => rfl⟩

/-- Settles O5: the roster of the reset state is empty. -/
theorem resetLogicalIds : Obligations.ResetLogicalIds := rosterInv_of_empty rfl

/-- Settles O6: the command at the front keeps the invariant, and a tick changes no position. -/
theorem stepKeepsLogicalIds : Obligations.StepKeepsLogicalIds := by
  intro s u inv h
  unfold step at h
  split at h
  case h_1 =>
    obtain rfl := Host.Outcome.next.inj h
    exact (rosterInv_congr (congrArg Prod.fst (fixed_tick s))).2 inv
  case h_2 c rest _ =>
    exact rosterInv_exec h ((rosterInv_congr rfl).2 inv)

theorem not_in_service_of_outOfUse {s : State} {p : Nat} (h : OutOfUse s p) :
    (position s p).st ≠ .enabled ∧ (position s p).st ≠ .spare ∧ (position s p).st ≠ .outOfService := by
  obtain h | h | h := h <;> rw [h] <;> decide

/-- Settles O7: a position out of use stays out of use under every command but BOOT. -/
theorem nothingReturnsToService : Obligations.NothingReturnsToService := by
  intro c s u p inv notBoot h out
  exact not_in_service_of_outOfUse ((rosterLasts_exec h notBoot inv).2 p out)

/-- Settles O60: OBSERVED and the fuses under BOOT, a power-on reset, SVN_RAISE and the other commands. -/
theorem observedAndFusesLast : Obligations.ObservedAndFusesLast := by
  intro c s u h
  by_cases boot : ∃ f g m, c = .boot f g m
  · obtain ⟨f, g, m, rfl⟩ := boot
    have lasts := bootLasts_boot s f g m h
    exact ⟨fun o => .inl (lasts.observed o), .inl lasts.fuses⟩
  by_cases power : c = .powerOnReset
  · subst power
    obtain rfl := Host.Outcome.next.inj h
    exact ⟨fun _ => .inr rfl, .inl (lasts_powerOn s).2.2⟩
  by_cases svn : ∃ m b, c = .svnRaise m b
  · obtain ⟨m, b, rfl⟩ := svn
    have lasts := svnLasts_svnRaise h
    exact ⟨fun o => .inl (lasts.observed.trans o), lasts.fuses.imp id fun ⟨above, eq⟩ => ⟨m, b, rfl, above, eq⟩⟩
  · push Not at boot svn
    have lasts := lasts_exec h boot power svn
    exact ⟨fun o => .inl (lasts.observed o), .inl lasts.fuses⟩

end Sys2Proof.Machine
end

section
/-!
SUPPORT. What the operations leave alone, field by field: for each field a view of the state, which simp carries through the operations
that do not touch it, and the projection that follows.
-/

namespace Sys2Proof.Machine

/-! ### The Ledger -/

/-- The Ledger of a state, as a function of it. -/
def State.vLedger (s : State) : W64 := s.ledger

@[simp] theorem vLedger_mk (x0 : List Instr) (x1 : Nat) (x2 : Nat) (x3 : List Byte) (x4 : Bool) (x5 : NMap Byte) (x6 : List
      (Nat × Nat)) (x7 : NMap W64) (x8 : W64) (x9 : NMap Pos) (x10 : NMap Stall) (x11 : NMap LoftLine) (x12 : List Msg) (x13
      : NMap Ctx) (x14 : NMap Rec) (x15 : Yardm) (x16 : Hbm) (x17 : Granary) (x18 : NMap Drover) (x19 : List Report) (x20 :
      Rhoa) (x21 : Gateh) (x22 : Daybk) (x23 : Fuses) (x24 : Tack) (x25 : Smithy) (x26 : Rst) (x27 : Supply) (x28 : Ostler)
      (x29 : Disc) (x30 : Tap) (x31 : List (Transport × List Byte)) (x32 : List (List Byte)) :
    (State.mk x0 x1 x2 x3 x4 x5 x6 x7 x8 x9 x10 x11 x12 x13 x14 x15 x16 x17 x18 x19 x20 x21 x22 x23 x24 x25 x26 x27 x28 x29
      x30 x31 x32).vLedger = x8 := (rfl)

theorem vLedger_eta (s : State) : s.ledger = s.vLedger := (rfl)

@[simp] theorem vLedger_ite (c : Prop) [Decidable c] (a b : State) : (if c then a else b).vLedger = if c then a.vLedger else
      b.vLedger := by
  split <;> rfl

@[simp] theorem vLedger_foldl {β : Type} (g : State → β → State) (h : ∀ s b, (g s b).vLedger = s.vLedger) (l : List β) (s :
      State) :
    (l.foldl g s).vLedger = s.vLedger := by
  induction l generalizing s with
  | nil => rfl
  | cons b l ih => exact (ih (g s b)).trans (h s b)

@[simp] theorem vLedger_csrPut (s : State) (off : Nat) (v : W64) :
    (csrPut s off v).vLedger = s.vLedger := by simp [csrPut, vLedger_eta]

@[simp] theorem vLedger_csrSetField (s : State) (off hi lo v : Nat) :
    (csrSetField s off hi lo v).vLedger = s.vLedger := by simp [csrSetField]

@[simp] theorem vLedger_bumpBy (s : State) (off wrapOff wrapBit n : Nat) :
    (bumpBy s off wrapOff wrapBit n).vLedger = s.vLedger := by simp [bumpBy]

@[simp] theorem vLedger_bump (s : State) (off wrapOff wrapBit : Nat) :
    (bump s off wrapOff wrapBit).vLedger = s.vLedger := by simp [bump]

@[simp] theorem vLedger_recordFirst (s : State) (off v : Nat) :
    (recordFirst s off v).vLedger = s.vLedger := by simp [recordFirst]

@[simp] theorem vLedger_yardCount (s : State) (i n : Nat) :
    (yardCount s i n).vLedger = s.vLedger := by simp [yardCount]

@[simp] theorem vLedger_grnCount (s : State) (i n : Nat) :
    (grnCount s i n).vLedger = s.vLedger := by simp [grnCount]

@[simp] theorem vLedger_recCount (s : State) (i : Nat) :
    (recCount s i).vLedger = s.vLedger := by simp [recCount]

@[simp] theorem vLedger_rlCount (s : State) (n i k : Nat) :
    (rlCount s n i k).vLedger = s.vLedger := by simp [rlCount]

@[simp] theorem vLedger_modRec (s : State) (c : Nat) (f : Rec → Rec) :
    (modRec s c f).vLedger = s.vLedger := by simp [modRec, vLedger_eta]

@[simp] theorem vLedger_setLoft (s : State) (p line : Nat) (v : LoftLine) :
    (setLoft s p line v).vLedger = s.vLedger := by simp [setLoft, vLedger_eta]

@[simp] theorem vLedger_loftWrite (s : State) (p line c : Nat) (words : Line) (mask : Nat) :
    (loftWrite s p line c words mask).vLedger = s.vLedger := by simp [loftWrite]

@[simp] theorem vLedger_send (s : State) (src dst : Node) (net : Net) (c : Nat) (b : Body) :
    (send s src dst net c b).vLedger = s.vLedger := by simp [send, vLedger_eta]

@[simp] theorem vLedger_sendBridle (s : State) (src dst : Node) (c : Nat) (b : Body) :
    (sendBridle s src dst c b).vLedger = s.vLedger := by simp [sendBridle]

@[simp] theorem vLedger_modPort (s : State) (n : Nat) (f : Port → Port) :
    (modPort s n f).vLedger = s.vLedger := by simp [modPort, vLedger_eta]

@[simp] theorem vLedger_wireFlit (s : State) (n : Nat) (b : List Byte) (seq : BitVec 16) :
    (wireFlit s n b seq).vLedger = s.vLedger := by simp [wireFlit, vLedger_eta]

theorem vLedger_sendOne (s t : State) (n : Nat) (h : sendOne s n = some t) : t.vLedger = s.vLedger := by
  unfold sendOne at h
  dsimp only at h
  split at h
  · cases h
  · split at h
    · cases h
    · cases h
      simp

@[simp] theorem vLedger_pump (k : Nat) (s : State) (n : Nat) : (pump k s n).vLedger = s.vLedger := by
  induction k generalizing s with
  | zero => rfl
  | succ k ih =>
    unfold pump
    split
    · rw [ih]
      exact vLedger_sendOne _ _ _ ‹_›
    · rfl

@[simp] theorem vLedger_pumpPort (s : State) (n : Nat) : (pumpPort s n).vLedger = s.vLedger := by simp [pumpPort]

@[simp] theorem vLedger_sendFlit (s : State) (via : Nat) (b : List Byte) :
    (sendFlit s via b).vLedger = s.vLedger := by
  unfold sendFlit
  repeat' split
  all_goals simp [vLedger_eta]

@[simp] theorem vLedger_dbStore (s : State) (type c : Nat) (payload : List Byte) :
    (dbStore s type c payload).vLedger = s.vLedger := by simp [dbStore, vLedger_eta]

@[simp] theorem vLedger_dbAppend (s : State) (type c : Nat) (payload : List Byte) :
    (dbAppend s type c payload).vLedger = s.vLedger := by simp [dbAppend, vLedger_eta]

@[simp] theorem vLedger_dbEpoch (s : State) (c epoch event target : Nat) :
    (dbEpoch s c epoch event target).vLedger = s.vLedger := by simp [dbEpoch]

@[simp] theorem vLedger_dbFault (s : State) (c code lid team handle : Nat) :
    (dbFault s c code lid team handle).vLedger = s.vLedger := by simp [dbFault]

@[simp] theorem vLedger_raiseIrq (s : State) (fn vec : Nat) :
    (raiseIrq s fn vec).vLedger = s.vLedger := by simp [raiseIrq, vLedger_eta]

@[simp] theorem vLedger_ghRecord (s : State) (r : Nat) (rec_ : List Byte) (irq : Bool) (vf vfVec : Nat) :
    (ghRecord s r rec_ irq vf vfVec).vLedger = s.vLedger := by simp [ghRecord, vLedger_eta]

@[simp] theorem vLedger_ghNote (s : State) (ring : Nat) (rec_ : List Byte) :
    (ghNote s ring rec_).vLedger = s.vLedger := by
  unfold ghNote
  repeat' first
    | (simp [vLedger_eta]; done)
    | (with_reducible refine (vLedger_foldl _ ?_ _ _).trans ?_)
    | intro _
    | split
    | dsimp only

@[simp] theorem vLedger_ghDeliver (s : State) (m : Nat) (rec_ : List Byte) (irq : Bool) :
    (ghDeliver s m rec_ irq).vLedger = s.vLedger := by simp [ghDeliver]

@[simp] theorem vLedger_emitRecord (s : State) (rec_ : List Byte) (irq : Bool) :
    (emitRecord s rec_ irq).vLedger = s.vLedger := by
  unfold emitRecord
  repeat' split
  all_goals simp

@[simp] theorem vLedger_reportOstler (s : State) (source code detail c : Nat) :
    (reportOstler s source code detail c).vLedger = s.vLedger := by simp [reportOstler, vLedger_eta]

@[simp] theorem vLedger_reportFault (s : State) (source code detail c lid team handle : Nat) :
    (reportFault s source code detail c lid team handle).vLedger = s.vLedger := by simp [reportFault]

@[simp] theorem vLedger_stallFault (s : State) (p c : Nat) (team : Fin 4) (pc handle action code : Nat) :
    (stallFault s p c team pc handle action code).vLedger = s.vLedger := by simp [stallFault]

@[simp] theorem vLedger_trigger (s : State) (c target : Nat) :
    (trigger s c target).vLedger = s.vLedger := by simp [trigger]

@[simp] theorem vLedger_startFetch (s : State) (p c h : Nat) :
    (startFetch s p c h).vLedger = s.vLedger := by simp [startFetch]

@[simp] theorem vLedger_openEpoch (s : State) (c reruns : Nat) :
    (openEpoch s c reruns).vLedger = s.vLedger := by simp [openEpoch, vLedger_eta]

@[simp] theorem vLedger_ensureEpoch (s : State) (c : Nat) :
    (ensureEpoch s c).vLedger = s.vLedger := by simp [ensureEpoch]

@[simp] theorem vLedger_lateFence (s : State) (p : Nat) :
    (lateFence s p).vLedger = s.vLedger := by simp [lateFence]

@[simp] theorem vLedger_parityFailed (s : State) (p line words : Nat) (background : Bool) :
    (parityFailed s p line words background).vLedger = s.vLedger := by simp [parityFailed]

@[simp] theorem vLedger_parityRead (s : State) (p c line : Nat) :
    (parityRead s p c line).vLedger = s.vLedger := by
  unfold parityRead
  repeat' first
    | (simp; done)
    | (with_reducible refine (vLedger_foldl _ ?_ _ _).trans ?_)
    | intro _
    | split
    | dsimp only

@[simp] theorem vLedger_parityPiece (s : State) (p c : Nat) (pc : Piece) (as_ : List Int) :
    (parityPiece s p c pc as_).vLedger = s.vLedger := by simp [parityPiece]

@[simp] theorem vLedger_sendBulk (s : State) (src dst : Node) (net : Net) (c : Nat) (b : Body) (lines : Nat) :
    (sendBulk s src dst net c b lines).vLedger = s.vLedger := by simp [sendBulk]

@[simp] theorem vLedger_recordAbsent (s : State) (p : Nat) (e : Entry) :
    (recordAbsent s p e).vLedger = s.vLedger := by simp [recordAbsent]

theorem vLedger_def (s : State) : s.vLedger = s.ledger := rfl

@[simp] theorem recordFirst_ledger (s : State) (off v : Nat) :
    (recordFirst s off v).ledger = s.ledger := (vLedger_def _).symm.trans ((vLedger_recordFirst ..).trans (vLedger_def _))

@[simp] theorem yardCount_ledger (s : State) (i n : Nat) :
    (yardCount s i n).ledger = s.ledger := (vLedger_def _).symm.trans ((vLedger_yardCount ..).trans (vLedger_def _))

@[simp] theorem grnCount_ledger (s : State) (i n : Nat) :
    (grnCount s i n).ledger = s.ledger := (vLedger_def _).symm.trans ((vLedger_grnCount ..).trans (vLedger_def _))

@[simp] theorem recCount_ledger (s : State) (i : Nat) :
    (recCount s i).ledger = s.ledger := (vLedger_def _).symm.trans ((vLedger_recCount ..).trans (vLedger_def _))

@[simp] theorem loftWrite_ledger (s : State) (p line c : Nat) (words : Line) (mask : Nat) :
    (loftWrite s p line c words mask).ledger = s.ledger := (vLedger_def _).symm.trans ((vLedger_loftWrite ..).trans
      (vLedger_def _))

@[simp] theorem sendBridle_ledger (s : State) (src dst : Node) (c : Nat) (b : Body) :
    (sendBridle s src dst c b).ledger = s.ledger := (vLedger_def _).symm.trans ((vLedger_sendBridle ..).trans (vLedger_def _))

@[simp] theorem stallFault_ledger (s : State) (p c : Nat) (team : Fin 4) (pc handle action code : Nat) :
    (stallFault s p c team pc handle action code).ledger = s.ledger := (vLedger_def _).symm.trans ((vLedger_stallFault
      ..).trans (vLedger_def _))

@[simp] theorem trigger_ledger (s : State) (c target : Nat) :
    (trigger s c target).ledger = s.ledger := (vLedger_def _).symm.trans ((vLedger_trigger ..).trans (vLedger_def _))

@[simp] theorem startFetch_ledger (s : State) (p c h : Nat) :
    (startFetch s p c h).ledger = s.ledger := (vLedger_def _).symm.trans ((vLedger_startFetch ..).trans (vLedger_def _))

@[simp] theorem ensureEpoch_ledger (s : State) (c : Nat) :
    (ensureEpoch s c).ledger = s.ledger := (vLedger_def _).symm.trans ((vLedger_ensureEpoch ..).trans (vLedger_def _))

@[simp] theorem lateFence_ledger (s : State) (p : Nat) :
    (lateFence s p).ledger = s.ledger := (vLedger_def _).symm.trans ((vLedger_lateFence ..).trans (vLedger_def _))

@[simp] theorem parityPiece_ledger (s : State) (p c : Nat) (pc : Piece) (as_ : List Int) :
    (parityPiece s p c pc as_).ledger = s.ledger := (vLedger_def _).symm.trans ((vLedger_parityPiece ..).trans (vLedger_def _))

@[simp] theorem sendBulk_ledger (s : State) (src dst : Node) (net : Net) (c : Nat) (b : Body) (lines : Nat) :
    (sendBulk s src dst net c b lines).ledger = s.ledger := (vLedger_def _).symm.trans ((vLedger_sendBulk ..).trans
      (vLedger_def _))

@[simp] theorem recordAbsent_ledger (s : State) (p : Nat) (e : Entry) :
    (recordAbsent s p e).ledger = s.ledger := (vLedger_def _).symm.trans ((vLedger_recordAbsent ..).trans (vLedger_def _))

/-! ### The stalls -/

/-- The stalls of a state, as a function of it. -/
def State.vStalls (s : State) : NMap Stall := s.stalls

@[simp] theorem vStalls_mk (x0 : List Instr) (x1 : Nat) (x2 : Nat) (x3 : List Byte) (x4 : Bool) (x5 : NMap Byte) (x6 : List
      (Nat × Nat)) (x7 : NMap W64) (x8 : W64) (x9 : NMap Pos) (x10 : NMap Stall) (x11 : NMap LoftLine) (x12 : List Msg) (x13
      : NMap Ctx) (x14 : NMap Rec) (x15 : Yardm) (x16 : Hbm) (x17 : Granary) (x18 : NMap Drover) (x19 : List Report) (x20 :
      Rhoa) (x21 : Gateh) (x22 : Daybk) (x23 : Fuses) (x24 : Tack) (x25 : Smithy) (x26 : Rst) (x27 : Supply) (x28 : Ostler)
      (x29 : Disc) (x30 : Tap) (x31 : List (Transport × List Byte)) (x32 : List (List Byte)) :
    (State.mk x0 x1 x2 x3 x4 x5 x6 x7 x8 x9 x10 x11 x12 x13 x14 x15 x16 x17 x18 x19 x20 x21 x22 x23 x24 x25 x26 x27 x28 x29
      x30 x31 x32).vStalls = x10 := (rfl)

theorem vStalls_eta (s : State) : s.stalls = s.vStalls := (rfl)

@[simp] theorem vStalls_ite (c : Prop) [Decidable c] (a b : State) : (if c then a else b).vStalls = if c then a.vStalls else
      b.vStalls := by
  split <;> rfl

@[simp] theorem vStalls_foldl {β : Type} (g : State → β → State) (h : ∀ s b, (g s b).vStalls = s.vStalls) (l : List β) (s :
      State) :
    (l.foldl g s).vStalls = s.vStalls := by
  induction l generalizing s with
  | nil => rfl
  | cons b l ih => exact (ih (g s b)).trans (h s b)

@[simp] theorem vStalls_csrPut (s : State) (off : Nat) (v : W64) :
    (csrPut s off v).vStalls = s.vStalls := by simp [csrPut, vStalls_eta]

@[simp] theorem vStalls_csrSetField (s : State) (off hi lo v : Nat) :
    (csrSetField s off hi lo v).vStalls = s.vStalls := by simp [csrSetField]

@[simp] theorem vStalls_bumpBy (s : State) (off wrapOff wrapBit n : Nat) :
    (bumpBy s off wrapOff wrapBit n).vStalls = s.vStalls := by simp [bumpBy]

@[simp] theorem vStalls_bump (s : State) (off wrapOff wrapBit : Nat) :
    (bump s off wrapOff wrapBit).vStalls = s.vStalls := by simp [bump]

@[simp] theorem vStalls_recordFirst (s : State) (off v : Nat) :
    (recordFirst s off v).vStalls = s.vStalls := by simp [recordFirst]

@[simp] theorem vStalls_yardCount (s : State) (i n : Nat) :
    (yardCount s i n).vStalls = s.vStalls := by simp [yardCount]

@[simp] theorem vStalls_grnCount (s : State) (i n : Nat) :
    (grnCount s i n).vStalls = s.vStalls := by simp [grnCount]

@[simp] theorem vStalls_recCount (s : State) (i : Nat) :
    (recCount s i).vStalls = s.vStalls := by simp [recCount]

@[simp] theorem vStalls_rlCount (s : State) (n i k : Nat) :
    (rlCount s n i k).vStalls = s.vStalls := by simp [rlCount]

@[simp] theorem vStalls_setCtx (s : State) (c : Nat) (x : Ctx) :
    (setCtx s c x).vStalls = s.vStalls := by simp [setCtx, vStalls_eta]

@[simp] theorem vStalls_modCtx (s : State) (c : Nat) (f : Ctx → Ctx) :
    (modCtx s c f).vStalls = s.vStalls := by simp [modCtx]

@[simp] theorem vStalls_modRec (s : State) (c : Nat) (f : Rec → Rec) :
    (modRec s c f).vStalls = s.vStalls := by simp [modRec, vStalls_eta]

@[simp] theorem vStalls_setLoft (s : State) (p line : Nat) (v : LoftLine) :
    (setLoft s p line v).vStalls = s.vStalls := by simp [setLoft, vStalls_eta]

@[simp] theorem vStalls_loftWrite (s : State) (p line c : Nat) (words : Line) (mask : Nat) :
    (loftWrite s p line c words mask).vStalls = s.vStalls := by simp [loftWrite]

@[simp] theorem vStalls_send (s : State) (src dst : Node) (net : Net) (c : Nat) (b : Body) :
    (send s src dst net c b).vStalls = s.vStalls := by simp [send, vStalls_eta]

@[simp] theorem vStalls_sendBridle (s : State) (src dst : Node) (c : Nat) (b : Body) :
    (sendBridle s src dst c b).vStalls = s.vStalls := by simp [sendBridle]

@[simp] theorem vStalls_modPort (s : State) (n : Nat) (f : Port → Port) :
    (modPort s n f).vStalls = s.vStalls := by simp [modPort, vStalls_eta]

@[simp] theorem vStalls_wireFlit (s : State) (n : Nat) (b : List Byte) (seq : BitVec 16) :
    (wireFlit s n b seq).vStalls = s.vStalls := by simp [wireFlit, vStalls_eta]

theorem vStalls_sendOne (s t : State) (n : Nat) (h : sendOne s n = some t) : t.vStalls = s.vStalls := by
  unfold sendOne at h
  dsimp only at h
  split at h
  · cases h
  · split at h
    · cases h
    · cases h
      simp

@[simp] theorem vStalls_pump (k : Nat) (s : State) (n : Nat) : (pump k s n).vStalls = s.vStalls := by
  induction k generalizing s with
  | zero => rfl
  | succ k ih =>
    unfold pump
    split
    · rw [ih]
      exact vStalls_sendOne _ _ _ ‹_›
    · rfl

@[simp] theorem vStalls_pumpPort (s : State) (n : Nat) : (pumpPort s n).vStalls = s.vStalls := by simp [pumpPort]

@[simp] theorem vStalls_sendFlit (s : State) (via : Nat) (b : List Byte) :
    (sendFlit s via b).vStalls = s.vStalls := by
  unfold sendFlit
  repeat' split
  all_goals simp [vStalls_eta]

@[simp] theorem vStalls_dbStore (s : State) (type c : Nat) (payload : List Byte) :
    (dbStore s type c payload).vStalls = s.vStalls := by simp [dbStore, vStalls_eta]

@[simp] theorem vStalls_dbAppend (s : State) (type c : Nat) (payload : List Byte) :
    (dbAppend s type c payload).vStalls = s.vStalls := by simp [dbAppend, vStalls_eta]

@[simp] theorem vStalls_dbEpoch (s : State) (c epoch event target : Nat) :
    (dbEpoch s c epoch event target).vStalls = s.vStalls := by simp [dbEpoch]

@[simp] theorem vStalls_dbFault (s : State) (c code lid team handle : Nat) :
    (dbFault s c code lid team handle).vStalls = s.vStalls := by simp [dbFault]

@[simp] theorem vStalls_raiseIrq (s : State) (fn vec : Nat) :
    (raiseIrq s fn vec).vStalls = s.vStalls := by simp [raiseIrq, vStalls_eta]

@[simp] theorem vStalls_ghRecord (s : State) (r : Nat) (rec_ : List Byte) (irq : Bool) (vf vfVec : Nat) :
    (ghRecord s r rec_ irq vf vfVec).vStalls = s.vStalls := by simp [ghRecord, vStalls_eta]

@[simp] theorem vStalls_ghNote (s : State) (ring : Nat) (rec_ : List Byte) :
    (ghNote s ring rec_).vStalls = s.vStalls := by
  unfold ghNote
  repeat' first
    | (simp [vStalls_eta]; done)
    | (with_reducible refine (vStalls_foldl _ ?_ _ _).trans ?_)
    | intro _
    | split
    | dsimp only

@[simp] theorem vStalls_ghDeliver (s : State) (m : Nat) (rec_ : List Byte) (irq : Bool) :
    (ghDeliver s m rec_ irq).vStalls = s.vStalls := by simp [ghDeliver]

@[simp] theorem vStalls_emitRecord (s : State) (rec_ : List Byte) (irq : Bool) :
    (emitRecord s rec_ irq).vStalls = s.vStalls := by
  unfold emitRecord
  repeat' split
  all_goals simp

@[simp] theorem vStalls_reportOstler (s : State) (source code detail c : Nat) :
    (reportOstler s source code detail c).vStalls = s.vStalls := by simp [reportOstler, vStalls_eta]

@[simp] theorem vStalls_reportFault (s : State) (source code detail c lid team handle : Nat) :
    (reportFault s source code detail c lid team handle).vStalls = s.vStalls := by simp [reportFault]

@[simp] theorem vStalls_explain (s : State) (cause : Nat) (involved : List (Nat × W128)) :
    (explain s cause involved).vStalls = s.vStalls := by
  unfold explain
  split <;> simp [vStalls_eta]

@[simp] theorem vStalls_stallFault (s : State) (p c : Nat) (team : Fin 4) (pc handle action code : Nat) :
    (stallFault s p c team pc handle action code).vStalls = s.vStalls := by simp [stallFault]

@[simp] theorem vStalls_trigger (s : State) (c target : Nat) :
    (trigger s c target).vStalls = s.vStalls := by simp [trigger]

@[simp] theorem vStalls_startFetch (s : State) (p c h : Nat) :
    (startFetch s p c h).vStalls = s.vStalls := by simp [startFetch]

@[simp] theorem vStalls_noteHalt (s : State) (p c : Nat) (t : Fin 4) (code : Nat) :
    (noteHalt s p c t code).vStalls = s.vStalls := by simp [noteHalt]

@[simp] theorem vStalls_openEpoch (s : State) (c reruns : Nat) :
    (openEpoch s c reruns).vStalls = s.vStalls := by simp [openEpoch]

@[simp] theorem vStalls_ensureEpoch (s : State) (c : Nat) :
    (ensureEpoch s c).vStalls = s.vStalls := by simp [ensureEpoch]

@[simp] theorem vStalls_lateFence (s : State) (p : Nat) :
    (lateFence s p).vStalls = s.vStalls := by simp [lateFence]

@[simp] theorem vStalls_parityFailed (s : State) (p line words : Nat) (background : Bool) :
    (parityFailed s p line words background).vStalls = s.vStalls := by simp [parityFailed]

@[simp] theorem vStalls_parityRead (s : State) (p c line : Nat) :
    (parityRead s p c line).vStalls = s.vStalls := by
  unfold parityRead
  repeat' first
    | (simp; done)
    | (with_reducible refine (vStalls_foldl _ ?_ _ _).trans ?_)
    | intro _
    | split
    | dsimp only

@[simp] theorem vStalls_parityPiece (s : State) (p c : Nat) (pc : Piece) (as_ : List Int) :
    (parityPiece s p c pc as_).vStalls = s.vStalls := by simp [parityPiece]

@[simp] theorem vStalls_sendBulk (s : State) (src dst : Node) (net : Net) (c : Nat) (b : Body) (lines : Nat) :
    (sendBulk s src dst net c b lines).vStalls = s.vStalls := by simp [sendBulk]

@[simp] theorem vStalls_recordAbsent (s : State) (p : Nat) (e : Entry) :
    (recordAbsent s p e).vStalls = s.vStalls := by simp [recordAbsent]

theorem vStalls_def (s : State) : s.vStalls = s.stalls := rfl

@[simp] theorem yardCount_stalls (s : State) (i n : Nat) :
    (yardCount s i n).stalls = s.stalls := (vStalls_def _).symm.trans ((vStalls_yardCount ..).trans (vStalls_def _))

@[simp] theorem stall_yardCount (s : State) (i n : Nat) (j₀ : Nat) :
    stall (yardCount s i n) j₀ = stall s j₀ := congrArg (nget ({} : Stall) · j₀) ((vStalls_def _).symm.trans
      ((vStalls_yardCount ..).trans (vStalls_def _)))

@[simp] theorem grnCount_stalls (s : State) (i n : Nat) :
    (grnCount s i n).stalls = s.stalls := (vStalls_def _).symm.trans ((vStalls_grnCount ..).trans (vStalls_def _))

@[simp] theorem recCount_stalls (s : State) (i : Nat) :
    (recCount s i).stalls = s.stalls := (vStalls_def _).symm.trans ((vStalls_recCount ..).trans (vStalls_def _))

@[simp] theorem stall_modCtx (s : State) (c : Nat) (f : Ctx → Ctx) (j₀ : Nat) :
    stall (modCtx s c f) j₀ = stall s j₀ := congrArg (nget ({} : Stall) · j₀) ((vStalls_def _).symm.trans ((vStalls_modCtx
      ..).trans (vStalls_def _)))

@[simp] theorem loftWrite_stalls (s : State) (p line c : Nat) (words : Line) (mask : Nat) :
    (loftWrite s p line c words mask).stalls = s.stalls := (vStalls_def _).symm.trans ((vStalls_loftWrite ..).trans
      (vStalls_def _))

@[simp] theorem sendBridle_stalls (s : State) (src dst : Node) (c : Nat) (b : Body) :
    (sendBridle s src dst c b).stalls = s.stalls := (vStalls_def _).symm.trans ((vStalls_sendBridle ..).trans (vStalls_def _))

@[simp] theorem stall_explain (s : State) (cause : Nat) (involved : List (Nat × W128)) (j₀ : Nat) :
    stall (explain s cause involved) j₀ = stall s j₀ := congrArg (nget ({} : Stall) · j₀) ((vStalls_def _).symm.trans
      ((vStalls_explain ..).trans (vStalls_def _)))

@[simp] theorem stallFault_stalls (s : State) (p c : Nat) (team : Fin 4) (pc handle action code : Nat) :
    (stallFault s p c team pc handle action code).stalls = s.stalls := (vStalls_def _).symm.trans ((vStalls_stallFault
      ..).trans (vStalls_def _))

@[simp] theorem stall_stallFault (s : State) (p c : Nat) (team : Fin 4) (pc handle action code : Nat) (j₀ : Nat) :
    stall (stallFault s p c team pc handle action code) j₀ = stall s j₀ := congrArg (nget ({} : Stall) · j₀) ((vStalls_def
      _).symm.trans ((vStalls_stallFault ..).trans (vStalls_def _)))

@[simp] theorem trigger_stalls (s : State) (c target : Nat) :
    (trigger s c target).stalls = s.stalls := (vStalls_def _).symm.trans ((vStalls_trigger ..).trans (vStalls_def _))

@[simp] theorem stall_trigger (s : State) (c target : Nat) (j₀ : Nat) :
    stall (trigger s c target) j₀ = stall s j₀ := congrArg (nget ({} : Stall) · j₀) ((vStalls_def _).symm.trans
      ((vStalls_trigger ..).trans (vStalls_def _)))

@[simp] theorem stall_startFetch (s : State) (p c h : Nat) (j₀ : Nat) :
    stall (startFetch s p c h) j₀ = stall s j₀ := congrArg (nget ({} : Stall) · j₀) ((vStalls_def _).symm.trans
      ((vStalls_startFetch ..).trans (vStalls_def _)))

@[simp] theorem stall_noteHalt (s : State) (p c : Nat) (t : Fin 4) (code : Nat) (j₀ : Nat) :
    stall (noteHalt s p c t code) j₀ = stall s j₀ := congrArg (nget ({} : Stall) · j₀) ((vStalls_def _).symm.trans
      ((vStalls_noteHalt ..).trans (vStalls_def _)))

@[simp] theorem stall_ensureEpoch (s : State) (c : Nat) (j₀ : Nat) :
    stall (ensureEpoch s c) j₀ = stall s j₀ := congrArg (nget ({} : Stall) · j₀) ((vStalls_def _).symm.trans
      ((vStalls_ensureEpoch ..).trans (vStalls_def _)))

@[simp] theorem stall_lateFence (s : State) (p : Nat) (j₀ : Nat) :
    stall (lateFence s p) j₀ = stall s j₀ := congrArg (nget ({} : Stall) · j₀) ((vStalls_def _).symm.trans
      ((vStalls_lateFence ..).trans (vStalls_def _)))

@[simp] theorem parityPiece_stalls (s : State) (p c : Nat) (pc : Piece) (as_ : List Int) :
    (parityPiece s p c pc as_).stalls = s.stalls := (vStalls_def _).symm.trans ((vStalls_parityPiece ..).trans (vStalls_def _))

@[simp] theorem sendBulk_stalls (s : State) (src dst : Node) (net : Net) (c : Nat) (b : Body) (lines : Nat) :
    (sendBulk s src dst net c b lines).stalls = s.stalls := (vStalls_def _).symm.trans ((vStalls_sendBulk ..).trans
      (vStalls_def _))

@[simp] theorem recordAbsent_stalls (s : State) (p : Nat) (e : Entry) :
    (recordAbsent s p e).stalls = s.stalls := (vStalls_def _).symm.trans ((vStalls_recordAbsent ..).trans (vStalls_def _))

/-! ### The recovery state of the contexts -/

/-- The recovery state of the contexts of a state, as a function of it. -/
def State.vRecs (s : State) : NMap Rec := s.recs

@[simp] theorem vRecs_mk (x0 : List Instr) (x1 : Nat) (x2 : Nat) (x3 : List Byte) (x4 : Bool) (x5 : NMap Byte) (x6 : List
      (Nat × Nat)) (x7 : NMap W64) (x8 : W64) (x9 : NMap Pos) (x10 : NMap Stall) (x11 : NMap LoftLine) (x12 : List Msg) (x13
      : NMap Ctx) (x14 : NMap Rec) (x15 : Yardm) (x16 : Hbm) (x17 : Granary) (x18 : NMap Drover) (x19 : List Report) (x20 :
      Rhoa) (x21 : Gateh) (x22 : Daybk) (x23 : Fuses) (x24 : Tack) (x25 : Smithy) (x26 : Rst) (x27 : Supply) (x28 : Ostler)
      (x29 : Disc) (x30 : Tap) (x31 : List (Transport × List Byte)) (x32 : List (List Byte)) :
    (State.mk x0 x1 x2 x3 x4 x5 x6 x7 x8 x9 x10 x11 x12 x13 x14 x15 x16 x17 x18 x19 x20 x21 x22 x23 x24 x25 x26 x27 x28 x29
      x30 x31 x32).vRecs = x14 := (rfl)

theorem vRecs_eta (s : State) : s.recs = s.vRecs := (rfl)

@[simp] theorem vRecs_ite (c : Prop) [Decidable c] (a b : State) : (if c then a else b).vRecs = if c then a.vRecs else
      b.vRecs := by
  split <;> rfl

@[simp] theorem vRecs_csrPut (s : State) (off : Nat) (v : W64) :
    (csrPut s off v).vRecs = s.vRecs := by simp [csrPut, vRecs_eta]

@[simp] theorem vRecs_csrSetField (s : State) (off hi lo v : Nat) :
    (csrSetField s off hi lo v).vRecs = s.vRecs := by simp [csrSetField]

@[simp] theorem vRecs_bumpBy (s : State) (off wrapOff wrapBit n : Nat) :
    (bumpBy s off wrapOff wrapBit n).vRecs = s.vRecs := by simp [bumpBy]

@[simp] theorem vRecs_bump (s : State) (off wrapOff wrapBit : Nat) :
    (bump s off wrapOff wrapBit).vRecs = s.vRecs := by simp [bump]

@[simp] theorem vRecs_setStall (s : State) (p : Nat) (x : Stall) :
    (setStall s p x).vRecs = s.vRecs := by simp [setStall, vRecs_eta]

@[simp] theorem vRecs_modStall (s : State) (p : Nat) (f : Stall → Stall) :
    (modStall s p f).vRecs = s.vRecs := by simp [modStall]

@[simp] theorem vRecs_setCtx (s : State) (c : Nat) (x : Ctx) :
    (setCtx s c x).vRecs = s.vRecs := by simp [setCtx, vRecs_eta]

@[simp] theorem vRecs_modCtx (s : State) (c : Nat) (f : Ctx → Ctx) :
    (modCtx s c f).vRecs = s.vRecs := by simp [modCtx]

@[simp] theorem vRecs_dbStore (s : State) (type c : Nat) (payload : List Byte) :
    (dbStore s type c payload).vRecs = s.vRecs := by simp [dbStore, vRecs_eta]

@[simp] theorem vRecs_dbAppend (s : State) (type c : Nat) (payload : List Byte) :
    (dbAppend s type c payload).vRecs = s.vRecs := by simp [dbAppend, vRecs_eta]

@[simp] theorem vRecs_dbEpoch (s : State) (c epoch event target : Nat) :
    (dbEpoch s c epoch event target).vRecs = s.vRecs := by simp [dbEpoch]

@[simp] theorem vRecs_noteFirst (s : State) (c : Nat) :
    (noteFirst s c).vRecs = s.vRecs := by
  unfold noteFirst
  split <;> simp [vRecs_eta]

@[simp] theorem vRecs_lateFence (s : State) (p : Nat) :
    (lateFence s p).vRecs = s.vRecs := by simp [lateFence]

theorem vRecs_def (s : State) : s.vRecs = s.recs := rfl

@[simp] theorem recOf_modStall (s : State) (p : Nat) (f : Stall → Stall) (j₀ : Nat) :
    recOf (modStall s p f) j₀ = recOf s j₀ := congrArg (nget ({} : Rec) · j₀) ((vRecs_def _).symm.trans ((vRecs_modStall
      ..).trans (vRecs_def _)))

@[simp] theorem recOf_dbEpoch (s : State) (c epoch event target : Nat) (j₀ : Nat) :
    recOf (dbEpoch s c epoch event target) j₀ = recOf s j₀ := congrArg (nget ({} : Rec) · j₀) ((vRecs_def _).symm.trans
      ((vRecs_dbEpoch ..).trans (vRecs_def _)))

@[simp] theorem recOf_noteFirst (s : State) (c : Nat) (j₀ : Nat) :
    recOf (noteFirst s c) j₀ = recOf s j₀ := congrArg (nget ({} : Rec) · j₀) ((vRecs_def _).symm.trans ((vRecs_noteFirst
      ..).trans (vRecs_def _)))

@[simp] theorem recOf_lateFence (s : State) (p : Nat) (j₀ : Nat) :
    recOf (lateFence s p) j₀ = recOf s j₀ := congrArg (nget ({} : Rec) · j₀) ((vRecs_def _).symm.trans ((vRecs_lateFence
      ..).trans (vRecs_def _)))

/-! ### The registers -/

/-- The registers of a state, as a function of it. -/
def State.vCsr (s : State) : NMap W64 := s.csr

@[simp] theorem vCsr_mk (x0 : List Instr) (x1 : Nat) (x2 : Nat) (x3 : List Byte) (x4 : Bool) (x5 : NMap Byte) (x6 : List (Nat
      × Nat)) (x7 : NMap W64) (x8 : W64) (x9 : NMap Pos) (x10 : NMap Stall) (x11 : NMap LoftLine) (x12 : List Msg) (x13 :
      NMap Ctx) (x14 : NMap Rec) (x15 : Yardm) (x16 : Hbm) (x17 : Granary) (x18 : NMap Drover) (x19 : List Report) (x20 :
      Rhoa) (x21 : Gateh) (x22 : Daybk) (x23 : Fuses) (x24 : Tack) (x25 : Smithy) (x26 : Rst) (x27 : Supply) (x28 : Ostler)
      (x29 : Disc) (x30 : Tap) (x31 : List (Transport × List Byte)) (x32 : List (List Byte)) :
    (State.mk x0 x1 x2 x3 x4 x5 x6 x7 x8 x9 x10 x11 x12 x13 x14 x15 x16 x17 x18 x19 x20 x21 x22 x23 x24 x25 x26 x27 x28 x29
      x30 x31 x32).vCsr = x7 := (rfl)

theorem vCsr_eta (s : State) : s.csr = s.vCsr := (rfl)

@[simp] theorem vCsr_ite (c : Prop) [Decidable c] (a b : State) : (if c then a else b).vCsr = if c then a.vCsr else b.vCsr := by
  split <;> rfl

@[simp] theorem vCsr_setStall (s : State) (p : Nat) (x : Stall) :
    (setStall s p x).vCsr = s.vCsr := by simp [setStall, vCsr_eta]

@[simp] theorem vCsr_modStall (s : State) (p : Nat) (f : Stall → Stall) :
    (modStall s p f).vCsr = s.vCsr := by simp [modStall]

@[simp] theorem vCsr_setCtx (s : State) (c : Nat) (x : Ctx) :
    (setCtx s c x).vCsr = s.vCsr := by simp [setCtx, vCsr_eta]

@[simp] theorem vCsr_modCtx (s : State) (c : Nat) (f : Ctx → Ctx) :
    (modCtx s c f).vCsr = s.vCsr := by simp [modCtx]

@[simp] theorem vCsr_modTeam (s : State) (p : Nat) (t : Fin 4) (f : Team → Team) :
    (modTeam s p t f).vCsr = s.vCsr := by simp [modTeam]

@[simp] theorem vCsr_modPort (s : State) (n : Nat) (f : Port → Port) :
    (modPort s n f).vCsr = s.vCsr := by simp [modPort, vCsr_eta]

@[simp] theorem vCsr_wireFlit (s : State) (n : Nat) (b : List Byte) (seq : BitVec 16) :
    (wireFlit s n b seq).vCsr = s.vCsr := by simp [wireFlit, vCsr_eta]

@[simp] theorem vCsr_raiseIrq (s : State) (fn vec : Nat) :
    (raiseIrq s fn vec).vCsr = s.vCsr := by simp [raiseIrq, vCsr_eta]

@[simp] theorem vCsr_ghRecord (s : State) (r : Nat) (rec_ : List Byte) (irq : Bool) (vf vfVec : Nat) :
    (ghRecord s r rec_ irq vf vfVec).vCsr = s.vCsr := by simp [ghRecord, vCsr_eta]

@[simp] theorem vCsr_ghNote (s : State) (ring : Nat) (rec_ : List Byte) :
    (ghNote s ring rec_).vCsr = s.vCsr := by
  unfold ghNote
  repeat' first
    | (simp [vCsr_eta]; done)
    | (with_reducible refine (vCsr_foldl _ ?_ _ _).trans ?_)
    | intro _
    | split
    | dsimp only

@[simp] theorem vCsr_ghDeliver (s : State) (m : Nat) (rec_ : List Byte) (irq : Bool) :
    (ghDeliver s m rec_ irq).vCsr = s.vCsr := by simp [ghDeliver]

@[simp] theorem vCsr_explain (s : State) (cause : Nat) (involved : List (Nat × W128)) :
    (explain s cause involved).vCsr = s.vCsr := by
  unfold explain
  split <;> simp [vCsr_eta]

@[simp] theorem vCsr_noteHalt (s : State) (p c : Nat) (t : Fin 4) (code : Nat) :
    (noteHalt s p c t code).vCsr = s.vCsr := by simp [noteHalt]

@[simp] theorem vCsr_noteFirst (s : State) (c : Nat) :
    (noteFirst s c).vCsr = s.vCsr := by
  unfold noteFirst
  split <;> simp [vCsr_eta]

theorem vCsr_def (s : State) : s.vCsr = s.csr := rfl

@[simp] theorem modTeam_csr (s : State) (p : Nat) (t : Fin 4) (f : Team → Team) :
    (modTeam s p t f).csr = s.csr := (vCsr_def _).symm.trans ((vCsr_modTeam ..).trans (vCsr_def _))

@[simp] theorem wireFlit_csr (s : State) (n : Nat) (b : List Byte) (seq : BitVec 16) :
    (wireFlit s n b seq).csr = s.csr := (vCsr_def _).symm.trans ((vCsr_wireFlit ..).trans (vCsr_def _))

@[simp] theorem ghDeliver_csr (s : State) (m : Nat) (rec_ : List Byte) (irq : Bool) :
    (ghDeliver s m rec_ irq).csr = s.csr := (vCsr_def _).symm.trans ((vCsr_ghDeliver ..).trans (vCsr_def _))

@[simp] theorem explain_csr (s : State) (cause : Nat) (involved : List (Nat × W128)) :
    (explain s cause involved).csr = s.csr := (vCsr_def _).symm.trans ((vCsr_explain ..).trans (vCsr_def _))

@[simp] theorem noteHalt_csr (s : State) (p c : Nat) (t : Fin 4) (code : Nat) :
    (noteHalt s p c t code).csr = s.csr := (vCsr_def _).symm.trans ((vCsr_noteHalt ..).trans (vCsr_def _))

@[simp] theorem noteFirst_csr (s : State) (c : Nat) :
    (noteFirst s c).csr = s.csr := (vCsr_def _).symm.trans ((vCsr_noteFirst ..).trans (vCsr_def _))

/-! ### The fault reports -/

/-- The fault reports of a state, as a function of it. -/
def State.vReports (s : State) : List Report := s.reports

@[simp] theorem vReports_mk (x0 : List Instr) (x1 : Nat) (x2 : Nat) (x3 : List Byte) (x4 : Bool) (x5 : NMap Byte) (x6 : List
      (Nat × Nat)) (x7 : NMap W64) (x8 : W64) (x9 : NMap Pos) (x10 : NMap Stall) (x11 : NMap LoftLine) (x12 : List Msg) (x13
      : NMap Ctx) (x14 : NMap Rec) (x15 : Yardm) (x16 : Hbm) (x17 : Granary) (x18 : NMap Drover) (x19 : List Report) (x20 :
      Rhoa) (x21 : Gateh) (x22 : Daybk) (x23 : Fuses) (x24 : Tack) (x25 : Smithy) (x26 : Rst) (x27 : Supply) (x28 : Ostler)
      (x29 : Disc) (x30 : Tap) (x31 : List (Transport × List Byte)) (x32 : List (List Byte)) :
    (State.mk x0 x1 x2 x3 x4 x5 x6 x7 x8 x9 x10 x11 x12 x13 x14 x15 x16 x17 x18 x19 x20 x21 x22 x23 x24 x25 x26 x27 x28 x29
      x30 x31 x32).vReports = x19 := (rfl)

theorem vReports_eta (s : State) : s.reports = s.vReports := (rfl)

@[simp] theorem vReports_ite (c : Prop) [Decidable c] (a b : State) : (if c then a else b).vReports = if c then a.vReports
      else b.vReports := by
  split <;> rfl

@[simp] theorem vReports_csrPut (s : State) (off : Nat) (v : W64) :
    (csrPut s off v).vReports = s.vReports := by simp [csrPut, vReports_eta]

@[simp] theorem vReports_csrSetField (s : State) (off hi lo v : Nat) :
    (csrSetField s off hi lo v).vReports = s.vReports := by simp [csrSetField]

@[simp] theorem vReports_bumpBy (s : State) (off wrapOff wrapBit n : Nat) :
    (bumpBy s off wrapOff wrapBit n).vReports = s.vReports := by simp [bumpBy]

@[simp] theorem vReports_bump (s : State) (off wrapOff wrapBit : Nat) :
    (bump s off wrapOff wrapBit).vReports = s.vReports := by simp [bump]

@[simp] theorem vReports_recordFirst (s : State) (off v : Nat) :
    (recordFirst s off v).vReports = s.vReports := by simp [recordFirst]

@[simp] theorem vReports_yardCount (s : State) (i n : Nat) :
    (yardCount s i n).vReports = s.vReports := by simp [yardCount]

@[simp] theorem vReports_rlCount (s : State) (n i k : Nat) :
    (rlCount s n i k).vReports = s.vReports := by simp [rlCount]

@[simp] theorem vReports_modPort (s : State) (n : Nat) (f : Port → Port) :
    (modPort s n f).vReports = s.vReports := by simp [modPort, vReports_eta]

@[simp] theorem vReports_wireFlit (s : State) (n : Nat) (b : List Byte) (seq : BitVec 16) :
    (wireFlit s n b seq).vReports = s.vReports := by simp [wireFlit, vReports_eta]

theorem vReports_sendOne (s t : State) (n : Nat) (h : sendOne s n = some t) : t.vReports = s.vReports := by
  unfold sendOne at h
  dsimp only at h
  split at h
  · cases h
  · split at h
    · cases h
    · cases h
      simp

@[simp] theorem vReports_pump (k : Nat) (s : State) (n : Nat) : (pump k s n).vReports = s.vReports := by
  induction k generalizing s with
  | zero => rfl
  | succ k ih =>
    unfold pump
    split
    · rw [ih]
      exact vReports_sendOne _ _ _ ‹_›
    · rfl

@[simp] theorem vReports_pumpPort (s : State) (n : Nat) : (pumpPort s n).vReports = s.vReports := by simp [pumpPort]

@[simp] theorem vReports_sendFlit (s : State) (via : Nat) (b : List Byte) :
    (sendFlit s via b).vReports = s.vReports := by
  unfold sendFlit
  repeat' split
  all_goals simp [vReports_eta]

@[simp] theorem vReports_dbStore (s : State) (type c : Nat) (payload : List Byte) :
    (dbStore s type c payload).vReports = s.vReports := by simp [dbStore, vReports_eta]

@[simp] theorem vReports_dbAppend (s : State) (type c : Nat) (payload : List Byte) :
    (dbAppend s type c payload).vReports = s.vReports := by simp [dbAppend, vReports_eta]

@[simp] theorem vReports_dbFault (s : State) (c code lid team handle : Nat) :
    (dbFault s c code lid team handle).vReports = s.vReports := by simp [dbFault]

@[simp] theorem vReports_raiseIrq (s : State) (fn vec : Nat) :
    (raiseIrq s fn vec).vReports = s.vReports := by simp [raiseIrq, vReports_eta]

@[simp] theorem vReports_ghRecord (s : State) (r : Nat) (rec_ : List Byte) (irq : Bool) (vf vfVec : Nat) :
    (ghRecord s r rec_ irq vf vfVec).vReports = s.vReports := by simp [ghRecord, vReports_eta]

@[simp] theorem vReports_ghNote (s : State) (ring : Nat) (rec_ : List Byte) :
    (ghNote s ring rec_).vReports = s.vReports := by
  unfold ghNote
  repeat' first
    | (simp [vReports_eta]; done)
    | (with_reducible refine (vReports_foldl _ ?_ _ _).trans ?_)
    | intro _
    | split
    | dsimp only

@[simp] theorem vReports_ghDeliver (s : State) (m : Nat) (rec_ : List Byte) (irq : Bool) :
    (ghDeliver s m rec_ irq).vReports = s.vReports := by simp [ghDeliver]

@[simp] theorem vReports_emitRecord (s : State) (rec_ : List Byte) (irq : Bool) :
    (emitRecord s rec_ irq).vReports = s.vReports := by
  unfold emitRecord
  repeat' split
  all_goals simp

theorem vReports_def (s : State) : s.vReports = s.reports := rfl

@[simp] theorem recordFirst_reports (s : State) (off v : Nat) :
    (recordFirst s off v).reports = s.reports := (vReports_def _).symm.trans ((vReports_recordFirst ..).trans (vReports_def _))

@[simp] theorem yardCount_reports (s : State) (i n : Nat) :
    (yardCount s i n).reports = s.reports := (vReports_def _).symm.trans ((vReports_yardCount ..).trans (vReports_def _))

@[simp] theorem dbFault_reports (s : State) (c code lid team handle : Nat) :
    (dbFault s c code lid team handle).reports = s.reports := (vReports_def _).symm.trans ((vReports_dbFault ..).trans
      (vReports_def _))

@[simp] theorem emitRecord_reports (s : State) (rec_ : List Byte) (irq : Bool) :
    (emitRecord s rec_ irq).reports = s.reports := (vReports_def _).symm.trans ((vReports_emitRecord ..).trans (vReports_def _))

/-! ### What is in flight in the Yard -/

/-- What is in flight in the Yard of a state, as a function of it. -/
def State.vYard (s : State) : List Msg := s.yard

@[simp] theorem vYard_mk (x0 : List Instr) (x1 : Nat) (x2 : Nat) (x3 : List Byte) (x4 : Bool) (x5 : NMap Byte) (x6 : List
      (Nat × Nat)) (x7 : NMap W64) (x8 : W64) (x9 : NMap Pos) (x10 : NMap Stall) (x11 : NMap LoftLine) (x12 : List Msg) (x13
      : NMap Ctx) (x14 : NMap Rec) (x15 : Yardm) (x16 : Hbm) (x17 : Granary) (x18 : NMap Drover) (x19 : List Report) (x20 :
      Rhoa) (x21 : Gateh) (x22 : Daybk) (x23 : Fuses) (x24 : Tack) (x25 : Smithy) (x26 : Rst) (x27 : Supply) (x28 : Ostler)
      (x29 : Disc) (x30 : Tap) (x31 : List (Transport × List Byte)) (x32 : List (List Byte)) :
    (State.mk x0 x1 x2 x3 x4 x5 x6 x7 x8 x9 x10 x11 x12 x13 x14 x15 x16 x17 x18 x19 x20 x21 x22 x23 x24 x25 x26 x27 x28 x29
      x30 x31 x32).vYard = x12 := (rfl)

theorem vYard_eta (s : State) : s.yard = s.vYard := (rfl)

@[simp] theorem vYard_ite (c : Prop) [Decidable c] (a b : State) : (if c then a else b).vYard = if c then a.vYard else
      b.vYard := by
  split <;> rfl

@[simp] theorem vYard_csrPut (s : State) (off : Nat) (v : W64) :
    (csrPut s off v).vYard = s.vYard := by simp [csrPut, vYard_eta]

@[simp] theorem vYard_csrSetField (s : State) (off hi lo v : Nat) :
    (csrSetField s off hi lo v).vYard = s.vYard := by simp [csrSetField]

@[simp] theorem vYard_bumpBy (s : State) (off wrapOff wrapBit n : Nat) :
    (bumpBy s off wrapOff wrapBit n).vYard = s.vYard := by simp [bumpBy]

@[simp] theorem vYard_yardCount (s : State) (i n : Nat) :
    (yardCount s i n).vYard = s.vYard := by simp [yardCount]

theorem vYard_def (s : State) : s.vYard = s.yard := rfl

@[simp] theorem yardCount_yard (s : State) (i n : Nat) :
    (yardCount s i n).yard = s.yard := (vYard_def _).symm.trans ((vYard_yardCount ..).trans (vYard_def _))

/-! ### The number of the next message -/

/-- The number of the next message of a state, as a function of it. -/
def State.vMsgSeq (s : State) : Nat := s.msgSeq

@[simp] theorem vMsgSeq_mk (x0 : List Instr) (x1 : Nat) (x2 : Nat) (x3 : List Byte) (x4 : Bool) (x5 : NMap Byte) (x6 : List
      (Nat × Nat)) (x7 : NMap W64) (x8 : W64) (x9 : NMap Pos) (x10 : NMap Stall) (x11 : NMap LoftLine) (x12 : List Msg) (x13
      : NMap Ctx) (x14 : NMap Rec) (x15 : Yardm) (x16 : Hbm) (x17 : Granary) (x18 : NMap Drover) (x19 : List Report) (x20 :
      Rhoa) (x21 : Gateh) (x22 : Daybk) (x23 : Fuses) (x24 : Tack) (x25 : Smithy) (x26 : Rst) (x27 : Supply) (x28 : Ostler)
      (x29 : Disc) (x30 : Tap) (x31 : List (Transport × List Byte)) (x32 : List (List Byte)) :
    (State.mk x0 x1 x2 x3 x4 x5 x6 x7 x8 x9 x10 x11 x12 x13 x14 x15 x16 x17 x18 x19 x20 x21 x22 x23 x24 x25 x26 x27 x28 x29
      x30 x31 x32).vMsgSeq = x2 := (rfl)

theorem vMsgSeq_eta (s : State) : s.msgSeq = s.vMsgSeq := (rfl)

@[simp] theorem vMsgSeq_ite (c : Prop) [Decidable c] (a b : State) : (if c then a else b).vMsgSeq = if c then a.vMsgSeq else
      b.vMsgSeq := by
  split <;> rfl

@[simp] theorem vMsgSeq_setCtx (s : State) (c : Nat) (x : Ctx) :
    (setCtx s c x).vMsgSeq = s.vMsgSeq := by simp [setCtx, vMsgSeq_eta]

@[simp] theorem vMsgSeq_modCtx (s : State) (c : Nat) (f : Ctx → Ctx) :
    (modCtx s c f).vMsgSeq = s.vMsgSeq := by simp [modCtx]

@[simp] theorem vMsgSeq_noteFirst (s : State) (c : Nat) :
    (noteFirst s c).vMsgSeq = s.vMsgSeq := by
  unfold noteFirst
  split <;> simp [vMsgSeq_eta]

theorem vMsgSeq_def (s : State) : s.vMsgSeq = s.msgSeq := rfl

@[simp] theorem noteFirst_msgSeq (s : State) (c : Nat) :
    (noteFirst s c).msgSeq = s.msgSeq := (vMsgSeq_def _).symm.trans ((vMsgSeq_noteFirst ..).trans (vMsgSeq_def _))

end Sys2Proof.Machine
end

section
/-!
PROOFS. Comparators, Team control, branches and loops (R75, R84, R116, R117, R126).
-/

namespace Sys2Proof.Machine

/-! ### Comparators (R84) -/

theorem cmpOf_cmpCheck (x : StallCtx) (k : Nat) : cmpOf (cmpCheck x) k = dueUnder x.cnts (cmpOf x k) := by
  rw [cmpOf, cmpCheck_cmps]
  exact nget_map_values rfl x.cmps k

theorem cmpOf_put (x : StallCtx) (k j : Nat) (c : Cmp) :
    cmpOf { x with cmps := nset {} x.cmps k c } j = if j = k then c else cmpOf x j := by
  by_cases h : j = k
  · rw [if_pos h, h, cmpOf, nget_nset_same]
  · rw [if_neg h, cmpOf, nget_nset_other _ _ h, cmpOf]

/-- A stall's live context after comparator k has had its chance to fire. -/
def fired (x : StallCtx) (k : Nat) : StallCtx :=
  let m := cmpOf x k
  if m.armed && m.due then setFlag { x with cmps := nset {} x.cmps k { m with armed := false, due := false } } m.flag true else x

theorem fired_due {x : StallCtx} {k : Nat} (armed : (cmpOf x k).armed = true) (due : (cmpOf x k).due = true) :
    fired x k = { x with cmps := nset {} x.cmps k { cmpOf x k with armed := false, due := false },
                         flags := putFlag x.flags (cmpOf x k).flag true } := by
  simp only [fired, armed, due, Bool.and_self, if_true, setFlag]

/-- Settles O9: the comparators are read one by one after each command. -/
theorem comparatorsArmDisarmAndFire : Obligations.ComparatorsArmDisarmAndFire := by
  refine fun s p t => ⟨fun h => ?_, fun h => ?_, fun k armed due => ?_⟩
  · refine ⟨_, rfl, _, sequenced_scalarOp _ h, fun j => ?_⟩
    refine (cmpOf_cmpCheck _ j).trans ?_
    rw [cmpOf_put]
    split <;> rfl
  · refine ⟨_, rfl, _, sequenced_scalarOp _ h, fun j => ?_⟩
    by_cases same : j = wf_ (headOfTeam s p t) 10 8
    · rw [if_pos same, same, nget_nmod_same]
      rfl
    · rw [if_neg same, nget_nmod_other _ _ same]
      rfl
  · have own := stall_modStall_same s p fun y => { y with live := fired y.live k }
    rw [fired_due armed due] at own
    refine ⟨_, rfl, _, putFlag _ (cmpOf (stall s p).live k).flag true, rfl, fun q hq => stall_modStall_other _ hq .., own, fun j => ?_,
      fun f _ => getLsbD_putFlag_true ..⟩
    refine (cmpOf_put _ k j _).trans ?_
    split
    · next same => rw [same]
    · rfl

/-! ### Team control (R75, R116, R117) -/

theorem mem_levels {l : Nat} : l ∈ [0, 1, 2, 3] ↔ l < 4 := by
  simp only [List.mem_cons, List.not_mem_nil, or_false]
  omega

theorem getLoop_setLoop (m : Team) {l j : Nat} (v : Loop) (hl : l < 4) (hj : j < 4) :
    getLoop (setLoop m l v) j = if j = l then v else getLoop m j := by
  interval_cases l <;> interval_cases j <;> rfl

/-- A control loop is active and ends at the Team's instruction. -/
def endsHere (m : Team) (l : Nat) : Prop := (getLoop m l).active = true ∧ (getLoop m l).last = m.pc

theorem advance_plain (at_ : W64) {m : Team} (h : ∀ l, l < 4 → ¬endsHere m l) : advance at_ m = { m with pc := m.pc + 1 } := by
  have none_ : [0, 1, 2, 3].find? (fun l => (getLoop m l).active && decide ((getLoop m l).last = m.pc)) = none := by
    refine List.find?_eq_none.2 fun l hl => ?_
    rw [Bool.and_eq_true, decide_eq_true_iff]
    exact h l (mem_levels.1 hl)
  rw [advance, none_]

/-- The lowest level whose loop ends at the instruction goes back, or is left. -/
theorem advance_loop (at_ : W64) {m : Team} {l : Nat} (hl : l < 4) (ends : endsHere m l) (lowest : ∀ j, j < l → ¬endsHere m j) :
    advance at_ m = if (getLoop m l).rem = 0
      then { setLoop m l { getLoop m l with active := false, iter := 0 } with pc := m.pc + 1 }
      else heldBack at_ { setLoop m l { getLoop m l with iter := (getLoop m l).iter + 1, rem := (getLoop m l).rem - 1 } with
        pc := (getLoop m l).back } := by
  have hit : [0, 1, 2, 3].find? (fun l => (getLoop m l).active && decide ((getLoop m l).last = m.pc)) = some l := by
    have at_l : ((getLoop m l).active && decide ((getLoop m l).last = m.pc)) = true := by
      rw [Bool.and_eq_true, decide_eq_true_iff]
      exact ends
    have below (j : Nat) (hj : j < l) : ((getLoop m j).active && decide ((getLoop m j).last = m.pc)) = false := by
      rw [Bool.eq_false_iff, ne_eq, Bool.and_eq_true, decide_eq_true_iff]
      exact lowest j hj
    interval_cases l <;> simp [at_l, below]
  rw [advance, hit]

theorem advance_level (at_ : W64) {m : Team} {l : Nat} (hl : l < 4) (ends : endsHere m l) (lowest : ∀ j, j < l → ¬endsHere m j) :
    ((getLoop m l).rem ≠ 0 → (advance at_ m).pc = (getLoop m l).back ∧ (advance at_ m).hold = 2 ∧
      getLoop (advance at_ m) l = { getLoop m l with iter := (getLoop m l).iter + 1, rem := (getLoop m l).rem - 1 }) ∧
    ((getLoop m l).rem = 0 → (advance at_ m).pc = m.pc + 1 ∧ getLoop (advance at_ m) l = { getLoop m l with active := false, iter := 0 }) ∧
    ∀ j, j < 4 → j ≠ l → getLoop (advance at_ m) j = getLoop m j := by
  rw [advance_loop at_ hl ends lowest]
  refine ⟨fun left => ?_, fun done => ?_, fun j hj other => ?_⟩
  · rw [if_neg left]
    exact ⟨rfl, rfl, (getLoop_congr rfl rfl rfl rfl l).trans ((getLoop_setLoop m _ hl hl).trans (if_pos rfl))⟩
  · rw [if_pos done]
    exact ⟨rfl, (getLoop_congr rfl rfl rfl rfl l).trans ((getLoop_setLoop m _ hl hl).trans (if_pos rfl))⟩
  · split <;> exact (getLoop_congr rfl rfl rfl rfl j).trans ((getLoop_setLoop m _ hl hj).trans (if_neg other))

theorem pc_branchTo (m : Team) (a : BitVec 24) : (branchTo m a).pc = a := rfl

theorem getLsbD_teamBit (u v : Fin 4) : (1#4 <<< u.val).getLsbD v.val = decide (v = u) := by
  revert u v
  decide

/-- Bit v of a mask to which the members of a list that satisfy f are added. -/
theorem getLsbD_foldl_or (f : Fin 4 → Bool) (v : Fin 4) (l : List (Fin 4)) (m : BitVec 4) :
    (l.foldl (fun m u => if f u then m ||| (1#4 <<< u.val) else m) m).getLsbD v.val = (m.getLsbD v.val || decide (v ∈ l) && f v) := by
  induction l generalizing m with
  | nil => simp
  | cons u l ih =>
    rw [List.foldl_cons, ih]
    by_cases here : v = u
    · subst here
      cases f v <;> simp
    · cases f u <;> simp only [Bool.false_eq_true, if_true, if_false, BitVec.getLsbD_or, getLsbD_teamBit, here, decide_false,
        Bool.or_false, List.mem_cons, false_or]

/-- A Team that yields waits for every other Team that could go now. -/
theorem getLsbD_readyOthers (s : State) (p : Nat) (t v : Fin 4) :
    (readyOthers s p t).getLsbD v.val =
      (decide (v ≠ t) && !onHold s (getTeam (stall s p).live v) && canAct (verdict s p v)) := by
  have every : v ∈ ([0, 1, 2, 3] : List (Fin 4)) := by
    revert v
    decide
  rw [readyOthers, getLsbD_foldl_or, decide_eq_true every, Bool.true_and]
  simp

theorem sequenced_teamYield (s : State) (p : Nat) (t : Fin 4) :
    let s1 := noteFirst s (runningNo s)
    let after := goOn s.ledger (stall s p).live t
    Sequenced s (modTeam (issued s1 p t) p t fun m => { m with yield := readyOthers s1 p t }) p t
      (setTeam after t { getTeam after t with yield := readyOthers s1 p t }) := by
  refine ⟨?_, fun q hq => ?_, rfl⟩
  · simp only [modTeam, issued, stall_modStall_same, stall_noteFirst, noteFirst_ledger, goOn, readyTeam]
  · simp only [modTeam, issued, stall_modStall_other _ hq, stall_noteFirst]

theorem sequenced_haltTeam (s : State) (p : Nat) (t : Fin 4) :
    let x := (stall s p).live
    Sequenced s (haltTeam (noteFirst s (runningNo s)) p t) p t
      (setTeam (turnPassed x t) t
        (mapLoops { readyTeam x t with st := .finished } fun l => { l with active := false, iter := 0 })) := by
  refine ⟨?_, fun q hq => ?_, rfl⟩
  · simp only [haltTeam, stall_modStall_same, stall_noteFirst, readyTeam]
  · simp only [haltTeam, stall_modStall_other _ hq, stall_noteFirst]

theorem lt_three_cases {k : Nat} (h : k < 3) : k = 0 ∨ k = 1 ∨ k = 2 := by omega

/-- Settles O11: the register writes are `scalarOp`s; what follows an instruction is read from `advance` and `branchTo`. -/
theorem teamControlChangesOwnTeam : Obligations.TeamControlChangesOwnTeam := by
  refine ⟨fun s p t => ⟨fun h form => ⟨_, rfl, ?_⟩, fun h => ⟨_, rfl, sequenced_scalarOp _ h⟩, fun h form => ⟨_, rfl, ?_⟩,
      fun h => ⟨_, rfl, sequenced_scalarOp _ h⟩⟩,
    fun s p t => ⟨fun h => ⟨_, rfl, readyOthers (noteFirst s (runningNo s)) p t, ?_, fun v => ?_⟩, fun h => ⟨_, rfl, ?_⟩⟩,
    fun at_ m plain => advance_plain at_ plain, fun at_ m l hl active last lowest => advance_level at_ hl ⟨active, last⟩ lowest,
    fun m a l hl => ⟨pc_branchTo m a, ?_⟩⟩
  · refine (congrArg (Sequenced s _ p t) ?_).mp (sequenced_scalarOp _ h)
    obtain form | form | form := lt_three_cases form <;> simp only [form] <;> rfl
  · refine (congrArg (Sequenced s _ p t) ?_).mp (sequenced_scalarOp _ h)
    unfold modLoop
    obtain form | form | form := lt_three_cases form <;> simp only [form] <;> rfl
  · rw [issueCore_of_issues _ h]
    exact sequenced_teamYield s p t
  · rw [getLsbD_readyOthers, stall_noteFirst]
  · rw [issueCore_of_issues _ h]
    exact sequenced_haltTeam s p t
  · rw [getLoop_branchTo, afterBranch_eq]
    simp only [not_and_or, Nat.not_le]

/-! ### Branches and LOOP.DO (R116, R126) -/

theorem sequenced_branch (s : State) (p : Nat) (t : Fin 4) (taken : Bool) (a : BitVec 24) :
    Sequenced s (branch (noteFirst s (runningNo s)) p t taken a) p t
      (if taken = true then goTo s.ledger (stall s p).live t a else goOn s.ledger (stall s p).live t) := by
  cases taken with
  | true => exact sequenced_branch_taken s p t a
  | false =>
    refine ⟨?_, fun q hq => ?_, rfl⟩
    · simp only [branch, issued, stall_modStall_same, stall_noteFirst, noteFirst_ledger, goOn, readyTeam, Bool.false_eq_true, if_false]
    · simp only [branch, issued, stall_modStall_other _ hq, stall_noteFirst, Bool.false_eq_true, if_false]

/-- Settles O12: every branch goes through `branch`, and LOOP.DO with trips to make is a write of its level. -/
theorem branchesAndLoopsGoOn : Obligations.BranchesAndLoopsGoOn := by
  refine ⟨fun s p t => ⟨fun h => ⟨_, rfl, ?_⟩, fun h => ⟨_, rfl, ?_⟩, fun h => ⟨_, rfl, ?_⟩⟩,
    fun s p t => ⟨fun h noTrips => ⟨_, rfl, ?_⟩, fun h trips => ⟨_, rfl, ?_⟩⟩⟩
  · rw [issueCore_of_issues _ h]
    exact sequenced_branch_taken s p t _
  · rw [issueCore_of_issues _ h, stall_noteFirst]
    exact sequenced_branch s p t _ _
  · rw [issueCore_of_issues _ h, stall_noteFirst, flagOf, toNat_flagField]
    refine (congrArg (Sequenced s _ p t) ?_).mp (sequenced_branch s p t _ _)
    simp only [beq_iff_eq, targetOf]
  · have none_ : tripCount (stall s p).live t (headOfTeam s p t) = 0 := noTrips
    rw [issueCore_of_issues _ h, stall_noteFirst, if_pos none_]
    exact sequenced_branch_taken s p t _
  · have some_ : tripCount (stall s p).live t (headOfTeam s p t) ≠ 0 := trips
    rw [issueCore_of_issues _ h, stall_noteFirst, if_neg some_]
    refine ⟨?_, fun q hq => ?_, rfl⟩
    · simp only [issued, modLive, stall_modStall_same, stall_noteFirst, modStall_ledger, noteFirst_ledger, goOn, readyTeam]
      rfl
    · simp only [issued, modLive, stall_modStall_other _ hq, stall_noteFirst]

end Sys2Proof.Machine
end

section
/-!
PROOFS. Barriers, fences and the handle instructions (R30, R58, R59, R93, R283, R284, R287).
-/

namespace Sys2Proof.Machine

/-! ### Barriers (R283, R284, R287) -/

/-- Reading a table after a change at one key. -/
theorem nget_nmod {α : Type} [DecidableEq α] (d : α) (m : NMap α) (k j : Nat) (f : α → α) :
    nget d (nmod d m k f) j = if j = k then f (nget d m j) else nget d m j := by
  by_cases h : j = k
  · rw [if_pos h, h, nget_nmod_same]
  · rw [if_neg h, nget_nmod_other d m h]

/-- A barrier of a Team that has arrived (R283). -/
def arrived (s : State) (t : Fin 4) (b : Bar) : Bar := { b with lsense := !b.lsense, opener := some t, bound := some s.msgSeq }

/-- What a Team that goes on does to its stall, wherever the rest of the state stands. -/
theorem stall_issued_same (s : State) (p : Nat) (t : Fin 4) :
    stall (issued s p t) p = { stall s p with lastTeam := t, live := goOn s.ledger (stall s p).live t } := by
  simp only [issued, stall_modStall_same, goOn, readyTeam]

theorem stall_issued_other (s : State) (p : Nat) (t : Fin 4) {q : Nat} (h : q ≠ p) : stall (issued s p t) q = stall s q :=
  stall_modStall_other _ h ..

theorem sequenced_arriveBar (s : State) (p : Nat) (t : Fin 4) (k : Nat) :
    Sequenced s (issued (arriveBar (noteFirst s (runningNo s)) p t k) p t) p t
      (goOn s.ledger (modBar (stall s p).live k (arrived s t)) t) := by
  refine ⟨?_, fun q hq => ?_, rfl⟩
  · rw [stall_issued_same]
    simp [arriveBar, modLive]
    rfl
  · rw [stall_issued_other _ _ _ hq]
    simp [arriveBar, modLive, stall_modStall_other _ hq]

/-- A change of one stall that leaves its live context leaves every stall's. -/
theorem live_modStall {f : Stall → Stall} (s : State) (p q : Nat) (h : ∀ x, (f x).live = x.live) :
    (stall (modStall s p f) q).live = (stall s q).live := by
  by_cases hq : q = p
  · subst hq
    rw [stall_modStall_same, h]
  · rw [stall_modStall_other _ hq]

theorem live_cacheHandle (s : State) (p c h q : Nat) : (stall (cacheHandle s p c h) q).live = (stall s q).live := by
  unfold cacheHandle
  refine live_modStall _ _ _ fun x => ?_
  dsimp only
  split <;> rfl

theorem live_poisonLocal (s : State) (p c h q : Nat) : (stall (poisonLocal s p c h) q).live = (stall s q).live := by
  have asked : (stall (if (cached s p h).isSome then s else cacheHandle s p c h) q).live = (stall s q).live := by
    split
    · rfl
    · exact live_cacheHandle ..
  unfold poisonLocal
  dsimp only
  generalize (if (cached s p h).isSome then s else cacheHandle s p c h) = s1 at *
  split
  · exact (live_modStall _ _ _ (by intro; rfl)).trans asked
  · rw [stall_modCtx, asked]

theorem live_poisonDest (s : State) (p c q : Nat) (w : W128) : (stall (poisonDest s p c w) q).live = (stall s q).live := by
  unfold poisonDest
  dsimp only
  split
  · exact live_modStall _ _ _ (by intro; rfl)
  · split
    · rfl
    · exact live_poisonLocal ..

theorem live_modTeam_same (s : State) (p : Nat) (t : Fin 4) (f : Team → Team) :
    getTeam (stall (modTeam s p t f) p).live t = f (getTeam (stall s p).live t) := by
  rw [modTeam, stall_modStall_same, getTeam_setTeam_same]

/-- A Team that faults is halted where it stands (R54, R86). -/
theorem getTeam_teamFault (s : State) (p c : Nat) (t : Fin 4) (w : W128) (code handle : Nat) :
    getTeam (stall (teamFault s p c t w code handle) p).live t = { getTeam (stall s p).live t with st := .halted, cause := 0 } := by
  have poisoned : (stall (if opInfo (opcodeOf w) = none then s else poisonDest s p c w) p).live = (stall s p).live := by
    split
    · rfl
    · exact live_poisonDest ..
  unfold teamFault
  dsimp only
  refine (congrArg (getTeam · t) (live_modStall _ _ _ (by intro; rfl))).trans ?_
  split <;> simp only [stall_trigger, stall_explain, stall_stallFault, stall_noteHalt, live_modTeam_same, poisoned]

/-! ### Fences (R30, R127) -/

theorem fenceDue_live {s : State} {c : Nat} (h : replaying s c = false) (x : Nat) : fenceDue s c x = x := by
  rw [fenceDue, h, if_neg Bool.false_ne_true]

theorem opened_openEpoch (s : State) (c n : Nat) : (recOf (openEpoch s c n) c).opened.isSome = true := by
  unfold openEpoch
  dsimp only
  split
  · assumption
  · rw [recOf_dbEpoch, recOf_modRec_same]
    rfl

theorem opened_ensureEpoch (s : State) {c : Nat} (h : c < 64) : (recOf (ensureEpoch s c) c).opened.isSome = true := by
  rw [ensureEpoch, if_pos h]
  exact opened_openEpoch s c 0

theorem runningNo_lt {s : State} (h : runningNo s ≠ 64) : runningNo s < 64 := by
  unfold runningNo at *
  split
  · exact Fin.isLt _
  · next none_ => rw [none_] at h; exact absurd rfl h

/-- A Team of no running context has no turn. -/
theorem runningNo_lt_of_go {s : State} {p : Nat} {t : Fin 4} (h : verdict s p t = .go) : runningNo s < 64 := by
  refine runningNo_lt fun none_ => ?_
  rw [verdict, none_] at h
  simp at h

theorem runningNo_lt_of_teamRuns {s : State} {p : Nat} (h : teamRuns s p = true) : runningNo s < 64 := by
  simp only [teamRuns, Bool.and_eq_true, decide_eq_true_eq] at h
  tauto

theorem replaying_congr {s u : State} (h : u.csr = s.csr) (c : Nat) : replaying u c = replaying s c := by
  unfold replaying csrBit csrField csrGet
  rw [h]

theorem fenceTarget_eq (m : Team) (w : W128) :
    fenceTarget m w = (if wf_ w 8 8 = 1 then m.tb else 0) + BitVec.ofNat 64 (wf_ w 79 16) := by
  unfold fenceTarget
  split <;> simp

/-- A Team that goes on in a state whose stalls and Ledger are those of s, with the epoch open (R400). -/
theorem passed_fence {s v : State} {c : Nat} (p : Nat) (t : Fin 4) (stalls : ∀ q, stall v q = stall s q) (ledger : v.ledger = s.ledger)
    (opened : (recOf v c).opened.isSome = true) :
    stall (issued v p t) p = { stall s p with lastTeam := t, live := goOn s.ledger (stall s p).live t } ∧
      (∀ q, q ≠ p → stall (issued v p t) q = stall s q) ∧ (recOf (issued v p t) c).opened.isSome = true := by
  refine ⟨?_, fun q hq => ?_, ?_⟩
  · rw [stall_issued_same, stalls, ledger]
  · rw [stall_issued_other _ _ _ hq, stalls]
  · rw [issued, recOf_modStall, opened]

theorem now_noteFirst (s : State) (c : Nat) : now (noteFirst s c) = s.ledger.toNat := congrArg BitVec.toNat (noteFirst_ledger s c)

/-- Settles O14: what BAR.ARRIVE does by the opener it finds, and a fence by whether its target has come. -/
theorem barriersAndFencesHoldTeams : Obligations.BarriersAndFencesHoldTeams := by
  refine ⟨fun s p t => ⟨fun h closed => ?_, fun h => ?_, fun h own => ?_, fun v h other ne => ?_⟩,
    fun s p t => ⟨fun h live ahead => ?_, fun h live come => ?_, fun runs clock fenced live come => ?_⟩⟩
  · refine ⟨_, rfl, (modBar (stall s p).live (barKey (headOfTeam s p t)) (arrived s t)).bars, ?_, fun j => nget_nmod ..⟩
    rw [issueCore_of_issues _ h, stall_noteFirst, barKey, closed]
    exact sequenced_arriveBar ..
  · exact ⟨_, rfl, _, sequenced_scalarOp _ h, fun j => nget_nmod ..⟩
  · refine ⟨_, rfl, ?_⟩
    rw [issueCore_of_issues _ h, stall_noteFirst, barKey, own]
    simp [stall_issued_same]
  · refine ⟨_, rfl, ?_⟩
    rw [issueCore_of_issues _ h, stall_noteFirst, barKey, other]
    simp only [if_neg ne, getTeam_teamFault]
    simp
  · have due := fenceDue_live (s := noteFirst s (runningNo s)) (by rw [replaying_congr (noteFirst_csr ..), live])
    refine ⟨_, rfl, ?_⟩
    rw [issueCore_of_issues _ h, stall_noteFirst, fenceTarget_eq]
    dsimp only
    rw [due, now_noteFirst, if_pos ahead]
    refine ⟨rfl, fun q hq => ?_, ?_⟩
    · rw [stall_modStall_other _ hq, stall_noteFirst]
    · rw [stall_modStall_same, stall_noteFirst]
  · have due := fenceDue_live (s := noteFirst s (runningNo s)) (by rw [replaying_congr (noteFirst_csr ..), live])
    have opened := opened_ensureEpoch (noteFirst s (runningNo s)) (runningNo_lt_of_go h.2.2)
    refine ⟨_, rfl, ?_⟩
    rw [issueCore_of_issues _ h, stall_noteFirst, fenceTarget_eq]
    dsimp only
    rw [due, now_noteFirst, if_neg (Nat.not_lt.2 come)]
    generalize BitVec.toNat ((if wf_ (headOfTeam s p t) 8 8 = 1 then _ else _) + _) = due
    refine passed_fence p t (fun q => ?_) ?_ ?_
    · split <;> simp
    · split <;> simp
    · split
      · rw [recOf_lateFence, opened]
      · exact opened
  · refine ⟨_, rfl, ?_⟩
    have passed : now s < fenceDue s (runningNo s) (getTeam (stall s p).live t).fence.toNat ↔ False := by
      rw [fenceDue_live live, iff_false, Nat.not_lt]
      exact come
    simp only [runs, clock, fenced, passed, Bool.not_true, Bool.or_false, ne_eq, not_true, decide_false, Bool.false_eq_true, if_false]
    exact passed_fence p t (fun q => stall_ensureEpoch ..) (ensureEpoch_ledger ..)
      (opened_ensureEpoch s (runningNo_lt_of_teamRuns runs))

/-! ### Records (R47 to R49) -/

/-- The fields of a record that is made of its fields. -/
theorem toNat_mkRecord (scale : Nat) (prov : Bool) (chain level epoch tag : Nat) :
    (mkRecord scale prov chain level epoch tag).toNat =
      tag % 2 ^ 64 + epoch % 2 ^ 32 * 2 ^ 64 + level % 64 * 2 ^ 96 + chain % 16 * 2 ^ 102 +
        (if prov then 2 ^ 107 else 0) + scale % 2 ^ 20 * 2 ^ 108 := by
  rw [mkRecord, BitVec.toNat_ofNat, Nat.mod_eq_of_lt]
  split <;> omega

theorem recLevel_mkRecord (scale : Nat) (prov : Bool) (chain level epoch tag : Nat) :
    recLevel (mkRecord scale prov chain level epoch tag) = level % 64 := by
  simp only [recLevel, bitsOf, toNat_mkRecord]
  split <;> omega

theorem recChain_mkRecord (scale : Nat) (prov : Bool) (chain level epoch tag : Nat) :
    recChain (mkRecord scale prov chain level epoch tag) = chain % 16 := by
  simp only [recChain, bitsOf, toNat_mkRecord]
  split <;> omega

theorem recScale_mkRecord (scale : Nat) (prov : Bool) (chain level epoch tag : Nat) :
    recScale (mkRecord scale prov chain level epoch tag) = scale % 2 ^ 20 := by
  simp only [recScale, bitsOf, toNat_mkRecord]
  split <;> omega

theorem recEpoch_mkRecord (scale : Nat) (prov : Bool) (chain level epoch tag : Nat) :
    recEpoch (mkRecord scale prov chain level epoch tag) = epoch % 2 ^ 32 := by
  simp only [recEpoch, bitsOf, toNat_mkRecord]
  split <;> omega

theorem recTag_mkRecord (scale : Nat) (prov : Bool) (chain level epoch tag : Nat) :
    recTag (mkRecord scale prov chain level epoch tag) = tag % 2 ^ 64 := by
  simp only [recTag, bitsOf, toNat_mkRecord]
  split <;> omega

theorem recProv_mkRecord (scale : Nat) (prov : Bool) (chain level epoch tag : Nat) :
    recProv (mkRecord scale prov chain level epoch tag) = prov := by
  simp only [recProv, bitsOf, toNat_mkRecord]
  cases prov
  · rw [if_neg Bool.false_ne_true, decide_eq_false_iff_not]
    omega
  · rw [if_pos rfl, decide_eq_true_iff]
    omega

/-! ### The handle cache (R58, R59, R93) -/

/-- An epoch that is open is left as it is (R400). -/
theorem ensureEpoch_opened {s : State} {c n : Nat} (h : (recOf s c).opened = some n) : ensureEpoch s c = s := by
  have is_open : (recOf s c).opened.isSome = true := by rw [h]; rfl
  unfold ensureEpoch openEpoch
  split
  · exact if_pos is_open
  · rfl

theorem cached_congr {s u : State} {p : Nat} (h : (stall u p).hcache = (stall s p).hcache) (j : Nat) :
    cached u p j = cached s p j := by
  rw [cached, h, cached]

theorem cached_modCached (s : State) (p h j : Nat) (f : HEntry → HEntry) :
    cached (modCached s p h f) p j = if j = h then (cached s p j).map f else cached s p j := by
  unfold cached modCached
  rw [stall_modStall_same]
  exact nget_nmod ..

theorem cached_issued (s : State) (p : Nat) (t : Fin 4) (j : Nat) : cached (issued s p t) p j = cached s p j :=
  cached_congr (by rw [stall_issued_same]) j

theorem cached_noteFirst (s : State) (c p j : Nat) : cached (noteFirst s c) p j = cached s p j :=
  cached_congr (congrArg Stall.hcache (stall_noteFirst s c p)) j

/-- The state after HDL.SET in an open epoch, before the Team goes on (R58, R59). -/
def recordSet (s : State) (p : Nat) (w : W128) (n : Nat) : State :=
  modCached (modStall s p fun x => { x with useNext := x.useNext + 1 }) p (wf_ w 19 8) fun e =>
    { e with record := hdlRecord e.record w n, pinned := true, use := (stall s p).useNext }

theorem cached_recordSet (s : State) (p : Nat) (w : W128) (n j : Nat) :
    cached (recordSet s p w n) p j = if j = wf_ w 19 8 then (cached s p j).map fun e =>
      { e with record := hdlRecord e.record w n, pinned := true, use := (stall s p).useNext } else cached s p j := by
  have bumped : cached (modStall s p fun x => { x with useNext := x.useNext + 1 }) p j = cached s p j :=
    cached_congr (by rw [stall_modStall_same]) j
  rw [recordSet, cached_modCached, bumped]

theorem live_recordSet (s : State) (p : Nat) (w : W128) (n : Nat) : (stall (recordSet s p w n) p).live = (stall s p).live := by
  simp only [recordSet, modCached, stall_modStall_same]

theorem stall_recordSet_other (s : State) {p q : Nat} (h : q ≠ p) (w : W128) (n : Nat) : stall (recordSet s p w n) q = stall s q := by
  simp only [recordSet, modCached, stall_modStall_other _ h]

theorem currentEpoch_opened {s : State} {c n : Nat} (h : (recOf s c).opened = some n) : currentEpoch s c = n := by
  rw [currentEpoch, h]
  rfl

/-- The record of HDL.SET, field by field (R58). -/
theorem hdlRecord_fields (r w : W128) (n : Nat) :
    let v := hdlRecord r w n
    recLevel v = wf_ w 25 20 ∧ recChain v = wf_ w 29 26 ∧ recScale v = wf_ w 51 32 ∧ recEpoch v = n % 2 ^ 32 ∧
      recTag v = recTag r ∧ recProv v = recProv r := by
  have level := wf_lt w 25 20
  have chain := wf_lt w 29 26
  have scale := wf_lt w 51 32
  have tag : recTag r < 2 ^ 64 := Nat.mod_lt _ (by decide)
  simp only [hdlRecord, recLevel_mkRecord, recChain_mkRecord, recScale_mkRecord, recEpoch_mkRecord, recTag_mkRecord, recProv_mkRecord]
  exact ⟨Nat.mod_eq_of_lt level, Nat.mod_eq_of_lt chain, Nat.mod_eq_of_lt scale, trivial, Nat.mod_eq_of_lt tag, trivial⟩

theorem sequenced_issued (s : State) (p : Nat) (t : Fin 4) :
    Sequenced s (issued (noteFirst s (runningNo s)) p t) p t (goOn s.ledger (stall s p).live t) := by
  refine ⟨?_, fun q hq => ?_, rfl⟩
  · rw [stall_issued_same, stall_noteFirst, noteFirst_ledger]
  · rw [stall_issued_other _ _ _ hq, stall_noteFirst]

/-- A fetch of the handle is on its way after one is asked for. -/
theorem fetch_on_the_way (s : State) (p c h : Nat) : ∃ m ∈ (startFetch s p c h).yard, m.dst = .stall p ∧ m.body = .handle h := by
  unfold startFetch
  split
  · next found =>
    simpa using found
  · rw [sendBridle, yardCount_yard]
    exact ⟨⟨s.msgSeq, .yardmaster, .stall p, .bridleway, c, .handle h⟩, List.mem_append_right _ (List.mem_singleton_self _), rfl, rfl⟩

/-- Settles O15: HDL.SET writes `hdlRecord` into the cache entry, HDL.FETCH asks for a handle that is missing. -/
theorem handleInstructionsSetAndFetch : Obligations.HandleInstructionsSetAndFetch := by
  refine fun s p t => ⟨fun e n h held opened => ?_, fun h held => ?_, fun h missing => ?_⟩
  · have opened1 : (recOf (noteFirst s (runningNo s)) (runningNo s)).opened = some n := by rw [recOf_noteFirst, opened]
    refine ⟨issued (recordSet (noteFirst s (runningNo s)) p (headOfTeam s p t) n) p t, congrArg Host.Outcome.next ?_,
      { e with record := hdlRecord e.record (headOfTeam s p t) n, pinned := true, use := (stall s p).useNext }, ?_⟩
    · rw [issueOp_of_issues _ h, ensureEpoch_opened opened1]
      dsimp only
      rw [currentEpoch_opened opened1]
      rfl
    obtain ⟨level, chain, scale, epoch, tag, prov⟩ := hdlRecord_fields e.record (headOfTeam s p t) n
    refine ⟨?_, rfl, rfl, rfl, level, chain, scale, epoch, tag, prov, ?_, fun j other => ?_, fun q hq => ?_⟩
    · rw [cached_issued, cached_recordSet, if_pos rfl, cached_noteFirst, held, stall_noteFirst]
      rfl
    · rw [stall_issued_same, live_recordSet, stall_noteFirst]
      rw [recordSet, modCached, modStall_ledger, modStall_ledger, noteFirst_ledger]
    · rw [cached_issued, cached_recordSet, if_neg other, cached_noteFirst]
    · rw [stall_issued_other _ _ _ hq, stall_recordSet_other _ hq, stall_noteFirst]
  · refine ⟨_, rfl, ?_⟩
    rw [issueOp_of_issues _ h, cached_noteFirst, if_pos held]
    exact sequenced_issued s p t
  · refine ⟨_, rfl, ?_⟩
    rw [issueOp_of_issues _ h, cached_noteFirst, missing, Option.isSome_none, if_neg Bool.false_ne_true]
    refine ⟨?_, ?_, fun q hq => ?_⟩
    · rw [issued, modStall_yard]
      exact fetch_on_the_way ..
    · rw [stall_issued_same, stall_startFetch, stall_noteFirst, startFetch_ledger, noteFirst_ledger]
    · rw [stall_issued_other _ _ _ hq, stall_startFetch, stall_noteFirst]

end Sys2Proof.Machine
end

section
/-!
PROOFS. What a fault reports and where it is recorded; Teams that block, halt or wait too long (R76, R86, R87, R290).
-/

namespace Sys2Proof.Machine

/-! ### The registers that a report leaves alone -/

/-- An offset outside the registers that reports count in: those of the Daybook and of the link's 48 ports. -/
def OffReports (off : Nat) : Prop :=
  off ≠ 0x0D00000 ∧ off ≠ 0x0D00008 ∧ off ≠ 0x0D00018 ∧ (off < 0x0700000 ∨ 0x0740000 ≤ off)

theorem csrGet_bumpBy_other (s : State) {off o w b n : Nat} (ho : off ≠ o) (hw : off ≠ w) :
    csrGet (bumpBy s o w b n) off = csrGet s off := by
  unfold bumpBy
  split
  · rfl
  · dsimp only
    split
    · exact csrGet_csrPut_other s ho _
    · rw [csrGet_csrSetField_other _ hw, csrGet_csrPut_other s ho]

theorem csrGet_bump_other (s : State) {off o w b : Nat} (ho : off ≠ o) (hw : off ≠ w) :
    csrGet (bump s o w b) off = csrGet s off := csrGet_bumpBy_other s ho hw

theorem csrGet_rlCount (s : State) {off n : Nat} (h : off < 0x0700000 ∨ 0x0740000 ≤ off) (hn : n < 48) {i : Nat} (hi : i < 8) (k : Nat) :
    csrGet (rlCount s n i k) off = csrGet s off :=
  csrGet_bumpBy_other s (by omega) (by omega)

theorem csrGet_sendOne {s u : State} {n off : Nat} (h : off < 0x0700000 ∨ 0x0740000 ≤ off) (hn : n < 48) (sent : sendOne s n = some u) :
    csrGet u off = csrGet s off := by
  unfold sendOne at sent
  dsimp only at sent
  split at sent
  · exact absurd sent (by simp)
  · split at sent
    · exact absurd sent (by simp)
    · obtain rfl := Option.some.inj sent
      rw [csrGet_rlCount _ h hn (by decide), csrGet_congr (wireFlit_csr ..), csrGet_congr (modPort_csr ..)]

theorem csrGet_pump {off n : Nat} (h : off < 0x0700000 ∨ 0x0740000 ≤ off) (hn : n < 48) (k : Nat) (s : State) :
    csrGet (pump k s n) off = csrGet s off := by
  induction k generalizing s with
  | zero => rfl
  | succ k ih =>
    unfold pump
    split
    · next sent => rw [ih, csrGet_sendOne h hn sent]
    · rfl

theorem lt_of_routePort {s : State} {dst src n : Nat} (h : routePort s dst src = some n) : n < 48 := by
  have up {mask m : Nat} (hm : m ∈ upPorts s mask) : m < 48 := List.mem_range.1 (List.mem_of_mem_filter hm)
  have among {l : List Nat} (hl : ∀ m ∈ l, m < 48) (hn : (if l = [] then none else l[(src + dst) % l.length]?) = some n) : n < 48 := by
    split at hn
    · exact absurd hn (by simp)
    · exact hl n (List.mem_of_getElem? hn)
  refine among ?_ h
  split
  · exact fun m => up
  · exact fun m => up

theorem csrGet_sendFlit (s : State) {off : Nat} (h : off < 0x0700000 ∨ 0x0740000 ≤ off) {via : Nat} (hv : via < 48) (b : List Byte) :
    csrGet (sendFlit s via b) off = csrGet s off := by
  unfold sendFlit
  split
  · exact csrGet_congr (by rfl) off
  · split
    · exact csrGet_rlCount s h hv (by decide) 1
    · next n route =>
      rw [pumpPort, csrGet_pump h (lt_of_routePort route), csrGet_congr (modPort_csr ..)]

theorem csrGet_dbStore (s : State) {off : Nat} (h : off ≠ 0x0D00000) (type c : Nat) (payload : List Byte) :
    csrGet (dbStore s type c payload) off = csrGet s off := by
  unfold dbStore
  dsimp only
  exact (csrGet_congr (by rfl) off).trans ((csrGet_csrPut_other _ h _).trans (csrGet_congr (by rfl) off))

theorem csrGet_dbAppend (s : State) {off : Nat} (h : OffReports off) (type c : Nat) (payload : List Byte) :
    csrGet (dbAppend s type c payload) off = csrGet s off := by
  obtain ⟨count, wrap, lost, _⟩ := h
  unfold dbAppend
  split
  · exact (csrGet_congr (by rfl) off).trans (csrGet_bump_other s wrap lost)
  · dsimp only
    rw [csrGet_dbStore _ count]
    split
    · rfl
    · exact (csrGet_congr (by rfl) off).trans (csrGet_dbStore s count ..)

theorem csrGet_emitRecord (s : State) {off : Nat} (h : off < 0x0700000 ∨ 0x0740000 ≤ off) (r : List Byte) (irq : Bool) :
    csrGet (emitRecord s r irq) off = csrGet s off := by
  unfold emitRecord
  split
  · split
    · exact csrGet_congr (ghDeliver_csr ..) off
    · rfl
  · exact csrGet_sendFlit s h (by decide) _

theorem csrGet_reportFault (s : State) {off : Nat} (h : OffReports off) (source code detail c lid team handle : Nat) :
    csrGet (reportFault s source code detail c lid team handle) off = csrGet s off := by
  unfold reportFault
  dsimp only
  rw [csrGet_emitRecord _ h.2.2.2, dbFault, csrGet_dbAppend _ h, csrGet_congr (reportOstler_csr ..)]

/-- A first-event register that is not VALID takes the event (R8). -/
theorem csrGet_recordFirst (s : State) {off v : Nat} (h : csrBit s off 63 = false) :
    csrGet (recordFirst s off v) off = BitVec.ofNat 64 (putBits (putBits v 63 63 1) 62 62 0) := by
  rw [recordFirst, h, if_neg Bool.false_ne_true, csrGet_csrPut_same]

theorem firstEvent_fields (v : Nat) :
    let x := (BitVec.ofNat 64 (putBits (putBits v 63 63 1) 62 62 0)).toNat
    bitsOf x 15 0 = v % 2 ^ 16 ∧ bitsOf x 63 63 = 1 := by
  simp only [BitVec.toNat_ofNat, putBits, bitsOf]
  omega

/-- STALL_FAULT of a stall is no register that counts faults or reports. -/
theorem offReports_stallCsr (p : Nat) {k : Nat} : OffReports (stallCsr p k) := by
  unfold OffReports stallCsr
  omega

theorem csrGet_yardCount (s : State) {off i : Nat} (h : 0x6000 ≤ off) (hi : i < 32) (n : Nat) :
    csrGet (yardCount s i n) off = csrGet s off :=
  csrGet_bumpBy_other s (by omega) (by omega)

theorem csrGet_stallFault_first (s : State) (p c : Nat) (t : Fin 4) (pc handle action code : Nat)
    (h : csrBit s (stallCsr p 0xC0) 63 = false) :
    csrGet (stallFault s p c t pc handle action code) (stallCsr p 0xC0) = BitVec.ofNat 64 (putBits (putBits
      (t.val * 2 ^ 60 + pc % 2 ^ 24 * 2 ^ 36 + handle % 4096 * 2 ^ 24 + action % 8 * 2 ^ 20 + code) 63 63 1) 62 62 0) := by
  have above : 0x6000 ≤ stallCsr p 0xC0 := by
    unfold stallCsr
    omega
  exact (csrGet_reportFault _ (offReports_stallCsr p) ..).trans ((csrGet_yardCount _ above (by decide) 1).trans (csrGet_recordFirst s h))

/-- The first fault of a stall stands in STALL_FAULT, with its code (R86). -/
theorem stallFault_first (s : State) (p c : Nat) (t : Fin 4) (pc handle action code : Nat) (hc : code < 2 ^ 16)
    (h : csrBit s (stallCsr p 0xC0) 63 = false) :
    csrField (stallFault s p c t pc handle action code) (stallCsr p 0xC0) 15 0 = code ∧
      csrBit (stallFault s p c t pc handle action code) (stallCsr p 0xC0) 63 = true := by
  unfold csrBit csrField
  rw [csrGet_stallFault_first s p c t pc handle action code h]
  obtain ⟨low, valid⟩ := firstEvent_fields (t.val * 2 ^ 60 + pc % 2 ^ 24 * 2 ^ 36 + handle % 4096 * 2 ^ 24 + action % 8 * 2 ^ 20 + code)
  refine ⟨low.trans ?_, decide_eq_true valid⟩
  omega

/-! ### Faults and blocks (R76, R86, R87) -/

theorem issueCore_of_fault {s : State} {p : Nat} {t : Fin 4} {op code h : Nat} (go : State → W128 → Nat → State)
    (hop : opcodeOf (headOfTeam s p t) = op ∨ op = 0xFE ∧ opInfo (opcodeOf (headOfTeam s p t)) = none)
    (turn : anotherFirst s p t = false) (fault : verdict s p t = .fault code h) :
    issueCore s p t op go = teamFault s p (runningNo s) t (headOfTeam s p t) code h := by
  unfold headOfTeam at *
  unfold issueCore
  have mine : (decide (opcodeOf (headWord (stall s p) (runningNo s) (getTeam (stall s p).live t)) ≠ op) &&
      !(decide (op = 0xFE) && (opInfo (opcodeOf (headWord (stall s p) (runningNo s) (getTeam (stall s p).live t)))).isNone)) = false := by
    obtain same | ⟨halt, none_⟩ := hop
    · simp [same]
    · simp [halt, none_]
  simp only [mine, turn, fault, Bool.false_eq_true, if_false]

theorem issueCore_of_block {s : State} {p : Nat} {t : Fin 4} {op cause : Nat} (go : State → W128 → Nat → State)
    (hop : opcodeOf (headOfTeam s p t) = op) (turn : anotherFirst s p t = false) (block : verdict s p t = .block cause) :
    issueCore s p t op go = modLive (teamBlock s p t cause) p fun y => yieldDone y t := by
  unfold headOfTeam at *
  unfold issueCore
  simp only [hop, turn, block, ne_eq, not_true, decide_false, Bool.false_and, Bool.false_eq_true, if_false]

/-- A report with an explanation is still the report of its fault. -/
theorem mem_explain {s : State} {cause : Nat} {involved : List (Nat × W128)} {source code : Nat} {l : List Report} {r : Report}
    (h : s.reports = l ++ [r]) (hs : r.source = source) (hc : r.code = code) :
    ∃ r ∈ (explain s cause involved).reports, r.source = source ∧ r.code = code := by
  unfold explain
  rw [h, List.getLast?_concat]
  exact ⟨_, List.mem_append_right _ (List.mem_singleton_self _), hs, hc⟩

theorem reports_reportFault (s : State) (source code detail c lid team handle : Nat) :
    (reportFault s source code detail c lid team handle).reports =
      s.reports ++ [{ source := source, code := code, detail := detail, ctx := c, ledger := s.ledger }] := by
  unfold reportFault
  dsimp only
  rw [emitRecord_reports, dbFault_reports]
  rfl

theorem reports_stallFault (s : State) (p c : Nat) (t : Fin 4) (pc handle action code : Nat) :
    (stallFault s p c t pc handle action code).reports = s.reports ++
      [{ source := p, code := code, detail := lidOf s p + 1024 * t.val + 4096 * p, ctx := c, ledger := s.ledger }] := by
  unfold stallFault
  dsimp only
  rw [reports_reportFault, yardCount_reports, recordFirst_reports, yardCount_ledger, recordFirst_ledger]

/-- The first conditions of a verdict: whether the Team has a turn at all, and whether its head is a legal encoding. -/
theorem verdict_head (s : State) (p : Nat) (t : Fin 4) : ∃ (idle : Prop) (_ : Decidable idle) (rest : Verdict), verdict s p t =
    if idle then .none
    else if !legalWord (imageOf s (runningNo s)) (headOfTeam s p t) then .fault 0x0103 (destHandle (headOfTeam s p t)) else rest :=
  ⟨_, _, _, by unfold verdict headOfTeam; with_reducible rfl⟩

/-- A word that is no instruction is an illegal encoding (R81). -/
theorem fault_of_no_instruction {s : State} {p : Nat} {t : Fin 4} {code h : Nat} (hop : opInfo (opcodeOf (headOfTeam s p t)) = none)
    (fault : verdict s p t = .fault code h) : code = 0x0103 := by
  have illegal : legalWord (imageOf s (runningNo s)) (headOfTeam s p t) = false := by
    unfold legalWord
    rw [hop]
  obtain ⟨idle, _, rest, eq⟩ := verdict_head s p t
  rw [eq, illegal, Bool.not_false, if_pos rfl] at fault
  split at fault
  · exact absurd fault (by simp)
  · exact (Verdict.fault.inj fault).1.symm

/-- The fault of a Team whose head is no instruction is recorded and reported. -/
theorem teamFault_no_instruction {s : State} {p : Nat} (c : Nat) (t : Fin 4) {w : W128} (handle : Nat) (hop : opInfo (opcodeOf w) = none)
    (first : csrBit s (stallCsr p 0xC0) 63 = false) :
    let u := teamFault s p c t w 0x0103 handle
    csrField u (stallCsr p 0xC0) 15 0 = 0x0103 ∧ csrBit u (stallCsr p 0xC0) 63 = true ∧ ∃ r ∈ u.reports, r.source = p ∧ r.code = 0x0103 := by
  have first1 : csrBit (noteHalt (modTeam s p t fun m => { m with st := .halted, cause := 0 }) p c t 0x0103) (stallCsr p 0xC0) 63 = false := by
    rwa [csrBit, csrField, csrGet_congr ((noteHalt_csr ..).trans (modTeam_csr ..))]
  obtain ⟨code, valid⟩ := stallFault_first _ p c t (getTeam (stall s p).live t).pc.toNat handle (faultAction (imageOf s c) w) 0x0103
    (by decide) first1
  unfold teamFault
  dsimp only
  rw [if_pos hop, if_neg (by decide : ¬0x0103 = 0x0803)]
  refine ⟨?_, ?_, ?_⟩
  · rwa [csrField, csrGet_congr ((modStall_csr ..).trans (explain_csr ..))]
  · rwa [csrBit, csrField, csrGet_congr ((modStall_csr ..).trans (explain_csr ..))]
  · rw [modStall_reports]
    exact mem_explain (reports_stallFault ..) rfl rfl

/-! ### Timeouts (R290, R291) -/

/-- A Team that halts by a fault of its own wait is where it was, halted; no other stall changes, and the fault is reported. -/
theorem haltFault_effect (s : State) (p c : Nat) (t : Fin 4) (pc handle action code : Nat) :
    let u := haltFault s p c t pc handle action code
    getTeam (stall u p).live t = { getTeam (stall s p).live t with st := .halted, cause := 0 } ∧ (∀ q, q ≠ p → stall u q = stall s q) ∧
      ∃ r ∈ u.reports, r.source = p ∧ r.code = code := by
  refine ⟨?_, fun q hq => ?_, ?_⟩
  · rw [haltFault, stall_stallFault, stall_noteHalt, live_modTeam_same]
  · rw [haltFault, stall_stallFault, stall_noteHalt, modTeam, stall_modStall_other _ hq]
  · rw [haltFault, reports_stallFault]
    exact ⟨_, List.mem_append_right _ (List.mem_singleton_self _), rfl, rfl⟩

/-- A Team that is blocked, after its word has been considered again (R76). -/
theorem getTeam_blocked (s : State) (p : Nat) (t : Fin 4) (cause : Nat) (hc : cause < 32) :
    let m := getTeam (stall (modLive (teamBlock s p t cause) p fun y => yieldDone y t) p).live t
    m.st = .blocked ∧ m.cause = BitVec.ofNat 5 cause ∧ m.pc = (getTeam (stall s p).live t).pc := by
  simp only [modLive, stall_modStall_same, yieldDone, getTeam_mapTeams, teamBlock, live_modTeam_same]
  split
  · next same =>
    rw [Bool.and_eq_true, decide_eq_true_iff, decide_eq_true_iff] at same
    obtain ⟨blocked, same⟩ := same
    exact ⟨blocked, BitVec.eq_of_toNat_eq (by rw [same, BitVec.toNat_ofNat, Nat.mod_eq_of_lt hc]), rfl⟩
  · exact ⟨rfl, rfl, rfl⟩

/-- Settles O16: the fault, the block and the timeout of a Team, each read from the operation that does it. -/
theorem teamsBlockAndHalt : Obligations.TeamsBlockAndHalt := by
  refine ⟨fun s p t code h => ⟨fun hop turn fault first => ?_, fun hop turn block => ?_⟩, fun s p t blocked cause timed late => ?_⟩
  · obtain rfl := fault_of_no_instruction hop fault
    refine ⟨_, rfl, rfl, ?_⟩
    rw [issueCore_of_fault _ (.inr ⟨rfl, hop⟩) turn fault, getTeam_teamFault]
    exact ⟨rfl, teamFault_no_instruction _ t h hop first⟩
  · refine ⟨_, rfl, ?_⟩
    rw [issueOp, issueCore_of_block _ hop turn block]
    obtain ⟨st, why, pc⟩ := getTeam_blocked s p t 1 (by decide)
    exact ⟨st, why, pc, rfl⟩
  · refine ⟨yardCount (haltFault s p (runningNo s) t (getTeam (stall s p).live t).pc.toNat 0xFFF
        (faultAction (imageOf s (runningNo s)) (headOfTeam s p t)) 0x0502) 1 1, congrArg Host.Outcome.next (if_neg ?_), ?_⟩
    · have waited : ¬now s < (getTeam (stall s p).live t).waitFrom.toNat + 1000 * (getTeam (stall s p).live t).timeout.toNat :=
        Nat.not_lt.2 late
      obtain ⟨why, again⟩ | ⟨why, again⟩ := cause
      · simp [blocked, why, again, waited]
        exact timed
      · simp [blocked, why, again, waited]
        exact timed
    · obtain ⟨own, others, reported⟩ := haltFault_effect s p (runningNo s) t (getTeam (stall s p).live t).pc.toNat 0xFFF
        (faultAction (imageOf s (runningNo s)) (headOfTeam s p t)) 0x0502
      refine ⟨?_, fun q hq => ?_, ?_⟩
      · rw [stall_yardCount, own]
      · rw [stall_yardCount, others q hq]
      · rw [yardCount_reports]
        exact reported

end Sys2Proof.Machine
end

section
/-!
PROOFS. The in-flight entry of an engine instruction (R78, R80, R113).
-/

namespace Sys2Proof.Machine

/-! ### What stands of an in-flight entry while its instruction sends (R78, R80) -/

/-- What an in-flight entry keeps from its issue: engine, word, Team, context, place in the code and captured loops. -/
def issuedAs (e : Entry) : Engine × W128 × Fin 4 × Nat × BitVec 24 × List Loop := (e.engine, e.word, e.team, e.ctx, e.pc, e.loops)

/-- From s to u no stall but p has changed, and at p neither the live context nor what the entries keep from their issue. -/
structure EntriesStay (p : Nat) (s u : State) : Prop where
  others : ∀ q, q ≠ p → stall u q = stall s q
  live : (stall u p).live = (stall s p).live
  entries : ∀ n, (entryOf (stall u p) n).map issuedAs = (entryOf (stall s p) n).map issuedAs
  ledger : u.ledger = s.ledger

namespace EntriesStay

variable {p : Nat}

theorem refl (s : State) : EntriesStay p s s := ⟨fun _ _ => rfl, rfl, fun _ => rfl, rfl⟩

theorem trans {s t u : State} (h : EntriesStay p s t) (k : EntriesStay p t u) : EntriesStay p s u :=
  ⟨fun q hq => (k.others q hq).trans (h.others q hq), k.live.trans h.live, fun n => (k.entries n).trans (h.entries n),
    k.ledger.trans h.ledger⟩

theorem of_stalls {s u : State} (h : u.stalls = s.stalls) (l : u.ledger = s.ledger) : EntriesStay p s u := by
  have same (q : Nat) : stall u q = stall s q := stall_congr h q
  exact ⟨fun q _ => same q, by rw [same], fun n => by rw [same], l⟩

/-- After an operation that leaves the stalls. -/
theorem then_stalls {s t u : State} (h : EntriesStay p s t) (k : u.stalls = t.stalls) (l : u.ledger = t.ledger) : EntriesStay p s u :=
  h.trans (of_stalls k l)

theorem ite {c : Prop} [Decidable c] {s a b : State} (ha : EntriesStay p s a) (hb : EntriesStay p s b) :
    EntriesStay p s (if c then a else b) := by
  split
  · exact ha
  · exact hb

theorem foldl {β : Type} {g : State → β → State} (h : ∀ s b, EntriesStay p s (g s b)) (l : List β) (s : State) :
    EntriesStay p s (l.foldl g s) := by
  induction l generalizing s with
  | nil => exact refl s
  | cons b l ih => exact (h s b).trans (ih _)

/-- A change of stall p itself that leaves its live context and its entries. -/
theorem modStall {s : State} {f : Stall → Stall} (live : ∀ x, (f x).live = x.live) (entries : ∀ x, (f x).entries = x.entries) :
    EntriesStay p s (modStall s p f) := by
  refine ⟨fun q hq => stall_modStall_other _ hq .., ?_, fun n => ?_, rfl⟩
  · rw [stall_modStall_same, live]
  · rw [stall_modStall_same, entryOf, entries, entryOf]

theorem modEntry (s : State) (n : Nat) {f : Entry → Entry} (h : ∀ e, issuedAs (f e) = issuedAs e) :
    EntriesStay p s (modEntry s p n f) := by
  refine ⟨fun q hq => stall_modStall_other _ hq .., ?_, fun m => ?_, rfl⟩
  · rw [Machine.modEntry, stall_modStall_same]
  · rw [Machine.modEntry, stall_modStall_same, entryOf, nget_nmod]
    split
    · rw [Option.map_map, entryOf]
      exact congrArg (Option.map · _) (funext h)
    · rfl

theorem then_modStall {s t : State} {f : Stall → Stall} (h : EntriesStay p s t) (live : ∀ x, (f x).live = x.live)
    (entries : ∀ x, (f x).entries = x.entries) : EntriesStay p s (Machine.modStall t p f) := h.trans (modStall live entries)

theorem then_modEntry {s t : State} {n : Nat} {f : Entry → Entry} (h : EntriesStay p s t) (hf : ∀ e, issuedAs (f e) = issuedAs e) :
    EntriesStay p s (Machine.modEntry t p n f) := h.trans (modEntry t n hf)

end EntriesStay

section

variable (p : Nat)

theorem stay_countDrop (s : State) (c n : Nat) : EntriesStay p s (countDrop s p c n) :=
  .modStall (fun _ => rfl) (fun _ => rfl)

theorem stay_writePiece (s : State) (c : Nat) (pc : Piece) (a : Int) (l : Line) (mask : Nat) : EntriesStay p s (writePiece s p c pc a l mask) := by
  unfold writePiece
  exact .ite (.of_stalls (loftWrite_stalls ..) (loftWrite_ledger ..)) (stay_countDrop ..)

theorem stay_noteWrites (s : State) (n : Nat) (pc : Piece) (as_ : List Int) : EntriesStay p s (noteWrites s p n pc as_) :=
  .modEntry s n fun _ => rfl

theorem stay_parityPiece (s : State) (c : Nat) (pc : Piece) (as_ : List Int) : EntriesStay p s (parityPiece s p c pc as_) :=
  .of_stalls (parityPiece_stalls ..) (parityPiece_ledger ..)

theorem stay_carryPoison (s : State) (n : Nat) (w : W128) : EntriesStay p s (carryPoison s p n w) := by
  unfold carryPoison
  exact .ite (.modEntry s n fun _ => rfl) (.refl s)

theorem stay_sendWaiting (s : State) (n : Nat) (dst : Node) (c : Nat) (b : Body) (lines : Nat) (isWrite : Bool) :
    EntriesStay p s (sendWaiting s p n dst c b lines isWrite) := by
  have sent : EntriesStay p s (sendBulk s (.stall p) dst .req c b lines) := .of_stalls (sendBulk_stalls ..) (sendBulk_ledger ..)
  unfold sendWaiting
  dsimp only
  refine .ite (.then_modStall (.then_modEntry sent ?_) ?_ ?_) (.then_modEntry sent ?_) <;> exact fun _ => rfl

theorem stay_recordAbsent (s : State) (e : Entry) : EntriesStay p s (recordAbsent s p e) :=
  .of_stalls (recordAbsent_stalls ..) (recordAbsent_ledger ..)

theorem stay_engineAbsent (s : State) (n : Nat) (e : Entry) : EntriesStay p s (engineAbsent s p n e) :=
  (stay_recordAbsent p s e).trans (.modEntry _ n fun _ => rfl)

theorem stay_landLoad (s : State) (n : Nat) : EntriesStay p s (landLoad s p n) := by
  have landed (c : Nat) (pn : Piece) (its : List (List Nat)) (l : List Nat → Line) (a : List Nat → Int) :
      EntriesStay p s (noteWrites (its.foldl (fun s js => writePiece s p c pn (a js) (l js) 0xFFFF) s) p n pn (its.map a)) :=
    (EntriesStay.foldl (fun s js => stay_writePiece p s ..) its s).trans (stay_noteWrites ..)
  unfold landLoad
  dsimp only
  refine .ite (landed ..) (.ite (.then_stalls ?_ (trigger_stalls ..) (trigger_ledger ..)) ?_)
  · refine .then_stalls (.then_stalls ?_ (stallFault_stalls ..) (stallFault_ledger ..)) (recCount_stalls ..) (recCount_ledger ..)
    refine .then_modEntry ((landed ..).then_stalls (yardCount_stalls ..) (yardCount_ledger ..)) ?_
    exact fun _ => rfl
  · exact (landed ..).then_stalls (yardCount_stalls ..) (yardCount_ledger ..)

theorem stay_sendSlots (s : State) (n c : Nat) (op : GrnOp) (poison : Bool) (ls : List (Nat × Line)) :
    EntriesStay p s (sendSlots s p n c op poison ls) := by
  unfold sendSlots
  dsimp only
  exact .ite (.foldl (fun s b => stay_sendWaiting p s ..) _ s) (.foldl (fun s b => stay_sendWaiting p s ..) _ s)

theorem stay_sendLine (s : State) (n q c k : Nat) (to_ : LineTo) (l : Line) : EntriesStay p s (sendLine s p n q c k to_ l) := by
  unfold sendLine
  dsimp only
  refine .then_modStall (.then_modEntry (.of_stalls (sendBulk_stalls ..) (sendBulk_ledger ..)) ?_) ?_ ?_ <;> exact fun _ => rfl

theorem stay_sendTail (s : State) (n q c : Nat) : EntriesStay p s (sendTail s p n q c) := by
  unfold sendTail
  dsimp only
  refine .ite (.refl s) (.then_modEntry (.of_stalls (send_stalls ..) (send_ledger ..)) ?_)
  exact fun _ => rfl

theorem stay_sentEntry (s : State) (n : Nat) (elsewhere : Bool) : EntriesStay p s (sentEntry s p n elsewhere) :=
  .modEntry s n fun _ => rfl

theorem stay_drvAsk (s : State) (n d : Nat) (l : Line) : EntriesStay p s (drvAsk s p n d l) := by
  unfold drvAsk
  dsimp only
  refine .then_modEntry (.of_stalls (sendBridle_stalls ..) (sendBridle_ledger ..)) ?_
  exact fun _ => rfl

theorem stay_drvAsks (n : Nat) (asks : List (Nat × Line)) (s : State) : EntriesStay p s (drvAsks p n asks s) := by
  induction asks generalizing s with
  | nil => exact .modEntry s n fun _ => rfl
  | cons ask rest ih =>
    unfold drvAsks
    exact .ite ((stay_drvAsk ..).trans (ih _)) (.modEntry s n fun _ => rfl)

end

/-! ### The entry that an instruction takes (R80, R113) -/

/-- From a state s to u an instruction of an engine, with the word of a Team of stall p, has taken the lowest free entry. -/
structure TakesEntry (p : Nat) (t : Fin 4) (eng : Engine) (w : W128) (c : Nat) (s u : State) : Prop where
  taken : ∀ n, freeEntry (stall s p) = some n →
    (entryOf (stall u p) n).map issuedAs = some (eng, w, t, c, (getTeam (stall s p).live t).pc, capture (getTeam (stall s p).live t)) ∧
    (stall u p).live = (stall s p).live ∧ (∀ q, q ≠ p → stall u q = stall s q) ∧ u.ledger = s.ledger

theorem TakesEntry.then_stay {p : Nat} {t : Fin 4} {eng : Engine} {w : W128} {c : Nat} {s u v : State} (h : TakesEntry p t eng w c s u)
    (k : EntriesStay p u v) : TakesEntry p t eng w c s v := by
  refine ⟨fun n free => ?_⟩
  obtain ⟨entry, live, others, ledger⟩ := h.taken n free
  exact ⟨(k.entries n).trans entry, k.live.trans live, fun q hq => (k.others q hq).trans (others q hq), k.ledger.trans ledger⟩

theorem TakesEntry.ite {p : Nat} {t : Fin 4} {eng : Engine} {w : W128} {c : Nat} {cond : Prop} [Decidable cond] {s u v : State}
    (hu : TakesEntry p t eng w c s u) (hv : TakesEntry p t eng w c s v) : TakesEntry p t eng w c s (if cond then u else v) := by
  split
  · exact hu
  · exact hv

theorem takes_takeEntry (p : Nat) (t : Fin 4) (eng : Engine) (w : W128) (c : Nat) (start : Bool) (s : State) :
    TakesEntry p t eng w c s (takeEntry s p t w c eng start).1 := by
  have before (q : Nat) : stall (ensureEpoch s c) q = stall s q := stall_ensureEpoch ..
  have pinned (b : Bool) (u : State) (h : Nat) :
      EntriesStay p u (if b then modCached u p h fun v => { v with pinned := true } else u) :=
    .ite (.modStall (fun _ => rfl) fun _ => rfl) (.refl u)
  unfold takeEntry
  dsimp only
  refine .then_stay ⟨fun n free => ?_⟩ (pinned ..)
  rw [before, free, Option.getD_some]
  refine ⟨?_, ?_, fun q hq => ?_, ?_⟩
  · rw [stall_modStall_same, entryOf, nget_nset_same]
    rfl
  · have live : (stall (ensureEpoch s c) p).live = (stall s p).live := by rw [before]
    rw [stall_modStall_same]
    exact live
  · rw [stall_modStall_other _ hq]
    exact before q
  · exact ensureEpoch_ledger ..

/-- The number of the entry that an instruction takes. -/
theorem takeEntry_snd (s : State) (p : Nat) (t : Fin 4) (w : W128) (c : Nat) (eng : Engine) (start : Bool) :
    (takeEntry s p t w c eng start).2 = (freeEntry (stall s p)).getD 0 := by
  unfold takeEntry
  dsimp only
  rw [stall_ensureEpoch]

section

variable (p : Nat) (t : Fin 4) (s : State) (w : W128) (c : Nat)

theorem takes_localIssue (eng : Engine) : TakesEntry p t eng w c s (localIssue eng p t s w c) := takes_takeEntry ..

/-- A send takes its entry, which it marks where its source is poisoned. -/
theorem takes_carry (eng : Engine) (n : Nat) : TakesEntry p t eng w c s (carryPoison (takeEntry s p t w c eng true).1 p n w) :=
  (takes_takeEntry ..).then_stay (stay_carryPoison ..)

theorem takes_ctLoadRun : TakesEntry p t .ct w c s (ctLoadRun p t s w c) := by
  have base (n : Nat) := takes_carry p t s w c .ct n
  have marked (n : Nat) (b : Bool) : TakesEntry p t .ct w c s (if b then
      modEntry (carryPoison (takeEntry s p t w c .ct true).1 p n w) p n fun v => { v with prov := true }
      else carryPoison (takeEntry s p t w c .ct true).1 p n w) :=
    .ite ((base n).then_stay (.modEntry _ n fun _ => rfl)) (base n)
  unfold ctLoadRun
  dsimp only
  refine .ite (.ite ?_ ?_) (.ite ?_ ?_)
  · exact ((base _).then_stay (.foldl (fun u g => stay_sendWaiting p u ..) _ _)).then_stay (stay_landLoad ..)
  · exact (base _).then_stay (.foldl (fun u g => stay_sendWaiting p u ..) _ _)
  · exact ((marked ..).then_stay (.foldl (fun u g => stay_sendWaiting p u ..) _ _)).then_stay (stay_landLoad ..)
  · exact (marked ..).then_stay (.foldl (fun u g => stay_sendWaiting p u ..) _ _)

theorem takes_ctStoreRun : TakesEntry p t .ct w c s (ctStoreRun p t s w c) := by
  have base (n : Nat) (l : List (List Nat)) (pn : Piece) (as_ : List Nat → List Int) (k : Nat) := ((takes_carry p t s w c .ct n).then_stay
    (.foldl (fun u js => stay_parityPiece p u c pn (as_ js)) l _)).then_stay (stay_countDrop p _ c k)
  unfold ctStoreRun
  dsimp only
  refine .ite (TakesEntry.then_stay ?_ (.foldl (fun u b => stay_sendWaiting p u ..) _ _)) (TakesEntry.then_stay ?_ (stay_sendSlots ..))
  · exact base ..
  · exact base ..

/-- The fault of a line that lies outside the far handle's piece (R325). -/
theorem stay_outsideFar (u v : State) (h : EntriesStay p u v) (pc handle action code : Nat) :
    EntriesStay p u (grnCount (stallFault (countDrop v p c 1) p c t pc handle action code) 6 1) :=
  .then_stalls (.then_stalls (h.trans (stay_countDrop ..)) (stallFault_stalls ..) (stallFault_ledger ..)) (grnCount_stalls ..) (grnCount_ledger ..)

theorem takes_ctAtomRun : TakesEntry p t .ct w c s (ctAtomRun p t s w c) := by
  unfold ctAtomRun
  dsimp only
  refine .ite ?_ ?_
  · refine (((takes_carry ..).then_stay (.foldl (fun u js => ?_) _ _)).then_stay (stay_countDrop ..)).then_stay (stay_sendSlots ..)
    exact .ite (stay_parityPiece ..) (stay_outsideFar _ _ _ _ _ (stay_parityPiece ..) ..)
  · refine (takes_carry ..).then_stay (.foldl (fun u js => ?_) _ _)
    refine .ite (.ite ((stay_parityPiece ..).trans (stay_countDrop ..)) (.ite (.then_modEntry ?_ ?_) ?_))
      (stay_outsideFar _ _ _ _ _ (stay_parityPiece ..) ..)
    · exact (stay_parityPiece ..).trans (stay_sendSlots ..)
    · exact fun _ => rfl
    · exact (stay_parityPiece ..).trans (stay_sendSlots ..)

theorem takes_ctCopyRun : TakesEntry p t .ct w c s (ctCopyRun p t s w c) := by
  unfold ctCopyRun
  dsimp only
  refine .ite (takes_carry ..) ?_
  split
  · exact (takes_carry ..).then_stay (stay_engineAbsent ..)
  · exact (takes_carry ..).then_stay (.foldl (fun u js => stay_sendWaiting p u ..) _ _)

theorem takes_ydPutRun : TakesEntry p t .yd w c s (ydPutRun p t s w c) := by
  unfold ydPutRun
  dsimp only
  refine .ite ?_ ?_
  · refine (((takes_carry ..).then_stay (.foldl (fun u js => ?_) _ _)).then_stay (.foldl (fun u l => ?_) _ _)).then_stay (stay_sentEntry ..)
    · split
      · exact (stay_parityPiece ..).trans (stay_countDrop ..)
      · split
        · exact stay_parityPiece ..
        · exact (stay_parityPiece ..).trans (stay_sendLine ..)
    · split
      · exact stay_recordAbsent ..
      · exact stay_sendTail ..
  · split
    · exact (takes_carry ..).then_stay (stay_engineAbsent ..)
    · refine (((takes_carry ..).then_stay (.foldl (fun u js => ?_) _ _)).then_stay (stay_sendTail ..)).then_stay (stay_sentEntry ..)
      exact (stay_parityPiece ..).trans (stay_sendLine ..)

theorem takes_ydMcastRun : TakesEntry p t .yd w c s (ydMcastRun p t s w c) := by
  unfold ydMcastRun
  dsimp only
  refine (((TakesEntry.ite (takes_carry ..) ((takes_carry ..).then_stay (stay_recordAbsent ..))).then_stay
    (.foldl (fun u js => ?_) _ _)).then_stay (.foldl (fun u q => stay_sendTail p u ..) _ _)).then_stay (stay_sentEntry ..)
  refine EntriesStay.trans ?_ (.foldl (fun u q => stay_sendLine p u ..) _ _)
  exact .then_stalls (stay_parityPiece ..) (yardCount_stalls ..) (yardCount_ledger ..)

theorem takes_sendWord (bridle : Bool) (b : Body) : TakesEntry p t .yd w c s (sendWord bridle p t s w c b) := by
  unfold sendWord
  dsimp only
  split
  · exact (takes_takeEntry ..).then_stay (stay_engineAbsent ..)
  · refine (takes_takeEntry p t .yd w c true s).then_stay (.then_modStall (.then_modEntry (.ite ?_ ?_) ?_) ?_ ?_)
    · exact .of_stalls (sendBridle_stalls ..) (sendBridle_ledger ..)
    · exact .of_stalls (send_stalls ..) (send_ledger ..)
    · exact fun _ => rfl
    · exact fun _ => rfl
    · exact fun _ => rfl

theorem takes_drvRun : TakesEntry p t .drv w c s (drvRun p t s w c) := by
  unfold drvRun
  dsimp only
  refine TakesEntry.then_stay (.then_stay ?_ (.foldl (fun u l => stay_recordAbsent p u _) _ _)) (stay_drvAsks ..)
  exact (takes_carry ..).then_stay (stay_parityPiece ..)

end

/-- An instruction that issues has taken its entry, and its Team goes on. -/
theorem entryTaken_issueOp {s : State} {p : Nat} {t : Fin 4} {op : Nat} {eng : Engine} {run : State → W128 → Nat → State}
    (h : Issues s p t op) (free : (freeEntry (stall s p)).isSome = true) (takes : ∀ s w c, TakesEntry p t eng w c s (run s w c)) :
    EntryTaken s (issueOp s p t op run) p t eng := by
  obtain ⟨n, free⟩ := Option.isSome_iff_exists.1 free
  have taken := (takes (noteFirst s (runningNo s)) (headOfTeam s p t) (runningNo s)).taken n (by rw [stall_noteFirst, free])
  rw [issueOp_of_issues _ h]
  generalize run (noteFirst s (runningNo s)) (headOfTeam s p t) (runningNo s) = u at taken
  simp only [stall_noteFirst, noteFirst_ledger] at taken
  obtain ⟨entry, live, others, ledger⟩ := taken
  obtain ⟨e, there, as_⟩ := Option.map_eq_some_iff.1 entry
  obtain ⟨engine, word, team, context, pc, loops⟩ : e.engine = eng ∧ e.word = headOfTeam s p t ∧ e.team = t ∧ e.ctx = runningNo s ∧
      e.pc = (getTeam (stall s p).live t).pc ∧ e.loops = capture (getTeam (stall s p).live t) := by
    simpa only [issuedAs, Prod.mk.injEq] using as_
  refine ⟨⟨n, e, free, ?_, engine, word, team, context, pc, loops⟩, ?_, ?_, fun q hq => ?_⟩
  · rw [stall_issued_same]
    exact there
  · rw [stall_issued_same, live, ledger]
  · rw [stall_issued_same]
  · rw [stall_issued_other _ _ _ hq, others q hq]

/-- An engine instruction that issues finds a free entry (R80). -/
theorem free_of_go {s : State} {p : Nat} {t : Fin 4} {o : OpInfo} (go : verdict s p t = .go)
    (hop : opInfo (opcodeOf (headOfTeam s p t)) = some o) (engine : o.fmt ≠ .s) : (freeEntry (stall s p)).isSome = true := by
  have same : opInfo (opcodeOf (headWord (stall s p) (runningNo s) (getTeam (stall s p).live t))) = some o := hop
  unfold verdict at go
  extract_lets x c tm w img hs at go
  split at go
  · cases go
  split at go
  · cases go
  split at go
  · cases go
  generalize (hs.any _ || _) = invalid at go
  split at go
  · cases go
  split at go
  · cases go
  next other found =>
  obtain rfl : o = other := Option.some.inj (same.symm.trans found)
  rw [if_neg engine] at go
  split at go
  · cases go
  split at go
  · cases go
  next some_ => rwa [Bool.not_eq_true, Option.isNone_eq_false_iff] at some_

/-- A row of R119 to R124 that goes through `issueOp`. -/
theorem entryTaken_row {op : Nat} {eng : Engine} {run : Position → TeamIx → State → W128 → Nat → State} {o : OpInfo}
    (takes : ∀ p t s w c, TakesEntry p t eng w c s (run p t s w c)) (hop : opInfo op = some o) (engine : o.fmt ≠ .s)
    (s : State) (p : Position) (t : TeamIx) (h : Issues s p t op) : EntryTaken s (issueOp s p t op (run p t)) p t eng := by
  obtain ⟨same, turn, go⟩ := h
  have free := free_of_go go (by rw [same, hop]) engine
  exact entryTaken_issueOp ⟨same, turn, go⟩ free (takes p t)

/-- The same for an instruction of the stall itself. -/
theorem entryTaken_local {op : Nat} {eng : Engine} {o : OpInfo} (hop : opInfo op = some o) (engine : o.fmt ≠ .s)
    (s : State) (p : Position) (t : TeamIx) (h : Issues s p t op) : EntryTaken s (issueOp s p t op (localIssue eng p t)) p t eng :=
  entryTaken_row (run := localIssue eng) (fun p t s w c => takes_localIssue p t s w c eng) hop engine s p t h

/-- Settles O17: every engine row takes its entry through `takeEntry`, and what it sends then leaves the entry as it issued. -/
theorem engineInstructionsTakeEntries : Obligations.EngineInstructionsTakeEntries := by
  unfold Obligations.EngineInstructionsTakeEntries engineRows
  simp only [List.cons_append, List.nil_append, List.forall_mem_cons, List.not_mem_nil, false_implies, implies_true, and_true]
  have local_ {op : Nat} {eng : Engine} {o : OpInfo} := @entryTaken_local op eng o
  refine ⟨?_, ?_, ?_, ?_, ?_, ?_, ?_, ?_, ?_, ?_, ?_, ?_, ?_, ?_, ?_, ?_, ?_, ?_, ?_, ?_, ?_, ?_, ?_, ?_, ?_, ?_, ?_,
    fun s p t h => ⟨_, rfl, entryTaken_row takes_ctLoadRun rfl (by decide) s p t h⟩,
    fun s p t h => ⟨_, rfl, entryTaken_row takes_ctStoreRun rfl (by decide) s p t h⟩,
    fun s p t h => ⟨_, rfl, entryTaken_row takes_ctCopyRun rfl (by decide) s p t h⟩, ?_, ?_, ?_, ?_,
    fun s p t h => ⟨_, rfl, entryTaken_row takes_ctAtomRun rfl (by decide) s p t h⟩,
    fun s p t h => ⟨_, rfl, entryTaken_row takes_ydPutRun rfl (by decide) s p t h⟩,
    fun s p t h => ⟨_, rfl, entryTaken_row takes_ydMcastRun rfl (by decide) s p t h⟩,
    fun s p t h => ⟨_, rfl, entryTaken_row (fun p t s w c => takes_sendWord p t s w c false (flagBody p w)) rfl (by decide) s p t h⟩,
    fun s p t h => ⟨_, rfl, entryTaken_row (fun p t s w c => takes_sendWord p t s w c false (caddBody p w)) rfl (by decide) s p t h⟩,
    fun s p t h => ⟨_, rfl, entryTaken_row (fun p t s w c => takes_sendWord p t s w c true (flagBody p w)) rfl (by decide) s p t h⟩,
    fun s p t h => ⟨_, rfl, entryTaken_row (fun p t s w c => takes_sendWord p t s w c true (caddBody p w)) rfl (by decide) s p t h⟩,
    fun s p t h => ⟨_, rfl, entryTaken_row takes_drvRun rfl (by decide) s p t h⟩,
    fun s p t h => ⟨_, rfl, entryTaken_row takes_drvRun rfl (by decide) s p t h⟩⟩
  all_goals exact fun s p t h => ⟨_, rfl, local_ rfl (by decide) s p t h⟩

end Sys2Proof.Machine
end

section
/-!
SUPPORT. What the operations of resets, supplies, reports and firmware leave alone.
-/

namespace Sys2Proof.Machine

/-! ### The stalls -/

@[simp] theorem vStalls_pwrCount (s : State) (i : Nat) :
    (pwrCount s i).vStalls = s.vStalls := by simp [pwrCount]

@[simp] theorem vStalls_modFlow (s : State) (c dst job : Nat) (g : Flow → Flow) :
    (modFlow s c dst job g).vStalls = s.vStalls := by simp [modFlow]

@[simp] theorem vStalls_countDseq (s : State) (dst job : Nat) :
    (countDseq s dst job).vStalls = s.vStalls := by simp [countDseq, vStalls_eta]

@[simp] theorem vStalls_sendCommit (s : State) (c dst job epoch : Nat) :
    (sendCommit s c dst job epoch).vStalls = s.vStalls := by simp [sendCommit]

@[simp] theorem vStalls_sendCommits (s : State) (c epoch : Nat) :
    (sendCommits s c epoch).vStalls = s.vStalls := by simp [sendCommits]

@[simp] theorem vStalls_flipMap (s : State) (c h b : Nat) :
    (flipMap s c h b).vStalls = s.vStalls := by simp [flipMap, vStalls_eta]

@[simp] theorem vStalls_modRst (s : State) (f : Rst → Rst) :
    (modRst s f).vStalls = s.vStalls := by simp [modRst, vStalls_eta]

@[simp] theorem vStalls_readRail (s : State) (rail mv : Nat) :
    (readRail s rail mv).vStalls = s.vStalls := by simp [readRail, vStalls_eta]

@[simp] theorem vStalls_sampleRail (s : State) (mv : Nat) :
    (sampleRail s mv).vStalls = s.vStalls := by simp [sampleRail]

@[simp] theorem vStalls_dbRail (s : State) (code pos value : Nat) :
    (dbRail s code pos value).vStalls = s.vStalls := by simp [dbRail]

@[simp] theorem vStalls_countStretch (s : State) (p : Nat) :
    (countStretch s p).vStalls = s.vStalls := by simp [countStretch, vStalls_eta]

@[simp] theorem foldl_stalls {β : Type} (g : State → β → State) (h : ∀ s b, (g s b).stalls = s.stalls) (l : List β) (s : State) :
    (l.foldl g s).stalls = s.stalls := (vStalls_def _).symm.trans (vStalls_foldl g h l s)

@[simp] theorem stall_csrSetField (s : State) (off hi lo v : Nat) (j₀ : Nat) :
    stall (csrSetField s off hi lo v) j₀ = stall s j₀ := congrArg (nget ({} : Stall) · j₀) ((vStalls_def _).symm.trans
      ((vStalls_csrSetField ..).trans (vStalls_def _)))

@[simp] theorem stall_pwrCount (s : State) (i : Nat) (j₀ : Nat) :
    stall (pwrCount s i) j₀ = stall s j₀ := congrArg (nget ({} : Stall) · j₀) ((vStalls_def _).symm.trans ((vStalls_pwrCount
      ..).trans (vStalls_def _)))

@[simp] theorem dbEpoch_stalls (s : State) (c epoch event target : Nat) :
    (dbEpoch s c epoch event target).stalls = s.stalls := (vStalls_def _).symm.trans ((vStalls_dbEpoch ..).trans (vStalls_def _))

@[simp] theorem stall_reportFault (s : State) (source code detail c lid team handle : Nat) (j₀ : Nat) :
    stall (reportFault s source code detail c lid team handle) j₀ = stall s j₀ := congrArg (nget ({} : Stall) · j₀)
      ((vStalls_def _).symm.trans ((vStalls_reportFault ..).trans (vStalls_def _)))

@[simp] theorem sendCommits_stalls (s : State) (c epoch : Nat) :
    (sendCommits s c epoch).stalls = s.stalls := (vStalls_def _).symm.trans ((vStalls_sendCommits ..).trans (vStalls_def _))

@[simp] theorem flipMap_stalls (s : State) (c h b : Nat) :
    (flipMap s c h b).stalls = s.stalls := (vStalls_def _).symm.trans ((vStalls_flipMap ..).trans (vStalls_def _))

@[simp] theorem stall_modRst (s : State) (f : Rst → Rst) (j₀ : Nat) :
    stall (modRst s f) j₀ = stall s j₀ := congrArg (nget ({} : Stall) · j₀) ((vStalls_def _).symm.trans ((vStalls_modRst
      ..).trans (vStalls_def _)))

@[simp] theorem stall_readRail (s : State) (rail mv : Nat) (j₀ : Nat) :
    stall (readRail s rail mv) j₀ = stall s j₀ := congrArg (nget ({} : Stall) · j₀) ((vStalls_def _).symm.trans
      ((vStalls_readRail ..).trans (vStalls_def _)))

@[simp] theorem stall_sampleRail (s : State) (mv : Nat) (j₀ : Nat) :
    stall (sampleRail s mv) j₀ = stall s j₀ := congrArg (nget ({} : Stall) · j₀) ((vStalls_def _).symm.trans
      ((vStalls_sampleRail ..).trans (vStalls_def _)))

@[simp] theorem stall_dbRail (s : State) (code pos value : Nat) (j₀ : Nat) :
    stall (dbRail s code pos value) j₀ = stall s j₀ := congrArg (nget ({} : Stall) · j₀) ((vStalls_def _).symm.trans
      ((vStalls_dbRail ..).trans (vStalls_def _)))

@[simp] theorem stall_countStretch (s : State) (p : Nat) (j₀ : Nat) :
    stall (countStretch s p) j₀ = stall s j₀ := congrArg (nget ({} : Stall) · j₀) ((vStalls_def _).symm.trans
      ((vStalls_countStretch ..).trans (vStalls_def _)))

/-! ### The recovery state of the contexts -/

@[simp] theorem vRecs_recCount (s : State) (i : Nat) :
    (recCount s i).vRecs = s.vRecs := by simp [recCount]

@[simp] theorem vRecs_rlCount (s : State) (n i k : Nat) :
    (rlCount s n i k).vRecs = s.vRecs := by simp [rlCount]

@[simp] theorem vRecs_modPort (s : State) (n : Nat) (f : Port → Port) :
    (modPort s n f).vRecs = s.vRecs := by simp [modPort, vRecs_eta]

@[simp] theorem vRecs_wireFlit (s : State) (n : Nat) (b : List Byte) (seq : BitVec 16) :
    (wireFlit s n b seq).vRecs = s.vRecs := by simp [wireFlit, vRecs_eta]

theorem vRecs_sendOne (s t : State) (n : Nat) (h : sendOne s n = some t) : t.vRecs = s.vRecs := by
  unfold sendOne at h
  dsimp only at h
  split at h
  · cases h
  · split at h
    · cases h
    · cases h
      simp

@[simp] theorem vRecs_pump (k : Nat) (s : State) (n : Nat) : (pump k s n).vRecs = s.vRecs := by
  induction k generalizing s with
  | zero => rfl
  | succ k ih =>
    unfold pump
    split
    · rw [ih]
      exact vRecs_sendOne _ _ _ ‹_›
    · rfl

@[simp] theorem vRecs_pumpPort (s : State) (n : Nat) : (pumpPort s n).vRecs = s.vRecs := by simp [pumpPort]

@[simp] theorem vRecs_sendFlit (s : State) (via : Nat) (b : List Byte) :
    (sendFlit s via b).vRecs = s.vRecs := by
  unfold sendFlit
  repeat' split
  all_goals simp [vRecs_eta]

@[simp] theorem vRecs_flipMap (s : State) (c h b : Nat) :
    (flipMap s c h b).vRecs = s.vRecs := by simp [flipMap, vRecs_eta]

@[simp] theorem recOf_foldl {β : Type} (g : State → β → State) (j₀ : Nat) (h : ∀ s b, recOf (g s b) j₀ = recOf s j₀) (l :
      List β) (s : State) :
    recOf (l.foldl g s) j₀ = recOf s j₀ := by
  induction l generalizing s with
  | nil => rfl
  | cons b l ih => exact (ih (g s b)).trans (h s b)

@[simp] theorem recOf_recCount (s : State) (i : Nat) (j₀ : Nat) :
    recOf (recCount s i) j₀ = recOf s j₀ := congrArg (nget ({} : Rec) · j₀) ((vRecs_def _).symm.trans ((vRecs_recCount
      ..).trans (vRecs_def _)))

@[simp] theorem recOf_sendFlit (s : State) (via : Nat) (b : List Byte) (j₀ : Nat) :
    recOf (sendFlit s via b) j₀ = recOf s j₀ := congrArg (nget ({} : Rec) · j₀) ((vRecs_def _).symm.trans ((vRecs_sendFlit
      ..).trans (vRecs_def _)))

@[simp] theorem recOf_flipMap (s : State) (c h b : Nat) (j₀ : Nat) :
    recOf (flipMap s c h b) j₀ = recOf s j₀ := congrArg (nget ({} : Rec) · j₀) ((vRecs_def _).symm.trans ((vRecs_flipMap
      ..).trans (vRecs_def _)))

/-! ### The registers -/

@[simp] theorem vCsr_foldl {β : Type} (g : State → β → State) (h : ∀ s b, (g s b).vCsr = s.vCsr) (l : List β) (s : State) :
    (l.foldl g s).vCsr = s.vCsr := by
  induction l generalizing s with
  | nil => rfl
  | cons b l ih => exact (ih (g s b)).trans (h s b)

@[simp] theorem vCsr_draw (s : State) :
    (draw s).2.vCsr = s.vCsr := by simp [draw, vCsr_eta]

@[simp] theorem vCsr_loftInvalidate (s : State) (f : Nat → Nat → LoftLine → Bool) :
    (loftInvalidate s f).vCsr = s.vCsr := by simp [loftInvalidate, vCsr_eta]

@[simp] theorem vCsr_send (s : State) (src dst : Node) (net : Net) (c : Nat) (b : Body) :
    (send s src dst net c b).vCsr = s.vCsr := by simp [send, vCsr_eta]

@[simp] theorem vCsr_modLive (s : State) (p : Nat) (f : StallCtx → StallCtx) :
    (modLive s p f).vCsr = s.vCsr := by simp [modLive]

@[simp] theorem vCsr_modEntry (s : State) (p n : Nat) (f : Entry → Entry) :
    (modEntry s p n f).vCsr = s.vCsr := by simp [modEntry]

@[simp] theorem vCsr_dropEntry (s : State) (p n : Nat) :
    (dropEntry s p n).vCsr = s.vCsr := by simp [dropEntry]

@[simp] theorem vCsr_modCached (s : State) (p h : Nat) (f : HEntry → HEntry) :
    (modCached s p h f).vCsr = s.vCsr := by simp [modCached]

@[simp] theorem vCsr_cacheHandle (s : State) (p c h : Nat) :
    (cacheHandle s p c h).vCsr = s.vCsr := by simp [cacheHandle]

@[simp] theorem vCsr_poisonLocal (s : State) (p c h : Nat) :
    (poisonLocal s p c h).vCsr = s.vCsr := by simp [poisonLocal]

@[simp] theorem vCsr_poisonDest (s : State) (p c : Nat) (w : W128) :
    (poisonDest s p c w).vCsr = s.vCsr := by simp [poisonDest]

@[simp] theorem vCsr_modTack (s : State) (f : Tack → Tack) :
    (modTack s f).vCsr = s.vCsr := by simp [modTack, vCsr_eta]

@[simp] theorem vCsr_extendMr (s : State) (i : Nat) (d : List Byte) :
    (extendMr s i d).vCsr = s.vCsr := by simp [extendMr]

@[simp] theorem vCsr_drvNotices (s : State) (d : Nat) (ms : List DrvEntry) :
    (drvNotices s d ms).vCsr = s.vCsr := by simp [drvNotices]

@[simp] theorem vCsr_modOstler (s : State) (f : Ostler → Ostler) :
    (modOstler s f).vCsr = s.vCsr := by simp [modOstler, vCsr_eta]

@[simp] theorem vCsr_writeMargin (s : State) :
    (writeMargin s).vCsr = s.vCsr := by simp [writeMargin]

@[simp] theorem vCsr_settleMargin (s : State) :
    (settleMargin s).vCsr = s.vCsr := by simp [settleMargin]

@[simp] theorem vCsr_modRst (s : State) (f : Rst → Rst) :
    (modRst s f).vCsr = s.vCsr := by simp [modRst, vCsr_eta]

@[simp] theorem vCsr_loseRecords (s : State) :
    (loseRecords s).vCsr = s.vCsr := by simp [loseRecords, vCsr_eta]

@[simp] theorem vCsr_readRail (s : State) (rail mv : Nat) :
    (readRail s rail mv).vCsr = s.vCsr := by simp [readRail, vCsr_eta]

@[simp] theorem vCsr_eachPowered (s : State) (f : Stall → Stall) :
    (eachPowered s f).vCsr = s.vCsr := by simp [eachPowered]

@[simp] theorem vCsr_measureImage (s : State) (c : Nat) (img : List Byte) :
    (measureImage s c img).vCsr = s.vCsr := by simp [measureImage]

@[simp] theorem vCsr_forceEngine (s : State) (p : Nat) (g : Engine) :
    (forceEngine s p g).vCsr = s.vCsr := by simp [forceEngine]

@[simp] theorem vCsr_resetEngine (s : State) (p : Nat) (g : Engine) :
    (resetEngine s p g).vCsr = s.vCsr := by
  unfold resetEngine
  split <;> simp

@[simp] theorem vCsr_activate (s : State) (c : Nat) (b : Bool) :
    (activate s c b).vCsr = s.vCsr := by simp [activate]

@[simp] theorem vCsr_startReplay (s : State) (from_ : Nat) :
    (startReplay s from_).vCsr = s.vCsr := by simp [startReplay, vCsr_eta]

@[simp] theorem ite_csr (c : Prop) [Decidable c] (a b : State) : (if c then a else b).csr = if c then a.csr else b.csr :=
  (vCsr_def _).symm.trans (vCsr_ite c a b)

@[simp] theorem draw_csr (s : State) :
    (draw s).2.csr = s.csr := (vCsr_def _).symm.trans ((vCsr_draw ..).trans (vCsr_def _))

@[simp] theorem loftInvalidate_csr (s : State) (f : Nat → Nat → LoftLine → Bool) :
    (loftInvalidate s f).csr = s.csr := (vCsr_def _).symm.trans ((vCsr_loftInvalidate ..).trans (vCsr_def _))

@[simp] theorem modEntry_csr (s : State) (p n : Nat) (f : Entry → Entry) :
    (modEntry s p n f).csr = s.csr := (vCsr_def _).symm.trans ((vCsr_modEntry ..).trans (vCsr_def _))

@[simp] theorem drvNotices_csr (s : State) (d : Nat) (ms : List DrvEntry) :
    (drvNotices s d ms).csr = s.csr := (vCsr_def _).symm.trans ((vCsr_drvNotices ..).trans (vCsr_def _))

@[simp] theorem settleMargin_csr (s : State) :
    (settleMargin s).csr = s.csr := (vCsr_def _).symm.trans ((vCsr_settleMargin ..).trans (vCsr_def _))

@[simp] theorem loseRecords_csr (s : State) :
    (loseRecords s).csr = s.csr := (vCsr_def _).symm.trans ((vCsr_loseRecords ..).trans (vCsr_def _))

@[simp] theorem readRail_csr (s : State) (rail mv : Nat) :
    (readRail s rail mv).csr = s.csr := (vCsr_def _).symm.trans ((vCsr_readRail ..).trans (vCsr_def _))

@[simp] theorem eachPowered_csr (s : State) (f : Stall → Stall) :
    (eachPowered s f).csr = s.csr := (vCsr_def _).symm.trans ((vCsr_eachPowered ..).trans (vCsr_def _))

@[simp] theorem forceEngine_csr (s : State) (p : Nat) (g : Engine) :
    (forceEngine s p g).csr = s.csr := (vCsr_def _).symm.trans ((vCsr_forceEngine ..).trans (vCsr_def _))

@[simp] theorem resetEngine_csr (s : State) (p : Nat) (g : Engine) :
    (resetEngine s p g).csr = s.csr := (vCsr_def _).symm.trans ((vCsr_resetEngine ..).trans (vCsr_def _))

@[simp] theorem activate_csr (s : State) (c : Nat) (b : Bool) :
    (activate s c b).csr = s.csr := (vCsr_def _).symm.trans ((vCsr_activate ..).trans (vCsr_def _))

@[simp] theorem startReplay_csr (s : State) (from_ : Nat) :
    (startReplay s from_).csr = s.csr := (vCsr_def _).symm.trans ((vCsr_startReplay ..).trans (vCsr_def _))

/-! ### The fault reports -/

@[simp] theorem vReports_foldl {β : Type} (g : State → β → State) (h : ∀ s b, (g s b).vReports = s.vReports) (l : List β) (s
      : State) :
    (l.foldl g s).vReports = s.vReports := by
  induction l generalizing s with
  | nil => rfl
  | cons b l ih => exact (ih (g s b)).trans (h s b)

@[simp] theorem vReports_modOstler (s : State) (f : Ostler → Ostler) :
    (modOstler s f).vReports = s.vReports := by simp [modOstler, vReports_eta]

@[simp] theorem vReports_modRst (s : State) (f : Rst → Rst) :
    (modRst s f).vReports = s.vReports := by simp [modRst, vReports_eta]

@[simp] theorem vReports_answer (s : State) (via : Transport) (type : Nat) (m : List Byte) :
    (answer s via type m).vReports = s.vReports := by
  unfold answer
  split <;> simp [vReports_eta]

@[simp] theorem vReports_mgCount (s : State) (i : Nat) :
    (mgCount s i).vReports = s.vReports := by simp [mgCount]

@[simp] theorem vReports_mgSend (s : State) (via : Transport) (secured : Bool) (m : List Byte) :
    (mgSend s via secured m).vReports = s.vReports := by simp [mgSend]

@[simp] theorem vReports_sendReport (s : State) (cls : Nat) (rec_ : List Byte) :
    (sendReport s cls rec_).vReports = s.vReports := by
  unfold sendReport
  repeat' first
    | (simp [vReports_eta]; done)
    | (with_reducible refine (vReports_foldl _ ?_ _ _).trans ?_)
    | intro _
    | split

@[simp] theorem vReports_ringReport (s : State) (r : Report) :
    (ringReport s r).vReports = s.vReports := by simp [ringReport]

@[simp] theorem vReports_drainFifo (s : State) :
    (drainFifo s).vReports = s.vReports := by simp [drainFifo]

@[simp] theorem vReports_driveFaultN (s : State) :
    (driveFaultN s).vReports = s.vReports := by simp [driveFaultN]

@[simp] theorem vReports_raiseAlert (s : State) (cls : Nat) :
    (raiseAlert s cls).vReports = s.vReports := by simp [raiseAlert]

@[simp] theorem mgCount_reports (s : State) (i : Nat) :
    (mgCount s i).reports = s.reports := (vReports_def _).symm.trans ((vReports_mgCount ..).trans (vReports_def _))

@[simp] theorem drainFifo_reports (s : State) :
    (drainFifo s).reports = s.reports := (vReports_def _).symm.trans ((vReports_drainFifo ..).trans (vReports_def _))

@[simp] theorem raiseAlert_reports (s : State) (cls : Nat) :
    (raiseAlert s cls).reports = s.reports := (vReports_def _).symm.trans ((vReports_raiseAlert ..).trans (vReports_def _))

/-! ### The contexts -/

/-- The contexts of a state, as a function of it. -/
def State.vCtxs (s : State) : NMap Ctx := s.ctxs

@[simp] theorem vCtxs_mk (x0 : List Instr) (x1 : Nat) (x2 : Nat) (x3 : List Byte) (x4 : Bool) (x5 : NMap Byte) (x6 : List
      (Nat × Nat)) (x7 : NMap W64) (x8 : W64) (x9 : NMap Pos) (x10 : NMap Stall) (x11 : NMap LoftLine) (x12 : List Msg) (x13
      : NMap Ctx) (x14 : NMap Rec) (x15 : Yardm) (x16 : Hbm) (x17 : Granary) (x18 : NMap Drover) (x19 : List Report) (x20 :
      Rhoa) (x21 : Gateh) (x22 : Daybk) (x23 : Fuses) (x24 : Tack) (x25 : Smithy) (x26 : Rst) (x27 : Supply) (x28 : Ostler)
      (x29 : Disc) (x30 : Tap) (x31 : List (Transport × List Byte)) (x32 : List (List Byte)) :
    (State.mk x0 x1 x2 x3 x4 x5 x6 x7 x8 x9 x10 x11 x12 x13 x14 x15 x16 x17 x18 x19 x20 x21 x22 x23 x24 x25 x26 x27 x28 x29
      x30 x31 x32).vCtxs = x13 := (rfl)

theorem vCtxs_eta (s : State) : s.ctxs = s.vCtxs := (rfl)

@[simp] theorem vCtxs_ite (c : Prop) [Decidable c] (a b : State) : (if c then a else b).vCtxs = if c then a.vCtxs else
      b.vCtxs := by
  split <;> rfl

@[simp] theorem vCtxs_foldl {β : Type} (g : State → β → State) (h : ∀ s b, (g s b).vCtxs = s.vCtxs) (l : List β) (s : State) :
    (l.foldl g s).vCtxs = s.vCtxs := by
  induction l generalizing s with
  | nil => rfl
  | cons b l ih => exact (ih (g s b)).trans (h s b)

@[simp] theorem vCtxs_csrPut (s : State) (off : Nat) (v : W64) :
    (csrPut s off v).vCtxs = s.vCtxs := by simp [csrPut, vCtxs_eta]

@[simp] theorem vCtxs_csrSetField (s : State) (off hi lo v : Nat) :
    (csrSetField s off hi lo v).vCtxs = s.vCtxs := by simp [csrSetField]

@[simp] theorem vCtxs_bumpBy (s : State) (off wrapOff wrapBit n : Nat) :
    (bumpBy s off wrapOff wrapBit n).vCtxs = s.vCtxs := by simp [bumpBy]

@[simp] theorem vCtxs_bump (s : State) (off wrapOff wrapBit : Nat) :
    (bump s off wrapOff wrapBit).vCtxs = s.vCtxs := by simp [bump]

@[simp] theorem vCtxs_recCount (s : State) (i : Nat) :
    (recCount s i).vCtxs = s.vCtxs := by simp [recCount]

@[simp] theorem vCtxs_rlCount (s : State) (n i k : Nat) :
    (rlCount s n i k).vCtxs = s.vCtxs := by simp [rlCount]

@[simp] theorem vCtxs_modRec (s : State) (c : Nat) (f : Rec → Rec) :
    (modRec s c f).vCtxs = s.vCtxs := by simp [modRec, vCtxs_eta]

@[simp] theorem vCtxs_modPort (s : State) (n : Nat) (f : Port → Port) :
    (modPort s n f).vCtxs = s.vCtxs := by simp [modPort, vCtxs_eta]

@[simp] theorem vCtxs_wireFlit (s : State) (n : Nat) (b : List Byte) (seq : BitVec 16) :
    (wireFlit s n b seq).vCtxs = s.vCtxs := by simp [wireFlit, vCtxs_eta]

theorem vCtxs_sendOne (s t : State) (n : Nat) (h : sendOne s n = some t) : t.vCtxs = s.vCtxs := by
  unfold sendOne at h
  dsimp only at h
  split at h
  · cases h
  · split at h
    · cases h
    · cases h
      simp

@[simp] theorem vCtxs_pump (k : Nat) (s : State) (n : Nat) : (pump k s n).vCtxs = s.vCtxs := by
  induction k generalizing s with
  | zero => rfl
  | succ k ih =>
    unfold pump
    split
    · rw [ih]
      exact vCtxs_sendOne _ _ _ ‹_›
    · rfl

@[simp] theorem vCtxs_pumpPort (s : State) (n : Nat) : (pumpPort s n).vCtxs = s.vCtxs := by simp [pumpPort]

@[simp] theorem vCtxs_sendFlit (s : State) (via : Nat) (b : List Byte) :
    (sendFlit s via b).vCtxs = s.vCtxs := by
  unfold sendFlit
  repeat' split
  all_goals simp [vCtxs_eta]

@[simp] theorem vCtxs_dbStore (s : State) (type c : Nat) (payload : List Byte) :
    (dbStore s type c payload).vCtxs = s.vCtxs := by simp [dbStore, vCtxs_eta]

@[simp] theorem vCtxs_dbAppend (s : State) (type c : Nat) (payload : List Byte) :
    (dbAppend s type c payload).vCtxs = s.vCtxs := by simp [dbAppend, vCtxs_eta]

@[simp] theorem vCtxs_dbEpoch (s : State) (c epoch event target : Nat) :
    (dbEpoch s c epoch event target).vCtxs = s.vCtxs := by simp [dbEpoch]

@[simp] theorem vCtxs_modFlow (s : State) (c dst job : Nat) (g : Flow → Flow) :
    (modFlow s c dst job g).vCtxs = s.vCtxs := by simp [modFlow]

@[simp] theorem vCtxs_countDseq (s : State) (dst job : Nat) :
    (countDseq s dst job).vCtxs = s.vCtxs := by simp [countDseq, vCtxs_eta]

@[simp] theorem vCtxs_sendCommit (s : State) (c dst job epoch : Nat) :
    (sendCommit s c dst job epoch).vCtxs = s.vCtxs := by simp [sendCommit]

@[simp] theorem vCtxs_sendCommits (s : State) (c epoch : Nat) :
    (sendCommits s c epoch).vCtxs = s.vCtxs := by simp [sendCommits]

@[simp] theorem vCtxs_flipMap (s : State) (c h b : Nat) :
    (flipMap s c h b).vCtxs = s.vCtxs := by simp [flipMap, vCtxs_eta]

theorem vCtxs_def (s : State) : s.vCtxs = s.ctxs := rfl

@[simp] theorem foldl_ctxs {β : Type} (g : State → β → State) (h : ∀ s b, (g s b).ctxs = s.ctxs) (l : List β) (s : State) :
    (l.foldl g s).ctxs = s.ctxs := (vCtxs_def _).symm.trans (vCtxs_foldl g h l s)

@[simp] theorem recCount_ctxs (s : State) (i : Nat) :
    (recCount s i).ctxs = s.ctxs := (vCtxs_def _).symm.trans ((vCtxs_recCount ..).trans (vCtxs_def _))

@[simp] theorem dbEpoch_ctxs (s : State) (c epoch event target : Nat) :
    (dbEpoch s c epoch event target).ctxs = s.ctxs := (vCtxs_def _).symm.trans ((vCtxs_dbEpoch ..).trans (vCtxs_def _))

@[simp] theorem sendCommits_ctxs (s : State) (c epoch : Nat) :
    (sendCommits s c epoch).ctxs = s.ctxs := (vCtxs_def _).symm.trans ((vCtxs_sendCommits ..).trans (vCtxs_def _))

@[simp] theorem flipMap_ctxs (s : State) (c h b : Nat) :
    (flipMap s c h b).ctxs = s.ctxs := (vCtxs_def _).symm.trans ((vCtxs_flipMap ..).trans (vCtxs_def _))

/-! ### The Daybook -/

/-- The Daybook of a state, as a function of it. -/
def State.vDb (s : State) : Daybk := s.db

@[simp] theorem vDb_mk (x0 : List Instr) (x1 : Nat) (x2 : Nat) (x3 : List Byte) (x4 : Bool) (x5 : NMap Byte) (x6 : List (Nat
      × Nat)) (x7 : NMap W64) (x8 : W64) (x9 : NMap Pos) (x10 : NMap Stall) (x11 : NMap LoftLine) (x12 : List Msg) (x13 :
      NMap Ctx) (x14 : NMap Rec) (x15 : Yardm) (x16 : Hbm) (x17 : Granary) (x18 : NMap Drover) (x19 : List Report) (x20 :
      Rhoa) (x21 : Gateh) (x22 : Daybk) (x23 : Fuses) (x24 : Tack) (x25 : Smithy) (x26 : Rst) (x27 : Supply) (x28 : Ostler)
      (x29 : Disc) (x30 : Tap) (x31 : List (Transport × List Byte)) (x32 : List (List Byte)) :
    (State.mk x0 x1 x2 x3 x4 x5 x6 x7 x8 x9 x10 x11 x12 x13 x14 x15 x16 x17 x18 x19 x20 x21 x22 x23 x24 x25 x26 x27 x28 x29
      x30 x31 x32).vDb = x22 := (rfl)

theorem vDb_eta (s : State) : s.db = s.vDb := (rfl)

@[simp] theorem vDb_ite (c : Prop) [Decidable c] (a b : State) : (if c then a else b).vDb = if c then a.vDb else b.vDb := by
  split <;> rfl

@[simp] theorem vDb_csrPut (s : State) (off : Nat) (v : W64) :
    (csrPut s off v).vDb = s.vDb := by simp [csrPut, vDb_eta]

@[simp] theorem vDb_csrSetField (s : State) (off hi lo v : Nat) :
    (csrSetField s off hi lo v).vDb = s.vDb := by simp [csrSetField]

@[simp] theorem vDb_replayDone (s : State) :
    (replayDone s).vDb = s.vDb := by simp [replayDone, vDb_eta]

theorem vDb_def (s : State) : s.vDb = s.db := rfl

@[simp] theorem replayDone_db (s : State) :
    (replayDone s).db = s.db := (vDb_def _).symm.trans ((vDb_replayDone ..).trans (vDb_def _))

/-! ### The Tack Room -/

/-- The Tack Room of a state, as a function of it. -/
def State.vTack (s : State) : Tack := s.tack

@[simp] theorem vTack_mk (x0 : List Instr) (x1 : Nat) (x2 : Nat) (x3 : List Byte) (x4 : Bool) (x5 : NMap Byte) (x6 : List
      (Nat × Nat)) (x7 : NMap W64) (x8 : W64) (x9 : NMap Pos) (x10 : NMap Stall) (x11 : NMap LoftLine) (x12 : List Msg) (x13
      : NMap Ctx) (x14 : NMap Rec) (x15 : Yardm) (x16 : Hbm) (x17 : Granary) (x18 : NMap Drover) (x19 : List Report) (x20 :
      Rhoa) (x21 : Gateh) (x22 : Daybk) (x23 : Fuses) (x24 : Tack) (x25 : Smithy) (x26 : Rst) (x27 : Supply) (x28 : Ostler)
      (x29 : Disc) (x30 : Tap) (x31 : List (Transport × List Byte)) (x32 : List (List Byte)) :
    (State.mk x0 x1 x2 x3 x4 x5 x6 x7 x8 x9 x10 x11 x12 x13 x14 x15 x16 x17 x18 x19 x20 x21 x22 x23 x24 x25 x26 x27 x28 x29
      x30 x31 x32).vTack = x24 := (rfl)

theorem vTack_eta (s : State) : s.tack = s.vTack := (rfl)

@[simp] theorem vTack_csrPut (s : State) (off : Nat) (v : W64) :
    (csrPut s off v).vTack = s.vTack := by simp [csrPut, vTack_eta]

@[simp] theorem vTack_csrSetField (s : State) (off hi lo v : Nat) :
    (csrSetField s off hi lo v).vTack = s.vTack := by simp [csrSetField]

@[simp] theorem vTack_restage (s : State) (c : Nat) :
    (restage s c).vTack = s.vTack := by simp [restage]

theorem vTack_def (s : State) : s.vTack = s.tack := rfl

@[simp] theorem restage_tack (s : State) (c : Nat) :
    (restage s c).tack = s.tack := (vTack_def _).symm.trans ((vTack_restage ..).trans (vTack_def _))

/-! ### The reset state -/

/-- The reset state of a state, as a function of it. -/
def State.vRst (s : State) : Rst := s.rst

@[simp] theorem vRst_mk (x0 : List Instr) (x1 : Nat) (x2 : Nat) (x3 : List Byte) (x4 : Bool) (x5 : NMap Byte) (x6 : List (Nat
      × Nat)) (x7 : NMap W64) (x8 : W64) (x9 : NMap Pos) (x10 : NMap Stall) (x11 : NMap LoftLine) (x12 : List Msg) (x13 :
      NMap Ctx) (x14 : NMap Rec) (x15 : Yardm) (x16 : Hbm) (x17 : Granary) (x18 : NMap Drover) (x19 : List Report) (x20 :
      Rhoa) (x21 : Gateh) (x22 : Daybk) (x23 : Fuses) (x24 : Tack) (x25 : Smithy) (x26 : Rst) (x27 : Supply) (x28 : Ostler)
      (x29 : Disc) (x30 : Tap) (x31 : List (Transport × List Byte)) (x32 : List (List Byte)) :
    (State.mk x0 x1 x2 x3 x4 x5 x6 x7 x8 x9 x10 x11 x12 x13 x14 x15 x16 x17 x18 x19 x20 x21 x22 x23 x24 x25 x26 x27 x28 x29
      x30 x31 x32).vRst = x26 := (rfl)

theorem vRst_eta (s : State) : s.rst = s.vRst := (rfl)

@[simp] theorem vRst_ite (c : Prop) [Decidable c] (a b : State) : (if c then a else b).vRst = if c then a.vRst else b.vRst := by
  split <;> rfl

@[simp] theorem vRst_foldl {β : Type} (g : State → β → State) (h : ∀ s b, (g s b).vRst = s.vRst) (l : List β) (s : State) :
    (l.foldl g s).vRst = s.vRst := by
  induction l generalizing s with
  | nil => rfl
  | cons b l ih => exact (ih (g s b)).trans (h s b)

@[simp] theorem vRst_csrPut (s : State) (off : Nat) (v : W64) :
    (csrPut s off v).vRst = s.vRst := by simp [csrPut, vRst_eta]

@[simp] theorem vRst_csrSetField (s : State) (off hi lo v : Nat) :
    (csrSetField s off hi lo v).vRst = s.vRst := by simp [csrSetField]

@[simp] theorem vRst_bumpBy (s : State) (off wrapOff wrapBit n : Nat) :
    (bumpBy s off wrapOff wrapBit n).vRst = s.vRst := by simp [bumpBy]

@[simp] theorem vRst_rlCount (s : State) (n i k : Nat) :
    (rlCount s n i k).vRst = s.vRst := by simp [rlCount]

@[simp] theorem vRst_modPort (s : State) (n : Nat) (f : Port → Port) :
    (modPort s n f).vRst = s.vRst := by simp [modPort, vRst_eta]

@[simp] theorem vRst_wireFlit (s : State) (n : Nat) (b : List Byte) (seq : BitVec 16) :
    (wireFlit s n b seq).vRst = s.vRst := by simp [wireFlit, vRst_eta]

theorem vRst_sendOne (s t : State) (n : Nat) (h : sendOne s n = some t) : t.vRst = s.vRst := by
  unfold sendOne at h
  dsimp only at h
  split at h
  · cases h
  · split at h
    · cases h
    · cases h
      simp

@[simp] theorem vRst_pump (k : Nat) (s : State) (n : Nat) : (pump k s n).vRst = s.vRst := by
  induction k generalizing s with
  | zero => rfl
  | succ k ih =>
    unfold pump
    split
    · rw [ih]
      exact vRst_sendOne _ _ _ ‹_›
    · rfl

@[simp] theorem vRst_pumpPort (s : State) (n : Nat) : (pumpPort s n).vRst = s.vRst := by simp [pumpPort]

@[simp] theorem vRst_sendFlit (s : State) (via : Nat) (b : List Byte) :
    (sendFlit s via b).vRst = s.vRst := by
  unfold sendFlit
  repeat' split
  all_goals simp [vRst_eta]

@[simp] theorem vRst_modTack (s : State) (f : Tack → Tack) :
    (modTack s f).vRst = s.vRst := by simp [modTack, vRst_eta]

@[simp] theorem vRst_deriveFwKeys (s : State) :
    (deriveFwKeys s).vRst = s.vRst := by simp [deriveFwKeys]

@[simp] theorem vRst_issueCert (s : State) :
    (issueCert s).vRst = s.vRst := by simp [issueCert]

@[simp] theorem vRst_modOstler (s : State) (f : Ostler → Ostler) :
    (modOstler s f).vRst = s.vRst := by simp [modOstler, vRst_eta]

@[simp] theorem vRst_answer (s : State) (via : Transport) (type : Nat) (m : List Byte) :
    (answer s via type m).vRst = s.vRst := by
  unfold answer
  split <;> simp [vRst_eta]

@[simp] theorem vRst_mgCount (s : State) (i : Nat) :
    (mgCount s i).vRst = s.vRst := by simp [mgCount]

@[simp] theorem vRst_restage (s : State) (c : Nat) :
    (restage s c).vRst = s.vRst := by simp [restage]

@[simp] theorem vRst_renewKeys (s : State) :
    (renewKeys s).vRst = s.vRst := by simp [renewKeys]

@[simp] theorem vRst_mgSend (s : State) (via : Transport) (secured : Bool) (m : List Byte) :
    (mgSend s via secured m).vRst = s.vRst := by simp [mgSend]

@[simp] theorem vRst_sendReport (s : State) (cls : Nat) (rec_ : List Byte) :
    (sendReport s cls rec_).vRst = s.vRst := by
  unfold sendReport
  repeat' first
    | (simp [vRst_eta]; done)
    | (with_reducible refine (vRst_foldl _ ?_ _ _).trans ?_)
    | intro _
    | split

@[simp] theorem vRst_ringReport (s : State) (r : Report) :
    (ringReport s r).vRst = s.vRst := by simp [ringReport]

@[simp] theorem vRst_drainFifo (s : State) :
    (drainFifo s).vRst = s.vRst := by simp [drainFifo]

theorem vRst_def (s : State) : s.vRst = s.rst := rfl

@[simp] theorem mgCount_rst (s : State) (i : Nat) :
    (mgCount s i).rst = s.rst := (vRst_def _).symm.trans ((vRst_mgCount ..).trans (vRst_def _))

@[simp] theorem restage_rst (s : State) (c : Nat) :
    (restage s c).rst = s.rst := (vRst_def _).symm.trans ((vRst_restage ..).trans (vRst_def _))

@[simp] theorem renewKeys_rst (s : State) :
    (renewKeys s).rst = s.rst := (vRst_def _).symm.trans ((vRst_renewKeys ..).trans (vRst_def _))

@[simp] theorem drainFifo_rst (s : State) :
    (drainFifo s).rst = s.rst := (vRst_def _).symm.trans ((vRst_drainFifo ..).trans (vRst_def _))

/-! ### The supply state -/

/-- The supply state of a state, as a function of it. -/
def State.vSupply (s : State) : Supply := s.supply

@[simp] theorem vSupply_mk (x0 : List Instr) (x1 : Nat) (x2 : Nat) (x3 : List Byte) (x4 : Bool) (x5 : NMap Byte) (x6 : List
      (Nat × Nat)) (x7 : NMap W64) (x8 : W64) (x9 : NMap Pos) (x10 : NMap Stall) (x11 : NMap LoftLine) (x12 : List Msg) (x13
      : NMap Ctx) (x14 : NMap Rec) (x15 : Yardm) (x16 : Hbm) (x17 : Granary) (x18 : NMap Drover) (x19 : List Report) (x20 :
      Rhoa) (x21 : Gateh) (x22 : Daybk) (x23 : Fuses) (x24 : Tack) (x25 : Smithy) (x26 : Rst) (x27 : Supply) (x28 : Ostler)
      (x29 : Disc) (x30 : Tap) (x31 : List (Transport × List Byte)) (x32 : List (List Byte)) :
    (State.mk x0 x1 x2 x3 x4 x5 x6 x7 x8 x9 x10 x11 x12 x13 x14 x15 x16 x17 x18 x19 x20 x21 x22 x23 x24 x25 x26 x27 x28 x29
      x30 x31 x32).vSupply = x27 := (rfl)

theorem vSupply_eta (s : State) : s.supply = s.vSupply := (rfl)

@[simp] theorem vSupply_ite (c : Prop) [Decidable c] (a b : State) : (if c then a else b).vSupply = if c then a.vSupply else
      b.vSupply := by
  split <;> rfl

@[simp] theorem vSupply_csrPut (s : State) (off : Nat) (v : W64) :
    (csrPut s off v).vSupply = s.vSupply := by simp [csrPut, vSupply_eta]

@[simp] theorem vSupply_csrSetField (s : State) (off hi lo v : Nat) :
    (csrSetField s off hi lo v).vSupply = s.vSupply := by simp [csrSetField]

@[simp] theorem vSupply_bumpBy (s : State) (off wrapOff wrapBit n : Nat) :
    (bumpBy s off wrapOff wrapBit n).vSupply = s.vSupply := by simp [bumpBy]

@[simp] theorem vSupply_bump (s : State) (off wrapOff wrapBit : Nat) :
    (bump s off wrapOff wrapBit).vSupply = s.vSupply := by simp [bump]

@[simp] theorem vSupply_pwrCount (s : State) (i : Nat) :
    (pwrCount s i).vSupply = s.vSupply := by simp [pwrCount]

@[simp] theorem vSupply_dbStore (s : State) (type c : Nat) (payload : List Byte) :
    (dbStore s type c payload).vSupply = s.vSupply := by simp [dbStore, vSupply_eta]

@[simp] theorem vSupply_dbAppend (s : State) (type c : Nat) (payload : List Byte) :
    (dbAppend s type c payload).vSupply = s.vSupply := by simp [dbAppend, vSupply_eta]

@[simp] theorem vSupply_dbRail (s : State) (code pos value : Nat) :
    (dbRail s code pos value).vSupply = s.vSupply := by simp [dbRail]

@[simp] theorem vSupply_countStretch (s : State) (p : Nat) :
    (countStretch s p).vSupply = s.vSupply := by simp [countStretch, vSupply_eta]

theorem vSupply_def (s : State) : s.vSupply = s.supply := rfl

@[simp] theorem pwrCount_supply (s : State) (i : Nat) :
    (pwrCount s i).supply = s.supply := (vSupply_def _).symm.trans ((vSupply_pwrCount ..).trans (vSupply_def _))

@[simp] theorem dbRail_supply (s : State) (code pos value : Nat) :
    (dbRail s code pos value).supply = s.supply := (vSupply_def _).symm.trans ((vSupply_dbRail ..).trans (vSupply_def _))

@[simp] theorem countStretch_supply (s : State) (p : Nat) :
    (countStretch s p).supply = s.supply := (vSupply_def _).symm.trans ((vSupply_countStretch ..).trans (vSupply_def _))

/-! ### The Ostler -/

/-- The Ostler of a state, as a function of it. -/
def State.vOstler (s : State) : Ostler := s.ostler

@[simp] theorem vOstler_mk (x0 : List Instr) (x1 : Nat) (x2 : Nat) (x3 : List Byte) (x4 : Bool) (x5 : NMap Byte) (x6 : List
      (Nat × Nat)) (x7 : NMap W64) (x8 : W64) (x9 : NMap Pos) (x10 : NMap Stall) (x11 : NMap LoftLine) (x12 : List Msg) (x13
      : NMap Ctx) (x14 : NMap Rec) (x15 : Yardm) (x16 : Hbm) (x17 : Granary) (x18 : NMap Drover) (x19 : List Report) (x20 :
      Rhoa) (x21 : Gateh) (x22 : Daybk) (x23 : Fuses) (x24 : Tack) (x25 : Smithy) (x26 : Rst) (x27 : Supply) (x28 : Ostler)
      (x29 : Disc) (x30 : Tap) (x31 : List (Transport × List Byte)) (x32 : List (List Byte)) :
    (State.mk x0 x1 x2 x3 x4 x5 x6 x7 x8 x9 x10 x11 x12 x13 x14 x15 x16 x17 x18 x19 x20 x21 x22 x23 x24 x25 x26 x27 x28 x29
      x30 x31 x32).vOstler = x28 := (rfl)

theorem vOstler_eta (s : State) : s.ostler = s.vOstler := (rfl)

@[simp] theorem vOstler_ite (c : Prop) [Decidable c] (a b : State) : (if c then a else b).vOstler = if c then a.vOstler else
      b.vOstler := by
  split <;> rfl

@[simp] theorem vOstler_foldl {β : Type} (g : State → β → State) (h : ∀ s b, (g s b).vOstler = s.vOstler) (l : List β) (s :
      State) :
    (l.foldl g s).vOstler = s.vOstler := by
  induction l generalizing s with
  | nil => rfl
  | cons b l ih => exact (ih (g s b)).trans (h s b)

@[simp] theorem vOstler_csrPut (s : State) (off : Nat) (v : W64) :
    (csrPut s off v).vOstler = s.vOstler := by simp [csrPut, vOstler_eta]

@[simp] theorem vOstler_csrSetField (s : State) (off hi lo v : Nat) :
    (csrSetField s off hi lo v).vOstler = s.vOstler := by simp [csrSetField]

@[simp] theorem vOstler_bumpBy (s : State) (off wrapOff wrapBit n : Nat) :
    (bumpBy s off wrapOff wrapBit n).vOstler = s.vOstler := by simp [bumpBy]

@[simp] theorem vOstler_rlCount (s : State) (n i k : Nat) :
    (rlCount s n i k).vOstler = s.vOstler := by simp [rlCount]

@[simp] theorem vOstler_modPort (s : State) (n : Nat) (f : Port → Port) :
    (modPort s n f).vOstler = s.vOstler := by simp [modPort, vOstler_eta]

@[simp] theorem vOstler_wireFlit (s : State) (n : Nat) (b : List Byte) (seq : BitVec 16) :
    (wireFlit s n b seq).vOstler = s.vOstler := by simp [wireFlit, vOstler_eta]

theorem vOstler_sendOne (s t : State) (n : Nat) (h : sendOne s n = some t) : t.vOstler = s.vOstler := by
  unfold sendOne at h
  dsimp only at h
  split at h
  · cases h
  · split at h
    · cases h
    · cases h
      simp

@[simp] theorem vOstler_pump (k : Nat) (s : State) (n : Nat) : (pump k s n).vOstler = s.vOstler := by
  induction k generalizing s with
  | zero => rfl
  | succ k ih =>
    unfold pump
    split
    · rw [ih]
      exact vOstler_sendOne _ _ _ ‹_›
    · rfl

@[simp] theorem vOstler_pumpPort (s : State) (n : Nat) : (pumpPort s n).vOstler = s.vOstler := by simp [pumpPort]

@[simp] theorem vOstler_sendFlit (s : State) (via : Nat) (b : List Byte) :
    (sendFlit s via b).vOstler = s.vOstler := by
  unfold sendFlit
  repeat' split
  all_goals simp [vOstler_eta]

@[simp] theorem vOstler_modTack (s : State) (f : Tack → Tack) :
    (modTack s f).vOstler = s.vOstler := by simp [modTack, vOstler_eta]

@[simp] theorem vOstler_deriveFwKeys (s : State) :
    (deriveFwKeys s).vOstler = s.vOstler := by simp [deriveFwKeys]

@[simp] theorem vOstler_issueCert (s : State) :
    (issueCert s).vOstler = s.vOstler := by simp [issueCert]

@[simp] theorem vOstler_modRst (s : State) (f : Rst → Rst) :
    (modRst s f).vOstler = s.vOstler := by simp [modRst, vOstler_eta]

@[simp] theorem vOstler_answer (s : State) (via : Transport) (type : Nat) (m : List Byte) :
    (answer s via type m).vOstler = s.vOstler := by
  unfold answer
  split <;> simp [vOstler_eta]

@[simp] theorem vOstler_mgCount (s : State) (i : Nat) :
    (mgCount s i).vOstler = s.vOstler := by simp [mgCount]

@[simp] theorem vOstler_restage (s : State) (c : Nat) :
    (restage s c).vOstler = s.vOstler := by simp [restage, vOstler_eta]

@[simp] theorem vOstler_renewKeys (s : State) :
    (renewKeys s).vOstler = s.vOstler := by simp [renewKeys]

@[simp] theorem vOstler_mgSend (s : State) (via : Transport) (secured : Bool) (m : List Byte) :
    (mgSend s via secured m).vOstler = s.vOstler := by simp [mgSend]

@[simp] theorem vOstler_sendReport (s : State) (cls : Nat) (rec_ : List Byte) :
    (sendReport s cls rec_).vOstler = s.vOstler := by
  unfold sendReport
  repeat' first
    | (simp [vOstler_eta]; done)
    | (with_reducible refine (vOstler_foldl _ ?_ _ _).trans ?_)
    | intro _
    | split

@[simp] theorem vOstler_driveFaultN (s : State) :
    (driveFaultN s).vOstler = s.vOstler := by simp [driveFaultN]

@[simp] theorem vOstler_raiseAlert (s : State) (cls : Nat) :
    (raiseAlert s cls).vOstler = s.vOstler := by simp [raiseAlert]

theorem vOstler_def (s : State) : s.vOstler = s.ostler := rfl

@[simp] theorem mgCount_ostler (s : State) (i : Nat) :
    (mgCount s i).ostler = s.ostler := (vOstler_def _).symm.trans ((vOstler_mgCount ..).trans (vOstler_def _))

@[simp] theorem restage_ostler (s : State) (c : Nat) :
    (restage s c).ostler = s.ostler := (vOstler_def _).symm.trans ((vOstler_restage ..).trans (vOstler_def _))

@[simp] theorem renewKeys_ostler (s : State) :
    (renewKeys s).ostler = s.ostler := (vOstler_def _).symm.trans ((vOstler_renewKeys ..).trans (vOstler_def _))

@[simp] theorem sendReport_ostler (s : State) (cls : Nat) (rec_ : List Byte) :
    (sendReport s cls rec_).ostler = s.ostler := (vOstler_def _).symm.trans ((vOstler_sendReport ..).trans (vOstler_def _))

@[simp] theorem raiseAlert_ostler (s : State) (cls : Nat) :
    (raiseAlert s cls).ostler = s.ostler := (vOstler_def _).symm.trans ((vOstler_raiseAlert ..).trans (vOstler_def _))

/-! ### The messages sent -/

/-- The messages sent of a state, as a function of it. -/
def State.vSent (s : State) : List (Transport × List Byte) := s.sent

@[simp] theorem vSent_mk (x0 : List Instr) (x1 : Nat) (x2 : Nat) (x3 : List Byte) (x4 : Bool) (x5 : NMap Byte) (x6 : List
      (Nat × Nat)) (x7 : NMap W64) (x8 : W64) (x9 : NMap Pos) (x10 : NMap Stall) (x11 : NMap LoftLine) (x12 : List Msg) (x13
      : NMap Ctx) (x14 : NMap Rec) (x15 : Yardm) (x16 : Hbm) (x17 : Granary) (x18 : NMap Drover) (x19 : List Report) (x20 :
      Rhoa) (x21 : Gateh) (x22 : Daybk) (x23 : Fuses) (x24 : Tack) (x25 : Smithy) (x26 : Rst) (x27 : Supply) (x28 : Ostler)
      (x29 : Disc) (x30 : Tap) (x31 : List (Transport × List Byte)) (x32 : List (List Byte)) :
    (State.mk x0 x1 x2 x3 x4 x5 x6 x7 x8 x9 x10 x11 x12 x13 x14 x15 x16 x17 x18 x19 x20 x21 x22 x23 x24 x25 x26 x27 x28 x29
      x30 x31 x32).vSent = x31 := (rfl)

theorem vSent_eta (s : State) : s.sent = s.vSent := (rfl)

@[simp] theorem vSent_ite (c : Prop) [Decidable c] (a b : State) : (if c then a else b).vSent = if c then a.vSent else
      b.vSent := by
  split <;> rfl

@[simp] theorem vSent_csrPut (s : State) (off : Nat) (v : W64) :
    (csrPut s off v).vSent = s.vSent := by simp [csrPut, vSent_eta]

@[simp] theorem vSent_csrSetField (s : State) (off hi lo v : Nat) :
    (csrSetField s off hi lo v).vSent = s.vSent := by simp [csrSetField]

@[simp] theorem vSent_modRst (s : State) (f : Rst → Rst) :
    (modRst s f).vSent = s.vSent := by simp [modRst, vSent_eta]

@[simp] theorem vSent_mgCount (s : State) (i : Nat) :
    (mgCount s i).vSent = s.vSent := by simp [mgCount]

@[simp] theorem vSent_driveFaultN (s : State) :
    (driveFaultN s).vSent = s.vSent := by simp [driveFaultN]

@[simp] theorem vSent_raiseAlert (s : State) (cls : Nat) :
    (raiseAlert s cls).vSent = s.vSent := by simp [raiseAlert]

theorem vSent_def (s : State) : s.vSent = s.sent := rfl

@[simp] theorem mgCount_sent (s : State) (i : Nat) :
    (mgCount s i).sent = s.sent := (vSent_def _).symm.trans ((vSent_mgCount ..).trans (vSent_def _))

@[simp] theorem raiseAlert_sent (s : State) (cls : Nat) :
    (raiseAlert s cls).sent = s.sent := (vSent_def _).symm.trans ((vSent_raiseAlert ..).trans (vSent_def _))

/-! ### The positions -/

/-- The positions of a state, as a function of it. -/
def State.vPositions (s : State) : NMap Pos := s.positions

@[simp] theorem vPositions_mk (x0 : List Instr) (x1 : Nat) (x2 : Nat) (x3 : List Byte) (x4 : Bool) (x5 : NMap Byte) (x6 :
      List (Nat × Nat)) (x7 : NMap W64) (x8 : W64) (x9 : NMap Pos) (x10 : NMap Stall) (x11 : NMap LoftLine) (x12 : List Msg)
      (x13 : NMap Ctx) (x14 : NMap Rec) (x15 : Yardm) (x16 : Hbm) (x17 : Granary) (x18 : NMap Drover) (x19 : List Report)
      (x20 : Rhoa) (x21 : Gateh) (x22 : Daybk) (x23 : Fuses) (x24 : Tack) (x25 : Smithy) (x26 : Rst) (x27 : Supply) (x28 :
      Ostler) (x29 : Disc) (x30 : Tap) (x31 : List (Transport × List Byte)) (x32 : List (List Byte)) :
    (State.mk x0 x1 x2 x3 x4 x5 x6 x7 x8 x9 x10 x11 x12 x13 x14 x15 x16 x17 x18 x19 x20 x21 x22 x23 x24 x25 x26 x27 x28 x29
      x30 x31 x32).vPositions = x9 := (rfl)

theorem vPositions_eta (s : State) : s.positions = s.vPositions := (rfl)

@[simp] theorem vPositions_ite (c : Prop) [Decidable c] (a b : State) : (if c then a else b).vPositions = if c then
      a.vPositions else b.vPositions := by
  split <;> rfl

@[simp] theorem vPositions_csrPut (s : State) (off : Nat) (v : W64) :
    (csrPut s off v).vPositions = s.vPositions := by simp [csrPut, vPositions_eta]

@[simp] theorem vPositions_csrSetField (s : State) (off hi lo v : Nat) :
    (csrSetField s off hi lo v).vPositions = s.vPositions := by simp [csrSetField]

@[simp] theorem vPositions_bumpBy (s : State) (off wrapOff wrapBit n : Nat) :
    (bumpBy s off wrapOff wrapBit n).vPositions = s.vPositions := by simp [bumpBy]

@[simp] theorem vPositions_bump (s : State) (off wrapOff wrapBit : Nat) :
    (bump s off wrapOff wrapBit).vPositions = s.vPositions := by simp [bump]

@[simp] theorem vPositions_pwrCount (s : State) (i : Nat) :
    (pwrCount s i).vPositions = s.vPositions := by simp [pwrCount]

@[simp] theorem vPositions_setStall (s : State) (p : Nat) (x : Stall) :
    (setStall s p x).vPositions = s.vPositions := by simp [setStall, vPositions_eta]

@[simp] theorem vPositions_modStall (s : State) (p : Nat) (f : Stall → Stall) :
    (modStall s p f).vPositions = s.vPositions := by simp [modStall]

@[simp] theorem vPositions_readRail (s : State) (rail mv : Nat) :
    (readRail s rail mv).vPositions = s.vPositions := by simp [readRail, vPositions_eta]

@[simp] theorem vPositions_sampleRail (s : State) (mv : Nat) :
    (sampleRail s mv).vPositions = s.vPositions := by simp [sampleRail]

@[simp] theorem vPositions_setIvr (s : State) (p : Nat) :
    (setIvr s p).vPositions = s.vPositions := by simp [setIvr]

theorem vPositions_def (s : State) : s.vPositions = s.positions := rfl

@[simp] theorem position_csrSetField (s : State) (off hi lo v : Nat) (j₀ : Nat) :
    position (csrSetField s off hi lo v) j₀ = position s j₀ := congrArg (nget ({} : Pos) · j₀) ((vPositions_def _).symm.trans
      ((vPositions_csrSetField ..).trans (vPositions_def _)))

@[simp] theorem pwrCount_positions (s : State) (i : Nat) :
    (pwrCount s i).positions = s.positions := (vPositions_def _).symm.trans ((vPositions_pwrCount ..).trans (vPositions_def _))

@[simp] theorem position_modStall (s : State) (p : Nat) (f : Stall → Stall) (j₀ : Nat) :
    position (modStall s p f) j₀ = position s j₀ := congrArg (nget ({} : Pos) · j₀) ((vPositions_def _).symm.trans
      ((vPositions_modStall ..).trans (vPositions_def _)))

@[simp] theorem readRail_positions (s : State) (rail mv : Nat) :
    (readRail s rail mv).positions = s.positions := (vPositions_def _).symm.trans ((vPositions_readRail ..).trans
      (vPositions_def _))

@[simp] theorem sampleRail_positions (s : State) (mv : Nat) :
    (sampleRail s mv).positions = s.positions := (vPositions_def _).symm.trans ((vPositions_sampleRail ..).trans
      (vPositions_def _))

@[simp] theorem position_setIvr (s : State) (p : Nat) (j₀ : Nat) :
    position (setIvr s p) j₀ = position s j₀ := congrArg (nget ({} : Pos) · j₀) ((vPositions_def _).symm.trans
      ((vPositions_setIvr ..).trans (vPositions_def _)))

end Sys2Proof.Machine
end

section
/-!
PROOFS. Fields of a register, the commit of an epoch, fault reports, supply episodes, the Daybook, firmware and block resets.
-/

namespace Sys2Proof.Machine

/-! ### Fields of a register (R8) -/

theorem testBit_bitsOf (x hi lo i : Nat) : (bitsOf x hi lo).testBit i = (decide (i < hi + 1 - lo) && x.testBit (lo + i)) := by
  rw [bitsOf, Nat.testBit_mod_two_pow, Nat.testBit_div_two_pow, Nat.add_comm i lo]

/-- A value with a field replaced: what lies above it, the field, and what lies below. -/
theorem putBits_eq (x v : Nat) {hi lo : Nat} (h : lo ≤ hi) :
    putBits x hi lo v = 2 ^ lo * (2 ^ (hi + 1 - lo) * (x / 2 ^ (hi + 1)) + v % 2 ^ (hi + 1 - lo)) + x % 2 ^ lo := by
  have upper : x / 2 ^ lo = 2 ^ (hi + 1 - lo) * (x / 2 ^ (hi + 1)) + bitsOf x hi lo := by
    have split_ : (2 : Nat) ^ (hi + 1) = 2 ^ lo * 2 ^ (hi + 1 - lo) := by
      rw [← pow_add]
      congr 1
      omega
    rw [split_, ← Nat.div_div_eq_div_mul, bitsOf, Nat.div_add_mod]
  have whole : x = 2 ^ lo * (x / 2 ^ lo) + x % 2 ^ lo := (Nat.div_add_mod x (2 ^ lo)).symm
  rw [upper, Nat.mul_add] at whole
  unfold putBits
  dsimp only
  rw [Nat.mul_add, Nat.mul_comm (bitsOf x hi lo), Nat.mul_comm (v % _)]
  omega

theorem testBit_putBits (x v i : Nat) {hi lo : Nat} (h : lo ≤ hi) :
    (putBits x hi lo v).testBit i = if lo ≤ i ∧ i ≤ hi then v.testBit (i - lo) else x.testBit i := by
  rw [putBits_eq x v h, Nat.testBit_two_pow_mul_add _ (Nat.mod_lt _ (by positivity))]
  by_cases below : i < lo
  · rw [if_pos below, if_neg (by omega), Nat.testBit_mod_two_pow, decide_eq_true below, Bool.true_and]
  · rw [if_neg below, Nat.testBit_two_pow_mul_add _ (Nat.mod_lt _ (by positivity))]
    by_cases within : i - lo < hi + 1 - lo
    · rw [if_pos within, if_pos (by omega), Nat.testBit_mod_two_pow, decide_eq_true within, Bool.true_and]
    · rw [if_neg within, if_neg (by omega), Nat.testBit_div_two_pow]
      congr 1
      omega

theorem putBits_lt {x n hi lo : Nat} (v : Nat) (h : lo ≤ hi) (hx : x < 2 ^ n) (hn : hi < n) : putBits x hi lo v < 2 ^ n := by
  refine Nat.lt_pow_two_of_testBit _ fun i hi_ => ?_
  rw [testBit_putBits _ _ _ h, if_neg (by omega)]
  exact Nat.testBit_lt_two_pow (hx.trans_le (Nat.pow_le_pow_right two_pos hi_))

/-- Reading the field that was written, or a part of it. -/
theorem bitsOf_putBits_within (x v : Nat) {hi lo a b : Nat} (h : lo ≤ hi) (hb : lo ≤ b) (hba : b ≤ a) (ha : a ≤ hi) :
    bitsOf (putBits x hi lo v) a b = bitsOf v (a - lo) (b - lo) := by
  refine Nat.eq_of_testBit_eq fun i => ?_
  rw [testBit_bitsOf, testBit_bitsOf, testBit_putBits _ _ _ h]
  by_cases hi_ : i < a + 1 - b
  · rw [if_pos (by omega), decide_eq_true hi_, decide_eq_true (by omega : i < a - lo + 1 - (b - lo))]
    congr 2
    omega
  · rw [decide_eq_false hi_, decide_eq_false (by omega : ¬i < a - lo + 1 - (b - lo)), Bool.false_and, Bool.false_and]

theorem bitsOf_putBits_same (x v : Nat) {hi lo : Nat} (h : lo ≤ hi) : bitsOf (putBits x hi lo v) hi lo = v % 2 ^ (hi + 1 - lo) := by
  rw [bitsOf_putBits_within x v h le_rfl h le_rfl, bitsOf, Nat.sub_self, Nat.pow_zero, Nat.div_one]
  congr 2
  omega

/-- Reading a field that lies apart from the one that was written. -/
theorem bitsOf_putBits_apart (x v : Nat) {hi lo a b : Nat} (h : lo ≤ hi) (apart : a < lo ∨ hi < b) :
    bitsOf (putBits x hi lo v) a b = bitsOf x a b := by
  refine Nat.eq_of_testBit_eq fun i => ?_
  rw [testBit_bitsOf, testBit_bitsOf, testBit_putBits _ _ _ h]
  by_cases hi_ : i < a + 1 - b
  · rw [if_neg (by omega)]
  · rw [decide_eq_false hi_, Bool.false_and, Bool.false_and]

theorem toNat_csrSetField (s : State) (off v : Nat) {hi lo : Nat} (h : lo ≤ hi) (h64 : hi < 64) :
    (csrGet (csrSetField s off hi lo v) off).toNat = putBits (csrGet s off).toNat hi lo v := by
  rw [csrGet_csrSetField_same, BitVec.toNat_ofNat]
  exact Nat.mod_eq_of_lt (putBits_lt v h (csrGet s off).isLt h64)

section

variable (s : State) (off v : Nat) {hi lo a b : Nat}

theorem csrField_set_same (h : lo ≤ hi) (h64 : hi < 64) :
    csrField (csrSetField s off hi lo v) off hi lo = v % 2 ^ (hi + 1 - lo) := by
  rw [csrField, toNat_csrSetField s off v h h64, bitsOf_putBits_same _ _ h]

theorem csrField_set_within (h : lo ≤ hi) (h64 : hi < 64) (hb : lo ≤ b) (hba : b ≤ a) (ha : a ≤ hi) :
    csrField (csrSetField s off hi lo v) off a b = bitsOf v (a - lo) (b - lo) := by
  rw [csrField, toNat_csrSetField s off v h h64, bitsOf_putBits_within _ _ h hb hba ha]

theorem csrField_set_apart (h : lo ≤ hi) (h64 : hi < 64) (apart : a < lo ∨ hi < b) :
    csrField (csrSetField s off hi lo v) off a b = csrField s off a b := by
  rw [csrField, toNat_csrSetField s off v h h64, bitsOf_putBits_apart _ _ h apart, csrField]

theorem csrField_congr {s u : State} {o : Nat} (h : csrGet u o = csrGet s o) (a b : Nat) : csrField u o a b = csrField s o a b := by
  rw [csrField, h, csrField]

theorem csrBit_congr {s u : State} {o : Nat} (h : csrGet u o = csrGet s o) (i : Nat) : csrBit u o i = csrBit s o i := by
  rw [csrBit, csrField_congr h, csrBit]

theorem csrBit_set_same {i : Nat} (h64 : i < 64) : csrBit (csrSetField s off i i v) off i = decide (v % 2 = 1) := by
  rw [csrBit, csrField_set_same s off v le_rfl h64]
  simp

theorem csrBit_set_apart {i : Nat} (h : lo ≤ hi) (h64 : hi < 64) (apart : i < lo ∨ hi < i) :
    csrBit (csrSetField s off hi lo v) off i = csrBit s off i := by
  rw [csrBit, csrField_set_apart s off v h h64 apart, csrBit]

/-- A counter counted up by one, modulo 2^64. -/
theorem csrGet_bump_same (s : State) {o w : Nat} (b : Nat) (h : o ≠ w) : csrGet (bump s o w b) o = csrGet s o + 1 := by
  have counted : BitVec.ofNat 64 ((csrGet s o).toNat + 1) = csrGet s o + 1 := by
    rw [BitVec.ofNat_add, BitVec.ofNat_toNat, BitVec.setWidth_eq]
    rfl
  unfold bump bumpBy
  rw [if_neg Nat.one_ne_zero]
  dsimp only
  split
  · rw [csrGet_csrPut_same, counted]
  · rw [csrGet_csrSetField_other _ h, csrGet_csrPut_same, counted]

end

/-! ### The commit of an epoch (R402) -/

/-- A context's recovery state but for its flows. -/
def noFlows (r : Rec) : Rec := { r with flows := [] }

theorem fields_of_noFlows {a b : Rec} (h : noFlows a = noFlows b) : a.commitNo = b.commitNo ∧ a.closed = b.closed ∧ a.opened = b.opened ∧
    a.chks = b.chks ∧ a.durable = b.durable ∧ a.lastStep = b.lastStep :=
  ⟨(congrArg Rec.commitNo h :), (congrArg Rec.closed h :), (congrArg Rec.opened h :), (congrArg Rec.chks h :), (congrArg Rec.durable h :), (congrArg Rec.lastStep h :)⟩

theorem noFlows_modFlow (s : State) (c dst job d : Nat) (g : Flow → Flow) : noFlows (recOf (modFlow s c dst job g) d) = noFlows (recOf s d) := by
  unfold modFlow
  by_cases h : d = c
  · subst h
    rw [recOf_modRec_same]
    rfl
  · rw [recOf_modRec_other _ h]

theorem noFlows_countDseq (s : State) (dst job d : Nat) : noFlows (recOf (countDseq s dst job) d) = noFlows (recOf s d) := by
  have counted := nget_map_values (d := ({} : Rec)) (g := fun r => { r with flows := r.flows.map fun f =>
    if f.dst = dst && f.job = job then { f with dseq := (f.dseq + 1) % 2 ^ 16 } else f }) rfl s.recs d
  exact (congrArg noFlows counted :)

theorem noFlows_sendCommit (s : State) (c dst job epoch d : Nat) : noFlows (recOf (sendCommit s c dst job epoch) d) = noFlows (recOf s d) := by
  unfold sendCommit
  dsimp only
  split
  · rw [noFlows_modFlow, noFlows_countDseq, recOf_sendFlit]
  · rfl

theorem noFlows_sendCommits (s : State) (c epoch d : Nat) : noFlows (recOf (sendCommits s c epoch) d) = noFlows (recOf s d) := by
  unfold sendCommits
  generalize (recOf s c).flows = fs
  induction fs generalizing s with
  | nil => rfl
  | cons f fs ih => exact (ih _).trans (noFlows_sendCommit ..)

/-- The record of a context whose epoch commits, but for its flows. -/
def committed (e : Nat) (r : Rec) : Rec :=
  { r with durable := r.durable.filter (fun d => d.2.2 ≠ e), chks := r.chks.filter (fun k => k.epoch ≠ e), commitNo := e, closed := none }

/-- The state after the commit of an epoch, before the last step's epoch is closed in its turn. -/
def commitRun (s : State) (c e : Nat) : State :=
  let s1 := ((recOf s c).durable.filter fun d => d.2.2 = e).foldl (fun s d => flipMap s c d.1 d.2.1) s
  dbEpoch (sendCommits (recCount (modRec s1 c (committed e)) 6) c e) c e 2 0

theorem noFlows_commitRun (s : State) (c e : Nat) : noFlows (recOf (commitRun s c e) c) = noFlows (committed e (recOf s c)) := by
  unfold commitRun
  dsimp only
  rw [recOf_dbEpoch, noFlows_sendCommits, recOf_recCount, recOf_modRec_same, recOf_foldl]
  exact fun s d => recOf_flipMap ..

theorem stalls_commitRun (s : State) (c e : Nat) : (commitRun s c e).stalls = s.stalls ∧ (commitRun s c e).ctxs = s.ctxs := by
  unfold commitRun
  constructor <;> simp

/-- Settles O28: the record of the context is read after the commit; with a trigger pending the commit's condition fails. -/
theorem epochCommitsWhenClosed : Obligations.EpochCommitsWhenClosed := by
  refine fun s c e closed => ⟨fun can last => ?_, fun pending => ?_⟩
  · obtain ⟨number, none_, opened, chks, durable, last1⟩ := fields_of_noFlows (noFlows_commitRun s c e)
    obtain ⟨stalls, ctxs⟩ := stalls_commitRun s c e
    have stays : ¬(recOf (commitRun s c e) c).lastStep = true := by
      rw [last1]
      exact fun h => Bool.false_ne_true (last.symm.trans h)
    refine ⟨commitRun s c e, congrArg Host.Outcome.next ?_, number, none_, opened, chks, durable, stalls, ctxs⟩
    rw [closed]
    dsimp only
    rw [can, Bool.not_true, if_neg Bool.false_ne_true]
    exact if_neg stays
  · refine ⟨_, rfl, ?_⟩
    have blocked : canCommit s c e = false := by simp [canCommit, pending]
    rw [closed]
    dsimp only
    rw [blocked, Bool.not_false, if_pos rfl]

/-- A command that answers a state with a property. -/
theorem completes_of {i : Instr} {s u : State} {P : State → Prop} (run : exec i s = .next u) (h : P u) : Completes i s P := ⟨u, run, h⟩

/-! ### Fault reports and the Ostler's ring (R476 to R479) -/

theorem csrGet_mgCount_other (s : State) {i off : Nat} (h : off ≠ 0x0B00100 + 8 * i) : csrGet (mgCount s i) off = csrGet s off := by
  unfold mgCount
  dsimp only
  split
  · rfl
  · exact csrGet_csrPut_other s h _

theorem csrGet_mgCount_same (s : State) (i : Nat) : csrGet (mgCount s i) (0x0B00100 + 8 * i) =
    if csrGet s (0x0B00100 + 8 * i) = BitVec.allOnes 64 then BitVec.allOnes 64 else csrGet s (0x0B00100 + 8 * i) + 1 := by
  unfold mgCount
  dsimp only
  split
  · assumption
  · exact csrGet_csrPut_same ..

/-- A property that a fold's every step keeps. -/
theorem foldl_keeps {α β γ : Type} (f : α → γ) {g : α → β → α} (h : ∀ a b, f (g a b) = f a) (l : List β) (a : α) :
    f (l.foldl g a) = f a := by
  induction l generalizing a with
  | nil => rfl
  | cons b l ih => exact (ih _).trans (h a b)

/-- An answer counts in no register but the link's (R471). -/
theorem csrGet_answer (s : State) {off : Nat} (h : off < 0x0700000 ∨ 0x0740000 ≤ off) (via : Transport) (type : Nat) (m : List Byte) :
    csrGet (answer s via type m) off = csrGet s off := by
  unfold answer
  split
  · exact csrGet_congr (by rfl) off
  · exact (foldl_keeps (csrGet · off) (fun s k => csrGet_sendFlit s h (by decide) _) _ _).trans (csrGet_congr (by rfl) off)
  · exact csrGet_congr (by rfl) off

theorem csrGet_sendReport (s : State) (cls : Nat) (r : List Byte) : csrGet (sendReport s cls r) 0x0B00010 = csrGet s 0x0B00010 := by
  unfold sendReport
  refine foldl_keeps (csrGet · 0x0B00010) (fun s e => ?_) _ s
  split
  · dsimp only
    split
    · rfl
    · rw [csrGet_mgCount_other _ (by decide), mgSend, csrGet_answer _ (by decide)]
      split <;> rfl
  · rfl

theorem csrGet_ringReport (s : State) (r : Report) : csrGet (ringReport s r) 0x0B00010 = csrGet s 0x0B00010 := by
  unfold ringReport
  dsimp only
  rw [csrGet_sendReport, csrGet_congr (modOstler_csr ..)]

theorem csrGet_drainFifo (s : State) : csrGet (drainFifo s) 0x0B00010 = csrGet s 0x0B00010 := by
  unfold drainFifo
  split
  · rfl
  · exact (foldl_keeps (csrGet · 0x0B00010) csrGet_ringReport _ _).trans (csrGet_congr (modOstler_csr ..) _)

/-- What the Ostler does with a report that it takes: the FIFO, or the count of those lost. -/
def takenIn (s : State) (r : Report) : State :=
  if 256 ≤ s.ostler.fifo.length then mgCount s 0 else drainFifo (modOstler s fun o => { o with fifo := o.fifo ++ [r] })

theorem csrGet_takenIn (s : State) (r : Report) : csrGet (takenIn s r) 0x0B00010 = csrGet s 0x0B00010 := by
  unfold takenIn
  split
  · exact csrGet_mgCount_other s (by decide)
  · rw [csrGet_drainFifo, csrGet_congr (modOstler_csr ..)]

theorem rst_takenIn (s : State) (r : Report) : (takenIn s r).rst = s.rst := by
  unfold takenIn
  split <;> simp

theorem reports_takenIn (s : State) (r : Report) : (takenIn s r).reports = s.reports := by
  unfold takenIn
  split <;> simp

/-- A class whose mask bit is set raises its alert and takes FAULT_N low (R479). -/
theorem raiseAlert_raised {s : State} {cls : Nat} (low : 1 ≤ cls) (high : cls ≤ 10) (mask : csrBit s 0x0B00018 cls = true) :
    csrBit (raiseAlert s cls) 0x0B00010 cls = true ∧ (raiseAlert s cls).rst.faultN = false := by
  have raised : csrBit (csrSetField s 0x0B00010 cls cls 1) 0x0B00010 cls = true := csrBit_set_same s _ 1 (by omega)
  have cond : (decide (1 ≤ cls) && decide (cls ≤ 10) && csrBit s 0x0B00018 cls) = true := by simp [low, high, mask]
  rw [raiseAlert, if_pos cond]
  refine ⟨raised, ?_⟩
  have some_ : csrField (csrSetField s 0x0B00010 cls cls 1) 0x0B00010 10 1 ≠ 0 := by
    intro none_
    have bit : (csrField (csrSetField s 0x0B00010 cls cls 1) 0x0B00010 10 1).testBit (cls - 1) = true := by
      rw [csrField, testBit_bitsOf, decide_eq_true (by omega), Bool.true_and, Nat.add_sub_cancel' low]
      rw [csrBit, csrField, decide_eq_true_iff] at raised
      have := testBit_bitsOf (BitVec.toNat (csrGet (csrSetField s 0x0B00010 cls cls 1) 0x0B00010)) cls cls 0
      rw [raised] at this
      simpa using this.symm
    rw [none_, Nat.zero_testBit] at bit
    exact Bool.false_ne_true bit
  rw [driveFaultN, modRst_rst]
  exact decide_eq_false some_

theorem raiseAlert_masked {s : State} {cls : Nat} (h : csrBit s 0x0B00018 cls = false ∨ cls = 0 ∨ 10 < cls) : raiseAlert s cls = s := by
  refine if_neg ?_
  simp only [Bool.and_eq_true, decide_eq_true_eq, Bool.not_eq_true, not_and]
  intro above
  obtain mask | low | high := h
  · exact mask
  · omega
  · omega

theorem csrGet_raiseAlert_other {s : State} {off : Nat} (cls : Nat) (h : off ≠ 0x0B00010) : csrGet (raiseAlert s cls) off = csrGet s off := by
  unfold raiseAlert
  split
  · exact (csrGet_congr (modRst_csr ..) off).trans (csrGet_csrSetField_other _ h ..)
  · rfl

/-- Settles O57. -/
theorem faultReportsReachOstler : Obligations.FaultReportsReachOstler := by
  refine fun s i => ⟨fun none_ => ?_, fun r found => ⟨fun later => ?_, fun next => ?_⟩⟩
  · exact ⟨_, rfl, by rw [none_]⟩
  · exact ⟨_, rfl, by rw [found]; dsimp only; rw [later]; rfl⟩
  · have run : exec (.faultReportIntake i) s =
        .next (takenIn (raiseAlert { s with reports := s.reports.eraseIdx i } (r.code / 256)) r) := by
      refine congrArg Host.Outcome.next ?_
      rw [found]
      dsimp only
      rw [next]
      rfl
    generalize raised : raiseAlert { s with reports := s.reports.eraseIdx i } (r.code / 256) = s1 at run
    have same : s1.ostler = s.ostler ∧ s1.sent = s.sent ∧ s1.reports = s.reports.eraseIdx i := by
      rw [← raised]
      simp
    obtain ⟨ostler, sent, reports⟩ := same
    have lost : csrGet s1 0x0B00100 = csrGet s 0x0B00100 := by
      rw [← raised]
      exact csrGet_raiseAlert_other (s := { s with reports := s.reports.eraseIdx i }) _ (by decide)
    refine ⟨completes_of run ?_, fun low high mask => completes_of run ?_, fun masked => completes_of run ?_,
      fun full => completes_of run ?_, fun room down => completes_of run ?_, fun empty up => completes_of run ?_⟩
    · rw [reports_takenIn, reports]
    · obtain ⟨bit, pin⟩ := raiseAlert_raised (s := { s with reports := s.reports.eraseIdx i }) low high mask
      rw [raised] at bit pin
      rw [csrBit_congr (csrGet_takenIn s1 r), rst_takenIn]
      exact ⟨bit, pin⟩
    · rw [raiseAlert_masked (by exact masked)] at raised
      rw [csrGet_takenIn, rst_takenIn, ← raised]
      exact ⟨rfl, rfl⟩
    · rw [takenIn, ostler, if_pos full, mgCount_ostler, mgCount_sent, csrGet_mgCount_same s1 0, lost]
      exact ⟨ostler, sent, rfl⟩
    · rw [takenIn, ostler, if_neg (Nat.not_le.2 room), drainFifo, modOstler_ostler, ostler, down, Bool.not_false,
        if_pos rfl, modOstler_ostler, ostler]
    · have id' : csrGet (modOstler (modOstler s1 fun o => { o with fifo := o.fifo ++ [r] }) fun o => { o with fifo := [] }) 0x07C0000 =
          csrGet s 0x07C0000 := by
        rw [csrGet_congr (modOstler_csr ..), csrGet_congr (modOstler_csr ..), ← raised]
        exact csrGet_raiseAlert_other (s := { s with reports := s.reports.eraseIdx i }) _ (by decide)
      have record : ∀ seq, ringRecord (modOstler (modOstler s1 fun o => { o with fifo := o.fifo ++ [r] }) fun o => { o with fifo := [] }) seq r =
          ringRecord s seq r := fun seq => by
        rw [ringRecord, deviceId, csrField_congr id']
        rfl
      rw [takenIn, ostler, empty, if_neg (by decide), drainFifo]
      simp only [modOstler_ostler, ostler, up, empty, Bool.not_true, Bool.false_eq_true, if_false, List.nil_append, List.foldl_cons,
        List.foldl_nil, ringReport, sendReport_ostler, record, and_self]

/-- A read of a map that a filter by keys has left. -/
theorem nget_filter_keys {α : Type} (d : α) (P : Nat → Bool) (m : NMap α) {k : Nat} (h : P k = true) :
    nget d (m.filter fun e => P e.1) k = nget d m k := by
  induction m with
  | nil => rfl
  | cons e m ih =>
    obtain ⟨j, v⟩ := e
    rw [List.filter_cons]
    split
    · simp only [nget, ih]
    · next out =>
      rw [ih, nget, if_neg fun hj : j = k => out (hj ▸ h)]

/-! ### Supply and temperature episodes (R463, R464) -/

theorem stall_foldl_modStall (f : Stall → Stall) (idem : ∀ x, f (f x) = f x) (ps : List Nat) (s : State) (p : Nat) :
    stall (ps.foldl (fun s p => modStall s p f) s) p = if p ∈ ps then f (stall s p) else stall s p := by
  induction ps generalizing s with
  | nil => rfl
  | cons q ps ih =>
    rw [List.foldl_cons, ih]
    by_cases h : p = q
    · subst h
      simp [idem]
    · simp [h, stall_modStall_other]

/-- What every powered stall is after a change to each. -/
theorem stall_eachPowered (s : State) (f : Stall → Stall) (idem : ∀ x, f (f x) = f x) (p : Nat) : stall (eachPowered s f) p =
    if p ∈ positionsIn s .enabled ++ positionsIn s .spare then f (stall s p) else stall s p := stall_foldl_modStall f idem _ s p

theorem offReports_supply {off : Nat} (h : 0x0C00000 ≤ off) (h' : off < 0x0D00000) : OffReports off :=
  ⟨by omega, by omega, by omega, by omega⟩

theorem csrGet_countStretch (s : State) {off : Nat} (h : off < 0x1000000) (p : Nat) : csrGet (countStretch s p) off = csrGet s off := by
  unfold countStretch
  dsimp only
  rw [csrGet_csrSetField_other _ (by unfold stallCsr; omega), csrGet_congr (draw_csr ..)]

theorem csrGet_sampleRail_other (s : State) {off : Nat} (h : off ≠ railStatus) (mv : Nat) : csrGet (sampleRail s mv) off = csrGet s off := by
  unfold sampleRail
  dsimp only
  rw [csrGet_csrSetField_other _ h, csrGet_csrSetField_other _ h, csrGet_congr (readRail_csr ..)]

theorem sampleRail_last (s : State) (mv : Nat) : csrField (sampleRail s mv) railStatus 11 0 = min mv 0xFFE := by
  unfold sampleRail
  dsimp only
  rw [csrField_set_apart _ _ _ (by decide) (by decide) (.inl (by decide)), csrField_set_same _ _ _ (by decide) (by decide)]
  exact Nat.mod_eq_of_lt (by omega)

theorem sampleRail_least (s : State) (mv : Nat) :
    csrField (sampleRail s mv) railStatus 23 12 = min (min mv 0xFFE) (csrField s railStatus 23 12) := by
  unfold sampleRail
  dsimp only
  rw [csrField_set_same _ _ _ (by decide) (by decide)]
  exact Nat.mod_eq_of_lt (by omega)

theorem csrGet_dbRail (s : State) {off : Nat} (h : OffReports off) (code pos value : Nat) : csrGet (dbRail s code pos value) off = csrGet s off :=
  csrGet_dbAppend s h ..

theorem csrGet_pwrCount_same (s : State) {i : Nat} (h : i < 8) : csrGet (pwrCount s i) (0x0C00200 + 8 * i) = csrGet s (0x0C00200 + 8 * i) + 1 :=
  csrGet_bump_same s _ (by omega)

theorem csrGet_pwrCount_other (s : State) {i off : Nat} (h : off < 0x0C00200) : csrGet (pwrCount s i) off = csrGet s off :=
  csrGet_bump_other s (by omega) (by omega)

/-- The count of brownouts outlives every reset but a power-on (R448). -/
theorem csrGet_assertReset_brownouts (s : State) (bit : Nat) : csrGet (assertReset s 2 bit) 0x0C00210 = csrGet s 0x0C00210 := by
  unfold assertReset
  dsimp only
  rw [if_neg (by decide), if_neg (by decide), markCause, csrGet_csrSetField_other _ (by decide), csrGet_csrSetField_other _ (by decide)]
  refine (nget_filter_keys _ (csrKept 2) _ (by decide)).trans ?_
  exact csrGet_congr (by simp) _

theorem csrGet_requestReset_brownouts (s : State) (bit : Nat) : csrGet (requestReset s 2 bit) 0x0C00210 = csrGet s 0x0C00210 := by
  unfold requestReset
  split
  · exact csrGet_csrSetField_other _ (by decide) ..
  · exact csrGet_assertReset_brownouts s bit

/-- A powered stall's mark of a droop. -/
def markDroop (on : Bool) (x : Stall) : Stall := { x with droop := on }

/-- A droop that begins, as far as its report. -/
def droopReported (s : State) (mv : Nat) : State :=
  reportFault (eachPowered (csrSetField (sampleRail s mv) railStatus 31 31 1) (markDroop true)) 1025 0x0A02 0x3FF 0xFF 0x3FF 0 0xFFF

/-- A state with another supply. -/
def withSupply (s : State) (w : Supply) : State := { s with supply := w }

theorem csrGet_withSupply (s : State) (w : Supply) (off : Nat) : csrGet (withSupply s w) off = csrGet s off := rfl

theorem stall_withSupply (s : State) (w : Supply) (p : Nat) : stall (withSupply s w) p = stall s p := rfl

/-- A droop that begins. -/
def droopBegun (s : State) (mv : Nat) : State :=
  withSupply (dbRail (droopReported s mv) 0x0A02 0x3FF mv) { (droopReported s mv).supply with low := mv }

theorem positionsIn_congr {s u : State} (h : u.positions = s.positions) (st : PosSt) : positionsIn u st = positionsIn s st := by
  rw [positionsIn, h, positionsIn]

theorem csrGet_droopBegun (s : State) (mv : Nat) :
    csrGet (droopBegun s mv) railStatus = csrGet (csrSetField (sampleRail s mv) railStatus 31 31 1) railStatus := by
  rw [droopBegun, csrGet_withSupply, csrGet_dbRail _ (offReports_supply (by decide) (by decide)), droopReported, csrGet_reportFault _ (offReports_supply (by decide) (by decide)), csrGet_congr (eachPowered_csr ..)]

theorem droop_droopBegun (s : State) (mv p : Nat) : (stall (droopBegun s mv) p).droop =
    ((stall s p).droop || decide (p ∈ positionsIn s .enabled ++ positionsIn s .spare)) := by
  have same (st : PosSt) : positionsIn (csrSetField (sampleRail s mv) railStatus 31 31 1) st = positionsIn s st :=
    positionsIn_congr ((csrSetField_positions ..).trans (sampleRail_positions ..)) st
  rw [droopBegun, stall_withSupply, stall_dbRail, droopReported, stall_reportFault, stall_eachPowered _ (markDroop true) fun _ => rfl, same, same, stall_csrSetField, stall_sampleRail]
  split
  · next h => simp [h, markDroop]
  · next h => simp [h]

/-- The stall state when a droop's rail is good again. -/
def droopEnded (s : State) (v : Nat) : State :=
  dbRail (eachPowered (pwrCount (csrSetField (readRail (sampleRail s v) 0 1600) railStatus 31 31 0) 0) (markDroop false)) 0x0A02 0x3FF v

/-- The lengths of the stretch that powered stalls count when a droop ends. -/
def droopCounted (s : State) (v : Nat) : State :=
  (positionsIn (droopEnded s v) .enabled ++ positionsIn (droopEnded s v) .spare).foldl countStretch (droopEnded s v)

theorem csrGet_droopCounted (s : State) {off : Nat} (h : 0x0C00000 ≤ off) (h' : off < 0x0D00000) (v : Nat) :
    csrGet (droopCounted s v) off = csrGet (pwrCount (csrSetField (readRail (sampleRail s v) 0 1600) railStatus 31 31 0) 0) off := by
  rw [droopCounted, foldl_keeps (csrGet · off) (fun u q => csrGet_countStretch u (by omega) q), droopEnded,
    csrGet_dbRail _ (offReports_supply h h'), csrGet_congr (eachPowered_csr ..)]

theorem droop_droopCounted (s : State) (v p : Nat) : (stall (droopCounted s v) p).droop =
    ((stall s p).droop && !decide (p ∈ positionsIn s .enabled ++ positionsIn s .spare)) := by
  have same (st : PosSt) :
      positionsIn (pwrCount (csrSetField (readRail (sampleRail s v) 0 1600) railStatus 31 31 0) 0) st = positionsIn s st :=
    positionsIn_congr (by simp) st
  rw [droopCounted, foldl_keeps (stall · p) (fun u q => stall_countStretch u q p), droopEnded, stall_dbRail,
    stall_eachPowered _ (markDroop false) fun _ => rfl, same, same, stall_pwrCount, stall_csrSetField, stall_readRail, stall_sampleRail]
  split
  · next h => simp [h, markDroop]
  · next h => simp [h]

/-- A brownout of a rail as it is reported, before the reset it asks for. -/
def brownoutReported (s : State) (rail : Fin 7) (mv : Nat) : State :=
  let s1 := pwrCount (if rail = 0 then sampleRail s mv else readRail s rail mv) 2
  if booted s1 then dbRail (reportFault s1 1025 0x0A04 0x3FF 0xFF 0x3FF 0 0xFFF) 0x0A04 0x3FF mv else s1

theorem csrGet_brownoutReported (s : State) (rail : Fin 7) (mv : Nat) :
    csrGet (brownoutReported s rail mv) 0x0C00210 = csrGet s 0x0C00210 + 1 := by
  have counted (u : State) : csrGet (pwrCount u 2) 0x0C00210 = csrGet u 0x0C00210 + 1 := csrGet_pwrCount_same u (by decide)
  have read : csrGet (if rail = 0 then sampleRail s mv else readRail s rail mv) 0x0C00210 = csrGet s 0x0C00210 := by
    split
    · exact csrGet_sampleRail_other s (by decide) mv
    · exact csrGet_congr (readRail_csr ..) _
  unfold brownoutReported
  generalize (if rail = 0 then sampleRail s mv else readRail s rail mv) = u at read
  dsimp only
  split
  · rw [csrGet_dbRail _ (offReports_supply (by decide) (by decide)), csrGet_reportFault _ (offReports_supply (by decide) (by decide)), counted, read]
  · rw [counted, read]

/-- A stall whose temperature stretches its clock. -/
def markHot (s : State) (p : Nat) : State := modStall (csrSetField s railStatus 30 30 1) p fun x => { x with thermal := true }

/-- A stall that becomes too hot. -/
def thermalBegun (s : State) (p temp : Nat) : State :=
  dbRail (withSupply (markHot s p) { (markHot s p).supply with hot := (markHot s p).supply.hot ++ [p] }) 0x0A80 p temp

/-- A stall that has cooled. -/
def thermalEnded (s : State) (p : Nat) : State :=
  let hot := s.supply.hot.filter (· ≠ p)
  let s1 := modStall (pwrCount (withSupply s { s.supply with hot := hot }) 1) p fun x => { x with thermal := false }
  countStretch (csrSetField s1 railStatus 30 30 (if hot = [] then 0 else 1)) p

theorem csrBit_thermalBegun (s : State) (p temp : Nat) : csrBit (thermalBegun s p temp) railStatus 30 = true := by
  have set_ : csrGet (thermalBegun s p temp) railStatus = csrGet (csrSetField s railStatus 30 30 1) railStatus := by
    rw [thermalBegun, csrGet_dbRail _ (offReports_supply (by decide) (by decide)), csrGet_withSupply, markHot, csrGet_congr (modStall_csr ..)]
  rw [csrBit_congr set_, csrBit_set_same _ _ _ (by decide)]
  rfl

theorem stall_thermalBegun (s : State) (p temp q : Nat) : stall (thermalBegun s p temp) q = stall (markHot s p) q := by
  rw [thermalBegun, stall_dbRail, stall_withSupply]

theorem csrBit_thermalEnded (s : State) (p : Nat) :
    csrBit (thermalEnded s p) railStatus 30 = true ↔ s.supply.hot.filter (· ≠ p) ≠ [] := by
  rw [thermalEnded, csrBit_congr (csrGet_countStretch _ (by decide) p), csrBit_set_same _ _ _ (by decide), decide_eq_true_iff]
  split
  · next h => exact iff_of_false (by decide) (not_not.2 h)
  · next h => exact iff_of_true (by decide) h

theorem csrGet_thermalEnded (s : State) (p : Nat) : csrGet (thermalEnded s p) 0x0C00208 = csrGet s 0x0C00208 + 1 := by
  unfold thermalEnded
  dsimp only
  rw [csrGet_countStretch _ (by decide), csrGet_csrSetField_other _ (by decide), csrGet_congr (modStall_csr ..)]
  exact csrGet_pwrCount_same _ (by decide : 1 < 8)

/-- Settles O56, command by command. -/
theorem supplyEpisodesMarkStalls : Obligations.SupplyEpisodesMarkStalls := by
  refine fun s => ⟨fun mv none_ => ?_, fun mv low first up => ?_, fun low none_ => ?_, fun low on => ?_, fun rail mv ns not_ => ?_,
    fun rail mv ns out => ?_, fun p temp none_ => ?_, fun p temp hot cold on => ?_, fun p temp none_ => ?_, fun p temp cool hot => ?_⟩
  · have quiet : (decide (1550 ≤ mv) || csrBit s railStatus 31 || !booted s) = true := by
      obtain h | h | h := none_ <;> simp [h]
    exact ⟨sampleRail s mv, congrArg Host.Outcome.next (if_pos quiet), rfl, sampleRail_last s mv, sampleRail_least s mv⟩
  · have begins : ¬(decide (1550 ≤ mv) || csrBit s railStatus 31 || !booted s) = true := by simp [first, up, low]
    have run : exec (.droopEpisodeStart mv) s = .next (droopBegun s mv) := congrArg Host.Outcome.next (if_neg begins)
    have status := csrGet_droopBegun s mv
    refine completes_of run ⟨?_, ?_, rfl, droop_droopBegun s mv⟩
    · rw [csrBit_congr status, csrBit_set_same _ _ _ (by decide)]
      rfl
    · rw [csrField_congr status, csrField_set_apart _ _ _ (by decide) (by decide) (.inl (by decide)), sampleRail_last]
      exact Nat.min_eq_left (Nat.le_of_lt (Nat.lt_of_lt_of_le low (by decide)))
  · exact ⟨s, congrArg Host.Outcome.next (if_pos (by rw [none_]; rfl)), rfl⟩
  · have run : exec (.droopEpisodeEnd low) s = .next (droopCounted s (min low s.supply.low)) :=
      congrArg Host.Outcome.next (if_neg (by rw [on]; decide))
    have status := csrGet_droopCounted s (off := railStatus) (by decide) (by decide) (min low s.supply.low)
    refine completes_of run ⟨?_, ?_, droop_droopCounted s _⟩
    · rw [csrBit_congr status, csrBit_congr (csrGet_pwrCount_other _ (by decide)), csrBit_set_same _ _ _ (by decide)]
      rfl
    · rw [csrGet_droopCounted s (by decide) (by decide)]
      refine (csrGet_pwrCount_same _ (by decide : 0 < 8)).trans (congrArg (· + 1) ?_)
      rw [csrGet_csrSetField_other _ (by decide), csrGet_congr (readRail_csr ..), csrGet_sampleRail_other _ (by decide)]
  · have run : exec (.brownout rail mv ns) s = .next (if rail = 0 then sampleRail s mv else readRail s rail mv) :=
      congrArg Host.Outcome.next (if_pos (by rw [not_]; rfl))
    refine completes_of run ?_
    split
    · next h =>
      subst h
      exact ⟨rfl, nget_nset_same none s.supply.rails 0 (some mv), fun h => absurd rfl h⟩
    · exact ⟨rfl, nget_nset_same none s.supply.rails rail.val (some mv), fun _ => rfl⟩
  · have run : exec (.brownout rail mv ns) s = .next (requestReset (brownoutReported s rail mv) 2 7) :=
      congrArg Host.Outcome.next (if_neg (by rw [out]; decide))
    exact completes_of run ((csrGet_requestReset_brownouts ..).trans (csrGet_brownoutReported s rail mv))
  · have quiet : (decide (temp ≤ 10500) || s.supply.hot.contains p || !powered s p) = true := by
      obtain h | h | h := none_ <;> simp only [h, decide_true, Bool.true_or, Bool.or_true, Bool.not_false]
    exact ⟨s, congrArg Host.Outcome.next (if_pos quiet), rfl⟩
  · have begins : ¬(decide (temp ≤ 10500) || s.supply.hot.contains p || !powered s p) = true := by
      simp only [cold, on, Nat.not_le.2 hot, decide_false, Bool.or_false, Bool.not_true]
      decide
    have run : exec (.thermalLimit p temp) s = .next (thermalBegun s p temp) := congrArg Host.Outcome.next (if_neg begins)
    refine completes_of run ⟨csrBit_thermalBegun s p temp, ?_, ?_, fun q hq => ?_⟩
    · rw [thermalBegun, dbRail_supply, withSupply, markHot, modStall_supply, csrSetField_supply]
    · rw [stall_thermalBegun, markHot, stall_modStall_same, stall_csrSetField]
    · rw [stall_thermalBegun, markHot, stall_modStall_other _ hq, stall_csrSetField]
  · have quiet : (decide (10000 < temp) || !s.supply.hot.contains p) = true := by
      obtain h | h := none_ <;> simp only [h, decide_true, Bool.true_or, Bool.or_true, Bool.not_false]
    exact ⟨s, congrArg Host.Outcome.next (if_pos quiet), rfl⟩
  · have ends : ¬(decide (10000 < temp) || !s.supply.hot.contains p) = true := by
      simp only [hot, Nat.not_lt.2 cool, decide_false, Bool.not_true]
      decide
    have run : exec (.thermalEpisodeEnd p temp) s = .next (thermalEnded s p) := congrArg Host.Outcome.next (if_neg ends)
    have left : (thermalEnded s p).supply.hot = s.supply.hot.filter (· ≠ p) := by
      rw [thermalEnded, countStretch_supply, csrSetField_supply, modStall_supply, pwrCount_supply, withSupply]
    refine completes_of run ⟨left, ?_, ?_, csrGet_thermalEnded s p⟩
    · rw [thermalEnded, stall_countStretch, stall_csrSetField, stall_modStall_same, stall_pwrCount, stall_withSupply]
    · rw [left]
      exact csrBit_thermalEnded s p

/-- The value that little-endian bytes hold. -/
theorem leNat_leBytes (n x : Nat) : leNat (leBytes n x) = x % 256 ^ n := by
  induction n generalizing x with
  | zero => exact (Nat.mod_one x).symm
  | succ n ih =>
    rw [leBytes, leNat, ih, BitVec.toNat_ofNat, pow_succ' 256 n]
    exact Nat.mod_mul.symm

theorem leBytes_length (n x : Nat) : (leBytes n x).length = n := by
  induction n generalizing x with
  | zero => rfl
  | succ n ih => rw [leBytes, List.length_cons, ih]

/-! ### The Daybook and its replay (R416 to R418) -/

/-- A record's bytes. -/
def dbBytes (t type c : Nat) (payload : List Byte) : List Byte := leBytes 6 t ++ leBytes 1 type ++ leBytes 1 c ++ padTo 24 payload

theorem dbBytes_length (t type c : Nat) (payload : List Byte) : (dbBytes t type c payload).length = 32 := by
  unfold dbBytes padTo
  simp only [List.length_append, leBytes_length, List.length_take, List.length_replicate]
  omega

theorem csrGet_dbStore_head (s : State) (type c : Nat) (payload : List Byte) :
    csrGet (dbStore s type c payload) 0x0D00000 = csrGet s 0x0D00000 + 1 := by
  have counted : BitVec.ofNat 64 ((csrGet s 0x0D00000).toNat + 1) = csrGet s 0x0D00000 + 1 := by
    rw [BitVec.ofNat_add, BitVec.ofNat_toNat, BitVec.setWidth_eq]
    rfl
  exact (csrGet_csrPut_same _ 0x0D00000 _).trans counted

theorem dbRecord_dbStore (s : State) (type c : Nat) (payload : List Byte) :
    dbRecord (dbStore s type c payload) (csrGet s 0x0D00000).toNat = dbBytes (now s) type c payload := by
  have wrote := memRead_memWrite s.hbm.mem (ringAt (csrGet s 0x0D00000).toNat) (dbBytes (now s) type c payload)
  rw [dbBytes_length] at wrote
  exact wrote

theorem mem_dbStore_outside (s : State) (type c : Nat) (payload : List Byte) {a : Nat}
    (h : a < ringAt (csrGet s 0x0D00000).toNat ∨ ringAt (csrGet s 0x0D00000).toNat + 32 ≤ a) :
    nget 0 (dbStore s type c payload).hbm.mem a = nget 0 s.hbm.mem a := by
  rw [← dbBytes_length (now s) type c payload] at h
  exact nget_memWrite_outside s.hbm.mem _ _ h

/-- A write of DB_REPLAY, as a sum of its fields. -/
def replayWord (a k b c : Nat) : Nat := a * 2 ^ 63 + k * 2 ^ 61 + b * 2 ^ 55 + c

section

variable {a k b c : Nat} (ha : a < 2) (hk : k < 4) (hb : b < 64) (hc : c < 2 ^ 25)
include ha hk hb hc

theorem toNat_replayWord : (BitVec.ofNat 64 (replayWord a k b c)).toNat = replayWord a k b c := by
  rw [BitVec.toNat_ofNat, replayWord]
  omega

theorem replayWord_fields : bitsOf (replayWord a k b c) 63 63 = a ∧ bitsOf (replayWord a k b c) 60 55 = b ∧
    bitsOf (replayWord a k b c) 24 0 = c := by
  unfold bitsOf replayWord
  omega

end

theorem csrField_replayDone (s : State) {hi lo : Nat} (h : hi < 62 ∨ 62 < lo) :
    csrField (replayDone s) dbReplay hi lo = csrField s dbReplay hi lo := by
  unfold replayDone
  dsimp only
  split
  · exact csrField_set_apart _ _ _ le_rfl (by decide) h
  · rfl

theorem bitsOf_lt (x hi lo : Nat) : bitsOf x hi lo < 2 ^ (hi + 1 - lo) := Nat.mod_lt _ (by positivity)

theorem bitOf_eq (x i : Nat) : bitOf x i = decide (bitsOf x i i = 1) := by
  rw [bitOf, bitsOf, Nat.add_sub_cancel_left, Nat.pow_one]
  rfl

theorem bitOf_toNat {w : Nat} (x : BitVec w) (i : Nat) : bitOf x.toNat i = x.getLsbD i := by
  rw [bitOf, BitVec.getLsbD, Nat.testBit_eq_decide_div_mod_eq]
  rfl

/-- What DB_REPLAY holds after a write that starts a replay. -/
def replayStartWord (s : State) (x : Nat) : Nat :=
  let old := (csrGet s dbReplay).toNat
  replayWord (bitsOf x 63 63) (bitsOf old 62 61 - bitsOf (old &&& x) 62 61) (bitsOf x 60 55) (bitsOf x 24 0)

/-- DB_REPLAY as a write that starts a replay leaves it, in every field but DONE. -/
theorem csrField_replayStart (s : State) (v : W64) {hi lo : Nat} (h : hi < 62 ∨ 62 < lo) :
    csrField (replayDone (startReplay (csrPut s dbReplay (BitVec.ofNat 64 (replayStartWord s v.toNat))) (bitsOf v.toNat 24 0))) dbReplay hi lo =
      bitsOf (replayStartWord s v.toNat) hi lo := by
  have kept : bitsOf (csrGet s dbReplay).toNat 62 61 - bitsOf ((csrGet s dbReplay).toNat &&& v.toNat) 62 61 < 4 :=
    (Nat.sub_le _ _).trans_lt (bitsOf_lt _ 62 61)
  rw [csrField_replayDone _ h, csrField_congr (csrGet_congr (startReplay_csr ..) _), csrField, csrGet_csrPut_same, replayStartWord,
    toNat_replayWord (bitsOf_lt ..) kept (bitsOf_lt ..) (bitsOf_lt ..)]

theorem replayStartWord_fields (s : State) (x : Nat) : bitsOf (replayStartWord s x) 63 63 = bitsOf x 63 63 ∧
    bitsOf (replayStartWord s x) 60 55 = bitsOf x 60 55 ∧ bitsOf (replayStartWord s x) 24 0 = bitsOf x 24 0 :=
  replayWord_fields (bitsOf_lt ..) ((Nat.sub_le _ _).trans_lt (bitsOf_lt _ 62 61)) (bitsOf_lt ..) (bitsOf_lt ..)

/-- Settles O47, command by command. -/
theorem daybookRecordsAndReplays : Obligations.DaybookRecordsAndReplays := by
  refine fun s => ⟨fun none_ => ?_, fun up due kept room => ?_, fun v none_ => ?_, fun v idle en => ?_, fun none_ => ?_, fun on holds late => ?_⟩
  · have quiet : ¬(booted s && decide (s.db.extend.toNat + 2 ^ 47 ≤ now s)) = true := by
      obtain h | h := none_
      · rw [h, Bool.false_and]; decide
      · rw [now, decide_eq_false (Nat.not_le.2 h), Bool.and_false]; decide
    exact ⟨s, congrArg Host.Outcome.next (if_neg quiet), rfl⟩
  · have extends_ : (booted s && decide (s.db.extend.toNat + 2 ^ 47 ≤ now s)) = true := by
      rw [up, now, decide_eq_true due, Bool.true_and]
    have stores : dbAppend { s with db := { s.db with extend := s.ledger } } 1 0x40 (leBytes 8 (now s)) =
        dbStore { s with db := { s.db with extend := s.ledger } } 1 0x40 (leBytes 8 (now s)) :=
      (if_neg (Nat.not_le.2 room)).trans (by rw [if_pos kept])
    have run : exec .daybookExtend s = .next (dbStore { s with db := { s.db with extend := s.ledger } } 1 0x40 (leBytes 8 (now s))) :=
      congrArg Host.Outcome.next ((if_pos extends_).trans stores)
    have record := dbRecord_dbStore { s with db := { s.db with extend := s.ledger } } 1 0x40 (leBytes 8 (now s))
    refine completes_of run ⟨csrGet_dbStore_head .., rfl, ?_, ?_, ?_, fun a h => mem_dbStore_outside _ _ _ _ h⟩
    · exact (congrArg (fieldAt · 6 1) record).trans rfl
    · exact (congrArg (fieldAt · 7 1) record).trans rfl
    · refine (congrArg (fieldAt · 8 8) record).trans ((leNat_leBytes 8 (now s)).trans (Nat.mod_eq_of_lt ?_))
      exact s.ledger.isLt
  · have quiet : ¬(bitOf v.toNat 63 && !csrBit s dbReplay 63) = true := by
      obtain h | h := none_
      · rw [dbReplay, h, Bool.not_true, Bool.and_false]; decide
      · rw [bitOf_toNat, h, Bool.false_and]; decide
    exact ⟨s, congrArg Host.Outcome.next (if_neg quiet), rfl⟩
  · have starts : (bitOf v.toNat 63 && !csrBit s dbReplay 63) = true := by
      rw [bitOf_toNat, en, dbReplay, idle]; rfl
    have enters : (bitOf v.toNat 63 && !bitOf (csrGet s dbReplay).toNat 63) = true := by rw [bitOf_eq (csrGet s dbReplay).toNat]; exact starts
    have run : exec (.replayStart v) s = .next
        (replayDone (startReplay (csrPut s dbReplay (BitVec.ofNat 64 (replayStartWord s v.toNat))) (bitsOf v.toNat 24 0))) :=
      congrArg Host.Outcome.next ((if_pos starts).trans (if_pos enters))
    obtain ⟨en_, ctx_, from_⟩ := replayStartWord_fields s v.toNat
    refine completes_of run ⟨?_, ?_, ?_, ?_, ?_⟩
    · rw [← bitOf_toNat, bitOf_eq, decide_eq_true_iff, ← en_] at en
      exact decide_eq_true ((csrField_replayStart s v (.inr (by decide))).trans en)
    · exact (csrField_replayStart s v (.inl (by decide))).trans ctx_
    · exact (csrField_replayStart s v (.inl (by decide))).trans from_
    · rw [replayDone_db]
      rfl
    · rw [replayDone_db]
      exact congrArg BitVec.toNat (csrGet_csrPut_other s (by decide : (0x0D00000 : Nat) ≠ dbReplay) _)
  · have quiet : ¬(csrBit s dbReplay 63 && s.db.holds &&
        (overdue s 2 s.db.cmdAt s.db.cmdTurn || overdue s 3 s.db.linkAt s.db.linkTurn || overdue s 5 s.db.ctAt s.db.ctTurn)) = true := by
      obtain h | h := none_
      · rw [dbReplay, h]; simp
      · rw [h]; simp
    exact ⟨s, congrArg Host.Outcome.next (if_neg quiet), rfl⟩
  · have diverges : (csrBit s dbReplay 63 && s.db.holds &&
        (overdue s 2 s.db.cmdAt s.db.cmdTurn || overdue s 3 s.db.linkAt s.db.linkTurn || overdue s 5 s.db.ctAt s.db.ctTurn)) = true := by
      rw [dbReplay, on, holds, Bool.true_and, Bool.true_and, Bool.or_assoc, Bool.or_eq_true, Bool.or_eq_true]
      exact late
    exact completes_of (congrArg Host.Outcome.next (if_pos diverges)) ⟨csrBit_set_same _ _ _ (by decide), rfl⟩

theorem csrPut_only_csr (s : State) (off : Nat) (v : W64) : csrPut s off v = { s with csr := (csrPut s off v).csr } := rfl

theorem csrSetField_only_csr (s : State) (off hi lo v : Nat) :
    csrSetField s off hi lo v = { s with csr := (csrSetField s off hi lo v).csr } := rfl

theorem modOstler_only_ostler (s : State) (f : Ostler → Ostler) : modOstler s f = { s with ostler := (modOstler s f).ostler } := rfl

/-! ### Activation of firmware (R461) -/

theorem sha256Block_length (h w : List Nat) : (sha256Block h w).length = 8 := by
  unfold sha256Block
  simp

theorem beBytes_length (n x : Nat) : (beBytes n x).length = n := by rw [beBytes, List.length_reverse, leBytes_length]

theorem foldl_sha256Block_length (w : Nat → List Nat) (l : List Nat) (h : List Nat) (hh : h.length = 8) :
    (l.foldl (fun h i => sha256Block h (w i)) h).length = 8 := by
  induction l generalizing h with
  | nil => exact hh
  | cons i l ih => exact ih _ (sha256Block_length ..)

theorem sha256_length (m : List Byte) : (sha256 m).length = 32 := by
  unfold sha256
  simp only [List.length_flatMap, beBytes_length, List.map_const', List.sum_replicate]
  rw [foldl_sha256Block_length _ _ _ rfl]
  rfl

/-- A measurement register reads what was last extended. -/
theorem mrOf_extendMr_same (s : State) (i : Nat) (d : List Byte) : mrOf (extendMr s i d) i = sha256 (mrOf s i ++ d) := by
  have written : nget [] (extendMr s i d).tack.mrs i = sha256 (mrOf s i ++ d) := nget_nset_same [] s.tack.mrs i _
  rw [mrOf, written]
  refine if_neg fun none_ => ?_
  have := sha256_length (mrOf s i ++ d)
  rw [none_] at this
  exact absurd this (by decide)

theorem mrOf_extendMr_other (s : State) {i j : Nat} (h : j ≠ i) (d : List Byte) : mrOf (extendMr s i d) j = mrOf s j := by
  have kept : nget [] (extendMr s i d).tack.mrs j = nget [] s.tack.mrs j := nget_nset_other [] s.tack.mrs h _
  rw [mrOf, kept, mrOf]

theorem mrOf_congr {s u : State} (h : u.tack.mrs = s.tack.mrs) (i : Nat) : mrOf u i = mrOf s i := by
  rw [mrOf, h, mrOf]

theorem flashImage_congr {s u : State} (h : u.ostler.flash = s.ostler.flash) (c : Nat) (b : Bool) : flashImage u c b = flashImage s c b := by
  unfold flashImage flashRead
  rw [h]

/-- The slot bits of the components with one of them switched. -/
def switched (d : BitVec 3) (c : Nat) (b : Bool) : BitVec 3 := if b then d ||| (1#3 <<< (c - 1)) else d &&& ~~~(1#3 <<< (c - 1))

theorem activeB_switched (d : BitVec 3) {c e : Nat} (hc : c ∈ [1, 2, 3]) (he : e ∈ [1, 2, 3]) (b : Bool) :
    activeB (switched d c b) e = if e = c then b else activeB d e := by
  fin_cases hc <;> fin_cases he <;> revert d b <;> decide

/-- What a component's activation turns on: whether it is staged, the slot it has and runs, and its measurement. -/
def slotOf (s : State) (c : Nat) : Bool × Bool × Bool × List Byte :=
  (csrBit s fwSlot (3 + c), activeB s.ostler.dir c, activeB s.rst.runB c, mrOf s c)

theorem mrs_activate (s : State) (c : Nat) (b : Bool) :
    (activate s c b).tack.mrs = (extendMr s c (sha256 (flashImage s c b))).tack.mrs := by
  rw [activate]
  rfl

section

variable (s : State) {c e : Nat} (hc : c ∈ [1, 2, 3]) (he : e ∈ [1, 2, 3]) (b : Bool)
include hc he

theorem slotOf_activate : slotOf (activate s c b) e =
    if e = c then (csrBit s fwSlot (3 + c), b, b, sha256 (mrOf s c ++ sha256 (flashImage s c b))) else slotOf s e := by
  have dir : activeB (activate s c b).ostler.dir e = if e = c then b else activeB s.ostler.dir e := activeB_switched s.ostler.dir hc he b
  have run : activeB (activate s c b).rst.runB e = if e = c then b else activeB s.rst.runB e := activeB_switched s.rst.runB hc he b
  have mr : mrOf (activate s c b) e = mrOf (extendMr s c (sha256 (flashImage s c b))) e := mrOf_congr (mrs_activate s c b) e
  have staged : csrBit (activate s c b) fwSlot (3 + e) = csrBit s fwSlot (3 + e) := csrBit_congr (csrGet_congr (activate_csr ..) _) _
  rw [slotOf, dir, run, mr, staged]
  split
  · next h => rw [h, mrOf_extendMr_same]
  · next h => rw [mrOf_extendMr_other _ h, slotOf]

end

theorem slotOf_renewKeys (s : State) (c : Nat) : slotOf (renewKeys s) c = slotOf s c := rfl

/-- What a staged component's slot becomes. -/
def activatedSlot (s : State) (c : Nat) : Bool × Bool × Bool × List Byte :=
  if csrBit s fwSlot (3 + c) then
    (false, !activeB s.ostler.dir c, !activeB s.ostler.dir c, sha256 (mrOf s c ++ sha256 (flashImage s c (!activeB s.ostler.dir c))))
  else slotOf s c

/-- The activation of a staged component, but for its staging bit. -/
def switchOver (s : State) (c : Nat) : State :=
  let old := activeB s.ostler.dir c
  modRst (activate s c !old) fun r => { r with acts := nset none r.acts c (some { at_ := s.ledger, oldB := old }) }

theorem slotOf_switchOver (s : State) (c e : Nat) : slotOf (switchOver s c) e = slotOf (activate s c !activeB s.ostler.dir c) e := rfl

theorem slotOf_unstage (s : State) (c : Nat) {e : Nat} (h : e = c) (h64 : 3 + c < 64) :
    slotOf (csrSetField s fwSlot (3 + c) (3 + c) 0) e = (false, (slotOf s e).2) := by
  rw [slotOf, h, csrBit_set_same _ _ _ h64]
  rfl

theorem slotOf_setField_apart (s : State) {c hi lo v : Nat} (h : lo ≤ hi) (h64 : hi < 64) (apart : 3 + c < lo ∨ hi < 3 + c) :
    slotOf (csrSetField s fwSlot hi lo v) c = slotOf s c := by
  rw [slotOf, csrBit_set_apart _ _ _ h h64 apart]
  rfl

theorem flash_activateStaged (s : State) (c : Nat) : (activateStaged s c).ostler.flash = s.ostler.flash := by
  unfold activateStaged
  split <;> rfl

theorem slotOf_activateStaged (s : State) {c e : Nat} (hc : c ∈ [1, 2, 3]) (he : e ∈ [1, 2, 3]) :
    slotOf (activateStaged s c) e = if e = c then activatedSlot s c else slotOf s e := by
  have small : c ≤ 3 := by fin_cases hc <;> decide
  by_cases staged : csrBit s fwSlot (3 + c) = true
  · have switches : activateStaged s c = csrSetField (switchOver s c) fwSlot (3 + c) (3 + c) 0 := if_neg (by rw [staged]; decide)
    rw [switches]
    split
    · next h =>
      rw [slotOf_unstage _ _ h (by omega), slotOf_switchOver, slotOf_activate _ hc he, if_pos h, activatedSlot, if_pos staged]
    · next h =>
      rw [slotOf_setField_apart _ le_rfl (by omega) (by omega), slotOf_switchOver, slotOf_activate _ hc he, if_neg h]
  · have stays : activateStaged s c = s := if_pos (by rw [Bool.not_eq_true] at staged; rw [staged]; rfl)
    rw [stays]
    split
    · next h => rw [activatedSlot, if_neg staged, h]
    · rfl

theorem activatedSlot_congr {s u : State} {c : Nat} (slot : slotOf u c = slotOf s c) (flash : u.ostler.flash = s.ostler.flash) :
    activatedSlot u c = activatedSlot s c := by
  obtain ⟨staged, dir, -, mr⟩ : _ = _ ∧ _ = _ ∧ _ = _ ∧ _ = _ := by simpa only [slotOf, Prod.mk.injEq] using slot
  rw [activatedSlot, slot, staged, dir, mr, flashImage_congr flash, activatedSlot]

/-- The activation of several components, each once. -/
theorem slotOf_activateAll (l : List Nat) (hl : l.Nodup) (hs : ∀ c ∈ l, c ∈ [1, 2, 3]) {e : Nat} (he : e ∈ [1, 2, 3]) (s : State) :
    slotOf (l.foldl activateStaged s) e = if e ∈ l then activatedSlot s e else slotOf s e := by
  induction l generalizing s with
  | nil => rfl
  | cons c l ih =>
    obtain ⟨fresh, hl⟩ := List.nodup_cons.1 hl
    have first := slotOf_activateStaged s (hs c List.mem_cons_self) he
    rw [List.foldl_cons, ih hl (fun d hd => hs d (List.mem_cons_of_mem c hd))]
    by_cases h : e = c
    · subst h
      rw [if_neg fresh, first, if_pos rfl, if_pos List.mem_cons_self]
    · rw [if_neg h] at first
      rw [first, activatedSlot_congr first (flash_activateStaged s c)]
      simp only [List.mem_cons, h, false_or]

/-- What an activation of every staged component leaves. -/
def activatedAll (s : State) : State := csrSetField (renewKeys ([1, 3, 2].foldl activateStaged s)) fwSlot 29 28 1

theorem slotOf_activatedAll (s : State) {c : Nat} (hc : c ∈ [1, 2, 3]) : slotOf (activatedAll s) c = activatedSlot s c := by
  have small : c ≤ 3 := by fin_cases hc <;> decide
  have listed : c ∈ [1, 3, 2] := by fin_cases hc <;> decide
  rw [activatedAll, slotOf_setField_apart _ (by decide) (by decide) (.inl (by omega)), slotOf_renewKeys,
    slotOf_activateAll _ (by decide) (by decide) hc, if_pos listed]

/-- What a reversion to a component's old slot leaves. -/
def reverted (s : State) (c : Nat) (b : Bool) : State :=
  let s1 := modRst (activate s c b) fun r => { r with acts := nset none r.acts c none }
  csrSetField (restage (renewKeys s1) c) fwSlot 29 28 2

theorem slotOf_reverted (s : State) {c : Nat} (hc : c ∈ [1, 2, 3]) (b : Bool) :
    (slotOf (reverted s c b) c).2 = (b, b, sha256 (mrOf s c ++ sha256 (flashImage s c b))) := by
  have slot := slotOf_activate s hc hc b
  rw [if_pos rfl, slotOf] at slot
  simp only [Prod.mk.injEq] at slot
  obtain ⟨-, dir, run, mr⟩ := slot
  have ostler : (reverted s c b).ostler = (activate s c b).ostler := by
    rw [reverted, csrSetField_ostler, restage_ostler, renewKeys_ostler, modRst_ostler]
  have runB : (reverted s c b).rst.runB = (activate s c b).rst.runB := by
    rw [reverted, csrSetField_rst, restage_rst, renewKeys_rst, modRst]
  have mrs : (reverted s c b).tack.mrs = (activate s c b).tack.mrs := by
    rw [reverted, csrSetField_tack, restage_tack]
    rfl
  rw [slotOf, ostler, runB, mrOf_congr mrs, dir, run, mr]

/-- Settles O55, command by command. -/
theorem firmwareActivatesAndReverts : Obligations.FirmwareActivatesAndReverts := by
  refine fun s => ⟨fun off => ?_, fun on none_ => ?_, fun on some_ => ?_, fun k none_ => ?_, fun k a found => ⟨fun late => ?_, fun due => ?_⟩,
    fun up well due => ?_, fun none_ => ?_⟩
  · exact ⟨s, congrArg Host.Outcome.next (if_pos (by rw [off]; rfl)), rfl⟩
  · have run : exec .firmwareActivate s = .next (csrSetField s fwSlot 29 28 3) :=
      congrArg Host.Outcome.next ((if_neg (by rw [on]; decide)).trans (if_pos none_))
    exact completes_of run ⟨csrSetField_only_csr .., (csrField_set_same s fwSlot 3 (by decide) (by decide)).trans rfl⟩
  · have run : exec .firmwareActivate s = .next (activatedAll s) :=
      congrArg Host.Outcome.next ((if_neg (by rw [on]; decide)).trans (if_neg some_))
    refine completes_of run ⟨(csrField_set_same _ fwSlot 1 (by decide) (by decide)).trans rfl, fun c hc => ?_⟩
    have slot := slotOf_activatedAll s hc
    by_cases staged : csrBit s fwSlot (3 + c) = true
    · rw [activatedSlot, if_pos staged, slotOf] at slot
      simp only [Prod.mk.injEq] at slot
      obtain ⟨bit, after⟩ := slot
      exact ⟨bit, fun _ => after, fun h => absurd (staged.symm.trans h) (by decide)⟩
    · rw [activatedSlot, if_neg staged, slotOf, slotOf] at slot
      simp only [Prod.mk.injEq] at slot
      obtain ⟨bit, after⟩ := slot
      exact ⟨bit.trans (Bool.not_eq_true _ ▸ staged), fun h => absurd h staged, fun _ => after⟩
  · exact ⟨s, congrArg Host.Outcome.next (by rw [none_]), rfl⟩
  · exact ⟨s, congrArg Host.Outcome.next (by rw [found]; exact if_pos late), rfl⟩
  · have run : exec (.firmwareRevert k) s = .next (reverted s (k.val + 1) a.oldB) :=
      congrArg Host.Outcome.next (by rw [found]; exact if_neg (Nat.not_lt.2 due))
    have slot := slotOf_reverted s (c := k.val + 1) (by fin_cases k <;> decide) a.oldB
    rw [slotOf] at slot
    simp only [Prod.mk.injEq] at slot
    exact completes_of run ⟨(csrField_set_same _ fwSlot 2 (by decide) (by decide)).trans rfl, slot⟩
  · have run : exec .marginTableWrite s = .next (writeMargin s) := congrArg Host.Outcome.next (if_neg (by rw [up, well, due]; decide))
    rw [writeMargin] at run
    refine completes_of run ⟨modOstler_only_ostler .., ?_⟩
    simp only [modOstler_ostler, and_self]
  · have quiet : (!s.ostler.up || s.rst.recovery || !marginDue s) = true := by
      obtain h | h | h := none_ <;> rw [h] <;> simp
    exact ⟨s, congrArg Host.Outcome.next (if_pos quiet), rfl⟩

/-! ### Block resets and scan tests (R454, R467) -/

theorem csrGet_csrClear_other (s : State) {off lo hi : Nat} (h : off < lo ∨ hi ≤ off) : csrGet (csrClear s lo hi) off = csrGet s off :=
  nget_filter_keys _ (fun k => decide (k < lo) || decide (hi ≤ k)) s.csr (by simpa using h)

theorem csrGet_recordFirst_other (s : State) {off o : Nat} (ho : off ≠ o) (v : Nat) : csrGet (recordFirst s o v) off = csrGet s off := by
  unfold recordFirst
  split
  · exact csrGet_csrSetField_other _ ho ..
  · exact csrGet_csrPut_other _ ho _

/-- A register of the reset and boot block: no engine, port, Drover or bridge counts in it. -/
def ofReset (off : Nat) : Prop := 0x0100000 ≤ off ∧ off < 0x0200000

section

variable (s : State) {off : Nat} (h : ofReset off)
include h

theorem ofReset_offReports : OffReports off := by
  unfold ofReset at h
  exact ⟨by omega, by omega, by omega, by omega⟩

theorem csrGet_rlCount_reset (n i k : Nat) : csrGet (rlCount s n i k) off = csrGet s off := by
  unfold ofReset at h
  exact csrGet_bumpBy_other s (by omega) (by omega)

theorem csrGet_goDown_reset (n : Nat) : csrGet (goDown s n) off = csrGet s off := by
  have marked (f : Port → Port) : csrGet (modPort s n f) off = csrGet s off := csrGet_congr (modPort_csr ..) off
  have apart : off ≠ 0x07C0010 := by unfold ofReset at h; omega
  unfold goDown
  dsimp only
  split
  · exact marked _
  · rw [csrGet_rlCount_reset _ h, csrGet_congr (modPort_csr ..), csrGet_reportFault _ (ofReset_offReports h),
      csrGet_recordFirst_other _ apart, marked]

theorem csrGet_resetPort_reset (n : Nat) : csrGet (resetPort s n) off = csrGet s off := by
  have left : csrGet (leaveDown s n) off = csrGet s off := csrGet_congr (by unfold leaveDown; split <;> rfl) off
  have retrained (u : State) : csrGet (beginRetrain u n) off = csrGet u off := by
    unfold beginRetrain
    dsimp only
    split
    · rw [csrGet_goDown_reset _ h, csrGet_rlCount_reset _ h, csrGet_congr (modPort_csr ..)]
    · rw [csrGet_congr (modPort_csr ..), csrGet_rlCount_reset _ h, csrGet_congr (modPort_csr ..)]
  unfold resetPort
  dsimp only
  split
  · exact left
  · rw [retrained, left]

theorem csrGet_drvAsks_reset (p n : Nat) (l : List (Nat × Line)) : csrGet (drvAsks p n l s) off = csrGet s off := by
  have asked (s : State) (d : Nat) (x : Line) : csrGet (drvAsk s p n d x) off = csrGet s off := by
    unfold drvAsk
    dsimp only
    rw [csrGet_congr (modEntry_csr ..), sendBridle, csrGet_yardCount _ (by unfold ofReset at h; omega) (by decide), csrGet_congr (send_csr ..)]
  induction l generalizing s with
  | nil => exact csrGet_congr (modEntry_csr ..) off
  | cons x l ih =>
    unfold drvAsks
    split
    · rw [ih, asked]
    · exact csrGet_congr (modEntry_csr ..) off

theorem csrGet_drvPump_reset : csrGet (drvPump s) off = csrGet s off := by
  unfold drvPump
  exact foldl_keeps (csrGet · off) (fun s x => foldl_keeps (csrGet · off) (fun s e => csrGet_drvAsks_reset s h ..) _ s) _ s

theorem csrGet_resetDrover_reset (d : Nat) : csrGet (resetDrover s d) off = csrGet s off := by
  have apart := h
  unfold ofReset at apart
  unfold resetDrover
  dsimp only
  rw [csrGet_csrClear_other _ (by omega), csrGet_drvPump_reset _ h, csrGet_congr (modDrover_csr ..)]
  refine foldl_keeps (csrGet · off) (fun s e => ?_) _ s
  split
  · exact csrGet_congr (drvNotices_csr ..) off
  · rfl

theorem csrGet_forceStall_reset (p : Nat) : csrGet (forceStall s p) off = csrGet s off := by
  have apart := h
  unfold ofReset at apart
  unfold forceStall resetStall
  dsimp only
  rw [csrGet_congr (loftInvalidate_csr ..), csrGet_csrSetField_other _ (by unfold stallCsr; omega), csrGet_congr (setStall_csr ..),
    csrGet_csrClear_other _ (by unfold stallCsr; omega)]
  exact foldl_keeps (csrGet · off) (fun s g => csrGet_congr (forceEngine_csr ..) off) _ s

theorem csrGet_doBlockReset_reset (kind target : Nat) : csrGet (doBlockReset s kind target) off = csrGet s off := by
  have apart := h
  unfold ofReset at apart
  unfold doBlockReset
  split
  · exact csrGet_congr ((resetEngine_csr ..).trans (forceEngine_csr ..)) off
  · split
    · exact csrGet_forceStall_reset s h target
    · exact csrGet_resetPort_reset s h target
    · exact csrGet_resetDrover_reset s h target
    · exact csrGet_csrClear_other s (by omega)

end

/-- The status field of what a write of RST_BLK stores. -/
theorem blkWord_status {a k t : Nat} (ha : a < 8) (hk : k < 16) (ht : t < 1024) :
    bitsOf (BitVec.ofNat 64 (a * 2 ^ 60 + k * 2 ^ 56 + t)).toNat 62 60 = a := by
  rw [BitVec.toNat_ofNat]
  unfold bitsOf
  omega

/-- BUSY and the status below it. -/
theorem csrField_busy_status (s : State) (o : Nat) :
    csrField s o 62 60 = 4 * csrField s o 62 62 + csrField s o 61 60 := by
  unfold csrField bitsOf
  omega

/-- What a write of RST_BLK stores before it asks for anything. -/
def blkStored (s : State) (x : Nat) : State :=
  csrPut s rstBlk (BitVec.ofNat 64 (bitsOf (csrGet s rstBlk).toNat 62 60 * 2 ^ 60 + bitsOf x 59 56 * 2 ^ 56 + bitsOf x 9 0))

theorem blkStored_status (s : State) (x : Nat) : csrField (blkStored s x) rstBlk 62 60 = csrField s rstBlk 62 60 := by
  rw [csrField, blkStored, csrGet_csrPut_same, blkWord_status (bitsOf_lt ..) (bitsOf_lt ..) (bitsOf_lt ..), csrField]

/-- A write of RST_BLK whose request waits. -/
def blkAsked (s : State) (x : Nat) : State :=
  modRst (csrSetField (blkStored s x) rstBlk 62 60 4) fun r => { r with blk := some (bitsOf x 59 56, bitsOf x 9 0, false), blkAt := s.ledger }

theorem blkAsked_status (s : State) (x : Nat) : csrField (blkAsked s x) rstBlk 62 60 = 4 := by
  rw [blkAsked, csrField_congr (csrGet_congr (modRst_csr ..) _)]
  exact (csrField_set_same _ rstBlk 4 (by decide) (by decide)).trans rfl

theorem blockIdle_congr {s u : State} (stalls : u.stalls = s.stalls) (rhoa : u.rhoa = s.rhoa) (drovers : u.drovers = s.drovers)
    (gate : u.gate = s.gate) (kind target : Nat) : blockIdle u kind target = blockIdle s kind target := by
  unfold blockIdle engineEntries stall port drover
  rw [stalls, rhoa, drovers, gate]

theorem csrSetField_csrPut_only_csr (s : State) (o : Nat) (v : W64) (o' hi lo w : Nat) :
    csrSetField (csrPut s o v) o' hi lo w = { s with csr := (csrSetField (csrPut s o v) o' hi lo w).csr } := rfl

theorem modRst_csrSetField_csrPut_only (s : State) (o : Nat) (v : W64) (o' hi lo w : Nat) (f : Rst → Rst) :
    modRst (csrSetField (csrPut s o v) o' hi lo w) f =
      { s with csr := (modRst (csrSetField (csrPut s o v) o' hi lo w) f).csr, rst := f s.rst } := rfl

theorem blkAsked_eq (s : State) (x : Nat) : blkAsked s x =
    { s with csr := (blkAsked s x).csr, rst := { s.rst with blk := some (bitsOf x 59 56, bitsOf x 9 0, false), blkAt := s.ledger } } := by
  unfold blkAsked blkStored
  exact modRst_csrSetField_csrPut_only ..

theorem blockIdle_blkAsked (s : State) (x kind target : Nat) : blockIdle (blkAsked s x) kind target = blockIdle s kind target := by
  refine blockIdle_congr ?_ ?_ ?_ ?_ kind target <;> rw [blkAsked_eq]

/-- The status that a reset of a block leaves. -/
theorem blockNow_status (s : State) (kind target : Nat) {result : Nat} (h : result < 4) :
    csrField (blockNow s kind target result) rstBlk 61 60 = result ∧
    csrField (blockNow s kind target result) rstBlk 62 62 = csrField s rstBlk 62 62 := by
  have csr := csrGet_congr (modRst_csr (csrSetField (doBlockReset s kind target) rstBlk 61 60 result) fun r =>
    { r with blk := some (kind, target, true) }) rstBlk
  rw [blockNow, csrField_congr csr, csrField_congr csr, csrField_set_same _ _ _ (by decide) (by decide),
    csrField_set_apart _ _ _ (by decide) (by decide) (.inr (by decide)), csrField_congr (csrGet_doBlockReset_reset s ⟨by decide, by decide⟩ kind target)]
  exact ⟨Nat.mod_eq_of_lt h, rfl⟩

theorem blockNow_blk (s : State) (kind target result : Nat) : (blockNow s kind target result).rst.blk = some (kind, target, true) := rfl

theorem stall_blockNow_ma (s : State) (p result : Nat) :
    (stall (blockNow s 1 p result) p).ma = {} ∧ (stall (blockNow s 1 p result) p).tiles = [] := by
  have same : stall (blockNow s 1 p result) p = { stall (forceEngine s p .ma) p with ma := {}, tiles := [] } := by
    rw [blockNow, stall_modRst, stall_csrSetField]
    exact stall_modStall_same ..
  rw [same]
  exact ⟨rfl, rfl⟩

theorem writeBlk_asks {s : State} {v : W64} (en : v.getLsbD 63 = true) (free : s.rst.blk = none) :
    writeBlk s v = if !blockAllowed s (bitsOf v.toNat 59 56) (bitsOf v.toNat 9 0) then csrSetField (blkStored s v.toNat) rstBlk 61 60 3 else
      if blockIdle s (bitsOf v.toNat 59 56) (bitsOf v.toNat 9 0) then
        blockNow (blkAsked s v.toNat) (bitsOf v.toNat 59 56) (bitsOf v.toNat 9 0) 1 else blkAsked s v.toNat := by
  have asks : ¬(!bitOf v.toNat 63 || s.rst.blk.isSome) = true := by
    rw [bitOf_toNat, en, free]
    decide
  rw [← blockIdle_blkAsked s v.toNat]
  exact if_neg asks

/-- A request for a block reset: refused, waiting, or done at once. -/
theorem blockReset_requests (s : State) (v : W64) (en : v.getLsbD 63 = true) :
    let kind := bitsOf v.toNat 59 56
    let target := bitsOf v.toNat 9 0
    (s.rst.blk ≠ none → Completes (.blockReset v) s fun u => u = { s with csr := u.csr } ∧ csrField u rstBlk 62 60 = csrField s rstBlk 62 60) ∧
    (s.rst.blk = none → blockAllowed s kind target = false → Completes (.blockReset v) s fun u => u = { s with csr := u.csr } ∧
      csrField u rstBlk 61 60 = 3) ∧
    (s.rst.blk = none → blockAllowed s kind target = true → blockIdle s kind target = false → Completes (.blockReset v) s fun u =>
      u = { s with csr := u.csr, rst := { s.rst with blk := some (kind, target, false), blkAt := s.ledger } } ∧ csrField u rstBlk 62 60 = 4) ∧
    (s.rst.blk = none → blockAllowed s kind target = true → blockIdle s kind target = true → Completes (.blockReset v) s fun u =>
      u.rst.blk = some (kind, target, true) ∧ csrField u rstBlk 62 60 = 5 ∧
      (kind = 1 → (stall u target).ma = {} ∧ (stall u target).tiles = [])) := by
  have run : exec (.blockReset v) s = .next (writeBlk s v) := congrArg Host.Outcome.next (if_pos (by rw [bitOf_toNat, en]))
  refine ⟨fun busy => ?_, fun free no => ?_, fun free yes wait => ?_, fun free yes idle => ?_⟩
  · have stored : writeBlk s v = blkStored s v.toNat := if_pos (by rw [Option.isSome_iff_ne_none.2 busy, Bool.or_true])
    rw [stored] at run
    exact completes_of run ⟨csrPut_only_csr .., blkStored_status ..⟩
  · rw [writeBlk_asks en free, no] at run
    exact completes_of run ⟨csrSetField_csrPut_only_csr .., (csrField_set_same _ rstBlk 3 (by decide) (by decide)).trans rfl⟩
  · rw [writeBlk_asks en free, yes, wait] at run
    exact completes_of run ⟨blkAsked_eq .., blkAsked_status ..⟩
  · rw [writeBlk_asks en free, yes, idle] at run
    obtain ⟨status, busy⟩ := blockNow_status (blkAsked s v.toNat) (bitsOf v.toNat 59 56) (bitsOf v.toNat 9 0) (by decide : 1 < 4)
    have asked := blkAsked_status s v.toNat
    rw [csrField_busy_status] at asked
    have low := bitsOf_lt (csrGet (blkAsked s v.toNat) rstBlk).toNat 61 60
    rw [← csrField] at low
    refine completes_of run ⟨blockNow_blk .., ?_, fun h => ?_⟩
    · simp only [Bool.not_true, Bool.false_eq_true, if_false, if_true]
      rw [csrField_busy_status, status, busy]
      omega
    · rw [h]
      exact stall_blockNow_ma ..

theorem modRst_csrSetField_only (s : State) (o hi lo w : Nat) (f : Rst → Rst) :
    modRst (csrSetField s o hi lo w) f = { s with csr := (modRst (csrSetField s o hi lo w) f).csr, rst := f s.rst } := rfl

/-- The end of a block reset that has been done. -/
def blkCleared (s : State) : State := modRst (csrSetField s rstBlk 62 62 0) fun r => { r with blk := none }

theorem blkCleared_busy (s : State) :
    csrField (blkCleared s) rstBlk 62 62 = 0 ∧ csrField (blkCleared s) rstBlk 61 60 = csrField s rstBlk 61 60 := by
  have csr := csrGet_congr (modRst_csr (csrSetField s rstBlk 62 62 0) fun r => { r with blk := none }) rstBlk
  rw [blkCleared, csrField_congr csr, csrField_congr csr, csrField_set_same _ _ _ (by decide) (by decide),
    csrField_set_apart _ _ _ (by decide) (by decide) (.inl (by decide))]
  exact ⟨rfl, rfl⟩

theorem execBlockResetDone_of {s : State} {kind target : Nat} {done : Bool} (h : s.rst.blk = some (kind, target, done)) :
    exec .blockResetDone s = .next (if !done && !blockIdle s kind target then s else
      blkCleared (if done then s else blockNow s kind target 1)) := congrArg Host.Outcome.next (by rw [h]; rfl)

/-- A block reset that waits: the end of its wait, and of its clock's. -/
theorem blockReset_ends (s : State) (kind target : Nat) (done : Bool) (h : s.rst.blk = some (kind, target, done)) :
    let due := s.rst.blkAt.toNat + 1000 * csrField s 0x0100008 15 0 ≤ now s
    (done = true ∨ ¬due → Completes .blockResetTimeout s (· = s)) ∧
    (done = false → due → Completes .blockResetTimeout s fun u => u.rst.blk = some (kind, target, true) ∧
      csrField u rstBlk 61 60 = if blockIdle s kind target = true then 1 else 2) ∧
    (done = true → Completes .blockResetDone s fun u => u = { s with csr := u.csr, rst := { s.rst with blk := none } } ∧ csrBit u rstBlk 62 = false) ∧
    (done = false → blockIdle s kind target = false → Completes .blockResetDone s (· = s)) ∧
    (done = false → blockIdle s kind target = true → Completes .blockResetDone s fun u => u.rst.blk = none ∧ csrField u rstBlk 62 60 = 1) := by
  refine ⟨fun none_ => ?_, fun waits due => ?_, fun gone => ?_, fun waits busy => ?_, fun waits idle => ?_⟩
  · refine ⟨s, congrArg Host.Outcome.next ?_, rfl⟩
    rw [h]
    cases done with
    | true => rfl
    | false => exact if_pos (Nat.lt_of_not_le (none_.resolve_left Bool.false_ne_true))
  · have run : exec .blockResetTimeout s = .next (blockNow s kind target (if blockIdle s kind target then 1 else 2)) := by
      refine congrArg Host.Outcome.next ?_
      rw [h, waits]
      exact if_neg (Nat.not_lt.2 due)
    refine completes_of run ⟨blockNow_blk .., (blockNow_status s kind target ?_).1⟩
    split <;> decide
  · have run : exec .blockResetDone s = .next (blkCleared s) := (execBlockResetDone_of h).trans (by rw [gone]; rfl)
    refine completes_of run ⟨modRst_csrSetField_only .., ?_⟩
    rw [csrBit, (blkCleared_busy s).1]
    rfl
  · exact ⟨s, (execBlockResetDone_of h).trans (by rw [waits, busy]; rfl), rfl⟩
  · have run : exec .blockResetDone s = .next (blkCleared (blockNow s kind target 1)) :=
      (execBlockResetDone_of h).trans (by rw [waits, idle]; rfl)
    obtain ⟨busy, status⟩ := blkCleared_busy (blockNow s kind target 1)
    refine completes_of run ⟨rfl, ?_⟩
    rw [csrField_busy_status, busy, status, (blockNow_status s kind target (by decide : 1 < 4)).1]

/-- A scan that is asked for. -/
theorem writeScan_of {s : State} {v : W64} (en : v.getLsbD 63 = true) :
    writeScan s v = if csrBit s scanCtl 62 || decide ((position s (bitsOf v.toNat 9 0)).st ≠ .spare) then
        csrSetField s scanCtl 9 0 (bitsOf v.toNat 9 0) else
      modPos (csrSetField (csrSetField s scanCtl 9 0 (bitsOf v.toNat 9 0)) scanCtl 62 60 4) (bitsOf v.toNat 9 0) fun y => { y with scan := true } := by
  unfold writeScan
  dsimp only
  rw [bitOf_toNat, en, Bool.not_true, Bool.false_or]

theorem scan_starts (s : State) (v : W64) (en : v.getLsbD 63 = true) :
    let p := bitsOf v.toNat 9 0
    (csrBit s scanCtl 62 = true → Completes (.scanStart v) s fun u => u = { s with csr := u.csr } ∧ csrField u scanCtl 9 0 = p ∧
      csrField u scanCtl 63 10 = csrField s scanCtl 63 10 ∧ ∀ o, o ≠ scanCtl → csrGet u o = csrGet s o) ∧
    (csrBit s scanCtl 62 = false → (position s p).st = .spare → Completes (.scanStart v) s fun u => csrBit u scanCtl 62 = true ∧
      position u p = { position s p with scan := true } ∧ ∀ q, q ≠ p → position u q = position s q) ∧
    (csrBit s scanCtl 62 = false → (position s p).st ≠ .spare → Completes (.scanStart v) s fun u => u = { s with csr := u.csr } ∧
      csrBit u scanCtl 62 = false) := by
  have run : exec (.scanStart v) s = .next (writeScan s v) := congrArg Host.Outcome.next (if_pos (by rw [bitOf_toNat, en]))
  rw [writeScan_of en] at run
  refine ⟨fun busy => ?_, fun free spare => ?_, fun free other => ?_⟩
  · rw [busy, Bool.true_or, if_pos rfl] at run
    refine completes_of run ⟨csrSetField_only_csr .., ?_, csrField_set_apart _ _ _ (by decide) (by decide) (.inr (by decide)),
      fun o ho => csrGet_csrSetField_other _ ho ..⟩
    rw [csrField_set_same _ _ _ (by decide) (by decide)]
    exact Nat.mod_eq_of_lt (bitsOf_lt ..)
  · rw [free, spare, if_neg (by decide)] at run
    refine completes_of run ⟨?_, ?_, fun q hq => ?_⟩
    · rw [csrBit, csrField_congr (csrGet_congr (modPos_csr ..) _), csrField_set_within _ _ _ (by decide) (by decide) (by decide) (by decide) (by decide)]
      rfl
    · rw [position_modPos_same, position_csrSetField, position_csrSetField]
    · rw [position_modPos_other _ hq, position_csrSetField, position_csrSetField]
  · rw [free, decide_eq_true other, Bool.or_true, if_pos rfl] at run
    exact completes_of run ⟨csrSetField_only_csr .., (csrBit_set_apart _ _ _ (by decide) (by decide) (.inr (by decide))).trans free⟩

theorem csrGet_setIvr (s : State) {off : Nat} (h : off < 0x10000000) (p : Nat) : csrGet (setIvr s p) off = csrGet s off := by
  unfold setIvr
  dsimp only
  split
  · rw [csrGet_csrSetField_other _ (by unfold stallCsr; omega), csrGet_congr (modStall_csr ..)]
  · exact csrGet_congr (modStall_csr ..) off

/-- The end of a scan of a position. -/
def scanEnded (s : State) (q : Nat) (pass : Bool) : State :=
  let s1 := csrSetField s scanCtl 62 60 (if pass then 1 else 2)
  if pass then setIvr (modStall (modPos s1 q fun x => { x with st := .spare, scan := false }) q fun x => { x with pwr := .run }) q
  else modPos s1 q fun x => { x with scan := false }

theorem csrField_scanEnded (s : State) (q : Nat) (pass : Bool) : csrField (scanEnded s q pass) scanCtl 62 60 = if pass = true then 1 else 2 := by
  unfold scanEnded
  dsimp only
  cases pass with
  | true =>
    rw [if_pos rfl, csrField_congr (csrGet_setIvr _ (by decide) q), csrField_congr (csrGet_congr (modStall_csr ..) _),
      csrField_congr (csrGet_congr (modPos_csr ..) _), csrField_set_same _ _ _ (by decide) (by decide)]
    rfl
  | false =>
    rw [if_neg Bool.false_ne_true, csrField_congr (csrGet_congr (modPos_csr ..) _), csrField_set_same _ _ _ (by decide) (by decide)]
    rfl

theorem position_scanEnded (s : State) (q : Nat) (pass : Bool) (r : Nat) : position (scanEnded s q pass) r =
    if r = q then { position s q with st := if pass = true then .spare else (position s q).st, scan := false } else position s r := by
  unfold scanEnded
  dsimp only
  cases pass with
  | true =>
    rw [if_pos rfl, position_setIvr, position_modStall, position_modPos, position_csrSetField, position_csrSetField]
    rfl
  | false =>
    rw [if_neg Bool.false_ne_true, position_modPos, position_csrSetField, position_csrSetField]
    rfl

theorem scan_ends (s : State) :
    (∀ pass, (∀ q, scanning s = some q → (position s q).st ≠ .outOfService) → Completes (.scanDone pass) s (· = s)) ∧
    ∀ q pass, scanning s = some q → (position s q).st = .outOfService → Completes (.scanDone pass) s fun u => csrField u scanCtl 62 60 =
      (if pass = true then 1 else 2) ∧ position u q = { position s q with st := if pass = true then .spare else .outOfService, scan := false } ∧
      ∀ r, r ≠ q → position u r = position s r := by
  refine ⟨fun pass none_ => ⟨s, congrArg Host.Outcome.next ?_, rfl⟩, fun q pass at_ out => ?_⟩
  · cases h : scanning s with
    | none => rfl
    | some q => exact if_pos (none_ q h)
  · have run : exec (.scanDone pass) s = .next (scanEnded s q pass) :=
      congrArg Host.Outcome.next (by rw [at_]; exact if_neg (not_not.2 out))
    refine completes_of run ⟨csrField_scanEnded s q pass, ?_, fun r hr => ?_⟩
    · rw [position_scanEnded, if_pos rfl, out]
    · rw [position_scanEnded, if_neg hr]

/-- Settles O54: a request, the two ends of a block reset, and a scan's start and end. -/
theorem blockResetsAndScans : Obligations.BlockResetsAndScans := by
  refine ⟨blockReset_requests, blockReset_ends, fun s none_ i hi => ?_, fun s v en => ?_⟩
  · simp only [List.mem_cons, List.not_mem_nil, or_false] at hi
    obtain rfl | rfl := hi
    · exact ⟨s, congrArg Host.Outcome.next (by rw [none_]), rfl⟩
    · exact ⟨s, congrArg Host.Outcome.next (by rw [none_]), rfl⟩
  · obtain ⟨busy, spare, other⟩ := scan_starts s v en
    exact ⟨busy, spare, other, scan_ends s⟩

end Sys2Proof.Machine
end

section
/-!
SUPPORT. What the operations of the link, the Ledger, the Smithy and the Ostler leave alone.
-/

namespace Sys2Proof.Machine

/-! ### The Ledger -/

@[simp] theorem vLedger_sendPlain (s : State) (n type : Nat) :
    (sendPlain s n type).vLedger = s.vLedger := by simp [sendPlain]

@[simp] theorem vLedger_returnCredits (k : Nat) (s : State) (n : Nat) : (returnCredits k s n).vLedger = s.vLedger := by
  induction k generalizing s with
  | zero => rfl
  | succ k ih =>
    unfold returnCredits
    split
    · rfl
    · rw [ih]
      simp

@[simp] theorem vLedger_settle (s : State) (n : Nat) :
    (settle s n).vLedger = s.vLedger := by simp [settle]

@[simp] theorem vLedger_freePlace (s : State) (n place : Nat) :
    (freePlace s n place).vLedger = s.vLedger := by simp [freePlace]

@[simp] theorem vLedger_consume (s : State) (i : Nat) (h : Held) :
    (consume s i h).vLedger = s.vLedger := by simp [consume, vLedger_eta]

@[simp] theorem vLedger_mgCount (s : State) (i : Nat) :
    (mgCount s i).vLedger = s.vLedger := by simp [mgCount]

@[simp] theorem consume_ledger (s : State) (i : Nat) (h : Held) :
    (consume s i h).ledger = s.ledger := (vLedger_def _).symm.trans ((vLedger_consume ..).trans (vLedger_def _))

@[simp] theorem mgCount_ledger (s : State) (i : Nat) :
    (mgCount s i).ledger = s.ledger := (vLedger_def _).symm.trans ((vLedger_mgCount ..).trans (vLedger_def _))

/-! ### The registers -/

@[simp] theorem vCsr_tookMessage (s : State) (via : Transport) :
    (tookMessage s via).vCsr = s.vCsr := by
  unfold tookMessage
  split <;> simp [vCsr_eta]

@[simp] theorem tookMessage_csr (s : State) (via : Transport) :
    (tookMessage s via).csr = s.csr := (vCsr_def _).symm.trans ((vCsr_tookMessage ..).trans (vCsr_def _))

/-! ### The fault reports -/

@[simp] theorem bump_reports (s : State) (off wrapOff wrapBit : Nat) :
    (bump s off wrapOff wrapBit).reports = s.reports := (vReports_def _).symm.trans ((vReports_bump ..).trans (vReports_def _))

/-! ### The link -/

/-- The link of a state, as a function of it. -/
def State.vRhoa (s : State) : Rhoa := s.rhoa

@[simp] theorem vRhoa_mk (x0 : List Instr) (x1 : Nat) (x2 : Nat) (x3 : List Byte) (x4 : Bool) (x5 : NMap Byte) (x6 : List
      (Nat × Nat)) (x7 : NMap W64) (x8 : W64) (x9 : NMap Pos) (x10 : NMap Stall) (x11 : NMap LoftLine) (x12 : List Msg) (x13
      : NMap Ctx) (x14 : NMap Rec) (x15 : Yardm) (x16 : Hbm) (x17 : Granary) (x18 : NMap Drover) (x19 : List Report) (x20 :
      Rhoa) (x21 : Gateh) (x22 : Daybk) (x23 : Fuses) (x24 : Tack) (x25 : Smithy) (x26 : Rst) (x27 : Supply) (x28 : Ostler)
      (x29 : Disc) (x30 : Tap) (x31 : List (Transport × List Byte)) (x32 : List (List Byte)) :
    (State.mk x0 x1 x2 x3 x4 x5 x6 x7 x8 x9 x10 x11 x12 x13 x14 x15 x16 x17 x18 x19 x20 x21 x22 x23 x24 x25 x26 x27 x28 x29
      x30 x31 x32).vRhoa = x20 := (rfl)

theorem vRhoa_eta (s : State) : s.rhoa = s.vRhoa := (rfl)

@[simp] theorem vRhoa_ite (c : Prop) [Decidable c] (a b : State) : (if c then a else b).vRhoa = if c then a.vRhoa else
      b.vRhoa := by
  split <;> rfl

@[simp] theorem vRhoa_csrPut (s : State) (off : Nat) (v : W64) :
    (csrPut s off v).vRhoa = s.vRhoa := by simp [csrPut, vRhoa_eta]

@[simp] theorem vRhoa_csrSetField (s : State) (off hi lo v : Nat) :
    (csrSetField s off hi lo v).vRhoa = s.vRhoa := by simp [csrSetField]

@[simp] theorem vRhoa_bumpBy (s : State) (off wrapOff wrapBit n : Nat) :
    (bumpBy s off wrapOff wrapBit n).vRhoa = s.vRhoa := by simp [bumpBy]

@[simp] theorem vRhoa_rlCount (s : State) (n i k : Nat) :
    (rlCount s n i k).vRhoa = s.vRhoa := by simp [rlCount]

@[simp] theorem vRhoa_modDisc (s : State) (f : Disc → Disc) :
    (modDisc s f).vRhoa = s.vRhoa := by simp [modDisc, vRhoa_eta]

@[simp] theorem vRhoa_mgCount (s : State) (i : Nat) :
    (mgCount s i).vRhoa = s.vRhoa := by simp [mgCount]

@[simp] theorem vRhoa_stepLedger (s : State) (th : Int) :
    (stepLedger s th).vRhoa = s.vRhoa := by simp [stepLedger, vRhoa_eta]

@[simp] theorem vRhoa_takeSample (s : State) (src : Nat) (th : Int) :
    (takeSample s src th).vRhoa = s.vRhoa := by simp [takeSample]

@[simp] theorem vRhoa_sampleFrom (s : State) (src : Nat) (th : Int) :
    (sampleFrom s src th).vRhoa = s.vRhoa := by simp [sampleFrom]

theorem vRhoa_def (s : State) : s.vRhoa = s.rhoa := rfl

@[simp] theorem rlCount_rhoa (s : State) (n i k : Nat) :
    (rlCount s n i k).rhoa = s.rhoa := (vRhoa_def _).symm.trans ((vRhoa_rlCount ..).trans (vRhoa_def _))

@[simp] theorem mgCount_rhoa (s : State) (i : Nat) :
    (mgCount s i).rhoa = s.rhoa := (vRhoa_def _).symm.trans ((vRhoa_mgCount ..).trans (vRhoa_def _))

@[simp] theorem sampleFrom_rhoa (s : State) (src : Nat) (th : Int) :
    (sampleFrom s src th).rhoa = s.rhoa := (vRhoa_def _).symm.trans ((vRhoa_sampleFrom ..).trans (vRhoa_def _))

/-! ### The Gatehouse -/

/-- The Gatehouse of a state, as a function of it. -/
def State.vGate (s : State) : Gateh := s.gate

@[simp] theorem vGate_mk (x0 : List Instr) (x1 : Nat) (x2 : Nat) (x3 : List Byte) (x4 : Bool) (x5 : NMap Byte) (x6 : List
      (Nat × Nat)) (x7 : NMap W64) (x8 : W64) (x9 : NMap Pos) (x10 : NMap Stall) (x11 : NMap LoftLine) (x12 : List Msg) (x13
      : NMap Ctx) (x14 : NMap Rec) (x15 : Yardm) (x16 : Hbm) (x17 : Granary) (x18 : NMap Drover) (x19 : List Report) (x20 :
      Rhoa) (x21 : Gateh) (x22 : Daybk) (x23 : Fuses) (x24 : Tack) (x25 : Smithy) (x26 : Rst) (x27 : Supply) (x28 : Ostler)
      (x29 : Disc) (x30 : Tap) (x31 : List (Transport × List Byte)) (x32 : List (List Byte)) :
    (State.mk x0 x1 x2 x3 x4 x5 x6 x7 x8 x9 x10 x11 x12 x13 x14 x15 x16 x17 x18 x19 x20 x21 x22 x23 x24 x25 x26 x27 x28 x29
      x30 x31 x32).vGate = x21 := (rfl)

theorem vGate_eta (s : State) : s.gate = s.vGate := (rfl)

@[simp] theorem vGate_tookMessage (s : State) (via : Transport) :
    (tookMessage s via).vGate = s.vGate := by
  unfold tookMessage
  split <;> simp [vGate_eta]

theorem vGate_def (s : State) : s.vGate = s.gate := rfl

@[simp] theorem tookMessage_gate (s : State) (via : Transport) :
    (tookMessage s via).gate = s.gate := (vGate_def _).symm.trans ((vGate_tookMessage ..).trans (vGate_def _))

/-! ### The Tack Room -/

@[simp] theorem vTack_ite (c : Prop) [Decidable c] (a b : State) : (if c then a else b).vTack = if c then a.vTack else
      b.vTack := by
  split <;> rfl

@[simp] theorem vTack_foldl {β : Type} (g : State → β → State) (h : ∀ s b, (g s b).vTack = s.vTack) (l : List β) (s : State) :
    (l.foldl g s).vTack = s.vTack := by
  induction l generalizing s with
  | nil => rfl
  | cons b l ih => exact (ih (g s b)).trans (h s b)

@[simp] theorem vTack_draw (s : State) :
    (draw s).2.vTack = s.vTack := by simp [draw, vTack_eta]

@[simp] theorem vTack_bumpBy (s : State) (off wrapOff wrapBit n : Nat) :
    (bumpBy s off wrapOff wrapBit n).vTack = s.vTack := by simp [bumpBy]

@[simp] theorem vTack_bump (s : State) (off wrapOff wrapBit : Nat) :
    (bump s off wrapOff wrapBit).vTack = s.vTack := by simp [bump]

@[simp] theorem vTack_rlCount (s : State) (n i k : Nat) :
    (rlCount s n i k).vTack = s.vTack := by simp [rlCount]

@[simp] theorem vTack_modPort (s : State) (n : Nat) (f : Port → Port) :
    (modPort s n f).vTack = s.vTack := by simp [modPort, vTack_eta]

@[simp] theorem vTack_wireFlit (s : State) (n : Nat) (b : List Byte) (seq : BitVec 16) :
    (wireFlit s n b seq).vTack = s.vTack := by simp [wireFlit, vTack_eta]

theorem vTack_sendOne (s t : State) (n : Nat) (h : sendOne s n = some t) : t.vTack = s.vTack := by
  unfold sendOne at h
  dsimp only at h
  split at h
  · cases h
  · split at h
    · cases h
    · cases h
      simp

@[simp] theorem vTack_pump (k : Nat) (s : State) (n : Nat) : (pump k s n).vTack = s.vTack := by
  induction k generalizing s with
  | zero => rfl
  | succ k ih =>
    unfold pump
    split
    · rw [ih]
      exact vTack_sendOne _ _ _ ‹_›
    · rfl

@[simp] theorem vTack_pumpPort (s : State) (n : Nat) : (pumpPort s n).vTack = s.vTack := by simp [pumpPort]

@[simp] theorem vTack_sendFlit (s : State) (via : Nat) (b : List Byte) :
    (sendFlit s via b).vTack = s.vTack := by
  unfold sendFlit
  repeat' split
  all_goals simp [vTack_eta]

@[simp] theorem vTack_dbStore (s : State) (type c : Nat) (payload : List Byte) :
    (dbStore s type c payload).vTack = s.vTack := by simp [dbStore, vTack_eta]

@[simp] theorem vTack_dbAppend (s : State) (type c : Nat) (payload : List Byte) :
    (dbAppend s type c payload).vTack = s.vTack := by simp [dbAppend, vTack_eta]

@[simp] theorem vTack_dbFault (s : State) (c code lid team handle : Nat) :
    (dbFault s c code lid team handle).vTack = s.vTack := by simp [dbFault]

@[simp] theorem vTack_reportOstler (s : State) (source code detail c : Nat) :
    (reportOstler s source code detail c).vTack = s.vTack := by simp [reportOstler, vTack_eta]

@[simp] theorem vTack_answer (s : State) (via : Transport) (type : Nat) (m : List Byte) :
    (answer s via type m).vTack = s.vTack := by
  unfold answer
  split <;> simp [vTack_eta]

@[simp] theorem vTack_tookMessage (s : State) (via : Transport) :
    (tookMessage s via).vTack = s.vTack := by
  unfold tookMessage
  split <;> simp [vTack_eta]

@[simp] theorem vTack_modSmithy (s : State) (f : Smithy → Smithy) :
    (modSmithy s f).vTack = s.vTack := by simp [modSmithy, vTack_eta]

@[simp] theorem vTack_spdmSend (s : State) (via : Transport) (code p1 p2 : Nat) (body : List Byte) :
    (spdmSend s via code p1 p2 body).vTack = s.vTack := by simp [spdmSend]

@[simp] theorem vTack_spdmSecure (s : State) (via : Transport) (ses code p1 p2 : Nat) (body : List Byte) :
    (spdmSecure s via ses code p1 p2 body).vTack = s.vTack := by simp [spdmSecure]

@[simp] theorem vTack_spdmError (s : State) (via : Transport) (e : Nat) :
    (spdmError s via e).vTack = s.vTack := by simp [spdmError]

@[simp] theorem vTack_smithyEcdhe (s : State) (ok : Bool) :
    (smithyEcdhe s ok).vTack = s.vTack := by simp [smithyEcdhe]

@[simp] theorem vTack_mgCount (s : State) (i : Nat) :
    (mgCount s i).vTack = s.vTack := by simp [mgCount]

@[simp] theorem vTack_mgSend (s : State) (via : Transport) (secured : Bool) (m : List Byte) :
    (mgSend s via secured m).vTack = s.vTack := by simp [mgSend]

@[simp] theorem vTack_mgReply (s : State) (h : MgmtHdr) (op status : Nat) (body : List Byte) :
    (mgReply s h op status body).vTack = s.vTack := by simp [mgReply]

@[simp] theorem draw_tack (s : State) :
    (draw s).2.tack = s.tack := (vTack_def _).symm.trans ((vTack_draw ..).trans (vTack_def _))

@[simp] theorem tookMessage_tack (s : State) (via : Transport) :
    (tookMessage s via).tack = s.tack := (vTack_def _).symm.trans ((vTack_tookMessage ..).trans (vTack_def _))

@[simp] theorem spdmSend_tack (s : State) (via : Transport) (code p1 p2 : Nat) (body : List Byte) :
    (spdmSend s via code p1 p2 body).tack = s.tack := (vTack_def _).symm.trans ((vTack_spdmSend ..).trans (vTack_def _))

@[simp] theorem spdmSecure_tack (s : State) (via : Transport) (ses code p1 p2 : Nat) (body : List Byte) :
    (spdmSecure s via ses code p1 p2 body).tack = s.tack := (vTack_def _).symm.trans ((vTack_spdmSecure ..).trans (vTack_def _))

@[simp] theorem spdmError_tack (s : State) (via : Transport) (e : Nat) :
    (spdmError s via e).tack = s.tack := (vTack_def _).symm.trans ((vTack_spdmError ..).trans (vTack_def _))

@[simp] theorem smithyEcdhe_tack (s : State) (ok : Bool) :
    (smithyEcdhe s ok).tack = s.tack := (vTack_def _).symm.trans ((vTack_smithyEcdhe ..).trans (vTack_def _))

@[simp] theorem mgCount_tack (s : State) (i : Nat) :
    (mgCount s i).tack = s.tack := (vTack_def _).symm.trans ((vTack_mgCount ..).trans (vTack_def _))

@[simp] theorem mgReply_tack (s : State) (h : MgmtHdr) (op status : Nat) (body : List Byte) :
    (mgReply s h op status body).tack = s.tack := (vTack_def _).symm.trans ((vTack_mgReply ..).trans (vTack_def _))

/-! ### The Smithy -/

/-- The Smithy of a state, as a function of it. -/
def State.vSmithy (s : State) : Smithy := s.smithy

@[simp] theorem vSmithy_mk (x0 : List Instr) (x1 : Nat) (x2 : Nat) (x3 : List Byte) (x4 : Bool) (x5 : NMap Byte) (x6 : List
      (Nat × Nat)) (x7 : NMap W64) (x8 : W64) (x9 : NMap Pos) (x10 : NMap Stall) (x11 : NMap LoftLine) (x12 : List Msg) (x13
      : NMap Ctx) (x14 : NMap Rec) (x15 : Yardm) (x16 : Hbm) (x17 : Granary) (x18 : NMap Drover) (x19 : List Report) (x20 :
      Rhoa) (x21 : Gateh) (x22 : Daybk) (x23 : Fuses) (x24 : Tack) (x25 : Smithy) (x26 : Rst) (x27 : Supply) (x28 : Ostler)
      (x29 : Disc) (x30 : Tap) (x31 : List (Transport × List Byte)) (x32 : List (List Byte)) :
    (State.mk x0 x1 x2 x3 x4 x5 x6 x7 x8 x9 x10 x11 x12 x13 x14 x15 x16 x17 x18 x19 x20 x21 x22 x23 x24 x25 x26 x27 x28 x29
      x30 x31 x32).vSmithy = x25 := (rfl)

theorem vSmithy_eta (s : State) : s.smithy = s.vSmithy := (rfl)

@[simp] theorem vSmithy_ite (c : Prop) [Decidable c] (a b : State) : (if c then a else b).vSmithy = if c then a.vSmithy else
      b.vSmithy := by
  split <;> rfl

@[simp] theorem vSmithy_foldl {β : Type} (g : State → β → State) (h : ∀ s b, (g s b).vSmithy = s.vSmithy) (l : List β) (s :
      State) :
    (l.foldl g s).vSmithy = s.vSmithy := by
  induction l generalizing s with
  | nil => rfl
  | cons b l ih => exact (ih (g s b)).trans (h s b)

@[simp] theorem vSmithy_csrPut (s : State) (off : Nat) (v : W64) :
    (csrPut s off v).vSmithy = s.vSmithy := by simp [csrPut, vSmithy_eta]

@[simp] theorem vSmithy_csrSetField (s : State) (off hi lo v : Nat) :
    (csrSetField s off hi lo v).vSmithy = s.vSmithy := by simp [csrSetField]

@[simp] theorem vSmithy_bumpBy (s : State) (off wrapOff wrapBit n : Nat) :
    (bumpBy s off wrapOff wrapBit n).vSmithy = s.vSmithy := by simp [bumpBy]

@[simp] theorem vSmithy_bump (s : State) (off wrapOff wrapBit : Nat) :
    (bump s off wrapOff wrapBit).vSmithy = s.vSmithy := by simp [bump]

@[simp] theorem vSmithy_rlCount (s : State) (n i k : Nat) :
    (rlCount s n i k).vSmithy = s.vSmithy := by simp [rlCount]

@[simp] theorem vSmithy_modPort (s : State) (n : Nat) (f : Port → Port) :
    (modPort s n f).vSmithy = s.vSmithy := by simp [modPort, vSmithy_eta]

@[simp] theorem vSmithy_wireFlit (s : State) (n : Nat) (b : List Byte) (seq : BitVec 16) :
    (wireFlit s n b seq).vSmithy = s.vSmithy := by simp [wireFlit, vSmithy_eta]

theorem vSmithy_sendOne (s t : State) (n : Nat) (h : sendOne s n = some t) : t.vSmithy = s.vSmithy := by
  unfold sendOne at h
  dsimp only at h
  split at h
  · cases h
  · split at h
    · cases h
    · cases h
      simp

@[simp] theorem vSmithy_pump (k : Nat) (s : State) (n : Nat) : (pump k s n).vSmithy = s.vSmithy := by
  induction k generalizing s with
  | zero => rfl
  | succ k ih =>
    unfold pump
    split
    · rw [ih]
      exact vSmithy_sendOne _ _ _ ‹_›
    · rfl

@[simp] theorem vSmithy_pumpPort (s : State) (n : Nat) : (pumpPort s n).vSmithy = s.vSmithy := by simp [pumpPort]

@[simp] theorem vSmithy_sendFlit (s : State) (via : Nat) (b : List Byte) :
    (sendFlit s via b).vSmithy = s.vSmithy := by
  unfold sendFlit
  repeat' split
  all_goals simp [vSmithy_eta]

@[simp] theorem vSmithy_dbStore (s : State) (type c : Nat) (payload : List Byte) :
    (dbStore s type c payload).vSmithy = s.vSmithy := by simp [dbStore, vSmithy_eta]

@[simp] theorem vSmithy_dbAppend (s : State) (type c : Nat) (payload : List Byte) :
    (dbAppend s type c payload).vSmithy = s.vSmithy := by simp [dbAppend, vSmithy_eta]

@[simp] theorem vSmithy_dbFault (s : State) (c code lid team handle : Nat) :
    (dbFault s c code lid team handle).vSmithy = s.vSmithy := by simp [dbFault]

@[simp] theorem vSmithy_answer (s : State) (via : Transport) (type : Nat) (m : List Byte) :
    (answer s via type m).vSmithy = s.vSmithy := by
  unfold answer
  split <;> simp [vSmithy_eta]

@[simp] theorem vSmithy_tookMessage (s : State) (via : Transport) :
    (tookMessage s via).vSmithy = s.vSmithy := by
  unfold tookMessage
  split <;> simp [vSmithy_eta]

@[simp] theorem vSmithy_spdmSend (s : State) (via : Transport) (code p1 p2 : Nat) (body : List Byte) :
    (spdmSend s via code p1 p2 body).vSmithy = s.vSmithy := by simp [spdmSend]

theorem vSmithy_def (s : State) : s.vSmithy = s.smithy := rfl

@[simp] theorem bump_smithy (s : State) (off wrapOff wrapBit : Nat) :
    (bump s off wrapOff wrapBit).smithy = s.smithy := (vSmithy_def _).symm.trans ((vSmithy_bump ..).trans (vSmithy_def _))

@[simp] theorem dbFault_smithy (s : State) (c code lid team handle : Nat) :
    (dbFault s c code lid team handle).smithy = s.smithy := (vSmithy_def _).symm.trans ((vSmithy_dbFault ..).trans
      (vSmithy_def _))

@[simp] theorem tookMessage_smithy (s : State) (via : Transport) :
    (tookMessage s via).smithy = s.smithy := (vSmithy_def _).symm.trans ((vSmithy_tookMessage ..).trans (vSmithy_def _))

@[simp] theorem spdmSend_smithy (s : State) (via : Transport) (code p1 p2 : Nat) (body : List Byte) :
    (spdmSend s via code p1 p2 body).smithy = s.smithy := (vSmithy_def _).symm.trans ((vSmithy_spdmSend ..).trans (vSmithy_def _))

/-! ### The reset state -/

@[simp] theorem vRst_tookMessage (s : State) (via : Transport) :
    (tookMessage s via).vRst = s.vRst := by
  unfold tookMessage
  split <;> simp [vRst_eta]

@[simp] theorem vRst_mgReply (s : State) (h : MgmtHdr) (op status : Nat) (body : List Byte) :
    (mgReply s h op status body).vRst = s.vRst := by simp [mgReply]

@[simp] theorem tookMessage_rst (s : State) (via : Transport) :
    (tookMessage s via).rst = s.rst := (vRst_def _).symm.trans ((vRst_tookMessage ..).trans (vRst_def _))

@[simp] theorem mgReply_rst (s : State) (h : MgmtHdr) (op status : Nat) (body : List Byte) :
    (mgReply s h op status body).rst = s.rst := (vRst_def _).symm.trans ((vRst_mgReply ..).trans (vRst_def _))

/-! ### The Ostler -/

@[simp] theorem vOstler_mgReply (s : State) (h : MgmtHdr) (op status : Nat) (body : List Byte) :
    (mgReply s h op status body).vOstler = s.vOstler := by simp [mgReply]

@[simp] theorem mgReply_ostler (s : State) (h : MgmtHdr) (op status : Nat) (body : List Byte) :
    (mgReply s h op status body).ostler = s.ostler := (vOstler_def _).symm.trans ((vOstler_mgReply ..).trans (vOstler_def _))

/-! ### The clock discipline -/

/-- The clock discipline of a state, as a function of it. -/
def State.vDisc (s : State) : Disc := s.disc

@[simp] theorem vDisc_mk (x0 : List Instr) (x1 : Nat) (x2 : Nat) (x3 : List Byte) (x4 : Bool) (x5 : NMap Byte) (x6 : List
      (Nat × Nat)) (x7 : NMap W64) (x8 : W64) (x9 : NMap Pos) (x10 : NMap Stall) (x11 : NMap LoftLine) (x12 : List Msg) (x13
      : NMap Ctx) (x14 : NMap Rec) (x15 : Yardm) (x16 : Hbm) (x17 : Granary) (x18 : NMap Drover) (x19 : List Report) (x20 :
      Rhoa) (x21 : Gateh) (x22 : Daybk) (x23 : Fuses) (x24 : Tack) (x25 : Smithy) (x26 : Rst) (x27 : Supply) (x28 : Ostler)
      (x29 : Disc) (x30 : Tap) (x31 : List (Transport × List Byte)) (x32 : List (List Byte)) :
    (State.mk x0 x1 x2 x3 x4 x5 x6 x7 x8 x9 x10 x11 x12 x13 x14 x15 x16 x17 x18 x19 x20 x21 x22 x23 x24 x25 x26 x27 x28 x29
      x30 x31 x32).vDisc = x29 := (rfl)

theorem vDisc_eta (s : State) : s.disc = s.vDisc := (rfl)

@[simp] theorem vDisc_ite (c : Prop) [Decidable c] (a b : State) : (if c then a else b).vDisc = if c then a.vDisc else
      b.vDisc := by
  split <;> rfl

@[simp] theorem vDisc_csrPut (s : State) (off : Nat) (v : W64) :
    (csrPut s off v).vDisc = s.vDisc := by simp [csrPut, vDisc_eta]

@[simp] theorem vDisc_csrSetField (s : State) (off hi lo v : Nat) :
    (csrSetField s off hi lo v).vDisc = s.vDisc := by simp [csrSetField]

@[simp] theorem vDisc_bumpBy (s : State) (off wrapOff wrapBit n : Nat) :
    (bumpBy s off wrapOff wrapBit n).vDisc = s.vDisc := by simp [bumpBy]

@[simp] theorem vDisc_rlCount (s : State) (n i k : Nat) :
    (rlCount s n i k).vDisc = s.vDisc := by simp [rlCount]

@[simp] theorem vDisc_modPort (s : State) (n : Nat) (f : Port → Port) :
    (modPort s n f).vDisc = s.vDisc := by simp [modPort, vDisc_eta]

@[simp] theorem vDisc_wireFlit (s : State) (n : Nat) (b : List Byte) (seq : BitVec 16) :
    (wireFlit s n b seq).vDisc = s.vDisc := by simp [wireFlit, vDisc_eta]

theorem vDisc_sendOne (s t : State) (n : Nat) (h : sendOne s n = some t) : t.vDisc = s.vDisc := by
  unfold sendOne at h
  dsimp only at h
  split at h
  · cases h
  · split at h
    · cases h
    · cases h
      simp

@[simp] theorem vDisc_pump (k : Nat) (s : State) (n : Nat) : (pump k s n).vDisc = s.vDisc := by
  induction k generalizing s with
  | zero => rfl
  | succ k ih =>
    unfold pump
    split
    · rw [ih]
      exact vDisc_sendOne _ _ _ ‹_›
    · rfl

@[simp] theorem vDisc_pumpPort (s : State) (n : Nat) : (pumpPort s n).vDisc = s.vDisc := by simp [pumpPort]

@[simp] theorem vDisc_sendPlain (s : State) (n type : Nat) :
    (sendPlain s n type).vDisc = s.vDisc := by simp [sendPlain]

@[simp] theorem vDisc_returnCredits (k : Nat) (s : State) (n : Nat) : (returnCredits k s n).vDisc = s.vDisc := by
  induction k generalizing s with
  | zero => rfl
  | succ k ih =>
    unfold returnCredits
    split
    · rfl
    · rw [ih]
      simp

@[simp] theorem vDisc_settle (s : State) (n : Nat) :
    (settle s n).vDisc = s.vDisc := by simp [settle]

@[simp] theorem vDisc_freePlace (s : State) (n place : Nat) :
    (freePlace s n place).vDisc = s.vDisc := by simp [freePlace]

@[simp] theorem vDisc_consume (s : State) (i : Nat) (h : Held) :
    (consume s i h).vDisc = s.vDisc := by simp [consume, vDisc_eta]

@[simp] theorem vDisc_mgCount (s : State) (i : Nat) :
    (mgCount s i).vDisc = s.vDisc := by simp [mgCount]

theorem vDisc_def (s : State) : s.vDisc = s.disc := rfl

@[simp] theorem consume_disc (s : State) (i : Nat) (h : Held) :
    (consume s i h).disc = s.disc := (vDisc_def _).symm.trans ((vDisc_consume ..).trans (vDisc_def _))

@[simp] theorem mgCount_disc (s : State) (i : Nat) :
    (mgCount s i).disc = s.disc := (vDisc_def _).symm.trans ((vDisc_mgCount ..).trans (vDisc_def _))

/-! ### The messages sent -/

@[simp] theorem vSent_foldl {β : Type} (g : State → β → State) (h : ∀ s b, (g s b).vSent = s.vSent) (l : List β) (s : State) :
    (l.foldl g s).vSent = s.vSent := by
  induction l generalizing s with
  | nil => rfl
  | cons b l ih => exact (ih (g s b)).trans (h s b)

@[simp] theorem vSent_draw (s : State) :
    (draw s).2.vSent = s.vSent := by simp [draw, vSent_eta]

@[simp] theorem vSent_bumpBy (s : State) (off wrapOff wrapBit n : Nat) :
    (bumpBy s off wrapOff wrapBit n).vSent = s.vSent := by simp [bumpBy]

@[simp] theorem vSent_bump (s : State) (off wrapOff wrapBit : Nat) :
    (bump s off wrapOff wrapBit).vSent = s.vSent := by simp [bump]

@[simp] theorem vSent_rlCount (s : State) (n i k : Nat) :
    (rlCount s n i k).vSent = s.vSent := by simp [rlCount]

@[simp] theorem vSent_trCount (s : State) (i : Nat) :
    (trCount s i).vSent = s.vSent := by simp [trCount]

@[simp] theorem vSent_modPort (s : State) (n : Nat) (f : Port → Port) :
    (modPort s n f).vSent = s.vSent := by simp [modPort, vSent_eta]

@[simp] theorem vSent_wireFlit (s : State) (n : Nat) (b : List Byte) (seq : BitVec 16) :
    (wireFlit s n b seq).vSent = s.vSent := by simp [wireFlit, vSent_eta]

theorem vSent_sendOne (s t : State) (n : Nat) (h : sendOne s n = some t) : t.vSent = s.vSent := by
  unfold sendOne at h
  dsimp only at h
  split at h
  · cases h
  · split at h
    · cases h
    · cases h
      simp

@[simp] theorem vSent_pump (k : Nat) (s : State) (n : Nat) : (pump k s n).vSent = s.vSent := by
  induction k generalizing s with
  | zero => rfl
  | succ k ih =>
    unfold pump
    split
    · rw [ih]
      exact vSent_sendOne _ _ _ ‹_›
    · rfl

@[simp] theorem vSent_pumpPort (s : State) (n : Nat) : (pumpPort s n).vSent = s.vSent := by simp [pumpPort]

@[simp] theorem vSent_sendFlit (s : State) (via : Nat) (b : List Byte) :
    (sendFlit s via b).vSent = s.vSent := by
  unfold sendFlit
  repeat' split
  all_goals simp [vSent_eta]

@[simp] theorem vSent_dbStore (s : State) (type c : Nat) (payload : List Byte) :
    (dbStore s type c payload).vSent = s.vSent := by simp [dbStore, vSent_eta]

@[simp] theorem vSent_dbAppend (s : State) (type c : Nat) (payload : List Byte) :
    (dbAppend s type c payload).vSent = s.vSent := by simp [dbAppend, vSent_eta]

@[simp] theorem vSent_dbFault (s : State) (c code lid team handle : Nat) :
    (dbFault s c code lid team handle).vSent = s.vSent := by simp [dbFault]

@[simp] theorem vSent_reportOstler (s : State) (source code detail c : Nat) :
    (reportOstler s source code detail c).vSent = s.vSent := by simp [reportOstler, vSent_eta]

@[simp] theorem vSent_modTack (s : State) (f : Tack → Tack) :
    (modTack s f).vSent = s.vSent := by simp [modTack, vSent_eta]

@[simp] theorem vSent_modOstler (s : State) (f : Ostler → Ostler) :
    (modOstler s f).vSent = s.vSent := by simp [modOstler, vSent_eta]

@[simp] theorem vSent_countStretch (s : State) (p : Nat) :
    (countStretch s p).vSent = s.vSent := by simp [countStretch, vSent_eta]

@[simp] theorem vSent_countEnergy (s : State) (p : Nat) :
    (countEnergy s p).vSent = s.vSent := by simp [countEnergy, vSent_eta]

@[simp] theorem vSent_tookMessage (s : State) (via : Transport) :
    (tookMessage s via).vSent = s.vSent := by
  unfold tookMessage
  split <;> simp [vSent_eta]

@[simp] theorem vSent_modSmithy (s : State) (f : Smithy → Smithy) :
    (modSmithy s f).vSent = s.vSent := by simp [modSmithy, vSent_eta]

@[simp] theorem vSent_setStage (s : State) (via : Transport) (k : Nat) :
    (setStage s via k).vSent = s.vSent := by simp [setStage]

@[simp] theorem vSent_smithyEcdhe (s : State) (ok : Bool) :
    (smithyEcdhe s ok).vSent = s.vSent := by simp [smithyEcdhe]

@[simp] theorem vSent_restage (s : State) (c : Nat) :
    (restage s c).vSent = s.vSent := by simp [restage]

@[simp] theorem vSent_eraseSector (s : State) (k : Nat) :
    (eraseSector s k).vSent = s.vSent := by simp [eraseSector]

@[simp] theorem vSent_programByte (s : State) (o : Nat) (b : Byte) :
    (programByte s o b).vSent = s.vSent := by simp [programByte]

@[simp] theorem vSent_flashWriteData (s : State) (off : Nat) (data : List Byte) :
    (flashWriteData s off data).vSent = s.vSent := by simp [flashWriteData]

@[simp] theorem vSent_csrReadClear (s : State) (off : Nat) :
    (csrReadClear s off).vSent = s.vSent := by
  unfold csrReadClear
  repeat' split
  all_goals simp [vSent_eta]

@[simp] theorem vSent_metered (s : State) (off : Nat) :
    (metered s off).vSent = s.vSent := by simp [metered]

@[simp] theorem vSent_csrReadWord (s : State) (off : Nat) :
    (csrReadWord s off).2.vSent = s.vSent := by simp [csrReadWord]

@[simp] theorem vSent_csrRead (s : State) (off width : Nat) :
    (csrRead s off width).2.vSent = s.vSent := by
  unfold csrRead
  repeat' split
  all_goals simp

@[simp] theorem draw_sent (s : State) :
    (draw s).2.sent = s.sent := (vSent_def _).symm.trans ((vSent_draw ..).trans (vSent_def _))

@[simp] theorem trCount_sent (s : State) (i : Nat) :
    (trCount s i).sent = s.sent := (vSent_def _).symm.trans ((vSent_trCount ..).trans (vSent_def _))

@[simp] theorem sendFlit_sent (s : State) (via : Nat) (b : List Byte) :
    (sendFlit s via b).sent = s.sent := (vSent_def _).symm.trans ((vSent_sendFlit ..).trans (vSent_def _))

@[simp] theorem tookMessage_sent (s : State) (via : Transport) :
    (tookMessage s via).sent = s.sent := (vSent_def _).symm.trans ((vSent_tookMessage ..).trans (vSent_def _))

@[simp] theorem setStage_sent (s : State) (via : Transport) (k : Nat) :
    (setStage s via k).sent = s.sent := (vSent_def _).symm.trans ((vSent_setStage ..).trans (vSent_def _))

@[simp] theorem smithyEcdhe_sent (s : State) (ok : Bool) :
    (smithyEcdhe s ok).sent = s.sent := (vSent_def _).symm.trans ((vSent_smithyEcdhe ..).trans (vSent_def _))

@[simp] theorem restage_sent (s : State) (c : Nat) :
    (restage s c).sent = s.sent := (vSent_def _).symm.trans ((vSent_restage ..).trans (vSent_def _))

@[simp] theorem flashWriteData_sent (s : State) (off : Nat) (data : List Byte) :
    (flashWriteData s off data).sent = s.sent := (vSent_def _).symm.trans ((vSent_flashWriteData ..).trans (vSent_def _))

@[simp] theorem csrRead_sent (s : State) (off width : Nat) :
    (csrRead s off width).2.sent = s.sent := (vSent_def _).symm.trans ((vSent_csrRead ..).trans (vSent_def _))

/-! ### The fuses -/

/-- The fuses of a state, as a function of it. -/
def State.vFuses (s : State) : Fuses := s.fuses

@[simp] theorem vFuses_mk (x0 : List Instr) (x1 : Nat) (x2 : Nat) (x3 : List Byte) (x4 : Bool) (x5 : NMap Byte) (x6 : List
      (Nat × Nat)) (x7 : NMap W64) (x8 : W64) (x9 : NMap Pos) (x10 : NMap Stall) (x11 : NMap LoftLine) (x12 : List Msg) (x13
      : NMap Ctx) (x14 : NMap Rec) (x15 : Yardm) (x16 : Hbm) (x17 : Granary) (x18 : NMap Drover) (x19 : List Report) (x20 :
      Rhoa) (x21 : Gateh) (x22 : Daybk) (x23 : Fuses) (x24 : Tack) (x25 : Smithy) (x26 : Rst) (x27 : Supply) (x28 : Ostler)
      (x29 : Disc) (x30 : Tap) (x31 : List (Transport × List Byte)) (x32 : List (List Byte)) :
    (State.mk x0 x1 x2 x3 x4 x5 x6 x7 x8 x9 x10 x11 x12 x13 x14 x15 x16 x17 x18 x19 x20 x21 x22 x23 x24 x25 x26 x27 x28 x29
      x30 x31 x32).vFuses = x23 := (rfl)

theorem vFuses_eta (s : State) : s.fuses = s.vFuses := (rfl)

@[simp] theorem vFuses_ite (c : Prop) [Decidable c] (a b : State) : (if c then a else b).vFuses = if c then a.vFuses else
      b.vFuses := by
  split <;> rfl

@[simp] theorem vFuses_foldl {β : Type} (g : State → β → State) (h : ∀ s b, (g s b).vFuses = s.vFuses) (l : List β) (s : State) :
    (l.foldl g s).vFuses = s.vFuses := by
  induction l generalizing s with
  | nil => rfl
  | cons b l ih => exact (ih (g s b)).trans (h s b)

@[simp] theorem vFuses_csrPut (s : State) (off : Nat) (v : W64) :
    (csrPut s off v).vFuses = s.vFuses := by simp [csrPut, vFuses_eta]

@[simp] theorem vFuses_csrSetField (s : State) (off hi lo v : Nat) :
    (csrSetField s off hi lo v).vFuses = s.vFuses := by simp [csrSetField]

@[simp] theorem vFuses_bumpBy (s : State) (off wrapOff wrapBit n : Nat) :
    (bumpBy s off wrapOff wrapBit n).vFuses = s.vFuses := by simp [bumpBy]

@[simp] theorem vFuses_rlCount (s : State) (n i k : Nat) :
    (rlCount s n i k).vFuses = s.vFuses := by simp [rlCount]

@[simp] theorem vFuses_modPort (s : State) (n : Nat) (f : Port → Port) :
    (modPort s n f).vFuses = s.vFuses := by simp [modPort, vFuses_eta]

@[simp] theorem vFuses_wireFlit (s : State) (n : Nat) (b : List Byte) (seq : BitVec 16) :
    (wireFlit s n b seq).vFuses = s.vFuses := by simp [wireFlit, vFuses_eta]

theorem vFuses_sendOne (s t : State) (n : Nat) (h : sendOne s n = some t) : t.vFuses = s.vFuses := by
  unfold sendOne at h
  dsimp only at h
  split at h
  · cases h
  · split at h
    · cases h
    · cases h
      simp

@[simp] theorem vFuses_pump (k : Nat) (s : State) (n : Nat) : (pump k s n).vFuses = s.vFuses := by
  induction k generalizing s with
  | zero => rfl
  | succ k ih =>
    unfold pump
    split
    · rw [ih]
      exact vFuses_sendOne _ _ _ ‹_›
    · rfl

@[simp] theorem vFuses_pumpPort (s : State) (n : Nat) : (pumpPort s n).vFuses = s.vFuses := by simp [pumpPort]

@[simp] theorem vFuses_sendFlit (s : State) (via : Nat) (b : List Byte) :
    (sendFlit s via b).vFuses = s.vFuses := by
  unfold sendFlit
  repeat' split
  all_goals simp [vFuses_eta]

@[simp] theorem vFuses_answer (s : State) (via : Transport) (type : Nat) (m : List Byte) :
    (answer s via type m).vFuses = s.vFuses := by
  unfold answer
  split <;> simp [vFuses_eta]

@[simp] theorem vFuses_tookMessage (s : State) (via : Transport) :
    (tookMessage s via).vFuses = s.vFuses := by
  unfold tookMessage
  split <;> simp [vFuses_eta]

@[simp] theorem vFuses_mgCount (s : State) (i : Nat) :
    (mgCount s i).vFuses = s.vFuses := by simp [mgCount]

@[simp] theorem vFuses_restage (s : State) (c : Nat) :
    (restage s c).vFuses = s.vFuses := by simp [restage]

@[simp] theorem vFuses_mgSend (s : State) (via : Transport) (secured : Bool) (m : List Byte) :
    (mgSend s via secured m).vFuses = s.vFuses := by simp [mgSend]

@[simp] theorem vFuses_mgReply (s : State) (h : MgmtHdr) (op status : Nat) (body : List Byte) :
    (mgReply s h op status body).vFuses = s.vFuses := by simp [mgReply]

theorem vFuses_def (s : State) : s.vFuses = s.fuses := rfl

@[simp] theorem tookMessage_fuses (s : State) (via : Transport) :
    (tookMessage s via).fuses = s.fuses := (vFuses_def _).symm.trans ((vFuses_tookMessage ..).trans (vFuses_def _))

@[simp] theorem mgCount_fuses (s : State) (i : Nat) :
    (mgCount s i).fuses = s.fuses := (vFuses_def _).symm.trans ((vFuses_mgCount ..).trans (vFuses_def _))

@[simp] theorem restage_fuses (s : State) (c : Nat) :
    (restage s c).fuses = s.fuses := (vFuses_def _).symm.trans ((vFuses_restage ..).trans (vFuses_def _))

@[simp] theorem mgReply_fuses (s : State) (h : MgmtHdr) (op status : Nat) (body : List Byte) :
    (mgReply s h op status body).fuses = s.fuses := (vFuses_def _).symm.trans ((vFuses_mgReply ..).trans (vFuses_def _))

end Sys2Proof.Machine
end

section
/-!
PROOFS. The Ledger's sources, the Smithy, SPDM and the Thiash messages.
-/

namespace Sys2Proof.Machine

/-! ### What the sending of flits leaves alone (R335, R340) -/

theorem port_modPort (s : State) (n : Nat) (f : Port → Port) (m : Nat) :
    port (modPort s n f) m = if m = n then f (port s n) else port s m := by
  by_cases h : m = n
  · rw [if_pos h, h, port_modPort_same]
  · rw [if_neg h, port_modPort_other s h]

theorem port_congr {s u : State} (h : u.rhoa = s.rhoa) (n : Nat) : port u n = port s n := by
  rw [port, h, port]

/-- What sending never changes of a port. -/
def sendless (p : Port) : Port :=
  { p with seq := 0, replay := [], queue := [], resend := 0, bulkWait := 0, credits := [], owed := [], progress := 0, rxPlaces := [] }

/-- A step of sending: it changes what ports have sent, are to send and owe, the wire, and the link's counters. -/
structure Sends (s u : State) : Prop where
  port : ∀ n, sendless (port u n) = sendless (port s n)
  rx : u.rhoa.rx = s.rhoa.rx
  csr : ∀ off, off % 0x1000 < 0x100 → csrGet u off = csrGet s off

namespace Sends

variable {s u v : State}

theorem refl (s : State) : Sends s s := ⟨fun _ => rfl, rfl, fun _ _ => rfl⟩

theorem trans (h : Sends s u) (h' : Sends u v) : Sends s v :=
  ⟨fun n => (h'.port n).trans (h.port n), h'.rx.trans h.rx, fun off ho => (h'.csr off ho).trans (h.csr off ho)⟩

theorem modPort (s : State) (n : Nat) {f : Port → Port} (hf : ∀ p, sendless (f p) = sendless p) : Sends s (modPort s n f) := by
  refine ⟨fun m => ?_, rfl, fun off _ => csrGet_congr (modPort_csr ..) off⟩
  rw [port_modPort]
  split
  · next h => rw [hf, h]
  · rfl

theorem rlCount (s : State) (n k : Nat) {i : Nat} (hi : i < 16) : Sends s (rlCount s n i k) :=
  ⟨fun m => by rw [port_congr (rlCount_rhoa ..)], by rw [rlCount_rhoa], fun off ho => csrGet_bumpBy_other s (by omega) (by omega)⟩

theorem wireFlit (s : State) (n : Nat) (b : List Byte) (seq : BitVec 16) : Sends s (wireFlit s n b seq) := by
  have owed := modPort s n (f := fun q => { q with owed := match q.owed with
    | [] => []
    | g :: _ => q.owed.filter (· != g) }) fun _ => rfl
  exact ⟨owed.port, owed.rx, owed.csr⟩

theorem sendOne {n : Nat} (sent : sendOne s n = some u) : Sends s u := by
  unfold Machine.sendOne at sent
  dsimp only at sent
  split at sent
  · exact absurd sent (by simp)
  · split at sent
    · exact absurd sent (by simp)
    · obtain rfl := Option.some.inj sent
      refine ((modPort s n ?_).trans (wireFlit ..)).trans (rlCount _ _ _ (by decide))
      exact fun _ => rfl

theorem pump (k : Nat) (s : State) (n : Nat) : Sends s (pump k s n) := by
  induction k generalizing s with
  | zero => exact refl s
  | succ k ih =>
    unfold Machine.pump
    split
    · next s1 sent => exact (sendOne sent).trans (ih s1)
    · exact refl s

theorem returnCredits (k : Nat) (s : State) (n : Nat) : Sends s (returnCredits k s n) := by
  induction k generalizing s with
  | zero => exact refl s
  | succ k ih =>
    unfold Machine.returnCredits
    split
    · exact refl s
    · exact (wireFlit ..).trans (ih _)

theorem settle (s : State) (n : Nat) : Sends s (settle s n) := by
  have pumped : Sends s (pumpPort s n) := pump ..
  unfold Machine.settle
  dsimp only
  split
  · exact pumped
  · refine pumped.trans (Sends.trans ?_ (returnCredits ..))
    split
    · exact wireFlit ..
    · exact refl _

theorem freePlace (s : State) (n place : Nat) : Sends s (freePlace s n place) := by
  unfold Machine.freePlace
  split
  · exact refl s
  · refine Sends.trans (modPort s n ?_) (settle ..)
    exact fun _ => rfl

end Sends

/-- A flit that is consumed leaves the reception queue; its place is freed. -/
theorem rx_consume (s : State) (i : Nat) (h : Held) : (consume s i h).rhoa.rx = s.rhoa.rx.eraseIdx i :=
  (Sends.freePlace ..).rx

theorem sendless_consume (s : State) (i : Nat) (h : Held) (n : Nat) : sendless (port (consume s i h) n) = sendless (port s n) :=
  (Sends.freePlace ..).port n

theorem csrGet_consume (s : State) (i : Nat) (h : Held) {off : Nat} (ho : off % 0x1000 < 0x100) : csrGet (consume s i h) off = csrGet s off :=
  (Sends.freePlace ..).csr off ho

theorem st_of_sendless {p q : Port} (h : sendless p = sendless q) : p.st = q.st := (congrArg Port.st h :)

/-! ### The Ledger and its sources (R473, R474) -/

theorem leNat_lt (l : List Byte) : leNat l < 256 ^ l.length := by
  induction l with
  | nil => exact Nat.one_pos
  | cons b l ih =>
    rw [leNat, List.length_cons, pow_succ']
    have := b.isLt
    omega

theorem fieldAt_lt (bs : List Byte) (o n : Nat) : fieldAt bs o n < 256 ^ n :=
  (leNat_lt _).trans_le (Nat.pow_le_pow_right (by decide) (List.length_take_le n _))

theorem sat32_lt (x : Int) : sat32 x < 2 ^ 32 := by
  unfold sat32
  dsimp only
  omega

/-- A sample's offset, stepped over or slewed out. -/
def sampleMoved (s : State) (th : Int) : State :=
  if !everLocked s && decide (1000 < th.natAbs) then modDisc (stepLedger s th) fun d => { d with slew := 0, phase := 0 }
  else modDisc s fun d => { d with slew := th }

/-- A sample counted and shown in LEDGER_STATUS. -/
def sampleShown (s : State) (src : Nat) (th : Int) : State :=
  csrSetField (csrSetField (modDisc (sampleMoved s th) fun d => { d with
    good := if th.natAbs ≤ 10 then d.good + 1 else 0, bad := if 40 < th.natAbs then d.bad + 1 else 0, qualAt := (sampleMoved s th).ledger })
    ledgerStatus 31 0 (sat32 th)) ledgerStatus 61 60 src

theorem takeSample_eq (s : State) (src : Nat) (th : Int) : takeSample s src th =
    if 16 ≤ (sampleShown s src th).disc.good then csrSetField (sampleShown s src th) ledgerStatus 63 62 3
    else if 4 ≤ (sampleShown s src th).disc.bad then csrSetField (sampleShown s src th) ledgerStatus 63 63 0
    else sampleShown s src th := rfl

section

variable (s : State) (src : Nat) (th : Int)

theorem good_sampleShown : (sampleShown s src th).disc.good = if th.natAbs ≤ 10 then s.disc.good + 1 else 0 := by
  unfold sampleShown sampleMoved
  split <;> rfl

theorem bad_sampleShown : (sampleShown s src th).disc.bad = if 40 < th.natAbs then s.disc.bad + 1 else 0 := by
  unfold sampleShown sampleMoved
  split <;> rfl

theorem shown_sampleShown (hsrc : src < 4) : csrField (sampleShown s src th) ledgerStatus 31 0 = sat32 th ∧
    csrField (sampleShown s src th) ledgerStatus 61 60 = src := by
  unfold sampleShown
  rw [csrField_set_apart _ _ _ (by decide) (by decide) (.inl (by decide)), csrField_set_same _ _ _ (by decide) (by decide),
    csrField_set_same _ _ _ (by decide) (by decide)]
  exact ⟨Nat.mod_eq_of_lt (sat32_lt th), Nat.mod_eq_of_lt hsrc⟩

/-- What a sample leaves but for LOCKED and EVER_LOCKED. -/
theorem takeSample_field {a b : Nat} (h : a < 62) : csrField (takeSample s src th) ledgerStatus a b = csrField (sampleShown s src th) ledgerStatus a b := by
  rw [takeSample_eq]
  split
  · exact csrField_set_apart _ _ _ (by decide) (by decide) (.inl h)
  · split
    · exact csrField_set_apart _ _ _ (by decide) (by decide) (.inl (by omega))
    · rfl

theorem takeSample_shows (hsrc : src < 4) : csrField (takeSample s src th) ledgerStatus 31 0 = sat32 th ∧
    csrField (takeSample s src th) ledgerStatus 61 60 = src := by
  rw [takeSample_field _ _ _ (by decide), takeSample_field _ _ _ (by decide)]
  exact shown_sampleShown s src th hsrc

theorem takeSample_locks (close : th.natAbs ≤ 10) (row : 15 ≤ s.disc.good) : csrField (takeSample s src th) ledgerStatus 63 62 = 3 := by
  have many : 16 ≤ (sampleShown s src th).disc.good := by
    rw [good_sampleShown, if_pos close]
    omega
  rw [takeSample_eq, if_pos many, csrField_set_same _ _ _ (by decide) (by decide)]
  rfl

theorem takeSample_unlocks (far : 40 < th.natAbs) (row : 3 ≤ s.disc.bad) : csrBit (takeSample s src th) ledgerStatus 63 = false := by
  have none_ : ¬16 ≤ (sampleShown s src th).disc.good := by
    rw [good_sampleShown, if_neg (by omega)]
    decide
  have many : 4 ≤ (sampleShown s src th).disc.bad := by
    rw [bad_sampleShown, if_pos far]
    omega
  rw [takeSample_eq, if_neg none_, if_pos many, csrBit_set_same _ _ _ (by decide)]
  rfl

theorem kept_sampleMoved : (sampleMoved s th).disc.ppsAt = s.disc.ppsAt ∧ (sampleMoved s th).disc.syncAt = s.disc.syncAt ∧
    (sampleMoved s th).disc.t1 = s.disc.t1 := by
  unfold sampleMoved
  split
  · exact ⟨rfl, rfl, rfl⟩
  · exact ⟨rfl, rfl, rfl⟩

/-- What of a sample the Ledger and its discipline show: the offset moved. -/
theorem takeSample_moves : (takeSample s src th).ledger = (sampleMoved s th).ledger ∧ (takeSample s src th).disc.slew = (sampleMoved s th).disc.slew ∧
    (takeSample s src th).disc.ppsAt = s.disc.ppsAt ∧ (takeSample s src th).disc.syncAt = s.disc.syncAt ∧
    (takeSample s src th).disc.t1 = s.disc.t1 := by
  have ledger : (takeSample s src th).ledger = (sampleShown s src th).ledger := by
    rw [takeSample_eq]
    split
    · rw [csrSetField_ledger]
    · split
      · rw [csrSetField_ledger]
      · rfl
  have disc : (takeSample s src th).disc = (sampleShown s src th).disc := by
    rw [takeSample_eq]
    split
    · rw [csrSetField_disc]
    · split
      · rw [csrSetField_disc]
      · rfl
  rw [ledger, disc, sampleShown, csrSetField_ledger, csrSetField_ledger, csrSetField_disc, csrSetField_disc, modDisc_ledger, modDisc_disc]
  exact ⟨rfl, rfl, kept_sampleMoved s th⟩

theorem takeSample_slews (h : csrBit s ledgerStatus 62 = true ∨ th.natAbs ≤ 1000) :
    (takeSample s src th).ledger = s.ledger ∧ (takeSample s src th).disc.slew = th := by
  obtain ⟨ledger, slew, -⟩ := takeSample_moves s src th
  have stays : ¬(!everLocked s && decide (1000 < th.natAbs)) = true := by
    obtain h | h := h
    · rw [everLocked, h, Bool.not_true, Bool.false_and]
      exact Bool.false_ne_true
    · rw [decide_eq_false (Nat.not_lt.2 h), Bool.and_false]
      exact Bool.false_ne_true
  rw [ledger, slew, sampleMoved, if_neg stays]
  exact ⟨rfl, rfl⟩

theorem takeSample_steps (never : csrBit s ledgerStatus 62 = false) (far : 1000 < th.natAbs) :
    (takeSample s src th).ledger = s.ledger + BitVec.ofInt 64 th ∧ (takeSample s src th).disc.slew = 0 := by
  obtain ⟨ledger, slew, -⟩ := takeSample_moves s src th
  have steps : (!everLocked s && decide (1000 < th.natAbs)) = true := by
    rw [everLocked, never, decide_eq_true far]
    rfl
  rw [ledger, slew, sampleMoved, if_pos steps]
  exact ⟨rfl, rfl⟩

end

/-- The Ledger's discipline by the pulse per second and by time out. -/
theorem ledger_pps (s : State) :
    let s1 := { s with disc := { s.disc with ppsAt := some s.ledger } }
    let th : Int := (((s.ledger.toNat + 500000000) / 1000000000 * 1000000000 : Nat) : Int) - (s.ledger.toNat : Int)
    (∀ t, s.disc.ppsAt = some t → s.ledger.toNat < t.toNat + 500000000 → Completes .timePps s fun u => u = s) ∧
    ((∀ t, s.disc.ppsAt = some t → t.toNat + 500000000 ≤ s.ledger.toNat) →
      (sourceNow s1 ≠ 3 → Completes .timePps s fun u => u = s1) ∧
      (sourceNow s1 = 3 → Completes .timePps s fun u =>
        csrField u 0x0200008 31 0 = sat32 th ∧ csrField u 0x0200008 61 60 = 3 ∧ u.disc.ppsAt = some s.ledger ∧
        (csrBit s 0x0200008 62 = true ∨ th.natAbs ≤ 1000 → u.ledger = s.ledger ∧ u.disc.slew = th) ∧
        (csrBit s 0x0200008 62 = false → 1000 < th.natAbs → u.ledger = s.ledger + BitVec.ofInt 64 th ∧ u.disc.slew = 0) ∧
        (th.natAbs ≤ 10 → 15 ≤ s.disc.good → csrField u 0x0200008 63 62 = 3) ∧
        (40 < th.natAbs → 3 ≤ s.disc.bad → csrBit u 0x0200008 63 = false))) := by
  intro s1 th
  refine ⟨fun t at_ early => ⟨s, congrArg Host.Outcome.next ?_, rfl⟩, fun late => ?_⟩
  · rw [at_]
    exact if_pos (decide_eq_true early)
  · have run : exec .timePps s = .next (sampleFrom s1 3 th) := by
      refine congrArg Host.Outcome.next (if_neg ?_)
      cases at_ : s.disc.ppsAt with
      | none => exact Bool.false_ne_true
      | some t =>
        dsimp only
        rw [decide_eq_true_iff]
        exact Nat.not_lt.2 (late t at_)
    refine ⟨fun other => ⟨s1, run.trans (congrArg _ (if_neg other)), rfl⟩, fun source => ?_⟩
    have taken : exec .timePps s = .next (takeSample s1 3 th) := run.trans (congrArg _ (if_pos source))
    obtain ⟨offset, src⟩ := takeSample_shows s1 3 th (by decide)
    obtain ⟨-, -, at_, -⟩ := takeSample_moves s1 3 th
    exact completes_of taken ⟨offset, src, at_, takeSample_slews s1 3 th, takeSample_steps s1 3 th, takeSample_locks s1 3 th,
      takeSample_unlocks s1 3 th⟩

/-- A beacon's effect but for the sample it gives. -/
def beaconTaken (s : State) (i : Nat) (h : Held) : State :=
  modPort (consume s i h) h.port fun p => { p with beaconRx := BitVec.ofNat 64 (fieldAt h.bytes 16 8), beaconAt := h.at_ }

theorem beaconTaken_port (s : State) (i : Nat) (h : Held) : (port (beaconTaken s i h) h.port).beaconRx.toNat = fieldAt h.bytes 16 8 ∧
    (port (beaconTaken s i h) h.port).beaconAt = h.at_ := by
  rw [beaconTaken, port_modPort_same]
  exact ⟨BitVec.toNat_ofNat .. ▸ Nat.mod_eq_of_lt (fieldAt_lt ..), rfl⟩

theorem beaconTaken_source (s : State) (i : Nat) (h : Held) {bp : Nat} (at_ : csrField s 0x07C0000 21 16 = bp) (low : bp < 48)
    (up : carries (port s bp).st = true) : sourceNow (beaconTaken s i h) = 1 := by
  have st : (port (beaconTaken s i h) bp).st = (port s bp).st := by
    refine Eq.trans ?_ (st_of_sendless (sendless_consume s i h bp))
    rw [beaconTaken, port_modPort]
    split
    · next same => rw [same]
    · rfl
  have csr : csrField (beaconTaken s i h) 0x07C0000 21 16 = bp := by
    rw [beaconTaken, csrField_congr (csrGet_congr (modPort_csr ..) _), csrField_congr (csrGet_consume s i h (by decide)), at_]
  unfold sourceNow
  dsimp only
  rw [csr, st, up, decide_eq_true low]
  rfl

theorem ledger_beacon (s : State) (i : Nat) (h : Held) (found : rxEntry s i = some h) (beacon : flitType h.bytes = 0xB) :
    let tx := fieldAt h.bytes 16 8
    let bp := csrField s 0x07C0000 21 16
    Completes (.beacon i) s fun u => u.rhoa.rx = s.rhoa.rx.eraseIdx i ∧
      (port u h.port).beaconRx.toNat = tx ∧ (port u h.port).beaconAt = h.at_ ∧
      (h.port ≠ bp → u.ledger = s.ledger ∧ u.disc = s.disc) ∧
      (h.port = bp → bp < 48 → carries (port s bp).st = true → csrField u 0x0200008 31 0 =
        sat32 ((tx : Int) + (((h.at_.toNat : Int) - (fieldAt h.bytes 24 8 : Nat)) - ((tx : Int) - (fieldAt h.bytes 32 8 : Nat))) / 2 - (h.at_.toNat : Int))) := by
  intro tx bp
  have run : exec (.beacon i) s = .next (if h.port = bp then
      sampleFrom (beaconTaken s i h) 1 (beaconOffset tx (fieldAt h.bytes 24 8) (fieldAt h.bytes 32 8) h.at_.toNat) else beaconTaken s i h) := by
    refine congrArg Host.Outcome.next ?_
    rw [found]
    exact if_neg (not_not.2 beacon)
  obtain ⟨rx_, at_⟩ := beaconTaken_port s i h
  have gone : (beaconTaken s i h).rhoa.rx = s.rhoa.rx.eraseIdx i := rx_consume s i h
  by_cases same : h.port = bp
  · rw [if_pos same] at run
    have rhoa := sampleFrom_rhoa (beaconTaken s i h) 1 (beaconOffset tx (fieldAt h.bytes 24 8) (fieldAt h.bytes 32 8) h.at_.toNat)
    refine completes_of run ⟨by rw [rhoa, gone], by rw [port_congr rhoa, rx_], by rw [port_congr rhoa, at_], fun ne => absurd same ne,
      fun _ low up => ?_⟩
    rw [sampleFrom, if_pos (beaconTaken_source s i h rfl low up)]
    exact (takeSample_shows _ 1 _ (by decide)).1
  · rw [if_neg same] at run
    refine completes_of run ⟨gone, rx_, at_, fun _ => ⟨?_, ?_⟩, fun eq => absurd eq same⟩
    · rw [beaconTaken, modPort_ledger, consume_ledger]
    · rw [beaconTaken, modPort_disc, consume_disc]

/-- The Ledger's discipline when a source is lost. -/
def sourceLost (s : State) : State :=
  modDisc (csrSetField (csrSetField s ledgerStatus 63 63 0) ledgerStatus 61 60 0) fun d => { d with good := 0, bad := 0, slew := 0 }

theorem ledger_timeout (s : State) :
    (sourceNow s ≠ 0 ∨ s.ledger.toNat < s.disc.qualAt.toNat + 2000000000 → Completes .ledgerSourceTimeout s fun u => u = s) ∧
    (sourceNow s = 0 → s.disc.qualAt.toNat + 2000000000 ≤ s.ledger.toNat → Completes .ledgerSourceTimeout s fun u =>
      csrBit u 0x0200008 63 = false ∧ csrField u 0x0200008 61 60 = 0 ∧ csrBit u 0x0200008 62 = csrBit s 0x0200008 62 ∧
      u.disc.slew = 0 ∧ u.ledger = s.ledger) := by
  have run : exec .ledgerSourceTimeout s = .next (if sourceNow s ≠ 0 ∨ now s < s.disc.qualAt.toNat + 2000000000 then s else sourceLost s) := by
    refine congrArg Host.Outcome.next ?_
    simp only [Bool.or_eq_true, decide_eq_true_eq]
    rfl
  refine ⟨fun none_ => ⟨s, run.trans (congrArg _ (if_pos none_)), rfl⟩, fun lost late => ?_⟩
  have ends : ¬(sourceNow s ≠ 0 ∨ now s < s.disc.qualAt.toNat + 2000000000) := not_or.2 ⟨not_not.2 lost, Nat.not_lt.2 late⟩
  have csr := csrGet_congr (modDisc_csr (csrSetField (csrSetField s ledgerStatus 63 63 0) ledgerStatus 61 60 0) fun d =>
    { d with good := 0, bad := 0, slew := 0 }) ledgerStatus
  refine completes_of (run.trans (congrArg _ (if_neg ends))) ⟨?_, ?_, ?_, by rw [sourceLost, modDisc_disc], ?_⟩
  · refine (csrBit_congr csr 63).trans ?_
    rw [csrBit_set_apart _ _ _ (by decide) (by decide) (.inr (by decide)), csrBit_set_same _ _ _ (by decide)]
    rfl
  · exact (csrField_congr csr 61 60).trans (csrField_set_same _ ledgerStatus 0 (by decide) (by decide))
  · refine (csrBit_congr csr 62).trans ?_
    rw [csrBit_set_apart _ _ _ (by decide) (by decide) (.inr (by decide)), csrBit_set_apart _ _ _ (by decide) (by decide) (.inl (by decide))]
    rfl
  · rw [sourceLost, modDisc_ledger, csrSetField_ledger, csrSetField_ledger]

/-! ### PTP (R475) -/

theorem sourceNow_mgCount (s : State) (i : Nat) : sourceNow (mgCount s i) = sourceNow s := by
  have csr {off : Nat} (h : off < 0x0B00100) : csrGet (mgCount s i) off = csrGet s off := csrGet_mgCount_other s (by omega)
  unfold sourceNow recent now
  dsimp only
  rw [csrField_congr (csr (by decide)), csrBit_congr (csr (by decide)), csrBit_congr (csr (by decide)), mgCount_disc, mgCount_ledger]
  simp only [port_congr (mgCount_rhoa ..)]

/-- A sample that PTP gives, while PTP is the source. -/
theorem ptpSample_taken {s : State} {v : W64} {d : Int} (t1 : s.disc.t1 = some v) (delay : s.disc.delay = some d) (source : sourceNow s = 2) :
    ptpSample s = takeSample (mgCount s 3) 2 ((v.toNat : Int) + d - s.disc.t2.toNat) := by
  unfold ptpSample
  rw [t1, delay]
  dsimp only
  rw [if_pos source, sampleFrom, sourceNow_mgCount, if_pos source]

theorem ptpSample_waits {s : State} (h : s.disc.t1 = none ∨ s.disc.delay = none) : ptpSample s = s := by
  unfold ptpSample
  obtain h | h := h <;> rw [h]
  cases s.disc.t1 <;> rfl

theorem ptpSample_shows {s : State} {v : W64} {d : Int} (t1 : s.disc.t1 = some v) (delay : s.disc.delay = some d) (source : sourceNow s = 2) :
    csrField (ptpSample s) 0x0200008 31 0 = sat32 ((v.toNat : Int) + d - s.disc.t2.toNat) ∧ csrField (ptpSample s) 0x0200008 61 60 = 2 ∧
      (ptpSample s).disc.t1 = some v ∧ (ptpSample s).disc.syncAt = s.disc.syncAt := by
  rw [ptpSample_taken t1 delay source]
  obtain ⟨offset, src⟩ := takeSample_shows (mgCount s 3) 2 ((v.toNat : Int) + d - s.disc.t2.toNat) (by decide)
  obtain ⟨-, -, -, sync, t1'⟩ := takeSample_moves (mgCount s 3) 2 ((v.toNat : Int) + d - s.disc.t2.toNat)
  rw [mgCount_disc] at sync t1'
  exact ⟨offset, src, t1'.trans t1, sync⟩

section

variable {s : State} {v m p : W64}

/-- A Sync of the chosen master, time-stamped. -/
def syncStamped (s : State) (t1 : Option W64) : State := modDisc s fun d => { d with syncAt := some s.ledger, t2 := s.ledger, t1 := t1 }

theorem execPtpSync_of (two : Bool) (on : csrBit s 0x0200010 31 = true) (chosen : s.disc.master = some m) : exec (.ptpSync two v m) s =
    .next (if two then syncStamped s none else ptpSample (syncStamped s (some v))) := by
  have takes : ¬(!ptpOn s || decide (s.disc.master ≠ some m)) = true := by
    rw [ptpOn, on, chosen]
    simp
  refine congrArg Host.Outcome.next ((if_neg takes).trans ?_)
  cases two <;> rfl

theorem execPtpSync_other (two : Bool) (h : csrBit s 0x0200010 31 = false ∨ s.disc.master ≠ some m) : exec (.ptpSync two v m) s = .next s := by
  refine congrArg Host.Outcome.next (if_pos ?_)
  obtain h | h := h
  · rw [ptpOn, h]
    rfl
  · rw [decide_eq_true h, Bool.or_true]

theorem execPtpFollowUp_of (on : csrBit s 0x0200010 31 = true) (sync : s.disc.syncAt.isSome = true) (t1 : s.disc.t1 = none) :
    exec (.ptpFollowUp v) s = .next (ptpSample { s with disc := { s.disc with t1 := some v } }) := by
  refine congrArg Host.Outcome.next (if_neg ?_)
  rw [ptpOn, on, t1, ← Option.not_isSome, sync]
  decide

theorem execPtpFollowUp_none (h : csrBit s 0x0200010 31 = false ∨ s.disc.syncAt = none ∨ s.disc.t1.isSome = true) :
    exec (.ptpFollowUp v) s = .next s := by
  refine congrArg Host.Outcome.next (if_pos ?_)
  obtain h | h | h := h
  · rw [ptpOn, h]
    rfl
  · rw [h, Option.isNone_none, Bool.or_true, Bool.true_or]
  · rw [h, Bool.or_true]

theorem execPtpDelayReq_none (h : csrBit s 0x0200010 31 = false ∨ s.disc.master = none ∨ s.disc.t1 = none) : exec .ptpDelayReq s = .next s := by
  refine congrArg Host.Outcome.next (if_pos ?_)
  obtain h | h | h := h
  · rw [ptpOn, h]
    rfl
  · rw [h, Option.isNone_none, Bool.or_true, Bool.true_or]
  · rw [h, Option.isNone_none, Bool.or_true]

/-- A master that is chosen anew. -/
def masterTaken (s : State) (m p : W64) : State :=
  modDisc s fun d => { d with master := some m, prio := p, syncAt := none, t1 := none, t3 := none, delay := none }

theorem execPtpAnnounce_on (on : csrBit s 0x0200010 31 = true) : exec (.ptpAnnounce m p) s = .next (match s.disc.master with
    | none => masterTaken s m p
    | some k =>
      if k = m then modDisc s fun d => { d with prio := p }
      else if p < s.disc.prio || (p = s.disc.prio && m < k) || (s.disc.syncAt.isSome && !recent s s.disc.syncAt) then masterTaken s m p
      else s) := by
  refine congrArg Host.Outcome.next ((if_neg ?_).trans rfl)
  rw [ptpOn, on]
  decide

end

theorem ptp_off {s : State} (v m p : W64) (two : Bool) (off : csrBit s 0x0200010 31 = false) :
    ∀ i ∈ [Instr.ptpSync two v m, .ptpFollowUp v, .ptpDelayReq, .ptpAnnounce m p], Completes i s fun u => u = s := by
  intro i hi
  simp only [List.mem_cons, List.not_mem_nil, or_false] at hi
  obtain rfl | rfl | rfl | rfl := hi
  · exact ⟨s, execPtpSync_other two (.inl off), rfl⟩
  · exact ⟨s, execPtpFollowUp_none (.inl off), rfl⟩
  · exact ⟨s, execPtpDelayReq_none (.inl off), rfl⟩
  · exact ⟨s, congrArg Host.Outcome.next (if_pos (by rw [ptpOn, off]; rfl)), rfl⟩

/-- Settles O46: the Ledger's sources, then PTP's messages. -/
theorem ledgerFollowsSources : Obligations.LedgerFollowsSources := by
  refine ⟨⟨fun s v => ?_, ledger_pps, ledger_beacon, ledger_timeout⟩, fun s v m p two => ?_⟩
  · refine ⟨_, rfl, ?_⟩
    rw [writeLedgerSet]
    by_cases locked : everLocked s = true
    · rw [if_pos locked]
      exact congrArg (fun w => { s with ledger := w }) (if_pos locked).symm
    · rw [if_neg locked]
      exact congrArg (fun w => { s with ledger := w }) (if_neg locked).symm
  · refine ⟨ptp_off v m p two, fun other => ⟨s, execPtpSync_other two (.inr other), rfl⟩, fun on chosen => ?_, fun on chosen delay => ?_,
      fun d on chosen delay source => ?_, fun none_ => ⟨s, execPtpFollowUp_none (.inr none_), rfl⟩, fun on sync t1 delay => ?_,
      fun none_ => ⟨s, execPtpDelayReq_none (.inr none_), rfl⟩, fun none_ => ?_, fun on chosen => ?_, fun t d on sync t1 delay source => ?_,
      fun on chosen t1 => ?_, fun t1 t3 ht1 ht3 => ?_, fun on none_ => ?_, fun k on chosen other better => ?_,
      fun k on chosen other worse sync => ?_⟩
    · exact ⟨_, execPtpSync_of true on chosen, rfl⟩
    · refine ⟨_, execPtpSync_of false on chosen, ?_⟩
      exact ptpSample_waits (s := syncStamped s (some v)) (.inr delay)
    · obtain ⟨offset, src, t1, sync⟩ := ptpSample_shows (s := syncStamped s (some v)) rfl delay source
      exact ⟨_, execPtpSync_of false on chosen, sync, t1, offset, src⟩
    · refine ⟨_, execPtpFollowUp_of on sync t1, ?_⟩
      exact ptpSample_waits (s := { s with disc := { s.disc with t1 := some v } }) (.inr delay)
    · refine ⟨s, congrArg Host.Outcome.next ?_, rfl⟩
      obtain h | h := none_
      · rw [h]
      · rw [h]
        cases s.disc.t1 <;> rfl
    · refine ⟨_, execPtpAnnounce_on on, ?_⟩
      rw [chosen]
      exact if_pos rfl
    · obtain ⟨offset, src, t1', -⟩ := ptpSample_shows (s := { s with disc := { s.disc with t1 := some v } }) rfl delay source
      exact ⟨_, execPtpFollowUp_of on (by rw [sync]; rfl) t1, t1', offset, src⟩
    · refine ⟨_, congrArg Host.Outcome.next (if_neg ?_), rfl, List.length_append⟩
      rw [ptpOn, on, ← Option.not_isSome, ← Option.not_isSome, chosen, t1]
      decide
    · refine ⟨_, congrArg Host.Outcome.next (by rw [ht1, ht3]), rfl, rfl, rfl⟩
    · refine ⟨_, execPtpAnnounce_on on, ?_⟩
      rw [none_]
      exact ⟨rfl, rfl⟩
    · have takes : (p < s.disc.prio || (p = s.disc.prio && m < k) || (s.disc.syncAt.isSome && !recent s s.disc.syncAt)) = true := by
        rw [decide_eq_true (BitVec.lt_def.2 better), Bool.true_or, Bool.true_or]
      refine ⟨masterTaken s m p, (execPtpAnnounce_on on).trans ?_, rfl, rfl, rfl⟩
      rw [chosen]
      exact congrArg Host.Outcome.next ((if_neg other).trans (if_pos takes))
    · have stays : ¬(p < s.disc.prio || (p = s.disc.prio && m < k) || (s.disc.syncAt.isSome && !recent s s.disc.syncAt)) = true := by
        have lower : ¬p < s.disc.prio := fun h => absurd (BitVec.lt_def.1 h) (by omega)
        have equal : p ≠ s.disc.prio := fun h => absurd (congrArg BitVec.toNat h) (by omega)
        rw [decide_eq_false lower, decide_eq_false equal, sync, Bool.false_and, Option.isSome_none, Bool.false_and]
        decide
      refine ⟨s, (execPtpAnnounce_on on).trans ?_, rfl⟩
      rw [chosen]
      exact congrArg Host.Outcome.next ((if_neg other).trans (if_neg stays))

/-! ### The Smithy (R431 to R434) -/

/-- Nothing starts while an operation runs or the Smithy is in reset. -/
theorem smithy_busy (s : State) (w : Nat) (slot : Fin 8) (x y m d e : Fin 32) (cv : CurveParams) (busy : smithyFree s = false) :
    ∀ i ∈ [Instr.modmul w x y m d, .modexp w x e m d, .ecmulW slot x y m d e, .ecmulM slot x y d, .clear, .curveLoad slot cv],
      Completes i s fun u => u = s := by
  intro i hi
  simp only [List.mem_cons, List.not_mem_nil, or_false] at hi
  obtain rfl | rfl | rfl | rfl | rfl | rfl := hi
  · exact ⟨s, congrArg Host.Outcome.next (smithyStart_busy busy), rfl⟩
  · exact ⟨s, congrArg Host.Outcome.next (smithyStart_busy busy), rfl⟩
  · refine ⟨s, congrArg Host.Outcome.next ?_, rfl⟩
    split
    · split
      · rfl
      · exact smithyStart_busy busy
    · rfl
  · refine ⟨s, congrArg Host.Outcome.next ?_, rfl⟩
    split
    · exact if_pos (by rw [busy, Bool.not_false, Bool.or_true])
    · rfl
  · exact ⟨s, congrArg Host.Outcome.next (if_neg (by rw [busy]; exact Bool.false_ne_true)), rfl⟩
  · exact ⟨s, congrArg Host.Outcome.next (if_pos (by rw [busy]; rfl)), rfl⟩

section

variable {s : State} (free : smithyFree s = true) {slot : Fin 8} {c : CurveParams} (kind : nget none s.smithy.curves slot.val = some c)
include free kind

theorem ecmulW_starts (k x y dx dy : Fin 32) (weier : c.weierstrass = true) :
    let n := smithyX s (curveClass c) k
    let a := smithyX s (curveClass c) x
    let b := smithyX s (curveClass c) y
    let r := wMul c n (some (a, b))
    Completes (.ecmulW slot k x y dx dy) s (SmithyStarted s ·
      (decide (c.p ≤ a) || decide (c.p ≤ b) || !onCurveW c a b || n = 0 || decide (c.n ≤ n) || r.isNone)
      [(dx.val, (r.getD (0, 0)).1), (dy.val, (r.getD (0, 0)).2)] ((7168 * curveClass c + 8) * smithyM (curveClass c))) := by
  refine ⟨_, congrArg Host.Outcome.next ?_, smithyStart_free free⟩
  rw [kind]
  exact if_neg (by rw [weier]; decide)

theorem ecmulM_starts (k u d : Fin 32) (mont : c.weierstrass = false) :
    let n := smithyX s (curveClass c) k
    let a := smithyX s (curveClass c) u
    let r := mLadder c n a
    let bad : Bool := a = 0 || decide (c.p ≤ a) || !isSquare (montRhs c a) c.p || n = 0
    (bad = true ∨ r.2 ≠ 0 → Completes (.ecmulM slot k u d) s (SmithyStarted s · bad
      [(d.val, r.1 * invMod r.2 c.p % c.p)] ((3072 * curveClass c + 8) * smithyM (curveClass c)))) ∧
    (bad = false → r.2 = 0 → Completes (.ecmulM slot k u d) s fun u => ∃ v, SmithyStarted s u false [(d.val, v)]
      ((3072 * curveClass c + 8) * smithyM (curveClass c))) := by
  intro n a r bad
  have runs : ¬(c.weierstrass || !smithyFree s) = true := by
    rw [mont, free]
    decide
  refine ⟨fun h => ⟨_, congrArg Host.Outcome.next ?_, smithyStart_free free⟩, fun good zero => ?_⟩
  · rw [kind]
    have finite : ¬(decide (r.2 = 0) && !bad) = true := by
      obtain h | h := h
      · rw [h, Bool.not_true, Bool.and_false]
        exact Bool.false_ne_true
      · rw [decide_eq_false h, Bool.false_and]
        exact Bool.false_ne_true
    exact (if_neg runs).trans (if_neg finite)
  · refine ⟨smithyStart (draw s).2 bad [(d.val, (draw s).1 % 2 ^ (256 * curveClass c))] ((3072 * curveClass c + 8) * smithyM (curveClass c)),
      congrArg Host.Outcome.next ?_, (draw s).1 % 2 ^ (256 * curveClass c), ?_⟩
    · rw [kind]
      have infinite : (decide (r.2 = 0) && !bad) = true := by
        rw [decide_eq_true zero, good]
        rfl
      exact (if_neg runs).trans (if_pos infinite)
    · rw [good]
      exact smithyStart_free (s := (draw s).2) free

end

/-- The operations start with the time that their kind and class fix. -/
theorem smithy_starts (s : State) (w : Nat) (slot : Fin 8) (x y m d e : Fin 32) (free : smithyFree s = true) :
    (let a := smithyX s w x
     let b := smithyX s w y
     let n := smithyX s w m
     Completes (.modmul w x y m d) s (SmithyStarted s · (badModulus n || a = 0 || b = 0 || decide (n ≤ a) || decide (n ≤ b))
       [(d.val, a * b % n)] (smithyM w + 64)) ∧
     Completes (.modexp w x y m d) s (SmithyStarted s · (badModulus n || a = 0 || decide (n ≤ a) || b = 0)
       [(d.val, powMod a b n)] ((512 * w + 4) * smithyM w))) ∧
    ((∀ c, nget none s.smithy.curves slot.val = some c → c.weierstrass = false) → Completes (.ecmulW slot x y m d e) s fun u => u = s) ∧
    ((∀ c, nget none s.smithy.curves slot.val = some c → c.weierstrass = true) → Completes (.ecmulM slot x y d) s fun u => u = s) ∧
    Completes .clear s (fun u => u.smithy = { s.smithy with op := some { clear := true, at_ := s.ledger, cycles := 512 } }) := by
  refine ⟨⟨⟨_, rfl, smithyStart_free free⟩, ⟨_, rfl, smithyStart_free free⟩⟩, fun other => ⟨s, congrArg Host.Outcome.next ?_, rfl⟩,
    fun other => ⟨s, congrArg Host.Outcome.next ?_, rfl⟩, ⟨_, congrArg Host.Outcome.next (if_pos free), rfl⟩⟩
  · split
    · next c kind => exact if_pos (by rw [other c kind]; rfl)
    · rfl
  · split
    · next c kind => exact if_pos (by rw [other c kind]; rfl)
    · rfl

/-! The end of an operation. -/

/-- The registers that an operation ends with, before its report. -/
def smithyCounted (s : State) (o : SmithyOp) : State :=
  let s1 := modSmithy s fun x => { x with op := none, x := if o.clear then [] else o.outs.foldl (fun m e => nset 0 m e.1 e.2) x.x }
  let s2 := csrSetField (bump s1 0x0A00100 0x0A00180 0) 0x0A00000 30 30 (if o.rejected then 1 else 0)
  if o.clear then bump s2 0x0A00118 0x0A00180 3 else s2

/-- The report of an operation that its operands rejected. -/
def smithyReported (s : State) : State := dbFault (reportOstler s 1024 0x0903 0 0xFF) 0x40 0x0903 0x3FF 0 0xFFF

theorem finishSmithy_eq (s : State) (o : SmithyOp) : finishSmithy s o =
    if o.rejected then bump (smithyReported (smithyCounted s o)) 0x0A00108 0x0A00180 1 else smithyCounted s o := rfl

theorem csrGet_smithyReported (s : State) {off : Nat} (h : 0x0A00000 ≤ off) (h' : off < 0x0B00000) :
    csrGet (smithyReported s) off = csrGet s off := by
  rw [smithyReported, dbFault, csrGet_dbAppend _ ⟨by omega, by omega, by omega, by omega⟩, csrGet_congr (reportOstler_csr ..)]

theorem csrGet_smithyCounted (s : State) (o : SmithyOp) : csrGet (smithyCounted s o) 0x0A00100 = csrGet s 0x0A00100 + 1 ∧
    csrBit (smithyCounted s o) 0x0A00000 30 = o.rejected ∧ csrGet (smithyCounted s o) 0x0A00108 = csrGet s 0x0A00108 ∧
    csrGet (smithyCounted s o) 0x0A00118 = if o.clear then csrGet s 0x0A00118 + 1 else csrGet s 0x0A00118 := by
  unfold smithyCounted
  dsimp only
  generalize (if o.clear then [] else o.outs.foldl (fun m e => nset 0 m e.1 e.2) s.smithy.x) = x
  have put {off : Nat} (h : off ≠ 0x0A00000) (u : State) (v : Nat) : csrGet (csrSetField u 0x0A00000 30 30 v) off = csrGet u off :=
    csrGet_csrSetField_other u h ..
  have counts (u : State) {a : Nat} (b : Nat) (h : a ≠ 0x0A00180) : csrGet (bump u a 0x0A00180 b) a = csrGet u a + 1 := csrGet_bump_same u b h
  have others (u : State) {off a : Nat} (b : Nat) (h : off ≠ a) (h' : off ≠ 0x0A00180) : csrGet (bump u a 0x0A00180 b) off = csrGet u off :=
    csrGet_bump_other u h h'
  have flag (u : State) : csrBit (csrSetField u 0x0A00000 30 30 (if o.rejected then 1 else 0)) 0x0A00000 30 = o.rejected := by
    rw [csrBit_set_same _ _ _ (by decide)]
    cases o.rejected <;> rfl
  split
  · rw [others _ 3 (by decide) (by decide), others _ 3 (by decide) (by decide), counts _ 3 (by decide), csrBit_congr (others _ 3 (by decide) (by decide)),
      put (by decide), put (by decide), put (by decide), counts _ 0 (by decide), others _ 0 (by decide) (by decide), others _ 0 (by decide) (by decide)]
    exact ⟨rfl, flag _, rfl, rfl⟩
  · rw [put (by decide), put (by decide), put (by decide), counts _ 0 (by decide), others _ 0 (by decide) (by decide), others _ 0 (by decide) (by decide)]
    exact ⟨rfl, flag _, rfl, rfl⟩

theorem smithy_finishSmithy (s : State) (o : SmithyOp) : (finishSmithy s o).smithy = { s.smithy with
    op := none, x := if o.clear then [] else o.outs.foldl (fun m e => nset 0 m e.1 e.2) s.smithy.x } := by
  have counted : (smithyCounted s o).smithy = { s.smithy with
      op := none, x := if o.clear then [] else o.outs.foldl (fun m e => nset 0 m e.1 e.2) s.smithy.x } := by
    unfold smithyCounted
    dsimp only
    split
    · rw [bump_smithy, csrSetField_smithy, bump_smithy, modSmithy_smithy]
    · rw [csrSetField_smithy, bump_smithy, modSmithy_smithy]
  rw [finishSmithy_eq]
  split
  · rw [bump_smithy, smithyReported, dbFault_smithy, reportOstler_smithy, counted]
  · exact counted

theorem csrGet_finishSmithy (s : State) (o : SmithyOp) : csrGet (finishSmithy s o) 0x0A00100 = csrGet s 0x0A00100 + 1 ∧
    csrBit (finishSmithy s o) 0x0A00000 30 = o.rejected ∧
    (csrGet (finishSmithy s o) 0x0A00118 = if o.clear then csrGet s 0x0A00118 + 1 else csrGet s 0x0A00118) ∧
    (o.rejected = true → csrGet (finishSmithy s o) 0x0A00108 = csrGet s 0x0A00108 + 1) := by
  obtain ⟨count, flag, rejects, clears⟩ := csrGet_smithyCounted s o
  rw [finishSmithy_eq]
  have kept {off : Nat} (low : 0x0A00000 ≤ off) (high : off < 0x0B00000) (h : off ≠ 0x0A00108) (h' : off ≠ 0x0A00180) :
      csrGet (bump (smithyReported (smithyCounted s o)) 0x0A00108 0x0A00180 1) off = csrGet (smithyCounted s o) off := by
    rw [csrGet_bump_other _ h h', csrGet_smithyReported _ low high]
  split
  · next bad =>
    refine ⟨?_, ?_, ?_, fun _ => ?_⟩
    · rw [kept (by decide) (by decide) (by decide) (by decide), count]
    · rw [csrBit_congr (kept (by decide) (by decide) (by decide) (by decide)), flag]
    · rw [kept (by decide) (by decide) (by decide) (by decide), clears]
    · rw [csrGet_bump_same _ _ (by decide), csrGet_smithyReported _ (by decide) (by decide), rejects]
  · next good => exact ⟨count, flag, clears, fun bad => absurd bad good⟩

theorem reports_finishSmithy (s : State) (o : SmithyOp) :
    (o.rejected = true → ∃ r, (finishSmithy s o).reports = s.reports ++ [r] ∧ r.code = 0x0903 ∧ r.source = 1024) ∧
    (o.rejected = false → (finishSmithy s o).reports = s.reports) := by
  have counted : (smithyCounted s o).reports = s.reports := by
    unfold smithyCounted
    dsimp only
    split
    · rw [bump_reports, csrSetField_reports, bump_reports, modSmithy_reports]
    · rw [csrSetField_reports, bump_reports, modSmithy_reports]
  refine ⟨fun bad => ?_, fun good => ?_⟩
  · rw [finishSmithy_eq, if_pos bad, bump_reports, smithyReported, dbFault_reports]
    exact ⟨_, congrArg (· ++ _) counted, rfl, rfl⟩
  · rw [finishSmithy_eq, if_neg (by rw [good]; exact Bool.false_ne_true), counted]

/-- The Smithy ends an operation at its time. -/
theorem smithy_ends (s : State) (o : SmithyOp) (runs : s.smithy.op = some o) :
    let due := o.cycles * 10 ≤ (now s - o.at_.toNat) * 12
    (¬due → Completes .smithyComplete s fun u => u = s) ∧
    (due → Completes .smithyComplete s fun u => u.smithy.op = none ∧ u.smithy.curves = s.smithy.curves ∧
      csrGet u 0x0A00100 = csrGet s 0x0A00100 + 1 ∧ csrBit u 0x0A00000 30 = o.rejected ∧
      (o.clear = true → (∀ i, nget 0 u.smithy.x i = 0) ∧ csrGet u 0x0A00118 = csrGet s 0x0A00118 + 1) ∧
      (o.clear = false → (∀ e v, o.outs = [(e, v)] → ∀ i, nget 0 u.smithy.x i = if i = e then v else nget 0 s.smithy.x i) ∧
        ∀ e v f w, o.outs = [(e, v), (f, w)] → ∀ i, nget 0 u.smithy.x i =
          if i = f then w else if i = e then v else nget 0 s.smithy.x i) ∧
      (o.rejected = true → csrGet u 0x0A00108 = csrGet s 0x0A00108 + 1 ∧ ∃ r, u.reports = s.reports ++ [r] ∧ r.code = 0x0903 ∧ r.source = 1024) ∧
      (o.rejected = false → u.reports = s.reports)) := by
  have nget_set (m : NMap Nat) (e v i : Nat) : nget 0 (nset 0 m e v) i = if i = e then v else nget 0 m i := by
    split
    · next h => rw [h, nget_nset_same]
    · next h => exact nget_nset_other 0 m h v
  refine ⟨fun early => ⟨s, congrArg Host.Outcome.next ?_, rfl⟩, fun due => ?_⟩
  · rw [runs]
    exact if_neg early
  · have run : exec .smithyComplete s = .next (finishSmithy s o) := by
      refine congrArg Host.Outcome.next ?_
      rw [runs]
      exact if_pos due
    obtain ⟨count, flag, clears, rejects⟩ := csrGet_finishSmithy s o
    obtain ⟨reported, silent⟩ := reports_finishSmithy s o
    rw [finishSmithy_eq] at run
    refine completes_of run ?_
    rw [← finishSmithy_eq, smithy_finishSmithy]
    refine ⟨rfl, rfl, count, flag, fun clear => ?_, fun kept => ⟨fun e v outs i => ?_, fun e v f w outs i => ?_⟩,
      fun bad => ⟨rejects bad, reported bad⟩, silent⟩
    · rw [if_pos clear]
      exact ⟨fun _ => rfl, by rw [clears, if_pos clear]⟩
    · rw [kept, outs]
      exact nget_set ..
    · rw [kept, outs]
      refine (nget_set (nset 0 s.smithy.x e v) f w i).trans ?_
      rw [nget_set]

/-- Settles O49: what starts, what ends, and the curves. -/
theorem smithyComputesInFixedTime : Obligations.SmithyComputesInFixedTime := by
  refine ⟨fun s w slot x y m d e cv => ⟨smithy_busy s w slot x y m d e cv, fun free => ?_⟩, smithy_ends,
    fun s none_ => ⟨s, congrArg Host.Outcome.next (by rw [none_]), rfl⟩, fun s slot c free => ⟨fun ok => ?_, fun bad => ?_⟩⟩
  · obtain ⟨modular, noW, noM, clear⟩ := smithy_starts s w slot x y m d e free
    exact ⟨modular, fun c kind weier => ecmulW_starts free kind x y m d e weier, fun c kind mont => ecmulM_starts free kind x y d mont,
      noW, noM, clear⟩
  · refine ⟨_, congrArg Host.Outcome.next ((if_neg (by rw [free]; decide)).trans (if_pos ok)), nget_nset_same none s.smithy.curves slot.val (some c),
      fun k hk => ?_, rfl, rfl⟩
    exact nget_nset_other none s.smithy.curves hk (some c)
  · refine ⟨_, congrArg Host.Outcome.next ((if_neg (by rw [free]; decide)).trans (if_neg (by rw [bad]; exact Bool.false_ne_true))), ?_, ?_, ?_⟩
    · rw [bump_smithy, csrSetField_smithy]
    · rw [csrBit_congr (csrGet_bump_other _ (by decide) (by decide)), csrBit_set_same _ _ _ (by decide)]
      rfl
    · rw [csrGet_bump_same _ _ (by decide), csrGet_csrSetField_other _ (by decide)]
      exact congrArg (· + 1) (csrGet_congr (by rfl) _)

/-! ### Answers and SPDM's stages (R425 to R427) -/

theorem sent_answer (s : State) (via : Transport) (type : Nat) (m : List Byte) :
    (answer s via type m).sent = s.sent ++ [(via, onWire via type m)] := by
  unfold answer onWire
  cases via with
  | doe => rfl
  | net _ => rfl
  | i3c => rfl
  | rhoa dev => exact foldl_keeps State.sent (fun s k => sendFlit_sent ..) _ _

theorem sessionOf_congr {s u : State} (h : u.tack.sessions = s.tack.sessions) (via : Transport) (n : Nat) : sessionOf u via n = sessionOf s via n := by
  rw [sessionOf, h, sessionOf]

theorem stageOf_congr {s u : State} (h : u.tack.conns = s.tack.conns) (via : Transport) : stageOf u via = stageOf s via := by
  rw [stageOf, h, stageOf]

theorem stageOf_setStage_same (s : State) (via : Transport) (k : Nat) : stageOf (setStage s via k) via = k := by
  have conns : (setStage s via k).tack.conns = (s.tack.conns.filter fun x => x.1 ≠ via) ++ [(via, k)] := rfl
  rw [stageOf, conns, List.find?_append, List.find?_filter]
  have none_ : s.tack.conns.find? (fun x => decide (decide (x.1 ≠ via) = true ∧ decide (x.1 = via) = true)) = none := by simp
  rw [none_]
  simp

theorem stageOf_setStage_other (s : State) {via v : Transport} (h : v ≠ via) (k : Nat) : stageOf (setStage s via k) v = stageOf s v := by
  have conns : (setStage s via k).tack.conns = (s.tack.conns.filter fun x => x.1 ≠ via) ++ [(via, k)] := rfl
  have same : (fun x : Transport × Nat => decide (decide (x.1 ≠ via) = true ∧ decide (x.1 = v) = true)) = fun x => decide (x.1 = v) := by
    funext x
    by_cases hx : x.1 = v
    · simp [hx, h]
    · simp [hx]
  have last : List.find? (fun x : Transport × Nat => decide (x.1 = v)) [(via, k)] = none := by simp [h.symm]
  rw [stageOf, conns, List.find?_append, List.find?_filter, same, last, Option.or_none, stageOf]

section

variable {s u : State} {via : Transport} {n : Nat}

/-- What a message's answer leaves when the message has been taken. -/
theorem spdmSaid_of (sent : u.sent = s.sent) (code p1 p2 : Nat) (body : List Byte) :
    SpdmSaid s (tookMessage (spdmSend u via code p1 p2 body) via) via code p1 p2 body := by
  unfold SpdmSaid Answered
  rw [tookMessage_sent, spdmSend, sent_answer, sent]

theorem spdmErred (e : Nat) : SpdmSaid s (tookMessage (spdmError s via e) via) via 0x7F e 0 [] := spdmSaid_of rfl ..

theorem tack_said (code p1 p2 : Nat) (body : List Byte) : (tookMessage (spdmSend u via code p1 p2 body) via).tack = u.tack := by
  rw [tookMessage_tack, spdmSend_tack]

theorem tack_erred (e : Nat) : (tookMessage (spdmError s via e) via).tack = s.tack := tack_said ..

theorem csrGet_said {off : Nat} (h : off < 0x0700000 ∨ 0x0740000 ≤ off) (code p1 p2 : Nat) (body : List Byte) :
    csrGet (tookMessage (spdmSend u via code p1 p2 body) via) off = csrGet u off := by
  rw [csrGet_congr (tookMessage_csr ..), spdmSend, csrGet_answer _ h]

variable (on : tackRuns s = true) (there : reaches s via = true)
include on there

/-- A request in its stage has its effect, and its message is taken. -/
theorem spdm_completes {i : Instr} {go : State} {P : State → Prop} (stage : n ≤ stageOf s via)
    (run : exec i s = .next (spdm s via n go)) (h : P (tookMessage go via)) : Completes i s P :=
  completes_of (run.trans (congrArg _ (spdm_answered on there stage))) h

end

/-- A request that does not reach the responder, or that comes ahead of its stage. -/
theorem spdm_refuses {s go : State} {via : Transport} {n : Nat} {i : Instr} (run : exec i s = .next (spdm s via n go)) :
    (tackRuns s = false ∨ reaches s via = false → Completes i s fun u => u = tookMessage s via) ∧
    (tackRuns s = true → reaches s via = true → stageOf s via < n → Completes i s fun u => SpdmSaid s u via 0x7F 4 0 [] ∧ u.tack = s.tack) :=
  ⟨fun off => ⟨_, run, spdm_unreached off⟩,
    fun on there early => completes_of (run.trans (congrArg _ (spdm_early on there early))) ⟨spdmErred 4, tack_erred 4⟩⟩

theorem spdm_stages (s : State) (via : Transport) (agreed verified : Bool) (slot off len ix ses px py c : Nat) (nonce key : List Byte) :
    ∀ x ∈ [(0, Instr.getVersion via), (1, .getCapabilities via), (2, .negotiateAlgorithms via agreed), (3, .getDigests via),
        (3, .getCertificate via slot off len), (3, .challenge via slot nonce), (3, .getMeasurements via ix nonce),
        (3, .keyExchange via px py), (3, .finish via ses verified), (3, .keyUpdate via ses), (3, .heartbeat via ses),
        (3, .endSession via ses), (3, .ideKm via ses key), (3, .quote via nonce c), (3, .kemKey via)],
      (tackRuns s = false ∨ reaches s via = false → Completes x.2 s fun u => u = tookMessage s via) ∧
      (tackRuns s = true → reaches s via = true → stageOf s via < x.1 → Completes x.2 s fun u =>
        SpdmSaid s u via 0x7F 4 0 [] ∧ u.tack = s.tack) := by
  intro x hx
  simp only [List.mem_cons, List.not_mem_nil, or_false] at hx
  obtain rfl | rfl | rfl | rfl | rfl | rfl | rfl | rfl | rfl | rfl | rfl | rfl | rfl | rfl | rfl := hx
  all_goals exact spdm_refuses rfl

theorem measurement_of_listed (s : State) {i : Nat} (h : i ∈ measurementIxs 0xFF) : (measurement s i).isNone = false := by
  rw [measurementIxs, if_pos rfl, List.mem_filter] at h
  have listed : (1 ≤ i && i ≤ 16) = true ∨ (0x41 ≤ i && i ≤ 0x80) = true := by simpa using h.2
  unfold measurement
  split
  · rfl
  · next out => rw [if_pos (listed.resolve_left out)]; rfl

theorem csrGet_trCount_same (s : State) : csrGet (trCount s 0) 0x0901200 = csrGet s 0x0901200 + 1 := csrGet_bump_same s _ (by decide)

/-! The requests before a session. -/

theorem csrGet_smithyEcdhe (s : State) : csrGet (smithyEcdhe s false) 0x0A00108 = csrGet s 0x0A00108 + 1 := by
  unfold smithyEcdhe
  dsimp only
  rw [if_neg Bool.false_ne_true, csrGet_bump_same _ _ (by decide), dbFault, csrGet_dbAppend _ ⟨by decide, by decide, by decide, .inr (by decide)⟩,
    csrGet_congr (reportOstler_csr ..), csrGet_csrSetField_other _ (by decide), csrGet_bump_other _ (by decide) (by decide),
    csrGet_congr (modSmithy_csr ..), csrGet_bumpBy_other _ (by decide) (by decide)]

theorem smithy_smithyEcdhe (s : State) : (smithyEcdhe s true).smithy.x = [] := by
  unfold smithyEcdhe
  dsimp only
  rw [if_pos rfl, csrSetField_smithy, bump_smithy, modSmithy_smithy]

/-- A key exchange's session, added. -/
def sessionAdded (s : State) (via : Transport) (d px py : Nat) : State :=
  modTack (smithyEcdhe (draw s).2 true) fun t => { t with
    nextSes := s.tack.nextSes + 1
    sessions := t.sessions ++ [{ id := s.tack.nextSes, via := via, secret := ((wMul secp384r1 d (some (px, py))).getD (0, 0)).1 }] }

section

variable {s : State} {via : Transport} (on : tackRuns s = true) (there : reaches s via = true)
include on there

theorem spdm_connects :
    Completes (.getVersion via) s (fun u => SpdmSaid s u via 0x04 0 0 (leBytes 2 1 ++ leBytes 2 0x1300) ∧ stageOf u via = 1 ∧
      ∀ v, v ≠ via → stageOf u v = stageOf s v) ∧
    (1 ≤ stageOf s via → Completes (.getCapabilities via) s fun u => stageOf u via = max 2 (stageOf s via) ∧
      ∀ v, v ≠ via → stageOf u v = stageOf s v) ∧
    (2 ≤ stageOf s via → Completes (.negotiateAlgorithms via true) s (fun u => stageOf u via = 3) ∧
      Completes (.negotiateAlgorithms via false) s (fun u => SpdmSaid s u via 0x7F 1 0 [] ∧ u.tack = s.tack)) := by
  have staged (u : State) (k : Nat) : stageOf (tookMessage (setStage u via k) via) via = k :=
    (stageOf_congr (by rw [tookMessage_tack]) via).trans (stageOf_setStage_same u via k)
  have others (code p1 p2 : Nat) (b : List Byte) (k : Nat) (v : Transport) (hv : v ≠ via) :
      stageOf (tookMessage (setStage (spdmSend s via code p1 p2 b) via k) via) v = stageOf s v := by
    rw [stageOf_congr (s := setStage (spdmSend s via code p1 p2 b) via k) (by rw [tookMessage_tack]), stageOf_setStage_other _ hv,
      stageOf_congr (s := s) (by rw [spdmSend_tack])]
  refine ⟨spdm_completes on there (Nat.zero_le _) rfl ⟨?_, staged _ 1, others _ _ _ _ _⟩,
    fun stage => spdm_completes on there stage rfl ⟨staged .., others _ _ _ _ _⟩,
    fun stage => ⟨spdm_completes on there stage rfl (staged _ 3), spdm_completes on there stage rfl ⟨spdmErred 1, tack_erred 1⟩⟩⟩
  unfold SpdmSaid Answered
  rw [tookMessage_sent, setStage_sent, spdmSend, sent_answer]

variable (stage : 3 ≤ stageOf s via)
include stage

theorem spdm_certificates (slot off len : Nat) (nonce : List Byte) :
    let chain := Config.chainHead ++ s.tack.cert
    Completes (.getDigests via) s (fun u => SpdmSaid s u via 0x01 0 1 (sha256 chain) ∧ u.tack = s.tack) ∧
    (off ≤ chain.length → Completes (.getCertificate via 0 off len) s fun u =>
      let n := min len (chain.length - off)
      SpdmSaid s u via 0x02 0 0 (leBytes 2 n ++ leBytes 2 (chain.length - off - n) ++ (chain.drop off).take n) ∧ u.tack = s.tack) ∧
    (chain.length < off → Completes (.getCertificate via slot off len) s fun u => SpdmSaid s u via 0x7F 1 0 []) ∧
    (slot ≠ 0 → Completes (.getCertificate via slot off len) s (fun u => SpdmSaid s u via 0x7F 1 0 []) ∧
      Completes (.challenge via slot nonce) s (fun u => SpdmSaid s u via 0x7F 1 0 [])) ∧
    (Completes (.challenge via 0 nonce) s fun u => ∃ n : List Byte, n.length = 32 ∧ SpdmSaid s u via 0x03 0 1
      (sha256 chain ++ n ++ Config.sign s.tack.ak (nonce ++ (sha256 chain ++ n))) ∧ u.tack = s.tack) := by
  intro chain
  refine ⟨spdm_completes on there stage rfl ⟨spdmSaid_of rfl .., tack_said ..⟩, fun within => ?_, fun beyond => ?_, fun other => ⟨?_, ?_⟩, ?_⟩
  · have go : ¬(decide (0 ≠ 0) || decide (chain.length < off)) = true := by
      rw [decide_eq_false (Nat.not_lt.2 within)]
      decide
    exact spdm_completes on there stage (congrArg (fun g => Host.Outcome.next (spdm s via 3 g)) (if_neg go)) ⟨spdmSaid_of rfl .., tack_said ..⟩
  · have err : (decide (slot ≠ 0) || decide (chain.length < off)) = true := by rw [decide_eq_true beyond, Bool.or_true]
    exact spdm_completes on there stage (congrArg (fun g => Host.Outcome.next (spdm s via 3 g)) (if_pos err)) (spdmErred 1)
  · have err : (decide (slot ≠ 0) || decide (chain.length < off)) = true := by rw [decide_eq_true other, Bool.true_or]
    exact spdm_completes on there stage (congrArg (fun g => Host.Outcome.next (spdm s via 3 g)) (if_pos err)) (spdmErred 1)
  · exact spdm_completes on there stage (congrArg (fun g => Host.Outcome.next (spdm s via 3 g)) (if_pos other)) (spdmErred 1)
  · exact spdm_completes on there stage rfl ⟨leBytes 32 (draw s).1, leBytes_length .., spdmSaid_of rfl .., tack_said ..⟩

/-- A reply to GET_MEASUREMENTS, signed over a nonce of the device's. -/
def measuresSaid (s : State) (via : Transport) (p1 : Nat) (blocks nonce : List Byte) : State :=
  spdmSend (draw s).2 via 0x60 p1 0 (blocks ++ leBytes 32 (draw s).1 ++ Config.sign s.tack.ak (nonce ++ blocks ++ leBytes 32 (draw s).1))

theorem spdm_measures {ix p1 : Nat} {blocks nonce : List Byte}
    (run : exec (.getMeasurements via ix nonce) s = .next (spdm s via 3 (measuresSaid s via p1 blocks nonce))) :
    Completes (.getMeasurements via ix nonce) s fun u => ∃ n : List Byte, n.length = 32 ∧
      SpdmSaid s u via 0x60 p1 0 (blocks ++ n ++ Config.sign s.tack.ak (nonce ++ blocks ++ n)) :=
  spdm_completes on there stage run ⟨leBytes 32 (draw s).1, leBytes_length .., spdmSaid_of rfl ..⟩

theorem spdm_measurements (ix : Nat) (nonce : List Byte) :
    (∀ d, measurement s ix = some d → Completes (.getMeasurements via ix nonce) s fun u => ∃ n : List Byte, n.length = 32 ∧
      SpdmSaid s u via 0x60 0 0 (leBytes 1 1 ++ (leBytes 1 ix ++ d) ++ n ++
        Config.sign s.tack.ak (nonce ++ (leBytes 1 1 ++ (leBytes 1 ix ++ d)) ++ n))) ∧
    (ix ≠ 0 → ix ≠ 0xFF → measurement s ix = none → Completes (.getMeasurements via ix nonce) s fun u => SpdmSaid s u via 0x7F 1 0 []) ∧
    (Completes (.getMeasurements via 0 nonce) s fun u => ∃ n : List Byte, n.length = 32 ∧
      SpdmSaid s u via 0x60 80 0 (leBytes 1 0 ++ n ++ Config.sign s.tack.ak (nonce ++ leBytes 1 0 ++ n))) ∧
    (Completes (.getMeasurements via 0xFF nonce) s fun u => ∃ n : List Byte, n.length = 32 ∧
      let all := leBytes 1 80 ++ (measurementIxs 0xFF).flatMap fun i => leBytes 1 i ++ (measurement s i).getD []
      SpdmSaid s u via 0x60 0 0 (all ++ n ++ Config.sign s.tack.ak (nonce ++ all ++ n))) := by
  refine ⟨fun d found => spdm_measures on there stage ?_, fun some_ single none_ => ?_, spdm_measures on there stage rfl,
    spdm_measures on there stage ?_⟩
  · have some_ : ix ≠ 0 := fun h => by rw [h] at found; exact absurd found (by simp [measurement])
    have single : ix ≠ 0xFF := fun h => by rw [h] at found; exact absurd found (by simp [measurement])
    have one : measurementIxs ix = [ix] := if_neg single
    refine congrArg (fun g => Host.Outcome.next (spdm s via 3 g)) ((if_neg some_).trans ?_)
    rw [one]
    simp only [List.any_cons, List.any_nil, found, Option.isNone_some, Bool.or_false, Bool.false_eq_true, if_false, List.flatMap_cons,
      List.flatMap_nil, List.append_nil, Option.getD_some, List.length_cons, List.length_nil, Nat.zero_add]
    rfl
  · refine spdm_completes on there stage (congrArg (fun g => Host.Outcome.next (spdm s via 3 g)) ((if_neg some_).trans ?_)) (spdmErred 1)
    have one : measurementIxs ix = [ix] := if_neg single
    rw [one]
    simp only [List.any_cons, none_, Option.isNone_none, Bool.true_or, if_true]
  · have all : ¬(measurementIxs 0xFF).any (fun i => (measurement s i).isNone) = true := by
      rw [List.any_eq_true]
      rintro ⟨i, listed, none_⟩
      rw [measurement_of_listed s listed] at none_
      exact Bool.false_ne_true none_
    have count : (measurementIxs 0xFF).length = 80 := by decide
    refine congrArg (fun g => Host.Outcome.next (spdm s via 3 g)) ((if_neg (by decide)).trans ((if_neg all).trans ?_))
    rw [count]
    rfl

theorem spdm_quotes (nonce : List Byte) (c : Nat) :
    (c < 64 ∨ c = 0xFF → Completes (.quote via nonce c) s fun u => csrGet u 0x0901200 = csrGet s 0x0901200 + 1 ∧
      SpdmSaid s u via 0x7E 0 0 (quoteBody s nonce c ++ padTo 17088 (Config.sign s.tack.ak (quoteBody s nonce c)))) ∧
    (64 ≤ c → c ≠ 0xFF → Completes (.quote via nonce c) s fun u => SpdmSaid s u via 0x7F 1 0 [] ∧
      csrGet u 0x0901200 = csrGet s 0x0901200) ∧
    Completes (.kemKey via) s (fun u => SpdmSaid s u via 0x7E 0 0 (padTo 1568 (Config.kemPublic s.tack.kem)) ∧ u.tack = s.tack) := by
  refine ⟨fun known => ?_, fun high other => ?_, spdm_completes on there stage rfl ⟨spdmSaid_of rfl .., tack_said ..⟩⟩
  · have go : ¬(decide (64 ≤ c) && decide (c ≠ 0xFF)) = true := by
      rw [Bool.and_eq_true, decide_eq_true_iff, decide_eq_true_iff]
      omega
    refine spdm_completes on there stage (congrArg (fun g => Host.Outcome.next (spdm s via 3 g)) (if_neg go)) ⟨?_, spdmSaid_of (trCount_sent ..) ..⟩
    exact (csrGet_said (.inr (by decide)) ..).trans (csrGet_trCount_same s)
  · have err : (decide (64 ≤ c) && decide (c ≠ 0xFF)) = true := by
      rw [decide_eq_true high, decide_eq_true other]
      rfl
    exact spdm_completes on there stage (congrArg (fun g => Host.Outcome.next (spdm s via 3 g)) (if_pos err))
      ⟨spdmErred 1, csrGet_said (.inr (by decide)) ..⟩

theorem spdm_keyExchanges (px py : Nat) :
    (4 ≤ s.tack.sessions.length → Completes (.keyExchange via px py) s fun u => SpdmSaid s u via 0x7F 0x0A 0 [] ∧ u.tack = s.tack) ∧
    (s.tack.sessions.length < 4 → s.smithy.op.isSome = true → Completes (.keyExchange via px py) s fun u => u = tookMessage s via) ∧
    (s.tack.sessions.length < 4 → s.smithy.op = none → pointOk secp384r1 px py = false → Completes (.keyExchange via px py) s fun u =>
      SpdmSaid s u via 0x7F 1 0 [] ∧ u.tack = s.tack ∧ csrGet u 0x0A00108 = csrGet s 0x0A00108 + 1) ∧
    (s.tack.sessions.length < 4 → s.smithy.op = none → pointOk secp384r1 px py = true → Completes (.keyExchange via px py) s fun u =>
      ∃ d, 1 ≤ d ∧ d < secp384r1.n ∧ u.smithy.x = [] ∧ u.tack.nextSes = s.tack.nextSes + 1 ∧
        u.tack.sessions = s.tack.sessions ++ [{ id := s.tack.nextSes, via := via, secret := ((wMul secp384r1 d (some (px, py))).getD (0, 0)).1 }]) := by
  refine ⟨fun full => ?_, fun room busy => ?_, fun room free bad => ?_, fun room free good => ?_⟩
  · exact spdm_completes on there stage (congrArg (fun g => Host.Outcome.next (spdm s via 3 g)) (if_pos full)) ⟨spdmErred 0x0A, tack_erred 0x0A⟩
  · exact spdm_completes on there stage (congrArg (fun g => Host.Outcome.next (spdm s via 3 g))
      ((if_neg (Nat.not_le.2 room)).trans (if_pos busy))) rfl
  · have run : exec (.keyExchange via px py) s = .next (spdm s via 3 (spdmSend (smithyEcdhe (draw s).2 false) via 0x7F 1 0 [])) := by
      refine congrArg (fun g => Host.Outcome.next (spdm s via 3 g)) ((if_neg (Nat.not_le.2 room)).trans ((if_neg (by rw [free]; decide)).trans ?_))
      rw [bad]
      rfl
    refine spdm_completes on there stage run ⟨spdmSaid_of ?_ .., ?_, ?_⟩
    · rw [smithyEcdhe_sent, draw_sent]
    · rw [tack_said, smithyEcdhe_tack, draw_tack]
    · rw [csrGet_said (.inr (by decide)), csrGet_smithyEcdhe, csrGet_congr (draw_csr ..)]
  · let d := 1 + (draw s).1 % (secp384r1.n - 1)
    let pub := (wMul secp384r1 d (some (secp384r1.gx, secp384r1.gy))).getD (0, 0)
    let body := leBytes 2 (s.tack.nextSes % 65536) ++ beBytes 48 pub.1 ++ beBytes 48 pub.2
    have run : exec (.keyExchange via px py) s = .next (spdm s via 3
        (spdmSend (sessionAdded s via d px py) via 0x64 0 0 (body ++ Config.sign s.tack.ak body))) := by
      refine congrArg (fun g => Host.Outcome.next (spdm s via 3 g)) ((if_neg (Nat.not_le.2 room)).trans ((if_neg (by rw [free]; decide)).trans ?_))
      rw [good]
      rfl
    have order : 1 < secp384r1.n := by decide
    refine spdm_completes on there stage run ⟨d, Nat.le_add_right 1 _, ?_, ?_, ?_, ?_⟩
    · have := Nat.mod_lt (draw s).1 (Nat.sub_pos_of_lt order)
      omega
    · rw [tookMessage_smithy, spdmSend_smithy, sessionAdded, modTack_smithy, smithy_smithyEcdhe]
    · rw [tack_said, sessionAdded, modTack_tack]
    · rw [tack_said, sessionAdded, modTack_tack, smithyEcdhe_tack, draw_tack]

theorem spdm_noSession {n : Nat} (none_ : sessionOf s via n = none) (key : List Byte) :
    ∀ i ∈ [Instr.finish via n true, .finish via n false, .keyUpdate via n, .heartbeat via n, .endSession via n, .ideKm via n key],
      Completes i s fun u => SpdmSaid s u via 0x7F 2 0 [] ∧ u.tack = s.tack := by
  have refuses {i : Instr} (run : exec i s = .next (spdm s via 3 (spdmError s via 2))) :
      Completes i s fun u => SpdmSaid s u via 0x7F 2 0 [] ∧ u.tack = s.tack :=
    spdm_completes on there stage run ⟨spdmErred 2, tack_erred 2⟩
  intro i hi
  simp only [List.mem_cons, List.not_mem_nil, or_false] at hi
  obtain rfl | rfl | rfl | rfl | rfl | rfl := hi
  all_goals exact refuses (congrArg (fun g => Host.Outcome.next (spdm s via 3 g)) (by rw [none_]))

section

variable {n : Nat} {x : Session} (found : sessionOf s via n = some x)
include found

omit on there stage in
/-- A request inside a session that is not established, or is. -/
theorem inSes_found (go : State) : inSes s via n go = spdm s via 3 (if x.live then go else spdmError s via 4) := by
  rw [inSes, found]

omit on there stage in
theorem id_of_sessionOf : x.id = n ∧ x.via = via := by
  have := List.find?_some found
  simpa using this

omit on there stage in
/-- A session's state changed, where its number and its transport stay. -/
theorem sessionOf_mapped {u : State} {f : Session → Session} (keep : ∀ y, (f y).id = y.id ∧ (f y).via = y.via)
    (h : u.tack.sessions = s.tack.sessions.map fun y => if y.id = n then f y else y) : sessionOf u via n = some (f x) := by
  have same : (fun y : Session => decide (y.id = n) && decide (y.via = via)) ∘ (fun y => if y.id = n then f y else y) =
      fun y => decide (y.id = n) && decide (y.via = via) := by
    funext y
    simp only [Function.comp_apply]
    split
    · rw [(keep y).1, (keep y).2]
    · rfl
  have first : s.tack.sessions.find? (fun y => decide (y.id = n) && decide (y.via = via)) = some x := found
  rw [sessionOf, h, List.find?_map, same, first, Option.map_some, if_pos (id_of_sessionOf found).1]

theorem spdm_opening (dead : x.live = false) (key : List Byte) :
    (∀ i ∈ [Instr.keyUpdate via n, .heartbeat via n, .endSession via n, .ideKm via n key], Completes i s fun u =>
      SpdmSaid s u via 0x7F 4 0 [] ∧ u.tack = s.tack) ∧
    Completes (.finish via n true) s (fun u => sessionOf u via n = some { x with live := true }) ∧
    Completes (.finish via n false) s (fun u => SpdmSaid s u via 0x7F 6 0 [] ∧ sessionOf u via n = none) := by
  have refuses {i : Instr} {go : State} (run : exec i s = .next (inSes s via n go)) :
      Completes i s fun u => SpdmSaid s u via 0x7F 4 0 [] ∧ u.tack = s.tack := by
    rw [inSes_found found, dead] at run
    exact spdm_completes on there stage run ⟨spdmErred 4, tack_erred 4⟩
  have finishes (ok : Bool) : exec (.finish via n ok) s = .next (spdm s via 3 (if ok then
        modTack (spdmSecure s via n 0x65 0 0 []) fun t => { t with sessions := t.sessions.map fun y => if y.id = n then { y with live := true } else y }
      else modTack (spdmError s via 6) fun t => { t with sessions := t.sessions.filter fun y => y.id ≠ n })) := by
    refine congrArg (fun g => Host.Outcome.next (spdm s via 3 g)) ?_
    rw [found]
    exact if_neg (by rw [dead]; exact Bool.false_ne_true)
  refine ⟨fun i hi => ?_, spdm_completes on there stage (finishes true) ?_, spdm_completes on there stage (finishes false) ⟨?_, ?_⟩⟩
  · simp only [List.mem_cons, List.not_mem_nil, or_false] at hi
    obtain rfl | rfl | rfl | rfl := hi
    all_goals exact refuses rfl
  · refine sessionOf_mapped (f := fun y => { y with live := true }) found (fun _ => ⟨rfl, rfl⟩) ?_
    rw [if_pos rfl, tookMessage_tack, modTack_tack, spdmSecure_tack]
  · unfold SpdmSaid Answered
    rw [if_neg Bool.false_ne_true, tookMessage_sent, modTack_sent, spdmError, spdmSend, sent_answer]
  · rw [if_neg Bool.false_ne_true, sessionOf, tookMessage_tack, modTack_tack, spdmError_tack, List.find?_eq_none]
    intro y hy
    have := List.of_mem_filter hy
    simp only [ne_eq, decide_not, Bool.not_eq_eq_eq_not, Bool.not_true, decide_eq_false_iff_not] at this
    simp [this]

theorem spdm_session (live : x.live = true) (key : List Byte) :
    (∀ ok, Completes (.finish via n ok) s fun u => SpdmSaid s u via 0x7F 4 0 [] ∧ u.tack = s.tack) ∧
    Completes (.keyUpdate via n) s (fun u => sessionOf u via n = some { x with updates := x.updates + 1 }) ∧
    Completes (.heartbeat via n) s (fun u => Answered s u via 6 (leBytes 4 n ++ spdmBytes 0x68 0 0 []) ∧ u.tack = s.tack) ∧
    Completes (.endSession via n) s (fun u => sessionOf u via n = none ∧ u.tack.ideKey = s.tack.ideKey) ∧
    (s.gate.bridge = true → s.gate.linkUp = true → Completes (.ideKm via n key) s fun u => u.tack.ideKey = key ∧ u.gate.ide = true) ∧
    (s.gate.bridge = false ∨ s.gate.linkUp = false → Completes (.ideKm via n key) s fun u => SpdmSaid s u via 0x7F 7 0 [] ∧ u.tack = s.tack) := by
  have acts {i : Instr} {go : State} (run : exec i s = .next (inSes s via n go)) : exec i s = .next (spdm s via 3 go) := by
    rw [run, inSes_found found, live]
    rfl
  refine ⟨fun ok => spdm_completes on there stage (go := spdmError s via 4) ?_ ⟨spdmErred 4, tack_erred 4⟩,
    spdm_completes on there stage (acts rfl) ?_, spdm_completes on there stage (acts rfl) ⟨?_, ?_⟩, spdm_completes on there stage (acts rfl) ⟨?_, ?_⟩,
    fun bridge up => ?_, fun none_ => ?_⟩
  · refine congrArg (fun g => Host.Outcome.next (spdm s via 3 g)) ?_
    rw [found]
    exact if_pos live
  · refine sessionOf_mapped (f := fun y => { y with updates := y.updates + 1 }) found (fun _ => ⟨rfl, rfl⟩) ?_
    rw [tookMessage_tack, modTack_tack, spdmSecure_tack]
  · unfold Answered
    rw [tookMessage_sent, spdmSecure, sent_answer]
  · rw [tookMessage_tack, spdmSecure_tack]
  · rw [sessionOf, tookMessage_tack, modTack_tack, spdmSecure_tack, List.find?_eq_none]
    intro y hy
    have := List.of_mem_filter hy
    simp only [ne_eq, decide_not, Bool.not_eq_eq_eq_not, Bool.not_true, decide_eq_false_iff_not] at this
    simp [this]
  · rw [tookMessage_tack, modTack_tack, spdmSecure_tack]
  · have go : ¬(!s.gate.bridge || !s.gate.linkUp) = true := by
      rw [bridge, up]
      decide
    refine spdm_completes on there stage ((acts rfl).trans (congrArg (fun g => Host.Outcome.next (spdm s via 3 g)) (if_neg go))) ⟨?_, ?_⟩
    · rw [tookMessage_tack, modTack_tack]
    · rw [tookMessage_gate]
  · have err : (!s.gate.bridge || !s.gate.linkUp) = true := by
      obtain h | h := none_
      · rw [h]
        rfl
      · rw [h, Bool.not_false, Bool.or_true]
    exact spdm_completes on there stage ((acts rfl).trans (congrArg (fun g => Host.Outcome.next (spdm s via 3 g)) (if_pos err)))
      ⟨spdmErred 7, tack_erred 7⟩

end

end

/-- Settles O50: the requests before a session, by stage, and those of the sessions. -/
theorem spdmAnswersByStage : Obligations.SpdmAnswersByStage := by
  refine ⟨fun s via agreed verified slot off len ix ses px py c nonce key =>
    ⟨spdm_stages s via agreed verified slot off len ix ses px py c nonce key, fun on there => ?_⟩, fun s via on there stage => ?_⟩
  · obtain ⟨version, capabilities, algorithms⟩ := spdm_connects on there
    refine ⟨version, capabilities, algorithms, fun stage => ?_⟩
    obtain ⟨digests, within, beyond, other, challenge⟩ := spdm_certificates on there stage slot off len nonce
    obtain ⟨measured, unknown, count, all⟩ := spdm_measurements on there stage ix nonce
    exact ⟨digests, within, beyond, other, challenge, measured, unknown, count, all, spdm_quotes on there stage nonce c⟩
  · exact ⟨spdm_keyExchanges on there stage, fun n key none_ => spdm_noSession on there stage none_ key,
      fun n x key found => ⟨fun dead => spdm_opening on there stage found dead key, fun live => spdm_session on there stage found live key⟩⟩

/-! ### A control message that does not reach the Ostler (R470) -/

/-- A device that has never booted, with one packet from a peer in the Ostler's inbox. -/
def unreadState : State := { ostler := { inbox := [(0, [])] } }

/-- Refutes O58: SET_ENDPOINT_ID that does not reach the Ostler leaves the inbox as it was, while the statement has its message
taken out of it. -/
theorem not_ostlerAnswersItsPorts : ¬ Obligations.OstlerAnswersItsPorts := by
  intro h
  obtain ⟨-, control, -⟩ := h
  obtain ⟨unreached, -⟩ := control unreadState (.rhoa 0) 1 0
  obtain ⟨u, run, taken⟩ := unreached (by decide) (.setEndpointId (.rhoa 0) 1) List.mem_cons_self
  have stays : exec (.setEndpointId (.rhoa 0) 1) unreadState = .next unreadState := rfl
  obtain rfl : unreadState = u := Host.Outcome.next.inj (stays.symm.trans run)
  have inbox := congrArg (fun s : State => s.ostler.inbox) taken
  exact absurd inbox (by decide)

/-! ### A write of CTX_QUANTUM (R8) -/

/-- CTX_QUANTUM as the register table has it. -/
def quantumReg : RegDef := ⟨"CTX_QUANTUM", 0x6400, 0x0, 1, 0, 1, false, [⟨19, 0, .rw, 0x3E8⟩]⟩

theorem regAt_quantum : regAt 0x6400 = some (quantumReg, 0, 0) := by decide +kernel

theorem plainWrite_quantum (old v : Nat) : plainWrite quantumReg old v (2 ^ 32 - 1) = old - old % 2 ^ 20 + v % 2 ^ 20 := by
  have rw_ : accBits quantumReg [.rw] &&& (2 ^ 32 - 1) = 2 ^ 20 - 1 := by decide
  have w1c : accBits quantumReg [.w1c] &&& (2 ^ 32 - 1) = 0 := by decide
  have w1s : accBits quantumReg [.w1s] &&& (2 ^ 32 - 1) = 0 := by decide
  have more : bitOf 0 63 = false := by decide
  unfold plainWrite
  dsimp only
  rw [rw_, w1c, w1s, Nat.zero_and, more, Bool.false_and, Bool.false_and, if_neg Bool.false_ne_true, Nat.or_zero, Nat.or_zero, Nat.and_zero,
    Nat.sub_zero, Nat.and_two_pow_sub_one_eq_mod, Nat.and_two_pow_sub_one_eq_mod]

/-- CTX_QUANTUM with its field replaced. -/
def quantumSet (s : State) (v : Nat) : State :=
  csrPut s 0x6400 (BitVec.ofNat 64 ((csrGet s 0x6400).toNat - (csrGet s 0x6400).toNat % 2 ^ 20 + v % 2 ^ 20))

theorem csrWrite_quantum (s : State) (v : Nat) : csrWrite s 0x6400 4 v = quantumSet s (v % 2 ^ 32) := by
  have word : csrWrite s 0x6400 4 v = csrWriteWord s 0x6400 (v % 2 ^ 32) := rfl
  rw [word, csrWriteWord, regAt_quantum]
  exact congrArg (fun x => csrPut s 0x6400 (BitVec.ofNat 64 x)) (plainWrite_quantum _ _)

theorem quantumSet_field (s : State) (v : Nat) : csrField (quantumSet s v) 0x6400 19 0 = bitsOf v 19 0 := by
  rw [csrField, quantumSet, csrGet_csrPut_same, BitVec.toNat_ofNat]
  have := (csrGet s 0x6400).isLt
  unfold bitsOf
  omega

/-! ### Flash (R471) -/

theorem foldl_restage_ostler (l : List Nat) (s : State) : (l.foldl restage s).ostler = s.ostler :=
  foldl_keeps State.ostler (fun _ _ => restage_ostler ..) l s

/-- One byte of a flash write, its sector erased before where it was not. -/
def flashByte (off : Nat) (s : State) (b : Byte) (i : Nat) : State :=
  let o := off + i
  let k := o / sectorSize
  programByte (if o % sectorSize = 0 || !(s.ostler.erased.contains k) then eraseSector s k else s) o b

theorem flash_programByte (s : State) (o : Nat) (b : Byte) (j : Nat) :
    nget 0xFF (programByte s o b).ostler.flash j = if j = o then nget 0xFF s.ostler.flash o &&& b else nget 0xFF s.ostler.flash j := by
  have set_ : (programByte s o b).ostler.flash = nset 0xFF s.ostler.flash o (nget 0xFF s.ostler.flash o &&& b) := rfl
  rw [set_]
  split
  · next h => rw [h, nget_nset_same]
  · next h => exact nget_nset_other 0xFF s.ostler.flash h _

theorem nget_nclear {α : Type} (d : α) (m : NMap α) (lo hi j : Nat) : nget d (nclear m lo hi) j = if lo ≤ j ∧ j < hi then d else nget d m j := by
  split
  · next within =>
    induction m with
    | nil => rfl
    | cons e m ih =>
      obtain ⟨i, v⟩ := e
      rw [nclear, List.filter_cons]
      split
      · next out =>
        have ne : i ≠ j := by
          rintro rfl
          simp only [Bool.or_eq_true, decide_eq_true_eq] at out
          omega
        rw [nget, if_neg ne]
        exact ih
      · exact ih
  · next out =>
    refine nget_filter_keys d (fun k => decide (k < lo) || decide (hi ≤ k)) m ?_
    simp only [Bool.or_eq_true, decide_eq_true_eq]
    omega

/-- A sector that has been erased, and is blank from an offset of it on. -/
def Blank (s : State) (off i : Nat) : Prop :=
  s.ostler.erased.contains (off / sectorSize) = true ∧ ∀ j, off + i ≤ j → j < off + sectorSize → nget 0xFF s.ostler.flash j = 0xFF

section

variable {off : Nat} (start : off % sectorSize = 0)
include start

theorem sector_of {i : Nat} (h : i < sectorSize) : (off + i) / sectorSize = off / sectorSize := by
  unfold sectorSize at *
  omega

/-- A byte programmed into a blank sector: it reads as it was written, and what lies below and outside stays. -/
theorem flashByte_blank {s : State} {i : Nat} (b : Byte) (first : 0 < i) (within : i < sectorSize) (blank : Blank s off i) :
    Blank (flashByte off s b i) off (i + 1) ∧ ∀ j, nget 0xFF (flashByte off s b i).ostler.flash j = if j = off + i then b else nget 0xFF s.ostler.flash j := by
  obtain ⟨erased, empty⟩ := blank
  have keeps : flashByte off s b i = programByte s (off + i) b := by
    refine congrArg (programByte · (off + i) b) (if_neg ?_)
    rw [sector_of start within, erased, Bool.not_true, Bool.or_false, decide_eq_true_iff]
    unfold sectorSize at *
    omega
  have reads (j : Nat) : nget 0xFF (flashByte off s b i).ostler.flash j = if j = off + i then b else nget 0xFF s.ostler.flash j := by
    rw [keeps, flash_programByte]
    split
    · rw [empty (off + i) le_rfl (by omega)]
      exact BitVec.allOnes_and
    · rfl
  refine ⟨⟨by rw [keeps]; exact erased, fun j low high => ?_⟩, reads⟩
  rw [reads, if_neg (by omega)]
  exact empty j (by omega) high

/-- The first byte of a sector erases it. -/
theorem flashByte_first (s : State) (b : Byte) :
    Blank (flashByte off s b 0) off 1 ∧ nget 0xFF (flashByte off s b 0).ostler.flash off = b ∧
      ∀ j, j < off ∨ off + sectorSize ≤ j → nget 0xFF (flashByte off s b 0).ostler.flash j = nget 0xFF s.ostler.flash j := by
  have sector : off / sectorSize * sectorSize = off ∧ (off / sectorSize + 1) * sectorSize = off + sectorSize := by
    unfold sectorSize at *
    omega
  have erases : flashByte off s b 0 = programByte (eraseSector s (off / sectorSize)) off b :=
    congrArg (programByte · off b) (if_pos (by rw [Nat.add_zero, decide_eq_true start, Bool.true_or]))
  have reads (j : Nat) : nget 0xFF (flashByte off s b 0).ostler.flash j =
      if j = off then b else if off ≤ j ∧ j < off + sectorSize then 0xFF else nget 0xFF s.ostler.flash j := by
    have cleared (j : Nat) : nget 0xFF (eraseSector s (off / sectorSize)).ostler.flash j =
        if off ≤ j ∧ j < off + sectorSize then 0xFF else nget 0xFF s.ostler.flash j := by
      rw [← sector.2]
      conv => rhs; rw [← sector.1]
      rw [Nat.mul_div_cancel _ (by decide : 0 < sectorSize)]
      exact nget_nclear ..
    rw [erases, flash_programByte, cleared, cleared, if_pos (by unfold sectorSize; omega : off ≤ off ∧ off < off + sectorSize)]
    split
    · exact BitVec.allOnes_and
    · rfl
  refine ⟨⟨?_, fun j low high => ?_⟩, ?_, fun j out => ?_⟩
  · rw [erases]
    exact List.contains_iff_mem.2 List.mem_cons_self
  · rw [reads, if_neg (by omega), if_pos (by omega)]
  · rw [reads, if_pos rfl]
  · rw [reads, if_neg (by unfold sectorSize at out; omega), if_neg (by omega)]

theorem flashBytes_blank (l : List Byte) {s : State} {i : Nat} (first : 0 < i) (within : i + l.length ≤ sectorSize) (blank : Blank s off i) (j : Nat) :
    nget 0xFF ((l.zipIdx i).foldl (fun s e => flashByte off s e.1 e.2) s).ostler.flash j =
      if off + i ≤ j ∧ j < off + i + l.length then l.getD (j - (off + i)) 0 else nget 0xFF s.ostler.flash j := by
  induction l generalizing s i with
  | nil =>
    rw [if_neg (by simp only [List.length_nil]; omega)]
    rfl
  | cons b l ih =>
    rw [List.length_cons] at within ⊢
    obtain ⟨blank', reads⟩ := flashByte_blank start b first (by omega) blank
    rw [List.zipIdx_cons, List.foldl_cons, ih (by omega) (by omega) blank', reads]
    by_cases here : j = off + i
    · rw [if_neg (by omega), if_pos here, if_pos (by omega), here, Nat.sub_self, List.getD_cons_zero]
    · rw [if_neg here]
      by_cases later : off + (i + 1) ≤ j ∧ j < off + (i + 1) + l.length
      · rw [if_pos later, if_pos (by omega)]
        have step : j - (off + i) = j - (off + (i + 1)) + 1 := by omega
        rw [step, List.getD_cons_succ]
      · rw [if_neg later, if_neg (by omega)]

end

theorem ostler_flashWriteData (s : State) (off : Nat) (data : List Byte) :
    (flashWriteData s off data).ostler = ((data.zipIdx).foldl (fun s e => flashByte off s e.1 e.2) s).ostler := foldl_restage_ostler ..

/-- A write that begins at a sector's start is exact: its bytes read as written, and nothing outside the sector changes. -/
theorem flashWriteData_sector (s : State) {off : Nat} {data : List Byte} (start : off % 4096 = 0) (fits : data.length ≤ 4096) :
    (∀ k, k < data.length → nget 0xFF (flashWriteData s off data).ostler.flash (off + k) = data.getD k 0) ∧
    ∀ k, k < off ∨ off + 4096 ≤ k → nget 0xFF (flashWriteData s off data).ostler.flash k = nget 0xFF s.ostler.flash k := by
  rw [ostler_flashWriteData]
  cases data with
  | nil => exact ⟨fun k h => absurd h (Nat.not_lt_zero k), fun k _ => rfl⟩
  | cons b l =>
    rw [List.length_cons] at fits ⊢
    obtain ⟨blank, first, outside⟩ := flashByte_first start s b
    have reads := flashBytes_blank start l Nat.one_pos (by unfold sectorSize; omega) blank
    rw [List.zipIdx_cons, List.foldl_cons]
    refine ⟨fun k h => ?_, fun k out => ?_⟩
    · refine (reads _).trans ?_
      cases k with
      | zero => rw [if_neg (by omega), List.getD_cons_zero]; exact first
      | succ k =>
        rw [if_pos (by omega), List.getD_cons_succ]
        congr 1
        omega
    · exact ((reads _).trans (if_neg (by omega))).trans (outside k out)

/-! ### Thiash messages (R471, R472, R480) -/

theorem sent_mgReply (s : State) (h : MgmtHdr) (op status : Nat) (body : List Byte) : (mgReply s h op status body).sent =
    s.sent ++ [(h.via, onWire h.via (if h.secured = true then 6 else 0x7E) (beBytes 2 Config.vendorId.toNat ++ mgBytes op status h.tag.toNat body))] :=
  sent_answer ..

section

variable {s u : State} {h : MgmtHdr}

theorem mgReplied_of (sent : u.sent = s.sent) (op status : Nat) (body : List Byte) :
    MgReplied s (tookMessage (mgReply u h op status body) h.via) h op status body := by
  unfold MgReplied Answered
  rw [tookMessage_sent, sent_mgReply, sent]

theorem ostler_tookMessage (same : u.ostler = s.ostler) (via : Transport) : (tookMessage u via).ostler = (tookMessage s via).ostler := by
  unfold tookMessage
  cases via with
  | rhoa dev =>
    dsimp only
    rw [same]
  | _ => exact same

theorem ostler_replied (op status : Nat) (body : List Byte) :
    (tookMessage (mgReply u h op status body) h.via).ostler = (tookMessage u h.via).ostler := ostler_tookMessage (mgReply_ostler ..) _

theorem tack_replied (op status : Nat) (body : List Byte) : (tookMessage (mgReply u h op status body) h.via).tack = u.tack := by
  rw [tookMessage_tack, mgReply_tack]

theorem fuses_replied (op status : Nat) (body : List Byte) : (tookMessage (mgReply u h op status body) h.via).fuses = u.fuses := by
  rw [tookMessage_fuses, mgReply_fuses]

theorem rst_replied (op status : Nat) (body : List Byte) : (tookMessage (mgReply u h op status body) h.via).rst = u.rst := by
  rw [tookMessage_rst, mgReply_rst]

theorem csrGet_replied {off : Nat} (ho : off < 0x0700000 ∨ 0x0740000 ≤ off) (op status : Nat) (body : List Byte) :
    csrGet (tookMessage (mgReply u h op status body) h.via) off = csrGet u off := by
  rw [csrGet_congr (tookMessage_csr ..), mgReply, mgSend, csrGet_answer _ ho]

/-- A field of the Ostler that taking a message leaves. -/
theorem inbox_only (s : State) (via : Transport) : { (tookMessage s via).ostler with inbox := s.ostler.inbox } = s.ostler := by
  cases via <;> rfl

end

section

variable (s : State) (h : MgmtHdr) (a v : W64) (width off slot telem : Nat) (data : List Byte) (cls : BitVec 16) (from_ : W32) (b : Byte)
  (key : BitVec 256)

theorem mgmt_unreached (off_ : mctpReaches s h.via = false) :
    ∀ i ∈ [Instr.csrRead h a width, .csrWrite h a width v, .subscribe h slot cls telem, .reportGet h from_,
      .mgmtReset h b, .flashWrite h off data, .directory h b, .fabricKey h b key, .svnRaise h b, .telemetryGet h,
      .undefinedManagementOp h b], Completes i s (· = tookMessage s h.via) := by
  intro i hi
  have control {i : Instr} {op : Nat} {exempt ok : Bool} {go : State} (run : exec i s = .next (mgControl s h op exempt ok go)) :
      Completes i s (· = tookMessage s h.via) := ⟨_, run, mgControl_unreached off_⟩
  have read {i : Instr} {op : Nat} {ok : Bool} {go : State} (run : exec i s = .next (mgRead s h op ok go)) :
      Completes i s (· = tookMessage s h.via) := ⟨_, run, mgRead_unreached off_⟩
  simp only [List.mem_cons, List.not_mem_nil, or_false] at hi
  obtain rfl | rfl | rfl | rfl | rfl | rfl | rfl | rfl | rfl | rfl | rfl := hi
  · exact read rfl
  · exact control rfl
  · exact read rfl
  · exact read rfl
  · refine control (op := 5) (exempt := b = 2) (ok := b = 1 || b = 2) (go := s) (congrArg Host.Outcome.next (if_neg ?_))
    rw [off_, Bool.and_false, Bool.false_and]
    exact Bool.false_ne_true
  · exact control rfl
  · exact control rfl
  · exact control rfl
  · exact control rfl
  · exact read rfl
  · exact read rfl

variable {s h} (there : mctpReaches s h.via = true)
include there

/-- A CONTROL message that is denied. -/
theorem mgmt_denied {i : Instr} {op : Nat} {exempt ok : Bool} {go : State} (run : exec i s = .next (mgControl s h op exempt ok go))
    (no : (if s.rst.recovery = true then exempt else inSession s h) = false) : Completes i s fun u => MgReplied s u h op 1 [] ∧
      csrGet u 0x0B00110 = (if csrGet s 0x0B00110 = BitVec.allOnes 64 then BitVec.allOnes 64 else csrGet s 0x0B00110 + 1) ∧ u.rst = s.rst ∧
      u.ostler = (tookMessage s h.via).ostler ∧ u.tack = s.tack ∧ u.fuses = s.fuses := by
  refine completes_of (run.trans (congrArg _ (mgControl_denied there no))) ⟨?_, ?_, ?_, ?_, ?_, ?_⟩
  · unfold MgReplied Answered
    rw [tookMessage_sent, mgCount_sent, sent_mgReply]
  · rw [csrGet_congr (tookMessage_csr ..)]
    have kept : csrGet (mgReply s h op 1 []) 0x0B00110 = csrGet s 0x0B00110 := by rw [mgReply, mgSend, csrGet_answer _ (.inr (by decide))]
    rw [csrGet_mgCount_same _ 2, kept]
  · rw [tookMessage_rst, mgCount_rst, mgReply_rst]
  · exact ostler_tookMessage ((mgCount_ostler ..).trans (mgReply_ostler ..)) _
  · rw [tookMessage_tack, mgCount_tack, mgReply_tack]
  · rw [tookMessage_fuses, mgCount_fuses, mgReply_fuses]

/-- A CONTROL message that is allowed: done, or a bad request. -/
theorem mgmt_done {i : Instr} {op : Nat} {exempt ok : Bool} {go : State} {P : State → Prop}
    (run : exec i s = .next (mgControl s h op exempt ok go)) (yes : (if s.rst.recovery = true then exempt else inSession s h) = true)
    (good : ok = true) (post : P (tookMessage (mgReply go h op 0 []) h.via)) : Completes i s P :=
  completes_of (run.trans (congrArg _ ((mgControl_done there yes).trans (by rw [good]; rfl)))) post

theorem mgmt_bad {i : Instr} {op : Nat} {exempt ok : Bool} {go : State} {P : State → Prop}
    (run : exec i s = .next (mgControl s h op exempt ok go)) (yes : (if s.rst.recovery = true then exempt else inSession s h) = true)
    (bad : ok = false) (post : P (tookMessage (mgReply s h op 2 []) h.via)) : Completes i s P :=
  completes_of (run.trans (congrArg _ ((mgControl_done there yes).trans (by rw [bad]; rfl)))) post

theorem mgRead_done {op : Nat} {go : State} : mgRead s h op true go = tookMessage go h.via := by
  unfold mgRead
  rw [there]
  rfl

theorem mgRead_bad {op : Nat} {go : State} : mgRead s h op false go = tookMessage (mgReply s h op 2 []) h.via := by
  unfold mgRead
  rw [there]
  rfl

omit there in
/-- MGMT_RESET asks for a reset only where it is allowed and names a level. -/
theorem execMgmtReset_none (no : (if s.rst.recovery = true then decide (b = 2) else inSession s h) = false ∨ (b ≠ 1 ∧ b ≠ 2)) :
    exec (.mgmtReset h b) s = .next (mgControl s h 5 (b = 2) (b = 1 || b = 2) s) := by
  refine congrArg Host.Outcome.next (if_neg ?_)
  obtain no | ⟨one, two⟩ := no
  · rw [no, Bool.and_false]
    exact Bool.false_ne_true
  · rw [decide_eq_false one, decide_eq_false two, Bool.or_false, Bool.false_and, Bool.false_and]
    exact Bool.false_ne_true

theorem mgmt_noSession (run_ : s.rst.recovery = false) (out : inSession s h = false) :
    ∀ x ∈ [(2, Instr.csrWrite h a width v), (5, .mgmtReset h b), (6, .flashWrite h off data), (7, .directory h b), (8, .fabricKey h b key),
      (9, .svnRaise h b)], Completes x.2 s fun u => MgReplied s u h x.1 1 [] ∧
      csrGet u 0x0B00110 = (if csrGet s 0x0B00110 = BitVec.allOnes 64 then BitVec.allOnes 64 else csrGet s 0x0B00110 + 1) ∧ u.rst = s.rst ∧
      u.ostler = (tookMessage s h.via).ostler ∧ u.tack = s.tack ∧ u.fuses = s.fuses := by
  have no (exempt : Bool) : (if s.rst.recovery = true then exempt else inSession s h) = false := by
    rw [run_, out]
    rfl
  intro x hx
  simp only [List.mem_cons, List.not_mem_nil, or_false] at hx
  obtain rfl | rfl | rfl | rfl | rfl | rfl := hx
  · exact mgmt_denied there rfl (no _)
  · exact mgmt_denied there (execMgmtReset_none b (.inl (no _))) (no _)
  · exact mgmt_denied there rfl (no _)
  · exact mgmt_denied there rfl (no _)
  · exact mgmt_denied there rfl (no _)
  · exact mgmt_denied there rfl (no _)

theorem mgmt_recovery (rec_ : s.rst.recovery = true) :
    (∀ x ∈ [(2, Instr.csrWrite h a width v), (8, .fabricKey h b key), (9, .svnRaise h b)],
      Completes x.2 s fun u => MgReplied s u h x.1 1 []) ∧
    (b ≠ 2 → Completes (.mgmtReset h b) s fun u => MgReplied s u h 5 1 [] ∧ u.rst = s.rst) ∧
    ((∃ k, k < data.length ∧ inInactive s (off + k) = false) → Completes (.flashWrite h off data) s fun u =>
      MgReplied s u h 6 1 [] ∧ u.ostler.flash = s.ostler.flash) := by
  refine ⟨fun x hx => ?_, fun other => ?_, fun ⟨k, low, active⟩ => ?_⟩
  · simp only [List.mem_cons, List.not_mem_nil, or_false] at hx
    have refuses {i : Instr} {op : Nat} {ok : Bool} {go : State} (run : exec i s = .next (mgControl s h op false ok go)) :
        Completes i s fun u => MgReplied s u h op 1 [] := by
      obtain ⟨u, run, said, -⟩ := mgmt_denied there run (if_pos rec_)
      exact ⟨u, run, said⟩
    obtain rfl | rfl | rfl := hx
    · exact refuses rfl
    · exact refuses rfl
    · exact refuses rfl
  · have no : (if s.rst.recovery = true then decide (b = 2) else inSession s h) = false := (if_pos rec_).trans (decide_eq_false other)
    obtain ⟨u, run, said, -, rst, -⟩ := mgmt_denied there (execMgmtReset_none b (.inl no)) no
    exact ⟨u, run, said, rst⟩
  · have closed : ((List.range data.length).map (off + ·)).all (inInactive s) = false := by
      rw [List.all_eq_false]
      exact ⟨off + k, List.mem_map.2 ⟨k, List.mem_range.2 low, rfl⟩, by rw [active]; exact Bool.false_ne_true⟩
    obtain ⟨u, run, said, -, -, ostler, -⟩ := mgmt_denied (i := .flashWrite h off data) there rfl ((if_pos rec_).trans closed)
    exact ⟨u, run, said, by rw [ostler, ← inbox_only s h.via]⟩

theorem mgmt_reads :
    (csrOffset a width = none → Completes (.csrRead h a width) s (MgReplied s · h 1 2 [])) ∧
    (∀ o, csrOffset a width = some o → Completes (.csrRead h a width) s (MgReplied s · h 1 0 (leBytes width (csrRead s o width).1))) ∧
    Completes (.reportGet h from_) s (MgReplied s · h 4 0 (recordsFrom s from_).flatten) ∧
    (s.ostler.telem ≠ [] → Completes (.telemetryGet h) s (MgReplied s · h 0x0A 0 s.ostler.telem)) ∧
    (s.ostler.telem = [] → Completes (.telemetryGet h) s fun u => ∃ r : List Byte, r.length = 48 ∧ MgReplied s u h 0x0A 0 r) ∧
    (1 ≤ b.toNat ∧ b.toNat ≤ 10 → Completes (.undefinedManagementOp h b) s (· = tookMessage s h.via)) ∧
    (b = 0 ∨ 10 < b.toNat → Completes (.undefinedManagementOp h b) s (MgReplied s · h b.toNat 2 [])) := by
  refine ⟨fun none_ => ?_, fun o at_ => ?_, ?_, fun some_ => ?_, fun none_ => ?_, fun known => ?_, fun unknown => ?_⟩
  · have run : exec (.csrRead h a width) s = .next (mgRead s h 1 false (mgReply (csrRead s 0 width).2 h 1 0 (leBytes width (csrRead s 0 width).1))) :=
      congrArg Host.Outcome.next (by rw [none_]; rfl)
    exact completes_of (run.trans (congrArg _ (mgRead_bad there))) (mgReplied_of rfl ..)
  · have run : exec (.csrRead h a width) s = .next (mgRead s h 1 true (mgReply (csrRead s o width).2 h 1 0 (leBytes width (csrRead s o width).1))) :=
      congrArg Host.Outcome.next (by rw [at_]; rfl)
    exact completes_of (run.trans (congrArg _ (mgRead_done there))) (mgReplied_of (csrRead_sent ..) ..)
  · have run : exec (.reportGet h from_) s = .next (mgRead s h 4 true (mgReply s h 4 0 (recordsFrom s from_).flatten)) := rfl
    exact completes_of (run.trans (congrArg _ (mgRead_done there))) (mgReplied_of rfl ..)
  · have run : exec (.telemetryGet h) s = .next (mgRead s h 0x0A true (mgReply s h 0x0A 0 s.ostler.telem)) :=
      congrArg (fun g => Host.Outcome.next (mgRead s h 0x0A true g)) (if_neg some_)
    exact completes_of (run.trans (congrArg _ (mgRead_done there))) (mgReplied_of rfl ..)
  · have run : exec (.telemetryGet h) s = .next (mgRead s h 0x0A true (mgReply (draw s).2 h 0x0A 0 (leBytes 48 (draw s).1))) :=
      congrArg (fun g => Host.Outcome.next (mgRead s h 0x0A true g)) (if_pos none_)
    exact completes_of (run.trans (congrArg _ (mgRead_done there))) ⟨_, leBytes_length .., mgReplied_of (draw_sent ..) ..⟩
  · have run : exec (.undefinedManagementOp h b) s = .next (mgRead s h b.toNat true s) := by
      refine congrArg (fun ok => Host.Outcome.next (mgRead s h b.toNat ok s)) ?_
      rw [decide_eq_true known.1, decide_eq_true known.2]
      rfl
    exact ⟨_, run, mgRead_done there⟩
  · have run : exec (.undefinedManagementOp h b) s = .next (mgRead s h b.toNat false s) := by
      refine congrArg (fun ok => Host.Outcome.next (mgRead s h b.toNat ok s)) ?_
      obtain rfl | high := unknown
      · rfl
      · rw [decide_eq_false (Nat.not_le.2 high), Bool.and_false]
    exact completes_of (run.trans (congrArg _ (mgRead_bad there))) (mgReplied_of rfl ..)

theorem mgmt_subscribes :
    (slot ≤ 3 → telem ≤ 1 → Completes (.subscribe h slot cls telem) s fun u => MgReplied s u h 3 0 [] ∧ ∀ k, nget none u.ostler.subs k =
      if k = slot then (if cls = 0 ∧ telem = 0 then none else some { via := h.via, classes := cls, telem := telem = 1 })
      else nget none s.ostler.subs k) ∧
    (3 < slot ∨ 1 < telem → Completes (.subscribe h slot cls telem) s fun u => MgReplied s u h 3 2 [] ∧ u.ostler = (tookMessage s h.via).ostler) := by
  let sub : Option Sub := if cls = 0 && telem = 0 then none else some { via := h.via, classes := cls, telem := telem = 1 }
  have same : sub = if cls = 0 ∧ telem = 0 then none else some { via := h.via, classes := cls, telem := telem = 1 } := by
    refine if_congr ?_ rfl rfl
    rw [Bool.and_eq_true, decide_eq_true_iff, decide_eq_true_iff]
  refine ⟨fun low kind => ?_, fun bad => ?_⟩
  · have run : exec (.subscribe h slot cls telem) s = .next (mgRead s h 3 true
        (mgReply (modOstler s fun o => { o with subs := nset none o.subs slot sub }) h 3 0 [])) := by
      refine congrArg (fun ok => Host.Outcome.next (mgRead s h 3 ok
        (mgReply (modOstler s fun o => { o with subs := nset none o.subs slot sub }) h 3 0 []))) ?_
      rw [decide_eq_true low, decide_eq_true kind]
      rfl
    refine completes_of (run.trans (congrArg _ (mgRead_done there))) ⟨mgReplied_of rfl .., fun k => ?_⟩
    have subs : (tookMessage (mgReply (modOstler s fun o => { o with subs := nset none o.subs slot sub }) h 3 0 []) h.via).ostler.subs =
        nset none s.ostler.subs slot sub := by
      rw [ostler_replied]
      exact (congrArg Ostler.subs (inbox_only _ h.via) :)
    rw [subs, ← same]
    split
    · next eq => rw [eq, nget_nset_same]
    · next ne => exact nget_nset_other none s.ostler.subs ne _
  · have run : exec (.subscribe h slot cls telem) s = .next (mgRead s h 3 false
        (mgReply (modOstler s fun o => { o with subs := nset none o.subs slot sub }) h 3 0 [])) := by
      refine congrArg (fun ok => Host.Outcome.next (mgRead s h 3 ok
        (mgReply (modOstler s fun o => { o with subs := nset none o.subs slot sub }) h 3 0 []))) ?_
      obtain bad | bad := bad
      · rw [decide_eq_false (Nat.not_le.2 bad), Bool.false_and]
      · rw [decide_eq_false (Nat.not_le.2 bad), Bool.and_false]
    exact completes_of (run.trans (congrArg _ (mgRead_bad there))) ⟨mgReplied_of rfl .., ostler_replied ..⟩

/-- The messages that write, allowed in a session. -/
theorem mgmt_writes (allowed : s.rst.recovery = false ∧ inSession s h = true) :
    (csrOffset a width = none → Completes (.csrWrite h a width v) s (MgReplied s · h 2 2 [])) ∧
    (Completes (.csrWrite h 0xA000006400 4 v) s fun u => MgReplied s u h 2 0 [] ∧ (s.ostler.up = true →
      csrField u 0x6400 19 0 = bitsOf v.toNat 19 0)) ∧
    (b ≠ 1 → b ≠ 2 → Completes (.mgmtReset h b) s fun u => MgReplied s u h 5 2 [] ∧ u.rst = s.rst) ∧
    (b = 0 ∨ b = 1 → Completes (.fabricKey h b key) s fun u => MgReplied s u h 8 0 [] ∧
      u.tack.fabric = (if b = 1 then some key else none) ∧ u.ostler.fabric = u.tack.fabric) ∧
    (b ≠ 0 → b ≠ 1 → Completes (.fabricKey h b key) s fun u => MgReplied s u h 8 2 [] ∧ u.tack = s.tack) ∧
    (s.fuses.svnFloor < b.toNat → Completes (.svnRaise h b) s fun u => MgReplied s u h 9 0 [] ∧
      u.fuses = { s.fuses with svnFloor := b.toNat }) ∧
    (b.toNat ≤ s.fuses.svnFloor → Completes (.svnRaise h b) s fun u => MgReplied s u h 9 2 [] ∧ u.fuses = s.fuses) := by
  have yes (exempt : Bool) : (if s.rst.recovery = true then exempt else inSession s h) = true := by
    rw [allowed.1, allowed.2]
    rfl
  refine ⟨fun none_ => mgmt_bad there rfl (yes _) (by rw [none_]; rfl) (mgReplied_of rfl ..), ?_, fun one two => ?_, fun op => ?_,
    fun zero one => ?_, fun above => ?_, fun below => ?_⟩
  · have at_ : csrOffset 0xA000006400 4 = some 0x6400 := by decide
    refine mgmt_done there rfl (yes _) (by rw [at_]; rfl) ?_
    rw [at_]
    have sent : (writeCsr s .ostler 0x6400 4 v.toNat).sent = s.sent := by
      unfold writeCsr
      dsimp only
      split
      · rw [csrWrite_quantum]
        rfl
      · rfl
    refine ⟨mgReplied_of sent .., fun up => ?_⟩
    have writes : writeCsr s .ostler 0x6400 4 v.toNat = quantumSet s (v.toNat % 2 ^ 32) := (if_pos up).trans (csrWrite_quantum ..)
    rw [Option.getD_some, writes, csrField_congr (csrGet_replied (.inl (by decide)) ..), quantumSet_field]
    unfold bitsOf
    omega
  · refine mgmt_bad there (execMgmtReset_none b (.inr ⟨one, two⟩)) (yes _) ?_ ⟨mgReplied_of rfl .., rst_replied ..⟩
    rw [decide_eq_false one, decide_eq_false two]
    rfl
  · refine mgmt_done there rfl (yes _) ?_ ⟨mgReplied_of ?_ .., ?_, ?_⟩
    · obtain rfl | rfl := op <;> rfl
    · rw [modOstler_sent, modTack_sent]
    · rw [tack_replied, modOstler_tack, modTack_tack]
    · rw [tack_replied, modOstler_tack, modTack_tack, ostler_replied]
      exact (congrArg Ostler.fabric (inbox_only _ h.via) :)
  · refine mgmt_bad there rfl (yes _) ?_ ⟨mgReplied_of rfl .., tack_replied ..⟩
    rw [decide_eq_false zero, decide_eq_false one]
    rfl
  · have run : exec (.svnRaise h b) s = .next (mgControl s h 9 false (decide (s.fuses.svnFloor < b.toNat)) (refloor s b)) := rfl
    have sent : (refloor s b).sent = s.sent := by
      unfold refloor
      rw [foldl_keeps State.sent fun _ _ => restage_sent ..]
    have fuses : (refloor s b).fuses = { s.fuses with svnFloor := b.toNat } := by
      unfold refloor
      rw [foldl_keeps State.fuses fun _ _ => restage_fuses ..]
    exact mgmt_done there run (yes _) (decide_eq_true above) ⟨mgReplied_of sent .., (fuses_replied ..).trans fuses⟩
  · have run : exec (.svnRaise h b) s = .next (mgControl s h 9 false (decide (s.fuses.svnFloor < b.toNat)) (refloor s b)) := rfl
    exact mgmt_bad there run (yes _) (decide_eq_false (Nat.not_lt.2 below)) ⟨mgReplied_of rfl .., fuses_replied ..⟩

theorem mgmt_flash (may : (s.rst.recovery = false ∧ inSession s h = true) ∨
      (s.rst.recovery = true ∧ ∀ k, k < data.length → inInactive s (off + k) = true)) :
    (4096 < data.length ∨ flashSize < off + data.length ∨ (∃ k, k < data.length ∧ flashClosed s (off + k) = true) →
      Completes (.flashWrite h off data) s fun u => MgReplied s u h 6 2 [] ∧ u.ostler = (tookMessage s h.via).ostler) ∧
    (data.length ≤ 4096 → off + data.length ≤ flashSize →
      (∀ k, k < data.length → flashClosed s (off + k) = false) → Completes (.flashWrite h off data) s fun u => MgReplied s u h 6 0 [] ∧
      (off % 4096 = 0 → (∀ k, k < data.length → nget 0xFF u.ostler.flash (off + k) = data.getD k 0) ∧
        ∀ k, k < off ∨ off + 4096 ≤ k → nget 0xFF u.ostler.flash k = nget 0xFF s.ostler.flash k)) := by
  have yes : (if s.rst.recovery = true then ((List.range data.length).map (off + ·)).all (inInactive s) else inSession s h) = true := by
    obtain ⟨run_, in_⟩ | ⟨rec_, inactive⟩ := may
    · rw [run_, in_]
      rfl
    · rw [if_pos rec_, List.all_eq_true]
      intro o ho
      obtain ⟨k, low, rfl⟩ := List.mem_map.1 ho
      exact inactive k (List.mem_range.1 low)
  refine ⟨fun bad => mgmt_bad there rfl yes ?_ ⟨mgReplied_of rfl .., ostler_replied ..⟩, fun short within closed => ?_⟩
  · obtain long | beyond | ⟨k, low, closed⟩ := bad
    · rw [decide_eq_false (Nat.not_le.2 long), Bool.false_and, Bool.false_and]
    · rw [decide_eq_false (Nat.not_le.2 beyond), Bool.and_false, Bool.false_and]
    · have some_ : ((List.range data.length).map (off + ·)).any (flashClosed s) = true :=
        List.any_eq_true.2 ⟨off + k, List.mem_map.2 ⟨k, List.mem_range.2 low, rfl⟩, closed⟩
      rw [some_, Bool.not_true, Bool.and_false]
  · have none_ : ((List.range data.length).map (off + ·)).any (flashClosed s) = false := by
      rw [List.any_eq_false]
      intro o ho
      obtain ⟨k, low, rfl⟩ := List.mem_map.1 ho
      rw [closed k (List.mem_range.1 low)]
      exact Bool.false_ne_true
    refine mgmt_done there rfl yes ?_ ⟨mgReplied_of ?_ .., fun start => ?_⟩
    · rw [decide_eq_true short, decide_eq_true within, none_]
      rfl
    · exact flashWriteData_sent ..
    · have flash : (tookMessage (mgReply (flashWriteData s off data) h 6 0 []) h.via).ostler.flash = (flashWriteData s off data).ostler.flash := by
        rw [ostler_replied]
        exact (congrArg Ostler.flash (inbox_only _ h.via) :)
      rw [flash]
      exact flashWriteData_sector s start short

theorem mgmt_directory (may : (s.rst.recovery = false ∧ inSession s h = true) ∨ s.rst.recovery = true) :
    (b.toNat < 8 → Completes (.directory h b) s fun u => MgReplied s u h 7 0 [] ∧ u.ostler = { (tookMessage s h.via).ostler with dir := b.setWidth 3 }) ∧
    (8 ≤ b.toNat → Completes (.directory h b) s fun u => MgReplied s u h 7 2 [] ∧ u.ostler = (tookMessage s h.via).ostler) := by
  have yes : (if s.rst.recovery = true then true else inSession s h) = true := by
    obtain ⟨run_, in_⟩ | rec_ := may
    · rw [run_, in_]
      rfl
    · rw [if_pos rec_]
  refine ⟨fun low => mgmt_done there rfl yes (decide_eq_true low) ⟨mgReplied_of ?_ .., ?_⟩,
    fun high => mgmt_bad there rfl yes (decide_eq_false (Nat.not_lt.2 high)) ⟨mgReplied_of rfl .., ostler_replied ..⟩⟩
  · exact foldl_keeps State.sent (fun _ _ => restage_sent ..) _ _
  · rw [ostler_replied, ostler_tookMessage (foldl_restage_ostler ..)]
    cases h.via <;> rfl

end

/-- Settles O59, message by message. -/
theorem managementMessagesAnswered : Obligations.ManagementMessagesAnswered := by
  intro s h a v width off slot telem data cls from_ b key allowed mayWrite
  refine ⟨mgmt_unreached s h a v width off slot telem data cls from_ b key, fun there => ?_⟩
  obtain ⟨unmapped, mapped, reports, kept, drawn, known, unknown⟩ := mgmt_reads a width from_ b there
  obtain ⟨subscribes, refuses⟩ := mgmt_subscribes slot telem cls there
  have flash (yes : mayWrite) := mgmt_flash off data there yes
  have directory (yes : allowed ∨ s.rst.recovery = true) := mgmt_directory b there yes
  refine ⟨mgmt_noSession a v width off data b key there, mgmt_recovery a v width off data b key there, unmapped, mapped,
    fun yes => ?_, fun yes => ?_, subscribes, refuses, reports, kept, drawn, fun yes => ?_,
    fun yes => (flash yes).1, fun yes => (flash yes).2, fun yes => (directory yes).1, fun yes => (directory yes).2,
    fun yes => ?_, fun yes => ?_, fun yes => ?_, fun yes => ?_, known, unknown⟩
  all_goals obtain ⟨unmapped, quantum, level, key, badKey, above, below⟩ := mgmt_writes a v width b key there yes
  · exact unmapped
  · exact quantum
  · exact level
  · exact key
  · exact badKey
  · exact above
  · exact below

end Sys2Proof.Machine
end

section
/-!
SUPPORT. The frame lemmas that the refutations of O29, O36, O42 and O48 rest on.
-/

namespace Sys2Proof.Machine



end Sys2Proof.Machine
end

section
/-!
PROOFS. States that the statements O29, O36, O42 and O48 do not exclude, and in which they fail.
-/

namespace Sys2Proof.Machine

/-! ### The re-run of a stopped context (R21, R409) -/

/-- Context slot 0 is stopped and does not run; a trigger of its epoch 0, whose checkpoint stands, is pending. -/
def stoppedState : State :=
  { ctxs := [(0, { st := .stopped })], recs := [(0, { triggers := [1], chks := [{ epoch := 0 }] })] }

theorem rollback_stoppedState : exec (.rollback 0) stoppedState = .next (restart stoppedState 0 0) := rfl

/-- Refutes O29: a context that has stopped is not re-run, so its rollback opens no epoch. -/
theorem not_abortAndRollbackRestart : ¬ Obligations.AbortAndRollbackRestart := by
  intro h
  obtain ⟨-, rollbacks⟩ := h
  obtain ⟨-, -, restarts⟩ := rollbacks stoppedState 0 (by decide)
  obtain ⟨u, run, -, opened, -⟩ := restarts 0 { epoch := 0 } (by decide) (by decide) (by decide) (by decide) (by decide)
  obtain rfl : restart stoppedState 0 0 = u := Host.Outcome.next.inj (rollback_stoppedState.symm.trans run)
  exact absurd opened (by decide)

/-! ### A gate step and the drops of a stall that retires (R237, R392, R441) -/

/-- An image with the handles of a release: CT (0), AS (1) and OUT (2), under a chain of degree 1. -/
def tinyReleaseImage : Image where
  chains := [{ logN := 0 }]
  handles := [{ handle := 0, layout := 1, place := 2, chain := 0, flags := 2 }, { handle := 1, kind := 4, place := 2, flags := 2 },
    { handle := 2, kind := 4, place := 2 }]

/-- A release waits for its gate step; position 1 awaits retirement, and its stall has counted one drop under an index whose
counter is TR_CNT[3]. -/
def droppingState : State where
  tack := { release := some { as_ := 1, out := 2 }, slots := [(0, { policy := some {} })] }
  ctxs := [(0, { image := some tinyReleaseImage })]
  positions := [(1, { await := some 0 })]
  stalls := [(1, { drops := [((0x0901218 - 0x4000) / 8, 1)] })]

/-- What the gate step finds once the awaiting position has retired. -/
def droppedState : State := scanBoundary (retireAwaiting droppingState)

theorem gateStep_droppingState :
    exec (.gateStep 0) droppingState = .next (gateRun droppedState { as_ := 1, out := 2 } 0) := rfl

/-- Refutes O48: the drops reach a counter by their index, so that a retirement at the gate step moves TR_CNT[3] as well. -/
theorem not_releaseGateChecksAndReleases : ¬ Obligations.ReleaseGateChecksAndReleases := by
  intro h
  obtain ⟨⟨-, steps⟩, -⟩ := h
  obtain ⟨-, served⟩ := steps droppingState 0
  obtain ⟨-, passes⟩ := served { as_ := 1, out := 2 } (by decide) (by decide +kernel) (by decide)
  obtain ⟨hs, handles⟩ := Option.isSome_iff_exists.mp (show (releaseHandles droppedState { as_ := 1, out := 2 }).isSome = true by decide +kernel)
  obtain ⟨passed, -⟩ := passes {} hs (by decide) handles
  obtain ⟨u, run, -, -, -, -, counted, -⟩ := passed rfl
  obtain rfl : gateRun droppedState { as_ := 1, out := 2 } 0 = u := Host.Outcome.next.inj (gateStep_droppingState.symm.trans run)
  exact absurd counted (by decide +kernel)

/-! ### A write-back of a line that stands out of its place (R323) -/

/-- A Granary whose half 0 may hold no dirty line and whose lines, each cached once, do not stand in the order of their keys: line 5,
clean, before line 3, dirty. -/
def unorderedState : State where
  csr := [(0x0500008, 0)]
  grn := { lines := [(5, some {}), (3, some { dirty := true })] }

/-- The write-back's result. -/
def trimmedState : State := trimDirty 0 [] 1 unorderedState

theorem writeback_unorderedState : exec (.granaryWriteback ⟨0, []⟩) unorderedState = .next trimmedState := rfl

/-- Refutes O36: the clean line is put before the place of the dirty one, which stays, so that the half has a dirty line still. -/
theorem not_granaryServesLines : ¬ Obligations.GranaryServesLines := by
  intro h
  obtain ⟨-, -, writebacks⟩ := h
  obtain ⟨u, run, trimmed, -⟩ := writebacks unorderedState 0 [] (by decide)
  obtain rfl : trimmedState = u := Host.Outcome.next.inj (writeback_unorderedState.symm.trans run)
  exact absurd trimmed (by decide +kernel)

/-! ### A START where a position stands twice in the roster (R380) -/

/-- START of entry 0, with the Ledger as its time base. -/
def startPacket : Packet := ⟨0, [0, 0, 0, 0, 3, 2] ++ List.replicate 26 0⟩

/-- An image of two roles, one for each logical ID, whose entry 0 has a record for each: role 1 at index 7, role 0 at index 9. -/
def twoRoleImage : Image where
  roleMap := [0, 1]
  entries := [(0, 1, [7]), (0, 0, [9])]

/-- Context 0 runs, with that image and a START at its head; the roster lists position 5 twice, under both logical IDs. -/
def listedTwiceState : State where
  ctxs := [(0, { st := .resident, image := some twoRoleImage, taken := [startPacket] })]
  positions := [(5, { st := .enabled, lid := 0 }), (5, { st := .enabled, lid := 1 })]
  ym := { running := some 0 }

/-- The row of START once the packet at the head is known. -/
def startedState : State :=
  ensureEpoch ([(1, [7]), (0, [9])].foldl (fun s e => (lidsOf twoRoleImage e.1).foldl (fun s l =>
    modStallCtx s 0 l (startStall 0 e.2)) s)
    (modCtx (begin listedTwiceState 0 startPacket) 0 fun x => { x with cur := x.cur.map fun e => { e with teams := true } })) 0

theorem start_listedTwiceState : exec (.start 0) listedTwiceState = .next startedState := rfl

/-- Refutes O42: both records of the entry reach the stall that stands for both logical IDs, and the second finds its Team started. -/
theorem not_imagesInstallStartAndUnload : ¬ Obligations.ImagesInstallStartAndUnload := by
  intro h
  obtain ⟨-, starts, -⟩ := h
  obtain ⟨-, -, started⟩ := starts listedTwiceState 0 startPacket ⟨⟨[], rfl⟩, rfl, by decide +kernel, by decide +kernel⟩ (by decide +kernel)
  obtain ⟨u, run, -, teams⟩ := started (0, 0, [9]) (by decide) (by decide) (by decide +kernel)
  obtain rfl : startedState = u := Host.Outcome.next.inj (start_listedTwiceState.symm.trans run)
  obtain ⟨-, begun⟩ := teams 0 (by decide +kernel) (by decide +kernel) 0
  exact absurd (begun 5 (by decide +kernel) (by decide +kernel)) (by decide +kernel)

end Sys2Proof.Machine
end

section
/-!
SUPPORT. The frame lemmas that the proofs of O27, O31 and O41 rest on.
-/

namespace Sys2Proof.Machine

/-! ### The stalls -/

@[simp] theorem vStalls_applyTarget (s : State) (p : Nat) :
    (applyTarget s p).vStalls = s.vStalls := by simp [applyTarget]

@[simp] theorem stall_csrPut (s : State) (off : Nat) (v : W64) (j₀ : Nat) :
    stall (csrPut s off v) j₀ = stall s j₀ := congrArg (nget ({} : Stall) · j₀) ((vStalls_def _).symm.trans ((vStalls_csrPut
      ..).trans (vStalls_def _)))

@[simp] theorem stall_sendBridle (s : State) (src dst : Node) (c : Nat) (b : Body) (j₀ : Nat) :
    stall (sendBridle s src dst c b) j₀ = stall s j₀ := congrArg (nget ({} : Stall) · j₀) ((vStalls_def _).symm.trans
      ((vStalls_sendBridle ..).trans (vStalls_def _)))

@[simp] theorem stall_parityFailed (s : State) (p line words : Nat) (background : Bool) (j₀ : Nat) :
    stall (parityFailed s p line words background) j₀ = stall s j₀ := congrArg (nget ({} : Stall) · j₀) ((vStalls_def
      _).symm.trans ((vStalls_parityFailed ..).trans (vStalls_def _)))

@[simp] theorem stall_applyTarget (s : State) (p : Nat) (j₀ : Nat) :
    stall (applyTarget s p) j₀ = stall s j₀ := congrArg (nget ({} : Stall) · j₀) ((vStalls_def _).symm.trans
      ((vStalls_applyTarget ..).trans (vStalls_def _)))

/-! ### The recovery state of the contexts -/

@[simp] theorem vRecs_recordFirst (s : State) (off v : Nat) :
    (recordFirst s off v).vRecs = s.vRecs := by simp [recordFirst]

@[simp] theorem vRecs_yardCount (s : State) (i n : Nat) :
    (yardCount s i n).vRecs = s.vRecs := by simp [yardCount]

@[simp] theorem vRecs_dbFault (s : State) (c code lid team handle : Nat) :
    (dbFault s c code lid team handle).vRecs = s.vRecs := by simp [dbFault]

@[simp] theorem vRecs_raiseIrq (s : State) (fn vec : Nat) :
    (raiseIrq s fn vec).vRecs = s.vRecs := by simp [raiseIrq, vRecs_eta]

@[simp] theorem vRecs_ghRecord (s : State) (r : Nat) (rec_ : List Byte) (irq : Bool) (vf vfVec : Nat) :
    (ghRecord s r rec_ irq vf vfVec).vRecs = s.vRecs := by simp [ghRecord, vRecs_eta]

@[simp] theorem vRecs_ghNote (s : State) (ring : Nat) (rec_ : List Byte) :
    (ghNote s ring rec_).vRecs = s.vRecs := by
  unfold ghNote
  repeat' first
    | (simp [vRecs_eta]; done)
    | (with_reducible refine (vRecs_foldl _ ?_ _ _).trans ?_)
    | intro _
    | split
    | dsimp only

@[simp] theorem vRecs_ghDeliver (s : State) (m : Nat) (rec_ : List Byte) (irq : Bool) :
    (ghDeliver s m rec_ irq).vRecs = s.vRecs := by simp [ghDeliver]

@[simp] theorem vRecs_emitRecord (s : State) (rec_ : List Byte) (irq : Bool) :
    (emitRecord s rec_ irq).vRecs = s.vRecs := by
  unfold emitRecord
  repeat' split
  all_goals simp

@[simp] theorem vRecs_reportOstler (s : State) (source code detail c : Nat) :
    (reportOstler s source code detail c).vRecs = s.vRecs := by simp [reportOstler, vRecs_eta]

@[simp] theorem vRecs_reportFault (s : State) (source code detail c lid team handle : Nat) :
    (reportFault s source code detail c lid team handle).vRecs = s.vRecs := by simp [reportFault]

@[simp] theorem recOf_bump (s : State) (off wrapOff wrapBit : Nat) (j₀ : Nat) :
    recOf (bump s off wrapOff wrapBit) j₀ = recOf s j₀ := congrArg (nget ({} : Rec) · j₀) ((vRecs_def _).symm.trans
      ((vRecs_bump ..).trans (vRecs_def _)))

@[simp] theorem recOf_recordFirst (s : State) (off v : Nat) (j₀ : Nat) :
    recOf (recordFirst s off v) j₀ = recOf s j₀ := congrArg (nget ({} : Rec) · j₀) ((vRecs_def _).symm.trans
      ((vRecs_recordFirst ..).trans (vRecs_def _)))

@[simp] theorem recOf_yardCount (s : State) (i n : Nat) (j₀ : Nat) :
    recOf (yardCount s i n) j₀ = recOf s j₀ := congrArg (nget ({} : Rec) · j₀) ((vRecs_def _).symm.trans ((vRecs_yardCount
      ..).trans (vRecs_def _)))

@[simp] theorem recOf_reportFault (s : State) (source code detail c lid team handle : Nat) (j₀ : Nat) :
    recOf (reportFault s source code detail c lid team handle) j₀ = recOf s j₀ := congrArg (nget ({} : Rec) · j₀) ((vRecs_def
      _).symm.trans ((vRecs_reportFault ..).trans (vRecs_def _)))

/-! ### The fault reports -/

@[simp] theorem vReports_modRec (s : State) (c : Nat) (f : Rec → Rec) :
    (modRec s c f).vReports = s.vReports := by simp [modRec, vReports_eta]

@[simp] theorem vReports_trigger (s : State) (c target : Nat) :
    (trigger s c target).vReports = s.vReports := by simp [trigger]

@[simp] theorem trigger_reports (s : State) (c target : Nat) :
    (trigger s c target).reports = s.reports := (vReports_def _).symm.trans ((vReports_trigger ..).trans (vReports_def _))

/-! ### The contexts -/

@[simp] theorem vCtxs_recordFirst (s : State) (off v : Nat) :
    (recordFirst s off v).vCtxs = s.vCtxs := by simp [recordFirst]

@[simp] theorem vCtxs_yardCount (s : State) (i n : Nat) :
    (yardCount s i n).vCtxs = s.vCtxs := by simp [yardCount]

@[simp] theorem vCtxs_hbmCount (s : State) (st i n : Nat) :
    (hbmCount s st i n).vCtxs = s.vCtxs := by simp [hbmCount]

@[simp] theorem vCtxs_grnCount (s : State) (i n : Nat) :
    (grnCount s i n).vCtxs = s.vCtxs := by simp [grnCount]

@[simp] theorem vCtxs_dbFault (s : State) (c code lid team handle : Nat) :
    (dbFault s c code lid team handle).vCtxs = s.vCtxs := by simp [dbFault]

@[simp] theorem vCtxs_raiseIrq (s : State) (fn vec : Nat) :
    (raiseIrq s fn vec).vCtxs = s.vCtxs := by simp [raiseIrq, vCtxs_eta]

@[simp] theorem vCtxs_ghRecord (s : State) (r : Nat) (rec_ : List Byte) (irq : Bool) (vf vfVec : Nat) :
    (ghRecord s r rec_ irq vf vfVec).vCtxs = s.vCtxs := by simp [ghRecord, vCtxs_eta]

@[simp] theorem vCtxs_ghNote (s : State) (ring : Nat) (rec_ : List Byte) :
    (ghNote s ring rec_).vCtxs = s.vCtxs := by
  unfold ghNote
  repeat' first
    | (simp [vCtxs_eta]; done)
    | (with_reducible refine (vCtxs_foldl _ ?_ _ _).trans ?_)
    | intro _
    | split
    | dsimp only

@[simp] theorem vCtxs_ghDeliver (s : State) (m : Nat) (rec_ : List Byte) (irq : Bool) :
    (ghDeliver s m rec_ irq).vCtxs = s.vCtxs := by simp [ghDeliver]

@[simp] theorem vCtxs_emitRecord (s : State) (rec_ : List Byte) (irq : Bool) :
    (emitRecord s rec_ irq).vCtxs = s.vCtxs := by
  unfold emitRecord
  repeat' split
  all_goals simp

@[simp] theorem vCtxs_reportOstler (s : State) (source code detail c : Nat) :
    (reportOstler s source code detail c).vCtxs = s.vCtxs := by simp [reportOstler, vCtxs_eta]

@[simp] theorem vCtxs_reportFault (s : State) (source code detail c lid team handle : Nat) :
    (reportFault s source code detail c lid team handle).vCtxs = s.vCtxs := by simp [reportFault]

@[simp] theorem vCtxs_trigger (s : State) (c target : Nat) :
    (trigger s c target).vCtxs = s.vCtxs := by simp [trigger]

@[simp] theorem vCtxs_modRegion (s : State) (i : Nat) (f : Region → Region) :
    (modRegion s i f).vCtxs = s.vCtxs := by simp [modRegion, vCtxs_eta]

@[simp] theorem vCtxs_modSlot (s : State) (page : Nat) (f : Slot → Slot) :
    (modSlot s page f).vCtxs = s.vCtxs := by simp [modSlot, vCtxs_eta]

@[simp] theorem vCtxs_setGpoison (s : State) (g : Nat) (v : Bool) :
    (setGpoison s g v).vCtxs = s.vCtxs := by simp [setGpoison]

@[simp] theorem vCtxs_rowFails (s : State) (g : Nat) :
    (rowFails s g).vCtxs = s.vCtxs := by simp [rowFails, vCtxs_eta]

@[simp] theorem vCtxs_innerFix (s : State) (g : Nat) :
    (innerFix s g).vCtxs = s.vCtxs := by
  unfold innerFix
  repeat' split
  all_goals simp [vCtxs_eta]

@[simp] theorem vCtxs_rowErrors (s : State) (r : Region) (g : Nat) (e : MemErr) :
    (rowErrors s r g e).vCtxs = s.vCtxs := by simp [rowErrors]

@[simp] theorem vCtxs_memFault (s : State) (g : Nat) (owner code retries : Nat) (slot : Bool) (own : Bool) :
    (memFault s g owner code retries slot own).vCtxs = s.vCtxs := by simp [memFault]

@[simp] theorem vCtxs_freeGranule (s : State) :
    (freeGranule s).2.vCtxs = s.vCtxs := by simp [freeGranule, vCtxs_eta]

@[simp] theorem vCtxs_decodeFault (s : State) (g owner i code : Nat) (e : MemErr) (slot own : Bool) :
    (decodeFault s g owner i code e slot own).2.2.vCtxs = s.vCtxs := by simp [decodeFault]

@[simp] theorem vCtxs_readGranule (s : State) (r : Region) (g : Nat) (e : MemErr) (own : Bool) :
    (readGranule s r g e own).2.2.vCtxs = s.vCtxs := by
  unfold readGranule
  repeat' split
  all_goals simp

@[simp] theorem vCtxs_noteRead (s : State) (g : Nat) :
    (noteRead s g).vCtxs = s.vCtxs := by simp [noteRead, vCtxs_eta]

@[simp] theorem vCtxs_readRequest (s : State) (r : Region) (g : Nat) (e : MemErr) (own : Bool) :
    (readRequest s r g e own).2.2.vCtxs = s.vCtxs := by simp [readRequest]

@[simp] theorem vCtxs_readFor (s : State) (owner g : Nat) (e : MemErr) (own : Bool) :
    (readFor s owner g e own).2.2.vCtxs = s.vCtxs := by
  unfold readFor
  split <;> simp

@[simp] theorem vCtxs_putGranule (s : State) (g : Nat) (d : List Byte) (poison : Bool) :
    (putGranule s g d poison).vCtxs = s.vCtxs := by simp [putGranule, vCtxs_eta]

@[simp] theorem vCtxs_sendGranule (s : State) (g : Nat) (d : List Byte) (poison : Bool) (e : MemErr) (own : Bool) :
    (sendGranule s g d poison e own).vCtxs = s.vCtxs := by
  unfold sendGranule
  repeat' split
  all_goals simp [vCtxs_eta]

@[simp] theorem vCtxs_writeGranule (s : State) (g : Nat) (bs : List (Nat × Byte)) (poison : Bool) (e : MemErr) (own : Bool) :
    (writeGranule s g bs poison e own).vCtxs = s.vCtxs := by simp [writeGranule, vCtxs_eta]

@[simp] theorem vCtxs_storeBytes (s : State) (bs : List Host.Cell) (poison : Bool) (errs : MemErrs) (own : Bool) :
    (storeBytes s bs poison errs own).vCtxs = s.vCtxs := by simp [storeBytes]

@[simp] theorem vCtxs_storeLines (s : State) (d : HDecl) (base : Nat) (lines : List (Nat × Line)) (poison : Bool) (rec_ :
      W128) (errs : MemErrs) (own : Bool) :
    (storeLines s d base lines poison rec_ errs own).vCtxs = s.vCtxs := by simp [storeLines]

@[simp] theorem vCtxs_storeBlock (s : State) (d : HDecl) (base : Nat) (lines : List (Nat × Line)) (poison : Bool) (rec_ : W128) :
    (storeBlock s d base lines poison rec_).vCtxs = s.vCtxs := by simp [storeBlock]

@[simp] theorem vCtxs_putLine (s : State) (c slot : Nat) (l : GLine) :
    (putLine s c slot l).vCtxs = s.vCtxs := by simp [putLine, vCtxs_eta]

@[simp] theorem vCtxs_writeBackLine (s : State) (key : Nat) (l : GLine) (errs : MemErrs) :
    (writeBackLine s key l errs).vCtxs = s.vCtxs := by
  unfold writeBackLine
  repeat' first
    | (simp [vCtxs_eta]; done)
    | (with_reducible refine (vCtxs_foldl _ ?_ _ _).trans ?_)
    | intro _
    | split
    | dsimp only

@[simp] theorem vCtxs_writeBackContext (s : State) (c : Nat) :
    (writeBackContext s c).vCtxs = s.vCtxs := by
  unfold writeBackContext
  repeat' first
    | (simp; done)
    | (with_reducible refine (vCtxs_foldl _ ?_ _ _).trans ?_)
    | intro _
    | split

@[simp] theorem vCtxs_fillLine (s : State) (c slot a : Nat) (errs : MemErrs) :
    (fillLine s c slot a errs).vCtxs = s.vCtxs := by
  unfold fillLine
  repeat' first
    | (simp [vCtxs_eta]; done)
    | (with_reducible refine (vCtxs_foldl _ ?_ _ _).trans ?_)
    | intro _
    | split
    | dsimp only

@[simp] theorem vCtxs_cacheSlots (s : State) (c : Nat) (slots : List Nat) :
    (cacheSlots s c slots).vCtxs = s.vCtxs := by
  unfold cacheSlots
  repeat' first
    | (simp; done)
    | (with_reducible refine (vCtxs_foldl _ ?_ _ _).trans ?_)
    | intro _
    | split

@[simp] theorem vCtxs_applyTarget (s : State) (p : Nat) :
    (applyTarget s p).vCtxs = s.vCtxs := by simp [applyTarget]

@[simp] theorem vCtxs_closeEpoch (s : State) (c : Nat) :
    (closeEpoch s c).vCtxs = s.vCtxs := by
  unfold closeEpoch
  repeat' first
    | (simp; done)
    | (with_reducible refine (vCtxs_foldl _ ?_ _ _).trans ?_)
    | intro _
    | split
    | dsimp only

@[simp] theorem vCtxs_supplyCopy (s : State) (c slot : Nat) (d : HDecl) (n base : Nat) (rec_ : W128) :
    (supplyCopy s c slot d n base rec_).vCtxs = s.vCtxs := by simp [supplyCopy]

@[simp] theorem vCtxs_supplyLines (s : State) (c : Nat) (k : Packet) (d : HDecl) (n : Nat) :
    (supplyLines s c k d n).vCtxs = s.vCtxs := by
  unfold supplyLines
  repeat' first
    | (simp; done)
    | (with_reducible refine (vCtxs_foldl _ ?_ _ _).trans ?_)

@[simp] theorem ctx_csrPut (s : State) (off : Nat) (v : W64) (j₀ : Nat) :
    ctx (csrPut s off v) j₀ = ctx s j₀ := congrArg (nget ({} : Ctx) · j₀) ((vCtxs_def _).symm.trans ((vCtxs_csrPut ..).trans
      (vCtxs_def _)))

@[simp] theorem ctx_yardCount (s : State) (i n : Nat) (j₀ : Nat) :
    ctx (yardCount s i n) j₀ = ctx s j₀ := congrArg (nget ({} : Ctx) · j₀) ((vCtxs_def _).symm.trans ((vCtxs_yardCount
      ..).trans (vCtxs_def _)))

@[simp] theorem ctx_emitRecord (s : State) (rec_ : List Byte) (irq : Bool) (j₀ : Nat) :
    ctx (emitRecord s rec_ irq) j₀ = ctx s j₀ := congrArg (nget ({} : Ctx) · j₀) ((vCtxs_def _).symm.trans ((vCtxs_emitRecord
      ..).trans (vCtxs_def _)))

@[simp] theorem ctx_writeBackContext (s : State) (c : Nat) (j₀ : Nat) :
    ctx (writeBackContext s c) j₀ = ctx s j₀ := congrArg (nget ({} : Ctx) · j₀) ((vCtxs_def _).symm.trans
      ((vCtxs_writeBackContext ..).trans (vCtxs_def _)))

@[simp] theorem ctx_cacheSlots (s : State) (c : Nat) (slots : List Nat) (j₀ : Nat) :
    ctx (cacheSlots s c slots) j₀ = ctx s j₀ := congrArg (nget ({} : Ctx) · j₀) ((vCtxs_def _).symm.trans ((vCtxs_cacheSlots
      ..).trans (vCtxs_def _)))

@[simp] theorem ctx_applyTarget (s : State) (p : Nat) (j₀ : Nat) :
    ctx (applyTarget s p) j₀ = ctx s j₀ := congrArg (nget ({} : Ctx) · j₀) ((vCtxs_def _).symm.trans ((vCtxs_applyTarget
      ..).trans (vCtxs_def _)))

@[simp] theorem ctx_closeEpoch (s : State) (c : Nat) (j₀ : Nat) :
    ctx (closeEpoch s c) j₀ = ctx s j₀ := congrArg (nget ({} : Ctx) · j₀) ((vCtxs_def _).symm.trans ((vCtxs_closeEpoch
      ..).trans (vCtxs_def _)))

@[simp] theorem ctx_supplyLines (s : State) (c : Nat) (k : Packet) (d : HDecl) (n : Nat) (j₀ : Nat) :
    ctx (supplyLines s c k d n) j₀ = ctx s j₀ := congrArg (nget ({} : Ctx) · j₀) ((vCtxs_def _).symm.trans
      ((vCtxs_supplyLines ..).trans (vCtxs_def _)))

/-! ### The Loft -/

/-- The Loft of a state, as a function of it. -/
def State.vLoft (s : State) : NMap LoftLine := s.loft

@[simp] theorem vLoft_mk (x0 : List Instr) (x1 : Nat) (x2 : Nat) (x3 : List Byte) (x4 : Bool) (x5 : NMap Byte) (x6 : List
      (Nat × Nat)) (x7 : NMap W64) (x8 : W64) (x9 : NMap Pos) (x10 : NMap Stall) (x11 : NMap LoftLine) (x12 : List Msg) (x13
      : NMap Ctx) (x14 : NMap Rec) (x15 : Yardm) (x16 : Hbm) (x17 : Granary) (x18 : NMap Drover) (x19 : List Report) (x20 :
      Rhoa) (x21 : Gateh) (x22 : Daybk) (x23 : Fuses) (x24 : Tack) (x25 : Smithy) (x26 : Rst) (x27 : Supply) (x28 : Ostler)
      (x29 : Disc) (x30 : Tap) (x31 : List (Transport × List Byte)) (x32 : List (List Byte)) :
    (State.mk x0 x1 x2 x3 x4 x5 x6 x7 x8 x9 x10 x11 x12 x13 x14 x15 x16 x17 x18 x19 x20 x21 x22 x23 x24 x25 x26 x27 x28 x29
      x30 x31 x32).vLoft = x11 := (rfl)

theorem vLoft_eta (s : State) : s.loft = s.vLoft := (rfl)

@[simp] theorem vLoft_ite (c : Prop) [Decidable c] (a b : State) : (if c then a else b).vLoft = if c then a.vLoft else
      b.vLoft := by
  split <;> rfl

@[simp] theorem vLoft_csrPut (s : State) (off : Nat) (v : W64) :
    (csrPut s off v).vLoft = s.vLoft := by simp [csrPut, vLoft_eta]

@[simp] theorem vLoft_csrSetField (s : State) (off hi lo v : Nat) :
    (csrSetField s off hi lo v).vLoft = s.vLoft := by simp [csrSetField]

@[simp] theorem vLoft_bumpBy (s : State) (off wrapOff wrapBit n : Nat) :
    (bumpBy s off wrapOff wrapBit n).vLoft = s.vLoft := by simp [bumpBy]

@[simp] theorem vLoft_bump (s : State) (off wrapOff wrapBit : Nat) :
    (bump s off wrapOff wrapBit).vLoft = s.vLoft := by simp [bump]

@[simp] theorem vLoft_recordFirst (s : State) (off v : Nat) :
    (recordFirst s off v).vLoft = s.vLoft := by simp [recordFirst]

@[simp] theorem vLoft_rlCount (s : State) (n i k : Nat) :
    (rlCount s n i k).vLoft = s.vLoft := by simp [rlCount]

@[simp] theorem vLoft_modRec (s : State) (c : Nat) (f : Rec → Rec) :
    (modRec s c f).vLoft = s.vLoft := by simp [modRec, vLoft_eta]

@[simp] theorem vLoft_modPort (s : State) (n : Nat) (f : Port → Port) :
    (modPort s n f).vLoft = s.vLoft := by simp [modPort, vLoft_eta]

@[simp] theorem vLoft_wireFlit (s : State) (n : Nat) (b : List Byte) (seq : BitVec 16) :
    (wireFlit s n b seq).vLoft = s.vLoft := by simp [wireFlit, vLoft_eta]

theorem vLoft_sendOne (s t : State) (n : Nat) (h : sendOne s n = some t) : t.vLoft = s.vLoft := by
  unfold sendOne at h
  dsimp only at h
  split at h
  · cases h
  · split at h
    · cases h
    · cases h
      simp

@[simp] theorem vLoft_pump (k : Nat) (s : State) (n : Nat) : (pump k s n).vLoft = s.vLoft := by
  induction k generalizing s with
  | zero => rfl
  | succ k ih =>
    unfold pump
    split
    · rw [ih]
      exact vLoft_sendOne _ _ _ ‹_›
    · rfl

@[simp] theorem vLoft_pumpPort (s : State) (n : Nat) : (pumpPort s n).vLoft = s.vLoft := by simp [pumpPort]

@[simp] theorem vLoft_sendFlit (s : State) (via : Nat) (b : List Byte) :
    (sendFlit s via b).vLoft = s.vLoft := by
  unfold sendFlit
  repeat' split
  all_goals simp [vLoft_eta]

@[simp] theorem vLoft_dbStore (s : State) (type c : Nat) (payload : List Byte) :
    (dbStore s type c payload).vLoft = s.vLoft := by simp [dbStore, vLoft_eta]

@[simp] theorem vLoft_dbAppend (s : State) (type c : Nat) (payload : List Byte) :
    (dbAppend s type c payload).vLoft = s.vLoft := by simp [dbAppend, vLoft_eta]

@[simp] theorem vLoft_dbFault (s : State) (c code lid team handle : Nat) :
    (dbFault s c code lid team handle).vLoft = s.vLoft := by simp [dbFault]

@[simp] theorem vLoft_raiseIrq (s : State) (fn vec : Nat) :
    (raiseIrq s fn vec).vLoft = s.vLoft := by simp [raiseIrq, vLoft_eta]

@[simp] theorem vLoft_ghRecord (s : State) (r : Nat) (rec_ : List Byte) (irq : Bool) (vf vfVec : Nat) :
    (ghRecord s r rec_ irq vf vfVec).vLoft = s.vLoft := by simp [ghRecord, vLoft_eta]

@[simp] theorem vLoft_ghNote (s : State) (ring : Nat) (rec_ : List Byte) :
    (ghNote s ring rec_).vLoft = s.vLoft := by
  unfold ghNote
  repeat' first
    | (simp [vLoft_eta]; done)
    | (with_reducible refine (vLoft_foldl _ ?_ _ _).trans ?_)
    | intro _
    | split
    | dsimp only

@[simp] theorem vLoft_ghDeliver (s : State) (m : Nat) (rec_ : List Byte) (irq : Bool) :
    (ghDeliver s m rec_ irq).vLoft = s.vLoft := by simp [ghDeliver]

@[simp] theorem vLoft_emitRecord (s : State) (rec_ : List Byte) (irq : Bool) :
    (emitRecord s rec_ irq).vLoft = s.vLoft := by
  unfold emitRecord
  repeat' split
  all_goals simp

@[simp] theorem vLoft_reportOstler (s : State) (source code detail c : Nat) :
    (reportOstler s source code detail c).vLoft = s.vLoft := by simp [reportOstler, vLoft_eta]

@[simp] theorem vLoft_reportFault (s : State) (source code detail c lid team handle : Nat) :
    (reportFault s source code detail c lid team handle).vLoft = s.vLoft := by simp [reportFault]

@[simp] theorem vLoft_trigger (s : State) (c target : Nat) :
    (trigger s c target).vLoft = s.vLoft := by simp [trigger]

@[simp] theorem vLoft_parityFailed (s : State) (p line words : Nat) (background : Bool) :
    (parityFailed s p line words background).vLoft = s.vLoft := by simp [parityFailed]

theorem vLoft_def (s : State) : s.vLoft = s.loft := rfl

@[simp] theorem parityFailed_loft (s : State) (p line words : Nat) (background : Bool) :
    (parityFailed s p line words background).loft = s.loft := (vLoft_def _).symm.trans ((vLoft_parityFailed ..).trans
      (vLoft_def _))

/-! ### The Yardmaster -/

/-- The Yardmaster of a state, as a function of it. -/
def State.vYm (s : State) : Yardm := s.ym

@[simp] theorem vYm_mk (x0 : List Instr) (x1 : Nat) (x2 : Nat) (x3 : List Byte) (x4 : Bool) (x5 : NMap Byte) (x6 : List (Nat
      × Nat)) (x7 : NMap W64) (x8 : W64) (x9 : NMap Pos) (x10 : NMap Stall) (x11 : NMap LoftLine) (x12 : List Msg) (x13 :
      NMap Ctx) (x14 : NMap Rec) (x15 : Yardm) (x16 : Hbm) (x17 : Granary) (x18 : NMap Drover) (x19 : List Report) (x20 :
      Rhoa) (x21 : Gateh) (x22 : Daybk) (x23 : Fuses) (x24 : Tack) (x25 : Smithy) (x26 : Rst) (x27 : Supply) (x28 : Ostler)
      (x29 : Disc) (x30 : Tap) (x31 : List (Transport × List Byte)) (x32 : List (List Byte)) :
    (State.mk x0 x1 x2 x3 x4 x5 x6 x7 x8 x9 x10 x11 x12 x13 x14 x15 x16 x17 x18 x19 x20 x21 x22 x23 x24 x25 x26 x27 x28 x29
      x30 x31 x32).vYm = x15 := (rfl)

theorem vYm_eta (s : State) : s.ym = s.vYm := (rfl)

@[simp] theorem vYm_ite (c : Prop) [Decidable c] (a b : State) : (if c then a else b).vYm = if c then a.vYm else b.vYm := by
  split <;> rfl

@[simp] theorem vYm_foldl {β : Type} (g : State → β → State) (h : ∀ s b, (g s b).vYm = s.vYm) (l : List β) (s : State) :
    (l.foldl g s).vYm = s.vYm := by
  induction l generalizing s with
  | nil => rfl
  | cons b l ih => exact (ih (g s b)).trans (h s b)

@[simp] theorem vYm_csrPut (s : State) (off : Nat) (v : W64) :
    (csrPut s off v).vYm = s.vYm := by simp [csrPut, vYm_eta]

@[simp] theorem vYm_csrSetField (s : State) (off hi lo v : Nat) :
    (csrSetField s off hi lo v).vYm = s.vYm := by simp [csrSetField]

@[simp] theorem vYm_bumpBy (s : State) (off wrapOff wrapBit n : Nat) :
    (bumpBy s off wrapOff wrapBit n).vYm = s.vYm := by simp [bumpBy]

@[simp] theorem vYm_bump (s : State) (off wrapOff wrapBit : Nat) :
    (bump s off wrapOff wrapBit).vYm = s.vYm := by simp [bump]

@[simp] theorem vYm_yardCount (s : State) (i n : Nat) :
    (yardCount s i n).vYm = s.vYm := by simp [yardCount]

@[simp] theorem vYm_setStall (s : State) (p : Nat) (x : Stall) :
    (setStall s p x).vYm = s.vYm := by simp [setStall, vYm_eta]

@[simp] theorem vYm_modStall (s : State) (p : Nat) (f : Stall → Stall) :
    (modStall s p f).vYm = s.vYm := by simp [modStall]

@[simp] theorem vYm_setCtx (s : State) (c : Nat) (x : Ctx) :
    (setCtx s c x).vYm = s.vYm := by simp [setCtx, vYm_eta]

@[simp] theorem vYm_modCtx (s : State) (c : Nat) (f : Ctx → Ctx) :
    (modCtx s c f).vYm = s.vYm := by simp [modCtx]

@[simp] theorem vYm_modRec (s : State) (c : Nat) (f : Rec → Rec) :
    (modRec s c f).vYm = s.vYm := by simp [modRec, vYm_eta]

@[simp] theorem vYm_dbStore (s : State) (type c : Nat) (payload : List Byte) :
    (dbStore s type c payload).vYm = s.vYm := by simp [dbStore, vYm_eta]

@[simp] theorem vYm_dbAppend (s : State) (type c : Nat) (payload : List Byte) :
    (dbAppend s type c payload).vYm = s.vYm := by simp [dbAppend, vYm_eta]

@[simp] theorem vYm_dbEpoch (s : State) (c epoch event target : Nat) :
    (dbEpoch s c epoch event target).vYm = s.vYm := by simp [dbEpoch]

@[simp] theorem vYm_applyTarget (s : State) (p : Nat) :
    (applyTarget s p).vYm = s.vYm := by simp [applyTarget]

@[simp] theorem vYm_deliverRecords (s : State) (c : Nat) :
    (deliverRecords s c).vYm = s.vYm := by simp [deliverRecords]

@[simp] theorem vYm_closeEpoch (s : State) (c : Nat) :
    (closeEpoch s c).vYm = s.vYm := by
  unfold closeEpoch
  repeat' first
    | (simp; done)
    | (with_reducible refine (vYm_foldl _ ?_ _ _).trans ?_)
    | intro _
    | split
    | dsimp only

theorem vYm_def (s : State) : s.vYm = s.ym := rfl

@[simp] theorem yardCount_ym (s : State) (i n : Nat) :
    (yardCount s i n).ym = s.ym := (vYm_def _).symm.trans ((vYm_yardCount ..).trans (vYm_def _))

@[simp] theorem applyTarget_ym (s : State) (p : Nat) :
    (applyTarget s p).ym = s.ym := (vYm_def _).symm.trans ((vYm_applyTarget ..).trans (vYm_def _))

@[simp] theorem deliverRecords_ym (s : State) (c : Nat) :
    (deliverRecords s c).ym = s.ym := (vYm_def _).symm.trans ((vYm_deliverRecords ..).trans (vYm_def _))

@[simp] theorem closeEpoch_ym (s : State) (c : Nat) :
    (closeEpoch s c).ym = s.ym := (vYm_def _).symm.trans ((vYm_closeEpoch ..).trans (vYm_def _))

/-! ### The positions -/

@[simp] theorem vPositions_foldl {β : Type} (g : State → β → State) (h : ∀ s b, (g s b).vPositions = s.vPositions) (l : List
      β) (s : State) :
    (l.foldl g s).vPositions = s.vPositions := by
  induction l generalizing s with
  | nil => rfl
  | cons b l ih => exact (ih (g s b)).trans (h s b)

@[simp] theorem vPositions_yardCount (s : State) (i n : Nat) :
    (yardCount s i n).vPositions = s.vPositions := by simp [yardCount]

@[simp] theorem vPositions_rlCount (s : State) (n i k : Nat) :
    (rlCount s n i k).vPositions = s.vPositions := by simp [rlCount]

@[simp] theorem vPositions_setCtx (s : State) (c : Nat) (x : Ctx) :
    (setCtx s c x).vPositions = s.vPositions := by simp [setCtx, vPositions_eta]

@[simp] theorem vPositions_modCtx (s : State) (c : Nat) (f : Ctx → Ctx) :
    (modCtx s c f).vPositions = s.vPositions := by simp [modCtx]

@[simp] theorem vPositions_modRec (s : State) (c : Nat) (f : Rec → Rec) :
    (modRec s c f).vPositions = s.vPositions := by simp [modRec, vPositions_eta]

@[simp] theorem vPositions_loftInvalidate (s : State) (f : Nat → Nat → LoftLine → Bool) :
    (loftInvalidate s f).vPositions = s.vPositions := by simp [loftInvalidate, vPositions_eta]

@[simp] theorem vPositions_modPort (s : State) (n : Nat) (f : Port → Port) :
    (modPort s n f).vPositions = s.vPositions := by simp [modPort, vPositions_eta]

@[simp] theorem vPositions_wireFlit (s : State) (n : Nat) (b : List Byte) (seq : BitVec 16) :
    (wireFlit s n b seq).vPositions = s.vPositions := by simp [wireFlit, vPositions_eta]

theorem vPositions_sendOne (s t : State) (n : Nat) (h : sendOne s n = some t) : t.vPositions = s.vPositions := by
  unfold sendOne at h
  dsimp only at h
  split at h
  · cases h
  · split at h
    · cases h
    · cases h
      simp

@[simp] theorem vPositions_pump (k : Nat) (s : State) (n : Nat) : (pump k s n).vPositions = s.vPositions := by
  induction k generalizing s with
  | zero => rfl
  | succ k ih =>
    unfold pump
    split
    · rw [ih]
      exact vPositions_sendOne _ _ _ ‹_›
    · rfl

@[simp] theorem vPositions_pumpPort (s : State) (n : Nat) : (pumpPort s n).vPositions = s.vPositions := by simp [pumpPort,
      vPositions_eta]

@[simp] theorem vPositions_sendFlit (s : State) (via : Nat) (b : List Byte) :
    (sendFlit s via b).vPositions = s.vPositions := by
  unfold sendFlit
  repeat' split
  all_goals simp [vPositions_eta]

@[simp] theorem vPositions_dbStore (s : State) (type c : Nat) (payload : List Byte) :
    (dbStore s type c payload).vPositions = s.vPositions := by simp [dbStore, vPositions_eta]

@[simp] theorem vPositions_dbAppend (s : State) (type c : Nat) (payload : List Byte) :
    (dbAppend s type c payload).vPositions = s.vPositions := by simp [dbAppend, vPositions_eta]

@[simp] theorem vPositions_dbEpoch (s : State) (c epoch event target : Nat) :
    (dbEpoch s c epoch event target).vPositions = s.vPositions := by simp [dbEpoch]

@[simp] theorem vPositions_dbFault (s : State) (c code lid team handle : Nat) :
    (dbFault s c code lid team handle).vPositions = s.vPositions := by simp [dbFault]

@[simp] theorem vPositions_raiseIrq (s : State) (fn vec : Nat) :
    (raiseIrq s fn vec).vPositions = s.vPositions := by simp [raiseIrq, vPositions_eta]

@[simp] theorem vPositions_ghRecord (s : State) (r : Nat) (rec_ : List Byte) (irq : Bool) (vf vfVec : Nat) :
    (ghRecord s r rec_ irq vf vfVec).vPositions = s.vPositions := by simp [ghRecord, vPositions_eta]

@[simp] theorem vPositions_ghNote (s : State) (ring : Nat) (rec_ : List Byte) :
    (ghNote s ring rec_).vPositions = s.vPositions := by
  unfold ghNote
  repeat' first
    | (simp [vPositions_eta]; done)
    | (with_reducible refine (vPositions_foldl _ ?_ _ _).trans ?_)
    | intro _
    | split
    | dsimp only

@[simp] theorem vPositions_ghDeliver (s : State) (m : Nat) (rec_ : List Byte) (irq : Bool) :
    (ghDeliver s m rec_ irq).vPositions = s.vPositions := by simp [ghDeliver]

@[simp] theorem vPositions_emitRecord (s : State) (rec_ : List Byte) (irq : Bool) :
    (emitRecord s rec_ irq).vPositions = s.vPositions := by
  unfold emitRecord
  repeat' split
  all_goals simp

@[simp] theorem vPositions_reportOstler (s : State) (source code detail c : Nat) :
    (reportOstler s source code detail c).vPositions = s.vPositions := by simp [reportOstler, vPositions_eta]

@[simp] theorem vPositions_reportFault (s : State) (source code detail c lid team handle : Nat) :
    (reportFault s source code detail c lid team handle).vPositions = s.vPositions := by simp [reportFault]

@[simp] theorem vPositions_stallOff (s : State) (p : Nat) :
    (stallOff s p).vPositions = s.vPositions := by simp [stallOff]

@[simp] theorem vPositions_applyTarget (s : State) (p : Nat) :
    (applyTarget s p).vPositions = s.vPositions := by simp [applyTarget]

@[simp] theorem vPositions_deliverRecords (s : State) (c : Nat) :
    (deliverRecords s c).vPositions = s.vPositions := by simp [deliverRecords]

@[simp] theorem vPositions_closeEpoch (s : State) (c : Nat) :
    (closeEpoch s c).vPositions = s.vPositions := by
  unfold closeEpoch
  repeat' first
    | (simp; done)
    | (with_reducible refine (vPositions_foldl _ ?_ _ _).trans ?_)
    | intro _
    | split
    | dsimp only

@[simp] theorem vPositions_setAge (s : State) (p mv : Nat) :
    (setAge s p mv).vPositions = s.vPositions := by simp [setAge]

@[simp] theorem yardCount_positions (s : State) (i n : Nat) :
    (yardCount s i n).positions = s.positions := (vPositions_def _).symm.trans ((vPositions_yardCount ..).trans
      (vPositions_def _))

@[simp] theorem position_reportFault (s : State) (source code detail c lid team handle : Nat) (j₀ : Nat) :
    position (reportFault s source code detail c lid team handle) j₀ = position s j₀ := congrArg (nget ({} : Pos) · j₀)
      ((vPositions_def _).symm.trans ((vPositions_reportFault ..).trans (vPositions_def _)))

@[simp] theorem position_stallOff (s : State) (p : Nat) (j₀ : Nat) :
    position (stallOff s p) j₀ = position s j₀ := congrArg (nget ({} : Pos) · j₀) ((vPositions_def _).symm.trans
      ((vPositions_stallOff ..).trans (vPositions_def _)))

@[simp] theorem applyTarget_positions (s : State) (p : Nat) :
    (applyTarget s p).positions = s.positions := (vPositions_def _).symm.trans ((vPositions_applyTarget ..).trans
      (vPositions_def _))

@[simp] theorem deliverRecords_positions (s : State) (c : Nat) :
    (deliverRecords s c).positions = s.positions := (vPositions_def _).symm.trans ((vPositions_deliverRecords ..).trans
      (vPositions_def _))

@[simp] theorem closeEpoch_positions (s : State) (c : Nat) :
    (closeEpoch s c).positions = s.positions := (vPositions_def _).symm.trans ((vPositions_closeEpoch ..).trans
      (vPositions_def _))

@[simp] theorem position_setAge (s : State) (p mv : Nat) (j₀ : Nat) :
    position (setAge s p mv) j₀ = position s j₀ := congrArg (nget ({} : Pos) · j₀) ((vPositions_def _).symm.trans
      ((vPositions_setAge ..).trans (vPositions_def _)))

end Sys2Proof.Machine
end

section
/-!
PROOFS. Stalls that gate and age (O31), the packets of a ring (O41), barriers (O27).
-/

namespace Sys2Proof.Machine

/-! ### Stalls that gate, nap and wake (R95, R96) -/

theorem stall_only (s : State) (p : Position) (f : Stall → Stall) :
    stall (modStall s p f) p = f (stall s p) ∧ ∀ q, q ≠ p → stall (modStall s p f) q = stall s q :=
  ⟨stall_modStall_same .., fun _ h => stall_modStall_other _ h ..⟩

theorem modStall_only_stalls (s : State) (p : Position) (f : Stall → Stall) :
    modStall s p f = { s with stalls := (modStall s p f).stalls } := rfl

/-! #### A target of the supply that is applied -/

theorem applyTarget_only_csr (s : State) (p : Position) : applyTarget s p = { s with csr := (applyTarget s p).csr } := by
  unfold applyTarget
  split
  · rfl
  · exact csrSetField_only_csr ..

theorem csrField_applyTarget {s : State} {p : Position} (some_ : 0 < (stall s p).target) (fits : (stall s p).target < 1024)
    (on : (stall s p).pwr ≠ .off) : csrField (applyTarget s p) (stallCsr p 0x300) 9 0 = (stall s p).target := by
  rw [applyTarget, if_neg (by simp [on, Nat.ne_of_gt some_]), csrField_set_same _ _ _ (by decide) (by decide)]
  exact Nat.mod_eq_of_lt fits

theorem gate_completes {s : State} {p : Position} (on : powered s p = true) (running : (stall s p).pwr = .run)
    (none_ : liveEntries (stall s p) = []) (quiet : teamReady s p = false) : Completes (.stallGate p) s fun u =>
      (stall u p = { stall s p with pwr := .gated } ∧ ∀ q, q ≠ p → stall u q = stall s q) ∧ u = { s with stalls := u.stalls, csr := u.csr } ∧
      (0 < (stall s p).target → (stall s p).target < 1024 → csrField u (stallCsr p 0x300) 9 0 = (stall s p).target) := by
  have run : exec (.stallGate p) s = .next (applyTarget (modStall s p fun x => { x with pwr := .gated }) p) :=
    congrArg Host.Outcome.next (if_neg (by simp [on, running, none_, quiet]))
  obtain ⟨same, other⟩ := stall_only s p fun x => { x with pwr := .gated }
  refine completes_of run ⟨⟨(stall_applyTarget ..).trans same, fun q h => (stall_applyTarget ..).trans (other q h)⟩, ?_, fun some_ fits => ?_⟩
  · rw [applyTarget_only_csr]
    rfl
  · have target : (stall (modStall s p fun x => { x with pwr := .gated }) p).target = (stall s p).target := by rw [same]
    rw [csrField_applyTarget (by rw [target]; exact some_) (by rw [target]; exact fits) (by rw [same]; nofun), target]

theorem nap_run {s : State} {p : Position} (on : powered s p = true) (awake : (stall s p).pwr = .run ∨ (stall s p).pwr = .gated)
    (at_ : atBoundary s p = true) (far : ∀ f ∈ fenceTargets s p, s.ledger.toNat + 20000 < f) :
    exec (.stallNap p) s = .next (modStall s p fun x => { x with pwr := .nap }) := by
  refine congrArg Host.Outcome.next (if_neg ?_)
  have distant : (fenceTargets s p).any (fun f => decide (f ≤ now s + 20000)) = false :=
    List.any_eq_false.mpr fun f hf => decide_eq_false (Nat.not_le.mpr (far f hf)) ▸ Bool.false_ne_true
  obtain h | h := awake <;> simp [on, h, at_, distant]

theorem wake_gated {s : State} {p : Position} (gated : (stall s p).pwr = .gated) (ready : teamReady s p = true) :
    exec (.stallWake p) s = .next (modStall s p fun x => { x with pwr := .run }) := by
  refine congrArg Host.Outcome.next ?_
  dsimp only
  rw [gated]
  exact if_pos ready

theorem wake_nap {s : State} {p : Position} (nap : (stall s p).pwr = .nap) (arrival : ∃ m ∈ s.yard, m.dst = .stall p) :
    exec (.stallWake p) s = .next (modStall s p fun x => { x with pwr := .run }) := by
  refine congrArg Host.Outcome.next ?_
  have comes : (s.yard.any fun m => m.dst = .stall p) = true := by simpa using arrival
  dsimp only
  rw [nap]
  exact if_pos (by rw [comes, Bool.or_true])

/-! ### Ageing measurements (R98, R465) -/

/-- What STALL_AGE holds after a measurement that asks for req under the bit of a stall that needs too much. -/
theorem ageWord_fields (t : Nat) (much : Bool) {req : Nat} (h : req < 1024) :
    let v := (BitVec.ofNat 64 (t % 2 ^ 48 * 2 ^ 16 + (if much then 2 ^ 15 else 0) + req)).toNat
    bitsOf v 9 0 = req ∧ bitsOf v 15 15 = much.toNat ∧ bitsOf v 63 16 = t % 2 ^ 48 := by
  cases much <;> simp [bitsOf] <;> omega

theorem csrGet_setAge (s : State) (p mv : Nat) : csrGet (setAge s p mv) (stallCsr p 0x400) =
    BitVec.ofNat 64 (now s % 2 ^ 48 * 2 ^ 16 + (if decide (vmaxOf s p < min (mv + 15) 1023) then 2 ^ 15 else 0) + min (mv + 15) 1023) := by
  unfold setAge
  dsimp only
  rw [csrGet_congr (modStall_csr ..), csrGet_csrPut_same]

theorem modStall_csrPut_only (s : State) (off : Nat) (v : W64) (p : Position) (f : Stall → Stall) : modStall (csrPut s off v) p f =
    { s with csr := (modStall (csrPut s off v) p f).csr, stalls := (modStall (csrPut s off v) p f).stalls } := rfl

theorem setAge_only (s : State) (p mv : Nat) : setAge s p mv = { s with csr := (setAge s p mv).csr, stalls := (setAge s p mv).stalls } := by
  unfold setAge
  exact modStall_csrPut_only ..

theorem target_setAge (s : State) (p mv : Nat) : (stall (setAge s p mv) p).target =
    min (vmaxOf s p) (max (min (mv + 15) 1023) ((stall s p).target - 5)) := by
  unfold setAge
  dsimp only
  rw [stall_modStall_same, stall_csrPut]

theorem csrFields_setAge (s : State) (p mv : Nat) : csrField (setAge s p mv) (stallCsr p 0x400) 9 0 = min (mv + 15) 1023 ∧
    csrBit (setAge s p mv) (stallCsr p 0x400) 15 = decide (vmaxOf s p < min (mv + 15) 1023) ∧
    csrField (setAge s p mv) (stallCsr p 0x400) 63 16 = s.ledger.toNat % 2 ^ 48 := by
  obtain ⟨need, much, time⟩ := ageWord_fields (now s) (decide (vmaxOf s p < min (mv + 15) 1023)) (req := min (mv + 15) 1023) (by omega)
  refine ⟨?_, ?_, ?_⟩
  · rw [csrField, csrGet_setAge, need]
  · rw [csrBit, csrField, csrGet_setAge, much]
    cases decide (vmaxOf s p < min (mv + 15) 1023) <;> rfl
  · rw [csrField, csrGet_setAge, time]
    rfl

theorem ageingMeasurement_run {s : State} {p : Position} (mv : Nat) (on : powered s p = true) (first : csrGet s (stallCsr p 0x400) = 0) :
    exec (.ageingMeasurement p mv) s = .next (ageMeasure s p mv) :=
  congrArg Host.Outcome.next (if_neg (by simp [on, first]))

theorem ageMeasure_enough {s : State} {p mv : Nat} (enough : min (mv + 15) 1023 ≤ vmaxOf s p) : ageMeasure s p mv = setAge s p mv := by
  rw [ageMeasure, (csrFields_setAge s p mv).2.1, decide_eq_false (Nat.not_lt.mpr enough)]
  rfl

/-- A stall that needs more than its fused maximum, as it is reported. -/
def agedReported (s : State) (p mv : Nat) : State := reportFault (setAge s p mv) 1025 0x0A03 p 0xFF (lidOf s p) 0 0xFFF

theorem position_agedReported (s : State) (p mv q : Nat) : position (agedReported s p mv) q = position s q := by
  rw [agedReported, position_reportFault, position_setAge]

theorem ageMeasure_over {s : State} {p mv : Nat} (first : csrGet s (stallCsr p 0x400) = 0) (much : vmaxOf s p < min (mv + 15) 1023) :
    ageMeasure s p mv = if (position s p).st = .spare then retire (agedReported s p mv) p 0 else awaitRetire (agedReported s p mv) p 0 := by
  have unmarked : csrBit s (stallCsr p 0x400) 15 = false := by rw [csrBit, csrField, first]; rfl
  rw [ageMeasure, (csrFields_setAge s p mv).2.1, decide_eq_true much, unmarked]
  rfl

theorem position_retire_spare {s : State} {p : Nat} (cause : BitVec 2) (free : (position s p).lid = 0x3FF) :
    (position (retire s p cause) p).st = .retired ∧ (position (retire s p cause) p).lid = 0x3FF := by
  have none_ : lidOf s p = 0x3FF := free
  rw [retire, if_pos none_, position_stallOff]
  exact ⟨congrArg Pos.st (position_modPos_same ..), congrArg Pos.lid (position_modPos_same ..)⟩

theorem ageing_completes {s : State} {p : Position} (mv : Nat) (on : powered s p = true) (first : csrGet s (stallCsr p 0x400) = 0) :
    let req := min (mv + 15) 1023
    (req ≤ vmaxOf s p → Completes (.ageingMeasurement p mv) s fun u =>
      csrField u (stallCsr p 0x400) 9 0 = req ∧ csrBit u (stallCsr p 0x400) 15 = false ∧
      csrField u (stallCsr p 0x400) 63 16 = s.ledger.toNat % 2 ^ 48 ∧
      (stall u p).target = min (vmaxOf s p) (max req ((stall s p).target - 5)) ∧ u = { s with csr := u.csr, stalls := u.stalls }) ∧
    (vmaxOf s p < req → (position s p).st = .enabled → Completes (.ageingMeasurement p mv) s fun u =>
      (position u p).st = .enabled ∧ (position u p).await = some ((position s p).await.getD 0) ∧
      ∀ q, q ≠ p → position u q = position s q) ∧
    (vmaxOf s p < req → (position s p).st = .spare → (position s p).lid = 0x3FF → Completes (.ageingMeasurement p mv) s fun u =>
      (position u p).st = .retired ∧ (position u p).lid = 0x3FF) := by
  have run := ageingMeasurement_run mv on first
  obtain ⟨need, over_, time⟩ := csrFields_setAge s p mv
  refine ⟨fun enough => ?_, fun much enabled => ?_, fun much spare free => ?_⟩
  · rw [ageMeasure_enough enough] at run
    refine completes_of run ⟨need, by rw [over_, decide_eq_false (Nat.not_lt.mpr enough)], time, target_setAge .., setAge_only ..⟩
  · rw [ageMeasure_over first much, if_neg (by rw [enabled]; nofun)] at run
    refine completes_of run ⟨?_, ?_, fun q h => ?_⟩
    · rw [awaitRetire, position_modPos_same, position_agedReported, enabled]
    · rw [awaitRetire, position_modPos_same, position_agedReported]
    · rw [awaitRetire, position_modPos_other _ h, position_agedReported]
  · rw [ageMeasure_over first much, if_pos spare] at run
    exact completes_of run (position_retire_spare 0 (by rw [position_agedReported, free]))

/-! ### The background check of the Loft's parity (R205, R232, R233) -/

/-- The stall once its background check has read a line. -/
def swept (s : State) (p : Position) : State :=
  modStall s p fun x => { x with sweep := if (stall s p).sweep + 1 < 10912 then (stall s p).sweep + 1 else 0 }

theorem paritySweep_sound {s : State} {p : Position} (on : powered s p = true) (awake_ : awake s p = true)
    (sound : (loftLine s p (stall s p).sweep).valid = false ∨
      parityFailures (loftLine s p (stall s p).sweep).words (loftLine s p (stall s p).sweep).par = 0) :
    exec (.paritySweep p) s = .next (swept s p) := by
  refine congrArg Host.Outcome.next ((if_neg (by simp [on, awake_])).trans ?_)
  dsimp only
  obtain invalid | none_ := sound
  · rw [invalid]
    rfl
  · rw [none_]
    exact ite_self _

theorem paritySweep_failed {s : State} {p : Position} (on : powered s p = true) (awake_ : awake s p = true)
    (valid : (loftLine s p (stall s p).sweep).valid = true)
    (failed : parityFailures (loftLine s p (stall s p).sweep).words (loftLine s p (stall s p).sweep).par ≠ 0) :
    exec (.paritySweep p) s = .next (parityFailed (swept s p) p (stall s p).sweep
      (parityFailures (loftLine s p (stall s p).sweep).words (loftLine s p (stall s p).sweep).par) true) := by
  refine congrArg Host.Outcome.next ((if_neg (by simp [on, awake_])).trans ?_)
  dsimp only
  rw [valid]
  obtain ⟨k, hk⟩ := Nat.exists_eq_succ_of_ne_zero failed
  rw [hk]
  rfl

theorem recOf_trigger {s : State} {c : Nat} (h : c < 64) (target : Nat) :
    recOf (trigger s c target) c = { recOf s c with triggers := (recOf s c).triggers ++ [target] } := by
  rw [trigger, if_pos h, recOf_modRec_same]

theorem parityFailed_effect (s : State) (p line words : Nat) (background : Bool) :
    (recOf (parityFailed s p line words background) (loftLine s p line).tag.toNat).triggers =
        (recOf s (loftLine s p line).tag.toNat).triggers ++ [0] ∧
      (p, line) ∈ (recOf (parityFailed s p line words background) (loftLine s p line).tag.toNat).failing ∧
      ∃ r ∈ (parityFailed s p line words background).reports, r.source = p ∧ r.code = 0x0301 := by
  have tagged : (loftLine s p line).tag.toNat < 64 := (loftLine s p line).tag.isLt
  unfold parityFailed
  dsimp only
  refine ⟨?_, ?_, ?_⟩
  · rw [recOf_trigger tagged, recOf_modRec_same, recOf_reportFault, recOf_bump, recOf_recordFirst]
  · rw [recOf_trigger tagged, recOf_modRec_same]
    exact List.mem_cons_self
  · rw [trigger_reports, modRec_reports, reports_reportFault]
    exact ⟨_, List.mem_append_right _ List.mem_cons_self, rfl, rfl⟩

/-- Settles O31: each command's run, and what it leaves of the stall, the position or the context. -/
theorem stallsGateNapAndAge : Obligations.StallsGateNapAndAge := by
  refine ⟨fun s p => ⟨gate_completes, fun on awake_ at_ far => ?_, fun gated ready => ?_, fun nap arrival => ?_⟩,
    fun s p mv on first => ageing_completes mv on first, fun s p on awake_ => ⟨fun sound => ?_, fun valid failed => ?_⟩⟩
  · exact completes_of (nap_run on awake_ at_ far) ⟨stall_only .., modStall_only_stalls ..⟩
  · exact completes_of (wake_gated gated ready) ⟨stall_only .., modStall_only_stalls ..⟩
  · exact completes_of (wake_nap nap arrival) ⟨stall_only .., modStall_only_stalls ..⟩
  · obtain ⟨same, other⟩ := stall_only s p fun x => { x with sweep := if (stall s p).sweep + 1 < 10912 then (stall s p).sweep + 1 else 0 }
    exact completes_of (paritySweep_sound on awake_ sound) ⟨same, other, modStall_only_stalls ..⟩
  · obtain ⟨triggers, failing, reported⟩ := parityFailed_effect (swept s p) p (stall s p).sweep
      (parityFailures (loftLine s p (stall s p).sweep).words (loftLine s p (stall s p).sweep).par) true
    refine completes_of (paritySweep_failed on awake_ valid failed) ⟨?_, ?_, triggers, failing, reported⟩
    · rw [stall_parityFailed, swept, stall_modStall_same]
    · rw [parityFailed_loft]
      rfl

/-! ### Completions of a ring (R368, R373) -/

theorem record_status (s : State) (seq kind code tag detail c : Nat) {status : Nat} (h : status < 256) :
    fieldAt (record s seq kind status code tag detail c) 5 1 = status := by
  simp [record, fieldAt, leBytes, leNat]
  omega

theorem record_code (s : State) (seq kind status tag detail c : Nat) {code : Nat} (h : code < 65536) :
    fieldAt (record s seq kind status code tag detail c) 6 2 = code := by
  simp [record, fieldAt, leBytes, leNat]
  omega

theorem record_detail (s : State) (seq kind status code tag c : Nat) {detail : Nat} (h : detail < 2 ^ 32) :
    fieldAt (record s seq kind status code tag detail c) 0x18 4 = detail := by
  simp [record, fieldAt, leBytes, leNat]
  omega

/-- The context of a ring that has the completion of a packet. -/
def completedCtx (x : Ctx) (k : Packet) (r : List Byte) : Ctx :=
  { x with
    done := ((k.seq, r) :: x.done).take 64
    taken := x.taken.filter (·.seq ≠ k.seq)
    nextDone := k.seq + 1
    cur := match x.cur with
      | some e => if e.packet.seq = k.seq then none else some e
      | none => none }

theorem ctx_completeCmd (s : State) (c : Nat) (k : Packet) (status code detail : Nat) : ctx (completeCmd s c k status code detail) c =
    completedCtx (ctx s c) k (record (writeBackContext s c) k.seq.toNat 1 status code (pkTag k) detail c) := by
  unfold completeCmd sendCompletion
  dsimp only
  rw [ctx_modCtx_same, ctx_emitRecord, ctx_modCtx_same, ctx_writeBackContext]
  rfl

/-- A completion ends the command that the ring executes, if it executes one. -/
theorem finished_completeCmd {s : State} {c : Nat} {k : Packet} (idle : ∀ e, (ctx s c).cur = some e → e.packet.seq = k.seq)
    {status code detail : Nat} (hs : status < 256) (hc : code < 65536) (hd : detail < 2 ^ 32) :
    Finished (completeCmd s c k status code detail) c k status code detail := by
  rw [Finished, ctx_completeCmd]
  refine ⟨?_, rfl, fun x hx => by simpa using (List.mem_filter.mp hx).2, _, rfl, record_status _ _ _ _ _ _ _ hs,
    record_code _ _ _ _ _ _ _ hc, record_detail _ _ _ _ _ _ _ hd⟩
  rw [completedCtx]
  dsimp only
  split
  · next e he => exact if_pos (idle e he)
  · rfl

theorem finished_reject {s : State} {c : Nat} (k : Packet) (idle : (ctx s c).cur = none) {reason : Nat} (h : reason < 65536) :
    Finished (reject s c k reason) c k 2 reason 0 :=
  finished_completeCmd (fun _ he => by simp [idle] at he) (by decide) h (by decide)

theorem handles_completeCmd (s : State) (c : Nat) (k : Packet) (status code detail : Nat) :
    (ctx (completeCmd s c k status code detail) c).handles = (ctx s c).handles := by
  rw [ctx_completeCmd, completedCtx]

theorem AtHead.idle {s : State} {c : Nat} {k : Packet} (h : AtHead s c k) : (ctx s c).cur = none := h.2.1

theorem AtHead.ok {s : State} {c : Nat} {k : Packet} (h : AtHead s c k) : packetOk k = true := h.2.2.1

/-- Of an idle ring the packet at the head is rejected. -/
theorem finished_rejected {i : Instr} {s : State} {c reason : Nat} {k : Packet} (h : AtHead s c k) (run : exec i s = .next (reject s c k reason))
    (small : reason < 65536) : Completes i s fun u => Finished u c k 2 reason 0 :=
  completes_of run (finished_reject k h.idle small)

/-! ### NOP and LOAD (R371, R387) -/

theorem nop_completes {s : State} {c : CtxIx} {k : Packet} (head : AtHead s c k) (op : pkOp k = 9) :
    Completes (.nop c) s fun u => Finished u c k 0 0 0 := by
  have run : exec (.nop c) s = .next (completeCmd s c k 0 0 0) := congrArg Host.Outcome.next (command_of_atHead _ head op)
  exact completes_of run (finished_completeCmd (fun _ he => by simp [head.idle] at he) (by decide) (by decide) (by decide))

/-- What a LOAD does with the packet at the head. -/
def loadRow (c : CtxIx) (s : State) (k : Packet) : State :=
  if (ctx s c).st ≠ .free then reject s c k 2
  else if fieldAt k.data 0x18 8 < 64 || 150994944 < fieldAt k.data 0x18 8 then reject s c k 1
  else if fieldAt k.data 0x10 4 = 0 ||
      s.ctxs.any fun e => e.1 ≠ c.val && e.2.st = .resident && e.2.job.toNat = fieldAt k.data 0x10 4 then reject s c k 3
  else if pkMark k = 9 then reject s c k 9
  else
    match stagingRoom s (stagingBytes (fieldAt k.data 0x18 8)) with
    | none => reject s c k 4
    | some a =>
      if 8192 ≤ placesUsed s then reject s c k 4 else
      completeCmd (modCtx (csrPut s (0x4000 + 8 * c.val) 0) c fun x => { x with
        st := .staged, job := BitVec.ofNat 32 (fieldAt k.data 0x10 4), prio := BitVec.ofNat 2 (fieldAt k.data 0x14 1)
        vf := BitVec.ofNat 6 (fieldAt k.data 0x15 1), imgBytes := fieldAt k.data 0x18 8, staging := some a }) c k 0 0 0

theorem load_run {s : State} {c : CtxIx} {k : Packet} (head : AtHead s c k) (op : pkOp k = 1) :
    exec (.load c) s = .next (loadRow c s k) :=
  congrArg Host.Outcome.next (command_of_atHead _ head op)

/-- A LOAD's priority is one of four. -/
theorem load_prio {k : Packet} (ok : packetOk k = true) (op : pkOp k = 1) : fieldAt k.data 0x14 1 < 4 := by
  unfold packetOk at ok
  simp only [op, lenOf, bodyOk, Bool.and_eq_true, decide_eq_true_eq] at ok
  omega

/-- The JOB of a LOAD is none, or another resident context has it. -/
def jobInUse (s : State) (c : CtxIx) (job : Nat) : Prop := job = 0 ∨ ∃ e ∈ s.ctxs, e.1 ≠ c.val ∧ e.2.st = .resident ∧ e.2.job.toNat = job

theorem jobInUse_iff (s : State) (c : CtxIx) (job : Nat) :
    (decide (job = 0) || s.ctxs.any fun e => e.1 ≠ c.val && e.2.st = .resident && e.2.job.toNat = job) = true ↔ jobInUse s c job := by
  simp [jobInUse, and_assoc]

theorem load_completes {s : State} {c : CtxIx} {k : Packet} (head : AtHead s c k) (op : pkOp k = 1) :
    let job := fieldAt k.data 0x10 4
    let n := fieldAt k.data 0x18 8
    ((ctx s c).st ≠ .free → Completes (.load c) s fun u => Finished u c k 2 2 0) ∧
    ((ctx s c).st = .free → n < 64 ∨ 150994944 < n → Completes (.load c) s fun u => Finished u c k 2 1 0) ∧
    ((ctx s c).st = .free → 64 ≤ n → n ≤ 150994944 →
      (jobInUse s c job → Completes (.load c) s fun u => Finished u c k 2 3 0) ∧
      (¬jobInUse s c job → pkMark k = 9 → Completes (.load c) s fun u => Finished u c k 2 9 0) ∧
      (¬jobInUse s c job → pkMark k ≠ 9 → stagingRoom s (stagingBytes n) = none ∨ 8192 ≤ placesUsed s → Completes (.load c) s fun u =>
        Finished u c k 2 4 0) ∧
      (∀ a, ¬jobInUse s c job → pkMark k ≠ 9 → stagingRoom s (stagingBytes n) = some a → placesUsed s < 8192 → Completes (.load c) s fun u =>
        Finished u c k 0 0 0 ∧ (ctx u c).st = .staged ∧ (ctx u c).job.toNat = job ∧
        (ctx u c).prio.toNat = fieldAt k.data 0x14 1 ∧ (ctx u c).vf = BitVec.ofNat 6 (fieldAt k.data 0x15 1) ∧
        (ctx u c).imgBytes = n ∧ (ctx u c).staging = some a)) := by
  have run := load_run head op
  have rejected {reason : Nat} (h : loadRow c s k = reject s c k reason) (small : reason < 65536) :
      Completes (.load c) s fun u => Finished u c k 2 reason 0 := finished_rejected head (run.trans (congrArg _ h)) small
  intro job n
  refine ⟨fun taken => rejected (if_pos taken) (by decide), fun free size => ?_, fun free big small => ?_⟩
  · refine rejected ((if_neg (not_not.mpr free)).trans (if_pos ?_)) (by decide)
    simpa using size
  have passes : loadRow c s k = _ := (if_neg (not_not.mpr free)).trans (if_neg (by simp; omega))
  refine ⟨fun used => rejected (passes.trans (if_pos ((jobInUse_iff ..).mpr used))) (by decide), fun unused mark => ?_,
    fun unused mark none_ => ?_, fun a unused mark room places => ?_⟩
  · exact rejected (passes.trans ((if_neg fun h => unused ((jobInUse_iff ..).mp h)).trans (if_pos mark))) (by decide)
  · refine rejected (passes.trans ((if_neg fun h => unused ((jobInUse_iff ..).mp h)).trans ((if_neg mark).trans ?_))) (by decide)
    split
    · rfl
    · next a room => exact if_pos (none_.resolve_left (by rw [room]; nofun))
  · rw [passes.trans ((if_neg fun h => unused ((jobInUse_iff ..).mp h)).trans (if_neg mark)), room] at run
    dsimp only at run
    rw [if_neg (Nat.not_le.mpr places)] at run
    have job_ : (BitVec.ofNat 32 job).toNat = job := by
      rw [BitVec.toNat_ofNat]
      exact Nat.mod_eq_of_lt (fieldAt_lt k.data 0x10 4)
    have prio : (BitVec.ofNat 2 (fieldAt k.data 0x14 1)).toNat = fieldAt k.data 0x14 1 := by
      rw [BitVec.toNat_ofNat]
      exact Nat.mod_eq_of_lt (load_prio head.ok op)
    refine completes_of run ⟨finished_completeCmd (fun e he => ?_) (by decide) (by decide) (by decide), ?_⟩
    · simp [head.idle] at he
    · rw [ctx_completeCmd, completedCtx, ctx_modCtx_same]
      exact ⟨rfl, job_, prio, rfl, rfl, rfl⟩

/-! ### SUPPLY and RETIRE (R376, R387) -/

theorem current_idle {s : State} {c : Nat} (idle : (ctx s c).cur = none) (op : Nat) : current s c op = none := by
  rw [current, idle]

/-- What a SUPPLY does with the packet at the head. -/
def supplyRow (c : CtxIx) (s : State) (k : Packet) : State :=
  if (ctx s c).st ≠ .resident then reject s c k 2 else
  match inputHandle (imageOf s c) (fieldAt k.data 0x10 2) with
  | none => reject s c k 6
  | some d =>
    if !((supplySlots k d).all fun l => (exportWindow s c l).isSome) then reject s c k 7
    else if (imageOf s c).keys.any fun x => x.handle = fieldAt k.data 0x10 2 && x.tag.toNat ≠ recTag (BitVec.ofNat 128 (fieldAt k.data 0x20 16))
    then reject s c k 8
    else modCtx (begin s c k) c fun x => { x with handles := nmod {} x.handles (fieldAt k.data 0x10 2) fun v => { v with valid := false } }

theorem exec_supply_of_idle {s : State} {c : CtxIx} (idle : (ctx s c).cur = none) :
    exec (.supply c) s = .next (command s c 4 fun s k => supplyRow c s k) := by
  refine congrArg Host.Outcome.next ?_
  rw [current_idle idle]
  rfl

theorem supply_run {s : State} {c : CtxIx} {k : Packet} (head : AtHead s c k) (op : pkOp k = 4) :
    exec (.supply c) s = .next (supplyRow c s k) :=
  (exec_supply_of_idle head.idle).trans (congrArg _ (command_of_atHead _ head op))

theorem mem_supplySlots {k : Packet} {d : HDecl} {P : Nat → Prop} :
    (∀ x ∈ supplySlots k d, P x) ↔ ∀ l, l < d.lines → P (fieldAt k.data 0x14 4 + l) := by
  simp [supplySlots]

theorem supply_completes {s : State} {c : CtxIx} {k : Packet} (head : AtHead s c k) (op : pkOp k = 4) :
    let h := fieldAt k.data 0x10 2
    let slot := fieldAt k.data 0x14 4
    let r : W128 := BitVec.ofNat 128 (fieldAt k.data 0x20 16)
    ((ctx s c).st ≠ .resident → Completes (.supply c) s fun u => Finished u c k 2 2 0) ∧
    ((ctx s c).st = .resident → inputHandle (imageOf s c) h = none → Completes (.supply c) s fun u => Finished u c k 2 6 0) ∧
    (∀ d, (ctx s c).st = .resident → inputHandle (imageOf s c) h = some d →
      ((∃ l, l < d.lines ∧ exportWindow s c (slot + l) = none) → Completes (.supply c) s fun u => Finished u c k 2 7 0) ∧
      ((∀ l, l < d.lines → (exportWindow s c (slot + l)).isSome = true) →
        ((∃ x ∈ (imageOf s c).keys, x.handle = h ∧ x.tag.toNat ≠ recTag r) → Completes (.supply c) s fun u => Finished u c k 2 8 0) ∧
        ((∀ x ∈ (imageOf s c).keys, x.handle = h → x.tag.toNat = recTag r) → Completes (.supply c) s fun u =>
          (∃ e, (ctx u c).cur = some e ∧ e.packet = k ∧ e.teams = false) ∧ (ctx u c).taken = (ctx s c).taken ∧
          nget {} (ctx u c).handles h = { nget {} (ctx s c).handles h with valid := false } ∧
          ∀ j, j ≠ h → nget {} (ctx u c).handles j = nget {} (ctx s c).handles j))) := by
  have run := supply_run head op
  have rejected {reason : Nat} (h : supplyRow c s k = reject s c k reason) (small : reason < 65536) :
      Completes (.supply c) s fun u => Finished u c k 2 reason 0 := finished_rejected head (run.trans (congrArg _ h)) small
  intro h slot r
  refine ⟨fun not_ => rejected (if_pos not_) (by decide), fun resident none_ => ?_, fun d resident input => ?_⟩
  · refine rejected ((if_neg (not_not.mpr resident)).trans ?_) (by decide)
    rw [none_]
  have passes : supplyRow c s k = _ := if_neg (not_not.mpr resident)
  rw [input] at passes
  dsimp only at passes
  refine ⟨fun outside => rejected (passes.trans (if_pos ?_)) (by decide), fun inside => ⟨fun differs => ?_, fun agrees => ?_⟩⟩
  · obtain ⟨l, hl, none_⟩ := outside
    rw [Bool.not_eq_true', ← Bool.not_eq_true, List.all_eq_true, mem_supplySlots]
    exact fun all => by simpa [none_, slot] using all l hl
  all_goals
    rw [if_neg (by simpa [mem_supplySlots, Option.isSome_iff_ne_none] using inside)] at passes
  · refine rejected (passes.trans (if_pos ?_)) (by decide)
    simpa using differs
  · rw [passes, if_neg (by simpa using agrees)] at run
    refine completes_of run ?_
    rw [ctx_modCtx_same, begin, ctx_modCtx_same]
    dsimp only
    exact ⟨⟨_, rfl, rfl, rfl⟩, rfl, nget_nmod_same .., fun j hj => nget_nmod_other _ _ hj _⟩

theorem retire_completes {s : State} {c : CtxIx} {k : Packet} (head : AtHead s c k) (op : pkOp k = 5) :
    ((ctx s c).st ≠ .resident → Completes (.retire c) s fun u => Finished u c k 2 2 0) ∧
    ((ctx s c).st = .resident → (inputHandle (imageOf s c) (fieldAt k.data 0x10 2)).isSome = true → Completes (.retire c) s fun u =>
      Finished u c k 0 0 0 ∧ (nget {} (ctx u c).handles (fieldAt k.data 0x10 2)).valid = false ∧
      ∀ j, j ≠ fieldAt k.data 0x10 2 → nget {} (ctx u c).handles j = nget {} (ctx s c).handles j) ∧
    ((ctx s c).st = .resident → inputHandle (imageOf s c) (fieldAt k.data 0x10 2) = none → Completes (.retire c) s fun u =>
      Finished u c k 2 6 0) := by
  have run : exec (.retire c) s = .next _ := congrArg Host.Outcome.next (command_of_atHead _ head op)
  refine ⟨fun not_ => ?_, fun resident input => ?_, fun resident none_ => ?_⟩
  · exact finished_rejected head (run.trans (congrArg _ (if_pos not_))) (by decide)
  · obtain ⟨d, input⟩ := Option.isSome_iff_exists.mp input
    dsimp only at run
    rw [if_neg (not_not.mpr resident), input] at run
    refine completes_of run ⟨finished_completeCmd (fun e he => ?_) (by decide) (by decide) (by decide), ?_⟩
    · simp [head.idle] at he
    · rw [handles_completeCmd, ctx_modCtx_same]
      dsimp only
      exact ⟨congrArg HState.valid (nget_nmod_same ..), fun j hj => nget_nmod_other _ _ hj _⟩
  · dsimp only at run
    rw [if_neg (not_not.mpr resident), none_] at run
    exact finished_rejected head run (by decide)

/-- What the second row of a SUPPLY leaves. -/
theorem finishSupply_effect {s : State} {c : CtxIx} {e : Exec} {d : HDecl} (cur : (ctx s c).cur = some e)
    (input : inputHandle (imageOf s c) (fieldAt e.packet.data 0x10 2) = some d) :
    let h := fieldAt e.packet.data 0x10 2
    let slots := (List.range d.lines).map (fieldAt e.packet.data 0x14 4 + ·)
    let u := finishSupply s c e.packet
    let old := nget {} (ctx s c).handles h
    let bad := slots.any (windowPoison (cacheSlots s c slots) c)
    let whole := !bad && (d.kind ≠ 2 || (base1Of (imageOf s c) h).isSome)
    Finished u c e.packet (if bad = true then 5 else 0) 0 0 ∧
      (nget {} (ctx u c).handles h).record = BitVec.ofNat 128 (fieldAt e.packet.data 0x20 16) ∧
      (nget {} (ctx u c).handles h).valid = whole ∧ (nget {} (ctx u c).handles h).poison = (old.poison && !whole) ∧
      ∀ j, j ≠ h → nget {} (ctx u c).handles j = nget {} (ctx s c).handles j := by
  intro h slots u old bad whole
  have image : imageOf (cacheSlots s c slots) c = imageOf s c := by rw [imageOf, ctx_cacheSlots, imageOf]
  have done : u = completeCmd (modCtx (supplyLines (cacheSlots s c slots) c e.packet d d.lines) c fun x => { x with
      handles := nmod {} x.handles h fun v =>
        { record := BitVec.ofNat 128 (fieldAt e.packet.data 0x20 16), valid := whole, poison := v.poison && !whole } })
      c e.packet (if bad = true then 5 else 0) 0 0 := by
    unfold u finishSupply
    dsimp only
    rw [input]
    dsimp only
    rw [← show slots = supplySlots e.packet d from rfl, image]
  rw [done, handles_completeCmd, ctx_modCtx_same, ctx_supplyLines, ctx_cacheSlots]
  dsimp only
  refine ⟨finished_completeCmd (fun v hv => ?_) (by split <;> decide) (by decide) (by decide), ?_, ?_, ?_, fun j hj => nget_nmod_other _ _ hj _⟩
  · rw [ctx_modCtx_same, ctx_supplyLines, ctx_cacheSlots] at hv
    obtain rfl : e = v := Option.some.inj (cur.symm.trans hv)
    rfl
  all_goals rw [nget_nmod_same]

/-! ### Malformed packets (R369) -/

/-- A malformed packet that alone waits in an idle ring is rejected, whichever command's row comes. -/
theorem command_malformed {s : State} {c op : Nat} {k : Packet} (go : State → Packet → State) (alone : (ctx s c).taken = [k])
    (idle : (ctx s c).cur = none) (bad : packetOk k = false) (free : holding s c = false) : command s c op go = reject s c k 1 := by
  have untaken : replayTake s c = s := by
    rw [replayTake, if_pos (by rw [free]; rfl)]
  have emptied : (ctx (reject s c k 1) c).taken = [] := by
    rw [reject, ctx_completeCmd, completedCtx, alone]
    exact List.filter_eq_nil_iff.mpr fun x hx => by simp [List.mem_singleton.mp hx]
  have settled : settleRing s c = reject s c k 1 := by
    rw [settleRing, untaken, alone]
    dsimp only [List.length_cons, List.length_nil]
    unfold rejectMalformed
    simp only [alone, idle, bad]
    rfl
  unfold command headOf
  simp only [settled, emptied]

theorem malformed_completes {s : State} {c : CtxIx} {k : Packet} (alone : (ctx s c).taken = [k]) (idle : (ctx s c).cur = none)
    (bad : packetOk k = false) (free : holding s c = false) :
    ∀ i ∈ [Instr.load c, .install c, .start c, .supply c, .retire c, .unload c, .nop c], Completes i s fun u => Finished u c k 2 1 0 := by
  have rejected {i : Instr} {op : Nat} {go : State → Packet → State} (run : exec i s = .next (command s c op go)) :
      Completes i s fun u => Finished u c k 2 1 0 :=
    completes_of (run.trans (congrArg _ (command_malformed go alone idle bad free))) (finished_reject k idle (by decide))
  have row {op : Nat} {finish : State → Exec → State} {rest : State} :
      (match current s c op with | some e => finish s e | none => rest) = rest := by rw [current_idle idle]
  simp only [List.mem_cons, List.not_mem_nil, or_false]
  rintro i (rfl | rfl | rfl | rfl | rfl | rfl | rfl)
  · exact rejected rfl
  · exact rejected (congrArg Host.Outcome.next (row (finish := fun s e => finishInstall s c e.packet)))
  · exact rejected rfl
  · exact rejected (exec_supply_of_idle idle)
  · exact rejected rfl
  · exact rejected (congrArg Host.Outcome.next (row (finish := fun s e => finishUnload s c e.packet)))
  · exact rejected rfl

/-- Settles O41, row by row. -/
theorem ringCommandsComplete : Obligations.RingCommandsComplete := by
  refine ⟨fun s c k head => ⟨nop_completes head, load_completes head, supply_completes head, retire_completes head⟩,
    fun s c k alone idle bad free => malformed_completes alone idle bad free, fun s c e d cur op => ?_⟩
  intro h slots input old bad whole
  have row : current s c 4 = some e := by
    rw [current, cur]
    exact if_pos op
  have run : exec (.supply c) s = .next (finishSupply s c e.packet) := by
    refine congrArg Host.Outcome.next ?_
    rw [row]
  exact completes_of run (finishSupply_effect cur input)

/-! ### Partition barriers (R283, R284) -/

theorem barOf_modBar_same (x : StallCtx) (k : Nat) (f : Bar → Bar) : barOf (modBar x k f) k = f (barOf x k) := nget_nmod_same ..

theorem live_modLive_same (s : State) (p : Nat) (f : StallCtx → StallCtx) : (stall (modLive s p f) p).live = f (stall s p).live :=
  congrArg Stall.live (stall_modStall_same ..)

theorem stall_modLive_other {s : State} {p q : Nat} (h : q ≠ p) (f : StallCtx → StallCtx) : stall (modLive s p f) q = stall s q :=
  stall_modStall_other _ h ..

/-- A message that has just been sent is on its way. -/
theorem onTheWay_send (s : State) (src dst : Node) (net : Net) (c : Nat) (b : Body) : OnTheWay (send s src dst net c b) src dst b :=
  ⟨_, List.mem_append_right _ List.mem_cons_self, rfl, rfl, rfl⟩

theorem OnTheWay.of_append {s u : State} {src dst : Node} {b : Body} {l : List Msg} (yard : u.yard = s.yard ++ l)
    (h : OnTheWay s src dst b) : OnTheWay u src dst b := by
  obtain ⟨m, hm, is_⟩ := h
  exact ⟨m, yard ▸ List.mem_append_left _ hm, is_⟩

theorem onTheWay_congr {s u : State} (yard : u.yard = s.yard) {src dst : Node} {b : Body} :
    OnTheWay u src dst b ↔ OnTheWay s src dst b := by
  rw [OnTheWay, yard, OnTheWay]

theorem onTheWay_sendBridle (s : State) (src dst : Node) (c : Nat) (b : Body) : OnTheWay (sendBridle s src dst c b) src dst b :=
  (onTheWay_congr (yardCount_yard ..)).mpr (onTheWay_send ..)

theorem arrivalPosted_run {s : State} {p : Position} {k b l q : Nat} {ls : List Nat} (bound : (barOf (stall s p).live k).bound = some b)
    (acked : ∀ m ∈ (stall s p).unacked, b ≤ m) (small : k < 64)
    (members : (setMembers (runningImage s) k).mergeSort (· ≤ ·) = l :: ls) (root : posOfLid s l = some q) :
    exec (.arrivalPosted p k) s = .next (sendBridle (modLive s p fun y => modBar y k fun v => { v with bound := none })
      (.stall p) (.stall q) (runningNo s) (.arrive k (lidOf s p))) := by
  refine congrArg Host.Outcome.next ?_
  dsimp only
  have none_ : ((stall s p).unacked.any fun m => m < b) = false := List.any_eq_false.mpr fun m hm => by simpa using acked m hm
  rw [bound]
  dsimp only
  rw [none_, if_neg Bool.false_ne_true, if_pos small, if_neg (by simp; omega), ← runningImage, members]
  dsimp only
  rw [root]

theorem arrivalPosted_completes {s : State} {p : Position} {k b l q : Nat} {ls : List Nat} (bound : (barOf (stall s p).live k).bound = some b)
    (acked : ∀ m ∈ (stall s p).unacked, b ≤ m) (small : k < 64)
    (members : (setMembers (runningImage s) k).mergeSort (· ≤ ·) = l :: ls) (root : posOfLid s l = some q) :
    Completes (.arrivalPosted p k) s fun u => OnTheWay u (.stall p) (.stall q) (.arrive k (lidOf s p)) ∧
      barOf (stall u p).live k = { barOf (stall s p).live k with bound := none } ∧ ∀ r, r ≠ p → stall u r = stall s r := by
  refine completes_of (arrivalPosted_run bound acked small members root) ⟨onTheWay_sendBridle .., ?_, fun r hr => ?_⟩
  · rw [stall_sendBridle, live_modLive_same, barOf_modBar_same]
  · rw [stall_sendBridle, stall_modLive_other hr]

/-- A message that arrives at a stall, taken apart. -/
theorem ArrivesAt.arriving_eq {s : State} {x : Msg} {q : Nat} (h : ArrivesAt s x q) {b : Body} (body : x.body = b) :
    arriving s x.id = some ⟨x.id, x.src, .stall q, x.net, x.ctx, b⟩ := by
  obtain ⟨at_, dst, -⟩ := h
  rw [at_, ← dst, ← body]

theorem yard_foldl_send (src : Node) (net : Net) (c : Nat) (b : Body) (rs : List Nat) (s : State) :
    ∃ l, (rs.foldl (fun s r => send s src (.stall r) net c b) s).yard = s.yard ++ l := by
  induction rs generalizing s with
  | nil => exact ⟨[], (List.append_nil _).symm⟩
  | cons r rs ih =>
    obtain ⟨l, hl⟩ := ih (send s src (.stall r) net c b)
    exact ⟨_ :: l, hl.trans (List.append_assoc ..)⟩

theorem onTheWay_foldl_send {src : Node} {net : Net} {c : Nat} {b : Body} {r : Nat} {rs : List Nat} (h : r ∈ rs) (s : State) :
    OnTheWay (rs.foldl (fun s r => send s src (.stall r) net c b) s) src (.stall r) b := by
  induction rs generalizing s with
  | nil => cases h
  | cons q rs ih =>
    obtain rfl | h := List.mem_cons.mp h
    · obtain ⟨l, hl⟩ := yard_foldl_send src net c b rs (send s src (.stall r) net c b)
      exact (onTheWay_send s src (.stall r) net c b).of_append hl
    · exact ih h _

theorem stall_foldl_send (src : Node) (net : Net) (c : Nat) (b : Body) (rs : List Nat) (s : State) (q : Nat) :
    stall (rs.foldl (fun s r => send s src (.stall r) net c b) s) q = stall s q := by
  induction rs generalizing s with
  | nil => rfl
  | cons r rs ih => exact ih (send s src (.stall r) net c b)

/-- The root of a partition barrier once it has counted an arrival that is not the last. -/
def countedArrival (s : State) (m q k : Nat) : State :=
  modLive (dropMsg s m) q fun x => modBar x k fun v => { v with count := v.count + 1 }

/-- The root with its phase inverted. -/
def phaseInverted (s : State) (m q k : Nat) : State :=
  modLive (dropMsg s m) q fun x => modBar x k fun v => { v with count := 0, rphase := !(barOf (stall s q).live k).rphase }

theorem arrivalAtRoot_completes {s : State} {x : Msg} {q k l : Nat} (comes : ArrivesAt s x q) (body : x.body = .arrive k l) :
    let ms := setMembers (imageOf s x.ctx) k
    let b := barOf (stall s q).live k
    (b.count + 1 < ms.length → Completes (.barrierArrivalAtRoot x.id) s fun u =>
      barOf (stall u q).live k = { b with count := b.count + 1 } ∧ u.yard = yardAfter s x.id []) ∧
    (ms.length ≤ b.count + 1 → Completes (.barrierArrivalAtRoot x.id) s fun u =>
      barOf (stall u q).live k = { b with count := 0, rphase := !b.rphase } ∧
      ∀ r ∈ setPositions s k, OnTheWay u (.stall q) (.stall r) (.release k (!b.rphase))) := by
  have at_ := comes.arriving_eq body
  have up : (!awake s q) = false := by rw [comes.2.2]; rfl
  refine ⟨fun more => ?_, fun last => ?_⟩
  · have run : exec (.barrierArrivalAtRoot x.id) s = .next (countedArrival s x.id q k) := by
      refine congrArg Host.Outcome.next ?_
      rw [at_]
      dsimp only
      rw [up, if_neg Bool.false_ne_true, if_pos more]
      rfl
    refine completes_of run ⟨?_, (List.append_nil _).symm⟩
    rw [countedArrival, live_modLive_same, barOf_modBar_same]
    rfl
  · have run : exec (.barrierArrivalAtRoot x.id) s = .next ((setPositions s k).foldl (fun u r => send u (.stall q) (.stall r) .bridleway x.ctx
        (.release k (!(barOf (stall s q).live k).rphase))) (yardCount (yardCount (phaseInverted s x.id q k) 3 1) 5 1)) := by
      refine congrArg Host.Outcome.next ?_
      rw [at_]
      dsimp only
      rw [up, if_neg Bool.false_ne_true, if_neg (Nat.not_lt.mpr last)]
      rfl
    refine completes_of run ⟨?_, fun r hr => onTheWay_foldl_send hr _⟩
    rw [stall_foldl_send, stall_yardCount, stall_yardCount, phaseInverted, live_modLive_same, barOf_modBar_same]
    rfl

theorem barrierRelease_completes {s : State} {x : Msg} {q k : Nat} {v : Bool} {g : McSet} (comes : ArrivesAt s x q) (at_ : runsAt s q x.ctx)
    (body : x.body = .release k v) (set_ : (imageOf s x.ctx).mcast.find? (fun y => y.index = k) = some g) :
    Completes (.barrierRelease x.id) s fun u => (stall u q).live = setFlag (stall s q).live (BitVec.ofNat 8 g.sense) v ∧
      u.yard = yardAfter s x.id [] ∧ ∀ r, r ≠ q → stall u r = stall s r := by
  obtain ⟨running, here⟩ := at_
  have up : (!awake s q) = false := by rw [comes.2.2]; rfl
  have run : exec (.barrierRelease x.id) s = .next (modLive (dropMsg s x.id) q fun y => setFlag y (BitVec.ofNat 8 g.sense) v) := by
    refine congrArg Host.Outcome.next ?_
    rw [comes.arriving_eq body]
    dsimp only
    rw [up, if_neg Bool.false_ne_true, set_]
    dsimp only
    rw [modStallCtx, if_pos (show runningNo (dropMsg s x.id) = x.ctx from running), show posOfLid (dropMsg s x.id) (lidOf s q) = some q from here]
  exact completes_of run ⟨live_modLive_same .., (List.append_nil _).symm, fun r hr => stall_modLive_other hr _⟩

/-! ### Device barriers (R59, R284, R285) -/

theorem getLsbD_flip (x : BitVec 4) (id j : Fin 4) :
    (x ^^^ (1#4 <<< id.val)).getLsbD j = if j = id then !x.getLsbD j else x.getLsbD j := by
  rw [BitVec.getLsbD_xor, getLsbD_teamBit]
  by_cases h : j = id <;> simp [h]

/-- The device barrier's wire inverts, and the invert is counted. -/
def phaseFlipped (s : State) (id : Fin 4) : State :=
  yardCount { s with ym := { s.ym with devPhase := s.ym.devPhase ^^^ (1#4 <<< id.val) } } 4 1

theorem bumpBy_only_csr (s : State) (o w b n : Nat) : bumpBy s o w b n = { s with csr := (bumpBy s o w b n).csr } := by
  unfold bumpBy
  dsimp only
  split
  · rfl
  · split
    · exact csrPut_only_csr ..
    · exact (csrSetField_only_csr ..).trans (by rw [csrPut_only_csr])

theorem phaseFlipped_only (s : State) (id : Fin 4) : phaseFlipped s id =
    { s with ym := { s.ym with devPhase := (phaseFlipped s id).ym.devPhase }, csr := (phaseFlipped s id).csr } := by
  rw [phaseFlipped, yardCount, bumpBy_only_csr]

theorem devPhase_phaseFlipped (s : State) (id : Fin 4) : (phaseFlipped s id).ym.devPhase = s.ym.devPhase ^^^ (1#4 <<< id.val) := by
  rw [phaseFlipped, yardCount_ym]

/-- Every participant of the running context drives the value that the barrier's wire does not hold. -/
def allDrive (s : State) (id : Fin 4) : Prop := runningNo s ≠ 64 ∧ participants s (runningNo s) ≠ [] ∧
  ∀ p ∈ participants s (runningNo s), (barOf (stall s p).live (64 + id)).drive ≠ s.ym.devPhase.getLsbD id

theorem deviceBarrier_run {s : State} {id : Fin 4} (all : allDrive s id) (open_ : id = 0 → writeBacksOpen s (runningNo s) = false) :
    exec (.deviceBarrierComplete id) s =
      .next (if id = 0 then closingBarrier (phaseFlipped s id) (runningNo s) else phaseFlipped s id) := by
  obtain ⟨some_, members, drive⟩ := all
  refine congrArg Host.Outcome.next (if_neg ?_)
  have driven : ((participants s (runningNo s)).all fun p => (barOf (stall s p).live (64 + id)).drive != s.ym.devPhase.getLsbD id) = true :=
    List.all_eq_true.mpr fun p hp => by simpa using drive p hp
  rw [driven]
  by_cases h : id = 0
  · simp [some_, members, open_ h]
  · simp [some_, members, h]

theorem deviceBarrier_waits {s : State} (open_ : writeBacksOpen s (runningNo s) = true) : exec (.deviceBarrierComplete 0) s = .next s :=
  congrArg Host.Outcome.next (if_pos (by simp [open_]))

/-! #### The records of a write-back -/

theorem recFields_mkRecord {scale chain level epoch tag : Nat} (prov : Bool) (hs : scale < 2 ^ 20) (hc : chain < 16) (hl : level < 64)
    (he : epoch < 2 ^ 32) (ht : tag < 2 ^ 64) : let r := mkRecord scale prov chain level epoch tag
    recLevel r = level ∧ recChain r = chain ∧ recScale r = scale ∧ recTag r = tag ∧ recEpoch r = epoch ∧ recProv r = prov := by
  have whole : (mkRecord scale prov chain level epoch tag).toNat =
      tag + epoch * 2 ^ 64 + level * 2 ^ 96 + chain * 2 ^ 102 + (if prov then 2 ^ 107 else 0) + scale * 2 ^ 108 := by
    rw [mkRecord, BitVec.toNat_ofNat, Nat.mod_eq_of_lt hs, Nat.mod_eq_of_lt hc, Nat.mod_eq_of_lt hl, Nat.mod_eq_of_lt he, Nat.mod_eq_of_lt ht]
    refine Nat.mod_eq_of_lt ?_
    split <;> omega
  simp only [recLevel, recChain, recScale, recTag, recEpoch, recProv, whole]
  cases prov <;> simp [bitsOf] <;> omega

/-- The fields of two records agree. -/
def SameRecord (r v : W128) : Prop := recLevel r = recLevel v ∧ recChain r = recChain v ∧ recScale r = recScale v ∧ recTag r = recTag v ∧
  recEpoch r = recEpoch v ∧ recProv r = recProv v

theorem sameRecord_joinCopies_single (r : W128) : SameRecord (joinCopies [r]) r := by
  have join : joinCopies [r] = mkRecord (recScale r) (recProv r) (recChain r) (recLevel r) (recEpoch r) (recTag r) := by
    simp [joinCopies]
  rw [join]
  exact recFields_mkRecord (recProv r) (bitsOf_lt ..) (bitsOf_lt ..) (bitsOf_lt ..) (bitsOf_lt ..) (bitsOf_lt ..)

theorem sameRecord_storedRecord {s : State} {c h l : Nat} {r : W128} {b : Bool} (single : copiesOf s c h = [(l, r, b)]) :
    SameRecord (storedRecord s c h) r := by
  rw [storedRecord, single]
  exact (if_pos rfl : _ = joinCopies [r]) ▸ sameRecord_joinCopies_single r

theorem nget_storeRecord_other {s : State} {c h j : Nat} (other : h ≠ j) (m : NMap HState) :
    nget {} (storeRecord s c m j) h = nget {} m h := nget_nmod_other _ _ other _

theorem nget_storeRecord_congr {s : State} {c h : Nat} {m n : NMap HState} (same : nget {} m h = nget {} n h) :
    nget {} (storeRecord s c m h) h = nget {} (storeRecord s c n h) h := by
  unfold storeRecord
  rw [nget_nmod_same, nget_nmod_same, same]

theorem nget_foldl_storeRecord_of_not_mem {s : State} {c h : Nat} {hs : List Nat} (out : h ∉ hs) (m : NMap HState) :
    nget {} (hs.foldl (storeRecord s c) m) h = nget {} m h := by
  induction hs generalizing m with
  | nil => rfl
  | cons j hs ih =>
    rw [List.mem_cons, not_or] at out
    exact (ih out.2 _).trans (nget_storeRecord_other out.1 _)

theorem nget_foldl_storeRecord {s : State} {c h : Nat} {hs : List Nat} (nodup : hs.Nodup) (in_ : h ∈ hs) (m : NMap HState) :
    nget {} (hs.foldl (storeRecord s c) m) h = nget {} (storeRecord s c m h) h := by
  induction hs generalizing m with
  | nil => cases in_
  | cons j hs ih =>
    obtain ⟨fresh, nodup⟩ := List.nodup_cons.mp nodup
    obtain rfl | in_ := List.mem_cons.mp in_
    · exact nget_foldl_storeRecord_of_not_mem fresh _
    · have other : h ≠ j := fun eq => fresh (eq ▸ in_)
      exact (ih nodup in_ _).trans (nget_storeRecord_congr (nget_storeRecord_other other m))

theorem mem_wbackHandles {s : State} {c h : Nat} (some_ : copiesOf s c h ≠ []) : h ∈ ((ctx s c).wbacks.map fun w => w.2.1).dedup := by
  obtain ⟨w, hw⟩ := List.exists_mem_of_ne_nil _ (fun none_ => some_ (by rw [copiesOf, none_]; rfl) :
    (ctx s c).wbacks.filter (fun w => w.2.1 = h) ≠ [])
  rw [List.mem_filter] at hw
  exact List.mem_dedup.mpr (List.mem_map.mpr ⟨w, hw.1, by simpa using hw.2⟩)

theorem nget_storeRecord_single {s : State} {c h l : Nat} {r : W128} {b : Bool} (single : copiesOf s c h = [(l, r, b)]) (m : NMap HState) :
    let v := nget {} (storeRecord s c m h) h
    SameRecord v.record r ∧ v.poison = ((nget {} m h).poison || b) := by
  rw [storeRecord, nget_nmod_same]
  refine ⟨sameRecord_storedRecord single, ?_⟩
  rw [single]
  simp [copiesAgree]

/-! #### The end of a step -/

theorem retireAwaiting_of_none {s : State} (none_ : ∀ e ∈ s.positions, e.2.await = none) : retireAwaiting s = s := by
  unfold retireAwaiting
  have steps (l : NMap Pos) (sub : ∀ e ∈ l, e.2.await = none) : l.foldl (fun s e => match e.2.await with
      | some cause => if (stall s e.1).entries.all (fun v => v.2.isNone) then retire s e.1 cause else s
      | none => s) s = s := by
    induction l with
    | nil => rfl
    | cons e l ih =>
      rw [List.foldl_cons, sub e List.mem_cons_self]
      exact ih fun v hv => sub v (List.mem_cons_of_mem _ hv)
  exact steps s.positions none_

theorem ctx_foldl_modStall (f : Stall → Stall) (ps : List Nat) (s : State) (c : Nat) :
    ctx (ps.foldl (fun s p => modStall s p f) s) c = ctx s c := by
  induction ps generalizing s with
  | nil => rfl
  | cons p ps ih => exact ih (modStall s p f)

theorem ctx_deliverRecords {s : State} {c : Nat} (kept : (recOf s c).emptied = false) : ctx (deliverRecords s c) c = { ctx s c with
    handles := (((ctx s c).wbacks.map fun w => w.2.1).dedup).foldl (storeRecord s c) (ctx s c).handles, wbacks := [] } := by
  unfold deliverRecords
  dsimp only
  rw [kept, if_neg Bool.false_ne_true, ctx_modCtx_same]
  rw [ctx_foldl_modStall, ctx_modCtx_same]

/-- What follows the delivery of the records where no position awaits retirement: the epoch may close, and the stalls take their
targets. -/
def closedAndApplied (s : State) (c : Nat) : State :=
  let s2 := if (recOf s c).opened.isSome && (recOf s c).openAt.toNat + epochNs s c ≤ now s then closeEpoch s c else s
  (positionsIn s2 .enabled).foldl applyTarget s2

theorem closedAndApplied_frame (s : State) (c : Nat) : ctx (closedAndApplied s c) c = ctx s c ∧
    (closedAndApplied s c).positions = s.positions ∧ (closedAndApplied s c).ym = s.ym := by
  unfold closedAndApplied
  dsimp only
  split
  · refine ⟨?_, ?_, ?_⟩
    · exact (foldl_keeps (ctx · c) (fun u p => ctx_applyTarget u p c) _ _).trans (ctx_closeEpoch ..)
    · exact (foldl_keeps State.positions (fun u p => applyTarget_positions u p) _ _).trans (closeEpoch_positions ..)
    · exact (foldl_keeps State.ym (fun u p => applyTarget_ym u p) _ _).trans (closeEpoch_ym ..)
  · exact ⟨foldl_keeps (ctx · c) (fun u p => ctx_applyTarget u p c) _ _, foldl_keeps State.positions (fun u p => applyTarget_positions u p) _ _,
      foldl_keeps State.ym (fun u p => applyTarget_ym u p) _ _⟩

theorem closingBarrier_of_none {s : State} (c : Nat) (none_ : ∀ e ∈ s.positions, e.2.await = none) :
    closingBarrier s c = closedAndApplied (deliverRecords s c) c := by
  obtain ⟨-, positions, -⟩ := closedAndApplied_frame (deliverRecords s c) c
  have still : retireAwaiting (closedAndApplied (deliverRecords s c) c) = closedAndApplied (deliverRecords s c) c :=
    retireAwaiting_of_none (by rw [positions, deliverRecords_positions]; exact none_)
  unfold closingBarrier
  dsimp only
  rw [← closedAndApplied, still, ite_self]

theorem wbacks_deliverRecords (s : State) (c : Nat) : (ctx (deliverRecords s c) c).wbacks = [] := by
  unfold deliverRecords
  exact congrArg Ctx.wbacks (ctx_modCtx_same ..)

/-- What device barrier 0 leaves of the handle that one stall has written back. -/
theorem delivered_single {s : State} {c h l : Nat} {r : W128} {b : Bool} (kept : (recOf s c).emptied = false)
    (single : copiesOf s c h = [(l, r, b)]) : let v := nget {} (ctx (deliverRecords s c) c).handles h
    SameRecord v.record r ∧ v.poison = ((nget {} (ctx s c).handles h).poison || b) := by
  rw [ctx_deliverRecords kept]
  dsimp only
  rw [nget_foldl_storeRecord (List.nodup_dedup _) (mem_wbackHandles (by rw [single]; nofun))]
  exact nget_storeRecord_single single _

theorem deviceBarrier_completes {s : State} {id : Fin 4} (all : allDrive s id) :
    (id ≠ 0 → Completes (.deviceBarrierComplete id) s fun u =>
      (∀ j : Fin 4, u.ym.devPhase.getLsbD j = if j = id then !s.ym.devPhase.getLsbD j else s.ym.devPhase.getLsbD j) ∧
      u = { s with ym := { s.ym with devPhase := u.ym.devPhase }, csr := u.csr }) ∧
    (id = 0 → writeBacksOpen s (runningNo s) = true → Completes (.deviceBarrierComplete id) s fun u => u = s) ∧
    (id = 0 → writeBacksOpen s (runningNo s) = false → (∀ e ∈ s.positions, e.2.await = none) →
      Completes (.deviceBarrierComplete id) s fun u =>
        (∀ j : Fin 4, u.ym.devPhase.getLsbD j = if j = id then !s.ym.devPhase.getLsbD j else s.ym.devPhase.getLsbD j) ∧
        (ctx u (runningNo s)).wbacks = [] ∧ u.positions = s.positions ∧
        ∀ h l r b, copiesOf s (runningNo s) h = [(l, r, b)] → (recOf s (runningNo s)).emptied = false →
          let v := nget {} (ctx u (runningNo s)).handles h
          recLevel v.record = recLevel r ∧ recChain v.record = recChain r ∧ recScale v.record = recScale r ∧ recTag v.record = recTag r ∧
          recEpoch v.record = recEpoch r ∧ recProv v.record = recProv r ∧ v.poison = ((nget {} (ctx s (runningNo s)).handles h).poison || b)) := by
  refine ⟨fun other => ?_, ?_, ?_⟩
  · have run := deviceBarrier_run all fun zero => absurd zero other
    rw [if_neg other] at run
    exact completes_of run ⟨fun j => by rw [devPhase_phaseFlipped, getLsbD_flip], phaseFlipped_only s id⟩
  · rintro rfl open_
    exact completes_of (deviceBarrier_waits open_) rfl
  · rintro rfl none_ waits
    have run := deviceBarrier_run all fun _ => none_
    have only := phaseFlipped_only s 0
    rw [if_pos rfl, closingBarrier_of_none _ (by rw [only]; exact waits)] at run
    obtain ⟨context, positions, ym⟩ := closedAndApplied_frame (deliverRecords (phaseFlipped s 0) (runningNo s)) (runningNo s)
    refine completes_of run ⟨fun j => ?_, ?_, ?_, fun h l r b single kept => ?_⟩
    · rw [ym, deliverRecords_ym, devPhase_phaseFlipped, getLsbD_flip]
    · rw [context, wbacks_deliverRecords]
    · rw [positions, deliverRecords_positions, phaseFlipped, yardCount_positions]
    · have kept_ : (recOf (phaseFlipped s 0) (runningNo s)).emptied = false := by
        rw [phaseFlipped, recOf_yardCount]
        exact kept
      have same : ctx (phaseFlipped s 0) (runningNo s) = ctx s (runningNo s) := ctx_yardCount ..
      have single_ : copiesOf (phaseFlipped s 0) (runningNo s) h = [(l, r, b)] := by rw [copiesOf, same, ← copiesOf, single]
      obtain ⟨⟨level, chain, scale, tag, epoch, prov⟩, poison⟩ := delivered_single kept_ single_
      rw [context]
      exact ⟨level, chain, scale, tag, epoch, prov, by rw [poison, same]⟩

/-- Settles O27, barrier by barrier. -/
theorem barriersCountAndRelease : Obligations.BarriersCountAndRelease :=
  ⟨⟨fun _ _ _ _ _ _ _ bound acked small members root => arrivalPosted_completes bound acked small members root,
      fun _ _ _ _ _ comes body => arrivalAtRoot_completes comes body,
      fun _ _ _ _ _ _ comes at_ body set_ => barrierRelease_completes comes at_ body set_⟩,
    fun _ _ some_ members drive => deviceBarrier_completes ⟨some_, members, drive⟩⟩

end Sys2Proof.Machine
end

section
/-!
SUPPORT. The frame lemmas that the proofs of O24, O25 and O26 rest on.
-/

namespace Sys2Proof.Machine

/-! ### The stalls -/

@[simp] theorem vStalls_dropMsg (s : State) (m : Nat) :
    (dropMsg s m).vStalls = s.vStalls := by simp [dropMsg, vStalls_eta]

@[simp] theorem vStalls_replayDone (s : State) :
    (replayDone s).vStalls = s.vStalls := by simp [replayDone]

@[simp] theorem vStalls_ctOrder (s : State) (p : Nat) (e : Entry) :
    (ctOrder s p e).vStalls = s.vStalls := by
  unfold ctOrder
  repeat' split
  all_goals simp [vStalls_eta]

@[simp] theorem vStalls_ackTo (s : State) (q c id : Nat) (ack : Option Nat) :
    (ackTo s q c id ack).vStalls = s.vStalls := by
  unfold ackTo
  split <;> simp

@[simp] theorem vStalls_sendToken (s : State) (c id dst phase kind : Nat) :
    (sendToken s c id dst phase kind).vStalls = s.vStalls := by simp [sendToken]

@[simp] theorem stall_recCount (s : State) (i : Nat) (j₀ : Nat) :
    stall (recCount s i) j₀ = stall s j₀ := congrArg (nget ({} : Stall) · j₀) ((vStalls_def _).symm.trans ((vStalls_recCount
      ..).trans (vStalls_def _)))

@[simp] theorem stall_dropMsg (s : State) (m : Nat) (j₀ : Nat) :
    stall (dropMsg s m) j₀ = stall s j₀ := congrArg (nget ({} : Stall) · j₀) ((vStalls_def _).symm.trans ((vStalls_dropMsg
      ..).trans (vStalls_def _)))

@[simp] theorem reportFault_stalls (s : State) (source code detail c lid team handle : Nat) :
    (reportFault s source code detail c lid team handle).stalls = s.stalls := (vStalls_def _).symm.trans
      ((vStalls_reportFault ..).trans (vStalls_def _))

@[simp] theorem explain_stalls (s : State) (cause : Nat) (involved : List (Nat × W128)) :
    (explain s cause involved).stalls = s.stalls := (vStalls_def _).symm.trans ((vStalls_explain ..).trans (vStalls_def _))

@[simp] theorem stall_ctOrder (s : State) (p : Nat) (e : Entry) (j₀ : Nat) :
    stall (ctOrder s p e) j₀ = stall s j₀ := congrArg (nget ({} : Stall) · j₀) ((vStalls_def _).symm.trans ((vStalls_ctOrder
      ..).trans (vStalls_def _)))

@[simp] theorem stall_ackTo (s : State) (q c id : Nat) (ack : Option Nat) (j₀ : Nat) :
    stall (ackTo s q c id ack) j₀ = stall s j₀ := congrArg (nget ({} : Stall) · j₀) ((vStalls_def _).symm.trans
      ((vStalls_ackTo ..).trans (vStalls_def _)))

@[simp] theorem sendToken_stalls (s : State) (c id dst phase kind : Nat) :
    (sendToken s c id dst phase kind).stalls = s.stalls := (vStalls_def _).symm.trans ((vStalls_sendToken ..).trans
      (vStalls_def _))

/-! ### The recovery state of the contexts -/

@[simp] theorem vRecs_setLoft (s : State) (p line : Nat) (v : LoftLine) :
    (setLoft s p line v).vRecs = s.vRecs := by simp [setLoft, vRecs_eta]

@[simp] theorem vRecs_loftWrite (s : State) (p line c : Nat) (words : Line) (mask : Nat) :
    (loftWrite s p line c words mask).vRecs = s.vRecs := by simp [loftWrite]

@[simp] theorem vRecs_send (s : State) (src dst : Node) (net : Net) (c : Nat) (b : Body) :
    (send s src dst net c b).vRecs = s.vRecs := by simp [send, vRecs_eta]

@[simp] theorem vRecs_dropMsg (s : State) (m : Nat) :
    (dropMsg s m).vRecs = s.vRecs := by simp [dropMsg, vRecs_eta]

@[simp] theorem vRecs_stallFault (s : State) (p c : Nat) (team : Fin 4) (pc handle action code : Nat) :
    (stallFault s p c team pc handle action code).vRecs = s.vRecs := by simp [stallFault]

@[simp] theorem vRecs_countDrop (s : State) (p c n : Nat) :
    (countDrop s p c n).vRecs = s.vRecs := by simp [countDrop]

@[simp] theorem vRecs_writePiece (s : State) (p c : Nat) (pc : Piece) (a : Int) (words : Line) (msk : Nat) :
    (writePiece s p c pc a words msk).vRecs = s.vRecs := by simp [writePiece]

@[simp] theorem vRecs_modCached (s : State) (p h : Nat) (f : HEntry → HEntry) :
    (modCached s p h f).vRecs = s.vRecs := by simp [modCached]

@[simp] theorem vRecs_cacheHandle (s : State) (p c h : Nat) :
    (cacheHandle s p c h).vRecs = s.vRecs := by simp [cacheHandle]

@[simp] theorem vRecs_poisonLocal (s : State) (p c h : Nat) :
    (poisonLocal s p c h).vRecs = s.vRecs := by simp [poisonLocal]

@[simp] theorem vRecs_landLine (s : State) (q c : Nat) (to_ : LineTo) (l : Line) :
    (landLine s q c to_ l).vRecs = s.vRecs := by
  unfold landLine
  split <;> simp

@[simp] theorem vRecs_ackTo (s : State) (q c id : Nat) (ack : Option Nat) :
    (ackTo s q c id ack).vRecs = s.vRecs := by
  unfold ackTo
  split <;> simp

@[simp] theorem recOf_dropMsg (s : State) (m : Nat) (j₀ : Nat) :
    recOf (dropMsg s m) j₀ = recOf s j₀ := congrArg (nget ({} : Rec) · j₀) ((vRecs_def _).symm.trans ((vRecs_dropMsg
      ..).trans (vRecs_def _)))

@[simp] theorem recOf_stallFault (s : State) (p c : Nat) (team : Fin 4) (pc handle action code : Nat) (j₀ : Nat) :
    recOf (stallFault s p c team pc handle action code) j₀ = recOf s j₀ := congrArg (nget ({} : Rec) · j₀) ((vRecs_def
      _).symm.trans ((vRecs_stallFault ..).trans (vRecs_def _)))

@[simp] theorem recOf_poisonLocal (s : State) (p c h : Nat) (j₀ : Nat) :
    recOf (poisonLocal s p c h) j₀ = recOf s j₀ := congrArg (nget ({} : Rec) · j₀) ((vRecs_def _).symm.trans
      ((vRecs_poisonLocal ..).trans (vRecs_def _)))

@[simp] theorem recOf_landLine (s : State) (q c : Nat) (to_ : LineTo) (l : Line) (j₀ : Nat) :
    recOf (landLine s q c to_ l) j₀ = recOf s j₀ := congrArg (nget ({} : Rec) · j₀) ((vRecs_def _).symm.trans
      ((vRecs_landLine ..).trans (vRecs_def _)))

@[simp] theorem recOf_ackTo (s : State) (q c id : Nat) (ack : Option Nat) (j₀ : Nat) :
    recOf (ackTo s q c id ack) j₀ = recOf s j₀ := congrArg (nget ({} : Rec) · j₀) ((vRecs_def _).symm.trans ((vRecs_ackTo
      ..).trans (vRecs_def _)))

/-! ### The fault reports -/

@[simp] theorem vReports_recCount (s : State) (i : Nat) :
    (recCount s i).vReports = s.vReports := by simp [recCount]

@[simp] theorem vReports_send (s : State) (src dst : Node) (net : Net) (c : Nat) (b : Body) :
    (send s src dst net c b).vReports = s.vReports := by simp [send, vReports_eta]

@[simp] theorem vReports_ackTo (s : State) (q c id : Nat) (ack : Option Nat) :
    (ackTo s q c id ack).vReports = s.vReports := by
  unfold ackTo
  split <;> simp

@[simp] theorem recCount_reports (s : State) (i : Nat) :
    (recCount s i).reports = s.reports := (vReports_def _).symm.trans ((vReports_recCount ..).trans (vReports_def _))

@[simp] theorem ackTo_reports (s : State) (q c id : Nat) (ack : Option Nat) :
    (ackTo s q c id ack).reports = s.reports := (vReports_def _).symm.trans ((vReports_ackTo ..).trans (vReports_def _))

/-! ### What is in flight in the Yard -/

@[simp] theorem vYard_foldl {β : Type} (g : State → β → State) (h : ∀ s b, (g s b).vYard = s.vYard) (l : List β) (s : State) :
    (l.foldl g s).vYard = s.vYard := by
  induction l generalizing s with
  | nil => rfl
  | cons b l ih => exact (ih (g s b)).trans (h s b)

@[simp] theorem vYard_bump (s : State) (off wrapOff wrapBit : Nat) :
    (bump s off wrapOff wrapBit).vYard = s.vYard := by simp [bump]

@[simp] theorem vYard_recordFirst (s : State) (off v : Nat) :
    (recordFirst s off v).vYard = s.vYard := by simp [recordFirst]

@[simp] theorem vYard_recCount (s : State) (i : Nat) :
    (recCount s i).vYard = s.vYard := by simp [recCount]

@[simp] theorem vYard_rlCount (s : State) (n i k : Nat) :
    (rlCount s n i k).vYard = s.vYard := by simp [rlCount]

@[simp] theorem vYard_setStall (s : State) (p : Nat) (x : Stall) :
    (setStall s p x).vYard = s.vYard := by simp [setStall, vYard_eta]

@[simp] theorem vYard_modStall (s : State) (p : Nat) (f : Stall → Stall) :
    (modStall s p f).vYard = s.vYard := by simp [modStall]

@[simp] theorem vYard_setCtx (s : State) (c : Nat) (x : Ctx) :
    (setCtx s c x).vYard = s.vYard := by simp [setCtx, vYard_eta]

@[simp] theorem vYard_modCtx (s : State) (c : Nat) (f : Ctx → Ctx) :
    (modCtx s c f).vYard = s.vYard := by simp [modCtx]

@[simp] theorem vYard_modRec (s : State) (c : Nat) (f : Rec → Rec) :
    (modRec s c f).vYard = s.vYard := by simp [modRec, vYard_eta]

@[simp] theorem vYard_modTeam (s : State) (p : Nat) (t : Fin 4) (f : Team → Team) :
    (modTeam s p t f).vYard = s.vYard := by simp [modTeam]

@[simp] theorem vYard_setLoft (s : State) (p line : Nat) (v : LoftLine) :
    (setLoft s p line v).vYard = s.vYard := by simp [setLoft, vYard_eta]

@[simp] theorem vYard_loftWrite (s : State) (p line c : Nat) (words : Line) (mask : Nat) :
    (loftWrite s p line c words mask).vYard = s.vYard := by simp [loftWrite]

@[simp] theorem vYard_modPort (s : State) (n : Nat) (f : Port → Port) :
    (modPort s n f).vYard = s.vYard := by simp [modPort, vYard_eta]

@[simp] theorem vYard_wireFlit (s : State) (n : Nat) (b : List Byte) (seq : BitVec 16) :
    (wireFlit s n b seq).vYard = s.vYard := by simp [wireFlit, vYard_eta]

theorem vYard_sendOne (s t : State) (n : Nat) (h : sendOne s n = some t) : t.vYard = s.vYard := by
  unfold sendOne at h
  dsimp only at h
  split at h
  · cases h
  · split at h
    · cases h
    · cases h
      simp

@[simp] theorem vYard_pump (k : Nat) (s : State) (n : Nat) : (pump k s n).vYard = s.vYard := by
  induction k generalizing s with
  | zero => rfl
  | succ k ih =>
    unfold pump
    split
    · rw [ih]
      exact vYard_sendOne _ _ _ ‹_›
    · rfl

@[simp] theorem vYard_pumpPort (s : State) (n : Nat) : (pumpPort s n).vYard = s.vYard := by simp [pumpPort]

@[simp] theorem vYard_sendFlit (s : State) (via : Nat) (b : List Byte) :
    (sendFlit s via b).vYard = s.vYard := by
  unfold sendFlit
  repeat' split
  all_goals simp [vYard_eta]

@[simp] theorem vYard_dbStore (s : State) (type c : Nat) (payload : List Byte) :
    (dbStore s type c payload).vYard = s.vYard := by simp [dbStore, vYard_eta]

@[simp] theorem vYard_dbAppend (s : State) (type c : Nat) (payload : List Byte) :
    (dbAppend s type c payload).vYard = s.vYard := by simp [dbAppend, vYard_eta]

@[simp] theorem vYard_dbFault (s : State) (c code lid team handle : Nat) :
    (dbFault s c code lid team handle).vYard = s.vYard := by simp [dbFault]

@[simp] theorem vYard_raiseIrq (s : State) (fn vec : Nat) :
    (raiseIrq s fn vec).vYard = s.vYard := by simp [raiseIrq, vYard_eta]

@[simp] theorem vYard_ghRecord (s : State) (r : Nat) (rec_ : List Byte) (irq : Bool) (vf vfVec : Nat) :
    (ghRecord s r rec_ irq vf vfVec).vYard = s.vYard := by simp [ghRecord, vYard_eta]

@[simp] theorem vYard_ghNote (s : State) (ring : Nat) (rec_ : List Byte) :
    (ghNote s ring rec_).vYard = s.vYard := by
  unfold ghNote
  repeat' first
    | (simp [vYard_eta]; done)
    | (with_reducible refine (vYard_foldl _ ?_ _ _).trans ?_)
    | intro _
    | split
    | dsimp only

@[simp] theorem vYard_ghDeliver (s : State) (m : Nat) (rec_ : List Byte) (irq : Bool) :
    (ghDeliver s m rec_ irq).vYard = s.vYard := by simp [ghDeliver]

@[simp] theorem vYard_emitRecord (s : State) (rec_ : List Byte) (irq : Bool) :
    (emitRecord s rec_ irq).vYard = s.vYard := by
  unfold emitRecord
  repeat' split
  all_goals simp

@[simp] theorem vYard_reportOstler (s : State) (source code detail c : Nat) :
    (reportOstler s source code detail c).vYard = s.vYard := by simp [reportOstler, vYard_eta]

@[simp] theorem vYard_reportFault (s : State) (source code detail c lid team handle : Nat) :
    (reportFault s source code detail c lid team handle).vYard = s.vYard := by simp [reportFault]

@[simp] theorem vYard_explain (s : State) (cause : Nat) (involved : List (Nat × W128)) :
    (explain s cause involved).vYard = s.vYard := by
  unfold explain
  split <;> simp [vYard_eta]

@[simp] theorem vYard_stallFault (s : State) (p c : Nat) (team : Fin 4) (pc handle action code : Nat) :
    (stallFault s p c team pc handle action code).vYard = s.vYard := by simp [stallFault]

@[simp] theorem vYard_trigger (s : State) (c target : Nat) :
    (trigger s c target).vYard = s.vYard := by simp [trigger]

@[simp] theorem vYard_countDrop (s : State) (p c n : Nat) :
    (countDrop s p c n).vYard = s.vYard := by simp [countDrop]

@[simp] theorem vYard_writePiece (s : State) (p c : Nat) (pc : Piece) (a : Int) (words : Line) (msk : Nat) :
    (writePiece s p c pc a words msk).vYard = s.vYard := by simp [writePiece]

@[simp] theorem vYard_modCached (s : State) (p h : Nat) (f : HEntry → HEntry) :
    (modCached s p h f).vYard = s.vYard := by simp [modCached]

@[simp] theorem vYard_cacheHandle (s : State) (p c h : Nat) :
    (cacheHandle s p c h).vYard = s.vYard := by simp [cacheHandle]

@[simp] theorem vYard_poisonLocal (s : State) (p c h : Nat) :
    (poisonLocal s p c h).vYard = s.vYard := by simp [poisonLocal]

@[simp] theorem vYard_noteHalt (s : State) (p c : Nat) (t : Fin 4) (code : Nat) :
    (noteHalt s p c t code).vYard = s.vYard := by simp [noteHalt]

@[simp] theorem vYard_parityFailed (s : State) (p line words : Nat) (background : Bool) :
    (parityFailed s p line words background).vYard = s.vYard := by simp [parityFailed]

@[simp] theorem vYard_parityRead (s : State) (p c line : Nat) :
    (parityRead s p c line).vYard = s.vYard := by
  unfold parityRead
  repeat' first
    | (simp; done)
    | (with_reducible refine (vYard_foldl _ ?_ _ _).trans ?_)
    | intro _
    | split
    | dsimp only

@[simp] theorem vYard_parityPiece (s : State) (p c : Nat) (pc : Piece) (as_ : List Int) :
    (parityPiece s p c pc as_).vYard = s.vYard := by simp [parityPiece]

@[simp] theorem vYard_tallyFault (s : State) (p c : Nat) (t : Fin 4) (pc h action : Nat) :
    (tallyFault s p c t pc h action).vYard = s.vYard := by simp [tallyFault]

@[simp] theorem vYard_landLine (s : State) (q c : Nat) (to_ : LineTo) (l : Line) :
    (landLine s q c to_ l).vYard = s.vYard := by
  unfold landLine
  split <;> simp

@[simp] theorem modTeam_yard (s : State) (p : Nat) (t : Fin 4) (f : Team → Team) :
    (modTeam s p t f).yard = s.yard := (vYard_def _).symm.trans ((vYard_modTeam ..).trans (vYard_def _))

@[simp] theorem reportFault_yard (s : State) (source code detail c lid team handle : Nat) :
    (reportFault s source code detail c lid team handle).yard = s.yard := (vYard_def _).symm.trans ((vYard_reportFault
      ..).trans (vYard_def _))

@[simp] theorem explain_yard (s : State) (cause : Nat) (involved : List (Nat × W128)) :
    (explain s cause involved).yard = s.yard := (vYard_def _).symm.trans ((vYard_explain ..).trans (vYard_def _))

@[simp] theorem stallFault_yard (s : State) (p c : Nat) (team : Fin 4) (pc handle action code : Nat) :
    (stallFault s p c team pc handle action code).yard = s.yard := (vYard_def _).symm.trans ((vYard_stallFault ..).trans
      (vYard_def _))

@[simp] theorem writePiece_yard (s : State) (p c : Nat) (pc : Piece) (a : Int) (words : Line) (msk : Nat) :
    (writePiece s p c pc a words msk).yard = s.yard := (vYard_def _).symm.trans ((vYard_writePiece ..).trans (vYard_def _))

@[simp] theorem cacheHandle_yard (s : State) (p c h : Nat) :
    (cacheHandle s p c h).yard = s.yard := (vYard_def _).symm.trans ((vYard_cacheHandle ..).trans (vYard_def _))

@[simp] theorem poisonLocal_yard (s : State) (p c h : Nat) :
    (poisonLocal s p c h).yard = s.yard := (vYard_def _).symm.trans ((vYard_poisonLocal ..).trans (vYard_def _))

@[simp] theorem noteHalt_yard (s : State) (p c : Nat) (t : Fin 4) (code : Nat) :
    (noteHalt s p c t code).yard = s.yard := (vYard_def _).symm.trans ((vYard_noteHalt ..).trans (vYard_def _))

@[simp] theorem parityPiece_yard (s : State) (p c : Nat) (pc : Piece) (as_ : List Int) :
    (parityPiece s p c pc as_).yard = s.yard := (vYard_def _).symm.trans ((vYard_parityPiece ..).trans (vYard_def _))

@[simp] theorem tallyFault_yard (s : State) (p c : Nat) (t : Fin 4) (pc h action : Nat) :
    (tallyFault s p c t pc h action).yard = s.yard := (vYard_def _).symm.trans ((vYard_tallyFault ..).trans (vYard_def _))

@[simp] theorem landLine_yard (s : State) (q c : Nat) (to_ : LineTo) (l : Line) :
    (landLine s q c to_ l).yard = s.yard := (vYard_def _).symm.trans ((vYard_landLine ..).trans (vYard_def _))

/-! ### The number of the next message -/

@[simp] theorem vMsgSeq_foldl {β : Type} (g : State → β → State) (h : ∀ s b, (g s b).vMsgSeq = s.vMsgSeq) (l : List β) (s :
      State) :
    (l.foldl g s).vMsgSeq = s.vMsgSeq := by
  induction l generalizing s with
  | nil => rfl
  | cons b l ih => exact (ih (g s b)).trans (h s b)

@[simp] theorem vMsgSeq_csrPut (s : State) (off : Nat) (v : W64) :
    (csrPut s off v).vMsgSeq = s.vMsgSeq := by simp [csrPut, vMsgSeq_eta]

@[simp] theorem vMsgSeq_csrSetField (s : State) (off hi lo v : Nat) :
    (csrSetField s off hi lo v).vMsgSeq = s.vMsgSeq := by simp [csrSetField]

@[simp] theorem vMsgSeq_bumpBy (s : State) (off wrapOff wrapBit n : Nat) :
    (bumpBy s off wrapOff wrapBit n).vMsgSeq = s.vMsgSeq := by simp [bumpBy]

@[simp] theorem vMsgSeq_bump (s : State) (off wrapOff wrapBit : Nat) :
    (bump s off wrapOff wrapBit).vMsgSeq = s.vMsgSeq := by simp [bump]

@[simp] theorem vMsgSeq_recordFirst (s : State) (off v : Nat) :
    (recordFirst s off v).vMsgSeq = s.vMsgSeq := by simp [recordFirst]

@[simp] theorem vMsgSeq_yardCount (s : State) (i n : Nat) :
    (yardCount s i n).vMsgSeq = s.vMsgSeq := by simp [yardCount]

@[simp] theorem vMsgSeq_recCount (s : State) (i : Nat) :
    (recCount s i).vMsgSeq = s.vMsgSeq := by simp [recCount]

@[simp] theorem vMsgSeq_rlCount (s : State) (n i k : Nat) :
    (rlCount s n i k).vMsgSeq = s.vMsgSeq := by simp [rlCount]

@[simp] theorem vMsgSeq_setStall (s : State) (p : Nat) (x : Stall) :
    (setStall s p x).vMsgSeq = s.vMsgSeq := by simp [setStall, vMsgSeq_eta]

@[simp] theorem vMsgSeq_modStall (s : State) (p : Nat) (f : Stall → Stall) :
    (modStall s p f).vMsgSeq = s.vMsgSeq := by simp [modStall]

@[simp] theorem vMsgSeq_modRec (s : State) (c : Nat) (f : Rec → Rec) :
    (modRec s c f).vMsgSeq = s.vMsgSeq := by simp [modRec, vMsgSeq_eta]

@[simp] theorem vMsgSeq_setLoft (s : State) (p line : Nat) (v : LoftLine) :
    (setLoft s p line v).vMsgSeq = s.vMsgSeq := by simp [setLoft, vMsgSeq_eta]

@[simp] theorem vMsgSeq_loftWrite (s : State) (p line c : Nat) (words : Line) (mask : Nat) :
    (loftWrite s p line c words mask).vMsgSeq = s.vMsgSeq := by simp [loftWrite]

@[simp] theorem vMsgSeq_modPort (s : State) (n : Nat) (f : Port → Port) :
    (modPort s n f).vMsgSeq = s.vMsgSeq := by simp [modPort, vMsgSeq_eta]

@[simp] theorem vMsgSeq_wireFlit (s : State) (n : Nat) (b : List Byte) (seq : BitVec 16) :
    (wireFlit s n b seq).vMsgSeq = s.vMsgSeq := by simp [wireFlit, vMsgSeq_eta]

theorem vMsgSeq_sendOne (s t : State) (n : Nat) (h : sendOne s n = some t) : t.vMsgSeq = s.vMsgSeq := by
  unfold sendOne at h
  dsimp only at h
  split at h
  · cases h
  · split at h
    · cases h
    · cases h
      simp

@[simp] theorem vMsgSeq_pump (k : Nat) (s : State) (n : Nat) : (pump k s n).vMsgSeq = s.vMsgSeq := by
  induction k generalizing s with
  | zero => rfl
  | succ k ih =>
    unfold pump
    split
    · rw [ih]
      exact vMsgSeq_sendOne _ _ _ ‹_›
    · rfl

@[simp] theorem vMsgSeq_pumpPort (s : State) (n : Nat) : (pumpPort s n).vMsgSeq = s.vMsgSeq := by simp [pumpPort]

@[simp] theorem vMsgSeq_sendFlit (s : State) (via : Nat) (b : List Byte) :
    (sendFlit s via b).vMsgSeq = s.vMsgSeq := by
  unfold sendFlit
  repeat' split
  all_goals simp [vMsgSeq_eta]

@[simp] theorem vMsgSeq_dbStore (s : State) (type c : Nat) (payload : List Byte) :
    (dbStore s type c payload).vMsgSeq = s.vMsgSeq := by simp [dbStore, vMsgSeq_eta]

@[simp] theorem vMsgSeq_dbAppend (s : State) (type c : Nat) (payload : List Byte) :
    (dbAppend s type c payload).vMsgSeq = s.vMsgSeq := by simp [dbAppend, vMsgSeq_eta]

@[simp] theorem vMsgSeq_dbFault (s : State) (c code lid team handle : Nat) :
    (dbFault s c code lid team handle).vMsgSeq = s.vMsgSeq := by simp [dbFault]

@[simp] theorem vMsgSeq_raiseIrq (s : State) (fn vec : Nat) :
    (raiseIrq s fn vec).vMsgSeq = s.vMsgSeq := by simp [raiseIrq, vMsgSeq_eta]

@[simp] theorem vMsgSeq_ghRecord (s : State) (r : Nat) (rec_ : List Byte) (irq : Bool) (vf vfVec : Nat) :
    (ghRecord s r rec_ irq vf vfVec).vMsgSeq = s.vMsgSeq := by simp [ghRecord, vMsgSeq_eta]

@[simp] theorem vMsgSeq_ghNote (s : State) (ring : Nat) (rec_ : List Byte) :
    (ghNote s ring rec_).vMsgSeq = s.vMsgSeq := by
  unfold ghNote
  repeat' first
    | (simp [vMsgSeq_eta]; done)
    | (with_reducible refine (vMsgSeq_foldl _ ?_ _ _).trans ?_)
    | intro _
    | split
    | dsimp only

@[simp] theorem vMsgSeq_ghDeliver (s : State) (m : Nat) (rec_ : List Byte) (irq : Bool) :
    (ghDeliver s m rec_ irq).vMsgSeq = s.vMsgSeq := by simp [ghDeliver]

@[simp] theorem vMsgSeq_emitRecord (s : State) (rec_ : List Byte) (irq : Bool) :
    (emitRecord s rec_ irq).vMsgSeq = s.vMsgSeq := by
  unfold emitRecord
  repeat' split
  all_goals simp

@[simp] theorem vMsgSeq_reportOstler (s : State) (source code detail c : Nat) :
    (reportOstler s source code detail c).vMsgSeq = s.vMsgSeq := by simp [reportOstler, vMsgSeq_eta]

@[simp] theorem vMsgSeq_reportFault (s : State) (source code detail c lid team handle : Nat) :
    (reportFault s source code detail c lid team handle).vMsgSeq = s.vMsgSeq := by simp [reportFault]

@[simp] theorem vMsgSeq_stallFault (s : State) (p c : Nat) (team : Fin 4) (pc handle action code : Nat) :
    (stallFault s p c team pc handle action code).vMsgSeq = s.vMsgSeq := by simp [stallFault]

@[simp] theorem vMsgSeq_trigger (s : State) (c target : Nat) :
    (trigger s c target).vMsgSeq = s.vMsgSeq := by simp [trigger]

@[simp] theorem vMsgSeq_countDrop (s : State) (p c n : Nat) :
    (countDrop s p c n).vMsgSeq = s.vMsgSeq := by simp [countDrop]

@[simp] theorem vMsgSeq_writePiece (s : State) (p c : Nat) (pc : Piece) (a : Int) (words : Line) (msk : Nat) :
    (writePiece s p c pc a words msk).vMsgSeq = s.vMsgSeq := by simp [writePiece]

@[simp] theorem vMsgSeq_modCached (s : State) (p h : Nat) (f : HEntry → HEntry) :
    (modCached s p h f).vMsgSeq = s.vMsgSeq := by simp [modCached]

@[simp] theorem vMsgSeq_cacheHandle (s : State) (p c h : Nat) :
    (cacheHandle s p c h).vMsgSeq = s.vMsgSeq := by simp [cacheHandle]

@[simp] theorem vMsgSeq_poisonLocal (s : State) (p c h : Nat) :
    (poisonLocal s p c h).vMsgSeq = s.vMsgSeq := by simp [poisonLocal]

@[simp] theorem vMsgSeq_noteHalt (s : State) (p c : Nat) (t : Fin 4) (code : Nat) :
    (noteHalt s p c t code).vMsgSeq = s.vMsgSeq := by simp [noteHalt]

@[simp] theorem vMsgSeq_parityFailed (s : State) (p line words : Nat) (background : Bool) :
    (parityFailed s p line words background).vMsgSeq = s.vMsgSeq := by simp [parityFailed]

@[simp] theorem vMsgSeq_parityRead (s : State) (p c line : Nat) :
    (parityRead s p c line).vMsgSeq = s.vMsgSeq := by
  unfold parityRead
  repeat' first
    | (simp; done)
    | (with_reducible refine (vMsgSeq_foldl _ ?_ _ _).trans ?_)
    | intro _
    | split
    | dsimp only

@[simp] theorem vMsgSeq_parityPiece (s : State) (p c : Nat) (pc : Piece) (as_ : List Int) :
    (parityPiece s p c pc as_).vMsgSeq = s.vMsgSeq := by simp [parityPiece]

@[simp] theorem vMsgSeq_tallyFault (s : State) (p c : Nat) (t : Fin 4) (pc h action : Nat) :
    (tallyFault s p c t pc h action).vMsgSeq = s.vMsgSeq := by simp [tallyFault]

@[simp] theorem vMsgSeq_landLine (s : State) (q c : Nat) (to_ : LineTo) (l : Line) :
    (landLine s q c to_ l).vMsgSeq = s.vMsgSeq := by
  unfold landLine
  split <;> simp

@[simp] theorem yardCount_msgSeq (s : State) (i n : Nat) :
    (yardCount s i n).msgSeq = s.msgSeq := (vMsgSeq_def _).symm.trans ((vMsgSeq_yardCount ..).trans (vMsgSeq_def _))

@[simp] theorem stallFault_msgSeq (s : State) (p c : Nat) (team : Fin 4) (pc handle action code : Nat) :
    (stallFault s p c team pc handle action code).msgSeq = s.msgSeq := (vMsgSeq_def _).symm.trans ((vMsgSeq_stallFault
      ..).trans (vMsgSeq_def _))

@[simp] theorem poisonLocal_msgSeq (s : State) (p c h : Nat) :
    (poisonLocal s p c h).msgSeq = s.msgSeq := (vMsgSeq_def _).symm.trans ((vMsgSeq_poisonLocal ..).trans (vMsgSeq_def _))

@[simp] theorem noteHalt_msgSeq (s : State) (p c : Nat) (t : Fin 4) (code : Nat) :
    (noteHalt s p c t code).msgSeq = s.msgSeq := (vMsgSeq_def _).symm.trans ((vMsgSeq_noteHalt ..).trans (vMsgSeq_def _))

@[simp] theorem parityPiece_msgSeq (s : State) (p c : Nat) (pc : Piece) (as_ : List Int) :
    (parityPiece s p c pc as_).msgSeq = s.msgSeq := (vMsgSeq_def _).symm.trans ((vMsgSeq_parityPiece ..).trans (vMsgSeq_def _))

@[simp] theorem tallyFault_msgSeq (s : State) (p c : Nat) (t : Fin 4) (pc h action : Nat) :
    (tallyFault s p c t pc h action).msgSeq = s.msgSeq := (vMsgSeq_def _).symm.trans ((vMsgSeq_tallyFault ..).trans
      (vMsgSeq_def _))

@[simp] theorem landLine_msgSeq (s : State) (q c : Nat) (to_ : LineTo) (l : Line) :
    (landLine s q c to_ l).msgSeq = s.msgSeq := (vMsgSeq_def _).symm.trans ((vMsgSeq_landLine ..).trans (vMsgSeq_def _))

/-! ### The contexts -/

@[simp] theorem vCtxs_setStall (s : State) (p : Nat) (x : Stall) :
    (setStall s p x).vCtxs = s.vCtxs := by simp [setStall, vCtxs_eta]

@[simp] theorem vCtxs_modStall (s : State) (p : Nat) (f : Stall → Stall) :
    (modStall s p f).vCtxs = s.vCtxs := by simp [modStall]

@[simp] theorem vCtxs_send (s : State) (src dst : Node) (net : Net) (c : Nat) (b : Body) :
    (send s src dst net c b).vCtxs = s.vCtxs := by simp [send, vCtxs_eta]

@[simp] theorem vCtxs_sendPlain (s : State) (n type : Nat) :
    (sendPlain s n type).vCtxs = s.vCtxs := by simp [sendPlain]

@[simp] theorem vCtxs_explain (s : State) (cause : Nat) (involved : List (Nat × W128)) :
    (explain s cause involved).vCtxs = s.vCtxs := by
  unfold explain
  split <;> simp [vCtxs_eta]

@[simp] theorem vCtxs_stallFault (s : State) (p c : Nat) (team : Fin 4) (pc handle action code : Nat) :
    (stallFault s p c team pc handle action code).vCtxs = s.vCtxs := by simp [stallFault]

@[simp] theorem vCtxs_cacheHandle (s : State) (p c h : Nat) :
    (cacheHandle s p c h).vCtxs = s.vCtxs := by simp [cacheHandle]

@[simp] theorem vCtxs_returnCredits (k : Nat) (s : State) (n : Nat) : (returnCredits k s n).vCtxs = s.vCtxs := by
  induction k generalizing s with
  | zero => rfl
  | succ k ih =>
    unfold returnCredits
    split
    · rfl
    · rw [ih]
      simp

@[simp] theorem vCtxs_settle (s : State) (n : Nat) :
    (settle s n).vCtxs = s.vCtxs := by simp [settle]

@[simp] theorem vCtxs_freePlace (s : State) (n place : Nat) :
    (freePlace s n place).vCtxs = s.vCtxs := by simp [freePlace]

@[simp] theorem vCtxs_consume (s : State) (i : Nat) (h : Held) :
    (consume s i h).vCtxs = s.vCtxs := by simp [consume, vCtxs_eta]

@[simp] theorem vCtxs_ackTo (s : State) (q c id : Nat) (ack : Option Nat) :
    (ackTo s q c id ack).vCtxs = s.vCtxs := by
  unfold ackTo
  split <;> simp

@[simp] theorem vCtxs_sendToken (s : State) (c id dst phase kind : Nat) :
    (sendToken s c id dst phase kind).vCtxs = s.vCtxs := by simp [sendToken]

@[simp] theorem ctx_recCount (s : State) (i : Nat) (j₀ : Nat) :
    ctx (recCount s i) j₀ = ctx s j₀ := congrArg (nget ({} : Ctx) · j₀) ((vCtxs_def _).symm.trans ((vCtxs_recCount ..).trans
      (vCtxs_def _)))

@[simp] theorem ctx_modStall (s : State) (p : Nat) (f : Stall → Stall) (j₀ : Nat) :
    ctx (modStall s p f) j₀ = ctx s j₀ := congrArg (nget ({} : Ctx) · j₀) ((vCtxs_def _).symm.trans ((vCtxs_modStall
      ..).trans (vCtxs_def _)))

@[simp] theorem ctx_reportFault (s : State) (source code detail c lid team handle : Nat) (j₀ : Nat) :
    ctx (reportFault s source code detail c lid team handle) j₀ = ctx s j₀ := congrArg (nget ({} : Ctx) · j₀) ((vCtxs_def
      _).symm.trans ((vCtxs_reportFault ..).trans (vCtxs_def _)))

@[simp] theorem ctx_explain (s : State) (cause : Nat) (involved : List (Nat × W128)) (j₀ : Nat) :
    ctx (explain s cause involved) j₀ = ctx s j₀ := congrArg (nget ({} : Ctx) · j₀) ((vCtxs_def _).symm.trans ((vCtxs_explain
      ..).trans (vCtxs_def _)))

@[simp] theorem ctx_stallFault (s : State) (p c : Nat) (team : Fin 4) (pc handle action code : Nat) (j₀ : Nat) :
    ctx (stallFault s p c team pc handle action code) j₀ = ctx s j₀ := congrArg (nget ({} : Ctx) · j₀) ((vCtxs_def
      _).symm.trans ((vCtxs_stallFault ..).trans (vCtxs_def _)))

@[simp] theorem ctx_trigger (s : State) (c target : Nat) (j₀ : Nat) :
    ctx (trigger s c target) j₀ = ctx s j₀ := congrArg (nget ({} : Ctx) · j₀) ((vCtxs_def _).symm.trans ((vCtxs_trigger
      ..).trans (vCtxs_def _)))

@[simp] theorem ctx_cacheHandle (s : State) (p c h : Nat) (j₀ : Nat) :
    ctx (cacheHandle s p c h) j₀ = ctx s j₀ := congrArg (nget ({} : Ctx) · j₀) ((vCtxs_def _).symm.trans ((vCtxs_cacheHandle
      ..).trans (vCtxs_def _)))

@[simp] theorem ctx_consume (s : State) (i : Nat) (h : Held) (j₀ : Nat) :
    ctx (consume s i h) j₀ = ctx s j₀ := congrArg (nget ({} : Ctx) · j₀) ((vCtxs_def _).symm.trans ((vCtxs_consume ..).trans
      (vCtxs_def _)))

@[simp] theorem ctx_ackTo (s : State) (q c id : Nat) (ack : Option Nat) (j₀ : Nat) :
    ctx (ackTo s q c id ack) j₀ = ctx s j₀ := congrArg (nget ({} : Ctx) · j₀) ((vCtxs_def _).symm.trans ((vCtxs_ackTo
      ..).trans (vCtxs_def _)))

@[simp] theorem ctx_sendToken (s : State) (c id dst phase kind : Nat) (j₀ : Nat) :
    ctx (sendToken s c id dst phase kind) j₀ = ctx s j₀ := congrArg (nget ({} : Ctx) · j₀) ((vCtxs_def _).symm.trans
      ((vCtxs_sendToken ..).trans (vCtxs_def _)))

/-! ### The Loft -/

@[simp] theorem vLoft_foldl {β : Type} (g : State → β → State) (h : ∀ s b, (g s b).vLoft = s.vLoft) (l : List β) (s : State) :
    (l.foldl g s).vLoft = s.vLoft := by
  induction l generalizing s with
  | nil => rfl
  | cons b l ih => exact (ih (g s b)).trans (h s b)

@[simp] theorem vLoft_yardCount (s : State) (i n : Nat) :
    (yardCount s i n).vLoft = s.vLoft := by simp [yardCount]

@[simp] theorem vLoft_recCount (s : State) (i : Nat) :
    (recCount s i).vLoft = s.vLoft := by simp [recCount]

@[simp] theorem vLoft_setStall (s : State) (p : Nat) (x : Stall) :
    (setStall s p x).vLoft = s.vLoft := by simp [setStall, vLoft_eta]

@[simp] theorem vLoft_modStall (s : State) (p : Nat) (f : Stall → Stall) :
    (modStall s p f).vLoft = s.vLoft := by simp [modStall]

@[simp] theorem vLoft_setCtx (s : State) (c : Nat) (x : Ctx) :
    (setCtx s c x).vLoft = s.vLoft := by simp [setCtx, vLoft_eta]

@[simp] theorem vLoft_modCtx (s : State) (c : Nat) (f : Ctx → Ctx) :
    (modCtx s c f).vLoft = s.vLoft := by simp [modCtx]

@[simp] theorem vLoft_send (s : State) (src dst : Node) (net : Net) (c : Nat) (b : Body) :
    (send s src dst net c b).vLoft = s.vLoft := by simp [send, vLoft_eta]

@[simp] theorem vLoft_stallFault (s : State) (p c : Nat) (team : Fin 4) (pc handle action code : Nat) :
    (stallFault s p c team pc handle action code).vLoft = s.vLoft := by simp [stallFault]

@[simp] theorem vLoft_modCached (s : State) (p h : Nat) (f : HEntry → HEntry) :
    (modCached s p h f).vLoft = s.vLoft := by simp [modCached]

@[simp] theorem vLoft_cacheHandle (s : State) (p c h : Nat) :
    (cacheHandle s p c h).vLoft = s.vLoft := by simp [cacheHandle]

@[simp] theorem vLoft_poisonLocal (s : State) (p c h : Nat) :
    (poisonLocal s p c h).vLoft = s.vLoft := by simp [poisonLocal]

@[simp] theorem vLoft_noteHalt (s : State) (p c : Nat) (t : Fin 4) (code : Nat) :
    (noteHalt s p c t code).vLoft = s.vLoft := by simp [noteHalt]

@[simp] theorem vLoft_parityRead (s : State) (p c line : Nat) :
    (parityRead s p c line).vLoft = s.vLoft := by
  unfold parityRead
  repeat' first
    | (simp; done)
    | (with_reducible refine (vLoft_foldl _ ?_ _ _).trans ?_)
    | intro _
    | split
    | dsimp only

@[simp] theorem vLoft_parityPiece (s : State) (p c : Nat) (pc : Piece) (as_ : List Int) :
    (parityPiece s p c pc as_).vLoft = s.vLoft := by simp [parityPiece]

@[simp] theorem vLoft_sendBulk (s : State) (src dst : Node) (net : Net) (c : Nat) (b : Body) (lines : Nat) :
    (sendBulk s src dst net c b lines).vLoft = s.vLoft := by simp [sendBulk]

@[simp] theorem vLoft_tallyFault (s : State) (p c : Nat) (t : Fin 4) (pc h action : Nat) :
    (tallyFault s p c t pc h action).vLoft = s.vLoft := by simp [tallyFault]

@[simp] theorem vLoft_ackTo (s : State) (q c id : Nat) (ack : Option Nat) :
    (ackTo s q c id ack).vLoft = s.vLoft := by
  unfold ackTo
  split <;> simp

@[simp] theorem yardCount_loft (s : State) (i n : Nat) :
    (yardCount s i n).loft = s.loft := (vLoft_def _).symm.trans ((vLoft_yardCount ..).trans (vLoft_def _))

@[simp] theorem recCount_loft (s : State) (i : Nat) :
    (recCount s i).loft = s.loft := (vLoft_def _).symm.trans ((vLoft_recCount ..).trans (vLoft_def _))

@[simp] theorem stallFault_loft (s : State) (p c : Nat) (team : Fin 4) (pc handle action code : Nat) :
    (stallFault s p c team pc handle action code).loft = s.loft := (vLoft_def _).symm.trans ((vLoft_stallFault ..).trans
      (vLoft_def _))

@[simp] theorem trigger_loft (s : State) (c target : Nat) :
    (trigger s c target).loft = s.loft := (vLoft_def _).symm.trans ((vLoft_trigger ..).trans (vLoft_def _))

@[simp] theorem poisonLocal_loft (s : State) (p c h : Nat) :
    (poisonLocal s p c h).loft = s.loft := (vLoft_def _).symm.trans ((vLoft_poisonLocal ..).trans (vLoft_def _))

@[simp] theorem noteHalt_loft (s : State) (p c : Nat) (t : Fin 4) (code : Nat) :
    (noteHalt s p c t code).loft = s.loft := (vLoft_def _).symm.trans ((vLoft_noteHalt ..).trans (vLoft_def _))

@[simp] theorem parityPiece_loft (s : State) (p c : Nat) (pc : Piece) (as_ : List Int) :
    (parityPiece s p c pc as_).loft = s.loft := (vLoft_def _).symm.trans ((vLoft_parityPiece ..).trans (vLoft_def _))

@[simp] theorem sendBulk_loft (s : State) (src dst : Node) (net : Net) (c : Nat) (b : Body) (lines : Nat) :
    (sendBulk s src dst net c b lines).loft = s.loft := (vLoft_def _).symm.trans ((vLoft_sendBulk ..).trans (vLoft_def _))

@[simp] theorem tallyFault_loft (s : State) (p c : Nat) (t : Fin 4) (pc h action : Nat) :
    (tallyFault s p c t pc h action).loft = s.loft := (vLoft_def _).symm.trans ((vLoft_tallyFault ..).trans (vLoft_def _))

@[simp] theorem ackTo_loft (s : State) (q c id : Nat) (ack : Option Nat) :
    (ackTo s q c id ack).loft = s.loft := (vLoft_def _).symm.trans ((vLoft_ackTo ..).trans (vLoft_def _))

/-! ### The Yardmaster -/

@[simp] theorem vYm_rlCount (s : State) (n i k : Nat) :
    (rlCount s n i k).vYm = s.vYm := by simp [rlCount]

@[simp] theorem vYm_modPort (s : State) (n : Nat) (f : Port → Port) :
    (modPort s n f).vYm = s.vYm := by simp [modPort, vYm_eta]

@[simp] theorem vYm_wireFlit (s : State) (n : Nat) (b : List Byte) (seq : BitVec 16) :
    (wireFlit s n b seq).vYm = s.vYm := by simp [wireFlit, vYm_eta]

theorem vYm_sendOne (s t : State) (n : Nat) (h : sendOne s n = some t) : t.vYm = s.vYm := by
  unfold sendOne at h
  dsimp only at h
  split at h
  · cases h
  · split at h
    · cases h
    · cases h
      simp

@[simp] theorem vYm_pump (k : Nat) (s : State) (n : Nat) : (pump k s n).vYm = s.vYm := by
  induction k generalizing s with
  | zero => rfl
  | succ k ih =>
    unfold pump
    split
    · rw [ih]
      exact vYm_sendOne _ _ _ ‹_›
    · rfl

@[simp] theorem vYm_pumpPort (s : State) (n : Nat) : (pumpPort s n).vYm = s.vYm := by simp [pumpPort]

@[simp] theorem vYm_sendPlain (s : State) (n type : Nat) :
    (sendPlain s n type).vYm = s.vYm := by simp [sendPlain]

@[simp] theorem vYm_sendFlit (s : State) (via : Nat) (b : List Byte) :
    (sendFlit s via b).vYm = s.vYm := by
  unfold sendFlit
  repeat' split
  all_goals simp [vYm_eta]

@[simp] theorem vYm_modCached (s : State) (p h : Nat) (f : HEntry → HEntry) :
    (modCached s p h f).vYm = s.vYm := by simp [modCached]

@[simp] theorem vYm_cacheHandle (s : State) (p c h : Nat) :
    (cacheHandle s p c h).vYm = s.vYm := by simp [cacheHandle]

@[simp] theorem vYm_poisonLocal (s : State) (p c h : Nat) :
    (poisonLocal s p c h).vYm = s.vYm := by simp [poisonLocal]

@[simp] theorem vYm_returnCredits (k : Nat) (s : State) (n : Nat) : (returnCredits k s n).vYm = s.vYm := by
  induction k generalizing s with
  | zero => rfl
  | succ k ih =>
    unfold returnCredits
    split
    · rfl
    · rw [ih]
      simp

@[simp] theorem vYm_settle (s : State) (n : Nat) :
    (settle s n).vYm = s.vYm := by simp [settle]

@[simp] theorem vYm_freePlace (s : State) (n place : Nat) :
    (freePlace s n place).vYm = s.vYm := by simp [freePlace]

@[simp] theorem vYm_consume (s : State) (i : Nat) (h : Held) :
    (consume s i h).vYm = s.vYm := by simp [consume, vYm_eta]

@[simp] theorem vYm_sendToken (s : State) (c id dst phase kind : Nat) :
    (sendToken s c id dst phase kind).vYm = s.vYm := by simp [sendToken]

@[simp] theorem poisonLocal_ym (s : State) (p c h : Nat) :
    (poisonLocal s p c h).ym = s.ym := (vYm_def _).symm.trans ((vYm_poisonLocal ..).trans (vYm_def _))

@[simp] theorem consume_ym (s : State) (i : Nat) (h : Held) :
    (consume s i h).ym = s.ym := (vYm_def _).symm.trans ((vYm_consume ..).trans (vYm_def _))

@[simp] theorem sendToken_ym (s : State) (c id dst phase kind : Nat) :
    (sendToken s c id dst phase kind).ym = s.ym := (vYm_def _).symm.trans ((vYm_sendToken ..).trans (vYm_def _))

/-! ### The positions -/

@[simp] theorem vPositions_sendPlain (s : State) (n type : Nat) :
    (sendPlain s n type).vPositions = s.vPositions := by simp [sendPlain]

@[simp] theorem vPositions_returnCredits (k : Nat) (s : State) (n : Nat) : (returnCredits k s n).vPositions = s.vPositions := by
  induction k generalizing s with
  | zero => rfl
  | succ k ih =>
    unfold returnCredits
    split
    · rfl
    · rw [ih]
      simp

@[simp] theorem vPositions_settle (s : State) (n : Nat) :
    (settle s n).vPositions = s.vPositions := by simp [settle]

@[simp] theorem vPositions_freePlace (s : State) (n place : Nat) :
    (freePlace s n place).vPositions = s.vPositions := by simp [freePlace]

@[simp] theorem vPositions_consume (s : State) (i : Nat) (h : Held) :
    (consume s i h).vPositions = s.vPositions := by simp [consume, vPositions_eta]

@[simp] theorem vPositions_sendToken (s : State) (c id dst phase kind : Nat) :
    (sendToken s c id dst phase kind).vPositions = s.vPositions := by simp [sendToken]

@[simp] theorem position_yardCount (s : State) (i n : Nat) (j₀ : Nat) :
    position (yardCount s i n) j₀ = position s j₀ := congrArg (nget ({} : Pos) · j₀) ((vPositions_def _).symm.trans
      ((vPositions_yardCount ..).trans (vPositions_def _)))

@[simp] theorem consume_positions (s : State) (i : Nat) (h : Held) :
    (consume s i h).positions = s.positions := (vPositions_def _).symm.trans ((vPositions_consume ..).trans (vPositions_def _))

@[simp] theorem position_consume (s : State) (i : Nat) (h : Held) (j₀ : Nat) :
    position (consume s i h) j₀ = position s j₀ := congrArg (nget ({} : Pos) · j₀) ((vPositions_def _).symm.trans
      ((vPositions_consume ..).trans (vPositions_def _)))

@[simp] theorem sendToken_positions (s : State) (c id dst phase kind : Nat) :
    (sendToken s c id dst phase kind).positions = s.positions := (vPositions_def _).symm.trans ((vPositions_sendToken
      ..).trans (vPositions_def _))

end Sys2Proof.Machine
end

section
/-!
PROOFS. Handle caches, and what arrives at a stall: lines and words (O24), messages about handles (O26), copies and returns (O25).
-/

namespace Sys2Proof.Machine

/-! ### Handle caches and local poison (R54, R61, R93) -/

theorem cached_modCached_same (s : State) (p h : Nat) (f : HEntry → HEntry) : cached (modCached s p h f) p h = (cached s p h).map f := by
  rw [cached, modCached, stall_modStall_same, nget_nmod_same, cached]

theorem stall_modCached_other {s : State} {p q : Nat} (hq : q ≠ p) (h : Nat) (f : HEntry → HEntry) :
    stall (modCached s p h f) q = stall s q := stall_modStall_other _ hq ..

theorem live_modCached (s : State) (p h : Nat) (f : HEntry → HEntry) (q : Nat) : (stall (modCached s p h f) q).live = (stall s q).live :=
  live_modStall s p q fun _ => rfl

theorem stall_cacheHandle_other {s : State} {p q : Nat} (hq : q ≠ p) (c h : Nat) : stall (cacheHandle s p c h) q = stall s q :=
  stall_modStall_other _ hq ..

theorem stall_poisonLocal_other {s : State} {p q : Nat} (hq : q ≠ p) (c h : Nat) : stall (poisonLocal s p c h) q = stall s q := by
  have fetched : stall (if (cached s p h).isSome then s else cacheHandle s p c h) q = stall s q := by
    split
    · rfl
    · exact stall_cacheHandle_other hq c h
  unfold poisonLocal
  dsimp only
  generalize (if (cached s p h).isSome then s else cacheHandle s p c h) = v at fetched
  split
  · exact (stall_modCached_other hq ..).trans fetched
  · exact fetched

/-- The entry that gives way in a handle cache: of those that are not pinned the one used longest ago, as the cache looks for it. -/
def longestUnused (b : Option (Nat × Nat)) (e : Nat × Option HEntry) : Option (Nat × Nat) :=
  match e.2 with
  | some v => if v.pinned then b else match b with
    | none => some (e.1, v.use)
    | some (k, u) => if v.use < u then some (e.1, v.use) else some (k, u)
  | none => b

theorem longestUnused_isSome {b : Option (Nat × Nat)} (h : b.isSome = true) (e : Nat × Option HEntry) :
    (longestUnused b e).isSome = true := by
  obtain ⟨⟨k, u⟩, rfl⟩ := Option.isSome_iff_exists.mp h
  unfold longestUnused
  split
  · split
    · rfl
    · dsimp only
      split <;> rfl
  · rfl

theorem foldl_longestUnused_isSome {b : Option (Nat × Nat)} (h : b.isSome = true) (m : NMap (Option HEntry)) :
    (m.foldl longestUnused b).isSome = true := by
  induction m generalizing b with
  | nil => exact h
  | cons e m ih => exact ih (longestUnused_isSome h e)

theorem longestUnused_of_unpinned (b : Option (Nat × Nat)) (k : Nat) {v : HEntry} (free : v.pinned = false) :
    (longestUnused b (k, some v)).isSome = true := by
  cases b with
  | none => simp [longestUnused, free]
  | some b => exact longestUnused_isSome rfl _

theorem foldl_longestUnused_of_mem {m : NMap (Option HEntry)} {k : Nat} {v : HEntry} (mem : (k, some v) ∈ m) (free : v.pinned = false)
    (b : Option (Nat × Nat)) : (m.foldl longestUnused b).isSome = true := by
  induction m generalizing b with
  | nil => cases mem
  | cons e m ih =>
    obtain rfl | mem := List.mem_cons.mp mem
    · exact foldl_longestUnused_isSome (longestUnused_of_unpinned b k free) m
    · exact ih mem _

/-- A handle that has room in a cache enters it. -/
theorem cached_cacheHandle {s : State} {p : Nat} (c : Nat) {h : Nat} (room : cacheRoom s p) :
    ∃ use, cached (cacheHandle s p c h) p h = some ⟨(nget {} (ctx s c).handles h).record, (nget {} (ctx s c).handles h).valid,
      (nget {} (ctx s c).handles h).poison, false, use⟩ := by
  refine ⟨(stall s p).useNext, ?_⟩
  rw [cached, cacheHandle, stall_modStall_same]
  dsimp only
  split
  · dsimp only
    rw [nget_nset_same]
  · next full victim =>
    obtain few | ⟨k, v, mem, free⟩ := room
    · rw [decide_eq_false (Nat.not_le.mpr few)] at full
      cases full
    · have some_ := foldl_longestUnused_of_mem mem free none
      rw [show (stall s p).hcache.foldl longestUnused none = none from victim] at some_
      cases some_
  · dsimp only
    rw [nget_nset_same]

theorem LocallyPoisoned.congr {s u : State} {q c h : Nat} (stalls : stall u q = stall s q) (table : (ctx u c).handles = (ctx s c).handles)
    (poisoned : LocallyPoisoned s q c h) : LocallyPoisoned u q c h := by
  have same : cached u q h = cached s q h := by rw [cached, stalls, cached]
  rwa [LocallyPoisoned, same, table, ← LocallyPoisoned]

theorem locallyPoisoned_poisonLocal (s : State) (q c h : Nat) : LocallyPoisoned (poisonLocal s q c h) q c h := by
  unfold poisonLocal
  dsimp only
  generalize (if (cached s q h).isSome then s else cacheHandle s q c h) = v
  split
  · next held =>
    obtain ⟨e, he⟩ := Option.isSome_iff_exists.mp held
    exact .inl ⟨_, (cached_modCached_same ..).trans (by rw [he]; rfl), rfl⟩
  · next out =>
    refine .inr ⟨Option.not_isSome_iff_eq_none.mp out, ?_⟩
    rw [ctx_modCtx_same]
    dsimp only
    rw [nget_nmod_same]

/-- A mark of poison in the handle table stays when a stall poisons a handle. -/
theorem tablePoison_poisonLocal {s : State} {c h : Nat} (marked : (nget {} (ctx s c).handles h).poison = true) (p d k : Nat) :
    (nget {} (ctx (poisonLocal s p d k) c).handles h).poison = true := by
  have fetched : ctx (if (cached s p k).isSome then s else cacheHandle s p d k) c = ctx s c := by
    split
    · rfl
    · exact ctx_cacheHandle ..
  unfold poisonLocal
  dsimp only
  generalize (if (cached s p k).isSome then s else cacheHandle s p d k) = v at fetched
  split
  · rw [modCached, ctx_modStall, fetched, marked]
  · by_cases hc : c = d
    · subst hc
      rw [ctx_modCtx_same, fetched]
      by_cases hk : h = k
      · subst hk
        dsimp only
        rw [nget_nmod_same]
      · dsimp only
        rw [nget_nmod_other _ _ hk, marked]
    · rw [ctx_modCtx_other _ hc, fetched, marked]

theorem LocallyPoisoned.poisonLocal_other {s : State} {q c h p : Nat} (hp : q ≠ p) (poisoned : LocallyPoisoned s q c h) (d k : Nat) :
    LocallyPoisoned (poisonLocal s p d k) q c h := by
  have same : cached (poisonLocal s p d k) q h = cached s q h := by
    rw [cached, stall_poisonLocal_other hp, cached]
  rw [LocallyPoisoned, same]
  exact poisoned.imp_right fun ⟨out, marked⟩ => ⟨out, tablePoison_poisonLocal marked p d k⟩

/-! ### Lines that arrive (R270, R283, R395 to R397, R482) -/

/-- All 16 words of a line that is written whole. -/
theorem sameWords_loftWrite (s : State) (q y : Nat) {c : Nat} (hc : c < 64) (l : Line) :
    ∃ v, loftRead (loftWrite s q y c l 0xFFFF) q y c = some v ∧ SameWords v l := by
  refine ⟨_, loftRead_loftWrite s q y c hc l 0xFFFF, fun i hi => ?_⟩
  have set_ : bitOf 0xFFFF i = true := by
    have all : ∀ j : Fin 16, bitOf 0xFFFF j = true := by decide
    exact all ⟨i, hi⟩
  simp [wordAt, hi, set_]

theorem loftRead_congr {s u : State} (loft : u.loft = s.loft) (p y c : Nat) : loftRead u p y c = loftRead s p y c := by
  rw [loftRead, loftLine, loft, ← loftLine, ← loftRead]

theorem landedAt_landLine {s : State} (q : Nat) {c : Nat} (hc : c < 64) (to_ : LineTo) (l : Line) :
    LandedAt s (landLine s q c to_ l) q c to_ (clearWords (decl (imageOf s c) (lineHandle to_)) l) := by
  intro y at_
  cases to_ with
  | loft h x =>
    obtain rfl : x = y := Option.some.inj at_
    exact sameWords_loftWrite s q x hc _
  | piece h off =>
    unfold landing at at_
    dsimp only at at_
    split at at_
    · next inside =>
      obtain rfl := Option.some.inj at_
      unfold landLine
      dsimp only
      rw [writePiece, lineHandle, if_pos inside]
      exact sameWords_loftWrite s q _ hc _
    · cases at_

/-- The line that lands changes no stall but the count of drops of the one where it lands. -/
theorem stall_landLine (s : State) (q c : Nat) (to_ : LineTo) (l : Line) : (∀ r, r ≠ q → stall (landLine s q c to_ l) r = stall s r) ∧
    (stall (landLine s q c to_ l) q).live = (stall s q).live := by
  unfold landLine
  dsimp only
  cases to_ with
  | loft h x => exact ⟨fun _ _ => rfl, rfl⟩
  | piece h off =>
    dsimp only
    unfold writePiece
    split
    · exact ⟨fun _ _ => rfl, rfl⟩
    · exact ⟨fun r hr => stall_modStall_other _ hr .., live_modStall s q q fun _ => rfl⟩

/-- What a line that arrives leaves besides poison and reports: it is written at its place and acknowledged, and no stall changes but
the one it arrives at, whose saved state stays. -/
def Written (s : State) (x : Msg) (q : Nat) (to_ : LineTo) (l : Line) (ack : Option Nat) (u : State) : Prop :=
  LandedAt s u q x.ctx to_ (clearWords (decl (imageOf s x.ctx) (lineHandle to_)) l) ∧ u.yard = yardAfter s x.id (ackOf s x q ack) ∧
    (∀ r, r ≠ q → stall u r = stall s r) ∧ (stall u q).live = (stall s q).live

/-- The message of a line is gone and the line has landed, with its poison. -/
def lineLanded (s : State) (m q c : Nat) (to_ : LineTo) (l : Line) (poison : Bool) : State :=
  if poison then poisonLocal (landLine (dropMsg s m) q c to_ l) q c (lineHandle to_) else landLine (dropMsg s m) q c to_ l

theorem lineLanded_frame (s : State) (m q c : Nat) (to_ : LineTo) (l : Line) (poison : Bool) : let v := lineLanded s m q c to_ l poison
    v.loft = (landLine (dropMsg s m) q c to_ l).loft ∧ v.yard = s.yard.filter (fun y => y.id != m) ∧ v.msgSeq = s.msgSeq ∧
      recOf v c = recOf s c ∧ (∀ r, r ≠ q → stall v r = stall s r) ∧ (stall v q).live = (stall s q).live := by
  obtain ⟨others, live⟩ := stall_landLine (dropMsg s m) q c to_ l
  unfold lineLanded
  dsimp only
  split
  · refine ⟨poisonLocal_loft .., ?_, ?_, ?_, fun r hr => ?_, ?_⟩
    · rw [poisonLocal_yard, landLine_yard, dropMsg_yard]
    · rw [poisonLocal_msgSeq, landLine_msgSeq, dropMsg_msgSeq]
    · rw [recOf_poisonLocal, recOf_landLine, recOf_dropMsg]
    · rw [stall_poisonLocal_other hr, others r hr, stall_dropMsg]
    · rw [live_poisonLocal, live, stall_dropMsg]
  · refine ⟨rfl, ?_, ?_, ?_, fun r hr => ?_, ?_⟩
    · rw [landLine_yard, dropMsg_yard]
    · rw [landLine_msgSeq, dropMsg_msgSeq]
    · rw [recOf_landLine, recOf_dropMsg]
    · rw [others r hr, stall_dropMsg]
    · rw [live, stall_dropMsg]

theorem locallyPoisoned_lineLanded (s : State) (m q c : Nat) (to_ : LineTo) (l : Line) :
    LocallyPoisoned (lineLanded s m q c to_ l true) q c (lineHandle to_) := locallyPoisoned_poisonLocal ..

theorem ackTo_yard (s : State) (q c id : Nat) (ack : Option Nat) : (ackTo s q c id ack).yard = s.yard ++ match ack with
    | some p => [⟨s.msgSeq, .stall q, .stall p, .rsp, c, .ack id false false⟩]
    | none => [] := by
  cases ack with
  | none => exact (List.append_nil _).symm
  | some p => rfl

/-- A state with the loft and stalls of a landed line and its yard, once acknowledged, has the line written. -/
theorem written_ackTo {s v : State} {x : Msg} {q : Nat} {to_ : LineTo} {l : Line} (ack : Option Nat) (hc : x.ctx < 64)
    (loft : v.loft = (landLine (dropMsg s x.id) q x.ctx to_ l).loft) (yard : v.yard = s.yard.filter (fun y => y.id != x.id))
    (seq : v.msgSeq = s.msgSeq) (others : ∀ r, r ≠ q → stall v r = stall s r) (live : (stall v q).live = (stall s q).live) :
    Written s x q to_ l ack (ackTo v q x.ctx x.id ack) := by
  refine ⟨fun y at_ => ?_, ?_, fun r hr => ?_, ?_⟩
  · rw [loftRead_congr ((ackTo_loft ..).trans loft)]
    exact landedAt_landLine (s := dropMsg s x.id) q hc to_ l y at_
  · rw [ackTo_yard, yard, seq, yardAfter]
    cases ack <;> rfl
  · rw [stall_ackTo, others r hr]
  · rw [stall_ackTo, live]

theorem written_clean {s : State} {x : Msg} (q : Nat) (to_ : LineTo) (l : Line) (poison : Bool) (ack : Option Nat) (hc : x.ctx < 64) :
    let u := landWrite s x.id q x.ctx to_ l poison false ack
    Written s x q to_ l ack u ∧ (poison = true → LocallyPoisoned u q x.ctx (lineHandle to_)) := by
  intro u
  have done : u = ackTo (lineLanded s x.id q x.ctx to_ l poison) q x.ctx x.id ack := rfl
  obtain ⟨loft, yard, seq, -, others, live⟩ := lineLanded_frame s x.id q x.ctx to_ l poison
  rw [done]
  refine ⟨written_ackTo ack hc loft yard seq others live, ?_⟩
  rintro rfl
  exact (locallyPoisoned_lineLanded ..).congr (stall_ackTo ..) (congrArg Ctx.handles (ctx_ackTo ..))

/-- What a tally fault leaves: the handle is poisoned, the context has a trigger, and the fault is reported. -/
theorem tallyFault_effect (s : State) (p : Nat) {c : Nat} (hc : c < 64) (t : Fin 4) (pc h action : Nat) :
    let u := tallyFault s p c t pc h action
    (∀ r, stall u r = stall (poisonLocal s p c h) r) ∧ ctx u c = ctx (poisonLocal s p c h) c ∧
      (recOf u c).triggers = (recOf s c).triggers ++ [0] ∧ ∃ r ∈ u.reports, r.source = p ∧ r.code = 0x0802 := by
  unfold tallyFault
  refine ⟨fun r => ?_, ?_, ?_, ?_⟩
  · rw [stall_trigger, stall_recCount, stall_stallFault]
  · rw [ctx_trigger, ctx_recCount, ctx_stallFault]
  · rw [recOf_trigger hc, recOf_recCount, recOf_stallFault, recOf_poisonLocal]
  · rw [trigger_reports, recCount_reports, reports_stallFault]
    exact ⟨_, List.mem_append_right _ List.mem_cons_self, rfl, rfl⟩

theorem written_damaged {s : State} {x : Msg} (q : Nat) (to_ : LineTo) (l : Line) (poison : Bool) (ack : Option Nat) (hc : x.ctx < 64) :
    let u := landWrite s x.id q x.ctx to_ l poison true ack
    Written s x q to_ l ack u ∧ LocallyPoisoned u q x.ctx (lineHandle to_) ∧
      (recOf u x.ctx).triggers = (recOf s x.ctx).triggers ++ [0] ∧ ∃ r ∈ u.reports, r.source = q ∧ r.code = 0x0802 := by
  intro u
  obtain ⟨loft, yard, seq, recs, others, live⟩ := lineLanded_frame s x.id q x.ctx to_ l poison
  have done : u = ackTo (tallyFault (lineLanded s x.id q x.ctx to_ l poison) q x.ctx 0 0 (lineHandle to_) 0) q x.ctx x.id ack := rfl
  obtain ⟨stalls, context, triggers, reported⟩ :=
    tallyFault_effect (lineLanded s x.id q x.ctx to_ l poison) q hc 0 0 (lineHandle to_) 0
  rw [done]
  refine ⟨written_ackTo ack hc ?_ ?_ ?_ (fun r hr => ?_) ?_, ?_, ?_, ?_⟩
  · rw [tallyFault_loft, loft]
  · rw [tallyFault_yard, yard]
  · rw [tallyFault_msgSeq, seq]
  · rw [stalls, stall_poisonLocal_other hr, others r hr]
  · rw [stalls, live_poisonLocal, live]
  · exact (locallyPoisoned_poisonLocal ..).congr ((stall_ackTo ..).trans (stalls q))
      (congrArg Ctx.handles ((ctx_ackTo ..).trans context))
  · rw [recOf_ackTo, triggers, recs]
  · rw [ackTo_reports]
    exact reported

theorem landing_yardCount (s : State) {i : Nat} (hi : i < 32) (n q c : Nat) (to_ : LineTo) : landing (yardCount s i n) q c to_ = landing s q c to_ := by
  have image : imageOf (yardCount s i n) c = imageOf s c := by rw [imageOf, ctx_yardCount, imageOf]
  have device : deviceId (yardCount s i n) = deviceId s := csrField_congr (csrGet_yardCount s (off := 0x07C0000) (by decide) hi n) 14 0
  have lid : lidOf (yardCount s i n) q = lidOf s q := by rw [lidOf, position_yardCount, lidOf]
  cases to_ with
  | loft h y => rfl
  | piece h off => rw [landing, image, device, lid, landing]

theorem Written.of_yardCount {s u : State} {x : Msg} {q : Nat} {to_ : LineTo} {l : Line} {ack : Option Nat} {i n : Nat} (hi : i < 32)
    (h : Written (yardCount s i n) x q to_ l ack u) : Written s x q to_ l ack u := by
  obtain ⟨landed, yard, others, live⟩ := h
  have image : imageOf (yardCount s i n) x.ctx = imageOf s x.ctx := by rw [imageOf, ctx_yardCount, imageOf]
  refine ⟨fun y at_ => ?_, ?_, fun r hr => ?_, ?_⟩
  · rw [← image]
    exact landed y ((landing_yardCount s hi n q x.ctx to_).trans at_)
  · rw [yard, yardAfter, yardCount_yard, yardAfter]
    cases ack with
    | none => rfl
    | some p => rw [ackOf, yardCount_msgSeq, ackOf]
  · rw [others r hr, stall_yardCount]
  · rw [live, stall_yardCount]

/-- A line that has been held in LEVEL mode is counted when it is let through. -/
def letThrough (s : State) (stamp : Option W64) : State := if stamp.isSome then yardCount s 7 1 else s

theorem written_letThrough {s u : State} {x : Msg} {q : Nat} {to_ : LineTo} {l : Line} {ack : Option Nat} {stamp : Option W64}
    (h : Written (letThrough s stamp) x q to_ l ack u) : Written s x q to_ l ack u := by
  unfold letThrough at h
  split at h
  · exact h.of_yardCount (by decide)
  · exact h

theorem letThrough_frame (s : State) (stamp : Option W64) : (letThrough s stamp).yard = s.yard ∧ (letThrough s stamp).loft = s.loft ∧
    (letThrough s stamp).msgSeq = s.msgSeq ∧ (∀ c, ctx (letThrough s stamp) c = ctx s c) ∧ (∀ c, recOf (letThrough s stamp) c = recOf s c) ∧
    (∀ q, stall (letThrough s stamp) q = stall s q) ∧ runningNo (letThrough s stamp) = runningNo s := by
  unfold letThrough
  split
  · exact ⟨yardCount_yard .., yardCount_loft .., yardCount_msgSeq .., fun _ => ctx_yardCount .., fun _ => recOf_yardCount ..,
      fun _ => stall_yardCount .., by rw [runningNo, yardCount_ym, runningNo]⟩
  · exact ⟨rfl, rfl, rfl, fun _ => rfl, fun _ => rfl, fun _ => rfl, rfl⟩

/-! #### A line that the Loft bank suppresses -/

/-- The handle of a suppressed line, poisoned where the line arrived and, if it is to be acknowledged, at its sender. -/
def suppressedHandle (s : State) (m q c h : Nat) (ack : Option Nat) (by_ : Origin) : State :=
  if ack.isSome && by_.pos ≠ q then poisonLocal (poisonLocal (dropMsg s m) q c h) by_.pos c h else poisonLocal (dropMsg s m) q c h

theorem suppressedHandle_frame (s : State) (m q c h : Nat) (ack : Option Nat) (by_ : Origin) : let v := suppressedHandle s m q c h ack by_
    v.loft = s.loft ∧ v.yard = s.yard.filter (fun y => y.id != m) ∧ v.msgSeq = s.msgSeq ∧ runningNo v = runningNo s ∧
      LocallyPoisoned v q c h := by
  have poisoned := locallyPoisoned_poisonLocal (dropMsg s m) q c h
  unfold suppressedHandle
  dsimp only
  split
  · next away =>
    have away_ : q ≠ by_.pos := fun eq => by simp [eq] at away
    refine ⟨?_, ?_, ?_, ?_, poisoned.poisonLocal_other away_ c h⟩
    · rw [poisonLocal_loft, poisonLocal_loft, dropMsg_loft]
    · rw [poisonLocal_yard, poisonLocal_yard, dropMsg_yard]
    · rw [poisonLocal_msgSeq, poisonLocal_msgSeq, dropMsg_msgSeq]
    · rw [runningNo, poisonLocal_ym, poisonLocal_ym, dropMsg_ym, ← runningNo]
  · refine ⟨?_, ?_, ?_, ?_, poisoned⟩
    · rw [poisonLocal_loft, dropMsg_loft]
    · rw [poisonLocal_yard, dropMsg_yard]
    · rw [poisonLocal_msgSeq, dropMsg_msgSeq]
    · rw [runningNo, poisonLocal_ym, dropMsg_ym, ← runningNo]

/-- The Team that sent the line halts, where its context runs. -/
def senderHalted (v : State) (c : Nat) (by_ : Origin) : State :=
  if runningNo v = c then
    noteHalt (modTeam v by_.pos by_.team fun x => { x with st := .halted, cause := 0 }) by_.pos c by_.team 0x0302
  else v

theorem senderHalted_frame (v : State) (c : Nat) (by_ : Origin) : let w := senderHalted v c by_
    w.loft = v.loft ∧ w.yard = v.yard ∧ w.msgSeq = v.msgSeq ∧ (∀ q, (stall w q).hcache = (stall v q).hcache) ∧
      (ctx w c).handles = (ctx v c).handles ∧ (runningNo v = c → (getTeam (stall w by_.pos).live by_.team).st = .halted) := by
  unfold senderHalted
  dsimp only
  split
  · refine ⟨noteHalt_loft .., noteHalt_yard .., noteHalt_msgSeq .., fun q => ?_, ?_, fun _ => ?_⟩
    · rw [stall_noteHalt, modTeam]
      by_cases h : q = by_.pos
      · rw [h, stall_modStall_same]
      · rw [stall_modStall_other _ h]
    · rw [noteHalt, ctx_modCtx_same]
      rfl
    · rw [stall_noteHalt, live_modTeam_same]
  · next not_ => exact ⟨rfl, rfl, rfl, fun _ => rfl, rfl, fun eq => absurd eq not_⟩

theorem suppressLine_effect (s : State) {x : Msg} (q h : Nat) (ack : Option Nat) (by_ : Origin) :
    let u := suppressLine s x.id q x.ctx h ack by_
    u.loft = s.loft ∧ LocallyPoisoned u q x.ctx h ∧ u.yard = yardAfter s x.id (ackOf s x q ack) ∧
      (runningNo s = x.ctx → (getTeam (stall u by_.pos).live by_.team).st = .halted) ∧ ∃ r ∈ u.reports, r.source = q ∧ r.code = 0x0302 := by
  obtain ⟨loft, yard, seq, running, poisoned⟩ := suppressedHandle_frame s x.id q x.ctx h ack by_
  obtain ⟨loft', yard', seq', caches, table, halted⟩ := senderHalted_frame (suppressedHandle s x.id q x.ctx h ack by_) x.ctx by_
  unfold suppressLine
  dsimp only
  rw [← suppressedHandle, ← senderHalted]
  refine ⟨?_, ?_, ?_, fun runs => ?_, ?_⟩
  · rw [ackTo_loft, stallFault_loft, loft', loft]
  · have same (w : State) (hw : ∀ r, (stall w r).hcache = (stall (suppressedHandle s x.id q x.ctx h ack by_) r).hcache)
        (ht : (ctx w x.ctx).handles = (ctx (suppressedHandle s x.id q x.ctx h ack by_) x.ctx).handles) : LocallyPoisoned w q x.ctx h := by
      rw [LocallyPoisoned, cached_congr (hw q), ht]
      exact poisoned
    exact same _ (fun r => by rw [stall_ackTo, stall_stallFault, caches]) (by rw [ctx_ackTo, ctx_stallFault, table])
  · rw [ackTo_yard, stallFault_yard, stallFault_msgSeq, yard', yard, seq', seq, yardAfter]
    cases ack <;> rfl
  · rw [stall_ackTo, stall_stallFault]
    exact halted (running.trans runs)
  · rw [ackTo_reports, reports_stallFault]
    exact ⟨_, List.mem_append_right _ List.mem_cons_self, rfl, rfl⟩

theorem suppressLine_letThrough (s : State) {x : Msg} (q h : Nat) (stamp : Option W64) (ack : Option Nat) (by_ : Origin) :
    let u := suppressLine (letThrough s stamp) x.id q x.ctx h ack by_
    u.loft = s.loft ∧ LocallyPoisoned u q x.ctx h ∧ u.yard = yardAfter s x.id (ackOf s x q ack) ∧
      (runningNo s = x.ctx → (getTeam (stall u by_.pos).live by_.team).st = .halted) ∧ ∃ r ∈ u.reports, r.source = q ∧ r.code = 0x0302 := by
  obtain ⟨yard, loft, seq, -, -, -, running⟩ := letThrough_frame s stamp
  obtain ⟨loft', poisoned, yard', halted, reported⟩ := suppressLine_effect (letThrough s stamp) (x := x) q h ack by_
  refine ⟨loft'.trans loft, poisoned, ?_, fun runs => halted (running.trans runs), reported⟩
  rw [yard', yardAfter, yard, yardAfter]
  cases ack with
  | none => rfl
  | some p => rw [ackOf, seq, ackOf]

/-! #### The rows of lines -/

/-- What is done with a line that has been let through, by the check of its way. -/
def lineChecked (s : State) (m q c : Nat) (to_ : LineTo) (l : Line) (poison : Bool) (ack : Option Nat) (by_ : Origin) : LineCheck → State
  | .clean => landWrite s m q c to_ l poison false ack
  | .damaged => landWrite s m q c to_ l poison true ack
  | .slotViolation => suppressLine s m q c (lineHandle to_) ack by_

theorem remoteLineWrite_run {s : State} {x : Msg} {q : Nat} {to_ : LineTo} {l : Line} {poison : Bool} {stamp : Option W64}
    {ack : Option Nat} {by_ : Origin} (comes : ArrivesAt s x q) (body : x.body = .line to_ l poison stamp ack by_)
    (let_ : holdOver s stamp = true) (check : LineCheck) :
    exec (.remoteLineWrite x.id check) s = .next (lineChecked (letThrough s stamp) x.id q x.ctx to_ l poison ack by_ check) := by
  refine congrArg Host.Outcome.next ?_
  rw [comes.arriving_eq body]
  dsimp only
  rw [comes.2.2, let_, if_neg (by decide), ← letThrough]
  cases check <;> rfl

theorem remoteLineWrite_held {s : State} {x : Msg} {q : Nat} {to_ : LineTo} {l : Line} {poison : Bool} {stamp : Option W64}
    {ack : Option Nat} {by_ : Origin} (comes : ArrivesAt s x q) (body : x.body = .line to_ l poison stamp ack by_)
    (held : holdOver s stamp = false) (check : LineCheck) : exec (.remoteLineWrite x.id check) s = .next s := by
  refine congrArg Host.Outcome.next ?_
  rw [comes.arriving_eq body]
  dsimp only
  rw [held, Bool.not_false, Bool.or_true, if_pos rfl]

theorem levelHoldExpiry_run {s : State} {x : Msg} {q : Nat} {to_ : LineTo} {l : Line} {poison : Bool} {stamp : Option W64}
    {ack : Option Nat} {by_ : Origin} (comes : ArrivesAt s x q) (body : x.body = .line to_ l poison stamp ack by_)
    (some_ : stamp.isSome = true) (let_ : holdOver s stamp = true) :
    exec (.levelHoldExpiry x.id) s = .next (landWrite s x.id q x.ctx to_ l poison false ack) := by
  obtain ⟨t, rfl⟩ := Option.isSome_iff_exists.mp some_
  refine congrArg Host.Outcome.next ?_
  rw [comes.arriving_eq body]
  dsimp only
  rw [comes.2.2, let_, if_neg (by decide)]

/-! ### Flags, counters and completions that arrive (R82, R83, R271, R273, R503) -/

theorem modStallCtx_of_runsAt {s : State} {q : Nat} {x : Msg} (at_ : runsAt s q x.ctx) (f : StallCtx → StallCtx) :
    modStallCtx (dropMsg s x.id) x.ctx (lidOf s q) f = modLive (dropMsg s x.id) q f := by
  obtain ⟨running, here⟩ := at_
  rw [modStallCtx, if_pos (show runningNo (dropMsg s x.id) = x.ctx from running), show posOfLid (dropMsg s x.id) (lidOf s q) = some q from here]

theorem ackedLive {s : State} {x : Msg} {q : Nat} (ack : Option Nat) (f : StallCtx → StallCtx) :
    let u := ackTo (modLive (dropMsg s x.id) q f) q x.ctx x.id ack
    ((stall u q).live = f (stall s q).live ∧ ∀ r, r ≠ q → stall u r = stall s r) ∧ u.yard = yardAfter s x.id (ackOf s x q ack) := by
  refine ⟨⟨?_, fun r hr => ?_⟩, ?_⟩
  · rw [stall_ackTo, live_modLive_same, stall_dropMsg]
  · rw [stall_ackTo, stall_modLive_other hr, stall_dropMsg]
  · rw [ackTo_yard, yardAfter]
    cases ack <;> rfl

theorem remoteFlag_run {s : State} {x : Msg} {q : Nat} {f : BitVec 8} {v : Bool} {ack : Option Nat} (comes : ArrivesAt s x q)
    (at_ : runsAt s q x.ctx) (body : x.body = .flag f v ack) :
    exec (.remoteFlagWrite x.id) s = .next (ackTo (modLive (dropMsg s x.id) q fun y => setFlag y f v) q x.ctx x.id ack) := by
  refine congrArg Host.Outcome.next ?_
  rw [comes.arriving_eq body]
  dsimp only
  rw [comes.2.2, if_neg (by decide), modStallCtx_of_runsAt at_]

theorem remoteCadd_run {s : State} {x : Msg} {q : Nat} {k : BitVec 4} {v : W32} {ack : Option Nat} (comes : ArrivesAt s x q)
    (at_ : runsAt s q x.ctx) (body : x.body = .cadd k v ack) :
    exec (.remoteFlagWrite x.id) s = .next (ackTo (modLive (dropMsg s x.id) q fun y => addCnt y k v) q x.ctx x.id ack) := by
  refine congrArg Host.Outcome.next ?_
  rw [comes.arriving_eq body]
  dsimp only
  rw [comes.2.2, if_neg (by decide), modStallCtx_of_runsAt at_]

/-- The record that a completion brings enters the cache, pinned. -/
def recordTaken (v : State) (q c h : Nat) : Option W128 → State
  | none => v
  | some r => modCached (if (cached v q h).isSome then v else cacheHandle v q c h) q h fun e => { e with record := r, pinned := true }

theorem recordTaken_frame (v : State) (q c h : Nat) (r : Option W128) : (recordTaken v q c h r).yard = v.yard ∧
    (stall (recordTaken v q c h r) q).live = (stall v q).live ∧ ∀ p, p ≠ q → stall (recordTaken v q c h r) p = stall v p := by
  cases r with
  | none => exact ⟨rfl, rfl, fun _ _ => rfl⟩
  | some r =>
    unfold recordTaken
    dsimp only
    split
    · exact ⟨rfl, live_modCached .., fun p hp => stall_modCached_other hp ..⟩
    · refine ⟨?_, ?_, fun p hp => ?_⟩
      · rw [modCached, modStall_yard, cacheHandle_yard]
      · rw [live_modCached, live_cacheHandle]
      · rw [stall_modCached_other hp, stall_cacheHandle_other hp]

theorem cached_recordTaken {v : State} {q : Nat} (c : Nat) {h : Nat} (r : W128) (room : (cached v q h).isSome = true ∨ cacheRoom v q) :
    ∃ e, cached (recordTaken v q c h (some r)) q h = some e ∧ e.record = r ∧ e.pinned = true := by
  unfold recordTaken
  dsimp only
  rw [cached_modCached_same]
  split
  · next held =>
    obtain ⟨e, he⟩ := Option.isSome_iff_exists.mp held
    exact ⟨_, by rw [he]; rfl, rfl, rfl⟩
  · next out =>
    obtain ⟨use, he⟩ := cached_cacheHandle c (h := h) (room.resolve_left out)
    exact ⟨_, by rw [he]; rfl, rfl, rfl⟩

/-- A cached entry that is poisoned keeps its record and is pinned. -/
theorem cached_poisonLocal {s : State} {p c h : Nat} {e : HEntry} (held : cached s p h = some e) :
    cached (poisonLocal s p c h) p h = some { e with poison := true, pinned := true } := by
  unfold poisonLocal
  simp only [held, Option.isSome_some, if_true]
  rw [cached_modCached_same, held]
  rfl

/-- The completion has been applied, with its record. -/
def completionTaken (s : State) (x : Msg) (q h : Nat) (act : BitVec 15) (r : Option W128) : State :=
  recordTaken (modLive (dropMsg s x.id) q fun y => applyAct y act) q x.ctx h r

theorem remoteCompletion_run {s : State} {x : Msg} {q h : Nat} {act : BitVec 15} {r : Option W128} {poison : Bool}
    (comes : ArrivesAt s x q) (at_ : runsAt s q x.ctx) (body : x.body = .done h act r poison) :
    exec (.remoteCompletionArrival x.id) s = .next (if poison then poisonLocal (completionTaken s x q h act r) q x.ctx h
      else completionTaken s x q h act r) := by
  refine congrArg Host.Outcome.next ?_
  rw [comes.arriving_eq body]
  dsimp only
  rw [comes.2.2, if_neg (by decide), modStallCtx_of_runsAt at_]
  cases r <;> rfl

theorem completionTaken_frame (s : State) (x : Msg) (q h : Nat) (act : BitVec 15) (r : Option W128) :
    let u := completionTaken s x q h act r
    u.yard = yardAfter s x.id [] ∧ (stall u q).live = applyAct (stall s q).live act ∧ ∀ p, p ≠ q → stall u p = stall s p := by
  obtain ⟨yard, live, others⟩ := recordTaken_frame (modLive (dropMsg s x.id) q fun y => applyAct y act) q x.ctx h r
  refine ⟨yard.trans (List.append_nil _).symm, ?_, fun p hp => ?_⟩
  · rw [completionTaken, live, live_modLive_same, stall_dropMsg]
  · rw [completionTaken, others p hp, stall_modLive_other hp, stall_dropMsg]

theorem cached_completionTaken {s : State} {x : Msg} {q h : Nat} (act : BitVec 15) (r : W128)
    (room : (cached s q h).isSome = true ∨ cacheRoom s q) :
    ∃ e, cached (completionTaken s x q h act (some r)) q h = some e ∧ e.record = r ∧ e.pinned = true := by
  have same : (stall (modLive (dropMsg s x.id) q fun y => applyAct y act) q).hcache = (stall s q).hcache := by
    rw [modLive, stall_modStall_same, stall_dropMsg]
  refine cached_recordTaken x.ctx r (room.imp (fun held => ?_) fun room => ?_)
  · rw [cached_congr same]
    exact held
  · rw [cacheRoom, same, ← cacheRoom]
    exact room

theorem remoteCompletion_completes {s : State} {x : Msg} {q h : Nat} {act : BitVec 15} {r : Option W128} {poison : Bool}
    (comes : ArrivesAt s x q) (at_ : runsAt s q x.ctx) (body : x.body = .done h act r poison) :
    Completes (.remoteCompletionArrival x.id) s fun u =>
      ((stall u q).live = applyAct (stall s q).live act ∧ ∀ r, r ≠ q → stall u r = stall s r) ∧ u.yard = yardAfter s x.id [] ∧
      (poison = true → LocallyPoisoned u q x.ctx h) ∧
      (∀ v, r = some v → (cached s q h).isSome = true ∨ cacheRoom s q → ∃ e, cached u q h = some e ∧ e.record = v ∧ e.pinned = true) := by
  have run := remoteCompletion_run comes at_ body
  obtain ⟨yard, live, others⟩ := completionTaken_frame s x q h act r
  cases poison with
  | false =>
    rw [if_neg Bool.false_ne_true] at run
    refine completes_of run ⟨⟨live, others⟩, yard, nofun, ?_⟩
    rintro v rfl room
    exact cached_completionTaken act v room
  | true =>
    rw [if_pos rfl] at run
    refine completes_of run ⟨⟨?_, fun p hp => ?_⟩, ?_, fun _ => locallyPoisoned_poisonLocal .., ?_⟩
    · rw [live_poisonLocal, live]
    · rw [stall_poisonLocal_other hp, others p hp]
    · rw [poisonLocal_yard, yard]
    · rintro v rfl room
      obtain ⟨e, held, record, -⟩ := cached_completionTaken act v room
      exact ⟨_, cached_poisonLocal held, record, rfl⟩

/-- Settles O24, by what arrives. -/
theorem arrivalsTakeEffect : Obligations.ArrivalsTakeEffect := by
  refine ⟨fun s x q to_ l poison stamp ack by_ comes body hc => ⟨fun held check => ?_, fun let_ => ?_, fun some_ let_ => ?_, fun let_ => ?_,
    fun let_ => ?_⟩, fun s x q comes at_ => ⟨fun f v ack body => ?_, fun k v ack body => ?_, fun h act r poison body => ?_⟩⟩
  · exact completes_of (remoteLineWrite_held comes body held check) rfl
  · obtain ⟨written, poisoned⟩ := written_clean (s := letThrough s stamp) (x := x) q to_ l poison ack hc
    exact completes_of (remoteLineWrite_run comes body let_ .clean) ⟨written_letThrough written, poisoned⟩
  · exact completes_of (levelHoldExpiry_run comes body some_ let_) (written_clean q to_ l poison ack hc)
  · obtain ⟨written, poisoned, triggers, reported⟩ := written_damaged (s := letThrough s stamp) (x := x) q to_ l poison ack hc
    obtain ⟨-, -, -, -, recs, -, -⟩ := letThrough_frame s stamp
    exact completes_of (remoteLineWrite_run comes body let_ .damaged)
      ⟨written_letThrough written, poisoned, by rw [← recs]; exact triggers, reported⟩
  · exact completes_of (remoteLineWrite_run comes body let_ .slotViolation) (suppressLine_letThrough s q (lineHandle to_) stamp ack by_)
  · exact completes_of (remoteFlag_run comes at_ body) (ackedLive ack _)
  · exact completes_of (remoteCadd_run comes at_ body) (ackedLive ack _)
  · exact remoteCompletion_completes comes at_ body

/-! ### Handles that have been fetched, and notices (R93, R252) -/

theorem foldl_longestUnused_of_pinned {m : NMap (Option HEntry)} (pinned : ∀ k v, (k, some v) ∈ m → v.pinned = true) :
    m.foldl longestUnused none = none := by
  induction m with
  | nil => rfl
  | cons e m ih =>
    have keep : longestUnused none e = none := by
      obtain ⟨k, v⟩ := e
      cases v with
      | none => rfl
      | some v => exact if_pos (pinned k v List.mem_cons_self)
    rw [List.foldl_cons, keep]
    exact ih fun k v h => pinned k v (List.mem_cons_of_mem _ h)

/-- A handle for which a cache has no room does not enter it. -/
theorem stall_cacheHandle_full {s : State} {p c h : Nat} (out : cached s p h = none) (full : ¬cacheRoom s p) :
    stall (cacheHandle s p c h) p = stall s p := by
  obtain ⟨many, pinned⟩ := not_or.mp full
  have pinned_ : ∀ k v, (k, some v) ∈ (stall s p).hcache → v.pinned = true := fun k v mem =>
    Bool.of_not_eq_false fun free => pinned ⟨k, v, mem, free⟩
  have victim : (stall s p).hcache.foldl longestUnused none = none := foldl_longestUnused_of_pinned pinned_
  have full_ : (decide (64 ≤ ((stall s p).hcache.filter fun e => e.2.isSome).length) && (nget none (stall s p).hcache h).isNone) = true := by
    rw [decide_eq_true (Nat.not_lt.mp many), show nget none (stall s p).hcache h = none from out]
    rfl
  rw [cacheHandle, stall_modStall_same]
  dsimp only
  rw [full_]
  split
  · next victim' =>
    rw [show (stall s p).hcache.foldl longestUnused none = _ from victim'] at victim
    cases victim
  · rfl
  · contradiction

theorem handleFetch_run {s : State} {x : Msg} {q h : Nat} (comes : ArrivesAt s x q) (body : x.body = .handle h) :
    exec (.handleFetchComplete x.id) s =
      .next (if (cached s q h).isSome then dropMsg s x.id else cacheHandle (dropMsg s x.id) q x.ctx h) := by
  refine congrArg Host.Outcome.next ?_
  rw [comes.arriving_eq body]
  dsimp only
  rw [comes.2.2, if_neg (by decide)]
  rfl

theorem handleFetch_enters {s : State} {x : Msg} {q h : Nat} (comes : ArrivesAt s x q) (body : x.body = .handle h) (out : cached s q h = none) :
    Completes (.handleFetchComplete x.id) s fun u =>
      let v := nget {} (ctx s x.ctx).handles h
      (cacheRoom s q → ∃ k, cached u q h = some ⟨v.record, v.valid, v.poison, false, k⟩) ∧ (¬cacheRoom s q → stall u q = stall s q) ∧
      u.yard = yardAfter s x.id [] ∧ (stall u q).live = (stall s q).live ∧ ∀ r, r ≠ q → stall u r = stall s r := by
  have run := handleFetch_run comes body
  rw [out, if_neg (by decide)] at run
  refine completes_of run ⟨fun room => cached_cacheHandle (s := dropMsg s x.id) x.ctx room,
    fun full => stall_cacheHandle_full (s := dropMsg s x.id) out full, ?_, ?_, fun r hr => ?_⟩
  · rw [cacheHandle_yard]
    exact (List.append_nil _).symm
  · rw [live_cacheHandle, stall_dropMsg]
  · rw [stall_cacheHandle_other hr, stall_dropMsg]

theorem handleFetch_held {s : State} {x : Msg} {q h : Nat} (comes : ArrivesAt s x q) (body : x.body = .handle h)
    (held : (cached s q h).isSome = true) : Completes (.handleFetchComplete x.id) s fun u => u = { s with yard := yardAfter s x.id [] } := by
  have run := handleFetch_run comes body
  rw [held, if_pos rfl] at run
  refine completes_of run ?_
  rw [yardAfter, List.append_nil]
  rfl

theorem poisonNotice_completes {s : State} {x : Msg} {q h : Nat} (comes : ArrivesAt s x q) (body : x.body = .poison h) :
    Completes (.poisonNotice x.id) s fun u =>
      LocallyPoisoned u q x.ctx h ∧ u.yard = yardAfter s x.id [] ∧ (stall u q).live = (stall s q).live := by
  have run : exec (.poisonNotice x.id) s = .next (poisonLocal (dropMsg s x.id) q x.ctx h) := by
    refine congrArg Host.Outcome.next ?_
    rw [comes.arriving_eq body]
    dsimp only
    rw [comes.2.2, if_neg (by decide)]
  refine completes_of run ⟨locallyPoisoned_poisonLocal .., ?_, ?_⟩
  · rw [poisonLocal_yard]
    exact (List.append_nil _).symm
  · rw [live_poisonLocal, stall_dropMsg]

theorem keySetNotice_completes {s : State} {x : Msg} {q h n : Nat} {e : Entry} (comes : ArrivesAt s x q) (body : x.body = .drvBad n h)
    (entry : entryOf (stall s q) n = some e) : Completes (.poisonNotice x.id) s fun u =>
      (getTeam (stall u q).live e.team).st = .halted ∧ u.yard = yardAfter s x.id [] ∧ ∃ r ∈ u.reports, r.source = q ∧ r.code = 0x0401 := by
  have run : exec (.poisonNotice x.id) s = .next
      (haltFault (dropMsg s x.id) q x.ctx e.team e.pc.toNat h (faultAction (imageOf s e.ctx) e.word) 0x0401) := by
    refine congrArg Host.Outcome.next ?_
    rw [comes.arriving_eq body]
    dsimp only
    rw [comes.2.2, if_neg (by decide), entry]
  obtain ⟨team, -, reported⟩ := haltFault_effect (dropMsg s x.id) q x.ctx e.team e.pc.toNat h (faultAction (imageOf s e.ctx) e.word) 0x0401
  refine completes_of run ⟨by rw [team], ?_, reported⟩
  rw [haltFault, stallFault_yard, noteHalt_yard, modTeam_yard]
  exact (List.append_nil _).symm

/-! ### The completion of a DRV instruction (R256) -/

theorem live_modEntry (s : State) (p n : Nat) (f : Entry → Entry) (q : Nat) : (stall (modEntry s p n f) q).live = (stall s q).live :=
  live_modStall s p q fun _ => rfl

theorem entryOf_modEntry_same (s : State) (p n : Nat) (f : Entry → Entry) :
    entryOf (stall (modEntry s p n f) p) n = (entryOf (stall s p) n).map f := by
  rw [modEntry, stall_modStall_same, entryOf]
  dsimp only
  rw [nget_nmod_same, entryOf]

theorem entryOf_modEntry_other (s : State) (p : Nat) {n m : Nat} (h : m ≠ n) (f : Entry → Entry) :
    entryOf (stall (modEntry s p n f) p) m = entryOf (stall s p) m := by
  rw [modEntry, stall_modStall_same, entryOf]
  dsimp only
  rw [nget_nmod_other _ _ h, entryOf]

theorem entryOf_dropEntry_same (s : State) (p n : Nat) : entryOf (stall (dropEntry s p n) p) n = none := by
  rw [dropEntry, stall_modStall_same, entryOf]
  dsimp only
  rw [nget_nset_same]

theorem live_dropEntry (s : State) (p n q : Nat) : (stall (dropEntry s p n) q).live = (stall s q).live := live_modStall s p q fun _ => rfl

/-- The record of an instruction's result at its destination. -/
def recordSettled (s : State) (p c : Nat) (e : Entry) : State :=
  match e.outRec with
  | some r => modCached s p (actionOps e.word).2.2 fun v => { v with record := stampEpoch s c e.word r, pinned := true }
  | none => s

/-- The destination of an instruction whose result is provisional. -/
def provSettled (s : State) (p : Nat) (e : Entry) : State :=
  if e.prov then modCached s p (actionOps e.word).2.2 fun v => { v with record := v.record ||| BitVec.ofNat 128 (2 ^ 107), pinned := true } else s

theorem settleDest_eq (s : State) (p c : Nat) (e : Entry) : settleDest s p c e =
    if e.poison then poisonDest (provSettled (recordSettled s p c e) p e) p c e.word else provSettled (recordSettled s p c e) p e := rfl

theorem live_recordSettled (s : State) (p c : Nat) (e : Entry) (q : Nat) : (stall (recordSettled s p c e) q).live = (stall s q).live := by
  unfold recordSettled
  split
  · exact live_modCached ..
  · rfl

theorem live_provSettled (s : State) (p : Nat) (e : Entry) (q : Nat) : (stall (provSettled s p e) q).live = (stall s q).live := by
  unfold provSettled
  split
  · exact live_modCached ..
  · rfl

theorem live_settleDest (s : State) (p c : Nat) (e : Entry) (q : Nat) : (stall (settleDest s p c e) q).live = (stall s q).live := by
  rw [settleDest_eq]
  split
  · rw [live_poisonDest, live_provSettled, live_recordSettled]
  · rw [live_provSettled, live_recordSettled]

/-- An entry that finishes is freed, and its action applies unless it is mute. -/
theorem finishEntry_effect (s : State) (p n : Nat) (e : Entry) : entryOf (stall (finishEntry s p n e) p) n = none ∧
    (stall (finishEntry s p n e) p).live = if e.mute = true then (stall s p).live else applyAct (stall s p).live (actOf e.word) := by
  refine ⟨entryOf_dropEntry_same .., ?_⟩
  unfold finishEntry
  dsimp only
  rw [live_dropEntry]
  split
  · rw [live_settleDest, stall_ctOrder]
  · rw [live_modLive_same, live_settleDest, stall_ctOrder]

/-- An entry of stall p under number n, with the same word and muteness, that waits for nothing but the ids of l. -/
def WaitsWithin (u : State) (p n : Nat) (e : Entry) (l : List Nat) : Prop :=
  ∃ v, entryOf (stall u p) n = some v ∧ v.word = e.word ∧ v.mute = e.mute ∧ v.asks = e.asks ∧ v.waits ⊆ l

theorem WaitsWithin.mono {u : State} {p n : Nat} {e : Entry} {l l' : List Nat} (h : WaitsWithin u p n e l) (sub : l ⊆ l') :
    WaitsWithin u p n e l' := by
  obtain ⟨v, at_, word, mute, asks, waits⟩ := h
  exact ⟨v, at_, word, mute, asks, fun _ hx => sub (waits hx)⟩

theorem WaitsWithin.after_noWait {u : State} {p n : Nat} {e : Entry} {l : List Nat} (h : WaitsWithin u p n e l) (m k : Nat) :
    WaitsWithin (noWait u p m k) p n e l := by
  obtain ⟨v, at_, word, mute, asks, waits⟩ := h
  by_cases hm : n = m
  · subst hm
    refine ⟨{ v with waits := v.waits.filter (· ≠ k) }, by rw [noWait, entryOf_modEntry_same, at_]; rfl, word, mute, asks, fun x hx => waits (List.mem_filter.mp hx).1⟩
  · exact ⟨v, by rw [noWait, entryOf_modEntry_other _ _ hm, at_], word, mute, asks, waits⟩

theorem WaitsWithin.none_left {u : State} {p n k : Nat} {e : Entry} (h : WaitsWithin u p n e [k]) : WaitsWithin (noWait u p n k) p n e [] := by
  obtain ⟨v, at_, word, mute, asks, waits⟩ := h
  refine ⟨{ v with waits := v.waits.filter (· ≠ k) }, by rw [noWait, entryOf_modEntry_same, at_]; rfl, word, mute, asks, fun x hx => ?_⟩
  obtain ⟨mem, ne⟩ := List.mem_filter.mp hx
  simp [List.mem_singleton.mp (waits mem)] at ne

theorem drvReport1_keeps {p n : Nat} {e : Entry} {l : List Nat} (u : State) (m : Msg) :
    (WaitsWithin u p n e l → WaitsWithin (drvReport1 p u m) p n e l) ∧ (stall (drvReport1 p u m) p).live = (stall u p).live := by
  unfold drvReport1
  split
  · split
    · exact ⟨id, rfl⟩
    · split
      · exact ⟨id, rfl⟩
      · exact ⟨fun h => WaitsWithin.after_noWait (u := dropMsg u _) h _ _, live_modEntry ..⟩
  · exact ⟨id, rfl⟩

theorem foldl_drvReport1_keeps {p n : Nat} {e : Entry} {l : List Nat} (ms : List Msg) (u : State) :
    (WaitsWithin u p n e l → WaitsWithin (ms.foldl (drvReport1 p) u) p n e l) ∧
      (stall (ms.foldl (drvReport1 p) u) p).live = (stall u p).live := by
  induction ms generalizing u with
  | nil => exact ⟨id, rfl⟩
  | cons m ms ih =>
    obtain ⟨step, live⟩ := drvReport1_keeps (p := p) (n := n) (e := e) (l := l) u m
    obtain ⟨rest, lives⟩ := ih (drvReport1 p u m)
    exact ⟨fun h => rest (step h), lives.trans live⟩

/-- A message that is no report of a Drover to the stall changes nothing. -/
theorem drvReport1_of_none {p : Nat} {u : State} {m : Msg}
    (other : ∀ y, arriving u m.id = some y → ∀ d k, y.src = .drover d → y.dst = .stall p → y.body ≠ .drvDone k) : drvReport1 p u m = u := by
  unfold drvReport1
  split
  · next id d q net c k at_ =>
    split
    · rfl
    · next here =>
      obtain rfl := not_not.mp here
      exact absurd rfl (other _ at_ d k rfl rfl)
  · rfl

/-- The report that is on its way, alone of its kind, has been taken once the messages in flight have been gone through. -/
theorem foldl_drvReport1_alone {s : State} {p n id d : Nat} {e : Entry} {x : Msg} (entry : entryOf (stall s p) n = some e)
    (waits : e.waits = [id]) (waiting : waitingFor s p id = some (n, e)) (at_ : arriving s x.id = some x) (dst : x.dst = .stall p)
    (src : x.src = .drover d) (body : x.body = .drvDone id)
    (alone : ∀ m ∈ s.yard, m.dst = .stall p → ∀ k, m.body = .drvDone k → m = x) (ms : List Msg) (mem : x ∈ ms) :
    WaitsWithin (ms.foldl (drvReport1 p) s) p n e [] := by
  induction ms with
  | nil => cases mem
  | cons m ms ih =>
    rw [List.foldl_cons]
    by_cases same : m.id = x.id
    · have taken : drvReport1 p s m = noWait (dropMsg s x.id) p n id := by
        have at__ : arriving s m.id = some ⟨x.id, .drover d, .stall p, x.net, x.ctx, .drvDone id⟩ := by
          rw [same, at_, ← src, ← dst, ← body]
        unfold drvReport1
        rw [at__]
        dsimp only
        rw [if_neg (not_not.mpr rfl), waiting]
      rw [taken]
      refine (foldl_drvReport1_keeps ms _).1 (WaitsWithin.none_left ?_)
      exact ⟨e, entry, rfl, rfl, rfl, waits ▸ List.Subset.refl _⟩
    · have still : drvReport1 p s m = s := by
        refine drvReport1_of_none fun y hy _ k _ to_ done => same ?_
        have found : y ∈ s.yard ∧ y.id = m.id := by
          unfold arriving at hy
          split at hy
          · cases hy
          · next z hz =>
            split at hy
            · split at hy
              · obtain rfl := Option.some.inj hy
                exact ⟨List.mem_of_find?_eq_some hz, by simpa using List.find?_some hz⟩
              · cases hy
            · cases hy
        rw [← found.2, alone y found.1 to_ k done]
      rw [still]
      obtain rfl | mem := List.mem_cons.mp mem
      · exact absurd rfl same
      · exact ih mem

theorem drvComplete_run {s : State} {q : Position} {n : Nat} {e : Entry} (entry : entryOf (stall s q) n = some e) (engine : e.engine = .drv)
    (up : awake s q = true) (none_ : WaitsWithin (s.yard.foldl (drvReport1 q) s) q n e []) (asks : e.asks = []) :
    Completes (.drvComplete q n) s fun u => entryOf (stall u q) n = none ∧
      (stall u q).live = if e.mute = true then (stall s q).live else applyAct (stall s q).live (actOf e.word) := by
  obtain ⟨v, at_, word, mute, asks', waits⟩ := none_
  have run : exec (.drvComplete q n) s = .next (finishEntry (s.yard.foldl (drvReport1 q) s) q n v) := by
    refine congrArg Host.Outcome.next ?_
    rw [entry]
    dsimp only
    rw [engine, up, if_neg (by decide), entryAt, at_, Option.getD_some, List.subset_nil.mp waits, asks', asks]
    rfl
  obtain ⟨freed, live⟩ := finishEntry_effect (s.yard.foldl (drvReport1 q) s) q n v
  refine completes_of run ⟨freed, ?_⟩
  rw [live, mute, word, (foldl_drvReport1_keeps (n := n) (e := e) (l := []) s.yard s).2]

theorem drvComplete_completes {s : State} {q : Position} {n : Nat} {e : Entry} (entry : entryOf (stall s q) n = some e)
    (engine : e.engine = .drv) (up : awake s q = true) (asks : e.asks = []) :
    let freed (u : State) : Prop := entryOf (stall u q) n = none ∧
      (stall u q).live = if e.mute = true then (stall s q).live else applyAct (stall s q).live (actOf e.word)
    (e.waits = [] → Completes (.drvComplete q n) s freed) ∧
    (∀ x d id, e.waits = [id] → waitingFor s q id = some (n, e) → ArrivesAt s x q → x ∈ s.yard → x.src = .drover d → x.body = .drvDone id →
      (∀ m ∈ s.yard, m.dst = .stall q → ∀ k, m.body = .drvDone k → m = x) → Completes (.drvComplete q n) s freed) := by
  refine ⟨fun waits => ?_, fun x d id waits waiting comes mem src body alone => ?_⟩
  · refine drvComplete_run entry engine up ((foldl_drvReport1_keeps s.yard s).1 ⟨e, entry, rfl, rfl, rfl, ?_⟩) asks
    rw [waits]
    exact List.Subset.refl _
  · exact drvComplete_run entry engine up
      (foldl_drvReport1_alone entry waits waiting comes.1 comes.2.1 src body alone s.yard mem) asks

/-! ### The Yardmaster's copies and tokens (R59, R60, R358) -/

/-- A copy of a record that has come to the Yardmaster. -/
def copyKept (s : State) (c l h : Nat) (r : W128) (poison : Bool) : State :=
  modCtx s c fun x => { x with wbacks := x.wbacks ++ [(l, h, r, poison)] }

theorem storeCopy_agrees {s : State} {c l h : Nat} {r : W128} {poison : Bool}
    (same : copiesAgree ((copiesOf s c h).map (·.2.1) ++ [r]) = true ∨ copiesAgree ((copiesOf s c h).map (·.2.1)) = false) :
    storeCopy s c l h r poison = copyKept s c l h r poison :=
  if_neg (by obtain same | differed := same <;> simp [*])

/-- What the first copy that differs leaves besides the copy: nothing but a report, and what a report reaches. -/
theorem storeCopy_frame (s : State) (c l h : Nat) (r : W128) (poison : Bool) : let u := storeCopy s c l h r poison
    (∀ d, ctx u d = ctx (copyKept s c l h r poison) d) ∧ u.yard = s.yard ∧ u.stalls = s.stalls := by
  unfold storeCopy
  dsimp only
  rw [← copyKept]
  split
  · split
    · refine ⟨fun d => ?_, ?_, ?_⟩
      · rw [ctx_explain, ctx_reportFault]
      · rw [explain_yard, reportFault_yard]
        rfl
      · rw [explain_stalls, reportFault_stalls]
        rfl
    · exact ⟨fun _ => rfl, rfl, rfl⟩
  · exact ⟨fun _ => rfl, rfl, rfl⟩

theorem storeCopy_reported {s : State} {c l h p : Nat} {r : W128} (poison : Bool) (agreed : copiesAgree ((copiesOf s c h).map (·.2.1)) = true)
    (differs : copiesAgree ((copiesOf s c h).map (·.2.1) ++ [r]) = false) (at_ : posOfLid s l = some p) :
    ∃ y ∈ (storeCopy s c l h r poison).reports, y.source = p ∧ y.code = 0x0204 := by
  unfold storeCopy
  dsimp only
  rw [agreed, differs, if_pos (by decide), at_]
  exact mem_explain (reports_reportFault ..) rfl rfl

theorem sysPart_of_none {s : State} {c id : Nat} (none_ : sysBar s c id = none) : sysPart s c id = s := by
  rw [sysPart, none_]

theorem writeBack_completes {s : State} {x : Msg} {l h : Nat} {r : W128} {poison : Bool} (at_ : arriving s x.id = some x)
    (dst : x.dst = .yardmaster) (body : x.body = .writeBack l h r poison) (free : sysBar s x.ctx 0 = none) :
    let before := (copiesOf s x.ctx h).map (·.2.1)
    Completes (.writeBackRecord x.id) s fun u =>
      copiesOf u x.ctx h = copiesOf s x.ctx h ++ [(l, r, poison)] ∧ (ctx u x.ctx).handles = (ctx s x.ctx).handles ∧
      u.yard = yardAfter s x.id [] ∧ u.stalls = s.stalls ∧ (∀ c, c ≠ x.ctx → ctx u c = ctx s c) ∧
      (copiesAgree (before ++ [r]) = true → u.reports = s.reports) ∧
      ∀ p, copiesAgree before = true → copiesAgree (before ++ [r]) = false → posOfLid s l = some p →
        ∃ y ∈ u.reports, y.source = p ∧ y.code = 0x0204 := by
  intro before
  obtain ⟨ctxs, yard, stalls⟩ := storeCopy_frame (dropMsg s x.id) x.ctx l h r poison
  have kept : ctx (storeCopy (dropMsg s x.id) x.ctx l h r poison) x.ctx =
      { ctx s x.ctx with wbacks := (ctx s x.ctx).wbacks ++ [(l, h, r, poison)] } := (ctxs x.ctx).trans (ctx_modCtx_same ..)
  have run : exec (.writeBackRecord x.id) s = .next (storeCopy (dropMsg s x.id) x.ctx l h r poison) := by
    refine congrArg Host.Outcome.next ?_
    have at__ : arriving s x.id = some ⟨x.id, x.src, .yardmaster, x.net, x.ctx, .writeBack l h r poison⟩ := by rw [at_, ← dst, ← body]
    rw [at__]
    dsimp only
    refine sysPart_of_none ?_
    rw [sysBar, imageOf, kept]
    exact free
  refine completes_of run ⟨?_, by rw [kept], ?_, stalls, fun c hc => ?_, fun same => ?_, fun p agreed differs place => ?_⟩
  · rw [copiesOf, kept]
    dsimp only
    rw [List.filter_append, List.map_append, ← copiesOf]
    simp
  · exact yard.trans (List.append_nil _).symm
  · exact (ctxs c).trans (ctx_modCtx_other _ hc ..)
  · rw [storeCopy_agrees (s := dropMsg s x.id) (.inl same)]
    rfl
  · exact storeCopy_reported (s := dropMsg s x.id) poison agreed differs place

/-! #### Tokens of the partition's system barriers -/

theorem getSys_congr {s u : State} (ym : u.ym = s.ym) (c id which : Nat) : getSys u c id which = getSys s c id which := by
  rw [getSys, ym, getSys]

theorem sysKidsOf_congr {s u : State} (ym : u.ym = s.ym) (c id : Nat) : sysKidsOf u c id = sysKidsOf s c id := by
  rw [sysKidsOf, ym, sysKidsOf]

theorem sysPart_of_few {s : State} {c id : Nat} (few : ∀ b, sysBar s c id = some b → (sysKidsOf s c id).length < b.children) :
    sysPart s c id = s := by
  unfold sysPart
  split
  · rfl
  · next b at_ => exact if_pos (by simp [few b at_])

theorem barrierToken_run {s : State} {i c : Nat} {f : Held} (entry : rxEntry s i = some f) (type : flitType f.bytes = 0xC)
    (job : ctxOfJob s (flitJob f.bytes) = some c) (open_ : flitField f.bytes 20 1 4 4 ≠ getSys s c (flitField f.bytes 20 1 3 0) 2) :
    exec (.barrierToken i) s = .next (
      let id := flitField f.bytes 20 1 3 0
      let s1 := consume s i f
      if flitField f.bytes 20 1 5 5 = 1 then sysRelease s1 c id (flitField f.bytes 20 1 4 4)
      else if (sysKidsOf s1 c id).contains (flitSrc f.bytes) then s1
      else sysPart (setKids s1 c id (sysKidsOf s1 c id ++ [flitSrc f.bytes])) c id) := by
  refine congrArg Host.Outcome.next ?_
  rw [entry]
  dsimp only
  rw [if_neg (not_not.mpr type), job]
  dsimp only
  rw [getSys_congr (consume_ym s i f), if_neg open_]

theorem arrive_completes {s : State} {i c : Nat} {f : Held} (entry : rxEntry s i = some f) (type : flitType f.bytes = 0xC)
    (job : ctxOfJob s (flitJob f.bytes) = some c) (open_ : flitField f.bytes 20 1 4 4 ≠ getSys s c (flitField f.bytes 20 1 3 0) 2)
    (kind : flitField f.bytes 20 1 5 5 = 0)
    (more : ∀ b, sysBar s c (flitField f.bytes 20 1 3 0) = some b → (sysKidsOf s c (flitField f.bytes 20 1 3 0)).length + 1 < b.children)
    (first : flitSrc f.bytes ∉ sysKidsOf s c (flitField f.bytes 20 1 3 0)) : let id := flitField f.bytes 20 1 3 0
    Completes (.barrierToken i) s fun u =>
      sysKidsOf u c id = sysKidsOf s c id ++ [flitSrc f.bytes] ∧ getSys u c id 2 = getSys s c id 2 := by
  intro id
  have kids : sysKidsOf (consume s i f) c id = sysKidsOf s c id := sysKidsOf_congr (consume_ym ..) c id
  have run := barrierToken_run entry type job open_
  dsimp only at run
  rw [kind, if_neg (by decide), kids, if_neg (by simpa using first)] at run
  have counted : sysKidsOf (setKids (consume s i f) c id (sysKidsOf s c id ++ [flitSrc f.bytes])) c id = sysKidsOf s c id ++ [flitSrc f.bytes] :=
    nget_nset_same ..
  have still : sysPart (setKids (consume s i f) c id (sysKidsOf s c id ++ [flitSrc f.bytes])) c id =
      setKids (consume s i f) c id (sysKidsOf s c id ++ [flitSrc f.bytes]) := by
    refine sysPart_of_few fun b at_ => ?_
    rw [counted, List.length_append]
    refine more b ?_
    rw [sysBar, imageOf] at at_ ⊢
    rw [← ctx_consume s i f c]
    exact at_
  rw [still] at run
  exact completes_of run ⟨counted, getSys_congr (consume_ym s i f) c id 2⟩

theorem foldl_sendToken_frame (c id phase : Nat) (ks : List Nat) (s : State) :
    let u := ks.foldl (fun s k => sendToken s c id k phase 1) s
    u.ym = s.ym ∧ u.stalls = s.stalls ∧ u.positions = s.positions ∧ ctx u c = ctx s c := by
  refine ⟨foldl_keeps State.ym (fun v k => sendToken_ym v c id k phase 1) ks s, foldl_keeps State.stalls (fun v k => sendToken_stalls v c id k phase 1) ks s,
    foldl_keeps State.positions (fun v k => sendToken_positions v c id k phase 1) ks s, foldl_keeps (ctx · c) (fun v k => ctx_sendToken v c id k phase 1 c) ks s⟩

/-- A stall's side of a system barrier after a release. -/
def releasedBar (id phase : Nat) (x : StallCtx) : StallCtx := modBar x (128 + id) fun b => { b with rphase := phase = 1 }

theorem rphase_releasedBar (id phase : Nat) (x : StallCtx) : (barOf (releasedBar id phase x) (128 + id)).rphase = decide (phase = 1) := by
  rw [releasedBar, barOf_modBar_same]

theorem modStallCtx_at {s : State} {c l p : Nat} (running : runningNo s = c) (at_ : posOfLid s l = some p) (f : StallCtx → StallCtx) :
    modStallCtx s c l f = modLive s p f := by
  rw [modStallCtx, if_pos running, at_]

theorem modStallCtx_nowhere {s : State} {c l : Nat} (running : runningNo s = c) (none_ : posOfLid s l = none) (f : StallCtx → StallCtx) :
    modStallCtx s c l f = s := by
  rw [modStallCtx, if_pos running, none_]

/-- What a change of a running context's stall leaves alone. -/
theorem modStallCtx_frame {s : State} {c : Nat} (running : runningNo s = c) (l : Nat) (f : StallCtx → StallCtx) :
    (modStallCtx s c l f).ym = s.ym ∧ (modStallCtx s c l f).positions = s.positions := by
  cases at_ : posOfLid s l with
  | none => exact ⟨by rw [modStallCtx_nowhere running at_], by rw [modStallCtx_nowhere running at_]⟩
  | some p => exact ⟨by rw [modStallCtx_at running at_]; rfl, by rw [modStallCtx_at running at_]; rfl⟩

/-- A participant that the release has reached, or will reach, has the released phase in the end. -/
theorem rphase_foldl_released {c id phase p : Nat} (ps : List Nat) {s : State} (running : runningNo s = c)
    (reached : (barOf (stall s p).live (128 + id)).rphase = decide (phase = 1) ∨ (p ∈ ps ∧ posOfLid s (lidOf s p) = some p)) :
    let u := ps.foldl (fun s q => modStallCtx s c (lidOf s q) (releasedBar id phase)) s
    u.ym = s.ym ∧ (barOf (stall u p).live (128 + id)).rphase = decide (phase = 1) := by
  induction ps generalizing s with
  | nil => exact ⟨rfl, reached.resolve_right fun ⟨mem, _⟩ => nomatch mem⟩
  | cons q ps ih =>
    obtain ⟨ym, positions⟩ := modStallCtx_frame running (lidOf s q) (releasedBar id phase)
    have lid : lidOf (modStallCtx s c (lidOf s q) (releasedBar id phase)) p = lidOf s p := by rw [lidOf, position, positions, ← position, ← lidOf]
    have place : posOfLid (modStallCtx s c (lidOf s q) (releasedBar id phase)) (lidOf s p) = posOfLid s (lidOf s p) := by
      rw [posOfLid, positions, posOfLid]
    have stays : (barOf (stall s p).live (128 + id)).rphase = decide (phase = 1) →
        (barOf (stall (modStallCtx s c (lidOf s q) (releasedBar id phase)) p).live (128 + id)).rphase = decide (phase = 1) := by
      intro already
      cases found : posOfLid s (lidOf s q) with
      | none => rw [modStallCtx_nowhere running found, already]
      | some r =>
        rw [modStallCtx_at running found]
        by_cases here : p = r
        · rw [here, live_modLive_same, rphase_releasedBar]
        · rw [stall_modLive_other here, already]
    have next_ : (barOf (stall (modStallCtx s c (lidOf s q) (releasedBar id phase)) p).live (128 + id)).rphase = decide (phase = 1) ∨
        (p ∈ ps ∧ posOfLid (modStallCtx s c (lidOf s q) (releasedBar id phase)) (lidOf (modStallCtx s c (lidOf s q) (releasedBar id phase)) p) = some p) := by
      obtain already | ⟨mem, at_⟩ := reached
      · exact .inl (stays already)
      · obtain rfl | mem := List.mem_cons.mp mem
        · refine .inl ?_
          rw [modStallCtx_at running at_, live_modLive_same, rphase_releasedBar]
        · exact .inr ⟨mem, by rw [lid, place, at_]⟩
    obtain ⟨ym', done⟩ := ih (by rw [runningNo, ym, ← runningNo, running]) next_
    exact ⟨ym'.trans ym, done⟩

theorem participants_congr {s u : State} {c : Nat} (positions : u.positions = s.positions) (image : imageOf u c = imageOf s c) :
    participants u c = participants s c := by
  have lid (p : Nat) : lidOf u p = lidOf s p := by rw [lidOf, position, positions, ← position, ← lidOf]
  rw [participants, positionsIn_congr positions, image]
  simp only [lid]
  rfl

theorem getSys_setSys_same (s : State) (c id which v : Nat) : getSys (setSys s c id which v) c id which = v := nget_nset_same ..

theorem getSys_setSys_other (s : State) (c id v : Nat) {which other : Nat} (h : other ≠ which) :
    getSys (setSys s c id which v) c id other = getSys s c id other :=
  nget_nset_other _ _ (fun same => h (Nat.add_left_cancel same)) _

theorem getSys_setKids (s : State) (c id : Nat) (ks : List Nat) (which : Nat) : getSys (setKids s c id ks) c id which = getSys s c id which := rfl

theorem sysKidsOf_setKids_same (s : State) (c id : Nat) (ks : List Nat) : sysKidsOf (setKids s c id ks) c id = ks := nget_nset_same ..

/-- The participants of a context once a release has reached them. -/
def participantsReleased (s : State) (c id phase : Nat) : State :=
  (participants s c).foldl (fun s q => modStallCtx s c (lidOf s q) (releasedBar id phase)) s

/-- The system barrier after its release. -/
def barrierReset (s : State) (c id phase : Nat) : State := setKids (setSys (setSys (setSys s c id 0 0) c id 3 0) c id 2 phase) c id []

theorem stall_barrierReset (s : State) (c id phase p : Nat) : stall (barrierReset s c id phase) p = stall s p := rfl

theorem sysRelease_eq (s : State) (c phase : Nat) {id : Nat} (other : id ≠ 0) : sysRelease s c id phase =
    barrierReset (participantsReleased ((sysKidsOf s c id).foldl (fun s k => sendToken s c id k phase 1) s) c id phase) c id phase :=
  if_neg other

/-- What the release of a system barrier other than 0 leaves. -/
theorem sysRelease_effect {s : State} {c id : Nat} (phase : Nat) (other : id ≠ 0) (running : runningNo s = c) : let u := sysRelease s c id phase
    getSys u c id 2 = phase ∧ getSys u c id 0 = 0 ∧ sysKidsOf u c id = [] ∧
      ∀ p ∈ participants s c, posOfLid s (lidOf s p) = some p → (barOf (stall u p).live (128 + id)).rphase = decide (phase = 1) := by
  obtain ⟨ym, stalls, positions, context⟩ := foldl_sendToken_frame c id phase (sysKidsOf s c id) s
  rw [sysRelease_eq s c phase other]
  generalize (sysKidsOf s c id).foldl (fun s k => sendToken s c id k phase 1) s = v at ym stalls positions context
  refine ⟨?_, ?_, sysKidsOf_setKids_same .., fun p mem at_ => ?_⟩
  · rw [barrierReset, getSys_setKids, getSys_setSys_same]
  · rw [barrierReset, getSys_setKids, getSys_setSys_other _ _ _ _ (by decide), getSys_setSys_other _ _ _ _ (by decide), getSys_setSys_same]
  · have reached : p ∈ participants v c ∧ posOfLid v (lidOf v p) = some p := by
      rw [participants_congr positions (by rw [imageOf, context, imageOf]), lidOf, position, positions, ← position, ← lidOf, posOfLid, positions]
      exact ⟨mem, at_⟩
    have running_ : runningNo v = c := by rw [runningNo, ym, ← runningNo, running]
    obtain ⟨-, done⟩ := rphase_foldl_released (id := id) (phase := phase) (participants v c) running_ (.inr reached)
    rw [stall_barrierReset]
    exact done

theorem release_completes {s : State} {i c : Nat} {f : Held} (entry : rxEntry s i = some f) (type : flitType f.bytes = 0xC)
    (job : ctxOfJob s (flitJob f.bytes) = some c) (open_ : flitField f.bytes 20 1 4 4 ≠ getSys s c (flitField f.bytes 20 1 3 0) 2)
    (kind : flitField f.bytes 20 1 5 5 = 1) (other : flitField f.bytes 20 1 3 0 ≠ 0) (running : runningNo s = c) :
    let id := flitField f.bytes 20 1 3 0
    let phase := flitField f.bytes 20 1 4 4
    Completes (.barrierToken i) s fun u => getSys u c id 2 = phase ∧ getSys u c id 0 = 0 ∧ sysKidsOf u c id = [] ∧
      ∀ p ∈ participants s c, posOfLid s (lidOf s p) = some p → (barOf (stall u p).live (128 + id)).rphase = decide (phase = 1) := by
  intro id phase
  have run := barrierToken_run entry type job open_
  dsimp only at run
  rw [kind, if_pos rfl] at run
  obtain ⟨phase_, count, kids, reached⟩ := sysRelease_effect (s := consume s i f) phase other (by rw [runningNo, consume_ym, ← runningNo, running])
  refine completes_of run ⟨phase_, count, kids, fun p mem at_ => reached p ?_ ?_⟩
  · rw [participants_congr (consume_positions ..) (by rw [imageOf, ctx_consume, imageOf])]
    exact mem
  · rw [lidOf, position_consume, ← lidOf, posOfLid, consume_positions]
    exact at_

/-- Settles O26, message by message. -/
theorem handleMessagesUpdateCaches : Obligations.HandleMessagesUpdateCaches :=
  ⟨fun _ _ _ _ comes => ⟨handleFetch_enters comes, handleFetch_held comes, poisonNotice_completes comes,
      fun _ _ body entry => keySetNotice_completes comes body entry⟩,
    fun _ _ _ _ entry engine up asks => drvComplete_completes entry engine up asks,
    fun _ _ _ _ _ _ at_ dst body free => writeBack_completes at_ dst body free,
    fun _ _ _ _ entry type job open_ => ⟨arrive_completes entry type job open_, release_completes entry type job open_⟩⟩

/-! ### CT.COPY at its source (R225, R267) -/

theorem deviceId_congr {s u : State} (same : csrGet u 0x07C0000 = csrGet s 0x07C0000) : deviceId u = deviceId s := csrField_congr same 14 0

theorem readPiece_congr {s u : State} (loft : u.loft = s.loft) (p c : Nat) (d : HDecl) (pc : Piece) (a : Int) :
    readPiece u p c d pc a = readPiece s p c d pc a := by
  rw [readPiece, loftRead_congr loft, readPiece]

theorem sendBulk_yard (s : State) (src dst : Node) (net : Net) (c : Nat) (b : Body) (n : Nat) :
    (sendBulk s src dst net c b n).yard = s.yard ++ [⟨s.msgSeq, src, dst, net, c, b⟩] := yardCount_yard ..

theorem copyRequest_run {s : State} {x : Msg} {q n h : Nat} {offs : List Int} {d : Int} (comes : ArrivesAt s x q)
    (body : x.body = .copyReq n h offs d) : exec (.copyRequest x.id) s = .next (
      let dh := decl (imageOf s x.ctx) h
      let pc := pieceOf (imageOf s x.ctx) (deviceId s) dh (lidOf s q)
      let s1 := parityPiece (dropMsg s x.id) q x.ctx pc offs
      sendBulk s1 (.stall q) x.src .rsp x.ctx (.copyRet x.id n d (offs.map fun a => (a, readPiece s1 q x.ctx dh pc a)) false) 1) := by
  refine congrArg Host.Outcome.next ?_
  rw [comes.arriving_eq body]
  dsimp only
  rw [comes.2.2, if_neg (by decide)]

theorem copyRequest_completes {s : State} {x : Msg} {q n h : Nat} {offs : List Int} {d : Int} (comes : ArrivesAt s x q)
    (body : x.body = .copyReq n h offs d) : Completes (.copyRequest x.id) s fun u =>
      u.yard = yardAfter s x.id [⟨s.msgSeq, .stall q, x.src, .rsp, x.ctx, .copyRet x.id n d (offs.map fun a => (a,
        readPiece s q x.ctx (decl (imageOf s x.ctx) h) (pieceOf (imageOf s x.ctx) (deviceId s) (decl (imageOf s x.ctx) h) (lidOf s q)) a)) false⟩] ∧
      u.loft = s.loft ∧ u.stalls = s.stalls := by
  have run := copyRequest_run comes body
  dsimp only at run
  generalize pieceOf (imageOf s x.ctx) (deviceId s) (decl (imageOf s x.ctx) h) (lidOf s q) = pc at run ⊢
  have loft : (parityPiece (dropMsg s x.id) q x.ctx pc offs).loft = s.loft := parityPiece_loft ..
  simp only [readPiece_congr loft] at run
  refine completes_of run ⟨?_, ?_, ?_⟩
  · rw [sendBulk_yard, parityPiece_yard, parityPiece_msgSeq, dropMsg_yard, dropMsg_msgSeq, yardAfter]
  · rw [sendBulk_loft, loft]
  · rw [sendBulk_stalls, parityPiece_stalls, dropMsg_stalls]

/-! ### Lines that come back to an instruction (R225, R303, R317, R324) -/

/-- The words of a line that a mask covers, where it is written. -/
theorem words_loftWrite (s : State) (q y : Nat) {c : Nat} (hc : c < 64) (l : Line) (mask : Nat) :
    ∃ v, loftRead (loftWrite s q y c l mask) q y c = some v ∧ ∀ i, i < 16 → bitOf mask i = true → wordAt v i = wordAt l i := by
  refine ⟨_, loftRead_loftWrite s q y c hc l mask, fun i hi set_ => ?_⟩
  simp [wordAt, hi, set_]

theorem landing_writePiece {s v : State} {q c h : Nat} {a : Int} (hc : c < 64) (l : Line) (mask : Nat) :
    ∀ y, landing s q c (.piece h a) = some y →
      ∃ w, loftRead (writePiece v q c (pieceOf (imageOf s c) (deviceId s) (decl (imageOf s c) h) (lidOf s q)) a l mask) q y c = some w ∧
        ∀ i, i < 16 → bitOf mask i = true → wordAt w i = wordAt l i := by
  intro y at_
  unfold landing at at_
  dsimp only at at_
  split at at_
  · next inside =>
    obtain rfl := Option.some.inj at_
    rw [writePiece, if_pos inside]
    exact words_loftWrite v q _ hc l mask
  · cases at_

theorem bitOf_full {i : Nat} (h : i < 16) : bitOf 0xFFFF i = true := by
  have all : ∀ j : Fin 16, bitOf 0xFFFF j = true := by decide
  exact all ⟨i, h⟩

theorem landedAt_writePiece {s v u : State} {q c h : Nat} {a : Int} (hc : c < 64) (l : Line)
    (loft : u.loft = (writePiece v q c (pieceOf (imageOf s c) (deviceId s) (decl (imageOf s c) h) (lidOf s q)) a l 0xFFFF).loft) :
    LandedAt s u q c (.piece h a) l := by
  intro y at_
  obtain ⟨w, read, words⟩ := landing_writePiece (v := v) hc l 0xFFFF y at_
  exact ⟨w, (loftRead_congr loft ..).trans read, fun i hi => words i hi (bitOf_full hi)⟩

/-- An entry that has been asked for one thing less. -/
def WaitsLess (u : State) (q n id : Nat) (e : Entry) : Prop :=
  ∃ v, entryOf (stall u q) n = some v ∧ v.word = e.word ∧ v.waits = e.waits.filter (· ≠ id)

theorem entryOf_congr {s u : State} {p : Nat} (h : (stall u p).entries = (stall s p).entries) (n : Nat) :
    entryOf (stall u p) n = entryOf (stall s p) n := by rw [entryOf, h, entryOf]

theorem entries_writePiece (s : State) (p c : Nat) (pc : Piece) (a : Int) (l : Line) (mask : Nat) (q : Nat) :
    (stall (writePiece s p c pc a l mask) q).entries = (stall s q).entries := by
  unfold writePiece
  split
  · rfl
  · unfold countDrop
    by_cases h : q = p
    · rw [h, stall_modStall_same]
    · rw [stall_modStall_other _ h]

theorem entryOf_noWait {s : State} {p n : Nat} {e : Entry} (id : Nat) (at_ : entryOf (stall s p) n = some e) :
    entryOf (stall (noWait s p n id) p) n = some { e with waits := e.waits.filter (· ≠ id) } := by
  rw [noWait, entryOf_modEntry_same, at_]
  rfl

theorem entryOf_noteWrites {s : State} {p n : Nat} {e : Entry} (pc : Piece) (as_ : List Int) (at_ : entryOf (stall s p) n = some e) :
    entryOf (stall (noteWrites s p n pc as_) p) n = some { e with wrote := e.wrote ++ loftLines pc as_ } := by
  rw [noteWrites, entryOf_modEntry_same, at_]
  rfl

theorem copyReturn_run {s : State} {x : Msg} {q id k n : Nat} {d : Int} {lines : List (Int × Line)} {e : Entry} {js : List Nat}
    (comes : ArrivesAt s x q) (body : x.body = .copyRet id k d lines false) (waiting : waitingFor s q id = some (n, e))
    (its : (entryIts e).find? (fun js => addrD e js = d) = some js) : exec (.copyReturn x.id false) s = .next (
      let ds := decl (imageOf s x.ctx) (hA e.word)
      let dd := decl (imageOf s x.ctx) (hD e.word)
      let pd := pieceOf (imageOf s x.ctx) (deviceId s) dd (lidOf s q)
      noteWrites (writePiece (noWait (dropMsg s x.id) q n id) q x.ctx pd d (layLine ds dd (layUnit ds dd pd.lines) (addrA e js) d fun a =>
        match lines.find? fun y => y.1 = a with
        | some y => y.2
        | none => List.replicate 16 ds.fill) 0xFFFF) q n pd [d]) := by
  refine congrArg Host.Outcome.next ?_
  rw [comes.arriving_eq body]
  dsimp only
  rw [comes.2.2, if_neg (by decide), waiting]
  dsimp only
  rw [its]
  rfl

theorem copyReturn_completes {s : State} {x : Msg} {q id k n : Nat} {d : Int} {lines : List (Int × Line)} {e : Entry} {js : List Nat}
    (comes : ArrivesAt s x q) (hc : x.ctx < 64) (body : x.body = .copyRet id k d lines false) (waiting : waitingFor s q id = some (n, e))
    (at_ : entryOf (stall s q) n = some e) (its : (entryIts e).find? (fun js => addrD e js = d) = some js) :
    Completes (.copyReturn x.id false) s fun u =>
      let ds := decl (imageOf s x.ctx) (hA e.word)
      let dd := decl (imageOf s x.ctx) (hD e.word)
      let pd := pieceOf (imageOf s x.ctx) (deviceId s) dd (lidOf s q)
      LandedAt s u q x.ctx (.piece (hD e.word) d) (layLine ds dd (layUnit ds dd pd.lines) (addrA e js) d fun a =>
        match lines.find? fun y => y.1 = a with
        | some y => y.2
        | none => List.replicate 16 ds.fill) ∧
      (∃ v, entryOf (stall u q) n = some v ∧ v.word = e.word ∧ v.waits = e.waits.filter (· ≠ id)) ∧ u.yard = yardAfter s x.id [] := by
  refine completes_of (copyReturn_run comes body waiting its) ⟨landedAt_writePiece hc _ rfl, ?_, ?_⟩
  · have less := entryOf_noWait (s := dropMsg s x.id) id at_
    exact ⟨_, entryOf_noteWrites _ _ ((entryOf_congr (entries_writePiece ..) n).trans less), rfl, rfl⟩
  · dsimp only
    rw [noteWrites, modEntry, modStall_yard, writePiece_yard]
    exact (List.append_nil _).symm

/-! #### Acknowledgements -/

theorem entries_modLive (s : State) (p : Nat) (f : StallCtx → StallCtx) (q : Nat) : (stall (modLive s p f) q).entries = (stall s q).entries := by
  rw [modLive]
  by_cases h : q = p
  · rw [h, stall_modStall_same]
  · rw [stall_modStall_other _ h]

theorem stall_acked_same (s : State) (p id : Nat) :
    stall (acked s p id) p = { stall s p with unacked := (stall s p).unacked.filter (· ≠ id) } := stall_modStall_same ..

/-- What poisoning a handle leaves of a stall. -/
theorem stall_poisonLocal_fields (s : State) (p c h : Nat) : (stall (poisonLocal s p c h) p).entries = (stall s p).entries ∧
    (stall (poisonLocal s p c h) p).unacked = (stall s p).unacked := by
  have fetched (k : Nat) : (stall (cacheHandle s p c k) p).entries = (stall s p).entries ∧
      (stall (cacheHandle s p c k) p).unacked = (stall s p).unacked := by
    rw [cacheHandle, stall_modStall_same]
    dsimp only
    split
    · exact ⟨rfl, rfl⟩
    · exact ⟨rfl, rfl⟩
    · exact ⟨rfl, rfl⟩
  have marked (v : State) (f : HEntry → HEntry) : (stall (modCached v p h f) p).entries = (stall v p).entries ∧
      (stall (modCached v p h f) p).unacked = (stall v p).unacked := by
    rw [modCached, stall_modStall_same]
    exact ⟨rfl, rfl⟩
  have first : (stall (if (cached s p h).isSome then s else cacheHandle s p c h) p).entries = (stall s p).entries ∧
      (stall (if (cached s p h).isSome then s else cacheHandle s p c h) p).unacked = (stall s p).unacked := by
    split
    · exact ⟨rfl, rfl⟩
    · exact fetched h
  unfold poisonLocal
  dsimp only
  generalize (if (cached s p h).isSome then s else cacheHandle s p c h) = v at first
  split
  · exact ⟨(marked v _).1.trans first.1, (marked v _).2.trans first.2⟩
  · exact first

/-- The message is gone, and the entry that awaited it and its stall count it no more. -/
def ackTaken (s : State) (m q n id : Nat) : State := noWait (acked (dropMsg s m) q id) q n id

theorem ackTaken_effect {s : State} {q n : Nat} {e : Entry} (m id : Nat) (at_ : entryOf (stall s q) n = some e) :
    WaitsLess (ackTaken s m q n id) q n id e ∧ (stall (ackTaken s m q n id) q).unacked = (stall s q).unacked.filter (· ≠ id) := by
  have there : entryOf (stall (acked (dropMsg s m) q id) q) n = some e := by
    rw [stall_acked_same]
    exact at_
  refine ⟨⟨_, entryOf_noWait id there, rfl, rfl⟩, ?_⟩
  rw [ackTaken, noWait, modEntry, stall_modStall_same, stall_acked_same, stall_dropMsg]

theorem WaitsLess.congr {u v : State} {q n id : Nat} {e : Entry} (h : WaitsLess u q n id e)
    (entries : (stall v q).entries = (stall u q).entries) : WaitsLess v q n id e := by
  rw [WaitsLess, entryOf_congr entries]
  exact h

theorem writeAck_completes {s : State} {x : Msg} {q n id : Nat} {e : Entry} {poison : Bool} (comes : ArrivesAt s x q)
    (waiting : waitingFor s q id = some (n, e)) (at_ : entryOf (stall s q) n = some e) (body : x.body = .ack id poison false)
    (write : ∀ d ∈ e.dests, d.1 ≠ id) : Completes (.writeAck x.id) s fun u =>
      (∃ v, entryOf (stall u q) n = some v ∧ v.word = e.word ∧ v.waits = e.waits.filter (· ≠ id)) ∧
      (stall u q).unacked = (stall s q).unacked.filter (· ≠ id) ∧ u.yard = yardAfter s x.id [] ∧
      (poison = true → LocallyPoisoned u q x.ctx (destHandle e.word)) := by
  have plain : (e.dests.any fun d => d.1 = id) = false := List.any_eq_false.mpr fun d hd => by simpa using write d hd
  have run : exec (.writeAck x.id) s = .next (if poison then poisonLocal (ackTaken s x.id q n id) q x.ctx (destHandle e.word)
      else ackTaken s x.id q n id) := by
    refine congrArg Host.Outcome.next ?_
    rw [comes.arriving_eq body]
    dsimp only
    rw [comes.2.2, if_neg (by decide), waiting]
    dsimp only
    rw [plain, if_neg Bool.false_ne_true, if_neg Bool.false_ne_true]
    rfl
  obtain ⟨less, count⟩ := ackTaken_effect x.id id at_
  cases poison with
  | false =>
    rw [if_neg Bool.false_ne_true] at run
    exact completes_of run ⟨less, count, (List.append_nil _).symm, nofun⟩
  | true =>
    rw [if_pos rfl] at run
    obtain ⟨entries, unacked⟩ := stall_poisonLocal_fields (ackTaken s x.id q n id) q x.ctx (destHandle e.word)
    refine completes_of run ⟨less.congr entries, unacked.trans count, ?_, fun _ => locallyPoisoned_poisonLocal ..⟩
    rw [poisonLocal_yard]
    exact (List.append_nil _).symm

/-! #### Granules that are read -/

/-- A granule that has come to an entry. -/
def granTaken (s : State) (m q n id g : Nat) (data : List Byte) (poison : Bool) : State :=
  modEntry (noWait (dropMsg s m) q n id) q n fun v => { v with grans := v.grans ++ [(g, data)], poison := v.poison || poison }

theorem entryOf_granTaken {s : State} {q n : Nat} {e : Entry} (m id g : Nat) (data : List Byte) (poison : Bool)
    (at_ : entryOf (stall s q) n = some e) : entryOf (stall (granTaken s m q n id g data poison) q) n =
      some { e with waits := e.waits.filter (· ≠ id), grans := e.grans ++ [(g, data)], poison := e.poison || poison } := by
  rw [granTaken, entryOf_modEntry_same, entryOf_noWait (s := dropMsg s m) id at_]
  rfl

theorem hbmRet_run {s : State} {x : Msg} {q id k g n : Nat} {data : List Byte} {poison : Bool} {e : Entry} (comes : ArrivesAt s x q)
    (waiting : waitingFor s q id = some (n, e)) (at_ : entryOf (stall s q) n = some e) (body : x.body = .hbmRet id k g data poison) :
    exec (.hbmReadReturn x.id false) s = .next (if e.waits.filter (· ≠ id) = [] then landLoad (granTaken s x.id q n id g data poison) q n
      else granTaken s x.id q n id g data poison) := by
  refine congrArg Host.Outcome.next ?_
  rw [comes.arriving_eq body]
  dsimp only
  rw [comes.2.2, if_neg (by decide), waiting]
  dsimp only
  rw [Bool.false_and, if_neg Bool.false_ne_true, ← granTaken, entryAt, entryOf_granTaken x.id id g data poison at_]
  rfl

theorem hbmRet_kept {s : State} {x : Msg} {q id k g n : Nat} {data : List Byte} {poison : Bool} {e : Entry} (comes : ArrivesAt s x q)
    (waiting : waitingFor s q id = some (n, e)) (at_ : entryOf (stall s q) n = some e) (body : x.body = .hbmRet id k g data poison)
    (more : e.waits.filter (· ≠ id) ≠ []) : Completes (.hbmReadReturn x.id false) s fun u =>
      ∃ v, entryOf (stall u q) n = some v ∧ v.waits = e.waits.filter (· ≠ id) ∧ v.grans = e.grans ++ [(g, data)] ∧
        v.poison = (e.poison || poison) ∧ u.yard = yardAfter s x.id [] := by
  have run := hbmRet_run comes waiting at_ body
  rw [if_neg more] at run
  exact completes_of run ⟨_, entryOf_granTaken x.id id g data poison at_, rfl, rfl, rfl, (List.append_nil _).symm⟩

/-- The line that a load of one iteration writes, from the granules that have come. -/
def loadedLine (s : State) (q : Nat) (e : Entry) (js : List Nat) : Line :=
  let df := decl (imageOf s e.ctx) (hA e.word)
  let dn := decl (imageOf s e.ctx) (hD e.word)
  layLine df dn (layUnit df dn (pieceOf (imageOf s e.ctx) (deviceId s) dn (lidOf s q)).lines) (addrA e js) (addrD e js) fun a =>
    if 0 ≤ a ∧ a < (df.lines : Int) then lineFromGrans df e.grans a.toNat else List.replicate 16 df.fill

/-- The line of a load of one iteration, written. -/
def loadWritten (s : State) (q n : Nat) (e : Entry) (js : List Nat) : State :=
  let pn := pieceOf (imageOf s e.ctx) (deviceId s) (decl (imageOf s e.ctx) (hD e.word)) (lidOf s q)
  noteWrites (writePiece s q e.ctx pn (addrD e js) (loadedLine s q e js) 0xFFFF) q n pn [addrD e js]

theorem entryOf_loadWritten {s : State} {q n : Nat} {e : Entry} (js : List Nat) (at_ : entryOf (stall s q) n = some e) :
    ∃ v, entryOf (stall (loadWritten s q n e js) q) n = some v ∧ v.word = e.word ∧ v.waits = e.waits :=
  ⟨_, entryOf_noteWrites _ _ ((entryOf_congr (entries_writePiece ..) n).trans at_), rfl, rfl⟩

/-- A load of a tally group that differs: what is left besides the line. -/
def loadTally (s : State) (q n : Nat) (e : Entry) (h action : Nat) : State :=
  trigger (recCount (stallFault (modEntry s q n fun v => { v with poison := true }) q e.ctx e.team e.pc.toNat h action 0x0802) 4) e.ctx 0

theorem loadTally_frame {s : State} {q n : Nat} {v : Entry} (e : Entry) (h action : Nat) (at_ : entryOf (stall s q) n = some v) :
    (loadTally s q n e h action).loft = s.loft ∧ entryOf (stall (loadTally s q n e h action) q) n = some { v with poison := true } := by
  unfold loadTally
  refine ⟨?_, ?_⟩
  · rw [trigger_loft, recCount_loft, stallFault_loft]
    rfl
  · rw [stall_trigger, stall_recCount, stall_stallFault, entryOf_modEntry_same, at_]
    rfl

theorem landLoad_single {s : State} {q n : Nat} {e : Entry} {js : List Nat} (at_ : entryOf (stall s q) n = some e)
    (its : entryIts e = [js]) (place : (decl (imageOf s e.ctx) (hA e.word)).place = 2) : ∃ (k h action : Nat) (differs : Bool), landLoad s q n =
      if differs then loadTally (yardCount (loadWritten s q n e js) 6 k) q n e h action else yardCount (loadWritten s q n e js) 6 k := by
  have entry : entryAt s q n = e := by rw [entryAt, at_, Option.getD_some]
  apply Exists.intro
  apply Exists.intro
  apply Exists.intro
  apply Exists.intro
  unfold landLoad loadWritten loadedLine
  simp only [entry, place, its, List.foldl_cons, List.foldl_nil, List.map_cons, List.map_nil, ne_eq, not_true_eq_false, if_false, if_true,
    Bool.and_eq_true, decide_eq_true_eq]
  rfl

theorem landLoad_effect {s : State} {q n : Nat} {e : Entry} {js : List Nat} (at_ : entryOf (stall s q) n = some e)
    (its : entryIts e = [js]) (place : (decl (imageOf s e.ctx) (hA e.word)).place = 2) :
    (landLoad s q n).loft = (loadWritten s q n e js).loft ∧
      ∃ v, entryOf (stall (landLoad s q n) q) n = some v ∧ v.word = e.word ∧ v.waits = e.waits := by
  obtain ⟨k, h, action, differs, done⟩ := landLoad_single at_ its place
  obtain ⟨v, written, word, waits⟩ := entryOf_loadWritten js at_
  rw [done]
  split
  · obtain ⟨loft, entry⟩ := loadTally_frame (s := yardCount (loadWritten s q n e js) 6 k) e h action (by rw [stall_yardCount, written])
    exact ⟨loft.trans (yardCount_loft ..), _, entry, word, waits⟩
  · exact ⟨yardCount_loft .., v, by rw [stall_yardCount, written], word, waits⟩

/-- An entry to which a granule has come. -/
def withGran (e : Entry) (id g : Nat) (data : List Byte) : Entry :=
  { e with waits := e.waits.filter (· ≠ id), grans := e.grans ++ [(g, data)], poison := e.poison || false }

theorem loadWritten_loft {s u : State} {q : Nat} (n : Nat) {e : Entry} (js : List Nat) (image : imageOf u e.ctx = imageOf s e.ctx)
    (device : deviceId u = deviceId s) (lid : lidOf u q = lidOf s q) : (loadWritten u q n e js).loft = (writePiece u q e.ctx
      (pieceOf (imageOf s e.ctx) (deviceId s) (decl (imageOf s e.ctx) (hD e.word)) (lidOf s q)) (addrD e js) (loadedLine s q e js) 0xFFFF).loft := by
  unfold loadWritten loadedLine
  dsimp only
  rw [image, device, lid, noteWrites, modEntry, modStall_loft]

theorem hbmRet_lands {s : State} {x : Msg} {q id k g n : Nat} {data : List Byte} {e : Entry} {js : List Nat} (comes : ArrivesAt s x q)
    (hc : x.ctx < 64) (waiting : waitingFor s q id = some (n, e)) (at_ : entryOf (stall s q) n = some e)
    (body : x.body = .hbmRet id k g data false) (last : e.waits.filter (· ≠ id) = []) (its : entryIts e = [js]) (own : x.ctx = e.ctx)
    (place : (decl (imageOf s e.ctx) (hA e.word)).place = 2) : Completes (.hbmReadReturn x.id false) s fun u =>
      let df := decl (imageOf s e.ctx) (hA e.word)
      let dn := decl (imageOf s e.ctx) (hD e.word)
      (∃ v, entryOf (stall u q) n = some v ∧ v.word = e.word ∧ v.waits = e.waits.filter (· ≠ id)) ∧
      LandedAt s u q e.ctx (.piece (hD e.word) (addrD e js))
        (layLine df dn (layUnit df dn (pieceOf (imageOf s e.ctx) (deviceId s) dn (lidOf s q)).lines) (addrA e js) (addrD e js) fun a =>
          if 0 ≤ a ∧ a < (df.lines : Int) then lineFromGrans df (e.grans ++ [(g, data)]) a.toNat else List.replicate 16 df.fill) := by
  have run := hbmRet_run comes waiting at_ body
  rw [if_pos last] at run
  obtain ⟨loft, v, entry, word, waits⟩ :=
    landLoad_effect (e := withGran e id g data) (js := js) (entryOf_granTaken x.id id g data false at_) its (by exact place)
  refine completes_of run ⟨⟨v, entry, word, waits⟩, ?_⟩
  rw [loadWritten_loft (s := s) (u := granTaken s x.id q n id g data false) n js rfl (deviceId_congr rfl) rfl] at loft
  exact landedAt_writePiece (own ▸ hc) (loadedLine s q (withGran e id g data) js) loft

/-! #### The result of an atomic operation -/

/-- The words of the destination line that an atomic operation's result covers: a compare-and-swap's are words 0 to 7. -/
def atomicMask (e : Entry) : Nat := if bitsOf (modC e.word) 2 0 = 5 then 0x00FF else 0xFFFF

theorem atomicMask_covers (e : Entry) {i : Nat} (h : i < if bitsOf (modC e.word) 2 0 = 5 then 8 else 16) :
    i < 16 ∧ bitOf (atomicMask e) i = true := by
  unfold atomicMask
  split at h
  · next swap =>
    have all : ∀ j : Fin 8, bitOf 0x00FF j = true := by decide
    exact ⟨by omega, by rw [if_pos swap]; exact all ⟨i, h⟩⟩
  · next other => exact ⟨h, by rw [if_neg other]; exact bitOf_full h⟩

/-- The result of an atomic operation, written. -/
def atomicWritten (s : State) (x : Msg) (q n id : Nat) (e : Entry) (pn : Piece) (a : Int) (words : Line) : State :=
  noteWrites (writePiece (acked (noWait (dropMsg s x.id) q n id) q id) q x.ctx pn a words (atomicMask e)) q n pn [a]

theorem unacked_writePiece (s : State) (p c : Nat) (pc : Piece) (a : Int) (l : Line) (mask : Nat) :
    (stall (writePiece s p c pc a l mask) p).unacked = (stall s p).unacked := by
  unfold writePiece
  split
  · rfl
  · rw [countDrop, stall_modStall_same]

theorem atomicWritten_effect {s : State} {q n : Nat} {e : Entry} (x : Msg) (id : Nat) (pn : Piece) (a : Int) (words : Line)
    (at_ : entryOf (stall s q) n = some e) : let u := atomicWritten s x q n id e pn a words
    WaitsLess u q n id e ∧ (stall u q).unacked = (stall s q).unacked.filter (· ≠ id) ∧ u.yard = yardAfter s x.id [] := by
  have waits := entryOf_noWait (s := dropMsg s x.id) id at_
  have there : entryOf (stall (acked (noWait (dropMsg s x.id) q n id) q id) q) n = some { e with waits := e.waits.filter (· ≠ id) } := by
    rw [stall_acked_same]
    exact waits
  refine ⟨⟨_, entryOf_noteWrites _ _ ((entryOf_congr (entries_writePiece ..) n).trans there), rfl, rfl⟩, ?_, ?_⟩
  · rw [atomicWritten, noteWrites, modEntry, stall_modStall_same]
    dsimp only
    rw [unacked_writePiece, stall_acked_same, noWait, modEntry, stall_modStall_same, stall_dropMsg]
  · rw [atomicWritten, noteWrites, modEntry, modStall_yard, writePiece_yard]
    exact (List.append_nil _).symm

theorem atomic_completes {s : State} {x : Msg} {q id k slot n : Nat} {words : Line} {poison : Bool} {e : Entry} {d : Nat × Int}
    (comes : ArrivesAt s x q) (hc : x.ctx < 64) (waiting : waitingFor s q id = some (n, e)) (at_ : entryOf (stall s q) n = some e)
    (body : x.body = .grnRet id k slot words poison) (op : opcodeOf e.word = 0x77) (dest : e.dests.find? (fun d => d.1 = id) = some d) :
    Completes (.atomicResult x.id) s fun u =>
      (∃ v, entryOf (stall u q) n = some v ∧ v.word = e.word ∧ v.waits = e.waits.filter (· ≠ id)) ∧
      (stall u q).unacked = (stall s q).unacked.filter (· ≠ id) ∧ u.yard = yardAfter s x.id [] ∧
      (poison = true → LocallyPoisoned u q x.ctx (hD e.word)) ∧
      ∀ y, landing s q x.ctx (.piece (hD e.word) d.2) = some y → ∃ v, loftRead u q y x.ctx = some v ∧
        ∀ i, i < (if bitsOf (modC e.word) 2 0 = 5 then 8 else 16) → wordAt v i = wordAt words i := by
  have run : exec (.atomicResult x.id) s = .next (
      let pn := pieceOf (imageOf s x.ctx) (deviceId s) (decl (imageOf s x.ctx) (hD e.word)) (lidOf s q)
      let w := atomicWritten s x q n id e pn d.2 words
      if poison then poisonLocal w q x.ctx (hD e.word) else w) := by
    refine congrArg Host.Outcome.next ?_
    rw [comes.arriving_eq body]
    dsimp only
    rw [comes.2.2, if_neg (by decide), waiting]
    dsimp only
    rw [if_neg (not_not.mpr op), dest]
    rfl
  dsimp only at run
  obtain ⟨less, count, yard⟩ := atomicWritten_effect (s := s) x id
    (pieceOf (imageOf s x.ctx) (deviceId s) (decl (imageOf s x.ctx) (hD e.word)) (lidOf s q)) d.2 words at_
  have landed (u : State) (loft : u.loft = (atomicWritten s x q n id e (pieceOf (imageOf s x.ctx) (deviceId s)
      (decl (imageOf s x.ctx) (hD e.word)) (lidOf s q)) d.2 words).loft) : ∀ y, landing s q x.ctx (.piece (hD e.word) d.2) = some y →
        ∃ v, loftRead u q y x.ctx = some v ∧
          ∀ i, i < (if bitsOf (modC e.word) 2 0 = 5 then 8 else 16) → wordAt v i = wordAt words i := by
    intro y to_
    obtain ⟨v, read, same⟩ := landing_writePiece (v := acked (noWait (dropMsg s x.id) q n id) q id) hc words (atomicMask e) y to_
    exact ⟨v, (loftRead_congr loft ..).trans read, fun i hi => (atomicMask_covers e hi).elim (same i)⟩
  cases poison with
  | false =>
    rw [if_neg Bool.false_ne_true] at run
    exact completes_of run ⟨less, count, yard, nofun, landed _ rfl⟩
  | true =>
    rw [if_pos rfl] at run
    obtain ⟨entries, unacked⟩ := stall_poisonLocal_fields (atomicWritten s x q n id e (pieceOf (imageOf s x.ctx) (deviceId s)
      (decl (imageOf s x.ctx) (hD e.word)) (lidOf s q)) d.2 words) q x.ctx (hD e.word)
    exact completes_of run ⟨less.congr entries, unacked.trans count, (poisonLocal_yard ..).trans yard,
      fun _ => locallyPoisoned_poisonLocal .., landed _ (poisonLocal_loft ..)⟩

/-- Settles O25, by what comes. -/
theorem copiesAndReturnsLand : Obligations.CopiesAndReturnsLand :=
  ⟨fun _ _ _ comes hc => ⟨fun _ _ _ _ body => copyRequest_completes comes body,
      fun _ _ _ _ _ _ _ body waiting at_ its => copyReturn_completes comes hc body waiting at_ its⟩,
    fun _ _ _ _ _ _ comes hc waiting at_ => ⟨fun _ body write => writeAck_completes comes waiting at_ body write,
      fun _ _ _ _ body more => hbmRet_kept comes waiting at_ body more,
      fun _ _ _ _ body last its own place => hbmRet_lands comes hc waiting at_ body last its own place,
      fun _ _ _ _ _ body op dest => atomic_completes comes hc waiting at_ body op dest⟩⟩

end Sys2Proof.Machine
end

section
/-!
SUPPORT. The frame lemmas that the proof of O22 rests on.
-/

namespace Sys2Proof.Machine

/-! ### The Ledger -/

@[simp] theorem bump_ledger (s : State) (off wrapOff wrapBit : Nat) :
    (bump s off wrapOff wrapBit).ledger = s.ledger := (vLedger_def _).symm.trans ((vLedger_bump ..).trans (vLedger_def _))

@[simp] theorem dbAppend_ledger (s : State) (type c : Nat) (payload : List Byte) :
    (dbAppend s type c payload).ledger = s.ledger := (vLedger_def _).symm.trans ((vLedger_dbAppend ..).trans (vLedger_def _))

@[simp] theorem reportFault_ledger (s : State) (source code detail c lid team handle : Nat) :
    (reportFault s source code detail c lid team handle).ledger = s.ledger := (vLedger_def _).symm.trans
      ((vLedger_reportFault ..).trans (vLedger_def _))

/-! ### What is in flight in the Yard -/

@[simp] theorem vYard_grnCount (s : State) (i n : Nat) :
    (grnCount s i n).vYard = s.vYard := by simp [grnCount]

@[simp] theorem vYard_dbEpoch (s : State) (c epoch event target : Nat) :
    (dbEpoch s c epoch event target).vYard = s.vYard := by simp [dbEpoch]

@[simp] theorem vYard_modEntry (s : State) (p n : Nat) (f : Entry → Entry) :
    (modEntry s p n f).vYard = s.vYard := by simp [modEntry]

@[simp] theorem vYard_noteFirst (s : State) (c : Nat) :
    (noteFirst s c).vYard = s.vYard := by
  unfold noteFirst
  split <;> simp [vYard_eta]

@[simp] theorem vYard_issued (s : State) (p : Nat) (t : Fin 4) :
    (issued s p t).vYard = s.vYard := by simp [issued]

@[simp] theorem vYard_openEpoch (s : State) (c reruns : Nat) :
    (openEpoch s c reruns).vYard = s.vYard := by simp [openEpoch]

@[simp] theorem vYard_ensureEpoch (s : State) (c : Nat) :
    (ensureEpoch s c).vYard = s.vYard := by simp [ensureEpoch]

@[simp] theorem vYard_takeEntry (s : State) (p : Nat) (t : Fin 4) (w : W128) (c : Nat) (eng : Engine) (start : Bool) :
    (takeEntry s p t w c eng start).1.vYard = s.vYard := by simp [takeEntry, vYard_eta]

@[simp] theorem vYard_carryPoison (s : State) (p n : Nat) (w : W128) :
    (carryPoison s p n w).vYard = s.vYard := by simp [carryPoison]

@[simp] theorem vYard_recordAbsent (s : State) (p : Nat) (e : Entry) :
    (recordAbsent s p e).vYard = s.vYard := by simp [recordAbsent]

@[simp] theorem vYard_engineAbsent (s : State) (p n : Nat) (e : Entry) :
    (engineAbsent s p n e).vYard = s.vYard := by simp [engineAbsent]

@[simp] theorem bump_yard (s : State) (off wrapOff wrapBit : Nat) :
    (bump s off wrapOff wrapBit).yard = s.yard := (vYard_def _).symm.trans ((vYard_bump ..).trans (vYard_def _))

@[simp] theorem recordFirst_yard (s : State) (off v : Nat) :
    (recordFirst s off v).yard = s.yard := (vYard_def _).symm.trans ((vYard_recordFirst ..).trans (vYard_def _))

@[simp] theorem grnCount_yard (s : State) (i n : Nat) :
    (grnCount s i n).yard = s.yard := (vYard_def _).symm.trans ((vYard_grnCount ..).trans (vYard_def _))

@[simp] theorem dbAppend_yard (s : State) (type c : Nat) (payload : List Byte) :
    (dbAppend s type c payload).yard = s.yard := (vYard_def _).symm.trans ((vYard_dbAppend ..).trans (vYard_def _))

@[simp] theorem noteFirst_yard (s : State) (c : Nat) :
    (noteFirst s c).yard = s.yard := (vYard_def _).symm.trans ((vYard_noteFirst ..).trans (vYard_def _))

@[simp] theorem issued_yard (s : State) (p : Nat) (t : Fin 4) :
    (issued s p t).yard = s.yard := (vYard_def _).symm.trans ((vYard_issued ..).trans (vYard_def _))

@[simp] theorem takeEntry_yard (s : State) (p : Nat) (t : Fin 4) (w : W128) (c : Nat) (eng : Engine) (start : Bool) :
    (takeEntry s p t w c eng start).1.yard = s.yard := (vYard_def _).symm.trans ((vYard_takeEntry ..).trans (vYard_def _))

@[simp] theorem carryPoison_yard (s : State) (p n : Nat) (w : W128) :
    (carryPoison s p n w).yard = s.yard := (vYard_def _).symm.trans ((vYard_carryPoison ..).trans (vYard_def _))

@[simp] theorem recordAbsent_yard (s : State) (p : Nat) (e : Entry) :
    (recordAbsent s p e).yard = s.yard := (vYard_def _).symm.trans ((vYard_recordAbsent ..).trans (vYard_def _))

@[simp] theorem engineAbsent_yard (s : State) (p n : Nat) (e : Entry) :
    (engineAbsent s p n e).yard = s.yard := (vYard_def _).symm.trans ((vYard_engineAbsent ..).trans (vYard_def _))

/-! ### The contexts -/

@[simp] theorem ctx_bump (s : State) (off wrapOff wrapBit : Nat) (j₀ : Nat) :
    ctx (bump s off wrapOff wrapBit) j₀ = ctx s j₀ := congrArg (nget ({} : Ctx) · j₀) ((vCtxs_def _).symm.trans ((vCtxs_bump
      ..).trans (vCtxs_def _)))

@[simp] theorem ctx_recordFirst (s : State) (off v : Nat) (j₀ : Nat) :
    ctx (recordFirst s off v) j₀ = ctx s j₀ := congrArg (nget ({} : Ctx) · j₀) ((vCtxs_def _).symm.trans ((vCtxs_recordFirst
      ..).trans (vCtxs_def _)))

@[simp] theorem ctx_grnCount (s : State) (i n : Nat) (j₀ : Nat) :
    ctx (grnCount s i n) j₀ = ctx s j₀ := congrArg (nget ({} : Ctx) · j₀) ((vCtxs_def _).symm.trans ((vCtxs_grnCount
      ..).trans (vCtxs_def _)))

@[simp] theorem ctx_dbAppend (s : State) (type c : Nat) (payload : List Byte) (j₀ : Nat) :
    ctx (dbAppend s type c payload) j₀ = ctx s j₀ := congrArg (nget ({} : Ctx) · j₀) ((vCtxs_def _).symm.trans
      ((vCtxs_dbAppend ..).trans (vCtxs_def _)))

/-! ### The Loft -/

@[simp] theorem vLoft_grnCount (s : State) (i n : Nat) :
    (grnCount s i n).vLoft = s.vLoft := by simp [grnCount]

@[simp] theorem vLoft_noteFirst (s : State) (c : Nat) :
    (noteFirst s c).vLoft = s.vLoft := by
  unfold noteFirst
  split <;> simp [vLoft_eta]

@[simp] theorem bump_loft (s : State) (off wrapOff wrapBit : Nat) :
    (bump s off wrapOff wrapBit).loft = s.loft := (vLoft_def _).symm.trans ((vLoft_bump ..).trans (vLoft_def _))

@[simp] theorem recordFirst_loft (s : State) (off v : Nat) :
    (recordFirst s off v).loft = s.loft := (vLoft_def _).symm.trans ((vLoft_recordFirst ..).trans (vLoft_def _))

@[simp] theorem grnCount_loft (s : State) (i n : Nat) :
    (grnCount s i n).loft = s.loft := (vLoft_def _).symm.trans ((vLoft_grnCount ..).trans (vLoft_def _))

@[simp] theorem dbAppend_loft (s : State) (type c : Nat) (payload : List Byte) :
    (dbAppend s type c payload).loft = s.loft := (vLoft_def _).symm.trans ((vLoft_dbAppend ..).trans (vLoft_def _))

@[simp] theorem reportFault_loft (s : State) (source code detail c lid team handle : Nat) :
    (reportFault s source code detail c lid team handle).loft = s.loft := (vLoft_def _).symm.trans ((vLoft_reportFault
      ..).trans (vLoft_def _))

@[simp] theorem noteFirst_loft (s : State) (c : Nat) :
    (noteFirst s c).loft = s.loft := (vLoft_def _).symm.trans ((vLoft_noteFirst ..).trans (vLoft_def _))

/-! ### The Drovers -/

/-- The Drovers of a state, as a function of it. -/
def State.vDrovers (s : State) : NMap Drover := s.drovers

@[simp] theorem vDrovers_mk (x0 : List Instr) (x1 : Nat) (x2 : Nat) (x3 : List Byte) (x4 : Bool) (x5 : NMap Byte) (x6 : List
      (Nat × Nat)) (x7 : NMap W64) (x8 : W64) (x9 : NMap Pos) (x10 : NMap Stall) (x11 : NMap LoftLine) (x12 : List Msg) (x13
      : NMap Ctx) (x14 : NMap Rec) (x15 : Yardm) (x16 : Hbm) (x17 : Granary) (x18 : NMap Drover) (x19 : List Report) (x20 :
      Rhoa) (x21 : Gateh) (x22 : Daybk) (x23 : Fuses) (x24 : Tack) (x25 : Smithy) (x26 : Rst) (x27 : Supply) (x28 : Ostler)
      (x29 : Disc) (x30 : Tap) (x31 : List (Transport × List Byte)) (x32 : List (List Byte)) :
    (State.mk x0 x1 x2 x3 x4 x5 x6 x7 x8 x9 x10 x11 x12 x13 x14 x15 x16 x17 x18 x19 x20 x21 x22 x23 x24 x25 x26 x27 x28 x29
      x30 x31 x32).vDrovers = x18 := (rfl)

theorem vDrovers_eta (s : State) : s.drovers = s.vDrovers := (rfl)

@[simp] theorem vDrovers_ite (c : Prop) [Decidable c] (a b : State) : (if c then a else b).vDrovers = if c then a.vDrovers
      else b.vDrovers := by
  split <;> rfl

@[simp] theorem vDrovers_foldl {β : Type} (g : State → β → State) (h : ∀ s b, (g s b).vDrovers = s.vDrovers) (l : List β) (s
      : State) :
    (l.foldl g s).vDrovers = s.vDrovers := by
  induction l generalizing s with
  | nil => rfl
  | cons b l ih => exact (ih (g s b)).trans (h s b)

@[simp] theorem vDrovers_csrPut (s : State) (off : Nat) (v : W64) :
    (csrPut s off v).vDrovers = s.vDrovers := by simp [csrPut, vDrovers_eta]

@[simp] theorem vDrovers_csrSetField (s : State) (off hi lo v : Nat) :
    (csrSetField s off hi lo v).vDrovers = s.vDrovers := by simp [csrSetField]

@[simp] theorem vDrovers_bumpBy (s : State) (off wrapOff wrapBit n : Nat) :
    (bumpBy s off wrapOff wrapBit n).vDrovers = s.vDrovers := by simp [bumpBy]

@[simp] theorem vDrovers_bump (s : State) (off wrapOff wrapBit : Nat) :
    (bump s off wrapOff wrapBit).vDrovers = s.vDrovers := by simp [bump]

@[simp] theorem vDrovers_recordFirst (s : State) (off v : Nat) :
    (recordFirst s off v).vDrovers = s.vDrovers := by simp [recordFirst]

@[simp] theorem vDrovers_yardCount (s : State) (i n : Nat) :
    (yardCount s i n).vDrovers = s.vDrovers := by simp [yardCount]

@[simp] theorem vDrovers_grnCount (s : State) (i n : Nat) :
    (grnCount s i n).vDrovers = s.vDrovers := by simp [grnCount]

@[simp] theorem vDrovers_rlCount (s : State) (n i k : Nat) :
    (rlCount s n i k).vDrovers = s.vDrovers := by simp [rlCount]

@[simp] theorem vDrovers_setStall (s : State) (p : Nat) (x : Stall) :
    (setStall s p x).vDrovers = s.vDrovers := by simp [setStall, vDrovers_eta]

@[simp] theorem vDrovers_modStall (s : State) (p : Nat) (f : Stall → Stall) :
    (modStall s p f).vDrovers = s.vDrovers := by simp [modStall]

@[simp] theorem vDrovers_setCtx (s : State) (c : Nat) (x : Ctx) :
    (setCtx s c x).vDrovers = s.vDrovers := by simp [setCtx, vDrovers_eta]

@[simp] theorem vDrovers_modCtx (s : State) (c : Nat) (f : Ctx → Ctx) :
    (modCtx s c f).vDrovers = s.vDrovers := by simp [modCtx]

@[simp] theorem vDrovers_modRec (s : State) (c : Nat) (f : Rec → Rec) :
    (modRec s c f).vDrovers = s.vDrovers := by simp [modRec, vDrovers_eta]

@[simp] theorem vDrovers_send (s : State) (src dst : Node) (net : Net) (c : Nat) (b : Body) :
    (send s src dst net c b).vDrovers = s.vDrovers := by simp [send, vDrovers_eta]

@[simp] theorem vDrovers_sendBridle (s : State) (src dst : Node) (c : Nat) (b : Body) :
    (sendBridle s src dst c b).vDrovers = s.vDrovers := by simp [sendBridle]

@[simp] theorem vDrovers_modPort (s : State) (n : Nat) (f : Port → Port) :
    (modPort s n f).vDrovers = s.vDrovers := by simp [modPort, vDrovers_eta]

@[simp] theorem vDrovers_wireFlit (s : State) (n : Nat) (b : List Byte) (seq : BitVec 16) :
    (wireFlit s n b seq).vDrovers = s.vDrovers := by simp [wireFlit, vDrovers_eta]

theorem vDrovers_sendOne (s t : State) (n : Nat) (h : sendOne s n = some t) : t.vDrovers = s.vDrovers := by
  unfold sendOne at h
  dsimp only at h
  split at h
  · cases h
  · split at h
    · cases h
    · cases h
      simp

@[simp] theorem vDrovers_pump (k : Nat) (s : State) (n : Nat) : (pump k s n).vDrovers = s.vDrovers := by
  induction k generalizing s with
  | zero => rfl
  | succ k ih =>
    unfold pump
    split
    · rw [ih]
      exact vDrovers_sendOne _ _ _ ‹_›
    · rfl

@[simp] theorem vDrovers_pumpPort (s : State) (n : Nat) : (pumpPort s n).vDrovers = s.vDrovers := by simp [pumpPort]

@[simp] theorem vDrovers_sendFlit (s : State) (via : Nat) (b : List Byte) :
    (sendFlit s via b).vDrovers = s.vDrovers := by
  unfold sendFlit
  repeat' split
  all_goals simp [vDrovers_eta]

@[simp] theorem vDrovers_dbStore (s : State) (type c : Nat) (payload : List Byte) :
    (dbStore s type c payload).vDrovers = s.vDrovers := by simp [dbStore, vDrovers_eta]

@[simp] theorem vDrovers_dbAppend (s : State) (type c : Nat) (payload : List Byte) :
    (dbAppend s type c payload).vDrovers = s.vDrovers := by simp [dbAppend, vDrovers_eta]

@[simp] theorem vDrovers_dbEpoch (s : State) (c epoch event target : Nat) :
    (dbEpoch s c epoch event target).vDrovers = s.vDrovers := by simp [dbEpoch]

@[simp] theorem vDrovers_dbFault (s : State) (c code lid team handle : Nat) :
    (dbFault s c code lid team handle).vDrovers = s.vDrovers := by simp [dbFault]

@[simp] theorem vDrovers_raiseIrq (s : State) (fn vec : Nat) :
    (raiseIrq s fn vec).vDrovers = s.vDrovers := by simp [raiseIrq, vDrovers_eta]

@[simp] theorem vDrovers_ghRecord (s : State) (r : Nat) (rec_ : List Byte) (irq : Bool) (vf vfVec : Nat) :
    (ghRecord s r rec_ irq vf vfVec).vDrovers = s.vDrovers := by simp [ghRecord, vDrovers_eta]

@[simp] theorem vDrovers_ghNote (s : State) (ring : Nat) (rec_ : List Byte) :
    (ghNote s ring rec_).vDrovers = s.vDrovers := by
  unfold ghNote
  repeat' first
    | (simp [vDrovers_eta]; done)
    | (with_reducible refine (vDrovers_foldl _ ?_ _ _).trans ?_)
    | intro _
    | split
    | dsimp only

@[simp] theorem vDrovers_ghDeliver (s : State) (m : Nat) (rec_ : List Byte) (irq : Bool) :
    (ghDeliver s m rec_ irq).vDrovers = s.vDrovers := by simp [ghDeliver]

@[simp] theorem vDrovers_emitRecord (s : State) (rec_ : List Byte) (irq : Bool) :
    (emitRecord s rec_ irq).vDrovers = s.vDrovers := by
  unfold emitRecord
  repeat' split
  all_goals simp

@[simp] theorem vDrovers_reportOstler (s : State) (source code detail c : Nat) :
    (reportOstler s source code detail c).vDrovers = s.vDrovers := by simp [reportOstler, vDrovers_eta]

@[simp] theorem vDrovers_reportFault (s : State) (source code detail c lid team handle : Nat) :
    (reportFault s source code detail c lid team handle).vDrovers = s.vDrovers := by simp [reportFault]

@[simp] theorem vDrovers_stallFault (s : State) (p c : Nat) (team : Fin 4) (pc handle action code : Nat) :
    (stallFault s p c team pc handle action code).vDrovers = s.vDrovers := by simp [stallFault]

@[simp] theorem vDrovers_trigger (s : State) (c target : Nat) :
    (trigger s c target).vDrovers = s.vDrovers := by simp [trigger]

@[simp] theorem vDrovers_modEntry (s : State) (p n : Nat) (f : Entry → Entry) :
    (modEntry s p n f).vDrovers = s.vDrovers := by simp [modEntry]

@[simp] theorem vDrovers_modCached (s : State) (p h : Nat) (f : HEntry → HEntry) :
    (modCached s p h f).vDrovers = s.vDrovers := by simp [modCached]

@[simp] theorem vDrovers_noteFirst (s : State) (c : Nat) :
    (noteFirst s c).vDrovers = s.vDrovers := by
  unfold noteFirst
  split <;> simp [vDrovers_eta]

@[simp] theorem vDrovers_openEpoch (s : State) (c reruns : Nat) :
    (openEpoch s c reruns).vDrovers = s.vDrovers := by simp [openEpoch]

@[simp] theorem vDrovers_ensureEpoch (s : State) (c : Nat) :
    (ensureEpoch s c).vDrovers = s.vDrovers := by simp [ensureEpoch]

@[simp] theorem vDrovers_takeEntry (s : State) (p : Nat) (t : Fin 4) (w : W128) (c : Nat) (eng : Engine) (start : Bool) :
    (takeEntry s p t w c eng start).1.vDrovers = s.vDrovers := by simp [takeEntry, vDrovers_eta]

@[simp] theorem vDrovers_parityFailed (s : State) (p line words : Nat) (background : Bool) :
    (parityFailed s p line words background).vDrovers = s.vDrovers := by simp [parityFailed]

@[simp] theorem vDrovers_parityRead (s : State) (p c line : Nat) :
    (parityRead s p c line).vDrovers = s.vDrovers := by
  unfold parityRead
  repeat' first
    | (simp; done)
    | (with_reducible refine (vDrovers_foldl _ ?_ _ _).trans ?_)
    | intro _
    | split
    | dsimp only

@[simp] theorem vDrovers_parityPiece (s : State) (p c : Nat) (pc : Piece) (as_ : List Int) :
    (parityPiece s p c pc as_).vDrovers = s.vDrovers := by simp [parityPiece]

@[simp] theorem vDrovers_carryPoison (s : State) (p n : Nat) (w : W128) :
    (carryPoison s p n w).vDrovers = s.vDrovers := by simp [carryPoison]

@[simp] theorem vDrovers_recordAbsent (s : State) (p : Nat) (e : Entry) :
    (recordAbsent s p e).vDrovers = s.vDrovers := by simp [recordAbsent]

@[simp] theorem vDrovers_drvAsk (s : State) (p n d : Nat) (l : Line) :
    (drvAsk s p n d l).vDrovers = s.vDrovers := by simp [drvAsk]

theorem vDrovers_def (s : State) : s.vDrovers = s.drovers := rfl

@[simp] theorem bump_drovers (s : State) (off wrapOff wrapBit : Nat) :
    (bump s off wrapOff wrapBit).drovers = s.drovers := (vDrovers_def _).symm.trans ((vDrovers_bump ..).trans (vDrovers_def _))

@[simp] theorem recordFirst_drovers (s : State) (off v : Nat) :
    (recordFirst s off v).drovers = s.drovers := (vDrovers_def _).symm.trans ((vDrovers_recordFirst ..).trans (vDrovers_def _))

@[simp] theorem yardCount_drovers (s : State) (i n : Nat) :
    (yardCount s i n).drovers = s.drovers := (vDrovers_def _).symm.trans ((vDrovers_yardCount ..).trans (vDrovers_def _))

@[simp] theorem grnCount_drovers (s : State) (i n : Nat) :
    (grnCount s i n).drovers = s.drovers := (vDrovers_def _).symm.trans ((vDrovers_grnCount ..).trans (vDrovers_def _))

@[simp] theorem dbAppend_drovers (s : State) (type c : Nat) (payload : List Byte) :
    (dbAppend s type c payload).drovers = s.drovers := (vDrovers_def _).symm.trans ((vDrovers_dbAppend ..).trans (vDrovers_def _))

@[simp] theorem reportFault_drovers (s : State) (source code detail c lid team handle : Nat) :
    (reportFault s source code detail c lid team handle).drovers = s.drovers := (vDrovers_def _).symm.trans
      ((vDrovers_reportFault ..).trans (vDrovers_def _))

@[simp] theorem noteFirst_drovers (s : State) (c : Nat) :
    (noteFirst s c).drovers = s.drovers := (vDrovers_def _).symm.trans ((vDrovers_noteFirst ..).trans (vDrovers_def _))

@[simp] theorem takeEntry_drovers (s : State) (p : Nat) (t : Fin 4) (w : W128) (c : Nat) (eng : Engine) (start : Bool) :
    (takeEntry s p t w c eng start).1.drovers = s.drovers := (vDrovers_def _).symm.trans ((vDrovers_takeEntry ..).trans
      (vDrovers_def _))

@[simp] theorem parityPiece_drovers (s : State) (p c : Nat) (pc : Piece) (as_ : List Int) :
    (parityPiece s p c pc as_).drovers = s.drovers := (vDrovers_def _).symm.trans ((vDrovers_parityPiece ..).trans
      (vDrovers_def _))

@[simp] theorem carryPoison_drovers (s : State) (p n : Nat) (w : W128) :
    (carryPoison s p n w).drovers = s.drovers := (vDrovers_def _).symm.trans ((vDrovers_carryPoison ..).trans (vDrovers_def _))

@[simp] theorem recordAbsent_drovers (s : State) (p : Nat) (e : Entry) :
    (recordAbsent s p e).drovers = s.drovers := (vDrovers_def _).symm.trans ((vDrovers_recordAbsent ..).trans (vDrovers_def _))

@[simp] theorem drover_drvAsk (s : State) (p n d : Nat) (l : Line) (j₀ : Nat) :
    drover (drvAsk s p n d l) j₀ = drover s j₀ := congrArg (nget ({} : Drover) · j₀) ((vDrovers_def _).symm.trans
      ((vDrovers_drvAsk ..).trans (vDrovers_def _)))

/-! ### The positions -/

@[simp] theorem vPositions_recordFirst (s : State) (off v : Nat) :
    (recordFirst s off v).vPositions = s.vPositions := by simp [recordFirst]

@[simp] theorem vPositions_grnCount (s : State) (i n : Nat) :
    (grnCount s i n).vPositions = s.vPositions := by simp [grnCount]

@[simp] theorem vPositions_noteFirst (s : State) (c : Nat) :
    (noteFirst s c).vPositions = s.vPositions := by
  unfold noteFirst
  split <;> simp [vPositions_eta]

@[simp] theorem bump_positions (s : State) (off wrapOff wrapBit : Nat) :
    (bump s off wrapOff wrapBit).positions = s.positions := (vPositions_def _).symm.trans ((vPositions_bump ..).trans
      (vPositions_def _))

@[simp] theorem recordFirst_positions (s : State) (off v : Nat) :
    (recordFirst s off v).positions = s.positions := (vPositions_def _).symm.trans ((vPositions_recordFirst ..).trans
      (vPositions_def _))

@[simp] theorem grnCount_positions (s : State) (i n : Nat) :
    (grnCount s i n).positions = s.positions := (vPositions_def _).symm.trans ((vPositions_grnCount ..).trans (vPositions_def _))

@[simp] theorem dbAppend_positions (s : State) (type c : Nat) (payload : List Byte) :
    (dbAppend s type c payload).positions = s.positions := (vPositions_def _).symm.trans ((vPositions_dbAppend ..).trans
      (vPositions_def _))

@[simp] theorem reportFault_positions (s : State) (source code detail c lid team handle : Nat) :
    (reportFault s source code detail c lid team handle).positions = s.positions := (vPositions_def _).symm.trans
      ((vPositions_reportFault ..).trans (vPositions_def _))

@[simp] theorem noteFirst_positions (s : State) (c : Nat) :
    (noteFirst s c).positions = s.positions := (vPositions_def _).symm.trans ((vPositions_noteFirst ..).trans (vPositions_def _))

end Sys2Proof.Machine
end

section
/-!
PROOFS. What the Yard and the Drovers are sent by an instruction (O22).
-/

namespace Sys2Proof.Machine

/-! ### What stands while an instruction sends (R119 to R124) -/

/-- From s to u lines have been sent, at most: the Loft, the images, the roster, the device's ID, the Drovers and the Ledger are the same,
and the Yard's messages have become more. -/
structure Carries (s u : State) : Prop where
  loft : u.loft = s.loft
  positions : u.positions = s.positions
  image : ∀ c, imageOf u c = imageOf s c
  device : csrGet u 0x07C0000 = csrGet s 0x07C0000
  drovers : u.drovers = s.drovers
  ledger : u.ledger = s.ledger
  yard : s.yard <+: u.yard

namespace Carries

theorem refl (s : State) : Carries s s := ⟨rfl, rfl, fun _ => rfl, rfl, rfl, rfl, List.prefix_rfl⟩

theorem trans {s u v : State} (h : Carries s u) (k : Carries u v) : Carries s v :=
  ⟨k.loft.trans h.loft, k.positions.trans h.positions, fun c => (k.image c).trans (h.image c), k.device.trans h.device,
    k.drovers.trans h.drovers, k.ledger.trans h.ledger, h.yard.trans k.yard⟩

theorem ite {c : Prop} [Decidable c] {s a b : State} (ha : Carries s a) (hb : Carries s b) : Carries s (if c then a else b) := by
  split
  · exact ha
  · exact hb

theorem foldl {β : Type} {g : State → β → State} (h : ∀ s b, Carries s (g s b)) (l : List β) (s : State) : Carries s (l.foldl g s) := by
  induction l generalizing s with
  | nil => exact refl s
  | cons b l ih => exact (h s b).trans (ih _)

theorem modStall (s : State) (p : Nat) (f : Stall → Stall) : Carries s (modStall s p f) :=
  ⟨rfl, rfl, fun _ => rfl, rfl, rfl, rfl, List.prefix_rfl⟩

theorem send (s : State) (src dst : Node) (net : Net) (c : Nat) (b : Body) : Carries s (send s src dst net c b) :=
  ⟨rfl, rfl, fun _ => rfl, rfl, rfl, rfl, List.prefix_append ..⟩

/-- A step that leaves the yard and the fields that sending reads. -/
theorem of_fields {s u : State} (loft : u.loft = s.loft) (positions : u.positions = s.positions) (ctxs : ∀ c, ctx u c = ctx s c)
    (device : csrGet u 0x07C0000 = csrGet s 0x07C0000) (drovers : u.drovers = s.drovers) (ledger : u.ledger = s.ledger)
    (yard : u.yard = s.yard) : Carries s u :=
  ⟨loft, positions, fun c => by rw [imageOf, ctxs, imageOf], device, drovers, ledger, yard ▸ List.prefix_rfl⟩

theorem yardCount (s : State) {i : Nat} (hi : i < 32) (n : Nat) : Carries s (yardCount s i n) :=
  of_fields (yardCount_loft ..) (yardCount_positions ..) (ctx_yardCount s i n) (csrGet_yardCount s (by decide) hi n) (yardCount_drovers ..)
    (yardCount_ledger ..) (yardCount_yard ..)

theorem reportFault (s : State) (source code detail c lid team handle : Nat) : Carries s (reportFault s source code detail c lid team handle) :=
  of_fields (reportFault_loft ..) (reportFault_positions ..) (ctx_reportFault s source code detail c lid team handle)
    (csrGet_reportFault s (by unfold OffReports; omega) ..) (reportFault_drovers ..) (reportFault_ledger ..) (reportFault_yard ..)

theorem recordFirst (s : State) {off : Nat} (h : 0x07C0000 ≠ off) (v : Nat) : Carries s (recordFirst s off v) :=
  of_fields (recordFirst_loft ..) (recordFirst_positions ..) (ctx_recordFirst s off v) (csrGet_recordFirst_other s h v) (recordFirst_drovers ..)
    (recordFirst_ledger ..) (recordFirst_yard ..)

theorem bump (s : State) {off wrap : Nat} (h : 0x07C0000 ≠ off) (h' : 0x07C0000 ≠ wrap) (i : Nat) : Carries s (bump s off wrap i) :=
  of_fields (bump_loft ..) (bump_positions ..) (ctx_bump s off wrap i) (csrGet_bump_other s h h') (bump_drovers ..) (bump_ledger ..) (bump_yard ..)

theorem modRec (s : State) (c : Nat) (f : Rec → Rec) : Carries s (modRec s c f) := ⟨rfl, rfl, fun _ => rfl, rfl, rfl, rfl, List.prefix_rfl⟩

theorem trigger (s : State) (c target : Nat) : Carries s (trigger s c target) := .ite (modRec ..) (refl s)

theorem dbAppend (s : State) (type c : Nat) (payload : List Byte) : Carries s (dbAppend s type c payload) :=
  of_fields (dbAppend_loft ..) (dbAppend_positions ..) (ctx_dbAppend s type c payload) (csrGet_dbAppend s (by unfold OffReports; omega) ..)
    (dbAppend_drovers ..) (dbAppend_ledger ..) (dbAppend_yard ..)

theorem stallFault (s : State) (p c : Nat) (t : Fin 4) (pc handle action code : Nat) : Carries s (stallFault s p c t pc handle action code) :=
  ((recordFirst s (by unfold stallCsr; omega) _).trans (yardCount _ (by decide) 1)).trans (reportFault ..)

theorem grnCount (s : State) {i : Nat} (hi : i < 16) (n : Nat) : Carries s (grnCount s i n) :=
  of_fields (grnCount_loft ..) (grnCount_positions ..) (ctx_grnCount s i n) (csrGet_bumpBy_other s (by omega) (by omega)) (grnCount_drovers ..)
    (grnCount_ledger ..) (grnCount_yard ..)

end Carries

theorem carries_sendBulk (s : State) (src dst : Node) (net : Net) (c : Nat) (b : Body) (n : Nat) : Carries s (sendBulk s src dst net c b n) :=
  (Carries.send ..).trans (.yardCount _ (by decide) n)

theorem carries_sendBridle (s : State) (src dst : Node) (c : Nat) (b : Body) : Carries s (sendBridle s src dst c b) :=
  (Carries.send ..).trans (.yardCount _ (by decide) 1)

theorem carries_noteFirst (s : State) (c : Nat) : Carries s (noteFirst s c) := by
  have image (d : Nat) : imageOf (noteFirst s c) d = imageOf s d := by
    have mod (f : Ctx → Ctx) (hf : ∀ x, (f x).image = x.image) : imageOf (modCtx s c f) d = imageOf s d := by
      unfold imageOf
      by_cases h : d = c
      · rw [h, ctx_modCtx_same, hf]
      · rw [ctx_modCtx_other _ h]
    unfold noteFirst
    split
    · rfl
    · next x _ =>
      have noted := mod (fun y => { y with cur := some { x with first := some (now s - x.at_.toNat) } }) fun _ => rfl
      split
      · rfl
      · dsimp only
        split
        · exact noted
        · exact noted
  exact ⟨noteFirst_loft .., noteFirst_positions .., image, csrGet_congr (noteFirst_csr ..) _, noteFirst_drovers .., noteFirst_ledger ..,
    noteFirst_yard s c ▸ List.prefix_rfl⟩

theorem carries_ensureEpoch (s : State) (c : Nat) : Carries s (ensureEpoch s c) := by
  unfold ensureEpoch
  refine .ite ?_ (.refl s)
  unfold openEpoch
  dsimp only
  exact .ite (.refl s) ((Carries.modRec ..).trans (.dbAppend ..))

theorem carries_parityFailed (s : State) (p line words : Nat) (background : Bool) : Carries s (parityFailed s p line words background) := by
  have counted (v : Nat) := (Carries.recordFirst s (off := 0x4300) (by decide) v).trans
    (.bump _ (off := 0x4308) (wrap := 0x4310) (by decide) (by decide) 0)
  exact (((counted _).trans (.reportFault ..)).trans (.modRec ..)).trans (.trigger ..)

theorem carries_parityRead (s : State) (p c line : Nat) : Carries s (parityRead s p c line) := by
  unfold parityRead
  dsimp only
  split
  · split
    · exact .refl s
    · exact carries_parityFailed ..
  · exact .refl s

theorem carries_parityPiece (s : State) (p c : Nat) (pc : Piece) (as_ : List Int) : Carries s (parityPiece s p c pc as_) :=
  .foldl (fun u _ => .ite (carries_parityRead u ..) (.refl u)) as_ s

theorem carries_takeEntry (s : State) (p : Nat) (t : Fin 4) (w : W128) (c : Nat) (eng : Engine) (start : Bool) :
    Carries s (takeEntry s p t w c eng start).1 := by
  have counted (n : Nat) : Carries (ensureEpoch s c) { ensureEpoch s c with msgSeq := n } :=
    ⟨rfl, rfl, fun _ => rfl, rfl, rfl, rfl, List.prefix_rfl⟩
  have taken (f : Stall → Stall) (n : Nat) := ((carries_ensureEpoch s c).trans (counted n)).trans (.modStall _ p f)
  have pinned (b : Bool) (u : State) (h : Nat) : Carries u (if b then modCached u p h fun v => { v with pinned := true } else u) :=
    .ite (Carries.modStall ..) (.refl u)
  exact (taken ..).trans (pinned ..)

section

variable (s : State) (p n : Nat)

theorem carries_modEntry (f : Entry → Entry) : Carries s (modEntry s p n f) := Carries.modStall ..

theorem carries_modCached (h : Nat) (f : HEntry → HEntry) : Carries s (modCached s p h f) := Carries.modStall ..

theorem carries_carryPoison (w : W128) : Carries s (carryPoison s p n w) := .ite (carries_modEntry ..) (.refl s)

theorem carries_countDrop (c k : Nat) : Carries s (countDrop s p c k) := Carries.modStall ..

theorem carries_recordAbsent (e : Entry) : Carries s (recordAbsent s p e) := (Carries.stallFault ..).trans (.yardCount _ (by decide) 1)

theorem carries_engineAbsent (e : Entry) : Carries s (engineAbsent s p n e) := (carries_recordAbsent ..).trans (carries_modEntry ..)

theorem carries_sendWaiting (dst : Node) (c : Nat) (b : Body) (lines : Nat) (isWrite : Bool) :
    Carries s (sendWaiting s p n dst c b lines isWrite) := by
  have sent (f : Entry → Entry) := (carries_sendBulk s (.stall p) dst .req c b lines).trans (carries_modEntry _ p n f)
  unfold sendWaiting
  dsimp only
  exact .ite ((sent _).trans (.modStall ..)) (sent _)

theorem carries_sendLine (q c k : Nat) (to_ : LineTo) (l : Line) : Carries s (sendLine s p n q c k to_ l) := by
  unfold sendLine
  dsimp only
  exact ((carries_sendBulk ..).trans (carries_modEntry ..)).trans (.modStall ..)

theorem carries_sendTail (q c : Nat) : Carries s (sendTail s p n q c) := by
  have sent (act : BitVec 15) (r : Option W128) (b : Bool) (f : Entry → Entry) : Carries s (if act = 0 && r = none && !b then s
      else modEntry (send s (.stall p) (.stall q) .req c (.done (hD (entryAt s p n).word) act r b)) p n f) :=
    .ite (.refl s) ((Carries.send ..).trans (carries_modEntry ..))
  exact sent ..

theorem carries_sentEntry (elsewhere : Bool) : Carries s (sentEntry s p n elsewhere) := carries_modEntry ..

theorem carries_drvAsk (d : Nat) (l : Line) : Carries s (drvAsk s p n d l) := (carries_sendBridle ..).trans (carries_modEntry ..)

theorem carries_drvAsks (asks : List (Nat × Line)) : Carries s (drvAsks p n asks s) := by
  induction asks generalizing s with
  | nil => exact carries_modEntry ..
  | cons ask rest ih =>
    unfold drvAsks
    exact .ite ((carries_drvAsk ..).trans (ih _)) (carries_modEntry ..)

theorem carries_sendSlots (c : Nat) (op : GrnOp) (poison : Bool) (ls : List (Nat × Line)) : Carries s (sendSlots s p n c op poison ls) := by
  unfold sendSlots
  dsimp only
  exact .ite (.foldl (fun u _ => carries_sendWaiting u ..) _ s) (.foldl (fun u _ => carries_sendWaiting u ..) _ s)

theorem carries_issued (t : Fin 4) : Carries s (issued s p t) := Carries.modStall ..

end

/-! #### What sending reads and shows -/

theorem Carries.onTheWay {s u : State} (h : Carries s u) {src dst : Node} {b : Body} (way : OnTheWay s src dst b) : OnTheWay u src dst b := by
  obtain ⟨m, mem, is_⟩ := way
  exact ⟨m, h.yard.subset mem, is_⟩

/-- What one step of a fold puts on its way, in every state that the steps before it can leave, is on its way after the fold. -/
theorem shown_foldl {β : Type} {g : State → β → State} (carries : ∀ s b, Carries s (g s b)) {Shown : State → Prop}
    (mono : ∀ u v, Carries u v → Shown u → Shown v) (Inv : State → Prop) (keeps : ∀ v b, Inv v → Inv (g v b)) {l : List β} {b : β}
    (mem : b ∈ l) (sent : ∀ v, Inv v → Shown (g v b)) {s : State} (start : Inv s) : Shown (l.foldl g s) := by
  induction l generalizing s with
  | nil => cases mem
  | cons x l ih =>
    obtain rfl | mem := List.mem_cons.mp mem
    · exact mono _ _ (Carries.foldl carries l _) (sent s start)
    · exact ih mem (keeps s x start)

theorem foldl_keeps_inv {β : Type} {g : State → β → State} (Inv : State → Prop) (keeps : ∀ v b, Inv v → Inv (g v b)) (l : List β) {s : State}
    (start : Inv s) : Inv (l.foldl g s) := by
  induction l generalizing s with
  | nil => exact start
  | cons b l ih => exact ih (keeps s b start)

theorem Carries.readPiece {s u : State} (h : Carries s u) (p c : Nat) (d : HDecl) (pc : Piece) (a : Int) :
    readPiece u p c d pc a = readPiece s p c d pc a := readPiece_congr h.loft p c d pc a

theorem Carries.deviceId {s u : State} (h : Carries s u) : deviceId u = deviceId s := deviceId_congr h.device

theorem Carries.lidOf {s u : State} (h : Carries s u) (p : Nat) : lidOf u p = lidOf s p := by
  rw [Machine.lidOf, position, h.positions, ← position, ← Machine.lidOf]

theorem Carries.posOfLid {s u : State} (h : Carries s u) (l : Nat) : posOfLid u l = posOfLid s l := by
  rw [Machine.posOfLid, h.positions, Machine.posOfLid]

/-! ### An instruction that is under way -/

/-- An instruction of Team t, with word w, of the context c of a state s has issued and holds entry n of stall p; what it does reads the
Loft, the images and the roster of s. -/
structure UnderWay (p : Nat) (t : Fin 4) (n : Nat) (w : W128) (c : Nat) (s u : State) : Prop where
  carries : Carries s u
  entry : ∃ e, entryOf (stall u p) n = some e ∧ e.word = w ∧ e.team = t ∧ e.ctx = c ∧ e.pc = (getTeam (stall s p).live t).pc ∧
    e.loops = capture (getTeam (stall s p).live t)

section

variable {p : Nat} {t : Fin 4} {n : Nat} {w : W128} {c : Nat} {s u v : State}

theorem UnderWay.step (h : UnderWay p t n w c s u) (carries : Carries u v) (stay : EntriesStay p u v) : UnderWay p t n w c s v := by
  obtain ⟨e, at_, word, team, context, pc, loops⟩ := h.entry
  have kept := stay.entries n
  rw [at_, Option.map_some] at kept
  obtain ⟨e', at', same⟩ := Option.map_eq_some_iff.mp kept
  simp only [issuedAs, Prod.mk.injEq] at same
  obtain ⟨-, word', team', context', pc', loops'⟩ := same
  exact ⟨h.carries.trans carries, e', at', word'.trans word, team'.trans team, context'.trans context, pc'.trans pc, loops'.trans loops⟩

/-- The entry of an instruction that is under way. -/
theorem UnderWay.entryAt (h : UnderWay p t n w c s u) : (entryAt u p n).word = w ∧ (entryAt u p n).team = t ∧ (entryAt u p n).ctx = c ∧
    (entryAt u p n).pc = (getTeam (stall s p).live t).pc ∧ (entryAt u p n).loops = capture (getTeam (stall s p).live t) := by
  obtain ⟨e, at_, is_⟩ := h.entry
  rw [Machine.entryAt, at_]
  exact is_

/-- An instruction that has taken its entry is under way. -/
theorem underWay_takeEntry (free : freeEntry (stall s p) = some n) (w : W128) (c d : Nat) (t : Fin 4) (eng : Engine) (start : Bool) :
    UnderWay p t n w c s (takeEntry (noteFirst s d) p t w c eng start).1 := by
  have same : stall (noteFirst s d) p = stall s p := stall_noteFirst ..
  obtain ⟨entry, -⟩ := (takes_takeEntry p t eng w c start (noteFirst s d)).taken n (by rw [same, free])
  obtain ⟨e, at_, is_⟩ := Option.map_eq_some_iff.mp entry
  simp only [issuedAs, Prod.mk.injEq, same] at is_
  obtain ⟨-, word, team, context, pc, loops⟩ := is_
  exact ⟨(carries_noteFirst s d).trans (carries_takeEntry ..), e, at_, word, team, context, pc, loops⟩

/-- The number of the entry that an instruction takes is the lowest free one. -/
theorem takeEntry_free (free : freeEntry (stall s p) = some n) (w : W128) (c d : Nat) (t : Fin 4) (eng : Engine) (start : Bool) :
    (takeEntry (noteFirst s d) p t w c eng start).2 = n := by
  rw [takeEntry_snd, stall_noteFirst, free, Option.getD_some]

theorem underWay_carry (free : freeEntry (stall s p) = some n) (w : W128) (c d : Nat) (t : Fin 4) (eng : Engine) :
    UnderWay p t n w c s (carryPoison (takeEntry (noteFirst s d) p t w c eng true).1 p n w) :=
  (underWay_takeEntry free ..).step (carries_carryPoison ..) (stay_carryPoison ..)

/-- The offsets and the iterations of an entry are those of its word and loops. -/
theorem UnderWay.addresses (h : UnderWay p t n (headOfTeam s p t) c s u) : entryIts (Machine.entryAt u p n) = headIts s p t ∧
    (∀ js, addrA (Machine.entryAt u p n) js = addrA (headEntry s p t) js) ∧ (∀ js, addrB (Machine.entryAt u p n) js = addrB (headEntry s p t) js) ∧
    (∀ js, addrD (Machine.entryAt u p n) js = addrD (headEntry s p t) js) := by
  obtain ⟨word, -, -, -, loops⟩ := h.entryAt
  refine ⟨?_, fun js => ?_, fun js => ?_, fun js => ?_⟩
  · rw [headIts, entryIts, word, loops, entryIts]
    rfl
  · rw [addrA, word, loops, addrA]
    rfl
  · rw [addrB, word, loops, addrB]
    rfl
  · rw [addrD, word, loops, addrD]
    rfl

/-- The lines that an instruction under way reads are those of the state that it issued in. -/
theorem UnderWay.lineOf (h : UnderWay p t n w (runningNo s) s u) (k : Nat) (a : Int) :
    readPiece u p (runningNo s) (hdl s k) (pieceAt s p k) a = lineOf s p k a := h.carries.readPiece ..

end

theorem free_of_issues {s : State} {p : Nat} {t : Fin 4} {op : Nat} {o : OpInfo} (h : Issues s p t op) (hop : opInfo op = some o)
    (engine : o.fmt ≠ .s) : ∃ n, freeEntry (stall s p) = some n := by
  obtain ⟨same, -, go⟩ := h
  exact Option.isSome_iff_exists.mp (free_of_go go (by rw [same, hop]) engine)

/-! ### What the Yard carries of an instruction (R270, R272, R273, R275) -/

/-- A line, with some poison, is on its way from stall p to stall q. -/
def LineSent (p q : Nat) (to_ : LineTo) (l : Line) (stamp : Option W64) (by_ : Origin) (u : State) : Prop :=
  ∃ b, OnTheWay u (.stall p) (.stall q) (.line to_ l b stamp (some p) by_)

theorem LineSent.mono {p q : Nat} {to_ : LineTo} {l : Line} {stamp : Option W64} {by_ : Origin} (u v : State) (h : Carries u v)
    (sent : LineSent p q to_ l stamp by_ u) : LineSent p q to_ l stamp by_ v := by
  obtain ⟨b, way⟩ := sent
  exact ⟨b, h.onTheWay way⟩

section

variable {s u : State} {p : Nat} {t : Fin 4} {n : Nat} {w : W128} {c : Nat}

/-- A line that an instruction under way sends. -/
theorem lineSent_sendLine (h : UnderWay p t n w c s u) (q k : Nat) (to_ : LineTo) {l l' : Line} (line : l = l') :
    LineSent p q to_ l' (stampOf s c) ⟨p, t, (getTeam (stall s p).live t).pc⟩ (sendLine u p n q c k to_ l) := by
  obtain ⟨-, team, -, pc, -⟩ := h.entryAt
  have stamp : stampOf u c = stampOf s c := by rw [stampOf, h.carries.image, h.carries.ledger, stampOf]
  subst line
  refine ⟨(entryAt u p n).poison, ?_⟩
  have sent : OnTheWay (sendLine u p n q c k to_ l) (.stall p) (.stall q)
      (.line to_ l (entryAt u p n).poison (stampOf u c) (some p) ⟨p, (entryAt u p n).team, (entryAt u p n).pc⟩) := by
    refine ((carries_modEntry ..).trans (Carries.modStall ..)).onTheWay (s := sendBulk u (.stall p) (.stall q) .req c _ k) ?_
    exact (Carries.yardCount _ (by decide) k).onTheWay (onTheWay_send ..)
  rwa [stamp, team, pc] at sent

theorem UnderWay.sendLine (h : UnderWay p t n w c s u) (q k : Nat) (to_ : LineTo) (l : Line) :
    UnderWay p t n w c s (sendLine u p n q c k to_ l) := h.step (carries_sendLine ..) (stay_sendLine ..)

theorem UnderWay.parityPiece (h : UnderWay p t n w c s u) (pc : Piece) (as_ : List Int) : UnderWay p t n w c s (parityPiece u p c pc as_) :=
  h.step (carries_parityPiece ..) (stay_parityPiece ..)

end

/-- One iteration of YD.PUT to a stall. -/
def putLine1 (p n q c : Nat) (da : HDecl) (pa : Piece) (to_ : List Nat → LineTo) (a : List Nat → Int) (u : State) (js : List Nat) : State :=
  sendLine (parityPiece u p c pa [a js]) p n q c 1 (to_ js) (readPiece (parityPiece u p c pa [a js]) p c da pa (a js))

theorem carries_putLine1 (p n q c : Nat) (da : HDecl) (pa : Piece) (to_ : List Nat → LineTo) (a : List Nat → Int) (u : State) (js : List Nat) :
    Carries u (putLine1 p n q c da pa to_ a u js) := (carries_parityPiece ..).trans (carries_sendLine ..)

theorem ydPutRun_eq {s : State} {p : Nat} {t : Fin 4} {n q : Nat} {w : W128} {c : Nat} (number : (takeEntry s p t w c .yd true).2 = n)
    (one : destLid w ≠ 0x3FF) (to_ : posOfLid s (destLid w) = some q) : ydPutRun p t s w c =
      (let s2 := carryPoison (takeEntry s p t w c .yd true).1 p n w
       let e := entryAt s2 p n
       let da := decl (imageOf s c) (hA w)
       let pa := pieceOf (imageOf s c) (deviceId s) da (lidOf s p)
       sentEntry (sendTail ((entryIts e).foldl (putLine1 p n q c da pa (fun js => .piece (hD w) (addrD e js)) (addrA e)) s2) p n q c) p n (!clocOf w)) := by
  subst number
  unfold ydPutRun
  dsimp only
  rw [if_neg one, to_]
  rfl

theorem ydPut_completes {s : State} {p : Position} {t : TeamIx} {q : Nat} (h : Issues s p t 0x90) (one : destLid (headOfTeam s p t) ≠ 0x3FF)
    (to_ : posOfLid s (destLid (headOfTeam s p t)) = some q) : Completes (.ydPut p t) s fun u =>
      ∀ js ∈ headIts s p t, LineSent p q (.piece (hD (headOfTeam s p t)) (addrD (headEntry s p t) js))
        (lineOf s p (hA (headOfTeam s p t)) (addrA (headEntry s p t) js)) (stampOf s (runningNo s)) ⟨p, t, (getTeam (stall s p).live t).pc⟩ u := by
  obtain ⟨n, free⟩ := free_of_issues h rfl (by decide)
  have first := carries_noteFirst s (runningNo s)
  have way := underWay_carry free (headOfTeam s p t) (runningNo s) (runningNo s) t .yd
  have run : exec (.ydPut p t) s = .next _ := congrArg Host.Outcome.next (issueOp_of_issues (ydPutRun p t) h)
  rw [ydPutRun_eq (takeEntry_free free ..) one ((first.posOfLid _).trans to_)] at run
  dsimp only at run
  obtain ⟨its, addrsA, -, addrsD⟩ := way.addresses
  refine completes_of run fun js mem => ?_
  refine LineSent.mono _ _ (((carries_sendTail ..).trans (carries_sentEntry ..)).trans (carries_issued ..)) ?_
  rw [its, first.image, first.deviceId, first.lidOf]
  refine shown_foldl (carries_putLine1 _ _ _ _ _ _ _ _) LineSent.mono (UnderWay p t n (headOfTeam s p t) (runningNo s) s)
    (fun v js hv => (hv.parityPiece ..).sendLine ..) mem (fun v hv => ?_) way
  have read := (hv.parityPiece (pieceAt s p (hA (headOfTeam s p t))) [addrA (headEntry s p t) js]).lineOf (hA (headOfTeam s p t))
    (addrA (headEntry s p t) js)
  rw [putLine1, addrsA, addrsD]
  exact lineSent_sendLine (hv.parityPiece ..) q 1 _ read

/-! #### YD.MCAST -/

theorem stay_yardCount (s : State) (p i n : Nat) : EntriesStay p s (yardCount s i n) := .of_stalls (yardCount_stalls ..) (yardCount_ledger ..)

/-- One iteration of YD.MCAST to the stalls qs. -/
def mcastLine1 (p n c : Nat) (qs : List Nat) (da : HDecl) (pa : Piece) (to_ : List Nat → LineTo) (a : List Nat → Int) (u : State) (js : List Nat) :
    State :=
  let s0 := yardCount (parityPiece u p c pa [a js]) 6 1
  qs.foldl (fun v q => sendLine v p n q c 0 (to_ js) (readPiece s0 p c da pa (a js))) s0

theorem carries_mcastLine1 (p n c : Nat) (qs : List Nat) (da : HDecl) (pa : Piece) (to_ : List Nat → LineTo) (a : List Nat → Int) (u : State)
    (js : List Nat) : Carries u (mcastLine1 p n c qs da pa to_ a u js) :=
  ((carries_parityPiece ..).trans (.yardCount _ (by decide) 1)).trans (.foldl (fun v q => carries_sendLine v ..) qs _)

/-- YD.MCAST with its entry taken and every position that the set names of its members found, or their absence recorded. -/
def mcastOpened (p : Nat) (t : Fin 4) (s : State) (w : W128) (c n : Nat) : State :=
  let s2 := carryPoison (takeEntry s p t w c .yd true).1 p n w
  if (setMembers (imageOf s c) (bitsOf (modE2 w) 7 0)).all fun l => (posOfLid s l).isSome then s2 else recordAbsent s2 p (entryAt s2 p n)

theorem ydMcastRun_eq {s : State} {p : Nat} {t : Fin 4} {n : Nat} {w : W128} {c : Nat} (number : (takeEntry s p t w c .yd true).2 = n) :
    ydMcastRun p t s w c =
      (let e := entryAt (carryPoison (takeEntry s p t w c .yd true).1 p n w) p n
       let da := decl (imageOf s c) (hA w)
       let pa := pieceOf (imageOf s c) (deviceId s) da (lidOf s p)
       let qs := setPositions s (bitsOf (modE2 w) 7 0)
       sentEntry (qs.foldl (fun v q => sendTail v p n q c) ((entryIts e).foldl
         (mcastLine1 p n c qs da pa (fun js => .piece (hD w) (addrD e js)) (addrA e)) (mcastOpened p t s w c n))) p n (!clocOf w)) := by
  subst number
  rfl

section

variable {s u : State} {p : Nat} {t : Fin 4} {n : Nat} {w : W128} {c : Nat}

theorem UnderWay.yardCount (h : UnderWay p t n w c s u) {i : Nat} (hi : i < 32) (k : Nat) : UnderWay p t n w c s (yardCount u i k) :=
  h.step (.yardCount u hi k) (stay_yardCount ..)

theorem UnderWay.recordAbsent (h : UnderWay p t n w c s u) (e : Entry) : UnderWay p t n w c s (recordAbsent u p e) :=
  h.step (carries_recordAbsent ..) (stay_recordAbsent ..)

theorem UnderWay.mcastLine1 (h : UnderWay p t n w c s u) (d : Nat) (qs : List Nat) (da : HDecl) (pa : Piece) (to_ : List Nat → LineTo)
    (a : List Nat → Int) (js : List Nat) : UnderWay p t n w c s (mcastLine1 p n d qs da pa to_ a u js) :=
  foldl_keeps_inv _ (fun _ _ hv => hv.step (carries_sendLine ..) (stay_sendLine ..)) qs
    ((h.step (carries_parityPiece u p d pa [a js]) (stay_parityPiece ..)).yardCount (i := 6) (by decide) 1)

theorem underWay_mcastOpened (free : freeEntry (stall s p) = some n) (w : W128) (c d : Nat) (t : Fin 4) :
    UnderWay p t n w c s (mcastOpened p t (noteFirst s d) w c n) := by
  have way := underWay_carry free w c d t .yd
  unfold mcastOpened
  dsimp only
  split
  · exact way
  · exact way.recordAbsent _

end

theorem setPositions_noteFirst (s : State) (c i : Nat) : setPositions (noteFirst s c) i = setPositions s i := by
  unfold setPositions
  rw [noteFirst_positions]
  simp only [stall_noteFirst]

/-- What an iteration of YD.MCAST sends to one of the stalls of its set. -/
theorem lineSent_mcastLine1 {s u : State} {p : Nat} {t : Fin 4} {n q : Nat} {w : W128} (h : UnderWay p t n w (runningNo s) s u) {qs : List Nat}
    (mem : q ∈ qs) (k : Nat) (to_ : List Nat → LineTo) (a : List Nat → Int) (js : List Nat) :
    LineSent p q (to_ js) (lineOf s p k (a js)) (stampOf s (runningNo s)) ⟨p, t, (getTeam (stall s p).live t).pc⟩
      (mcastLine1 p n (runningNo s) qs (hdl s k) (pieceAt s p k) to_ a u js) := by
  have ready := (h.parityPiece (c := runningNo s) (pieceAt s p k) [a js]).yardCount (i := 6) (by decide) 1
  unfold mcastLine1
  dsimp only
  rw [ready.lineOf k (a js)]
  refine shown_foldl (b := q) (fun v q => ?_) LineSent.mono (UnderWay p t n w (runningNo s) s) (fun v x hv => ?_) mem (fun v hv => ?_) ready
  · exact carries_sendLine ..
  · exact hv.sendLine ..
  · exact lineSent_sendLine hv q 0 _ rfl

theorem ydMcast_completes {s : State} {p : Position} {t : TeamIx} {q : Nat} (h : Issues s p t 0x91)
    (mem : q ∈ setPositions s (bitsOf (modE2 (headOfTeam s p t)) 7 0)) : Completes (.ydMcast p t) s fun u =>
      ∀ js ∈ headIts s p t, LineSent p q (.piece (hD (headOfTeam s p t)) (addrD (headEntry s p t) js))
        (lineOf s p (hA (headOfTeam s p t)) (addrA (headEntry s p t) js)) (stampOf s (runningNo s)) ⟨p, t, (getTeam (stall s p).live t).pc⟩ u := by
  obtain ⟨n, free⟩ := free_of_issues h rfl (by decide)
  have first := carries_noteFirst s (runningNo s)
  have way := underWay_carry free (headOfTeam s p t) (runningNo s) (runningNo s) t .yd
  have run : exec (.ydMcast p t) s = .next _ := congrArg Host.Outcome.next (issueOp_of_issues (ydMcastRun p t) h)
  rw [ydMcastRun_eq (takeEntry_free free ..), setPositions_noteFirst] at run
  dsimp only at run
  obtain ⟨its, addrsA, -, addrsD⟩ := way.addresses
  refine completes_of run fun js in_ => ?_
  refine LineSent.mono _ _ (((Carries.foldl (fun v q => carries_sendTail v ..) _ _).trans (carries_sentEntry ..)).trans (carries_issued ..)) ?_
  rw [its, first.image, first.deviceId, first.lidOf]
  refine shown_foldl (carries_mcastLine1 _ _ _ _ _ _ _ _) LineSent.mono (UnderWay p t n (headOfTeam s p t) (runningNo s) s)
    (fun v js hv => hv.mcastLine1 ..) in_ (fun v hv => ?_) (underWay_mcastOpened free ..)
  have sent := lineSent_mcastLine1 hv mem (hA (headOfTeam s p t)) (fun js => .piece (hD (headOfTeam s p t)) (addrD (headEntry s p t) js))
    (addrA (headEntry s p t)) js
  rw [funext addrsA, funext addrsD]
  exact sent

/-! #### Words: YD.FLAG, YD.CADD, YD.BFLAG, YD.BCADD -/

/-- A message with a word is on its way from stall p to stall q, and its acknowledgement is waited for. -/
def WordSent (p q : Nat) (b : Body) (net : Net) (u : State) : Prop :=
  ∃ m ∈ u.yard, m.src = .stall p ∧ m.dst = .stall q ∧ m.body = b ∧ m.net = net ∧ m.id ∈ (stall u p).unacked

/-- The network of a word. -/
def wordNet (bridle : Bool) : Net := if bridle then .bridleway else .req

/-- The message of a word, sent. -/
def wordMsg (bridle : Bool) (p q : Nat) (u : State) (c : Nat) (b : Body) : State :=
  if bridle then sendBridle u (.stall p) (.stall q) c b else send u (.stall p) (.stall q) .req c b

/-- The state in which the sender of a word waits for its acknowledgement. -/
def wordSent (bridle : Bool) (p n q : Nat) (u : State) (c : Nat) (b : Body) : State :=
  modStall (modEntry (wordMsg bridle p q u c b) p n fun e => { e with sends := e.sends ++ [(u.msgSeq, q)] }) p fun x =>
    { x with unacked := x.unacked ++ [u.msgSeq] }

theorem sendWord_some {s : State} {p q : Nat} {t : Fin 4} {w : W128} {c : Nat} {b : Body} (bridle : Bool)
    (to_ : posOfLid (takeEntry s p t w c .yd true).1 (destLid w) = some q) : sendWord bridle p t s w c b =
      wordSent bridle p (takeEntry s p t w c .yd true).2 q (takeEntry s p t w c .yd true).1 c b := by
  unfold sendWord
  dsimp only
  rw [Carries.posOfLid (carries_takeEntry ..)] at to_
  rw [to_]
  rfl

theorem sendWord_none {s : State} {p : Nat} {t : Fin 4} {w : W128} {c : Nat} {b : Body} (bridle : Bool)
    (none_ : posOfLid s (destLid w) = none) : sendWord bridle p t s w c b =
      engineAbsent (takeEntry s p t w c .yd true).1 p (takeEntry s p t w c .yd true).2
        (entryAt (takeEntry s p t w c .yd true).1 p (takeEntry s p t w c .yd true).2) := by
  unfold sendWord
  dsimp only
  rw [none_]

theorem wordSent_shows (bridle : Bool) (p n q : Nat) (u : State) (c : Nat) (b : Body) (t : Fin 4) :
    WordSent p q b (wordNet bridle) (issued (wordSent bridle p n q u c b) p t) := by
  refine ⟨⟨u.msgSeq, .stall p, .stall q, wordNet bridle, c, b⟩, ?_, rfl, rfl, rfl, rfl, ?_⟩
  · have sent : (⟨u.msgSeq, .stall p, .stall q, wordNet bridle, c, b⟩ : Msg) ∈ (wordMsg bridle p q u c b).yard := by
      cases bridle
      · exact List.mem_append_right _ (List.mem_singleton_self _)
      · exact (Carries.yardCount _ (by decide) 1).yard.subset (List.mem_append_right _ (List.mem_singleton_self _))
    exact sent
  · rw [stall_issued_same]
    dsimp only
    rw [wordSent, stall_modStall_same]
    exact List.mem_append_right _ (List.mem_singleton_self _)

theorem sendWord_completes {s : State} {p : Nat} {t : Fin 4} {q op : Nat} (i : Instr) (h : Issues s p t op)
    (bridle : Bool) (b : W128 → Body) (to_ : posOfLid s (destLid (headOfTeam s p t)) = some q)
    (run : exec i s = .next (issueOp s p t op fun s w c => sendWord bridle p t s w c (b w))) :
    Completes i s (WordSent p q (b (headOfTeam s p t)) (wordNet bridle)) := by
  rw [issueOp_of_issues _ h, sendWord_some bridle (((carries_noteFirst s _).trans (carries_takeEntry ..)).posOfLid _ |>.trans to_)] at run
  exact completes_of run (wordSent_shows ..)

theorem ydFlag_absent {s : State} {p : Position} {t : TeamIx} (h : Issues s p t 0x92) (none_ : posOfLid s (destLid (headOfTeam s p t)) = none) :
    Completes (.ydFlag p t) s fun u => u.yard = s.yard := by
  have run : exec (.ydFlag p t) s = .next _ :=
    congrArg Host.Outcome.next (issueOp_of_issues (fun s w c => sendWord false p t s w c (flagBody p w)) h)
  rw [sendWord_none false ((carries_noteFirst s _).posOfLid _ |>.trans none_)] at run
  refine completes_of run ?_
  rw [issued_yard, engineAbsent_yard, takeEntry_yard, noteFirst_yard]

/-! #### Requests of the Drovers: DRV.KEY and DRV.WT (R246, R251) -/

/-- Stall p has a place at Drover d. -/
def HasPlace (p : Nat) (u : State) (d : Nat) : Prop := drvSent u d p + drvHeld u d p < 4

/-- What a request of entry n of stall p to a Drover holds. -/
structure AskOf (p n c : Nat) (key : Bool) (a : Nat) (l : Line) (r : DrvEntry) : Prop where
  context : r.ctx = c
  stall : r.pos = p
  entry : r.entry = n
  kind : r.key = key
  operand : r.a = a
  words : r.words = l

/-- A request of Drover d is on its way. -/
def AskedOf (p n c d : Nat) (key : Bool) (a : Nat) (l : Line) (u : State) : Prop :=
  ∃ r, OnTheWay u (.stall p) (.drover d) (.drv r) ∧ AskOf p n c key a l r

section

variable {p n c d : Nat} {key : Bool} {a : Nat} {l : Line}

theorem AskedOf.mono (u v : State) (h : Carries u v) (asked : AskedOf p n c d key a l u) : AskedOf p n c d key a l v := by
  obtain ⟨r, way, is_⟩ := asked
  exact ⟨r, h.onTheWay way, is_⟩

theorem askedOf_drvAsk {s u : State} {t : Fin 4} {w : W128} (h : UnderWay p t n w c s u) (d : Nat) (l : Line) :
    AskedOf p n c d (opcodeOf w = 0xA0) (hA w) l (drvAsk u p n d l) := by
  obtain ⟨word, -, context, -, -⟩ := h.entryAt
  subst word context
  exact ⟨_, (carries_modEntry ..).onTheWay ((Carries.yardCount _ (by decide) 1).onTheWay (onTheWay_send ..)), rfl, rfl, rfl, rfl, rfl, rfl⟩

theorem drvAsk_yard (u : State) (p n d : Nat) (l : Line) : ∃ m, (drvAsk u p n d l).yard = u.yard ++ [m] ∧ m.dst = .drover d :=
  ⟨⟨_, _, _, _, _, _⟩, yardCount_yard .., rfl⟩

/-- A request of one Drover takes no place at another. -/
theorem hasPlace_drvAsk {u : State} {d e : Nat} (other : e ≠ d) (l : Line) (h : HasPlace p u e) : HasPlace p (drvAsk u p n d l) e := by
  obtain ⟨m, yard, dst⟩ := drvAsk_yard u p n d l
  have sent : drvSent (drvAsk u p n d l) e p = drvSent u e p := by
    have away : ¬ (m.dst = .drover e) := by
      rw [dst]
      exact fun same => other (Node.drover.inj same).symm
    unfold drvSent
    rw [yard, List.filter_append, List.filter_singleton, decide_eq_false away, Bool.and_false]
    simp
  have held : drvHeld (drvAsk u p n d l) e p = drvHeld u e p := by
    rw [drvHeld, drover_drvAsk, drvHeld]
  rw [HasPlace, sent, held]
  exact h

/-- The requests of one line are sent to every Drover of a list without repetition at which the stall has a place. -/
theorem asked_drvAsks {s : State} {t : Fin 4} {w : W128} {l : Line} {dies : List Nat} (nodup : dies.Nodup) {u : State}
    (h : UnderWay p t n w c s u) (places : ∀ d ∈ dies, HasPlace p u d) :
    ∀ d ∈ dies, AskedOf p n c d (opcodeOf w = 0xA0) (hA w) l (drvAsks p n (dies.map fun d => (d, l)) u) := by
  induction dies generalizing u with
  | nil => exact fun d mem => absurd mem List.not_mem_nil
  | cons e dies ih =>
    obtain ⟨new, nodup⟩ := List.nodup_cons.mp nodup
    have next : UnderWay p t n w c s (drvAsk u p n e l) := h.step (carries_drvAsk ..) (stay_drvAsk ..)
    intro d mem
    rw [List.map_cons, drvAsks, if_pos (show drvSent u e p + drvHeld u e p < 4 from places e List.mem_cons_self)]
    obtain rfl | mem := List.mem_cons.mp mem
    · exact AskedOf.mono _ _ (carries_drvAsks ..) (askedOf_drvAsk h ..)
    · exact ih nodup next (fun f hf => hasPlace_drvAsk (ne_of_mem_of_not_mem hf new) l (places f (List.mem_cons_of_mem _ hf))) d mem

end

/-- A DRV instruction issues only with a place at every Drover that its first entry goes to. -/
theorem places_of_go {s : State} {p : Nat} {t : Fin 4} {o : OpInfo} (go : verdict s p t = .go)
    (hop : opInfo (opcodeOf (headOfTeam s p t)) = some o) (engine : o.fmt ≠ .s) (drv : o.eng = .drv) :
    drvPlaces s p (runningNo s) (headOfTeam s p t) (capture (getTeam (stall s p).live t)) = true := by
  have same : opInfo (opcodeOf (headWord (stall s p) (runningNo s) (getTeam (stall s p).live t))) = some o := hop
  unfold verdict at go
  extract_lets x c tm w img hs at go
  split at go
  · cases go
  split at go
  · cases go
  split at go
  · cases go
  generalize (hs.any _ || _) = invalid at go
  split at go
  · cases go
  split at go
  · cases go
  next other found =>
  obtain rfl : o = other := Option.some.inj (same.symm.trans found)
  rw [if_neg engine] at go
  split at go
  · cases go
  split at go
  · cases go
  split at go
  · cases go
  split at go
  · cases go
  split at go
  · cases go
  next places =>
  rw [drv, decide_eq_true rfl, Bool.true_and, Bool.not_eq_true, Bool.not_eq_false'] at places
  exact places

/-- The first entry of an instruction of one iteration whose descriptor is not all zero. -/
theorem drvFirst_single {s : State} {p : Nat} {t : Fin 4} {js : List Nat} (one : headIts s p t = [js])
    (full : ∃ x ∈ lineOf s p (hB (headOfTeam s p t)) (addrB (headEntry s p t) js), x ≠ 0) :
    drvFirst s p (runningNo s) (headOfTeam s p t) (capture (getTeam (stall s p).live t)) =
      ((drvDests (runningImage s) (lineOf s p (hB (headOfTeam s p t)) (addrB (headEntry s p t) js))).filterMap (posOfLid s)).map dieOf := by
  have its : iterations (capture (getTeam (stall s p).live t)) (nestOf (headOfTeam s p t)) = [js] := one
  have found : ([lineOf s p (hB (headOfTeam s p t)) (addrB (headEntry s p t) js)].find? fun l => !(l.all (· = 0))) =
      some (lineOf s p (hB (headOfTeam s p t)) (addrB (headEntry s p t) js)) := by
    obtain ⟨x, mem, nonzero⟩ := full
    refine List.find?_cons_of_pos ?_
    rw [Bool.not_eq_true', List.all_eq_false]
    exact ⟨x, mem, by rwa [decide_eq_true_eq]⟩
  unfold drvFirst
  dsimp only
  rw [its, List.map_singleton]
  split
  · next none_ => exact absurd (found.symm.trans none_) (Option.some_ne_none _)
  · next l some_ =>
    obtain rfl : lineOf s p (hB (headOfTeam s p t)) (addrB (headEntry s p t) js) = l := Option.some.inj (found.symm.trans some_)
    rfl

/-! The run of a DRV instruction, cut into what it reads, what it records and what it asks. -/

/-- The state in which a DRV instruction has read its entries. -/
def drvEntriesRead (p : Nat) (t : Fin 4) (s : State) (w : W128) (c n : Nat) : State :=
  let s2 := carryPoison (takeEntry s p t w c .drv true).1 p n w
  let e := entryAt s2 p n
  let db := decl (imageOf s c) (hB w)
  parityPiece s2 p c (pieceOf (imageOf s c) (deviceId s) db (lidOf s p)) ((entryIts e).map (addrB e))

/-- The entries of a DRV instruction that are not NULL. -/
def drvLines (p : Nat) (t : Fin 4) (s : State) (w : W128) (c n : Nat) : List Line :=
  let e := entryAt (carryPoison (takeEntry s p t w c .drv true).1 p n w) p n
  let db := decl (imageOf s c) (hB w)
  ((entryIts e).map fun js =>
    readPiece (drvEntriesRead p t s w c n) p c db (pieceOf (imageOf s c) (deviceId s) db (lidOf s p)) (addrB e js)).filter fun l => !(l.all (· = 0))

/-- The state in which a DRV instruction has recorded the entries with no destination. -/
def drvNoted (p : Nat) (t : Fin 4) (s : State) (w : W128) (c n : Nat) (ls : List Line) : State :=
  (ls.filter fun l => drvDies (drvEntriesRead p t s w c n) c l = []).foldl
    (fun u _ => recordAbsent u p (entryAt (carryPoison (takeEntry s p t w c .drv true).1 p n w) p n)) (drvEntriesRead p t s w c n)

theorem drvRun_eq {s : State} {p : Nat} {t : Fin 4} {n : Nat} {w : W128} {c : Nat} (number : (takeEntry s p t w c .drv true).2 = n) :
    drvRun p t s w c = drvAsks p n ((drvLines p t s w c n).flatMap fun l => (drvDies (drvEntriesRead p t s w c n) c l).map fun d => (d, l))
      (drvNoted p t s w c n (drvLines p t s w c n)) := by
  subst number
  rfl

section

variable {s : State} {p : Nat} {t : Fin 4} {n : Nat}

theorem underWay_drvEntriesRead (free : freeEntry (stall s p) = some n) (w : W128) (c d : Nat) (t : Fin 4) :
    UnderWay p t n w c s (drvEntriesRead p t (noteFirst s d) w c n) := (underWay_carry free w c d t .drv).parityPiece ..

theorem underWay_drvNoted (free : freeEntry (stall s p) = some n) (w : W128) (c d : Nat) (t : Fin 4) (ls : List Line) :
    UnderWay p t n w c s (drvNoted p t (noteFirst s d) w c n ls) :=
  foldl_keeps_inv _ (fun _ _ hv => hv.recordAbsent _) _ (underWay_drvEntriesRead free ..)

/-- The entry of an instruction of one iteration whose descriptor is not all zero. -/
theorem drvLines_single (free : freeEntry (stall s p) = some n) {js : List Nat} (one : headIts s p t = [js])
    (full : ∃ x ∈ lineOf s p (hB (headOfTeam s p t)) (addrB (headEntry s p t) js), x ≠ 0) :
    drvLines p t (noteFirst s (runningNo s)) (headOfTeam s p t) (runningNo s) n =
      [lineOf s p (hB (headOfTeam s p t)) (addrB (headEntry s p t) js)] := by
  have way := underWay_carry free (headOfTeam s p t) (runningNo s) (runningNo s) t .drv
  have first := carries_noteFirst s (runningNo s)
  obtain ⟨its, -, addrsB, -⟩ := way.addresses
  unfold drvLines
  dsimp only
  rw [its, one, List.map_singleton, first.image, first.deviceId, first.lidOf, addrsB,
    (underWay_drvEntriesRead free (headOfTeam s p t) (runningNo s) (runningNo s) t).carries.readPiece]
  refine List.filter_cons_of_pos ?_
  obtain ⟨x, mem, nonzero⟩ := full
  rw [Bool.not_eq_true', List.all_eq_false]
  exact ⟨x, mem, by rwa [decide_eq_true_eq]⟩

theorem Carries.drvDies {s u : State} (h : Carries s u) (c : Nat) (l : Line) : drvDies u c l = drvDies s c l := by
  unfold Machine.drvDies
  rw [h.image]
  simp only [h.posOfLid]

/-- Nothing that a DRV instruction does before it asks takes a place at a Drover. -/
theorem hasPlace_drvNoted (w : W128) (c d : Nat) (ls : List Line) {e : Nat} (h : HasPlace p s e) :
    HasPlace p (drvNoted p t (noteFirst s d) w c n ls) e := by
  have yard : (drvNoted p t (noteFirst s d) w c n ls).yard = s.yard := by
    refine (foldl_keeps (State.yard ·) (fun u _ => recordAbsent_yard ..) _ _).trans ?_
    rw [drvEntriesRead, parityPiece_yard, carryPoison_yard, takeEntry_yard, noteFirst_yard]
  have carries : (drvNoted p t (noteFirst s d) w c n ls).drovers = s.drovers := by
    refine (foldl_keeps (State.drovers ·) (fun u _ => recordAbsent_drovers ..) _ _).trans ?_
    rw [drvEntriesRead, parityPiece_drovers, carryPoison_drovers, takeEntry_drovers, noteFirst_drovers]
  rw [HasPlace, drvSent, yard, drvHeld, drover, carries]
  exact h

/-- What DRV.KEY and DRV.WT of one iteration ask. -/
theorem drv_completes {op : Nat} {o : OpInfo} (i : Instr) (h : Issues s p t op) (run : exec i s = .next (issueOp s p t op (drvRun p t)))
    (hop : opInfo op = some o) (engine : o.fmt ≠ .s) (drv : o.eng = .drv) (free : freeEntry (stall s p) = some n) {js : List Nat}
    (one : headIts s p t = [js]) (full : ∃ x ∈ lineOf s p (hB (headOfTeam s p t)) (addrB (headEntry s p t) js), x ≠ 0) :
    Completes i s fun u => ∀ d ∈ ((drvDests (runningImage s) (lineOf s p (hB (headOfTeam s p t)) (addrB (headEntry s p t) js))).filterMap
      (posOfLid s)).map dieOf, AskedOf p n (runningNo s) d (op = 0xA0) (hA (headOfTeam s p t))
        (lineOf s p (hB (headOfTeam s p t)) (addrB (headEntry s p t) js)) u := by
  obtain ⟨same, -, go⟩ := id h
  have places := places_of_go go (by rw [same, hop]) engine drv
  rw [drvPlaces, drvFirst_single one full, List.all_eq_true] at places
  rw [issueOp_of_issues _ h, drvRun_eq (takeEntry_free free ..), drvLines_single free one full, List.flatMap_singleton,
    Carries.drvDies (underWay_drvEntriesRead free ..).carries] at run
  refine completes_of run fun d mem => ?_
  have asked := asked_drvAsks (l := lineOf s p (hB (headOfTeam s p t)) (addrB (headEntry s p t) js)) (List.nodup_dedup _)
    (underWay_drvNoted free (headOfTeam s p t) (runningNo s) (runningNo s) t [lineOf s p (hB (headOfTeam s p t)) (addrB (headEntry s p t) js)])
    (fun e he => hasPlace_drvNoted _ _ _ _ (show drvSent s e p + drvHeld s e p < 4 from of_decide_eq_true (places e (List.mem_dedup.mp he)))) d (List.mem_dedup.mpr mem)
  rw [same] at asked
  exact AskedOf.mono _ _ (carries_issued ..) asked

end

/-- Settles O22: an instruction under way (`UnderWay`) reads what stood when it issued, and what it puts into the Yard stays there while it
sends the rest (`Carries`). -/
theorem sendsAndRequestsEnterYard : Obligations.SendsAndRequestsEnterYard := by
  unfold Obligations.SendsAndRequestsEnterYard
  refine ⟨fun s p t q => ⟨ydPut_completes, ydMcast_completes, fun h to_ => ?_, fun h to_ => ?_, fun h to_ => ?_, fun h to_ => ?_, ydFlag_absent⟩,
    fun s p t n js free one full => ⟨fun h => ?_, fun h => ?_⟩⟩
  · exact sendWord_completes _ h false (flagBody p) to_ rfl
  · exact sendWord_completes _ h false (caddBody p) to_ rfl
  · exact sendWord_completes _ h true (flagBody p) to_ rfl
  · exact sendWord_completes _ h true (caddBody p) to_ rfl
  · obtain ⟨u, run, asked⟩ := drv_completes (.drvKey p t) h rfl rfl (by decide) rfl free one full
    refine ⟨u, run, fun d mem => ?_⟩
    obtain ⟨r, way, context, stall, entry, kind, operand, words⟩ := asked d mem
    exact ⟨r, way, context, stall, entry, kind, operand, words⟩
  · obtain ⟨u, run, asked⟩ := drv_completes (.drvWt p t) h rfl rfl (by decide) rfl free one full
    refine ⟨u, run, fun d mem => ?_⟩
    obtain ⟨r, way, context, stall, entry, kind, operand, words⟩ := asked d mem
    exact ⟨r, way, context, stall, entry, kind, operand, words⟩

end Sys2Proof.Machine
end

section
/-!
SUPPORT. The frame lemmas that the proof of O21 rests on.
-/

namespace Sys2Proof.Machine

/-! ### The Loft -/

@[simp] theorem vLoft_modLive (s : State) (p : Nat) (f : StallCtx → StallCtx) :
    (modLive s p f).vLoft = s.vLoft := by simp [modLive]

@[simp] theorem vLoft_modEntry (s : State) (p n : Nat) (f : Entry → Entry) :
    (modEntry s p n f).vLoft = s.vLoft := by simp [modEntry]

@[simp] theorem vLoft_dropEntry (s : State) (p n : Nat) :
    (dropEntry s p n).vLoft = s.vLoft := by simp [dropEntry]

@[simp] theorem vLoft_poisonDest (s : State) (p c : Nat) (w : W128) :
    (poisonDest s p c w).vLoft = s.vLoft := by simp [poisonDest]

@[simp] theorem vLoft_settleDest (s : State) (p c : Nat) (e : Entry) :
    (settleDest s p c e).vLoft = s.vLoft := by
  unfold settleDest
  split <;> simp

@[simp] theorem vLoft_noteWrites (s : State) (p n : Nat) (pc : Piece) (as_ : List Int) :
    (noteWrites s p n pc as_).vLoft = s.vLoft := by simp [noteWrites]

@[simp] theorem vLoft_replayDone (s : State) :
    (replayDone s).vLoft = s.vLoft := by simp [replayDone]

@[simp] theorem vLoft_ctOrder (s : State) (p : Nat) (e : Entry) :
    (ctOrder s p e).vLoft = s.vLoft := by
  unfold ctOrder
  repeat' split
  all_goals simp [vLoft_eta]

@[simp] theorem vLoft_finishEntry (s : State) (p n : Nat) (e : Entry) :
    (finishEntry s p n e).vLoft = s.vLoft := by simp [finishEntry]

@[simp] theorem noteWrites_loft (s : State) (p n : Nat) (pc : Piece) (as_ : List Int) :
    (noteWrites s p n pc as_).loft = s.loft := (vLoft_def _).symm.trans ((vLoft_noteWrites ..).trans (vLoft_def _))

@[simp] theorem finishEntry_loft (s : State) (p n : Nat) (e : Entry) :
    (finishEntry s p n e).loft = s.loft := (vLoft_def _).symm.trans ((vLoft_finishEntry ..).trans (vLoft_def _))

/-! ### The Daybook -/

@[simp] theorem vDb_bumpBy (s : State) (off wrapOff wrapBit n : Nat) :
    (bumpBy s off wrapOff wrapBit n).vDb = s.vDb := by simp [bumpBy]

@[simp] theorem vDb_bump (s : State) (off wrapOff wrapBit : Nat) :
    (bump s off wrapOff wrapBit).vDb = s.vDb := by simp [bump]

@[simp] theorem vDb_setCtx (s : State) (c : Nat) (x : Ctx) :
    (setCtx s c x).vDb = s.vDb := by simp [setCtx, vDb_eta]

@[simp] theorem vDb_modCtx (s : State) (c : Nat) (f : Ctx → Ctx) :
    (modCtx s c f).vDb = s.vDb := by simp [modCtx]

@[simp] theorem vDb_noteFirst (s : State) (c : Nat) :
    (noteFirst s c).vDb = s.vDb := by
  unfold noteFirst
  split <;> simp [vDb_eta]

@[simp] theorem bump_db (s : State) (off wrapOff wrapBit : Nat) :
    (bump s off wrapOff wrapBit).db = s.db := (vDb_def _).symm.trans ((vDb_bump ..).trans (vDb_def _))

@[simp] theorem noteFirst_db (s : State) (c : Nat) :
    (noteFirst s c).db = s.db := (vDb_def _).symm.trans ((vDb_noteFirst ..).trans (vDb_def _))

end Sys2Proof.Machine
end

section
/-!
PROOFS. The Carter: what it asks and sends, and what runs through in the stall's own Loft (O21).
-/

namespace Sys2Proof.Machine

/-! ### What the Carter asks and sends (R122, R225, R317, R324) -/

/-- What an instruction under way sends and waits for is on its way. -/
theorem onTheWay_sendWaiting (s : State) (p n : Nat) (dst : Node) (c : Nat) (b : Body) (lines : Nat) (isWrite : Bool) :
    OnTheWay (sendWaiting s p n dst c b lines isWrite) (.stall p) dst b := by
  have sent : OnTheWay (sendBulk s (.stall p) dst .req c b lines) (.stall p) dst b :=
    (Carries.yardCount _ (by decide) lines).onTheWay (onTheWay_send ..)
  unfold sendWaiting
  dsimp only
  split
  · exact ((carries_modEntry ..).trans (Carries.modStall ..)).onTheWay sent
  · exact (carries_modEntry ..).onTheWay sent

theorem OnTheWay.mono {src dst : Node} {b : Body} (u v : State) (h : Carries u v) (way : OnTheWay u src dst b) : OnTheWay v src dst b :=
  h.onTheWay way

/-- Of a fold that sends something for each of a list, that of each is on its way. -/
theorem onTheWay_foldl_sendWaiting {β : Type} (p n c : Nat) (lines : β → Nat) (isWrite : Bool) (dst : β → Node) (body : β → Body) {l : List β} {b : β}
    (mem : b ∈ l) (s : State) :
    OnTheWay (l.foldl (fun u b => sendWaiting u p n (dst b) c (body b) (lines b) isWrite) s) (.stall p) (dst b) (body b) := by
  refine shown_foldl (b := b) (fun u x => ?_) OnTheWay.mono (fun _ => True) (fun _ _ _ => trivial) mem (fun u _ => ?_) trivial
  · exact carries_sendWaiting ..
  · exact onTheWay_sendWaiting ..

/-! #### CT.LOAD -/

/-- CT.LOAD asks every granule of the lines that it loads from HBM. -/
def askGranules (p n c : Nat) (a : Nat) (gs : List Nat) (s : State) : State :=
  gs.foldl (fun u g => sendWaiting u p n (.hbm (stackOf (g * 256))) c (.hbmRead n a g) 0 false) s

/-- CT.LOAD asks every line that it loads from the Granary. -/
def askSlots (p n c : Nat) (slots : List Nat) (s : State) : State :=
  slots.foldl (fun u x => sendWaiting u p n (.granary (grnHalf x)) c (.grn n x .read [] false) 0 false) s

section

variable {s : State} {p : Nat} {t : Fin 4} {n : Nat} {w : W128} {c : Nat}

/-- The lines that CT.LOAD loads in an iteration. -/
def loadedBy (s : State) (p c : Nat) (w : W128) (e : Entry) (js : List Nat) : List Nat :=
  loadLines (decl (imageOf s c) (hA w)) (decl (imageOf s c) (hD w)) e (layUnit (decl (imageOf s c) (hA w)) (decl (imageOf s c) (hD w))
    (pieceOf (imageOf s c) (deviceId s) (decl (imageOf s c) (hD w)) (lidOf s p)).lines) js

/-- The granules that CT.LOAD asks. -/
def loadedGranules (s : State) (p c : Nat) (w : W128) (e : Entry) : List Nat :=
  (entryIts e).flatMap fun js => ((loadedBy s p c w e js).flatMap (lineGranules (decl (imageOf s c) (hA w)))).dedup

/-- The Granary slots that CT.LOAD asks. -/
def loadedSlots (s : State) (p c : Nat) (w : W128) (e : Entry) : List Nat :=
  ((entryIts e).flatMap (loadedBy s p c w e)).dedup.map (pieceSlot (decl (imageOf s c) (hA w)))

theorem ctLoadRun_hbm (number : (takeEntry s p t w c .ct true).2 = n) (hbm : (decl (imageOf s c) (hA w)).place = 2)
    (some_ : loadedGranules s p c w (entryAt (carryPoison (takeEntry s p t w c .ct true).1 p n w) p n) ≠ []) : ctLoadRun p t s w c =
      askGranules p n c (hA w) (loadedGranules s p c w (entryAt (carryPoison (takeEntry s p t w c .ct true).1 p n w) p n))
        (carryPoison (takeEntry s p t w c .ct true).1 p n w) := by
  subst number
  unfold ctLoadRun
  dsimp only
  rw [if_pos hbm]
  exact if_neg some_

/-- The state in which CT.LOAD has noted that what it loads is provisional. -/
def loadNoted (p n c : Nat) (w : W128) (s0 s2 : State) (slots : List Nat) : State :=
  if (slots.any fun x => match windowOf (imageOf s0 c) x with
      | some v => v.kind = 1
      | none => false) && (recOf s0 c).deps ≠ [] && hasRecord (decl (imageOf s0 c) (hD w)) then
    modEntry s2 p n fun v => { v with prov := true }
  else s2

theorem ctLoadRun_granary (number : (takeEntry s p t w c .ct true).2 = n) (granary : (decl (imageOf s c) (hA w)).place ≠ 2)
    (some_ : loadedSlots s p c w (entryAt (carryPoison (takeEntry s p t w c .ct true).1 p n w) p n) ≠ []) : ctLoadRun p t s w c =
      askSlots p n c (loadedSlots s p c w (entryAt (carryPoison (takeEntry s p t w c .ct true).1 p n w) p n))
        (loadNoted p n c w s (carryPoison (takeEntry s p t w c .ct true).1 p n w)
          (loadedSlots s p c w (entryAt (carryPoison (takeEntry s p t w c .ct true).1 p n w) p n))) := by
  subst number
  unfold ctLoadRun
  dsimp only
  rw [if_neg granary]
  exact if_neg some_

/-- The lines that CT.LOAD loads, by the state that it issued in. -/
theorem loadedBy_eq (free : freeEntry (stall s p) = some n) (js : List Nat) :
    loadedBy (noteFirst s (runningNo s)) p (runningNo s) (headOfTeam s p t)
      (entryAt (carryPoison (takeEntry (noteFirst s (runningNo s)) p t (headOfTeam s p t) (runningNo s) .ct true).1 p n (headOfTeam s p t)) p n) js =
    loadLines (hdl s (hA (headOfTeam s p t))) (hdl s (hD (headOfTeam s p t))) (headEntry s p t)
      (layUnit (hdl s (hA (headOfTeam s p t))) (hdl s (hD (headOfTeam s p t))) (pieceAt s p (hD (headOfTeam s p t))).lines) js := by
  have way := underWay_carry free (headOfTeam s p t) (runningNo s) (runningNo s) t .ct
  have first := carries_noteFirst s (runningNo s)
  obtain ⟨-, addrsA, -, addrsD⟩ := way.addresses
  rw [loadedBy, loadLines, first.image, first.deviceId, first.lidOf, addrsA, addrsD]
  rfl

end

/-- What CT.LOAD asks of the memory that holds F. -/
theorem ctLoad_completes {s : State} {p : Position} {t : TeamIx} {n : Nat} (free : freeEntry (stall s p) = some n) (h : Issues s p t 0x70) :
    Completes (.ctLoad p t) s fun u => ∀ js ∈ headIts s p t,
      ∀ l ∈ loadLines (hdl s (hA (headOfTeam s p t))) (hdl s (hD (headOfTeam s p t))) (headEntry s p t)
        (layUnit (hdl s (hA (headOfTeam s p t))) (hdl s (hD (headOfTeam s p t))) (pieceAt s p (hD (headOfTeam s p t))).lines) js,
      ((hdl s (hA (headOfTeam s p t))).place = 2 → ∀ g ∈ lineGranules (hdl s (hA (headOfTeam s p t))) l,
        OnTheWay u (.stall p) (.hbm (stackOf (g * 256))) (.hbmRead n (hA (headOfTeam s p t)) g)) ∧
      ((hdl s (hA (headOfTeam s p t))).place ≠ 2 → OnTheWay u (.stall p) (.granary (grnHalf (pieceSlot (hdl s (hA (headOfTeam s p t))) l)))
        (.grn n (pieceSlot (hdl s (hA (headOfTeam s p t))) l) .read [] false)) := by
  have run : exec (.ctLoad p t) s = .next _ := congrArg Host.Outcome.next (issueOp_of_issues (ctLoadRun p t) h)
  have first := carries_noteFirst s (runningNo s)
  have number := takeEntry_free free (headOfTeam s p t) (runningNo s) (runningNo s) t .ct true
  obtain ⟨its, -, -, -⟩ := (underWay_carry free (headOfTeam s p t) (runningNo s) (runningNo s) t .ct).addresses
  have image : decl (imageOf (noteFirst s (runningNo s)) (runningNo s)) (hA (headOfTeam s p t)) = hdl s (hA (headOfTeam s p t)) := by
    rw [first.image]
    rfl
  refine completes_of run fun js mem l loads => ⟨fun hbm g granule => ?_, fun granary => ?_⟩
  · have asked : g ∈ loadedGranules (noteFirst s (runningNo s)) p (runningNo s) (headOfTeam s p t)
        (entryAt (carryPoison (takeEntry (noteFirst s (runningNo s)) p t (headOfTeam s p t) (runningNo s) .ct true).1 p n
          (headOfTeam s p t)) p n) := by
      refine List.mem_flatMap.mpr ⟨js, its ▸ mem, List.mem_dedup.mpr (List.mem_flatMap.mpr ⟨l, ?_, image ▸ granule⟩)⟩
      rw [loadedBy_eq free]
      exact loads
    rw [ctLoadRun_hbm number (image ▸ hbm) (List.ne_nil_of_mem asked)]
    exact OnTheWay.mono _ _ (carries_issued ..) (onTheWay_foldl_sendWaiting p n _ (fun _ => 0) false _ _ asked _)
  · have asked : pieceSlot (hdl s (hA (headOfTeam s p t))) l ∈ loadedSlots (noteFirst s (runningNo s)) p (runningNo s) (headOfTeam s p t)
        (entryAt (carryPoison (takeEntry (noteFirst s (runningNo s)) p t (headOfTeam s p t) (runningNo s) .ct true).1 p n
          (headOfTeam s p t)) p n) := by
      rw [loadedSlots, image]
      refine List.mem_map_of_mem (List.mem_dedup.mpr (List.mem_flatMap.mpr ⟨js, its ▸ mem, ?_⟩))
      rw [loadedBy_eq free]
      exact loads
    rw [ctLoadRun_granary number (image ▸ granary) (List.ne_nil_of_mem asked)]
    exact OnTheWay.mono _ _ (carries_issued ..) (onTheWay_foldl_sendWaiting p n _ (fun _ => 0) false _ _ asked _)

/-! #### CT.COPY -/

theorem ctCopy_completes {s : State} {p : Position} {t : TeamIx} {n q : Nat} (free : freeEntry (stall s p) = some n) (h : Issues s p t 0x72)
    (to_ : posOfLid s (destLid (headOfTeam s p t)) = some q) : Completes (.ctCopy p t) s fun u => ∀ js ∈ headIts s p t,
      OnTheWay u (.stall p) (.stall q) (.copyReq n (hA (headOfTeam s p t)) (laySources (hdl s (hA (headOfTeam s p t)))
        (hdl s (hD (headOfTeam s p t))) (layUnit (hdl s (hA (headOfTeam s p t))) (hdl s (hD (headOfTeam s p t)))
          (pieceAt s p (hD (headOfTeam s p t))).lines) (addrA (headEntry s p t) js) (addrD (headEntry s p t) js))
        (addrD (headEntry s p t) js)) := by
  have run : exec (.ctCopy p t) s = .next _ := congrArg Host.Outcome.next (issueOp_of_issues (ctCopyRun p t) h)
  have first := carries_noteFirst s (runningNo s)
  have number := takeEntry_free free (headOfTeam s p t) (runningNo s) (runningNo s) t .ct true
  obtain ⟨its, addrsA, -, addrsD⟩ := (underWay_carry free (headOfTeam s p t) (runningNo s) (runningNo s) t .ct).addresses
  refine completes_of run fun js mem => ?_
  refine OnTheWay.mono _ _ (carries_issued ..) ?_
  unfold ctCopyRun
  dsimp only
  rw [number, its, if_neg (List.ne_nil_of_mem mem), first.posOfLid, to_, first.image, first.deviceId, first.lidOf]
  dsimp only
  rw [funext addrsA, funext addrsD]
  exact onTheWay_foldl_sendWaiting p n _ (fun _ => 0) false (fun _ => .stall q) _ mem _

/-! #### CT.STORE -/

/-- The state in which CT.STORE has read its lines. -/
def storeRead (p : Nat) (t : Fin 4) (s : State) (w : W128) (c n : Nat) : State :=
  let s2 := carryPoison (takeEntry s p t w c .ct true).1 p n w
  let e := entryAt s2 p n
  let df := decl (imageOf s c) (hA w)
  let dn := decl (imageOf s c) (hD w)
  (entryIts e).foldl (fun u js => parityPiece u p c (pieceOf (imageOf s c) (deviceId s) dn (lidOf s p))
    (laySources dn df (layUnit dn df df.lines) (addrD e js) (addrA e js))) s2

/-- The iterations whose line lies in F. -/
def insideF (s : State) (c : Nat) (w : W128) (e : Entry) : List (List Nat) :=
  (entryIts e).filter fun js => 0 ≤ addrA e js && addrA e js < ((decl (imageOf s c) (hA w)).lines : Int)

/-- The lines that CT.STORE stores, by their place in F. -/
def storedLines (p : Nat) (t : Fin 4) (s : State) (w : W128) (c n : Nat) : List (Nat × Line) :=
  let e := entryAt (carryPoison (takeEntry s p t w c .ct true).1 p n w) p n
  let df := decl (imageOf s c) (hA w)
  let dn := decl (imageOf s c) (hD w)
  (insideF s c w e).map fun js => ((addrA e js).toNat, layLine dn df (layUnit dn df df.lines) (addrD e js) (addrA e js)
    (readPiece (storeRead p t s w c n) p c dn (pieceOf (imageOf s c) (deviceId s) dn (lidOf s p))))

/-- The state in which CT.STORE begins to send. -/
def storeReady (p : Nat) (t : Fin 4) (s : State) (w : W128) (c n : Nat) : State :=
  let e := entryAt (carryPoison (takeEntry s p t w c .ct true).1 p n w) p n
  countDrop (storeRead p t s w c n) p c ((entryIts e).length - (insideF s c w e).length)

/-- CT.STORE sends the lines of each block of F. -/
def storeBlocks (p n c a base : Nat) (poison : Bool) (rec_ : W128) (ls : List (Nat × Line)) (s : State) : State :=
  (ls.map (·.1 / 64)).dedup.foldl (fun u b => sendWaiting u p n (.hbm (stackOf (base + 64 * 64 * b))) c
    (.hbmWrite n a (ls.filter fun x => x.1 / 64 = b) poison rec_) (ls.filter fun x => x.1 / 64 = b).length true) s

section

variable {s : State} {p : Nat} {t : Fin 4} {n : Nat} {w : W128} {c : Nat}

theorem ctStoreRun_hbm (number : (takeEntry s p t w c .ct true).2 = n) (hbm : (decl (imageOf s c) (hA w)).place = 2) :
    ∃ poison rec_, ctStoreRun p t s w c = storeBlocks p n c (hA w) (decl (imageOf s c) (hA w)).base poison rec_ (storedLines p t s w c n)
      (storeReady p t s w c n) := by
  subst number
  unfold ctStoreRun
  dsimp only
  rw [if_pos hbm]
  exact ⟨_, _, rfl⟩

theorem ctStoreRun_granary (number : (takeEntry s p t w c .ct true).2 = n) (granary : (decl (imageOf s c) (hA w)).place ≠ 2) :
    ∃ poison, ctStoreRun p t s w c = sendSlots (storeReady p t s w c n) p n c .write poison
      ((storedLines p t s w c n).map fun x => (pieceSlot (decl (imageOf s c) (hA w)) x.1, x.2)) := by
  subst number
  unfold ctStoreRun
  dsimp only
  rw [if_neg granary]
  exact ⟨_, rfl⟩

theorem underWay_storeRead (free : freeEntry (stall s p) = some n) (w : W128) (c d : Nat) (t : Fin 4) :
    UnderWay p t n w c s (storeRead p t (noteFirst s d) w c n) :=
  foldl_keeps_inv _ (fun _ _ hv => hv.step (carries_parityPiece ..) (stay_parityPiece ..)) _ (underWay_carry free w c d t .ct)

theorem mem_insideF {e : Entry} {js : List Nat} : js ∈ insideF s c w e ↔
    js ∈ entryIts e ∧ 0 ≤ addrA e js ∧ addrA e js < ((decl (imageOf s c) (hA w)).lines : Int) := by
  rw [insideF, List.mem_filter, Bool.and_eq_true, decide_eq_true_eq, decide_eq_true_eq]

/-- The lines that CT.STORE stores, by the state that it issued in. -/
theorem storedLines_eq (free : freeEntry (stall s p) = some n) :
    storedLines p t (noteFirst s (runningNo s)) (headOfTeam s p t) (runningNo s) n =
      (insideF s (runningNo s) (headOfTeam s p t) (headEntry s p t)).map fun js => ((addrA (headEntry s p t) js).toNat,
        farLine s p (headOfTeam s p t) (addrA (headEntry s p t) js) (addrD (headEntry s p t) js)) := by
  have way := underWay_carry free (headOfTeam s p t) (runningNo s) (runningNo s) t .ct
  have first := carries_noteFirst s (runningNo s)
  obtain ⟨its, addrsA, -, addrsD⟩ := way.addresses
  have read : readPiece (storeRead p t (noteFirst s (runningNo s)) (headOfTeam s p t) (runningNo s) n) p (runningNo s)
      (decl (imageOf s (runningNo s)) (hD (headOfTeam s p t))) (pieceOf (imageOf s (runningNo s)) (deviceId s)
        (decl (imageOf s (runningNo s)) (hD (headOfTeam s p t))) (lidOf s p)) = lineOf s p (hD (headOfTeam s p t)) :=
    funext fun _ => (underWay_storeRead free ..).carries.readPiece ..
  unfold storedLines insideF
  dsimp only
  rw [its, funext addrsA, funext addrsD, first.image, first.deviceId, first.lidOf, read]
  rfl

end

/-- A slot that is no peer's is written, or worked on, alone. -/
theorem onTheWay_sendSlots {s : State} {p n c : Nat} {op : GrnOp} {poison : Bool} {ls : List (Nat × Line)}
    (own : ∀ x ∈ ls, isPeerSlot (imageOf s c) x.1 = false) {x : Nat × Line} (mem : x ∈ ls) :
    OnTheWay (sendSlots s p n c op poison ls) (.stall p) (.granary (grnHalf x.1)) (.grn n x.1 op x.2 poison) := by
  unfold sendSlots
  dsimp only
  rw [List.any_eq_false.mpr fun y hy => by rw [own y hy]; exact Bool.false_ne_true, if_neg Bool.false_ne_true]
  exact onTheWay_foldl_sendWaiting p n c (fun _ => 1) true (fun y : Nat × Line => .granary (grnHalf y.1)) (fun y => .grn n y.1 op y.2 poison) mem s

/-- What CT.STORE sends to the memory that holds F. -/
theorem ctStore_completes {s : State} {p : Position} {t : TeamIx} {n : Nat} (free : freeEntry (stall s p) = some n) (h : Issues s p t 0x71) :
    Completes (.ctStore p t) s fun u => ∀ js ∈ headIts s p t,
      (0 ≤ addrA (headEntry s p t) js ∧ addrA (headEntry s p t) js < ((hdl s (hA (headOfTeam s p t))).lines : Int)) →
      ((hdl s (hA (headOfTeam s p t))).place = 2 → ∃ ls q r, OnTheWay u (.stall p)
        (.hbm (stackOf ((hdl s (hA (headOfTeam s p t))).base + 64 * 64 * ((addrA (headEntry s p t) js).toNat / 64))))
          (.hbmWrite n (hA (headOfTeam s p t)) ls q r) ∧
        ((addrA (headEntry s p t) js).toNat, farLine s p (headOfTeam s p t) (addrA (headEntry s p t) js) (addrD (headEntry s p t) js)) ∈ ls) ∧
      ((hdl s (hA (headOfTeam s p t))).place ≠ 2 → (∀ is ∈ headIts s p t,
        isPeerSlot (runningImage s) (pieceSlot (hdl s (hA (headOfTeam s p t))) (addrA (headEntry s p t) is).toNat) = false) →
        ∃ q, OnTheWay u (.stall p) (.granary (grnHalf (pieceSlot (hdl s (hA (headOfTeam s p t))) (addrA (headEntry s p t) js).toNat)))
          (.grn n (pieceSlot (hdl s (hA (headOfTeam s p t))) (addrA (headEntry s p t) js).toNat) .write
            (farLine s p (headOfTeam s p t) (addrA (headEntry s p t) js) (addrD (headEntry s p t) js)) q)) := by
  have run : exec (.ctStore p t) s = .next _ := congrArg Host.Outcome.next (issueOp_of_issues (ctStoreRun p t) h)
  have first := carries_noteFirst s (runningNo s)
  have number := takeEntry_free free (headOfTeam s p t) (runningNo s) (runningNo s) t .ct true
  have image : decl (imageOf (noteFirst s (runningNo s)) (runningNo s)) (hA (headOfTeam s p t)) = hdl s (hA (headOfTeam s p t)) := by
    rw [first.image]
    rfl
  refine completes_of run fun js mem inside => ?_
  have stored : ((addrA (headEntry s p t) js).toNat, farLine s p (headOfTeam s p t) (addrA (headEntry s p t) js) (addrD (headEntry s p t) js)) ∈
      storedLines p t (noteFirst s (runningNo s)) (headOfTeam s p t) (runningNo s) n := by
    rw [storedLines_eq free]
    exact List.mem_map_of_mem (f := fun is => ((addrA (headEntry s p t) is).toNat,
      farLine s p (headOfTeam s p t) (addrA (headEntry s p t) is) (addrD (headEntry s p t) is))) (mem_insideF.mpr ⟨mem, inside⟩)
  refine ⟨fun hbm => ?_, fun granary own => ?_⟩
  · obtain ⟨poison, rec_, run⟩ := ctStoreRun_hbm number (image ▸ hbm)
    rw [run, image]
    refine ⟨_, poison, rec_, OnTheWay.mono _ _ (carries_issued ..) (onTheWay_foldl_sendWaiting p n _ _ true
      (fun b => .hbm (stackOf ((hdl s (hA (headOfTeam s p t))).base + 64 * 64 * b))) _
      (List.mem_dedup.mpr (List.mem_map_of_mem (f := fun x : Nat × Line => x.1 / 64) stored)) _), ?_⟩
    exact List.mem_filter.mpr ⟨stored, decide_eq_true rfl⟩
  · obtain ⟨poison, run⟩ := ctStoreRun_granary number (image ▸ granary)
    rw [run, image, storedLines_eq free, List.map_map]
    refine ⟨poison, OnTheWay.mono _ _ (carries_issued ..) ?_⟩
    rw [storedLines_eq free] at stored
    have here := List.mem_map_of_mem (f := fun x : Nat × Line => (pieceSlot (hdl s (hA (headOfTeam s p t))) x.1, x.2)) stored
    rw [List.map_map] at here
    refine onTheWay_sendSlots (fun x hx => ?_) here
    obtain ⟨is, its, rfl⟩ := List.mem_map.mp hx
    have carries : Carries s (storeReady p t (noteFirst s (runningNo s)) (headOfTeam s p t) (runningNo s) n) :=
      (underWay_storeRead free ..).carries.trans (carries_countDrop ..)
    rw [carries.image]
    exact own is (mem_insideF.mp its).1

/-! #### CT.ATOM -/

/-- What CT.ATOM sends of one line, in the state in which it has read it: e is its entry, F the line's handle. -/
def atomLine (p n c op q : Nat) (e : Entry) (df : HDecl) (f d : Int) (l : Line) (s : State) : State :=
  if op = 0 && q = 0 then countDrop s p c 1
  else if op = 4 || op = 5 then
    modEntry (sendSlots s p n c (atomOp df op q) e.poison [(pieceSlot df f.toNat, l)]) p n fun v => { v with dests := v.dests ++ [(s.msgSeq, d)] }
  else sendSlots s p n c (atomOp df op q) e.poison [(pieceSlot df f.toNat, l)]

/-- An iteration of CT.ATOM whose line does not lie in F. -/
def atomOutside (p c a : Nat) (t : Fin 4) (pc action : Nat) (s : State) : State :=
  grnCount (stallFault (countDrop s p c 1) p c t pc a action 0x0604) 6 1

/-- One iteration of CT.ATOM to windows of the device itself. -/
def atomStep (p n c : Nat) (t : Fin 4) (w : W128) (e : Entry) (img : Image) (df dn : HDecl) (pf pn : Piece) (s : State) (js : List Nat) : State :=
  let s3 := parityPiece s p c pn [addrD e js]
  if 0 ≤ addrA e js && addrA e js < (df.lines : Int) then
    atomLine p n c (bitsOf (modC w) 2 0) (linePrime img df pf (addrA e js)) e df (addrA e js) (addrD e js) (readPiece s3 p c dn pn (addrD e js)) s3
  else atomOutside p c (hA w) t e.pc.toNat (faultAction (imageOf s c) w) s3

section

variable {s u : State} {p : Nat} {t : Fin 4} {n : Nat} {w : W128} {c : Nat}

theorem carries_atomLine (s : State) (p n c op q : Nat) (e : Entry) (df : HDecl) (f d : Int) (l : Line) :
    Carries s (atomLine p n c op q e df f d l s) :=
  .ite (carries_countDrop ..) (.ite ((carries_sendSlots ..).trans (carries_modEntry ..)) (carries_sendSlots ..))

theorem stay_atomLine (s : State) (p n c op q : Nat) (e : Entry) (df : HDecl) (f d : Int) (l : Line) :
    EntriesStay p s (atomLine p n c op q e df f d l s) :=
  .ite (stay_countDrop ..) (.ite (.then_modEntry (stay_sendSlots ..) fun _ => rfl) (stay_sendSlots ..))

theorem carries_atomOutside (s : State) (p c a : Nat) (t : Fin 4) (pc action : Nat) : Carries s (atomOutside p c a t pc action s) :=
  ((carries_countDrop ..).trans (Carries.stallFault ..)).trans (.grnCount _ (by decide) 1)

theorem stay_atomOutside (s : State) (p c a : Nat) (t : Fin 4) (pc action : Nat) : EntriesStay p s (atomOutside p c a t pc action s) := by
  refine (stay_countDrop p s c 1).then_stalls ?_ ?_
  · rw [atomOutside, grnCount_stalls, stallFault_stalls]
  · rw [atomOutside, grnCount_ledger, stallFault_ledger]

theorem carries_atomStep (p n c : Nat) (t : Fin 4) (w : W128) (e : Entry) (img : Image) (df dn : HDecl) (pf pn : Piece) (s : State)
    (js : List Nat) : Carries s (atomStep p n c t w e img df dn pf pn s js) :=
  .ite ((carries_parityPiece ..).trans (carries_atomLine ..)) ((carries_parityPiece ..).trans (carries_atomOutside ..))

theorem stay_atomStep (p n c : Nat) (t : Fin 4) (w : W128) (e : Entry) (img : Image) (df dn : HDecl) (pf pn : Piece) (s : State)
    (js : List Nat) : EntriesStay p s (atomStep p n c t w e img df dn pf pn s js) :=
  .ite ((stay_parityPiece ..).trans (stay_atomLine ..)) ((stay_parityPiece ..).trans (stay_atomOutside ..))

theorem onTheWay_atomLine {op q : Nat} {e : Entry} {df : HDecl} {f d : Int} {l : Line} (sends : op ≠ 0 ∨ q ≠ 0)
    (own : isPeerSlot (imageOf s c) (pieceSlot df f.toNat) = false) : OnTheWay (atomLine p n c op q e df f d l s) (.stall p)
      (.granary (grnHalf (pieceSlot df f.toNat))) (.grn n (pieceSlot df f.toNat) (atomOp df op q) l e.poison) := by
  have sent := onTheWay_sendSlots (s := s) (p := p) (n := n) (c := c) (op := atomOp df op q) (poison := e.poison)
    (ls := [(pieceSlot df f.toNat, l)]) (fun x hx => by rw [List.mem_singleton.mp hx]; exact own) (List.mem_singleton_self _)
  have go : ¬ (op = 0 && q = 0) = true := by
    rw [Bool.and_eq_true, decide_eq_true_eq, decide_eq_true_eq]
    exact fun both => sends.elim (· both.1) (· both.2)
  rw [atomLine, if_neg go]
  split
  · exact (carries_modEntry ..).onTheWay sent
  · exact sent

/-- CT.ATOM to windows of the device itself. -/
theorem ctAtomRun_own (number : (takeEntry s p t w c .ct true).2 = n)
    (own : ((entryIts (entryAt (carryPoison (takeEntry s p t w c .ct true).1 p n w) p n)).any fun js => isPeerSlot (imageOf s c)
      (pieceSlot (decl (imageOf s c) (hA w)) (addrA (entryAt (carryPoison (takeEntry s p t w c .ct true).1 p n w) p n) js).toNat)) = false) :
    ctAtomRun p t s w c =
      (let s2 := carryPoison (takeEntry s p t w c .ct true).1 p n w
       let df := decl (imageOf s c) (hA w)
       let dn := decl (imageOf s c) (hD w)
       (entryIts (entryAt s2 p n)).foldl (atomStep p n c t w (entryAt s2 p n) (imageOf s c) df dn
         (pieceOf (imageOf s c) (deviceId s) df (lidOf s p)) (pieceOf (imageOf s c) (deviceId s) dn (lidOf s p))) s2) := by
  subst number
  unfold ctAtomRun
  dsimp only
  rw [own, Bool.and_false, if_neg Bool.false_ne_true]
  rfl

end

theorem ctAtom_completes {s : State} {p : Position} {t : TeamIx} {n : Nat} (free : freeEntry (stall s p) = some n) (h : Issues s p t 0x77)
    (own : ∀ is ∈ headIts s p t,
      isPeerSlot (runningImage s) (pieceSlot (hdl s (hA (headOfTeam s p t))) (addrA (headEntry s p t) is).toNat) = false) :
    Completes (.ctAtom p t) s fun u => ∀ js ∈ headIts s p t,
      (0 ≤ addrA (headEntry s p t) js ∧ addrA (headEntry s p t) js < ((hdl s (hA (headOfTeam s p t))).lines : Int)) →
      (bitsOf (modC (headOfTeam s p t)) 2 0 ≠ 0 ∨ linePrime (runningImage s) (hdl s (hA (headOfTeam s p t))) (pieceAt s p (hA (headOfTeam s p t)))
        (addrA (headEntry s p t) js) ≠ 0) →
      ∃ b, OnTheWay u (.stall p) (.granary (grnHalf (pieceSlot (hdl s (hA (headOfTeam s p t))) (addrA (headEntry s p t) js).toNat)))
        (.grn n (pieceSlot (hdl s (hA (headOfTeam s p t))) (addrA (headEntry s p t) js).toNat)
          (atomOp (hdl s (hA (headOfTeam s p t))) (bitsOf (modC (headOfTeam s p t)) 2 0) (linePrime (runningImage s)
            (hdl s (hA (headOfTeam s p t))) (pieceAt s p (hA (headOfTeam s p t))) (addrA (headEntry s p t) js)))
          (lineOf s p (hD (headOfTeam s p t)) (addrD (headEntry s p t) js)) b) := by
  have run : exec (.ctAtom p t) s = .next _ := congrArg Host.Outcome.next (issueOp_of_issues (ctAtomRun p t) h)
  have first := carries_noteFirst s (runningNo s)
  have number := takeEntry_free free (headOfTeam s p t) (runningNo s) (runningNo s) t .ct true
  have way := underWay_carry free (headOfTeam s p t) (runningNo s) (runningNo s) t .ct
  obtain ⟨its, addrsA, -, addrsD⟩ := way.addresses
  rw [ctAtomRun_own number] at run
  · refine completes_of run fun js mem inside sends => ⟨(entryAt (carryPoison (takeEntry (noteFirst s (runningNo s)) p t (headOfTeam s p t)
      (runningNo s) .ct true).1 p n (headOfTeam s p t)) p n).poison, OnTheWay.mono _ _ (carries_issued ..) ?_⟩
    dsimp only
    rw [its, first.image, first.deviceId, first.lidOf]
    refine shown_foldl (b := js) (fun u x => carries_atomStep ..) OnTheWay.mono (UnderWay p t n (headOfTeam s p t) (runningNo s) s)
      (fun v x hv => hv.step (carries_atomStep ..) (stay_atomStep ..)) mem (fun v hv => ?_) way
    have read := hv.step (carries_parityPiece v p (runningNo s) (pieceAt s p (hD (headOfTeam s p t))) [addrD (headEntry s p t) js])
      (stay_parityPiece ..)
    unfold atomStep
    rw [addrsA, addrsD, if_pos (by rw [Bool.and_eq_true, decide_eq_true_eq, decide_eq_true_eq]; exact inside)]
    have line := read.carries.readPiece p (runningNo s) (hdl s (hD (headOfTeam s p t))) (pieceAt s p (hD (headOfTeam s p t)))
      (addrD (headEntry s p t) js)
    refine line ▸ onTheWay_atomLine sends ?_
    exact (congrArg (isPeerSlot · _) (read.carries.image _)).trans (own js mem)
  · rw [its, List.any_eq_false]
    intro is mem
    rw [addrsA, first.image]
    exact (Bool.not_eq_true _).mpr (own is mem)

/-! ### An engine instruction that has issued and runs through (R78, R80) -/

/-- The entry of an instruction of Team t of a state s that has issued to the engine g and has not begun. -/
structure ReadyEntry (g : Engine) (s : State) (p : Nat) (t : Fin 4) (e : Entry) : Prop where
  engine : e.engine = g
  word : e.word = headOfTeam s p t
  ctx : e.ctx = runningNo s
  loops : e.loops = capture (getTeam (stall s p).live t)
  started : e.started = false
  fixes : e.fixes = []
  waits : e.waits = []
  arb : e.arb = false
  poison : e.poison = false

/-- From s the instruction of Team t has issued to the engine g and waits in entry n; no other command has run. -/
structure Ready (g : Engine) (p : Nat) (t : Fin 4) (n : Nat) (s u : State) : Prop where
  carries : Carries s u
  entry : ∃ e, entryOf (stall u p) n = some e ∧ ReadyEntry g s p t e
  alone : engineIdle s p g → olderSame (stall u p) g (entryAt u p n).seq = false
  holds : holding u (runningNo s) = holding s (runningNo s)
  array : (stall u p).ma = (stall s p).ma
  queue : (stall u p).tiles = (stall s p).tiles

theorem entryAt_of {u : State} {p n : Nat} {e : Entry} (at_ : entryOf (stall u p) n = some e) : entryAt u p n = e := by rw [entryAt, at_]; rfl

/-! #### The Daybook's hold -/

theorem holding_congr {s u : State} (status : csrGet u 0x0D00010 = csrGet s 0x0D00010) (holds : u.db.holds = s.db.holds) (c : Nat) :
    holding u c = holding s c := by
  rw [holding, replaying, csrBit, csrField, csrField, status, holds, holding, replaying, csrBit, csrField, csrField]

theorem holds_dbStore (s : State) (type c : Nat) (payload : List Byte) : (dbStore s type c payload).db.holds = s.db.holds := rfl

theorem holds_dbAppend (s : State) (type c : Nat) (payload : List Byte) : (dbAppend s type c payload).db.holds = s.db.holds := by
  unfold dbAppend
  split
  · exact congrArg (·.holds) (bump_db ..)
  · dsimp only
    split
    · rfl
    · rfl

theorem holding_ensureEpoch (s : State) (c d : Nat) : holding (ensureEpoch s c) d = holding s d := by
  unfold ensureEpoch openEpoch dbEpoch
  split
  · dsimp only
    split
    · rfl
    · refine holding_congr ?_ (holds_dbAppend ..) d
      exact csrGet_dbAppend _ (by unfold OffReports; omega) ..
  · rfl

/-! #### The entry that an instruction takes -/

/-- The live entries of a stall that has taken one more. -/
theorem mem_liveEntries_nset {x y : Stall} {k n : Nat} {e v : Entry} (taken : y.entries = nset none x.entries n (some e))
    (h : (k, v) ∈ liveEntries y) : v = e ∨ (k, v) ∈ liveEntries x := by
  obtain ⟨⟨j, o⟩, mem, same⟩ := List.mem_filterMap.mp h
  obtain ⟨v', held, pair⟩ := Option.map_eq_some_iff.mp same
  dsimp only at held pair
  obtain ⟨rfl, rfl⟩ := Prod.mk.inj pair
  rw [taken, nset, if_neg (Option.some_ne_none e)] at mem
  obtain new | old := mem_ninsert mem
  · exact .inl (Option.some.inj (held.symm.trans (Prod.mk.inj new).2))
  · exact .inr (List.mem_filterMap.mpr ⟨_, old, same⟩)

/-- The entry that an engine instruction takes. -/
def newEntry (s : State) (p : Nat) (t : Fin 4) (w : W128) (c : Nat) (eng : Engine) (start : Bool) : Entry :=
  { engine := eng, seq := (ensureEpoch s c).msgSeq, ctx := c, team := t, pc := (getTeam (stall s p).live t).pc, word := w,
    loops := capture (getTeam (stall s p).live t), started := start, outRec :=
      if mOf w && !clearMode (imageOf (ensureEpoch s c) c) ((opInfo (opcodeOf w)).map (·.fmt) |>.getD .s) w &&
          iterations (capture (getTeam (stall s p).live t)) (nestOf w) ≠ [] then
        some (produce (imageOf (ensureEpoch s c) c) w
          ((recordA (ensureEpoch s c) p c w (capture (getTeam (stall s p).live t))).getD 0)
          (localRec (ensureEpoch s c) p (actionOps w).2.1) (localRec (ensureEpoch s c) p (actionOps w).2.2) (currentEpoch (ensureEpoch s c) c))
      else none }

/-- What a stall has after an instruction has taken entry n. -/
theorem stall_takeEntry_full {s : State} {p n : Nat} (free : freeEntry (stall s p) = some n) (t : Fin 4) (w : W128) (c : Nat) (eng : Engine)
    (start : Bool) : let u := (takeEntry s p t w c eng start).1
    (stall u p).entries = nset none (stall s p).entries n (some (newEntry s p t w c eng start)) ∧ (stall u p).ma = (stall s p).ma ∧
      (stall u p).tiles = (stall s p).tiles := by
  have same : stall (ensureEpoch s c) p = stall s p := stall_ensureEpoch ..
  have pinned (b : Bool) (u : State) (h : Nat) :
      let v := if b then modCached u p h fun v => { v with pinned := true } else u
      (stall v p).entries = (stall u p).entries ∧ (stall v p).ma = (stall u p).ma ∧ (stall v p).tiles = (stall u p).tiles := by
    cases b
    · exact ⟨rfl, rfl, rfl⟩
    · refine ⟨?_, ?_, ?_⟩ <;> rw [if_pos rfl, modCached, stall_modStall_same]
  dsimp only
  unfold takeEntry
  dsimp only
  obtain ⟨entries, array, queue⟩ := pinned _ _ _
  rw [entries, array, queue, stall_modStall_same]
  dsimp only
  have other (k : Nat) : stall { ensureEpoch s c with msgSeq := k } p = stall s p := same
  rw [other, same, free, Option.getD_some]
  exact ⟨rfl, rfl, rfl⟩

theorem holding_noteFirst (s : State) (c d : Nat) : holding (noteFirst s c) d = holding s d :=
  holding_congr (csrGet_congr (noteFirst_csr ..) _) (congrArg (·.holds) (noteFirst_db ..)) d

theorem holding_takeEntry (s : State) (p : Nat) (t : Fin 4) (w : W128) (c : Nat) (eng : Engine) (start : Bool) (d : Nat) :
    holding (takeEntry s p t w c eng start).1 d = holding s d := by
  have pinned (b : Bool) (u : State) (h : Nat) : holding (if b then modCached u p h fun v => { v with pinned := true } else u) d = holding u d := by
    cases b <;> rfl
  exact (pinned ..).trans (holding_ensureEpoch s c d)

section

variable {s : State} {p : Nat} {t : Fin 4} {n : Nat} {g : Engine}

/-- An instruction of the stall itself that issues is ready in the entry it takes. -/
theorem ready_issue (free : freeEntry (stall s p) = some n) (c : Nat) (hc : c = runningNo s) (g : Engine) :
    Ready g p t n s (issued (localIssue g p t (noteFirst s c) (headOfTeam s p t) c) p t) := by
  subst hc
  have same : stall (noteFirst s (runningNo s)) p = stall s p := stall_noteFirst ..
  obtain ⟨entries, array, queue⟩ := stall_takeEntry_full (s := noteFirst s (runningNo s)) (same ▸ free) t (headOfTeam s p t) (runningNo s) g false
  have carries : Carries s (issued (localIssue g p t (noteFirst s (runningNo s)) (headOfTeam s p t) (runningNo s)) p t) :=
    ((carries_noteFirst ..).trans (carries_takeEntry ..)).trans (carries_issued ..)
  have at_ : entryOf (stall (issued (localIssue g p t (noteFirst s (runningNo s)) (headOfTeam s p t) (runningNo s)) p t) p) n =
      some (newEntry (noteFirst s (runningNo s)) p t (headOfTeam s p t) (runningNo s) g false) := by
    rw [stall_issued_same, entryOf, localIssue, entries, nget_nset_same]
  refine ⟨carries, ⟨_, at_, rfl, rfl, rfl, ?_, rfl, rfl, rfl, rfl, rfl⟩, fun idle => ?_, ?_, ?_, ?_⟩
  · rw [newEntry, same]
  · rw [entryAt_of at_, olderSame, List.any_eq_false]
    intro ⟨k, v⟩ live older
    rw [Bool.and_eq_true, decide_eq_true_eq, decide_eq_true_eq] at older
    rw [stall_issued_same] at live
    rw [same] at entries
    obtain rfl | old := mem_liveEntries_nset entries live
    · exact Nat.lt_irrefl _ older.2
    · exact idle.1 _ old older.1
  · exact (holding_takeEntry ..).trans (holding_noteFirst ..)
  · rw [stall_issued_same, localIssue, array, same]
  · rw [stall_issued_same, localIssue, queue, same]

/-- An instruction that is alone of its engine, and whose tiles are there, can finish. -/
theorem canFinish_ready {u : State} {e : Entry} (r : Ready g p t n s u) (at_ : entryOf (stall u p) n = some e) (is_ : ReadyEntry g s p t e)
    (idle : engineIdle s p g) (sends : g ≠ .drv)
    (demand : g = .ee → tileDemand (runningImage s) (headOfTeam s p t) (capture (getTeam (stall s p).live t)) = 0) : canFinish u p e = true := by
  obtain ⟨engine, word, context, loops, started, -, waits, arb, -⟩ := is_
  have alone := r.alone idle
  rw [entryAt_of at_] at alone
  have free : ctHeld u p e = false := by
    unfold ctHeld
    rw [context, r.holds, idle.2]
    rfl
  have tiles : (e.started || decide (e.engine ≠ .ee) || tilesReady u p e) = true := by
    by_cases ee : e.engine = .ee
    · have none_ : tileDemand (imageOf u e.ctx) e.word e.loops = 0 := by
        rw [context, word, loops, r.carries.image]
        exact demand (engine ▸ ee)
      rw [tilesReady, none_, decide_eq_true (Nat.zero_le _), Bool.or_true]
    · rw [decide_eq_true ee, Bool.or_true, Bool.true_or]
  unfold canFinish
  rw [tiles, free, waits, arb, engine, alone]
  simp [sends]

/-- An entry that has run through leaves its stall: it has begun, and then its destination is settled and it is freed. -/
def runFinished (p n : Nat) (v : State) : State :=
  finishEntry (modEntry v p n fun e => { e with started := true }) p n (entryAt (modEntry v p n fun e => { e with started := true }) p n)

/-- An instruction of the stall itself that issues, alone of its engine, runs through. -/
theorem runsThrough_of_ready {i : Instr} {p : Position} {t : TeamIx} {op : Nat} {o : OpInfo} {P : State → Prop} (h : Issues s p t op)
    (run : exec i s = .next (issueOp s p t op (localIssue g p t))) (hop : opInfo op = some o) (engine : o.fmt ≠ .s)
    (idle : engineIdle s p g) (sends : g ≠ .drv)
    (demand : g = .ee → tileDemand (runningImage s) (headOfTeam s p t) (capture (getTeam (stall s p).live t)) = 0)
    (ran : ∀ n u e, Ready g p t n s u → entryOf (stall u p) n = some e → ReadyEntry g s p t e → P (runFinished p n (runEntry none p n u))) :
    RunsThrough i s p P := by
  obtain ⟨n, free⟩ := free_of_issues h hop engine
  have ready := ready_issue (t := t) free (runningNo s) rfl g
  obtain ⟨e, at_, is_⟩ := ready.entry
  refine ⟨n, free, completes_of (run.trans (congrArg _ (issueOp_of_issues _ h))) ?_⟩
  refine completes_of (u := runFinished p n (runEntry none p n _)) (congrArg Host.Outcome.next ?_) (ran n _ e ready at_ is_)
  rw [at_]
  dsimp only
  rw [canFinish_ready ready at_ is_ idle sends demand, if_neg (by decide)]
  rw [ranEntry, entryAt_of at_, is_.started, if_neg Bool.false_ne_true]
  rfl

end

/-! ### What a run leaves when its entry is freed -/

/-- The stall at p differs from another in its handle cache only. -/
def CacheOnly (x y : Stall) : Prop := ∃ hc k, y = { x with hcache := hc, useNext := k }

theorem CacheOnly.refl (x : Stall) : CacheOnly x x := ⟨x.hcache, x.useNext, rfl⟩

theorem CacheOnly.trans {x y z : Stall} (h : CacheOnly x y) (k : CacheOnly y z) : CacheOnly x z := by
  obtain ⟨hc, k', rfl⟩ := h
  obtain ⟨hc', k'', rfl⟩ := k
  exact ⟨hc', k'', rfl⟩

theorem cacheOnly_modCached (s : State) (p h : Nat) (f : HEntry → HEntry) : CacheOnly (stall s p) (stall (modCached s p h f) p) := by
  rw [modCached, stall_modStall_same]
  exact ⟨_, _, rfl⟩

theorem cacheOnly_cacheHandle (s : State) (p c h : Nat) : CacheOnly (stall s p) (stall (cacheHandle s p c h) p) := by
  rw [cacheHandle, stall_modStall_same]
  dsimp only
  split
  · exact ⟨_, _, rfl⟩
  · exact .refl _
  · exact ⟨_, _, rfl⟩

theorem cacheOnly_poisonLocal (s : State) (p c h : Nat) : CacheOnly (stall s p) (stall (poisonLocal s p c h) p) := by
  have first : CacheOnly (stall s p) (stall (if (cached s p h).isSome then s else cacheHandle s p c h) p) := by
    split
    · exact .refl _
    · exact cacheOnly_cacheHandle ..
  unfold poisonLocal
  dsimp only
  generalize (if (cached s p h).isSome then s else cacheHandle s p c h) = v at first
  split
  · exact first.trans (cacheOnly_modCached ..)
  · exact first

theorem cacheOnly_poisonDest (s : State) (p c : Nat) {w : W128} (away : opcodeOf w ≠ 0x11 ∧ opcodeOf w ≠ 0x12) :
    CacheOnly (stall s p) (stall (poisonDest s p c w) p) := by
  unfold poisonDest
  dsimp only
  rw [decide_eq_false away.1, decide_eq_false away.2, Bool.or_self, if_neg Bool.false_ne_true]
  split
  · exact .refl _
  · exact cacheOnly_poisonLocal ..

theorem cacheOnly_settleDest (s : State) (p c : Nat) {e : Entry} (away : e.poison = true → opcodeOf e.word ≠ 0x11 ∧ opcodeOf e.word ≠ 0x12) :
    CacheOnly (stall s p) (stall (settleDest s p c e) p) := by
  rw [settleDest_eq]
  have settled : CacheOnly (stall s p) (stall (provSettled (recordSettled s p c e) p e) p) := by
    refine .trans ?_ ?_ (y := stall (recordSettled s p c e) p)
    · unfold recordSettled
      split
      · exact cacheOnly_modCached ..
      · exact .refl _
    · unfold provSettled
      split
      · exact cacheOnly_modCached ..
      · exact .refl _
  split
  · next poison => exact settled.trans (cacheOnly_poisonDest _ _ _ (away poison))
  · exact settled

/-- An entry that finishes leaves the array's banks and the tiles. -/
theorem array_finishEntry (s : State) (p n : Nat) {e : Entry} (away : e.poison = true → opcodeOf e.word ≠ 0x11 ∧ opcodeOf e.word ≠ 0x12) :
    (stall (finishEntry s p n e) p).ma = (stall s p).ma ∧ (stall (finishEntry s p n e) p).tiles = (stall s p).tiles := by
  have settled := cacheOnly_settleDest (ctOrder s p e) p e.ctx away
  rw [stall_ctOrder] at settled
  obtain ⟨hc, k, settled⟩ := settled
  unfold finishEntry
  dsimp only
  rw [dropEntry, stall_modStall_same]
  dsimp only
  split
  · rw [settled]
    exact ⟨rfl, rfl⟩
  · rw [modLive, stall_modStall_same, settled]
    exact ⟨rfl, rfl⟩

theorem runFinished_loft (p n : Nat) (v : State) : (runFinished p n v).loft = v.loft := finishEntry_loft ..

theorem array_runFinished {p n : Nat} {v : State} {e : Entry} (at_ : entryOf (stall v p) n = some e)
    (away : e.poison = true → opcodeOf e.word ≠ 0x11 ∧ opcodeOf e.word ≠ 0x12) :
    (stall (runFinished p n v) p).ma = (stall v p).ma ∧ (stall (runFinished p n v) p).tiles = (stall v p).tiles := by
  have begun : entryAt (modEntry v p n fun e => { e with started := true }) p n = { e with started := true } :=
    entryAt_of (by rw [entryOf_modEntry_same, at_]; rfl)
  rw [runFinished, begun]
  obtain ⟨array, tiles⟩ := array_finishEntry (modEntry v p n fun e => { e with started := true }) p n (e := { e with started := true }) away
  rw [array, tiles, modEntry, stall_modStall_same]
  exact ⟨rfl, rfl⟩

/-! ### Lines that a run writes -/

theorem loftRead_loftWrite_line (s : State) (p : Nat) {x y : Nat} (h : x ≠ y) (c : Nat) (l : Line) (mask d : Nat) :
    loftRead (loftWrite s p y c l mask) p x d = loftRead s p x d := by
  have same : loftLine (loftWrite s p y c l mask) p x = loftLine s p x := by
    refine nget_nset_other _ _ ?_ _
    unfold loftKey
    omega
  rw [loftRead, same, loftRead]

/-- The line at a of a piece, where a lies in it, has the words l. -/
def HoldsLine (p c : Nat) (pc : Piece) (a : Int) (l : Line) (u : State) : Prop :=
  inPiece pc a = true → ∃ v, loftRead u p (pc.base + a.toNat) c = some v ∧ SameWords v l

theorem HoldsLine.congr {p c : Nat} {pc : Piece} {a : Int} {l : Line} {u v : State} (loft : v.loft = u.loft) (h : HoldsLine p c pc a l u) :
    HoldsLine p c pc a l v := fun inside => by
  obtain ⟨w, read, words⟩ := h inside
  exact ⟨w, (loftRead_congr loft ..).trans read, words⟩

theorem inPiece_iff {pc : Piece} {a : Int} : inPiece pc a = true ↔ 0 ≤ a ∧ a < pc.lines := decide_eq_true_iff

theorem holdsLine_writePiece (s : State) (p : Nat) {c : Nat} (hc : c < 64) (pc : Piece) (a : Int) (l : Line) :
    HoldsLine p c pc a l (writePiece s p c pc a l 0xFFFF) := fun inside => by
  rw [writePiece, if_pos inside]
  exact sameWords_loftWrite _ _ _ hc _

/-- A line stands through the write of another, or of the same with the same words. -/
theorem HoldsLine.writePiece {s : State} {p c : Nat} (hc : c < 64) {pc : Piece} {a b : Int} {l k : Line} (agree : a = b → l = k)
    (h : HoldsLine p c pc a l s) : HoldsLine p c pc a l (writePiece s p c pc b k 0xFFFF) := by
  by_cases same : a = b
  · rw [← same, ← agree same]
    exact holdsLine_writePiece s p hc pc a l
  · intro inside
    rw [Machine.writePiece]
    split
    · next there =>
      have := (inPiece_iff.mp inside).1
      have := (inPiece_iff.mp there).1
      rw [loftRead_loftWrite_line _ _ (by omega)]
      exact h inside
    · exact h inside

section

variable {p : Nat} {pc : Piece} {e : Entry}

/-- The lines that a run writes, in turn. -/
def putLines (p : Nat) (e : Entry) (pc : Piece) (ls : List (Int × Line)) (s : State) : State :=
  ls.foldl (fun u x => putEntryLine u p e pc x.1 x.2) s

theorem putEntryLine_clean (clean : e.fixes = []) (s : State) (p : Nat) (pc : Piece) (a : Int) (l : Line) :
    putEntryLine s p e pc a l = writePiece s p e.ctx pc a l 0xFFFF := by
  have none_ : (if inPiece pc a then e.fixes.find? fun x => x.1 = pc.base + a.toNat else none) = none := by
    rw [clean]
    split <;> rfl
  unfold putEntryLine
  rw [none_]

theorem HoldsLine.putLines (hc : e.ctx < 64) (clean : e.fixes = []) {a : Int} {l : Line} {ls : List (Int × Line)}
    (agree : ∀ y ∈ ls, a = y.1 → l = y.2) {s : State} (h : HoldsLine p e.ctx pc a l s) : HoldsLine p e.ctx pc a l (putLines p e pc ls s) := by
  induction ls generalizing s with
  | nil => exact h
  | cons y ls ih =>
    refine ih (fun z hz => agree z (List.mem_cons_of_mem _ hz)) ?_
    dsimp only
    rw [putEntryLine_clean clean]
    exact h.writePiece hc (agree y List.mem_cons_self)

/-- Lines of which no two are written at one place with other words stand in the end. -/
theorem holdsLine_putLines (hc : e.ctx < 64) (clean : e.fixes = []) {ls : List (Int × Line)}
    (agree : ∀ x ∈ ls, ∀ y ∈ ls, x.1 = y.1 → x.2 = y.2) (s : State) : ∀ x ∈ ls, HoldsLine p e.ctx pc x.1 x.2 (putLines p e pc ls s) := by
  induction ls generalizing s with
  | nil => exact fun x mem => absurd mem List.not_mem_nil
  | cons y ls ih =>
    intro x mem
    obtain rfl | mem := List.mem_cons.mp mem
    · refine HoldsLine.putLines hc clean (fun z hz => agree x List.mem_cons_self z (List.mem_cons_of_mem _ hz)) ?_
      dsimp only
      rw [putEntryLine_clean clean]
      exact holdsLine_writePiece s p hc pc x.1 x.2
    · exact ih (fun a ha b hb => agree a (List.mem_cons_of_mem _ ha) b (List.mem_cons_of_mem _ hb)) _ x mem

end

/-! ### CT.FILL, CT.GATHER, CT.SCATTER and CT.SCATTERACC run through (R122, R229, R230) -/

section

variable {s u : State} {p : Nat} {t : Fin 4} {n : Nat} {g : Engine} {e : Entry}

/-- The offsets and the iterations of an instruction that is ready are those of its word and loops. -/
theorem ReadyEntry.addresses (r : ReadyEntry g s p t e) : entryIts e = headIts s p t ∧ addrA e = addrA (headEntry s p t) ∧
    addrB e = addrB (headEntry s p t) ∧ addrD e = addrD (headEntry s p t) := by
  refine ⟨?_, funext fun js => ?_, funext fun js => ?_, funext fun js => ?_⟩
  · rw [headIts, entryIts, r.word, r.loops, entryIts]
    rfl
  · rw [addrA, r.word, r.loops, addrA]
    rfl
  · rw [addrB, r.word, r.loops, addrB]
    rfl
  · rw [addrD, r.word, r.loops, addrD]
    rfl

/-- The image, the handles and the pieces of an instruction that is ready. -/
theorem ReadyEntry.pieces (r : ReadyEntry g s p t e) (c : Carries s u) : imageOf u e.ctx = runningImage s ∧ deviceId u = deviceId s ∧
    lidOf u p = lidOf s p := by
  rw [r.ctx, c.image, c.deviceId, c.lidOf]
  exact ⟨rfl, rfl, rfl⟩

end

/-- What CT.FILL writes. -/
def fillLines (s : State) (p : Nat) (t : Fin 4) : List (Int × Line) :=
  (headIts s p t).map fun js => (addrD (headEntry s p t) js, clearWords (hdl s (hD (headOfTeam s p t)))
    (List.replicate 16 (hdl s (hD (headOfTeam s p t))).fill))

theorem ctFillRun_eq {s u : State} {p : Nat} {t : Fin 4} {n : Nat} {e : Entry} (c : Carries s u) (r : ReadyEntry .ct s p t e) :
    (ctFillRun none p n e u).loft = (putLines p e (pieceAt s p (hD (headOfTeam s p t))) (fillLines s p t) u).loft := by
  obtain ⟨its, -, -, addrsD⟩ := r.addresses
  obtain ⟨image, device, lid⟩ := r.pieces c
  unfold ctFillRun
  dsimp only
  rw [noteWrites_loft, image, device, lid, r.word, upTo, its, addrsD, putLines, fillLines, List.foldl_map]
  rfl

theorem runEntry_ct {p n : Nat} {u : State} {e : Entry} (at_ : entryOf (stall u p) n = some e) (ct : e.engine = .ct) :
    (opcodeOf e.word = 0x73 → runEntry none p n u = ctGatherRun none p n e u) ∧ (opcodeOf e.word = 0x76 → runEntry none p n u = ctFillRun none p n e u) ∧
      (opcodeOf e.word = 0x74 → runEntry none p n u = ctScatterRun false none p n e u) ∧
      (opcodeOf e.word = 0x75 → runEntry none p n u = ctScatterRun true none p n e u) := by
  unfold runEntry
  rw [entryAt_of at_]
  dsimp only
  rw [ct]
  refine ⟨fun op => ?_, fun op => ?_, fun op => ?_, fun op => ?_⟩ <;> rw [op] <;> rfl

/-- Of an instruction that runs through: what it writes at a place of D's piece is read there. -/
theorem heldAt_runFinished {s v : State} {p n h : Nat} {a : Int} {l : Line} (held : HoldsLine p (runningNo s) (pieceAt s p h) a l v)
    (inside : inPiece (pieceAt s p h) a = true) : ∃ w, heldAt s (runFinished p n v) p h a = some w ∧ SameWords w l :=
  held.congr (runFinished_loft p n v) inside

theorem ctFill_runs {s : State} {p : Position} {t : TeamIx} (idle : engineIdle s p .ct) (h : Issues s p t 0x76) :
    RunsThrough (.ctFill p t) s p fun u => ∀ is ∈ headIts s p t,
      inPiece (pieceAt s p (hD (headOfTeam s p t))) (addrD (headEntry s p t) is) = true →
      ∃ v, heldAt s u p (hD (headOfTeam s p t)) (addrD (headEntry s p t) is) = some v ∧
        SameWords v (clearWords (hdl s (hD (headOfTeam s p t))) (List.replicate 16 (hdl s (hD (headOfTeam s p t))).fill)) := by
  refine runsThrough_of_ready h rfl rfl (by decide) idle (by decide) (fun ee => by cases ee) fun n u e r at_ is_ js mem inside => ?_
  have op : opcodeOf e.word = 0x76 := is_.word ▸ h.1
  rw [(runEntry_ct at_ is_.engine).2.1 op]
  have hc : e.ctx < 64 := is_.ctx ▸ runningNo_lt_of_go h.2.2
  have held := holdsLine_putLines (p := p) (pc := pieceAt s p (hD (headOfTeam s p t))) hc is_.fixes (ls := fillLines s p t) (fun x hx y hy _ => by
    obtain ⟨_, -, rfl⟩ := List.mem_map.mp hx
    obtain ⟨_, -, rfl⟩ := List.mem_map.mp hy
    rfl) u _ (List.mem_map_of_mem mem)
  rw [is_.ctx] at held
  exact heldAt_runFinished (held.congr (ctFillRun_eq r.carries is_)) inside

/-- The line that CT.GATHER collects: the words of a piece that an index line names from a place on, FILL where it names none. -/
def gatheredLine (d : HDecl) (pc : Piece) (read : Int → Line) (a : Int) (idx : Line) : Line :=
  (List.range 16).map fun k => match (if 0 ≤ indexOf idx k && inPiece pc ((16 * a + indexOf idx k) / 16) then some (16 * a + indexOf idx k)
      else none) with
    | some t => wordAt (read (t / 16)) (t % 16).toNat
    | none => d.fill

theorem wordAt_gatheredLine (d : HDecl) (pc : Piece) (read : Int → Line) (a : Int) (idx : Line) {k : Nat} (hk : k < 16) :
    wordAt (gatheredLine d pc read a idx) k = if 0 ≤ indexOf idx k ∧ inPiece pc ((16 * a + indexOf idx k) / 16) = true then
      wordAt (read ((16 * a + indexOf idx k) / 16)) ((16 * a + indexOf idx k) % 16).toNat else d.fill := by
  rw [gatheredLine, wordAt, List.getD_eq_getElem?_getD, List.getElem?_map, List.getElem?_range hk, Option.map_some, Option.getD_some]
  by_cases named : 0 ≤ indexOf idx k ∧ inPiece pc ((16 * a + indexOf idx k) / 16) = true
  · rw [if_pos named, if_pos (by rw [Bool.and_eq_true, decide_eq_true_eq]; exact named)]
  · rw [if_neg named, if_neg (by rw [Bool.and_eq_true, decide_eq_true_eq]; exact named)]

/-- A word of a line that a CLEAR handle narrows, alone. -/
theorem wordAt_clearWords (d : HDecl) (l : Line) {k : Nat} (hk : k < 16) :
    wordAt (clearWords d l) k = wordAt (clearWords d (List.replicate 16 (wordAt l k))) k := by
  have mapped (l : Line) : wordAt (l.map fun w => w &&& 0xFFFFFFFF) k = wordAt l k &&& 0xFFFFFFFF := by
    rw [wordAt, wordAt, List.getD_eq_getElem?_getD, List.getD_eq_getElem?_getD, List.getElem?_map]
    cases l[k]? with
    | none => exact (BitVec.zero_and).symm
    | some w => rfl
  have alone (x : W36) : wordAt (List.replicate 16 x) k = x := by
    rw [wordAt, List.getD_eq_getElem?_getD, List.getElem?_replicate, if_pos hk, Option.getD_some]
  unfold clearWords
  split
  · rw [mapped, mapped, alone]
  · rw [alone]

/-- The lines that an index line names. -/
def gatherPlaces (pc : Piece) (a : Int) (idx : Line) : List Int :=
  ((List.range 16).filterMap fun k => (if 0 ≤ indexOf idx k && inPiece pc ((16 * a + indexOf idx k) / 16) then some (16 * a + indexOf idx k)
    else none).map (· / 16)).dedup

/-- One iteration of CT.GATHER. -/
def gatherStep (p c : Nat) (e : Entry) (da db dd : HDecl) (pa pb pd : Piece) (a b d : Int) (s : State) : State :=
  let s2 := parityPiece s p c pb [b]
  let idx := readPiece s2 p c db pb b
  let s3 := parityPiece s2 p c pa (gatherPlaces pa a idx)
  putEntryLine s3 p e pd d (clearWords dd (gatheredLine da pa (readPiece s3 p c da pa) a idx))

section

variable {s u : State} {p : Nat} {t : Fin 4} {n : Nat} {e : Entry} {js : List Nat}

theorem ctGatherRun_single (one : entryIts e = [js]) : (ctGatherRun none p n e u).loft =
    (gatherStep p e.ctx e (decl (imageOf u e.ctx) (hA e.word)) (decl (imageOf u e.ctx) (hB e.word)) (decl (imageOf u e.ctx) (hD e.word))
      (pieceOf (imageOf u e.ctx) (deviceId u) (decl (imageOf u e.ctx) (hA e.word)) (lidOf u p))
      (pieceOf (imageOf u e.ctx) (deviceId u) (decl (imageOf u e.ctx) (hB e.word)) (lidOf u p))
      (pieceOf (imageOf u e.ctx) (deviceId u) (decl (imageOf u e.ctx) (hD e.word)) (lidOf u p)) (addrA e js) (addrB e js) (addrD e js) u).loft := by
  unfold ctGatherRun
  dsimp only
  rw [upTo, one]
  rfl

/-- What one iteration of CT.GATHER writes, read in a state whose Loft is that of s. -/
theorem holdsLine_gatherStep (c : Carries s u) (hc : e.ctx < 64) (clean : e.fixes = []) (da db dd : HDecl) (pa pb pd : Piece) (a b d : Int) :
    HoldsLine p e.ctx pd d (clearWords dd (gatheredLine da pa (readPiece s p e.ctx da pa) a (readPiece s p e.ctx db pb b)))
      (gatherStep p e.ctx e da db dd pa pb pd a b d u) := by
  have first := c.trans (carries_parityPiece u p e.ctx pb [b])
  have second (as_ : List Int) := first.trans (carries_parityPiece (parityPiece u p e.ctx pb [b]) p e.ctx pa as_)
  unfold gatherStep
  dsimp only
  rw [first.readPiece, putEntryLine_clean clean, funext ((second _).readPiece p e.ctx da pa)]
  exact holdsLine_writePiece _ p hc _ _ _

end

theorem ctGather_runs {s : State} {p : Position} {t : TeamIx} {js : List Nat} {k : Nat} (idle : engineIdle s p .ct) (h : Issues s p t 0x73)
    (one : headIts s p t = [js]) (inside : inPiece (pieceAt s p (hD (headOfTeam s p t))) (addrD (headEntry s p t) js) = true) (hk : k < 16) :
    RunsThrough (.ctGather p t) s p fun u => ∃ v, heldAt s u p (hD (headOfTeam s p t)) (addrD (headEntry s p t) js) = some v ∧ wordAt v k =
      wordAt (clearWords (hdl s (hD (headOfTeam s p t))) (List.replicate 16
        (if 0 ≤ indexOf (lineOf s p (hB (headOfTeam s p t)) (addrB (headEntry s p t) js)) k ∧ inPiece (pieceAt s p (hA (headOfTeam s p t)))
            ((16 * addrA (headEntry s p t) js + indexOf (lineOf s p (hB (headOfTeam s p t)) (addrB (headEntry s p t) js)) k) / 16) = true then
          wordAt (lineOf s p (hA (headOfTeam s p t))
            ((16 * addrA (headEntry s p t) js + indexOf (lineOf s p (hB (headOfTeam s p t)) (addrB (headEntry s p t) js)) k) / 16))
            ((16 * addrA (headEntry s p t) js + indexOf (lineOf s p (hB (headOfTeam s p t)) (addrB (headEntry s p t) js)) k) % 16).toNat
        else (hdl s (hA (headOfTeam s p t))).fill))) k := by
  refine runsThrough_of_ready h rfl rfl (by decide) idle (by decide) (fun ee => by cases ee) fun n u e r at_ is_ => ?_
  have op : opcodeOf e.word = 0x73 := is_.word ▸ h.1
  have hc : e.ctx < 64 := is_.ctx ▸ runningNo_lt_of_go h.2.2
  obtain ⟨its, addrsA, addrsB, addrsD⟩ := is_.addresses
  obtain ⟨image, device, lid⟩ := is_.pieces r.carries
  rw [(runEntry_ct at_ is_.engine).1 op]
  have held := (holdsLine_gatherStep (p := p) r.carries hc is_.fixes (hdl s (hA (headOfTeam s p t))) (hdl s (hB (headOfTeam s p t)))
    (hdl s (hD (headOfTeam s p t))) (pieceAt s p (hA (headOfTeam s p t))) (pieceAt s p (hB (headOfTeam s p t)))
    (pieceAt s p (hD (headOfTeam s p t))) (addrA (headEntry s p t) js) (addrB (headEntry s p t) js) (addrD (headEntry s p t) js))
  have loft := ctGatherRun_single (u := u) (p := p) (n := n) (its.trans one)
  rw [image, device, lid, is_.word, addrsA, addrsB, addrsD] at loft
  have ran := held.congr loft
  rw [is_.ctx] at ran
  obtain ⟨v, read, words⟩ := heldAt_runFinished (n := n) ran inside
  refine ⟨v, read, ?_⟩
  rw [words k hk, wordAt_clearWords _ _ hk, wordAt_gatheredLine _ _ _ _ _ hk]
  rfl

/-! #### One word scattered -/

/-- One word of an iteration of CT.SCATTER or CT.SCATTERACC: d is the first word's place, idx the index line, src the words. -/
def scatterWord (acc : Bool) (p n c : Nat) (img : Image) (dd : HDecl) (pd : Piece) (d : Int) (idx src : Line) (s : State) (k : Nat) : State :=
  let t := 16 * d + indexOf idx k
  let j := (t % 16).toNat
  if indexOf idx k < 0 || !inPiece pd (t / 16) then countDrop s p c 1
  else if acc then
    if linePrime img dd pd (t / 16) = 0 then countDrop s p c 1 else
    let s2 := parityPiece s p c pd [t / 16]
    let old := readPiece s2 p c dd pd (t / 16)
    noteWrites (writePiece s2 p c pd (t / 16) (putWord old j (((wordAt old j).toNat % linePrime img dd pd (t / 16) +
      (wordAt src k).toNat % linePrime img dd pd (t / 16)) % linePrime img dd pd (t / 16))) 0xFFFF) p n pd [t / 16]
  else noteWrites (writePiece s p c pd (t / 16) (putWord zeroLine j (wordAt src k).toNat) (2 ^ j)) p n pd [t / 16]

/-- One iteration of CT.SCATTER or CT.SCATTERACC. -/
def scatterStep (acc : Bool) (p n c : Nat) (img : Image) (da db dd : HDecl) (pa pb pd : Piece) (a b d : Int) (s : State) : State :=
  let s1 := parityPiece (parityPiece s p c pa [a]) p c pb [b]
  (List.range 16).foldl (scatterWord acc p n c img dd pd d (readPiece s1 p c db pb b) (clearWords dd (readPiece s1 p c da pa a))) s1

section

variable {s u : State} {p : Nat} {t : Fin 4} {n c k : Nat} {e : Entry} {js : List Nat}

theorem ctScatterRun_single (acc : Bool) (one : entryIts e = [js]) : ctScatterRun acc none p n e u =
    scatterStep acc p n e.ctx (imageOf u e.ctx) (decl (imageOf u e.ctx) (hA e.word)) (decl (imageOf u e.ctx) (hB e.word))
      (decl (imageOf u e.ctx) (hD e.word))
      (pieceOf (imageOf u e.ctx) (deviceId u) (decl (imageOf u e.ctx) (hA e.word)) (lidOf u p))
      (pieceOf (imageOf u e.ctx) (deviceId u) (decl (imageOf u e.ctx) (hB e.word)) (lidOf u p))
      (pieceOf (imageOf u e.ctx) (deviceId u) (decl (imageOf u e.ctx) (hD e.word)) (lidOf u p)) (addrA e js) (addrB e js) (addrD e js) u := by
  unfold ctScatterRun
  dsimp only
  rw [upTo, one, List.foldl_cons, List.foldl_nil]
  unfold scatterStep
  dsimp only
  refine congrArg (fun f => List.foldl f _ _) (funext fun v => funext fun k => ?_)
  rfl

/-- Of a fold in which every step but one only counts, the Loft is that of the one step. -/
theorem loft_foldl_single {β : Type} [DecidableEq β] {f : State → β → State} {l : List β} {b : β} (mem : b ∈ l) (nodup : l.Nodup)
    (others : ∀ v x, x ∈ l → x ≠ b → Carries v (f v x)) (u : State) : ∃ v, Carries u v ∧ (l.foldl f u).loft = (f v b).loft := by
  induction l generalizing u with
  | nil => cases mem
  | cons x l ih =>
    obtain ⟨new, nodup⟩ := List.nodup_cons.mp nodup
    by_cases here : x = b
    · subst here
      have rest : ∀ (m : List β), (∀ y ∈ m, y ∈ l) → ∀ v, (m.foldl f v).loft = v.loft := by
        intro m
        induction m with
        | nil => exact fun _ _ => rfl
        | cons y m ihm =>
          intro sub v
          have away : y ≠ x := fun same => new (same ▸ sub y List.mem_cons_self)
          exact (ihm (fun z hz => sub z (List.mem_cons_of_mem _ hz)) _).trans
            (others v y (List.mem_cons_of_mem _ (sub y List.mem_cons_self)) away).loft
      exact ⟨u, .refl u, rest l (fun _ hy => hy) _⟩
    · have mem := (List.mem_cons.mp mem).resolve_left fun same => here same.symm
      obtain ⟨v, carries, loft⟩ := ih mem nodup (fun v y hy => others v y (List.mem_cons_of_mem _ hy)) (f u x)
      exact ⟨v, (others u x List.mem_cons_self here).trans carries, loft⟩

/-- A word whose index is negative is dropped. -/
theorem scatterWord_dropped (acc : Bool) (img : Image) (dd : HDecl) (pd : Piece) (d : Int) {idx : Line} (src : Line) (s : State)
    (none_ : indexOf idx k < 0) : scatterWord acc p n c img dd pd d idx src s k = countDrop s p c 1 := by
  unfold scatterWord
  dsimp only
  rw [decide_eq_true none_, Bool.true_or, if_pos rfl]

theorem wordAt_putWord (l : Line) {j : Nat} (hj : j < 16) (y : Nat) : wordAt (putWord l j y) j = BitVec.ofNat 36 y := by
  rw [putWord, wordAt, List.getD_eq_getElem?_getD, List.getElem?_map, List.getElem?_range hj, Option.map_some, Option.getD_some, if_pos rfl]

/-- The word that CT.SCATTER writes. -/
theorem scatterWord_writes (img : Image) (dd : HDecl) {pd : Piece} {d : Int} {idx : Line} (src : Line) (s : State) (hc : c < 64)
    (named : 0 ≤ indexOf idx k) (inside : inPiece pd ((16 * d + indexOf idx k) / 16) = true) :
    ∃ v, loftRead (scatterWord false p n c img dd pd d idx src s k) p (pd.base + ((16 * d + indexOf idx k) / 16).toNat) c = some v ∧
      wordAt v ((16 * d + indexOf idx k) % 16).toNat = wordAt src k := by
  have small : ((16 * d + indexOf idx k) % 16).toNat < 16 := by omega
  unfold scatterWord
  dsimp only
  rw [decide_eq_false (not_lt.mpr named), inside, Bool.not_true, Bool.or_self, if_neg Bool.false_ne_true, if_neg Bool.false_ne_true, writePiece, if_pos inside]
  obtain ⟨v, read, words⟩ := words_loftWrite s p (pd.base + ((16 * d + indexOf idx k) / 16).toNat) hc
    (putWord zeroLine ((16 * d + indexOf idx k) % 16).toNat (wordAt src k).toNat) (2 ^ ((16 * d + indexOf idx k) % 16).toNat)
  refine ⟨v, (loftRead_congr (noteWrites_loft ..) ..).trans read, ?_⟩
  rw [words _ small (by rw [bitOf, Nat.div_self (by positivity)]; rfl), wordAt_putWord _ small, BitVec.ofNat_toNat, BitVec.setWidth_eq]

/-- The word that CT.SCATTERACC adds. -/
theorem scatterWord_adds {img : Image} {dd : HDecl} {pd : Piece} {d : Int} {idx : Line} (src : Line) (s : State) (hc : c < 64)
    (named : 0 ≤ indexOf idx k) (inside : inPiece pd ((16 * d + indexOf idx k) / 16) = true)
    (prime : linePrime img dd pd ((16 * d + indexOf idx k) / 16) ≠ 0) (small : linePrime img dd pd ((16 * d + indexOf idx k) / 16) < 2 ^ 36) :
    ∃ v, loftRead (scatterWord true p n c img dd pd d idx src s k) p (pd.base + ((16 * d + indexOf idx k) / 16).toNat) c = some v ∧
      (wordAt v ((16 * d + indexOf idx k) % 16).toNat).toNat =
        ((wordAt (readPiece s p c dd pd ((16 * d + indexOf idx k) / 16)) ((16 * d + indexOf idx k) % 16).toNat).toNat +
          (wordAt src k).toNat) % linePrime img dd pd ((16 * d + indexOf idx k) / 16) := by
  have word : ((16 * d + indexOf idx k) % 16).toNat < 16 := by omega
  unfold scatterWord
  dsimp only
  rw [decide_eq_false (not_lt.mpr named), inside, Bool.not_true, Bool.or_self, if_neg Bool.false_ne_true, if_pos rfl, if_neg prime, (carries_parityPiece s p c pd _).readPiece]
  generalize linePrime img dd pd ((16 * d + indexOf idx k) / 16) = q at prime small
  obtain ⟨v, read, words⟩ := holdsLine_writePiece (parityPiece s p c pd [(16 * d + indexOf idx k) / 16]) p hc pd ((16 * d + indexOf idx k) / 16)
    (putWord (readPiece s p c dd pd ((16 * d + indexOf idx k) / 16)) ((16 * d + indexOf idx k) % 16).toNat
      (((wordAt (readPiece s p c dd pd ((16 * d + indexOf idx k) / 16)) ((16 * d + indexOf idx k) % 16).toNat).toNat % q +
        (wordAt src k).toNat % q) % q)) inside
  refine ⟨v, (loftRead_congr (noteWrites_loft ..) ..).trans read, ?_⟩
  rw [words _ word, wordAt_putWord _ word, BitVec.toNat_ofNat, ← Nat.add_mod, Nat.mod_eq_of_lt]
  exact (Nat.mod_lt _ (Nat.pos_of_ne_zero prime)).trans small

end

section

variable {s u : State} {p : Nat} {t : Fin 4} {n k : Nat} {e : Entry} {js : List Nat}

/-- Of one iteration of CT.SCATTER or CT.SCATTERACC whose only index is word k of the index line, that word is scattered, in a state
whose Loft is that of the issue. -/
theorem ctScatter_word (acc : Bool) (c : Carries s u) (r : ReadyEntry .ct s p t e) (one : headIts s p t = [js]) (hk : k < 16)
    (others : ∀ j, j < 16 → j ≠ k → indexOf (lineOf s p (hB (headOfTeam s p t)) (addrB (headEntry s p t) js)) j < 0) :
    ∃ v, Carries s v ∧ (ctScatterRun acc none p n e u).loft = (scatterWord acc p n (runningNo s) (runningImage s) (hdl s (hD (headOfTeam s p t)))
      (pieceAt s p (hD (headOfTeam s p t))) (addrD (headEntry s p t) js) (lineOf s p (hB (headOfTeam s p t)) (addrB (headEntry s p t) js))
      (clearWords (hdl s (hD (headOfTeam s p t))) (lineOf s p (hA (headOfTeam s p t)) (addrA (headEntry s p t) js))) v k).loft := by
  obtain ⟨its, addrsA, addrsB, addrsD⟩ := r.addresses
  obtain ⟨image, device, lid⟩ := r.pieces c
  have read : Carries s (parityPiece (parityPiece u p (runningNo s) (pieceAt s p (hA (headOfTeam s p t))) [addrA (headEntry s p t) js]) p (runningNo s)
      (pieceAt s p (hB (headOfTeam s p t))) [addrB (headEntry s p t) js]) := (c.trans (carries_parityPiece ..)).trans (carries_parityPiece ..)
  have lineA := read.readPiece p (runningNo s) (hdl s (hA (headOfTeam s p t))) (pieceAt s p (hA (headOfTeam s p t))) (addrA (headEntry s p t) js)
  have lineB := read.readPiece p (runningNo s) (hdl s (hB (headOfTeam s p t))) (pieceAt s p (hB (headOfTeam s p t))) (addrB (headEntry s p t) js)
  have run := ctScatterRun_single (u := u) (p := p) (n := n) acc (its.trans one)
  rw [image, device, lid, r.word, addrsA, addrsB, addrsD, r.ctx] at run
  obtain ⟨v, carries, loft⟩ := loft_foldl_single (f := scatterWord acc p n (runningNo s) (runningImage s) (hdl s (hD (headOfTeam s p t)))
      (pieceAt s p (hD (headOfTeam s p t))) (addrD (headEntry s p t) js) (lineOf s p (hB (headOfTeam s p t)) (addrB (headEntry s p t) js))
      (clearWords (hdl s (hD (headOfTeam s p t))) (lineOf s p (hA (headOfTeam s p t)) (addrA (headEntry s p t) js))))
    (List.mem_range.mpr hk) List.nodup_range (fun v j hj away => by
      rw [scatterWord_dropped _ _ _ _ _ _ _ (others j (List.mem_range.mp hj) away)]
      exact carries_countDrop ..)
    (parityPiece (parityPiece u p (runningNo s) (pieceAt s p (hA (headOfTeam s p t))) [addrA (headEntry s p t) js]) p (runningNo s)
      (pieceAt s p (hB (headOfTeam s p t))) [addrB (headEntry s p t) js])
  refine ⟨v, read.trans carries, ?_⟩
  rw [run, ← loft]
  unfold scatterStep
  dsimp only
  have lines {l l' m m' : Line} (hl : l = l') (hm : m = m') (w : State) : (List.range 16).foldl (scatterWord acc p n (runningNo s) (runningImage s)
        (hdl s (hD (headOfTeam s p t))) (pieceAt s p (hD (headOfTeam s p t))) (addrD (headEntry s p t) js) l
        (clearWords (hdl s (hD (headOfTeam s p t))) m)) w =
      (List.range 16).foldl (scatterWord acc p n (runningNo s) (runningImage s) (hdl s (hD (headOfTeam s p t)))
        (pieceAt s p (hD (headOfTeam s p t))) (addrD (headEntry s p t) js) l' (clearWords (hdl s (hD (headOfTeam s p t))) m')) w := by
    rw [hl, hm]
  exact congrArg State.loft (lines lineB lineA _)

end

/-- Of the word that is scattered: k is its number, and its place lies in D's piece. -/
def Scatters (s : State) (p : Nat) (t : Fin 4) (js : List Nat) (k : Nat) : Prop :=
  k < 16 ∧ 0 ≤ indexOf (lineOf s p (hB (headOfTeam s p t)) (addrB (headEntry s p t) js)) k ∧
    inPiece (pieceAt s p (hD (headOfTeam s p t))) ((16 * addrD (headEntry s p t) js +
      indexOf (lineOf s p (hB (headOfTeam s p t)) (addrB (headEntry s p t) js)) k) / 16) = true ∧
    ∀ j, j < 16 → j ≠ k → indexOf (lineOf s p (hB (headOfTeam s p t)) (addrB (headEntry s p t) js)) j < 0

/-- Where word k is scattered to. -/
def scatterPlace (s : State) (p : Nat) (t : Fin 4) (js : List Nat) (k : Nat) : Int :=
  16 * addrD (headEntry s p t) js + indexOf (lineOf s p (hB (headOfTeam s p t)) (addrB (headEntry s p t) js)) k

theorem ctScatter_runs {s : State} {p : Position} {t : TeamIx} {js : List Nat} {k : Nat} (idle : engineIdle s p .ct) (h : Issues s p t 0x74)
    (one : headIts s p t = [js]) (scatters : Scatters s p t js k) : RunsThrough (.ctScatter p t) s p fun u =>
      ∃ v, heldAt s u p (hD (headOfTeam s p t)) (scatterPlace s p t js k / 16) = some v ∧ wordAt v (scatterPlace s p t js k % 16).toNat =
        wordAt (clearWords (hdl s (hD (headOfTeam s p t))) (List.replicate 16
          (wordAt (lineOf s p (hA (headOfTeam s p t)) (addrA (headEntry s p t) js)) k))) k := by
  obtain ⟨hk, named, inside, others⟩ := scatters
  refine runsThrough_of_ready h rfl rfl (by decide) idle (by decide) (fun ee => by cases ee) fun n u e r at_ is_ => ?_
  have op : opcodeOf e.word = 0x74 := is_.word ▸ h.1
  rw [(runEntry_ct at_ is_.engine).2.2.1 op]
  obtain ⟨w, -, loft⟩ := ctScatter_word (n := n) false r.carries is_ one hk others
  obtain ⟨v, read, word⟩ := scatterWord_writes (n := n) (runningImage s) (hdl s (hD (headOfTeam s p t)))
    (clearWords (hdl s (hD (headOfTeam s p t))) (lineOf s p (hA (headOfTeam s p t)) (addrA (headEntry s p t) js))) w (runningNo_lt_of_go h.2.2)
    named inside
  exact ⟨v, (loftRead_congr ((runFinished_loft ..).trans loft) ..).trans read, word.trans (wordAt_clearWords _ _ hk)⟩

theorem ctScatteracc_runs {s : State} {p : Position} {t : TeamIx} {js : List Nat} {k q : Nat} (idle : engineIdle s p .ct) (h : Issues s p t 0x75)
    (one : headIts s p t = [js]) (scatters : Scatters s p t js k) (prime : linePrime (runningImage s) (hdl s (hD (headOfTeam s p t)))
      (pieceAt s p (hD (headOfTeam s p t))) (scatterPlace s p t js k / 16) = q) (nonzero : q ≠ 0) (small : q < 2 ^ 36) :
    RunsThrough (.ctScatteracc p t) s p fun u =>
      ∃ v, heldAt s u p (hD (headOfTeam s p t)) (scatterPlace s p t js k / 16) = some v ∧
        (wordAt v (scatterPlace s p t js k % 16).toNat).toNat =
          ((wordAt (lineOf s p (hD (headOfTeam s p t)) (scatterPlace s p t js k / 16)) (scatterPlace s p t js k % 16).toNat).toNat +
            (wordAt (clearWords (hdl s (hD (headOfTeam s p t))) (List.replicate 16
              (wordAt (lineOf s p (hA (headOfTeam s p t)) (addrA (headEntry s p t) js)) k))) k).toNat) % q := by
  obtain ⟨hk, named, inside, others⟩ := scatters
  subst prime
  refine runsThrough_of_ready h rfl rfl (by decide) idle (by decide) (fun ee => by cases ee) fun n u e r at_ is_ => ?_
  have op : opcodeOf e.word = 0x75 := is_.word ▸ h.1
  rw [(runEntry_ct at_ is_.engine).2.2.2 op]
  obtain ⟨w, carries, loft⟩ := ctScatter_word (n := n) true r.carries is_ one hk others
  obtain ⟨v, read, word⟩ := scatterWord_adds (n := n) (clearWords (hdl s (hD (headOfTeam s p t)))
    (lineOf s p (hA (headOfTeam s p t)) (addrA (headEntry s p t) js))) w (runningNo_lt_of_go h.2.2) named inside nonzero small
  refine ⟨v, (loftRead_congr ((runFinished_loft ..).trans loft) ..).trans read, word.trans ?_⟩
  rw [carries.readPiece, wordAt_clearWords _ _ hk]
  rfl

/-- Settles O21: what the Carter asks and sends stays on its way (`Carries`), and what it writes in the stall's own Loft is read there when
the instruction has run through (`runsThrough_of_ready`). -/
theorem carterMovesLines : Obligations.CarterMovesLines :=
  ⟨fun _ _ _ _ free => ⟨ctLoad_completes free, ctStore_completes free, ctAtom_completes free, fun _ => ctCopy_completes free⟩,
    fun _ _ _ _ _ idle => ⟨ctFill_runs idle, ctGather_runs idle, fun h one scatters => ctScatter_runs idle h one scatters,
      fun h one scatters nonzero small => ctScatteracc_runs idle h one scatters rfl nonzero small⟩⟩

end Sys2Proof.Machine
end

section
/-!
SUPPORT. The frame lemmas that the proofs of O18 to O20 rest on.
-/

namespace Sys2Proof.Machine



end Sys2Proof.Machine
end

section
/-!
PROOFS. Instructions that run through: the Matrix Array (O18), the Transform Engine (O19) and the Element Engine (O20).
-/

namespace Sys2Proof.Machine

/-! ### The Matrix Array's instructions run through (R139, R142 to R148, R151, R164) -/

/-- From s to u a run has kept what stall p's entries are, and changed neither its banks nor its tiles. -/
structure KeepsArray (p : Nat) (s u : State) : Prop where
  stay : EntriesStay p s u
  ma : (stall u p).ma = (stall s p).ma
  tiles : (stall u p).tiles = (stall s p).tiles

theorem KeepsArray.refl (p : Nat) (s : State) : KeepsArray p s s := ⟨.refl s, rfl, rfl⟩

theorem KeepsArray.trans {p : Nat} {s u v : State} (h : KeepsArray p s u) (k : KeepsArray p u v) : KeepsArray p s v :=
  ⟨h.stay.trans k.stay, k.ma.trans h.ma, k.tiles.trans h.tiles⟩

theorem KeepsArray.of_stalls {p : Nat} {s u : State} (same : u.stalls = s.stalls) (ledger : u.ledger = s.ledger) : KeepsArray p s u :=
  ⟨.of_stalls same ledger, by rw [stall_congr same], by rw [stall_congr same]⟩

theorem keepsArray_writePiece (s : State) (p c : Nat) (pc : Piece) (a : Int) (l : Line) (mask : Nat) :
    KeepsArray p s (writePiece s p c pc a l mask) := by
  unfold writePiece
  split
  · exact .of_stalls (loftWrite_stalls ..) (loftWrite_ledger ..)
  · exact ⟨stay_countDrop .., by rw [countDrop, stall_modStall_same], by rw [countDrop, stall_modStall_same]⟩

theorem keepsArray_modEntry (s : State) (p n : Nat) {f : Entry → Entry} (h : ∀ e, issuedAs (f e) = issuedAs e) :
    KeepsArray p s (modEntry s p n f) :=
  ⟨.modEntry s n h, by rw [modEntry, stall_modStall_same], by rw [modEntry, stall_modStall_same]⟩

theorem keepsArray_putLines (p : Nat) {e : Entry} (clean : e.fixes = []) (pc : Piece) (ls : List (Int × Line)) (s : State) :
    KeepsArray p s (putLines p e pc ls s) := by
  induction ls generalizing s with
  | nil => exact .refl p s
  | cons x ls ih =>
    refine .trans ?_ (ih _)
    dsimp only
    rw [putEntryLine_clean clean]
    exact keepsArray_writePiece ..

/-- What a run that has kept a stall's array leaves of it once its entry is freed. -/
theorem KeepsArray.finished {p n : Nat} {s u : State} {e : Entry} (h : KeepsArray p s u) (at_ : entryOf (stall s p) n = some e)
    (drain : opcodeOf e.word ≠ 0x11 ∧ opcodeOf e.word ≠ 0x12) :
    (stall (runFinished p n u) p).ma = (stall s p).ma ∧ (stall (runFinished p n u) p).tiles = (stall s p).tiles := by
  have kept := h.stay.entries n
  rw [at_, Option.map_some] at kept
  obtain ⟨e', at', same⟩ := Option.map_eq_some_iff.mp kept
  simp only [issuedAs, Prod.mk.injEq] at same
  obtain ⟨-, word, -⟩ := same
  obtain ⟨ma, tiles⟩ := array_runFinished at' fun _ => word ▸ drain
  exact ⟨ma.trans h.ma, tiles.trans h.tiles⟩

theorem runEntry_ma {p n : Nat} {u : State} {e : Entry} (at_ : entryOf (stall u p) n = some e) (ma : e.engine = .ma) :
    (opcodeOf e.word = 0x10 → runEntry none p n u = maFormRun p e u) ∧ (opcodeOf e.word = 0x13 → runEntry none p n u = maDrainRun none p n e u) ∧
      (opcodeOf e.word = 0x11 → runEntry none p n u = maMacRun false p e u) ∧
      (opcodeOf e.word = 0x12 → runEntry none p n u = maMacRun true p e u) := by
  unfold runEntry
  rw [entryAt_of at_]
  dsimp only
  rw [ma]
  refine ⟨fun op => ?_, fun op => ?_, fun op => ?_, fun op => ?_⟩ <;> rw [op] <;> rfl

/-! #### MA.FORM -/

theorem maForm_runs {s : State} {p : Position} {t : TeamIx} (idle : engineIdle s p .ma) (h : Issues s p t 0x10) :
    RunsThrough (.maForm p t) s p fun u => (stall u p).ma = { (stall s p).ma with
      form := if bitsOf (modE2 (headOfTeam s p t)) 1 0 = 0 then .tall else if bitsOf (modE2 (headOfTeam s p t)) 1 0 = 1 then .square else .wide,
      b0 := {}, b1 := {} } := by
  refine runsThrough_of_ready h rfl rfl (by decide) idle (by decide) (fun ee => by cases ee) fun n u e r at_ is_ => ?_
  have op : opcodeOf e.word = 0x10 := is_.word ▸ h.1
  have array : (stall (maFormRun p e u) p).ma = { (stall u p).ma with
      form := if bitsOf (modE2 e.word) 1 0 = 0 then .tall else if bitsOf (modE2 e.word) 1 0 = 1 then .square else .wide, b0 := {}, b1 := {} } := by
    unfold maFormRun
    dsimp only
    rw [stall_modStall_same]
    split
    · next f => rw [if_pos f]
    · next f => rw [f]; rfl
    · next zero one => rw [if_neg zero, if_neg one]
  have kept : (entryOf (stall (maFormRun p e u) p) n) = some e := by
    unfold maFormRun
    dsimp only
    rw [stall_modStall_same]
    exact at_
  rw [(runEntry_ma at_ is_.engine).1 op, (array_runFinished kept fun _ => ⟨by rw [op]; decide, by rw [op]; decide⟩).1, array, r.array, is_.word]

/-! #### MA.MAC and MA.MACZ -/

section

variable (s : State) (p : Nat) (t : Fin 4)

/-- The mode of a MAC. -/
def macMode : BankMode := maMode (hdl s (hA (headOfTeam s p t))) (hdl s (hB (headOfTeam s p t)))

/-- The primes of the columns of a MAC. -/
def macPrimes : List Nat := if macMode s p t = .mod then columnPrimes (runningImage s) (hdl s (hD (headOfTeam s p t)))
  (pieceAt s p (hD (headOfTeam s p t))) (addrD (headEntry s p t) (List.replicate (nestOf (headOfTeam s p t)) 0))
  (formDims (stall s p).ma.form).2 else []

/-- A bank after the rows of a MAC have been streamed into it. -/
def streamed (b0 : Bank) : Bank := (headIts s p t).foldl (fun b js => maRow (formDims (stall s p).ma.form).1 (formDims (stall s p).ma.form).2
  (hdl s (hA (headOfTeam s p t))).etype (mactOf (headOfTeam s p t)) b
  (maVector s p (runningNo s) (hdl s (hA (headOfTeam s p t))) (pieceAt s p (hA (headOfTeam s p t))) (addrA (headEntry s p t) js)
    (formDims (stall s p).ma.form).1)
  (maVector s p (runningNo s) (hdl s (hB (headOfTeam s p t))) (pieceAt s p (hB (headOfTeam s p t))) (addrB (headEntry s p t) js)
    (formDims (stall s p).ma.form).2)) b0

end

section

variable {s u : State} {p : Nat} {t : Fin 4} {n : Nat} {e : Entry}

theorem Carries.maVector (h : Carries s u) (c : Nat) (d : HDecl) (pc : Piece) (a : Int) (v : Nat) :
    maVector u p c d pc a v = maVector s p c d pc a v := by
  have line (k : Int) : maLine u p c d pc k = maLine s p c d pc k := by
    unfold maLine
    simp only [h.readPiece]
  unfold Machine.maVector
  simp only [line]

/-- What MA.MAC and MA.MACZ leave of the array. -/
theorem maMacRun_array (zero : Bool) (r : Ready .ma p t n s u) (is_ : ReadyEntry .ma s p t e) (some_ : headIts s p t ≠ []) :
    (stall (maMacRun zero p e u) p).ma = { setActive (stall s p).ma (streamed s p t
      (if zero || (activeBank (stall s p).ma).mode ≠ macMode s p t || (activeBank (stall s p).ma).primes ≠ macPrimes s p t then
        { mode := macMode s p t, primes := macPrimes s p t } else activeBank (stall s p).ma)) with snap := activeBank (stall s p).ma } := by
  obtain ⟨its, addrsA, addrsB, addrsD⟩ := is_.addresses
  obtain ⟨image, device, lid⟩ := is_.pieces r.carries
  unfold maMacRun
  dsimp only
  rw [its, if_neg some_, image, device, lid, r.array, addrsA, addrsB, addrsD, is_.word, is_.ctx, stall_modStall_same,
    stall_congr ((parityPiece_stalls ..).trans (parityPiece_stalls ..)) p, r.array]
  simp only [r.carries.maVector]
  rfl

theorem maMacRun_none (zero : Bool) (is_ : ReadyEntry .ma s p t e) (none_ : headIts s p t = []) : maMacRun zero p e u = u := by
  unfold maMacRun
  dsimp only
  rw [is_.addresses.1, if_pos none_]

theorem entryOf_maMacRun (zero : Bool) (at_ : entryOf (stall u p) n = some e) : entryOf (stall (maMacRun zero p e u) p) n = some e := by
  unfold maMacRun
  dsimp only
  split
  · exact at_
  · rw [stall_modStall_same, stall_congr ((parityPiece_stalls ..).trans (parityPiece_stalls ..)) p]
    exact at_

end

/-- A MAC runs through. -/
theorem maMac_runs {s : State} {p : Position} {t : TeamIx} {op : Nat} {o : OpInfo} (zero : Bool) (i : Instr) (idle : engineIdle s p .ma)
    (h : Issues s p t op) (run : exec i s = .next (issueOp s p t op (localIssue .ma p t))) (hop : opInfo op = some o) (engine : o.fmt ≠ .s)
    (runs : ∀ n u e, entryOf (stall u p) n = some e → e.engine = .ma → opcodeOf e.word = op → runEntry none p n u = maMacRun zero p e u) :
    (headIts s p t ≠ [] → RunsThrough i s p fun u => (stall u p).ma = { setActive (stall s p).ma (streamed s p t
      (if zero || (activeBank (stall s p).ma).mode ≠ macMode s p t || (activeBank (stall s p).ma).primes ≠ macPrimes s p t then
        { mode := macMode s p t, primes := macPrimes s p t } else activeBank (stall s p).ma)) with snap := activeBank (stall s p).ma }) ∧
    (headIts s p t = [] → RunsThrough i s p fun u => (stall u p).ma = (stall s p).ma) := by
  refine ⟨fun some_ => ?_, fun none_ => ?_⟩
  · refine runsThrough_of_ready h run hop engine idle (by decide) (fun ee => by cases ee) fun n u e r at_ is_ => ?_
    have op : opcodeOf e.word = op := is_.word ▸ h.1
    rw [runs n u e at_ is_.engine op, (array_runFinished (entryOf_maMacRun zero at_) fun poison => by
      rw [is_.poison] at poison; cases poison).1]
    exact maMacRun_array zero r is_ some_
  · refine runsThrough_of_ready h run hop engine idle (by decide) (fun ee => by cases ee) fun n u e r at_ is_ => ?_
    have op : opcodeOf e.word = op := is_.word ▸ h.1
    rw [runs n u e at_ is_.engine op, maMacRun_none zero is_ none_, (array_runFinished at_ fun poison => by
      rw [is_.poison] at poison; cases poison).1, r.array]

/-! #### MA.DRAIN -/

/-- MA.DRAIN swaps the banks. -/
def banksSwapped (p : Nat) (s : State) : State := modStall s p fun x => { x with ma := { x.ma with active := !x.ma.active } }

section

variable {s u : State} {p : Nat} {t : Fin 4} {n : Nat} {e : Entry}

theorem banksSwapped_array (p : Nat) (s : State) : (stall (banksSwapped p s) p).ma = { (stall s p).ma with active := !(stall s p).ma.active } ∧
    (stall (banksSwapped p s) p).tiles = (stall s p).tiles ∧ (stall (banksSwapped p s) p).entries = (stall s p).entries := by
  rw [banksSwapped, stall_modStall_same]
  exact ⟨rfl, rfl, rfl⟩

/-- The tile of a drain at offset off of a destination with a pitch. -/
def drained (s : State) (p : Nat) (w : W128) (pitch : Nat) (off : Int) : List (Int × Line) :=
  drainTile (stall s p).ma.form (activeBank (stall s p).ma) (bitsOf (modE2 w) 2 0) (mactOf w) pitch off

/-- The lines of a drain, written, and their poison noted. -/
def drainWritten (p n : Nat) (e : Entry) (pc : Piece) (ls : List (Int × Line)) (poison : Bool) (s : State) : State :=
  if poison then modEntry (noteWrites (putLines p e pc ls s) p n pc (ls.map (·.1))) p n fun v => { v with poison := true }
  else noteWrites (putLines p e pc ls s) p n pc (ls.map (·.1))

theorem maDrainRun_lines (clean : e.fixes = []) (away : hD e.word ≠ hTileq) : maDrainRun none p n e u =
    drainWritten p n e (pieceOf (imageOf u e.ctx) (deviceId u) (decl (imageOf u e.ctx) (hD e.word)) (lidOf u p))
      (drained u p e.word (decl (imageOf u e.ctx) (hD e.word)).pitch (addrD e [])) (activeBank (stall u p).ma).poison (banksSwapped p u) := by
  unfold maDrainRun
  dsimp only
  rw [if_neg away, clean]
  rfl

theorem maDrainRun_tile (clean : e.fixes = []) (queue : hD e.word = hTileq) : maDrainRun none p n e u =
    modStall (banksSwapped p u) p fun x => { x with tiles := x.tiles ++
      [⟨(drained u p e.word (tileqPitch (stall u p).ma.form (bitsOf (modE2 e.word) 2 0)) 0).map (·.2), (activeBank (stall u p).ma).poison⟩] } := by
  unfold maDrainRun
  dsimp only
  rw [if_pos queue, clean]
  simp only [List.any_nil, Bool.false_eq_true, if_false, Bool.or_false]
  rfl

theorem drainWritten_frame (p n : Nat) {e : Entry} (clean : e.fixes = []) (pc : Piece) (ls : List (Int × Line)) (poison : Bool) (s : State) :
    KeepsArray p s (drainWritten p n e pc ls poison s) ∧ (drainWritten p n e pc ls poison s).loft = (putLines p e pc ls s).loft := by
  have written : KeepsArray p s (noteWrites (putLines p e pc ls s) p n pc (ls.map (·.1))) :=
    (keepsArray_putLines p clean pc ls s).trans (keepsArray_modEntry _ p n fun _ => rfl)
  unfold drainWritten
  split
  · exact ⟨written.trans (keepsArray_modEntry _ p n fun _ => rfl), rfl⟩
  · exact ⟨written, rfl⟩

theorem maDrain_runs {s : State} {p : Position} {t : TeamIx} (idle : engineIdle s p .ma) (h : Issues s p t 0x13)
    (away : hD (headOfTeam s p t) ≠ hTileq) : RunsThrough (.maDrain p t) s p fun u =>
      (stall u p).ma = { (stall s p).ma with active := !(stall s p).ma.active } ∧
      (((drained s p (headOfTeam s p t) (hdl s (hD (headOfTeam s p t))).pitch (addrD (headEntry s p t) [])).map (·.1)).Nodup →
        ∀ x ∈ drained s p (headOfTeam s p t) (hdl s (hD (headOfTeam s p t))).pitch (addrD (headEntry s p t) []),
          inPiece (pieceAt s p (hD (headOfTeam s p t))) x.1 = true →
          ∃ v, heldAt s u p (hD (headOfTeam s p t)) x.1 = some v ∧ SameWords v x.2) := by
  refine runsThrough_of_ready h rfl rfl (by decide) idle (by decide) (fun ee => by cases ee) fun n u e r at_ is_ => ?_
  have op : opcodeOf e.word = 0x13 := is_.word ▸ h.1
  obtain ⟨image, device, lid⟩ := is_.pieces r.carries
  have lines : drained u p (headOfTeam s p t) = drained s p (headOfTeam s p t) := by
    funext pitch off
    rw [drained, r.array, drained]
  have run := maDrainRun_lines (u := u) (p := p) (n := n) is_.fixes (is_.word ▸ away)
  rw [image, device, lid, is_.word, is_.addresses.2.2.2, lines] at run
  obtain ⟨swapped, -, entries⟩ := banksSwapped_array p u
  obtain ⟨kept, loft⟩ := drainWritten_frame p n is_.fixes (pieceAt s p (hD (headOfTeam s p t)))
    (drained s p (headOfTeam s p t) (hdl s (hD (headOfTeam s p t))).pitch (addrD (headEntry s p t) [])) (activeBank (stall u p).ma).poison
    (banksSwapped p u)
  rw [(runEntry_ma at_ is_.engine).2.1 op, run]
  refine ⟨?_, fun nodup x mem inside => ?_⟩
  · have there : entryOf (stall (banksSwapped p u) p) n = some e := by rw [entryOf, entries, ← entryOf, at_]
    exact (kept.finished there ⟨by rw [op]; decide, by rw [op]; decide⟩).1.trans (by rw [swapped, r.array])
  · have hc : e.ctx < 64 := is_.ctx ▸ runningNo_lt_of_go h.2.2
    have held := holdsLine_putLines (p := p) (pc := pieceAt s p (hD (headOfTeam s p t))) hc is_.fixes (fun x hx y hy same =>
      congrArg Prod.snd (List.inj_on_of_nodup_map nodup hx hy same)) (banksSwapped p u) x mem
    rw [is_.ctx] at held
    exact heldAt_runFinished (held.congr loft) inside

theorem maDrain_tile_runs {s : State} {p : Position} {t : TeamIx} (idle : engineIdle s p .ma) (h : Issues s p t 0x13)
    (queue : hD (headOfTeam s p t) = hTileq) : RunsThrough (.maDrain p t) s p fun u =>
      (stall u p).ma = { (stall s p).ma with active := !(stall s p).ma.active } ∧
      (stall u p).tiles = (stall s p).tiles ++ [⟨(drained s p (headOfTeam s p t)
        (tileqPitch (stall s p).ma.form (bitsOf (modE2 (headOfTeam s p t)) 2 0)) 0).map (·.2), (activeBank (stall s p).ma).poison⟩] := by
  refine runsThrough_of_ready h rfl rfl (by decide) idle (by decide) (fun ee => by cases ee) fun n u e r at_ is_ => ?_
  have op : opcodeOf e.word = 0x13 := is_.word ▸ h.1
  have run := maDrainRun_tile (u := u) (p := p) (n := n) is_.fixes (is_.word ▸ queue)
  obtain ⟨swapped, tiles, entries⟩ := banksSwapped_array p u
  rw [is_.word, drained, r.array, ← drained] at run
  have there : entryOf (stall (maDrainRun none p n e u) p) n = some e := by
    rw [run, stall_modStall_same, entryOf]
    dsimp only
    rw [entries, ← entryOf, at_]
  obtain ⟨ma, queue⟩ := array_runFinished there fun _ => ⟨by rw [op]; decide, by rw [op]; decide⟩
  rw [(runEntry_ma at_ is_.engine).2.1 op, ma, queue, run, stall_modStall_same]
  dsimp only
  rw [swapped, tiles, r.array, r.queue]
  exact ⟨rfl, rfl⟩

end

/-- Settles O18: each instruction of the array issues, runs on the banks as they stood and leaves them while its entry is freed
(`array_runFinished`). -/
theorem matrixArrayAccumulatesAndDrains : Obligations.MatrixArrayAccumulatesAndDrains := by
  intro s p t w e m rows cols mode primes streamedInto fresh idle
  have bank : (if (activeBank (stall s p).ma).mode = macMode s p t ∧ (activeBank (stall s p).ma).primes = macPrimes s p t then
      activeBank (stall s p).ma else { mode := macMode s p t, primes := macPrimes s p t }) =
      if false || (activeBank (stall s p).ma).mode ≠ macMode s p t || (activeBank (stall s p).ma).primes ≠ macPrimes s p t then
        { mode := macMode s p t, primes := macPrimes s p t } else activeBank (stall s p).ma := by
    by_cases mode : (activeBank (stall s p).ma).mode = macMode s p t <;>
      by_cases primes : (activeBank (stall s p).ma).primes = macPrimes s p t <;> simp [mode, primes]
  have mac (h : Issues s p t 0x11) := maMac_runs false (.maMac p t) idle h rfl rfl (by decide) fun n u e at_ ma op => (runEntry_ma at_ ma).2.2.1 op
  have macz (h : Issues s p t 0x12) := maMac_runs true (.maMacz p t) idle h rfl rfl (by decide) fun n u e at_ ma op => (runEntry_ma at_ ma).2.2.2 op
  refine ⟨maForm_runs idle, fun h some_ => ?_, fun h some_ => ?_, fun h => (mac h).2, fun h => (macz h).2, maDrain_runs idle, maDrain_tile_runs idle⟩
  · have ran := (mac h).1 some_
    rw [← bank] at ran
    exact ran
  · exact (macz h).1 some_

/-! ### The Transform Engine's instructions run through (R169, R171, R173, R178, R180, R181) -/

section

variable {s u : State} {p : Nat} {t : Fin 4} {n : Nat} {e : Entry} {js : List Nat}

theorem runEntry_te {p n : Nat} {u : State} {e : Entry} (at_ : entryOf (stall u p) n = some e) (te : e.engine = .te) :
    runEntry none p n u = teRun (teFun (opcodeOf e.word)) none p n e u := by
  unfold runEntry
  rw [entryAt_of at_]
  dsimp only
  rw [te]

/-- The words of a limb that is read, reduced under a prime. -/
def limbWords (q : Nat) (read : Int → Line) (a : Int) (pitch : Nat) : List Nat :=
  (runFrom a pitch).flatMap fun k => (read k).map fun v => v.toNat % q

/-- The lines of a limb whose words are given, from a place on. -/
def limbLinesFrom (d : Int) (pitch : Nat) (out : List Nat) : List (Int × Line) :=
  (List.range pitch).map fun i => (d + Int.ofNat i, (List.range 16).map fun j => BitVec.ofNat 36 (out.getD (16 * i + j) 0))

theorem limbLinesFrom_agree (d : Int) (pitch : Nat) (out : List Nat) :
    ∀ x ∈ limbLinesFrom d pitch out, ∀ y ∈ limbLinesFrom d pitch out, x.1 = y.1 → x.2 = y.2 := by
  intro x hx y hy same
  obtain ⟨a, -, rfl⟩ := List.mem_map.mp hx
  obtain ⟨b, -, rfl⟩ := List.mem_map.mp hy
  obtain rfl : a = b := Int.ofNat.inj (add_left_cancel same)
  rfl

/-- The transform's arguments at a place of a piece. -/
def teArgAt (img : Image) (da dd : HDecl) (pd : Piece) (d : Int) : TeArg :=
  ⟨linePrime img dd pd d, ((chainOf img dd.chain).getD {}).roots.getD ((lineIndex img dd pd d).getD 0) 0, 2 ^ ((chainOf img dd.chain).getD {}).logN,
    match ownerAt dd pd.owners d.toNat with
    | some o => if o.log2Parts = 1 then some o.part else none
    | none => none, da.layout, dd.layout⟩

theorem limbArg_eq (s : State) (p : Nat) (w : W128) (d : Int) :
    limbArg s p w d = teArgAt (runningImage s) (hdl s (hA w)) (hdl s (hD w)) (pieceAt s p (hD w)) d := rfl

theorem teIter_eq (f : TeArg → Nat → List Nat → List Nat) (clean : e.fixes = []) (img : Image) (da dd : HDecl) (pa pd : Piece) (a d : Int)
    (prime : linePrime img dd pd d ≠ 0) : teIter f p e img da dd pa pd a d u =
      putLines p e pd (limbLinesFrom d dd.pitch (f (teArgAt img da dd pd d) (modE2 e.word) (limbWords (linePrime img dd pd d)
        (readPiece (parityPiece u p e.ctx pa (runFrom a dd.pitch)) p e.ctx da pa) a dd.pitch))) (parityPiece u p e.ctx pa (runFrom a dd.pitch)) := by
  unfold teIter
  dsimp only
  rw [if_neg prime, clean]
  simp only [List.any_nil, Bool.false_eq_true, if_false]
  rw [putLines, limbLinesFrom, List.foldl_map]
  rfl

/-- The Loft after a transform of one limb. -/
theorem teRun_single (f : TeArg → Nat → List Nat → List Nat) (c : Carries s u) (r : ReadyEntry .te s p t e) (one : headIts s p t = [js])
    (prime : (limbArg s p (headOfTeam s p t) (addrD (headEntry s p t) js)).q ≠ 0) : ∃ v, (teRun f none p n e u).loft =
      (putLines p e (pieceAt s p (hD (headOfTeam s p t))) (limbLinesFrom (addrD (headEntry s p t) js) (hdl s (hD (headOfTeam s p t))).pitch
        (f (limbArg s p (headOfTeam s p t) (addrD (headEntry s p t) js)) (modE2 (headOfTeam s p t))
          (limbWords (limbArg s p (headOfTeam s p t) (addrD (headEntry s p t) js)).q (lineOf s p (hA (headOfTeam s p t)))
            (addrA (headEntry s p t) js) (hdl s (hD (headOfTeam s p t))).pitch))) v).loft := by
  obtain ⟨its, addrsA, -, addrsD⟩ := r.addresses
  obtain ⟨image, device, lid⟩ := r.pieces c
  have read (as_ : List Int) : readPiece (parityPiece u p (runningNo s) (pieceAt s p (hA (headOfTeam s p t))) as_) p (runningNo s)
      (hdl s (hA (headOfTeam s p t))) (pieceAt s p (hA (headOfTeam s p t))) = lineOf s p (hA (headOfTeam s p t)) :=
    funext ((c.trans (carries_parityPiece ..)).readPiece p (runningNo s) _ _)
  have iter := teIter_eq (p := p) (u := u) f r.fixes (runningImage s) (hdl s (hA (headOfTeam s p t))) (hdl s (hD (headOfTeam s p t)))
    (pieceAt s p (hA (headOfTeam s p t))) (pieceAt s p (hD (headOfTeam s p t))) (addrA (headEntry s p t) js) (addrD (headEntry s p t) js) prime
  rw [r.ctx, read, r.word] at iter
  refine ⟨_, (?_ : _ = (teIter f p e (runningImage s) (hdl s (hA (headOfTeam s p t))) (hdl s (hD (headOfTeam s p t)))
    (pieceAt s p (hA (headOfTeam s p t))) (pieceAt s p (hD (headOfTeam s p t))) (addrA (headEntry s p t) js) (addrD (headEntry s p t) js) u).loft).trans
    (congrArg State.loft iter)⟩
  unfold teRun
  dsimp only
  rw [noteWrites_loft, image, device, lid, upTo, its, one, addrsA, addrsD, r.word]
  rfl

end

/-- A transform of one limb runs through. -/
theorem te_runs {s : State} {p : Position} {t : TeamIx} {js : List Nat} {op : Nat} {o : OpInfo} (f : TeArg → Nat → List Nat → List Nat) (i : Instr)
    (idle : engineIdle s p .te) (h : Issues s p t op) (run : exec i s = .next (issueOp s p t op (localIssue .te p t))) (hop : opInfo op = some o)
    (engine : o.fmt ≠ .s) (fun_ : teFun op = f) (one : headIts s p t = [js])
    (prime : (limbArg s p (headOfTeam s p t) (addrD (headEntry s p t) js)).q ≠ 0)
    (inside : ∀ i, i < (hdl s (hD (headOfTeam s p t))).pitch →
      inPiece (pieceAt s p (hD (headOfTeam s p t))) (addrD (headEntry s p t) js + Int.ofNat i) = true) :
    RunsThrough i s p fun u => ∀ i, i < (hdl s (hD (headOfTeam s p t))).pitch →
      ∃ v, heldAt s u p (hD (headOfTeam s p t)) (addrD (headEntry s p t) js + Int.ofNat i) = some v ∧
        SameWords v ((List.range 16).map fun j => BitVec.ofNat 36 ((f (limbArg s p (headOfTeam s p t) (addrD (headEntry s p t) js))
          (modE2 (headOfTeam s p t)) (limbWords (limbArg s p (headOfTeam s p t) (addrD (headEntry s p t) js)).q (lineOf s p (hA (headOfTeam s p t)))
            (addrA (headEntry s p t) js) (hdl s (hD (headOfTeam s p t))).pitch)).getD (16 * i + j) 0)) := by
  refine runsThrough_of_ready h run hop engine idle (by decide) (fun ee => by cases ee) fun n u e r at_ is_ k hk => ?_
  have op : opcodeOf e.word = op := is_.word ▸ h.1
  have hc : e.ctx < 64 := is_.ctx ▸ runningNo_lt_of_go h.2.2
  obtain ⟨v, loft⟩ := teRun_single (n := n) f r.carries is_ one prime
  rw [runEntry_te at_ is_.engine, op, fun_]
  refine heldAt_runFinished (HoldsLine.congr loft ?_) (inside k hk)
  rw [← is_.ctx]
  exact holdsLine_putLines hc is_.fixes (limbLinesFrom_agree _ _ _) v (addrD (headEntry s p t) js + Int.ofNat k, _)
    (List.mem_map_of_mem (List.mem_range.mpr hk))

/-- Settles O19: the limb is read as it stood when the instruction issued, and its lines, all at places of their own, stand when the entry is
freed (`holdsLine_putLines`). -/
theorem transformEngineWritesTransform : Obligations.TransformEngineWritesTransform := by
  intro s p t js w e a d dd x ws r mem
  simp only [List.mem_cons, List.not_mem_nil, or_false] at mem
  obtain rfl | rfl | rfl | rfl | rfl := mem <;> dsimp only
  · exact fun h idle one prime inside => te_runs teNttF (.teNtt p t) idle h rfl rfl (by decide) rfl one prime inside
  · exact fun h idle one prime inside => te_runs teInttF (.teIntt p t) idle h rfl rfl (by decide) rfl one prime inside
  · exact fun h idle one prime inside => te_runs teAutoF (.teAuto p t) idle h rfl rfl (by decide) rfl one prime inside
  · exact fun h idle one prime inside => te_runs teNtt4F (.teNtt4 p t) idle h rfl rfl (by decide) rfl one prime inside
  · exact fun h idle one prime inside => te_runs teIntt4F (.teIntt4 p t) idle h rfl rfl (by decide) rfl one prime inside

/-! ### The Element Engine's instructions run through (R184 to R188) -/

section

variable {s u : State} {p : Nat} {t : Fin 4} {n : Nat} {e : Entry} {js : List Nat}

theorem runEntry_ee {p n : Nat} {u : State} {e : Entry} (at_ : entryOf (stall u p) n = some e) (ee : e.engine = .ee) :
    runEntry none p n u = eeRun none p n e u := by
  unfold runEntry
  rw [entryAt_of at_]
  dsimp only
  rw [ee]

/-- An elementwise instruction none of whose operands is the tile queue needs no tile. -/
theorem tileDemand_none {img : Image} {w : W128} {loops : List Loop} (a : hA w ≠ hTileq)
    (b : hB w ≠ hTileq ∨ (opInfo (opcodeOf w)).map (·.fmt) ≠ some .e3) : tileDemand img w loops = 0 := by
  unfold tileDemand
  rw [if_pos]
  rw [Bool.and_eq_true, Bool.or_eq_true, decide_eq_true_eq, decide_eq_true_eq, decide_eq_true_eq]
  exact ⟨a, b⟩

/-- What a run does that takes no tile. -/
theorem eeRun_none (none_ : tileDemand (imageOf u e.ctx) e.word e.loops = 0) :
    eeRun none p n e u = eeData none p n e [] (modStall u p fun y => { y with tiles := y.tiles.drop 0 }) := by
  unfold eeRun
  dsimp only
  rw [none_, List.take_zero]
  rfl

/-- The state in which an elementwise instruction has read its lines. -/
def eeRead (p c : Nat) (op : Nat) (isE3 : Bool) (pa pb pd : Piece) (a b d : Int) (s : State) : State :=
  let con := op = 0x45 || op = 0x46
  let s2 := parityPiece s p c pa [a]
  let s3 := if !isE3 then s2 else parityPiece s2 p c pb [if con then b / 16 else b]
  if op = 0x44 || op = 0x52 then parityPiece s3 p c pd [d] else s3

/-- The inputs of an elementwise instruction, by what is read of A, B and D. -/
def eeInputs (op : Nat) (isE3 : Bool) (readA readB readD : Int → Line) (a b d : Int) : EeIn :=
  let con := op = 0x45 || op = 0x46
  { a := readA a,
    b := if !isE3 || con then zeroLine else readB b,
    d := if op = 0x44 || op = 0x52 then readD d else zeroLine,
    k := if con then (wordAt (readB (b / 16)) (b % 16).toNat).toNat else 0 }

theorem carries_eeRead (s : State) (p c op : Nat) (isE3 : Bool) (pa pb pd : Piece) (a b d : Int) :
    Carries s (eeRead p c op isE3 pa pb pd a b d s) := by
  have second : Carries s (if !isE3 then parityPiece s p c pa [a] else parityPiece (parityPiece s p c pa [a]) p c pb
      [if op = 0x45 || op = 0x46 then b / 16 else b]) :=
    .ite (carries_parityPiece ..) ((carries_parityPiece ..).trans (carries_parityPiece ..))
  exact .ite (second.trans (carries_parityPiece ..)) second

/-- The format of an elementwise instruction. -/
def eeFmt (w : W128) : Fmt := (opInfo (opcodeOf w)).map (·.fmt) |>.getD .e2

/-- A line of an elementwise instruction that is none of EE.CAST and EE.REDUCE, where it has one. -/
theorem eeData_line (one : entryIts e = [js]) (cast : opcodeOf e.word ≠ 0x58) (reduce : opcodeOf e.word ≠ 0x59) (a : hA e.word ≠ hTileq)
    (b : hB e.word ≠ hTileq) (img : Image) (image : imageOf u e.ctx = img) (pa pb pd : Piece)
    (pieceA : pieceOf img (deviceId u) (decl img (hA e.word)) (lidOf u p) = pa)
    (pieceB : pieceOf img (deviceId u) (decl img (hB e.word)) (lidOf u p) = pb)
    (pieceD : pieceOf img (deviceId u) (decl img (hD e.word)) (lidOf u p) = pd) (v : State)
    (read : eeRead p e.ctx (opcodeOf e.word) (eeFmt e.word = .e3) pa pb pd (addrA e js) (addrB e js) (addrD e js) u = v) {l : Line}
    (line : eeLine img e.word (if clearMode img (eeFmt e.word) e.word then mactOf e.word else 0) (decl img (hD e.word))
      (lineIndex img (decl img (hD e.word)) pd (addrD e js)) (linePlace img (decl img (hB e.word)) pb (addrB e js))
      (eeInputs (opcodeOf e.word) (eeFmt e.word = .e3) (readPiece v p e.ctx (decl img (hA e.word)) pa)
        (readPiece v p e.ctx (decl img (hB e.word)) pb) (readPiece v p e.ctx (decl img (hD e.word)) pd) (addrA e js) (addrB e js) (addrD e js)) =
        some l) : (eeData none p n e [] u).loft = (putEntryLine v p e pd (addrD e js) l).loft := by
  subst image pieceA pieceB pieceD read
  unfold eeData
  dsimp only
  split
  · next op => exact absurd op reduce
  · next op => exact absurd op cast
  · rw [noteWrites_loft, upTo, one]
    simp only [a, b, decide_false, Bool.false_eq_true, if_false, Bool.or_false, List.zipIdx_cons, List.zipIdx_nil, List.foldl_cons, List.foldl_nil]
    split
    · next none_ => exact absurd (line.symm.trans none_) (Option.some_ne_none l)
    · next l' some_ => 
      obtain rfl : l = l' := Option.some.inj (line.symm.trans some_)
      rfl

/-- EE.CAST of one line. -/
theorem eeData_cast (one : entryIts e = [js]) (cast : opcodeOf e.word = 0x58) (a : hA e.word ≠ hTileq) (img : Image)
    (image : imageOf u e.ctx = img) (pa pd : Piece) (pieceA : pieceOf img (deviceId u) (decl img (hA e.word)) (lidOf u p) = pa)
    (pieceD : pieceOf img (deviceId u) (decl img (hD e.word)) (lidOf u p) = pd) : ∃ v, (eeData none p n e [] u).loft =
      (putEntryLine v p e pd (addrD e js) (lineOfElems (decl img (hD e.word)).etype
        ((List.range (elemsPerLine (decl img (hD e.word)).etype)).map fun k : Nat => convert (eeTypeA img e.word) (decl img (hD e.word)).etype
          (if clearMode img (eeFmt e.word) e.word then mactOf e.word else 0) (if clearMode img (eeFmt e.word) e.word then mactOf e.word else 0)
          (elemOf (eeTypeA img e.word) (readPiece u p e.ctx (decl img (hA e.word)) pa
            ((addrA e js * (elemsPerLine (decl img (hD e.word)).etype : Int) + (k : Int)) / elemsPerLine (eeTypeA img e.word)))
            ((addrA e js * (elemsPerLine (decl img (hD e.word)).etype : Int) + (k : Int)) % elemsPerLine (eeTypeA img e.word)).toNat)))).loft := by
  subst image pieceA pieceD
  unfold eeData
  dsimp only
  split
  · next op => exact absurd (cast.symm.trans op) (by decide)
  · rw [noteWrites_loft, upTo, one]
    simp only [a, decide_false, Bool.false_eq_true, if_false, List.zipIdx_cons, List.zipIdx_nil, List.foldl_cons, List.foldl_nil]
    exact ⟨_, rfl⟩
  · next no => exact absurd cast no

/-- EE.REDUCE of one line. -/
theorem eeData_reduce (one : entryIts e = [js]) (reduce : opcodeOf e.word = 0x59) (a : hA e.word ≠ hTileq) (img : Image)
    (image : imageOf u e.ctx = img) (pa pd : Piece) (pieceA : pieceOf img (deviceId u) (decl img (hA e.word)) (lidOf u p) = pa)
    (pieceD : pieceOf img (deviceId u) (decl img (hD e.word)) (lidOf u p) = pd) : ∃ v, Carries u v ∧ (eeData none p n e [] u).loft =
      (putEntryLine v p e pd (addrD e js) (lineOfElems (decl img (hD e.word)).etype
        [eeReduceGroup (bitsOf (modE2 e.word) 1 0) (eeTypeA img e.word) (if clearMode img (eeFmt e.word) e.word then mactOf e.word else 0)
          (decl img (hD e.word)).etype [readPiece v p e.ctx (decl img (hA e.word)) pa (addrA e js)]])).loft := by
  subst image pieceA pieceD
  refine ⟨parityPiece u p e.ctx (pieceOf (imageOf u e.ctx) (deviceId u) (decl (imageOf u e.ctx) (hA e.word)) (lidOf u p)) [addrA e js],
    carries_parityPiece .., ?_⟩
  unfold eeData
  dsimp only
  split
  · rw [noteWrites_loft, upTo, one]
    simp only [a, decide_false, Bool.false_eq_true, if_false, List.zipIdx_cons, List.zipIdx_nil, List.map_cons, List.map_nil, eeGroups,
      List.foldl_cons, List.foldl_nil]
    rfl
  · next op => exact absurd (reduce.symm.trans op) (by decide)
  · next no _ => exact absurd reduce no

end

section

variable {s u : State} {p : Nat} {t : Fin 4} {n : Nat} {e : Entry} {js : List Nat}

theorem fmt_e3_iff (w : W128) : eeFmt w = .e3 ↔ (opInfo (opcodeOf w)).map (·.fmt) = some .e3 := by
  unfold eeFmt
  cases (opInfo (opcodeOf w)).map (·.fmt) with
  | none => decide +revert
  | some f => rw [Option.getD_some, Option.some_inj]

theorem lineInputs_eq (s : State) (p : Nat) (t : Fin 4) (js : List Nat) : lineInputs s p t js =
    eeInputs (opcodeOf (headOfTeam s p t)) (eeFmt (headOfTeam s p t) = .e3) (lineOf s p (hA (headOfTeam s p t)))
      (lineOf s p (hB (headOfTeam s p t))) (lineOf s p (hD (headOfTeam s p t))) (addrA (headEntry s p t) js) (addrB (headEntry s p t) js)
      (addrD (headEntry s p t) js) := by
  unfold lineInputs eeInputs
  simp only [fmt_e3_iff]

/-- The Loft that an elementwise run writes, where it is `putEntryLine` of a line of D's piece, holds that line once the entry is freed. -/
theorem heldAt_of_putEntryLine {g : Engine} {v w : State} {l : Line} {a : Int} (hc : runningNo s < 64) (is_ : ReadyEntry g s p t e)
    (loft : w.loft = (putEntryLine v p e (pieceAt s p (hD (headOfTeam s p t))) a l).loft)
    (inside : inPiece (pieceAt s p (hD (headOfTeam s p t))) a = true) :
    ∃ x, heldAt s (runFinished p n w) p (hD (headOfTeam s p t)) a = some x ∧ SameWords x l := by
  refine heldAt_runFinished (HoldsLine.congr loft ?_) inside
  rw [putEntryLine_clean is_.fixes, is_.ctx]
  exact holdsLine_writePiece v p hc _ _ _

/-- What an elementwise instruction with no tiles reads from is what it issued on. -/
theorem Ready.noTiles (r : Ready .ee p t n s u) : Carries s (modStall u p fun y => { y with tiles := y.tiles.drop 0 }) :=
  r.carries.trans (Carries.modStall ..)

end

/-- An elementwise instruction that is none of EE.CAST and EE.REDUCE, and has a result, runs through. -/
theorem eeLine_runs {s : State} {p : Position} {t : TeamIx} {js : List Nat} {l : Line} {op : Nat} {o : OpInfo} (i : Instr) (h : Issues s p t op)
    (run : exec i s = .next (issueOp s p t op (localIssue .ee p t))) (hop : opInfo op = some o) (engine : o.fmt ≠ .s)
    (cast : op ≠ 0x58) (reduce : op ≠ 0x59) (one : headIts s p t = [js]) (idle : engineIdle s p .ee) (a : hA (headOfTeam s p t) ≠ hTileq)
    (b : hB (headOfTeam s p t) ≠ hTileq) (inside : inPiece (pieceAt s p (hD (headOfTeam s p t))) (addrD (headEntry s p t) js) = true)
    (line : eeLine (runningImage s) (headOfTeam s p t) (cselOf s (headOfTeam s p t)) (hdl s (hD (headOfTeam s p t)))
      (lineIndex (runningImage s) (hdl s (hD (headOfTeam s p t))) (pieceAt s p (hD (headOfTeam s p t))) (addrD (headEntry s p t) js))
      (linePlace (runningImage s) (hdl s (hB (headOfTeam s p t))) (pieceAt s p (hB (headOfTeam s p t))) (addrB (headEntry s p t) js))
      (lineInputs s p t js) = some l) : RunsThrough i s p fun u =>
      ∃ v, heldAt s u p (hD (headOfTeam s p t)) (addrD (headEntry s p t) js) = some v ∧ SameWords v l := by
  refine runsThrough_of_ready h run hop engine idle (by decide) (fun _ => tileDemand_none a (.inl b)) fun n u e r at_ is_ => ?_
  have same : opcodeOf e.word = op := is_.word ▸ h.1
  obtain ⟨its, addrsA, addrsB, addrsD⟩ := is_.addresses
  obtain ⟨image, device, lid⟩ := is_.pieces r.noTiles
  obtain ⟨image', -, -⟩ := is_.pieces r.carries
  have none_ : tileDemand (imageOf u e.ctx) e.word e.loops = 0 := by
    rw [is_.word]
    exact tileDemand_none a (.inl b)
  rw [runEntry_ee at_ is_.engine, eeRun_none none_]
  refine heldAt_of_putEntryLine (v := eeRead p e.ctx (opcodeOf e.word) (eeFmt e.word = .e3) (pieceAt s p (hA (headOfTeam s p t)))
    (pieceAt s p (hB (headOfTeam s p t))) (pieceAt s p (hD (headOfTeam s p t))) (addrA e js) (addrB e js) (addrD e js)
    (modStall u p fun y => { y with tiles := y.tiles.drop 0 })) (runningNo_lt_of_go h.2.2) is_ ?_ inside
  have read := r.noTiles.trans (carries_eeRead _ p e.ctx (opcodeOf e.word) (eeFmt e.word = .e3) (pieceAt s p (hA (headOfTeam s p t)))
    (pieceAt s p (hB (headOfTeam s p t))) (pieceAt s p (hD (headOfTeam s p t))) (addrA e js) (addrB e js) (addrD e js))
  rw [← addrsD]
  refine eeData_line (its.trans one) (same ▸ cast) (same ▸ reduce) (is_.word ▸ a) (is_.word ▸ b) (runningImage s) image
    (pieceAt s p (hA (headOfTeam s p t))) (pieceAt s p (hB (headOfTeam s p t))) (pieceAt s p (hD (headOfTeam s p t))) ?_ ?_ ?_ _ rfl ?_
  · rw [device, lid, is_.word]
    rfl
  · rw [device, lid, is_.word]
    rfl
  · rw [device, lid, is_.word]
    rfl
  · rw [funext (read.readPiece p e.ctx _ (pieceAt s p (hA (headOfTeam s p t)))), funext (read.readPiece p e.ctx _ (pieceAt s p (hB (headOfTeam s p t)))),
      funext (read.readPiece p e.ctx _ (pieceAt s p (hD (headOfTeam s p t)))), is_.word, is_.ctx, addrsA, addrsB, addrsD]
    rw [lineInputs_eq] at line
    exact line

/-- EE.CAST and EE.REDUCE of one line run through. -/
theorem eeTyped_runs {s : State} {p : Position} {t : TeamIx} {js : List Nat} {l : Line} {op : Nat} {o : OpInfo} (i : Instr) (h : Issues s p t op)
    (run : exec i s = .next (issueOp s p t op (localIssue .ee p t))) (hop : opInfo op = some o) (engine : o.fmt ≠ .s) (two : o.fmt ≠ .e3)
    (idle : engineIdle s p .ee) (a : hA (headOfTeam s p t) ≠ hTileq)
    (inside : inPiece (pieceAt s p (hD (headOfTeam s p t))) (addrD (headEntry s p t) js) = true)
    (writes : ∀ u e, Carries s u → ReadyEntry .ee s p t e → opcodeOf e.word = op → ∀ n, ∃ v, (eeData none p n e [] u).loft =
      (putEntryLine v p e (pieceAt s p (hD (headOfTeam s p t))) (addrD (headEntry s p t) js) l).loft) :
    RunsThrough i s p fun u => ∃ v, heldAt s u p (hD (headOfTeam s p t)) (addrD (headEntry s p t) js) = some v ∧ SameWords v l := by
  have free {loops : List Loop} : tileDemand (runningImage s) (headOfTeam s p t) loops = 0 := by
    refine tileDemand_none a (.inr ?_)
    rw [h.1, hop, Option.map_some]
    exact fun same => two (Option.some.inj same)
  refine runsThrough_of_ready h run hop engine idle (by decide) (fun _ => free) fun n u e r at_ is_ => ?_
  have none_ : tileDemand (imageOf u e.ctx) e.word e.loops = 0 := by
    rw [is_.word, (is_.pieces r.carries).1]
    exact free
  rw [runEntry_ee at_ is_.engine, eeRun_none none_]
  obtain ⟨v, loft⟩ := writes _ e r.noTiles is_ (is_.word ▸ h.1) n
  exact heldAt_of_putEntryLine (runningNo_lt_of_go h.2.2) is_ loft inside

section

variable {s u : State} {p : Nat} {t : Fin 4} {n : Nat} {e : Entry} {js : List Nat}

theorem eeTypeA_piece {img : Image} {w : W128} (a : hA w ≠ hTileq) : eeTypeA img w = (decl img (hA w)).etype := if_neg a

theorem eeCast_writes (c : Carries s u) (r : ReadyEntry .ee s p t e) (op : opcodeOf e.word = 0x58) (one : headIts s p t = [js])
    (a : hA (headOfTeam s p t) ≠ hTileq) (n : Nat) : ∃ v, (eeData none p n e [] u).loft =
      (putEntryLine v p e (pieceAt s p (hD (headOfTeam s p t))) (addrD (headEntry s p t) js) (lineOfElems (hdl s (hD (headOfTeam s p t))).etype
        ((List.range (elemsPerLine (hdl s (hD (headOfTeam s p t))).etype)).map fun k : Nat => convert (hdl s (hA (headOfTeam s p t))).etype
          (hdl s (hD (headOfTeam s p t))).etype (cselOf s (headOfTeam s p t)) (cselOf s (headOfTeam s p t))
          (elemOf (hdl s (hA (headOfTeam s p t))).etype (lineOf s p (hA (headOfTeam s p t)) ((addrA (headEntry s p t) js *
              (elemsPerLine (hdl s (hD (headOfTeam s p t))).etype : Int) + (k : Int)) / elemsPerLine (hdl s (hA (headOfTeam s p t))).etype))
            ((addrA (headEntry s p t) js * (elemsPerLine (hdl s (hD (headOfTeam s p t))).etype : Int) + (k : Int)) %
              elemsPerLine (hdl s (hA (headOfTeam s p t))).etype).toNat)))).loft := by
  obtain ⟨its, addrsA, -, addrsD⟩ := r.addresses
  obtain ⟨image, device, lid⟩ := r.pieces c
  have piece (h : Nat) : pieceOf (runningImage s) (deviceId u) (decl (runningImage s) h) (lidOf u p) = pieceAt s p h := by rw [device, lid]; rfl
  obtain ⟨v, loft⟩ := eeData_cast (n := n) (its.trans one) op (r.word ▸ a) (runningImage s) image _ _ (piece _) (piece _)
  rw [funext (c.readPiece p e.ctx _ _), addrsA, addrsD, eeTypeA_piece (r.word ▸ a), r.word, r.ctx] at loft
  exact ⟨v, loft⟩

theorem eeReduce_writes (c : Carries s u) (r : ReadyEntry .ee s p t e) (op : opcodeOf e.word = 0x59) (one : headIts s p t = [js])
    (a : hA (headOfTeam s p t) ≠ hTileq) (n : Nat) : ∃ v, (eeData none p n e [] u).loft =
      (putEntryLine v p e (pieceAt s p (hD (headOfTeam s p t))) (addrD (headEntry s p t) js) (lineOfElems (hdl s (hD (headOfTeam s p t))).etype
        [eeReduceGroup (bitsOf (modE2 (headOfTeam s p t)) 1 0) (hdl s (hA (headOfTeam s p t))).etype (cselOf s (headOfTeam s p t))
          (hdl s (hD (headOfTeam s p t))).etype [lineOf s p (hA (headOfTeam s p t)) (addrA (headEntry s p t) js)]])).loft := by
  obtain ⟨its, addrsA, -, addrsD⟩ := r.addresses
  obtain ⟨image, device, lid⟩ := r.pieces c
  have piece (h : Nat) : pieceOf (runningImage s) (deviceId u) (decl (runningImage s) h) (lidOf u p) = pieceAt s p h := by rw [device, lid]; rfl
  obtain ⟨v, carries, loft⟩ := eeData_reduce (n := n) (its.trans one) op (r.word ▸ a) (runningImage s) image _ _ (piece _) (piece _)
  rw [(c.trans carries).readPiece p e.ctx, addrsA, addrsD, eeTypeA_piece (r.word ▸ a), r.word, r.ctx] at loft
  exact ⟨v, loft⟩

end

/-! #### The words of R184 -/

theorem sub_add_mod {q a b : Nat} (ha : a < q) (hb : b < q) : (b + subMod a b q) % q = a := by
  rw [subMod, Nat.mod_eq_of_lt hb, Nat.add_mod_mod, show b + (a + (q - b)) = a + q by omega, Nat.add_mod_right, Nat.mod_eq_of_lt ha]

/-- Settles O20: what an elementwise instruction reads is what stood when it issued, and the one line that it writes stands when its entry is
freed. -/
theorem elementEngineWritesResults : Obligations.ElementEngineWritesResults := by
  refine ⟨?_, ?_, ?_⟩
  · intro s p t js l w e dd al bl r mem h one idle a b inside line
    have row (op : Nat) (o : OpInfo) (i : Position → TeamIx → Instr) (same : r = (op, i))
        (run : exec (i p t) s = .next (issueOp s p t op (localIssue .ee p t))) (hop : opInfo op = some o) (engine : o.fmt ≠ .s)
        (cast : op ≠ 0x58) (reduce : op ≠ 0x59) : RunsThrough (r.2 p t) s p fun u =>
          ∃ v, heldAt s u p (hD w) (addrD e js) = some v ∧ SameWords v l := by
      subst same
      exact eeLine_runs (i p t) h run hop engine cast reduce one idle a b inside line
    simp only [lineRows, List.mem_cons, List.not_mem_nil, or_false] at mem
    rcases mem with same | same | same | same | same | same | same | same | same | same | same | same | same | same | same | same <;>
      exact row _ _ _ same rfl rfl (by decide) (by decide) (by decide)
  · intro q a b d k pos ha hb hd hk
    refine ⟨rfl, sub_add_mod ha hb, ?_, rfl, Nat.add_mod_mod .., rfl, rfl, rfl, rfl, rfl, rfl, rfl⟩
    exact (Nat.add_mod_mod ..).trans (by rw [Nat.add_sub_cancel' (Nat.le_of_lt ha), Nat.mod_self])
  · intro s p t js w e da dd a eD eA elem one idle away inside
    refine ⟨fun h => ?_, fun h => ?_⟩
    · exact eeTyped_runs (.eeCast p t) h rfl rfl (by decide) (by decide) idle away inside fun u e' c r op n => eeCast_writes c r op one away n
    · exact eeTyped_runs (.eeReduce p t) h rfl rfl (by decide) (by decide) idle away inside fun u e' c r op n => eeReduce_writes c r op one away n

end Sys2Proof.Machine
end

section
/-!
SUPPORT. The frame lemmas that the proofs of O23, O45 and O35 rest on.
-/

namespace Sys2Proof.Machine

/-! ### The stalls -/

@[simp] theorem bump_stalls (s : State) (off wrapOff wrapBit : Nat) :
    (bump s off wrapOff wrapBit).stalls = s.stalls := (vStalls_def _).symm.trans ((vStalls_bump ..).trans (vStalls_def _))

@[simp] theorem recordFirst_stalls (s : State) (off v : Nat) :
    (recordFirst s off v).stalls = s.stalls := (vStalls_def _).symm.trans ((vStalls_recordFirst ..).trans (vStalls_def _))

/-! ### The recovery state of the contexts -/

@[simp] theorem vRecs_modEntry (s : State) (p n : Nat) (f : Entry → Entry) :
    (modEntry s p n f).vRecs = s.vRecs := by simp [modEntry]

@[simp] theorem vRecs_poisonDest (s : State) (p c : Nat) (w : W128) :
    (poisonDest s p c w).vRecs = s.vRecs := by simp [poisonDest]

@[simp] theorem vRecs_replayDone (s : State) :
    (replayDone s).vRecs = s.vRecs := by simp [replayDone]

@[simp] theorem vRecs_ctOrder (s : State) (p : Nat) (e : Entry) :
    (ctOrder s p e).vRecs = s.vRecs := by
  unfold ctOrder
  repeat' split
  all_goals simp [vRecs_eta]

@[simp] theorem recOf_modEntry (s : State) (p n : Nat) (f : Entry → Entry) (j₀ : Nat) :
    recOf (modEntry s p n f) j₀ = recOf s j₀ := congrArg (nget ({} : Rec) · j₀) ((vRecs_def _).symm.trans ((vRecs_modEntry
      ..).trans (vRecs_def _)))

@[simp] theorem recOf_poisonDest (s : State) (p c : Nat) (w : W128) (j₀ : Nat) :
    recOf (poisonDest s p c w) j₀ = recOf s j₀ := congrArg (nget ({} : Rec) · j₀) ((vRecs_def _).symm.trans
      ((vRecs_poisonDest ..).trans (vRecs_def _)))

@[simp] theorem recOf_ctOrder (s : State) (p : Nat) (e : Entry) (j₀ : Nat) :
    recOf (ctOrder s p e) j₀ = recOf s j₀ := congrArg (nget ({} : Rec) · j₀) ((vRecs_def _).symm.trans ((vRecs_ctOrder
      ..).trans (vRecs_def _)))

/-! ### The fault reports -/

@[simp] theorem vReports_setStall (s : State) (p : Nat) (x : Stall) :
    (setStall s p x).vReports = s.vReports := by simp [setStall, vReports_eta]

@[simp] theorem vReports_modStall (s : State) (p : Nat) (f : Stall → Stall) :
    (modStall s p f).vReports = s.vReports := by simp [modStall]

@[simp] theorem vReports_modEntry (s : State) (p n : Nat) (f : Entry → Entry) :
    (modEntry s p n f).vReports = s.vReports := by simp [modEntry]

@[simp] theorem vReports_dropEntry (s : State) (p n : Nat) :
    (dropEntry s p n).vReports = s.vReports := by simp [dropEntry]

@[simp] theorem modEntry_reports (s : State) (p n : Nat) (f : Entry → Entry) :
    (modEntry s p n f).reports = s.reports := (vReports_def _).symm.trans ((vReports_modEntry ..).trans (vReports_def _))

@[simp] theorem dropEntry_reports (s : State) (p n : Nat) :
    (dropEntry s p n).reports = s.reports := (vReports_def _).symm.trans ((vReports_dropEntry ..).trans (vReports_def _))

/-! ### The Loft -/

@[simp] theorem modEntry_loft (s : State) (p n : Nat) (f : Entry → Entry) :
    (modEntry s p n f).loft = s.loft := (vLoft_def _).symm.trans ((vLoft_modEntry ..).trans (vLoft_def _))

/-! ### The positions -/

@[simp] theorem vPositions_recCount (s : State) (i : Nat) :
    (recCount s i).vPositions = s.vPositions := by simp [recCount]

@[simp] theorem vPositions_trigger (s : State) (c target : Nat) :
    (trigger s c target).vPositions = s.vPositions := by simp [trigger]

@[simp] theorem vPositions_modEntry (s : State) (p n : Nat) (f : Entry → Entry) :
    (modEntry s p n f).vPositions = s.vPositions := by simp [modEntry]

@[simp] theorem vPositions_modCached (s : State) (p h : Nat) (f : HEntry → HEntry) :
    (modCached s p h f).vPositions = s.vPositions := by simp [modCached]

@[simp] theorem vPositions_cacheHandle (s : State) (p c h : Nat) :
    (cacheHandle s p c h).vPositions = s.vPositions := by simp [cacheHandle]

@[simp] theorem vPositions_poisonLocal (s : State) (p c h : Nat) :
    (poisonLocal s p c h).vPositions = s.vPositions := by simp [poisonLocal]

@[simp] theorem vPositions_poisonDest (s : State) (p c : Nat) (w : W128) :
    (poisonDest s p c w).vPositions = s.vPositions := by simp [poisonDest]

@[simp] theorem position_recCount (s : State) (i : Nat) (j₀ : Nat) :
    position (recCount s i) j₀ = position s j₀ := congrArg (nget ({} : Pos) · j₀) ((vPositions_def _).symm.trans
      ((vPositions_recCount ..).trans (vPositions_def _)))

@[simp] theorem position_trigger (s : State) (c target : Nat) (j₀ : Nat) :
    position (trigger s c target) j₀ = position s j₀ := congrArg (nget ({} : Pos) · j₀) ((vPositions_def _).symm.trans
      ((vPositions_trigger ..).trans (vPositions_def _)))

@[simp] theorem position_modEntry (s : State) (p n : Nat) (f : Entry → Entry) (j₀ : Nat) :
    position (modEntry s p n f) j₀ = position s j₀ := congrArg (nget ({} : Pos) · j₀) ((vPositions_def _).symm.trans
      ((vPositions_modEntry ..).trans (vPositions_def _)))

@[simp] theorem position_poisonDest (s : State) (p c : Nat) (w : W128) (j₀ : Nat) :
    position (poisonDest s p c w) j₀ = position s j₀ := congrArg (nget ({} : Pos) · j₀) ((vPositions_def _).symm.trans
      ((vPositions_poisonDest ..).trans (vPositions_def _)))

end Sys2Proof.Machine
end

section
/-!
PROOFS. Completion of an engine instruction and arbitration (O23); refutations of O45 and O35.
-/

namespace Sys2Proof.Machine

/-! ### What a run keeps (R78, R107) -/

/-- What the run of an instruction keeps of its entry. -/
structure EntryRuns (e f : Entry) : Prop where
  issued : issuedAs f = issuedAs e
  outRec : f.outRec = e.outRec
  prov : f.prov = e.prov
  mute : f.mute = e.mute
  waits : f.waits = e.waits
  fixes : f.fixes = e.fixes
  arb : f.arb = e.arb
  poison : e.poison = true → f.poison = true

theorem EntryRuns.refl (e : Entry) : EntryRuns e e := ⟨rfl, rfl, rfl, rfl, rfl, rfl, rfl, fun h => h⟩

theorem EntryRuns.trans {e f g : Entry} (h : EntryRuns e f) (k : EntryRuns f g) : EntryRuns e g :=
  ⟨k.issued.trans h.issued, k.outRec.trans h.outRec, k.prov.trans h.prov, k.mute.trans h.mute, k.waits.trans h.waits, k.fixes.trans h.fixes,
    k.arb.trans h.arb, fun p => k.poison (h.poison p)⟩

/-- From s to u the instruction in entry n of stall p has run, at most. -/
structure RunKeeps (p n : Nat) (s u : State) : Prop where
  others : ∀ q, q ≠ p → stall u q = stall s q
  live : (stall u p).live = (stall s p).live
  cache : (stall u p).hcache = (stall s p).hcache
  entries : ∀ k, k ≠ n → entryOf (stall u p) k = entryOf (stall s p) k
  entry : ∀ e, entryOf (stall s p) n = some e → ∃ f, entryOf (stall u p) n = some f ∧ EntryRuns e f
  epoch : ∀ c, (recOf u c).opened = (recOf s c).opened ∧ (recOf u c).count = (recOf s c).count
  reports : s.reports <+: u.reports

namespace RunKeeps

variable {p n : Nat}

theorem refl (s : State) : RunKeeps p n s s :=
  ⟨fun _ _ => rfl, rfl, rfl, fun _ _ => rfl, fun e at_ => ⟨e, at_, .refl e⟩, fun _ => ⟨rfl, rfl⟩, List.prefix_rfl⟩

theorem trans {s u v : State} (h : RunKeeps p n s u) (k : RunKeeps p n u v) : RunKeeps p n s v := by
  refine ⟨fun q hq => (k.others q hq).trans (h.others q hq), k.live.trans h.live, k.cache.trans h.cache,
    fun j hj => (k.entries j hj).trans (h.entries j hj), fun e at_ => ?_, fun c => ?_, h.reports.trans k.reports⟩
  · obtain ⟨f, atf, hf⟩ := h.entry e at_
    obtain ⟨g, atg, hg⟩ := k.entry f atf
    exact ⟨g, atg, hf.trans hg⟩
  · exact ⟨(k.epoch c).1.trans (h.epoch c).1, (k.epoch c).2.trans (h.epoch c).2⟩

theorem ite {c : Prop} [Decidable c] {s a b : State} (ha : RunKeeps p n s a) (hb : RunKeeps p n s b) : RunKeeps p n s (if c then a else b) := by
  split
  · exact ha
  · exact hb

theorem foldl {β : Type} {g : State → β → State} (h : ∀ s b, RunKeeps p n s (g s b)) (l : List β) (s : State) : RunKeeps p n s (l.foldl g s) := by
  induction l generalizing s with
  | nil => exact refl s
  | cons b l ih => exact (h s b).trans (ih _)

/-- A step that leaves the stalls and what is recorded of epochs. -/
theorem of_stalls {s u : State} (same : u.stalls = s.stalls)
    (epoch : ∀ c, (recOf u c).opened = (recOf s c).opened ∧ (recOf u c).count = (recOf s c).count) (reports : s.reports <+: u.reports) :
    RunKeeps p n s u := by
  have stalls (q : Nat) : stall u q = stall s q := stall_congr same q
  exact ⟨fun q _ => stalls q, by rw [stalls], by rw [stalls], fun k _ => by rw [stalls], fun e at_ => ⟨e, by rw [stalls]; exact at_, .refl e⟩, epoch, reports⟩

/-- A change of the stall itself that leaves its live context, its handle cache and its entries. -/
theorem modStall (s : State) {f : Stall → Stall} (live : ∀ x, (f x).live = x.live) (cache : ∀ x, (f x).hcache = x.hcache)
    (entries : ∀ x, (f x).entries = x.entries) : RunKeeps p n s (modStall s p f) := by
  have same (k : Nat) : entryOf (stall (Machine.modStall s p f) p) k = entryOf (stall s p) k := by
    rw [stall_modStall_same, entryOf, entries, entryOf]
  exact ⟨fun q hq => stall_modStall_other _ hq .., by rw [stall_modStall_same, live], by rw [stall_modStall_same, cache], fun k _ => same k,
    fun e at_ => ⟨e, (same n).trans at_, .refl e⟩, fun _ => ⟨rfl, rfl⟩, List.prefix_rfl⟩

theorem modEntry (s : State) {f : Entry → Entry} (h : ∀ e, EntryRuns e (f e)) : RunKeeps p n s (modEntry s p n f) := by
  refine ⟨fun q hq => stall_modStall_other _ hq .., ?_, ?_, fun k hk => entryOf_modEntry_other _ _ hk _, fun e at_ => ?_, fun _ => ⟨rfl, rfl⟩,
    List.prefix_rfl⟩
  · rw [Machine.modEntry, stall_modStall_same]
  · rw [Machine.modEntry, stall_modStall_same]
  · exact ⟨f e, by rw [entryOf_modEntry_same, at_]; rfl, h e⟩

theorem currentEpoch {s u : State} (h : RunKeeps p n s u) (c : Nat) : currentEpoch u c = currentEpoch s c := by
  rw [Machine.currentEpoch, (h.epoch c).1, (h.epoch c).2, Machine.currentEpoch]

end RunKeeps

section

variable (p n : Nat)

theorem runKeeps_noteWrites (s : State) (pc : Piece) (as_ : List Int) : RunKeeps p n s (noteWrites s p n pc as_) :=
  .modEntry s fun _ => ⟨rfl, rfl, rfl, rfl, rfl, rfl, rfl, fun h => h⟩

theorem runKeeps_poison (s : State) : RunKeeps p n s (modEntry s p n fun v => { v with poison := true }) :=
  .modEntry s fun _ => ⟨rfl, rfl, rfl, rfl, rfl, rfl, rfl, fun _ => rfl⟩

theorem runKeeps_countDrop (s : State) (c k : Nat) : RunKeeps p n s (countDrop s p c k) := .modStall s (fun _ => rfl) (fun _ => rfl) fun _ => rfl

theorem runKeeps_loftWrite (s : State) (line c : Nat) (l : Line) (mask : Nat) : RunKeeps p n s (loftWrite s p line c l mask) :=
  .of_stalls (loftWrite_stalls ..) (fun _ => ⟨rfl, rfl⟩) List.prefix_rfl

theorem runKeeps_writePiece (s : State) (c : Nat) (pc : Piece) (a : Int) (l : Line) (mask : Nat) : RunKeeps p n s (writePiece s p c pc a l mask) :=
  .ite (runKeeps_loftWrite ..) (runKeeps_countDrop ..)

theorem runKeeps_parityFailed (s : State) (q line words : Nat) (background : Bool) : RunKeeps p n s (parityFailed s q line words background) := by
  have marked (u : State) (c : Nat) {f : Rec → Rec} (h : ∀ r, (f r).opened = r.opened ∧ (f r).count = r.count) :
      RunKeeps p n u (modRec u c f) := .of_stalls rfl (fun d => by
    by_cases same : d = c
    · rw [same, recOf_modRec_same]
      exact h _
    · rw [recOf_modRec_other _ same]
      exact ⟨rfl, rfl⟩) List.prefix_rfl
  have counted (v : Nat) : RunKeeps p n s (bump (recordFirst s 0x4300 v) 0x4308 0x4310 0) := by
    refine .of_stalls ?_ (fun c => ?_) ?_
    · rw [bump_stalls, recordFirst_stalls]
    · rw [recOf_bump, recOf_recordFirst]
      exact ⟨rfl, rfl⟩
    · rw [bump_reports, recordFirst_reports]
  have reported (u : State) (a b d e f g h : Nat) : RunKeeps p n u (reportFault u a b d e f g h) :=
    .of_stalls (reportFault_stalls ..) (fun c => by rw [recOf_reportFault]; exact ⟨rfl, rfl⟩) (by rw [reports_reportFault]; exact List.prefix_append ..)
  have triggered (u : State) (c : Nat) : RunKeeps p n u (trigger u c 0) := .ite (marked u c fun _ => ⟨rfl, rfl⟩) (.refl u)
  unfold parityFailed
  dsimp only
  refine .trans (.trans (.trans ?_ (reported ..)) (marked _ _ ?_)) (triggered _ _)
  · exact counted _
  · exact fun _ => ⟨rfl, rfl⟩

theorem runKeeps_parityPiece (s : State) (c : Nat) (pc : Piece) (as_ : List Int) : RunKeeps p n s (parityPiece s p c pc as_) := by
  refine .foldl (fun u a => .ite ?_ (.refl u)) as_ s
  unfold parityRead
  dsimp only
  split
  · split
    · exact .refl u
    · exact runKeeps_parityFailed ..
  · exact .refl u

theorem runKeeps_putEntryLine (s : State) (e : Entry) (pc : Piece) (a : Int) (l : Line) : RunKeeps p n s (putEntryLine s p e pc a l) := by
  unfold putEntryLine
  split
  · exact runKeeps_writePiece ..
  · exact runKeeps_writePiece ..
  · exact .refl s

theorem runKeeps_freeLines (s : State) (c : Nat) (ls : List Nat) : RunKeeps p n s (freeLines s p c ls) := by
  refine .foldl (fun u l => ?_) ls s
  have drawn : RunKeeps p n u (draw u).2 := .of_stalls rfl (fun _ => ⟨rfl, rfl⟩) List.prefix_rfl
  exact drawn.trans (runKeeps_loftWrite p n (draw u).2 l c (lineOfBytes (leBytes 72 (draw u).1)) 0xFFFF)

/-! #### The runs of the engines -/

theorem runKeeps_maFormRun (s : State) (e : Entry) : RunKeeps p n s (maFormRun p e s) := by
  unfold maFormRun
  exact .modStall s (fun _ => rfl) (fun _ => rfl) fun _ => rfl

theorem runKeeps_maMacRun (zero : Bool) (s : State) (e : Entry) : RunKeeps p n s (maMacRun zero p e s) := by
  unfold maMacRun
  dsimp only
  split
  · exact .refl s
  · exact .trans (.trans (runKeeps_parityPiece ..) (runKeeps_parityPiece ..)) (.modStall _ (fun _ => rfl) (fun _ => rfl) fun _ => rfl)

theorem runKeeps_maDrainRun (lim : Option Nat) (s : State) (e : Entry) : RunKeeps p n s (maDrainRun lim p n e s) := by
  have swapped : RunKeeps p n s (banksSwapped p s) := .modStall s (fun _ => rfl) (fun _ => rfl) fun _ => rfl
  have drawn (b : Bool) (u : State) (k : Nat) : RunKeeps p n u (if b then drawMany u k else ([], u)).2 := by
    cases b
    · exact .refl u
    · exact .of_stalls rfl (fun _ => ⟨rfl, rfl⟩) List.prefix_rfl
  have written (pc : Piece) (ls : List (Int × Line)) : RunKeeps p n (banksSwapped p s)
      (noteWrites (ls.foldl (fun u x => putEntryLine u p e pc x.1 x.2) (banksSwapped p s)) p n pc (ls.map (·.1))) :=
    .trans (.foldl (fun u x => runKeeps_putEntryLine ..) ls _) (runKeeps_noteWrites ..)
  unfold maDrainRun
  dsimp only
  split
  · exact swapped.trans (.trans (drawn ..) (.modStall _ (fun _ => rfl) (fun _ => rfl) fun _ => rfl))
  · split
    · exact (swapped.trans (written ..)).trans (runKeeps_poison ..)
    · exact swapped.trans (written ..)

theorem runKeeps_teIter (f : TeArg → Nat → List Nat → List Nat) (e : Entry) (img : Image) (da dd : HDecl) (pa pd : Piece) (a d : Int) (s : State) :
    RunKeeps p n s (teIter f p e img da dd pa pd a d s) := by
  unfold teIter
  dsimp only
  split
  · exact runKeeps_countDrop ..
  · split
    · exact .trans (runKeeps_parityPiece ..) (runKeeps_freeLines ..)
    · exact .trans (runKeeps_parityPiece ..) (.foldl (fun u x => runKeeps_putEntryLine ..) _ _)

theorem runKeeps_teRun (f : TeArg → Nat → List Nat → List Nat) (lim : Option Nat) (s : State) (e : Entry) : RunKeeps p n s (teRun f lim p n e s) := by
  unfold teRun
  dsimp only
  exact .trans (.trans (.foldl (fun u js => runKeeps_teIter ..) _ s) (runKeeps_freeLines ..)) (runKeeps_noteWrites ..)

theorem runKeeps_ite_parityPiece (b : Bool) (s : State) (c : Nat) (pc : Piece) (as_ : List Int) :
    RunKeeps p n s (if b then s else parityPiece s p c pc as_) := .ite (.refl s) (runKeeps_parityPiece ..)

theorem runKeeps_eeData (lim : Option Nat) (s : State) (e : Entry) (tiles : List Line) : RunKeeps p n s (eeData lim p n e tiles s) := by
  unfold eeData
  dsimp only
  split
  · refine .trans (.foldl (fun u x => ?_) _ s) (runKeeps_noteWrites ..)
    exact .trans (runKeeps_ite_parityPiece ..) (runKeeps_putEntryLine ..)
  · refine .trans (.foldl (fun u x => ?_) _ s) (runKeeps_noteWrites ..)
    exact .trans (runKeeps_ite_parityPiece ..) (runKeeps_putEntryLine ..)
  · refine .trans (.foldl (fun u x => ?_) _ s) (runKeeps_noteWrites ..)
    have read (b b' d : Bool) (c c' c'' : Nat) (pc pc' pc'' : Piece) (as_ bs ds : List Int) :
        let s2 := if b then u else parityPiece u p c pc as_
        let s3 := if b' then s2 else parityPiece s2 p c' pc' bs
        RunKeeps p n u (if d then parityPiece s3 p c'' pc'' ds else s3) :=
      .trans (.trans (runKeeps_ite_parityPiece ..) (runKeeps_ite_parityPiece ..)) (.ite (runKeeps_parityPiece ..) (.refl _))
    split
    · exact .trans (read ..) (runKeeps_countDrop ..)
    · exact .trans (read ..) (runKeeps_putEntryLine ..)

theorem runKeeps_eeRun (lim : Option Nat) (s : State) (e : Entry) : RunKeeps p n s (eeRun lim p n e s) := by
  have taken (f : List Tile → List Tile) : RunKeeps p n s (modStall s p fun y => { y with tiles := f y.tiles }) :=
    .modStall s (fun _ => rfl) (fun _ => rfl) fun _ => rfl
  unfold eeRun
  dsimp only
  exact .trans (.trans (taken (List.drop _)) (.ite (runKeeps_poison ..) (.refl _))) (runKeeps_eeData ..)

theorem runKeeps_ctFillRun (lim : Option Nat) (s : State) (e : Entry) : RunKeeps p n s (ctFillRun lim p n e s) :=
  .trans (.foldl (fun _ _ => runKeeps_putEntryLine ..) _ s) (runKeeps_noteWrites ..)

theorem runKeeps_ctGatherRun (lim : Option Nat) (s : State) (e : Entry) : RunKeeps p n s (ctGatherRun lim p n e s) := by
  unfold ctGatherRun
  dsimp only
  refine .trans (.foldl (fun u x => ?_) _ s) (runKeeps_noteWrites ..)
  exact .trans (.trans (runKeeps_parityPiece ..) (runKeeps_parityPiece ..)) (runKeeps_putEntryLine ..)

theorem runKeeps_ctScatterRun (acc : Bool) (lim : Option Nat) (s : State) (e : Entry) : RunKeeps p n s (ctScatterRun acc lim p n e s) := by
  unfold ctScatterRun
  dsimp only
  refine .foldl (fun u x => ?_) _ s
  refine .trans (.trans (runKeeps_parityPiece ..) (runKeeps_parityPiece ..)) (.foldl (fun v k => ?_) _ _)
  split
  · exact runKeeps_countDrop ..
  split
  · split
    · exact runKeeps_countDrop ..
    · exact .trans (.trans (runKeeps_parityPiece ..) (runKeeps_writePiece ..)) (runKeeps_noteWrites ..)
  · exact .trans (runKeeps_writePiece ..) (runKeeps_noteWrites ..)

theorem runKeeps_runEntry (lim : Option Nat) (s : State) : RunKeeps p n s (runEntry lim p n s) := by
  unfold runEntry
  dsimp only
  split
  · split
    · exact .ite (.refl s) (runKeeps_maFormRun ..)
    · exact runKeeps_maDrainRun ..
    · exact runKeeps_maMacRun ..
  · exact runKeeps_teRun ..
  · exact runKeeps_eeRun ..
  · split
    · exact runKeeps_ctGatherRun ..
    · exact runKeeps_ctFillRun ..
    · exact runKeeps_ctScatterRun ..
  · exact .refl s

theorem runKeeps_ranEntry (s : State) : RunKeeps p n s (ranEntry p n s) := by
  unfold ranEntry
  split
  · exact .refl s
  · exact .trans (runKeeps_runEntry ..) (.modEntry _ fun _ => ⟨rfl, rfl, rfl, rfl, rfl, rfl, rfl, fun h => h⟩)

end

/-! ### An engine instruction that completes (R55, R78, R107) -/

theorem fmt_c {op : Nat} {o : OpInfo} (h : opInfo op = some o) (c : o.fmt = .c) : op = 0x70 ∨ op = 0x71 ∨ op = 0x77 := by
  unfold opInfo at h
  split at h <;> cases h <;> cases c <;> decide

/-- The handle that an instruction poisons is the one that its record goes to, or none. -/
theorem destHandle_eq (w : W128) : destHandle w = (actionOps w).2.2 ∨ destHandle w = hNone := by
  unfold destHandle actionOps
  dsimp only
  split
  · exact .inr rfl
  split
  · next far =>
    left
    rw [Bool.or_eq_true, decide_eq_true_eq, decide_eq_true_eq] at far
    obtain op | op := far <;> rw [op] <;> rfl
  split
  · exact .inr rfl
  split
  · exact .inr rfl
  next away _ _ =>
  rcases info : opInfo (opcodeOf w) with _ | o
  · exact .inr rfl
  · obtain ⟨fmt, eng, acts, nest0, bits⟩ := o
    cases fmt with
    | s => exact .inr rfl
    | e2 => exact .inl rfl
    | e3 => exact .inl rfl
    | c =>
      left
      obtain op | op | op := fmt_c info rfl
      · rw [op]
        rfl
      · simp [op] at away
      · simp [op] at away

section

variable {s u v : State} {p n : Nat} {e f : Entry}

theorem LocallyPoisoned.of_cache {q c h : Nat} (cache : (stall u q).hcache = (stall s q).hcache) (table : ctx u c = ctx s c)
    (poisoned : LocallyPoisoned s q c h) : LocallyPoisoned u q c h := by
  have same : cached u q h = cached s q h := by rw [cached, cache, cached]
  rwa [LocallyPoisoned, same, table, ← LocallyPoisoned]

theorem entries_poisonDest (s : State) (p c : Nat) (w : W128) : (stall (poisonDest s p c w) p).entries = (stall s p).entries := by
  unfold poisonDest
  dsimp only
  split
  · rw [stall_modStall_same]
  split
  · rfl
  · exact (stall_poisonLocal_fields ..).1

theorem stall_poisonDest_other {q : Nat} (hq : q ≠ p) (s : State) (c : Nat) (w : W128) : stall (poisonDest s p c w) q = stall s q := by
  unfold poisonDest
  dsimp only
  split
  · exact stall_modStall_other _ hq ..
  split
  · rfl
  · exact stall_poisonLocal_other hq ..

/-- Settling the destination of an instruction changes the entries of no stall, and no other stall. -/
theorem settleDest_frame (s : State) (p c : Nat) (e : Entry) : (stall (settleDest s p c e) p).entries = (stall s p).entries ∧
    ∀ q, q ≠ p → stall (settleDest s p c e) q = stall s q := by
  have marked (u : State) (h : Nat) (f : HEntry → HEntry) : (stall (modCached u p h f) p).entries = (stall u p).entries := by
    rw [modCached, stall_modStall_same]
  have first : (stall (recordSettled s p c e) p).entries = (stall s p).entries ∧ ∀ q, q ≠ p → stall (recordSettled s p c e) q = stall s q := by
    unfold recordSettled
    split
    · exact ⟨marked .., fun q hq => stall_modCached_other hq ..⟩
    · exact ⟨rfl, fun _ _ => rfl⟩
  have second : (stall (provSettled (recordSettled s p c e) p e) p).entries = (stall s p).entries ∧
      ∀ q, q ≠ p → stall (provSettled (recordSettled s p c e) p e) q = stall s q := by
    unfold provSettled
    split
    · exact ⟨(marked ..).trans first.1, fun q hq => (stall_modCached_other hq ..).trans (first.2 q hq)⟩
    · exact first
  rw [settleDest_eq]
  split
  · exact ⟨(entries_poisonDest ..).trans second.1, fun q hq => (stall_poisonDest_other hq ..).trans (second.2 q hq)⟩
  · exact second

/-- What an entry that finishes leaves of its stall's entries, of the other stalls, and of its stall's handle cache. -/
theorem finishEntry_frame (s : State) (p n : Nat) (e : Entry) : (∀ k, k ≠ n → entryOf (stall (finishEntry s p n e) p) k = entryOf (stall s p) k) ∧
    (∀ q, q ≠ p → stall (finishEntry s p n e) q = stall s q) ∧
    (stall (finishEntry s p n e) p).hcache = (stall (settleDest (ctOrder s p e) p e.ctx e) p).hcache ∧
    ∀ c, ctx (finishEntry s p n e) c = ctx (settleDest (ctOrder s p e) p e.ctx e) c := by
  obtain ⟨entries, others⟩ := settleDest_frame (ctOrder s p e) p e.ctx e
  have acted (u : State) (g : StallCtx → StallCtx) : (stall (if e.mute then u else modLive u p g) p).entries = (stall u p).entries ∧
      (stall (if e.mute then u else modLive u p g) p).hcache = (stall u p).hcache ∧
      (∀ q, q ≠ p → stall (if e.mute then u else modLive u p g) q = stall u q) ∧ ∀ c, ctx (if e.mute then u else modLive u p g) c = ctx u c := by
    split
    · exact ⟨rfl, rfl, fun _ _ => rfl, fun _ => rfl⟩
    · refine ⟨?_, ?_, fun q hq => stall_modStall_other _ hq .., fun _ => rfl⟩ <;> rw [modLive, stall_modStall_same]
  obtain ⟨entries', cache', others', table'⟩ := acted (settleDest (ctOrder s p e) p e.ctx e) fun x => applyAct x (actOf e.word)
  refine ⟨fun k hk => ?_, fun q hq => ?_, ?_, table'⟩
  · rw [finishEntry, dropEntry, stall_modStall_same, entryOf]
    dsimp only
    rw [nget_nset_other _ _ hk, entries', entries, stall_ctOrder, entryOf]
  · rw [finishEntry, dropEntry, stall_modStall_other _ hq, others' q hq, others q hq, stall_ctOrder]
  · rw [finishEntry, dropEntry, stall_modStall_same]
    exact cache'

/-- The record that an instruction's destination has once the instruction is settled. -/
theorem cached_settleDest {r : W128} {v : HEntry} (c : Nat) (record : e.outRec = some r) (firm : e.prov = false)
    (held : cached s p (actionOps e.word).2.2 = some v) : ∃ v', cached (settleDest s p c e) p (actionOps e.word).2.2 = some v' ∧
      v'.record = stampEpoch s c e.word r ∧ v'.pinned = true := by
  have settled : cached (provSettled (recordSettled s p c e) p e) p (actionOps e.word).2.2 =
      some { v with record := stampEpoch s c e.word r, pinned := true } := by
    rw [provSettled, firm, if_neg Bool.false_ne_true, recordSettled, record]
    dsimp only
    rw [cached_modCached_same, held]
    rfl
  rw [settleDest_eq]
  generalize provSettled (recordSettled s p c e) p e = w at settled
  split
  · unfold poisonDest
    dsimp only
    split
    · have same (m : MArray → MArray) (h : Nat) : cached (modStall w p fun x => { x with ma := m x.ma }) p h = cached w p h := by
        rw [cached, stall_modStall_same]
        rfl
      exact ⟨_, (same (fun a => setActive a { activeBank a with poison := true }) _).trans settled, rfl, rfl⟩
    split
    · exact ⟨_, settled, rfl, rfl⟩
    · next some_ =>
      rw [Bool.or_eq_true, decide_eq_true_eq, decide_eq_true_eq, not_or] at some_
      rw [(destHandle_eq e.word).resolve_right some_.1, cached_poisonLocal settled]
      exact ⟨_, rfl, rfl, rfl⟩
  · exact ⟨_, settled, rfl, rfl⟩

/-- The destination of a poisoned instruction is poisoned once it is settled. -/
theorem locallyPoisoned_settleDest (s : State) (p c : Nat) (poison : e.poison = true) (mac : opcodeOf e.word ≠ 0x11) (macz : opcodeOf e.word ≠ 0x12)
    (some_ : destHandle e.word ≠ hNone) (away : destHandle e.word ≠ hTileq) : LocallyPoisoned (settleDest s p c e) p c (destHandle e.word) := by
  rw [settleDest_eq, if_pos poison]
  unfold poisonDest
  dsimp only
  rw [decide_eq_false mac, decide_eq_false macz, Bool.or_self, if_neg Bool.false_ne_true, decide_eq_false some_, decide_eq_false away, Bool.or_self,
    if_neg Bool.false_ne_true]
  exact locallyPoisoned_poisonLocal ..

theorem stampEpoch_congr {c : Nat} (same : currentEpoch u c = currentEpoch s c) (w r : W128) : stampEpoch u c w r = stampEpoch s c w r := by
  rw [stampEpoch, same, stampEpoch]

theorem currentEpoch_ctOrder (s : State) (p : Nat) (e : Entry) (c : Nat) : currentEpoch (ctOrder s p e) c = currentEpoch s c := by
  rw [currentEpoch, recOf_ctOrder, currentEpoch]

/-- An engine instruction that can finish completes. -/
theorem engineComplete_clean {s : State} {p : Position} {n : Nat} {e : Entry} (at_ : entryOf (stall s p) n = some e) (can : canFinish s p e = true) :
    Completes (.engineInstructionComplete p n .clean) s fun u =>
      entryOf (stall u p) n = none ∧ (∀ k, k ≠ n → entryOf (stall u p) k = entryOf (stall s p) k) ∧
      (∀ q, q ≠ p → stall u q = stall s q) ∧
      (stall u p).live = (if e.mute = true then (stall s p).live else applyAct (stall s p).live (actOf e.word)) ∧
      (∀ r v, e.outRec = some r → e.prov = false → cached s p (actionOps e.word).2.2 = some v →
        ∃ v', cached u p (actionOps e.word).2.2 = some v' ∧ v'.record = stampEpoch s e.ctx e.word r ∧ v'.pinned = true) ∧
      (e.poison = true → opcodeOf e.word ≠ 0x11 → opcodeOf e.word ≠ 0x12 → destHandle e.word ≠ hNone → destHandle e.word ≠ hTileq →
        LocallyPoisoned u p e.ctx (destHandle e.word)) := by
  have run : exec (.engineInstructionComplete p n .clean) s = .next (finishEntry (ranEntry p n s) p n (entryAt (ranEntry p n s) p n)) := by
    refine congrArg Host.Outcome.next ?_
    rw [at_]
    dsimp only
    rw [can, Bool.not_true, if_neg Bool.false_ne_true]
  have ran := runKeeps_ranEntry p n s
  obtain ⟨f, atf, runs⟩ := ran.entry e at_
  rw [entryAt_of atf] at run
  obtain ⟨freed, live⟩ := finishEntry_effect (ranEntry p n s) p n f
  obtain ⟨entries, others, cache, table⟩ := finishEntry_frame (ranEntry p n s) p n f
  have issued := runs.issued
  simp only [issuedAs, Prod.mk.injEq] at issued
  obtain ⟨-, word, -, context, -, -⟩ := issued
  rw [runs.mute, word, ran.live] at live
  refine completes_of run ⟨freed, fun k hk => (entries k hk).trans (ran.entries k hk), fun q hq => (others q hq).trans (ran.others q hq), live,
    fun r v record firm held => ?_, fun poison mac macz some_ away => ?_⟩
  · have same : cached (ctOrder (ranEntry p n s) p f) p (actionOps f.word).2.2 = some v := by
      rw [cached, stall_ctOrder, ran.cache, word, ← cached, held]
    obtain ⟨v', held', stamped, pinned⟩ := cached_settleDest f.ctx (runs.outRec.trans record) (runs.prov.trans firm) same
    rw [word] at held' stamped
    rw [context] at stamped
    refine ⟨v', ?_, ?_, pinned⟩
    · rw [cached, cache, ← cached, held']
    · rw [stamped]
      exact stampEpoch_congr ((currentEpoch_ctOrder ..).trans (ran.currentEpoch e.ctx)) ..
  · have poisoned := locallyPoisoned_settleDest (ctOrder (ranEntry p n s) p f) p f.ctx (runs.poison poison) (word ▸ mac) (word ▸ macz) (word ▸ some_)
      (word ▸ away)
    rw [word, context] at poisoned
    exact poisoned.of_cache (context ▸ cache) (context ▸ table e.ctx)

end

/-! ### A residue mismatch, a suppressed access (R163, R193, R390, R482) -/

section

variable {s u : State} {p n : Nat} {e : Entry}

/-- The run of an instruction of the array that is no drain leaves the Loft and its entry. -/
theorem runEntry_array (at_ : entryOf (stall u p) n = some e) (ma : e.engine = .ma) (drain : opcodeOf e.word ≠ 0x13) :
    (runEntry none p n u).loft = u.loft ∧ entryOf (stall (runEntry none p n u) p) n = some e := by
  have mac (zero : Bool) : (maMacRun zero p e u).loft = u.loft := by
    unfold maMacRun
    dsimp only
    split
    · rfl
    · exact (parityPiece_loft ..).trans (parityPiece_loft ..)
  have form : entryOf (stall (maFormRun p e u) p) n = some e := by
    unfold maFormRun
    dsimp only
    rw [stall_modStall_same]
    exact at_
  unfold runEntry
  rw [entryAt_of at_]
  dsimp only
  rw [ma]
  dsimp only
  split
  · exact ⟨rfl, form⟩
  · next op => exact absurd op drain
  · exact ⟨mac _, entryOf_maMacRun _ at_⟩

/-- The state in which a mismatch has been reported and the array has run. -/
def residueReported (s : State) (p n : Nat) (e : Entry) : State :=
  let s1 := stallFault s p e.ctx e.team e.pc.toNat (destHandle e.word) (faultAction (imageOf s e.ctx) e.word) 0x0801
  if e.engine = .ma && opcodeOf e.word ≠ 0x13 then ranEntry p n s1 else s1

theorem residueFound_eq (s : State) (p n : Nat) (e : Entry) :
    residueFound s p n e = modEntry (recCount (residueReported s p n e) 0) p n fun v => { v with arb := true } := rfl

theorem residueReported_frame (at_ : entryOf (stall s p) n = some e) : (∃ f, entryOf (stall (residueReported s p n e) p) n = some f ∧ f.word = e.word) ∧
    (stall (residueReported s p n e) p).live = (stall s p).live ∧ (residueReported s p n e).loft = s.loft ∧
    ∃ r ∈ (residueReported s p n e).reports, r.source = p ∧ r.code = 0x0801 := by
  unfold residueReported
  dsimp only
  have same := stall_stallFault s p e.ctx e.team e.pc.toNat (destHandle e.word) (faultAction (imageOf s e.ctx) e.word) 0x0801 p
  have loft := stallFault_loft s p e.ctx e.team e.pc.toNat (destHandle e.word) (faultAction (imageOf s e.ctx) e.word) 0x0801
  have reports := reports_stallFault s p e.ctx e.team e.pc.toNat (destHandle e.word) (faultAction (imageOf s e.ctx) e.word) 0x0801
  generalize stallFault s p e.ctx e.team e.pc.toNat (destHandle e.word) (faultAction (imageOf s e.ctx) e.word) 0x0801 = s1 at same loft reports
  have reported {v : State} (more : s1.reports <+: v.reports) : ∃ r ∈ v.reports, r.source = p ∧ r.code = 0x0801 :=
    ⟨_, more.subset (by rw [reports]; exact List.mem_append_right _ (List.mem_singleton_self _)), rfl, rfl⟩
  have there : entryOf (stall s1 p) n = some e := by rw [same, at_]
  split
  · next array =>
    rw [Bool.and_eq_true, decide_eq_true_eq, decide_eq_true_eq] at array
    have ran := runKeeps_ranEntry p n s1
    obtain ⟨f, atf, runs⟩ := ran.entry e there
    have issued := runs.issued
    simp only [issuedAs, Prod.mk.injEq] at issued
    refine ⟨⟨f, atf, issued.2.1⟩, by rw [ran.live, same], ?_, reported ran.reports⟩
    unfold ranEntry
    split
    · exact loft
    · exact (runEntry_array there array.1 array.2).1.trans loft
  · exact ⟨⟨e, there, rfl⟩, by rw [same], loft, reported List.prefix_rfl⟩

end

section

variable {s : State} {p : Position} {n : Nat} {e : Entry}

theorem residue_run (at_ : entryOf (stall s p) n = some e) (can : canFinish s p e = true) : exec (.engineInstructionComplete p n .residue) s =
    .next (if isChecked s p e && !(e.started && opcodeOf e.word = 0x13) then residueFound s p n e else s) := by
  refine congrArg Host.Outcome.next ?_
  rw [at_]
  dsimp only
  rw [can, Bool.not_true, if_neg Bool.false_ne_true]

theorem residue_unchecked (at_ : entryOf (stall s p) n = some e) (can : canFinish s p e = true)
    (free : (isChecked s p e && !(e.started && opcodeOf e.word = 0x13)) = false) :
    Completes (.engineInstructionComplete p n .residue) s fun u => u = s := by
  have run := residue_run at_ can
  rw [free, if_neg Bool.false_ne_true] at run
  exact completes_of run rfl

theorem residue_checked (at_ : entryOf (stall s p) n = some e) (can : canFinish s p e = true) (checked : isChecked s p e = true)
    (open_ : opcodeOf e.word ≠ 0x13 ∨ e.started = false) : Completes (.engineInstructionComplete p n .residue) s fun u =>
      (∃ v, entryOf (stall u p) n = some v ∧ v.arb = true ∧ v.word = e.word) ∧ (stall u p).live = (stall s p).live ∧ u.loft = s.loft ∧
      ∃ r ∈ u.reports, r.source = p ∧ r.code = 0x0801 := by
  have found : (isChecked s p e && !(e.started && opcodeOf e.word = 0x13)) = true := by
    rw [checked, Bool.true_and, Bool.not_eq_true', Bool.and_eq_false_iff, decide_eq_false_iff_not]
    exact open_.symm
  have run := residue_run at_ can
  rw [found, if_pos rfl, residueFound_eq] at run
  obtain ⟨⟨f, atf, word⟩, live, loft, reported⟩ := residueReported_frame at_
  refine completes_of run ⟨⟨{ f with arb := true }, ?_, rfl, word⟩, ?_, ?_, ?_⟩
  · rw [entryOf_modEntry_same, stall_recCount, atf]
    rfl
  · rw [live_modEntry, stall_recCount, live]
  · rw [modEntry_loft, recCount_loft, loft]
  · rw [modEntry_reports, recCount_reports]
    exact reported

theorem suppressed_completes (line : Nat) (at_ : entryOf (stall s p) n = some e) (can : canFinish s p e = true) :
    Completes (.engineInstructionComplete p n (.slotViolation line)) s fun u =>
      entryOf (stall u p) n = none ∧ (getTeam (stall u p).live e.team).st = .halted ∧ ∃ r ∈ u.reports, r.source = p ∧ r.code = 0x0302 := by
  have run : exec (.engineInstructionComplete p n (.slotViolation line)) s = .next (suppressed s p n line) := by
    refine congrArg Host.Outcome.next ?_
    rw [at_]
    dsimp only
    rw [can, Bool.not_true, if_neg Bool.false_ne_true]
  obtain ⟨f, atf, runs⟩ := (runKeeps_ranEntry p n s).entry e at_
  have issued := runs.issued
  simp only [issuedAs, Prod.mk.injEq] at issued
  obtain ⟨-, -, team, -, -, -⟩ := issued
  refine completes_of run ?_
  unfold suppressed
  dsimp only
  rw [entryAt_of atf]
  generalize poisonReached _ _ _ _ = v
  obtain ⟨halted, -, reported⟩ := haltFault_effect v p f.ctx f.team f.pc.toNat (destHandle f.word) (faultAction (imageOf s f.ctx) f.word)
    0x0302
  refine ⟨entryOf_dropEntry_same .., ?_, ?_⟩
  · rw [live_dropEntry, ← team, halted]
  · rw [dropEntry_reports]
    exact reported

/-! ### Arbitration of a mismatch (R391, R392) -/

theorem entryOf_decided (line : Nat) (r : Option Line) {u : State} (at_ : entryOf (stall u p) n = some e) :
    entryOf (stall (decided u p n line r) p) n = some { e with arb := false, fixes := (line, r) :: e.fixes } := by
  rw [decided, entryOf_modEntry_same, at_]
  rfl

theorem entryOf_checkerSuspect (u : State) (k : Nat) : entryOf (stall (checkerSuspect u p e) p) k = entryOf (stall u p) k := by
  have counted : stall (recCount (stallFault u p e.ctx e.team e.pc.toNat (destHandle e.word) (faultAction (imageOf u e.ctx) e.word) 0x0804) 1) p =
      stall u p := by
    rw [stall_recCount, stall_stallFault]
  unfold checkerSuspect
  dsimp only
  generalize recCount (stallFault u p e.ctx e.team e.pc.toNat (destHandle e.word) (faultAction (imageOf u e.ctx) e.word) 0x0804) 1 = v at counted ⊢
  have noted (ts : List W64) : entryOf (stall (modStall v p fun x => { x with suspect := ts }) p) k = entryOf (stall u p) k := by
    rw [stall_modStall_same, counted]
    rfl
  split
  · exact noted _
  · exact noted _

theorem arbitration_agrees (line predicted : Nat) {orig redo : Line} (at_ : entryOf (stall s p) n = some e) (arb : e.arb = true)
    (same : redo = orig) : exec (.arbitration p n line orig redo predicted) s = .next (checkerSuspect (decided s p n line (some orig)) p e) := by
  refine congrArg Host.Outcome.next ?_
  rw [at_]
  dsimp only
  rw [arb, Bool.not_true, if_neg Bool.false_ne_true, if_pos same]

/-- The state in which an instruction of the array that is no drain has run again. -/
def redone (s : State) (p n : Nat) (e : Entry) : State :=
  if e.engine = .ma && opcodeOf e.word ≠ 0x13 then runEntry none p n (maRestore p s) else s

theorem entryOf_redone (at_ : entryOf (stall s p) n = some e) : entryOf (stall (redone s p n e) p) n = some e := by
  unfold redone
  split
  · next array =>
    rw [Bool.and_eq_true, decide_eq_true_eq, decide_eq_true_eq] at array
    refine (runEntry_array ?_ array.1 array.2).2
    rw [maRestore, stall_modStall_same]
    exact at_
  · exact at_

theorem arbitration_predicted (line : Nat) {predicted : Nat} {orig redo : Line} (at_ : entryOf (stall s p) n = some e) (arb : e.arb = true)
    (other : redo ≠ orig) (residue : lineNat redo % 8191 = predicted) :
    exec (.arbitration p n line orig redo predicted) s = .next (recCount (decided (redone s p n e) p n line (some redo)) 2) := by
  refine congrArg Host.Outcome.next ?_
  rw [at_]
  dsimp only
  rw [arb, Bool.not_true, if_neg Bool.false_ne_true, if_neg other, if_pos residue]
  rfl

theorem arbitration_fails (line : Nat) {predicted : Nat} {orig redo : Line} (at_ : entryOf (stall s p) n = some e) (arb : e.arb = true)
    (other : redo ≠ orig) (residue : lineNat redo % 8191 ≠ predicted) : exec (.arbitration p n line orig redo predicted) s =
      .next (trigger (recCount (awaitRetire (undecided s p n line e) p 1) 3) e.ctx 0) := by
  refine congrArg Host.Outcome.next ?_
  rw [at_]
  dsimp only
  rw [arb, Bool.not_true, if_neg Bool.false_ne_true, if_neg other, if_neg residue]

/-- An entry of which no result stands. -/
theorem undecided_frame (line : Nat) (at_ : entryOf (stall s p) n = some e) :
    entryOf (stall (undecided s p n line e) p) n = some { e with arb := false, fixes := (line, none) :: e.fixes, poison := true } ∧
      position (undecided s p n line e) p = position s p ∧ recOf (undecided s p n line e) e.ctx = recOf s e.ctx := by
  have restored : entryOf (stall (if e.engine = .ma && opcodeOf e.word ≠ 0x13 then maRestore p (decided s p n line none)
      else decided s p n line none) p) n = some { e with arb := false, fixes := (line, none) :: e.fixes } := by
    split
    · rw [maRestore, stall_modStall_same]
      exact entryOf_decided line none at_
    · exact entryOf_decided line none at_
  have kept : position (if e.engine = .ma && opcodeOf e.word ≠ 0x13 then maRestore p (decided s p n line none)
      else decided s p n line none) p = position s p ∧ recOf (if e.engine = .ma && opcodeOf e.word ≠ 0x13 then
        maRestore p (decided s p n line none) else decided s p n line none) e.ctx = recOf s e.ctx := by
    split
    · exact ⟨rfl, rfl⟩
    · exact ⟨rfl, rfl⟩
  unfold undecided
  dsimp only
  refine ⟨?_, ?_, ?_⟩
  · rw [entryOf_modEntry_same, entryOf_congr (entries_poisonDest ..), restored]
    rfl
  · rw [position_modEntry, position_poisonDest, kept.1]
  · rw [recOf_modEntry, recOf_poisonDest, kept.2]

theorem arbitration_completes (line predicted : Nat) (orig redo : Line) (at_ : entryOf (stall s p) n = some e) (arb : e.arb = true)
    (hc : e.ctx < 64) : Completes (.arbitration p n line orig redo predicted) s fun u =>
      (∃ v, entryOf (stall u p) n = some v ∧ v.arb = false ∧ v.word = e.word ∧ v.waits = e.waits ∧
        (redo = orig → v.fixes = (line, some orig) :: e.fixes) ∧
        (redo ≠ orig → lineNat redo % 8191 = predicted → v.fixes = (line, some redo) :: e.fixes) ∧
        (redo ≠ orig → lineNat redo % 8191 ≠ predicted → v.fixes = (line, none) :: e.fixes ∧ v.poison = true)) ∧
      (redo ≠ orig → lineNat redo % 8191 ≠ predicted → (position u p).await = some ((position s p).await.getD 1) ∧
        (recOf u e.ctx).triggers = (recOf s e.ctx).triggers ++ [0]) := by
  by_cases same : redo = orig
  · refine completes_of (arbitration_agrees line predicted at_ arb same) ⟨⟨_, (entryOf_checkerSuspect _ n).trans (entryOf_decided line _ at_), rfl, rfl,
      rfl, fun _ => rfl, fun other => absurd same other, fun other => absurd same other⟩, fun other => absurd same other⟩
  · by_cases residue : lineNat redo % 8191 = predicted
    · refine completes_of (arbitration_predicted line at_ arb same residue) ⟨⟨{ e with arb := false, fixes := (line, some redo) :: e.fixes }, ?_, rfl,
        rfl, rfl, fun agree => absurd agree same, fun _ _ => rfl, fun _ other => absurd residue other⟩, fun _ other => absurd residue other⟩
      rw [stall_recCount]
      exact entryOf_decided line _ (entryOf_redone at_)
    · obtain ⟨entry, position_, recs⟩ := undecided_frame line at_
      refine completes_of (arbitration_fails line at_ arb same residue) ⟨⟨{ e with arb := false, fixes := (line, none) :: e.fixes, poison := true }, ?_,
        rfl, rfl, rfl, fun agree => absurd agree same, fun _ agree => absurd agree residue, fun _ _ => ⟨rfl, rfl⟩⟩, fun _ _ => ⟨?_, ?_⟩⟩
      · rw [stall_trigger, stall_recCount]
        exact entry
      · rw [position_trigger, position_recCount, awaitRetire, position_modPos_same, position_]
      · rw [recOf_trigger hc, recOf_recCount]
        exact congrArg (·.triggers ++ [0]) recs

end

/-- Settles O23: what a run keeps of its entry and stall (`RunKeeps`), and what settling the destination and freeing the entry change. -/
theorem completionFreesEntries : Obligations.CompletionFreesEntries :=
  ⟨fun _ _ _ line _ at_ can => ⟨engineComplete_clean at_ can,
      fun checked op started => residue_unchecked at_ can (by rw [checked, op, started]; rfl), residue_checked at_ can,
      fun free => residue_unchecked at_ can (by rw [free, Bool.false_and]), suppressed_completes line at_ can⟩,
    fun _ _ _ line predicted orig redo _ at_ arb hc => arbitration_completes line predicted orig redo at_ arb hc⟩

/-! ### What the memory holds of a granule (R315) -/

theorem freeGranule_length (s : State) : (freeGranule s).1.length = 256 :=
  leBytes_length 256 _

theorem mem_setGpoison (s : State) (g : Nat) (v : Bool) : (setGpoison s g v).hbm.mem = s.hbm.mem :=
  rfl

/-- The bytes outside a granule whose write fails are those that the report of the fault leaves. -/
theorem mem_sendGranule_lost {s : State} {g : Nat} {d : List Byte} {poison own : Bool} {e : MemErr} {x : Nat × Region}
    (live : liveRegion s g = some x) (lost : e.exhausted = true) (slot : e.slotToo = false) {a : Nat} (outside : a < g * 256 ∨ g * 256 + 256 ≤ a) :
    nget 0 (sendGranule s g d poison e own).hbm.mem a =
      nget 0 (memFault (hbmCount s (g / 2 ^ 28) 0 (retriesOf e)) g x.2.owner 0x0602 4 false own).hbm.mem a := by
  unfold sendGranule
  dsimp only
  rw [lost, slot, live, Bool.not_true, Bool.not_false, if_neg Bool.false_ne_true, if_pos rfl]
  generalize memFault (hbmCount s (g / 2 ^ 28) 0 (retriesOf e)) g x.2.owner 0x0602 4 false own = f
  have ends : a < g * 256 ∨ g * 256 + (freeGranule f).1.length ≤ a := by rw [freeGranule_length]; exact outside
  rw [mem_setGpoison]
  dsimp only
  rw [nget_memWrite_outside _ _ _ ends]
  rfl

/-- Another granule waits in the write buffer as the report of the fault leaves it. -/
theorem combine_sendGranule_lost {s : State} {g : Nat} {d : List Byte} {poison own : Bool} {e : MemErr} {x : Nat × Region}
    (live : liveRegion s g = some x) (lost : e.exhausted = true) (slot : e.slotToo = false) {j : Nat} (other : j ≠ g) :
    nget none (sendGranule s g d poison e own).hbm.combine j =
      nget none (memFault (hbmCount s (g / 2 ^ 28) 0 (retriesOf e)) g x.2.owner 0x0602 4 false own).hbm.combine j := by
  unfold sendGranule
  dsimp only
  rw [lost, slot, live, Bool.not_true, Bool.not_false, if_neg Bool.false_ne_true, if_pos rfl]
  generalize memFault (hbmCount s (g / 2 ^ 28) 0 (retriesOf e)) g x.2.owner 0x0602 4 false own = f
  exact nget_nset_other none f.hbm.combine other none

/-- The byte of memory at an address, as the write buffer and the stack hold it. -/
def byteAt (s : State) (a : Nat) : Byte :=
  (granuleBytes s (a / 256)).getD (a % 256) 0

theorem byteAt_of_none {s : State} {a : Nat} (none_ : nget none s.hbm.combine (a / 256) = none) : byteAt s a = nget 0 s.hbm.mem a := by
  unfold byteAt granuleBytes
  rw [none_]
  simp [Nat.mod_lt]
  rw [Nat.div_add_mod']

/-! ### An aperture write that fails also writes the Daybook (R315, R362, R395) -/

/-- A bridge whose aperture shows a LIVE region of context 0, at address 0. -/
def apertureState : State :=
  { csr := [(0x0800010, 0)], gate := { bridge := true, linkUp := true },
    hbm := { regions := [(0, { st := .live, owner := 0, base := 0, limit := 0xFFFFF })] } }

/-- The error that loses granule 0. -/
def granuleLost : MemErrs := [(0, { exhausted := true })]

/-- A whole granule. -/
def wholeGranule : List Byte := List.replicate 256 1

/-- The write of the whole granule at address 0, as cells. -/
def wholeCells : List Host.Cell := wholeGranule.zipIdx.map fun (v, i) => (i, v)

/-- The state in which the bytes of the granule wait to be sent. -/
def granuleWaits : State :=
  { apertureState with hbm := { apertureState.hbm with
    combine := nset none apertureState.hbm.combine 0 (some (mergeBytes apertureState 0 (cellsIn wholeCells 0) false)) } }

theorem storeBytes_lost : storeBytes apertureState wholeCells false granuleLost false =
    sendGranule granuleWaits 0 (granuleBytes granuleWaits 0) false { exhausted := true } false := by
  have granules : cellGranules wholeCells = [0] := by decide +kernel
  have full : (mergeBytes apertureState 0 (cellsIn wholeCells 0) false).bytes.length = 256 := by decide +kernel
  rw [storeBytes, granules, List.foldl_cons, List.foldl_nil, writeGranule]
  dsimp only
  rw [if_pos full]
  rfl

/-- The region that the granule lies in. -/
def apertureOwner : Nat × Region := (0, { st := .live, owner := 0, base := 0, limit := 0xFFFFF })

theorem live_granuleWaits : liveRegion granuleWaits 0 = some apertureOwner := by
  decide +kernel

/-- The report of the failed write is a record of the Daybook: type 8 in byte 6 of its first place. -/
theorem ring_storeBytes_lost : nget 0 (storeBytes apertureState wholeCells false granuleLost false).hbm.mem 0x6000000006 = 8 := by
  rw [storeBytes_lost, mem_sendGranule_lost live_granuleWaits rfl rfl (by decide)]
  decide +kernel

theorem combine_storeBytes_lost :
    nget none (storeBytes apertureState wholeCells false granuleLost false).hbm.combine (0x6000000006 / 256) = none := by
  rw [storeBytes_lost, combine_sendGranule_lost live_granuleWaits rfl rfl (by decide)]
  decide +kernel

/-- The address of memory that the aperture's first byte shows. -/
def apertureBase (s : State) : Nat :=
  csrField s 0x0800010 39 30 / 2 ^ s.gate.bar4 * 2 ^ (30 + s.gate.bar4)

/-- A write that lies in regions that the aperture shows reaches memory (R362). -/
theorem exec_apertureWrite {s : State} {off : Nat} {data : List Byte} (bridge : s.gate.bridge = true) (link : s.gate.linkUp = true)
    (within : off + data.length ≤ 2 ^ (30 + s.gate.bar4)) (reach : apertureBase s + off + data.length ≤ 2 ^ 39)
    (lies : ∀ i, i < data.length → (apertureRegion s (apertureBase s + off + i)).isSome = true) (errs : MemErrs) :
    exec (.apertureAccess off (.write data) errs) s =
      .next (storeBytes s (data.zipIdx.map fun (v, i) => (apertureBase s + off + i, v)) false errs false) := by
  have all : (List.range data.length).all (fun i => (apertureRegion s (apertureBase s + off + i)).isSome) = true :=
    List.all_eq_true.mpr fun i mem => lies i (List.mem_range.mp mem)
  unfold apertureBase at all reach
  unfold exec execApertureAccess
  dsimp only
  rw [bridge, link, decide_eq_false (Nat.not_lt.mpr within), decide_eq_true reach, all]
  rfl

theorem apertureBase_apertureState : apertureBase apertureState = 0 := by
  decide

/-- The cells of the write that the aperture's first byte begins. -/
theorem cells_wholeGranule : (wholeGranule.zipIdx.map fun (v, i) => (apertureBase apertureState + 0 + i, v)) = wholeCells := by
  rw [apertureBase_apertureState]
  simp only [Nat.zero_add, wholeCells]

/-- What the statement says of a write whose access lies in regions that the aperture shows. -/
theorem bytes_of_statement (h : Obligations.HostAccessThroughAperture) {s : State} {off : Nat} {data : List Byte} (bridge : s.gate.bridge = true)
    (link : s.gate.linkUp = true) (within : off + data.length ≤ 2 ^ (30 + s.gate.bar4)) (reach : apertureBase s + off + data.length ≤ 2 ^ 39)
    (lies : ∀ i, i < data.length → (apertureRegion s (apertureBase s + off + i)).isSome = true) {errs : MemErrs} {a : Nat}
    (kept : (errs.at_ (a / 256)).exhausted = false) (outside : ¬(apertureBase s + off ≤ a ∧ a < apertureBase s + off + data.length)) :
    byteAt (storeBytes s (data.zipIdx.map fun (v, i) => (apertureBase s + off + i, v)) false errs false) a = byteAt s a := by
  unfold Obligations.HostAccessThroughAperture at h
  obtain ⟨-, -, -, writes, -⟩ := h s off 0 data
  obtain ⟨u, ran, bytes⟩ := writes ⟨bridge, link, within⟩ ⟨reach, lies⟩ errs
  obtain rfl := Host.Outcome.next.inj ((exec_apertureWrite bridge link within reach lies errs).symm.trans ran)
  exact (bytes a (.inl kept)).trans (if_neg outside)

/-- Refutes O45: the write of a granule that fails is reported, and the report's record of the Daybook stands in memory, where nothing fails. -/
theorem not_hostAccessThroughAperture : ¬ Obligations.HostAccessThroughAperture := by
  intro h
  have size : wholeGranule.length = 256 := List.length_replicate
  have lies : ∀ i, i < 256 → (apertureRegion apertureState (apertureBase apertureState + 0 + i)).isSome = true := by decide +kernel
  rw [← size] at lies
  have same := bytes_of_statement (errs := granuleLost) (a := 0x6000000006) h rfl rfl (by rw [size]; decide) (by rw [size]; decide) lies (by decide)
    (by rw [size]; decide)
  rw [cells_wholeGranule] at same
  have before : byteAt apertureState 0x6000000006 = 0 := by decide +kernel
  have after : byteAt (storeBytes apertureState wholeCells false granuleLost false) 0x6000000006 = 8 :=
    by rw [byteAt_of_none combine_storeBytes_lost, ring_storeBytes_lost]
  exact absurd (after.symm.trans (same.trans before)) (by decide)

/-! ### A granule that the patrol cannot read enters the Daybook, which stands in memory (R320, R416) -/

/-- A device whose stacks are out of self-refresh. -/
def patrolState : State :=
  { hbm := { selfRef := false } }

/-- The granule of the Daybook's range that the patrol reads. -/
def patrolledGranule : Nat := 0x8700000

/-- The state in which the error of the patrol's read is reported. -/
def patrolFails : State :=
  memFault (hbmCount patrolState 0 0 (retriesOf { exhausted := true })) patrolledGranule 64 0x0602 4 false false

theorem exec_patrol_fails : exec (.patrol 0 patrolledGranule { exhausted := true }) patrolState = .next (freeGranule patrolFails).2 := by
  have runs : stackRuns patrolState ((0 : StackIx) : Nat) = true := by decide +kernel
  unfold exec execPatrol
  dsimp only
  rw [runs, if_neg (by decide), if_pos (by decide), readGranule]
  dsimp only
  rw [if_pos rfl]
  rfl

theorem ring_patrolFails : nget 0 (freeGranule patrolFails).2.hbm.mem 0x6000000006 = 8 := by
  decide +kernel

/-- Refutes O35: an error that the patrol finds is reported, and the report's record of the Daybook stands in memory. -/
theorem not_hbmUpkeepAndRegionLife : ¬ Obligations.HbmUpkeepAndRegionLife := by
  unfold Obligations.HbmUpkeepAndRegionLife
  rintro ⟨⟨-, patrol, -⟩, -⟩
  obtain ⟨u, ran, -, -, same, -⟩ := patrol patrolState 0 patrolledGranule { exhausted := true }
  obtain rfl := Host.Outcome.next.inj (exec_patrol_fails.symm.trans ran)
  have wrote := ring_patrolFails
  rw [same] at wrote
  exact absurd wrote (by decide)

end Sys2Proof.Machine
end

section
/-!
SUPPORT. The frame lemmas that the proofs of O33, O37 and O38 rest on.
-/

namespace Sys2Proof.Machine

/-! ### The link -/

@[simp] theorem vRhoa_draw (s : State) :
    (draw s).2.vRhoa = s.vRhoa := by simp [draw, vRhoa_eta]

@[simp] theorem vRhoa_bump (s : State) (off wrapOff wrapBit : Nat) :
    (bump s off wrapOff wrapBit).vRhoa = s.vRhoa := by simp [bump]

@[simp] theorem vRhoa_recordFirst (s : State) (off v : Nat) :
    (recordFirst s off v).vRhoa = s.vRhoa := by simp [recordFirst]

@[simp] theorem vRhoa_dbStore (s : State) (type c : Nat) (payload : List Byte) :
    (dbStore s type c payload).vRhoa = s.vRhoa := by simp [dbStore, vRhoa_eta]

@[simp] theorem vRhoa_dbAppend (s : State) (type c : Nat) (payload : List Byte) :
    (dbAppend s type c payload).vRhoa = s.vRhoa := by simp [dbAppend, vRhoa_eta]

@[simp] theorem vRhoa_dbFault (s : State) (c code lid team handle : Nat) :
    (dbFault s c code lid team handle).vRhoa = s.vRhoa := by simp [dbFault]

@[simp] theorem vRhoa_raiseIrq (s : State) (fn vec : Nat) :
    (raiseIrq s fn vec).vRhoa = s.vRhoa := by simp [raiseIrq, vRhoa_eta]

@[simp] theorem vRhoa_ghRecord (s : State) (r : Nat) (rec_ : List Byte) (irq : Bool) (vf vfVec : Nat) :
    (ghRecord s r rec_ irq vf vfVec).vRhoa = s.vRhoa := by simp [ghRecord, vRhoa_eta]

@[simp] theorem vRhoa_ghNote (s : State) (ring : Nat) (rec_ : List Byte) :
    (ghNote s ring rec_).vRhoa = s.vRhoa := by
  unfold ghNote
  repeat' first
    | (simp [vRhoa_eta]; done)
    | (with_reducible refine (vRhoa_foldl _ ?_ _ _).trans ?_)
    | intro _
    | split
    | dsimp only

@[simp] theorem vRhoa_ghDeliver (s : State) (m : Nat) (rec_ : List Byte) (irq : Bool) :
    (ghDeliver s m rec_ irq).vRhoa = s.vRhoa := by simp [ghDeliver]

@[simp] theorem draw_rhoa (s : State) :
    (draw s).2.rhoa = s.rhoa := (vRhoa_def _).symm.trans ((vRhoa_draw ..).trans (vRhoa_def _))

@[simp] theorem recordFirst_rhoa (s : State) (off v : Nat) :
    (recordFirst s off v).rhoa = s.rhoa := (vRhoa_def _).symm.trans ((vRhoa_recordFirst ..).trans (vRhoa_def _))

@[simp] theorem dbFault_rhoa (s : State) (c code lid team handle : Nat) :
    (dbFault s c code lid team handle).rhoa = s.rhoa := (vRhoa_def _).symm.trans ((vRhoa_dbFault ..).trans (vRhoa_def _))

@[simp] theorem ghDeliver_rhoa (s : State) (m : Nat) (rec_ : List Byte) (irq : Bool) :
    (ghDeliver s m rec_ irq).rhoa = s.rhoa := (vRhoa_def _).symm.trans ((vRhoa_ghDeliver ..).trans (vRhoa_def _))

end Sys2Proof.Machine
end

section
/-!
PROOFS. Link ports train and forward (O38); refutations of O33 and O37.
-/

namespace Sys2Proof.Machine

/-! ### The report of an absent destination changes the lines that a Drover then reads (R248, R275, R416) -/

/-- A weight of one line whose set of destinations is [0, 1]. -/
def weightEntry : DrvEntry :=
  { key := false, words := [0, 0, 0, 1, 0x800000000] }

/-- The request for the weight. -/
def weightRequest : Msg :=
  ⟨0, .stall 0, .drover 0, .bridleway, 0, .drv weightEntry⟩

/-- The context's weight handle 0 stands where the Daybook's ring does, and no position has logical ID 1. -/
def weightState : State :=
  { positions := [(0, { st := .enabled, lid := 0 })], yard := [weightRequest], msgSeq := 1,
    ctxs := [(0, { st := .resident, image := some { mcast := [{ members := [0, 1] }], handles := [{ lines := 64, base := 0x6000000000 }] } })],
    hbm := { selfRef := false, regions := [(0, { st := .live, base := 0x6000000000, limit := 0x600000FFFF })] } }

/-- The state that the request leaves. -/
def weightServed : State :=
  drvPump (drvAccept (dropMsg weightState 0) 0 weightEntry false [])

/-- The line that stood in memory when the request came. -/
def weightLine : Body :=
  .line (.piece 0 0) (lineAt weightState (drvCopy (imageOf weightState 0) 0 0) 0x6000000000 0) false (stampOf weightState 0) none {}

theorem weightLine_not_sent : (weightServed.yard.all fun m => decide (m.body ≠ weightLine)) = true := by
  decide +kernel

theorem exec_weightRequest : exec (.drvRequest 0 ⟨false, []⟩) weightState = .next weightServed := by
  have takes : drvTakes weightState 0 weightEntry = true := by decide +kernel
  have arrives : arriving weightState 0 = some weightRequest := by decide +kernel
  refine (show _ = execDrvRequest 0 ⟨false, []⟩ weightState from rfl).trans ?_
  unfold execDrvRequest
  rw [arrives, weightRequest]
  dsimp only
  rw [takes, if_pos rfl]
  rfl

/-- The granules of the weight's line lie in the context's region. -/
theorem weight_readable : ∀ g ∈ lineGranules (drvCopy (imageOf weightState 0) 0 0) 0, (regionFor weightState 0 (g * 256)).isSome = true := by
  decide +kernel

/-- Refutes O33: a set that names a logical ID of no position is reported before the weight is read, and the report's record of the Daybook can
stand in the weight's own lines. -/
theorem not_droverServesAndChecks : ¬ Obligations.DroverServesAndChecks := by
  unfold Obligations.DroverServesAndChecks
  rintro ⟨serves, -⟩
  obtain ⟨-, delivers, -⟩ := serves weightState weightRequest 0 weightEntry false [] (by decide +kernel) rfl rfl (by decide +kernel) (.inl (by decide +kernel))
  have keys : drvKeys weightEntry = [0] := rfl
  have rows : drvRange (imageOf weightState weightEntry.ctx) weightEntry = (0, 1) := by decide +kernel
  obtain ⟨u, ran, sent⟩ := delivers (by decide +kernel) (.inl rfl) (by
    intro i mem k below g lies
    rw [keys] at mem
    rw [rows] at below lies
    obtain rfl := List.mem_singleton.mp mem
    obtain rfl := Nat.lt_one_iff.mp below
    exact weight_readable g lies)
  obtain rfl := Host.Outcome.next.inj (exec_weightRequest.symm.trans ran)
  have target : 0 ∈ drvPositions weightState 0 0 weightEntry.words := by decide +kernel
  obtain ⟨m, mem, -, -, body⟩ := sent 0 target 0 (by decide) 0 (by rw [rows]; decide)
  rw [rows] at body
  exact of_decide_eq_true (List.all_eq_true.mp weightLine_not_sent m mem) body

/-! ### What the sending of flits at one port keeps (R335, R336, R340) -/

/-- A step of sending at port n: other ports stand, of the registers only the counter of flits sent moves, the wire only grows, and a flit that
waited at n waits on or stands in the replay buffer, which gives none up. -/
structure SendsAt (n : Nat) (s u : State) : Prop where
  sends : Sends s u
  other : ∀ m, m ≠ n → port u m = port s m
  counted : ∀ off, off % 0x1000 ≠ 0x100 → off % 0x1000 ≠ 0x180 → csrGet u off = csrGet s off
  wire : s.rhoa.wire.length ≤ u.rhoa.wire.length
  held : (port u n).queue.length + (port u n).replay.length = (port s n).queue.length + (port s n).replay.length
  queued : ∀ y ∈ (port s n).queue, y ∈ (port u n).queue ∨ ∃ z ∈ (port u n).replay, z.bytes.drop 2 = y.bytes.drop 2
  replayed : ∀ y ∈ (port s n).replay, y ∈ (port u n).replay
  places : (port u n).rxPlaces = (port s n).rxPlaces
  owed : (port u n).owed ⊆ (port s n).owed

namespace SendsAt

variable {s u v : State} {n : Nat}

theorem refl (n : Nat) (s : State) : SendsAt n s s where
  sends := .refl s
  other _ _ := rfl
  counted _ _ _ := rfl
  wire := Nat.le_refl _
  held := rfl
  queued _ mem := .inl mem
  replayed _ mem := mem
  places := rfl
  owed := List.Subset.refl _

theorem trans (h : SendsAt n s u) (h' : SendsAt n u v) : SendsAt n s v where
  sends := h.sends.trans h'.sends
  other m ne := (h'.other m ne).trans (h.other m ne)
  counted off a b := (h'.counted off a b).trans (h.counted off a b)
  wire := h.wire.trans h'.wire
  held := h'.held.trans h.held
  queued y mem := by
    rcases h.queued y mem with mem | ⟨z, mem, same⟩
    · exact h'.queued y mem
    · exact .inr ⟨z, h'.replayed z mem, same⟩
  replayed y mem := h'.replayed y (h.replayed y mem)
  places := h'.places.trans h.places
  owed := List.Subset.trans h'.owed h.owed

end SendsAt

/-- What a flit that is sent leaves owed. -/
def owedAfter (p : Port) : List Nat :=
  match p.owed with
  | [] => []
  | g :: _ => p.owed.filter (· != g)

theorem owedAfter_subset (p : Port) : owedAfter p ⊆ p.owed := by
  unfold owedAfter
  split
  · exact List.nil_subset _
  · exact List.filter_subset_self _

theorem port_wireFlit (s : State) (n : Nat) (b : List Byte) (seq : BitVec 16) (m : Nat) :
    port (wireFlit s n b seq) m = if m = n then { port s n with owed := owedAfter (port s n) } else port s m :=
  port_modPort s n (fun q => { q with owed := owedAfter q }) m

theorem wire_wireFlit (s : State) (n : Nat) (b : List Byte) (seq : BitVec 16) :
    (wireFlit s n b seq).rhoa.wire.length = s.rhoa.wire.length + 1 :=
  List.length_append

theorem sendsAt_wireFlit (s : State) (n : Nat) (b : List Byte) (seq : BitVec 16) : SendsAt n s (wireFlit s n b seq) := by
  have here : port (wireFlit s n b seq) n = { port s n with owed := owedAfter (port s n) } := by rw [port_wireFlit, if_pos rfl]
  exact {
    sends := .wireFlit ..
    other := fun m ne => by rw [port_wireFlit, if_neg ne]
    counted := fun off _ _ => csrGet_congr (wireFlit_csr ..) off
    wire := by rw [wire_wireFlit]; exact Nat.le_succ _
    held := by rw [here]
    queued := fun y mem => .inl (by rw [here]; exact mem)
    replayed := fun y mem => by rw [here]; exact mem
    places := by rw [here]
    owed := by rw [here]; exact owedAfter_subset _ }

/-- The next flit stands where its number says. -/
theorem nextFlit_at {p : Port} {i k : Nat} {h : Held} (next : nextFlit p = some (i, h, k)) : p.queue[i]? = some h := by
  unfold nextFlit at next
  split at next
  · split at next
    · exact absurd next (by simp)
    · next x xs queue =>
      obtain ⟨c, -, same⟩ := Option.map_eq_some_iff.mp next
      obtain ⟨rfl, rfl, -⟩ := Prod.mk.injEq .. ▸ same
      rw [queue]
      rfl
  · obtain ⟨vc, -, ready⟩ := List.exists_of_findSome?_eq_some next
    obtain ⟨e, mem, same⟩ := List.exists_of_findSome?_eq_some ready
    obtain ⟨c, -, same⟩ := Option.map_eq_some_iff.mp same
    simp only [Prod.mk.injEq] at same
    obtain ⟨rfl, rfl, -⟩ := same
    exact List.mem_zipIdx_iff_getElem?.mp (List.mem_filter.mp mem).1

/-- The flit as it is kept for a replay differs in its number only. -/
theorem putBytes_zero_drop (b : List Byte) (x : Nat) : (putBytes b 0 (leBytes 2 x)).drop 2 = b.drop 2 :=
  rfl

/-- A port once it has sent the flit at place i of its queue. -/
def sentFrom (s : State) (p : Port) (i : Nat) (h : Held) (k : Nat) (q : Port) : Port :=
  { q with
    queue := q.queue.eraseIdx i, resend := q.resend - 1,
    replay := q.replay ++ [{ h with bytes := putBytes h.bytes 0 (leBytes 2 q.seq.toNat) }],
    credits := nset 0 q.credits k (nget 0 q.credits k - 1), seq := q.seq + 1,
    bulkWait := if flitVc h.bytes ≠ 0 && (readyOn p 0).isSome then p.bulkWait + 1 else 0,
    progress := if q.replay = [] then s.ledger else q.progress }

theorem mem_eraseIdx_or {α : Type} {l : List α} {i : Nat} {h y : α} (at_ : l[i]? = some h) (mem : y ∈ l) : y ∈ l.eraseIdx i ∨ y = h := by
  obtain ⟨j, same⟩ := List.mem_iff_getElem?.mp mem
  by_cases ne : j = i
  · subst ne
    exact .inr (Option.some.inj (same.symm.trans at_))
  · exact .inl (List.mem_eraseIdx_iff_getElem?.mpr ⟨j, ne, same⟩)

/-- The flit that is sent leaves the queue for the replay buffer. -/
theorem sendsAt_sentFrom {s : State} {n i k : Nat} {h : Held} (p : Port) (at_ : (port s n).queue[i]? = some h) :
    SendsAt n s (modPort s n (sentFrom s p i h k)) := by
  have here : port (modPort s n (sentFrom s p i h k)) n = sentFrom s p i h k (port s n) := port_modPort_same ..
  obtain ⟨below, -⟩ := List.getElem?_eq_some_iff.mp at_
  exact {
    sends := .modPort s n fun _ => rfl
    other := fun m ne => port_modPort_other s ne _
    counted := fun _ _ _ => rfl
    wire := Nat.le_refl _
    held := by
      rw [here]
      simp only [sentFrom, List.length_eraseIdx_of_lt below, List.length_append, List.length_singleton]
      omega
    queued := fun y mem => by
      rw [here]
      rcases mem_eraseIdx_or at_ mem with mem | rfl
      · exact .inl mem
      · exact .inr ⟨_, List.mem_append_right _ (List.mem_singleton_self _), putBytes_zero_drop ..⟩
    replayed := fun y mem => by rw [here]; exact List.mem_append_left _ mem
    places := by rw [here]; rfl
    owed := by rw [here]; exact List.Subset.refl _ }

theorem sendsAt_rlCount (s : State) (n : Nat) : SendsAt n s (rlCount s n 0 1) := by
  have same (m : Nat) : port (rlCount s n 0 1) m = port s m := port_congr (rlCount_rhoa ..) m
  exact {
    sends := .rlCount s n 1 (by decide)
    other := fun m _ => same m
    counted := fun off a b => csrGet_bumpBy_other s (by omega) (by omega)
    wire := by rw [rlCount_rhoa]
    held := by rw [same]
    queued := fun y mem => .inl (by rw [same]; exact mem)
    replayed := fun y mem => by rw [same]; exact mem
    places := by rw [same]
    owed := by rw [same]; exact List.Subset.refl _ }

theorem sendsAt_sendOne {s u : State} {n : Nat} (sent : sendOne s n = some u) : SendsAt n s u := by
  unfold sendOne at sent
  dsimp only at sent
  split at sent
  · exact absurd sent (by simp)
  · split at sent
    · exact absurd sent (by simp)
    · next i h k next =>
      obtain rfl := Option.some.inj sent
      exact ((sendsAt_sentFrom _ (nextFlit_at next)).trans (sendsAt_wireFlit ..)).trans (sendsAt_rlCount ..)

theorem sendsAt_pump (k : Nat) (s : State) (n : Nat) : SendsAt n s (pump k s n) := by
  induction k generalizing s with
  | zero => exact .refl n s
  | succ k ih =>
    unfold pump
    split
    · next s1 sent => exact (sendsAt_sendOne sent).trans (ih s1)
    · exact .refl n s

theorem sendsAt_pumpPort (s : State) (n : Nat) : SendsAt n s (pumpPort s n) :=
  sendsAt_pump ..

theorem sendsAt_returnCredits (k : Nat) (s : State) (n : Nat) : SendsAt n s (returnCredits k s n) := by
  induction k generalizing s with
  | zero => exact .refl n s
  | succ k ih =>
    unfold returnCredits
    split
    · exact .refl n s
    · exact (sendsAt_wireFlit ..).trans (ih _)

/-- Places of a set of no more than k owe no credit after k flits. -/
theorem owed_returnCredits {k : Nat} {l : List Nat} (size : l.length ≤ k) {s : State} {n : Nat} (within : (port s n).owed ⊆ l) :
    (port (returnCredits k s n) n).owed = [] := by
  induction k generalizing s l with
  | zero =>
    obtain rfl := List.length_eq_zero_iff.mp (Nat.le_zero.mp size)
    exact List.eq_nil_of_subset_nil within
  | succ k ih =>
    unfold returnCredits
    split
    · assumption
    · next some_ =>
      obtain ⟨g, gs, owes⟩ := List.exists_cons_of_ne_nil some_
      have mem : g ∈ l := within (by rw [owes]; exact List.mem_cons_self)
      have fewer : (l.filter (· != g)).length < l.length :=
        List.length_filter_lt_length_iff_exists.mpr ⟨g, mem, by simp⟩
      refine ih (l := l.filter (· != g)) (by omega) ?_
      rw [sendPlain, port_wireFlit, if_pos rfl]
      show owedAfter (port s n) ⊆ _
      unfold owedAfter
      rw [owes]
      dsimp only
      rw [← owes]
      exact fun x mem => List.mem_filter.mpr ⟨within (List.mem_filter.mp mem).1, (List.mem_filter.mp mem).2⟩

theorem sendsAt_settle (s : State) (n : Nat) : SendsAt n s (settle s n) := by
  have pumped := sendsAt_pumpPort s n
  unfold settle
  dsimp only
  split
  · exact pumped
  · refine pumped.trans (SendsAt.trans ?_ (sendsAt_returnCredits ..))
    split
    · exact sendsAt_wireFlit ..
    · exact .refl ..

/-- A port that carries flits sends at least one as it settles. -/
theorem wire_settle {s : State} {n : Nat} (runs : carries (port s n).st = true) : s.rhoa.wire.length < (settle s n).rhoa.wire.length := by
  have pumped := sendsAt_pumpPort s n
  have st : (port (pumpPort s n) n).st = (port s n).st := st_of_sendless (pumped.sends.port n)
  unfold settle
  dsimp only
  rw [st, runs, if_neg (by decide)]
  refine Nat.lt_of_lt_of_le ?_ (sendsAt_returnCredits ..).wire
  split
  · next same => rw [sendPlain, wire_wireFlit, same]; exact Nat.lt_succ_self _
  · next more => exact Nat.lt_of_le_of_ne pumped.wire fun same => more same.symm

/-- A port that carries flits and owes the places of a port that has trained owes none once it has settled. -/
theorem owed_settle {s : State} {n : Nat} (runs : carries (port s n).st = true) (within : (port s n).owed ⊆ fullPlaces) :
    (port (settle s n) n).owed = [] := by
  have pumped := sendsAt_pumpPort s n
  have st : (port (pumpPort s n) n).st = (port s n).st := st_of_sendless (pumped.sends.port n)
  unfold settle
  dsimp only
  rw [st, runs, if_neg (by decide)]
  refine owed_returnCredits (l := fullPlaces.dedup) (by decide +kernel) fun x mem => List.mem_dedup.mpr (within (pumped.owed ?_))
  split at mem
  · exact (sendsAt_wireFlit ..).owed mem
  · exact mem

/-! ### What a flit's header changes of a port (R335, R340) -/

/-- What a port shows of reception: neither sending nor a header changes it. -/
def received (p : Port) : Port :=
  { sendless p with acked := 0, replays := 0 }

/-- A step that neither takes a flit in nor changes how a port runs. -/
structure Hears (n : Nat) (s u : State) : Prop where
  port : received (port u n) = received (port s n)
  places : (Machine.port u n).rxPlaces = (Machine.port s n).rxPlaces
  rx : u.rhoa.rx = s.rhoa.rx
  counted : ∀ off, off % 0x1000 ≠ 0x100 → off % 0x1000 ≠ 0x180 → csrGet u off = csrGet s off

/-- The flits that a header's acknowledgement leaves to be confirmed. -/
def unconfirmed (s : State) (n : Nat) (b : List Byte) : List Held :=
  (port s n).replay.filter fun h => after16 (fieldAt h.bytes 0 2) (fieldAt b 2 2)

/-- The state once a header's acknowledgement has been taken. -/
def takeAck (s : State) (n : Nat) (b : List Byte) : State :=
  if (unconfirmed s n b).length = (port s n).replay.length then s else
  modPort s n fun p => { p with replay := unconfirmed s n b, acked := BitVec.ofNat 16 (fieldAt b 2 2), replays := 0, progress := s.ledger }

/-- The kind of places that a header's credits are for. -/
def creditKey (b : List Byte) : Nat :=
  flitField b 5 3 13 12 * 16 + (if flitField b 5 3 11 11 = 0 then 8 else flitField b 5 3 10 8)

/-- The state once a header's credits have been taken. -/
def takeCredit (s : State) (n : Nat) (b : List Byte) : State :=
  if flitField b 5 3 7 0 = 0 then s else
  modPort s n fun p => { p with credits := nset 0 p.credits (creditKey b) (nget 0 p.credits (creditKey b) + flitField b 5 3 7 0) }

theorem takeHeader_eq (s : State) (n : Nat) (b : List Byte) : takeHeader s n b = pumpPort (takeCredit (takeAck s n b) n b) n :=
  rfl

namespace Hears

variable {s u v : State} {n : Nat}

theorem refl (n : Nat) (s : State) : Hears n s s :=
  ⟨rfl, rfl, rfl, fun _ _ _ => rfl⟩

theorem trans (h : Hears n s u) (h' : Hears n u v) : Hears n s v :=
  ⟨h'.port.trans h.port, h'.places.trans h.places, h'.rx.trans h.rx, fun off a b => (h'.counted off a b).trans (h.counted off a b)⟩

theorem of_sends (h : SendsAt n s u) : Hears n s u :=
  ⟨congrArg (fun p : Port => { p with acked := 0, replays := 0 }) (h.sends.port n), h.places, h.sends.rx, h.counted⟩

theorem modPort (s : State) (n : Nat) {f : Port → Port} (hf : ∀ p, received (f p) = received p) (places : ∀ p, (f p).rxPlaces = p.rxPlaces) :
    Hears n s (modPort s n f) :=
  ⟨by rw [port_modPort_same, hf], by rw [port_modPort_same, places], rfl, fun _ _ _ => rfl⟩

theorem takeAck (s : State) (n : Nat) (b : List Byte) : Hears n s (takeAck s n b) := by
  unfold Machine.takeAck
  split
  · exact refl n s
  · exact modPort s n (fun _ => rfl) fun _ => rfl

theorem takeCredit (s : State) (n : Nat) (b : List Byte) : Hears n s (takeCredit s n b) := by
  unfold Machine.takeCredit
  split
  · exact refl n s
  · exact modPort s n (fun _ => rfl) fun _ => rfl

theorem takeHeader (s : State) (n : Nat) (b : List Byte) : Hears n s (takeHeader s n b) :=
  ((takeAck s n b).trans (takeCredit ..)).trans (of_sends (sendsAt_pumpPort _ n))

theorem expect (h : Hears n s u) : (Machine.port u n).expect = (Machine.port s n).expect := (congrArg Port.expect h.port :)

end Hears

theorem placeFor_congr {p q : Port} (h : p.rxPlaces = q.rxPlaces) (vc cls : Nat) : placeFor p vc cls = placeFor q vc cls := by
  unfold placeFor
  rw [h]

/-! ### Ports that retrain or go DOWN (R336, R338) -/

theorem sendless_sendFlit (s : State) (via : Nat) (b : List Byte) (n : Nat) : sendless (port (sendFlit s via b) n) = sendless (port s n) := by
  unfold sendFlit
  split
  · rfl
  · split
    · exact (Sends.rlCount s via 1 (by decide)).port n
    · next m _ =>
      refine (Sends.trans (Sends.modPort s m ?_) (sendsAt_pumpPort _ m).sends).port n
      exact fun _ => rfl

theorem sendless_emitRecord (s : State) (rec_ : List Byte) (irq : Bool) (n : Nat) : sendless (port (emitRecord s rec_ irq) n) = sendless (port s n) := by
  unfold emitRecord
  split
  · split
    · rw [port_congr (ghDeliver_rhoa ..)]
    · rfl
  · exact sendless_sendFlit ..

theorem sendless_reportFault (s : State) (source code detail c lid team handle n : Nat) :
    sendless (port (reportFault s source code detail c lid team handle) n) = sendless (port s n) := by
  unfold reportFault
  dsimp only
  rw [sendless_emitRecord, port_congr (dbFault_rhoa ..)]
  rfl

theorem st_goDown (s : State) (n : Nat) : (port (goDown s n) n).st = .down := by
  have down := port_modPort_same s n fun p => { p with st := .down, lanes := 0, wasUp := false, failed := true }
  unfold goDown
  dsimp only
  split
  · rw [down]
  · rw [port_congr (rlCount_rhoa ..), port_modPort_same]
    refine (st_of_sendless (sendless_reportFault ..)).trans ?_
    rw [port_congr (recordFirst_rhoa ..), down]

/-- A port that retrains trains, or goes DOWN with the fifth retrain within a second (R338). -/
theorem st_beginRetrain (s : State) (n : Nat) : (port (beginRetrain s n) n).st =
    if 4 ≤ ((port s n).retrains.filter fun t => decide (s.ledger.toNat < t.toNat + 1000000000)).length then .down else .training := by
  unfold beginRetrain
  dsimp only
  split
  · next five => rw [st_goDown]; exact (if_pos five).symm
  · next fewer => rw [port_modPort_same]; exact (if_neg fewer).symm

theorem stopped_beginRetrain (s : State) (n : Nat) : (port (beginRetrain s n) n).st = .training ∨ (port (beginRetrain s n) n).st = .down := by
  rw [st_beginRetrain]
  split
  · exact .inr rfl
  · exact .inl rfl

/-! ### A flit that is closed with its CRC (R333) -/

theorem crc64Bits_lt (n : Nat) {c : Nat} (h : c < 2 ^ 64) : crc64Bits n c < 2 ^ 64 := by
  induction n generalizing c with
  | zero => exact h
  | succ n ih =>
    refine ih ?_
    split
    · exact Nat.xor_lt_two_pow (Nat.mod_lt _ (by decide)) (by decide)
    · exact Nat.mod_lt _ (by decide)

theorem crc64_lt (b : List Byte) : crc64 b < 2 ^ 64 := by
  suffices folded : ∀ c, c < 2 ^ 64 → b.foldl (fun c b => crc64Bits 8 (c ^^^ (b.toNat * 2 ^ 56))) c < 2 ^ 64 from
    Nat.xor_lt_two_pow (folded _ (by decide)) (by decide)
  induction b with
  | nil => exact fun c h => h
  | cons x xs ih => exact fun c h => ih _ (crc64Bits_lt 8 (Nat.xor_lt_two_pow h (by have := x.isLt; omega)))

/-- A flit of 248 bytes with its CRC. -/
def closed (b : List Byte) : List Byte :=
  b ++ leBytes 8 (crc64 b)

theorem closed_length {b : List Byte} (size : b.length = 248) : (closed b).length = 256 := by
  rw [closed, List.length_append, leBytes_length, size]

theorem crcOk_closed {b : List Byte} (size : b.length = 248) : crcOk (closed b) = true := by
  have stored : fieldAt (closed b) 248 8 = crc64 b := by
    rw [fieldAt, closed, ← size, List.drop_left, List.take_of_length_le (leBytes_length ..).le, leNat_leBytes]
    exact Nat.mod_eq_of_lt (crc64_lt b)
  have shown : (closed b).take 248 = b := by rw [closed, ← size, List.take_left]
  exact decide_eq_true (by rw [shown, stored])

theorem leBytes_leNat (b : List Byte) : leBytes b.length (leNat b) = b := by
  induction b with
  | nil => rfl
  | cons x xs ih =>
    rw [List.length_cons, leBytes, leNat]
    have low : BitVec.ofNat 8 (x.toNat + 256 * leNat xs) = x :=
      BitVec.eq_of_toNat_eq (by rw [BitVec.toNat_ofNat]; have := x.isLt; omega)
    have high : (x.toNat + 256 * leNat xs) / 256 = leNat xs := by have := x.isLt; omega
    rw [low, high, ih]

/-- The bytes of a flit come off the wire as they went on. -/
theorem flitOf_flitBits {b : List Byte} (size : b.length = 256) : flitOf (flitBits b) = b := by
  have fits : leNat b < 2 ^ 2048 := by
    have := leNat_lt b
    rw [size] at this
    exact this.trans_eq (Nat.pow_mul 2 8 256).symm
  rw [flitOf, flitBits, BitVec.toNat_ofNat, Nat.mod_eq_of_lt fits, ← size, leBytes_leNat]

/-- A port without a place for a flit in its turn retrains (R340). -/
theorem flitReceive_noPlace {s : State} {n : PortIx} {flit : BitVec 2048} (runs : carries (port s n).st = true)
    (good : crcOk (flitOf flit) = true) (numbered : 1 < flitType (flitOf flit)) (order : fieldAt (flitOf flit) 0 2 = (port s n).expect.toNat)
    (full : placeFor (port s n) (flitVc (flitOf flit)) (7 - flitTtl (flitOf flit)) = none) :
    exec (.flitReceive n flit) s = .next (beginRetrain (takeHeader s n (flitOf flit)) n) := by
  have heard := Hears.takeHeader s n (flitOf flit)
  have carried : (!carries (port s n).st) = false := by rw [runs]; rfl
  have sound : (!crcOk (flitOf flit)) = false := by rw [good]; rfl
  refine (show _ = execFlitReceive n flit s from rfl).trans ?_
  unfold execFlitReceive
  dsimp only
  rw [carried, sound, if_neg Bool.false_ne_true, if_neg Bool.false_ne_true, if_neg (Nat.not_le.mpr numbered), heard.expect, if_neg (not_not.mpr order),
    placeFor_congr heard.places, full]

/-! ### The report of a port that goes DOWN can come back to the device's own reception queue (R338, R340, R374) -/

/-- A numbered flit of the BULK channel, without its CRC. -/
def bulkBytes : List Byte :=
  leBytes 4 0 ++ [2] ++ List.replicate 243 0

theorem bulkBytes_length : bulkBytes.length = 248 := by
  simp only [bulkBytes, List.length_append, leBytes_length, List.length_replicate, List.length_singleton]

/-- A port that has no place for the flit and has retrained four times within the second; the Gatehouse's ID is the device's own. -/
def crowdedState : State :=
  { csr := [(0x6418, 5), (0x07C0000, 5)],
    rhoa := { ports := [(0, { st := .up, wasUp := true, retrains := [0, 0, 0, 0], rxPlaces := [(7, 4), (8, 224)] })] } }

theorem placeFor_crowdedState : placeFor (port crowdedState 0) (flitVc (closed bulkBytes)) (7 - flitTtl (closed bulkBytes)) = none := by
  decide +kernel

/-- The state that the flit leaves. -/
def crowdedAfter : State :=
  beginRetrain (takeHeader crowdedState 0 (closed bulkBytes)) 0

theorem exec_bulkFlit : exec (.flitReceive 0 (flitBits (closed bulkBytes))) crowdedState = .next crowdedAfter := by
  have bytes := flitOf_flitBits (closed_length bulkBytes_length)
  have run := flitReceive_noPlace (s := crowdedState) (n := 0) (flit := flitBits (closed bulkBytes))
  rw [bytes] at run
  exact run (by decide +kernel) (crcOk_closed bulkBytes_length) (by decide +kernel) (by decide +kernel) placeFor_crowdedState

theorem rx_crowdedAfter : crowdedAfter.rhoa.rx.length = 1 := by
  decide +kernel

/-- Refutes O37: the port goes DOWN, and the record that reports it can be a flit of the device to itself. -/
theorem not_linkTakesFlitsInOrder : ¬ Obligations.LinkTakesFlitsInOrder := by
  unfold Obligations.LinkTakesFlitsInOrder
  rintro ⟨takes, -⟩
  obtain ⟨-, -, -, -, inOrder⟩ := takes crowdedState 0 (flitBits (closed bulkBytes))
  rw [flitOf_flitBits (closed_length bulkBytes_length)] at inOrder
  obtain ⟨-, noPlace⟩ := inOrder (by decide +kernel) (crcOk_closed bulkBytes_length) (by decide +kernel) (by decide +kernel)
  obtain ⟨u, ran, same, -⟩ := noPlace placeFor_crowdedState
  obtain rfl := Host.Outcome.next.inj (exec_bulkFlit.symm.trans ran)
  have one := rx_crowdedAfter
  rw [same] at one
  exact absurd one (by decide)

/-! ### A port that has trained (R336, R337, R340) -/

/-- A port as its training leaves it. -/
def trainedPort (s : State) (lanes : BitVec 2) (one : Bool) (p : Port) : Port :=
  { p with
    st := if one then .up1 else .up, lanes := if lanes = 3 && p.spared then 1 else lanes, spared := one, wasUp := true,
    seq := 0, acked := 0xFFFF, expect := 0, nakSent := false, replay := [], queue := p.replay ++ p.queue,
    resend := p.resend + p.replay.length, credits := [], owed := fullPlaces, rxPlaces := [], progress := s.ledger, replays := 0,
    bulkWait := 0,
    forward := p.forward.map fun h => { h with place := 64 } }

/-- Whether a port comes up on one lane. -/
def oneLane (s : State) (n : Nat) (lanes : BitVec 2) : Bool :=
  lanes ≠ 3 || (port s n).spared

/-- The device once a port has trained, with the flits that it has taken off their places. -/
def trained (s : State) (n : Nat) (lanes : BitVec 2) : State :=
  let s1 := modPort s n (trainedPort s lanes (oneLane s n lanes))
  { s1 with rhoa := { s1.rhoa with rx := s1.rhoa.rx.map fun h => if h.port = n then { h with place := 64 } else h } }

/-- Training on one lane is reported. -/
def trainingNoted (s : State) (n : Nat) (lanes : BitVec 2) : State :=
  if lanes ≠ 3 then
    reportOstler (draw (rlCount (trained s n lanes) n 5 1)).2 1021 ((draw (rlCount (trained s n lanes) n 5 1)).1 % 2 ^ 16) n 0xFF
  else trained s n lanes

theorem rhoa_trainingNoted (s : State) (n : Nat) (lanes : BitVec 2) : (trainingNoted s n lanes).rhoa = (trained s n lanes).rhoa := by
  unfold trainingNoted
  split
  · exact (draw_rhoa _).trans (rlCount_rhoa ..)
  · rfl

theorem port_trainingNoted (s : State) (n : Nat) (lanes : BitVec 2) :
    port (trainingNoted s n lanes) n = trainedPort s lanes (oneLane s n lanes) (port s n) :=
  (port_congr (rhoa_trainingNoted ..) n).trans (port_modPort_same ..)

theorem linkTrained_run {s : State} {n : PortIx} {lanes : BitVec 2} (trains : (port s n).st = .training) (some_ : lanes ≠ 0)
    (there : portThere s n = true) : exec (.linkTrained n lanes) s = .next (settle (trainingNoted s n lanes) n) := by
  have acts : (decide ((port s n).st ≠ .training) || decide (lanes = 0) || !portThere s n) = false := by
    rw [trains, there, decide_eq_false some_]
    rfl
  refine (show _ = execLinkTrained n lanes s from rfl).trans ?_
  unfold execLinkTrained
  dsimp only
  rw [acts, if_neg Bool.false_ne_true]
  rfl

theorem linkTrained_still {s : State} {n : PortIx} {lanes : BitVec 2} (kept : (port s n).st ≠ .training ∨ lanes = 0 ∨ portThere s n = false) :
    exec (.linkTrained n lanes) s = .next s := by
  refine congrArg Host.Outcome.next (if_pos ?_)
  rcases kept with st | none_ | absent
  · rw [decide_eq_true st, Bool.true_or, Bool.true_or]
  · rw [decide_eq_true none_, Bool.or_true, Bool.true_or]
  · rw [absent, Bool.not_false, Bool.or_true]

/-- A port that has trained runs, and has sent a flit. -/
theorem linkTrained_completes {s : State} {n : PortIx} {lanes : BitVec 2} (trains : (port s n).st = .training) (some_ : lanes ≠ 0)
    (there : portThere s n = true) : Completes (.linkTrained n lanes) s fun u =>
      (port u n).st = (if lanes = 3 ∧ (port s n).spared = false then .up else .up1) ∧
      (port u n).lanes = (if lanes = 3 ∧ (port s n).spared = true then 1 else lanes) ∧ (port u n).expect = 0 ∧ (port u n).rxPlaces = [] ∧
      (port u n).owed = [] ∧ (port u n).queue.length + (port u n).replay.length = (port s n).queue.length + (port s n).replay.length ∧
      s.rhoa.wire.length < u.rhoa.wire.length := by
  have run := linkTrained_run trains some_ there
  have here := port_trainingNoted s n lanes
  have wire : (trainingNoted s n lanes).rhoa.wire = s.rhoa.wire := (congrArg Rhoa.wire (rhoa_trainingNoted s n lanes)).trans rfl
  generalize trainingNoted s n lanes = v at run here wire
  have settled := sendsAt_settle v n
  have same := settled.sends.port n
  have st : (port v n).st = if lanes = 3 ∧ (port s n).spared = false then .up else .up1 := by
    rw [here, trainedPort, oneLane]
    by_cases three : lanes = 3 <;> cases (port s n).spared <;> simp [three]
  have lane : (port v n).lanes = if lanes = 3 ∧ (port s n).spared = true then 1 else lanes := by
    rw [here, trainedPort]
    by_cases three : lanes = 3 <;> cases (port s n).spared <;> simp [three]
  have runs : carries (port v n).st = true := by
    rw [st]
    split
    · rfl
    · rfl
  have expect : (port v n).expect = 0 := by rw [here, trainedPort]
  have places : (port v n).rxPlaces = [] := by rw [here, trainedPort]
  have owes : (port v n).owed = fullPlaces := by rw [here, trainedPort]
  have held : (port v n).queue.length + (port v n).replay.length = (port s n).queue.length + (port s n).replay.length := by
    rw [here]
    simp only [trainedPort, List.length_append, List.length_nil]
    omega
  have sent := wire_settle runs
  rw [wire] at sent
  exact completes_of run ⟨(st_of_sendless same).trans st, (congrArg Port.lanes same :).trans lane, (congrArg Port.expect same :).trans expect,
    settled.places.trans places, owed_settle runs (owes ▸ List.Subset.refl _), settled.held.trans held, sent⟩

/-- A port that has trained for 10 ms without success goes DOWN (R337). -/
theorem trainingTimeout_down {s : State} {n : PortIx} (trains : (port s n).st = .training) (late : (port s n).trainAt.toNat + 10000000 ≤ now s) :
    Completes (.trainingTimeout n) s fun u => (port u n).st = .down := by
  have acts : (decide ((port s n).st = .training) && decide ((port s n).trainAt.toNat + 10000000 ≤ now s)) = true := by
    rw [decide_eq_true trains, decide_eq_true late]
    rfl
  exact completes_of (congrArg Host.Outcome.next (if_pos acts)) (st_goDown ..)

theorem trainingTimeout_still {s : State} {n : PortIx} (kept : (port s n).st ≠ .training ∨ now s < (port s n).trainAt.toNat + 10000000) :
    Completes (.trainingTimeout n) s fun u => u = s := by
  have waits : (decide ((port s n).st = .training) && decide ((port s n).trainAt.toNat + 10000000 ≤ now s)) = false := by
    rcases kept with st | early
    · rw [decide_eq_false st, Bool.false_and]
    · rw [decide_eq_false (Nat.not_le.mpr early), Bool.and_false]
  exact completes_of (congrArg Host.Outcome.next (if_neg (ne_true_of_eq_false waits))) rfl

/-! ### Flits that a port discards or passes on (R342, R343) -/

/-- A flit that a port discards is counted. -/
theorem csrGet_lost (s : State) (n : Nat) :
    csrGet (rlCount s n 6 1) (0x0700130 + n * 0x1000) = csrGet s (0x0700130 + n * 0x1000) + 1 := by
  have place : 0x0700130 + n * 0x1000 = 0x0700100 + n * 0x1000 + 8 * 6 := by omega
  rw [place]
  exact csrGet_bump_same s 6 (by omega)

/-- A place that is freed: the credit for it may go out at once. -/
theorem freePlace_cases (s : State) (n place : Nat) : freePlace s n place = s ∨ ∃ v, SendsAt n v (freePlace s n place) ∧ v.csr = s.csr ∧
    (∀ m, (port v m).queue = (port s m).queue ∧ (port v m).replay = (port s m).replay) := by
  unfold freePlace
  split
  · exact .inl rfl
  · refine .inr ⟨_, sendsAt_settle _ n, rfl, fun m => ?_⟩
    rw [port_modPort]
    split
    · next here => rw [here]; exact ⟨rfl, rfl⟩
    · exact ⟨rfl, rfl⟩

theorem csrGet_freePlace (s : State) (n place : Nat) {off : Nat} (a : off % 0x1000 ≠ 0x100) (b : off % 0x1000 ≠ 0x180) :
    csrGet (freePlace s n place) off = csrGet s off := by
  rcases freePlace_cases s n place with same | ⟨v, sent, csr, -⟩
  · rw [same]
  · exact (sent.counted off a b).trans (csrGet_congr csr off)

/-- A flit waits at a port, or has been sent and waits to be confirmed. -/
def Waits (s : State) (m : Nat) (b : List Byte) : Prop :=
  (∃ y ∈ (port s m).queue, y.bytes = b) ∨ ∃ y ∈ (port s m).replay, y.bytes.drop 2 = b.drop 2

theorem Waits.of_sendsAt {s u : State} {n m : Nat} {b : List Byte} (waits : Waits s m b) (h : SendsAt n s u) : Waits u m b := by
  by_cases here : m = n
  · subst here
    rcases waits with ⟨y, mem, rfl⟩ | ⟨y, mem, same⟩
    · rcases h.queued y mem with mem | ⟨z, mem, same⟩
      · exact .inl ⟨y, mem, rfl⟩
      · exact .inr ⟨z, mem, same⟩
    · exact .inr ⟨y, h.replayed y mem, same⟩
  · rw [Waits, h.other m here]
    exact waits

theorem Waits.freePlace {s : State} {m : Nat} {b : List Byte} (waits : Waits s m b) (n place : Nat) : Waits (freePlace s n place) m b := by
  rcases freePlace_cases s n place with same | ⟨v, sent, -, held⟩
  · rw [same]
    exact waits
  · refine Waits.of_sendsAt ?_ sent
    rw [Waits, (held m).1, (held m).2]
    exact waits

theorem routePort_congr {s u : State} (st : ∀ n, (port u n).st = (port s n).st) (csr : u.csr = s.csr) (dst src : Nat) :
    routePort u dst src = routePort s dst src := by
  have up (mask : Nat) : upPorts u mask = upPorts s mask := by
    unfold upPorts
    simp only [st]
  unfold routePort
  simp only [up, csrGet_congr csr]

/-- The port once the flit at the head of its forwarding queue has left. -/
def flitTaken (s : State) (n : Nat) (hs : List Held) : State :=
  modPort s n fun p => { p with forward := hs }

/-- The flit as it goes on: one hop nearer its end. -/
def forwarded (h : Held) : List Byte :=
  putBytes h.bytes 14 (leBytes 1 (flitTtl h.bytes - 1))

/-- The device once a flit has been handed to port m. -/
def handedOn (s : State) (n m : Nat) (h : Held) : State :=
  modPort s m fun p => { p with queue := p.queue ++ [⟨forwarded h, h.at_, n, 64⟩] }

theorem route_flitTaken (s : State) (n : Nat) (hs : List Held) (dst src : Nat) : routePort (flitTaken s n hs) dst src = routePort s dst src := by
  refine routePort_congr (s := s) (u := flitTaken s n hs) (fun m => ?_) rfl dst src
  rw [flitTaken, port_modPort]
  split
  · next here => rw [here]
  · rfl

/-- A flit at its last hop, or without a route, is discarded. -/
theorem flitForward_discards {s : State} {n : PortIx} {h : Held} {hs : List Held} (first : (port s n).forward = h :: hs)
    (ends : flitTtl h.bytes = 0 ∨ routePort s (flitDst (forwarded h)) (flitSrc (forwarded h)) = none) :
    exec (.flitForward n) s = .next (freePlace (rlCount (flitTaken s n hs) n 6 1) n h.place) := by
  have none_ : flitTtl h.bytes = 0 ∨ routePort (flitTaken s n hs) (flitDst (forwarded h)) (flitSrc (forwarded h)) = none := by
    rwa [route_flitTaken]
  refine (show _ = execFlitForward n s from rfl).trans ?_
  unfold execFlitForward
  rw [first]
  dsimp only
  by_cases last : flitTtl h.bytes = 0
  · rw [if_pos last]
    rfl
  · have gone := none_.resolve_left last
    unfold forwarded flitTaken at gone
    rw [if_neg last, gone]
    rfl

theorem flitForward_passes {s : State} {n : PortIx} {h : Held} {hs : List Held} (first : (port s n).forward = h :: hs)
    (more : flitTtl h.bytes ≠ 0) {m : Nat} (route : routePort s (flitDst (forwarded h)) (flitSrc (forwarded h)) = some m) :
    exec (.flitForward n) s = .next (freePlace (pumpPort (handedOn (flitTaken s n hs) n m h) m) n h.place) := by
  have goes : routePort (flitTaken s n hs) (flitDst (forwarded h)) (flitSrc (forwarded h)) = some m := by rwa [route_flitTaken]
  unfold forwarded flitTaken at goes
  refine (show _ = execFlitForward n s from rfl).trans ?_
  unfold execFlitForward
  rw [first]
  dsimp only
  rw [if_neg more, goes]
  rfl

theorem forward_flitTaken (s : State) (n : Nat) (hs : List Held) : (port (flitTaken s n hs) n).forward = hs := by
  rw [flitTaken, port_modPort_same]

theorem forward_of_sendless {p q : Port} (h : sendless p = sendless q) : p.forward = q.forward := (congrArg Port.forward h :)

theorem flitForward_lost {s : State} {n : PortIx} {h : Held} {hs : List Held} (first : (port s n).forward = h :: hs)
    (ends : flitTtl h.bytes = 0 ∨ routePort s (flitDst (forwarded h)) (flitSrc (forwarded h)) = none) :
    Completes (.flitForward n) s fun u => (port u n).forward = hs ∧
      csrGet u (0x0700130 + n.val * 0x1000) = csrGet s (0x0700130 + n.val * 0x1000) + 1 := by
  refine completes_of (flitForward_discards first ends) ⟨?_, ?_⟩
  · refine (forward_of_sendless ((Sends.freePlace ..).port n)).trans ?_
    rw [port_congr (rlCount_rhoa ..), forward_flitTaken]
  · rw [csrGet_freePlace _ _ _ (by omega) (by omega)]
    exact csrGet_lost ..

theorem flitForward_completes {s : State} {n : PortIx} {h : Held} {hs : List Held} (first : (port s n).forward = h :: hs)
    (more : flitTtl h.bytes ≠ 0) {m : Nat} (route : routePort s (flitDst (forwarded h)) (flitSrc (forwarded h)) = some m) :
    Completes (.flitForward n) s fun u => (port u n).forward = hs ∧ Waits u m (forwarded h) := by
  have handed : Sends (flitTaken s n hs) (handedOn (flitTaken s n hs) n m h) := by
    refine Sends.modPort _ m ?_
    exact fun _ => rfl
  refine completes_of (flitForward_passes first more route) ⟨?_, ?_⟩
  · refine (forward_of_sendless (((handed.trans (sendsAt_pumpPort _ m).sends).trans (Sends.freePlace ..)).port n)).trans ?_
    exact forward_flitTaken ..
  · refine Waits.freePlace (Waits.of_sendsAt ?_ (sendsAt_pumpPort _ m)) n _
    refine .inl ⟨⟨forwarded h, h.at_, n, 64⟩, ?_, rfl⟩
    rw [handedOn, port_modPort_same]
    exact List.mem_append_right _ (List.mem_singleton_self _)

/-! ### A BEACON goes out (R357) -/

theorem flitType_of_drop {b c : List Byte} (h : b.drop 2 = c.drop 2) : flitType b = flitType c := by
  have at_ (x : List Byte) : x.drop 4 = (x.drop 2).drop 2 := by rw [List.drop_drop]
  rw [flitType, flitField, fieldAt, at_, h, ← at_]
  rfl

/-- The BEACON of a port, for its neighbour. -/
def beaconOf (s : State) (n : Nat) : List Byte :=
  mkFlit s 0xB 3 (port s n).neighbor.toNat 0 0 []

/-- A flit that the device makes has the type that it is given. -/
theorem flitType_mkFlit (s : State) {type vc : Nat} (ht : type < 16) (dst dseq b15 : Nat) (body : List Byte) :
    flitType (mkFlit s type vc dst dseq b15 body) = type := by
  have head (rest : List Byte) : ((leBytes 4 0 ++ (leBytes 1 (type + 16 * vc) ++ rest)).drop 4).take 1 = leBytes 1 (type + 16 * vc) := by
    rw [List.drop_left' (leBytes_length ..), List.take_left' (leBytes_length ..)]
  simp only [flitType, flitField, fieldAt, mkFlit, List.append_assoc]
  rw [head, leNat_leBytes, bitsOf]
  omega

theorem flitType_beaconOf (s : State) (n : Nat) : flitType (beaconOf s n) = 0xB :=
  flitType_mkFlit s (by decide) ..

/-- The device once a port has put a BEACON in its queue. -/
def beaconQueued (s : State) (n : Nat) : State :=
  modPort s n fun q => { q with beaconTx := s.ledger, queue := q.queue ++ [⟨beaconOf s n, s.ledger, n, 64⟩] }

/-- A port has a BEACON due. -/
def beaconDue (s : State) (n : Nat) : Bool :=
  !(!carries (port s n).st || decide (now s < (port s n).beaconTx.toNat + 1000))

theorem beaconSend_run {s : State} {n : PortIx} (due : beaconDue s n = true) : exec (.beaconSend n) s = .next (pumpPort (beaconQueued s n) n) :=
  congrArg Host.Outcome.next (if_neg (ne_true_of_eq_false (Bool.not_eq_true' _ ▸ due)))

theorem beaconSend_still {s : State} {n : PortIx} (idle : beaconDue s n = false) : exec (.beaconSend n) s = .next s :=
  congrArg Host.Outcome.next (if_pos (Bool.not_eq_false' _ ▸ idle))

theorem beaconSend_completes {s : State} {n : PortIx} (due : beaconDue s n = true) :
    Completes (.beaconSend n) s fun u => (port u n).beaconTx = s.ledger ∧
      ((∃ y ∈ (port u n).queue, flitType y.bytes = 0xB) ∨ ∃ y ∈ (port u n).replay, flitType y.bytes = 0xB) := by
  have pumped := sendsAt_pumpPort (beaconQueued s n) n
  have here : port (beaconQueued s n) n = { port s n with
      beaconTx := s.ledger, queue := (port s n).queue ++ [⟨beaconOf s n, s.ledger, n, 64⟩] } := port_modPort_same ..
  have queued : Waits (beaconQueued s n) n (beaconOf s n) := by
    refine .inl ⟨⟨beaconOf s n, s.ledger, n, 64⟩, ?_, rfl⟩
    rw [here]
    exact List.mem_append_right _ (List.mem_singleton_self _)
  have sent : (port (pumpPort (beaconQueued s n) n) n).beaconTx = (port (beaconQueued s n) n).beaconTx :=
    (congrArg Port.beaconTx (pumped.sends.port n) :)
  refine completes_of (beaconSend_run due) ⟨?_, ?_⟩
  · rw [sent, here]
  · rcases queued.of_sendsAt pumped with ⟨y, mem, same⟩ | ⟨y, mem, same⟩
    · exact .inl ⟨y, mem, same ▸ flitType_beaconOf s n⟩
    · exact .inr ⟨y, mem, (flitType_of_drop same).trans (flitType_beaconOf s n)⟩

/-! ### A flit that a port has held for too long (R343) -/

/-- All the flits that a port holds: those to be sent, to be forwarded and to be confirmed, and those received. -/
def heldFlits (s : State) (n : PortIx) : List Held :=
  (port s n).queue ++ (port s n).forward ++ (port s n).replay ++ s.rhoa.rx.filter fun h => h.port = n.val

theorem flitLifetime_still {s : State} {n : PortIx} {i : Nat} (kept : ∀ h, (heldFlits s n)[i]? = some h → now s ≤ h.at_.toNat + 100000) :
    Completes (.flitLifetimeExpiry n i) s fun u => u = s := by
  refine completes_of ((show _ = execFlitLifetimeExpiry n i s from rfl).trans ?_) rfl
  unfold execFlitLifetimeExpiry
  dsimp only
  unfold heldFlits at kept
  split
  · rfl
  · next h lies => rw [if_pos (kept h lies)]

/-- The flit at place i of those that a port holds is discarded. -/
def lifetimeEnded (s : State) (n i : Nat) (h : Held) : State :=
  let p := port s n
  let a := p.queue.length
  let b := a + p.forward.length
  let d := b + p.replay.length
  let s1 := rlCount s n 6 1
  if i < a then modPort s1 n fun p => { p with
    queue := p.queue.eraseIdx i, resend := if i < p.resend then p.resend - 1 else p.resend }
  else if i < b then freePlace (modPort s1 n fun p => { p with forward := p.forward.eraseIdx (i - a) }) n h.place
  else if i < d then modPort s1 n fun p => { p with replay := p.replay.eraseIdx (i - b) }
  else freePlace { s1 with rhoa := { s1.rhoa with rx := s1.rhoa.rx.erase h } } n h.place

theorem flitLifetime_run {s : State} {n : PortIx} {i : Nat} {h : Held} (lies : (heldFlits s n)[i]? = some h) (late : h.at_.toNat + 100000 < now s) :
    exec (.flitLifetimeExpiry n i) s = .next (lifetimeEnded s n i h) := by
  refine (show _ = execFlitLifetimeExpiry n i s from rfl).trans ?_
  unfold execFlitLifetimeExpiry
  dsimp only
  unfold heldFlits at lies
  rw [lies]
  dsimp only
  rw [if_neg (Nat.not_le.mpr late)]
  rfl

theorem port_rlCount (s : State) (n i k m : Nat) : port (rlCount s n i k) m = port s m :=
  port_congr (rlCount_rhoa ..) m

theorem csrGet_lifetimeEnded (s : State) (n : PortIx) (i : Nat) (h : Held) :
    csrGet (lifetimeEnded s n i h) (0x0700130 + n.val * 0x1000) = csrGet s (0x0700130 + n.val * 0x1000) + 1 := by
  have lost := csrGet_lost s n
  have freed (v : State) (place : Nat) : csrGet (freePlace v n place) (0x0700130 + n.val * 0x1000) = csrGet v (0x0700130 + n.val * 0x1000) :=
    csrGet_freePlace v n place (by omega) (by omega)
  unfold lifetimeEnded
  dsimp only
  split
  · exact lost
  split
  · exact (freed ..).trans lost
  split
  · exact lost
  · exact (freed ..).trans lost

theorem lifetimeEnded_queue {s : State} {n i : Nat} {h : Held} (lies : i < (port s n).queue.length) :
    (port (lifetimeEnded s n i h) n).queue = (port s n).queue.eraseIdx i ∧ (port (lifetimeEnded s n i h) n).forward = (port s n).forward := by
  rw [lifetimeEnded, if_pos lies, port_modPort_same, port_rlCount]
  exact ⟨rfl, rfl⟩

theorem lifetimeEnded_forward {s : State} {n k : Nat} {h : Held} (lies : k < (port s n).forward.length) :
    (port (lifetimeEnded s n ((port s n).queue.length + k) h) n).forward = (port s n).forward.eraseIdx k ∧
    (lifetimeEnded s n ((port s n).queue.length + k) h).rhoa.rx = s.rhoa.rx := by
  have rx : (rlCount s n 6 1).rhoa.rx = s.rhoa.rx := congrArg Rhoa.rx (rlCount_rhoa s n 6 1)
  rw [lifetimeEnded, if_neg (by omega), if_pos (by omega), Nat.add_sub_cancel_left]
  refine ⟨(forward_of_sendless ((Sends.freePlace ..).port n)).trans ?_, (Sends.freePlace ..).rx.trans ?_⟩
  · rw [port_modPort_same, port_rlCount]
  · exact rx

theorem lifetimeEnded_replay {s : State} {n k : Nat} {h : Held} (lies : k < (port s n).replay.length) :
    (port (lifetimeEnded s n ((port s n).queue.length + (port s n).forward.length + k) h) n).replay = (port s n).replay.eraseIdx k ∧
    (port (lifetimeEnded s n ((port s n).queue.length + (port s n).forward.length + k) h) n).queue = (port s n).queue ∧
    (lifetimeEnded s n ((port s n).queue.length + (port s n).forward.length + k) h).rhoa.rx = s.rhoa.rx := by
  have rx : (rlCount s n 6 1).rhoa.rx = s.rhoa.rx := congrArg Rhoa.rx (rlCount_rhoa s n 6 1)
  rw [lifetimeEnded, if_neg (by omega), if_neg (by omega), if_pos (by omega), Nat.add_sub_cancel_left, port_modPort_same, port_rlCount]
  exact ⟨rfl, rfl, rx⟩

theorem lifetimeEnded_rx {s : State} {n i : Nat} {h : Held} (lies : (port s n).queue.length + (port s n).forward.length + (port s n).replay.length ≤ i) :
    (lifetimeEnded s n i h).rhoa.rx = s.rhoa.rx.erase h ∧ (port (lifetimeEnded s n i h) n).forward = (port s n).forward := by
  rw [lifetimeEnded, if_neg (by omega), if_neg (by omega), if_neg (by omega)]
  refine ⟨(Sends.freePlace ..).rx.trans ?_, (forward_of_sendless ((Sends.freePlace ..).port n)).trans ?_⟩
  · rw [rlCount_rhoa]
  · exact congrArg Port.forward (port_rlCount s n 6 1 n)

/-! ### What the Ostler writes of a port's configuration (R337, R338) -/

/-- The retrains of a port within the last second. -/
def recentRetrains (s : State) (p : Port) : Nat :=
  (p.retrains.filter fun t => decide (s.ledger.toNat < t.toNat + 1000000000)).length

theorem port_beginRetrain {s : State} {n : Nat} (few : recentRetrains s (port s n) < 4) :
    (port (beginRetrain s n) n).st = .training ∧ (port (beginRetrain s n) n).spared = (port s n).spared := by
  have here (x : List W64) : port (rlCount (modPort s n fun p => { p with retrains := x }) n 4 1) n = { port s n with retrains := x } := by
    rw [port_rlCount, port_modPort_same]
  unfold beginRetrain
  dsimp only
  split
  · next many => exact absurd many (Nat.not_le.mpr few)
  · rw [port_modPort_same, here]
    exact ⟨rfl, rfl⟩

/-- A port as a write that asks for a retrain leaves it before it trains. -/
def clearedPort (p : Port) : Port :=
  { p with spared := false, failed := false, retrains := if p.failed then [] else p.retrains }

/-- The device before a write of a port's configuration takes effect at the port. -/
def cfgStarted (s : State) (n : Nat) (v : Nat) : State :=
  let s0 := csrPut s (0x0700008 + n * 0x1000) (BitVec.ofNat 64 (v % 4))
  if v / 4 % 2 = 1 then leaveDown (modPort s0 n fun p => { p with spared := false }) n else s0

theorem port_cfgStarted (s : State) (n v : Nat) : port (cfgStarted s n v) n = if v / 4 % 2 = 1 then clearedPort (port s n) else port s n := by
  have written : port (csrPut s (0x0700008 + n * 0x1000) (BitVec.ofNat 64 (v % 4))) n = port s n := rfl
  unfold cfgStarted
  dsimp only
  split
  · unfold leaveDown clearedPort
    rw [port_modPort_same, written]
    dsimp only
    cases failed : (port s n).failed with
    | false => rw [if_neg Bool.false_ne_true, if_neg Bool.false_ne_true, port_modPort_same, written, ← failed]
    | true => rw [if_pos rfl, if_pos rfl, port_modPort_same, port_modPort_same, written]
  · rfl

theorem writePortCfg_absent {s : State} {n : Nat} (absent : portThere s n = false) (v : Nat) : writePortCfg s n v = s :=
  if_pos (by rw [absent]; rfl)

theorem writePortCfg_eq {s : State} {n : PortIx} (there : portThere s n = true) (v : Nat) : writePortCfg s n v =
    if v % 2 = 0 then modPort (cfgStarted s n v) n fun p => { p with st := .disabled, lanes := 0, wasUp := false }
    else if (port (cfgStarted s n v) n).failed then modPort (cfgStarted s n v) n fun p => { p with st := .down, lanes := 0 }
    else if (port s n).st = .disabled then
      modPort (cfgStarted s n v) n fun p => { p with st := .training, lanes := 0, trainAt := s.ledger, neighbor := 0x7FFF }
    else if v / 4 % 2 = 1 then beginRetrain (cfgStarted s n v) n
    else cfgStarted s n v := by
  have acts : (!portThere s n || decide (48 ≤ n.val)) = false := by
    rw [there, decide_eq_false (Nat.not_le.mpr n.isLt)]
    rfl
  unfold writePortCfg
  rw [acts, if_neg Bool.false_ne_true]
  rfl

theorem writePortCfg_off {s : State} {n : PortIx} (there : portThere s n = true) {v : Nat} (off : v % 2 = 0) :
    (port (writePortCfg s n v) n).st = .disabled ∧ (port (writePortCfg s n v) n).lanes = 0 := by
  rw [writePortCfg_eq there, if_pos off, port_modPort_same]
  exact ⟨rfl, rfl⟩

theorem writePortCfg_failed {s : State} {n : PortIx} (there : portThere s n = true) {v : Nat} (on : v % 2 = 1) (plain : v / 4 % 2 = 0)
    (failed : (port s n).failed = true) : (port (writePortCfg s n v) n).st = .down := by
  have here : port (cfgStarted s n v) n = port s n := by rw [port_cfgStarted, if_neg (by omega)]
  rw [writePortCfg_eq there, if_neg (by omega), here, if_pos failed, port_modPort_same]

/-- A write that enables a port which has not failed, or asks for a retrain, leaves its failure behind. -/
theorem failed_cfgStarted {s : State} {n v : Nat} (clear : (port s n).failed = false ∨ v / 4 % 2 = 1) : (port (cfgStarted s n v) n).failed = false := by
  rw [port_cfgStarted]
  split
  · rfl
  · next plain => exact clear.resolve_right plain

theorem writePortCfg_enables {s : State} {n : PortIx} (there : portThere s n = true) {v : Nat} (on : v % 2 = 1)
    (clear : (port s n).failed = false ∨ v / 4 % 2 = 1) (was : (port s n).st = .disabled) :
    port (writePortCfg s n v) n = { port (cfgStarted s n v) n with st := .training, lanes := 0, trainAt := s.ledger, neighbor := 0x7FFF } := by
  rw [writePortCfg_eq there, if_neg (by omega), failed_cfgStarted clear, if_neg Bool.false_ne_true, if_pos was, port_modPort_same]

theorem writePortCfg_keeps {s : State} {n : PortIx} (there : portThere s n = true) {v : Nat} (on : v % 2 = 1) (plain : v / 4 % 2 = 0)
    (clear : (port s n).failed = false) (was : (port s n).st ≠ .disabled) :
    port (writePortCfg s n v) n = port s n ∧ (writePortCfg s n v).rhoa.wire = s.rhoa.wire := by
  rw [writePortCfg_eq there, if_neg (by omega), failed_cfgStarted (.inl clear), if_neg Bool.false_ne_true, if_neg was, if_neg (by omega)]
  refine ⟨by rw [port_cfgStarted, if_neg (by omega)], ?_⟩
  rw [cfgStarted, if_neg (by omega)]
  rfl

theorem writePortCfg_retrains {s : State} {n : PortIx} (there : portThere s n = true) {v : Nat} (on : v % 2 = 1) (asks : v / 4 % 2 = 1)
    (was : (port s n).st ≠ .disabled) : writePortCfg s n v = beginRetrain (cfgStarted s n v) n := by
  rw [writePortCfg_eq there, if_neg (by omega), failed_cfgStarted (.inr asks), if_neg Bool.false_ne_true, if_neg was, if_pos asks]

theorem ledger_cfgStarted (s : State) (n v : Nat) : (cfgStarted s n v).ledger = s.ledger := by
  unfold cfgStarted leaveDown
  dsimp only
  split
  · split
    · rfl
    · rfl
  · rfl

/-- The count of retrains begins anew when a port leaves DOWN (log 111). -/
theorem recent_cfgStarted {s : State} {n v : Nat} (asks : v / 4 % 2 = 1) :
    recentRetrains (cfgStarted s n v) (port (cfgStarted s n v) n) = if (port s n).failed then 0 else recentRetrains s (port s n) := by
  unfold recentRetrains
  rw [ledger_cfgStarted, port_cfgStarted, if_pos asks, clearedPort]
  dsimp only
  cases (port s n).failed with
  | false => rfl
  | true => rfl

theorem st_retrained {s : State} {n : PortIx} (there : portThere s n = true) {v : Nat} (on : v % 2 = 1) (asks : v / 4 % 2 = 1)
    (was : (port s n).st ≠ .disabled) :
    (port (writePortCfg s n v) n).st = if (port s n).failed = false ∧ 4 ≤ recentRetrains s (port s n) then .down else .training := by
  rw [writePortCfg_retrains there on asks was, st_beginRetrain]
  have recent := recent_cfgStarted (s := s) (n := n) asks
  unfold recentRetrains at recent
  rw [recent]
  unfold recentRetrains
  cases (port s n).failed with
  | false => simp only [Bool.false_eq_true, if_false, true_and]
  | true => rfl

theorem spared_retrained {s : State} {n : PortIx} (there : portThere s n = true) {v : Nat} (on : v % 2 = 1) (asks : v / 4 % 2 = 1)
    (go : (port s n).st = .disabled ∨ (port s n).failed = true ∨ recentRetrains s (port s n) < 4) :
    (port (writePortCfg s n v) n).st = .training ∧ (port (writePortCfg s n v) n).spared = false := by
  have cleared : (port (cfgStarted s n v) n).spared = false := by rw [port_cfgStarted, if_pos asks, clearedPort]
  by_cases was : (port s n).st = .disabled
  · rw [writePortCfg_enables there on (.inr asks) was]
    exact ⟨rfl, cleared⟩
  · have few : recentRetrains (cfgStarted s n v) (port (cfgStarted s n v) n) < 4 := by
      rw [recent_cfgStarted asks]
      rcases go.resolve_left was with failed | few
      · rw [failed, if_pos rfl]
        decide
      · split
        · decide
        · exact few
    rw [writePortCfg_retrains there on asks was]
    obtain ⟨st, spared⟩ := port_beginRetrain few
    exact ⟨st, spared.trans cleared⟩

theorem bitOf_zero_iff (x : Nat) (b : Bool) : bitOf x 0 = b ↔ x % 2 = b.toNat := by
  rw [bitOf, Nat.pow_zero, Nat.div_one]
  cases b with
  | false => simp
  | true => simp

theorem bitOf_two_iff (x : Nat) (b : Bool) : bitOf x 2 = b ↔ x / 4 % 2 = b.toNat := by
  rw [bitOf]
  cases b with
  | false => simp
  | true => simp

/-- The word that PORT_RETRAIN writes: what stands, with RETRAIN set. -/
def retrainWord (s : State) (n : Nat) : Nat :=
  (csrGet s (0x0700008 + n * 0x1000)).toNat % 4 + 4

theorem retrainWord_asks (s : State) (n : Nat) : retrainWord s n / 4 % 2 = 1 := by
  unfold retrainWord
  omega

theorem retrainWord_on (s : State) (n : Nat) : retrainWord s n % 2 = csrField s (0x0700008 + n * 0x1000) 0 0 := by
  rw [retrainWord, csrField, bitsOf, Nat.pow_zero, Nat.div_one]
  omega

/-- Settles O38, one kind of step at a time: training, forwarding, the lifetime of flits, the port's configuration, and BEACONs. -/
theorem linkPortsTrainAndForward : Obligations.LinkPortsTrainAndForward := by
  unfold Obligations.LinkPortsTrainAndForward
  intro s n
  refine ⟨fun lanes => ⟨linkTrained_completes, fun kept => completes_of (linkTrained_still kept) rfl⟩, trainingTimeout_down, trainingTimeout_still,
    ?_, ?_, ?_, ?_, ?_, ?_, ?_, ?_, ?_⟩
  · intro none_
    exact completes_of (congrArg Host.Outcome.next (by rw [none_])) rfl
  · intro h hs first
    exact ⟨flitForward_lost first, fun m more route => flitForward_completes first more route⟩
  · intro i h lies
    refine ⟨fun early => flitLifetime_still fun h' lies' => ?_, fun late => ?_⟩
    · obtain rfl := Option.some.inj (lies.symm.trans lies')
      exact early
    have lost := csrGet_lifetimeEnded s n i h
    have run := flitLifetime_run lies late
    refine ⟨fun below => ?_, fun k below at_ => ?_, fun k below at_ => ?_, fun above => ?_⟩
    · obtain ⟨queue, forward⟩ := lifetimeEnded_queue (h := h) below
      exact completes_of run ⟨queue, forward, lost⟩
    · subst at_
      obtain ⟨forward, rx⟩ := lifetimeEnded_forward (h := h) below
      exact completes_of run ⟨forward, rx, lost⟩
    · subst at_
      obtain ⟨replay, queue, rx⟩ := lifetimeEnded_replay (h := h) below
      exact completes_of run ⟨replay, queue, rx, lost⟩
    · obtain ⟨rx, forward⟩ := lifetimeEnded_rx (h := h) above
      exact completes_of run ⟨rx, forward, lost⟩
  · intro i none_
    exact flitLifetime_still fun h lies => absurd (none_.symm.trans lies) (by simp)
  · intro v there
    have run : exec (.portEnable n v) s = .next (writePortCfg s n v.toNat) := rfl
    refine ⟨fun off => ?_, fun on plain failed => ?_, fun on clear was => ?_, fun on plain clear was => ?_, fun on asks was => ?_⟩
    · exact completes_of run (writePortCfg_off there ((bitOf_zero_iff _ _).mp off))
    · exact completes_of run (writePortCfg_failed there ((bitOf_zero_iff _ _).mp on) ((bitOf_two_iff _ _).mp plain) failed)
    · have enabled := writePortCfg_enables there ((bitOf_zero_iff _ _).mp on) (clear.imp id (bitOf_two_iff _ _).mp) was
      exact completes_of run (by rw [enabled]; exact ⟨rfl, rfl⟩)
    · exact completes_of run (writePortCfg_keeps there ((bitOf_zero_iff _ _).mp on) ((bitOf_two_iff _ _).mp plain) clear was)
    · exact completes_of run (st_retrained there ((bitOf_zero_iff _ _).mp on) ((bitOf_two_iff _ _).mp asks) was)
  · intro there
    have run : exec (.portRetrain n) s = .next (writePortCfg s n (retrainWord s n)) := rfl
    have asks := retrainWord_asks s n
    have same := retrainWord_on s n
    refine ⟨fun off => ?_, fun on go => ?_, fun on was clear many => ?_⟩
    · exact completes_of run (writePortCfg_off there (same.trans off)).1
    · exact completes_of run (spared_retrained there (same.trans on) asks go)
    · refine completes_of run ((st_retrained there (same.trans on) asks was).trans (if_pos ⟨clear, many⟩))
  · intro absent
    exact ⟨completes_of (congrArg Host.Outcome.next (writePortCfg_absent absent _)) rfl,
      fun v => completes_of (congrArg Host.Outcome.next (writePortCfg_absent absent _)) rfl⟩
  · intro runs due
    refine beaconSend_completes ?_
    have late : ¬now s < (port s n).beaconTx.toNat + 1000 := Nat.not_lt.mpr due
    rw [beaconDue, runs, decide_eq_false late]
    rfl
  · intro idle
    refine completes_of (beaconSend_still ?_) rfl
    rw [beaconDue]
    rcases idle with idle | early
    · rw [idle]
      rfl
    · have early : now s < (port s n).beaconTx.toNat + 1000 := early
      rw [decide_eq_true early, Bool.or_true]
      rfl

end Sys2Proof.Machine
end

section
/-!
SUPPORT. The frame lemmas that the proofs of O51 and O53 rest on.
-/

namespace Sys2Proof.Machine

/-! ### The registers -/

@[simp] theorem vCsr_setGateSlot (s : State) (g : Nat) (x : GateSlot) :
    (setGateSlot s g x).vCsr = s.vCsr := by simp [setGateSlot]

@[simp] theorem vCsr_wipeSlot (s : State) (g : Nat) :
    (wipeSlot s g).vCsr = s.vCsr := by simp [wipeSlot, vCsr_eta]

@[simp] theorem wipeSlot_csr (s : State) (g : Nat) :
    (wipeSlot s g).csr = s.csr := (vCsr_def _).symm.trans ((vCsr_wipeSlot ..).trans (vCsr_def _))

/-! ### The Gatehouse -/

@[simp] theorem vGate_ite (c : Prop) [Decidable c] (a b : State) : (if c then a else b).vGate = if c then a.vGate else
      b.vGate := by
  split <;> rfl

@[simp] theorem vGate_csrPut (s : State) (off : Nat) (v : W64) :
    (csrPut s off v).vGate = s.vGate := by simp [csrPut, vGate_eta]

@[simp] theorem vGate_csrSetField (s : State) (off hi lo v : Nat) :
    (csrSetField s off hi lo v).vGate = s.vGate := by simp [csrSetField]

@[simp] theorem vGate_bumpBy (s : State) (off wrapOff wrapBit n : Nat) :
    (bumpBy s off wrapOff wrapBit n).vGate = s.vGate := by simp [bumpBy]

@[simp] theorem vGate_bump (s : State) (off wrapOff wrapBit : Nat) :
    (bump s off wrapOff wrapBit).vGate = s.vGate := by simp [bump]

@[simp] theorem vGate_trCount (s : State) (i : Nat) :
    (trCount s i).vGate = s.vGate := by simp [trCount]

@[simp] theorem vGate_dbStore (s : State) (type c : Nat) (payload : List Byte) :
    (dbStore s type c payload).vGate = s.vGate := by simp [dbStore, vGate_eta]

@[simp] theorem vGate_dbAppend (s : State) (type c : Nat) (payload : List Byte) :
    (dbAppend s type c payload).vGate = s.vGate := by simp [dbAppend, vGate_eta]

@[simp] theorem vGate_dbFault (s : State) (c code lid team handle : Nat) :
    (dbFault s c code lid team handle).vGate = s.vGate := by simp [dbFault]

@[simp] theorem vGate_reportOstler (s : State) (source code detail c : Nat) :
    (reportOstler s source code detail c).vGate = s.vGate := by simp [reportOstler, vGate_eta]

@[simp] theorem vGate_modTack (s : State) (f : Tack → Tack) :
    (modTack s f).vGate = s.vGate := by simp [modTack, vGate_eta]

@[simp] theorem vGate_setGateSlot (s : State) (g : Nat) (x : GateSlot) :
    (setGateSlot s g x).vGate = s.vGate := by simp [setGateSlot]

@[simp] theorem vGate_wipeSlot (s : State) (g : Nat) :
    (wipeSlot s g).vGate = s.vGate := by simp [wipeSlot, vGate_eta]

@[simp] theorem vGate_writeResult (s : State) (status reason code serial : Nat) :
    (writeResult s status reason code serial).vGate = s.vGate := by simp [writeResult]

@[simp] theorem vGate_denyRelease (s : State) (c reason serial : Nat) :
    (denyRelease s c reason serial).vGate = s.vGate := by simp [denyRelease]

@[simp] theorem vGate_smithyClear (s : State) :
    (smithyClear s).vGate = s.vGate := by simp [smithyClear, vGate_eta]

@[simp] theorem wipeSlot_gate (s : State) (g : Nat) :
    (wipeSlot s g).gate = s.gate := (vGate_def _).symm.trans ((vGate_wipeSlot ..).trans (vGate_def _))

@[simp] theorem denyRelease_gate (s : State) (c reason serial : Nat) :
    (denyRelease s c reason serial).gate = s.gate := (vGate_def _).symm.trans ((vGate_denyRelease ..).trans (vGate_def _))

@[simp] theorem smithyClear_gate (s : State) :
    (smithyClear s).gate = s.gate := (vGate_def _).symm.trans ((vGate_smithyClear ..).trans (vGate_def _))

/-! ### The Tack Room -/

@[simp] theorem vTack_recordFirst (s : State) (off v : Nat) :
    (recordFirst s off v).vTack = s.vTack := by simp [recordFirst]

@[simp] theorem vTack_hbmCount (s : State) (st i n : Nat) :
    (hbmCount s st i n).vTack = s.vTack := by simp [hbmCount]

@[simp] theorem vTack_grnCount (s : State) (i n : Nat) :
    (grnCount s i n).vTack = s.vTack := by simp [grnCount]

@[simp] theorem vTack_trCount (s : State) (i : Nat) :
    (trCount s i).vTack = s.vTack := by simp [trCount]

@[simp] theorem vTack_setStall (s : State) (p : Nat) (x : Stall) :
    (setStall s p x).vTack = s.vTack := by simp [setStall, vTack_eta]

@[simp] theorem vTack_modStall (s : State) (p : Nat) (f : Stall → Stall) :
    (modStall s p f).vTack = s.vTack := by simp [modStall]

@[simp] theorem vTack_setCtx (s : State) (c : Nat) (x : Ctx) :
    (setCtx s c x).vTack = s.vTack := by simp [setCtx, vTack_eta]

@[simp] theorem vTack_modCtx (s : State) (c : Nat) (f : Ctx → Ctx) :
    (modCtx s c f).vTack = s.vTack := by simp [modCtx]

@[simp] theorem vTack_modRec (s : State) (c : Nat) (f : Rec → Rec) :
    (modRec s c f).vTack = s.vTack := by simp [modRec, vTack_eta]

@[simp] theorem vTack_loftInvalidate (s : State) (f : Nat → Nat → LoftLine → Bool) :
    (loftInvalidate s f).vTack = s.vTack := by simp [loftInvalidate, vTack_eta]

@[simp] theorem vTack_raiseIrq (s : State) (fn vec : Nat) :
    (raiseIrq s fn vec).vTack = s.vTack := by simp [raiseIrq, vTack_eta]

@[simp] theorem vTack_ghRecord (s : State) (r : Nat) (rec_ : List Byte) (irq : Bool) (vf vfVec : Nat) :
    (ghRecord s r rec_ irq vf vfVec).vTack = s.vTack := by simp [ghRecord, vTack_eta]

@[simp] theorem vTack_ghNote (s : State) (ring : Nat) (rec_ : List Byte) :
    (ghNote s ring rec_).vTack = s.vTack := by
  unfold ghNote
  repeat' first
    | (simp [vTack_eta]; done)
    | (with_reducible refine (vTack_foldl _ ?_ _ _).trans ?_)
    | intro _
    | split
    | dsimp only

@[simp] theorem vTack_ghDeliver (s : State) (m : Nat) (rec_ : List Byte) (irq : Bool) :
    (ghDeliver s m rec_ irq).vTack = s.vTack := by simp [ghDeliver]

@[simp] theorem vTack_emitRecord (s : State) (rec_ : List Byte) (irq : Bool) :
    (emitRecord s rec_ irq).vTack = s.vTack := by
  unfold emitRecord
  repeat' split
  all_goals simp

@[simp] theorem vTack_reportFault (s : State) (source code detail c lid team handle : Nat) :
    (reportFault s source code detail c lid team handle).vTack = s.vTack := by simp [reportFault]

@[simp] theorem vTack_trigger (s : State) (c target : Nat) :
    (trigger s c target).vTack = s.vTack := by simp [trigger]

@[simp] theorem vTack_modRegion (s : State) (i : Nat) (f : Region → Region) :
    (modRegion s i f).vTack = s.vTack := by simp [modRegion, vTack_eta]

@[simp] theorem vTack_modSlot (s : State) (page : Nat) (f : Slot → Slot) :
    (modSlot s page f).vTack = s.vTack := by simp [modSlot, vTack_eta]

@[simp] theorem vTack_setGpoison (s : State) (g : Nat) (v : Bool) :
    (setGpoison s g v).vTack = s.vTack := by simp [setGpoison]

@[simp] theorem vTack_memFault (s : State) (g : Nat) (owner code retries : Nat) (slot : Bool) (own : Bool) :
    (memFault s g owner code retries slot own).vTack = s.vTack := by simp [memFault]

@[simp] theorem vTack_freeGranule (s : State) :
    (freeGranule s).2.vTack = s.vTack := by simp [freeGranule, vTack_eta]

@[simp] theorem vTack_putGranule (s : State) (g : Nat) (d : List Byte) (poison : Bool) :
    (putGranule s g d poison).vTack = s.vTack := by simp [putGranule, vTack_eta]

@[simp] theorem vTack_sendGranule (s : State) (g : Nat) (d : List Byte) (poison : Bool) (e : MemErr) (own : Bool) :
    (sendGranule s g d poison e own).vTack = s.vTack := by
  unfold sendGranule
  repeat' split
  all_goals simp [vTack_eta]

@[simp] theorem vTack_writeGranule (s : State) (g : Nat) (bs : List (Nat × Byte)) (poison : Bool) (e : MemErr) (own : Bool) :
    (writeGranule s g bs poison e own).vTack = s.vTack := by simp [writeGranule, vTack_eta]

@[simp] theorem vTack_storeBytes (s : State) (bs : List Host.Cell) (poison : Bool) (errs : MemErrs) (own : Bool) :
    (storeBytes s bs poison errs own).vTack = s.vTack := by simp [storeBytes]

@[simp] theorem vTack_writeResult (s : State) (status reason code serial : Nat) :
    (writeResult s status reason code serial).vTack = s.vTack := by simp [writeResult]

@[simp] theorem vTack_smithyClear (s : State) :
    (smithyClear s).vTack = s.vTack := by simp [smithyClear, vTack_eta]

@[simp] theorem vTack_writeBackLine (s : State) (key : Nat) (l : GLine) (errs : MemErrs) :
    (writeBackLine s key l errs).vTack = s.vTack := by
  unfold writeBackLine
  repeat' first
    | (simp [vTack_eta]; done)
    | (with_reducible refine (vTack_foldl _ ?_ _ _).trans ?_)
    | intro _
    | split
    | dsimp only

@[simp] theorem vTack_writeBackContext (s : State) (c : Nat) :
    (writeBackContext s c).vTack = s.vTack := by
  unfold writeBackContext
  repeat' first
    | (simp; done)
    | (with_reducible refine (vTack_foldl _ ?_ _ _).trans ?_)
    | intro _
    | split

@[simp] theorem vTack_sendCompletion (s : State) (c : Nat) (k : Packet) (status code detail : Nat) :
    (sendCompletion s c k status code detail).vTack = s.vTack := by simp [sendCompletion]

@[simp] theorem vTack_completeCmd (s : State) (c : Nat) (k : Packet) (status code detail : Nat) :
    (completeCmd s c k status code detail).vTack = s.vTack := by simp [completeCmd]

@[simp] theorem vTack_dbCommand (s : State) (c : Nat) (k : Packet) :
    (dbCommand s c k).vTack = s.vTack := by simp [dbCommand]

@[simp] theorem vTack_takePacket (s : State) (c : Nat) (k : Packet) :
    (takePacket s c k).vTack = s.vTack := by simp [takePacket]

@[simp] theorem vTack_takeHeld (n : Nat) (s : State) (c : Nat) : (takeHeld n s c).vTack = s.vTack := by
  induction n generalizing s with
  | zero => rfl
  | succ n ih =>
    unfold takeHeld
    dsimp only
    split
    · rfl
    · rw [ih]
      simp

@[simp] theorem vTack_placeCode (s : State) (p c : Nat) (code : List W128) :
    (placeCode s p c code).vTack = s.vTack := by
  unfold placeCode
  split <;> simp

@[simp] theorem vTack_writeSetTables (s : State) (c : Nat) :
    (writeSetTables s c).vTack = s.vTack := by simp [writeSetTables]

@[simp] theorem vTack_writePrimeTable (s : State) (p c : Nat) :
    (writePrimeTable s p c).vTack = s.vTack := by simp [writePrimeTable]

@[simp] theorem vTack_stallOff (s : State) (p : Nat) :
    (stallOff s p).vTack = s.vTack := by simp [stallOff]

@[simp] theorem vTack_stopContext (s : State) (p lid c : Nat) :
    (stopContext s p lid c).vTack = s.vTack := by
  unfold stopContext
  repeat' first
    | (simp only [vTack_mk, vTack_eta, vTack_ite, ite_self, vTack_completeCmd, vTack_draw, vTack_emitRecord, vTack_modCtx,
                    vTack_reportOstler]; done)
    | (have hk := congrArg (fun x => State.vTack (Prod.fst x)) ‹_ = (_, _)›
       simp only [vTack_mk, vTack_eta, vTack_ite, ite_self, vTack_completeCmd, vTack_draw, vTack_emitRecord, vTack_modCtx,
                    vTack_reportOstler] at hk
       simp only [vTack_mk, vTack_eta, vTack_ite, ite_self, vTack_completeCmd, vTack_draw, vTack_emitRecord, vTack_modCtx,
                    vTack_reportOstler, ← hk]; done)
    | (have hk := congrArg (fun x => State.vTack (Prod.snd x)) ‹_ = (_, _)›
       simp only [vTack_draw,
                    vTack_reportOstler] at hk
       simp only [vTack_mk, vTack_eta, vTack_ite, ite_self, vTack_completeCmd, vTack_emitRecord, vTack_modCtx,
                    vTack_reportOstler, ← hk]; done)
    | (with_reducible refine (vTack_foldl _ ?_ _ _).trans ?_)
    | intro _
    | split
    | simp only [vTack_eta, vTack_emitRecord, vTack_modCtx,
                    vTack_reportOstler]

@[simp] theorem vTack_setAge (s : State) (p mv : Nat) :
    (setAge s p mv).vTack = s.vTack := by simp [setAge]

@[simp] theorem vTack_modRst (s : State) (f : Rst → Rst) :
    (modRst s f).vTack = s.vTack := by simp [modRst, vTack_eta]

@[simp] theorem vTack_setIvr (s : State) (p : Nat) :
    (setIvr s p).vTack = s.vTack := by simp [setIvr]

@[simp] theorem vTack_trainHbm (s : State) :
    (trainHbm s).vTack = s.vTack := by simp [trainHbm, vTack_eta]

@[simp] theorem vTack_installRegions (s : State) :
    (installRegions s).vTack = s.vTack := by simp [installRegions, vTack_eta]

@[simp] theorem vTack_startSmithy (s : State) :
    (startSmithy s).vTack = s.vTack := by simp [startSmithy]

@[simp] theorem vTack_openRings (s : State) :
    (openRings s).vTack = s.vTack := by simp [openRings, vTack_eta]

@[simp] theorem recordFirst_tack (s : State) (off v : Nat) :
    (recordFirst s off v).tack = s.tack := (vTack_def _).symm.trans ((vTack_recordFirst ..).trans (vTack_def _))

@[simp] theorem trCount_tack (s : State) (i : Nat) :
    (trCount s i).tack = s.tack := (vTack_def _).symm.trans ((vTack_trCount ..).trans (vTack_def _))

@[simp] theorem dbAppend_tack (s : State) (type c : Nat) (payload : List Byte) :
    (dbAppend s type c payload).tack = s.tack := (vTack_def _).symm.trans ((vTack_dbAppend ..).trans (vTack_def _))

@[simp] theorem dbFault_tack (s : State) (c code lid team handle : Nat) :
    (dbFault s c code lid team handle).tack = s.tack := (vTack_def _).symm.trans ((vTack_dbFault ..).trans (vTack_def _))

@[simp] theorem reportFault_tack (s : State) (source code detail c lid team handle : Nat) :
    (reportFault s source code detail c lid team handle).tack = s.tack := (vTack_def _).symm.trans ((vTack_reportFault
      ..).trans (vTack_def _))

@[simp] theorem writeResult_tack (s : State) (status reason code serial : Nat) :
    (writeResult s status reason code serial).tack = s.tack := (vTack_def _).symm.trans ((vTack_writeResult ..).trans
      (vTack_def _))

@[simp] theorem smithyClear_tack (s : State) :
    (smithyClear s).tack = s.tack := (vTack_def _).symm.trans ((vTack_smithyClear ..).trans (vTack_def _))

@[simp] theorem placeCode_tack (s : State) (p c : Nat) (code : List W128) :
    (placeCode s p c code).tack = s.tack := (vTack_def _).symm.trans ((vTack_placeCode ..).trans (vTack_def _))

@[simp] theorem writeSetTables_tack (s : State) (c : Nat) :
    (writeSetTables s c).tack = s.tack := (vTack_def _).symm.trans ((vTack_writeSetTables ..).trans (vTack_def _))

@[simp] theorem writePrimeTable_tack (s : State) (p c : Nat) :
    (writePrimeTable s p c).tack = s.tack := (vTack_def _).symm.trans ((vTack_writePrimeTable ..).trans (vTack_def _))

@[simp] theorem stallOff_tack (s : State) (p : Nat) :
    (stallOff s p).tack = s.tack := (vTack_def _).symm.trans ((vTack_stallOff ..).trans (vTack_def _))

@[simp] theorem stopContext_tack (s : State) (p lid c : Nat) :
    (stopContext s p lid c).tack = s.tack := (vTack_def _).symm.trans ((vTack_stopContext ..).trans (vTack_def _))

@[simp] theorem setAge_tack (s : State) (p mv : Nat) :
    (setAge s p mv).tack = s.tack := (vTack_def _).symm.trans ((vTack_setAge ..).trans (vTack_def _))

@[simp] theorem setIvr_tack (s : State) (p : Nat) :
    (setIvr s p).tack = s.tack := (vTack_def _).symm.trans ((vTack_setIvr ..).trans (vTack_def _))

@[simp] theorem trainHbm_tack (s : State) :
    (trainHbm s).tack = s.tack := (vTack_def _).symm.trans ((vTack_trainHbm ..).trans (vTack_def _))

@[simp] theorem installRegions_tack (s : State) :
    (installRegions s).tack = s.tack := (vTack_def _).symm.trans ((vTack_installRegions ..).trans (vTack_def _))

@[simp] theorem startSmithy_tack (s : State) :
    (startSmithy s).tack = s.tack := (vTack_def _).symm.trans ((vTack_startSmithy ..).trans (vTack_def _))

@[simp] theorem openRings_tack (s : State) :
    (openRings s).tack = s.tack := (vTack_def _).symm.trans ((vTack_openRings ..).trans (vTack_def _))

/-! ### The Smithy -/

@[simp] theorem vSmithy_draw (s : State) :
    (draw s).2.vSmithy = s.vSmithy := by simp [draw, vSmithy_eta]

@[simp] theorem vSmithy_recordFirst (s : State) (off v : Nat) :
    (recordFirst s off v).vSmithy = s.vSmithy := by simp [recordFirst]

@[simp] theorem vSmithy_hbmCount (s : State) (st i n : Nat) :
    (hbmCount s st i n).vSmithy = s.vSmithy := by simp [hbmCount]

@[simp] theorem vSmithy_grnCount (s : State) (i n : Nat) :
    (grnCount s i n).vSmithy = s.vSmithy := by simp [grnCount]

@[simp] theorem vSmithy_trCount (s : State) (i : Nat) :
    (trCount s i).vSmithy = s.vSmithy := by simp [trCount]

@[simp] theorem vSmithy_setStall (s : State) (p : Nat) (x : Stall) :
    (setStall s p x).vSmithy = s.vSmithy := by simp [setStall, vSmithy_eta]

@[simp] theorem vSmithy_modStall (s : State) (p : Nat) (f : Stall → Stall) :
    (modStall s p f).vSmithy = s.vSmithy := by simp [modStall]

@[simp] theorem vSmithy_setCtx (s : State) (c : Nat) (x : Ctx) :
    (setCtx s c x).vSmithy = s.vSmithy := by simp [setCtx, vSmithy_eta]

@[simp] theorem vSmithy_modCtx (s : State) (c : Nat) (f : Ctx → Ctx) :
    (modCtx s c f).vSmithy = s.vSmithy := by simp [modCtx]

@[simp] theorem vSmithy_modRec (s : State) (c : Nat) (f : Rec → Rec) :
    (modRec s c f).vSmithy = s.vSmithy := by simp [modRec, vSmithy_eta]

@[simp] theorem vSmithy_loftInvalidate (s : State) (f : Nat → Nat → LoftLine → Bool) :
    (loftInvalidate s f).vSmithy = s.vSmithy := by simp [loftInvalidate, vSmithy_eta]

@[simp] theorem vSmithy_raiseIrq (s : State) (fn vec : Nat) :
    (raiseIrq s fn vec).vSmithy = s.vSmithy := by simp [raiseIrq, vSmithy_eta]

@[simp] theorem vSmithy_ghRecord (s : State) (r : Nat) (rec_ : List Byte) (irq : Bool) (vf vfVec : Nat) :
    (ghRecord s r rec_ irq vf vfVec).vSmithy = s.vSmithy := by simp [ghRecord, vSmithy_eta]

@[simp] theorem vSmithy_ghNote (s : State) (ring : Nat) (rec_ : List Byte) :
    (ghNote s ring rec_).vSmithy = s.vSmithy := by
  unfold ghNote
  repeat' first
    | (simp [vSmithy_eta]; done)
    | (with_reducible refine (vSmithy_foldl _ ?_ _ _).trans ?_)
    | intro _
    | split
    | dsimp only

@[simp] theorem vSmithy_ghDeliver (s : State) (m : Nat) (rec_ : List Byte) (irq : Bool) :
    (ghDeliver s m rec_ irq).vSmithy = s.vSmithy := by simp [ghDeliver]

@[simp] theorem vSmithy_emitRecord (s : State) (rec_ : List Byte) (irq : Bool) :
    (emitRecord s rec_ irq).vSmithy = s.vSmithy := by
  unfold emitRecord
  repeat' split
  all_goals simp

@[simp] theorem vSmithy_reportOstler (s : State) (source code detail c : Nat) :
    (reportOstler s source code detail c).vSmithy = s.vSmithy := by simp [reportOstler, vSmithy_eta]

@[simp] theorem vSmithy_reportFault (s : State) (source code detail c lid team handle : Nat) :
    (reportFault s source code detail c lid team handle).vSmithy = s.vSmithy := by simp [reportFault]

@[simp] theorem vSmithy_trigger (s : State) (c target : Nat) :
    (trigger s c target).vSmithy = s.vSmithy := by simp [trigger]

@[simp] theorem vSmithy_modRegion (s : State) (i : Nat) (f : Region → Region) :
    (modRegion s i f).vSmithy = s.vSmithy := by simp [modRegion, vSmithy_eta]

@[simp] theorem vSmithy_modSlot (s : State) (page : Nat) (f : Slot → Slot) :
    (modSlot s page f).vSmithy = s.vSmithy := by simp [modSlot, vSmithy_eta]

@[simp] theorem vSmithy_setGpoison (s : State) (g : Nat) (v : Bool) :
    (setGpoison s g v).vSmithy = s.vSmithy := by simp [setGpoison]

@[simp] theorem vSmithy_memFault (s : State) (g : Nat) (owner code retries : Nat) (slot : Bool) (own : Bool) :
    (memFault s g owner code retries slot own).vSmithy = s.vSmithy := by simp [memFault]

@[simp] theorem vSmithy_freeGranule (s : State) :
    (freeGranule s).2.vSmithy = s.vSmithy := by simp [freeGranule, vSmithy_eta]

@[simp] theorem vSmithy_putGranule (s : State) (g : Nat) (d : List Byte) (poison : Bool) :
    (putGranule s g d poison).vSmithy = s.vSmithy := by simp [putGranule, vSmithy_eta]

@[simp] theorem vSmithy_sendGranule (s : State) (g : Nat) (d : List Byte) (poison : Bool) (e : MemErr) (own : Bool) :
    (sendGranule s g d poison e own).vSmithy = s.vSmithy := by
  unfold sendGranule
  repeat' split
  all_goals simp [vSmithy_eta]

@[simp] theorem vSmithy_writeGranule (s : State) (g : Nat) (bs : List (Nat × Byte)) (poison : Bool) (e : MemErr) (own : Bool) :
    (writeGranule s g bs poison e own).vSmithy = s.vSmithy := by simp [writeGranule, vSmithy_eta]

@[simp] theorem vSmithy_storeBytes (s : State) (bs : List Host.Cell) (poison : Bool) (errs : MemErrs) (own : Bool) :
    (storeBytes s bs poison errs own).vSmithy = s.vSmithy := by simp [storeBytes]

@[simp] theorem vSmithy_modTack (s : State) (f : Tack → Tack) :
    (modTack s f).vSmithy = s.vSmithy := by simp [modTack, vSmithy_eta]

@[simp] theorem vSmithy_setGateSlot (s : State) (g : Nat) (x : GateSlot) :
    (setGateSlot s g x).vSmithy = s.vSmithy := by simp [setGateSlot]

@[simp] theorem vSmithy_wipeSlot (s : State) (g : Nat) :
    (wipeSlot s g).vSmithy = s.vSmithy := by simp [wipeSlot, vSmithy_eta]

@[simp] theorem vSmithy_writeResult (s : State) (status reason code serial : Nat) :
    (writeResult s status reason code serial).vSmithy = s.vSmithy := by simp [writeResult]

@[simp] theorem vSmithy_denyRelease (s : State) (c reason serial : Nat) :
    (denyRelease s c reason serial).vSmithy = s.vSmithy := by simp [denyRelease]

@[simp] theorem vSmithy_writeBackLine (s : State) (key : Nat) (l : GLine) (errs : MemErrs) :
    (writeBackLine s key l errs).vSmithy = s.vSmithy := by
  unfold writeBackLine
  repeat' first
    | (simp [vSmithy_eta]; done)
    | (with_reducible refine (vSmithy_foldl _ ?_ _ _).trans ?_)
    | intro _
    | split
    | dsimp only

@[simp] theorem vSmithy_writeBackContext (s : State) (c : Nat) :
    (writeBackContext s c).vSmithy = s.vSmithy := by
  unfold writeBackContext
  repeat' first
    | (simp; done)
    | (with_reducible refine (vSmithy_foldl _ ?_ _ _).trans ?_)
    | intro _
    | split

@[simp] theorem vSmithy_sendCompletion (s : State) (c : Nat) (k : Packet) (status code detail : Nat) :
    (sendCompletion s c k status code detail).vSmithy = s.vSmithy := by simp [sendCompletion]

@[simp] theorem vSmithy_completeCmd (s : State) (c : Nat) (k : Packet) (status code detail : Nat) :
    (completeCmd s c k status code detail).vSmithy = s.vSmithy := by simp [completeCmd]

@[simp] theorem vSmithy_dbCommand (s : State) (c : Nat) (k : Packet) :
    (dbCommand s c k).vSmithy = s.vSmithy := by simp [dbCommand]

@[simp] theorem vSmithy_takePacket (s : State) (c : Nat) (k : Packet) :
    (takePacket s c k).vSmithy = s.vSmithy := by simp [takePacket]

@[simp] theorem vSmithy_takeHeld (n : Nat) (s : State) (c : Nat) : (takeHeld n s c).vSmithy = s.vSmithy := by
  induction n generalizing s with
  | zero => rfl
  | succ n ih =>
    unfold takeHeld
    dsimp only
    split
    · rfl
    · rw [ih]
      simp

@[simp] theorem vSmithy_placeCode (s : State) (p c : Nat) (code : List W128) :
    (placeCode s p c code).vSmithy = s.vSmithy := by
  unfold placeCode
  split <;> simp

@[simp] theorem vSmithy_writeSetTables (s : State) (c : Nat) :
    (writeSetTables s c).vSmithy = s.vSmithy := by simp [writeSetTables]

@[simp] theorem vSmithy_writePrimeTable (s : State) (p c : Nat) :
    (writePrimeTable s p c).vSmithy = s.vSmithy := by simp [writePrimeTable]

@[simp] theorem vSmithy_stallOff (s : State) (p : Nat) :
    (stallOff s p).vSmithy = s.vSmithy := by simp [stallOff]

@[simp] theorem vSmithy_stopContext (s : State) (p lid c : Nat) :
    (stopContext s p lid c).vSmithy = s.vSmithy := by
  unfold stopContext
  repeat' first
    | (simp only [vSmithy_mk, vSmithy_eta, vSmithy_ite, ite_self, vSmithy_completeCmd, vSmithy_draw, vSmithy_emitRecord,
      vSmithy_modCtx,
                    vSmithy_reportOstler]; done)
    | (have hk := congrArg (fun x => State.vSmithy (Prod.fst x)) ‹_ = (_, _)›
       simp only [vSmithy_mk, vSmithy_eta, vSmithy_ite, ite_self, vSmithy_completeCmd, vSmithy_draw, vSmithy_emitRecord,
      vSmithy_modCtx,
                    vSmithy_reportOstler] at hk
       simp only [vSmithy_mk, vSmithy_eta, vSmithy_ite, ite_self, vSmithy_completeCmd, vSmithy_draw, vSmithy_emitRecord,
      vSmithy_modCtx,
                    vSmithy_reportOstler, ← hk]; done)
    | (have hk := congrArg (fun x => State.vSmithy (Prod.snd x)) ‹_ = (_, _)›
       simp only [vSmithy_draw,
      vSmithy_modCtx,
                    vSmithy_reportOstler] at hk
       simp only [vSmithy_mk, vSmithy_eta, vSmithy_ite, ite_self, vSmithy_completeCmd, vSmithy_emitRecord,
      vSmithy_modCtx,
                    vSmithy_reportOstler, ← hk]; done)
    | (with_reducible refine (vSmithy_foldl _ ?_ _ _).trans ?_)
    | intro _
    | split
    | simp only [vSmithy_eta, vSmithy_emitRecord,
      vSmithy_modCtx,
                    vSmithy_reportOstler]

@[simp] theorem vSmithy_setAge (s : State) (p mv : Nat) :
    (setAge s p mv).vSmithy = s.vSmithy := by simp [setAge]

@[simp] theorem vSmithy_modRst (s : State) (f : Rst → Rst) :
    (modRst s f).vSmithy = s.vSmithy := by simp [modRst, vSmithy_eta]

@[simp] theorem vSmithy_setIvr (s : State) (p : Nat) :
    (setIvr s p).vSmithy = s.vSmithy := by simp [setIvr]

@[simp] theorem vSmithy_trainHbm (s : State) :
    (trainHbm s).vSmithy = s.vSmithy := by simp [trainHbm, vSmithy_eta]

@[simp] theorem vSmithy_installRegions (s : State) :
    (installRegions s).vSmithy = s.vSmithy := by simp [installRegions, vSmithy_eta]

@[simp] theorem vSmithy_openRings (s : State) :
    (openRings s).vSmithy = s.vSmithy := by simp [openRings, vSmithy_eta]

@[simp] theorem bumpBy_smithy (s : State) (off wrapOff wrapBit n : Nat) :
    (bumpBy s off wrapOff wrapBit n).smithy = s.smithy := (vSmithy_def _).symm.trans ((vSmithy_bumpBy ..).trans (vSmithy_def _))

@[simp] theorem recordFirst_smithy (s : State) (off v : Nat) :
    (recordFirst s off v).smithy = s.smithy := (vSmithy_def _).symm.trans ((vSmithy_recordFirst ..).trans (vSmithy_def _))

@[simp] theorem reportFault_smithy (s : State) (source code detail c lid team handle : Nat) :
    (reportFault s source code detail c lid team handle).smithy = s.smithy := (vSmithy_def _).symm.trans
      ((vSmithy_reportFault ..).trans (vSmithy_def _))

@[simp] theorem wipeSlot_smithy (s : State) (g : Nat) :
    (wipeSlot s g).smithy = s.smithy := (vSmithy_def _).symm.trans ((vSmithy_wipeSlot ..).trans (vSmithy_def _))

@[simp] theorem denyRelease_smithy (s : State) (c reason serial : Nat) :
    (denyRelease s c reason serial).smithy = s.smithy := (vSmithy_def _).symm.trans ((vSmithy_denyRelease ..).trans
      (vSmithy_def _))

@[simp] theorem placeCode_smithy (s : State) (p c : Nat) (code : List W128) :
    (placeCode s p c code).smithy = s.smithy := (vSmithy_def _).symm.trans ((vSmithy_placeCode ..).trans (vSmithy_def _))

@[simp] theorem writeSetTables_smithy (s : State) (c : Nat) :
    (writeSetTables s c).smithy = s.smithy := (vSmithy_def _).symm.trans ((vSmithy_writeSetTables ..).trans (vSmithy_def _))

@[simp] theorem writePrimeTable_smithy (s : State) (p c : Nat) :
    (writePrimeTable s p c).smithy = s.smithy := (vSmithy_def _).symm.trans ((vSmithy_writePrimeTable ..).trans (vSmithy_def _))

@[simp] theorem stallOff_smithy (s : State) (p : Nat) :
    (stallOff s p).smithy = s.smithy := (vSmithy_def _).symm.trans ((vSmithy_stallOff ..).trans (vSmithy_def _))

@[simp] theorem stopContext_smithy (s : State) (p lid c : Nat) :
    (stopContext s p lid c).smithy = s.smithy := (vSmithy_def _).symm.trans ((vSmithy_stopContext ..).trans (vSmithy_def _))

@[simp] theorem setAge_smithy (s : State) (p mv : Nat) :
    (setAge s p mv).smithy = s.smithy := (vSmithy_def _).symm.trans ((vSmithy_setAge ..).trans (vSmithy_def _))

@[simp] theorem setIvr_smithy (s : State) (p : Nat) :
    (setIvr s p).smithy = s.smithy := (vSmithy_def _).symm.trans ((vSmithy_setIvr ..).trans (vSmithy_def _))

@[simp] theorem trainHbm_smithy (s : State) :
    (trainHbm s).smithy = s.smithy := (vSmithy_def _).symm.trans ((vSmithy_trainHbm ..).trans (vSmithy_def _))

@[simp] theorem installRegions_smithy (s : State) :
    (installRegions s).smithy = s.smithy := (vSmithy_def _).symm.trans ((vSmithy_installRegions ..).trans (vSmithy_def _))

@[simp] theorem openRings_smithy (s : State) :
    (openRings s).smithy = s.smithy := (vSmithy_def _).symm.trans ((vSmithy_openRings ..).trans (vSmithy_def _))

/-! ### The reset state -/

@[simp] theorem vRst_draw (s : State) :
    (draw s).2.vRst = s.vRst := by simp [draw, vRst_eta]

@[simp] theorem vRst_bump (s : State) (off wrapOff wrapBit : Nat) :
    (bump s off wrapOff wrapBit).vRst = s.vRst := by simp [bump]

@[simp] theorem vRst_recordFirst (s : State) (off v : Nat) :
    (recordFirst s off v).vRst = s.vRst := by simp [recordFirst]

@[simp] theorem vRst_hbmCount (s : State) (st i n : Nat) :
    (hbmCount s st i n).vRst = s.vRst := by simp [hbmCount]

@[simp] theorem vRst_grnCount (s : State) (i n : Nat) :
    (grnCount s i n).vRst = s.vRst := by simp [grnCount]

@[simp] theorem vRst_setStall (s : State) (p : Nat) (x : Stall) :
    (setStall s p x).vRst = s.vRst := by simp [setStall, vRst_eta]

@[simp] theorem vRst_modStall (s : State) (p : Nat) (f : Stall → Stall) :
    (modStall s p f).vRst = s.vRst := by simp [modStall]

@[simp] theorem vRst_setCtx (s : State) (c : Nat) (x : Ctx) :
    (setCtx s c x).vRst = s.vRst := by simp [setCtx, vRst_eta]

@[simp] theorem vRst_modCtx (s : State) (c : Nat) (f : Ctx → Ctx) :
    (modCtx s c f).vRst = s.vRst := by simp [modCtx]

@[simp] theorem vRst_modRec (s : State) (c : Nat) (f : Rec → Rec) :
    (modRec s c f).vRst = s.vRst := by simp [modRec, vRst_eta]

@[simp] theorem vRst_loftInvalidate (s : State) (f : Nat → Nat → LoftLine → Bool) :
    (loftInvalidate s f).vRst = s.vRst := by simp [loftInvalidate, vRst_eta]

@[simp] theorem vRst_dbStore (s : State) (type c : Nat) (payload : List Byte) :
    (dbStore s type c payload).vRst = s.vRst := by simp [dbStore, vRst_eta]

@[simp] theorem vRst_dbAppend (s : State) (type c : Nat) (payload : List Byte) :
    (dbAppend s type c payload).vRst = s.vRst := by simp [dbAppend, vRst_eta]

@[simp] theorem vRst_dbFault (s : State) (c code lid team handle : Nat) :
    (dbFault s c code lid team handle).vRst = s.vRst := by simp [dbFault]

@[simp] theorem vRst_raiseIrq (s : State) (fn vec : Nat) :
    (raiseIrq s fn vec).vRst = s.vRst := by simp [raiseIrq, vRst_eta]

@[simp] theorem vRst_ghRecord (s : State) (r : Nat) (rec_ : List Byte) (irq : Bool) (vf vfVec : Nat) :
    (ghRecord s r rec_ irq vf vfVec).vRst = s.vRst := by simp [ghRecord, vRst_eta]

@[simp] theorem vRst_ghNote (s : State) (ring : Nat) (rec_ : List Byte) :
    (ghNote s ring rec_).vRst = s.vRst := by
  unfold ghNote
  repeat' first
    | (simp [vRst_eta]; done)
    | (with_reducible refine (vRst_foldl _ ?_ _ _).trans ?_)
    | intro _
    | split
    | dsimp only

@[simp] theorem vRst_ghDeliver (s : State) (m : Nat) (rec_ : List Byte) (irq : Bool) :
    (ghDeliver s m rec_ irq).vRst = s.vRst := by simp [ghDeliver]

@[simp] theorem vRst_emitRecord (s : State) (rec_ : List Byte) (irq : Bool) :
    (emitRecord s rec_ irq).vRst = s.vRst := by
  unfold emitRecord
  repeat' split
  all_goals simp

@[simp] theorem vRst_reportOstler (s : State) (source code detail c : Nat) :
    (reportOstler s source code detail c).vRst = s.vRst := by simp [reportOstler, vRst_eta]

@[simp] theorem vRst_reportFault (s : State) (source code detail c lid team handle : Nat) :
    (reportFault s source code detail c lid team handle).vRst = s.vRst := by simp [reportFault]

@[simp] theorem vRst_trigger (s : State) (c target : Nat) :
    (trigger s c target).vRst = s.vRst := by simp [trigger]

@[simp] theorem vRst_modRegion (s : State) (i : Nat) (f : Region → Region) :
    (modRegion s i f).vRst = s.vRst := by simp [modRegion, vRst_eta]

@[simp] theorem vRst_modSlot (s : State) (page : Nat) (f : Slot → Slot) :
    (modSlot s page f).vRst = s.vRst := by simp [modSlot, vRst_eta]

@[simp] theorem vRst_setGpoison (s : State) (g : Nat) (v : Bool) :
    (setGpoison s g v).vRst = s.vRst := by simp [setGpoison]

@[simp] theorem vRst_memFault (s : State) (g : Nat) (owner code retries : Nat) (slot : Bool) (own : Bool) :
    (memFault s g owner code retries slot own).vRst = s.vRst := by simp [memFault]

@[simp] theorem vRst_freeGranule (s : State) :
    (freeGranule s).2.vRst = s.vRst := by simp [freeGranule, vRst_eta]

@[simp] theorem vRst_putGranule (s : State) (g : Nat) (d : List Byte) (poison : Bool) :
    (putGranule s g d poison).vRst = s.vRst := by simp [putGranule, vRst_eta]

@[simp] theorem vRst_sendGranule (s : State) (g : Nat) (d : List Byte) (poison : Bool) (e : MemErr) (own : Bool) :
    (sendGranule s g d poison e own).vRst = s.vRst := by
  unfold sendGranule
  repeat' split
  all_goals simp [vRst_eta]

@[simp] theorem vRst_writeGranule (s : State) (g : Nat) (bs : List (Nat × Byte)) (poison : Bool) (e : MemErr) (own : Bool) :
    (writeGranule s g bs poison e own).vRst = s.vRst := by simp [writeGranule, vRst_eta]

@[simp] theorem vRst_storeBytes (s : State) (bs : List Host.Cell) (poison : Bool) (errs : MemErrs) (own : Bool) :
    (storeBytes s bs poison errs own).vRst = s.vRst := by simp [storeBytes]

@[simp] theorem vRst_extendMr (s : State) (i : Nat) (d : List Byte) :
    (extendMr s i d).vRst = s.vRst := by simp [extendMr]

@[simp] theorem vRst_setGateSlot (s : State) (g : Nat) (x : GateSlot) :
    (setGateSlot s g x).vRst = s.vRst := by simp [setGateSlot]

@[simp] theorem vRst_wipeSlot (s : State) (g : Nat) :
    (wipeSlot s g).vRst = s.vRst := by simp [wipeSlot, vRst_eta]

@[simp] theorem vRst_smithyClear (s : State) :
    (smithyClear s).vRst = s.vRst := by simp [smithyClear, vRst_eta]

@[simp] theorem vRst_writeBackLine (s : State) (key : Nat) (l : GLine) (errs : MemErrs) :
    (writeBackLine s key l errs).vRst = s.vRst := by
  unfold writeBackLine
  repeat' first
    | (simp [vRst_eta]; done)
    | (with_reducible refine (vRst_foldl _ ?_ _ _).trans ?_)
    | intro _
    | split
    | dsimp only

@[simp] theorem vRst_writeBackContext (s : State) (c : Nat) :
    (writeBackContext s c).vRst = s.vRst := by
  unfold writeBackContext
  repeat' first
    | (simp; done)
    | (with_reducible refine (vRst_foldl _ ?_ _ _).trans ?_)
    | intro _
    | split

@[simp] theorem vRst_sendCompletion (s : State) (c : Nat) (k : Packet) (status code detail : Nat) :
    (sendCompletion s c k status code detail).vRst = s.vRst := by simp [sendCompletion]

@[simp] theorem vRst_completeCmd (s : State) (c : Nat) (k : Packet) (status code detail : Nat) :
    (completeCmd s c k status code detail).vRst = s.vRst := by simp [completeCmd]

@[simp] theorem vRst_dbCommand (s : State) (c : Nat) (k : Packet) :
    (dbCommand s c k).vRst = s.vRst := by simp [dbCommand]

@[simp] theorem vRst_takePacket (s : State) (c : Nat) (k : Packet) :
    (takePacket s c k).vRst = s.vRst := by simp [takePacket]

@[simp] theorem vRst_takeHeld (n : Nat) (s : State) (c : Nat) : (takeHeld n s c).vRst = s.vRst := by
  induction n generalizing s with
  | zero => rfl
  | succ n ih =>
    unfold takeHeld
    dsimp only
    split
    · rfl
    · rw [ih]
      simp

@[simp] theorem vRst_placeCode (s : State) (p c : Nat) (code : List W128) :
    (placeCode s p c code).vRst = s.vRst := by
  unfold placeCode
  split <;> simp

@[simp] theorem vRst_writeSetTables (s : State) (c : Nat) :
    (writeSetTables s c).vRst = s.vRst := by simp [writeSetTables]

@[simp] theorem vRst_writePrimeTable (s : State) (p c : Nat) :
    (writePrimeTable s p c).vRst = s.vRst := by simp [writePrimeTable]

@[simp] theorem vRst_stallOff (s : State) (p : Nat) :
    (stallOff s p).vRst = s.vRst := by simp [stallOff]

@[simp] theorem vRst_stopContext (s : State) (p lid c : Nat) :
    (stopContext s p lid c).vRst = s.vRst := by
  unfold stopContext
  repeat' first
    | (simp only [vRst_mk, vRst_eta, vRst_ite, ite_self, vRst_completeCmd, vRst_draw, vRst_emitRecord, vRst_modCtx,
                    vRst_reportOstler]; done)
    | (have hk := congrArg (fun x => State.vRst (Prod.fst x)) ‹_ = (_, _)›
       simp only [vRst_mk, vRst_eta, vRst_ite, ite_self, vRst_completeCmd, vRst_draw, vRst_emitRecord, vRst_modCtx,
                    vRst_reportOstler] at hk
       simp only [vRst_mk, vRst_eta, vRst_ite, ite_self, vRst_completeCmd, vRst_draw, vRst_emitRecord, vRst_modCtx,
                    vRst_reportOstler, ← hk]; done)
    | (have hk := congrArg (fun x => State.vRst (Prod.snd x)) ‹_ = (_, _)›
       simp only [vRst_draw,
                    vRst_reportOstler] at hk
       simp only [vRst_mk, vRst_eta, vRst_ite, ite_self, vRst_completeCmd, vRst_emitRecord, vRst_modCtx,
                    vRst_reportOstler, ← hk]; done)
    | (with_reducible refine (vRst_foldl _ ?_ _ _).trans ?_)
    | intro _
    | split
    | simp only [vRst_eta, vRst_emitRecord, vRst_modCtx,
                    vRst_reportOstler]

@[simp] theorem vRst_setAge (s : State) (p mv : Nat) :
    (setAge s p mv).vRst = s.vRst := by simp [setAge]

@[simp] theorem vRst_modSmithy (s : State) (f : Smithy → Smithy) :
    (modSmithy s f).vRst = s.vRst := by simp [modSmithy, vRst_eta]

@[simp] theorem vRst_setIvr (s : State) (p : Nat) :
    (setIvr s p).vRst = s.vRst := by simp [setIvr]

@[simp] theorem vRst_trainHbm (s : State) :
    (trainHbm s).vRst = s.vRst := by simp [trainHbm, vRst_eta]

@[simp] theorem vRst_installRegions (s : State) :
    (installRegions s).vRst = s.vRst := by simp [installRegions, vRst_eta]

@[simp] theorem vRst_checkSlot (s : State) (g : Nat) :
    (checkSlot s g).vRst = s.vRst := by
  unfold checkSlot
  split <;> simp

@[simp] theorem vRst_startSmithy (s : State) :
    (startSmithy s).vRst = s.vRst := by simp [startSmithy]

@[simp] theorem foldl_rst {β : Type} (g : State → β → State) (h : ∀ s b, (g s b).rst = s.rst) (l : List β) (s : State) :
    (l.foldl g s).rst = s.rst := (vRst_def _).symm.trans (vRst_foldl g h l s)

@[simp] theorem recordFirst_rst (s : State) (off v : Nat) :
    (recordFirst s off v).rst = s.rst := (vRst_def _).symm.trans ((vRst_recordFirst ..).trans (vRst_def _))

@[simp] theorem dbAppend_rst (s : State) (type c : Nat) (payload : List Byte) :
    (dbAppend s type c payload).rst = s.rst := (vRst_def _).symm.trans ((vRst_dbAppend ..).trans (vRst_def _))

@[simp] theorem reportFault_rst (s : State) (source code detail c lid team handle : Nat) :
    (reportFault s source code detail c lid team handle).rst = s.rst := (vRst_def _).symm.trans ((vRst_reportFault ..).trans
      (vRst_def _))

@[simp] theorem takeHeld_rst (n : Nat) (s : State) (c : Nat) :
    (takeHeld n s c).rst = s.rst := (vRst_def _).symm.trans ((vRst_takeHeld ..).trans (vRst_def _))

@[simp] theorem placeCode_rst (s : State) (p c : Nat) (code : List W128) :
    (placeCode s p c code).rst = s.rst := (vRst_def _).symm.trans ((vRst_placeCode ..).trans (vRst_def _))

@[simp] theorem writeSetTables_rst (s : State) (c : Nat) :
    (writeSetTables s c).rst = s.rst := (vRst_def _).symm.trans ((vRst_writeSetTables ..).trans (vRst_def _))

@[simp] theorem writePrimeTable_rst (s : State) (p c : Nat) :
    (writePrimeTable s p c).rst = s.rst := (vRst_def _).symm.trans ((vRst_writePrimeTable ..).trans (vRst_def _))

@[simp] theorem stallOff_rst (s : State) (p : Nat) :
    (stallOff s p).rst = s.rst := (vRst_def _).symm.trans ((vRst_stallOff ..).trans (vRst_def _))

@[simp] theorem stopContext_rst (s : State) (p lid c : Nat) :
    (stopContext s p lid c).rst = s.rst := (vRst_def _).symm.trans ((vRst_stopContext ..).trans (vRst_def _))

@[simp] theorem setAge_rst (s : State) (p mv : Nat) :
    (setAge s p mv).rst = s.rst := (vRst_def _).symm.trans ((vRst_setAge ..).trans (vRst_def _))

@[simp] theorem setIvr_rst (s : State) (p : Nat) :
    (setIvr s p).rst = s.rst := (vRst_def _).symm.trans ((vRst_setIvr ..).trans (vRst_def _))

@[simp] theorem trainHbm_rst (s : State) :
    (trainHbm s).rst = s.rst := (vRst_def _).symm.trans ((vRst_trainHbm ..).trans (vRst_def _))

@[simp] theorem installRegions_rst (s : State) :
    (installRegions s).rst = s.rst := (vRst_def _).symm.trans ((vRst_installRegions ..).trans (vRst_def _))

@[simp] theorem checkSlot_rst (s : State) (g : Nat) :
    (checkSlot s g).rst = s.rst := (vRst_def _).symm.trans ((vRst_checkSlot ..).trans (vRst_def _))

@[simp] theorem startSmithy_rst (s : State) :
    (startSmithy s).rst = s.rst := (vRst_def _).symm.trans ((vRst_startSmithy ..).trans (vRst_def _))

/-! ### The Ostler -/

@[simp] theorem vOstler_draw (s : State) :
    (draw s).2.vOstler = s.vOstler := by simp [draw, vOstler_eta]

@[simp] theorem vOstler_bump (s : State) (off wrapOff wrapBit : Nat) :
    (bump s off wrapOff wrapBit).vOstler = s.vOstler := by simp [bump]

@[simp] theorem vOstler_recordFirst (s : State) (off v : Nat) :
    (recordFirst s off v).vOstler = s.vOstler := by simp [recordFirst]

@[simp] theorem vOstler_hbmCount (s : State) (st i n : Nat) :
    (hbmCount s st i n).vOstler = s.vOstler := by simp [hbmCount]

@[simp] theorem vOstler_grnCount (s : State) (i n : Nat) :
    (grnCount s i n).vOstler = s.vOstler := by simp [grnCount]

@[simp] theorem vOstler_trCount (s : State) (i : Nat) :
    (trCount s i).vOstler = s.vOstler := by simp [trCount]

@[simp] theorem vOstler_setStall (s : State) (p : Nat) (x : Stall) :
    (setStall s p x).vOstler = s.vOstler := by simp [setStall, vOstler_eta]

@[simp] theorem vOstler_modStall (s : State) (p : Nat) (f : Stall → Stall) :
    (modStall s p f).vOstler = s.vOstler := by simp [modStall]

@[simp] theorem vOstler_setCtx (s : State) (c : Nat) (x : Ctx) :
    (setCtx s c x).vOstler = s.vOstler := by simp [setCtx, vOstler_eta]

@[simp] theorem vOstler_modCtx (s : State) (c : Nat) (f : Ctx → Ctx) :
    (modCtx s c f).vOstler = s.vOstler := by simp [modCtx]

@[simp] theorem vOstler_modRec (s : State) (c : Nat) (f : Rec → Rec) :
    (modRec s c f).vOstler = s.vOstler := by simp [modRec, vOstler_eta]

@[simp] theorem vOstler_loftInvalidate (s : State) (f : Nat → Nat → LoftLine → Bool) :
    (loftInvalidate s f).vOstler = s.vOstler := by simp [loftInvalidate, vOstler_eta]

@[simp] theorem vOstler_dbStore (s : State) (type c : Nat) (payload : List Byte) :
    (dbStore s type c payload).vOstler = s.vOstler := by simp [dbStore, vOstler_eta]

@[simp] theorem vOstler_dbAppend (s : State) (type c : Nat) (payload : List Byte) :
    (dbAppend s type c payload).vOstler = s.vOstler := by simp [dbAppend, vOstler_eta]

@[simp] theorem vOstler_dbFault (s : State) (c code lid team handle : Nat) :
    (dbFault s c code lid team handle).vOstler = s.vOstler := by simp [dbFault]

@[simp] theorem vOstler_raiseIrq (s : State) (fn vec : Nat) :
    (raiseIrq s fn vec).vOstler = s.vOstler := by simp [raiseIrq, vOstler_eta]

@[simp] theorem vOstler_ghRecord (s : State) (r : Nat) (rec_ : List Byte) (irq : Bool) (vf vfVec : Nat) :
    (ghRecord s r rec_ irq vf vfVec).vOstler = s.vOstler := by simp [ghRecord, vOstler_eta]

@[simp] theorem vOstler_ghNote (s : State) (ring : Nat) (rec_ : List Byte) :
    (ghNote s ring rec_).vOstler = s.vOstler := by
  unfold ghNote
  repeat' first
    | (simp [vOstler_eta]; done)
    | (with_reducible refine (vOstler_foldl _ ?_ _ _).trans ?_)
    | intro _
    | split
    | dsimp only

@[simp] theorem vOstler_ghDeliver (s : State) (m : Nat) (rec_ : List Byte) (irq : Bool) :
    (ghDeliver s m rec_ irq).vOstler = s.vOstler := by simp [ghDeliver]

@[simp] theorem vOstler_emitRecord (s : State) (rec_ : List Byte) (irq : Bool) :
    (emitRecord s rec_ irq).vOstler = s.vOstler := by
  unfold emitRecord
  repeat' split
  all_goals simp

@[simp] theorem vOstler_reportOstler (s : State) (source code detail c : Nat) :
    (reportOstler s source code detail c).vOstler = s.vOstler := by simp [reportOstler, vOstler_eta]

@[simp] theorem vOstler_reportFault (s : State) (source code detail c lid team handle : Nat) :
    (reportFault s source code detail c lid team handle).vOstler = s.vOstler := by simp [reportFault]

@[simp] theorem vOstler_trigger (s : State) (c target : Nat) :
    (trigger s c target).vOstler = s.vOstler := by simp [trigger]

@[simp] theorem vOstler_modRegion (s : State) (i : Nat) (f : Region → Region) :
    (modRegion s i f).vOstler = s.vOstler := by simp [modRegion, vOstler_eta]

@[simp] theorem vOstler_modSlot (s : State) (page : Nat) (f : Slot → Slot) :
    (modSlot s page f).vOstler = s.vOstler := by simp [modSlot, vOstler_eta]

@[simp] theorem vOstler_setGpoison (s : State) (g : Nat) (v : Bool) :
    (setGpoison s g v).vOstler = s.vOstler := by simp [setGpoison]

@[simp] theorem vOstler_memFault (s : State) (g : Nat) (owner code retries : Nat) (slot : Bool) (own : Bool) :
    (memFault s g owner code retries slot own).vOstler = s.vOstler := by simp [memFault]

@[simp] theorem vOstler_freeGranule (s : State) :
    (freeGranule s).2.vOstler = s.vOstler := by simp [freeGranule, vOstler_eta]

@[simp] theorem vOstler_putGranule (s : State) (g : Nat) (d : List Byte) (poison : Bool) :
    (putGranule s g d poison).vOstler = s.vOstler := by simp [putGranule, vOstler_eta]

@[simp] theorem vOstler_sendGranule (s : State) (g : Nat) (d : List Byte) (poison : Bool) (e : MemErr) (own : Bool) :
    (sendGranule s g d poison e own).vOstler = s.vOstler := by
  unfold sendGranule
  repeat' split
  all_goals simp [vOstler_eta]

@[simp] theorem vOstler_writeGranule (s : State) (g : Nat) (bs : List (Nat × Byte)) (poison : Bool) (e : MemErr) (own : Bool) :
    (writeGranule s g bs poison e own).vOstler = s.vOstler := by simp [writeGranule, vOstler_eta]

@[simp] theorem vOstler_storeBytes (s : State) (bs : List Host.Cell) (poison : Bool) (errs : MemErrs) (own : Bool) :
    (storeBytes s bs poison errs own).vOstler = s.vOstler := by simp [storeBytes]

@[simp] theorem vOstler_setGateSlot (s : State) (g : Nat) (x : GateSlot) :
    (setGateSlot s g x).vOstler = s.vOstler := by simp [setGateSlot]

@[simp] theorem vOstler_wipeSlot (s : State) (g : Nat) :
    (wipeSlot s g).vOstler = s.vOstler := by simp [wipeSlot, vOstler_eta]

@[simp] theorem vOstler_writeResult (s : State) (status reason code serial : Nat) :
    (writeResult s status reason code serial).vOstler = s.vOstler := by simp [writeResult]

@[simp] theorem vOstler_denyRelease (s : State) (c reason serial : Nat) :
    (denyRelease s c reason serial).vOstler = s.vOstler := by simp [denyRelease]

@[simp] theorem vOstler_smithyClear (s : State) :
    (smithyClear s).vOstler = s.vOstler := by simp [smithyClear, vOstler_eta]

@[simp] theorem vOstler_writeBackLine (s : State) (key : Nat) (l : GLine) (errs : MemErrs) :
    (writeBackLine s key l errs).vOstler = s.vOstler := by
  unfold writeBackLine
  repeat' first
    | (simp [vOstler_eta]; done)
    | (with_reducible refine (vOstler_foldl _ ?_ _ _).trans ?_)
    | intro _
    | split
    | dsimp only

@[simp] theorem vOstler_writeBackContext (s : State) (c : Nat) :
    (writeBackContext s c).vOstler = s.vOstler := by
  unfold writeBackContext
  repeat' first
    | (simp; done)
    | (with_reducible refine (vOstler_foldl _ ?_ _ _).trans ?_)
    | intro _
    | split

@[simp] theorem vOstler_sendCompletion (s : State) (c : Nat) (k : Packet) (status code detail : Nat) :
    (sendCompletion s c k status code detail).vOstler = s.vOstler := by simp [sendCompletion]

@[simp] theorem vOstler_completeCmd (s : State) (c : Nat) (k : Packet) (status code detail : Nat) :
    (completeCmd s c k status code detail).vOstler = s.vOstler := by simp [completeCmd]

@[simp] theorem vOstler_dbCommand (s : State) (c : Nat) (k : Packet) :
    (dbCommand s c k).vOstler = s.vOstler := by simp [dbCommand]

@[simp] theorem vOstler_takePacket (s : State) (c : Nat) (k : Packet) :
    (takePacket s c k).vOstler = s.vOstler := by simp [takePacket]

@[simp] theorem vOstler_takeHeld (n : Nat) (s : State) (c : Nat) : (takeHeld n s c).vOstler = s.vOstler := by
  induction n generalizing s with
  | zero => rfl
  | succ n ih =>
    unfold takeHeld
    dsimp only
    split
    · rfl
    · rw [ih]
      simp

@[simp] theorem vOstler_placeCode (s : State) (p c : Nat) (code : List W128) :
    (placeCode s p c code).vOstler = s.vOstler := by
  unfold placeCode
  split <;> simp

@[simp] theorem vOstler_writeSetTables (s : State) (c : Nat) :
    (writeSetTables s c).vOstler = s.vOstler := by simp [writeSetTables]

@[simp] theorem vOstler_writePrimeTable (s : State) (p c : Nat) :
    (writePrimeTable s p c).vOstler = s.vOstler := by simp [writePrimeTable]

@[simp] theorem vOstler_stallOff (s : State) (p : Nat) :
    (stallOff s p).vOstler = s.vOstler := by simp [stallOff]

@[simp] theorem vOstler_stopContext (s : State) (p lid c : Nat) :
    (stopContext s p lid c).vOstler = s.vOstler := by
  unfold stopContext
  repeat' first
    | (simp only [vOstler_mk, vOstler_eta, vOstler_ite, ite_self, vOstler_completeCmd, vOstler_draw, vOstler_emitRecord,
      vOstler_modCtx,
                    vOstler_reportOstler]; done)
    | (have hk := congrArg (fun x => State.vOstler (Prod.fst x)) ‹_ = (_, _)›
       simp only [vOstler_mk, vOstler_eta, vOstler_ite, ite_self, vOstler_completeCmd, vOstler_draw, vOstler_emitRecord,
      vOstler_modCtx,
                    vOstler_reportOstler] at hk
       simp only [vOstler_mk, vOstler_eta, vOstler_ite, ite_self, vOstler_completeCmd, vOstler_draw, vOstler_emitRecord,
      vOstler_modCtx,
                    vOstler_reportOstler, ← hk]; done)
    | (have hk := congrArg (fun x => State.vOstler (Prod.snd x)) ‹_ = (_, _)›
       simp only [vOstler_draw,
      vOstler_modCtx,
                    vOstler_reportOstler] at hk
       simp only [vOstler_mk, vOstler_eta, vOstler_ite, ite_self, vOstler_completeCmd, vOstler_emitRecord,
      vOstler_modCtx,
                    vOstler_reportOstler, ← hk]; done)
    | (with_reducible refine (vOstler_foldl _ ?_ _ _).trans ?_)
    | intro _
    | split
    | simp only [vOstler_eta, vOstler_emitRecord,
      vOstler_modCtx,
                    vOstler_reportOstler]

@[simp] theorem vOstler_setAge (s : State) (p mv : Nat) :
    (setAge s p mv).vOstler = s.vOstler := by simp [setAge]

@[simp] theorem vOstler_setIvr (s : State) (p : Nat) :
    (setIvr s p).vOstler = s.vOstler := by simp [setIvr, vOstler_eta]

@[simp] theorem vOstler_trainHbm (s : State) :
    (trainHbm s).vOstler = s.vOstler := by simp [trainHbm, vOstler_eta]

@[simp] theorem vOstler_installRegions (s : State) :
    (installRegions s).vOstler = s.vOstler := by simp [installRegions, vOstler_eta]

@[simp] theorem vOstler_openRings (s : State) :
    (openRings s).vOstler = s.vOstler := by simp [openRings, vOstler_eta]

@[simp] theorem recordFirst_ostler (s : State) (off v : Nat) :
    (recordFirst s off v).ostler = s.ostler := (vOstler_def _).symm.trans ((vOstler_recordFirst ..).trans (vOstler_def _))

@[simp] theorem trCount_ostler (s : State) (i : Nat) :
    (trCount s i).ostler = s.ostler := (vOstler_def _).symm.trans ((vOstler_trCount ..).trans (vOstler_def _))

@[simp] theorem dbAppend_ostler (s : State) (type c : Nat) (payload : List Byte) :
    (dbAppend s type c payload).ostler = s.ostler := (vOstler_def _).symm.trans ((vOstler_dbAppend ..).trans (vOstler_def _))

@[simp] theorem reportFault_ostler (s : State) (source code detail c lid team handle : Nat) :
    (reportFault s source code detail c lid team handle).ostler = s.ostler := (vOstler_def _).symm.trans
      ((vOstler_reportFault ..).trans (vOstler_def _))

@[simp] theorem wipeSlot_ostler (s : State) (g : Nat) :
    (wipeSlot s g).ostler = s.ostler := (vOstler_def _).symm.trans ((vOstler_wipeSlot ..).trans (vOstler_def _))

@[simp] theorem denyRelease_ostler (s : State) (c reason serial : Nat) :
    (denyRelease s c reason serial).ostler = s.ostler := (vOstler_def _).symm.trans ((vOstler_denyRelease ..).trans
      (vOstler_def _))

@[simp] theorem smithyClear_ostler (s : State) :
    (smithyClear s).ostler = s.ostler := (vOstler_def _).symm.trans ((vOstler_smithyClear ..).trans (vOstler_def _))

@[simp] theorem placeCode_ostler (s : State) (p c : Nat) (code : List W128) :
    (placeCode s p c code).ostler = s.ostler := (vOstler_def _).symm.trans ((vOstler_placeCode ..).trans (vOstler_def _))

@[simp] theorem writeSetTables_ostler (s : State) (c : Nat) :
    (writeSetTables s c).ostler = s.ostler := (vOstler_def _).symm.trans ((vOstler_writeSetTables ..).trans (vOstler_def _))

@[simp] theorem writePrimeTable_ostler (s : State) (p c : Nat) :
    (writePrimeTable s p c).ostler = s.ostler := (vOstler_def _).symm.trans ((vOstler_writePrimeTable ..).trans (vOstler_def _))

@[simp] theorem stallOff_ostler (s : State) (p : Nat) :
    (stallOff s p).ostler = s.ostler := (vOstler_def _).symm.trans ((vOstler_stallOff ..).trans (vOstler_def _))

@[simp] theorem stopContext_ostler (s : State) (p lid c : Nat) :
    (stopContext s p lid c).ostler = s.ostler := (vOstler_def _).symm.trans ((vOstler_stopContext ..).trans (vOstler_def _))

@[simp] theorem setAge_ostler (s : State) (p mv : Nat) :
    (setAge s p mv).ostler = s.ostler := (vOstler_def _).symm.trans ((vOstler_setAge ..).trans (vOstler_def _))

@[simp] theorem setIvr_ostler (s : State) (p : Nat) :
    (setIvr s p).ostler = s.ostler := (vOstler_def _).symm.trans ((vOstler_setIvr ..).trans (vOstler_def _))

@[simp] theorem trainHbm_ostler (s : State) :
    (trainHbm s).ostler = s.ostler := (vOstler_def _).symm.trans ((vOstler_trainHbm ..).trans (vOstler_def _))

@[simp] theorem installRegions_ostler (s : State) :
    (installRegions s).ostler = s.ostler := (vOstler_def _).symm.trans ((vOstler_installRegions ..).trans (vOstler_def _))

@[simp] theorem openRings_ostler (s : State) :
    (openRings s).ostler = s.ostler := (vOstler_def _).symm.trans ((vOstler_openRings ..).trans (vOstler_def _))

end Sys2Proof.Machine
end

section
/-!
PROOFS. The debug port and JTAG (O51); boot (O53).
-/

namespace Sys2Proof.Machine

/-! ### What the first access of the debug port clears (R444, R445, R456) -/

/-- The denial of a release, recorded and reported. -/
def denialNoted (s : State) (c reason serial : Nat) : State :=
  reportOstler (dbFault (writeResult s 2 reason 0 serial) c 0x0902 0x3FF 0 0xFFF) 1023 0x0902 reason c

theorem denyRelease_eq (s : State) (c reason serial : Nat) :
    denyRelease s c reason serial = modTack (trCount (denialNoted s c reason serial) 4) fun t => { t with release := none } :=
  rfl

theorem tack_denialNoted (s : State) (c reason serial : Nat) : (denialNoted s c reason serial).tack = s.tack := by
  refine (show _ = (dbFault (writeResult s 2 reason 0 serial) c 0x0902 0x3FF 0 0xFFF).tack from rfl).trans ?_
  rw [dbFault_tack, writeResult_tack]

/-- The Tack Room once the pending release is denied. -/
theorem tack_denyRelease (s : State) (c reason serial : Nat) : (denyRelease s c reason serial).tack = { s.tack with release := none } := by
  have noted := tack_denialNoted s c reason serial
  rw [denyRelease_eq]
  generalize denialNoted s c reason serial = v at noted
  unfold modTack
  dsimp only
  rw [trCount_tack, noted]

theorem csrGet_denialNoted (s : State) (c reason serial : Nat) : csrGet (denialNoted s c reason serial) 0x0901230 = csrGet s 0x0901230 := by
  have recorded : csrGet (dbFault (writeResult s 2 reason 0 serial) c 0x0902 0x3FF 0 0xFFF) 0x0901230 = csrGet (writeResult s 2 reason 0 serial) 0x0901230 :=
    csrGet_dbAppend _ (by unfold OffReports; decide) ..
  refine (show _ = csrGet (dbFault (writeResult s 2 reason 0 serial) c 0x0902 0x3FF 0 0xFFF) 0x0901230 from rfl).trans (recorded.trans ?_)
  unfold writeResult
  exact (csrGet_csrSetField_other _ (o := rgReq) (by decide) ..).trans (csrGet_csrPut_other _ (o := rgResult) (by decide) _)

theorem csrGet_denyRelease (s : State) (c reason serial : Nat) :
    csrGet (denyRelease s c reason serial) 0x0901230 = csrGet s 0x0901230 := by
  have noted := csrGet_denialNoted s c reason serial
  rw [denyRelease_eq]
  generalize denialNoted s c reason serial = v at noted
  exact (csrGet_bump_other v (by decide) (by decide)).trans noted

/-- The release that waits, if one does, is denied. -/
def releaseDenied (s : State) : State :=
  match s.tack.release with
  | some r => denyRelease s r.c 1 r.serial
  | none => s

theorem tack_releaseDenied (s : State) : (releaseDenied s).tack = { s.tack with release := none } := by
  unfold releaseDenied
  split
  · exact tack_denyRelease ..
  · next none_ => rw [← none_]

theorem releaseDenied_keeps (s : State) : (releaseDenied s).gate = s.gate ∧ (releaseDenied s).smithy = s.smithy ∧
    (releaseDenied s).ostler = s.ostler ∧ csrGet (releaseDenied s) 0x0901230 = csrGet s 0x0901230 := by
  unfold releaseDenied
  split
  · exact ⟨denyRelease_gate .., denyRelease_smithy .., denyRelease_ostler .., csrGet_denyRelease ..⟩
  · exact ⟨rfl, rfl, rfl, rfl⟩

/-- The Release Gate's slots, emptied. -/
def noShares (slots : NMap GateSlot) : NMap GateSlot :=
  [0, 1, 2, 3].foldl (fun m g => nset {} m g {}) slots

theorem nget_noShares (slots : NMap GateSlot) {g : Nat} (h : g < 4) : nget {} (noShares slots) g = {} := by
  unfold noShares
  simp only [List.foldl_cons, List.foldl_nil]
  have cases : g = 0 ∨ g = 1 ∨ g = 2 ∨ g = 3 := by omega
  rcases cases with rfl | rfl | rfl | rfl
  · rw [nget_nset_other _ _ (by decide), nget_nset_other _ _ (by decide), nget_nset_other _ _ (by decide), nget_nset_same]
  · rw [nget_nset_other _ _ (by decide), nget_nset_other _ _ (by decide), nget_nset_same]
  · rw [nget_nset_other _ _ (by decide), nget_nset_same]
  · rw [nget_nset_same]

/-- The device with its shares wiped. -/
def sharesWiped (s : State) : State :=
  [0, 1, 2, 3].foldl wipeSlot s

theorem tack_sharesWiped (s : State) : (sharesWiped s).tack = { s.tack with slots := noShares s.tack.slots } := by
  have wiped (v : State) (g : Nat) : (wipeSlot v g).tack = { v.tack with slots := nset {} v.tack.slots g {} } := rfl
  simp only [sharesWiped, noShares, List.foldl_cons, List.foldl_nil, wiped]

theorem sharesWiped_keeps (s : State) : (sharesWiped s).gate = s.gate ∧ (sharesWiped s).smithy = s.smithy ∧
    (sharesWiped s).ostler = s.ostler ∧ (sharesWiped s).csr = s.csr := by
  simp only [sharesWiped, List.foldl_cons, List.foldl_nil, wipeSlot_gate, wipeSlot_smithy, wipeSlot_ostler, wipeSlot_csr, and_self]

/-- The device that has been seen, its sessions and keys gone. -/
def keysErased (s : State) : State :=
  let s1 := reportOstler (modTack s fun t => { t with observed := true }) 1023 0x0901 0 0xFF
  let s3 := modTack (releaseDenied s1) fun t => { t with sessions := [], ideKey := [], fabric := none }
  { s3 with ostler := { s3.ostler with fabric := none }, gate := { s3.gate with ide := false } }

theorem setObserved_eq (s : State) (rec_ : List Byte) :
    setObserved s rec_ = extendMr (smithyClear (sharesWiped (keysErased s))) 6 (sha256 rec_) := by
  rfl

theorem tack_keysErased (s : State) : (keysErased s).tack =
    { s.tack with observed := true, release := none, sessions := [], ideKey := [], fabric := none } := by
  have denied := tack_releaseDenied (reportOstler (modTack s fun t => { t with observed := true }) 1023 0x0901 0 0xFF)
  unfold keysErased
  dsimp only
  generalize releaseDenied (reportOstler (modTack s fun t => { t with observed := true }) 1023 0x0901 0 0xFF) = v at denied
  unfold modTack
  dsimp only
  rw [denied]
  rfl

theorem keysErased_keeps (s : State) : (keysErased s).gate = { s.gate with ide := false } ∧
    (keysErased s).ostler = { s.ostler with fabric := none } ∧ csrGet (keysErased s) 0x0901230 = csrGet s 0x0901230 := by
  obtain ⟨gate, -, ostler, csr⟩ := releaseDenied_keeps (reportOstler (modTack s fun t => { t with observed := true }) 1023 0x0901 0 0xFF)
  unfold keysErased
  dsimp only
  generalize releaseDenied (reportOstler (modTack s fun t => { t with observed := true }) 1023 0x0901 0 0xFF) = v at gate ostler csr
  refine ⟨?_, ?_, csr⟩
  · unfold modTack
    dsimp only
    rw [gate]
    rfl
  · unfold modTack
    dsimp only
    rw [ostler]
    rfl

theorem smithyClear_x (s : State) : (smithyClear s).smithy.x = [] := by
  unfold smithyClear bump
  dsimp only
  rw [bumpBy_smithy, bumpBy_smithy]

theorem csrGet_smithyClear (s : State) {off : Nat} (h : off < 0x0A00000) : csrGet (smithyClear s) off = csrGet s off :=
  (csrGet_bump_other _ (by omega) (by omega)).trans (csrGet_bump_other _ (by omega) (by omega))

/-- What the first access leaves (R444, R445). -/
theorem setObserved_leaves (s : State) (rec_ : List Byte) : (setObserved s rec_).tack.observed = true ∧ (setObserved s rec_).tack.sessions = [] ∧
    (setObserved s rec_).tack.ideKey = [] ∧ (setObserved s rec_).tack.fabric = none ∧ (setObserved s rec_).tack.release = none ∧
    (setObserved s rec_).smithy.x = [] ∧ (setObserved s rec_).gate.ide = false ∧ (∀ g, g < 4 → gateSlot (setObserved s rec_) g = {}) ∧
    (∀ k, k ≠ 6 → mrOf (setObserved s rec_) k = mrOf s k) ∧ mrOf (setObserved s rec_) 6 = sha256 (mrOf s 6 ++ sha256 rec_) ∧
    csrGet (setObserved s rec_) 0x0901230 = csrGet s 0x0901230 ∧ (setObserved s rec_).ostler.sram = s.ostler.sram := by
  have erased := tack_keysErased s
  obtain ⟨gate, ostler, csr⟩ := keysErased_keeps s
  rw [setObserved_eq]
  generalize keysErased s = v at erased gate ostler csr
  have wiped := tack_sharesWiped v
  obtain ⟨gate', -, ostler', csr'⟩ := sharesWiped_keeps v
  generalize sharesWiped v = w at wiped gate' ostler' csr'
  rw [erased] at wiped
  have tack : (smithyClear w).tack = w.tack := smithyClear_tack w
  have x := smithyClear_x w
  have clearedGate : (smithyClear w).gate = w.gate := smithyClear_gate w
  have clearedOstler : (smithyClear w).ostler = w.ostler := smithyClear_ostler w
  have clearedCsr := csrGet_smithyClear w (off := 0x0901230) (by decide)
  generalize smithyClear w = z at tack x clearedGate clearedOstler clearedCsr
  rw [wiped] at tack
  have mrs (k : Nat) : mrOf z k = mrOf s k := mrOf_congr (by rw [tack]) k
  refine ⟨?_, ?_, ?_, ?_, ?_, x, ?_, fun g hg => ?_, fun k ne => ?_, ?_, ?_, ?_⟩
  · exact congrArg Tack.observed tack
  · exact congrArg Tack.sessions tack
  · exact congrArg Tack.ideKey tack
  · exact congrArg Tack.fabric tack
  · exact congrArg Tack.release tack
  · exact (congrArg (·.ide) (clearedGate.trans (gate'.trans gate)) :)
  · exact (congrArg (fun t : Tack => nget {} t.slots g) tack).trans (nget_noShares _ hg)
  · rw [mrOf_extendMr_other _ ne, mrs]
  · rw [mrOf_extendMr_same, mrs]
  · exact clearedCsr.trans ((csrGet_congr csr' _).trans csr)
  · exact (congrArg Ostler.sram (clearedOstler.trans (ostler'.trans ostler)) :)

/-! ### Every access is recorded and counted (R444, R446) -/

/-- The record that the Daybook keeps of an access of the debug port. -/
def accessPayload (kind addr : Nat) : List Byte :=
  leBytes 1 kind ++ List.replicate 7 0 ++ leBytes 8 addr

/-- The device once an access has been recorded and counted. -/
def accessCounted (s : State) (kind addr : Nat) : State :=
  trCount (dbAppend s 7 0x40 (accessPayload kind addr)) 6

theorem debugRecord_eq (s : State) (kind addr : Nat) : debugRecord s kind addr =
    if (accessCounted s kind addr).tack.observed then accessCounted s kind addr else
    setObserved (accessCounted s kind addr) (leBytes 6 (now s) ++ leBytes 1 7 ++ leBytes 1 0x40 ++ padTo 24 (accessPayload kind addr)) :=
  rfl

theorem accessCounted_keeps (s : State) (kind addr : Nat) : (accessCounted s kind addr).tack = s.tack ∧
    (accessCounted s kind addr).ostler = s.ostler ∧ csrGet (accessCounted s kind addr) 0x0901230 = csrGet s 0x0901230 + 1 := by
  refine ⟨?_, ?_, ?_⟩
  · rw [accessCounted, trCount_tack, dbAppend_tack]
  · rw [accessCounted, trCount_ostler, dbAppend_ostler]
  · refine (csrGet_bump_same _ 6 (by decide)).trans ?_
    rw [csrGet_dbAppend s (by unfold OffReports; decide)]

/-- An access of the debug port has been seen: it is counted, OBSERVED is set, and the first one has cleared what R445 names. -/
def Seen (s : State) (kind addr : Nat) (u : State) : Prop :=
  u.tack.observed = true ∧ csrGet u 0x0901230 = csrGet s 0x0901230 + 1 ∧
  (s.tack.observed = true → u.tack = s.tack) ∧
  (s.tack.observed = false → u.tack.sessions = [] ∧ u.tack.ideKey = [] ∧ u.tack.fabric = none ∧ u.tack.release = none ∧ u.smithy.x = [] ∧
    u.gate.ide = false ∧ (∀ g, g < 4 → gateSlot u g = {}) ∧ (∀ k, k ≠ 6 → mrOf u k = mrOf s k) ∧
    mrOf u 6 = sha256 (mrOf s 6 ++ sha256 (leBytes 6 (now s) ++ leBytes 1 7 ++ leBytes 1 0x40 ++
      padTo 24 (leBytes 1 kind ++ List.replicate 7 0 ++ leBytes 8 addr))))

theorem seen_debugRecord (s : State) (kind addr : Nat) : Seen s kind addr (debugRecord s kind addr) ∧ (debugRecord s kind addr).ostler.sram = s.ostler.sram := by
  obtain ⟨tack, ostler, csr⟩ := accessCounted_keeps s kind addr
  rw [debugRecord_eq]
  generalize accessCounted s kind addr = v at tack ostler csr
  have mrs (k : Nat) : mrOf v k = mrOf s k := mrOf_congr (congrArg Tack.mrs tack) k
  cases observed : s.tack.observed with
  | true =>
    rw [if_pos ((congrArg Tack.observed tack).trans observed)]
    exact ⟨⟨(congrArg Tack.observed tack).trans observed, csr, fun _ => tack, fun not_ => absurd (observed.symm.trans not_) (by decide)⟩,
      congrArg Ostler.sram ostler⟩
  | false =>
    rw [if_neg (by rw [tack, observed]; decide)]
    obtain ⟨seen, sessions, ideKey, fabric, release, x, ide, slots, others, mr, counted, sram⟩ := setObserved_leaves v
      (leBytes 6 (now s) ++ leBytes 1 7 ++ leBytes 1 0x40 ++ padTo 24 (accessPayload kind addr))
    refine ⟨⟨seen, counted.trans csr, fun yes => absurd (observed.symm.trans yes) (by decide), fun _ =>
      ⟨sessions, ideKey, fabric, release, x, ide, slots, fun k ne => (others k ne).trans (mrs k), ?_⟩⟩, sram.trans (congrArg Ostler.sram ostler)⟩
    rw [mr, mrs]
    rfl

/-- What is seen does not depend on the bus, the TAP or the Ostler. -/
theorem Seen.congr {s u v : State} {kind addr : Nat} (h : Seen s kind addr u) (tack : v.tack = u.tack) (csr : v.csr = u.csr)
    (smithy : v.smithy = u.smithy) (gate : v.gate = u.gate) : Seen s kind addr v := by
  unfold Seen gateSlot mrOf at h ⊢
  rw [tack, csrGet_congr csr, smithy, gate]
  exact h

/-! ### JTAG and the access port (R443, R446, R491, R492) -/

theorem jtag_recorded {s : State} {ir : Byte} (ne : ir ≠ 0x01) (ne' : ir ≠ 0xFF) (free : s.rst.testEn = false) :
    jtag s ir = tapSelect (debugRecord s 1 ir.toNat) ir := by
  unfold jtag
  rw [decide_eq_false ne, decide_eq_false ne', free]
  rfl

theorem jtag_held {s : State} {ir : Byte} (ne : ir ≠ 0x01) (ne' : ir ≠ 0xFF) (held : s.rst.testEn = true) : jtag s ir = s := by
  unfold jtag
  rw [decide_eq_false ne, decide_eq_false ne', held]
  rfl

/-- A JTAG instruction other than IDCODE and BYPASS. -/
theorem jtag_seen {s : State} {ir : Byte} (ne : ir ≠ 0x01) (ne' : ir ≠ 0xFF) (free : s.rst.testEn = false) :
    (jtag s ir).tap.ir = ir ∧ Seen s 1 ir.toNat (jtag s ir) := by
  rw [jtag_recorded ne ne' free]
  exact ⟨rfl, (seen_debugRecord s 1 ir.toNat).1.congr rfl rfl rfl rfl⟩

theorem jtag_instruction {s : State} {i : Instr} {ir : Byte} (run : exec i s = .next (jtag s ir)) (ne : ir ≠ 0x01) (ne' : ir ≠ 0xFF) :
    (s.rst.testEn = false → Completes i s fun u => u.tap.ir = ir ∧ Seen s 1 ir.toNat u) ∧
    (s.rst.testEn = true → Completes i s fun u => u = s) :=
  ⟨fun free => completes_of run (jtag_seen ne ne' free), fun held => completes_of run (jtag_held ne ne' held)⟩

/-! ### Memory and registers through the port -/

theorem find?_ninsert_same {α : Type} (m : NMap α) (k : Nat) (v : α) : (ninsert m k v).find? (fun e => e.1 = k) = some (k, v) := by
  induction m with
  | nil => simp [ninsert]
  | cons e m ih =>
    obtain ⟨j, w⟩ := e
    unfold ninsert
    split
    · simp
    split
    · simp
    · next ne => rw [List.find?_cons_of_neg (by simpa using fun same : j = k => ne same.symm), ih]

theorem ostlerMemory_write (s : State) {o : Nat} (h : o < 0x100000) (b : Byte) :
    ostlerMemory s o (.write [b]) = modOstler s fun x => { x with sram := ninsert x.sram o b } := by
  show (modOstler s fun x => { x with sram := if o + 0 < 0x100000 then ninsert x.sram (o + 0) b else x.sram }) = _
  simp only [Nat.add_zero, if_pos h]

theorem ostlerMemory_read (s : State) {o : Nat} (h : o < 0x100000) {e : Nat × Byte} (stands : s.ostler.sram.find? (fun e => e.1 = o) = some e) :
    (ostlerMemory s o (.read 1)).bus = [e.2] := by
  show [ostlerByte s (o + 0) _] = _
  rw [Nat.add_zero, ostlerByte, if_pos h, stands]

/-- An access of the Ostler's memory is recorded, and performed. -/
theorem dap_ostler {s : State} {addr : Nat} (low : 0xB000000000 ≤ addr) (high : addr < 0xB000100000) (a : Access) :
    dap s addr a = ostlerMemory (debugRecord s (accessKind a) addr) (addr - 0xB000000000) a := by
  have loft : (decide (0x8000000000 ≤ addr) && decide (addr < 0x8000000000 + 832 * 2 ^ 20)) = false := by
    rw [decide_eq_false (p := addr < _) (by omega), Bool.and_false]
  have granary : (decide (0x9000000000 ≤ addr) && decide (addr < 0x9000000000 + 2 ^ 28)) = false := by
    rw [decide_eq_false (p := addr < _) (by omega), Bool.and_false]
  have registers : (decide (0xA000000000 ≤ addr) && decide (addr < 0xB000000000)) = false := by
    rw [decide_eq_false (p := addr < _) (by omega), Bool.and_false]
  have memory : (decide (0xB000000000 ≤ addr) && decide (addr < 0xC000000000)) = true := by
    rw [decide_eq_true low, decide_eq_true (by omega : addr < _)]
    rfl
  unfold dap
  rw [loft, granary, registers, memory, if_neg Bool.false_ne_true, if_neg Bool.false_ne_true]
  rfl

/-- A read of the Tack Room's or the Smithy's registers is recorded, and returns zeros. -/
theorem dap_secure {s : State} {addr : Nat} (low : 0xA000000000 ≤ addr) (high : addr < 0xB000000000) (secure : inSecure (addr - 0xA000000000) = true)
    (len : Nat) : dap s addr (.read len) = { debugRecord s 2 addr with bus := List.replicate len 0, busEp := false } := by
  have loft : (decide (0x8000000000 ≤ addr) && decide (addr < 0x8000000000 + 832 * 2 ^ 20)) = false := by
    rw [decide_eq_false (p := addr < _) (by omega), Bool.and_false]
  have granary : (decide (0x9000000000 ≤ addr) && decide (addr < 0x9000000000 + 2 ^ 28)) = false := by
    rw [decide_eq_false (p := addr < _) (by omega), Bool.and_false]
  have registers : (decide (0xA000000000 ≤ addr) && decide (addr < 0xB000000000)) = true := by
    rw [decide_eq_true low, decide_eq_true high]
    rfl
  unfold dap
  rw [loft, granary, registers, if_neg Bool.false_ne_true, if_neg Bool.false_ne_true]
  dsimp only
  rw [if_pos rfl, dapCsr, secure, if_pos rfl]
  rfl

theorem debugAccess_run {s : State} (free : s.rst.testEn = false) (addr : W64) (a : Access) :
    exec (.debugAccess addr (some a)) s = .next (dap s addr.toNat a) :=
  congrArg Host.Outcome.next (if_neg (by rw [free]; exact Bool.false_ne_true))

theorem tapDefined_false {x : Nat} (h : tapDefined x = false) : x ≠ 0x01 ∧ x ≠ 0xFF := by
  refine ⟨?_, ?_⟩
  · rintro rfl
    exact absurd h (by decide)
  · rintro rfl
    exact absurd h (by decide)

/-- Settles O51: every instruction and access but IDCODE, BYPASS and TRST_N passes through the record of `debugRecord`. -/
theorem debugPortSetsObserved : Obligations.DebugPortSetsObserved := by
  unfold Obligations.DebugPortSetsObserved
  intro s
  refine ⟨?_, ?_, ?_, ?_, fun addr => ⟨?_, ?_, ?_, ?_⟩⟩
  · simp only [List.forall_mem_cons, List.not_mem_nil, false_implies, implies_true, and_true]
    exact ⟨jtag_instruction rfl (by decide) (by decide), jtag_instruction rfl (by decide) (by decide), jtag_instruction rfl (by decide) (by decide),
      jtag_instruction rfl (by decide) (by decide), jtag_instruction rfl (by decide) (by decide)⟩
  · exact completes_of rfl ⟨rfl, rfl, rfl, rfl⟩
  · exact completes_of rfl ⟨rfl, rfl⟩
  · exact completes_of rfl ⟨rfl, rfl⟩
  · intro undefined_ free
    obtain ⟨ne, ne'⟩ := tapDefined_false undefined_
    have low : (addr.setWidth 8).toNat = addr.toNat % 256 := BitVec.toNat_setWidth ..
    have run : exec (.debugAccess addr none) s = .next (jtag s (addr.setWidth 8)) :=
      congrArg Host.Outcome.next (if_neg (ne_true_of_eq_false undefined_))
    rw [← low]
    refine completes_of run (jtag_seen ?_ ?_ free)
    · exact fun same => ne (low.symm.trans (congrArg BitVec.toNat same))
    · exact fun same => ne' (low.symm.trans (congrArg BitVec.toNat same))
  · intro a held
    exact completes_of (congrArg Host.Outcome.next (if_pos held)) rfl
  · intro free low high
    have within : addr.toNat - 0xB000000000 < 0x100000 := by omega
    refine ⟨fun b => ?_, fun e stands => ?_⟩
    · obtain ⟨seen, -⟩ := seen_debugRecord s 3 addr.toNat
      refine completes_of (debugAccess_run free addr _) ?_
      rw [dap_ostler low high, accessKind, ostlerMemory_write _ within]
      exact ⟨seen.congr rfl rfl rfl rfl, find?_ninsert_same ..⟩
    · obtain ⟨seen, sram⟩ := seen_debugRecord s 2 addr.toNat
      refine completes_of (debugAccess_run free addr _) ?_
      rw [dap_ostler low high, accessKind]
      exact ⟨seen.congr rfl rfl rfl rfl, ostlerMemory_read _ within (by rw [sram]; exact stands)⟩
  · intro free low high secure
    refine completes_of (debugAccess_run free addr _) ?_
    rw [dap_secure low high secure]
    exact ⟨(seen_debugRecord s 2 addr.toNat).1.congr rfl rfl rfl rfl, rfl⟩

/-! ### What the retirement and the measurement of stalls keep (R17, R454, R465) -/

/-- A step that keeps the reset state, the Tack Room, the Ostler and the Smithy. -/
structure CoreKept (s u : State) : Prop where
  rst : u.rst = s.rst
  tack : u.tack = s.tack
  ostler : u.ostler = s.ostler
  smithy : u.smithy = s.smithy

namespace CoreKept

variable {s u v : State}

theorem refl (s : State) : CoreKept s s :=
  ⟨rfl, rfl, rfl, rfl⟩

theorem trans (h : CoreKept s u) (h' : CoreKept u v) : CoreKept s v :=
  ⟨h'.rst.trans h.rst, h'.tack.trans h.tack, h'.ostler.trans h.ostler, h'.smithy.trans h.smithy⟩

theorem foldl {β : Type} {g : State → β → State} (h : ∀ s b, CoreKept s (g s b)) (l : List β) (s : State) : CoreKept s (l.foldl g s) := by
  induction l generalizing s with
  | nil => exact refl s
  | cons b l ih => exact (h s b).trans (ih _)

theorem modPos (s : State) (p : Nat) (f : Pos → Pos) : CoreKept s (modPos s p f) :=
  ⟨rfl, rfl, rfl, rfl⟩

theorem modStall (s : State) (p : Nat) (f : Stall → Stall) : CoreKept s (modStall s p f) :=
  ⟨rfl, rfl, rfl, rfl⟩

theorem csrSetField (s : State) (o a b v : Nat) : CoreKept s (csrSetField s o a b v) :=
  ⟨rfl, rfl, rfl, rfl⟩

theorem recordFirst (s : State) (off v : Nat) : CoreKept s (recordFirst s off v) :=
  ⟨recordFirst_rst .., recordFirst_tack .., recordFirst_ostler .., recordFirst_smithy ..⟩

theorem stallOff (s : State) (p : Nat) : CoreKept s (stallOff s p) :=
  ⟨stallOff_rst .., stallOff_tack .., stallOff_ostler .., stallOff_smithy ..⟩

theorem writeSetTables (s : State) (c : Nat) : CoreKept s (writeSetTables s c) :=
  ⟨writeSetTables_rst .., writeSetTables_tack .., writeSetTables_ostler .., writeSetTables_smithy ..⟩

theorem writePrimeTable (s : State) (p c : Nat) : CoreKept s (writePrimeTable s p c) :=
  ⟨writePrimeTable_rst .., writePrimeTable_tack .., writePrimeTable_ostler .., writePrimeTable_smithy ..⟩

theorem placeCode (s : State) (p c : Nat) (code : List W128) : CoreKept s (placeCode s p c code) :=
  ⟨placeCode_rst .., placeCode_tack .., placeCode_ostler .., placeCode_smithy ..⟩

theorem stopContext (s : State) (p lid c : Nat) : CoreKept s (stopContext s p lid c) :=
  ⟨stopContext_rst .., stopContext_tack .., stopContext_ostler .., stopContext_smithy ..⟩

theorem reportFault (s : State) (source code detail c lid team handle : Nat) : CoreKept s (reportFault s source code detail c lid team handle) :=
  ⟨reportFault_rst .., reportFault_tack .., reportFault_ostler .., reportFault_smithy ..⟩

theorem setAge (s : State) (p mv : Nat) : CoreKept s (setAge s p mv) :=
  ⟨setAge_rst .., setAge_tack .., setAge_ostler .., setAge_smithy ..⟩

theorem setIvr (s : State) (p : Nat) : CoreKept s (setIvr s p) :=
  ⟨setIvr_rst .., setIvr_tack .., setIvr_ostler .., setIvr_smithy ..⟩

theorem abandonScan (s : State) : CoreKept s (abandonScan s) := by
  unfold Machine.abandonScan
  split
  · exact refl s
  · split
    · exact refl s
    · exact ((modPos ..).trans (csrSetField ..)).trans (csrSetField ..)

theorem substitute (s : State) (q lid : Nat) (live : StallCtx) : CoreKept s (substitute s q lid live) := by
  unfold Machine.substitute
  refine trans ?_ (foldl (fun s e => ?_) _ _)
  · split
    · exact (modPos ..).trans (modStall ..)
    · exact (((modPos ..).trans (modStall ..)).trans (writePrimeTable ..)).trans (writeSetTables ..)
  · split
    · split
      · exact refl s
      · exact placeCode ..
    · exact refl s

theorem withdraw (s : State) (p : Nat) (cause : BitVec 2) (v : Nat) : CoreKept s (withdraw s p cause v) :=
  ((recordFirst ..).trans (modPos ..)).trans (stallOff ..)

theorem retire (s : State) (p : Nat) (cause : BitVec 2) : CoreKept s (retire s p cause) := by
  obtain ⟨v, same⟩ := retire_eq s p cause
  rw [same]
  have gone := (withdraw s p cause v).trans (abandonScan _)
  split
  · exact withdraw ..
  · split
    · exact gone.trans (substitute ..)
    · refine trans ?_ (foldl (fun s e => ?_) _ _)
      · split
        · exact gone
        · exact gone.trans (writeSetTables ..)
      · split
        · split
          · exact stopContext ..
          · exact refl s
        · exact refl s

theorem ageMeasure (s : State) (p mv : Nat) : CoreKept s (ageMeasure s p mv) := by
  have aged := setAge s p mv
  unfold Machine.ageMeasure
  dsimp only
  split
  · exact aged
  · have noted : CoreKept s (if csrBit s (stallCsr p 0x400) 15 = true then Machine.setAge s p mv else
        Machine.reportFault (Machine.setAge s p mv) 1025 0x0A03 p 0xFF (lidOf s p) 0 0xFFF) := by
      split
      · exact aged
      · exact aged.trans (reportFault ..)
    split
    · exact noted.trans (retire ..)
    · exact noted.trans (modPos ..)

theorem powerStalls (s : State) (mv : Nat) : CoreKept s (powerStalls s mv) :=
  (foldl (fun s p => setIvr s p) _ s).trans (foldl (fun s p => ageMeasure s p mv) _ _)

theorem retiredInFlash (s : State) (p cause : Nat) : CoreKept s (retiredInFlash s p cause) := by
  unfold Machine.retiredInFlash
  dsimp only
  split
  · exact modPos ..
  · split
    · exact (modPos ..).trans (modPos ..)
    · exact modPos ..

theorem applyMargins (s : State) : CoreKept s (applyMargins s) := by
  unfold Machine.applyMargins
  refine trans (foldl (fun s e => ?_) _ s) (foldl (fun s e => ?_) _ _)
  · split
    · exact modPos ..
    · exact refl s
  · split
    · exact retiredInFlash ..
    · exact refl s

theorem bootPositions (s : State) : CoreKept s (bootPositions s) := by
  unfold Machine.bootPositions
  split
  · exact refl s
  · have placed : CoreKept s { s with positions := fusedPositions s.fuses } := ⟨rfl, rfl, rfl, rfl⟩
    exact placed.trans (applyMargins _)

theorem installRegions (s : State) : CoreKept s (installRegions s) :=
  ⟨installRegions_rst .., installRegions_tack .., installRegions_ostler .., installRegions_smithy ..⟩

theorem trainHbm (s : State) : CoreKept s (trainHbm s) :=
  ⟨trainHbm_rst .., trainHbm_tack .., trainHbm_ostler .., trainHbm_smithy ..⟩

end CoreKept

/-! ### What boot does once its images are verified (R424, R453, R458, R459) -/

/-- A step that keeps OBSERVED and the measurement registers that the boot does not extend after its images. -/
structure Measured (s u : State) : Prop where
  observed : u.tack.observed = s.tack.observed
  mr : ∀ k, k ≠ 4 → k ≠ 5 → mrOf u k = mrOf s k

namespace Measured

variable {s u v : State}

theorem of_tack (h : u.tack = s.tack) : Measured s u :=
  ⟨congrArg Tack.observed h, fun k _ _ => mrOf_congr (congrArg Tack.mrs h) k⟩

theorem trans (h : Measured s u) (h' : Measured u v) : Measured s v :=
  ⟨h'.observed.trans h.observed, fun k a b => (h'.mr k a b).trans (h.mr k a b)⟩

theorem foldl {β : Type} {g : State → β → State} (h : ∀ s b, Measured s (g s b)) (l : List β) (s : State) : Measured s (l.foldl g s) := by
  induction l generalizing s with
  | nil => exact of_tack rfl
  | cons b l ih => exact (h s b).trans (ih _)

theorem extendMr (s : State) {i : Nat} (hi : i = 4 ∨ i = 5) (d : List Byte) : Measured s (extendMr s i d) :=
  ⟨rfl, fun k a b => mrOf_extendMr_other s (by omega) d⟩

theorem checkSlot (s : State) (g : Nat) : Measured s (checkSlot s g) := by
  have slot (v : State) (x : GateSlot) : Measured v (setGateSlot v g x) := ⟨rfl, fun k _ _ => mrOf_congr rfl k⟩
  have wiped : Measured s (wipeSlot s g) := ⟨rfl, fun k _ _ => mrOf_congr rfl k⟩
  unfold Machine.checkSlot
  split
  · exact of_tack rfl
  · split
    · exact wiped.trans (extendMr _ (.inr rfl) _)
    · exact (slot s _).trans (extendMr _ (.inr rfl) _)

end Measured

/-- The device with its stalls powered and its stacks trained. -/
def hbmReady (s : State) (mv : Nat) : State :=
  installRegions (trainHbm (powerStalls (modRst s fun r => { r with dies := true }) mv))

/-- The device with its shares checked. -/
def sharesChecked (level : Nat) (s : State) : State :=
  if level = 3 then s else [0, 1, 2, 3].foldl checkSlot s

/-- The device with its security configuration measured. -/
def configMeasured (s : State) : State :=
  extendMr s 4 (sha256 (Config.securityConfig s.gate.bridge (bitsOf (csrGet s 0x07C0000).toNat 14 0) (bitsOf (csrGet s 0x07C0000).toNat 21 16)
    s.tack.fabric.isSome))

/-- The Tack Room with its certificate, booted. -/
def tackBooted (s : State) : State :=
  modTack (issueCert s) fun t => { t with booted := true }

/-- The device whose Smithy and Ostler run. -/
def blocksStarted (s : State) : State :=
  { startSmithy (tackBooted s) with ostler := { (startSmithy (tackBooted s)).ostler with up := true } }

theorem bootRest_eq (s : State) (mv : Nat) :
    bootRest s mv = openRings (bootFaultN (blocksStarted (configMeasured (sharesChecked s.rst.level (hbmReady s mv))))) :=
  rfl

/-- What the boot keeps of a step's state up to the start of its blocks. -/
structure Starts (s u : State) : Prop where
  rst : u.rst = s.rst
  measured : Measured s u

theorem Starts.trans {s u v : State} (h : Starts s u) (h' : Starts u v) : Starts s v :=
  ⟨h'.rst.trans h.rst, h.measured.trans h'.measured⟩

theorem rst_hbmReady (s : State) (mv : Nat) : (hbmReady s mv).rst = { s.rst with dies := true } := by
  have kept := ((CoreKept.powerStalls (modRst s fun r => { r with dies := true }) mv).trans (.trainHbm _)).trans (.installRegions _)
  exact kept.rst

theorem measured_hbmReady (s : State) (mv : Nat) : Measured s (hbmReady s mv) := by
  have kept := ((CoreKept.powerStalls (modRst s fun r => { r with dies := true }) mv).trans (.trainHbm _)).trans (.installRegions _)
  exact .of_tack kept.tack

theorem starts_sharesChecked (level : Nat) (s : State) : Starts s (sharesChecked level s) := by
  unfold sharesChecked
  split
  · exact ⟨rfl, .of_tack rfl⟩
  · exact ⟨foldl_rst _ (fun s g => checkSlot_rst s g) _ s, .foldl (fun s g => .checkSlot s g) _ s⟩

theorem starts_configMeasured (s : State) : Starts s (configMeasured s) :=
  ⟨rfl, .extendMr s (.inl rfl) _⟩

theorem curves_startSmithy (s : State) : (startSmithy s).smithy.curves = nset none s.smithy.curves 0 (some secp384r1) := by
  unfold startSmithy smithyClear bump
  dsimp only
  rw [bumpBy_smithy, bumpBy_smithy]
  rfl

theorem measured_tackBooted (s : State) : Measured s (tackBooted s) :=
  ⟨rfl, fun k _ _ => mrOf_congr rfl k⟩

theorem blocksStarted_leaves (s : State) : (blocksStarted s).rst = s.rst ∧ Measured s (blocksStarted s) ∧ (blocksStarted s).tack.booted = true ∧
    (blocksStarted s).ostler.up = true ∧ nget none (blocksStarted s).smithy.curves 0 = some secp384r1 := by
  have tack := startSmithy_tack (tackBooted s)
  have rst := startSmithy_rst (tackBooted s)
  have curves := curves_startSmithy (tackBooted s)
  have measured := measured_tackBooted s
  have booted : (tackBooted s).tack.booted = true := rfl
  have same : (tackBooted s).rst = s.rst := rfl
  unfold blocksStarted
  generalize startSmithy (tackBooted s) = v at tack rst curves
  generalize tackBooted s = w at tack rst curves measured booted same
  refine ⟨rst.trans same, measured.trans ⟨congrArg Tack.observed tack, fun k _ _ => mrOf_congr (congrArg Tack.mrs tack) k⟩,
    (congrArg Tack.booted tack).trans booted, rfl, ?_⟩
  dsimp only
  rw [curves, nget_nset_same]

theorem bootFaultN_keeps (s : State) : (bootFaultN s).tack = s.tack ∧ (bootFaultN s).ostler = s.ostler ∧ (bootFaultN s).smithy = s.smithy ∧
    ∃ b, (bootFaultN s).rst = { s.rst with faultN := b } := by
  have kept := CoreKept.csrSetField s 0x0B00010 10 10 1
  unfold bootFaultN
  split
  · generalize csrSetField s 0x0B00010 10 10 1 = v at kept
    exact ⟨kept.tack, kept.ostler, kept.smithy, false, congrArg (fun r : Rst => { r with faultN := false }) kept.rst⟩
  · exact ⟨rfl, rfl, rfl, decide (csrField s 0x0B00010 10 1 = 0), rfl⟩

/-- The device whose boot is in the Daybook and whose contexts' rings are about to open. -/
def bootRecorded (s : State) : State :=
  dbAppend (dbAppend s 1 0x40 (leBytes 8 (now s))) 0x0D 0x40 (leBytes 4 (csrGet (dbAppend s 1 0x40 (leBytes 8 (now s))) rstCause).toNat)

/-- The device as it begins to run. -/
def bootRunning (s : State) : State :=
  modRst { bootRecorded s with db := { (bootRecorded s).db with extend := s.ledger } } fun r => { r with
    phase := .running, wdogAt := if r.level = 1 then r.wdogAt else s.ledger }

theorem openRings_eq (s : State) : openRings s = (bootRunning s).ctxs.foldl (fun s e => takeHeld 64 s e.1) (bootRunning s) :=
  rfl

theorem rst_openRings (s : State) : (openRings s).rst.phase = .running ∧ (openRings s).rst.recovery = s.rst.recovery ∧
    (openRings s).rst.dies = s.rst.dies ∧ (openRings s).rst.runB = s.rst.runB := by
  have began : (bootRecorded s).rst = s.rst := by rw [bootRecorded, dbAppend_rst, dbAppend_rst]
  have opened : (openRings s).rst = (bootRunning s).rst := by
    rw [openRings_eq]
    exact foldl_rst _ (fun s (e : Nat × Ctx) => takeHeld_rst 64 s e.1) ..
  have runs : (bootRunning s).rst = { (bootRecorded s).rst with
      phase := .running, wdogAt := if (bootRecorded s).rst.level = 1 then (bootRecorded s).rst.wdogAt else s.ledger } := rfl
  rw [opened, runs, began]
  exact ⟨rfl, rfl, rfl, rfl⟩

/-- Boot, from its firmware on, comes to run. -/
theorem bootRest_runs (s : State) (mv : Nat) (sound : s.rst.recovery = false) :
    (bootRest s mv).rst.phase = .running ∧ (bootRest s mv).rst.recovery = false ∧ (bootRest s mv).tack.booted = true ∧ (bootRest s mv).ostler.up = true ∧
    (bootRest s mv).rst.dies = true ∧ (bootRest s mv).rst.runB = s.rst.runB ∧ Measured s (bootRest s mv) ∧
    nget none (bootRest s mv).smithy.curves 0 = some secp384r1 := by
  have ready := rst_hbmReady s mv
  have measured := measured_hbmReady s mv
  rw [bootRest_eq]
  generalize hbmReady s mv = v at ready measured
  have starts := (starts_sharesChecked s.rst.level v).trans (starts_configMeasured _)
  generalize configMeasured (sharesChecked s.rst.level v) = w at starts
  obtain ⟨rst, kept, booted, up, curve⟩ := blocksStarted_leaves w
  generalize blocksStarted w = x at rst kept booted up curve
  obtain ⟨tack, ostler, smithy, b, fault⟩ := bootFaultN_keeps x
  generalize bootFaultN x = y at tack ostler smithy fault
  obtain ⟨phase, recovery, dies, runB⟩ := rst_openRings y
  rw [fault, rst, starts.rst, ready] at recovery dies runB
  have opened : (openRings y).tack = x.tack := (openRings_tack y).trans tack
  refine ⟨phase, recovery.trans sound, (congrArg Tack.booted opened).trans booted, ?_, dies, runB, ?_, ?_⟩
  · rw [openRings_ostler, ostler, up]
  · exact ((measured.trans starts.measured).trans kept).trans (.of_tack opened)
  · rw [openRings_smithy, smithy, curve]

/-! ### The images of the firmware (R424, R458) -/

theorem mrOf_svns (s : State) (f : NMap Nat → NMap Nat) (k : Nat) : mrOf (modTack s fun t => { t with svns := f t.svns }) k = mrOf s k :=
  mrOf_congr rfl k

theorem mrOf_measureImage_same (s : State) (c : Nat) (img : List Byte) : mrOf (measureImage s c img) c = sha256 (mrOf s c ++ sha256 img) := by
  rw [← mrOf_extendMr_same]
  exact mrOf_svns (extendMr s c (sha256 img)) (fun m => nset 0 m c (imageSvn img)) c

theorem mrOf_measureImage_other (s : State) {c k : Nat} (h : k ≠ c) (img : List Byte) : mrOf (measureImage s c img) k = mrOf s k := by
  rw [← mrOf_extendMr_other s h (sha256 img)]
  exact mrOf_svns (extendMr s c (sha256 img)) (fun m => nset 0 m c (imageSvn img)) k

theorem measureImage_keeps (s : State) (c : Nat) (img : List Byte) : (measureImage s c img).rst = s.rst ∧
    (measureImage s c img).tack.observed = s.tack.observed :=
  ⟨rfl, rfl⟩

/-- The images of the firmware, measured in the order in which the boot checks them. -/
def imagesMeasured (s : State) (a b c : Bool) : State :=
  measureImage (measureImage (measureImage s 2 (flashImage s 2 b)) 1 (flashImage s 1 a)) 3 (flashImage s 3 c)

/-- The slots that run, as RUN_B shows them. -/
def runSlots (a b c : Bool) : BitVec 3 :=
  BitVec.ofNat 3 ((if a then 1 else 0) + (if b then 2 else 0) + (if c then 4 else 0))

theorem runSlots_eq : ∀ a b c, runSlots a b c = BitVec.ofBool c ++ BitVec.ofBool b ++ BitVec.ofBool a := by
  decide

/-- The device with the keys of its measured images. -/
def imagesRun (s : State) (a b c : Bool) (fabric : Option (BitVec 256)) : State :=
  deriveFwKeys (modTack (modRst s fun r => { r with runB := runSlots a b c, acts := [] }) fun t => { t with
    dik := Config.slhKeygen (deriveKey (ascii "Yocon DIK") 48), memKey := deriveKey (ascii "Yocon MEM64") 96,
    fabric := fabric })

theorem imagesRun_keeps (s : State) (a b c : Bool) (fabric : Option (BitVec 256)) :
    (imagesRun s a b c fabric).rst = { s.rst with runB := runSlots a b c, acts := [] } ∧
    (imagesRun s a b c fabric).tack.mrs = s.tack.mrs ∧ (imagesRun s a b c fabric).tack.observed = s.tack.observed :=
  ⟨rfl, rfl, rfl⟩

theorem startFirmware_eq (s : State) (a b c : Bool) : startFirmware s a b c = imagesRun (imagesMeasured s a b c) a b c s.ostler.fabric := by
  unfold startFirmware imagesRun imagesMeasured runSlots
  dsimp only

/-- What the start of the firmware leaves. -/
theorem startFirmware_leaves (s : State) (a b c : Bool) :
    (startFirmware s a b c).rst = { s.rst with runB := BitVec.ofBool c ++ BitVec.ofBool b ++ BitVec.ofBool a, acts := [] } ∧
    (startFirmware s a b c).tack.observed = s.tack.observed ∧
    mrOf (startFirmware s a b c) 1 = sha256 (mrOf s 1 ++ sha256 (flashImage s 1 a)) ∧
    mrOf (startFirmware s a b c) 2 = sha256 (mrOf s 2 ++ sha256 (flashImage s 2 b)) ∧
    mrOf (startFirmware s a b c) 3 = sha256 (mrOf s 3 ++ sha256 (flashImage s 3 c)) := by
  obtain ⟨rst, mrs, observed⟩ := imagesRun_keeps (imagesMeasured s a b c) a b c s.ostler.fabric
  rw [startFirmware_eq]
  have kept : (imagesMeasured s a b c).rst = s.rst := by
    rw [imagesMeasured, (measureImage_keeps ..).1, (measureImage_keeps ..).1, (measureImage_keeps ..).1]
  have seen : (imagesMeasured s a b c).tack.observed = s.tack.observed := by
    rw [imagesMeasured, (measureImage_keeps ..).2, (measureImage_keeps ..).2, (measureImage_keeps ..).2]
  have measured (k : Nat) : mrOf (imagesRun (imagesMeasured s a b c) a b c s.ostler.fabric) k = mrOf (imagesMeasured s a b c) k := mrOf_congr mrs k
  refine ⟨by rw [rst, kept, runSlots_eq], observed.trans seen, ?_, ?_, ?_⟩
  · rw [measured, imagesMeasured, mrOf_measureImage_other _ (by decide), mrOf_measureImage_same, mrOf_measureImage_other _ (by decide)]
  · rw [measured, imagesMeasured, mrOf_measureImage_other _ (by decide), mrOf_measureImage_other _ (by decide), mrOf_measureImage_same]
  · rw [measured, imagesMeasured, mrOf_measureImage_same, mrOf_measureImage_other _ (by decide), mrOf_measureImage_other _ (by decide)]

/-- The boot ROM measures itself and the fuses. -/
theorem measureRom_keeps (s : State) : (measureRom s).rst = s.rst ∧ (measureRom s).ostler = s.ostler ∧ (measureRom s).positions = s.positions ∧
    (measureRom s).tack.observed = s.tack.observed ∧ (measureRom s).tack.booted = s.tack.booted ∧ (measureRom s).tack.ak = s.tack.ak ∧
    ∀ k, k ≠ 0 → mrOf (measureRom s) k = mrOf s k :=
  ⟨rfl, rfl, rfl, rfl, rfl, rfl, fun _ ne => (mrOf_extendMr_other _ ne _).trans (mrOf_extendMr_other _ ne _)⟩

/-- The positions of the fuses, with the trim backup in use or not (R455). -/
def positionsBacked (s : State) (b : Bool) : State :=
  modRst (bootPositions s) fun r => { r with backup := b }

theorem positionsBacked_self (s : State) : positionsBacked s (bootPositions s).rst.backup = bootPositions s :=
  rfl

/-- A device that boots goes by its phase and whether it has come to the recovery state. -/
theorem boot_acts {s : State} (phase : s.rst.phase = .released) (sound : s.rst.recovery = false) :
    (decide (s.rst.phase ≠ .released) || s.rst.recovery) = false := by
  rw [decide_eq_false (not_not.mpr phase), sound]
  rfl

/-- Boot without its images, or with fuses that fail, comes to the recovery state. -/
theorem boot_fails {s : State} {crc : Bool} (images : List (Bool × Bool)) (mv : Nat) (phase : s.rst.phase = .released) (sound : s.rst.recovery = false)
    (fails : (crc = false ∧ s.rst.level ≠ 1) ∨ bootSlot s images 1 = none ∨ bootSlot s images 2 = none ∨ bootSlot s images 3 = none) :
    ∃ b, exec (.boot crc images mv) s = .next (enterRecovery (measureRom (positionsBacked s b))) ∧ (crc = false → s.rst.level ≠ 1 → b = true) := by
  have body : exec (.boot crc images mv) s = execBoot crc images mv s := rfl
  unfold execBoot at body
  rw [boot_acts phase sound, if_neg Bool.false_ne_true] at body
  by_cases bad : (!crc && decide (s.rst.level ≠ 1)) = true
  · rw [if_pos bad] at body
    exact ⟨true, body, fun _ _ => rfl⟩
  · rw [if_neg bad] at body
    have trusted : ¬(crc = false ∧ s.rst.level ≠ 1) := by
      rintro ⟨rfl, level⟩
      exact bad (by rw [decide_eq_true level]; rfl)
    refine ⟨(bootPositions s).rst.backup, ?_, fun h h' => absurd ⟨h, h'⟩ trusted⟩
    rw [positionsBacked_self, body]
    dsimp only
    split
    · next a b c one two three => exact absurd (fails.resolve_left trusted) (by rw [one, two, three]; nofun)
    · rfl

/-- Settles O53: boot measures the images that it runs, and comes to run with the rest; without them it comes to the recovery state. -/
theorem bootRunsVerifiedImages : Obligations.BootRunsVerifiedImages := by
  unfold Obligations.BootRunsVerifiedImages
  intro s crc images mv
  have placed := CoreKept.bootPositions s
  refine ⟨fun kept => ?_, fun phase sound => ⟨fun a b c trusted one two three => ?_, fun fails => ?_⟩⟩
  · have still : (decide (s.rst.phase ≠ .released) || s.rst.recovery) = true := by
      rcases kept with phase | recovery
      · rw [decide_eq_true phase, Bool.true_or]
      · rw [recovery, Bool.or_true]
    exact completes_of (congrArg Host.Outcome.next (if_pos still)) rfl
  · change bootSlot s images 1 = some a at one
    change bootSlot s images 2 = some b at two
    change bootSlot s images 3 = some c at three
    have own : (!crc && decide (s.rst.level ≠ 1)) = false := by
      rcases trusted with crc | level
      · rw [crc]
        rfl
      · rw [decide_eq_false (not_not.mpr level), Bool.and_false]
    have run : exec (.boot crc images mv) s = .next (bootRest (startFirmware (measureRom (bootPositions s)) a b c) mv) := by
      refine (show _ = execBoot crc images mv s from rfl).trans ?_
      unfold execBoot
      rw [boot_acts phase sound, own, if_neg Bool.false_ne_true, if_neg Bool.false_ne_true, one, two, three]
    obtain ⟨rst, ostler, -, observed, -, -, mr⟩ := measureRom_keeps (bootPositions s)
    have flash (k : Nat) (x : Bool) : flashImage (measureRom (bootPositions s)) k x = flashImage s k x :=
      flashImage_congr (congrArg Ostler.flash (ostler.trans placed.ostler)) k x
    have mrs (k : Nat) (ne : k ≠ 0) : mrOf (measureRom (bootPositions s)) k = mrOf s k :=
      (mr k ne).trans (mrOf_congr (congrArg Tack.mrs placed.tack) k)
    obtain ⟨fwRst, fwSeen, mr1, mr2, mr3⟩ := startFirmware_leaves (measureRom (bootPositions s)) a b c
    rw [flash, mrs _ (by decide)] at mr1 mr2 mr3
    rw [rst, placed.rst] at fwRst
    have clean : (startFirmware (measureRom (bootPositions s)) a b c).rst.recovery = false := by rw [fwRst]; exact sound
    obtain ⟨runs, recovery, booted, up, dies, runB, kept, curve⟩ := bootRest_runs _ mv clean
    refine completes_of run ⟨runs, recovery, booted, up, dies, runB.trans (by rw [fwRst]), (kept.mr 1 (by decide) (by decide)).trans mr1,
      (kept.mr 2 (by decide) (by decide)).trans mr2, (kept.mr 3 (by decide) (by decide)).trans mr3, curve, ?_⟩
    exact kept.observed.trans (fwSeen.trans (observed.trans (congrArg Tack.observed placed.tack)))
  · obtain ⟨b, run, backup⟩ := boot_fails images mv phase sound fails
    obtain ⟨rst, -, positions, -, booted, ak, -⟩ := measureRom_keeps (positionsBacked s b)
    refine completes_of run ⟨rfl, ?_, rfl, rfl, ?_, ?_, fun bad level => ⟨?_, positions⟩⟩
    · exact (congrArg Rst.phase rst).trans ((congrArg Rst.phase placed.rst).trans phase)
    · exact booted.trans (congrArg Tack.booted placed.tack)
    · exact ak.trans (congrArg Tack.ak placed.tack)
    · exact (congrArg Rst.backup rst).trans (backup bad level)

end Sys2Proof.Machine
end

section
/-!
SUPPORT. The frame lemmas that the proofs of O40 and O34 rest on.
-/

namespace Sys2Proof.Machine

/-! ### The recovery state of the contexts -/

@[simp] theorem vRecs_foldl {β : Type} (g : State → β → State) (h : ∀ s b, (g s b).vRecs = s.vRecs) (l : List β) (s : State) :
    (l.foldl g s).vRecs = s.vRecs := by
  induction l generalizing s with
  | nil => rfl
  | cons b l ih => exact (ih (g s b)).trans (h s b)

@[simp] theorem vRecs_hbmCount (s : State) (st i n : Nat) :
    (hbmCount s st i n).vRecs = s.vRecs := by simp [hbmCount]

@[simp] theorem vRecs_rlDevCount (s : State) (i : Nat) :
    (rlDevCount s i).vRecs = s.vRecs := by simp [rlDevCount]

@[simp] theorem vRecs_sendPlain (s : State) (n type : Nat) :
    (sendPlain s n type).vRecs = s.vRecs := by simp [sendPlain]

@[simp] theorem vRecs_modSlot (s : State) (page : Nat) (f : Slot → Slot) :
    (modSlot s page f).vRecs = s.vRecs := by simp [modSlot, vRecs_eta]

@[simp] theorem vRecs_returnCredits (k : Nat) (s : State) (n : Nat) : (returnCredits k s n).vRecs = s.vRecs := by
  induction k generalizing s with
  | zero => rfl
  | succ k ih =>
    unfold returnCredits
    split
    · rfl
    · rw [ih]
      simp

@[simp] theorem vRecs_settle (s : State) (n : Nat) :
    (settle s n).vRecs = s.vRecs := by simp [settle]

@[simp] theorem vRecs_freePlace (s : State) (n place : Nat) :
    (freePlace s n place).vRecs = s.vRecs := by simp [freePlace]

@[simp] theorem vRecs_consume (s : State) (i : Nat) (h : Held) :
    (consume s i h).vRecs = s.vRecs := by simp [consume, vRecs_eta]

@[simp] theorem vRecs_dbToken (s : State) (c src kind epoch end_ : Nat) :
    (dbToken s c src kind epoch end_).vRecs = s.vRecs := by simp [dbToken]

@[simp] theorem vRecs_sendGap (s : State) (src job expect : Nat) :
    (sendGap s src job expect).vRecs = s.vRecs := by simp [sendGap]

@[simp] theorem vRecs_ackGate (s : State) (dst job dseq : Nat) (bad : Bool) :
    (ackGate s dst job dseq bad).vRecs = s.vRecs := by simp [ackGate, vRecs_eta]

@[simp] theorem hbmCount_recs (s : State) (st i n : Nat) :
    (hbmCount s st i n).recs = s.recs := (vRecs_def _).symm.trans ((vRecs_hbmCount ..).trans (vRecs_def _))

@[simp] theorem recOf_rlDevCount (s : State) (i : Nat) (j₀ : Nat) :
    recOf (rlDevCount s i) j₀ = recOf s j₀ := congrArg (nget ({} : Rec) · j₀) ((vRecs_def _).symm.trans ((vRecs_rlDevCount
      ..).trans (vRecs_def _)))

@[simp] theorem recOf_send (s : State) (src dst : Node) (net : Net) (c : Nat) (b : Body) (j₀ : Nat) :
    recOf (send s src dst net c b) j₀ = recOf s j₀ := congrArg (nget ({} : Rec) · j₀) ((vRecs_def _).symm.trans ((vRecs_send
      ..).trans (vRecs_def _)))

@[simp] theorem modSlot_recs (s : State) (page : Nat) (f : Slot → Slot) :
    (modSlot s page f).recs = s.recs := (vRecs_def _).symm.trans ((vRecs_modSlot ..).trans (vRecs_def _))

@[simp] theorem recOf_consume (s : State) (i : Nat) (h : Held) (j₀ : Nat) :
    recOf (consume s i h) j₀ = recOf s j₀ := congrArg (nget ({} : Rec) · j₀) ((vRecs_def _).symm.trans ((vRecs_consume
      ..).trans (vRecs_def _)))

@[simp] theorem recOf_dbToken (s : State) (c src kind epoch end_ : Nat) (j₀ : Nat) :
    recOf (dbToken s c src kind epoch end_) j₀ = recOf s j₀ := congrArg (nget ({} : Rec) · j₀) ((vRecs_def _).symm.trans
      ((vRecs_dbToken ..).trans (vRecs_def _)))

@[simp] theorem recOf_sendGap (s : State) (src job expect : Nat) (j₀ : Nat) :
    recOf (sendGap s src job expect) j₀ = recOf s j₀ := congrArg (nget ({} : Rec) · j₀) ((vRecs_def _).symm.trans
      ((vRecs_sendGap ..).trans (vRecs_def _)))

@[simp] theorem recOf_ackGate (s : State) (dst job dseq : Nat) (bad : Bool) (j₀ : Nat) :
    recOf (ackGate s dst job dseq bad) j₀ = recOf s j₀ := congrArg (nget ({} : Rec) · j₀) ((vRecs_def _).symm.trans
      ((vRecs_ackGate ..).trans (vRecs_def _)))

/-! ### The registers -/

@[simp] theorem vCsr_modRec (s : State) (c : Nat) (f : Rec → Rec) :
    (modRec s c f).vCsr = s.vCsr := by simp [modRec, vCsr_eta]

@[simp] theorem vCsr_trigger (s : State) (c target : Nat) :
    (trigger s c target).vCsr = s.vCsr := by simp [trigger]

@[simp] theorem vCsr_modFlow (s : State) (c dst job : Nat) (g : Flow → Flow) :
    (modFlow s c dst job g).vCsr = s.vCsr := by simp [modFlow]

@[simp] theorem vCsr_ackSent (s : State) (c dst job dseq : Nat) (poison : Bool) :
    (ackSent s c dst job dseq poison).vCsr = s.vCsr := by
  unfold ackSent
  split <;> simp

@[simp] theorem vCsr_modHome (s : State) (c src job : Nat) (g : Home → Home) :
    (modHome s c src job g).vCsr = s.vCsr := by simp [modHome]

@[simp] theorem vCsr_setDeps (s : State) (c : Nat) (ds : List Dep) :
    (setDeps s c ds).vCsr = s.vCsr := by simp [setDeps]

@[simp] theorem vCsr_clearDep (s : State) (c src epoch : Nat) :
    (clearDep s c src epoch).vCsr = s.vCsr := by simp [clearDep]

@[simp] theorem ackSent_csr (s : State) (c dst job dseq : Nat) (poison : Bool) :
    (ackSent s c dst job dseq poison).csr = s.csr := (vCsr_def _).symm.trans ((vCsr_ackSent ..).trans (vCsr_def _))

@[simp] theorem modHome_csr (s : State) (c src job : Nat) (g : Home → Home) :
    (modHome s c src job g).csr = s.csr := (vCsr_def _).symm.trans ((vCsr_modHome ..).trans (vCsr_def _))

@[simp] theorem clearDep_csr (s : State) (c src epoch : Nat) :
    (clearDep s c src epoch).csr = s.csr := (vCsr_def _).symm.trans ((vCsr_clearDep ..).trans (vCsr_def _))

/-! ### The fault reports -/

@[simp] theorem vReports_hbmCount (s : State) (st i n : Nat) :
    (hbmCount s st i n).vReports = s.vReports := by simp [hbmCount]

@[simp] theorem vReports_sendPlain (s : State) (n type : Nat) :
    (sendPlain s n type).vReports = s.vReports := by simp [sendPlain]

@[simp] theorem vReports_returnCredits (k : Nat) (s : State) (n : Nat) : (returnCredits k s n).vReports = s.vReports := by
  induction k generalizing s with
  | zero => rfl
  | succ k ih =>
    unfold returnCredits
    split
    · rfl
    · rw [ih]
      simp

@[simp] theorem vReports_settle (s : State) (n : Nat) :
    (settle s n).vReports = s.vReports := by simp [settle]

@[simp] theorem vReports_freePlace (s : State) (n place : Nat) :
    (freePlace s n place).vReports = s.vReports := by simp [freePlace]

@[simp] theorem vReports_consume (s : State) (i : Nat) (h : Held) :
    (consume s i h).vReports = s.vReports := by simp [consume, vReports_eta]

@[simp] theorem vReports_modHome (s : State) (c src job : Nat) (g : Home → Home) :
    (modHome s c src job g).vReports = s.vReports := by simp [modHome]

@[simp] theorem vReports_setDeps (s : State) (c : Nat) (ds : List Dep) :
    (setDeps s c ds).vReports = s.vReports := by simp [setDeps]

@[simp] theorem hbmCount_reports (s : State) (st i n : Nat) :
    (hbmCount s st i n).reports = s.reports := (vReports_def _).symm.trans ((vReports_hbmCount ..).trans (vReports_def _))

@[simp] theorem consume_reports (s : State) (i : Nat) (h : Held) :
    (consume s i h).reports = s.reports := (vReports_def _).symm.trans ((vReports_consume ..).trans (vReports_def _))

@[simp] theorem modHome_reports (s : State) (c src job : Nat) (g : Home → Home) :
    (modHome s c src job g).reports = s.reports := (vReports_def _).symm.trans ((vReports_modHome ..).trans (vReports_def _))

@[simp] theorem setDeps_reports (s : State) (c : Nat) (ds : List Dep) :
    (setDeps s c ds).reports = s.reports := (vReports_def _).symm.trans ((vReports_setDeps ..).trans (vReports_def _))

/-! ### What is in flight in the Yard -/

@[simp] theorem vYard_hbmCount (s : State) (st i n : Nat) :
    (hbmCount s st i n).vYard = s.vYard := by simp [hbmCount]

@[simp] theorem vYard_rlDevCount (s : State) (i : Nat) :
    (rlDevCount s i).vYard = s.vYard := by simp [rlDevCount]

@[simp] theorem vYard_sendPlain (s : State) (n type : Nat) :
    (sendPlain s n type).vYard = s.vYard := by simp [sendPlain]

@[simp] theorem vYard_modRegion (s : State) (i : Nat) (f : Region → Region) :
    (modRegion s i f).vYard = s.vYard := by simp [modRegion, vYard_eta]

@[simp] theorem vYard_modSlot (s : State) (page : Nat) (f : Slot → Slot) :
    (modSlot s page f).vYard = s.vYard := by simp [modSlot, vYard_eta]

@[simp] theorem vYard_setGpoison (s : State) (g : Nat) (v : Bool) :
    (setGpoison s g v).vYard = s.vYard := by simp [setGpoison]

@[simp] theorem vYard_rowFails (s : State) (g : Nat) :
    (rowFails s g).vYard = s.vYard := by simp [rowFails, vYard_eta]

@[simp] theorem vYard_innerFix (s : State) (g : Nat) :
    (innerFix s g).vYard = s.vYard := by
  unfold innerFix
  repeat' split
  all_goals simp [vYard_eta]

@[simp] theorem vYard_rowErrors (s : State) (r : Region) (g : Nat) (e : MemErr) :
    (rowErrors s r g e).vYard = s.vYard := by simp [rowErrors]

@[simp] theorem vYard_memFault (s : State) (g : Nat) (owner code retries : Nat) (slot : Bool) (own : Bool) :
    (memFault s g owner code retries slot own).vYard = s.vYard := by simp [memFault]

@[simp] theorem vYard_freeGranule (s : State) :
    (freeGranule s).2.vYard = s.vYard := by simp [freeGranule, vYard_eta]

@[simp] theorem vYard_decodeFault (s : State) (g owner i code : Nat) (e : MemErr) (slot own : Bool) :
    (decodeFault s g owner i code e slot own).2.2.vYard = s.vYard := by simp [decodeFault]

@[simp] theorem vYard_readGranule (s : State) (r : Region) (g : Nat) (e : MemErr) (own : Bool) :
    (readGranule s r g e own).2.2.vYard = s.vYard := by
  unfold readGranule
  repeat' split
  all_goals simp

@[simp] theorem vYard_noteRead (s : State) (g : Nat) :
    (noteRead s g).vYard = s.vYard := by simp [noteRead, vYard_eta]

@[simp] theorem vYard_readRequest (s : State) (r : Region) (g : Nat) (e : MemErr) (own : Bool) :
    (readRequest s r g e own).2.2.vYard = s.vYard := by simp [readRequest]

@[simp] theorem vYard_readFor (s : State) (owner g : Nat) (e : MemErr) (own : Bool) :
    (readFor s owner g e own).2.2.vYard = s.vYard := by
  unfold readFor
  split <;> simp

@[simp] theorem vYard_putGranule (s : State) (g : Nat) (d : List Byte) (poison : Bool) :
    (putGranule s g d poison).vYard = s.vYard := by simp [putGranule, vYard_eta]

@[simp] theorem vYard_sendGranule (s : State) (g : Nat) (d : List Byte) (poison : Bool) (e : MemErr) (own : Bool) :
    (sendGranule s g d poison e own).vYard = s.vYard := by
  unfold sendGranule
  repeat' split
  all_goals simp [vYard_eta]

@[simp] theorem vYard_writeGranule (s : State) (g : Nat) (bs : List (Nat × Byte)) (poison : Bool) (e : MemErr) (own : Bool) :
    (writeGranule s g bs poison e own).vYard = s.vYard := by simp [writeGranule, vYard_eta]

@[simp] theorem vYard_storeBytes (s : State) (bs : List Host.Cell) (poison : Bool) (errs : MemErrs) (own : Bool) :
    (storeBytes s bs poison errs own).vYard = s.vYard := by simp [storeBytes]

@[simp] theorem vYard_storeLines (s : State) (d : HDecl) (base : Nat) (lines : List (Nat × Line)) (poison : Bool) (rec_ :
      W128) (errs : MemErrs) (own : Bool) :
    (storeLines s d base lines poison rec_ errs own).vYard = s.vYard := by simp [storeLines]

@[simp] theorem vYard_tallyRead (page : Nat) (errs : MemErrs) (s : State) (g : Nat) :
    (tallyRead page errs s g).vYard = s.vYard := by
  unfold tallyRead
  split <;> simp [vYard_eta]

@[simp] theorem vYard_returnCredits (k : Nat) (s : State) (n : Nat) : (returnCredits k s n).vYard = s.vYard := by
  induction k generalizing s with
  | zero => rfl
  | succ k ih =>
    unfold returnCredits
    split
    · rfl
    · rw [ih]
      simp

@[simp] theorem vYard_settle (s : State) (n : Nat) :
    (settle s n).vYard = s.vYard := by simp [settle]

@[simp] theorem vYard_freePlace (s : State) (n place : Nat) :
    (freePlace s n place).vYard = s.vYard := by simp [freePlace]

@[simp] theorem vYard_consume (s : State) (i : Nat) (h : Held) :
    (consume s i h).vYard = s.vYard := by simp [consume, vYard_eta]

@[simp] theorem vYard_dbToken (s : State) (c src kind epoch end_ : Nat) :
    (dbToken s c src kind epoch end_).vYard = s.vYard := by simp [dbToken]

@[simp] theorem vYard_ackGate (s : State) (dst job dseq : Nat) (bad : Bool) :
    (ackGate s dst job dseq bad).vYard = s.vYard := by simp [ackGate, vYard_eta]

@[simp] theorem hbmCount_yard (s : State) (st i n : Nat) :
    (hbmCount s st i n).yard = s.yard := (vYard_def _).symm.trans ((vYard_hbmCount ..).trans (vYard_def _))

@[simp] theorem rlDevCount_yard (s : State) (i : Nat) :
    (rlDevCount s i).yard = s.yard := (vYard_def _).symm.trans ((vYard_rlDevCount ..).trans (vYard_def _))

@[simp] theorem trigger_yard (s : State) (c target : Nat) :
    (trigger s c target).yard = s.yard := (vYard_def _).symm.trans ((vYard_trigger ..).trans (vYard_def _))

@[simp] theorem setGpoison_yard (s : State) (g : Nat) (v : Bool) :
    (setGpoison s g v).yard = s.yard := (vYard_def _).symm.trans ((vYard_setGpoison ..).trans (vYard_def _))

@[simp] theorem readFor_yard (s : State) (owner g : Nat) (e : MemErr) (own : Bool) :
    (readFor s owner g e own).2.2.yard = s.yard := (vYard_def _).symm.trans ((vYard_readFor ..).trans (vYard_def _))

@[simp] theorem storeLines_yard (s : State) (d : HDecl) (base : Nat) (lines : List (Nat × Line)) (poison : Bool) (rec_ :
      W128) (errs : MemErrs) (own : Bool) :
    (storeLines s d base lines poison rec_ errs own).yard = s.yard := (vYard_def _).symm.trans ((vYard_storeLines ..).trans
      (vYard_def _))

@[simp] theorem tallyRead_yard (page : Nat) (errs : MemErrs) (s : State) (g : Nat) :
    (tallyRead page errs s g).yard = s.yard := (vYard_def _).symm.trans ((vYard_tallyRead ..).trans (vYard_def _))

@[simp] theorem consume_yard (s : State) (i : Nat) (h : Held) :
    (consume s i h).yard = s.yard := (vYard_def _).symm.trans ((vYard_consume ..).trans (vYard_def _))

@[simp] theorem dbToken_yard (s : State) (c src kind epoch end_ : Nat) :
    (dbToken s c src kind epoch end_).yard = s.yard := (vYard_def _).symm.trans ((vYard_dbToken ..).trans (vYard_def _))

@[simp] theorem ackGate_yard (s : State) (dst job dseq : Nat) (bad : Bool) :
    (ackGate s dst job dseq bad).yard = s.yard := (vYard_def _).symm.trans ((vYard_ackGate ..).trans (vYard_def _))

/-! ### The number of the next message -/

@[simp] theorem vMsgSeq_hbmCount (s : State) (st i n : Nat) :
    (hbmCount s st i n).vMsgSeq = s.vMsgSeq := by simp [hbmCount]

@[simp] theorem vMsgSeq_modRegion (s : State) (i : Nat) (f : Region → Region) :
    (modRegion s i f).vMsgSeq = s.vMsgSeq := by simp [modRegion, vMsgSeq_eta]

@[simp] theorem vMsgSeq_modSlot (s : State) (page : Nat) (f : Slot → Slot) :
    (modSlot s page f).vMsgSeq = s.vMsgSeq := by simp [modSlot, vMsgSeq_eta]

@[simp] theorem vMsgSeq_setGpoison (s : State) (g : Nat) (v : Bool) :
    (setGpoison s g v).vMsgSeq = s.vMsgSeq := by simp [setGpoison]

@[simp] theorem vMsgSeq_rowFails (s : State) (g : Nat) :
    (rowFails s g).vMsgSeq = s.vMsgSeq := by simp [rowFails, vMsgSeq_eta]

@[simp] theorem vMsgSeq_innerFix (s : State) (g : Nat) :
    (innerFix s g).vMsgSeq = s.vMsgSeq := by
  unfold innerFix
  repeat' split
  all_goals simp [vMsgSeq_eta]

@[simp] theorem vMsgSeq_rowErrors (s : State) (r : Region) (g : Nat) (e : MemErr) :
    (rowErrors s r g e).vMsgSeq = s.vMsgSeq := by simp [rowErrors]

@[simp] theorem vMsgSeq_memFault (s : State) (g : Nat) (owner code retries : Nat) (slot : Bool) (own : Bool) :
    (memFault s g owner code retries slot own).vMsgSeq = s.vMsgSeq := by simp [memFault]

@[simp] theorem vMsgSeq_freeGranule (s : State) :
    (freeGranule s).2.vMsgSeq = s.vMsgSeq := by simp [freeGranule, vMsgSeq_eta]

@[simp] theorem vMsgSeq_decodeFault (s : State) (g owner i code : Nat) (e : MemErr) (slot own : Bool) :
    (decodeFault s g owner i code e slot own).2.2.vMsgSeq = s.vMsgSeq := by simp [decodeFault]

@[simp] theorem vMsgSeq_readGranule (s : State) (r : Region) (g : Nat) (e : MemErr) (own : Bool) :
    (readGranule s r g e own).2.2.vMsgSeq = s.vMsgSeq := by
  unfold readGranule
  repeat' split
  all_goals simp

@[simp] theorem vMsgSeq_noteRead (s : State) (g : Nat) :
    (noteRead s g).vMsgSeq = s.vMsgSeq := by simp [noteRead, vMsgSeq_eta]

@[simp] theorem vMsgSeq_readRequest (s : State) (r : Region) (g : Nat) (e : MemErr) (own : Bool) :
    (readRequest s r g e own).2.2.vMsgSeq = s.vMsgSeq := by simp [readRequest]

@[simp] theorem vMsgSeq_readFor (s : State) (owner g : Nat) (e : MemErr) (own : Bool) :
    (readFor s owner g e own).2.2.vMsgSeq = s.vMsgSeq := by
  unfold readFor
  split <;> simp

@[simp] theorem vMsgSeq_putGranule (s : State) (g : Nat) (d : List Byte) (poison : Bool) :
    (putGranule s g d poison).vMsgSeq = s.vMsgSeq := by simp [putGranule, vMsgSeq_eta]

@[simp] theorem vMsgSeq_sendGranule (s : State) (g : Nat) (d : List Byte) (poison : Bool) (e : MemErr) (own : Bool) :
    (sendGranule s g d poison e own).vMsgSeq = s.vMsgSeq := by
  unfold sendGranule
  repeat' split
  all_goals simp [vMsgSeq_eta]

@[simp] theorem vMsgSeq_writeGranule (s : State) (g : Nat) (bs : List (Nat × Byte)) (poison : Bool) (e : MemErr) (own : Bool) :
    (writeGranule s g bs poison e own).vMsgSeq = s.vMsgSeq := by simp [writeGranule, vMsgSeq_eta]

@[simp] theorem vMsgSeq_storeBytes (s : State) (bs : List Host.Cell) (poison : Bool) (errs : MemErrs) (own : Bool) :
    (storeBytes s bs poison errs own).vMsgSeq = s.vMsgSeq := by simp [storeBytes]

@[simp] theorem vMsgSeq_storeLines (s : State) (d : HDecl) (base : Nat) (lines : List (Nat × Line)) (poison : Bool) (rec_ :
      W128) (errs : MemErrs) (own : Bool) :
    (storeLines s d base lines poison rec_ errs own).vMsgSeq = s.vMsgSeq := by simp [storeLines]

@[simp] theorem vMsgSeq_tallyRead (page : Nat) (errs : MemErrs) (s : State) (g : Nat) :
    (tallyRead page errs s g).vMsgSeq = s.vMsgSeq := by
  unfold tallyRead
  split <;> simp [vMsgSeq_eta]

@[simp] theorem hbmCount_msgSeq (s : State) (st i n : Nat) :
    (hbmCount s st i n).msgSeq = s.msgSeq := (vMsgSeq_def _).symm.trans ((vMsgSeq_hbmCount ..).trans (vMsgSeq_def _))

@[simp] theorem setGpoison_msgSeq (s : State) (g : Nat) (v : Bool) :
    (setGpoison s g v).msgSeq = s.msgSeq := (vMsgSeq_def _).symm.trans ((vMsgSeq_setGpoison ..).trans (vMsgSeq_def _))

@[simp] theorem readFor_msgSeq (s : State) (owner g : Nat) (e : MemErr) (own : Bool) :
    (readFor s owner g e own).2.2.msgSeq = s.msgSeq := (vMsgSeq_def _).symm.trans ((vMsgSeq_readFor ..).trans (vMsgSeq_def _))

@[simp] theorem storeLines_msgSeq (s : State) (d : HDecl) (base : Nat) (lines : List (Nat × Line)) (poison : Bool) (rec_ :
      W128) (errs : MemErrs) (own : Bool) :
    (storeLines s d base lines poison rec_ errs own).msgSeq = s.msgSeq := (vMsgSeq_def _).symm.trans ((vMsgSeq_storeLines
      ..).trans (vMsgSeq_def _))

@[simp] theorem tallyRead_msgSeq (page : Nat) (errs : MemErrs) (s : State) (g : Nat) :
    (tallyRead page errs s g).msgSeq = s.msgSeq := (vMsgSeq_def _).symm.trans ((vMsgSeq_tallyRead ..).trans (vMsgSeq_def _))

/-! ### The HBM stacks -/

/-- The HBM stacks of a state, as a function of it. -/
def State.vHbm (s : State) : Hbm := s.hbm

@[simp] theorem vHbm_mk (x0 : List Instr) (x1 : Nat) (x2 : Nat) (x3 : List Byte) (x4 : Bool) (x5 : NMap Byte) (x6 : List (Nat
      × Nat)) (x7 : NMap W64) (x8 : W64) (x9 : NMap Pos) (x10 : NMap Stall) (x11 : NMap LoftLine) (x12 : List Msg) (x13 :
      NMap Ctx) (x14 : NMap Rec) (x15 : Yardm) (x16 : Hbm) (x17 : Granary) (x18 : NMap Drover) (x19 : List Report) (x20 :
      Rhoa) (x21 : Gateh) (x22 : Daybk) (x23 : Fuses) (x24 : Tack) (x25 : Smithy) (x26 : Rst) (x27 : Supply) (x28 : Ostler)
      (x29 : Disc) (x30 : Tap) (x31 : List (Transport × List Byte)) (x32 : List (List Byte)) :
    (State.mk x0 x1 x2 x3 x4 x5 x6 x7 x8 x9 x10 x11 x12 x13 x14 x15 x16 x17 x18 x19 x20 x21 x22 x23 x24 x25 x26 x27 x28 x29
      x30 x31 x32).vHbm = x16 := (rfl)

theorem vHbm_eta (s : State) : s.hbm = s.vHbm := (rfl)

@[simp] theorem vHbm_ite (c : Prop) [Decidable c] (a b : State) : (if c then a else b).vHbm = if c then a.vHbm else b.vHbm := by
  split <;> rfl

@[simp] theorem vHbm_csrPut (s : State) (off : Nat) (v : W64) :
    (csrPut s off v).vHbm = s.vHbm := by simp [csrPut, vHbm_eta]

@[simp] theorem vHbm_csrSetField (s : State) (off hi lo v : Nat) :
    (csrSetField s off hi lo v).vHbm = s.vHbm := by simp [csrSetField]

@[simp] theorem vHbm_bumpBy (s : State) (off wrapOff wrapBit n : Nat) :
    (bumpBy s off wrapOff wrapBit n).vHbm = s.vHbm := by simp [bumpBy]

@[simp] theorem vHbm_bump (s : State) (off wrapOff wrapBit : Nat) :
    (bump s off wrapOff wrapBit).vHbm = s.vHbm := by simp [bump]

@[simp] theorem vHbm_recordFirst (s : State) (off v : Nat) :
    (recordFirst s off v).vHbm = s.vHbm := by simp [recordFirst]

@[simp] theorem vHbm_hbmCount (s : State) (st i n : Nat) :
    (hbmCount s st i n).vHbm = s.vHbm := by simp [hbmCount]

@[simp] theorem vHbm_rlCount (s : State) (n i k : Nat) :
    (rlCount s n i k).vHbm = s.vHbm := by simp [rlCount]

@[simp] theorem vHbm_modRec (s : State) (c : Nat) (f : Rec → Rec) :
    (modRec s c f).vHbm = s.vHbm := by simp [modRec, vHbm_eta]

@[simp] theorem vHbm_modPort (s : State) (n : Nat) (f : Port → Port) :
    (modPort s n f).vHbm = s.vHbm := by simp [modPort, vHbm_eta]

@[simp] theorem vHbm_wireFlit (s : State) (n : Nat) (b : List Byte) (seq : BitVec 16) :
    (wireFlit s n b seq).vHbm = s.vHbm := by simp [wireFlit, vHbm_eta]

theorem vHbm_sendOne (s t : State) (n : Nat) (h : sendOne s n = some t) : t.vHbm = s.vHbm := by
  unfold sendOne at h
  dsimp only at h
  split at h
  · cases h
  · split at h
    · cases h
    · cases h
      simp

@[simp] theorem vHbm_pump (k : Nat) (s : State) (n : Nat) : (pump k s n).vHbm = s.vHbm := by
  induction k generalizing s with
  | zero => rfl
  | succ k ih =>
    unfold pump
    split
    · rw [ih]
      exact vHbm_sendOne _ _ _ ‹_›
    · rfl

@[simp] theorem vHbm_pumpPort (s : State) (n : Nat) : (pumpPort s n).vHbm = s.vHbm := by simp [pumpPort]

@[simp] theorem vHbm_sendFlit (s : State) (via : Nat) (b : List Byte) :
    (sendFlit s via b).vHbm = s.vHbm := by
  unfold sendFlit
  repeat' split
  all_goals simp [vHbm_eta]

@[simp] theorem vHbm_raiseIrq (s : State) (fn vec : Nat) :
    (raiseIrq s fn vec).vHbm = s.vHbm := by simp [raiseIrq, vHbm_eta]

@[simp] theorem vHbm_ghRecord (s : State) (r : Nat) (rec_ : List Byte) (irq : Bool) (vf vfVec : Nat) :
    (ghRecord s r rec_ irq vf vfVec).vHbm = s.vHbm := by simp [ghRecord, vHbm_eta]

@[simp] theorem vHbm_ghNote (s : State) (ring : Nat) (rec_ : List Byte) :
    (ghNote s ring rec_).vHbm = s.vHbm := by
  unfold ghNote
  repeat' first
    | (simp [vHbm_eta]; done)
    | (with_reducible refine (vHbm_foldl _ ?_ _ _).trans ?_)
    | intro _
    | split
    | dsimp only

@[simp] theorem vHbm_ghDeliver (s : State) (m : Nat) (rec_ : List Byte) (irq : Bool) :
    (ghDeliver s m rec_ irq).vHbm = s.vHbm := by simp [ghDeliver]

@[simp] theorem vHbm_emitRecord (s : State) (rec_ : List Byte) (irq : Bool) :
    (emitRecord s rec_ irq).vHbm = s.vHbm := by
  unfold emitRecord
  repeat' split
  all_goals simp

@[simp] theorem vHbm_trigger (s : State) (c target : Nat) :
    (trigger s c target).vHbm = s.vHbm := by simp [trigger]

theorem vHbm_def (s : State) : s.vHbm = s.hbm := rfl

@[simp] theorem bump_hbm (s : State) (off wrapOff wrapBit : Nat) :
    (bump s off wrapOff wrapBit).hbm = s.hbm := (vHbm_def _).symm.trans ((vHbm_bump ..).trans (vHbm_def _))

@[simp] theorem recordFirst_hbm (s : State) (off v : Nat) :
    (recordFirst s off v).hbm = s.hbm := (vHbm_def _).symm.trans ((vHbm_recordFirst ..).trans (vHbm_def _))

@[simp] theorem hbmCount_hbm (s : State) (st i n : Nat) :
    (hbmCount s st i n).hbm = s.hbm := (vHbm_def _).symm.trans ((vHbm_hbmCount ..).trans (vHbm_def _))

@[simp] theorem emitRecord_hbm (s : State) (rec_ : List Byte) (irq : Bool) :
    (emitRecord s rec_ irq).hbm = s.hbm := (vHbm_def _).symm.trans ((vHbm_emitRecord ..).trans (vHbm_def _))

@[simp] theorem trigger_hbm (s : State) (c target : Nat) :
    (trigger s c target).hbm = s.hbm := (vHbm_def _).symm.trans ((vHbm_trigger ..).trans (vHbm_def _))

/-! ### The Gatehouse -/

@[simp] theorem vGate_foldl {β : Type} (g : State → β → State) (h : ∀ s b, (g s b).vGate = s.vGate) (l : List β) (s : State) :
    (l.foldl g s).vGate = s.vGate := by
  induction l generalizing s with
  | nil => rfl
  | cons b l ih => exact (ih (g s b)).trans (h s b)

@[simp] theorem vGate_modRec (s : State) (c : Nat) (f : Rec → Rec) :
    (modRec s c f).vGate = s.vGate := by simp [modRec, vGate_eta]

@[simp] theorem vGate_send (s : State) (src dst : Node) (net : Net) (c : Nat) (b : Body) :
    (send s src dst net c b).vGate = s.vGate := by simp [send, vGate_eta]

@[simp] theorem vGate_trigger (s : State) (c target : Nat) :
    (trigger s c target).vGate = s.vGate := by simp [trigger]

@[simp] theorem vGate_modFlow (s : State) (c dst job : Nat) (g : Flow → Flow) :
    (modFlow s c dst job g).vGate = s.vGate := by simp [modFlow]

@[simp] theorem vGate_ackSent (s : State) (c dst job dseq : Nat) (poison : Bool) :
    (ackSent s c dst job dseq poison).vGate = s.vGate := by
  unfold ackSent
  split <;> simp

@[simp] theorem ackSent_gate (s : State) (c dst job dseq : Nat) (poison : Bool) :
    (ackSent s c dst job dseq poison).gate = s.gate := (vGate_def _).symm.trans ((vGate_ackSent ..).trans (vGate_def _))

end Sys2Proof.Machine
end

section
/-!
PROOFS. Epochs and acknowledgement of peer writes (O40); HBM reads and writes (O34).
-/

namespace Sys2Proof.Machine

/-! ### The flows and homes of a context's records (R348 to R355) -/

theorem homeOf_src (hs : List Home) (src job : Nat) : (homeOf hs src job).src = src ∧ (homeOf hs src job).job = job := by
  unfold homeOf
  cases found : hs.find? fun h => h.src = src && h.job = job with
  | none => exact ⟨rfl, rfl⟩
  | some h => simpa using List.find?_some found

theorem findFlow_key {fs : List Flow} {dst job : Nat} {f : Flow} (found : findFlow fs dst job = some f) : f.dst = dst ∧ f.job = job := by
  simpa using List.find?_some found

theorem find?_setFirst {α : Type} (p : α → Bool) (x : α) (px : p x = true) (l : List α) :
    (if l.any p then l.map fun y => if p y then x else y else l ++ [x]).find? p = some x := by
  induction l with
  | nil => simp [px]
  | cons y l ih =>
    by_cases py : p y = true
    · simp [py, px]
    · have rest : ∀ l : List α, ((y :: l).any p) = l.any p := fun l => by simp [py]
      simp only [rest]
      split <;> rename_i some_
      · rw [if_pos some_] at ih
        simpa [py] using ih
      · rw [if_neg some_] at ih
        simpa [py] using ih

theorem homeOf_setHome (hs : List Home) (h : Home) : homeOf (setHome hs h) h.src h.job = h := by
  have first : (setHome hs h).find? (fun x => x.src = h.src && x.job = h.job) = some h := find?_setFirst _ h (by simp) hs
  rw [homeOf, first, Option.getD_some]

theorem findFlow_setFlow (fs : List Flow) (f : Flow) : findFlow (setFlow fs f) f.dst f.job = some f :=
  find?_setFirst (fun x : Flow => x.dst = f.dst && x.job = f.job) f (by simp) fs

theorem find?_setOther {α : Type} {p q : α → Bool} {x : α} (qx : q x = false) (apart : ∀ y, p y = true → q y = false) (l : List α) :
    (if l.any p then l.map fun y => if p y then x else y else l ++ [x]).find? q = l.find? q := by
  split
  · clear * - qx apart
    induction l with
    | nil => rfl
    | cons y l ih =>
      rw [List.map_cons]
      by_cases py : p y = true
      · rw [if_pos py, List.find?_cons, qx, List.find?_cons, apart y py, ih]
      · rw [if_neg py, List.find?_cons, List.find?_cons, ih]
  · rw [List.find?_append, List.find?_cons, qx]
    simp

theorem findFlow_setFlow_other {fs : List Flow} {f : Flow} {dst job : Nat} (h : ¬(f.dst = dst ∧ f.job = job)) :
    findFlow (setFlow fs f) dst job = findFlow fs dst job := by
  refine find?_setOther (p := fun x : Flow => x.dst = f.dst && x.job = f.job) (q := fun x => x.dst = dst && x.job = job)
    (by simpa using h) (fun y hy => ?_) fs
  simp only [Bool.and_eq_true, decide_eq_true_eq] at hy
  simpa [hy] using h

theorem homeAt_modHome (s : State) (c src job : Nat) (g : Home → Home) (same : ∀ h, (g h).src = h.src ∧ (g h).job = h.job) :
    homeAt (modHome s c src job g) c src job = g (homeAt s c src job) := by
  obtain ⟨keySrc, keyJob⟩ := homeOf_src (recOf s c).homes src job
  have put := homeOf_setHome (recOf s c).homes (g (homeOf (recOf s c).homes src job))
  rw [(same _).1, (same _).2, keySrc, keyJob] at put
  rw [homeAt, modHome, recOf_modRec_same]
  exact put

theorem homeAt_congr {s u : State} {c : Nat} (same : recOf u c = recOf s c) (src job : Nat) : homeAt u c src job = homeAt s c src job := by
  rw [homeAt, same, homeAt]

/-! ### Writes that no transfer fails change device memory alone (R315) -/

theorem writeGranule_clean (s : State) (g : Nat) (bs : List (Nat × Byte)) (poison own : Bool) :
    ∃ hbm, writeGranule s g bs poison {} own = { s with hbm := hbm } := by
  unfold writeGranule
  dsimp only
  split
  · exact ⟨_, rfl⟩
  · exact ⟨_, rfl⟩

theorem storeBytes_clean (s : State) (bs : List Host.Cell) (poison own : Bool) :
    ∃ hbm, storeBytes s bs poison [] own = { s with hbm := hbm } := by
  unfold storeBytes
  induction cellGranules bs generalizing s with
  | nil => exact ⟨_, rfl⟩
  | cons g gs ih =>
    obtain ⟨hbm, one⟩ := writeGranule_clean s g (cellsIn bs g) poison own
    obtain ⟨hbm', rest⟩ := ih { s with hbm := hbm }
    refine ⟨hbm', ?_⟩
    rw [List.foldl_cons]
    exact (congrArg (List.foldl _ · gs) one).trans rest

theorem putWords_clean (s : State) (c slot : Nat) (f : Line → Line) : ∃ hbm grn, putWords s c slot f = { s with hbm := hbm, grn := grn } := by
  unfold putWords
  split
  · exact ⟨_, _, rfl⟩
  split
  · exact ⟨_, _, rfl⟩
  · obtain ⟨hbm, wrote⟩ := storeBytes_clean s _ false false
    exact ⟨hbm, s.grn, wrote⟩

theorem putWords_reports (s : State) (c slot : Nat) (f : Line → Line) : (putWords s c slot f).reports = s.reports := by
  obtain ⟨hbm, grn, put⟩ := putWords_clean s c slot f
  rw [put]

theorem recOf_putWords (s : State) (c slot : Nat) (f : Line → Line) (d : Nat) : recOf (putWords s c slot f) d = recOf s d := by
  obtain ⟨hbm, grn, put⟩ := putWords_clean s c slot f
  rw [put]
  rfl

theorem undoFrom_reports (s : State) (c src epoch : Nat) : (undoFrom s c src epoch).reports = s.reports :=
  (foldl_keeps State.reports (fun _ _ => putWords_reports ..) _ _).trans (foldl_keeps State.reports (fun _ _ => putWords_reports ..) _ _)

/-- Undoing writes a source's epochs back and takes their records away; no other register of the context changes (R412). -/
theorem recOf_undoFrom (s : State) (c src epoch : Nat) : recOf (undoFrom s c src epoch) c =
    { recOf s c with undo := (recOf s c).undo.filter fun u => !(u.src = src && !after32 epoch u.epoch) } := by
  have puts (us : List Undo) (op : Undo → Line → Line) (s : State) : recOf (us.foldl (fun s u => putWords s c u.slot (op u)) s) c = recOf s c :=
    foldl_keeps (recOf · c) (fun _ _ => recOf_putWords ..) _ _
  unfold undoFrom
  dsimp only
  rw [recOf_modRec_same, puts _ (fun u l => u.value.getD l), puts]

theorem recOf_clearDep (s : State) (c src epoch : Nat) : (recOf (clearDep s c src epoch) c).undo =
      ((recOf s c).undo.filter fun u => !(u.src = src && !after32 u.epoch epoch)) ∧
    (recOf (clearDep s c src epoch) c).homes = (recOf s c).homes ∧
    (recOf (clearDep s c src epoch) c).deps = (recOf s c).deps.filterMap fun d =>
      if d.src ≠ src then some d
      else if after32 d.pendHi epoch then
        some { d with pendLo := if after32 d.pendLo epoch then d.pendLo else (epoch + 1) % 2 ^ 32, from_ := s.ledger, gapSent := false }
      else none := by
  unfold clearDep setDeps
  dsimp only
  rw [recOf_modRec_same, recOf_modRec_same]
  exact ⟨rfl, rfl, rfl⟩

/-! ### COMMIT and REVOKE (R353 to R355, R412) -/

theorem recOf_modHome (s : State) (c src job : Nat) (g : Home → Home) : ∃ hs, recOf (modHome s c src job g) c = { recOf s c with homes := hs } :=
  ⟨_, recOf_modRec_same ..⟩

@[simp] theorem undo_modHome (s : State) (c src job : Nat) (g : Home → Home) :
    (recOf (modHome s c src job g) c).undo = (recOf s c).undo := by
  obtain ⟨hs, same⟩ := recOf_modHome s c src job g
  rw [same]

@[simp] theorem deps_modHome (s : State) (c src job : Nat) (g : Home → Home) :
    (recOf (modHome s c src job g) c).deps = (recOf s c).deps := by
  obtain ⟨hs, same⟩ := recOf_modHome s c src job g
  rw [same]

@[simp] theorem triggers_modHome (s : State) (c src job : Nat) (g : Home → Home) :
    (recOf (modHome s c src job g) c).triggers = (recOf s c).triggers := by
  obtain ⟨hs, same⟩ := recOf_modHome s c src job g
  rw [same]

theorem csrGet_consume_dev {s : State} {i : Nat} {h : Held} {off : Nat} (a : off % 0x1000 ≠ 0x100) (b : off % 0x1000 ≠ 0x180) :
    csrGet (consume s i h) off = csrGet s off :=
  (csrGet_freePlace _ _ _ a b).trans (csrGet_congr rfl off)

theorem csrGet_dbToken (s : State) (c src kind epoch end_ : Nat) {off : Nat} (h : OffReports off) :
    csrGet (dbToken s c src kind epoch end_) off = csrGet s off := csrGet_dbAppend s h ..

section
variable {s : State} {i c : Nat} {h : Held}

theorem commit_run (rx : rxEntry s i = some h) (own : toGate s h.bytes = false) (job : ctxOfJob s (flitJob h.bytes) = some c)
    (type : flitType h.bytes = 4) (turn : flitDseq h.bytes = (homeAt s c (flitSrc h.bytes) (flitJob h.bytes)).expect) :
    exec (.commit i) s = .next (consume (modHome (dbToken (clearDep (rlDevCount s 4) c (flitSrc h.bytes) (fieldAt h.bytes 20 4)) c
      (flitSrc h.bytes) 4 (fieldAt h.bytes 20 4) 0) c (flitSrc h.bytes) (flitJob h.bytes)
      fun x => { x with expect := (x.expect + 1) % 2 ^ 16, gap := false }) i h) := by
  refine (show _ = execCommit i s from rfl).trans ?_
  have mine_ : ¬(decide (flitType h.bytes ≠ 4) || toGate s h.bytes) = true := by simp [type, own]
  unfold execCommit
  rw [rx]
  dsimp only
  rw [if_neg mine_, job]
  dsimp only
  unfold takeDseq
  dsimp only
  rw [if_pos turn]

theorem commit_effect (rx : rxEntry s i = some h) (own : toGate s h.bytes = false) (job : ctxOfJob s (flitJob h.bytes) = some c)
    (type : flitType h.bytes = 4) (turn : flitDseq h.bytes = (homeAt s c (flitSrc h.bytes) (flitJob h.bytes)).expect) :
    Completes (.commit i) s fun u =>
      (homeAt u c (flitSrc h.bytes) (flitJob h.bytes)).expect = ((homeAt s c (flitSrc h.bytes) (flitJob h.bytes)).expect + 1) % 2 ^ 16 ∧
      csrGet u 0x07C0120 = csrGet s 0x07C0120 + 1 ∧
      (∀ d ∈ (recOf s c).deps, d.src = flitSrc h.bytes → after32 d.pendHi (fieldAt h.bytes 20 4) = false → d ∉ (recOf u c).deps) ∧
      (∀ d ∈ (recOf s c).deps, d.src ≠ flitSrc h.bytes → d ∈ (recOf u c).deps) ∧
      ∀ x ∈ (recOf s c).undo, x ∈ (recOf u c).undo ↔ ¬(x.src = flitSrc h.bytes ∧ after32 x.epoch (fieldAt h.bytes 20 4) = false) := by
  obtain ⟨undo, homes, deps⟩ := recOf_clearDep (rlDevCount s 4) c (flitSrc h.bytes) (fieldAt h.bytes 20 4)
  rw [recOf_rlDevCount] at undo homes deps
  refine completes_of (commit_run rx own job type turn) ⟨?_, ?_, fun d mem from_ past => ?_, fun d mem other => ?_, fun x mem => ?_⟩
  · rw [homeAt_congr (recOf_consume ..), homeAt_modHome _ _ _ _ _ ?_, homeAt_congr (recOf_dbToken ..), homeAt, homes]
    · rfl
    · exact fun _ => ⟨rfl, rfl⟩
  · rw [csrGet_consume_dev (show 0x07C0120 % 0x1000 ≠ 0x100 by decide) (show 0x07C0120 % 0x1000 ≠ 0x180 by decide)]
    rw [csrGet_congr (modHome_csr ..), csrGet_dbToken _ _ _ _ _ _ (by unfold OffReports; decide), csrGet_congr (clearDep_csr ..)]
    exact csrGet_bump_same s 4 (show 0x07C0120 ≠ 0x07C0180 by decide)
  · rw [recOf_consume, deps_modHome, recOf_dbToken, deps, List.mem_filterMap]
    rintro ⟨d', -, became⟩
    split at became
    · next other =>
      exact other (Option.some.inj became ▸ from_)
    split at became
    · next ahead =>
      rw [← Option.some.inj became] at past
      exact absurd (past.symm.trans ahead) (by decide)
    · cases became
  · rw [recOf_consume, deps_modHome, recOf_dbToken, deps, List.mem_filterMap]
    exact ⟨d, mem, if_pos other⟩
  · rw [recOf_consume, undo_modHome, recOf_dbToken, undo, List.mem_filter]
    simp [mem, imp_iff_not_or]


/-- What the home leaves of a dependency on a source whose epochs from E on it revokes. -/
def keptDep (s : State) (src epoch : Nat) (d : Dep) : Option Dep :=
  if d.src ≠ src || after32 epoch d.pendHi then some d
  else if after32 epoch d.pendLo then some { d with pendHi := (epoch + 2 ^ 32 - 1) % 2 ^ 32, from_ := s.ledger, gapSent := false }
  else none

/-- The home after a revocation, before the rollback of what depends on it. -/
def revoked (s : State) (c src job epoch end_ cause : Nat) : State :=
  let v := cause * 2 ^ 60 + 0x3F * 2 ^ 54 + src % 2 ^ 15 * 2 ^ 39 + epoch % 2 ^ 16 * 2 ^ 23 + 0x0701
  let s1 := reportFault (recordFirst s 0x07C0010 v) 1021 0x0701 src c 0x3FF 0 0xFFF
  let s2 := modHome s1 c src job fun h => { h with expect := end_, gap := false, group := [] }
  undoFrom (setDeps s2 c ((recOf s2 c).deps.filterMap (keptDep s src epoch))) c src epoch

theorem homeRevoke_of_none {src : Nat} (none_ : (recOf s c).deps.find? (fun d => d.src = src) = none) (job epoch end_ cause : Nat) :
    homeRevoke s c src job epoch end_ cause = revoked s c src job epoch end_ cause := by
  unfold homeRevoke
  dsimp only
  rw [none_]
  rfl

theorem homeRevoke_of_some {src : Nat} {d : Dep} (hit : (recOf s c).deps.find? (fun d => d.src = src) = some d) (job epoch end_ cause : Nat) :
    homeRevoke s c src job epoch end_ cause = trigger (revoked s c src job epoch end_ cause) c (d.rxEpoch + 1) := by
  unfold homeRevoke
  dsimp only
  rw [hit]
  rfl

theorem recOf_revoked (s : State) (c src job epoch end_ cause : Nat) : recOf (revoked s c src job epoch end_ cause) c =
    let r := recOf (modHome s c src job fun h => { h with expect := end_, gap := false, group := [] }) c
    { r with
      deps := r.deps.filterMap (keptDep s src epoch)
      emptied := r.emptied || (r.deps.filterMap (keptDep s src epoch) = [] && r.deps ≠ [])
      undo := r.undo.filter fun u => !(u.src = src && !after32 epoch u.epoch) } := by
  unfold revoked
  dsimp only
  rw [recOf_undoFrom, setDeps, recOf_modRec_same, modHome, recOf_modRec_same, recOf_reportFault, recOf_recordFirst, modHome, recOf_modRec_same]

theorem revoked_reported (s : State) (c src job epoch end_ cause : Nat) :
    ∃ r ∈ (revoked s c src job epoch end_ cause).reports, r.source = 1021 ∧ r.code = 0x0701 := by
  unfold revoked
  dsimp only
  rw [undoFrom_reports, setDeps_reports, modHome_reports, reports_reportFault]
  exact ⟨_, List.mem_append_right _ List.mem_cons_self, rfl, rfl⟩

theorem homeAt_revoked (s : State) (c src job epoch end_ cause : Nat) :
    (homeAt (revoked s c src job epoch end_ cause) c src job).expect = end_ ∧
    (homeAt (revoked s c src job epoch end_ cause) c src job).gap = false := by
  have at_ : homeAt (revoked s c src job epoch end_ cause) c src job =
      homeAt (modHome s c src job fun h => { h with expect := end_, gap := false, group := [] }) c src job := by
    rw [homeAt, recOf_revoked, homeAt]
  rw [at_, homeAt_modHome _ _ _ _ _ ?_]
  · exact ⟨rfl, rfl⟩
  · exact fun _ => ⟨rfl, rfl⟩

theorem not_mem_undo_revoked {s : State} {c src job epoch end_ cause : Nat} {x : Undo}
    (mem : x ∈ (recOf (revoked s c src job epoch end_ cause) c).undo) : ¬(x.src = src ∧ after32 epoch x.epoch = false) := by
  rw [recOf_revoked] at mem
  rintro ⟨from_, later⟩
  simpa [from_, later] using (List.mem_filter.mp mem).2

theorem deps_revoked (s : State) (c src job epoch end_ cause : Nat) :
    (recOf (revoked s c src job epoch end_ cause) c).deps = (recOf s c).deps.filterMap (keptDep s src epoch) := by
  rw [recOf_revoked]
  exact congrArg _ (deps_modHome ..)

theorem triggers_revoked (s : State) (c src job epoch end_ cause : Nat) :
    (recOf (revoked s c src job epoch end_ cause) c).triggers = (recOf s c).triggers := by
  rw [recOf_revoked]
  exact triggers_modHome ..

end

section
variable {s : State} {i c : Nat} {h : Held}

theorem revoke_run (rx : rxEntry s i = some h) (own : toGate s h.bytes = false) (job : ctxOfJob s (flitJob h.bytes) = some c)
    (type : flitType h.bytes = 6) :
    exec (.revoke i) s = .next (consume (homeRevoke (dbToken (rlDevCount s 2) c (flitSrc h.bytes) 6 (fieldAt h.bytes 20 4)
      (fieldAt h.bytes 24 2)) c (flitSrc h.bytes) (flitJob h.bytes) (fieldAt h.bytes 20 4) (fieldAt h.bytes 24 2) 0) i h) := by
  refine (show _ = execRevoke i s from rfl).trans ?_
  have mine_ : ¬(decide (flitType h.bytes ≠ 6) || toGate s h.bytes) = true := by simp [type, own]
  unfold execRevoke
  rw [rx]
  dsimp only
  rw [if_neg mine_, job]

/-- Of a rollback that a revocation asks for, the records but the triggers are the revoked home's. -/
theorem homeRevoke_effect (s : State) (c src job epoch end_ cause : Nat) :
    (homeAt (homeRevoke s c src job epoch end_ cause) c src job).expect = end_ ∧
    (homeAt (homeRevoke s c src job epoch end_ cause) c src job).gap = false ∧
    (recOf (homeRevoke s c src job epoch end_ cause) c).deps = (recOf s c).deps.filterMap (keptDep s src epoch) ∧
    (∀ x ∈ (recOf (homeRevoke s c src job epoch end_ cause) c).undo, ¬(x.src = src ∧ after32 epoch x.epoch = false)) ∧
    (∃ r ∈ (homeRevoke s c src job epoch end_ cause).reports, r.source = 1021 ∧ r.code = 0x0701) ∧
    (∀ d, c < 64 → (recOf s c).deps.find? (fun d => d.src = src) = some d →
      (recOf (homeRevoke s c src job epoch end_ cause) c).triggers = (recOf s c).triggers ++ [d.rxEpoch + 1]) ∧
    ((recOf s c).deps.find? (fun d => d.src = src) = none →
      (recOf (homeRevoke s c src job epoch end_ cause) c).triggers = (recOf s c).triggers) := by
  have home := homeAt_revoked s c src job epoch end_ cause
  have deps := deps_revoked s c src job epoch end_ cause
  have undo (x) (mem : x ∈ (recOf (revoked s c src job epoch end_ cause) c).undo) := not_mem_undo_revoked mem
  have reported := revoked_reported s c src job epoch end_ cause
  have triggers := triggers_revoked s c src job epoch end_ cause
  cases hit : (recOf s c).deps.find? fun d => d.src = src with
  | none =>
    rw [homeRevoke_of_none hit]
    exact ⟨home.1, home.2, deps, undo, reported, fun d _ found => (nomatch found), fun _ => triggers⟩
  | some d =>
    rw [homeRevoke_of_some hit]
    generalize revoked s c src job epoch end_ cause = u at *
    have rest : recOf (trigger u c (d.rxEpoch + 1)) c = { recOf u c with triggers := (recOf (trigger u c (d.rxEpoch + 1)) c).triggers } := by
      by_cases small : c < 64
      · rw [recOf_trigger small]
      · rw [trigger, if_neg small]
    rw [homeAt, rest, trigger_reports]
    refine ⟨home.1, home.2, deps, undo, reported, fun e small found => ?_, fun found => (nomatch found)⟩
    rw [recOf_trigger small, triggers, Option.some.inj found]

theorem revoke_effect (rx : rxEntry s i = some h) (own : toGate s h.bytes = false) (job : ctxOfJob s (flitJob h.bytes) = some c)
    (type : flitType h.bytes = 6) :
    Completes (.revoke i) s fun u =>
      (homeAt u c (flitSrc h.bytes) (flitJob h.bytes)).expect = fieldAt h.bytes 24 2 ∧
      (homeAt u c (flitSrc h.bytes) (flitJob h.bytes)).gap = false ∧
      (∀ x ∈ (recOf u c).undo, ¬(x.src = flitSrc h.bytes ∧ after32 (fieldAt h.bytes 20 4) x.epoch = false)) ∧
      (∃ r ∈ u.reports, r.source = 1021 ∧ r.code = 0x0701) ∧
      (∀ d, c < 64 → (recOf s c).deps.find? (fun d => d.src = flitSrc h.bytes) = some d →
        (recOf u c).triggers = (recOf s c).triggers ++ [d.rxEpoch + 1]) ∧
      ((recOf s c).deps.find? (fun d => d.src = flitSrc h.bytes) = none → (recOf u c).triggers = (recOf s c).triggers) := by
  refine completes_of (revoke_run rx own job type) ?_
  rw [homeAt_congr (recOf_consume ..), recOf_consume, consume_reports]
  obtain ⟨expect, gap, -, undo, reported, some_, none_⟩ := homeRevoke_effect (dbToken (rlDevCount s 2) c (flitSrc h.bytes) 6
    (fieldAt h.bytes 20 4) (fieldAt h.bytes 24 2)) c (flitSrc h.bytes) (flitJob h.bytes) (fieldAt h.bytes 20 4) (fieldAt h.bytes 24 2) 0
  rw [recOf_dbToken, recOf_rlDevCount] at some_ none_
  exact ⟨expect, gap, undo, reported, some_, none_⟩

end

section
variable {s : State} {c : CtxIx} {src : BitVec 15} {d : Dep}

theorem after32_self (n : Nat) : after32 n n = false := by
  unfold after32
  exact decide_eq_false (by omega)

theorem commitWait_early (hit : (recOf s c).deps.find? (fun d => d.src = src.toNat) = some d)
    (early : now s < d.from_.toNat + 1000 * csrField s 0x07C0008 47 24) : exec (.commitWaitExpiry c src) s = .next s := by
  refine (show _ = execCommitWaitExpiry c src s from rfl).trans ?_
  unfold execCommitWaitExpiry
  rw [hit]
  dsimp only
  rw [if_pos early]

theorem commitWait_asks (hit : (recOf s c).deps.find? (fun d => d.src = src.toNat) = some d)
    (late : ¬now s < d.from_.toNat + 1000 * csrField s 0x07C0008 47 24) (first : d.gapSent = false) :
    exec (.commitWaitExpiry c src) s = .next (modRec (sendGap s d.src (ctx s c).job.toNat (homeAt s c d.src (ctx s c).job.toNat).expect) c
      fun r => { r with deps := r.deps.map fun x => if x.src = d.src then { x with gapSent := true, from_ := s.ledger } else x }) := by
  refine (show _ = execCommitWaitExpiry c src s from rfl).trans ?_
  have asks : (!d.gapSent) = true := by rw [first]; rfl
  unfold execCommitWaitExpiry
  rw [hit]
  dsimp only
  rw [if_neg late, if_pos asks]

theorem commitWait_forces (hit : (recOf s c).deps.find? (fun d => d.src = src.toNat) = some d)
    (late : ¬now s < d.from_.toNat + 1000 * csrField s 0x07C0008 47 24) (asked : d.gapSent = true) :
    exec (.commitWaitExpiry c src) s = .next (homeRevoke (rlDevCount s 7) c d.src (ctx s c).job.toNat d.pendLo
      (homeAt s c d.src (ctx s c).job.toNat).expect 1) := by
  refine (show _ = execCommitWaitExpiry c src s from rfl).trans ?_
  have asks : ¬(!d.gapSent) = true := by rw [asked]; exact Bool.false_ne_true
  unfold execCommitWaitExpiry
  rw [hit]
  dsimp only
  rw [if_neg late, if_neg asks]

theorem commitWaitExpiry_effect (hit : (recOf s c).deps.find? (fun d => d.src = src.toNat) = some d) :
    let end_ := d.from_.toNat + 1000 * csrField s 0x07C0008 47 24
    (s.ledger.toNat < end_ → Completes (.commitWaitExpiry c src) s fun u => u = s) ∧
    (end_ ≤ s.ledger.toNat → d.gapSent = false → Completes (.commitWaitExpiry c src) s fun u =>
      { d with gapSent := true, from_ := s.ledger } ∈ (recOf u c).deps ∧ (recOf u c).undo = (recOf s c).undo ∧
      (recOf u c).triggers = (recOf s c).triggers) ∧
    (end_ ≤ s.ledger.toNat → d.gapSent = true → after32 d.pendLo d.pendHi = false → Completes (.commitWaitExpiry c src) s fun u =>
      d ∉ (recOf u c).deps ∧ (recOf u c).triggers = (recOf s c).triggers ++ [d.rxEpoch + 1] ∧
      ∀ x ∈ (recOf u c).undo, ¬(x.src = src.toNat ∧ after32 d.pendLo x.epoch = false)) := by
  have source : d.src = src.toNat := by simpa using List.find?_some hit
  refine ⟨fun early => completes_of (commitWait_early hit early) rfl, fun late first => ?_, fun late asked ended => ?_⟩
  · refine completes_of (commitWait_asks hit (not_lt.mpr late) first) ?_
    rw [recOf_modRec_same, recOf_sendGap]
    exact ⟨List.mem_map.mpr ⟨d, List.mem_of_find?_eq_some hit, if_pos rfl⟩, rfl, rfl⟩
  · obtain ⟨-, -, deps, undo, -, triggers, -⟩ := homeRevoke_effect (rlDevCount s 7) c d.src (ctx s c).job.toNat d.pendLo
      (homeAt s c d.src (ctx s c).job.toNat).expect 1
    rw [recOf_rlDevCount] at deps triggers
    refine completes_of (commitWait_forces hit (not_lt.mpr late) asked) ⟨?_, triggers d c.isLt (source ▸ hit), source ▸ undo⟩
    rw [deps, List.mem_filterMap]
    rintro ⟨e, -, became⟩
    unfold keptDep at became
    split at became
    · next stays =>
      rw [Option.some.inj became, ended] at stays
      simp at stays
    split at became
    · have asked' := congrArg Dep.gapSent (Option.some.inj became)
      rw [asked] at asked'
      cases asked'
    · cases became

end

/-! ### Acknowledgement of peer writes (R349, R350, R354) -/

/-- The unacknowledged writes of a context's flow to a device and job. -/
def sentOf (s : State) (c dst job : Nat) : List Sent := (flowOf s c dst job).sent

theorem sentOf_eq (s : State) (c dst job : Nat) :
    sentOf s c dst job = ((findFlow (recOf s c).flows dst job).map Flow.sent).getD [] := by
  unfold sentOf flowOf
  cases findFlow (recOf s c).flows dst job with
  | none => rfl
  | some f => rfl

theorem sentOf_congr {s u : State} {c : Nat} (same : recOf u c = recOf s c) (dst job : Nat) : sentOf u c dst job = sentOf s c dst job := by
  rw [sentOf_eq, same, sentOf_eq]

theorem flowOf_key (s : State) (c dst job : Nat) : (flowOf s c dst job).dst = dst ∧ (flowOf s c dst job).job = job := by
  unfold flowOf
  cases found : findFlow (recOf s c).flows dst job with
  | none => exact ⟨rfl, rfl⟩
  | some f => exact findFlow_key found

theorem flowOf_modFlow (s : State) (c dst job : Nat) (g : Flow → Flow) (same : ∀ f, (g f).dst = f.dst ∧ (g f).job = f.job) :
    flowOf (modFlow s c dst job g) c dst job = g (flowOf s c dst job) := by
  have put := findFlow_setFlow (recOf s c).flows (g (flowOf s c dst job))
  rw [(same _).1, (same _).2, (flowOf_key ..).1, (flowOf_key ..).2] at put
  unfold modFlow
  rw [flowOf, recOf_modRec_same]
  exact congrArg (Option.getD · _) put

theorem sentOf_modFlow_other {s : State} {c dst job job' : Nat} {g : Flow → Flow} (same : ∀ f, (g f).dst = f.dst ∧ (g f).job = f.job)
    (apart : job' ≠ job) : sentOf (modFlow s c dst job' g) c dst job = sentOf s c dst job := by
  have other : findFlow (setFlow (recOf s c).flows (g (flowOf s c dst job'))) dst job = findFlow (recOf s c).flows dst job :=
    findFlow_setFlow_other fun key => apart (by rw [(same _).1, (same _).2, (flowOf_key ..).1, (flowOf_key ..).2] at key; exact key.2)
  rw [sentOf_eq, sentOf_eq, modFlow, recOf_modRec_same]
  dsimp only
  rw [other]

/-- The writes of a flow whose DSEQ `D` names are acknowledged, poisoned or not as it says, and the others are not. -/
structure Settles (c dst job : Nat) (D : Nat → Option Bool) (s u : State) : Prop where
  left : sentOf u c dst job = (sentOf s c dst job).filter fun x => (D x.dseq).isNone
  acked : ∀ x p, (sentOf s c dst job).find? (fun y => y.dseq = x.dseq) = some x → D x.dseq = some p →
    (∀ id ∈ x.ids, OnTheWay u .yardmaster (.stall x.pos) (.ack id p false)) ∧ (p = true → c < 64 → 0 ∈ (recOf u c).triggers)
  way : ∀ src dst b, OnTheWay s src dst b → OnTheWay u src dst b
  triggers : ∀ t ∈ (recOf s c).triggers, t ∈ (recOf u c).triggers

namespace Settles
variable {c dst job : Nat} {D E : Nat → Option Bool} {s u v : State}

/-- What leaves the flow's records and the messages of the Yard. -/
theorem still (rec : recOf u c = recOf s c) (yard : u.yard = s.yard) : Settles c dst job (fun _ => none) s u where
  left := by simp [sentOf_congr rec]
  acked x p found none_ := nomatch none_
  way src dst b := (onTheWay_congr yard).mpr
  triggers := by simp [rec]

/-- Only what `D` says of the writes that are unacknowledged counts. -/
theorem exchange (h : Settles c dst job D s u) (same : ∀ x ∈ sentOf s c dst job, D x.dseq = E x.dseq) : Settles c dst job E s u where
  left := h.left.trans (List.filter_congr fun x mem => by rw [same x mem])
  acked x p found told := h.acked x p found ((same x (List.mem_of_find?_eq_some found)).trans told)
  way := h.way
  triggers := h.triggers

theorem trans (first : Settles c dst job D s u) (next_ : Settles c dst job E u v) : Settles c dst job (fun k => (D k).or (E k)) s v where
  left := by
    rw [next_.left, first.left, List.filter_filter]
    refine List.filter_congr fun x _ => ?_
    cases D x.dseq <;> simp
  acked x p found told := by
    cases named : D x.dseq with
    | some q =>
      rw [named] at told
      cases told
      obtain ⟨acks, rolls⟩ := first.acked x p found named
      exact ⟨fun id mem => next_.way _ _ _ (acks id mem), fun bad small => next_.triggers 0 (rolls bad small)⟩
    | none =>
      rw [named] at told
      refine next_.acked x p ?_ told
      rw [first.left, List.find?_filter]
      refine (List.find?_congr fun y _ => ?_).trans found
      by_cases same : y.dseq = x.dseq
      · rw [same, named]
        simp
      · simp [same]
  way src dst b := next_.way src dst b ∘ first.way src dst b
  triggers t := next_.triggers t ∘ first.triggers t

/-- Of a fold, each write is acknowledged as the first of the list that names it says. -/
theorem foldl_inv {β : Type} {f : State → β → State} {D : β → Nat → Option Bool} (Inv : State → Prop) (keeps : ∀ s b, Inv s → Inv (f s b))
    (each : ∀ s b, Inv s → Settles c dst job (D b) s (f s b)) (l : List β) (s : State) (start : Inv s) :
    Settles c dst job (fun k => l.findSome? (D · k)) s (l.foldl f s) := by
  induction l generalizing s with
  | nil => exact still rfl rfl
  | cons b l ih =>
    refine ((each s b start).trans (ih _ (keeps s b start))).exchange fun x _ => ?_
    rw [List.findSome?_cons]
    cases D b x.dseq <;> rfl

theorem foldl {β : Type} {f : State → β → State} {D : β → Nat → Option Bool} (each : ∀ s b, Settles c dst job (D b) s (f s b)) (l : List β)
    (s : State) : Settles c dst job (fun k => l.findSome? (D · k)) s (l.foldl f s) :=
  foldl_inv (fun _ => True) (fun _ _ _ => trivial) (fun s b _ => each s b) l s trivial

end Settles

theorem mem_of_nget_ne {α : Type} {d : α} {m : NMap α} {k : Nat} (h : nget d m k ≠ d) : (k, nget d m k) ∈ m := by
  induction m with
  | nil => exact absurd rfl h
  | cons e m ih =>
    obtain ⟨j, v⟩ := e
    rw [nget] at h ⊢
    split at h <;> rename_i at_
    · rw [if_pos at_, at_]
      exact List.mem_cons_self
    · rw [if_neg at_]
      exact List.mem_cons_of_mem _ (ih h)

section
variable {s : State} {c dst job : Nat}

theorem mem_senderCtxs (some_ : sentOf s c dst job ≠ []) : c ∈ senderCtxs s dst job := by
  rw [sentOf_eq] at some_
  cases found : findFlow (recOf s c).flows dst job with
  | none => exact absurd (by rw [found]; rfl) some_
  | some f =>
    have there : (recOf s c).flows.any (fun f => f.dst = dst && f.job = job) = true := by
      obtain ⟨hdst, hjob⟩ := findFlow_key found
      exact List.any_eq_true.mpr ⟨f, List.mem_of_find?_eq_some found, by simp [hdst, hjob]⟩
    have differs : recOf s c ≠ {} := by
      intro default_
      rw [default_] at there
      cases there
    exact List.mem_map.mpr ⟨(c, recOf s c), List.mem_filter.mpr ⟨mem_of_nget_ne differs, there⟩, rfl⟩

theorem ackSent_of_none {dseq : Nat} (none_ : (sentOf s c dst job).find? (fun x => x.dseq = dseq) = none) (poison : Bool) :
    ackSent s c dst job dseq poison = s := by
  rw [sentOf] at none_
  rw [ackSent, none_]

/-- What acknowledges one write to the stall that sent it. -/
def ackIds (s : State) (c : Nat) (x : Sent) (poison : Bool) : State :=
  x.ids.foldl (fun s id => send s .yardmaster (.stall x.pos) .rsp c (.ack id poison false)) s

theorem ackSent_of_some {dseq : Nat} {x : Sent} (found : (sentOf s c dst job).find? (fun x => x.dseq = dseq) = some x) (poison : Bool) :
    ackSent s c dst job dseq poison =
      let s1 := modFlow s c dst job fun f => { f with sent := f.sent.filter fun y => y.dseq ≠ dseq }
      if poison then trigger (ackIds s1 c x poison) c 0 else ackIds s1 c x poison := by
  rw [sentOf] at found
  rw [ackSent, found]
  rfl

theorem recOf_ackIds (s : State) (c : Nat) (x : Sent) (poison : Bool) (d : Nat) : recOf (ackIds s c x poison) d = recOf s d :=
  foldl_keeps (recOf · d) (fun s id => recOf_send s .yardmaster (.stall x.pos) .rsp c (.ack id poison false) d) _ _

theorem carries_ackIds (s : State) (c : Nat) (x : Sent) (poison : Bool) : Carries s (ackIds s c x poison) :=
  Carries.foldl (fun _ _ => Carries.send ..) _ _

theorem onTheWay_ackIds (s : State) (c : Nat) {x : Sent} {id : Nat} (mem : id ∈ x.ids) (poison : Bool) :
    OnTheWay (ackIds s c x poison) .yardmaster (.stall x.pos) (.ack id poison false) :=
  shown_foldl (g := fun s id => send s .yardmaster (.stall x.pos) .rsp c (.ack id poison false)) (fun _ _ => Carries.send ..)
    OnTheWay.mono (fun _ => True) (fun _ _ _ => trivial) mem
    (fun v _ => onTheWay_send v .yardmaster (.stall x.pos) .rsp c (.ack id poison false)) trivial

theorem recOf_trigger_any (s : State) (c target : Nat) : ∃ ts, recOf (trigger s c target) c = { recOf s c with triggers := ts } ∧
    (∀ t ∈ (recOf s c).triggers, t ∈ ts) ∧ (c < 64 → target ∈ ts) := by
  by_cases small : c < 64
  · exact ⟨_, recOf_trigger small target, fun t mem => List.mem_append_left _ mem, fun _ => List.mem_append_right _ List.mem_cons_self⟩
  · exact ⟨_, by rw [trigger, if_neg small], fun t mem => mem, fun h => absurd h small⟩

theorem recOf_trigger_other {s : State} {c c' : Nat} (h : c ≠ c') (target : Nat) : recOf (trigger s c' target) c = recOf s c := by
  unfold trigger
  split
  · exact recOf_modRec_other _ h _
  · rfl

/-- Messages that leave settle none. -/
theorem Settles.carried {s u : State} {c dst job : Nat} (rec : recOf u c = recOf s c) (carries : Carries s u) :
    Settles c dst job (fun _ => none) s u where
  left := by simp [sentOf_congr rec]
  acked x p found none_ := nomatch none_
  way src dst b := carries.onTheWay
  triggers := by simp [rec]

/-- Rolling a context back settles none of its writes. -/
theorem Settles.trigger (s : State) (c c' dst job target : Nat) : Settles c dst job (fun _ => none) s (trigger s c' target) := by
  by_cases here : c' ≠ c
  · exact .still (recOf_trigger_other here.symm target) (trigger_yard ..)
  rw [not_not.mp here]
  obtain ⟨ts, rec, more, -⟩ := recOf_trigger_any s c target
  refine ⟨?_, fun x p _ none_ => (nomatch none_), fun src dst b => (onTheWay_congr (trigger_yard ..)).mpr, fun t mem => ?_⟩
  · rw [sentOf_eq, rec, sentOf_eq]
    simp
  · rw [rec]
    exact more t mem

/-- The write leaves the flow, its senders are told, and a poisoned one rolls the context back. -/
theorem settles_ackSent (s : State) (c dst job dseq : Nat) (poison : Bool) :
    Settles c dst job (fun k => if k = dseq then some poison else none) s (ackSent s c dst job dseq poison) := by
  cases found : (sentOf s c dst job).find? fun x => x.dseq = dseq with
  | none =>
    rw [ackSent_of_none found]
    refine (Settles.still rfl rfl).exchange fun x mem => (if_neg fun same => ?_).symm
    simpa [same] using List.find?_eq_none.mp found x mem
  | some x =>
    rw [ackSent_of_some found]
    dsimp only
    generalize at_ : modFlow s c dst job _ = v
    have left : sentOf v c dst job = (sentOf s c dst job).filter fun y => (if y.dseq = dseq then some poison else none).isNone := by
      rw [← at_, sentOf, flowOf_modFlow _ _ _ _ _ ?_]
      · exact List.filter_congr fun y _ => by by_cases same : y.dseq = dseq <;> simp [same]
      · exact fun _ => ⟨rfl, rfl⟩
    have triggers : (recOf v c).triggers = (recOf s c).triggers := by
      rw [← at_, modFlow, recOf_modRec_same]
    have yard : v.yard = s.yard := by
      rw [← at_]
      rfl
    have told : sentOf (ackIds v c x poison) c dst job = sentOf v c dst job := sentOf_congr (recOf_ackIds ..) ..
    have only (y : Sent) (p : Bool) (first : (sentOf s c dst job).find? (fun z => z.dseq = y.dseq) = some y)
        (named : (if y.dseq = dseq then some poison else none) = some p) : y = x ∧ p = poison := by
      split at named
      · next same =>
        rw [same, found] at first
        exact ⟨(Option.some.inj first).symm, (Option.some.inj named).symm⟩
      · cases named
    have way (src to_ : Node) (b : Body) (on : OnTheWay s src to_ b) : OnTheWay (ackIds v c x poison) src to_ b :=
      (carries_ackIds v c x poison).onTheWay ((onTheWay_congr yard).mpr on)
    cases poison with
    | false =>
      rw [if_neg Bool.false_ne_true]
      refine ⟨told.trans left, fun y p first named => ?_, way, fun t mem => ?_⟩
      · obtain ⟨rfl, rfl⟩ := only y p first named
        exact ⟨fun id mem => onTheWay_ackIds v c mem false, fun bad => nomatch bad⟩
      · rw [recOf_ackIds, triggers]
        exact mem
    | true =>
      rw [if_pos rfl]
      obtain ⟨ts, rec, more, there⟩ := recOf_trigger_any (ackIds v c x true) c 0
      rw [recOf_ackIds, triggers] at more
      refine ⟨?_, fun y p first named => ?_, fun src to_ b on => (onTheWay_congr (trigger_yard ..)).mpr (way src to_ b on), fun t mem => ?_⟩
      · rw [sentOf_eq, rec, ← left, ← told, sentOf_eq]
      · obtain ⟨rfl, rfl⟩ := only y p first named
        exact ⟨fun id mem => (onTheWay_congr (trigger_yard ..)).mpr (onTheWay_ackIds v c mem true), fun _ small => rec ▸ there small⟩
      · rw [rec]
        exact more t mem

/-- A write of another context, or of another flow, settles none. -/
theorem settles_ackSent_apart (s : State) {c c' dst job job' : Nat} (apart : c' ≠ c ∨ job' ≠ job) (dseq : Nat) (poison : Bool) :
    Settles c dst job (fun _ => none) s (ackSent s c' dst job' dseq poison) := by
  cases found : (sentOf s c' dst job').find? fun x => x.dseq = dseq with
  | none =>
    rw [ackSent_of_none found]
    exact .still rfl rfl
  | some x =>
    rw [ackSent_of_some found]
    dsimp only
    generalize at_ : modFlow s c' dst job' _ = v
    have flow : Settles c dst job (fun _ => none) s v := by
      rw [← at_]
      by_cases here : c' ≠ c
      · exact .still (recOf_modRec_other _ here.symm _) rfl
      obtain rfl := not_not.mp here
      have other := apart.resolve_left fun h => h rfl
      refine ⟨?_, fun x p _ none_ => (nomatch none_), fun src to_ b on => (onTheWay_congr rfl).mpr on, fun t mem => ?_⟩
      · rw [sentOf_modFlow_other _ other]
        · simp
        · exact fun _ => ⟨rfl, rfl⟩
      · rw [modFlow, recOf_modRec_same]
        exact mem
    have sends : Settles c dst job (fun _ => none) s (ackIds v c' x poison) := flow.trans (.carried (recOf_ackIds ..) (carries_ackIds ..))
    cases poison with
    | false => exact sends
    | true => exact sends.trans (.trigger ..)

end

section
variable {c dst job : Nat}

/-- With nothing unacknowledged, a step that settles none settles whatever is named. -/
theorem Settles.of_empty {D E : Nat → Option Bool} {s u : State} (empty : sentOf s c dst job = []) (h : Settles c dst job D s u) :
    Settles c dst job E s u := h.exchange fun x mem => by rw [empty] at mem; cases mem

theorem findSome?_ite {α β : Type} [DecidableEq α] {l : List α} {c : α} (mem : c ∈ l) (v : Option β) :
    (l.findSome? fun d => if d = c then v else none) = v := by
  induction l with
  | nil => cases mem
  | cons x l ih =>
    rw [List.findSome?_cons]
    by_cases h : x = c
    · rw [if_pos h]
      cases v with
      | some b => rfl
      | none => simp
    · rw [if_neg h]
      exact ih ((List.mem_cons.mp mem).resolve_left (Ne.symm h))

/-- Every context with a flow to the device and job is told of one acknowledgement (R349). -/
theorem settles_ackAll (s : State) (c dst job dseq : Nat) (poison : Bool) :
    Settles c dst job (fun k => if k = dseq then some poison else none) s
      ((senderCtxs s dst job).foldl (fun s d => ackSent s d dst job dseq poison) s) := by
  have each (v : State) (d : Nat) : Settles c dst job (fun k => if d = c then (if k = dseq then some poison else none) else none) v
      (ackSent v d dst job dseq poison) := by
    by_cases here : d = c
    · simpa only [if_pos here] using here ▸ settles_ackSent v d dst job dseq poison
    · simpa only [if_neg here] using settles_ackSent_apart v (.inl here) dseq poison
  have all := Settles.foldl each (senderCtxs s dst job) s
  by_cases empty : sentOf s c dst job = []
  · exact all.of_empty empty
  · exact all.exchange fun x _ => findSome?_ite (mem_senderCtxs empty) _

/-- The unacknowledged writes that a test names, as the poisoned acknowledgement takes them. -/
def poisoned (f : Sent → Bool) (xs : List Sent) (k : Nat) : Option Bool := if xs.any (fun y => f y && y.dseq = k) then some true else none

theorem settles_ackPoisoned (s : State) (c dst job : Nat) (f : Sent → Bool) :
    Settles c dst job (poisoned f (sentOf s c dst job)) s (ackPoisoned s c dst job f) := by
  have each (v : State) (y : Sent) := settles_ackSent v c dst job y.dseq true
  refine (Settles.foldl each ((sentOf s c dst job).filter f) s).exchange fun x _ => ?_
  unfold poisoned
  generalize sentOf s c dst job = xs
  induction xs with
  | nil => rfl
  | cons y xs ih =>
    by_cases named : f y = true
    · rw [List.filter_cons_of_pos named, List.findSome?_cons, List.any_cons, named, ih]
      by_cases same : y.dseq = x.dseq
      · simp [same]
      · simp [same, Ne.symm same]
    · rw [List.filter_cons_of_neg named, ih]
      simp [named]

theorem settles_ackPoisoned_apart (s : State) {c c' dst job job' : Nat} (apart : c' ≠ c ∨ job' ≠ job) (f : Sent → Bool) :
    Settles c dst job (fun _ => none) s (ackPoisoned s c' dst job' f) := by
  have each (v : State) (y : Sent) : Settles c dst job (fun _ => none) v (ackSent v c' dst job' y.dseq true) :=
    settles_ackSent_apart v apart y.dseq true
  refine (Settles.foldl each _ s).exchange fun x _ => ?_
  induction (flowOf s c' dst job').sent.filter f with
  | nil => rfl
  | cons y ys ih => exact ih

end

/-! ### The acknowledging commands -/

section
variable {s : State} {i c : Nat} {h : Held}

theorem wack_run (rx : rxEntry s i = some h) (type : flitType h.bytes = 5) : exec (.wack i) s =
    .next (consume ((wackEntries h.bytes).foldl (fun s e =>
      if toGate s h.bytes then ackGate s (flitSrc h.bytes) (flitJob h.bytes) e.1 (e.2 ≠ 0)
      else (senderCtxs s (flitSrc h.bytes) (flitJob h.bytes)).foldl (fun s c =>
        ackSent s c (flitSrc h.bytes) (flitJob h.bytes) e.1 (e.2 ≠ 0)) s) s) i h) := by
  refine (show _ = execWack i s from rfl).trans ?_
  unfold execWack
  rw [rx]
  dsimp only
  rw [if_neg (not_not.mpr type)]

/-- What a GAP does of one sender's context. -/
def gapped (dst job n : Nat) (s : State) (d : Nat) : State := trigger (ackPoisoned (dbToken s d dst 7 0 n) d dst job fun _ => true) d 0

theorem gap_run (rx : rxEntry s i = some h) (own : toGate s h.bytes = false) (type : flitType h.bytes = 7) : exec (.gap i) s =
    .next (consume ((senderCtxs s (flitSrc h.bytes) (flitJob h.bytes)).foldl
      (gapped (flitSrc h.bytes) (flitJob h.bytes) (fieldAt h.bytes 20 2)) s) i h) := by
  refine (show _ = execGap i s from rfl).trans ?_
  unfold execGap
  rw [rx]
  dsimp only
  rw [if_neg (not_not.mpr type), if_neg (Bool.eq_false_iff.mp own)]
  rfl

theorem Settles.consumed {dst job : Nat} {D : Nat → Option Bool} {s u : State} (settled : Settles c dst job D s u) :
    Settles c dst job D s (consume u i h) :=
  (settled.trans (.still (recOf_consume ..) (consume_yard ..))).exchange fun _ _ => Option.or_none

theorem toGate_congr {s u : State} (gate : u.gate = s.gate) (csr : u.csr = s.csr) (b : List Byte) : toGate u b = toGate s b := by
  unfold toGate gateId
  rw [gate, csrField_congr (csrGet_congr csr 0x0800008), csrField_congr (csrGet_congr csr 0x6418)]

/-- What a WACK acknowledges: each of its entries, poisoned unless it was performed clean. -/
def wacked (es : List (Nat × Nat)) (k : Nat) : Option Bool := es.findSome? fun e => if k = e.1 then some (decide (e.2 ≠ 0)) else none

theorem wacked_of_find? {es : List (Nat × Nat)} {e : Nat × Nat} {k : Nat} (first : es.find? (fun y => y.1 = k) = some e) :
    wacked es k = some (decide (e.2 ≠ 0)) := by
  unfold wacked
  induction es with
  | nil => cases first
  | cons y es ih =>
    rw [List.findSome?_cons]
    by_cases same : y.1 = k
    · rw [List.find?_cons_of_pos (by simpa using same)] at first
      rw [if_pos same.symm, Option.some.inj first]
    · rw [List.find?_cons_of_neg (by simpa using same)] at first
      rw [if_neg (Ne.symm same)]
      exact ih first

theorem ne_of_wacked_none {es : List (Nat × Nat)} {e : Nat × Nat} {k : Nat} (none_ : wacked es k = none) (mem : e ∈ es) : k ≠ e.1 := by
  intro same
  have not_ := List.findSome?_eq_none_iff.mp none_ e mem
  rw [if_pos same] at not_
  cases not_

theorem wack_effect (c : Nat) (rx : rxEntry s i = some h) (own : toGate s h.bytes = false) (type : flitType h.bytes = 5) :
    Completes (.wack i) s fun u =>
      (∀ x ∈ sentOf u c (flitSrc h.bytes) (flitJob h.bytes), ∀ e ∈ wackEntries h.bytes, x.dseq ≠ e.1) ∧
      ∀ x e, (sentOf s c (flitSrc h.bytes) (flitJob h.bytes)).find? (fun y => y.dseq = x.dseq) = some x →
        (wackEntries h.bytes).find? (fun y => y.1 = x.dseq) = some e →
        (∀ id ∈ x.ids, OnTheWay u .yardmaster (.stall x.pos) (.ack id (decide (e.2 ≠ 0)) false)) ∧
        (e.2 ≠ 0 → c < 64 → 0 ∈ (recOf u c).triggers) := by
  have told : Settles c (flitSrc h.bytes) (flitJob h.bytes) (wacked (wackEntries h.bytes)) s _ :=
    Settles.consumed (i := i) (h := h) (Settles.foldl_inv (fun v => toGate v h.bytes = false)
      (f := fun s e => if toGate s h.bytes then ackGate s (flitSrc h.bytes) (flitJob h.bytes) e.1 (e.2 ≠ 0)
        else (senderCtxs s (flitSrc h.bytes) (flitJob h.bytes)).foldl (fun s c =>
          ackSent s c (flitSrc h.bytes) (flitJob h.bytes) e.1 (e.2 ≠ 0)) s)
      (D := fun e k => if k = e.1 then some (decide (e.2 ≠ 0)) else none) (fun v e gate => ?keeps) (fun v e gate => ?each)
      (wackEntries h.bytes) s own)
  case keeps =>
    rw [if_neg (Bool.eq_false_iff.mp gate)]
    exact (toGate_congr (foldl_keeps State.gate (fun _ _ => ackSent_gate ..) _ _) (foldl_keeps State.csr (fun _ _ => ackSent_csr ..) _ _)
      _).trans gate
  case each =>
    rw [if_neg (Bool.eq_false_iff.mp gate)]
    exact settles_ackAll ..
  refine completes_of (wack_run rx type) ⟨fun x mem e there => ?_, fun x e found first => ?_⟩
  · rw [told.left] at mem
    exact ne_of_wacked_none (Option.isNone_iff_eq_none.mp (List.mem_filter.mp mem).2) there
  · obtain ⟨acks, rolls⟩ := told.acked x _ found (wacked_of_find? first)
    exact ⟨acks, fun bad => rolls (decide_eq_true bad)⟩

theorem settles_gapped (c dst job n : Nat) (v : State) (d : Nat) :
    Settles c dst job (fun _ => if d = c then some true else none) v (gapped dst job n v d) := by
  have token : Settles c dst job (fun _ => none) v (dbToken v d dst 7 0 n) := .still (recOf_dbToken ..) (dbToken_yard ..)
  unfold gapped
  by_cases here : d = c
  · subst here
    refine ((token.trans (settles_ackPoisoned ..)).trans (.trigger ..)).exchange fun x mem => ?_
    rw [if_pos rfl, Option.none_or, Option.or_none, sentOf_congr (recOf_dbToken ..), poisoned, if_pos]
    exact List.any_eq_true.mpr ⟨x, mem, by simp⟩
  · simpa only [if_neg here] using ((token.trans (settles_ackPoisoned_apart _ (.inl here) _)).trans (.trigger ..)).exchange fun x _ => rfl

theorem triggers_foldl_gapped {dst job n : Nat} {l : List Nat} (mem : c ∈ l) (small : c < 64) (s : State) :
    0 ∈ (recOf (l.foldl (gapped dst job n) s) c).triggers := by
  induction l generalizing s with
  | nil => cases mem
  | cons d l ih =>
    obtain rfl | mem := List.mem_cons.mp mem
    · obtain ⟨ts, rec, -, there⟩ := recOf_trigger_any (ackPoisoned (dbToken s c dst 7 0 n) c dst job fun _ => true) c 0
      refine (Settles.foldl (settles_gapped c dst job n) l _).triggers 0 ?_
      rw [gapped, rec]
      exact there small
    · exact ih mem _

theorem gap_effect (rx : rxEntry s i = some h) (own : toGate s h.bytes = false) (type : flitType h.bytes = 7)
    (sender : c ∈ senderCtxs s (flitSrc h.bytes) (flitJob h.bytes)) :
    Completes (.gap i) s fun u => sentOf u c (flitSrc h.bytes) (flitJob h.bytes) = [] ∧ (c < 64 → 0 ∈ (recOf u c).triggers) ∧
      ∀ x, (sentOf s c (flitSrc h.bytes) (flitJob h.bytes)).find? (fun y => y.dseq = x.dseq) = some x →
        ∀ id ∈ x.ids, OnTheWay u .yardmaster (.stall x.pos) (.ack id true false) := by
  have told := (Settles.foldl (settles_gapped c (flitSrc h.bytes) (flitJob h.bytes) (fieldAt h.bytes 20 2)) (senderCtxs s (flitSrc h.bytes) (flitJob h.bytes)) s).consumed (i := i) (h := h)
  rw [show (fun _ : Nat => (senderCtxs s (flitSrc h.bytes) (flitJob h.bytes)).findSome? fun d => if d = c then some true else none) =
    fun _ => some true from funext fun _ => findSome?_ite sender _] at told
  refine completes_of (gap_run rx own type) ⟨?_, fun small => ?_, fun x found => (told.acked x true found rfl).1⟩
  · rw [told.left]
    simp
  · rw [recOf_consume]
    exact triggers_foldl_gapped sender small s

end

section
variable {s : State} {c : CtxIx}

theorem wackSend_run {src : BitVec 15} {h : Home} (waits : (recOf s c).homes.find? (fun h => h.src = src.toNat && h.wacks ≠ []) = some h) :
    exec (.wackSend c src) s = .next (sendFlit (modHome s c h.src h.job fun x => { x with wacks := x.wacks.drop 48, since := s.ledger }) 0
      (mkFlit s 5 1 h.src 0 0 (wackBody h.job (h.wacks.take 48)))) := by
  refine (show _ = execWackSend c src s from rfl).trans ?_
  unfold execWackSend
  rw [waits]

theorem wackSend_effect {src : BitVec 15} {h : Home} (waits : (recOf s c).homes.find? (fun h => h.src = src.toNat && h.wacks ≠ []) = some h)
    (at_ : homeAt s c h.src h.job = h) : Completes (.wackSend c src) s fun u =>
      (homeAt u c h.src h.job).wacks = h.wacks.drop 48 ∧ (homeAt u c h.src h.job).since = s.ledger := by
  refine completes_of (wackSend_run waits) ?_
  rw [homeAt_congr (recOf_sendFlit ..), homeAt_modHome _ _ _ _ _ ?_, at_]
  · exact ⟨rfl, rfl⟩
  · exact fun _ => ⟨rfl, rfl⟩

/-- The writes that have waited for WACK_WAIT_US (R349). -/
def waitedOut (s : State) (x : Sent) : Bool := decide (x.at_.toNat + 1000 * csrField s 0x07C0008 23 0 ≤ now s)

/-- What WACK_WAIT_EXPIRY does of one flow of the context. -/
def lapse (late : Sent → Bool) (c : Nat) (s : State) (f : Flow) : State :=
  ackPoisoned ((List.range (f.sent.filter late).length).foldl (fun s _ => rlDevCount s 6) s) c f.dst f.job late

/-- What it does of the Gatehouse's writes. -/
def gateLapse (late : Sent → Bool) (s : State) (e : Nat × Flow) : State :=
  (e.2.sent.filter late).foldl (fun s x => ackGate (rlDevCount s 6) e.2.dst e.2.job x.dseq true) s

theorem wackWaitExpiry_run (dst : BitVec 15) : exec (.wackWaitExpiry c dst) s = .next (
    let s1 := ((recOf s c).flows.filter fun f => f.dst = dst.toNat).foldl (lapse (waitedOut s) c) s
    (s1.gate.flows.filter fun e => e.1 % 64 = c.val && e.2.dst = dst.toNat).foldl (gateLapse (waitedOut s)) s1) := rfl

theorem settles_lapse {late : Sent → Bool} {c dst job : Nat} {v : State} {f : Flow} (here : f.dst = dst ∧ f.job = job) :
    Settles c dst job (poisoned late (sentOf v c dst job)) v (lapse late c v f) := by
  obtain ⟨rfl, rfl⟩ := here
  have counted := Settles.still (c := c) (dst := f.dst) (job := f.job)
    (foldl_keeps (recOf · c) (fun v _ => recOf_rlDevCount v 6 c) (List.range (f.sent.filter late).length) v)
    (foldl_keeps State.yard (fun v _ => rlDevCount_yard v 6) (List.range (f.sent.filter late).length) v)
  refine (counted.trans (settles_ackPoisoned ..)).exchange fun x _ => ?_
  rw [counted.left]
  simp

theorem settles_lapse_apart {late : Sent → Bool} {c dst job : Nat} {v : State} {f : Flow} (here : f.dst = dst) (apart : f.job ≠ job) :
    Settles c dst job (fun _ => none) v (lapse late c v f) := by
  subst here
  have counted := Settles.still (c := c) (dst := f.dst) (job := job)
    (foldl_keeps (recOf · c) (fun v _ => recOf_rlDevCount v 6 c) (List.range (f.sent.filter late).length) v)
    (foldl_keeps State.yard (fun v _ => rlDevCount_yard v 6) (List.range (f.sent.filter late).length) v)
  exact counted.trans (settles_ackPoisoned_apart _ (.inr apart) _)

theorem poisoned_left {late : Sent → Bool} {xs : List Sent} {x : Sent}
    (mem : x ∈ xs.filter fun x => (poisoned late xs x.dseq).isNone) : late x = false := by
  obtain ⟨there, left⟩ := List.mem_filter.mp mem
  refine Bool.eq_false_iff.mpr fun late_ => ?_
  rw [poisoned, if_pos (List.any_eq_true.mpr ⟨x, there, by simp [late_]⟩)] at left
  cases left

theorem poisoned_of_none {late : Sent → Bool} {xs : List Sent} (none_ : ∀ x ∈ xs, late x = false) (k : Nat) : poisoned late xs k = none :=
  if_neg fun some_ => by
    obtain ⟨x, mem, named⟩ := List.any_eq_true.mp some_
    rw [none_ x mem] at named
    cases named

/-- Whatever flows lapse, the writes of one that is among them and have waited are acknowledged poisoned, and no others. -/
theorem settles_lapses {late : Sent → Bool} {c dst job : Nat} {l : List Flow} (same : ∀ f ∈ l, f.dst = dst) (v : State) :
    Settles c dst job (fun k => if ∃ f ∈ l, f.job = job then poisoned late (sentOf v c dst job) k else none) v (l.foldl (lapse late c) v) := by
  induction l generalizing v with
  | nil => simpa using Settles.still rfl rfl
  | cons f l ih =>
    have rest := ih (fun g mem => same g (List.mem_cons_of_mem _ mem)) (lapse late c v f)
    by_cases here : f.job = job
    · have first := settles_lapse (late := late) (c := c) (v := v) ⟨same f List.mem_cons_self, here⟩
      refine (first.trans rest).exchange fun x _ => ?_
      have clean : poisoned late (sentOf (lapse late c v f) c dst job) x.dseq = none := by
        rw [first.left]
        exact poisoned_of_none (fun y mem => poisoned_left mem) _
      rw [clean, ite_self, Option.or_none, if_pos ⟨f, List.mem_cons_self, here⟩]
    · have first := settles_lapse_apart (late := late) (c := c) (dst := dst) (v := v) (same f List.mem_cons_self) here
      refine (first.trans rest).exchange fun x _ => ?_
      have left : sentOf (lapse late c v f) c dst job = sentOf v c dst job := by simpa using first.left
      simp [left, here]

theorem settles_gateLapse {late : Sent → Bool} {c dst job : Nat} (v : State) (e : Nat × Flow) :
    Settles c dst job (fun _ => none) v (gateLapse late v e) :=
  .still (foldl_keeps (recOf · c) (fun v _ => (recOf_ackGate ..).trans (recOf_rlDevCount v 6 c)) _ _)
    (foldl_keeps State.yard (fun v _ => (ackGate_yard ..).trans (rlDevCount_yard v 6)) _ _)

theorem wackWaitExpiry_effect {dst : BitVec 15} {f : Flow} (mem : f ∈ (recOf s c).flows) (to_ : f.dst = dst.toNat)
    (at_ : flowOf s c f.dst f.job = f) : Completes (.wackWaitExpiry c dst) s fun u =>
      (∀ x ∈ (flowOf u c f.dst f.job).sent, ¬x.at_.toNat + 1000 * csrField s 0x07C0008 23 0 ≤ s.ledger.toNat) ∧
      ∀ x, f.sent.find? (fun y => y.dseq = x.dseq) = some x →
        x.at_.toNat + 1000 * csrField s 0x07C0008 23 0 ≤ s.ledger.toNat →
        (∀ id ∈ x.ids, OnTheWay u .yardmaster (.stall x.pos) (.ack id true false)) ∧ 0 ∈ (recOf u c).triggers := by
  have mine_ : ∃ g ∈ (recOf s c).flows.filter fun f => f.dst = dst.toNat, g.job = f.job :=
    ⟨f, List.mem_filter.mpr ⟨mem, decide_eq_true to_⟩, rfl⟩
  have lapses := settles_lapses (late := waitedOut s) (c := c) (dst := f.dst) (job := f.job)
    (l := (recOf s c).flows.filter fun f => f.dst = dst.toNat) (fun g hg => by simpa [to_] using (List.mem_filter.mp hg).2) s
  simp only [if_pos mine_] at lapses
  have own : sentOf s c f.dst f.job = f.sent := congrArg Flow.sent at_
  refine completes_of (wackWaitExpiry_run dst) ?_
  dsimp only
  generalize ((recOf s c).flows.filter fun f => f.dst = dst.toNat).foldl (lapse (waitedOut s) c) s = v at *
  have told : Settles c f.dst f.job (poisoned (waitedOut s) (sentOf s c f.dst f.job)) s _ :=
    (lapses.trans (Settles.foldl (settles_gateLapse (late := waitedOut s))
      (v.gate.flows.filter fun e => e.1 % 64 = c.val && e.2.dst = dst.toNat) v)).exchange fun x _ => by
        rw [List.findSome?_eq_none_iff.mpr fun _ _ => rfl, Option.or_none]
  refine ⟨fun x left late => ?_, fun x found late => ?_⟩
  · replace left := told.left ▸ (show x ∈ sentOf _ c f.dst f.job from left)
    exact Bool.eq_false_iff.mp (poisoned_left left) (decide_eq_true late)
  · obtain ⟨acks, rolls⟩ := told.acked x true (own ▸ found) (if_pos (List.any_eq_true.mpr ⟨x, own ▸ List.mem_of_find?_eq_some found, by simp [waitedOut, now, late]⟩))
    exact ⟨acks, rolls rfl c.isLt⟩

end

/-- Settles O40: the home's dependency, undo records and EXPECT after COMMIT, REVOKE and their timeout; what the acknowledgement of
peer writes takes from a flow and tells its senders. -/
theorem peerEpochsCommitAndRevoke : Obligations.PeerEpochsCommitAndRevoke := by
  unfold Obligations.PeerEpochsCommitAndRevoke
  exact ⟨⟨fun s i c h rx own job => ⟨fun type turn => commit_effect rx own job type turn, fun type => revoke_effect rx own job type⟩,
      fun s c src d hit => commitWaitExpiry_effect hit⟩,
    fun s c src h waits at_ => wackSend_effect waits at_,
    fun s i c h rx own sender => ⟨fun type => wack_effect c rx own type, fun type => gap_effect rx own type sender⟩,
    fun s c dst f mem to_ at_ => wackWaitExpiry_effect mem to_ at_⟩

/-! ### What clean writes leave in device memory (R315) -/

theorem byteAt_congr {s u : State} (mem : u.hbm.mem = s.hbm.mem) (combine : u.hbm.combine = s.hbm.combine) (a : Nat) : byteAt u a = byteAt s a := by
  unfold byteAt granuleBytes
  rw [mem, combine]

theorem byteAt_eq (s : State) (a : Nat) : byteAt s a =
    (((((nget none s.hbm.combine (a / 256)).getD {}).bytes.find? fun b => b.1 = a % 256).map (·.2)).getD (nget 0 s.hbm.mem a)) := by
  have at_ : (List.range 256)[a % 256]? = some (a % 256) := List.getElem?_range (Nat.mod_lt _ (by decide))
  unfold byteAt granuleBytes
  dsimp only
  rw [List.getD_eq_getElem?_getD, List.getElem?_map, at_, Option.map_some, Option.getD_some, Nat.div_add_mod']
  cases List.find? _ _ with
  | none => rfl
  | some b => rfl

/-- The first byte that cells hold for an address. -/
def cellAt (bs : List Host.Cell) (a : Nat) : Option Byte := (bs.find? fun b => b.1 = a).map (·.2)

theorem cellAt_cellsIn (bs : List Host.Cell) (a : Nat) : cellAt (cellsIn bs (a / 256)) (a % 256) = cellAt bs a := by
  unfold cellAt cellsIn
  rw [List.find?_map, List.find?_filter, Option.map_map]
  refine congrArg₂ Option.map rfl (List.find?_congr fun b _ => ?_)
  have key : (b.1 / 256 = a / 256 ∧ b.1 % 256 = a % 256) ↔ b.1 = a := by omega
  exact decide_eq_decide.mpr (by simpa using key)

/-- The bytes that a granule holds once some are merged into what waited to be written. -/
theorem byteAt_merge (s : State) (bs : List (Nat × Byte)) (poison : Bool) (a : Nat) :
    byteAt { s with hbm := { s.hbm with combine := nset none s.hbm.combine (a / 256) (some (mergeBytes s (a / 256) bs poison)) } } a =
      (cellAt bs (a % 256)).getD (byteAt s a) := by
  rw [byteAt_eq, byteAt_eq, nget_nset_same, Option.getD_some, mergeBytes, cellAt]
  dsimp only
  rw [List.find?_append]
  cases found : bs.find? fun b => b.1 = a % 256 with
  | some b => rfl
  | none =>
    have none_ (b : Nat × Byte) (mem : b ∈ bs) : ¬b.1 = a % 256 := by simpa using List.find?_eq_none.mp found b mem
    rw [Option.none_or, List.find?_filter]
    refine congrArg (fun o => (Option.map _ o).getD _) (List.find?_congr fun b _ => ?_)
    by_cases here : b.1 = a % 256
    · have apart : (bs.any fun x => x.1 = b.1) = false := List.any_eq_false.mpr fun x mem => by simpa [here] using none_ x mem
      simpa [here] using apart
    · simp [here]

theorem granuleBytes_length (s : State) (g : Nat) : (granuleBytes s g).length = 256 := by
  simp [granuleBytes]

theorem putGranule_byteAt {s : State} {g : Nat} {d : List Byte} (size : d.length = 256) (poison : Bool) (a : Nat) :
    byteAt (putGranule s g d poison) a = if a / 256 = g then d.getD (a % 256) 0 else byteAt s a := by
  have mem : (putGranule s g d poison).hbm.mem = memWrite s.hbm.mem (g * 256) d := mem_setGpoison ..
  have combine : (putGranule s g d poison).hbm.combine = nset none s.hbm.combine g none := rfl
  split
  · next here =>
    have inside : a % 256 < d.length := (Nat.mod_lt a (by decide : 256 > 0)).trans_eq size.symm
    have at_ : g * 256 + a % 256 = a := by omega
    rw [byteAt_of_none (by rw [combine, here, nget_nset_same]), mem, ← congrArg (nget 0 (memWrite s.hbm.mem (g * 256) d)) at_,
      nget_memWrite_inside _ _ _ inside, List.getD_eq_getElem _ _ inside]
  · next other =>
    have outside : a < g * 256 ∨ g * 256 + d.length ≤ a := by omega
    rw [byteAt_eq, byteAt_eq, mem, combine, nget_nset_other none _ other, nget_memWrite_outside _ _ _ outside]

/-- A clean write of some bytes of a granule. -/
theorem byteAt_writeGranule (s : State) (g : Nat) (bs : List (Nat × Byte)) (poison own : Bool) (a : Nat) :
    byteAt (writeGranule s g bs poison {} own) a = if a / 256 = g then (cellAt bs (a % 256)).getD (byteAt s a) else byteAt s a := by
  have merged : byteAt { s with hbm := { s.hbm with combine := nset none s.hbm.combine g (some (mergeBytes s g bs poison)) } } a =
      if a / 256 = g then (cellAt bs (a % 256)).getD (byteAt s a) else byteAt s a := by
    split
    · next here => exact here ▸ byteAt_merge s bs poison a
    · next other => rw [byteAt_eq, byteAt_eq, nget_nset_other none _ other]
  unfold writeGranule
  dsimp only
  generalize { s with hbm := { s.hbm with combine := nset none s.hbm.combine g (some (mergeBytes s g bs poison)) } } = v at *
  split
  · refine (putGranule_byteAt (granuleBytes_length v g) _ a).trans ?_
    rw [← merged]
    split
    · next here => exact here ▸ rfl
    · rfl
  · exact merged

/-- A clean write of cells: each address holds the first byte that the cells give it, else what it held (R315). -/
theorem byteAt_storeBytes (s : State) (bs : List Host.Cell) (poison own : Bool) (a : Nat) :
    byteAt (storeBytes s bs poison [] own) a = (cellAt bs a).getD (byteAt s a) := by
  have each (gs : List Nat) (nodup : gs.Nodup) (s : State) :
      byteAt (gs.foldl (fun s g => writeGranule s g (cellsIn bs g) poison (MemErrs.at_ [] g) own) s) a =
        if a / 256 ∈ gs then (cellAt bs a).getD (byteAt s a) else byteAt s a := by
    induction gs generalizing s with
    | nil => rfl
    | cons g gs ih =>
      obtain ⟨fresh, nodup⟩ := List.nodup_cons.mp nodup
      have first := byteAt_writeGranule s g (cellsIn bs g) poison own a
      rw [List.foldl_cons, ih nodup]
      refine (congrArg (fun b => if a / 256 ∈ gs then (cellAt bs a).getD b else b) first).trans ?_
      by_cases here : a / 256 = g
      · subst here
        rw [if_neg fresh, if_pos rfl, if_pos List.mem_cons_self, cellAt_cellsIn]
      · simp [here]
  refine (each _ (List.nodup_dedup _) s).trans ?_
  split
  · rfl
  · next absent =>
    have none_ : cellAt bs a = none := by
      refine Option.map_eq_none_iff.mpr (List.find?_eq_none.mpr fun b mem same => absent ?_)
      exact List.mem_dedup.mpr (List.mem_map.mpr ⟨b, mem, by rw [of_decide_eq_true same]⟩)
    rw [none_]
    rfl

/-! ### What a read of a granule meets (R313, R316, R317, R407) -/

section
variable {s : State} {r : Region} {g : Nat} {e : MemErr}

/-- A granule of a region that is marked, or whose container waits marked in the write buffer. -/
def markedAt (s : State) (r : Region) (g : Nat) : Bool := r.rpoison || gpoison s g || combinePoison s g

/-- Errors that the code of the region's class does not correct. -/
def beyondCode (r : Region) (e : MemErr) : Bool := (r.cls ≠ 1 && e.innerBad) || (r.cls = 1 && e.beyond)

theorem readGranule_marked (reads : e.exhausted = false) (mark : markedAt s r g = true) (own : Bool) :
    readGranule s r g e own = (granuleBytes s g, true, rowErrors (hbmCount s (g / 2 ^ 28) 0 (retriesOf e)) r g e) := by
  unfold markedAt at mark
  unfold readGranule
  dsimp only
  rw [reads, if_neg Bool.false_ne_true, if_pos mark]

theorem readGranule_corrected (reads : e.exhausted = false) (mark : markedAt s r g = false) (code : beyondCode r e = false) (mac : e.mac = none)
    (own : Bool) : ∃ n m, readGranule s r g e own = (granuleBytes s g, false,
      hbmCount (hbmCount (rowErrors (hbmCount s (g / 2 ^ 28) 0 (retriesOf e)) r g e) (g / 2 ^ 28) 1 n) (g / 2 ^ 28) 2 m) := by
  unfold markedAt at mark
  unfold beyondCode at code
  unfold readGranule
  dsimp only
  rw [reads, if_neg Bool.false_ne_true, mark, if_neg Bool.false_ne_true, code, if_neg Bool.false_ne_true, mac]
  exact ⟨_, _, rfl⟩

theorem readGranule_beyond (reads : e.exhausted = false) (mark : markedAt s r g = false) (code : beyondCode r e = true) (own : Bool) :
    readGranule s r g e own =
      decodeFault (rowErrors (hbmCount s (g / 2 ^ 28) 0 (retriesOf e)) r g e) g r.owner 3 0x0601 e false own := by
  unfold markedAt at mark
  unfold beyondCode at code
  unfold readGranule
  dsimp only
  rw [reads, if_neg Bool.false_ne_true, mark, if_neg Bool.false_ne_true, if_pos code]

theorem readGranule_mac (reads : e.exhausted = false) (mark : markedAt s r g = false) (code : beyondCode r e = false) {slot : Bool}
    (mac : e.mac = some slot) (own : Bool) : readGranule s r g e own =
      decodeFault (rowErrors (hbmCount s (g / 2 ^ 28) 0 (retriesOf e)) r g e) g r.owner 4 0x0603 e slot own := by
  unfold markedAt at mark
  unfold beyondCode at code
  unfold readGranule
  dsimp only
  rw [reads, if_neg Bool.false_ne_true, mark, if_neg Bool.false_ne_true, code, if_neg Bool.false_ne_true, mac]

theorem readGranule_lost (lost : e.exhausted = true) (own : Bool) : readGranule s r g e own =
    ((freeGranule (memFault (hbmCount s (g / 2 ^ 28) 0 (retriesOf e)) g r.owner 0x0602 4 false own)).1, true,
      (freeGranule (memFault (hbmCount s (g / 2 ^ 28) 0 (retriesOf e)) g r.owner 0x0602 4 false own)).2) := by
  unfold readGranule
  dsimp only
  rw [if_pos lost]

end

theorem rowFails_hbm (s : State) (g : Nat) : ∃ fs, rowFails s g = { s with hbm := { s.hbm with failed := fs } } ∧ rowOf (granulePlace s g) ∈ fs ∧
    ∀ x ∈ s.hbm.failed, x ∈ fs := by
  unfold rowFails
  dsimp only
  split
  · next there => exact ⟨_, rfl, by simpa using there, fun x mem => mem⟩
  · exact ⟨_, rfl, List.mem_append_right _ List.mem_cons_self, fun x mem => List.mem_append_left _ mem⟩

/-- A state whose list of corrected errors of a row is another. -/
def innerSet (s : State) (k : Nat) (ts : List W64) : State := { s with hbm := { s.hbm with inner := nset [] s.hbm.inner k ts } }

theorem innerFix_cases (s : State) (g : Nat) : ∃ k ts, innerFix s g = innerSet s k ts ∨ innerFix s g = rowFails (innerSet s k ts) g := by
  unfold innerFix
  dsimp only
  split
  · exact ⟨_, _, .inr rfl⟩
  · exact ⟨_, _, .inl rfl⟩

theorem innerFix_hbm (s : State) (g : Nat) : ∃ fs inner, innerFix s g = { s with hbm := { s.hbm with failed := fs, inner := inner } } := by
  obtain ⟨k, ts, same | fails⟩ := innerFix_cases s g
  · exact ⟨_, _, same⟩
  · obtain ⟨fs, same, -⟩ := rowFails_hbm (innerSet s k ts) g
    exact ⟨fs, _, fails.trans same⟩

theorem dbStore_hbm (s : State) (type c : Nat) (payload : List Byte) :
    ∃ mem, (dbStore s type c payload).hbm = { s.hbm with mem := mem } := by
  unfold dbStore csrPut
  exact ⟨_, rfl⟩

theorem dbAppend_hbm (s : State) (type c : Nat) (payload : List Byte) : ∃ mem, (dbAppend s type c payload).hbm = { s.hbm with mem := mem } := by
  unfold dbAppend
  split
  · exact ⟨_, bump_hbm ..⟩
  dsimp only
  split
  · exact dbStore_hbm ..
  · obtain ⟨mem, lost⟩ := dbStore_hbm s 0x0C 0x40 (leBytes 8 s.db.lost)
    generalize dbStore s 0x0C 0x40 (leBytes 8 s.db.lost) = v at lost ⊢
    obtain ⟨mem', stored⟩ := dbStore_hbm { v with db := { v.db with lost := 0 } } type c payload
    exact ⟨mem', stored.trans (by rw [lost])⟩

/-- Of the memory a report changes the Daybook's ring alone. -/
theorem reportFault_hbm (s : State) (source code detail c lid team handle : Nat) :
    ∃ mem, (reportFault s source code detail c lid team handle).hbm = { s.hbm with mem := mem } := by
  unfold reportFault dbFault
  dsimp only
  rw [emitRecord_hbm]
  exact dbAppend_hbm ..

theorem memFault_hbm (s : State) (g owner code retries : Nat) (slot own : Bool) :
    ∃ mem, (memFault s g owner code retries slot own).hbm = { s.hbm with mem := mem } := by
  unfold memFault
  dsimp only
  generalize hv : recordFirst s _ _ = v
  have before : v.hbm = s.hbm := by rw [← hv, recordFirst_hbm]
  obtain ⟨mem, same⟩ := reportFault_hbm v (1010 + g / 2 ^ 28) code
    ((if slot then (g / 2 ^ 28 * 2 ^ 36 + 0x8B3800000 + 32 * (g % 2 ^ 28 / 16)) / 256 else g) % 2 ^ 32) (if owner < 64 then owner else 0xFF) 0x3FF 0 0xFFF
  refine ⟨mem, ?_⟩
  split
  · rw [trigger_hbm, same, before]
  · rw [same, before]

/-- Row errors change the lists of corrected and of failed rows alone; an inner code that reports one fails its row (R318). -/
theorem rowErrors_hbm (s : State) (r : Region) (g : Nat) (e : MemErr) : ∃ fs inner,
    rowErrors s r g e = { s with hbm := { s.hbm with failed := fs, inner := inner } } ∧
    (e.innerBad = true → rowOf (granulePlace s g) ∈ fs) := by
  obtain ⟨fs, inner, fixed⟩ : ∃ fs inner, (if e.inner then innerFix s g else s) = { s with hbm := { s.hbm with failed := fs, inner := inner } } := by
    split
    · exact innerFix_hbm s g
    · exact ⟨_, _, rfl⟩
  unfold rowErrors
  dsimp only
  rw [fixed]
  split
  · obtain ⟨fs', same, there, -⟩ := rowFails_hbm { s with hbm := { s.hbm with failed := fs, inner := inner } } g
    exact ⟨fs', inner, same, fun _ => there⟩
  · next sound =>
    exact ⟨fs, inner, rfl, fun bad => absurd (by rw [bad]; rfl) sound⟩

/-- A fault of the memory is reported, and triggers its owner's recovery. -/
theorem memFault_effect (s : State) (g owner code retries : Nat) (slot : Bool) :
    (∃ y ∈ (memFault s g owner code retries slot true).reports, y.source = 1010 + g / 2 ^ 28 ∧ y.code = code) ∧
    (owner < 64 → (recOf (memFault s g owner code retries slot true) owner).triggers = (recOf s owner).triggers ++ [0]) := by
  unfold memFault
  dsimp only
  rw [if_pos rfl]
  refine ⟨?_, fun small => ?_⟩
  · rw [trigger_reports, reports_reportFault]
    exact ⟨_, List.mem_append_right _ List.mem_cons_self, rfl, rfl⟩
  · rw [recOf_trigger small, recOf_reportFault, recOf_recordFirst]

/-! ### HBM_READ_REQUEST (R302, R313, R314, R316, R317, R406) -/

/-- The granule that a read request reads: of a durable handle, that of the place where its block now stands. -/
def readAt (s : State) (x : Msg) (h k : Nat) : Nat :=
  let d := decl (imageOf s x.ctx) h
  if isDurable d = true then (currentBase s d (granBlock d k) - d.base) / 256 + k else k

/-- The state after a read request is answered. -/
def readServed (x : Msg) (st n k : Nat) (got : List Byte × Bool × State) : State :=
  send (dropMsg got.2.2 x.id) (.hbm st) x.src .rsp x.ctx (.hbmRet x.id n k got.1 got.2.1)

section
variable {s : State} {x : Msg} {st n h k : Nat}

theorem hbmRead_run (at_ : arriving s x.id = some x) (dst : x.dst = .hbm st) (body : x.body = .hbmRead n h k) (err : MemErr) :
    exec (.hbmReadRequest x.id err) s = .next (
      if !stackRuns s st || (isDurable (decl (imageOf s x.ctx) h) && durableWaits s x.ctx h (granBlock (decl (imageOf s x.ctx) h) k)) then s
      else readServed x st n k (readFor s x.ctx (readAt s x h k) err true)) := by
  obtain ⟨id, src, to_, net, c, b⟩ := x
  dsimp only at at_ dst body
  subst dst body
  refine (show _ = execHbmReadRequest id err s from rfl).trans ?_
  unfold execHbmReadRequest
  rw [at_]
  rfl

theorem hbmRead_waits (at_ : arriving s x.id = some x) (dst : x.dst = .hbm st) (body : x.body = .hbmRead n h k) (err : MemErr)
    (held : stackRuns s st = false ∨ (isDurable (decl (imageOf s x.ctx) h) = true ∧
      durableWaits s x.ctx h (granBlock (decl (imageOf s x.ctx) h) k) = true)) :
    Completes (.hbmReadRequest x.id err) s fun u => u = s := by
  refine completes_of ((hbmRead_run at_ dst body err).trans (congrArg _ (if_pos ?_))) rfl
  simpa using held

theorem hbmRead_serves (at_ : arriving s x.id = some x) (dst : x.dst = .hbm st) (body : x.body = .hbmRead n h k) (err : MemErr)
    (runs : stackRuns s st = true) (free : ¬(isDurable (decl (imageOf s x.ctx) h) = true ∧
      durableWaits s x.ctx h (granBlock (decl (imageOf s x.ctx) h) k) = true)) :
    exec (.hbmReadRequest x.id err) s = .next (readServed x st n k (readFor s x.ctx (readAt s x h k) err true)) := by
  refine (hbmRead_run at_ dst body err).trans (congrArg _ (if_neg ?_))
  simpa [runs] using free

theorem readServed_yard {got : List Byte × Bool × State} (yard : got.2.2.yard = s.yard) (seq : got.2.2.msgSeq = s.msgSeq) :
    (readServed x st n k got).yard = yardAfter s x.id [⟨s.msgSeq, .hbm st, x.src, .rsp, x.ctx, .hbmRet x.id n k got.1 got.2.1⟩] := by
  unfold readServed send dropMsg yardAfter
  dsimp only
  rw [yard, seq]

end

theorem csrGet_hbmCount_outside (s : State) (st : Nat) :
    csrGet (hbmCount s st 7 1) (0x0600138 + st * 0x10000) = csrGet s (0x0600138 + st * 0x10000) + 1 := by
  have at_ : 0x0600100 + st * 0x10000 + 8 * 7 = 0x0600138 + st * 0x10000 := by omega
  rw [hbmCount, at_]
  exact csrGet_bump_same s 7 (by omega)

theorem readFor_outside {s : State} {c g : Nat} (none_ : regionFor s c (g * 256) = none) (e : MemErr) (own : Bool) :
    readFor s c g e own = (List.replicate 256 0, true, hbmCount s (g / 2 ^ 28) 7 1) := by
  rw [readFor, none_]

/-- The errors that a read request meets: none where the read buffer holds the granule. -/
def metBy (s : State) (g : Nat) (e : MemErr) : MemErr := if buffered s g then {} else e

theorem readFor_of_granule {s : State} {c g i : Nat} (live : regionFor s c (g * 256) = some i) {e : MemErr} {own : Bool} {data : List Byte}
    {poison : Bool} {v : State} (got : readGranule s (regionAt s i) g (metBy s g e) own = (data, poison, v)) :
    readFor s c g e own = (data, poison, if poison then v else noteRead v g) := by
  rw [readFor, live]
  dsimp only
  rw [readRequest]
  exact congrArg (fun x : List Byte × Bool × State => (x.1, x.2.1, if x.2.1 then x.2.2 else noteRead x.2.2 g)) got

/-- What a read of memory leaves: the bytes that stand, the reports and the records. -/
structure ReadsOnly (s u : State) : Prop where
  mem : u.hbm.mem = s.hbm.mem
  combine : u.hbm.combine = s.hbm.combine
  slots : u.hbm.slots = s.hbm.slots
  reports : u.reports = s.reports
  recs : u.recs = s.recs

namespace ReadsOnly

theorem trans {s u v : State} (a : ReadsOnly s u) (b : ReadsOnly u v) : ReadsOnly s v :=
  ⟨b.mem.trans a.mem, b.combine.trans a.combine, b.slots.trans a.slots, b.reports.trans a.reports, b.recs.trans a.recs⟩

theorem hbmCount (s : State) (st i n : Nat) : ReadsOnly s (hbmCount s st i n) :=
  ⟨by rw [hbmCount_hbm], by rw [hbmCount_hbm], by rw [hbmCount_hbm], hbmCount_reports .., hbmCount_recs ..⟩

theorem rowErrors (s : State) (r : Region) (g : Nat) (e : MemErr) : ReadsOnly s (rowErrors s r g e) := by
  obtain ⟨fs, inner, same, -⟩ := rowErrors_hbm s r g e
  rw [same]
  exact ⟨rfl, rfl, rfl, rfl, rfl⟩

theorem noteRead (s : State) (g : Nat) : ReadsOnly s (noteRead s g) := ⟨rfl, rfl, rfl, rfl, rfl⟩

end ReadsOnly

theorem readGranule_returns {s : State} {r : Region} {g : Nat} {e : MemErr} (reads : e.exhausted = false)
    (good : markedAt s r g = true ∨ (beyondCode r e = false ∧ e.mac = none)) (own : Bool) :
    ∃ v, readGranule s r g e own = (granuleBytes s g, markedAt s r g, v) ∧ ReadsOnly s v := by
  have errors := (ReadsOnly.hbmCount s (g / 2 ^ 28) 0 (retriesOf e)).trans (.rowErrors _ r g e)
  cases mark : markedAt s r g with
  | true => exact ⟨_, readGranule_marked reads mark own, errors⟩
  | false =>
    obtain ⟨code, mac⟩ := good.resolve_left (by rw [mark]; exact Bool.false_ne_true)
    obtain ⟨n, m, got⟩ := readGranule_corrected reads mark code mac own
    exact ⟨_, got, (errors.trans (.hbmCount ..)).trans (.hbmCount ..)⟩

/-- A read that no error touches beyond its code returns the granule, marked or not. -/
theorem readFor_returns {s : State} {c g i : Nat} (live : regionFor s c (g * 256) = some i) {e : MemErr}
    (good : buffered s g = true ∨ (e.exhausted = false ∧
      (markedAt s (regionAt s i) g = true ∨ (beyondCode (regionAt s i) e = false ∧ e.mac = none)))) (own : Bool) :
    ∃ v, readFor s c g e own = (granuleBytes s g, markedAt s (regionAt s i) g, v) ∧ ReadsOnly s v := by
  have clean : beyondCode (regionAt s i) {} = false := by simp [beyondCode]
  have met : (metBy s g e).exhausted = false ∧
      (markedAt s (regionAt s i) g = true ∨ (beyondCode (regionAt s i) (metBy s g e) = false ∧ (metBy s g e).mac = none)) := by
    unfold metBy
    split
    · exact ⟨rfl, .inr ⟨clean, rfl⟩⟩
    · next missing => exact good.resolve_left missing
  obtain ⟨v, got, only⟩ := readGranule_returns met.1 met.2 own
  refine ⟨_, readFor_of_granule live got, ?_⟩
  split
  · exact only
  · exact only.trans (.noteRead ..)

/-- A read that fails: the granule returns poisoned, and the fault is reported and triggers the owner's recovery. -/
structure ReadFails (s : State) (g owner code : Nat) (got : List Byte × Bool × State) : Prop where
  poison : got.2.1 = true
  reported : ∃ y ∈ got.2.2.reports, y.source = 1010 + g / 2 ^ 28 ∧ y.code = code
  triggered : owner < 64 → (recOf got.2.2 owner).triggers = (recOf s owner).triggers ++ [0]

theorem readFails_of_memFault {s v : State} (recs : v.recs = s.recs) (g owner code retries : Nat) (slot : Bool) (data : List Byte) (k : Nat) :
    ReadFails s g owner code (data, true, { memFault v g owner code retries slot true with fresh := k }) := by
  obtain ⟨reported, triggered⟩ := memFault_effect v g owner code retries slot
  refine ⟨rfl, reported, fun small => (triggered small).trans ?_⟩
  rw [recOf, recs, recOf]

theorem readGranule_fails {s : State} {r : Region} {g code : Nat} {e : MemErr}
    (why : (e.exhausted = true ∧ code = 0x0602) ∨ (e.exhausted = false ∧ markedAt s r g = false ∧
      ((beyondCode r e = true ∧ code = 0x0601) ∨ (beyondCode r e = false ∧ e.mac.isSome = true ∧ code = 0x0603)))) :
    ReadFails s g r.owner code (readGranule s r g e true) := by
  have errors := (ReadsOnly.hbmCount s (g / 2 ^ 28) 0 (retriesOf e)).trans (.rowErrors _ r g e)
  rcases why with ⟨lost, rfl⟩ | ⟨reads, mark, ⟨code_, rfl⟩ | ⟨code_, mac, rfl⟩⟩
  · rw [readGranule_lost lost]
    exact readFails_of_memFault (hbmCount_recs ..) ..
  · rw [readGranule_beyond reads mark code_]
    exact readFails_of_memFault ((hbmCount_recs ..).trans errors.recs) ..
  · obtain ⟨slot, mac⟩ := Option.isSome_iff_exists.mp mac
    rw [readGranule_mac reads mark code_ mac]
    exact readFails_of_memFault ((hbmCount_recs ..).trans errors.recs) ..

/-- A row whose inner code reports an uncorrectable error has failed. -/
theorem failed_readGranule {s : State} {r : Region} {g : Nat} {e : MemErr} (reads : e.exhausted = false) (mark : markedAt s r g = false)
    (code : beyondCode r e = true) (bad : e.innerBad = true) : rowOf (granulePlace s g) ∈ (readGranule s r g e true).2.2.hbm.failed := by
  have place : granulePlace (hbmCount s (g / 2 ^ 28) 0 (retriesOf e)) g = granulePlace s g := by
    unfold granulePlace repairOf
    rw [hbmCount_hbm]
  obtain ⟨fs, inner, same, there⟩ := rowErrors_hbm (hbmCount s (g / 2 ^ 28) 0 (retriesOf e)) r g e
  rw [readGranule_beyond reads mark code, same, decodeFault]
  generalize hv : hbmCount { hbmCount s (g / 2 ^ 28) 0 (retriesOf e) with
    hbm := { (hbmCount s (g / 2 ^ 28) 0 (retriesOf e)).hbm with failed := fs, inner := inner } } (g / 2 ^ 28) 3 1 = v
  have failed : v.hbm.failed = fs := by rw [← hv, hbmCount_hbm]
  obtain ⟨mem, after⟩ := memFault_hbm v g r.owner 0x0601 (retriesOf e) false true
  rw [← place]
  refine (congrArg (rowOf (granulePlace (hbmCount s (g / 2 ^ 28) 0 (retriesOf e)) g) ∈ ·) ?_).mpr (there bad)
  exact ((congrArg Hbm.failed after).trans failed)

theorem readFor_fails {s : State} {c g i : Nat} (live : regionFor s c (g * 256) = some i) (missing : buffered s g = false) {e : MemErr} {owner code : Nat}
    (fails : ReadFails s g owner code (readGranule s (regionAt s i) g e true)) :
    readFor s c g e true = readGranule s (regionAt s i) g e true := by
  have met : metBy s g e = e := if_neg (Bool.eq_false_iff.mp missing)
  generalize got_eq : readGranule s (regionAt s i) g e true = got at fails ⊢
  obtain ⟨data, poison, v⟩ := got
  obtain rfl : poison = true := fails.poison
  exact readFor_of_granule live (by rw [met, got_eq])

theorem Completes.mono {i : Instr} {s : State} {P Q : State → Prop} (h : Completes i s P) (weaker : ∀ u, P u → Q u) : Completes i s Q := by
  obtain ⟨u, run, holds⟩ := h
  exact ⟨u, run, weaker u holds⟩

section
variable {s : State} {x : Msg} {st n h k : Nat}

/-- What the statement says of a read that fails. -/
theorem hbmRead_fails (at_ : arriving s x.id = some x) (dst : x.dst = .hbm st) (body : x.body = .hbmRead n h k) {err : MemErr} {i g code : Nat}
    (runs : stackRuns s st = true) (free : ¬(isDurable (decl (imageOf s x.ctx) h) = true ∧
      durableWaits s x.ctx h (granBlock (decl (imageOf s x.ctx) h) k) = true)) (place : readAt s x h k = g)
    (live : regionFor s x.ctx (g * 256) = some i) (missing : buffered s g = false)
    (why : (err.exhausted = true ∧ code = 0x0602) ∨ (err.exhausted = false ∧ markedAt s (regionAt s i) g = false ∧
      ((beyondCode (regionAt s i) err = true ∧ code = 0x0601) ∨
        (beyondCode (regionAt s i) err = false ∧ err.mac.isSome = true ∧ code = 0x0603)))) :
    Completes (.hbmReadRequest x.id err) s fun u =>
      ((∃ v, u.yard = yardAfter s x.id [⟨s.msgSeq, .hbm st, x.src, .rsp, x.ctx, .hbmRet x.id n k v true⟩]) ∧
        (∃ y ∈ u.reports, y.source = 1010 + g / 2 ^ 28 ∧ y.code = code) ∧
        ((regionAt s i).owner < 64 → (recOf u (regionAt s i).owner).triggers = (recOf s (regionAt s i).owner).triggers ++ [0])) ∧
      (err.exhausted = false → beyondCode (regionAt s i) err = true → err.innerBad = true → rowOf (granulePlace s g) ∈ u.hbm.failed) := by
  have fails := readGranule_fails (s := s) (r := regionAt s i) why
  have got := readFor_fails live missing fails
  have yard := readServed_yard (s := s) (x := x) (st := st) (n := n) (k := k) (readFor_yard s x.ctx g err true) (readFor_msgSeq s x.ctx g err true)
  refine completes_of (hbmRead_serves at_ dst body err runs free) ?_
  rw [place]
  rw [got] at yard ⊢
  refine ⟨⟨⟨_, fails.poison ▸ yard⟩, fails.reported, fails.triggered⟩, fun reads code_ bad => ?_⟩
  rcases why with ⟨lost, -⟩ | ⟨-, mark, -⟩
  · rw [reads] at lost
    cases lost
  · exact failed_readGranule reads mark code_ bad

theorem hbmRead_effect (at_ : arriving s x.id = some x) (dst : x.dst = .hbm st) (body : x.body = .hbmRead n h k)
    (runs : stackRuns s st = true) (free : ¬(isDurable (decl (imageOf s x.ctx) h) = true ∧
      durableWaits s x.ctx h (granBlock (decl (imageOf s x.ctx) h) k) = true)) :
    let g := readAt s x h k
    let back (data : List Byte) (poison : Bool) : List Msg := yardAfter s x.id [⟨s.msgSeq, .hbm st, x.src, .rsp, x.ctx, .hbmRet x.id n k data poison⟩]
    let o := 0x0600138 + g / 2 ^ 28 * 0x10000
    (∀ err, regionFor s x.ctx (g * 256) = none → Completes (.hbmReadRequest x.id err) s fun u =>
      u.yard = back (List.replicate 256 0) true ∧ csrGet u o = csrGet s o + 1 ∧ u.hbm = s.hbm ∧ u.reports = s.reports) ∧
    ∀ i err, regionFor s x.ctx (g * 256) = some i →
      let r := regionAt s i
      let marked := r.rpoison || gpoison s g || combinePoison s g
      let beyond : Prop := (r.cls ≠ 1 ∧ err.innerBad = true) ∨ (r.cls = 1 ∧ err.beyond = true)
      let failed (u : State) (code : Nat) : Prop := (∃ v, u.yard = back v true) ∧ (∃ y ∈ u.reports, y.source = 1010 + g / 2 ^ 28 ∧ y.code = code) ∧
        (r.owner < 64 → (recOf u r.owner).triggers = (recOf s r.owner).triggers ++ [0])
      (buffered s g = true ∨ (err.exhausted = false ∧ (marked = true ∨ (¬beyond ∧ err.mac = none))) →
        Completes (.hbmReadRequest x.id err) s fun u =>
        u.yard = back (granuleBytes s g) marked ∧ u.hbm.mem = s.hbm.mem ∧ u.reports = s.reports ∧ u.recs = s.recs) ∧
      (buffered s g = false → err.exhausted = false → marked = false → beyond → Completes (.hbmReadRequest x.id err) s fun u =>
        failed u 0x0601 ∧ (err.innerBad = true → rowOf (granulePlace s g) ∈ u.hbm.failed)) ∧
      (buffered s g = false → err.exhausted = false → marked = false → ¬beyond → err.mac.isSome = true →
        Completes (.hbmReadRequest x.id err) s fun u => failed u 0x0603) ∧
      (buffered s g = false → err.exhausted = true → Completes (.hbmReadRequest x.id err) s fun u => failed u 0x0602) := by
  intro g back o
  have place : readAt s x h k = g := rfl
  clear_value g
  refine ⟨fun err none_ => ?_, fun i err live => ?_⟩
  · refine completes_of (hbmRead_serves at_ dst body err runs free) ?_
    rw [place, readFor_outside none_]
    refine ⟨readServed_yard (hbmCount_yard ..) (hbmCount_msgSeq ..), ?_, hbmCount_hbm .., hbmCount_reports ..⟩
    exact csrGet_hbmCount_outside s (g / 2 ^ 28)
  intro r marked beyond failed
  have beyond_iff : beyond ↔ beyondCode r err = true := by simp [beyond, beyondCode]
  have not_beyond : ¬beyond → beyondCode r err = false := fun not_ => Bool.eq_false_iff.mpr fun h => not_ (beyond_iff.mpr h)
  refine ⟨fun good => ?_, fun missing reads mark code => ?_,
    fun missing reads mark code mac => ?_, fun missing lost => ?_⟩
  · obtain ⟨v, got, only⟩ := readFor_returns live (e := err) (good.imp_right (And.imp_right (Or.imp_right (And.imp_left not_beyond)))) true
    refine completes_of (hbmRead_serves at_ dst body err runs free) ?_
    rw [place, got]
    have yard : v.yard = s.yard := by simpa [got] using readFor_yard s x.ctx g err true
    have seq : v.msgSeq = s.msgSeq := by simpa [got] using readFor_msgSeq s x.ctx g err true
    exact ⟨readServed_yard yard seq, only.mem, only.reports, only.recs⟩
  · have fails := hbmRead_fails at_ dst body runs free place live missing (.inr ⟨reads, mark, .inl ⟨beyond_iff.mp code, rfl⟩⟩)
    exact fails.mono fun u h => ⟨h.1, h.2 reads (beyond_iff.mp code)⟩
  · have fails := hbmRead_fails at_ dst body runs free place live missing (.inr ⟨reads, mark, .inr ⟨not_beyond code, mac, rfl⟩⟩)
    exact fails.mono fun u h => h.1
  · have fails := hbmRead_fails at_ dst body runs free place live missing (.inl ⟨lost, rfl⟩)
    exact fails.mono fun u h => h.1

end

/-! ### HBM_WRITE_REQUEST (R302, R313, R315, R316, R328, R395, R396, R406) -/

@[simp] theorem slotAt_modSlot_same (s : State) (page : Nat) (f : Slot → Slot) : slotAt (modSlot s page f) page = f (slotAt s page) :=
  nget_nset_same ..

theorem slotAt_modSlot_other {page q : Nat} (h : q ≠ page) (s : State) (f : Slot → Slot) : slotAt (modSlot s page f) q = slotAt s q :=
  nget_nset_other _ _ h _

/-- A step that keeps the records of the slots and the marks of the granules. -/
structure KeepsMarks (s u : State) : Prop where
  record : ∀ p, (slotAt u p).record = (slotAt s p).record
  marks : ∀ g, gpoison s g = true → gpoison u g = true

namespace KeepsMarks

theorem of_slots {s u : State} (same : u.hbm.slots = s.hbm.slots) : KeepsMarks s u := by
  have at_ (p : Nat) : slotAt u p = slotAt s p := by rw [slotAt, same, slotAt]
  exact ⟨fun p => by rw [at_], fun g mark => by rwa [gpoison, at_]⟩

theorem trans {s u v : State} (a : KeepsMarks s u) (b : KeepsMarks u v) : KeepsMarks s v :=
  ⟨fun p => (b.record p).trans (a.record p), fun g mark => b.marks g (a.marks g mark)⟩

theorem modSlot (s : State) (page : Nat) (f : Slot → Slot) (record : ∀ x, (f x).record = x.record)
    (marks : ∀ x k, x.gpois.getLsbD k = true → (f x).gpois.getLsbD k = true) : KeepsMarks s (modSlot s page f) where
  record p := by
    by_cases here : p = page
    · rw [here, slotAt_modSlot_same, record]
    · rw [slotAt_modSlot_other here]
  marks g mark := by
    by_cases here : g / 16 = page
    · rw [gpoison, here, slotAt_modSlot_same]
      exact marks _ _ (here ▸ mark)
    · rwa [gpoison, slotAt_modSlot_other here]

theorem setGpoison (s : State) (g : Nat) : KeepsMarks s (setGpoison s g true) :=
  modSlot s (g / 16) _ (fun _ => rfl) fun x k mark => by simp [mark]

theorem foldl {β : Type} {f : State → β → State} (each : ∀ s b, KeepsMarks s (f s b)) (l : List β) (s : State) : KeepsMarks s (l.foldl f s) := by
  induction l generalizing s with
  | nil => exact of_slots rfl
  | cons b l ih => exact (each s b).trans (ih _)

end KeepsMarks

theorem gpoison_setGpoison (s : State) (g : Nat) : gpoison (setGpoison s g true) g = true := by
  have bit : g % 16 < 16 := Nat.mod_lt _ (by decide)
  rw [gpoison, setGpoison, slotAt_modSlot_same]
  simp [bit]

/-- A granule that a fold marks stays marked. -/
theorem gpoison_foldl_setGpoison {g : Nat} {gs : List Nat} (mem : g ∈ gs) (s : State) :
    gpoison (gs.foldl (fun s g => setGpoison s g true) s) g = true := by
  induction gs generalizing s with
  | nil => cases mem
  | cons k gs ih =>
    obtain rfl | mem := List.mem_cons.mp mem
    · exact (KeepsMarks.foldl KeepsMarks.setGpoison gs _).marks g (gpoison_setGpoison s g)
    · exact ih mem _

theorem readGranule_slots (s : State) (r : Region) (g : Nat) (e : MemErr) : (readGranule s r g e true).2.2.hbm.slots = s.hbm.slots := by
  have fault (v : State) (owner code retries : Nat) (slot : Bool) : (memFault v g owner code retries slot true).hbm.slots = v.hbm.slots := by
    obtain ⟨mem, same⟩ := memFault_hbm v g owner code retries slot true
    rw [same]
  have errors := (ReadsOnly.hbmCount s (g / 2 ^ 28) 0 (retriesOf e)).trans (.rowErrors _ r g e)
  cases lost : e.exhausted with
  | true =>
    rw [readGranule_lost lost]
    exact (fault ..).trans (ReadsOnly.hbmCount ..).slots
  | false =>
  cases mark : markedAt s r g with
  | true =>
    rw [readGranule_marked lost mark]
    exact errors.slots
  | false =>
  cases code : beyondCode r e with
  | true =>
    rw [readGranule_beyond lost mark code]
    exact (fault ..).trans ((ReadsOnly.hbmCount ..).slots.trans errors.slots)
  | false =>
  cases mac : e.mac with
  | some slot =>
    rw [readGranule_mac lost mark code mac]
    exact (fault ..).trans ((ReadsOnly.hbmCount ..).slots.trans errors.slots)
  | none =>
    obtain ⟨v, got, only⟩ := readGranule_returns lost (.inr ⟨code, mac⟩) true
    rw [got]
    exact only.slots

theorem keepsMarks_tallyRead (page : Nat) (errs : MemErrs) (s : State) (g : Nat) : KeepsMarks s (tallyRead page errs s g) := by
  unfold tallyRead
  split
  · exact .of_slots rfl
  next r _ =>
  have read : KeepsMarks s (readGranule s r g (errs.at_ g) true).2.2 := .of_slots (readGranule_slots ..)
  dsimp only
  split
  · exact read
  split
  · exact read.trans (.setGpoison ..)
  · have drawn : KeepsMarks s (draw (setGpoison (readGranule s r g (errs.at_ g) true).2.2 g true)).2 :=
      (read.trans (.setGpoison _ g)).trans (.of_slots rfl)
    refine drawn.trans (.modSlot _ page _ ?_ ?_)
    · exact fun _ => rfl
    · exact fun _ _ mark => mark

/-- Where no error is met, the tally of the rest of the block changes no byte and no record of a context. -/
theorem tallyRead_clean (page : Nat) (s : State) (g : Nat) :
    (∀ a, byteAt (tallyRead page [] s g) a = byteAt s a) ∧ (tallyRead page [] s g).recs = s.recs := by
  unfold tallyRead
  split
  · exact ⟨fun _ => rfl, rfl⟩
  next i r _ =>
  have code : beyondCode r (MemErrs.at_ [] g) = false := by simp [beyondCode, MemErrs.at_, MemErr.clean]
  obtain ⟨v, got, only⟩ := readGranule_returns (s := s) (r := r) (g := g) (e := MemErrs.at_ [] g) rfl (.inr ⟨code, rfl⟩) true
  dsimp only
  rw [got]
  have marks (mark : (!(granuleBytes s g, markedAt s r g, v).2.1) = false) : markedAt s r g = true := by
    simpa using mark
  split
  · exact ⟨byteAt_congr only.mem only.combine, only.recs⟩
  · next mark =>
    rw [if_pos (show (r.rpoison || gpoison s g || combinePoison s g) = true from marks (Bool.eq_false_iff.mpr mark))]
    exact ⟨byteAt_congr ((mem_setGpoison ..).trans only.mem) only.combine, only.recs⟩

section
variable {s : State} {x : Msg} {st n h : Nat} {y : Nat × Line} {ys : List (Nat × Line)} {poison : Bool} {r : W128}

/-- The base of the place that a block's write goes to: of a durable handle, the one where the block does not stand (R406). -/
def writeBase (s : State) (d : HDecl) (b : Nat) : Nat :=
  if isDurable d = true then (if mapBit s d b = true then d.base else d.base + placeBytes d) else d.base

/-- The state in which the lines of a write are stored: the message taken, a durable handle's block noted. -/
def writeNoted (s : State) (x : Msg) (h b : Nat) : State :=
  let s0 := dropMsg s x.id
  if isDurable (decl (imageOf s x.ctx) h) then modRec s0 x.ctx fun r =>
    let e := (h, b, currentEpoch s x.ctx)
    if r.durable.contains e then r else { r with durable := r.durable ++ [e] }
  else s0

/-- The granules that hold some lines of a handle at a base. -/
def granulesOf (d : HDecl) (base : Nat) (ls : List Nat) : List Nat := (ls.flatMap fun l => lineGranules { d with base := base } l).dedup

/-- The state after the lines of a write are stored, marked where its tally was bad, and the block's tally is formed. -/
def writeStored (s : State) (d : HDecl) (base : Nat) (y : Nat × Line) (ys : List (Nat × Line)) (poison bad : Bool) (r : W128) (errs : MemErrs) : State :=
  let b := y.1 / 64
  let s2 := storeLines s d base (y :: ys) (poison || bad) r errs true
  let s3 := if bad then (granulesOf d base ((y :: ys).map (·.1))).foldl (fun s g => setGpoison s g true) s2 else s2
  let rest := ((List.range 64).map fun k => 64 * b + k).filter fun l => !((y :: ys).any fun x => x.1 = l)
  (granulesOf d base rest).foldl (tallyRead (blockPage d base (64 * b)) errs) s3

/-- The first address of the block that a write names. -/
def blockFirst (d : HDecl) (base b : Nat) : Nat := base + ((lineSpans d (64 * b)).map (·.1)).headD 0

theorem hbmWrite_run (at_ : arriving s x.id = some x) (dst : x.dst = .hbm st) (body : x.body = .hbmWrite n h (y :: ys) poison r) (bad : Bool)
    (errs : MemErrs) : exec (.hbmWriteRequest x.id bad errs) s = .next (
      let d := decl (imageOf s x.ctx) h
      let b := y.1 / 64
      let base := writeBase s d b
      if !stackRuns s st || (isDurable d && durableWaits s x.ctx h b) then s
      else if (regionFor s x.ctx (blockFirst d base b)).isNone then
        send (hbmCount (dropMsg s x.id) st 7 1) (.hbm st) x.src .rsp x.ctx (.ack x.id false false)
      else
        send (writeStored (writeNoted s x h b) d base y ys poison bad r errs) (.hbm st) x.src .rsp x.ctx
          (.ack x.id (bad || writeFails (writeNoted s x h b) ((y :: ys).flatMap fun z => lineCells d base z.1 z.2) errs) bad)) := by
  obtain ⟨id, src, to_, net, c, body'⟩ := x
  dsimp only at at_ dst body
  subst dst body
  refine (show _ = execHbmWriteRequest id bad errs s from rfl).trans ?_
  unfold execHbmWriteRequest
  rw [at_]
  rfl

theorem hbmWrite_waits (at_ : arriving s x.id = some x) (dst : x.dst = .hbm st) (body : x.body = .hbmWrite n h (y :: ys) poison r) (bad : Bool)
    (errs : MemErrs) (held : stackRuns s st = false ∨ (isDurable (decl (imageOf s x.ctx) h) = true ∧ durableWaits s x.ctx h (y.1 / 64) = true)) :
    Completes (.hbmWriteRequest x.id bad errs) s fun u => u = s := by
  refine completes_of ((hbmWrite_run at_ dst body bad errs).trans (congrArg _ (if_pos ?_))) rfl
  simpa using held

theorem hbmWrite_outside (at_ : arriving s x.id = some x) (dst : x.dst = .hbm st) (body : x.body = .hbmWrite n h (y :: ys) poison r) (bad : Bool)
    (errs : MemErrs) (runs : stackRuns s st = true)
    (free : ¬(isDurable (decl (imageOf s x.ctx) h) = true ∧ durableWaits s x.ctx h (y.1 / 64) = true))
    (none_ : regionFor s x.ctx (blockFirst (decl (imageOf s x.ctx) h) (writeBase s (decl (imageOf s x.ctx) h) (y.1 / 64)) (y.1 / 64)) = none) :
    Completes (.hbmWriteRequest x.id bad errs) s fun u =>
      u.yard = yardAfter s x.id [⟨s.msgSeq, .hbm st, x.src, .rsp, x.ctx, .ack x.id false false⟩] ∧ u.hbm = s.hbm ∧
      csrGet u (0x0600138 + st * 0x10000) = csrGet s (0x0600138 + st * 0x10000) + 1 := by
  refine completes_of ((hbmWrite_run at_ dst body bad errs).trans (congrArg _ ((if_neg ?_).trans (if_pos (by rw [none_]; rfl))))) ⟨?_, ?_, ?_⟩
  · simpa [runs] using free
  · unfold send yardAfter
    dsimp only
    rw [hbmCount_yard, hbmCount_msgSeq]
    rfl
  · exact hbmCount_hbm ..
  · exact csrGet_hbmCount_outside (dropMsg s x.id) st

theorem hbmWrite_serves (at_ : arriving s x.id = some x) (dst : x.dst = .hbm st) (body : x.body = .hbmWrite n h (y :: ys) poison r) (bad : Bool)
    (errs : MemErrs) (runs : stackRuns s st = true)
    (free : ¬(isDurable (decl (imageOf s x.ctx) h) = true ∧ durableWaits s x.ctx h (y.1 / 64) = true)) {d : HDecl} {b base : Nat}
    (hd : decl (imageOf s x.ctx) h = d) (hb : y.1 / 64 = b) (hbase : writeBase s d b = base)
    (live : (regionFor s x.ctx (blockFirst d base b)).isSome = true) :
    exec (.hbmWriteRequest x.id bad errs) s = .next (send (writeStored (writeNoted s x h b) d base y ys poison bad r errs) (.hbm st) x.src .rsp x.ctx
      (.ack x.id (bad || writeFails (writeNoted s x h b) ((y :: ys).flatMap fun z => lineCells d base z.1 z.2) errs) bad)) := by
  subst hd hb hbase
  refine (hbmWrite_run at_ dst body bad errs).trans (congrArg _ ((if_neg ?_).trans (if_neg ?_)))
  · simpa [runs] using free
  · simpa using Option.isSome_iff_ne_none.mp live

theorem writeNoted_hbm (s : State) (x : Msg) (h b : Nat) : (writeNoted s x h b).hbm = s.hbm ∧ (writeNoted s x h b).ledger = s.ledger ∧
    (writeNoted s x h b).yard = (dropMsg s x.id).yard ∧ (writeNoted s x h b).msgSeq = s.msgSeq := by
  unfold writeNoted
  dsimp only
  split
  · exact ⟨rfl, rfl, rfl, rfl⟩
  · exact ⟨rfl, rfl, rfl, rfl⟩

theorem mem_durable_writeNoted {s : State} {x : Msg} {h b : Nat} (durable : isDurable (decl (imageOf s x.ctx) h) = true) :
    (h, b, currentEpoch s x.ctx) ∈ (recOf (writeNoted s x h b) x.ctx).durable := by
  unfold writeNoted
  dsimp only
  rw [if_pos durable, recOf_modRec_same]
  split
  · next there => simpa using there
  · exact List.mem_append_right _ List.mem_cons_self

theorem writeFails_congr {s u : State} (hbm : u.hbm = s.hbm) (ledger : u.ledger = s.ledger) (bs : List Host.Cell) (errs : MemErrs) :
    writeFails u bs errs = writeFails s bs errs := by
  unfold writeFails mergeBytes
  rw [hbm, ledger]

theorem writeFails_nil (s : State) (bs : List Host.Cell) : writeFails s bs [] = false := by
  unfold writeFails
  exact List.any_eq_false.mpr fun g _ => by simp [MemErrs.at_, MemErr.clean]

theorem writeStored_yard (s : State) (d : HDecl) (base : Nat) (y : Nat × Line) (ys : List (Nat × Line)) (poison bad : Bool) (r : W128) (errs : MemErrs) :
    (writeStored s d base y ys poison bad r errs).yard = s.yard ∧ (writeStored s d base y ys poison bad r errs).msgSeq = s.msgSeq := by
  have stored (v : State) (gs : List Nat) : (if bad then gs.foldl (fun s g => setGpoison s g true) v else v).yard = v.yard ∧
      (if bad then gs.foldl (fun s g => setGpoison s g true) v else v).msgSeq = v.msgSeq := by
    split
    · exact ⟨foldl_keeps State.yard (fun _ _ => setGpoison_yard ..) _ _, foldl_keeps State.msgSeq (fun _ _ => setGpoison_msgSeq ..) _ _⟩
    · exact ⟨rfl, rfl⟩
  unfold writeStored
  dsimp only
  refine ⟨(foldl_keeps State.yard (fun _ _ => tallyRead_yard ..) _ _).trans ?_, (foldl_keeps State.msgSeq (fun _ _ => tallyRead_msgSeq ..) _ _).trans ?_⟩
  · rw [(stored _ _).1, storeLines_yard]
  · rw [(stored _ _).2, storeLines_msgSeq]

/-- A stored write is acknowledged: poisoned where a transfer failed or its tally was bad. -/
theorem writeStored_acked (s : State) (x : Msg) (st h b : Nat) (d : HDecl) (base : Nat) (y : Nat × Line) (ys : List (Nat × Line)) (poison bad : Bool)
    (r : W128) (errs : MemErrs) (p t : Bool) :
    (send (writeStored (writeNoted s x h b) d base y ys poison bad r errs) (.hbm st) x.src .rsp x.ctx (.ack x.id p t)).yard =
      yardAfter s x.id [⟨s.msgSeq, .hbm st, x.src, .rsp, x.ctx, .ack x.id p t⟩] := by
  obtain ⟨-, -, yard, seq⟩ := writeNoted_hbm s x h b
  unfold send yardAfter
  dsimp only
  rw [(writeStored_yard ..).1, (writeStored_yard ..).2, yard, seq]
  rfl

/-- A write whose tally was bad leaves every granule of its lines marked (R396). -/
theorem writeStored_marks {s : State} {d : HDecl} {base : Nat} {y : Nat × Line} {ys : List (Nat × Line)} {poison : Bool} {r : W128} {errs : MemErrs}
    {z : Nat × Line} {g : Nat} (line : z ∈ y :: ys) (mem : g ∈ lineGranules { d with base := base } z.1) :
    gpoison (writeStored s d base y ys poison true r errs) g = true := by
  unfold writeStored
  dsimp only
  rw [if_pos rfl]
  refine (KeepsMarks.foldl (keepsMarks_tallyRead _ errs) _ _).marks g (gpoison_foldl_setGpoison ?_ _)
  exact List.mem_dedup.mpr (List.mem_flatMap.mpr ⟨z.1, List.mem_map_of_mem line, mem⟩)

theorem writeStored_record (s : State) (d : HDecl) (base : Nat) (y : Nat × Line) (ys : List (Nat × Line)) (poison : Bool) (r : W128) (errs : MemErrs) :
    (slotAt (writeStored s d base y ys poison false r errs) (blockPage d base (64 * (y.1 / 64)))).record = r := by
  unfold writeStored
  dsimp only
  rw [if_neg Bool.false_ne_true, (KeepsMarks.foldl (keepsMarks_tallyRead _ errs) _ _).record, storeLines]
  rw [slotAt_modSlot_same]

/-- A write that meets no error: each byte of its lines reads back and no other byte changes. -/
theorem writeStored_clean (s : State) (d : HDecl) (base : Nat) (y : Nat × Line) (ys : List (Nat × Line)) (poison : Bool) (r : W128) :
    (∀ a, byteAt (writeStored s d base y ys poison false r []) a =
      (cellAt ((y :: ys).flatMap fun z => lineCells d base z.1 z.2) a).getD (byteAt s a)) ∧
    (writeStored s d base y ys poison false r []).recs = s.recs := by
  have rest (page : Nat) (gs : List Nat) (v : State) : (∀ a, byteAt (gs.foldl (tallyRead page []) v) a = byteAt v a) ∧
      (gs.foldl (tallyRead page []) v).recs = v.recs :=
    ⟨fun a => foldl_keeps (byteAt · a) (fun v g => (tallyRead_clean page v g).1 a) gs v,
      foldl_keeps State.recs (fun v g => (tallyRead_clean page v g).2) gs v⟩
  obtain ⟨hbm, stored⟩ := storeBytes_clean s ((y :: ys).flatMap fun z => lineCells d base z.1 z.2) (poison || false) true
  unfold writeStored
  dsimp only
  rw [if_neg Bool.false_ne_true]
  refine ⟨fun a => ((rest ..).1 a).trans ?_, (rest ..).2.trans ?_⟩
  · exact (byteAt_congr rfl rfl a).trans (byteAt_storeBytes s _ _ true a)
  · unfold storeLines
    dsimp only
    rw [modSlot_recs, stored]

end

/-- Settles O34: what a read of a granule returns and reports by the errors it meets, and what a write of a tally group leaves. -/
theorem hbmReadsAndWrites : Obligations.HbmReadsAndWrites := by
  unfold Obligations.HbmReadsAndWrites
  refine ⟨fun s x st n h k at_ dst body => ⟨fun held err => hbmRead_waits at_ dst body err held, fun runs free =>
    hbmRead_effect at_ dst body runs free⟩, fun s x st n h y ys poison r at_ dst body => ?_⟩
  intro d b waits base first cells acked byteOf
  have hd : decl (imageOf s x.ctx) h = d := rfl
  have hb : y.1 / 64 = b := rfl
  have hbase : writeBase s d b = base := rfl
  obtain ⟨hbm, ledger, -⟩ := writeNoted_hbm s x h b
  have fails (errs : MemErrs) : writeFails (writeNoted s x h b) cells errs = writeFails s cells errs := writeFails_congr hbm ledger ..
  refine ⟨fun held bad errs => hbmWrite_waits at_ dst body bad errs held, fun runs free => ⟨fun bad errs none_ =>
    hbmWrite_outside at_ dst body bad errs runs free none_, fun live => ?_, fun errs live lost => ?_, fun errs live => ?_⟩⟩
  · have run := hbmWrite_serves at_ dst body false [] runs free hd hb hbase live
    rw [show (y :: ys).flatMap (fun z => lineCells d base z.1 z.2) = cells from rfl, fails, writeFails_nil] at run
    obtain ⟨bytes, recs⟩ := writeStored_clean (writeNoted s x h b) d base y ys poison r
    refine completes_of run ⟨writeStored_acked .., writeStored_record .., fun durable => ?_, fun a => ?_⟩
    · exact (congrArg (fun m => (h, b, currentEpoch s x.ctx) ∈ (nget ({} : Rec) m x.ctx).durable) recs).mpr (mem_durable_writeNoted durable)
    · have before : byteAt (writeNoted s x h b) a = byteAt s a := byteAt_congr (by rw [hbm]) (by rw [hbm]) a
      refine (bytes a).trans ?_
      rw [before, cellAt]
      change ((cells.find? fun c => c.1 = a).map _).getD _ = _
      cases cells.find? fun c => c.1 = a with
      | none => rfl
      | some c => rfl
  · have run := hbmWrite_serves at_ dst body false errs runs free hd hb hbase live
    rw [show (y :: ys).flatMap (fun z => lineCells d base z.1 z.2) = cells from rfl, fails, lost] at run
    exact completes_of run (writeStored_acked ..)
  · exact completes_of (hbmWrite_serves at_ dst body true errs runs free hd hb hbase live)
      ⟨writeStored_acked .., fun z line g mem => writeStored_marks line mem⟩

end Sys2Proof.Machine
end

section
/-!
SUPPORT. The frame lemmas that the proofs of O30 and O32 rest on.
-/

namespace Sys2Proof.Machine

/-! ### The Ledger -/

@[simp] theorem vLedger_hbmCount (s : State) (st i n : Nat) :
    (hbmCount s st i n).vLedger = s.vLedger := by simp [hbmCount]

@[simp] theorem vLedger_setStall (s : State) (p : Nat) (x : Stall) :
    (setStall s p x).vLedger = s.vLedger := by simp [setStall, vLedger_eta]

@[simp] theorem vLedger_modStall (s : State) (p : Nat) (f : Stall → Stall) :
    (modStall s p f).vLedger = s.vLedger := by simp [modStall]

@[simp] theorem vLedger_setCtx (s : State) (c : Nat) (x : Ctx) :
    (setCtx s c x).vLedger = s.vLedger := by simp [setCtx, vLedger_eta]

@[simp] theorem vLedger_modCtx (s : State) (c : Nat) (f : Ctx → Ctx) :
    (modCtx s c f).vLedger = s.vLedger := by simp [modCtx]

@[simp] theorem vLedger_modDrover (s : State) (d : Nat) (f : Drover → Drover) :
    (modDrover s d f).vLedger = s.vLedger := by simp [modDrover, vLedger_eta]

@[simp] theorem vLedger_modRegion (s : State) (i : Nat) (f : Region → Region) :
    (modRegion s i f).vLedger = s.vLedger := by simp [modRegion, vLedger_eta]

@[simp] theorem vLedger_modSlot (s : State) (page : Nat) (f : Slot → Slot) :
    (modSlot s page f).vLedger = s.vLedger := by simp [modSlot, vLedger_eta]

@[simp] theorem vLedger_setGpoison (s : State) (g : Nat) (v : Bool) :
    (setGpoison s g v).vLedger = s.vLedger := by simp [setGpoison]

@[simp] theorem vLedger_memFault (s : State) (g : Nat) (owner code retries : Nat) (slot : Bool) (own : Bool) :
    (memFault s g owner code retries slot own).vLedger = s.vLedger := by simp [memFault]

@[simp] theorem vLedger_freeGranule (s : State) :
    (freeGranule s).2.vLedger = s.vLedger := by simp [freeGranule, vLedger_eta]

@[simp] theorem vLedger_putGranule (s : State) (g : Nat) (d : List Byte) (poison : Bool) :
    (putGranule s g d poison).vLedger = s.vLedger := by simp [putGranule, vLedger_eta]

@[simp] theorem vLedger_sendGranule (s : State) (g : Nat) (d : List Byte) (poison : Bool) (e : MemErr) (own : Bool) :
    (sendGranule s g d poison e own).vLedger = s.vLedger := by
  unfold sendGranule
  repeat' split
  all_goals simp [vLedger_eta]

@[simp] theorem vLedger_writeGranule (s : State) (g : Nat) (bs : List (Nat × Byte)) (poison : Bool) (e : MemErr) (own : Bool) :
    (writeGranule s g bs poison e own).vLedger = s.vLedger := by simp [writeGranule, vLedger_eta]

@[simp] theorem vLedger_storeBytes (s : State) (bs : List Host.Cell) (poison : Bool) (errs : MemErrs) (own : Bool) :
    (storeBytes s bs poison errs own).vLedger = s.vLedger := by simp [storeBytes]

@[simp] theorem vLedger_writeBackLine (s : State) (key : Nat) (l : GLine) (errs : MemErrs) :
    (writeBackLine s key l errs).vLedger = s.vLedger := by
  unfold writeBackLine
  repeat' first
    | (simp [vLedger_eta]; done)
    | (with_reducible refine (vLedger_foldl _ ?_ _ _).trans ?_)
    | intro _
    | split
    | dsimp only

@[simp] theorem vLedger_writeBackContext (s : State) (c : Nat) :
    (writeBackContext s c).vLedger = s.vLedger := by
  unfold writeBackContext
  repeat' first
    | (simp; done)
    | (with_reducible refine (vLedger_foldl _ ?_ _ _).trans ?_)
    | intro _
    | split

@[simp] theorem vLedger_switchOut (s : State) (c : Nat) :
    (switchOut s c).vLedger = s.vLedger := by simp [switchOut, vLedger_eta]

@[simp] theorem switchOut_ledger (s : State) (c : Nat) :
    (switchOut s c).ledger = s.ledger := (vLedger_def _).symm.trans ((vLedger_switchOut ..).trans (vLedger_def _))

/-! ### The stalls -/

@[simp] theorem vStalls_hbmCount (s : State) (st i n : Nat) :
    (hbmCount s st i n).vStalls = s.vStalls := by simp [hbmCount]

@[simp] theorem vStalls_trCount (s : State) (i : Nat) :
    (trCount s i).vStalls = s.vStalls := by simp [trCount]

@[simp] theorem vStalls_loftInvalidate (s : State) (f : Nat → Nat → LoftLine → Bool) :
    (loftInvalidate s f).vStalls = s.vStalls := by simp [loftInvalidate, vStalls_eta]

@[simp] theorem vStalls_modRegion (s : State) (i : Nat) (f : Region → Region) :
    (modRegion s i f).vStalls = s.vStalls := by simp [modRegion, vStalls_eta]

@[simp] theorem vStalls_modSlot (s : State) (page : Nat) (f : Slot → Slot) :
    (modSlot s page f).vStalls = s.vStalls := by simp [modSlot, vStalls_eta]

@[simp] theorem vStalls_setGpoison (s : State) (g : Nat) (v : Bool) :
    (setGpoison s g v).vStalls = s.vStalls := by simp [setGpoison]

@[simp] theorem vStalls_memFault (s : State) (g : Nat) (owner code retries : Nat) (slot : Bool) (own : Bool) :
    (memFault s g owner code retries slot own).vStalls = s.vStalls := by simp [memFault]

@[simp] theorem vStalls_freeGranule (s : State) :
    (freeGranule s).2.vStalls = s.vStalls := by simp [freeGranule, vStalls_eta]

@[simp] theorem vStalls_putGranule (s : State) (g : Nat) (d : List Byte) (poison : Bool) :
    (putGranule s g d poison).vStalls = s.vStalls := by simp [putGranule, vStalls_eta]

@[simp] theorem vStalls_sendGranule (s : State) (g : Nat) (d : List Byte) (poison : Bool) (e : MemErr) (own : Bool) :
    (sendGranule s g d poison e own).vStalls = s.vStalls := by
  unfold sendGranule
  repeat' split
  all_goals simp [vStalls_eta]

@[simp] theorem vStalls_writeGranule (s : State) (g : Nat) (bs : List (Nat × Byte)) (poison : Bool) (e : MemErr) (own : Bool) :
    (writeGranule s g bs poison e own).vStalls = s.vStalls := by simp [writeGranule, vStalls_eta]

@[simp] theorem vStalls_storeBytes (s : State) (bs : List Host.Cell) (poison : Bool) (errs : MemErrs) (own : Bool) :
    (storeBytes s bs poison errs own).vStalls = s.vStalls := by simp [storeBytes]

@[simp] theorem vStalls_modTack (s : State) (f : Tack → Tack) :
    (modTack s f).vStalls = s.vStalls := by simp [modTack, vStalls_eta]

@[simp] theorem vStalls_setGateSlot (s : State) (g : Nat) (x : GateSlot) :
    (setGateSlot s g x).vStalls = s.vStalls := by simp [setGateSlot]

@[simp] theorem vStalls_wipeSlot (s : State) (g : Nat) :
    (wipeSlot s g).vStalls = s.vStalls := by simp [wipeSlot, vStalls_eta]

@[simp] theorem vStalls_writeResult (s : State) (status reason code serial : Nat) :
    (writeResult s status reason code serial).vStalls = s.vStalls := by simp [writeResult]

@[simp] theorem vStalls_smithyClear (s : State) :
    (smithyClear s).vStalls = s.vStalls := by simp [smithyClear, vStalls_eta]

@[simp] theorem vStalls_writeBackLine (s : State) (key : Nat) (l : GLine) (errs : MemErrs) :
    (writeBackLine s key l errs).vStalls = s.vStalls := by
  unfold writeBackLine
  repeat' first
    | (simp [vStalls_eta]; done)
    | (with_reducible refine (vStalls_foldl _ ?_ _ _).trans ?_)
    | intro _
    | split
    | dsimp only

@[simp] theorem vStalls_writeBackContext (s : State) (c : Nat) :
    (writeBackContext s c).vStalls = s.vStalls := by
  unfold writeBackContext
  repeat' first
    | (simp; done)
    | (with_reducible refine (vStalls_foldl _ ?_ _ _).trans ?_)
    | intro _
    | split

@[simp] theorem vStalls_sendCompletion (s : State) (c : Nat) (k : Packet) (status code detail : Nat) :
    (sendCompletion s c k status code detail).vStalls = s.vStalls := by simp [sendCompletion]

@[simp] theorem vStalls_completeCmd (s : State) (c : Nat) (k : Packet) (status code detail : Nat) :
    (completeCmd s c k status code detail).vStalls = s.vStalls := by simp [completeCmd]

@[simp] theorem bumpBy_stalls (s : State) (off wrapOff wrapBit n : Nat) :
    (bumpBy s off wrapOff wrapBit n).stalls = s.stalls := (vStalls_def _).symm.trans ((vStalls_bumpBy ..).trans (vStalls_def _))

@[simp] theorem trCount_stalls (s : State) (i : Nat) :
    (trCount s i).stalls = s.stalls := (vStalls_def _).symm.trans ((vStalls_trCount ..).trans (vStalls_def _))

@[simp] theorem loftInvalidate_stalls (s : State) (f : Nat → Nat → LoftLine → Bool) :
    (loftInvalidate s f).stalls = s.stalls := (vStalls_def _).symm.trans ((vStalls_loftInvalidate ..).trans (vStalls_def _))

@[simp] theorem dbAppend_stalls (s : State) (type c : Nat) (payload : List Byte) :
    (dbAppend s type c payload).stalls = s.stalls := (vStalls_def _).symm.trans ((vStalls_dbAppend ..).trans (vStalls_def _))

@[simp] theorem emitRecord_stalls (s : State) (rec_ : List Byte) (irq : Bool) :
    (emitRecord s rec_ irq).stalls = s.stalls := (vStalls_def _).symm.trans ((vStalls_emitRecord ..).trans (vStalls_def _))

@[simp] theorem parityFailed_stalls (s : State) (p line words : Nat) (background : Bool) :
    (parityFailed s p line words background).stalls = s.stalls := (vStalls_def _).symm.trans ((vStalls_parityFailed ..).trans
      (vStalls_def _))

@[simp] theorem wipeSlot_stalls (s : State) (g : Nat) :
    (wipeSlot s g).stalls = s.stalls := (vStalls_def _).symm.trans ((vStalls_wipeSlot ..).trans (vStalls_def _))

@[simp] theorem writeResult_stalls (s : State) (status reason code serial : Nat) :
    (writeResult s status reason code serial).stalls = s.stalls := (vStalls_def _).symm.trans ((vStalls_writeResult ..).trans
      (vStalls_def _))

@[simp] theorem smithyClear_stalls (s : State) :
    (smithyClear s).stalls = s.stalls := (vStalls_def _).symm.trans ((vStalls_smithyClear ..).trans (vStalls_def _))

@[simp] theorem stall_writeBackContext (s : State) (c : Nat) (j₀ : Nat) :
    stall (writeBackContext s c) j₀ = stall s j₀ := congrArg (nget ({} : Stall) · j₀) ((vStalls_def _).symm.trans
      ((vStalls_writeBackContext ..).trans (vStalls_def _)))

@[simp] theorem stall_completeCmd (s : State) (c : Nat) (k : Packet) (status code detail : Nat) (j₀ : Nat) :
    stall (completeCmd s c k status code detail) j₀ = stall s j₀ := congrArg (nget ({} : Stall) · j₀) ((vStalls_def
      _).symm.trans ((vStalls_completeCmd ..).trans (vStalls_def _)))

/-! ### The registers -/

@[simp] theorem vCsr_wakeNap (s : State) (p : Nat) :
    (wakeNap s p).vCsr = s.vCsr := by simp [wakeNap]

@[simp] theorem wakeNap_csr (s : State) (p : Nat) :
    (wakeNap s p).csr = s.csr := (vCsr_def _).symm.trans ((vCsr_wakeNap ..).trans (vCsr_def _))

/-! ### The contexts -/

@[simp] theorem vCtxs_trCount (s : State) (i : Nat) :
    (trCount s i).vCtxs = s.vCtxs := by simp [trCount]

@[simp] theorem vCtxs_loftInvalidate (s : State) (f : Nat → Nat → LoftLine → Bool) :
    (loftInvalidate s f).vCtxs = s.vCtxs := by simp [loftInvalidate, vCtxs_eta]

@[simp] theorem vCtxs_openEpoch (s : State) (c reruns : Nat) :
    (openEpoch s c reruns).vCtxs = s.vCtxs := by simp [openEpoch]

@[simp] theorem vCtxs_ensureEpoch (s : State) (c : Nat) :
    (ensureEpoch s c).vCtxs = s.vCtxs := by simp [ensureEpoch]

@[simp] theorem vCtxs_modTack (s : State) (f : Tack → Tack) :
    (modTack s f).vCtxs = s.vCtxs := by simp [modTack, vCtxs_eta]

@[simp] theorem vCtxs_setGateSlot (s : State) (g : Nat) (x : GateSlot) :
    (setGateSlot s g x).vCtxs = s.vCtxs := by simp [setGateSlot]

@[simp] theorem vCtxs_wipeSlot (s : State) (g : Nat) :
    (wipeSlot s g).vCtxs = s.vCtxs := by simp [wipeSlot, vCtxs_eta]

@[simp] theorem vCtxs_writeResult (s : State) (status reason code serial : Nat) :
    (writeResult s status reason code serial).vCtxs = s.vCtxs := by simp [writeResult]

@[simp] theorem vCtxs_smithyClear (s : State) :
    (smithyClear s).vCtxs = s.vCtxs := by simp [smithyClear, vCtxs_eta]

@[simp] theorem vCtxs_writeSetTables (s : State) (c : Nat) :
    (writeSetTables s c).vCtxs = s.vCtxs := by simp [writeSetTables]

@[simp] theorem vCtxs_writePrimeTable (s : State) (p c : Nat) :
    (writePrimeTable s p c).vCtxs = s.vCtxs := by simp [writePrimeTable]

@[simp] theorem vCtxs_loadStalls (s : State) (c : Nat) (save : NMap StallCtx) :
    (loadStalls s c save).vCtxs = s.vCtxs := by simp [loadStalls]

@[simp] theorem vCtxs_switchIn (s : State) (c : Nat) :
    (switchIn s c).vCtxs = s.vCtxs := by simp [switchIn, vCtxs_eta]

@[simp] theorem vCtxs_wakeNap (s : State) (p : Nat) :
    (wakeNap s p).vCtxs = s.vCtxs := by simp [wakeNap]

@[simp] theorem trCount_ctxs (s : State) (i : Nat) :
    (trCount s i).ctxs = s.ctxs := (vCtxs_def _).symm.trans ((vCtxs_trCount ..).trans (vCtxs_def _))

@[simp] theorem dbAppend_ctxs (s : State) (type c : Nat) (payload : List Byte) :
    (dbAppend s type c payload).ctxs = s.ctxs := (vCtxs_def _).symm.trans ((vCtxs_dbAppend ..).trans (vCtxs_def _))

@[simp] theorem wipeSlot_ctxs (s : State) (g : Nat) :
    (wipeSlot s g).ctxs = s.ctxs := (vCtxs_def _).symm.trans ((vCtxs_wipeSlot ..).trans (vCtxs_def _))

@[simp] theorem writeResult_ctxs (s : State) (status reason code serial : Nat) :
    (writeResult s status reason code serial).ctxs = s.ctxs := (vCtxs_def _).symm.trans ((vCtxs_writeResult ..).trans
      (vCtxs_def _))

@[simp] theorem smithyClear_ctxs (s : State) :
    (smithyClear s).ctxs = s.ctxs := (vCtxs_def _).symm.trans ((vCtxs_smithyClear ..).trans (vCtxs_def _))

@[simp] theorem writePrimeTable_ctxs (s : State) (p c : Nat) :
    (writePrimeTable s p c).ctxs = s.ctxs := (vCtxs_def _).symm.trans ((vCtxs_writePrimeTable ..).trans (vCtxs_def _))

@[simp] theorem loadStalls_ctxs (s : State) (c : Nat) (save : NMap StallCtx) :
    (loadStalls s c save).ctxs = s.ctxs := (vCtxs_def _).symm.trans ((vCtxs_loadStalls ..).trans (vCtxs_def _))

@[simp] theorem ctx_switchIn (s : State) (c : Nat) (j₀ : Nat) :
    ctx (switchIn s c) j₀ = ctx s j₀ := congrArg (nget ({} : Ctx) · j₀) ((vCtxs_def _).symm.trans ((vCtxs_switchIn ..).trans
      (vCtxs_def _)))

@[simp] theorem wakeNap_ctxs (s : State) (p : Nat) :
    (wakeNap s p).ctxs = s.ctxs := (vCtxs_def _).symm.trans ((vCtxs_wakeNap ..).trans (vCtxs_def _))

/-! ### The Loft -/

@[simp] theorem vLoft_trCount (s : State) (i : Nat) :
    (trCount s i).vLoft = s.vLoft := by simp [trCount]

@[simp] theorem vLoft_modTack (s : State) (f : Tack → Tack) :
    (modTack s f).vLoft = s.vLoft := by simp [modTack, vLoft_eta]

@[simp] theorem vLoft_setGateSlot (s : State) (g : Nat) (x : GateSlot) :
    (setGateSlot s g x).vLoft = s.vLoft := by simp [setGateSlot]

@[simp] theorem vLoft_wipeSlot (s : State) (g : Nat) :
    (wipeSlot s g).vLoft = s.vLoft := by simp [wipeSlot, vLoft_eta]

@[simp] theorem vLoft_writeResult (s : State) (status reason code serial : Nat) :
    (writeResult s status reason code serial).vLoft = s.vLoft := by simp [writeResult]

@[simp] theorem vLoft_smithyClear (s : State) :
    (smithyClear s).vLoft = s.vLoft := by simp [smithyClear, vLoft_eta]

@[simp] theorem vLoft_wakeNap (s : State) (p : Nat) :
    (wakeNap s p).vLoft = s.vLoft := by simp [wakeNap]

@[simp] theorem trCount_loft (s : State) (i : Nat) :
    (trCount s i).loft = s.loft := (vLoft_def _).symm.trans ((vLoft_trCount ..).trans (vLoft_def _))

@[simp] theorem wipeSlot_loft (s : State) (g : Nat) :
    (wipeSlot s g).loft = s.loft := (vLoft_def _).symm.trans ((vLoft_wipeSlot ..).trans (vLoft_def _))

@[simp] theorem writeResult_loft (s : State) (status reason code serial : Nat) :
    (writeResult s status reason code serial).loft = s.loft := (vLoft_def _).symm.trans ((vLoft_writeResult ..).trans
      (vLoft_def _))

@[simp] theorem smithyClear_loft (s : State) :
    (smithyClear s).loft = s.loft := (vLoft_def _).symm.trans ((vLoft_smithyClear ..).trans (vLoft_def _))

@[simp] theorem wakeNap_loft (s : State) (p : Nat) :
    (wakeNap s p).loft = s.loft := (vLoft_def _).symm.trans ((vLoft_wakeNap ..).trans (vLoft_def _))

/-! ### The Yardmaster -/

@[simp] theorem vYm_trCount (s : State) (i : Nat) :
    (trCount s i).vYm = s.vYm := by simp [trCount]

@[simp] theorem vYm_openEpoch (s : State) (c reruns : Nat) :
    (openEpoch s c reruns).vYm = s.vYm := by simp [openEpoch]

@[simp] theorem vYm_ensureEpoch (s : State) (c : Nat) :
    (ensureEpoch s c).vYm = s.vYm := by simp [ensureEpoch]

@[simp] theorem vYm_modTack (s : State) (f : Tack → Tack) :
    (modTack s f).vYm = s.vYm := by simp [modTack, vYm_eta]

@[simp] theorem vYm_setGateSlot (s : State) (g : Nat) (x : GateSlot) :
    (setGateSlot s g x).vYm = s.vYm := by simp [setGateSlot]

@[simp] theorem vYm_wipeSlot (s : State) (g : Nat) :
    (wipeSlot s g).vYm = s.vYm := by simp [wipeSlot, vYm_eta]

@[simp] theorem vYm_writeResult (s : State) (status reason code serial : Nat) :
    (writeResult s status reason code serial).vYm = s.vYm := by simp [writeResult]

@[simp] theorem vYm_smithyClear (s : State) :
    (smithyClear s).vYm = s.vYm := by simp [smithyClear, vYm_eta]

@[simp] theorem vYm_writeSetTables (s : State) (c : Nat) :
    (writeSetTables s c).vYm = s.vYm := by simp [writeSetTables]

@[simp] theorem vYm_writePrimeTable (s : State) (p c : Nat) :
    (writePrimeTable s p c).vYm = s.vYm := by simp [writePrimeTable]

@[simp] theorem vYm_loadStalls (s : State) (c : Nat) (save : NMap StallCtx) :
    (loadStalls s c save).vYm = s.vYm := by simp [loadStalls]

@[simp] theorem trCount_ym (s : State) (i : Nat) :
    (trCount s i).ym = s.ym := (vYm_def _).symm.trans ((vYm_trCount ..).trans (vYm_def _))

@[simp] theorem dbAppend_ym (s : State) (type c : Nat) (payload : List Byte) :
    (dbAppend s type c payload).ym = s.ym := (vYm_def _).symm.trans ((vYm_dbAppend ..).trans (vYm_def _))

@[simp] theorem ensureEpoch_ym (s : State) (c : Nat) :
    (ensureEpoch s c).ym = s.ym := (vYm_def _).symm.trans ((vYm_ensureEpoch ..).trans (vYm_def _))

@[simp] theorem wipeSlot_ym (s : State) (g : Nat) :
    (wipeSlot s g).ym = s.ym := (vYm_def _).symm.trans ((vYm_wipeSlot ..).trans (vYm_def _))

@[simp] theorem writeResult_ym (s : State) (status reason code serial : Nat) :
    (writeResult s status reason code serial).ym = s.ym := (vYm_def _).symm.trans ((vYm_writeResult ..).trans (vYm_def _))

@[simp] theorem smithyClear_ym (s : State) :
    (smithyClear s).ym = s.ym := (vYm_def _).symm.trans ((vYm_smithyClear ..).trans (vYm_def _))

@[simp] theorem writeSetTables_ym (s : State) (c : Nat) :
    (writeSetTables s c).ym = s.ym := (vYm_def _).symm.trans ((vYm_writeSetTables ..).trans (vYm_def _))

@[simp] theorem writePrimeTable_ym (s : State) (p c : Nat) :
    (writePrimeTable s p c).ym = s.ym := (vYm_def _).symm.trans ((vYm_writePrimeTable ..).trans (vYm_def _))

@[simp] theorem loadStalls_ym (s : State) (c : Nat) (save : NMap StallCtx) :
    (loadStalls s c save).ym = s.ym := (vYm_def _).symm.trans ((vYm_loadStalls ..).trans (vYm_def _))

/-! ### The Granary -/

/-- The Granary of a state, as a function of it. -/
def State.vGrn (s : State) : Granary := s.grn

@[simp] theorem vGrn_mk (x0 : List Instr) (x1 : Nat) (x2 : Nat) (x3 : List Byte) (x4 : Bool) (x5 : NMap Byte) (x6 : List (Nat
      × Nat)) (x7 : NMap W64) (x8 : W64) (x9 : NMap Pos) (x10 : NMap Stall) (x11 : NMap LoftLine) (x12 : List Msg) (x13 :
      NMap Ctx) (x14 : NMap Rec) (x15 : Yardm) (x16 : Hbm) (x17 : Granary) (x18 : NMap Drover) (x19 : List Report) (x20 :
      Rhoa) (x21 : Gateh) (x22 : Daybk) (x23 : Fuses) (x24 : Tack) (x25 : Smithy) (x26 : Rst) (x27 : Supply) (x28 : Ostler)
      (x29 : Disc) (x30 : Tap) (x31 : List (Transport × List Byte)) (x32 : List (List Byte)) :
    (State.mk x0 x1 x2 x3 x4 x5 x6 x7 x8 x9 x10 x11 x12 x13 x14 x15 x16 x17 x18 x19 x20 x21 x22 x23 x24 x25 x26 x27 x28 x29
      x30 x31 x32).vGrn = x17 := (rfl)

theorem vGrn_eta (s : State) : s.grn = s.vGrn := (rfl)

@[simp] theorem vGrn_ite (c : Prop) [Decidable c] (a b : State) : (if c then a else b).vGrn = if c then a.vGrn else b.vGrn := by
  split <;> rfl

@[simp] theorem vGrn_csrPut (s : State) (off : Nat) (v : W64) :
    (csrPut s off v).vGrn = s.vGrn := by simp [csrPut, vGrn_eta]

@[simp] theorem vGrn_csrSetField (s : State) (off hi lo v : Nat) :
    (csrSetField s off hi lo v).vGrn = s.vGrn := by simp [csrSetField]

@[simp] theorem vGrn_bumpBy (s : State) (off wrapOff wrapBit n : Nat) :
    (bumpBy s off wrapOff wrapBit n).vGrn = s.vGrn := by simp [bumpBy]

@[simp] theorem vGrn_bump (s : State) (off wrapOff wrapBit : Nat) :
    (bump s off wrapOff wrapBit).vGrn = s.vGrn := by simp [bump]

@[simp] theorem vGrn_trCount (s : State) (i : Nat) :
    (trCount s i).vGrn = s.vGrn := by simp [trCount]

@[simp] theorem vGrn_dbStore (s : State) (type c : Nat) (payload : List Byte) :
    (dbStore s type c payload).vGrn = s.vGrn := by simp [dbStore, vGrn_eta]

@[simp] theorem vGrn_dbAppend (s : State) (type c : Nat) (payload : List Byte) :
    (dbAppend s type c payload).vGrn = s.vGrn := by simp [dbAppend, vGrn_eta]

@[simp] theorem vGrn_modTack (s : State) (f : Tack → Tack) :
    (modTack s f).vGrn = s.vGrn := by simp [modTack, vGrn_eta]

@[simp] theorem vGrn_setGateSlot (s : State) (g : Nat) (x : GateSlot) :
    (setGateSlot s g x).vGrn = s.vGrn := by simp [setGateSlot]

@[simp] theorem vGrn_wipeSlot (s : State) (g : Nat) :
    (wipeSlot s g).vGrn = s.vGrn := by simp [wipeSlot, vGrn_eta]

@[simp] theorem vGrn_writeResult (s : State) (status reason code serial : Nat) :
    (writeResult s status reason code serial).vGrn = s.vGrn := by simp [writeResult]

@[simp] theorem vGrn_smithyClear (s : State) :
    (smithyClear s).vGrn = s.vGrn := by simp [smithyClear, vGrn_eta]

theorem vGrn_def (s : State) : s.vGrn = s.grn := rfl

@[simp] theorem trCount_grn (s : State) (i : Nat) :
    (trCount s i).grn = s.grn := (vGrn_def _).symm.trans ((vGrn_trCount ..).trans (vGrn_def _))

@[simp] theorem dbAppend_grn (s : State) (type c : Nat) (payload : List Byte) :
    (dbAppend s type c payload).grn = s.grn := (vGrn_def _).symm.trans ((vGrn_dbAppend ..).trans (vGrn_def _))

@[simp] theorem wipeSlot_grn (s : State) (g : Nat) :
    (wipeSlot s g).grn = s.grn := (vGrn_def _).symm.trans ((vGrn_wipeSlot ..).trans (vGrn_def _))

@[simp] theorem writeResult_grn (s : State) (status reason code serial : Nat) :
    (writeResult s status reason code serial).grn = s.grn := (vGrn_def _).symm.trans ((vGrn_writeResult ..).trans (vGrn_def _))

@[simp] theorem smithyClear_grn (s : State) :
    (smithyClear s).grn = s.grn := (vGrn_def _).symm.trans ((vGrn_smithyClear ..).trans (vGrn_def _))

/-! ### The Daybook -/

@[simp] theorem vDb_hbmCount (s : State) (st i n : Nat) :
    (hbmCount s st i n).vDb = s.vDb := by simp [hbmCount]

@[simp] theorem vDb_grnCount (s : State) (i n : Nat) :
    (grnCount s i n).vDb = s.vDb := by simp [grnCount]

@[simp] theorem hbmCount_db (s : State) (st i n : Nat) :
    (hbmCount s st i n).db = s.db := (vDb_def _).symm.trans ((vDb_hbmCount ..).trans (vDb_def _))

@[simp] theorem grnCount_db (s : State) (i n : Nat) :
    (grnCount s i n).db = s.db := (vDb_def _).symm.trans ((vDb_grnCount ..).trans (vDb_def _))

/-! ### The positions -/

@[simp] theorem vPositions_draw (s : State) :
    (draw s).2.vPositions = s.vPositions := by simp [draw, vPositions_eta]

@[simp] theorem vPositions_hbmCount (s : State) (st i n : Nat) :
    (hbmCount s st i n).vPositions = s.vPositions := by simp [hbmCount]

@[simp] theorem vPositions_trCount (s : State) (i : Nat) :
    (trCount s i).vPositions = s.vPositions := by simp [trCount]

@[simp] theorem vPositions_modDrover (s : State) (d : Nat) (f : Drover → Drover) :
    (modDrover s d f).vPositions = s.vPositions := by simp [modDrover, vPositions_eta]

@[simp] theorem vPositions_openEpoch (s : State) (c reruns : Nat) :
    (openEpoch s c reruns).vPositions = s.vPositions := by simp [openEpoch]

@[simp] theorem vPositions_ensureEpoch (s : State) (c : Nat) :
    (ensureEpoch s c).vPositions = s.vPositions := by simp [ensureEpoch]

@[simp] theorem vPositions_modRegion (s : State) (i : Nat) (f : Region → Region) :
    (modRegion s i f).vPositions = s.vPositions := by simp [modRegion, vPositions_eta]

@[simp] theorem vPositions_modSlot (s : State) (page : Nat) (f : Slot → Slot) :
    (modSlot s page f).vPositions = s.vPositions := by simp [modSlot, vPositions_eta]

@[simp] theorem vPositions_setGpoison (s : State) (g : Nat) (v : Bool) :
    (setGpoison s g v).vPositions = s.vPositions := by simp [setGpoison]

@[simp] theorem vPositions_memFault (s : State) (g : Nat) (owner code retries : Nat) (slot : Bool) (own : Bool) :
    (memFault s g owner code retries slot own).vPositions = s.vPositions := by simp [memFault]

@[simp] theorem vPositions_freeGranule (s : State) :
    (freeGranule s).2.vPositions = s.vPositions := by simp [freeGranule, vPositions_eta]

@[simp] theorem vPositions_putGranule (s : State) (g : Nat) (d : List Byte) (poison : Bool) :
    (putGranule s g d poison).vPositions = s.vPositions := by simp [putGranule, vPositions_eta]

@[simp] theorem vPositions_sendGranule (s : State) (g : Nat) (d : List Byte) (poison : Bool) (e : MemErr) (own : Bool) :
    (sendGranule s g d poison e own).vPositions = s.vPositions := by
  unfold sendGranule
  repeat' split
  all_goals simp [vPositions_eta]

@[simp] theorem vPositions_writeGranule (s : State) (g : Nat) (bs : List (Nat × Byte)) (poison : Bool) (e : MemErr) (own : Bool) :
    (writeGranule s g bs poison e own).vPositions = s.vPositions := by simp [writeGranule, vPositions_eta]

@[simp] theorem vPositions_storeBytes (s : State) (bs : List Host.Cell) (poison : Bool) (errs : MemErrs) (own : Bool) :
    (storeBytes s bs poison errs own).vPositions = s.vPositions := by simp [storeBytes]

@[simp] theorem vPositions_modTack (s : State) (f : Tack → Tack) :
    (modTack s f).vPositions = s.vPositions := by simp [modTack, vPositions_eta]

@[simp] theorem vPositions_setGateSlot (s : State) (g : Nat) (x : GateSlot) :
    (setGateSlot s g x).vPositions = s.vPositions := by simp [setGateSlot]

@[simp] theorem vPositions_wipeSlot (s : State) (g : Nat) :
    (wipeSlot s g).vPositions = s.vPositions := by simp [wipeSlot, vPositions_eta]

@[simp] theorem vPositions_writeResult (s : State) (status reason code serial : Nat) :
    (writeResult s status reason code serial).vPositions = s.vPositions := by simp [writeResult]

@[simp] theorem vPositions_smithyClear (s : State) :
    (smithyClear s).vPositions = s.vPositions := by simp [smithyClear, vPositions_eta]

@[simp] theorem vPositions_writeBackLine (s : State) (key : Nat) (l : GLine) (errs : MemErrs) :
    (writeBackLine s key l errs).vPositions = s.vPositions := by
  unfold writeBackLine
  repeat' first
    | (simp [vPositions_eta]; done)
    | (with_reducible refine (vPositions_foldl _ ?_ _ _).trans ?_)
    | intro _
    | split
    | dsimp only

@[simp] theorem vPositions_writeBackContext (s : State) (c : Nat) :
    (writeBackContext s c).vPositions = s.vPositions := by
  unfold writeBackContext
  repeat' first
    | (simp; done)
    | (with_reducible refine (vPositions_foldl _ ?_ _ _).trans ?_)
    | intro _
    | split

@[simp] theorem vPositions_sendCompletion (s : State) (c : Nat) (k : Packet) (status code detail : Nat) :
    (sendCompletion s c k status code detail).vPositions = s.vPositions := by simp [sendCompletion]

@[simp] theorem vPositions_completeCmd (s : State) (c : Nat) (k : Packet) (status code detail : Nat) :
    (completeCmd s c k status code detail).vPositions = s.vPositions := by simp [completeCmd]

@[simp] theorem vPositions_writeSetTables (s : State) (c : Nat) :
    (writeSetTables s c).vPositions = s.vPositions := by simp [writeSetTables, vPositions_eta]

@[simp] theorem vPositions_writePrimeTable (s : State) (p c : Nat) :
    (writePrimeTable s p c).vPositions = s.vPositions := by simp [writePrimeTable]

@[simp] theorem vPositions_stopContext (s : State) (p lid c : Nat) :
    (stopContext s p lid c).vPositions = s.vPositions := by
  unfold stopContext
  repeat' first
    | (simp only [vPositions_mk, vPositions_eta, vPositions_ite, ite_self, vPositions_completeCmd, vPositions_draw,
      vPositions_emitRecord, vPositions_modCtx,
                    vPositions_reportOstler]; done)
    | (have hk := congrArg (fun x => State.vPositions (Prod.fst x)) ‹_ = (_, _)›
       simp only [vPositions_mk, vPositions_eta, vPositions_ite, ite_self, vPositions_completeCmd, vPositions_draw,
      vPositions_emitRecord, vPositions_modCtx,
                    vPositions_reportOstler] at hk
       simp only [vPositions_mk, vPositions_eta, vPositions_ite, ite_self, vPositions_completeCmd, vPositions_draw,
      vPositions_emitRecord, vPositions_modCtx,
                    vPositions_reportOstler, ← hk]; done)
    | (have hk := congrArg (fun x => State.vPositions (Prod.snd x)) ‹_ = (_, _)›
       simp only [vPositions_draw,
      vPositions_emitRecord,
                    vPositions_reportOstler] at hk
       simp only [vPositions_mk, vPositions_eta, vPositions_ite, ite_self, vPositions_completeCmd,
      vPositions_emitRecord, vPositions_modCtx,
                    vPositions_reportOstler, ← hk]; done)
    | (with_reducible refine (vPositions_foldl _ ?_ _ _).trans ?_)
    | intro _
    | split
    | simp only [vPositions_eta,
      vPositions_emitRecord, vPositions_modCtx,
                    vPositions_reportOstler]

@[simp] theorem vPositions_loadStalls (s : State) (c : Nat) (save : NMap StallCtx) :
    (loadStalls s c save).vPositions = s.vPositions := by simp [loadStalls]

@[simp] theorem vPositions_switchOut (s : State) (c : Nat) :
    (switchOut s c).vPositions = s.vPositions := by simp [switchOut, vPositions_eta]

@[simp] theorem vPositions_switchIn (s : State) (c : Nat) :
    (switchIn s c).vPositions = s.vPositions := by simp [switchIn, vPositions_eta]

@[simp] theorem vPositions_wakeNap (s : State) (p : Nat) :
    (wakeNap s p).vPositions = s.vPositions := by simp [wakeNap]

@[simp] theorem trCount_positions (s : State) (i : Nat) :
    (trCount s i).positions = s.positions := (vPositions_def _).symm.trans ((vPositions_trCount ..).trans (vPositions_def _))

@[simp] theorem wipeSlot_positions (s : State) (g : Nat) :
    (wipeSlot s g).positions = s.positions := (vPositions_def _).symm.trans ((vPositions_wipeSlot ..).trans (vPositions_def _))

@[simp] theorem writeResult_positions (s : State) (status reason code serial : Nat) :
    (writeResult s status reason code serial).positions = s.positions := (vPositions_def _).symm.trans
      ((vPositions_writeResult ..).trans (vPositions_def _))

@[simp] theorem smithyClear_positions (s : State) :
    (smithyClear s).positions = s.positions := (vPositions_def _).symm.trans ((vPositions_smithyClear ..).trans
      (vPositions_def _))

@[simp] theorem writeBackContext_positions (s : State) (c : Nat) :
    (writeBackContext s c).positions = s.positions := (vPositions_def _).symm.trans ((vPositions_writeBackContext ..).trans
      (vPositions_def _))

@[simp] theorem writePrimeTable_positions (s : State) (p c : Nat) :
    (writePrimeTable s p c).positions = s.positions := (vPositions_def _).symm.trans ((vPositions_writePrimeTable ..).trans
      (vPositions_def _))

@[simp] theorem stallOff_positions (s : State) (p : Nat) :
    (stallOff s p).positions = s.positions := (vPositions_def _).symm.trans ((vPositions_stallOff ..).trans (vPositions_def _))

@[simp] theorem stopContext_positions (s : State) (p lid c : Nat) :
    (stopContext s p lid c).positions = s.positions := (vPositions_def _).symm.trans ((vPositions_stopContext ..).trans
      (vPositions_def _))

@[simp] theorem loadStalls_positions (s : State) (c : Nat) (save : NMap StallCtx) :
    (loadStalls s c save).positions = s.positions := (vPositions_def _).symm.trans ((vPositions_loadStalls ..).trans
      (vPositions_def _))

@[simp] theorem switchOut_positions (s : State) (c : Nat) :
    (switchOut s c).positions = s.positions := (vPositions_def _).symm.trans ((vPositions_switchOut ..).trans (vPositions_def _))

@[simp] theorem switchIn_positions (s : State) (c : Nat) :
    (switchIn s c).positions = s.positions := (vPositions_def _).symm.trans ((vPositions_switchIn ..).trans (vPositions_def _))

@[simp] theorem position_switchIn (s : State) (c : Nat) (j₀ : Nat) :
    position (switchIn s c) j₀ = position s j₀ := congrArg (nget ({} : Pos) · j₀) ((vPositions_def _).symm.trans
      ((vPositions_switchIn ..).trans (vPositions_def _)))

@[simp] theorem wakeNap_positions (s : State) (p : Nat) :
    (wakeNap s p).positions = s.positions := (vPositions_def _).symm.trans ((vPositions_wakeNap ..).trans (vPositions_def _))

end Sys2Proof.Machine
end

section
/-!
PROOFS. The context switch (O30); the windows of the Loft and the Granary (O32).
-/

namespace Sys2Proof.Machine

/-! ### Retirement at a choice point (R17, R392) -/

/-- No instruction is in flight in any entry of the stall. -/
def EntriesDone (s : State) (p : Nat) : Prop := ∀ e ∈ (stall s p).entries, e.2 = none

/-- A step that keeps the roster's canonical form, leaves a retired position retired, and brings no instruction into flight at it. -/
structure Outlasts (p : Nat) (s u : State) : Prop where
  canon : nwf ({} : Pos) s.positions = true → nwf ({} : Pos) u.positions = true
  retired : nwf ({} : Pos) s.positions = true → (position s p).st = .retired → (position s p).lid = 0x3FF →
    (position u p).st = .retired ∧ (position u p).lid = 0x3FF
  done : EntriesDone s p → EntriesDone u p

theorem stalls_stallOff (s : State) (q : Nat) : (stallOff s q).stalls = (setStall s q { pwr := .off, setTab := (stall s q).setTab }).stalls := by
  have drops : ((stall s q).drops.foldl (fun s d => bumpBy s (0x4000 + 8 * d.1) 0x4200 d.1 d.2) s).stalls = s.stalls :=
    foldl_keeps State.stalls (fun _ _ => bumpBy_stalls ..) _ _
  unfold stallOff
  dsimp only
  rw [loftInvalidate_stalls, csrSetField_stalls, setStall, drops]
  rfl

theorem stall_stallOff_same (s : State) (q : Nat) : stall (stallOff s q) q = { pwr := .off, setTab := (stall s q).setTab } := by
  rw [stall, stalls_stallOff]
  exact stall_modStall_same s q fun _ => { pwr := .off, setTab := (stall s q).setTab }

theorem stall_stallOff_other {p q : Nat} (h : p ≠ q) (s : State) : stall (stallOff s q) p = stall s p := by
  rw [stall, stalls_stallOff]
  exact stall_modStall_other s h fun _ => { pwr := .off, setTab := (stall s q).setTab }

theorem entries_nget {m : NMap Stall} (all : ∀ e ∈ m, e.2.entries = []) (p : Nat) : (nget ({} : Stall) m p).entries = [] := by
  by_cases default_ : nget ({} : Stall) m p = {}
  · rw [default_]
  · exact all _ (mem_of_nget_ne default_)

namespace Outlasts
variable {p : Nat} {s u v : State}

theorem refl (p : Nat) (s : State) : Outlasts p s s := ⟨id, fun _ st lid => ⟨st, lid⟩, id⟩

theorem trans (a : Outlasts p s u) (b : Outlasts p u v) : Outlasts p s v :=
  ⟨b.canon ∘ a.canon, fun canon st lid => b.retired (a.canon canon) (a.retired canon st lid).1 (a.retired canon st lid).2, b.done ∘ a.done⟩

theorem foldl {β : Type} {f : State → β → State} (each : ∀ s b, Outlasts p s (f s b)) (l : List β) (s : State) : Outlasts p s (l.foldl f s) := by
  induction l generalizing s with
  | nil => exact refl p s
  | cons b l ih => exact (each s b).trans (ih _)

theorem of_positions (positions : u.positions = s.positions) (done : EntriesDone s p → EntriesDone u p) : Outlasts p s u where
  canon canon := positions ▸ canon
  retired canon st lid := by
    rw [position, positions]
    exact ⟨st, lid⟩
  done := done

theorem of_stalls (positions : u.positions = s.positions) (stalls : stall u p = stall s p) : Outlasts p s u :=
  of_positions positions fun done => by rwa [EntriesDone, stalls]

theorem modPos (s : State) {q : Nat} (f : Pos → Pos) (other : nwf ({} : Pos) s.positions = true → (position s p).st = .retired → p ≠ q) :
    Outlasts p s (modPos s q f) where
  canon canon := nwf_nmod canon ..
  retired canon st lid := by
    rw [position_modPos_other _ (other canon st)]
    exact ⟨st, lid⟩
  done done := done

theorem modStall (s : State) (q : Nat) (f : Stall → Stall) (same : ∀ x, (f x).entries = x.entries) : Outlasts p s (modStall s q f) := by
  refine of_positions rfl fun done => ?_
  by_cases here : p = q
  · rwa [EntriesDone, here, stall_modStall_same, same, ← here]
  · rwa [EntriesDone, stall_modStall_other _ here]

theorem csrSetField (s : State) (o a b v : Nat) : Outlasts p s (csrSetField s o a b v) := of_stalls rfl rfl

theorem stallOff (s : State) (q : Nat) : Outlasts p s (stallOff s q) := by
  refine of_positions (stallOff_positions ..) fun done => ?_
  by_cases here : p = q
  · rw [EntriesDone, here, stall_stallOff_same]
    exact fun e mem => nomatch mem
  · rwa [EntriesDone, stall_stallOff_other here]

theorem writeSetTables (s : State) (c : Nat) : Outlasts p s (writeSetTables s c) := by
  unfold Machine.writeSetTables
  refine foldl (β := Nat × Pos) (fun t e => modStall t e.1 _ ?_) _ _
  exact fun _ => rfl

theorem writePrimeTable (s : State) (q c : Nat) : Outlasts p s (writePrimeTable s q c) := modStall s q _ fun _ => rfl

theorem placeCode (s : State) (q c : Nat) (code : List W128) : Outlasts p s (placeCode s q c code) := by
  unfold Machine.placeCode
  split
  · exact refl p s
  · refine modStall s q _ ?_
    exact fun _ => rfl

theorem stopContext (s : State) (q lid c : Nat) : Outlasts p s (stopContext s q lid c) := by
  refine of_positions (stopContext_positions ..) fun done => ?_
  unfold Machine.stopContext
  dsimp only
  generalize hv : emitRecord _ _ true = v
  have before : v.stalls = s.stalls := by
    rw [← hv, emitRecord_stalls, reportOstler_stalls]
    rfl
  have cleared : EntriesDone (if runningNo v = c then
      { v with ym := { v.ym with running := none },
                stalls := (v.stalls.map fun e => (e.1, { e.2 with live := {}, entries := [], hcache := [], tiles := [], ma := {}, unacked := [] })).filter
                  fun e => decide (e.2 ≠ ({} : Stall)) }
    else v) p := by
    split
    · intro e mem
      unfold stall at mem
      rw [entries_nget _ p] at mem
      · cases mem
      · intro e mem
        obtain ⟨x, -, rfl⟩ := List.mem_map.mp (List.mem_filter.mp mem).1
        rfl
    · rwa [EntriesDone, stall, before]
  split
  · rw [EntriesDone, stall_completeCmd]
    exact cleared
  · exact cleared

theorem abandonScan (s : State) : Outlasts p s (abandonScan s) := by
  unfold Machine.abandonScan
  split
  · exact refl p s
  · next q _ =>
    split
    · exact refl p s
    · next free =>
      have out : (position s q).st = .outOfService := by
        by_contra other
        exact free (by simp [other])
      have changed : Outlasts p s (Machine.modPos s q fun x => { x with st := .spare, scan := false }) := by
        refine modPos s _ fun _ st same => ?_
        rw [same, out] at st
        cases st
      exact (changed.trans (csrSetField ..)).trans (csrSetField ..)

theorem substitute (s : State) {q : Nat} (spare : q ∈ positionsIn s .spare) (lid : Nat) (live : StallCtx) : Outlasts p s (substitute s q lid live) := by
  have named : Outlasts p s (Machine.modPos s q fun x => { x with st := .enabled, lid := lid }) := by
    refine modPos s _ fun canon st same => ?_
    rw [same, position_of_positionsIn canon spare] at st
    cases st
  have loaded : Outlasts p s (Machine.modStall (Machine.modPos s q fun x => { x with st := .enabled, lid := lid }) q fun x =>
      { x with live := live, pwr := .run }) := by
    refine named.trans (modStall _ q _ ?_)
    exact fun _ => rfl
  unfold Machine.substitute
  refine trans ?_ (foldl (fun t e => ?_) _ _)
  · split
    · exact loaded
    · exact (loaded.trans (writePrimeTable ..)).trans (writeSetTables ..)
  · split
    · split
      · exact refl p t
      · exact placeCode ..
    · exact refl p t

end Outlasts

namespace Outlasts
variable {p : Nat}

theorem withdrawn (s : State) (q : Nat) (cause : BitVec 2) (v : Nat) : Outlasts p s (withdraw s q cause v) := by
  by_cases here : p = q
  · subst here
    have positions := positions_withdraw s p cause v
    have at_ : position (withdraw s p cause v) p = { position s p with st := .retired, lid := 0x3FF, await := none, cause := cause } := by
      rw [position, positions]
      exact nget_nmod_same ..
    refine ⟨fun canon => positions ▸ nwf_nmod canon .., fun _ _ _ => by rw [at_]; exact ⟨rfl, rfl⟩, fun _ => ?_⟩
    rw [EntriesDone, withdraw, stall_stallOff_same]
    exact fun e mem => nomatch mem
  · have recorded : Outlasts p s (recordFirst s 0x7608 v) := of_stalls (recordFirst_positions ..) (by rw [stall, recordFirst_stalls, stall])
    refine (recorded.trans ?_).trans (stallOff ..)
    exact modPos _ _ fun _ _ => here

theorem retire (s : State) (q : Nat) (cause : BitVec 2) : Outlasts p s (retire s q cause) := by
  obtain ⟨v, same⟩ := retire_eq s q cause
  rw [same]
  have gone := (withdrawn (p := p) s q cause v).trans (abandonScan _)
  split
  · exact withdrawn ..
  split
  · next chosen => exact gone.trans (substitute _ (mem_of_chooseSpare chosen) _ _)
  · refine trans ?_ (foldl (fun s e => ?_) _ _)
    · split
      · exact gone
      · exact gone.trans (writeSetTables ..)
    · split
      · split
        · exact stopContext ..
        · exact refl p s
      · exact refl p s

end Outlasts

/-- A position that is retired is so, whatever comes of the logical ID that it held. -/
theorem retire_retires {s : State} (canon : nwf ({} : Pos) s.positions = true) (p : Nat) (cause : BitVec 2) :
    (position (retire s p cause) p).st = .retired ∧ (position (retire s p cause) p).lid = 0x3FF := by
  obtain ⟨v, same⟩ := retire_eq s p cause
  have positions := positions_withdraw s p cause v
  have at_ : (position (withdraw s p cause v) p).st = .retired ∧ (position (withdraw s p cause v) p).lid = 0x3FF := by
    rw [position, positions]
    exact ⟨congrArg Pos.st (nget_nmod_same ..), congrArg Pos.lid (nget_nmod_same ..)⟩
  have canon' : nwf ({} : Pos) (withdraw s p cause v).positions = true := positions ▸ nwf_nmod canon ..
  have rest (u : State) (h : Outlasts p (withdraw s p cause v) u) := h.retired canon' at_.1 at_.2
  have gone : Outlasts p (withdraw s p cause v) (abandonScan (withdraw s p cause v)) := .abandonScan _
  rw [same]
  split
  · exact at_
  split
  · next chosen => exact rest _ (gone.trans (.substitute _ (mem_of_chooseSpare chosen) _ _))
  · refine rest _ (.trans ?_ (.foldl (fun s e => ?_) _ _))
    · split
      · exact gone
      · exact gone.trans (.writeSetTables ..)
    · split
      · split
        · exact .stopContext ..
        · exact .refl p s
      · exact .refl p s

/-- What the boundary of a step does of one position that may await retirement (R392). -/
def retireWaiting (s : State) (e : Nat × Pos) : State :=
  match e.2.await with
  | some cause => if (stall s e.1).entries.all (fun v => v.2.isNone) then retire s e.1 cause else s
  | none => s

theorem retireAwaiting_eq (s : State) : retireAwaiting s = s.positions.foldl retireWaiting s := rfl

theorem outlasts_retireWaiting {p : Nat} (s : State) (e : Nat × Pos) : Outlasts p s (retireWaiting s e) := by
  unfold retireWaiting
  split
  · split
    · exact .retire ..
    · exact .refl p s
  · exact .refl p s

/-- A position that awaits retirement, with no instruction in flight, is retired at the choice point (R392). -/
theorem retireAwaiting_retires {s : State} {p : Nat} {cause : BitVec 2} (canon : nwf ({} : Pos) s.positions = true)
    (waits : (position s p).await = some cause) (done : EntriesDone s p) :
    nwf ({} : Pos) (retireAwaiting s).positions = true ∧
    (position (retireAwaiting s) p).st = .retired ∧ (position (retireAwaiting s) p).lid = 0x3FF := by
  have listed : (p, position s p) ∈ s.positions := mem_of_nget_ne fun default_ => by
    rw [position, default_] at waits
    cases waits
  have each (l : NMap Pos) (mem : (p, position s p) ∈ l) (u : State) (canon : nwf ({} : Pos) u.positions = true) (done : EntriesDone u p) :
      nwf ({} : Pos) (l.foldl retireWaiting u).positions = true ∧
      (position (l.foldl retireWaiting u) p).st = .retired ∧ (position (l.foldl retireWaiting u) p).lid = 0x3FF := by
    induction l generalizing u with
    | nil => cases mem
    | cons e l ih =>
      rw [List.foldl_cons]
      obtain rfl | mem := List.mem_cons.mp mem
      · have all : (stall u p).entries.all (fun v => v.2.isNone) = true :=
          List.all_eq_true.mpr fun e mem => Option.isNone_iff_eq_none.mpr (done e mem)
        have goes : retireWaiting u (p, position s p) = retire u p cause := by
          unfold retireWaiting
          dsimp only
          rw [waits]
          exact if_pos all
        have after : Outlasts p (retire u p cause) (l.foldl retireWaiting (retire u p cause)) := .foldl outlasts_retireWaiting ..
        have canon' := (Outlasts.retire (p := p) u p cause).canon canon
        rw [goes]
        exact ⟨after.canon canon', after.retired canon' (retire_retires canon p cause).1 (retire_retires canon p cause).2⟩
      · have one := outlasts_retireWaiting (p := p) u e
        exact ih mem _ (one.canon canon) (one.done done)
  exact each s.positions listed s canon done

theorem outlasts_scanBoundary {p : Nat} (s : State) : Outlasts p s (scanBoundary s) := by
  unfold scanBoundary
  split
  · next q _ =>
    split
    · next free =>
      rw [Bool.and_eq_true, decide_eq_true_eq] at free
      refine (Outlasts.stallOff s q).trans (.modPos _ _ fun _ st same => ?_)
      rw [position_stallOff, same, free.1] at st
      cases st
    · exact .refl p s
  · exact .refl p s

/-! ### Which context a switch chooses (R381) -/

/-- The choice between the best context so far and another ready one. -/
def better (s : State) (b : Option Nat) (c : Nat) : Option Nat :=
  match b with
  | none => some c
  | some x => if (ctx s x).prio < (ctx s c).prio then some c else b

theorem topReady_eq (s : State) : topReady s = (readyAfter s).foldl (better s) none := rfl

theorem foldl_better (s : State) (l : List Nat) (b : Option Nat) {d : Nat} (best : l.foldl (better s) b = some d) :
    (d ∈ l ∨ b = some d) ∧ (∀ x, b = some x → (ctx s x).prio ≤ (ctx s d).prio) ∧ ∀ c ∈ l, (ctx s c).prio ≤ (ctx s d).prio := by
  induction l generalizing b with
  | nil =>
    obtain rfl : b = some d := best
    exact ⟨.inr rfl, fun x same => Option.some.inj same ▸ BitVec.le_refl _, fun c mem => nomatch mem⟩
  | cons c l ih =>
    obtain ⟨among, above, rest⟩ := ih _ best
    have first : (ctx s c).prio ≤ (ctx s d).prio := by
      cases b with
      | none => exact above c rfl
      | some x =>
        by_cases less : (ctx s x).prio < (ctx s c).prio
        · exact above c (if_pos less)
        · exact BitVec.le_trans (BitVec.not_lt.mp less) (above x (if_neg less))
    refine ⟨?_, fun x same => ?_, fun e mem => ?_⟩
    · rcases among with mem | became
      · exact .inl (List.mem_cons_of_mem _ mem)
      · cases b with
        | none => exact .inl (Option.some.inj became ▸ List.mem_cons_self)
        | some x =>
          unfold better at became
          dsimp only at became
          split at became
          · exact .inl (Option.some.inj became ▸ List.mem_cons_self)
          · exact .inr became
    · subst same
      by_cases less : (ctx s x).prio < (ctx s c).prio
      · exact BitVec.le_trans (BitVec.le_of_lt less) first
      · exact above x (if_neg less)
    · obtain rfl | mem := List.mem_cons.mp mem
      · exact first
      · exact rest e mem

theorem runningNo_le (s : State) : runningNo s ≤ 64 := by
  unfold runningNo
  split
  · exact Nat.le_of_lt (Fin.isLt _)
  · exact Nat.le_refl _

theorem mem_readyAfter {s : State} {c : Nat} : c ∈ readyAfter s ↔ c < 64 ∧ isReady s c = true ∧ c ≠ runningNo s := by
  have among : c ∈ (List.range 64).map (fun i => if runningNo s = 64 then i else (runningNo s + 1 + i) % 64) ↔ c < 64 := by
    have small := runningNo_le s
    rw [List.mem_map]
    by_cases none_ : runningNo s = 64
    · simp [none_]
    · simp only [if_neg none_, List.mem_range]
      refine ⟨fun ⟨i, hi, same⟩ => by omega, fun hc => ⟨(c + 127 - runningNo s) % 64, by omega, by omega⟩⟩
  unfold readyAfter
  rw [List.mem_filter, among]
  simp

theorem nextContext_chosen {s : State} {d : Nat} (chosen : nextContext s = some d) : topReady s = some d ∧
    (isReady s (runningNo s) = true → runningNo s < 64 → (ctx s (runningNo s)).prio < (ctx s d).prio ∨
      (s.ym.expired = true ∧ (ctx s (runningNo s)).prio = (ctx s d).prio)) := by
  unfold nextContext at chosen
  cases top : topReady s with
  | none =>
    rw [top] at chosen
    cases chosen
  | some e =>
    rw [top] at chosen
    dsimp only at chosen
    split at chosen
    · next free =>
      refine ⟨chosen, fun ready small => absurd free ?_⟩
      rw [decide_eq_false (Nat.ne_of_lt small), ready]
      decide
    split at chosen
    · next more => exact ⟨chosen, fun _ _ => .inl (Option.some.inj chosen ▸ more)⟩
    split at chosen
    · next equal =>
      rw [Bool.and_eq_true, decide_eq_true_eq] at equal
      exact ⟨chosen, fun _ _ => .inr (Option.some.inj chosen ▸ equal)⟩
    · cases chosen

/-- The chosen context is ready and no other that is has a greater priority (R381). -/
theorem nextContext_best {s : State} {d : Nat} (chosen : nextContext s = some d) : d < 64 ∧ isReady s d = true ∧ d ≠ runningNo s ∧
    (∀ c, c < 64 → isReady s c = true → c ≠ runningNo s → (ctx s c).prio.toNat ≤ (ctx s d).prio.toNat) := by
  obtain ⟨top, -⟩ := nextContext_chosen chosen
  rw [topReady_eq] at top
  obtain ⟨among, -, best⟩ := foldl_better s _ none top
  obtain ⟨small, ready, other⟩ := mem_readyAfter.mp (among.resolve_right fun h => nomatch h)
  exact ⟨small, ready, other, fun c hc hready hother => BitVec.le_def.mp (best c (mem_readyAfter.mpr ⟨hc, hready, hother⟩))⟩

theorem quantumExpiry_effect (s : State) :
    (s.ym.running.isSome = true → s.ym.since.toNat + 1000 * csrField s 0x6400 19 0 < s.ledger.toNat →
      Completes .quantumExpiry s fun u => u = { s with ym := { s.ym with expired := true } }) ∧
    (s.ym.running = none ∨ s.ledger.toNat ≤ s.ym.since.toNat + 1000 * csrField s 0x6400 19 0 →
      Completes .quantumExpiry s fun u => u = s) := by
  have run : exec .quantumExpiry s = .next (if s.ym.running.isNone || now s ≤ s.ym.since.toNat + 1000 * csrField s 0x6400 19 0 then s
    else { s with ym := { s.ym with expired := true } }) := rfl
  refine ⟨fun some_ past => completes_of (run.trans (congrArg _ (if_neg ?_))) rfl, fun early => completes_of (run.trans (congrArg _ (if_pos ?_))) rfl⟩
  · obtain ⟨c, hc⟩ := Option.isSome_iff_exists.mp some_
    rw [hc, Option.isNone_some, Bool.false_or, decide_eq_true_eq]
    exact not_le.mpr past
  · rcases early with none_ | early
    · simp [none_]
    · simp [now, early]

/-! ### What a context switch leaves of the stalls and contexts (R91, R95, R168, R281, R381, R382) -/

section
variable {s : State} {c d p : Nat}

theorem stall_foldl_modStall_by {f : Nat → Stall → Stall} (idem : ∀ q x, f q (f q x) = f q x) (ps : List Nat) (s : State) (p : Nat) :
    stall (ps.foldl (fun s q => modStall s q (f q)) s) p = if p ∈ ps then f p (stall s p) else stall s p := by
  induction ps generalizing s with
  | nil => rfl
  | cons q ps ih =>
    rw [List.foldl_cons, ih]
    by_cases h : p = q
    · subst h
      simp [idem]
    · simp [h, stall_modStall_other]

/-- A stall whose context is saved: its running state, caches, tiles and banks are empty. -/
def emptied (x : Stall) : Stall := { x with live := {}, hcache := [], ma := {}, tiles := [] }

/-- The context once its state is saved. -/
def savedCtx (s : State) (c : Nat) : State := modCtx s c fun x => { x with save := contextSave s c, wires := s.ym.devPhase, drained := false }

theorem switchOut_eq (s : State) (c : Nat) : switchOut s c =
    let s3 := (positionsIn (writeBackContext (savedCtx s c) c) .enabled).foldl (fun s p => modStall s p emptied) (writeBackContext (savedCtx s c) c)
    { [0, 1].foldl (fun s d => modDrover s d fun x => { x with recs := [] }) s3 with ym := { s3.ym with running := none } } := rfl

theorem stall_switchOut (here : p ∈ positionsIn s .enabled) : stall (switchOut s c) p = emptied (stall s p) := by
  have same : positionsIn (writeBackContext (savedCtx s c) c) .enabled = positionsIn s .enabled := positionsIn_congr (writeBackContext_positions ..) _
  rw [switchOut_eq]
  dsimp only
  rw [same]
  refine (stall_foldl_modStall emptied (fun _ => rfl) _ _ p).trans ?_
  rw [if_pos here, stall_writeBackContext]
  rfl

theorem ctx_switchOut (s : State) (c d : Nat) : ctx (switchOut s c) d = ctx (savedCtx s c) d := by
  have back := ctx_writeBackContext (savedCtx s c) c d
  rw [switchOut_eq]
  dsimp only
  generalize writeBackContext (savedCtx s c) c = v at back ⊢
  exact (ctx_foldl_modStall emptied _ v d).trans back

theorem ctx_switchOut_same (s : State) (c : Nat) : (ctx (switchOut s c) c).save = contextSave s c ∧ (ctx (switchOut s c) c).wires = s.ym.devPhase := by
  rw [ctx_switchOut, savedCtx, ctx_modCtx_same]
  exact ⟨rfl, rfl⟩

theorem ctx_switchOut_other (h : d ≠ c) : ctx (switchOut s c) d = ctx s d := by
  rw [ctx_switchOut, savedCtx, ctx_modCtx_other _ h]

/-- A stall that takes a context's running state, and wakes for a READY Team (R91, R95). -/
def takes (x : StallCtx) (y : Stall) : Stall := { y with live := x, pwr := if y.pwr ≠ .off && anyReady x then .run else y.pwr }

theorem refence_congr {s u : State} (csr : csrGet u 0x0D00010 = csrGet s 0x0D00010) (db : u.db = s.db) (ledger : u.ledger = s.ledger) (c : Nat) (x : StallCtx) :
    refence u c x = refence s c x := by
  have due (t : Nat) : fenceDue u c t = fenceDue s c t := by
    unfold fenceDue replaying csrBit csrField
    rw [csr, db]
  unfold refence now
  simp only [due, ledger]

/-- What loading a context's saved state does of one stall. -/
def loadStall (c : Nat) (save : NMap StallCtx) (s : State) (p : Nat) : State :=
  modStall s p (takes (refence s c (nget {} save (lidOf s p))))

theorem loadStalls_eq (s : State) (c : Nat) (save : NMap StallCtx) : loadStalls s c save =
    (positionsIn s .enabled).foldl (fun v p => modStall v p (takes (refence s c (nget {} save (lidOf s p))))) s := by
  have each (ps : List Nat) (v : State) (csr : v.csr = s.csr) (db : v.db = s.db) (ledger : v.ledger = s.ledger) (positions : v.positions = s.positions) :
      ps.foldl (loadStall c save) v =
      ps.foldl (fun v p => modStall v p (takes (refence s c (nget {} save (lidOf s p))))) v := by
    induction ps generalizing v with
    | nil => rfl
    | cons p ps ih =>
      have lid : lidOf v p = lidOf s p := by rw [lidOf, position, positions, lidOf, position]
      rw [List.foldl_cons, List.foldl_cons, loadStall, lid, refence_congr (csrGet_congr csr _) db ledger]
      exact ih _ csr db ledger positions
  exact each _ s rfl rfl rfl rfl

/-- The state in which a chosen context runs, before its stalls take its state. -/
def runs (s : State) (c : Nat) : State :=
  let s1 := loftInvalidate s fun _ l _ => (imageOf s c).claims.sharedBase ≤ l && l < (imageOf s c).claims.sharedBase + (imageOf s c).claims.sharedLen
  { s1 with ym := { s1.ym with running := if h : c < 64 then some ⟨c, h⟩ else none, since := s.ledger, expired := false, devPhase := (ctx s c).wires } }

/-- The stalls once they have the context's state and prime table. -/
def loadedIn (s : State) (c : Nat) : State :=
  (positionsIn (runs s c) .enabled).foldl (fun s p => writePrimeTable s p c) (loadStalls (runs s c) c (ctx s c).save)

theorem switchIn_eq (s : State) (c : Nat) : switchIn s c = ensureEpoch (writeSetTables (loadedIn s c) c) c := rfl

theorem takes_takes (x : StallCtx) (y : Stall) : takes x (takes x y) = takes x y := by
  unfold takes
  by_cases wakes : (y.pwr ≠ .off && anyReady x) = true
  · have ready : anyReady x = true := (Bool.and_eq_true _ _ ▸ wakes).2
    rw [if_pos wakes]
    simp [ready]
  · rw [if_neg wakes, if_neg wakes]

theorem imageOf_congr_ctxs {s u : State} (ctxs : u.ctxs = s.ctxs) (c : Nat) : imageOf u c = imageOf s c := by
  unfold imageOf ctx
  rw [ctxs]

/-- A stall with another prime table. -/
def tabled (tab : List Nat) (x : Stall) : Stall := { x with primeTab := tab }

theorem foldl_writePrimeTable (c : Nat) (ps : List Nat) (s : State) : ps.foldl (fun v p => writePrimeTable v p c) s =
    ps.foldl (fun v p => modStall v p (tabled (primeTable (imageOf s c)))) s := by
  have each (v : State) (ctxs : v.ctxs = s.ctxs) : ps.foldl (fun v p => writePrimeTable v p c) v =
      ps.foldl (fun v p => modStall v p (tabled (primeTable (imageOf s c)))) v := by
    induction ps generalizing v with
    | nil => rfl
    | cons p ps ih =>
      rw [List.foldl_cons, List.foldl_cons, writePrimeTable, imageOf_congr_ctxs ctxs]
      exact ih _ ctxs
  exact each s rfl

theorem stall_loadedIn (here : p ∈ positionsIn s .enabled) : stall (loadedIn s c) p =
    { takes (refence s c (nget {} (ctx s c).save (lidOf s p))) (stall s p) with primeTab := primeTable (imageOf s c) } := by
  have lid (q : Nat) : lidOf (runs s c) q = lidOf s q := rfl
  have fences (x : StallCtx) : refence (runs s c) c x = refence s c x := refence_congr rfl rfl rfl c x
  have loaded : stall (loadStalls (runs s c) c (ctx s c).save) p = takes (refence s c (nget {} (ctx s c).save (lidOf s p))) (stall s p) := by
    rw [loadStalls_eq]
    refine (stall_foldl_modStall_by (f := fun q => takes (refence (runs s c) c (nget {} (ctx s c).save (lidOf (runs s c) q))))
      (fun q x => takes_takes ..) _ _ p).trans ?_
    rw [if_pos (show p ∈ positionsIn (runs s c) .enabled from here), lid, fences]
    rfl
  have image : imageOf (loadStalls (runs s c) c (ctx s c).save) c = imageOf s c := imageOf_congr_ctxs (loadStalls_ctxs ..) c
  unfold loadedIn
  rw [foldl_writePrimeTable]
  generalize loadStalls (runs s c) c (ctx s c).save = v at loaded image ⊢
  rw [stall_foldl_modStall (tabled _) fun _ => rfl, if_pos (show p ∈ positionsIn (runs s c) .enabled from here), loaded, image]
  rfl

theorem loadedIn_positions (s : State) (c : Nat) : (loadedIn s c).positions = s.positions := by
  unfold loadedIn
  exact (foldl_keeps State.positions (fun _ _ => writePrimeTable_positions ..) _ _).trans (loadStalls_positions ..)

theorem loadedIn_ctxs (s : State) (c : Nat) : (loadedIn s c).ctxs = s.ctxs := by
  unfold loadedIn
  exact (foldl_keeps State.ctxs (fun _ _ => writePrimeTable_ctxs ..) _ _).trans (loadStalls_ctxs ..)

theorem loadedIn_ym (s : State) (c : Nat) : (loadedIn s c).ym = (runs s c).ym := by
  unfold loadedIn
  exact (foldl_keeps State.ym (fun _ _ => writePrimeTable_ym ..) _ _).trans (loadStalls_ym ..)

/-- A stall with another set table. -/
def withSets (s : State) (c q : Nat) (x : Stall) : Stall := { x with setTab := setTable s (imageOf s c) q }

theorem stall_writeSetTables_listed {v : State} {e : Nat × Pos} (mem : e ∈ v.positions) (c : Nat) :
    stall (writeSetTables v c) e.1 = withSets v c e.1 (stall v e.1) := by
  have all : writeSetTables v c = (v.positions.map (·.1)).foldl (fun t q => modStall t q (withSets v c q)) v := by
    rw [List.foldl_map]
    rfl
  rw [all, stall_foldl_modStall_by (f := withSets v c) fun _ _ => rfl, if_pos (List.mem_map_of_mem mem)]

theorem setTable_congr {s u : State} (positions : u.positions = s.positions) (img : Image) (q : Nat) : setTable u img q = setTable s img q := by
  have named (l : Nat) : posOfLid u l = posOfLid s l := by rw [posOfLid, positions, posOfLid]
  unfold setTable
  rw [show posOfLid u = posOfLid s from funext named]

/-- What a chosen context runs with (R91, R95, R168, R281, R381). -/
theorem stall_switchIn (here : p ∈ positionsIn s .enabled) : stall (switchIn s c) p =
    { takes (refence s c (nget {} (ctx s c).save (lidOf s p))) (stall s p) with
      primeTab := primeTable (imageOf s c), setTab := setTable s (imageOf s c) p } := by
  have loaded := stall_loadedIn (c := c) here
  have positions := loadedIn_positions s c
  have image := imageOf_congr_ctxs (loadedIn_ctxs s c) c
  obtain ⟨e, mem, rfl⟩ := List.mem_map.mp here
  have listed : e ∈ (loadedIn s c).positions := positions ▸ (List.mem_filter.mp mem).1
  rw [switchIn_eq, stall_ensureEpoch]
  generalize loadedIn s c = v at *
  rw [stall_writeSetTables_listed listed, loaded, withSets, setTable_congr positions, image]

theorem switchIn_ym (s : State) (c : Nat) : (switchIn s c).ym = (runs s c).ym := by
  rw [switchIn_eq, ensureEpoch_ym, writeSetTables_ym, loadedIn_ym]

theorem opened_switchIn (small : c < 64) (s : State) : (recOf (switchIn s c) c).opened.isSome = true := by
  rw [switchIn_eq]
  exact opened_ensureEpoch _ small

/-- The state from which the chosen context is switched in: the one that ran is saved. -/
def leftBy (s : State) : State := if runningNo s = 64 then s else switchOut s (runningNo s)

theorem contextSwitch_run (s : State) : exec .contextSwitch s = .next (
    if !choicePoint s then s else
    match nextContext (scanBoundary (retireAwaiting s)) with
    | none => scanBoundary (retireAwaiting s)
    | some d => switchIn (leftBy (scanBoundary (retireAwaiting s))) d) := rfl

theorem contextSwitch_off (h : choicePoint s = false) : exec .contextSwitch s = .next s :=
  (contextSwitch_run s).trans (congrArg _ (if_pos (by rw [h]; rfl)))

theorem contextSwitch_none (h : choicePoint s = true) (none_ : nextContext (scanBoundary (retireAwaiting s)) = none) :
    exec .contextSwitch s = .next (scanBoundary (retireAwaiting s)) := by
  rw [contextSwitch_run, h, none_]
  rfl

theorem contextSwitch_some (h : choicePoint s = true) (chosen : nextContext (scanBoundary (retireAwaiting s)) = some d) :
    exec .contextSwitch s = .next (switchIn (leftBy (scanBoundary (retireAwaiting s))) d) := by
  rw [contextSwitch_run, h, chosen]
  rfl

theorem leftBy_positions (s : State) : (leftBy s).positions = s.positions := by
  unfold leftBy
  split
  · rfl
  · exact switchOut_positions ..

theorem csrGet_grnCount (s : State) {i : Nat} (hi : i < 32) (n : Nat) : csrGet (grnCount s i n) 0x0D00010 = csrGet s 0x0D00010 :=
  csrGet_bumpBy_other s (show 0x0D00010 ≠ 0x0500100 + 8 * i by omega) (by decide)

theorem csrGet_writeBackLine (s : State) (key : Nat) (l : GLine) : csrGet (writeBackLine s key l []) 0x0D00010 = csrGet s 0x0D00010 := by
  unfold writeBackLine
  dsimp only
  rw [csrGet_grnCount _ (by decide)]
  split
  · rfl
  split
  · obtain ⟨hbm, clean⟩ := storeBytes_clean s _ l.poison (decide (backingOwner s (key / 2 ^ 21) (key % 2 ^ 21) < 64))
    rw [clean]
    rfl
  · exact csrGet_bumpBy_other s (by omega) (by omega)

theorem writeBackLine_db (s : State) (key : Nat) (l : GLine) : (writeBackLine s key l []).db = s.db := by
  unfold writeBackLine
  dsimp only
  rw [grnCount_db]
  split
  · rfl
  split
  · obtain ⟨hbm, clean⟩ := storeBytes_clean s _ l.poison (decide (backingOwner s (key / 2 ^ 21) (key % 2 ^ 21) < 64))
    rw [clean]
  · exact hbmCount_db ..

theorem writeBackContext_db (s : State) (c : Nat) : (writeBackContext s c).db = s.db := by
  unfold writeBackContext
  refine foldl_keeps State.db (fun s e => ?_) _ _
  split
  · split
    · rw [grnCount_db, writeBackLine_db]
    · rfl
  · rfl

theorem csrGet_writeBackContext (s : State) (c : Nat) : csrGet (writeBackContext s c) 0x0D00010 = csrGet s 0x0D00010 := by
  unfold writeBackContext
  refine foldl_keeps (csrGet · 0x0D00010) (fun s e => ?_) _ _
  split
  · split
    · rw [csrGet_grnCount _ (by decide), csrGet_writeBackLine]
    · rfl
  · rfl

/-- The stalls' state is the only one that emptying them changes. -/
theorem foldl_emptied (ps : List Nat) (s : State) : ∃ stalls, ps.foldl (fun s p => modStall s p emptied) s = { s with stalls := stalls } := by
  induction ps generalizing s with
  | nil => exact ⟨_, rfl⟩
  | cons p ps ih =>
    obtain ⟨stalls, same⟩ := ih (modStall s p emptied)
    exact ⟨stalls, same⟩

theorem switchOut_same (s : State) (c : Nat) : csrGet (switchOut s c) 0x0D00010 = csrGet s 0x0D00010 ∧ (switchOut s c).db = s.db := by
  have csr := csrGet_writeBackContext (savedCtx s c) c
  have db := writeBackContext_db (savedCtx s c) c
  rw [switchOut_eq]
  dsimp only
  generalize writeBackContext (savedCtx s c) c = v at csr db ⊢
  obtain ⟨stalls, same⟩ := foldl_emptied (positionsIn v .enabled) v
  rw [same]
  exact ⟨csr, db⟩

theorem refence_leftBy (s : State) (d : Nat) (x : StallCtx) : refence (leftBy s) d x = refence s d x := by
  unfold leftBy
  split
  · rfl
  · exact refence_congr (switchOut_same s _).1 (switchOut_same s _).2 (switchOut_ledger ..) d x

theorem ctx_leftBy (other : d ≠ runningNo s) : ctx (leftBy s) d = ctx s d := by
  unfold leftBy
  split
  · rfl
  · exact ctx_switchOut_other other

theorem leftBy_ledger (s : State) : (leftBy s).ledger = s.ledger := by
  unfold leftBy
  split
  · rfl
  · exact switchOut_ledger ..

/-- A stall of the context that was left is emptied, whatever it powers. -/
theorem stall_leftBy (here : p ∈ positionsIn s .enabled) : (stall (leftBy s) p).pwr = (stall s p).pwr ∧
    (runningNo s < 64 → (stall (leftBy s) p).hcache = [] ∧ (stall (leftBy s) p).tiles = [] ∧ (stall (leftBy s) p).ma = {}) := by
  unfold leftBy
  split
  · next none_ => exact ⟨rfl, fun small => absurd none_ (Nat.ne_of_lt small)⟩
  · rw [stall_switchOut here]
    exact ⟨rfl, fun _ => ⟨rfl, rfl, rfl⟩⟩

theorem switched_effect (s : State) {d : Nat} (small : d < 64) (other : d ≠ runningNo s) :
    let u := switchIn (leftBy s) d
    let c := runningNo s
    d < 64 ∧ d ≠ c ∧ runningNo u = d ∧ u.ym.since = s.ledger ∧ u.ym.expired = false ∧ (recOf u d).opened.isSome = true ∧
      u.ym.devPhase = (ctx s d).wires ∧ u.positions = s.positions ∧
      (∀ p ∈ positionsIn s .enabled,
        (stall u p).live = refence s d (nget {} (ctx s d).save (lidOf s p)) ∧
        (stall u p).pwr = (if (stall s p).pwr ≠ .off ∧ anyReady (stall u p).live = true then .run else (stall s p).pwr) ∧
        (stall u p).primeTab = primeTable (imageOf s d) ∧ (stall u p).setTab = setTable s (imageOf s d) p ∧
        (c < 64 → (stall u p).hcache = [] ∧ (stall u p).tiles = [] ∧ (stall u p).ma = {})) ∧
      (c < 64 → (ctx u c).save = contextSave s c ∧ (ctx u c).wires = s.ym.devPhase) := by
  intro u c
  have before := ctx_leftBy other
  have image : imageOf (leftBy s) d = imageOf s d := by rw [imageOf, before, imageOf]
  have positions := leftBy_positions s
  have ym : u.ym = (runs (leftBy s) d).ym := switchIn_ym ..
  have running : u.ym.running = some ⟨d, small⟩ := by
    rw [ym]
    exact dif_pos small
  refine ⟨small, other, by rw [runningNo, running], ?_, by rw [ym]; rfl, opened_switchIn small _, ?_, (switchIn_positions ..).trans positions,
    fun p here => ?_, fun ran => ?_⟩
  · rw [ym]
    exact leftBy_ledger s
  · rw [ym]
    exact congrArg Ctx.wires before
  · have here' : p ∈ positionsIn (leftBy s) .enabled := positionsIn_congr positions _ ▸ here
    have lid : lidOf (leftBy s) p = lidOf s p := by rw [lidOf, position, positions, lidOf, position]
    have now_ := stall_switchIn (c := d) here'
    rw [refence_leftBy, before, lid, image, setTable_congr positions] at now_
    obtain ⟨pwr, empty⟩ := stall_leftBy here
    generalize stall u p = x at *
    subst now_
    refine ⟨rfl, ?_, rfl, rfl, empty⟩
    change (if _ then _ else _) = _
    rw [pwr]
    simp only [takes, Bool.and_eq_true, decide_eq_true_eq]
  · have out : leftBy s = switchOut s c := if_neg (Nat.ne_of_lt ran)
    rw [show u = switchIn (switchOut s c) d from out ▸ rfl, ctx_switchIn]
    exact ctx_switchOut_same s c

end

/-- Settles O30: which context a switch chooses, and what a switch leaves of the positions, the stalls and both contexts. -/
theorem contextSwitchRunsChosen : Obligations.ContextSwitchRunsChosen := by
  unfold Obligations.ContextSwitchRunsChosen
  refine ⟨fun s off => completes_of (contextSwitch_off off) rfl, fun s on => ⟨fun none_ => completes_of (contextSwitch_none on none_) rfl,
      fun d chosen => ?_⟩, fun s none_ still => ?_, fun s p cause on canon waits done => ?_,
    fun s d chosen => ?_, quantumExpiry_effect⟩
  · obtain ⟨small, -, other, -⟩ := nextContext_best chosen
    exact completes_of (contextSwitch_some on chosen) (switched_effect _ small other)
  · rw [retireAwaiting_of_none none_, scanBoundary, still]
  · obtain ⟨canon', st, lid⟩ := retireAwaiting_retires canon waits done
    have scanned := (outlasts_scanBoundary (p := p) (retireAwaiting s)).retired canon' st lid
    cases chosen : nextContext (scanBoundary (retireAwaiting s)) with
    | none => exact completes_of (contextSwitch_none on chosen) scanned
    | some d =>
      refine completes_of (contextSwitch_some on chosen) ?_
      rw [position_switchIn, position, leftBy_positions]
      exact scanned
  · obtain ⟨-, ready, other, best⟩ := nextContext_best chosen
    exact ⟨ready, other, best, (nextContext_chosen chosen).2⟩

/-! ### Lines as bytes (R198, R321) -/

/-- The 36-bit digits of a number, taken from the lowest, give it back. -/
theorem foldr_words (x k n : Nat) : ((List.range' k n).map fun i => BitVec.ofNat 36 (x / 2 ^ (36 * i))).foldr (fun w acc => w.toNat + 2 ^ 36 * acc) 0 =
    x / 2 ^ (36 * k) % 2 ^ (36 * n) := by
  induction n generalizing k with
  | zero => simp [Nat.mod_one]
  | succ n ih =>
    rw [List.range'_succ, List.map_cons, List.foldr_cons, ih, BitVec.toNat_ofNat]
    have split_ : x / 2 ^ (36 * (k + 1)) = x / 2 ^ (36 * k) / 2 ^ 36 := by rw [Nat.mul_succ, Nat.pow_add, Nat.div_div_eq_div_mul]
    rw [split_, Nat.mul_succ 36 n, Nat.add_comm (36 * n), Nat.pow_add, Nat.mod_mul]

theorem lineBytes_lineOfBytes {bs : List Byte} (size : bs.length = 72) : lineBytes (lineOfBytes bs) = bs := by
  have all : (lineOfBytes bs).foldr (fun w acc => w.toNat + 2 ^ 36 * acc) 0 = leNat bs := by
    have digits := foldr_words (leNat bs) 0 16
    rw [Nat.mul_zero, Nat.pow_zero, Nat.div_one] at digits
    have small : leNat bs < 2 ^ (36 * 16) := by
      rw [show 36 * 16 = 8 * bs.length by rw [size], Nat.pow_mul]
      exact leNat_lt bs
    rw [lineOfBytes, List.range_eq_range']
    exact digits.trans (Nat.mod_eq_of_lt small)
  rw [lineBytes, all, ← size, leBytes_leNat]

theorem lineBytes_length (l : Line) : (lineBytes l).length = 72 := leBytes_length ..

/-- The mask of some of the first positions has those bits and no others. -/
theorem mask_filter (P : Nat → Bool) (n : Nat) : ((List.range n).filter P).foldl (fun a i => a + 2 ^ i) 0 < 2 ^ n ∧
    ∀ i, (((List.range n).filter P).foldl (fun a i => a + 2 ^ i) 0).testBit i = (decide (i < n) && P i) := by
  induction n with
  | zero => simp
  | succ n ih =>
    obtain ⟨small, bits⟩ := ih
    rw [List.range_succ, List.filter_append, List.foldl_append]
    generalize ((List.range n).filter P).foldl (fun a i => a + 2 ^ i) 0 = m at small bits ⊢
    cases here : P n with
    | false =>
      rw [List.filter_singleton, here]
      refine ⟨small.trans (Nat.pow_lt_pow_succ (by decide)), fun i => (bits i).trans ?_⟩
      rcases Nat.lt_trichotomy i n with lt | rfl | gt
      · simp [lt, Nat.lt_succ_of_lt lt]
      · simp [here]
      · simp [Nat.not_lt.mpr gt.le, Nat.not_lt.mpr (Nat.succ_le_of_lt gt)]
    | true =>
      rw [List.filter_singleton, here]
      simp only [cond_true, List.foldl_cons, List.foldl_nil]
      refine ⟨by rw [Nat.pow_succ]; omega, fun i => ?_⟩
      rw [Nat.add_comm]
      rcases Nat.lt_trichotomy i n with lt | rfl | gt
      · rw [Nat.testBit_two_pow_add_gt lt, bits i]
        simp [lt, Nat.lt_succ_of_lt lt]
      · rw [Nat.testBit_two_pow_add_eq, Nat.testBit_lt_two_pow small]
        simp [here]
      · have high : 2 ^ n + m < 2 ^ i := by
          have step := Nat.pow_le_pow_right (show 2 > 0 by decide) (Nat.succ_le_of_lt gt)
          rw [Nat.pow_succ] at step
          omega
        rw [Nat.testBit_lt_two_pow high]
        simp [Nat.not_lt.mpr (Nat.succ_le_of_lt gt)]

/-! ### What the debug port's record leaves (R444, R445) -/

/-- A step that keeps the Loft, the Granary, the roster, the stalls, the contexts and the device's ID. -/
structure KeepsLines (s u : State) : Prop where
  loft : u.loft = s.loft
  positions : u.positions = s.positions
  stalls : u.stalls = s.stalls
  ctxs : u.ctxs = s.ctxs
  ym : u.ym = s.ym
  grn : u.grn = s.grn
  device : csrGet u 0x07C0000 = csrGet s 0x07C0000

namespace KeepsLines

theorem refl (s : State) : KeepsLines s s := ⟨rfl, rfl, rfl, rfl, rfl, rfl, rfl⟩

theorem trans {s u v : State} (a : KeepsLines s u) (b : KeepsLines u v) : KeepsLines s v :=
  ⟨b.loft.trans a.loft, b.positions.trans a.positions, b.stalls.trans a.stalls, b.ctxs.trans a.ctxs, b.ym.trans a.ym, b.grn.trans a.grn,
    b.device.trans a.device⟩

theorem imageOf {s u : State} (h : KeepsLines s u) (c : Nat) : imageOf u c = imageOf s c := imageOf_congr_ctxs h.ctxs c

end KeepsLines

theorem offReports_device : OffReports 0x07C0000 := by
  unfold OffReports
  decide

theorem keepsLines_trCount (s : State) {i : Nat} (hi : i < 16) : KeepsLines s (trCount s i) :=
  ⟨trCount_loft .., trCount_positions .., trCount_stalls .., trCount_ctxs .., trCount_ym .., trCount_grn ..,
    csrGet_bump_other _ (by omega) (by decide)⟩

theorem keepsLines_dbAppend (s : State) (type c : Nat) (payload : List Byte) : KeepsLines s (dbAppend s type c payload) :=
  ⟨dbAppend_loft .., dbAppend_positions .., dbAppend_stalls .., dbAppend_ctxs .., dbAppend_ym .., dbAppend_grn .., csrGet_dbAppend s offReports_device ..⟩

theorem keepsLines_writeResult (s : State) (status reason code serial : Nat) : KeepsLines s (writeResult s status reason code serial) := by
  refine ⟨writeResult_loft .., writeResult_positions .., writeResult_stalls .., writeResult_ctxs .., writeResult_ym .., writeResult_grn .., ?_⟩
  unfold writeResult
  rw [csrGet_csrSetField_other _ (by decide), csrGet_csrPut_other _ (by decide)]

theorem keepsLines_dbFault (s : State) (c code lid team handle : Nat) : KeepsLines s (dbFault s c code lid team handle) := keepsLines_dbAppend ..

/-- What is not among the lines, the roster, the stalls and the contexts may change freely. -/
theorem KeepsLines.of_parts {s u : State} (loft : u.loft = s.loft) (positions : u.positions = s.positions) (stalls : u.stalls = s.stalls)
    (ctxs : u.ctxs = s.ctxs) (ym : u.ym = s.ym) (grn : u.grn = s.grn) (csr : u.csr = s.csr) : KeepsLines s u :=
  ⟨loft, positions, stalls, ctxs, ym, grn, csrGet_congr csr _⟩

theorem keepsLines_denyRelease (s : State) (c reason serial : Nat) : KeepsLines s (denyRelease s c reason serial) := by
  have noted : KeepsLines s (denialNoted s c reason serial) :=
    ((keepsLines_writeResult ..).trans (keepsLines_dbFault _ c 0x0902 0x3FF 0 0xFFF)).trans (.of_parts rfl rfl rfl rfl rfl rfl rfl)
  rw [denyRelease_eq]
  generalize denialNoted s c reason serial = v at noted
  exact (noted.trans (keepsLines_trCount v (show 4 < 16 by decide))).trans (.of_parts rfl rfl rfl rfl rfl rfl rfl)

theorem keepsLines_wipeSlot (s : State) (g : Nat) : KeepsLines s (wipeSlot s g) :=
  .of_parts (wipeSlot_loft ..) (wipeSlot_positions ..) (wipeSlot_stalls ..) (wipeSlot_ctxs ..) (wipeSlot_ym ..) (wipeSlot_grn ..) (wipeSlot_csr ..)

theorem keepsLines_smithyClear (s : State) : KeepsLines s (smithyClear s) :=
  ⟨smithyClear_loft .., smithyClear_positions .., smithyClear_stalls .., smithyClear_ctxs .., smithyClear_ym .., smithyClear_grn ..,
    csrGet_smithyClear s (by decide)⟩

theorem KeepsLines.foldl {β : Type} {f : State → β → State} (each : ∀ s b, KeepsLines s (f s b)) (l : List β) (s : State) :
    KeepsLines s (l.foldl f s) := by
  induction l generalizing s with
  | nil => exact refl s
  | cons b l ih => exact (each s b).trans (ih _)

theorem keepsLines_releaseDenied (s : State) : KeepsLines s (releaseDenied s) := by
  unfold releaseDenied
  split
  · exact keepsLines_denyRelease ..
  · exact .refl s

theorem keepsLines_keysErased (s : State) : KeepsLines s (keysErased s) := by
  unfold keysErased
  dsimp only
  generalize hv : reportOstler _ _ _ _ _ = v
  have marked : KeepsLines s v := by
    rw [← hv]
    exact .of_parts rfl rfl rfl rfl rfl rfl rfl
  exact (marked.trans (keepsLines_releaseDenied v)).trans (.of_parts rfl rfl rfl rfl rfl rfl rfl)

theorem keepsLines_setObserved (s : State) (rec_ : List Byte) : KeepsLines s (setObserved s rec_) := by
  have wiped : KeepsLines s (sharesWiped (keysErased s)) := (keepsLines_keysErased s).trans (.foldl keepsLines_wipeSlot ..)
  rw [setObserved_eq]
  generalize sharesWiped (keysErased s) = v at wiped
  have cleared := wiped.trans (keepsLines_smithyClear v)
  generalize smithyClear v = w at cleared
  exact cleared.trans (.of_parts rfl rfl rfl rfl rfl rfl rfl)

theorem keepsLines_debugRecord (s : State) (kind addr : Nat) : KeepsLines s (debugRecord s kind addr) := by
  unfold debugRecord
  dsimp only
  have counted (payload : List Byte) := (keepsLines_dbAppend s 7 0x40 payload).trans (keepsLines_trCount _ (show 6 < 16 by decide))
  split
  · exact counted _
  · exact (counted _).trans (keepsLines_setObserved ..)

/-! ### The windows by requester (R96, R198, R199, R247, R321, R362, R364) -/

section
variable {s : State} {p : Position} {off : Nat}

/-- The ID space holds no context 64, so a line that is valid is never tagged so. -/
theorem loftRead_none (s : State) (q n : Nat) : loftRead s q n 64 = none := by
  unfold loftRead
  dsimp only
  refine if_neg fun both => ?_
  simp only [Bool.and_eq_true, decide_eq_true_eq] at both
  have small := (loftLine s q n).tag.isLt
  omega

/-- What a read through the window does of one line: its parity is checked. -/
def rowSwept (p c : Nat) (s : State) (n : Nat) : State :=
  let l := loftLine s p n
  if n < 10912 && l.valid && l.tag.toNat = c then
    match parityFailures l.words l.par with
    | 0 => s
    | k => parityFailed s p n k true
  else s

/-- The byte that the window shows at an offset. -/
def shownByte (s : State) (p c a : Nat) : Byte :=
  if a / 96 < 10912 then
    match loftRead s p (a / 96) c with
    | some l => windowByte l (a % 96)
    | none => 0
  else 0

/-- The state after a read through the window. -/
def windowRead (s : State) (p c off len : Nat) : State :=
  { ((List.range len).map fun i => (off + i) / 96).dedup.foldl (rowSwept p c) s with
    bus := (List.range len).map fun i => shownByte s p c (off + i) }

theorem rowSwept_none (q : Nat) (s : State) (n : Nat) : rowSwept q 64 s n = s := by
  refine if_neg fun both => ?_
  simp only [Bool.and_eq_true, decide_eq_true_eq] at both
  have small := (loftLine s q n).tag.isLt
  omega

theorem rowSwept_keeps (q c : Nat) (s : State) (n : Nat) : (rowSwept q c s n).loft = s.loft ∧ (rowSwept q c s n).stalls = s.stalls := by
  unfold rowSwept
  dsimp only
  split
  · split
    · exact ⟨rfl, rfl⟩
    · exact ⟨parityFailed_loft .., parityFailed_stalls ..⟩
  · exact ⟨rfl, rfl⟩

theorem loftWindow_ostler_read (s : State) (p : Position) (off len : Nat) : exec (.loftWindowAccess .ostler p off (.read len)) s =
    .next { wakeNap s p with bus := List.replicate len 0 } := by
  have lines (l : List Nat) (v : State) : l.foldl (rowSwept p 64) v = v := foldl_keeps id (fun v n => rowSwept_none p v n) l v
  have bytes (v : State) (a : Nat) : shownByte v p 64 a = 0 := by
    unfold shownByte
    rw [loftRead_none]
    exact ite_self 0
  refine (show _ = Host.Outcome.next (windowRead (wakeNap s p) p 64 off len) from rfl).trans ?_
  simp only [windowRead, lines, bytes, List.map_const', List.length_range]

theorem loftWindow_ostler_write (s : State) (p : Position) (off : Nat) (data : List Byte) :
    exec (.loftWindowAccess .ostler p off (.write data)) s = .next (wakeNap s p) := rfl

theorem granaryWindow_ostler_read (s : State) (off len : Nat) : exec (.granaryWindowAccess .ostler off (.read len)) s =
    .next { s with bus := List.replicate len 0 } := by
  refine (show _ = Host.Outcome.next { s with bus := (List.range len).map fun _ => (0 : Byte) } from rfl).trans ?_
  rw [List.map_const', List.length_range]

theorem granaryWindow_ostler_write (s : State) (off : Nat) (data : List Byte) :
    exec (.granaryWindowAccess .ostler off (.write data)) s = .next s :=
  congrArg Host.Outcome.next (foldl_keeps id (fun _ _ => rfl) _ _)

theorem vf_effect (n : Fin 64) {i : Instr} (run : exec i s = .next (if s.gate.linkUp then aerError s n.val .unsupportedRequest else s)) :
    Completes i s fun u => u = { s with gate := u.gate } ∧
      (s.gate.linkUp = true → s.gate.bridge = true → (n.val, .unsupportedRequest) ∈ u.gate.aer) ∧ (s.gate.linkUp = false → u = s) := by
  refine completes_of run ⟨?_, fun up bridge => ?_, fun down => ?_⟩
  · split
    · unfold aerError
      split
      · rfl
      · rfl
    · rfl
  · rw [if_pos up, aerError, bridge, Bool.true_and]
    split
    · exact List.mem_append_right _ List.mem_cons_self
    · next there => simpa using there
  · rw [down, if_neg Bool.false_ne_true]

theorem loftWindow_debug_read (s : State) (p : Position) (off len : Nat) : Completes (.loftWindowAccess .debugPort p off (.read len)) s fun u =>
    u.bus = (List.range len).map (fun i => shownByte s p (runningNo s) (off + i)) ∧ u.loft = s.loft ∧
    ((stall s p).pwr = .nap → (stall u p).pwr = .run) := by
  have seen := keepsLines_debugRecord s 2 (0x8000000000 + p * 2 ^ 20 + off)
  have run : exec (.loftWindowAccess .debugPort p off (.read len)) s =
    .next (windowRead (wakeNap (debugRecord s 2 (0x8000000000 + p * 2 ^ 20 + off)) p) p (runningNo (debugRecord s 2 (0x8000000000 + p * 2 ^ 20 + off)))
      off len) := rfl
  generalize debugRecord s 2 (0x8000000000 + p * 2 ^ 20 + off) = v at seen run
  have running : runningNo v = runningNo s := by rw [runningNo, seen.ym, runningNo]
  have loft : (wakeNap v p).loft = s.loft := (wakeNap_loft ..).trans seen.loft
  have kept (l : List Nat) (v : State) : (l.foldl (rowSwept p (runningNo s)) v).loft = v.loft ∧
      (l.foldl (rowSwept p (runningNo s)) v).stalls = v.stalls :=
    ⟨foldl_keeps State.loft (fun v n => (rowSwept_keeps ..).1) l v, foldl_keeps State.stalls (fun v n => (rowSwept_keeps ..).2) l v⟩
  rw [running] at run
  refine completes_of run ⟨?_, (kept ..).1.trans loft, fun naps => ?_⟩
  · have bytes (a : Nat) : shownByte (wakeNap v p) p (runningNo s) a = shownByte s p (runningNo s) a := by
      unfold shownByte loftRead loftLine
      rw [loft]
    simp only [windowRead, bytes]
  · have woken : (stall (wakeNap v p) p).pwr = .run := by
      have stalls : stall v p = stall s p := by rw [stall, seen.stalls, stall]
      rw [wakeNap, stalls, if_pos naps, stall_modStall_same]
    refine (congrArg (fun m => (nget ({} : Stall) m p).pwr) (kept ..).2).trans woken

end

/-! ### Writes through the Loft's window (R198, R199, R247) -/

/-- What a write through the window does of one line. -/
def rowWritten (off : Nat) (data : List Byte) (p c : Nat) (s : State) (n : Nat) : State :=
  if 10912 ≤ n then s else
  let lo := max off (96 * n)
  let hi := min (off + data.length) (96 * n + 96)
  windowWriteLine s p c n (lo - 96 * n) ((data.drop (lo - off)).take (hi - lo))

/-- The lines that an access of some length reaches. -/
def rowsOf (off len : Nat) : List Nat := ((List.range len).map fun i => (off + i) / 96).dedup

theorem loftWindow_debug_write (s : State) (p : Position) (off : Nat) (data : List Byte) :
    exec (.loftWindowAccess .debugPort p off (.write data)) s = .next (
      let v := wakeNap (debugRecord s 3 (0x8000000000 + p * 2 ^ 20 + off)) p
      let c := runningNo (debugRecord s 3 (0x8000000000 + p * 2 ^ 20 + off))
      if c = 64 || !powered v p then v else (rowsOf off data.length).foldl (rowWritten off data p c) v) := rfl

section
variable {s : State} {p c n i off : Nat} {data : List Byte}

/-- The word's container is wholly in the access. -/
def Covered (off : Nat) (data : List Byte) (n i : Nat) : Prop := off ≤ 96 * n + 6 * i ∧ 96 * n + 6 * i + 6 ≤ off + data.length

/-- The lines of the PERSIST and SHARED ranges that hold no descriptor. -/
def Open_ (s : State) (p c n : Nat) : Prop := descriptorLine s p c n = false ∧
  (((imageOf s c).claims.persistBase ≤ n ∧ n < (imageOf s c).claims.persistBase + (imageOf s c).claims.persistLen) ∨
    ((imageOf s c).claims.sharedBase ≤ n ∧ n < (imageOf s c).claims.sharedBase + (imageOf s c).claims.sharedLen))

/-- The part of an access's bytes that lies in a row. -/
def rowBytes (off : Nat) (data : List Byte) (n : Nat) : List Byte :=
  (data.drop (max off (96 * n) - off)).take (min (off + data.length) (96 * n + 96) - max off (96 * n))

theorem covered_iff (hi : i < 16) : (max off (96 * n) - 96 * n ≤ 6 * i ∧ 6 * i + 6 ≤ max off (96 * n) - 96 * n + (rowBytes off data n).length) ↔
    Covered off data n i := by
  unfold rowBytes Covered
  rw [List.length_take, List.length_drop]
  omega

theorem rowBytes_word (hi : i < 16) (covered : Covered off data n i) :
    ((rowBytes off data n).drop (6 * i - (max off (96 * n) - 96 * n))).take 6 = (data.drop (96 * n + 6 * i - off)).take 6 := by
  obtain ⟨above, below⟩ := covered
  have at_ : max off (96 * n) - off + (6 * i - (max off (96 * n) - 96 * n)) = 96 * n + 6 * i - off := by omega
  have room : min 6 (min (off + data.length) (96 * n + 96) - max off (96 * n) - (6 * i - (max off (96 * n) - 96 * n))) = 6 := by omega
  rw [rowBytes, List.drop_take, List.take_take, List.drop_drop, room, at_]

/-- The words of a row that an access gives, and the mask of those it covers. -/
def rowWords (off : Nat) (data : List Byte) (n : Nat) : Line :=
  (List.range 16).map fun i => BitVec.ofNat 36 (leNat (((rowBytes off data n).drop (6 * i - (max off (96 * n) - 96 * n))).take 6))

def rowFull (off : Nat) (data : List Byte) (n : Nat) : List Nat :=
  (List.range 16).filter fun i => max off (96 * n) - 96 * n ≤ 6 * i && 6 * i + 6 ≤ max off (96 * n) - 96 * n + (rowBytes off data n).length

theorem rowWritten_eq (s : State) (p c off n : Nat) (data : List Byte) : rowWritten off data p c s n =
    if 10912 ≤ n then s else
    if !(((imageOf s c).claims.persistBase ≤ n && n < (imageOf s c).claims.persistBase + (imageOf s c).claims.persistLen) ||
        ((imageOf s c).claims.sharedBase ≤ n && n < (imageOf s c).claims.sharedBase + (imageOf s c).claims.sharedLen)) ||
      rowFull off data n = [] || descriptorLine s p c n then s
    else loftWrite s p n c (rowWords off data n) ((rowFull off data n).foldl (fun a i => a + 2 ^ i) 0) := rfl

theorem bitOf_rowFull (hi : i < 16) : bitOf ((rowFull off data n).foldl (fun a i => a + 2 ^ i) 0) i = true ↔ Covered off data n i := by
  rw [bitOf_eq_testBit, rowFull, (mask_filter _ 16).2, ← covered_iff hi]
  simp [hi]

theorem wordAt_rowWords (hi : i < 16) (covered : Covered off data n i) :
    wordAt (rowWords off data n) i = BitVec.ofNat 36 (leNat ((data.drop (96 * n + 6 * i - off)).take 6)) := by
  rw [← rowBytes_word hi covered]
  simp [wordAt, rowWords, hi]

/-- The row is left, or the words that the access covers are written over. -/
theorem rowWritten_cases (s : State) (p c off n : Nat) (data : List Byte) :
    (rowWritten off data p c s n = s ∧ ∀ i, i < 16 → n < 10912 → Open_ s p c n → ¬Covered off data n i) ∨
    (n < 10912 ∧ Open_ s p c n ∧
      rowWritten off data p c s n = loftWrite s p n c (rowWords off data n) ((rowFull off data n).foldl (fun a i => a + 2 ^ i) 0)) := by
  by_cases far : 10912 ≤ n
  · exact .inl ⟨if_pos far, fun i _ near => absurd near (Nat.not_lt.mpr far)⟩
  by_cases shut : (!(((imageOf s c).claims.persistBase ≤ n && n < (imageOf s c).claims.persistBase + (imageOf s c).claims.persistLen) ||
        ((imageOf s c).claims.sharedBase ≤ n && n < (imageOf s c).claims.sharedBase + (imageOf s c).claims.sharedLen)) ||
      rowFull off data n = [] || descriptorLine s p c n) = true
  · refine .inl ⟨(rowWritten_eq ..).trans ((if_neg far).trans (if_pos shut)), fun i hi _ free covered => ?_⟩
    have full : i ∈ rowFull off data n := List.mem_filter.mpr ⟨List.mem_range.mpr hi, by simpa using (covered_iff hi).mpr covered⟩
    have some_ : rowFull off data n ≠ [] := List.ne_nil_of_mem full
    obtain ⟨plain, range⟩ := free
    simp [some_, plain] at shut
    omega
  · refine .inr ⟨Nat.not_le.mp far, ?_, (rowWritten_eq ..).trans ((if_neg far).trans (if_neg shut))⟩
    have free : descriptorLine s p c n = false ∧ ¬rowFull off data n = [] ∧
        (n < (imageOf s c).claims.persistBase ∨ (imageOf s c).claims.persistBase + (imageOf s c).claims.persistLen ≤ n →
          (imageOf s c).claims.sharedBase ≤ n ∧ n < (imageOf s c).claims.sharedBase + (imageOf s c).claims.sharedLen) := by
      simpa [and_comm, and_assoc, and_left_comm] using shut
    exact ⟨free.1, by omega⟩

/-! What a write through the window leaves of each line. -/

/-- A state that differs in the Loft alone. -/
def OnlyLoft (s u : State) : Prop := ∃ l, u = { s with loft := l }

theorem open_of_onlyLoft {u : State} (h : OnlyLoft s u) : Open_ u p c n ↔ Open_ s p c n := by
  obtain ⟨l, rfl⟩ := h
  exact Iff.rfl

theorem onlyLoft_rowWritten (s : State) (p c off n : Nat) (data : List Byte) : OnlyLoft s (rowWritten off data p c s n) := by
  rcases rowWritten_cases s p c off n data with ⟨left, -⟩ | ⟨-, -, wrote⟩
  · exact ⟨s.loft, left⟩
  · exact ⟨_, wrote⟩

theorem loftLine_rowWritten_other {q m : Nat} (other : loftKey q m ≠ loftKey p n) (s : State) :
    loftLine (rowWritten off data p c s n) q m = loftLine s q m := by
  rcases rowWritten_cases s p c off n data with ⟨left, -⟩ | ⟨-, -, wrote⟩
  · rw [left]
  · rw [wrote]
    exact nget_nset_other _ _ other _

theorem loftLine_foldl_other {q m : Nat} {l : List Nat} (other : ∀ n ∈ l, n < 10912 → loftKey q m ≠ loftKey p n) (s : State) :
    loftLine (l.foldl (rowWritten off data p c) s) q m = loftLine s q m := by
  induction l generalizing s with
  | nil => rfl
  | cons n l ih =>
    rw [List.foldl_cons, ih fun k mem => other k (List.mem_cons_of_mem _ mem)]
    by_cases far : 10912 ≤ n
    · rw [rowWritten, if_pos far]
    · exact loftLine_rowWritten_other (other n List.mem_cons_self (Nat.not_le.mp far)) s

/-- A row in reach is written once, in a state that has not changed it before. -/
theorem loftLine_foldl_same {l : List Nat} (nodup : l.Nodup) (mem : n ∈ l) (s : State) : ∃ t, OnlyLoft s t ∧ loftLine t p n = loftLine s p n ∧
    loftLine (l.foldl (rowWritten off data p c) s) p n = loftLine (rowWritten off data p c t n) p n := by
  have apart {k : Nat} (ne : n ≠ k) : loftKey p n ≠ loftKey p k := by
    unfold loftKey
    omega
  induction l generalizing s with
  | nil => cases mem
  | cons k l ih =>
    obtain ⟨fresh, nodup⟩ := List.nodup_cons.mp nodup
    by_cases here : n = k
    · subst here
      exact ⟨s, ⟨s.loft, rfl⟩, rfl, loftLine_foldl_other (fun m mem _ => apart fun same => fresh (same ▸ mem)) _⟩
    · obtain ⟨t, ⟨l', only⟩, same, after⟩ := ih nodup ((List.mem_cons.mp mem).resolve_left here) (rowWritten off data p c s k)
      obtain ⟨l'', first⟩ := onlyLoft_rowWritten s p c off k data
      exact ⟨t, ⟨l', by rw [only, first]⟩, same.trans (loftLine_rowWritten_other (apart here) s), after⟩

theorem mem_rowsOf {i : Nat} (hi : i < 16) (covered : Covered off data n i) : n ∈ rowsOf off data.length := by
  obtain ⟨above, below⟩ := covered
  exact List.mem_dedup.mpr (List.mem_map.mpr ⟨96 * n + 6 * i - off, List.mem_range.mpr (by omega), by omega⟩)

/-- Each line is left, or the words that the access covers are written over. -/
theorem loftLine_written (s : State) (p c off n : Nat) (data : List Byte) :
    (loftLine ((rowsOf off data.length).foldl (rowWritten off data p c) s) p n = loftLine s p n ∧
      ∀ i, i < 16 → n < 10912 → Open_ s p c n → ¬Covered off data n i) ∨
    (n < 10912 ∧ Open_ s p c n ∧ ∃ t, loftLine t p n = loftLine s p n ∧
      loftLine ((rowsOf off data.length).foldl (rowWritten off data p c) s) p n =
        loftLine (loftWrite t p n c (rowWords off data n) ((rowFull off data n).foldl (fun a i => a + 2 ^ i) 0)) p n) := by
  by_cases mem : n ∈ rowsOf off data.length
  · obtain ⟨t, only, same, after⟩ := loftLine_foldl_same (p := p) (c := c) (off := off) (data := data) (List.nodup_dedup _) mem s
    rcases rowWritten_cases t p c off n data with ⟨left, uncovered⟩ | ⟨near, free, wrote⟩
    · refine .inl ⟨after.trans ((congrArg (loftLine · p n) left).trans same), fun i hi near free => uncovered i hi near ((open_of_onlyLoft only).mpr free)⟩
    · exact .inr ⟨near, (open_of_onlyLoft only).mp free, t, same, after.trans (by rw [wrote])⟩
  · refine .inl ⟨loftLine_foldl_other (fun k there _ => ?_) s, fun i hi _ _ covered => mem (mem_rowsOf hi covered)⟩
    unfold loftKey
    have ne : n ≠ k := fun same => mem (same ▸ there)
    omega

theorem loftRead_congr_line {u : State} {q : Nat} (same : loftLine u q n = loftLine s q n) (c : Nat) : loftRead u q n c = loftRead s q n c := by
  rw [loftRead, same, loftRead]

end

theorem wordAt_merged {i mask : Nat} (hi : i < 16) (ws base : Line) :
    wordAt ((List.range 16).map fun i => if bitOf mask i then wordAt ws i else wordAt base i) i = if bitOf mask i then wordAt ws i else wordAt base i := by
  rw [wordAt, List.getD_eq_getElem?_getD, List.getElem?_map, List.getElem?_range hi, Option.map_some, Option.getD_some]

theorem loftWindow_written (s : State) (p : Position) (off : Nat) (data : List Byte) :
    Completes (.loftWindowAccess .debugPort p off (.write data)) s fun u =>
      (∀ n i, n < 10912 → powered s p = true → runningNo s < 64 → Open_ s p (runningNo s) n → i < 16 → Covered off data n i →
        ∃ l, loftRead u p n (runningNo s) = some l ∧ wordAt l i = BitVec.ofNat 36 (leNat ((data.drop (96 * n + 6 * i - off)).take 6))) ∧
      (∀ n i l, i < 16 → ¬((n < 10912 ∧ powered s p = true ∧ runningNo s < 64 ∧ Open_ s p (runningNo s) n) ∧ Covered off data n i) →
        loftRead s p n (runningNo s) = some l → ∃ v, loftRead u p n (runningNo s) = some v ∧ wordAt v i = wordAt l i) ∧
      (∀ n, ¬(n < 10912 ∧ powered s p = true ∧ runningNo s < 64 ∧ Open_ s p (runningNo s) n) → loftLine u p n = loftLine s p n) ∧
      ∀ q n, q ≠ (p : Nat) → q < 832 → n < 16384 → loftLine u q n = loftLine s q n := by
  have seen := keepsLines_debugRecord s 3 (0x8000000000 + p * 2 ^ 20 + off)
  have run := loftWindow_debug_write s p off data
  dsimp only at run
  generalize debugRecord s 3 (0x8000000000 + p * 2 ^ 20 + off) = w at seen run
  have running : runningNo w = runningNo s := by rw [runningNo, seen.ym, runningNo]
  rw [running] at run
  generalize hv : wakeNap w p = v at run
  have loft (q n : Nat) : loftLine v q n = loftLine s q n := by rw [← hv, loftLine, wakeNap_loft, seen.loft, loftLine]
  have positions : v.positions = s.positions := by rw [← hv, wakeNap_positions, seen.positions]
  have image (c : Nat) : imageOf v c = imageOf s c := by rw [← hv, imageOf_congr_ctxs (wakeNap_ctxs ..), seen.imageOf]
  have power : powered v p = powered s p := by rw [powered, position, positions, powered, position]
  have open_ (n : Nat) : Open_ v p (runningNo s) n ↔ Open_ s p (runningNo s) n := by
    have device : deviceId v = deviceId s := by
      rw [← hv]
      exact (deviceId_congr (csrGet_congr (wakeNap_csr ..) _)).trans (deviceId_congr seen.device)
    have lid : lidOf v p = lidOf s p := by rw [lidOf, position, positions, lidOf, position]
    unfold Open_ descriptorLine
    rw [image, device, lid]
  rw [power] at run
  by_cases off_ : (runningNo s = 64 || !powered s p) = true
  · rw [if_pos off_] at run
    have shut (n : Nat) : ¬(n < 10912 ∧ powered s p = true ∧ runningNo s < 64 ∧ Open_ s p (runningNo s) n) := by
      rintro ⟨-, on, small, -⟩
      rw [on, decide_eq_false (Nat.ne_of_lt small)] at off_
      cases off_
    refine completes_of run ⟨fun n i near on small free _ _ => absurd ⟨near, on, small, free⟩ (shut n), fun n i l _ _ read => ?_, fun n _ => loft ..,
      fun q n _ _ _ => loft ..⟩
    exact ⟨l, (loftRead_congr_line (loft ..) _).trans read, rfl⟩
  · rw [if_neg off_] at run
    rw [Bool.or_eq_true, decide_eq_true_eq, not_or] at off_
    have small : runningNo s < 64 := Nat.lt_of_le_of_ne (runningNo_le s) off_.1
    have on : powered s p = true := by simpa using off_.2
    have written (n : Nat) := loftLine_written v p (runningNo s) off n data
    have merged (n : Nat) (t : State) (same : loftLine t p n = loftLine v p n) :=
      loftRead_loftWrite t p n (runningNo s) small (rowWords off data n) ((rowFull off data n).foldl (fun a i => a + 2 ^ i) 0)
    refine completes_of run ⟨fun n i near _ _ free hi covered => ?_, fun n i l hi not_ read => ?_, fun n shut => ?_, fun q n ne hq hn => ?_⟩
    · obtain ⟨-, uncovered⟩ | ⟨-, -, t, same, after⟩ := written n
      · exact absurd covered (uncovered i hi near ((open_ n).mpr free))
      · refine ⟨_, (loftRead_congr_line after _).trans (merged n t same), ?_⟩
        rw [wordAt_merged hi, if_pos ((bitOf_rowFull hi).mpr covered), wordAt_rowWords hi covered]
    · obtain ⟨left, -⟩ | ⟨near, free, t, same, after⟩ := written n
      · exact ⟨l, (loftRead_congr_line (left.trans (loft ..)) _).trans read, rfl⟩
      · refine ⟨_, (loftRead_congr_line after _).trans (merged n t same), ?_⟩
        have uncovered : ¬Covered off data n i := fun covered => not_ ⟨⟨near, on, small, (open_ n).mp free⟩, covered⟩
        have before : loftRead t p n (runningNo s) = some l := (loftRead_congr_line (same.trans (loft ..)) _).trans read
        rw [wordAt_merged hi, if_neg fun covered => uncovered ((bitOf_rowFull hi).mp covered), before, Option.getD_some]
    · obtain ⟨left, -⟩ | ⟨near, free, -⟩ := written n
      · exact left.trans (loft ..)
      · exact absurd ⟨near, on, small, (open_ n).mp free⟩ shut
    · exact (loftLine_foldl_other (fun k _ near => loftKey_ne (near.trans (by decide)) hn (.inl ne)) v).trans (loft ..)

/-! ### The Granary's window (R198, R321, R364) -/

/-- The cached line that the debug port finds at a slot: one that stands in a window of the context that tagged it. -/
def shownLine (s : State) (slot : Nat) : Option (Nat × GLine) :=
  match taggedBy s slot with
  | some c => if (backingOf s c slot).isSome then (grnLine s c slot).map fun l => (c, l) else none
  | none => none

/-- What a write through the window does of one byte. -/
def byteWritten (v : State) (off : Nat) (s : State) (x : Byte × Nat) : State :=
  let slot := (off + x.2) / 128
  let k := (off + x.2) % 128
  match shownLine v slot with
  | some (c, _) =>
    if 72 ≤ k then s else
    match grnLine s c slot with
    | some l => putLine s c slot { l with words := lineOfBytes ((lineBytes l.words).set k x.1), dirty := true }
    | none => s
  | none => s

/-- The byte that the window shows at an offset. -/
def shownGrnByte (s : State) (a : Nat) : Byte :=
  match shownLine s (a / 128) with
  | some (_, l) => (slotBytes l.words).getD (a % 128) 0
  | none => 0

theorem granaryWindow_debug_read (s : State) (off len : Nat) : exec (.granaryWindowAccess .debugPort off (.read len)) s =
    .next { debugRecord s 2 (0x9000000000 + off) with
      bus := (List.range len).map fun i => shownGrnByte (debugRecord s 2 (0x9000000000 + off)) (off + i) } := rfl

theorem granaryWindow_debug_write (s : State) (off : Nat) (data : List Byte) : exec (.granaryWindowAccess .debugPort off (.write data)) s =
    .next (data.zipIdx.foldl (byteWritten (debugRecord s 3 (0x9000000000 + off)) off) (debugRecord s 3 (0x9000000000 + off))) := rfl

section
variable {s v : State} {slot t : Nat} {l : GLine}

theorem shownLine_of_tagged (tagged : taggedBy s slot = some t) (stands : (backingOf s t slot).isSome = true) (line : grnLine s t slot = some l) :
    shownLine s slot = some (t, l) := by
  rw [shownLine, tagged]
  dsimp only
  rw [if_pos stands, line]
  rfl

theorem shownLine_of_none (none_ : taggedBy s slot = none) : shownLine s slot = none := by
  rw [shownLine, none_]

theorem shownLine_congr {u : State} (h : KeepsLines s u) (slot : Nat) : shownLine u slot = shownLine s slot := by
  have line (c : Nat) : grnLine u c slot = grnLine s c slot := by rw [grnLine, h.grn, grnLine]
  have backing (c : Nat) : backingOf u c slot = backingOf s c slot := by rw [backingOf, h.imageOf, ctx, h.ctxs, backingOf, ctx]
  unfold shownLine taggedBy
  simp only [line, backing]

theorem slotBytes_getD (w : Line) {k : Nat} (hk : k < 128) : (slotBytes w).getD k 0 = (lineBytes w).getD k 0 := by
  have size := lineBytes_length w
  rw [slotBytes, padTo, List.getD_eq_getElem?_getD, List.getElem?_take_of_lt hk, List.getElem?_append, List.getD_eq_getElem?_getD]
  split
  · rfl
  · next out =>
    rw [List.getElem?_eq_none (Nat.not_lt.mp out), List.getElem?_replicate]
    split <;> rfl

theorem granaryRead_effect (s : State) (off len : Nat) : Completes (.granaryWindowAccess .debugPort off (.read len)) s fun u =>
    u.bus.length = len ∧ u.grn = s.grn ∧ ∀ i, i < len →
      (∀ t l, taggedBy s ((off + i) / 128) = some t → (backingOf s t ((off + i) / 128)).isSome = true →
        grnLine s t ((off + i) / 128) = some l → u.bus.getD i 0 = (lineBytes l.words).getD ((off + i) % 128) 0) ∧
      (taggedBy s ((off + i) / 128) = none → u.bus.getD i 0 = 0) := by
  have seen := keepsLines_debugRecord s 2 (0x9000000000 + off)
  have run := granaryWindow_debug_read s off len
  generalize debugRecord s 2 (0x9000000000 + off) = v at seen run
  have byte {i : Nat} (hi : i < len) : ((List.range len).map fun i => shownGrnByte v (off + i)).getD i 0 = shownGrnByte v (off + i) := by
    rw [List.getD_eq_getElem?_getD, List.getElem?_map, List.getElem?_range hi, Option.map_some, Option.getD_some]
  refine completes_of run ⟨by rw [List.length_map, List.length_range], seen.grn, fun i hi => ⟨fun t l tagged stands line => ?_, fun none_ => ?_⟩⟩
  · refine (byte hi).trans ?_
    rw [shownGrnByte, shownLine_congr seen, shownLine_of_tagged tagged stands line]
    exact slotBytes_getD _ (Nat.mod_lt _ (by decide))
  · refine (byte hi).trans ?_
    rw [shownGrnByte, shownLine_congr seen, shownLine_of_none none_]

/-! Writes. -/

theorem grnLine_putLine_same (s : State) (c slot : Nat) (l : GLine) : grnLine (putLine s c slot l) c slot = some { l with use := s.grn.use } :=
  nget_nset_same none s.grn.lines (grnKey c slot) (some { l with use := s.grn.use })

theorem grnLine_putLine_other {c d k : Nat} (hslot : slot < 2 ^ 21) (hk : k < 2 ^ 21) (h : k ≠ slot ∨ d ≠ c) (s : State) (l : GLine) :
    grnLine (putLine s c slot l) d k = grnLine s d k := by
  have apart : grnKey d k ≠ grnKey c slot := by
    unfold grnKey
    omega
  exact nget_nset_other none s.grn.lines apart (some { l with use := s.grn.use })

/-- A cached line with its mark, as bytes. -/
def Holds (s : State) (t slot : Nat) (poison : Bool) (bs : List Byte) : Prop :=
  ∃ l, grnLine s t slot = some l ∧ l.poison = poison ∧ lineBytes l.words = bs

/-- What one written byte leaves of a line that the window shows. -/
theorem holds_byteWritten {off : Nat} {w : State} {x : Byte × Nat} {poison : Bool} {bs : List Byte} (shown : shownLine v slot = some (t, l))
    (hslot : slot < 2 ^ 21) (hx : (off + x.2) / 128 < 2 ^ 21) (held : Holds w t slot poison bs) : Holds (byteWritten v off w x) t slot poison
      (if (off + x.2) / 128 = slot ∧ (off + x.2) % 128 < 72 then bs.set ((off + x.2) % 128) x.1 else bs) := by
  obtain ⟨l', line, mark, bytes⟩ := held
  unfold byteWritten
  dsimp only
  by_cases here : (off + x.2) / 128 = slot
  · rw [here, shown]
    dsimp only
    by_cases inside : (off + x.2) % 128 < 72
    · rw [if_neg (Nat.not_le.mpr inside), if_pos ⟨rfl, inside⟩, line]
      refine ⟨_, grnLine_putLine_same .., mark, ?_⟩
      have size : ((lineBytes l'.words).set ((off + x.2) % 128) x.1).length = 72 := by rw [List.length_set, lineBytes_length]
      exact (lineBytes_lineOfBytes size).trans (by rw [bytes])
    · rw [if_pos (Nat.not_lt.mp inside), if_neg fun h => inside h.2]
      exact ⟨l', line, mark, bytes⟩
  · rw [if_neg fun h => here h.1]
    have same (u : State) (h : grnLine u t slot = grnLine w t slot) : Holds u t slot poison bs := ⟨l', h.trans line, mark, bytes⟩
    split
    · split
      · exact same _ rfl
      split
      · exact same _ (grnLine_putLine_other hx hslot (.inl (Ne.symm here)) ..)
      · exact same _ rfl
    · exact same _ rfl

/-- A byte that is set where a line's offset lies is that byte there, and no other changes. -/
theorem getD_setAt {bs : List Byte} {a k : Nat} {b : Byte} (hk : k < bs.length) (small : k < 72) :
    (if a / 128 = slot ∧ a % 128 < 72 then bs.set (a % 128) b else bs).getD k 0 = if a = 128 * slot + k then b else bs.getD k 0 := by
  by_cases at_ : a = 128 * slot + k
  · rw [if_pos at_, if_pos (by omega), List.getD_eq_getElem?_getD, show a % 128 = k by omega, List.getElem?_set_self hk, Option.getD_some]
  · rw [if_neg at_]
    split
    · rw [List.getD_eq_getElem?_getD, List.getElem?_set_ne (by omega), List.getD_eq_getElem?_getD]
    · rfl

/-- A written run of bytes takes its places in the line. -/
theorem holds_foldl {off : Nat} {poison : Bool} (shown : shownLine v slot = some (t, l)) (hslot : slot < 2 ^ 21) (data : List Byte) (j : Nat)
    (fits : off + j + data.length ≤ 2 ^ 28) (w : State) (bs : List Byte) (size : bs.length = 72) (held : Holds w t slot poison bs) :
    ∃ bs', Holds ((data.zipIdx j).foldl (byteWritten v off) w) t slot poison bs' ∧ ∀ k, k < 72 → bs'.getD k 0 =
      if off + j ≤ 128 * slot + k ∧ 128 * slot + k < off + j + data.length then data.getD (128 * slot + k - (off + j)) 0 else bs.getD k 0 := by
  induction data generalizing j w bs with
  | nil => exact ⟨bs, held, fun k _ => (if_neg fun both => by simp only [List.length_nil] at both; omega).symm⟩
  | cons b data ih =>
    rw [List.length_cons] at fits
    have one := holds_byteWritten (x := (b, j)) shown hslot (Nat.div_lt_of_lt_mul (show off + j < 128 * 2 ^ 21 by omega)) held
    have size' : (if (off + j) / 128 = slot ∧ (off + j) % 128 < 72 then bs.set ((off + j) % 128) b else bs).length = 72 := by
      split
      · rw [List.length_set, size]
      · exact size
    obtain ⟨bs', after, bytes⟩ := ih (j + 1) (by omega) _ _ size' one
    refine ⟨bs', after, fun k hk => (bytes k hk).trans ?_⟩
    rw [List.length_cons, getD_setAt (hk.trans_eq size.symm) hk]
    rcases Nat.lt_trichotomy (off + j) (128 * slot + k) with past | at_ | ahead
    · have next_ : 128 * slot + k - (off + j) = 128 * slot + k - (off + (j + 1)) + 1 := by omega
      rw [if_neg (Nat.ne_of_lt past), next_, List.getD_cons_succ]
      refine if_congr (by omega) rfl rfl
    · rw [if_neg (by omega), if_pos at_, if_pos (by omega), at_, Nat.sub_self, List.getD_cons_zero]
    · rw [if_neg (by omega), if_neg (Nat.ne_of_gt ahead), if_neg (by omega)]

theorem taggedBy_none_iff : taggedBy s slot = none ↔ ∀ c, c < 64 → grnLine s c slot = none := by
  simp [taggedBy, List.find?_eq_none]

theorem untagged_byteWritten {off : Nat} {x : Byte × Nat} (none_ : shownLine v slot = none) (hslot : slot < 2 ^ 21)
    (hx : (off + x.2) / 128 < 2 ^ 21) (c : Nat) (w : State) : grnLine (byteWritten v off w x) c slot = grnLine w c slot := by
  unfold byteWritten
  dsimp only
  split
  · next shown =>
    have apart : slot ≠ (off + x.2) / 128 := by
      rintro rfl
      rw [none_] at shown
      cases shown
    split
    · rfl
    split
    · exact grnLine_putLine_other hx hslot (.inl apart) ..
    · rfl
  · rfl

theorem granaryWrite_effect (s : State) {off : Nat} {data : List Byte} (fits : off + data.length ≤ 2 ^ 28) :
    Completes (.granaryWindowAccess .debugPort off (.write data)) s fun u =>
      (∀ slot t l, slot < 2 ^ 21 → taggedBy s slot = some t → (backingOf s t slot).isSome = true → grnLine s t slot = some l →
        l.words.length = 16 → ∃ v, grnLine u t slot = some v ∧ v.poison = l.poison ∧ ∀ k, k < 72 → (lineBytes v.words).getD k 0 =
          if off ≤ 128 * slot + k ∧ 128 * slot + k < off + data.length then data.getD (128 * slot + k - off) 0
          else (lineBytes l.words).getD k 0) ∧
      ∀ slot, slot < 2 ^ 21 → taggedBy s slot = none → taggedBy u slot = none := by
  have seen := keepsLines_debugRecord s 3 (0x9000000000 + off)
  have run := granaryWindow_debug_write s off data
  generalize debugRecord s 3 (0x9000000000 + off) = v at seen run
  have same (c slot : Nat) : grnLine v c slot = grnLine s c slot := by rw [grnLine, seen.grn, grnLine]
  refine completes_of run ⟨fun slot t l hslot tagged stands line _ => ?_, fun slot hslot none_ => ?_⟩
  · have shown : shownLine v slot = some (t, l) := (shownLine_congr seen slot).trans (shownLine_of_tagged tagged stands line)
    obtain ⟨bs, ⟨x, after, mark, rfl⟩, bytes⟩ := holds_foldl shown hslot data 0 (by omega) v (lineBytes l.words) (lineBytes_length _)
      ⟨l, (same t slot).trans line, rfl, rfl⟩
    exact ⟨x, after, mark, fun k hk => by simpa only [Nat.add_zero] using bytes k hk⟩
  · have hidden : shownLine v slot = none := (shownLine_congr seen slot).trans (shownLine_of_none none_)
    refine taggedBy_none_iff.mpr fun c hc => ?_
    have kept (l : List (Byte × Nat)) (reach : ∀ x ∈ l, (off + x.2) / 128 < 2 ^ 21) (w : State) :
        grnLine (l.foldl (byteWritten v off) w) c slot = grnLine w c slot := by
      induction l generalizing w with
      | nil => rfl
      | cons x l ih =>
        rw [List.foldl_cons, ih (fun y mem => reach y (List.mem_cons_of_mem _ mem))]
        exact untagged_byteWritten hidden hslot (reach x List.mem_cons_self) c w
    refine (kept data.zipIdx (fun x mem => ?_) v).trans ((same c slot).trans (taggedBy_none_iff.mp none_ c hc))
    have bound := (List.mem_zipIdx mem).2.1
    exact Nat.div_lt_of_lt_mul (show off + x.2 < 128 * 2 ^ 21 by omega)

end

/-- Settles O32: what the windows of the Loft and the Granary show each requester, and what its writes reach. -/
theorem memoryWindowsAnswerRequesters : Obligations.MemoryWindowsAnswerRequesters := by
  unfold Obligations.MemoryWindowsAnswerRequesters
  intro s p off len data c cl writable covered given
  refine ⟨completes_of (loftWindow_ostler_read ..) rfl, completes_of (loftWindow_ostler_write ..) rfl, completes_of (granaryWindow_ostler_read ..) rfl,
    completes_of (granaryWindow_ostler_write ..) rfl, fun a => ⟨completes_of rfl rfl, completes_of rfl rfl⟩, fun i a n which => ?_,
    loftWindow_debug_read s p off len, ?_, granaryRead_effect s off len, granaryWrite_effect s⟩
  · rcases which with rfl | rfl
    · exact vf_effect n rfl
    · exact vf_effect n rfl
  · exact (loftWindow_written s p off data).mono fun u h => ⟨fun n i ok hi inside => h.1 n i ok.1 ok.2.1 ok.2.2.1 ok.2.2.2 hi inside,
      fun n i l hi shut read => h.2.1 n i l hi shut read, fun n shut => h.2.2.1 n shut, h.2.2.2⟩

end Sys2Proof.Machine
end

section
/-!
SUPPORT. What the home's operations leave alone.
-/

namespace Sys2Proof.Machine

/-! ### The recovery state of the contexts -/

@[simp] theorem vRecs_draw (s : State) :
    (draw s).2.vRecs = s.vRecs := by simp [draw, vRecs_eta]

@[simp] theorem vRecs_grnCount (s : State) (i n : Nat) :
    (grnCount s i n).vRecs = s.vRecs := by simp [grnCount]

@[simp] theorem vRecs_sendBridle (s : State) (src dst : Node) (c : Nat) (b : Body) :
    (sendBridle s src dst c b).vRecs = s.vRecs := by simp [sendBridle]

@[simp] theorem vRecs_modLive (s : State) (p : Nat) (f : StallCtx → StallCtx) :
    (modLive s p f).vRecs = s.vRecs := by simp [modLive]

@[simp] theorem vRecs_modStallCtx (s : State) (c l : Nat) (f : StallCtx → StallCtx) :
    (modStallCtx s c l f).vRecs = s.vRecs := by
  unfold modStallCtx
  repeat' split
  all_goals simp

@[simp] theorem vRecs_putLine (s : State) (c slot : Nat) (l : GLine) :
    (putLine s c slot l).vRecs = s.vRecs := by simp [putLine, vRecs_eta]

@[simp] theorem vRecs_grnPerform (s : State) (c slot : Nat) (op : GrnOp) (words : Line) (poison : Bool) :
    (grnPerform s c slot op words poison).2.vRecs = s.vRecs := by
  unfold grnPerform
  split <;> simp

@[simp] theorem vRecs_linkDone (s : State) (c : Nat) :
    (linkDone s c).vRecs = s.vRecs := by
  unfold linkDone
  repeat' split
  all_goals simp [vRecs_eta]

@[simp] theorem draw_recs (s : State) :
    (draw s).2.recs = s.recs := (vRecs_def _).symm.trans ((vRecs_draw ..).trans (vRecs_def _))

@[simp] theorem yardCount_recs (s : State) (i n : Nat) :
    (yardCount s i n).recs = s.recs := (vRecs_def _).symm.trans ((vRecs_yardCount ..).trans (vRecs_def _))

@[simp] theorem recCount_recs (s : State) (i : Nat) :
    (recCount s i).recs = s.recs := (vRecs_def _).symm.trans ((vRecs_recCount ..).trans (vRecs_def _))

@[simp] theorem sendBridle_recs (s : State) (src dst : Node) (c : Nat) (b : Body) :
    (sendBridle s src dst c b).recs = s.recs := (vRecs_def _).symm.trans ((vRecs_sendBridle ..).trans (vRecs_def _))

@[simp] theorem dbAppend_recs (s : State) (type c : Nat) (payload : List Byte) :
    (dbAppend s type c payload).recs = s.recs := (vRecs_def _).symm.trans ((vRecs_dbAppend ..).trans (vRecs_def _))

@[simp] theorem reportFault_recs (s : State) (source code detail c lid team handle : Nat) :
    (reportFault s source code detail c lid team handle).recs = s.recs := (vRecs_def _).symm.trans ((vRecs_reportFault
      ..).trans (vRecs_def _))

@[simp] theorem modStallCtx_recs (s : State) (c l : Nat) (f : StallCtx → StallCtx) :
    (modStallCtx s c l f).recs = s.recs := (vRecs_def _).symm.trans ((vRecs_modStallCtx ..).trans (vRecs_def _))

@[simp] theorem grnPerform_recs (s : State) (c slot : Nat) (op : GrnOp) (words : Line) (poison : Bool) :
    (grnPerform s c slot op words poison).2.recs = s.recs := (vRecs_def _).symm.trans ((vRecs_grnPerform ..).trans (vRecs_def _))

@[simp] theorem linkDone_recs (s : State) (c : Nat) :
    (linkDone s c).recs = s.recs := (vRecs_def _).symm.trans ((vRecs_linkDone ..).trans (vRecs_def _))

/-! ### The registers -/

@[simp] theorem vCsr_modStallCtx (s : State) (c l : Nat) (f : StallCtx → StallCtx) :
    (modStallCtx s c l f).vCsr = s.vCsr := by
  unfold modStallCtx
  repeat' split
  all_goals simp

@[simp] theorem modStallCtx_csr (s : State) (c l : Nat) (f : StallCtx → StallCtx) :
    (modStallCtx s c l f).csr = s.csr := (vCsr_def _).symm.trans ((vCsr_modStallCtx ..).trans (vCsr_def _))

/-! ### The contexts -/

@[simp] theorem vCtxs_draw (s : State) :
    (draw s).2.vCtxs = s.vCtxs := by simp [draw, vCtxs_eta]

@[simp] theorem vCtxs_sendBridle (s : State) (src dst : Node) (c : Nat) (b : Body) :
    (sendBridle s src dst c b).vCtxs = s.vCtxs := by simp [sendBridle]

@[simp] theorem vCtxs_grnPerform (s : State) (c slot : Nat) (op : GrnOp) (words : Line) (poison : Bool) :
    (grnPerform s c slot op words poison).2.vCtxs = s.vCtxs := by
  unfold grnPerform
  split <;> simp

@[simp] theorem vCtxs_replayDone (s : State) :
    (replayDone s).vCtxs = s.vCtxs := by simp [replayDone]

@[simp] theorem vCtxs_linkDone (s : State) (c : Nat) :
    (linkDone s c).vCtxs = s.vCtxs := by
  unfold linkDone
  repeat' split
  all_goals simp [vCtxs_eta]

@[simp] theorem vCtxs_modHome (s : State) (c src job : Nat) (g : Home → Home) :
    (modHome s c src job g).vCtxs = s.vCtxs := by simp [modHome]

@[simp] theorem draw_ctxs (s : State) :
    (draw s).2.ctxs = s.ctxs := (vCtxs_def _).symm.trans ((vCtxs_draw ..).trans (vCtxs_def _))

@[simp] theorem yardCount_ctxs (s : State) (i n : Nat) :
    (yardCount s i n).ctxs = s.ctxs := (vCtxs_def _).symm.trans ((vCtxs_yardCount ..).trans (vCtxs_def _))

@[simp] theorem sendBridle_ctxs (s : State) (src dst : Node) (c : Nat) (b : Body) :
    (sendBridle s src dst c b).ctxs = s.ctxs := (vCtxs_def _).symm.trans ((vCtxs_sendBridle ..).trans (vCtxs_def _))

@[simp] theorem reportFault_ctxs (s : State) (source code detail c lid team handle : Nat) :
    (reportFault s source code detail c lid team handle).ctxs = s.ctxs := (vCtxs_def _).symm.trans ((vCtxs_reportFault
      ..).trans (vCtxs_def _))

@[simp] theorem grnPerform_ctxs (s : State) (c slot : Nat) (op : GrnOp) (words : Line) (poison : Bool) :
    (grnPerform s c slot op words poison).2.ctxs = s.ctxs := (vCtxs_def _).symm.trans ((vCtxs_grnPerform ..).trans (vCtxs_def _))

@[simp] theorem linkDone_ctxs (s : State) (c : Nat) :
    (linkDone s c).ctxs = s.ctxs := (vCtxs_def _).symm.trans ((vCtxs_linkDone ..).trans (vCtxs_def _))

@[simp] theorem modHome_ctxs (s : State) (c src job : Nat) (g : Home → Home) :
    (modHome s c src job g).ctxs = s.ctxs := (vCtxs_def _).symm.trans ((vCtxs_modHome ..).trans (vCtxs_def _))

/-! ### The Granary -/

@[simp] theorem vGrn_foldl {β : Type} (g : State → β → State) (h : ∀ s b, (g s b).vGrn = s.vGrn) (l : List β) (s : State) :
    (l.foldl g s).vGrn = s.vGrn := by
  induction l generalizing s with
  | nil => rfl
  | cons b l ih => exact (ih (g s b)).trans (h s b)

@[simp] theorem vGrn_draw (s : State) :
    (draw s).2.vGrn = s.vGrn := by simp [draw, vGrn_eta]

@[simp] theorem vGrn_yardCount (s : State) (i n : Nat) :
    (yardCount s i n).vGrn = s.vGrn := by simp [yardCount]

@[simp] theorem vGrn_grnCount (s : State) (i n : Nat) :
    (grnCount s i n).vGrn = s.vGrn := by simp [grnCount]

@[simp] theorem vGrn_recCount (s : State) (i : Nat) :
    (recCount s i).vGrn = s.vGrn := by simp [recCount]

@[simp] theorem vGrn_rlCount (s : State) (n i k : Nat) :
    (rlCount s n i k).vGrn = s.vGrn := by simp [rlCount]

@[simp] theorem vGrn_rlDevCount (s : State) (i : Nat) :
    (rlDevCount s i).vGrn = s.vGrn := by simp [rlDevCount]

@[simp] theorem vGrn_setStall (s : State) (p : Nat) (x : Stall) :
    (setStall s p x).vGrn = s.vGrn := by simp [setStall, vGrn_eta]

@[simp] theorem vGrn_modStall (s : State) (p : Nat) (f : Stall → Stall) :
    (modStall s p f).vGrn = s.vGrn := by simp [modStall]

@[simp] theorem vGrn_setCtx (s : State) (c : Nat) (x : Ctx) :
    (setCtx s c x).vGrn = s.vGrn := by simp [setCtx, vGrn_eta]

@[simp] theorem vGrn_modCtx (s : State) (c : Nat) (f : Ctx → Ctx) :
    (modCtx s c f).vGrn = s.vGrn := by simp [modCtx]

@[simp] theorem vGrn_modRec (s : State) (c : Nat) (f : Rec → Rec) :
    (modRec s c f).vGrn = s.vGrn := by simp [modRec, vGrn_eta]

@[simp] theorem vGrn_send (s : State) (src dst : Node) (net : Net) (c : Nat) (b : Body) :
    (send s src dst net c b).vGrn = s.vGrn := by simp [send, vGrn_eta]

@[simp] theorem vGrn_sendBridle (s : State) (src dst : Node) (c : Nat) (b : Body) :
    (sendBridle s src dst c b).vGrn = s.vGrn := by simp [sendBridle]

@[simp] theorem vGrn_modPort (s : State) (n : Nat) (f : Port → Port) :
    (modPort s n f).vGrn = s.vGrn := by simp [modPort, vGrn_eta]

@[simp] theorem vGrn_wireFlit (s : State) (n : Nat) (b : List Byte) (seq : BitVec 16) :
    (wireFlit s n b seq).vGrn = s.vGrn := by simp [wireFlit, vGrn_eta]

theorem vGrn_sendOne (s t : State) (n : Nat) (h : sendOne s n = some t) : t.vGrn = s.vGrn := by
  unfold sendOne at h
  dsimp only at h
  split at h
  · cases h
  · split at h
    · cases h
    · cases h
      simp

@[simp] theorem vGrn_pump (k : Nat) (s : State) (n : Nat) : (pump k s n).vGrn = s.vGrn := by
  induction k generalizing s with
  | zero => rfl
  | succ k ih =>
    unfold pump
    split
    · rw [ih]
      exact vGrn_sendOne _ _ _ ‹_›
    · rfl

@[simp] theorem vGrn_pumpPort (s : State) (n : Nat) : (pumpPort s n).vGrn = s.vGrn := by simp [pumpPort]

@[simp] theorem vGrn_sendPlain (s : State) (n type : Nat) :
    (sendPlain s n type).vGrn = s.vGrn := by simp [sendPlain]

@[simp] theorem vGrn_sendFlit (s : State) (via : Nat) (b : List Byte) :
    (sendFlit s via b).vGrn = s.vGrn := by
  unfold sendFlit
  repeat' split
  all_goals simp [vGrn_eta]

@[simp] theorem vGrn_dbFault (s : State) (c code lid team handle : Nat) :
    (dbFault s c code lid team handle).vGrn = s.vGrn := by simp [dbFault]

@[simp] theorem vGrn_raiseIrq (s : State) (fn vec : Nat) :
    (raiseIrq s fn vec).vGrn = s.vGrn := by simp [raiseIrq, vGrn_eta]

@[simp] theorem vGrn_ghRecord (s : State) (r : Nat) (rec_ : List Byte) (irq : Bool) (vf vfVec : Nat) :
    (ghRecord s r rec_ irq vf vfVec).vGrn = s.vGrn := by simp [ghRecord, vGrn_eta]

@[simp] theorem vGrn_ghNote (s : State) (ring : Nat) (rec_ : List Byte) :
    (ghNote s ring rec_).vGrn = s.vGrn := by
  unfold ghNote
  repeat' first
    | (simp [vGrn_eta]; done)
    | (with_reducible refine (vGrn_foldl _ ?_ _ _).trans ?_)
    | intro _
    | split
    | dsimp only

@[simp] theorem vGrn_ghDeliver (s : State) (m : Nat) (rec_ : List Byte) (irq : Bool) :
    (ghDeliver s m rec_ irq).vGrn = s.vGrn := by simp [ghDeliver]

@[simp] theorem vGrn_emitRecord (s : State) (rec_ : List Byte) (irq : Bool) :
    (emitRecord s rec_ irq).vGrn = s.vGrn := by
  unfold emitRecord
  repeat' split
  all_goals simp

@[simp] theorem vGrn_reportOstler (s : State) (source code detail c : Nat) :
    (reportOstler s source code detail c).vGrn = s.vGrn := by simp [reportOstler, vGrn_eta]

@[simp] theorem vGrn_reportFault (s : State) (source code detail c lid team handle : Nat) :
    (reportFault s source code detail c lid team handle).vGrn = s.vGrn := by simp [reportFault]

@[simp] theorem vGrn_absentReturn (s : State) (source detail c lid : Nat) :
    (absentReturn s source detail c lid).vGrn = s.vGrn := by simp [absentReturn]

@[simp] theorem vGrn_trigger (s : State) (c target : Nat) :
    (trigger s c target).vGrn = s.vGrn := by simp [trigger]

@[simp] theorem vGrn_modLive (s : State) (p : Nat) (f : StallCtx → StallCtx) :
    (modLive s p f).vGrn = s.vGrn := by simp [modLive]

@[simp] theorem vGrn_modStallCtx (s : State) (c l : Nat) (f : StallCtx → StallCtx) :
    (modStallCtx s c l f).vGrn = s.vGrn := by
  unfold modStallCtx
  repeat' split
  all_goals simp

@[simp] theorem vGrn_replayDone (s : State) :
    (replayDone s).vGrn = s.vGrn := by simp [replayDone]

@[simp] theorem vGrn_linkDone (s : State) (c : Nat) :
    (linkDone s c).vGrn = s.vGrn := by
  unfold linkDone
  repeat' split
  all_goals simp [vGrn_eta]

@[simp] theorem vGrn_returnCredits (k : Nat) (s : State) (n : Nat) : (returnCredits k s n).vGrn = s.vGrn := by
  induction k generalizing s with
  | zero => rfl
  | succ k ih =>
    unfold returnCredits
    split
    · rfl
    · rw [ih]
      simp

@[simp] theorem vGrn_settle (s : State) (n : Nat) :
    (settle s n).vGrn = s.vGrn := by simp [settle]

@[simp] theorem vGrn_freePlace (s : State) (n place : Nat) :
    (freePlace s n place).vGrn = s.vGrn := by simp [freePlace]

@[simp] theorem vGrn_consume (s : State) (i : Nat) (h : Held) :
    (consume s i h).vGrn = s.vGrn := by simp [consume, vGrn_eta]

@[simp] theorem vGrn_modHome (s : State) (c src job : Nat) (g : Home → Home) :
    (modHome s c src job g).vGrn = s.vGrn := by simp [modHome]

@[simp] theorem vGrn_endRun (s : State) (c : Nat) (h : Home) :
    (endRun s c h).vGrn = s.vGrn := by simp [endRun]

@[simp] theorem vGrn_noteArrival (s : State) (c src job dseq : Nat) :
    (noteArrival s c src job dseq).vGrn = s.vGrn := by simp [noteArrival]

@[simp] theorem vGrn_sendGap (s : State) (src job expect : Nat) :
    (sendGap s src job expect).vGrn = s.vGrn := by simp [sendGap]

@[simp] theorem vGrn_addWacks (s : State) (c src job : Nat) (es : List (Nat × Nat)) :
    (addWacks s c src job es).vGrn = s.vGrn := by simp [addWacks]

@[simp] theorem vGrn_noteUndo (s : State) (c src epoch slot : Nat) (op : GrnOp) (words : Line) :
    (noteUndo s c src epoch slot op words).vGrn = s.vGrn := by
  unfold noteUndo
  repeat' first
    | (simp; done)
    | (with_reducible refine (vGrn_foldl _ ?_ _ _).trans ?_)
    | intro _
    | split
    | dsimp only

@[simp] theorem vGrn_notifyLine (s : State) (c slot : Nat) :
    (notifyLine s c slot).vGrn = s.vGrn := by
  unfold notifyLine
  repeat' split
  all_goals simp

@[simp] theorem vGrn_noteDep (s : State) (c src job epoch : Nat) (win : Option Nat) :
    (noteDep s c src job epoch win).vGrn = s.vGrn := by simp [noteDep]

@[simp] theorem draw_grn (s : State) :
    (draw s).2.grn = s.grn := (vGrn_def _).symm.trans ((vGrn_draw ..).trans (vGrn_def _))

@[simp] theorem grnCount_grn (s : State) (i n : Nat) :
    (grnCount s i n).grn = s.grn := (vGrn_def _).symm.trans ((vGrn_grnCount ..).trans (vGrn_def _))

@[simp] theorem recCount_grn (s : State) (i : Nat) :
    (recCount s i).grn = s.grn := (vGrn_def _).symm.trans ((vGrn_recCount ..).trans (vGrn_def _))

@[simp] theorem rlDevCount_grn (s : State) (i : Nat) :
    (rlDevCount s i).grn = s.grn := (vGrn_def _).symm.trans ((vGrn_rlDevCount ..).trans (vGrn_def _))

@[simp] theorem reportFault_grn (s : State) (source code detail c lid team handle : Nat) :
    (reportFault s source code detail c lid team handle).grn = s.grn := (vGrn_def _).symm.trans ((vGrn_reportFault ..).trans
      (vGrn_def _))

@[simp] theorem trigger_grn (s : State) (c target : Nat) :
    (trigger s c target).grn = s.grn := (vGrn_def _).symm.trans ((vGrn_trigger ..).trans (vGrn_def _))

@[simp] theorem linkDone_grn (s : State) (c : Nat) :
    (linkDone s c).grn = s.grn := (vGrn_def _).symm.trans ((vGrn_linkDone ..).trans (vGrn_def _))

@[simp] theorem consume_grn (s : State) (i : Nat) (h : Held) :
    (consume s i h).grn = s.grn := (vGrn_def _).symm.trans ((vGrn_consume ..).trans (vGrn_def _))

@[simp] theorem modHome_grn (s : State) (c src job : Nat) (g : Home → Home) :
    (modHome s c src job g).grn = s.grn := (vGrn_def _).symm.trans ((vGrn_modHome ..).trans (vGrn_def _))

@[simp] theorem noteArrival_grn (s : State) (c src job dseq : Nat) :
    (noteArrival s c src job dseq).grn = s.grn := (vGrn_def _).symm.trans ((vGrn_noteArrival ..).trans (vGrn_def _))

@[simp] theorem sendGap_grn (s : State) (src job expect : Nat) :
    (sendGap s src job expect).grn = s.grn := (vGrn_def _).symm.trans ((vGrn_sendGap ..).trans (vGrn_def _))

@[simp] theorem addWacks_grn (s : State) (c src job : Nat) (es : List (Nat × Nat)) :
    (addWacks s c src job es).grn = s.grn := (vGrn_def _).symm.trans ((vGrn_addWacks ..).trans (vGrn_def _))

@[simp] theorem noteUndo_grn (s : State) (c src epoch slot : Nat) (op : GrnOp) (words : Line) :
    (noteUndo s c src epoch slot op words).grn = s.grn := (vGrn_def _).symm.trans ((vGrn_noteUndo ..).trans (vGrn_def _))

@[simp] theorem notifyLine_grn (s : State) (c slot : Nat) :
    (notifyLine s c slot).grn = s.grn := (vGrn_def _).symm.trans ((vGrn_notifyLine ..).trans (vGrn_def _))

@[simp] theorem noteDep_grn (s : State) (c src job epoch : Nat) (win : Option Nat) :
    (noteDep s c src job epoch win).grn = s.grn := (vGrn_def _).symm.trans ((vGrn_noteDep ..).trans (vGrn_def _))

/-! ### The link -/

@[simp] theorem vRhoa_yardCount (s : State) (i n : Nat) :
    (yardCount s i n).vRhoa = s.vRhoa := by simp [yardCount]

@[simp] theorem vRhoa_grnCount (s : State) (i n : Nat) :
    (grnCount s i n).vRhoa = s.vRhoa := by simp [grnCount]

@[simp] theorem vRhoa_recCount (s : State) (i : Nat) :
    (recCount s i).vRhoa = s.vRhoa := by simp [recCount]

@[simp] theorem vRhoa_setStall (s : State) (p : Nat) (x : Stall) :
    (setStall s p x).vRhoa = s.vRhoa := by simp [setStall, vRhoa_eta]

@[simp] theorem vRhoa_modStall (s : State) (p : Nat) (f : Stall → Stall) :
    (modStall s p f).vRhoa = s.vRhoa := by simp [modStall]

@[simp] theorem vRhoa_setCtx (s : State) (c : Nat) (x : Ctx) :
    (setCtx s c x).vRhoa = s.vRhoa := by simp [setCtx, vRhoa_eta]

@[simp] theorem vRhoa_modCtx (s : State) (c : Nat) (f : Ctx → Ctx) :
    (modCtx s c f).vRhoa = s.vRhoa := by simp [modCtx]

@[simp] theorem vRhoa_modRec (s : State) (c : Nat) (f : Rec → Rec) :
    (modRec s c f).vRhoa = s.vRhoa := by simp [modRec, vRhoa_eta]

@[simp] theorem vRhoa_send (s : State) (src dst : Node) (net : Net) (c : Nat) (b : Body) :
    (send s src dst net c b).vRhoa = s.vRhoa := by simp [send, vRhoa_eta]

@[simp] theorem vRhoa_sendBridle (s : State) (src dst : Node) (c : Nat) (b : Body) :
    (sendBridle s src dst c b).vRhoa = s.vRhoa := by simp [sendBridle]

@[simp] theorem vRhoa_modLive (s : State) (p : Nat) (f : StallCtx → StallCtx) :
    (modLive s p f).vRhoa = s.vRhoa := by simp [modLive]

@[simp] theorem vRhoa_modStallCtx (s : State) (c l : Nat) (f : StallCtx → StallCtx) :
    (modStallCtx s c l f).vRhoa = s.vRhoa := by
  unfold modStallCtx
  repeat' split
  all_goals simp

@[simp] theorem vRhoa_putLine (s : State) (c slot : Nat) (l : GLine) :
    (putLine s c slot l).vRhoa = s.vRhoa := by simp [putLine, vRhoa_eta]

@[simp] theorem vRhoa_grnPerform (s : State) (c slot : Nat) (op : GrnOp) (words : Line) (poison : Bool) :
    (grnPerform s c slot op words poison).2.vRhoa = s.vRhoa := by
  unfold grnPerform
  split <;> simp

@[simp] theorem vRhoa_replayDone (s : State) :
    (replayDone s).vRhoa = s.vRhoa := by simp [replayDone]

@[simp] theorem vRhoa_linkDone (s : State) (c : Nat) :
    (linkDone s c).vRhoa = s.vRhoa := by
  unfold linkDone
  repeat' split
  all_goals simp [vRhoa_eta]

@[simp] theorem vRhoa_modHome (s : State) (c src job : Nat) (g : Home → Home) :
    (modHome s c src job g).vRhoa = s.vRhoa := by simp [modHome]

@[simp] theorem yardCount_rhoa (s : State) (i n : Nat) :
    (yardCount s i n).rhoa = s.rhoa := (vRhoa_def _).symm.trans ((vRhoa_yardCount ..).trans (vRhoa_def _))

@[simp] theorem recCount_rhoa (s : State) (i : Nat) :
    (recCount s i).rhoa = s.rhoa := (vRhoa_def _).symm.trans ((vRhoa_recCount ..).trans (vRhoa_def _))

@[simp] theorem sendBridle_rhoa (s : State) (src dst : Node) (c : Nat) (b : Body) :
    (sendBridle s src dst c b).rhoa = s.rhoa := (vRhoa_def _).symm.trans ((vRhoa_sendBridle ..).trans (vRhoa_def _))

@[simp] theorem dbAppend_rhoa (s : State) (type c : Nat) (payload : List Byte) :
    (dbAppend s type c payload).rhoa = s.rhoa := (vRhoa_def _).symm.trans ((vRhoa_dbAppend ..).trans (vRhoa_def _))

@[simp] theorem modStallCtx_rhoa (s : State) (c l : Nat) (f : StallCtx → StallCtx) :
    (modStallCtx s c l f).rhoa = s.rhoa := (vRhoa_def _).symm.trans ((vRhoa_modStallCtx ..).trans (vRhoa_def _))

@[simp] theorem grnPerform_rhoa (s : State) (c slot : Nat) (op : GrnOp) (words : Line) (poison : Bool) :
    (grnPerform s c slot op words poison).2.rhoa = s.rhoa := (vRhoa_def _).symm.trans ((vRhoa_grnPerform ..).trans (vRhoa_def _))

@[simp] theorem linkDone_rhoa (s : State) (c : Nat) :
    (linkDone s c).rhoa = s.rhoa := (vRhoa_def _).symm.trans ((vRhoa_linkDone ..).trans (vRhoa_def _))

@[simp] theorem modHome_rhoa (s : State) (c src job : Nat) (g : Home → Home) :
    (modHome s c src job g).rhoa = s.rhoa := (vRhoa_def _).symm.trans ((vRhoa_modHome ..).trans (vRhoa_def _))

end Sys2Proof.Machine
end

section
/-!
PROOFS. The home performs peer writes and atomics.
-/

namespace Sys2Proof.Machine

/-! ### What the home's work on a peer's write keeps (R348 to R352) -/

theorem homeOf_setHome_other {hs : List Home} {h : Home} {src job : Nat} (apart : ¬(h.src = src ∧ h.job = job)) :
    homeOf (setHome hs h) src job = homeOf hs src job := by
  have found : (setHome hs h).find? (fun x => x.src = src && x.job = job) = hs.find? fun x => x.src = src && x.job = job := by
    refine find?_setOther (p := fun x : Home => x.src = h.src && x.job = h.job) (by simpa using apart) (fun y hy => ?_) hs
    simp only [Bool.and_eq_true, decide_eq_true_eq] at hy
    simpa [hy] using apart
  rw [homeOf, found, homeOf]

/-- A change of a home's record that keeps its flow and the DSEQ it expects. -/
def KeepsExpect (g : Home → Home) : Prop := ∀ h, (g h).src = h.src ∧ (g h).job = h.job ∧ (g h).expect = h.expect

theorem expect_modHome {g : Home → Home} (keeps : KeepsExpect g) (s : State) (c src' job' src job : Nat) :
    (homeAt (modHome s c src' job' g) c src job).expect = (homeAt s c src job).expect := by
  by_cases here : src' = src ∧ job' = job
  · obtain ⟨rfl, rfl⟩ := here
    rw [homeAt_modHome _ _ _ _ _ fun h => ⟨(keeps h).1, (keeps h).2.1⟩]
    exact (keeps _).2.2
  · obtain ⟨key, keyJob⟩ := homeOf_src (recOf s c).homes src' job'
    have apart : ¬((g (homeOf (recOf s c).homes src' job')).src = src ∧ (g (homeOf (recOf s c).homes src' job')).job = job) := by
      rwa [(keeps _).1, (keeps _).2.1, key, keyJob]
    rw [homeAt, modHome, recOf_modRec_same]
    exact congrArg Home.expect (homeOf_setHome_other apart)

/-- What every part of the work keeps: flits that wait to be taken, the images and the device's ID, the DSEQ that a flow expects
and the dependency on its source. -/
structure HomeWork (c src job : Nat) (s u : State) : Prop where
  rx : ∃ more, u.rhoa.rx = s.rhoa.rx ++ more
  image : imageOf u c = imageOf s c
  device : csrGet u 0x07C0000 = csrGet s 0x07C0000
  expect : (homeAt u c src job).expect = (homeAt s c src job).expect
  dep : (∃ d ∈ (recOf s c).deps, d.src = src) → ∃ d ∈ (recOf u c).deps, d.src = src

namespace HomeWork

variable {c src job : Nat} {s u v : State}

theorem refl (c src job : Nat) (s : State) : HomeWork c src job s s := ⟨⟨[], by simp⟩, rfl, rfl, rfl, id⟩

theorem trans (first : HomeWork c src job s u) (next_ : HomeWork c src job u v) : HomeWork c src job s v := by
  obtain ⟨more, rx⟩ := first.rx
  obtain ⟨more', rx'⟩ := next_.rx
  exact ⟨⟨more ++ more', by rw [rx', rx, List.append_assoc]⟩, next_.image.trans first.image, next_.device.trans first.device,
    next_.expect.trans first.expect, fun d => next_.dep (first.dep d)⟩

theorem foldl {β : Type} {f : State → β → State} (each : ∀ s b, HomeWork c src job s (f s b)) (l : List β) (s : State) :
    HomeWork c src job s (l.foldl f s) := by
  induction l generalizing s with
  | nil => exact refl c src job s
  | cons b l ih => exact (each s b).trans (ih _)

/-- Work that leaves the context's record alone. -/
theorem of_recs (rx : ∃ more, u.rhoa.rx = s.rhoa.rx ++ more) (image : imageOf u c = imageOf s c)
    (device : csrGet u 0x07C0000 = csrGet s 0x07C0000) (recs : u.recs = s.recs) : HomeWork c src job s u := by
  have rec_ : recOf u c = recOf s c := by rw [recOf, recs, recOf]
  exact ⟨rx, image, device, congrArg Home.expect (homeAt_congr rec_ src job), by rw [rec_]; exact id⟩

theorem quiet (rhoa : u.rhoa = s.rhoa) (ctxs : u.ctxs = s.ctxs) (device : csrGet u 0x07C0000 = csrGet s 0x07C0000)
    (recs : u.recs = s.recs) : HomeWork c src job s u :=
  of_recs ⟨[], by rw [rhoa, List.append_nil]⟩ (imageOf_congr_ctxs ctxs c) device recs

/-- Work on the context's record alone. -/
theorem of_modRec {f : Rec → Rec} (homes : ∀ r, (f r).homes = r.homes)
    (dep : ∀ r, (∃ d ∈ r.deps, d.src = src) → ∃ d ∈ (f r).deps, d.src = src) (s : State) :
    HomeWork c src job s (modRec s c f) := by
  refine ⟨⟨[], by simp [modRec]⟩, rfl, rfl, ?_, ?_⟩
  · rw [homeAt, homeAt, recOf_modRec_same, homes]
  · rw [recOf_modRec_same]
    exact dep _

theorem modHome {g : Home → Home} (keeps : KeepsExpect g) (s : State) (src' job' : Nat) :
    HomeWork c src job s (modHome s c src' job' g) :=
  ⟨⟨[], by simp⟩, imageOf_congr_ctxs (modHome_ctxs ..) c, csrGet_congr (modHome_csr ..) _, expect_modHome keeps .., by
    rw [deps_modHome]; exact id⟩

theorem noteUndo (s : State) (epoch slot : Nat) (op : GrnOp) (words : Line) :
    HomeWork c src job s (noteUndo s c src epoch slot op words) := by
  unfold Machine.noteUndo
  dsimp only
  split
  · split
    · exact refl ..
    · refine of_modRec ?_ ?_ s
      · exact fun _ => rfl
      · exact fun _ => id
  · refine of_modRec ?_ ?_ s
    · exact fun _ => rfl
    · exact fun _ => id

theorem noteDep (s : State) (epoch : Nat) (win : Option Nat) : HomeWork c src job s (noteDep s c src job epoch win) := by
  unfold Machine.noteDep
  refine of_modRec (fun r => ?_) (fun r => ?_) s
  · split <;> rfl
  · rintro ⟨d, mem, rfl⟩
    split
    · refine ⟨_, List.mem_map_of_mem mem, ?_⟩
      split <;> rfl
    · exact ⟨d, List.mem_append_left _ mem, rfl⟩

theorem dbAppend (s : State) (type c' : Nat) (payload : List Byte) : HomeWork c src job s (dbAppend s type c' payload) :=
  quiet (dbAppend_rhoa ..) (dbAppend_ctxs ..) (csrGet_dbAppend s (by unfold OffReports; decide) ..) (dbAppend_recs ..)

theorem endRun (s : State) (h : Home) : HomeWork c src job s (endRun s c h) := by
  unfold Machine.endRun
  split
  · exact refl ..
  · refine (dbAppend ..).trans (modHome ?_ ..)
    exact fun _ => ⟨rfl, rfl, rfl⟩

theorem noteArrival (s : State) (dseq : Nat) : HomeWork c src job s (noteArrival s c src job dseq) := by
  unfold Machine.noteArrival
  dsimp only
  split
  · refine modHome ?_ ..
    exact fun _ => ⟨rfl, rfl, rfl⟩
  · refine (foldl (fun s h => endRun s h) _ s).trans (modHome ?_ ..)
    exact fun _ => ⟨rfl, rfl, rfl⟩

theorem linkDone (s : State) : HomeWork c src job s (linkDone s c) := by
  refine quiet (linkDone_rhoa ..) (linkDone_ctxs ..) ?_ (linkDone_recs ..)
  unfold Machine.linkDone
  split
  · rfl
  · split
    · rfl
    · split
      · rfl
      · unfold replayDone
        dsimp only
        split
        · exact csrGet_csrSetField_other _ (by decide) ..
        · rfl

theorem addWacks (s : State) (es : List (Nat × Nat)) : HomeWork c src job s (addWacks s c src job es) := by
  unfold Machine.addWacks
  split
  · exact refl ..
  · refine modHome ?_ ..
    exact fun _ => ⟨rfl, rfl, rfl⟩

theorem putLine (s : State) (slot : Nat) (l : GLine) : HomeWork c src job s (putLine s c slot l) :=
  quiet rfl rfl rfl rfl

theorem grnPerform (s : State) (slot : Nat) (op : GrnOp) (words : Line) (poison : Bool) :
    HomeWork c src job s (grnPerform s c slot op words poison).2 := by
  refine quiet (grnPerform_rhoa ..) (grnPerform_ctxs ..) ?_ (grnPerform_recs ..)
  have counted (v : State) : csrGet (grnCount v 0 1) 0x07C0000 = csrGet v 0x07C0000 := csrGet_bumpBy_other v (by decide) (by decide)
  cases op with
  | read => rfl
  | write => rfl
  | _ => exact counted _

theorem homeOp (s : State) (slot code : Nat) : HomeWork c src job s (homeOp s c slot code).2 := by
  have drawn := quiet (c := c) (src := src) (job := job) (draw_rhoa s) (draw_ctxs s) (csrGet_congr (draw_csr s) _) (draw_recs s)
  unfold Machine.homeOp
  dsimp only
  split
  · split
    · exact drawn
    · exact refl ..
  · split
    · exact drawn
    · exact refl ..

end HomeWork

/-! ### Flits that the device sends itself wait behind those that have come (R340) -/

theorem modPort_rx (s : State) (n : Nat) (f : Port → Port) : (modPort s n f).rhoa.rx = s.rhoa.rx := rfl

theorem rx_sendFlit (s : State) (via : Nat) (b : List Byte) : ∃ more, (sendFlit s via b).rhoa.rx = s.rhoa.rx ++ more := by
  unfold sendFlit
  split
  · exact ⟨_, rfl⟩
  · split
    · exact ⟨[], by rw [rlCount_rhoa, List.append_nil]⟩
    · exact ⟨[], by rw [pumpPort, (Sends.pump ..).rx, List.append_nil, modPort_rx]⟩

theorem rx_emitRecord (s : State) (r : List Byte) (irq : Bool) : ∃ more, (emitRecord s r irq).rhoa.rx = s.rhoa.rx ++ more := by
  unfold emitRecord
  split
  · refine ⟨[], ?_⟩
    rw [List.append_nil]
    split
    · rw [ghDeliver_rhoa]
    · rfl
  · exact rx_sendFlit ..

theorem rx_reportFault (s : State) (source code detail c lid team handle : Nat) :
    ∃ more, (reportFault s source code detail c lid team handle).rhoa.rx = s.rhoa.rx ++ more := by
  unfold reportFault
  dsimp only
  obtain ⟨more, rx⟩ := rx_emitRecord (dbFault (reportOstler s source code detail c) (if c < 64 then c else 0x40) code lid team handle)
    (record (dbFault (reportOstler s source code detail c) (if c < 64 then c else 0x40) code lid team handle) 0 2 0 code 0
      (lid + 1024 * team) c) true
  exact ⟨more, by rw [rx, dbFault_rhoa]; rfl⟩

namespace HomeWork

variable {c src job : Nat} {s u : State}

theorem reportFault (s : State) (source code detail c' lid team handle : Nat) :
    HomeWork c src job s (reportFault s source code detail c' lid team handle) :=
  of_recs (rx_reportFault ..) (imageOf_congr_ctxs (reportFault_ctxs ..) c)
    (csrGet_reportFault s (by unfold OffReports; decide) ..) (reportFault_recs ..)

theorem absentReturn (s : State) (source detail c' lid : Nat) : HomeWork c src job s (absentReturn s source detail c' lid) := by
  have counted : HomeWork c src job s (yardCount (yardCount s 0 1) 5 1) := by
    refine quiet ?_ ?_ ?_ ?_
    · rw [yardCount_rhoa, yardCount_rhoa]
    · rw [yardCount_ctxs, yardCount_ctxs]
    · rw [csrGet_yardCount _ (by decide) (by decide), csrGet_yardCount _ (by decide) (by decide)]
    · rw [yardCount_recs, yardCount_recs]
  exact counted.trans (reportFault ..)

theorem image_modStallCtx (s : State) (c l : Nat) (f : StallCtx → StallCtx) (d : Nat) : imageOf (modStallCtx s c l f) d = imageOf s d := by
  unfold modStallCtx
  split
  · split
    · exact imageOf_congr_ctxs (setStall_ctxs ..) d
    · rfl
  · unfold imageOf
    by_cases here : d = c
    · rw [here, ctx_modCtx_same]
    · rw [ctx_modCtx_other _ here]

theorem notifyLine (s : State) (slot : Nat) : HomeWork c src job s (notifyLine s c slot) := by
  unfold Machine.notifyLine
  split
  · exact refl ..
  · dsimp only
    split
    · split
      · refine quiet (sendBridle_rhoa ..) (sendBridle_ctxs ..) ?_ (sendBridle_recs ..)
        exact csrGet_yardCount _ (by decide) (by decide) 1
      · exact absentReturn ..
    · exact of_recs ⟨[], by rw [modStallCtx_rhoa, List.append_nil]⟩ (image_modStallCtx ..) (csrGet_congr (modStallCtx_csr ..) _)
        (modStallCtx_recs ..)

theorem recCount (s : State) {i : Nat} (small : i < 32) : HomeWork c src job s (recCount s i) :=
  quiet (recCount_rhoa ..) (recCount_ctxs ..) (csrGet_bump_other s (by omega) (by omega)) (recCount_recs ..)

theorem trigger (s : State) (target : Nat) : HomeWork c src job s (trigger s c target) := by
  unfold Machine.trigger
  split
  · refine of_modRec ?_ ?_ s
    · exact fun _ => rfl
    · exact fun _ => id
  · exact refl ..

end HomeWork

/-! ### The end of a tally group marks lines; it changes no words (R395) -/

/-- A line of the group, marked poisoned where it is cached. -/
def markLine (c : Nat) (s : State) (x : Nat × Line) : State :=
  match grnLine s c x.1 with
  | some l => putLine s c x.1 { l with poison := true }
  | none => s

def groupOf (s : State) (c src job blk : Nat) : List (Nat × Line) :=
  (((homeAt s c src job).group.flatMap fun e => e.2.2).filter fun x => x.1 / 64 = blk).mergeSort fun a b => decide (a.1 ≤ b.1)

theorem endGroup_cases (s : State) (c src job blk tally : Nat) (bad : Bool) : ∃ (g : Home → Home) (es : List (Nat × Nat)), KeepsExpect g ∧
    (endGroup s c src job blk tally bad = addWacks (modHome s c src job g) c src job es ∨
      endGroup s c src job blk tally bad = trigger (reportFault (recCount ((groupOf s c src job blk).foldl (markLine c)
        (addWacks (modHome s c src job g) c src job es)) 4) 1021 0x0802 src c 0x3FF 0 0xFFF) c 0) := by
  unfold endGroup
  dsimp only
  split
  · refine ⟨_, _, ?_, .inl rfl⟩
    exact fun _ => ⟨rfl, rfl, rfl⟩
  · refine ⟨_, _, ?_, .inr rfl⟩
    exact fun _ => ⟨rfl, rfl, rfl⟩

theorem HomeWork.endGroup {c src job : Nat} (s : State) (blk tally : Nat) (bad : Bool) :
    HomeWork c src job s (endGroup s c src job blk tally bad) := by
  obtain ⟨g, es, keeps, ends | ends⟩ := endGroup_cases s c src job blk tally bad
  · rw [ends]
    exact (modHome keeps ..).trans (addWacks ..)
  · rw [ends]
    have marks (v : State) (x : Nat × Line) : HomeWork c src job v (markLine c v x) := by
      unfold markLine
      split
      · exact putLine ..
      · exact refl ..
    have marked := foldl marks (groupOf s c src job blk) (Machine.addWacks (Machine.modHome s c src job g) c src job es)
    exact ((modHome keeps ..).trans (addWacks ..)).trans (marked.trans (((recCount _ (by decide)).trans (reportFault ..)).trans (trigger ..)))

/-! ### The lines of a peer's write or atomic operation (R324, R348) -/

theorem grnLine_congr {s u : State} (grn : u.grn = s.grn) (c k : Nat) : grnLine u c k = grnLine s c k := by
  rw [grnLine, grn, grnLine]

theorem grnLine_putLine_apart {c slot k : Nat} (apart : k ≠ slot) (s : State) (l : GLine) :
    grnLine (putLine s c slot l) c k = grnLine s c k := by
  have keys : grnKey c k ≠ grnKey c slot := by
    unfold grnKey
    omega
  exact nget_nset_other none s.grn.lines keys (some { l with use := s.grn.use })

/-- The operation that a flit of this type performs on a line, and the state that has drawn its prime where the handle has none. -/
def lineOp (s : State) (c type code k : Nat) : GrnOp × State := if type = 2 then (.write, s) else homeOp s c k code

/-- The home performs one line of a flit. -/
def performLine (c src epoch type code : Nat) (s : State) (y : Nat × Line × Bool) : State :=
  notifyLine (grnPerform (noteUndo (lineOp s c type code y.1).2 c src epoch y.1 (lineOp s c type code y.1).1 y.2.1) c y.1
    (lineOp s c type code y.1).1 y.2.1 y.2.2).2 c y.1

section

variable {c src epoch type code : Nat} {s : State} {y : Nat × Line × Bool}

theorem lineOp_grn (s : State) (c type code k : Nat) : (lineOp s c type code k).2.grn = s.grn := by
  unfold lineOp
  split
  · rfl
  · unfold homeOp
    dsimp only
    split
    · split
      · exact draw_grn s
      · rfl
    · split
      · exact draw_grn s
      · rfl

theorem grnLine_grnPerform_other {k slot : Nat} (apart : k ≠ slot) (s : State) (op : GrnOp) (words : Line) (poison : Bool) :
    grnLine (grnPerform s c slot op words poison).2 c k = grnLine s c k := by
  cases op with
  | read => exact grnLine_putLine_apart apart ..
  | write => exact grnLine_putLine_apart apart ..
  | _ => exact (grnLine_congr (grnCount_grn ..) c k).trans (grnLine_putLine_apart apart ..)

theorem grnLine_performLine_other {k : Nat} (apart : k ≠ y.1) : grnLine (performLine c src epoch type code s y) c k = grnLine s c k := by
  unfold performLine
  rw [grnLine_congr (notifyLine_grn ..), grnLine_grnPerform_other apart, grnLine_congr (noteUndo_grn ..), grnLine_congr (lineOp_grn ..)]

theorem HomeWork.performLine (c src job epoch type code : Nat) (s : State) (y : Nat × Line × Bool) :
    HomeWork c src job s (performLine c src epoch type code s y) := by
  unfold Machine.performLine
  refine HomeWork.trans ?_ (((noteUndo ..).trans (grnPerform ..)).trans (notifyLine ..))
  unfold lineOp
  split
  · exact refl ..
  · exact homeOp ..

theorem grnLine_performLine_write (write : type = 2) : ∃ v, grnLine (performLine c src epoch type code s y) c y.1 = some v ∧
    v.words = y.2.1 ∧ v.dirty = true ∧ v.poison = y.2.2 := by
  have op : lineOp s c type code y.1 = (.write, s) := if_pos write
  unfold performLine
  rw [grnLine_congr (notifyLine_grn ..), op]
  exact ⟨_, grnLine_putLine_same .., rfl, rfl, rfl⟩

theorem grnPerform_atomOp (s : State) (c slot : Nat) (d : HDecl) (code q : Nat) (words : Line) (poison : Bool) :
    ∃ v, grnLine (grnPerform s c slot (atomOp d code q) words poison).2 c slot = some v ∧
      v.words = grnApply (atomOp d code q) ((grnLine s c slot).getD {}).words words ∧ v.dirty = true ∧
      v.poison = (((grnLine s c slot).getD {}).poison || poison) := by
  have put (w : Line) (p : Bool) : grnLine (grnCount (putLine s c slot { (grnLine s c slot).getD {} with words := w, dirty := true, poison := p }) 0 1) c slot =
      some { (grnLine s c slot).getD {} with words := w, dirty := true, poison := p, use := s.grn.use } :=
    (grnLine_congr (grnCount_grn ..) c slot).trans (grnLine_putLine_same ..)
  unfold atomOp
  dsimp only
  split <;> exact ⟨_, put .., rfl, rfl, rfl⟩

theorem grnLine_performLine_atomic (atomic : type ≠ 2) {d : HDecl} {l : GLine} (cover : coverOf (imageOf s c) y.1 = some d)
    (line : grnLine s c y.1 = some l) {q : Nat}
    (prime : linePrime (imageOf s c) d (pieceOf (imageOf s c) (deviceId s) d 0) ((y.1 : Int) - pieceSlot d 0) = q) (defined : code ≠ 0 ∨ q ≠ 0) :
    ∃ v, grnLine (performLine c src epoch type code s y) c y.1 = some v ∧ v.words = grnApply (atomOp d code q) l.words y.2.1 ∧
      v.dirty = true ∧ v.poison = (l.poison || y.2.2) := by
  have op : lineOp s c type code y.1 = (atomOp d code q, s) := by
    rw [lineOp, if_neg atomic, homeOp]
    simp only [cover, prime]
    rw [if_neg (by simpa using fun zero => defined.resolve_left (not_not_intro zero))]
  unfold performLine
  rw [grnLine_congr (notifyLine_grn ..), op]
  dsimp only
  have same : grnLine (noteUndo s c src epoch y.1 (atomOp d code q) y.2.1) c y.1 = some l := by
    rw [grnLine_congr (noteUndo_grn ..), line]
  have done_ := grnPerform_atomOp (noteUndo s c src epoch y.1 (atomOp d code q) y.2.1) c y.1 d code q y.2.1 y.2.2
  rwa [same, Option.getD_some] at done_

end

/-- Where every step leaves the lines of the others alone, a line ends as its own step leaves it. -/
theorem grnLine_foldl {c : Nat} {f : State → Nat × Line × Bool → State} {Inv : State → Prop} (keeps : ∀ v y, Inv v → Inv (f v y))
    (other : ∀ v y k, k ≠ y.1 → grnLine (f v y) c k = grnLine v c k) {l : List (Nat × Line × Bool)} (distinct : (l.map (·.1)).Nodup)
    {y : Nat × Line × Bool} (mem : y ∈ l) {s : State} (start : Inv s) :
    ∃ v, Inv v ∧ grnLine v c y.1 = grnLine s c y.1 ∧ grnLine (l.foldl f s) c y.1 = grnLine (f v y) c y.1 := by
  have off (l : List (Nat × Line × Bool)) {k : Nat} (out : k ∉ l.map (·.1)) (s : State) : grnLine (l.foldl f s) c k = grnLine s c k := by
    induction l generalizing s with
    | nil => rfl
    | cons z l ih =>
      rw [List.map_cons, List.mem_cons, not_or] at out
      rw [List.foldl_cons, ih out.2, other _ _ _ out.1]
  induction l generalizing s with
  | nil => exact absurd mem (by simp)
  | cons z l ih =>
    rw [List.map_cons, List.nodup_cons] at distinct
    rw [List.foldl_cons]
    rcases List.mem_cons.mp mem with rfl | later
    · exact ⟨s, start, rfl, off l distinct.1 _⟩
    · obtain ⟨v, inv, before, after⟩ := ih distinct.2 later (keeps s z start)
      have apart : y.1 ≠ z.1 := fun same => distinct.1 (same ▸ List.mem_map_of_mem later)
      exact ⟨v, inv, before.trans (other _ _ _ apart), after⟩

/-- The slots of a flit's lines are distinct. -/
theorem flitLines_nodup (b : List Byte) : ((flitLines b).map (·.1)).Nodup := by
  unfold flitLines
  rw [List.map_map]
  exact List.Nodup.map (fun a b (same : _ + a = _ + b) => Nat.add_left_cancel same) List.nodup_range

/-- A cached line that shows these words and is dirty. -/
def Shows (s : State) (c k : Nat) (words : Line) : Prop := ∃ v, grnLine s c k = some v ∧ v.words = words ∧ v.dirty = true

theorem Shows.markLine {s : State} {c k : Nat} {words : Line} (shown : Shows s c k words) (x : Nat × Line) :
    Shows (markLine c s x) c k words := by
  obtain ⟨v, line, rfl, dirty⟩ := shown
  unfold Machine.markLine
  by_cases here : k = x.1
  · subst here
    rw [line]
    exact ⟨_, grnLine_putLine_same .., rfl, dirty⟩
  · split
    · exact ⟨v, (grnLine_putLine_apart here ..).trans line, rfl, dirty⟩
    · exact ⟨v, line, rfl, dirty⟩

theorem Shows.congr {s u : State} (grn : u.grn = s.grn) {c k : Nat} {words : Line} (shown : Shows s c k words) : Shows u c k words := by
  obtain ⟨v, line, rest⟩ := shown
  exact ⟨v, (grnLine_congr grn c k).trans line, rest⟩

theorem Shows.endGroup {s : State} {c k : Nat} {words : Line} (shown : Shows s c k words) (src job blk tally : Nat) (bad : Bool) :
    Shows (endGroup s c src job blk tally bad) c k words := by
  obtain ⟨g, es, _, ends | ends⟩ := endGroup_cases s c src job blk tally bad
  · rw [ends]
    exact shown.congr (by rw [addWacks_grn, modHome_grn])
  · rw [ends]
    have start : Shows (addWacks (modHome s c src job g) c src job es) c k words := shown.congr (by rw [addWacks_grn, modHome_grn])
    have marked := foldl_keeps_inv (fun v => Shows v c k words) (fun v x held => held.markLine x) (groupOf s c src job blk) start
    exact marked.congr (by rw [trigger_grn, reportFault_grn, recCount_grn])

/-! ### A flit of peer writes in its turn (R348 to R352) -/

section

variable {s : State} {i c type : Nat} {h : Held} {bad : Bool}

/-- The command that takes a flit of peer writes, or of atomic operations. -/
def homeRow (g : Bool) (i : Nat) (bad : Bool) : Instr := if g = true then .atomic i bad else .write i bad

theorem homeRow_run (g : Bool) (s : State) (i : Nat) (bad : Bool) :
    exec (homeRow g i bad) s = .next (homeWrite (askFills s i (if g = true then 3 else 2)) i (if g = true then 3 else 2) bad) := by
  cases g <;> rfl

/-- The lines of the flit that are not cached are asked for. -/
def asked (s : State) (c : Nat) (slots : List Nat) : State := (slots.filter fun k => (grnLine s c k).isNone).foldl (fun s k => askFill s c k) s

theorem askFills_eq (rx : rxEntry s i = some h) (kind : flitType h.bytes = type) (own : toGate s h.bytes = false)
    (job : ctxOfJob s (flitJob h.bytes) = some c) : askFills s i type =
      if (flitDseq h.bytes = (homeAt s c (flitSrc h.bytes) (flitJob h.bytes)).expect && slotsExported s c ((flitLines h.bytes).map (·.1)) &&
        (placeOf s c (flitSrc h.bytes) ((flitLines h.bytes).map (·.1))).isSome) = true
      then asked s c ((flitLines h.bytes).map (·.1)) else s := by
  unfold askFills
  simp only [rx, kind, own, job, ne_eq, not_true_eq_false, decide_false, Bool.or_self, Bool.false_eq_true, if_false]
  rfl

/-- What the home makes of a flit in its turn. -/
def taken (s : State) (c type : Nat) (b : List Byte) (bad : Bool) : Option State :=
  match (if slotsExported s c ((flitLines b).map (·.1)) then placeOf s c (flitSrc b) ((flitLines b).map (·.1)) else none) with
  | none =>
    let s1 := addWacks (((flitLines b).map (·.1)).foldl (fun s _ => rlDevCount s 5) s) c (flitSrc b) (flitJob b) [(flitDseq b, 2)]
    some (if flitField b 15 1 5 5 = 1 then endGroup s1 c (flitSrc b) (flitJob b) (endBlock b) (fieldAt b 28 4) bad else s1)
  | some win =>
    if linkHeld s c (flitSrc b) (flitDseq b) then none
    else if (((flitLines b).map (·.1)).filter fun k => (grnLine s c k).isNone) ≠ [] then none
    else if !undoRoom s c (flitSrc b) (fieldAt b 20 4)
      (if type = 2 then .write else (homeOp s c (((flitLines b).map (·.1)).headD 0) (flitField b 24 4 31 29)).1) ((flitLines b).map (·.1)) then none
    else some (performFlit s c (flitSrc b) (flitJob b) b win bad)

theorem homeWrite_eq (rx : rxEntry s i = some h) (kind : flitType h.bytes = type) (own : toGate s h.bytes = false)
    (job : ctxOfJob s (flitJob h.bytes) = some c) : homeWrite s i type bad = takeDseq s i h c fun v => taken v c type h.bytes bad := by
  unfold homeWrite
  simp only [rx, kind, own, job, ne_eq, not_true_eq_false, decide_false, Bool.or_self, Bool.false_eq_true, if_false]
  rfl

end

/-! ### The home performs a flit (R348, R350) -/

section

variable {s : State} {i c type : Nat} {h : Held} {bad : Bool}

/-- The home notes a flit's source, and its place in the replayed order where the context runs. -/
def homeNoted (s : State) (c src job : Nat) (b : List Byte) (win : Option Nat) : State :=
  if (ctx s c).st = .staged then noteDep s c src job (fieldAt b 20 4) win
  else noteArrival (noteDep s c src job (fieldAt b 20 4) win) c src job (flitDseq b)

/-- The lines of a flit, performed in turn. -/
def linesDone (s : State) (c src job : Nat) (b : List Byte) (win : Option Nat) : State :=
  (flitLines b).foldl (performLine c src (fieldAt b 20 4) (flitType b) (flitField b 24 4 31 29)) (homeNoted s c src job b win)

/-- The flit joins the group of its block. -/
def grouped (s : State) (c src job : Nat) (b : List Byte) (win : Option Nat) : State :=
  linkDone (modHome (linesDone s c src job b win) c src job fun h => { h with group := h.group ++
    [(flitDseq b, if (flitLines b).any (·.2.2) then 1 else 0, (flitLines b).map fun x => (x.1, x.2.1))] }) c

theorem performFlit_eq (s : State) (c src job : Nat) (b : List Byte) (win : Option Nat) (bad : Bool) : performFlit s c src job b win bad =
    if flitField b 15 1 5 5 = 1 then endGroup (grouped s c src job b win) c src job (endBlock b) (fieldAt b 28 4) bad
    else grouped s c src job b win := rfl

theorem HomeWork.homeNoted (s : State) (c src job : Nat) (b : List Byte) (win : Option Nat) :
    HomeWork c src job s (homeNoted s c src job b win) := by
  unfold Machine.homeNoted
  split
  · exact noteDep ..
  · exact (noteDep ..).trans (noteArrival ..)

theorem dep_noteDep (s : State) (c src job epoch : Nat) (win : Option Nat) :
    ∃ d ∈ (recOf (noteDep s c src job epoch win) c).deps, d.src = src := by
  unfold noteDep
  rw [recOf_modRec_same]
  split
  · next some_ =>
    obtain ⟨d, mem, src_⟩ := List.any_eq_true.mp some_
    refine ⟨_, List.mem_map_of_mem mem, ?_⟩
    split <;> simpa using src_
  · exact ⟨_, List.mem_append_right _ (List.mem_singleton_self _), rfl⟩

theorem dep_homeNoted (s : State) (c src job : Nat) (b : List Byte) (win : Option Nat) :
    ∃ d ∈ (recOf (homeNoted s c src job b win) c).deps, d.src = src := by
  unfold homeNoted
  split
  · exact dep_noteDep ..
  · exact (HomeWork.noteArrival (job := job) _ _).dep (dep_noteDep ..)

theorem homeNoted_grn (s : State) (c src job : Nat) (b : List Byte) (win : Option Nat) : (homeNoted s c src job b win).grn = s.grn := by
  unfold homeNoted
  split
  · exact noteDep_grn ..
  · rw [noteArrival_grn, noteDep_grn]

theorem performFlit_work (s : State) (c src job : Nat) (b : List Byte) (win : Option Nat) (bad : Bool) :
    HomeWork c src job (homeNoted s c src job b win) (performFlit s c src job b win bad) := by
  have lines : HomeWork c src job (homeNoted s c src job b win) (linesDone s c src job b win) :=
    .foldl (fun v y => .performLine ..) _ _
  have group : HomeWork c src job (homeNoted s c src job b win) (grouped s c src job b win) := by
    refine (lines.trans (.modHome ?_ ..)).trans (.linkDone _)
    exact fun _ => ⟨rfl, rfl, rfl⟩
  rw [performFlit_eq]
  split
  · exact group.trans (.endGroup ..)
  · exact group

theorem grouped_grn (s : State) (c src job : Nat) (b : List Byte) (win : Option Nat) :
    (grouped s c src job b win).grn = (linesDone s c src job b win).grn := by
  unfold grouped
  rw [linkDone_grn, modHome_grn]

/-- A line of a flit that is performed ends with its words, and with its mark unless the flit ends a group. -/
theorem performFlit_line {src job : Nat} {b : List Byte} {win : Option Nat} {k : Nat} {words : Line} {mark : Bool}
    (line : ∃ v, grnLine (linesDone s c src job b win) c k = some v ∧ v.words = words ∧ v.dirty = true ∧ v.poison = mark) :
    ∃ v, grnLine (performFlit s c src job b win bad) c k = some v ∧ v.words = words ∧ v.dirty = true ∧
      (flitField b 15 1 5 5 = 0 → v.poison = mark) := by
  obtain ⟨v, shown, rfl, dirty, rfl⟩ := line
  rw [← grnLine_congr (grouped_grn s c src job b win)] at shown
  rw [performFlit_eq]
  split
  · next ends =>
    obtain ⟨v', shown', words', dirty'⟩ := Shows.endGroup ⟨v, shown, rfl, dirty⟩ src job (endBlock b) (fieldAt b 28 4) bad
    exact ⟨v', shown', words', dirty', fun zero => absurd (ends.symm.trans zero) (by decide)⟩
  · exact ⟨v, shown, rfl, dirty, fun _ => rfl⟩

theorem linesDone_line {src job : Nat} {b : List Byte} {win : Option Nat} {y : Nat × Line × Bool} (mem : y ∈ flitLines b) :
    ∃ v, HomeWork c src job s v ∧ grnLine v c y.1 = grnLine s c y.1 ∧ grnLine (linesDone s c src job b win) c y.1 =
      grnLine (performLine c src (fieldAt b 20 4) (flitType b) (flitField b 24 4 31 29) v y) c y.1 := by
  obtain ⟨v, work, before, after⟩ := grnLine_foldl (c := c) (Inv := HomeWork c src job s)
    (f := performLine c src (fieldAt b 20 4) (flitType b) (flitField b 24 4 31 29)) (fun v y work => work.trans (.performLine ..))
    (fun v y k apart => grnLine_performLine_other apart) (flitLines_nodup b) mem (HomeWork.homeNoted s c src job b win)
  exact ⟨v, work, before.trans (grnLine_congr (homeNoted_grn ..) c _), after⟩

/-- A flit that is taken leaves the reception queue, and its flow expects the next. -/
def inTurn (s : State) (c src job i : Nat) (h : Held) : State :=
  consume (modHome s c src job fun x => { x with expect := (x.expect + 1) % 2 ^ 16, gap := false }) i h

theorem homeAt_inTurn (s : State) (c src job i : Nat) (h : Held) : homeAt (inTurn s c src job i h) c src job =
    { homeAt s c src job with expect := ((homeAt s c src job).expect + 1) % 2 ^ 16, gap := false } := by
  unfold inTurn
  rw [homeAt_congr (recOf_consume ..), homeAt_modHome _ _ _ _ _ ?_]
  exact fun _ => ⟨rfl, rfl⟩

theorem inTurn_grn (s : State) (c src job i : Nat) (h : Held) : (inTurn s c src job i h).grn = s.grn := by
  unfold inTurn
  rw [consume_grn, modHome_grn]

theorem rx_inTurn (s : State) (c src job i : Nat) (h : Held) : (inTurn s c src job i h).rhoa.rx = s.rhoa.rx.eraseIdx i := by
  unfold inTurn
  rw [rx_consume, modHome_rhoa]

theorem deps_inTurn (s : State) (c src job i : Nat) (h : Held) : (recOf (inTurn s c src job i h) c).deps = (recOf s c).deps := by
  unfold inTurn
  rw [recOf_consume, deps_modHome]

theorem lt_of_rxEntry (rx : rxEntry s i = some h) : i < s.rhoa.rx.length := by
  by_contra! out
  rw [rxEntry, List.getElem?_eq_none out] at rx
  exact absurd rx (by simp)

/-- What a performed flit leaves of its flow, of the reception queue and of the dependencies. -/
theorem performed_flow (rx : rxEntry s i = some h) (src job : Nat) (win : Option Nat) :
    let u := inTurn (performFlit s c src job h.bytes win bad) c src job i h
    (homeAt u c src job).expect = ((homeAt s c src job).expect + 1) % 2 ^ 16 ∧ (∃ more, u.rhoa.rx = s.rhoa.rx.eraseIdx i ++ more) ∧
      ∃ d ∈ (recOf u c).deps, d.src = src := by
  have work := performFlit_work s c src job h.bytes win bad
  have whole := (HomeWork.homeNoted s c src job h.bytes win).trans work
  refine ⟨?_, ?_, ?_⟩
  · rw [homeAt_inTurn]
    exact congrArg (fun n => (n + 1) % 2 ^ 16) whole.expect
  · obtain ⟨more, grown⟩ := whole.rx
    exact ⟨more, by rw [rx_inTurn, grown, List.eraseIdx_append_of_lt_length (lt_of_rxEntry rx)]⟩
  · rw [deps_inTurn]
    exact work.dep (dep_homeNoted ..)

end

/-! ### Lines that are not cached, flits out of turn and flits that may not write (R349, R351, R352) -/

section

variable {s : State} {i c type : Nat} {h : Held} {bad : Bool}

/-- What asking for fills has done: nothing but the Granary's list of fills is changed, and it holds the keys asked for. -/
def Asked (s : State) (c : Nat) (ks : List Nat) (u : State) : Prop :=
  ∃ fills, u = { s with grn := { s.grn with fills := fills } } ∧ (∀ k ∈ ks, grnKey c k ∈ fills) ∧ ∀ f ∈ s.grn.fills, f ∈ fills

theorem Asked.askFill {ks : List Nat} {u : State} (before : Asked s c ks u) (k : Nat) : Asked s c (ks ++ [k]) (askFill u c k) := by
  obtain ⟨fills, rfl, keys, kept⟩ := before
  unfold Machine.askFill
  split
  · next has =>
    refine ⟨fills, rfl, fun j mem => ?_, kept⟩
    rcases List.mem_append.mp mem with old | new
    · exact keys j old
    · rw [List.mem_singleton.mp new]
      simpa using has
  · refine ⟨fills ++ [grnKey c k], rfl, fun j mem => ?_, fun f mem => List.mem_append_left _ (kept f mem)⟩
    rcases List.mem_append.mp mem with old | new
    · exact List.mem_append_left _ (keys j old)
    · rw [List.mem_singleton.mp new]
      exact List.mem_append_right _ (List.mem_singleton_self _)

theorem asked_foldl (s : State) (c : Nat) (ks : List Nat) : Asked s c ks (ks.foldl (fun s k => askFill s c k) s) := by
  have more (l : List Nat) : ∀ ks u, Asked s c ks u → Asked s c (ks ++ l) (l.foldl (fun s k => askFill s c k) u) := by
    induction l with
    | nil => exact fun ks u before => by rwa [List.append_nil]
    | cons k l ih =>
      intro ks u before
      have rest := ih _ _ (before.askFill k)
      rwa [List.append_assoc] at rest
  exact more ks [] s ⟨s.grn.fills, rfl, by simp, fun _ => id⟩

/-- With its lines cached nothing is asked for. -/
theorem asked_cached {slots : List Nat} (cached : ∀ k ∈ slots, (grnLine s c k).isSome = true) : asked s c slots = s := by
  have none_ : (slots.filter fun k => (grnLine s c k).isNone) = [] := by
    rw [List.filter_eq_nil_iff]
    intro k mem
    simpa [← Option.isSome_iff_ne_none] using cached k mem
  rw [asked, none_, List.foldl_nil]

theorem taken_missing {b : List Byte} (exported : slotsExported s c ((flitLines b).map (·.1)) = true)
    (place : (placeOf s c (flitSrc b) ((flitLines b).map (·.1))).isSome = true) {k : Nat} (mem : k ∈ (flitLines b).map (·.1))
    (gone : grnLine s c k = none) : taken s c type b bad = none := by
  obtain ⟨win, place⟩ := Option.isSome_iff_exists.mp place
  have missing : ((flitLines b).map (·.1)).filter (fun k => (grnLine s c k).isNone) ≠ [] :=
    List.ne_nil_of_mem (List.mem_filter.mpr ⟨mem, by rw [gone]; rfl⟩)
  unfold taken
  rw [if_pos exported, place]
  dsimp only
  rw [if_pos missing, ite_self]

theorem taken_performs {b : List Byte} {win : Option Nat} (exported : slotsExported s c ((flitLines b).map (·.1)) = true)
    (place : placeOf s c (flitSrc b) ((flitLines b).map (·.1)) = some win) (free : linkHeld s c (flitSrc b) (flitDseq b) = false)
    (room : undoRoom s c (flitSrc b) (fieldAt b 20 4) (if type = 2 then .write else
      (homeOp s c (((flitLines b).map (·.1)).headD 0) (flitField b 24 4 31 29)).1) ((flitLines b).map (·.1)) = true)
    (cached : ∀ k ∈ (flitLines b).map (·.1), (grnLine s c k).isSome = true) :
    taken s c type b bad = some (performFlit s c (flitSrc b) (flitJob b) b win bad) := by
  have none_ : ((flitLines b).map (·.1)).filter (fun k => (grnLine s c k).isNone) = [] := by
    rw [List.filter_eq_nil_iff]
    intro k mem
    simpa [← Option.isSome_iff_ne_none] using cached k mem
  unfold taken
  rw [if_pos exported, place]
  dsimp only
  rw [free, if_neg Bool.false_ne_true, none_, if_neg (not_not_intro rfl), room, Bool.not_true, if_neg Bool.false_ne_true]

/-- The record of a flit that may not write. -/
def rejectedAt (s : State) (c : Nat) (b : List Byte) : State :=
  addWacks (((flitLines b).map (·.1)).foldl (fun s _ => rlDevCount s 5) s) c (flitSrc b) (flitJob b) [(flitDseq b, 2)]

theorem taken_rejects {b : List Byte} (refused : slotsExported s c ((flitLines b).map (·.1)) = false ∨
    placeOf s c (flitSrc b) ((flitLines b).map (·.1)) = none) (inside : flitField b 15 1 5 5 = 0) :
    taken s c type b bad = some (rejectedAt s c b) := by
  have refused : (if slotsExported s c ((flitLines b).map (·.1)) = true then placeOf s c (flitSrc b) ((flitLines b).map (·.1)) else none) = none := by
    rcases refused with a | a
    · rw [a, if_neg Bool.false_ne_true]
    · rw [a, ite_self]
  unfold taken
  rw [refused]
  dsimp only
  rw [inside, if_neg (by decide)]
  rfl

theorem homeAt_rejectedAt (s : State) (c : Nat) (b : List Byte) :
    (homeAt (rejectedAt s c b) c (flitSrc b) (flitJob b)).wacks = (homeAt s c (flitSrc b) (flitJob b)).wacks ++ [(flitDseq b, 2)] ∧
      (homeAt (rejectedAt s c b) c (flitSrc b) (flitJob b)).expect = (homeAt s c (flitSrc b) (flitJob b)).expect := by
  have same : homeAt (((flitLines b).map (·.1)).foldl (fun s _ => rlDevCount s 5) s) c (flitSrc b) (flitJob b) =
      homeAt s c (flitSrc b) (flitJob b) :=
    foldl_keeps (homeAt · c (flitSrc b) (flitJob b)) (fun v _ => homeAt_congr (recOf_rlDevCount ..) ..) _ s
  unfold rejectedAt addWacks
  rw [if_neg (by simp), homeAt_modHome _ _ _ _ _ ?_, same]
  · exact ⟨rfl, rfl⟩
  · exact fun _ => ⟨rfl, rfl⟩

theorem rejectedAt_grn (s : State) (c : Nat) (b : List Byte) : (rejectedAt s c b).grn = s.grn := by
  unfold rejectedAt
  rw [addWacks_grn]
  exact foldl_keeps State.grn (fun v _ => rlDevCount_grn ..) _ s

/-- A flit out of turn: its discard is counted, and the first after a gap asks for a GAP. -/
theorem takeDseq_other {take : State → Option State} (other : flitDseq h.bytes ≠ (homeAt s c (flitSrc h.bytes) (flitJob h.bytes)).expect) :
    let u := takeDseq s i h c take
    let f := homeAt s c (flitSrc h.bytes) (flitJob h.bytes)
    u.grn = s.grn ∧ (homeAt u c (flitSrc h.bytes) (flitJob h.bytes)).expect = f.expect ∧
      (after16 (flitDseq h.bytes) f.expect = true → (homeAt u c (flitSrc h.bytes) (flitJob h.bytes)).gap = true) := by
  intro u f
  have same : homeAt (rlDevCount s 0) c (flitSrc h.bytes) (flitJob h.bytes) = f := homeAt_congr (recOf_rlDevCount ..) ..
  have run : u = if (after16 (flitDseq h.bytes) f.expect && !f.gap) = true
      then consume (sendGap (modHome (rlDevCount s 0) c (flitSrc h.bytes) (flitJob h.bytes) fun x => { x with gap := true })
        (flitSrc h.bytes) (flitJob h.bytes) f.expect) i h
      else consume (rlDevCount s 0) i h := if_neg other
  by_cases asks : (after16 (flitDseq h.bytes) f.expect && !f.gap) = true
  · rw [if_pos asks] at run
    have home : homeAt u c (flitSrc h.bytes) (flitJob h.bytes) = { f with gap := true } := by
      rw [run, homeAt_congr (recOf_consume ..), homeAt_congr (recOf_sendGap ..), homeAt_modHome _ _ _ _ _ ?_, same]
      exact fun _ => ⟨rfl, rfl⟩
    refine ⟨?_, by rw [home], fun _ => by rw [home]⟩
    rw [run, consume_grn, sendGap_grn, modHome_grn, rlDevCount_grn]
  · rw [if_neg asks] at run
    have home : homeAt u c (flitSrc h.bytes) (flitJob h.bytes) = f := by
      rw [run, homeAt_congr (recOf_consume ..), same]
    refine ⟨?_, by rw [home], fun late => ?_⟩
    · rw [run, consume_grn, rlDevCount_grn]
    · rw [home]
      simpa [late] using asks

theorem takeDseq_next {take : State → Option State} {v : State} (here : flitDseq h.bytes = (homeAt s c (flitSrc h.bytes) (flitJob h.bytes)).expect)
    (took : take s = some v) : takeDseq s i h c take = inTurn v c (flitSrc h.bytes) (flitJob h.bytes) i h := by
  unfold takeDseq
  simp only [here, if_true, took]
  rfl

theorem takeDseq_waits {take : State → Option State} (here : flitDseq h.bytes = (homeAt s c (flitSrc h.bytes) (flitJob h.bytes)).expect)
    (waits : take s = none) : takeDseq s i h c take = s := by
  unfold takeDseq
  simp only [here, if_true, waits]

end

section

variable {s : State} {i c : Nat} {h : Held} {bad g : Bool}

/-- The type of a flit of peer writes, or of atomic operations. -/
abbrev homeType (g : Bool) : Nat := if g = true then 3 else 2

theorem homeType_eq_two : homeType g = 2 ↔ g = false := by
  cases g <;> decide

/-- The operation that a flit's undo record is opened with. -/
theorem homeOp0 (g : Bool) (s : State) (c k code : Nat) :
    (if homeType g = 2 then GrnOp.write else (homeOp s c k code).1) = if g = true then (homeOp s c k code).1 else .write := by
  cases g <;> rfl

/-- A flit that is neither in its turn nor welcome asks for no line. -/
theorem home_run_quiet (rx : rxEntry s i = some h) (own : toGate s h.bytes = false) (job : ctxOfJob s (flitJob h.bytes) = some c)
    (kind : flitType h.bytes = homeType g)
    (quiet : flitDseq h.bytes ≠ (homeAt s c (flitSrc h.bytes) (flitJob h.bytes)).expect ∨
      slotsExported s c ((flitLines h.bytes).map (·.1)) = false ∨ placeOf s c (flitSrc h.bytes) ((flitLines h.bytes).map (·.1)) = none) :
    exec (homeRow g i bad) s = .next (takeDseq s i h c fun v => taken v c (homeType g) h.bytes bad) := by
  have none_ : ¬(flitDseq h.bytes = (homeAt s c (flitSrc h.bytes) (flitJob h.bytes)).expect && slotsExported s c ((flitLines h.bytes).map (·.1)) &&
      (placeOf s c (flitSrc h.bytes) ((flitLines h.bytes).map (·.1))).isSome) = true := by
    simp only [Bool.and_eq_true, decide_eq_true_eq, not_and, Bool.not_eq_true, and_imp]
    intro turn exported
    rcases quiet with a | a | a
    · exact absurd turn a
    · exact absurd (a.symm.trans exported) (by decide)
    · rw [a, Option.isSome_none]
  rw [homeRow_run, askFills_eq rx kind own job, if_neg none_, homeWrite_eq rx kind own job]

/-- A flit in its turn that may write first asks for the lines that are not cached. -/
theorem home_run_asks (rx : rxEntry s i = some h) (own : toGate s h.bytes = false) (job : ctxOfJob s (flitJob h.bytes) = some c)
    (kind : flitType h.bytes = homeType g) (turn : flitDseq h.bytes = (homeAt s c (flitSrc h.bytes) (flitJob h.bytes)).expect)
    (exported : slotsExported s c ((flitLines h.bytes).map (·.1)) = true)
    (place : (placeOf s c (flitSrc h.bytes) ((flitLines h.bytes).map (·.1))).isSome = true) :
    exec (homeRow g i bad) s = .next (takeDseq (asked s c ((flitLines h.bytes).map (·.1))) i h c fun v => taken v c (homeType g) h.bytes bad) := by
  have all : (flitDseq h.bytes = (homeAt s c (flitSrc h.bytes) (flitJob h.bytes)).expect && slotsExported s c ((flitLines h.bytes).map (·.1)) &&
      (placeOf s c (flitSrc h.bytes) ((flitLines h.bytes).map (·.1))).isSome) = true := by
    rw [decide_eq_true turn, exported, place]
    rfl
  obtain ⟨fills, same, _⟩ := asked_foldl s c (((flitLines h.bytes).map (·.1)).filter fun k => (grnLine s c k).isNone)
  have same : asked s c ((flitLines h.bytes).map (·.1)) = { s with grn := { s.grn with fills := fills } } := same
  rw [homeRow_run, askFills_eq rx kind own job, if_pos all, same,
    homeWrite_eq (s := { s with grn := { s.grn with fills := fills } }) rx kind own job]

/-- In its turn, with all its lines cached and room for it, a flit is performed. -/
theorem home_performs (rx : rxEntry s i = some h) (own : toGate s h.bytes = false) (job : ctxOfJob s (flitJob h.bytes) = some c)
    (kind : flitType h.bytes = homeType g) (turn : flitDseq h.bytes = (homeAt s c (flitSrc h.bytes) (flitJob h.bytes)).expect)
    (exported : slotsExported s c ((flitLines h.bytes).map (·.1)) = true) {win : Option Nat}
    (place : placeOf s c (flitSrc h.bytes) ((flitLines h.bytes).map (·.1)) = some win)
    (free : linkHeld s c (flitSrc h.bytes) (flitDseq h.bytes) = false)
    (room : undoRoom s c (flitSrc h.bytes) (fieldAt h.bytes 20 4) (if g = true then
      (homeOp s c (((flitLines h.bytes).map (·.1)).headD 0) (flitField h.bytes 24 4 31 29)).1 else .write) ((flitLines h.bytes).map (·.1)) = true)
    (cached : ∀ k ∈ (flitLines h.bytes).map (·.1), (grnLine s c k).isSome = true) :
    exec (homeRow g i bad) s = .next (inTurn (performFlit s c (flitSrc h.bytes) (flitJob h.bytes) h.bytes win bad) c (flitSrc h.bytes)
      (flitJob h.bytes) i h) := by
  rw [← homeOp0] at room
  rw [home_run_asks rx own job kind turn exported (by rw [place]; rfl), asked_cached cached,
    takeDseq_next turn (taken_performs exported place free room cached)]

/-- In its turn, with a line that is not cached, a flit waits, and that line is asked for. -/
theorem home_asks (rx : rxEntry s i = some h) (own : toGate s h.bytes = false) (job : ctxOfJob s (flitJob h.bytes) = some c)
    (kind : flitType h.bytes = homeType g) (turn : flitDseq h.bytes = (homeAt s c (flitSrc h.bytes) (flitJob h.bytes)).expect)
    (exported : slotsExported s c ((flitLines h.bytes).map (·.1)) = true)
    (place : (placeOf s c (flitSrc h.bytes) ((flitLines h.bytes).map (·.1))).isSome = true) {k : Nat}
    (mem : k ∈ (flitLines h.bytes).map (·.1)) (gone : grnLine s c k = none) :
    ∃ fills, exec (homeRow g i bad) s = .next { s with grn := { s.grn with fills := fills } } ∧
      ∀ k ∈ (flitLines h.bytes).map (·.1), grnLine s c k = none → grnKey c k ∈ fills := by
  obtain ⟨fills, same, keys, _⟩ := asked_foldl s c (((flitLines h.bytes).map (·.1)).filter fun k => (grnLine s c k).isNone)
  have same : asked s c ((flitLines h.bytes).map (·.1)) = { s with grn := { s.grn with fills := fills } } := same
  refine ⟨fills, ?_, fun k mem gone => keys k (List.mem_filter.mpr ⟨mem, by rw [gone]; rfl⟩)⟩
  rw [home_run_asks rx own job kind turn exported place, same]
  exact congrArg Host.Outcome.next
    (takeDseq_waits turn (taken_missing (s := { s with grn := { s.grn with fills := fills } }) exported place mem gone))

/-- A line of a performed flit of writes. -/
theorem written_line (kind : flitType h.bytes = 2) {win : Option Nat} {y : Nat × Line × Bool} (mem : y ∈ flitLines h.bytes) :
    ∃ v, grnLine (inTurn (performFlit s c (flitSrc h.bytes) (flitJob h.bytes) h.bytes win bad) c (flitSrc h.bytes) (flitJob h.bytes) i h) c y.1 = some v ∧
      v.words = y.2.1 ∧ v.dirty = true ∧ (flitField h.bytes 15 1 5 5 = 0 → v.poison = y.2.2) := by
  obtain ⟨w, _, _, after⟩ := linesDone_line (s := s) (c := c) (src := flitSrc h.bytes) (job := flitJob h.bytes) (win := win) mem
  rw [grnLine_congr (inTurn_grn ..)]
  exact performFlit_line (by rw [after]; exact grnLine_performLine_write kind)

/-- A line of a performed flit of atomic operations. -/
theorem operated_line (kind : flitType h.bytes = 3) {win : Option Nat} {y : Nat × Line × Bool} (mem : y ∈ flitLines h.bytes) {d : HDecl} {l : GLine}
    (cover : coverOf (imageOf s c) y.1 = some d) (line : grnLine s c y.1 = some l) {q : Nat}
    (prime : linePrime (imageOf s c) d (pieceOf (imageOf s c) (deviceId s) d 0) ((y.1 : Int) - pieceSlot d 0) = q)
    (defined : flitField h.bytes 24 4 31 29 ≠ 0 ∨ q ≠ 0) :
    ∃ v, grnLine (inTurn (performFlit s c (flitSrc h.bytes) (flitJob h.bytes) h.bytes win bad) c (flitSrc h.bytes) (flitJob h.bytes) i h) c y.1 = some v ∧
      v.words = grnApply (atomOp d (flitField h.bytes 24 4 31 29) q) l.words y.2.1 ∧ v.dirty = true ∧
      (flitField h.bytes 15 1 5 5 = 0 → v.poison = (l.poison || y.2.2)) := by
  obtain ⟨w, work, before, after⟩ := linesDone_line (s := s) (c := c) (src := flitSrc h.bytes) (job := flitJob h.bytes) (win := win) mem
  have device : deviceId w = deviceId s := csrField_congr work.device 14 0
  rw [grnLine_congr (inTurn_grn ..)]
  refine performFlit_line ?_
  rw [after]
  exact grnLine_performLine_atomic (by rw [kind]; decide) (work.image ▸ cover) (before.trans line) (by rw [work.image, device]; exact prime) defined

end

/-- Settles O39: the parts of the home's work keep the flow's DSEQ and the flits that wait, the lines of a flit are distinct, and
the end of a group marks lines without changing words. -/
theorem homePerformsPeerWrites : Obligations.HomePerformsPeerWrites := by
  unfold Obligations.HomePerformsPeerWrites
  intro s i c h bad rx own job b src f ls slots code next taken asks g kind row op0
  refine ⟨fun turn exported place free room => ⟨fun cached => ?_, ?_⟩, fun other => ?_, fun turn refused inside => ?_⟩
  · obtain ⟨win, place⟩ := Option.isSome_iff_exists.mp place
    refine completes_of (home_performs rx own job kind turn exported place free room cached)
      ⟨performed_flow rx src (flitJob b) win, fun write y mem => ?_, fun atomic y mem d l cover line => ?_⟩
    · exact written_line (kind.trans (homeType_eq_two.mpr write)) mem
    · intro q defined
      exact operated_line (kind.trans (if_pos atomic)) mem cover line rfl defined
  · rintro ⟨k, mem, gone⟩
    obtain ⟨fills, run, keys⟩ := home_asks rx own job kind turn exported place mem gone
    exact completes_of run ⟨keys, rfl, rfl, rfl⟩
  · exact completes_of (home_run_quiet rx own job kind (.inl other)) (takeDseq_other other)
  · obtain ⟨wacks, expect⟩ := homeAt_rejectedAt s c b
    refine completes_of ((home_run_quiet rx own job kind (.inr refused)).trans (congrArg Host.Outcome.next
      (takeDseq_next turn (taken_rejects refused inside)))) ⟨?_, ?_, ?_⟩
    · rw [inTurn_grn, rejectedAt_grn]
    · exact (congrArg Home.expect (homeAt_inTurn ..)).trans (congrArg (fun n => (n + 1) % 2 ^ 16) expect)
    · exact (congrArg Home.wacks (homeAt_inTurn ..)).trans wacks

end Sys2Proof.Machine
end
